-- ==== Sys2Proof/Word.lean ====
section
/-! DEFINITION. The words of the Agkomas part: widths the spec fixes once (R1, R38, R88). -/
namespace Sys2Proof

/-- A 32-bit party mask (R38). -/
abbrev Label := BitVec 32
/-- A 72-bit virtual address (R1). -/
abbrev Addr := BitVec 72
/-- A scalar register's contents (R88). -/
abbrev Word := BitVec 64
abbrev Byte := BitVec 8
/-- An instruction word (R40). -/
abbrev IWord := BitVec 32

/-- A register's value with its label (R38). -/
structure Lv (w : Nat) where
  v : BitVec w
  l : Label
  deriving DecidableEq, Repr

/-- Zero with the empty label: what a claim with CV = 0 leaves in every register (R89). -/
abbrev Lv.zero (w : Nat) : Lv w := ⟨0, 0⟩

end Sys2Proof
end

