-- ==== Sys2Proof/RvSyntax.lean ====
section
/-! DEFINITION. The instructions of the Jetty cores' base set: RV64IMAC, Zicsr, Zifencei, Zba, Zbb (R393). A
compressed word decodes to the instruction it abbreviates. -/
namespace Sys2Proof

/-- Register-register and register-immediate computations of RV64IM, Zba and Zbb. -/
inductive RvOp where
  | add | sub | sll | slt | sltu | xor | srl | sra | or | and
  | addw | subw | sllw | srlw | sraw
  | mul | mulh | mulhsu | mulhu | div | divu | rem | remu | mulw | divw | divuw | remw | remuw
  | addUw | sh1add | sh2add | sh3add | sh1addUw | sh2addUw | sh3addUw | slliUw
  | andn | orn | xnor | max | maxu | min | minu | rol | ror | rolw | rorw
  | clz | ctz | cpop | clzw | ctzw | cpopw | sextB | sextH | zextH | orcB | rev8
  deriving DecidableEq, Repr

/-- Branch conditions. -/
inductive RvCond where | eq | ne | lt | ge | ltu | geu
  deriving DecidableEq, Repr

/-- Read-modify-write operations of the A extension. -/
inductive RvAmo where | swap | add | xor | and | or | min | max | minu | maxu
  deriving DecidableEq, Repr

/-- A standard instruction of a Jetty core (R393). -/
inductive RvInstr where
  | lui (rd : BitVec 5) (imm : BitVec 64)
  | auipc (rd : BitVec 5) (imm : BitVec 64)
  | jal (rd : BitVec 5) (off : BitVec 64)
  | jalr (rd rs1 : BitVec 5) (off : BitVec 64)
  | branch (c : RvCond) (rs1 rs2 : BitVec 5) (off : BitVec 64)
  | load (size : Nat) (signed : Bool) (rd rs1 : BitVec 5) (off : BitVec 64)
  | store (size : Nat) (rs1 rs2 : BitVec 5) (off : BitVec 64)
  | op (o : RvOp) (rd rs1 rs2 : BitVec 5)
  | opImm (o : RvOp) (rd rs1 : BitVec 5) (imm : BitVec 64)
  | lr (dbl : Bool) (rd rs1 : BitVec 5)
  | sc (dbl : Bool) (rd rs1 rs2 : BitVec 5)
  | amo (o : RvAmo) (dbl : Bool) (rd rs1 rs2 : BitVec 5)
  | csr (op : BitVec 2) (imm : Bool) (rd rs1 : BitVec 5) (num : BitVec 12)
  | fence | fenceI | ecall | ebreak | mret | wfi
  deriving DecidableEq, Repr

end Sys2Proof
end

