-- ==== Sys2Proof/Syntax.lean ====
section
/-! DEFINITION. The instructions and events of Agkomas: one constructor per row of the opcode table, first the words
of the Jetty harts and the events, then the words of the tile cores, each part in the order of the table.
Field names are the table's; in E-class words ac, rl, sc, aa and sb (ACQ, REL, SC, AA, SB) are the fields of R46. The stop bit is no
field of an instruction: it ends the group (R40, R41). A row without an encoding is an event: one indivisible
step of the part (95_what_each_step_holds). -/
namespace Sys2Proof

inductive Instr where
  /-- JX_RECV (R418). Takes the next action on an episode port and arms the budgets. -/
  | jxRecv (t : BitVec 5) (s : BitVec 5) (d : BitVec 5)
  /-- JX_SEND (R418). Commits an observation on an episode port. -/
  | jxSend (t : BitVec 5) (s : BitVec 5) (d : BitVec 5)
  /-- JX_WAIT (R418). Returns the ports with pending actions or ended mailboxes, stalling until one exists. -/
  | jxWait (s : BitVec 5) (d : BitVec 5)
  /-- JX_END (R418). Ends the bound episode and traps to M mode. -/
  | jxEnd
  /-- JX_ECREATE (R418). Creates an episode from a descriptor. -/
  | jxEcreate (s : BitVec 5) (d : BitVec 5)
  /-- JX_ELOAD (R418). Binds an episode to this hart. -/
  | jxEload (s : BitVec 5) (d : BitVec 5)
  /-- JX_EPARK (R418). Unbinds the hart's episode into state parked. -/
  | jxEpark (d : BitVec 5)
  /-- JX_MABORT (R418). Stops an episode as a monitor abort. -/
  | jxMabort (s : BitVec 5) (d : BitVec 5)
  /-- JX_WAIT_RESUME (R417). A stalled jx.wait retires once a listed port has an action or has ended. -/
  | jxWaitResume
  /-- CLAIM (R20). An idle core chooses a candidate, claims it indivisibly and restores its state. -/
  | claim
  /-- LANDING_ARRIVAL (R27). Data of a landing request arrives, enters the landing buffer and thaws a frozen domain. -/
  | landingArrival (k : Nat)
  /-- LANDING_TIMEOUT (R29). A freeze longer than 65,536 cycles traps every continuation of the domain. -/
  | landingTimeout
  /-- SAFE_POINT_OVERRUN (R130). A group that would issue at safe-point distance 4,097 traps. -/
  | safePointOverrun
  /-- TRAP (R34). A group's trap sets the TR_ registers, drains urgently, writes the frame and suspends the record by fault. -/
  | trap (c : BitVec 8) (info : BitVec 64) (addr : Addr)
  /-- FAULT_QUEUE_POST (R428). A trapped record is appended to the fault-queue ring, held while the ring is full. -/
  | faultQueuePost
  /-- SLICE_END (R432). DS_SLICE ticks after the claim, the record's slice ends. -/
  | sliceEnd
  /-- PRIORITY_PREEMPTION (R432). An untakeable higher-priority candidate ends the slice of a lower-priority running record. -/
  | priorityPreemption
  /-- WAIT_CONDITION_MET (R21). A waiting record's condition comes true and the record becomes ready. -/
  | waitConditionMet (r : BitVec 56)
  /-- WAIT_DEADLINE (R18). The package timer reaches a timer wait's deadline. -/
  | waitDeadline (r : BitVec 56)
  /-- READY_TABLE_ADMIT (R427). A record held back by a full ready table enters it once a place frees. -/
  | readyTableAdmit (r : BitVec 56)
  /-- SPIN_SUSPEND (R122). After CP_SPIN cycles a .s wait suspends the continuation at its safe point. -/
  | spinSuspend
  /-- HELD_GROUP_ISSUE (R122). A group held by a wait, fence or resource limit issues once its condition holds. -/
  | heldGroupIssue
  /-- BARRIER_ARRIVAL (R119). An arrival reaches a local barrier unit and may complete its phase. -/
  | barrierArrival (n : BitVec 4) (vf : BitVec 9)
  /-- PAGE_WALK (R152). A walker translates an address through five levels and faults or fills the TLBs. -/
  | pageWalk (va : Addr) (vf : BitVec 9) (kind : BitVec 2) (prv : BitVec 2)
  /-- RDS (R173). The home handles a request to read a copy of a line. -/
  | rds (line : Nat) (r : Nat)
  /-- RDX (R173). The home handles a request for a writable copy. -/
  | rdx (line : Nat) (r : Nat)
  /-- UPG (R173). The home handles a request to make a held copy writable. -/
  | upg (line : Nat) (r : Nat)
  /-- WBD (R173). The home takes an eviction with data and writes memory. -/
  | wbd (line : Nat) (r : Nat)
  /-- EVC (R173). The home removes a holder that evicts without data. -/
  | evc (line : Nat) (r : Nat)
  /-- FWDS (R172). An owner sends a copy to the requester and becomes O. -/
  | fwds (line : Nat) (o : Nat)
  /-- FWDX (R173). An owner sends its data to the requester and becomes I. -/
  | fwdx (line : Nat) (o : Nat)
  /-- INV (R174). A sharer invalidates its copy and acknowledges to the requester. -/
  | inv (line : Nat) (o : Nat)
  /-- DAT (R172). A requester receives data with the granted state. -/
  | dat (line : Nat) (r : Nat)
  /-- CMP_MESSAGE (R172). A requester receives the acknowledgement count, or a WbD or Evc completes. -/
  | cmpMessage (line : Nat) (r : Nat)
  /-- ACK (R172). A requester receives an invalidation acknowledgement. -/
  | ack (line : Nat) (r : Nat)
  /-- DON (R174). The home closes the line's transaction and opens the next. -/
  | don (line : Nat) (r : Nat)
  /-- DIE_LINK_FAILURE (R176). A die-to-die link fails: transactions complete, lines are poisoned, accesses complete with link fault. -/
  | dieLinkFailure (a b : Nat)
  /-- UNCORRECTABLE_ERROR (R503). An uncorrectable error poisons the line and is logged. -/
  | uncorrectableError (pa : BitVec 56)
  /-- CORRECTABLE_ERROR (R503). A correctable error is corrected and counted in PT_CERR. -/
  | correctableError (pa : BitVec 56)
  /-- COMMAND_COMPLETION (R200). A tagged command makes its last effects, sets its tag and clears busy. -/
  | commandCompletion (k : Nat)
  /-- OVERLAY_LOAD_COMPLETE (R220). An overlay load ends and the idle half becomes valid or failed. -/
  | overlayLoadComplete
  /-- CP_CSZ_WRITE (R194). A write of CP_CSZ writes back the cache portion and changes its size. -/
  | cpCszWrite (v : BitVec 64)
  /-- FP_SEED_WRITE (R77). A write of FP_SEED also clears FP_SCTR. -/
  | fpSeedWrite (v : BitVec 64) (lbl : Label)
  /-- FP_VCFG_WRITE (R227). A write of FP_VCFG sets the vector configuration and joins its label to the context label. -/
  | fpVcfgWrite (v : BitVec 64) (lbl : Label)
  /-- FP_MODE_WRITE (R466). A write of FP_MODE sets the mode and joins its label to the context label. -/
  | fpModeWrite (v : BitVec 64) (lbl : Label)
  /-- PATTERN_LOAD_END (R267). A pattern load ends and the slot becomes valid or failed. -/
  | patternLoadEnd
  /-- BLOCK_PORT_WRITE (R284). At its port tick a block's partial sum replaces the port's contents and sets flags. -/
  | blockPortWrite
  /-- SUBARRAY_IDLE_OFF (R283). After MX_IDLE idle ticks a sub-array turns off. -/
  | subarrayIdleOff (i : BitVec 2)
  /-- SUBARRAY_ON (R283). MX_WAKE cycles after waking starts, a sub-array is on. -/
  | subarrayOn (i : BitVec 2)
  /-- MX_POOL_WRITE (R297). A write of MX_POOL, once the engine is idle, pools or unpools it and zeroes its stores. -/
  | mxPoolWrite (v : BitVec 64)
  /-- TASK_START (R301). The scheduler starts the oldest ready tile task on free pooled engines. -/
  | taskStart (k : Nat)
  /-- TASK_END (R305). A tile task succeeds or fails, credits DONE and writes ST. -/
  | taskEnd (k : Nat)
  /-- NODE_PULL (R325). A tree node pulls one child's contribution or result and combines it. -/
  | nodePull (h : BitVec 32) (seg : Nat) (node : Nat)
  /-- TAKE_DELIVERY (R337). A complete segment's result, counts and take record are written and the tag is set. -/
  | takeDelivery (h : BitVec 32) (seg : Nat) (member : Nat)
  /-- CONFIG_REFILL (R321). A router reads a missing tree configuration and replays the held flit. -/
  | configRefill (h : BitVec 32)
  /-- CL_RING_WRITE (R355). A write of CL_RING waits for staged trees to freeze and changes the staging ways. -/
  | clRingWrite (v : BitVec 64)
  /-- INSTRUCTION_BUDGET_EXPIRY (R419). IREM reaching zero stops the episode and aborts its mailboxes. -/
  | instructionBudgetExpiry
  /-- WALL_BUDGET_EXPIRY (R419). The package timer reaching WDL stops the episode. -/
  | wallBudgetExpiry (ep : BitVec 12)
  /-- EPISODE_WIPE_COMPLETE (R401). The episode's windows are zeroed and invalidated, and WP is cleared. -/
  | episodeWipeComplete (ep : BitVec 12)
  /-- JWI (R420). A hart takes the Jetty watchdog interrupt for a pending notice. -/
  | jwi
  /-- JACK_WRITE (R420). A write of jack clears the named episode's notice. -/
  | jackWrite (v : BitVec 64)
  /-- POOL_SLOT_ENQUEUE (R436). A pending launch slot moves into its stage ring when space frees. -/
  | poolSlotEnqueue (part : BitVec 4) (slot : Nat)
  /-- GRAPH_ACTIVATION (R443). The walker serves one node activation of a graph. -/
  | graphActivation
  /-- DS_ABORT_GO (R433). A DS_ABORT write with GO = 1 urgently suspends the named core's record as a firmware abort. -/
  | dsAbortGo (core : BitVec 8)
  /-- POLICY_INSTALL_COMPLETE (R474). A policy image is verified, RES written and the slot set valid or rejected. -/
  | policyInstallComplete (k : Nat)
  /-- SCRUB_LINE (R494). The background scrub zeroes released memory and its frame labels. -/
  | scrubLine
  /-- FRAME_MOVE (R497). One frame of a retiring set is recalled, copied and forwarded. -/
  | frameMove
  /-- MEDIA_ENTRY_TAKE (R508). A media engine takes the next valid ring entry of an enabled stream. -/
  | mediaEntryTake (e : BitVec 4) (c : BitVec 4)
  /-- MEDIA_DECODE (R510). A decode command decodes one unit and outputs the next frame as patches. -/
  | mediaDecode (e : BitVec 4) (c : BitVec 4)
  /-- MEDIA_FLUSH (R510). A flush command outputs every frame still held for display. -/
  | mediaFlush (e : BitVec 4) (c : BitVec 4)
  /-- MEDIA_RESET (R510). A reset command drops references and clears LBL and CORRUPT. -/
  | mediaReset (e : BitVec 4) (c : BitVec 4)
  /-- MEDIA_COMPLETION (R513). The engine writes the completion record, credits its barrier and sets the tag. -/
  | mediaCompletion (e : BitVec 4) (c : BitVec 4)
  /-- MS_CTL_WRITE (R525). A write of a stream context takes effect, deferred while a command is in progress. -/
  | msCtlWrite (e : BitVec 4) (c : BitVec 4) (v : BitVec 64)
  /-- HOST_MEMORY_READ (R469). A host read of device memory is served after the gate judges it. -/
  | hostMemoryRead (port : BitVec 1) (off : BitVec 56) (n : Nat)
  /-- HOST_MEMORY_WRITE (R518). A host write reaches device memory through a BAR. -/
  | hostMemoryWrite (port : BitVec 1) (off : BitVec 56) (data : List (BitVec 8))
  /-- HOST_ATOMIC (R517). A PCIe AtomicOp CAS, FetchAdd or Swap is completed by the device. -/
  | hostAtomic (port : BitVec 1) (off : BitVec 56) (op : BitVec 2) (size : Nat) (x y : BitVec 64)
  /-- SPDM_GET_VERSION (R517). Answers an SPDM GET_VERSION request. -/
  | spdmGetVersion (port : BitVec 1)
  /-- SPDM_GET_CAPABILITIES (R517). Answers an SPDM GET_CAPABILITIES request. -/
  | spdmGetCapabilities (port : BitVec 1)
  /-- SPDM_NEGOTIATE_ALGORITHMS (R517). Answers an SPDM NEGOTIATE_ALGORITHMS request. -/
  | spdmNegotiateAlgorithms (port : BitVec 1)
  /-- SPDM_GET_DIGESTS (R517). Answers an SPDM GET_DIGESTS request. -/
  | spdmGetDigests (port : BitVec 1)
  /-- SPDM_GET_CERTIFICATE (R517). Answers an SPDM GET_CERTIFICATE request. -/
  | spdmGetCertificate (port : BitVec 1)
  /-- SPDM_CHALLENGE (R517). Answers an SPDM CHALLENGE request. -/
  | spdmChallenge (port : BitVec 1)
  /-- SPDM_GET_MEASUREMENTS (R533). Returns the measurements of the running images. -/
  | spdmGetMeasurements (port : BitVec 1)
  /-- SPDM_KEY_EXCHANGE (R517). Answers an SPDM KEY_EXCHANGE request. -/
  | spdmKeyExchange (port : BitVec 1)
  /-- SPDM_FINISH (R517). Completes an SPDM session handshake. -/
  | spdmFinish (port : BitVec 1)
  /-- SPDM_END_SESSION (R517). Ends an SPDM session. -/
  | spdmEndSession (port : BitVec 1)
  /-- MB_VERSION (R522). A management mailbox request returns the image versions and the rollback counter. -/
  | mbVersion
  /-- MB_IMAGE_WRITE (R522). A management mailbox request writes image bytes into the flash staging area. -/
  | mbImageWrite
  /-- MB_IMAGE_COMMIT (R522). A management mailbox request verifies the staged image and makes it the next boot image. -/
  | mbImageCommit
  /-- MB_LIFE_CYCLE_TRANSITION (R530). A signed token moves the life-cycle state and wipes the package. -/
  | mbLifeCycleTransition
  /-- MB_THROTTLE (R522). A management mailbox request sets a floor on pulse swallowing for selected dies. -/
  | mbThrottle
  /-- MB_LOG_DRAIN (R522). A management mailbox request returns the oldest log entries and advances HEAD. -/
  | mbLogDrain
  /-- MC_HEAD_WRITE (R521). A write of MC_HEAD consumes log entries, ignored if it would move backwards or past TAIL. -/
  | mcHeadWrite (v : BitVec 64)
  /-- MSI_RAISE (R524). A write raises an MSI-X vector of the port, or drops and counts it. -/
  | msiRaise (port : BitVec 1) (v : BitVec 64) (lbl : Label)
  /-- DEVICE_REGISTER_WRITE (R519). A doubleword write to a device-region register that has no row of its own. -/
  | deviceRegisterWrite (off : BitVec 48) (v : BitVec 64)
  /-- QL_TRAIN (R526). A write of QL_CTL with TRAIN = 1 starts training a Quaylink port. -/
  | qlTrain (p : Nat)
  /-- QL_ENABLE_WRITE (R526). A write of QL_CTL.EN enables a port or takes an up port down as a link failure. -/
  | qlEnableWrite (p : Nat) (v : BitVec 64)
  /-- QL_TRAIN_COMPLETE (R526). Training ends with the port up, or down and logged. -/
  | qlTrainComplete (p : Nat) (lanes : Nat)
  /-- QUAYLINK_FLIT (R527). A flit is received, checked and routed onward or delivered. -/
  | quaylinkFlit (p : Nat) (dst src : BitVec 20) (ch : BitVec 15) (addr : BitVec 56) (data : List (BitVec 8)) (lbl : Label)
  /-- QUAYLINK_PORT_DOWN (R527). Retries failing for 1 ms take a port down and raise a link failure. -/
  | quaylinkPortDown (p : Nat)
  /-- COLD_RESET (R531). A cold reset resets the package and starts the wipe and boot. -/
  | coldReset
  /-- BOOT (R529). Core 0 of I/O die 4 loads and verifies the boot image, or stays in recovery. -/
  | boot
  /-- THERMAL_THROTTLE (R532). A junction above 105 °C forces pulse swallowing on its die. -/
  | thermalThrottle (die : BitVec 2)
  /-- POWER_LIMIT_THROTTLE (R532). Module power above 2,800 W over 1 ms forces pulse swallowing. -/
  | powerLimitThrottle
  /-- HART_INSTRUCTION (R393). A Jetty hart executes one standard RV64 instruction of its profile, including mret and CSR accesses, with the access checks of R394. -/
  | hartInstruction (rv : RvInstr) (compressed : Bool)
  /-- MACHINE_TIMER_INTERRUPT (R393). A hart takes MTI when the package timer reaches its mtimecmp. -/
  | machineTimerInterrupt
  /-- THERMAL_THROTTLE_RELEASE (R532). A die's hottest junction falls back to 105 °C or below and the forced swallowing of half its pulses ends. -/
  | thermalThrottleRelease (die : BitVec 2)
  /-- POWER_LIMIT_RELEASE (R532). Module power over 1 ms falls back within 2,800 W and the forced swallowing eases to the firmware floor. -/
  | powerLimitRelease
  /-- ADD (R91). Writes sa + sb, modulo 2^64, to sd at tick 1. -/
  | add (q : BitVec 4) (d : BitVec 5) (a : BitVec 5) (b : BitVec 5)
  /-- SUB (R91). Writes sa − sb to sd. -/
  | sub (q : BitVec 4) (d : BitVec 5) (a : BitVec 5) (b : BitVec 5)
  /-- MUL (R91). Writes the low 64 bits of sa × sb to sd at tick 3. -/
  | mul (q : BitVec 4) (d : BitVec 5) (a : BitVec 5) (b : BitVec 5)
  /-- MULH (R91). Writes the high 64 bits of the signed 128-bit product to sd. -/
  | mulh (q : BitVec 4) (d : BitVec 5) (a : BitVec 5) (b : BitVec 5)
  /-- MULHN (R91). Writes the high 64 bits of the unsigned 128-bit product to sd. -/
  | mulhn (q : BitVec 4) (d : BitVec 5) (a : BitVec 5) (b : BitVec 5)
  /-- DIV (R92). Writes the signed quotient truncated toward zero, with the edge cases fixed by R92. -/
  | div (q : BitVec 4) (d : BitVec 5) (a : BitVec 5) (b : BitVec 5)
  /-- DIVN (R92). Writes the unsigned quotient, with the edge cases fixed by R92. -/
  | divn (q : BitVec 4) (d : BitVec 5) (a : BitVec 5) (b : BitVec 5)
  /-- REM (R92). Writes the signed remainder. -/
  | rem (q : BitVec 4) (d : BitVec 5) (a : BitVec 5) (b : BitVec 5)
  /-- REMN (R92). Writes the unsigned remainder. -/
  | remn (q : BitVec 4) (d : BitVec 5) (a : BitVec 5) (b : BitVec 5)
  /-- AND (R91). Writes the bitwise AND of sa and sb. -/
  | and (q : BitVec 4) (d : BitVec 5) (a : BitVec 5) (b : BitVec 5)
  /-- OR (R91). Writes the bitwise OR of sa and sb. -/
  | or (q : BitVec 4) (d : BitVec 5) (a : BitVec 5) (b : BitVec 5)
  /-- XOR (R91). Writes the bitwise XOR of sa and sb. -/
  | xor (q : BitVec 4) (d : BitVec 5) (a : BitVec 5) (b : BitVec 5)
  /-- ANDN (R91). Writes sa & ~sb. -/
  | andn (q : BitVec 4) (d : BitVec 5) (a : BitVec 5) (b : BitVec 5)
  /-- SHL (R91). Shifts sa left by sb<5:0>. -/
  | shl (q : BitVec 4) (d : BitVec 5) (a : BitVec 5) (b : BitVec 5)
  /-- SHR (R91). Shifts sa logically right by sb<5:0>. -/
  | shr (q : BitVec 4) (d : BitVec 5) (a : BitVec 5) (b : BitVec 5)
  /-- SAR (R91). Shifts sa arithmetically right by sb<5:0>. -/
  | sar (q : BitVec 4) (d : BitVec 5) (a : BitVec 5) (b : BitVec 5)
  /-- MIN (R91). Writes the signed minimum. -/
  | min (q : BitVec 4) (d : BitVec 5) (a : BitVec 5) (b : BitVec 5)
  /-- MAX (R91). Writes the signed maximum. -/
  | max (q : BitVec 4) (d : BitVec 5) (a : BitVec 5) (b : BitVec 5)
  /-- MINN (R91). Writes the unsigned minimum. -/
  | minn (q : BitVec 4) (d : BitVec 5) (a : BitVec 5) (b : BitVec 5)
  /-- MAXN (R91). Writes the unsigned maximum. -/
  | maxn (q : BitVec 4) (d : BitVec 5) (a : BitVec 5) (b : BitVec 5)
  /-- CLZ (R91). Counts the leading zero bits of sa. -/
  | clz (q : BitVec 4) (d : BitVec 5) (a : BitVec 5)
  /-- CTZ (R91). Counts the trailing zero bits of sa. -/
  | ctz (q : BitVec 4) (d : BitVec 5) (a : BitVec 5)
  /-- POPC (R91). Counts the one bits of sa. -/
  | popc (q : BitVec 4) (d : BitVec 5) (a : BitVec 5)
  /-- ROTL (R91). Rotates sa left by sb<5:0>. -/
  | rotl (q : BitVec 4) (d : BitVec 5) (a : BitVec 5) (b : BitVec 5)
  /-- ADDI (R91). Writes sa + sext(imm9). -/
  | addi (q : BitVec 4) (d : BitVec 5) (a : BitVec 5) (i : BitVec 9)
  /-- ANDI (R91). Writes sa AND sext(imm9). -/
  | andi (q : BitVec 4) (d : BitVec 5) (a : BitVec 5) (i : BitVec 9)
  /-- ORI (R91). Writes sa OR sext(imm9). -/
  | ori (q : BitVec 4) (d : BitVec 5) (a : BitVec 5) (i : BitVec 9)
  /-- XORI (R91). Writes sa XOR sext(imm9). -/
  | xori (q : BitVec 4) (d : BitVec 5) (a : BitVec 5) (i : BitVec 9)
  /-- SHLI (R92). Shifts sa left by the immediate. -/
  | shli (q : BitVec 4) (d : BitVec 5) (a : BitVec 5) (i : BitVec 6)
  /-- SHRI (R92). Shifts sa logically right by the immediate. -/
  | shri (q : BitVec 4) (d : BitVec 5) (a : BitVec 5) (i : BitVec 6)
  /-- SARI (R92). Shifts sa arithmetically right by the immediate. -/
  | sari (q : BitVec 4) (d : BitVec 5) (a : BitVec 5) (i : BitVec 6)
  /-- MULI (R91). Writes the low 64 bits of sa × sext(imm9) at tick 3. -/
  | muli (q : BitVec 4) (d : BitVec 5) (a : BitVec 5) (i : BitVec 9)
  /-- LI (R48). Writes sext(imm15) to sd. -/
  | li (q : BitVec 4) (d : BitVec 5) (i : BitVec 15)
  /-- LIC (R48). Writes (sd << 15) | imm15 to sd. -/
  | lic (q : BitVec 4) (d : BitVec 5) (i : BitVec 15)
  /-- CMP_EQ (R53). Compares sa = sb and combines the result into a predicate pair by CT. -/
  | cmpEq (q : BitVec 4) (c : BitVec 3) (k : BitVec 3) (a : BitVec 5) (b : BitVec 5)
  /-- CMP_NE (R53). Compares sa ≠ sb and combines the result into a predicate pair. -/
  | cmpNe (q : BitVec 4) (c : BitVec 3) (k : BitVec 3) (a : BitVec 5) (b : BitVec 5)
  /-- CMP_LT (R53). Compares sa < sb, signed. -/
  | cmpLt (q : BitVec 4) (c : BitVec 3) (k : BitVec 3) (a : BitVec 5) (b : BitVec 5)
  /-- CMP_GE (R53). Compares sa ≥ sb, signed. -/
  | cmpGe (q : BitVec 4) (c : BitVec 3) (k : BitVec 3) (a : BitVec 5) (b : BitVec 5)
  /-- CMP_LTN (R53). Compares sa < sb, unsigned. -/
  | cmpLtn (q : BitVec 4) (c : BitVec 3) (k : BitVec 3) (a : BitVec 5) (b : BitVec 5)
  /-- CMP_GEN (R53). Compares sa ≥ sb, unsigned. -/
  | cmpGen (q : BitVec 4) (c : BitVec 3) (k : BitVec 3) (a : BitVec 5) (b : BitVec 5)
  /-- CMP_TAND (R53). Tests (sa & sb) ≠ 0. -/
  | cmpTand (q : BitVec 4) (c : BitVec 3) (k : BitVec 3) (a : BitVec 5) (b : BitVec 5)
  /-- CMP_TNAND (R53). Tests (sa & sb) = 0. -/
  | cmpTnand (q : BitVec 4) (c : BitVec 3) (k : BitVec 3) (a : BitVec 5) (b : BitVec 5)
  /-- CMPI_EQ (R53). Compares sa with sext(imm8) for equality and combines the result into a predicate pair. -/
  | cmpiEq (q : BitVec 4) (c : BitVec 3) (k : BitVec 3) (a : BitVec 5) (i : BitVec 8)
  /-- CMPI_NE (R53). Compares sa ≠ sext(imm8). -/
  | cmpiNe (q : BitVec 4) (c : BitVec 3) (k : BitVec 3) (a : BitVec 5) (i : BitVec 8)
  /-- CMPI_LT (R53). Compares sa < sext(imm8), signed. -/
  | cmpiLt (q : BitVec 4) (c : BitVec 3) (k : BitVec 3) (a : BitVec 5) (i : BitVec 8)
  /-- CMPI_GE (R53). Compares sa ≥ sext(imm8), signed. -/
  | cmpiGe (q : BitVec 4) (c : BitVec 3) (k : BitVec 3) (a : BitVec 5) (i : BitVec 8)
  /-- CMPI_LTN (R53). Compares sa < imm8, unsigned. -/
  | cmpiLtn (q : BitVec 4) (c : BitVec 3) (k : BitVec 3) (a : BitVec 5) (i : BitVec 8)
  /-- CMPI_GEN (R53). Compares sa ≥ imm8, unsigned. -/
  | cmpiGen (q : BitVec 4) (c : BitVec 3) (k : BitVec 3) (a : BitVec 5) (i : BitVec 8)
  /-- CMPI_TBIT (R53). Tests whether bit imm8 of sa is 1. -/
  | cmpiTbit (q : BitVec 4) (c : BitVec 3) (k : BitVec 3) (a : BitVec 5) (i : BitVec 6)
  /-- CMPI_TNBIT (R53). Tests whether bit imm8 of sa is 0. -/
  | cmpiTnbit (q : BitVec 4) (c : BitVec 3) (k : BitVec 3) (a : BitVec 5) (i : BitVec 6)
  /-- AADD (R96). Writes aa + sext72(sb) to ad. -/
  | aadd (q : BitVec 4) (d : BitVec 4) (a : BitVec 4) (b : BitVec 5)
  /-- AADDI (R96). Writes aa + sext72(imm10) to ad. -/
  | aaddi (q : BitVec 4) (d : BitVec 4) (a : BitVec 4) (i : BitVec 10)
  /-- ASUB (R96). Writes the low 64 bits of aa − ab to sd. -/
  | asub (q : BitVec 4) (d : BitVec 5) (a : BitVec 4) (b : BitVec 4)
  /-- ASET (R96). Writes zext72(sb) to ad. -/
  | aset (q : BitVec 4) (d : BitVec 4) (b : BitVec 5)
  /-- AHI (R96). Sets bits 71:64 of ad to imm8. -/
  | ahi (q : BitVec 4) (d : BitVec 4) (i : BitVec 8)
  /-- AALIGN (R96). Clears the low n bits of aa into ad. -/
  | aalign (q : BitVec 4) (d : BitVec 4) (a : BitVec 4) (n : BitVec 6)
  /-- AGET (R96). Reads the low 64 bits or the high 8 bits of aa into sd. -/
  | aget (q : BitVec 4) (d : BitVec 5) (a : BitVec 4) (h : BitVec 1)
  /-- LD_I8 (R98). Loads a sign-extended byte into sd at the landing tick. -/
  | ldI8 (q : BitVec 4) (d : BitVec 5) (a : BitVec 4) (l : BitVec 5) (i : BitVec 5)
  /-- LD_I16 (R98). Loads a sign-extended halfword. -/
  | ldI16 (q : BitVec 4) (d : BitVec 5) (a : BitVec 4) (l : BitVec 5) (i : BitVec 5)
  /-- LD_I32 (R98). Loads a sign-extended word. -/
  | ldI32 (q : BitVec 4) (d : BitVec 5) (a : BitVec 4) (l : BitVec 5) (i : BitVec 5)
  /-- LD_D (R98). Loads a doubleword. -/
  | ldD (q : BitVec 4) (d : BitVec 5) (a : BitVec 4) (l : BitVec 5) (i : BitVec 5)
  /-- LD_N8 (R98). Loads a zero-extended byte. -/
  | ldN8 (q : BitVec 4) (d : BitVec 5) (a : BitVec 4) (l : BitVec 5) (i : BitVec 5)
  /-- LD_N16 (R98). Loads a zero-extended halfword. -/
  | ldN16 (q : BitVec 4) (d : BitVec 5) (a : BitVec 4) (l : BitVec 5) (i : BitVec 5)
  /-- LD_N32 (R98). Loads a zero-extended word. -/
  | ldN32 (q : BitVec 4) (d : BitVec 5) (a : BitVec 4) (l : BitVec 5) (i : BitVec 5)
  /-- ST_B (R98). Stores the low byte of sv, with its label checked. -/
  | stB (q : BitVec 4) (v : BitVec 5) (a : BitVec 4) (i : BitVec 10)
  /-- ST_H (R98). Stores the low halfword of sv. -/
  | stH (q : BitVec 4) (v : BitVec 5) (a : BitVec 4) (i : BitVec 10)
  /-- ST_W (R98). Stores the low word of sv. -/
  | stW (q : BitVec 4) (v : BitVec 5) (a : BitVec 4) (i : BitVec 10)
  /-- ST_D (R98). Stores sv as a doubleword. -/
  | stD (q : BitVec 4) (v : BitVec 5) (a : BitVec 4) (i : BitVec 10)
  /-- LDT (R103). Loads one typed element and converts it exactly to FP32 or extends it into sd. -/
  | ldt (q : BitVec 4) (d : BitVec 5) (a : BitVec 4) (f : BitVec 4) (h : BitVec 1) (l : BitVec 5)
  /-- STT (R103). Converts sv to a typed element under RM and stores it. -/
  | stt (q : BitVec 4) (v : BitVec 5) (a : BitVec 4) (f : BitVec 4) (h : BitVec 1) (r : BitVec 3)
  /-- VLDT (R103). Loads 128 typed elements into the FP32 or 32-bit integer lanes of vd. -/
  | vldt (q : BitVec 4) (d : BitVec 5) (a : BitVec 4) (f : BitVec 4) (l : BitVec 5)
  /-- VSTT (R103). Converts 128 lanes of vs and stores them as typed elements. -/
  | vstt (q : BitVec 4) (v : BitVec 5) (a : BitVec 4) (f : BitVec 4) (r : BitVec 3)
  /-- AMO_ADD (R105). Atomically adds sd to memory and returns the old value. -/
  | amoAdd (q : BitVec 4) (d : BitVec 5) (a : BitVec 4) (l : BitVec 5) (w : BitVec 1)
  /-- AMO_AND (R105). Atomic AND. -/
  | amoAnd (q : BitVec 4) (d : BitVec 5) (a : BitVec 4) (l : BitVec 5) (w : BitVec 1)
  /-- AMO_OR (R105). Atomic OR. -/
  | amoOr (q : BitVec 4) (d : BitVec 5) (a : BitVec 4) (l : BitVec 5) (w : BitVec 1)
  /-- AMO_XOR (R105). Atomic XOR. -/
  | amoXor (q : BitVec 4) (d : BitVec 5) (a : BitVec 4) (l : BitVec 5) (w : BitVec 1)
  /-- AMO_MIN (R105). Atomic signed minimum. -/
  | amoMin (q : BitVec 4) (d : BitVec 5) (a : BitVec 4) (l : BitVec 5) (w : BitVec 1)
  /-- AMO_MAX (R105). Atomic signed maximum. -/
  | amoMax (q : BitVec 4) (d : BitVec 5) (a : BitVec 4) (l : BitVec 5) (w : BitVec 1)
  /-- AMO_MINN (R105). Atomic unsigned minimum. -/
  | amoMinn (q : BitVec 4) (d : BitVec 5) (a : BitVec 4) (l : BitVec 5) (w : BitVec 1)
  /-- AMO_MAXN (R105). Atomic unsigned maximum. -/
  | amoMaxn (q : BitVec 4) (d : BitVec 5) (a : BitVec 4) (l : BitVec 5) (w : BitVec 1)
  /-- AMO_SWAP (R105). Atomic swap. -/
  | amoSwap (q : BitVec 4) (d : BitVec 5) (a : BitVec 4) (l : BitVec 5) (w : BitVec 1)
  /-- AMO_CAS (R105). Atomic compare with s(d+1) and swap in sd. -/
  | amoCas (q : BitVec 4) (d : BitVec 5) (a : BitVec 4) (l : BitVec 5) (w : BitVec 1)
  /-- BR (R108). Transfers to the group buffered in btK when its predicate is true. -/
  | br (q : BitVec 4) (k : BitVec 2)
  /-- BRV (R108). Transfers on a uniform vector mask, or traps on a non-uniform one. -/
  | brv (q : BitVec 4) (k : BitVec 2) (m : BitVec 3) (w : BitVec 2) (n : BitVec 1)
  /-- PREP (R107). Sets btK to a PC-relative target and fetches its group. -/
  | prep (q : BitVec 4) (k : BitVec 2) (i : BitVec 16)
  /-- PREPA (R107). Sets btK to aa and fetches its group. -/
  | prepa (q : BitVec 4) (k : BitVec 2) (a : BitVec 4)
  /-- BRL (R108). Transfers through btK and writes the return address to ad. -/
  | brl (q : BitVec 4) (k : BitVec 2) (d : BitVec 4)
  /-- LB_NEST (R113). Runs the following LEN groups as a zero-overhead nest of D loops with address generators. -/
  | lbNest (q : BitVec 4) (l : BitVec 4) (d : BitVec 3) (g : BitVec 6)
  /-- LB_EXIT (R114). Ends the active loop nest after its group. -/
  | lbExit (q : BitVec 4)
  /-- FENCE (R181). Holds its group until earlier accesses of the selected kind are performed at scope SC. -/
  | fence (q : BitVec 4) (c : BitVec 3) (k : BitVec 2)
  /-- BIND (R117). Adds a region-to-object binding to the binding table and returns a status. -/
  | bind (q : BitVec 4) (a : BitVec 4) (b : BitVec 5) (o : BitVec 4)
  /-- UNBIND (R117). Removes the binding whose base is aa. -/
  | unbind (q : BitVec 4) (a : BitVec 4)
  /-- ACQ (R184). Performs an acquire of the synchronisation object at ao. -/
  | acq (q : BitVec 4) (c : BitVec 3) (o : BitVec 4)
  /-- REL (R183). Performs a release of the synchronisation object at ao. -/
  | rel (q : BitVec 4) (c : BitVec 3) (o : BitVec 4)
  /-- BWAIT (R119). Holds its group until the local barrier completes a phase, or traps on ERR. -/
  | bwait (q : BitVec 4) (n : BitVec 4)
  /-- BINIT (R118). Initialises a local barrier unit. -/
  | binit (q : BitVec 4) (n : BitVec 4) (a : BitVec 5)
  /-- TW_ANY (R121). Waits until any masked tag is set. -/
  | twAny (q : BitVec 4) (p : BitVec 1) (d : BitVec 5) (a : BitVec 5)
  /-- TW_ALL (R121). Waits until all masked tags are set. -/
  | twAll (q : BitVec 4) (p : BitVec 1) (d : BitVec 5) (a : BitVec 5)
  /-- TW_FFR (R121). Waits for a masked tag, returns the lowest and clears it. -/
  | twFfr (q : BitVec 4) (p : BitVec 1) (d : BitVec 5) (a : BitVec 5)
  /-- MWAIT (R121). Waits until the phase bit of a barrier object equals sb<0>. -/
  | mwait (q : BitVec 4) (p : BitVec 1) (o : BitVec 4) (b : BitVec 5)
  /-- SAFE (R124). Marks a safe point; the record is written back ready if its slice has ended. -/
  | safe (q : BitVec 4) (n : BitVec 16)
  /-- SUSPEND (R125). Writes the record back waiting on a package-timer deadline. -/
  | suspend (q : BitVec 4) (a : BitVec 5)
  /-- YIELD (R125). Writes the record back ready, resuming at the next group. -/
  | yield (q : BitVec 4)
  /-- RETIRE (R125). Retires the record, discarding in-flight register results. -/
  | retire (q : BitVec 4)
  /-- SVC (R126). Raises a supervisor call trap. -/
  | svc (q : BitVec 4) (i : BitVec 16)
  /-- BRK (R126). Raises a breakpoint trap. -/
  | brk (q : BitVec 4) (i : BitVec 16)
  /-- SYSRD (R132). Reads a system register into sd at tick 2. -/
  | sysrd (q : BitVec 4) (d : BitVec 5) (n : BitVec 12)
  /-- SYSWR (R131). Writes a system register that has no row of its own, field by field under the access codes. -/
  | syswr (q : BitVec 4) (a : BitVec 5) (n : BitVec 12)
  /-- RFE (R127). Returns a record that is suspended by fault to its stage queue. -/
  | rfe (q : BitVec 4) (a : BitVec 4) (d : BitVec 5) (l : BitVec 5)
  /-- QLOCK (R128). Joins the four cores of the quad into one timed domain. -/
  | qlock (q : BitVec 4) (d : BitVec 5)
  /-- QFREE (R128). Splits a quad-locked domain into four single-core domains. -/
  | qfree (q : BitVec 4)
  /-- ARV (R120). Ties one barrier arrival to the retirement of a named word of its group. -/
  | arv (q : BitVec 4) (l : BitVec 3) (r : BitVec 1) (c : BitVec 2) (n : BitVec 4)
  /-- VLD (R239). Loads 512 bytes into vd at the landing tick. -/
  | vld (z : BitVec 1) (m : BitVec 3) (d : BitVec 5) (a : BitVec 4) (l : BitVec 5)
  /-- VLDS (R239). Strided vector load. -/
  | vlds (z : BitVec 1) (m : BitVec 3) (d : BitVec 5) (a : BitVec 4) (l : BitVec 5) (g : BitVec 2)
  /-- VLDX (R239). Indexed vector load using old vd as indices. -/
  | vldx (z : BitVec 1) (m : BitVec 3) (d : BitVec 5) (a : BitVec 4) (l : BitVec 5)
  /-- VLDB (R239). Loads one element and broadcasts it. -/
  | vldb (z : BitVec 1) (m : BitVec 3) (d : BitVec 5) (a : BitVec 4) (l : BitVec 5)
  /-- VST (R240). Stores the active elements of vs to 512 bytes. -/
  | vst (m : BitVec 3) (v : BitVec 5) (a : BitVec 4)
  /-- VSTS (R240). Strided vector store. -/
  | vsts (m : BitVec 3) (v : BitVec 5) (a : BitVec 4) (g : BitVec 2)
  /-- VSTX (R240). Indexed vector store. -/
  | vstx (m : BitVec 3) (v : BitVec 5) (a : BitVec 4) (b : BitVec 5)
  /-- VADD (R242). Element-wise integer add. -/
  | vadd (z : BitVec 1) (m : BitVec 3) (d : BitVec 5) (a : BitVec 5) (b : BitVec 5) (x : BitVec 1)
  /-- VSUB (R242). Element-wise integer subtract. -/
  | vsub (z : BitVec 1) (m : BitVec 3) (d : BitVec 5) (a : BitVec 5) (b : BitVec 5) (x : BitVec 1)
  /-- VMUL (R242). Element-wise low integer product. -/
  | vmul (z : BitVec 1) (m : BitVec 3) (d : BitVec 5) (a : BitVec 5) (b : BitVec 5) (x : BitVec 1)
  /-- VMULH (R242). Element-wise high integer product. -/
  | vmulh (z : BitVec 1) (m : BitVec 3) (d : BitVec 5) (a : BitVec 5) (b : BitVec 5) (x : BitVec 1)
  /-- VAND (R242). Element-wise AND. -/
  | vand (z : BitVec 1) (m : BitVec 3) (d : BitVec 5) (a : BitVec 5) (b : BitVec 5) (x : BitVec 1)
  /-- VOR (R242). Element-wise OR. -/
  | vor (z : BitVec 1) (m : BitVec 3) (d : BitVec 5) (a : BitVec 5) (b : BitVec 5) (x : BitVec 1)
  /-- VXOR (R242). Element-wise XOR. -/
  | vxor (z : BitVec 1) (m : BitVec 3) (d : BitVec 5) (a : BitVec 5) (b : BitVec 5) (x : BitVec 1)
  /-- VSHL (R242). Element-wise shift left. -/
  | vshl (z : BitVec 1) (m : BitVec 3) (d : BitVec 5) (a : BitVec 5) (b : BitVec 5) (x : BitVec 1)
  /-- VSHR (R242). Element-wise logical shift right. -/
  | vshr (z : BitVec 1) (m : BitVec 3) (d : BitVec 5) (a : BitVec 5) (b : BitVec 5) (x : BitVec 1)
  /-- VSAR (R242). Element-wise arithmetic shift right. -/
  | vsar (z : BitVec 1) (m : BitVec 3) (d : BitVec 5) (a : BitVec 5) (b : BitVec 5) (x : BitVec 1)
  /-- VMIN (R242). Element-wise integer minimum. -/
  | vmin (z : BitVec 1) (m : BitVec 3) (d : BitVec 5) (a : BitVec 5) (b : BitVec 5) (x : BitVec 1)
  /-- VMAX (R242). Element-wise integer maximum. -/
  | vmax (z : BitVec 1) (m : BitVec 3) (d : BitVec 5) (a : BitVec 5) (b : BitVec 5) (x : BitVec 1)
  /-- VADDS (R242). Element-wise saturating add. -/
  | vadds (z : BitVec 1) (m : BitVec 3) (d : BitVec 5) (a : BitVec 5) (b : BitVec 5) (x : BitVec 1)
  /-- VSUBS (R242). Element-wise saturating subtract. -/
  | vsubs (z : BitVec 1) (m : BitVec 3) (d : BitVec 5) (a : BitVec 5) (b : BitVec 5) (x : BitVec 1)
  /-- VABS (R242). Element-wise absolute value. -/
  | vabs (z : BitVec 1) (m : BitVec 3) (d : BitVec 5) (a : BitVec 5)
  /-- VMADW (R243). Multiplies narrow elements and accumulates into 32-bit elements of a register group. -/
  | vmadw (z : BitVec 1) (m : BitVec 3) (d : BitVec 5) (a : BitVec 5) (b : BitVec 5) (x : BitVec 1)
  /-- VFADD (R244). Element-wise floating add, rounded once. -/
  | vfadd (z : BitVec 1) (m : BitVec 3) (d : BitVec 5) (a : BitVec 5) (b : BitVec 5) (x : BitVec 1)
  /-- VFSUB (R244). Element-wise floating subtract. -/
  | vfsub (z : BitVec 1) (m : BitVec 3) (d : BitVec 5) (a : BitVec 5) (b : BitVec 5) (x : BitVec 1)
  /-- VFMUL (R244). Element-wise floating multiply. -/
  | vfmul (z : BitVec 1) (m : BitVec 3) (d : BitVec 5) (a : BitVec 5) (b : BitVec 5) (x : BitVec 1)
  /-- VFMA (R244). Fused multiply-add into vd. -/
  | vfma (z : BitVec 1) (m : BitVec 3) (d : BitVec 5) (a : BitVec 5) (b : BitVec 5) (x : BitVec 1)
  /-- VFMS (R244). Fused multiply-subtract. -/
  | vfms (z : BitVec 1) (m : BitVec 3) (d : BitVec 5) (a : BitVec 5) (b : BitVec 5) (x : BitVec 1)
  /-- VFNMA (R244). Fused negated multiply-add. -/
  | vfnma (z : BitVec 1) (m : BitVec 3) (d : BitVec 5) (a : BitVec 5) (b : BitVec 5) (x : BitVec 1)
  /-- VFMIN (R246). Element-wise floating minimum. -/
  | vfmin (z : BitVec 1) (m : BitVec 3) (d : BitVec 5) (a : BitVec 5) (b : BitVec 5) (x : BitVec 1)
  /-- VFMAX (R246). Element-wise floating maximum. -/
  | vfmax (z : BitVec 1) (m : BitVec 3) (d : BitVec 5) (a : BitVec 5) (b : BitVec 5) (x : BitVec 1)
  /-- VFABS (R244). Clears the sign of each element. -/
  | vfabs (z : BitVec 1) (m : BitVec 3) (d : BitVec 5) (a : BitVec 5)
  /-- VFNEG (R244). Inverts the sign of each element. -/
  | vfneg (z : BitVec 1) (m : BitVec 3) (d : BitVec 5) (a : BitVec 5)
  /-- VCMP_EQ (R247). Sets mask bits where integer elements are equal. -/
  | vcmpEq (z : BitVec 1) (m : BitVec 3) (d : BitVec 3) (a : BitVec 5) (b : BitVec 5) (x : BitVec 1)
  /-- VCMP_NE (R247). Integer not-equal compare into a mask. -/
  | vcmpNe (z : BitVec 1) (m : BitVec 3) (d : BitVec 3) (a : BitVec 5) (b : BitVec 5) (x : BitVec 1)
  /-- VCMP_LT (R247). Integer less-than compare into a mask. -/
  | vcmpLt (z : BitVec 1) (m : BitVec 3) (d : BitVec 3) (a : BitVec 5) (b : BitVec 5) (x : BitVec 1)
  /-- VCMP_GE (R247). Integer greater-or-equal compare into a mask. -/
  | vcmpGe (z : BitVec 1) (m : BitVec 3) (d : BitVec 3) (a : BitVec 5) (b : BitVec 5) (x : BitVec 1)
  /-- VFCMP_EQ (R247). Floating equal compare into a mask. -/
  | vfcmpEq (z : BitVec 1) (m : BitVec 3) (d : BitVec 3) (a : BitVec 5) (b : BitVec 5) (x : BitVec 1)
  /-- VFCMP_NE (R247). Floating not-equal compare into a mask. -/
  | vfcmpNe (z : BitVec 1) (m : BitVec 3) (d : BitVec 3) (a : BitVec 5) (b : BitVec 5) (x : BitVec 1)
  /-- VFCMP_LT (R247). Floating less-than compare into a mask. -/
  | vfcmpLt (z : BitVec 1) (m : BitVec 3) (d : BitVec 3) (a : BitVec 5) (b : BitVec 5) (x : BitVec 1)
  /-- VFCMP_GE (R247). Floating greater-or-equal compare into a mask. -/
  | vfcmpGe (z : BitVec 1) (m : BitVec 3) (d : BitVec 3) (a : BitVec 5) (b : BitVec 5) (x : BitVec 1)
  /-- VSEL (R248). Selects elements from va or vb by the governing mask. -/
  | vsel (m : BitVec 3) (d : BitVec 5) (a : BitVec 5) (b : BitVec 5) (x : BitVec 1)
  /-- MAND (R249). ANDs two masks. -/
  | mand (d : BitVec 3) (a : BitVec 3) (b : BitVec 3)
  /-- MOR (R249). ORs two masks. -/
  | mor (d : BitVec 3) (a : BitVec 3) (b : BitVec 3)
  /-- MXOR (R249). XORs two masks. -/
  | mxor (d : BitVec 3) (a : BitVec 3) (b : BitVec 3)
  /-- MNOT (R249). Inverts a mask. -/
  | mnot (d : BitVec 3) (a : BitVec 3)
  /-- MCNT (R249). Counts the one bits of a mask into sd. -/
  | mcnt (d : BitVec 5) (a : BitVec 3)
  /-- MFFS (R249). Finds the lowest set bit of a mask. -/
  | mffs (d : BitVec 5) (a : BitVec 3)
  /-- VCVT (R250). Converts same-width elements from ET to DT. -/
  | vcvt (z : BitVec 1) (m : BitVec 3) (d : BitVec 5) (a : BitVec 5)
  /-- VCVTW (R250). Widening conversion into a register group. -/
  | vcvtw (z : BitVec 1) (m : BitVec 3) (d : BitVec 5) (a : BitVec 5)
  /-- VCVTN (R250). Narrowing conversion from a register group, optionally stochastic. -/
  | vcvtn (z : BitVec 1) (m : BitVec 3) (d : BitVec 5) (a : BitVec 5)
  /-- VPERM (R251). Permutes elements by an index vector. -/
  | vperm (z : BitVec 1) (m : BitVec 3) (d : BitVec 5) (a : BitVec 5) (b : BitVec 5) (x : BitVec 1)
  /-- VSLIDE (R251). Slides elements by a signed scalar offset. -/
  | vslide (z : BitVec 1) (m : BitVec 3) (d : BitVec 5) (a : BitVec 5) (b : BitVec 5)
  /-- VREDSUM (R253). Sums the active integer elements into sd. -/
  | vredsum (z : BitVec 1) (m : BitVec 3) (d : BitVec 5) (a : BitVec 5)
  /-- VFREDSUM (R254). Sums the active floating elements in a fixed pairwise tree. -/
  | vfredsum (z : BitVec 1) (m : BitVec 3) (d : BitVec 5) (a : BitVec 5)
  /-- VREDMAX (R253). Reduces the active elements to their maximum. -/
  | vredmax (z : BitVec 1) (m : BitVec 3) (d : BitVec 5) (a : BitVec 5)
  /-- VREDMIN (R253). Reduces the active elements to their minimum. -/
  | vredmin (z : BitVec 1) (m : BitVec 3) (d : BitVec 5) (a : BitVec 5)
  /-- VEXT (R252). Extracts one element into sd. -/
  | vext (d : BitVec 5) (a : BitVec 5) (b : BitVec 5)
  /-- VINS (R252). Inserts sa into one element of vd. -/
  | vins (d : BitVec 5) (a : BitVec 5) (b : BitVec 5)
  /-- VBCAST (R252). Broadcasts sa into every active element. -/
  | vbcast (z : BitVec 1) (m : BitVec 3) (d : BitVec 5) (a : BitVec 5)
  /-- VRCP (R256). Approximate reciprocal of each element. -/
  | vrcp (z : BitVec 1) (m : BitVec 3) (d : BitVec 5) (a : BitVec 5)
  /-- VRSQRT (R257). Approximate reciprocal square root of each element. -/
  | vrsqrt (z : BitVec 1) (m : BitVec 3) (d : BitVec 5) (a : BitVec 5)
  /-- VSQRT (R258). Correctly rounded square root of each element. -/
  | vsqrt (z : BitVec 1) (m : BitVec 3) (d : BitVec 5) (a : BitVec 5)
  /-- VEXP2 (R258). Correctly rounded 2^x of each element. -/
  | vexp2 (z : BitVec 1) (m : BitVec 3) (d : BitVec 5) (a : BitVec 5)
  /-- VLOG2 (R258). Correctly rounded log2 of each element. -/
  | vlog2 (z : BitVec 1) (m : BitVec 3) (d : BitVec 5) (a : BitVec 5)
  /-- VCLIPQ (R390). Clips each element to the range held in sb. -/
  | vclipq (z : BitVec 1) (m : BitVec 3) (d : BitVec 5) (a : BitVec 5) (b : BitVec 5)
  /-- VNORMQ (R390). Normalises each element by the centre and spread held in sb. -/
  | vnormq (z : BitVec 1) (m : BitVec 3) (d : BitVec 5) (a : BitVec 5) (b : BitVec 5)
  /-- VROT (R260). Rotates the vector and predicate rotation offsets. -/
  | vrot
  /-- STGSET (R260). Resets the rotation offsets and sets the stage predicates from sa. -/
  | stgset (a : BitVec 5)
  /-- STGSHIFT (R260). Rotates the offsets and sets logical p8 from sa. -/
  | stgshift (a : BitVec 5)
  /-- BN_LD (R267). Starts loading a routing pattern into a slot. -/
  | bnLd (q : BitVec 4) (a : BitVec 4) (n : BitVec 3)
  /-- BN_RT (R270). Routes the bits of a register pair through a pattern into vd. -/
  | bnRt (q : BitVec 4) (d : BitVec 5) (a : BitVec 4) (n : BitVec 3)
  /-- BN_RTO (R270). Routes through a pattern and ORs the result with vd. -/
  | bnRto (q : BitVec 4) (d : BitVec 5) (a : BitVec 4) (n : BitVec 3)
  /-- BN_INV (R269). Invalidates the selected pattern slots. -/
  | bnInv (q : BitVec 4) (i : BitVec 8)
  /-- BN_RD (R271). Reads the state and address of a pattern slot. -/
  | bnRd (q : BitVec 4) (d : BitVec 5) (n : BitVec 3)
  /-- SK_INIT (R379). Writes a fresh summary object with its seeded coin state. -/
  | skInit (q : BitVec 4) (a : BitVec 4) (b : BitVec 5)
  /-- SK_QADD (R363). Adds FP32 keys to a quantile sketch. -/
  | skQadd (q : BitVec 4) (a : BitVec 4) (v : BitVec 5) (b : BitVec 5)
  /-- SK_HADD (R365). Adds keys to a heavy-hitter list. -/
  | skHadd (q : BitVec 4) (a : BitVec 4) (v : BitVec 5) (b : BitVec 5)
  /-- SK_DADD (R366). Adds keys to a distinct-count register file. -/
  | skDadd (q : BitVec 4) (a : BitVec 4) (v : BitVec 5) (b : BitVec 5)
  /-- SK_MERGE (R367). Merges the summary at ab into the summary at aa. -/
  | skMerge (q : BitVec 4) (a : BitVec 4) (b : BitVec 4)
  /-- SK_COMPACT (R382). Compacts a QSK level or puts an HHL into canonical order. -/
  | skCompact (q : BitVec 4) (a : BitVec 4) (b : BitVec 5)
  /-- SK_QUANT (R384). Answers quantiles of a QSK object. -/
  | skQuant (q : BitVec 4) (a : BitVec 4) (d : BitVec 5) (b : BitVec 5)
  /-- SK_RANK (R385). Answers the rank of a value in a QSK object. -/
  | skRank (q : BitVec 4) (a : BitVec 4) (d : BitVec 5) (b : BitVec 5)
  /-- SK_TOP (R386). Answers the entry of a given rank in an HHL object. -/
  | skTop (q : BitVec 4) (a : BitVec 4) (d : BitVec 5) (b : BitVec 5)
  /-- SK_CARD (R387). Estimates the distinct count of a DCR object. -/
  | skCard (q : BitVec 4) (a : BitVec 4) (d : BitVec 5)
  /-- SK_SEAL (R383). Seals a summary and sets its CRC. -/
  | skSeal (q : BitVec 4) (a : BitVec 4)
  /-- SK_CHK (R388). Reports the integrity bits of a summary. -/
  | skChk (q : BitVec 4) (a : BitVec 4) (d : BitVec 5)
  /-- MX_MMA (R280). Issues one 32 × 64 × 128 block to the matrix array. -/
  | mxMma (q : BitVec 4) (ac : BitVec 1) (sc : BitVec 3) (aa : BitVec 4) (sb : BitVec 5)
  /-- MX_PROM (R287). Promotes the port's partial sum into a z block with FP32 activation scales. -/
  | mxProm (q : BitVec 4) (aa : BitVec 4) (sb : BitVec 5)
  /-- MX_PROME (R287). Promotes the port's partial sum with E8M0 activation scales. -/
  | mxProme (q : BitVec 4) (aa : BitVec 4) (sb : BitVec 5)
  /-- MX_ZERO (R289). Zeroes the selected z blocks. -/
  | mxZero (q : BitVec 4) (sb : BitVec 5)
  /-- MX_ZLD (R290). Loads a z block from memory. -/
  | mxZld (q : BitVec 4) (ac : BitVec 1) (sc : BitVec 3) (aa : BitVec 4) (sb : BitVec 5)
  /-- MX_ZST (R290). Stores a z block to memory. -/
  | mxZst (q : BitVec 4) (rl : BitVec 1) (sc : BitVec 3) (aa : BitVec 4) (sb : BitVec 5)
  /-- MX_ZCVT (R290). Stores a z block converted to a narrower format. -/
  | mxZcvt (q : BitVec 4) (rl : BitVec 1) (sc : BitVec 3) (aa : BitVec 4) (sb : BitVec 5)
  /-- MX_ZADD (R289). Adds two z blocks element-wise. -/
  | mxZadd (q : BitVec 4) (sb : BitVec 5)
  /-- MX_SCL (R289). Scales a z block by an FP32 factor. -/
  | mxScl (q : BitVec 4) (sb : BitVec 5)
  /-- MX_WSEL (R278). Clears a range of weight-buffer units. -/
  | mxWsel (q : BitVec 4) (sb : BitVec 5)
  /-- MX_WAKE (R283). Starts waking the selected sub-arrays. -/
  | mxWake (q : BitVec 4) (sb : BitVec 5)
  /-- MX_GATE (R283). Turns the selected sub-arrays off. -/
  | mxGate (q : BitVec 4) (sb : BitVec 5)
  /-- MX_TASK (R299). Submits a tile-task record to the quad's queue. -/
  | mxTask (q : BitVec 4) (ac : BitVec 1) (rl : BitVec 1) (sc : BitVec 3) (aa : BitVec 4) (sb : BitVec 5)
  /-- MX_TSTAT (R306). Reports the state of a tile task. -/
  | mxTstat (q : BitVec 4) (aa : BitVec 4) (sb : BitVec 5)
  /-- MX_TKILL (R306). Removes a queued tile task. -/
  | mxTkill (q : BitVec 4) (aa : BitVec 4) (sb : BitVec 5)
  /-- MX_QSPLIT (R291). Sums one z block across the four cores of a quad-locked domain. -/
  | mxQsplit (q : BitVec 4) (sb : BitVec 5)
  /-- MX_FENCE (R293). Holds until earlier z-block stores are performed, optionally releasing. -/
  | mxFence (q : BitVec 4) (rl : BitVec 1) (sc : BitVec 3)
  /-- MX_CFG (R279). Writes sb to geometry register gN. -/
  | mxCfg (q : BitVec 4) (gh : BitVec 2) (gl : BitVec 4) (sb : BitVec 5)
  /-- CP_COPY (R206). Copies a multi-dimensional array with optional conversion. -/
  | cpCopy (q : BitVec 4) (ac : BitVec 1) (rl : BitVec 1) (sc : BitVec 3) (aa : BitVec 4) (sb : BitVec 5)
  /-- CP_LDT (R206). Dequantises scaled low-precision elements. -/
  | cpLdt (q : BitVec 4) (ac : BitVec 1) (rl : BitVec 1) (sc : BitVec 3) (aa : BitVec 4) (sb : BitVec 5)
  /-- CP_STT (R206). Quantises elements with given or derived block scales. -/
  | cpStt (q : BitVec 4) (ac : BitVec 1) (rl : BitVec 1) (sc : BitVec 3) (aa : BitVec 4) (sb : BitVec 5)
  /-- CP_FILL (R212). Fills not-present window lines of a range. -/
  | cpFill (q : BitVec 4) (ac : BitVec 1) (sc : BitVec 3) (aa : BitVec 4) (sb : BitVec 5)
  /-- CP_MAP (R196). Writes a stash map entry. -/
  | cpMap (q : BitVec 4) (aa : BitVec 4) (sb : BitVec 5)
  /-- CP_UNMAP (R197). Closes a stash window, writing back its dirty lines. -/
  | cpUnmap (q : BitVec 4) (rl : BitVec 1) (sc : BitVec 3) (sb : BitVec 5)
  /-- CP_FLUSH (R212). Writes back the dirty lines of a range. -/
  | cpFlush (q : BitVec 4) (ac : BitVec 1) (rl : BitVec 1) (sc : BitVec 3) (aa : BitVec 4) (sb : BitVec 5)
  /-- CP_INVAL (R212). Writes back and invalidates the lines of a range. -/
  | cpInval (q : BitVec 4) (ac : BitVec 1) (rl : BitVec 1) (sc : BitVec 3) (aa : BitVec 4) (sb : BitVec 5)
  /-- CP_WFILL (R214). Fills the weight buffer verbatim or encoded. -/
  | cpWfill (q : BitVec 4) (ac : BitVec 1) (sc : BitVec 3) (aa : BitVec 4) (sb : BitVec 5)
  /-- CP_OVL (R220). Loads the idle instruction-scratchpad half from a window or an overlay image. -/
  | cpOvl (q : BitVec 4) (ac : BitVec 1) (sc : BitVec 3) (aa : BitVec 4) (sb : BitVec 5)
  /-- CP_SPILL (R215). Copies bytes out to DDR or a neighbour window. -/
  | cpSpill (q : BitVec 4) (ac : BitVec 1) (rl : BitVec 1) (sc : BitVec 3) (aa : BitVec 4) (sb : BitVec 5)
  /-- CP_UNSPILL (R215). Copies bytes back from DDR or a neighbour window. -/
  | cpUnspill (q : BitVec 4) (ac : BitVec 1) (rl : BitVec 1) (sc : BitVec 3) (aa : BitVec 4) (sb : BitVec 5)
  /-- CP_BCNT (R211). Initialises a byte-counting barrier. -/
  | cpBcnt (q : BitVec 4) (rl : BitVec 1) (sc : BitVec 3) (aa : BitVec 4) (sb : BitVec 5)
  /-- CP_TCLR (R222). Clears TAGS and CP_TERR bits. -/
  | cpTclr (q : BitVec 4) (sb : BitVec 5)
  /-- CL_TMK (R339). Makes a tree from a descriptor and allocates its slots. -/
  | clTmk (q : BitVec 4) (aa : BitVec 4) (sb : BitVec 5)
  /-- CL_TFREE (R340). Frees a tree, aborting its open segments. -/
  | clTfree (q : BitVec 4) (sb : BitVec 5)
  /-- CL_POST (R335). Posts a contribution to a tree segment. -/
  | clPost (q : BitVec 4) (ac : BitVec 1) (rl : BitVec 1) (sc : BitVec 3) (aa : BitVec 4) (sb : BitVec 5)
  /-- CL_TAKE (R337). Requests the result of a tree segment. -/
  | clTake (q : BitVec 4) (ac : BitVec 1) (rl : BitVec 1) (sc : BitVec 3) (aa : BitVec 4) (sb : BitVec 5)
  /-- CL_FRZ (R341). Freezes a live tree. -/
  | clFrz (q : BitVec 4) (sb : BitVec 5)
  /-- CL_THAW (R341). Thaws a frozen tree and wakes its waiters. -/
  | clThaw (q : BitVec 4) (sb : BitVec 5)
  /-- CL_SAVE (R342). Saves a frozen tree to memory and releases its slots. -/
  | clSave (q : BitVec 4) (aa : BitVec 4) (sb : BitVec 5)
  /-- CL_RST (R344). Restores a saved tree onto a new router map. -/
  | clRst (q : BitVec 4) (aa : BitVec 4) (sb : BitVec 5)
  /-- CL_EDIT_REMOVE (R345). Schedules the removal of a member at the edit segment. -/
  | clEditRemove (q : BitVec 4) (sb : BitVec 5)
  /-- CL_EDIT_ADD (R345). Schedules a member to be made present again. -/
  | clEditAdd (q : BitVec 4) (sb : BitVec 5)
  /-- CL_RESHARD (R350). Posts a member's shard for an exchange between two layouts. -/
  | clReshard (q : BitVec 4) (ac : BitVec 1) (rl : BitVec 1) (sc : BitVec 3) (aa : BitVec 4) (sb : BitVec 5)
  /-- CL_QUERY (R338). Reads an item of a tree's state. -/
  | clQuery (q : BitVec 4) (sb : BitVec 5)
  /-- CL_MCAST (R347). Multicasts bytes from the root into the stash of every member. -/
  | clMcast (q : BitVec 4) (ac : BitVec 1) (rl : BitVec 1) (sc : BitVec 3) (aa : BitVec 4) (sb : BitVec 5)
  /-- CL_BAR (R348). Makes the member's arrival at the tree barrier. -/
  | clBar (q : BitVec 4) (ac : BitVec 1) (rl : BitVec 1) (sc : BitVec 3) (aa : BitVec 4) (sb : BitVec 5)
  /-- CL_ABORT (R346). Aborts the two open segments of a tree. -/
  | clAbort (q : BitVec 4) (sb : BitVec 5)
  /-- EV_SEND (R410). Offers an action to a step mailbox. -/
  | evSend (q : BitVec 4) (aa : BitVec 4) (sb : BitVec 5)
  /-- EV_RECV (R411). Takes the oldest committed observation, or waits or answers a status. -/
  | evRecv (q : BitVec 4) (aa : BitVec 4) (sb : BitVec 5)
  /-- EV_GATHER (R412). Takes at most one observation from each of up to 32 mailboxes. -/
  | evGather (q : BitVec 4) (aa : BitVec 4) (sb : BitVec 5)
  /-- EV_OPEN (R409). Opens a mailbox for an episode port. -/
  | evOpen (q : BitVec 4) (sb : BitVec 5)
  /-- EV_CLOSE (R413). Closes a mailbox. -/
  | evClose (q : BitVec 4) (sb : BitVec 5)
  /-- DS_LAUNCH (R449). Launches a child record into the pending-launch pool. -/
  | dsLaunch (q : BitVec 4) (rl : BitVec 1) (sc : BitVec 3) (aa : BitVec 4) (sb : BitVec 5)
  /-- DS_LAUNCH_W (R449). Launches a child, suspending while the pool is full. -/
  | dsLaunchW (q : BitVec 4) (rl : BitVec 1) (sc : BitVec 3) (aa : BitVec 4) (sb : BitVec 5)
  /-- DS_QPUSH (R450). Admits a record to a stage ring. -/
  | dsQpush (q : BitVec 4) (rl : BitVec 1) (sc : BitVec 3) (aa : BitVec 4) (sb : BitVec 5)
  /-- DS_QPOP (R451). Takes the oldest entry of a stage not served by the dispatcher. -/
  | dsQpop (q : BitVec 4) (ac : BitVec 1) (sc : BitVec 3) (aa : BitVec 4) (sb : BitVec 5)
  /-- DS_COND_SET (R452). Sets a node's condition word. -/
  | dsCondSet (q : BitVec 4) (aa : BitVec 4) (sb : BitVec 5)
  /-- DS_COND_ADD (R452). Adds to a node's condition word. -/
  | dsCondAdd (q : BitVec 4) (aa : BitVec 4) (sb : BitVec 5)
  /-- DS_COND_OR (R452). ORs into a node's condition word. -/
  | dsCondOr (q : BitVec 4) (aa : BitVec 4) (sb : BitVec 5)
  /-- DS_COND_AND (R452). ANDs into a node's condition word. -/
  | dsCondAnd (q : BitVec 4) (aa : BitVec 4) (sb : BitVec 5)
  /-- DS_GSTART (R453). Checks and starts a pipeline graph. -/
  | dsGstart (q : BitVec 4) (aa : BitVec 4) (sb : BitVec 5)
  /-- DS_GSTOP (R453). Stops a running graph. -/
  | dsGstop (q : BitVec 4) (aa : BitVec 4) (sb : BitVec 5)
  /-- DS_WAKE (R454). Makes a waiting record ready. -/
  | dsWake (q : BitVec 4) (aa : BitVec 4) (sb : BitVec 5)
  /-- DS_PRIO (R455). Sets the priority of the running record or of a named record. -/
  | dsPrio (q : BitVec 4) (aa : BitVec 4) (sb : BitVec 5)
  /-- DS_QUERY (R456). Reads a stage or pool count. -/
  | dsQuery (q : BitVec 4) (sb : BitVec 5)
  /-- TL_INV (R160). Invalidates the cached translations of one page within a scope. -/
  | tlInv (q : BitVec 4) (sc : BitVec 2) (aa : BitVec 4) (sb : BitVec 5)
  /-- TL_INVA (R160). Invalidates every cached translation of a VF within a scope. -/
  | tlInva (q : BitVec 4) (sc : BitVec 2) (sb : BitVec 5)
  /-- TL_PROBE (R161). Walks an address and returns its leaf or the fault reason. -/
  | tlProbe (q : BitVec 4) (aa : BitVec 4) (sb : BitVec 5)
  /-- TL_ROOT (R162). Sets a VF's table root and invalidates its translations. -/
  | tlRoot (q : BitVec 4) (aa : BitVec 4) (sb : BitVec 5)
  /-- TL_HASH (R163). Writes a quiesced partition's interleave seed. -/
  | tlHash (q : BitVec 4) (aa : BitVec 4) (sb : BitVec 5)
  /-- TL_DLOG (R164). Points a VF's dirty-page log at a descriptor, or disables it. -/
  | tlDlog (q : BitVec 4) (aa : BitVec 4) (sb : BitVec 5)
  /-- PT_QUIESCE (R487). Starts quiescing a partition (op 0). -/
  | ptQuiesce (q : BitVec 4) (sb : BitVec 5)
  /-- PT_RESUME (R487). Makes a quiescing or quiesced partition active again (op 1). -/
  | ptResume (q : BitVec 4) (sb : BitVec 5)
  /-- PT_STATE_READ (R487). Reads a partition's state (op 2). -/
  | ptStateRead (q : BitVec 4) (sb : BitVec 5)
  /-- PT_LAYOUT (R492). Checks and applies a partition layout image. -/
  | ptLayout (q : BitVec 4) (aa : BitVec 4) (sb : BitVec 5)
  /-- PT_VFSET_ASSIGN (R499). Assigns a VF to a partition with its resources. -/
  | ptVfsetAssign (q : BitVec 4) (aa : BitVec 4) (sb : BitVec 5)
  /-- PT_VFSET_RELEASE (R499). Releases an assigned VF. -/
  | ptVfsetRelease (q : BitVec 4) (aa : BitVec 4) (sb : BitVec 5)
  /-- PT_WAYS (R500). Sets a VF's last-level-cache way mask. -/
  | ptWays (q : BitVec 4) (sb : BitVec 5)
  /-- PT_MOVE (R496). Moves frames of a retiring set to new frames (op 0). -/
  | ptMove (q : BitVec 4) (aa : BitVec 4) (sb : BitVec 5)
  /-- PT_RETIRE (R498). Drops a partition's retiring set (op 1). -/
  | ptRetire (q : BitVec 4) (aa : BitVec 4) (sb : BitVec 5)
  /-- PT_FLR (R502). Performs a function-level reset of a VF. -/
  | ptFlr (q : BitVec 4) (sb : BitVec 5)
  /-- GT_LSET (R477). Adds bits to a label-table entry, or reads it. -/
  | gtLset (q : BitVec 4) (sb : BitVec 5)
  /-- GT_PARTY (R478). Defines a party from a key block. -/
  | gtParty (q : BitVec 4) (aa : BitVec 4) (sb : BitVec 5)
  /-- GT_RELEASE_INSTALL (R479). Starts installing and verifying a policy image in a slot (OP 0). -/
  | gtReleaseInstall (q : BitVec 4) (aa : BitVec 4) (sb : BitVec 5)
  /-- GT_RELEASE_REVOKE (R479). Empties a policy slot (OP 1). -/
  | gtReleaseRevoke (q : BitVec 4) (aa : BitVec 4) (sb : BitVec 5)
  /-- GT_RELEASE_APPLY (R480). Copies data out under a policy, lowering its label to OUT (OP 2). -/
  | gtReleaseApply (q : BitVec 4) (aa : BitVec 4) (sb : BitVec 5)
  deriving DecidableEq, Repr

end Sys2Proof
end

