-- ==== Sys2Proof/WellFormed.lean ====
section
/-! DEFINITION. Well-formed instructions: the operand values that R13, R46, R47, R62, R71, R75, R102, R105, R112,
R115, R120 and R123 call illegal in the word itself are refused here; the fixed zero fields of the layouts are refused
by Decode. Every event is well formed. -/
namespace Sys2Proof

/-- The SC field of an E-class word: no reserved scope (R13), zero without ACQ and REL (R46). -/
def scopeOk (ac rl : BitVec 1) (sc : BitVec 3) : Bool := decide (sc < 6) && (ac == 1 || rl == 1 || sc == 0)

/-- Does the instruction hold only operand values its encoding allows? -/
def Instr.wellFormed : Instr → Bool
  | .add .. => true
  | .sub .. => true
  | .mul .. => true
  | .mulh .. => true
  | .mulhn .. => true
  | .div .. => true
  | .divn .. => true
  | .rem .. => true
  | .remn .. => true
  | .and .. => true
  | .or .. => true
  | .xor .. => true
  | .andn .. => true
  | .shl .. => true
  | .shr .. => true
  | .sar .. => true
  | .min .. => true
  | .max .. => true
  | .minn .. => true
  | .maxn .. => true
  | .clz .. => true
  | .ctz .. => true
  | .popc .. => true
  | .rotl .. => true
  | .addi .. => true
  | .andi .. => true
  | .ori .. => true
  | .xori .. => true
  | .shli .. => true
  | .shri .. => true
  | .sari .. => true
  | .muli .. => true
  | .li .. => true
  | .lic .. => true
  | .cmpEq .. => true
  | .cmpNe .. => true
  | .cmpLt .. => true
  | .cmpGe .. => true
  | .cmpLtn .. => true
  | .cmpGen .. => true
  | .cmpTand .. => true
  | .cmpTnand .. => true
  | .cmpiEq .. => true
  | .cmpiNe .. => true
  | .cmpiLt .. => true
  | .cmpiGe .. => true
  | .cmpiLtn .. => true
  | .cmpiGen .. => true
  | .cmpiTbit .. => true
  | .cmpiTnbit .. => true
  | .aadd .. => true
  | .aaddi .. => true
  | .asub .. => true
  | .aset .. => true
  | .ahi .. => true
  | .aalign .. => true
  | .aget .. => true
  | .ldI8 .. => true
  | .ldI16 .. => true
  | .ldI32 .. => true
  | .ldD .. => true
  | .ldN8 .. => true
  | .ldN16 .. => true
  | .ldN32 .. => true
  | .stB .. => true
  | .stH .. => true
  | .stW .. => true
  | .stD .. => true
  | .ldt _ _ _ f h _ => f != 7 && (h == 0 || f == 5 || f == 8 || f == 12)
  | .stt _ _ _ f h r => f != 7 && (h == 0 || f == 5 || f == 8 || f == 12) && r != 5 && r != 7
  | .vldt _ _ _ f _ => f != 7
  | .vstt _ _ _ f r => f != 7 && r != 5 && r != 7
  | .amoAdd .. => true
  | .amoAnd .. => true
  | .amoOr .. => true
  | .amoXor .. => true
  | .amoMin .. => true
  | .amoMax .. => true
  | .amoMinn .. => true
  | .amoMaxn .. => true
  | .amoSwap .. => true
  | .amoCas _ d _ _ _ => d != 31
  | .br .. => true
  | .brv .. => true
  | .prep .. => true
  | .prepa .. => true
  | .brl .. => true
  | .lbNest _ _ d g => d != 0 && d != 7 && decide (g.toNat + 5 * d.toNat + 1 ≤ 64)
  | .lbExit .. => true
  | .fence _ c k => decide (c < 6) && k != 3
  | .bind .. => true
  | .unbind .. => true
  | .acq _ c _ => decide (c < 6)
  | .rel _ c _ => decide (c < 6)
  | .bwait .. => true
  | .binit .. => true
  | .twAny .. => true
  | .twAll .. => true
  | .twFfr .. => true
  | .mwait .. => true
  | .safe _ n => n != 65535
  | .suspend .. => true
  | .yield .. => true
  | .retire .. => true
  | .svc .. => true
  | .brk .. => true
  | .sysrd .. => true
  | .syswr .. => true
  | .rfe .. => true
  | .qlock .. => true
  | .qfree .. => true
  | .arv _ l r c _ => decide (l < 6) && (r == 1 || c == 0)
  | .vld .. => true
  | .vlds .. => true
  | .vldx .. => true
  | .vldb .. => true
  | .vst .. => true
  | .vsts .. => true
  | .vstx .. => true
  | .vadd .. => true
  | .vsub .. => true
  | .vmul .. => true
  | .vmulh .. => true
  | .vand .. => true
  | .vor .. => true
  | .vxor .. => true
  | .vshl .. => true
  | .vshr .. => true
  | .vsar .. => true
  | .vmin .. => true
  | .vmax .. => true
  | .vadds .. => true
  | .vsubs .. => true
  | .vabs .. => true
  | .vmadw .. => true
  | .vfadd .. => true
  | .vfsub .. => true
  | .vfmul .. => true
  | .vfma .. => true
  | .vfms .. => true
  | .vfnma .. => true
  | .vfmin .. => true
  | .vfmax .. => true
  | .vfabs .. => true
  | .vfneg .. => true
  | .vcmpEq .. => true
  | .vcmpNe .. => true
  | .vcmpLt .. => true
  | .vcmpGe .. => true
  | .vfcmpEq .. => true
  | .vfcmpNe .. => true
  | .vfcmpLt .. => true
  | .vfcmpGe .. => true
  | .vsel .. => true
  | .mand .. => true
  | .mor .. => true
  | .mxor .. => true
  | .mnot .. => true
  | .mcnt .. => true
  | .mffs .. => true
  | .vcvt .. => true
  | .vcvtw .. => true
  | .vcvtn .. => true
  | .vperm .. => true
  | .vslide .. => true
  | .vredsum .. => true
  | .vfredsum .. => true
  | .vredmax .. => true
  | .vredmin .. => true
  | .vext .. => true
  | .vins .. => true
  | .vbcast .. => true
  | .vrcp .. => true
  | .vrsqrt .. => true
  | .vsqrt .. => true
  | .vexp2 .. => true
  | .vlog2 .. => true
  | .vclipq .. => true
  | .vnormq .. => true
  | .vrot => true
  | .stgset .. => true
  | .stgshift .. => true
  | .bnLd .. => true
  | .bnRt .. => true
  | .bnRto .. => true
  | .bnInv .. => true
  | .bnRd .. => true
  | .skInit .. => true
  | .skQadd .. => true
  | .skHadd .. => true
  | .skDadd .. => true
  | .skMerge .. => true
  | .skCompact .. => true
  | .skQuant .. => true
  | .skRank .. => true
  | .skTop .. => true
  | .skCard .. => true
  | .skSeal .. => true
  | .skChk .. => true
  | .mxMma _ ac sc _ _ => scopeOk ac 0 sc
  | .mxProm .. => true
  | .mxProme .. => true
  | .mxZero .. => true
  | .mxZld _ ac sc _ _ => scopeOk ac 0 sc
  | .mxZst _ rl sc _ _ => scopeOk 0 rl sc
  | .mxZcvt _ rl sc _ _ => scopeOk 0 rl sc
  | .mxZadd .. => true
  | .mxScl .. => true
  | .mxWsel .. => true
  | .mxWake .. => true
  | .mxGate .. => true
  | .mxTask _ ac rl sc _ _ => scopeOk ac rl sc
  | .mxTstat .. => true
  | .mxTkill .. => true
  | .mxQsplit .. => true
  | .mxFence _ rl sc => scopeOk 0 rl sc
  | .mxCfg .. => true
  | .cpCopy _ ac rl sc _ _ => scopeOk ac rl sc
  | .cpLdt _ ac rl sc _ _ => scopeOk ac rl sc
  | .cpStt _ ac rl sc _ _ => scopeOk ac rl sc
  | .cpFill _ ac sc _ _ => scopeOk ac 0 sc
  | .cpMap .. => true
  | .cpUnmap _ rl sc _ => scopeOk 0 rl sc
  | .cpFlush _ ac rl sc _ _ => scopeOk ac rl sc
  | .cpInval _ ac rl sc _ _ => scopeOk ac rl sc
  | .cpWfill _ ac sc _ _ => scopeOk ac 0 sc
  | .cpOvl _ ac sc _ _ => scopeOk ac 0 sc
  | .cpSpill _ ac rl sc _ _ => scopeOk ac rl sc
  | .cpUnspill _ ac rl sc _ _ => scopeOk ac rl sc
  | .cpBcnt _ rl sc _ _ => scopeOk 0 rl sc
  | .cpTclr .. => true
  | .clTmk .. => true
  | .clTfree .. => true
  | .clPost _ ac rl sc _ _ => scopeOk ac rl sc
  | .clTake _ ac rl sc _ _ => scopeOk ac rl sc
  | .clFrz .. => true
  | .clThaw .. => true
  | .clSave .. => true
  | .clRst .. => true
  | .clEditRemove .. => true
  | .clEditAdd .. => true
  | .clReshard _ ac rl sc _ _ => scopeOk ac rl sc
  | .clQuery .. => true
  | .clMcast _ ac rl sc _ _ => scopeOk ac rl sc
  | .clBar _ ac rl sc _ _ => scopeOk ac rl sc
  | .clAbort .. => true
  | .evSend .. => true
  | .evRecv .. => true
  | .evGather .. => true
  | .evOpen .. => true
  | .evClose .. => true
  | .dsLaunch _ rl sc _ _ => scopeOk 0 rl sc
  | .dsLaunchW _ rl sc _ _ => scopeOk 0 rl sc
  | .dsQpush _ rl sc _ _ => scopeOk 0 rl sc
  | .dsQpop _ ac sc _ _ => scopeOk ac 0 sc
  | .dsCondSet .. => true
  | .dsCondAdd .. => true
  | .dsCondOr .. => true
  | .dsCondAnd .. => true
  | .dsGstart .. => true
  | .dsGstop .. => true
  | .dsWake .. => true
  | .dsPrio .. => true
  | .dsQuery .. => true
  | .tlInv .. => true
  | .tlInva .. => true
  | .tlProbe .. => true
  | .tlRoot .. => true
  | .tlHash .. => true
  | .tlDlog .. => true
  | .ptQuiesce .. => true
  | .ptResume .. => true
  | .ptStateRead .. => true
  | .ptLayout .. => true
  | .ptVfsetAssign .. => true
  | .ptVfsetRelease .. => true
  | .ptWays .. => true
  | .ptMove .. => true
  | .ptRetire .. => true
  | .ptFlr .. => true
  | .gtLset .. => true
  | .gtParty .. => true
  | .gtReleaseInstall .. => true
  | .gtReleaseRevoke .. => true
  | .gtReleaseApply .. => true
  | .jxRecv .. => true
  | .jxSend .. => true
  | .jxWait .. => true
  | .jxEnd => true
  | .jxEcreate .. => true
  | .jxEload .. => true
  | .jxEpark .. => true
  | .jxMabort .. => true
  | .jxWaitResume => true
  | .claim => true
  | .landingArrival .. => true
  | .landingTimeout => true
  | .safePointOverrun => true
  | .trap .. => true
  | .faultQueuePost => true
  | .sliceEnd => true
  | .priorityPreemption => true
  | .waitConditionMet .. => true
  | .waitDeadline .. => true
  | .readyTableAdmit .. => true
  | .spinSuspend => true
  | .heldGroupIssue => true
  | .barrierArrival .. => true
  | .pageWalk .. => true
  | .rds .. => true
  | .rdx .. => true
  | .upg .. => true
  | .wbd .. => true
  | .evc .. => true
  | .fwds .. => true
  | .fwdx .. => true
  | .inv .. => true
  | .dat .. => true
  | .cmpMessage .. => true
  | .ack .. => true
  | .don .. => true
  | .dieLinkFailure .. => true
  | .uncorrectableError .. => true
  | .correctableError .. => true
  | .commandCompletion .. => true
  | .overlayLoadComplete => true
  | .cpCszWrite .. => true
  | .fpSeedWrite .. => true
  | .fpVcfgWrite .. => true
  | .fpModeWrite .. => true
  | .patternLoadEnd => true
  | .blockPortWrite => true
  | .subarrayIdleOff .. => true
  | .subarrayOn .. => true
  | .mxPoolWrite .. => true
  | .taskStart .. => true
  | .taskEnd .. => true
  | .nodePull .. => true
  | .takeDelivery .. => true
  | .configRefill .. => true
  | .clRingWrite .. => true
  | .instructionBudgetExpiry => true
  | .wallBudgetExpiry .. => true
  | .episodeWipeComplete .. => true
  | .jwi => true
  | .jackWrite .. => true
  | .poolSlotEnqueue .. => true
  | .graphActivation => true
  | .dsAbortGo .. => true
  | .policyInstallComplete .. => true
  | .scrubLine => true
  | .frameMove => true
  | .mediaEntryTake .. => true
  | .mediaDecode .. => true
  | .mediaFlush .. => true
  | .mediaReset .. => true
  | .mediaCompletion .. => true
  | .msCtlWrite .. => true
  | .hostMemoryRead .. => true
  | .hostMemoryWrite .. => true
  | .hostAtomic .. => true
  | .spdmGetVersion .. => true
  | .spdmGetCapabilities .. => true
  | .spdmNegotiateAlgorithms .. => true
  | .spdmGetDigests .. => true
  | .spdmGetCertificate .. => true
  | .spdmChallenge .. => true
  | .spdmGetMeasurements .. => true
  | .spdmKeyExchange .. => true
  | .spdmFinish .. => true
  | .spdmEndSession .. => true
  | .mbVersion => true
  | .mbImageWrite => true
  | .mbImageCommit => true
  | .mbLifeCycleTransition => true
  | .mbThrottle => true
  | .mbLogDrain => true
  | .mcHeadWrite .. => true
  | .msiRaise .. => true
  | .deviceRegisterWrite .. => true
  | .qlTrain .. => true
  | .qlEnableWrite .. => true
  | .qlTrainComplete .. => true
  | .quaylinkFlit .. => true
  | .quaylinkPortDown .. => true
  | .coldReset => true
  | .boot => true
  | .thermalThrottle .. => true
  | .powerLimitThrottle => true
  | .hartInstruction .. => true
  | .machineTimerInterrupt => true
  | .thermalThrottleRelease .. => true
  | .powerLimitRelease => true

end Sys2Proof
end

