-- ==== Sys2Proof/Decode.lean ====
section
/-! DEFINITION. The decoder, total on every word and rejecting by name (R40, R47, R49, R51), and the encoder
written from the same encoding tables. A word is a number below 2^32, bit 0 its least significant bit. -/
namespace Sys2Proof

/-- Why a word is not an instruction: each raises illegal instruction (0x02), sub-reason 0 (R47, R49). -/
inductive DecodeError where
  /-- Majors 0x1E and 0x1F (R49). -/
  | reservedMajor
  /-- A minor or relation no instruction has (R49, R51). -/
  | unassignedMinor
  /-- A field that must be zero is not (R47). -/
  | reservedField
  /-- An operand value the word may not hold (WellFormed). -/
  | illegalOperand
  deriving DecidableEq, Repr

/-- Accept a decoded instruction when it is well formed and its unused fields are zero. -/
def accept (zero : Bool) (i : Instr) : Except DecodeError Instr :=
  if zero then (if i.wellFormed then .ok i else .error .illegalOperand) else .error .reservedField

/-- Words of major 0x00 (R49). -/
def decode00 (w : Nat) : Except DecodeError Instr :=
  match w / 32768 % 128 with
  | 0 => accept (true) (.add (BitVec.ofNat 4 (w / 4194304 % 16)) (BitVec.ofNat 5 (w / 1024 % 32)) (BitVec.ofNat 5 (w / 32 % 32)) (BitVec.ofNat 5 (w % 32)))
  | 1 => accept (true) (.sub (BitVec.ofNat 4 (w / 4194304 % 16)) (BitVec.ofNat 5 (w / 1024 % 32)) (BitVec.ofNat 5 (w / 32 % 32)) (BitVec.ofNat 5 (w % 32)))
  | 2 => accept (true) (.mul (BitVec.ofNat 4 (w / 4194304 % 16)) (BitVec.ofNat 5 (w / 1024 % 32)) (BitVec.ofNat 5 (w / 32 % 32)) (BitVec.ofNat 5 (w % 32)))
  | 3 => accept (true) (.mulh (BitVec.ofNat 4 (w / 4194304 % 16)) (BitVec.ofNat 5 (w / 1024 % 32)) (BitVec.ofNat 5 (w / 32 % 32)) (BitVec.ofNat 5 (w % 32)))
  | 4 => accept (true) (.mulhn (BitVec.ofNat 4 (w / 4194304 % 16)) (BitVec.ofNat 5 (w / 1024 % 32)) (BitVec.ofNat 5 (w / 32 % 32)) (BitVec.ofNat 5 (w % 32)))
  | 5 => accept (true) (.div (BitVec.ofNat 4 (w / 4194304 % 16)) (BitVec.ofNat 5 (w / 1024 % 32)) (BitVec.ofNat 5 (w / 32 % 32)) (BitVec.ofNat 5 (w % 32)))
  | 6 => accept (true) (.divn (BitVec.ofNat 4 (w / 4194304 % 16)) (BitVec.ofNat 5 (w / 1024 % 32)) (BitVec.ofNat 5 (w / 32 % 32)) (BitVec.ofNat 5 (w % 32)))
  | 7 => accept (true) (.rem (BitVec.ofNat 4 (w / 4194304 % 16)) (BitVec.ofNat 5 (w / 1024 % 32)) (BitVec.ofNat 5 (w / 32 % 32)) (BitVec.ofNat 5 (w % 32)))
  | 8 => accept (true) (.remn (BitVec.ofNat 4 (w / 4194304 % 16)) (BitVec.ofNat 5 (w / 1024 % 32)) (BitVec.ofNat 5 (w / 32 % 32)) (BitVec.ofNat 5 (w % 32)))
  | 9 => accept (true) (.and (BitVec.ofNat 4 (w / 4194304 % 16)) (BitVec.ofNat 5 (w / 1024 % 32)) (BitVec.ofNat 5 (w / 32 % 32)) (BitVec.ofNat 5 (w % 32)))
  | 10 => accept (true) (.or (BitVec.ofNat 4 (w / 4194304 % 16)) (BitVec.ofNat 5 (w / 1024 % 32)) (BitVec.ofNat 5 (w / 32 % 32)) (BitVec.ofNat 5 (w % 32)))
  | 11 => accept (true) (.xor (BitVec.ofNat 4 (w / 4194304 % 16)) (BitVec.ofNat 5 (w / 1024 % 32)) (BitVec.ofNat 5 (w / 32 % 32)) (BitVec.ofNat 5 (w % 32)))
  | 12 => accept (true) (.andn (BitVec.ofNat 4 (w / 4194304 % 16)) (BitVec.ofNat 5 (w / 1024 % 32)) (BitVec.ofNat 5 (w / 32 % 32)) (BitVec.ofNat 5 (w % 32)))
  | 13 => accept (true) (.shl (BitVec.ofNat 4 (w / 4194304 % 16)) (BitVec.ofNat 5 (w / 1024 % 32)) (BitVec.ofNat 5 (w / 32 % 32)) (BitVec.ofNat 5 (w % 32)))
  | 14 => accept (true) (.shr (BitVec.ofNat 4 (w / 4194304 % 16)) (BitVec.ofNat 5 (w / 1024 % 32)) (BitVec.ofNat 5 (w / 32 % 32)) (BitVec.ofNat 5 (w % 32)))
  | 15 => accept (true) (.sar (BitVec.ofNat 4 (w / 4194304 % 16)) (BitVec.ofNat 5 (w / 1024 % 32)) (BitVec.ofNat 5 (w / 32 % 32)) (BitVec.ofNat 5 (w % 32)))
  | 16 => accept (true) (.min (BitVec.ofNat 4 (w / 4194304 % 16)) (BitVec.ofNat 5 (w / 1024 % 32)) (BitVec.ofNat 5 (w / 32 % 32)) (BitVec.ofNat 5 (w % 32)))
  | 17 => accept (true) (.max (BitVec.ofNat 4 (w / 4194304 % 16)) (BitVec.ofNat 5 (w / 1024 % 32)) (BitVec.ofNat 5 (w / 32 % 32)) (BitVec.ofNat 5 (w % 32)))
  | 18 => accept (true) (.minn (BitVec.ofNat 4 (w / 4194304 % 16)) (BitVec.ofNat 5 (w / 1024 % 32)) (BitVec.ofNat 5 (w / 32 % 32)) (BitVec.ofNat 5 (w % 32)))
  | 19 => accept (true) (.maxn (BitVec.ofNat 4 (w / 4194304 % 16)) (BitVec.ofNat 5 (w / 1024 % 32)) (BitVec.ofNat 5 (w / 32 % 32)) (BitVec.ofNat 5 (w % 32)))
  | 20 => accept (w % 32 == 0) (.clz (BitVec.ofNat 4 (w / 4194304 % 16)) (BitVec.ofNat 5 (w / 1024 % 32)) (BitVec.ofNat 5 (w / 32 % 32)))
  | 21 => accept (w % 32 == 0) (.ctz (BitVec.ofNat 4 (w / 4194304 % 16)) (BitVec.ofNat 5 (w / 1024 % 32)) (BitVec.ofNat 5 (w / 32 % 32)))
  | 22 => accept (w % 32 == 0) (.popc (BitVec.ofNat 4 (w / 4194304 % 16)) (BitVec.ofNat 5 (w / 1024 % 32)) (BitVec.ofNat 5 (w / 32 % 32)))
  | 23 => accept (true) (.rotl (BitVec.ofNat 4 (w / 4194304 % 16)) (BitVec.ofNat 5 (w / 1024 % 32)) (BitVec.ofNat 5 (w / 32 % 32)) (BitVec.ofNat 5 (w % 32)))
  | _ => .error .unassignedMinor

/-- Words of major 0x01 (R49). -/
def decode01 (w : Nat) : Except DecodeError Instr :=
  match w / 524288 % 8 with
  | 0 => accept (true) (.addi (BitVec.ofNat 4 (w / 4194304 % 16)) (BitVec.ofNat 5 (w / 16384 % 32)) (BitVec.ofNat 5 (w / 512 % 32)) (BitVec.ofNat 9 (w % 512)))
  | 1 => accept (true) (.andi (BitVec.ofNat 4 (w / 4194304 % 16)) (BitVec.ofNat 5 (w / 16384 % 32)) (BitVec.ofNat 5 (w / 512 % 32)) (BitVec.ofNat 9 (w % 512)))
  | 2 => accept (true) (.ori (BitVec.ofNat 4 (w / 4194304 % 16)) (BitVec.ofNat 5 (w / 16384 % 32)) (BitVec.ofNat 5 (w / 512 % 32)) (BitVec.ofNat 9 (w % 512)))
  | 3 => accept (true) (.xori (BitVec.ofNat 4 (w / 4194304 % 16)) (BitVec.ofNat 5 (w / 16384 % 32)) (BitVec.ofNat 5 (w / 512 % 32)) (BitVec.ofNat 9 (w % 512)))
  | 4 => accept (w / 64 % 8 == 0) (.shli (BitVec.ofNat 4 (w / 4194304 % 16)) (BitVec.ofNat 5 (w / 16384 % 32)) (BitVec.ofNat 5 (w / 512 % 32)) (BitVec.ofNat 6 (w % 64)))
  | 5 => accept (w / 64 % 8 == 0) (.shri (BitVec.ofNat 4 (w / 4194304 % 16)) (BitVec.ofNat 5 (w / 16384 % 32)) (BitVec.ofNat 5 (w / 512 % 32)) (BitVec.ofNat 6 (w % 64)))
  | 6 => accept (w / 64 % 8 == 0) (.sari (BitVec.ofNat 4 (w / 4194304 % 16)) (BitVec.ofNat 5 (w / 16384 % 32)) (BitVec.ofNat 5 (w / 512 % 32)) (BitVec.ofNat 6 (w % 64)))
  | 7 => accept (true) (.muli (BitVec.ofNat 4 (w / 4194304 % 16)) (BitVec.ofNat 5 (w / 16384 % 32)) (BitVec.ofNat 5 (w / 512 % 32)) (BitVec.ofNat 9 (w % 512)))
  | _ => .error .unassignedMinor

/-- Words of major 0x02 (R49). -/
def decode02 (w : Nat) : Except DecodeError Instr :=
  match w / 1048576 % 4 with
  | 0 => accept (true) (.li (BitVec.ofNat 4 (w / 4194304 % 16)) (BitVec.ofNat 5 (w / 32768 % 32)) (BitVec.ofNat 15 (w % 32768)))
  | 1 => accept (true) (.lic (BitVec.ofNat 4 (w / 4194304 % 16)) (BitVec.ofNat 5 (w / 32768 % 32)) (BitVec.ofNat 15 (w % 32768)))
  | _ => .error .unassignedMinor

/-- Words of major 0x03 (R49). -/
def decode03 (w : Nat) : Except DecodeError Instr :=
  match w / 1024 % 16 with
  | 0 => accept (w / 16384 % 4 == 0) (.cmpEq (BitVec.ofNat 4 (w / 4194304 % 16)) (BitVec.ofNat 3 (w / 524288 % 8)) (BitVec.ofNat 3 (w / 65536 % 8)) (BitVec.ofNat 5 (w / 32 % 32)) (BitVec.ofNat 5 (w % 32)))
  | 1 => accept (w / 16384 % 4 == 0) (.cmpNe (BitVec.ofNat 4 (w / 4194304 % 16)) (BitVec.ofNat 3 (w / 524288 % 8)) (BitVec.ofNat 3 (w / 65536 % 8)) (BitVec.ofNat 5 (w / 32 % 32)) (BitVec.ofNat 5 (w % 32)))
  | 2 => accept (w / 16384 % 4 == 0) (.cmpLt (BitVec.ofNat 4 (w / 4194304 % 16)) (BitVec.ofNat 3 (w / 524288 % 8)) (BitVec.ofNat 3 (w / 65536 % 8)) (BitVec.ofNat 5 (w / 32 % 32)) (BitVec.ofNat 5 (w % 32)))
  | 3 => accept (w / 16384 % 4 == 0) (.cmpGe (BitVec.ofNat 4 (w / 4194304 % 16)) (BitVec.ofNat 3 (w / 524288 % 8)) (BitVec.ofNat 3 (w / 65536 % 8)) (BitVec.ofNat 5 (w / 32 % 32)) (BitVec.ofNat 5 (w % 32)))
  | 4 => accept (w / 16384 % 4 == 0) (.cmpLtn (BitVec.ofNat 4 (w / 4194304 % 16)) (BitVec.ofNat 3 (w / 524288 % 8)) (BitVec.ofNat 3 (w / 65536 % 8)) (BitVec.ofNat 5 (w / 32 % 32)) (BitVec.ofNat 5 (w % 32)))
  | 5 => accept (w / 16384 % 4 == 0) (.cmpGen (BitVec.ofNat 4 (w / 4194304 % 16)) (BitVec.ofNat 3 (w / 524288 % 8)) (BitVec.ofNat 3 (w / 65536 % 8)) (BitVec.ofNat 5 (w / 32 % 32)) (BitVec.ofNat 5 (w % 32)))
  | 6 => accept (w / 16384 % 4 == 0) (.cmpTand (BitVec.ofNat 4 (w / 4194304 % 16)) (BitVec.ofNat 3 (w / 524288 % 8)) (BitVec.ofNat 3 (w / 65536 % 8)) (BitVec.ofNat 5 (w / 32 % 32)) (BitVec.ofNat 5 (w % 32)))
  | 7 => accept (w / 16384 % 4 == 0) (.cmpTnand (BitVec.ofNat 4 (w / 4194304 % 16)) (BitVec.ofNat 3 (w / 524288 % 8)) (BitVec.ofNat 3 (w / 65536 % 8)) (BitVec.ofNat 5 (w / 32 % 32)) (BitVec.ofNat 5 (w % 32)))
  | _ => .error .unassignedMinor

/-- Words of major 0x04 (R49). -/
def decode04 (w : Nat) : Except DecodeError Instr :=
  match w / 8192 % 8 with
  | 0 => accept (true) (.cmpiEq (BitVec.ofNat 4 (w / 4194304 % 16)) (BitVec.ofNat 3 (w / 524288 % 8)) (BitVec.ofNat 3 (w / 65536 % 8)) (BitVec.ofNat 5 (w / 256 % 32)) (BitVec.ofNat 8 (w % 256)))
  | 1 => accept (true) (.cmpiNe (BitVec.ofNat 4 (w / 4194304 % 16)) (BitVec.ofNat 3 (w / 524288 % 8)) (BitVec.ofNat 3 (w / 65536 % 8)) (BitVec.ofNat 5 (w / 256 % 32)) (BitVec.ofNat 8 (w % 256)))
  | 2 => accept (true) (.cmpiLt (BitVec.ofNat 4 (w / 4194304 % 16)) (BitVec.ofNat 3 (w / 524288 % 8)) (BitVec.ofNat 3 (w / 65536 % 8)) (BitVec.ofNat 5 (w / 256 % 32)) (BitVec.ofNat 8 (w % 256)))
  | 3 => accept (true) (.cmpiGe (BitVec.ofNat 4 (w / 4194304 % 16)) (BitVec.ofNat 3 (w / 524288 % 8)) (BitVec.ofNat 3 (w / 65536 % 8)) (BitVec.ofNat 5 (w / 256 % 32)) (BitVec.ofNat 8 (w % 256)))
  | 4 => accept (true) (.cmpiLtn (BitVec.ofNat 4 (w / 4194304 % 16)) (BitVec.ofNat 3 (w / 524288 % 8)) (BitVec.ofNat 3 (w / 65536 % 8)) (BitVec.ofNat 5 (w / 256 % 32)) (BitVec.ofNat 8 (w % 256)))
  | 5 => accept (true) (.cmpiGen (BitVec.ofNat 4 (w / 4194304 % 16)) (BitVec.ofNat 3 (w / 524288 % 8)) (BitVec.ofNat 3 (w / 65536 % 8)) (BitVec.ofNat 5 (w / 256 % 32)) (BitVec.ofNat 8 (w % 256)))
  | 6 => accept (w / 64 % 4 == 0) (.cmpiTbit (BitVec.ofNat 4 (w / 4194304 % 16)) (BitVec.ofNat 3 (w / 524288 % 8)) (BitVec.ofNat 3 (w / 65536 % 8)) (BitVec.ofNat 5 (w / 256 % 32)) (BitVec.ofNat 6 (w % 64)))
  | 7 => accept (w / 64 % 4 == 0) (.cmpiTnbit (BitVec.ofNat 4 (w / 4194304 % 16)) (BitVec.ofNat 3 (w / 524288 % 8)) (BitVec.ofNat 3 (w / 65536 % 8)) (BitVec.ofNat 5 (w / 256 % 32)) (BitVec.ofNat 6 (w % 64)))
  | _ => .error .unassignedMinor

/-- Words of major 0x05 (R49). -/
def decode05 (w : Nat) : Except DecodeError Instr :=
  match w / 262144 % 16 with
  | 0 => accept (w % 32 == 0) (.aadd (BitVec.ofNat 4 (w / 4194304 % 16)) (BitVec.ofNat 4 (w / 16384 % 16)) (BitVec.ofNat 4 (w / 1024 % 16)) (BitVec.ofNat 5 (w / 32 % 32)))
  | 1 => accept (true) (.aaddi (BitVec.ofNat 4 (w / 4194304 % 16)) (BitVec.ofNat 4 (w / 16384 % 16)) (BitVec.ofNat 4 (w / 1024 % 16)) (BitVec.ofNat 10 (w % 1024)))
  | 2 => accept (w % 32 == 0) (.asub (BitVec.ofNat 4 (w / 4194304 % 16)) (BitVec.ofNat 5 (w / 8192 % 32)) (BitVec.ofNat 4 (w / 512 % 16)) (BitVec.ofNat 4 (w / 32 % 16)))
  | 3 => accept (w % 512 == 0) (.aset (BitVec.ofNat 4 (w / 4194304 % 16)) (BitVec.ofNat 4 (w / 16384 % 16)) (BitVec.ofNat 5 (w / 512 % 32)))
  | 4 => accept (w % 64 == 0) (.ahi (BitVec.ofNat 4 (w / 4194304 % 16)) (BitVec.ofNat 4 (w / 16384 % 16)) (BitVec.ofNat 8 (w / 64 % 256)))
  | 5 => accept (w % 16 == 0) (.aalign (BitVec.ofNat 4 (w / 4194304 % 16)) (BitVec.ofNat 4 (w / 16384 % 16)) (BitVec.ofNat 4 (w / 1024 % 16)) (BitVec.ofNat 6 (w / 16 % 64)))
  | 6 => accept (w % 256 == 0) (.aget (BitVec.ofNat 4 (w / 4194304 % 16)) (BitVec.ofNat 5 (w / 8192 % 32)) (BitVec.ofNat 4 (w / 512 % 16)) (BitVec.ofNat 1 (w / 256 % 2)))
  | _ => .error .unassignedMinor

/-- Words of major 0x06 (R49). -/
def decode06 (w : Nat) : Except DecodeError Instr :=
  match w / 524288 % 8 with
  | 0 => accept (true) (.ldI8 (BitVec.ofNat 4 (w / 4194304 % 16)) (BitVec.ofNat 5 (w / 16384 % 32)) (BitVec.ofNat 4 (w / 1024 % 16)) (BitVec.ofNat 5 (w / 32 % 32)) (BitVec.ofNat 5 (w % 32)))
  | 1 => accept (true) (.ldI16 (BitVec.ofNat 4 (w / 4194304 % 16)) (BitVec.ofNat 5 (w / 16384 % 32)) (BitVec.ofNat 4 (w / 1024 % 16)) (BitVec.ofNat 5 (w / 32 % 32)) (BitVec.ofNat 5 (w % 32)))
  | 2 => accept (true) (.ldI32 (BitVec.ofNat 4 (w / 4194304 % 16)) (BitVec.ofNat 5 (w / 16384 % 32)) (BitVec.ofNat 4 (w / 1024 % 16)) (BitVec.ofNat 5 (w / 32 % 32)) (BitVec.ofNat 5 (w % 32)))
  | 3 => accept (true) (.ldD (BitVec.ofNat 4 (w / 4194304 % 16)) (BitVec.ofNat 5 (w / 16384 % 32)) (BitVec.ofNat 4 (w / 1024 % 16)) (BitVec.ofNat 5 (w / 32 % 32)) (BitVec.ofNat 5 (w % 32)))
  | 4 => accept (true) (.ldN8 (BitVec.ofNat 4 (w / 4194304 % 16)) (BitVec.ofNat 5 (w / 16384 % 32)) (BitVec.ofNat 4 (w / 1024 % 16)) (BitVec.ofNat 5 (w / 32 % 32)) (BitVec.ofNat 5 (w % 32)))
  | 5 => accept (true) (.ldN16 (BitVec.ofNat 4 (w / 4194304 % 16)) (BitVec.ofNat 5 (w / 16384 % 32)) (BitVec.ofNat 4 (w / 1024 % 16)) (BitVec.ofNat 5 (w / 32 % 32)) (BitVec.ofNat 5 (w % 32)))
  | 6 => accept (true) (.ldN32 (BitVec.ofNat 4 (w / 4194304 % 16)) (BitVec.ofNat 5 (w / 16384 % 32)) (BitVec.ofNat 4 (w / 1024 % 16)) (BitVec.ofNat 5 (w / 32 % 32)) (BitVec.ofNat 5 (w % 32)))
  | _ => .error .unassignedMinor

/-- Words of major 0x07 (R49). -/
def decode07 (w : Nat) : Except DecodeError Instr :=
  match w / 524288 % 8 with
  | 0 => accept (true) (.stB (BitVec.ofNat 4 (w / 4194304 % 16)) (BitVec.ofNat 5 (w / 16384 % 32)) (BitVec.ofNat 4 (w / 1024 % 16)) (BitVec.ofNat 10 (w % 1024)))
  | 1 => accept (true) (.stH (BitVec.ofNat 4 (w / 4194304 % 16)) (BitVec.ofNat 5 (w / 16384 % 32)) (BitVec.ofNat 4 (w / 1024 % 16)) (BitVec.ofNat 10 (w % 1024)))
  | 2 => accept (true) (.stW (BitVec.ofNat 4 (w / 4194304 % 16)) (BitVec.ofNat 5 (w / 16384 % 32)) (BitVec.ofNat 4 (w / 1024 % 16)) (BitVec.ofNat 10 (w % 1024)))
  | 3 => accept (true) (.stD (BitVec.ofNat 4 (w / 4194304 % 16)) (BitVec.ofNat 5 (w / 16384 % 32)) (BitVec.ofNat 4 (w / 1024 % 16)) (BitVec.ofNat 10 (w % 1024)))
  | _ => .error .unassignedMinor

/-- Words of major 0x08 (R49). -/
def decode08 (w : Nat) : Except DecodeError Instr :=
  match w / 524288 % 8 with
  | 0 => accept (true) (.ldt (BitVec.ofNat 4 (w / 4194304 % 16)) (BitVec.ofNat 5 (w / 16384 % 32)) (BitVec.ofNat 4 (w / 1024 % 16)) (BitVec.ofNat 4 (w / 64 % 16)) (BitVec.ofNat 1 (w / 32 % 2)) (BitVec.ofNat 5 (w % 32)))
  | 1 => accept (w % 4 == 0) (.stt (BitVec.ofNat 4 (w / 4194304 % 16)) (BitVec.ofNat 5 (w / 16384 % 32)) (BitVec.ofNat 4 (w / 1024 % 16)) (BitVec.ofNat 4 (w / 64 % 16)) (BitVec.ofNat 1 (w / 32 % 2)) (BitVec.ofNat 3 (w / 4 % 8)))
  | 2 => accept (w / 32 % 2 == 0) (.vldt (BitVec.ofNat 4 (w / 4194304 % 16)) (BitVec.ofNat 5 (w / 16384 % 32)) (BitVec.ofNat 4 (w / 1024 % 16)) (BitVec.ofNat 4 (w / 64 % 16)) (BitVec.ofNat 5 (w % 32)))
  | 3 => accept (w % 4 == 0 && w / 32 % 2 == 0) (.vstt (BitVec.ofNat 4 (w / 4194304 % 16)) (BitVec.ofNat 5 (w / 16384 % 32)) (BitVec.ofNat 4 (w / 1024 % 16)) (BitVec.ofNat 4 (w / 64 % 16)) (BitVec.ofNat 3 (w / 4 % 8)))
  | _ => .error .unassignedMinor

/-- Words of major 0x09 (R49). -/
def decode09 (w : Nat) : Except DecodeError Instr :=
  match w / 262144 % 16 with
  | 0 => accept (w % 8 == 0) (.amoAdd (BitVec.ofNat 4 (w / 4194304 % 16)) (BitVec.ofNat 5 (w / 8192 % 32)) (BitVec.ofNat 4 (w / 512 % 16)) (BitVec.ofNat 5 (w / 16 % 32)) (BitVec.ofNat 1 (w / 8 % 2)))
  | 1 => accept (w % 8 == 0) (.amoAnd (BitVec.ofNat 4 (w / 4194304 % 16)) (BitVec.ofNat 5 (w / 8192 % 32)) (BitVec.ofNat 4 (w / 512 % 16)) (BitVec.ofNat 5 (w / 16 % 32)) (BitVec.ofNat 1 (w / 8 % 2)))
  | 2 => accept (w % 8 == 0) (.amoOr (BitVec.ofNat 4 (w / 4194304 % 16)) (BitVec.ofNat 5 (w / 8192 % 32)) (BitVec.ofNat 4 (w / 512 % 16)) (BitVec.ofNat 5 (w / 16 % 32)) (BitVec.ofNat 1 (w / 8 % 2)))
  | 3 => accept (w % 8 == 0) (.amoXor (BitVec.ofNat 4 (w / 4194304 % 16)) (BitVec.ofNat 5 (w / 8192 % 32)) (BitVec.ofNat 4 (w / 512 % 16)) (BitVec.ofNat 5 (w / 16 % 32)) (BitVec.ofNat 1 (w / 8 % 2)))
  | 4 => accept (w % 8 == 0) (.amoMin (BitVec.ofNat 4 (w / 4194304 % 16)) (BitVec.ofNat 5 (w / 8192 % 32)) (BitVec.ofNat 4 (w / 512 % 16)) (BitVec.ofNat 5 (w / 16 % 32)) (BitVec.ofNat 1 (w / 8 % 2)))
  | 5 => accept (w % 8 == 0) (.amoMax (BitVec.ofNat 4 (w / 4194304 % 16)) (BitVec.ofNat 5 (w / 8192 % 32)) (BitVec.ofNat 4 (w / 512 % 16)) (BitVec.ofNat 5 (w / 16 % 32)) (BitVec.ofNat 1 (w / 8 % 2)))
  | 6 => accept (w % 8 == 0) (.amoMinn (BitVec.ofNat 4 (w / 4194304 % 16)) (BitVec.ofNat 5 (w / 8192 % 32)) (BitVec.ofNat 4 (w / 512 % 16)) (BitVec.ofNat 5 (w / 16 % 32)) (BitVec.ofNat 1 (w / 8 % 2)))
  | 7 => accept (w % 8 == 0) (.amoMaxn (BitVec.ofNat 4 (w / 4194304 % 16)) (BitVec.ofNat 5 (w / 8192 % 32)) (BitVec.ofNat 4 (w / 512 % 16)) (BitVec.ofNat 5 (w / 16 % 32)) (BitVec.ofNat 1 (w / 8 % 2)))
  | 8 => accept (w % 8 == 0) (.amoSwap (BitVec.ofNat 4 (w / 4194304 % 16)) (BitVec.ofNat 5 (w / 8192 % 32)) (BitVec.ofNat 4 (w / 512 % 16)) (BitVec.ofNat 5 (w / 16 % 32)) (BitVec.ofNat 1 (w / 8 % 2)))
  | 9 => accept (w % 8 == 0) (.amoCas (BitVec.ofNat 4 (w / 4194304 % 16)) (BitVec.ofNat 5 (w / 8192 % 32)) (BitVec.ofNat 4 (w / 512 % 16)) (BitVec.ofNat 5 (w / 16 % 32)) (BitVec.ofNat 1 (w / 8 % 2)))
  | _ => .error .unassignedMinor

/-- Words of major 0x0A (R49). -/
def decode0A (w : Nat) : Except DecodeError Instr :=
  match w / 262144 % 16 with
  | 0 => accept (w % 65536 == 0) (.br (BitVec.ofNat 4 (w / 4194304 % 16)) (BitVec.ofNat 2 (w / 65536 % 4)))
  | 1 => accept (w % 1024 == 0) (.brv (BitVec.ofNat 4 (w / 4194304 % 16)) (BitVec.ofNat 2 (w / 65536 % 4)) (BitVec.ofNat 3 (w / 8192 % 8)) (BitVec.ofNat 2 (w / 2048 % 4)) (BitVec.ofNat 1 (w / 1024 % 2)))
  | 2 => accept (true) (.prep (BitVec.ofNat 4 (w / 4194304 % 16)) (BitVec.ofNat 2 (w / 65536 % 4)) (BitVec.ofNat 16 (w % 65536)))
  | 3 => accept (w % 4096 == 0) (.prepa (BitVec.ofNat 4 (w / 4194304 % 16)) (BitVec.ofNat 2 (w / 65536 % 4)) (BitVec.ofNat 4 (w / 4096 % 16)))
  | 4 => accept (w % 4096 == 0) (.brl (BitVec.ofNat 4 (w / 4194304 % 16)) (BitVec.ofNat 2 (w / 65536 % 4)) (BitVec.ofNat 4 (w / 4096 % 16)))
  | 5 => accept (w % 32 == 0) (.lbNest (BitVec.ofNat 4 (w / 4194304 % 16)) (BitVec.ofNat 4 (w / 16384 % 16)) (BitVec.ofNat 3 (w / 2048 % 8)) (BitVec.ofNat 6 (w / 32 % 64)))
  | 6 => accept (w % 262144 == 0) (.lbExit (BitVec.ofNat 4 (w / 4194304 % 16)))
  | _ => .error .unassignedMinor

/-- Words of major 0x0B (R49). -/
def decode0B (w : Nat) : Except DecodeError Instr :=
  match w / 131072 % 32 with
  | 0 => accept (w % 4096 == 0) (.fence (BitVec.ofNat 4 (w / 4194304 % 16)) (BitVec.ofNat 3 (w / 16384 % 8)) (BitVec.ofNat 2 (w / 4096 % 4)))
  | 1 => accept (w % 16 == 0) (.bind (BitVec.ofNat 4 (w / 4194304 % 16)) (BitVec.ofNat 4 (w / 8192 % 16)) (BitVec.ofNat 5 (w / 256 % 32)) (BitVec.ofNat 4 (w / 16 % 16)))
  | 2 => accept (w % 8192 == 0) (.unbind (BitVec.ofNat 4 (w / 4194304 % 16)) (BitVec.ofNat 4 (w / 8192 % 16)))
  | 3 => accept (w % 1024 == 0) (.acq (BitVec.ofNat 4 (w / 4194304 % 16)) (BitVec.ofNat 3 (w / 16384 % 8)) (BitVec.ofNat 4 (w / 1024 % 16)))
  | 4 => accept (w % 1024 == 0) (.rel (BitVec.ofNat 4 (w / 4194304 % 16)) (BitVec.ofNat 3 (w / 16384 % 8)) (BitVec.ofNat 4 (w / 1024 % 16)))
  | 5 => accept (w % 8192 == 0) (.bwait (BitVec.ofNat 4 (w / 4194304 % 16)) (BitVec.ofNat 4 (w / 8192 % 16)))
  | 6 => accept (w % 256 == 0) (.binit (BitVec.ofNat 4 (w / 4194304 % 16)) (BitVec.ofNat 4 (w / 8192 % 16)) (BitVec.ofNat 5 (w / 256 % 32)))
  | 7 => accept (w % 64 == 0) (.twAny (BitVec.ofNat 4 (w / 4194304 % 16)) (BitVec.ofNat 1 (w / 65536 % 2)) (BitVec.ofNat 5 (w / 2048 % 32)) (BitVec.ofNat 5 (w / 64 % 32)))
  | 8 => accept (w % 64 == 0) (.twAll (BitVec.ofNat 4 (w / 4194304 % 16)) (BitVec.ofNat 1 (w / 65536 % 2)) (BitVec.ofNat 5 (w / 2048 % 32)) (BitVec.ofNat 5 (w / 64 % 32)))
  | 9 => accept (w % 64 == 0) (.twFfr (BitVec.ofNat 4 (w / 4194304 % 16)) (BitVec.ofNat 1 (w / 65536 % 2)) (BitVec.ofNat 5 (w / 2048 % 32)) (BitVec.ofNat 5 (w / 64 % 32)))
  | 10 => accept (w % 128 == 0) (.mwait (BitVec.ofNat 4 (w / 4194304 % 16)) (BitVec.ofNat 1 (w / 65536 % 2)) (BitVec.ofNat 4 (w / 4096 % 16)) (BitVec.ofNat 5 (w / 128 % 32)))
  | _ => .error .unassignedMinor

/-- Words of major 0x0C (R49). -/
def decode0C (w : Nat) : Except DecodeError Instr :=
  match w / 131072 % 32 with
  | 0 => accept (w / 65536 % 2 == 0) (.safe (BitVec.ofNat 4 (w / 4194304 % 16)) (BitVec.ofNat 16 (w % 65536)))
  | 1 => accept (w % 4096 == 0) (.suspend (BitVec.ofNat 4 (w / 4194304 % 16)) (BitVec.ofNat 5 (w / 4096 % 32)))
  | 2 => accept (w % 131072 == 0) (.yield (BitVec.ofNat 4 (w / 4194304 % 16)))
  | 3 => accept (w % 131072 == 0) (.retire (BitVec.ofNat 4 (w / 4194304 % 16)))
  | 4 => accept (w / 65536 % 2 == 0) (.svc (BitVec.ofNat 4 (w / 4194304 % 16)) (BitVec.ofNat 16 (w % 65536)))
  | 5 => accept (w / 65536 % 2 == 0) (.brk (BitVec.ofNat 4 (w / 4194304 % 16)) (BitVec.ofNat 16 (w % 65536)))
  | 6 => accept (true) (.sysrd (BitVec.ofNat 4 (w / 4194304 % 16)) (BitVec.ofNat 5 (w / 4096 % 32)) (BitVec.ofNat 12 (w % 4096)))
  | 7 => accept (true) (.syswr (BitVec.ofNat 4 (w / 4194304 % 16)) (BitVec.ofNat 5 (w / 4096 % 32)) (BitVec.ofNat 12 (w % 4096)))
  | 8 => accept (w % 8 == 0) (.rfe (BitVec.ofNat 4 (w / 4194304 % 16)) (BitVec.ofNat 4 (w / 8192 % 16)) (BitVec.ofNat 5 (w / 256 % 32)) (BitVec.ofNat 5 (w / 8 % 32)))
  | 9 => accept (w % 4096 == 0) (.qlock (BitVec.ofNat 4 (w / 4194304 % 16)) (BitVec.ofNat 5 (w / 4096 % 32)))
  | 10 => accept (w % 131072 == 0) (.qfree (BitVec.ofNat 4 (w / 4194304 % 16)))
  | 11 => accept (w % 128 == 0) (.arv (BitVec.ofNat 4 (w / 4194304 % 16)) (BitVec.ofNat 3 (w / 16384 % 8)) (BitVec.ofNat 1 (w / 8192 % 2)) (BitVec.ofNat 2 (w / 2048 % 4)) (BitVec.ofNat 4 (w / 128 % 16)))
  | _ => .error .unassignedMinor

/-- Words of major 0x0D (R49). -/
def decode0D (w : Nat) : Except DecodeError Instr :=
  match w / 65536 % 64 with
  | 0 => accept (w % 4 == 0) (.vld (BitVec.ofNat 1 (w / 33554432 % 2)) (BitVec.ofNat 3 (w / 4194304 % 8)) (BitVec.ofNat 5 (w / 2048 % 32)) (BitVec.ofNat 4 (w / 128 % 16)) (BitVec.ofNat 5 (w / 4 % 32)))
  | 1 => accept (true) (.vlds (BitVec.ofNat 1 (w / 33554432 % 2)) (BitVec.ofNat 3 (w / 4194304 % 8)) (BitVec.ofNat 5 (w / 2048 % 32)) (BitVec.ofNat 4 (w / 128 % 16)) (BitVec.ofNat 5 (w / 4 % 32)) (BitVec.ofNat 2 (w % 4)))
  | 2 => accept (w % 4 == 0) (.vldx (BitVec.ofNat 1 (w / 33554432 % 2)) (BitVec.ofNat 3 (w / 4194304 % 8)) (BitVec.ofNat 5 (w / 2048 % 32)) (BitVec.ofNat 4 (w / 128 % 16)) (BitVec.ofNat 5 (w / 4 % 32)))
  | 3 => accept (w % 4 == 0) (.vldb (BitVec.ofNat 1 (w / 33554432 % 2)) (BitVec.ofNat 3 (w / 4194304 % 8)) (BitVec.ofNat 5 (w / 2048 % 32)) (BitVec.ofNat 4 (w / 128 % 16)) (BitVec.ofNat 5 (w / 4 % 32)))
  | _ => .error .unassignedMinor

/-- Words of major 0x0E (R49). -/
def decode0E (w : Nat) : Except DecodeError Instr :=
  match w / 65536 % 64 with
  | 0 => accept (w % 128 == 0 && w / 33554432 % 2 == 0) (.vst (BitVec.ofNat 3 (w / 4194304 % 8)) (BitVec.ofNat 5 (w / 2048 % 32)) (BitVec.ofNat 4 (w / 128 % 16)))
  | 1 => accept (w % 32 == 0 && w / 33554432 % 2 == 0) (.vsts (BitVec.ofNat 3 (w / 4194304 % 8)) (BitVec.ofNat 5 (w / 2048 % 32)) (BitVec.ofNat 4 (w / 128 % 16)) (BitVec.ofNat 2 (w / 32 % 4)))
  | 2 => accept (w % 4 == 0 && w / 33554432 % 2 == 0) (.vstx (BitVec.ofNat 3 (w / 4194304 % 8)) (BitVec.ofNat 5 (w / 2048 % 32)) (BitVec.ofNat 4 (w / 128 % 16)) (BitVec.ofNat 5 (w / 4 % 32)))
  | _ => .error .unassignedMinor

/-- Words of major 0x0F (R49). -/
def decode0F (w : Nat) : Except DecodeError Instr :=
  match w / 65536 % 64 with
  | 0 => accept (true) (.vadd (BitVec.ofNat 1 (w / 33554432 % 2)) (BitVec.ofNat 3 (w / 4194304 % 8)) (BitVec.ofNat 5 (w / 2048 % 32)) (BitVec.ofNat 5 (w / 64 % 32)) (BitVec.ofNat 5 (w / 2 % 32)) (BitVec.ofNat 1 (w % 2)))
  | 1 => accept (true) (.vsub (BitVec.ofNat 1 (w / 33554432 % 2)) (BitVec.ofNat 3 (w / 4194304 % 8)) (BitVec.ofNat 5 (w / 2048 % 32)) (BitVec.ofNat 5 (w / 64 % 32)) (BitVec.ofNat 5 (w / 2 % 32)) (BitVec.ofNat 1 (w % 2)))
  | 2 => accept (true) (.vmul (BitVec.ofNat 1 (w / 33554432 % 2)) (BitVec.ofNat 3 (w / 4194304 % 8)) (BitVec.ofNat 5 (w / 2048 % 32)) (BitVec.ofNat 5 (w / 64 % 32)) (BitVec.ofNat 5 (w / 2 % 32)) (BitVec.ofNat 1 (w % 2)))
  | 3 => accept (true) (.vmulh (BitVec.ofNat 1 (w / 33554432 % 2)) (BitVec.ofNat 3 (w / 4194304 % 8)) (BitVec.ofNat 5 (w / 2048 % 32)) (BitVec.ofNat 5 (w / 64 % 32)) (BitVec.ofNat 5 (w / 2 % 32)) (BitVec.ofNat 1 (w % 2)))
  | 4 => accept (true) (.vand (BitVec.ofNat 1 (w / 33554432 % 2)) (BitVec.ofNat 3 (w / 4194304 % 8)) (BitVec.ofNat 5 (w / 2048 % 32)) (BitVec.ofNat 5 (w / 64 % 32)) (BitVec.ofNat 5 (w / 2 % 32)) (BitVec.ofNat 1 (w % 2)))
  | 5 => accept (true) (.vor (BitVec.ofNat 1 (w / 33554432 % 2)) (BitVec.ofNat 3 (w / 4194304 % 8)) (BitVec.ofNat 5 (w / 2048 % 32)) (BitVec.ofNat 5 (w / 64 % 32)) (BitVec.ofNat 5 (w / 2 % 32)) (BitVec.ofNat 1 (w % 2)))
  | 6 => accept (true) (.vxor (BitVec.ofNat 1 (w / 33554432 % 2)) (BitVec.ofNat 3 (w / 4194304 % 8)) (BitVec.ofNat 5 (w / 2048 % 32)) (BitVec.ofNat 5 (w / 64 % 32)) (BitVec.ofNat 5 (w / 2 % 32)) (BitVec.ofNat 1 (w % 2)))
  | 7 => accept (true) (.vshl (BitVec.ofNat 1 (w / 33554432 % 2)) (BitVec.ofNat 3 (w / 4194304 % 8)) (BitVec.ofNat 5 (w / 2048 % 32)) (BitVec.ofNat 5 (w / 64 % 32)) (BitVec.ofNat 5 (w / 2 % 32)) (BitVec.ofNat 1 (w % 2)))
  | 8 => accept (true) (.vshr (BitVec.ofNat 1 (w / 33554432 % 2)) (BitVec.ofNat 3 (w / 4194304 % 8)) (BitVec.ofNat 5 (w / 2048 % 32)) (BitVec.ofNat 5 (w / 64 % 32)) (BitVec.ofNat 5 (w / 2 % 32)) (BitVec.ofNat 1 (w % 2)))
  | 9 => accept (true) (.vsar (BitVec.ofNat 1 (w / 33554432 % 2)) (BitVec.ofNat 3 (w / 4194304 % 8)) (BitVec.ofNat 5 (w / 2048 % 32)) (BitVec.ofNat 5 (w / 64 % 32)) (BitVec.ofNat 5 (w / 2 % 32)) (BitVec.ofNat 1 (w % 2)))
  | 10 => accept (true) (.vmin (BitVec.ofNat 1 (w / 33554432 % 2)) (BitVec.ofNat 3 (w / 4194304 % 8)) (BitVec.ofNat 5 (w / 2048 % 32)) (BitVec.ofNat 5 (w / 64 % 32)) (BitVec.ofNat 5 (w / 2 % 32)) (BitVec.ofNat 1 (w % 2)))
  | 11 => accept (true) (.vmax (BitVec.ofNat 1 (w / 33554432 % 2)) (BitVec.ofNat 3 (w / 4194304 % 8)) (BitVec.ofNat 5 (w / 2048 % 32)) (BitVec.ofNat 5 (w / 64 % 32)) (BitVec.ofNat 5 (w / 2 % 32)) (BitVec.ofNat 1 (w % 2)))
  | 12 => accept (true) (.vadds (BitVec.ofNat 1 (w / 33554432 % 2)) (BitVec.ofNat 3 (w / 4194304 % 8)) (BitVec.ofNat 5 (w / 2048 % 32)) (BitVec.ofNat 5 (w / 64 % 32)) (BitVec.ofNat 5 (w / 2 % 32)) (BitVec.ofNat 1 (w % 2)))
  | 13 => accept (true) (.vsubs (BitVec.ofNat 1 (w / 33554432 % 2)) (BitVec.ofNat 3 (w / 4194304 % 8)) (BitVec.ofNat 5 (w / 2048 % 32)) (BitVec.ofNat 5 (w / 64 % 32)) (BitVec.ofNat 5 (w / 2 % 32)) (BitVec.ofNat 1 (w % 2)))
  | 14 => accept (w % 64 == 0) (.vabs (BitVec.ofNat 1 (w / 33554432 % 2)) (BitVec.ofNat 3 (w / 4194304 % 8)) (BitVec.ofNat 5 (w / 2048 % 32)) (BitVec.ofNat 5 (w / 64 % 32)))
  | 15 => accept (true) (.vmadw (BitVec.ofNat 1 (w / 33554432 % 2)) (BitVec.ofNat 3 (w / 4194304 % 8)) (BitVec.ofNat 5 (w / 2048 % 32)) (BitVec.ofNat 5 (w / 64 % 32)) (BitVec.ofNat 5 (w / 2 % 32)) (BitVec.ofNat 1 (w % 2)))
  | _ => .error .unassignedMinor

/-- Words of major 0x10 (R49). -/
noncomputable def decode10 (w : Nat) : Except DecodeError Instr :=
  match w / 65536 % 64 with
  | 0 => accept (true) (.vfadd (BitVec.ofNat 1 (w / 33554432 % 2)) (BitVec.ofNat 3 (w / 4194304 % 8)) (BitVec.ofNat 5 (w / 2048 % 32)) (BitVec.ofNat 5 (w / 64 % 32)) (BitVec.ofNat 5 (w / 2 % 32)) (BitVec.ofNat 1 (w % 2)))
  | 1 => accept (true) (.vfsub (BitVec.ofNat 1 (w / 33554432 % 2)) (BitVec.ofNat 3 (w / 4194304 % 8)) (BitVec.ofNat 5 (w / 2048 % 32)) (BitVec.ofNat 5 (w / 64 % 32)) (BitVec.ofNat 5 (w / 2 % 32)) (BitVec.ofNat 1 (w % 2)))
  | 2 => accept (true) (.vfmul (BitVec.ofNat 1 (w / 33554432 % 2)) (BitVec.ofNat 3 (w / 4194304 % 8)) (BitVec.ofNat 5 (w / 2048 % 32)) (BitVec.ofNat 5 (w / 64 % 32)) (BitVec.ofNat 5 (w / 2 % 32)) (BitVec.ofNat 1 (w % 2)))
  | 3 => accept (true) (.vfma (BitVec.ofNat 1 (w / 33554432 % 2)) (BitVec.ofNat 3 (w / 4194304 % 8)) (BitVec.ofNat 5 (w / 2048 % 32)) (BitVec.ofNat 5 (w / 64 % 32)) (BitVec.ofNat 5 (w / 2 % 32)) (BitVec.ofNat 1 (w % 2)))
  | 4 => accept (true) (.vfms (BitVec.ofNat 1 (w / 33554432 % 2)) (BitVec.ofNat 3 (w / 4194304 % 8)) (BitVec.ofNat 5 (w / 2048 % 32)) (BitVec.ofNat 5 (w / 64 % 32)) (BitVec.ofNat 5 (w / 2 % 32)) (BitVec.ofNat 1 (w % 2)))
  | 5 => accept (true) (.vfnma (BitVec.ofNat 1 (w / 33554432 % 2)) (BitVec.ofNat 3 (w / 4194304 % 8)) (BitVec.ofNat 5 (w / 2048 % 32)) (BitVec.ofNat 5 (w / 64 % 32)) (BitVec.ofNat 5 (w / 2 % 32)) (BitVec.ofNat 1 (w % 2)))
  | 6 => accept (true) (.vfmin (BitVec.ofNat 1 (w / 33554432 % 2)) (BitVec.ofNat 3 (w / 4194304 % 8)) (BitVec.ofNat 5 (w / 2048 % 32)) (BitVec.ofNat 5 (w / 64 % 32)) (BitVec.ofNat 5 (w / 2 % 32)) (BitVec.ofNat 1 (w % 2)))
  | 7 => accept (true) (.vfmax (BitVec.ofNat 1 (w / 33554432 % 2)) (BitVec.ofNat 3 (w / 4194304 % 8)) (BitVec.ofNat 5 (w / 2048 % 32)) (BitVec.ofNat 5 (w / 64 % 32)) (BitVec.ofNat 5 (w / 2 % 32)) (BitVec.ofNat 1 (w % 2)))
  | 8 => accept (w % 64 == 0) (.vfabs (BitVec.ofNat 1 (w / 33554432 % 2)) (BitVec.ofNat 3 (w / 4194304 % 8)) (BitVec.ofNat 5 (w / 2048 % 32)) (BitVec.ofNat 5 (w / 64 % 32)))
  | 9 => accept (w % 64 == 0) (.vfneg (BitVec.ofNat 1 (w / 33554432 % 2)) (BitVec.ofNat 3 (w / 4194304 % 8)) (BitVec.ofNat 5 (w / 2048 % 32)) (BitVec.ofNat 5 (w / 64 % 32)))
  | _ => .error .unassignedMinor

/-- Words of major 0x11 (R49). -/
noncomputable def decode11 (w : Nat) : Except DecodeError Instr :=
  match w / 65536 % 64 with
  | 0 => match w / 2 % 4 with
    | 0 => accept (true) (.vcmpEq (BitVec.ofNat 1 (w / 33554432 % 2)) (BitVec.ofNat 3 (w / 4194304 % 8)) (BitVec.ofNat 3 (w / 8192 % 8)) (BitVec.ofNat 5 (w / 256 % 32)) (BitVec.ofNat 5 (w / 8 % 32)) (BitVec.ofNat 1 (w % 2)))
    | 1 => accept (true) (.vcmpNe (BitVec.ofNat 1 (w / 33554432 % 2)) (BitVec.ofNat 3 (w / 4194304 % 8)) (BitVec.ofNat 3 (w / 8192 % 8)) (BitVec.ofNat 5 (w / 256 % 32)) (BitVec.ofNat 5 (w / 8 % 32)) (BitVec.ofNat 1 (w % 2)))
    | 2 => accept (true) (.vcmpLt (BitVec.ofNat 1 (w / 33554432 % 2)) (BitVec.ofNat 3 (w / 4194304 % 8)) (BitVec.ofNat 3 (w / 8192 % 8)) (BitVec.ofNat 5 (w / 256 % 32)) (BitVec.ofNat 5 (w / 8 % 32)) (BitVec.ofNat 1 (w % 2)))
    | 3 => accept (true) (.vcmpGe (BitVec.ofNat 1 (w / 33554432 % 2)) (BitVec.ofNat 3 (w / 4194304 % 8)) (BitVec.ofNat 3 (w / 8192 % 8)) (BitVec.ofNat 5 (w / 256 % 32)) (BitVec.ofNat 5 (w / 8 % 32)) (BitVec.ofNat 1 (w % 2)))
    | _ => .error .unassignedMinor
  | 1 => match w / 2 % 4 with
    | 0 => accept (true) (.vfcmpEq (BitVec.ofNat 1 (w / 33554432 % 2)) (BitVec.ofNat 3 (w / 4194304 % 8)) (BitVec.ofNat 3 (w / 8192 % 8)) (BitVec.ofNat 5 (w / 256 % 32)) (BitVec.ofNat 5 (w / 8 % 32)) (BitVec.ofNat 1 (w % 2)))
    | 1 => accept (true) (.vfcmpNe (BitVec.ofNat 1 (w / 33554432 % 2)) (BitVec.ofNat 3 (w / 4194304 % 8)) (BitVec.ofNat 3 (w / 8192 % 8)) (BitVec.ofNat 5 (w / 256 % 32)) (BitVec.ofNat 5 (w / 8 % 32)) (BitVec.ofNat 1 (w % 2)))
    | 2 => accept (true) (.vfcmpLt (BitVec.ofNat 1 (w / 33554432 % 2)) (BitVec.ofNat 3 (w / 4194304 % 8)) (BitVec.ofNat 3 (w / 8192 % 8)) (BitVec.ofNat 5 (w / 256 % 32)) (BitVec.ofNat 5 (w / 8 % 32)) (BitVec.ofNat 1 (w % 2)))
    | 3 => accept (true) (.vfcmpGe (BitVec.ofNat 1 (w / 33554432 % 2)) (BitVec.ofNat 3 (w / 4194304 % 8)) (BitVec.ofNat 3 (w / 8192 % 8)) (BitVec.ofNat 5 (w / 256 % 32)) (BitVec.ofNat 5 (w / 8 % 32)) (BitVec.ofNat 1 (w % 2)))
    | _ => .error .unassignedMinor
  | 2 => accept (w / 33554432 % 2 == 0) (.vsel (BitVec.ofNat 3 (w / 4194304 % 8)) (BitVec.ofNat 5 (w / 2048 % 32)) (BitVec.ofNat 5 (w / 64 % 32)) (BitVec.ofNat 5 (w / 2 % 32)) (BitVec.ofNat 1 (w % 2)))
  | 3 => accept (w % 128 == 0 && w / 4194304 % 16 == 0) (.mand (BitVec.ofNat 3 (w / 8192 % 8)) (BitVec.ofNat 3 (w / 1024 % 8)) (BitVec.ofNat 3 (w / 128 % 8)))
  | 4 => accept (w % 128 == 0 && w / 4194304 % 16 == 0) (.mor (BitVec.ofNat 3 (w / 8192 % 8)) (BitVec.ofNat 3 (w / 1024 % 8)) (BitVec.ofNat 3 (w / 128 % 8)))
  | 5 => accept (w % 128 == 0 && w / 4194304 % 16 == 0) (.mxor (BitVec.ofNat 3 (w / 8192 % 8)) (BitVec.ofNat 3 (w / 1024 % 8)) (BitVec.ofNat 3 (w / 128 % 8)))
  | 6 => accept (w % 1024 == 0 && w / 4194304 % 16 == 0) (.mnot (BitVec.ofNat 3 (w / 8192 % 8)) (BitVec.ofNat 3 (w / 1024 % 8)))
  | 7 => accept (w % 256 == 0 && w / 4194304 % 16 == 0) (.mcnt (BitVec.ofNat 5 (w / 2048 % 32)) (BitVec.ofNat 3 (w / 256 % 8)))
  | 8 => accept (w % 256 == 0 && w / 4194304 % 16 == 0) (.mffs (BitVec.ofNat 5 (w / 2048 % 32)) (BitVec.ofNat 3 (w / 256 % 8)))
  | _ => .error .unassignedMinor

/-- Words of major 0x12 (R49). -/
noncomputable def decode12 (w : Nat) : Except DecodeError Instr :=
  match w / 65536 % 64 with
  | 0 => accept (w % 64 == 0) (.vcvt (BitVec.ofNat 1 (w / 33554432 % 2)) (BitVec.ofNat 3 (w / 4194304 % 8)) (BitVec.ofNat 5 (w / 2048 % 32)) (BitVec.ofNat 5 (w / 64 % 32)))
  | 1 => accept (w % 64 == 0) (.vcvtw (BitVec.ofNat 1 (w / 33554432 % 2)) (BitVec.ofNat 3 (w / 4194304 % 8)) (BitVec.ofNat 5 (w / 2048 % 32)) (BitVec.ofNat 5 (w / 64 % 32)))
  | 2 => accept (w % 64 == 0) (.vcvtn (BitVec.ofNat 1 (w / 33554432 % 2)) (BitVec.ofNat 3 (w / 4194304 % 8)) (BitVec.ofNat 5 (w / 2048 % 32)) (BitVec.ofNat 5 (w / 64 % 32)))
  | _ => .error .unassignedMinor

/-- Words of major 0x13 (R49). -/
noncomputable def decode13 (w : Nat) : Except DecodeError Instr :=
  match w / 65536 % 64 with
  | 0 => accept (true) (.vperm (BitVec.ofNat 1 (w / 33554432 % 2)) (BitVec.ofNat 3 (w / 4194304 % 8)) (BitVec.ofNat 5 (w / 2048 % 32)) (BitVec.ofNat 5 (w / 64 % 32)) (BitVec.ofNat 5 (w / 2 % 32)) (BitVec.ofNat 1 (w % 2)))
  | 1 => accept (w % 2 == 0) (.vslide (BitVec.ofNat 1 (w / 33554432 % 2)) (BitVec.ofNat 3 (w / 4194304 % 8)) (BitVec.ofNat 5 (w / 2048 % 32)) (BitVec.ofNat 5 (w / 64 % 32)) (BitVec.ofNat 5 (w / 2 % 32)))
  | 2 => accept (w % 64 == 0) (.vredsum (BitVec.ofNat 1 (w / 33554432 % 2)) (BitVec.ofNat 3 (w / 4194304 % 8)) (BitVec.ofNat 5 (w / 2048 % 32)) (BitVec.ofNat 5 (w / 64 % 32)))
  | 3 => accept (w % 64 == 0) (.vfredsum (BitVec.ofNat 1 (w / 33554432 % 2)) (BitVec.ofNat 3 (w / 4194304 % 8)) (BitVec.ofNat 5 (w / 2048 % 32)) (BitVec.ofNat 5 (w / 64 % 32)))
  | 4 => accept (w % 64 == 0) (.vredmax (BitVec.ofNat 1 (w / 33554432 % 2)) (BitVec.ofNat 3 (w / 4194304 % 8)) (BitVec.ofNat 5 (w / 2048 % 32)) (BitVec.ofNat 5 (w / 64 % 32)))
  | 5 => accept (w % 64 == 0) (.vredmin (BitVec.ofNat 1 (w / 33554432 % 2)) (BitVec.ofNat 3 (w / 4194304 % 8)) (BitVec.ofNat 5 (w / 2048 % 32)) (BitVec.ofNat 5 (w / 64 % 32)))
  | 6 => accept (w % 2 == 0 && w / 4194304 % 16 == 0) (.vext (BitVec.ofNat 5 (w / 2048 % 32)) (BitVec.ofNat 5 (w / 64 % 32)) (BitVec.ofNat 5 (w / 2 % 32)))
  | 7 => accept (w % 2 == 0 && w / 4194304 % 16 == 0) (.vins (BitVec.ofNat 5 (w / 2048 % 32)) (BitVec.ofNat 5 (w / 64 % 32)) (BitVec.ofNat 5 (w / 2 % 32)))
  | 8 => accept (w % 64 == 0) (.vbcast (BitVec.ofNat 1 (w / 33554432 % 2)) (BitVec.ofNat 3 (w / 4194304 % 8)) (BitVec.ofNat 5 (w / 2048 % 32)) (BitVec.ofNat 5 (w / 64 % 32)))
  | _ => .error .unassignedMinor

/-- Words of major 0x14 (R49). -/
noncomputable def decode14 (w : Nat) : Except DecodeError Instr :=
  match w / 65536 % 64 with
  | 0 => accept (w % 64 == 0) (.vrcp (BitVec.ofNat 1 (w / 33554432 % 2)) (BitVec.ofNat 3 (w / 4194304 % 8)) (BitVec.ofNat 5 (w / 2048 % 32)) (BitVec.ofNat 5 (w / 64 % 32)))
  | 1 => accept (w % 64 == 0) (.vrsqrt (BitVec.ofNat 1 (w / 33554432 % 2)) (BitVec.ofNat 3 (w / 4194304 % 8)) (BitVec.ofNat 5 (w / 2048 % 32)) (BitVec.ofNat 5 (w / 64 % 32)))
  | 2 => accept (w % 64 == 0) (.vsqrt (BitVec.ofNat 1 (w / 33554432 % 2)) (BitVec.ofNat 3 (w / 4194304 % 8)) (BitVec.ofNat 5 (w / 2048 % 32)) (BitVec.ofNat 5 (w / 64 % 32)))
  | 3 => accept (w % 64 == 0) (.vexp2 (BitVec.ofNat 1 (w / 33554432 % 2)) (BitVec.ofNat 3 (w / 4194304 % 8)) (BitVec.ofNat 5 (w / 2048 % 32)) (BitVec.ofNat 5 (w / 64 % 32)))
  | 4 => accept (w % 64 == 0) (.vlog2 (BitVec.ofNat 1 (w / 33554432 % 2)) (BitVec.ofNat 3 (w / 4194304 % 8)) (BitVec.ofNat 5 (w / 2048 % 32)) (BitVec.ofNat 5 (w / 64 % 32)))
  | 5 => accept (w % 2 == 1) (.vclipq (BitVec.ofNat 1 (w / 33554432 % 2)) (BitVec.ofNat 3 (w / 4194304 % 8)) (BitVec.ofNat 5 (w / 2048 % 32)) (BitVec.ofNat 5 (w / 64 % 32)) (BitVec.ofNat 5 (w / 2 % 32)))
  | 6 => accept (w % 2 == 1) (.vnormq (BitVec.ofNat 1 (w / 33554432 % 2)) (BitVec.ofNat 3 (w / 4194304 % 8)) (BitVec.ofNat 5 (w / 2048 % 32)) (BitVec.ofNat 5 (w / 64 % 32)) (BitVec.ofNat 5 (w / 2 % 32)))
  | _ => .error .unassignedMinor

/-- Words of major 0x15 (R49). -/
noncomputable def decode15 (w : Nat) : Except DecodeError Instr :=
  match w / 65536 % 64 with
  | 0 => accept (w % 65536 == 0 && w / 4194304 % 16 == 0) .vrot
  | 1 => accept (w % 2048 == 0 && w / 4194304 % 16 == 0) (.stgset (BitVec.ofNat 5 (w / 2048 % 32)))
  | 2 => accept (w % 2048 == 0 && w / 4194304 % 16 == 0) (.stgshift (BitVec.ofNat 5 (w / 2048 % 32)))
  | _ => .error .unassignedMinor

/-- Words of major 0x16 (R49). -/
noncomputable def decode16 (w : Nat) : Except DecodeError Instr :=
  match w / 131072 % 32 with
  | 0 => accept (w % 1024 == 0) (.bnLd (BitVec.ofNat 4 (w / 4194304 % 16)) (BitVec.ofNat 4 (w / 8192 % 16)) (BitVec.ofNat 3 (w / 1024 % 8)))
  | 1 => accept (w % 16 == 0 && w / 128 % 2 == 0) (.bnRt (BitVec.ofNat 4 (w / 4194304 % 16)) (BitVec.ofNat 5 (w / 4096 % 32)) (BitVec.ofNat 4 (w / 256 % 16)) (BitVec.ofNat 3 (w / 16 % 8)))
  | 2 => accept (w % 16 == 0 && w / 128 % 2 == 0) (.bnRto (BitVec.ofNat 4 (w / 4194304 % 16)) (BitVec.ofNat 5 (w / 4096 % 32)) (BitVec.ofNat 4 (w / 256 % 16)) (BitVec.ofNat 3 (w / 16 % 8)))
  | 3 => accept (w / 256 % 512 == 0) (.bnInv (BitVec.ofNat 4 (w / 4194304 % 16)) (BitVec.ofNat 8 (w % 256)))
  | 4 => accept (w % 16 == 0 && w / 128 % 32 == 0) (.bnRd (BitVec.ofNat 4 (w / 4194304 % 16)) (BitVec.ofNat 5 (w / 4096 % 32)) (BitVec.ofNat 3 (w / 16 % 8)))
  | _ => .error .unassignedMinor

/-- Words of major 0x17 (R49). -/
noncomputable def decode17 (w : Nat) : Except DecodeError Instr :=
  match w / 131072 % 32 with
  | 0 => accept (w % 256 == 0) (.skInit (BitVec.ofNat 4 (w / 4194304 % 16)) (BitVec.ofNat 4 (w / 8192 % 16)) (BitVec.ofNat 5 (w / 256 % 32)))
  | 1 => accept (w % 8 == 0) (.skQadd (BitVec.ofNat 4 (w / 4194304 % 16)) (BitVec.ofNat 4 (w / 8192 % 16)) (BitVec.ofNat 5 (w / 256 % 32)) (BitVec.ofNat 5 (w / 8 % 32)))
  | 2 => accept (w % 8 == 0) (.skHadd (BitVec.ofNat 4 (w / 4194304 % 16)) (BitVec.ofNat 4 (w / 8192 % 16)) (BitVec.ofNat 5 (w / 256 % 32)) (BitVec.ofNat 5 (w / 8 % 32)))
  | 3 => accept (w % 8 == 0) (.skDadd (BitVec.ofNat 4 (w / 4194304 % 16)) (BitVec.ofNat 4 (w / 8192 % 16)) (BitVec.ofNat 5 (w / 256 % 32)) (BitVec.ofNat 5 (w / 8 % 32)))
  | 4 => accept (w % 512 == 0) (.skMerge (BitVec.ofNat 4 (w / 4194304 % 16)) (BitVec.ofNat 4 (w / 8192 % 16)) (BitVec.ofNat 4 (w / 512 % 16)))
  | 5 => accept (w % 256 == 0) (.skCompact (BitVec.ofNat 4 (w / 4194304 % 16)) (BitVec.ofNat 4 (w / 8192 % 16)) (BitVec.ofNat 5 (w / 256 % 32)))
  | 6 => accept (w % 8 == 0) (.skQuant (BitVec.ofNat 4 (w / 4194304 % 16)) (BitVec.ofNat 4 (w / 8192 % 16)) (BitVec.ofNat 5 (w / 256 % 32)) (BitVec.ofNat 5 (w / 8 % 32)))
  | 7 => accept (w % 8 == 0) (.skRank (BitVec.ofNat 4 (w / 4194304 % 16)) (BitVec.ofNat 4 (w / 8192 % 16)) (BitVec.ofNat 5 (w / 256 % 32)) (BitVec.ofNat 5 (w / 8 % 32)))
  | 8 => accept (w % 8 == 0) (.skTop (BitVec.ofNat 4 (w / 4194304 % 16)) (BitVec.ofNat 4 (w / 8192 % 16)) (BitVec.ofNat 5 (w / 256 % 32)) (BitVec.ofNat 5 (w / 8 % 32)))
  | 9 => accept (w % 256 == 0) (.skCard (BitVec.ofNat 4 (w / 4194304 % 16)) (BitVec.ofNat 4 (w / 8192 % 16)) (BitVec.ofNat 5 (w / 256 % 32)))
  | 10 => accept (w % 8192 == 0) (.skSeal (BitVec.ofNat 4 (w / 4194304 % 16)) (BitVec.ofNat 4 (w / 8192 % 16)))
  | 11 => accept (w % 256 == 0) (.skChk (BitVec.ofNat 4 (w / 4194304 % 16)) (BitVec.ofNat 4 (w / 8192 % 16)) (BitVec.ofNat 5 (w / 256 % 32)))
  | _ => .error .unassignedMinor

/-- Words of major 0x18 (R49). -/
noncomputable def decode18 (w : Nat) : Except DecodeError Instr :=
  match w / 512 % 256 with
  | 0 => accept (w / 1048576 % 2 == 0) (.mxMma (BitVec.ofNat 4 (w / 4194304 % 16)) (BitVec.ofNat 1 (w / 2097152 % 2)) (BitVec.ofNat 3 (w / 131072 % 8)) (BitVec.ofNat 4 (w / 32 % 16)) (BitVec.ofNat 5 (w % 32)))
  | 1 => accept (w / 131072 % 32 == 0) (.mxProm (BitVec.ofNat 4 (w / 4194304 % 16)) (BitVec.ofNat 4 (w / 32 % 16)) (BitVec.ofNat 5 (w % 32)))
  | 2 => accept (w / 131072 % 32 == 0) (.mxProme (BitVec.ofNat 4 (w / 4194304 % 16)) (BitVec.ofNat 4 (w / 32 % 16)) (BitVec.ofNat 5 (w % 32)))
  | 3 => accept (w / 32 % 16 == 0 && w / 131072 % 32 == 0) (.mxZero (BitVec.ofNat 4 (w / 4194304 % 16)) (BitVec.ofNat 5 (w % 32)))
  | 4 => accept (w / 1048576 % 2 == 0) (.mxZld (BitVec.ofNat 4 (w / 4194304 % 16)) (BitVec.ofNat 1 (w / 2097152 % 2)) (BitVec.ofNat 3 (w / 131072 % 8)) (BitVec.ofNat 4 (w / 32 % 16)) (BitVec.ofNat 5 (w % 32)))
  | 5 => accept (w / 2097152 % 2 == 0) (.mxZst (BitVec.ofNat 4 (w / 4194304 % 16)) (BitVec.ofNat 1 (w / 1048576 % 2)) (BitVec.ofNat 3 (w / 131072 % 8)) (BitVec.ofNat 4 (w / 32 % 16)) (BitVec.ofNat 5 (w % 32)))
  | 6 => accept (w / 2097152 % 2 == 0) (.mxZcvt (BitVec.ofNat 4 (w / 4194304 % 16)) (BitVec.ofNat 1 (w / 1048576 % 2)) (BitVec.ofNat 3 (w / 131072 % 8)) (BitVec.ofNat 4 (w / 32 % 16)) (BitVec.ofNat 5 (w % 32)))
  | 7 => accept (w / 32 % 16 == 0 && w / 131072 % 32 == 0) (.mxZadd (BitVec.ofNat 4 (w / 4194304 % 16)) (BitVec.ofNat 5 (w % 32)))
  | 8 => accept (w / 32 % 16 == 0 && w / 131072 % 32 == 0) (.mxScl (BitVec.ofNat 4 (w / 4194304 % 16)) (BitVec.ofNat 5 (w % 32)))
  | 9 => accept (w / 32 % 16 == 0 && w / 131072 % 32 == 0) (.mxWsel (BitVec.ofNat 4 (w / 4194304 % 16)) (BitVec.ofNat 5 (w % 32)))
  | 10 => accept (w / 32 % 16 == 0 && w / 131072 % 32 == 0) (.mxWake (BitVec.ofNat 4 (w / 4194304 % 16)) (BitVec.ofNat 5 (w % 32)))
  | 11 => accept (w / 32 % 16 == 0 && w / 131072 % 32 == 0) (.mxGate (BitVec.ofNat 4 (w / 4194304 % 16)) (BitVec.ofNat 5 (w % 32)))
  | 12 => accept (true) (.mxTask (BitVec.ofNat 4 (w / 4194304 % 16)) (BitVec.ofNat 1 (w / 2097152 % 2)) (BitVec.ofNat 1 (w / 1048576 % 2)) (BitVec.ofNat 3 (w / 131072 % 8)) (BitVec.ofNat 4 (w / 32 % 16)) (BitVec.ofNat 5 (w % 32)))
  | 13 => accept (w / 131072 % 32 == 0) (.mxTstat (BitVec.ofNat 4 (w / 4194304 % 16)) (BitVec.ofNat 4 (w / 32 % 16)) (BitVec.ofNat 5 (w % 32)))
  | 14 => accept (w / 131072 % 32 == 0) (.mxTkill (BitVec.ofNat 4 (w / 4194304 % 16)) (BitVec.ofNat 4 (w / 32 % 16)) (BitVec.ofNat 5 (w % 32)))
  | 15 => accept (w / 32 % 16 == 0 && w / 131072 % 32 == 0) (.mxQsplit (BitVec.ofNat 4 (w / 4194304 % 16)) (BitVec.ofNat 5 (w % 32)))
  | 16 => accept (w % 512 == 0 && w / 2097152 % 2 == 0) (.mxFence (BitVec.ofNat 4 (w / 4194304 % 16)) (BitVec.ofNat 1 (w / 1048576 % 2)) (BitVec.ofNat 3 (w / 131072 % 8)))
  | 17 => accept (w / 524288 % 8 == 0) (.mxCfg (BitVec.ofNat 4 (w / 4194304 % 16)) (BitVec.ofNat 2 (w / 131072 % 4)) (BitVec.ofNat 4 (w / 32 % 16)) (BitVec.ofNat 5 (w % 32)))
  | _ => .error .unassignedMinor

/-- Words of major 0x19 (R49). -/
noncomputable def decode19 (w : Nat) : Except DecodeError Instr :=
  match w / 512 % 256 with
  | 0 => accept (true) (.cpCopy (BitVec.ofNat 4 (w / 4194304 % 16)) (BitVec.ofNat 1 (w / 2097152 % 2)) (BitVec.ofNat 1 (w / 1048576 % 2)) (BitVec.ofNat 3 (w / 131072 % 8)) (BitVec.ofNat 4 (w / 32 % 16)) (BitVec.ofNat 5 (w % 32)))
  | 1 => accept (true) (.cpLdt (BitVec.ofNat 4 (w / 4194304 % 16)) (BitVec.ofNat 1 (w / 2097152 % 2)) (BitVec.ofNat 1 (w / 1048576 % 2)) (BitVec.ofNat 3 (w / 131072 % 8)) (BitVec.ofNat 4 (w / 32 % 16)) (BitVec.ofNat 5 (w % 32)))
  | 2 => accept (true) (.cpStt (BitVec.ofNat 4 (w / 4194304 % 16)) (BitVec.ofNat 1 (w / 2097152 % 2)) (BitVec.ofNat 1 (w / 1048576 % 2)) (BitVec.ofNat 3 (w / 131072 % 8)) (BitVec.ofNat 4 (w / 32 % 16)) (BitVec.ofNat 5 (w % 32)))
  | 3 => accept (w / 1048576 % 2 == 0) (.cpFill (BitVec.ofNat 4 (w / 4194304 % 16)) (BitVec.ofNat 1 (w / 2097152 % 2)) (BitVec.ofNat 3 (w / 131072 % 8)) (BitVec.ofNat 4 (w / 32 % 16)) (BitVec.ofNat 5 (w % 32)))
  | 4 => accept (w / 131072 % 32 == 0) (.cpMap (BitVec.ofNat 4 (w / 4194304 % 16)) (BitVec.ofNat 4 (w / 32 % 16)) (BitVec.ofNat 5 (w % 32)))
  | 5 => accept (w / 32 % 16 == 0 && w / 2097152 % 2 == 0) (.cpUnmap (BitVec.ofNat 4 (w / 4194304 % 16)) (BitVec.ofNat 1 (w / 1048576 % 2)) (BitVec.ofNat 3 (w / 131072 % 8)) (BitVec.ofNat 5 (w % 32)))
  | 6 => accept (true) (.cpFlush (BitVec.ofNat 4 (w / 4194304 % 16)) (BitVec.ofNat 1 (w / 2097152 % 2)) (BitVec.ofNat 1 (w / 1048576 % 2)) (BitVec.ofNat 3 (w / 131072 % 8)) (BitVec.ofNat 4 (w / 32 % 16)) (BitVec.ofNat 5 (w % 32)))
  | 7 => accept (true) (.cpInval (BitVec.ofNat 4 (w / 4194304 % 16)) (BitVec.ofNat 1 (w / 2097152 % 2)) (BitVec.ofNat 1 (w / 1048576 % 2)) (BitVec.ofNat 3 (w / 131072 % 8)) (BitVec.ofNat 4 (w / 32 % 16)) (BitVec.ofNat 5 (w % 32)))
  | 8 => accept (w / 1048576 % 2 == 0) (.cpWfill (BitVec.ofNat 4 (w / 4194304 % 16)) (BitVec.ofNat 1 (w / 2097152 % 2)) (BitVec.ofNat 3 (w / 131072 % 8)) (BitVec.ofNat 4 (w / 32 % 16)) (BitVec.ofNat 5 (w % 32)))
  | 9 => accept (w / 1048576 % 2 == 0) (.cpOvl (BitVec.ofNat 4 (w / 4194304 % 16)) (BitVec.ofNat 1 (w / 2097152 % 2)) (BitVec.ofNat 3 (w / 131072 % 8)) (BitVec.ofNat 4 (w / 32 % 16)) (BitVec.ofNat 5 (w % 32)))
  | 10 => accept (true) (.cpSpill (BitVec.ofNat 4 (w / 4194304 % 16)) (BitVec.ofNat 1 (w / 2097152 % 2)) (BitVec.ofNat 1 (w / 1048576 % 2)) (BitVec.ofNat 3 (w / 131072 % 8)) (BitVec.ofNat 4 (w / 32 % 16)) (BitVec.ofNat 5 (w % 32)))
  | 11 => accept (true) (.cpUnspill (BitVec.ofNat 4 (w / 4194304 % 16)) (BitVec.ofNat 1 (w / 2097152 % 2)) (BitVec.ofNat 1 (w / 1048576 % 2)) (BitVec.ofNat 3 (w / 131072 % 8)) (BitVec.ofNat 4 (w / 32 % 16)) (BitVec.ofNat 5 (w % 32)))
  | 12 => accept (w / 2097152 % 2 == 0) (.cpBcnt (BitVec.ofNat 4 (w / 4194304 % 16)) (BitVec.ofNat 1 (w / 1048576 % 2)) (BitVec.ofNat 3 (w / 131072 % 8)) (BitVec.ofNat 4 (w / 32 % 16)) (BitVec.ofNat 5 (w % 32)))
  | 13 => accept (w / 32 % 16 == 0 && w / 131072 % 32 == 0) (.cpTclr (BitVec.ofNat 4 (w / 4194304 % 16)) (BitVec.ofNat 5 (w % 32)))
  | _ => .error .unassignedMinor

/-- Words of major 0x1A (R49). -/
noncomputable def decode1A (w : Nat) : Except DecodeError Instr :=
  match w / 512 % 256 with
  | 0 => accept (w / 131072 % 32 == 0) (.clTmk (BitVec.ofNat 4 (w / 4194304 % 16)) (BitVec.ofNat 4 (w / 32 % 16)) (BitVec.ofNat 5 (w % 32)))
  | 1 => accept (w / 32 % 16 == 0 && w / 131072 % 32 == 0) (.clTfree (BitVec.ofNat 4 (w / 4194304 % 16)) (BitVec.ofNat 5 (w % 32)))
  | 2 => accept (true) (.clPost (BitVec.ofNat 4 (w / 4194304 % 16)) (BitVec.ofNat 1 (w / 2097152 % 2)) (BitVec.ofNat 1 (w / 1048576 % 2)) (BitVec.ofNat 3 (w / 131072 % 8)) (BitVec.ofNat 4 (w / 32 % 16)) (BitVec.ofNat 5 (w % 32)))
  | 3 => accept (true) (.clTake (BitVec.ofNat 4 (w / 4194304 % 16)) (BitVec.ofNat 1 (w / 2097152 % 2)) (BitVec.ofNat 1 (w / 1048576 % 2)) (BitVec.ofNat 3 (w / 131072 % 8)) (BitVec.ofNat 4 (w / 32 % 16)) (BitVec.ofNat 5 (w % 32)))
  | 4 => accept (w / 32 % 16 == 0 && w / 131072 % 32 == 0) (.clFrz (BitVec.ofNat 4 (w / 4194304 % 16)) (BitVec.ofNat 5 (w % 32)))
  | 5 => accept (w / 32 % 16 == 0 && w / 131072 % 32 == 0) (.clThaw (BitVec.ofNat 4 (w / 4194304 % 16)) (BitVec.ofNat 5 (w % 32)))
  | 6 => accept (w / 131072 % 32 == 0) (.clSave (BitVec.ofNat 4 (w / 4194304 % 16)) (BitVec.ofNat 4 (w / 32 % 16)) (BitVec.ofNat 5 (w % 32)))
  | 7 => accept (w / 131072 % 32 == 0) (.clRst (BitVec.ofNat 4 (w / 4194304 % 16)) (BitVec.ofNat 4 (w / 32 % 16)) (BitVec.ofNat 5 (w % 32)))
  | 8 => accept (w / 32 % 16 == 0 && w / 131072 % 32 == 0) (.clEditRemove (BitVec.ofNat 4 (w / 4194304 % 16)) (BitVec.ofNat 5 (w % 32)))
  | 9 => accept (true) (.clReshard (BitVec.ofNat 4 (w / 4194304 % 16)) (BitVec.ofNat 1 (w / 2097152 % 2)) (BitVec.ofNat 1 (w / 1048576 % 2)) (BitVec.ofNat 3 (w / 131072 % 8)) (BitVec.ofNat 4 (w / 32 % 16)) (BitVec.ofNat 5 (w % 32)))
  | 10 => accept (w / 32 % 16 == 0 && w / 131072 % 32 == 0) (.clQuery (BitVec.ofNat 4 (w / 4194304 % 16)) (BitVec.ofNat 5 (w % 32)))
  | 11 => accept (true) (.clMcast (BitVec.ofNat 4 (w / 4194304 % 16)) (BitVec.ofNat 1 (w / 2097152 % 2)) (BitVec.ofNat 1 (w / 1048576 % 2)) (BitVec.ofNat 3 (w / 131072 % 8)) (BitVec.ofNat 4 (w / 32 % 16)) (BitVec.ofNat 5 (w % 32)))
  | 12 => accept (true) (.clBar (BitVec.ofNat 4 (w / 4194304 % 16)) (BitVec.ofNat 1 (w / 2097152 % 2)) (BitVec.ofNat 1 (w / 1048576 % 2)) (BitVec.ofNat 3 (w / 131072 % 8)) (BitVec.ofNat 4 (w / 32 % 16)) (BitVec.ofNat 5 (w % 32)))
  | 13 => accept (w / 32 % 16 == 0 && w / 131072 % 32 == 0) (.clAbort (BitVec.ofNat 4 (w / 4194304 % 16)) (BitVec.ofNat 5 (w % 32)))
  | _ => .error .unassignedMinor

/-- Words of major 0x1B (R49). -/
noncomputable def decode1B (w : Nat) : Except DecodeError Instr :=
  match w / 512 % 256 with
  | 0 => accept (w / 131072 % 32 == 0) (.evSend (BitVec.ofNat 4 (w / 4194304 % 16)) (BitVec.ofNat 4 (w / 32 % 16)) (BitVec.ofNat 5 (w % 32)))
  | 1 => accept (w / 131072 % 32 == 0) (.evRecv (BitVec.ofNat 4 (w / 4194304 % 16)) (BitVec.ofNat 4 (w / 32 % 16)) (BitVec.ofNat 5 (w % 32)))
  | 2 => accept (w / 131072 % 32 == 0) (.evGather (BitVec.ofNat 4 (w / 4194304 % 16)) (BitVec.ofNat 4 (w / 32 % 16)) (BitVec.ofNat 5 (w % 32)))
  | 3 => accept (w / 32 % 16 == 0 && w / 131072 % 32 == 0) (.evOpen (BitVec.ofNat 4 (w / 4194304 % 16)) (BitVec.ofNat 5 (w % 32)))
  | 4 => accept (w / 32 % 16 == 0 && w / 131072 % 32 == 0) (.evClose (BitVec.ofNat 4 (w / 4194304 % 16)) (BitVec.ofNat 5 (w % 32)))
  | _ => .error .unassignedMinor

/-- Words of major 0x1C (R49). -/
noncomputable def decode1C (w : Nat) : Except DecodeError Instr :=
  match w / 512 % 256 with
  | 0 => accept (w / 2097152 % 2 == 0) (.dsLaunch (BitVec.ofNat 4 (w / 4194304 % 16)) (BitVec.ofNat 1 (w / 1048576 % 2)) (BitVec.ofNat 3 (w / 131072 % 8)) (BitVec.ofNat 4 (w / 32 % 16)) (BitVec.ofNat 5 (w % 32)))
  | 1 => accept (w / 2097152 % 2 == 0) (.dsLaunchW (BitVec.ofNat 4 (w / 4194304 % 16)) (BitVec.ofNat 1 (w / 1048576 % 2)) (BitVec.ofNat 3 (w / 131072 % 8)) (BitVec.ofNat 4 (w / 32 % 16)) (BitVec.ofNat 5 (w % 32)))
  | 2 => accept (w / 2097152 % 2 == 0) (.dsQpush (BitVec.ofNat 4 (w / 4194304 % 16)) (BitVec.ofNat 1 (w / 1048576 % 2)) (BitVec.ofNat 3 (w / 131072 % 8)) (BitVec.ofNat 4 (w / 32 % 16)) (BitVec.ofNat 5 (w % 32)))
  | 3 => accept (w / 1048576 % 2 == 0) (.dsQpop (BitVec.ofNat 4 (w / 4194304 % 16)) (BitVec.ofNat 1 (w / 2097152 % 2)) (BitVec.ofNat 3 (w / 131072 % 8)) (BitVec.ofNat 4 (w / 32 % 16)) (BitVec.ofNat 5 (w % 32)))
  | 4 => match w / 131072 % 8 with
    | 0 => accept (w / 1048576 % 4 == 0) (.dsCondSet (BitVec.ofNat 4 (w / 4194304 % 16)) (BitVec.ofNat 4 (w / 32 % 16)) (BitVec.ofNat 5 (w % 32)))
    | 1 => accept (w / 1048576 % 4 == 0) (.dsCondAdd (BitVec.ofNat 4 (w / 4194304 % 16)) (BitVec.ofNat 4 (w / 32 % 16)) (BitVec.ofNat 5 (w % 32)))
    | 2 => accept (w / 1048576 % 4 == 0) (.dsCondOr (BitVec.ofNat 4 (w / 4194304 % 16)) (BitVec.ofNat 4 (w / 32 % 16)) (BitVec.ofNat 5 (w % 32)))
    | 3 => accept (w / 1048576 % 4 == 0) (.dsCondAnd (BitVec.ofNat 4 (w / 4194304 % 16)) (BitVec.ofNat 4 (w / 32 % 16)) (BitVec.ofNat 5 (w % 32)))
    | _ => .error .reservedField
  | 5 => accept (w / 131072 % 32 == 0) (.dsGstart (BitVec.ofNat 4 (w / 4194304 % 16)) (BitVec.ofNat 4 (w / 32 % 16)) (BitVec.ofNat 5 (w % 32)))
  | 6 => accept (w / 131072 % 32 == 0) (.dsGstop (BitVec.ofNat 4 (w / 4194304 % 16)) (BitVec.ofNat 4 (w / 32 % 16)) (BitVec.ofNat 5 (w % 32)))
  | 7 => accept (w / 131072 % 32 == 0) (.dsWake (BitVec.ofNat 4 (w / 4194304 % 16)) (BitVec.ofNat 4 (w / 32 % 16)) (BitVec.ofNat 5 (w % 32)))
  | 8 => accept (w / 131072 % 32 == 0) (.dsPrio (BitVec.ofNat 4 (w / 4194304 % 16)) (BitVec.ofNat 4 (w / 32 % 16)) (BitVec.ofNat 5 (w % 32)))
  | 9 => accept (w / 32 % 16 == 0 && w / 131072 % 32 == 0) (.dsQuery (BitVec.ofNat 4 (w / 4194304 % 16)) (BitVec.ofNat 5 (w % 32)))
  | _ => .error .unassignedMinor

/-- Words of major 0x1D (R49). -/
noncomputable def decode1D (w : Nat) : Except DecodeError Instr :=
  match w / 512 % 256 with
  | 0 => accept (w / 524288 % 8 == 0) (.tlInv (BitVec.ofNat 4 (w / 4194304 % 16)) (BitVec.ofNat 2 (w / 131072 % 4)) (BitVec.ofNat 4 (w / 32 % 16)) (BitVec.ofNat 5 (w % 32)))
  | 1 => accept (w / 32 % 16 == 0 && w / 524288 % 8 == 0) (.tlInva (BitVec.ofNat 4 (w / 4194304 % 16)) (BitVec.ofNat 2 (w / 131072 % 4)) (BitVec.ofNat 5 (w % 32)))
  | 2 => accept (w / 131072 % 32 == 0) (.tlProbe (BitVec.ofNat 4 (w / 4194304 % 16)) (BitVec.ofNat 4 (w / 32 % 16)) (BitVec.ofNat 5 (w % 32)))
  | 3 => accept (w / 131072 % 32 == 0) (.tlRoot (BitVec.ofNat 4 (w / 4194304 % 16)) (BitVec.ofNat 4 (w / 32 % 16)) (BitVec.ofNat 5 (w % 32)))
  | 4 => accept (w / 131072 % 32 == 0) (.tlHash (BitVec.ofNat 4 (w / 4194304 % 16)) (BitVec.ofNat 4 (w / 32 % 16)) (BitVec.ofNat 5 (w % 32)))
  | 5 => accept (w / 131072 % 32 == 0) (.tlDlog (BitVec.ofNat 4 (w / 4194304 % 16)) (BitVec.ofNat 4 (w / 32 % 16)) (BitVec.ofNat 5 (w % 32)))
  | 16 => accept (w / 32 % 16 == 0 && w / 131072 % 32 == 0) (.ptQuiesce (BitVec.ofNat 4 (w / 4194304 % 16)) (BitVec.ofNat 5 (w % 32)))
  | 17 => accept (w / 131072 % 32 == 0) (.ptLayout (BitVec.ofNat 4 (w / 4194304 % 16)) (BitVec.ofNat 4 (w / 32 % 16)) (BitVec.ofNat 5 (w % 32)))
  | 18 => accept (w / 131072 % 32 == 0) (.ptVfsetAssign (BitVec.ofNat 4 (w / 4194304 % 16)) (BitVec.ofNat 4 (w / 32 % 16)) (BitVec.ofNat 5 (w % 32)))
  | 19 => accept (w / 32 % 16 == 0 && w / 131072 % 32 == 0) (.ptWays (BitVec.ofNat 4 (w / 4194304 % 16)) (BitVec.ofNat 5 (w % 32)))
  | 20 => accept (w / 131072 % 32 == 0) (.ptMove (BitVec.ofNat 4 (w / 4194304 % 16)) (BitVec.ofNat 4 (w / 32 % 16)) (BitVec.ofNat 5 (w % 32)))
  | 21 => accept (w / 32 % 16 == 0 && w / 131072 % 32 == 0) (.ptFlr (BitVec.ofNat 4 (w / 4194304 % 16)) (BitVec.ofNat 5 (w % 32)))
  | 32 => accept (w / 32 % 16 == 0 && w / 131072 % 32 == 0) (.gtLset (BitVec.ofNat 4 (w / 4194304 % 16)) (BitVec.ofNat 5 (w % 32)))
  | 33 => accept (w / 131072 % 32 == 0) (.gtParty (BitVec.ofNat 4 (w / 4194304 % 16)) (BitVec.ofNat 4 (w / 32 % 16)) (BitVec.ofNat 5 (w % 32)))
  | 34 => accept (w / 131072 % 32 == 0) (.gtReleaseInstall (BitVec.ofNat 4 (w / 4194304 % 16)) (BitVec.ofNat 4 (w / 32 % 16)) (BitVec.ofNat 5 (w % 32)))
  | _ => .error .unassignedMinor

/-- The instruction a 32-bit word stands for (R40, R49); bit 31, the stop bit, is not part of it. -/
noncomputable def decode (w : Nat) : Except DecodeError Instr :=
  match w / 67108864 % 32 with
  | 0 => decode00 w
  | 1 => decode01 w
  | 2 => decode02 w
  | 3 => decode03 w
  | 4 => decode04 w
  | 5 => decode05 w
  | 6 => decode06 w
  | 7 => decode07 w
  | 8 => decode08 w
  | 9 => decode09 w
  | 10 => decode0A w
  | 11 => decode0B w
  | 12 => decode0C w
  | 13 => decode0D w
  | 14 => decode0E w
  | 15 => decode0F w
  | 16 => decode10 w
  | 17 => decode11 w
  | 18 => decode12 w
  | 19 => decode13 w
  | 20 => decode14 w
  | 21 => decode15 w
  | 22 => decode16 w
  | 23 => decode17 w
  | 24 => decode18 w
  | 25 => decode19 w
  | 26 => decode1A w
  | 27 => decode1B w
  | 28 => decode1C w
  | 29 => decode1D w
  | _ => .error .reservedMajor

/-- The eight words a Jetty hart adds to its base set (R417), by pattern; none for any other word. -/
def decodeJx (w : Nat) : Option Instr :=
  if w % 128 == 11 && w / 4096 % 8 == 0 && w / 33554432 % 128 == 0 then some (.jxRecv (BitVec.ofNat 5 (w / 1048576 % 32)) (BitVec.ofNat 5 (w / 32768 % 32)) (BitVec.ofNat 5 (w / 128 % 32)))
  else if w % 128 == 11 && w / 4096 % 8 == 1 && w / 33554432 % 128 == 0 then some (.jxSend (BitVec.ofNat 5 (w / 1048576 % 32)) (BitVec.ofNat 5 (w / 32768 % 32)) (BitVec.ofNat 5 (w / 128 % 32)))
  else if w % 128 == 11 && w / 4096 % 8 == 2 && w / 1048576 % 4096 == 0 then some (.jxWait (BitVec.ofNat 5 (w / 32768 % 32)) (BitVec.ofNat 5 (w / 128 % 32)))
  else if w % 4294967296 == 12299 then some (.jxEnd)
  else if w % 128 == 43 && w / 4096 % 8 == 0 && w / 1048576 % 4096 == 0 then some (.jxEcreate (BitVec.ofNat 5 (w / 32768 % 32)) (BitVec.ofNat 5 (w / 128 % 32)))
  else if w % 128 == 43 && w / 4096 % 8 == 1 && w / 1048576 % 4096 == 0 then some (.jxEload (BitVec.ofNat 5 (w / 32768 % 32)) (BitVec.ofNat 5 (w / 128 % 32)))
  else if w % 128 == 43 && w / 4096 % 1048576 == 2 then some (.jxEpark (BitVec.ofNat 5 (w / 128 % 32)))
  else if w % 128 == 43 && w / 4096 % 8 == 3 && w / 1048576 % 4096 == 0 then some (.jxMabort (BitVec.ofNat 5 (w / 32768 % 32)) (BitVec.ofNat 5 (w / 128 % 32)))
  else none

/-- The word of an instruction, without its stop bit (R40 to R51); an event has no word and gives 0. -/
def encode : Instr → Nat
  | .add q d a b => 0 + q.toNat * 4194304 + d.toNat * 1024 + a.toNat * 32 + b.toNat
  | .sub q d a b => 32768 + q.toNat * 4194304 + d.toNat * 1024 + a.toNat * 32 + b.toNat
  | .mul q d a b => 65536 + q.toNat * 4194304 + d.toNat * 1024 + a.toNat * 32 + b.toNat
  | .mulh q d a b => 98304 + q.toNat * 4194304 + d.toNat * 1024 + a.toNat * 32 + b.toNat
  | .mulhn q d a b => 131072 + q.toNat * 4194304 + d.toNat * 1024 + a.toNat * 32 + b.toNat
  | .div q d a b => 163840 + q.toNat * 4194304 + d.toNat * 1024 + a.toNat * 32 + b.toNat
  | .divn q d a b => 196608 + q.toNat * 4194304 + d.toNat * 1024 + a.toNat * 32 + b.toNat
  | .rem q d a b => 229376 + q.toNat * 4194304 + d.toNat * 1024 + a.toNat * 32 + b.toNat
  | .remn q d a b => 262144 + q.toNat * 4194304 + d.toNat * 1024 + a.toNat * 32 + b.toNat
  | .and q d a b => 294912 + q.toNat * 4194304 + d.toNat * 1024 + a.toNat * 32 + b.toNat
  | .or q d a b => 327680 + q.toNat * 4194304 + d.toNat * 1024 + a.toNat * 32 + b.toNat
  | .xor q d a b => 360448 + q.toNat * 4194304 + d.toNat * 1024 + a.toNat * 32 + b.toNat
  | .andn q d a b => 393216 + q.toNat * 4194304 + d.toNat * 1024 + a.toNat * 32 + b.toNat
  | .shl q d a b => 425984 + q.toNat * 4194304 + d.toNat * 1024 + a.toNat * 32 + b.toNat
  | .shr q d a b => 458752 + q.toNat * 4194304 + d.toNat * 1024 + a.toNat * 32 + b.toNat
  | .sar q d a b => 491520 + q.toNat * 4194304 + d.toNat * 1024 + a.toNat * 32 + b.toNat
  | .min q d a b => 524288 + q.toNat * 4194304 + d.toNat * 1024 + a.toNat * 32 + b.toNat
  | .max q d a b => 557056 + q.toNat * 4194304 + d.toNat * 1024 + a.toNat * 32 + b.toNat
  | .minn q d a b => 589824 + q.toNat * 4194304 + d.toNat * 1024 + a.toNat * 32 + b.toNat
  | .maxn q d a b => 622592 + q.toNat * 4194304 + d.toNat * 1024 + a.toNat * 32 + b.toNat
  | .clz q d a => 655360 + q.toNat * 4194304 + d.toNat * 1024 + a.toNat * 32
  | .ctz q d a => 688128 + q.toNat * 4194304 + d.toNat * 1024 + a.toNat * 32
  | .popc q d a => 720896 + q.toNat * 4194304 + d.toNat * 1024 + a.toNat * 32
  | .rotl q d a b => 753664 + q.toNat * 4194304 + d.toNat * 1024 + a.toNat * 32 + b.toNat
  | .addi q d a i => 67108864 + q.toNat * 4194304 + d.toNat * 16384 + a.toNat * 512 + i.toNat
  | .andi q d a i => 67633152 + q.toNat * 4194304 + d.toNat * 16384 + a.toNat * 512 + i.toNat
  | .ori q d a i => 68157440 + q.toNat * 4194304 + d.toNat * 16384 + a.toNat * 512 + i.toNat
  | .xori q d a i => 68681728 + q.toNat * 4194304 + d.toNat * 16384 + a.toNat * 512 + i.toNat
  | .shli q d a i => 69206016 + q.toNat * 4194304 + d.toNat * 16384 + a.toNat * 512 + i.toNat
  | .shri q d a i => 69730304 + q.toNat * 4194304 + d.toNat * 16384 + a.toNat * 512 + i.toNat
  | .sari q d a i => 70254592 + q.toNat * 4194304 + d.toNat * 16384 + a.toNat * 512 + i.toNat
  | .muli q d a i => 70778880 + q.toNat * 4194304 + d.toNat * 16384 + a.toNat * 512 + i.toNat
  | .li q d i => 134217728 + q.toNat * 4194304 + d.toNat * 32768 + i.toNat
  | .lic q d i => 135266304 + q.toNat * 4194304 + d.toNat * 32768 + i.toNat
  | .cmpEq q c k a b => 201326592 + q.toNat * 4194304 + c.toNat * 524288 + k.toNat * 65536 + a.toNat * 32 + b.toNat
  | .cmpNe q c k a b => 201327616 + q.toNat * 4194304 + c.toNat * 524288 + k.toNat * 65536 + a.toNat * 32 + b.toNat
  | .cmpLt q c k a b => 201328640 + q.toNat * 4194304 + c.toNat * 524288 + k.toNat * 65536 + a.toNat * 32 + b.toNat
  | .cmpGe q c k a b => 201329664 + q.toNat * 4194304 + c.toNat * 524288 + k.toNat * 65536 + a.toNat * 32 + b.toNat
  | .cmpLtn q c k a b => 201330688 + q.toNat * 4194304 + c.toNat * 524288 + k.toNat * 65536 + a.toNat * 32 + b.toNat
  | .cmpGen q c k a b => 201331712 + q.toNat * 4194304 + c.toNat * 524288 + k.toNat * 65536 + a.toNat * 32 + b.toNat
  | .cmpTand q c k a b => 201332736 + q.toNat * 4194304 + c.toNat * 524288 + k.toNat * 65536 + a.toNat * 32 + b.toNat
  | .cmpTnand q c k a b => 201333760 + q.toNat * 4194304 + c.toNat * 524288 + k.toNat * 65536 + a.toNat * 32 + b.toNat
  | .cmpiEq q c k a i => 268435456 + q.toNat * 4194304 + c.toNat * 524288 + k.toNat * 65536 + a.toNat * 256 + i.toNat
  | .cmpiNe q c k a i => 268443648 + q.toNat * 4194304 + c.toNat * 524288 + k.toNat * 65536 + a.toNat * 256 + i.toNat
  | .cmpiLt q c k a i => 268451840 + q.toNat * 4194304 + c.toNat * 524288 + k.toNat * 65536 + a.toNat * 256 + i.toNat
  | .cmpiGe q c k a i => 268460032 + q.toNat * 4194304 + c.toNat * 524288 + k.toNat * 65536 + a.toNat * 256 + i.toNat
  | .cmpiLtn q c k a i => 268468224 + q.toNat * 4194304 + c.toNat * 524288 + k.toNat * 65536 + a.toNat * 256 + i.toNat
  | .cmpiGen q c k a i => 268476416 + q.toNat * 4194304 + c.toNat * 524288 + k.toNat * 65536 + a.toNat * 256 + i.toNat
  | .cmpiTbit q c k a i => 268484608 + q.toNat * 4194304 + c.toNat * 524288 + k.toNat * 65536 + a.toNat * 256 + i.toNat
  | .cmpiTnbit q c k a i => 268492800 + q.toNat * 4194304 + c.toNat * 524288 + k.toNat * 65536 + a.toNat * 256 + i.toNat
  | .aadd q d a b => 335544320 + q.toNat * 4194304 + d.toNat * 16384 + a.toNat * 1024 + b.toNat * 32
  | .aaddi q d a i => 335806464 + q.toNat * 4194304 + d.toNat * 16384 + a.toNat * 1024 + i.toNat
  | .asub q d a b => 336068608 + q.toNat * 4194304 + d.toNat * 8192 + a.toNat * 512 + b.toNat * 32
  | .aset q d b => 336330752 + q.toNat * 4194304 + d.toNat * 16384 + b.toNat * 512
  | .ahi q d i => 336592896 + q.toNat * 4194304 + d.toNat * 16384 + i.toNat * 64
  | .aalign q d a n => 336855040 + q.toNat * 4194304 + d.toNat * 16384 + a.toNat * 1024 + n.toNat * 16
  | .aget q d a h => 337117184 + q.toNat * 4194304 + d.toNat * 8192 + a.toNat * 512 + h.toNat * 256
  | .ldI8 q d a l i => 402653184 + q.toNat * 4194304 + d.toNat * 16384 + a.toNat * 1024 + l.toNat * 32 + i.toNat
  | .ldI16 q d a l i => 403177472 + q.toNat * 4194304 + d.toNat * 16384 + a.toNat * 1024 + l.toNat * 32 + i.toNat
  | .ldI32 q d a l i => 403701760 + q.toNat * 4194304 + d.toNat * 16384 + a.toNat * 1024 + l.toNat * 32 + i.toNat
  | .ldD q d a l i => 404226048 + q.toNat * 4194304 + d.toNat * 16384 + a.toNat * 1024 + l.toNat * 32 + i.toNat
  | .ldN8 q d a l i => 404750336 + q.toNat * 4194304 + d.toNat * 16384 + a.toNat * 1024 + l.toNat * 32 + i.toNat
  | .ldN16 q d a l i => 405274624 + q.toNat * 4194304 + d.toNat * 16384 + a.toNat * 1024 + l.toNat * 32 + i.toNat
  | .ldN32 q d a l i => 405798912 + q.toNat * 4194304 + d.toNat * 16384 + a.toNat * 1024 + l.toNat * 32 + i.toNat
  | .stB q v a i => 469762048 + q.toNat * 4194304 + v.toNat * 16384 + a.toNat * 1024 + i.toNat
  | .stH q v a i => 470286336 + q.toNat * 4194304 + v.toNat * 16384 + a.toNat * 1024 + i.toNat
  | .stW q v a i => 470810624 + q.toNat * 4194304 + v.toNat * 16384 + a.toNat * 1024 + i.toNat
  | .stD q v a i => 471334912 + q.toNat * 4194304 + v.toNat * 16384 + a.toNat * 1024 + i.toNat
  | .ldt q d a f h l => 536870912 + q.toNat * 4194304 + d.toNat * 16384 + a.toNat * 1024 + f.toNat * 64 + h.toNat * 32 + l.toNat
  | .stt q v a f h r => 537395200 + q.toNat * 4194304 + v.toNat * 16384 + a.toNat * 1024 + f.toNat * 64 + h.toNat * 32 + r.toNat * 4
  | .vldt q d a f l => 537919488 + q.toNat * 4194304 + d.toNat * 16384 + a.toNat * 1024 + f.toNat * 64 + l.toNat
  | .vstt q v a f r => 538443776 + q.toNat * 4194304 + v.toNat * 16384 + a.toNat * 1024 + f.toNat * 64 + r.toNat * 4
  | .amoAdd q d a l w => 603979776 + q.toNat * 4194304 + d.toNat * 8192 + a.toNat * 512 + l.toNat * 16 + w.toNat * 8
  | .amoAnd q d a l w => 604241920 + q.toNat * 4194304 + d.toNat * 8192 + a.toNat * 512 + l.toNat * 16 + w.toNat * 8
  | .amoOr q d a l w => 604504064 + q.toNat * 4194304 + d.toNat * 8192 + a.toNat * 512 + l.toNat * 16 + w.toNat * 8
  | .amoXor q d a l w => 604766208 + q.toNat * 4194304 + d.toNat * 8192 + a.toNat * 512 + l.toNat * 16 + w.toNat * 8
  | .amoMin q d a l w => 605028352 + q.toNat * 4194304 + d.toNat * 8192 + a.toNat * 512 + l.toNat * 16 + w.toNat * 8
  | .amoMax q d a l w => 605290496 + q.toNat * 4194304 + d.toNat * 8192 + a.toNat * 512 + l.toNat * 16 + w.toNat * 8
  | .amoMinn q d a l w => 605552640 + q.toNat * 4194304 + d.toNat * 8192 + a.toNat * 512 + l.toNat * 16 + w.toNat * 8
  | .amoMaxn q d a l w => 605814784 + q.toNat * 4194304 + d.toNat * 8192 + a.toNat * 512 + l.toNat * 16 + w.toNat * 8
  | .amoSwap q d a l w => 606076928 + q.toNat * 4194304 + d.toNat * 8192 + a.toNat * 512 + l.toNat * 16 + w.toNat * 8
  | .amoCas q d a l w => 606339072 + q.toNat * 4194304 + d.toNat * 8192 + a.toNat * 512 + l.toNat * 16 + w.toNat * 8
  | .br q k => 671088640 + q.toNat * 4194304 + k.toNat * 65536
  | .brv q k m w n => 671350784 + q.toNat * 4194304 + k.toNat * 65536 + m.toNat * 8192 + w.toNat * 2048 + n.toNat * 1024
  | .prep q k i => 671612928 + q.toNat * 4194304 + k.toNat * 65536 + i.toNat
  | .prepa q k a => 671875072 + q.toNat * 4194304 + k.toNat * 65536 + a.toNat * 4096
  | .brl q k d => 672137216 + q.toNat * 4194304 + k.toNat * 65536 + d.toNat * 4096
  | .lbNest q l d g => 672399360 + q.toNat * 4194304 + l.toNat * 16384 + d.toNat * 2048 + g.toNat * 32
  | .lbExit q => 672661504 + q.toNat * 4194304
  | .fence q c k => 738197504 + q.toNat * 4194304 + c.toNat * 16384 + k.toNat * 4096
  | .bind q a b o => 738328576 + q.toNat * 4194304 + a.toNat * 8192 + b.toNat * 256 + o.toNat * 16
  | .unbind q a => 738459648 + q.toNat * 4194304 + a.toNat * 8192
  | .acq q c o => 738590720 + q.toNat * 4194304 + c.toNat * 16384 + o.toNat * 1024
  | .rel q c o => 738721792 + q.toNat * 4194304 + c.toNat * 16384 + o.toNat * 1024
  | .bwait q n => 738852864 + q.toNat * 4194304 + n.toNat * 8192
  | .binit q n a => 738983936 + q.toNat * 4194304 + n.toNat * 8192 + a.toNat * 256
  | .twAny q p d a => 739115008 + q.toNat * 4194304 + p.toNat * 65536 + d.toNat * 2048 + a.toNat * 64
  | .twAll q p d a => 739246080 + q.toNat * 4194304 + p.toNat * 65536 + d.toNat * 2048 + a.toNat * 64
  | .twFfr q p d a => 739377152 + q.toNat * 4194304 + p.toNat * 65536 + d.toNat * 2048 + a.toNat * 64
  | .mwait q p o b => 739508224 + q.toNat * 4194304 + p.toNat * 65536 + o.toNat * 4096 + b.toNat * 128
  | .safe q n => 805306368 + q.toNat * 4194304 + n.toNat
  | .suspend q a => 805437440 + q.toNat * 4194304 + a.toNat * 4096
  | .yield q => 805568512 + q.toNat * 4194304
  | .retire q => 805699584 + q.toNat * 4194304
  | .svc q i => 805830656 + q.toNat * 4194304 + i.toNat
  | .brk q i => 805961728 + q.toNat * 4194304 + i.toNat
  | .sysrd q d n => 806092800 + q.toNat * 4194304 + d.toNat * 4096 + n.toNat
  | .syswr q a n => 806223872 + q.toNat * 4194304 + a.toNat * 4096 + n.toNat
  | .rfe q a d l => 806354944 + q.toNat * 4194304 + a.toNat * 8192 + d.toNat * 256 + l.toNat * 8
  | .qlock q d => 806486016 + q.toNat * 4194304 + d.toNat * 4096
  | .qfree q => 806617088 + q.toNat * 4194304
  | .arv q l r c n => 806748160 + q.toNat * 4194304 + l.toNat * 16384 + r.toNat * 8192 + c.toNat * 2048 + n.toNat * 128
  | .vld z m d a l => 872415232 + z.toNat * 33554432 + m.toNat * 4194304 + d.toNat * 2048 + a.toNat * 128 + l.toNat * 4
  | .vlds z m d a l g => 872480768 + z.toNat * 33554432 + m.toNat * 4194304 + d.toNat * 2048 + a.toNat * 128 + l.toNat * 4 + g.toNat
  | .vldx z m d a l => 872546304 + z.toNat * 33554432 + m.toNat * 4194304 + d.toNat * 2048 + a.toNat * 128 + l.toNat * 4
  | .vldb z m d a l => 872611840 + z.toNat * 33554432 + m.toNat * 4194304 + d.toNat * 2048 + a.toNat * 128 + l.toNat * 4
  | .vst m v a => 939524096 + m.toNat * 4194304 + v.toNat * 2048 + a.toNat * 128
  | .vsts m v a g => 939589632 + m.toNat * 4194304 + v.toNat * 2048 + a.toNat * 128 + g.toNat * 32
  | .vstx m v a b => 939655168 + m.toNat * 4194304 + v.toNat * 2048 + a.toNat * 128 + b.toNat * 4
  | .vadd z m d a b x => 1006632960 + z.toNat * 33554432 + m.toNat * 4194304 + d.toNat * 2048 + a.toNat * 64 + b.toNat * 2 + x.toNat
  | .vsub z m d a b x => 1006698496 + z.toNat * 33554432 + m.toNat * 4194304 + d.toNat * 2048 + a.toNat * 64 + b.toNat * 2 + x.toNat
  | .vmul z m d a b x => 1006764032 + z.toNat * 33554432 + m.toNat * 4194304 + d.toNat * 2048 + a.toNat * 64 + b.toNat * 2 + x.toNat
  | .vmulh z m d a b x => 1006829568 + z.toNat * 33554432 + m.toNat * 4194304 + d.toNat * 2048 + a.toNat * 64 + b.toNat * 2 + x.toNat
  | .vand z m d a b x => 1006895104 + z.toNat * 33554432 + m.toNat * 4194304 + d.toNat * 2048 + a.toNat * 64 + b.toNat * 2 + x.toNat
  | .vor z m d a b x => 1006960640 + z.toNat * 33554432 + m.toNat * 4194304 + d.toNat * 2048 + a.toNat * 64 + b.toNat * 2 + x.toNat
  | .vxor z m d a b x => 1007026176 + z.toNat * 33554432 + m.toNat * 4194304 + d.toNat * 2048 + a.toNat * 64 + b.toNat * 2 + x.toNat
  | .vshl z m d a b x => 1007091712 + z.toNat * 33554432 + m.toNat * 4194304 + d.toNat * 2048 + a.toNat * 64 + b.toNat * 2 + x.toNat
  | .vshr z m d a b x => 1007157248 + z.toNat * 33554432 + m.toNat * 4194304 + d.toNat * 2048 + a.toNat * 64 + b.toNat * 2 + x.toNat
  | .vsar z m d a b x => 1007222784 + z.toNat * 33554432 + m.toNat * 4194304 + d.toNat * 2048 + a.toNat * 64 + b.toNat * 2 + x.toNat
  | .vmin z m d a b x => 1007288320 + z.toNat * 33554432 + m.toNat * 4194304 + d.toNat * 2048 + a.toNat * 64 + b.toNat * 2 + x.toNat
  | .vmax z m d a b x => 1007353856 + z.toNat * 33554432 + m.toNat * 4194304 + d.toNat * 2048 + a.toNat * 64 + b.toNat * 2 + x.toNat
  | .vadds z m d a b x => 1007419392 + z.toNat * 33554432 + m.toNat * 4194304 + d.toNat * 2048 + a.toNat * 64 + b.toNat * 2 + x.toNat
  | .vsubs z m d a b x => 1007484928 + z.toNat * 33554432 + m.toNat * 4194304 + d.toNat * 2048 + a.toNat * 64 + b.toNat * 2 + x.toNat
  | .vabs z m d a => 1007550464 + z.toNat * 33554432 + m.toNat * 4194304 + d.toNat * 2048 + a.toNat * 64
  | .vmadw z m d a b x => 1007616000 + z.toNat * 33554432 + m.toNat * 4194304 + d.toNat * 2048 + a.toNat * 64 + b.toNat * 2 + x.toNat
  | .vfadd z m d a b x => 1073741824 + z.toNat * 33554432 + m.toNat * 4194304 + d.toNat * 2048 + a.toNat * 64 + b.toNat * 2 + x.toNat
  | .vfsub z m d a b x => 1073807360 + z.toNat * 33554432 + m.toNat * 4194304 + d.toNat * 2048 + a.toNat * 64 + b.toNat * 2 + x.toNat
  | .vfmul z m d a b x => 1073872896 + z.toNat * 33554432 + m.toNat * 4194304 + d.toNat * 2048 + a.toNat * 64 + b.toNat * 2 + x.toNat
  | .vfma z m d a b x => 1073938432 + z.toNat * 33554432 + m.toNat * 4194304 + d.toNat * 2048 + a.toNat * 64 + b.toNat * 2 + x.toNat
  | .vfms z m d a b x => 1074003968 + z.toNat * 33554432 + m.toNat * 4194304 + d.toNat * 2048 + a.toNat * 64 + b.toNat * 2 + x.toNat
  | .vfnma z m d a b x => 1074069504 + z.toNat * 33554432 + m.toNat * 4194304 + d.toNat * 2048 + a.toNat * 64 + b.toNat * 2 + x.toNat
  | .vfmin z m d a b x => 1074135040 + z.toNat * 33554432 + m.toNat * 4194304 + d.toNat * 2048 + a.toNat * 64 + b.toNat * 2 + x.toNat
  | .vfmax z m d a b x => 1074200576 + z.toNat * 33554432 + m.toNat * 4194304 + d.toNat * 2048 + a.toNat * 64 + b.toNat * 2 + x.toNat
  | .vfabs z m d a => 1074266112 + z.toNat * 33554432 + m.toNat * 4194304 + d.toNat * 2048 + a.toNat * 64
  | .vfneg z m d a => 1074331648 + z.toNat * 33554432 + m.toNat * 4194304 + d.toNat * 2048 + a.toNat * 64
  | .vcmpEq z m d a b x => 1140850688 + z.toNat * 33554432 + m.toNat * 4194304 + d.toNat * 8192 + a.toNat * 256 + b.toNat * 8 + x.toNat
  | .vcmpNe z m d a b x => 1140850690 + z.toNat * 33554432 + m.toNat * 4194304 + d.toNat * 8192 + a.toNat * 256 + b.toNat * 8 + x.toNat
  | .vcmpLt z m d a b x => 1140850692 + z.toNat * 33554432 + m.toNat * 4194304 + d.toNat * 8192 + a.toNat * 256 + b.toNat * 8 + x.toNat
  | .vcmpGe z m d a b x => 1140850694 + z.toNat * 33554432 + m.toNat * 4194304 + d.toNat * 8192 + a.toNat * 256 + b.toNat * 8 + x.toNat
  | .vfcmpEq z m d a b x => 1140916224 + z.toNat * 33554432 + m.toNat * 4194304 + d.toNat * 8192 + a.toNat * 256 + b.toNat * 8 + x.toNat
  | .vfcmpNe z m d a b x => 1140916226 + z.toNat * 33554432 + m.toNat * 4194304 + d.toNat * 8192 + a.toNat * 256 + b.toNat * 8 + x.toNat
  | .vfcmpLt z m d a b x => 1140916228 + z.toNat * 33554432 + m.toNat * 4194304 + d.toNat * 8192 + a.toNat * 256 + b.toNat * 8 + x.toNat
  | .vfcmpGe z m d a b x => 1140916230 + z.toNat * 33554432 + m.toNat * 4194304 + d.toNat * 8192 + a.toNat * 256 + b.toNat * 8 + x.toNat
  | .vsel m d a b x => 1140981760 + m.toNat * 4194304 + d.toNat * 2048 + a.toNat * 64 + b.toNat * 2 + x.toNat
  | .mand d a b => 1141047296 + d.toNat * 8192 + a.toNat * 1024 + b.toNat * 128
  | .mor d a b => 1141112832 + d.toNat * 8192 + a.toNat * 1024 + b.toNat * 128
  | .mxor d a b => 1141178368 + d.toNat * 8192 + a.toNat * 1024 + b.toNat * 128
  | .mnot d a => 1141243904 + d.toNat * 8192 + a.toNat * 1024
  | .mcnt d a => 1141309440 + d.toNat * 2048 + a.toNat * 256
  | .mffs d a => 1141374976 + d.toNat * 2048 + a.toNat * 256
  | .vcvt z m d a => 1207959552 + z.toNat * 33554432 + m.toNat * 4194304 + d.toNat * 2048 + a.toNat * 64
  | .vcvtw z m d a => 1208025088 + z.toNat * 33554432 + m.toNat * 4194304 + d.toNat * 2048 + a.toNat * 64
  | .vcvtn z m d a => 1208090624 + z.toNat * 33554432 + m.toNat * 4194304 + d.toNat * 2048 + a.toNat * 64
  | .vperm z m d a b x => 1275068416 + z.toNat * 33554432 + m.toNat * 4194304 + d.toNat * 2048 + a.toNat * 64 + b.toNat * 2 + x.toNat
  | .vslide z m d a b => 1275133952 + z.toNat * 33554432 + m.toNat * 4194304 + d.toNat * 2048 + a.toNat * 64 + b.toNat * 2
  | .vredsum z m d a => 1275199488 + z.toNat * 33554432 + m.toNat * 4194304 + d.toNat * 2048 + a.toNat * 64
  | .vfredsum z m d a => 1275265024 + z.toNat * 33554432 + m.toNat * 4194304 + d.toNat * 2048 + a.toNat * 64
  | .vredmax z m d a => 1275330560 + z.toNat * 33554432 + m.toNat * 4194304 + d.toNat * 2048 + a.toNat * 64
  | .vredmin z m d a => 1275396096 + z.toNat * 33554432 + m.toNat * 4194304 + d.toNat * 2048 + a.toNat * 64
  | .vext d a b => 1275461632 + d.toNat * 2048 + a.toNat * 64 + b.toNat * 2
  | .vins d a b => 1275527168 + d.toNat * 2048 + a.toNat * 64 + b.toNat * 2
  | .vbcast z m d a => 1275592704 + z.toNat * 33554432 + m.toNat * 4194304 + d.toNat * 2048 + a.toNat * 64
  | .vrcp z m d a => 1342177280 + z.toNat * 33554432 + m.toNat * 4194304 + d.toNat * 2048 + a.toNat * 64
  | .vrsqrt z m d a => 1342242816 + z.toNat * 33554432 + m.toNat * 4194304 + d.toNat * 2048 + a.toNat * 64
  | .vsqrt z m d a => 1342308352 + z.toNat * 33554432 + m.toNat * 4194304 + d.toNat * 2048 + a.toNat * 64
  | .vexp2 z m d a => 1342373888 + z.toNat * 33554432 + m.toNat * 4194304 + d.toNat * 2048 + a.toNat * 64
  | .vlog2 z m d a => 1342439424 + z.toNat * 33554432 + m.toNat * 4194304 + d.toNat * 2048 + a.toNat * 64
  | .vclipq z m d a b => 1342504961 + z.toNat * 33554432 + m.toNat * 4194304 + d.toNat * 2048 + a.toNat * 64 + b.toNat * 2
  | .vnormq z m d a b => 1342570497 + z.toNat * 33554432 + m.toNat * 4194304 + d.toNat * 2048 + a.toNat * 64 + b.toNat * 2
  | .vrot => 1409286144
  | .stgset a => 1409351680 + a.toNat * 2048
  | .stgshift a => 1409417216 + a.toNat * 2048
  | .bnLd q a n => 1476395008 + q.toNat * 4194304 + a.toNat * 8192 + n.toNat * 1024
  | .bnRt q d a n => 1476526080 + q.toNat * 4194304 + d.toNat * 4096 + a.toNat * 256 + n.toNat * 16
  | .bnRto q d a n => 1476657152 + q.toNat * 4194304 + d.toNat * 4096 + a.toNat * 256 + n.toNat * 16
  | .bnInv q i => 1476788224 + q.toNat * 4194304 + i.toNat
  | .bnRd q d n => 1476919296 + q.toNat * 4194304 + d.toNat * 4096 + n.toNat * 16
  | .skInit q a b => 1543503872 + q.toNat * 4194304 + a.toNat * 8192 + b.toNat * 256
  | .skQadd q a v b => 1543634944 + q.toNat * 4194304 + a.toNat * 8192 + v.toNat * 256 + b.toNat * 8
  | .skHadd q a v b => 1543766016 + q.toNat * 4194304 + a.toNat * 8192 + v.toNat * 256 + b.toNat * 8
  | .skDadd q a v b => 1543897088 + q.toNat * 4194304 + a.toNat * 8192 + v.toNat * 256 + b.toNat * 8
  | .skMerge q a b => 1544028160 + q.toNat * 4194304 + a.toNat * 8192 + b.toNat * 512
  | .skCompact q a b => 1544159232 + q.toNat * 4194304 + a.toNat * 8192 + b.toNat * 256
  | .skQuant q a d b => 1544290304 + q.toNat * 4194304 + a.toNat * 8192 + d.toNat * 256 + b.toNat * 8
  | .skRank q a d b => 1544421376 + q.toNat * 4194304 + a.toNat * 8192 + d.toNat * 256 + b.toNat * 8
  | .skTop q a d b => 1544552448 + q.toNat * 4194304 + a.toNat * 8192 + d.toNat * 256 + b.toNat * 8
  | .skCard q a d => 1544683520 + q.toNat * 4194304 + a.toNat * 8192 + d.toNat * 256
  | .skSeal q a => 1544814592 + q.toNat * 4194304 + a.toNat * 8192
  | .skChk q a d => 1544945664 + q.toNat * 4194304 + a.toNat * 8192 + d.toNat * 256
  | .mxMma q ac sc aa sb => 1610612736 + q.toNat * 4194304 + ac.toNat * 2097152 + sc.toNat * 131072 + aa.toNat * 32 + sb.toNat
  | .mxProm q aa sb => 1610613248 + q.toNat * 4194304 + aa.toNat * 32 + sb.toNat
  | .mxProme q aa sb => 1610613760 + q.toNat * 4194304 + aa.toNat * 32 + sb.toNat
  | .mxZero q sb => 1610614272 + q.toNat * 4194304 + sb.toNat
  | .mxZld q ac sc aa sb => 1610614784 + q.toNat * 4194304 + ac.toNat * 2097152 + sc.toNat * 131072 + aa.toNat * 32 + sb.toNat
  | .mxZst q rl sc aa sb => 1610615296 + q.toNat * 4194304 + rl.toNat * 1048576 + sc.toNat * 131072 + aa.toNat * 32 + sb.toNat
  | .mxZcvt q rl sc aa sb => 1610615808 + q.toNat * 4194304 + rl.toNat * 1048576 + sc.toNat * 131072 + aa.toNat * 32 + sb.toNat
  | .mxZadd q sb => 1610616320 + q.toNat * 4194304 + sb.toNat
  | .mxScl q sb => 1610616832 + q.toNat * 4194304 + sb.toNat
  | .mxWsel q sb => 1610617344 + q.toNat * 4194304 + sb.toNat
  | .mxWake q sb => 1610617856 + q.toNat * 4194304 + sb.toNat
  | .mxGate q sb => 1610618368 + q.toNat * 4194304 + sb.toNat
  | .mxTask q ac rl sc aa sb => 1610618880 + q.toNat * 4194304 + ac.toNat * 2097152 + rl.toNat * 1048576 + sc.toNat * 131072 + aa.toNat * 32 + sb.toNat
  | .mxTstat q aa sb => 1610619392 + q.toNat * 4194304 + aa.toNat * 32 + sb.toNat
  | .mxTkill q aa sb => 1610619904 + q.toNat * 4194304 + aa.toNat * 32 + sb.toNat
  | .mxQsplit q sb => 1610620416 + q.toNat * 4194304 + sb.toNat
  | .mxFence q rl sc => 1610620928 + q.toNat * 4194304 + rl.toNat * 1048576 + sc.toNat * 131072
  | .mxCfg q gh gl sb => 1610621440 + q.toNat * 4194304 + gh.toNat * 131072 + gl.toNat * 32 + sb.toNat
  | .cpCopy q ac rl sc aa sb => 1677721600 + q.toNat * 4194304 + ac.toNat * 2097152 + rl.toNat * 1048576 + sc.toNat * 131072 + aa.toNat * 32 + sb.toNat
  | .cpLdt q ac rl sc aa sb => 1677722112 + q.toNat * 4194304 + ac.toNat * 2097152 + rl.toNat * 1048576 + sc.toNat * 131072 + aa.toNat * 32 + sb.toNat
  | .cpStt q ac rl sc aa sb => 1677722624 + q.toNat * 4194304 + ac.toNat * 2097152 + rl.toNat * 1048576 + sc.toNat * 131072 + aa.toNat * 32 + sb.toNat
  | .cpFill q ac sc aa sb => 1677723136 + q.toNat * 4194304 + ac.toNat * 2097152 + sc.toNat * 131072 + aa.toNat * 32 + sb.toNat
  | .cpMap q aa sb => 1677723648 + q.toNat * 4194304 + aa.toNat * 32 + sb.toNat
  | .cpUnmap q rl sc sb => 1677724160 + q.toNat * 4194304 + rl.toNat * 1048576 + sc.toNat * 131072 + sb.toNat
  | .cpFlush q ac rl sc aa sb => 1677724672 + q.toNat * 4194304 + ac.toNat * 2097152 + rl.toNat * 1048576 + sc.toNat * 131072 + aa.toNat * 32 + sb.toNat
  | .cpInval q ac rl sc aa sb => 1677725184 + q.toNat * 4194304 + ac.toNat * 2097152 + rl.toNat * 1048576 + sc.toNat * 131072 + aa.toNat * 32 + sb.toNat
  | .cpWfill q ac sc aa sb => 1677725696 + q.toNat * 4194304 + ac.toNat * 2097152 + sc.toNat * 131072 + aa.toNat * 32 + sb.toNat
  | .cpOvl q ac sc aa sb => 1677726208 + q.toNat * 4194304 + ac.toNat * 2097152 + sc.toNat * 131072 + aa.toNat * 32 + sb.toNat
  | .cpSpill q ac rl sc aa sb => 1677726720 + q.toNat * 4194304 + ac.toNat * 2097152 + rl.toNat * 1048576 + sc.toNat * 131072 + aa.toNat * 32 + sb.toNat
  | .cpUnspill q ac rl sc aa sb => 1677727232 + q.toNat * 4194304 + ac.toNat * 2097152 + rl.toNat * 1048576 + sc.toNat * 131072 + aa.toNat * 32 + sb.toNat
  | .cpBcnt q rl sc aa sb => 1677727744 + q.toNat * 4194304 + rl.toNat * 1048576 + sc.toNat * 131072 + aa.toNat * 32 + sb.toNat
  | .cpTclr q sb => 1677728256 + q.toNat * 4194304 + sb.toNat
  | .clTmk q aa sb => 1744830464 + q.toNat * 4194304 + aa.toNat * 32 + sb.toNat
  | .clTfree q sb => 1744830976 + q.toNat * 4194304 + sb.toNat
  | .clPost q ac rl sc aa sb => 1744831488 + q.toNat * 4194304 + ac.toNat * 2097152 + rl.toNat * 1048576 + sc.toNat * 131072 + aa.toNat * 32 + sb.toNat
  | .clTake q ac rl sc aa sb => 1744832000 + q.toNat * 4194304 + ac.toNat * 2097152 + rl.toNat * 1048576 + sc.toNat * 131072 + aa.toNat * 32 + sb.toNat
  | .clFrz q sb => 1744832512 + q.toNat * 4194304 + sb.toNat
  | .clThaw q sb => 1744833024 + q.toNat * 4194304 + sb.toNat
  | .clSave q aa sb => 1744833536 + q.toNat * 4194304 + aa.toNat * 32 + sb.toNat
  | .clRst q aa sb => 1744834048 + q.toNat * 4194304 + aa.toNat * 32 + sb.toNat
  | .clEditRemove q sb => 1744834560 + q.toNat * 4194304 + sb.toNat
  | .clEditAdd q sb => 1744834560 + q.toNat * 4194304 + sb.toNat
  | .clReshard q ac rl sc aa sb => 1744835072 + q.toNat * 4194304 + ac.toNat * 2097152 + rl.toNat * 1048576 + sc.toNat * 131072 + aa.toNat * 32 + sb.toNat
  | .clQuery q sb => 1744835584 + q.toNat * 4194304 + sb.toNat
  | .clMcast q ac rl sc aa sb => 1744836096 + q.toNat * 4194304 + ac.toNat * 2097152 + rl.toNat * 1048576 + sc.toNat * 131072 + aa.toNat * 32 + sb.toNat
  | .clBar q ac rl sc aa sb => 1744836608 + q.toNat * 4194304 + ac.toNat * 2097152 + rl.toNat * 1048576 + sc.toNat * 131072 + aa.toNat * 32 + sb.toNat
  | .clAbort q sb => 1744837120 + q.toNat * 4194304 + sb.toNat
  | .evSend q aa sb => 1811939328 + q.toNat * 4194304 + aa.toNat * 32 + sb.toNat
  | .evRecv q aa sb => 1811939840 + q.toNat * 4194304 + aa.toNat * 32 + sb.toNat
  | .evGather q aa sb => 1811940352 + q.toNat * 4194304 + aa.toNat * 32 + sb.toNat
  | .evOpen q sb => 1811940864 + q.toNat * 4194304 + sb.toNat
  | .evClose q sb => 1811941376 + q.toNat * 4194304 + sb.toNat
  | .dsLaunch q rl sc aa sb => 1879048192 + q.toNat * 4194304 + rl.toNat * 1048576 + sc.toNat * 131072 + aa.toNat * 32 + sb.toNat
  | .dsLaunchW q rl sc aa sb => 1879048704 + q.toNat * 4194304 + rl.toNat * 1048576 + sc.toNat * 131072 + aa.toNat * 32 + sb.toNat
  | .dsQpush q rl sc aa sb => 1879049216 + q.toNat * 4194304 + rl.toNat * 1048576 + sc.toNat * 131072 + aa.toNat * 32 + sb.toNat
  | .dsQpop q ac sc aa sb => 1879049728 + q.toNat * 4194304 + ac.toNat * 2097152 + sc.toNat * 131072 + aa.toNat * 32 + sb.toNat
  | .dsCondSet q aa sb => 1879050240 + q.toNat * 4194304 + aa.toNat * 32 + sb.toNat
  | .dsCondAdd q aa sb => 1879181312 + q.toNat * 4194304 + aa.toNat * 32 + sb.toNat
  | .dsCondOr q aa sb => 1879312384 + q.toNat * 4194304 + aa.toNat * 32 + sb.toNat
  | .dsCondAnd q aa sb => 1879443456 + q.toNat * 4194304 + aa.toNat * 32 + sb.toNat
  | .dsGstart q aa sb => 1879050752 + q.toNat * 4194304 + aa.toNat * 32 + sb.toNat
  | .dsGstop q aa sb => 1879051264 + q.toNat * 4194304 + aa.toNat * 32 + sb.toNat
  | .dsWake q aa sb => 1879051776 + q.toNat * 4194304 + aa.toNat * 32 + sb.toNat
  | .dsPrio q aa sb => 1879052288 + q.toNat * 4194304 + aa.toNat * 32 + sb.toNat
  | .dsQuery q sb => 1879052800 + q.toNat * 4194304 + sb.toNat
  | .tlInv q sc aa sb => 1946157056 + q.toNat * 4194304 + sc.toNat * 131072 + aa.toNat * 32 + sb.toNat
  | .tlInva q sc sb => 1946157568 + q.toNat * 4194304 + sc.toNat * 131072 + sb.toNat
  | .tlProbe q aa sb => 1946158080 + q.toNat * 4194304 + aa.toNat * 32 + sb.toNat
  | .tlRoot q aa sb => 1946158592 + q.toNat * 4194304 + aa.toNat * 32 + sb.toNat
  | .tlHash q aa sb => 1946159104 + q.toNat * 4194304 + aa.toNat * 32 + sb.toNat
  | .tlDlog q aa sb => 1946159616 + q.toNat * 4194304 + aa.toNat * 32 + sb.toNat
  | .ptQuiesce q sb => 1946165248 + q.toNat * 4194304 + sb.toNat
  | .ptResume q sb => 1946165248 + q.toNat * 4194304 + sb.toNat
  | .ptStateRead q sb => 1946165248 + q.toNat * 4194304 + sb.toNat
  | .ptLayout q aa sb => 1946165760 + q.toNat * 4194304 + aa.toNat * 32 + sb.toNat
  | .ptVfsetAssign q aa sb => 1946166272 + q.toNat * 4194304 + aa.toNat * 32 + sb.toNat
  | .ptVfsetRelease q aa sb => 1946166272 + q.toNat * 4194304 + aa.toNat * 32 + sb.toNat
  | .ptWays q sb => 1946166784 + q.toNat * 4194304 + sb.toNat
  | .ptMove q aa sb => 1946167296 + q.toNat * 4194304 + aa.toNat * 32 + sb.toNat
  | .ptRetire q aa sb => 1946167296 + q.toNat * 4194304 + aa.toNat * 32 + sb.toNat
  | .ptFlr q sb => 1946167808 + q.toNat * 4194304 + sb.toNat
  | .gtLset q sb => 1946173440 + q.toNat * 4194304 + sb.toNat
  | .gtParty q aa sb => 1946173952 + q.toNat * 4194304 + aa.toNat * 32 + sb.toNat
  | .gtReleaseInstall q aa sb => 1946174464 + q.toNat * 4194304 + aa.toNat * 32 + sb.toNat
  | .gtReleaseRevoke q aa sb => 1946174464 + q.toNat * 4194304 + aa.toNat * 32 + sb.toNat
  | .gtReleaseApply q aa sb => 1946174464 + q.toNat * 4194304 + aa.toNat * 32 + sb.toNat
  | .jxRecv t s d => 11 + t.toNat * 1048576 + s.toNat * 32768 + d.toNat * 128
  | .jxSend t s d => 4107 + t.toNat * 1048576 + s.toNat * 32768 + d.toNat * 128
  | .jxWait s d => 8203 + s.toNat * 32768 + d.toNat * 128
  | .jxEnd => 12299
  | .jxEcreate s d => 43 + s.toNat * 32768 + d.toNat * 128
  | .jxEload s d => 4139 + s.toNat * 32768 + d.toNat * 128
  | .jxEpark d => 8235 + d.toNat * 128
  | .jxMabort s d => 12331 + s.toNat * 32768 + d.toNat * 128
  | .jxWaitResume => 0
  | .claim => 0
  | .landingArrival .. => 0
  | .landingTimeout => 0
  | .safePointOverrun => 0
  | .trap .. => 0
  | .faultQueuePost => 0
  | .sliceEnd => 0
  | .priorityPreemption => 0
  | .waitConditionMet .. => 0
  | .waitDeadline .. => 0
  | .readyTableAdmit .. => 0
  | .spinSuspend => 0
  | .heldGroupIssue => 0
  | .barrierArrival .. => 0
  | .pageWalk .. => 0
  | .rds .. => 0
  | .rdx .. => 0
  | .upg .. => 0
  | .wbd .. => 0
  | .evc .. => 0
  | .fwds .. => 0
  | .fwdx .. => 0
  | .inv .. => 0
  | .dat .. => 0
  | .cmpMessage .. => 0
  | .ack .. => 0
  | .don .. => 0
  | .dieLinkFailure .. => 0
  | .uncorrectableError .. => 0
  | .correctableError .. => 0
  | .commandCompletion .. => 0
  | .overlayLoadComplete => 0
  | .cpCszWrite .. => 0
  | .fpSeedWrite .. => 0
  | .fpVcfgWrite .. => 0
  | .fpModeWrite .. => 0
  | .patternLoadEnd => 0
  | .blockPortWrite => 0
  | .subarrayIdleOff .. => 0
  | .subarrayOn .. => 0
  | .mxPoolWrite .. => 0
  | .taskStart .. => 0
  | .taskEnd .. => 0
  | .nodePull .. => 0
  | .takeDelivery .. => 0
  | .configRefill .. => 0
  | .clRingWrite .. => 0
  | .instructionBudgetExpiry => 0
  | .wallBudgetExpiry .. => 0
  | .episodeWipeComplete .. => 0
  | .jwi => 0
  | .jackWrite .. => 0
  | .poolSlotEnqueue .. => 0
  | .graphActivation => 0
  | .dsAbortGo .. => 0
  | .policyInstallComplete .. => 0
  | .scrubLine => 0
  | .frameMove => 0
  | .mediaEntryTake .. => 0
  | .mediaDecode .. => 0
  | .mediaFlush .. => 0
  | .mediaReset .. => 0
  | .mediaCompletion .. => 0
  | .msCtlWrite .. => 0
  | .hostMemoryRead .. => 0
  | .hostMemoryWrite .. => 0
  | .hostAtomic .. => 0
  | .spdmGetVersion .. => 0
  | .spdmGetCapabilities .. => 0
  | .spdmNegotiateAlgorithms .. => 0
  | .spdmGetDigests .. => 0
  | .spdmGetCertificate .. => 0
  | .spdmChallenge .. => 0
  | .spdmGetMeasurements .. => 0
  | .spdmKeyExchange .. => 0
  | .spdmFinish .. => 0
  | .spdmEndSession .. => 0
  | .mbVersion => 0
  | .mbImageWrite => 0
  | .mbImageCommit => 0
  | .mbLifeCycleTransition => 0
  | .mbThrottle => 0
  | .mbLogDrain => 0
  | .mcHeadWrite .. => 0
  | .msiRaise .. => 0
  | .deviceRegisterWrite .. => 0
  | .qlTrain .. => 0
  | .qlEnableWrite .. => 0
  | .qlTrainComplete .. => 0
  | .quaylinkFlit .. => 0
  | .quaylinkPortDown .. => 0
  | .coldReset => 0
  | .boot => 0
  | .thermalThrottle .. => 0
  | .powerLimitThrottle => 0
  | .hartInstruction .. => 0
  | .machineTimerInterrupt => 0
  | .thermalThrottleRelease .. => 0
  | .powerLimitRelease => 0

/-- The word in memory: the stop bit added when the word ends its group (R41). -/
def encodeWord (stop : Bool) (i : Instr) : Nat := encode i + (if stop then 2147483648 else 0)

/-- What the decoder reads from a word numbered as the opcode table numbers it: every row has one 32-bit word. The
eight patterns of R417 are read as a hart's words, every other word as a tile core's (log 11). -/
noncomputable def decodeTableWord (_nbits w : Nat) : Option Instr :=
  match decodeJx (w % 4294967296) with
  | some i => some i
  | none => match decode (w % 4294967296) with
    | .ok i => some i
    | .error _ => none

end Sys2Proof
end

