-- ==== Sys2Proof/Machine/Bits.lean ====
section
/-! DEFINITION. Bit fields, sign extension, byte order and small number helpers, as R5 and R7 define them. -/
namespace Sys2Proof.Machine

/-- Bits hi..lo of a number (R7). -/
def bits (x hi lo : Nat) : Nat := (x >>> lo) % 2 ^ (hi + 1 - lo)
/-- Bit n of a number (R7). -/
def bit (x n : Nat) : Bool := (x >>> n) % 2 == 1
/-- 1 for true, 0 for false. -/
def b2n (b : Bool) : Nat := if b then 1 else 0
def b2v (b : Bool) : BitVec 1 := if b then 1 else 0
/-- The signed reading of the low w bits of x. -/
def sgn (w x : Nat) : Int := if x % 2 ^ w < 2 ^ (w - 1) then (x % 2 ^ w : Nat) else (x % 2 ^ w : Nat) - (2 ^ w : Nat)
/-- An integer modulo 2^w. -/
def wrap (w : Nat) (x : Int) : Nat := (x % (2 ^ w : Nat)).toNat
/-- Clamp an integer to a range. -/
def clamp (lo hi x : Int) : Int := if x < lo then lo else if hi < x then hi else x
/-- Field f (w bits wide) placed at bit lo. -/
def fld (lo f : Nat) : Nat := f <<< lo

/-- A number's low byte list, least significant first (R5). -/
def leBytes : Nat → Nat → List Byte
  | 0, _ => []
  | n + 1, v => BitVec.ofNat 8 v :: leBytes n (v / 256)

/-- The number a little-endian byte list spells (R5). -/
def ofLe : List Byte → Nat
  | [] => 0
  | b :: bs => b.toNat + 256 * ofLe bs

/-- The number a big-endian byte list spells. -/
def ofBe (l : List Byte) : Nat := ofLe l.reverse

/-- Whether n is a multiple of k (k > 0). -/
def aligned (n k : Nat) : Bool := n % k == 0

/-- Base-2 logarithm of a power of two, by counting. -/
def log2 (n : Nat) : Nat := Nat.log2 n

def divUp (a b : Nat) : Nat := (a + b - 1) / b

/-- Do [a, a + n) and [b, b + m) meet? -/
def meets (a n b m : Nat) : Bool := decide (0 < n) && decide (0 < m) && decide (a < b + m) && decide (b < a + n)

/-- The index, in ascending order, of the k-th one bit of x below n. -/
def kthBit (x : Nat) : Nat → Nat → Nat → Nat
  | 0, i, _ => i
  | n + 1, i, k => if bit x i then (if k = 0 then i else kthBit x n (i + 1) (k - 1)) else kthBit x n (i + 1) k

/-- Number of one bits among bits 0..n-1. -/
def popc : Nat → Nat → Nat
  | 0, _ => 0
  | n + 1, x => x % 2 + popc n (x / 2)

/-- Index of the lowest one bit among n bits, or n. -/
def ctz : Nat → Nat → Nat
  | 0, _ => 0
  | n + 1, x => if x % 2 = 1 then 0 else 1 + ctz n (x / 2)

/-- Mix64 of R76. -/
def mix64 (x : BitVec 64) : BitVec 64 :=
  let z := (x ^^^ (x >>> 30)) * 0xBF58476D1CE4E5B9#64
  let z := (z ^^^ (z >>> 27)) * 0x94D049BB133111EB#64
  z ^^^ (z >>> 31)

/-- One bit step of the reflected CRC-32C (R15). -/
def crcStep (c : BitVec 32) : BitVec 32 := if c.getLsbD 0 then (c >>> 1) ^^^ 0x82F63B78#32 else c >>> 1
def crcByte (c : BitVec 32) (b : Byte) : BitVec 32 :=
  let c := c ^^^ b.setWidth 32
  crcStep (crcStep (crcStep (crcStep (crcStep (crcStep (crcStep (crcStep c)))))))
/-- CRC-32C over a byte list (R15). -/
def crc32c (l : List Byte) : BitVec 32 := (l.foldl crcByte 0xFFFFFFFF#32) ^^^ 0xFFFFFFFF#32

/-- Look up a key in an association list. -/
def lookup {α : Type} : List (Nat × α) → Nat → Option α
  | [], _ => none
  | (k, v) :: xs, n => if k = n then some v else lookup xs n

/-- Write a key of an association list kept in strictly rising key order. -/
def insertKey {α : Type} (n : Nat) (v : α) : List (Nat × α) → List (Nat × α)
  | [] => [(n, v)]
  | (k, w) :: xs => if n < k then (n, v) :: (k, w) :: xs else if n = k then (n, v) :: xs else (k, w) :: insertKey n v xs

/-- Remove a key. -/
def eraseKey {α : Type} (n : Nat) (l : List (Nat × α)) : List (Nat × α) := l.filter (fun p => p.1 != n)

/-- Sum of f over 0..n-1. -/
def sumTo (f : Nat → Nat) : Nat → Nat
  | 0 => 0
  | n + 1 => sumTo f n + f n

/-- OR of f i placed at i * w, over i < n: a register or block built from its elements (R63). -/
def pack (w : Nat) (f : Nat → Nat) : Nat → Nat
  | 0 => 0
  | n + 1 => pack w f n ||| ((f n % 2 ^ w) <<< (n * w))

end Sys2Proof.Machine
end

