-- ==== Sys2Proof/Config.lean ====
section
/-! DEFINITION. What an implementation fixes, and the free values: constants with no body, so that no proof can
see what they are (R11, R538 and the log entries named at each). -/
namespace Sys2Proof.Config

/-- Bytes of DDR that are populated, "up to 2 TiB" (R148, R149). Left open by the spec (log 4). -/
opaque ddrBytes : Nat

/-- Draw number n of the hardware entropy source (R362, log 5). -/
opaque entropy : Nat → BitVec 64

/-- Open value number n of the model: what a read outside the package (host memory, another package, a device
register nobody describes) returns, or a value the spec leaves undefined (log 6). -/
opaque freeValue : Nat → BitVec 64

/-- What a codec's standard, which the spec names and does not hold, makes of a bitstream unit: a number that stands for the
parsed unit, from the CODEC, what the stream's earlier units left (0 after a reset), the unit's length and its bytes (R507,
R509, R510, log 7). The constants that follow are functions of that number. -/
opaque mediaUnit : Nat → Nat → Nat → Nat → Nat
/-- The profiles that R507 names, and every other. -/
inductive Profile where
  | constrainedBaseline | main | high | main10 | profile0 | profile2 | other
  deriving DecidableEq, Repr, Inhabited

/-- Whether the unit is well formed; its profile, and ten times its level; whether it is field coded; whether its chroma is
4:2:0; its bit depth. -/
opaque mediaFormed : Nat → Bool
opaque mediaProfile : Nat → Profile
opaque mediaLevel : Nat → Nat
opaque mediaField : Nat → Bool
opaque mediaHalf : Nat → Bool
opaque mediaDepth : Nat → Nat
/-- Whether the unit starts with a random-access point, whether it holds a frame for display, and whether decoding it
makes a frame available (R510, R515). -/
opaque mediaRap : Nat → Bool
opaque mediaShown : Nat → Bool
opaque mediaFrame : Nat → Bool
/-- Width and height of the unit's frame, its display number, and the reference memory the stream needs with it, in 64 KiB
units (R507, R513, R515). -/
opaque mediaWidth : Nat → Nat
opaque mediaHeight : Nat → Nat
opaque mediaNumber : Nat → BitVec 32
opaque mediaRefs : Nat → Nat
/-- The spans of reference memory that decoding the unit reads, as offsets and bytes; and from the unit and the values read,
what it writes there, as offsets, bytes and values, and the number that stands for the decoded frame and for what the unit
leaves for later units (R508, log 7). -/
opaque mediaReads : Nat → List (Nat × Nat)
opaque mediaWrites : Nat → List Nat → List (Nat × Nat × Nat)
opaque mediaDecoded : Nat → List Nat → Nat
/-- The coded sample of a decoded frame, before film grain, in plane 0 to 2 at x, y (R507, R511). -/
opaque mediaSample : Nat → Nat → Nat → Nat → BitVec 10

/-- The life-cycle state fused into the part when it leaves the factory (R523, log 9). -/
opaque fusedLc : BitVec 2

/-- The ratchet of the lowest image version accepted at boot (R523, log 9). -/
opaque fusedRoll : BitVec 32

/-- The images that the package flash holds when the part leaves the factory (R522, R529, log 9). -/
opaque flashImage : Nat → List (BitVec 8)
/-- The pod coordinates the package flash holds (R523, log 9). -/
opaque flashPod : BitVec 12
/-- What an image holds whose layout the spec leaves open but for its MAGIC (R529, log 9): whether the rest of its header
is well formed, its VER, its key block of R478, and the message its two signatures sign, with the signatures in the layout
of R473. -/
opaque imageFormed : List (BitVec 8) → Bool
opaque imageVer : List (BitVec 8) → BitVec 32
opaque imageKeys : List (BitVec 8) → List (BitVec 8)
opaque imageMsg : List (BitVec 8) → List (BitVec 8)
opaque imageSigs : List (BitVec 8) → List (BitVec 8)
/-- What the management image writes into memory before BOOT.ST reaches 7, as physical addresses and bytes; the root of
VF 0, and partition 0's stage table base, its length and its fault queue (R536, log 9). -/
opaque bootBytes : List (Nat × BitVec 8)
opaque bootRoot : BitVec 56
opaque bootStb : BitVec 64
opaque bootStn : BitVec 64
opaque bootFaultq : BitVec 64
/-- Whether the management image hands the record of log entry n to its partition's fault queue (R428, R521, log 9). -/
opaque handsOver : Nat → Bool
/-- Whether a remote package refuses an access at a package time to a pod-global address (R167, log 6). -/
opaque remoteRefuses : Nat → Nat → Bool
/-- Two bytes of an instruction that a hart fetches from beyond memory, by draw and address (R392, log 6). -/
opaque hostCode : Nat → Nat → BitVec 16
/-- Module power in milliwatts and the hottest junction in 1/16 °C at the end of millisecond n (R532, log 34). -/
opaque power : Nat → BitVec 32
/-- The pulses per 256 that keep power at the limit in millisecond n, less one (R532, log 34). -/
opaque powerSwallow : Nat → Fin 255
opaque junction : Nat → BitVec 16
/-- Whether the n-th use of the package flash succeeds (R522, log 10). -/
opaque flashOk : Nat → Bool
/-- The digest of the boot image's key block fused into the part (R529, log 9). -/
opaque fusedKey : BitVec 384
/-- The life-cycle state a signed command token orders, or none when the token does not verify (R530, log 8). -/
opaque tokenTarget : List (BitVec 8) → Option (BitVec 2)

/-- Whether host port p (0 or 1) carries CXL rather than PCIe (R517, log 9). -/
opaque portCxl : Nat → Bool

/-- The identity registers of the Jetty harts, mvendorid, marchid, mimpid and mconfigptr in this order (R393, log 16). -/
opaque hartId : Nat → BitVec 64
/-- What the management image writes into jmemb and jmeml at boot, in 64 KiB units, and where the harts then start
(R395, R422, R529, log 9). -/
opaque jettyBase : BitVec 40
opaque jettyLen : BitVec 32
opaque monitorEntry : BitVec 64

/-- The answer of the management image to a mailbox or SPDM request, byte o of the n-th answer (R522, log 10). -/
opaque mgmtByte : Nat → Nat → BitVec 8

end Sys2Proof.Config
end

