-- ==== Sys2Proof/Machine/State.lean ====
section
/-! DEFINITION. The state of one Agkomas package: everything the spec gives the machine, as plain data. -/
namespace Sys2Proof.Machine

/-! ## Registers and results in flight -/

/-- A branch-target register with its buffered group (R88, R107). -/
structure BtReg where
  addr : Lv 72
  prepared : Bool
  /-- First tick at which a transfer needs no freeze (R107). -/
  ready : Nat
  /-- The captured group: none while the fetch is under way, some [] when no group was captured (R221). -/
  words : Option (List IWord)
  deriving DecidableEq, Repr

/-- The loop buffer's nest (R112 to R114, saved under R137). -/
structure Nest where
  act : Bool
  len1 : BitVec 4
  d : BitVec 3
  g : BitVec 6
  body : Addr
  next : Nat
  idx : List (BitVec 32)
  deriving DecidableEq, Repr

/-- A binding-table entry (R117, R139). -/
structure Bind where
  base : Addr
  len : Word
  obj : Addr
  deriving DecidableEq, Repr

/-- An arrival at a barrier unit tied to a result (R120): RMT, C, N and the VF of its continuation. -/
structure Arrival where
  /-- Tied to a register result, which a retire may discard (R125). -/
  res : Bool
  rmt : Bool
  c : BitVec 2
  n : BitVec 4
  vf : Nat
  deriving DecidableEq, Repr

/-- An effect that takes hold at a later tick than its group's (R94, R132, R142). Register numbers are physical
(R259). Vector, mask and block results carry the bits they write; block 9 is the partial-sum port. -/
inductive Eff where
  | s (d : BitVec 5) (x : Word)
  /-- As `s`, but the label joins the one the register holds then (R235). -/
  | sk (d : BitVec 5) (x : Word)
  | a (d : BitVec 4) (x : Addr)
  | p (d : BitVec 4) (x : Bool)
  | v (d : BitVec 5) (x mask : BitVec 4096) (keep : Bool)
  /-- As `v`, but the label joins those that the registers of a group hold then (R235). -/
  | vg (d : BitVec 5) (x mask : BitVec 4096) (grp : List (BitVec 5))
  | m (d : BitVec 3) (x mask : BitVec 1024) (keep : Bool)
  | g (r : BitVec 6) (x : Word)
  | z (n : Nat) (x mask : BitVec 65536)
  /-- The place of a block in issue order (R146): the port and the flag register receive what the core's `blocks` holds. -/
  | block
  | flags (f : BitVec 5)
  /-- As `flags`, with the label that scalar (true) or vector register d holds by then (R80, R235). -/
  | flagsOf (f : BitVec 5) (sc : Bool) (d : BitVec 5)
  | tagsSet (ctx : Nat) (x : Word)
  | tagsClr (ctx : Nat) (x : Word)
  | unit (n : BitVec 4) (x : Word)
  | arrive (a : Arrival)
  | sysw (num : BitVec 12) (x : Word)
  | rotate
  | stages (x : BitVec 8)
  | shift (x : Bool)
  | btSet (k : BitVec 2) (x : Addr) (ready : Nat)
  | btFetch (k : BitVec 2)
  | linkFault (va : Addr)
  | map (i : BitVec 4) (vbase : Addr) (len so : Nat)
  /-- Sub-arrays turned off (R283). -/
  | subsOff (m : BitVec 4)
  | unlock
  /-- The running record's priority (R455). -/
  | pri (x : BitVec 4)
  deriving DecidableEq, Repr

/-- A landing request (R25, R26): its landing-buffer entry and whether its data has arrived. -/
structure Land where
  entry : Nat
  arrived : Bool
  cls : BitVec 3
  reg : BitVec 5
  word : Addr
  /-- Where its data comes from: home die and address (R144, R176). -/
  src : List (Nat × Addr)
  deriving DecidableEq, Repr

/-- An effect in flight: due at the start of tick `due`, in issue order within one tick (R28). -/
structure Pend where
  due : Nat
  eff : Eff
  lab : Label
  land : Option Land
  deriving DecidableEq, Repr

/-! ## The copy engine -/

/-- A stash line that is present (R189): dirty or clean, its label, provenance (R465) and the line it holds; and, while it is dirty,
the records whose continuations have written it, since a release covers its own continuation's writes alone (R183; the model's own
field, log 37). -/
structure StashLine where
  dirty : Bool
  lab : Label
  prov : BitVec 2
  pa : Nat
  wrote : List Nat
  deriving DecidableEq, Repr

/-- A stash map entry that has been written (R190): closing says that an unmap is in flight or has ended (R197), v is its V
bit. -/
structure MapEnt where
  vbase : Addr
  len : Nat
  so : Nat
  closing : Bool
  v : Bool
  deriving DecidableEq, Repr

/-- A tag context (R201). -/
structure TagCtx where
  owner : Option Nat
  tags : Lv 64
  busy : Word
  terr : Word
  finfo : Word
  faddr : Addr
  flab : Label
  /-- Freed once its busy bits are clear (R201, at retirement). -/
  leaving : Bool
  /-- Tile tasks, queued or running, that name it (R299). -/
  tasks : Nat
  deriving DecidableEq, Repr

/-- A tag context no record owns (R201). -/
def TagCtx.free : TagCtx := ⟨none, ⟨0, 0⟩, 0, 0, 0, 0, 0, false, 0⟩

/-- Which engine command a tagged command is. -/
inductive CmdKind where
  | copy | ldt | stt | fill | unmap | flush | inval | wfill | ovl | spill | unspill
  | post | take | reshard | mcast | send | recv | install | apply | move
  /-- A take or an exchange of an aborted segment, whose record is still to be written (R337, R346). -/
  | aborted
  deriving DecidableEq, Repr

/-- A command in flight: what it captured at issue (R199). -/
structure Cmd where
  kind : CmdKind
  ctx : Nat
  tag : BitVec 6
  aa : Addr
  da : Addr
  xa : Addr
  ba : Addr
  ctl : Word
  geo : List Word
  lab : Label
  rel : Bool
  sc : BitVec 3
  prv : Nat
  vf : Nat
  part : Nat
  /-- The core's tick at which it may complete at the earliest: its tick 2 (R200). -/
  due : Nat
  /-- The package time at which a command whose write was held is tried again (R336). -/
  again : Nat
  arr : List Arrival
  deriving DecidableEq, Repr

/-- One half of the instruction scratchpad (R216). -/
structure Half where
  base : Addr
  st : BitVec 2
  lab : Label
  reason : BitVec 4
  bytes : List Host.Cell
  deriving DecidableEq, Repr

/-- A routing-pattern slot (R263, R267). -/
structure PatSlot where
  st : BitVec 2
  addr : Addr
  lab : Label
  idx : BitVec 65536
  deriving DecidableEq, Repr

/-- A pattern load in progress (R267): cycles it still takes, its slot, whether its reads succeeded, the label the slot
takes at the end, and arrivals tied to it. -/
structure PatLoad where
  left : Nat
  slot : Nat
  ok : Bool
  lab : Label
  arr : List Arrival
  deriving DecidableEq, Repr

/-- A sub-array's power state (R283): 0 off, 1 waking, 2 on. -/
structure SubArr where
  pw : BitVec 2
  cnt : Nat
  idle : Nat
  deriving DecidableEq, Repr

/-- The continuation a core runs: the record's fields it holds (R14) and the sequencer's counters. -/
structure Running where
  pa : Nat
  prv : Nat
  pri : BitVec 4
  dep : BitVec 3
  cl : Label
  frm : Addr
  vf : Nat
  part : Nat
  stg : BitVec 16
  home : Byte
  pin : Bool
  par : Addr
  seq : BitVec 24
  /-- Safe-point distance (R130) and SPX of the last safe point. -/
  dist : Nat
  spx : BitVec 16
  /-- Ticks since the claim, and whether the slice has ended (R432). -/
  slice : Nat
  ended : Bool
  /-- The package time of the claim (R432). -/
  since : Nat
  deriving DecidableEq, Repr

/-- What became of the group last tried (bookkeeping of the model between exec and step). -/
inductive Mark where
  | none
  | trapped (c : Nat) (info : Nat) (addr : Nat)
  | held
  | left
  | transfer
  deriving DecidableEq, Repr

/-- The registers a live-state entry can name, in the bit order of R59. -/
inductive RegName where
  | s (i : BitVec 5) | a (i : BitVec 4) | p (i : BitVec 4) | v (i : BitVec 5) | m (i : BitVec 3) | bt (i : BitVec 2)
  | tags | b (i : BitVec 4) | g (i : BitVec 6) | z (i : Nat)
  deriving DecidableEq, Repr

/-- Slots (R32). -/
inductive Cls where | s | a | b | v | x | e
  deriving DecidableEq, Repr

/-- When a word retires, for an arrival tied to it (R120). -/
inductive Ret where
  | after (n : Nat)
  | result (n : Nat)
  | land (l : BitVec 5)
  | store (n : Nat)
  | issue
  | cmd
  | load
  deriving DecidableEq, Repr

/-- What the sequencer knows of a word before it issues. -/
structure Info where
  cls : Cls
  qp : BitVec 4
  prv : Nat
  rd : List RegName
  wr : List RegName
  cx : List RegName
  ret : Ret
  deriving DecidableEq, Repr

/-- The group a word belongs to, as the sequencer hands it to the slots (R40 to R42). -/
structure Grp where
  start : Addr
  word : Addr
  /-- The group that follows this one, once it has issued (R125). -/
  next : Addr
  raw : IWord
  count : Nat
  safe : Option (BitVec 16)
  members : List Info
  /-- The slots that hold a word of the group, one that decodes to nothing included (R32, R120). -/
  slots : List Cls
  /-- Arrivals waiting for the E-class command and for the pattern load of this group (R120). -/
  eArr : List Arrival
  xArr : List Arrival
  deriving DecidableEq, Repr

/-- A block issued and not past its port tick (R282). -/
structure Block where
  due : Nat
  x : BitVec 65536
  flags : BitVec 5
  lab : Label
  deriving DecidableEq, Repr

/-- One tile core. -/
structure Core where
  s : Vector (Lv 64) 32
  a : Vector (Lv 72) 16
  p : Vector (Lv 1) 16
  v : Vector (Lv 4096) 32
  m : Vector (Lv 1024) 8
  g : Vector (Lv 64) 64
  z : Vector (Lv 65536) 9
  bt : Vector BtReg 4
  b : Vector (Lv 64) 16
  fpMode : Word
  fpFlags : Lv 64
  fpSeed : Lv 64
  fpSctr : Word
  fpVcfg : Word
  vro : BitVec 4
  pro : BitVec 3
  nest : Nest
  binds : List Bind
  pc : Addr
  /-- The captured words of the group at pc, after a transfer through a target buffer (R107). -/
  buf : Option (List IWord)
  tick : Nat
  /-- The package time this core's domain has reached (R4). -/
  ltime : Nat
  /-- Cycles the domain has been frozen in the present freeze (R29). -/
  frozen : Nat
  /-- Cycles of the present freeze in which a `.s` wait held the group (R122). -/
  spun : Nat
  /-- The held group is a wait, a fence or qlock (R135 cause 0x09). -/
  waiting : Bool
  /-- WK, WARG and WOBJ of the `.s` wait that holds the group (R122). -/
  spinW : Option (Nat × Nat × Nat)
  locked : Bool
  /-- A qlock group of this core is held (R128). -/
  wantsLock : Bool
  pend : List Pend
  run : Option Running
  mark : Mark
  grp : Grp
  trCause : Byte
  trInfo : Word
  trAddr : Addr
  cpSpin : BitVec 32
  csz : BitVec 4
  svf : Option Nat
  stash : List (Nat × StashLine)
  maps : Vector (Option MapEnt) 16
  ctxs : Vector TagCtx 4
  cur : Nat
  cmds : List Cmd
  wbuf : List (Nat × Lv 1024)
  half0 : Half
  half1 : Half
  /-- The number of the active half (R216). -/
  active : Bool
  pats : Vector PatSlot 8
  patBusy : Option PatLoad
  /-- Cycles until the square-root unit takes its next word (R237). -/
  sfu : Nat
  subs : Vector SubArr 4
  mxIdle : Word
  mxWake : Word
  mxPool : Word
  portVal : Lv 65536
  portLive : Bool
  /-- The quad's mx.qsplit of this tick has been carried out by another core (R291). -/
  qsp : Bool
  mxPin : Bool
  /-- Memory lines that mx.zst and mx.zcvt wrote in the stash, each with the record that issued the word, until a release (R293). -/
  mxWrote : List (Nat × Nat)
  /-- Suspended records that name this core because of its weight buffer, with their VF (R295). -/
  pinned : List (Nat × Nat)
  blocks : List Block
  blockEnd : Nat
  skSeed : Lv 64
  skBusy : Nat
  /-- A firmware abort of this core is asked for (R433). -/
  abort : Bool
  deriving DecidableEq, Repr

/-- A core right after a core reset (R89, R133, R134, R189, R223, R226, R262, R263, R288, R308, R391). -/
def Core.reset : Core :=
  { s := Vector.replicate 32 ⟨0, 0⟩, a := Vector.replicate 16 ⟨0, 0⟩, p := Vector.replicate 16 ⟨0, 0⟩,
    v := Vector.replicate 32 ⟨0, 0⟩, m := Vector.replicate 8 ⟨0, 0⟩, g := Vector.replicate 64 ⟨0, 0⟩,
    z := Vector.replicate 9 ⟨0, 0⟩, bt := Vector.replicate 4 ⟨⟨0, 0⟩, false, 0, none⟩, b := Vector.replicate 16 ⟨0, 0⟩,
    fpMode := 0, fpFlags := ⟨0, 0⟩, fpSeed := ⟨0, 0⟩, fpSctr := 0, fpVcfg := 0, vro := 0, pro := 0,
    nest := ⟨false, 0, 0, 0, 0, 0, []⟩, binds := [], pc := 0, buf := none, tick := 0, ltime := 0, frozen := 0, spun := 0, waiting := false, spinW := none, locked := false,
    wantsLock := false, pend := [], run := none, mark := .none, grp := ⟨0, 0, 0, 0, 0, none, [], [], [], []⟩,
    trCause := 0, trInfo := 0, trAddr := 0, cpSpin := 4096, csz := 0, svf := none, stash := [],
    maps := Vector.replicate 16 none, ctxs := Vector.replicate 4 TagCtx.free, cur := 0,
    cmds := [], wbuf := [], half0 := ⟨0, 0, 0, 0, []⟩, half1 := ⟨0, 0, 0, 0, []⟩, active := false,
    pats := Vector.replicate 8 ⟨0, 0, 0, 0⟩, patBusy := none, sfu := 0, subs := Vector.replicate 4 ⟨0, 0, 0⟩,
    mxIdle := 1024, mxWake := 96, mxPool := 0, portVal := ⟨0, 0⟩, portLive := false, qsp := false, mxPin := false, mxWrote := [], pinned := [], blocks := [], blockEnd := 0,
    skSeed := ⟨0, 0⟩, skBusy := 0, abort := false }

/-! ## Memory, placement and coherence -/

/-- A partition's interleave set (R165). -/
structure ISet where
  base : Nat
  size : Nat
  dies : Nat
  dlb : List Nat
  seed : Word
  deriving DecidableEq, Repr

/-- A neighbour window (R167). -/
structure NWin where
  en : Bool
  part : BitVec 4
  rpart : BitVec 4
  x : BitVec 4
  y : BitVec 4
  z : BitVec 4
  rbase : Nat
  deriving DecidableEq, Repr

/-- A directory entry (R173): the owner (Ex, Ow) and the sharers, what each caching agent holds (R170: 1 M, 2 O, 3 E,
4 S, 5 O with a clean copy; agents 0 to 3 are the compute dies, 4 and 5 the hosts of ports 0 and 1 under CXL.cache), the open request and the
queue behind it (R174), requests as kind (0 RdS, 1 RdX, 2 Upg, 3 WbD, 4 Evc) and requester. -/
structure DirEnt where
  own : Option Nat
  sh : List Nat
  st : List (Nat × Nat)
  opn : Option (Nat × Nat)
  queue : List (Nat × Nat)
  deriving DecidableEq, Repr

/-- Message kinds of R172. -/
inductive MsgKind where
  | rds | rdx | upg | wbd | evc | fwds | fwdx | inv | dat | cmp | ack | don
  deriving DecidableEq, Repr

/-- A coherence message in flight: line, sender, receiver, requester, count, granted state as in DirEnt (R172); a Cmp
that ends a WbD or Evc grants 0. -/
structure Msg where
  kind : MsgKind
  line : Nat
  src : Nat
  dst : Nat
  req : Nat
  cnt : Nat
  grant : Nat
  deriving DecidableEq, Repr

/-- What a requester still waits for: data, and acknowledgements (R173). -/
structure Waiting where
  line : Nat
  req : Nat
  data : Bool
  grant : Nat
  need : Option Nat
  got : Nat
  write : Bool
  deriving DecidableEq, Repr

/-! ## Partitions, virtual functions and the gate -/

/-- A virtual function's resources (R499). -/
structure VfEnt where
  part : Option Nat
  sqf : Nat
  sqn : Nat
  pq : Nat
  share : Nat
  msif : Nat
  msin : Nat
  ways : BitVec 32
  undo : Nat
  root : Nat
  dlog : Nat
  deriving DecidableEq, Repr

/-- A destination descriptor (R470). -/
structure Dest where
  kind : Nat
  lp : Bool
  base : Nat
  len : Nat
  deriving DecidableEq, Repr

/-- A party-table entry with the gate's keys (R459, R478). -/
structure Party where
  tenant : BitVec 32
  kd : BitVec 384
  dst : List Dest
  modulus : List Byte
  exponent : BitVec 32
  slhKey : List Byte
  deriving DecidableEq, Repr

/-- A policy slot (R475) with its captured image's fields (R473), and the install that verifies it: core, tag context and tag
as one number. -/
structure Policy where
  st : BitVec 2
  form : Nat
  pm : Label
  out : Label
  thr : Nat
  ndst : Nat
  dst : List Dest
  exp : Nat
  inst : Nat
  deriving DecidableEq, Repr

/-- A partition (R483 to R492): its state, memory, tables and per-partition registers. -/
structure Part where
  st : BitVec 2
  quads : BitVec 64
  ddrBase : Nat
  ddrSize : Nat
  /-- The retiring set, with its placement, and the forwarding table (R495). -/
  ret : Option ISet
  fwd : Nat
  parties : List (Nat × Party)
  labels : List (Nat × Label)
  policies : List (Nat × Policy)
  alog : Nat
  refs : Lv 32
  ttb : Word
  ttn : Word
  mbr : Word
  faultq : Word
  stb : Word
  stn : Word
  pool : Word
  pql : Word
  pqh : Word
  slice : Word
  pceil : Word
  shidx : Word
  /-- Launch sequence numbers and other dispatcher counters of the partition. -/
  lseq : Nat
  deriving DecidableEq, Repr

/-- A partition that owns nothing (R483), its registers at their reset values (R355, R421, R457, R481). -/
def Part.unused : Part :=
  { st := 0, quads := 0, ddrBase := 0, ddrSize := 0, ret := none, fwd := 0, parties := [], labels := [], policies := [],
    alog := 0, refs := ⟨0, 0⟩, ttb := 0, ttn := 0, mbr := 0, faultq := 0, stb := 0, stn := 0, pool := 0,
    pql := 0x0400080008000000, pqh := 0x0200020004000400, slice := 65536, pceil := 7, shidx := 0, lseq := 0 }

/-- A record awaiting its fault-queue post (R428): partition, record, cause, the core that holds it. -/
structure Post where
  part : Nat
  pa : Nat
  cause : Nat
  core : Nat
  deriving DecidableEq, Repr

/-- A tile task captured from its record (R299): its 128 bytes, where the record lies, the submitting core and its tag
context, on whose behalf, the label, REL and SC, the conditions that have held (R301: DEP0, DEP1, TAGS), a barrier error
met, and the engines that run it. -/
structure Task where
  img : BitVec 1024
  at_ : Addr
  pa : Nat
  core : Nat
  ctx : Nat
  vf : Nat
  part : Nat
  prv : Nat
  lab : Label
  rel : Bool
  met : BitVec 3
  /-- The failure that its conditions have shown: ERR and the address (R301, R305). -/
  bad : Option (Nat × Nat)
  eng : BitVec 4
  deriving DecidableEq, Repr

/-- What moves next: the environment's and the arbiters' choices, as plain data (log 2). -/
inductive Turn where
  | event (i : Instr)
  | hart (n : Nat)
  | core (n : Nat)
  deriving DecidableEq, Repr

/-- An entry of a die's ready table (R427). -/
structure ReadyEnt where
  die : Nat
  part : Nat
  stg : Nat
  pa : Nat
  deriving DecidableEq, Repr

/-- A candidate as the dispatchers see it (R426, R427), listed in the order in which candidates appeared (R430):
a ready-table entry, or entry idx of the stage's ring. -/
structure Cand where
  part : Nat
  stg : Nat
  pa : Nat
  idx : Option Nat
  deriving DecidableEq, Repr

/-- A node's record of a segment (R343): its accumulator's elements, their state bits and counts, as the save area
packs them. -/
structure TNode where
  node : Nat
  seg : Nat
  done : Bool
  next : Nat
  ec : Nat
  lab : Label
  cnt : Nat
  acc : Nat
  est : Nat
  counts : Nat
  deriving DecidableEq, Repr

/-- An accepted post or exchange that has not completed (R335, R350): the command's core, 2^20 plus its endpoint in another
package, tag context and tag, its bytes
as read at issue, its post label, whether all its lines had PROV 1, the layout of an exchange. -/
structure TPost where
  seg : Nat
  core : Nat
  ctx : Nat
  tag : BitVec 6
  data : Nat
  lab : Label
  prov : Bool
  geo : List Word
  pulled : Bool
  deriving DecidableEq, Repr

/-- An accepted take that has not been delivered (R337). -/
structure TTake where
  seg : Nat
  core : Nat
  ctx : Nat
  tag : BitVec 6
  deriving DecidableEq, Repr

/-- An arrival at a tree barrier (R348): its core, the object's physical address, its label. -/
structure TBar where
  core : Nat
  pa : Nat
  lab : Label
  deriving DecidableEq, Repr

/-- A tree's shape: the descriptor's header fields and its three lists, each entry as its eight bytes. -/
structure Shape where
  op : Nat
  fmt : Nat
  segl : Nat
  fl : Nat
  perm : Nat
  mcnt : Nat
  ncnt : Nat
  root : Nat
  nodes : List Nat
  maps : List Nat
  mems : List Nat
  deriving DecidableEq, Repr

/-- What routers, staging and member engines hold of a tree (R320 to R323, R343): node records, posts, takes, barrier
arrivals, the slots held as router and slot number, the member bitmaps of segments CUR and CUR + 1, segments aborted
alone (R353), segments with a contribution whose lines had not all PROV 1 (R465), the takes of an exchange tree that have been
delivered, as segment and member (R337), and the configuration as each router that keeps it has read it (R321). -/
structure Tree where
  nodes : List TNode
  posts : List TPost
  takes : List TTake
  bars : List TBar
  slots : List (Nat × Nat)
  posted0 : Nat
  posted1 : Nat
  deliv0 : Nat
  deliv1 : Nat
  aborted : List Nat
  noprov : List Nat
  took : List (Nat × Nat)
  cfg : List (Nat × Shape)
  deriving DecidableEq, Repr

def Tree.empty : Tree := ⟨[], [], [], [], [], 0, 0, 0, 0, [], [], [], []⟩

/-- A Jetty hart (R392, R393, R422): registers, pc, machine mode or user mode, the machine CSRs it keeps, its PMP
entries, the LR reservation (a 64-byte block), a stalled jx.wait (destination and port mask), the bound episode and the
instructions left in its step. -/
structure Hart where
  x : Vector Word 32
  pc : Word
  machine : Bool
  mstatus : Word
  mie : Word
  mtvec : Word
  mscratch : Word
  mepc : Word
  mcause : Word
  mtval : Word
  mcounteren : Word
  mcountinhibit : Word
  menvcfg : Word
  mcycle : Word
  minstret : Word
  pmpcfg : Vector Byte 16
  pmpaddr : Vector Word 16
  resv : Option Nat
  wait : Option (BitVec 5 × Nat)
  ep : Option Nat
  irem : Word
  /-- The machine software and machine external interrupt lines (R393), which come from outside the cluster. -/
  msi : Bool
  mei : Bool
  deriving DecidableEq, Repr

/-- A hart right after hart reset (log 14). -/
def Hart.reset : Hart :=
  { x := Vector.replicate 32 0, pc := 0, machine := true, mstatus := 0, mie := 0, mtvec := 0, mscratch := 0, mepc := 0, mcause := 0,
    mtval := 0, mcounteren := 0, mcountinhibit := 0, menvcfg := 0, mcycle := 0, minstret := 0, pmpcfg := Vector.replicate 16 0,
    pmpaddr := Vector.replicate 16 0, resv := none, wait := none, ep := none, irem := 0, msi := false, mei := false }

/-- A running graph as its walker holds it (R441, R453): header address, DONE barrier, the caller, the stages bound. -/
structure GraphRun where
  pa : Nat
  done : Nat
  vf : Nat
  part : Nat
  lab : Label
  binds : List (Nat × Nat)
  deriving DecidableEq, Repr

/-- The rotation of a dispatcher at one priority level (R430). -/
structure Rot where
  key : Nat
  ptr : Nat
  used : Nat
  deriving DecidableEq, Repr

/-! ## Devices (chapter on host, pod links, boot and power) and media streams -/

/-- A media command in progress (R510): its bytes, their label, the frames and status found so far (R515). -/
structure MediaCmd where
  img : BitVec 1024
  lab : Label
  finished : Bool
  st : Nat
  frames : Nat
  fno : BitVec 32
  fa : Nat
  bad : Bool
  deriving DecidableEq, Repr

/-- A stream context (R508, R525): register values, writes deferred while ACT = 1, the command in progress, the frames held
for display, each as its unit and its decoded frame, the last decode command, whose conversion a flush outputs them with,
what the units decoded since the last reset left (0 for nothing), and the streams that a change of VF has reset whose
descriptors the engine has yet to write, as VF, partition and descriptor address. -/
structure MediaCtx where
  v : Bool
  part : Nat
  vf : Nat
  desc : Addr
  last : Byte
  late : List (Nat × Nat)
  cmd : Option MediaCmd
  held : List (Nat × Nat)
  par : BitVec 1024
  refs : Nat
  clear : List (Nat × Nat × Addr)
  deriving DecidableEq, Repr

/-- A Quaylink port (R526), and the sequence number of its next flit (R527). -/
structure QlPort where
  lanes : BitVec 4
  st : BitVec 2
  down : Bool
  retry : BitVec 32
  en : Bool
  seq : BitVec 32
  deriving DecidableEq, Repr

/-- A flit sent or forwarded (R527): port, destination, source, channel, address, bytes, label, link sequence number. -/
structure Flit where
  port : Nat
  dst : BitVec 20
  src : BitVec 20
  ch : BitVec 15
  addr : BitVec 56
  data : List Byte
  lab : Label
  seq : BitVec 32
  deriving DecidableEq, Repr

/-- What a host request is answered with: 0 data, 1 Unsupported Request, 2 Completer Abort or poison, 3 an SPDM answer
(v numbers it), 4 an SPDM error, 5 Request Retry Status (R472, R517, R529, R531); n is its length in bytes. -/
structure Reply where
  port : Nat
  kind : Nat
  n : Nat
  v : Nat
  lab : Label
  deriving DecidableEq, Repr

/-- The device registers of region 0x03 and the state behind them (R519 to R532). -/
structure Dev where
  mbLen : Nat
  mbOp : Nat
  mbBusy : Bool
  /-- The port whose GO is served; none for an F record's (R522). -/
  mbBy : Option Nat
  mbRlen : Nat
  mbRes : Nat
  mbReq : List Host.Cell
  mbResp : List Host.Cell
  lc : BitVec 2
  bootSt : BitVec 3
  roll : BitVec 32
  pod : BitVec 12
  /-- The flash staging area and the committed image, if any (R522). -/
  staged : List Host.Cell
  next : Option (List Byte)
  /-- Versions of the running images: boot, monitor, system continuation (R522). -/
  vers : List (BitVec 32)
  /-- Firmware floor per die, dies above 105 °C, and the power limit's swallowing (R522, R532). -/
  floor : List Nat
  hot : List Nat
  power : Nat
  /-- Telemetry: module power in milliwatts, the hottest junction in 1/16 °C (R532). -/
  mw : BitVec 32
  tj : BitVec 16
  /-- Pulses swallowed per core, with the remainder of the present run (R532). -/
  swal : List (Nat × (Nat × Nat))
  ql : List QlPort
  /-- Ports whose link failure has still to reach the trees (R354, R526). -/
  cut : List Nat
  /-- MSI-X per (port, vector): raised so far, pending under a mask, unmasked (R518, R524), the other bytes of the tables;
  MSI_DROP per port. -/
  msiRaised : List (Nat × Nat)
  msiPend : List (Nat × Nat)
  msiOpen : List (Nat × Nat)
  msiTab : List Host.Cell
  msiDrop : List (Nat × Nat)
  mtimecmp : List (Nat × Nat)
  media : List (Nat × MediaCtx)
  /-- SPDM progress per port (R517): 0 start, 1 version, 2 capabilities, 3 algorithms, 4 key exchange, 5 session. -/
  spdm : List (Nat × Nat)
  /-- The number of the measurements that GET_MEASUREMENTS answers with until the next cold reset (R533). -/
  meas : Nat
  replies : List Reply
  flits : List Flit
  deriving DecidableEq, Repr

/-- The devices at cold reset (R520 to R532). -/
def Dev.reset : Dev :=
  { mbLen := 0, mbOp := 0, mbBusy := false, mbBy := none, mbRlen := 0, mbRes := 0, mbReq := [], mbResp := [],
    lc := Config.fusedLc, bootSt := 0, roll := Config.fusedRoll, pod := 0, staged := [], next := none, vers := [],
    floor := [0, 0, 0, 0], hot := [], power := 0, mw := 0, tj := 0, swal := [], ql := List.replicate 24 ⟨0, 0, false, 0, true, 0⟩,
    cut := [], msiRaised := [], msiPend := [], msiOpen := [], msiTab := [], msiDrop := [], mtimecmp := [], media := [], spdm := [], meas := 0,
    replies := [], flits := [] }

/-- One Agkomas package. -/
structure State where
  /-- The tile core in focus, its package number (R3), and the other cores that differ from an idle reset core. -/
  core : Core
  coreNo : Nat
  others : List (Nat × Core)
  agenda : List Turn
  /-- Package time in sevenths of a nanosecond: a tick at the nominal clock lasts four (R4). -/
  time : Nat
  /-- Open values drawn so far (the model's own counter, log 6). -/
  fresh : Nat
  mem : List Host.Cell
  /-- Frame labels (R461), by frame index. -/
  flab : List (Nat × Label)
  poison : List Nat
  dir : List (Nat × DirEnt)
  /-- The last-level caches (R1, R322, R500): the way that holds a line, by 2^60 times the die plus the line's DRAM place.
  A way whose die the directory no longer shows as a holder is free. -/
  llc : List (Nat × Nat)
  /-- The Jetty caches (R392): who holds a line, hart 0 to 95 in its L2, 96 and 97 the L3 of an I/O die, with the line's DRAM
  place; the least recently used first. -/
  jcache : List (Nat × Nat)
  msgs : List Msg
  waits : List Waiting
  downLinks : List (Nat × Nat)
  isets : Vector ISet 16
  nwins : Vector NWin 16
  vfs : List (Nat × VfEnt)
  parts : Vector Part 16
  flm : Nat
  posts : List Post
  /-- Ready tables, records whose condition held while their table was full, candidates, rotations (R427 to R430). -/
  ready : List ReadyEnt
  admits : List Nat
  /-- Ring entries taken that HEAD has not passed: partition, stage, index (R426). -/
  taken : List (Nat × Nat × Nat)
  seen : List Cand
  rots : List Rot
  /-- Candidates for which a slice has been ended (R432). -/
  ended : List Nat
  /-- Running graphs, and node activations outstanding: graph header and node (R443). -/
  graphs : List GraphRun
  acts : List (Nat × Nat)
  /-- Tile-task queues and running tasks by quad 0 to 63 (R299 to R305). -/
  quadQ : List (Nat × List Task)
  quadRun : List (Nat × List Task)
  /-- CL_RING per die (R322, R355), and what routers, staging and member engines hold of each tree, by partition and
  index: 2^20 times the one plus the other (R309). -/
  clRing : List (Nat × Nat)
  trees : List (Nat × Tree)
  /-- Suspended records that wait for a condition (R17, R18). -/
  parked : List Nat
  /-- The hart whose turn it is, and the harts that differ from a reset hart (R392). -/
  hartNo : Nat
  harts : List (Nat × Hart)
  /-- What the mailbox controllers hold beside the headers: the generation of each mailbox's unanswered action (R404,
  R405), episode ports whose mailbox was closed (R413), as 4 times the episode plus the port, the episodes whose budgets
have been armed (R419), and the die of the core whose word last named a mailbox (its sequence's die, R406). -/
  unans : List (Nat × Nat)
  gone : List Nat
  armed : List Nat
  /-- Episodes whose wipe is under way (R401). -/
  wiping : List Nat
  mbDie : List (Nat × Nat)
  /-- jmemb and jmeml (R422). -/
  jmemb : Nat
  jmeml : Nat
  /-- EV_MBT, EV_MBB, EV_EPT (R421), package-wide. -/
  evMbt : Nat
  evMbb : Nat
  evEpt : Nat
  /-- Correctable errors (R503, R505), and the lines that scrubbing has not passed (R494): the physical address of the first
  and how many lines there are. -/
  ptCerr : BitVec 32
  scrub : List (Nat × Nat)
  /-- Data that has left the package: target, address, value, bytes, label (R469). -/
  egress : List (Nat × Nat × Nat × Nat × Label)
  /-- Machine-check log (R521): HEAD, TAIL, LOST and the entries. -/
  mcHead : BitVec 32
  mcTail : BitVec 32
  mcLost : BitVec 32
  mcLog : List (Nat × BitVec 512)
  dev : Dev
  deriving DecidableEq, Repr

/-- The package right after a cold reset and its wipe (R531, R536): partition 0 active with every quad, all HBM and
all DDR; VF 0 alone assigned; every core at its core reset; nothing in memory. VF 0's stage range, slot quota and
share are the model's (log 13); registers without a stated value are zero (log 14). -/
def State.reset : State :=
  { core := Core.reset, coreNo := 0, others := [], agenda := [], time := 0, fresh := 0, mem := [], flab := [], poison := [],
    dir := [], llc := [], jcache := [], msgs := [], waits := [], downLinks := [],
    isets := (Vector.replicate 16 ⟨0, 0, 0, [0, 0, 0, 0], 0⟩).set 0 ⟨0, 0x9000000000, 15, [0, 0, 0, 0], 0⟩,
    nwins := Vector.replicate 16 ⟨false, 0, 0, 0, 0, 0, 0⟩,
    vfs := [(0, ⟨some 0, 0, 65535, 8192, 1, 0, 0, BitVec.allOnes 32, 0, 0, 0⟩)],
    parts := (Vector.replicate 16 Part.unused).set 0
      { Part.unused with st := 1, quads := BitVec.allOnes 64, ddrBase := 0, ddrSize := Config.ddrBytes },
    flm := 0, posts := [], ready := [], admits := [], taken := [], seen := [], rots := [], ended := [], graphs := [], acts := [],
    quadQ := [], quadRun := [], clRing := [], trees := [], parked := [], hartNo := 0, harts := [], unans := [], gone := [], armed := [], wiping := [], mbDie := [], jmemb := 0, jmeml := 0, evMbt := 0, evMbb := 0, evEpt := 0, ptCerr := 0, scrub := [],
    egress := [], mcHead := 0, mcTail := 0, mcLost := 0, mcLog := [], dev := Dev.reset }

/-! ## Outcomes other than a next state -/

/-- Why a step can stop. Every behaviour the spec describes is a next state; only the model's own plain data can
name an agent that does not exist. -/
inductive Fault where
  /-- Raised by step when the agenda names a hart or core the package does not have (R1: 96 harts, 256 cores).
  Safe: no run of the part corresponds to such a turn. -/
  | noSuchAgent (n : Nat)
  deriving DecidableEq, Repr

/-- Why an instruction has no meaning in the model. -/
inductive Refusal where
  /-- Raised by exec's arm of an instruction that has no meaning yet; safe. -/
  | notModelled (mnemonic : String)
  deriving DecidableEq, Repr

end Sys2Proof.Machine
end

