-- ==== Sys2Proof/Machine/Memory.lean ====
section
/-! DEFINITION. Memory as one coherent list of bytes, where a physical address lives (R165, R495), and the
directory's view of who holds a line (R170 to R175). -/
namespace Sys2Proof.Machine

/-! ## Byte lists -/

/-- The little-endian number of n bytes at a; an unlisted byte reads 0 (R531, log 3). -/
def getN : List Host.Cell → Nat → Nat → Nat
  | [], _, _ => 0
  | (k, b) :: t, a, n =>
    if k < a then getN t a n else if a + n ≤ k then 0 else (b.toNat <<< (8 * (k - a))) + getN t a n

/-- The cells of the low n bytes of v from address a, zero bytes left out. -/
def cellsOf : Nat → Nat → Nat → List Host.Cell
  | 0, _, _ => []
  | n + 1, a, v =>
    if v = 0 then []
    else if v % 256 = 0 then cellsOf n (a + 1) (v / 256)
    else (a, BitVec.ofNat 8 (v % 256)) :: cellsOf n (a + 1) (v / 256)

/-- Write the low n bytes of v at a (R5), keeping the canonical form. -/
def putN (m : List Host.Cell) (a n v : Nat) : List Host.Cell :=
  m.filter (fun c => decide (c.1 < a)) ++ cellsOf n a (v % 2 ^ (8 * n)) ++ m.filter (fun c => decide (a + n ≤ c.1))

/-- Addresses strictly rising, no byte equal to what an unlisted address reads as. -/
def memWf : List Host.Cell → Bool
  | [] => true
  | [(_, b)] => b != 0
  | (k, b) :: (k', b') :: t => b != 0 && decide (k < k') && memWf ((k', b') :: t)

/-- The cells of a window [a, a + n), addresses relative to a. -/
def window (m : List Host.Cell) (a n : Nat) : List Host.Cell :=
  (m.filter (fun c => decide (a ≤ c.1) && decide (c.1 < a + n))).map (fun c => (c.1 - a, c.2))

/-! ## Regions of the physical address space (R148) -/

def hbmTop : Nat := 0x9000000000
def ddrLo : Nat := 0x1000000000000
def isHbm (pa : Nat) : Bool := decide (pa < hbmTop)
def isDdr (pa : Nat) : Bool := decide (ddrLo ≤ pa) && decide (pa < ddrLo + 0x20000000000) && decide (pa < ddrLo + Config.ddrBytes)
def isMem (pa : Nat) : Bool := isHbm pa || isDdr pa
/-- PA<55:48>. -/
def region (pa : Nat) : Nat := pa / 0x1000000000000 % 256

/-! ## Placement -/

def inSet (t : ISet) (pa : Nat) : Bool := t.size != 0 && decide (t.base ≤ pa) && decide (pa < t.base + t.size)

/-- The die and die-local line of an address in a set (R165). -/
def setPlace (t : ISet) (pa : Nat) : Nat × Nat :=
  let n := popc 4 t.dies
  let l := (pa - t.base) / 128
  let g := l / n
  let k := (l + ((mix64 (BitVec.ofNat 64 g ^^^ t.seed)).toNat >>> 32)) % n
  let d := kthBit t.dies 4 0 k
  (d, t.dlb.getD d 0 + g)

def firstSet (s : State) (pa : Nat) : Nat → Option ISet
  | 0 => none
  | n + 1 => if inSet (s.isets.toList.getD (15 - n) ⟨0, 0, 0, [], 0⟩) pa then s.isets.toList[15 - n]? else firstSet s pa n

def retSet (s : State) (pa : Nat) : Option Part :=
  s.parts.toList.find? (fun p => match p.ret with | some t => inSet t pa | none => false)

/-- HbmPlace of R165; a retiring set keeps its old placement (R495). -/
def hbmPlace (s : State) (pa : Nat) : Nat × Nat :=
  match firstSet s pa 16 with
  | some t => setPlace t pa
  | none =>
    match retSet s pa with
    | some p => match p.ret with
      | some t => setPlace t pa
      | none => (pa / 0x2400000000, pa % 0x2400000000 / 128)
    | none => (pa / 0x2400000000, pa % 0x2400000000 / 128)

/-- Channel, stack and row of a die-local line (R165). -/
def channelOf (d m : Nat) : Nat × Nat × Nat × Nat :=
  let q := m / 96
  let c := (m + (mix64 (BitVec.ofNat 64 q ^^^ 0xFFFFFFFFFFFFFFFF#64)).toNat % 2 ^ 32) % 96
  (d, c / 32, c % 32, q)

/-- The DDR channel of an address, and its byte address within that channel (R166). -/
def ddrChannel (pa : Nat) : Nat := bits pa 11 8 ^^^ bits pa 15 12
def ddrPlace (pa : Nat) : Nat × Nat := (ddrChannel pa, bits pa 40 12 * 256 + bits pa 7 0)

/-- The key under which memory holds the byte at a physical address: its DRAM place (R165), so that two addresses
that reach one DRAM line name the same byte. -/
def key0 (s : State) (pa : Nat) : Nat :=
  if isHbm pa then
    let (d, m) := hbmPlace s pa
    d * 0x2400000000 + m * 128 + pa % 128
  else pa

/-- Entry k of a partition's forwarding table (R495). The partition controller, which alone writes it, finds the table where
FWD named it, also when that frame has moved since (DESIGN CHOICE, log 32). -/
def fwdAt (s : State) (p : Part) (k : Nat) : Nat := getN s.mem (key0 s (p.fwd + 8 * k)) 8

/-- The forwarding entry of a retiring frame (R495). -/
def fwdEntry (s : State) (p : Part) (t : ISet) (pa : Nat) : Nat := fwdAt s p ((pa - t.base) / 65536)

/-- Where an access to pa is performed once its frame has moved (R497). -/
def forward (s : State) (pa : Nat) : Nat :=
  match retSet s pa with
  | some p => match p.ret with
    | some t =>
      let e := fwdEntry s p t pa
      if firstSet s pa 16 = none ∧ bits e 63 62 = 2 then bits e 39 0 * 65536 + pa % 65536 else pa
    | none => pa
  | none => pa

def key (s : State) (pa : Nat) : Nat := key0 s (forward s pa)

/-- The home die of a line: compute dies 0 to 3 (R165), I/O dies 4 and 5 (R166). -/
def homeOf (s : State) (pa : Nat) : Nat :=
  if isHbm pa then (hbmPlace s (forward s pa)).1 else if (ddrPlace pa).1 < 8 then 4 else 5

/-! ## Bytes at physical addresses -/

def readLines (s : State) : Nat → Nat → Nat → Nat
  | 0, _, _ => 0
  | k + 1, pa, n =>
    let c := min n (128 - pa % 128)
    getN s.mem (key s pa) c + (readLines s k (pa + c) (n - c) <<< (8 * c))

/-- Read n bytes at a physical address (R5). -/
def readPa (s : State) (pa n : Nat) : Nat := readLines s ((pa % 128 + n + 127) / 128) pa n

def writeLines (s : State) : Nat → Nat → Nat → Nat → List Host.Cell → List Host.Cell
  | 0, _, _, _, m => m
  | k + 1, pa, n, v, m =>
    let c := min n (128 - pa % 128)
    writeLines s k (pa + c) (n - c) (v >>> (8 * c)) (putN m (key s pa) c v)

/-- Write the low n bytes of v at a physical address. -/
def writePa (s : State) (pa n v : Nat) : State :=
  { s with mem := writeLines s ((pa % 128 + n + 127) / 128) pa n v s.mem }

/-- The lines [line, …] an access of n bytes at pa touches, as line-aligned addresses. -/
def linesOf (pa n : Nat) : List Nat :=
  if n = 0 then [] else (List.range ((pa % 128 + n + 127) / 128)).map (fun i => pa / 128 * 128 + 128 * i)

/-! ## Frame labels (R461) -/

def frameIdx (pa : Nat) : Option Nat :=
  if isHbm pa then some (pa / 65536) else if region pa = 1 then some (9437184 + pa % 0x20000000000 / 65536) else none

/-- Does an address lie in the Jetty memory range, whose frames have no label (R422, R461)? -/
def inJetty (s : State) (pa : Nat) : Bool := decide (s.jmemb ≤ pa) && decide (pa < s.jmemb + s.jmeml)

/-- The label of the frame that holds a byte: once its frame has moved, the new one's (R462, R497). The map is a list of the
model's own and lies in no memory byte: only the gate and the walkers access the one at GT_FLM (R461, log 31). -/
def frameLabel (s : State) (pa : Nat) : Label :=
  if inJetty s (forward s pa) then 0 else
  match frameIdx (forward s pa) with
  | some i => (lookup s.flab i).getD 0
  | none => 0

/-- OR a label into a frame's label (R463 step 2); a zero label lists nothing. -/
def raiseFrame (s : State) (pa : Nat) (l : Label) : State :=
  if l = 0 ∨ inJetty s (forward s pa) then s else
  match frameIdx (forward s pa) with
  | some i => let n := (lookup s.flab i).getD 0 ||| l
    if n = 0 then s else { s with flab := insertKey i n s.flab }
  | none => s

/-! ## The directory (R169 to R175) -/

def DirEnt.none : DirEnt := ⟨Option.none, [], [], Option.none, []⟩
def dirAt (s : State) (line : Nat) : DirEnt := (lookup s.dir line).getD DirEnt.none

def setDir (s : State) (line : Nat) (e : DirEnt) : State :=
  if e = DirEnt.none then { s with dir := eraseKey line s.dir } else { s with dir := insertKey line e s.dir }

/-- What an agent holds of a line (R170); 0 is I. -/
def holds (e : DirEnt) (a : Nat) : Nat := (lookup e.st a).getD 0
def dropHold (a : Nat) (e : DirEnt) : DirEnt := { e with st := eraseKey a e.st }
def setHold (a x : Nat) (e : DirEnt) : DirEnt := { e with st := insertKey a x e.st }

/-- An owner that forwards a copy: M or E becomes O, whose copy of an E line is clean (R170, R173); a host has no O and keeps
a shared copy (R169, R172). -/
def ownerShares (o : Nat) (e : DirEnt) : DirEnt :=
  if holds e o = 0 then e else setHold o (if 4 ≤ o then 4 else if holds e o = 3 ∨ holds e o = 5 then 5 else 2) e

/-- The directory after a request of kind k by r completes (R173): RdS. -/
def dirRead (e : DirEnt) (r : Nat) : DirEnt :=
  match e.own with
  | some o => { e with sh := r :: e.sh.filter (· != r), own := some o }
  | none => if e.sh = [] then { e with own := some r } else { e with sh := r :: e.sh.filter (· != r) }
/-- RdX or Upg. -/
def dirWrite (e : DirEnt) (r : Nat) : DirEnt := { e with own := some r, sh := [] }
/-- WbD or Evc from r. -/
def dirLeave (e : DirEnt) (r : Nat) : DirEnt :=
  dropHold r (if e.own = some r then { e with own := none } else { e with sh := e.sh.filter (· != r) })

/-- The whole effect of one request on directory and holders, as if its messages had all arrived; request 5 is the
home's own, that frees the entry (R171). -/
def dirNet (e : DirEnt) (k r : Nat) : DirEnt :=
  if k = 0 then
    if holds e r ≠ 0 then e
    else match e.own with
      | some o => setHold r 4 (dirRead (ownerShares o e) r)
      | none => setHold r (if e.sh = [] then 3 else 4) (dirRead e r)
  else if k ≤ 2 then
    if e.own = some r ∧ e.sh = [] then e
    else
      let dirty := e.st.any (fun h => h.2 == 1 || h.2 == 2)
      { dirWrite e r with st := [(r, if dirty then 1 else 3)] }
  else if k = 5 then DirEnt.none
  else dirLeave e r

/-- Complete what the home has open or queued on a line, in order (R174), as an access that follows it finds it. -/
def settleLine (s : State) (line : Nat) : State :=
  let e := dirAt s line
  if e.opn = none ∧ e.queue = [] then s
  else
    let todo := (match e.opn with | some q => [q] | none => []) ++ e.queue
    setDir { s with msgs := s.msgs.filter (fun m => m.line != line), waits := s.waits.filter (fun w => w.line != line) } line
      (todo.foldl (fun d q => dirNet d q.1 q.2) { e with opn := none, queue := [] })

/-- The line of memory, by its DRAM place, that holds a byte. -/
def lineKey (s : State) (pa : Nat) : Nat := key s pa / 128 * 128

/-- A write at the home by an agent that caches nothing: no caching agent keeps the line (R169, R173). -/
def uncacheLine (s : State) (pa : Nat) : State :=
  let k := lineKey s pa
  if (lookup s.dir k).isSome then setDir (settleLine s k) k DirEnt.none else s

/-- The lines of memory that p names by their DRAM places leave a core's stash (R193), but for the stash line `keep`: an address is
one of those that reach a place (R165). -/
def Core.dropWhere (c : Core) (s : State) (p : Nat → Bool) (keep : Option Nat) : Core :=
  { c with stash := c.stash.filter (fun e => !p (lineKey s e.2.pa) || some e.1 == keep) }

def dropStash (s : State) (p : Nat → Bool) (keep : Option Nat) : State :=
  { s with core := s.core.dropWhere s p keep, others := s.others.map (fun e => (e.1, e.2.dropWhere s p none)) }

/-- Do n bytes at pa touch one of the m bytes at b, which lie in one line, by this or another address of it (R165)? -/
def touches (s : State) (b m pa n : Nat) : Bool :=
  (linesOf pa n).any (fun a => lineKey s a == lineKey s b && meets (b % 128) m (max pa a - a) (min (pa + n) (a + 128) - max pa a))

/-- A write that touches a hart's reserved block ends its reservation (R393). -/
def dropResv (s : State) (pa n : Nat) (h : Hart) : Hart :=
  { h with resv := h.resv.bind (fun b => if touches s b 64 pa n then none else some b) }

/-- A write by an agent invalidates every other copy of its lines (R173, R193): every stash line holding one
becomes NP, but for the line the write goes through (`keep`, in the focused core). -/
def snoop (s : State) (pa n : Nat) (keep : Option Nat) : State :=
  let ks := (linesOf pa n).map (lineKey s)
  { dropStash s (fun k => ks.contains k) keep with harts := s.harts.map (fun e => (e.1, dropResv s pa n e.2)) }

/-- No agent keeps a copy of the lines of memory that p names by their DRAM places (R169, R465). -/
def emptyLines (s : State) (p : Nat → Bool) : State :=
  (s.dir.filter (fun e => p e.1)).foldl (fun t e => setDir (settleLine t e.1) e.1 DirEnt.none) (dropStash s p none)

/-- The partition controller writes entry k of a forwarding table; a cached copy of it goes (R169, R465). -/
def fwdPut (s : State) (p : Part) (k v : Nat) : State :=
  let a := key0 s (p.fwd + 8 * k)
  let t := emptyLines s (· == a / 128 * 128)
  { t with mem := putN t.mem a 8 v }

/-- A write at the home of its lines by an engine, a controller or another agent that caches nothing (R169), with a label
its frames take (R463): every cached copy goes. -/
def engWr (s : State) (pa n v : Nat) (l : Label := 0) : State :=
  let s1 := if l = 0 then s else (linesOf pa n).foldl (fun t a => raiseFrame t a l) s
  let s2 := snoop s1 pa n none
  writePa (if s2.dir = [] then s2 else (linesOf pa n).foldl uncacheLine s2) pa n v

def isPoisoned (s : State) (pa n : Nat) : Bool := (linesOf pa n).any (fun l => s.poison.contains (key s l))

/-- Is the link between two dies down (R176)? -/
def linkIsDown (s : State) (a b : Nat) : Bool := s.downLinks.contains (a, b) || s.downLinks.contains (b, a)

/-- Can die d read or write n bytes of memory at pa: no line poisoned or homed behind a failed link (R176, R503)? -/
def reaches (s : State) (d pa n : Nat) : Bool :=
  !isPoisoned s pa n && (s.downLinks.isEmpty || !(linesOf pa n).any (fun l => isMem l && linkIsDown s d (homeOf s l)))

end Sys2Proof.Machine
end

