-- ==== Sys2Proof/Machine/Translate.lean ====
section
/-! DEFINITION. Translation: the five-level walk, its checks, the A and D bits, the dirty log and the undo copy
(R147 to R157, R493, R504). The model caches no translation: every access walks, which R155 and R158 allow. -/
namespace Sys2Proof.Machine

/-- Kinds of access (R152). -/
inductive Kind where | read | write | rmw | code
  deriving DecidableEq, Repr

/-- Why a walk failed: cause 0x06 or 0x07, the level and the reason of R157; or a machine check at a poisoned table entry,
with its line (R176, R503). -/
structure XFail where
  cause : Nat
  lvl : Nat
  reason : Nat
  pa : Nat
  deriving DecidableEq, Repr

def pageFault (lvl r : Nat) : XFail := ⟨6, lvl, r, 0⟩
def permFault (lvl r : Nat) : XFail := ⟨7, lvl, r, 0⟩

/-- A VF's resources; an unlisted VF is unassigned. -/
def vfAt (s : State) (vf : Nat) : VfEnt := (lookup s.vfs vf).getD ⟨none, 0, 0, 0, 1, 0, 0, 0, 0, 0, 0⟩
def setVf (s : State) (vf : Nat) (e : VfEnt) : State := { s with vfs := insertKey vf e s.vfs }

def partAt (s : State) (p : Nat) : Part := s.parts.toList.getD p Part.unused
def setPart (s : State) (p : Nat) (x : Part) : State := { s with parts := s.parts.setIfInBounds p x }

/-- Is a physical address in partition p's memory (R493)? -/
def inPart (s : State) (p pa : Nat) : Bool :=
  (match s.isets.toList[p]? with | some t => inSet t pa | none => false)
  || (match (partAt s p).ret with | some t => inSet t pa | none => false)
  || (decide (ddrLo + (partAt s p).ddrBase ≤ pa) && decide (pa < ddrLo + (partAt s p).ddrBase + (partAt s p).ddrSize))
  || (decide (2 ≤ region pa) && decide (region pa ≤ 4))

/-- Is the address MSI_RAISE of a host port (R524)? -/
def isMsiRaise (pa : Nat) : Bool := pa == 0x3000700000000 || pa == 0x3000700010000

/-- RegionCheck of R149, with R519's rule that the device region takes aligned doublewords only. -/
def regionCheck (s : State) (pa : Nat) (kind : Kind) (prv part size lvl : Nat) : Option XFail :=
  let r := region pa
  if r = 0 then (if isHbm pa then none else some (permFault lvl 11))
  else if r = 1 then (if isDdr pa then none else some (permFault lvl 11))
  else if r = 2 then
    match s.nwins.toList[pa / 0x100000000000 % 16]? with
    | some w => if w.en ∧ w.part.toNat = part then none else some (permFault lvl 12)
    | none => some (permFault lvl 12)
  else if r = 3 then
    if kind = .rmw then some (permFault lvl (if prv < 2 then 13 else 15))
    else if prv < 2 ∧ ¬(prv = 1 ∧ kind = .write ∧ isMsiRaise pa) then some (permFault lvl 13)
    else if size = 8 ∧ pa % 8 = 0 ∧ kind ≠ .code then none else some (permFault lvl 11)
  else if r = 4 then (if kind = .rmw then some (permFault lvl 15) else none)
  else some (permFault lvl 11)

/-- The low bit of the VA field that indexes each level, and its width (R150). -/
def vaIndex (va lvl : Nat) : Nat :=
  match lvl with
  | 0 => bits va 71 68
  | 1 => bits va 67 55
  | 2 => bits va 54 42
  | 3 => bits va 41 29
  | _ => bits va 28 16

def malformed (pte lvl : Nat) (leaf : Bool) : Bool :=
  if bits pte 13 12 ≠ 0 then true
  else if bit pte 8 ∧ lvl ≠ 3 then true
  else if leaf then bits pte 5 4 == 3 || (lvl == 3 && bits pte 26 14 != 0)
  else bits pte 11 1 != 0 || bits pte 63 54 != 0

/-- The walk to a leaf (R152): the leaf entry's physical address, the entry and its level. `own` limits tables to a
partition's memory (R493). Of tables R152 checks the place of those that an entry names; a root outside HBM and populated DDR,
which tl.root takes (R162), is walked as memory that holds zeros (DESIGN CHOICE, log 21). -/
def walk (s : State) (va : Nat) (own : Option Nat) : Nat → Nat → Except XFail (Nat × Nat × Nat)
  | 0, _ => .error (pageFault 4 1)
  | k + 1, base =>
    let lvl := 4 - k
    let ea := base + 8 * vaIndex va lvl
    let pte := readPa s ea 8
    let leaf := lvl == 4 || (lvl == 3 && bit pte 8)
    if isPoisoned s ea 8 then .error ⟨0x15, lvl, 0, ea / 128 * 128⟩
    else if ¬bit pte 0 then .error (pageFault lvl 0)
    else if malformed pte lvl leaf then .error (pageFault lvl 1)
    else if leaf then .ok (ea, pte, lvl)
    else
      let nb := bits pte 53 14 * 65536
      if ¬isMem nb then .error (pageFault lvl 2)
      else match own with
        | some p => if inPart s p nb then walk s va own k nb else .error (permFault lvl 16)
        | none => walk s va own k nb

/-- What a walker writes for a log or an undo copy, at an address that its descriptor gives; one that is no memory's takes nothing
(DESIGN CHOICE, log 21). -/
def walkerWr (s : State) (pa n v : Nat) : State := if isMem pa then engWr s pa n v else s

/-- Append an entry to a dirty-page or absorb log (R154, R464): the entry at BASE + n * NEXT, or LOST, whose byte's reserved bits are
written zero (R10). Of BASE the 56 bits of a physical address count (DESIGN CHOICE, log 21). -/
def logAppend (s : State) (desc n entry : Nat) : State :=
  if desc = 0 then s
  else
    let fl := readPa s (desc + 9) 1
    if ¬bit fl 0 then s
    else
      let base := readPa s desc 9 % 2 ^ 56
      let base := if n = 16 then base / 16 * 16 else base
      let cap := readPa s (desc + 10) 4
      let next := readPa s (desc + 14) 4
      if next < cap then engWr (walkerWr s (base + n * next) n entry) (desc + 14) 4 (next + 1)
      else engWr s (desc + 9) 1 (fl % 4 ||| 2)

/-- The undo copy before the first write after a checkpoint (R504). -/
def undoCopy (s : State) (desc vf page lvl : Nat) : State :=
  if desc = 0 then s
  else
    let fl := readPa s (desc + 9) 1
    if ¬bit fl 0 then s
    else
      let cap := readPa s (desc + 10) 4
      let next := readPa s (desc + 14) 4
      if lvl = 4 ∧ next < cap then
        let db := readPa s (desc + 0x14) 9 % 2 ^ 56
        let s1 := walkerWr s (db + 65536 * next) 65536 (readPa s page 65536)
        let s2 := walkerWr s1 (readPa s desc 9 % 2 ^ 56 + 8 * next) 8 (page + vf)
        engWr s2 (desc + 14) 4 (next + 1)
      else engWr s (desc + 9) 1 (fl % 4 ||| 2)

/-- A poisoned line of n bytes at pa, by its address (R503). -/
def poisonIn (s : State) (pa n : Nat) : Option Nat :=
  if s.poison.isEmpty then none else (linesOf pa n).find? (fun l => isPoisoned s l 128)

/-- The poisoned line that an append of an n-byte entry meets, in the descriptor or where the entry goes (R154, R503). -/
def logPoison (s : State) (desc n : Nat) : Option Nat :=
  if desc = 0 ∨ s.poison.isEmpty then none
  else (poisonIn s desc 18).orElse (fun _ =>
    let base := readPa s desc 9 % 2 ^ 56
    let base := if n = 16 then base / 16 * 16 else base
    let next := readPa s (desc + 14) 4
    if bit (readPa s (desc + 9) 1) 0 ∧ next < readPa s (desc + 10) 4 then poisonIn s (base + n * next) n else none)

/-- The poisoned line that an undo copy of a page meets (R503, R504). -/
def undoPoison (s : State) (desc page lvl : Nat) : Option Nat :=
  if desc = 0 ∨ s.poison.isEmpty then none
  else (poisonIn s desc 29).orElse (fun _ =>
    let next := readPa s (desc + 14) 4
    if bit (readPa s (desc + 9) 1) 0 ∧ lvl = 4 ∧ next < readPa s (desc + 10) 4 then
      (poisonIn s page 65536).orElse (fun _ => (poisonIn s (readPa s (desc + 0x14) 9 % 2 ^ 56 + 65536 * next) 65536).orElse
        (fun _ => poisonIn s (readPa s desc 9 % 2 ^ 56 + 8 * next) 8))
    else none)

/-- The page a leaf maps. -/
def leafPage (pte lvl : Nat) : Nat := if lvl = 4 then bits pte 53 14 * 65536 else bits pte 53 27 * 0x20000000

/-- The poisoned line that the walker meets when an access sets D (R153, R154, R503, R504). -/
def adPoison (s : State) (pte lvl vf : Nat) (kind : Kind) : Option Nat :=
  if (kind = .write ∨ kind = .rmw) ∧ ¬bit pte 7 then
    (undoPoison s (vfAt s vf).undo (leafPage pte lvl) lvl).orElse (fun _ => logPoison s (vfAt s vf).dlog 8)
  else none

/-- UpdateAccessedDirty of R153, with the dirty log (R154) and the undo copy (R504) when D rises: writes at home, by an agent that
holds no line, so that the cached copies of what they change go, with their provenance (R173, R465). -/
def updateAd (s : State) (ea pte lvl vf : Nat) (kind : Kind) : State :=
  let w := kind = .write ∨ kind = .rmw
  let dRise := w ∧ ¬bit pte 7
  let pte' := pte ||| 64 ||| (if w then 128 else 0)
  let s1 := if pte' = pte then s else engWr s ea 8 pte'
  if dRise then
    let page := leafPage pte lvl
    let s2 := undoCopy s1 (vfAt s vf).undo vf page lvl
    logAppend s2 (vfAt s vf).dlog 8 ((if lvl = 4 then 0 else 1) <<< 62 ||| page ||| vf)
  else s1

/-- What a translation gives: the physical address, the leaf (0 through the physical window), and whether it was
the physical window (R147). -/
structure Xlat where
  pa : Nat
  pte : Nat
  lvl : Nat
  phys : Bool
  deriving DecidableEq, Repr

/-- Translate (R152), without the access-bit update. `part` is the running record's partition. The physical window makes no walk (R147): the
level that its failures report is 0 (DESIGN CHOICE, log 21). -/
def translate (s : State) (va vf part prv size : Nat) (kind : Kind) : Except XFail (Xlat × Nat) :=
  if prv = 2 ∧ bits va 71 68 = 15 then
    if bits va 67 56 ≠ 0 then .error (pageFault 0 4)
    else
      let pa := va % 2 ^ 56
      match regionCheck s pa kind prv part size 0 with
      | some e => .error e
      | none => .ok (⟨pa, 0, 0, true⟩, 0)
  else
    let root := (vfAt s vf).root
    if root = 0 then .error (pageFault 0 3)
    else
      let own := if prv < 2 then some part else none
      match own with
      | some p =>
        if ¬inPart s p root then .error (permFault 0 16)
        else finish root own
      | none => finish root own
where
  finish (root : Nat) (own : Option Nat) : Except XFail (Xlat × Nat) :=
    match walk s va own 5 root with
    | .error e => .error e
    | .ok (ea, pte, lvl) =>
      if prv < bits pte 5 4 then .error (permFault lvl 10)
      else if (kind = .read ∨ kind = .rmw) ∧ ¬bit pte 1 then .error (permFault lvl 8)
      else if (kind = .write ∨ kind = .rmw) ∧ ¬bit pte 2 then .error (permFault lvl 9)
      else if kind = .code ∧ ¬bit pte 3 then .error (permFault lvl 14)
      else
        let pa := if lvl = 4 then bits pte 53 14 * 65536 + va % 65536 else bits pte 53 27 * 0x20000000 + va % 0x20000000
        if (match own with | some p => !inPart s p pa | none => false) then .error (permFault lvl 16)
        else match regionCheck s pa kind prv part size lvl with
          | some e => .error e
          | none => .ok (⟨pa, pte, lvl, false⟩, ea)

/-- Translate with the A and D update of R153. A poisoned line met by the dirty log or the undo copy is a machine check
(R176, R503). -/
def translateMark (s : State) (va vf part prv size : Nat) (kind : Kind) : Except XFail (State × Xlat) :=
  match translate s va vf part prv size kind with
  | .error e => .error e
  | .ok (x, ea) =>
    if x.phys then .ok (s, x)
    else match adPoison s x.pte x.lvl vf kind with
      | some l => .error ⟨0x15, x.lvl, 0, l⟩
      | none => .ok (updateAd s ea x.pte x.lvl vf kind, x)

def Xlat.uc (x : Xlat) : Bool := bit x.pte 11
def Xlat.ext (x : Xlat) : Bool := bit x.pte 10
def Xlat.ab (x : Xlat) : Bool := bit x.pte 9
def Xlat.lix (x : Xlat) : Nat := bits x.pte 63 54

/-- Cacheable: HBM or DDR through a leaf without UC (R148, R168). -/
def Xlat.cacheable (x : Xlat) : Bool := isMem x.pa && !x.uc

end Sys2Proof.Machine
end

