-- ==== Sys2Proof/Machine/Cache.lean ====
section
/-! DEFINITION. What the dies' caches hold (R1, R169 to R175, R189, R192, R193, R322, R500): last-level-cache ways, the
stashes behind the snoop filters, the directories' room. A line's data is its one coherent value in memory. -/
namespace Sys2Proof.Machine

def dieNo (s : State) : Nat := s.coreNo / 64

/-- The home of a line named by its DRAM place (R165, R166). -/
def keyHome (line : Nat) : Nat :=
  if line < 4 * 0x2400000000 then line / 0x2400000000 else if (ddrPlace line).1 < 8 then 4 else 5

/-- A physical address of the line at a DRAM place: the one of a set that reaches it (R165), else the place itself. -/
def linePa (s : State) (line : Nat) : Nat :=
  let m := line % 0x2400000000 / 128
  let cands := s.isets.toList.flatMap (fun t => let n := popc 4 t.dies
    if t.size = 0 then [] else (List.range n).map (fun j => t.base + 128 * ((m - t.dlb.getD (line / 0x2400000000) 0) * n + j)))
  ((cands.find? (fun pa => isHbm pa && key s pa == line)).getD line)

/-! ## Stash lines -/

/-- The cores that stand on a die, of those that differ from an idle reset core. -/
def coresOf (s : State) (die : Nat) : List (Nat × Core) := ((s.coreNo, s.core) :: s.others).filter (fun e => e.1 / 64 == die)

def inStash (s : State) (die k : Nat) : Bool :=
  (coresOf s die).any (fun e => e.2.stash.any (fun l => lineKey s l.2.pa == k))

/-- A die's cores lose a line (R171, R173). -/
def dieDrops (s : State) (line die : Nat) : State :=
  let keep (c : Core) : Core := { c with stash := c.stash.filter (fun l => lineKey s l.2.pa != line) }
  { s with
    core := if dieNo s = die then keep s.core else s.core,
    others := s.others.map (fun e => (e.1, if e.1 / 64 = die then keep e.2 else e.2)) }

/-! ## The last-level cache (R1, R322, R500) -/

/-- The set of a structure with n sets that a line falls in: its line number modulo n (DESIGN CHOICE, log 38). -/
def setOf (k n : Nat) : Nat := k / 128 % n
def llcKey (die k : Nat) : Nat := die * 2 ^ 60 + k

/-- The ways in which a VF's accesses allocate: those of its mask that no staging ring holds (R322, R500). -/
def vfWays (s : State) (vf die : Nat) : List Nat :=
  (List.range (32 - (lookup s.clRing die).getD 0)).filter (fun w => (vfAt s vf).ways.getLsbD w)

/-- What a die's last-level cache holds in the set of a line: 4 MiB of 128-byte lines are 32,768 sets. -/
def llcSet (s : State) (die k : Nat) : List (Nat × Nat) :=
  s.llc.filter (fun e => e.1 / 2 ^ 60 == die && setOf (e.1 % 2 ^ 60) 32768 == setOf k 32768 && holds (dirAt s (e.1 % 2 ^ 60)) die != 0)

def inLlc (s : State) (die k : Nat) : Bool := (lookup s.llc (llcKey die k)).isSome && holds (dirAt s k) die != 0

/-- A die that no longer has a line in its last-level cache or a stash sends WbD or Evc (R170, R173). -/
def letGo (s : State) (die k : Nat) : State :=
  if inStash s die k || inLlc s die k || (lookup s.dir k).isNone then s else setDir s k (dirLeave (dirAt s k) die)

/-- The way a new line takes: a free one, else the lowest of the VF's (DESIGN CHOICE, log 38); none without a way. -/
def wayFor (s : State) (vf die k : Nat) : Option Nat :=
  let ws := vfWays s vf die
  (ws.find? (fun w => !(llcSet s die k).any (fun e => e.2 == w))).orElse (fun _ => ws.head?)

/-- A line takes a way; the line that held it is evicted. -/
def takeWay (s : State) (die k w : Nat) : State :=
  match (llcSet s die k).find? (fun e => e.2 == w) with
  | some e => let s1 := letGo { s with llc := eraseKey e.1 s.llc } die (e.1 % 2 ^ 60)
    { s1 with llc := insertKey (llcKey die k) w s1.llc }
  | none => { s with llc := insertKey (llcKey die k) w s.llc }

/-- Lines of the ways from lo on leave a die's last-level cache, written back (R355). -/
def dropWays (s : State) (die lo hi : Nat) : State :=
  (s.llc.filter (fun e => e.1 / 2 ^ 60 == die && decide (lo ≤ e.2) && decide (e.2 < hi))).foldl
    (fun t e => letGo { t with llc := eraseKey e.1 t.llc } die (e.1 % 2 ^ 60)) s

/-! ## Room in directory and snoop filter (R171) -/

/-- Entries of a set of a home's directory, in its 16 ways (an I/O die's ways are not stated; DESIGN CHOICE, log 38). -/
def dirSets (home : Nat) : Nat := if home < 4 then 262144 else 65536
def dirPeers (s : State) (k : Nat) : List (Nat × DirEnt) :=
  let h := keyHome k
  s.dir.filter (fun e => e.1 != k && keyHome e.1 == h && setOf e.1 (dirSets h) == setOf k (dirSets h)
    && (e.2.own.isSome || !e.2.sh.isEmpty || e.2.opn.isSome))

/-- A directory entry is freed once every holder has answered, as an access that follows finds it: no die keeps the line,
dirty data is in memory (R171). -/
def freeEntryOf (s : State) (k : Nat) : State :=
  let s1 := settleLine s k
  setDir ((List.range 4).foldl (fun t d => dieDrops t k d) s1) k DirEnt.none

/-- Make room for a line's entry in its home's directory. -/
def dirRoom (s : State) (k : Nat) : State :=
  if (lookup s.dir k).isSome then s
  else match dirPeers s k with
    | e :: es => if es.length < 15 then s else freeEntryOf s e.1
    | [] => s

/-- Make room in a die's snoop filter for a line that a core takes into its stash: past 16 lines of a set the first is
back-invalidated, dirty data into the last-level cache first (R171). -/
def filterRoom (s : State) (vf die k : Nat) : State :=
  let held := ((coresOf s die).flatMap (fun e => e.2.stash)).filter (fun l => setOf (lineKey s l.2.pa) 65536 == setOf k 65536)
  match held with
  | l :: _ =>
    if (held.map (fun l => lineKey s l.2.pa)).eraseDups.length < 16 ∨ inStash s die k then s
    else
      let v := lineKey s l.2.pa
      let s1 := dieDrops s v die
      letGo (if l.2.dirty then (match wayFor s1 vf die v with
        | some w => takeWay s1 die v w
        | none => s1) else s1) die v
  | [] => s

/-! ## Accesses of a die (R170, R175, R191, R192) -/

/-- The die holds the line: a copy to read, or a writable one, which a write makes M. -/
def takeLine (write : Bool) (die : Nat) (s0 : State) (k : Nat) : State :=
  let s := dirRoom s0 k
  setDir s k (if write then setHold die 1 (dirNet (dirAt s k) 1 die) else dirNet (dirAt s k) 0 die)

/-- An access that goes to the die's last-level cache (R191 case 3); with no way to allocate in it is performed at the
home (R500). -/
def touchLine (write : Bool) (vf die : Nat) (s : State) (pa : Nat) : State :=
  let k := lineKey s pa
  let s1 := settleLine s k
  if inStash s1 die k ∨ inLlc s1 die k then takeLine write die s1 k
  else match wayFor s1 vf die k with
    | some w => takeLine write die (takeWay s1 die k w) k
    | none => if write then uncacheLine s1 pa else s1

/-- An access to a line of the stash (R192). -/
def touchStash (write : Bool) (vf die : Nat) (s : State) (pa : Nat) : State :=
  let k := lineKey s pa
  takeLine write die (filterRoom (settleLine s k) vf die k) k

/-! ## Lines that leave a stash or are written back (R193) -/

/-- A die's dirty line is written to memory and stays: M becomes E, O becomes S (R170, R193). -/
def writtenBack (die : Nat) (e : DirEnt) : DirEnt :=
  if holds e die = 1 then setHold die 3 e
  else if holds e die = 2 then setHold die 4 { e with own := none, sh := die :: e.sh.filter (· != die) }
  else e

/-- A stash line of the focused core is written back to its home if it is dirty (R193). -/
def writeHome (s : State) (l : StashLine) : State :=
  if l.dirty then setDir s (lineKey s l.pa) (writtenBack (dieNo s) (dirAt s (lineKey s l.pa))) else s

/-- Dirty stash lines of the focused core are written back and stay clean. -/
def cleanLines (s : State) (p : Nat × StashLine → Bool) : State :=
  let due := s.core.stash.filter p
  due.foldl (fun t l => writeHome t l.2)
    { s with core := { s.core with stash := s.core.stash.map (fun l => (l.1, if p l then { l.2 with dirty := false, wrote := [] } else l.2)) } }

/-- Stash lines of the focused core are written back if they are dirty and become not present (R193). -/
def dropLines (s : State) (p : Nat × StashLine → Bool) : State :=
  let gone := s.core.stash.filter p
  gone.foldl (fun t l => letGo (writeHome t l.2) (dieNo t) (lineKey t l.2.pa))
    { s with core := { s.core with stash := s.core.stash.filter (fun l => !p l) } }

/-! ## Who wrote a dirty line (R183, R185) -/

/-- The core with no stash line counted as written: those that count as written later have been since. -/
def unwritten (k : Core) : Core := { k with stash := k.stash.map (fun l => (l.1, { l.2 with wrote := [] })) }
def written (l : Nat × StashLine) : Bool := !l.2.wrote.isEmpty

/-- The lines written from `unwritten s` on to t count as written by `rec` as well as by those that had written them in s; the others by
those alone. -/
def countWrites (rec : Option Nat) (s t : State) : State :=
  let was (l : Nat × StashLine) : List Nat := (((lookup s.core.stash l.1).filter (fun o => o.pa == l.2.pa)).map (·.wrote)).getD []
  { t with core := { t.core with stash := t.core.stash.map (fun l => (l.1, { l.2 with
      wrote := if ¬l.2.dirty then [] else if written l then (rec.toList ++ was l).eraseDups else was l })) } }

end Sys2Proof.Machine
end

