-- ==== Sys2Proof/Machine/Gate.lean ====
section
/-! DEFINITION. Labels of memory and the release gate's judgement (R459 to R472). -/
namespace Sys2Proof.Machine

/-- l names no party that m does not (R98). -/
def subset (l m : Label) : Bool := l &&& ~~~m == 0

/-- LabelTable[LIX] of a partition (R460); entry 0 is always 0. -/
def labelEntry (s : State) (part lix : Nat) : Label :=
  if lix = 0 then 0 else (lookup (partAt s part).labels lix).getD 0

/-- The page label of an access (R462); every party through the physical window (R147). -/
def pageLabel (s : State) (part : Nat) (x : Xlat) : Label :=
  if x.phys then 0xFFFFFFFF else labelEntry s part x.lix ||| frameLabel s x.pa

/-- Where data leaves to (R469). -/
inductive EDest where
  | host (addr : Nat)
  | peer (xyz part : Nat)
  | ext (pa : Nat)
  | reader (die : Nat)
  deriving DecidableEq, Repr

/-- Does a destination descriptor match (R470)? -/
def destMatches (d : Dest) : EDest → Bool
  | .host a => d.kind == 1 && decide (d.base ≤ a) && decide (a < d.base + 65536 * d.len)
  | .peer xyz p => d.kind == 2 && d.base % 4096 == xyz && bits d.base 19 16 == p
  | .ext pa => d.kind == 3 && decide (d.base ≤ pa) && decide (pa < d.base + 65536 * d.len)
  | .reader die => d.kind == 4 && d.base % 2 == (if die = 4 then 0 else 1)

def partyAt (s : State) (part i : Nat) : Option Party := lookup (partAt s part).parties i

/-- The party numbers a label names. -/
def partiesOf (l : Label) : List Nat := (List.range 32).filter (fun i => l.getLsbD i)

/-- Gate (R471): the label the data leaves with, or none when refused. -/
def gate (s : State) (part : Nat) (l : Label) (d : EDest) : Option Label :=
  if l = 0 then some 0
  else
    let ps := partiesOf l
    if ps.all (fun i => match partyAt s part i with
        | some p => p.dst.any (fun e => e.lp && destMatches e d)
        | none => false) then some l
    else match ps with
      | [i] => match partyAt s part i with
        | some p => if p.dst.any (fun e => destMatches e d) then some 0 else none
        | none => none
      | _ => none

/-- The gate's reason for a refusal (R472): 1 for a single party, 0 for several. -/
def gateReason (l : Label) : Nat := if (partiesOf l).length = 1 then 1 else 0

/-- Count a refusal (R472): GT_REF saturates and takes the label of the refused data (R481). -/
def countRefusal (s : State) (part : Nat) (l : Label) : State :=
  let p := partAt s part
  setPart s part { p with refs := ⟨if p.refs.v = 0xFFFFFFFF then p.refs.v else p.refs.v + 1, p.refs.l ||| l⟩ }

/-- The neighbour window of a physical address of region 0x02 (R148, R167). -/
def winAt (s : State) (pa : Nat) : Option NWin := s.nwins.toList[pa / 0x100000000000 % 16]?

/-- The pod-global address that an offset of a neighbour window reaches (R167). -/
def podAddr (w : NWin) (pa : Nat) : Nat :=
  (w.x.toNat <<< 64) + (w.y.toNat <<< 60) + (w.z.toNat <<< 56) + (w.rbase + pa % 2 ^ 44) % 2 ^ 56

/-- The address at the destination of an access that leaves the package (R148, R167, R472): a host address, a pod-global
address, else the physical address. -/
def destAddr (s : State) (x : Xlat) : Nat :=
  if region x.pa = 4 then x.pa % 2 ^ 47
  else if region x.pa = 2 then match winAt s x.pa with
    | some w => podAddr w x.pa
    | none => x.pa
  else x.pa

/-- The egress destination of a write through a translation, if it leaves the package or the tenant (R469). -/
def egressOf (s : State) (x : Xlat) : Option EDest :=
  if region x.pa = 4 then some (.host (x.pa % 2 ^ 47))
  else if region x.pa = 2 then
    match winAt s x.pa with
    | some w => some (.peer (w.x.toNat * 256 + w.y.toNat * 16 + w.z.toNat) w.rpart.toNat)
    | none => none
  else if x.ext then some (.ext x.pa)
  else none

/-- Is the rise that a write causes appended to the absorb log (R463 step 4)? A frame of the Jetty range has no label. -/
def absorbs (s : State) (part : Nat) (x : Xlat) (l : Label) : Bool :=
  let fl := frameLabel s x.pa
  let pa := forward s x.pa
  (frameIdx pa).isSome && !inJetty s pa && fl ||| l != fl && x.ab && !subset l (labelEntry s part x.lix ||| fl)

/-- The poisoned line that the rise of a frame's label meets in the absorb log (R464, R503). -/
def risePoison (s : State) (part : Nat) (x : Xlat) (l : Label) : Option Nat :=
  if s.poison.isEmpty then none else if absorbs s part x l then logPoison s (partAt s part).alog 16 else none

/-- The rise of a frame's label before a write (R463 steps 2 to 4), with the absorb log (R464). -/
def rise (s : State) (part vf : Nat) (x : Xlat) (l : Label) : State :=
  let fl := frameLabel s x.pa
  let pa := forward s x.pa
  let s1 := raiseFrame s x.pa l
  if absorbs s part x l then
    logAppend s1 (partAt s part).alog 16
      ((pa / 65536 * 65536 + vf) ||| ((fl ||| l).toNat <<< 64) ||| (((fl ||| l) ^^^ fl).toNat <<< 96))
  else s1

end Sys2Proof.Machine
end

