-- ==== Sys2Proof/Machine/Device.lean ====
section
/-! DEFINITION. The device registers of region 0x03 (R519 to R526, R532): reads, writes and MSI-X. -/
namespace Sys2Proof.Machine

/-- The package timer (R520): nanoseconds since cold reset. -/
def nowNs (s : State) : Nat := s.time / 7

def cellsRd (m : List Host.Cell) (o : Nat) : Nat := getN m o 8

def mediaAt (s : State) (k : Nat) : MediaCtx := (lookup s.dev.media k).getD ⟨false, 0, 0, 0, 0, [], none, [], 0, 0, []⟩
def setMedia (s : State) (k : Nat) (m : MediaCtx) : State := { s with dev := { s.dev with media := insertKey k m s.dev.media } }
def qlAt (s : State) (p : Nat) : QlPort := s.dev.ql.getD p ⟨0, 0, false, 0, false, 0⟩
def setQl (s : State) (p : Nat) (q : QlPort) : State := { s with dev := { s.dev with ql := s.dev.ql.set p q } }

/-- Pulses swallowed per 256 on a die: the firmware floor, raised by the two hardware limits (R522, R532). -/
def thr (s : State) (die : Nat) : Nat :=
  min 255 (max (s.dev.floor.getD die 0) (max (if s.dev.hot.contains die then 128 else 0) s.dev.power))

/-- One open value (log 6). -/
def draw (s : State) : State × Nat := ({ s with fresh := s.fresh + 1 }, (Config.freeValue s.fresh).toNat)

/-- The doubleword at a device offset, or none for an unassigned one (R519). -/
def devRead (s : State) (off : Nat) : Option (State × Nat) :=
  let d := s.dev
  let o := off % 2 ^ 32
  let ok (v : Nat) : Option (State × Nat) := some (s, v)
  match off / 2 ^ 32 with
  | 0 =>
    if o = 0 then ok (nowNs s % 2 ^ 64)
    else if 0x1000 ≤ o ∧ o < 0x1300 ∧ o % 8 = 0 then ok ((lookup d.mtimecmp ((o - 0x1000) / 8)).getD 0) else none
  | 1 =>
    if o = 0 then ok (d.mbOp + (d.mbLen <<< 32))
    else if o = 8 then ok (b2n d.mbBusy <<< 1)
    else if o = 0x10 then ok (d.mbRes + (d.mbRlen <<< 32))
    else if 0x1000 ≤ o ∧ o < 0x2000 then ok (cellsRd d.mbReq (o - 0x1000))
    else if 0x2000 ≤ o ∧ o < 0x3000 then ok (cellsRd d.mbResp (o - 0x2000)) else none
  | 2 =>
    if o = 0 then ok s.mcHead.toNat else if o = 8 then ok s.mcTail.toNat else if o = 0x10 then ok s.mcLost.toNat
    else if o = 0x18 then ok 1024
    else if 0x10000 ≤ o ∧ o < 0x20000 then
      ok ((((lookup s.mcLog ((o - 0x10000) / 64)).getD 0).toNat >>> (64 * (o % 64 / 8))) % 2 ^ 64)
    else none
  | 3 =>
    if o = 0 then ok d.mw.toNat
    else if o = 8 then ok d.tj.toNat
    else if 0x10 ≤ o ∧ o < 0x30 ∧ o % 8 = 0 then ok (thr s ((o - 0x10) / 8))
    else if 0x100 ≤ o ∧ o < 0x900 ∧ o % 8 = 0 then ok ((lookup d.swal ((o - 0x100) / 8)).getD (0, 0)).1 else none
  | 4 =>
    if o = 0 then ok d.lc.toNat else if o = 8 then ok d.bootSt.toNat else if o = 0x10 then ok d.roll.toNat
    else if o = 0x18 then ok d.pod.toNat else none
  | 5 =>
    let m := mediaAt s (o / 0x1000)
    if 256 ≤ o / 0x1000 then none
    else match o % 0x1000 with
      | 0 => ok (m.vf + (m.part <<< 9) + (b2n m.v <<< 16))
      | 0x8 => ok (m.desc.toNat % 2 ^ 64)
      | 0x10 => ok (m.desc.toNat / 2 ^ 64)
      | 0x18 => ok (b2n m.cmd.isSome + (m.last.toNat <<< 8))
      | _ => none
  | 6 =>
    let q := qlAt s (o / 0x100)
    if 24 ≤ o / 0x100 then none
    else match o % 0x100 with
      | 0 => ok (q.st.toNat + (q.lanes.toNat <<< 8))
      | 0x8 => ok (b2n q.down)
      | 0x10 => ok q.retry.toNat
      | 0x18 => ok (b2n q.en)
      | _ => none
  | 7 => if o = 0 ∨ o = 0x10000 then ok 0
    else if o = 8 ∨ o = 0x10008 then ok ((lookup d.msiDrop (o / 0x10000)).getD 0) else none
  | _ => none

/-! ## Flits (R167, R526 to R528) -/

/-- The torus direction in which a flit leaves package `here` for package `dst` (xyz each), if it does. -/
def nextDir (here dst : Nat) : Option Nat :=
  (List.range 3).findSome? (fun k =>
    let d := (dst / 16 ^ (2 - k) % 16 + 16 - here / 16 ^ (2 - k) % 16) % 16
    if d = 0 then none else some (2 * k + b2n (decide (8 < d))))

/-- The port by which a flit for an endpoint leaves this package; none when it stays in it. -/
def portFor (s : State) (dst : Nat) : Option Nat := (nextDir s.dev.pod.toNat (dst / 256)).map (fun d => 4 * d + dst % 4)
def portIsUp (s : State) (p : Nat) : Bool := (qlAt s p).st == 2

/-- A flit goes out on port p with the port's sequence number; how often the link resends it is open (log 6). -/
def putFlit (s : State) (p : Nat) (f : Flit) : State :=
  let (s1, r) := draw s
  let q := qlAt s1 p
  let s2 := setQl s1 p { q with seq := q.seq + 1, retry := BitVec.ofNat 32 (min 0xFFFFFFFF (q.retry.toNat + r % 2 ^ 32)) }
  { s2 with dev := { s2.dev with flits := s2.dev.flits ++ [{ f with port := p, seq := q.seq }] } }

/-- Send a flit from this package: none when its port is not up. -/
def sendFlit (s : State) (f : Flit) : Option State :=
  match portFor s f.dst.toNat with
  | none => some s
  | some p => if portIsUp s p then some (putFlit s p f) else none

/-- The endpoint that a flit for a window's address names: the package, and as low bits, which R527 leaves open, the number of
the line (log 20). -/
def windowDst (w : NWin) (pa : Nat) : Nat := 256 * (w.x.toNat * 256 + w.y.toNat * 16 + w.z.toNat) + pa / 128 % 256

/-- The port that an access to a physical address needs; none when it needs no port. -/
def windowPort (s : State) (pa : Nat) : Option Nat :=
  if region pa = 2 then (winAt s pa).bind (fun w => portFor s (windowDst w pa)) else none
def windowDown (s : State) (pa : Nat) : Bool := (windowPort s pa).any (fun p => !portIsUp s p)

/-- A request goes out through a neighbour window in the name of a VF and its partition (R167, R527): bytes to write, or none to
read; none when the port is not up. -/
def windowFlit (s : State) (vf part pa : Nat) (data : List Byte) (l : Label) : Option State :=
  match (if region pa = 2 then winAt s pa else none) with
  | none => some s
  | some w => sendFlit s ⟨0, BitVec.ofNat 20 (windowDst w pa), BitVec.ofNat 20 (256 * s.dev.pod.toNat + s.coreNo),
      BitVec.ofNat 15 (vf + (part <<< 11)), BitVec.ofNat 56 (w.rbase + pa % 2 ^ 44), data, l, 0⟩

/-! ## Telemetry (R532) -/

/-- Module power is kept at or below 2,800 W over a millisecond (R532). -/
def powerLimit : Nat := 2800000

/-- TJ is above 105 °C exactly while some die is (R532). -/
def tjOf (d : Dev) (v : BitVec 16) : BitVec 16 := if d.hot.isEmpty then (if v.toNat ≤ 1680 then v else 1680) else (if v.toNat ≤ 1680 then 1681 else v)

/-- Telemetry from s to t: MW and TJ take a new sample with each millisecond of package time (log 34). Hardware swallows pulses
while the demand exceeds the limit, a free number of at least one (R532). -/
def measure (s t : State) : State :=
  let n := nowNs t / 1000000
  if nowNs s / 1000000 = n then t
  else { t with dev := { t.dev with
      mw := BitVec.ofNat 32 (min powerLimit (Config.power n).toNat),
      power := if powerLimit < (Config.power n).toNat then 1 + (Config.powerSwallow n).val else 0, tj := tjOf t.dev (Config.junction n) } }

/-! ## Writes -/

/-- A raise is dropped and counted (R518, R524). -/
def msiDropped (s : State) (port : Nat) : State :=
  let n := (lookup s.dev.msiDrop port).getD 0
  { s with dev := { s.dev with msiDrop := insertKey port (if n = 0xFFFFFFFF then n else n + 1) s.dev.msiDrop } }

/-- Raise a vector, or set its pending bit when it is masked (R524). -/
def msiSet (s : State) (port n : Nat) : State :=
  if s.dev.msiOpen.contains (port, n) then { s with dev := { s.dev with msiRaised := s.dev.msiRaised ++ [(port, n)] } }
  else if s.dev.msiPend.contains (port, n) then s
  else { s with dev := { s.dev with msiPend := (port, n) :: s.dev.msiPend } }

/-- The VF of a port that owns a vector (R499, R518). -/
def msiOwner (s : State) (port n : Nat) : Option Nat :=
  (s.vfs.find? (fun e => e.2.part.isSome && e.1 / 192 == port && decide (e.2.msif ≤ n) && decide (n < e.2.msif + e.2.msin))).map (·.1)

/-- A write of MSI_RAISE by a record of privilege prv in partition part (R518, R524). -/
def msiRaiseReg (s : State) (port v : Nat) (l : Label) (prv part : Nat) : State :=
  let n := v % 8192
  let vf := msiOwner s port n
  if 16 ≤ n ∧ vf = none then msiDropped s port
  else if prv == 1 && (decide (n < 16) || (match vf with | some k => (vfAt s k).part != some part | none => true)) then
    msiDropped s port
  else match gate s part l (.reader (4 + port)) with
    | none => msiDropped (countRefusal s part l) port
    | some _ => msiSet s port n

/-- A write of a stream-context register that takes effect now (R525). A change of VF resets the stream as a reset command
does: references and held frames go, and the engine zeroes LBL and CORRUPT in the descriptor of the stream there was. -/
def mediaReg (s : State) (k r v : Nat) : State :=
  let m := mediaAt s k
  match r with
  | 0 =>
    let vf := v % 512
    let part := bits v 12 9
    let good := decide (vf < 384) && (vfAt s vf).part == some part
    let m1 := { m with v := bit v 16 && good, part := part, vf := vf }
    setMedia s k (if vf = m.vf then m1
      else { m1 with held := [], refs := 0, clear := m.clear ++ [(m.vf, m.part, m.desc)] })
  | 8 => setMedia s k { m with desc := BitVec.ofNat 72 (m.desc.toNat / 2 ^ 64 * 2 ^ 64 + v % 2 ^ 64) }
  | 0x10 => setMedia s k { m with desc := BitVec.ofNat 72 (m.desc.toNat % 2 ^ 64 + (v % 256) * 2 ^ 64) }
  | _ => s

/-- A write of a stream-context register, deferred while a command is in progress (R525). -/
def mediaWrite (s : State) (k r v : Nat) : State :=
  let m := mediaAt s k
  if m.cmd.isSome ∧ r ≠ 0x18 then setMedia s k { m with late := m.late ++ [(r, v)] } else mediaReg s k r v

/-- The command of a context is no longer in progress: deferred writes take effect (R525). -/
def mediaStop (s : State) (k : Nat) : State :=
  let m := mediaAt s k
  m.late.foldl (fun t w => mediaReg t k w.1 w.2) (setMedia s k { m with cmd := none, late := [] })

/-- A write of QL_CTL (R526). -/
def qlCtl (s : State) (p v : Nat) : State :=
  let q := qlAt s p
  if ¬bit v 0 then
    let s1 := setQl s p { q with en := false, st := 3, lanes := 0, down := q.down || q.st == 2 }
    if q.st = 2 then { s1 with dev := { s1.dev with cut := p :: s1.dev.cut } } else s1
  else
    let q1 := { q with en := true, st := if q.st = 3 then 0 else q.st }
    setQl s p (if bit v 1 then { q1 with st := 1, lanes := 0 } else q1)

/-- A write of MC_HEAD, ignored when HEAD would move backwards or past TAIL (R521). -/
def mcHeadWrite (s : State) (v : Nat) : State :=
  let n : BitVec 32 := BitVec.ofNat 32 v
  if (n - s.mcHead).toNat ≤ (s.mcTail - s.mcHead).toNat then { s with mcHead := n } else s

/-- A write into the mailbox (R522): ignored while BUSY; GO starts a request, by port or by an F record. -/
def mbWrite (s : State) (o v : Nat) (by_ : Option Nat) : Option State :=
  let d := s.dev
  if o = 0 then some (if d.mbBusy then s else { s with dev := { d with mbOp := v % 65536, mbLen := bits v 47 32 } })
  else if o = 8 then some (if d.mbBusy ∨ ¬bit v 0 then s else { s with dev := { d with mbBusy := true, mbBy := by_ } })
  else if 0x1000 ≤ o ∧ o < 0x2000 then
    some (if d.mbBusy then s else { s with dev := { d with mbReq := putN d.mbReq (o - 0x1000) 8 v } })
  else if 0x2000 ≤ o ∧ o < 0x3000 then some { s with dev := { d with mbResp := putN d.mbResp (o - 0x2000) 8 v } }
  else if o = 0x10 then some s else none

/-- A doubleword write to a device offset with a label (R519), by privilege prv and partition part; `port` when it
comes through a host port. A write of a read-only register does nothing (R8). -/
def devWriteBy (s : State) (off v : Nat) (l : Label) (prv part : Nat) (port : Option Nat) : Option State :=
  let o := off % 2 ^ 32
  match off / 2 ^ 32 with
  | 0 =>
    if o = 0 then some s
    else if 0x1000 ≤ o ∧ o < 0x1300 ∧ o % 8 = 0 then
      some { s with dev := { s.dev with mtimecmp := insertKey ((o - 0x1000) / 8) (v % 2 ^ 64) s.dev.mtimecmp } }
    else none
  | 1 => mbWrite s o v port
  | 2 =>
    if o = 0 then some (mcHeadWrite s v)
    else if o = 8 ∨ o = 0x10 ∨ o = 0x18 ∨ (0x10000 ≤ o ∧ o < 0x20000) then some s else none
  | 3 => if (o = 0 ∨ o = 8 ∨ (0x10 ≤ o ∧ o < 0x30) ∨ (0x100 ≤ o ∧ o < 0x900)) ∧ o % 8 = 0 then some s else none
  | 4 => if o = 0 ∨ o = 8 ∨ o = 0x10 ∨ o = 0x18 then some s else none
  | 5 =>
    if o / 0x1000 < 256 ∧ (o % 0x1000 = 0 ∨ o % 0x1000 = 8 ∨ o % 0x1000 = 0x10 ∨ o % 0x1000 = 0x18) then
      some (mediaWrite s (o / 0x1000) (o % 0x1000) v)
    else none
  | 6 =>
    let p := o / 0x100
    if 24 ≤ p then none
    else match o % 0x100 with
      | 0 => some s
      | 0x8 => some (if bit v 0 then setQl s p { qlAt s p with down := false } else s)
      | 0x10 => some s
      | 0x18 => some (qlCtl s p v)
      | _ => none
  | 7 =>
    if o = 0 ∨ o = 0x10000 then some (msiRaiseReg s (o / 0x10000) v l prv part)
    else if o = 8 ∨ o = 0x10008 then some s else none
  | _ => none

def devWrite (s : State) (off v : Nat) (l : Label) (prv part : Nat) : Option State := devWriteBy s off v l prv part none

end Sys2Proof.Machine
end

