-- ==== Sys2Proof/Machine/Access.lean ====
section
/-! DEFINITION. One access of an agent to the bytes of one line: translation, the label check, routing to the stash,
memory or a target (R98, R147 to R168, R189 to R193, R463, R465). -/
namespace Sys2Proof.Machine

/-- On whose behalf an access is made: VF, partition, privilege, and whether it is a tile core's own access, which
may go to a stash window (R191), or an agent that is not (tile false). -/
structure Who where
  vf : Nat
  part : Nat
  prv : Nat
  tile : Bool
  deriving DecidableEq, Repr

/-- Why an access fails. -/
inductive AErr where
  | mis
  | xlat (e : XFail)
  | label (miss : Label)
  | stash (reason : Nat)
  | gate (reason : Nat) (l : Label) (dst : Nat)
  | poison (pa : Nat)
  /-- The write meets a contribution of the writing core that has not been pulled (R336). -/
  | held
  /-- The Quaylink port the write needs is not up (R440, R533). -/
  | link
  deriving DecidableEq, Repr

/-- Count a gate refusal met outside a group (R472), and a write that counts its own: the state after it, or the state
before it with the refusal counted. -/
def countGate (s : State) (part : Nat) (e : AErr) : State :=
  match e with
  | .gate _ l _ => countRefusal s part l
  | _ => s

def orCount (s : State) (part : Nat) (r : Except AErr State) : State :=
  match r with
  | .ok t => t
  | .error e => countGate s part e

/-- The window holding a virtual range, as a stash offset and entry number (R190, R191). -/
def findWindow (maps : List (Option MapEnt)) (va n i : Nat) : Option (Nat × Nat) :=
  match maps with
  | [] => none
  | none :: t => findWindow t va n (i + 1)
  | some e :: t =>
    if ¬e.closing ∧ e.vbase.toNat ≤ va ∧ va + n ≤ e.vbase.toNat + e.len then some (e.so + (va - e.vbase.toNat), i)
    else findWindow t va n (i + 1)

/-- Does the range touch a window without lying in it (R191, reason 4)? -/
def straddles (maps : List (Option MapEnt)) (va n : Nat) : Bool :=
  maps.any (fun o => match o with
    | some e => !e.closing && meets va n e.vbase.toNat e.len
        && !(decide (e.vbase.toNat ≤ va) && decide (va + n ≤ e.vbase.toNat + e.len))
    | none => false)

/-- The map entries whose V bit is set (R190). -/
def validMaps (c : Core) : List MapEnt := (c.maps.toList.filterMap id).filter (·.v)

def stashAt (s : State) (off : Nat) : Option StashLine := lookup s.core.stash (off / 128)

/-- n bytes of open value (log 6). -/
def freeBytes (s : State) (n : Nat) : State × Nat :=
  ({ s with fresh := s.fresh + 1 + n / 8 }, pack 64 (fun i => (Config.freeValue (s.fresh + i)).toNat) (n / 8 + 1) % 2 ^ (8 * n))

/-- Where an access goes (R191): to a stash line of a window, to one of the cache portion, or past the stash. -/
inductive Place where
  | window (i : Nat)
  | cache (i : Nat)
  | beyond
  deriving DecidableEq, Repr

/-- The line of the cache portion that stands for a line of memory (R189). Which one is a matter of replacement, which
affects speed only (R194); the model's portion is direct-mapped (DESIGN CHOICE, log 24). -/
def cacheSlot (c : Core) (pa : Nat) : Nat := let n := 512 * c.csz.toNat
  16384 - n + pa / 128 % n

def placeOf (s : State) (w : Who) (va n : Nat) (x : Xlat) : Place :=
  if ¬w.tile then .beyond
  else match findWindow s.core.maps.toList va n 0 with
    | some (off, _) => .window (off / 128)
    | none => if x.cacheable ∧ s.core.csz ≠ 0 then .cache (cacheSlot s.core x.pa) else .beyond

/-- A line of the cache portion that holds another line of memory leaves it (R194), into the die's last-level cache where that holds
the line. -/
def makeRoom (s : State) (i pa : Nat) : State :=
  match lookup s.core.stash i with
  | some l =>
    if l.pa = pa / 128 * 128 then s
    else if inLlc s (dieNo s) (lineKey s l.pa) then { s with core := { s.core with stash := eraseKey i s.core.stash } }
    else dropLines s (fun e => e.1 == i)
  | none => s

/-- Read n bytes at pa through stash line i, filled first when it is not present (R192): the line's label joins the page's
(R98). -/
def stashRead (s : State) (w : Who) (i pa n : Nat) (pl : Label) (write : Bool) : Except AErr (State × Nat × Label) :=
  match lookup s.core.stash i with
  | some l =>
    let a := l.pa + pa % 128
    if isPoisoned s a n then .error (.poison a)
    else .ok (touchStash write w.vf (dieNo s) s a, readPa s a n, pl ||| l.lab)
  | none =>
    if isPoisoned s pa n then .error (.poison pa)
    else
      let s1 := touchStash write w.vf (dieNo s) s pa
      .ok ({ s1 with core := { s1.core with stash := insertKey i ⟨write, pl, 0, pa / 128 * 128, []⟩ s1.core.stash } }, readPa s pa n, pl)

/-- Read n bytes of one line through a translation: the value and its memory label (R98). A read through a neighbour window
brings the label its flits carry (R469), or is refused by the remote package (R167): free values; one that an atomic's write
follows leaves the flit to it. -/
def readAt (s : State) (w : Who) (va n : Nat) (x : Xlat) (write : Bool) : Except AErr (State × Nat × Label) :=
  let pl := pageLabel s w.part x
  match placeOf s w va n x with
  | .window i => if x.uc ∨ ¬isMem x.pa then .error (.stash 5) else stashRead s w i x.pa n pl write
  | .cache i => stashRead (makeRoom s i x.pa) w i x.pa n pl write
  | .beyond =>
    if isMem x.pa then
      if isPoisoned s x.pa n then .error (.poison x.pa)
      else .ok (if x.cacheable ∧ w.tile then touchLine write w.vf (dieNo s) s x.pa else s, readPa s x.pa n, pl)
    else if region x.pa = 3 then
      match devRead s (x.pa % 0x1000000000000) with
      | some (s1, v) => .ok (s1, v, pl)
      | none => .error (.xlat (permFault x.lvl 11))
    else if region x.pa = 2 ∧ Config.remoteRefuses s.time (destAddr s x) then .error (.xlat (permFault x.lvl 12))
    else
      let (s1, v) := freeBytes (if write then s else (windowFlit s w.vf w.part x.pa [] 0).getD s) n
      if region x.pa = 2 then let (s2, l) := draw s1
        .ok (s2, v, pl ||| BitVec.ofNat 32 l)
      else .ok (s1, v, pl)

/-- Does a write meet one of the byte ranges of a list, an address and a length each? -/
def meetsAny (pa n : Nat) : List Word → Bool
  | a :: k :: l => meets pa n a.toNat k.toNat || meetsAny pa n l
  | _ => false

/-- Does a write by the focused core meet a contribution it has posted and that has not completed (R336)? -/
def meetsPost (s : State) (pa n : Nat) : Bool :=
  s.core.cmds.any (fun c => (c.kind == .post || c.kind == .reshard) && meetsAny pa n c.geo)

/-- The physical address a write of n bytes at va goes to: through the stash window that holds them, the line the window's
stash line stands for (R190, R191), else the address the translation gives. -/
def writePlace (s : State) (w : Who) (va n : Nat) (x : Xlat) : Nat :=
  match placeOf s w va n x with
  | .window i => ((lookup s.core.stash i).map (·.pa)).getD (x.pa / 128 * 128) + x.pa % 128
  | _ => x.pa

/-- The record of the continuation that runs on the focused core, 0 without one. -/
def writer (s : State) : Nat := (s.core.run.map (·.pa)).getD 0

/-- Write n bytes through stash line i, which takes the label (R465). -/
def stashWrite (s : State) (w : Who) (i pa n v : Nat) (l pl : Label) (prov : BitVec 2) (x : Xlat) : Except AErr State :=
  if meetsPost s pa n then .error .held
  else match risePoison s w.part { x with pa := pa } l with
  | some line => .error (.poison line)
  | none =>
    let old := (lookup s.core.stash i).getD ⟨true, pl, 0, pa / 128 * 128, []⟩
    let s1 := rise s w.part w.vf { x with pa := pa } l
    let s2 := writePa (snoop (touchStash true w.vf (dieNo s1) s1 pa) pa n (some i)) pa n v
    .ok { s2 with core := { s2.core with stash := insertKey i ⟨true, old.lab ||| l, prov, old.pa, (writer s :: old.wrote).eraseDups⟩ s2.core.stash } }

/-- n bytes leave the package with a label: they join `egress`, as the region, with 16 added for the write of an atomic, which
its home performs (R168), the address at the target, value, size and label; through a window they go out as a flit, none when
its port is not up (R527). -/
def leavesTo (s : State) (vf part : Nat) (x : Xlat) (n v : Nat) (l : Label) (atomic : Bool := false) : Option State :=
  (windowFlit s vf part x.pa (leBytes n v) l).map (fun t =>
    { t with egress := t.egress ++ [(region x.pa + (if atomic then 16 else 0),
      if region x.pa = 2 then destAddr s x else x.pa % 0x1000000000000, v, n, l)] })

/-- What a write meets before its label is judged, in R35's order: a poisoned line, an unassigned place of the device region (R519), a
remote package's refusal (R167). -/
def writeBar (s : State) (w : Who) (va n v : Nat) (l : Label) (x : Xlat) : Option AErr :=
  let hurt (pa : Nat) : Option AErr := if isPoisoned s pa n then some (.poison pa) else none
  match placeOf s w va n x with
  | .window _ => if x.uc ∨ ¬isMem x.pa then none else hurt (writePlace s w va n x)
  | .cache _ => hurt x.pa
  | .beyond =>
    if isMem x.pa then hurt x.pa
    else if region x.pa = 3 then
      if (devWrite s (x.pa % 0x1000000000000) v l w.prv w.part).isNone then some (.xlat (permFault x.lvl 11)) else none
    else if region x.pa = 2 ∧ Config.remoteRefuses s.time (destAddr s x) then some (.xlat (permFault x.lvl 12))
    else none

/-- Write n bytes of one line through a translation with label l and provenance prov (R98, R463, R465); of the causes that apply the
first in R35's order. -/
def writeAt (s : State) (w : Who) (va n v : Nat) (l : Label) (prov : BitVec 2) (x : Xlat) (atomic : Bool := false) : Except AErr State :=
  let pl := pageLabel s w.part x
  match writeBar s w va n v l x with
  | some e => .error e
  | none =>
  if ¬x.phys ∧ ¬x.ab ∧ ¬subset l pl then .error (.label (l &&& ~~~pl))
  else
    match (match egressOf s x with
      | some d => (match gate s w.part l d with
        | some l' => Except.ok l'
        | none => .error (AErr.gate (gateReason l) l (destAddr s x)))
      | none => .ok l) with
    | .error e => .error e
    | .ok out =>
      match placeOf s w va n x with
      | .window i => if x.uc ∨ ¬isMem x.pa then .error (.stash 5) else stashWrite s w i (writePlace s w va n x) n v l pl prov x
      | .cache i => stashWrite (makeRoom s i x.pa) w i x.pa n v l pl prov x
      | .beyond =>
        if isMem x.pa then
          if w.tile ∧ meetsPost s x.pa n then .error .held
          else match risePoison s w.part x l with
          | some line => .error (.poison line)
          | none =>
            let s1 := rise s w.part w.vf x l
            let s2 := if x.cacheable ∧ w.tile then touchLine true w.vf (dieNo s1) s1 x.pa else uncacheLine s1 x.pa
            .ok (writePa (snoop s2 x.pa n none) x.pa n v)
        else if region x.pa = 3 then
          match devWrite s (x.pa % 0x1000000000000) v l w.prv w.part with
          | some s' => .ok s'
          | none => .error (.xlat (permFault x.lvl 11))
        else match leavesTo s w.vf w.part x n v out atomic with
          | some t => .ok t
          | none => .error .link

/-- The virtual address a stash line stands for, if an open window covers it. -/
def lineVa (c : Core) (line : Nat) : Option Nat :=
  c.maps.toList.findSome? (fun o => match o with
    | some e => if e.closing = false ∧ e.so ≤ 128 * line ∧ 128 * line < e.so + e.len then some (e.vbase.toNat + (128 * line - e.so)) else none
    | none => none)

/-- Does a virtual range cover a stash line (R193, R212): through its window, or, in the cache portion, as the line that a
page of the range translates to with kind read; a page with no such translation covers none (R212 names neither the kind nor what a
failure does; DESIGN CHOICE, log 24). -/
def lineIn (s : State) (w : Who) (lo len : Nat) (e : Nat × StashLine) : Bool :=
  if 16384 - 512 * s.core.csz.toNat ≤ e.1 then
    (List.range (len / 65536 + 2)).any (fun j => let va := lo / 65536 * 65536 + 65536 * j
      match translate s (va % 2 ^ 72) w.vf w.part w.prv 1 .read with
      | .ok (x, _) => x.pa / 65536 == e.2.pa / 65536 && decide (lo < va + e.2.pa % 65536 + 128) && decide (va + e.2.pa % 65536 < lo + len)
      | .error _ => false)
  else match lineVa s.core e.1 with
    | some va => decide (lo < va + 128) && decide (va < lo + len)
    | none => false

/-- The provenance of the stash line that an access at va goes to, if one is present (R191, R465). -/
def provAt (s : State) (w : Who) (va : Nat) : Option (BitVec 2) :=
  match translate s va w.vf w.part w.prv 1 .read with
  | .error _ => none
  | .ok (x, _) => match placeOf s w va 1 x with
    | .window i => (lookup s.core.stash i).map (·.prov)
    | .cache i => ((lookup s.core.stash i).filter (fun l => l.pa == x.pa / 128 * 128)).map (·.prov)
    | .beyond => none

/-- Read n bytes lying in one line at a virtual address. -/
def readVa (s : State) (w : Who) (va n : Nat) (kind : Kind) : Except AErr (State × Nat × Label) :=
  match translateMark s va w.vf w.part w.prv n kind with
  | .error e => .error (.xlat e)
  | .ok (s1, x) => readAt s1 w va n x (kind == .rmw)

/-- Read the doubleword of an object: none of the accesses that the device region takes, which its size says (R519). -/
def readObj (s : State) (w : Who) (va : Nat) : Except AErr (State × Nat × Label) :=
  match translateMark s va w.vf w.part w.prv 16 .read with
  | .error e => .error (.xlat e)
  | .ok (s1, x) => readAt s1 w va 8 x false

/-- Write n bytes lying in one line at a virtual address. -/
def writeVa (s : State) (w : Who) (va n v : Nat) (l : Label) (prov : BitVec 2) (atomic : Bool := false) : Except AErr State :=
  match translateMark s va w.vf w.part w.prv n .write with
  | .error e => .error (.xlat e)
  | .ok (s1, x) => writeAt s1 w va n v l prov x atomic

/-- What the walks of an access set (R153), up to the first part that has no translation. -/
def markGo (w : Who) (kind : Kind) : List (Nat × Nat) → State → State
  | [], s => s
  | p :: l, s => match translateMark s p.1 w.vf w.part w.prv p.2 kind with
    | .ok (t, _) => markGo w kind l t
    | .error _ => s

/-- A write of n bytes at va that counts its own refusal, and leaves what its walk set when it fails (R153, R472). -/
def orMark (s : State) (w : Who) (va n : Nat) (r : Except AErr State) : State :=
  match r with
  | .ok t => t
  | .error e => countGate (match translateMark s va w.vf w.part w.prv n .write with
    | .ok (t, _) => t
    | .error _ => s) w.part e

/-- Read n bytes that may cross lines, chunk by chunk; a failure names the chunk's address. -/
def readSpan (s : State) (w : Who) (kind : Kind) : Nat → Nat → Nat → Except (AErr × Nat) (State × Nat × Label)
  | 0, _, _ => .ok (s, 0, 0)
  | k + 1, va, n =>
    let c := min n (128 - va % 128)
    match readVa s w va c kind with
    | .error e => .error (e, va)
    | .ok (s1, v, l) =>
      match readSpan s1 w kind k ((va + c) % 2 ^ 72) (n - c) with
      | .error e => .error e
      | .ok (s2, v2, l2) => .ok (s2, v + (v2 <<< (8 * c)), l ||| l2)

/-- How many lines n bytes at va lie in. -/
def lineCount (va n : Nat) : Nat := if n = 0 then 0 else (va % 128 + n + 127) / 128

/-- The parts of n bytes at va that lie in one line each. -/
def spanParts (va n : Nat) : List (Nat × Nat) :=
  (List.range (lineCount va n)).map (fun i => let a := if i = 0 then va else va / 128 * 128 + 128 * i
    (a % 2 ^ 72, min (va + n) (va / 128 * 128 + 128 * i + 128) - a))

/-- What the walks of an access of n bytes at va set (R153). -/
def markSpan (s : State) (w : Who) (va n : Nat) (kind : Kind) : State := markGo w kind (spanParts va n) s

/-- The order in which one word's causes are reported: a machine check first, then the lowest code (R35). -/
def AErr.rank : AErr → Nat
  | .mis => 5
  | .xlat f => if f.cause = 0x15 then 0 else f.cause
  | .label _ => 8
  | .gate .. => 0xC
  | .stash _ => 0xE
  | .poison _ => 0
  | .held => 0x40
  | .link => 0x13

/-- Of the failures of an access's parts the one that is reported, the earliest of those that rank first. -/
def worst (e : AErr × Nat) (l : List (AErr × Nat)) : AErr × Nat := l.foldr (fun x y => if x.1.rank ≤ y.1.rank then x else y) e

/-- Why the parts of an access fail, each on its own. -/
def partErrors (va n : Nat) (f : Nat → Nat → Option AErr) : List (AErr × Nat) :=
  (spanParts va n).filterMap (fun p => (f p.1 p.2).map (fun e => (e, p.1)))

def errOf {α : Type} : Except AErr α → Option AErr
  | .error e => some e
  | .ok _ => none

/-- Of a stash map fault (0x0E) that the read of an update meets and what the update's write meets, the one that comes first: the write
is judged on its label too, whose fault (0x08) is the lower code (R35, R98). -/
def firstCause {α : Type} (e : AErr) (w : Except AErr α) : AErr :=
  match e, w with
  | .stash _, .error g => if g.rank < e.rank then g else e
  | _, _ => e

/-- A word's access that lies partly in a window and partly outside it (R191, reason 4), which is found once every part has
been translated. -/
def straddleError (s : State) (w : Who) (va n : Nat) : List (AErr × Nat) :=
  if w.tile ∧ straddles s.core.maps.toList va n then [(.stash 4, va)] else []

/-- Read n bytes at a virtual address for a word: of the causes that apply the first in R35's order. -/
def readBytes (s : State) (w : Who) (va n : Nat) (kind : Kind := .read) : Except (AErr × Nat) (State × Nat × Label) :=
  match readSpan s w kind (lineCount va n) va n, straddleError s w va n with
  | .ok r, [] => .ok r
  | .ok _, e :: _ => .error e
  | .error e, l => .error (worst e (partErrors va n (fun a c => errOf (readVa s w a c kind)) ++ l))

def writeSpan (s : State) (w : Who) (l : Label) (prov : BitVec 2) : Nat → Nat → Nat → Nat → Except (AErr × Nat) State
  | 0, _, _, _ => .ok s
  | k + 1, va, n, v =>
    let c := min n (128 - va % 128)
    match writeVa s w va c (v % 2 ^ (8 * c)) l prov with
    | .error e => .error (e, va)
    | .ok s1 => writeSpan s1 w l prov k ((va + c) % 2 ^ 72) (n - c) (v >>> (8 * c))

/-- Write the low n bytes of v at a virtual address for a word: of the causes that apply the first in R35's order. -/
def writeBytes (s : State) (w : Who) (va n v : Nat) (l : Label) (prov : BitVec 2 := 0) : Except (AErr × Nat) State :=
  match writeSpan s w l prov (lineCount va n) va n v, straddleError s w va n with
  | .ok r, [] => .ok r
  | .ok _, e :: _ => .error e
  | .error e, m => .error (worst e (partErrors va n (fun a c => errOf (writeVa s w a c 0 l prov)) ++ m))

end Sys2Proof.Machine
end

