-- ==== Sys2Proof/Machine/Regs.lean ====
section
/-! DEFINITION. The one home of every register: reads and writes, with the constants (R88), the masks (R232) and the
rotation of register numbers (R259). -/
namespace Sys2Proof.Machine

def physV (c : Core) (n : BitVec 5) : BitVec 5 := if n < 16 then n else 16 + (n - 16 - c.vro.setWidth 5) % 16
def physP (c : Core) (n : BitVec 4) : BitVec 4 := if n < 8 then n else 8 + (n - 8 - c.pro.setWidth 4) % 8

def Core.rdS (c : Core) (n : BitVec 5) : Lv 64 := if n = 0 then ⟨0, 0⟩ else c.s[n.toFin]
def Core.rdA (c : Core) (n : BitVec 4) : Lv 72 := c.a[n.toFin]
/-- A predicate: p0 true, p1 false with the empty label (R88), p8 to p15 rotating (R259). -/
def Core.rdP (c : Core) (n : BitVec 4) : Lv 1 :=
  if n = 0 then ⟨1, 0⟩ else if n = 1 then ⟨0, 0⟩ else c.p[(physP c n).toFin]
def Core.rdV (c : Core) (n : BitVec 5) : Lv 4096 := c.v[(physV c n).toFin]
/-- m0 reads all ones (R232). -/
def Core.rdM (c : Core) (n : BitVec 3) : Lv 1024 := if n = 0 then ⟨BitVec.allOnes 1024, 0⟩ else c.m[n.toFin]
def Core.rdG (c : Core) (n : BitVec 6) : Lv 64 := c.g[n.toFin]
def Core.rdB (c : Core) (n : BitVec 4) : Lv 64 := c.b[n.toFin]
def Core.rdBt (c : Core) (n : BitVec 2) : BtReg := c.bt[n.toFin]
def Core.rdZ (c : Core) (n : Nat) : Lv 65536 := c.z.toList.getD n ⟨0, 0⟩

/-- Writes of s0 are discarded (R43, R88). -/
def Core.wrS (c : Core) (n : BitVec 5) (x : Word) (l : Label) : Core :=
  if n = 0 then c else { c with s := c.s.set n.toFin ⟨x, l⟩ }
def Core.wrA (c : Core) (n : BitVec 4) (x : Addr) (l : Label) : Core := { c with a := c.a.set n.toFin ⟨x, l⟩ }
/-- Writes of physical p0 and p1 are discarded. -/
def Core.wrP (c : Core) (n : BitVec 4) (x : Bool) (l : Label) : Core :=
  if n < 2 then c else { c with p := c.p.set n.toFin ⟨b2v x, l⟩ }
def Core.wrV (c : Core) (n : BitVec 5) (x mask : BitVec 4096) (keep : Bool) (l : Label) : Core :=
  let o := c.v[n.toFin]
  { c with v := c.v.set n.toFin ⟨(o.v &&& ~~~mask) ||| (x &&& mask), if keep then l ||| o.l else l⟩ }
def Core.wrM (c : Core) (n : BitVec 3) (x mask : BitVec 1024) (keep : Bool) (l : Label) : Core :=
  if n = 0 then c else
    let o := c.m[n.toFin]
    { c with m := c.m.set n.toFin ⟨(o.v &&& ~~~mask) ||| (x &&& mask), if keep then l ||| o.l else l⟩ }
def Core.wrG (c : Core) (n : BitVec 6) (x : Word) (l : Label) : Core := { c with g := c.g.set n.toFin ⟨x, l⟩ }
def Core.wrB (c : Core) (n : BitVec 4) (x : Word) (l : Label) : Core := { c with b := c.b.set n.toFin ⟨x, l⟩ }
/-- Write bits of an accumulator block; block 9 is the partial-sum port (R284, R294). -/
def Core.wrZ (c : Core) (n : Nat) (x mask : BitVec 65536) (l : Label) : Core :=
  if n = 9 then { c with portVal := ⟨(c.portVal.v &&& ~~~mask) ||| (x &&& mask), l⟩ } else
  let o := c.rdZ n
  { c with z := c.z.setIfInBounds n ⟨(o.v &&& ~~~mask) ||| (x &&& mask), l⟩ }
def Core.setBt (c : Core) (n : BitVec 2) (b : BtReg) : Core := { c with bt := c.bt.set n.toFin b }

/-- The current tag context (R201). -/
def Core.ctx (c : Core) : TagCtx := c.ctxs.toList.getD c.cur .free
def Core.ctxAt (c : Core) (i : Nat) : TagCtx := c.ctxs.toList.getD i .free
def Core.setCtx (c : Core) (i : Nat) (x : TagCtx) : Core := { c with ctxs := c.ctxs.setIfInBounds i x }

/-- A half of the instruction scratchpad by number; the active half; the idle half (R216). -/
def Core.half (c : Core) (n : Bool) : Half := if n then c.half1 else c.half0
def Core.setHalf (c : Core) (n : Bool) (h : Half) : Core := if n then { c with half1 := h } else { c with half0 := h }

/-- What the running continuation is, or the fields an idle core shows. -/
def Core.cont (c : Core) : Running :=
  c.run.getD ⟨0, 0, 0, 0, 0, 0, 0, 0, 0, 0, false, 0, 0, 0, 0, 0, false, 0⟩
def Core.cl (c : Core) : Label := c.cont.cl
def Core.joinCl (c : Core) (l : Label) : Core :=
  match c.run with
  | some r => { c with run := some { r with cl := r.cl ||| l } }
  | none => c

/-- The running continuation as the agent of its accesses (R147, R191). -/
def Core.who (c : Core) : Who := ⟨c.cont.vf, c.cont.part, c.cont.prv, true⟩

/-- A core by package number. -/
def coreAt (s : State) (n : Nat) : Core := if n = s.coreNo then s.core else (lookup s.others n).getD Core.reset

/-- Bring core n into focus. -/
def focus (s : State) (n : Nat) : State :=
  if n = s.coreNo then s
  else { s with core := coreAt s n, coreNo := n, others := insertKey s.coreNo s.core (eraseKey n s.others) }

/-- Update a core by package number. -/
def updCore (s : State) (n : Nat) (f : Core → Core) : State :=
  if n = s.coreNo then { s with core := f s.core } else { s with others := insertKey n (f (coreAt s n)) s.others }

/-- The four cores of the focused core's quad (R3). -/
def quadCores (n : Nat) : List Nat := [n / 4 * 4, n / 4 * 4 + 1, n / 4 * 4 + 2, n / 4 * 4 + 3]

end Sys2Proof.Machine
end

