-- ==== Sys2Proof/Machine/SysRegs.lean ====
section
/-! DEFINITION. The system registers by number: privilege lines, reads and the effect of writes (R131 to R134, R223,
R226, R308, R355, R391, R421, R457, R481, R505). -/
namespace Sys2Proof.Machine

/-- The lowest privilege of a read and of a write; none outside for an unassigned number, none inside for a kind of
access the line does not name (R131). -/
def sysPriv (n : Nat) : Option (Option Nat × Option Nat) :=
  if n < 0x100 then match n with
    | 0x000 => some (some 0, some 1) | 0x001 => some (some 0, none) | 0x002 => some (some 0, none)
    | 0x003 => some (some 0, some 1) | 0x004 => some (some 0, none) | 0x005 => some (some 0, none)
    | _ => none
  else if n < 0x200 then
    if n = 0x100 then some (some 0, some 1)
    else if n = 0x101 ∨ n = 0x102 then some (some 0, some 0)
    else if n ≤ 0x107 then some (some 0, none)
    else if n = 0x108 then some (some 1, none)
    else if 0x110 ≤ n ∧ n < 0x130 then some (some 0, none)
    else none
  else match n with
    | 0x200 => some (some 1, some 2) | 0x201 => some (some 1, some 2) | 0x202 => some (some 0, some 2)
    | 0x203 => some (some 0, none) | 0x300 => some (some 0, some 0) | 0x301 => some (some 0, none)
    | 0x400 => some (some 1, some 2) | 0x401 => some (some 0, some 2) | 0x402 => some (some 1, some 2)
    | 0x403 => some (some 1, some 2) | 0x500 => some (some 1, some 2) | 0x501 => some (some 1, some 2)
    | 0x502 => some (some 1, some 2) | 0x503 => some (some 1, some 2) | 0x504 => some (some 1, some 1)
    | 0x505 => some (some 1, some 1) | 0x506 => some (some 1, some 1) | 0x507 => some (some 0, some 1)
    | 0x508 => some (some 1, some 1) | 0x509 => some (some 1, some 1) | 0x50A => some (none, some 2)
    | 0x50B => some (some 0, none) | 0x50C => some (some 0, none) | 0x600 => some (some 1, some 2)
    | 0x601 => some (some 1, some 1) | 0x602 => some (some 0, none) | 0x700 => some (some 2, none)
    | 0x701 => some (some 1, none) | 0x702 => some (some 2, none) | 0x703 => some (some 2, some 2)
    | 0x800 => some (some 0, some 0) | 0x801 => some (some 0, some 0) | 0x802 => some (some 0, some 0)
    | 0x803 => some (some 0, none) | 0x804 => some (some 0, some 0) | 0x900 => some (some 2, none)
    | 0x901 => some (some 2, none) | 0x902 => some (some 2, none) | 0x903 => some (some 2, none)
    | 0x904 => some (some 0, none) | 0x905 => some (some 0, none) | 0x906 => some (some 0, none)
    | _ => none

/-- Landing requests outstanding: those whose result has not landed (R26, R134, log 12). -/
def landsOut (c : Core) : Nat := (c.pend.filter (fun e => e.land.isSome)).length

/-- The slot numbers in use on a router (R320). -/
def slotsIn (s : State) (router : Nat) : List Nat :=
  s.trees.flatMap (fun t => (t.2.slots.filter (fun e => e.1 == router)).map (·.2))
/-- Free slots of a router of this package, by its local number (R315, R355). -/
def slotsFree (s : State) (loc cap : Nat) : Nat := cap - (slotsIn s ((s.dev.pod.toNat <<< 7) + loc)).length

def mapReg (c : Core) (i : Nat) (b : Bool) : Nat :=
  match c.maps.toList.getD i none with
  | none => 0
  | some e => if b then fld 63 (b2n e.v) + fld 48 (e.len / 128) + fld 34 (e.so / 128) + bits e.vbase.toNat 71 64
      else e.vbase.toNat % 2 ^ 64

/-- A register's value with its label; registers without a stated label carry the empty one (R132). BUSY and POOL of MX_TQ are counts
of engines (R308 does not say whether they are counts or a bit each; DESIGN CHOICE, log 27). -/
def sysRead (s : State) (n : Nat) : Lv 64 :=
  let c := s.core
  let p := partAt s c.cont.part
  let o (x : Nat) : Lv 64 := ⟨BitVec.ofNat 64 x, 0⟩
  let idle := c.half (!c.active)
  if 0x110 ≤ n ∧ n < 0x120 then o (mapReg c (n - 0x110) false)
  else if 0x120 ≤ n ∧ n < 0x130 then o (mapReg c (n - 0x120) true)
  else match n with
    | 0x000 => ⟨c.mxIdle, 0⟩
    | 0x001 => ⟨c.mxWake, 0⟩
    | 0x002 => o (pack 2 (fun i => (c.subs.toList.getD i ⟨0, 0, 0⟩).pw.toNat) 4)
    | 0x003 => ⟨c.mxPool, 0⟩
    | 0x004 =>
      let q := s.coreNo / 4
      o (fld 12 (((lookup s.quadRun q).getD []).map (fun t => popc 4 t.eng.toNat)).sum
        + fld 8 ((quadCores s.coreNo).filter (fun k => (coreAt s k).mxPool.getLsbD 15)).length
        + ((lookup s.quadQ q).getD []).length)
    | 0x005 => o (b2n c.portLive)
    | 0x100 => ⟨c.cpSpin.setWidth 64, 0⟩
    | 0x101 => ⟨c.csz.setWidth 64, 0⟩
    | 0x102 => ⟨c.ctx.terr, c.ctx.flab⟩
    | 0x103 => ⟨c.ctx.busy, 0⟩
    | 0x104 => ⟨c.ctx.finfo, c.ctx.flab⟩
    | 0x105 => ⟨c.ctx.faddr.setWidth 64, c.ctx.flab⟩
    | 0x106 => ⟨(c.ctx.faddr >>> 64).setWidth 64, c.ctx.flab⟩
    | 0x107 => ⟨BitVec.ofNat 64 (fld 4 idle.reason.toNat + fld 3 (b2n (!c.active)) + idle.st.toNat), idle.lab⟩
    | 0x108 => match c.svf with
      | some v => o (512 + v)
      | none => o 0
    | 0x200 => ⟨p.ttb, 0⟩
    | 0x201 => ⟨p.ttn, 0⟩
    | 0x202 => o ((lookup s.clRing (dieNo s)).getD 0)
    | 0x203 => o (fld 33 (slotsFree s 0x45 4096) + fld 20 (slotsFree s 0x44 4096)
        + fld 9 (slotsFree s (0x40 + dieNo s) 1024) + slotsFree s (s.coreNo / 4) 256)
    | 0x300 => c.skSeed
    | 0x301 => o c.skBusy
    | 0x400 => ⟨p.mbr, 0⟩
    | 0x401 => o s.evMbt
    | 0x402 => o s.evMbb
    | 0x403 => o s.evEpt
    | 0x500 => ⟨p.faultq, 0⟩
    | 0x501 => ⟨p.stb, 0⟩
    | 0x502 => ⟨p.stn, 0⟩
    | 0x503 => ⟨p.pool, 0⟩
    | 0x504 => ⟨p.pql, 0⟩
    | 0x505 => ⟨p.pqh, 0⟩
    | 0x506 => ⟨p.slice, 0⟩
    | 0x507 => ⟨p.pceil, 0⟩
    | 0x508 => ⟨p.shidx, 0⟩
    | 0x509 => o (vfAt s p.shidx.toNat).share
    | 0x50B => o (p.lseq % 2 ^ 24)
    | 0x50C => o c.cont.pa
    | 0x600 => o s.flm
    | 0x601 => o p.alog
    | 0x602 => ⟨p.refs.v.setWidth 64, p.refs.l⟩
    | 0x700 => o (pack 2 (fun i => (partAt s i).st.toNat) 16)
    | 0x701 => ⟨p.quads, 0⟩
    | 0x702 => o ((s.scrub.map (fun e => (e.1 % 65536 / 128 + e.2 + 511) / 512)).sum % 2 ^ 32)
    | 0x703 => ⟨s.ptCerr.setWidth 64, 0⟩
    | 0x800 => ⟨c.fpMode, 0⟩
    | 0x801 => c.fpFlags
    | 0x802 => c.fpSeed
    | 0x803 => ⟨c.fpSctr, 0⟩
    | 0x804 => ⟨c.fpVcfg, 0⟩
    | 0x900 => ⟨c.trCause.setWidth 64, 0⟩
    | 0x901 => ⟨c.trInfo, 0⟩
    | 0x902 => ⟨c.trAddr.setWidth 64, 0⟩
    | 0x903 => ⟨(c.trAddr >>> 64).setWidth 64, 0⟩
    | 0x904 => o c.tick
    | 0x905 => o (c.cont.dist % 8192)
    | 0x906 => o (landsOut c)
    | _ => o 0

/-- Zero the z store and the weight buffer with empty labels (R195 step 4, R297). -/
def zeroMatrix (c : Core) : Core := { c with z := Vector.replicate 9 ⟨0, 0⟩, wbuf := [] }

def lowBits (v : Word) (hi lo : Nat) : Word := BitVec.ofNat 64 (fld lo (bits v.toNat hi lo))

/-- The effect of a write at its tick 1 (R132), reserved fields ignored (R8). A change of CP_CSZ empties the cache portion
(R194), one of CL_RING the ways gained or lost (R355). A CL_TTN above its range keeps the 21 bits
as written (R355; DESIGN CHOICE, log 28). -/
def sysWrite (s : State) (n : Nat) (v : Word) (l : Label) : State :=
  let c := s.core
  let pn := c.cont.part
  let p := partAt s pn
  let cr (c : Core) : State := { s with core := c }
  let pr (p : Part) : State := setPart s pn p
  match n with
  | 0x000 => cr { c with mxIdle := lowBits v 31 0 }
  | 0x003 =>
    let nv := lowBits v 15 15 + lowBits v 8 0
    let c1 := { c with mxPool := nv }
    cr (if nv.getLsbD 15 = c.mxPool.getLsbD 15 then c1 else zeroMatrix c1)
  | 0x100 => cr { c with cpSpin := v.setWidth 32 }
  | 0x101 =>
    let s1 := dropLines s (fun e => decide (16384 - 512 * c.csz.toNat ≤ e.1))
    { s1 with core := { s1.core with csz := v.setWidth 4 } }
  | 0x102 => cr (c.setCtx c.cur { c.ctx with terr := c.ctx.terr &&& ~~~v })
  | 0x200 => pr { p with ttb := lowBits v 55 8 }
  | 0x201 => pr { p with ttn := lowBits v 20 0 }
  | 0x202 =>
    let old := (lookup s.clRing (dieNo s)).getD 0
    let new := min 8 (v.toNat % 16)
    let s1 := dropWays s (dieNo s) (32 - max old new) (32 - min old new)
    { s1 with clRing := insertKey (dieNo s) new s1.clRing }
  | 0x300 => cr { c with skSeed := ⟨v, l⟩ }
  | 0x400 =>
    let first := v.toNat % 8192
    pr { p with mbr := BitVec.ofNat 64 (first + fld 13 (min (bits v.toNat 26 13) (8192 - first))) }
  | 0x401 => { s with evMbt := fld 19 (bits v.toNat 55 19) }
  | 0x402 => { s with evMbb := fld 29 (bits v.toNat 55 29) }
  | 0x403 => { s with evEpt := fld 19 (bits v.toNat 55 19) }
  | 0x500 => pr { p with faultq := lowBits v 16 0 }
  | 0x501 => pr { p with stb := lowBits v 55 7 }
  | 0x502 => pr { p with stn := lowBits v 16 0 }
  | 0x503 => pr { p with pool := lowBits v 55 20 }
  | 0x504 => pr { p with pql := lowBits v 63 16 }
  | 0x505 => pr { p with pqh := v }
  | 0x506 => pr { p with slice := lowBits v 31 0 }
  | 0x507 => pr { p with pceil := lowBits v 3 0 }
  | 0x508 => pr { p with shidx := lowBits v 8 0 }
  | 0x509 =>
    let k := p.shidx.toNat
    setVf s k { vfAt s k with share := max 1 (v.toNat % 256) }
  | 0x50A => if v.getLsbD 8 then updCore s (v.toNat % 256) (fun k => if k.run.isSome ∧ k.cont.part = pn then { k with abort := true } else k) else s
  | 0x600 => { s with flm := fld 16 (bits v.toNat 55 16) }
  | 0x601 => pr { p with alog := fld 5 (bits v.toNat 55 5) }
  | 0x703 => { s with ptCerr := v.setWidth 32 }
  | 0x800 => cr { c with fpMode := lowBits v 3 0 }
  | 0x801 => cr { c with fpFlags := ⟨lowBits v 4 0, l⟩ }
  | 0x802 => cr { c with fpSeed := ⟨v, l⟩, fpSctr := 0 }
  | 0x804 => cr { c with fpVcfg := lowBits v 11 0 }
  | _ => s

end Sys2Proof.Machine
end

