-- ==== Sys2Proof/Machine/Frame.lean ====
section
/-! DEFINITION. Continuation records (R14, R15) and the frame: what a suspension writes and a claim reads
(R136 to R141, R146, R262, R537). -/
namespace Sys2Proof.Machine

/-! ## Records -/

/-- Bytes o .. o+n-1 of a block held as a little-endian number. -/
def rf (r o n : Nat) : Nat := (r >>> (8 * o)) % 2 ^ (8 * n)

/-- A record's bytes 0x00 to 0x3B with its CHK appended (R15). -/
def withChk (r : Nat) : Nat :=
  let b := r % 2 ^ 480
  b + (crc32c (leBytes 60 b)).toNat <<< 480

def readRecord (s : State) (pa : Nat) : Nat := readPa s pa 64
/-- A record's write carries the context label the record holds (R38, R463, log 30), and that of the word that asks for it
(R467). -/
def writeRecord (s : State) (pa r : Nat) (l : Label := 0) : State := engWr s pa 64 (withChk r) (BitVec.ofNat 32 (rf r 0xC 4) ||| l)

def recSt (r : Nat) : Nat := rf r 9 1
/-- A record with its ST, WK, WARG and WOBJ replaced (R18, R19). -/
def setSt (r st wk warg wobj : Nat) : Nat :=
  let keep := r % 2 ^ 72 + (rf r 10 19 <<< 80) + (rf r 0x29 23 <<< (8 * 0x29))
  keep + (st <<< 72) + (wk <<< (8 * 0x1D)) + (warg <<< (8 * 0x1E)) + (wobj <<< (8 * 0x20))

/-- Any reserved bit or value that R16 refuses. -/
def recReserved (r : Nat) : Bool :=
  let fl := rf r 0xA 1
  bits fl 5 4 == 3 || bit fl 7 || rf r 0xB 1 / 8 != 0 || decide (384 ≤ rf r 0x1B 2 % 512) || rf r 0x1B 2 / 8192 != 0
    || rf r 0x2C 2 / 1024 != 0 || rf r 0x2E 2 != 0

/-- The record a core writes back (R14): the running continuation with its resume point and state. -/
def buildRecord (s : State) (c : Running) (rpc st spx wk warg wobj : Nat) (srb pin : Bool) : Nat :=
  withChk (rpc + (st <<< 72) + ((c.pri.toNat + (c.prv <<< 4) + (b2n srb <<< 6)) <<< 80) + (c.dep.toNat <<< 88)
    + (c.cl.toNat <<< 96) + (c.frm.toNat <<< 128) + (spx <<< (8 * 0x19)) + ((c.vf + (c.part <<< 9)) <<< (8 * 0x1B))
    + (wk <<< (8 * 0x1D)) + (warg <<< (8 * 0x1E)) + (wobj <<< (8 * 0x20)) + (c.stg.toNat <<< (8 * 0x29))
    + (c.home.toNat <<< (8 * 0x2B)) + ((s.coreNo + 256 + (b2n pin <<< 9)) <<< (8 * 0x2C)) + (c.par.toNat <<< (8 * 0x30))
    + (c.seq.toNat <<< (8 * 0x39)))

/-- The continuation a record describes, as its claim starts it (R89, R130, R432). Until its first safe point the SPX that
TR_INFO of cause 0x16 reports is the record's own, 65,535 after an urgent suspension (DESIGN CHOICE, log 22). -/
def runningOf (pa r : Nat) : Running :=
  let fl := rf r 0xA 1
  { pa := pa, prv := bits fl 5 4, pri := BitVec.ofNat 4 fl, dep := BitVec.ofNat 3 (rf r 0xB 1), cl := BitVec.ofNat 32 (rf r 0xC 4),
    frm := BitVec.ofNat 72 (rf r 0x10 9), vf := rf r 0x1B 2 % 512, part := bits (rf r 0x1B 2) 12 9,
    stg := BitVec.ofNat 16 (rf r 0x29 2), home := BitVec.ofNat 8 (rf r 0x2B 1), pin := bit (rf r 0x2C 2) 9,
    par := BitVec.ofNat 72 (rf r 0x30 9), seq := BitVec.ofNat 24 (rf r 0x39 3), dist := 0,
    spx := BitVec.ofNat 16 (rf r 0x19 2), slice := 0, ended := false, since := 0 }

/-! ## Frame bytes -/

/-- The physical address of a frame byte whose translation a write fails, where the tables still name one: an access
that asks for no permission (R152). -/
def leafPa (s : State) (w : Who) (va : Nat) : Option Nat :=
  match walk s va none 5 (vfAt s w.vf).root with
  | .ok (_, pte, lvl) =>
    some (if lvl = 4 then bits pte 53 14 * 65536 + va % 65536 else bits pte 53 27 * 0x20000000 + va % 0x20000000)
  | .error _ => none

/-- Frame bytes that a suspension could not write hold undefined values (R537): free values, where the bytes lie in
memory. -/
def loseBytes (s : State) (pa : Option Nat) (n : Nat) : State :=
  match pa with
  | some a => if isMem a then let (s1, v) := freeBytes s n
      writePa s1 a n v
    else s
  | none => s

/-- Write frame bytes of one line. Where they leave the package or the tenant the gate judges them by their own address
(R469); a refusal counts, and they are not written (DEDUCED, log 23), nor are those that a failed link cuts off (R537). -/
def frameLine (w : Who) (l : Label) (s : State) (x : Xlat) (n v : Nat) : State × Bool :=
  match (match egressOf s x with
    | some d => gate s w.part l d
    | none => some l) with
  | none => (loseBytes (countRefusal s w.part l) (some x.pa) n, false)
  | some out =>
    if isMem x.pa then
      if reaches s (dieNo s) x.pa n then (engWr s x.pa n v l, true) else (loseBytes (raiseFrame s x.pa l) (some x.pa) n, false)
    else match leavesTo s w.vf w.part x n v out with
      | some t => (t, true)
      | none => (loseBytes s (some x.pa) n, false)

/-- Write frame bytes of one page line by line; false when some byte was not written. -/
def frameLines (w : Who) (l : Label) : Nat → State → Xlat → Nat → Nat → State × Bool
  | 0, s, _, _, _ => (s, true)
  | k + 1, s, x, n, v =>
    let c := min n (128 - x.pa % 128)
    let (s1, ok) := frameLine w l s x c (v % 2 ^ (8 * c))
    let (s2, ok2) := frameLines w l k s1 { x with pa := x.pa + c } (n - c) (v >>> (8 * c))
    (s2, ok && ok2)

/-- A frame write of one page's bytes: translated with kind write, never refused by the check of R98, raising the frame
label without a log entry (R537); false when some byte was not written. -/
def framePut (s : State) (w : Who) (va n v : Nat) (l : Label) : State × Bool :=
  match translateMark s va w.vf w.part w.prv 64 .write with
  | .error _ => (loseBytes s (leafPa s w va) n, false)
  | .ok (s1, x) =>
    if isMem x.pa ∧ (egressOf s1 x).isNone ∧ reaches s1 (dieNo s1) x.pa n then (engWr s1 x.pa n v l, true)
    else frameLines w l (lineCount x.pa n) s1 x n v

/-- A frame block that may cross a page; false when some byte was not written. -/
def frameSpan (w : Who) (l : Label) : Nat → State → Nat → Nat → Nat → State × Bool
  | 0, s, _, _, _ => (s, true)
  | k + 1, s, va, n, v =>
    if n = 0 then (s, true)
    else
      let c := min n (65536 - va % 65536)
      let (s1, ok) := framePut s w va c (v % 2 ^ (8 * c)) l
      let (s2, ok2) := frameSpan w l k s1 ((va + c) % 2 ^ 72) (n - c) (v >>> (8 * c))
      (s2, ok && ok2)

/-- One block of a frame: offset, size, value, label. -/
structure Blk where
  off : Nat
  size : Nat
  val : Nat
  lab : Label

def frameWrite (w : Who) (frm : Nat) (a : State × Bool) (b : Blk) : State × Bool :=
  let (s1, ok) := frameSpan w b.lab 2 a.1 ((frm + b.off) % 2 ^ 72) b.size b.val
  (s1, a.2 && ok)

def frameWriteGo (w : Who) (frm : Nat) : List Blk → State × Bool → State × Bool
  | [], a => a
  | b :: bs, (s, ok) => frameWriteGo w frm bs (frameWrite w frm (s, ok) b)

def frameWriteAll (w : Who) (frm : Nat) (s : State) (bs : List Blk) : State × Bool := frameWriteGo w frm bs (s, true)

/-- Read frame bytes (after the claim's check every page translates). -/
def frameRead (s : State) (w : Who) (frm off n : Nat) : Nat :=
  go ((frm + off) % 2 ^ 72) n 2
where
  go (va n : Nat) : Nat → Nat
    | 0 => 0
    | k + 1 =>
      let c := min n (65536 - va % 65536)
      let v := match translate s va w.vf w.part w.prv 64 .write with
        | .ok (x, _) => readPa s x.pa c
        | .error _ => 0
      v + (go ((va + c) % 2 ^ 72) (n - c) k <<< (8 * c))

/-- What keeps frame bytes from being read, each block an offset and a size: the cause and the address of a machine check
(R503) or of a link fault (R176). -/
def frameHurt (s : State) (w : Who) (frm : Nat) (l : List (Nat × Nat)) : Option (Nat × Nat) :=
  if s.poison.isEmpty ∧ s.downLinks.isEmpty then none
  else
    let parts := l.flatMap (fun b => spanParts ((frm + b.1) % 2 ^ 72) b.2)
    let hurt (p : Nat × Nat) : Option (Nat × Nat) :=
      match translate s p.1 w.vf w.part w.prv 64 .write with
      | .error _ => none
      | .ok (x, _) => if isPoisoned s x.pa p.2 then some (0x15, x.pa) else if reaches s (dieNo s) x.pa p.2 then none else some (0x13, p.1)
    match parts.findSome? (fun p => (hurt p).filter (fun e => e.1 == 0x15)) with
    | some e => some e
    | none => parts.findSome? hurt

def orAll (l : List Label) : Label := l.foldl (· ||| ·) 0

/-- The fixed area (R137), its reserved bytes zero (R10). -/
def fixedBlk (c : Core) : Blk :=
  let n := c.nest
  let idx := pack 32 (fun i => (n.idx.getD i 0).toNat) 6
  ⟨0x40, 0xC0, c.fpSeed.v.toNat + (c.fpSctr.toNat <<< 64) + (c.fpMode.toNat <<< 128) + (c.fpFlags.v.toNat <<< 192)
    + (c.fpFlags.l.toNat <<< 256) + (c.fpSeed.l.toNat <<< 288)
    + ((c.fpVcfg.toNat % 4096 + (c.vro.toNat <<< 16) + (c.pro.toNat <<< 20)) <<< 320)
    + (n.body.toNat <<< 384) + ((n.len1.toNat + (n.d.toNat <<< 4) + (b2n n.act <<< 7)) <<< 456)
    + (n.next <<< 464) + (n.g.toNat <<< 472) + (idx <<< 480), c.cl ||| c.fpFlags.l ||| c.fpSeed.l⟩

/-- The binding table (R139). -/
def bindBlk (c : Core) : Blk :=
  ⟨0xD00, 0x200, pack 256 (fun i => match c.binds[i]? with
    | some b => b.base.toNat + (1 <<< 72) + (b.len.toNat <<< 80) + (b.obj.toNat <<< 144)
    | none => 0) 16, c.cl⟩

def allRegs : List RegName :=
  (List.range 32).map (fun i => .s (BitVec.ofNat 5 i)) ++ (List.range 16).map (fun i => .a (BitVec.ofNat 4 i))
  ++ (List.range 16).map (fun i => .p (BitVec.ofNat 4 i)) ++ (List.range 32).map (fun i => .v (BitVec.ofNat 5 i))
  ++ (List.range 8).map (fun i => .m (BitVec.ofNat 3 i)) ++ (List.range 4).map (fun i => .bt (BitVec.ofNat 2 i))
  ++ [.tags] ++ (List.range 16).map (fun i => .b (BitVec.ofNat 4 i)) ++ (List.range 64).map (fun i => .g (BitVec.ofNat 6 i))
  ++ (List.range 9).map .z

/-- The bit of a live-state entry that names a register (R59). -/
def RegName.liveBit : RegName → Nat
  | .s i => i.toNat | .a i => 32 + i.toNat | .p i => 48 + i.toNat | .v i => 64 + i.toNat | .m i => 96 + i.toNat
  | .bt i => 104 + i.toNat | .tags => 108 | .b i => 112 + i.toNat | .g i => 128 + i.toNat | .z i => 192 + i

/-- A register's frame slot and label slot, values by physical number (R136, R138, R262);
a pooled engine shows z slots of zeros (R296). -/
def regBlks (c : Core) : RegName → List Blk
  | .s i => let r := c.rdS i
    [⟨0x100 + 8 * i.toNat, 8, r.v.toNat, r.l⟩, ⟨0xA00 + 4 * i.toNat, 4, r.l.toNat, r.l⟩]
  | .a i => let r := c.rdA i
    [⟨0x200 + 16 * i.toNat, 16, r.v.toNat, r.l⟩, ⟨0xA80 + 4 * i.toNat, 4, r.l.toNat, r.l⟩]
  | .p i => let r : Lv 1 := if i = 0 then ⟨1, 0⟩ else if i = 1 then ⟨0, 0⟩ else c.p[i.toFin]
    [⟨0x300 + i.toNat, 1, r.v.toNat, r.l⟩, ⟨0xAC0 + 4 * i.toNat, 4, r.l.toNat, r.l⟩]
  | .v i => let r := c.v[i.toFin]
    [⟨0x1000 + 512 * i.toNat, 512, r.v.toNat, r.l⟩, ⟨0xB00 + 4 * i.toNat, 4, r.l.toNat, r.l⟩]
  | .m i => let r := c.rdM i
    [⟨0x600 + 128 * i.toNat, 128, r.v.toNat, r.l⟩, ⟨0xB80 + 4 * i.toNat, 4, r.l.toNat, r.l⟩]
  | .bt i => let r := c.rdBt i
    [⟨0x310 + 16 * i.toNat, 16, r.addr.v.toNat + (b2n r.prepared <<< 72), r.addr.l⟩, ⟨0xBA0 + 4 * i.toNat, 4, r.addr.l.toNat, r.addr.l⟩]
  | .tags => let r := c.ctx.tags
    [⟨0x350, 8, r.v.toNat, r.l⟩, ⟨0xBB0, 4, r.l.toNat, r.l⟩]
  | .b i => let r := c.rdB i
    [⟨0x380 + 8 * i.toNat, 8, r.v.toNat, r.l⟩, ⟨0xF00 + 4 * i.toNat, 4, r.l.toNat, r.l⟩]
  | .g i => let r := c.rdG i
    [⟨0x400 + 8 * i.toNat, 8, r.v.toNat, r.l⟩, ⟨0xBC0 + 4 * i.toNat, 4, r.l.toNat, r.l⟩]
  | .z i => let r := if c.mxPool.getLsbD 15 then ⟨0, 0⟩ else c.rdZ i
    [⟨0x5000 + 8192 * i, 8192, r.v.toNat, r.l⟩, ⟨0xCC0 + 4 * i, 4, r.l.toNat, r.l⟩]

def RegName.isZ : RegName → Bool
  | .z _ => true
  | _ => false

/-- The physical register a logical name means at a safe point (R262). -/
def RegName.phys (c : Core) : RegName → RegName
  | .v i => .v (physV c i)
  | .p i => .p (physP c i)
  | r => r

/-- Restore one register from the frame (R89). -/
def restoreReg (s : State) (w : Who) (frm : Nat) (c : Core) (r : RegName) : Core :=
  let rd (o n : Nat) : Nat := frameRead s w frm o n
  let lab (o : Nat) : Label := BitVec.ofNat 32 (rd o 4)
  match r with
  | .s i => c.wrS i (BitVec.ofNat 64 (rd (0x100 + 8 * i.toNat) 8)) (lab (0xA00 + 4 * i.toNat))
  | .a i => c.wrA i (BitVec.ofNat 72 (rd (0x200 + 16 * i.toNat) 9)) (lab (0xA80 + 4 * i.toNat))
  | .p i => c.wrP i (bit (rd (0x300 + i.toNat) 1) 0) (lab (0xAC0 + 4 * i.toNat))
  | .v i => c.wrV i (BitVec.ofNat 4096 (rd (0x1000 + 512 * i.toNat) 512)) (BitVec.allOnes 4096) false (lab (0xB00 + 4 * i.toNat))
  | .m i => c.wrM i (BitVec.ofNat 1024 (rd (0x600 + 128 * i.toNat) 128)) (BitVec.allOnes 1024) false (lab (0xB80 + 4 * i.toNat))
  | .bt i => let x := rd (0x310 + 16 * i.toNat) 10
    c.setBt i ⟨⟨BitVec.ofNat 72 x, lab (0xBA0 + 4 * i.toNat)⟩, bit x 72, 0, none⟩
  | .tags => c.setCtx c.cur { c.ctx with tags := ⟨BitVec.ofNat 64 (rd 0x350 8), lab 0xBB0⟩ }
  | .b i => c.wrB i (BitVec.ofNat 64 (rd (0x380 + 8 * i.toNat) 8 % 2 ^ 35)) (lab (0xF00 + 4 * i.toNat))
  | .g i => c.wrG i (BitVec.ofNat 64 (rd (0x400 + 8 * i.toNat) 8)) (lab (0xBC0 + 4 * i.toNat))
  | .z i => c.wrZ i (BitVec.ofNat 65536 (rd (0x5000 + 8192 * i) 8192)) (BitVec.allOnes 65536) (lab (0xCC0 + 4 * i))

/-- Restore the fixed area and the binding table (R141). -/
def restoreFixed (s : State) (w : Who) (frm : Nat) (c : Core) : Core :=
  let f := frameRead s w frm 0x40 0x54
  let vw := rf f 0x28 8
  let b := frameRead s w frm 0xD00 0x200
  { c with
    fpSeed := ⟨BitVec.ofNat 64 (rf f 0 8), BitVec.ofNat 32 (rf f 0x24 4)⟩, fpSctr := BitVec.ofNat 64 (rf f 8 8),
    fpMode := BitVec.ofNat 64 (rf f 0x10 8 % 16), fpFlags := ⟨BitVec.ofNat 64 (rf f 0x18 8 % 32), BitVec.ofNat 32 (rf f 0x20 4)⟩,
    fpVcfg := BitVec.ofNat 64 (vw % 4096), vro := BitVec.ofNat 4 (bits vw 19 16), pro := BitVec.ofNat 3 (bits vw 22 20),
    nest := { act := bit (rf f 0x39 1) 7, len1 := BitVec.ofNat 4 (rf f 0x39 1), d := BitVec.ofNat 3 (bits (rf f 0x39 1) 6 4),
              g := BitVec.ofNat 6 (rf f 0x3B 1), body := BitVec.ofNat 72 (rf f 0x30 9), next := rf f 0x3A 1 % 16,
              idx := (List.range 6).map (fun i => BitVec.ofNat 32 (rf f (0x3C + 4 * i) 4)) },
    binds := (List.range 16).filterMap (fun i =>
      let e := rf b (32 * i) 32
      if bit e 72 then some ⟨BitVec.ofNat 72 e, BitVec.ofNat 64 (rf e 10 8), BitVec.ofNat 72 (rf e 0x12 9)⟩ else none) }

/-! ## Shadow results (R146) -/

/-- A shadow descriptor with its 512-byte data. -/
structure Shadow where
  off : Nat
  kind : Nat
  reg : Nat
  ext : Nat
  lab : Label
  val : Nat
  data : Nat

def zParts (c : Core) (off n : Nat) (x mask : BitVec 65536) (l : Label) : List Shadow :=
  let o := if n = 9 then c.portVal else c.rdZ n
  let full := ((o.v &&& ~~~mask) ||| (x &&& mask)).toNat
  ((List.range 16).filter (fun i => rf mask.toNat (512 * i) 512 != 0)).map
    (fun i => ⟨off, 5, n, i, l, 0, rf full (512 * i) 512⟩)

/-- The labels that the members of a register group hold, by physical number (R235). -/
def groupLabel (c : Core) (grp : List (BitVec 5)) : Label := grp.foldl (fun l r => l ||| c.v[r.toFin].l) 0

/-- The descriptors of the block that reaches the port at offset k: its parts, then its flags (R294). -/
def blockShadows (c : Core) (off : Nat) : List Shadow :=
  (c.blocks.filter (fun b => decide (b.due = c.tick + off))).flatMap (fun b =>
    (List.range 16).map (fun i => (⟨off, 5, 9, i, b.lab, 0, rf b.x.toNat (512 * i) 512⟩ : Shadow))
    ++ [⟨off, 7, 0, 0, b.lab, b.flags.toNat, 0⟩])

/-- The shadow descriptors of one effect in flight at offset k, given the registers as it finds them when it lands
(R142, R232, R235); none for an effect that is not a result. R146's descriptor has no mask: a masked write to a v or m register is saved
together with what the register holds then, which its replay writes again (DEDUCED, log 23). The REG byte of a link-fault landing, of which
R146 names no register, is 0 (DESIGN CHOICE, log 23). -/
def shadowOf (c : Core) (off : Nat) (l : Label) : Eff → List Shadow
  | .s d x => [⟨off, 0, d.toNat, 0, l, x.toNat, 0⟩]
  | .sk d x => [⟨off, 0, d.toNat, 0, l ||| (c.rdS d).l, x.toNat, 0⟩]
  | .a d x => [⟨off, 1, d.toNat, x.toNat >>> 64, l, x.toNat % 2 ^ 64, 0⟩]
  | .p d x => [⟨off, 2, d.toNat, 0, l, b2n x, 0⟩]
  | .v d x mask keep => let o := c.v[d.toFin]
    [⟨off, 3, d.toNat, 0, if keep then l ||| o.l else l, 0, ((o.v &&& ~~~mask) ||| (x &&& mask)).toNat⟩]
  | .vg d x mask grp => [⟨off, 3, d.toNat, 0, l ||| groupLabel c grp, 0, ((c.v[d.toFin].v &&& ~~~mask) ||| (x &&& mask)).toNat⟩]
  | .m d x mask keep => let o := c.m[d.toFin]
    [⟨off, 4, d.toNat, 0, if keep then l ||| o.l else l, 0, ((o.v &&& ~~~mask) ||| (x &&& mask)).toNat⟩]
  | .z n x mask => zParts c off n x mask l
  | .block => blockShadows c off
  | .g r x => [⟨off, 6, r.toNat, 0, l, x.toNat, 0⟩]
  | .flags f => [⟨off, 7, 0, 0, l, f.toNat, 0⟩]
  | .flagsOf f sc d => [⟨off, 7, 0, 0, l ||| (if sc then (c.rdS d).l else c.v[d.toFin].l), f.toNat, 0⟩]
  | .tagsSet _ x => [⟨off, 8, 0, 0, l, x.toNat, 0⟩]
  | .linkFault va => [⟨off, 9, 0, va.toNat >>> 64, l, va.toNat % 2 ^ 64, 0⟩]
  | .arrive a => [⟨off, 10, a.n.toNat, (b2n a.rmt <<< 2) + a.c.toNat, l, 0, 0⟩]
  | _ => []

/-- Is the effect a result, a flag update or a tied arrival, and so saved by an urgent drain (R142)? -/
def Eff.isResult : Eff → Bool
  | .s .. | .a .. | .p .. | .v .. | .vg .. | .m .. | .z .. | .g .. | .flags .. | .sk .. | .flagsOf .. | .tagsSet .. | .linkFault .. | .arrive .. => true
  | _ => false

def shadowBlks (i : Nat) (d : Shadow) : List Blk :=
  [⟨0x17000 + 16 * i, 16, d.off + (d.kind <<< 8) + (d.reg <<< 16) + (d.ext <<< 24) + (d.lab.toNat <<< 32) + (d.val <<< 64), d.lab⟩]
  ++ (if d.kind = 3 ∨ d.kind = 4 ∨ d.kind = 5 then [⟨0x17600 + 512 * i, 512, d.data, d.lab⟩] else [])

/-- The effect a saved descriptor replays (R145). A replayed arrival counts as tied to a register result, as its descriptor does not say:
it is discarded when the record retires before it lands (DESIGN CHOICE, log 23). -/
def replayEff (s : State) (w : Who) (frm i : Nat) (cur vf : Nat) : Nat × Label × Option Eff :=
  let d := frameRead s w frm (0x17000 + 16 * i) 16
  let data := frameRead s w frm (0x17600 + 512 * i) 512
  let reg := rf d 2 1
  let ext := rf d 3 1
  let val := rf d 8 8
  (rf d 0 1, BitVec.ofNat 32 (rf d 4 4),
    match rf d 1 1 with
    | 0 => some (.s (BitVec.ofNat 5 reg) (BitVec.ofNat 64 val))
    | 1 => some (.a (BitVec.ofNat 4 reg) (BitVec.ofNat 72 (val + ext <<< 64)))
    | 2 => some (.p (BitVec.ofNat 4 reg) (bit val 0))
    | 3 => some (.v (BitVec.ofNat 5 reg) (BitVec.ofNat 4096 data) (BitVec.allOnes 4096) false)
    | 4 => some (.m (BitVec.ofNat 3 reg) (BitVec.ofNat 1024 data) (BitVec.allOnes 1024) false)
    | 5 => some (.z (reg % 16) (BitVec.ofNat 65536 (data <<< (4096 * (ext % 16)))) (BitVec.ofNat 65536 ((2 ^ 4096 - 1) <<< (4096 * (ext % 16)))))
    | 6 => some (.g (BitVec.ofNat 6 reg) (BitVec.ofNat 64 val))
    | 7 => some (.flags (BitVec.ofNat 5 val))
    | 8 => some (.tagsSet cur (BitVec.ofNat 64 val))
    | 9 => some (.linkFault (BitVec.ofNat 72 (val + ext <<< 64)))
    | 10 => some (.arrive ⟨true, bit ext 2, BitVec.ofNat 2 ext, BitVec.ofNat 4 reg, vf⟩)
    | _ => none)

end Sys2Proof.Machine
end

