-- ==== Sys2Proof/Machine/Ops.lean ====
section
/-! DEFINITION. The named operations of the sequencer: effects in flight and their landing (R25 to R28, R94), barrier
arrivals (R119), suspension (R140 to R142), taking a trap (R34) and the return from one (R127). -/
namespace Sys2Proof.Machine

/-! ## Effects in flight -/

/-- Schedule an effect n ticks after the issuing group's tick (R4). -/
def Core.push (c : Core) (n : Nat) (e : Eff) (l : Label) : Core := { c with pend := c.pend ++ [⟨c.tick + n, e, l, none⟩] }
def push (s : State) (n : Nat) (e : Eff) (l : Label) : State := { s with core := s.core.push n e l }

/-- The lowest landing-buffer entry that is free (R26). -/
def freeEntry (c : Core) : Nat :=
  ((List.range 32).find? (fun i => !(c.pend.any (fun e => match e.land with | some d => d.entry == i | none => false)))).getD 31

/-- Where the data of an address comes from (R144, R166): its home die, 16 more than a Quaylink port it needs, else 9. -/
def loadHome (s : State) (va : Nat) : Nat :=
  match translate s va s.core.cont.vf s.core.cont.part s.core.cont.prv 8 .read with
  | .ok (x, _) => if isMem x.pa then homeOf s x.pa else match windowPort s x.pa with
    | some p => 16 + p
    | none => 9
  | .error _ => 9
/-- Is that source cut off from the focused core (R144, R176, R440)? -/
def sourceLost (s : State) (h : Nat) : Bool := linkIsDown s (dieNo s) h || (decide (16 ≤ h) && !portIsUp s (h - 16))

/-- Schedule a landing request's result (R25): destination class and register as TR_INFO names them (R135), the
addresses its data comes from. Across a failed link it completes with link-fault status (R144, R176). -/
def pushLand (s : State) (n : Nat) (e : Eff) (l : Label) (cls : BitVec 3) (reg : BitVec 5) (vas : List Nat) : State :=
  let src := vas.map (fun va => (loadHome s va, BitVec.ofNat 72 va))
  let lost := src.find? (fun p => sourceLost s p.1)
  { s with core := { s.core with pend := s.core.pend ++
      [⟨s.core.tick + n, (match lost with | some p => .linkFault p.2 | none => e), l,
        some ⟨freeEntry s.core, lost.isSome, cls, reg, s.core.grp.word, src⟩⟩] } }

/-- The addresses of the lines in n bytes at va. -/
def lineVas (va n : Nat) : List Nat :=
  if n = 0 then [] else (List.range ((va % 128 + n + 127) / 128)).map (fun i => if i = 0 then va else va / 128 * 128 + 128 * i)

/-- An arrival at unit n of a core that runs VF vf (R119, R120): an arrival of another VF is ignored. -/
def arriveAt (c : Core) (n : BitVec 4) (vf : Nat) (l : Label) : Core :=
  if c.cont.vf ≠ vf ∨ c.run.isNone then c
  else
    let u := (c.rdB n).v
    let cnt := u.toNat % 65536
    let lab := (c.rdB n).l ||| l
    if cnt = 0 then c.wrB n (u ||| (1#64 <<< 34)) lab
    else
      let arr := bits u.toNat 31 16 + 1
      if arr % 65536 = cnt then
        let err := if u.getLsbD 32 ≠ u.getLsbD 33 then 1#64 <<< 34 else 0#64
        c.wrB n (((u &&& ~~~(0xFFFF0000#64)) ^^^ (1#64 <<< 32)) ||| err) lab
      else c.wrB n ((u &&& ~~~(0xFFFF0000#64)) ||| BitVec.ofNat 64 ((arr % 65536) <<< 16)) lab

def arrive (s : State) (a : Arrival) (l : Label) : State :=
  if a.rmt then updCore s (s.coreNo / 4 * 4 + a.c.toNat) (fun c => arriveAt c a.n a.vf l)
  else { s with core := arriveAt s.core a.n a.vf l }

def orFlags (c : Core) (f : BitVec 5) (l : Label) : Core :=
  { c with fpFlags := ⟨c.fpFlags.v ||| f.setWidth 64, c.fpFlags.l ||| l⟩ }

/-- The words of the group that starts at a target, captured by a prep (R107, R221): up to the first stop bit,
at most seven, within the half; [] when the target lies in no valid half. -/
def halfWord (h : Half) (off : Nat) : IWord := BitVec.ofNat 32 (getN h.bytes off 4)

def groupWords (h : Half) : Nat → Nat → List IWord
  | 0, _ => []
  | k + 1, off =>
    if 65536 < off + 4 then []
    else let w := halfWord h off
      if w.getLsbD 31 then [w] else w :: groupWords h k (off + 4)

def inHalf (h : Half) (va : Addr) : Bool := h.st == 2 && va.toNat / 65536 * 65536 == h.base.toNat

/-- Does an address lie in a half that is loading or has failed (R221)? -/
def unloaded (c : Core) (va : Addr) : Bool :=
  let at_ (h : Half) : Bool := (h.st == 1 || h.st == 3) && va.toNat / 65536 * 65536 == h.base.toNat
  at_ c.half0 || at_ c.half1

/-- The number of the valid half that holds an address (R110). -/
def halfOf (c : Core) (va : Addr) : Option Bool :=
  if inHalf (c.half c.active) va then some c.active else if inHalf (c.half (!c.active)) va then some (!c.active) else none

/-- The words of the group at pc: captured by a target buffer, or read from the active half (R41, R107). -/
def fetchGroup (c : Core) : List IWord :=
  match c.buf with
  | some ws => ws
  | none => let h := c.half c.active
    if inHalf h c.pc then groupWords h 7 (c.pc.toNat % 65536) else []

def fetchBt (c : Core) (k : BitVec 2) : Core :=
  let b := c.rdBt k
  match halfOf c b.addr.v with
  | some n => c.setBt k { b with
      words := some (groupWords (c.half n) 7 (b.addr.v.toNat % 65536)), addr := ⟨b.addr.v, b.addr.l ||| (c.half n).lab⟩ }
  | none => c.setBt k { b with words := some [] }

/-- An effect takes hold (R25, R94, R132, R260). -/
def applyEff (s : State) (e : Pend) : State :=
  let c := s.core
  let cr (c : Core) : State := { s with core := c }
  match e.eff with
  | .s d x => cr (c.wrS d x e.lab)
  | .sk d x => cr (c.wrS d x (e.lab ||| (c.rdS d).l))
  | .a d x => cr (c.wrA d x e.lab)
  | .p d x => cr (c.wrP d x e.lab)
  | .v d x m k => cr (c.wrV d x m k e.lab)
  | .vg d x m grp => cr (c.wrV d x m false (e.lab ||| groupLabel c grp))
  | .m d x m k => cr (c.wrM d x m k e.lab)
  | .g r x => cr (c.wrG r x e.lab)
  | .z n x m => cr (c.wrZ n x m e.lab)
  | .block => s
  | .flags f => cr (orFlags c f e.lab)
  | .flagsOf f sc d => cr (orFlags c f (e.lab ||| (if sc then (c.rdS d).l else c.v[d.toFin].l)))
  | .tagsSet i x => let t := c.ctxAt i
    cr (c.setCtx i { t with tags := ⟨t.tags.v ||| x, t.tags.l ||| e.lab⟩ })
  | .tagsClr i x => let t := c.ctxAt i
    cr (c.setCtx i { t with tags := ⟨t.tags.v &&& ~~~x, t.tags.l ||| e.lab⟩ })
  | .unit n x => cr (c.wrB n x e.lab)
  | .arrive a => arrive s a e.lab
  | .sysw n x => sysWrite s n.toNat x e.lab
  | .rotate => cr { c with vro := c.vro + 1, pro := c.pro + 1 }
  | .stages x => cr ((List.range 8).foldl (fun k j => k.wrP (BitVec.ofNat 4 (8 + j)) (x.getLsbD j) e.lab) { c with vro := 0, pro := 0 })
  | .shift x => let c1 := { c with vro := c.vro + 1, pro := c.pro + 1 }
    cr (c1.wrP (physP c1 8) x e.lab)
  | .btSet k x r => cr (c.setBt k ⟨⟨x, e.lab⟩, true, r, none⟩)
  | .btFetch k => cr (fetchBt c k)
  | .linkFault _ => s
  | .map i vb len so => cr { c with maps := c.maps.set i.toFin (some ⟨vb, len, so, false, true⟩) }
  | .subsOff m => cr { c with subs := c.subs.mapFinIdx (fun j x _ => if m.getLsbD j then ⟨0, 0, 0⟩ else x) }
  | .pri x => cr { c with run := c.run.map (fun r => { r with pri := x }) }
  | .unlock => (quadCores s.coreNo).foldl (fun s n => updCore s n (fun c => { c with locked := false })) s

/-- The order of effects: by due tick; within a tick a write of the flag register comes first, so that the flags of
every result of that tick are ORed into the written value (R80). -/
def Pend.rank (e : Pend) : Nat := 2 * e.due + (match e.eff with | .sysw n _ => if n = 0x801 then 0 else 1 | _ => 1)

/-- Insert by rank, keeping issue order within a rank (R28). -/
def insertDue (e : Pend) : List Pend → List Pend
  | [] => [e]
  | x :: xs => if e.rank < x.rank then e :: x :: xs else x :: insertDue e xs
/-- Effects in the order in which they take hold. -/
def byDue (l : List Pend) : List Pend := l.foldl (fun acc e => insertDue e acc) []

/-- Is the effect a landing that ends in a link fault (R144)? It writes nothing: the group of its tick traps. -/
def Pend.lost (e : Pend) : Bool := match e.eff with
  | .linkFault _ => true
  | _ => false

/-- The focused core's effects due at or before tick t take hold, in the order of `byDue`. A landing lost to a link fault
stays until its trap is taken (R144). -/
def landDue (t : Nat) (s : State) : State :=
  let now (e : Pend) : Bool := decide (e.due ≤ t) && !e.lost
  (byDue (s.core.pend.filter now)).foldl applyEff { s with core := { s.core with pend := s.core.pend.filter (fun e => !now e) } }

/-- The first landing in flight that was lost to a link fault, and the core without it (R144). -/
def firstLost (c : Core) : Option (Addr × Core) :=
  match (byDue (c.pend.filter Pend.lost)).head? with
  | some e => match e.eff with
    | .linkFault va => some (va, { c with pend := c.pend.erase e })
    | _ => none
  | none => none

/-- Run every effect in flight to its end without issue (R142, safe-point column). -/
def landAll (s : State) : State :=
  (byDue s.core.pend).foldl applyEff { s with core := { s.core with pend := [] } }

/-- Blocks not past their port tick reach the port at it (R284). -/
def portBlock (c : Core) (b : Block) : Core :=
  orFlags { c with portVal := ⟨b.x, b.lab⟩ } b.flags b.lab

def landBlocks (t : Nat) (c : Core) : Core :=
  (c.blocks.filter (fun b => decide (b.due ≤ t))).foldl portBlock
    { c with blocks := c.blocks.filter (fun b => !decide (b.due ≤ t)) }

/-! ## The machine-check log and the fault queue -/

/-- Append an event to the machine-check and fault log, or count it as lost (R521). -/
def mcAppend (s : State) (kind src own cause addr info : Nat) : State :=
  if (s.mcTail - s.mcHead).toNat < 1024 then
    { s with
      mcLog := insertKey (s.mcTail.toNat % 1024)
        (BitVec.ofNat 512 (kind + (src <<< 8) + (own <<< 16) + (cause <<< 32) + (nowNs s <<< 64) + (addr <<< 128) + (info <<< 192)))
        s.mcLog,
      mcTail := s.mcTail + 1 }
  else { s with mcLost := if s.mcLost = 0xFFFFFFFF then s.mcLost else s.mcLost + 1 }

def ownOf (part vf : Nat) : Nat := 32768 + (part <<< 9) + vf

/-- Post a suspended record (R34 step 4, R428): a U or H record to its partition's fault queue, an F record to the
machine-check and fault log. A refused record whose PRV is the reserved 3 goes to its partition's fault queue; the spec
names no place for it (DESIGN CHOICE, log 23). -/
def postRecord (s : State) (r : Running) (cause info : Nat) : State :=
  if r.prv = 2 then mcAppend s 4 0 (ownOf r.part r.vf) cause r.pa info
  else { s with posts := s.posts ++ [⟨r.part, r.pa, cause, s.coreNo⟩] }

/-! ## Stage rings -/

/-- The address of a stage's descriptor (R424); none when the partition has no such stage. -/
def stageDesc (s : State) (part stg : Nat) : Option Nat :=
  let p := partAt s part
  if p.stn.toNat ≤ stg then none else some (p.stb.toNat + 128 * stg)

/-- Add to a 4-byte counter of a stage descriptor, modulo 2^32. -/
def stageAdd (s : State) (part stg off delta : Nat) (l : Label := 0) : State :=
  match stageDesc s part stg with
  | none => s
  | some d => engWr s (d + off) 4 ((readPa s (d + off) 4 + delta) % 2 ^ 32) l

/-- Take one from a 4-byte counter of a stage descriptor that is not 0. -/
def stageSub (s : State) (part stg off : Nat) : State :=
  match stageDesc s part stg with
  | none => s
  | some d => if readPa s (d + off) 4 = 0 then s else stageAdd s part stg off (2 ^ 32 - 1)

/-- Append a record to a stage ring by the producer steps of R425; none when the ring is full. What a continuation appends
carries its label (R467). -/
def ringAppend (s : State) (part stg pa cause : Nat) (l : Label := 0) : Option State :=
  match stageDesc s part stg with
  | none => none
  | some d =>
    let base := readPa s d 9 % 2 ^ 56
    let cap := readPa s (d + 0x0C) 4
    let head := readPa s (d + 0x10) 4
    let tail := readPa s (d + 0x14) 4
    if cap = 0 ∨ (tail + 2 ^ 32 - head) % 2 ^ 32 ≥ cap then none
    else
      let s1 := engWr s (d + 0x14) 4 ((tail + 1) % 2 ^ 32) l
      let e := base + 16 * (tail % cap)
      some (engWr s1 e 16 (pa + (1 <<< 64) + (cause <<< 72)) l)

/-- The cores that run a record of partition p. -/
def runsIn (s : State) (p : Nat) : List Nat :=
  ((s.coreNo, s.core) :: s.others).filterMap (fun e => if e.2.run.isSome ∧ e.2.cont.part = p then some e.1 else none)

/-- The last running record of a quiescing partition has left its core: the partition is quiesced (R484). -/
def quiesceCheck (s : State) (p : Nat) : State :=
  let x := partAt s p
  if x.st = 2 ∧ runsIn s p = [] then setPart s p { x with st := 3 } else s

/-- A record has left its core: the dispatcher's count of its stage's running records falls (R424 RUN, R484). -/
def stageLeave (s : State) (r : Running) : State :=
  quiesceCheck (stageSub s r.part r.stg.toNat 0x1C) r.part

/-! ## Ready tables (R427) -/

def readyRoom (s : State) (die : Nat) : Bool := decide ((s.ready.filter (fun e => e.die == die)).length < 2048)
def readyAdd (s : State) (die part stg pa : Nat) : State := { s with ready := s.ready ++ [⟨die, part, stg, pa⟩] }

/-! ## Suspension -/

/-- The current tag context at a suspension (R201): kept with PIN when it holds a busy bit or an error, else freed. -/
def releaseCtx (c : Core) : Core × Bool :=
  let x := c.ctx
  if x.busy ≠ 0 ∨ x.terr ≠ 0 ∨ x.tasks ≠ 0 then (c, true)
  else (c.setCtx c.cur .free, false)

/-- The core after its continuation has left it: it remembers a record that its weight buffer pins (R295). -/
def leaveCore (c : Core) : Core :=
  { c with
    pinned := if c.mxPin then (c.cont.pa, c.cont.vf) :: c.pinned.filter (fun e => e.1 != c.cont.pa) else c.pinned,
    run := none, pend := [], blocks := [], locked := false, wantsLock := false, frozen := 0, spun := 0, waiting := false,
    spinW := none, portLive := false, portVal := ⟨0, 0⟩, blockEnd := 0, qsp := false,
    mxPin := false, abort := false, buf := none }

/-- Is the core port-live, and so its port's contents saved, at offset 1, before every other result (R294)? -/
def portShadows (c : Core) : List Shadow :=
  if c.portLive then zParts c 1 9 c.portVal.v (BitVec.allOnes 65536) c.portVal.l else []

/-- Insert a descriptor by offset, keeping issue order within an offset (R146). -/
def insertShadow (d : Shadow) : List Shadow → List Shadow
  | [] => [d]
  | x :: xs => if d.off < x.off then d :: x :: xs else x :: insertShadow d xs

/-- The descriptors of the effects in flight, those of a block at its place in issue order (R146, R294), each as it would
find the registers at its tick, after those before it (R142, R232). A lost landing of the present tick whose trap was not the one reported (R35) takes offset 1. -/
def pendShadows (s : State) : List Shadow :=
  ((byDue s.core.pend).foldl (fun (a : State × List Shadow) e =>
    (applyEff a.1 e, a.2 ++ shadowOf a.1.core (max 1 (min 255 (e.due - s.core.tick))) e.lab e.eff)) (s, [])).2

/-- What urgent suspension leaves of the continuation beside the state (R140 to R142): could its frame be written (R537), has
it saved results, is it pinned, its fields and its pc. -/
structure Saved where
  ok : Bool
  shadowed : Bool
  pin : Bool
  run : Running
  pc : Addr
  deriving DecidableEq, Repr

/-- Urgent suspension of the focused core's continuation up to its frame (R140 to R142). The frame header's INFO and ADDR are
copies of TR_INFO and TR_ADDR, which the trap has set by now (R23, R34). -/
def saveFrame (s : State) (cause ql : Nat) : State × Saved :=
  let s0 := { landDue s.core.tick s with core := landBlocks s.core.tick (landDue s.core.tick s).core }
  let c0 := s0.core
  let shadows := ((portShadows c0 ++ pendShadows s0).foldl (fun acc d => insertShadow d acc) []).take 96
  let s1 := (byDue (c0.pend.filter (fun e => !e.eff.isResult && (match e.eff with | .btFetch _ => false | _ => true)))).foldl applyEff
    { s0 with core := { c0 with pend := [] } }
  let c1 := s1.core
  let (c2, keep) := releaseCtx c1
  let hdr : Blk := ⟨0, 0x40, cause + (shadows.length <<< 16) + (c1.trInfo.toNat <<< 64) + (c1.trAddr.toNat <<< 128) + (c1.tick <<< 256) + (ql <<< 320), c1.cl⟩
  let blks := [hdr, fixedBlk c1, bindBlk c1] ++ allRegs.flatMap (regBlks c1)
    ++ (List.zipIdx shadows).flatMap (fun e => shadowBlks e.2 e.1)
  let (s2, ok) := frameWriteAll c1.who c0.cont.frm.toNat { s1 with core := c2 } blks
  (s2, ⟨ok, !shadows.isEmpty, c0.cont.pin || keep || c1.mxPin, { c0.cont with cl := c1.cl }, c0.pc⟩)

/-- Urgent suspension (R140 to R142): the record becomes suspended by fault, and is not posted; beside the state the cause to
post it with. `ql` is the next record of a quad-lock ring (R31). -/
def suspendQuiet (s : State) (cause ql : Nat) : State × Nat :=
  let (s2, f) := saveFrame s cause ql
  let s3 := writeRecord s2 f.run.pa (buildRecord s2 f.run f.pc.toNat 4 65535 0 0 0 f.shadowed f.pin)
  (stageLeave { s3 with core := leaveCore s3.core } f.run, if f.ok then cause else 0x14)

/-- Urgent suspension with its post (R34 step 4). -/
def urgentSuspend (s : State) (cause info ql : Nat) : State :=
  let (t, k) := suspendQuiet s cause ql
  postRecord t s.core.cont k info

/-- The trap registers of a core (R34). -/
def setTr (c : Core) (cause info addr : Nat) : Core :=
  { c with trCause := BitVec.ofNat 8 cause, trInfo := BitVec.ofNat 64 info, trAddr := BitVec.ofNat 72 addr }

/-- Take a trap (R34): set the TR registers of this core, drain urgently, write frame and record, post the record.
A trap in a quad-locked domain suspends all four continuations in a ring (R31); `rest` gives the cause, TR_INFO and
TR_ADDR of the others. QL of each record names that of the next core number, and is 0 before a core whose continuation has
retired (R31 speaks of four records; DESIGN CHOICE, log 23). Whether the companions with CAUSE 0x00 are posted is left open by R31 and R34: the model posts all
four records (DESIGN CHOICE, log 22). -/
def takeTraps (s : State) (cause info addr : Nat) (rest : Nat → Nat × Nat × Nat) : State :=
  let me := s.coreNo
  let s := if cause = 0xC then countRefusal s s.core.cont.part (BitVec.ofNat 32 (info >>> 32)) else s
  let s0 := if cause = 0 then s else { s with core := setTr s.core cause info addr }
  let s1 :=
    if s.core.locked then
      let recOf (n : Nat) : Nat := (coreAt s (me / 4 * 4 + (n + 1) % 4)).cont.pa
      focus ((List.range 4).foldl (fun t n =>
        let k := me / 4 * 4 + n
        let t1 := focus t k
        let (c, i, a) := if k = me then (cause, info, addr) else rest k
        if t1.core.run.isNone then t1
        else urgentSuspend (if c = 0 then t1 else { t1 with core := setTr t1.core c i a }) c i (recOf n)) s0) me
    else urgentSuspend s0 cause info 0
  { s1 with core := { s1.core with mark := .trapped cause info addr } }

/-- A trap that one continuation raises: the others of its domain are suspended with cause 0x00 (R31). -/
def takeTrap (s : State) (cause info addr : Nat) : State := takeTraps s cause info addr (fun _ => (0, 0, 0))

/-- The address of a code window's live-state table and its entry count (R90): from the half that holds the address,
else from memory, where it must be readable (R537); or the reason and address of failure. -/
def windowHeader (s : State) (pc : Addr) : Except (Nat × Nat) (Nat × Nat) :=
  match halfOf s.core pc with
  | some n => let h := getN (s.core.half n).bytes 0 11
    .ok (h % 2 ^ 72, h >>> 72)
  | none =>
    let va := pc.toNat / 65536 * 65536
    match translate s va s.core.cont.vf s.core.cont.part s.core.cont.prv 16 .code with
    | .ok (x, _) => let h := readPa s x.pa 11
      if reaches s (dieNo s) x.pa 11 then .ok (h % 2 ^ 72, h >>> 72) else .error (0, va)
    | .error e => .error (e.reason, va)

/-- Live-state entry n of the window that holds pc (R90, R537): the entry, or the reason and address of failure. An entry that
a poisoned line or a failed link hides cannot be read, and R537 says what follows (DEDUCED, log 23). Where the header names no table,
or the table no such entry, the failing address is the table's (DESIGN CHOICE, log 23). -/
def liveEntry (s : State) (pc : Addr) (n : Nat) : Except (Nat × Nat) Nat :=
  match windowHeader s pc with
  | .error e => .error e
  | .ok (tab, cnt) =>
    if tab = 0 ∨ cnt ≤ n then .error (0, tab)
    else
      let va := (tab + 32 * n) % 2 ^ 72
      match translate s va s.core.cont.vf s.core.cont.part s.core.cont.prv 32 .read with
      | .ok (x, _) => if reaches s (dieNo s) x.pa 32 then .ok (readPa s x.pa 32) else .error (0, va)
      | .error e => .error (e.reason, va)

/-- The A bits that reading live-state entry n sets (R153). -/
def liveMark (s : State) (pc : Addr) (n : Nat) : State :=
  let mark (t : State) (va size : Nat) (k : Kind) : State :=
    match translateMark t va t.core.cont.vf t.core.cont.part t.core.cont.prv size k with
    | .ok (u, _) => u
    | .error _ => t
  let s1 := if (halfOf s.core pc).isSome then s else mark s (pc.toNat / 65536 * 65536) 16 .code
  match windowHeader s1 pc with
  | .ok (tab, cnt) => if tab = 0 ∨ cnt ≤ n then s1 else mark s1 ((tab + 32 * n) % 2 ^ 72) 32 .read
  | .error _ => s1

/-- Does a tag wait's condition hold on a context (R18, R117): all of the mask, or any of it? -/
def tagsMet (x : TagCtx) (arg m : Nat) : Bool :=
  let w : Word := BitVec.ofNat 64 m
  if arg % 4 = 1 then x.tags.v &&& w == w else x.tags.v &&& w != 0

/-- The frame header of a suspension that becomes one by fault because its frame could not be written (R23, R537): cause 0x14, and
INFO and ADDR copies of TR_INFO and TR_ADDR, which a suspension that is no trap leaves as they are (R34; DEDUCED, log 22). -/
def failHeader (c : Core) : Blk :=
  ⟨0, 0x40, 0x14 + (c.trInfo.toNat <<< 64) + (c.trAddr.toNat <<< 128) + (c.tick <<< 256), c.cl⟩

/-- A safe-point suspension once nothing in flight is lost: everything in flight is finished, the listed registers are
saved, and the record goes to state st. A tag wait whose condition holds by then goes straight to ready (R21), or is held
back while the ready table is full (R427). A frame write that fails makes the suspension one by fault (R537), which writes
the header (R23). -/
def leaveSafely (s : State) (rpc : Addr) (spx : BitVec 16) (st wk warg wobj : Nat) (pin : Bool) : State :=
  let s0 := landAll s
  let s1 := liveMark { s0 with core := { landBlocks (s0.core.tick + 200) s0.core with pend := [] } } rpc spx.toNat
  let c1 := s1.core
  let r := c1.cont
  let (c2, keep) := releaseCtx c1
  let (regs, spx') := match liveEntry s1 rpc spx.toNat with
    | .ok e => (((allRegs.filter (fun (n : RegName) => bit e n.liveBit)).map (RegName.phys c1)).filter
        (fun (n : RegName) => !(c1.mxPool.getLsbD 15 && n.isZ)), spx.toNat)
    | .error _ => (allRegs, 65535)
  let met := st == 3 && wk == 2 && tagsMet c1.ctx warg wobj
  let (s2, ok) := frameWriteAll c1.who r.frm.toNat { s1 with core := c2 } ([fixedBlk c1, bindBlk c1] ++ regs.flatMap (regBlks c1))
  let sh := if ok then s2 else (frameWrite c1.who r.frm.toNat (s2, true) (failHeader c1)).1
  let st' := if ¬ok then 4 else if met ∧ readyRoom s2 (dieNo s2) then 1 else st
  let on (x : Nat) : Nat := if st' = 3 then x else 0
  let rec0 := buildRecord sh { r with cl := c1.cl } rpc.toNat st' spx' (on wk) (on warg) (on wobj) false
    (r.pin || pin || keep || c1.mxPin)
  let s3 := writeRecord sh r.pa rec0
  let s4 := stageLeave { s3 with
    core := { leaveCore s3.core with mark := .left }, parked := if st' = 3 then s3.parked ++ [r.pa] else s3.parked,
    admits := if met ∧ st' = 3 then r.pa :: s3.admits else s3.admits } r
  if ¬ok then postRecord s4 r 0x14 0
  else if st' = 1 then readyAdd s4 (dieNo s4) r.part r.stg.toNat r.pa
  else s4

/-- Safe-point suspension (R140 to R142, R537). A landing in flight that was lost to a link fault can neither be written
(R22) nor be saved at a safe point (R140): its link fault is taken instead (DESIGN CHOICE, log 22). -/
def safeSuspend (s : State) (rpc : Addr) (spx : BitVec 16) (st wk warg wobj : Nat) (pin : Bool) : State :=
  match firstLost s.core with
  | some (va, c) => takeTrap { s with core := c } 0x13 0 va.toNat
  | none => leaveSafely s rpc spx st wk warg wobj pin

/-! ## How a word ends -/

/-- Why a word does not issue. -/
inductive Stop where
  /-- It raises a trap: cause, TR_INFO, TR_ADDR (R34 to R36). -/
  | trap (c info addr : Nat)
  /-- Its group is held this cycle by a resource (R26) or a controller that has not answered. -/
  | hold
  /-- Its group is held by a wait, a fence or qlock (R122, R135). -/
  | wait
  /-- A `.s` wait is held, and may suspend with this WK, WARG, WOBJ (R122). -/
  | spin (wk warg wobj : Nat)
  /-- A wait on an object is held, in the state that its walk leaves (R153), and may suspend as a `.s` wait. -/
  | look (t : State) (spin : Option (Nat × Nat × Nat))
  /-- A qlock is held until the whole quad holds one (R128). -/
  | lock
  /-- A tag wait observes failed commands: copy fault, the CP_TERR bits e and the fault registers cleared (R203). -/
  | copyFault (e : Word)
  /-- The sub-arrays are not on: the hold wakes those that are off (R283). -/
  | wake
  /-- Every core of the locked quad raises a trap (R291): core, cause, TR_INFO, TR_ADDR. -/
  | quadTrap (l : List (Nat × (Nat × Nat × Nat)))
  deriving DecidableEq, Repr

abbrev Act := Except Stop State

def setMark (s : State) (m : Mark) : State := { s with core := { s.core with mark := m } }

/-- The state after one cycle of a hold: no tick counts, the freeze is one cycle longer (R27), and so is that of a `.s` wait
that holds the group (R122). -/
def heldOne (s : State) (wait : Bool) (spin : Option (Nat × Nat × Nat)) : State :=
  { s with core := { s.core with mark := .held, frozen := s.core.frozen + 1, spun := s.core.spun + b2n spin.isSome, waiting := wait, spinW := spin } }

/-- A `.s` wait that has frozen CP_SPIN cycles suspends at the safe point of its group, unless its domain is
quad-locked (R122, R129). PIN is set for a tag wait. -/
def spinSuspend (s : State) : Option State :=
  match s.core.spinW, s.core.grp.safe with
  | some (wk, warg, wobj), some n =>
    if s.core.cpSpin.toNat ≤ s.core.spun ∧ ¬s.core.locked then some (safeSuspend s s.core.pc n 3 wk warg wobj (wk == 2))
    else none
  | _, _ => none

/-- A sub-array starts waking unless it is on or waking already; n cycles of the arithmetic clock (R283). -/
def startWake (n : Nat) (x : SubArr) : SubArr := if x.pw = 0 then ⟨1, n, 0⟩ else x

/-- A `.s` wait that holds its group, or suspends (R122). -/
def spinIn (s : State) (w : Nat × Nat × Nat) : State :=
  let t := { s with core := { s.core with spinW := some w } }
  (spinSuspend t).getD (heldOne t true (some w))

/-- Turn an action into the outcome of its word. -/
def settle (s : State) : Act → Host.Outcome State Fault Refusal
  | .ok t => .next t
  | .error (.trap c info addr) => .next (takeTrap s c info addr)
  | .error .hold => .next (heldOne s false none)
  | .error .wait => .next (heldOne s true none)
  | .error .wake =>
    let t := heldOne s false none
    .next { t with core := { t.core with subs := t.core.subs.map (startWake s.core.mxWake.toNat) } }
  | .error (.quadTrap l) =>
    let get (n : Nat) : Nat × Nat × Nat := (lookup l n).getD (0, 0, 0)
    let (c, i, a) := get s.coreNo
    .next (takeTraps s c i a get)
  | .error .lock => .next (heldOne { s with core := { s.core with wantsLock := true } } true none)
  | .error (.spin wk warg wobj) => .next (spinIn s (wk, warg, wobj))
  | .error (.look t none) => .next (heldOne t true none)
  | .error (.look t (some w)) => .next (spinIn t w)
  | .error (.copyFault e) =>
    let x := s.core.ctx
    .next (takeTrap { s with core := s.core.setCtx s.core.cur { x with terr := x.terr &&& ~~~e, finfo := 0, faddr := 0 } }
      0xF x.finfo.toNat x.faddr.toNat)

/-- TR_INFO of an illegal instruction (R135): the word and the sub-reason, with a chapter's code above it. -/
def illegalInfo (s : State) (sub code : Nat) : Nat := s.core.grp.raw.toNat + (sub <<< 32) + (code <<< 40)
def illegal (s : State) (sub : Nat := 0) (code : Nat := 0) : Stop := .trap 2 (illegalInfo s sub code) s.core.grp.word.toNat
def privileged (s : State) (num : Nat := 0) : Stop := .trap 3 (s.core.grp.raw.toNat + (num <<< 32)) s.core.grp.word.toNat

/-- TR_INFO of a memory cause (R135, R157, R191, R468, R472): log2 of the size, store, atomic, preparation. -/
def accInfo (sz : Nat) (st am pr : Bool) : Nat := log2 sz + (b2n st <<< 4) + (b2n am <<< 5) + (b2n pr <<< 6)

/-- The trap that a failing access raises, or its hold. TR_INFO of a stash map fault holds the reason (R191, R197); of the words whose
rule states bits 3:0 for each cause it holds the size (sizedStop, log 24). -/
def accStop (s : State) (e : AErr) (va sz : Nat) (st am : Bool) : Stop :=
  let i := accInfo sz st am false
  match e with
  | .mis => .trap 5 i va
  | .xlat f => if f.cause = 0x15 then .trap 0x15 0 f.pa else .trap f.cause (i + (f.lvl <<< 8) + (f.reason <<< 11) + (s.core.cont.vf <<< 16)) va
  | .label miss => .trap 8 (i + (miss.toNat <<< 32)) va
  | .stash r => .trap 0xE r va
  | .gate r l dst => .trap 0xC (r + (l.toNat <<< 32)) dst
  | .poison pa => .trap 0x15 0 pa
  | .held => .hold
  | .link => .trap 0x13 0 va

/-- The machine check of a word that follows a pointer of the machine's own into memory (a stage descriptor, a ring, a pool slot, a
graph, a record, a tree's entry and lists) and finds one of these byte ranges poisoned (R176, R503). -/
def hurtStop (t : State) (l : List (Nat × Nat)) : Option Stop :=
  l.findSome? (fun p => (poisonIn t p.1 p.2).map (fun a => .trap 0x15 0 (max p.1 a)))

/-- Go on with a word whose structures can be read. -/
def unhurt {α : Type} (t : State) (l : List (Nat × Nat)) (k : Except Stop α) : Except Stop α :=
  match hurtStop t l with
  | some e => .error e
  | none => k

/-! ## Returning a record to service -/

/-- Put a record of a stage at the tail of its queue with state 1 (R127): status 0, or full (1). A record whose STG names
no stage of its partition answers full, as no entry is free; the spec names no status for it (DESIGN CHOICE, log 23). -/
def returnRecord (s : State) (pa r : Nat) : State × Nat :=
  match ringAppend s (bits (rf r 0x1B 2) 12 9) (rf r 0x29 2) pa 0 with
  | none => (s, 1)
  | some s1 => (writeRecord s1 pa (setSt r 1 0 0 0), 0)

end Sys2Proof.Machine
end

