-- ==== Sys2Proof/Machine/Operands.lean ====
section
/-! DEFINITION. How a word meets its operands: slots, the registers of R43, the labels that join the context label
(R466), predicates (R44), and the one way every tile word is run. -/
namespace Sys2Proof.Machine

/-- The predicates a compare writes (R53): its pair, or the even one alone under `.one`. -/
def cmpWr (ct k : BitVec 3) : List RegName :=
  if ct = 7 then [.p (k.setWidth 4 * 2)] else [.p (k.setWidth 4 * 2), .p (k.setWidth 4 * 2 + 1)]
/-- A `.flip` compare also reads its pair (R53). -/
def cmpRd (ct k : BitVec 3) : List RegName :=
  if ct = 6 then [.p (k.setWidth 4 * 2), .p (k.setWidth 4 * 2 + 1)] else []
/-- The g-registers a nest reads: trip counts, generator control, strides (R112). -/
def nestRegs (g : BitVec 6) (d : BitVec 3) : List RegName :=
  (List.range (5 * d.toNat + 1)).map (fun i => .g (g + BitVec.ofNat 6 i))

/-- The trip counts a nest reads when it starts (R113). -/
def tripRegs (g : BitVec 6) (d : BitVec 3) : List RegName := (List.range d.toNat).map (fun i => .g (g + BitVec.ofNat 6 i))

/-- Writes of s0, p0, p1 and m0 are discarded and count as none (R43). -/
def RegName.isConst : RegName → Bool
  | .s i => i == 0
  | .p i => decide (i < 2)
  | .m i => i == 0
  | _ => false

/-- The label of a register as a word reads it. -/
def labelOf (c : Core) : RegName → Label
  | .s i => (c.rdS i).l
  | .a i => (c.rdA i).l
  | .p i => (c.rdP i).l
  | .v i => (c.rdV i).l
  | .m i => (c.rdM i).l
  | .bt i => (c.rdBt i).addr.l
  | .tags => c.ctx.tags.l
  | .b i => (c.rdB i).l
  | .g i => (c.rdG i).l
  | .z i => (c.rdZ i).l

/-- The label a result takes from the registers a word reads (R38, R91), the context label included. -/
def readLabel (c : Core) (rs : List RegName) : Label := orAll (rs.map (labelOf c)) ||| c.cl

/-- The labels that join the context label when the word issues, whatever its predicate (R466). -/
def joinLabel (c : Core) (i : Info) : Label :=
  (if i.qp = 0 then 0 else (c.rdP i.qp).l) ||| orAll (i.cx.map (labelOf c))

/-- Is the word's qualifying predicate true (R44)? -/
def predOn (c : Core) (i : Info) : Bool := (c.rdP i.qp).v == 1

/-- A word whose privilege does not suffice traps; an illegal instruction that it raises under a true predicate has the lower
code and is the one reported (R35). -/
def unprivileged (s : State) (a : Act) : Stop :=
  match a with
  | .error (.trap c info addr) => if c = 2 then .trap c info addr else privileged s
  | _ => privileged s

/-- Run a tile word: raise what follows from the word and the privilege alone (`chk`, then the minor's privilege, R44,
R46, R50), join the context label (R466), and act when its predicate is true (R44). `act` sees the state with the label
joined. -/
def tileChk (i : Info) (chk : Option Stop) (s : State) (act : State → Act) : Host.Outcome State Fault Refusal :=
  match chk with
  | some e => settle s (.error e)
  | none =>
    if s.core.cont.prv < i.prv then
      settle s (.error (if predOn s.core i then unprivileged s (act { s with core := s.core.joinCl (joinLabel s.core i) }) else privileged s))
    else
      let t := { s with core := s.core.joinCl (joinLabel s.core i) }
      if predOn s.core i then settle s (act t) else .next t

def tile (i : Info) (wf : Bool) (s : State) (act : State → Act) : Host.Outcome State Fault Refusal :=
  tileChk i (if wf then none else some (illegal s)) s act

/-- As `tile`, for a word that also acts under a false predicate (compares of type clr, R53). -/
def tileAlways (i : Info) (s : State) (act : Bool → State → Act) : Host.Outcome State Fault Refusal :=
  if s.core.cont.prv < i.prv then settle s (.error (privileged s))
  else settle s (act (predOn s.core i) { s with core := s.core.joinCl (joinLabel s.core i) })

/-- Write a scalar result n ticks after issue, labelled with the registers read and the context (R91, R94). -/
def resultS (s : State) (i : Info) (d : BitVec 5) (n : Nat) (x : Word) : State := push s n (.s d x) (readLabel s.core i.rd)
def resultA (s : State) (i : Info) (d : BitVec 4) (x : Addr) : State := push s 1 (.a d x) (readLabel s.core i.rd)

end Sys2Proof.Machine
end

