-- ==== Sys2Proof/Machine/Infos.lean ====
section
/-! DEFINITION. What each word reads and writes (R43), what joins the context label when it issues (R466), its slot
(R32), its minimum privilege (R50, R123, R339) and when it retires (R120). -/
namespace Sys2Proof.Machine

def infoAdd (q : BitVec 4) (d : BitVec 5) (a : BitVec 5) (b : BitVec 5) : Info :=
  { cls := .s, qp := q, prv := 0, rd := [.s a, .s b], wr := [.s d], cx := [], ret := .after 1 }
def infoSub (q : BitVec 4) (d : BitVec 5) (a : BitVec 5) (b : BitVec 5) : Info :=
  { cls := .s, qp := q, prv := 0, rd := [.s a, .s b], wr := [.s d], cx := [], ret := .after 1 }
def infoMul (q : BitVec 4) (d : BitVec 5) (a : BitVec 5) (b : BitVec 5) : Info :=
  { cls := .s, qp := q, prv := 0, rd := [.s a, .s b], wr := [.s d], cx := [], ret := .after 3 }
def infoMulh (q : BitVec 4) (d : BitVec 5) (a : BitVec 5) (b : BitVec 5) : Info :=
  { cls := .s, qp := q, prv := 0, rd := [.s a, .s b], wr := [.s d], cx := [], ret := .after 4 }
def infoMulhn (q : BitVec 4) (d : BitVec 5) (a : BitVec 5) (b : BitVec 5) : Info :=
  { cls := .s, qp := q, prv := 0, rd := [.s a, .s b], wr := [.s d], cx := [], ret := .after 4 }
def infoDiv (q : BitVec 4) (d : BitVec 5) (a : BitVec 5) (b : BitVec 5) : Info :=
  { cls := .s, qp := q, prv := 0, rd := [.s a, .s b], wr := [.s d], cx := [], ret := .after 18 }
def infoDivn (q : BitVec 4) (d : BitVec 5) (a : BitVec 5) (b : BitVec 5) : Info :=
  { cls := .s, qp := q, prv := 0, rd := [.s a, .s b], wr := [.s d], cx := [], ret := .after 18 }
def infoRem (q : BitVec 4) (d : BitVec 5) (a : BitVec 5) (b : BitVec 5) : Info :=
  { cls := .s, qp := q, prv := 0, rd := [.s a, .s b], wr := [.s d], cx := [], ret := .after 18 }
def infoRemn (q : BitVec 4) (d : BitVec 5) (a : BitVec 5) (b : BitVec 5) : Info :=
  { cls := .s, qp := q, prv := 0, rd := [.s a, .s b], wr := [.s d], cx := [], ret := .after 18 }
def infoAnd (q : BitVec 4) (d : BitVec 5) (a : BitVec 5) (b : BitVec 5) : Info :=
  { cls := .s, qp := q, prv := 0, rd := [.s a, .s b], wr := [.s d], cx := [], ret := .after 1 }
def infoOr (q : BitVec 4) (d : BitVec 5) (a : BitVec 5) (b : BitVec 5) : Info :=
  { cls := .s, qp := q, prv := 0, rd := [.s a, .s b], wr := [.s d], cx := [], ret := .after 1 }
def infoXor (q : BitVec 4) (d : BitVec 5) (a : BitVec 5) (b : BitVec 5) : Info :=
  { cls := .s, qp := q, prv := 0, rd := [.s a, .s b], wr := [.s d], cx := [], ret := .after 1 }
def infoAndn (q : BitVec 4) (d : BitVec 5) (a : BitVec 5) (b : BitVec 5) : Info :=
  { cls := .s, qp := q, prv := 0, rd := [.s a, .s b], wr := [.s d], cx := [], ret := .after 1 }
def infoShl (q : BitVec 4) (d : BitVec 5) (a : BitVec 5) (b : BitVec 5) : Info :=
  { cls := .s, qp := q, prv := 0, rd := [.s a, .s b], wr := [.s d], cx := [], ret := .after 1 }
def infoShr (q : BitVec 4) (d : BitVec 5) (a : BitVec 5) (b : BitVec 5) : Info :=
  { cls := .s, qp := q, prv := 0, rd := [.s a, .s b], wr := [.s d], cx := [], ret := .after 1 }
def infoSar (q : BitVec 4) (d : BitVec 5) (a : BitVec 5) (b : BitVec 5) : Info :=
  { cls := .s, qp := q, prv := 0, rd := [.s a, .s b], wr := [.s d], cx := [], ret := .after 1 }
def infoMin (q : BitVec 4) (d : BitVec 5) (a : BitVec 5) (b : BitVec 5) : Info :=
  { cls := .s, qp := q, prv := 0, rd := [.s a, .s b], wr := [.s d], cx := [], ret := .after 1 }
def infoMax (q : BitVec 4) (d : BitVec 5) (a : BitVec 5) (b : BitVec 5) : Info :=
  { cls := .s, qp := q, prv := 0, rd := [.s a, .s b], wr := [.s d], cx := [], ret := .after 1 }
def infoMinn (q : BitVec 4) (d : BitVec 5) (a : BitVec 5) (b : BitVec 5) : Info :=
  { cls := .s, qp := q, prv := 0, rd := [.s a, .s b], wr := [.s d], cx := [], ret := .after 1 }
def infoMaxn (q : BitVec 4) (d : BitVec 5) (a : BitVec 5) (b : BitVec 5) : Info :=
  { cls := .s, qp := q, prv := 0, rd := [.s a, .s b], wr := [.s d], cx := [], ret := .after 1 }
def infoClz (q : BitVec 4) (d : BitVec 5) (a : BitVec 5) : Info :=
  { cls := .s, qp := q, prv := 0, rd := [.s a], wr := [.s d], cx := [], ret := .after 1 }
def infoCtz (q : BitVec 4) (d : BitVec 5) (a : BitVec 5) : Info :=
  { cls := .s, qp := q, prv := 0, rd := [.s a], wr := [.s d], cx := [], ret := .after 1 }
def infoPopc (q : BitVec 4) (d : BitVec 5) (a : BitVec 5) : Info :=
  { cls := .s, qp := q, prv := 0, rd := [.s a], wr := [.s d], cx := [], ret := .after 1 }
def infoRotl (q : BitVec 4) (d : BitVec 5) (a : BitVec 5) (b : BitVec 5) : Info :=
  { cls := .s, qp := q, prv := 0, rd := [.s a, .s b], wr := [.s d], cx := [], ret := .after 1 }
def infoAddi (q : BitVec 4) (d : BitVec 5) (a : BitVec 5) (_i : BitVec 9) : Info :=
  { cls := .s, qp := q, prv := 0, rd := [.s a], wr := [.s d], cx := [], ret := .after 1 }
def infoAndi (q : BitVec 4) (d : BitVec 5) (a : BitVec 5) (_i : BitVec 9) : Info :=
  { cls := .s, qp := q, prv := 0, rd := [.s a], wr := [.s d], cx := [], ret := .after 1 }
def infoOri (q : BitVec 4) (d : BitVec 5) (a : BitVec 5) (_i : BitVec 9) : Info :=
  { cls := .s, qp := q, prv := 0, rd := [.s a], wr := [.s d], cx := [], ret := .after 1 }
def infoXori (q : BitVec 4) (d : BitVec 5) (a : BitVec 5) (_i : BitVec 9) : Info :=
  { cls := .s, qp := q, prv := 0, rd := [.s a], wr := [.s d], cx := [], ret := .after 1 }
def infoShli (q : BitVec 4) (d : BitVec 5) (a : BitVec 5) (_i : BitVec 6) : Info :=
  { cls := .s, qp := q, prv := 0, rd := [.s a], wr := [.s d], cx := [], ret := .after 1 }
def infoShri (q : BitVec 4) (d : BitVec 5) (a : BitVec 5) (_i : BitVec 6) : Info :=
  { cls := .s, qp := q, prv := 0, rd := [.s a], wr := [.s d], cx := [], ret := .after 1 }
def infoSari (q : BitVec 4) (d : BitVec 5) (a : BitVec 5) (_i : BitVec 6) : Info :=
  { cls := .s, qp := q, prv := 0, rd := [.s a], wr := [.s d], cx := [], ret := .after 1 }
def infoMuli (q : BitVec 4) (d : BitVec 5) (a : BitVec 5) (_i : BitVec 9) : Info :=
  { cls := .s, qp := q, prv := 0, rd := [.s a], wr := [.s d], cx := [], ret := .after 3 }
def infoLi (q : BitVec 4) (d : BitVec 5) (_i : BitVec 15) : Info :=
  { cls := .s, qp := q, prv := 0, rd := [], wr := [.s d], cx := [], ret := .after 1 }
def infoLic (q : BitVec 4) (d : BitVec 5) (_i : BitVec 15) : Info :=
  { cls := .s, qp := q, prv := 0, rd := [.s d], wr := [.s d], cx := [], ret := .after 1 }
def infoCmpEq (q : BitVec 4) (c : BitVec 3) (k : BitVec 3) (a : BitVec 5) (b : BitVec 5) : Info :=
  { cls := .s, qp := q, prv := 0, rd := [.s a, .s b] ++ cmpRd c k, wr := cmpWr c k, cx := [], ret := .after 1 }
def infoCmpNe (q : BitVec 4) (c : BitVec 3) (k : BitVec 3) (a : BitVec 5) (b : BitVec 5) : Info :=
  { cls := .s, qp := q, prv := 0, rd := [.s a, .s b] ++ cmpRd c k, wr := cmpWr c k, cx := [], ret := .after 1 }
def infoCmpLt (q : BitVec 4) (c : BitVec 3) (k : BitVec 3) (a : BitVec 5) (b : BitVec 5) : Info :=
  { cls := .s, qp := q, prv := 0, rd := [.s a, .s b] ++ cmpRd c k, wr := cmpWr c k, cx := [], ret := .after 1 }
def infoCmpGe (q : BitVec 4) (c : BitVec 3) (k : BitVec 3) (a : BitVec 5) (b : BitVec 5) : Info :=
  { cls := .s, qp := q, prv := 0, rd := [.s a, .s b] ++ cmpRd c k, wr := cmpWr c k, cx := [], ret := .after 1 }
def infoCmpLtn (q : BitVec 4) (c : BitVec 3) (k : BitVec 3) (a : BitVec 5) (b : BitVec 5) : Info :=
  { cls := .s, qp := q, prv := 0, rd := [.s a, .s b] ++ cmpRd c k, wr := cmpWr c k, cx := [], ret := .after 1 }
def infoCmpGen (q : BitVec 4) (c : BitVec 3) (k : BitVec 3) (a : BitVec 5) (b : BitVec 5) : Info :=
  { cls := .s, qp := q, prv := 0, rd := [.s a, .s b] ++ cmpRd c k, wr := cmpWr c k, cx := [], ret := .after 1 }
def infoCmpTand (q : BitVec 4) (c : BitVec 3) (k : BitVec 3) (a : BitVec 5) (b : BitVec 5) : Info :=
  { cls := .s, qp := q, prv := 0, rd := [.s a, .s b] ++ cmpRd c k, wr := cmpWr c k, cx := [], ret := .after 1 }
def infoCmpTnand (q : BitVec 4) (c : BitVec 3) (k : BitVec 3) (a : BitVec 5) (b : BitVec 5) : Info :=
  { cls := .s, qp := q, prv := 0, rd := [.s a, .s b] ++ cmpRd c k, wr := cmpWr c k, cx := [], ret := .after 1 }
def infoCmpiEq (q : BitVec 4) (c : BitVec 3) (k : BitVec 3) (a : BitVec 5) (_i : BitVec 8) : Info :=
  { cls := .s, qp := q, prv := 0, rd := [.s a] ++ cmpRd c k, wr := cmpWr c k, cx := [], ret := .after 1 }
def infoCmpiNe (q : BitVec 4) (c : BitVec 3) (k : BitVec 3) (a : BitVec 5) (_i : BitVec 8) : Info :=
  { cls := .s, qp := q, prv := 0, rd := [.s a] ++ cmpRd c k, wr := cmpWr c k, cx := [], ret := .after 1 }
def infoCmpiLt (q : BitVec 4) (c : BitVec 3) (k : BitVec 3) (a : BitVec 5) (_i : BitVec 8) : Info :=
  { cls := .s, qp := q, prv := 0, rd := [.s a] ++ cmpRd c k, wr := cmpWr c k, cx := [], ret := .after 1 }
def infoCmpiGe (q : BitVec 4) (c : BitVec 3) (k : BitVec 3) (a : BitVec 5) (_i : BitVec 8) : Info :=
  { cls := .s, qp := q, prv := 0, rd := [.s a] ++ cmpRd c k, wr := cmpWr c k, cx := [], ret := .after 1 }
def infoCmpiLtn (q : BitVec 4) (c : BitVec 3) (k : BitVec 3) (a : BitVec 5) (_i : BitVec 8) : Info :=
  { cls := .s, qp := q, prv := 0, rd := [.s a] ++ cmpRd c k, wr := cmpWr c k, cx := [], ret := .after 1 }
def infoCmpiGen (q : BitVec 4) (c : BitVec 3) (k : BitVec 3) (a : BitVec 5) (_i : BitVec 8) : Info :=
  { cls := .s, qp := q, prv := 0, rd := [.s a] ++ cmpRd c k, wr := cmpWr c k, cx := [], ret := .after 1 }
def infoCmpiTbit (q : BitVec 4) (c : BitVec 3) (k : BitVec 3) (a : BitVec 5) (_i : BitVec 6) : Info :=
  { cls := .s, qp := q, prv := 0, rd := [.s a] ++ cmpRd c k, wr := cmpWr c k, cx := [], ret := .after 1 }
def infoCmpiTnbit (q : BitVec 4) (c : BitVec 3) (k : BitVec 3) (a : BitVec 5) (_i : BitVec 6) : Info :=
  { cls := .s, qp := q, prv := 0, rd := [.s a] ++ cmpRd c k, wr := cmpWr c k, cx := [], ret := .after 1 }
def infoAadd (q : BitVec 4) (d : BitVec 4) (a : BitVec 4) (b : BitVec 5) : Info :=
  { cls := .a, qp := q, prv := 0, rd := [.a a, .s b], wr := [.a d], cx := [], ret := .after 1 }
def infoAaddi (q : BitVec 4) (d : BitVec 4) (a : BitVec 4) (_i : BitVec 10) : Info :=
  { cls := .a, qp := q, prv := 0, rd := [.a a], wr := [.a d], cx := [], ret := .after 1 }
def infoAsub (q : BitVec 4) (d : BitVec 5) (a : BitVec 4) (b : BitVec 4) : Info :=
  { cls := .a, qp := q, prv := 0, rd := [.a a, .a b], wr := [.s d], cx := [], ret := .after 1 }
def infoAset (q : BitVec 4) (d : BitVec 4) (b : BitVec 5) : Info :=
  { cls := .a, qp := q, prv := 0, rd := [.s b], wr := [.a d], cx := [], ret := .after 1 }
def infoAhi (q : BitVec 4) (d : BitVec 4) (_i : BitVec 8) : Info :=
  { cls := .a, qp := q, prv := 0, rd := [.a d], wr := [.a d], cx := [], ret := .after 1 }
def infoAalign (q : BitVec 4) (d : BitVec 4) (a : BitVec 4) (_n : BitVec 6) : Info :=
  { cls := .a, qp := q, prv := 0, rd := [.a a], wr := [.a d], cx := [], ret := .after 1 }
def infoAget (q : BitVec 4) (d : BitVec 5) (a : BitVec 4) (_h : BitVec 1) : Info :=
  { cls := .a, qp := q, prv := 0, rd := [.a a], wr := [.s d], cx := [], ret := .after 1 }
def infoLdI8 (q : BitVec 4) (d : BitVec 5) (a : BitVec 4) (l : BitVec 5) (_i : BitVec 5) : Info :=
  { cls := .a, qp := q, prv := 0, rd := [.a a], wr := [.s d], cx := [.a a], ret := .land l }
def infoLdI16 (q : BitVec 4) (d : BitVec 5) (a : BitVec 4) (l : BitVec 5) (_i : BitVec 5) : Info :=
  { cls := .a, qp := q, prv := 0, rd := [.a a], wr := [.s d], cx := [.a a], ret := .land l }
def infoLdI32 (q : BitVec 4) (d : BitVec 5) (a : BitVec 4) (l : BitVec 5) (_i : BitVec 5) : Info :=
  { cls := .a, qp := q, prv := 0, rd := [.a a], wr := [.s d], cx := [.a a], ret := .land l }
def infoLdD (q : BitVec 4) (d : BitVec 5) (a : BitVec 4) (l : BitVec 5) (_i : BitVec 5) : Info :=
  { cls := .a, qp := q, prv := 0, rd := [.a a], wr := [.s d], cx := [.a a], ret := .land l }
def infoLdN8 (q : BitVec 4) (d : BitVec 5) (a : BitVec 4) (l : BitVec 5) (_i : BitVec 5) : Info :=
  { cls := .a, qp := q, prv := 0, rd := [.a a], wr := [.s d], cx := [.a a], ret := .land l }
def infoLdN16 (q : BitVec 4) (d : BitVec 5) (a : BitVec 4) (l : BitVec 5) (_i : BitVec 5) : Info :=
  { cls := .a, qp := q, prv := 0, rd := [.a a], wr := [.s d], cx := [.a a], ret := .land l }
def infoLdN32 (q : BitVec 4) (d : BitVec 5) (a : BitVec 4) (l : BitVec 5) (_i : BitVec 5) : Info :=
  { cls := .a, qp := q, prv := 0, rd := [.a a], wr := [.s d], cx := [.a a], ret := .land l }
def infoStB (q : BitVec 4) (v : BitVec 5) (a : BitVec 4) (_i : BitVec 10) : Info :=
  { cls := .a, qp := q, prv := 0, rd := [.s v, .a a], wr := [], cx := [.a a], ret := .store 1 }
def infoStH (q : BitVec 4) (v : BitVec 5) (a : BitVec 4) (_i : BitVec 10) : Info :=
  { cls := .a, qp := q, prv := 0, rd := [.s v, .a a], wr := [], cx := [.a a], ret := .store 1 }
def infoStW (q : BitVec 4) (v : BitVec 5) (a : BitVec 4) (_i : BitVec 10) : Info :=
  { cls := .a, qp := q, prv := 0, rd := [.s v, .a a], wr := [], cx := [.a a], ret := .store 1 }
def infoStD (q : BitVec 4) (v : BitVec 5) (a : BitVec 4) (_i : BitVec 10) : Info :=
  { cls := .a, qp := q, prv := 0, rd := [.s v, .a a], wr := [], cx := [.a a], ret := .store 1 }
def infoLdt (q : BitVec 4) (d : BitVec 5) (a : BitVec 4) (_f : BitVec 4) (_h : BitVec 1) (l : BitVec 5) : Info :=
  { cls := .a, qp := q, prv := 0, rd := [.a a], wr := [.s d], cx := [.a a], ret := .land l }
def infoStt (q : BitVec 4) (v : BitVec 5) (a : BitVec 4) (_f : BitVec 4) (_h : BitVec 1) (_r : BitVec 3) : Info :=
  { cls := .a, qp := q, prv := 0, rd := [.s v, .a a], wr := [], cx := [.a a], ret := .store 2 }
def infoVldt (q : BitVec 4) (d : BitVec 5) (a : BitVec 4) (_f : BitVec 4) (l : BitVec 5) : Info :=
  { cls := .a, qp := q, prv := 0, rd := [.a a], wr := [.v d], cx := [.a a], ret := .land l }
def infoVstt (q : BitVec 4) (v : BitVec 5) (a : BitVec 4) (_f : BitVec 4) (_r : BitVec 3) : Info :=
  { cls := .a, qp := q, prv := 0, rd := [.v v, .a a], wr := [], cx := [.a a], ret := .store 2 }
def infoAmoAdd (q : BitVec 4) (d : BitVec 5) (a : BitVec 4) (l : BitVec 5) (_w : BitVec 1) : Info :=
  { cls := .a, qp := q, prv := 0, rd := [.s d, .a a], wr := [.s d], cx := [.a a], ret := .land l }
def infoAmoAnd (q : BitVec 4) (d : BitVec 5) (a : BitVec 4) (l : BitVec 5) (_w : BitVec 1) : Info :=
  { cls := .a, qp := q, prv := 0, rd := [.s d, .a a], wr := [.s d], cx := [.a a], ret := .land l }
def infoAmoOr (q : BitVec 4) (d : BitVec 5) (a : BitVec 4) (l : BitVec 5) (_w : BitVec 1) : Info :=
  { cls := .a, qp := q, prv := 0, rd := [.s d, .a a], wr := [.s d], cx := [.a a], ret := .land l }
def infoAmoXor (q : BitVec 4) (d : BitVec 5) (a : BitVec 4) (l : BitVec 5) (_w : BitVec 1) : Info :=
  { cls := .a, qp := q, prv := 0, rd := [.s d, .a a], wr := [.s d], cx := [.a a], ret := .land l }
def infoAmoMin (q : BitVec 4) (d : BitVec 5) (a : BitVec 4) (l : BitVec 5) (_w : BitVec 1) : Info :=
  { cls := .a, qp := q, prv := 0, rd := [.s d, .a a], wr := [.s d], cx := [.a a], ret := .land l }
def infoAmoMax (q : BitVec 4) (d : BitVec 5) (a : BitVec 4) (l : BitVec 5) (_w : BitVec 1) : Info :=
  { cls := .a, qp := q, prv := 0, rd := [.s d, .a a], wr := [.s d], cx := [.a a], ret := .land l }
def infoAmoMinn (q : BitVec 4) (d : BitVec 5) (a : BitVec 4) (l : BitVec 5) (_w : BitVec 1) : Info :=
  { cls := .a, qp := q, prv := 0, rd := [.s d, .a a], wr := [.s d], cx := [.a a], ret := .land l }
def infoAmoMaxn (q : BitVec 4) (d : BitVec 5) (a : BitVec 4) (l : BitVec 5) (_w : BitVec 1) : Info :=
  { cls := .a, qp := q, prv := 0, rd := [.s d, .a a], wr := [.s d], cx := [.a a], ret := .land l }
def infoAmoSwap (q : BitVec 4) (d : BitVec 5) (a : BitVec 4) (l : BitVec 5) (_w : BitVec 1) : Info :=
  { cls := .a, qp := q, prv := 0, rd := [.s d, .a a], wr := [.s d], cx := [.a a], ret := .land l }
def infoAmoCas (q : BitVec 4) (d : BitVec 5) (a : BitVec 4) (l : BitVec 5) (_w : BitVec 1) : Info :=
  { cls := .a, qp := q, prv := 0, rd := [.s d, .a a, .s (d + 1)], wr := [.s d], cx := [.a a], ret := .land l }
def infoBr (q : BitVec 4) (k : BitVec 2) : Info :=
  { cls := .b, qp := q, prv := 0, rd := [.bt k], wr := [], cx := [.bt k], ret := .issue }
def infoBrv (q : BitVec 4) (k : BitVec 2) (m : BitVec 3) (_w : BitVec 2) (_n : BitVec 1) : Info :=
  { cls := .b, qp := q, prv := 0, rd := [.bt k, .m m], wr := [], cx := [.bt k, .m m], ret := .issue }
def infoPrep (q : BitVec 4) (k : BitVec 2) (_i : BitVec 16) : Info :=
  { cls := .b, qp := q, prv := 0, rd := [], wr := [.bt k], cx := [], ret := .issue }
def infoPrepa (q : BitVec 4) (k : BitVec 2) (a : BitVec 4) : Info :=
  { cls := .b, qp := q, prv := 0, rd := [.a a], wr := [.bt k], cx := [], ret := .issue }
def infoBrl (q : BitVec 4) (k : BitVec 2) (d : BitVec 4) : Info :=
  { cls := .b, qp := q, prv := 0, rd := [.bt k], wr := [.a d], cx := [.bt k], ret := .issue }
def infoLbNest (q : BitVec 4) (_l : BitVec 4) (d : BitVec 3) (g : BitVec 6) : Info :=
  { cls := .b, qp := q, prv := 0, rd := nestRegs g d, wr := [], cx := tripRegs g d, ret := .issue }
def infoLbExit (q : BitVec 4) : Info :=
  { cls := .b, qp := q, prv := 0, rd := [], wr := [], cx := [], ret := .issue }
def infoFence (q : BitVec 4) (_c : BitVec 3) (_k : BitVec 2) : Info :=
  { cls := .a, qp := q, prv := 0, rd := [], wr := [], cx := [], ret := .issue }
def infoBind (q : BitVec 4) (a : BitVec 4) (b : BitVec 5) (o : BitVec 4) : Info :=
  { cls := .a, qp := q, prv := 0, rd := [.a a, .s b, .a o], wr := [.s b], cx := [], ret := .after 1 }
def infoUnbind (q : BitVec 4) (a : BitVec 4) : Info :=
  { cls := .a, qp := q, prv := 0, rd := [.a a], wr := [], cx := [], ret := .after 1 }
def infoAcq (q : BitVec 4) (_c : BitVec 3) (o : BitVec 4) : Info :=
  { cls := .a, qp := q, prv := 0, rd := [.a o], wr := [], cx := [.a o], ret := .after 1 }
def infoRel (q : BitVec 4) (_c : BitVec 3) (o : BitVec 4) : Info :=
  { cls := .a, qp := q, prv := 0, rd := [.a o], wr := [], cx := [.a o], ret := .after 1 }
def infoBwait (q : BitVec 4) (n : BitVec 4) : Info :=
  { cls := .a, qp := q, prv := 0, rd := [.b n], wr := [.b n], cx := [.b n], ret := .after 1 }
def infoBinit (q : BitVec 4) (n : BitVec 4) (a : BitVec 5) : Info :=
  { cls := .a, qp := q, prv := 0, rd := [.s a], wr := [.b n], cx := [], ret := .after 1 }
def infoTwAny (q : BitVec 4) (_p : BitVec 1) (d : BitVec 5) (a : BitVec 5) : Info :=
  { cls := .a, qp := q, prv := 0, rd := [.s a, .tags], wr := [.s d], cx := [.tags], ret := .after 1 }
def infoTwAll (q : BitVec 4) (_p : BitVec 1) (d : BitVec 5) (a : BitVec 5) : Info :=
  { cls := .a, qp := q, prv := 0, rd := [.s a, .tags], wr := [.s d], cx := [.tags], ret := .after 1 }
def infoTwFfr (q : BitVec 4) (_p : BitVec 1) (d : BitVec 5) (a : BitVec 5) : Info :=
  { cls := .a, qp := q, prv := 0, rd := [.s a, .tags], wr := [.s d, .tags], cx := [.tags], ret := .after 1 }
def infoMwait (q : BitVec 4) (_p : BitVec 1) (o : BitVec 4) (b : BitVec 5) : Info :=
  { cls := .a, qp := q, prv := 0, rd := [.a o, .s b], wr := [], cx := [.a o], ret := .after 1 }
def infoSafe (q : BitVec 4) (_n : BitVec 16) : Info :=
  { cls := .s, qp := q, prv := 0, rd := [], wr := [], cx := [], ret := .issue }
def infoSuspend (q : BitVec 4) (a : BitVec 5) : Info :=
  { cls := .s, qp := q, prv := 0, rd := [.s a], wr := [], cx := [], ret := .issue }
def infoYield (q : BitVec 4) : Info :=
  { cls := .s, qp := q, prv := 0, rd := [], wr := [], cx := [], ret := .issue }
def infoRetire (q : BitVec 4) : Info :=
  { cls := .s, qp := q, prv := 0, rd := [], wr := [], cx := [], ret := .issue }
def infoSvc (q : BitVec 4) (_i : BitVec 16) : Info :=
  { cls := .s, qp := q, prv := 0, rd := [], wr := [], cx := [], ret := .issue }
def infoBrk (q : BitVec 4) (_i : BitVec 16) : Info :=
  { cls := .s, qp := q, prv := 0, rd := [], wr := [], cx := [], ret := .issue }
def infoSysrd (q : BitVec 4) (d : BitVec 5) (_n : BitVec 12) : Info :=
  { cls := .s, qp := q, prv := 0, rd := [], wr := [.s d], cx := [], ret := .after 2 }
def infoSyswr (q : BitVec 4) (a : BitVec 5) (_n : BitVec 12) : Info :=
  { cls := .s, qp := q, prv := 0, rd := [.s a], wr := [], cx := [], ret := .after 1 }
def infoRfe (q : BitVec 4) (a : BitVec 4) (d : BitVec 5) (l : BitVec 5) : Info :=
  { cls := .s, qp := q, prv := 1, rd := [.a a], wr := [.s d], cx := [], ret := .land l }
def infoQlock (q : BitVec 4) (d : BitVec 5) : Info :=
  { cls := .s, qp := q, prv := 0, rd := [], wr := [.s d], cx := [], ret := .after 1 }
def infoQfree (q : BitVec 4) : Info :=
  { cls := .s, qp := q, prv := 0, rd := [], wr := [], cx := [], ret := .issue }
/-- arv neither reads nor writes the unit bN it names, whose ARR and P change later than any register result; R43 does not say
whether its arrival counts as a write (DESIGN CHOICE, log 22). -/
def infoArv (q : BitVec 4) (_l : BitVec 3) (_r : BitVec 1) (_c : BitVec 2) (_n : BitVec 4) : Info :=
  { cls := .s, qp := q, prv := 0, rd := [], wr := [], cx := [], ret := .issue }
def infoVld (_z : BitVec 1) (m : BitVec 3) (d : BitVec 5) (a : BitVec 4) (l : BitVec 5) : Info :=
  { cls := .v, qp := 0, prv := 0, rd := [.a a, .m m], wr := [.v d], cx := [.a a], ret := .land l }
def infoVlds (_z : BitVec 1) (m : BitVec 3) (d : BitVec 5) (a : BitVec 4) (l : BitVec 5) (g : BitVec 2) : Info :=
  { cls := .v, qp := 0, prv := 0, rd := [.a a, .g (60 + g.setWidth 6), .m m], wr := [.v d], cx := [.a a, .g (60 + g.setWidth 6)], ret := .land l }
def infoVldx (_z : BitVec 1) (m : BitVec 3) (d : BitVec 5) (a : BitVec 4) (l : BitVec 5) : Info :=
  { cls := .v, qp := 0, prv := 0, rd := [.a a, .v d, .m m], wr := [.v d], cx := [.a a, .v d], ret := .land l }
def infoVldb (_z : BitVec 1) (m : BitVec 3) (d : BitVec 5) (a : BitVec 4) (l : BitVec 5) : Info :=
  { cls := .v, qp := 0, prv := 0, rd := [.a a, .m m], wr := [.v d], cx := [.a a], ret := .land l }
def infoVst (m : BitVec 3) (v : BitVec 5) (a : BitVec 4) : Info :=
  { cls := .v, qp := 0, prv := 0, rd := [.v v, .a a, .m m], wr := [], cx := [.a a], ret := .store 2 }
def infoVsts (m : BitVec 3) (v : BitVec 5) (a : BitVec 4) (g : BitVec 2) : Info :=
  { cls := .v, qp := 0, prv := 0, rd := [.v v, .a a, .g (60 + g.setWidth 6), .m m], wr := [], cx := [.a a, .g (60 + g.setWidth 6)], ret := .store 2 }
def infoVstx (m : BitVec 3) (v : BitVec 5) (a : BitVec 4) (b : BitVec 5) : Info :=
  { cls := .v, qp := 0, prv := 0, rd := [.v v, .a a, .v b, .m m], wr := [], cx := [.a a, .v b], ret := .store 2 }
def infoVadd (_z : BitVec 1) (m : BitVec 3) (d : BitVec 5) (a : BitVec 5) (b : BitVec 5) (x : BitVec 1) : Info :=
  { cls := .v, qp := 0, prv := 0, rd := [.v a, (if x == 1 then .s b else .v b), .m m], wr := [.v d], cx := [], ret := .after 2 }
def infoVsub (_z : BitVec 1) (m : BitVec 3) (d : BitVec 5) (a : BitVec 5) (b : BitVec 5) (x : BitVec 1) : Info :=
  { cls := .v, qp := 0, prv := 0, rd := [.v a, (if x == 1 then .s b else .v b), .m m], wr := [.v d], cx := [], ret := .after 2 }
def infoVmul (_z : BitVec 1) (m : BitVec 3) (d : BitVec 5) (a : BitVec 5) (b : BitVec 5) (x : BitVec 1) : Info :=
  { cls := .v, qp := 0, prv := 0, rd := [.v a, (if x == 1 then .s b else .v b), .m m], wr := [.v d], cx := [], ret := .after 4 }
def infoVmulh (_z : BitVec 1) (m : BitVec 3) (d : BitVec 5) (a : BitVec 5) (b : BitVec 5) (x : BitVec 1) : Info :=
  { cls := .v, qp := 0, prv := 0, rd := [.v a, (if x == 1 then .s b else .v b), .m m], wr := [.v d], cx := [], ret := .after 4 }
def infoVand (_z : BitVec 1) (m : BitVec 3) (d : BitVec 5) (a : BitVec 5) (b : BitVec 5) (x : BitVec 1) : Info :=
  { cls := .v, qp := 0, prv := 0, rd := [.v a, (if x == 1 then .s b else .v b), .m m], wr := [.v d], cx := [], ret := .after 2 }
def infoVor (_z : BitVec 1) (m : BitVec 3) (d : BitVec 5) (a : BitVec 5) (b : BitVec 5) (x : BitVec 1) : Info :=
  { cls := .v, qp := 0, prv := 0, rd := [.v a, (if x == 1 then .s b else .v b), .m m], wr := [.v d], cx := [], ret := .after 2 }
def infoVxor (_z : BitVec 1) (m : BitVec 3) (d : BitVec 5) (a : BitVec 5) (b : BitVec 5) (x : BitVec 1) : Info :=
  { cls := .v, qp := 0, prv := 0, rd := [.v a, (if x == 1 then .s b else .v b), .m m], wr := [.v d], cx := [], ret := .after 2 }
def infoVshl (_z : BitVec 1) (m : BitVec 3) (d : BitVec 5) (a : BitVec 5) (b : BitVec 5) (x : BitVec 1) : Info :=
  { cls := .v, qp := 0, prv := 0, rd := [.v a, (if x == 1 then .s b else .v b), .m m], wr := [.v d], cx := [], ret := .after 2 }
def infoVshr (_z : BitVec 1) (m : BitVec 3) (d : BitVec 5) (a : BitVec 5) (b : BitVec 5) (x : BitVec 1) : Info :=
  { cls := .v, qp := 0, prv := 0, rd := [.v a, (if x == 1 then .s b else .v b), .m m], wr := [.v d], cx := [], ret := .after 2 }
def infoVsar (_z : BitVec 1) (m : BitVec 3) (d : BitVec 5) (a : BitVec 5) (b : BitVec 5) (x : BitVec 1) : Info :=
  { cls := .v, qp := 0, prv := 0, rd := [.v a, (if x == 1 then .s b else .v b), .m m], wr := [.v d], cx := [], ret := .after 2 }
def infoVmin (_z : BitVec 1) (m : BitVec 3) (d : BitVec 5) (a : BitVec 5) (b : BitVec 5) (x : BitVec 1) : Info :=
  { cls := .v, qp := 0, prv := 0, rd := [.v a, (if x == 1 then .s b else .v b), .m m], wr := [.v d], cx := [], ret := .after 2 }
def infoVmax (_z : BitVec 1) (m : BitVec 3) (d : BitVec 5) (a : BitVec 5) (b : BitVec 5) (x : BitVec 1) : Info :=
  { cls := .v, qp := 0, prv := 0, rd := [.v a, (if x == 1 then .s b else .v b), .m m], wr := [.v d], cx := [], ret := .after 2 }
def infoVadds (_z : BitVec 1) (m : BitVec 3) (d : BitVec 5) (a : BitVec 5) (b : BitVec 5) (x : BitVec 1) : Info :=
  { cls := .v, qp := 0, prv := 0, rd := [.v a, (if x == 1 then .s b else .v b), .m m], wr := [.v d], cx := [], ret := .after 2 }
def infoVsubs (_z : BitVec 1) (m : BitVec 3) (d : BitVec 5) (a : BitVec 5) (b : BitVec 5) (x : BitVec 1) : Info :=
  { cls := .v, qp := 0, prv := 0, rd := [.v a, (if x == 1 then .s b else .v b), .m m], wr := [.v d], cx := [], ret := .after 2 }
def infoVabs (_z : BitVec 1) (m : BitVec 3) (d : BitVec 5) (a : BitVec 5) : Info :=
  { cls := .v, qp := 0, prv := 0, rd := [.v a, .m m], wr := [.v d], cx := [], ret := .after 2 }
def infoVmadw (_z : BitVec 1) (m : BitVec 3) (d : BitVec 5) (a : BitVec 5) (b : BitVec 5) (x : BitVec 1) : Info :=
  { cls := .v, qp := 0, prv := 0, rd := [.v a, (if x == 1 then .s b else .v b), .v d, .m m], wr := [.v d], cx := [], ret := .after 4 }
def infoVfadd (_z : BitVec 1) (m : BitVec 3) (d : BitVec 5) (a : BitVec 5) (b : BitVec 5) (x : BitVec 1) : Info :=
  { cls := .v, qp := 0, prv := 0, rd := [.v a, (if x == 1 then .s b else .v b), .m m], wr := [.v d], cx := [], ret := .after 4 }
def infoVfsub (_z : BitVec 1) (m : BitVec 3) (d : BitVec 5) (a : BitVec 5) (b : BitVec 5) (x : BitVec 1) : Info :=
  { cls := .v, qp := 0, prv := 0, rd := [.v a, (if x == 1 then .s b else .v b), .m m], wr := [.v d], cx := [], ret := .after 4 }
def infoVfmul (_z : BitVec 1) (m : BitVec 3) (d : BitVec 5) (a : BitVec 5) (b : BitVec 5) (x : BitVec 1) : Info :=
  { cls := .v, qp := 0, prv := 0, rd := [.v a, (if x == 1 then .s b else .v b), .m m], wr := [.v d], cx := [], ret := .after 4 }
def infoVfma (_z : BitVec 1) (m : BitVec 3) (d : BitVec 5) (a : BitVec 5) (b : BitVec 5) (x : BitVec 1) : Info :=
  { cls := .v, qp := 0, prv := 0, rd := [.v a, (if x == 1 then .s b else .v b), .v d, .m m], wr := [.v d], cx := [], ret := .after 4 }
def infoVfms (_z : BitVec 1) (m : BitVec 3) (d : BitVec 5) (a : BitVec 5) (b : BitVec 5) (x : BitVec 1) : Info :=
  { cls := .v, qp := 0, prv := 0, rd := [.v a, (if x == 1 then .s b else .v b), .v d, .m m], wr := [.v d], cx := [], ret := .after 4 }
def infoVfnma (_z : BitVec 1) (m : BitVec 3) (d : BitVec 5) (a : BitVec 5) (b : BitVec 5) (x : BitVec 1) : Info :=
  { cls := .v, qp := 0, prv := 0, rd := [.v a, (if x == 1 then .s b else .v b), .v d, .m m], wr := [.v d], cx := [], ret := .after 4 }
def infoVfmin (_z : BitVec 1) (m : BitVec 3) (d : BitVec 5) (a : BitVec 5) (b : BitVec 5) (x : BitVec 1) : Info :=
  { cls := .v, qp := 0, prv := 0, rd := [.v a, (if x == 1 then .s b else .v b), .m m], wr := [.v d], cx := [], ret := .after 2 }
def infoVfmax (_z : BitVec 1) (m : BitVec 3) (d : BitVec 5) (a : BitVec 5) (b : BitVec 5) (x : BitVec 1) : Info :=
  { cls := .v, qp := 0, prv := 0, rd := [.v a, (if x == 1 then .s b else .v b), .m m], wr := [.v d], cx := [], ret := .after 2 }
def infoVfabs (_z : BitVec 1) (m : BitVec 3) (d : BitVec 5) (a : BitVec 5) : Info :=
  { cls := .v, qp := 0, prv := 0, rd := [.v a, .m m], wr := [.v d], cx := [], ret := .after 2 }
def infoVfneg (_z : BitVec 1) (m : BitVec 3) (d : BitVec 5) (a : BitVec 5) : Info :=
  { cls := .v, qp := 0, prv := 0, rd := [.v a, .m m], wr := [.v d], cx := [], ret := .after 2 }
def infoVcmpEq (_z : BitVec 1) (m : BitVec 3) (d : BitVec 3) (a : BitVec 5) (b : BitVec 5) (x : BitVec 1) : Info :=
  { cls := .v, qp := 0, prv := 0, rd := [.v a, (if x == 1 then .s b else .v b), .m m], wr := [.m d], cx := [], ret := .after 2 }
def infoVcmpNe (_z : BitVec 1) (m : BitVec 3) (d : BitVec 3) (a : BitVec 5) (b : BitVec 5) (x : BitVec 1) : Info :=
  { cls := .v, qp := 0, prv := 0, rd := [.v a, (if x == 1 then .s b else .v b), .m m], wr := [.m d], cx := [], ret := .after 2 }
def infoVcmpLt (_z : BitVec 1) (m : BitVec 3) (d : BitVec 3) (a : BitVec 5) (b : BitVec 5) (x : BitVec 1) : Info :=
  { cls := .v, qp := 0, prv := 0, rd := [.v a, (if x == 1 then .s b else .v b), .m m], wr := [.m d], cx := [], ret := .after 2 }
def infoVcmpGe (_z : BitVec 1) (m : BitVec 3) (d : BitVec 3) (a : BitVec 5) (b : BitVec 5) (x : BitVec 1) : Info :=
  { cls := .v, qp := 0, prv := 0, rd := [.v a, (if x == 1 then .s b else .v b), .m m], wr := [.m d], cx := [], ret := .after 2 }
def infoVfcmpEq (_z : BitVec 1) (m : BitVec 3) (d : BitVec 3) (a : BitVec 5) (b : BitVec 5) (x : BitVec 1) : Info :=
  { cls := .v, qp := 0, prv := 0, rd := [.v a, (if x == 1 then .s b else .v b), .m m], wr := [.m d], cx := [], ret := .after 2 }
def infoVfcmpNe (_z : BitVec 1) (m : BitVec 3) (d : BitVec 3) (a : BitVec 5) (b : BitVec 5) (x : BitVec 1) : Info :=
  { cls := .v, qp := 0, prv := 0, rd := [.v a, (if x == 1 then .s b else .v b), .m m], wr := [.m d], cx := [], ret := .after 2 }
def infoVfcmpLt (_z : BitVec 1) (m : BitVec 3) (d : BitVec 3) (a : BitVec 5) (b : BitVec 5) (x : BitVec 1) : Info :=
  { cls := .v, qp := 0, prv := 0, rd := [.v a, (if x == 1 then .s b else .v b), .m m], wr := [.m d], cx := [], ret := .after 2 }
def infoVfcmpGe (_z : BitVec 1) (m : BitVec 3) (d : BitVec 3) (a : BitVec 5) (b : BitVec 5) (x : BitVec 1) : Info :=
  { cls := .v, qp := 0, prv := 0, rd := [.v a, (if x == 1 then .s b else .v b), .m m], wr := [.m d], cx := [], ret := .after 2 }
def infoVsel (m : BitVec 3) (d : BitVec 5) (a : BitVec 5) (b : BitVec 5) (x : BitVec 1) : Info :=
  { cls := .v, qp := 0, prv := 0, rd := [.v a, (if x == 1 then .s b else .v b), .m m], wr := [.v d], cx := [], ret := .after 2 }
def infoMand (d : BitVec 3) (a : BitVec 3) (b : BitVec 3) : Info :=
  { cls := .v, qp := 0, prv := 0, rd := [.m a, .m b], wr := [.m d], cx := [], ret := .after 1 }
def infoMor (d : BitVec 3) (a : BitVec 3) (b : BitVec 3) : Info :=
  { cls := .v, qp := 0, prv := 0, rd := [.m a, .m b], wr := [.m d], cx := [], ret := .after 1 }
def infoMxor (d : BitVec 3) (a : BitVec 3) (b : BitVec 3) : Info :=
  { cls := .v, qp := 0, prv := 0, rd := [.m a, .m b], wr := [.m d], cx := [], ret := .after 1 }
def infoMnot (d : BitVec 3) (a : BitVec 3) : Info :=
  { cls := .v, qp := 0, prv := 0, rd := [.m a], wr := [.m d], cx := [], ret := .after 1 }
def infoMcnt (d : BitVec 5) (a : BitVec 3) : Info :=
  { cls := .v, qp := 0, prv := 0, rd := [.m a], wr := [.s d], cx := [], ret := .after 3 }
def infoMffs (d : BitVec 5) (a : BitVec 3) : Info :=
  { cls := .v, qp := 0, prv := 0, rd := [.m a], wr := [.s d], cx := [], ret := .after 3 }
def infoVcvt (_z : BitVec 1) (m : BitVec 3) (d : BitVec 5) (a : BitVec 5) : Info :=
  { cls := .v, qp := 0, prv := 0, rd := [.v a, .m m], wr := [.v d], cx := [], ret := .after 3 }
def infoVcvtw (_z : BitVec 1) (m : BitVec 3) (d : BitVec 5) (a : BitVec 5) : Info :=
  { cls := .v, qp := 0, prv := 0, rd := [.v a, .m m], wr := [.v d], cx := [], ret := .after 3 }
def infoVcvtn (_z : BitVec 1) (m : BitVec 3) (d : BitVec 5) (a : BitVec 5) : Info :=
  { cls := .v, qp := 0, prv := 0, rd := [.v a, .m m], wr := [.v d], cx := [], ret := .after 3 }
def infoVperm (_z : BitVec 1) (m : BitVec 3) (d : BitVec 5) (a : BitVec 5) (b : BitVec 5) (x : BitVec 1) : Info :=
  { cls := .v, qp := 0, prv := 0, rd := [.v a, (if x == 1 then .s b else .v b), .m m], wr := [.v d], cx := [], ret := .after 3 }
def infoVslide (_z : BitVec 1) (m : BitVec 3) (d : BitVec 5) (a : BitVec 5) (b : BitVec 5) : Info :=
  { cls := .v, qp := 0, prv := 0, rd := [.v a, .s b, .m m], wr := [.v d], cx := [], ret := .after 2 }
def infoVredsum (_z : BitVec 1) (m : BitVec 3) (d : BitVec 5) (a : BitVec 5) : Info :=
  { cls := .v, qp := 0, prv := 0, rd := [.v a, .m m], wr := [.s d], cx := [], ret := .after 6 }
def infoVfredsum (_z : BitVec 1) (m : BitVec 3) (d : BitVec 5) (a : BitVec 5) : Info :=
  { cls := .v, qp := 0, prv := 0, rd := [.v a, .m m], wr := [.s d], cx := [], ret := .after 12 }
def infoVredmax (_z : BitVec 1) (m : BitVec 3) (d : BitVec 5) (a : BitVec 5) : Info :=
  { cls := .v, qp := 0, prv := 0, rd := [.v a, .m m], wr := [.s d], cx := [], ret := .after 6 }
def infoVredmin (_z : BitVec 1) (m : BitVec 3) (d : BitVec 5) (a : BitVec 5) : Info :=
  { cls := .v, qp := 0, prv := 0, rd := [.v a, .m m], wr := [.s d], cx := [], ret := .after 6 }
def infoVext (d : BitVec 5) (a : BitVec 5) (b : BitVec 5) : Info :=
  { cls := .v, qp := 0, prv := 0, rd := [.v a, .s b], wr := [.s d], cx := [], ret := .after 3 }
def infoVins (d : BitVec 5) (a : BitVec 5) (b : BitVec 5) : Info :=
  { cls := .v, qp := 0, prv := 0, rd := [.s a, .s b, .v d], wr := [.v d], cx := [], ret := .after 2 }
def infoVbcast (_z : BitVec 1) (m : BitVec 3) (d : BitVec 5) (a : BitVec 5) : Info :=
  { cls := .v, qp := 0, prv := 0, rd := [.s a, .m m], wr := [.v d], cx := [], ret := .after 2 }
def infoVrcp (_z : BitVec 1) (m : BitVec 3) (d : BitVec 5) (a : BitVec 5) : Info :=
  { cls := .v, qp := 0, prv := 0, rd := [.v a, .m m], wr := [.v d], cx := [], ret := .after 6 }
def infoVrsqrt (_z : BitVec 1) (m : BitVec 3) (d : BitVec 5) (a : BitVec 5) : Info :=
  { cls := .v, qp := 0, prv := 0, rd := [.v a, .m m], wr := [.v d], cx := [], ret := .after 6 }
def infoVsqrt (_z : BitVec 1) (m : BitVec 3) (d : BitVec 5) (a : BitVec 5) : Info :=
  { cls := .v, qp := 0, prv := 0, rd := [.v a, .m m], wr := [.v d], cx := [], ret := .after 16 }
def infoVexp2 (_z : BitVec 1) (m : BitVec 3) (d : BitVec 5) (a : BitVec 5) : Info :=
  { cls := .v, qp := 0, prv := 0, rd := [.v a, .m m], wr := [.v d], cx := [], ret := .after 16 }
def infoVlog2 (_z : BitVec 1) (m : BitVec 3) (d : BitVec 5) (a : BitVec 5) : Info :=
  { cls := .v, qp := 0, prv := 0, rd := [.v a, .m m], wr := [.v d], cx := [], ret := .after 16 }
def infoVclipq (_z : BitVec 1) (m : BitVec 3) (d : BitVec 5) (a : BitVec 5) (b : BitVec 5) : Info :=
  { cls := .v, qp := 0, prv := 0, rd := [.v a, .s b, .m m], wr := [.v d], cx := [], ret := .after 2 }
def infoVnormq (_z : BitVec 1) (m : BitVec 3) (d : BitVec 5) (a : BitVec 5) (b : BitVec 5) : Info :=
  { cls := .v, qp := 0, prv := 0, rd := [.v a, .s b, .m m], wr := [.v d], cx := [], ret := .after 16 }
def infoVrot : Info :=
  { cls := .v, qp := 0, prv := 0, rd := [], wr := [], cx := [], ret := .after 1 }
def infoStgset (a : BitVec 5) : Info :=
  { cls := .v, qp := 0, prv := 0, rd := [.s a], wr := (List.range 8).map (fun j => .p (BitVec.ofNat 4 (8 + j))), cx := [], ret := .after 1 }
def infoStgshift (a : BitVec 5) : Info :=
  { cls := .v, qp := 0, prv := 0, rd := [.s a], wr := [.p 8], cx := [], ret := .after 1 }
def infoBnLd (q : BitVec 4) (a : BitVec 4) (_n : BitVec 3) : Info :=
  { cls := .x, qp := q, prv := 0, rd := [.a a], wr := [], cx := [.a a], ret := .load }
def infoBnRt (q : BitVec 4) (d : BitVec 5) (a : BitVec 4) (_n : BitVec 3) : Info :=
  { cls := .x, qp := q, prv := 0, rd := [.v (a.setWidth 5 * 2), .v (a.setWidth 5 * 2 + 1)], wr := [.v d], cx := [], ret := .after 6 }
def infoBnRto (q : BitVec 4) (d : BitVec 5) (a : BitVec 4) (_n : BitVec 3) : Info :=
  { cls := .x, qp := q, prv := 0, rd := [.v (a.setWidth 5 * 2), .v (a.setWidth 5 * 2 + 1), .v d], wr := [.v d], cx := [], ret := .after 6 }
def infoBnInv (q : BitVec 4) (_i : BitVec 8) : Info :=
  { cls := .x, qp := q, prv := 0, rd := [], wr := [], cx := [], ret := .after 1 }
def infoBnRd (q : BitVec 4) (d : BitVec 5) (_n : BitVec 3) : Info :=
  { cls := .x, qp := q, prv := 0, rd := [], wr := [.s d], cx := [], ret := .after 2 }
def infoSkInit (q : BitVec 4) (a : BitVec 4) (b : BitVec 5) : Info :=
  { cls := .x, qp := q, prv := 0, rd := [.a a, .s b], wr := [], cx := [.a a, .s b], ret := .store 1 }
def infoSkQadd (q : BitVec 4) (a : BitVec 4) (v : BitVec 5) (b : BitVec 5) : Info :=
  { cls := .x, qp := q, prv := 0, rd := [.a a, .v v, .s b], wr := [], cx := [.a a, .s b], ret := .store 1 }
def infoSkHadd (q : BitVec 4) (a : BitVec 4) (v : BitVec 5) (b : BitVec 5) : Info :=
  { cls := .x, qp := q, prv := 0, rd := [.a a, .v v, .s b], wr := [], cx := [.a a, .s b], ret := .store 1 }
def infoSkDadd (q : BitVec 4) (a : BitVec 4) (v : BitVec 5) (b : BitVec 5) : Info :=
  { cls := .x, qp := q, prv := 0, rd := [.a a, .v v, .s b], wr := [], cx := [.a a, .s b], ret := .store 1 }
def infoSkMerge (q : BitVec 4) (a : BitVec 4) (b : BitVec 4) : Info :=
  { cls := .x, qp := q, prv := 0, rd := [.a a, .a b], wr := [], cx := [.a a, .a b], ret := .store 1 }
def infoSkCompact (q : BitVec 4) (a : BitVec 4) (b : BitVec 5) : Info :=
  { cls := .x, qp := q, prv := 0, rd := [.a a, .s b], wr := [], cx := [.a a, .s b], ret := .store 1 }
def infoSkQuant (q : BitVec 4) (a : BitVec 4) (d : BitVec 5) (b : BitVec 5) : Info :=
  { cls := .x, qp := q, prv := 0, rd := [.a a, .s b], wr := [.s d], cx := [.a a, .s b], ret := .after 1 }
def infoSkRank (q : BitVec 4) (a : BitVec 4) (d : BitVec 5) (b : BitVec 5) : Info :=
  { cls := .x, qp := q, prv := 0, rd := [.a a, .s b], wr := [.s d], cx := [.a a, .s b], ret := .after 1 }
def infoSkTop (q : BitVec 4) (a : BitVec 4) (d : BitVec 5) (b : BitVec 5) : Info :=
  { cls := .x, qp := q, prv := 0, rd := [.a a, .s b], wr := [.s d], cx := [.a a, .s b], ret := .after 1 }
def infoSkCard (q : BitVec 4) (a : BitVec 4) (d : BitVec 5) : Info :=
  { cls := .x, qp := q, prv := 0, rd := [.a a], wr := [.s d], cx := [.a a], ret := .after 1 }
def infoSkSeal (q : BitVec 4) (a : BitVec 4) : Info :=
  { cls := .x, qp := q, prv := 0, rd := [.a a], wr := [], cx := [.a a], ret := .store 1 }
def infoSkChk (q : BitVec 4) (a : BitVec 4) (d : BitVec 5) : Info :=
  { cls := .x, qp := q, prv := 0, rd := [.a a], wr := [.s d], cx := [.a a], ret := .after 1 }
def infoMxMma (q : BitVec 4) (_ac : BitVec 1) (_sc : BitVec 3) (aa : BitVec 4) (sb : BitVec 5) : Info :=
  { cls := .e, qp := q, prv := 0, rd := [.a aa, .s sb], wr := [], cx := [.a aa, .s sb], ret := .cmd }
def infoMxProm (q : BitVec 4) (aa : BitVec 4) (sb : BitVec 5) : Info :=
  { cls := .e, qp := q, prv := 0, rd := [.a aa, .s sb], wr := [], cx := [.a aa, .s sb], ret := .result 3 }
def infoMxProme (q : BitVec 4) (aa : BitVec 4) (sb : BitVec 5) : Info :=
  { cls := .e, qp := q, prv := 0, rd := [.a aa, .s sb], wr := [], cx := [.a aa, .s sb], ret := .result 3 }
def infoMxZero (q : BitVec 4) (sb : BitVec 5) : Info :=
  { cls := .e, qp := q, prv := 0, rd := [.s sb], wr := [], cx := [.s sb], ret := .result 1 }
def infoMxZld (q : BitVec 4) (_ac : BitVec 1) (_sc : BitVec 3) (aa : BitVec 4) (sb : BitVec 5) : Info :=
  { cls := .e, qp := q, prv := 0, rd := [.a aa, .s sb], wr := [], cx := [.a aa, .s sb], ret := .result 16 }
def infoMxZst (q : BitVec 4) (_rl : BitVec 1) (_sc : BitVec 3) (aa : BitVec 4) (sb : BitVec 5) : Info :=
  { cls := .e, qp := q, prv := 0, rd := [.a aa, .s sb], wr := [], cx := [.a aa, .s sb], ret := .store 1 }
def infoMxZcvt (q : BitVec 4) (_rl : BitVec 1) (_sc : BitVec 3) (aa : BitVec 4) (sb : BitVec 5) : Info :=
  { cls := .e, qp := q, prv := 0, rd := [.a aa, .s sb], wr := [], cx := [.a aa, .s sb], ret := .store 1 }
def infoMxZadd (q : BitVec 4) (sb : BitVec 5) : Info :=
  { cls := .e, qp := q, prv := 0, rd := [.s sb], wr := [], cx := [.s sb], ret := .result 4 }
def infoMxScl (q : BitVec 4) (sb : BitVec 5) : Info :=
  { cls := .e, qp := q, prv := 0, rd := [.s sb], wr := [], cx := [.s sb], ret := .result 4 }
def infoMxWsel (q : BitVec 4) (sb : BitVec 5) : Info :=
  { cls := .e, qp := q, prv := 0, rd := [.s sb], wr := [], cx := [.s sb], ret := .after 1 }
def infoMxWake (q : BitVec 4) (sb : BitVec 5) : Info :=
  { cls := .e, qp := q, prv := 0, rd := [.s sb], wr := [], cx := [.s sb], ret := .after 1 }
def infoMxGate (q : BitVec 4) (sb : BitVec 5) : Info :=
  { cls := .e, qp := q, prv := 0, rd := [.s sb], wr := [], cx := [.s sb], ret := .after 1 }
def infoMxTask (q : BitVec 4) (_ac : BitVec 1) (_rl : BitVec 1) (_sc : BitVec 3) (aa : BitVec 4) (sb : BitVec 5) : Info :=
  { cls := .e, qp := q, prv := 0, rd := [.a aa], wr := [.s sb], cx := [.a aa], ret := .after 1 }
def infoMxTstat (q : BitVec 4) (aa : BitVec 4) (sb : BitVec 5) : Info :=
  { cls := .e, qp := q, prv := 0, rd := [.a aa], wr := [.s sb], cx := [.a aa], ret := .after 1 }
def infoMxTkill (q : BitVec 4) (aa : BitVec 4) (sb : BitVec 5) : Info :=
  { cls := .e, qp := q, prv := 0, rd := [.a aa], wr := [.s sb], cx := [.a aa], ret := .after 1 }
def infoMxQsplit (q : BitVec 4) (sb : BitVec 5) : Info :=
  { cls := .e, qp := q, prv := 0, rd := [.s sb], wr := [], cx := [.s sb], ret := .result 12 }
def infoMxFence (q : BitVec 4) (_rl : BitVec 1) (_sc : BitVec 3) : Info :=
  { cls := .e, qp := q, prv := 0, rd := [], wr := [], cx := [], ret := .issue }
def infoMxCfg (q : BitVec 4) (gh : BitVec 2) (gl : BitVec 4) (sb : BitVec 5) : Info :=
  { cls := .e, qp := q, prv := 0, rd := [.s sb], wr := [.g (gh ++ gl)], cx := [.s sb], ret := .after 1 }
def infoCpCopy (q : BitVec 4) (_ac : BitVec 1) (_rl : BitVec 1) (_sc : BitVec 3) (aa : BitVec 4) (sb : BitVec 5) : Info :=
  { cls := .e, qp := q, prv := 0, rd := [.a aa, .s sb], wr := [.tags], cx := [.a aa, .s sb], ret := .cmd }
def infoCpLdt (q : BitVec 4) (_ac : BitVec 1) (_rl : BitVec 1) (_sc : BitVec 3) (aa : BitVec 4) (sb : BitVec 5) : Info :=
  { cls := .e, qp := q, prv := 0, rd := [.a aa, .s sb], wr := [.tags], cx := [.a aa, .s sb], ret := .cmd }
def infoCpStt (q : BitVec 4) (_ac : BitVec 1) (_rl : BitVec 1) (_sc : BitVec 3) (aa : BitVec 4) (sb : BitVec 5) : Info :=
  { cls := .e, qp := q, prv := 0, rd := [.a aa, .s sb], wr := [.tags], cx := [.a aa, .s sb], ret := .cmd }
def infoCpFill (q : BitVec 4) (_ac : BitVec 1) (_sc : BitVec 3) (aa : BitVec 4) (sb : BitVec 5) : Info :=
  { cls := .e, qp := q, prv := 0, rd := [.a aa, .s sb], wr := [.tags], cx := [.a aa, .s sb], ret := .cmd }
def infoCpMap (q : BitVec 4) (aa : BitVec 4) (sb : BitVec 5) : Info :=
  { cls := .e, qp := q, prv := 0, rd := [.a aa, .s sb], wr := [], cx := [.a aa, .s sb], ret := .after 1 }
def infoCpUnmap (q : BitVec 4) (_rl : BitVec 1) (_sc : BitVec 3) (sb : BitVec 5) : Info :=
  { cls := .e, qp := q, prv := 0, rd := [.s sb], wr := [.tags], cx := [.s sb], ret := .cmd }
def infoCpFlush (q : BitVec 4) (_ac : BitVec 1) (_rl : BitVec 1) (_sc : BitVec 3) (aa : BitVec 4) (sb : BitVec 5) : Info :=
  { cls := .e, qp := q, prv := 0, rd := [.a aa, .s sb], wr := [.tags], cx := [.a aa, .s sb], ret := .cmd }
def infoCpInval (q : BitVec 4) (_ac : BitVec 1) (_rl : BitVec 1) (_sc : BitVec 3) (aa : BitVec 4) (sb : BitVec 5) : Info :=
  { cls := .e, qp := q, prv := 0, rd := [.a aa, .s sb], wr := [.tags], cx := [.a aa, .s sb], ret := .cmd }
def infoCpWfill (q : BitVec 4) (_ac : BitVec 1) (_sc : BitVec 3) (aa : BitVec 4) (sb : BitVec 5) : Info :=
  { cls := .e, qp := q, prv := 0, rd := [.a aa, .s sb], wr := [.tags], cx := [.a aa, .s sb], ret := .cmd }
def infoCpOvl (q : BitVec 4) (_ac : BitVec 1) (_sc : BitVec 3) (aa : BitVec 4) (sb : BitVec 5) : Info :=
  { cls := .e, qp := q, prv := 0, rd := [.a aa, .s sb], wr := [.tags], cx := [.a aa, .s sb], ret := .cmd }
def infoCpSpill (q : BitVec 4) (_ac : BitVec 1) (_rl : BitVec 1) (_sc : BitVec 3) (aa : BitVec 4) (sb : BitVec 5) : Info :=
  { cls := .e, qp := q, prv := 0, rd := [.a aa, .s sb], wr := [.tags], cx := [.a aa, .s sb], ret := .cmd }
def infoCpUnspill (q : BitVec 4) (_ac : BitVec 1) (_rl : BitVec 1) (_sc : BitVec 3) (aa : BitVec 4) (sb : BitVec 5) : Info :=
  { cls := .e, qp := q, prv := 0, rd := [.a aa, .s sb], wr := [.tags], cx := [.a aa, .s sb], ret := .cmd }
def infoCpBcnt (q : BitVec 4) (_rl : BitVec 1) (_sc : BitVec 3) (aa : BitVec 4) (sb : BitVec 5) : Info :=
  { cls := .e, qp := q, prv := 0, rd := [.a aa, .s sb], wr := [], cx := [.a aa, .s sb], ret := .after 1 }
def infoCpTclr (q : BitVec 4) (sb : BitVec 5) : Info :=
  { cls := .e, qp := q, prv := 0, rd := [.s sb], wr := [.tags], cx := [.s sb], ret := .after 1 }
def infoClTmk (q : BitVec 4) (aa : BitVec 4) (sb : BitVec 5) : Info :=
  { cls := .e, qp := q, prv := 1, rd := [.a aa, .s sb], wr := [.s sb], cx := [.a aa, .s sb], ret := .after 1 }
def infoClTfree (q : BitVec 4) (sb : BitVec 5) : Info :=
  { cls := .e, qp := q, prv := 1, rd := [.s sb], wr := [.s sb], cx := [.s sb], ret := .after 1 }
def infoClPost (q : BitVec 4) (_ac : BitVec 1) (_rl : BitVec 1) (_sc : BitVec 3) (aa : BitVec 4) (sb : BitVec 5) : Info :=
  { cls := .e, qp := q, prv := 0, rd := [.a aa, .s sb], wr := [.s sb, .tags], cx := [.a aa, .s sb], ret := .cmd }
def infoClTake (q : BitVec 4) (_ac : BitVec 1) (_rl : BitVec 1) (_sc : BitVec 3) (aa : BitVec 4) (sb : BitVec 5) : Info :=
  { cls := .e, qp := q, prv := 0, rd := [.a aa, .s sb], wr := [.s sb, .tags], cx := [.a aa, .s sb], ret := .cmd }
def infoClFrz (q : BitVec 4) (sb : BitVec 5) : Info :=
  { cls := .e, qp := q, prv := 1, rd := [.s sb], wr := [.s sb], cx := [.s sb], ret := .after 1 }
def infoClThaw (q : BitVec 4) (sb : BitVec 5) : Info :=
  { cls := .e, qp := q, prv := 1, rd := [.s sb], wr := [.s sb], cx := [.s sb], ret := .after 1 }
def infoClSave (q : BitVec 4) (aa : BitVec 4) (sb : BitVec 5) : Info :=
  { cls := .e, qp := q, prv := 1, rd := [.a aa, .s sb], wr := [.s sb], cx := [.a aa, .s sb], ret := .after 1 }
def infoClRst (q : BitVec 4) (aa : BitVec 4) (sb : BitVec 5) : Info :=
  { cls := .e, qp := q, prv := 1, rd := [.a aa, .s sb], wr := [.s sb], cx := [.a aa, .s sb], ret := .after 1 }
def infoClEditRemove (q : BitVec 4) (sb : BitVec 5) : Info :=
  { cls := .e, qp := q, prv := 1, rd := [.s sb], wr := [.s sb], cx := [.s sb], ret := .after 1 }
def infoClEditAdd (q : BitVec 4) (sb : BitVec 5) : Info :=
  { cls := .e, qp := q, prv := 1, rd := [.s sb], wr := [.s sb], cx := [.s sb], ret := .after 1 }
def infoClReshard (q : BitVec 4) (_ac : BitVec 1) (_rl : BitVec 1) (_sc : BitVec 3) (aa : BitVec 4) (sb : BitVec 5) : Info :=
  { cls := .e, qp := q, prv := 0, rd := [.a aa, .s sb], wr := [.s sb, .tags], cx := [.a aa, .s sb], ret := .cmd }
def infoClQuery (q : BitVec 4) (sb : BitVec 5) : Info :=
  { cls := .e, qp := q, prv := 0, rd := [.s sb], wr := [.s sb], cx := [.s sb], ret := .after 1 }
def infoClMcast (q : BitVec 4) (_ac : BitVec 1) (_rl : BitVec 1) (_sc : BitVec 3) (aa : BitVec 4) (sb : BitVec 5) : Info :=
  { cls := .e, qp := q, prv := 0, rd := [.a aa, .s sb], wr := [.s sb, .tags], cx := [.a aa, .s sb], ret := .cmd }
def infoClBar (q : BitVec 4) (_ac : BitVec 1) (_rl : BitVec 1) (_sc : BitVec 3) (aa : BitVec 4) (sb : BitVec 5) : Info :=
  { cls := .e, qp := q, prv := 0, rd := [.a aa, .s sb], wr := [.s sb], cx := [.a aa, .s sb], ret := .after 1 }
def infoClAbort (q : BitVec 4) (sb : BitVec 5) : Info :=
  { cls := .e, qp := q, prv := 1, rd := [.s sb], wr := [.s sb], cx := [.s sb], ret := .after 1 }
def infoEvSend (q : BitVec 4) (aa : BitVec 4) (sb : BitVec 5) : Info :=
  { cls := .e, qp := q, prv := 0, rd := [.a aa, .s sb], wr := [.s sb, .tags], cx := [.a aa, .s sb], ret := .cmd }
def infoEvRecv (q : BitVec 4) (aa : BitVec 4) (sb : BitVec 5) : Info :=
  { cls := .e, qp := q, prv := 0, rd := [.a aa, .s sb], wr := [.s sb, .tags], cx := [.a aa, .s sb], ret := .cmd }
def infoEvGather (q : BitVec 4) (aa : BitVec 4) (sb : BitVec 5) : Info :=
  { cls := .e, qp := q, prv := 0, rd := [.a aa, .s sb], wr := [.s sb, .tags], cx := [.a aa, .s sb], ret := .cmd }
def infoEvOpen (q : BitVec 4) (sb : BitVec 5) : Info :=
  { cls := .e, qp := q, prv := 0, rd := [.s sb], wr := [.s sb], cx := [.s sb], ret := .after 1 }
def infoEvClose (q : BitVec 4) (sb : BitVec 5) : Info :=
  { cls := .e, qp := q, prv := 0, rd := [.s sb], wr := [.s sb], cx := [.s sb], ret := .after 1 }
def infoDsLaunch (q : BitVec 4) (_rl : BitVec 1) (_sc : BitVec 3) (aa : BitVec 4) (sb : BitVec 5) : Info :=
  { cls := .e, qp := q, prv := 0, rd := [.a aa, .s sb], wr := [.s sb], cx := [.a aa, .s sb], ret := .after 1 }
def infoDsLaunchW (q : BitVec 4) (_rl : BitVec 1) (_sc : BitVec 3) (aa : BitVec 4) (sb : BitVec 5) : Info :=
  { cls := .e, qp := q, prv := 0, rd := [.a aa, .s sb], wr := [.s sb], cx := [.a aa, .s sb], ret := .after 1 }
def infoDsQpush (q : BitVec 4) (_rl : BitVec 1) (_sc : BitVec 3) (aa : BitVec 4) (sb : BitVec 5) : Info :=
  { cls := .e, qp := q, prv := 0, rd := [.a aa, .s sb], wr := [.s sb], cx := [.a aa, .s sb], ret := .after 1 }
def infoDsQpop (q : BitVec 4) (_ac : BitVec 1) (_sc : BitVec 3) (aa : BitVec 4) (sb : BitVec 5) : Info :=
  { cls := .e, qp := q, prv := 0, rd := [.a aa, .s sb], wr := [.s sb], cx := [.a aa, .s sb], ret := .after 1 }
def infoDsCondSet (q : BitVec 4) (aa : BitVec 4) (sb : BitVec 5) : Info :=
  { cls := .e, qp := q, prv := 0, rd := [.a aa, .s sb], wr := [.s sb], cx := [.a aa, .s sb], ret := .after 1 }
def infoDsCondAdd (q : BitVec 4) (aa : BitVec 4) (sb : BitVec 5) : Info :=
  { cls := .e, qp := q, prv := 0, rd := [.a aa, .s sb], wr := [.s sb], cx := [.a aa, .s sb], ret := .after 1 }
def infoDsCondOr (q : BitVec 4) (aa : BitVec 4) (sb : BitVec 5) : Info :=
  { cls := .e, qp := q, prv := 0, rd := [.a aa, .s sb], wr := [.s sb], cx := [.a aa, .s sb], ret := .after 1 }
def infoDsCondAnd (q : BitVec 4) (aa : BitVec 4) (sb : BitVec 5) : Info :=
  { cls := .e, qp := q, prv := 0, rd := [.a aa, .s sb], wr := [.s sb], cx := [.a aa, .s sb], ret := .after 1 }
def infoDsGstart (q : BitVec 4) (aa : BitVec 4) (sb : BitVec 5) : Info :=
  { cls := .e, qp := q, prv := 0, rd := [.a aa, .s sb], wr := [.s sb], cx := [.a aa, .s sb], ret := .after 1 }
def infoDsGstop (q : BitVec 4) (aa : BitVec 4) (sb : BitVec 5) : Info :=
  { cls := .e, qp := q, prv := 0, rd := [.a aa, .s sb], wr := [.s sb], cx := [.a aa, .s sb], ret := .after 1 }
def infoDsWake (q : BitVec 4) (aa : BitVec 4) (sb : BitVec 5) : Info :=
  { cls := .e, qp := q, prv := 1, rd := [.a aa, .s sb], wr := [.s sb], cx := [.a aa, .s sb], ret := .after 1 }
def infoDsPrio (q : BitVec 4) (aa : BitVec 4) (sb : BitVec 5) : Info :=
  { cls := .e, qp := q, prv := 0, rd := [.a aa, .s sb], wr := [.s sb], cx := [.a aa, .s sb], ret := .after 1 }
def infoDsQuery (q : BitVec 4) (sb : BitVec 5) : Info :=
  { cls := .e, qp := q, prv := 0, rd := [.s sb], wr := [.s sb], cx := [.s sb], ret := .after 1 }
def infoTlInv (q : BitVec 4) (_sc : BitVec 2) (aa : BitVec 4) (sb : BitVec 5) : Info :=
  { cls := .e, qp := q, prv := 1, rd := [.a aa, .s sb], wr := [], cx := [.a aa, .s sb], ret := .after 1 }
def infoTlInva (q : BitVec 4) (_sc : BitVec 2) (sb : BitVec 5) : Info :=
  { cls := .e, qp := q, prv := 1, rd := [.s sb], wr := [], cx := [.s sb], ret := .after 1 }
def infoTlProbe (q : BitVec 4) (aa : BitVec 4) (sb : BitVec 5) : Info :=
  { cls := .e, qp := q, prv := 1, rd := [.a aa, .s sb], wr := [.s sb], cx := [.a aa, .s sb], ret := .after 1 }
def infoTlRoot (q : BitVec 4) (aa : BitVec 4) (sb : BitVec 5) : Info :=
  { cls := .e, qp := q, prv := 1, rd := [.a aa, .s sb], wr := [], cx := [.a aa, .s sb], ret := .after 1 }
def infoTlHash (q : BitVec 4) (aa : BitVec 4) (sb : BitVec 5) : Info :=
  { cls := .e, qp := q, prv := 1, rd := [.a aa, .s sb], wr := [.s sb], cx := [.a aa, .s sb], ret := .after 1 }
def infoTlDlog (q : BitVec 4) (aa : BitVec 4) (sb : BitVec 5) : Info :=
  { cls := .e, qp := q, prv := 1, rd := [.a aa, .s sb], wr := [], cx := [.a aa, .s sb], ret := .after 1 }
def infoPtQuiesce (q : BitVec 4) (sb : BitVec 5) : Info :=
  { cls := .e, qp := q, prv := 2, rd := [.s sb], wr := [.s sb], cx := [.s sb], ret := .after 1 }
def infoPtResume (q : BitVec 4) (sb : BitVec 5) : Info :=
  { cls := .e, qp := q, prv := 2, rd := [.s sb], wr := [.s sb], cx := [.s sb], ret := .after 1 }
def infoPtStateRead (q : BitVec 4) (sb : BitVec 5) : Info :=
  { cls := .e, qp := q, prv := 2, rd := [.s sb], wr := [.s sb], cx := [.s sb], ret := .after 1 }
def infoPtLayout (q : BitVec 4) (aa : BitVec 4) (sb : BitVec 5) : Info :=
  { cls := .e, qp := q, prv := 2, rd := [.a aa, .s sb], wr := [.s sb], cx := [.a aa, .s sb], ret := .after 1 }
def infoPtVfsetAssign (q : BitVec 4) (aa : BitVec 4) (sb : BitVec 5) : Info :=
  { cls := .e, qp := q, prv := 2, rd := [.a aa, .s sb], wr := [.s sb], cx := [.a aa, .s sb], ret := .after 1 }
def infoPtVfsetRelease (q : BitVec 4) (aa : BitVec 4) (sb : BitVec 5) : Info :=
  { cls := .e, qp := q, prv := 2, rd := [.a aa, .s sb], wr := [.s sb], cx := [.a aa, .s sb], ret := .after 1 }
def infoPtWays (q : BitVec 4) (sb : BitVec 5) : Info :=
  { cls := .e, qp := q, prv := 1, rd := [.s sb], wr := [.s sb], cx := [.s sb], ret := .after 1 }
def infoPtMove (q : BitVec 4) (aa : BitVec 4) (sb : BitVec 5) : Info :=
  { cls := .e, qp := q, prv := 2, rd := [.a aa, .s sb], wr := [.s sb, .tags], cx := [.a aa, .s sb], ret := .cmd }
def infoPtRetire (q : BitVec 4) (aa : BitVec 4) (sb : BitVec 5) : Info :=
  { cls := .e, qp := q, prv := 2, rd := [.a aa, .s sb], wr := [.s sb, .tags], cx := [.a aa, .s sb], ret := .cmd }
def infoPtFlr (q : BitVec 4) (sb : BitVec 5) : Info :=
  { cls := .e, qp := q, prv := 2, rd := [.s sb], wr := [.s sb], cx := [.s sb], ret := .after 1 }
def infoGtLset (q : BitVec 4) (sb : BitVec 5) : Info :=
  { cls := .e, qp := q, prv := 1, rd := [.s sb], wr := [.s sb], cx := [.s sb], ret := .after 1 }
def infoGtParty (q : BitVec 4) (aa : BitVec 4) (sb : BitVec 5) : Info :=
  { cls := .e, qp := q, prv := 2, rd := [.a aa, .s sb], wr := [.s sb], cx := [.a aa, .s sb], ret := .after 1 }
def infoGtReleaseInstall (q : BitVec 4) (aa : BitVec 4) (sb : BitVec 5) : Info :=
  { cls := .e, qp := q, prv := 1, rd := [.a aa, .s sb], wr := [.s sb, .tags], cx := [.a aa, .s sb], ret := .cmd }
def infoGtReleaseRevoke (q : BitVec 4) (aa : BitVec 4) (sb : BitVec 5) : Info :=
  { cls := .e, qp := q, prv := 1, rd := [.a aa, .s sb], wr := [.s sb, .tags], cx := [.a aa, .s sb], ret := .cmd }
def infoGtReleaseApply (q : BitVec 4) (aa : BitVec 4) (sb : BitVec 5) : Info :=
  { cls := .e, qp := q, prv := 1, rd := [.a aa, .s sb], wr := [.s sb, .tags], cx := [.a aa, .s sb], ret := .cmd }

/-- The info of a tile core's word; events and hart words have no slot. -/
def infoOf : Instr → Option Info
  | .add q d a b => some (infoAdd q d a b)
  | .sub q d a b => some (infoSub q d a b)
  | .mul q d a b => some (infoMul q d a b)
  | .mulh q d a b => some (infoMulh q d a b)
  | .mulhn q d a b => some (infoMulhn q d a b)
  | .div q d a b => some (infoDiv q d a b)
  | .divn q d a b => some (infoDivn q d a b)
  | .rem q d a b => some (infoRem q d a b)
  | .remn q d a b => some (infoRemn q d a b)
  | .and q d a b => some (infoAnd q d a b)
  | .or q d a b => some (infoOr q d a b)
  | .xor q d a b => some (infoXor q d a b)
  | .andn q d a b => some (infoAndn q d a b)
  | .shl q d a b => some (infoShl q d a b)
  | .shr q d a b => some (infoShr q d a b)
  | .sar q d a b => some (infoSar q d a b)
  | .min q d a b => some (infoMin q d a b)
  | .max q d a b => some (infoMax q d a b)
  | .minn q d a b => some (infoMinn q d a b)
  | .maxn q d a b => some (infoMaxn q d a b)
  | .clz q d a => some (infoClz q d a)
  | .ctz q d a => some (infoCtz q d a)
  | .popc q d a => some (infoPopc q d a)
  | .rotl q d a b => some (infoRotl q d a b)
  | .addi q d a i => some (infoAddi q d a i)
  | .andi q d a i => some (infoAndi q d a i)
  | .ori q d a i => some (infoOri q d a i)
  | .xori q d a i => some (infoXori q d a i)
  | .shli q d a i => some (infoShli q d a i)
  | .shri q d a i => some (infoShri q d a i)
  | .sari q d a i => some (infoSari q d a i)
  | .muli q d a i => some (infoMuli q d a i)
  | .li q d i => some (infoLi q d i)
  | .lic q d i => some (infoLic q d i)
  | .cmpEq q c k a b => some (infoCmpEq q c k a b)
  | .cmpNe q c k a b => some (infoCmpNe q c k a b)
  | .cmpLt q c k a b => some (infoCmpLt q c k a b)
  | .cmpGe q c k a b => some (infoCmpGe q c k a b)
  | .cmpLtn q c k a b => some (infoCmpLtn q c k a b)
  | .cmpGen q c k a b => some (infoCmpGen q c k a b)
  | .cmpTand q c k a b => some (infoCmpTand q c k a b)
  | .cmpTnand q c k a b => some (infoCmpTnand q c k a b)
  | .cmpiEq q c k a i => some (infoCmpiEq q c k a i)
  | .cmpiNe q c k a i => some (infoCmpiNe q c k a i)
  | .cmpiLt q c k a i => some (infoCmpiLt q c k a i)
  | .cmpiGe q c k a i => some (infoCmpiGe q c k a i)
  | .cmpiLtn q c k a i => some (infoCmpiLtn q c k a i)
  | .cmpiGen q c k a i => some (infoCmpiGen q c k a i)
  | .cmpiTbit q c k a i => some (infoCmpiTbit q c k a i)
  | .cmpiTnbit q c k a i => some (infoCmpiTnbit q c k a i)
  | .aadd q d a b => some (infoAadd q d a b)
  | .aaddi q d a i => some (infoAaddi q d a i)
  | .asub q d a b => some (infoAsub q d a b)
  | .aset q d b => some (infoAset q d b)
  | .ahi q d i => some (infoAhi q d i)
  | .aalign q d a n => some (infoAalign q d a n)
  | .aget q d a h => some (infoAget q d a h)
  | .ldI8 q d a l i => some (infoLdI8 q d a l i)
  | .ldI16 q d a l i => some (infoLdI16 q d a l i)
  | .ldI32 q d a l i => some (infoLdI32 q d a l i)
  | .ldD q d a l i => some (infoLdD q d a l i)
  | .ldN8 q d a l i => some (infoLdN8 q d a l i)
  | .ldN16 q d a l i => some (infoLdN16 q d a l i)
  | .ldN32 q d a l i => some (infoLdN32 q d a l i)
  | .stB q v a i => some (infoStB q v a i)
  | .stH q v a i => some (infoStH q v a i)
  | .stW q v a i => some (infoStW q v a i)
  | .stD q v a i => some (infoStD q v a i)
  | .ldt q d a f h l => some (infoLdt q d a f h l)
  | .stt q v a f h r => some (infoStt q v a f h r)
  | .vldt q d a f l => some (infoVldt q d a f l)
  | .vstt q v a f r => some (infoVstt q v a f r)
  | .amoAdd q d a l w => some (infoAmoAdd q d a l w)
  | .amoAnd q d a l w => some (infoAmoAnd q d a l w)
  | .amoOr q d a l w => some (infoAmoOr q d a l w)
  | .amoXor q d a l w => some (infoAmoXor q d a l w)
  | .amoMin q d a l w => some (infoAmoMin q d a l w)
  | .amoMax q d a l w => some (infoAmoMax q d a l w)
  | .amoMinn q d a l w => some (infoAmoMinn q d a l w)
  | .amoMaxn q d a l w => some (infoAmoMaxn q d a l w)
  | .amoSwap q d a l w => some (infoAmoSwap q d a l w)
  | .amoCas q d a l w => some (infoAmoCas q d a l w)
  | .br q k => some (infoBr q k)
  | .brv q k m w n => some (infoBrv q k m w n)
  | .prep q k i => some (infoPrep q k i)
  | .prepa q k a => some (infoPrepa q k a)
  | .brl q k d => some (infoBrl q k d)
  | .lbNest q l d g => some (infoLbNest q l d g)
  | .lbExit q => some (infoLbExit q)
  | .fence q c k => some (infoFence q c k)
  | .bind q a b o => some (infoBind q a b o)
  | .unbind q a => some (infoUnbind q a)
  | .acq q c o => some (infoAcq q c o)
  | .rel q c o => some (infoRel q c o)
  | .bwait q n => some (infoBwait q n)
  | .binit q n a => some (infoBinit q n a)
  | .twAny q p d a => some (infoTwAny q p d a)
  | .twAll q p d a => some (infoTwAll q p d a)
  | .twFfr q p d a => some (infoTwFfr q p d a)
  | .mwait q p o b => some (infoMwait q p o b)
  | .safe q n => some (infoSafe q n)
  | .suspend q a => some (infoSuspend q a)
  | .yield q => some (infoYield q)
  | .retire q => some (infoRetire q)
  | .svc q i => some (infoSvc q i)
  | .brk q i => some (infoBrk q i)
  | .sysrd q d n => some (infoSysrd q d n)
  | .syswr q a n => some (infoSyswr q a n)
  | .rfe q a d l => some (infoRfe q a d l)
  | .qlock q d => some (infoQlock q d)
  | .qfree q => some (infoQfree q)
  | .arv q l r c n => some (infoArv q l r c n)
  | .vld z m d a l => some (infoVld z m d a l)
  | .vlds z m d a l g => some (infoVlds z m d a l g)
  | .vldx z m d a l => some (infoVldx z m d a l)
  | .vldb z m d a l => some (infoVldb z m d a l)
  | .vst m v a => some (infoVst m v a)
  | .vsts m v a g => some (infoVsts m v a g)
  | .vstx m v a b => some (infoVstx m v a b)
  | .vadd z m d a b x => some (infoVadd z m d a b x)
  | .vsub z m d a b x => some (infoVsub z m d a b x)
  | .vmul z m d a b x => some (infoVmul z m d a b x)
  | .vmulh z m d a b x => some (infoVmulh z m d a b x)
  | .vand z m d a b x => some (infoVand z m d a b x)
  | .vor z m d a b x => some (infoVor z m d a b x)
  | .vxor z m d a b x => some (infoVxor z m d a b x)
  | .vshl z m d a b x => some (infoVshl z m d a b x)
  | .vshr z m d a b x => some (infoVshr z m d a b x)
  | .vsar z m d a b x => some (infoVsar z m d a b x)
  | .vmin z m d a b x => some (infoVmin z m d a b x)
  | .vmax z m d a b x => some (infoVmax z m d a b x)
  | .vadds z m d a b x => some (infoVadds z m d a b x)
  | .vsubs z m d a b x => some (infoVsubs z m d a b x)
  | .vabs z m d a => some (infoVabs z m d a)
  | .vmadw z m d a b x => some (infoVmadw z m d a b x)
  | .vfadd z m d a b x => some (infoVfadd z m d a b x)
  | .vfsub z m d a b x => some (infoVfsub z m d a b x)
  | .vfmul z m d a b x => some (infoVfmul z m d a b x)
  | .vfma z m d a b x => some (infoVfma z m d a b x)
  | .vfms z m d a b x => some (infoVfms z m d a b x)
  | .vfnma z m d a b x => some (infoVfnma z m d a b x)
  | .vfmin z m d a b x => some (infoVfmin z m d a b x)
  | .vfmax z m d a b x => some (infoVfmax z m d a b x)
  | .vfabs z m d a => some (infoVfabs z m d a)
  | .vfneg z m d a => some (infoVfneg z m d a)
  | .vcmpEq z m d a b x => some (infoVcmpEq z m d a b x)
  | .vcmpNe z m d a b x => some (infoVcmpNe z m d a b x)
  | .vcmpLt z m d a b x => some (infoVcmpLt z m d a b x)
  | .vcmpGe z m d a b x => some (infoVcmpGe z m d a b x)
  | .vfcmpEq z m d a b x => some (infoVfcmpEq z m d a b x)
  | .vfcmpNe z m d a b x => some (infoVfcmpNe z m d a b x)
  | .vfcmpLt z m d a b x => some (infoVfcmpLt z m d a b x)
  | .vfcmpGe z m d a b x => some (infoVfcmpGe z m d a b x)
  | .vsel m d a b x => some (infoVsel m d a b x)
  | .mand d a b => some (infoMand d a b)
  | .mor d a b => some (infoMor d a b)
  | .mxor d a b => some (infoMxor d a b)
  | .mnot d a => some (infoMnot d a)
  | .mcnt d a => some (infoMcnt d a)
  | .mffs d a => some (infoMffs d a)
  | .vcvt z m d a => some (infoVcvt z m d a)
  | .vcvtw z m d a => some (infoVcvtw z m d a)
  | .vcvtn z m d a => some (infoVcvtn z m d a)
  | .vperm z m d a b x => some (infoVperm z m d a b x)
  | .vslide z m d a b => some (infoVslide z m d a b)
  | .vredsum z m d a => some (infoVredsum z m d a)
  | .vfredsum z m d a => some (infoVfredsum z m d a)
  | .vredmax z m d a => some (infoVredmax z m d a)
  | .vredmin z m d a => some (infoVredmin z m d a)
  | .vext d a b => some (infoVext d a b)
  | .vins d a b => some (infoVins d a b)
  | .vbcast z m d a => some (infoVbcast z m d a)
  | .vrcp z m d a => some (infoVrcp z m d a)
  | .vrsqrt z m d a => some (infoVrsqrt z m d a)
  | .vsqrt z m d a => some (infoVsqrt z m d a)
  | .vexp2 z m d a => some (infoVexp2 z m d a)
  | .vlog2 z m d a => some (infoVlog2 z m d a)
  | .vclipq z m d a b => some (infoVclipq z m d a b)
  | .vnormq z m d a b => some (infoVnormq z m d a b)
  | .vrot => some infoVrot
  | .stgset a => some (infoStgset a)
  | .stgshift a => some (infoStgshift a)
  | .bnLd q a n => some (infoBnLd q a n)
  | .bnRt q d a n => some (infoBnRt q d a n)
  | .bnRto q d a n => some (infoBnRto q d a n)
  | .bnInv q i => some (infoBnInv q i)
  | .bnRd q d n => some (infoBnRd q d n)
  | .skInit q a b => some (infoSkInit q a b)
  | .skQadd q a v b => some (infoSkQadd q a v b)
  | .skHadd q a v b => some (infoSkHadd q a v b)
  | .skDadd q a v b => some (infoSkDadd q a v b)
  | .skMerge q a b => some (infoSkMerge q a b)
  | .skCompact q a b => some (infoSkCompact q a b)
  | .skQuant q a d b => some (infoSkQuant q a d b)
  | .skRank q a d b => some (infoSkRank q a d b)
  | .skTop q a d b => some (infoSkTop q a d b)
  | .skCard q a d => some (infoSkCard q a d)
  | .skSeal q a => some (infoSkSeal q a)
  | .skChk q a d => some (infoSkChk q a d)
  | .mxMma q ac sc aa sb => some (infoMxMma q ac sc aa sb)
  | .mxProm q aa sb => some (infoMxProm q aa sb)
  | .mxProme q aa sb => some (infoMxProme q aa sb)
  | .mxZero q sb => some (infoMxZero q sb)
  | .mxZld q ac sc aa sb => some (infoMxZld q ac sc aa sb)
  | .mxZst q rl sc aa sb => some (infoMxZst q rl sc aa sb)
  | .mxZcvt q rl sc aa sb => some (infoMxZcvt q rl sc aa sb)
  | .mxZadd q sb => some (infoMxZadd q sb)
  | .mxScl q sb => some (infoMxScl q sb)
  | .mxWsel q sb => some (infoMxWsel q sb)
  | .mxWake q sb => some (infoMxWake q sb)
  | .mxGate q sb => some (infoMxGate q sb)
  | .mxTask q ac rl sc aa sb => some (infoMxTask q ac rl sc aa sb)
  | .mxTstat q aa sb => some (infoMxTstat q aa sb)
  | .mxTkill q aa sb => some (infoMxTkill q aa sb)
  | .mxQsplit q sb => some (infoMxQsplit q sb)
  | .mxFence q rl sc => some (infoMxFence q rl sc)
  | .mxCfg q gh gl sb => some (infoMxCfg q gh gl sb)
  | .cpCopy q ac rl sc aa sb => some (infoCpCopy q ac rl sc aa sb)
  | .cpLdt q ac rl sc aa sb => some (infoCpLdt q ac rl sc aa sb)
  | .cpStt q ac rl sc aa sb => some (infoCpStt q ac rl sc aa sb)
  | .cpFill q ac sc aa sb => some (infoCpFill q ac sc aa sb)
  | .cpMap q aa sb => some (infoCpMap q aa sb)
  | .cpUnmap q rl sc sb => some (infoCpUnmap q rl sc sb)
  | .cpFlush q ac rl sc aa sb => some (infoCpFlush q ac rl sc aa sb)
  | .cpInval q ac rl sc aa sb => some (infoCpInval q ac rl sc aa sb)
  | .cpWfill q ac sc aa sb => some (infoCpWfill q ac sc aa sb)
  | .cpOvl q ac sc aa sb => some (infoCpOvl q ac sc aa sb)
  | .cpSpill q ac rl sc aa sb => some (infoCpSpill q ac rl sc aa sb)
  | .cpUnspill q ac rl sc aa sb => some (infoCpUnspill q ac rl sc aa sb)
  | .cpBcnt q rl sc aa sb => some (infoCpBcnt q rl sc aa sb)
  | .cpTclr q sb => some (infoCpTclr q sb)
  | .clTmk q aa sb => some (infoClTmk q aa sb)
  | .clTfree q sb => some (infoClTfree q sb)
  | .clPost q ac rl sc aa sb => some (infoClPost q ac rl sc aa sb)
  | .clTake q ac rl sc aa sb => some (infoClTake q ac rl sc aa sb)
  | .clFrz q sb => some (infoClFrz q sb)
  | .clThaw q sb => some (infoClThaw q sb)
  | .clSave q aa sb => some (infoClSave q aa sb)
  | .clRst q aa sb => some (infoClRst q aa sb)
  | .clEditRemove q sb => some (infoClEditRemove q sb)
  | .clEditAdd q sb => some (infoClEditAdd q sb)
  | .clReshard q ac rl sc aa sb => some (infoClReshard q ac rl sc aa sb)
  | .clQuery q sb => some (infoClQuery q sb)
  | .clMcast q ac rl sc aa sb => some (infoClMcast q ac rl sc aa sb)
  | .clBar q ac rl sc aa sb => some (infoClBar q ac rl sc aa sb)
  | .clAbort q sb => some (infoClAbort q sb)
  | .evSend q aa sb => some (infoEvSend q aa sb)
  | .evRecv q aa sb => some (infoEvRecv q aa sb)
  | .evGather q aa sb => some (infoEvGather q aa sb)
  | .evOpen q sb => some (infoEvOpen q sb)
  | .evClose q sb => some (infoEvClose q sb)
  | .dsLaunch q rl sc aa sb => some (infoDsLaunch q rl sc aa sb)
  | .dsLaunchW q rl sc aa sb => some (infoDsLaunchW q rl sc aa sb)
  | .dsQpush q rl sc aa sb => some (infoDsQpush q rl sc aa sb)
  | .dsQpop q ac sc aa sb => some (infoDsQpop q ac sc aa sb)
  | .dsCondSet q aa sb => some (infoDsCondSet q aa sb)
  | .dsCondAdd q aa sb => some (infoDsCondAdd q aa sb)
  | .dsCondOr q aa sb => some (infoDsCondOr q aa sb)
  | .dsCondAnd q aa sb => some (infoDsCondAnd q aa sb)
  | .dsGstart q aa sb => some (infoDsGstart q aa sb)
  | .dsGstop q aa sb => some (infoDsGstop q aa sb)
  | .dsWake q aa sb => some (infoDsWake q aa sb)
  | .dsPrio q aa sb => some (infoDsPrio q aa sb)
  | .dsQuery q sb => some (infoDsQuery q sb)
  | .tlInv q sc aa sb => some (infoTlInv q sc aa sb)
  | .tlInva q sc sb => some (infoTlInva q sc sb)
  | .tlProbe q aa sb => some (infoTlProbe q aa sb)
  | .tlRoot q aa sb => some (infoTlRoot q aa sb)
  | .tlHash q aa sb => some (infoTlHash q aa sb)
  | .tlDlog q aa sb => some (infoTlDlog q aa sb)
  | .ptQuiesce q sb => some (infoPtQuiesce q sb)
  | .ptResume q sb => some (infoPtResume q sb)
  | .ptStateRead q sb => some (infoPtStateRead q sb)
  | .ptLayout q aa sb => some (infoPtLayout q aa sb)
  | .ptVfsetAssign q aa sb => some (infoPtVfsetAssign q aa sb)
  | .ptVfsetRelease q aa sb => some (infoPtVfsetRelease q aa sb)
  | .ptWays q sb => some (infoPtWays q sb)
  | .ptMove q aa sb => some (infoPtMove q aa sb)
  | .ptRetire q aa sb => some (infoPtRetire q aa sb)
  | .ptFlr q sb => some (infoPtFlr q sb)
  | .gtLset q sb => some (infoGtLset q sb)
  | .gtParty q aa sb => some (infoGtParty q aa sb)
  | .gtReleaseInstall q aa sb => some (infoGtReleaseInstall q aa sb)
  | .gtReleaseRevoke q aa sb => some (infoGtReleaseRevoke q aa sb)
  | .gtReleaseApply q aa sb => some (infoGtReleaseApply q aa sb)
  | .jxRecv .. => none
  | .jxSend .. => none
  | .jxWait .. => none
  | .jxEnd => none
  | .jxEcreate .. => none
  | .jxEload .. => none
  | .jxEpark .. => none
  | .jxMabort .. => none
  | .jxWaitResume => none
  | .claim => none
  | .landingArrival .. => none
  | .landingTimeout => none
  | .safePointOverrun => none
  | .trap .. => none
  | .faultQueuePost => none
  | .sliceEnd => none
  | .priorityPreemption => none
  | .waitConditionMet .. => none
  | .waitDeadline .. => none
  | .readyTableAdmit .. => none
  | .spinSuspend => none
  | .heldGroupIssue => none
  | .barrierArrival .. => none
  | .pageWalk .. => none
  | .rds .. => none
  | .rdx .. => none
  | .upg .. => none
  | .wbd .. => none
  | .evc .. => none
  | .fwds .. => none
  | .fwdx .. => none
  | .inv .. => none
  | .dat .. => none
  | .cmpMessage .. => none
  | .ack .. => none
  | .don .. => none
  | .dieLinkFailure .. => none
  | .uncorrectableError .. => none
  | .correctableError .. => none
  | .commandCompletion .. => none
  | .overlayLoadComplete => none
  | .cpCszWrite .. => none
  | .fpSeedWrite .. => none
  | .fpVcfgWrite .. => none
  | .fpModeWrite .. => none
  | .patternLoadEnd => none
  | .blockPortWrite => none
  | .subarrayIdleOff .. => none
  | .subarrayOn .. => none
  | .mxPoolWrite .. => none
  | .taskStart .. => none
  | .taskEnd .. => none
  | .nodePull .. => none
  | .takeDelivery .. => none
  | .configRefill .. => none
  | .clRingWrite .. => none
  | .instructionBudgetExpiry => none
  | .wallBudgetExpiry .. => none
  | .episodeWipeComplete .. => none
  | .jwi => none
  | .jackWrite .. => none
  | .poolSlotEnqueue .. => none
  | .graphActivation => none
  | .dsAbortGo .. => none
  | .policyInstallComplete .. => none
  | .scrubLine => none
  | .frameMove => none
  | .mediaEntryTake .. => none
  | .mediaDecode .. => none
  | .mediaFlush .. => none
  | .mediaReset .. => none
  | .mediaCompletion .. => none
  | .msCtlWrite .. => none
  | .hostMemoryRead .. => none
  | .hostMemoryWrite .. => none
  | .hostAtomic .. => none
  | .spdmGetVersion .. => none
  | .spdmGetCapabilities .. => none
  | .spdmNegotiateAlgorithms .. => none
  | .spdmGetDigests .. => none
  | .spdmGetCertificate .. => none
  | .spdmChallenge .. => none
  | .spdmGetMeasurements .. => none
  | .spdmKeyExchange .. => none
  | .spdmFinish .. => none
  | .spdmEndSession .. => none
  | .mbVersion => none
  | .mbImageWrite => none
  | .mbImageCommit => none
  | .mbLifeCycleTransition => none
  | .mbThrottle => none
  | .mbLogDrain => none
  | .mcHeadWrite .. => none
  | .msiRaise .. => none
  | .deviceRegisterWrite .. => none
  | .qlTrain .. => none
  | .qlEnableWrite .. => none
  | .qlTrainComplete .. => none
  | .quaylinkFlit .. => none
  | .quaylinkPortDown .. => none
  | .coldReset => none
  | .boot => none
  | .thermalThrottle .. => none
  | .powerLimitThrottle => none
  | .hartInstruction .. => none
  | .machineTimerInterrupt => none
  | .thermalThrottleRelease .. => none
  | .powerLimitRelease => none

end Sys2Proof.Machine
end

