-- ==== Sys2Proof/Machine/Address.lean ====
section
/-! DEFINITION. Address arithmetic of major 0x05 (R95, R96): modulo 2^72, results at tick 1. -/
namespace Sys2Proof.Machine

def execAadd (q d a : BitVec 4) (b : BitVec 5) (s : State) :=
  tile (infoAadd q d a b) true s fun t =>
    .ok (resultA t (infoAadd q d a b) d ((t.core.rdA a).v + (t.core.rdS b).v.signExtend 72))
def execAaddi (q d a : BitVec 4) (i : BitVec 10) (s : State) :=
  tile (infoAaddi q d a i) true s fun t => .ok (resultA t (infoAaddi q d a i) d ((t.core.rdA a).v + i.signExtend 72))
def execAsub (q : BitVec 4) (d : BitVec 5) (a b : BitVec 4) (s : State) :=
  tile (infoAsub q d a b) true s fun t =>
    .ok (resultS t (infoAsub q d a b) d 1 (((t.core.rdA a).v - (t.core.rdA b).v).setWidth 64))
def execAset (q d : BitVec 4) (b : BitVec 5) (s : State) :=
  tile (infoAset q d b) true s fun t => .ok (resultA t (infoAset q d b) d ((t.core.rdS b).v.setWidth 72))
/-- ahi replaces bits 71:64 and keeps the rest. -/
def execAhi (q d : BitVec 4) (i : BitVec 8) (s : State) :=
  tile (infoAhi q d i) true s fun t =>
    .ok (resultA t (infoAhi q d i) d (((t.core.rdA d).v.setWidth 64).setWidth 72 ||| (i.setWidth 72 <<< 64)))
/-- aalign clears the low n bits. -/
def execAalign (q d a : BitVec 4) (n : BitVec 6) (s : State) :=
  tile (infoAalign q d a n) true s fun t =>
    .ok (resultA t (infoAalign q d a n) d (((t.core.rdA a).v >>> n.toNat) <<< n.toNat))
def execAget (q : BitVec 4) (d : BitVec 5) (a : BitVec 4) (h : BitVec 1) (s : State) :=
  tile (infoAget q d a h) true s fun t =>
    let x := (t.core.rdA a).v
    .ok (resultS t (infoAget q d a h) d 1 (if h = 0 then x.setWidth 64 else (x >>> 64).setWidth 64))

end Sys2Proof.Machine
end

