-- ==== Sys2Proof/Machine/Fp.lean ====
section
/-! DEFINITION. Number formats, rounding, flags and conversions (R62 to R87). A finite number is an exact rational,
so that each operation rounds once. -/
namespace Sys2Proof.Machine

/-- Flags as FP_FLAGS bits (R79). -/
def fNV : Nat := 16
def fDZ : Nat := 8
def fOF : Nat := 4
def fUF : Nat := 2
def fNX : Nat := 1

/-- A number before rounding: NaN, an infinity, or the rational n / d with a sign (signed zero kept). -/
inductive Fv where
  | nan
  | inf (neg : Bool)
  | fin (neg : Bool) (n d : Nat)
  deriving DecidableEq, Repr

/-- A floating format (R64 to R66): width, fraction bits, bias, largest finite code, infinity, NaN code. -/
structure Fmt where
  w : Nat
  m : Nat
  bias : Nat
  maxCode : Nat
  hasInf : Bool
  nan : Nat
  deriving DecidableEq, Repr

def fmtF32 : Fmt := ⟨32, 23, 127, 0x7F7FFFFF, true, 0x7FC00000⟩
/-- The floating format of a code (R62); E2M1 has no NaN, whose conversion gives +0 (R70). -/
def fmtOf : Nat → Fmt
  | 0 => fmtF32
  | 1 => ⟨16, 10, 15, 0x7BFF, true, 0x7E00⟩
  | 2 => ⟨16, 7, 127, 0x7F7F, true, 0x7FC0⟩
  | 3 => ⟨8, 3, 7, 0x7E, false, 0x7F⟩
  | 4 => ⟨8, 2, 15, 0x7B, true, 0x7E⟩
  | _ => ⟨4, 1, 1, 7, false, 0⟩

/-- The width in bits of a format code (R62). -/
def fmtWidth : Nat → Nat
  | 0 => 32 | 1 => 16 | 2 => 16 | 3 => 8 | 4 => 8 | 5 => 4 | 6 => 8 | 7 => 0
  | 8 => 4 | 9 => 8 | 10 => 16 | 11 => 32 | 12 => 4 | 13 => 8 | 14 => 16 | _ => 32

def isInt (f : Nat) : Bool := decide (8 ≤ f)
def isSigned (f : Nat) : Bool := decide (8 ≤ f) && decide (f < 12)
/-- A floating format other than E8M0. -/
def isFloat (f : Nat) : Bool := decide (f ≤ 5)

/-- 2^e for an integer e, as numerator and denominator. -/
def pow2 (e : Int) : Nat × Nat := if e < 0 then (1, 2 ^ (-e).toNat) else (2 ^ e.toNat, 1)
/-- n * 2^e as a non-negative rational. -/
def scaled (neg : Bool) (n : Nat) (e : Int) : Fv := let (p, q) := pow2 e
  .fin neg (n * p) q

/-- The value of an encoding (R64, R65). -/
def decodeF (f : Fmt) (x : Nat) : Fv :=
  let neg := bit x (f.w - 1)
  let mag := x % 2 ^ (f.w - 1)
  let ef := mag / 2 ^ f.m
  let fr := mag % 2 ^ f.m
  if f.maxCode < mag then (if f.hasInf ∧ fr = 0 then .inf neg else .nan)
  else if ef = 0 then scaled neg fr (1 - f.bias - f.m)
  else scaled neg (2 ^ f.m + fr) ((ef : Int) - f.bias - f.m)

/-- The value of an element of any floating code, E8M0 included (R68). -/
def decodeEl (code x : Nat) : Fv :=
  if code = 6 then (if x % 256 = 255 then .nan else scaled false 1 ((x % 256 : Nat) - 127)) else decodeF (fmtOf code) x

/-- floor(log2(n / d)) for n, d > 0. -/
def floorLog2 (n d : Nat) : Int :=
  let e : Int := (Nat.log2 n : Int) - Nat.log2 d
  let (p, q) := pow2 e
  if n * q < d * p then e - 1 else e

/-- floor(n / d * 2^e), and whether the division leaves a remainder, with twice the remainder and the divisor. -/
def divScaled (n d : Nat) (e : Int) : Nat × Nat × Nat :=
  let (p, q) := pow2 e
  let num := n * p
  let den := d * q
  (num / den, num % den, den)

def signAt (f : Fmt) (neg : Bool) : Nat := if neg then 2 ^ (f.w - 1) else 0

/-- An infinity, or the largest magnitude of a format that has none (R65). -/
def infCode (f : Fmt) : Nat := f.maxCode + 1

/-- Overflow (R73), with OF and NX. -/
def overflow (f : Fmt) (neg : Bool) (rm : Nat) : Nat × Nat :=
  let toInf := f.hasInf && (rm == 0 || rm == 4 || (rm == 2 && neg) || (rm == 3 && !neg))
  (signAt f neg + (if toInf then infCode f else f.maxCode), fOF + fNX)

/-- Which of two neighbours a magnitude k + r/den goes to in a rounding mode (R72): true for the upper one. -/
def roundUp (neg : Bool) (rm u k r den : Nat) : Bool :=
  match rm with
  | 0 => decide (den < 2 * r) || (2 * r == den && k % 2 == 1)
  | 1 => false
  | 2 => neg
  | 3 => !neg
  | 4 => decide (den ≤ 2 * r)
  | _ => decide (2 ^ 32 ≤ r * 2 ^ 32 / den + u)

/-- RoundToFormat of R72: the encoding and the flags. u is the draw of R77. -/
def roundF (f : Fmt) (x : Fv) (rm : Nat) (u : Nat := 0) : Nat × Nat :=
  match x with
  | .nan => (f.nan, 0)
  | .inf neg => if f.hasInf then (signAt f neg + infCode f, 0) else (signAt f neg + f.maxCode, fOF + fNX)
  | .fin neg n d =>
    if n = 0 then (signAt f neg, 0)
    else
      let emin : Int := 1 - f.bias
      let e := max (floorLog2 n d) emin
      let (k, r, den) := divScaled n d (f.m - e)
      let k' := if r ≠ 0 ∧ roundUp neg rm u k r den then k + 1 else k
      let code := (e - emin).toNat * 2 ^ f.m + k'
      if f.maxCode < code then overflow f neg rm
      else (signAt f neg + code, if r = 0 then 0 else if code < 2 ^ f.m then fUF + fNX else fNX)

/-- Rounding to an integer (R82): the value and whether it is inexact. -/
def roundInt (neg : Bool) (n d rm : Nat) : Int × Bool :=
  let k := n / d
  let r := n % d
  let k' := if r ≠ 0 ∧ roundUp neg rm 0 k r d then k + 1 else k
  (if neg then -(k' : Int) else k', r != 0)

/-- Rounding to E8M0 (R74). -/
def roundE8 (x : Fv) (rm : Nat) : Nat × Nat :=
  match x with
  | .fin false n d =>
    if n = 0 then (0xFF, fNV)
    else
      let fl := floorLog2 n d
      let (p, q) := pow2 fl
      let exact := n * q == d * p
      let e : Int := match rm with
        | 1 => fl
        | 2 => fl
        | 3 => if exact then fl else fl + 1
        | _ => if 2 * n * q ≥ 3 * d * p then fl + 1 else fl
      if e < -127 then (0, fUF + fNX) else if 127 < e then (0xFE, fOF + fNX)
      else ((e + 127).toNat, if exact then 0 else fNX)
  | _ => (0xFF, fNV)

/-- The integer range of a code (R69). -/
def intMin (c : Nat) : Int := if isSigned c then -(2 ^ (fmtWidth c - 1) : Nat) else 0
def intMax (c : Nat) : Int := if isSigned c then (2 ^ (fmtWidth c - 1) : Nat) - 1 else (2 ^ fmtWidth c : Nat) - 1
/-- The integer an element of an integer code encodes. -/
def intVal (c x : Nat) : Int := if isSigned c then sgn (fmtWidth c) x else (x % 2 ^ fmtWidth c : Nat)

/-- Is the encoding a subnormal of its format? -/
def isSub (f : Fmt) (x : Nat) : Bool :=
  let mag := x % 2 ^ (f.w - 1)
  mag != 0 && decide (mag < 2 ^ f.m)

/-- Formats that FZ flushes in the vector engine: FP32, FP16, BF16 (R78). -/
def fzFmt (c : Nat) : Bool := decide (c ≤ 2)

/-- A source element under FZ: a subnormal reads as a zero of its sign (R78). -/
def flushIn (fz : Bool) (c x : Nat) : Nat :=
  if fz ∧ fzFmt c ∧ isSub (fmtOf c) x then signAt (fmtOf c) (bit x (fmtWidth c - 1)) else x

/-- A rounded result under FZ: a subnormal becomes a signed zero with UF and NX (R78). -/
def flushOut (fz : Bool) (c : Nat) (r : Nat × Nat) : Nat × Nat :=
  if fz ∧ fzFmt c ∧ isSub (fmtOf c) r.1 then (signAt (fmtOf c) (bit r.1 (fmtWidth c - 1)), r.2 ||| (fUF + fNX)) else r

/-- Round an exact value to any floating code, E8M0 and E2M1's missing NaN included (R70, R72, R74). -/
def roundTo (fz : Bool) (c : Nat) (x : Fv) (rm u : Nat) : Nat × Nat :=
  if c = 6 then roundE8 x rm
  else if x = .nan then (if c = 5 then (0, fNV) else ((fmtOf c).nan, 0))
  else flushOut fz c (roundF (fmtOf c) x rm u)

/-- Convert an element from format sf to format df (R70, R74, R81 to R83). -/
def convert (fz : Bool) (sf df x rm u : Nat) : Nat × Nat :=
  if isInt sf then
    let v := intVal sf x
    if isInt df then (wrap (fmtWidth df) (clamp (intMin df) (intMax df) v), 0)
    else roundTo fz df (.fin (decide (v < 0)) v.natAbs 1) rm u
  else
    let v := decodeEl sf (flushIn fz sf x)
    if isInt df then
      match v with
      | .nan => (0, fNV)
      | .inf neg => (wrap (fmtWidth df) (if neg then intMin df else intMax df), fNV)
      | .fin neg n d =>
        let (k, nx) := roundInt neg n d rm
        if k < intMin df ∨ intMax df < k then (wrap (fmtWidth df) (clamp (intMin df) (intMax df) k), fNV)
        else (wrap (fmtWidth df) k, if nx then fNX else 0)
    else roundTo fz df v rm u

/-- The mode of an instruction's RM field: `.dyn` takes FP_MODE.RM, where 5 rounds as RNE unless the operation is
eligible for stochastic rounding, and 6 and 7 round as RNE (R71). -/
def rmOf (rm mode : Nat) (srOk : Bool) : Nat :=
  if rm = 6 then (if mode < 5 then mode else if mode = 5 ∧ srOk then 5 else 0) else rm

/-- Is a pair of codes eligible for stochastic rounding (R75)? -/
def srPair (sf df : Nat) : Bool := isFloat sf && isFloat df && decide (fmtWidth df < fmtWidth sf)

/-- The draw for element i of width w (R77). -/
def srDraw (seed sctr : BitVec 64) (w i : Nat) : Nat :=
  let lane := w * i / 32
  let j := i % (32 / w)
  (mix64 (seed ^^^ mix64 (((sctr + BitVec.ofNat 64 j) <<< 7) ||| BitVec.ofNat 64 lane))).toNat % 2 ^ 32

/-! ## Exact arithmetic (R245) -/

def Fv.neg : Fv → Fv
  | .nan => .nan
  | .inf s => .inf !s
  | .fin s n d => .fin (!s) n d

/-- The signed numerator. -/
def sgnN (neg : Bool) (n : Nat) : Int := if neg then -(n : Int) else n

/-- A sum, exact; a zero sum of opposite signs is +0, or −0 when `rdn` (R245). -/
def Fv.add (rdn : Bool) (x y : Fv) : Fv × Nat :=
  match x, y with
  | .nan, _ => (.nan, 0)
  | _, .nan => (.nan, 0)
  | .inf a, .inf b => if a = b then (.inf a, 0) else (.nan, fNV)
  | .inf a, _ => (.inf a, 0)
  | _, .inf b => (.inf b, 0)
  | .fin a n d, .fin b m e =>
    let v := sgnN a (n * e) + sgnN b (m * d)
    if v = 0 then (.fin (if a = b then a else rdn) 0 1, 0) else (.fin (decide (v < 0)) v.natAbs (d * e), 0)

def Fv.isZero : Fv → Bool
  | .fin _ 0 _ => true
  | _ => false

def Fv.sign : Fv → Bool
  | .nan => false
  | .inf s => s
  | .fin s _ _ => s

/-- A product, exact; ∞ × 0 is NaN with NV (R245). -/
def Fv.mul (x y : Fv) : Fv × Nat :=
  match x, y with
  | .nan, _ => (.nan, 0)
  | _, .nan => (.nan, 0)
  | .fin a n d, .fin b m e => (.fin (a != b) (n * m) (d * e), 0)
  | x, y => if x.isZero || y.isZero then (.nan, fNV) else (.inf (x.sign != y.sign), 0)

/-- A quotient, exact (R86). -/
def Fv.div (x y : Fv) : Fv :=
  match x, y with
  | .nan, _ => .nan
  | _, .nan => .nan
  | .inf _, .inf _ => .nan
  | .inf a, y => .inf (a != y.sign)
  | .fin a _ _, .inf b => .fin (a != b) 0 1
  | .fin a n d, .fin b m e => if m = 0 then (if n = 0 then .nan else .inf (a != b)) else .fin (a != b) (n * e) (d * m)

/-- x × y + z, rounded nowhere (R244): a NaN operand gives NaN with no flag, but ∞ × 0 raises NV
whatever the addend holds. -/
def Fv.fma (rdn : Bool) (x y z : Fv) : Fv × Nat :=
  let (p, f) := x.mul y
  let (r, g) := p.add rdn z
  (r, f ||| g)

/-- Order of two values with −0 below +0 (R246, R253). -/
def Fv.lt (x y : Fv) : Bool :=
  match x, y with
  | .fin a n d, .fin b m e =>
    if n = 0 ∧ m = 0 then a && !b else decide (sgnN a (n * e) < sgnN b (m * d))
  | .inf a, .inf b => a && !b
  | .inf a, .fin .. => a
  | .fin .., .inf b => !b
  | _, _ => false

/-- Numerical comparison: less, equal (R247); false with a NaN. -/
def Fv.cmpLt (x y : Fv) : Bool := match x, y with
  | .fin _ 0 _, .fin _ 0 _ => false
  | x, y => x.lt y
def Fv.cmpEq (x y : Fv) : Bool := match x, y with
  | .nan, _ => false
  | _, .nan => false
  | .inf a, .inf b => a == b
  | .fin a n d, .fin b m e => decide (sgnN a (n * e) = sgnN b (m * d))
  | _, _ => false

/-! ## Square roots, powers and logarithms (R258) -/

/-- Integer square root by bisection on fuel. -/
def isqrtGo : Nat → Nat → Nat → Nat → Nat
  | 0, _, lo, _ => lo
  | k + 1, n, lo, hi => if hi ≤ lo + 1 then lo else
    let mid := (lo + hi) / 2
    if mid * mid ≤ n then isqrtGo k n mid hi else isqrtGo k n lo mid
def isqrt (n : Nat) : Nat := isqrtGo (Nat.log2 n + 3) n 0 (2 ^ (Nat.log2 n / 2 + 1))

/-- A positive real known to lie strictly between lo and hi = lo + one unit of 2^-p, or exactly at lo: represented to
RoundToFormat as lo plus a sticky quarter unit. -/
def sticky (k p : Nat) (exact : Bool) : Fv := if exact then .fin false k (2 ^ p) else .fin false (4 * k + 1) (2 ^ (p + 2))

/-- The square root of n / d, d a power of two, to beyond FP32's precision, with a sticky part (R258). -/
def sqrtFv (n d : Nat) : Fv :=
  -- shift so that the root has at least 40 significant bits
  let e := Nat.log2 d
  let e' := e + e % 2 + 2 * 240
  let num := n * 2 ^ (e' - e)
  let r := isqrt num
  sticky r (e' / 2) (r * r == num)

/-- x^2 in fixed point of p fraction bits, rounded down or up. -/
def mulFix (p : Nat) (up : Bool) (x y : Nat) : Nat := if up then (x * y + 2 ^ p - 1) / 2 ^ p else x * y / 2 ^ p

/-- 2^(-i) roots of two: 2^(1/2^i) in p-bit fixed point, rounded down (i counts square roots taken). -/
def roots2 (p : Nat) : Nat → Nat → List Nat
  | 0, _ => []
  | k + 1, r => let r' := isqrt (r * 2 ^ p)
    r' :: roots2 p k r'

/-- A lower bound of 2^f for f = g / 2^k in [0, 1), by multiplying the roots of two its bits select; p-bit fixed
point. The error is below 4k units. -/
def exp2Frac (p : Nat) : Nat → Nat → List Nat → Nat
  | 0, _, _ => 2 ^ p
  | _ + 1, _, [] => 2 ^ p
  | k + 1, g, r :: rs =>
    let b := g / 2 ^ k % 2
    let t := exp2Frac p k (g % 2 ^ k) rs
    if b = 1 then mulFix p false r t else t

/-- The fraction bits of log2 m for m in [1, 2) in p-bit fixed point, by repeated squaring, k bits. -/
def log2Frac (p : Nat) : Nat → Nat → Nat
  | 0, _ => 0
  | k + 1, m =>
    let sq := m * m / 2 ^ p
    if 2 ^ (p + 1) ≤ sq then 2 ^ k + log2Frac p k (sq / 2) else log2Frac p k sq

/-- 2^x for a finite x = ±n/d (d a power of two), with a sticky part unless x is an integer (R258). Fraction bits past
200 are below the sticky part's weight for every FP32 argument. -/
def exp2Fv (neg : Bool) (n d : Nat) : Fv :=
  let k := Nat.log2 d
  let v := sgnN neg n
  let fl := v / (d : Int)
  let fr := (v % (d : Int)).toNat
  let ip : Int := if fl < -400 then -400 else if 400 < fl then 400 else fl
  if fr = 0 then scaled false 1 ip
  else
    let p := 320
    let m := exp2Frac p k fr (roots2 p k (2 * 2 ^ p))
    -- drop the uncertain low bits and mark the value inexact
    match scaled false 1 (ip - 256) with
    | .fin _ a b => .fin false ((4 * (m / 2 ^ 64) + 1) * a) (4 * b)
    | x => x

/-- log2 x for x = n/d > 0, with a sticky part unless x is a power of two (R258). -/
def log2Fv (n d : Nat) : Fv :=
  let e := floorLog2 n d
  let (a, b) := pow2 e
  if n * b = d * a then .fin (decide (e < 0)) e.natAbs 1
  else
    let p := 320
    let m := n * b * 2 ^ p / (d * a)
    let f := log2Frac p 140 m
    -- log2 x lies in (e + f/2^140 - small, e + (f+1)/2^140)
    let v : Int := (e * 2 ^ 140 + f) * 4 + 1
    .fin (decide (v < 0)) v.natAbs (2 ^ 142)

end Sys2Proof.Machine
end

