-- ==== Sys2Proof/Machine/MemAccess.lean ====
section
/-! DEFINITION. Scalar loads and stores of majors 0x06 and 0x07 (R97 to R101) and atomics of major 0x09 (R105). -/
namespace Sys2Proof.Machine

/-- A landing request finds at most 31 others outstanding, or its group freezes (R26). -/
def landRoom (s : State) (act : Act) : Act := if landsOut s.core ≥ 32 then .error .hold else act

/-- Read size bytes for a load and land f of them in the register named by `eff` at tick LND + 4 (R97, R98). -/
def loadLand (i : Info) (va size : Nat) (l : BitVec 5) (cls : BitVec 3) (reg : BitVec 5) (eff : Nat → Eff) (t : State) : Act :=
  if va % size ≠ 0 then .error (accStop t .mis va size false false)
  else landRoom t <|
    match readBytes t t.core.who va size .read with
    | .error (e, at_) => .error (accStop t e at_ size false false)
    | .ok (t1, v, ml) => .ok (pushLand t1 (l.toNat + 4) (eff v) (ml ||| readLabel t.core i.rd) cls reg [va])

/-- A scalar load (R97): effective address aa + disp × size. -/
def loadS (i : Info) (d : BitVec 5) (a : BitVec 4) (l disp : BitVec 5) (size : Nat) (conv : Nat → Word) (s : State) :
    Host.Outcome State Fault Refusal :=
  tile i true s fun t =>
    loadLand i (((t.core.rdA a).v.toNat + disp.toNat * size) % 2 ^ 72) size l 0 d (fun v => .s d (conv v)) t

/-- A scalar store (R97, R98), performed at issue; its label is that of sv, aa and the context. -/
def storeS (i : Info) (v : BitVec 5) (a : BitVec 4) (disp : BitVec 10) (size : Nat) (s : State) : Host.Outcome State Fault Refusal :=
  tile i true s fun t =>
    let va := ((t.core.rdA a).v.toNat + disp.toNat * size) % 2 ^ 72
    if va % size ≠ 0 then .error (accStop t .mis va size true false)
    else match writeBytes t t.core.who va size ((t.core.rdS v).v.toNat % 2 ^ (8 * size)) (readLabel t.core i.rd) with
      | .error (e, at_) => .error (accStop t e at_ size true false)
      | .ok t1 => .ok t1

def execLdI8 (q : BitVec 4) (d : BitVec 5) (a : BitVec 4) (l i : BitVec 5) (s : State) := loadS (infoLdI8 q d a l i) d a l i 1 (fun v => (BitVec.ofNat 8 v).signExtend 64) s
def execLdI16 (q : BitVec 4) (d : BitVec 5) (a : BitVec 4) (l i : BitVec 5) (s : State) := loadS (infoLdI16 q d a l i) d a l i 2 (fun v => (BitVec.ofNat 16 v).signExtend 64) s
def execLdI32 (q : BitVec 4) (d : BitVec 5) (a : BitVec 4) (l i : BitVec 5) (s : State) := loadS (infoLdI32 q d a l i) d a l i 4 (fun v => (BitVec.ofNat 32 v).signExtend 64) s
def execLdD (q : BitVec 4) (d : BitVec 5) (a : BitVec 4) (l i : BitVec 5) (s : State) := loadS (infoLdD q d a l i) d a l i 8 (BitVec.ofNat 64) s
def execLdN8 (q : BitVec 4) (d : BitVec 5) (a : BitVec 4) (l i : BitVec 5) (s : State) := loadS (infoLdN8 q d a l i) d a l i 1 (BitVec.ofNat 64) s
def execLdN16 (q : BitVec 4) (d : BitVec 5) (a : BitVec 4) (l i : BitVec 5) (s : State) := loadS (infoLdN16 q d a l i) d a l i 2 (BitVec.ofNat 64) s
def execLdN32 (q : BitVec 4) (d : BitVec 5) (a : BitVec 4) (l i : BitVec 5) (s : State) := loadS (infoLdN32 q d a l i) d a l i 4 (BitVec.ofNat 64) s
def execStB (q : BitVec 4) (v : BitVec 5) (a : BitVec 4) (i : BitVec 10) (s : State) := storeS (infoStB q v a i) v a i 1 s
def execStH (q : BitVec 4) (v : BitVec 5) (a : BitVec 4) (i : BitVec 10) (s : State) := storeS (infoStH q v a i) v a i 2 s
def execStW (q : BitVec 4) (v : BitVec 5) (a : BitVec 4) (i : BitVec 10) (s : State) := storeS (infoStW q v a i) v a i 4 s
def execStD (q : BitVec 4) (v : BitVec 5) (a : BitVec 4) (i : BitVec 10) (s : State) := storeS (infoStD q v a i) v a i 8 s

/-- An atomic (R105): indivisible, written even when unchanged; the old value lands zero-extended. `f old sd s(d+1)`
works on the access's width. -/
def amo (i : Info) (wf : Bool) (d : BitVec 5) (a : BitVec 4) (l : BitVec 5) (w : BitVec 1) (f : Nat → Nat → Nat → Nat → Nat) (s : State) :
    Host.Outcome State Fault Refusal :=
  tile i wf s fun t =>
    let size := if w = 1 then 4 else 8
    let m := 2 ^ (8 * size)
    let va := (t.core.rdA a).v.toNat
    if va % size ≠ 0 then .error (accStop t .mis va size false true)
    else landRoom t <|
      match readVa t t.core.who va size .rmw with
      | .error e => .error (accStop t (firstCause e (writeVa t t.core.who va size 0 (readLabel t.core i.rd) 0 true)) va size false true)
      | .ok (t1, old, ml) =>
        let new := f size old ((t.core.rdS d).v.toNat % m) ((t.core.rdS (d + 1)).v.toNat % m) % m
        let lab := ml ||| readLabel t.core i.rd
        match writeVa t1 t1.core.who va size new lab 0 true with
        | .error e => .error (accStop t e va size false true)
        | .ok t2 => .ok (pushLand t2 (l.toNat + 4) (.s d (BitVec.ofNat 64 old)) (ml ||| readLabel t.core i.cx) 0 d [va])

def execAmoAdd (q : BitVec 4) (d : BitVec 5) (a : BitVec 4) (l : BitVec 5) (w : BitVec 1) (s : State) :=
  amo (infoAmoAdd q d a l w) true d a l w (fun _ old x _ => old + x) s
def execAmoAnd (q : BitVec 4) (d : BitVec 5) (a : BitVec 4) (l : BitVec 5) (w : BitVec 1) (s : State) :=
  amo (infoAmoAnd q d a l w) true d a l w (fun _ old x _ => old &&& x) s
def execAmoOr (q : BitVec 4) (d : BitVec 5) (a : BitVec 4) (l : BitVec 5) (w : BitVec 1) (s : State) :=
  amo (infoAmoOr q d a l w) true d a l w (fun _ old x _ => old ||| x) s
def execAmoXor (q : BitVec 4) (d : BitVec 5) (a : BitVec 4) (l : BitVec 5) (w : BitVec 1) (s : State) :=
  amo (infoAmoXor q d a l w) true d a l w (fun _ old x _ => old ^^^ x) s
def execAmoMin (q : BitVec 4) (d : BitVec 5) (a : BitVec 4) (l : BitVec 5) (w : BitVec 1) (s : State) :=
  amo (infoAmoMin q d a l w) true d a l w (fun n old x _ => if sgn (8 * n) old < sgn (8 * n) x then old else x) s
def execAmoMax (q : BitVec 4) (d : BitVec 5) (a : BitVec 4) (l : BitVec 5) (w : BitVec 1) (s : State) :=
  amo (infoAmoMax q d a l w) true d a l w (fun n old x _ => if sgn (8 * n) old < sgn (8 * n) x then x else old) s
def execAmoMinn (q : BitVec 4) (d : BitVec 5) (a : BitVec 4) (l : BitVec 5) (w : BitVec 1) (s : State) :=
  amo (infoAmoMinn q d a l w) true d a l w (fun _ old x _ => if old < x then old else x) s
def execAmoMaxn (q : BitVec 4) (d : BitVec 5) (a : BitVec 4) (l : BitVec 5) (w : BitVec 1) (s : State) :=
  amo (infoAmoMaxn q d a l w) true d a l w (fun _ old x _ => if old < x then x else old) s
def execAmoSwap (q : BitVec 4) (d : BitVec 5) (a : BitVec 4) (l : BitVec 5) (w : BitVec 1) (s : State) :=
  amo (infoAmoSwap q d a l w) true d a l w (fun _ _ x _ => x) s
def execAmoCas (q : BitVec 4) (d : BitVec 5) (a : BitVec 4) (l : BitVec 5) (w : BitVec 1) (s : State) :=
  amo (infoAmoCas q d a l w) (d != 31) d a l w (fun _ old x y => if old = y then x else old) s

end Sys2Proof.Machine
end

