-- ==== Sys2Proof/Machine/Vector.lean ====
section
/-! DEFINITION. The vector engine: majors 0x0D to 0x15 (R225 to R262, R390). -/
namespace Sys2Proof.Machine

/-! ## FP_VCFG, masks and the registers it adds (R226, R232, R234) -/

def vcEt (c : Core) : Nat := bits c.fpVcfg.toNat 3 0
def vcDt (c : Core) : Nat := bits c.fpVcfg.toNat 7 4
def vcRm (c : Core) : Nat := bits c.fpVcfg.toNat 10 8
/-- Is a mask field a stage gate (R232)? -/
def gated (c : Core) (m : BitVec 3) : Bool := c.fpVcfg.getLsbD 11 && decide (4 ≤ m)
/-- The predicate a stage gate reads: p(8 + MSK − 4). -/
def gateReg (m : BitVec 3) : BitVec 4 := m.setWidth 4 + 4
/-- The governing mask (R232). -/
def governing (c : Core) (m : BitVec 3) : Nat :=
  if gated c m then (if (c.rdP (gateReg m)).v = 1 then 2 ^ 1024 - 1 else 0) else (c.rdM m).v.toNat

/-- The members of a group of k registers named by its base (R234). -/
def vGroup (d : BitVec 5) (k : Nat) : List (BitVec 5) := (List.range k).map (fun j => d + BitVec.ofNat 5 j)

/-- The width ratio of vcvtw, vcvtn and the group size of vmadw (R234, R243). -/
def widenK (c : Core) : Nat := fmtWidth (vcDt c) / max 1 (fmtWidth (vcEt c))
def narrowK (c : Core) : Nat := fmtWidth (vcEt c) / max 1 (fmtWidth (vcDt c))
def madwK (c : Core) : Nat := 32 / max 1 (fmtWidth (vcEt c))

/-- What a V word reads in place of its mask field, for labels (R232, R235). -/
def gateInfo (c : Core) (m : BitVec 3) (i : Info) : Info :=
  if gated c m then { i with rd := i.rd.filter (· != .m m) ++ [.p (gateReg m)] } else i

/-! ## Elements (R225, R63) -/

/-- Element j, of width w, of a register or block. -/
def elem (x w j : Nat) : Nat := (x >>> (w * j)) % 2 ^ w
/-- A register from its elements, lowest first. -/
def packL (w : Nat) (l : List Nat) : Nat := l.foldr (fun x acc => x % 2 ^ w + (acc <<< w)) 0
/-- Ones over the elements j < n selected. -/
def elemMask (w n : Nat) (sel : Nat → Bool) : Nat := packL w ((List.range n).map (fun j => if sel j then 2 ^ w - 1 else 0))

/-- What a V word sees of its configuration, mask and label (R226, R232, R235). -/
structure VCtx where
  et : Nat
  dt : Nat
  w : Nat
  gov : Nat
  zr : Bool
  /-- MSK is not 0: with ZR = 0 the destination's label at the result tick joins (R235). -/
  keep : Bool
  fz : Bool
  rm : Nat
  lab : Label

def vctx (c : Core) (i : Info) (z : BitVec 1) (m : BitVec 3) : VCtx :=
  { et := vcEt c, dt := vcDt c, w := fmtWidth (vcEt c), gov := governing c m, zr := z == 1, keep := z == 0 && m != 0,
    fz := c.fpMode.getLsbD 3, rm := rmOf (vcRm c) (c.fpMode.toNat % 8) false, lab := readLabel c (gateInfo c m i).rd }

def VCtx.n (k : VCtx) : Nat := 4096 / max 1 k.w
def VCtx.act (k : VCtx) (j : Nat) : Bool := bit k.gov j

/-- An element of a source register, and of the second operand: vb, or sb at every position (R230). -/
def vEl (c : Core) (k : VCtx) (r : BitVec 5) (j : Nat) : Nat := elem (c.rdV r).v.toNat k.w j
def vElB (c : Core) (k : VCtx) (b : BitVec 5) (x : BitVec 1) (j : Nat) : Nat :=
  if x = 1 then (c.rdS b).v.toNat % 2 ^ k.w else vEl c k b j

/-- Write the elements of a vector register, inactive ones by R232, n ticks after issue. -/
def putV (t : State) (k : VCtx) (d : BitVec 5) (w n : Nat) (act : Nat → Bool) (es : List Nat) (grp : List (BitVec 5) := []) : State :=
  let mask := BitVec.ofNat 4096 (if k.keep then elemMask w es.length act else 2 ^ 4096 - 1)
  let x := BitVec.ofNat 4096 (packL w ((List.zipIdx es).map (fun e => if act e.2 then e.1 else 0)))
  let r := physV t.core d
  push t n (if k.keep ∧ grp ≠ [] then .vg r x mask (grp.map (physV t.core)) else .v r x mask k.keep) k.lab

/-- Set sticky flags with a vector result (R80), whose label may take the register's (R235). -/
def putFlags (t : State) (k : VCtx) (n f : Nat) (d : BitVec 5) : State :=
  push t n (if k.keep then .flagsOf (BitVec.ofNat 5 f) false (physV t.core d) else .flags (BitVec.ofNat 5 f)) k.lab

def orNat (l : List Nat) : Nat := l.foldl (· ||| ·) 0

/-- Run a V word: its configuration checked (R228), then its action with what it sees. -/
def vWord (i : Info) (z : BitVec 1) (m : BitVec 3) (ok : Core → Bool) (s : State) (act : VCtx → State → Act) :
    Host.Outcome State Fault Refusal :=
  tileChk i (if ok s.core then none else some (illegal s 5)) s fun t => act (vctx t.core i z m) t

/-- An element-wise word: f of the state and element number, result at tick n; `fl` for flag-capable words. -/
def vMap (i : Info) (z : BitVec 1) (m : BitVec 3) (d : BitVec 5) (n : Nat) (fl : Bool) (ok : Core → Bool)
    (f : Core → VCtx → Nat → Nat × Nat) (s : State) : Host.Outcome State Fault Refusal :=
  vWord i z m ok s fun k t =>
    let es := (List.range k.n).map (fun j => if k.act j then f t.core k j else (0, 0))
    let t1 := putV t k d k.w n k.act (es.map (·.1))
    .ok (if fl then putFlags t1 k n (orNat (es.map (·.2))) d else t1)

/-! ## Formats allowed (R228) -/

def etAny (c : Core) : Bool := vcEt c != 7
def etByte (c : Core) : Bool := vcEt c != 7 && decide (8 ≤ fmtWidth (vcEt c))
def etInt (c : Core) : Bool := isInt (vcEt c)
def etF3 (c : Core) : Bool := decide (vcEt c ≤ 2)
def rmFixed (c : Core) : Bool := vcRm c != 5 && vcRm c != 7
def etArith (c : Core) : Bool := etF3 c && rmFixed c
def etF32 (c : Core) : Bool := vcEt c == 0

/-! ## Loads and stores (R239 to R241) -/

/-- An element access: its element, address and size in bytes. -/
structure VAcc where
  j : Nat
  va : Nat
  n : Nat

/-- Active elements with their addresses. -/
def vAccs (k : VCtx) (n : Nat) (addr : Nat → Nat) : List VAcc :=
  ((List.range k.n).filter k.act).map (fun j => ⟨j, addr j % 2 ^ 72, n⟩)

/-- The misaligned access of R239, at the lowest active element that is one. -/
def vAlign (t : State) (bad : Bool) (sz : Nat) (st : Bool) (l : List VAcc) (act : Act) : Act :=
  if bad then
    match l.find? (fun e => e.va % e.n != 0) with
    | some e => .error (accStop t .mis e.va sz st false)
    | none => match l with
      | e :: _ => .error (accStop t .mis e.va sz st false)
      | [] => act
  else act

/-- The stop of a word whose rule states TR_INFO bits 3:0 for each of its causes (R241, R335): they hold log2 of the size of a stash
map fault too, where R191 and R197 have the reason (DEDUCED: the rule that speaks of this word alone is followed, logs 24 and 28). -/
def sizedStop (t : State) (e : AErr) (va sz : Nat) (st : Bool) : Stop :=
  match e with
  | .stash _ => .trap 0xE (log2 sz) va
  | e => accStop t e va sz st false

/-- The failure of one element, or, where an element after it fails with a cause that comes before (R35), of the lowest-numbered
that fails with the first cause (R241; DEDUCED, log 25); f says how each fails on its own. -/
def vStop (t : State) (e : AErr) (va sz : Nat) (st : Bool) (l : List VAcc) (f : VAcc → Option AErr) : Stop :=
  let w := worst (e, va) (l.filterMap (fun x => (f x).map (fun y => (y, x.va))))
  sizedStop t w.1 w.2 sz st

def readGo (t : State) : List VAcc → Except (AErr × Nat) (State × List (Nat × Nat) × Label)
  | [] => .ok (t, [], 0)
  | e :: l =>
    match readBytes t t.core.who e.va e.n .read with
    | .error (x, _) => .error (x, e.va)
    | .ok (t1, v, lab) => match readGo t1 l with
      | .error x => .error x
      | .ok (t2, vs, lab2) => .ok (t2, (e.j, v) :: vs, lab ||| lab2)

def vErr {α : Type} : Except (AErr × Nat) α → Option AErr
  | .error e => some e.1
  | .ok _ => none

/-- Read the active elements: their values and the label of what they read (R239, R241). -/
def readAll (sz : Nat) (t : State) (l : List VAcc) : Except Stop (State × List (Nat × Nat) × Label) :=
  match readGo t l with
  | .ok r => .ok r
  | .error (e, va) => .error (vStop t e va sz false l (fun x => vErr (readBytes t t.core.who x.va x.n .read)))

/-- A vector load: one landing request, all active elements written at tick N; `one` element that is read once for all of them
is vldb's, written to every active position (R239); under ZR = 1 inactive elements are written with zero (R45, R232). -/
def vLoad (i : Info) (z : BitVec 1) (m : BitVec 3) (d : BitVec 5) (l : BitVec 5) (ok : Core → Bool) (whole one : Bool)
    (bad : Core → VCtx → Bool) (addr : Core → VCtx → Nat → Nat) (s : State) : Host.Outcome State Fault Refusal :=
  vWord i z m ok s fun k t =>
    let eb := max 1 (k.w / 8)
    let sz := if whole then 512 else eb
    let acc := vAccs k eb (addr t.core k)
    vAlign t (bad t.core k) sz false acc <| landRoom t <|
      match readAll sz t (if one then acc.take 1 else acc) with
      | .error e => .error e
      | .ok (t1, vs, ml) =>
        let val (j : Nat) : Nat := match (if one then (if k.act j then vs.head?.map (·.2) else none) else lookup vs j) with
          | some x => if k.w = 4 then elem x 4 (j % 2) else x
          | none => 0
        let mask := if k.keep then elemMask k.w k.n k.act else 2 ^ 4096 - 1
        .ok (pushLand t1 (l.toNat + 4) (.v (physV t.core d) (BitVec.ofNat 4096 (packL k.w ((List.range k.n).map val)))
          (BitVec.ofNat 4096 mask) k.keep) (ml ||| k.lab) 3 d (acc.map (·.va)))

/-- Write one active element: a 4-bit one replaces its nibble (R240). -/
def writeEl (w : Nat) (src : Nat → Nat) (lab : Label) (t : State) (e : VAcc) : Except (AErr × Nat) State :=
  match (if w = 4 then
      (match readVa t t.core.who e.va 1 .write with
      | .ok (t1, b, _) => Except.ok (t1, if e.j % 2 = 0 then b / 16 * 16 + src e.j else b % 16 + 16 * src e.j)
      | .error x => .error (firstCause x (writeVa t t.core.who e.va 1 0 lab 0)))
    else .ok (t, src e.j)) with
  | .error x => .error (x, e.va)
  | .ok (t1, v) => writeBytes t1 t1.core.who e.va e.n v lab

def writeGo (w : Nat) (src : Nat → Nat) (lab : Label) : State → List VAcc → Except (AErr × Nat) State
  | t, [] => .ok t
  | t, e :: l =>
    match writeEl w src lab t e with
    | .error (x, _) => .error (x, e.va)
    | .ok t1 => writeGo w src lab t1 l

/-- Write the active elements, in ascending order (R240, R241). -/
def writeAll (sz w : Nat) (src : Nat → Nat) (lab : Label) (t : State) (l : List VAcc) : Act :=
  match writeGo w src lab t l with
  | .ok t1 => .ok t1
  | .error (e, va) => .error (vStop t e va sz true l (fun x => vErr (writeEl w src lab t x)))

/-- A vector store of the active elements, in ascending order (R240). -/
def vStore (i : Info) (m : BitVec 3) (v : BitVec 5) (ok : Core → Bool) (whole : Bool)
    (bad : Core → VCtx → Bool) (addr : Core → VCtx → Nat → Nat) (s : State) : Host.Outcome State Fault Refusal :=
  vWord i 0 m ok s fun k t =>
    let eb := max 1 (k.w / 8)
    let sz := if whole then 512 else eb
    let acc := vAccs k eb (addr t.core k)
    vAlign t (bad t.core k) sz true acc <| writeAll sz k.w (vEl t.core k v) k.lab t acc

def aaOf (c : Core) (a : BitVec 4) : Nat := (c.rdA a).v.toNat
/-- Element positions of R63, strides and scaled indices. -/
def atPlain (a : BitVec 4) (c : Core) (k : VCtx) (j : Nat) : Nat := aaOf c a + k.w * j / 8
def strideOf (c : Core) (g : BitVec 2) : Int := (c.rdG (60 + g.setWidth 6)).v.toInt
def atStride (a : BitVec 4) (g : BitVec 2) (c : Core) (_k : VCtx) (j : Nat) : Nat := wrap 72 ((aaOf c a : Int) + (j : Int) * strideOf c g)
def atIndex (a : BitVec 4) (r : BitVec 5) (c : Core) (k : VCtx) (j : Nat) : Nat := aaOf c a + vEl c k r j * (k.w / 8)
def bad64 (a : BitVec 4) (c : Core) (_k : VCtx) : Bool := aaOf c a % 64 != 0
def badEl (a : BitVec 4) (c : Core) (k : VCtx) : Bool := aaOf c a % max 1 (k.w / 8) != 0
def badStride (a : BitVec 4) (g : BitVec 2) (c : Core) (k : VCtx) : Bool :=
  badEl a c k || wrap 72 (strideOf c g) % max 1 (k.w / 8) != 0

def execVld (z : BitVec 1) (m : BitVec 3) (d : BitVec 5) (a : BitVec 4) (l : BitVec 5) (s : State) :=
  vLoad (infoVld z m d a l) z m d l etAny true false (bad64 a) (atPlain a) s
def execVlds (z : BitVec 1) (m : BitVec 3) (d : BitVec 5) (a : BitVec 4) (l : BitVec 5) (g : BitVec 2) (s : State) :=
  vLoad (infoVlds z m d a l g) z m d l etByte false false (badStride a g) (atStride a g) s
def execVldx (z : BitVec 1) (m : BitVec 3) (d : BitVec 5) (a : BitVec 4) (l : BitVec 5) (s : State) :=
  vLoad (infoVldx z m d a l) z m d l etByte false false (badEl a) (atIndex a d) s
/-- vldb reads one element at aa for every active position (R239). -/
def execVldb (z : BitVec 1) (m : BitVec 3) (d : BitVec 5) (a : BitVec 4) (l : BitVec 5) (s : State) :=
  vLoad (infoVldb z m d a l) z m d l etByte false true (badEl a) (fun c _ _ => aaOf c a) s
def execVst (m : BitVec 3) (v : BitVec 5) (a : BitVec 4) (s : State) :=
  vStore (infoVst m v a) m v etAny true (bad64 a) (atPlain a) s
def execVsts (m : BitVec 3) (v : BitVec 5) (a : BitVec 4) (g : BitVec 2) (s : State) :=
  vStore (infoVsts m v a g) m v etByte false (badStride a g) (atStride a g) s
def execVstx (m : BitVec 3) (v : BitVec 5) (a : BitVec 4) (b : BitVec 5) (s : State) :=
  vStore (infoVstx m v a b) m v etByte false (badEl a) (atIndex a b) s

/-! ## Integer arithmetic (R242, R243) -/

/-- The integer an element is, by the signedness of ET. -/
def vInt (k : VCtx) (x : Nat) : Int := intVal k.et x

/-- An integer word on a and b, its exact result taken modulo 2^w. -/
def vBin (i : Info) (z : BitVec 1) (m : BitVec 3) (d a b : BitVec 5) (x : BitVec 1) (n : Nat) (f : VCtx → Nat → Nat → Int) (s : State) :
    Host.Outcome State Fault Refusal :=
  vMap i z m d n false etInt (fun c k j => (wrap k.w (f k (vEl c k a j) (vElB c k b x j)), 0)) s

def execVadd (z : BitVec 1) (m : BitVec 3) (d a b : BitVec 5) (x : BitVec 1) (s : State) :=
  vBin (infoVadd z m d a b x) z m d a b x 2 (fun _ p q => p + q) s
def execVsub (z : BitVec 1) (m : BitVec 3) (d a b : BitVec 5) (x : BitVec 1) (s : State) :=
  vBin (infoVsub z m d a b x) z m d a b x 2 (fun _ p q => (p : Int) - q) s
def execVmul (z : BitVec 1) (m : BitVec 3) (d a b : BitVec 5) (x : BitVec 1) (s : State) :=
  vBin (infoVmul z m d a b x) z m d a b x 4 (fun _ p q => p * q) s
def execVmulh (z : BitVec 1) (m : BitVec 3) (d a b : BitVec 5) (x : BitVec 1) (s : State) :=
  vBin (infoVmulh z m d a b x) z m d a b x 4 (fun k p q => vInt k p * vInt k q / (2 ^ k.w : Nat)) s
def execVand (z : BitVec 1) (m : BitVec 3) (d a b : BitVec 5) (x : BitVec 1) (s : State) :=
  vBin (infoVand z m d a b x) z m d a b x 2 (fun _ p q => ((p &&& q : Nat) : Int)) s
def execVor (z : BitVec 1) (m : BitVec 3) (d a b : BitVec 5) (x : BitVec 1) (s : State) :=
  vBin (infoVor z m d a b x) z m d a b x 2 (fun _ p q => ((p ||| q : Nat) : Int)) s
def execVxor (z : BitVec 1) (m : BitVec 3) (d a b : BitVec 5) (x : BitVec 1) (s : State) :=
  vBin (infoVxor z m d a b x) z m d a b x 2 (fun _ p q => ((p ^^^ q : Nat) : Int)) s
def execVshl (z : BitVec 1) (m : BitVec 3) (d a b : BitVec 5) (x : BitVec 1) (s : State) :=
  vBin (infoVshl z m d a b x) z m d a b x 2 (fun k p q => ((p <<< (q % k.w) : Nat) : Int)) s
def execVshr (z : BitVec 1) (m : BitVec 3) (d a b : BitVec 5) (x : BitVec 1) (s : State) :=
  vBin (infoVshr z m d a b x) z m d a b x 2 (fun k p q => ((p >>> (q % k.w) : Nat) : Int)) s
def execVsar (z : BitVec 1) (m : BitVec 3) (d a b : BitVec 5) (x : BitVec 1) (s : State) :=
  vBin (infoVsar z m d a b x) z m d a b x 2 (fun k p q => sgn k.w p / (2 ^ (q % k.w) : Nat)) s
def execVmin (z : BitVec 1) (m : BitVec 3) (d a b : BitVec 5) (x : BitVec 1) (s : State) :=
  vBin (infoVmin z m d a b x) z m d a b x 2 (fun k p q => min (vInt k p) (vInt k q)) s
def execVmax (z : BitVec 1) (m : BitVec 3) (d a b : BitVec 5) (x : BitVec 1) (s : State) :=
  vBin (infoVmax z m d a b x) z m d a b x 2 (fun k p q => max (vInt k p) (vInt k q)) s
def execVadds (z : BitVec 1) (m : BitVec 3) (d a b : BitVec 5) (x : BitVec 1) (s : State) :=
  vBin (infoVadds z m d a b x) z m d a b x 2 (fun k p q => clamp (intMin k.et) (intMax k.et) (vInt k p + vInt k q)) s
def execVsubs (z : BitVec 1) (m : BitVec 3) (d a b : BitVec 5) (x : BitVec 1) (s : State) :=
  vBin (infoVsubs z m d a b x) z m d a b x 2 (fun k p q => clamp (intMin k.et) (intMax k.et) (vInt k p - vInt k q)) s
/-- vabs: −2^(w−1) gives 2^(w−1) − 1. -/
def execVabs (z : BitVec 1) (m : BitVec 3) (d a : BitVec 5) (s : State) :=
  vMap (infoVabs z m d a) z m d 2 false etInt
    (fun c k j => (wrap k.w (clamp (intMin k.et) (intMax k.et) ((vInt k (vEl c k a j)).natAbs : Int)), 0)) s

/-- ET is .i8, .n8, .i16 or .n16, and the group's base a multiple of its size (R234, R243). -/
def madwEt (c : Core) : Bool := vcEt c == 9 || vcEt c == 10 || vcEt c == 13 || vcEt c == 14
def madwOk (d : BitVec 5) (c : Core) : Bool := madwEt c && d.toNat % madwK c == 0

/-- vmadw accumulates narrow products into the 32-bit elements of a group (R243). -/
def execVmadw (z : BitVec 1) (m : BitVec 3) (d a b : BitVec 5) (x : BitVec 1) (s : State) :=
  let i := infoVmadw z m d a b x
  vWord i z m (madwOk d) s fun k0 t =>
    let c := t.core
    let g := 32 / k0.w
    let k := { k0 with lab := k0.lab ||| orAll ((vGroup d g).map (fun r => (c.rdV r).l)) }
    .ok ((List.range g).foldl (fun u r =>
      let reg := d + BitVec.ofNat 5 r
      putV u k reg 32 4 (fun p => k.act (g * p + r)) ((List.range 128).map (fun p =>
        let j := g * p + r
        wrap 32 ((elem (c.rdV reg).v.toNat 32 p : Int) + vInt k (vEl c k a j) * vInt k (vElB c k b x j)))) (vGroup d g)) t)

/-! ## Floating-point arithmetic (R244 to R246) -/

/-- The value of an element in format ET, subnormals flushed under FZ (R78). -/
def vFl (k : VCtx) (x : Nat) : Fv := decodeEl k.et (flushIn k.fz k.et x)

/-- Round an exact result in ET under RM, its own flags added (R72, R73, R245). -/
def vRound (k : VCtx) (r : Fv × Nat) : Nat × Nat :=
  let (x, f) := roundTo k.fz k.et r.1 k.rm 0
  (x, f ||| r.2)

def vArith (i : Info) (z : BitVec 1) (m : BitVec 3) (d a b : BitVec 5) (x : BitVec 1) (f : VCtx → Fv → Fv → Fv → Fv × Nat) (s : State) :
    Host.Outcome State Fault Refusal :=
  vMap i z m d 4 true etArith (fun c k j =>
    vRound k (f k (vFl k (vEl c k a j)) (vFl k (vElB c k b x j)) (vFl k (vEl c k d j)))) s

def rdn (k : VCtx) : Bool := k.rm == 2

def execVfadd (z : BitVec 1) (m : BitVec 3) (d a b : BitVec 5) (x : BitVec 1) (s : State) :=
  vArith (infoVfadd z m d a b x) z m d a b x (fun k p q _ => p.add (rdn k) q) s
def execVfsub (z : BitVec 1) (m : BitVec 3) (d a b : BitVec 5) (x : BitVec 1) (s : State) :=
  vArith (infoVfsub z m d a b x) z m d a b x (fun k p q _ => p.add (rdn k) q.neg) s
def execVfmul (z : BitVec 1) (m : BitVec 3) (d a b : BitVec 5) (x : BitVec 1) (s : State) :=
  vArith (infoVfmul z m d a b x) z m d a b x (fun _ p q _ => p.mul q) s
def execVfma (z : BitVec 1) (m : BitVec 3) (d a b : BitVec 5) (x : BitVec 1) (s : State) :=
  vArith (infoVfma z m d a b x) z m d a b x (fun k p q r => p.fma (rdn k) q r) s
def execVfms (z : BitVec 1) (m : BitVec 3) (d a b : BitVec 5) (x : BitVec 1) (s : State) :=
  vArith (infoVfms z m d a b x) z m d a b x (fun k p q r => p.fma (rdn k) q r.neg) s
def execVfnma (z : BitVec 1) (m : BitVec 3) (d a b : BitVec 5) (x : BitVec 1) (s : State) :=
  vArith (infoVfnma z m d a b x) z m d a b x (fun k p q r => p.neg.fma (rdn k) q r) s

/-- The smaller or larger of two elements of a format (R246). -/
def minMaxF (fz : Bool) (et : Nat) (big : Bool) (p q : Nat) : Nat :=
  let x := flushIn fz et p
  let y := flushIn fz et q
  let u := decodeEl et x
  let v := decodeEl et y
  if u = .nan ∨ v = .nan then (fmtOf et).nan
  else if big then (if u.lt v then y else x) else (if v.lt u then y else x)

def execVfmin (z : BitVec 1) (m : BitVec 3) (d a b : BitVec 5) (x : BitVec 1) (s : State) :=
  vMap (infoVfmin z m d a b x) z m d 2 false etF3 (fun c k j => (minMaxF k.fz k.et false (vEl c k a j) (vElB c k b x j), 0)) s
def execVfmax (z : BitVec 1) (m : BitVec 3) (d a b : BitVec 5) (x : BitVec 1) (s : State) :=
  vMap (infoVfmax z m d a b x) z m d 2 false etF3 (fun c k j => (minMaxF k.fz k.et true (vEl c k a j) (vElB c k b x j), 0)) s

/-- The sign of an element cleared or inverted (R245). -/
def signWord (k : VCtx) (neg : Bool) (x0 : Nat) : Nat :=
  let x := flushIn k.fz k.et x0
  let top := 2 ^ (k.w - 1)
  if decodeEl k.et x = .nan then (fmtOf k.et).nan else if neg then x ^^^ top else x % top

def execVfabs (z : BitVec 1) (m : BitVec 3) (d a : BitVec 5) (s : State) :=
  vMap (infoVfabs z m d a) z m d 2 false etF3 (fun c k j => (signWord k false (vEl c k a j), 0)) s
def execVfneg (z : BitVec 1) (m : BitVec 3) (d a : BitVec 5) (s : State) :=
  vMap (infoVfneg z m d a) z m d 2 false etF3 (fun c k j => (signWord k true (vEl c k a j), 0)) s

/-! ## Compares, selection and mask logic (R247 to R249) -/

/-- A compare: bit i of md for each active i, bits c and above written 0 (R247). -/
def vCompare (i : Info) (z : BitVec 1) (m : BitVec 3) (d : BitVec 3) (a b : BitVec 5) (x : BitVec 1) (ok : Core → Bool)
    (rel : VCtx → Nat → Nat → Bool) (s : State) : Host.Outcome State Fault Refusal :=
  vWord i z m ok s fun k t =>
    let c := t.core
    let res := packL 1 ((List.range k.n).map (fun j => b2n (k.act j && rel k (vEl c k a j) (vElB c k b x j))))
    let mask := if k.keep then 2 ^ 1024 - 2 ^ k.n + elemMask 1 k.n k.act else 2 ^ 1024 - 1
    .ok (push t 2 (.m d (BitVec.ofNat 1024 res) (BitVec.ofNat 1024 mask) k.keep) k.lab)

def execVcmpEq (z : BitVec 1) (m d : BitVec 3) (a b : BitVec 5) (x : BitVec 1) (s : State) :=
  vCompare (infoVcmpEq z m d a b x) z m d a b x etInt (fun k p q => vInt k p == vInt k q) s
def execVcmpNe (z : BitVec 1) (m d : BitVec 3) (a b : BitVec 5) (x : BitVec 1) (s : State) :=
  vCompare (infoVcmpNe z m d a b x) z m d a b x etInt (fun k p q => vInt k p != vInt k q) s
def execVcmpLt (z : BitVec 1) (m d : BitVec 3) (a b : BitVec 5) (x : BitVec 1) (s : State) :=
  vCompare (infoVcmpLt z m d a b x) z m d a b x etInt (fun k p q => decide (vInt k p < vInt k q)) s
def execVcmpGe (z : BitVec 1) (m d : BitVec 3) (a b : BitVec 5) (x : BitVec 1) (s : State) :=
  vCompare (infoVcmpGe z m d a b x) z m d a b x etInt (fun k p q => decide (vInt k q ≤ vInt k p)) s
def execVfcmpEq (z : BitVec 1) (m d : BitVec 3) (a b : BitVec 5) (x : BitVec 1) (s : State) :=
  vCompare (infoVfcmpEq z m d a b x) z m d a b x etF3 (fun k p q => (vFl k p).cmpEq (vFl k q)) s
def execVfcmpNe (z : BitVec 1) (m d : BitVec 3) (a b : BitVec 5) (x : BitVec 1) (s : State) :=
  vCompare (infoVfcmpNe z m d a b x) z m d a b x etF3 (fun k p q => !(vFl k p).cmpEq (vFl k q)) s
def execVfcmpLt (z : BitVec 1) (m d : BitVec 3) (a b : BitVec 5) (x : BitVec 1) (s : State) :=
  vCompare (infoVfcmpLt z m d a b x) z m d a b x etF3 (fun k p q => (vFl k p).cmpLt (vFl k q)) s
def execVfcmpGe (z : BitVec 1) (m d : BitVec 3) (a b : BitVec 5) (x : BitVec 1) (s : State) :=
  vCompare (infoVfcmpGe z m d a b x) z m d a b x etF3
    (fun k p q => (vFl k q).cmpLt (vFl k p) || (vFl k p).cmpEq (vFl k q)) s

/-- vsel: the governing mask chooses between the sources; every element is written (R233, R248). -/
def execVsel (m : BitVec 3) (d a b : BitVec 5) (x : BitVec 1) (s : State) :=
  vWord (infoVsel m d a b x) 0 m etAny s fun k t =>
    .ok (putV t k d k.w 2 (fun _ => true) ((List.range k.n).map (fun j =>
      if k.act j then vEl t.core k a j else vElB t.core k b x j)))

/-- A mask word on all 1,024 bits (R249). -/
def maskWord (i : Info) (d : BitVec 3) (x : Core → BitVec 1024) (s : State) : Host.Outcome State Fault Refusal :=
  tile i true s fun t => .ok (push t 1 (.m d (x t.core) (BitVec.allOnes 1024) false) (readLabel t.core i.rd))

def execMand (d a b : BitVec 3) (s : State) := maskWord (infoMand d a b) d (fun c => (c.rdM a).v &&& (c.rdM b).v) s
def execMor (d a b : BitVec 3) (s : State) := maskWord (infoMor d a b) d (fun c => (c.rdM a).v ||| (c.rdM b).v) s
def execMxor (d a b : BitVec 3) (s : State) := maskWord (infoMxor d a b) d (fun c => (c.rdM a).v ^^^ (c.rdM b).v) s
def execMnot (d a : BitVec 3) (s : State) := maskWord (infoMnot d a) d (fun c => ~~~(c.rdM a).v) s

/-- A count over bits 0 to c − 1 of a mask, c from ET (R249). -/
def maskCount (i : Info) (d : BitVec 5) (a : BitVec 3) (f : Nat → Nat → Nat) (s : State) : Host.Outcome State Fault Refusal :=
  vWord i 0 0 etAny s fun k t =>
    .ok (push t 3 (.s d (BitVec.ofNat 64 (f k.n ((t.core.rdM a).v.toNat % 2 ^ k.n)))) (readLabel t.core i.rd))

def execMcnt (d : BitVec 5) (a : BitVec 3) (s : State) := maskCount (infoMcnt d a) d a popc s
def execMffs (d : BitVec 5) (a : BitVec 3) (s : State) := maskCount (infoMffs d a) d a ctz s

/-! ## Conversion (R250) -/

/-- Formats, widths, rounding mode and register group of a conversion; `k` is the ratio it needs (R228, R250). -/
def cvtOk (wide narrow : Bool) (base : BitVec 5) (c : Core) : Bool :=
  let et := vcEt c
  let dt := vcDt c
  let we := fmtWidth et
  let wd := fmtWidth dt
  et != 7 && dt != 7 && !(et == 6 && isInt dt) && !(dt == 6 && isInt et)
  && (if wide then (wd == 2 * we || wd == 4 * we) && base.toNat % (wd / max 1 we) == 0
      else if narrow then (we == 2 * wd || we == 4 * wd) && base.toNat % (we / max 1 wd) == 0
      else we == wd)
  && vcRm c != 7 && (vcRm c != 5 || (narrow && srPair et dt))

def execVcvt (z : BitVec 1) (m : BitVec 3) (d a : BitVec 5) (s : State) :=
  vMap (infoVcvt z m d a) z m d 3 true (cvtOk false false 0) (fun c k j => convert k.fz k.et k.dt (vEl c k a j) k.rm 0) s

/-- vcvtw: element i to register vd + (i mod k), position i div k (R234). Each register of the group has a flag update of its own in flight, with
the flags of the whole word; how many the word makes is not stated (DESIGN CHOICE, log 25). -/
def execVcvtw (z : BitVec 1) (m : BitVec 3) (d a : BitVec 5) (s : State) :=
  vWord (infoVcvtw z m d a) z m (cvtOk true false d) s fun k t =>
    let g := widenK t.core
    let wd := fmtWidth k.dt
    let es := (List.range k.n).map (fun j => if k.act j then convert k.fz k.et k.dt (vEl t.core k a j) k.rm 0 else (0, 0))
    let fl := orNat (es.map (·.2))
    .ok ((List.range g).foldl (fun u r =>
      let mine := (List.zipIdx es).filter (fun e => e.2 % g == r)
      putFlags (putV u k (d + BitVec.ofNat 5 r) wd 3 (fun p => k.act (g * p + r)) (mine.map (·.1.1)) (vGroup d g)) k 3 fl (d + BitVec.ofNat 5 r)) t)

/-- vcvtn: element j from register va + (j mod k), position j div k; stochastic rounding draws for every element (R77). -/
def execVcvtn (z : BitVec 1) (m : BitVec 3) (d a : BitVec 5) (s : State) :=
  vWord (infoVcvtn z m d a) z m (cvtOk false true a) s fun k0 t =>
    let c := t.core
    let g := narrowK c
    let wd := fmtWidth k0.dt
    let rm := rmOf (vcRm c) (c.fpMode.toNat % 8) (srPair k0.et k0.dt)
    let sr := rm == 5
    let k := { k0 with lab := k0.lab ||| orAll ((vGroup a g).map (fun r => (c.rdV r).l)) ||| (if sr then c.fpSeed.l else 0) }
    let es := (List.range (4096 / wd)).map (fun j =>
      if k.act j then
        convert k.fz k.et k.dt (elem (c.rdV (a + BitVec.ofNat 5 (j % g))).v.toNat k.w (j / g)) rm
          (if sr then srDraw c.fpSeed.v c.fpSctr wd j else 0)
      else (0, 0))
    let t1 := putFlags (putV t k d wd 3 k.act (es.map (·.1))) k 3 (orNat (es.map (·.2))) d
    .ok (if sr then { t1 with core := { t1.core with fpSctr := t1.core.fpSctr + BitVec.ofNat 64 (32 / wd) } } else t1)

/-! ## Moving elements (R251, R252) -/

def execVperm (z : BitVec 1) (m : BitVec 3) (d a b : BitVec 5) (x : BitVec 1) (s : State) :=
  vMap (infoVperm z m d a b x) z m d 3 false etAny (fun c k j =>
    let e := vElB c k b x j
    (if e < k.n then vEl c k a e else 0, 0)) s

def execVslide (z : BitVec 1) (m : BitVec 3) (d a b : BitVec 5) (s : State) :=
  vMap (infoVslide z m d a b) z m d 2 false etAny (fun c k j =>
    let e := (j : Int) + (c.rdS b).v.toInt
    (if 0 ≤ e ∧ e < k.n then vEl c k a e.toNat else 0, 0)) s

/-- An element as a scalar: integers extended by ET, other formats zero-extended (R252). -/
def extEl (et x : Nat) : Nat := if isInt et then wrap 64 (intVal et x) else x

def execVext (d a b : BitVec 5) (s : State) :=
  vWord (infoVext d a b) 0 0 etAny s fun k t =>
    let x := (t.core.rdS b).v.toNat
    .ok (resultS t (infoVext d a b) d 3 (BitVec.ofNat 64 (if x < k.n then extEl k.et (vEl t.core k a x) else 0)))

/-- vins writes one element and leaves the others as they are (R252). -/
def execVins (d a b : BitVec 5) (s : State) :=
  vWord (infoVins d a b) 0 0 etAny s fun k t =>
    let x := (t.core.rdS b).v.toNat
    let one := if x < k.n then (2 ^ k.w - 1) <<< (k.w * x) else 0
    let val := ((t.core.rdS a).v.toNat % 2 ^ k.w) <<< (if x < k.n then k.w * x else 0)
    .ok (push t 2 (.v (physV t.core d) (BitVec.ofNat 4096 val) (BitVec.ofNat 4096 one) true) k.lab)

def execVbcast (z : BitVec 1) (m : BitVec 3) (d a : BitVec 5) (s : State) :=
  vMap (infoVbcast z m d a) z m d 2 false etAny (fun c k _ => ((c.rdS a).v.toNat % 2 ^ k.w, 0)) s

/-! ## Reductions (R253, R254) -/

/-- A scalar result of a masked word: under ZR = 0 and MSK ≠ 0 the register's own label joins (R235). -/
def putRed (t : State) (k : VCtx) (d : BitVec 5) (n x : Nat) : State :=
  push t n (if k.keep then .sk d (BitVec.ofNat 64 x) else .s d (BitVec.ofNat 64 x)) k.lab

def activeEls (c : Core) (k : VCtx) (a : BitVec 5) : List Nat := ((List.range k.n).filter k.act).map (vEl c k a)

def execVredsum (z : BitVec 1) (m : BitVec 3) (d a : BitVec 5) (s : State) :=
  vWord (infoVredsum z m d a) z m etInt s fun k t =>
    .ok (putRed t k d 6 (wrap 64 ((activeEls t.core k a).foldl (fun acc x => acc + vInt k x) 0)))

/-- Combine of R254 on FP32 encodings; none is absent. -/
def combineF (k : VCtx) : Option Nat → Option Nat → Option Nat × Nat
  | none, y => (y, 0)
  | x, none => (x, 0)
  | some x, some y =>
    let (r, f) := (decodeF fmtF32 x).add (rdn k) (decodeF fmtF32 y)
    if r = .nan then (some 0x7FC00000, f)
    else let (v, g) := roundTo k.fz 0 r k.rm 0
      (some v, f ||| g)

def treeLevel (k : VCtx) : List (Option Nat) → List (Option Nat) × Nat
  | x :: y :: l =>
    let (r, f) := combineF k x y
    let (rs, g) := treeLevel k l
    (r :: rs, f ||| g)
  | l => (l, 0)

def treeSum (k : VCtx) : Nat → List (Option Nat) → Option Nat × Nat
  | 0, l => (l.headD none, 0)
  | n + 1, l =>
    let (l', f) := treeLevel k l
    let (r, g) := treeSum k n l'
    (r, f ||| g)

/-- An element of FP32, FP16 or BF16 converted exactly to FP32 (R253, R254). -/
def toF32 (k : VCtx) (x : Nat) : Nat := (convert k.fz k.et 0 x 0 0).1

def execVfredsum (z : BitVec 1) (m : BitVec 3) (d a : BitVec 5) (s : State) :=
  vWord (infoVfredsum z m d a) z m etArith s fun k t =>
    let leaves := (List.range k.n).map (fun j => if k.act j then some (toF32 k (vEl t.core k a j)) else none)
    let (r, f) := treeSum k (log2 k.n) leaves
    let t1 := putRed t k d 12 (r.getD 0)
    .ok (push t1 12 (if k.keep then .flagsOf (BitVec.ofNat 5 f) true d else .flags (BitVec.ofNat 5 f)) k.lab)

/-- vredmax and vredmin (R253). -/
def vExtreme (i : Info) (z : BitVec 1) (m : BitVec 3) (d a : BitVec 5) (big : Bool) (s : State) : Host.Outcome State Fault Refusal :=
  vWord i z m (fun c => etInt c || etF3 c) s fun k t =>
    let l := activeEls t.core k a
    .ok (putRed t k d 6
      (if isInt k.et then
        wrap 64 (l.foldl (fun acc x => if big then max acc (vInt k x) else min acc (vInt k x)) (if big then intMin k.et else intMax k.et))
      else l.foldl (fun acc x => minMaxF false 0 big acc (toF32 k x)) (if big then 0xFF800000 else 0x7F800000)))

def execVredmax (z : BitVec 1) (m : BitVec 3) (d a : BitVec 5) (s : State) := vExtreme (infoVredmax z m d a) z m d a true s
def execVredmin (z : BitVec 1) (m : BitVec 3) (d a : BitVec 5) (s : State) := vExtreme (infoVredmin z m d a) z m d a false s

/-! ## Special functions (R255 to R258) -/

def qNaN : Nat := 0x7FC00000
def f32Inf : Nat := 0x7F800000

/-- Rcp of R256 on an FP32 encoding. -/
def rcp (x : Nat) : Nat × Nat :=
  let sg := bits x 31 31 <<< 31
  let e := bits x 30 23
  let f := bits x 22 0
  if e = 255 ∧ f ≠ 0 then (qNaN, 0)
  else if e = 0 ∧ f = 0 then (sg + f32Inf, fDZ)
  else if e = 255 then (sg, 0)
  else if e = 0 then (sg + f32Inf, fOF + fNX)
  else if f = 0 ∧ e = 254 then (sg, fUF + fNX)
  else if f = 0 then (sg + ((254 - e) <<< 23), 0)
  else if 253 ≤ e then (sg, fUF + fNX)
  else
    let k := bits f 22 13
    let tt := (2 ^ 24 + (2049 + 2 * k)) / (2 * (2049 + 2 * k))
    let mm := 2 ^ 23 + f
    let q := tt * (2 ^ 36 - mm * tt)
    (sg + ((253 - e) <<< 23) + bits q 45 23, fNX)

/-- Rsqrt of R257 on an FP32 encoding. -/
def rsqrt (x : Nat) : Nat × Nat :=
  let ef := bits x 30 23
  let fr := bits x 22 0
  if ef = 255 ∧ fr ≠ 0 then (qNaN, 0)
  else if ef = 0 ∧ fr = 0 then ((bits x 31 31 <<< 31) + f32Inf, fDZ)
  else if bit x 31 then (qNaN, fNV)
  else if ef = 255 then (0, 0)
  else
    let (e, f) : Int × Nat :=
      if ef = 0 then ((Nat.log2 fr : Int) - 149, (fr <<< (23 - Nat.log2 fr)) - 2 ^ 23) else ((ef : Int) - 127, fr)
    if f = 0 ∧ e % 2 = 0 then (((127 - e / 2).toNat) <<< 23, 0)
    else
      let o := (e % 2).toNat
      let j := bits f 22 14
      let tt := (isqrt (2 ^ 36 / ((1 + o) * (1025 + 2 * j))) + 1) / 2
      let mm := (2 ^ 23 + f) * 2 ^ o
      let q := tt * (3 * 2 ^ 47 - mm * tt * tt)
      (((126 - (e - o) / 2).toNat <<< 23) + bits q 58 36, fNX)

def vsqrtF (k : VCtx) (x : Nat) : Nat × Nat :=
  match vFl k x with
  | .nan => (qNaN, 0)
  | .inf neg => if neg then (qNaN, fNV) else (f32Inf, 0)
  | .fin neg n d => if n = 0 then (signAt fmtF32 neg, 0) else if neg then (qNaN, fNV) else roundTo k.fz 0 (sqrtFv n d) k.rm 0

def vexp2F (k : VCtx) (x : Nat) : Nat × Nat :=
  match vFl k x with
  | .nan => (qNaN, 0)
  | .inf neg => (if neg then 0 else f32Inf, 0)
  | .fin neg n d => roundTo k.fz 0 (exp2Fv neg n d) k.rm 0

def vlog2F (k : VCtx) (x : Nat) : Nat × Nat :=
  match vFl k x with
  | .nan => (qNaN, 0)
  | .inf neg => if neg then (qNaN, fNV) else (f32Inf, 0)
  | .fin neg n d =>
    if n = 0 then (0xFF800000, fDZ) else if neg then (qNaN, fNV) else roundTo k.fz 0 (log2Fv n d) k.rm 0

def execVrcp (z : BitVec 1) (m : BitVec 3) (d a : BitVec 5) (s : State) :=
  vMap (infoVrcp z m d a) z m d 6 true etF32 (fun c k j => rcp (flushIn k.fz 0 (vEl c k a j))) s
def execVrsqrt (z : BitVec 1) (m : BitVec 3) (d a : BitVec 5) (s : State) :=
  vMap (infoVrsqrt z m d a) z m d 6 true etF32 (fun c k j => rsqrt (flushIn k.fz 0 (vEl c k a j))) s

/-- A word of the square-root row: held until 4 cycles have passed since the row's last word (R236, R237). -/
def vSlow (i : Info) (z : BitVec 1) (m : BitVec 3) (d : BitVec 5) (f : Core → VCtx → Nat → Nat × Nat) (s : State) :
    Host.Outcome State Fault Refusal :=
  vWord i z m (fun c => etF32 c && rmFixed c) s fun k t =>
    if t.core.sfu ≠ 0 then .error .hold
    else
      let es := (List.range k.n).map (fun j => if k.act j then f t.core k j else (0, 0))
      let t1 := putFlags (putV t k d k.w 16 k.act (es.map (·.1))) k 16 (orNat (es.map (·.2))) d
      .ok { t1 with core := { t1.core with sfu := 4 } }

def execVsqrt (z : BitVec 1) (m : BitVec 3) (d a : BitVec 5) (s : State) :=
  vSlow (infoVsqrt z m d a) z m d (fun c k j => vsqrtF k (vEl c k a j)) s
def execVexp2 (z : BitVec 1) (m : BitVec 3) (d a : BitVec 5) (s : State) :=
  vSlow (infoVexp2 z m d a) z m d (fun c k j => vexp2F k (vEl c k a j)) s
def execVlog2 (z : BitVec 1) (m : BitVec 3) (d a : BitVec 5) (s : State) :=
  vSlow (infoVlog2 z m d a) z m d (fun c k j => vlog2F k (vEl c k a j)) s

/-- vclipq: vfmin(vfmax(x, lo), hi), bounds from sb (R390). -/
def execVclipq (z : BitVec 1) (m : BitVec 3) (d a b : BitVec 5) (s : State) :=
  vMap (infoVclipq z m d a b) z m d 2 false etF32 (fun c k j =>
    let y := (c.rdS b).v.toNat
    (minMaxF k.fz 0 false (minMaxF k.fz 0 true (vEl c k a j) (y % 2 ^ 32)) (y >>> 32), 0)) s

/-- vnormq: (x − m) ÷ s, rounded once (R390). -/
def normq (k : VCtx) (x y : Nat) : Nat × Nat :=
  let mv := vFl k (y % 2 ^ 32)
  let sv := vFl k (y >>> 32)
  let xv := vFl k x
  if xv = .nan ∨ mv = .nan ∨ sv = .nan then (qNaN, 0)
  else
    let (df, f) := xv.add (rdn k) mv.neg
    if df = .nan then (qNaN, f)
    else
      let q := df.div sv
      if q = .nan then (qNaN, fNV)
      else if sv.isZero then (roundTo k.fz 0 q k.rm 0 |>.1, fDZ)
      else roundTo k.fz 0 q k.rm 0

def execVnormq (z : BitVec 1) (m : BitVec 3) (d a b : BitVec 5) (s : State) :=
  vSlow (infoVnormq z m d a b) z m d (fun c k j => normq k (vEl c k a j) (c.rdS b).v.toNat) s

/-! ## Rotation (R259, R260) -/

def execVrot (s : State) := tile infoVrot true s fun t => .ok (push t 1 .rotate 0)
def execStgset (a : BitVec 5) (s : State) :=
  tile (infoStgset a) true s fun t =>
    .ok (push t 1 (.stages ((t.core.rdS a).v.setWidth 8)) (readLabel t.core (infoStgset a).rd))
def execStgshift (a : BitVec 5) (s : State) :=
  tile (infoStgshift a) true s fun t =>
    .ok (push t 1 (.shift ((t.core.rdS a).v != 0)) (readLabel t.core (infoStgshift a).rd))

end Sys2Proof.Machine
end

