-- ==== Sys2Proof/Machine/BitNet.lean ====
section
/-! DEFINITION. The bit network: words of major 0x16 (R263 to R271). -/
namespace Sys2Proof.Machine

def patAt (c : Core) (n : BitVec 3) : PatSlot := c.pats[n.toFin]
def setPat (c : Core) (n : Nat) (p : PatSlot) : Core := { c with pats := c.pats.setIfInBounds n p }

/-- Words held while a pattern load is in progress (R268). -/
def patHold (t : State) (act : Act) : Act := if t.core.patBusy.isSome then .error .hold else act

/-- What the lines of an image that can be read leave: the state after them and their labels. -/
def imageLines (t : State) (va n : Nat) : State × Label :=
  (spanParts va n).foldl (fun a p => match readVa a.1 a.1.core.who p.1 p.2 .read with
    | .ok (u, _, l) => (u, a.2 ||| l)
    | .error _ => a) (t, 0)

/-- bn.ld: translated and read at issue, the load ends 256 cycles later, in state 3 when a line was poisoned or lay behind
a failed link (R267). The slot's label is that of the lines whose bytes reach the core, poisoned ones left out and those lost behind a failed
link included; R267 does not say what a load that ends in state 3 has read (DESIGN CHOICE, log 26). A poisoned entry that the walk meets is
a machine check at the entry's own address with TR_INFO 0 (R36, R267; DESIGN CHOICE, log 26). -/
def execBnLd (q a : BitVec 4) (n : BitVec 3) (s : State) :=
  let i := infoBnLd q a n
  tile i true s fun t =>
    let va := (t.core.rdA a).v
    let l0 := readLabel t.core i.rd
    let start (u : State) (ok : Bool) (x : Nat) (l : Label) : Act :=
      .ok { u with core := { setPat u.core n.toNat ⟨1, va, l0, BitVec.ofNat 65536 x⟩ with
        patBusy := some ⟨256, n.toNat, ok, l ||| l0, u.core.grp.xArr⟩ } }
    patHold t <|
      if va.toNat % 8192 ≠ 0 then .error (accStop t .mis va.toNat 8192 false false)
      else match readBytes t t.core.who va.toNat 8192 .read with
        | .error (.poison _, _) =>
          if straddles t.core.maps.toList va.toNat 8192 then .error (.trap 0xE 13 va.toNat)
          else let (u, l) := imageLines t va.toNat 8192
            start u false 0 l
        | .error (e, _) => .error (match accStop t e va.toNat 8192 false false with
          | .trap 0xE _ a => .trap 0xE 13 a
          | x => x)
        | .ok (t1, x, l) => start t1 (!(lineVas va.toNat 8192).any (fun a => sourceLost t (loadHome t a))) x l

/-- The 4,096 bits a pattern routes from a pair (R264, R270). -/
def route (pat : Nat) (src old : Nat) : Nat :=
  packL 1 ((List.range 4096).map (fun d =>
    let e := (pat >>> (16 * d)) % 65536
    let b := if bit e 13 then bit e 14 else bit src (e % 8192)
    b2n (b || bit old d)))

/-- bn.rt and bn.rto (R270). -/
def routeWord (i : Info) (d a : BitVec 5) (n : BitVec 3) (keep : Bool) (s : State) : Host.Outcome State Fault Refusal :=
  tile i true s fun t => patHold t <|
    let c := t.core
    let p := patAt c n
    if p.st ≠ 2 then .error (illegal t 6 n.toNat)
    else
      let src := (c.rdV a).v.toNat + ((c.rdV (a + 1)).v.toNat <<< 4096)
      .ok (push t 6 (.v (physV c d) (BitVec.ofNat 4096 (route p.idx.toNat src (if keep then (c.rdV d).v.toNat else 0)))
        (BitVec.allOnes 4096) false) (readLabel c i.rd ||| p.lab))

def execBnRt (q : BitVec 4) (d : BitVec 5) (a : BitVec 4) (n : BitVec 3) (s : State) :=
  routeWord (infoBnRt q d a n) d (a.setWidth 5 * 2) n false s
def execBnRto (q : BitVec 4) (d : BitVec 5) (a : BitVec 4) (n : BitVec 3) (s : State) :=
  routeWord (infoBnRto q d a n) d (a.setWidth 5 * 2) n true s

/-- bn.inv: the slots named are invalid at tick 1 (R269); no word reads a slot in between. -/
def execBnInv (q : BitVec 4) (m : BitVec 8) (s : State) :=
  tile (infoBnInv q m) true s fun t => patHold t <|
    .ok { t with core := (List.range 8).foldl (fun c j => if m.getLsbD j then setPat c j ⟨0, 0, 0, 0⟩ else c) t.core }

/-- bn.rd samples the slot at issue (R271). -/
def execBnRd (q : BitVec 4) (d : BitVec 5) (n : BitVec 3) (s : State) :=
  tile (infoBnRd q d n) true s fun t =>
    let p := patAt t.core n
    .ok (push t 2 (.s d (BitVec.ofNat 64 (p.st.toNat + (if p.st = 0 then 0 else p.addr.toNat % 2 ^ 64 / 8192 * 8192)))) (p.lab ||| t.core.cl))

/-- The end of a pattern load (R267). -/
def execPatternLoadEnd (s : State) : Host.Outcome State Fault Refusal :=
  match s.core.patBusy with
  | some p =>
    if p.left ≠ 0 then .next s
    else
      let o := s.core.pats.toList.getD p.slot ⟨0, 0, 0, 0⟩
      let s1 := { s with core := { setPat s.core p.slot { o with st := if p.ok then 2 else 3, lab := p.lab } with patBusy := none } }
      .next (p.arr.foldl (fun t a => arrive t a p.lab) s1)
  | none => .next s

end Sys2Proof.Machine
end

