-- ==== Sys2Proof/Machine/Branch.lean ====
section
/-! DEFINITION. Branches and the loop buffer, major 0x0A (R106 to R114, R221). -/
namespace Sys2Proof.Machine

/-- Position of the word in its group (R135). -/
def wordPos (c : Core) : Nat := (c.grp.word - c.grp.start).toNat / 4
def encInfo (reason pos : Nat) : Nat := reason + (pos <<< 8)

/-- prep and prepa: the target at tick 1, its group captured at tick 3 (R107); of a half that loads or has failed nothing
is captured, even if it becomes valid meanwhile (R221). What an earlier prep of the buffer still fetches is dropped. -/
def prepare (s : State) (i : Info) (k : BitVec 2) (x : Addr) : State :=
  let s0 := { s with core := { s.core with pend := s.core.pend.filter (fun e => e.eff != Eff.btFetch k) } }
  let t := push s0 1 (.btSet k x (s.core.tick + 3)) (readLabel s.core i.rd)
  if unloaded s.core x then t else push t 3 (.btFetch k) 0

/-- Is the fetch of a prepared buffer still under way (R107)? -/
def fetching (c : Core) (k : BitVec 2) : Bool := (c.rdBt k).prepared && c.pend.any (fun e => e.eff == Eff.btFetch k)

/-- The buffer as a transfer meets it: the fetch that the freeze has awaited is complete (R108). -/
def awaitBt (s : State) (k : BitVec 2) : State :=
  if fetching s.core k then
    let c := fetchBt s.core k
    { s with core := { c with pend := c.pend.filter (fun e => e.eff != Eff.btFetch k) }.joinCl (c.rdBt k).addr.l }
  else s

/-- Take a transfer through btK (R108, R110, R114): a fetch still under way freezes the domain until it completes. -/
def transfer (s : State) (k : BitVec 2) : Act :=
  if fetching s.core k ∧ s.core.tick + s.core.frozen < (s.core.rdBt k).ready then .error .hold else
  let t := awaitBt s k
  let b := t.core.rdBt k
  let bad : Stop := .trap 1 (encInfo 5 (wordPos s.core)) b.addr.v.toNat
  match b.words with
  | some (w :: ws) =>
    if ¬b.prepared then .error bad
    else match halfOf t.core b.addr.v with
      | some n => .ok { t with core := { t.core with
          active := n, pc := b.addr.v, buf := some (w :: ws), nest := { t.core.nest with act := false }, mark := .transfer } }
      | none => .error bad
  | _ => .error bad

def execBr (q : BitVec 4) (k : BitVec 2) (s : State) := tile (infoBr q k) true s fun t => transfer t k

/-- The bits brv reads: c = 128 × 2^W (R108). -/
def brvBits (c : Core) (m : BitVec 3) (w : BitVec 2) : Nat := (c.rdM m).v.toNat % 2 ^ (128 <<< w.toNat)

def execBrv (q : BitVec 4) (k : BitVec 2) (m : BitVec 3) (w : BitVec 2) (n : BitVec 1) (s : State) :=
  tile (infoBrv q k m w n) true s fun t =>
    let x := brvBits t.core m w
    if x = 2 ^ (128 <<< w.toNat) - 1 then (if n = 0 then transfer t k else .ok t)
    else if x = 0 then (if n = 1 then transfer t k else .ok t)
    else .error (.trap 4 (m.toNat + (w.toNat <<< 3)) t.core.grp.word.toNat)

def execPrep (q : BitVec 4) (k : BitVec 2) (i : BitVec 16) (s : State) :=
  tile (infoPrep q k i) true s fun t => .ok (prepare t (infoPrep q k i) k (t.core.grp.word + (i.signExtend 72 <<< 2)))

def execPrepa (q : BitVec 4) (k : BitVec 2) (a : BitVec 4) (s : State) :=
  tile (infoPrepa q k a) true s fun t =>
    let x := (t.core.rdA a).v
    if x.toNat % 4 ≠ 0 then .error (.trap 5 (accInfo 4 false false true) x.toNat)
    else .ok (prepare t (infoPrepa q k a) k x)

/-- The address after a group, in issue order (R108). -/
def afterGroup (c : Core) : Addr := c.grp.start + BitVec.ofNat 72 (4 * c.grp.count)

def execBrl (q : BitVec 4) (k : BitVec 2) (d : BitVec 4) (s : State) :=
  tile (infoBrl q k d) true s fun t =>
    transfer (push t 1 (.a d (afterGroup t.core)) (readLabel t.core (infoBrl q k d).rd)) k

/-! ## The loop buffer -/

/-- The offset in a half after n groups from an offset; none when the half ends first (R112, R114). -/
def skipGroups (h : Half) : Nat → Nat → Nat → Option Nat
  | _, 0, off => some off
  | 0, _, _ => none
  | k + 1, n + 1, off =>
    if 65536 < off + 4 then none
    else if (halfWord h off).getLsbD 31 then skipGroups h k n (off + 4) else skipGroups h k (n + 1) (off + 4)

/-- The address after a body of n groups at va, in the active half (at most seven words a group). A body that holds a run with no stop
bit within seven words is taken not to lie wholly in the active half (R114; DESIGN CHOICE, log 22). -/
def bodyEnd (c : Core) (va : Addr) (n : Nat) : Option Addr :=
  let h := c.half c.active
  if inHalf h va then (skipGroups h (7 * n) n (va.toNat % 65536)).map (fun o => h.base + BitVec.ofNat 72 o) else none

/-- The trip count of level l (R112). -/
def trips (c : Core) (g : BitVec 6) (l : Nat) : Nat := (c.rdG (g + BitVec.ofNat 6 l)).v.toNat % 2 ^ 32

/-- lb.nest (R112, R114): a body that leaves the active half is reported before a nest that is active (R35). -/
def execLbNest (q l : BitVec 4) (d : BitVec 3) (g : BitVec 6) (s : State) :=
  tile (infoLbNest q l d g) (d != 0 && d != 7 && decide (g.toNat + 5 * d.toNat + 1 ≤ 64)) s fun t =>
    match bodyEnd t.core (afterGroup t.core) (l.toNat + 1) with
    | none => .error (.trap 1 (encInfo 6 (wordPos t.core)) t.core.grp.start.toNat)
    | some e =>
      if t.core.nest.act then .error (illegal t 3)
      else if (List.range d.toNat).any (fun i => trips t.core g i == 0) then
        .ok { t with core := { t.core with pc := e, buf := none, mark := .transfer } }
      else .ok { t with core := { t.core with nest :=
          { act := true, len1 := l, d := d, g := g, body := afterGroup t.core, next := 0, idx := List.replicate 6 0 } } }

/-- lb.exit ends the nest after its group; no effect outside a nest (R114). -/
def execLbExit (q : BitVec 4) (s : State) :=
  tile (infoLbExit q) true s fun t =>
    if ¬t.core.nest.act then .ok t
    else match bodyEnd t.core t.core.nest.body (t.core.nest.len1.toNat + 1) with
      | none => .ok { t with core := { t.core with nest := { t.core.nest with act := false } } }
      | some e => .ok { t with core := { t.core with
          pc := e, buf := none, nest := { t.core.nest with act := false }, mark := .transfer } }

/-- The lowest level not at its last index (R113). -/
def nestLevel (c : Core) : Nat → Nat → Option Nat
  | 0, _ => none
  | k + 1, l => if (c.nest.idx.getD l 0).toNat + 1 < trips c c.nest.g l then some l else nestLevel c k (l + 1)

/-- The level whose index a pass end raises (R113). A trip count that reads as zero ends the nest at this check, whichever level's
it is (R114; DEDUCED, log 22). -/
def passLevel (c : Core) : Option Nat :=
  if (List.range c.nest.d.toNat).any (fun l => trips c c.nest.g l == 0) then none else nestLevel c c.nest.d.toNat 0

/-- The generator control register of the active nest (R112). -/
def nestCtl (c : Core) : Lv 64 := c.rdG (c.nest.g + c.nest.d.setWidth 6)
/-- The address register of generator j of the active nest, if it is enabled, and its stride register of level l (R112). -/
def nestGen (c : Core) (l j : Nat) : Option (BitVec 4 × Lv 64) :=
  let e := rf (nestCtl c).v.toNat j 1
  if bit e 7 then some (BitVec.ofNat 4 e, c.rdG (c.nest.g + BitVec.ofNat 6 (c.nest.d.toNat + 1 + c.nest.d.toNat * j + l))) else none

/-- Does the group that issues now end a pass of the nest (R113)? -/
def passEnds (c : Core) : Bool := c.nest.act && decide (c.nest.len1.toNat ≤ c.nest.next)

/-- The labels of the g-registers that the nest reads at a pass end: the trip counts, and where a pass follows the control
register and the strides that are added (R113, R466). -/
def passLabel (c : Core) : Label :=
  orAll ((tripRegs c.nest.g c.nest.d).map (labelOf c)) ||| (match passLevel c with
    | some l => (nestCtl c).l ||| orAll ((List.range 4).filterMap (fun j => (nestGen c l j).map (·.2.l)))
    | none => 0)

/-- The generator adds of a pass end at level l (R113): results of tick 1, in generator order. Where two enabled generators
name one address register, each adds its stride to the old value and the write of the highest-numbered one is kept
(R28); the spec does not say so (DESIGN CHOICE, log 22). -/
def nestGens (s : State) (l : Nat) : State :=
  (List.range 4).foldl (fun t j => match nestGen t.core l j with
    | some (a, st) => push t 1 (.a a ((t.core.rdA a).v + st.v.signExtend 72)) ((t.core.rdA a).l ||| st.l ||| t.core.cl)
    | none => t) s

/-- The group that follows an issued group which made no transfer (R113): the next group, another pass, or the group
after the body. The state's `grp` is the group just issued, its results already scheduled. -/
def advance (s : State) : State :=
  let c := s.core
  let n := c.nest
  let nx := afterGroup c
  if ¬n.act ∨ c.grp.start = n.body - BitVec.ofNat 72 (4 * c.grp.count) then { s with core := { c with pc := nx, buf := none } }
  else if n.next < n.len1.toNat then { s with core := { c with pc := nx, buf := none, nest := { n with next := n.next + 1 } } }
  else
    let s0 := { s with core := c.joinCl (passLabel c) }
    match passLevel c with
    | some l =>
      let s1 := nestGens s0 l
      let ix := (List.replicate l 0 ++ n.idx.drop l).set l (n.idx.getD l 0 + 1)
      { s1 with core := { s1.core with pc := n.body, buf := none, nest := { n with next := 0, idx := ix } } }
    | none => { s0 with core := { s0.core with pc := nx, buf := none, nest := { n with act := false } } }

end Sys2Proof.Machine
end

