-- ==== Sys2Proof/Machine/Coherence.lean ====
section
/-! DEFINITION. The coherence protocol between the dies (R169 to R175), page walks (R152) and memory errors (R503). The
data of a line is its one coherent value in memory; these steps move who holds it. -/
namespace Sys2Proof.Machine

def sendMsg (s : State) (m : Msg) : State := { s with msgs := s.msgs ++ [m] }
/-- The class of a message: 0 request, 1 forward, 2 response (R172). -/
def MsgKind.cls : MsgKind → Nat
  | .rds | .rdx | .upg | .wbd | .evc => 0
  | .fwds | .fwdx | .inv => 1
  | .dat | .cmp | .ack | .don => 2

/-- The first message of its class in flight from its sender to its receiver: messages of one class from one die to another
arrive in the order sent (R172). -/
def inOrder (s : State) (m : Msg) : Option Msg :=
  if s.msgs.find? (fun x => x.kind.cls == m.kind.cls && x.src == m.src && x.dst == m.dst) = some m then some m else none

def msgTo (s : State) (k : MsgKind) (line dst : Nat) : Option Msg :=
  s.msgs.findSome? (fun m => if m.kind == k && m.line == line && m.dst == dst then inOrder s m else none)
def dropMsg (s : State) (m : Msg) : State := { s with msgs := s.msgs.erase m }

/-- The number under which a home collects the answers to its own eviction of an entry (R171). -/
def homeAgent : Nat := 6

/-- The home opens a transaction of kind k for r (R173), or its own eviction of the entry (kind 5, R171): its messages, and
what r will wait for. -/
def homeOpen (s : State) (line k r : Nat) : State :=
  let e := dirAt s line
  let h := keyHome line
  let s1 := setDir s line { e with opn := some (k, r) }
  let others := e.sh.filter (· != r)
  let n := others.length
  let msg (kd : MsgKind) (src dst cnt g : Nat) : Msg := ⟨kd, line, src, dst, r, cnt, g⟩
  let wait (data : Bool) (need : Option Nat) : State → State := fun t =>
    { t with waits := t.waits ++ [⟨line, r, data, 0, need, 0, k != 0⟩] }
  let invs (l : List Nat) (t : State) : State := l.foldl (fun u o => sendMsg u (msg .inv h o 0 0)) t
  match e.own with
  | none =>
    if k = 5 then wait true (some n) (invs others s1)
    else if k = 0 then wait false none (sendMsg s1 (msg .dat h r 0 (if e.sh = [] then 3 else 4)))
    else if k = 2 ∧ r ∈ e.sh then wait true none (invs others (sendMsg s1 (msg .cmp h r n 3)))
    else wait false none (invs others (sendMsg s1 (msg .dat h r n 3)))
  | some o =>
    if k = 5 then wait false (some n) (invs others (sendMsg s1 (msg .fwdx h o 0 3)))
    else if o = r then wait true none (invs others (sendMsg s1 (msg .cmp h r n 3)))
    else if k = 0 then wait false none (sendMsg (sendMsg s1 (msg .fwds h o 0 4)) (msg .cmp h r 0 4))
    else wait false none (sendMsg (invs others (sendMsg s1 (msg .fwdx h o 0 3))) (msg .cmp h r n 3))

/-- What a host request is answered with. -/
def reply (s : State) (port : BitVec 1) (kind n v : Nat) (l : Label) : State :=
  { s with dev := { s.dev with replies := s.dev.replies ++ [⟨port.toNat, kind, n, v, l⟩] } }

/-- The partition that owns a frame (R493). -/
def memOwner (s : State) (pa : Nat) : Option Nat :=
  (List.range 16).find? (fun p => (partAt s p).st != 0 && isMem pa && inPart s p pa)

/-- The label of a line of memory as a host reads it (R469): a stash line's, a dirty one's first, else the page's, which without
a walk is its frame's. -/
def lineLabel (s : State) (pl : Label) (pa : Nat) : Label :=
  let held := (((s.coreNo, s.core) :: s.others).flatMap (fun e => e.2.stash)).filter (fun l => lineKey s l.2.pa == lineKey s pa)
  match (held.find? (fun l => l.2.dirty)).orElse (fun _ => held.head?) with
  | some l => l.2.lab
  | none => pl

/-- Does the home answer a request with data? An Upg of a holder that still has its copy takes none (R173). -/
def givesData (e : DirEnt) (k r : Nat) : Bool := decide (k < 2) || (k == 2 && e.own != some r && !(e.own.isNone && e.sh.contains r))

/-- A fill of a host's CXL.cache is egress (R469): the state after its refusal, which the host sees as poison (R472). -/
def fillRefused (s : State) (line k r : Nat) : Option State :=
  if r = 4 ∨ r = 5 then
    if ¬givesData (dirAt s line) k r then none
    else
      let pa := linePa s line
      let l := lineLabel s (frameLabel s pa) pa
      let part := (memOwner s pa).getD 0
      match gate s part l (.reader r) with
      | some _ => none
      | none => some (reply (countRefusal s part l) (BitVec.ofNat 1 (r - 4)) 2 0 0 0)
  else none

/-- A WbD or Evc handled at the home: memory is written, or the holder removed; Cmp (R173). -/
def homeLeave (s : State) (line r : Nat) : State :=
  sendMsg (setDir s line (dirLeave (dirAt s line) r)) ⟨.cmp, line, keyHome line, r, r, 0, 0⟩

/-- Does a line have an entry of its own, with a holder or a transaction? -/
def DirEnt.live (e : DirEnt) : Bool := e.own.isSome || !e.sh.isEmpty || e.opn.isSome

/-- A line without an entry whose set is full waits until one is freed; the home starts to free the first that no
transaction holds (R171). -/
def roomFor (s : State) (line : Nat) : Option State :=
  let peers := dirPeers s line
  if (dirAt s line).live ∨ peers.length < 16 then none
  else some (if peers.any (fun e => e.2.opn.any (fun q => q.1 == 5)) then s
    else match peers.find? (fun e => e.2.opn.isNone) with
      | some e => homeOpen s e.1 5 homeAgent
      | none => s)

/-- The home takes up queued requests until one opens a transaction (R174). -/
def homeNext (line : Nat) : Nat → State → State
  | 0, s => s
  | n + 1, s =>
    let e := dirAt s line
    match e.opn, e.queue with
    | none, (k, r) :: q =>
      let s1 := setDir s line { e with queue := q }
      if 2 < k then homeNext line n (homeLeave s1 line r)
      else match fillRefused s1 line k r with
        | some s2 => homeNext line n s2
        | none => (roomFor s line).getD (homeOpen s1 line k r)
    | _, _ => s

/-- After a transaction of a line the home takes up what waits: on the line itself, and on lines that wait for room in its
set (R171, R174). -/
def homeGoOn (s : State) (line : Nat) : State :=
  let h := keyHome line
  ((line :: (s.dir.filter (fun e => e.1 != line && keyHome e.1 == h && setOf e.1 (dirSets h) == setOf line (dirSets h)
      && e.2.opn.isNone && !e.2.queue.isEmpty)).map (·.1))).foldl
    (fun t l => homeNext l ((dirAt t l).queue.length + 1) t) s

/-- Could agent r ask this of the line? Agents 4 and 5 are the hosts, whose ports must run CXL (R169, R517). -/
def canAsk (e : DirEnt) (k r : Nat) : Bool :=
  decide (r < 6) && (decide (r < 4) || Config.portCxl (r - 4)) && (match k with
    | 0 => holds e r == 0
    | 1 => holds e r == 0
    | 2 => holds e r == 4 || holds e r == 2 || holds e r == 5
    | 3 => holds e r == 1 || holds e r == 2 || holds e r == 5
    | _ => holds e r == 3 || holds e r == 4)

/-- A request arrives at the home: handled, or queued behind the open transaction (R174). -/
def request (s : State) (line k r : Nat) : State :=
  let e := dirAt s line
  if line % 128 ≠ 0 ∨ ¬canAsk e k r ∨ e.opn.any (fun q => q.2 == r) ∨ e.queue.any (fun q => q.2 == r) then s
  else homeNext line (e.queue.length + 1) (setDir s line { e with queue := e.queue ++ [(k, r)] })

def execRds (line r : Nat) (s : State) : Host.Outcome State Fault Refusal := .next (request s line 0 r)
def execRdx (line r : Nat) (s : State) : Host.Outcome State Fault Refusal := .next (request s line 1 r)
def execUpg (line r : Nat) (s : State) : Host.Outcome State Fault Refusal := .next (request s line 2 r)
def execWbd (line r : Nat) (s : State) : Host.Outcome State Fault Refusal := .next (request s line 3 r)
def execEvc (line r : Nat) (s : State) : Host.Outcome State Fault Refusal := .next (request s line 4 r)

/-- FwdS at the owner o: a copy to the requester; M or E becomes O (R172). A line already evicted is served from the
data the die keeps until its Cmp (R174). -/
def execFwds (line o : Nat) (s : State) : Host.Outcome State Fault Refusal :=
  match msgTo s .fwds line o with
  | none => .next s
  | some m =>
    let s1 := dropMsg s m
    .next (sendMsg (setDir s1 line (ownerShares o (dirAt s1 line))) ⟨.dat, line, o, m.req, m.req, 0, 4⟩)

/-- FwdX at the owner o: Dat(M) if its copy is dirty, else Dat(E); it keeps nothing. -/
def execFwdx (line o : Nat) (s : State) : Host.Outcome State Fault Refusal :=
  match msgTo s .fwdx line o with
  | none => .next s
  | some m =>
    let s1 := dropMsg s m
    let e := dirAt s1 line
    let dirty := holds e o == 1 || holds e o == 2
    .next (sendMsg (dieDrops (setDir s1 line (dropHold o e)) line o) ⟨.dat, line, o, m.req, m.req, 0, if dirty then 1 else 3⟩)

/-- Inv at a sharer: its copy goes, and it acknowledges whether or not it held the line (R174). -/
def execInv (line o : Nat) (s : State) : Host.Outcome State Fault Refusal :=
  match msgTo s .inv line o with
  | none => .next s
  | some m =>
    let s1 := dropMsg s m
    .next (sendMsg (dieDrops (setDir s1 line (dropHold o (dirAt s1 line))) line o) ⟨.ack, line, o, m.req, m.req, 0, 0⟩)

/-- A requester that has its data and every acknowledgement holds the line and sends Don; a writer performs its write,
so that E becomes M (R170, R173, R174). A home whose eviction every holder has answered frees the entry (R171). -/
def finishWait (s : State) (w : Waiting) : State :=
  let s1 := { s with waits := s.waits.filter (fun x => !(x.line == w.line && x.req == w.req)) ++ [w] }
  match w.need with
  | some n =>
    if w.data ∧ n ≤ w.got then
      let s2 := { s1 with waits := s1.waits.filter (fun x => !(x.line == w.line && x.req == w.req)) }
      if w.req = homeAgent then homeGoOn (setDir s2 w.line { DirEnt.none with queue := (dirAt s2 w.line).queue }) w.line
      else sendMsg (setDir s2 w.line (setHold w.req (if w.write then 1 else w.grant) (dirAt s2 w.line)))
        ⟨.don, w.line, w.req, keyHome w.line, w.req, 0, 0⟩
    else s1
  | none => s1

def waitOf (s : State) (line r : Nat) : Option Waiting := s.waits.find? (fun w => w.line == line && w.req == r)

def execDat (line r : Nat) (s : State) : Host.Outcome State Fault Refusal :=
  match msgTo s .dat line r, waitOf s line r with
  | some m, some w =>
    .next (finishWait (dropMsg s m) { w with
      data := true, grant := m.grant, need := if (dirAt s line).own.isNone then some m.cnt else w.need })
  | _, _ => .next s

def execCmpMessage (line r : Nat) (s : State) : Host.Outcome State Fault Refusal :=
  match msgTo s .cmp line r with
  | none => .next s
  | some m =>
    let s1 := dropMsg s m
    match m.grant, waitOf s1 line r with
    | 0, _ => .next s1
    | _, some w => .next (finishWait s1 { w with need := some m.cnt, grant := if w.data ∧ w.grant = 0 then 3 else w.grant })
    | _, none => .next s1

def execAck (line r : Nat) (s : State) : Host.Outcome State Fault Refusal :=
  match msgTo s .ack line r, waitOf s line r with
  | some m, some w => .next (finishWait (dropMsg s m) { w with got := w.got + 1 })
  | _, _ => .next s

/-- Don from r closes the transaction at the home: the directory's next state, then the next request (R173, R174). -/
def execDon (line r : Nat) (s : State) : Host.Outcome State Fault Refusal :=
  match s.msgs.findSome? (fun m => if m.kind == .don && m.line == line && m.src == r then inOrder s m else none) with
  | none => .next s
  | some m =>
    let s1 := dropMsg s m
    let e := dirAt s1 line
    match e.opn with
    | some (k, q) =>
      if q = r then
        let e' := if k = 0 then dirRead e r else dirWrite e r
        .next (homeGoOn (setDir s1 line { e' with opn := none }) line)
      else .next s1
    | none => .next s1

/-! ## Page walks and memory errors -/

def kindOf (k : BitVec 2) : Kind := match k.toNat with
  | 0 => .read | 1 => .write | 2 => .rmw | _ => .code

/-- A walk on behalf of an agent of a VF (R152 to R154, R504): it leaves A and D bits, the dirty log and the undo copy;
one that fails leaves nothing. -/
def execPageWalk (va : Addr) (vf : BitVec 9) (kind prv : BitVec 2) (s : State) : Host.Outcome State Fault Refusal :=
  match translateMark s va.toNat vf.toNat (((vfAt s vf.toNat).part).getD 0) (min 2 prv.toNat) 8 (kindOf kind) with
  | .ok (s1, _) => .next s1
  | .error _ => .next s

/-- Where a line's bits may be struck, as SRC and core number (R521): its memory, a last-level cache way, a core's stash, a Jetty
cache. -/
def struckAt (s : State) (a : Nat) : List (Nat × Nat) :=
  let k := key s a
  [(if isHbm a then 0 else 1, 0)] ++ (if s.llc.any (fun e => e.1 % 2 ^ 60 == k) then [(2, 0)] else [])
    ++ (((s.coreNo, s.core) :: s.others).filter (fun e => e.2.stash.any (fun l => lineKey s l.2.pa == k / 128 * 128))).map (fun e => (3, e.1))
    ++ (if s.jcache.any (fun e => e.2 == k) then [(7, 0)] else [])

/-- An uncorrectable error poisons the line and is logged (R503, R521). Which copy of the line was struck and which of the
partition's VFs OWN names is left open (log 6). An address that is no memory's stands for a weight buffer, an accumulator store
or an instruction scratchpad of the focused core, where no line is poisoned (log 35). -/
def execUncorrectableError (pa : BitVec 56) (s : State) : Host.Outcome State Fault Refusal :=
  let a := pa.toNat / 128 * 128
  let (s0, u) := draw s
  if ¬isMem a then
    .next (mcAppend s0 1 (4 + u % 3) (if s.core.run.isSome then ownOf s.core.cont.part s.core.cont.vf else 0) 0 0 s.coreNo)
  else
    let k := key s a
    let s1 := { s0 with poison := if s.poison.contains k then s.poison else k :: s.poison }
    let (s2, v) := draw s1
    let (src, core) := (struckAt s a).getD (u % (struckAt s a).length) (0, 0)
    .next (mcAppend s2 1 src (match memOwner s a with | some p => ownOf p (v % 512) | none => 0) 0 a (256 + core))

/-- A correctable error is counted in PT_CERR, which saturates (R503, R505). -/
def execCorrectableError (_pa : BitVec 56) (s : State) : Host.Outcome State Fault Refusal :=
  .next { s with ptCerr := if s.ptCerr = 0xFFFFFFFF then s.ptCerr else s.ptCerr + 1 }

end Sys2Proof.Machine
end

