-- ==== Sys2Proof/Machine/Credit.lean ====
section
/-! DEFINITION. Byte-counting barriers (R210): the object's value after a credit, and the credit as an atomic update. -/
namespace Sys2Proof.Machine

/-- The 16-byte object x after a credit of n bytes (R210); its reserved bits are written zero (R10). -/
def creditOf (x n : Nat) (failed : Bool) : Nat :=
  let ph := bits x 0 0
  let err := bits x 1 1
  let exp := bits x 95 64
  let cnt := bits x 127 96 + n
  let (ph', err', cnt') : Nat × Nat × Nat :=
    if exp = 0 then (ph, 1, bits x 127 96)
    else if 2 * exp ≤ cnt then (1 - ph, 1, 0)
    else if exp ≤ cnt then (1 - ph, err, cnt - exp)
    else (ph, err, cnt)
  ph' ||| ((if failed then 1 else err') <<< 1) ||| (exp <<< 64) ||| ((cnt' % 2 ^ 32) <<< 96)

/-- Credit the barrier at a virtual address on behalf of w, with the credit's label (R175, R209). -/
def creditVa (s : State) (w : Who) (va n : Nat) (failed : Bool) (l : Label) : Except AErr State :=
  match readVa s w va 16 .rmw with
  | .error e => .error e
  | .ok (s1, x, _) => writeVa s1 w va 16 (creditOf x n failed) l 0 true

/-- Credit the barrier at a physical address, as the dispatcher and the walker do (R437, R443). -/
def creditPa (s : State) (pa n : Nat) (l : Label) : State :=
  if isMem pa then engWr s pa 16 (creditOf (readPa s pa 16) n false) l else s

end Sys2Proof.Machine
end

