-- ==== Sys2Proof/Machine/Command.lean ====
section
/-! DEFINITION. Tagged commands (R198 to R203): how one issues, what its accesses meet, and how it completes. -/
namespace Sys2Proof.Machine

/-- The registers a control word names: an address register, geometry registers. -/
def namedA (f : Nat) : RegName := .a (BitVec.ofNat 4 f)
def namedG (g n : Nat) : List RegName := (List.range n).map (fun j => .g (BitVec.ofNat 6 (g + j)))

/-- The value of an address register a control word names, and of a g-register. -/
def ctlA (c : Core) (f : Nat) : Addr := (c.rdA (BitVec.ofNat 4 f)).v
def ctlG (c : Core) (g : Nat) : Word := (c.rdG (BitVec.ofNat 6 g)).v

/-- A word's Info with the registers its control word names, as read and as joining CL (R199, R466). -/
def Info.naming (i : Info) (l : List RegName) : Info := { i with rd := i.rd ++ l, cx := i.cx ++ l }

/-- Copy fault at issue (R203): the reason and the tag. -/
def copyStop (s : State) (reason tag : Nat) : Stop := .trap 0xF (tag + (reason <<< 8)) s.core.grp.word.toNat

/-- Why a running command fails: the reason of R203 with its walk fields, the address, the line of a machine check,
the label of data a gate refused; what the failing access had reached: the bytes it walked (R153) and the label of those
it had read. -/
structure CFail where
  reason : Nat
  sub : Nat
  lvl : Nat
  addr : Nat
  poison : Option Nat
  lab : Label
  walked : Option (Nat × Nat × Kind)
  got : Label
  /-- The state that the failing access found: what the command did before it stays (R203), the A and D bits of its walks among
  it (R153). -/
  base : Option State
  deriving DecidableEq, Repr

/-- A failure that no access met. -/
def CFail.of (reason sub lvl addr : Nat) : CFail := ⟨reason, sub, lvl, addr, none, 0, none, 0, none⟩

/-- The copy-fault reason of a failed access (R203); an access to a poisoned line ends the command as a link fault
does, and raises machine check in its continuation (R503). -/
def cfailOf (e : AErr) (va : Nat) : CFail :=
  match e with
  | .mis => (CFail.of 2 0 0 va)
  | .xlat x => if x.cause = 0x15 then { CFail.of 6 0 0 va with poison := some x.pa } else CFail.of (if x.cause = 6 then 3 else 4) x.reason x.lvl va
  | .label _ => (CFail.of 5 0 0 va)
  | .stash _ => (CFail.of 7 0 0 va)
  | .gate r l _ => { CFail.of 9 r 0 va with lab := l }
  | .poison pa => { CFail.of 6 0 0 va with poison := some pa }
  | .held => (CFail.of 15 0 0 va)
  | .link => CFail.of 6 0 0 va

/-- Does the failure say that a write is held by an unpulled contribution of the same core (R336)? It is no fault: the
command runs again later. -/
def CFail.isHeld (f : CFail) : Bool := f.reason == 15

def cfailInfo (f : CFail) (tag : Nat) : Nat := tag + (f.reason <<< 8) + 4096 + (f.sub <<< 16) + (f.lvl <<< 21)

/-- Has no link of the package failed, and is no window open to another? -/
def linksWhole (s : State) : Bool := s.downLinks.isEmpty && !s.nwins.toList.any (·.en)

/-- Does an access reach its target only over a failed link or port (R176, R440)? -/
def crossesDown (s : State) (w : Who) (va : Nat) (kind : Kind) : Bool :=
  !linksWhole s && (match translate s va w.vf w.part w.prv 8 kind with
    | .ok (x, _) => (isMem x.pa && linkIsDown s (dieNo s) (homeOf s x.pa)) || windowDown s x.pa
    | .error _ => false)

/-- The first part of an access that a failed link keeps from memory. -/
def cutAt (s : State) (w : Who) (va n : Nat) (kind : Kind) : Option Nat :=
  if linksWhole s then none
  else ((spanParts va n).find? (fun p => crossesDown s w p.1 kind)).map (·.1)

/-- A part of a command's access that lies in the device region, which takes no engine's doubleword (R519). -/
def deviceStop (s : State) (w : Who) (p : Nat × Nat) (kind : Kind) : Option CFail :=
  if p.2 ≠ 8 ∨ w.prv ≠ 2 then none
  else match translate s p.1 w.vf w.part w.prv 8 kind with
    | .ok (x, _) => if region x.pa = 3 then some (cfailOf (.xlat (permFault x.lvl 11)) p.1) else none
    | .error _ => none

/-- The first part of a command's access that a failed link or the device region turns away, and how. -/
def stopAt (s : State) (w : Who) (va n : Nat) (kind : Kind) : Option (Nat × CFail) :=
  if linksWhole s ∧ w.prv ≠ 2 then none
  else (spanParts va n).findSome? (fun p =>
    if crossesDown s w p.1 kind then some (p.1, CFail.of 6 0 0 p.1) else (deviceStop s w p kind).map (fun f => (p.1, f)))

/-- How a command's access of kind `kind` at va in state s fails at byte a. -/
def cmdFail (s : State) (f : CFail) (va a : Nat) (kind : Kind) (got : Label) : CFail :=
  { f with walked := some (va, (a + 2 ^ 72 - va) % 2 ^ 72 + 1, kind), got := got, base := some s }

/-- A command's read and write of n bytes, its parts in order of address (R156, R191). An engine reads and writes outside
cp.copy and its kin, as spills, overlays and fills do, by the line: such an access never lies partly in a window, so that it
does not meet R191's reason 4 (DESIGN CHOICE, log 24). -/
def cmdRd (s : State) (w : Who) (va n : Nat) (kind : Kind := .read) : Except CFail (State × Nat × Label) :=
  let cut := stopAt s w va n kind
  let m := match cut with
    | some (a, _) => (a + 2 ^ 72 - va) % 2 ^ 72
    | none => n
  match readSpan s w kind (lineCount va m) va m with
  | .error (e, a) =>
    let r := (a + 2 ^ 72 - va) % 2 ^ 72
    .error (cmdFail s (cfailOf e a) va a kind (match readSpan s w kind (lineCount va r) va r with
      | .ok (_, _, l) => l
      | .error _ => 0))
  | .ok (s1, v, l) => match cut with
    | some (a, f) => .error (cmdFail s f va a kind l)
    | none => .ok (s1, v, l)

def cmdWr (s : State) (w : Who) (va n v : Nat) (l : Label) (prov : BitVec 2 := 0) : Except CFail State :=
  match stopAt s w va n .write with
  | some (a, f) => .error (cmdFail s f va a .write 0)
  | none => match writeSpan s w l prov (lineCount va n) va n v with
    | .error (e, a) => .error (cmdFail s (cfailOf e a) va a .write 0)
    | .ok x => .ok x

def Cmd.who (c : Cmd) : Who := ⟨c.vf, c.part, c.prv, true⟩

/-- Dirty stash lines are written back and stay clean on every core: p sees the state with the line's core in focus. -/
def cleanEach (s : State) (p : State → Nat × StashLine → Bool) : State :=
  focus ((s.coreNo :: s.others.map (·.1)).foldl (fun t n => cleanLines (focus t n) (p (focus t n))) s) s.coreNo

/-- The stash lines of the regions bound to an object that the running continuation has written, on whichever core, are written back
and stay clean (R183, R193). -/
def releaseLines (t : State) (obj : Addr) : State :=
  t.core.binds.foldl (fun u b =>
    if b.obj = obj then cleanEach u (fun v l => l.2.wrote.contains (writer t) && lineIn v t.core.who b.base.toNat b.len.toNat l) else u) t

/-- What a command that releases with REL = 1 writes home at its issue: the lines of the regions bound to the object that its
completion will update, since its signal acts as an update after a release of that object, which covers the writes issued before the
command (R183, R185, R193; DEDUCED, log 24). -/
def releaseFor (t : State) (rl : BitVec 1) (objs : List Addr) : State := if rl = 1 then objs.foldl releaseLines t else t

/-! ## Issue -/

/-- Issue a tagged command (R199, R200): at most 16 in flight, its tag not busy; the tag becomes busy and its TAGS bit
clears at tick 1. -/
def issueCmd (t : State) (c : Cmd) : Act :=
  let x := t.core.ctx
  let b : Word := 1#64 <<< c.tag.toNat
  if 16 ≤ t.core.cmds.length ∨ x.busy &&& b ≠ 0 then .error .hold
  else
    let t1 := push t 1 (.tagsClr t.core.cur b) c.lab
    .ok { t1 with core := { t1.core.setCtx t1.core.cur { x with busy := x.busy ||| b } with
        cmds := t1.core.cmds ++ [{ c with arr := t1.core.grp.eArr }] } }

/-- A command as its word captures it at issue. -/
def mkCmd (t : State) (i : Info) (kind : CmdKind) (tag : Nat) (aa : Addr) (ctl : Word) (rl : BitVec 1) (sc : BitVec 3) : Cmd :=
  { kind := kind, ctx := t.core.cur, tag := BitVec.ofNat 6 tag, aa := aa, da := 0, xa := 0, ba := 0, ctl := ctl, geo := [],
    lab := readLabel t.core i.rd, rel := rl == 1, sc := sc, prv := t.core.cont.prv, vf := t.core.cont.vf, part := t.core.cont.part,
    due := t.core.tick + 2, again := 0, arr := [] }

/-! ## Completion -/

/-- What a failed access leaves all the same: the A and D bits of the pages it had walked (R153), and the count of a gate
refusal (R472). -/
def countFail (s : State) (w : Who) (f : Option CFail) : State :=
  match f with
  | some e =>
    let s1 := match e.walked with
      | some (va, n, kind) => (spanParts va n).foldl (fun t p => match translateMark t p.1 w.vf w.part w.prv p.2 kind with
        | .ok (u, _) => u
        | .error _ => t) s
      | none => s
    if e.reason = 9 ∧ e.lab ≠ 0 then countRefusal s1 w.part e.lab else s1
  | none => s

/-- A credit on behalf of w (R209, R210), as an access that a failed link may keep from memory (R176). -/
def creditAt (s : State) (w : Who) (va n : Nat) (failed : Bool) (l : Label) : Except CFail State :=
  match cutAt s w va 16 .rmw with
  | some a => .error { CFail.of 6 0 0 a with walked := some (va, 16, .rmw) }
  | none => match creditVa s w va n failed l with
    | .ok t => .ok t
    | .error e => .error { cfailOf e va with walked := some (va, 16, .rmw) }

/-- Credit a command's barrier (R209, R210); a credit that itself fails is the command's failure. -/
def creditCmd (s : State) (c : Cmd) (n : Nat) (f : Option CFail) : State × Option CFail :=
  match creditAt s c.who c.ba.toNat n f.isSome c.lab with
  | .ok s1 => (s1, f)
  | .error x => (countFail s c.who (some x), f.orElse (fun _ => some x))

/-- TAGS bit set, busy clear; a pending clear of the same bit loses (R200). A context that a retired record left is
freed with its last busy bit (R201). -/
def tagDone (k : Core) (c : Cmd) (f : Option CFail) : Core :=
  let b : Word := 1#64 <<< c.tag.toNat
  let x := k.ctxAt c.ctx
  let x1 : TagCtx := { x with tags := ⟨x.tags.v ||| b, x.tags.l ||| c.lab⟩, busy := x.busy &&& ~~~b }
  let x2 : TagCtx := match f with
    | some e => { x1 with
        terr := x1.terr ||| b, finfo := if x1.finfo = 0 ∧ x1.faddr = 0 then BitVec.ofNat 64 (cfailInfo e c.tag.toNat) else x1.finfo,
        faddr := if x1.finfo = 0 ∧ x1.faddr = 0 then BitVec.ofNat 72 e.addr else x1.faddr, flab := x1.flab ||| c.lab }
    | none => x1
  let x3 : TagCtx := if x2.leaving ∧ x2.busy = 0 ∧ x2.tasks = 0 then .free else x2
  { k.setCtx c.ctx x3 with
    pend := k.pend.map (fun e => match e.eff with
      | .tagsClr i m => if i = c.ctx then { e with eff := .tagsClr i (m &&& ~~~b) } else e
      | _ => e) }

/-- The end of a command: its credit, its tag, its tied arrivals (R120, R200); a machine check it met (R503). A held
command (R336) stays in flight and writes again later. -/
def endCmd (s : State) (c : Cmd) (credit : Option Nat) (f : Option CFail) : State :=
  let owner := (s.core.ctxAt c.ctx).owner
  let s0 := if f.any CFail.isHeld then s else countFail s c.who f
  let (s1, f1) := match credit with
    | some n => if f.any CFail.isHeld then (s0, f) else creditCmd s0 c n f
    | none => (s0, f)
  if f1.any CFail.isHeld then { s1 with core := { s1.core with cmds := s1.core.cmds ++ [{ c with again := s1.core.ltime + 4 }] } }
  else
  let s2 := { s1 with core := tagDone s1.core c f1 }
  let s3 := c.arr.foldl (fun t a => arrive t a c.lab) s2
  match f1.bind (·.poison) with
  | some pa => if s3.core.run.isSome ∧ owner = some s3.core.cont.pa then takeTrap s3 0x15 0 pa else s3
  | none => s3

/-- How a command's work ends: the state it leaves, the command, the bytes its barrier is credited with, a failure. -/
structure Ending where
  state : State
  cmd : Cmd
  credit : Option Nat
  fail : Option CFail

def Ending.close (e : Ending) : State := endCmd e.state e.cmd e.credit e.fail

/-- Does a command have REL = 1 and writes of its own? cp.flush, cp.inval and cp.unmap act on the lines that are dirty. -/
def Cmd.releases (c : Cmd) : Bool := c.rel && c.kind != .flush && c.kind != .inval && c.kind != .unmap

/-- What a command has written to stash lines of the focused core from `unwritten s` on to t: with REL = 1 it is written back, so that
the lines are clean before the completion is signalled (R185, R193), else it counts as its continuation's writes (R183). Its credit is
no write of it (R202). -/
def wroteBack (c : Cmd) (rec : Option Nat) (s t : State) : State := countWrites rec s (if c.releases then cleanLines t written else t)

/-- A command's work, its writes to stash lines counted as those of the record that its tag context belongs to. -/
def releasing {α : Type} (c : Cmd) (f : State → State × α) (s : State) : State × α :=
  let (t, a) := f { s with core := unwritten s.core }
  (wroteBack c (s.core.ctxAt c.ctx).owner s t, a)

/-- Run n units of a command's work, stopping at the first failure; what was written stays (R203). -/
def workGo (f : Nat → State → Except CFail State) : Nat → Nat → State → State × Option CFail
  | 0, _, s => (s, none)
  | n + 1, i, s =>
    match f i s with
    | .ok s1 => workGo f n (i + 1) s1
    | .error e => (e.base.getD s, some e)

end Sys2Proof.Machine
end

