-- ==== Sys2Proof/Machine/Dispatcher.lean ====
section
/-! DEFINITION. The dispatcher and the graph walker: rings and candidates (R424 to R431), claims (R16, R20, R89, R537),
the pending-launch pool (R434 to R437) and graphs (R441 to R445). -/
namespace Sys2Proof.Machine

/-! ## Stage descriptors -/

def stageRd (s : State) (part stg off n : Nat) : Nat :=
  match stageDesc s part stg with
  | none => 0
  | some d => readPa s (d + off) n
def stageWr (s : State) (part stg off n v : Nat) (l : Label := 0) : State :=
  match stageDesc s part stg with
  | none => s
  | some d => engWr s (d + off) n v l
def stageHas (s : State) (part stg : Nat) : Bool := (stageDesc s part stg).isSome

/-- Is the stage the partition's fault queue (R428)? -/
def isFaultq (s : State) (part stg : Nat) : Bool :=
  (partAt s part).faultq.getLsbD 16 && (partAt s part).faultq.toNat % 65536 == stg

/-- Does a VF's resource allow the stage (R499)? -/
def vfStage (s : State) (vf stg : Nat) : Bool :=
  match (vfAt s vf).part with
  | some _ => decide ((vfAt s vf).sqf ≤ stg) && decide (stg < (vfAt s vf).sqf + (vfAt s vf).sqn)
  | none => true

/-- EN of a stage, which is taken as 0 where the resources of its VF do not hold the stage (R499). -/
def stageEn (s : State) (part stg : Nat) : Bool :=
  bit (stageRd s part stg 9 1) 0 && vfStage s (stageRd s part stg 0xA 2 % 512) stg

/-- Is the stage served by the dispatchers (R426, R499)? -/
def stageServed (s : State) (part stg : Nat) : Bool :=
  stageHas s part stg && stageEn s part stg && !isFaultq s part stg

/-- Ring entry i of a stage (R425). -/
def ringAddr (s : State) (part stg i : Nat) : Nat :=
  stageRd s part stg 0 9 % 2 ^ 56 + 16 * (i % max 1 (stageRd s part stg 0xC 4))

/-- The valid entries of a stage's window (R426), as ring indices and record addresses. -/
def ringWindow (s : State) (part stg : Nat) : List (Nat × Nat) :=
  let h := stageRd s part stg 0x10 4
  (List.range (min 64 (stageRd s part stg 0xC 4))).filterMap (fun j =>
    let i := (h + j) % 2 ^ 32
    let e := readPa s (ringAddr s part stg i) 16
    if bit e 64 then some (i, e % 2 ^ 56) else none)

/-- HEAD advances over the longest run of taken entries (R426). -/
def headAdvance (part stg : Nat) : Nat → State → State
  | 0, s => s
  | k + 1, s =>
    let h := stageRd s part stg 0x10 4
    if s.taken.contains (part, stg, h) then
      headAdvance part stg k (stageWr { s with taken := s.taken.filter (fun e => e != (part, stg, h)) } part stg 0x10 4 ((h + 1) % 2 ^ 32))
    else s

/-- Take ring entry i: clear V, then advance HEAD (R426). -/
def takeRing (s : State) (part stg i : Nat) : State :=
  let a := ringAddr s part stg i
  let s1 := engWr s (a + 8) 1 0
  headAdvance part stg 65536 { s1 with taken := (part, stg, i) :: s1.taken }

/-! ## Candidates -/

def stageCands (s : State) (part stg : Nat) : List Cand :=
  if stageServed s part stg then (ringWindow s part stg).map (fun e => ⟨part, stg, e.2, some e.1⟩) else []

def insertCand (c : Cand) : List Cand → List Cand
  | [] => [c]
  | x :: xs => if c.stg < x.stg ∨ (c.stg = x.stg ∧ c.pa < x.pa) then c :: x :: xs else x :: insertCand c xs

/-- Every candidate there is now. -/
def candsNow (s : State) : List Cand :=
  (List.range 16).flatMap (fun p => (List.range (partAt s p).stn.toNat).flatMap (stageCands s p))
    ++ (s.ready.filter (fun e => stageServed s e.part e.stg)).map (fun e => ⟨e.part, e.stg, e.pa, none⟩)

/-- The candidates in the order in which they appeared; those that appear together by stage, then address (R430). -/
def refresh (s : State) : State :=
  let now := candsNow s
  let old := s.seen.filter (fun c => now.contains c)
  let new := (now.filter (fun c => !old.contains c)).foldl (fun l c => insertCand c l) []
  { s with seen := old ++ new }

/-- The partition that owns a core's quad (R483). -/
def ownerOf (s : State) (core : Nat) : Option Nat :=
  (List.range 16).find? (fun p => (partAt s p).quads.getLsbD (core / 4) && (partAt s p).st != 0)

/-- Is a core without a record, and free of a post that is held at it (R428)? -/
def idle (s : State) (n : Nat) : Bool := (coreAt s n).run.isNone && !s.posts.any (fun p => p.core == n)

/-- Does the record at pa still name core n by PIN and CORE (R295, R19)? -/
def namesCore (s : State) (n pa : Nat) : Bool :=
  let r := readRecord s pa
  let cw := rf r 0x2C 2
  recSt r != 0 && recSt r != 5 && bit cw 9 && cw % 256 == n

/-- May core n take the record r at pa (R429)? Its die reaches the stage's descriptor (R440), and a tenant's record, one at U, is
served in production only (R530). -/
def mayTake (s : State) (n : Nat) (c : Cand) (r : Nat) : Bool :=
  let k := coreAt s n
  let cw := rf r 0x2C 2
  ownerOf s n == some c.part && (partAt s c.part).st == 1
    && (!bit cw 9 || cw % 256 == n)
    && (bits (rf r 0xA 1) 5 4 != 0 || s.dev.lc == 1)
    && (bits (rf r 0x2B 1) 7 6 != 3 || bits (rf r 0x2B 1) 5 4 == n / 64)
    && (k.ctxs.toList.any (fun x => x.owner == none) || k.ctxs.toList.any (fun x => x.owner == some c.pa))
    && !k.pinned.any (fun e => e.2 != rf r 0x1B 2 % 512 && namesCore s n e.1)
    && (stageRd s c.part (rf r 0x29 2) 0x28 2 == 0
      || decide (stageRd s c.part (rf r 0x29 2) 0x1C 4 < stageRd s c.part (rf r 0x29 2) 0x28 2))
    && !(stageDesc s c.part c.stg).any (fun d => linkIsDown s (n / 64) (homeOf s d))

/-- The address of the next record of a quad-lock ring, or 0 (R23, R31). -/
def ringNext (s : State) (r : Nat) : Nat :=
  let vp := rf r 0x1B 2
  if rf r 0x19 2 = 65535 ∧ bit (rf r 0x2C 2) 8 then
    frameRead s ⟨vp % 512, bits vp 12 9, bits (rf r 0xA 1) 5 4, true⟩ (rf r 0x10 9) 0x28 8 % 2 ^ 56
  else 0

/-- The four records of a candidate's quad-lock ring, or the one record: a record that is not ready is taken alone (R16). -/
def ringOf (s : State) (pa : Nat) : List Nat :=
  let n1 := ringNext s (readRecord s pa)
  if n1 = 0 ∨ recSt (readRecord s pa) ≠ 1 then [pa]
  else
    let n2 := ringNext s (readRecord s n1)
    [pa, n1, n2, ringNext s (readRecord s n2)]

/-- Where each record of a ring goes in the quad of core n: its CORE bits 1:0 (R31). -/
def ringHome (s : State) (n pa : Nat) : Nat := n / 4 * 4 + rf (readRecord s pa) 0x2C 2 % 4

/-- The record of a ring as a candidate of its own stage (R424, R429). -/
def ringCand (s : State) (c : Cand) (pa : Nat) : Cand :=
  (s.seen.find? (fun d => d.pa == pa)).getD { c with pa := pa, stg := rf (readRecord s pa) 0x29 2 }

/-- May core n, with its quad for a ring, take the candidate? -/
def canTake (s : State) (n : Nat) (c : Cand) : Bool :=
  let l := ringOf s c.pa
  if l.length = 1 then idle s n && mayTake s n c (readRecord s c.pa)
  else l.all (fun pa => recSt (readRecord s pa) == 1 && s.seen.any (fun d => d.pa == pa)
    && idle s (ringHome s n pa) && mayTake s (ringHome s n pa) (ringCand s c pa) (readRecord s pa))

/-- No core of the candidate's home place is idle and able to take it, or core n lies there (R431). -/
def homeAllows (s : State) (n : Nat) (c : Cand) : Bool :=
  let h := rf (readRecord s c.pa) 0x2B 1
  if bits h 7 6 = 1 then n / 4 == h % 64 || !(quadCores (4 * (h % 64))).any (fun k => canTake s k c)
  else if bits h 7 6 = 2 then n / 64 == bits h 5 4 || !((List.range 64).map (· + 64 * bits h 5 4)).any (fun k => canTake s k c)
  else true

/-- The priority of a candidate; a ring's is its highest (R430). -/
def candPri (s : State) (c : Cand) : Nat := ((ringOf s c.pa).map (fun pa => rf (readRecord s pa) 0xA 1 % 16)).foldl max 0
def candVf (s : State) (c : Cand) : Nat := rf (readRecord s c.pa) 0x1B 2 % 512

/-- Is a candidate held back by its stage's DOWN stage (R430)? -/
def heldBack (s : State) (c : Cand) : Bool :=
  let d := stageRd s c.part c.stg 0x24 2
  if d = 65535 ∨ ¬stageHas s c.part d then false
  else
    let cap := stageRd s c.part d 0xC 4
    let occ := (stageRd s c.part d 0x14 4 + 2 ^ 32 - stageRd s c.part d 0x10 4) % 2 ^ 32
    decide (cap - occ < stageRd s c.part c.stg 0x26 2)

def rotOf (s : State) (k : Nat) : Rot := (s.rots.find? (fun r => r.key == k)).getD ⟨k, 0, 0⟩
def setRot (s : State) (r : Rot) : State := { s with rots := r :: s.rots.filter (fun x => x.key != r.key) }

/-- Choose a candidate for idle core n, and serve its VF in the rotation (R430). A record whose VP names no VF, which its
claim refuses (R16), comes after VF 383 and is not served in the rotation. -/
def choose (s : State) (n : Nat) : Option (State × Cand) :=
  let l := s.seen.filter (fun c => canTake s n c && homeAllows s n c)
  if l.isEmpty then none
  else
    let top := (l.map (candPri s)).foldl max 0
    let l1 := l.filter (fun c => candPri s c == top)
    let rot := rotOf s (16 * (n / 64) + top)
    let v := ((List.range 512).map (fun i => (rot.ptr + i) % 512)).find? (fun v => l1.any (fun c => candVf s c == v))
    match v with
    | none => none
    | some v =>
      let used := (if v = rot.ptr then rot.used else 0) + 1
      let rot' : Rot := if 384 ≤ v then rot else if (vfAt s v).share ≤ used then ⟨rot.key, (v + 1) % 384, 0⟩ else ⟨rot.key, v, used⟩
      let l2 := l1.filter (fun c => candVf s c == v)
      match (l2.filter (fun c => !heldBack s c) ++ l2).head? with
      | some c => some (setRot s rot', c)
      | none => none

/-! ## Claims -/

/-- Take a candidate's entry (R20); what the record does later is another candidate (R432). -/
def takeEntry (s0 : State) (c : Cand) : State :=
  let s := { s0 with ended := s0.ended.filter (· != c.pa) }
  match c.idx with
  | some i => takeRing s c.part c.stg i
  | none => { s with ready := s.ready.filter (fun e => !(e.pa == c.pa && e.part == c.part)) }

/-- The checks of R16 on a record with ST = 1. -/
def recordOk (s : State) (part stg r : Nat) : Bool :=
  rf r 0x3C 4 == (crc32c (leBytes 60 (r % 2 ^ 480))).toNat && !recReserved r && rf r 0 1 % 4 == 0 && rf r 0x10 1 % 64 == 0
    && bits (rf r 0x1B 2) 12 9 == part && decide (bits (rf r 0xA 1) 5 4 ≤ bits (stageRd s part stg 9 1) 2 1)

/-- The pages of a frame (R537). -/
def framePages (frm : Nat) : List Nat :=
  frm :: ((List.range 3).map (fun i => (frm / 65536 + 1 + i) * 65536)).filter (fun a => decide (a < frm + 147456))

/-- A claim by a record of another VF (R195, R263, R296). -/
def switchVf (c : Core) (vf : Nat) : Core :=
  if c.svf = some vf then c
  else { c with
    svf := some vf, stash := [], maps := Vector.replicate 16 none, wbuf := if c.mxPool.getLsbD 15 then c.wbuf else [],
    pats := Vector.replicate 8 ⟨0, 0, 0, 0⟩,
    half0 := { c.half0 with st := 0 }, half1 := { c.half1 with st := 0 } }

/-- Where a frame's shadow count and its first descriptors lie (R146). -/
def shadowHeads (s : State) (w : Who) (frm : Nat) : List (Nat × Nat) :=
  (2, 2) :: (List.range (min 96 (frameRead s w frm 2 2))).map (fun i => (0x17000 + 16 * i, 16))

/-- The claiming core's check of frame and live-state table (R537, R146): TR_INFO and TR_ADDR of a refusal. -/
def frameCheck (s : State) (pa r : Nat) : Option (Nat × Nat) :=
  let run := runningOf pa r
  let w : Who := ⟨run.vf, run.part, run.prv, true⟩
  let s1 := { s with core := { switchVf s.core run.vf with run := some run } }
  match (framePages run.frm.toNat).findSome? (fun a => match translate s (a % 2 ^ 72) w.vf w.part w.prv 64 .write with
      | .error e => some ((e.reason <<< 11) + (1 <<< 31), a % 2 ^ 72)
      | .ok _ => none) with
  | some e => some e
  | none =>
    match (if bit (rf r 0x2C 2) 8 ∧ rf r 0x19 2 ≠ 65535 then
        match liveEntry s1 (BitVec.ofNat 72 (rf r 0 9)) (rf r 0x19 2) with
        | .ok _ => none
        | .error (reason, a) => some (reason <<< 11, a)
      else none) with
    | some e => some e
    | none =>
    if bit (rf r 0xA 1) 6 ∧ frameHurt s w run.frm.toNat (shadowHeads s w run.frm.toNat) = none then
      let n := frameRead s w run.frm.toNat 2 2
      if 96 < n then some (0, pa)
      else if (List.range n).any (fun i =>
          let d := frameRead s w run.frm.toNat (0x17000 + 16 * i) 2
          d % 256 == 0 || decide (10 < d / 256)) then some (0, pa)
      else none
    else none

/-- Refuse a claimed record: ST = 4 and a new CHK, the frame header, the trap registers and the post (R16, R34). The header
keeps the count of the results that are still saved, and the link of a quad-lock ring (R23, R31). -/
def refuse (s : State) (pa r cause info addr : Nat) : State :=
  let run := runningOf pa r
  let w : Who := ⟨run.vf, run.part, run.prv, true⟩
  let frm := run.frm.toNat
  let srn := if bit (rf r 0xA 1) 6 then frameRead s w frm 2 2 else 0
  let ql := if rf r 0x19 2 = 65535 ∧ bit (rf r 0x2C 2) 8 then frameRead s w frm 0x28 9 else 0
  let s1 := writeRecord s pa (setSt r 4 0 0 0)
  let s2 := if rf r 0x10 1 % 64 = 0 then
      (frameWrite w frm (s1, true)
        ⟨0, 0x40, cause + (srn <<< 16) + (info <<< 64) + (addr <<< 128) + (s.core.tick <<< 256) + (ql <<< 320), run.cl⟩).1
    else s1
  postRecord { s2 with core := { s2.core with
    trCause := BitVec.ofNat 8 cause, trInfo := BitVec.ofNat 64 info, trAddr := BitVec.ofNat 72 addr } } run cause info

/-- Load the 64 KiB window at va into the idle half, without a tag (R220 MODE 0): its failure, if any. -/
def loadWindow (s : State) (w : Who) (va : Nat) (l : Label) : State × Option CFail :=
  let idle := !s.core.active
  match cmdRd s w va 65536 .code with
  | .error f =>
    let s1 := countFail (f.base.getD s) w (some f)
    ({ s1 with core := s1.core.setHalf idle ⟨BitVec.ofNat 72 va, 3, l ||| f.got, 4, []⟩ }, some f)
  | .ok (s1, v, ml) => ({ s1 with core := s1.core.setHalf idle ⟨BitVec.ofNat 72 va, 2, l ||| ml, 0, cellsOf 65536 0 v⟩ }, none)

/-- The core passes to a VF, its stash lines written back and not present (R195). -/
def switchTo (s : State) (vf : Nat) : State :=
  let s1 := if s.core.svf = some vf then s else dropLines s (fun _ => true)
  { s1 with core := switchVf s1.core vf }

/-- The tag context of a record on this core (R201): its own, or a free one. A record that has not run (`cv` false) and whose
address names a context that a retired record there still drains owns it from now on, with TAGS zero (R89); whether it does is
left open by R201 (DESIGN CHOICE, log 23). A context that is current again is no longer one that retirement frees. -/
def claimCtx (c : Core) (pa : Nat) (cv : Bool) : Core :=
  match c.ctxs.toList.findIdx? (fun x => x.owner == some pa) with
  | some i =>
    let x := c.ctxAt i
    { c.setCtx i { x with tags := if cv then x.tags else ⟨0, 0⟩, leaving := false } with cur := i }
  | none =>
    let i := (c.ctxs.toList.findIdx? (fun x => x.owner == none)).getD 0
    { (c.setCtx i { TagCtx.free with owner := some pa }) with cur := i }

/-- The registers zero with empty labels, FRM in a15 (R89, CV = 0). -/
def freshRegs (c : Core) (frm : Addr) : Core :=
  { c with
    s := Vector.replicate 32 ⟨0, 0⟩, a := (Vector.replicate 16 ⟨0, 0⟩).set 15 ⟨frm, 0⟩, p := Vector.replicate 16 ⟨0, 0⟩,
    v := Vector.replicate 32 ⟨0, 0⟩, m := Vector.replicate 8 ⟨0, 0⟩, g := Vector.replicate 64 ⟨0, 0⟩,
    z := Vector.replicate 9 ⟨0, 0⟩, b := Vector.replicate 16 ⟨0, 0⟩, bt := Vector.replicate 4 ⟨⟨0, 0⟩, false, 0, none⟩,
    fpMode := 0, fpFlags := ⟨0, 0⟩, fpSeed := ⟨0, 0⟩, fpSctr := 0, fpVcfg := 0, vro := 0, pro := 0,
    nest := ⟨false, 0, 0, 0, 0, 0, []⟩, binds := [] }

/-- The registers a claim with CV = 1 restores (R89, R262): those of its live-state entry, or all of them; but for TAGS of a
context the record still owns (R201) and the z blocks of a pooled engine (R296). c0 holds the frame's fixed area. -/
def claimRegs (s : State) (c0 : Core) (run : Running) (r : Nat) (keepTags : Bool) : List RegName :=
  let regs := if rf r 0x19 2 = 65535 then allRegs
    else match liveEntry { s with core := { c0 with run := some run } } (BitVec.ofNat 72 (rf r 0 9)) (rf r 0x19 2) with
      | .ok e => (allRegs.filter (fun (n : RegName) => bit e n.liveBit)).map
          (fun n => if n = .tags then n else RegName.phys c0 n)
      | .error _ => []
  regs.filter (fun (n : RegName) => !(n == .tags && keepTags) && !(n.isZ && s.core.mxPool.getLsbD 15))

/-- The core with the fixed area and the binding table of a frame (R89, R137, R139). -/
def claimFixed (s : State) (run : Running) : Core :=
  restoreFixed s ⟨run.vf, run.part, run.prv, true⟩ run.frm.toNat (freshRegs s.core run.frm)

/-- Does a claim replay the frame's shadow results (R89)? -/
def replays (r : Nat) : Bool := bit (rf r 0xA 1) 6 && rf r 0x19 2 == 65535

/-- The frame blocks that a claim reads (R89, R137, R146), as offsets and sizes. -/
def claimBlocks (s : State) (run : Running) (r : Nat) (keepTags : Bool) : List (Nat × Nat) :=
  if ¬bit (rf r 0x2C 2) 8 then []
  else
    let w : Who := ⟨run.vf, run.part, run.prv, true⟩
    let c0 := claimFixed s run
    [(0x40, 0x54), (0xD00, 0x200)] ++ (claimRegs s c0 run r keepTags).flatMap (fun n => (regBlks c0 n).map (fun b => (b.off, b.size)))
      ++ (if replays r then shadowHeads s w run.frm.toNat ++ (List.range (min 96 (frameRead s w run.frm.toNat 2 2))).filterMap (fun i =>
          let k := frameRead s w run.frm.toNat (0x17001 + 16 * i) 1
          if k = 3 ∨ k = 4 ∨ k = 5 then some (0x17600 + 512 * i, 512) else none) else [])

/-- Restore the registers a claim with CV = 1 names (R89, R141, R262), and fetch prepared targets again (R107). -/
def restoreRegs (s : State) (run : Running) (r : Nat) (keepTags : Bool) : State :=
  let w : Who := ⟨run.vf, run.part, run.prv, true⟩
  let frm := run.frm.toNat
  let c0 := claimFixed s run
  let c1 := (claimRegs s c0 run r keepTags).foldl (restoreReg s w frm) c0
  let c2 := (List.range 4).foldl (fun (c : Core) i =>
    let k : BitVec 2 := BitVec.ofNat 2 i
    let b := c.rdBt k
    if b.prepared then
      let c' := c.setBt k { b with ready := c.tick + 3 }
      if unloaded c b.addr.v then c' else c'.push 3 (.btFetch k) 0
    else c) c1
  let c3 := if replays r then
      (List.range (frameRead s w frm 2 2)).foldl (fun (c : Core) i =>
        match replayEff s w frm i c.cur run.vf with
        | (k, l, some e) => c.push k e l
        | _ => c) c2
    else c2
  { s with core := c3 }

/-- The A and D bits that the claim's translation of a frame's pages sets, up to the first that fails (R153, R537). -/
def markFrame (s : State) (w : Who) : List Nat → State
  | [] => s
  | a :: as => match translateMark s (a % 2 ^ 72) w.vf w.part w.prv 64 .write with
    | .error _ => s
    | .ok (t, _) => markFrame t w as

/-- The A bits that the claim's reading of the live-state entry sets (R153, R537). -/
def markLive (s : State) (run : Running) (r : Nat) : State :=
  if bit (rf r 0x2C 2) 8 ∧ rf r 0x19 2 ≠ 65535 then
    { liveMark { s with core := { switchVf s.core run.vf with run := some run } } (BitVec.ofNat 72 (rf r 0 9)) (rf r 0x19 2) with
      core := s.core }
  else s

/-- The half that holds the resume point becomes the active one, loaded from memory when neither does (R110). -/
def loadCode (s : State) (run : Running) (rpc : Addr) : State × Option CFail :=
  match halfOf s.core rpc with
  | some n => ({ s with core := { s.core with active := n } }, none)
  | none => match loadWindow s ⟨run.vf, run.part, run.prv, true⟩ (rpc.toNat / 65536 * 65536) run.cl with
    | (t, none) => ({ t with core := { t.core with active := !t.core.active } }, none)
    | (t, some f) => (t, some f)

/-- The tag context of a claim that is refused after all (R201): one that the claim assigned is free again, one that the record
owned already stays its own as c held it before. -/
def unclaim (s : State) (kept : Bool) (c : Core) : State :=
  { s with core := s.core.setCtx s.core.cur (if kept then c.ctxAt s.core.cur else .free) }

/-- The focused core starts the record at pa (R20, R89, R110, R195, R201), or, as an error, refuses it; `locked` for a ring
(R31). Frame bytes that it must read and cannot are a machine check or a link fault of the record (R176, R503; DEDUCED,
log 23). A copy fault of the claim's own window load has TAG 0 and DEF 1 (R220; DESIGN CHOICE, log 23). -/
def startGo (s0 : State) (pa : Nat) (locked : Bool) : Except State State :=
  let r := readRecord s0 pa
  let run := runningOf pa r
  let w : Who := ⟨run.vf, run.part, run.prv, true⟩
  let cv := bit (rf r 0x2C 2) 8
  let s := markLive (markFrame s0 w (framePages run.frm.toNat)) run r
  match frameCheck s pa r with
  | some (info, addr) => .error (refuse s pa r 0x14 info addr)
  | none =>
    let keep := s.core.ctxs.toList.any (fun x => x.owner == some pa)
    let sv := switchTo s run.vf
    let s1 := { sv with core := claimCtx sv.core pa cv }
    match frameHurt s1 w run.frm.toNat (claimBlocks s1 run r keep) with
    | some (cause, addr) => .error (refuse (unclaim s1 keep sv.core) pa r cause 0 addr)
    | none =>
      let rpc := BitVec.ofNat 72 (rf r 0 9)
      match loadCode s1 run rpc with
      | (s2, some f) => .error (match f.poison with
        | some line => refuse (unclaim s2 keep sv.core) pa r 0x15 0 line
        | none => refuse (unclaim s2 keep sv.core) pa r 0xF (cfailInfo f 0) f.addr)
      | (s2, none) =>
        let s3 := engWr s2 (pa + 9) 1 2
        let s4 := if cv then restoreRegs s3 run r keep else { s3 with core := freshRegs s3.core run.frm }
        let s5 := { s4 with core := { s4.core with
          run := some { run with since := s.time }, pc := rpc, buf := none, frozen := 0, spun := 0, waiting := false, spinW := none,
          locked := locked, wantsLock := false,
          mark := .none, pinned := s4.core.pinned.filter (fun e => e.1 != pa), mxPin := false } }
        let s6 := stageAdd s5 run.part run.stg.toNat 0x1C 1
        .ok (if cv then s6 else stageAdd s6 run.part run.stg.toNat 0x18 1)

def startRecord (s : State) (pa : Nat) (locked : Bool) : State :=
  match startGo s pa locked with
  | .ok t => t
  | .error t => t

/-- Would the focused core refuse the record at pa of the queue of stage stg (R16, R110, R146, R537)? -/
def startFails (s : State) (part stg pa : Nat) : Bool :=
  !recordOk s part stg (readRecord s pa) || (match startGo s pa true with
    | .ok _ => false
    | .error _ => true)

/-- Post an entry whose record is not claimed (R16, R426). -/
def postBad (s : State) (part pa : Nat) : State := { s with posts := s.posts ++ [⟨part, pa, 0x14, s.coreNo⟩] }

/-- An entry that names no record that can be read (R426), in a ring or in a ready table (R427): its address, a poisoned line
(R503) or a failed link of the claiming die (R176) keeps it from being read. -/
def badEntry (s : State) (c : Cand) : Bool :=
  c.pa % 64 != 0 || !inPart s c.part c.pa || !isMem c.pa || !reaches s (dieNo s) c.pa 64

/-- Claim the record at pa for the focused core: it is refused, or starts (R16, R20). -/
def claimOne (s : State) (part stg pa : Nat) (locked : Bool) : State :=
  let r := readRecord s pa
  if ¬recordOk s part stg r then refuse s pa r 0x14 0 pa else startRecord s pa locked

/-- Claim a candidate on the focused core (R16, R20). Of a quad-lock ring every record is checked on its core: those that
fail are refused, and then the others stay candidates, since the ring is no longer whole (R31; DEDUCED, log 23). -/
def claimCand (s : State) (c : Cand) : State :=
  let ring := ringOf s c.pa
  if ring.length = 1 then
    let s0 := takeEntry s c
    if recSt (readRecord s0 c.pa) ≠ 1 then postBad s0 c.part c.pa else claimOne s0 c.part c.stg c.pa false
  else
    let me := s.coreNo
    let bad := ring.filter (fun pa => startFails (focus s (ringHome s me pa)) c.part (ringCand s c pa).stg pa)
    focus ((if bad = [] then ring else bad).foldl (fun t pa =>
      let d := ringCand s c pa
      claimOne (focus ((t.seen.filter (fun d => d.pa == pa)).foldl takeEntry t) (ringHome s me pa)) d.part d.stg pa true) s) me

/-- Must the claim wait for commands or a pattern load of a core that it switches to another VF (R195, R263)? -/
def mustDrain (s : State) (c : Cand) : Bool :=
  let ring := ringOf s c.pa
  ring.any (fun pa =>
    let k := coreAt s (if ring.length = 1 then s.coreNo else ringHome s s.coreNo pa)
    k.svf != some (rf (readRecord s pa) 0x1B 2 % 512) && (!k.cmds.isEmpty || k.patBusy.isSome))

/-- Does the candidate that the focused core would claim wait for a core to drain (R195, R263)? No tick counts meanwhile. -/
def claimWaits (s : State) : Bool :=
  let s0 := refresh s
  idle s s.coreNo && !s0.seen.any (fun c => badEntry s0 c && ownerOf s0 s0.coreNo == some c.part) && (match choose s0 s0.coreNo with
    | some (s1, c) => mustDrain s1 c
    | none => false)

/-- An idle core asks its dispatcher for a record (R20, R429, R430). An entry of its partition that names no readable record
is taken and posted first, whatever bytes it names (R426). A claim that changes a core's VF waits for that core (R195). -/
def claimFor (s : State) : State :=
  if ¬idle s s.coreNo then s
  else
    let s0 := refresh s
    match s0.seen.find? (fun c => badEntry s0 c && ownerOf s0 s0.coreNo == some c.part) with
    | some c => refresh (postBad (takeEntry s0 c) c.part c.pa)
    | none => match choose s0 s0.coreNo with
      | none => s0
      | some (s1, c) => if mustDrain s1 c then s0 else refresh (claimCand s1 c)

/-! ## Graphs (R441 to R445) -/

def nodeAddr (g k : Nat) : Nat := g + 0x40 + 64 * k

/-- Every ACT cleared and every binding released (R443, R444). -/
def graphEnd (s : State) (g : GraphRun) : State :=
  let s1 := (List.range (readPa s (g.pa + 2) 2)).foldl (fun t k => engWr t (nodeAddr g.pa k + 0x18) 1 0) s
  let s2 := g.binds.foldl (fun t b => stageWr t g.part b.1 0x30 9 0) s1
  { s2 with graphs := s2.graphs.filter (fun x => x.pa != g.pa), acts := s2.acts.filter (fun a => a.1 != g.pa) }

def graphFail (s : State) (g : GraphRun) (err node : Nat) : State :=
  let s1 := engWr (engWr (engWr s g.pa 1 4) (g.pa + 1) 1 err) (g.pa + 6) 2 node
  graphEnd s1 g

def actLater (s : State) (g : Nat) (l : List Nat) : State :=
  { s with acts := s.acts ++ (l.filter (· != 0xFFFF)).map (fun k => (g, k)) }

/-- The graph fails with ERR 3 when nothing is active and nothing outstanding (R443). -/
def graphStuck (s : State) (g : GraphRun) (k : Nat) : State :=
  if readPa s g.pa 1 = 1 ∧ ¬s.acts.any (fun a => a.1 == g.pa)
      ∧ ¬(List.range (readPa s (g.pa + 2) 2)).any (fun j => bit (readPa s (nodeAddr g.pa j + 0x18) 1) 0)
  then graphFail s g 3 k else s

/-- A stage node finishes (R443): ACT := 0, then NEXT0, then NEXT1. -/
def nodeFinish (s : State) (g : GraphRun) (k : Nat) : State :=
  let a := nodeAddr g.pa k
  graphStuck (actLater (engWr s (a + 0x18) 1 0) g.pa [readPa s (a + 2) 2, readPa s (a + 4) 2]) g k

/-- Can the walker, at the home of the graph's header, not reach the descriptor of a stage (R440)? -/
def walkerCut (s : State) (g : GraphRun) (stg : Nat) : Bool :=
  (stageDesc s g.part stg).any (fun d => linkIsDown s (homeOf s g.pa) (homeOf s d))

/-- Serve one activation of node k (R443). -/
def activate (s : State) (g : GraphRun) (k : Nat) : State :=
  let a := nodeAddr g.pa k
  let n := readPa s a 64
  let n0 := rf n 2 2
  let n1 := rf n 4 2
  let cw := rf n 8 8
  let cnt := rf n 0x10 4
  match rf n 0 1 with
  | 1 =>
    if walkerCut s g (rf n 6 2) then graphFail s g 4 k
    else if bit (rf n 0x18 1) 0 then graphFail s g 1 k
    else
      let s1 := engWr (engWr s (a + 0x10) 4 0) (a + 0x18) 1 1
      if ¬bit (rf n 1 1) 0 ∧ cw % 2 ^ 32 = 0 then nodeFinish s1 g k else s1
  | 2 => graphStuck (actLater s g.pa [if cw ≠ 0 then n1 else n0]) g k
  | 3 =>
    let lim := rf n 0x14 4
    if cw = 0 then graphStuck (actLater (engWr s (a + 0x10) 4 0) g.pa [n0]) g k
    else
      let s1 := engWr s (a + 0x10) 4 ((cnt + 1) % 2 ^ 32)
      if lim ≠ 0 ∧ lim < cnt + 1 then graphFail s1 g 2 k else graphStuck (actLater s1 g.pa [n1]) g k
  | 4 =>
    if cnt + 1 = rf n 6 2 then graphStuck (actLater (engWr s (a + 0x10) 4 0) g.pa [n0]) g k
    else graphStuck (engWr s (a + 0x10) 4 (cnt + 1)) g k
  | _ =>
    let s1 := engWr (engWr s g.pa 1 2) (g.pa + 8) 4 ((readPa s (g.pa + 8) 4 + 1) % 2 ^ 32)
    let s2 := graphEnd s1 g
    if g.done = 0 then s2 else creditPa s2 g.done 1 g.lab

/-- A retirement in a stage (R424 POP and RET, R443): the bound node counts it and may finish. -/
def stageRetired (s : State) (part stg : Nat) : State :=
  let s1 := stageAdd (stageSub s part stg 0x18) part stg 0x20 1
  match s1.graphs.find? (fun g => g.part == part && g.binds.any (fun b => b.1 == stg)) with
  | none => s1
  | some g => match g.binds.find? (fun b => b.1 == stg) with
    | none => s1
    | some (_, k) =>
      let a := nodeAddr g.pa k
      if ¬bit (readPa s1 (a + 0x18) 1) 0 then s1
      else
        let cnt := (readPa s1 (a + 0x10) 4 + 1) % 2 ^ 32
        let s2 := engWr s1 (a + 0x10) 4 cnt
        let drained := stageRd s2 part stg 0x10 4 == stageRd s2 part stg 0x14 4
          && !s2.ready.any (fun e => e.part == part && e.stg == stg)
          && stageRd s2 part stg 0x18 4 == 0 && stageRd s2 part stg 0x2C 4 == 0
        if (if bit (readPa s2 (a + 1) 1) 0 then drained else cnt == readPa s2 (a + 8) 4) then nodeFinish s2 g k else s2

/-! ## The pool (R434 to R437) -/

/-- The pool slot a live record lives in. -/
def slotOf (s : State) (part pa : Nat) : Option Nat :=
  let b := (partAt s part).pool.toNat
  if b ≤ pa ∧ pa < b + 8192 * 128 ∧ (pa - b) % 128 = 0 ∧ readPa s (pa + 0x40) 1 = 2 then some ((pa - b) / 128) else none

/-- No stash line or row of a z block counts any more as written by a record that has retired, as another continuation may take its
address. -/
def forgetWriter (s : State) (pa : Nat) : State :=
  let f (c : Core) : Core := { c with
    stash := c.stash.map (fun l => (l.1, { l.2 with wrote := l.2.wrote.filter (· != pa) })), mxWrote := c.mxWrote.filter (fun e => e.1 != pa) }
  { s with core := f s.core, others := s.others.map (fun e => (e.1, f e.2)) }

/-- Retirement as the dispatcher sees it (R437): the notify credit, the record free and the slot free, or the record
retired; then the stage's counts. The credit comes after a release that covers every write of the child (R183, R193): the dirty lines
that it has written, on whichever core, are written back. -/
def recordRetired (s : State) (r : Running) (rec : Nat) : State :=
  let s1 := match slotOf s r.part r.pa with
    | some _ =>
      let t := if bit (readPa s (r.pa + 0x42) 1) 0 then creditPa (cleanEach s (fun _ l => l.2.wrote.contains r.pa)) (readPa s (r.pa + 0x44) 7) 1 r.cl else s
      engWr (writeRecord t r.pa (setSt rec 0 0 0 0)) (r.pa + 0x40) 1 0
    | none => writeRecord s r.pa (setSt rec 5 0 0 0)
  stageRetired (stageLeave (forgetWriter s1 r.pa) r) r.part r.stg.toNat

/-- Retire the focused core's continuation (R125, R201): results in flight and arrivals tied to them are discarded,
every other effect is made. -/
def retireCore (s : State) (next : Addr) : State :=
  let keep (e : Pend) : Bool := match e.eff with
    | .arrive a => !a.res
    | e => !e.isResult
  let s1 := (byDue (s.core.pend.filter keep)).foldl applyEff { s with core := { s.core with pend := [] } }
  let c := s1.core
  let r := c.cont
  let x := c.ctx
  let c1 := if x.busy ≠ 0 ∨ x.tasks ≠ 0 then c.setCtx c.cur { x with leaving := true }
    else c.setCtx c.cur .free
  let rec0 := buildRecord s1 { r with cl := c.cl } next.toNat 5 r.spx.toNat 0 0 0 false r.pin
  recordRetired { s1 with core := { leaveCore { c1 with mxPin := false } with mark := .left } } r rec0

end Sys2Proof.Machine
end

