-- ==== Sys2Proof/Machine/Control.lean ====
section
/-! DEFINITION. Control words of major 0x0C (R120, R123 to R134): safe points, traps, system registers, rfe, quad-lock
and tied arrivals. -/
namespace Sys2Proof.Machine

/-- safe n: with the slice ended the record is written back ready and the group does not issue (R124). The slice end
is deferred in a quad-locked domain (R129) and while the ready table is full (R427). -/
def execSafe (q : BitVec 4) (n : BitVec 16) (s : State) :=
  tile (infoSafe q n) (n != 65535) s fun t =>
    if t.core.cont.ended ∧ ¬t.core.locked ∧ readyRoom t (dieNo t) then .ok (safeSuspend s s.core.pc n 1 0 0 0 false) else .ok t

/-- yield and suspend need a safe in their group (R123) and no quad-lock (R129); both turn on more than the word, so that
a false predicate exempts from them (R44). A word that fails both reports the first, sub-reason 2 (R123, R135; DESIGN CHOICE, log 22). -/
def execYield (q : BitVec 4) (s : State) :=
  tile (infoYield q) true s fun t =>
    if t.core.grp.safe.isNone then .error (illegal t 2)
    else if t.core.locked then .error (illegal t 4)
    else if ¬readyRoom t (dieNo t) then .error .hold
    else .ok (safeSuspend t t.core.grp.next (t.core.grp.safe.getD 0) 1 0 0 0 false)

def execSuspend (q : BitVec 4) (a : BitVec 5) (s : State) :=
  tile (infoSuspend q a) true s fun t =>
    if t.core.grp.safe.isNone then .error (illegal t 2)
    else if t.core.locked then .error (illegal t 4)
    else .ok (safeSuspend t t.core.grp.next (t.core.grp.safe.getD 0) 3 7 0 (t.core.rdS a).v.toNat false)

def execRetire (q : BitVec 4) (s : State) :=
  tile (infoRetire q) true s fun t => .ok (retireCore t t.core.grp.next)

/-- svc and brk trap with the immediate and the group's word count (R126). -/
def callStop (s : State) (c : Nat) (n : BitVec 16) : Stop := .trap c (n.toNat + (s.core.grp.count <<< 16)) s.core.grp.word.toNat
def execSvc (q : BitVec 4) (n : BitVec 16) (s : State) := tile (infoSvc q n) true s fun t => .error (callStop t 0xB n)
def execBrk (q : BitVec 4) (n : BitVec 16) (s : State) := tile (infoBrk q n) true s fun t => .error (callStop t 0xA n)

/-! ## System registers -/

/-- The privilege check of R131 on a read or a write. -/
def sysChk (s : State) (n : BitVec 12) (write : Bool) : Option Stop :=
  match sysPriv n.toNat with
  | none => some (illegal s)
  | some (rd, wr) => match (if write then wr else rd) with
    | none => some (privileged s n.toNat)
    | some p => if s.core.cont.prv < p then some (privileged s n.toNat) else none

/-- DS_SHVAL names a VF: at H it must belong to the caller's partition (R33, R131). -/
def otherVf (s : State) (n : BitVec 12) : Bool :=
  n == 0x509 && s.core.cont.prv == 1 && (vfAt s (partAt s s.core.cont.part).shidx.toNat).part != some s.core.cont.part

def execSysrd (q : BitVec 4) (d : BitVec 5) (n : BitVec 12) (s : State) :=
  tileChk (infoSysrd q d n) (sysChk s n false) s fun t =>
    if otherVf t n then .error (privileged t n.toNat)
    else let x := sysRead t n.toNat
      .ok (push t 2 (.s d x.v) (x.l ||| t.core.cl))

/-- The bytes of the cache portion for CP_CSZ = sz start here (R189). -/
def cacheFrom (sz : Nat) : Nat := 0x200000 - sz * 65536

/-- The compute die a router stands on, by its local number (R315). -/
def routerDie (loc : Nat) : Option Nat := if loc < 64 then some (loc / 16) else if loc < 68 then some (loc - 64) else none

/-- Is a live tree staged on this die (R355)? -/
def ringBusy (s : State) : Bool :=
  s.trees.any (fun t => t.2.slots.any (fun e => e.1 / 128 == s.dev.pod.toNat && routerDie (e.1 % 128) == some (dieNo s))
    && readPa s ((partAt s (t.1 / 2 ^ 20)).ttb.toNat + 256 * (t.1 % 2 ^ 20) + 4) 1 == 2)

/-- Is a block of this core running (R282), or a task on its engine (R297)? The array runs on in the cycles of a freeze, or
the hold that waits for it could not end (DEDUCED, log 27). -/
def engineBusy (s : State) : Bool :=
  decide (s.core.tick + s.core.frozen < s.core.blockEnd)
    || ((lookup s.quadRun (s.coreNo / 4)).getD []).any (fun t => t.eng.getLsbD (s.coreNo % 4))

/-- What a write asks for before it takes effect (R194, R297, R355). No virtual address belongs to the stash map fault of
CP_CSZ: its TR_ADDR is 0 (DESIGN CHOICE, log 24). -/
def sysHold (s : State) (n : Nat) (v : Word) : Option Stop :=
  match n with
  | 0x101 =>
    if 8 < v.toNat % 16 ∨ (validMaps s.core).any (fun e => decide (cacheFrom (v.toNat % 16) < e.so + e.len)) then some (.trap 0xE 6 0)
    else none
  | 0x003 =>
    let vf := v.toNat % 512
    if 384 ≤ vf ∨ (vfAt s vf).part ≠ some s.core.cont.part then some (privileged s n)
    else if engineBusy s then some .hold else none
  | 0x202 => if ringBusy s then some .hold else none
  | _ => none

/-- syswr takes effect at tick 1 (R132); the value written to FP_VCFG or FP_MODE joins CL (R466). -/
def execSyswr (q : BitVec 4) (a : BitVec 5) (n : BitVec 12) (s : State) :=
  tileChk (infoSyswr q a n) (sysChk s n true) s fun t =>
    if otherVf t n then .error (privileged t n.toNat)
    else
      let x := t.core.rdS a
      match sysHold t n.toNat x.v with
      | some e => .error e
      | none =>
        let t1 := if n = 0x800 ∨ n = 0x804 then { t with core := t.core.joinCl x.l } else t
        .ok (push t1 1 (.sysw n x.v) (x.l ||| t1.core.cl))

/-! ## rfe, quad-lock, arrivals -/

/-- The status of rfe on the record at a physical address, and the state after it (R127). -/
def rfeAt (s : State) (pa : Nat) : State × Nat :=
  let r := readRecord s pa
  let prv := bits (rf r 0xA 1) 5 4
  if recSt r ≠ 4 then (s, 3)
  else if s.core.cont.prv = 1 ∧ (1 ≤ prv ∨ bits (rf r 0x1B 2) 12 9 ≠ s.core.cont.part) then (s, 3)
  else returnRecord s pa r

def execRfe (q a : BitVec 4) (d l : BitVec 5) (s : State) :=
  tile (infoRfe q a d l) true s fun t =>
    let va := (t.core.rdA a).v.toNat
    if va % 64 ≠ 0 then .error (accStop t .mis va 64 false true)
    else match translateMark t va t.core.who.vf t.core.who.part t.core.who.prv 64 .rmw with
      | .error e => .error (accStop t (.xlat e) va 64 false true)
      | .ok (t1, x) =>
        if landsOut t1.core ≥ 32 then .error .hold
        else if ¬isMem x.pa then .error (accStop t (.xlat (permFault x.lvl 11)) va 64 false true)
        else unhurt t1 [(x.pa, 64)] <|
          let (t2, st) := rfeAt t1 x.pa
          .ok (pushLand t2 (l.toNat + 4) (.s d (BitVec.ofNat 64 st)) (readLabel t2.core (infoRfe q a d l).rd) 0 d [va])

/-- The context labels of the other cores of the quad (R466). -/
def othersCl (s : State) : Label :=
  orAll (((quadCores s.coreNo).filter (· != s.coreNo)).map (fun n => (coreAt s n).cl))

/-- qlock (R128): busy beside another VF; at once when locked; else held until the whole quad holds one. A core that
is still locked after another of its quad retired answers 0 also beside a record of another VF (DESIGN CHOICE, log 23). -/
def execQlock (q : BitVec 4) (d : BitVec 5) (s : State) :=
  tile (infoQlock q d) true s fun t =>
    let rest := (quadCores t.coreNo).filter (· != t.coreNo)
    let t1 := { t with core := t.core.joinCl (othersCl t) }
    let answer (t : State) (x : Word) : State := push t 1 (.s d x) t.core.cl
    if t.core.locked then .ok (answer t1 0)
    else if rest.any (fun n => (coreAt t n).run.isSome && (coreAt t n).cont.vf != t.core.cont.vf) then .ok (answer t1 3)
    else if rest.all (fun n => (coreAt t n).wantsLock) then
      .ok (answer ((quadCores t1.coreNo).foldl (fun u n => updCore u n (fun c => { c with locked := true, wantsLock := false })) t1) 0)
    else .error .lock

/-- qfree splits the domain after the tick of its group (R128). -/
def execQfree (q : BitVec 4) (s : State) := tile (infoQfree q) true s fun t => .ok (if t.core.locked then push t 1 .unlock 0 else t)

/-- The slot an arv names (R120). -/
def arvCls : BitVec 3 → Option Cls
  | 0 => some .a | 1 => some .b | 2 => some .v | 3 => some .x | 4 => some .e | _ => none

def slotWord (s : State) (k : Cls) : Option Info := s.core.grp.members.find? (fun i => i.cls == k)

/-- A register whose results a retirement discards (R125): what binit, bwait and cp.tclr change is no result in flight. -/
def RegName.isReg : RegName → Bool
  | .b _ => false
  | .tags => false
  | .bt _ => false
  | _ => true

/-- arv: one arrival when the named word of the group retires (R120). -/
def execArv (q : BitVec 4) (l : BitVec 3) (r : BitVec 1) (c : BitVec 2) (n : BitVec 4) (s : State) :=
  tile (infoArv q l r c n)
    (decide (l < 6) && (r == 1 || c == 0)) s fun t =>
    let a : Arrival := ⟨false, r == 1, c, n, t.core.cont.vf⟩
    let l0 := t.core.cl
    match arvCls l with
    | none => .ok (push t 1 (.arrive a) l0)
    | some k => match slotWord t k with
      -- a slot whose word decodes to nothing is not empty: its own trap ends the group (R35)
      | none => if t.core.grp.slots.contains k then .ok t else .error (illegal t)
      | some i =>
        if ¬predOn t.core i then .ok t
        else match i.ret with
          | .after m => .ok (push t m (.arrive { a with res := i.wr.any RegName.isReg }) l0)
          | .result m => .ok (push t m (.arrive { a with res := true }) l0)
          | .land m => .ok (push t (m.toNat + 4) (.arrive { a with res := true }) l0)
          | .store m => .ok (push t m (.arrive a) l0)
          | .issue => .ok (push t 1 (.arrive a) l0)
          | .cmd => .ok { t with core := { t.core with grp := { t.core.grp with eArr := t.core.grp.eArr ++ [a] } } }
          | .load => .ok { t with core := { t.core with grp := { t.core.grp with xArr := t.core.grp.xArr ++ [a] } } }

end Sys2Proof.Machine
end

