-- ==== Sys2Proof/Machine/CopyEngine.lean ====
section
/-! DEFINITION. The copy engine: words of major 0x19 (R196 to R222), each tagged command's issue and its run. -/
namespace Sys2Proof.Machine

/-! ## Copying with conversion (R204 to R209) -/

/-- Fields of the copy control word (R204). -/
def cpG (x : Nat) : Nat := bits x 11 6
def cpDa (x : Nat) : Nat := bits x 15 12
def cpNd (x : Nat) : Nat := bits x 18 16
def cpSf (x : Nat) : Nat := bits x 22 19
def cpDf (x : Nat) : Nat := bits x 26 23
def cpRm (x : Nat) : Nat := bits x 29 27
def cpCr (x : Nat) : Bool := bit x 30
def cpBa (x : Nat) : Nat := bits x 34 31
def cpSa (x : Nat) : Nat := bits x 38 35
def cpScf (x : Nat) : Bool := bit x 39
def cpDs (x : Nat) : Bool := bit x 40

/-- Registers the word names: DA, the geometry, BA and SA where they are used (R199). -/
def copyNames (x : Nat) (scales : Bool) : List RegName :=
  namedA (cpDa x) :: namedG (cpG x) (3 * cpNd x - 2)
  ++ (if cpCr x then [namedA (cpBa x)] else []) ++ (if scales then [namedA (cpSa x)] else [])

/-- Counts and strides of an operand pair (R205). -/
structure Geo where
  n : List Nat
  ss : List Int
  ds : List Int
  deriving DecidableEq, Repr

def geoOf (nd : Nat) (g : List Word) : Geo :=
  { n := (List.range nd).map (fun l => (g.getD l 0).toNat % 2 ^ 32),
    ss := (List.range (nd - 1)).map (fun l => (g.getD (nd + 2 * l) 0).toInt),
    ds := (List.range (nd - 1)).map (fun l => (g.getD (nd + 2 * l + 1) 0).toInt) }

/-- The number of rows (dimensions 1 and up), and the offset of row r under strides. -/
def Geo.rows (g : Geo) : Nat := g.n.tail.foldl (· * ·) 1
def rowOff : List Nat → List Int → Nat → Int
  | n :: ns, st :: sts, r => (r % max 1 n : Nat) * st + rowOff ns sts (r / max 1 n)
  | _, _, _ => 0
def Geo.n0 (g : Geo) : Nat := g.n.headD 0
/-- The lowest and the highest offset of a row's start. -/
def spanOff : List Nat → List Int → Int × Int
  | n :: ns, st :: sts =>
    let (lo, hi) := spanOff ns sts
    let d := ((n : Int) - 1) * st
    (lo + min 0 d, hi + max 0 d)
  | _, _ => (0, 0)

/-- The bounding range of an operand: lowest byte and one past the highest (R205). -/
def bounding (base : Nat) (g : Geo) (st : List Int) (w : Nat) : Int × Int :=
  let (lo, hi) := spanOff g.n.tail st
  ((base : Int) + lo, (base : Int) + hi + ((g.n0 * w + 7) / 8 : Nat))

/-- Operand alias (R205): the lowest common byte of two ranges, whose addresses are modulo 2^72. -/
def aliasStop (a b : Int × Int) : Option Stop :=
  let lo (x : Int) : Int := ((wrap 72 x : Nat) : Int)
  let common : List Nat := [-(2 ^ 72 : Int), 0, 2 ^ 72].filterMap (fun k =>
    let l := lo b.1 + k
    let m := max (lo a.1) l
    if lo a.1 < l + (b.2 - b.1) ∧ l < lo a.1 + (a.2 - a.1) then
      some (if m ≤ 2 ^ 72 ∧ (2 ^ 72 : Int) < min (lo a.1 + (a.2 - a.1)) (l + (b.2 - b.1)) then 0 else wrap 72 m)
    else none)
  match common with
  | [] => none
  | x :: xs => some (.trap 0x10 0 (xs.foldl min x))

/-- The pair of formats and the unused fields (R204, R206). -/
def copyBad (kind : CmdKind) (x : Nat) : Bool :=
  let sf := cpSf x
  let df := cpDf x
  let wide (f : Nat) : Bool := decide (f ≤ 2)
  let narrow (f : Nat) : Bool := decide (3 ≤ f) && decide (f ≤ 5)
  x >>> 41 != 0 || sf == 7 || df == 7 || cpRm x == 5 || cpRm x == 7 || cpNd x == 0 || cpNd x == 7 || (!cpCr x && cpBa x != 0)
  || (match kind with
    | .ldt => !narrow sf || !wide df || cpDs x || cpRm x != 0
    | .stt => !wide sf || !narrow df || (cpDs x && !cpScf x)
    | _ => cpScf x || cpSa x != 0 || cpDs x || (sf == 6 && isInt df) || (df == 6 && isInt sf))

def elSize (f : Nat) : Nat := max 1 (fmtWidth f / 8)

/-- The issue checks of the copy commands, in the order of R203's reasons, then operand alias (R205, R207). -/
def copyCheck (t : State) (kind : CmdKind) (aa : Addr) (x : Nat) : Except Stop Geo :=
  let tag := x % 64
  let regs := 3 * cpNd x - 2
  if copyBad kind x then .error (copyStop t 0 tag)
  else if 64 < cpG x + regs then .error (copyStop t 1 tag)
  else
    let gs := (List.range regs).map (fun j => ctlG t.core (cpG x + j))
    let g := geoOf (cpNd x) gs
    let es := elSize (cpSf x)
    let ed := elSize (cpDf x)
    let da := (ctlA t.core (cpDa x)).toNat
    let sa := (ctlA t.core (cpSa x)).toNat
    let ssz := if cpScf x then 1 else 4
    let scl := kind != .copy
    if (gs.take (cpNd x)).any (fun w => w.toNat >>> 32 != 0) then .error (copyStop t 0 tag)
    else if (fmtWidth (cpSf x) = 4 ∨ fmtWidth (cpDf x) = 4) ∧ g.n0 % 2 = 1 then .error (copyStop t 1 tag)
    else if aa.toNat % es ≠ 0 ∨ da % ed ≠ 0 ∨ g.ss.any (fun k => k % es != 0) ∨ g.ds.any (fun k => k % ed != 0) ∨ (scl ∧ sa % ssz ≠ 0)
        ∨ (cpCr x ∧ (ctlA t.core (cpBa x)).toNat % 16 ≠ 0) then
      .error (copyStop t 2 tag)
    else if g.n.any (· == 0) then .ok g
    else
      let rs := bounding aa.toNat g g.ss (fmtWidth (cpSf x))
      let rd := bounding da g g.ds (fmtWidth (cpDf x))
      let ra : Int × Int := ((sa : Int), (sa : Int) + (g.rows * divUp g.n0 128 * ssz : Nat))
      match (aliasStop rs rd).orElse (fun _ => if scl then (aliasStop ra rs).orElse (fun _ => aliasStop ra rd) else none) with
      | some e => .error e
      | none => .ok g

/-- Issue cp.copy, cp.ldt or cp.stt. A `.dyn` rounding mode is resolved now (R71). -/
def issueCopy (i0 : Info) (kind : CmdKind) (rl : BitVec 1) (sc : BitVec 3) (aa : BitVec 4) (sb : BitVec 5) (s : State) :
    Host.Outcome State Fault Refusal :=
  let x := (s.core.rdS sb).v.toNat
  let i := i0.naming (copyNames x (kind != .copy))
  tile i true s fun t =>
    match copyCheck t kind (t.core.rdA aa).v x with
    | .error e => .error e
    | .ok _ =>
      let c := mkCmd t i kind (x % 64) (t.core.rdA aa).v (t.core.rdS sb).v rl sc
      issueCmd (releaseFor t rl (if cpCr x then [ctlA t.core (cpBa x)] else [])) { c with
        da := ctlA t.core (cpDa x), xa := ctlA t.core (cpSa x), ba := ctlA t.core (cpBa x),
        geo := (List.range (3 * cpNd x - 2)).map (fun j => ctlG t.core (cpG x + j))
          ++ [BitVec.ofNat 64 (rmOf (cpRm x) (t.core.fpMode.toNat % 8) false)] }

def execCpCopy (q : BitVec 4) (ac rl : BitVec 1) (sc : BitVec 3) (aa : BitVec 4) (sb : BitVec 5) (s : State) :=
  issueCopy (infoCpCopy q ac rl sc aa sb) .copy rl sc aa sb s
def execCpLdt (q : BitVec 4) (ac rl : BitVec 1) (sc : BitVec 3) (aa : BitVec 4) (sb : BitVec 5) (s : State) :=
  issueCopy (infoCpLdt q ac rl sc aa sb) .ldt rl sc aa sb s
def execCpStt (q : BitVec 4) (ac rl : BitVec 1) (sc : BitVec 3) (aa : BitVec 4) (sb : BitVec 5) (s : State) :=
  issueCopy (infoCpStt q ac rl sc aa sb) .stt rl sc aa sb s

/-- Read element j of a row at va, w bits wide (R63, R205). -/
def elRd (s : State) (c : Cmd) (va w j : Nat) : Except CFail (State × Nat × Label) :=
  match cmdRd s c.who ((va + j * w / 8) % 2 ^ 72) (max 1 (w / 8)) with
  | .error e => .error e
  | .ok (s1, v, l) => .ok (s1, if w = 4 then elem v 4 (j % 2) else v, l)

/-- Write element j of a row; a 4-bit element replaces its nibble. -/
def elWr (s : State) (c : Cmd) (va w j v : Nat) (l : Label) : Except CFail State :=
  let a := (va + j * w / 8) % 2 ^ 72
  if w = 4 then
    match cmdRd s c.who a 1 .write with
    | .error e => .error e
    | .ok (s1, o, _) => cmdWr s1 c.who a 1 (if j % 2 = 0 then o / 16 * 16 + v else o % 16 + 16 * v) l
  else cmdWr s c.who a (w / 8) v l

/-- The command's rounding mode as resolved at issue. -/
def Cmd.rm (c : Cmd) : Nat := (c.geo.getLastD 0).toNat
def Cmd.geom (c : Cmd) : Geo := geoOf (cpNd c.ctl.toNat) c.geo

def rowSrc (c : Cmd) (r : Nat) : Nat := wrap 72 (c.aa.toNat + rowOff c.geom.n.tail c.geom.ss r)
def rowDst (c : Cmd) (r : Nat) : Nat := wrap 72 (c.da.toNat + rowOff c.geom.n.tail c.geom.ds r)

/-- Element e of cp.copy: unchanged bits in one format, else converted (R206). -/
def copyEl (c : Cmd) (e : Nat) (s : State) : Except CFail State :=
  let x := c.ctl.toNat
  let n0 := max 1 c.geom.n0
  match elRd s c (rowSrc c (e / n0)) (fmtWidth (cpSf x)) (e % n0) with
  | .error f => .error f
  | .ok (s1, v, l) =>
    elWr s1 c (rowDst c (e / n0)) (fmtWidth (cpDf x)) (e % n0)
      (if cpSf x = cpDf x then v else (convert false (cpSf x) (cpDf x) v c.rm 0).1) (l ||| c.lab)

/-- The magnitude of a value as a rational; none for NaN and infinities. -/
def magOf : Fv → Option (Nat × Nat)
  | .fin _ n d => some (n, d)
  | _ => none

/-- The derived scale of a slice (R87). -/
def deriveScale (df : Nat) (vs : List Fv) : Nat :=
  match vs.foldl (fun acc v => match acc, magOf v with
      | some (n, d), some (m, e) => some (if n * e < m * d then (m, e) else (n, d))
      | _, _ => none) (some (0, 1)) with
  | none => 255
  | some (n, d) =>
    if n = 0 then 0
    else
      let emax : Int := match df with
        | 3 => 8
        | 4 => 15
        | _ => 2
      (clamp (-127) 127 (floorLog2 n d - emax) + 127).toNat

def readEls (c : Cmd) (va w : Nat) : List Nat → State → Except CFail (State × List (Nat × Label))
  | [], s => .ok (s, [])
  | j :: js, s =>
    match elRd s c va w j with
    | .error e => .error e
    | .ok (s1, v, l) => match readEls c va w js s1 with
      | .error e => .error e
      | .ok (s2, vs) => .ok (s2, (v, l) :: vs)

def writeEls (c : Cmd) (va w : Nat) : List (Nat × Nat × Label) → State → Except CFail State
  | [], s => .ok s
  | (j, v, l) :: r, s =>
    match elWr s c va w j v l with
    | .error e => .error e
    | .ok s1 => writeEls c va w r s1

/-- Slice k of row r of cp.ldt or cp.stt (R86, R87, R206 to R208). -/
def scaledSlice (c : Cmd) (e : Nat) (s : State) : Except CFail State :=
  let x := c.ctl.toNat
  let slices := max 1 (divUp c.geom.n0 128)
  let r := e / slices
  let k := e % slices
  let js := (List.range (min 128 (c.geom.n0 - 128 * k))).map (· + 128 * k)
  let sa := (c.xa.toNat + e * (if cpScf x then 1 else 4)) % 2 ^ 72
  match readEls c (rowSrc c r) (fmtWidth (cpSf x)) js s with
  | .error f => .error f
  | .ok (s1, els) =>
    let vs := els.map (fun p => decodeEl (cpSf x) p.1)
    let sl := orAll (els.map (·.2)) ||| c.lab
    match (if cpDs x then
        (cmdWr s1 c.who sa 1 (deriveScale (cpDf x) vs) sl).map (fun s2 => (s2, deriveScale (cpDf x) vs, sl))
      else cmdRd s1 c.who sa (if cpScf x then 1 else 4)) with
    | .error f => .error f
    | .ok (s2, sv, l2) =>
      let sc := decodeEl (if cpScf x then 6 else 0) sv
      let zero := cpDs x && sv == 0 && vs.all Fv.isZero
      let out (v : Fv) : Nat :=
        if zero then signAt (fmtOf (cpDf x)) v.sign
        else if c.kind = .ldt then (roundTo false (cpDf x) (v.mul sc).1 0 0).1
        else (roundTo false (cpDf x) (v.div sc) c.rm 0).1
      writeEls c (rowDst c r) (fmtWidth (cpDf x))
        ((js.zip (els.zip vs)).map (fun p => (p.1, out p.2.2, p.2.1.2 ||| l2 ||| c.lab))) s2

/-- Run a copy command to its end. -/
def runCopy (s : State) (c : Cmd) : Ending :=
  let x := c.ctl.toNat
  let g := c.geom
  if g.n.any (· == 0) then ⟨s, c, none, none⟩
  else
    let (s1, f) := if c.kind = .copy then workGo (copyEl c) (g.rows * g.n0) 0 s
      else workGo (scaledSlice c) (g.rows * divUp g.n0 128) 0 s
    ⟨s1, c, if cpCr x then some (g.rows * g.n0 * fmtWidth (cpDf x) / 8) else none, f⟩

/-! ## Windows (R196, R197) -/

/-- The first failing case of cp.map, in the order of R196's table. A window that passes 2^72 is no case of it, and its addresses do not
wrap (R190 is silent; DESIGN CHOICE, log 24). -/
def mapReason (c : Core) (vb x : Nat) : Option Nat :=
  let lenl := bits x 32 18
  let so := 128 * bits x 17 4
  let len := 128 * lenl
  let others := validMaps c
  if x >>> 33 ≠ 0 ∨ lenl = 0 ∨ 16384 < lenl ∨ vb % 128 ≠ 0 ∨ 0x200000 < so + len ∨ 0x200000 - c.csz.toNat * 65536 < so + len then some 3
  else if (c.maps.toList.getD (x % 16) none).any (·.v) then some 0
  else if others.any (fun e => meets so len e.so e.len) then some 1
  else if others.any (fun e => meets vb len e.vbase.toNat e.len) then some 2
  else none

/-- cp.map opens a window (R196). TR_INFO bits 7:4 hold the entry that reasons 0 to 2 speak of, and 0 for the reasons 3 to 6 of
a stash map fault; R197 names no case for the one or the other (DESIGN CHOICE, log 24). -/
def execCpMap (q aa : BitVec 4) (sb : BitVec 5) (s : State) :=
  tile (infoCpMap q aa sb) true s fun t =>
    let vb := (t.core.rdA aa).v
    let x := (t.core.rdS sb).v.toNat
    match mapReason t.core vb.toNat x with
    | some r => .error (.trap 0xE (r + (if r = 3 then 0 else x % 16 * 16)) vb.toNat)
    | none => .ok (push t 1 (.map (BitVec.ofNat 4 (x % 16)) vb (128 * bits x 32 18) (128 * bits x 17 4)) 0)

/-- Close a window at once: its accesses stop going to the stash (R197). -/
def closeMap (c : Core) (n : Nat) : Core :=
  { c with maps := c.maps.setIfInBounds n ((c.maps.toList.getD n none).map (fun e => { e with closing := true })) }

def execCpUnmap (q : BitVec 4) (rl : BitVec 1) (sc : BitVec 3) (sb : BitVec 5) (s : State) :=
  let i := infoCpUnmap q rl sc sb
  tile i true s fun t =>
    let x := (t.core.rdS sb).v.toNat
    if x >>> 10 ≠ 0 then .error (copyStop t 0 (x % 64))
    else match issueCmd t (mkCmd t i .unmap (x % 64) 0 (t.core.rdS sb).v rl sc) with
      | .ok t1 => .ok { t1 with core := closeMap t1.core (bits x 9 6) }
      | .error e => .error e

/-- The window's lines leave the stash, written back, and V clears (R197); an entry that the command did not find open is
left as it is. -/
def runUnmap (s : State) (c : Cmd) : Ending :=
  let n := bits c.ctl.toNat 9 6
  match s.core.maps.toList.getD n none with
  | some e =>
    if ¬e.closing ∨ ¬e.v then ⟨s, c, none, none⟩
    else
      let s1 := dropLines s (fun l => decide (e.so ≤ 128 * l.1) && decide (128 * l.1 < e.so + e.len))
      ⟨{ s1 with core := { s1.core with maps := s1.core.maps.setIfInBounds n (some { e with v := false }) } }, c, none, none⟩
  | none => ⟨s, c, none, none⟩

/-! ## Range commands (R212) -/

def issueRange (i : Info) (kind : CmdKind) (rl : BitVec 1) (sc : BitVec 3) (aa : BitVec 4) (sb : BitVec 5) (s : State) :
    Host.Outcome State Fault Refusal :=
  tile i true s fun t =>
    let x := (t.core.rdS sb).v.toNat
    let va := (t.core.rdA aa).v
    if bits x 15 6 ≠ 0 then .error (copyStop t 0 (x % 64))
    else if va.toNat % 128 ≠ 0 ∨ (x >>> 16) % 128 ≠ 0 ∨ x >>> 16 < 128 then .error (copyStop t 2 (x % 64))
    else issueCmd t (mkCmd t i kind (x % 64) va (t.core.rdS sb).v rl sc)

def execCpFill (q : BitVec 4) (ac : BitVec 1) (sc : BitVec 3) (aa : BitVec 4) (sb : BitVec 5) (s : State) :=
  issueRange (infoCpFill q ac sc aa sb) .fill 0 sc aa sb s
def execCpFlush (q : BitVec 4) (ac rl : BitVec 1) (sc : BitVec 3) (aa : BitVec 4) (sb : BitVec 5) (s : State) :=
  issueRange (infoCpFlush q ac rl sc aa sb) .flush rl sc aa sb s
def execCpInval (q : BitVec 4) (ac rl : BitVec 1) (sc : BitVec 3) (aa : BitVec 4) (sb : BitVec 5) (s : State) :=
  issueRange (infoCpInval q ac rl sc aa sb) .inval rl sc aa sb s

/-- cp.fill fills the NP lines of its range's windows as reads do (R192). -/
def fillLines (s : State) (c : Cmd) : State × Option CFail :=
  let lo := c.aa.toNat
  let len := c.ctl.toNat >>> 16
  let vas := s.core.maps.toList.flatMap (fun o => match o with
    | some e => ((List.range (e.len / 128)).filter (fun j => !e.closing && decide (lo ≤ e.vbase.toNat + 128 * j)
        && decide (e.vbase.toNat + 128 * j < lo + len) && (lookup s.core.stash (e.so / 128 + j)).isNone)).map (fun j => e.vbase.toNat + 128 * j)
    | none => [])
  workGo (fun j t => match cmdRd t c.who (vas.getD j 0) 128 with
    | .ok (t1, _, _) => .ok t1
    | .error e => .error e) vas.length 0 s

def runRange (s : State) (c : Cmd) : Ending :=
  let lo := c.aa.toNat
  let len := c.ctl.toNat >>> 16
  match c.kind with
  | .fill => let (s1, f) := fillLines s c
    ⟨s1, c, none, f⟩
  | .flush => ⟨cleanLines s (lineIn s c.who lo len), c, none, none⟩
  | _ => ⟨dropLines s (lineIn s c.who lo len), c, none, none⟩

/-! ## Barriers and tags (R211, R222) -/

/-- cp.bcnt writes a barrier (R211), with REL = 1 after a release of the object (R183). Reserved bits are the last cause that is
looked for, since the others have lower codes (R35). Its copy fault has TAG 0, as the word has no tag (R211; DESIGN CHOICE, log 24). -/
def execCpBcnt (q : BitVec 4) (rl : BitVec 1) (sc : BitVec 3) (aa : BitVec 4) (sb : BitVec 5) (s : State) :=
  let i := infoCpBcnt q rl sc aa sb
  tile i true s fun t =>
    let x := (t.core.rdS sb).v.toNat
    let va := (t.core.rdA aa).v.toNat
    if va % 16 ≠ 0 then .error (accStop t .mis va 16 true false)
    else
      let t0 := if rl = 1 then releaseLines t (t.core.rdA aa).v else t
      match writeVa t0 t.core.who va 16 (bits x 32 32 + ((x % 2 ^ 32) <<< 64)) (readLabel t.core i.rd) 0 with
      | .error e => .error (accStop t e va 16 true false)
      | .ok t1 => if x >>> 33 ≠ 0 then .error (copyStop t 0 0) else .ok t1

/-- cp.tclr clears TAGS and CP_TERR at tick 1, busy tags excepted (R222). -/
def execCpTclr (q : BitVec 4) (sb : BitVec 5) (s : State) :=
  let i := infoCpTclr q sb
  tile i true s fun t =>
    let m := (t.core.rdS sb).v &&& ~~~t.core.ctx.busy
    .ok (push (push t 1 (.tagsClr t.core.cur m) (readLabel t.core i.rd)) 1 (.sysw 0x102 m) (readLabel t.core i.rd))

/-! ## Weight-buffer fill (R213, R214, R275 to R277) -/

def wfOff (x : Nat) : Nat := bits x 34 23
def wfBa (x : Nat) : Nat := bits x 22 19
def wfCr (x : Nat) : Bool := bit x 18
def wfSf (x : Nat) : Nat := bits x 17 14
def wfCb (x : Nat) : Bool := bit x 13
def wfEnc (x : Nat) : Bool := bit x 12
def wfG (x : Nat) : Nat := bits x 11 6

/-- Units of an encoded tile (R275). -/
def encUnits (w : Nat) (cb : Bool) : Nat := if cb then 49 else if w = 4 then 48 else if w = 8 then 80 else 144

/-- The bytes a wfill writes (B of R214). -/
def wfBytes (x : Nat) (g0 : Word) : Nat :=
  if wfEnc x then 128 * encUnits (fmtWidth (wfSf x)) (wfCb x) * (g0.toNat % 2 ^ 32) else g0.toNat

/-- What a cp.wfill finds at issue (R214): a pooled format, then reasons 0, 1, 2 and 8, an order that R214 does not give (DESIGN CHOICE,
log 24). -/
def wfCheck (t : State) (aa : Addr) (x : Nat) : Option Stop :=
  let tag := x % 64
  let sf := wfSf x
  let g0 := ctlG t.core (wfG x)
  if bit t.core.mxPool.toNat 15 then some (copyStop t 8 tag)
  else if x >>> 35 ≠ 0 ∨ (¬wfCr x ∧ wfBa x ≠ 0) ∨ (¬wfEnc x ∧ (sf ≠ 0 ∨ wfCb x)) ∨ (wfEnc x ∧ (sf = 0 ∨ 5 < sf))
      ∨ (wfCb x ∧ ¬(sf = 3 ∨ sf = 4)) then some (copyStop t 0 tag)
  else if 64 < wfG x + (if wfEnc x then 2 else 1) ∨ (wfEnc x ∧ g0.toNat % 2 ^ 32 = 0) then some (copyStop t 1 tag)
  else if aa.toNat % 128 ≠ 0 ∨ (wfEnc x ∧ (ctlG t.core (wfG x + 1)).toNat % 128 ≠ 0) ∨ (¬wfEnc x ∧ g0.toNat % 128 ≠ 0)
      ∨ (wfCr x ∧ (ctlA t.core (wfBa x)).toNat % 16 ≠ 0) then some (copyStop t 2 tag)
  else if 0x80000 < 128 * wfOff x + wfBytes x g0 then some (copyStop t 8 tag)
  else none

def wfNames (x : Nat) : List RegName := namedG (wfG x) (if wfEnc x then 2 else 1) ++ (if wfCr x then [namedA (wfBa x)] else [])

def execCpWfill (q : BitVec 4) (ac : BitVec 1) (sc : BitVec 3) (aa : BitVec 4) (sb : BitVec 5) (s : State) :=
  let x := (s.core.rdS sb).v.toNat
  let i := (infoCpWfill q ac sc aa sb).naming (wfNames x)
  tile i true s fun t =>
    match wfCheck t (t.core.rdA aa).v x with
    | some e => .error e
    | none =>
      let c := mkCmd t i .wfill (x % 64) (t.core.rdA aa).v (t.core.rdS sb).v 0 sc
      match issueCmd t { c with ba := ctlA t.core (wfBa x), geo := [ctlG t.core (wfG x), ctlG t.core (wfG x + 1)] } with
      | .ok t1 => .ok { t1 with core := { t1.core with mxPin := true } }
      | .error e => .error e

/-- Write a weight-buffer unit; a zero unit with the empty label lists nothing. -/
def setUnit (c : Core) (u : Nat) (x : Nat) (l : Label) : Core :=
  { c with wbuf := if x % 2 ^ 1024 = 0 ∧ l = 0 then eraseKey u c.wbuf else insertKey u ⟨BitVec.ofNat 1024 x, l⟩ c.wbuf }
def unitAt (c : Core) (u : Nat) : Lv 1024 := (lookup c.wbuf u).getD ⟨0, 0⟩

/-- Row k of a dense tile at va: its bits, and the labels of its first and second line. -/
def tileRow (c : Cmd) (va bytes : Nat) (s : State) : Except CFail (State × Nat × Label × Label) :=
  if bytes ≤ 128 then
    match cmdRd s c.who va bytes with
    | .error e => .error e
    | .ok (s1, v, l) => .ok (s1, v, l, l)
  else
    match cmdRd s c.who va 128 with
    | .error e => .error e
    | .ok (s1, v, l) => match cmdRd s1 c.who ((va + 128) % 2 ^ 72) (bytes - 128) with
      | .error e => .error e
      | .ok (s2, v2, l2) => .ok (s2, v + (v2 <<< 1024), l, l2)

/-- Rows of a tile at base + kP (R214). The pitch P is a signed 64-bit number; the spec does not say whether it is signed
(DESIGN CHOICE, log 24). -/
def tileRows (c : Cmd) (base pitch bytes : Nat) : List Nat → State → Except CFail (State × List Nat × Label × Label)
  | [], s => .ok (s, [], 0, 0)
  | k :: ks, s =>
    match tileRow c (wrap 72 ((base : Int) + (k : Int) * (sgn 64 pitch))) bytes s with
    | .error e => .error e
    | .ok (s1, v, l, h) => match tileRows c base pitch bytes ks s1 with
      | .error e => .error e
      | .ok (s2, vs, l2, h2) => .ok (s2, v :: vs, l ||| l2, h ||| h2)

/-- Present elements (k, value) of column n: the non-zero ones, ±0 excluded (R277). -/
def present (rows : List Nat) (w n : Nat) : List (Nat × Nat) :=
  (List.zipIdx rows).filterMap (fun r => let v := elem r.1 w n
    if v % 2 ^ (w - 1) = 0 then none else some (r.2, v))

/-- The 2:4 mask of a column, its value slots, and whether a group holds more than two (R276). -/
def colMask (p : List (Nat × Nat)) : Nat := p.foldl (fun acc e => acc ||| 1 <<< e.1) 0
def colSlots (p : List (Nat × Nat)) (val : Nat → Nat) : List Nat :=
  (List.range 32).flatMap (fun g => let q := p.filter (fun e => e.1 / 4 == g)
    [((q[0]?).map (fun e => val e.2)).getD 0, ((q[1]?).map (fun e => val e.2)).getD 0])
def colBad (p : List (Nat × Nat)) : Bool := (List.range 32).any (fun g => decide (2 < (p.filter (fun e => e.1 / 4 == g)).length))

/-- Sorted distinct values. -/
def insertVal (v : Nat) : List Nat → List Nat
  | [] => [v]
  | x :: xs => if v < x then v :: x :: xs else if v = x then x :: xs else x :: insertVal v xs

/-- The units of an encoded tile with the columns that each was formed from (0 first half, 1 second half, 2 both). -/
def encodeTile (w : Nat) (cb : Bool) (rows : List Nat) : Except Nat (List (Nat × Nat)) :=
  let cols := (List.range 128).map (present rows w)
  if cols.any colBad then .error 10
  else
    let book := if cb then cols.foldl (fun acc p => p.foldl (fun a e => insertVal e.2 a) acc) [] else []
    if 16 < book.length then .error 11
    else
      let half (n : Nat) : Nat := if n < 64 then 0 else 1
      let mask := (List.range 16).map (fun u => (packL 128 ((List.range 8).map (fun j => colMask (cols.getD (8 * u + j) []))), half (8 * u)))
      let sw := if cb then 4 else w
      let per := 1024 / (64 * sw)
      let code (v : Nat) : Nat := if cb then (book.findIdx? (· == v)).getD 0 else v
      let vals := (List.range (128 / per)).map (fun u =>
        (packL (64 * sw) ((List.range per).map (fun j => packL sw (colSlots (cols.getD (per * u + j) []) code))), half (per * u)))
      .ok ((if cb then [(packL 8 book, 2)] else []) ++ mask ++ vals)

/-- Encode tile t and write its units (R214, R277); a tile that cannot be encoded leaves the others. Reasons 10 and 11, where no access
failed, record the tile's base address (DESIGN CHOICE, log 24). -/
def wfTile (c : Cmd) (t : Nat) (s : State) : Except CFail (State × Option CFail) :=
  let x := c.ctl.toNat
  let w := fmtWidth (wfSf x)
  let base := (c.aa.toNat + w * 128 * t / 8) % 2 ^ 72
  match tileRows c base (c.geo.getD 1 0).toNat (16 * w) (List.range 128) s with
  | .error e => .error e
  | .ok (s1, rows, lo, hi) =>
    match encodeTile w (wfCb x) rows with
    | .error r => .ok (s1, some (CFail.of r 0 0 base))
    | .ok us =>
      let u0 := wfOff x + t * encUnits w (wfCb x)
      .ok ({ s1 with core := (List.zipIdx us).foldl (fun k e =>
        setUnit k (u0 + e.2) e.1.1 ((if e.1.2 = 0 then lo else if e.1.2 = 1 then hi else lo ||| hi) ||| c.lab)) s1.core }, none)

def wfTiles (c : Cmd) : Nat → Nat → State × Option CFail → State × Option CFail
  | 0, _, r => r
  | n + 1, t, (s, f) =>
    match wfTile c t s with
    | .error e => (e.base.getD s, f.orElse (fun _ => some e))
    | .ok (s1, g) => wfTiles c n (t + 1) (s1, f.orElse (fun _ => g))

/-- Run a weight-buffer fill. -/
def runWfill (s : State) (c : Cmd) : Ending :=
  let x := c.ctl.toNat
  let b := wfBytes x (c.geo.getD 0 0)
  let (s1, f) :=
    if wfEnc x then wfTiles c ((c.geo.getD 0 0).toNat % 2 ^ 32) 0 (s, none)
    else workGo (fun u t => match cmdRd t c.who ((c.aa.toNat + 128 * u) % 2 ^ 72) 128 with
      | .error e => .error e
      | .ok (t1, v, l) => .ok { t1 with core := setUnit t1.core (wfOff x + u) v (l ||| c.lab) }) (b / 128) 0 s
  ⟨s1, c, if wfCr x then some b else none, f⟩

/-! ## Spill (R215) -/

def issueSpill (i0 : Info) (kind : CmdKind) (rl : BitVec 1) (sc : BitVec 3) (aa : BitVec 4) (sb : BitVec 5) (s : State) :
    Host.Outcome State Fault Refusal :=
  let x := (s.core.rdS sb).v.toNat
  let i := i0.naming (namedA (bits x 9 6) :: (if bit x 10 then [namedA (bits x 14 11)] else []))
  tile i true s fun t =>
    let src := (t.core.rdA aa).v
    let da := ctlA t.core (bits x 9 6)
    let len := x >>> 16
    let tag := x % 64
    if bit x 15 ∨ (¬bit x 10 ∧ bits x 14 11 ≠ 0) then .error (copyStop t 0 tag)
    else if src.toNat % 128 ≠ 0 ∨ da.toNat % 128 ≠ 0 ∨ len % 128 ≠ 0 ∨ len < 128 ∨ (bit x 10 ∧ (ctlA t.core (bits x 14 11)).toNat % 16 ≠ 0) then
      .error (copyStop t 2 tag)
    else match aliasStop (src.toNat, src.toNat + len) (da.toNat, da.toNat + len) with
      | some e => .error e
      | none => issueCmd (releaseFor t rl (if bit x 10 then [ctlA t.core (bits x 14 11)] else [])) { mkCmd t i kind tag src (t.core.rdS sb).v rl sc with da := da, ba := ctlA t.core (bits x 14 11) }

def execCpSpill (q : BitVec 4) (ac rl : BitVec 1) (sc : BitVec 3) (aa : BitVec 4) (sb : BitVec 5) (s : State) :=
  issueSpill (infoCpSpill q ac rl sc aa sb) .spill rl sc aa sb s
def execCpUnspill (q : BitVec 4) (ac rl : BitVec 1) (sc : BitVec 3) (aa : BitVec 4) (sb : BitVec 5) (s : State) :=
  issueSpill (infoCpUnspill q ac rl sc aa sb) .unspill rl sc aa sb s

/-- Does a spill endpoint lie in the tier (DDR or a neighbour window), or a cacheable page (R215)? -/
def spillEnd (s : State) (w : Who) (va : Nat) (kind : Kind) (tier : Bool) : Option CFail :=
  match translate s va w.vf w.part w.prv 128 kind with
  | .error e => some (cfailOf (.xlat e) va)
  | .ok (x, _) => if (if tier then region x.pa == 1 || region x.pa == 2 else x.cacheable) then none else some (CFail.of 7 0 0 va)

/-- Run an access at va that allocates neither in the cache portion nor in the last-level cache (R215): a line that is held
already is accessed where it is. -/
def noAlloc {α : Type} (w : Who) (va : Nat) (kind : Kind) (f : State → Except CFail (State × α)) (s : State) : Except CFail (State × α) :=
  let held : Bool := match translate s va w.vf w.part w.prv 128 kind with
    | .ok (x, _) => (lookup s.core.stash (cacheSlot s.core x.pa)).any (fun l => l.pa == x.pa / 128 * 128)
    | .error _ => false
  let s1 := setVf s w.vf { vfAt s w.vf with ways := 0 }
  match f (if held then s1 else { s1 with core := { s1.core with csz := 0 } }) with
  | .error e => .error { e with base := e.base.map (fun t => { t with vfs := s.vfs, core := { t.core with csz := s.core.csz } }) }
  | .ok (t, x) => .ok ({ t with vfs := s.vfs, core := { t.core with csz := s.core.csz } }, x)

def spillCopy (c : Cmd) (src dst : Nat) (s : State) : Except CFail State :=
  let rd (s : State) : Except CFail (State × (Nat × Label)) := cmdRd s c.who src 128
  let wr (v : Nat) (l : Label) (s : State) : Except CFail (State × Unit) := (cmdWr s c.who dst 128 v (l ||| c.lab)).map (fun t => (t, ()))
  match (if c.kind = .spill then noAlloc c.who src .read rd s else rd s) with
  | .error e => .error e
  | .ok (s1, v, l) => match (if c.kind = .spill then noAlloc c.who dst .write (wr v l) s1 else wr v l s1) with
    | .error e => .error e
    | .ok (s2, _) => .ok s2

def spillLine (c : Cmd) (j : Nat) (s : State) : Except CFail State :=
  let src := (c.aa.toNat + 128 * j) % 2 ^ 72
  let dst := (c.da.toNat + 128 * j) % 2 ^ 72
  match (spillEnd s c.who src .read (c.kind == .unspill)).orElse (fun _ => spillEnd s c.who dst .write (c.kind == .spill)) with
  | some e => .error e
  | none => spillCopy c src dst s

def runSpill (s : State) (c : Cmd) : Ending :=
  let len := c.ctl.toNat >>> 16
  let (s1, f) := workGo (spillLine c) (len / 128) 0 s
  ⟨s1, c, if bit c.ctl.toNat 10 then some len else none, f⟩

/-! ## Overlays (R216 to R220) -/

def execCpOvl (q : BitVec 4) (ac : BitVec 1) (sc : BitVec 3) (aa : BitVec 4) (sb : BitVec 5) (s : State) :=
  let x := (s.core.rdS sb).v.toNat
  let i := (infoCpOvl q ac sc aa sb).naming (if bit x 6 then [namedA (bits x 10 7)] else [])
  tile i true s fun t =>
    let tag := x % 64
    let src := (t.core.rdA aa).v
    let w := if bit x 6 then ctlA t.core (bits x 10 7) else src
    if t.core.cmds.any (fun c => c.kind == .ovl) then .error .hold
    else if x >>> 11 ≠ 0 then .error (copyStop t 0 tag)
    else if w.toNat % 65536 ≠ 0 then .error (copyStop t 2 tag)
    else if w = (t.core.half t.core.active).base then .error (copyStop t 7 tag)
    else if ¬bit x 6 ∧ bits x 10 7 ≠ 0 then .error (copyStop t 0 tag)
    else
      let c := { mkCmd t i .ovl tag src (t.core.rdS sb).v 0 sc with da := w }
      match issueCmd t c with
      | .ok t1 => .ok { t1 with core := t1.core.setHalf (!t1.core.active) { t1.core.half (!t1.core.active) with base := w, st := 1, bytes := [] } }
      | .error e => .error e

/-- The templates' words (R217), or none when a header or template is malformed. -/
def ovlTemplates (img nt : Nat) : Option (List (List Nat)) :=
  (List.range nt).mapM (fun t =>
    let b := rf img (0x20 + 32 * t) 32
    let k := rf b 0 1
    if k = 0 ∨ 7 < k ∨ rf b 1 3 ≠ 0 ∨ rf b (4 + 4 * k) (28 - 4 * k) ≠ 0 then none
    else some ((List.range k).map (fun j => rf b (4 + 4 * j) 4)))

/-- Expand tokens into words (R218); none on a bad token. Fuel: the token words. -/
def ovlExpand (tp : List (List Nat)) : Nat → List Nat → Option (List Nat)
  | 0, [] => some []
  | 0, _ => none
  | _ + 1, [] => some []
  | f + 1, w :: ws =>
    let k := bits w 31 30
    let n := bits w 15 0
    let t := bits w 29 24
    let p := bits w 18 16
    if bits w 23 19 ≠ 0 then none
    else match k with
      | 0 =>
        if n = 0 ∨ t ≠ 0 ∨ p ≠ 0 ∨ ws.length < n then none
        else (ovlExpand tp f (ws.drop n)).map (fun r => ws.take n ++ r)
      | 1 =>
        match tp[t]? with
        | some l => if n = 0 ∨ p ≠ 0 then none else (ovlExpand tp f ws).map (fun r => (List.replicate n l).flatten ++ r)
        | none => none
      | 2 =>
        match tp[t]?, ws with
        | some l, x :: ws' => if n ≠ 0 ∨ l.length ≤ p then none else (ovlExpand tp f ws').map (fun r => l.set p (l.getD p 0 ^^^ x) ++ r)
        | _, _ => none
      | _ => if n = 0 ∨ t ≠ 0 ∨ p ≠ 0 then none else (ovlExpand tp f ws).map (fun r => List.replicate n 0 ++ r)

/-- The cells of a list of 32-bit words from offset 0. -/
def wordCells (ws : List Nat) : List Host.Cell := (List.zipIdx ws).flatMap (fun e => cellsOf 4 (4 * e.2) e.1)

/-- MODE 1 (R220): the half's bytes, or the reason of R219; reads go through the data path. An INLEN that is no multiple of 4
(R217) gives reason 3 as a malformed header; R219 names no reason for it (DESIGN CHOICE, log 24). -/
def ovlImage (c : Cmd) (s : State) : Except CFail (State × Except Nat (List Host.Cell) × Label) :=
  match cmdRd s c.who c.aa.toNat 32 with
  | .error e => .error e
  | .ok (s1, h, l1) =>
    let outlen := rf h 8 4
    let inlen := rf h 0xC 4
    let nt := rf h 0x10 2
    if rf h 0 4 ≠ 0x314C564F ∨ outlen % 16 ≠ 0 ∨ outlen < 16 ∨ 65536 < outlen ∨ 64 < nt ∨ inlen % 4 ≠ 0 ∨ rf h 0x12 14 ≠ 0 then
      .ok (s1, .error 3, l1)
    else match cmdRd s1 c.who c.aa.toNat (0x20 + 32 * nt) with
      | .error e => .error { e with got := e.got ||| l1 }
      | .ok (s2, img, l2) =>
        match ovlTemplates img nt with
        | none => .ok (s2, .error 3, l1 ||| l2)
        | some tp => match cmdRd s2 c.who ((c.aa.toNat + 0x20 + 32 * nt) % 2 ^ 72) inlen with
          | .error e => .error { e with got := e.got ||| l1 ||| l2 }
          | .ok (s3, toks, l3) =>
            let ws := (List.range (inlen / 4)).map (fun j => rf toks (4 * j) 4)
            let l := l1 ||| l2 ||| l3
            match ovlExpand tp (inlen / 4) ws with
            | none => .ok (s3, .error 2, l)
            | some out =>
              if out.length * 4 ≠ outlen then .ok (s3, .error 2, l)
              else if (crc32c (out.flatMap (leBytes 4))).toNat ≠ rf h 4 4 then .ok (s3, .error 1, l)
              else .ok (s3, .ok (wordCells out), l)

/-- The bytes an overlay load brings: MODE 0 the 64 KiB at aa with kind code; MODE 1 the expanded image (R220). -/
def ovlBytes (c : Cmd) (s : State) : Except CFail (State × Except Nat (List Host.Cell) × Label) :=
  match translateMark s c.da.toNat c.vf c.part c.prv 16 .code with
  | .error e => .error (cfailOf (.xlat e) c.da.toNat)
  | .ok (s0, _) =>
    if bit c.ctl.toNat 6 then ovlImage c s0
    else match cmdRd s0 c.who c.aa.toNat 65536 .code with
      | .error e => .error e
      | .ok (s1, v, l) => .ok (s1, .ok (cellsOf 65536 0 v), l)

/-- The end of an overlay load: the half's state, its label and reason, then the tag. -/
def runOvl (s : State) (c : Cmd) : Ending :=
  let idle := !s.core.active
  let mine (t : State) : Bool := (t.core.half idle).st == 1 && (t.core.half idle).base == c.da
  let put (t : State) (h : Half) : State := if mine t then { t with core := t.core.setHalf idle h } else t
  match ovlBytes c s with
  | .error e => ⟨put (e.base.getD s) ⟨c.da, 3, e.got ||| c.lab, 4, []⟩, c, none, some e⟩
  | .ok (s1, .ok b, l) => ⟨put s1 ⟨c.da, 2, l ||| c.lab, 0, b⟩, c, none, none⟩
  | .ok (s1, .error r, l) => ⟨put s1 ⟨c.da, 3, l ||| c.lab, BitVec.ofNat 4 r, []⟩, c, none, none⟩

/-- Registers a word of major 0x19 names through its control word (R199, R466). -/
def cpNames (minor x : Nat) : List RegName :=
  match minor with
  | 0 => copyNames x false
  | 1 => copyNames x true
  | 2 => copyNames x true
  | 8 => wfNames x
  | 9 => if bit x 6 then [namedA (bits x 10 7)] else []
  | 10 => namedA (bits x 9 6) :: (if bit x 10 then [namedA (bits x 14 11)] else [])
  | 11 => namedA (bits x 9 6) :: (if bit x 10 then [namedA (bits x 14 11)] else [])
  | _ => []

end Sys2Proof.Machine
end

