-- ==== Sys2Proof/Machine/RvDecode.lean ====
section
/-! DEFINITION. The encodings of the Jetty harts' standard instructions (R393): RV64IMA with Zicsr, Zifencei, Zba and Zbb
in 32 bits, the C extension without floating point in 16. -/
namespace Sys2Proof.Machine

/-- The low n bits of x, sign-extended. -/
def sx (n x : Nat) : Word := BitVec.ofInt 64 (sgn n x)

def rvRd (w : Nat) : BitVec 5 := BitVec.ofNat 5 (bits w 11 7)
def rvRs1 (w : Nat) : BitVec 5 := BitVec.ofNat 5 (bits w 19 15)
def rvRs2 (w : Nat) : BitVec 5 := BitVec.ofNat 5 (bits w 24 20)

/-- Register-register operations by funct7 and funct3. -/
def rvOp64 (f7 f3 : Nat) : Option RvOp :=
  match f7, f3 with
  | 0, 0 => some .add | 0, 1 => some .sll | 0, 2 => some .slt | 0, 3 => some .sltu | 0, 4 => some .xor | 0, 5 => some .srl
  | 0, 6 => some .or | 0, 7 => some .and | 0x20, 0 => some .sub | 0x20, 5 => some .sra | 0x20, 7 => some .andn
  | 0x20, 6 => some .orn | 0x20, 4 => some .xnor
  | 1, 0 => some .mul | 1, 1 => some .mulh | 1, 2 => some .mulhsu | 1, 3 => some .mulhu | 1, 4 => some .div | 1, 5 => some .divu
  | 1, 6 => some .rem | 1, 7 => some .remu | 0x10, 2 => some .sh1add | 0x10, 4 => some .sh2add | 0x10, 6 => some .sh3add
  | 5, 4 => some .min | 5, 5 => some .minu | 5, 6 => some .max | 5, 7 => some .maxu | 0x30, 1 => some .rol | 0x30, 5 => some .ror
  | _, _ => none

def rvOp32 (f7 f3 rs2 : Nat) : Option RvOp :=
  match f7, f3 with
  | 0, 0 => some .addw | 0, 1 => some .sllw | 0, 5 => some .srlw | 0x20, 0 => some .subw | 0x20, 5 => some .sraw
  | 1, 0 => some .mulw | 1, 4 => some .divw | 1, 5 => some .divuw | 1, 6 => some .remw | 1, 7 => some .remuw
  | 4, 0 => some .addUw | 4, 4 => if rs2 = 0 then some .zextH else none
  | 0x10, 2 => some .sh1addUw | 0x10, 4 => some .sh2addUw | 0x10, 6 => some .sh3addUw | 0x30, 1 => some .rolw | 0x30, 5 => some .rorw
  | _, _ => none

/-- Operations on a register and a 12-bit immediate field: the operation and its immediate. -/
def rvImm64 (f3 i : Nat) : Option (RvOp × Word) :=
  match f3 with
  | 0 => some (.add, sx 12 i) | 2 => some (.slt, sx 12 i) | 3 => some (.sltu, sx 12 i) | 4 => some (.xor, sx 12 i)
  | 6 => some (.or, sx 12 i) | 7 => some (.and, sx 12 i)
  | 1 =>
    if i / 64 = 0 then some (.sll, BitVec.ofNat 64 i)
    else match i with
      | 0x600 => some (.clz, 0) | 0x601 => some (.ctz, 0) | 0x602 => some (.cpop, 0) | 0x604 => some (.sextB, 0)
      | 0x605 => some (.sextH, 0) | _ => none
  | 5 =>
    if i / 64 = 0 then some (.srl, BitVec.ofNat 64 i)
    else if i / 64 = 0x10 then some (.sra, BitVec.ofNat 64 (i % 64))
    else if i / 64 = 0x18 then some (.ror, BitVec.ofNat 64 (i % 64))
    else if i = 0x287 then some (.orcB, 0) else if i = 0x6B8 then some (.rev8, 0) else none
  | _ => none

def rvImm32 (f3 i : Nat) : Option (RvOp × Word) :=
  match f3 with
  | 0 => some (.addw, sx 12 i)
  | 1 =>
    if i / 32 = 0 then some (.sllw, BitVec.ofNat 64 i)
    else if i / 64 = 2 then some (.slliUw, BitVec.ofNat 64 (i % 64))
    else match i with
      | 0x600 => some (.clzw, 0) | 0x601 => some (.ctzw, 0) | 0x602 => some (.cpopw, 0) | _ => none
  | 5 =>
    if i / 32 = 0 then some (.srlw, BitVec.ofNat 64 i)
    else if i / 32 = 0x20 then some (.sraw, BitVec.ofNat 64 (i % 32))
    else if i / 32 = 0x30 then some (.rorw, BitVec.ofNat 64 (i % 32)) else none
  | _ => none

def rvCond : Nat → Option RvCond
  | 0 => some .eq | 1 => some .ne | 4 => some .lt | 5 => some .ge | 6 => some .ltu | 7 => some .geu | _ => none

def rvAmoOp : Nat → Option RvAmo
  | 0 => some .add | 1 => some .swap | 4 => some .xor | 8 => some .or | 0xC => some .and | 0x10 => some .min | 0x14 => some .max
  | 0x18 => some .minu | 0x1C => some .maxu | _ => none

def rvSystem (w : Nat) : Option RvInstr :=
  let f3 := bits w 14 12
  let num := BitVec.ofNat 12 (w >>> 20)
  match f3 with
  | 0 => if w = 0x73 then some .ecall else if w = 0x100073 then some .ebreak else if w = 0x30200073 then some .mret
    else if w = 0x10500073 then some .wfi else none
  | 1 => some (.csr 1 false (rvRd w) (rvRs1 w) num) | 2 => some (.csr 2 false (rvRd w) (rvRs1 w) num)
  | 3 => some (.csr 3 false (rvRd w) (rvRs1 w) num) | 5 => some (.csr 1 true (rvRd w) (rvRs1 w) num)
  | 6 => some (.csr 2 true (rvRd w) (rvRs1 w) num) | 7 => some (.csr 3 true (rvRd w) (rvRs1 w) num)
  | _ => none

/-- A 32-bit word of the standard sets. -/
def rvDecode32 (w : Nat) : Option RvInstr :=
  let f3 := bits w 14 12
  let f7 := bits w 31 25
  let i := bits w 31 20
  let immS := sx 12 ((f7 <<< 5) + bits w 11 7)
  match w % 128 with
  | 0x37 => some (.lui (rvRd w) (sx 32 (w / 4096 * 4096)))
  | 0x17 => some (.auipc (rvRd w) (sx 32 (w / 4096 * 4096)))
  | 0x6F => some (.jal (rvRd w) (sx 21 ((bits w 31 31 <<< 20) + (bits w 19 12 <<< 12) + (bits w 20 20 <<< 11) + (bits w 30 21 <<< 1))))
  | 0x67 => if f3 = 0 then some (.jalr (rvRd w) (rvRs1 w) (sx 12 i)) else none
  | 0x63 => (rvCond f3).map (fun c => .branch c (rvRs1 w) (rvRs2 w)
      (sx 13 ((bits w 31 31 <<< 12) + (bits w 7 7 <<< 11) + (bits w 30 25 <<< 5) + (bits w 11 8 <<< 1))))
  | 0x03 => if f3 = 7 then none else some (.load (2 ^ (f3 % 4)) (decide (f3 < 4)) (rvRd w) (rvRs1 w) (sx 12 i))
  | 0x23 => if f3 < 4 then some (.store (2 ^ f3) (rvRs1 w) (rvRs2 w) immS) else none
  | 0x13 => (rvImm64 f3 i).map (fun p => .opImm p.1 (rvRd w) (rvRs1 w) p.2)
  | 0x1B => (rvImm32 f3 i).map (fun p => .opImm p.1 (rvRd w) (rvRs1 w) p.2)
  | 0x33 => (rvOp64 f7 f3).map (fun o => .op o (rvRd w) (rvRs1 w) (rvRs2 w))
  | 0x3B => (rvOp32 f7 f3 (bits w 24 20)).map (fun o => .op o (rvRd w) (rvRs1 w) (rvRs2 w))
  | 0x0F => if f3 = 0 then some .fence else if f3 = 1 then some .fenceI else none
  | 0x73 => rvSystem w
  | 0x2F =>
    if f3 ≠ 2 ∧ f3 ≠ 3 then none
    else match bits w 31 27 with
      | 2 => if rvRs2 w = 0 then some (.lr (f3 == 3) (rvRd w) (rvRs1 w)) else none
      | 3 => some (.sc (f3 == 3) (rvRd w) (rvRs1 w) (rvRs2 w))
      | f => (rvAmoOp f).map (fun o => .amo o (f3 == 3) (rvRd w) (rvRs1 w) (rvRs2 w))
  | _ => none

/-! ## Compressed words -/

def rcReg (w lo : Nat) : BitVec 5 := BitVec.ofNat 5 (8 + w / 2 ^ lo % 8)
def rcImm6 (w : Nat) : Word := sx 6 ((bits w 12 12 <<< 5) + bits w 6 2)
def rcShamt (w : Nat) : Word := BitVec.ofNat 64 ((bits w 12 12 <<< 5) + bits w 6 2)
def nw (x : Nat) : Word := BitVec.ofNat 64 x
def rcJ (w : Nat) : Word :=
  sx 12 ((bits w 12 12 <<< 11) + (bits w 11 11 <<< 4) + (bits w 10 9 <<< 8) + (bits w 8 8 <<< 10) + (bits w 7 7 <<< 6)
    + (bits w 6 6 <<< 7) + (bits w 5 3 <<< 1) + (bits w 2 2 <<< 5))
def rcB (w : Nat) : Word :=
  sx 9 ((bits w 12 12 <<< 8) + (bits w 11 10 <<< 3) + (bits w 6 5 <<< 6) + (bits w 4 3 <<< 1) + (bits w 2 2 <<< 5))

def rvC0 (w : Nat) : Option RvInstr :=
  let ow := nw ((bits w 12 10 <<< 3) + (bits w 6 6 <<< 2) + (bits w 5 5 <<< 6))
  let od := nw ((bits w 12 10 <<< 3) + (bits w 6 5 <<< 6))
  match bits w 15 13 with
  | 0 =>
    let i := (bits w 12 11 <<< 4) + (bits w 10 7 <<< 6) + (bits w 6 6 <<< 2) + (bits w 5 5 <<< 3)
    if i = 0 then none else some (.opImm .add (rcReg w 2) 2 (nw i))
  | 2 => some (.load 4 true (rcReg w 2) (rcReg w 7) ow)
  | 3 => some (.load 8 true (rcReg w 2) (rcReg w 7) od)
  | 6 => some (.store 4 (rcReg w 7) (rcReg w 2) ow)
  | 7 => some (.store 8 (rcReg w 7) (rcReg w 2) od)
  | _ => none

def rvC1 (w : Nat) : Option RvInstr :=
  let rd := rvRd w
  match bits w 15 13 with
  | 0 => some (.opImm .add rd rd (rcImm6 w))
  | 1 => if rd = 0 then none else some (.opImm .addw rd rd (rcImm6 w))
  | 2 => some (.opImm .add rd 0 (rcImm6 w))
  | 3 =>
    if rd = 2 then
      let i := (bits w 12 12 <<< 9) + (bits w 6 6 <<< 4) + (bits w 5 5 <<< 6) + (bits w 4 3 <<< 7) + (bits w 2 2 <<< 5)
      if i = 0 then none else some (.opImm .add 2 2 (sx 10 i))
    else if rcImm6 w = 0 then none else some (.lui rd (rcImm6 w <<< 12))
  | 4 =>
    let r := rcReg w 7
    match bits w 11 10 with
    | 0 => some (.opImm .srl r r (rcShamt w))
    | 1 => some (.opImm .sra r r (rcShamt w))
    | 2 => some (.opImm .and r r (rcImm6 w))
    | _ => match bits w 12 12, bits w 6 5 with
      | 0, 0 => some (.op .sub r r (rcReg w 2)) | 0, 1 => some (.op .xor r r (rcReg w 2)) | 0, 2 => some (.op .or r r (rcReg w 2))
      | 0, _ => some (.op .and r r (rcReg w 2)) | _, 0 => some (.op .subw r r (rcReg w 2)) | _, 1 => some (.op .addw r r (rcReg w 2))
      | _, _ => none
  | 5 => some (.jal 0 (rcJ w))
  | 6 => some (.branch .eq (rcReg w 7) 0 (rcB w))
  | _ => some (.branch .ne (rcReg w 7) 0 (rcB w))

def rvC2 (w : Nat) : Option RvInstr :=
  let rd := rvRd w
  let rs2 : BitVec 5 := BitVec.ofNat 5 (bits w 6 2)
  match bits w 15 13 with
  | 0 => some (.opImm .sll rd rd (rcShamt w))
  | 2 => if rd = 0 then none else some (.load 4 true rd 2 (nw ((bits w 12 12 <<< 5) + (bits w 6 4 <<< 2) + (bits w 3 2 <<< 6))))
  | 3 => if rd = 0 then none else some (.load 8 true rd 2 (nw ((bits w 12 12 <<< 5) + (bits w 6 5 <<< 3) + (bits w 4 2 <<< 6))))
  | 4 =>
    if bits w 12 12 = 0 then
      if rs2 = 0 then (if rd = 0 then none else some (.jalr 0 rd 0)) else some (.op .add rd 0 rs2)
    else if rs2 = 0 then (if rd = 0 then some .ebreak else some (.jalr 1 rd 0))
    else some (.op .add rd rd rs2)
  | 6 => some (.store 4 2 rs2 (nw ((bits w 12 9 <<< 2) + (bits w 8 7 <<< 6))))
  | 7 => some (.store 8 2 rs2 (nw ((bits w 12 10 <<< 3) + (bits w 9 7 <<< 6))))
  | _ => none

/-- A 16-bit word: the instruction it abbreviates. -/
def rvDecode16 (w : Nat) : Option RvInstr :=
  match w % 4 with
  | 0 => rvC0 w
  | 1 => rvC1 w
  | 2 => rvC2 w
  | _ => none

end Sys2Proof.Machine
end

