-- ==== Sys2Proof/Machine/Hart.lean ====
section
/-! DEFINITION. The Jetty harts (R392 to R395): registers, physical accesses with PMP and episode windows, machine CSRs,
exceptions and interrupts into machine mode, and the standard instructions. -/
namespace Sys2Proof.Machine

/-! ## Harts and the episode table (R392, R396, R397) -/

def hartAt (s : State) (n : Nat) : Hart := (lookup s.harts n).getD Hart.reset
def setHart (s : State) (n : Nat) (h : Hart) : State := { s with harts := insertKey n h s.harts }
/-- The hart whose turn it is. -/
def curHart (s : State) : Hart := hartAt s s.hartNo
def setCur (s : State) (h : Hart) : State := setHart s s.hartNo h
/-- A change of the current hart. -/
def updHart (s : State) (f : Hart → Hart) : State := setCur s (f (curHart s))

def Hart.rd (h : Hart) (r : BitVec 5) : Word := if r = 0 then 0 else h.x[r.toFin]
def Hart.wr (h : Hart) (r : BitVec 5) (v : Word) : Hart := if r = 0 then h else { h with x := h.x.set r.toFin v }

def epAddr (s : State) (e : Nat) : Nat := s.evEpt + 128 * e
/-- The 128-byte entry of an episode (R396). -/
def epGet (s : State) (e : Nat) : Nat := readPa s (epAddr s e) 128
/-- Replace bytes o .. o + n - 1 of an image. -/
def putRf (x o n v : Nat) : Nat := x % 2 ^ (8 * o) + ((v % 2 ^ (8 * n)) <<< (8 * o)) + (x >>> (8 * (o + n)) <<< (8 * (o + n)))
def epPut (s : State) (e x : Nat) : State := engWr s (epAddr s e) 128 x

def imgF (x o n : Nat) : Nat := x / 2 ^ (8 * o) % 2 ^ (8 * n)
def epSt (x : Nat) : Nat := imgF x 2 1
def epFl (x : Nat) : Nat := imgF x 3 1
def epArm (x : Nat) : Bool := bit (epFl x) 5
def epWin (x i : Nat) : Nat := imgF x (0x30 + 8 * i) 8

/-- A window descriptor's range and permissions (R397). -/
def winBase (w : Nat) : Nat := bits w 39 0 * 65536
def winLen (w : Nat) : Nat := bits w 55 40 * 65536

/-- Kinds of a hart's access: R, W and X as window bits 56 to 58 need them. -/
inductive HKind where
  | load | store | amo | fetch
  deriving DecidableEq, Repr

def winAllows (w : Nat) : HKind → Bool
  | .load => bit w 56
  | .store => bit w 57
  | .amo => bit w 56 && bit w 57
  | .fetch => bit w 58

/-- The first byte of an access that no window of the bound episode allows (R394). -/
def winFail (s : State) (h : Hart) (a n : Nat) (k : HKind) : Option Nat :=
  match h.ep with
  | none => some a
  | some e =>
    let x := epGet s e
    match ((List.range 4).map (epWin x)).find? (fun w => winAllows w k && decide (winBase w ≤ a) && decide (a < winBase w + winLen w)) with
    | some w => if a + n ≤ winBase w + winLen w then none else some (winBase w + winLen w)
    | none => some a

/-! ## PMP (R393) -/

/-- The range of PMP entry i, none when it is off: TOR or NAPOT with 4 KiB granularity. -/
def pmpRange (h : Hart) (i : Nat) : Option (Nat × Nat) :=
  let cfg := (h.pmpcfg.toList.getD i 0).toNat
  let a (j : Nat) : Nat := (h.pmpaddr.toList.getD j 0).toNat % 2 ^ 54
  match bits cfg 4 3 with
  | 1 => some (if i = 0 then 0 else a (i - 1) / 1024 * 4096, a i / 1024 * 4096)
  | 3 =>
    let v := a i ||| 511
    let k := ctz 64 (v + 1)
    let lo := v / 2 ^ k * 2 ^ (k + 2)
    some (lo, lo + 2 ^ (k + 3))
  | _ => none

/-- Does PMP allow an access in a mode? The lowest entry that any byte matches decides. -/
def pmpAllows (h : Hart) (machine : Bool) (a n : Nat) (k : HKind) : Bool :=
  match (List.range 16).find? (fun i => match pmpRange h i with
    | some (lo, hi) => decide (lo < a + n) && decide (a < hi)
    | none => false) with
  | none => machine
  | some i =>
    let cfg := (h.pmpcfg.toList.getD i 0).toNat
    let inside := match pmpRange h i with
      | some (lo, hi) => decide (lo ≤ a) && decide (a + n ≤ hi)
      | none => false
    let perm := match k with
      | .load => bit cfg 0 | .store => bit cfg 1 | .amo => bit cfg 0 && bit cfg 1 | .fetch => bit cfg 2
    inside && (perm || (machine && !bit cfg 7))

/-! ## Physical accesses -/

/-- May a hart reach n bytes at a physical address at all (R148, R149, R519)? -/
def hartReach (s : State) (a n : Nat) : Bool :=
  match region a with
  | 0 => isMem a && isMem (a + n - 1)
  | 1 => isMem a && isMem (a + n - 1)
  | 2 => (s.nwins.toList.map (·.en)).getD (a / 0x100000000000 % 16) false
  | 3 => n == 8 && a % 8 == 0
  | 4 => true
  | _ => false

/-- The mode an access is checked in: MPRV gives loads and stores the mode of MPP. -/
def hartMode (h : Hart) (k : HKind) : Bool :=
  if k ≠ .fetch ∧ h.machine ∧ h.mstatus.getLsbD 17 then bits h.mstatus.toNat 12 11 == 3 else h.machine

/-- The first byte at which an access fails whichever mode it is made in, line by line: reach, poison, PMP of kind pk. -/
def partFail (s : State) (h : Hart) (a n : Nat) (pk : HKind) (machine : Bool) : Option Nat :=
  ((spanParts a n).find? (fun p => decide (2 ^ 56 ≤ p.1 + p.2 - 1) || !hartReach s p.1 p.2 || isPoisoned s p.1 p.2
    || !pmpAllows h machine p.1 p.2 pk)).map (·.1)

/-- The first byte at which an access fails, if it does (R394): reach, PMP of kind pk, windows of kind k in user mode. -/
def hartCheckAs (s : State) (h : Hart) (a n : Nat) (k pk : HKind) : Option Nat :=
  let machine := hartMode h k
  match partFail s h a n pk machine, if machine then none else winFail s h a n k with
  | some b, some c => some (min b c)
  | some b, none => some b
  | none, x => x

def hartCheck (s : State) (h : Hart) (a n : Nat) (k : HKind) : Option Nat := hartCheckAs s h a n k k

/-! ## Caches and labels of episode windows (R392, R395, R402) -/

/-- Free, or counted as free (R399). -/
def epFree (x : Nat) : Bool := epSt x == 0 || ((epSt x == 4 || epSt x == 5) && !bit (epFl x) 3)

/-- The episode with a window over an address, which lies in the Jetty memory: an entry that does not count as free, as no two
of those have windows that meet (R399). -/
def episodeAt (s : State) (a : Nat) : Option Nat :=
  if a < s.jmemb ∨ s.jmemb + s.jmeml ≤ a then none
  else (List.range 4096).find? (fun e => let x := epGet s e
    !epFree x && (List.range 4).any (fun i => decide (winBase (epWin x i) ≤ a) && decide (a < winBase (epWin x i) + winLen (epWin x i))))

/-- A cache of `cap` lines takes a line, the least recently used one leaving it when it is full (log 16). -/
def jettyTake (who cap line : Nat) (l : List (Nat × Nat)) : List (Nat × Nat) :=
  let l1 := l.filter (fun e => e != (who, line))
  (match l1.find? (fun e => e.1 == who) with
    | some e => if cap ≤ (l1.filter (fun x => x.1 == who)).length then l1.erase e else l1
    | none => l1) ++ [(who, line)]

/-- A hart's access to a line of an episode window brings it into its L2, 512 KiB, and its die's L3, 32 MiB (R392). -/
def jettyTouch (s : State) (a : Nat) : State :=
  if (episodeAt s a).isNone then s
  else { s with jcache := jettyTake (96 + s.hartNo / 48) 262144 (lineKey s a) (jettyTake s.hartNo 4096 (lineKey s a) s.jcache) }

/-- The label that an access of the current hart carries: the monitor's to an episode window, that episode's (R395). -/
def hartLabel (s : State) (a : Nat) : Label :=
  match (if (curHart s).machine then episodeAt s a else none) with
  | some e => BitVec.ofNat 32 (imgF (epGet s e) 8 4)
  | none => 0

/-- Does a remote package refuse a hart's access through a neighbour window (R167)? -/
def hartRefused (s : State) (a : Nat) : Bool := region a == 2 && Config.remoteRefuses s.time (destAddr s ⟨a, 0, 0, true⟩)

/-- Read through to memory or a target: the value, and the label that the access carries; a hart keeps no labels (R402). The read
of an atomic that its home performs leaves the flit to the write (R168). -/
def hartGet (s : State) (a n : Nat) (atomic : Bool := false) : Option (State × Nat × Label) :=
  if isMem a then some (jettyTouch s a, readPa s a n, hartLabel s a)
  else if region a = 3 then (devRead s (a % 0x1000000000000)).map (fun r => (r.1, r.2, 0))
  else if hartRefused s a then none
  else (if atomic then some s else windowFlit s 0 0 a [] 0).map (fun u =>
    let (t, v) := freeBytes u n
    (t, v, 0))
def hartPut (s : State) (a n v : Nat) (atomic : Bool := false) : Option State :=
  if isMem a then some (engWr (jettyTouch s a) a n v (hartLabel s a))
  else if region a = 3 then devWrite s (a % 0x1000000000000) v 0 2 0
  else if hartRefused s a then none
  else leavesTo s 0 0 ⟨a, 0, 0, true⟩ n v 0 atomic

/-- n bytes that may lie in several lines, as the words of an episode port and descriptors are read and written (R418). -/
def hartRead (s : State) : Nat → Nat → Nat → Option (State × Nat)
  | 0, _, _ => some (s, 0)
  | k + 1, a, n =>
    let c := min n (128 - a % 128)
    match hartGet s a c with
    | none => none
    | some (t, v, _) => (hartRead t k (a + c) (n - c)).map (fun r => (r.1, v + (r.2 <<< (8 * c))))
def hartWrite (s : State) : Nat → Nat → Nat → Nat → Option State
  | 0, _, _, _ => some s
  | k + 1, a, n, v =>
    let c := min n (128 - a % 128)
    match hartPut s a c (v % 2 ^ (8 * c)) with
    | none => none
    | some t => hartWrite t k (a + c) (n - c) (v >>> (8 * c))

/-- Two bytes of an instruction at a physical address: memory's, or the open bytes that a target answers a fetch with. -/
def hartCode (s : State) (a : Nat) : Nat := if isMem a then readPa s a 2 else (Config.hostCode s.fresh a).toNat

/-- A fetch from beyond memory meets open bytes of its own (log 6). -/
def fetchDraw (s : State) : State := if isMem (curHart s).pc.toNat ∧ isMem ((curHart s).pc.toNat + 2) then s else { s with fresh := s.fresh + 1 }

/-- The fetch of a parcel at a physical address is made there as any read is (R392): the state after it, none when its target
refuses it (R167) or cannot be reached (R527). -/
def fetchAt (s : State) (a : Nat) : Option State :=
  if isMem a then some (jettyTouch s a) else if hartRefused s a then none else windowFlit s 0 0 a [] 0

/-- Fetch the instruction at the current hart's pc: its bits, or an exception; a second parcel in the same line comes with the
first. -/
def hartFetch (s0 : State) : State × Except (Nat × Nat) Nat :=
  let s := fetchDraw s0
  let h := curHart s
  let pc := h.pc.toNat
  match hartCheck s h pc 2 .fetch with
  | some b => (s, .error (1, b))
  | none => match fetchAt s pc with
    | none => (s, .error (1, pc))
    | some t =>
      let lo := hartCode s pc
      if lo % 4 ≠ 3 then (t, .ok lo)
      else match hartCheck s h (pc + 2) 2 .fetch with
        | some b => (t, .error (1, b))
        | none => match (if (pc + 2) / 128 = pc / 128 then some t else fetchAt t (pc + 2)) with
          | none => (t, .error (1, pc + 2))
          | some u => (u, .ok (lo + hartCode s (pc + 2) * 65536))

/-- The outcome of a hart's work: a state, or an exception's cause and mtval. -/
abbrev HAct := Except (Nat × Nat) State

/-- Load n bytes: misaligned is cause 4 (6 for an atomic), a refused access 5 (7). -/
def hartLoad (s : State) (h : Hart) (a n : Nat) (k : HKind) : Except (Nat × Nat) (State × Nat) :=
  let c := if k = .load then 4 else 6
  if a % n ≠ 0 then .error (c, a)
  else match hartCheck s h a n k with
    | some b => .error (c + 1, b)
    | none => match hartGet s a n (k == .amo) with
      | some (t, v, _) => .ok (t, v)
      | none => .error (c + 1, a)

def hartStore (s : State) (h : Hart) (a n v : Nat) : HAct :=
  if a % n ≠ 0 then .error (6, a)
  else match hartCheck s h a n .store with
    | some b => .error (7, b)
    | none => match hartPut s a n v with
      | some t => .ok t
      | none => .error (7, a)

/-! ## Exceptions and interrupts -/

def mstMIE : Nat := 3
def mstMPIE : Nat := 7

/-- mstatus with MIE, MPIE and MPP (3 machine, 0 user) replaced. -/
def setMst (m : Word) (mie mpie : Bool) (mpp : Nat) : Word :=
  let x := m.toNat
  BitVec.ofNat 64 (x - bits x 3 3 * 8 - bits x 7 7 * 128 - bits x 12 11 * 2048 + b2n mie * 8 + b2n mpie * 128 + mpp * 2048)

/-- Take an exception or interrupt into machine mode: mepc, mcause, mtval, the mstatus stack, the handler's address. -/
def hartTrap (h : Hart) (intr : Bool) (cause : Nat) (tval : Word) : Hart :=
  let base := h.mtvec.toNat / 4 * 4
  { h with
    mepc := BitVec.ofNat 64 (h.pc.toNat / 2 * 2), mcause := BitVec.ofNat 64 (cause + (if intr then 2 ^ 63 else 0)), mtval := tval,
    mstatus := setMst h.mstatus false (h.mstatus.getLsbD mstMIE) (if h.machine then 3 else 0), machine := true, resv := none, wait := none,
    pc := BitVec.ofNat 64 (if intr ∧ h.mtvec.toNat % 4 = 1 then base + 4 * cause else base) }

/-- The lowest hart of an episode's die, which a notice names while the episode has no hart (R420). -/
def epOwner (x e : Nat) : Nat := if imgF x 6 1 = 255 then (if e < 2048 then 0 else 48) else imgF x 6 1
/-- The lowest episode whose notice names a hart (R420, jnote). -/
def noteOf (s : State) (n : Nat) : Option Nat :=
  (List.range 4096).find? (fun e => let x := epGet s e
    bit (epFl x) 4 && epOwner x e == n)

/-- mip: the software and external lines, the timer and JWI (R393, R420, R520). -/
def hartMip (s : State) (n : Nat) : Nat :=
  8 * b2n (hartAt s n).msi + 2048 * b2n (hartAt s n).mei + 128 * b2n (decide ((lookup s.dev.mtimecmp n).getD 0 ≤ nowNs s)) + 65536 * b2n (noteOf s n).isSome

/-- Is interrupt i pending and enabled on the current hart? -/
def hartIrq (s : State) (i : Nat) : Bool :=
  let h := curHart s
  h.mie.getLsbD i && bit (hartMip s s.hartNo) i && (!h.machine || h.mstatus.getLsbD mstMIE)

/-! ## CSRs (R393, R422) -/

def pmpCfgWord (h : Hart) (k : Nat) : Nat := pack 8 (fun i => (h.pmpcfg.toList.getD (8 * k + i) 0).toNat) 8
/-- pmpaddr as it reads with 4 KiB granularity. -/
def pmpAddrRead (h : Hart) (i : Nat) : Nat :=
  let v := (h.pmpaddr.toList.getD i 0).toNat
  if bits (h.pmpcfg.toList.getD i 0).toNat 4 3 = 3 then v ||| 511 else v / 1024 * 1024

/-- Write one PMP configuration byte: locked entries keep theirs, NA4 keeps A, W without R loses W. -/
def pmpCfgByte (old new : Nat) : Nat :=
  if bit old 7 then old
  else
    let a := if bits new 4 3 = 2 then bits old 4 3 else bits new 4 3
    let w := if bit new 0 then bits new 1 1 else 0
    bits new 0 0 + 2 * w + 4 * bits new 2 2 + 8 * a + 128 * bits new 7 7

/-- Is pmpaddr i locked: by its own entry, or by a locked TOR entry above it? -/
def pmpAddrLocked (h : Hart) (i : Nat) : Bool :=
  let c (j : Nat) : Nat := (h.pmpcfg.toList.getD j 0).toNat
  bit (c i) 7 || (bit (c (i + 1)) 7 && bits (c (i + 1)) 4 3 == 1)

/-- The episode-side CSRs of R422. -/
def jettyCsr (s : State) (num : Nat) : Nat :=
  let h := curHart s
  match num with
  | 0xFC0 => (match h.ep with | some e => e + 2 ^ 63 | none => 0)
  | 0xFC5 => (match noteOf s s.hartNo with | some e => e + 2 ^ 63 | none => 0)
  | 0xFC6 => s.jmemb
  | 0xFC7 => s.jmeml
  | 0xFC8 => if h.ep.isSome then h.irem.toNat else 0
  | 0xFC9 => (match h.ep with | some e => imgF (epGet s e) 0x28 8 | none => 0)
  | 0x7C0 => 0
  | _ => (match h.ep with | some e => epWin (epGet s e) (num - 0xFC1) | none => 0)

/-- The value of a CSR; none when it is not implemented. -/
def csrGet (s : State) (num : Nat) : Option Nat :=
  let h := curHart s
  if num = 0x7C0 ∨ (0xFC0 ≤ num ∧ num < 0xFCA) then some (jettyCsr s num)
  else if 0x3B0 ≤ num ∧ num < 0x3C0 then some (pmpAddrRead h (num - 0x3B0))
  else if num = 0x3A0 ∨ num = 0x3A2 then some (pmpCfgWord h ((num - 0x3A0) / 2))
  else if (0xB03 ≤ num ∧ num < 0xB20) ∨ (0x323 ≤ num ∧ num < 0x340) ∨ (0xC03 ≤ num ∧ num < 0xC20) then some 0
  else match num with
    | 0x300 => some (h.mstatus.toNat + 2 ^ 33)
    | 0x301 => some 0x8000000000901105
    | 0x304 => some h.mie.toNat
    | 0x305 => some h.mtvec.toNat
    | 0x306 => some h.mcounteren.toNat
    | 0x30A => some h.menvcfg.toNat
    | 0x320 => some h.mcountinhibit.toNat
    | 0x340 => some h.mscratch.toNat
    | 0x341 => some h.mepc.toNat
    | 0x342 => some h.mcause.toNat
    | 0x343 => some h.mtval.toNat
    | 0x344 => some (hartMip s s.hartNo)
    | 0xB00 => some h.mcycle.toNat
    | 0xB02 => some h.minstret.toNat
    | 0xC00 => some h.mcycle.toNat
    | 0xC01 => some (nowNs s % 2 ^ 64)
    | 0xC02 => some h.minstret.toNat
    | 0xF11 => some (Config.hartId 0).toNat
    | 0xF12 => some (Config.hartId 1).toNat
    | 0xF13 => some (Config.hartId 2).toNat
    | 0xF14 => some s.hartNo
    | 0xF15 => some (Config.hartId 3).toNat
    | _ => none

/-- jack: clear an episode's notice if it names this hart (R420). -/
def jackWrite (s : State) (v : Nat) : State :=
  let e := v % 4096
  let x := epGet s e
  if bit (epFl x) 4 ∧ epOwner x e = s.hartNo then epPut s e (putRf x 3 1 (epFl x - 16)) else s

/-- mstatus after a write: MIE, MPIE, MPP (machine or user), MPRV and TW. -/
def mstWrite (v : Nat) : Nat :=
  bits v 3 3 * 8 + bits v 7 7 * 128 + (if bits v 12 11 = 3 then 6144 else 0) + bits v 17 17 * 2 ^ 17 + bits v 21 21 * 2 ^ 21

/-- Write a CSR. -/
def csrPut (s : State) (num v : Nat) : State :=
  let h := curHart s
  let w : Word := BitVec.ofNat 64 v
  if num = 0x7C0 then jackWrite s v
  else if 0x3B0 ≤ num ∧ num < 0x3C0 then
    if pmpAddrLocked h (num - 0x3B0) then s
    else setCur s { h with pmpaddr := h.pmpaddr.setIfInBounds (num - 0x3B0) (BitVec.ofNat 64 (v % 2 ^ 54)) }
  else if num = 0x3A0 ∨ num = 0x3A2 then
    setCur s { h with pmpcfg := (List.range 8).foldl (fun l i =>
      let j := 8 * ((num - 0x3A0) / 2) + i
      l.setIfInBounds j (BitVec.ofNat 8 (pmpCfgByte (h.pmpcfg.toList.getD j 0).toNat (bits v (8 * i + 7) (8 * i))))) h.pmpcfg }
  else match num with
    | 0x300 => setCur s { h with mstatus := BitVec.ofNat 64 (mstWrite v) }
    | 0x304 => setCur s { h with mie := w &&& 0x10888#64 }
    | 0x305 => setCur s { h with mtvec := w &&& ~~~2#64 }
    | 0x306 => setCur s { h with mcounteren := w &&& 7#64 }
    | 0x30A => setCur s { h with menvcfg := w &&& 1#64 }
    | 0x320 => setCur s { h with mcountinhibit := w &&& 5#64 }
    | 0x340 => setCur s { h with mscratch := w }
    | 0x341 => setCur s { h with mepc := w &&& ~~~1#64 }
    | 0x342 => setCur s { h with mcause := w }
    | 0x343 => setCur s { h with mtval := w }
    | 0xB00 => setCur s { h with mcycle := w }
    | 0xB02 => setCur s { h with minstret := w }
    | _ => s

/-- May the current hart access a CSR: its mode, a read-only number, a counter's enable (R393, R422)? -/
def csrAllowed (s : State) (num : Nat) (write : Bool) : Bool :=
  let h := curHart s
  let lv := bits num 9 8
  (lv == 0 || (lv == 3 && h.machine)) && !(write && bits num 11 10 == 3)
    && (h.machine || !(decide (0xC00 ≤ num) && decide (num < 0xC20)) || h.mcounteren.getLsbD (num % 32))
    && (csrGet s num).isSome

/-! ## Computations -/

def sw (x : Nat) : Word := sx 32 x
def rvSdiv (n : Nat) (a b : Int) : Nat := if b = 0 then 2 ^ n - 1 else wrap n (a.tdiv b)
def rvSrem (n : Nat) (a b : Int) : Nat := if b = 0 then wrap n a else wrap n (a.tmod b)
def leadZ (w x : Nat) : Nat := if x = 0 then w else w - 1 - Nat.log2 x
def trailZ (w x : Nat) : Nat := if x = 0 then w else ctz w x

/-- The operations of RV64IM, Zba and Zbb. -/
def rvOp (o : RvOp) (x y : Word) : Word :=
  let a := x.toNat
  let b := y.toNat
  let w := a % 2 ^ 32
  let v := b % 2 ^ 32
  let sh := b % 64
  let s5 := b % 32
  match o with
  | .add => x + y
  | .sub => x - y
  | .sll => x <<< sh
  | .slt => nw (b2n (decide (x.toInt < y.toInt)))
  | .sltu => nw (b2n (decide (a < b)))
  | .xor => x ^^^ y
  | .srl => x >>> sh
  | .sra => x.sshiftRight sh
  | .or => x ||| y
  | .and => x &&& y
  | .addw => sw (a + b)
  | .subw => sw (w + 2 ^ 32 - v)
  | .sllw => sw (w <<< s5)
  | .srlw => sw (w >>> s5)
  | .sraw => (sw w).sshiftRight s5
  | .mul => x * y
  | .mulh => nw (wrap 64 (x.toInt * y.toInt / 2 ^ 64))
  | .mulhsu => nw (wrap 64 (x.toInt * b / 2 ^ 64))
  | .mulhu => nw (a * b / 2 ^ 64)
  | .div => nw (rvSdiv 64 x.toInt y.toInt)
  | .divu => nw (if b = 0 then 2 ^ 64 - 1 else a / b)
  | .rem => nw (rvSrem 64 x.toInt y.toInt)
  | .remu => nw (if b = 0 then a else a % b)
  | .mulw => sw (w * v)
  | .divw => sw (rvSdiv 32 (sgn 32 w) (sgn 32 v))
  | .divuw => sw (if v = 0 then 2 ^ 32 - 1 else w / v)
  | .remw => sw (rvSrem 32 (sgn 32 w) (sgn 32 v))
  | .remuw => sw (if v = 0 then w else w % v)
  | .addUw => nw (w + b)
  | .sh1add => nw (b + 2 * a)
  | .sh2add => nw (b + 4 * a)
  | .sh3add => nw (b + 8 * a)
  | .sh1addUw => nw (b + 2 * w)
  | .sh2addUw => nw (b + 4 * w)
  | .sh3addUw => nw (b + 8 * w)
  | .slliUw => nw (w <<< sh)
  | .andn => x &&& ~~~y
  | .orn => x ||| ~~~y
  | .xnor => ~~~(x ^^^ y)
  | .max => if x.toInt < y.toInt then y else x
  | .maxu => if a < b then y else x
  | .min => if x.toInt < y.toInt then x else y
  | .minu => if a < b then x else y
  | .rol => x.rotateLeft sh
  | .ror => x.rotateRight sh
  | .rolw => sw (((BitVec.ofNat 32 w).rotateLeft s5).toNat)
  | .rorw => sw (((BitVec.ofNat 32 w).rotateRight s5).toNat)
  | .clz => nw (leadZ 64 a)
  | .ctz => nw (trailZ 64 a)
  | .cpop => nw (popc 64 a)
  | .clzw => nw (leadZ 32 w)
  | .ctzw => nw (trailZ 32 w)
  | .cpopw => nw (popc 32 w)
  | .sextB => sx 8 a
  | .sextH => sx 16 a
  | .zextH => nw (a % 2 ^ 16)
  | .orcB => nw (pack 8 (fun i => if bits a (8 * i + 7) (8 * i) = 0 then 0 else 255) 8)
  | .rev8 => nw (pack 8 (fun i => bits a (63 - 8 * i) (56 - 8 * i)) 8)

def rvTaken (c : RvCond) (x y : Word) : Bool :=
  match c with
  | .eq => x == y
  | .ne => x != y
  | .lt => decide (x.toInt < y.toInt)
  | .ge => decide (y.toInt ≤ x.toInt)
  | .ltu => decide (x.toNat < y.toNat)
  | .geu => decide (y.toNat ≤ x.toNat)

/-- An atomic's new value, n bytes wide. -/
def rvAmoVal (o : RvAmo) (n old y : Nat) : Nat :=
  let m := 2 ^ (8 * n)
  match o with
  | .swap => y % m
  | .add => (old + y) % m
  | .xor => old ^^^ (y % m)
  | .and => old &&& (y % m)
  | .or => old ||| (y % m)
  | .min => if sgn (8 * n) old < sgn (8 * n) y then old else y % m
  | .max => if sgn (8 * n) old < sgn (8 * n) y then y % m else old
  | .minu => if old < y % m then old else y % m
  | .maxu => if old < y % m then y % m else old

/-! ## One instruction -/

/-- The end of an instruction that retires: counters, the step budget in user mode (R419), the next pc. `counts` is
false for the jx.recv that arms the budget; `noInst` when the instruction wrote minstret. -/
def retireHart (s : State) (user : Bool) (pc : Word) (counts noInst : Bool) : State :=
  let h := curHart s
  let less : Option Nat := match h.ep with
    | some e => let x := epGet s e
      if user && epArm x && imgF x 0x10 8 != 0 && counts && h.irem != 0 then some e else none
    | none => none
  let t := setCur s { h with
    pc := pc, wait := none, mcycle := if h.mcountinhibit.getLsbD 0 then h.mcycle else h.mcycle + 1,
    minstret := if noInst ∨ h.mcountinhibit.getLsbD 2 then h.minstret else h.minstret + 1,
    irem := if less.isSome then h.irem - 1 else h.irem }
  match less with
  | some e => engWr t (epAddr t e + 0x20) 8 (h.irem - 1).toNat
  | none => t

/-- Write rd and go to a pc. -/
def hartDone (s : State) (rd : BitVec 5) (v pc : Word) : HAct :=
  let user := !(curHart s).machine
  .ok (retireHart (updHart s (fun h => h.wr rd v)) user pc true false)

/-- CSR instructions: op 1 writes, 2 sets, 3 clears. -/
def hartCsr (s : State) (op : BitVec 2) (imm : Bool) (rd rs1 : BitVec 5) (num : Nat) (next : Word) (raw : Nat) : HAct :=
  let h := curHart s
  let write := op == 1 || rs1 != 0
  let x := if imm then rs1.toNat else (h.rd rs1).toNat
  if ¬csrAllowed s num write then .error (2, raw)
  else
    let old := (csrGet s num).getD 0
    let new := if op = 1 then x else if op = 2 then old ||| x else old &&& (2 ^ 64 - 1 - x)
    let s1 := if write then csrPut s num new else s
    .ok (retireHart (updHart s1 (fun h => h.wr rd (BitVec.ofNat 64 old))) (!h.machine) next true (write && num == 0xB02))

/-- May an atomic or a reservation be made at an address: in memory, or through a neighbour window, at its home (R168)? -/
def atomicAt (a : Nat) : Bool := isMem a || region a == 2

/-- Does a store-conditional whose reservation is held succeed? Through a window its home says so, a free value (log 16). -/
def scHolds (s : State) (a : Nat) : State × Bool :=
  if isMem a then (s, true) else let (t, v) := draw s
    (t, v % 2 == 0)

/-- The meaning of a standard instruction on the current hart; `raw` is its bits for mtval. -/
def rvRun (i : RvInstr) (next : Word) (raw : Nat) (s : State) : HAct :=
  let h := curHart s
  let r (n : BitVec 5) : Word := h.rd n
  match i with
  | .lui rd imm => hartDone s rd imm next
  | .auipc rd imm => hartDone s rd (h.pc + imm) next
  | .jal rd off => hartDone s rd next (h.pc + off)
  | .jalr rd rs1 off => hartDone s rd next ((r rs1 + off) &&& ~~~1#64)
  | .branch c rs1 rs2 off => hartDone s 0 0 (if rvTaken c (r rs1) (r rs2) then h.pc + off else next)
  | .load size sg rd rs1 off =>
    match hartLoad s h (r rs1 + off).toNat size .load with
    | .error e => .error e
    | .ok (s1, v) => hartDone s1 rd (if sg then sx (8 * size) v else nw v) next
  | .store size rs1 rs2 off =>
    match hartStore s h (r rs1 + off).toNat size ((r rs2).toNat % 2 ^ (8 * size)) with
    | .error e => .error e
    | .ok s1 => hartDone s1 0 0 next
  | .op o rd rs1 rs2 => hartDone s rd (rvOp o (r rs1) (r rs2)) next
  | .opImm o rd rs1 imm => hartDone s rd (rvOp o (r rs1) imm) next
  | .lr dbl rd rs1 =>
    let n := if dbl then 8 else 4
    let a := (r rs1).toNat
    match (if a % n = 0 then hartCheckAs s h a n .amo .load else none) with
    | some b => .error (5, b)
    | none => match (if a % n ≠ 0 ∨ atomicAt a then hartLoad s h a n .load else .error (5, a)) with
      | .error e => .error e
      | .ok (s1, v) => hartDone (updHart s1 (fun h => { h with resv := some (a / 64 * 64) })) rd (sx (8 * n) v) next
  | .sc dbl rd rs1 rs2 =>
    let n := if dbl then 8 else 4
    let a := (r rs1).toNat
    if a % n ≠ 0 then .error (6, a)
    else match hartCheck s h a n .amo with
      | some b => .error (7, b)
      | none =>
        if h.resv = some (a / 64 * 64) ∧ atomicAt a then
          match scHolds s a with
          | (s0, false) => hartDone (updHart s0 (fun h => { h with resv := none })) rd 1 next
          | (s0, true) => match hartPut s0 a n ((r rs2).toNat % 2 ^ (8 * n)) true with
            | some s1 => hartDone (updHart s1 (fun h => { h with resv := none })) rd 0 next
            | none => .error (7, a)
        else hartDone (updHart s (fun h => { h with resv := none })) rd 1 next
  | .amo o dbl rd rs1 rs2 =>
    let n := if dbl then 8 else 4
    let a := (r rs1).toNat
    match (if a % n = 0 ∧ ¬atomicAt a then .error (7, a) else hartLoad s h a n .amo) with
    | .error e => .error e
    | .ok (s1, v) => match hartPut s1 a n (rvAmoVal o n v (r rs2).toNat) true with
      | some s2 => hartDone s2 rd (sx (8 * n) v) next
      | none => .error (7, a)
  | .csr op imm rd rs1 num => hartCsr s op imm rd rs1 num.toNat next raw
  | .fence => hartDone s 0 0 next
  | .fenceI => hartDone s 0 0 next
  | .ecall => .error (if h.machine then 11 else 8, 0)
  | .ebreak => .error (3, h.pc.toNat)
  | .mret =>
    if ¬h.machine then .error (2, raw)
    else
      let mpp := bits h.mstatus.toNat 12 11
      let m1 := setMst h.mstatus (h.mstatus.getLsbD mstMPIE) true 0
      .ok (retireHart (updHart s (fun k => { k with machine := mpp == 3, mstatus := if mpp = 3 then m1 else m1 &&& ~~~(1#64 <<< 17) })) false
        h.mepc true false)
  | .wfi => if ¬h.machine ∧ h.mstatus.getLsbD 21 then .error (2, raw) else hartDone s 0 0 next

/-- Turn a hart's outcome into the next state; a cause with bit 63 set is an interrupt. -/
def hartSettle (s : State) : HAct → Host.Outcome State Fault Refusal
  | .ok t => .next t
  | .error (c, v) =>
    if 2 ^ 63 ≤ c then .next (updHart s (fun h => hartTrap h true (c - 2 ^ 63) 0))
    else .next (updHart s (fun h => hartTrap { h with mcycle := if h.mcountinhibit.getLsbD 0 then h.mcycle else h.mcycle + 1 } false c (BitVec.ofNat 64 v)))

/-- The bits of the instruction at the pc, as an illegal instruction reports them in mtval (log 16). -/
def hartRaw (s : State) : Nat :=
  let pc := (curHart s).pc.toNat
  let lo := hartCode s pc
  if lo % 4 = 3 then lo + hartCode s (pc + 2) * 65536 else lo

/-- HART_INSTRUCTION: a hart executes one standard instruction (R393). -/
def execHartInstruction (rv : RvInstr) (compressed : Bool) (s : State) : Host.Outcome State Fault Refusal :=
  hartSettle s (rvRun rv ((curHart s).pc + (if compressed then 2 else 4)) (hartRaw s) s)

/-- MACHINE_TIMER_INTERRUPT (R393, R520): taken when pending and enabled. -/
def execMachineTimerInterrupt (s : State) : Host.Outcome State Fault Refusal :=
  .next (if hartIrq s 7 then updHart s (fun h => hartTrap h true 7 0) else s)

/-- JWI (R420). -/
def execJwi (s : State) : Host.Outcome State Fault Refusal :=
  .next (if hartIrq s 16 then updHart s (fun h => hartTrap h true 16 0) else s)

/-- JACK_WRITE (R420). -/
def execJackWrite (v : BitVec 64) (s : State) : Host.Outcome State Fault Refusal := .next (jackWrite s v.toNat)

end Sys2Proof.Machine
end

