-- ==== Sys2Proof/Machine/Sinter.lean ====
section
/-! DEFINITION. The Sinter unit: summary objects, building, merging and queries (R356 to R372), and the words of major
0x17 (R373 to R389). -/
namespace Sys2Proof.Machine

/-! ## Summary objects (R356 to R361) -/

def sat (w x : Nat) : Nat := min x (2 ^ w - 1)

/-- A summary as its rules see it; `fresh` numbers the next entropy draw (log 5). -/
structure Sk where
  typ : Nat
  fl : Nat
  src : Nat
  lbl : Nat
  count : Nat
  mn : Nat
  mx : Nat
  st : BitVec 64
  gen : Nat
  nan : Nat
  drop : Nat
  lv : List (List Nat)
  ents : List (Nat × Nat × Nat)
  regs : List Nat
  fresh : Nat
  deriving DecidableEq, Repr

def skSize (typ : Nat) : Nat := if typ = 1 then 16384 else 4096
def skLc (img l : Nat) : Nat := rf img (0x40 + 2 * l) 2

/-- Well-formed (R361). -/
def skOk (img : Nat) : Bool :=
  match rf img 0 1 with
  | 1 => (List.range 30).all (fun l => decide (skLc img l ≤ 127))
  | 2 => decide (rf img 0x30 2 ≤ 240)
  | 3 => true
  | _ => false

def skBad (img : Nat) : Bool := bit (rf img 1 1) 1
def skSealed (img : Nat) : Bool := bit (rf img 1 1) 0

/-- CHK of an object of n bytes (R356). -/
def skCrc (img n : Nat) : Nat := (crc32c (leBytes 0xFC (img % 2 ^ 2016) ++ leBytes (n - 0x100) (rf img 0x100 (n - 0x100)))).toNat

def skDecode (img fresh : Nat) : Sk :=
  let typ := rf img 0 1
  { typ := typ, fl := rf img 1 1 % 16, src := rf img 2 1, lbl := rf img 4 4, count := rf img 8 8, mn := rf img 0x10 4, mx := rf img 0x14 4,
    st := BitVec.ofNat 64 (rf img 0x18 8), gen := rf img 0x20 4, nan := rf img 0x24 4, drop := rf img 0x28 8,
    lv := if typ = 1 then (List.range 30).map (fun l => (List.range (skLc img l)).map (fun j => rf img (0x100 + 512 * l + 4 * j) 4)) else [],
    ents := if typ = 2 then (List.range (rf img 0x30 2)).map (fun e =>
      (rf img (0x100 + 16 * e) 4, rf img (0x104 + 16 * e) 4, rf img (0x108 + 16 * e) 8)) else [],
    regs := if typ = 3 then (List.range 4096).map (fun i => elem (rf img 0x100 3072) 6 i) else [], fresh := fresh }

/-- The object's bytes, CHK left zero; reserved bytes are written as zero (R10). -/
def skEncode (k : Sk) : Nat :=
  k.typ + (k.fl <<< 8) + (k.src <<< 16) + (k.lbl <<< 32) + (k.count <<< 64) + (k.mn <<< 128) + (k.mx <<< 160) + (k.st.toNat <<< 192)
    + (k.gen <<< 256) + (k.nan <<< 288) + (k.drop <<< 320) + (k.ents.length <<< 384)
    + (packL 16 (k.lv.map (·.length)) <<< 512)
    + (packL 4096 (k.lv.map (packL 32)) <<< 2048)
    + (packL 128 (k.ents.map (fun e => e.1 + (e.2.1 <<< 32) + (e.2.2 <<< 64))) <<< 2048)
    + (packL 6 k.regs <<< 2048)

/-- Bytes a to b - 1 of an object, in place. -/
def skKeep (img a b : Nat) : Nat := rf img a (b - a) <<< (8 * a)

/-- An object of n bytes with its reserved bytes zero (R10), and N and LC zero where its TYPE ignores them (R356). Of one that is
not well-formed, or whose TYPE has another size, those of its TYPE: the header's, 0x3D00-0x3FFF of a QSK (R358), 0xD00-0xFFF of a
DCR (R360); its other bytes stay. -/
def skClear (img n : Nat) : Nat :=
  let typ := rf img 0 1
  if skOk img ∧ skSize typ = n then skEncode (skDecode img 0)
  else
    typ + ((rf img 1 1 % 16) <<< 8) + (rf img 2 1 <<< 16) + skKeep img 4 0x30
      + (if typ = 1 ∨ typ = 3 then 0 else skKeep img 0x30 0x32) + (if typ = 2 ∨ typ = 3 then 0 else skKeep img 0x40 0x7C)
      + skKeep img 0xFC 0x100
      + (if typ = 1 then skKeep img 0x100 (min n 0x3D00) + skKeep img 0x4000 n
         else if typ = 3 then skKeep img 0x100 (min n 0xD00) + skKeep img 0x1000 n else skKeep img 0x100 n)

/-- Seal an object of n bytes (R383). -/
def skSealImg (img n : Nat) : Nat :=
  let x := (img % 2 ^ 8 + (((rf img 1 1) ||| 1) <<< 8) + (rf img 2 0xFA <<< 16)) + (rf img 0x100 (n - 0x100) <<< 2048)
  x + (skCrc x n <<< 2016)

/-! ## Building (R357, R362 to R366) -/

def skKey (x : Nat) : Nat := if bit x 31 then 2 ^ 32 - 1 - x else x + 2 ^ 31
def skUnkey (k : Nat) : Nat := if bit k 31 then k - 2 ^ 31 else 2 ^ 32 - 1 - k
def isNan32 (x : Nat) : Bool := bits x 30 23 == 255 && bits x 22 0 != 0
/-- MIN and MAX compare by key in a QSK object. -/
def skOrd (typ x : Nat) : Nat := if typ = 1 then skKey x else x

/-- A coin bit (R362). -/
def coin (k : Sk) : Nat × Sk :=
  let b := (mix64 k.st).toNat / 2 ^ 63
  let k1 := { k with st := k.st + 0x9E3779B97F4A7C15#64 }
  if bit k.fl 2 then ((Config.entropy k.fresh).toNat % 2, { k1 with fresh := k.fresh + 1 }) else (b, k1)

def insertNat (x : Nat) : List Nat → List Nat
  | [] => [x]
  | y :: ys => if x ≤ y then x :: y :: ys else y :: insertNat x ys
def sortNat (l : List Nat) : List Nat := l.foldr insertNat []

/-- Elements 2j + c of a sorted list of n keys, j < n div 2. -/
def riseKeys (c : Nat) (l : List Nat) : List Nat := (List.range (l.length / 2)).map (fun j => l.getD (2 * j + c) 0)

/-- Compaction of level l (R364). -/
def compactLv (k : Sk) (l : Nat) : Sk :=
  let (c, k1) := coin k
  let s := sortNat (k.lv.getD l [])
  let up := riseKeys c s
  let rest := if s.length % 2 = 1 then [s.getLastD 0] else []
  if l = 29 then
    { k1 with lv := k.lv.set 29 rest, drop := sat 64 (k.drop + up.length * 2 ^ 30), fl := k.fl ||| 8 }
  else { k1 with lv := (k.lv.set l rest).set (l + 1) (k.lv.getD (l + 1) [] ++ up) }

/-- Settle (R363): compact the lowest level of 128 keys or more while there is one. Fuel: each compaction empties one
level of a chain of 30, and at most two of them can fill a level again. -/
def settleSk : Nat → Sk → Sk
  | 0, k => k
  | f + 1, k =>
    match k.lv.findIdx? (fun l => decide (128 ≤ l.length)) with
    | some l => settleSk f (compactLv k l)
    | none => k
def skFuel : Nat := 4096

/-- COUNT, MIN and MAX for one key. -/
def seenKey (k : Sk) (x : Nat) : Sk :=
  { k with
    count := sat 64 (k.count + 1), mn := if skOrd k.typ x < skOrd k.typ k.mn then x else k.mn,
    mx := if skOrd k.typ k.mx < skOrd k.typ x then x else k.mx }

def qadd (k : Sk) (x : Nat) : Sk :=
  if isNan32 x then { k with nan := sat 32 (k.nan + 1) }
  else
    let k1 := seenKey k x
    settleSk skFuel { k1 with lv := k1.lv.set 0 (k1.lv.headD [] ++ [skKey x]) }

/-- The entry of least CNT, the lowest index among equals. -/
def leastEnt (l : List (Nat × Nat × Nat)) : Nat :=
  ((List.zipIdx l).foldl (fun (acc : Option (Nat × Nat)) e => match acc with
    | some (c, i) => if e.1.2.2 < c then some (e.1.2.2, e.2) else some (c, i)
    | none => some (e.1.2.2, e.2)) none).elim 0 (·.2)

/-- Space-saving replacement (R365). -/
def hadd (k0 : Sk) (x : Nat) : Sk :=
  let k := seenKey k0 x
  match k.ents.findIdx? (fun e => e.1 == x) with
  | some i => let e := k.ents.getD i (0, 0, 0)
    { k with ents := k.ents.set i (e.1, e.2.1, sat 64 (e.2.2 + 1)) }
  | none =>
    if k.ents.length < 240 then { k with ents := k.ents ++ [(x, 0, 1)] }
    else
      let i := leastEnt k.ents
      let e := k.ents.getD i (0, 0, 0)
      { k with ents := k.ents.set i (x, sat 32 e.2.2, sat 64 (e.2.2 + 1)) }

/-- Register and rank of a DCR key (R366). -/
def dadd (k0 : Sk) (x : Nat) : Sk :=
  let k := seenKey k0 x
  let h := (mix64 (BitVec.ofNat 64 x)).toNat
  let i := h / 2 ^ 52
  let f := h % 2 ^ 52
  let rho := if f = 0 then 53 else 52 - Nat.log2 f
  { k with regs := k.regs.set i (max (k.regs.getD i 0) rho) }

def skAdd (k : Sk) (keys : List Nat) : Sk :=
  if k.typ = 1 then keys.foldl qadd k else if k.typ = 2 then keys.foldl hadd k else keys.foldl dadd k

/-- SL and CHK cleared. -/
def unsealSk (k : Sk) : Sk := { k with fl := k.fl / 2 * 2 }

/-! ## Merging (R367 to R370) -/

/-- CNT descending, then KEY ascending. -/
def entBefore (a b : Nat × Nat × Nat) : Bool := decide (b.2.2 < a.2.2) || (a.2.2 == b.2.2 && decide (a.1 ≤ b.1))
def insertEnt (x : Nat × Nat × Nat) : List (Nat × Nat × Nat) → List (Nat × Nat × Nat)
  | [] => [x]
  | y :: ys => if entBefore x y then x :: y :: ys else y :: insertEnt x ys
def canonical (l : List (Nat × Nat × Nat)) : List (Nat × Nat × Nat) := l.foldr insertEnt []

def unionEnt (l : List (Nat × Nat × Nat)) (e : Nat × Nat × Nat) : List (Nat × Nat × Nat) :=
  match l.findIdx? (fun x => x.1 == e.1) with
  | some i => let x := l.getD i (0, 0, 0)
    l.set i (x.1, sat 32 (x.2.1 + e.2.1), sat 64 (x.2.2 + e.2.2))
  | none => l ++ [e]

def zipWithLong (f : List Nat → List Nat → List Nat) (a b : List (List Nat)) : List (List Nat) :=
  (List.range 30).map (fun i => f (a.getD i []) (b.getD i []))

def skMerge (a b : Sk) : Sk :=
  let h : Sk := { a with
    st := mix64 (a.st ^^^ b.st), count := sat 64 (a.count + b.count), drop := sat 64 (a.drop + b.drop), nan := sat 32 (a.nan + b.nan),
    mn := if skOrd a.typ b.mn < skOrd a.typ a.mn then b.mn else a.mn, mx := if skOrd a.typ a.mx < skOrd a.typ b.mx then b.mx else a.mx,
    gen := sat 32 (max a.gen b.gen + 1), lbl := a.lbl ||| b.lbl, fl := (a.fl ||| (b.fl &&& 12)) / 2 * 2 }
  if a.typ = 1 then settleSk skFuel { h with lv := zipWithLong (· ++ ·) a.lv b.lv }
  else if a.typ = 2 then { h with ents := (canonical (b.ents.foldl unionEnt a.ents)).take 240 }
  else { h with regs := (a.regs.zip b.regs).map (fun p => max p.1 p.2) }

/-! ## Merging in routers (R371, R372) -/

/-- A pulled summary fails: malformed, of another type, or sealed with a wrong CHK. -/
def pullFails (typ img : Nat) : Bool :=
  !skOk img || rf img 0 1 != typ || (skSealed img && skCrc img (skSize typ) != rf img 0xFC 4)

def orByte (img o v : Nat) : Nat := img ||| (v <<< (8 * o))

/-- The accumulator after pulling summary b, and the next draw number. -/
def routerMerge (typ : Nat) (acc : Option Nat) (b fresh : Nat) : Nat × Nat :=
  let fails := pullFails typ b
  match acc with
  | none => (if fails then orByte b 1 2 else b, fresh)
  | some a =>
    if fails ∨ skBad a ∨ skBad b then (orByte (orByte a 1 2) 4 (rf b 4 4), fresh)
    else
      let m := skMerge (skDecode a fresh) (skDecode b fresh)
      (skEncode m, m.fresh)

/-! ## Queries (R384 to R388) -/

/-- Stored keys with their weights, in ascending key order. -/
def weighted (k : Sk) : List (Nat × Nat) :=
  ((List.zipIdx k.lv).flatMap (fun e => e.1.map (fun x => (x, 2 ^ e.2)))).foldr (fun x l =>
    let rec ins : List (Nat × Nat) → List (Nat × Nat)
      | [] => [x]
      | y :: ys => if x.1 ≤ y.1 then x :: y :: ys else y :: ins ys
    ins l) []

def skWeight (k : Sk) : Nat := ((List.zipIdx k.lv).map (fun e => e.1.length * 2 ^ e.2)).sum

/-- The first key at which the running weight reaches t. -/
def reach (t : Nat) : Nat → List (Nat × Nat) → Nat
  | _, [] => 0
  | run, (x, w) :: r => if t ≤ run + w then x else reach t (run + w) r

def quantile (k : Sk) (p : Nat) : Nat :=
  let w := skWeight k
  if w = 0 then 0x7FC00000 else if p = 0 then k.mn else if p = 65536 then k.mx
  else skUnkey (reach (divUp (p * w) 65536) 0 (weighted k))

def quantAnswer (k : Sk) (sb : Nat) : Nat :=
  let lo := quantile k (bits sb 16 0)
  let hi := quantile k (bits sb 48 32)
  if bits sb 63 62 = 0 then lo + (hi <<< 32)
  else
    let d := (roundF fmtF32 ((decodeF fmtF32 hi).add false (decodeF fmtF32 lo).neg).1 0).1
    quantile k 32768 + (d <<< 32)

def rankAnswer (k : Sk) (x : Nat) : Nat :=
  if isNan32 x then skWeight k else (((weighted k).filter (fun e => decide (e.1 ≤ skKey x))).map (·.2)).sum

def topAnswer (k : Sk) (sb : Nat) : Nat :=
  match (canonical k.ents)[sb % 256]? with
  | some e => if bit sb 8 then e.2.2 else (e.1 <<< 32) + min e.2.2 (2 ^ 32 - 1)
  | none => 0

/-- 2 atanh(n / d) in 160-bit fixed point, rounded down, k terms left. -/
def atanh2 (n d : Nat) : Nat → Nat → Nat → Nat
  | 0, _, _ => 0
  | k + 1, z, i => 2 * z / (2 * i + 1) + atanh2 n d k (z * n * n / (d * d)) (i + 1)

/-- ln(n / d) for n > d > 0, below the true value by less than 2^-140 (R387). -/
def lnFix (n d : Nat) : Nat :=
  let e := Nat.log2 (n / d)
  let m := d * 2 ^ e
  let one := 2 ^ 160
  e * atanh2 1 3 60 (one / 3) 0 + (if n = m then 0 else atanh2 (n - m) (n + m) 60 (one * (n - m) / (n + m)) 0)

def cardAnswer (k : Sk) : Nat :=
  let v := (k.regs.filter (· == 0)).length
  let s := (k.regs.map (fun d => 2 ^ (63 - d))).sum
  let n := 7213 * (1000 * 4096) * 4096 ^ 2 * 2 ^ 63
  let d := 10000 * (1000 * 4096 + 1079) * s
  let e : Fv :=
    if n ≤ 10240 * d ∧ 0 < v then (if v = 4096 then .fin false 0 1 else sticky (4096 * lnFix 4096 v / 2 ^ 40) 120 false)
    else .fin false n d
  (roundF fmtF32 e 0).1 + (v <<< 32)

def chkAnswer (img n : Nat) : Nat :=
  b2n (!skOk img) + 2 * b2n (skBad img) + 4 * b2n (skSealed img && skCrc img n != rf img 0xFC 4) + 8 * b2n (!skSealed img)

/-! ## The words (R373 to R378) -/

/-- Refused for a run-time value (R375). -/
def skRefuse (t : State) (code : Nat) : Stop := illegal t 11 code

/-- Held until the interval of the previous word ends (R376). -/
def skHold (t : State) (act : Act) : Act := if t.core.skBusy ≠ 0 then .error .hold else act

/-- An object as a word finds it. -/
structure SkObj where
  va : Nat
  size : Nat
  img : Nat
  lab : Label
  /-- Every line of it is a stash line with PROV 1 (R465). -/
  prov : Bool

/-- Does every line of the object lie in the stash with PROV 1 (R465)? -/
def skProv (s : State) (va n : Nat) : Bool :=
  (lineVas va n).all (fun a => provAt s s.core.who a == some 1)

/-- How an object's access fails: for one that lies partly in a window TR_INFO tells the size and bit 4 the update word, as
for the conditions above it (R374). -/
def skAcc (t : State) (e : AErr) (va sz : Nat) (word : Bool) : Stop :=
  match e with
  | .stash 4 => .trap 0xE (accInfo sz word false false) va
  | _ => accStop t e va sz word false

/-- Of two causes of one word the one reported: a machine check, then the lowest code (R35); a hold gives way to a trap. -/
def lowerStop (a b : Stop) : Stop :=
  let rank : Stop → Nat := fun e => match e with
    | .trap c _ _ => if c = 0x15 then 0 else c
    | _ => 0x40
  if rank b < rank a then b else a

/-- Read an object: its header, then all of it (R374). `size` 0 takes the size from TYPE; `word` says whether the word is
an update word, which TR_INFO bit 4 tells. -/
def skOpen (t : State) (upd : Bool) (va size : Nat) (word : Bool := upd) : Except Stop (State × SkObj) :=
  let kind : Kind := if upd then .rmw else .read
  if va % 4096 ≠ 0 then .error (accStop t .mis va 4096 word false)
  else
    match (if size ≠ 0 then Except.ok size else (readBytes t t.core.who va 256 kind).map (fun x => skSize (x.2.1 % 256))) with
    | .error (e, a) => .error (skAcc t e a 4096 word)
    | .ok n =>
      if va % n ≠ 0 then .error (accStop t .mis va n word false)
      else
        let pr := skProv t va n
        match readBytes t t.core.who va n kind with
        | .error (e, a) => .error (skAcc t e a n word)
        | .ok (t1, img, l) => .ok (t1, ⟨va, n, img, l, pr⟩)

/-- Refusals of R375 that look at the objects: not well-formed, of another type, BAD. -/
def skObjCode (want : Option Nat) (l : List SkObj) : Option Nat :=
  if l.any (fun o => !skOk o.img) then some 1
  else if l.any (fun o => match want with | some w => rf o.img 0 1 != w | none => rf o.img 0 1 != rf ((l.headD ⟨0, 0, 0, 0, false⟩).img) 0 1) then some 2
  else if l.any (fun o => skBad o.img) then some 3
  else none

/-- An object as its header alone shows it; none when that cannot be read. -/
def skHead (t : State) (upd : Bool) (va : Nat) : Option SkObj :=
  if va % 4096 ≠ 0 then none
  else match readBytes t t.core.who va 256 (if upd then .rmw else .read) with
    | .ok (_, img, l) => some ⟨va, skSize (img % 256), img, l, false⟩
    | .error _ => none

/-- A word whose objects cannot all be opened is refused for what their headers show all the same, code 0x02 being the
lower cause (R35, R375). -/
def skStop (t : State) (e : Stop) (heads : Option (List SkObj)) (code : List SkObj → Option Nat) : Stop :=
  match heads.bind code with
  | some c => lowerStop e (skRefuse t c)
  | none => e

/-- A word refused with code 0, which its operands show before its object is read: a machine check that the object meets is
reported before it (R35, R375). -/
def skFirst (t : State) (upd : Bool) (va size : Nat) : Stop :=
  match skOpen t upd va size with
  | .error e => lowerStop (skRefuse t 0) e
  | .ok _ => skRefuse t 0

/-- A part of an object, and where a window does not take its page (R191, reason 5) what memory holds there, with its label. -/
def skPart (t : State) (kind : Kind) (p : Nat × Nat) : Option (State × Nat × Label) :=
  match readVa t t.core.who p.1 p.2 kind with
  | .ok r => some r
  | .error (.stash _) => (translate t p.1 t.core.who.vf t.core.who.part t.core.who.prv p.2 kind).toOption.map (fun x =>
      (t, if isMem x.1.pa then readPa t x.1.pa p.2 else 0, pageLabel t t.core.who.part x.1))
  | .error _ => none

def skSpan (t : State) (kind : Kind) : List (Nat × Nat) → Option (State × Nat × Label)
  | [] => some (t, 0, 0)
  | p :: l => match skPart t kind p with
    | none => none
    | some (t1, v, m) => (skSpan t1 kind l).map (fun r => (r.1, v + (r.2.1 <<< (8 * p.2)), m ||| r.2.2))

/-- An object that meets a stash map fault, as its lines show it all the same. -/
def skLines (t : State) (upd : Bool) (va size : Nat) : Option (State × SkObj) :=
  let kind : Kind := if upd then .rmw else .read
  let n := if size ≠ 0 then size else match skSpan t kind (spanParts va 256) with
    | some (_, h, _) => skSize (h % 256)
    | none => 4096
  (skSpan t kind (spanParts va n)).map (fun r => (r.1, ⟨va, n, r.2.1, r.2.2, skProv t va n⟩))

/-- An update word whose object lies partly in a window, or in one whose page it does not take: the label fault of its write, if it writes and meets one too, is the
lower cause (R35, R98, R374). -/
def skLabelStop (t : State) (e : Stop) (va size : Nat) (lab : Label) (writes : State → SkObj → Bool) : Stop :=
  match e with
  | .trap 0xE _ _ =>
    (match skLines t true va size with
    | some (t1, o) =>
      if writes t1 o then
        (match (partErrors va o.size (fun a c => errOf (writeVa t1 t1.core.who a c 0 (o.lab ||| lab) 0))).find? (fun x => x.1.rank == 8) with
        | some (x, a) => accStop t x a o.size true false
        | none => e)
      else e
    | none => e)
  | _ => e

/-- As `skLabelStop`, for sk.merge: what it writes to A carries the label of B too (R381). -/
def skMergeStop (t : State) (e : Stop) (va vb : Nat) (lab : Label) : Stop :=
  match skLines t false vb 0 with
  | some (_, ob) => skLabelStop t e va 0 (ob.lab ||| lab) (fun _ _ => true)
  | none => e

/-- Write an object back (R377, R378): its label joins LBL. -/
def skPut (t : State) (o : SkObj) (k : Sk) (sealIt : Bool) (lab : Label) (prov : Bool) (iv : Nat) : Act :=
  let img := skEncode { k with lbl := k.lbl ||| lab.toNat }
  let img' := if sealIt then skSealImg img o.size else img
  match writeBytes t t.core.who o.va o.size img' lab (if prov then 1 else 0) with
  | .error (e, a) => .error (skAcc t e a o.size true)
  | .ok t1 => .ok { t1 with core := { t1.core with skBusy := iv }, fresh := max t1.fresh k.fresh }

/-- An update word on one object: f of the object gives the new summary, or none to write nothing. -/
def skUpdate (i : Info) (aa : BitVec 4) (want : Option Nat) (bad0 : State → Bool) (bad : State → SkObj → Option Nat)
    (sealIt : Bool) (iv : State → SkObj → Nat) (f : State → SkObj → Option Sk) (s : State) : Host.Outcome State Fault Refusal :=
  tile i true s fun t => skHold t <|
    if bad0 t then .error (skFirst t true (t.core.rdA aa).v.toNat 0)
    else
      let code (o : SkObj) : Option Nat := (bad t o).orElse (fun _ => skObjCode want [o])
      match skOpen t true (t.core.rdA aa).v.toNat 0 with
      | .error e => .error (skStop t (skLabelStop t e (t.core.rdA aa).v.toNat 0 (readLabel t.core i.rd) (fun t1 o => (f t1 o).isSome)) ((skHead t true (t.core.rdA aa).v.toNat).map (fun o => [o])) (fun l => l.head?.bind code))
      | .ok (t1, o) =>
        match code o with
        | some c => .error (skRefuse t c)
        | none =>
          match f t1 o with
          | none => .ok { t1 with core := { t1.core with skBusy := iv t o } }
          | some k => skPut t1 o k sealIt (o.lab ||| readLabel t1.core i.rd) o.prov (iv t o)

/-- Cycles of a word by object type (R376). -/
def skIv (o : SkObj) (q h : Nat) : Nat := if rf o.img 0 1 = 1 then q else h

def initNames (sb : Nat) : List RegName := if bits sb 3 2 = 1 then namedG (bits sb 9 4) 1 else []

/-- The pod endpoint address of a core (R3); a core of another package is named by 2^20 plus its endpoint. -/
def endpoint (s : State) (n : Nat) : Nat := if n < 2 ^ 20 then (s.dev.pod.toNat <<< 8) + n else n - 2 ^ 20

/-- sk.init (R379). -/
def execSkInit (q a : BitVec 4) (b : BitVec 5) (s : State) :=
  let x := (s.core.rdS b).v.toNat
  let i := (infoSkInit q a b).naming (initNames x)
  tile i true s fun t => skHold t <|
    let typ := x % 4
    let src := bits x 3 2
    if x >>> 10 ≠ 0 ∨ src = 3 ∨ typ = 0 then .error (skFirst t true (t.core.rdA a).v.toNat (if typ = 0 then 256 else skSize typ))
    else match skOpen t true (t.core.rdA a).v.toNat (skSize typ) with
      | .error e => .error (skLabelStop t e (t.core.rdA a).v.toNat (skSize typ)
          (readLabel t.core i.rd ||| (if src = 0 then t.core.skSeed.l else 0)) (fun _ _ => true))
      | .ok (t1, o) =>
        let st : BitVec 64 :=
          if src = 0 then t1.core.skSeed.v
          else if src = 1 then mix64 (mix64 (ctlG t1.core (bits x 9 4)) ^^^ BitVec.ofNat 64 (endpoint t1 t1.coreNo))
          else Config.entropy t1.fresh
        let lab := readLabel t1.core i.rd ||| (if src = 0 then t1.core.skSeed.l else 0)
        let k : Sk := {
          typ := typ, fl := (if src = 2 then 4 else 0), src := src, lbl := 0, count := 0,
          mn := (if typ = 1 then 0x7F800000 else 0xFFFFFFFF), mx := (if typ = 1 then 0xFF800000 else 0), st := st, gen := 0, nan := 0, drop := 0,
          lv := if typ = 1 then List.replicate 30 [] else [], ents := [], regs := if typ = 3 then List.replicate 4096 0 else [],
          fresh := t1.fresh + (if src = 2 then 1 else 0) }
        skPut t1 o k false lab true (if typ = 1 then 64 else 16)

/-- The adds (R380). -/
def skAddWord (i : Info) (a : BitVec 4) (v b : BitVec 5) (typ : Nat) (s : State) : Host.Outcome State Fault Refusal :=
  let n (t : State) : Nat := (t.core.rdS b).v.toNat
  skUpdate i a (some typ) (fun t => decide (128 < n t)) (fun _ _ => none) false
    (fun t _ => max 1 (if typ = 1 then divUp (n t) 64 else if typ = 2 then divUp (n t) 16 else 1))
    (fun t o => if n t = 0 then none
      else some (unsealSk (skAdd (skDecode o.img t.fresh) ((List.range (n t)).map (fun j => elem (t.core.rdV v).v.toNat 32 j))))) s

def execSkQadd (q a : BitVec 4) (v b : BitVec 5) (s : State) := skAddWord (infoSkQadd q a v b) a v b 1 s
def execSkHadd (q a : BitVec 4) (v b : BitVec 5) (s : State) := skAddWord (infoSkHadd q a v b) a v b 2 s
def execSkDadd (q a : BitVec 4) (v b : BitVec 5) (s : State) := skAddWord (infoSkDadd q a v b) a v b 3 s

/-- sk.merge (R374, R381). -/
def execSkMerge (q a b : BitVec 4) (s : State) :=
  let i := infoSkMerge q a b
  tile i true s fun t => skHold t <|
    let va := (t.core.rdA a).v.toNat
    let vb := (t.core.rdA b).v.toNat
    let heads : Option (List SkObj) := some ((skHead t true va).toList ++ (skHead t false vb).toList)
    match skOpen t true va 0 with
    | .error e => .error (skStop t (skMergeStop t (match skOpen t false vb 0 true with
        | .error e2 => lowerStop e e2
        | .ok _ => e) va vb (readLabel t.core i.rd)) heads (skObjCode none))
    | .ok (t1, oa) => match skOpen t1 false vb 0 true with
      | .error e => .error (skStop t (skMergeStop t e va vb (readLabel t.core i.rd)) heads (skObjCode none))
      | .ok (t2, ob) =>
        match skObjCode none [oa, ob] with
        | some c => .error (skRefuse t c)
        | none =>
          let m := skMerge (skDecode oa.img t2.fresh) (skDecode ob.img t2.fresh)
          let res := skPut t2 oa m false (oa.lab ||| ob.lab ||| readLabel t2.core i.rd) (oa.prov && ob.prov) (skIv oa 192 48)
          if meets oa.va oa.size ob.va ob.size then
            (match res with
            | .error (.trap c x y) => .error (if c < 0x10 ∨ c = 0x15 then .trap c x y else .trap 0x10 0 (max oa.va ob.va))
            | _ => .error (.trap 0x10 0 (max oa.va ob.va)))
          else res

/-- sk.compact (R382). -/
def execSkCompact (q a : BitVec 4) (b : BitVec 5) (s : State) :=
  let x (t : State) : Nat := (t.core.rdS b).v.toNat
  skUpdate (infoSkCompact q a b) a none (fun _ => false)
    (fun t o => match rf o.img 0 1 with
      | 1 => if x t >>> 5 ≠ 0 ∨ 29 ≤ x t then some 0 else none
      | 2 => if x t ≠ 0 then some 0 else none
      | 3 => if skBad o.img then some 3 else some 4
      | _ => none) false (fun _ o => skIv o 4 16)
    (fun t o =>
      let k := skDecode o.img t.fresh
      if k.typ = 1 then (if (k.lv.getD (x t) []).length < 2 then none else some (unsealSk (settleSk skFuel (compactLv k (x t)))))
      else some (unsealSk { k with ents := canonical k.ents })) s

/-- sk.seal (R383). -/
def execSkSeal (q a : BitVec 4) (s : State) :=
  skUpdate (infoSkSeal q a) a none (fun _ => false) (fun _ _ => none) true (fun _ o => skIv o 64 16)
    (fun t o => some (skDecode o.img t.fresh)) s

/-- A query word (R384 to R389). -/
def skQuery (i : Info) (a : BitVec 4) (d : BitVec 5) (want : Option Nat) (bad0 : State → Bool) (f : State → SkObj → Nat) (s : State) :
    Host.Outcome State Fault Refusal :=
  tile i true s fun t => skHold t <|
    if bad0 t then .error (skFirst t false (t.core.rdA a).v.toNat 0)
    else
      let code (o : SkObj) : Option Nat := match want with
        | some w => skObjCode (some w) [o]
        | none => none
      match skOpen t false (t.core.rdA a).v.toNat 0 with
      | .error e => .error (skStop t e ((skHead t false (t.core.rdA a).v.toNat).map (fun o => [o])) (fun l => l.head?.bind code))
      | .ok (t1, o) =>
        match code o with
        | some c => .error (skRefuse t c)
        | none => .ok (push t1 1 (.s d (BitVec.ofNat 64 (f t1 o))) (o.lab ||| readLabel t1.core i.rd))

def execSkQuant (q a : BitVec 4) (d b : BitVec 5) (s : State) :=
  let x (t : State) : Nat := (t.core.rdS b).v.toNat
  skQuery (infoSkQuant q a d b) a d (some 1)
    (fun t => bits (x t) 31 17 != 0 || bits (x t) 61 49 != 0 || decide (65536 < bits (x t) 16 0) || decide (65536 < bits (x t) 48 32)
      || decide (2 ≤ bits (x t) 63 62))
    (fun t o => quantAnswer (skDecode o.img 0) (x t)) s
def execSkRank (q a : BitVec 4) (d b : BitVec 5) (s : State) :=
  let x (t : State) : Nat := (t.core.rdS b).v.toNat
  skQuery (infoSkRank q a d b) a d (some 1) (fun t => x t >>> 32 != 0) (fun t o => rankAnswer (skDecode o.img 0) (x t)) s
def execSkTop (q a : BitVec 4) (d b : BitVec 5) (s : State) :=
  let x (t : State) : Nat := (t.core.rdS b).v.toNat
  skQuery (infoSkTop q a d b) a d (some 2) (fun t => x t >>> 9 != 0 || decide (240 ≤ x t % 256)) (fun t o => topAnswer (skDecode o.img 0) (x t)) s
def execSkCard (q a : BitVec 4) (d : BitVec 5) (s : State) :=
  skQuery (infoSkCard q a d) a d (some 3) (fun _ => false) (fun _ o => cardAnswer (skDecode o.img 0)) s
def execSkChk (q a : BitVec 4) (d : BitVec 5) (s : State) :=
  skQuery (infoSkChk q a d) a d none (fun _ => false) (fun _ o => chkAnswer o.img o.size) s

end Sys2Proof.Machine
end

