-- ==== Sys2Proof/Machine/Trees.lean ====
section
/-! DEFINITION. The collective engine: tree objects, their shape, slots, segments and the words of major 0x1A (R309 to
R355). -/
namespace Sys2Proof.Machine

/-! ## Tree table entries (R309 to R311) -/

/-- An entry of a partition's tree table; st 5 also for an entry that R310 treats as dead. -/
structure TEnt where
  part : Nat
  idx : Nat
  gen : Nat
  st : Nat
  op : Nat
  fmt : Nat
  segl : Nat
  fl : Nat
  mcnt : Nat
  perm : Nat
  desc : Nat
  ncnt : Nat
  root : Nat
  rmap : Nat
  cur : Nat
  hi : Nat
  eseg : Nat
  save : Nat
  deriving DecidableEq, Repr

def TEnt.handle (e : TEnt) : Nat := (e.part <<< 28) + (e.idx <<< 8) + e.gen
def TEnt.key (e : TEnt) : Nat := e.part * 2 ^ 20 + e.idx
def TEnt.skip (e : TEnt) : Nat := e.fl % 4
def TEnt.mode (e : TEnt) : Bool := bit e.fl 2
def TEnt.px (e : TEnt) : Bool := bit e.fl 3
def TEnt.posted (e : TEnt) : Bool := bit e.fl 4
/-- A bit of FL set or cleared. -/
def setBit (x n : Nat) (b : Bool) : Nat := x / 2 ^ (n + 1) * 2 ^ (n + 1) + b2n b * 2 ^ n + x % 2 ^ n
def TEnt.withFl (e : TEnt) (n : Nat) (b : Bool) : TEnt := { e with fl := setBit e.fl n b }

def entAddr (s : State) (part idx : Nat) : Nat := (partAt s part).ttb.toNat + 256 * idx

/-- Does R310 treat the entry's bytes as dead? Of a free entry a HANDLE of 0 is that of an entry written as zero. -/
def entBad (part idx x : Nat) : Bool :=
  let st := rf x 4 1
  let h := rf x 0 4
  decide (5 < st) || rf x 6 1 / 16 != 0 || rf x 8 1 / 64 != 0 || rf x 0x1C 4 / 2 ^ 20 != 0 || rf x 0x29 3 != 0 || x >>> (8 * 0x41) != 0
    || (h != 0 || st != 0) && (h / 256 != part * 2 ^ 20 + idx || st != 0 && h % 256 == 0)

/-- Read entry idx of a partition's table. -/
def readEnt (s : State) (part idx : Nat) : TEnt :=
  let x := readPa s (entAddr s part idx) 256
  { part := part, idx := idx, gen := rf x 0 1, st := if entBad part idx x then 5 else rf x 4 1, op := rf x 5 1, fmt := rf x 6 1,
    segl := rf x 7 1, fl := rf x 8 1, mcnt := rf x 9 3, perm := rf x 0xC 4, desc := rf x 0x10 9, ncnt := rf x 0x19 3, root := rf x 0x1C 4,
    rmap := rf x 0x20 9, cur := rf x 0x2C 4, hi := rf x 0x30 4, eseg := rf x 0x34 4, save := rf x 0x38 9 }


/-- Write an entry back (R311). -/
def writeEnt (s : State) (e : TEnt) : State :=
  engWr s (entAddr s e.part e.idx) 256
    (e.handle + (e.st <<< 32) + (e.op <<< 40) + (e.fmt <<< 48) + (e.segl <<< 56) + (e.fl <<< 64) + (e.mcnt <<< 72) + (e.perm <<< 96)
      + (e.desc <<< 128) + (e.ncnt <<< 200) + (e.root <<< 224) + (e.rmap <<< 256) + ((e.cur % 2 ^ 32) <<< 352) + ((e.hi % 2 ^ 32) <<< 384)
      + ((e.eseg % 2 ^ 32) <<< 416) + (e.save <<< 448))

def treeAt (s : State) (e : TEnt) : Tree := (lookup s.trees e.key).getD Tree.empty
def setTree (s : State) (e : TEnt) (t : Tree) : State :=
  { s with trees := if t = Tree.empty then eraseKey e.key s.trees else insertKey e.key t s.trees }

/-! ## Shape (R312 to R318) -/

def topPn : Nat := 0xFFFFF
def ndPn (x : Nat) : Nat := bits x 19 0
def ndPos (x : Nat) : Nat := bits x 27 20
def ndLv (x : Nat) : Nat := bits x 29 28
def ndNch (x : Nat) : Nat := bits x 39 32
def mbEp (x : Nat) : Nat := bits x 19 0
def mbPn (x : Nat) : Nat := bits x 39 20
def mbPos (x : Nat) : Nat := bits x 47 40
def mbPr (x : Nat) : Bool := bit x 48
def mbPx (x : Nat) : Bool := bit x 49

/-- A child of a node (R325). -/
inductive TKid where
  | mem (i : Nat)
  | node (j : Nat)
  deriving DecidableEq, Repr

/-- The children of node k with their positions. -/
def Shape.kids (h : Shape) (k : Nat) : List (Nat × TKid) :=
  ((List.zipIdx h.mems).filter (fun e => mbPn e.1 == k)).map (fun e => (mbPos e.1, .mem e.2))
  ++ ((List.zipIdx h.nodes).filter (fun e => ndPn e.1 == k)).map (fun e => (ndPos e.1, .node e.2))

/-- A node's order: position 1 upwards, last position 0 (R325). -/
def Shape.order (h : Shape) (k : Nat) : List TKid :=
  let l := h.kids k
  ((List.range l.length).map (fun j => (j + 1) % l.length)).filterMap (fun p => lookup l p)

def Shape.node (h : Shape) (k : Nat) : Nat := h.nodes.getD k 0
def Shape.lv (h : Shape) (k : Nat) : Nat := ndLv (h.node k)
/-- The router of a node, and its package (R315). -/
def Shape.rtr (h : Shape) (k : Nat) : Nat := h.maps.getD k 0 % 2 ^ 19
def Shape.pkg (h : Shape) (k : Nat) : Nat := h.rtr k / 128
def Shape.top (h : Shape) : Nat := (h.nodes.findIdx? (fun x => ndPn x == topPn)).getD 0
/-- The quads of a quad node's members, by package quad number; and the dies below a node of level 0 or 1. -/
def Shape.quads (h : Shape) (k : Nat) : List Nat := (h.kids k).map (fun e => match e.2 with | .mem i => mbEp (h.mems.getD i 0) / 4 | .node _ => 2 ^ 20)
def Shape.dies (h : Shape) (k : Nat) : List Nat :=
  (h.kids k).map (fun e => match e.2 with | .mem _ => 2 ^ 20 | .node j => ((h.quads j).headD (2 ^ 20)) / 16)
def allSame (l : List Nat) : Bool := l.all (· == l.headD 0)

/-- Levels, children and router of node k (R313, R315, R316). -/
def Shape.nodeOk (h : Shape) (k : Nat) : Bool :=
  let x := h.node k
  let l := h.kids k
  let loc := h.rtr k % 128
  let isMem (e : Nat × TKid) : Bool := match e.2 with | .mem _ => true | .node _ => false
  let kidLv (e : Nat × TKid) : Nat := match e.2 with | .mem _ => 9 | .node j => h.lv j
  x >>> 40 == 0 && bits x 31 30 == 0 && decide (ndLv x < 3) && (ndPn x == topPn || decide (ndPn x < h.ncnt))
    && ndNch x != 0 && l.length == ndNch x && (List.range (ndNch x)).all (fun p => l.any (fun e => e.1 == p))
    && (if ndLv x = 0 then
        l.all isMem && allSame (h.quads k)
          && (h.quads k).all (fun q => h.pkg k == q / 64 && (loc == q % 64 || (decide (0x40 ≤ loc) && decide (loc < 0x44))))
      else if ndLv x = 1 then
        l.all (fun e => kidLv e == 0) && allSame (h.dies k) && (h.dies k).all (fun d => h.pkg k == d / 4)
          && decide (0x40 ≤ loc) && decide (loc < 0x46)
      else
        l.all (fun e => match e.2 with
          | .mem _ => false
          | .node j => if h.lv j = 2 then h.pkg j != h.pkg k else h.pkg j == h.pkg k)
          && (loc == 0x44 || loc == 0x45))

/-- Does the way up from node k end at the top within n steps (no cycle)? -/
def Shape.climbs (h : Shape) : Nat → Nat → Bool
  | 0, _ => false
  | n + 1, k => ndPn (h.node k) == topPn || h.climbs n (ndPn (h.node k))

/-- Operator, format, SKIP and SEGL (R317); a format has four bits (R312). -/
def opOk (op fmt skip segl : Nat) : Bool :=
  let wide := decide (12 ≤ segl) && decide (segl ≤ 20)
  if 16 ≤ fmt then false
  else if op < 3 then (decide (fmt ≤ 4) && decide (skip ≤ 2) || fmt == 11 && skip == 0) && wide
  else if op < 6 then fmt == 11 && skip == 0 && wide
  else if op = 6 then fmt != 7 && skip == 0 && wide
  else if op < 10 then fmt == 0 && skip == 0 && segl == (if op = 7 then 14 else 12)
  else op == 10 && decide (8 ≤ fmtWidth fmt) && skip == 0 && segl == 12

/-- The checks of R318; `fresh` for a descriptor given to cl.tmk, whose engine-written fields must be zero; and that a
sketch tree's top node is not on level quad (R371). -/
def Shape.ok (h : Shape) (fresh : Bool) : Bool :=
  opOk h.op h.fmt (h.fl % 4) h.segl && h.fl / 8 == 0
    && h.mcnt != 0 && decide (h.mcnt ≤ 65536) && h.ncnt != 0 && decide (h.ncnt ≤ 65536)
    && (h.nodes.filter (fun x => ndPn x == topPn)).length == 1
    && (List.range h.ncnt).all (fun k => h.nodeOk k && h.climbs h.ncnt k)
    && h.mems.all (fun x => x >>> 50 == 0 && decide (mbPn x < h.ncnt) && (!fresh || !mbPx x))
    && (h.mems.map mbEp).eraseDups.length == h.mems.length
    && h.maps.all (fun r => if fresh then decide (r < 2 ^ 19) else bits r 62 32 == 0 && !bit r 19)
    && (!(bit h.fl 2 || h.op == 6) || h.mems.any (fun x => mbEp x == h.root))
    && h.mems.any mbPr
    && !(decide (7 ≤ h.op) && decide (h.op ≤ 9) && h.lv h.top == 0)

/-- The shape a descriptor's bytes state; its reserved fields. -/
def shapeOf (img : Nat) : Shape :=
  let m := rf img 8 3
  let n := rf img 0xC 3
  { op := rf img 0 1, fmt := rf img 1 1, segl := rf img 2 1, fl := rf img 3 1, perm := rf img 4 4, mcnt := m, ncnt := n, root := rf img 0x10 4,
    nodes := (List.range n).map (fun k => rf img (0x40 + 8 * k) 8), maps := (List.range n).map (fun k => rf img (0x40 + 8 * n + 8 * k) 8),
    mems := (List.range m).map (fun i => rf img (0x40 + 16 * n + 8 * i) 8) }
def descReserved (img : Nat) : Bool := rf img 0xB 1 == 0 && rf img 0xF 1 == 0 && rf img 0x14 44 == 0 && decide (rf img 0x10 4 < 2 ^ 20)

/-- The shape in force: the entry's fields with the lists in memory (R312, R321). -/
def entShape (s : State) (e : TEnt) : Shape :=
  { op := e.op, fmt := e.fmt, segl := e.segl, fl := e.fl % 8, perm := e.perm, mcnt := e.mcnt, ncnt := e.ncnt, root := e.root,
    nodes := (List.range e.ncnt).map (fun k => readPa s (e.desc + 0x40 + 8 * k) 8),
    maps := (List.range e.ncnt).map (fun k => readPa s (e.rmap + 8 * k) 8),
    mems := (List.range e.mcnt).map (fun i => readPa s (e.desc + 0x40 + 16 * e.ncnt + 8 * i) 8) }

/-! ## Slots (R320, R322) -/

def slotCap (loc : Nat) : Nat := if loc < 64 then 256 else if loc < 68 then 1024 else 4096

/-- Is a router of this package on a die whose staging ring has no ways, so that it can hold no partial (R322)? -/
def noRing (s : State) (r : Nat) : Bool :=
  r / 128 == s.dev.pod.toNat && (match routerDie (r % 128) with
    | some d => (lookup s.clRing d).getD 0 == 0
    | none => false)

/-- A slot on every router of a list, or none when one refuses. Which free slot is taken is open (log 6). -/
def takeSlots (used : Nat → List Nat) (s : State) : List Nat → List (Nat × Nat) → Option (State × List (Nat × Nat))
  | [], got => some (s, got)
  | r :: rs, got =>
    let taken := used r ++ (got.filter (fun e => e.1 == r)).map (·.2)
    let free := (List.range (slotCap (r % 128))).filter (fun n => !taken.contains n)
    if noRing s r ∨ free = [] then none
    else
      let (s1, x) := draw s
      takeSlots used s1 rs (got ++ [(r, free.getD (x % free.length) 0)])

/-- Write SLOT and V of a router map (R315): the slots held, or none. -/
def putSlots (s : State) (rmap : Nat) (rs : List Nat) (l : List (Nat × Nat)) : State :=
  (List.zipIdx rs).foldl (fun t e =>
    engWr t (rmap + 8 * e.2) 8 (e.1 % 2 ^ 19 + (match l[e.2]? with | some q => (q.2 <<< 20) + 2 ^ 63 | none => 0))) s

/-- Release every slot of a tree. -/
def freeSlots (s : State) (e : TEnt) : State :=
  let t := treeAt s e
  if t.slots = [] then s else setTree (putSlots s e.rmap (entShape s e).maps []) e { t with slots := [] }

/-! ## Members and segments (R323, R324) -/

/-- The index of the member at a core (R335). -/
def memberOf (s : State) (h : Shape) (core : Nat) : Option Nat := h.mems.findIdx? (fun x => mbEp x == endpoint s core)

/-- Is member i a member of segment n (R324)? -/
def isMember (e : TEnt) (h : Shape) (n i : Nat) : Bool :=
  let x := h.mems.getD i 0
  decide (i < h.mcnt) && (mbPr x != (e.px && decide (e.eseg ≤ n) && mbPx x))
def isRoot (h : Shape) (i : Nat) : Bool := mbEp (h.mems.getD i 0) == h.root
def contributes (e : TEnt) (h : Shape) (n i : Nat) : Bool := isMember e h n i && (h.op != 6 || isRoot h i)
def receives (e : TEnt) (h : Shape) (n i : Nat) : Bool :=
  isMember e h n i && (if h.op = 6 then !isRoot h i else !e.mode || isRoot h i)

/-- The bitmap of segment n. -/
def segBits (e : TEnt) (n b0 b1 : Nat) : Nat := if n = e.cur then b0 else if n = e.cur + 1 then b1 else 0
def Tree.postedIn (t : Tree) (e : TEnt) (n : Nat) : Nat := segBits e n t.posted0 t.posted1
def Tree.delivIn (t : Tree) (e : TEnt) (n : Nat) : Nat := segBits e n t.deliv0 t.deliv1
def Tree.markPost (t : Tree) (e : TEnt) (n i : Nat) : Tree :=
  if n = e.cur then { t with posted0 := t.posted0 ||| 2 ^ i } else { t with posted1 := t.posted1 ||| 2 ^ i }
def Tree.markDeliv (t : Tree) (e : TEnt) (n i : Nat) : Tree :=
  if n = e.cur then { t with deliv0 := t.deliv0 ||| 2 ^ i } else { t with deliv1 := t.deliv1 ||| 2 ^ i }

def TNode.new (k n : Nat) : TNode := ⟨k, n, false, 0, 0, 0, 0, 0, 0, 0⟩
def Tree.recAt (t : Tree) (k n : Nat) : TNode := (t.nodes.find? (fun r => r.node == k && r.seg == n)).getD (TNode.new k n)
def Tree.setRec (t : Tree) (r : TNode) : Tree := { t with nodes := r :: t.nodes.filter (fun x => !(x.node == r.node && x.seg == r.seg)) }

/-- Is segment n open (R323)? -/
def Tree.isOpen (t : Tree) (e : TEnt) (n : Nat) : Bool :=
  (n == e.cur || n == e.cur + 1) && !t.aborted.contains n
    && (t.postedIn e n != 0 || t.takes.any (fun k => k.seg == n) || t.nodes.any (fun r => r.seg == n))

/-! ## Completing a member's command -/

/-- Take a command off its core and end it there. -/
def onCmd (s : State) (core ctx : Nat) (tag : BitVec 6) (f : State → Cmd → State) : State :=
  let me := s.coreNo
  let t := focus s core
  match t.core.cmds.find? (fun c => c.ctx == ctx && c.tag == tag) with
  | some c => focus (f { t with core := { t.core with cmds := t.core.cmds.filter (fun x => !(x.ctx == ctx && x.tag == tag)) } } c) me
  | none => s

/-- The take record (R337). -/
def takeRec (st fl n cnt : Nat) : Nat := st + (fl <<< 8) + ((n % 2 ^ 32) <<< 32) + ((cnt % 2 ^ 32) <<< 64)

/-- An aborted take or exchange writes only its record and completes (R337, R346); a record whose bytes another uncompleted
post of the core covers waits for that post (R336). Only a take's record is a tree result (R465). -/
def abortedRecord (n : Nat) (s : State) (c : Cmd) : State × Option CFail :=
  match cmdWr s c.who c.xa.toNat 16 (takeRec 6 0 n 0) c.lab (if c.kind = .take then 2 else 0) with
  | .ok t => (t, none)
  | .error f => (s, some f)

/-- The command as it waits, or ends, with its aborted record. -/
def abortedCmd (n : Nat) (c : Cmd) : Cmd := { c with kind := .aborted, geo := [BitVec.ofNat 64 n, if c.kind = .take then 1 else 0] }

def endAborted (n : Nat) (s : State) (c : Cmd) : State :=
  let (t, f) := releasing c (fun u => abortedRecord n u c) s
  endCmd t (abortedCmd n c) none f

/-- The held record of an aborted take or exchange is tried again. -/
def runAborted (s : State) (c : Cmd) : Ending :=
  let (t, f) := abortedRecord (c.geo.getD 0 0).toNat s { c with kind := if c.geo.getD 1 0 = 1 then .take else .reshard }
  ⟨t, c, none, f⟩

/-- Abort a segment (R346): posts complete, with the fault given when bytes were still unpulled (R354), takes and
exchanges that were not delivered write aborted records, its staging is freed. -/
def abortSeg (s : State) (e : TEnt) (n : Nat) (f : Option CFail) : State :=
  let t := treeAt s e
  let h := entShape s e
  let delivered (p : TPost) : Bool := (memberOf s h p.core).any (bit (t.delivIn e n))
  let s1 := (t.posts.filter (fun p => p.seg == n && !(p.pulled && delivered p))).foldl (fun u p =>
    onCmd u p.core p.ctx p.tag (fun v c => match (if p.pulled then none else f) with
      | some x => endCmd v c none (some { x with addr := c.aa.toNat })
      | none => if e.op = 10 then endAborted n v c else endCmd v c none none)) s
  let s2 := (t.takes.filter (fun k => k.seg == n)).foldl (fun u k => onCmd u k.core k.ctx k.tag (endAborted n)) s1
  setTree s2 e { t with
    posts := t.posts.filter (fun p => p.seg != n), takes := t.takes.filter (fun k => k.seg != n),
    nodes := t.nodes.filter (fun r => r.seg != n), aborted := n :: t.aborted, noprov := t.noprov.filter (· != n) }

/-! ## Barriers, edits and retirement (R323, R345, R348) -/

/-- Does a router carry the flits of a partition's tree to and from a core: none passes between partitions (R492)? Another
package's routers see to its own cores. -/
def carries (s : State) (e : TEnt) (core : Nat) : Bool := decide (2 ^ 20 ≤ core) || ownerOf s core == some e.part

/-- The members whose arrivals a phase needs: those present. -/
def barDone (s : State) (e : TEnt) (h : Shape) (t : Tree) : Bool :=
  !t.bars.isEmpty && (List.zipIdx h.mems).all (fun x => !mbPr x.1 || t.bars.any (fun b => carries s e b.core && memberOf s h b.core == some x.2))

/-- One atomic update of a tree barrier object (R348). -/
def barUpdate (err : Bool) (s : State) (b : TBar) : State :=
  if isMem b.pa then
    let w := readPa s b.pa 8
    engWr (raiseFrame s b.pa b.lab) b.pa 8 (if err then w ||| 2 else if w % 2 = 0 then w + 1 else w - 1)
  else s

/-- Complete a barrier phase when every present member has arrived. -/
def barCheck (s : State) (e : TEnt) : State :=
  let t := treeAt s e
  if barDone s e (entShape s e) t then setTree (t.bars.foldl (barUpdate false) s) e { t with bars := [] } else s

/-- Apply a pending edit (R345): the routers drop the configuration (R321). -/
def applyEdit (s : State) (e : TEnt) : State :=
  let h := entShape s e
  let s1 := (List.zipIdx h.mems).foldl (fun u x =>
    if mbPx x.1 then engWr u (e.desc + 0x40 + 16 * e.ncnt + 8 * x.2) 8 (setBit (setBit x.1 49 false) 48 (!mbPr x.1)) else u) s
  barCheck (writeEnt (setTree s1 e { treeAt s1 e with cfg := [] }) (e.withFl 3 false)) e

/-- CUR moves on to segment n; the bitmaps follow. -/
def curTo (s : State) (e : TEnt) (n : Nat) : State :=
  let t := treeAt s e
  let one := n == e.cur + 1
  let t1 := { t with
    posted0 := if one then t.posted1 else 0, posted1 := 0, deliv0 := if one then t.deliv1 else 0, deliv1 := 0,
    nodes := t.nodes.filter (fun r => decide (n ≤ r.seg)), posts := t.posts.filter (fun p => decide (n ≤ p.seg)),
    aborted := t.aborted.filter (fun k => decide (n ≤ k)), noprov := t.noprov.filter (fun k => decide (n ≤ k)),
    took := t.took.filter (fun k => decide (n ≤ k.1)) }
  let e1 := { e with cur := n, hi := max e.hi n }
  let s1 := writeEnt (setTree s e t1) e1
  if e.px ∧ e.eseg ≤ n then applyEdit s1 e1 else s1

/-- Has segment n retired (R323)? -/
def segRetired (s : State) (e : TEnt) (n : Nat) : Bool :=
  let t := treeAt s e
  let h := entShape s e
  t.aborted.contains n
    || ((t.recAt h.top n).done && (List.range e.mcnt).all (fun i => !(if e.op = 10 then isMember e h n i else receives e h n i) || bit (t.delivIn e n) i)
      && !(e.op == 10 && t.takes.any (fun k => k.seg == n)))

/-- Retire what has retired: at most the two open segments. -/
def advanceTree : Nat → State → Nat → Nat → State
  | 0, s, _, _ => s
  | n + 1, s, part, idx =>
    let e := readEnt s part idx
    if segRetired s e e.cur then advanceTree n (curTo s e (e.cur + 1)) part idx else s

/-- cl.abort: segments CUR and CUR + 1 (R346). -/
def abortBoth (s : State) (e : TEnt) : State :=
  curTo (abortSeg (abortSeg s e e.cur none) e (e.cur + 1) none) e (e.cur + 2)

/-- What a freed tree or a failed link does: the open segments are aborted (R340, R354), and CUR passes those it has reached. -/
def abortOpen (s : State) (e : TEnt) (f : Option CFail) : State :=
  advanceTree 3 (([e.cur, e.cur + 1].filter ((treeAt s e).isOpen e)).foldl (fun u n => abortSeg u e n f) s) e.part e.idx

/-- Free a tree (R340). -/
def freeTree (s : State) (e : TEnt) : State :=
  let s1 := abortOpen s e none
  let s2 := (treeAt s1 e).bars.foldl (barUpdate true) s1
  let s3 := freeSlots s2 e
  setTree (writeEnt s3 { readEnt s3 e.part e.idx with st := 5 }) e Tree.empty

/-! ## Pulling (R325, R326, R328) -/

/-- An element in an accumulator: value, present bit with PI and NI, count. -/
structure TEl where
  v : Nat
  st : Nat
  cnt : Nat
  deriving DecidableEq, Repr

def pinf : Nat := 0x7F800000
def ninf : Nat := 0xFF800000

/-- Leaf (R326). -/
def leafEl (op fmt skip x : Nat) : TEl :=
  if fmt = 11 then ⟨if op = 0 then wrap 64 (sgn 32 x) else x, 1, 1⟩
  else
    let f := decodeEl fmt x
    if skip ≠ 0 ∧ f = .nan then ⟨0, 0, 0⟩
    else
      let v := (roundTo false 0 f 0 0).1
      ⟨v, 1 + 2 * b2n (v == pinf) + 4 * b2n (v == ninf), 1⟩

/-- Combine (R326). -/
def combineEl (op fmt : Nat) (a b : TEl) : TEl :=
  if b.st % 2 = 0 then a
  else if a.st % 2 = 0 then b
  else if fmt = 11 then
    let v := match op with
      | 0 => (a.v + b.v) % 2 ^ 64
      | 1 => if sgn 32 a.v < sgn 32 b.v then b.v else a.v
      | 2 => if sgn 32 b.v < sgn 32 a.v then b.v else a.v
      | 3 => a.v &&& b.v
      | 4 => a.v ||| b.v
      | _ => a.v ^^^ b.v
    ⟨v, 1, a.cnt + b.cnt⟩
  else
    let v := if op = 0 then (roundTo false 0 ((decodeEl 0 a.v).add false (decodeEl 0 b.v)).1 0 0).1 else minMaxF false 0 (op == 1) a.v b.v
    ⟨v, a.st ||| b.st ||| (2 * b2n (v == pinf) + 4 * b2n (v == ninf)), a.cnt + b.cnt⟩

/-- Final (R326). -/
def finalEl (op fmt : Nat) (a : TEl) : Nat :=
  if a.st % 2 = 0 then (if fmt = 11 then 0 else (fmtOf fmt).nan)
  else if fmt = 11 then (if op = 0 then wrap 32 (clamp (-(2 ^ 31)) (2 ^ 31 - 1) (sgn 64 a.v)) else a.v)
  else (roundTo false fmt (decodeEl 0 a.v) 0 0).1

/-- Elements of a segment, and the width of the accumulator form (R326, R343). -/
def TEnt.els (e : TEnt) : Nat := 2 ^ e.segl * 8 / max 1 (fmtWidth e.fmt)
def TEnt.accW (e : TEnt) : Nat := if e.op = 0 ∧ e.fmt = 11 then 64 else 32

/-- Bytes of an accumulator (R343). -/
def TEnt.accBytes (e : TEnt) : Nat := if e.op ≤ 5 then e.els * e.accW / 8 else 2 ^ e.segl

def TNode.el (e : TEnt) (r : TNode) (j : Nat) : TEl := ⟨elem r.acc e.accW j, elem r.est 4 j, elem r.counts 32 j⟩
def TNode.setEls (e : TEnt) (r : TNode) (l : List TEl) : TNode :=
  { r with acc := packL e.accW (l.map (·.v)), est := packL 4 (l.map (·.st)), counts := packL 32 (l.map (·.cnt)) }

/-- Combine a child's elements into an accumulator, from element EC on and below element `lim`. -/
def pullEls (e : TEnt) (r : TNode) (lim : Nat) (child : Nat → TEl) : TNode :=
  r.setEls e ((List.range e.els).map (fun j => if j < r.ec ∨ lim ≤ j then r.el e j else combineEl e.op e.fmt (r.el e j) (child j)))

def isSketch (op : Nat) : Bool := decide (7 ≤ op) && decide (op ≤ 9)

/-- What a pull brings: the child's contributors, label, whole data and, for the element operators, its elements. -/
structure TIn where
  cnt : Nat
  lab : Label
  data : Nat
  el : Nat → TEl

/-- The accumulator after a child has been pulled in full, and the next entropy draw. -/
def pullInto (e : TEnt) (r : TNode) (i : TIn) (fresh : Nat) : TNode × Nat :=
  let r1 := { r with cnt := r.cnt + i.cnt, lab := r.lab ||| i.lab }
  if e.op ≤ 5 then ({ pullEls e r e.els i.el with cnt := r1.cnt, lab := r1.lab }, fresh)
  else if e.op = 6 then ({ r1 with acc := if r.cnt = 0 then i.data else r.acc }, fresh)
  else
    let (a, f) := routerMerge (e.op - 6) (if r.cnt = 0 then none else some r.acc) i.data fresh
    ({ r1 with acc := a }, f)

/-- Has node k a contributor of segment n below it? Fuel: the depth of the shape. -/
def hasBelow (e : TEnt) (h : Shape) (n : Nat) : Nat → Nat → Bool
  | 0, _ => false
  | f + 1, k => (h.kids k).any (fun c => match c.2 with
    | .mem i => contributes e h n i
    | .node j => hasBelow e h n f j)

def isAbsent (e : TEnt) (h : Shape) (n : Nat) : TKid → Bool
  | .mem i => !contributes e h n i
  | .node j => !hasBelow e h n h.ncnt j

/-- Absent children pass at once (R325): the index of the first that does not, from a given one. -/
def passAbsent (e : TEnt) (h : Shape) (n : Nat) : List TKid → Nat
  | [] => 0
  | c :: cs => if isAbsent e h n c then passAbsent e h n cs + 1 else 0

/-- NEXT after the absent children, and D when no child is left. -/
def skipOn (e : TEnt) (h : Shape) (r : TNode) : TNode :=
  let o := h.order r.node
  let nx := r.next + passAbsent e h r.seg (o.drop r.next)
  { r with next := nx, done := decide (o.length ≤ nx) }
def stepOn (e : TEnt) (h : Shape) (r : TNode) : TNode := skipOn e h { r with next := r.next + 1, ec := 0 }

/-- The unpulled post of member i for segment n. -/
def Tree.postOf (t : Tree) (s : State) (h : Shape) (n i : Nat) : Option TPost :=
  t.posts.find? (fun p => p.seg == n && !p.pulled && memberOf s h p.core == some i)

/-- A post whose bytes have all been pulled completes (R335). -/
def pulledPost (s : State) (e : TEnt) (p : TPost) : State :=
  let t := treeAt s e
  onCmd (setTree s e { t with
    posts := t.posts.filter (fun x => x != p), noprov := if p.prov then t.noprov else p.seg :: t.noprov.filter (· != p.seg) })
    p.core p.ctx p.tag (fun v c => endCmd v c none none)

def postIn (e : TEnt) (p : TPost) : TIn :=
  ⟨1, p.lab, p.data, fun j => leafEl e.op e.fmt e.skip (elem p.data (fmtWidth e.fmt) j)⟩
def nodeIn (e : TEnt) (r : TNode) (l : Label) : TIn := ⟨r.cnt, l, r.acc, r.el e⟩

/-- The label with which a child's flits reach a node, none when the release gate refuses them (R353). -/
def crossing (s : State) (e : TEnt) (h : Shape) (k j : Nat) (l : Label) : Option Label :=
  if h.pkg j = h.pkg k ∨ h.pkg j ≠ s.dev.pod.toNat then some l else gate s e.part l (.peer (h.pkg k) e.part)

/-- Data of a tree or a multicast leaves for an endpoint of another package under a label, as flits of class 3 (R353, R469, R527).
No rule lays out their payload: the model's carry 224 bytes each (log 20). One whose port is not up is lost; the failure of its
link freezes the tree (R354). -/
def treeFlits (part dst src : Nat) (l : Label) : Nat → Nat → State → State
  | 0, _, s => s
  | k + 1, v, s => treeFlits part dst src l k (v >>> 1792)
      ((sendFlit s ⟨0, BitVec.ofNat 20 dst, BitVec.ofNat 20 src, BitVec.ofNat 15 ((3 <<< 9) + (part <<< 11)), 0, leBytes 224 v, l, 0⟩).getD s)

/-- Node j's row goes to the package of node k (R315, R353). -/
def sendRow (s : State) (e : TEnt) (h : Shape) (j k : Nat) (l : Label) (v : Nat) : State :=
  if h.pkg j = h.pkg k ∨ h.pkg j ≠ s.dev.pod.toNat then s
  else treeFlits e.part (256 * h.pkg k + h.rtr k % 128) (256 * h.pkg j + h.rtr j % 128) l (divUp (2 ^ e.segl) 224) v s

/-- Does a pull of node k wait because the node that would hold the partial is on a die without a staging ring (R322)? -/
def ringless (s : State) (e : TEnt) (h : Shape) (k : Nat) : Bool :=
  noRing s (h.rtr k) || (isSketch e.op && h.lv k == 0 && noRing s (h.rtr (ndPn (h.node k))))

/-- What the child that node k is to pull next brings, when it is there and the gate lets it reach the node. -/
def nextIn (s : State) (e : TEnt) (h : Shape) (r : TNode) : Option TIn :=
  let t := treeAt s e
  match (if r.done ∨ ringless s e h r.node then none else (h.order r.node)[r.next]?) with
  | none => none
  | some (.mem i) => ((t.postOf s h r.seg i).filter (fun p => carries s e p.core)).map (postIn e)
  | some (.node j) =>
    let c := t.recAt j r.seg
    if c.done then (crossing s e h r.node j c.lab).map (nodeIn e c) else none

/-- A pull that a freeze stops at a flit of 256 bytes (R341, R343, R527): how many it had moved is open (log 6). A sketch is no
row of elements. -/
def stopPull (e : TEnt) (h : Shape) (s : State) (k n : Nat) : State :=
  let r := skipOn e h ((treeAt s e).recAt k n)
  match (if isSketch e.op then none else nextIn s e h r) with
  | none => s
  | some i =>
    let (s1, x) := draw s
    let ec := max r.ec (x % divUp (2 ^ e.segl) 256 * (2048 / max 1 (fmtWidth e.fmt)))
    let r1 := if e.op ≤ 5 then pullEls e r ec i.el else { r with acc := i.data % 2 ^ (ec * fmtWidth e.fmt) }
    if ec = r.ec ∨ (e.op = 6 ∧ r.cnt ≠ 0) then s1
    else setTree s1 e ((treeAt s1 e).setRec { r1 with ec := ec, lab := r.lab ||| i.lab })

/-- cl.frz (R341): every pull in progress stops at its flit. -/
def freezePulls (s : State) (e : TEnt) : State :=
  if e.op = 10 then s
  else
    let h := entShape s e
    ([e.cur, e.cur + 1].filter ((treeAt s e).isOpen e)).foldl (fun u n => (List.range e.ncnt).foldl (fun v k => stopPull e h v k n) u) s

/-- The row of node j of another package, under the label with which it came: done, its bytes and counts free values (log 33). -/
def strangeRow (s : State) (e : TEnt) (n j : Nat) (l : Label) : State :=
  let (s1, acc) := freeBytes s e.accBytes
  let (s2, est) := freeBytes s1 (e.els / 2)
  let (s3, counts) := freeBytes s2 (4 * e.els)
  let (s4, cnt) := draw s3
  let t := (treeAt s4 e).setRec { TNode.new j n with done := true, lab := l, acc := acc, est := est, counts := counts, cnt := cnt }
  setTree s4 e { t with noprov := n :: t.noprov.filter (· != n) }

/-- Does node k of another package pull a node of this one? -/
def sendsTo (s : State) (h : Shape) (k : Nat) : Bool :=
  h.pkg k != s.dev.pod.toNat && (h.kids k).any (fun c => match c.2 with
    | .node i => h.pkg i == s.dev.pod.toNat
    | .mem _ => false)

/-- A node of another package that pulls one of this package also pulls one of another: what comes to it there, and when, is not seen here. Its row is taken to be
there when the node asks for it, with free values and a free label within the tree's PERM (DEDUCED, log 33). -/
def elsewhere (s : State) (e : TEnt) (n j : Nat) : State :=
  let (s1, x) := draw s
  strangeRow s1 e n j (BitVec.ofNat 32 x &&& BitVec.ofNat 32 e.perm)

/-- A top node of another package that is done delivers to the members outside this package itself. -/
def doneAway (s : State) (e : TEnt) (h : Shape) (r : TNode) (t : Tree) : Tree :=
  if r.done ∧ r.node = h.top ∧ h.pkg h.top ≠ s.dev.pod.toNat then (List.range e.mcnt).foldl (fun (u : Tree) i =>
    if mbEp (h.mems.getD i 0) / 256 ≠ s.dev.pod.toNat ∧ receives e h r.seg i then u.markDeliv e r.seg i else u) t
  else t

/-- One pull of node k for segment n: the next child that is not absent, in full (R325, R341); none when it has to wait.
A quad node of a sketch tree hands each summary to its parent's accumulator (R328, R371). -/
def pullOne (s : State) (e : TEnt) (h : Shape) (k n : Nat) : Option State :=
  let t := treeAt s e
  let r := skipOn e h (t.recAt k n)
  let put (u : State) (x : TNode) : State := setTree u e (doneAway s e h x ((treeAt u e).setRec x))
  if (t.recAt k n).done ∨ ringless s e h k then none
  else if r.done then some (put s r)
  else match (h.order k)[r.next]? with
    | none => none
    | some (.mem i) =>
      match (t.postOf s h n i).filter (fun p => carries s e p.core) with
      | none => none
      | some p =>
        if isSketch e.op ∧ h.lv k = 0 then
          let par := ndPn (h.node k)
          let q := skipOn e h (t.recAt par n)
          if (h.order par)[q.next]? = some (.node k) then
            let (q1, f) := pullInto e q (postIn e p) s.fresh
            some (pulledPost (put (put { s with fresh := f } q1) (stepOn e h r)) e p)
          else none
        else
          let (r1, f) := pullInto e r (postIn e p) s.fresh
          some (pulledPost (put { s with fresh := f } (stepOn e h r1)) e p)
    | some (.node j) =>
      let c := t.recAt j n
      if ¬c.done then (if h.pkg j ≠ s.dev.pod.toNat ∧ sendsTo s h k then some (elsewhere s e n j) else none)
      else match crossing s e h k j c.lab with
        | none => some (advanceTree 3 (abortSeg (countRefusal s e.part c.lab) e n none) e.part e.idx)
        | some l =>
          if isSketch e.op ∧ h.lv j = 0 then some (put s (stepOn e h r))
          else
            let (r1, f) := pullInto e r (nodeIn e c l) s.fresh
            some (put (sendRow { s with fresh := f } e h j k l c.acc) (stepOn e h r1))

/-! ## Exchange (R349, R350) -/

/-- A layout's fields, from its registers after the first: mesh sizes, T, and per dimension S, source and destination
codes. -/
def meshOf (geo : List Word) (d : Nat) : Nat := bits (geo.getD 0 0).toNat (16 * d + 15) (16 * d)
def dimsOf (geo : List Word) : Nat := (geo.getD 1 0).toNat % 8
def dimS (geo : List Word) (t : Nat) : Nat := bits (geo.getD (2 + t) 0).toNat 31 0
def dimSrc (geo : List Word) (t : Nat) : Nat := bits (geo.getD (2 + t) 0).toNat 34 32
def dimDst (geo : List Word) (t : Nat) : Nat := bits (geo.getD (2 + t) 0).toNat 38 36

/-- The size of a dimension within a shard. -/
def shardDim (geo : List Word) (code s : Nat) : Nat := if code = 7 then s else s / max 1 (meshOf geo code)
def shardEls (geo : List Word) (code : Nat → Nat) : Nat :=
  ((List.range (dimsOf geo)).map (fun t => shardDim geo (code t) (dimS geo t))).foldl (· * ·) 1

/-- The mesh coordinate d of member i (R349). -/
def meshCoord (geo : List Word) (i d : Nat) : Nat :=
  i / ((List.range d).map (meshOf geo)).foldl (· * ·) 1 % max 1 (meshOf geo d)

/-- The layout refusals (code 3 of R331); `mcnt` none when no handle gives the member count. -/
def layoutBad (geo : List Word) (mcnt : Option Nat) : Bool :=
  let n := dimsOf geo
  let codes (f : Nat → Nat) : Bool :=
    (List.range n).any (fun t => decide (4 ≤ f t) && decide (f t ≤ 6)) || (List.range n).any (fun t => decide (f t < 4)
      && (decide (1 < ((List.range n).filter (fun u => f u == f t)).length) || dimS geo t % max 1 (meshOf geo (f t)) != 0))
  (List.range 4).any (fun d => meshOf geo d == 0) || ((List.range 4).map (meshOf geo)).foldl (· * ·) 1 != mcnt.getD (((List.range 4).map (meshOf geo)).foldl (· * ·) 1)
    || codes (dimSrc geo) || codes (dimDst geo)

/-- Row-major digits of y under sizes, fastest last; and back. -/
def digits : List Nat → Nat → List Nat
  | [], _ => []
  | _ :: ns, y => (y / ns.foldl (· * ·) 1) :: digits ns (y % max 1 (ns.foldl (· * ·) 1))
def undigits : List Nat → List Nat → Nat
  | _ :: ns, d :: ds => d * ns.foldl (· * ·) 1 + undigits ns ds
  | _, _ => 0

/-- Where element y of member j's destination comes from: the member and its source element (R350). -/
def exchangeSrc (geo : List Word) (j y : Nat) : Nat × Nat :=
  let ts := List.range (dimsOf geo)
  let dd := ts.map (fun t => shardDim geo (dimDst geo t) (dimS geo t))
  let sd := ts.map (fun t => shardDim geo (dimSrc geo t) (dimS geo t))
  let ys := digits dd y
  let x (t : Nat) : Nat := (if dimDst geo t = 7 then 0 else meshCoord geo j (dimDst geo t) * dd.getD t 0) + ys.getD t 0
  let cs (d : Nat) : Nat := match ts.find? (fun t => dimSrc geo t == d) with
    | some t => x t / max 1 (sd.getD t 0)
    | none => meshCoord geo j d
  let i := cs 0 + meshOf geo 0 * (cs 1 + meshOf geo 1 * (cs 2 + meshOf geo 2 * cs 3))
  (i, undigits sd (ts.map (fun t => if dimSrc geo t = 7 then x t else x t % max 1 (sd.getD t 0))))

/-- The layout that posts name; one of another package that agrees names none (log 33). -/
def layoutIn (ps : List TPost) : List Word := ((ps.find? (fun p => p.geo != [])).map (·.geo)).getD []

/-- Element z of a post's bytes; those of another package's are free values (log 33). -/
def TPost.el (p : TPost) (w z : Nat) : Nat := if 2 ^ 20 ≤ p.core then (Config.freeValue (p.data + z)).toNat % 2 ^ w else elem p.data w z

/-- Every member has posted, from a core whose flits the routers carry (R492): compare the layouts (R350). The sources have been read into staging. The bytes that a take of
such a segment would deliver are stated nowhere, and are free (log 6). -/
def exchangeMeet (s : State) (e : TEnt) (h : Shape) (n : Nat) : Option State :=
  let t := treeAt s e
  let ps := t.posts.filter (fun p => p.seg == n && carries s e p.core)
  let ms := (List.range e.mcnt).filter (isMember e h n)
  if (t.recAt h.top n).done ∨ ringless s e h h.top ∨ ¬ms.all (fun i => bit (t.postedIn e n) i && ps.any (fun p => memberOf s h p.core == some i)) then none
  else
    let (s, x) := freeBytes s (2 ^ e.segl)
    let t1 := t.setRec { t.recAt h.top n with done := true, cnt := ms.length, acc := x, lab := orAll (ps.map (·.lab)) }
    if (ps.filter (fun p => p.geo != [])).all (fun p => p.geo == layoutIn ps) then
      some (setTree s e { t1 with posts := t1.posts.map (fun p => if p.seg = n then { p with pulled := true } else p) })
    else
      let s1 := ps.foldl (fun u p => onCmd u p.core p.ctx p.tag (endAborted n)) s
      let s2 := (t.takes.filter (fun k => k.seg == n)).foldl (fun u k => onCmd u k.core k.ctx k.tag (endAborted n)) s1
      let t2 := ms.foldl (fun (u : Tree) i => u.markDeliv e n i)
        { t1 with posts := t1.posts.filter (fun p => p.seg != n), takes := t1.takes.filter (fun k => k.seg != n) }
      some (advanceTree 3 (setTree s2 e t2) e.part e.idx)

/-- The post that element y of member i's destination comes from (R350). What an element takes whose source stands at a place that is
no member of the segment, and so has no post, the spec does not say: the model takes it from the receiver's own shard (DESIGN CHOICE,
log 28). -/
def exchangePost (s : State) (e : TEnt) (t : Tree) (h : Shape) (p : TPost) (i y : Nat) : TPost × Nat :=
  let (j, z) := exchangeSrc p.geo i y
  ((t.posts.find? (fun x => x.seg == p.seg && memberOf s h x.core == some j && carries s e x.core)).getD p, z)

/-- The post labels of the members that send into the 128-byte line of element y of the shard at da, with eb bytes an
element and `els` elements (R350). -/
def exchangeLine (s : State) (e : TEnt) (t : Tree) (h : Shape) (p : TPost) (i da eb els y : Nat) : Label :=
  orAll (((List.range (128 / max 1 eb + 1)).flatMap (fun d => [y - d, y + d])).map (fun k =>
    if k < els ∧ (da + k * eb) / 128 = (da + y * eb) / 128 then (exchangePost s e t h p i k).1.lab else 0))

/-- Write member i's destination shard, then its record (R350). Data for a member of another package leaves by `deliverAway`. -/
def exchangeDeliver (s : State) (e : TEnt) (h : Shape) (n i : Nat) : Option State :=
  let t := treeAt s e
  let w := fmtWidth e.fmt
  match t.posts.find? (fun p => p.seg == n && p.pulled && memberOf s h p.core == some i && carries s e p.core && decide (p.core < 2 ^ 20)) with
  | none => none
  | some p =>
    if bit (t.delivIn e n) i then none
    else
      let run (u : State) (c : Cmd) : State × Option CFail := releasing c (fun u =>
        let els := shardEls p.geo (dimDst p.geo)
        let (v, f) := workGo (fun y u =>
          let (q, z) := exchangePost s e t h p i y
          cmdWr u c.who ((c.da.toNat + y * w / 8) % 2 ^ 72) (w / 8) (q.el w z) (exchangeLine s e t h p i c.da.toNat (w / 8) els y)) els 0 u
        match f with
        | some x => (v, some x)
        | none => match cmdWr v c.who c.xa.toNat 16 (takeRec 0 0 n e.mcnt) c.lab with
          | .ok v1 => (v1, none)
          | .error x => (v, some x)) u
      let held := ((focus s p.core).core.cmds.find? (fun c => c.ctx == p.ctx && c.tag == p.tag)).any (fun c =>
        let u := focus s p.core
        (run { u with core := { u.core with cmds := u.core.cmds.filter (fun x => !(x.ctx == p.ctx && x.tag == p.tag)) } } c).2.any CFail.isHeld)
      if held then none
      else
        let s1 := onCmd s p.core p.ctx p.tag (fun u c => let (v, f) := run u c
          endCmd v c none f)
        some (advanceTree 3 (setTree s1 e ((treeAt s1 e).markDeliv e n i)) e.part e.idx)

/-! ## Delivery (R326, R327, R337) -/

/-- The counts written: per element, or per block of 128 the least (R327). -/
def takeCounts (e : TEnt) (r : TNode) : List Nat :=
  let c := (List.range e.els).map (fun j => elem r.counts 32 j)
  if e.skip = 1 then c
  else (List.range (divUp e.els 128)).map (fun b => ((c.drop (128 * b)).take 128).foldl min (2 ^ 32 - 1))

/-- The result's bytes and the invalid indication. -/
def takeResult (e : TEnt) (r : TNode) : Nat × Nat :=
  if e.op ≤ 5 then
    let l := (List.range e.els).map (r.el e)
    (packL (fmtWidth e.fmt) (l.map (finalEl e.op e.fmt)), b2n (l.any (fun a => a.st / 2 == 3)))
  else if isSketch e.op then (skSealImg (skClear r.acc (2 ^ e.segl)) (2 ^ e.segl), 0)
  else (r.acc, 0)

/-- The writes of a delivery in their order (R337): result, counts, record; released with REL = 1 (R185). -/
def takeWrites (s : State) (c : Cmd) (e : TEnt) (r : TNode) (n : Nat) (sound : Bool) : State × Option CFail :=
  let (x, inv) := takeResult e r
  let cs := takeCounts e r
  let cnt := if e.skip = 0 then r.cnt else cs.foldl min (2 ^ 32 - 1)
  let lab := r.lab ||| c.lab
  releasing c (workGo (fun j u => match j with
    | 0 => cmdWr u c.who c.aa.toNat (2 ^ e.segl) x lab (if isSketch e.op ∧ sound then 1 else 2)
    | 1 => if e.skip = 0 then .ok u else cmdWr u c.who c.da.toNat (4 * cs.length) (packL 32 cs) lab
    | _ => cmdWr u c.who c.xa.toNat 16 (takeRec 0 inv n cnt) lab 2) 3 0) s

/-- Deliver segment n to member i; none while it cannot be: one whose writes or credit meet an unpulled contribution of the same
core waits for that post (R336). -/
def deliverTake (s : State) (e : TEnt) (h : Shape) (n i : Nat) : Option State :=
  let t := treeAt s e
  let r := t.recAt h.top n
  match t.takes.find? (fun k => k.seg == n && memberOf s h k.core == some i && carries s e k.core) with
  | none => none
  | some k =>
    let u := focus s k.core
    match u.core.cmds.find? (fun c => c.ctx == k.ctx && c.tag == k.tag) with
    | none => none
    | some c =>
      if ¬r.done then none
      else
        let sound := !t.noprov.contains n
        let c1 := { c with lab := c.lab ||| r.lab }
        let credit : Option Nat := if bit c.ctl.toNat 20 then some (2 ^ e.segl) else none
        let (u1, f) := takeWrites { u with core := { u.core with cmds := u.core.cmds.filter (fun x => !(x.ctx == k.ctx && x.tag == k.tag)) } }
          c e r n sound
        if f.any CFail.isHeld ∨ (credit.any (fun b => (creditCmd u1 c1 b f).2.any CFail.isHeld)) then none
        else
          let t1 := { t with takes := t.takes.filter (fun x => x != k) }
          let s1 := setTree s e (if e.op = 10 then { t1 with took := (n, i) :: t1.took } else t1.markDeliv e n i)
          some (advanceTree 3 (onCmd s1 k.core k.ctx k.tag (fun v _ =>
            let (v1, f) := takeWrites v c e r n sound
            endCmd v1 c1 credit f)) e.part e.idx)

/-- The labels of the flits that take segment n to a member: the result's, or, for an exchange, the post label of each member
of this package that sends into member i's shard (R350). -/
def awayLabels (s : State) (e : TEnt) (h : Shape) (t : Tree) (n i : Nat) : List Label :=
  if e.op ≠ 10 then [(t.recAt h.top n).lab]
  else
    let ps := t.posts.filter (fun p => p.seg == n)
    let geo := layoutIn ps
    (ps.filter (fun p => decide (p.core < 2 ^ 20) && (List.range (shardEls geo (dimDst geo))).any (fun y =>
      memberOf s h p.core == some (exchangeSrc geo i y).1))).map (·.lab)

/-- The result, or the exchanged data, of segment n goes out to member i of another package: its flits are egress, judged on
the label they carry; a refusal aborts the segment alone (R353, R469). The member itself lies in that package (log 28). -/
def deliverAway (s : State) (e : TEnt) (h : Shape) (n i : Nat) : Option State :=
  let t := treeAt s e
  let r := t.recAt h.top n
  let pkg := mbEp (h.mems.getD i 0) / 256
  if pkg = s.dev.pod.toNat ∨ (e.op ≠ 10 ∧ h.pkg h.top ≠ s.dev.pod.toNat) ∨ ¬r.done ∨ bit (t.delivIn e n) i
      ∨ ¬(if e.op = 10 then isMember e h n i else receives e h n i) then none
  else match (awayLabels s e h t n i).find? (fun l => (gate s e.part l (.peer pkg e.part)).isNone) with
    | some l => some (advanceTree 3 (abortSeg (countRefusal s e.part l) e n none) e.part e.idx)
    | none =>
      let out := (awayLabels s e h t n i).foldl (fun u l => treeFlits e.part (mbEp (h.mems.getD i 0)) (256 * s.dev.pod.toNat + h.rtr h.top % 128)
        ((gate s e.part l (.peer pkg e.part)).getD l) (divUp (2 ^ e.segl) 224) r.acc u) s
      some (advanceTree 3 (setTree out e (t.markDeliv e n i)) e.part e.idx)

/-! ## Events: pulls, deliveries and refills -/

/-- The entry a handle names, if its tree is in one of the given states. -/
def liveTree (s : State) (h : Nat) (sts : List Nat) : Option TEnt :=
  let e := readEnt s (h / 2 ^ 28 % 16) (bits h 27 8)
  if e.idx < (partAt s e.part).ttn.toNat ∧ e.gen = h % 256 ∧ sts.contains e.st then some e else none

/-- A router that keeps the configurations of 64 trees drops one of them before it reads another (R321); which one is open
(log 6). -/
def cfgRoom (s : State) (e : TEnt) (r : Nat) : State :=
  let l := s.trees.filter (fun t => t.1 != e.key && (lookup t.2.cfg r).isSome)
  if l.length < 64 then s
  else
    let (s1, x) := draw s
    match l[x % l.length]? with
    | some (k, t) => { s1 with trees := insertKey k { t with cfg := eraseKey r t.cfg } s1.trees }
    | none => s1

/-- A router keeps a tree's configuration. -/
def keepCfg (e : TEnt) (h : Shape) (s : State) (r : Nat) : State :=
  let s1 := cfgRoom s e r
  setTree s1 e { treeAt s1 e with cfg := insertKey r h (treeAt s1 e).cfg }

/-- Routers read the entry and the lists (R321): a refill that finds lists failing R318 makes the tree dead (R312, R351). -/
def refill (s : State) (e : TEnt) (rs : List Nat) : State :=
  let h := entShape s e
  if h.ok false then rs.foldl (keepCfg e h) s else freeTree s e

/-- A kept configuration with the members' PR and PX as they stand: they decide who is a member of a segment (R324), and keeping or
reading a configuration changes time alone (R321, R329). -/
def asEdited (s : State) (e : TEnt) (h : Shape) : Shape :=
  { h with mems := (List.zipIdx h.mems).map (fun m =>
      let y := readPa s (e.desc + 0x40 + 16 * e.ncnt + 8 * m.2) 8
      setBit (setBit m.1 48 (mbPr y)) 49 (mbPx y)) }

/-- A pull or delivery at a router goes by the configuration that the router keeps; one that the lists in memory allow is held
while a router without one reads it, and is then replayed (R321). -/
def withCfg (s : State) (e : TEnt) (r : Nat) (f : Shape → Option State) : Option State :=
  match lookup (treeAt s e).cfg r with
  | some h => f (asEdited s e h)
  | none => if (f (entShape s e)).isSome then some (refill s e [r]) else none

/-- The router of node k, that of its slot (R320). -/
def nodeRouter (s : State) (e : TEnt) (k : Nat) : Nat := (((treeAt s e).slots[k]?).map (·.1)).getD ((entShape s e).rtr k)

/-- The router that delivers: one that keeps a configuration whose top node it holds, else that of the top node in memory. -/
def topRouter (s : State) (e : TEnt) : Nat :=
  match (treeAt s e).cfg.find? (fun c => c.2.rtr c.2.top == c.1) with
  | some c => c.1
  | none => nodeRouter s e (entShape s e).top

/-- What a NODE_PULL would give. -/
def nodePull (s : State) (hd seg k : Nat) : Option State :=
  match liveTree s hd [2] with
  | none => none
  | some e =>
    if ¬(treeAt s e).isOpen e seg ∨ e.ncnt ≤ k then none
    else withCfg s e (nodeRouter s e k) (fun h => if e.op = 10 then (if k = h.top then exchangeMeet s e h seg else none)
      else (pullOne s e h k seg).map (fun u => advanceTree 3 u e.part e.idx))

def takeDelivery (s : State) (hd seg i : Nat) : Option State :=
  match liveTree s hd [2] with
  | none => none
  | some e =>
    if ¬(treeAt s e).isOpen e seg then none
    else withCfg s e (topRouter s e) (fun h => match (if e.op = 10 then exchangeDeliver s e h seg i else none) with
      | some u => some u
      | none => match deliverTake s e h seg i with
        | some u => some u
        | none => deliverAway s e h seg i)

def execNodePull (h : BitVec 32) (seg node : Nat) (s : State) : Host.Outcome State Fault Refusal :=
  .next ((nodePull s h.toNat seg node).getD s)
def execTakeDelivery (h : BitVec 32) (seg member : Nat) (s : State) : Host.Outcome State Fault Refusal :=
  .next ((takeDelivery s h.toNat seg member).getD s)
/-- The tree's routers read its configuration again (R321). -/
def execConfigRefill (h : BitVec 32) (s : State) : Host.Outcome State Fault Refusal :=
  .next (match liveTree s h.toNat [2, 3, 4] with
    | some e => refill s e ((List.range e.ncnt).map (nodeRouter s e)).eraseDups
    | none => s)

/-! ## The words -/

/-- A refused run-time value (R331). -/
def clRefuse (t : State) (code : Nat) : Stop := illegal t 10 code
/-- Tree fault (R332). -/
def treeStop (h minor reason : Nat) : Stop := .trap 0xD (reason + (minor <<< 8)) h

/-- Write sb at tick 1 (R331). -/
def clAnswer (t : State) (i : Info) (sb : BitVec 5) (perm x : Nat) : State :=
  push t 1 (.s sb (BitVec.ofNat 64 x)) (readLabel t.core i.rd ||| BitVec.ofNat 32 perm)

/-- At U or H, a handle of another partition (R331). -/
def otherPart (t : State) (h : Nat) : Bool := decide (t.core.cont.prv < 2) && h / 2 ^ 28 % 16 != t.core.cont.part

/-- The handle checks of R332 for a management word; `lax` for cl.query. -/
def handleOf (t : State) (minor h : Nat) (lax : Bool) : Except Stop TEnt :=
  let part := h / 2 ^ 28 % 16
  let e := readEnt t part (bits h 27 8)
  if otherPart t h then .error (privileged t)
  else if (partAt t part).ttn.toNat ≤ e.idx then .error (treeStop h minor 1)
  else unhurt t [(entAddr t part e.idx, 256)] (
    if e.st = 0 ∧ ¬lax then .error (treeStop h minor 1)
    else if e.gen ≠ h % 256 then .error (treeStop h minor 0)
    else if e.st = 5 ∧ ¬lax then .error (treeStop h minor 2)
    else .ok e)

/-- The bytes of a tree's lists: the node and member lists of its descriptor, and its router map (R312, R319). -/
def listParts (e : TEnt) : List (Nat × Nat) := [(e.desc + 0x40, 16 * e.ncnt + 8 * e.mcnt), (e.rmap, 8 * e.ncnt)]

/-- The entry that a handle names, if no check of R332 fails before the tree's state is looked at. -/
def named (t : State) (minor h : Nat) : Option TEnt := (handleOf t minor h false).toOption

/-- What a member's word meets on the handle: the entry, or the state of a tree that moves nothing now (R332). In a locked
quad, which makes no voluntary suspension (R129), the word meets tree fault there too (DESIGN CHOICE, log 28). -/
def memberHandle (t : State) (minor h seg : Nat) : Except Act TEnt :=
  match handleOf t minor h false with
  | .error e => .error (.error e)
  | .ok e =>
    if e.st = 2 then (match hurtStop t (listParts e) with
      | some y => .error (.error y)
      | none => .ok e)
    else match t.core.grp.safe with
      | some n =>
        if t.core.locked then .error (.error (treeStop h minor (if e.st = 1 then 5 else e.st)))
        else .error (.ok (safeSuspend t t.core.pc n 3 5 (seg % 65536) h false))
      | none => .error (.error (treeStop h minor (if e.st = 1 then 5 else e.st)))

/-- The physical address of a range whose pages lie contiguously (code 4), with its A and D bits set (R312, R342). The engine's
accesses are none that the device region takes (R519), which the size translated says. -/
def contigGo (va n pa0 : Nat) (kind : Kind) : List Nat → State → Except Stop State
  | [], t => .ok t
  | a :: as, t =>
    match translateMark t a t.core.who.vf t.core.who.part t.core.who.prv 16 kind with
    | .error e => .error (accStop t (.xlat e) a 8 (kind == .write) false)
    | .ok (t1, x) => if x.pa ≠ pa0 + (a - va) then .error (clRefuse t 4) else contigGo va n pa0 kind as t1

/-- The addresses at which n bytes at va enter each page after the first. -/
def laterPages (va n : Nat) : List Nat := (List.range ((va % 4096 + n - 1) / 4096)).map (fun j => (va / 4096 + j + 1) * 4096)

/-- Why the pages of a range stop its word, each on its own: no translation, or code 4 of one that does not lie where the first page
puts it. -/
def contigStops (t : State) (va n : Nat) (kind : Kind) : List Stop :=
  let pageAt (a : Nat) := translateMark t a t.core.who.vf t.core.who.part t.core.who.prv 16 kind
  (va :: laterPages va n).filterMap (fun a => match pageAt a, pageAt va with
    | .error e, _ => some (accStop t (.xlat e) a 8 (kind == .write) false)
    | .ok (_, x), .ok (_, y) => if x.pa ≠ y.pa + (a - va) then some (clRefuse t 4) else none
    | .ok _, .error _ => none)

/-- The physical address of a contiguous range, with its A and D bits set; of the causes of its pages the first in R35's order. -/
def contig (t : State) (va n : Nat) (kind : Kind) : Except Stop (State × Nat) :=
  match translateMark t va t.core.who.vf t.core.who.part t.core.who.prv 16 kind with
  | .error e => .error ((contigStops t va n kind).foldl lowerStop (accStop t (.xlat e) va 8 (kind == .write) false))
  | .ok (t1, x) =>
    match contigGo va n x.pa kind (laterPages va n) t1 with
    | .error e => .error ((contigStops t va n kind).foldl lowerStop e)
    | .ok t2 => .ok (t2, x.pa)

/-- A word whose range is no contiguous one: what the access to its n bytes meets comes before that stop where R35 says so. -/
def contigStop {α : Type} (t : State) (e : Stop) (n : Nat) (st : Bool) (r : Except (AErr × Nat) α) : Stop :=
  match r with
  | .error (x, a) => lowerStop e (accStop t x a n st false)
  | .ok _ => e

/-- The descriptor at an address (R312, R339): its shape, its physical address. -/
def readDesc (t : State) (va : Nat) : Except Stop (State × Shape × Nat) :=
  match readBytes t t.core.who va 64 with
  | .error (e, a) => .error (accStop t e a 64 false false)
  | .ok (_, hd, _) =>
    let m := rf hd 8 3
    let n := rf hd 0xC 3
    if m = 0 ∨ n = 0 ∨ 65536 < m ∨ 65536 < n then .error (clRefuse t 1)
    else
      let len := 64 + 16 * n + 8 * m
      match contig t va len .read with
      | .error e => .error (contigStop t e 64 false (readBytes t t.core.who va len))
      | .ok (t1, pa) => match readBytes t1 t1.core.who va len with
        | .error (e, a) => .error (accStop t e a 64 false false)
        | .ok (t2, img, _) => if descReserved img ∧ (shapeOf img).ok true then .ok (t2, shapeOf img, pa) else .error (clRefuse t 1)

/-- Make the tree (R339): status, and the state after it. What nodes of a replaced shape held goes with it, and a barrier phase
that the members of the new shape have all reached completes (R348). No router holds the configuration yet (DESIGN CHOICE,
log 28). A tree made again starts at CUR, HI, ESEG and SAVE of 0 as one made from a free entry does; R339 states it of free and dead entries
alone (DESIGN CHOICE, log 28). -/
def makeTree (t : State) (e : TEnt) (h : Shape) (pa : Nat) : State × TEnt × Nat :=
  if e.st = 3 ∨ e.st = 4 ∨ (e.st = 2 ∧ e.posted) then (t, e, 3)
  else
    let keep := e.st = 1 ∨ e.st = 2
    let t1 := if keep then freeSlots t e else t
    let rm := pa + 0x40 + 8 * h.ncnt
    let e1 : TEnt := { e with
      gen := if keep then e.gen else if e.st = 0 then 1 else e.gen % 255 + 1,
      op := h.op, fmt := h.fmt, segl := h.segl, fl := h.fl % 8, mcnt := h.mcnt, perm := h.perm, desc := pa, ncnt := h.ncnt,
      root := h.root, rmap := rm, cur := 0, hi := 0, eseg := 0, save := 0 }
    let t2 := setTree t1 e (if keep then { treeAt t1 e with nodes := [] } else Tree.empty)
    match takeSlots (slotsIn t2) t2 h.maps [] with
    | some (t3, l) =>
      let t4 := setTree (putSlots t3 rm h.maps l) e1 { treeAt t3 e1 with slots := l, cfg := [] }
      let e2 := { e1 with st := 2 }
      (barCheck (writeEnt t4 e2) e2, e2, 0)
    | none =>
      let e2 := { e1 with st := 1 }
      (barCheck (writeEnt t2 e2) e2, e2, 2)

/-- The router map of the tree that cl.tmk makes again, which gives up the slots it names (R339). -/
def oldParts (t : State) (e : TEnt) : List (Nat × Nat) :=
  if (e.st = 1 ∨ e.st = 2 ∧ ¬e.posted) ∧ (treeAt t e).slots ≠ [] then [(e.rmap, 8 * e.ncnt)] else []

def execClTmk (q aa : BitVec 4) (sb : BitVec 5) (s : State) :=
  let i := infoClTmk q aa sb
  tile i true s fun t =>
    let hd := (t.core.rdS sb).v.toNat % 2 ^ 32
    let va := (t.core.rdA aa).v.toNat
    if otherPart t hd then .error (privileged t)
    else if va % 64 ≠ 0 then .error (accStop t .mis va 64 false false)
    else match readDesc t va with
      | .error e => .error e
      | .ok (t1, h, pa) =>
        let part := hd / 2 ^ 28
        let idx := bits hd 27 8
        if (partAt t1 part).ttn.toNat ≤ idx then .error (treeStop hd 0 1)
        else
          unhurt t1 [(entAddr t1 part idx, 256)] <| unhurt t1 (oldParts t1 (readEnt t1 part idx)) <|
          let (t2, e, st) := makeTree t1 (readEnt t1 part idx) h pa
          .ok (clAnswer t2 i sb e.perm (st + (e.handle <<< 32)))

/-- A management word on a tree whose operand has the given alignment, which comes before what the handle shows (R35): f gives
the state after it and the status. -/
def manageAt (i : Info) (minor : Nat) (sb : BitVec 5) (mis : State → Option Stop) (s : State)
    (f : State → TEnt → Except Stop (State × Nat)) : Host.Outcome State Fault Refusal :=
  tile i true s fun t =>
    let hd := (t.core.rdS sb).v.toNat % 2 ^ 32
    match (if otherPart t hd then none else mis t) with
    | some e => .error e
    | none => match handleOf t minor hd false with
      | .error e => .error e
      | .ok e => match f t e with
        | .error x => .error x
        | .ok (t1, st) => .ok (clAnswer t1 i sb e.perm st)

def manage (i : Info) (minor : Nat) (sb : BitVec 5) (s : State) (f : State → TEnt → Except Stop (State × Nat)) :
    Host.Outcome State Fault Refusal := manageAt i minor sb (fun _ => none) s f

def execClTfree (q : BitVec 4) (sb : BitVec 5) (s : State) :=
  manage (infoClTfree q sb) 1 sb s fun t e => unhurt t (listParts e) <| .ok (freeTree t e, 0)

def execClFrz (q : BitVec 4) (sb : BitVec 5) (s : State) :=
  manage (infoClFrz q sb) 4 sb s fun t e => unhurt t (if e.st = 2 then listParts e else []) <|
    .ok (if e.st = 2 then (writeEnt (freezePulls t e) { e with st := 3 }, 0) else if e.st = 3 then (t, 0) else (t, 3))

def execClThaw (q : BitVec 4) (sb : BitVec 5) (s : State) :=
  manage (infoClThaw q sb) 5 sb s fun t e =>
    .ok (if e.st = 3 then (writeEnt t { e with st := 2 }, 0) else if e.st = 2 then (t, 0) else (t, 3))

/-! ### Saving and restoring (R342 to R344) -/

def TEnt.recSize (e : TEnt) : Nat :=
  64 * divUp (0x40 + e.accBytes + (if e.op ≤ 5 then e.els / 2 else 0) + (if e.skip ≠ 0 then 4 * e.els else 0)) 64
def TEnt.mapBytes (e : TEnt) : Nat := 64 * divUp e.mcnt 512
def TEnt.areaSize (e : TEnt) : Nat := 64 + 4 * e.mapBytes + 2 * e.ncnt * e.recSize

/-- A node record as saved (R343). -/
def recImage (e : TEnt) (r : TNode) : Nat :=
  r.seg % 2 ^ 32 + ((1 + 2 * b2n r.done) <<< 32) + (r.next <<< 40) + (r.ec <<< 64) + (r.lab.toNat <<< 96) + (r.cnt <<< 128)
    + (r.acc <<< 512) + (if e.op ≤ 5 then (r.est <<< (512 + 8 * e.accBytes)) + (if e.skip ≠ 0 then r.counts <<< (512 + 8 * e.accBytes + 4 * e.els) else 0) else 0)

def recOf (e : TEnt) (k x : Nat) : TNode :=
  { node := k, seg := rf x 0 4, done := bit (rf x 4 1) 1, next := rf x 5 1, ec := rf x 8 4, lab := BitVec.ofNat 32 (rf x 0xC 4), cnt := rf x 0x10 4,
    acc := rf x 0x40 e.accBytes, est := if e.op ≤ 5 then rf x (0x40 + e.accBytes) (e.els / 2) else 0,
    counts := if e.op ≤ 5 ∧ e.skip ≠ 0 then rf x (0x40 + e.accBytes + e.els / 2) (4 * e.els) else 0 }

/-- The save area (R343). Children that are absent have passed at once (R325): NEXT and D say so. -/
def areaImage (e : TEnt) (h : Shape) (t : Tree) : Nat :=
  let mb := e.mapBytes
  e.handle + ((e.cur % 2 ^ 32) <<< 32) + (e.op <<< 64) + (e.fmt <<< 72) + (e.segl <<< 80) + (e.fl <<< 88) + (e.ncnt <<< 96) + (e.mcnt <<< 128)
    + (e.recSize <<< 160) + (e.hi <<< 192) + (e.eseg <<< 224)
    + (packL (8 * mb) [t.posted0, t.posted1, t.deliv0, t.deliv1] <<< 512)
    + (packL (8 * e.recSize) ((List.range (2 * e.ncnt)).map (fun j =>
        let n := e.cur + j % 2
        let r := t.recAt (j / 2) n
        if t.isOpen e n then recImage e (if r.done ∨ e.op = 10 then r else skipOn e h r) else 0)) <<< (512 + 32 * mb))

/-- The label of a save area: the OR of the accumulators' labels and the word's (R342). -/
def saveLabel (t : State) (i : Info) (e : TEnt) : Label := orAll ((treeAt t e).nodes.map (·.lab)) ||| readLabel t.core i.rd

/-- Write the area (R342). -/
def execClSave (q aa : BitVec 4) (sb : BitVec 5) (s : State) :=
  let i := infoClSave q aa sb
  manageAt i 6 sb (fun t => let va := (t.core.rdA aa).v.toNat
      if va % 64 ≠ 0 then some (accStop t .mis va 64 true false) else none) s fun t e =>
    let va := (t.core.rdA aa).v.toNat
    if e.st ≠ 3 then .ok (t, 3)
    else unhurt t (listParts e) <| match contig t va e.areaSize .write with
      | .error x => .error (contigStop t x 64 true (writeBytes t t.core.who va e.areaSize 0 (saveLabel t i e)))
      | .ok (t1, pa) =>
        let tr := treeAt t1 e
        match writeBytes t1 t1.core.who va e.areaSize (areaImage e (entShape t1 e) tr) (saveLabel t1 i e) with
        | .error (x, a) => .error (accStop t x a 64 true false)
        | .ok t2 =>
          let t3 := freeSlots t2 e
          .ok (setTree (writeEnt t3 { e with st := 4, save := pa }) e { treeAt t3 e with nodes := [] }, 0)

/-- Load the area back into staging (R344). -/
def loadArea (t : State) (e : TEnt) (tr : Tree) : Tree :=
  let x := readPa t e.save e.areaSize
  let mb := e.mapBytes
  { tr with
    posted0 := rf x 0x40 mb, posted1 := rf x (0x40 + mb) mb, deliv0 := rf x (0x40 + 2 * mb) mb, deliv1 := rf x (0x40 + 3 * mb) mb,
    nodes := (List.range (2 * e.ncnt)).filterMap (fun j =>
      let r := rf x (0x40 + 4 * mb + e.recSize * j) e.recSize
      if bit (rf r 4 1) 0 then some (recOf e (j / 2) r) else none) }

/-- What cl.rst reads of a saved tree's lists: the nodes and members; the map that it gives up is not read (R344). -/
def restParts (e : TEnt) : List (Nat × Nat) := [(e.desc + 0x40, 16 * e.ncnt + 8 * e.mcnt)]

def execClRst (q aa : BitVec 4) (sb : BitVec 5) (s : State) :=
  manageAt (infoClRst q aa sb) 7 sb (fun t => let va := (t.core.rdA aa).v.toNat
      if va % 8 ≠ 0 then some (accStop t .mis va 8 false false) else none) s fun t e =>
    let va := (t.core.rdA aa).v.toNat
    if e.st ≠ 4 then .ok (t, 3)
    else unhurt t (restParts e) <| match contig t va (8 * e.ncnt) .read with
      | .error x => .error (contigStop t x 8 false (readBytes t t.core.who va (8 * e.ncnt)))
      | .ok (t1, pa) => match readBytes t1 t1.core.who va (8 * e.ncnt) with
        | .error (x, a) => .error (accStop t x a 8 false false)
        | .ok (t2, img, _) =>
          let h := { entShape t2 e with maps := (List.range e.ncnt).map (fun k => rf img (8 * k) 8) }
          if ¬(h.maps.all (fun r => decide (r < 2 ^ 19)) && (List.range e.ncnt).all h.nodeOk) then .error (clRefuse t 1)
          else match takeSlots (slotsIn t2) t2 h.maps [] with
            | none => .ok (t2, 2)
            | some (t3, l) => unhurt t2 [(e.save, e.areaSize)] <|
              let e1 := { (e.withFl 5 false) with st := 3, rmap := pa }
              let tr := loadArea t3 e1 (treeAt t3 e)
              .ok (writeEnt (setTree (putSlots t3 pa h.maps l) e { tr with slots := l, cfg := [] }) e1, 0)

/-! ### Edits, aborts, queries (R338, R345, R346) -/

/-- The edit word: a reserved bit, then the member index, then the status. -/
def editWord (i : Info) (sb : BitVec 5) (s : State) : Host.Outcome State Fault Refusal :=
  tile i true s fun t =>
    let x := (t.core.rdS sb).v.toNat
    let m := bits x 47 32
    let add := bit x 48
    if x >>> 49 ≠ 0 then .error (clRefuse t 0)
    else match handleOf t 8 (x % 2 ^ 32) false with
      | .error e => .error e
      | .ok e =>
        unhurt t (listParts e) <|
        let h := entShape t e
        let y := h.mems.getD m 0
        let ans (u : State) (st : Nat) : Act := .ok (clAnswer u i sb e.perm st)
        if e.mcnt ≤ m then .error (clRefuse t 5)
        else if ¬(e.st = 2 ∨ e.st = 3) ∨ e.px ∨ (treeAt t e).bars ≠ [] then ans t 3
        else if mbPr y = add then ans t 4
        else if ¬add ∧ ((h.mems.filter mbPr).length = 1 ∨ ((e.mode ∨ e.op = 6) ∧ isRoot h m)) then ans t 3
        else
          let e1 := { (e.withFl 3 true) with eseg := max e.cur e.hi }
          let t1 := writeEnt (engWr t (e.desc + 0x40 + 16 * e.ncnt + 8 * m) 8 (setBit y 49 true)) e1
          ans (if e1.eseg = e1.cur then applyEdit t1 e1 else t1) 0

def execClEditRemove (q : BitVec 4) (sb : BitVec 5) (s : State) := editWord (infoClEditRemove q sb) sb s
def execClEditAdd (q : BitVec 4) (sb : BitVec 5) (s : State) := editWord (infoClEditAdd q sb) sb s

def execClAbort (q : BitVec 4) (sb : BitVec 5) (s : State) :=
  manage (infoClAbort q sb) 0xD sb s fun t e => unhurt t (if e.st = 2 ∨ e.st = 3 then listParts e else []) <|
    .ok (if e.st = 2 ∨ e.st = 3 then (abortBoth t e, 0) else (t, 3))

/-- Contributors of CUR whose contribution has been pulled in full. -/
def pulledCount (s : State) (e : TEnt) (h : Shape) : Nat :=
  let t := treeAt s e
  ((List.range e.mcnt).filter (fun i => bit t.posted0 i && (t.postOf s h e.cur i).isNone)).length

def execClQuery (q : BitVec 4) (sb : BitVec 5) (s : State) :=
  let i := infoClQuery q sb
  tile i true s fun t =>
    let x := (t.core.rdS sb).v.toNat
    let item := bits x 35 32
    if x >>> 36 ≠ 0 ∨ 4 < item then .error (clRefuse t 0)
    else match handleOf t 0xA (x % 2 ^ 32) true with
      | .error e => .error e
      | .ok e => unhurt t (if item = 1 then listParts e else []) <|
        .ok (clAnswer t i sb e.perm (match item with
          | 0 => e.st + (e.fl <<< 8) + (e.cur <<< 32)
          | 1 => pulledCount t e (entShape t e)
          | 2 => e.areaSize
          | 3 => b2n e.px + (e.eseg <<< 32)
          | _ => e.hi))

/-! ### Posting and taking (R334 to R337) -/

def sgG (x : Nat) : Nat := bits x 15 10
def sgRa (x : Nat) : Nat := bits x 9 6
def sgDa (x : Nat) : Nat := bits x 19 16
def sgBa (x : Nat) : Nat := bits x 24 21
def sgCr (x : Nat) : Bool := bit x 20

/-- The status of a post (R335) and of a take (R337). -/
def segStatus (t : Tree) (e : TEnt) (n : Nat) (part already : Bool) : Nat :=
  if ¬part then 5 else if n < e.cur ∨ t.aborted.contains n ∨ already then 4 else if e.cur + 1 < n then 1 else 0

/-- A word whose status is not 0 retires with its answer: arrivals tied to it are made at tick 1 (R120). -/
def refusedWord (t : State) : State :=
  t.core.grp.eArr.foldl (fun u a => push u 1 (.arrive a) u.core.cl) { t with core := { t.core with grp := { t.core.grp with eArr := [] } } }

/-- The physical bytes of n bytes at va line by line, an address and a length each, for the hold of R336. -/
def postParts (t : State) (va n : Nat) : List Word :=
  (spanParts va n).flatMap (fun p => match translate t p.1 t.core.who.vf t.core.who.part t.core.who.prv 8 .read with
    | .ok (x, _) =>
      let line := match findWindow t.core.maps.toList p.1 1 0 with
        | some (off, _) => ((stashAt t off).map (·.pa)).getD (x.pa / 128 * 128)
        | none => x.pa / 128 * 128
      [BitVec.ofNat 64 (line + x.pa % 128), BitVec.ofNat 64 p.2]
    | .error _ => [])

/-- The stop of an access to a contribution or a shard, by 128-byte lines: TR_INFO bits 3:0 hold 7 for a stash map fault too
(R335; DEDUCED, log 28). -/
def lineStop (t : State) (e : AErr) (va : Nat) : Stop := sizedStop t e va 128 false

/-- Doublewords of an engine's operand in the device region, which takes none of its accesses (R519). -/
def deviceParts (t : State) (va n : Nat) : List (AErr × Nat) :=
  ((spanParts va n).filter (fun p => p.2 == 8)).filterMap (fun p =>
    match translate t p.1 t.core.who.vf t.core.who.part t.core.who.prv 8 .read with
    | .ok (x, _) => if region x.pa = 3 then some (.xlat (permFault x.lvl 11), p.1) else none
    | .error _ => none)

/-- Read a contribution or shard (R335): its bytes and the label of its lines; failures name the 128-byte line. -/
def readPart (t : State) (va n : Nat) : Except Stop (State × Nat × Label) :=
  match readBytes t t.core.who va n, deviceParts t va n with
  | .error (e, a), l => let w := worst (e, a) l
    .error (lineStop t w.1 w.2)
  | .ok _, (e, a) :: _ => .error (lineStop t e a)
  | .ok r, [] => .ok r

/-- A contribution or shard as its word tests it (R335): its bytes, the labels of its lines and the word's. The label fault of PERM
comes before the stash map fault of bytes that lie partly in a window or, where `win` says so, in none (R35). -/
def testPart (t : State) (i : Info) (e : TEnt) (win : Bool) (va n : Nat) : Except Stop (State × Nat × Label) :=
  let perm (l : Label) : Option Stop :=
    let miss := l &&& ~~~(BitVec.ofNat 32 e.perm)
    if miss ≠ 0 then some (accStop t (.label miss) va 128 false false) else none
  match readPart t va n with
  | .error x =>
    let l := orAll ((spanParts va n).map (fun p => match readVa t t.core.who p.1 p.2 .read with
      | .ok (_, _, l) => l
      | .error _ => 0))
    .error (((perm (l ||| readLabel t.core i.rd)).map (lowerStop x)).getD x)
  | .ok (t1, data, ml) =>
    let lab := ml ||| readLabel t1.core i.rd
    match perm lab with
    | some x => .error x
    | none => if win ∧ (findWindow t1.core.maps.toList va n 0).isNone then .error (lineStop t (.stash 4) va) else .ok (t1, data, lab)

/-- What a member's word that its handle stops answers, when its operand meets a cause too: of two causes the one reported first
(R35); a cause comes before the suspension. -/
def stopWith {α : Type} (act : Act) (r : Except Stop α) : Act :=
  match r, act with
  | .error x, .error y => .error (lowerStop y x)
  | .error x, .ok _ => .error x
  | .ok _, a => a

/-- Issue a post or an exchange on its tag and enter it in the tree's staging. -/
def enterPost (t : State) (i : Info) (sb : BitVec 5) (e : TEnt) (m n : Nat) (c : Cmd) (data : Nat) (lab : Label) (prov : Bool)
    (geo : List Word) : Act :=
  match issueCmd t c with
  | .error x => .error x
  | .ok t1 =>
    let tr := (treeAt t1 e).markPost e n m
    let t2 := setTree t1 e { tr with posts := tr.posts ++ [⟨n, t1.coreNo, c.ctx, c.tag, data, lab, prov, geo, false⟩] }
    .ok (clAnswer (writeEnt t2 { (e.withFl 4 true) with hi := max e.hi (n + 1) }) i sb e.perm 0)

def execClPost (q : BitVec 4) (ac rl : BitVec 1) (sc : BitVec 3) (aa : BitVec 4) (sb : BitVec 5) (s : State) :=
  let x := (s.core.rdS sb).v.toNat
  let i0 := infoClPost q ac rl sc aa sb
  let i := i0.naming (namedG (sgG x) 1)
  tile i true s fun t =>
    let g := (ctlG t.core (sgG x)).toNat
    let hd := g % 2 ^ 32
    let n := g >>> 32
    let va := (t.core.rdA aa).v.toNat
    if x >>> 16 ≠ 0 ∨ sgRa x ≠ 0 then .error (clRefuse t 0)
    else if otherPart t hd then .error (privileged t)
    else if va % 128 ≠ 0 then .error (accStop t .mis va 128 false false)
    else match memberHandle t 2 hd n with
      | .error act => match named t 2 hd with
        | some e => stopWith act (testPart t i e true va (2 ^ e.segl))
        | none => act
      | .ok e =>
        let size := 2 ^ e.segl
        let prov := skProv t va size
        match testPart t i e true va size with
        | .error x => .error x
        | .ok (t1, data, lab) =>
          let h := entShape t1 e
          let tr := treeAt t1 e
          let m := memberOf t1 h t1.coreNo
          let st := match m with
            | some j => segStatus tr e n (contributes e h n j && e.op != 10) (bit (tr.postedIn e n) j)
            | none => 5
          if st ≠ 0 then .ok (refusedWord (clAnswer t1 i0 sb e.perm st))
          else
            let c := mkCmd t1 i .post (x % 64) (t1.core.rdA aa).v (t1.core.rdS sb).v rl sc
            enterPost t1 i0 sb e (m.getD 0) n { c with lab := lab, geo := postParts t1 va size } data lab prov []

def execClTake (q : BitVec 4) (ac rl : BitVec 1) (sc : BitVec 3) (aa : BitVec 4) (sb : BitVec 5) (s : State) :=
  let x := (s.core.rdS sb).v.toNat
  let i0 := infoClTake q ac rl sc aa sb
  let skip (t : State) : Bool := let hd := (ctlG t.core (sgG x)).toNat % 2 ^ 32
    (readEnt t (hd / 2 ^ 28) (bits hd 27 8)).skip != 0
  let i := i0.naming (namedG (sgG x) 1 ++ [namedA (sgRa x)] ++ (if skip s then [namedA (sgDa x)] else [])
    ++ (if sgCr x then [namedA (sgBa x)] else []))
  tile i true s fun t =>
    let g := (ctlG t.core (sgG x)).toNat
    let hd := g % 2 ^ 32
    let n := g >>> 32
    let va := (t.core.rdA aa).v.toNat
    let ra := ctlA t.core (sgRa x)
    let da := ctlA t.core (sgDa x)
    if x >>> 25 ≠ 0 ∨ (¬sgCr x ∧ sgBa x ≠ 0) ∨ (named t 3 hd).any (fun e => e.skip == 0 && sgDa x != 0) then .error (clRefuse t 0)
    else if otherPart t hd then .error (privileged t)
    else if va % 128 ≠ 0 then .error (accStop t .mis va 128 true false)
    else if ra.toNat % 16 ≠ 0 then .error (accStop t .mis ra.toNat 128 true false)
    else if (named t 3 hd).any (fun e => e.skip != 0 && da.toNat % 16 != 0) then .error (accStop t .mis da.toNat 128 true false)
    else match memberHandle t 3 hd n with
      | .error act => act
      | .ok e =>
          let h := entShape t e
          let tr := treeAt t e
          let m := memberOf t h t.coreNo
          let st := match m with
            | some j => segStatus tr e n (receives e h n j)
                ((if e.op = 10 then tr.took.contains (n, j) else bit (tr.delivIn e n) j) || tr.takes.any (fun k => k.seg == n && k.core == t.coreNo))
            | none => 5
          if st ≠ 0 then .ok (refusedWord (clAnswer t i0 sb e.perm st))
          else
            let c := mkCmd t i .take (x % 64) (t.core.rdA aa).v (t.core.rdS sb).v rl sc
            match issueCmd (releaseFor t rl (if sgCr x then [ctlA t.core (sgBa x)] else [])) { c with da := da, xa := ra, ba := ctlA t.core (sgBa x) } with
            | .error y => .error y
            | .ok t1 =>
              .ok (clAnswer (setTree t1 e { treeAt t1 e with takes := (treeAt t1 e).takes ++ [⟨n, t1.coreNo, c.ctx, c.tag⟩] }) i0 sb e.perm 0)

/-! ### Multicast, barriers, resharding (R347 to R350) -/

/-- The address that the window holding stash bytes off to off + n - 1 gives them. -/
def stashVa (c : Core) (off n : Nat) : Option Nat :=
  c.maps.toList.findSome? (fun o => match o with
    | some e => if ¬e.closing ∧ e.so ≤ off ∧ off + n ≤ e.so + e.len then some (e.vbase.toNat + (off - e.so)) else none
    | none => none)

/-- The barriers at stash offset `off` that a multicast is to credit in this package. -/
def mcastBars (t : State) (off : Nat) (dsts : List Word) : List Addr :=
  ((dsts.filter (fun p => p.toNat / 256 == t.dev.pod.toNat)).filterMap (fun p => stashVa (coreAt t (p.toNat % 256)) off 16)).map (BitVec.ofNat 72)

def execClMcast (q : BitVec 4) (ac rl : BitVec 1) (sc : BitVec 3) (aa : BitVec 4) (sb : BitVec 5) (s : State) :=
  let x := (s.core.rdS sb).v.toNat
  let i0 := infoClMcast q ac rl sc aa sb
  let i := i0.naming (namedG (sgG x) 2 ++ (if sgCr x then [namedA (sgBa x)] else []))
  tile i true s fun t =>
    let g0 := ctlG t.core (sgG x)
    let g1 := ctlG t.core (sgG x + 1)
    let hd := g0.toNat % 2 ^ 32
    let so := bits g0.toNat 52 32
    let len := g1.toNat % 2 ^ 32
    let va := (t.core.rdA aa).v.toNat
    if x >>> 25 ≠ 0 ∨ sgRa x ≠ 0 ∨ sgDa x ≠ 0 ∨ (¬sgCr x ∧ sgBa x ≠ 0) then .error (clRefuse t 0)
    else if 64 < sgG x + 2 then .error (clRefuse t 2)
    else if len % 128 ≠ 0 ∨ len = 0 ∨ 2 ^ 21 < len then .error (clRefuse t 0)
    else if otherPart t hd then .error (privileged t)
    else if va % 128 ≠ 0 then .error (accStop t .mis va 128 false false)
    else if so % 128 ≠ 0 then .error (accStop t .mis so 128 false false)
    else match memberHandle t 0xB hd 0 with
      | .error act => stopWith act (readPart t va len)
      | .ok e => match readPart t va len with
        | .error y => .error y
        | .ok (t1, _, ml) =>
          let h := entShape t1 e
          if e.op ≠ 6 ∨ endpoint t1 t1.coreNo ≠ e.root then .ok (refusedWord (clAnswer t1 i0 sb e.perm 5))
          else
            let c := mkCmd t1 i .mcast (x % 64) (t1.core.rdA aa).v (t1.core.rdS sb).v rl sc
            let dsts := (h.mems.filter (fun y => mbPr y && mbEp y != e.root)).map (fun y => BitVec.ofNat 64 (mbEp y))
            match issueCmd (releaseFor t1 rl (if sgCr x then mcastBars t1 (16 * bits g0.toNat 63 53) dsts else []))
                { c with lab := c.lab ||| ml, geo := g0 :: g1 :: dsts } with
            | .error y => .error y
            | .ok t2 => .ok (clAnswer t2 i0 sb e.perm 0)

/-- What one receiving core makes of a multicast (R347): its writes, released there with REL = 1 (R185), its credit; a failure. A
core to which no router carries the partition's flits (R492) receives nothing, and counts as one whose stash is not the
sender's. A barrier outside every window fails the command with reason 7, and the bytes written stay (DESIGN CHOICE,
log 28). -/
def mcastTo (c : Cmd) (so len bo data : Nat) (lab : Label) (s : State) (r : Nat) : State × Option CFail :=
  let me := s.coreNo
  let t := focus s r
  let no : CFail := (CFail.of 7 0 0 so)
  match (if t.core.svf = some c.vf ∧ ownerOf s r = some (bits (c.geo.getD 0 0).toNat 31 28) then stashVa t.core so len else none) with
  | none => (s, some no)
  | some va =>
    let (t0, f) := workGo (fun j u => cmdWr u c.who ((va + 128 * j) % 2 ^ 72) 128 (data >>> (1024 * j) % 2 ^ 1024) lab) (len / 128) 0
      { t with core := unwritten t.core }
    let t1 := wroteBack c (s.core.ctxAt c.ctx).owner t t0
    match f with
    | some f => (focus t1 me, some f)
    | none =>
      if ¬sgCr c.ctl.toNat then (focus t1 me, none)
      else match stashVa t1.core (16 * bo) 16 with
        | none => (focus t1 me, some no)
        | some bv => match creditAt t1 c.who bv len false lab with
          | .ok t2 => (focus t2 me, none)
          | .error e => (focus t1 me, some e)

/-- The flits of a multicast to other packages (R469), to the first member of each: each package is judged, in the partition of the
tree's handle (R470), each refusal counted (R472); what passes goes out as flits, n bytes of v. -/
def mcastOut (c : Cmd) (l : Label) (n v : Nat) : List Nat → State → State × Option CFail
  | [], s => (s, none)
  | p :: ps, s =>
    let part := bits (c.geo.getD 0 0).toNat 31 28
    match gate s c.part l (.peer (p / 256) part) with
    | some out => mcastOut c l n v ps (treeFlits part p (256 * s.dev.pod.toNat + s.coreNo) out (divUp n 224) v s)
    | none =>
      let (u, f) := mcastOut c l n v ps (countRefusal s c.part l)
      (u, some (f.getD (CFail.of 9 (gateReason l) 0 (bits (c.geo.getD 0 0).toNat 52 32))))

/-- Of the endpoints of each package the first. -/
def firstOfEach : List Nat → List Nat
  | [] => []
  | p :: l => p :: (firstOfEach l).filter (fun q => q / 256 != p / 256)

/-- One receiving core after another: the first failure is kept, a later one leaves what it leaves all the same (R153, R472); that a
receiver's write is held (R336) comes before both. -/
def mcastStep (c : Cmd) (so len bo data : Nat) (lab : Label) (acc : State × Option CFail) (p : Nat) : State × Option CFail :=
  let (u, g) := mcastTo c so len bo data lab acc.1 (p % 256)
  if g.any CFail.isHeld then (u, g)
  else match acc.2 with
    | some f => (if f.isHeld then u else countFail u c.who g, some f)
    | none => (u, g)

/-- Run a multicast: every receiving core of this package. While a receiver's write is held (R336) the command waits, and has done
nothing. From a core of another partition than the tree's no router carries a flit to a member (R492): no core receives, which is a
deferred copy fault of reason 7 (DESIGN CHOICE, log 28). -/
def runMcast (s : State) (c : Cmd) : Ending :=
  let g0 := (c.geo.getD 0 0).toNat
  let len := (c.geo.getD 1 0).toNat % 2 ^ 32
  match cmdRd s c.who c.aa.toNat len with
  | .error f => ⟨s, c, none, some f⟩
  | .ok (s1, data, ml) =>
    let all := (c.geo.drop 2).map (·.toNat)
    let eps := all.filter (fun p => p / 256 == s.dev.pod.toNat)
    if all ≠ [] ∧ ownerOf s1 s1.coreNo ≠ some (bits g0 31 28) then ⟨s1, c, none, some (CFail.of 7 0 0 (bits g0 52 32))⟩
    else
      let (s1, g) := mcastOut c (ml ||| c.lab) len data (firstOfEach (all.filter (fun p => p / 256 != s.dev.pod.toNat))) s1
      let (s2, f) := eps.foldl (mcastStep c (bits g0 52 32) len (bits g0 63 53) data (ml ||| c.lab)) (s1, none)
      ⟨if f.any CFail.isHeld then s else s2, c, none, f.orElse (fun _ => g)⟩

/-- A tree barrier object as cl.bar tests it (R348), read and written as it stands: the state after the tests, its physical address
and the labels of the object and of the word. -/
def testBar (t : State) (i : Info) (va : Nat) : Except Stop (State × Nat × Label) :=
  match readVa t t.core.who va 16 .rmw with
  | .error x => .error (accStop t (firstCause x (writeVa t t.core.who va 16 0 (readLabel t.core i.rd) 0)) va 16 false true)
  | .ok (t1, w, ml) =>
    let lab := ml ||| readLabel t1.core i.rd
    match writeVa t1 t1.core.who va 16 w lab 0 with
    | .error x => .error (accStop t x va 16 false true)
    | .ok t2 => match translate t2 va t2.core.who.vf t2.core.who.part t2.core.who.prv 16 .rmw with
      | .error x => .error (accStop t (.xlat x) va 16 false true)
      | .ok (x, _) => .ok (t2, x.pa, lab)

/-- The arrival's flits to the other packages that have present members, to the first of each: each judged under the arrival's label, a
refusal counted and its flit not sent (R353, R469, R472). An arrival belongs to no segment, so a refusal aborts none (DESIGN CHOICE,
log 28). -/
def barOut (part : Nat) (l : Label) : List Nat → State → State
  | [], s => s
  | p :: ps, s => barOut part l ps (match gate s part l (.peer (p / 256) part) with
    | some out => treeFlits part p (256 * s.dev.pod.toNat + s.coreNo) out 1 0 s
    | none => countRefusal s part l)

/-- The endpoints of other packages at which a tree has present members. -/
def membersAway (s : State) (h : Shape) : List Nat :=
  ((h.mems.filter mbPr).map mbEp).filter (fun p => p / 256 != s.dev.pod.toNat)

/-- cl.bar (R348). With REL = 1 an arrival acts as a release of the object, the member's own (R183, R193). -/
def execClBar (q : BitVec 4) (ac rl : BitVec 1) (sc : BitVec 3) (aa : BitVec 4) (sb : BitVec 5) (s : State) :=
  let i := infoClBar q ac rl sc aa sb
  tile i true s fun t =>
    let hd := (t.core.rdS sb).v.toNat % 2 ^ 32
    let va := (t.core.rdA aa).v.toNat
    if otherPart t hd then .error (privileged t)
    else if va % 16 ≠ 0 then .error (accStop t .mis va 16 false true)
    else match memberHandle t 0xC hd 0 with
      | .error act => stopWith act (testBar t i va)
      | .ok e => match testBar t i va with
        | .error x => .error x
        | .ok (t2, pa, lab) =>
          let h := entShape t2 e
          let tr := treeAt t2 e
          -- a refused arrival writes nothing, and keeps what its walk has set (R153)
          let refused (st : Nat) : Act := .ok (clAnswer (markSpan t t.core.who va 16 .rmw) i sb e.perm st)
          match memberOf t2 h t2.coreNo with
          | none => refused 5
          | some m =>
            if ¬mbPr (h.mems.getD m 0) then refused 5
            else if tr.bars.any (fun b => b.core == t2.coreNo) then refused 3
            else
              let t3 := barOut e.part lab (firstOfEach (membersAway t2 h)) (if rl = 1 then releaseLines t2 (t2.core.rdA aa).v else t2)
              .ok (clAnswer (barCheck (setTree t3 e { tr with bars := tr.bars ++ [⟨t2.coreNo, pa, lab⟩] }) e) i sb e.perm 0)

/-- Word j of a layout without its reserved bits, which have no effect (R10, R349). -/
def layoutWord (j : Nat) (w : Word) : Word := if j = 0 then w else if j = 1 then w &&& 7 else w &&& 0x77FFFFFFFF

/-- What a word meets on its source, beside a cause of its own that the operands' addresses make: the one that comes first (R35). -/
def orCause {α : Type} (y : Option Stop) (r : Except Stop α) : Except Stop α :=
  match y, r with
  | some y, .error x => .error (lowerStop x y)
  | some y, .ok _ => .error y
  | none, r => r

/-- cl.reshard (R349, R350). On a tree whose OP is not exchange it answers 5, which R349 does not state: by R324 such a tree has no contributor
through cl.reshard (DEDUCED, log 28). -/
def execClReshard (q : BitVec 4) (ac rl : BitVec 1) (sc : BitVec 3) (aa : BitVec 4) (sb : BitVec 5) (s : State) :=
  let x := (s.core.rdS sb).v.toNat
  let i0 := infoClReshard q ac rl sc aa sb
  let tOf (c : Core) : Nat := (ctlG c (sgG x + 2)).toNat % 8
  let i := i0.naming (namedG (sgG x) (3 + tOf s.core) ++ [namedA (sgRa x), namedA (sgDa x)])
  tile i true s fun t =>
    let g := (ctlG t.core (sgG x)).toNat
    let hd := g % 2 ^ 32
    let n := g >>> 32
    let td := tOf t.core
    let geo := (List.range (2 + td)).map (fun j => layoutWord j (ctlG t.core (sgG x + 1 + j)))
    let va := (t.core.rdA aa).v.toNat
    let ra := ctlA t.core (sgRa x)
    let da := ctlA t.core (sgDa x)
    if x >>> 20 ≠ 0 then .error (clRefuse t 0)
    else if 64 < sgG x + 3 then .error (clRefuse t 2)
    else if td = 0 ∨ td = 7 then .error (clRefuse t 3)
    else if 64 < sgG x + 3 + td then .error (clRefuse t 2)
    else if layoutBad geo ((named t 9 hd).map (·.mcnt)) then .error (clRefuse t 3)
    else if otherPart t hd then .error (privileged t)
    else if ra.toNat % 16 ≠ 0 then .error (accStop t .mis ra.toNat 128 true false)
    else
      let ebs := ((named t 9 hd).map (fun e => max 1 (fmtWidth e.fmt / 8))).getD 1
      if va % ebs ≠ 0 then .error (accStop t .mis va 128 false false)
      else if da.toNat % ebs ≠ 0 then .error (accStop t .mis da.toNat 128 true false)
      else
      let ns := shardEls geo (dimSrc geo) * ebs
      let nd := shardEls geo (dimDst geo) * ebs
      let clash := if ns = 0 ∨ nd = 0 then none else aliasStop (va, va + ns) (da.toNat, da.toNat + nd)
      match memberHandle t 9 hd n with
      | .error act => match named t 9 hd with
        | some e => stopWith act (orCause clash (testPart t i e false va ns))
        | none => act
      | .ok e =>
        let h := entShape t e
        match orCause clash (testPart t i e false va ns) with
        | .error y => .error y
        | .ok (t1, data, lab) =>
          let tr := treeAt t1 e
          let m := memberOf t1 h t1.coreNo
          let st := match m with
            | some j => segStatus tr e n (isMember e h n j && e.op == 10) (bit (tr.postedIn e n) j)
            | none => 5
          if st ≠ 0 then .ok (refusedWord (clAnswer t1 i0 sb e.perm st))
          else
            let c := mkCmd t1 i .reshard (x % 64) (t1.core.rdA aa).v (t1.core.rdS sb).v rl sc
            enterPost t1 i0 sb e (m.getD 0) n { c with lab := lab, da := da, xa := ra, geo := postParts t1 va ns } data lab false geo

/-! ## Links (R354) -/

/-- Freeze every live tree with a route that a failed link carries: its open segments are aborted, posts with unpulled
bytes end as a link fault. `hit` says whether two neighbouring routers of the shape are joined by the link; a quad node's
members stand at the router of their quad, and the members of other packages, to whom results and multicasts go straight, at one
with the low bits of their endpoint (log 20). -/
def freezeTrees (s : State) (hit : Nat → Nat → Bool) : State :=
  s.trees.foldl (fun u t =>
    let e := readEnt u (t.1 / 2 ^ 20) (t.1 % 2 ^ 20)
    let h := entShape u e
    let out := ((h.mems.map mbEp).filter (fun p => p / 256 != h.pkg h.top)).map (fun p => p / 256 * 128 + p % 4)
    let sent := ((h.mems.map mbEp).filter (fun p => h.op == 6 && p / 256 != h.root / 256)).map (fun p => p / 256 * 128 + p % 4)
    let used := out.any (hit (h.rtr h.top)) || sent.any (hit (h.root / 256 * 128)) || (List.range e.ncnt).any (fun k => (ndPn (h.node k) != topPn && hit (h.rtr k) (h.rtr (ndPn (h.node k))))
      || (h.lv k == 0 && (h.quads k).any (fun q => hit (q / 64 * 128 + q % 64) (h.rtr k))))
    if e.st = 2 ∧ used then
      let u1 := abortOpen u e (some (CFail.of 6 0 0 0))
      writeEnt u1 ({ readEnt u1 e.part e.idx with st := 3 }.withFl 5 true)
    else u) s

end Sys2Proof.Machine
end

