-- ==== Sys2Proof/Machine/Jetty.lean ====
section
/-! DEFINITION. Step mailboxes and episodes (R396 to R423): the tile's words of major 0x1B, the words a Jetty hart adds,
the watchdog, and a hart's turn. -/
namespace Sys2Proof.Machine

/-! ## Mailboxes (R403 to R406) -/

def mbAddr (s : State) (k : Nat) : Nat := s.evMbt + 64 * k
/-- The 64-byte header of a mailbox. -/
def mbGet (s : State) (k : Nat) : Nat := readPa s (mbAddr s k) 64
def mbPut (s : State) (k x : Nat) : State := engWr s (mbAddr s k) 64 x

def mbSt (x : Nat) : Nat := imgF x 0 1
def mbMode (x : Nat) : Nat := imgF x 1 1 % 4
def mbAbrt (x : Nat) : Nat := imgF x 2 1
def mbDepth (x : Nat) : Nat := 2 ^ (imgF x 3 1 % 4)
def mbSlot (x : Nat) : Nat := 2 ^ (8 + bits (imgF x 3 1) 5 2)
def mbEpid (x : Nat) : Nat := imgF x 4 2 % 4096
def mbPort (x : Nat) : Nat := bits (imgF x 4 2) 13 12
def mbVp (x : Nat) : Nat := imgF x 6 2
def mbLbl (x : Nat) : Label := BitVec.ofNat 32 (imgF x 8 4)
def mbGcur (x : Nat) : Nat := imgF x 0xC 2
def mbAseq (x : Nat) : Nat := imgF x 0x10 4
def mbAcon (x : Nat) : Nat := imgF x 0x14 4
def mbOseq (x : Nat) : Nat := imgF x 0x18 4
def mbOrec (x : Nat) : Nat := imgF x 0x1C 4
/-- The distance from one 4-byte counter to another. -/
def gap (a b : Nat) : Nat := (a + 2 ^ 32 - b) % 2 ^ 32

/-- The slot of action or observation n. -/
def mbSlotAddr (s : State) (k x n : Nat) (obs : Bool) : Nat :=
  s.evMbb + 65536 * k + (if obs then 32768 else 0) + n % mbDepth x * mbSlot x

/-- A message (R404): its header and payload as one number. -/
def message (step gen fl len : Nat) (lbl : Label) (payload : Nat) : Nat :=
  step % 2 ^ 32 + ((gen % 65536) <<< 32) + ((fl % 256) <<< 48) + ((len % 2 ^ 32) <<< 64) + (lbl.toNat <<< 96) + ((payload % 2 ^ (8 * len)) <<< 128)

/-- An open or draining mailbox becomes aborted (R406): unconsumed actions are discarded, but at the failure of a die link
(ABRT 5). A consumed action stays unanswered (R405). -/
def abortMail (abrt : Nat) (s : State) (k : Nat) : State :=
  let x := mbGet s k
  if mbSt x = 1 ∨ mbSt x = 2 then
    mbPut s k (putRf (putRf (putRf x 0 1 4) 2 1 abrt) 0x10 4 (if abrt = 5 then mbAseq x else mbAcon x))
  else s

/-- The condition of a WK = 3 wait (R18, R411): an observation to receive, or a mailbox ended or aborted. -/
def mbReady (s : State) (k : Nat) : Bool :=
  let x := mbGet s k
  mbOseq x != mbOrec x || mbSt x == 3 || mbSt x == 4

/-! ## Episodes (R396 to R402, R419) -/

/-- The mailbox of port p of an episode entry, if bound. -/
def epPort (x p : Nat) : Option Nat :=
  let v := imgF x (0x50 + 2 * p) 2
  if bit v 15 then some (v % 8192) else none
def epMail (x : Nat) : List Nat := (List.range 4).filterMap (epPort x)
def epVp (x : Nat) : Nat := imgF x 4 2
def epHart (x : Nat) : Nat := imgF x 6 1
def epLive (x : Nat) : Bool := epSt x == 1 || epSt x == 2 || epSt x == 3
/-- The I/O die, 0 or 1, that an episode or a hart belongs to (R392, R396). -/
def epDie (e : Nat) : Nat := e / 2048
def hartDie (n : Nat) : Nat := n / 48

/-- The hart of a running episode is unbound (R400, R419); a stalled jx.wait with it. -/
def unbindHart (s : State) (x : Nat) : State :=
  if epSt x = 2 then setHart s (epHart x) { hartAt s (epHart x) with ep := none, irem := 0, wait := none } else s

/-- IREM as the machine holds it now: in the hart of a bound episode. -/
def epIrem (s : State) (x : Nat) : Nat := if epSt x = 2 then (hartAt s (epHart x)).irem.toNat else imgF x 0x20 8

/-- An episode becomes ended or stopped (R400, R406, R419): its mailboxes are aborted, its hart unbound, its budgets
disarmed, and its wipe begins (R401). -/
def closeEpisode (s : State) (e st cause abrt : Nat) (notice : Bool) : State :=
  let x := epGet s e
  let s1 := (epMail x).foldl (abortMail abrt) s
  let fl := cause + 8 + (if notice then 16 else bits (epFl x) 4 4 * 16)
  let x1 := putRf (putRf (putRf (putRf x 2 1 st) 3 1 fl) 0x20 8 (epIrem s x)) 0x28 8 0
  unbindHart (epPut { s1 with armed := s1.armed.filter (· != e), wiping := e :: s1.wiping.filter (· != e) } e x1) x

/-- The stop of R419: budget expiry (1, 2) or monitor abort (3). -/
def stopEpisode (s : State) (e cause : Nat) : State :=
  let x := epGet s e
  closeEpisode s e 5 cause cause (epSt x == 2 || cause != 3)

/-- The wipe of an episode completes (R401). -/
def wipeDone (s : State) (e : Nat) : State :=
  let x := epGet s e
  let ws := (List.range 4).map (epWin x)
  let kept := s.jcache.filter (fun l => !ws.any (fun w => decide (winBase w ≤ linePa s l.2) && decide (linePa s l.2 < winBase w + winLen w)))
  let s1 := ws.foldl (fun t w => (List.range (bits w 55 40)).foldl (fun u i => engWr u (winBase w + 65536 * i) 65536 0) t) { s with jcache := kept }
  epPut s1 e (putRf x 3 1 (epFl x - 8))

/-! ## Tile words (R407 to R414) -/

def evRefuse (t : State) (code : Nat) : Stop := illegal t 12 code
/-- Mailbox fault (R408). -/
def mbStop (t : State) (k reason : Nat) : Stop := .trap 0x17 (reason + (k <<< 16)) (mbAddr t k)
/-- Watchdog (R411). -/
def watchStop (t : State) (k x : Nat) : Stop := .trap 0x12 (k + (mbAbrt x <<< 16) + (mbEpid x <<< 24)) (mbAddr t k)

def callerVp (t : State) : Nat := t.core.cont.vf + (t.core.cont.part <<< 9)

/-- Is a mailbox number in the partition's range (R408, R421)? -/
def mbInRange (t : State) (k : Nat) : Bool :=
  let r := (partAt t t.core.cont.part).mbr.toNat
  decide (r % 8192 ≤ k) && decide (k < r % 8192 + bits r 26 13)

/-- The checks of R408 on a mailbox: range, owner, and closed when `live` asks for an open one. -/
def mbCheck (t : State) (k : Nat) (live : Bool) : Option Nat :=
  let x := mbGet t k
  if ¬mbInRange t k then some 0
  else if mbSt x ≠ 0 ∧ mbVp x ≠ callerVp t then some 1
  else if live ∧ mbSt x = 0 then some 2
  else none

/-- The header of a mailbox of the partition's range, as a word reads it. -/
def mailParts (t : State) (k : Nat) : List (Nat × Nat) := if mbInRange t k then [(mbAddr t k, 64)] else []

/-- The label of an answer (R414): the mailbox's and those of the registers read and the context. -/
def evAnswer (t : State) (i : Info) (sb : BitVec 5) (l : Label) (x : Nat) : State :=
  push t 1 (.s sb (BitVec.ofNat 64 x)) (readLabel t.core i.rd ||| l)

/-- The die of the sequence that names the mailbox (R406). -/
def markDie (t : State) (k : Nat) : State := { t with mbDie := insertKey k (dieNo t) t.mbDie }

/-- A stash operand of n bytes (R408): its lines are translated and made present, and lie in one window; of the causes that
apply the first in R35's order. What it reads is no access that the device region takes (R519). -/
def stashOp (t : State) (va n : Nat) (kind : Kind) : Except Stop (State × Nat × Label) :=
  let out : List (AErr × Nat) := if n = 0 ∨ (findWindow t.core.maps.toList va n 0).isSome then [] else [(.stash 4, va)]
  let out := out ++ (if kind = .read then deviceParts t va n else [])
  let stop (e : AErr × Nat) : Except Stop (State × Nat × Label) := .error (accStop t e.1 e.2 128 (kind == .write) false)
  match readSpan t t.core.who kind (lineCount va n) va n, out with
  | .ok r, [] => .ok r
  | .ok _, e :: l => stop (worst e l)
  | .error e, l => stop (worst e (partErrors va n (fun a c => errOf (readVa t t.core.who a c kind)) ++ l))

/-- A stash destination of n bytes. -/
def stashDest (t : State) (va n : Nat) : Except Stop State := (stashOp t va n .write).map (·.1)

/-- A stash source of n bytes: the lines are read. -/
def stashSrc (t : State) (va n : Nat) : Except Stop (State × Nat × Label) := stashOp t va n .read

/-- Is generation a older than b (R415)? A distance of 32,768 is neither. -/
def genOlder (a b : Nat) : Bool := let d := (b + 65536 - a) % 65536; decide (1 ≤ d) && decide (d ≤ 32767)

/-- ev.open (R409). -/
def execEvOpen (q : BitVec 4) (sb : BitVec 5) (s : State) :=
  let i := infoEvOpen q sb
  tile i true s fun t =>
    let x := (t.core.rdS sb).v.toNat
    let k := x % 8192
    let e := bits x 24 13
    let p := bits x 51 50
    let m := mbGet t k
    let en := epGet t e
    let answer (u : State) (v : Nat) : Act := .ok (evAnswer u i sb (mbLbl m) v)
    if x >>> 52 ≠ 0 ∨ 4 ≤ bits x 29 27 then .error (evRefuse t 0)
    else if bits x 26 25 = 3 ∨ 32768 < 2 ^ (bits x 29 27 + bits x 33 30 + 8) then .error (evRefuse t 1)
    else if ¬mbInRange t k then .error (mbStop t k 0)
    else unhurt t (mailParts t k) <| if mbSt m ≠ 0 then answer t 3
    else unhurt t [(epAddr t e, 128)] <| if ¬epLive en ∨ epVp en ≠ callerVp t then answer t 5
    else if (epPort en p).isSome then answer t 3
    else
      let l := readLabel t.core i.rd
      let hdr := 1 + (bits x 26 25 <<< 8) + ((bits x 29 27 + (bits x 33 30 <<< 2)) <<< 24) + ((e + (p <<< 12)) <<< 32)
        + (callerVp t <<< 48) + (l.toNat <<< 64) + (bits x 49 34 <<< 96)
      let t1 := epPut (mbPut (markDie t k) k hdr) e (putRf en (0x50 + 2 * p) 2 (0x8000 + k))
      answer { t1 with gone := t1.gone.filter (· != 4 * e + p), unans := eraseKey k t1.unans } 0

/-- Is a record of the waiting ones held by a WK = 3 wait on the mailbox (R413)? -/
def mbWaited (s : State) (k : Nat) : Bool :=
  s.parked.any (fun pa => let r := readRecord s pa; rf r 0x1D 1 == 3 && rf r 0x1E 2 % 8192 == k)

/-- ev.close (R413). -/
def execEvClose (q : BitVec 4) (sb : BitVec 5) (s : State) :=
  let i := infoEvClose q sb
  tile i true s fun t =>
    let x := (t.core.rdS sb).v.toNat
    let k := x % 8192
    let m := mbGet t k
    let answer (u : State) (v : Nat) : Act := .ok (evAnswer u i sb (mbLbl m) v)
    if x >>> 13 ≠ 0 then .error (evRefuse t 0)
    else unhurt t (mailParts t k) <| match mbCheck t k false with
      | some r => .error (mbStop t k r)
      | none =>
        if mbSt m = 0 then answer t 4
        else if mbWaited t k then answer t 3
        else unhurt t [(epAddr t (mbEpid m), 128)] <|
          let e := mbEpid m
          let en := epGet t e
          let t1 := mbPut t k (putRf m 0 1 0)
          let t2 : State := if epPort en (mbPort m) = some k then
            { epPut t1 e (putRf en (0x50 + 2 * mbPort m) 2 0) with gone := (4 * e + mbPort m) :: t1.gone.filter (· != 4 * e + mbPort m) }
            else t1
          answer { t2 with unans := eraseKey k t2.unans } 0

/-- ev.send (R410, R416). -/
def execEvSend (q : BitVec 4) (aa : BitVec 4) (sb : BitVec 5) (s : State) :=
  let i := infoEvSend q aa sb
  tile i true s fun t =>
    let x := (t.core.rdS sb).v.toNat
    let va := (t.core.rdA aa).v.toNat
    let k := x % 8192
    let g := bits x 28 13
    let len := bits x 44 29
    let m := mbGet t k
    if x >>> 52 ≠ 0 then .error (evRefuse t 0)
    else unhurt t (mailParts t k) <| if va % 16 ≠ 0 then .error (accStop t .mis va 16 false false)
    else
      -- the operand's own failures come before the mailbox's, as the lower cause does (R35)
      let bad := mbCheck t k true
      match stashSrc t va len with
      | .error y => .error y
      | .ok (t1, data, ml) =>
        match (match bad with
          | some r => some r
          | none => if mbSlot m - 16 < len then some 3 else none) with
        | some r => .error (mbStop t k r)
        | none =>
          let t2 := markDie t1 k
          let refuse (u : State) (v : Nat) : Act := .ok (refusedWord (evAnswer u i sb (mbLbl m) v))
          if mbSt m = 4 then
            if bit x 51 ∧ (mbAbrt m = 1 ∨ mbAbrt m = 2) then .error (watchStop t k m) else refuse t2 6
          else if mbSt m = 2 ∨ mbSt m = 3 then refuse t2 4
          else if mbMode m ≠ 0 ∧ genOlder g (mbGcur m) then refuse t2 4
          else if mbMode m = 2 ∧ genOlder (mbGcur m) g then
            refuse (mbPut t2 k (putRf m 0 1 (if mbAseq m = mbOseq m then 3 else 2))) 4
          else if mbDepth m ≤ gap (mbAseq m) (mbAcon m) then refuse t2 1
          else unhurt t2 [(mbSlotAddr t2 k m (mbAseq m) false, 16 + len)] <|
            let l := ml ||| readLabel t2.core i.rd
            match issueCmd t2 { mkCmd t2 i .send (bits x 50 45) (t2.core.rdA aa).v (t2.core.rdS sb).v 0 0 with lab := l } with
            | .error y => .error y
            | .ok t3 =>
              let n := mbAseq m
              let t4 := engWr t3 (mbSlotAddr t3 k m n false) (16 + len) (message n g 0 len l data)
              let m1 := putRf (putRf m 0x10 4 (n + 1)) 8 4 (mbLbl m ||| l).toNat
              let m2 := if genOlder (mbGcur m) g then putRf m1 0xC 2 g else m1
              .ok (evAnswer (mbPut t4 k m2) i sb (mbLbl m) 0)

/-- The slot of the oldest observation not received, as far as it is read. -/
def obsParts (t : State) (k m : Nat) : List (Nat × Nat) :=
  let a := mbSlotAddr t k m (mbOrec m) true
  if mbOseq m = mbOrec m then [] else [(a, 16 + min (readPa t (a + 8) 4) (mbSlot m - 16))]

/-- A taken observation (R411): OREC advances; what the copy writes, as offset, bytes, label and words. -/
def takeObs (t : State) (k m off : Nat) : State × List Word × Nat :=
  let n := mbOrec m
  let a := mbSlotAddr t k m n true
  let h := readPa t a 16
  let len := min (imgF h 8 4) (mbSlot m - 16)
  let img := readPa t a (16 + len)
  let words := (List.range (divUp (16 + len) 8)).map (fun j => BitVec.ofNat 64 (imgF img (8 * j) 8))
  (mbPut t k (putRf m 0x1C 4 (n + 1)), BitVec.ofNat 64 off :: BitVec.ofNat 64 (16 + len) :: BitVec.ofNat 64 (imgF h 0xC 4 ||| t.core.cl.toNat) :: words, h)

/-- Write the captured messages of ev.recv or ev.gather (R411, R412), each with its own label and the context label. -/
def writeMsgs (c : Cmd) : Nat → List Word → State → State × Option CFail
  | 0, _, s => (s, none)
  | n + 1, off :: len :: lbl :: rest, s =>
    let k := divUp len.toNat 8
    match cmdWr s c.who ((c.aa.toNat + off.toNat) % 2 ^ 72) len.toNat (packL 64 ((rest.take k).map (·.toNat)) % 2 ^ (8 * len.toNat))
        (BitVec.ofNat 32 lbl.toNat) with
    | .error e => (s, some e)
    | .ok s1 => writeMsgs c n (rest.drop k) s1
  | _ + 1, _, s => (s, none)

/-- A receive or gather completes. -/
def runRecv (s : State) (c : Cmd) : Ending :=
  let (s1, f) := writeMsgs c 32 c.geo s
  ⟨s1, c, none, f⟩

/-- ev.recv (R411). -/
def execEvRecv (q : BitVec 4) (aa : BitVec 4) (sb : BitVec 5) (s : State) :=
  let i := infoEvRecv q aa sb
  tile i true s fun t =>
    let x := (t.core.rdS sb).v.toNat
    let va := (t.core.rdA aa).v.toNat
    let k := x % 8192
    let m := mbGet t k
    if x >>> 20 ≠ 0 then .error (evRefuse t 0)
    else unhurt t (mailParts t k) <| if va % 16 ≠ 0 then .error (accStop t .mis va 16 true false)
    else
      let bad := mbCheck t k true
      -- a mailbox outside the partition's range has no SLOT to go by: the least one is checked (log 29)
      match stashDest t va (if bad = some 0 then 256 else mbSlot m) with
      | .error y => .error y
      | .ok t0 => match bad with
        | some r => .error (mbStop t k r)
        | none =>
          let t1 := markDie t0 k
          let refuse (v : Nat) : Act := .ok (refusedWord (evAnswer t1 i sb (mbLbl m) v))
          if mbOseq m ≠ mbOrec m then
            unhurt t1 (obsParts t1 k m) <|
            let (t2, geo, h) := takeObs t1 k m 0
            match issueCmd t2 { mkCmd t2 i .recv (bits x 18 13) (t2.core.rdA aa).v (t2.core.rdS sb).v 0 0 with
                geo := geo, lab := BitVec.ofNat 32 (imgF h 0xC 4) ||| t2.core.cl } with
            | .error y => .error y
            | .ok t3 => .ok (evAnswer t3 i sb (mbLbl m) ((imgF h 6 1 <<< 8) + (imgF h 4 2 <<< 16) + (imgF h 0 4 <<< 32)))
          else if mbSt m = 4 then
            if bit x 19 ∧ (mbAbrt m = 1 ∨ mbAbrt m = 2) then .error (watchStop t k m) else refuse 6
          else if mbSt m = 3 then refuse 4
          else match (if mbAseq m ≠ mbOseq m ∧ ¬t.core.locked then t.core.grp.safe else none) with
            | some n => .ok (safeSuspend t1 t1.core.pc n 3 3 k (mbAddr t1 k) false)
            | none => refuse 3

/-- The mailboxes a gather lists (R412). -/
def gatherList (c : Core) (x : Nat) : List Nat :=
  (List.range (bits x 16 12 + 1)).map (fun j => bits (ctlG c (bits x 11 6 + j / 4)).toNat (16 * (j % 4) + 15) (16 * (j % 4)))
def gatherRegs (x : Nat) : Nat := (bits x 16 12 + 4) / 4
def gatherStride (x : Nat) : Nat := 2 ^ (8 + bits x 19 17)

/-- The first failure of a gather's mailboxes in ascending order (R408). -/
def gatherBad (t : State) : List Nat → List Nat → Option (Nat × Nat)
  | [], _ => none
  | k :: r, seen =>
    match mbCheck t k true with
    | some e => some (k, e)
    | none => if seen.contains k then some (k, 4) else gatherBad t r (k :: seen)

/-- One mailbox of a gather: the mask bit it sets, and what it copies. -/
def gatherOne (stride : Nat) (acc : State × Nat × List Word × Label) (e : Nat × Nat) : State × Nat × List Word × Label :=
  let (t, mask, geo, l) := acc
  let m := mbGet t e.1
  let t0 := markDie t e.1
  if mbOseq m ≠ mbOrec m then
    let (t1, g, h) := takeObs t0 e.1 m (e.2 * stride)
    (t1, mask + 2 ^ e.2, geo ++ g, l ||| BitVec.ofNat 32 (imgF h 0xC 4))
  else if mbSt m = 4 ∨ mbSt m = 3 then (t0, mask + 2 ^ (32 + e.2), geo, l)
  else (t0, mask, geo, l)

/-- ev.gather (R412). -/
def execEvGather (q : BitVec 4) (aa : BitVec 4) (sb : BitVec 5) (s : State) :=
  let x := (s.core.rdS sb).v.toNat
  let i0 := infoEvGather q aa sb
  let i := i0.naming (namedG (bits x 11 6) (min (gatherRegs x) (64 - bits x 11 6)))
  tile i true s fun t =>
    let va := (t.core.rdA aa).v.toNat
    let l := gatherList t.core x
    let stride := gatherStride x
    if x >>> 20 ≠ 0 then .error (evRefuse t 0)
    else if 64 < bits x 11 6 + gatherRegs x then .error (evRefuse t 2)
    else if l.any (fun k => decide (8192 ≤ k)) then .error (evRefuse t 0)
    else unhurt t (l.flatMap (mailParts t)) <| if l.any (fun k => mbCheck t k true == none && decide (stride < mbSlot (mbGet t k))) then .error (evRefuse t 3)
    else if va % 16 ≠ 0 then .error (accStop t .mis va 16 true false)
    else match stashDest t va (stride * l.length) with
      | .error y => .error y
      | .ok t => match gatherBad t l [] with
        | some (k, r) => .error (mbStop t k r)
        | none => unhurt t (l.flatMap (fun k => obsParts t k (mbGet t k))) <|
          let lbl := orAll (l.map (fun k => mbLbl (mbGet t k)))
          let (t1, mask, geo, ml) := l.zipIdx.foldl (gatherOne stride) (t, 0, [], 0)
          match issueCmd t1 { mkCmd t1 i .recv (x % 64) (t1.core.rdA aa).v (t1.core.rdS sb).v 0 0 with geo := geo, lab := ml ||| t1.core.cl } with
          | .error y => .error y
          | .ok t2 => .ok (evAnswer t2 i sb lbl mask)

/-! ## Words of a hart (R417, R418) -/

/-- Answer in rd and retire. -/
def jxAnswer (s : State) (rd : BitVec 5) (v : Nat) (counts : Bool) : HAct :=
  let h := curHart s
  .ok (retireHart (updHart s (fun h => h.wr rd (BitVec.ofNat 64 v))) (!h.machine) (h.pc + 4) counts false)

/-- The mailbox of a port of the bound episode, or the answer that stands for it (R413, R418). -/
def jxPort (s : State) (e x p : Nat) : Except Nat Nat :=
  match epPort x p with
  | some k => .ok k
  | none => .error (if s.gone.contains (4 * e + p) then 2 else 6)

/-- No port of the episode has an unanswered action (R418). -/
def noneUnanswered (s : State) (x : Nat) : Bool := (epMail x).all (fun k => (lookup s.unans k).isNone)

/-- jx.recv (R418, R419). -/
def execJxRecv (t s d : BitVec 5) (st : State) : Host.Outcome State Fault Refusal :=
  let h := curHart st
  let p := (h.rd s).toNat
  let a := (h.rd t).toNat
  hartSettle st <| match h.ep with
  | none => jxAnswer st d 6 true
  | some e =>
    let x := epGet st e
    if p >>> 2 ≠ 0 then jxAnswer st d 6 true
    else if a % 16 ≠ 0 then .error (6, a)
    else match jxPort st e x p with
      | .error v => jxAnswer st d v true
      | .ok k =>
        let m := mbGet st k
        match (if h.machine then none else hartCheck st h a (mbSlot m) .store) with
        | some b => .error (7, b)
        | none =>
          if mbSt m = 0 ∨ mbSt m = 3 then jxAnswer st d 2 true
          else if mbSt m = 4 then jxAnswer st d 3 true
          else if (lookup st.unans k).isSome then jxAnswer st d 4 true
          else if mbAseq m = mbAcon m then jxAnswer st d 1 true
          else
            let n := mbAcon m
            let sa := mbSlotAddr st k m n false
            let hd := readPa st sa 16
            let size := 16 + min (imgF hd 8 4) (mbSlot m - 16)
            match (if h.machine then hartCheck st h a size .store else none) with
            | some b => .error (7, b)
            | none =>
              match hartWrite st (lineCount a size) a size (readPa st sa size) with
              | none => .error (7, a)
              | some s1 =>
              let s2 := mbPut { s1 with unans := insertKey k (imgF hd 4 2) s1.unans } k (putRf m 0x14 4 (n + 1))
              let wb := imgF x 0x18 8
              let x1 := putRf (putRf (putRf (putRf x 8 4 (imgF x 8 4 ||| imgF hd 0xC 4)) 3 1 (epFl x ||| 32)) 0x20 8 (imgF x 0x10 8))
                0x28 8 (if wb = 0 then 0 else nowNs st + wb)
              let s3 := epPut { s2 with armed := e :: s2.armed.filter (· != e) } e x1
              jxAnswer (updHart s3 (fun k => { k with irem := BitVec.ofNat 64 (imgF x 0x10 8) })) d ((imgF hd 4 2 <<< 16) + (n <<< 32)) false

/-- The budgets are disarmed once no port has an unanswered action (R419); the jx.send itself still counts. -/
def disarm (s : State) (e : Nat) : State :=
  let x := epGet s e
  if noneUnanswered s x then
    let h := curHart s
    let less : Bool := !h.machine && epArm x && imgF x 0x10 8 != 0 && h.irem != 0
    let r := if less then h.irem - 1 else h.irem
    let s1 := updHart s (fun k => { k with irem := r })
    epPut { s1 with armed := s1.armed.filter (· != e) } e (putRf (putRf (putRf x 3 1 (epFl x &&& 0xDF)) 0x20 8 r.toNat) 0x28 8 0)
  else s

/-- The observation of jx.send commits (R404, R406, R418). -/
def commitObs (s : State) (e k m data len : Nat) (term : Bool) : State :=
  let x := epGet s e
  let n := mbOseq m
  let l := BitVec.ofNat 32 (imgF x 8 4)
  let drn := mbSt m == 2 && (n + 1) % 2 ^ 32 == mbAseq m
  let gen := (lookup s.unans k).getD 0
  let s1 := engWr s (mbSlotAddr s k m n true) (16 + len) (message n gen (b2n term + 2 * b2n drn) len l data)
  let m1 := putRf (putRf m 0x18 4 (n + 1)) 8 4 (mbLbl m ||| l).toNat
  let m2 := if term ∧ mbSt m = 1 then putRf (putRf m1 0 1 3) 0x10 4 (mbAcon m) else if drn then putRf m1 0 1 3 else m1
  disarm (mbPut { s1 with unans := eraseKey k s1.unans } k m2) e

/-- jx.send (R418, R419). -/
def execJxSend (t s d : BitVec 5) (st : State) : Host.Outcome State Fault Refusal :=
  let h := curHart st
  let p := (h.rd s).toNat
  let a := (h.rd t).toNat
  hartSettle st <| match h.ep with
  | none => jxAnswer st d 6 true
  | some e =>
    let x := epGet st e
    if p &&& 0xFFFFFFFFFFFFFEFC ≠ 0 then jxAnswer st d 6 true
    else if a % 16 ≠ 0 then .error (4, a)
    else match hartCheck st h a 16 .load with
      | some b => .error (5, b)
      | none => match hartGet st (a + 8) 4 with
        | none => .error (5, a)
        | some (st, len, _) =>
        match jxPort st e x (p % 4) with
        | .error v => (match hartCheck st h a (16 + len) .load with
          | some b => .error (5, b)
          | none => jxAnswer st d v true)
        | .ok k =>
          let m := mbGet st k
          if mbSlot m - 16 < len then jxAnswer st d 6 true
          else match hartCheck st h a (16 + len) .load with
            | some b => .error (5, b)
            | none =>
              if mbSt m = 0 ∨ mbSt m = 3 then jxAnswer st d 2 true
              else if mbSt m = 4 then jxAnswer st d 3 true
              else if (lookup st.unans k).isNone then jxAnswer st d 4 true
              else if mbDepth m ≤ gap (mbOseq m) (mbOrec m) then jxAnswer st d 1 true
              else match hartRead st (lineCount (a + 16) len) (a + 16) len with
                | none => .error (5, a)
                | some (st, data) => jxAnswer (commitObs st e k m data len (bit p 8)) d 0 true

/-- The masks of jx.wait (R418). -/
def waitMask (s : State) (e mask : Nat) : Nat :=
  let x := epGet s e
  pack 1 (fun j =>
    if ¬bit mask (j % 4) then 0
    else
      let m := (epPort x (j % 4)).map (mbGet s)
      let live : Bool := match m with
        | some y => mbSt y == 1 || mbSt y == 2
        | none => false
      if j < 4 then b2n (live && (match m with
        | some y => mbAseq y != mbAcon y
        | none => false))
      else b2n (!live)) 8

/-- jx.wait (R418): it stalls while no listed port answers. -/
def execJxWait (s d : BitVec 5) (st : State) : Host.Outcome State Fault Refusal :=
  let h := curHart st
  let p := (h.rd s).toNat
  hartSettle st <| match h.ep with
  | none => jxAnswer st d 6 true
  | some e =>
    if p >>> 4 ≠ 0 then jxAnswer st d 6 true
    else if p = 0 ∨ waitMask st e p ≠ 0 then jxAnswer st d (waitMask st e p) true
    else .ok (updHart st (fun h => { h with wait := some (d, p), mcycle := if h.mcountinhibit.getLsbD 0 then h.mcycle else h.mcycle + 1 }))

/-- JX_WAIT_RESUME: a stalled jx.wait retires once a listed port answers (R418). -/
def execJxWaitResume (st : State) : Host.Outcome State Fault Refusal :=
  let h := curHart st
  match h.wait, h.ep with
  | some (d, p), some e => if waitMask st e p ≠ 0 then hartSettle st (jxAnswer st d (waitMask st e p) true) else .next st
  | _, _ => .next st

/-- jx.end (R418): the episode ends and the hart traps to M. -/
def execJxEnd (st : State) : Host.Outcome State Fault Refusal :=
  let h := curHart st
  hartSettle st <|
    if h.machine then .error (2, hartRaw st)
    else match h.ep with
      | none => jxAnswer st 0 6 true
      | some e =>
        let s1 := closeEpisode st e 4 (epFl (epGet st e) % 8) 4 false
        .ok (updHart s1 (fun k => hartTrap { k with mcycle := if k.mcountinhibit.getLsbD 0 then k.mcycle else k.mcycle + 1 } false 24 0))

/-- A custom-1 word: M mode alone (R417). -/
def jxMachine (st : State) (f : Unit → HAct) : Host.Outcome State Fault Refusal :=
  hartSettle st (if (curHart st).machine then f () else .error (2, hartRaw st))

def winsMeet (v w : Nat) : Bool := meets (winBase v) (winLen v) (winBase w) (winLen w)

/-- Is a descriptor valid (R398, R399)? -/
def descOk (s : State) (n x : Nat) : Bool :=
  let e := imgF x 0 2
  let ws := (List.range 4).map (fun i => imgF x (0x18 + 8 * i) 8)
  let used := ws.filter (fun w => winLen w != 0)
  decide (e < 4096) && decide (imgF x 2 2 < 8192) && imgF x 0x38 8 == 0 && ws.all (fun w => decide (w < 2 ^ 59)) && epDie e == hartDie n
    && decide (imgF x 2 2 % 512 < 384)
    && used.all (fun w => decide (s.jmemb ≤ winBase w) && decide (winBase w + winLen w ≤ s.jmemb + s.jmeml))
    && used.zipIdx.all (fun v => used.zipIdx.all (fun w => v.2 == w.2 || !winsMeet v.1 w.1))
    && (used.isEmpty || (List.range 4096).all (fun k => let y := epGet s k
      epFree y || ((List.range 4).map (epWin y)).all (fun v => used.all (fun w => !winsMeet v w))))

/-- A new entry from a descriptor (R400). -/
def entryOf (x : Nat) : Nat :=
  imgF x 0 2 + (1 <<< 16) + (imgF x 2 2 <<< 32) + (0xFF <<< 48) + (imgF x 4 4 <<< 64) + (imgF x 8 8 <<< 128) + (imgF x 16 8 <<< 192)
    + (imgF x 0x18 32 <<< 384)

/-- jx.ecreate (R398 to R400, R418). -/
def execJxEcreate (s d : BitVec 5) (st : State) : Host.Outcome State Fault Refusal :=
  jxMachine st fun _ =>
    let h := curHart st
    let a := (h.rd s).toNat
    if a % 64 ≠ 0 then .error (4, a)
    else match hartCheck st h a 64 .load with
      | some b => .error (5, b)
      | none => match hartGet st a 64 with
        | none => .error (5, a)
        | some (st, x, _) =>
        let e := imgF x 0 2 % 4096
        if ¬epFree (epGet st e) then jxAnswer st d 5 true
        else if ¬descOk st st.hartNo x then jxAnswer st d 6 true
        else
          let s1 := epPut st e (entryOf x)
          jxAnswer { s1 with gone := s1.gone.filter (fun g => g / 4 != e) } d 0 true

/-- jx.eload (R418). -/
def execJxEload (s d : BitVec 5) (st : State) : Host.Outcome State Fault Refusal :=
  jxMachine st fun _ =>
    let h := curHart st
    let v := (h.rd s).toNat
    let e := v % 4096
    let x := epGet st e
    if v >>> 12 ≠ 0 ∨ epDie e ≠ hartDie st.hartNo then jxAnswer st d 6 true
    else if h.ep.isSome then jxAnswer st d 5 true
    else if epSt x ≠ 1 ∧ epSt x ≠ 3 then jxAnswer st d 7 true
    else
      let s1 := epPut st e (putRf (putRf x 2 1 2) 6 1 st.hartNo)
      jxAnswer (updHart s1 (fun k => { k with ep := some e, irem := BitVec.ofNat 64 (imgF x 0x20 8) })) d 0 true

/-- jx.epark (R418). -/
def execJxEpark (d : BitVec 5) (st : State) : Host.Outcome State Fault Refusal :=
  jxMachine st fun _ =>
    let h := curHart st
    match h.ep with
    | none => jxAnswer st d 7 true
    | some e =>
      let s1 := epPut st e (putRf (putRf (epGet st e) 2 1 3) 0x20 8 h.irem.toNat)
      jxAnswer (updHart s1 (fun k => { k with ep := none, irem := 0 })) d 0 true

/-- jx.mabort (R418, R419). -/
def execJxMabort (s d : BitVec 5) (st : State) : Host.Outcome State Fault Refusal :=
  jxMachine st fun _ =>
    let v := ((curHart st).rd s).toNat
    let e := v % 4096
    if v >>> 12 ≠ 0 ∨ epDie e ≠ hartDie st.hartNo then jxAnswer st d 6 true
    else if ¬epLive (epGet st e) then jxAnswer st d 7 true
    else jxAnswer (stopEpisode st e 3) d 0 true

/-! ## The watchdog and a hart's turn (R400, R401, R419, R420) -/

/-- Has the current hart's episode used up its instructions (R419)? -/
def budgetOut (s : State) : Bool :=
  let h := curHart s
  match h.ep with
  | some e => let x := epGet s e
    !h.machine && epArm x && imgF x 0x10 8 != 0 && h.irem == 0
  | none => false

/-- INSTRUCTION_BUDGET_EXPIRY: the next user instruction of the current hart does not retire (R419, R420). -/
def execInstructionBudgetExpiry (s : State) : Host.Outcome State Fault Refusal :=
  match (curHart s).ep with
  | some e =>
    if budgetOut s then
      let s1 := stopEpisode s e 1
      .next (if hartIrq s1 16 then updHart s1 (fun h => hartTrap h true 16 0) else s1)
    else .next s
  | none => .next s

/-- Has the wall budget of an episode run out (R419)? -/
def wallOut (s : State) (e : Nat) : Bool :=
  let x := epGet s e
  epLive x && epArm x && imgF x 0x28 8 != 0 && decide (imgF x 0x28 8 ≤ nowNs s)

def execWallBudgetExpiry (ep : BitVec 12) (s : State) : Host.Outcome State Fault Refusal :=
  .next (if wallOut s ep.toNat then stopEpisode s ep.toNat 2 else s)

def execEpisodeWipeComplete (ep : BitVec 12) (s : State) : Host.Outcome State Fault Refusal :=
  let x := epGet s ep.toNat
  let s1 := { s with wiping := s.wiping.filter (· != ep.toNat) }
  .next (if (epSt x = 4 ∨ epSt x = 5) ∧ bit (epFl x) 3 then wipeDone s1 ep.toNat else s1)

/-- The instruction that a hart's fetched bits are (R393). -/
def hartDecode (w : Nat) : Option Instr :=
  if w % 4 ≠ 3 then (rvDecode16 w).map (fun i => .hartInstruction i true)
  else match decodeJx w with
    | some i => some i
    | none => (rvDecode32 w).map (fun i => .hartInstruction i false)

/-- What the current hart does in its turn: an instruction or event, or an exception with its cause and mtval; external and
software interrupts, which are no events of the table, come as causes with bit 63 set, first of all (R393). -/
def hartNext (s : State) : State × Except (Nat × Nat) Instr :=
  if hartIrq s 11 then (s, .error (2 ^ 63 + 11, 0))
  else if hartIrq s 3 then (s, .error (2 ^ 63 + 3, 0))
  else if hartIrq s 7 then (s, .ok .machineTimerInterrupt)
  else if hartIrq s 16 then (s, .ok .jwi)
  else if (curHart s).wait.isSome then (s, .ok .jxWaitResume)
  else if budgetOut s then (s, .ok .instructionBudgetExpiry)
  else match hartFetch s with
    | (t, .error e) => (t, .error e)
    | (t, .ok w) => (t, match hartDecode w with
      | some i => .ok i
      | none => .error (2, w))

end Sys2Proof.Machine
end

