-- ==== Sys2Proof/Machine/Launch.lean ====
section
/-! DEFINITION. The words of major 0x1C (R447 to R456): launches, stage rings, graphs, waking and priorities; waiting
records (R18, R21, R427) and the pending-launch pool (R434 to R436). -/
namespace Sys2Proof.Machine

/-! ## Records that wait (R18, R21, R427) -/

/-- A waiting record becomes ready and enters the ready table of the die it last ran on, or is held back while that
table is full (R19, R427). -/
def wakeRecord (s : State) (pa : Nat) : State :=
  let r := readRecord s pa
  let die := bits (rf r 0x2C 2) 7 6
  if recSt r ≠ 3 then { s with parked := s.parked.filter (· != pa), admits := s.admits.filter (· != pa) }
  else if ¬readyRoom s die then { s with admits := pa :: s.admits.filter (· != pa) }
  else
    let s1 := writeRecord s pa (setSt r 1 0 0 0)
    readyAdd { s1 with parked := s1.parked.filter (· != pa), admits := s1.admits.filter (· != pa) } die (bits (rf r 0x1B 2) 12 9)
      (rf r 0x29 2) pa

/-- The slots that depth d owns in a partition's pool (R434): the first and the one past the last. -/
def quota (s : State) (part d : Nat) : Nat × Nat :=
  let p := partAt s part
  let q (k : Nat) : Nat := match k with
    | 1 => bits p.pql.toNat 31 16
    | 2 => bits p.pql.toNat 47 32
    | 3 => bits p.pql.toNat 63 48
    | 4 => bits p.pqh.toNat 15 0
    | 5 => bits p.pqh.toNat 31 16
    | 6 => bits p.pqh.toNat 47 32
    | 7 => bits p.pqh.toNat 63 48
    | _ => 0
  let lo := sumTo q d
  (min lo 8192, min (lo + q d) 8192)

def slotAddr (s : State) (part k : Nat) : Nat := (partAt s part).pool.toNat + 128 * k
/-- SST of a pool slot. -/
def slotSst (s : State) (part k : Nat) : Nat := readPa s (slotAddr s part k + 0x40) 1

/-- The slots of depth d. -/
def depthSlots (s : State) (part d : Nat) : List Nat :=
  let (lo, hi) := quota s part d
  if d = 0 ∨ 7 < d then [] else (List.range (hi - lo)).map (· + lo)
def freeSlot (s : State) (part d : Nat) : Option Nat := (depthSlots s part d).find? (fun k => slotSst s part k == 0)

/-- The oldest valid entry of a ring (R451). -/
def oldestEntry (s : State) (part stg : Nat) : Option Nat :=
  let h := stageRd s part stg 0x10 4
  let n := gap (stageRd s part stg 0x14 4) h
  ((List.range (min n (stageRd s part stg 0xC 4))).map (fun j => (h + j) % 2 ^ 32)).find? (fun i => bit (readPa s (ringAddr s part stg i + 8) 1) 0)

/-- The stage whose descriptor lies at a physical address. -/
def stageAt (s : State) (part d : Nat) : Nat := (d - (partAt s part).stb.toNat) / 128

/-- Does a waiting record's condition hold (R18)? -/
def waitHolds (s : State) (pa : Nat) : Bool :=
  let r := readRecord s pa
  let arg := rf r 0x1E 2
  let obj := rf r 0x20 9
  let part := bits (rf r 0x1B 2) 12 9
  match rf r 0x1D 1 with
  | 1 =>
    -- an object that no longer translates, that is poisoned, or with ERR set, lets the wait group meet its own trap (log 17)
    match translate s obj (rf r 0x1B 2 % 512) part (bits (rf r 0xA 1) 5 4) 16 .read with
    | .error _ => true
    | .ok (x, _) => let w := readPa s x.pa 8
      isPoisoned s x.pa 8 || bit w 0 == bit arg 0 || bit w 1
  | 2 =>
    match (coreAt s (rf r 0x2C 2 % 256)).ctxs.toList.find? (fun x => x.owner == some pa) with
    | some x => tagsMet x arg obj
    | none => false
  | 3 => mbReady s (arg % 8192)
  | 4 =>
    let stg := stageAt s part obj
    if arg % 2 = 0 then decide (gap (stageRd s part stg 0x14 4) (stageRd s part stg 0x10 4) < stageRd s part stg 0xC 4)
    else (oldestEntry s part stg).isSome
  | 5 => (liveTree s (obj % 2 ^ 32) [1, 3, 4]).isNone
  | 6 => (freeSlot s part (arg % 8)).isSome
  | 7 => decide (obj % 2 ^ 64 ≤ nowNs s)
  | _ => true

/-- A record that has just been written back waiting, whose condition holds already, goes straight to ready (R21): t is the
state after it left, s before. -/
def wakeNew (s t : State) : State :=
  (t.parked.filter (fun pa => !s.parked.contains pa)).foldl (fun u pa => if waitHolds u pa then wakeRecord u pa else u) t

/-- WAIT_CONDITION_MET (R21). -/
def execWaitConditionMet (r : BitVec 56) (s : State) : Host.Outcome State Fault Refusal :=
  .next (if recSt (readRecord s r.toNat) = 3 ∧ waitHolds s r.toNat then wakeRecord s r.toNat else s)

/-- WAIT_DEADLINE (R18): a timer wait whose deadline the package timer has reached. -/
def execWaitDeadline (r : BitVec 56) (s : State) : Host.Outcome State Fault Refusal :=
  let x := readRecord s r.toNat
  .next (if recSt x = 3 ∧ rf x 0x1D 1 = 7 ∧ waitHolds s r.toNat then wakeRecord s r.toNat else s)

/-- READY_TABLE_ADMIT (R427): a record that a full ready table held back. -/
def execReadyTableAdmit (r : BitVec 56) (s : State) : Host.Outcome State Fault Refusal :=
  .next (if s.admits.contains r.toNat then wakeRecord s r.toNat else s)

/-! ## What the words share (R447, R448) -/

def dsRefuse (t : State) (code : Nat) : Stop := illegal t 13 code
def dsAnswer (t : State) (i : Info) (sb : BitVec 5) (x : Nat) : State := push t 1 (.s sb (BitVec.ofNat 64 x)) (readLabel t.core i.rd)

/-- The physical address of n bytes in aa, aligned to them, translated with kind rmw (R447); they lie in memory. -/
def dsAt (t : State) (va n : Nat) : Except Stop (State × Nat) :=
  if va % n ≠ 0 then .error (accStop t .mis va n false true)
  else match readVa t t.core.who va n .rmw with
    | .error e => .error (accStop t e va n false true)
    | .ok (t1, _, _) => match translate t1 va t1.core.who.vf t1.core.who.part t1.core.who.prv n .rmw with
      | .error e => .error (accStop t (.xlat e) va n false true)
      | .ok (x, _) => if isMem x.pa then .ok (t1, x.pa) else .error (accStop t (.xlat (permFault x.lvl 11)) va n false true)

def stageVp (t : State) (stg : Nat) : Nat := stageRd t t.core.cont.part stg 0xA 2 % 8192
def stageOprv (t : State) (stg : Nat) : Nat := bits (stageRd t t.core.cont.part stg 9 1) 2 1

/-- The bytes of a stage's descriptor, of ring entries j to j + n - 1 of its window, and of the pool slots of a list: what a word of
this major follows by physical address, and so may find poisoned. -/
def stageParts (t : State) (stg : Nat) : List (Nat × Nat) :=
  ((stageDesc t t.core.cont.part stg).map (fun d => (d, 128))).toList
def ringParts (t : State) (stg j n : Nat) : List (Nat × Nat) :=
  (List.range n).map (fun i => (ringAddr t t.core.cont.part stg (j + i), 16))
def slotParts (t : State) (l : List Nat) : List (Nat × Nat) := l.map (fun k => (slotAddr t t.core.cont.part k, 128))

/-- The ring entries that a take looks at: those up to the oldest valid one, all that are filled when none is. -/
def lookedRing (t : State) (stg : Nat) : List (Nat × Nat) :=
  let part := t.core.cont.part
  let h := stageRd t part stg 0x10 4
  ringParts t stg h (match oldestEntry t part stg with
    | some n => gap n h + 1
    | none => min (gap (stageRd t part stg 0x14 4) h) (stageRd t part stg 0xC 4))

/-- The pool slots that a launch of depth d looks at: those up to the one it takes, all of the depth when none is free. -/
def lookedSlots (t : State) (d : Nat) : List Nat :=
  let l := depthSlots t t.core.cont.part d
  match freeSlot t t.core.cont.part d with
  | some k => l.filter (fun j => decide (j ≤ k))
  | none => l

/-- Suspend at the group's safe point on a stage (WK = 4), if the group holds `safe` and the domain is not
quad-locked (R450, R451). -/
def stageWait (t : State) (stg arg : Nat) : Option State :=
  match t.core.grp.safe with
  | some n => if t.core.locked then none
      else some (safeSuspend t t.core.pc n 3 4 arg ((stageDesc t t.core.cont.part stg).getD 0) false)
  | none => none

/-! ## Launching (R434 to R436, R449) -/

/-- A launch image is refused (R448 code 1). -/
def imageBad (r : Nat) : Bool := recReserved r || decide (5 < recSt r) || rf r 0 1 % 4 != 0 || rf r 0x10 1 % 64 != 0

/-- The child record of a launch (R435). -/
def childOf (t : State) (img : Nat) (l : Label) : Nat :=
  let c := t.core.cont
  let fl := rf img 0xA 1
  withChk (rf img 0 9 + (1 <<< 72) + ((fl % 16 + (min (bits fl 5 4) c.prv <<< 4)) <<< 80) + ((c.dep.toNat + 1) <<< 88)
    + ((rf img 0xC 4 ||| l.toNat) <<< 96) + (rf img 0x10 11 <<< 128) + ((c.vf + (c.part <<< 9)) <<< (8 * 0x1B))
    + (rf img 0x29 3 <<< (8 * 0x29)) + (c.pa <<< (8 * 0x30)) + (((partAt t c.part).lseq % 2 ^ 24) <<< (8 * 0x39)))

/-- Does a VF hold as many slots as its resources allow (R499)? -/
def atLimit (t : State) (part vf : Nat) : Bool :=
  let v := vfAt t vf
  v.part.isSome && decide (v.pq ≤ ((List.range 8192).filter (fun k => slotSst t part k != 0 && rf (readRecord t (slotAddr t part k)) 0x1B 2 % 512 == vf)).length)

/-- A launch takes slot k (R434 to R436): the child, SST pending, its depth, NE and NB, the slot's reserved bytes zero (R10). -/
def takeSlot (t : State) (k child dep nb : Nat) (ne : Bool) (l : Label) : State :=
  let p := t.core.cont.part
  let a := slotAddr t p k
  let t1 := engWr (writeRecord t a child l) (a + 0x40) 64 (1 + (dep <<< 8) + (b2n ne <<< 16) + (nb % 2 ^ 56 <<< 32)) l
  let t2 := stageAdd t1 p (rf child 0x29 2) 0x2C 1 l
  setPart t2 p { partAt t2 p with lseq := ((partAt t2 p).lseq + 1) % 2 ^ 24 }

/-- The physical address of n bytes in aa that a word translates with kind rmw, and does not read (R449, R453). -/
def dsPlace (t : State) (va n : Nat) : Except Stop (State × Nat) :=
  if va % n ≠ 0 then .error (accStop t .mis va n false true)
  else match translateMark t va t.core.who.vf t.core.who.part t.core.who.prv n .rmw with
    | .error e => .error (accStop t (.xlat e) va n false true)
    | .ok (t1, x) => if isMem x.pa then .ok (t1, x.pa) else .error (accStop t (.xlat (permFault x.lvl 11)) va n false true)

/-- The sub-reason with which ds.launch.w is illegal in the full case: no safe in its group, or a quad-lock (R449). -/
def launchBar (t : State) (stg : Nat) : Option Nat :=
  let part := t.core.cont.part
  let dep := t.core.cont.dep.toNat + 1
  if dep = 8 ∨ stageVp t stg ≠ callerVp t ∨ atLimit t part t.core.cont.vf ∨ (freeSlot t part dep).isSome then none
  else if t.core.grp.safe.isNone then some 2
  else if t.core.locked then some 4 else none

/-- ds.launch and ds.launch.w (R449); `wait` says which. -/
def launch (i0 : Info) (wait : Bool) (aa : BitVec 4) (sb : BitVec 5) (s : State) : Host.Outcome State Fault Refusal :=
  let x := (s.core.rdS sb).v.toNat
  let ne := bit x 4
  let i := if ne then i0.naming [namedA (x % 16)] else i0
  tile i true s fun t =>
    let va := (t.core.rdA aa).v.toNat
    let nb := (ctlA t.core (x % 16)).toNat
    if x >>> 5 ≠ 0 then .error (dsRefuse t 0)
    else if va % 64 ≠ 0 then .error (accStop t .mis va 64 false true)
    else match readVa t t.core.who va 64 .rmw with
      | .error e =>
        let y := accStop t e va 64 false true
        .error (match (if ne then dsPlace t nb 16 else .ok (t, 0)) with
          | .error z => lowerStop z y
          | .ok _ => y)
      | .ok (t1, img, ml) =>
        let stg := rf img 0x29 2
        let part := t1.core.cont.part
        if imageBad img then .error (dsRefuse t 1)
        else if ¬stageHas t1 part stg then .error (dsRefuse t 2)
        else unhurt t1 (stageParts t1 stg) <| match (if ne then dsPlace t1 nb 16 else .ok (t1, 0)) with
          | .error y => .error (match (if wait then launchBar t1 stg else none) with
            | some c => lowerStop (illegal t1 c) y
            | none => y)
          | .ok (t2, npa) =>
            let dep := t2.core.cont.dep.toNat + 1
            if dep = 8 then .ok (dsAnswer t2 i sb 3)
            else if stageVp t2 stg ≠ callerVp t2 then .ok (dsAnswer t2 i sb 5)
            else unhurt t2 (slotParts t2 (lookedSlots t2 dep)) <| if atLimit t2 part t2.core.cont.vf then .ok (dsAnswer t2 i sb 1)
            else match freeSlot t2 part dep with
              | some k =>
                let seq := (partAt t2 part).lseq % 2 ^ 24
                let l := ml ||| readLabel t2.core i.rd
                .ok (dsAnswer (takeSlot t2 k (childOf t2 img l) dep npa ne l) i sb (seq <<< 8))
              | none =>
                if ¬wait then .ok (dsAnswer t2 i sb 1)
                else match launchBar t2 stg, t2.core.grp.safe with
                  | none, some n => .ok (safeSuspend t2 t2.core.pc n 3 6 dep (partAt t2 part).pool.toNat false)
                  | c, _ => .error (illegal t2 (c.getD 2))

def execDsLaunch (q : BitVec 4) (rl : BitVec 1) (sc : BitVec 3) (aa : BitVec 4) (sb : BitVec 5) (s : State) :=
  launch (infoDsLaunch q rl sc aa sb) false aa sb s
def execDsLaunchW (q : BitVec 4) (rl : BitVec 1) (sc : BitVec 3) (aa : BitVec 4) (sb : BitVec 5) (s : State) :=
  launch (infoDsLaunchW q rl sc aa sb) true aa sb s

/-- How long ago a pending slot was launched: smaller is older (R436). -/
def slotAge (s : State) (part k : Nat) : Nat :=
  (rf (readRecord s (slotAddr s part k)) 0x39 3 + 2 ^ 24 - (partAt s part).lseq % 2 ^ 24) % 2 ^ 24

/-- May pending slot k move into its stage's ring now (R436): it is the oldest of its stage, and the ring has room? -/
def mayEnqueue (s : State) (part k : Nat) : Bool :=
  let stg := rf (readRecord s (slotAddr s part k)) 0x29 2
  decide (k < 8192) && slotSst s part k == 1
    && (List.range 8192).all (fun j => j == k || slotSst s part j != 1 || rf (readRecord s (slotAddr s part j)) 0x29 2 != stg
      || decide (slotAge s part k < slotAge s part j))

/-- A pending slot enters its stage's ring (R436); none when it may not. -/
def enqueueSlot (s : State) (part k : Nat) : Option State :=
  if ¬mayEnqueue s part k then none
  else
    let a := slotAddr s part k
    let stg := rf (readRecord s a) 0x29 2
    (ringAppend s part stg a 0).map (fun t => stageSub (engWr t (a + 0x40) 1 2) part stg 0x2C)

/-- POOL_SLOT_ENQUEUE (R436). -/
def execPoolSlotEnqueue (part : BitVec 4) (slot : Nat) (s : State) : Host.Outcome State Fault Refusal :=
  .next ((enqueueSlot s part.toNat slot).getD s)

/-! ## Stage rings (R450, R451) -/

def execDsQpush (q : BitVec 4) (rl : BitVec 1) (sc : BitVec 3) (aa : BitVec 4) (sb : BitVec 5) (s : State) :=
  let i := infoDsQpush q rl sc aa sb
  tile i true s fun t =>
    let x := (t.core.rdS sb).v.toNat
    let stg := x % 65536
    let part := t.core.cont.part
    if x >>> 16 ≠ 0 then .error (dsRefuse t 0)
    else if ¬stageHas t part stg then .error (dsRefuse t 2)
    else match dsAt t (t.core.rdA aa).v.toNat 64 with
      | .error y => .error y
      | .ok (t1, pa) => unhurt t1 (stageParts t1 stg) <|
        let r := readRecord t1 pa
        if stageVp t1 stg ≠ callerVp t1 ∨ t1.core.cont.prv < stageOprv t1 stg then .ok (dsAnswer t1 i sb 5)
        else if recSt r ≠ 0 ∧ recSt r ≠ 5 then .ok (dsAnswer t1 i sb 3)
        else
          unhurt t1 (ringParts t1 stg (stageRd t1 part stg 0x14 4) 1) <|
          let l := readLabel t1.core i.rd
          match ringAppend (writeRecord t1 pa (putRf (setSt r 1 0 0 0) 0x29 2 stg) l) part stg pa 0 l with
          | some t2 => .ok (dsAnswer t2 i sb 0)
          | none => .ok ((stageWait t1 stg 0).getD (dsAnswer t1 i sb 1))

def execDsQpop (q : BitVec 4) (ac : BitVec 1) (sc : BitVec 3) (aa : BitVec 4) (sb : BitVec 5) (s : State) :=
  let i := infoDsQpop q ac sc aa sb
  tile i true s fun t =>
    let x := (t.core.rdS sb).v.toNat
    let va := (t.core.rdA aa).v.toNat
    let stg := x % 65536
    let part := t.core.cont.part
    if x >>> 16 ≠ 0 then .error (dsRefuse t 0)
    else if ¬stageHas t part stg then .error (dsRefuse t 2)
    else match dsAt t va 16 with
      | .error y => .error y
      | .ok (t1, _) => unhurt t1 (stageParts t1 stg) <|
        if (stageEn t1 part stg ∧ ¬isFaultq t1 part stg) ∨ stageVp t1 stg ≠ callerVp t1
            ∨ t1.core.cont.prv < stageOprv t1 stg then .ok (dsAnswer t1 i sb 5)
        else unhurt t1 (lookedRing t1 stg) <| match oldestEntry t1 part stg with
          | none => .ok ((stageWait t1 stg 1).getD (dsAnswer t1 i sb 3))
          | some n =>
            match writeVa t1 t1.core.who va 16 (readPa t1 (ringAddr t1 part stg n) 16) (readLabel t1.core i.rd) 0 with
            | .error e => .error (accStop t e va 16 false true)
            | .ok t2 => .ok (dsAnswer (takeRing t2 part stg n) i sb 0)

/-! ## Graph words (R452, R453) -/

/-- ds.cond (R452): f of the old condition word and sb. -/
def condWord (i : Info) (aa : BitVec 4) (sb : BitVec 5) (f : Word → Word → Word) (s : State) : Host.Outcome State Fault Refusal :=
  tile i true s fun t =>
    let va := (t.core.rdA aa).v.toNat
    if va % 64 ≠ 0 then .error (accStop t .mis va 64 false true)
    else match readVa t t.core.who va 16 .rmw with
      | .error e =>
        let y := accStop t e va 64 false true
        .error (match e, writeVa t t.core.who (va + 8) 8 0 (readLabel t.core i.rd) 0 with
          | .stash _, .error g => lowerStop y (accStop t g (va + 8) 8 false true)
          | _, _ => y)
      | .ok (t1, n, ml) =>
        if rf n 0 1 ≠ 2 ∧ rf n 0 1 ≠ 3 then .error (dsRefuse t 4)
        else
          let l := readLabel t1.core i.rd
          let old := BitVec.ofNat 64 (rf n 8 8)
          match writeVa t1 t1.core.who (va + 8) 8 (f old (t1.core.rdS sb).v).toNat l 0 with
          | .error e => .error (accStop t e (va + 8) 8 false true)
          | .ok t2 => .ok (push t2 1 (.s sb old) (l ||| ml))

def execDsCondSet (q aa : BitVec 4) (sb : BitVec 5) (s : State) := condWord (infoDsCondSet q aa sb) aa sb (fun _ y => y) s
def execDsCondAdd (q aa : BitVec 4) (sb : BitVec 5) (s : State) := condWord (infoDsCondAdd q aa sb) aa sb (fun x y => x + y) s
def execDsCondOr (q aa : BitVec 4) (sb : BitVec 5) (s : State) := condWord (infoDsCondOr q aa sb) aa sb (fun x y => x ||| y) s
def execDsCondAnd (q aa : BitVec 4) (sb : BitVec 5) (s : State) := condWord (infoDsCondAnd q aa sb) aa sb (fun x y => x &&& y) s

/-- A node of a graph of nn nodes that R453 refuses. -/
def nodeBad (nn n : Nat) : Bool :=
  let k := rf n 0 1
  let next (x : Nat) : Bool := decide (nn ≤ x) && x != 0xFFFF
  k == 0 || decide (5 < k) || rf n 1 1 / (if k = 1 then 2 else 1) != 0 || rf n 0x19 7 != 0 || rf n 0x29 3 != 0 || rf n 0x30 16 != 0
    || next (rf n 2 2) || next (rf n 4 2) || (k == 4 && rf n 6 2 == 0) || (k != 1 && k != 4 && rf n 6 2 != 0)
    || (k == 1 && rf n 0xC 4 != 0)

/-- Is a graph refused (R453): its header, its place in a page of 2^sh bytes, its nodes? -/
def graphBad (va sh img : Nat) : Bool :=
  let nn := rf img 2 2
  nn == 0 || decide (4096 < nn) || decide (va / 2 ^ sh ≠ (va + 64 * nn + 63) / 2 ^ sh) || decide (nn ≤ rf img 4 2) || decide (4 < rf img 0 1)
    || rf img 0xE 2 != 0 || rf img 0x19 39 != 0
    || (List.range nn).any (fun k => nodeBad nn (rf img (64 + 64 * k) 64))

/-- The STAGE nodes of a graph: stage number and node. -/
def graphStages (img : Nat) : List (Nat × Nat) :=
  (List.range (rf img 2 2)).filterMap (fun k => let n := rf img (64 + 64 * k) 64
    if rf n 0 1 = 1 then some (rf n 6 2, k) else none)

/-- The start of a graph (R453): header, nodes and bindings, written with the caller's label (R467), ENTRY activated; one whose walker cannot reach a stage fails at once
(R440). -/
def graphStart (t : State) (pa img done : Nat) (l : Label) : State :=
  let part := t.core.cont.part
  let t1 := engWr (engWr t pa 2 1 l) (pa + 0xC) 2 (callerVp t) l
  let t2 := (List.range (rf img 2 2)).foldl (fun u k =>
    engWr (engWr u (nodeAddr pa k + 0x10) 4 0 l) (nodeAddr pa k + 0x18) 1 0 l) t1
  let t3 := (graphStages img).foldl (fun u b => stageWr u part b.1 0x30 9 (nodeAddr pa b.2) l) t2
  let g : GraphRun := ⟨pa, done, t.core.cont.vf, part, l, graphStages img⟩
  let t4 := { t3 with graphs := t3.graphs ++ [g] }
  match (graphStages img).find? (fun b => walkerCut t4 g b.1) with
  | some b => graphFail t4 g 4 b.2
  | none => activate t4 g (rf img 4 2)

def execDsGstart (q aa : BitVec 4) (sb : BitVec 5) (s : State) :=
  let i := infoDsGstart q aa sb
  tile i true s fun t =>
    let va := (t.core.rdA aa).v.toNat
    if (t.core.rdS sb).v ≠ 0 then .error (dsRefuse t 0)
    else match dsAt t va 64 with
      | .error y => .error y
      | .ok (t1, pa) => match translate t1 va t1.core.who.vf t1.core.who.part t1.core.who.prv 64 .rmw with
        | .error e => .error (accStop t (.xlat e) va 64 false true)
        | .ok (x, _) =>
          let nn := readPa t1 (pa + 2) 2
          let img := readPa t1 pa (64 + 64 * min 4096 nn)
          unhurt t1 [(pa, 64 + 64 * min 4096 nn)] <|
          let sh := if x.phys then 56 else if x.lvl = 3 then 29 else 16
          let part := t1.core.cont.part
          let st := graphStages img
          if 4096 < nn ∨ graphBad va sh img then .error (dsRefuse t 3)
          else if st.any (fun b => !stageHas t1 part b.1) then .error (dsRefuse t 2)
          else if rf img 0 1 = 1 then .ok (dsAnswer t1 i sb 3)
          else unhurt t1 (st.flatMap (fun b => stageParts t1 b.1)) <| if st.any (fun b => stageVp t1 b.1 != callerVp t1) then .ok (dsAnswer t1 i sb 5)
          else if st.any (fun b => stageRd t1 part b.1 0x30 9 != 0) ∨ ¬(st.map (·.1)).Nodup then .ok (dsAnswer t1 i sb 3)
          else match (if rf img 0x10 9 = 0 then .ok (t1, 0) else dsPlace t1 (rf img 0x10 9) 16) with
            | .error y => .error y
            | .ok (t2, done) => .ok (dsAnswer (graphStart t2 pa img done (readLabel t2.core i.rd)) i sb 0)

/-- What ending the graph at pa touches: its nodes, and the descriptors of the stages bound to it (R444). -/
def stopParts (t : State) (pa : Nat) : List (Nat × Nat) :=
  match t.graphs.find? (fun g => g.pa == pa) with
  | some g => (nodeAddr pa 0, 64 * readPa t (pa + 2) 2) :: g.binds.filterMap (fun b => (stageDesc t g.part b.1).map (fun d => (d, 128)))
  | none => []

def execDsGstop (q aa : BitVec 4) (sb : BitVec 5) (s : State) :=
  let i := infoDsGstop q aa sb
  tile i true s fun t =>
    if (t.core.rdS sb).v ≠ 0 then .error (dsRefuse t 0)
    else match dsAt t (t.core.rdA aa).v.toNat 64 with
      | .error y => .error y
      | .ok (t1, pa) =>
        if readPa t1 pa 1 ≠ 1 then .ok (dsAnswer t1 i sb 4)
        else unhurt t1 (stopParts t1 pa) <|
          let t2 := engWr t1 pa 1 3 (readLabel t1.core i.rd)
          .ok (dsAnswer (match t2.graphs.find? (fun g => g.pa == pa) with
            | some g => graphEnd t2 g
            | none => t2) i sb 0)

/-- GRAPH_ACTIVATION: the walker serves the oldest activation (R443); a number that names no node does nothing. -/
def execGraphActivation (s : State) : Host.Outcome State Fault Refusal :=
  match s.acts with
  | [] => .next s
  | (g, k) :: rest =>
    let s1 := { s with acts := rest }
    match s1.graphs.find? (fun x => x.pa == g) with
    | none => .next s1
    | some x => .next (if k < readPa s1 (g + 2) 2 then activate s1 x k else graphStuck s1 x k)

/-! ## Waking, priorities, queries (R454 to R456) -/

/-- ds.wake makes a waiting record of the caller's partition ready (R454); at F, of any partition, as F acts on every partition's
(DEDUCED, log 30). -/
def execDsWake (q aa : BitVec 4) (sb : BitVec 5) (s : State) :=
  let i := infoDsWake q aa sb
  tile i true s fun t =>
    if (t.core.rdS sb).v ≠ 0 then .error (dsRefuse t 0)
    else match dsAt t (t.core.rdA aa).v.toNat 64 with
      | .error y => .error y
      | .ok (t1, pa) =>
        let r := readRecord t1 pa
        if t1.core.cont.prv < 2 ∧ bits (rf r 0x1B 2) 12 9 ≠ t1.core.cont.part then .error (privileged t1)
        else if recSt r ≠ 3 then .ok (dsAnswer t1 i sb 3)
        else .ok (dsAnswer (wakeRecord t1 pa) i sb 0)

def execDsPrio (q aa : BitVec 4) (sb : BitVec 5) (s : State) :=
  let i := infoDsPrio q aa sb
  tile i true s fun t =>
    let x := (t.core.rdS sb).v.toNat
    let v := if t.core.cont.prv = 0 then min (x % 16) ((partAt t t.core.cont.part).pceil.toNat % 16) else x % 16
    if bits x 7 4 ≠ 0 ∨ x >>> 9 ≠ 0 ∨ (bit x 8 ∧ aa ≠ 0) then .error (dsRefuse t 0)
    else if bit x 8 then .ok (push (dsAnswer t i sb 0) 1 (.pri (BitVec.ofNat 4 v)) 0)
    else match dsAt t (t.core.rdA aa).v.toNat 64 with
      | .error y => .error y
      | .ok (t1, pa) =>
        let r := readRecord t1 pa
        let st := recSt r
        if rf r 0x1B 2 % 512 ≠ t1.core.cont.vf then .ok (dsAnswer t1 i sb 5)
        else if st = 1 ∨ st = 3 ∨ st = 4 then
          .ok (dsAnswer (writeRecord t1 pa (putRf r 0xA 1 (rf r 0xA 1 / 16 * 16 + v)) (readLabel t1.core i.rd)) i sb 0)
        else .ok (dsAnswer t1 i sb (if st = 2 then 3 else 4))

def execDsQuery (q : BitVec 4) (sb : BitVec 5) (s : State) :=
  let i := infoDsQuery q sb
  tile i true s fun t =>
    let x := (t.core.rdS sb).v.toNat
    let part := t.core.cont.part
    let stg := x % 65536
    let item := bits x 19 16
    if x >>> 20 ≠ 0 ∨ 6 ≤ item ∨ (4 ≤ item ∧ 8 ≤ stg) then .error (dsRefuse t 0)
    else if 4 ≤ item then
      unhurt t (slotParts t (depthSlots t part stg)) <|
      let l := depthSlots t part stg
      let used := (l.filter (fun k => slotSst t part k != 0)).length
      .ok (dsAnswer t i sb (if item = 4 then used else l.length - used))
    else if ¬stageHas t part stg then .error (dsRefuse t 2)
    else unhurt t (stageParts t stg) <| if stageVp t stg ≠ callerVp t then .error (privileged t)
    else .ok (dsAnswer t i sb (match item with
      | 0 => gap (stageRd t part stg 0x14 4) (stageRd t part stg 0x10 4) + (t.ready.filter (fun e => e.part == part && e.stg == stg)).length
      | 1 => stageRd t part stg 0x18 4
      | 2 => stageRd t part stg 0x1C 4
      | _ => stageRd t part stg 0x2C 4))

/-! ## The dispatcher's own events (R428, R432, R433) -/

/-- CLAIM (R20): the focused core asks its dispatcher for a record. -/
def execClaim (s : State) : Host.Outcome State Fault Refusal := .next (if s.core.run.isNone then claimFor s else s)

/-- Append the oldest post whose partition's fault queue has room and can be reached from its core's die (R428, R440). -/
def postNext (s : State) : Option State :=
  s.posts.findSome? (fun p =>
    let q := (partAt s p.part).faultq
    if q.getLsbD 16 ∧ ¬(stageDesc s p.part (q.toNat % 65536)).any (fun d => linkIsDown s (p.core / 64) (homeOf s d)) then
      (ringAppend s p.part (q.toNat % 65536) p.pa p.cause).map (fun t => { t with posts := s.posts.erase p })
    else none)

/-- The management image hands the record of the oldest log entry, still suspended by fault, to its partition's fault queue,
with CAUSE from the record's frame header, and consumes the entry (R428, R521); whether it does is its software's choice
(log 9). -/
def handOver (s : State) : Option State :=
  match (if s.mcHead = s.mcTail then none else lookup s.mcLog (s.mcHead.toNat % 1024)) with
  | none => none
  | some e =>
    let pa := rf e.toNat 0x10 8
    let r := runningOf pa (readRecord s pa)
    if rf e.toNat 0 1 ≠ 4 ∨ recSt (readRecord s pa) ≠ 4 ∨ ¬(partAt s r.part).faultq.getLsbD 16 then none
    else if Config.handsOver s.mcHead.toNat then
      let cause := frameRead s ⟨r.vf, r.part, r.prv, true⟩ r.frm.toNat 0 1
      (ringAppend s r.part ((partAt s r.part).faultq.toNat % 65536) pa cause).map (fun t => { t with mcHead := t.mcHead + 1 })
    else none

/-- The next entry that a fault queue gets: a held post, or a record the management image hands over. -/
def faultPost (s : State) : Option State :=
  match postNext s with
  | some t => some t
  | none => handOver s

/-- FAULT_QUEUE_POST (R428). -/
def execFaultQueuePost (s : State) : Host.Outcome State Fault Refusal := .next ((faultPost s).getD s)

def endSlice (c : Core) : Core := { c with run := c.run.map (fun r => { r with ended := true }) }

/-- Has the focused core's record run its DS_SLICE ticks (R432)? -/
def sliceOut (s : State) : Bool :=
  match s.core.run with
  | some r => !r.ended && (partAt s r.part).slice.toNat % 2 ^ 32 != 0 && decide ((partAt s r.part).slice.toNat % 2 ^ 32 ≤ r.slice)
  | none => false

/-- SLICE_END (R432): the length. -/
def execSliceEnd (s : State) : Host.Outcome State Fault Refusal := .next (if sliceOut s then { s with core := endSlice s.core } else s)

/-- The core a higher candidate pre-empts (R432): among the cores that run a lower record and could take it, the lowest
PRI, then the latest claimed. -/
def preemptCore (s : State) (c : Cand) : Option Nat :=
  let free (n : Nat) : State := updCore s n (fun k => { k with run := none })
  let l := ((s.coreNo, s.core) :: s.others).filter (fun e => match e.2.run with
    | some r => !r.ended && decide (r.pri.toNat < candPri s c) && canTake (free e.1) e.1 c
    | none => false)
  let pri (e : Nat × Core) : Nat := match e.2.run with
    | some r => r.pri.toNat
    | none => 16
  let since (e : Nat × Core) : Nat := match e.2.run with
    | some r => r.since
    | none => 0
  (l.foldl (fun (b : Option (Nat × Core)) e => match b with
    | none => some e
    | some x => if pri e < pri x ∨ (pri e = pri x ∧ since x < since e) then some e else some x) none).map (·.1)

/-- PRIORITY_PREEMPTION (R432): the first candidate that no idle core may take, and for which no slice has been ended. -/
def preempt (s : State) : Option State :=
  let s0 := refresh s
  (s0.seen.filter (fun c => !((List.range 256).any (fun n => canTake s0 n c)) && !s0.ended.contains c.pa)).findSome?
    (fun c => (preemptCore s0 c).map (fun n => { updCore s0 n endSlice with ended := c.pa :: s0.ended.filter (fun p => s0.seen.any (fun d => d.pa == p)) }))

def execPriorityPreemption (s : State) : Host.Outcome State Fault Refusal := .next ((preempt s).getD s)

/-- DS_ABORT_GO (R433): the record on a core of the caller's partition is suspended as a firmware abort, once asked for. -/
def execDsAbortGo (core : BitVec 8) (s : State) : Host.Outcome State Fault Refusal :=
  let me := s.coreNo
  let t := focus s core.toNat
  .next (if t.core.run.isSome ∧ t.core.abort then focus (takeTrap t 0 0 0) me else s)

end Sys2Proof.Machine
end

