-- ==== Sys2Proof/Machine/Matrix.lean ====
section
/-! DEFINITION. The matrix engine in direct mode: words of major 0x18 (R273 to R297, R307), and the tile-task scheduler
(R298 to R306). -/
namespace Sys2Proof.Machine

/-! ## Exact block arithmetic (R273, R274) -/

/-- An operand element: its value in units of the format's least subnormal, an infinity, or NaN. -/
inductive MEl where
  | nan
  | inf (neg : Bool)
  | num (n : Int)
  deriving DecidableEq, Repr

def mEl (f : Fmt) (x : Nat) : MEl :=
  let neg := bit x (f.w - 1)
  let mag := x % 2 ^ (f.w - 1)
  let ef := mag / 2 ^ f.m
  let fr := mag % 2 ^ f.m
  if f.maxCode < mag then (if f.hasInf ∧ fr = 0 then .inf neg else .nan)
  else .num (sgnN neg (if ef = 0 then fr else (2 ^ f.m + fr) * 2 ^ (ef - 1)))

/-- The exponent of that unit: a value is its number over 2 to this. -/
def mUnit (f : Fmt) : Nat := f.bias + f.m - 1

/-- What a sum of products has met. -/
structure Dot where
  sum : Int
  nan : Bool
  bad : Bool
  pos : Bool
  neg : Bool

def Dot.inf (d : Dot) (n : Bool) : Dot := if n then { d with neg := true } else { d with pos := true }

def Dot.step (d : Dot) (p : MEl × MEl) : Dot :=
  match p.1, p.2 with
  | .nan, _ => { d with nan := true }
  | _, .nan => { d with nan := true }
  | .num a, .num b => { d with sum := d.sum + a * b }
  | .inf a, .inf b => d.inf (a != b)
  | .inf a, .num b => if b = 0 then { d with bad := true } else d.inf (a != decide (b < 0))
  | .num a, .inf b => if a = 0 then { d with bad := true } else d.inf (b != decide (a < 0))

/-- One element of a partial sum, and its flags (R274). -/
def dotFp32 (unit : Nat) (a b : List MEl) : Nat × Nat :=
  let d := (a.zip b).foldl Dot.step ⟨0, false, false, false, false⟩
  if d.nan then (fmtF32.nan, 0)
  else if d.bad ∨ (d.pos ∧ d.neg) then (fmtF32.nan, fNV)
  else if d.pos then (infCode fmtF32, 0)
  else if d.neg then (signAt fmtF32 true + infCode fmtF32, 0)
  else if d.sum = 0 then (0, 0)
  else roundF fmtF32 (.fin (decide (d.sum < 0)) d.sum.natAbs (2 ^ unit)) 0

/-- The cost of a format pair; none refuses the pair (R273). -/
def pairCost (af bf : Nat) : Option Nat :=
  let f8 (f : Nat) : Bool := f == 3 || f == 4
  if af = 5 ∧ bf = 5 then some 4
  else if (af = 5 ∧ f8 bf) ∨ (f8 af ∧ (bf = 5 ∨ f8 bf)) then some 8
  else if af = bf ∧ (af = 1 ∨ af = 2) then some 16
  else none

/-! ## The weight buffer (R275, R276, R278) -/

/-- Units of a tile; none when the mode does not allow the format. -/
def tileUnits (bm bf : Nat) : Option Nat :=
  let w := fmtWidth bf
  match bm with
  | 0 => some (16 * w)
  | 1 => some (encUnits w false)
  | 2 => if w = 8 then some 49 else none
  | _ => none

/-- The bytes of n units from unit u as one number. -/
def unitsImage (c : Core) (u n : Nat) : Nat := packL 1024 ((List.range n).map (fun j => (unitAt c (u + j)).v.toNat))

/-- Column n of a tile image: its 128 encodings (R276). -/
def tileCol (bm bf img n : Nat) : List Nat :=
  let w := fmtWidth bf
  if bm = 0 then (List.range 128).map (fun k => elem img w (128 * k + n))
  else
    let cb := bm == 2
    let mask := img >>> (if cb then 1024 else 0)
    let vals := mask >>> 16384
    (List.range 32).flatMap (fun g =>
      let nib := elem mask 4 (32 * n + g)
      (List.range 4).map (fun b =>
        let before := popc 4 (nib % 2 ^ b)
        if bit nib b ∧ before < 2 then
          (if cb then elem img w (elem vals 4 (64 * n + 2 * g + before)) else elem vals w (64 * n + 2 * g + before))
        else 0))

/-- The units a block reads, counted from the tile's first (R276, R284). -/
def unitsRead (bm bf nh : Nat) : List Nat :=
  let w := fmtWidth bf
  if bm = 0 then (if w = 16 then (List.range 128).map (fun k => 2 * k + nh) else List.range (16 * w))
  else
    let o := if bm = 2 then 1 else 0
    let half := if bm = 2 then 16 else 4 * w
    (if bm = 2 then [0] else []) ++ (List.range 8).map (fun j => o + 8 * nh + j)
      ++ (List.range half).map (fun j => o + 16 + half * nh + j)

/-! ## Words and refusals (R292, R296) -/

/-- A word of the direct mode: refused while the engine is pooled (R296). -/
def mxWord (i : Info) (s : State) (act : State → Act) : Host.Outcome State Fault Refusal :=
  tile i true s fun t => if t.core.mxPool.getLsbD 15 then .error (illegal t 7) else act t

/-- Refused for a run-time value (R292). -/
def mxBad (t : State) (code : Nat) : Act := .error (illegal t 9 code)

/-- The core as it will stand at the start of the next tick, after that tick's writes (R285, R289). -/
def atNext (s : State) : Core := landBlocks (s.core.tick + 1) (landDue (s.core.tick + 1) s).core

/-- Write a whole z block n ticks after issue. -/
def putZ (s : State) (n z : Nat) (es : List Nat) (l : Label) : State :=
  push s n (.z z (BitVec.ofNat 65536 (packL 32 es)) (BitVec.allOnes 65536)) l

/-- The elements of a z block or of the port. -/
def zEls (x : BitVec 65536) : List Nat := (List.range 2048).map (fun j => elem x.toNat 32 j)

def putZf (s : State) (n z : Nat) (es : List (Nat × Nat)) (l : Label) : State :=
  push (putZ s n z (es.map (·.1)) l) n (.flags (BitVec.ofNat 5 (orNat (es.map (·.2))))) l

/-! ## The block (R280 to R284) -/

def mmaG (x : Nat) : Nat := bits x 28 23
def mmaAf (x : Nat) : Nat := bits x 22 19
def mmaBf (x : Nat) : Nat := bits x 18 15
def mmaBm (x : Nat) : Nat := bits x 14 13
def mmaNh (x : Nat) : Nat := bits x 12 12
def mmaOff (x : Nat) : Nat := bits x 11 0

def rowErr {α : Type} : Except (AErr × Nat) α → Option (AErr × Nat)
  | .error e => some e
  | .ok _ => none

/-- Of the failures of k rows at a pitch, each on its own, the one that is reported: a machine check, then the lowest code (R35); e is
the first that was met. -/
def worstRow (e : AErr × Nat) (k va pitch : Nat) (f : Nat → Option (AErr × Nat)) : AErr × Nat :=
  worst e ((List.range k).filterMap (fun r => f ((va + r * pitch) % 2 ^ 72)))

def rowsGo (t : State) (n pitch : Nat) : Nat → Nat → Except (AErr × Nat) (State × List Nat × Label)
  | 0, _ => .ok (t, [], 0)
  | k + 1, va =>
    match readBytes t t.core.who va n .read with
    | .error e => .error e
    | .ok (t1, v, l) => match rowsGo t1 n pitch k ((va + pitch) % 2 ^ 72) with
      | .error e => .error e
      | .ok (t2, vs, l2) => .ok (t2, v :: vs, l ||| l2)

/-- Read k rows of n bytes at a pitch, as one access (R281, R290): each row's value, and the labels together; of the causes of its
rows the first in R35's order. -/
def readRows (t : State) (sz n pitch k va : Nat) : Except Stop (State × List Nat × Label) :=
  match rowsGo t n pitch k va with
  | .ok r => .ok r
  | .error e =>
    let w := worstRow e k va pitch (fun a => rowErr (readBytes t t.core.who a n .read))
    .error (accStop t w.1 w.2 sz false false)

/-- The first byte of A outside the stash window that holds its first byte (R281). -/
def windowEscape (maps : List (Option MapEnt)) (va n pitch : Nat) : Option Nat :=
  match findWindow maps va 1 0 with
  | none => some va
  | some (_, i) => match maps.getD i none with
    | none => some va
    | some e =>
      let lo := e.vbase.toNat
      let hi := lo + e.len
      (List.range 32).findSome? (fun r =>
        let a := (va + r * pitch) % 2 ^ 72
        if a < lo ∨ hi ≤ a then some a else if hi < a + n then some hi else none)

/-- A's rows: a translation failure, then the window rule, then any other failure (R35, R281). -/
def readA (t : State) (va n pitch : Nat) : Except Stop (State × List Nat × Label) :=
  let out : Option Stop := (windowEscape t.core.maps.toList va n pitch).map (fun a => .trap 0xE 7 a)
  match readRows t 4096 n pitch 32 va, out with
  | .error (.trap c i a), some e => if c < 0xE ∨ c = 0x15 then .error (.trap c i a) else .error e
  | .error e, _ => .error e
  | .ok _, some e => .error e
  | .ok x, none => .ok x

/-- The refusal of a block control word (R292): of several refused values the one looked at first, mostly of the lowest code; which one is
reported, and that a pooled engine's sub-reason 7 comes before sub-reason 9, is the model's (DESIGN CHOICE, log 27). -/
def mmaCode (x : Nat) : Option Nat :=
  if x >>> 29 ≠ 0 then some 0
  else if pairCost (mmaAf x) (mmaBf x) = none then some 1
  else match tileUnits (mmaBm x) (mmaBf x) with
    | none => some 2
    | some n => if 4096 < mmaOff x + n then some 3 else none

/-- The partial sum of A's rows and the tile's columns, with its flags (R274). -/
def blockSum (c : Core) (x : Nat) (rows : List Nat) : List (Nat × Nat) :=
  let fa := fmtOf (mmaAf x)
  let fb := fmtOf (mmaBf x)
  let img := unitsImage c (mmaOff x) ((tileUnits (mmaBm x) (mmaBf x)).getD 0)
  let cols := (List.range 64).map (fun j => (tileCol (mmaBm x) (mmaBf x) img (64 * mmaNh x + j)).map (mEl fb))
  rows.flatMap (fun r =>
    let a := (List.range 128).map (fun k => mEl fa (elem r fa.w k))
    cols.map (dotFp32 (mUnit fa + mUnit fb) a))

/-- mx.mma: A and B are read at issue; the block's port tick is the end of its run plus 6 (R281, R282, R284). -/
def execMxMma (q : BitVec 4) (ac : BitVec 1) (sc : BitVec 3) (aa : BitVec 4) (sb : BitVec 5) (s : State) :=
  let x := (s.core.rdS sb).v.toNat
  let i := (infoMxMma q ac sc aa sb).naming (namedG (mmaG x) 1)
  mxWord i s fun t =>
    match mmaCode x with
    | some k => mxBad t k
    | none =>
      if 4 ≤ (t.core.blocks.filter (fun b => decide (t.core.tick < b.due))).length then mxBad t 6
      else
        let n := 16 * fmtWidth (mmaAf x)
        match readA t (t.core.rdA aa).v.toNat n ((ctlG t.core (mmaG x)).toNat % 2 ^ 32) with
        | .error e => .error e
        | .ok (t1, rows, ml) =>
          if t.core.subs.any (fun u => u.pw != 2) then .error .wake
          else
            let c := t1.core
            let ul := orAll ((unitsRead (mmaBm x) (mmaBf x) (mmaNh x)).map (fun u => (unitAt c (mmaOff x + u)).l))
            let p := blockSum c x rows
            let lab := readLabel c i.rd ||| ml ||| ul
            let e := max c.tick c.blockEnd + (pairCost (mmaAf x) (mmaBf x)).getD 0
            let b : Block := ⟨e + 6, BitVec.ofNat 65536 (packL 32 (p.map (·.1))), BitVec.ofNat 5 (orNat (p.map (·.2))), lab⟩
            let t2 := { t1 with core := { c with blocks := c.blocks ++ [b], blockEnd := e, portLive := true, mxPin := true } }
            .ok (t2.core.grp.eArr.foldl (fun u a => push u (e + 6 - c.tick) (.arrive { a with res := true }) lab)
              (push t2 (e + 6 - c.tick) .block 0))

/-- A block whose port tick has come reaches the port, after the writes of that tick from other sources (R284); its flags
join the value that a write of the flag register gives it at that tick (R80). -/
def execBlockPortWrite (s : State) : Host.Outcome State Fault Refusal :=
  let isPort (e : Pend) : Bool := decide (e.due ≤ s.core.tick) && (match e.eff with
    | .z n _ _ => n == 9
    | .sysw n _ => n == 0x801
    | _ => false)
  let s1 := (s.core.pend.filter isPort).foldl applyEff { s with core := { s.core with pend := s.core.pend.filter (fun e => !isPort e) } }
  .next { s1 with core := landBlocks s1.core.tick s1.core }

/-! ## Promotion (R285 to R287) -/

def promKs (x : Nat) : Nat := bits x 53 38
def promNsa (x : Nat) : Bool := bit x 37
def promSbf (x : Nat) : Bool := bit x 36
def promZ (x : Nat) : Nat := bits x 35 32

/-- z + p × sa × sw, rounded once (R85). The product is formed from the left, so that with p NaN a product sa × sw of ∞ and 0
sets no NV; the spec does not say whether it does (DESIGN CHOICE, log 25). -/
def promote (z p : Nat) (sa sw : Fv) : Nat × Nat :=
  if sa = .nan ∨ sw = .nan then (fmtF32.nan, 0)
  else
    let (v1, f1) := (decodeF fmtF32 p).mul sa
    let (v2, f2) := v1.mul sw
    let (v3, f3) := (decodeF fmtF32 z).add false v2
    let (r, f4) := roundF fmtF32 v3 0
    (r, f1 ||| f2 ||| f3 ||| f4)

/-- The 32 activation scales (R286), rows of one scale each. -/
def readScales (t : State) (sz : Nat) (dec : Nat → Fv) (step k va : Nat) : Except Stop (State × List Fv × Label) :=
  match readRows t sz sz step k va with
  | .ok (t1, vs, l) => .ok (t1, vs.map dec, l)
  | .error e => .error e

/-- A promotion's Info: without activation scales aa is not read (R286). -/
def promInfo (i : Info) (x : Nat) : Info :=
  if promNsa x then { i with rd := i.rd.filter (fun r => match r with | .a _ => false | _ => true),
                             cx := i.cx.filter (fun r => match r with | .a _ => false | _ => true) } else i

/-- mx.prom and mx.prome: port and z block as they stand at the start of the next tick; the result at tick 3. -/
def prom (i0 : Info) (sz : Nat) (dec : Nat → Fv) (aa : BitVec 4) (sb : BitVec 5) (s : State) : Host.Outcome State Fault Refusal :=
  let x := (s.core.rdS sb).v.toNat
  let i := promInfo i0 x
  mxWord i s fun t =>
    let va := (t.core.rdA aa).v.toNat
    if x >>> 54 ≠ 0 ∨ (promSbf x ∧ bits x 31 8 ≠ 0) then mxBad t 0
    else if 8 < promZ x then mxBad t 4
    else if (if promNsa x then promKs x != 0 || aa != 0 else promKs x == 0 || va % sz != 0) then mxBad t 5
    else
      match (if promNsa x then Except.ok (t, List.replicate 32 (Fv.fin false 1 1), 0) else readScales t sz dec (sz * promKs x) 32 va) with
      | .error e => .error e
      | .ok (t1, sas, ml) =>
        let c := atNext t1
        let z := c.rdZ (promZ x)
        let sw := if promSbf x then decodeEl 6 (x % 256) else decodeF fmtF32 (x % 2 ^ 32)
        let es := (List.zipIdx ((zEls z.v).zip (zEls c.portVal.v))).map (fun e => promote e.1.1 e.1.2 (sas.getD (e.2 / 64) .nan) sw)
        let t2 := putZf t1 3 (promZ x) es (readLabel t1.core i.rd ||| ml ||| z.l ||| c.portVal.l)
        .ok { t2 with core := { t2.core with mxPin := true } }

def execMxProm (q aa : BitVec 4) (sb : BitVec 5) (s : State) := prom (infoMxProm q aa sb) 4 (decodeF fmtF32) aa sb s
def execMxProme (q aa : BitVec 4) (sb : BitVec 5) (s : State) := prom (infoMxProme q aa sb) 1 (decodeEl 6) aa sb s

/-! ## Accumulator words (R288 to R291, R293) -/

def execMxZero (q : BitVec 4) (sb : BitVec 5) (s : State) :=
  let i := infoMxZero q sb
  mxWord i s fun t =>
    let x := (t.core.rdS sb).v.toNat
    if x >>> 9 ≠ 0 then mxBad t 0
    else .ok ((List.range 9).foldl (fun u z => if bit x z then putZ u 1 z [] (readLabel t.core i.rd) else u) t)

def execMxZadd (q : BitVec 4) (sb : BitVec 5) (s : State) :=
  let i := infoMxZadd q sb
  mxWord i s fun t =>
    let x := (t.core.rdS sb).v.toNat
    if x >>> 12 ≠ 0 then mxBad t 0
    else if 8 < bits x 3 0 ∨ 8 < bits x 7 4 ∨ 8 < bits x 11 8 then mxBad t 4
    else
      let c := atNext t
      let za := c.rdZ (bits x 7 4)
      let zb := c.rdZ (bits x 11 8)
      let add (a b : Nat) : Nat × Nat :=
        let (v, f) := (decodeF fmtF32 a).add false (decodeF fmtF32 b)
        let (r, g) := roundF fmtF32 v 0
        (r, f ||| g)
      .ok (putZf t 4 (bits x 3 0) (((zEls za.v).zip (zEls zb.v)).map (fun p => add p.1 p.2)) (readLabel t.core i.rd ||| za.l ||| zb.l))

def execMxScl (q : BitVec 4) (sb : BitVec 5) (s : State) :=
  let i := infoMxScl q sb
  mxWord i s fun t =>
    let x := (t.core.rdS sb).v.toNat
    if x >>> 36 ≠ 0 then mxBad t 0
    else if 8 < bits x 35 32 then mxBad t 4
    else
      let z := (atNext t).rdZ (bits x 35 32)
      let mul (a : Nat) : Nat × Nat :=
        let (v, f) := (decodeF fmtF32 a).mul (decodeF fmtF32 (x % 2 ^ 32))
        let (r, g) := roundF fmtF32 v 0
        (r, f ||| g)
      .ok (putZf t 4 (bits x 35 32) ((zEls z.v).map mul) (readLabel t.core i.rd ||| z.l))

/-- The fields of a z transfer (R290), and its refusal: `lim` is the first reserved bit, `row` the bytes of a row. -/
def ztZ (x : Nat) : Nat := bits x 3 0
def ztG (x : Nat) : Nat := bits x 9 4
def ztBad (t : State) (aa : BitVec 4) (x lim row : Nat) : Option Nat :=
  let pitch := (ctlG t.core (ztG x)).toNat % 2 ^ 32
  if x >>> lim ≠ 0 then some 0
  else if 8 < ztZ x then some 4
  else if (t.core.rdA aa).v.toNat % 64 ≠ 0 ∨ pitch % 64 ≠ 0 ∨ pitch < row then some 5
  else none

def ztPitch (c : Core) (x : Nat) : Nat := (ctlG c (ztG x)).toNat % 2 ^ 32

def execMxZld (q : BitVec 4) (ac : BitVec 1) (sc : BitVec 3) (aa : BitVec 4) (sb : BitVec 5) (s : State) :=
  let x := (s.core.rdS sb).v.toNat
  let i := (infoMxZld q ac sc aa sb).naming (namedG (ztG x) 1)
  mxWord i s fun t =>
    match ztBad t aa x 10 256 with
    | some k => mxBad t k
    | none =>
      match readRows t 8192 256 (ztPitch t.core x) 32 (t.core.rdA aa).v.toNat with
      | .error e => .error e
      | .ok (t1, rows, ml) =>
        .ok (push t1 16 (.z (ztZ x) (BitVec.ofNat 65536 (packL 2048 rows)) (BitVec.allOnes 65536)) (readLabel t1.core i.rd ||| ml))

def putRows (t : State) (n pitch : Nat) (l : Label) : List Nat → Nat → Except (AErr × Nat) State
  | [], _ => .ok t
  | r :: rs, va =>
    match writeBytes t t.core.who va n r l with
    | .error e => .error e
    | .ok t1 => putRows t1 n pitch l rs ((va + pitch) % 2 ^ 72)

/-- Write rows of n bytes at a pitch, as one access; of the causes of its rows the first in R35's order. -/
def writeRows (t : State) (n pitch : Nat) (l : Label) (rows : List Nat) (va : Nat) : Act :=
  match putRows t n pitch l rows va with
  | .ok t1 => .ok t1
  | .error e =>
    let w := worstRow e rows.length va pitch (fun a => rowErr (writeBytes t t.core.who a n 0 l))
    .error (accStop t w.1 w.2 8192 true false)

/-- Lines of the stash that a z transfer's rows lie in. -/
def rowLine (t : State) (va pitch n : Nat) (l : Nat × StashLine) : Bool :=
  (List.range 32).any (fun r => lineIn t t.core.who ((va + r * pitch) % 2 ^ 72) n l)

/-- What a z transfer leaves of its lines: with REL = 1 they are written back and stay clean (R185, R193), else an mx.fence
may still do so (R293). -/
def releaseRows (t : State) (rl : BitVec 1) (va pitch n : Nat) : State :=
  if rl = 1 then cleanLines t (rowLine t va pitch n)
  else { t with core := { t.core with
    mxWrote := (((t.core.stash.filter (rowLine t va pitch n)).map (fun l => (t.core.cont.pa, l.2.pa))) ++ t.core.mxWrote).eraseDups } }

/-- A z block as it stands at tick 1, written in rows of 64 converted elements (R290). -/
def storeZ (i : Info) (rl : BitVec 1) (aa : BitVec 4) (x w : Nat) (conv : Nat → Nat × Nat) (fl : Bool) (t : State) : Act :=
  let z := (atNext t).rdZ (ztZ x)
  let es := (zEls z.v).map conv
  let lab := readLabel t.core i.rd ||| z.l
  let rows := (List.range 32).map (fun r => packL w (((es.drop (64 * r)).take 64).map (·.1)))
  match writeRows t (8 * w) (ztPitch t.core x) lab rows (t.core.rdA aa).v.toNat with
  | .error e => .error e
  | .ok t0 =>
    let t1 := releaseRows t0 rl (t.core.rdA aa).v.toNat (ztPitch t.core x) (8 * w)
    .ok (if fl then push t1 1 (.flags (BitVec.ofNat 5 (orNat (es.map (·.2))))) lab else t1)

def execMxZst (q : BitVec 4) (rl : BitVec 1) (sc : BitVec 3) (aa : BitVec 4) (sb : BitVec 5) (s : State) :=
  let x := (s.core.rdS sb).v.toNat
  let i := (infoMxZst q rl sc aa sb).naming (namedG (ztG x) 1)
  mxWord i s fun t =>
    match ztBad t aa x 10 256 with
    | some k => mxBad t k
    | none => storeZ i rl aa x 32 (fun e => (e, 0)) false t

def execMxZcvt (q : BitVec 4) (rl : BitVec 1) (sc : BitVec 3) (aa : BitVec 4) (sb : BitVec 5) (s : State) :=
  let x := (s.core.rdS sb).v.toNat
  let i := (infoMxZcvt q rl sc aa sb).naming (namedG (ztG x) 1)
  mxWord i s fun t =>
    let df := bits x 13 10
    let rm := bits x 16 14
    if x >>> 17 ≠ 0 then mxBad t 0
    else if 4 < df ∨ rm = 5 ∨ rm = 7 then mxBad t 1
    else match ztBad t aa x 17 (8 * fmtWidth df) with
      | some k => mxBad t k
      | none => storeZ i rl aa x (fmtWidth df) (fun e => convert false 0 df e (rmOf rm (t.core.fpMode.toNat % 8) false) 0) true t

/-- The release of mx.fence (R185, R193, R293): the dirty lines that mx.zst and mx.zcvt of the continuation wrote are written back,
those of an earlier claim among them, on whichever core, since no suspension writes one back. -/
def fenceZ (t : State) : State :=
  let rest (c : Core) : Core := { c with mxWrote := c.mxWrote.filter (fun e => e.1 != t.core.cont.pa) }
  let u := cleanEach t (fun v l => v.core.mxWrote.contains (t.core.cont.pa, l.2.pa))
  { u with core := rest u.core, others := u.others.map (fun e => (e.1, rest e.2)) }

/-- mx.fence: every write of mx.zst and mx.zcvt has been performed; with REL = 1 it releases them (R293). -/
def execMxFence (q : BitVec 4) (rl : BitVec 1) (sc : BitVec 3) (s : State) :=
  tile (infoMxFence q rl sc) true s fun t => .ok (if rl = 1 then fenceZ t else t)

/-- mx.wsel clears units; every later read of them finds zeros (R278). A count of 0, for which R292 names no code, is refused with
code 3 (DESIGN CHOICE, log 27). -/
def execMxWsel (q : BitVec 4) (sb : BitVec 5) (s : State) :=
  let i := infoMxWsel q sb
  mxWord i s fun t =>
    let x := (t.core.rdS sb).v.toNat
    let n := bits x 24 12
    if x >>> 25 ≠ 0 then mxBad t 0
    else if n = 0 ∨ 4096 < x % 4096 + n then mxBad t 3
    else .ok { t with core := (List.range n).foldl (fun c j => setUnit c (x % 4096 + j) 0 (readLabel t.core i.rd)) t.core }

/-- mx.wake: the tick of its group passes before waking starts at tick 1 (R283). -/
def execMxWake (q : BitVec 4) (sb : BitVec 5) (s : State) :=
  mxWord (infoMxWake q sb) s fun t =>
    let x := (t.core.rdS sb).v.toNat
    if x >>> 4 ≠ 0 then mxBad t 0
    else .ok { t with core := { t.core with
      subs := t.core.subs.mapFinIdx (fun j u _ => if bit x j then startWake (t.core.mxWake.toNat + 1) u else u) } }

def execMxGate (q : BitVec 4) (sb : BitVec 5) (s : State) :=
  mxWord (infoMxGate q sb) s fun t =>
    let x := (t.core.rdS sb).v.toNat
    if x >>> 4 ≠ 0 then mxBad t 0
    else .ok (push t (max 1 (t.core.blockEnd - t.core.tick)) (.subsOff (BitVec.ofNat 4 x)) 0)

/-- mx.cfg writes g-register SC × 16 + AA (R279). -/
def execMxCfg (q : BitVec 4) (gh : BitVec 2) (gl : BitVec 4) (sb : BitVec 5) (s : State) :=
  let i := infoMxCfg q gh gl sb
  tile i true s fun t => .ok (push t 1 (.g (gh ++ gl) (t.core.rdS sb).v) (readLabel t.core i.rd))

/-! ## mx.qsplit (R291) -/

/-- The mx.qsplit of a core's group whose predicate is true: its position and bits. -/
def qsplitOf (c : Core) : Option (IWord × Nat) :=
  (List.zipIdx (fetchGroup c)).find? (fun e =>
    bits e.1.toNat 30 26 == 0x18 && bits e.1.toNat 16 9 == 0xF && (c.rdP (BitVec.ofNat 4 (bits e.1.toNat 25 22))).v == 1)

/-- A core of the quad as it stands in this tick. -/
def coreNow (s : State) (n : Nat) : Core := (landDue (coreAt s n).tick (focus s n)).core

/-- The four operands' sum, element by element, with flags. -/
def quadSum (x : List Nat) : Nat × Nat :=
  let v (k : Nat) : Fv := decodeF fmtF32 (x.getD k 0)
  let rnd (a b : Fv) : Nat × Nat :=
    let (s, f) := a.add false b
    let (r, g) := roundF fmtF32 s 0
    (r, f ||| g)
  let (a, f) := rnd (v 0) (v 1)
  let (b, g) := rnd (v 2) (v 3)
  let (r, h) := rnd (decodeF fmtF32 a) (decodeF fmtF32 b)
  (r, f ||| g ||| h)

/-- Carry out a quad's mx.qsplit: one result, on the collector; the other cores have nothing left to do. -/
def quadSplit (t : State) (ctl : List (Lv 64)) : State :=
  let me := t.coreNo
  let q := quadCores me
  let zs := (q.zip ctl).map (fun e => (atNext (focus t e.1)).rdZ (bits e.2.v.toNat 3 0))
  let es := (List.range 2048).map (fun j => quadSum (zs.map (fun z => elem z.v.toNat 32 j)))
  let lab := orAll (zs.map (·.l)) ||| orAll (ctl.map (·.l)) ||| orAll (q.map (fun n => (coreAt t n).cl))
  let col := bits (ctl.getD 0 ⟨0, 0⟩).v.toNat 5 4
  let z := bits (ctl.getD col ⟨0, 0⟩).v.toNat 3 0
  let t1 := q.foldl (fun u n => if n = me then u else updCore u n (fun c => { c with qsp := true })) t
  focus (putZf (focus t1 (me / 4 * 4 + col)) 12 z es lab) me

def execMxQsplit (q : BitVec 4) (sb : BitVec 5) (s : State) :=
  mxWord (infoMxQsplit q sb) s fun t0 =>
    let t := { t0 with core := t0.core.joinCl (orAll ((quadCores t0.coreNo).map (fun n => (coreAt t0 n).cl))) }
    let x := (t.core.rdS sb).v.toNat
    if t.core.qsp then .ok { t with core := { t.core with qsp := false } }
    else if ¬t.core.locked then .error (illegal t 8)
    else if x >>> 6 ≠ 0 then mxBad t 0
    else if 8 < bits x 3 0 then mxBad t 4
    else
      let cs := (quadCores t.coreNo).map (coreNow t)
      let ws := cs.map qsplitOf
      if ws.any (·.isNone) then .error .hold
      else
        let ctl := (cs.zip ws).map (fun e => e.1.rdS (BitVec.ofNat 5 (((e.2.map (fun (w : IWord × Nat) => w.1)).getD 0).toNat % 32)))
        if ctl.any (fun v => bits v.v.toNat 5 4 != bits x 5 4) then
          .error (.quadTrap ((quadCores t.coreNo).zip ((cs.zip ws).map (fun e =>
            let w := e.2.getD (0, 0)
            (2, w.1.toNat + (8 <<< 32), (e.1.pc.toNat + 4 * w.2) % 2 ^ 72)))))
        else .ok (quadSplit t ctl)

/-! ## Power of the sub-arrays (R283) -/

def execSubarrayOn (i : BitVec 2) (s : State) : Host.Outcome State Fault Refusal :=
  let x := s.core.subs[i.toFin]
  .next (if x.pw = 1 ∧ x.cnt = 0 then { s with core := { s.core with subs := s.core.subs.set i.toFin ⟨2, 0, 0⟩ } } else s)

def execSubarrayIdleOff (i : BitVec 2) (s : State) : Host.Outcome State Fault Refusal :=
  let x := s.core.subs[i.toFin]
  .next (if x.pw = 2 ∧ s.core.mxIdle ≠ 0 ∧ s.core.mxIdle.toNat ≤ x.idle then
    { s with core := { s.core with subs := s.core.subs.set i.toFin ⟨0, 0, 0⟩ } } else s)

/-! ## Tile tasks (R298 to R306) -/

def taskQ (s : State) : List Task := (lookup s.quadQ (s.coreNo / 4)).getD []
def taskR (s : State) : List Task := (lookup s.quadRun (s.coreNo / 4)).getD []
def setList (q : Nat) (l : List Task) (m : List (Nat × List Task)) : List (Nat × List Task) :=
  if l.isEmpty then eraseKey q m else insertKey q l m
def setQ (s : State) (l : List Task) : State := { s with quadQ := setList (s.coreNo / 4) l s.quadQ }
def setR (s : State) (l : List Task) : State := { s with quadRun := setList (s.coreNo / 4) l s.quadRun }

/-- Fields of a tile-task record (R298). -/
def tkAf (r : Nat) : Nat := bits (rf r 9 1) 3 0
def tkBf (r : Nat) : Nat := bits (rf r 9 1) 7 4
def tkCf (r : Nat) : Nat := bits (rf r 0xA 1) 3 0
def tkAcc (r : Nat) : Bool := bit (rf r 0xA 1) 4
def tkSaf (r : Nat) : Bool := bit (rf r 0xA 1) 5
def tkSbf (r : Nat) : Bool := bit (rf r 0xA 1) 6
def tkM (r : Nat) : Nat := rf r 0xC 2
def tkN (r : Nat) : Nat := rf r 0xE 2
def tkKb (r : Nat) : Nat := rf r 0x19 2
def tkA (r : Nat) : Nat := rf r 0 9
def tkB (r : Nat) : Nat := rf r 0x10 9
def tkC (r : Nat) : Nat := rf r 0x20 9
def tkSa (r : Nat) : Nat := rf r 0x30 9
def tkSb (r : Nat) : Nat := rf r 0x40 9
def tkAld (r : Nat) : Nat := rf r 0x1C 4
def tkBld (r : Nat) : Nat := rf r 0x2C 4
def tkCld (r : Nat) : Nat := rf r 0x3C 4
def tkSt (r : Nat) : Nat := rf r 0x4A 1
def tkDep0 (r : Nat) : Nat := rf r 0x50 9
def tkDep1 (r : Nat) : Nat := rf r 0x59 9
def tkDone (r : Nat) : Nat := rf r 0x62 9
/-- 128-column tiles of B. -/
def tkNb (r : Nat) : Nat := divUp (tkN r) 128

/-- The cause code of a task's failure. -/
def failCode (f : CFail) : Nat :=
  match f.reason with
  | 2 => 5 | 3 => 6 | 4 => 7 | 5 => 8 | 9 => 0xC | 6 => if f.poison.isSome then 0x15 else 0x13 | _ => 7

/-- Reserved bits and ranges (R298, R300): error 0x02. -/
def taskBad2 (r : Nat) : Bool :=
  bit (rf r 0xA 1) 7 || rf r 0xB 1 != 0 || rf r 0x1B 1 != 0 || rf r 0x29 3 != 0 || rf r 0x39 3 != 0 || rf r 0x49 1 / 4 != 0
    || decide (7 ≤ tkSt r) || rf r 0x4E 2 != 0 || rf r 0x6B 5 != 0 || (pairCost (tkAf r) (tkBf r)).isNone || decide (2 < tkCf r)
    || tkM r % 32 != 0 || decide (tkM r < 32) || decide (192 < tkM r) || tkN r % 64 != 0 || decide (tkN r < 64) || decide (384 < tkN r)
    || tkKb r == 0

/-- Alignment and pitches (R300): error 0x05. -/
def taskBad5 (r : Nat) : Bool :=
  [tkA r, tkB r, tkC r, tkAld r, tkBld r, tkCld r].any (fun x => x % 64 != 0)
    || decide (tkAld r < tkKb r * 16 * fmtWidth (tkAf r)) || decide (tkBld r < tkN r * fmtWidth (tkBf r) / 8)
    || decide (tkCld r < tkN r * fmtWidth (tkCf r) / 8) || (!tkSaf r && tkSa r % 4 != 0) || (!tkSbf r && tkSb r % 4 != 0)

/-- C's bounding range meets an operand, a scale array, the record or a barrier (R300): error 0x10. -/
def taskBad10 (r va : Nat) : Bool :=
  let span (base rows ld bytes : Nat) : Int × Int := (base, base + (rows - 1) * ld + bytes)
  let c := span (tkC r) (tkM r) (tkCld r) (tkN r * fmtWidth (tkCf r) / 8)
  let opt (a n : Nat) : List (Int × Int) := if a = 0 then [] else [((a : Int), (a : Int) + n)]
  ([span (tkA r) (tkM r) (tkAld r) (tkKb r * 16 * fmtWidth (tkAf r)), span (tkB r) (128 * tkKb r) (tkBld r) (tkN r * fmtWidth (tkBf r) / 8),
      ((va : Int), (va : Int) + 128)]
    ++ opt (tkSa r) (tkM r * tkKb r * (if tkSaf r then 1 else 4)) ++ opt (tkSb r) (tkKb r * tkNb r * (if tkSbf r then 1 else 4))
    ++ opt (tkDep0 r) 16 ++ opt (tkDep1 r) 16 ++ opt (tkDone r) 16).any (fun x => (aliasStop c x).isSome)

def taskErr (r va : Nat) : Option Nat :=
  if taskBad2 r then some 2 else if taskBad5 r then some 5 else if taskBad10 r va then some 0x10 else none

/-- Write fields of a record as the scheduler does; a field that cannot be written is left. -/
def recField (w : Who) (va off n v : Nat) (l : Label) (s : State) : State := orMark s w ((va + off) % 2 ^ 72) n (writeVa s w ((va + off) % 2 ^ 72) n v l 0)

/-- The task's context is the submitter's, through no window (R304). -/
def Task.who (t : Task) : Who := ⟨t.vf, t.part, t.prv, false⟩
def Task.r (t : Task) : Nat := t.img.toNat
def Task.put (t : Task) (off n v : Nat) (s : State) : State := recField t.who t.at_.toNat off n v t.lab s

/-- The tag context a task names counts it (R299). -/
def ctxTask (s : State) (core ctx : Nat) (up : Bool) : State :=
  updCore s core (fun c =>
    let x := c.ctxAt ctx
    let x1 : TagCtx := { x with tasks := if up then x.tasks + 1 else x.tasks - 1 }
    c.setCtx ctx (if ¬up ∧ x1.leaving ∧ x1.busy = 0 ∧ x1.tasks = 0 then .free else x1))

/-- The status of a submission and the state after it (R299). One with REL = 1 writes home the lines bound to DONE and to the word of
the record that holds ST, as a command's issue does, since both are updated after a release (R185, R193, R305; DEDUCED, log 27). -/
def submitTask (t : State) (rl : BitVec 1) (va img : Nat) (lab : Label) : State × Nat :=
  let c := t.core
  let w := c.who
  let pa := match translate t va w.vf w.part w.prv 128 .rmw with
    | .ok (x, _) => x.pa
    | .error _ => 0
  if tkSt img = 1 ∨ tkSt img = 2 then (t, 3)
  else match taskErr img va with
    | some e => (recField w va 0x4B 1 e lab (recField w va 0x4A 1 6 lab t), 3)
    | none =>
      if 64 ≤ (taskQ t).length then (t, 1)
      else
        let k : Task := ⟨BitVec.ofNat 1024 img, BitVec.ofNat 72 va, pa, t.coreNo, c.cur, c.cont.vf, c.cont.part, c.cont.prv, lab, rl == 1, 0, none, 0⟩
        let t1 := recField w va 0x4A 1 1 lab (releaseFor t rl (([tkDone img].filter (· != 0) ++ [(va + 0x48) % 2 ^ 72]).map (BitVec.ofNat 72)))
        (ctxTask (setQ t1 (taskQ t1 ++ [k])) t.coreNo c.cur true, 0)

/-- A word that names a tile-task record by aa: aligned to 128 and read as `kind`. -/
def taskWord (i : Info) (kind : Kind) (aa : BitVec 4) (s : State) (act : State → Nat → Label → Act) : Host.Outcome State Fault Refusal :=
  tile i true s fun t =>
    let va := (t.core.rdA aa).v.toNat
    let st := kind == .rmw
    if va % 128 ≠ 0 then .error (accStop t .mis va 128 st st)
    else match readVa t t.core.who va 128 kind with
      | .error e => .error (accStop t e va 128 st st)
      | .ok (t1, img, l) => act t1 img (l ||| readLabel t.core i.rd)

def execMxTask (q : BitVec 4) (ac rl : BitVec 1) (sc : BitVec 3) (aa : BitVec 4) (sb : BitVec 5) (s : State) :=
  taskWord (infoMxTask q ac rl sc aa sb) .rmw aa s fun t img l =>
    let (t1, st) := submitTask t rl (t.core.rdA aa).v.toNat img l
    .ok (push t1 1 (.s sb (BitVec.ofNat 64 st)) l)

/-- The record at va as this core's quad holds it: its place in the queue, or running with its engines. -/
def findTask (t : State) (va : Nat) : Option (Nat × Task) :=
  let w := t.core.who
  match translate t va w.vf w.part w.prv 128 .read with
  | .error _ => none
  | .ok (x, _) => match (List.zipIdx (taskQ t)).find? (fun e => e.1.pa == x.pa) with
    | some (k, n) => some (n, k)
    | none => ((taskR t).find? (fun k => k.pa == x.pa)).map (fun k => (127, k))

/-- mx.tstat (R306). ERR of a task that is queued or runs, in whose record an earlier refusal may have left a code, is 0; R306 does not say
(DESIGN CHOICE, log 27). -/
def execMxTstat (q aa : BitVec 4) (sb : BitVec 5) (s : State) :=
  taskWord (infoMxTstat q aa sb) .read aa s fun t img l =>
    let v := match findTask t (t.core.rdA aa).v.toNat with
      | some (n, k) => (if n = 127 then 2 else 1) + (k.eng.toNat <<< 16) + (n <<< 20)
      | none => tkSt img % 8 + (rf img 0x4B 1 <<< 8) + ((rf img 0x4C 1 % 16) <<< 16) + (127 <<< 20)
    .ok (push t 1 (.s sb (BitVec.ofNat 64 v)) l)

def execMxTkill (q aa : BitVec 4) (sb : BitVec 5) (s : State) :=
  taskWord (infoMxTkill q aa sb) .rmw aa s fun t _ l =>
    let (t1, v) := match findTask t (t.core.rdA aa).v.toNat with
      | some (n, k) =>
        if n = 127 then (t, 3)
        else (k.put 0x4A 1 5 (ctxTask (setQ t ((taskQ t).eraseIdx n)) k.core k.ctx false), 0)
      | none => (t, 4)
    .ok (push t1 1 (.s sb (BitVec.ofNat 64 v)) l)

/-! ### Scheduling (R301) -/

/-- Does a barrier's phase bit equal the expected one, and the failure it shows then (R301, R305): its ERR bit, or the cause
and the address of a read that fails. For a barrier that is not aligned to 16 the spec names no check: it fails as a
misaligned access (DESIGN CHOICE, log 27). -/
def depNow (s : State) (k : Task) (va : Nat) (want : Bool) : Bool × Option (Nat × Nat) :=
  if va = 0 then (true, none)
  else if va % 16 ≠ 0 then (true, some (5, va))
  else match cmdRd s k.who va 16 with
    | .ok (_, x, _) => (bit x 0 == want, if bit x 1 then some (0x11, 0) else none)
    | .error f => (true, some (failCode f, f.addr))

/-- Conditions stay satisfied once they have held. State s has a core of the task's quad in focus, whose die reads the
barriers. -/
def latchTask (s : State) (k : Task) : Task :=
  let (a, ea) := depNow s k (tkDep0 k.r) (bit (rf k.r 0x49 1) 0)
  let (b, eb) := depNow s k (tkDep1 k.r) (bit (rf k.r 0x49 1) 1)
  let mask : Word := BitVec.ofNat 64 (rf k.r 0x70 8)
  let tags := ((coreAt s k.core).ctxAt k.ctx).tags.v &&& mask == mask
  { k with
    met := k.met ||| BitVec.ofNat 3 (b2n a + 2 * b2n b + 4 * b2n tags),
    bad := k.bad.or ((if a && !k.met.getLsbD 0 then ea else none).or (if b && !k.met.getLsbD 1 then eb else none)) }

/-- The bits that the walks to a task's barriers set (R153): those of conditions that have not held yet are read. -/
def markDeps (s : State) (k : Task) : State :=
  (([tkDep0 k.r, tkDep1 k.r].zipIdx).filter (fun d => d.1 != 0 && d.1 % 16 == 0 && !k.met.getLsbD d.2)).foldl (fun t d =>
    match translateMark t d.1 k.vf k.part k.prv 16 .read with
    | .ok (u, _) => u
    | .error _ => t) s

/-- The conditions of every queued task are looked at (R301). -/
def latchTasks (s : State) : State :=
  (s.quadQ.flatMap (·.2)).foldl markDeps
    { s with quadQ := s.quadQ.map (fun e => (e.1, e.2.map (latchTask (focus s (4 * e.1))))) }

def Task.ready (k : Task) : Bool := k.met == 7
def Task.wide (k : Task) : Bool := decide (96 < tkM k.r) || decide (192 < tkN k.r)

/-- Is engine c of this quad pooled for the VF, and free? -/
def pooledFor (s : State) (vf c : Nat) : Bool :=
  let p := (coreAt s (s.coreNo / 4 * 4 + c)).mxPool
  p.getLsbD 15 && p.toNat % 512 == vf
def engineFree (s : State) (c : Nat) : Bool := !(taskR s).any (fun k => k.eng.getLsbD c)

/-- The engines a ready task starts on, those a waiting elder needs left out; 0 when it cannot start. -/
def placeTask (s : State) (away : List Nat) (k : Task) : BitVec 4 :=
  let ok (c : Nat) : Bool := pooledFor s k.vf c && engineFree s c && !away.contains c
  if k.wide then (if (List.range 4).all ok then 15 else 0)
  else match (List.range 4).find? ok with
    | some c => 1#4 <<< c
    | none => 0
def needsOf (s : State) (k : Task) : List Nat := if k.wide then List.range 4 else (List.range 4).filter (pooledFor s k.vf)

/-- The task the scheduler starts next: its place in the queue and its engines. -/
def nextTask (s : State) : Option (Nat × BitVec 4) :=
  let l := (List.zipIdx (taskQ s)).filter (fun e => e.1.ready)
  match l with
  | [] => none
  | (k, n) :: rest =>
    if k.bad.isSome then some (n, 0)
    else
      let e := placeTask s [] k
      if e ≠ 0 then some (n, e)
      else
        let away := needsOf s k
        rest.findSome? (fun x => if x.1.bad.isSome then some (x.2, 0) else
          let e := placeTask s away x.1
          if e ≠ 0 then some (x.2, e) else none)

/-- DONE of a task is credited with n bytes (R305): the failure of the credit, if any. -/
def creditDone (s : State) (k : Task) (n : Nat) (failed : Bool) : State × Option (Nat × Nat) :=
  let a := tkDone k.r
  if a = 0 then (s, none)
  else if a % 16 ≠ 0 then (s, some (5, a))
  else match creditAt s k.who a n failed k.lab with
    | .ok t => (t, none)
    | .error f => (countFail s k.who (some f), some (failCode f, f.addr))

/-- The end of a task: DONE credited, ST written (R305). A credit that cannot be made is the task's failure. -/
def endTask (s : State) (k : Task) (n : Nat) (f : Option (Nat × Nat)) : State :=
  let fail (s : State) (e : Nat × Nat) : State :=
    k.put 0x4A 1 4 (k.put 0x78 8 (e.2 % 2 ^ 64) (k.put 0x4D 1 (e.2 / 2 ^ 64) (k.put 0x4B 1 e.1 s)))
  let (t, g) := creditDone s k n f.isSome
  let s1 := match f.or g with
    | some e => fail t e
    | none => k.put 0x4A 1 3 t
  ctxTask s1 k.core k.ctx false

/-- Start task k of the quad's queue when it is the one to start (R301); a task whose barrier is in error fails
before it starts, and its DONE takes 0 bytes with ERR (R305 states no count for it; DESIGN CHOICE, log 27). -/
def execTaskStart (k : Nat) (s : State) : Host.Outcome State Fault Refusal :=
  let s1 := latchTasks s
  match nextTask s1, (taskQ s1)[k]? with
  | some (n, e), some t =>
    if n ≠ k then .next s1
    else
      let s2 := setQ s1 ((taskQ s1).eraseIdx k)
      if t.bad.isSome then .next (endTask s2 t 0 t.bad)
      else .next (t.put 0x4C 1 e.toNat (t.put 0x4A 1 2 (setR s2 (taskR s2 ++ [{ t with eng := e }]))))
  | _, _ => .next s1

/-! ### Running (R302 to R305) -/

abbrev TRun (α : Type) := Except CFail (State × α)

/-- The bytes of a row in 64-byte pieces from each offset, each with its label. -/
def rowBits (w : Who) (va bytes : Nat) : List Nat → State → TRun (List (Nat × Label))
  | [], s => .ok (s, [])
  | o :: os, s =>
    match cmdRd s w ((va + o) % 2 ^ 72) (min 64 (bytes - o)) with
    | .error e => .error e
    | .ok (s1, v, l) => match rowBits w va bytes os s1 with
      | .error e => .error e
      | .ok (s2, r) => .ok (s2, (v, l) :: r)

def rowsBits (w : Who) (va ld bytes : Nat) : Nat → State → TRun (List (List (Nat × Label)))
  | 0, s => .ok (s, [])
  | n + 1, s =>
    match rowBits w va bytes ((List.range (divUp bytes 64)).map (· * 64)) s with
    | .error e => .error e
    | .ok (s1, r) => match rowsBits w (va + ld) ld bytes n s1 with
      | .error e => .error e
      | .ok (s2, rs) => .ok (s2, r :: rs)

/-- Element j of a row with its label. -/
def rowEl (r : List (Nat × Label)) (w j : Nat) : Nat × Label :=
  let (v, l) := r.getD (j * w / 512) (0, 0)
  (elem v w (j % (512 / max 1 w)), l)

/-- Scales (all ones without an array) with their labels. -/
def taskScales (k : Task) (base n : Nat) (e8 : Bool) (s : State) : TRun (Nat → Fv × Label) :=
  if base = 0 then .ok (s, fun _ => (.fin false 1 1, 0))
  else match rowsBits k.who base (if e8 then 1 else 4) (if e8 then 1 else 4) n s with
    | .error e => .error e
    | .ok (s1, l) => .ok (s1, fun j => let (v, lab) := (l.getD j []).headD (0, 0)
        (if e8 then decodeEl 6 v else decodeF fmtF32 v, lab))

/-- One element of C (R303) with its label (R304). -/
def taskEl (k : Task) (a b c : List (List (Nat × Label))) (sa sw : Nat → Fv × Label) (i n : Nat) : Nat × Label :=
  let r := k.r
  let fa := fmtOf (tkAf r)
  let fb := fmtOf (tkBf r)
  let (z0, l0) := if tkAcc r then let (x, l) := rowEl (c.getD i []) (fmtWidth (tkCf r)) n
      ((convert false (tkCf r) 0 x 0 0).1, l) else (0, 0)
  let (z, l) := (List.range (tkKb r)).foldl (fun (acc : Nat × Label) kb =>
    let as_ := (List.range 128).map (fun j => rowEl (a.getD i []) fa.w (128 * kb + j))
    let bs := (List.range 128).map (fun j => rowEl (b.getD (128 * kb + j) []) fb.w n)
    let p := dotFp32 (mUnit fa + mUnit fb) (as_.map (fun e => mEl fa e.1)) (bs.map (fun e => mEl fb e.1))
    let (x, lx) := sa (i * tkKb r + kb)
    let (y, ly) := sw (kb * tkNb r + n / 128)
    ((promote acc.1 p.1 x y).1, acc.2 ||| orAll (as_.map (·.2)) ||| orAll (bs.map (·.2)) ||| lx ||| ly)) (z0, l0)
  ((convert false 0 (tkCf r) z 0 0).1, l ||| k.lab)

/-- Everything a task reads, and its elements. -/
def taskCompute (k : Task) (s : State) : TRun (Nat → Nat → Nat × Label) :=
  let r := k.r
  match rowsBits k.who (tkA r) (tkAld r) (tkKb r * 16 * fmtWidth (tkAf r)) (tkM r) s with
  | .error e => .error e
  | .ok (s1, a) => match rowsBits k.who (tkB r) (tkBld r) (tkN r * fmtWidth (tkBf r) / 8) (128 * tkKb r) s1 with
    | .error e => .error e
    | .ok (s2, b) => match (if tkAcc r then rowsBits k.who (tkC r) (tkCld r) (tkN r * fmtWidth (tkCf r) / 8) (tkM r) s2 else .ok (s2, [])) with
      | .error e => .error e
      | .ok (s3, c) => match taskScales k (tkSa r) (tkM r * tkKb r) (tkSaf r) s3 with
        | .error e => .error e
        | .ok (s4, sa) => match taskScales k (tkSb r) (tkKb r * tkNb r) (tkSbf r) s4 with
          | .error e => .error e
          | .ok (s5, sw) => .ok (s5, taskEl k a b c sa sw)

/-- Write element e of C. -/
def taskWrite (k : Task) (el : Nat → Nat → Nat × Label) (e : Nat) (s : State) : Except CFail State :=
  let i := e / tkN k.r
  let n := e % tkN k.r
  let w := fmtWidth (tkCf k.r) / 8
  let (v, l) := el i n
  cmdWr s k.who ((tkC k.r + i * tkCld k.r + n * w) % 2 ^ 72) w v l

/-- A running task ends: its whole product, or its failure (R303, R305). -/
def execTaskEnd (j : Nat) (s : State) : Host.Outcome State Fault Refusal :=
  match (taskR s)[j]? with
  | none => .next s
  | some k =>
    let s0 := setR s ((taskR s).eraseIdx j)
    let n := tkM k.r * tkN k.r * fmtWidth (tkCf k.r) / 8
    match taskCompute k s0 with
    | .error f => .next (latchTasks (endTask (countFail (f.base.getD s0) ⟨k.vf, k.part, k.prv, true⟩ (some f)) k n (some (failCode f, f.addr))))
    | .ok (s1, el) =>
      let (s2, f) := workGo (taskWrite k el) (tkM k.r * tkN k.r) 0 s1
      .next (latchTasks (endTask (countFail s2 ⟨k.vf, k.part, k.prv, true⟩ f) k n (f.map (fun e => (failCode e, e.addr)))))

end Sys2Proof.Machine
end

