-- ==== Sys2Proof/Machine/Crypto.lean ====
section
/-! DEFINITION. The digests and signature schemes that R474, R478 and R529 name: SHA-256, SHA-384 and SHA-512 of FIPS 180-4,
RSASSA-PSS verification of RFC 8017 and SLH-DSA-SHA2-192s verification of FIPS 205. The spec names those standards and holds
no text of them (log 8, PRESUMED). Byte strings are lists, first byte first. -/
namespace Sys2Proof.Machine

/-- The byte string of a number, most significant byte first. -/
def beBytes (n v : Nat) : List Byte := (leBytes n v).reverse

/-! ## SHA-2 (FIPS 180-4) -/

/-- The largest r with r ^ k ≤ n, from its bit b - 1 down. -/
def rootFrom (k n : Nat) : Nat → Nat → Nat
  | 0, r => r
  | b + 1, r => rootFrom k n b (if (r + 2 ^ b) ^ k ≤ n then r + 2 ^ b else r)

/-- The first w fraction bits of the k-th root of p. -/
def rootFraction (k w p : Nat) : Nat := rootFrom k (p * 2 ^ (k * w)) (w + 5) 0 % 2 ^ w

/-- The primes below 410, which are the first 80. -/
def primes80 : List Nat := (List.range 410).filter (fun n => decide (2 ≤ n) && (List.range 21).all (fun d => decide (d < 2) || decide (n ≤ d) || n % d != 0))

/-- A member of the family: its word width, rounds, the distances of its two large and two small sigmas, its first digest. -/
structure Sha where
  w : Nat
  rounds : Nat
  big0 : Nat × Nat × Nat
  big1 : Nat × Nat × Nat
  small0 : Nat × Nat × Nat
  small1 : Nat × Nat × Nat
  iv : List Nat

def sha256Kind : Sha := ⟨32, 64, (2, 13, 22), (6, 11, 25), (7, 18, 3), (17, 19, 10), (primes80.take 8).map (rootFraction 2 32)⟩
def sha512Kind : Sha := ⟨64, 80, (28, 34, 39), (14, 18, 41), (1, 8, 7), (19, 61, 6), (primes80.take 8).map (rootFraction 2 64)⟩
def sha384Kind : Sha := { sha512Kind with iv := ((primes80.drop 8).take 8).map (rootFraction 2 64) }

def rotR (w n x : Nat) : Nat := (x >>> n) ||| ((x <<< (w - n)) % 2 ^ w)
def Sha.big (k : Sha) (r : Nat × Nat × Nat) (x : Nat) : Nat := rotR k.w r.1 x ^^^ rotR k.w r.2.1 x ^^^ rotR k.w r.2.2 x
def Sha.small (k : Sha) (r : Nat × Nat × Nat) (x : Nat) : Nat := rotR k.w r.1 x ^^^ rotR k.w r.2.1 x ^^^ (x >>> r.2.2)

/-- The round constants. -/
def Sha.consts (k : Sha) : List Nat := (primes80.take k.rounds).map (rootFraction 3 k.w)

/-- The rounds that remain, one per constant, on the eight working words and the next sixteen words of the schedule. -/
def Sha.go (k : Sha) : List Nat → List Nat → List Nat → List Nat
  | [], _, v => v
  | c :: cs, m, [a, b, cc, d, e, f, g, h] =>
    let w0 := m.headD 0
    let t1 := h + k.big k.big1 e + ((e &&& f) ^^^ ((2 ^ k.w - 1 - e) &&& g)) + c + w0
    let t2 := k.big k.big0 a + ((a &&& b) ^^^ (a &&& cc) ^^^ (b &&& cc))
    let next := (k.small k.small1 (m.getD 14 0) + m.getD 9 0 + k.small k.small0 (m.getD 1 0) + w0) % 2 ^ k.w
    k.go cs (m.tail ++ [next]) [(t1 + t2) % 2 ^ k.w, a, b, cc, (d + t1) % 2 ^ k.w, e, f, g]
  | _ :: _, _, v => v

/-- The digest words after n blocks of a padded message. -/
def Sha.blocks (k : Sha) (cs : List Nat) : Nat → List Byte → List Nat → List Nat
  | 0, _, v => v
  | n + 1, b, v =>
    let m := (List.range 16).map (fun i => ofBe ((b.drop (k.w / 8 * i)).take (k.w / 8)))
    k.blocks cs n (b.drop (2 * k.w)) (List.zipWith (fun x y => (x + y) % 2 ^ k.w) v (k.go cs m v))

/-- The digest of a byte string: a one bit and zeros to the length field, the length in bits, and the blocks. -/
def Sha.digest (k : Sha) (m : List Byte) : List Byte :=
  let n := m.length
  let zeros := (4 * k.w - (n + 1 + k.w / 4) % (2 * k.w)) % (2 * k.w)
  let p := m ++ [0x80] ++ List.replicate zeros 0 ++ beBytes (k.w / 4) (8 * n)
  (k.blocks k.consts (p.length / (2 * k.w)) p k.iv).flatMap (beBytes (k.w / 8))

def sha256Of (m : List Byte) : List Byte := sha256Kind.digest m
def sha512Of (m : List Byte) : List Byte := sha512Kind.digest m
def sha384Of (m : List Byte) : List Byte := (sha384Kind.digest m).take 48

/-- The SHA-384 of a byte string as a field of memory holds it: its first byte at the lowest address (R459, R478). -/
def sha384 (m : List Byte) : BitVec 384 := BitVec.ofNat 384 (ofBe (sha384Of m).reverse)

/-! ## RSASSA-PSS (RFC 8017) -/

/-- MGF1 with a hash of h bytes: n bytes from a seed. -/
def mgf1 (hash : List Byte → List Byte) (h : Nat) (seed : List Byte) (n : Nat) : List Byte :=
  ((List.range ((n + h - 1) / h)).flatMap (fun c => hash (seed ++ beBytes 4 c))).take n

/-- b ^ e mod n, over the exponent's bits from bit k - 1 down. -/
def powMod (n b e : Nat) : Nat → Nat → Nat
  | 0, r => r
  | k + 1, r => powMod n b e k (if e.testBit k then r * r % n * b % n else r * r % n)

/-- EMSA-PSS verification with SHA-384 and a 48-byte salt: message, encoded message, its length in bits. -/
def emsaPss (msg em : List Byte) (bits : Nat) : Bool :=
  let len := (bits + 7) / 8
  let db := em.take (len - 49)
  let h := (em.drop (len - 49)).take 48
  let gap := 8 * len - bits
  let plain := List.zipWith (fun a b => a ^^^ b) db (mgf1 sha384Of 48 h (len - 49))
  let plain1 := match plain with
    | x :: r => BitVec.ofNat 8 (x.toNat % 2 ^ (8 - gap)) :: r
    | [] => []
  decide (98 ≤ len) && em.getLast? == some 0xBC && decide (((em.headD 0).toNat) < 2 ^ (8 - gap))
    && (plain1.take (len - 98)).all (· == 0) && plain1[len - 98]? == some 1
    && sha384Of (List.replicate 8 0 ++ sha384Of msg ++ plain1.drop (len - 97)) == h

/-- Does an RSASSA-PSS signature verify: message, modulus, exponent, signature (R474)? -/
def rsaVerifies (msg modulus : List Byte) (e : Nat) (sig : List Byte) : Bool :=
  let n := ofBe modulus
  let s := ofBe sig
  let bits := n.log2
  let m := powMod n s e (e.log2 + 1) (1 % n)
  decide (s < n) && sig.length == modulus.length && decide (m < 256 ^ ((bits + 7) / 8)) && emsaPss msg (beBytes ((bits + 7) / 8) m) bits

/-! ## SLH-DSA-SHA2-192s (FIPS 205) -/

/-- An address: layer, tree, type, key pair, and the two last words. -/
structure SlhAdrs where
  layer : Nat := 0
  tree : Nat := 0
  kind : Nat := 0
  pair : Nat := 0
  mid : Nat := 0
  low : Nat := 0

/-- The compressed form of an address. -/
def SlhAdrs.bytes (a : SlhAdrs) : List Byte := beBytes 1 a.layer ++ beBytes 8 a.tree ++ beBytes 1 a.kind ++ beBytes 4 a.pair ++ beBytes 4 a.mid ++ beBytes 4 a.low

def slhF (seed : List Byte) (a : SlhAdrs) (m : List Byte) : List Byte := (sha256Of (seed ++ List.replicate 40 0 ++ a.bytes ++ m)).take 24
/-- H and T of the parameter set. -/
def slhH (seed : List Byte) (a : SlhAdrs) (m : List Byte) : List Byte := (sha512Of (seed ++ List.replicate 104 0 ++ a.bytes ++ m)).take 24

/-- The n-th 24-byte value of a signature part. -/
def slhPart (l : List Byte) (n : Nat) : List Byte := (l.drop (24 * n)).take 24

/-- n digits of b bits of a byte string, most significant first. -/
def baseDigits (l : List Byte) (b n : Nat) : List Nat := (List.range n).map (fun i => (ofBe l >>> (8 * l.length - b * (i + 1))) % 2 ^ b)

/-- k steps of a chain from step j on. -/
def slhChain (seed : List Byte) (a : SlhAdrs) : Nat → Nat → List Byte → List Byte
  | 0, _, x => x
  | k + 1, j, x => slhChain seed a k (j + 1) (slhF seed { a with low := j } x)

/-- From a leaf's node to the root: k levels of the path from level j on, the leaf's index i. -/
def slhClimb (seed : List Byte) (a : SlhAdrs) (auth : List Byte) : Nat → Nat → Nat → List Byte → List Byte
  | 0, _, _, x => x
  | k + 1, j, i, x =>
    let y := slhPart auth j
    slhClimb seed a auth k (j + 1) (i / 2) (slhH seed { a with mid := j + 1, low := i / 2 } (if i % 2 = 0 then x ++ y else y ++ x))

/-- The one-time public key a WOTS+ signature of a 24-byte message leads to. -/
def slhWots (seed : List Byte) (a : SlhAdrs) (sig msg : List Byte) : List Byte :=
  let d := baseDigits msg 4 48
  let sum := d.foldl (fun s x => s + (15 - x)) 0
  let all := d ++ baseDigits (beBytes 2 (sum * 16)) 4 3
  slhH seed { a with kind := 1, mid := 0, low := 0 }
    (all.zipIdx.flatMap (fun p => slhChain seed { a with kind := 0, mid := p.2 } (15 - p.1) p.1 (slhPart sig p.2)))

/-- The layers of the hypertree that remain, from layer j on: tree and leaf index, the node to sign, its signatures. -/
def slhTrees (seed : List Byte) : Nat → Nat → Nat → Nat → List Byte → List Byte → List Byte
  | 0, _, _, _, _, x => x
  | k + 1, j, tree, leaf, sig, x =>
    let a : SlhAdrs := { layer := j, tree := tree, pair := leaf }
    let node := slhWots seed a sig x
    let root := slhClimb seed { a with kind := 2, pair := 0 } (sig.drop (24 * 51)) 9 0 leaf node
    slhTrees seed k (j + 1) (tree / 512) (tree % 512) (sig.drop (24 * 60)) root

/-- The FORS public key that a signature of a digest leads to. -/
def slhFors (seed : List Byte) (a : SlhAdrs) (sig md : List Byte) : List Byte :=
  slhH seed { a with kind := 4 } ((baseDigits md 14 17).zipIdx.flatMap (fun p =>
    let i := p.2 * 2 ^ 14 + p.1
    let s := sig.drop (24 * 15 * p.2)
    slhClimb seed { a with kind := 3 } (s.drop 24) 14 0 i (slhF seed { a with kind := 3, low := i } (s.take 24))))

/-- Does an SLH-DSA-SHA2-192s signature verify in pure mode with an empty context: message, public key, signature (R474)? -/
def slhVerifies (msg key sig : List Byte) : Bool :=
  let seed := key.take 24
  let root := key.drop 24
  let r := sig.take 24
  let dig := mgf1 sha512Of 64 (r ++ seed ++ sha512Of (r ++ seed ++ root ++ [0, 0] ++ msg)) 39
  let tree := ofBe ((dig.drop 30).take 7) % 2 ^ 54
  let leaf := ofBe (dig.drop 37) % 2 ^ 9
  let fors := slhFors seed { tree := tree, kind := 3, pair := leaf } ((sig.drop 24).take 6120) (dig.take 30)
  key.length == 48 && sig.length == 16224 && slhTrees seed 7 0 tree leaf (sig.drop 6144) fors == root

end Sys2Proof.Machine
end

