-- ==== Sys2Proof/Machine/Release.lean ====
section
/-! DEFINITION. The words of the release gate (R459, R473 to R480): label tables, parties, policies, and the release of
data under one. -/
namespace Sys2Proof.Machine

def gtRefuse (t : State) (code : Nat) : Stop := illegal t 14 code
def gtAnswer (t : State) (i : Info) (sb : BitVec 5) (x : Nat) : State := push t 1 (.s sb (BitVec.ofNat 64 x)) (readLabel t.core i.rd)

/-- A refused word retires with its answer: arrivals tied to it are made at tick 1 (R120). -/
def plainWord (t : State) : State :=
  t.core.grp.eArr.foldl (fun u a => push u 1 (.arrive a) u.core.cl) { t with core := { t.core with grp := { t.core.grp with eArr := [] } } }

/-! ## Descriptors and parties (R459, R470, R478) -/

/-- A destination descriptor from its 16 bytes. -/
def destOf (x : Nat) : Dest := ⟨rf x 0 1, bit x 8, rf x 4 7, rf x 0xC 4⟩
/-- A reserved value in a descriptor (R470). -/
def destBad (x : Nat) : Bool :=
  let k := rf x 0 1
  let b := rf x 4 7
  decide (4 < k) || rf x 1 1 / 2 != 0 || rf x 2 2 != 0 || rf x 0xB 1 != 0 || (bit x 8 && k != 2) || (k != 1 && k != 3 && rf x 0xC 4 != 0)
    || (k == 2 && b != b % 4096 + bits b 19 16 * 65536) || (k == 4 && decide (1 < b))
def destsOf (x n : Nat) : List Dest := (List.range n).map (fun j => destOf (rf x (16 * j) 16))

/-- gt.lset (R477). -/
def execGtLset (q : BitVec 4) (sb : BitVec 5) (s : State) :=
  let i := infoGtLset q sb
  tile i true s fun t =>
    let x := (t.core.rdS sb).v.toNat
    let k := x % 1024
    let part := t.core.cont.part
    let p := partAt t part
    let new := labelEntry t part k ||| BitVec.ofNat 32 (x >>> 32)
    if bits x 31 10 ≠ 0 then .error (gtRefuse t 0)
    else if k = 0 ∧ x >>> 32 ≠ 0 then .ok (gtAnswer t i sb 3)
    else
      .ok (gtAnswer (if k = 0 then t else setPart t part { p with labels := insertKey k new p.labels }) i sb (new.toNat <<< 32))

/-- A valid slot whose PM names a changed party becomes empty (R475). -/
def dropPolicies (p : Part) (k : Nat) : Part :=
  { p with policies := p.policies.filter (fun e => !(e.2.st == 2 && e.2.pm.getLsbD k)) }

/-- The digest of a key block (R478). -/
def keyDigest (x : Nat) : BitVec 384 :=
  sha384 (leBytes 16 (rf x 0 16) ++ leBytes 112 0 ++ leBytes 448 (rf x 0x80 448))

/-- The party a key block defines. -/
def partyOf (x : Nat) : Party :=
  { tenant := BitVec.ofNat 32 (rf x 4 4), kd := keyDigest x, dst := destsOf (rf x 0x40 64) 4, modulus := leBytes 384 (rf x 0x80 384),
    exponent := BitVec.ofNat 32 (ofBe (leBytes 4 (rf x 0x200 4))), slhKey := leBytes 48 (rf x 0x208 48) }

/-- gt.party (R478). -/
def execGtParty (q aa : BitVec 4) (sb : BitVec 5) (s : State) :=
  let i := infoGtParty q aa sb
  tile i true s fun t =>
    let x := (t.core.rdS sb).v.toNat
    let va := (t.core.rdA aa).v.toNat
    if bits x 7 5 ≠ 0 ∨ x >>> 12 ≠ 0 then .error (gtRefuse t 0)
    else if va % 64 ≠ 0 then .error (accStop t .mis va 64 false false)
    else match readBytes t t.core.who va 576 with
      | .error (e, a) => .error (accStop t e a 64 false false)
      | .ok (t1, blk, _) =>
        let part := bits x 11 8
        let p := partAt t1 part
        let new := partyOf blk
        let reserved := rf blk 0 1 / 2 != 0 || rf blk 1 3 != 0 || rf blk 8 8 != 0 || rf blk 0x204 4 != 0 || rf blk 0x238 8 != 0
          || (List.range 4).any (fun j => destBad (rf blk (0x40 + 16 * j) 16))
        if reserved ∨ ¬bit blk 0 then .ok (gtAnswer t1 i sb 3)
        else match partyAt t1 part (x % 32) with
          | none => .ok (gtAnswer (setPart t1 part { p with parties := insertKey (x % 32) new p.parties }) i sb 0)
          | some old =>
            if old.tenant = new.tenant ∧ old.kd = new.kd then
              .ok (gtAnswer (setPart t1 part (dropPolicies { p with parties := insertKey (x % 32) { old with dst := new.dst } p.parties } (x % 32))) i sb 0)
            else .ok (gtAnswer t1 i sb 3)

/-! ## Policies (R473 to R475) -/

def policyAt (s : State) (part k : Nat) : Option Policy := lookup (partAt s part).policies k
def setPolicy (s : State) (part k : Nat) (p : Policy) : State := setPart s part { partAt s part with policies := insertKey k p (partAt s part).policies }
def Policy.blank (st : BitVec 2) (inst : Nat := 0) : Policy := ⟨st, 0, 0, 0, 0, 0, [], 0, inst⟩

/-- Is a slot in force (R475)? -/
def inForce (s : State) (p : Policy) : Bool := p.st == 2 && (p.exp == 0 || decide (nowNs s < p.exp))

/-- A policy image's first 128 bytes are malformed (R474, outcome 1). -/
def policyBad (x part : Nat) : Bool :=
  let n := rf x 6 1
  let f := rf x 5 1
  rf x 0 4 != 0x4C4F5042 || rf x 4 1 != 1 || decide (2 < f) || decide (4 < n) || rf x 7 1 != 0 || rf x 8 4 == 0
    || !subset (BitVec.ofNat 32 (rf x 0xC 4)) (BitVec.ofNat 32 (rf x 8 4)) || (f == 0 && rf x 0x10 8 != 0)
    || (f == 2 && rf x 0x14 4 != 0) || rf x 0x18 1 != part || rf x 0x19 7 != 0 || rf x 0x28 20 != 0
    || (List.range 4).any (fun j => let d := rf x (0x40 + 16 * j) 16
      if j < n then destBad d else d != 0)

/-- Check signature after signature, parties ascending: RES (R474). -/
def policyRes (s : State) (part img : Nat) (msg : List Byte) : List (Nat × Nat) → Nat
  | [] => 0
  | (i, j) :: rest =>
    let o := 0x80 + 16640 * j
    match partyAt s part i with
    | none => 2 + (i <<< 8)
    | some p =>
      if ¬rsaVerifies msg p.modulus p.exponent.toNat (leBytes 384 (rf img o 384)) then 3 + (i <<< 8)
      else if ¬slhVerifies msg p.slhKey (leBytes 16224 (rf img (o + 384) 16224)) then 4 + (i <<< 8)
      else policyRes s part img msg rest

/-- The policy an image holds. -/
def policyOf (x : Nat) : Policy :=
  { st := 2, form := rf x 5 1, pm := BitVec.ofNat 32 (rf x 8 4), out := BitVec.ofNat 32 (rf x 0xC 4), thr := rf x 0x10 8, ndst := rf x 6 1,
    dst := destsOf (rf x 0x40 64) (rf x 6 1), exp := rf x 0x20 8, inst := 0 }

/-- The install that a command of a core is, while it is in flight. -/
def instNo (core ctx : Nat) (tag : BitVec 6) : Nat := core * 256 + ctx * 64 + tag.toNat

/-- The slot an install ends in, unless it was revoked meanwhile; a slot that another install verifies by then is left to that
one. -/
def endInstall (s : State) (c : Cmd) (p : Policy) : State :=
  let k := bits c.ctl.toNat 11 6
  match policyAt s c.part k with
  | some q => if q.st = 1 ∧ q.inst = instNo s.coreNo c.ctx c.tag then setPolicy s c.part k p else s
  | none => s

/-- An install runs (R474, R479): read, verify, write RES, set the slot, complete. -/
def runInstall (s : State) (c : Cmd) : Ending :=
  let va := c.aa.toNat
  let fail (u : State) (f : CFail) : Ending := ⟨endInstall u c (Policy.blank 3), c, none, some f⟩
  match cmdRd s c.who va 128 with
  | .error f => fail s f
  | .ok (s1, hd, _) =>
    let n := popc 32 (rf hd 8 4)
    match cmdRd s1 c.who va (128 + 16640 * n) with
    | .error f => fail s1 f
    | .ok (s2, img, _) =>
      let pad := (List.range n).any (fun j => rf img (0x80 + 16640 * j + 16608) 32 != 0)
      let res := if policyBad hd c.part || pad then 1
        else policyRes s2 c.part img (leBytes 60 (rf img 0 60) ++ leBytes 64 (rf img 0x40 64)) (partiesOf (BitVec.ofNat 32 (rf hd 8 4))).zipIdx
      match cmdWr s2 c.who ((va + 0x3C) % 2 ^ 72) 4 res c.lab with
      | .error f => fail s2 f
      | .ok s3 => ⟨endInstall s3 c (if res = 0 then policyOf hd else Policy.blank 3), c, none, none⟩

/-! ## gt.release (R479, R480) -/

/-- Does every byte of a destination line match a listed descriptor (R480)? -/
def lineListed (s : State) (p : Policy) (x : Xlat) : Bool :=
  (List.range 128).all (fun b =>
    let pa := x.pa + b
    let d : EDest := if region pa = 4 then .host (pa % 2 ^ 47)
      else if region pa = 2 then match s.nwins.toList[pa / 0x100000000000 % 16]? with
        | some w => .peer (w.x.toNat * 256 + w.y.toNat * 16 + w.z.toNat) w.rpart.toNat
        | none => .ext pa
      else .ext pa
    p.dst.any (fun e => destMatches e d))

/-- The provenance of the line of a stash window that holds va (R465, R480). -/
def provWin (t : State) (va : Nat) : Option (BitVec 2) :=
  match findWindow t.core.maps.toList va 1 0 with
  | some (off, _) => (stashAt t off).map (·.prov)
  | none => none

/-- The checks of an apply's source (R480): the gate's reason of a refusal. -/
def applyReason (t : State) (p : Policy) (va n data : Nat) (l : Label) (rec rva : Nat) : Option Nat :=
  let provs (ok : BitVec 2 → Bool) (a m : Nat) : Bool := (lineVas a m).all (fun v => (provWin t v).any ok)
  if ¬subset l p.pm then some 3
  else if p.form = 1 ∧ ¬(skSize (rf data 0 1) = n ∧ va % n = 0 ∧ provs (· == 1) va n ∧ skOk data ∧ skSealed data ∧ skCrc data n = rf data 0xFC 4
      ∧ ¬skBad data ∧ p.thr ≤ rf data 8 8) then some 4
  else if p.form = 2 ∧ ¬(provs (fun v => v == 1 || v == 2) va n ∧ provs (· == 2) rva 1 ∧ rf rec 0 1 = 0 ∧ p.thr % 2 ^ 32 ≤ rf rec 8 4) then some 4
  else none

/-- The destination lines of an apply, for their places: the first walk that fails, or the number of the first line that no descriptor
lists. -/
def applyDest (t : State) (w : Who) (p : Policy) (da : Nat) : Nat → Nat → Except CFail (Option Nat)
  | 0, _ => .ok none
  | k + 1, j =>
    let va := (da + 128 * j) % 2 ^ 72
    match translate t va w.vf w.part w.prv 128 .write with
    | .error e => .error (cmdFail t (cfailOf (.xlat e) va) da va .write 0)
    | .ok (x, _) => if p.ndst ≠ 0 ∧ ¬lineListed t p x then .ok (some j) else applyDest t w p da k (j + 1)

/-- The first destination line whose page check fails (R463, R480). -/
def applyPage (t : State) (w : Who) (p : Policy) (da : Nat) : Nat → Nat → Option CFail
  | 0, _ => none
  | k + 1, j =>
    let va := (da + 128 * j) % 2 ^ 72
    match translate t va w.vf w.part w.prv 128 .write with
    | .error e => some (cmdFail t (cfailOf (.xlat e) va) da va .write 0)
    | .ok (x, _) => if ¬x.phys ∧ ¬x.ab ∧ ¬subset p.out (pageLabel t w.part x) then some (cmdFail t (cfailOf (.label 0) va) da va .write 0)
      else applyPage t w p da k (j + 1)

/-- Write one line under a policy: the page check holds, the gate has judged it (R480); a remote package may still refuse it (R167). -/
def applyLine (c : Cmd) (out : Label) (j : Nat) (s : State) : Except CFail State :=
  let va := (c.da.toNat + 128 * j) % 2 ^ 72
  let v := packL 64 (((c.geo.drop (2 + 16 * j)).take 16).map (·.toNat))
  match translateMark s va c.vf c.part c.prv 128 .write with
  | .error e => .error (cfailOf (.xlat e) va)
  | .ok (s1, x) =>
    if isMem x.pa then (writeAt s1 c.who va 128 v out 0 { x with pte := x.pte - bits x.pte 10 10 * 1024 }).mapError (fun e => cfailOf e va)
    else if region x.pa = 2 ∧ Config.remoteRefuses s1.time (destAddr s1 x) then .error (cfailOf (.xlat (permFault x.lvl 12)) va)
    else match leavesTo s1 c.vf c.part x 128 v out with
      | some t => .ok t
      | none => .error (cfailOf .link va)

/-- An apply completes: its verdict and bytes were taken at issue; one whose write fails all the same has written nothing
but what its walks set (R153). geo holds the failure (reason, gate reason and level
packed, 0 for none) with the line of a machine check, or OUT and the bytes. -/
def runApply (s : State) (c : Cmd) : Ending :=
  let v := (c.geo.getD 0 0).toNat
  if v ≠ 0 then
    let pa := (c.geo.getD 1 0).toNat
    ⟨s, c, none, some { CFail.of (v % 16) (bits v 8 4) (bits v 11 9) c.xa.toNat with poison := if pa = 0 then none else some (pa - 1) }⟩
  else
    let (s1, f) := workGo (applyLine c ((c.geo.getD 1 0).setWidth 32)) ((c.geo.length - 2) / 16) 0 s
    ⟨if f.isSome then s else s1, c, none, f.map (fun e => cmdFail s e c.da.toNat e.addr .write 0)⟩

/-- gt.release apply at issue: read the source, judge it, take its tag. -/
def applyWord (i0 i : Info) (p : Policy) (x : Nat) (aa : BitVec 4) (sb : BitVec 5) (t : State) : Act :=
  let va := (t.core.rdA aa).v.toNat
  let da := ctlA t.core (bits x 17 14)
  let ra := (ctlA t.core (bits x 21 18)).toNat
  let n := 128 * bits x 47 24
  if va % 128 ≠ 0 ∨ da.toNat % 128 ≠ 0 ∨ (p.form = 2 ∧ ra % 16 ≠ 0) then .error (copyStop t 2 (x % 64))
  else
    let c0 := { mkCmd t i .apply (x % 64) (t.core.rdA aa).v (t.core.rdS sb).v 0 0 with da := da }
    let issue (u : State) (geo : List Word) (addr : Nat) : Act :=
      match issueCmd u { c0 with geo := geo, xa := BitVec.ofNat 72 addr } with
      | .error y => .error y
      | .ok v => .ok (gtAnswer v i0 sb 0)
    let failed (u : State) (f : CFail) : Act :=
      issue (countFail u c0.who (some f)) [BitVec.ofNat 64 (f.reason + (f.sub <<< 4) + (f.lvl <<< 9)), BitVec.ofNat 64 (match f.poison with
        | some pa => pa + 1
        | none => 0)] f.addr
    match cmdRd t c0.who va n with
    | .error f => failed t f
    | .ok (t1, data, ml) =>
      match (if p.form = 2 then cmdRd t1 c0.who ra 16 else .ok (t1, 0, 0)) with
      | .error f => failed t1 f
      | .ok (t2, rec, rl) =>
        let l := ml ||| rl ||| c0.lab
        let refuse (u : State) (r : Nat) : Act := failed (countRefusal u t2.core.cont.part l) (CFail.of 9 r 0 da.toNat)
        match applyReason t2 p va n data l rec ra with
        | some r => refuse t2 r
        | none => match applyDest t2 c0.who p da.toNat (bits x 47 24) 0 with
          | .error f => failed t2 f
          | .ok (some j) => refuse (markSpan t2 c0.who da.toNat (128 * (j + 1)) .write) 5
          | .ok none => match applyPage t2 c0.who p da.toNat (bits x 47 24) 0 with
            | some f => failed t2 f
            | none => issue t2 (0 :: BitVec.ofNat 64 p.out.toNat :: (List.range (n / 8)).map (fun j => BitVec.ofNat 64 (rf data (8 * j) 8))) 0

/-- gt.release (R479). The three rows of the table have one word; OP stands in sb. -/
def releaseWord (i0 : Info) (aa : BitVec 4) (sb : BitVec 5) (s : State) : Host.Outcome State Fault Refusal :=
  let x := (s.core.rdS sb).v.toNat
  let op := bits x 13 12
  let k := bits x 11 6
  let i := if op = 2 then i0.naming [namedA (bits x 17 14), namedA (bits x 21 18)] else i0
  tile i true s fun t =>
    let part := t.core.cont.part
    let slot := policyAt t part k
    let stale (v : Nat) : Act := .ok (plainWord (gtAnswer t i0 sb v))
    if op = 3 then .error (gtRefuse t 1)
    else if (op < 2 ∧ x >>> 14 ≠ 0) ∨ (op = 2 ∧ (bits x 23 22 ≠ 0 ∨ x >>> 48 ≠ 0)) ∨ (op = 1 ∧ aa ≠ 0) then .error (gtRefuse t 0)
    else if op = 0 then
      match slot with
      | some p => if p.st = 1 ∨ p.st = 2 then stale 3 else install t i part k x
      | none => install t i part k x
    else if op = 1 then
      match slot with
      | none => stale 4
      | some _ => .ok (plainWord (gtAnswer (setPart t part { partAt t part with policies := eraseKey k (partAt t part).policies }) i0 sb 0))
    else if bits x 47 24 = 0 ∨ 16384 < bits x 47 24 then .error (gtRefuse t 2)
    else match slot with
      | some p => if inForce t p then applyWord i0 i p x aa sb t else stale 4
      | none => stale 4
where
  install (t : State) (i : Info) (part k x : Nat) : Act :=
    if (t.core.rdA aa).v.toNat % 64 ≠ 0 then .error (copyStop t 2 (x % 64))
    else match issueCmd t (mkCmd t i .install (x % 64) (t.core.rdA aa).v (t.core.rdS sb).v 0 0) with
      | .error y => .error y
      | .ok t1 => .ok (gtAnswer (setPolicy t1 part k (Policy.blank 1 (instNo t1.coreNo t1.core.cur (BitVec.ofNat 6 (x % 64))))) i sb 0)

def execGtReleaseInstall (q aa : BitVec 4) (sb : BitVec 5) (s : State) := releaseWord (infoGtReleaseInstall q aa sb) aa sb s
def execGtReleaseRevoke (q aa : BitVec 4) (sb : BitVec 5) (s : State) := releaseWord (infoGtReleaseRevoke q aa sb) aa sb s
def execGtReleaseApply (q aa : BitVec 4) (sb : BitVec 5) (s : State) := releaseWord (infoGtReleaseApply q aa sb) aa sb s

end Sys2Proof.Machine
end

