-- ==== Sys2Proof/Machine/Partition.lean ====
section
/-! DEFINITION. Partitions and virtual functions (R483 to R505): the words of the partition controller, the layout and
its effects, moving frames, scrubbing, function-level reset. The controller handles each word as one whole (R485,
R506). -/
namespace Sys2Proof.Machine

def ptRefuse (t : State) (code : Nat) : Stop := illegal t 15 code
/-- The answer in sb, with the labels of the operands and the context (R485). -/
def ptAnswer (t : State) (i : Info) (sb : BitVec 5) (x : Nat) : State := push t 1 (.s sb (BitVec.ofNat 64 x)) (readLabel t.core i.rd)

/-- The bytes an aligned image holds at aa (R485). -/
def ptRead (t : State) (va n : Nat) : Except Stop (State × Nat) :=
  match readBytes t t.core.who va n with
  | .error (e, a) => .error (accStop t e a 64 false false)
  | .ok (t1, x, _) => .ok (t1, x)

/-! ## States of a partition (R484, R487) -/

/-- Quiesce partition p: the slices of its running records end. -/
def quiesce (s : State) (p : Nat) : State :=
  quiesceCheck ((runsIn s p).foldl (fun t n => updCore t n endSlice) (setPart s p { partAt s p with st := 2 })) p

/-- The words of minor 0x10; the three rows of the table have one word, whose op stands in sb. -/
def quiesceWord (i : Info) (sb : BitVec 5) (s : State) : Host.Outcome State Fault Refusal :=
  tile i true s fun t =>
    let x := (t.core.rdS sb).v.toNat
    let p := x % 16
    let op := bits x 5 4
    let st := (partAt t p).st
    let answer (u : State) (v : Nat) : Act := .ok (ptAnswer u i sb (v + ((partAt u p).st.toNat <<< 8)))
    if x >>> 6 ≠ 0 ∨ op = 3 then .error (ptRefuse t 0)
    else if op = 2 then answer t 0
    else if st = 0 then answer t 4
    else if op = 0 then
      if p = t.core.cont.part then answer t 3
      else if st = 1 then answer (quiesce t p) 0
      else answer t 0
    else answer (setPart t p { partAt t p with st := 1 }) 0

def execPtQuiesce (q : BitVec 4) (sb : BitVec 5) (s : State) := quiesceWord (infoPtQuiesce q sb) sb s
def execPtResume (q : BitVec 4) (sb : BitVec 5) (s : State) := quiesceWord (infoPtResume q sb) sb s
def execPtStateRead (q : BitVec 4) (sb : BitVec 5) (s : State) := quiesceWord (infoPtStateRead q sb) sb s

/-! ## The layout image (R488 to R490) -/

/-- What a layout says of one partition. -/
structure LPart where
  keep : Bool
  quads : Nat
  set : ISet
  dbase : Nat
  dsize : Nat
  fwd : Nat
  deriving DecidableEq, Repr

/-- A set but for its seed (R492 step 4). -/
def ISet.place (t : ISet) : ISet := { t with seed := 0 }

def lpartOf (s : State) (p x : Nat) : LPart :=
  { keep := bit x 1, quads := rf x 8 8,
    set := ⟨rf x 0x10 8, rf x 0x18 8, rf x 0x20 1 % 16, (List.range 4).map (fun d => rf x (0x24 + 4 * d) 4),
      if (partAt s p).st = 0 then 0 else (s.isets.toList.getD p ⟨0, 0, 0, [], 0⟩).seed⟩,
    dbase := rf x 0x38 8, dsize := rf x 0x40 8, fwd := rf x 0x48 8 }

def lpartReserved (x : Nat) : Bool :=
  decide (4 ≤ rf x 0 1) || rf x 1 7 != 0 || decide (16 ≤ rf x 0x20 1) || rf x 0x21 3 != 0 || rf x 0x34 4 != 0 || rf x 0x50 48 != 0

/-- A neighbour window's entry (R489). -/
def nwinOf (x : Nat) : NWin :=
  ⟨bit x 0, BitVec.ofNat 4 (rf x 1 1), BitVec.ofNat 4 (rf x 5 1), BitVec.ofNat 4 (rf x 2 1), BitVec.ofNat 4 (rf x 3 1), BitVec.ofNat 4 (rf x 4 1), rf x 8 7⟩
def nwinReserved (x : Nat) : Bool :=
  decide (2 ≤ rf x 0 1) || (List.range 5).any (fun j => decide (16 ≤ rf x (1 + j) 1)) || rf x 6 2 != 0 || rf x 0xF 1 != 0

/-- The image's parts: the partitions it changes, defined or not, the windows it changes, and whether some descriptor holds a
forwarding table that code 3 refuses, whatever its V (R486). -/
structure LImage where
  parts : List (Nat × Option LPart)
  wins : List (Nat × NWin)
  bad : Bool
  badFwd : Bool
  deriving DecidableEq, Repr

def limageOf (s : State) (x : Nat) : LImage :=
  let ps := (List.range 16).filter (fun p => bit (rf x 4 2) p)
  let ws := (List.range 16).filter (fun w => bit (rf x 6 2) w)
  let d (p : Nat) : Nat := rf x (0x40 + 128 * p) 128
  let n (w : Nat) : Nat := rf x (0x840 + 16 * w) 16
  { parts := ps.map (fun p => (p, if bit (d p) 0 then some (lpartOf s p (d p)) else none)), wins := ws.map (fun w => (w, nwinOf (n w))),
    bad := rf x 0 4 != 0x54414C50 || rf x 8 56 != 0 || ps.any (fun p => lpartReserved (d p)) || ws.any (fun w => nwinReserved (n w)),
    badFwd := ps.any (fun p => let f := (lpartOf s p (d p)).fwd
      (bit (d p) 1 && f == 0) || f % 65536 != 0) }

/-- What a partition is now, in the same terms; none when it is unused. -/
def lpartNow (s : State) (p : Nat) : Option LPart :=
  let x := partAt s p
  if x.st = 0 then none
  else some ⟨false, x.quads.toNat, s.isets.toList.getD p ⟨0, 0, 0, [], 0⟩, ddrLo + x.ddrBase, x.ddrSize, x.fwd⟩

def LImage.part? (g : LImage) (p : Nat) : Option (Option LPart) := lookup g.parts p
/-- A partition in the layout that would result. -/
def LImage.result (g : LImage) (s : State) (p : Nat) : Option LPart := (g.part? p).getD (lpartNow s p)

/-- Does the set of a partition that stays defined change under KEEP, and so retire (R492 step 4)? One of size 0 does too. -/
def LImage.retires (g : LImage) (s : State) (p : Nat) : Bool :=
  match lpartNow s p, g.part? p with
  | some o, some (some n) => n.keep && o.set.place != n.set.place
  | _, _ => false

/-- The retiring set of a partition in the result. -/
def LImage.retiring (g : LImage) (s : State) (p : Nat) : Option ISet :=
  if g.retires s p then s.isets.toList[p]? else if (g.result s p).isSome then (partAt s p).ret else none

/-- Ranges given by base and length: pairwise disjoint. -/
def disjoint : List (Nat × Nat) → Bool
  | [] => true
  | x :: xs => xs.all (fun y => !meets x.1 x.2 y.1 y.2) && disjoint xs

/-- Lines a set takes on each of its dies (R490). -/
def setLines (t : ISet) : Nat := divUp (t.size / 128) (max 1 (popc 4 t.dies))

/-- The conditions of R490 on the layout that would result. -/
def layoutOk (s : State) (g : LImage) : Bool :=
  let ps := (List.range 16).filterMap (g.result s)
  let rets := (List.range 16).filterMap (g.retiring s)
  let sets := ps.map (·.set) ++ rets
  let wins := (List.range 16).map (fun w => (lookup g.wins w).getD (s.nwins.toList.getD w ⟨false, 0, 0, 0, 0, 0, 0⟩))
  !g.bad
  && (List.range 64).all (fun q => decide ((ps.filter (fun p => bit p.quads q)).length ≤ 1))
  && ps.all (fun p => p.set.size == 0 || (p.set.dies != 0
      && (List.range 4).all (fun d => !bit p.set.dies d || bits p.quads (16 * d + 15) (16 * d) != 0)))
  && ps.all (fun p => p.set.size == 0 || (p.set.base % 65536 == 0 && p.set.size % 65536 == 0 && decide (p.set.base + p.set.size ≤ hbmTop)))
  && ps.all (fun p => p.dsize == 0 || (p.dbase % 65536 == 0 && p.dsize % 65536 == 0 && decide (ddrLo ≤ p.dbase)
      && decide (p.dbase + p.dsize ≤ ddrLo + Config.ddrBytes)))
  && disjoint (sets.map (fun t => (t.base, t.size))) && disjoint (ps.map (fun p => (p.dbase, p.dsize)))
  && (List.range 4).all (fun d =>
      let l := (sets.filter (fun t => t.size != 0 && bit t.dies d)).map (fun t => (t.dlb.getD d 0, setLines t))
      disjoint l && l.all (fun e => decide (e.1 + e.2 ≤ 0x48000000)))
  && wins.all (fun w => !w.en || (g.result s w.part.toNat).isSome)

/-- The code a layout is refused with (R486): the lowest that applies. -/
def layoutCode (s : State) (g : LImage) : Option Nat :=
  if ¬layoutOk s g then some 1
  else if g.parts.any (fun e => g.retires s e.1 && (partAt s e.1).ret.isSome) then some 2
  else if g.badFwd then some 3
  else none

/-! ## What keeps a layout waiting (R491) -/

/-- Quads that a partition of the image loses. -/
def LImage.lost (g : LImage) (s : State) (p : Nat) : Nat :=
  (partAt s p).quads.toNat - ((partAt s p).quads.toNat &&& ((g.result s p).map (·.quads)).getD 0)
def LImage.shrinks (g : LImage) (s : State) (p : Nat) : Bool :=
  (partAt s p).st != 0 && ((g.result s p).isNone || g.lost s p != 0)

/-- Does a stage hold a ring entry or a ready-table entry? -/
def stageHolds (s : State) (p stg : Nat) : Bool :=
  stageRd s p stg 0x10 4 != stageRd s p stg 0x14 4 || s.ready.any (fun e => e.part == p && e.stg == stg)

/-- Is the partition in the case of reason r? -/
def layoutBusy (s : State) (g : LImage) (r p : Nat) : Bool :=
  let x := partAt s p
  let lostCore (n : Nat) : Bool := bit (g.lost s p) (n / 4)
  if r = 1 then x.st != 0 && x.st != 3
  else g.shrinks s p && (match r with
    | 2 => (List.range x.stn.toNat).any (fun k => stageEn s p k && stageHolds s p k)
    | 3 => (List.range 8192).any (fun k => slotSst s p k == 1)
    | 4 => (s.quadQ ++ s.quadRun).any (fun e => bit (g.lost s p) e.1 && e.2.any (fun k => k.part == p))
    | 5 => (List.range x.ttn.toNat).any (fun k =>
        let e := readEnt s p k
        e.st == 2 || e.st == 3 || (e.st == 1 && !(treeAt s e).slots.isEmpty))
    | 6 => (List.range 8192).any (fun k => let m := mbGet s k
        (mbSt m == 1 || mbSt m == 2) && bits (mbVp m) 12 9 == p)
    | _ => ((s.coreNo, s.core) :: s.others).any (fun e => lostCore e.1 && (e.2.pinned.any (fun r => namesCore s e.1 r.1) || e.2.ctxs.toList.any (fun c => c.owner.isSome))))

/-- The reason and the first offending partition. -/
def layoutReason (s : State) (g : LImage) : Option (Nat × Nat) :=
  [1, 2, 3, 4, 5, 6, 7].findSome? (fun r => (g.parts.find? (fun e => layoutBusy s g r e.1)).map (fun e => (r, e.1)))

/-- The tables of a partition whose entries are read for reason r, and where they lie (R491): its stages, its pool, its tree table, the
mailboxes. -/
def tableParts (s : State) (p r : Nat) : List (Nat × Nat) :=
  let x := partAt s p
  match r with
  | 2 => [(x.stb.toNat, 128 * x.stn.toNat)]
  | 3 => if x.pool = 0 then [] else [(x.pool.toNat, 128 * 8192)]
  | 5 => [(x.ttb.toNat, 256 * x.ttn.toNat)]
  | 6 => [(s.evMbt, 64 * 8192)]
  | _ => []

/-- What a layout reads of the tables of the partitions that shrink, up to the reason it finds. -/
def layoutTables (s : State) (g : LImage) : List (Nat × Nat) :=
  ([2, 3, 5, 6].filter (fun r => decide (r ≤ ((layoutReason s g).map (·.1)).getD 7))).flatMap (fun r =>
    (g.parts.filter (fun e => g.shrinks s e.1)).flatMap (fun e => tableParts s e.1 r))

/-! ## Scrubbing (R494) -/

/-- Zero n bytes of memory from a key. No access sees a line before it is scrubbed, so the bytes are zero from now on, and no agent
keeps a copy (R465, R494). -/
def scrubKeys (s : State) (lo n : Nat) : State :=
  if n = 0 then s
  else
    let t := emptyLines s (fun k => decide (lo ≤ k) && decide (k < lo + n))
    { t with mem := t.mem.filter (fun c => decide (c.1 < lo) || decide (lo + n ≤ c.1)) }

/-- The lines of n bytes at a physical address, which the background has still to pass. -/
def scrubLater (s : State) (pa n : Nat) : State := if n = 0 then s else { s with scrub := s.scrub ++ [(pa, n / 128)] }

/-- The frame labels of n bytes of physical addresses become 0. -/
def clearLabels (s : State) (pa n : Nat) : State :=
  match frameIdx pa with
  | some i => { s with flab := s.flab.filter (fun e => decide (e.1 < i) || decide (i + divUp n 65536 ≤ e.1)) }
  | none => s

/-- Scrub the DRAM lines of a set, and the labels of its frames. -/
def scrubSet (s : State) (t : ISet) : State :=
  if t.size = 0 then s
  else clearLabels (scrubLater ((List.range 4).foldl (fun u d =>
    if bit t.dies d then scrubKeys u (d * 0x2400000000 + 128 * t.dlb.getD d 0) (128 * setLines t) else u) s) t.base t.size) t.base t.size

def scrubRange (s : State) (pa n : Nat) : State := if n = 0 then s else clearLabels (scrubLater (scrubKeys s pa n) pa n) pa n

/-- The DDR range a partition gives up: what of [b, b + n) lies outside [b', b' + n'). -/
def scrubDdr (s : State) (b n b' n' : Nat) : State :=
  if ¬meets b n b' n' then scrubRange s b n
  else scrubRange (scrubRange s b (b' - b)) (b' + n') (b + n - (b' + n'))

/-- SCRUB_LINE (R494): the background passes a line. -/
def execScrubLine (s : State) : Host.Outcome State Fault Refusal :=
  .next (match s.scrub with
    | [] => s
    | (lo, n) :: l => { s with scrub := if n ≤ 1 then l else (lo + 128, n - 1) :: l })

/-! ## The layout's effects (R492) -/

/-- Step 1: ready entries of an undefined partition return to their rings. -/
def readyToRings (s : State) (p : Nat) : State :=
  (s.ready.filter (fun e => e.part == p)).foldl (fun t e => (ringAppend t p e.stg e.pa 0).getD t)
    { s with ready := s.ready.filter (fun e => e.part != p) }

/-- The pool slots of a partition that a tear-down frees, with their records, and no notification (R439). -/
def freeSlotsOf (s : State) (p : Nat) (mine : Nat → Bool) : State :=
  ((List.range 8192).filter (fun k => slotSst s p k != 0 && mine k)).foldl (fun t k =>
    let a := slotAddr t p k
    let r := readRecord t a
    let t1 := if slotSst t p k = 1 then stageSub t p (rf r 0x29 2) 0x2C else t
    engWr (writeRecord t1 a (setSt r 0 0 0 0)) (a + 0x40) 1 0) s

/-- Step 3: a core whose quad changes owner. -/
def clearCore (c : Core) : Core :=
  { zeroMatrix c with svf := none, pats := c.pats.map (fun p => { p with st := 0 }), mxPool := 0, ctxs := Vector.replicate 4 TagCtx.free }

/-- Step 5: the tables of a partition that is created or left undefined, and its registers. -/
def Part.cleared (x : Part) : Part :=
  { x with parties := [], labels := [], policies := [], ttn := 0, stn := 0, faultq := 0, mbr := 0, alog := 0 }

/-- Steps 4, 5 and 7 for one partition of the image, but for the forwarding tables. -/
def applyPart (g : LImage) (s : State) (e : Nat × Option LPart) : State :=
  let (p, o) := e
  let x := partAt s p
  let old := s.isets.toList.getD p ⟨0, 0, 0, [], 0⟩
  let db := ddrLo + x.ddrBase
  match o with
  | none =>
    if x.st = 0 then s
    else
      let s1 := scrubDdr (match x.ret with
        | some r => scrubSet (scrubSet s old) r
        | none => scrubSet s old) db x.ddrSize 0 0
      setPart { s1 with isets := s1.isets.setIfInBounds p ⟨0, 0, 0, [0, 0, 0, 0], 0⟩ } p
        { x.cleared with st := 0, quads := 0, ddrBase := 0, ddrSize := 0, ret := none, fwd := 0 }
  | some n =>
    let retire := g.retires s p
    let s1 := if x.st ≠ 0 ∧ ¬retire ∧ old.place ≠ n.set.place then scrubSet s old else s
    let s2 := if x.st ≠ 0 then scrubDdr s1 db x.ddrSize n.dbase n.dsize else s1
    let y := if x.st = 0 then { x.cleared with st := 3 } else x
    setPart { s2 with isets := s2.isets.setIfInBounds p n.set } p
      { y with
        quads := BitVec.ofNat 64 n.quads, ddrBase := n.dbase - ddrLo, ddrSize := n.dsize,
        ret := if retire then some old else x.ret, fwd := if retire then n.fwd else x.fwd }

/-- The forwarding tables of the sets that retire are zeroed once every set is in place (step 4): g was judged in state s. -/
def zeroTables (g : LImage) (s t : State) : State :=
  (g.parts.filter (fun e => g.retires s e.1)).foldl (fun u e => match (partAt u e.1).ret with
    | some r => (List.range (r.size / 65536)).foldl (fun v k => fwdPut v (partAt v e.1) k 0) u
    | none => u) t

/-- The partition whose quad bits hold quad q. -/
def quadOwner (s : State) (q : Nat) : Option Nat := ownerOf s (4 * q)

def applyLayout (s : State) (g : LImage) : State :=
  let s1 := (g.parts.filter (fun e => e.2.isNone)).foldl (fun t e =>
    let u := readyToRings t e.1
    if (partAt s e.1).st = 0 then u else freeSlotsOf u e.1 (fun _ => true)) s
  let s2 := zeroTables g s (g.parts.foldl (fun t e => applyPart g t e) s1)
  let s3 := { s2 with nwins := g.wins.foldl (fun v w => v.setIfInBounds w.1 w.2) s2.nwins }
  let moved := (List.range 64).filter (fun q => quadOwner s q != quadOwner s3 q)
  let clear (n : Nat) (c : Core) : Core := if moved.contains (n / 4) then clearCore c else c
  { s3 with core := clear s3.coreNo s3.core, others := s3.others.map (fun e => (e.1, clear e.1 e.2)) }

/-- What of a layout image is read after its header (R488): the descriptors and windows it selects, as offset and length. -/
def layoutPieces (h : Nat) : List (Nat × Nat) :=
  ((List.range 16).filter (fun p => bit (rf h 4 2) p)).map (fun p => (0x40 + 128 * p, 128))
    ++ ((List.range 16).filter (fun w => bit (rf h 6 2) w)).map (fun w => (0x840 + 16 * w, 16))

def layoutRead (t : State) (va : Nat) : List (Nat × Nat) → Nat → Except Stop (State × Nat)
  | [], x => .ok (t, x)
  | (o, n) :: l, x => match ptRead t ((va + o) % 2 ^ 72) n with
    | .error y => .error y
    | .ok (u, v) => layoutRead u va l (x + (v <<< (8 * o)))

def execPtLayout (q aa : BitVec 4) (sb : BitVec 5) (s : State) :=
  let i := infoPtLayout q aa sb
  tile i true s fun t =>
    let va := (t.core.rdA aa).v.toNat
    if (t.core.rdS sb).v ≠ 0 then .error (ptRefuse t 0)
    else if va % 64 ≠ 0 then .error (accStop t .mis va 64 false false)
    else match ptRead t va 64 with
      | .error y => .error y
      | .ok (t0, h) =>
        match layoutRead t0 va (layoutPieces h) h with
        | .error y => .error y
        | .ok (t1, x) =>
          let g := limageOf t1 x
          match layoutCode t1 g with
          | some c => .error (ptRefuse t c)
          | none => unhurt t1 (layoutTables t1 g) <| match layoutReason t1 g with
            | some (r, p) => .ok (ptAnswer t1 i sb (3 + (r <<< 8) + (p <<< 16)))
            | none => .ok (ptAnswer (applyLayout t1 g) i sb 0)

/-! ## Moving and retiring (R495 to R498) -/

/-- Do n frames at pa lie in a range? -/
def framesIn (pa n base size : Nat) : Bool := decide (base ≤ pa) && decide (pa + 65536 * n ≤ base + size)

/-- Frames still resident when their set is dropped are scrubbed (R498). -/
def scrubResident (t : ISet) (s : State) (frames : List Nat) : State :=
  frames.foldl (fun u k => (List.range 512).foldl (fun v j => scrubKeys v (key0 s (t.base + 65536 * k + 128 * j)) 128)
    (scrubLater (clearLabels u (t.base + 65536 * k) 65536) (t.base + 65536 * k) 65536)) s

def retireSet (s : State) (p : Nat) : State :=
  let x := partAt s p
  match x.ret with
  | none => s
  | some t => setPart (scrubResident t s ((List.range (t.size / 65536)).filter (fun k => bits (fwdAt s x k) 63 62 == 0))) p { x with ret := none, fwd := 0 }

/-- The words of minor 0x14; the two rows of the table have one word, whose OP stands in sb. -/
def moveWord (i0 : Info) (aa : BitVec 4) (sb : BitVec 5) (s : State) : Host.Outcome State Fault Refusal :=
  let x := (s.core.rdS sb).v.toNat
  let op := x % 4
  let i := if op = 0 then i0.naming [namedA (bits x 9 6)] else i0
  tile i true s fun t =>
    let old := (t.core.rdA aa).v.toNat
    let new := (ctlA t.core (bits x 9 6)).toNat
    let n := bits x 39 16 + 1
    let p := bits x 5 2
    let y := partAt t p
    let plain (u : State) (v : Nat) : Act := .ok (plainWord (ptAnswer u i0 sb v))
    if 2 ≤ op ∨ x >>> 40 ≠ 0 ∨ (op = 1 ∧ (old ≠ 0 ∨ x >>> 6 ≠ 0)) then .error (ptRefuse t 0)
    else if op = 1 then
      unhurt t ((y.ret.map (fun r => [(y.fwd, 8 * (r.size / 65536))])).getD []) <|
      let stuck := match y.ret with
        | some r => (List.range (r.size / 65536)).any (fun k => bits (fwdAt t y k) 63 62 == 1)
        | none => false
      if stuck then plain t 3 else plain (retireSet t p) 0
    else match y.ret with
      | none => .error (ptRefuse t 4)
      | some r =>
        let cur := t.isets.toList.getD p ⟨0, 0, 0, [], 0⟩
        if ¬framesIn old n r.base r.size ∨ ¬(framesIn new n cur.base cur.size ∨ framesIn new n (ddrLo + y.ddrBase) y.ddrSize) then .error (ptRefuse t 4)
        else if old % 65536 ≠ 0 then .error (accStop t .mis old 64 false false)
        else if new % 65536 ≠ 0 then .error (accStop t .mis new 64 false false)
        else unhurt t [(y.fwd + 8 * ((old - r.base) / 65536), 8 * n)] <| if (List.range n).any (fun k => bits (fwdAt t y ((old - r.base) / 65536 + k)) 63 62 != 0) then plain t 4
        else
          match issueCmd t { mkCmd t i .move (bits x 15 10) (t.core.rdA aa).v (t.core.rdS sb).v 0 0 with
              da := BitVec.ofNat 72 new, geo := [BitVec.ofNat 64 n, 0] } with
          | .error e => .error e
          | .ok u => .ok (ptAnswer u i0 sb 0)

def execPtMove (q aa : BitVec 4) (sb : BitVec 5) (s : State) := moveWord (infoPtMove q aa sb) aa sb s
def execPtRetire (q aa : BitVec 4) (sb : BitVec 5) (s : State) := moveWord (infoPtRetire q aa sb) aa sb s

/-- Move one frame of partition p (R497): its lines are recalled, copied with label and poison, and its entry set. -/
def moveFrame (s : State) (p old new : Nat) : State :=
  let x := partAt s p
  match x.ret with
  | none => s
  | some r =>
    if ¬inSet r old then s
    else
      let keyOf (a j : Nat) : Nat := key s (a + 128 * j) / 128 * 128
      let bad := ((List.range 512).filter (fun j => s.poison.contains (keyOf old j))).map (keyOf new)
      let s1 := snoop (snoop s old 65536 none) new 65536 none
      let s2 := { s1 with
        dir := s1.dir.filter (fun e => !(List.range 512).any (fun j => keyOf old j == e.1)), poison := bad.filter (fun k => !s1.poison.contains k) ++ s1.poison }
      let s3 := writePa (raiseFrame s2 new (frameLabel s2 old)) new 65536 (readPa s2 old 65536)
      fwdPut s3 x ((old - r.base) / 65536) ((2 <<< 62) + new / 65536)

/-- FRAME_MOVE (R496, R497): the next frame of the focused core's move; after the last the command completes. -/
def execFrameMove (s : State) : Host.Outcome State Fault Refusal :=
  match s.core.cmds.findIdx? (fun c => c.kind == .move) with
  | none => .next s
  | some k => match s.core.cmds[k]? with
    | none => .next s
    | some c =>
      let n := (c.geo.getD 0 0).toNat
      let j := (c.geo.getD 1 0).toNat
      let s1 := moveFrame s (bits c.ctl.toNat 5 2) (c.aa.toNat + 65536 * j) (c.da.toNat + 65536 * j)
      let rest := s1.core.cmds.eraseIdx k
      if j + 1 < n then .next { s1 with core := { s1.core with cmds := s1.core.cmds.set k { c with geo := [BitVec.ofNat 64 n, BitVec.ofNat 64 (j + 1)] } } }
      else .next (endCmd { s1 with core := { s1.core with cmds := rest } } c none none)

/-! ## Virtual functions (R499, R500) -/

/-- A VF descriptor is refused (R486 code 5, R499, R524). -/
def vfDescBad (x : Nat) : Bool :=
  decide (8192 < rf x 4 2) || rf x 6 1 == 0 || rf x 7 1 != 0 || rf x 0x18 8 != 0 || decide (rf x 8 2 < 16) || decide (8192 < rf x 8 2 + rf x 0xA 2)

def vfEntOf (p : Nat) (old : VfEnt) (x : Nat) : VfEnt :=
  { old with
    part := some p, sqf := rf x 0 2, sqn := rf x 2 2, pq := rf x 4 2, share := rf x 6 1, msif := rf x 8 2, msin := rf x 0xA 2,
    ways := BitVec.ofNat 32 (rf x 0xC 4), undo := rf x 0x10 8 }

/-- Is the VF in use, so that its release is busy? -/
def vfBusy (s : State) (vf p : Nat) : Bool :=
  ((s.coreNo, s.core) :: s.others).any (fun e => e.2.run.isSome && e.2.cont.vf == vf)
  || (List.range 8192).any (fun k => slotSst s p k != 0 && rf (readRecord s (slotAddr s p k)) 0x1B 2 % 512 == vf)
  || (s.quadQ ++ s.quadRun).any (fun e => e.2.any (fun k => k.vf == vf))
  || (List.range 8192).any (fun k => let m := mbGet s k
      mbSt m == 1 && mbVp m % 512 == vf)
  || (List.range (partAt s p).stn.toNat).any (fun k => stageEn s p k && stageRd s p k 0xA 2 % 512 == vf)

/-- The words of minor 0x12; the two rows of the table have one word, whose op stands in sb. -/
def vfsetWord (i : Info) (aa : BitVec 4) (sb : BitVec 5) (s : State) : Host.Outcome State Fault Refusal :=
  tile i true s fun t =>
    let x := (t.core.rdS sb).v.toNat
    let vf := x % 512
    let p := bits x 12 9
    let va := (t.core.rdA aa).v.toNat
    let e := vfAt t vf
    if x >>> 14 ≠ 0 then .error (ptRefuse t 0)
    else if 384 ≤ vf then .error (ptRefuse t 5)
    else if bit x 13 then
      match e.part with
      | none => .ok (ptAnswer t i sb 4)
      | some o =>
        unhurt t ([2, 3, 6].flatMap (tableParts t o)) <| if vfBusy t vf o then .ok (ptAnswer t i sb 3)
        else .ok (ptAnswer (setVf t vf { e with part := none, root := 0, ways := 0 }) i sb 0)
    else if va % 32 ≠ 0 then .error (accStop t .mis va 32 false false)
    else match ptRead t va 32 with
      | .error y => .error y
      | .ok (t1, d) =>
        if vfDescBad d then .error (ptRefuse t 5)
        else if e.part.isSome ∧ e.part ≠ some p then .ok (ptAnswer t1 i sb 3)
        else .ok (ptAnswer (setVf t1 vf (vfEntOf p e d)) i sb 0)

def execPtVfsetAssign (q aa : BitVec 4) (sb : BitVec 5) (s : State) := vfsetWord (infoPtVfsetAssign q aa sb) aa sb s
def execPtVfsetRelease (q aa : BitVec 4) (sb : BitVec 5) (s : State) := vfsetWord (infoPtVfsetRelease q aa sb) aa sb s

/-- pt.ways (R500). -/
def execPtWays (q : BitVec 4) (sb : BitVec 5) (s : State) :=
  let i := infoPtWays q sb
  tile i true s fun t =>
    let x := (t.core.rdS sb).v.toNat
    let vf := x % 512
    let e := vfAt t vf
    if bits x 31 9 ≠ 0 then .error (ptRefuse t 0)
    else if t.core.cont.prv = 1 ∧ e.part ≠ some t.core.cont.part then .error (privileged t)
    else .ok (ptAnswer (if vf < 384 then setVf t vf { e with ways := BitVec.ofNat 32 (x >>> 32) } else t) i sb (e.ways.toNat <<< 32))

/-! ## Function-level reset (R502) -/

/-- Suspend what core n runs as a firmware abort: a record of the VF without a post; a quad-locked domain together, as a
ring (R31). -/
def abortCore (vf : Nat) (s : State) (n : Nat) : State :=
  let one (ql k : Nat) (t : State) : State :=
    let u := focus t k
    if u.core.run.isNone then u
    else
      let r := u.core.cont
      let (v, cause) := suspendQuiet u 0 ql
      if r.vf = vf then v else postRecord v r cause 0
  if (coreAt s n).run.isNone ∨ (coreAt s n).cont.vf ≠ vf then s
  else if (coreAt s n).locked then
    (List.range 4).foldl (fun t j => one (coreAt s (n / 4 * 4 + (j + 1) % 4)).cont.pa (n / 4 * 4 + j) t) s
  else one 0 n s

/-- Step 3: stages and slots. -/
def flrStages (vf p : Nat) (s : State) : State :=
  let s1 := ((List.range (partAt s p).stn.toNat).filter (fun k => stageRd s p k 0xA 2 % 512 == vf)).foldl
    (fun t k => stageWr t p k 9 1 (stageRd t p k 9 1 / 2 * 2)) s
  freeSlotsOf s1 p (fun k => rf (readRecord s1 (slotAddr s1 p k)) 0x1B 2 % 512 == vf)

/-- A tile task is killed (R299). -/
def killTask (s : State) (k : Task) : State := k.put 0x4A 1 5 (ctxTask s k.core k.ctx false)

/-- Step 4: tasks, mailboxes, episodes. -/
def flrEngines (vf : Nat) (s : State) : State :=
  let mine (e : Nat × List Task) : List Task := e.2.filter (fun k => k.vf == vf)
  let rest (l : List (Nat × List Task)) : List (Nat × List Task) :=
    (l.map (fun e => (e.1, e.2.filter (fun k => k.vf != vf)))).filter (fun e => !e.2.isEmpty)
  let s1 := ((s.quadQ ++ s.quadRun).flatMap mine).foldl killTask { s with quadQ := rest s.quadQ, quadRun := rest s.quadRun }
  let s2 := ((List.range 8192).filter (fun k => mbVp (mbGet s1 k) % 512 == vf)).foldl (abortMail 3) s1
  ((List.range 4096).filter (fun e => epLive (epGet s2 e) && epVp (epGet s2 e) % 512 == vf)).foldl (fun t e => stopEpisode t e 3) s2

/-- Reset a VF of partition p, in the order of R502. No access of the VF is in flight on a link between steps, and no
translation is cached. A media command of the VF stops without a completion (R516). -/
def flr (vf p : Nat) (s : State) : State :=
  let me := s.coreNo
  let s1 := focus (((s.coreNo, s.core) :: s.others).foldl (fun t e => abortCore vf t e.1) s) me
  let s2 := flrEngines vf (flrStages vf p s1)
  (s2.dev.media.filter (fun e => e.2.vf == vf && e.2.cmd.isSome)).foldl (fun t e => mediaStop t e.1) s2

def execPtFlr (q : BitVec 4) (sb : BitVec 5) (s : State) :=
  let i := infoPtFlr q sb
  tile i true s fun t =>
    let x := (t.core.rdS sb).v.toNat
    let vf := x % 512
    if x >>> 9 ≠ 0 then .error (ptRefuse t 0)
    else match (vfAt t vf).part with
      | none => .ok (ptAnswer t i sb 4)
      | some p =>
        unhurt t ([2, 3, 6].flatMap (tableParts t p) ++ [(t.evEpt, 128 * 4096)]) <|
        let t1 := flr vf p t
        if t1.core.run.isNone then .ok (setMark t1 .left) else .ok (ptAnswer t1 i sb 0)

end Sys2Proof.Machine
end

