-- ==== Sys2Proof/Machine/Live.lean ====
section
/-! DEFINITION. What a word reads beyond its fields: what FP_VCFG adds (R43), what its control word names (R199), and the
labels of other cores and of objects that join the context label (R466). -/
namespace Sys2Proof.Machine

/-- The members of the group that a word names by its base register, when its formats form a pair or quad; formats that form
neither make the word illegal (R228) and name none beside the encoded one (R234, R243, R250). A base that is not aligned, which makes the
word illegal (R234), names base to base + n - 1 modulo 32 all the same (DESIGN CHOICE, log 22). -/
def groupAt (n w : Nat) (ok : Bool) (d : BitVec 5) : List RegName :=
  if ok ∧ (w = 2 * n ∨ w = 4 * n) then (vGroup d (w / n)).map RegName.v else []

/-- The registers FP_VCFG adds to a V word's reads and writes (R43), beside those that its fields name: the stage predicate and
the members of a pair or quad. A promotion that reads no activation scales
takes no label from aa (R286). -/
def liveInfo (c : Core) (w : IWord) (i : Info) : Info :=
  let join (l g : List RegName) : List RegName := l ++ g.filter (fun r => !l.contains r)
  let we := fmtWidth (vcEt c)
  let wd := fmtWidth (vcDt c)
  let real := vcEt c != 7 && vcDt c != 7
  let maj := bits w.toNat 30 26
  let minor := bits w.toNat 21 16
  let m : BitVec 3 := BitVec.ofNat 3 (bits w.toNat 24 22)
  let vd : BitVec 5 := BitVec.ofNat 5 (bits w.toNat 15 11)
  let va : BitVec 5 := BitVec.ofNat 5 (bits w.toNat 10 6)
  if maj = 0x18 ∧ (bits w.toNat 16 9 = 1 ∨ bits w.toNat 16 9 = 2) then
    { i with cx := (promInfo i (c.rdS (BitVec.ofNat 5 w.toNat)).v.toNat).cx }
  else if maj < 0x0D ∨ 0x14 < maj then i
  else
    let i1 := if gated c m ∧ i.rd.contains (.m m) ∧ ¬(maj = 0x11 ∧ 3 ≤ minor) then { i with rd := i.rd ++ [.p (gateReg m)] } else i
    if maj = 0x0F ∧ minor = 15 then
      let g := groupAt we 32 (madwEt c) vd
      { i1 with rd := join i1.rd g, wr := join i1.wr g }
    else if maj = 0x12 ∧ minor = 1 then { i1 with wr := join i1.wr (groupAt we wd real vd) }
    else if maj = 0x12 ∧ minor = 2 then { i1 with rd := join i1.rd (groupAt wd we real va) }
    else i1

/-- Registers that an E- or X-class word names through its control word (R199, R466). -/
def ctlNames (s : State) (w : IWord) : List RegName :=
  let maj := bits w.toNat 30 26
  let x := (s.core.rdS (BitVec.ofNat 5 w.toNat)).v.toNat
  let g := (ctlG s.core (sgG x)).toNat
  match maj, bits w.toNat 16 9 with
  | 0x18, 0 => namedG (mmaG x) 1
  | 0x18, 4 => namedG (ztG x) 1
  | 0x18, 5 => namedG (ztG x) 1
  | 0x18, 6 => namedG (ztG x) 1
  | 0x1A, 2 => namedG (sgG x) 1
  | 0x1A, 3 => namedG (sgG x) 1 ++ [namedA (sgRa x)]
      ++ (if (readEnt s (bits g 31 28) (bits g 27 8)).skip ≠ 0 then [namedA (sgDa x)] else []) ++ (if sgCr x then [namedA (sgBa x)] else [])
  | 0x1A, 9 => namedG (sgG x) (3 + (ctlG s.core (sgG x + 2)).toNat % 8) ++ [namedA (sgRa x), namedA (sgDa x)]
  | 0x1A, 11 => namedG (sgG x) 2
  | 0x1B, 2 => namedG (bits x 11 6) (min (gatherRegs x) (64 - bits x 11 6))
  | 0x1C, 0 => if bit x 4 then [namedA (x % 16)] else []
  | 0x1C, 1 => if bit x 4 then [namedA (x % 16)] else []
  | 0x1D, 0x14 => if x % 4 = 0 then [namedA (bits x 9 6)] else []
  | 0x1D, 0x22 => if bits x 13 12 = 2 then [namedA (bits x 17 14), namedA (bits x 21 18)] else []
  | 0x19, n => cpNames n x
  | 0x17, _ => if bits w.toNat 21 17 = 0 then initNames (s.core.rdS (BitVec.ofNat 5 (bits w.toNat 12 8))).v.toNat else []
  | _, _ => []

/-- The labels that join the context label beside those of the word's own fields: named registers, the other cores'
context labels at qlock and mx.qsplit, a value written to FP_MODE or FP_VCFG, the object an mwait observes. -/
def liveJoin (s : State) (w : IWord) (i : Info) : Label :=
  let maj := bits w.toNat 30 26
  if maj = 0x0C ∧ bits w.toNat 21 17 = 9 ∨ maj = 0x18 ∧ bits w.toNat 16 9 = 15 then othersCl s
  else if maj = 0x0C ∧ bits w.toNat 21 17 = 7 ∧ (w.toNat % 4096 = 0x800 ∨ w.toNat % 4096 = 0x804) then
    (s.core.rdS (BitVec.ofNat 5 (bits w.toNat 16 12))).l
  else if maj = 0x0B ∧ bits w.toNat 21 17 = 10 ∧ predOn s.core i then
    let va := (s.core.rdA (BitVec.ofNat 4 (bits w.toNat 15 12))).v.toNat
    if va % 8 ≠ 0 then 0
    else match readObj s s.core.who va with
      | .ok (_, _, l) => l
      | .error _ => 0
  else orAll ((ctlNames s w).map (labelOf s.core))

end Sys2Proof.Machine
end

