-- ==== Sys2Proof/Machine/HostPort.lean ====
section
/-! DEFINITION. The host ports (R517, R518, R524, R529): requests on device memory and registers, MSI-X tables, and SPDM.
A request names its target in bits 55:54 of `off`: 0 a VF's BAR2, 1 the physical function's BAR0, 2 memory through CXL.mem,
3 a VF's BAR0; bits 48:40 the VF of the port (0x1FF: the physical function's own MSI-X table; 0x1FE: configuration space), bits 39:0 the offset
(log 19). -/
namespace Sys2Proof.Machine

def hostTarget (off : BitVec 56) : Nat := bits off.toNat 55 54
/-- The package's VF of a request. -/
def hostVf (port : BitVec 1) (off : BitVec 56) : Nat := 192 * port.toNat + bits off.toNat 48 40
def hostOff (off : BitVec 56) : Nat := off.toNat % 2 ^ 40
def hostVfOk (off : BitVec 56) : Bool := decide (bits off.toNat 48 40 < 192)

/-- Unsupported Request, Completer Abort. -/
def unsupported (s : State) (port : BitVec 1) : State := reply s port 1 0 0 0
def aborted (s : State) (port : BitVec 1) : State := reply s port 2 0 0 0

/-- Are requests to a BAR other than block 1 served (R529 to R531)? Those to a VF need a state that serves tenants. -/
def hostServes (s : State) (vf : Bool) : Bool := s.dev.bootSt == 7 && (!vf || s.dev.lc == 1)
/-- What such a request ends with: while a wipe runs, reads of host memory requests complete as Completer Abort (R531). -/
def hostRefuses (s : State) (port : BitVec 1) : State := if s.dev.bootSt.toNat ≤ 1 then aborted s port else unsupported s port

/-- A host's read of n bytes in a VF's addresses, judged by the gate line by line (R469, R471); what its walks have set when it
is not served (R153). -/
def hostRead (s : State) (port vf part : Nat) : Nat → Nat → Nat → Except State (State × Nat × Label)
  | 0, _, _ => .ok (s, 0, 0)
  | k + 1, va, n =>
    let c := min n (128 - va % 128)
    match translateMark s va vf part 0 c .read with
    | .error _ => .error s
    | .ok (s1, x) => match readAt s1 ⟨vf, part, 0, false⟩ va c x false with
      | .error _ => .error s1
      | .ok (s2, v, pl) =>
        match hostRead s2 port vf part k ((va + c) % 2 ^ 72) (n - c) with
        | .error t => .error t
        | .ok (s3, w, l) => .ok (s3, v + (w <<< (8 * c)), l ||| lineLabel s2 pl x.pa)

/-- Answer a read: the gate judges its label (R471, R472). -/
def answerRead (s : State) (port : BitVec 1) (part n v : Nat) (l : Label) : State :=
  match gate s part l (.reader (4 + port.toNat)) with
  | some out => reply s port 0 n v out
  | none => aborted (countRefusal s part l) port

/-! ## MSI-X tables (R518, R524) -/

/-- The vector and table byte a table offset names. -/
def msiSlot (s : State) (port : BitVec 1) (off : BitVec 56) : Option (Nat × Nat) :=
  let o := hostOff off
  if bits off.toNat 48 40 = 0x1FF then (if o < 256 then some (o / 16, o % 16) else none)
  else
    let e := vfAt s (hostVf port off)
    let j := (o - 0x10000) / 16
    if hostVfOk off ∧ e.part.isSome ∧ 0x10000 ≤ o ∧ j < e.msin then some (e.msif + j, o % 16) else none

def msiCell (port v b : Nat) : Nat := port * 131072 + 16 * v + b

/-- A byte of a table entry; bit 0 of byte 12 is the mask, set until software clears it (PCIe). -/
def msiByte (s : State) (port v b : Nat) : Nat :=
  if b = 12 then getN s.dev.msiTab (msiCell port v b) 1 / 2 * 2 + (if s.dev.msiOpen.contains (port, v) then 0 else 1)
  else getN s.dev.msiTab (msiCell port v b) 1

/-- Unmasking a vector whose pending bit is set raises it (PCIe). -/
def msiMask (s : State) (port v : Nat) (masked : Bool) : State :=
  let d := s.dev
  if masked then { s with dev := { d with msiOpen := d.msiOpen.filter (· != (port, v)) } }
  else
    let s1 := { s with dev := { d with
      msiOpen := (port, v) :: d.msiOpen.filter (· != (port, v)), msiPend := d.msiPend.filter (· != (port, v)) } }
    if d.msiPend.contains (port, v) then msiSet s1 port v else s1

def msiPut (s : State) (port v b : Nat) (x : Byte) : State :=
  let s1 := { s with dev := { s.dev with msiTab := putN s.dev.msiTab (msiCell port v b) 1 x.toNat } }
  if b = 12 then msiMask s1 port v (x.getLsbD 0) else s1

/-- A configuration read (VF field 0x1FE in the model's naming): Request Retry Status while a wipe runs (R531); what the
registers of PCIe hold is open (log 6). -/
def configRead (s : State) (port : BitVec 1) (n : Nat) : State :=
  if s.dev.bootSt.toNat ≤ 1 then reply s port 5 0 0 0
  else
    let (t, v) := freeBytes s n
    reply t port 0 n v 0

/-! ## Requests -/

/-- HOST_MEMORY_READ. -/
def execHostMemoryRead (port : BitVec 1) (off : BitVec 56) (n : Nat) (s : State) : Host.Outcome State Fault Refusal :=
  let o := hostOff off
  .next (match hostTarget off with
    | 0 =>
      let vf := hostVf port off
      if ¬hostServes s true then hostRefuses s port
      else match (vfAt s vf).part with
        | none => unsupported s port
        | some part =>
          if ¬hostVfOk off then unsupported s port
          else match hostRead s port.toNat vf part (lineCount o n) o n with
            | .error t => aborted t port
            | .ok (t, v, l) => answerRead t port part n v l
    | 1 =>
      if ¬(s.dev.bootSt = 7 ∨ o / 2 ^ 32 = 1) then hostRefuses s port
      else if n ≠ 8 ∨ o % 8 ≠ 0 ∨ 4 < o / 2 ^ 32 then unsupported s port
      else match devRead s o with
        | some (t, v) => reply t port 0 8 v 0
        | none => unsupported s port
    | 2 =>
      let pa := off.toNat % 2 ^ 54
      if ¬hostServes s false then hostRefuses s port
      else if ¬Config.portCxl port.toNat ∨ ¬isMem pa ∨ ¬isMem (pa + n - 1) then unsupported s port
      else if isPoisoned s pa n then aborted s port
      else
        let l := (linesOf pa n).foldl (fun l a => l ||| lineLabel s (frameLabel s a) a) 0
        answerRead s port ((memOwner s pa).getD 0) n (readPa s pa n) l
    | _ =>
      if bits off.toNat 48 40 = 0x1FE then configRead s port n
      else if ¬hostServes s (bits off.toNat 48 40 != 0x1FF) then hostRefuses s port
      else if hostVfOk off ∧ (vfAt s (hostVf port off)).part.isSome ∧ o < 0x10000 then
        let (t, v) := freeBytes s n
        reply t port 0 n v 0
      else if (List.range n).all (fun j => (msiSlot s port (off + BitVec.ofNat 56 j)).isSome) then
        reply s port 0 n (packL 8 ((List.range n).map (fun j => match msiSlot s port (off + BitVec.ofNat 56 j) with
          | some (v, b) => msiByte s port.toNat v b
          | none => 0))) 0
      else unsupported s port)

/-- HOST_MEMORY_WRITE: a posted write; what is not served has no effect. Data from the host has the empty label. -/
def execHostMemoryWrite (port : BitVec 1) (off : BitVec 56) (data : List (BitVec 8)) (s : State) : Host.Outcome State Fault Refusal :=
  let o := hostOff off
  let n := data.length
  .next (match hostTarget off with
    | 0 =>
      let vf := hostVf port off
      match (vfAt s vf).part with
      | none => s
      | some part =>
        if ¬hostServes s true ∨ ¬hostVfOk off then s
        else ((writeBytes s ⟨vf, part, 0, false⟩ o n (ofLe data) 0).toOption).getD (markSpan s ⟨vf, part, 0, false⟩ o n .write)
    | 1 =>
      if ¬(s.dev.bootSt = 7 ∨ o / 2 ^ 32 = 1) ∨ n ≠ 8 ∨ o % 8 ≠ 0 ∨ 4 < o / 2 ^ 32 then s
      else (devWriteBy s o (ofLe data) 0 2 0 (some port.toNat)).getD s
    | 2 =>
      let pa := off.toNat % 2 ^ 54
      if ¬hostServes s false ∨ ¬Config.portCxl port.toNat ∨ n = 0 ∨ ¬isMem pa ∨ ¬isMem (pa + n - 1) ∨ isPoisoned s pa n then s
      else engWr s pa n (ofLe data)
    | _ =>
      if ¬hostServes s (bits off.toNat 48 40 != 0x1FF) then s
      else (List.zipIdx data).foldl (fun t e => match msiSlot t port (off + BitVec.ofNat 56 e.2) with
        | some (v, b) => msiPut t port.toNat v b e.1
        | none => t) s)

/-- What an AtomicOp leaves: 0 compare-and-swap, 1 fetch-and-add, 2 swap. -/
def atomicNew (op : BitVec 2) (old x y : Nat) : Nat :=
  match op.toNat with
  | 0 => if old = x then y else old
  | 1 => old + x
  | _ => x

/-- HOST_ATOMIC (R517): an AtomicOp on a VF's addresses; its old value leaves as a read's data does. -/
def execHostAtomic (port : BitVec 1) (off : BitVec 56) (op : BitVec 2) (size : Nat) (x y : BitVec 64) (s : State) :
    Host.Outcome State Fault Refusal :=
  let va := hostOff off
  let vf := hostVf port off
  .next (match (vfAt s vf).part with
    | none => unsupported s port
    | some part =>
      let w : Who := ⟨vf, part, 0, false⟩
      if hostTarget off ≠ 0 ∨ ¬hostVfOk off ∨ op = 3 ∨ (size ≠ 4 ∧ size ≠ 8) ∨ va % size ≠ 0 then unsupported s port
      else if ¬hostServes s true then hostRefuses s port
      else match translateMark s va vf part 0 size .rmw with
        | .error _ => aborted s port
        | .ok (s1, t) => match readAt s1 w va size t false with
          | .error _ => aborted s1 port
          | .ok (s2, old, pl) =>
            let l := lineLabel s2 pl t.pa
            match gate s2 part l (.reader (4 + port.toNat)) with
            | none => aborted (countRefusal s2 part l) port
            | some out =>
              match writeAt s2 w va size (atomicNew op old (x.toNat % 2 ^ (8 * size)) (y.toNat % 2 ^ (8 * size)) % 2 ^ (8 * size)) pl 0 t true with
              | .error _ => aborted s2 port
              | .ok s3 => reply s3 port 0 size old out)

/-! ## SPDM (R517) -/

/-- GET_MEASUREMENTS answers with the same measurements until the next cold reset (R533). -/
def spdmMeas (port : BitVec 1) (s : State) : State :=
  if 3 ≤ (lookup s.dev.spdm port.toNat).getD 0 then reply s port 3 0 s.dev.meas 0 else reply s port 4 0 0 0

def spdmAt (s : State) (port : BitVec 1) : Nat := (lookup s.dev.spdm port.toNat).getD 0
/-- A request that the state allows is answered (log 10) and leads to another state; any other gets an error. -/
def spdm (port : BitVec 1) (ok : Nat → Bool) (next : Nat → Nat) (s : State) : State :=
  let n := spdmAt s port
  if ok n then
    reply { s with fresh := s.fresh + 1, dev := { s.dev with spdm := insertKey port.toNat (next n) s.dev.spdm } } port 3 0 s.fresh 0
  else reply s port 4 0 0 0

def execSpdmGetVersion (port : BitVec 1) (s : State) : Host.Outcome State Fault Refusal := .next (spdm port (fun _ => true) (fun _ => 1) s)
def execSpdmGetCapabilities (port : BitVec 1) (s : State) : Host.Outcome State Fault Refusal := .next (spdm port (· == 1) (fun _ => 2) s)
def execSpdmNegotiateAlgorithms (port : BitVec 1) (s : State) : Host.Outcome State Fault Refusal := .next (spdm port (· == 2) (fun _ => 3) s)
def execSpdmGetDigests (port : BitVec 1) (s : State) : Host.Outcome State Fault Refusal := .next (spdm port (fun n => decide (3 ≤ n)) id s)
def execSpdmGetCertificate (port : BitVec 1) (s : State) : Host.Outcome State Fault Refusal := .next (spdm port (fun n => decide (3 ≤ n)) id s)
def execSpdmChallenge (port : BitVec 1) (s : State) : Host.Outcome State Fault Refusal := .next (spdm port (fun n => decide (3 ≤ n)) id s)
def execSpdmGetMeasurements (port : BitVec 1) (s : State) : Host.Outcome State Fault Refusal := .next (spdmMeas port s)
def execSpdmKeyExchange (port : BitVec 1) (s : State) : Host.Outcome State Fault Refusal := .next (spdm port (· == 3) (fun _ => 4) s)
def execSpdmFinish (port : BitVec 1) (s : State) : Host.Outcome State Fault Refusal := .next (spdm port (· == 4) (fun _ => 5) s)
def execSpdmEndSession (port : BitVec 1) (s : State) : Host.Outcome State Fault Refusal := .next (spdm port (· == 5) (fun _ => 3) s)

end Sys2Proof.Machine
end

