-- ==== Sys2Proof/Machine/Mgmt.lean ====
section
/-! DEFINITION. The management image as software sees it (R520 to R524, R529 to R532): the mailbox and its requests, the
log, device registers, boot, wipe and cold reset, power. -/
namespace Sys2Proof.Machine

/-! ## The management mailbox (R522) -/

/-- Is the package in recovery (R529)? -/
def recovery (s : State) : Bool := decide (2 ≤ s.dev.bootSt) && s.dev.bootSt != 7

/-- May a request code be served in this boot and life-cycle state? -/
def mbAllowed (s : State) (op : Nat) : Bool :=
  let lc := s.dev.lc
  if op = 1 then true
  else if op = 0x10 ∨ op = 0x11 then recovery s || (s.dev.bootSt == 7 && lc == 1)
  else s.dev.bootSt == 7 && (match op with
    | 0x20 => lc != 3
    | 0x30 => lc == 1
    | 0x40 => lc == 1 || lc == 2
    | _ => true)

/-- The end of a request: response bytes, RLEN, RESULT, BUSY clear; vector 0 of the port that asked. -/
def mbFinish (s : State) (result len resp : Nat) : State :=
  let d := s.dev
  let s1 := { s with dev := { d with
    mbResp := putN d.mbResp 0 len resp, mbRlen := len, mbRes := result, mbBusy := false, mbBy := none } }
  match d.mbBy with
  | some port => msiSet s1 port 0
  | none => s1

/-- Byte field of the request buffer. -/
def mbReq (s : State) (o n : Nat) : Nat := getN s.dev.mbReq o n

/-- Serve a request with code op, if it is the one that waits: its length must satisfy `len`, then `f` answers with the
state, RESULT and response. -/
def mbServe (op : Nat) (len : Nat → Bool) (f : State → State × Nat × Nat × Nat) (s : State) : Host.Outcome State Fault Refusal :=
  let d := s.dev
  if ¬d.mbBusy ∨ d.mbOp ≠ op then .next s
  else if ¬mbAllowed s op then .next (mbFinish s 3 0 0)
  else if ¬len d.mbLen then .next (mbFinish s 2 0 0)
  else
    let (t, r, n, x) := f s
    .next (mbFinish t r n x)

def mbKnown (op : Nat) : Bool := [1, 0x10, 0x11, 0x20, 0x30, 0x40].contains op

/-- MB_VERSION: four versions; it also answers a code nobody knows. -/
def execMbVersion (s : State) : Host.Outcome State Fault Refusal :=
  if s.dev.mbBusy ∧ ¬mbKnown s.dev.mbOp then .next (mbFinish s (if recovery s then 3 else 1) 0 0)
  else mbServe 1 (· == 0) (fun t => (t, 0, 16, packL 32 ((List.range 3).map (fun j => (t.dev.vers.getD j 0).toNat) ++ [t.dev.roll.toNat]))) s

/-- One use of the package flash: does it succeed (log 10)? -/
def useFlash (s : State) : State × Bool := ({ s with fresh := s.fresh + 1 }, Config.flashOk s.fresh)

/-- MB_IMAGE_WRITE. -/
def execMbImageWrite (s : State) : Host.Outcome State Fault Refusal :=
  mbServe 0x10 (fun n => decide (8 ≤ n) && decide (n ≤ 4096)) (fun t =>
    let (u, ok) := useFlash t
    let n := t.dev.mbLen - 8
    if ok then ({ u with dev := { u.dev with staged := putN u.dev.staged (mbReq t 0 8) n (mbReq t 8 n) } }, 0, 0, 0) else (u, 5, 0, 0)) s

/-- The boot step at which an image fails, or 7 (R529). -/
def imageStep (roll : BitVec 32) (img : List Byte) : BitVec 3 :=
  let keys := Config.imageKeys img
  let msg := Config.imageMsg img
  let sigs := Config.imageSigs img
  if ofLe (img.take 4) ≠ 0x544F4F42 ∨ ¬Config.imageFormed img then 2
  else if (Config.imageVer img) < roll then 3
  else if sha384 keys ≠ Config.fusedKey then 4
  else if ¬rsaVerifies msg ((keys.drop 0x80).take 384) (ofBe ((keys.drop 0x200).take 4)) (sigs.take 384) then 5
  else if ¬slhVerifies msg ((keys.drop 0x208).take 48) ((sigs.drop 384).take 16224) then 6
  else 7

/-- MB_IMAGE_COMMIT: a verified image is the one the next cold reset loads. -/
def execMbImageCommit (s : State) : Host.Outcome State Fault Refusal :=
  mbServe 0x11 (· == 8) (fun t =>
    let img := leBytes (mbReq t 0 8) (getN t.dev.staged 0 (mbReq t 0 8))
    if imageStep t.dev.roll img ≠ 7 then (t, 4, 0, 0)
    else
      let (u, ok) := useFlash t
      if ok then ({ u with dev := { u.dev with next := some img } }, 0, 0, 0) else (u, 5, 0, 0)) s

/-! ### Wipe and life cycle (R530, R531, R536) -/

/-- A wiped core: stash, weight buffer and z store. -/
def wipeCore (c : Core) : Core := { c with stash := [], wbuf := [], z := Vector.replicate 9 ⟨0, 0⟩ }

/-- A life-cycle state other than production refuses tenants (R530): a running continuation of a tenant, at U, ends on its core,
which is as after its own reset (DEDUCED, log 35). -/
def refuseTenants (s : State) : State :=
  let out (c : Core) : Core := if s.dev.lc != 1 && c.run.isSome && c.cont.prv == 0 then Core.reset else c
  { s with core := out s.core, others := s.others.map (fun e => (e.1, out e.2)) }

/-- The wipe of R531, after which the package holds the one partition of R536. -/
def wipe (s : State) : State :=
  { s with
    mem := [], flab := [], poison := [], dir := [], llc := [], jcache := [], msgs := [], waits := [], scrub := [],
    core := wipeCore s.core, others := s.others.map (fun e => (e.1, wipeCore e.2)),
    parts := State.reset.parts, isets := State.reset.isets, nwins := State.reset.nwins, vfs := State.reset.vfs }

/-- The transitions of R530. -/
def lcNext (a b : BitVec 2) : Bool := (a == 0 && b == 1) || (a == 1 && (b == 2 || b == 3)) || (a == 2 && b == 3)

/-- MB_LIFE_CYCLE_TRANSITION. -/
def execMbLifeCycleTransition (s : State) : Host.Outcome State Fault Refusal :=
  mbServe 0x20 (fun n => decide (n ≤ 4096)) (fun t =>
    match Config.tokenTarget (leBytes t.dev.mbLen (mbReq t 0 t.dev.mbLen)) with
    | none => (t, 4, 0, 0)
    | some b => if lcNext t.dev.lc b then (refuseTenants (wipe { t with dev := { t.dev with lc := b } }), 0, 0, 0) else (t, 3, 0, 0)) s

/-- MB_THROTTLE: a floor for the dies of the mask. -/
def execMbThrottle (s : State) : Host.Outcome State Fault Refusal :=
  mbServe 0x30 (· == 8) (fun t =>
    let x := mbReq t 0 8
    if bits x 7 4 ≠ 0 ∨ x >>> 16 ≠ 0 then (t, 2, 0, 0)
    else ({ t with dev := { t.dev with floor := (List.range 4).map (fun d => if bit x d then bits x 15 8 else t.dev.floor.getD d 0) } }, 0, 0, 0)) s

/-- MB_LOG_DRAIN: the oldest entries, as many as asked for and there are. -/
def execMbLogDrain (s : State) : Host.Outcome State Fault Refusal :=
  mbServe 0x40 (· == 8) (fun t =>
    let n := mbReq t 0 8
    if n = 0 ∨ 64 < n then (t, 2, 0, 0)
    else
      let k := min n (t.mcTail - t.mcHead).toNat
      ({ t with mcHead := t.mcHead + BitVec.ofNat 32 k }, 0, 64 * k,
        packL 512 ((List.range k).map (fun j => ((lookup t.mcLog ((t.mcHead.toNat + j) % 1024)).getD 0).toNat)))) s

/-! ## Registers (R519, R521, R524) -/

/-- The machine external interrupt of management core 0 of I/O die 4 is pending while the log holds an entry (R521). -/
def mcPending (s : State) : Bool := s.mcTail != s.mcHead

def execMcHeadWrite (v : BitVec 64) (s : State) : Host.Outcome State Fault Refusal := .next (mcHeadWrite s v.toNat)

/-- Who writes a device register: the record on the focused core, or, with none, the management image at F. -/
def writerPrv (s : State) : Nat := if s.core.run.isSome then s.core.cont.prv else 2

/-- MSI_RAISE. -/
def execMsiRaise (port : BitVec 1) (v : BitVec 64) (lbl : Label) (s : State) : Host.Outcome State Fault Refusal :=
  .next (msiRaiseReg s port.toNat v.toNat lbl (writerPrv s) s.core.cont.part)

/-- DEVICE_REGISTER_WRITE: an F record's doubleword; an unassigned offset has no register. -/
def execDeviceRegisterWrite (off : BitVec 48) (v : BitVec 64) (s : State) : Host.Outcome State Fault Refusal :=
  .next (if off.toNat % 8 = 0 then (devWrite s off.toNat v.toNat 0 2 s.core.cont.part).getD s else s)

/-! ## Reset and boot (R523, R529, R531) -/

/-- COLD_RESET: the package as after power-on, wiped; the life-cycle state, the package flash and the numbering of open
values stay. -/
def execColdReset (s : State) : Host.Outcome State Fault Refusal :=
  .next { State.reset with
    agenda := s.agenda, fresh := s.fresh + 1,
    dev := { Dev.reset with lc := s.dev.lc, roll := s.dev.roll, staged := s.dev.staged, next := s.dev.next, meas := s.fresh } }

/-- What the management image sets up before BOOT.ST reaches 7 (R422, R523, R536; log 9). -/
def bootUp (s : State) : State :=
  let s1 := Config.bootBytes.foldl (fun t c => if isMem c.1 then writePa t c.1 1 c.2.toNat else t) s
  let s2 := setVf s1 0 { vfAt s1 0 with root := Config.bootRoot.toNat }
  let s3 := setPart s2 0 { partAt s2 0 with stb := lowBits Config.bootStb 55 7, stn := lowBits Config.bootStn 16 0, faultq := lowBits Config.bootFaultq 16 0 }
  { s3 with
    jmemb := 65536 * Config.jettyBase.toNat, jmeml := 65536 * Config.jettyLen.toNat,
    harts := (List.range 96).map (fun n => (n, { Hart.reset with pc := Config.monitorEntry })),
    dev := { s3.dev with bootSt := 7, pod := Config.flashPod } }

/-- The image that the next boot loads as image k of the flash (R522, R529, log 9): 0 the boot image, 1 the Jetty monitor, 2 the
system-continuation image, 3 to 18 the firmware of the media engines. -/
def flashImage (s : State) (k : Nat) : List Byte := if k = 0 then s.dev.next.getD (Config.flashImage 0) else Config.flashImage k

/-- The step at which the images from k on, as many as n, first fail, or 7: the management image verifies the others by the
rules of the boot image (R529). -/
def bootStep (s : State) : Nat → Nat → BitVec 3
  | 0, _ => 7
  | n + 1, k => let st := imageStep s.dev.roll (flashImage s k)
    if st = 7 then bootStep s n (k + 1) else st

/-- BOOT: from the ROM the image is loaded, and then it and the others are checked; a failing step is where BOOT.ST stays. -/
def execBoot (s : State) : Host.Outcome State Fault Refusal :=
  if s.dev.bootSt = 0 then .next { s with dev := { s.dev with bootSt := 1 } }
  else if s.dev.bootSt ≠ 1 then .next s
  else
    let st := bootStep s 19 0
    let s1 := { s with dev := { s.dev with bootSt := st, vers := (List.range 3).map (fun k => Config.imageVer (flashImage s k)) } }
    .next (if st = 7 then bootUp s1 else s1)

/-! ## Power (R532) -/

def execThermalThrottle (die : BitVec 2) (s : State) : Host.Outcome State Fault Refusal :=
  let d := { s.dev with hot := if s.dev.hot.contains die.toNat then s.dev.hot else die.toNat :: s.dev.hot }
  .next { s with dev := { d with tj := tjOf d d.tj } }
def execThermalThrottleRelease (die : BitVec 2) (s : State) : Host.Outcome State Fault Refusal :=
  let d := { s.dev with hot := s.dev.hot.filter (· != die.toNat) }
  .next { s with dev := { d with tj := tjOf d d.tj } }
/-- Within a millisecond the power limit makes hardware swallow enough pulses, at least one; how many is open (log 6). -/
def execPowerLimitThrottle (s : State) : Host.Outcome State Fault Refusal :=
  let (s1, v) := draw s
  .next { s1 with dev := { s1.dev with power := 1 + v % 255 } }
def execPowerLimitRelease (s : State) : Host.Outcome State Fault Refusal := .next { s with dev := { s.dev with power := 0 } }

end Sys2Proof.Machine
end

