-- ==== Sys2Proof/Machine/Pod.lean ====
section
/-! DEFINITION. Links (R176, R354, R406, R440, R526 to R528): the failure of a die-to-die link, the Quaylink ports, and the
flits that arrive on them. -/
namespace Sys2Proof.Machine

/-! ## Die-to-die links (R176) -/

/-- Does a link join the two dies? -/
def joins (a b x y : Nat) : Bool := (x == a && y == b) || (x == b && y == a)

/-- A die that a line's home no longer reaches is no holder of it, and asks for nothing. -/
def forget (lost : Nat) (e : DirEnt) : DirEnt :=
  let e1 := dropHold lost { e with sh := e.sh.filter (· != lost), queue := e.queue.filter (fun q => q.2 != lost) }
  { e1 with own := if e.own = some lost then none else e.own, opn := if e.opn.any (fun q => q.2 == lost) then none else e.opn }

def poisonLine (s : State) (line : Nat) : State := { s with poison := if s.poison.contains line then s.poison else line :: s.poison }

/-- A line whose home lies at one end of a failed link: its transactions complete at the home without the die at the other
end; what only that die held dirty, or had sent and not yet delivered, is poisoned. A line homed elsewhere loses only a
transaction between the two ends, with the dirty data that was on its way across (R176; DEDUCED, log 33). -/
def cutLine (a b : Nat) (s : State) (line : Nat) : State :=
  let h := keyHome line
  let e := dirAt s line
  let crosses (m : Msg) : Bool := m.line == line && joins a b m.src m.dst
  let onWay := s.msgs.any (fun m => m.kind == .dat && m.grant == 1 && crosses m)
  if h = a ∨ h = b then
    let lost := if h = a then b else a
    let dirty := holds e lost == 1 || holds e lost == 2 || onWay
      || s.msgs.any (fun m => m.kind == .dat && m.line == line && m.grant == 1 && m.dst == lost)
    let s1 := { s with msgs := s.msgs.filter (fun m => !(m.line == line && (m.src == lost || m.dst == lost))),
                       waits := s.waits.filter (fun w => !(w.line == line && w.req == lost)) }
    let s2 := settleLine (dieDrops (setDir s1 line (forget lost e)) line lost) line
    if dirty then poisonLine s2 line else s2
  else if e.opn.any (fun q => q.2 == a || q.2 == b) ∧ (s.msgs.any crosses ∨ e.own.any (fun o => o == a || o == b)
      ∨ e.sh.any (fun o => o == a || o == b)) then
    let s1 := { s with msgs := s.msgs.filter (fun m => m.line != line), waits := s.waits.filter (fun w => w.line != line) }
    let s2 := settleLine (setDir s1 line { e with opn := none }) line
    if onWay then poisonLine s2 line else s2
  else s

/-- Landings of a core that come from a die, or through a port, that is cut off complete with link-fault status (R144). -/
def cutLandings (other : Nat) (c : Core) : Core :=
  { c with pend := c.pend.map (fun e => match e.land with
    | some d => match (if d.arrived then none else d.src.find? (fun p => p.1 == other)) with
      | some p => { e with eff := .linkFault p.2, land := some { d with arrived := true } }
      | none => e
    | none => e) }

/-- Is the record on core n cut off from its stage's descriptor (R440)? -/
def cutOff (a b : Nat) (s : State) (n : Nat) : Bool :=
  let k := coreAt s n
  k.run.isSome && (stageDesc s k.cont.part k.cont.stg.toNat).any (fun d => joins a b (n / 64) (homeOf s d))

/-- Records that are cut off are suspended with link fault (R440). -/
def cutRecords (a b : Nat) (s : State) : State :=
  let me := s.coreNo
  focus ((List.range 256).foldl (fun t n =>
    if cutOff a b t n then
      takeTraps (focus t n) 0x13 0 0 (fun k => if cutOff a b t k then (0x13, 0, 0) else (0, 0, 0))
    else t) s) me

/-- Graphs whose walker, at the home of the header, cannot reach the descriptor of a bound stage (R440). -/
def cutGraphs (a b : Nat) (s : State) : State :=
  s.graphs.foldl (fun t g => match g.binds.find? (fun x => walkerCut t g x.1 && (stageDesc t g.part x.1).any (fun d => joins a b (homeOf t g.pa) (homeOf t d))) with
    | some x => graphFail t g 4 x.2
    | none => t) s

/-- Mailboxes whose sequence's die and controller the link joined (R406). -/
def cutMail (a b : Nat) (s : State) : State :=
  s.mbDie.foldl (fun t e => if joins a b e.2 (4 + epDie (mbEpid (mbGet t e.1))) then abortMail 5 t e.1 else t) s

/-- The die a router stands on, I/O dies included (R315). -/
def routerAt (r : Nat) : Nat := if r % 128 < 64 then r % 128 / 16 else r % 128 - 64

/-- DIE_LINK_FAILURE: the link between two dies fails; it stays failed. -/
def execDieLinkFailure (a b : Nat) (s : State) : Host.Outcome State Fault Refusal :=
  if a = b ∨ 6 ≤ a ∨ 6 ≤ b ∨ linkIsDown s a b then .next s
  else
    let s1 := { s with downLinks := (a, b) :: s.downLinks }
    let s2 := (s1.dir.map (·.1)).foldl (cutLine a b) s1
    let cut (n : Nat) (c : Core) : Core := if n / 64 = a then cutLandings b c else if n / 64 = b then cutLandings a c else c
    let s3 := { s2 with core := cut s2.coreNo s2.core, others := s2.others.map (fun e => (e.1, cut e.1 e.2)) }
    let s4 := mcAppend s3 2 (a + (b <<< 4)) 0 0 0 0
    let here (r : Nat) : Bool := r / 128 == s.dev.pod.toNat
    let s5 := freezeTrees s4 (fun x y => here x && here y && joins a b (routerAt x) (routerAt y))
    .next (cutMail a b (cutGraphs a b (cutRecords a b s5)))

/-! ## Routing (R527, R528) -/

/-- The neighbour of a package in a direction. -/
def neighbour (pk dir : Nat) : Nat :=
  let w := 16 ^ (2 - dir / 2)
  let x := pk / w % 16
  pk - x * w + (if dir % 2 = 0 then (x + 1) % 16 else (x + 15) % 16) * w

/-- The links a flit takes: package and port. -/
def routeOf (dst low : Nat) : Nat → Nat → List (Nat × Nat)
  | 0, _ => []
  | n + 1, here => match nextDir here dst with
    | some d => (here, 4 * d + low % 4) :: routeOf dst low n (neighbour here d)
    | none => []

/-- Does the link at port p of package `me` carry the route from one router to another? The router's number gives the
low bits of a tree flit's destination (log 20). -/
def portCarries (me p x y : Nat) : Bool :=
  x / 128 != y / 128 && (routeOf (y / 128) (y % 4) 24 (x / 128)).any (fun l =>
    l == (me, p) || l == (neighbour me (p / 4), 4 * (p / 4 / 2 * 2 + (1 - p / 4 % 2)) + p % 4))

/-! ## Ports (R526) -/

/-- QL_TRAIN: a write of QL_CTL with EN and TRAIN set. -/
def execQlTrain (p : Nat) (s : State) : Host.Outcome State Fault Refusal := .next (if p < 24 then qlCtl s p 3 else s)

/-- QL_ENABLE_WRITE: a write of QL_CTL that starts no training. -/
def execQlEnableWrite (p : Nat) (v : BitVec 64) (s : State) : Host.Outcome State Fault Refusal :=
  .next (if p < 24 then qlCtl s p (v.toNat % 2) else s)

/-- QL_TRAIN_COMPLETE: `lanes` has a bit for each lane that trained. -/
def execQlTrainComplete (p : Nat) (lanes : Nat) (s : State) : Host.Outcome State Fault Refusal :=
  let q := qlAt s p
  .next (if ¬(p < 24 ∧ q.st = 1) then s
    else if lanes % 16 = 15 then setQl s p { q with st := 2, lanes := 15 }
    else mcAppend (setQl s p { q with st := 0, lanes := BitVec.ofNat 4 lanes }) 3 p 0 0 0 0)

/-- QUAYLINK_PORT_DOWN: an up port goes down, or one that a write has disabled; accesses in flight through it complete with
link-fault status (R533), and trees that use its link freeze. -/
def execQuaylinkPortDown (p : Nat) (s : State) : Host.Outcome State Fault Refusal :=
  let q := qlAt s p
  if ¬(p < 24 ∧ (q.st = 2 ∨ s.dev.cut.contains p)) then .next s
  else
    let s1 := if q.st = 2 then setQl s p { q with st := 0, lanes := 0, down := true } else s
    let s2 := mcAppend { s1 with dev := { s1.dev with cut := s1.dev.cut.filter (· != p) } } 3 p 0 0 0 0
    let s3 := { s2 with core := cutLandings (16 + p) s2.core, others := s2.others.map (fun e => (e.1, cutLandings (16 + p) e.2)) }
    .next (freezeTrees s3 (fun x y => portCarries s.dev.pod.toNat p x y || portCarries s.dev.pod.toNat p y x))

/-! ## Flits (R167, R469, R527, R528) -/

/-- The bytes of a flit (R527) but for its FEC check, which no rule lays out; nor does one lay out what a payload holds. -/
def flitBytes (f : Flit) (payload : List Byte) : List Byte :=
  let head := leBytes 3 f.dst.toNat ++ leBytes 3 f.src.toNat ++ leBytes 2 f.ch.toNat ++ leBytes 4 f.lab.toNat ++ leBytes 4 f.seq.toNat
  let body := head ++ (payload ++ List.replicate 224 0).take 224
  body ++ leBytes 4 (crc32c body).toNat

/-- Pass a flit on. Where its port is not up, it is lost; a request then completes with link-fault status, a response without
bytes for its source (R533; DEDUCED, log 33). -/
def relay (s : State) (f : Flit) : State :=
  match sendFlit s f with
  | some t => t
  | none =>
    if bits f.ch.toNat 10 9 = 0 then
      (sendFlit s { f with dst := f.src, src := f.dst, ch := BitVec.ofNat 15 (f.ch.toNat % 512 + (2 <<< 9)), data := [], lab := 0 }).getD s
    else s

/-- The partition in whose name a request of partition `from_` of package xyz is served at pa (R167). -/
def windowPart (s : State) (xyz from_ pa : Nat) : Option Nat :=
  ((s.nwins.toList.find? (fun w => w.en && w.x.toNat * 256 + w.y.toNat * 16 + w.z.toNat == xyz && w.rpart.toNat == from_
    && inPart s w.part.toNat pa)).map (fun w => w.part.toNat))

/-- The operations of R105 by number, in its order. -/
def amoOf (op size old x y : Nat) : Nat :=
  match op with
  | 0 => old + x
  | 1 => old &&& x
  | 2 => old ||| x
  | 3 => old ^^^ x
  | 4 => if sgn (8 * size) old < sgn (8 * size) x then old else x
  | 5 => if sgn (8 * size) old < sgn (8 * size) x then x else old
  | 6 => min old x
  | 7 => max old x
  | 8 => x
  | _ => if old = y then x else old

/-- The answer to a remote package's request: bytes under their label, none for a refused completion. -/
def remoteReply (s : State) (dst src : BitVec 20) (ch : BitVec 15) (part pa : Nat) (data : List Byte) (l : Label) : State :=
  relay s ⟨0, src, dst, BitVec.ofNat 15 (ch.toNat % 512 + (2 <<< 9) + (part <<< 11)), BitVec.ofNat 56 pa, data, l, 0⟩

/-- Bytes of partition `part` leave for the package that asked for them, if the gate passes their label (R469, R471). -/
def remoteData (s : State) (dst src : BitVec 20) (ch : BitVec 15) (part pa n : Nat) : Option State :=
  let l := (linesOf pa n).foldl (fun l a => l ||| lineLabel s (frameLabel s a) a) 0
  match gate s part l (.peer (src.toNat / 256) (bits ch.toNat 14 11)) with
  | none => none
  | some out => some (remoteReply s dst src ch part pa (leBytes n (readPa s pa n)) out)

/-- A remote package's access, performed at the home of its address as a non-caching requester (R167 to R169). In the
model's naming of requests (log 33) no bytes ask for a line, up to 128 bytes are written with the flit's label, and a longer
payload is an atomic: operation, size, and at bytes 8 and 16 its operands. What is not allowed completes refused. -/
def remoteAccess (s : State) (dst src : BitVec 20) (ch : BitVec 15) (pa : Nat) (data : List Byte) (lbl : Label) : State :=
  let n := data.length
  match (if isMem pa then windowPart s (src.toNat / 256) (bits ch.toNat 14 11) pa else none) with
  | none => remoteReply s dst src ch 0 pa [] 0
  | some part =>
    let refused (t : State) : State := remoteReply t dst src ch part pa [] 0
    if n = 0 then
      let a := pa / 128 * 128
      if isPoisoned s a 128 then s
      else (remoteData s dst src ch part a 128).getD (refused (countRefusal s part (lineLabel s (frameLabel s a) a)))
    else if n ≤ 128 then
      if ¬inPart s part (pa + n - 1) then refused s else if isPoisoned s pa n then s else engWr s pa n (ofLe data) lbl
    else
      let x := ofLe data
      let size := if x / 256 % 256 = 4 then 4 else 8
      let m := 2 ^ (8 * size)
      if pa % size ≠ 0 then refused s
      else if isPoisoned s pa size then s
      else match remoteData s dst src ch part pa size with
        | none => refused (countRefusal s part (lineLabel s (frameLabel s pa) pa))
        | some t => engWr t pa size (amoOf (x % 256) size (readPa s pa size) (x / 2 ^ 64 % m) (x / 2 ^ 128 % m) % m)
            (lbl ||| lineLabel s (frameLabel s pa) pa)

/-! ## Tree flits (R353, R527) -/

/-- What of a tree a flit of class 3 from another package may complete: the row of a node there whose parent is here, or the
result of a top node there; a member's exchange; a member's arrival at the barrier; a multicast to a member here. -/
inductive FromAway where
  | row (n j : Nat)
  | shard (n i : Nat)
  | bar (i : Nat)
  | mcast (i : Nat)
  deriving DecidableEq, Repr

/-- Have the rows and posts of this package that node j pulls, all been pulled? -/
def sentAll (s : State) (e : TEnt) (h : Shape) (n j : Nat) : Bool :=
  (List.zipIdx (h.order j)).all (fun c => match c.1 with
    | .node i => h.pkg i != s.dev.pod.toNat || isAbsent e h n (.node i) || decide (c.2 < ((treeAt s e).recAt j n).next)
    | .mem _ => true)

/-- What flits of package pkg may complete in a tree of partition `part`. -/
def awayCands (s : State) (pkg part : Nat) : List (TEnt × FromAway) :=
  s.trees.flatMap (fun x =>
    let e := readEnt s (x.1 / 2 ^ 20) (x.1 % 2 ^ 20)
    if e.st ≠ 2 ∨ e.part ≠ part then []
    else
      let h := entShape s e
      let t := treeAt s e
      let here (p : Nat) : Bool := p / 256 == s.dev.pod.toNat
      let mem (i : Nat) : Nat := mbEp (h.mems.getD i 0)
      let segs := [e.cur, e.cur + 1].filter (fun n => !t.aborted.contains n)
      let rows (n : Nat) : List FromAway := ((List.range e.ncnt).filter (fun j => h.pkg j == pkg && !(t.recAt j n).done
        && !isAbsent e h n (.node j) && sentAll s e h n j && (j == h.top || h.pkg (ndPn (h.node j)) == s.dev.pod.toNat))).map (.row n)
      let shards (n : Nat) : List FromAway := ((List.range e.mcnt).filter (fun i => mem i / 256 == pkg && isMember e h n i
        && !bit (t.postedIn e n) i)).map (.shard n)
      let bars : List FromAway := ((List.range e.mcnt).filter (fun i => mem i / 256 == pkg && mbPr (h.mems.getD i 0)
        && !t.bars.any (fun b => b.core == 2 ^ 20 + mem i))).map .bar
      let casts : List FromAway := if e.op = 6 ∧ e.root / 256 = pkg then
          ((List.range e.mcnt).filter (fun i => here (mem i) && mbPr (h.mems.getD i 0))).map .mcast
        else []
      (segs.flatMap (if e.op = 10 then shards else rows) ++ bars ++ casts).map (fun w => (e, w)))

/-- A tree's segment n has had a post (R335). -/
def postedTo (s : State) (e : TEnt) (n : Nat) : State := writeEnt s { (e.withFl 4 true) with hi := max e.hi (n + 1) }

/-- What a flit from another package completes, under the flit's label; every value it brings is free (log 33). -/
def fromAway (s : State) (l : Label) (e : TEnt) : FromAway → State
  | .row n j =>
    let u := strangeRow s e n j l
    advanceTree 3 (postedTo (setTree u e (doneAway s e (entShape s e) ((treeAt u e).recAt j n) (treeAt u e))) e n) e.part e.idx
  | .shard n i =>
    let (s1, x) := draw s
    let t := (treeAt s e).markPost e n i
    let p : TPost := ⟨n, 2 ^ 20 + mbEp ((entShape s e).mems.getD i 0), 0, 0, s1.fresh, l, false, if x % 2 = 0 then [] else [0], false⟩
    postedTo (setTree { s1 with fresh := s1.fresh + 2 ^ 64 } e { t with posts := t.posts ++ [p] }) e n
  | .bar i =>
    let t := treeAt s e
    barCheck (setTree s e { t with bars := t.bars ++ [⟨2 ^ 20 + mbEp ((entShape s e).mems.getD i 0), 2 ^ 56 - 1, l⟩] }) e
  | .mcast i =>
    let r := mbEp ((entShape s e).mems.getD i 0) % 256
    let (s1, x) := draw s
    let (s2, v) := freeBytes s1 128
    let t := focus s2 r
    match (if ownerOf s r = some e.part then stashVa t.core (128 * (x % 16384)) 128 else none) with
    | some va => match cmdWr { t with core := unwritten t.core } ⟨t.core.svf.getD 0, e.part, 0, true⟩ va 128 v l with
      | .ok t1 => focus (countWrites none t t1) s.coreNo
      | .error _ => s2
    | none => s2

/-- A flit of class 3 for this package. No rule lays out its payload: which tree it serves, what it completes there, if anything,
and the bytes it brings are free values (log 33). -/
def treeFlit (s : State) (src : BitVec 20) (ch : BitVec 15) (l : Label) : State :=
  let c := awayCands s (src.toNat / 256) (bits ch.toNat 14 11)
  let (s1, x) := draw s
  match (c.drop (x % (c.length + 1))).head? with
  | some (e, w) => fromAway s1 l e w
  | none => s1

/-- QUAYLINK_FLIT: a flit that a port has received. One for another package goes on; a request for this one is performed, and what
carries trees joins their segments; responses are part of the steps that asked. -/
def execQuaylinkFlit (p : Nat) (dst src : BitVec 20) (ch : BitVec 15) (addr : BitVec 56) (data : List (BitVec 8)) (lbl : Label) (s : State) :
    Host.Outcome State Fault Refusal :=
  .next (if ¬(p < 24 ∧ (qlAt s p).st = 2) ∨ 224 < data.length then s
    else if dst.toNat / 256 ≠ s.dev.pod.toNat then relay s ⟨0, dst, src, ch, addr, data, lbl, 0⟩
    else if bits ch.toNat 10 9 = 0 then remoteAccess s dst src ch addr.toNat data lbl
    else if bits ch.toNat 10 9 = 3 ∧ src.toNat / 256 ≠ s.dev.pod.toNat then treeFlit s src ch lbl
    else s)

end Sys2Proof.Machine
end

