-- ==== Sys2Proof/Machine/Events.lean ====
section
/-! DEFINITION. Events of a tile core (R27, R29, R119, R122, R130, R34), the completion of its commands (R200, R220, R474)
and the register writes that are steps of their own (R77, R194, R227, R297, R355, R466). They concern the core in focus. -/
namespace Sys2Proof.Machine

/-! ## Landings and freezes -/

/-- Is the data of this landing still to come? -/
def Pend.late (e : Pend) : Bool := match e.land with
  | some d => !d.arrived
  | none => false

/-- The data of a landing has arrived. -/
def Pend.arrive (e : Pend) : Pend := { e with land := e.land.map (fun d => { d with arrived := true }) }

/-- LANDING_ARRIVAL: the data of the k-th effect in flight, if that is a landing still to come. -/
def execLandingArrival (k : Nat) (s : State) : Host.Outcome State Fault Refusal :=
  .next (match s.core.pend[k]? with
    | some e => if e.late then { s with core := { s.core with pend := s.core.pend.set k e.arrive } } else s
    | none => s)

/-- TR_INFO and TR_ADDR of a landing timeout on a core (R29, R135): its late request, or the wait that held its group.
For a core without a late request the spec names no address: the model puts that of its group (DESIGN CHOICE, log 22). -/
def timeoutInfo (c : Core) : Nat × Nat × Nat :=
  match c.pend.find? (fun e => e.late && decide (e.due ≤ c.tick)) with
  | some e => match e.land with
    | some d => (9, d.reg.toNat + (d.cls.toNat <<< 5) + (d.entry <<< 8), d.word.toNat)
    | none => (9, 0, c.pc.toNat)
  | none => (9, if c.waiting then 1 <<< 16 else 0, c.pc.toNat)

/-- Has the domain been frozen beyond the limit (R29)? -/
def timedOut (c : Core) : Bool := c.run.isSome && decide (65536 < c.frozen)

/-- LANDING_TIMEOUT: every continuation of the domain traps. -/
def execLandingTimeout (s : State) : Host.Outcome State Fault Refusal :=
  let (c, i, a) := timeoutInfo s.core
  .next (if timedOut s.core then takeTraps s c i a (fun n => timeoutInfo (coreAt s n)) else s)

/-- SAFE_POINT_OVERRUN: the group at the pc would issue at a distance of 4,097 (R130, R135). -/
def execSafePointOverrun (s : State) : Host.Outcome State Fault Refusal :=
  .next (if s.core.run.isSome ∧ 4097 ≤ s.core.cont.dist then takeTrap s 0x16 (s.core.cont.spx.toNat + (4097 <<< 16)) s.core.pc.toNat else s)

/-- TRAP: the group at the pc raises cause c with this TR_INFO and TR_ADDR (R34). -/
def execTrap (c : BitVec 8) (info : BitVec 64) (addr : Addr) (s : State) : Host.Outcome State Fault Refusal :=
  .next (if s.core.run.isSome then takeTrap s c.toNat info.toNat addr.toNat else s)

/-- SPIN_SUSPEND (R122). -/
def execSpinSuspend (s : State) : Host.Outcome State Fault Refusal :=
  .next (match (if s.core.run.isSome then spinSuspend s else none) with
    | some t => wakeNew s t
    | none => s)

/-- HELD_GROUP_ISSUE: the held group of the core is tried in the very next step, which issues it if its condition holds
(R122). -/
def execHeldGroupIssue (s : State) : Host.Outcome State Fault Refusal :=
  .next (if s.core.run.isSome ∧ s.core.mark = .held then { s with agenda := .core s.coreNo :: s.agenda } else s)

/-- BARRIER_ARRIVAL: an arrival of a record of VF vf reaches unit n (R119); it brings no label of its own. -/
def execBarrierArrival (n : BitVec 4) (vf : BitVec 9) (s : State) : Host.Outcome State Fault Refusal :=
  .next { s with core := arriveAt s.core n vf.toNat 0 }

/-! ## Commands -/

/-- The work of a command that its engine ends by itself; posts, takes and exchanges end with their trees, moves frame by
frame. -/
def runCmd (s : State) (c : Cmd) : Option Ending :=
  match c.kind with
  | .copy => some (runCopy s c)
  | .ldt => some (runCopy s c)
  | .stt => some (runCopy s c)
  | .fill => some (runRange s c)
  | .flush => some (runRange s c)
  | .inval => some (runRange s c)
  | .unmap => some (runUnmap s c)
  | .wfill => some (runWfill s c)
  | .ovl => some (runOvl s c)
  | .spill => some (runSpill s c)
  | .unspill => some (runSpill s c)
  | .mcast => some (runMcast s c)
  | .send => some ⟨s, c, none, none⟩
  | .recv => some (runRecv s c)
  | .install => some (runInstall s c)
  | .apply => some (runApply s c)
  | .post => none
  | .take => none
  | .reshard => none
  | .move => none
  | .aborted => some (runAborted s c)

/-- Is the command the first multicast in flight on its core, or none? Those of one root reach each member in issue order
(R347). -/
def mcastFirst (c : Core) (d : Cmd) : Bool := d.kind != .mcast || c.cmds.find? (fun e => e.kind == .mcast) == some d

/-- May a command end now? Its tick 2 has come (R200), or its domain stands frozen at an earlier tick: no tick counts in a
freeze (R27), and a tag wait in the next group still ends, as the overlay loader of R221's example shows (DEDUCED, log 22). -/
def cmdMayEnd (c : Core) (d : Cmd) : Bool :=
  (decide (d.due ≤ c.tick) || c.frozen != 0) && decide (d.again ≤ c.ltime) && mcastFirst c d

/-- Is a command of this context and tag in flight? -/
def inFlightTag (c : Core) (d : Cmd) : Bool := c.cmds.any (fun e => e.ctx == d.ctx && e.tag == d.tag)

/-- A command's work, then with REL = 1 what it wrote to stash lines is written back (R185, R193), then its completion. -/
def runRel (s : State) (c : Cmd) : Option State :=
  (runCmd { s with core := unwritten s.core } c).map (fun e => { e with state := wroteBack c (s.core.ctxAt c.ctx).owner s e.state }.close)

/-- Command k of the core ends, if it may. One whose write is held (R336) has done nothing yet, keeps its place, and is
tried again in a later cycle. -/
def completeCmd (s : State) (k : Nat) (which : CmdKind → Bool) : State :=
  match s.core.cmds[k]? with
  | some c =>
    if which c.kind ∧ cmdMayEnd s.core c then
      match runRel { s with core := { s.core with cmds := s.core.cmds.eraseIdx k } } c with
      | some t => if inFlightTag t.core c then
          { s with core := { s.core with cmds := s.core.cmds.set k { c with again := s.core.ltime + 4 } } }
        else latchTasks t
      | none => s
    else s
  | none => s

/-- COMMAND_COMPLETION. -/
def execCommandCompletion (k : Nat) (s : State) : Host.Outcome State Fault Refusal := .next (completeCmd s k (fun _ => true))

/-- OVERLAY_LOAD_COMPLETE (R220). -/
def execOverlayLoadComplete (s : State) : Host.Outcome State Fault Refusal :=
  .next (match s.core.cmds.findIdx? (fun c => c.kind == .ovl) with
    | some k => completeCmd s k (· == .ovl)
    | none => s)

/-- POLICY_INSTALL_COMPLETE (R474). -/
def execPolicyInstallComplete (k : Nat) (s : State) : Host.Outcome State Fault Refusal := .next (completeCmd s k (· == .install))

/-! ## Register writes -/

/-- A write of a system register takes effect, unless something holds it back. -/
def sysEvent (s : State) (n : Nat) (v : Word) (l : Label) : State := if (sysHold s n v).isSome then s else sysWrite s n v l

/-- CP_CSZ_WRITE (R194). -/
def execCpCszWrite (v : BitVec 64) (s : State) : Host.Outcome State Fault Refusal := .next (sysEvent s 0x101 v 0)
/-- FP_SEED_WRITE (R77). -/
def execFpSeedWrite (v : BitVec 64) (lbl : Label) (s : State) : Host.Outcome State Fault Refusal := .next (sysEvent s 0x802 v lbl)
/-- FP_VCFG_WRITE (R227, R466). -/
def execFpVcfgWrite (v : BitVec 64) (lbl : Label) (s : State) : Host.Outcome State Fault Refusal :=
  .next (sysEvent { s with core := s.core.joinCl lbl } 0x804 v lbl)
/-- FP_MODE_WRITE (R466). -/
def execFpModeWrite (v : BitVec 64) (lbl : Label) (s : State) : Host.Outcome State Fault Refusal :=
  .next (sysEvent { s with core := s.core.joinCl lbl } 0x800 v lbl)
/-- MX_POOL_WRITE (R297). -/
def execMxPoolWrite (v : BitVec 64) (s : State) : Host.Outcome State Fault Refusal := .next (sysEvent s 0x003 v 0)
/-- CL_RING_WRITE (R355). -/
def execClRingWrite (v : BitVec 64) (s : State) : Host.Outcome State Fault Refusal := .next (sysEvent s 0x202 v 0)

end Sys2Proof.Machine
end

