-- ==== Sys2Proof/Machine/Media.lean ====
section
/-! DEFINITION. The media decode engines (R507 to R516): command rings, decoding as the codec's open answers (log 7),
conversion, patches and delivery. An engine's accesses are made for its stream's VF with privilege U, as a non-caching
requester (R169, R508; log 18). -/
namespace Sys2Proof.Machine

/-- The number of context c of engine e (R525). -/
def ctxNo (e c : BitVec 4) : Nat := 16 * e.toNat + c.toNat
def MediaCtx.who (m : MediaCtx) : Who := ⟨m.vf, m.part, 0, false⟩

/-! ## How a command stops (R515) -/

/-- How an output stopped: the status, the failing address, and the label of data a gate refused. A stash line that meets its
core's own unpulled contribution stops nothing: the write waits for the post (R336). -/
structure MFail where
  st : Nat
  fa : Nat
  lab : Label := 0
  wait : Bool := false
  deriving DecidableEq, Repr

def mfailOf (e : AErr) (a : Nat) : MFail :=
  match e with
  | .label _ => ⟨4, 0, 0, false⟩
  | .gate _ l _ => ⟨4, 0, l, false⟩
  | .stash _ => ⟨5, 0, 0, false⟩
  | .held => ⟨0, 0, 0, true⟩
  | _ => ⟨3, a, 0, false⟩

/-! ## Stream descriptor and ring (R508) -/

/-- The stream descriptor with its labels; none when it cannot be read. -/
def streamOf (s : State) (m : MediaCtx) : Option (State × Nat × Label) := (readBytes s m.who m.desc.toNat 64).toOption
/-- What the walks of a descriptor's read set (R153). -/
def streamMark (s : State) (m : MediaCtx) : State := markSpan s m.who m.desc.toNat 64 .read
/-- Write a field of the descriptor; a failure with what its walks have set (R153). -/
def streamPut (m : MediaCtx) (off n v : Nat) (s : State) : Except (State × MFail) State :=
  let a := (m.desc.toNat + off) % 2 ^ 72
  (writeBytes s m.who a n v 0).mapError (fun e => (markSpan s m.who a n .write, mfailOf e.1 e.2))
/-- A state that is another only by what walks have set (R153): none when they have set nothing. -/
def walksOnly (s t : State) : Option State := if t.mem = s.mem then none else some t
/-- LBL and CORRUPT of a descriptor d become 0, as far as they can be written (R510). -/
def streamClear (m : MediaCtx) (d : Nat) (s : State) : State :=
  let go (off n v : Nat) (t : State) : State := match streamPut m off n v t with
    | .ok u => u
    | .error e => e.1
  go 0x14 4 0 (go 9 1 (rf d 9 1 % 2) s)
/-- The resets by a change of VF that the descriptors have yet to show (R525). -/
def clearStreams (s : State) (k : Nat) : State :=
  let m := mediaAt s k
  m.clear.foldl (fun t c =>
    let o := { m with vf := c.1, part := c.2.1, desc := c.2.2 }
    match streamOf t o with
    | some (u, d, _) => streamClear o d u
    | none => streamMark t o) (setMedia s k { m with clear := [] })
/-- The labels of n bytes, as far as they can be read from the first on. -/
def leadLabel (s : State) (w : Who) : Nat → Nat → Nat → Label
  | 0, _, _ => 0
  | k + 1, va, n =>
    let c := min n (128 - va % 128)
    match readVa s w va c .read with
    | .error _ => 0
    | .ok (t, _, l) => l ||| leadLabel t w k ((va + c) % 2 ^ 72) (n - c)

/-! ## The command (R510) -/

def mcOp (x : Nat) : Nat := rf x 0 1
def mcCodec (x : Nat) : Nat := rf x 1 1
def mcFmt (x : Nat) : Nat := rf x 2 1 % 16
def mcRm (x : Nat) : Nat := bits (rf x 2 1) 6 4
/-- The side of a patch. -/
def mcSide (x : Nat) : Nat := 8 * 2 ^ (rf x 3 1 % 4)
def mcStash (x : Nat) : Bool := bit (rf x 3 1) 2
def mcTv (x : Nat) : Bool := bit (rf x 3 1) 3
def mcTag (x : Nat) : Nat := rf x 0x11 1 % 64
def mcPitch (x : Nat) : Nat := 64 * rf x 0x12 2
def mcCrop (x k : Nat) : Nat := rf x (0x14 + 2 * k) 2
def mcDst (x : Nat) : Nat := rf x 0x20 9
/-- A stash destination's core and byte offset. -/
def mcCore (x : Nat) : Nat := rf x 0x20 1
def mcSo (x : Nat) : Nat := 128 * bits (rf x 0x20 9) 21 8
def mcCpl (x : Nat) : Nat := rf x 0x30 9
/-- Bytes of an output element, and of a patch row. -/
def mcEl (x : Nat) : Nat := fmtWidth (mcFmt x) / 8
def mcRow (x : Nat) : Nat := 3 * mcSide x * mcSide x * mcEl x

/-- Is the command malformed for the stream of partition p (R510, R513, R515)? Flush and reset read fewer fields; reserved
bits and bytes are ignored (R10). -/
def mediaBad (s : State) (p x : Nat) : Bool :=
  mcOp x == 0 || decide (3 < mcOp x) || mcCpl x % 32 != 0 || (mcTv x && !mcStash x) || (mcStash x && ownerOf s (mcCore x) != some p)
  || (mcOp x != 3 && !mcStash x && mcDst x % 64 != 0)
  || (mcOp x == 1 && (decide (4 < mcFmt x) || decide (4 < mcRm x) || rf x 3 1 % 4 == 3 || decide (mcPitch x < mcRow x) || (mcCrop x 2 == 0) != (mcCrop x 3 == 0)
    || rf x 0x3A 2 == 0 || rf x 0x3C 2 == 0))

/-- The next command of a context's ring, taken (R508): none when there is none to take and the walks of looking for one set
nothing (R153). An entry whose command cannot be
read is taken, and nothing else happens; one whose V or HEAD cannot be written is not taken; a descriptor address that is
not aligned takes none (R525). A reset that the descriptor has yet to show comes first. -/
def mediaTake (s : State) (k : Nat) : Option State :=
  let m := mediaAt s k
  if m.clear ≠ [] then some (clearStreams s k)
  else if ¬m.v ∨ m.cmd.isSome then none
  else if m.desc.toNat % 64 ≠ 0 then (if m.last = 6 then none else some (setMedia s k { m with last := 6 }))
  else match streamOf s m with
    | none => walksOnly s (streamMark s m)
    | some (s1, d, dl) =>
      let cap := rf d 0xA 2
      let head := rf d 0xC 4
      let ea := (rf d 0 9 + 16 * (head % max 1 cap)) % 2 ^ 72
      if ¬bit (rf d 9 1) 0 ∨ cap < 16 ∨ 4096 < cap then walksOnly s s1
      else match readBytes s1 m.who ea 16 with
        | .error _ => walksOnly s (markSpan s1 m.who ea 16 .read)
        | .ok (s2, e, _) =>
          let marked (t : State) : State := markSpan t m.who ((ea + 9) % 2 ^ 72) 1 .write
          if ¬bit e 72 then walksOnly s s2
          else match writeBytes s2 m.who ((ea + 9) % 2 ^ 72) 1 (rf e 9 1 - 1) 0 with
            | .error _ => walksOnly s (marked s2)
            | .ok s3 => match streamPut m 0xC 4 (head + 1) s3 with
              | .error _ => walksOnly s (markSpan (marked s2) m.who ((m.desc.toNat + 0xC) % 2 ^ 72) 4 .write)
              | .ok s4 =>
              let va := rf e 0 9
              some (if va % 128 ≠ 0 then s4
              else match readBytes s4 m.who va 128 with
                | .error _ => markSpan s4 m.who va 128 .read
                | .ok (s5, x, l) =>
                  let bad := mediaBad s5 m.part x
                  let dec := mcOp x == 1
                  let l1 := if dec then l else l ||| dl ||| BitVec.ofNat 32 (rf d 0x14 4)
                  setMedia s5 k { m with cmd := some ⟨BitVec.ofNat 1024 x, l1, bad && !dec, if bad then 6 else 0, 0, 0, 0, bad⟩ })

/-- MEDIA_ENTRY_TAKE. -/
def execMediaEntryTake (e c : BitVec 4) (s : State) : Host.Outcome State Fault Refusal := .next ((mediaTake s (ctxNo e c)).getD s)

/-! ## Pixels and patches (R511, R512) -/

/-- The conversion of one pixel for one channel, before rounding. -/
def pixelValue (x : Nat) (y cb cr : Nat) (c : Nat) : Fv :=
  let f (o : Nat) : Fv := decodeF fmtF32 (rf x o 4)
  let t (v off div : Nat) : Fv := .fin (decide (v < off)) ((v : Int) - off).natAbs div
  let ts := [t y (rf x 0x7C 2) (rf x 0x3A 2), t cb (rf x 0x7E 2) (rf x 0x3C 2), t cr (rf x 0x7E 2) (rf x 0x3C 2)]
  let sum : Fv := ((List.range 3).map (fun j => ((f (0x40 + 4 * (3 * c + j))).mul (ts.getD j (Fv.fin false 0 1))).1)).foldl
    (fun (a b : Fv) => (a.add false b).1) (Fv.fin false 0 1)
  ((sum.add false (f (0x64 + 4 * c)).neg).1.mul (f (0x70 + 4 * c))).1

/-- A frame's crop: X0, Y0, CW, CH. -/
def cropOf (x w h : Nat) : Nat × Nat × Nat × Nat :=
  if mcCrop x 2 = 0 ∧ mcCrop x 3 = 0 then (0, 0, w, h) else (mcCrop x 0, mcCrop x 1, mcCrop x 2, mcCrop x 3)

/-- A decoded frame's sample: its bit depth is 8 to 10 (R507), so the coded value has no more bits. -/
def sampleOf (f : Nat × Nat) (k a b : Nat) : Nat := (Config.mediaSample f.2 k a b).toNat % 2 ^ Config.mediaDepth f.1

/-- Element (c, y, x) of a patch of frame n (R511, R512). -/
def patchEl (x : Nat) (n : Nat × Nat) (crop : Nat × Nat × Nat × Nat) (px py j : Nat) : Nat :=
  let p := mcSide x
  let c := j / (p * p)
  let v := py * p + j / p % p
  let u := px * p + j % p
  let (x0, y0, cw, ch) := crop
  let val : Fv :=
    if u < cw ∧ v < ch then
      let s := sampleOf n
      pixelValue x (s 0 (x0 + u) (y0 + v)) (s 1 ((x0 + u) / 2) ((y0 + v) / 2)) (s 2 ((x0 + u) / 2) ((y0 + v) / 2)) c
    else decodeF fmtF32 (rf x 0x1C 4)
  (roundTo false (mcFmt x) val (mcRm x) 0).1

/-- Row r of the output as one number. -/
def patchRow (x : Nat) (n : Nat × Nat) (crop : Nat × Nat × Nat × Nat) (npx r : Nat) : Nat :=
  let w := 8 * mcEl x
  (List.range (3 * mcSide x * mcSide x)).foldr (fun j acc => patchEl x n crop (r % npx) (r / npx) j % 2 ^ w + (acc <<< w)) 0

/-! ## Delivery (R513) -/

/-- One piece of at most 128 bytes, within a line, into the stash of core n: a store of that core through the window that
covers the offset, but a write of no continuation's (R183); one that fails leaves what its walk has set (R153). -/
def stashPiece (m : MediaCtx) (l : Label) (core off n v : Nat) (s : State) : Except (State × MFail) State :=
  let me := s.coreNo
  let t := focus s core
  let win := t.core.maps.toList.findSome? (fun o => match o with
    | some e => if e.closing = false ∧ e.so ≤ off ∧ off + n ≤ e.so + e.len then some (e.vbase.toNat + (off - e.so)) else none
    | none => none)
  match win with
  | none => .error (s, ⟨5, 0, 0, false⟩)
  | some va =>
    if t.core.svf ≠ some m.vf then .error (s, ⟨5, 0, 0, false⟩)
    else match writeVa { t with core := unwritten t.core } { m.who with tile := true } va n v l 0 with
      | .error e => .error (focus (markSpan t { m.who with tile := true } va n .write) me, mfailOf e va)
      | .ok u => .ok (focus (countWrites none t u) me)

/-- Write n bytes at a destination, piece by piece within lines; before a piece that fails those that were written stay, and what
its walk has set (R153, R513, R515). -/
def deliver (m : MediaCtx) (l : Label) (stash : Bool) (core : Nat) : Nat → Nat → Nat → Nat → State → Except (State × MFail) State
  | 0, _, _, _, s => .ok s
  | k + 1, at_, n, v, s =>
    let c := min n (128 - at_ % 128)
    match (if stash then stashPiece m l core at_ c (v % 2 ^ (8 * c)) s
      else match writeVa s m.who at_ c (v % 2 ^ (8 * c)) l 0 with
        | .error e => .error (markSpan s m.who at_ c .write, mfailOf e at_)
        | .ok t => .ok t) with
    | .error e => .error e
    | .ok t => deliver m l stash core k (if stash then at_ + c else (at_ + c) % 2 ^ 72) (n - c) (v >>> (8 * c)) t

/-- Rows r and up of frame n, as many as c. -/
def frameRows (m : MediaCtx) (l : Label) (x y : Nat) (n : Nat × Nat) (base npx : Nat) (crop : Nat × Nat × Nat × Nat) : Nat → Nat → State → State × Option MFail
  | 0, _, t => (t, none)
  | c + 1, r, t =>
    let a := if mcStash y then base + mcPitch x * r else (base + mcPitch x * r) % 2 ^ 72
    match deliver m l (mcStash y) (mcCore y) (lineCount a (mcRow x)) a (mcRow x) (patchRow x n crop npx r) t with
    | .error e => (e.1, some e.2)
    | .ok u => frameRows m l x y n base npx crop c (r + 1) u

/-- Output frame n with the conversion of x at the destination of y, the k-th frame of the command; the lines that were
written stay. -/
def frameOut (m : MediaCtx) (l : Label) (x y : Nat) (n : Nat × Nat) (k : Nat) (s : State) : State × Option MFail :=
  let w := Config.mediaWidth n.1
  let h := Config.mediaHeight n.1
  let crop := cropOf x w h
  let npx := divUp crop.2.2.1 (mcSide x)
  let npy := divUp crop.2.2.2 (mcSide x)
  if w < crop.1 + crop.2.2.1 ∨ h < crop.2.1 + crop.2.2.2 then (s, some ⟨6, 0, 0, false⟩)
  else frameRows m l x y n ((if mcStash y then mcSo y else mcDst y) + k * (npx * npy * mcPitch x)) npx crop (npx * npy) 0 s

/-- The held frame that is next in display order. -/
def nextFrame (held : List (Nat × Nat)) : Option (Nat × Nat) :=
  held.foldl (fun b n => match b with
    | some x => if (Config.mediaNumber n.1).toNat < (Config.mediaNumber x.1).toNat then some n else some x
    | none => some n) none

/-- Record the end of a command's work. -/
def mediaEnd (s : State) (k : Nat) (c : MediaCmd) (f : Option MFail) : State :=
  let s := match f with
    | some e => if e.lab ≠ 0 then countRefusal s (mediaAt s k).part e.lab else s
    | none => s
  setMedia s k { mediaAt s k with cmd := some { c with finished := true, st := (f.map (·.st)).getD 0, fa := (f.map (·.fa)).getD 0 } }

/-- The command in progress, if it still has to run and asks for op. -/
def mediaCmd (s : State) (k op : Nat) : Option MediaCmd :=
  match (mediaAt s k).cmd with
  | some c => if ¬c.finished ∧ mcOp c.img.toNat = op then some c else none
  | none => none

/-- The profiles and the highest level, times ten, that R507's table gives a codec. -/
def codecProfiles : Nat → List Config.Profile
  | 0 => [.constrainedBaseline, .main, .high]
  | 1 => [.main, .main10]
  | 2 => [.profile0, .profile2]
  | 3 => [.main]
  | _ => []
def codecLevel (codec : Nat) : Nat := if codec = 0 then 52 else 61

/-- The status of decoding unit u of a codec before any output: CORRUPT waits for a random-access point, then the unit must be
well formed, and within the limits of R507 and the reference memory, in 64 KiB units (R515). An AVC profile of R507 has
8-bit samples, the others at most 10. -/
def unitStatus (u codec refs : Nat) (corrupt : Bool) : Nat :=
  if corrupt ∧ ¬(codec ≤ 3 ∧ Config.mediaRap u) then 1
  else if 3 < codec then 2
  else if ¬Config.mediaFormed u then 1
  else if ¬(codecProfiles codec).contains (Config.mediaProfile u) ∨ codecLevel codec < Config.mediaLevel u ∨ Config.mediaField u ∨ ¬Config.mediaHalf u ∨ (if codec = 0 then 8 else 10) < Config.mediaDepth u
    ∨ 8192 < Config.mediaWidth u ∨ 4352 < Config.mediaHeight u ∨ refs < Config.mediaRefs u then 2
  else 0

/-- The reads of reference memory at base, of size bytes, that a unit makes; a span outside it is not read (R508). -/
def refsRead (m : MediaCtx) (base size : Nat) : List (Nat × Nat) → State → Except (State × MFail) (State × List Nat)
  | [], s => .ok (s, [])
  | (o, n) :: r, s =>
    if size < o + n then refsRead m base size r s
    else match readBytes s m.who ((base + o) % 2 ^ 72) n with
      | .error e => .error (markSpan s m.who ((base + o) % 2 ^ 72) n .read, mfailOf e.1 e.2)
      | .ok (t, v, _) => (refsRead m base size r t).map (fun p => (p.1, v :: p.2))

/-- The writes of reference memory that a unit makes, with the label of its output; the writes before a failure stay. -/
def refsWrite (m : MediaCtx) (base size : Nat) (l : Label) : List (Nat × Nat × Nat) → State → State × Option MFail
  | [], s => (s, none)
  | (o, n, v) :: r, s =>
    if size < o + n then refsWrite m base size l r s
    else match writeBytes s m.who ((base + o) % 2 ^ 72) n (v % 2 ^ (8 * n)) l with
      | .error e => (markSpan s m.who ((base + o) % 2 ^ 72) n .write, some (mfailOf e.1 e.2))
      | .ok t => refsWrite m base size l r t

/-- Decode unit u for command q with descriptor bytes d: references, then CORRUPT, then the frame that becomes available
(R508, R510, R515); without one, nothing is output. -/
def decodeUnit (k : Nat) (m : MediaCtx) (q : MediaCmd) (d u : Nat) (s : State) : State × MediaCmd × Option MFail :=
  let base := rf d 0x18 9
  let size := 65536 * rf d 0x24 4
  match refsRead m base size (Config.mediaReads u) s with
  | .error e => (e.1, q, some e.2)
  | .ok (s1, r) =>
    match refsWrite m base size q.lab (Config.mediaWrites u r) s1 with
    | (s2, some e) => (s2, q, some e)
    | (s2, none) =>
      match (if bit (rf d 9 1) 1 then streamPut m 9 1 (rf d 9 1 % 2) s2 else .ok s2) with
      | .error e => (e.1, q, some e.2)
      | .ok s3 =>
        let f := Config.mediaDecoded u r
        let held := if Config.mediaShown u then m.held ++ [(u, f)] else m.held
        match (if Config.mediaFrame u then nextFrame held else none) with
        | none => (setMedia s3 k { m with held := held, par := q.img, refs := f }, q, none)
        | some g =>
          let (s4, e) := frameOut m q.lab q.img.toNat q.img.toNat g 0 s3
          (setMedia s4 k { m with held := if e.isNone then held.erase g else held, par := q.img, refs := f },
            if e.isNone then { q with frames := 1, fno := Config.mediaNumber g.1 } else q, e)

/-- The decode command q of context k, whose descriptor reads as d with labels dl: LBL takes the labels of the command and
the bitstream, which the output and the record carry with those of the descriptor (R510, R514, R515). -/
def decodeCmd (k : Nat) (m : MediaCtx) (q : MediaCmd) (d : Nat) (dl : Label) (s : State) : State × MediaCmd × Option MFail :=
  let x := q.img.toNat
  let got := if q.bad then .ok (s, 0, 0) else readBytes s m.who (rf x 8 9) (rf x 4 4)
  let bl := match got with
    | .ok (_, _, l) => l
    | .error _ => leadLabel s m.who (lineCount (rf x 8 9) (rf x 4 4)) (rf x 8 9) (rf x 4 4)
  let lbl := BitVec.ofNat 32 (rf d 0x14 4) ||| q.lab ||| bl
  let q1 := { q with lab := lbl ||| dl }
  let s0 := match got with
    | .ok (t, _, _) => t
    | .error _ => markSpan s m.who (rf x 8 9) (rf x 4 4) .read
  match streamPut m 0x14 4 lbl.toNat s0 with
  | .error e => (e.1, q1, some e.2)
  | .ok s1 =>
    if q.bad then (s1, q1, some ⟨6, 0, 0, false⟩)
    else match got with
      | .error e => (s1, q1, some (mfailOf e.1 e.2))
      | .ok (_, v, _) =>
        let u := Config.mediaUnit (mcCodec x) m.refs (rf x 4 4) v
        match unitStatus u (mcCodec x) (rf d 0x24 4) (bit (rf d 9 1) 1) with
        | 0 => decodeUnit k m q1 d u s1
        | 1 => match streamPut m 9 1 (rf d 9 1 % 2 + 2) s1 with
          | .ok s2 => (s2, q1, some ⟨1, 0, 0, false⟩)
          | .error e => (e.1, q1, some e.2)
        | st => (s1, q1, some ⟨st, 0, 0, false⟩)

/-- The end of a command's work on state s, none while a write of it waits. -/
def mediaSettle (k : Nat) (r : State × MediaCmd × Option MFail) : Option State :=
  if (r.2.2.map (·.wait)) = some true then none else some (mediaEnd r.1 k r.2.1 r.2.2)

/-- The decode command of context k, when it has one and no write of it waits. -/
def decodeNow (s : State) (k : Nat) : Option State :=
  let m := mediaAt s k
  match mediaCmd s k 1, streamOf s m with
  | none, _ => none
  | some q, none => some (mediaEnd (streamMark s m) k q (some ⟨3, m.desc.toNat, 0, false⟩))
  | some q, some (s1, d, dl) => mediaSettle k (decodeCmd k m q d dl s1)

/-- MEDIA_DECODE. -/
def execMediaDecode (e c : BitVec 4) (s : State) : Host.Outcome State Fault Refusal := .next ((decodeNow s (ctxNo e c)).getD s)

/-- Output every frame still held, in display order (R510), with those that a failure leaves held: a reset alone drops them. -/
def flushFrames (m : MediaCtx) (q : MediaCmd) : Nat → Nat → State → State × List (Nat × Nat) × MediaCmd × Option MFail
  | 0, _, s => (s, m.held, q, none)
  | k + 1, j, s =>
    match nextFrame m.held with
    | none => (s, m.held, q, none)
    | some f =>
      match frameOut m q.lab m.par.toNat q.img.toNat f j s with
      | (t, none) => flushFrames { m with held := m.held.erase f } { q with frames := j + 1, fno := Config.mediaNumber f.1 } k (j + 1) t
      | (t, some r) => (t, m.held, q, some r)

/-- The flush command of context k, when it has one and no write of it waits. -/
def flushNow (s : State) (k : Nat) : Option State :=
  let m := mediaAt s k
  match mediaCmd s k 2, streamOf s m with
  | none, _ => none
  | some q, none => some (mediaEnd (streamMark s m) k q (some ⟨3, m.desc.toNat, 0, false⟩))
  | some q, some (s1, _, _) =>
    let (s2, held, r) := flushFrames m q m.held.length 0 s1
    mediaSettle k (setMedia s2 k { m with held := held }, r)

/-- MEDIA_FLUSH. -/
def execMediaFlush (e c : BitVec 4) (s : State) : Host.Outcome State Fault Refusal := .next ((flushNow s (ctxNo e c)).getD s)

/-- MEDIA_RESET. -/
def execMediaReset (e c : BitVec 4) (s : State) : Host.Outcome State Fault Refusal :=
  let k := ctxNo e c
  let m := mediaAt s k
  let m1 := { m with held := [], refs := 0 }
  match mediaCmd s k 3, streamOf s m with
  | none, _ => .next s
  | some q, none => .next (mediaEnd (setMedia (streamMark s m) k m1) k q (some ⟨3, m.desc.toNat, 0, false⟩))
  | some q, some (s1, d, _) =>
    let r := match streamPut m 9 1 (rf d 9 1 % 2) s1 with
      | .error e => (e.1, some e.2)
      | .ok s2 => match streamPut m 0x14 4 0 s2 with
        | .error e => (e.1, some e.2)
        | .ok s3 => (s3, none)
    .next (mediaEnd (setMedia r.1 k m1) k q r.2)

/-! ## Completion (R513) -/

/-- Does TREC own a tag context on the stash core? -/
def mediaTagCtx (s : State) (x : Nat) : Option Nat :=
  (coreAt s (mcCore x)).ctxs.toList.findIdx? (fun t => t.owner == some (rf x 0x29 7))

/-- The completion record, its barrier's credit, the tag, LAST; then deferred register writes (R513, R525). A record that
cannot be written is left. -/
def mediaDone (s : State) (k : Nat) (q : MediaCmd) : State :=
  let m := mediaAt s k
  let x := q.img.toNat
  let tv := mcTv x && mcStash x
  let ctx := if tv then mediaTagCtx s x else none
  let sel := if tv ∧ ctx.isNone then 1 else 0
  let rec16 := q.st + (sel <<< 8) + (q.frames <<< 16) + (q.fno.toNat <<< 32) + ((q.fa % 2 ^ 64) <<< 64)
  let s1 := if mcCpl x % 32 ≠ 0 then s
    else match writeVa s m.who ((mcCpl x + 16) % 2 ^ 72) 16 rec16 q.lab 0 with
      | .error e => countGate (markSpan s m.who ((mcCpl x + 16) % 2 ^ 72) 16 .write) m.part e
      | .ok t => orCount (markSpan t m.who (mcCpl x) 16 .rmw) m.part (creditVa t m.who (mcCpl x) 1 false q.lab)
  let s2 := match ctx with
    | some i => updCore s1 (mcCore x) (fun c =>
        let t := c.ctxAt i
        c.setCtx i { t with tags := ⟨t.tags.v ||| (1#64 <<< mcTag x), t.tags.l ||| q.lab⟩ })
    | none => s1
  mediaStop (setMedia s2 k { mediaAt s2 k with last := BitVec.ofNat 8 q.st }) k

/-- MEDIA_COMPLETION. -/
def execMediaCompletion (e c : BitVec 4) (s : State) : Host.Outcome State Fault Refusal :=
  match (mediaAt s (ctxNo e c)).cmd with
  | some q => .next (if q.finished then mediaDone s (ctxNo e c) q else s)
  | none => .next s

/-- MS_CTL_WRITE (R525): a write of MS_CTL of a context. -/
def execMsCtlWrite (e c : BitVec 4) (v : BitVec 64) (s : State) : Host.Outcome State Fault Refusal :=
  .next (mediaWrite s (ctxNo e c) 0 v.toNat)

end Sys2Proof.Machine
end

