-- ==== Sys2Proof/Machine/Scalar.lean ====
section
/-! DEFINITION. The scalar integer words of majors 0x00 to 0x04 (R48, R51 to R54, R91 to R94). -/
namespace Sys2Proof.Machine

/-- Signed 128-bit product, upper half (R91). -/
def mulhS (a b : Word) : Word := BitVec.ofInt 64 (a.toInt * b.toInt / 2 ^ 64)
def mulhU (a b : Word) : Word := BitVec.ofNat 64 (a.toNat * b.toNat / 2 ^ 64)
/-- Signed division truncated toward zero, with R92's corners. -/
def divS (a b : Word) : Word := if b = 0 then BitVec.allOnes 64 else BitVec.ofInt 64 (a.toInt.tdiv b.toInt)
def divU (a b : Word) : Word := if b = 0 then BitVec.allOnes 64 else BitVec.ofNat 64 (a.toNat / b.toNat)
/-- sa − sb × quotient (R91); sa when the divisor is zero (R92). -/
def remS (a b : Word) : Word := if b = 0 then a else BitVec.ofInt 64 (a.toInt.tmod b.toInt)
def remU (a b : Word) : Word := if b = 0 then a else BitVec.ofNat 64 (a.toNat % b.toNat)
def shlW (a b : Word) : Word := a <<< (b.toNat % 64)
def shrW (a b : Word) : Word := a >>> (b.toNat % 64)
def sarW (a b : Word) : Word := a.sshiftRight (b.toNat % 64)
def rotlW (a b : Word) : Word := a.rotateLeft (b.toNat % 64)
def minS (a b : Word) : Word := if a.slt b then a else b
def maxS (a b : Word) : Word := if a.slt b then b else a
def minU (a b : Word) : Word := if a < b then a else b
def maxU (a b : Word) : Word := if a < b then b else a
/-- Leading zeros of a 64-bit value; 64 for zero (R91). -/
def clzW (a : Word) : Word := if a = 0 then 64 else BitVec.ofNat 64 (63 - Nat.log2 a.toNat)
def ctzW (a : Word) : Word := BitVec.ofNat 64 (ctz 64 a.toNat)
def popcW (a : Word) : Word := BitVec.ofNat 64 (popc 64 a.toNat)

/-- A register-register word: f of sa and sb to sd after n ticks (R91, R94). -/
def binS (i : Info) (d a b : BitVec 5) (n : Nat) (f : Word → Word → Word) (s : State) : Host.Outcome State Fault Refusal :=
  tile i true s fun t => .ok (resultS t i d n (f (t.core.rdS a).v (t.core.rdS b).v))
/-- A register-immediate word (R91). -/
def immS (i : Info) (d a : BitVec 5) (n : Nat) (f : Word → Word → Word) (x : Word) (s : State) : Host.Outcome State Fault Refusal :=
  tile i true s fun t => .ok (resultS t i d n (f (t.core.rdS a).v x))

def execAdd (q : BitVec 4) (d a b : BitVec 5) (s : State) := binS (infoAdd q d a b) d a b 1 (· + ·) s
def execSub (q : BitVec 4) (d a b : BitVec 5) (s : State) := binS (infoSub q d a b) d a b 1 (· - ·) s
def execMul (q : BitVec 4) (d a b : BitVec 5) (s : State) := binS (infoMul q d a b) d a b 3 (· * ·) s
def execMulh (q : BitVec 4) (d a b : BitVec 5) (s : State) := binS (infoMulh q d a b) d a b 4 mulhS s
def execMulhn (q : BitVec 4) (d a b : BitVec 5) (s : State) := binS (infoMulhn q d a b) d a b 4 mulhU s
def execDiv (q : BitVec 4) (d a b : BitVec 5) (s : State) := binS (infoDiv q d a b) d a b 18 divS s
def execDivn (q : BitVec 4) (d a b : BitVec 5) (s : State) := binS (infoDivn q d a b) d a b 18 divU s
def execRem (q : BitVec 4) (d a b : BitVec 5) (s : State) := binS (infoRem q d a b) d a b 18 remS s
def execRemn (q : BitVec 4) (d a b : BitVec 5) (s : State) := binS (infoRemn q d a b) d a b 18 remU s
def execAnd (q : BitVec 4) (d a b : BitVec 5) (s : State) := binS (infoAnd q d a b) d a b 1 (· &&& ·) s
def execOr (q : BitVec 4) (d a b : BitVec 5) (s : State) := binS (infoOr q d a b) d a b 1 (· ||| ·) s
def execXor (q : BitVec 4) (d a b : BitVec 5) (s : State) := binS (infoXor q d a b) d a b 1 (· ^^^ ·) s
def execAndn (q : BitVec 4) (d a b : BitVec 5) (s : State) := binS (infoAndn q d a b) d a b 1 (fun x y => x &&& ~~~y) s
def execShl (q : BitVec 4) (d a b : BitVec 5) (s : State) := binS (infoShl q d a b) d a b 1 shlW s
def execShr (q : BitVec 4) (d a b : BitVec 5) (s : State) := binS (infoShr q d a b) d a b 1 shrW s
def execSar (q : BitVec 4) (d a b : BitVec 5) (s : State) := binS (infoSar q d a b) d a b 1 sarW s
def execMin (q : BitVec 4) (d a b : BitVec 5) (s : State) := binS (infoMin q d a b) d a b 1 minS s
def execMax (q : BitVec 4) (d a b : BitVec 5) (s : State) := binS (infoMax q d a b) d a b 1 maxS s
def execMinn (q : BitVec 4) (d a b : BitVec 5) (s : State) := binS (infoMinn q d a b) d a b 1 minU s
def execMaxn (q : BitVec 4) (d a b : BitVec 5) (s : State) := binS (infoMaxn q d a b) d a b 1 maxU s
def execRotl (q : BitVec 4) (d a b : BitVec 5) (s : State) := binS (infoRotl q d a b) d a b 1 rotlW s
def execClz (q : BitVec 4) (d a : BitVec 5) (s : State) := immS (infoClz q d a) d a 1 (fun x _ => clzW x) 0 s
def execCtz (q : BitVec 4) (d a : BitVec 5) (s : State) := immS (infoCtz q d a) d a 1 (fun x _ => ctzW x) 0 s
def execPopc (q : BitVec 4) (d a : BitVec 5) (s : State) := immS (infoPopc q d a) d a 1 (fun x _ => popcW x) 0 s
def execAddi (q : BitVec 4) (d a : BitVec 5) (i : BitVec 9) (s : State) := immS (infoAddi q d a i) d a 1 (· + ·) (i.signExtend 64) s
def execAndi (q : BitVec 4) (d a : BitVec 5) (i : BitVec 9) (s : State) := immS (infoAndi q d a i) d a 1 (· &&& ·) (i.signExtend 64) s
def execOri (q : BitVec 4) (d a : BitVec 5) (i : BitVec 9) (s : State) := immS (infoOri q d a i) d a 1 (· ||| ·) (i.signExtend 64) s
def execXori (q : BitVec 4) (d a : BitVec 5) (i : BitVec 9) (s : State) := immS (infoXori q d a i) d a 1 (· ^^^ ·) (i.signExtend 64) s
def execMuli (q : BitVec 4) (d a : BitVec 5) (i : BitVec 9) (s : State) := immS (infoMuli q d a i) d a 3 (· * ·) (i.signExtend 64) s
def execShli (q : BitVec 4) (d a : BitVec 5) (i : BitVec 6) (s : State) := immS (infoShli q d a i) d a 1 shlW (i.setWidth 64) s
def execShri (q : BitVec 4) (d a : BitVec 5) (i : BitVec 6) (s : State) := immS (infoShri q d a i) d a 1 shrW (i.setWidth 64) s
def execSari (q : BitVec 4) (d a : BitVec 5) (i : BitVec 6) (s : State) := immS (infoSari q d a i) d a 1 sarW (i.setWidth 64) s

/-- li writes sext(imm15) (R48, R93). -/
def execLi (q : BitVec 4) (d : BitVec 5) (i : BitVec 15) (s : State) :=
  tile (infoLi q d i) true s fun t => .ok (resultS t (infoLi q d i) d 1 (i.signExtend 64))
/-- lic writes (sd << 15) | imm15 and so reads sd (R48, R93). -/
def execLic (q : BitVec 4) (d : BitVec 5) (i : BitVec 15) (s : State) :=
  tile (infoLic q d i) true s fun t => .ok (resultS t (infoLic q d i) d 1 (((t.core.rdS d).v <<< 15) ||| i.setWidth 64))

/-! ## Compares -/

/-- What a compare writes to its pair (R53): none leaves a predicate unchanged. -/
def combine (ct : BitVec 3) (qp c p0 p1 : Bool) : Option Bool × Option Bool :=
  if ¬qp then (if ct = 1 then (some false, some false) else (none, none))
  else match ct.toNat with
    | 0 => (some c, some !c)
    | 1 => (some c, some !c)
    | 2 => if c then (none, none) else (some false, some true)
    | 3 => if c then (some true, some false) else (none, none)
    | 4 => if c then (some false, some true) else (none, none)
    | 5 => if c then (none, none) else (some true, some false)
    | 6 => if c then (some !p0, some !p1) else (none, none)
    | _ => (some c, none)

def writeP (s : State) (n : BitVec 4) (l : Label) : Option Bool → State
  | some x => if n < 2 then s else push s 1 (.p (physP s.core n) x) l
  | none => s

/-- Evaluate relation c and fold it into the pair at tick 1 (R53, R54). -/
def compare (i : Info) (ct k : BitVec 3) (rel : Word → Bool) (a : BitVec 5) (s : State) : Host.Outcome State Fault Refusal :=
  tileAlways i s fun qp t =>
    let e : BitVec 4 := k.setWidth 4 * 2
    let (w0, w1) := combine ct qp (rel (t.core.rdS a).v) ((t.core.rdP e).v == 1) ((t.core.rdP (e + 1)).v == 1)
    let l := readLabel t.core i.rd
    .ok (writeP (writeP t e l w0) (e + 1) l w1)

def execCmpEq (q : BitVec 4) (c k : BitVec 3) (a b : BitVec 5) (s : State) :=
  compare (infoCmpEq q c k a b) c k (fun x => let y := (s.core.rdS b).v; x == y) a s
def execCmpNe (q : BitVec 4) (c k : BitVec 3) (a b : BitVec 5) (s : State) :=
  compare (infoCmpNe q c k a b) c k (fun x => let y := (s.core.rdS b).v; x != y) a s
def execCmpLt (q : BitVec 4) (c k : BitVec 3) (a b : BitVec 5) (s : State) :=
  compare (infoCmpLt q c k a b) c k (fun x => let y := (s.core.rdS b).v; x.slt y) a s
def execCmpGe (q : BitVec 4) (c k : BitVec 3) (a b : BitVec 5) (s : State) :=
  compare (infoCmpGe q c k a b) c k (fun x => let y := (s.core.rdS b).v; !x.slt y) a s
def execCmpLtn (q : BitVec 4) (c k : BitVec 3) (a b : BitVec 5) (s : State) :=
  compare (infoCmpLtn q c k a b) c k (fun x => let y := (s.core.rdS b).v; decide (x < y)) a s
def execCmpGen (q : BitVec 4) (c k : BitVec 3) (a b : BitVec 5) (s : State) :=
  compare (infoCmpGen q c k a b) c k (fun x => let y := (s.core.rdS b).v; !decide (x < y)) a s
def execCmpTand (q : BitVec 4) (c k : BitVec 3) (a b : BitVec 5) (s : State) :=
  compare (infoCmpTand q c k a b) c k (fun x => let y := (s.core.rdS b).v; x &&& y != 0) a s
def execCmpTnand (q : BitVec 4) (c k : BitVec 3) (a b : BitVec 5) (s : State) :=
  compare (infoCmpTnand q c k a b) c k (fun x => let y := (s.core.rdS b).v; x &&& y == 0) a s
def execCmpiEq (q : BitVec 4) (c k : BitVec 3) (a : BitVec 5) (i : BitVec 8) (s : State) :=
  compare (infoCmpiEq q c k a i) c k (fun x => let y : Word := i.signExtend 64; x == y) a s
def execCmpiNe (q : BitVec 4) (c k : BitVec 3) (a : BitVec 5) (i : BitVec 8) (s : State) :=
  compare (infoCmpiNe q c k a i) c k (fun x => let y : Word := i.signExtend 64; x != y) a s
def execCmpiLt (q : BitVec 4) (c k : BitVec 3) (a : BitVec 5) (i : BitVec 8) (s : State) :=
  compare (infoCmpiLt q c k a i) c k (fun x => let y : Word := i.signExtend 64; x.slt y) a s
def execCmpiGe (q : BitVec 4) (c k : BitVec 3) (a : BitVec 5) (i : BitVec 8) (s : State) :=
  compare (infoCmpiGe q c k a i) c k (fun x => let y : Word := i.signExtend 64; !x.slt y) a s
def execCmpiLtn (q : BitVec 4) (c k : BitVec 3) (a : BitVec 5) (i : BitVec 8) (s : State) :=
  compare (infoCmpiLtn q c k a i) c k (fun x => let y : Word := i.setWidth 64; decide (x < y)) a s
def execCmpiGen (q : BitVec 4) (c k : BitVec 3) (a : BitVec 5) (i : BitVec 8) (s : State) :=
  compare (infoCmpiGen q c k a i) c k (fun x => let y : Word := i.setWidth 64; !decide (x < y)) a s
def execCmpiTbit (q : BitVec 4) (c k : BitVec 3) (a : BitVec 5) (i : BitVec 6) (s : State) :=
  compare (infoCmpiTbit q c k a i) c k (fun x => x.getLsbD i.toNat) a s
def execCmpiTnbit (q : BitVec 4) (c k : BitVec 3) (a : BitVec 5) (i : BitVec 6) (s : State) :=
  compare (infoCmpiTnbit q c k a i) c k (fun x => !x.getLsbD i.toNat) a s

end Sys2Proof.Machine
end

