-- ==== Sys2Proof/Machine/Sync.lean ====
section
/-! DEFINITION. Synchronisation words of major 0x0B (R115 to R122, R183, R184). Every access is performed at package
scope when it issues, which R177 to R187 allow, so that no fence, acquire or release waits. -/
namespace Sys2Proof.Machine

/-- fence: every earlier access has been performed, so the group issues (R116, R181). -/
def execFence (q : BitVec 4) (c : BitVec 3) (k : BitVec 2) (s : State) :=
  tile (infoFence q c k) (decide (c < 6) && k != 3) s fun t => .ok t

/-- The status of a bind and the table after it (R117). A region that passes 2^72 does not wrap, and an empty one overlaps none; R117 says
neither (DESIGN CHOICE, log 22). -/
def bindTable (l : List Bind) (base : Addr) (len : Word) (obj : Addr) : Nat × List Bind :=
  if l.any (fun e => e.base == base && e.len == len) then
    (0, l.map (fun e => if e.base == base && e.len == len then { e with obj := obj } else e))
  else if l.any (fun e => meets base.toNat len.toNat e.base.toNat e.len.toNat) then (3, l)
  else if 16 ≤ l.length then (1, l)
  else (0, l ++ [⟨base, len, obj⟩])

def execBind (q a : BitVec 4) (b : BitVec 5) (o : BitVec 4) (s : State) :=
  tile (infoBind q a b o) true s fun t =>
    let (st, l) := bindTable t.core.binds (t.core.rdA a).v (t.core.rdS b).v (t.core.rdA o).v
    .ok (resultS { t with core := { t.core with binds := l } } (infoBind q a b o) b 1 (BitVec.ofNat 64 st))

def execUnbind (q a : BitVec 4) (s : State) :=
  tile (infoUnbind q a) true s fun t =>
    .ok { t with core := { t.core with binds := t.core.binds.filter (fun e => e.base != (t.core.rdA a).v) } }

/-- The object word of an acquire, a release or an mwait: aligned to 8, translated as a read (R121, R183, R184). -/
def objectWord (t : State) (o : BitVec 4) (act : State → Act) : Act :=
  let va := (t.core.rdA o).v.toNat
  if va % 8 ≠ 0 then .error (accStop t .mis va 8 false false)
  else match translateMark t va t.core.who.vf t.core.who.part t.core.who.prv 8 .read with
    | .error e => .error (accStop t (.xlat e) va 8 false false)
    | .ok (t1, _) => act t1

def execAcq (q : BitVec 4) (c : BitVec 3) (o : BitVec 4) (s : State) :=
  tile (infoAcq q c o) (decide (c < 6)) s fun t => objectWord t o .ok

/-- rel: every covered write has been performed; the dirty lines that hold one are written back (R183). -/
def execRel (q : BitVec 4) (c : BitVec 3) (o : BitVec 4) (s : State) :=
  tile (infoRel q c o) (decide (c < 6)) s fun t => objectWord t o (fun t1 => .ok (releaseLines t1 (t.core.rdA o).v))

/-- bwait: ERR traps, P ≠ L issues with L := P, else the group is held (R119). -/
def execBwait (q n : BitVec 4) (s : State) :=
  tile (infoBwait q n) true s fun t =>
    let u := (t.core.rdB n).v
    if u.getLsbD 34 then .error (.trap 0x11 (n.toNat + ((t.coreNo % 4) <<< 4) + 64) n.toNat)
    else if u.getLsbD 32 = u.getLsbD 33 then .error .wait
    else .ok { t with core := t.core.wrB n (u ^^^ (1#64 <<< 33)) ((t.core.rdB n).l ||| t.core.cl) }

/-- binit writes CNT and clears the rest at tick 1 (R118). -/
def execBinit (q n : BitVec 4) (a : BitVec 5) (s : State) :=
  tile (infoBinit q n a) true s fun t =>
    .ok (push t 1 (.unit n ((t.core.rdS a).v &&& 0xFFFF)) (readLabel t.core (infoBinit q n a).rd))

/-- A tag wait (R121, R122, R203): `cond` of TAGS and the mask; `act` when it issues. `.s` without a safe in the group is
illegal (R123), which a false predicate exempts from (R44). -/
def tagWait (i : Info) (p : BitVec 1) (a : BitVec 5) (kind : Nat) (cond : Word → Word → Bool) (act : State → Word → Word → State)
    (s : State) : Host.Outcome State Fault Refusal :=
  tile i true s fun t =>
    if p = 1 ∧ t.core.grp.safe.isNone then .error (illegal t 1) else
    let m := (t.core.rdS a).v
    let tags := t.core.ctx.tags.v
    if ¬cond tags m then .error (if p = 1 then .spin 2 kind m.toNat else .wait)
    else
      let e := m &&& t.core.ctx.terr
      if e ≠ 0 then .error (.copyFault e) else .ok (act t tags m)

def execTwAny (q : BitVec 4) (p : BitVec 1) (d a : BitVec 5) (s : State) :=
  tagWait (infoTwAny q p d a) p a 0 (fun t m => t &&& m != 0) (fun t x m => resultS t (infoTwAny q p d a) d 1 (x &&& m)) s
def execTwAll (q : BitVec 4) (p : BitVec 1) (d a : BitVec 5) (s : State) :=
  tagWait (infoTwAll q p d a) p a 1 (fun t m => t &&& m == m) (fun t _ m => resultS t (infoTwAll q p d a) d 1 m) s
def execTwFfr (q : BitVec 4) (p : BitVec 1) (d a : BitVec 5) (s : State) :=
  tagWait (infoTwFfr q p d a) p a 2 (fun t m => t &&& m != 0) (fun t x m =>
    let n := ctz 64 (x &&& m).toNat
    push (resultS t (infoTwFfr q p d a) d 1 (BitVec.ofNat 64 n)) 1 (.tagsClr t.core.cur (1#64 <<< n))
      (readLabel t.core (infoTwFfr q p d a).rd)) s

/-- mwait: the phase bit of the object at ao against sb<0> (R121, R122, R210); the object's label joins CL (R466). -/
def execMwait (q : BitVec 4) (p : BitVec 1) (o : BitVec 4) (b : BitVec 5) (s : State) :=
  tile (infoMwait q p o b) true s fun t =>
    if p = 1 ∧ t.core.grp.safe.isNone then .error (illegal t 1) else
    let va := (t.core.rdA o).v.toNat
    if va % 8 ≠ 0 then .error (accStop t .mis va 8 false false)
    else match readObj t t.core.who va with
      | .error e => .error (accStop t e va 8 false false)
      | .ok (t1, w, l) =>
        if bit w 1 then .error (.trap 0x11 64 va)
        else
          let want := (t.core.rdS b).v.getLsbD 0
          if bit w 0 = want then .ok { t1 with core := t1.core.joinCl l }
          else .error (.look (markSpan s s.core.who va 8 .read) (if p = 1 then some (1, b2n want, va) else none))

end Sys2Proof.Machine
end

