-- ==== Sys2Proof/Machine/Tl.lean ====
section
/-! DEFINITION. Translation instructions of major 0x1D (R159 to R164). The model caches no translation, so an
invalidation completes when it issues. -/
namespace Sys2Proof.Machine

/-- The VF a word names: below 384, and at H of the caller's partition (R159). -/
def vfStop (s : State) (vf : Nat) : Option Stop :=
  if 384 ≤ vf ∨ (s.core.cont.prv = 1 ∧ (vfAt s vf).part ≠ some s.core.cont.part) then some (privileged s) else none

/-- Run a tl word on the VF in bits 8:0 of sb. -/
def tlWord (i : Info) (sb : BitVec 5) (s : State) (act : Nat → State → Act) : Host.Outcome State Fault Refusal :=
  tile i true s fun t =>
    let vf := (t.core.rdS sb).v.toNat % 512
    match vfStop t vf with
    | some e => .error e
    | none => act vf t

def execTlInv (q : BitVec 4) (sc : BitVec 2) (aa : BitVec 4) (sb : BitVec 5) (s : State) :=
  tlWord (infoTlInv q sc aa sb) sb s fun _ t => .ok t
def execTlInva (q : BitVec 4) (sc : BitVec 2) (sb : BitVec 5) (s : State) :=
  tlWord (infoTlInva q sc sb) sb s fun _ t => .ok t

/-- What tl.probe answers (R161): the leaf, or the level and the page-fault reason; none, with the failure, when the walk meets
a poisoned table entry, which is a machine check (R176, R503). -/
def probe (s : State) (vf va : Nat) : Except XFail Nat :=
  let root := (vfAt s vf).root
  let res (lvl r : Nat) : Nat := (lvl <<< 1) + (r <<< 4)
  if root = 0 then .ok (res 0 3)
  else match walk s va none 5 root with
    | .ok (_, pte, _) => .ok pte
    | .error e => if e.cause = 0x15 then .error e else .ok (res e.lvl e.reason)

def execTlProbe (q aa : BitVec 4) (sb : BitVec 5) (s : State) :=
  tlWord (infoTlProbe q aa sb) sb s fun vf t =>
    let va := (t.core.rdA aa).v.toNat
    match probe t vf va with
    | .ok x => .ok (resultS t (infoTlProbe q aa sb) sb 1 (BitVec.ofNat 64 x))
    | .error e => .error (accStop t (.xlat e) va 8 false false)

/-- tl.root sets the VF's root (R162). Its own faults come from no walk: their TR_INFO holds level 0, the size of a doubleword and the running
record's VF, none of which R162 states (DESIGN CHOICE, log 21). -/
def execTlRoot (q aa : BitVec 4) (sb : BitVec 5) (s : State) :=
  tlWord (infoTlRoot q aa sb) sb s fun vf t =>
    let a := (t.core.rdA aa).v.toNat
    if a % 128 ≠ 0 then .error (accStop t .mis a 8 false false)
    else if 2 ^ 56 ≤ a then .error (accStop t (.xlat (permFault 0 11)) a 8 false false)
    else .ok (setVf t vf { vfAt t vf with root := a })

/-- tl.hash writes a quiesced partition's interleave seed (R163). -/
def execTlHash (q aa : BitVec 4) (sb : BitVec 5) (s : State) :=
  let i := infoTlHash q aa sb
  tile i true s fun t =>
    let p := (t.core.rdA aa).v.toNat % 16
    let seed := (t.core.rdS sb).v
    if t.core.cont.prv = 1 ∧ p ≠ t.core.cont.part then .error (privileged t)
    else if (partAt t p).st ≠ 3 then .ok (resultS t i sb 1 3)
    else match t.isets.toList[p]? with
      | some x => .ok (resultS { t with isets := t.isets.setIfInBounds p { x with seed := seed } } i sb 1 0)
      | none => .ok (resultS t i sb 1 0)

/-- tl.dlog points the VF's dirty-page log at a descriptor (R164). The rule checks the low bits alone: an address of 2^56 or
more, or one outside HBM and DDR, is taken as it is (DESIGN CHOICE, log 21). -/
def execTlDlog (q aa : BitVec 4) (sb : BitVec 5) (s : State) :=
  tlWord (infoTlDlog q aa sb) sb s fun vf t =>
    let a := (t.core.rdA aa).v.toNat
    if a % 32 ≠ 0 then .error (accStop t .mis a 8 false false)
    else .ok (setVf t vf { vfAt t vf with dlog := a })

end Sys2Proof.Machine
end

