-- ==== Sys2Proof/Machine/Typed.lean ====
section
/-! DEFINITION. Typed accesses of major 0x08 (R102 to R104): conversions never flush (R78). -/
namespace Sys2Proof.Machine

/-- Is the value of HN allowed with the format (R102)? -/
def nibOk (f : BitVec 4) (h : BitVec 1) : Bool := h == 0 || f == 5 || f == 8 || f == 12

/-- An element as a typed load delivers it: floating formats converted exactly to FP32, integers extended (R103). -/
def typedIn (f w x : Nat) : Nat :=
  if f = 0 then x % 2 ^ 32
  else if isInt f then wrap w (intVal f x)
  else (convert false f 0 x 0 0).1

/-- An element as a typed store delivers it, with its flags (R103): .f32 unchanged, floating formats from FP32 under
rm, integer formats saturated from a w-bit value of the format's signedness. -/
def typedOut (f w x rm : Nat) : Nat × Nat :=
  if f = 0 then (x % 2 ^ 32, 0)
  else if isInt f then
    let v : Int := if isSigned f then sgn w x else (x % 2 ^ w : Nat)
    (wrap (fmtWidth f) (clamp (intMin f) (intMax f) v), 0)
  else convert false 0 f (x % 2 ^ 32) rm 0

/-- An element as vldt delivers it, and as vstt does: an FP32 element is converted as every floating format is, so that a
NaN becomes the canonical one (R70, R103). -/
def blockIn (f x : Nat) : Nat := if f = 0 then (convert false 0 0 (x % 2 ^ 32) 0 0).1 else typedIn f 32 x
def blockOut (f x rm : Nat) : Nat × Nat := if f = 0 then convert false 0 0 (x % 2 ^ 32) rm 0 else typedOut f 32 x rm

def elBytes (f : Nat) : Nat := max 1 (fmtWidth f / 8)

def execLdt (q : BitVec 4) (d : BitVec 5) (a f : BitVec 4) (h : BitVec 1) (l : BitVec 5) (s : State) :=
  let i := infoLdt q d a f h l
  tile i (f != 7 && nibOk f h) s fun t =>
    loadLand i (t.core.rdA a).v.toNat (elBytes f.toNat) l 0 d
      (fun v => .s d (BitVec.ofNat 64 (typedIn f.toNat 64 (if fmtWidth f.toNat = 4 then bits v (4 * h.toNat + 3) (4 * h.toNat) else v)))) t

/-- stt: for a 4-bit format the other nibble of the byte is kept, indivisibly; flags are set at tick 2. -/
def execStt (q : BitVec 4) (v : BitVec 5) (a f : BitVec 4) (h : BitVec 1) (r : BitVec 3) (s : State) :=
  let i := infoStt q v a f h r
  tile i (f != 7 && nibOk f h && r != 5 && r != 7) s fun t =>
    let n := elBytes f.toNat
    let va := (t.core.rdA a).v.toNat
    let (x, fl) := typedOut f.toNat 64 (t.core.rdS v).v.toNat (rmOf r.toNat (t.core.fpMode.toNat % 8) false)
    let lab := readLabel t.core i.rd
    if va % n ≠ 0 then .error (accStop t .mis va n true false)
    else
      match (if fmtWidth f.toNat = 4 then
          (match readVa t t.core.who va 1 .write with
          | .ok (t1, b, _) => Except.ok (t1, if h = 0 then b / 16 * 16 + x else b % 16 + 16 * x)
          | .error e => .error (firstCause e (writeVa t t.core.who va 1 0 lab 0)))
        else .ok (t, x)) with
      | .error e => .error (accStop t e va n true false)
      | .ok (t1, x') =>
        match writeVa t1 t1.core.who va n x' lab 0 with
        | .error e => .error (accStop t e va n true false)
        | .ok t2 => .ok (push t2 2 (.flags (BitVec.ofNat 5 fl)) lab)

/-- The alignment of a typed vector block (R104). -/
def blockAlign (f : Nat) : Nat := min (16 * fmtWidth f) 64

/-- A typed block's alignment (R104). -/
def blockStop (t : State) (va n al : Nat) (st : Bool) (act : Act) : Act :=
  if va % al ≠ 0 then .error (accStop t .mis va n st false) else act

def execVldt (q : BitVec 4) (d : BitVec 5) (a f : BitVec 4) (l : BitVec 5) (s : State) :=
  let i := infoVldt q d a f l
  tile i (f != 7) s fun t =>
    let w := fmtWidth f.toNat
    let va := (t.core.rdA a).v.toNat
    blockStop t va (16 * w) (blockAlign f.toNat) false <| landRoom t <|
      match readBytes t t.core.who va (16 * w) .read with
      | .error (e, _) => .error (accStop t e va (16 * w) false false)
      | .ok (t1, v, ml) =>
        let x := pack 32 (fun j => blockIn f.toNat (v >>> (w * j) % 2 ^ w)) 128
        .ok (pushLand t1 (l.toNat + 4) (.v (physV t.core d) (BitVec.ofNat 4096 x) (BitVec.allOnes 4096) false)
          (ml ||| readLabel t.core i.rd) 3 d (lineVas va (16 * w)))

def execVstt (q : BitVec 4) (v : BitVec 5) (a f : BitVec 4) (r : BitVec 3) (s : State) :=
  let i := infoVstt q v a f r
  tile i (f != 7 && r != 5 && r != 7) s fun t =>
    let w := fmtWidth f.toNat
    let va := (t.core.rdA a).v.toNat
    let src := (t.core.rdV v).v.toNat
    let rm := rmOf r.toNat (t.core.fpMode.toNat % 8) false
    let el (j : Nat) : Nat × Nat := blockOut f.toNat (src >>> (32 * j) % 2 ^ 32) rm
    let fl := (List.range 128).foldl (fun acc j => acc ||| (el j).2) 0
    let lab := readLabel t.core i.rd
    blockStop t va (16 * w) (blockAlign f.toNat) true <|
      match writeBytes t t.core.who va (16 * w) (pack w (fun j => (el j).1) 128) lab with
      | .error (e, _) => .error (accStop t e va (16 * w) true false)
      | .ok t1 => .ok (push t1 2 (.flags (BitVec.ofNat 5 fl)) lab)

end Sys2Proof.Machine
end

