-- ==== Sys2Proof/Machine/Dispatch.lean ====
section
/-! DEFINITION. One arm per instruction: the direct call of its meaning. -/
namespace Sys2Proof.Machine

def exec (i : Instr) (s : State) : Host.Outcome State Fault Refusal :=
  match i with
  | .add q d a b => Sys2Proof.Machine.execAdd q d a b s
  | .sub q d a b => Sys2Proof.Machine.execSub q d a b s
  | .mul q d a b => Sys2Proof.Machine.execMul q d a b s
  | .mulh q d a b => Sys2Proof.Machine.execMulh q d a b s
  | .mulhn q d a b => Sys2Proof.Machine.execMulhn q d a b s
  | .div q d a b => Sys2Proof.Machine.execDiv q d a b s
  | .divn q d a b => Sys2Proof.Machine.execDivn q d a b s
  | .rem q d a b => Sys2Proof.Machine.execRem q d a b s
  | .remn q d a b => Sys2Proof.Machine.execRemn q d a b s
  | .and q d a b => Sys2Proof.Machine.execAnd q d a b s
  | .or q d a b => Sys2Proof.Machine.execOr q d a b s
  | .xor q d a b => Sys2Proof.Machine.execXor q d a b s
  | .andn q d a b => Sys2Proof.Machine.execAndn q d a b s
  | .shl q d a b => Sys2Proof.Machine.execShl q d a b s
  | .shr q d a b => Sys2Proof.Machine.execShr q d a b s
  | .sar q d a b => Sys2Proof.Machine.execSar q d a b s
  | .min q d a b => Sys2Proof.Machine.execMin q d a b s
  | .max q d a b => Sys2Proof.Machine.execMax q d a b s
  | .minn q d a b => Sys2Proof.Machine.execMinn q d a b s
  | .maxn q d a b => Sys2Proof.Machine.execMaxn q d a b s
  | .clz q d a => Sys2Proof.Machine.execClz q d a s
  | .ctz q d a => Sys2Proof.Machine.execCtz q d a s
  | .popc q d a => Sys2Proof.Machine.execPopc q d a s
  | .rotl q d a b => Sys2Proof.Machine.execRotl q d a b s
  | .addi q d a im => Sys2Proof.Machine.execAddi q d a im s
  | .andi q d a im => Sys2Proof.Machine.execAndi q d a im s
  | .ori q d a im => Sys2Proof.Machine.execOri q d a im s
  | .xori q d a im => Sys2Proof.Machine.execXori q d a im s
  | .shli q d a im => Sys2Proof.Machine.execShli q d a im s
  | .shri q d a im => Sys2Proof.Machine.execShri q d a im s
  | .sari q d a im => Sys2Proof.Machine.execSari q d a im s
  | .muli q d a im => Sys2Proof.Machine.execMuli q d a im s
  | .li q d im => Sys2Proof.Machine.execLi q d im s
  | .lic q d im => Sys2Proof.Machine.execLic q d im s
  | .cmpEq q c k a b => Sys2Proof.Machine.execCmpEq q c k a b s
  | .cmpNe q c k a b => Sys2Proof.Machine.execCmpNe q c k a b s
  | .cmpLt q c k a b => Sys2Proof.Machine.execCmpLt q c k a b s
  | .cmpGe q c k a b => Sys2Proof.Machine.execCmpGe q c k a b s
  | .cmpLtn q c k a b => Sys2Proof.Machine.execCmpLtn q c k a b s
  | .cmpGen q c k a b => Sys2Proof.Machine.execCmpGen q c k a b s
  | .cmpTand q c k a b => Sys2Proof.Machine.execCmpTand q c k a b s
  | .cmpTnand q c k a b => Sys2Proof.Machine.execCmpTnand q c k a b s
  | .cmpiEq q c k a im => Sys2Proof.Machine.execCmpiEq q c k a im s
  | .cmpiNe q c k a im => Sys2Proof.Machine.execCmpiNe q c k a im s
  | .cmpiLt q c k a im => Sys2Proof.Machine.execCmpiLt q c k a im s
  | .cmpiGe q c k a im => Sys2Proof.Machine.execCmpiGe q c k a im s
  | .cmpiLtn q c k a im => Sys2Proof.Machine.execCmpiLtn q c k a im s
  | .cmpiGen q c k a im => Sys2Proof.Machine.execCmpiGen q c k a im s
  | .cmpiTbit q c k a im => Sys2Proof.Machine.execCmpiTbit q c k a im s
  | .cmpiTnbit q c k a im => Sys2Proof.Machine.execCmpiTnbit q c k a im s
  | .aadd q d a b => Sys2Proof.Machine.execAadd q d a b s
  | .aaddi q d a im => Sys2Proof.Machine.execAaddi q d a im s
  | .asub q d a b => Sys2Proof.Machine.execAsub q d a b s
  | .aset q d b => Sys2Proof.Machine.execAset q d b s
  | .ahi q d im => Sys2Proof.Machine.execAhi q d im s
  | .aalign q d a n => Sys2Proof.Machine.execAalign q d a n s
  | .aget q d a h => Sys2Proof.Machine.execAget q d a h s
  | .ldI8 q d a l im => Sys2Proof.Machine.execLdI8 q d a l im s
  | .ldI16 q d a l im => Sys2Proof.Machine.execLdI16 q d a l im s
  | .ldI32 q d a l im => Sys2Proof.Machine.execLdI32 q d a l im s
  | .ldD q d a l im => Sys2Proof.Machine.execLdD q d a l im s
  | .ldN8 q d a l im => Sys2Proof.Machine.execLdN8 q d a l im s
  | .ldN16 q d a l im => Sys2Proof.Machine.execLdN16 q d a l im s
  | .ldN32 q d a l im => Sys2Proof.Machine.execLdN32 q d a l im s
  | .stB q v a im => Sys2Proof.Machine.execStB q v a im s
  | .stH q v a im => Sys2Proof.Machine.execStH q v a im s
  | .stW q v a im => Sys2Proof.Machine.execStW q v a im s
  | .stD q v a im => Sys2Proof.Machine.execStD q v a im s
  | .ldt q d a f h l => Sys2Proof.Machine.execLdt q d a f h l s
  | .stt q v a f h r => Sys2Proof.Machine.execStt q v a f h r s
  | .vldt q d a f l => Sys2Proof.Machine.execVldt q d a f l s
  | .vstt q v a f r => Sys2Proof.Machine.execVstt q v a f r s
  | .amoAdd q d a l w => Sys2Proof.Machine.execAmoAdd q d a l w s
  | .amoAnd q d a l w => Sys2Proof.Machine.execAmoAnd q d a l w s
  | .amoOr q d a l w => Sys2Proof.Machine.execAmoOr q d a l w s
  | .amoXor q d a l w => Sys2Proof.Machine.execAmoXor q d a l w s
  | .amoMin q d a l w => Sys2Proof.Machine.execAmoMin q d a l w s
  | .amoMax q d a l w => Sys2Proof.Machine.execAmoMax q d a l w s
  | .amoMinn q d a l w => Sys2Proof.Machine.execAmoMinn q d a l w s
  | .amoMaxn q d a l w => Sys2Proof.Machine.execAmoMaxn q d a l w s
  | .amoSwap q d a l w => Sys2Proof.Machine.execAmoSwap q d a l w s
  | .amoCas q d a l w => Sys2Proof.Machine.execAmoCas q d a l w s
  | .br q k => Sys2Proof.Machine.execBr q k s
  | .brv q k m w n => Sys2Proof.Machine.execBrv q k m w n s
  | .prep q k im => Sys2Proof.Machine.execPrep q k im s
  | .prepa q k a => Sys2Proof.Machine.execPrepa q k a s
  | .brl q k d => Sys2Proof.Machine.execBrl q k d s
  | .lbNest q l d g => Sys2Proof.Machine.execLbNest q l d g s
  | .lbExit q => Sys2Proof.Machine.execLbExit q s
  | .fence q c k => Sys2Proof.Machine.execFence q c k s
  | .bind q a b o => Sys2Proof.Machine.execBind q a b o s
  | .unbind q a => Sys2Proof.Machine.execUnbind q a s
  | .acq q c o => Sys2Proof.Machine.execAcq q c o s
  | .rel q c o => Sys2Proof.Machine.execRel q c o s
  | .bwait q n => Sys2Proof.Machine.execBwait q n s
  | .binit q n a => Sys2Proof.Machine.execBinit q n a s
  | .twAny q p d a => Sys2Proof.Machine.execTwAny q p d a s
  | .twAll q p d a => Sys2Proof.Machine.execTwAll q p d a s
  | .twFfr q p d a => Sys2Proof.Machine.execTwFfr q p d a s
  | .mwait q p o b => Sys2Proof.Machine.execMwait q p o b s
  | .safe q n => Sys2Proof.Machine.execSafe q n s
  | .suspend q a => Sys2Proof.Machine.execSuspend q a s
  | .yield q => Sys2Proof.Machine.execYield q s
  | .retire q => Sys2Proof.Machine.execRetire q s
  | .svc q im => Sys2Proof.Machine.execSvc q im s
  | .brk q im => Sys2Proof.Machine.execBrk q im s
  | .sysrd q d n => Sys2Proof.Machine.execSysrd q d n s
  | .syswr q a n => Sys2Proof.Machine.execSyswr q a n s
  | .rfe q a d l => Sys2Proof.Machine.execRfe q a d l s
  | .qlock q d => Sys2Proof.Machine.execQlock q d s
  | .qfree q => Sys2Proof.Machine.execQfree q s
  | .arv q l r c n => Sys2Proof.Machine.execArv q l r c n s
  | .vld z m d a l => Sys2Proof.Machine.execVld z m d a l s
  | .vlds z m d a l g => Sys2Proof.Machine.execVlds z m d a l g s
  | .vldx z m d a l => Sys2Proof.Machine.execVldx z m d a l s
  | .vldb z m d a l => Sys2Proof.Machine.execVldb z m d a l s
  | .vst m v a => Sys2Proof.Machine.execVst m v a s
  | .vsts m v a g => Sys2Proof.Machine.execVsts m v a g s
  | .vstx m v a b => Sys2Proof.Machine.execVstx m v a b s
  | .vadd z m d a b x => Sys2Proof.Machine.execVadd z m d a b x s
  | .vsub z m d a b x => Sys2Proof.Machine.execVsub z m d a b x s
  | .vmul z m d a b x => Sys2Proof.Machine.execVmul z m d a b x s
  | .vmulh z m d a b x => Sys2Proof.Machine.execVmulh z m d a b x s
  | .vand z m d a b x => Sys2Proof.Machine.execVand z m d a b x s
  | .vor z m d a b x => Sys2Proof.Machine.execVor z m d a b x s
  | .vxor z m d a b x => Sys2Proof.Machine.execVxor z m d a b x s
  | .vshl z m d a b x => Sys2Proof.Machine.execVshl z m d a b x s
  | .vshr z m d a b x => Sys2Proof.Machine.execVshr z m d a b x s
  | .vsar z m d a b x => Sys2Proof.Machine.execVsar z m d a b x s
  | .vmin z m d a b x => Sys2Proof.Machine.execVmin z m d a b x s
  | .vmax z m d a b x => Sys2Proof.Machine.execVmax z m d a b x s
  | .vadds z m d a b x => Sys2Proof.Machine.execVadds z m d a b x s
  | .vsubs z m d a b x => Sys2Proof.Machine.execVsubs z m d a b x s
  | .vabs z m d a => Sys2Proof.Machine.execVabs z m d a s
  | .vmadw z m d a b x => Sys2Proof.Machine.execVmadw z m d a b x s
  | .vfadd z m d a b x => Sys2Proof.Machine.execVfadd z m d a b x s
  | .vfsub z m d a b x => Sys2Proof.Machine.execVfsub z m d a b x s
  | .vfmul z m d a b x => Sys2Proof.Machine.execVfmul z m d a b x s
  | .vfma z m d a b x => Sys2Proof.Machine.execVfma z m d a b x s
  | .vfms z m d a b x => Sys2Proof.Machine.execVfms z m d a b x s
  | .vfnma z m d a b x => Sys2Proof.Machine.execVfnma z m d a b x s
  | .vfmin z m d a b x => Sys2Proof.Machine.execVfmin z m d a b x s
  | .vfmax z m d a b x => Sys2Proof.Machine.execVfmax z m d a b x s
  | .vfabs z m d a => Sys2Proof.Machine.execVfabs z m d a s
  | .vfneg z m d a => Sys2Proof.Machine.execVfneg z m d a s
  | .vcmpEq z m d a b x => Sys2Proof.Machine.execVcmpEq z m d a b x s
  | .vcmpNe z m d a b x => Sys2Proof.Machine.execVcmpNe z m d a b x s
  | .vcmpLt z m d a b x => Sys2Proof.Machine.execVcmpLt z m d a b x s
  | .vcmpGe z m d a b x => Sys2Proof.Machine.execVcmpGe z m d a b x s
  | .vfcmpEq z m d a b x => Sys2Proof.Machine.execVfcmpEq z m d a b x s
  | .vfcmpNe z m d a b x => Sys2Proof.Machine.execVfcmpNe z m d a b x s
  | .vfcmpLt z m d a b x => Sys2Proof.Machine.execVfcmpLt z m d a b x s
  | .vfcmpGe z m d a b x => Sys2Proof.Machine.execVfcmpGe z m d a b x s
  | .vsel m d a b x => Sys2Proof.Machine.execVsel m d a b x s
  | .mand d a b => Sys2Proof.Machine.execMand d a b s
  | .mor d a b => Sys2Proof.Machine.execMor d a b s
  | .mxor d a b => Sys2Proof.Machine.execMxor d a b s
  | .mnot d a => Sys2Proof.Machine.execMnot d a s
  | .mcnt d a => Sys2Proof.Machine.execMcnt d a s
  | .mffs d a => Sys2Proof.Machine.execMffs d a s
  | .vcvt z m d a => Sys2Proof.Machine.execVcvt z m d a s
  | .vcvtw z m d a => Sys2Proof.Machine.execVcvtw z m d a s
  | .vcvtn z m d a => Sys2Proof.Machine.execVcvtn z m d a s
  | .vperm z m d a b x => Sys2Proof.Machine.execVperm z m d a b x s
  | .vslide z m d a b => Sys2Proof.Machine.execVslide z m d a b s
  | .vredsum z m d a => Sys2Proof.Machine.execVredsum z m d a s
  | .vfredsum z m d a => Sys2Proof.Machine.execVfredsum z m d a s
  | .vredmax z m d a => Sys2Proof.Machine.execVredmax z m d a s
  | .vredmin z m d a => Sys2Proof.Machine.execVredmin z m d a s
  | .vext d a b => Sys2Proof.Machine.execVext d a b s
  | .vins d a b => Sys2Proof.Machine.execVins d a b s
  | .vbcast z m d a => Sys2Proof.Machine.execVbcast z m d a s
  | .vrcp z m d a => Sys2Proof.Machine.execVrcp z m d a s
  | .vrsqrt z m d a => Sys2Proof.Machine.execVrsqrt z m d a s
  | .vsqrt z m d a => Sys2Proof.Machine.execVsqrt z m d a s
  | .vexp2 z m d a => Sys2Proof.Machine.execVexp2 z m d a s
  | .vlog2 z m d a => Sys2Proof.Machine.execVlog2 z m d a s
  | .vclipq z m d a b => Sys2Proof.Machine.execVclipq z m d a b s
  | .vnormq z m d a b => Sys2Proof.Machine.execVnormq z m d a b s
  | .vrot => Sys2Proof.Machine.execVrot s
  | .stgset a => Sys2Proof.Machine.execStgset a s
  | .stgshift a => Sys2Proof.Machine.execStgshift a s
  | .bnLd q a n => Sys2Proof.Machine.execBnLd q a n s
  | .bnRt q d a n => Sys2Proof.Machine.execBnRt q d a n s
  | .bnRto q d a n => Sys2Proof.Machine.execBnRto q d a n s
  | .bnInv q im => Sys2Proof.Machine.execBnInv q im s
  | .bnRd q d n => Sys2Proof.Machine.execBnRd q d n s
  | .skInit q a b => Sys2Proof.Machine.execSkInit q a b s
  | .skQadd q a v b => Sys2Proof.Machine.execSkQadd q a v b s
  | .skHadd q a v b => Sys2Proof.Machine.execSkHadd q a v b s
  | .skDadd q a v b => Sys2Proof.Machine.execSkDadd q a v b s
  | .skMerge q a b => Sys2Proof.Machine.execSkMerge q a b s
  | .skCompact q a b => Sys2Proof.Machine.execSkCompact q a b s
  | .skQuant q a d b => Sys2Proof.Machine.execSkQuant q a d b s
  | .skRank q a d b => Sys2Proof.Machine.execSkRank q a d b s
  | .skTop q a d b => Sys2Proof.Machine.execSkTop q a d b s
  | .skCard q a d => Sys2Proof.Machine.execSkCard q a d s
  | .skSeal q a => Sys2Proof.Machine.execSkSeal q a s
  | .skChk q a d => Sys2Proof.Machine.execSkChk q a d s
  | .mxMma q ac sc aa sb => Sys2Proof.Machine.execMxMma q ac sc aa sb s
  | .mxProm q aa sb => Sys2Proof.Machine.execMxProm q aa sb s
  | .mxProme q aa sb => Sys2Proof.Machine.execMxProme q aa sb s
  | .mxZero q sb => Sys2Proof.Machine.execMxZero q sb s
  | .mxZld q ac sc aa sb => Sys2Proof.Machine.execMxZld q ac sc aa sb s
  | .mxZst q rl sc aa sb => Sys2Proof.Machine.execMxZst q rl sc aa sb s
  | .mxZcvt q rl sc aa sb => Sys2Proof.Machine.execMxZcvt q rl sc aa sb s
  | .mxZadd q sb => Sys2Proof.Machine.execMxZadd q sb s
  | .mxScl q sb => Sys2Proof.Machine.execMxScl q sb s
  | .mxWsel q sb => Sys2Proof.Machine.execMxWsel q sb s
  | .mxWake q sb => Sys2Proof.Machine.execMxWake q sb s
  | .mxGate q sb => Sys2Proof.Machine.execMxGate q sb s
  | .mxTask q ac rl sc aa sb => Sys2Proof.Machine.execMxTask q ac rl sc aa sb s
  | .mxTstat q aa sb => Sys2Proof.Machine.execMxTstat q aa sb s
  | .mxTkill q aa sb => Sys2Proof.Machine.execMxTkill q aa sb s
  | .mxQsplit q sb => Sys2Proof.Machine.execMxQsplit q sb s
  | .mxFence q rl sc => Sys2Proof.Machine.execMxFence q rl sc s
  | .mxCfg q gh gl sb => Sys2Proof.Machine.execMxCfg q gh gl sb s
  | .cpCopy q ac rl sc aa sb => Sys2Proof.Machine.execCpCopy q ac rl sc aa sb s
  | .cpLdt q ac rl sc aa sb => Sys2Proof.Machine.execCpLdt q ac rl sc aa sb s
  | .cpStt q ac rl sc aa sb => Sys2Proof.Machine.execCpStt q ac rl sc aa sb s
  | .cpFill q ac sc aa sb => Sys2Proof.Machine.execCpFill q ac sc aa sb s
  | .cpMap q aa sb => Sys2Proof.Machine.execCpMap q aa sb s
  | .cpUnmap q rl sc sb => Sys2Proof.Machine.execCpUnmap q rl sc sb s
  | .cpFlush q ac rl sc aa sb => Sys2Proof.Machine.execCpFlush q ac rl sc aa sb s
  | .cpInval q ac rl sc aa sb => Sys2Proof.Machine.execCpInval q ac rl sc aa sb s
  | .cpWfill q ac sc aa sb => Sys2Proof.Machine.execCpWfill q ac sc aa sb s
  | .cpOvl q ac sc aa sb => Sys2Proof.Machine.execCpOvl q ac sc aa sb s
  | .cpSpill q ac rl sc aa sb => Sys2Proof.Machine.execCpSpill q ac rl sc aa sb s
  | .cpUnspill q ac rl sc aa sb => Sys2Proof.Machine.execCpUnspill q ac rl sc aa sb s
  | .cpBcnt q rl sc aa sb => Sys2Proof.Machine.execCpBcnt q rl sc aa sb s
  | .cpTclr q sb => Sys2Proof.Machine.execCpTclr q sb s
  | .clTmk q aa sb => Sys2Proof.Machine.execClTmk q aa sb s
  | .clTfree q sb => Sys2Proof.Machine.execClTfree q sb s
  | .clPost q ac rl sc aa sb => Sys2Proof.Machine.execClPost q ac rl sc aa sb s
  | .clTake q ac rl sc aa sb => Sys2Proof.Machine.execClTake q ac rl sc aa sb s
  | .clFrz q sb => Sys2Proof.Machine.execClFrz q sb s
  | .clThaw q sb => Sys2Proof.Machine.execClThaw q sb s
  | .clSave q aa sb => Sys2Proof.Machine.execClSave q aa sb s
  | .clRst q aa sb => Sys2Proof.Machine.execClRst q aa sb s
  | .clEditRemove q sb => Sys2Proof.Machine.execClEditRemove q sb s
  | .clEditAdd q sb => Sys2Proof.Machine.execClEditAdd q sb s
  | .clReshard q ac rl sc aa sb => Sys2Proof.Machine.execClReshard q ac rl sc aa sb s
  | .clQuery q sb => Sys2Proof.Machine.execClQuery q sb s
  | .clMcast q ac rl sc aa sb => Sys2Proof.Machine.execClMcast q ac rl sc aa sb s
  | .clBar q ac rl sc aa sb => Sys2Proof.Machine.execClBar q ac rl sc aa sb s
  | .clAbort q sb => Sys2Proof.Machine.execClAbort q sb s
  | .evSend q aa sb => Sys2Proof.Machine.execEvSend q aa sb s
  | .evRecv q aa sb => Sys2Proof.Machine.execEvRecv q aa sb s
  | .evGather q aa sb => Sys2Proof.Machine.execEvGather q aa sb s
  | .evOpen q sb => Sys2Proof.Machine.execEvOpen q sb s
  | .evClose q sb => Sys2Proof.Machine.execEvClose q sb s
  | .dsLaunch q rl sc aa sb => Sys2Proof.Machine.execDsLaunch q rl sc aa sb s
  | .dsLaunchW q rl sc aa sb => Sys2Proof.Machine.execDsLaunchW q rl sc aa sb s
  | .dsQpush q rl sc aa sb => Sys2Proof.Machine.execDsQpush q rl sc aa sb s
  | .dsQpop q ac sc aa sb => Sys2Proof.Machine.execDsQpop q ac sc aa sb s
  | .dsCondSet q aa sb => Sys2Proof.Machine.execDsCondSet q aa sb s
  | .dsCondAdd q aa sb => Sys2Proof.Machine.execDsCondAdd q aa sb s
  | .dsCondOr q aa sb => Sys2Proof.Machine.execDsCondOr q aa sb s
  | .dsCondAnd q aa sb => Sys2Proof.Machine.execDsCondAnd q aa sb s
  | .dsGstart q aa sb => Sys2Proof.Machine.execDsGstart q aa sb s
  | .dsGstop q aa sb => Sys2Proof.Machine.execDsGstop q aa sb s
  | .dsWake q aa sb => Sys2Proof.Machine.execDsWake q aa sb s
  | .dsPrio q aa sb => Sys2Proof.Machine.execDsPrio q aa sb s
  | .dsQuery q sb => Sys2Proof.Machine.execDsQuery q sb s
  | .tlInv q sc aa sb => Sys2Proof.Machine.execTlInv q sc aa sb s
  | .tlInva q sc sb => Sys2Proof.Machine.execTlInva q sc sb s
  | .tlProbe q aa sb => Sys2Proof.Machine.execTlProbe q aa sb s
  | .tlRoot q aa sb => Sys2Proof.Machine.execTlRoot q aa sb s
  | .tlHash q aa sb => Sys2Proof.Machine.execTlHash q aa sb s
  | .tlDlog q aa sb => Sys2Proof.Machine.execTlDlog q aa sb s
  | .ptQuiesce q sb => Sys2Proof.Machine.execPtQuiesce q sb s
  | .ptResume q sb => Sys2Proof.Machine.execPtResume q sb s
  | .ptStateRead q sb => Sys2Proof.Machine.execPtStateRead q sb s
  | .ptLayout q aa sb => Sys2Proof.Machine.execPtLayout q aa sb s
  | .ptVfsetAssign q aa sb => Sys2Proof.Machine.execPtVfsetAssign q aa sb s
  | .ptVfsetRelease q aa sb => Sys2Proof.Machine.execPtVfsetRelease q aa sb s
  | .ptWays q sb => Sys2Proof.Machine.execPtWays q sb s
  | .ptMove q aa sb => Sys2Proof.Machine.execPtMove q aa sb s
  | .ptRetire q aa sb => Sys2Proof.Machine.execPtRetire q aa sb s
  | .ptFlr q sb => Sys2Proof.Machine.execPtFlr q sb s
  | .gtLset q sb => Sys2Proof.Machine.execGtLset q sb s
  | .gtParty q aa sb => Sys2Proof.Machine.execGtParty q aa sb s
  | .gtReleaseInstall q aa sb => Sys2Proof.Machine.execGtReleaseInstall q aa sb s
  | .gtReleaseRevoke q aa sb => Sys2Proof.Machine.execGtReleaseRevoke q aa sb s
  | .gtReleaseApply q aa sb => Sys2Proof.Machine.execGtReleaseApply q aa sb s
  | .jxRecv t s1 d => Sys2Proof.Machine.execJxRecv t s1 d s
  | .jxSend t s1 d => Sys2Proof.Machine.execJxSend t s1 d s
  | .jxWait s1 d => Sys2Proof.Machine.execJxWait s1 d s
  | .jxEnd => Sys2Proof.Machine.execJxEnd s
  | .jxEcreate s1 d => Sys2Proof.Machine.execJxEcreate s1 d s
  | .jxEload s1 d => Sys2Proof.Machine.execJxEload s1 d s
  | .jxEpark d => Sys2Proof.Machine.execJxEpark d s
  | .jxMabort s1 d => Sys2Proof.Machine.execJxMabort s1 d s
  | .jxWaitResume => Sys2Proof.Machine.execJxWaitResume s
  | .claim => Sys2Proof.Machine.execClaim s
  | .landingArrival k => Sys2Proof.Machine.execLandingArrival k s
  | .landingTimeout => Sys2Proof.Machine.execLandingTimeout s
  | .safePointOverrun => Sys2Proof.Machine.execSafePointOverrun s
  | .trap c info addr => Sys2Proof.Machine.execTrap c info addr s
  | .faultQueuePost => Sys2Proof.Machine.execFaultQueuePost s
  | .sliceEnd => Sys2Proof.Machine.execSliceEnd s
  | .priorityPreemption => Sys2Proof.Machine.execPriorityPreemption s
  | .waitConditionMet r => Sys2Proof.Machine.execWaitConditionMet r s
  | .waitDeadline r => Sys2Proof.Machine.execWaitDeadline r s
  | .readyTableAdmit r => Sys2Proof.Machine.execReadyTableAdmit r s
  | .spinSuspend => Sys2Proof.Machine.execSpinSuspend s
  | .heldGroupIssue => Sys2Proof.Machine.execHeldGroupIssue s
  | .barrierArrival n vf => Sys2Proof.Machine.execBarrierArrival n vf s
  | .pageWalk va vf kind prv => Sys2Proof.Machine.execPageWalk va vf kind prv s
  | .rds line r => Sys2Proof.Machine.execRds line r s
  | .rdx line r => Sys2Proof.Machine.execRdx line r s
  | .upg line r => Sys2Proof.Machine.execUpg line r s
  | .wbd line r => Sys2Proof.Machine.execWbd line r s
  | .evc line r => Sys2Proof.Machine.execEvc line r s
  | .fwds line o => Sys2Proof.Machine.execFwds line o s
  | .fwdx line o => Sys2Proof.Machine.execFwdx line o s
  | .inv line o => Sys2Proof.Machine.execInv line o s
  | .dat line r => Sys2Proof.Machine.execDat line r s
  | .cmpMessage line r => Sys2Proof.Machine.execCmpMessage line r s
  | .ack line r => Sys2Proof.Machine.execAck line r s
  | .don line r => Sys2Proof.Machine.execDon line r s
  | .dieLinkFailure a b => Sys2Proof.Machine.execDieLinkFailure a b s
  | .uncorrectableError pa => Sys2Proof.Machine.execUncorrectableError pa s
  | .correctableError pa => Sys2Proof.Machine.execCorrectableError pa s
  | .commandCompletion k => Sys2Proof.Machine.execCommandCompletion k s
  | .overlayLoadComplete => Sys2Proof.Machine.execOverlayLoadComplete s
  | .cpCszWrite v => Sys2Proof.Machine.execCpCszWrite v s
  | .fpSeedWrite v lbl => Sys2Proof.Machine.execFpSeedWrite v lbl s
  | .fpVcfgWrite v lbl => Sys2Proof.Machine.execFpVcfgWrite v lbl s
  | .fpModeWrite v lbl => Sys2Proof.Machine.execFpModeWrite v lbl s
  | .patternLoadEnd => Sys2Proof.Machine.execPatternLoadEnd s
  | .blockPortWrite => Sys2Proof.Machine.execBlockPortWrite s
  | .subarrayIdleOff im => Sys2Proof.Machine.execSubarrayIdleOff im s
  | .subarrayOn im => Sys2Proof.Machine.execSubarrayOn im s
  | .mxPoolWrite v => Sys2Proof.Machine.execMxPoolWrite v s
  | .taskStart k => Sys2Proof.Machine.execTaskStart k s
  | .taskEnd k => Sys2Proof.Machine.execTaskEnd k s
  | .nodePull h seg node => Sys2Proof.Machine.execNodePull h seg node s
  | .takeDelivery h seg member => Sys2Proof.Machine.execTakeDelivery h seg member s
  | .configRefill h => Sys2Proof.Machine.execConfigRefill h s
  | .clRingWrite v => Sys2Proof.Machine.execClRingWrite v s
  | .instructionBudgetExpiry => Sys2Proof.Machine.execInstructionBudgetExpiry s
  | .wallBudgetExpiry ep => Sys2Proof.Machine.execWallBudgetExpiry ep s
  | .episodeWipeComplete ep => Sys2Proof.Machine.execEpisodeWipeComplete ep s
  | .jwi => Sys2Proof.Machine.execJwi s
  | .jackWrite v => Sys2Proof.Machine.execJackWrite v s
  | .poolSlotEnqueue part slot => Sys2Proof.Machine.execPoolSlotEnqueue part slot s
  | .graphActivation => Sys2Proof.Machine.execGraphActivation s
  | .dsAbortGo core => Sys2Proof.Machine.execDsAbortGo core s
  | .policyInstallComplete k => Sys2Proof.Machine.execPolicyInstallComplete k s
  | .scrubLine => Sys2Proof.Machine.execScrubLine s
  | .frameMove => Sys2Proof.Machine.execFrameMove s
  | .mediaEntryTake e c => Sys2Proof.Machine.execMediaEntryTake e c s
  | .mediaDecode e c => Sys2Proof.Machine.execMediaDecode e c s
  | .mediaFlush e c => Sys2Proof.Machine.execMediaFlush e c s
  | .mediaReset e c => Sys2Proof.Machine.execMediaReset e c s
  | .mediaCompletion e c => Sys2Proof.Machine.execMediaCompletion e c s
  | .msCtlWrite e c v => Sys2Proof.Machine.execMsCtlWrite e c v s
  | .hostMemoryRead port off n => Sys2Proof.Machine.execHostMemoryRead port off n s
  | .hostMemoryWrite port off data => Sys2Proof.Machine.execHostMemoryWrite port off data s
  | .hostAtomic port off op size x y => Sys2Proof.Machine.execHostAtomic port off op size x y s
  | .spdmGetVersion port => Sys2Proof.Machine.execSpdmGetVersion port s
  | .spdmGetCapabilities port => Sys2Proof.Machine.execSpdmGetCapabilities port s
  | .spdmNegotiateAlgorithms port => Sys2Proof.Machine.execSpdmNegotiateAlgorithms port s
  | .spdmGetDigests port => Sys2Proof.Machine.execSpdmGetDigests port s
  | .spdmGetCertificate port => Sys2Proof.Machine.execSpdmGetCertificate port s
  | .spdmChallenge port => Sys2Proof.Machine.execSpdmChallenge port s
  | .spdmGetMeasurements port => Sys2Proof.Machine.execSpdmGetMeasurements port s
  | .spdmKeyExchange port => Sys2Proof.Machine.execSpdmKeyExchange port s
  | .spdmFinish port => Sys2Proof.Machine.execSpdmFinish port s
  | .spdmEndSession port => Sys2Proof.Machine.execSpdmEndSession port s
  | .mbVersion => Sys2Proof.Machine.execMbVersion s
  | .mbImageWrite => Sys2Proof.Machine.execMbImageWrite s
  | .mbImageCommit => Sys2Proof.Machine.execMbImageCommit s
  | .mbLifeCycleTransition => Sys2Proof.Machine.execMbLifeCycleTransition s
  | .mbThrottle => Sys2Proof.Machine.execMbThrottle s
  | .mbLogDrain => Sys2Proof.Machine.execMbLogDrain s
  | .mcHeadWrite v => Sys2Proof.Machine.execMcHeadWrite v s
  | .msiRaise port v lbl => Sys2Proof.Machine.execMsiRaise port v lbl s
  | .deviceRegisterWrite off v => Sys2Proof.Machine.execDeviceRegisterWrite off v s
  | .qlTrain p => Sys2Proof.Machine.execQlTrain p s
  | .qlEnableWrite p v => Sys2Proof.Machine.execQlEnableWrite p v s
  | .qlTrainComplete p lanes => Sys2Proof.Machine.execQlTrainComplete p lanes s
  | .quaylinkFlit p dst src ch addr data lbl => Sys2Proof.Machine.execQuaylinkFlit p dst src ch addr data lbl s
  | .quaylinkPortDown p => Sys2Proof.Machine.execQuaylinkPortDown p s
  | .coldReset => Sys2Proof.Machine.execColdReset s
  | .boot => Sys2Proof.Machine.execBoot s
  | .thermalThrottle die => Sys2Proof.Machine.execThermalThrottle die s
  | .powerLimitThrottle => Sys2Proof.Machine.execPowerLimitThrottle s
  | .hartInstruction rv compressed => Sys2Proof.Machine.execHartInstruction rv compressed s
  | .machineTimerInterrupt => Sys2Proof.Machine.execMachineTimerInterrupt s
  | .thermalThrottleRelease die => Sys2Proof.Machine.execThermalThrottleRelease die s
  | .powerLimitRelease => Sys2Proof.Machine.execPowerLimitRelease s

end Sys2Proof.Machine
end

