-- ==== Sys2Proof/Machine/Sequencer.lean ====
section
/-! DEFINITION. The sequencer: fetching a group (R41, R107, R110), its checks (R42, R43), the order of traps and holds
(R27, R35, R130, R143), the issue of its words in slot order (R28, R466) and the domain of a locked quad (R24, R128).
`Ex` runs a word, `Inf` says what it reads and writes; step supplies decode and exec. -/
namespace Sys2Proof.Machine

abbrev Ex := IWord → State → Host.Outcome State Fault Refusal
abbrev Inf := IWord → Option Info

/-- The slot class of a major opcode (R32); none for 0x1E and 0x1F. -/
def clsOf (w : IWord) : Option Cls :=
  let m := bits w.toNat 30 26
  if m ≤ 4 ∨ m = 0xC then some .s
  else if m ≤ 9 ∨ m = 0xB then some .a
  else if m = 0xA then some .b
  else if m ≤ 0x15 then some .v
  else if m ≤ 0x17 then some .x
  else if m ≤ 0x1D then some .e
  else none

/-- Slot order S, S, A, B, V, X, E (R28, R35). Words of majors 0x1E and 0x1F belong to no slot (R32): the spec gives them no
place, and the model ranks them last and counts them in no class (DESIGN CHOICE, log 22). -/
def clsRank : Option Cls → Nat
  | some .s => 0 | some .a => 1 | some .b => 2 | some .v => 3 | some .x => 4 | some .e => 5 | none => 6
def clsCap : Option Cls → Nat
  | some .s => 2 | none => 7 | _ => 1

/-! ## Fetch -/

/-- A word of a group: its position, its bits, what it reads and writes (none: no instruction). -/
structure GWord where
  pos : Nat
  raw : IWord
  info : Option Info
  deriving DecidableEq, Repr

def number (inf : Inf) (c : Core) : Nat → List IWord → List GWord
  | _, [] => []
  | n, w :: ws => ⟨n, w, (inf w).map (liveInfo c w)⟩ :: number inf c (n + 1) ws

/-- No stop bit within seven words, or the end of the half before one (R41, R135). A run of eight words or more has both no stop
bit within seven words and a word in excess of seven; of the two reasons of R135 the model reports 0 (DESIGN CHOICE, log 22). -/
def stopError (ws : List IWord) : Option (Nat × Nat) :=
  match ws.getLast? with
  | some w => if w.getLsbD 31 then none else if ws.length = 7 then some (0, 7) else some (1, 7)
  | none => some (1, 7)

/-! ## R42 and R43 -/

def countCls (k : Option Cls) (g : List GWord) : Nat := (g.filter (fun w => clsOf w.raw == k)).length

/-- The first word in excess of its class (R42). -/
def classError (g : List GWord) : Option (Nat × Nat) :=
  ((g.find? (fun w => decide (clsCap (clsOf w.raw) < countCls (clsOf w.raw) (g.take (w.pos + 1))))).map (fun w => (2, w.pos)))

/-- May two compares write one pair (R43)? Both and-types, or both or-types. -/
def pairOk (x y : GWord) : Bool :=
  let isCmp (w : IWord) : Bool := bits w.toNat 30 26 == 3 || bits w.toNat 30 26 == 4
  let ct (w : IWord) : Nat := bits w.toNat 21 19
  isCmp x.raw && isCmp y.raw && (((ct x.raw == 2 || ct x.raw == 4) && (ct y.raw == 2 || ct y.raw == 4))
    || ((ct x.raw == 3 || ct x.raw == 5) && (ct y.raw == 3 || ct y.raw == 5)))

/-- The registers a word writes (R43). A word that is no instruction, with a reserved field that is not zero or an illegal
operand or minor, counts as reading and writing none, so that a group whose only conflict is with it raises 0x02; the spec does
not say so (DESIGN CHOICE, log 22). -/
def writesOf (w : GWord) : List RegName := match w.info with
  | some i => i.wr.filter (fun r => !r.isConst)
  | none => []
/-- Source operands, and the qualifying predicate (R43). -/
def readsOf (w : GWord) : List RegName := match w.info with
  | some i => i.rd ++ (if i.qp = 0 then [] else [.p i.qp])
  | none => []

/-- The first word that writes a register written before it in the group, or reads one that another word writes (R43). -/
def regError (g : List GWord) : Option (Nat × Nat) :=
  g.findSome? (fun w =>
    if (writesOf w).any (fun r => g.any (fun x => decide (x.pos < w.pos) && (writesOf x).contains r && !pairOk x w)) then some (3, w.pos)
    else if (readsOf w).any (fun r => g.any (fun x => x.pos != w.pos && (writesOf x).contains r)) then some (4, w.pos)
    else none)

/-- The illegal encoding of a group, as reason and position (R41 to R43, R135). -/
def groupError (ws : List IWord) (g : List GWord) : Option (Nat × Nat) :=
  match stopError ws with
  | some e => some e
  | none => match classError g with
    | some e => some e
    | none => regError g

/-! ## Issue -/

/-- The words in slot order. -/
def slotSort (g : List GWord) : List GWord :=
  (List.range 7).flatMap (fun k => g.filter (fun w => clsRank (clsOf w.raw) == k))

def isSafeWord (w : IWord) : Bool := bits w.toNat 30 26 == 0xC && bits w.toNat 21 17 == 0
/-- suspend, yield and retire leave after the rest of their group (R125). -/
def leaves (w : IWord) : Bool := bits w.toNat 30 26 == 0xC && (bits w.toNat 21 17 == 1 || bits w.toNat 21 17 == 2 || bits w.toNat 21 17 == 3)
def groupSafe (g : List GWord) : Option (BitVec 16) := (g.find? (fun w => isSafeWord w.raw)).map (fun w => w.raw.setWidth 16)

/-- The word's context in its group, as its meaning sees it. -/
def setWord (pc : Addr) (s : State) (g : List GWord) (w : GWord) : State :=
  let c := s.core
  let old := c.grp
  { s with core := { c with
    mark := .none,
    grp := { start := pc, word := pc + BitVec.ofNat 72 (4 * w.pos), next := old.next, raw := w.raw, count := g.length,
             safe := groupSafe g, members := g.filterMap (·.info), slots := g.filterMap (fun x => clsOf x.raw), eArr := old.eArr, xArr := old.xArr } } }

/-- Run a word: an instruction by `ex`, anything else as illegal instruction (R47, R49). -/
def runWord (ex : Ex) (pc : Addr) (g : List GWord) (s : State) (w : GWord) : Host.Outcome State Fault Refusal :=
  let t := setWord pc s g w
  match w.info with
  | none => settle t (.error (illegal t))
  | some _ => ex w.raw t

/-- What trying a group finds: it issues, or it ends with this outcome. -/
inductive Tried where
  | issues
  | ends (o : Host.Outcome State Fault Refusal)

def isTrap (c : Nat → Bool) : Host.Outcome State Fault Refusal → Bool
  | .next t => match t.core.mark with
    | .trapped k _ _ => c k
    | _ => false
  | _ => false
def isHeld : Host.Outcome State Fault Refusal → Bool
  | .next t => t.core.mark == .held
  | _ => false
def isLeft : Host.Outcome State Fault Refusal → Bool
  | .next t => t.core.mark == .left
  | _ => false
def isStop : Host.Outcome State Fault Refusal → Bool
  | .next _ => false
  | _ => true

/-- The trap of a landing that is due now and was lost to a link fault (R144). -/
def lostNow (s : State) : Option State :=
  match firstLost s.core with
  | some (va, c) =>
    if s.core.pend.any (fun e => e.lost && decide (e.due ≤ s.core.tick)) then some (takeTrap { s with core := c } 0x13 0 va.toNat) else none
  | none => none

/-- Every word's labels join the context label before any result of the group is labelled (R466). -/
def joinGroup (g : List GWord) (s : State) : State :=
  { s with core := { s.core with
    grp := { start := s.core.pc, word := s.core.pc, next := s.core.grp.next, raw := 0, count := g.length, safe := groupSafe g,
             members := g.filterMap (fun (w : GWord) => w.info),
             slots := g.filterMap (fun (w : GWord) => clsOf w.raw), eArr := [], xArr := [] } }.joinCl (orAll (g.map (fun (w : GWord) => match w.info with | some i => joinLabel s.core i ||| liveJoin s w.raw i | none => 0))) }

/-- A trap that only arises as the group issues, taken on the state before it: of a lost landing met by a word that leaves,
or of a word. -/
def retrap (s : State) (c info addr : Nat) : State :=
  match (if c = 0x13 then firstLost s.core else none) with
  | some (_, k) => takeTrap { s with core := k } c info addr
  | none => takeTrap s c info addr

/-- Issue words in order; a trap or hold that only arises here ends the group with no effect, on the state s0 before it. -/
def foldWords (ex : Ex) (g : List GWord) (s0 : State) : State → List GWord → Except (Host.Outcome State Fault Refusal) State
  | s, [] => .ok s
  | s, w :: ws =>
    match runWord ex s0.core.pc g s w with
    | .next t => match t.core.mark with
      | .trapped c i a => .error (.next (retrap s0 c i a))
      | .held => .error (.next (heldOne s0 t.core.waiting none))
      | m => match foldWords ex g s0 t ws with
        | .ok u => .ok (if m = .transfer then setMark u .transfer else u)
        | .error e => .error e
    | o => .error o

/-- The state in which the words of a group act: every word's labels joined, those of its pass end too when the group ends a
pass of the nest (R113, R466). -/
def groupState (ex : Ex) (g : List GWord) (s0 s : State) : State :=
  let j := joinGroup g s
  if passEnds s.core then
    match foldWords ex g s0 j ((slotSort g).filter (fun w => !leaves w.raw)) with
    | .ok t => if t.core.nest.act ∧ t.core.mark ≠ .transfer then { j with core := j.core.joinCl (passLabel s.core) } else j
    | .error _ => j
  else j

/-- A word tried on the state s before its group; a trap that the labels of its group give it (R466), in the state j in which
they have joined, is taken on s too. -/
def tryWord (ex : Ex) (g : List GWord) (s j : State) (w : GWord) : Host.Outcome State Fault Refusal :=
  let o := runWord ex s.core.pc g s w
  if j.core.cl = s.core.cl then o
  else match runWord ex s.core.pc g j w with
    | .next t => match t.core.mark with
      | .trapped c i a => match o with
        | .next u => if u.core.mark = .trapped c i a then o else .next (retrap s c i a)
        | x => x
      | _ => o
    | x => x

/-- A group that its first holding word holds is held by the sub-arrays too when one of its words waits for them: the hold
starts waking those that are off (R283). -/
def withWake (s : State) (l : List (GWord × Host.Outcome State Fault Refusal)) : Host.Outcome State Fault Refusal → Host.Outcome State Fault Refusal
  | .next t => if t.core.mark = .held then
      match l.findSome? (fun e => match e.2 with
        | .next u => if u.core.mark = .held ∧ u.core.subs ≠ s.core.subs then some u.core.subs else none
        | _ => none) with
      | some x => .next { t with core := { t.core with subs := x } }
      | none => .next t
    else .next t
  | o => o

/-- The outcome a group ends with when it does not issue (R34, R35, R61, R124, R130, R144): each word is tried on the state before
the group; `err` is the group's illegal encoding. A lost landing belongs to no word: its place, after illegal encoding and
before the words' other causes, is the model's (DESIGN CHOICE, log 22). Safe-point overrun belongs to no word either (R35), and R36 gives it a
word's address as TR_ADDR: the model takes the group's, its first word's (DESIGN CHOICE, log 22). -/
def tryWords (ex : Ex) (g : List GWord) (err : Option (Nat × Nat)) (s : State) : Tried :=
  let j := groupState ex g s s
  let l := (slotSort g).map (fun w => (w, tryWord ex g s j w))
  match err with
  | some (r, p) => match l.find? (fun e => isTrap (· == 0x15) e.2) with
    | some e => .ends e.2
    | none => .ends (.next (takeTrap s 1 (encInfo r p) s.core.pc.toNat))
  | none => match l.find? (fun e => isSafeWord e.1.raw && isLeft e.2) with
    | some e => .ends e.2
    | none => match l.find? (fun e => isStop e.2) with
      | some e => .ends e.2
      | none => match l.find? (fun e => isTrap (· == 0x15) e.2) with
        | some e => .ends e.2
        | none => match l.find? (fun e => isTrap (· == 1) e.2) with
          | some e => .ends e.2
          | none => match lostNow s with
            | some t => .ends (.next t)
            | none => match l.find? (fun e => isTrap (fun _ => true) e.2) with
              | some e => .ends e.2
              | none =>
                if 4097 ≤ s.core.cont.dist then
                  .ends (.next (takeTrap s 0x16 (s.core.cont.spx.toNat + (4097 <<< 16)) s.core.pc.toNat))
                else match l.find? (fun e => isHeld e.2 || (isLeft e.2 && !leaves e.1.raw)) with
                  | some e => .ends (withWake s l e.2)
                  | none => .issues

/-! ## Cycles and domains -/

/-- The cores of the focused core's timed domain (R24, R128): itself, or those of a locked quad that run a record. Whether a
locked domain ends with a retirement is left open: the others stay locked (DESIGN CHOICE, log 23). -/
def domain (s : State) : List Nat :=
  if s.core.locked then (quadCores s.coreNo).filter (fun n => (coreAt s n).locked && (coreAt s n).run.isSome) else [s.coreNo]

/-- Do f on every core of a list in turn. -/
def eachCore (f : State → State) (ns : List Nat) (s : State) : State := ns.foldl (fun t n => f (focus t n)) s

/-- Pulses that a domain of this die loses beside one that counts, and the remainder that the next cycle starts from
(R30, R532). -/
def swallowed (s : State) : Nat × Nat :=
  let t := thr s (dieNo s)
  let r := ((lookup s.dev.swal s.coreNo).getD (0, 0)).2
  if t = 0 then (0, r) else ((r + t) / (256 - t), (r + t) % (256 - t))

/-- One cycle of the clock of a core passes: its counters of cycles go on, whether or not the domain is frozen (R237, R267,
R283, R376). -/
def coreCycle (c : Core) (l : Nat) : Core :=
  { c with
    ltime := l, sfu := c.sfu - 1, skBusy := c.skBusy - 1, patBusy := c.patBusy.map (fun p => { p with left := p.left - 1 }),
    subs := c.subs.map (fun x => { x with cnt := x.cnt - 1 }) }

/-- Count the pulses swallowed on a core (R532). -/
def countSwal (n k r : Nat) (d : Dev) : Dev :=
  if k = 0 ∧ r = 0 then d else { d with swal := insertKey n (((lookup d.swal n).getD (0, 0)).1 + k, r) d.swal }

/-- One cycle of the clock of the cores ns of a domain passes, after the pulses that all of them lose together (R4, R30);
what has become a candidate in it is next in order (R430), and the conditions of queued tasks that hold now have held (R301). -/
def cycleOf (ns : List Nat) (s : State) : State :=
  let (k, r) := swallowed s
  let l := (ns.map (fun n => (coreAt s n).ltime)).foldl max s.time + 4 * k + 4
  let s1 := ns.foldl (fun t n => updCore { t with dev := countSwal n k r t.dev } n (fun c => coreCycle c l)) s
  latchTasks (refresh (measure s { s1 with time := l }))

/-- One cycle of the focused core's domain. -/
def oneCycle (s : State) : State := cycleOf (domain s) s

/-- Idle time of the sub-arrays that are on: a tick, or a cycle of a core that runs no continuation, in which no block
runs (R283). -/
def countIdle (busy : Bool) (x : SubArr) : SubArr :=
  if x.pw = 2 then { x with idle := if busy then 0 else x.idle + 1 } else x

/-- The end of a tick whose group issued (R4, R130, R432). Each record of a locked quad has its distance, which its own core's
safe groups reset: R130's "counts once" leaves open whether one core's safe group resets the others' (DESIGN CHOICE, log 22). -/
def endTick (g : List GWord) (s : State) : State :=
  let c := s.core
  let reset := (groupSafe g).isSome || g.any (fun w => leaves w.raw)
  let run := c.run.map (fun r => { r with
    dist := (if reset then 0 else r.dist) + 1, spx := (groupSafe g).getD r.spx, slice := r.slice + 1 })
  { s with core := { c with
    tick := c.tick + 1, frozen := 0, spun := 0, waiting := false, spinW := none, wantsLock := false, mark := .none, run := run,
    subs := c.subs.map (countIdle (decide (c.tick < c.blockEnd))) } }

/-- How many of the 96 an effect in flight takes (R143): one for a result, a flag update or a tied arrival; a z block counts
its 512-byte parts, as R294 counts the port's (R146), and one when it is a write of tick 1, which no suspension finds in
flight (log 15). -/
def weight (tick : Nat) (e : Pend) : Nat :=
  match e.eff with
  | .z _ _ mask => if e.due ≤ tick + 1 then 1 else ((List.range 16).filter (fun i => rf mask.toNat (512 * i) 512 != 0)).length
  | x => b2n x.isResult

/-- The tied arrivals that wait for a command or a pattern load to complete (R120, R263), which a freeze does not stop. -/
def heldArrivals (c : Core) : Nat :=
  (c.cmds.map (·.arr.length)).sum + (match c.patBusy with
    | some p => p.arr.length
    | none => 0)

/-- Results, flag updates and tied arrivals in flight (R143), the port and the blocks (R294) and the arrivals of commands and
pattern loads included. -/
def inFlight (c : Core) : Nat :=
  (c.pend.map (weight c.tick)).sum + (if c.portLive then 16 else 0) + 17 * c.blocks.length + heldArrivals c

/-- Is a landing due now whose data has not arrived (R27)? -/
def coreLate (c : Core) : Bool := c.pend.any (fun e => decide (e.due ≤ c.tick) && e.late)

/-- The tick's due effects land (R25, R28). -/
def beginCore (s : State) : State :=
  let s1 := landDue s.core.tick s
  { s1 with core := landBlocks s1.core.tick s1.core }

/-- The state with the tick's due effects landed, unless a landing has not arrived (R25, R27). -/
def beginTick (s : State) : Except (Host.Outcome State Fault Refusal) State :=
  if coreLate s.core then .error (.next (heldOne s false none)) else .ok (beginCore s)

/-- The group at pc, tried on a state whose tick has begun. -/
def tryGroup (inf : Inf) (ex : Ex) (s : State) : List GWord × Tried :=
  let ws := fetchGroup s.core
  let g := number inf s.core 0 ws
  (g, tryWords ex g (groupError ws g) s)

/-- Issue a group that tries well on s, the words before the one that leaves, the labels of its pass end included when it
ends a pass of the nest (R28, R113, R466). -/
def issueWords (ex : Ex) (g : List GWord) (s0 s : State) : Except (Host.Outcome State Fault Refusal) State :=
  foldWords ex g s0 (groupState ex g s0 s) ((slotSort g).filter (fun w => !leaves w.raw))

/-- The words that leave, in slot order, after the rest of their group (R125): the first whose predicate is true leaves. -/
def leaveWords (ex : Ex) (g : List GWord) (s0 : State) : State → List GWord → Host.Outcome State Fault Refusal
  | t, [] => .next (endTick g t)
  | t, w :: ws =>
    match runWord ex s0.core.pc g t w with
    | .next u => match u.core.mark with
      | .left => .next (endTick g u)
      | .trapped c i a => .next (retrap s0 c i a)
      | .held => .next (heldOne s0 u.core.waiting none)
      | _ => leaveWords ex g s0 u ws
    | o => o

/-- Issue a group that tries well: words, the following group, then the words that leave (R28, R113, R125, R143). What keeps
it from issuing leaves s0, the state as the tick began. A group that would bring more than 96 effects in flight is held; in a
freeze no exposed pipeline advances (R27), so the hold ends as that of R26 without a late landing does (log 12). -/
def issueGroup (ex : Ex) (g : List GWord) (s0 s : State) : Host.Outcome State Fault Refusal :=
  match issueWords ex g s0 s with
  | .error o => o
  | .ok t =>
    if 96 < inFlight t.core then .next (heldOne s0 false none)
    else
      let t1 := if t.core.mark = .transfer then t else advance t
      let t2 := { t1 with core := { t1.core with grp := { t1.core.grp with next := t1.core.pc } } }
      match (slotSort g).filter (fun w => leaves w.raw) with
      | [] => .next (endTick g t1)
      | ws => leaveWords ex g s0 t2 ws

/-- The tick of a single-core domain. -/
def issueOne (inf : Inf) (ex : Ex) (s : State) : Host.Outcome State Fault Refusal :=
  match beginTick s with
  | .error o => o
  | .ok s1 => match tryGroup inf ex s1 with
    | (_, .ends o) => o
    | (g, .issues) => issueGroup ex g s1 s1

/-! ## A locked quad (R24, R27, R31, R128) -/

/-- Does a core's group issue, or is it merely held? -/
def Tried.isHeld : Tried → Bool
  | .issues => false
  | .ends o => Machine.isHeld o

/-- The groups of a domain issue, each on what those before it did, and all on the state s1 in which the tick began; the
first that a trap or a hold keeps from issuing ends the tick on s1, with no effect of the others. -/
def issueAll (ex : Ex) (s1 : State) : List (Nat × List GWord) → State → Host.Outcome State Fault Refusal
  | [], t => .next t
  | (n, g) :: l, t =>
    match issueGroup ex g (focus s1 n) (focus t n) with
    | .next u => match u.core.mark with
      | .none => issueAll ex s1 l u
      | _ => .next u
    | o => o

/-- A cycle in which no group of the domain issues (R27): each core whose own group is held records why, and keeps what the try of
that group has set (R153). -/
def holdAll (inf : Inf) (ex : Ex) (ns : List Nat) (s : State) : State :=
  ns.foldl (fun t n =>
    let u := focus t n
    match (tryGroup inf ex u).2 with
    | .ends (.next x) => if x.core.mark = .held then x else heldOne u false none
    | _ => heldOne u false none) s

/-- qfree splits the domain after the tick of its group (R128). -/
def splitQuad (s : State) : State :=
  if (quadCores s.coreNo).any (fun n => (coreAt s n).pend.any (fun e => e.eff == .unlock)) then
    (quadCores s.coreNo).foldl (fun t n => updCore t n (fun c =>
      { c with locked := false, pend := c.pend.filter (fun e => e.eff != .unlock) })) s
  else s

/-- The groups of cores ns, whose tick has begun in s1, issue together or not at all. Where the groups of several cores of a
locked quad raise traps in one tick, R31 does not say which record carries its cause: the first core's trap is taken, and the
other records carry CAUSE 0x00 (DESIGN CHOICE, log 22). -/
def issueTogether (inf : Inf) (ex : Ex) (ns : List Nat) (s1 : State) : Host.Outcome State Fault Refusal :=
  let l := ns.map (fun n => (n, tryGroup inf ex (focus s1 n)))
  match l.findSome? (fun e => match e.2.2 with
    | .ends o => if isHeld o then none else some o
    | .issues => none) with
  | some o => o
  | none =>
    if l.any (fun e => e.2.2.isHeld) then .next (holdAll inf ex ns s1)
    else match issueAll ex s1 (l.map (fun e => (e.1, e.2.1))) s1 with
      | .next t => .next (if t.core.mark = .held then eachCore (fun u => heldOne u false none) (ns.filter (· != t.coreNo)) t else t)
      | o => o

/-- One cycle of a locked quad: late data of any core freezes them all before any group is looked at (R27); a trap of one
suspends them all (R31). -/
def quadCycle (inf : Inf) (ex : Ex) (s : State) : Host.Outcome State Fault Refusal :=
  let me := s.coreNo
  let ns := domain s
  if ns.any (fun n => coreLate (coreAt s n)) then .next (cycleOf ns (focus (eachCore (fun u => heldOne u false none) ns s) me))
  else match issueTogether inf ex ns (eachCore beginCore ns s) with
    | .next t => .next (match t.core.mark with
      | .trapped .. => focus t me
      | .left => focus t me
      | _ => splitQuad (cycleOf ns (focus t me)))
    | o => o

/-- The qlock of the focused core has joined the quad: the other three issue their held groups in the same cycle (R128), or
the lock waits. s is the state before the cycle, t after the focused core's group. -/
def joinQuad (inf : Inf) (ex : Ex) (s t : State) : Host.Outcome State Fault Refusal :=
  let me := s.coreNo
  let ns := (quadCores me).filter (· != me)
  match issueTogether inf ex ns (eachCore beginCore ns t) with
  | .next u =>
    if ns.all (fun n => (coreAt u n).mark = .none) ∧ (coreAt u me).locked then .next (oneCycle (focus u me))
    else
      let w := beginCore s
      .next (oneCycle (heldOne { w with core := { w.core with wantsLock := true } } true none))
  | o => o

/-- One cycle of the domain of the focused core, which runs a record. -/
def domainCycle (inf : Inf) (ex : Ex) (s : State) : Host.Outcome State Fault Refusal :=
  if s.core.locked then quadCycle inf ex s
  else match issueOne inf ex s with
    | .next t => match t.core.mark with
      | .trapped .. => .next t
      | .left => .next t
      | .held => .next (oneCycle t)
      | _ => if t.core.locked then joinQuad inf ex s t else .next (oneCycle t)
    | o => o

/-- An idle core asks for a record; a cycle passes (R20). It is a tick, unless a claim waits in it (R195, R263): R4 makes every cycle of a domain's clock one that is
neither swallowed nor frozen, and R532 counts the cycles so; R283 speaks of cycles here (DEDUCED, log 22). -/
def idleCycle (s : State) : State :=
  oneCycle (claimFor { s with core := { s.core with tick := s.core.tick + b2n (!claimWaits s), subs := s.core.subs.map (countIdle false) } })

def coreTurn (inf : Inf) (ex : Ex) (s : State) : Host.Outcome State Fault Refusal :=
  if s.core.run.isSome then
    match domainCycle inf ex s with
    | .next t => .next (wakeNew s t)
    | o => o
  else .next (idleCycle s)

end Sys2Proof.Machine
end

