-- ==== Sys2Proof/Machine/Auto.lean ====
section
/-! DEFINITION. The part's own next event when the agenda asks for nothing (log 2), and what places a word for a core or a
hart to issue (log 11). -/
namespace Sys2Proof.Machine

/-- The first index below n with a property. -/
def firstIx (n : Nat) (p : Nat → Bool) : Option Nat := (List.range n).find? p

/-! ## The core in focus -/

/-- A landing whose data arrives now: one that is due, or any while the domain is frozen. -/
def landingNow (c : Core) : Option Nat := c.pend.findIdx? (fun e => e.late && (decide (e.due ≤ c.tick) || c.frozen != 0))

/-- A command that may end now. -/
def commandNow (s : State) : Option Instr :=
  match s.core.cmds.findIdx? (fun c => cmdMayEnd s.core c && c.kind != .post && c.kind != .take && c.kind != .reshard) with
  | none => none
  | some k => match (s.core.cmds[k]?).map (fun (c : Cmd) => c.kind) with
    | some .move => some .frameMove
    | some .ovl => some .overlayLoadComplete
    | some .install => some (.policyInstallComplete k)
    | _ => some (.commandCompletion k)

/-- The events of the focused core, in the order in which this model takes them. -/
def coreEvent (s : State) : Option Instr :=
  let c := s.core
  if timedOut c then some .landingTimeout
  else match landingNow c with
    | some k => some (.landingArrival k)
    | none =>
      if (c.patBusy.map (·.left)) = some 0 then some .patternLoadEnd
      else match firstIx 4 (fun i => match c.subs.toList[i]? with
          | some x => x.pw == 1 && x.cnt == 0
          | none => false) with
        | some i => some (.subarrayOn (BitVec.ofNat 2 i))
        | none => match firstIx 4 (fun i => match c.subs.toList[i]? with
            | some x => x.pw == 2 && c.mxIdle != 0 && decide (c.mxIdle.toNat ≤ x.idle)
            | none => false) with
          | some i => some (.subarrayIdleOff (BitVec.ofNat 2 i))
          | none => if sliceOut s then some .sliceEnd else commandNow s

/-- The core of the focused core's locked quad whose event comes next, when the focused core has none: the state with it in
focus. -/
def focusDue (s : State) : State :=
  if ¬s.core.locked ∨ (coreEvent s).isSome then s
  else match (quadCores s.coreNo).find? (fun n => (coreEvent (focus s n)).isSome) with
    | some n => focus s n
    | none => s

/-! ## The package -/

/-- A media context that has something to do. -/
def mediaEvent (s : State) : Option Instr :=
  s.dev.media.findSome? (fun m =>
    let e : BitVec 4 := BitVec.ofNat 4 (m.1 / 16)
    let c : BitVec 4 := BitVec.ofNat 4 m.1
    match m.2.cmd with
    | some q =>
      if q.finished then some (.mediaCompletion e c)
      else match mcOp q.img.toNat with
        | 1 => if (decodeNow s m.1).isSome then some (.mediaDecode e c) else none
        | 2 => if (flushNow s m.1).isSome then some (.mediaFlush e c) else none
        | _ => some (.mediaReset e c)
    | none => if (mediaTake s m.1).isSome then some (.mediaEntryTake e c) else none)

/-- The request that waits in the management mailbox. -/
def mailEvent (s : State) : Option Instr :=
  if ¬s.dev.mbBusy then none
  else match s.dev.mbOp with
    | 0x10 => some .mbImageWrite
    | 0x11 => some .mbImageCommit
    | 0x20 => some .mbLifeCycleTransition
    | 0x30 => some .mbThrottle
    | 0x40 => some .mbLogDrain
    | _ => some .mbVersion

/-- A pull or a delivery that some tree can make. -/
def treeEvent (s : State) : Option Instr :=
  s.trees.findSome? (fun t =>
    let e := readEnt s (t.1 / 2 ^ 20) (t.1 % 2 ^ 20)
    if e.st ≠ 2 then none
    else [e.cur, e.cur + 1].findSome? (fun n =>
      match firstIx e.ncnt (fun k => (nodePull s e.handle n k).isSome) with
      | some k => some (.nodePull (BitVec.ofNat 32 e.handle) n k)
      | none => (firstIx e.mcnt (fun i => (takeDelivery s e.handle n i).isSome)).map (fun i => .takeDelivery (BitVec.ofNat 32 e.handle) n i)))

/-- A task of the focused core's quad that starts or ends. -/
def taskEvent (s : State) : Option Instr :=
  if taskQ s = [] ∧ taskR s = [] then none
  else match nextTask (latchTasks s) with
    | some (n, _) => some (.taskStart n)
    | none => if taskR s = [] then none else some (.taskEnd 0)

/-- A pending slot that may enter its stage's ring (R436). -/
def poolEvent (s : State) : Option Instr :=
  (List.range 16).findSome? (fun p =>
    if ¬(List.range (partAt s p).stn.toNat).any (fun g => stageRd s p g 0x2C 4 != 0) then none
    else (firstIx 8192 (fun k => (enqueueSlot s p k).isSome)).map (fun k => .poolSlotEnqueue (BitVec.ofNat 4 p) k))

/-- A waiting record whose condition holds; no step comes before it, so that no wake-up is lost (R21). -/
def metEvent (s : State) : Option Instr :=
  (s.parked.find? (fun pa => !s.admits.contains pa && recSt (readRecord s pa) == 3 && waitHolds s pa)).map (fun pa =>
    if rf (readRecord s pa) 0x1D 1 = 7 then .waitDeadline (BitVec.ofNat 56 pa) else .waitConditionMet (BitVec.ofNat 56 pa))

/-- A record that a full ready table held back may enter it (R427). -/
def admitEvent (s : State) : Option Instr :=
  (s.admits.find? (fun pa => recSt (readRecord s pa) != 3 || readyRoom s (bits (rf (readRecord s pa) 0x2C 2) 7 6))).map
    (fun pa => .readyTableAdmit (BitVec.ofNat 56 pa))

/-- The events of the dispatcher and its walker. -/
def dispatchEvent (s : State) : Option Instr :=
  match s.acts with
  | _ :: _ => some .graphActivation
  | [] =>
    if (faultPost s).isSome then some .faultQueuePost
    else match admitEvent s with
      | some i => some i
      | none => match poolEvent s with
        | some i => some i
        | none => if (preempt s).isSome then some .priorityPreemption else none

/-- The watchdog and the wipes of episodes. -/
def episodeEvent (s : State) : Option Instr :=
  match s.armed.find? (wallOut s) with
  | some e => some (.wallBudgetExpiry (BitVec.ofNat 12 e))
  | none => match s.wiping with
    | e :: _ => some (.episodeWipeComplete (BitVec.ofNat 12 e))
    | [] => none

/-- The first event that is there, of a list of sources. -/
def firstOf : List (State → Option Instr) → State → Option Instr
  | [], _ => none
  | f :: fs, s => match f s with
    | some i => some i
    | none => firstOf fs s

/-- The event that the part makes by itself before the focused core's next cycle, if any is due; what runs in the
background waits for the core to be idle with nothing to claim. -/
def autoEvent (s : State) : Option Instr :=
  if s.dev.bootSt.toNat ≤ 1 then some .boot
  else match s.dev.cut with
    | p :: _ => some (.quaylinkPortDown p)
    | [] =>
      if s.core.run.isSome ∧ s.core.abort then some (.dsAbortGo (BitVec.ofNat 8 s.coreNo))
      else match firstOf [coreEvent, dispatchEvent, taskEvent, treeEvent, episodeEvent, mailEvent, mediaEvent] s with
        | some i => some i
        | none => if s.core.run.isNone ∧ s.scrub ≠ [] ∧ (choose (refresh s) s.coreNo).isNone then some .scrubLine else none

/-! ## Placing a word (log 11) -/

/-- The host's placing of an instruction for a core: a record of privilege F runs on the focused core, with the word alone
in a group of its active half; it stands for a claimed record whose code half holds the word. A word without the stop bit
is followed by a word that ends the group: `addi s0, s0, 0`. -/
def placeWord (s : State) (w : Nat) : State :=
  let base : Nat := 0x100000
  let code := if w / 2 ^ 31 % 2 = 1 then w else w + 0x84000000 * 2 ^ 32
  { s with
    agenda := [.core s.coreNo],
    core := { s.core with
      run := some (runningOf 0x10000 (0 + (2 <<< 84) + (2 <<< 72))), pc := BitVec.ofNat 72 (base + 16), buf := none, active := false,
      half0 := ⟨BitVec.ofNat 72 base, 2, 0, 0, cellsOf 8 16 code⟩, ctxs := s.core.ctxs.setIfInBounds 0 { TagCtx.free with owner := some 0x10000 },
      svf := some 0 } }

/-- The host's placing of a word for hart 0, which stands at address 64 in machine mode. -/
def placeHartWord (s : State) (w : Nat) : State :=
  { writePa (setHart s 0 { Hart.reset with pc := 64 }) 64 4 w with agenda := [.hart 0] }

end Sys2Proof.Machine
end

