-- ==== Sys2Proof/Machine/Step.lean ====
section
/-! DEFINITION. One step of the package: a turn of the agenda, an event of the part itself, or a cycle of the core in
focus (R4, R24; log 2). -/
namespace Sys2Proof.Machine

/-- Run a word of a core: decode it, execute it (R40). -/
noncomputable def runIWord (w : IWord) (s : State) : Host.Outcome State Fault Refusal :=
  match decode w.toNat with
  | .ok i => exec i s
  | .error _ => settle s (.error (illegal s))

/-- What a word reads and writes; none when it decodes to nothing. -/
noncomputable def iwordInfo (w : IWord) : Option Info :=
  match decode w.toNat with
  | .ok i => infoOf i
  | .error _ => none

/-- What hart n does in its turn, as an instruction, or the exception it takes. -/
def hartTurn (s : State) (n : Nat) : State × Except (Nat × Nat) Instr :=
  hartNext { s with hartNo := n }

/-- One step, given how a core's word is run and read: a waiting record whose condition holds becomes ready (R21), else a turn of
the agenda, the part's own next event, or a cycle of the core in focus. -/
def stepWith (inf : Inf) (ex : Ex) (s : State) : Host.Outcome State Fault Refusal :=
  match metEvent s with
  | some i => exec i s
  | none => match s.agenda with
    | .event i :: rest => exec i { s with agenda := rest }
    | .hart n :: rest =>
      if n < 96 then
        match hartTurn { s with agenda := rest } n with
        | (t, .ok i) => exec i t
        | (t, .error e) => hartSettle t (.error e)
      else .fault (.noSuchAgent n)
    | .core n :: rest => if n < 256 then coreTurn inf ex (focus { s with agenda := rest } n) else .fault (.noSuchAgent n)
    | [] =>
      let t := focusDue s
      match autoEvent t with
      | some i => exec i t
      | none => coreTurn inf ex t

noncomputable def step (s : State) : Host.Outcome State Fault Refusal := stepWith iwordInfo runIWord s

/-- The state in which the next step runs the given instruction: a hart's word when the pattern is one (log 11). -/
def State.withFetchWord (s : State) (_nbits w : Nat) : State :=
  if (decodeJx (w % 2 ^ 32)).isSome then placeHartWord s (w % 2 ^ 32) else placeWord s (w % 2 ^ 32)

end Sys2Proof.Machine
end

