-- ==== Sys2Proof/Machine/Fast.lean ====
section
/-! DEFINITION. The step as a program can run it: a word runs without its instruction being built, since the runtime cannot
build a value of a type this large. It is proved equal to `step`, which stays the meaning. -/
namespace Sys2Proof.Machine

def unmeant (s : State) : Host.Outcome State Fault Refusal := settle s (.error (illegal s))

/-- A decoded word, run and described. -/
noncomputable def ranBy (s : State) : Except DecodeError Instr → Host.Outcome State Fault Refusal
  | .ok i => exec i s
  | .error _ => unmeant s
noncomputable def knownBy : Except DecodeError Instr → Option Info
  | .ok i => infoOf i
  | .error _ => none

theorem ranBy_accept (s : State) (z : Bool) (i : Instr) :
    ranBy s (accept z i) = if z then (if i.wellFormed then exec i s else unmeant s) else unmeant s := by
  unfold accept; cases z <;> cases i.wellFormed <;> rfl
theorem knownBy_accept (z : Bool) (i : Instr) :
    knownBy (accept z i) = if z then (if i.wellFormed then infoOf i else none) else none := by
  unfold accept; cases z <;> cases i.wellFormed <;> rfl

def run00 (w : Nat) (s : State) : Host.Outcome State Fault Refusal :=
  match w / 32768 % 128 with
  | 0 => if true then (if true then execAdd (BitVec.ofNat 4 (w / 4194304 % 16)) (BitVec.ofNat 5 (w / 1024 % 32)) (BitVec.ofNat 5 (w / 32 % 32)) (BitVec.ofNat 5 (w % 32)) s else unmeant s) else unmeant s
  | 1 => if true then (if true then execSub (BitVec.ofNat 4 (w / 4194304 % 16)) (BitVec.ofNat 5 (w / 1024 % 32)) (BitVec.ofNat 5 (w / 32 % 32)) (BitVec.ofNat 5 (w % 32)) s else unmeant s) else unmeant s
  | 2 => if true then (if true then execMul (BitVec.ofNat 4 (w / 4194304 % 16)) (BitVec.ofNat 5 (w / 1024 % 32)) (BitVec.ofNat 5 (w / 32 % 32)) (BitVec.ofNat 5 (w % 32)) s else unmeant s) else unmeant s
  | 3 => if true then (if true then execMulh (BitVec.ofNat 4 (w / 4194304 % 16)) (BitVec.ofNat 5 (w / 1024 % 32)) (BitVec.ofNat 5 (w / 32 % 32)) (BitVec.ofNat 5 (w % 32)) s else unmeant s) else unmeant s
  | 4 => if true then (if true then execMulhn (BitVec.ofNat 4 (w / 4194304 % 16)) (BitVec.ofNat 5 (w / 1024 % 32)) (BitVec.ofNat 5 (w / 32 % 32)) (BitVec.ofNat 5 (w % 32)) s else unmeant s) else unmeant s
  | 5 => if true then (if true then execDiv (BitVec.ofNat 4 (w / 4194304 % 16)) (BitVec.ofNat 5 (w / 1024 % 32)) (BitVec.ofNat 5 (w / 32 % 32)) (BitVec.ofNat 5 (w % 32)) s else unmeant s) else unmeant s
  | 6 => if true then (if true then execDivn (BitVec.ofNat 4 (w / 4194304 % 16)) (BitVec.ofNat 5 (w / 1024 % 32)) (BitVec.ofNat 5 (w / 32 % 32)) (BitVec.ofNat 5 (w % 32)) s else unmeant s) else unmeant s
  | 7 => if true then (if true then execRem (BitVec.ofNat 4 (w / 4194304 % 16)) (BitVec.ofNat 5 (w / 1024 % 32)) (BitVec.ofNat 5 (w / 32 % 32)) (BitVec.ofNat 5 (w % 32)) s else unmeant s) else unmeant s
  | 8 => if true then (if true then execRemn (BitVec.ofNat 4 (w / 4194304 % 16)) (BitVec.ofNat 5 (w / 1024 % 32)) (BitVec.ofNat 5 (w / 32 % 32)) (BitVec.ofNat 5 (w % 32)) s else unmeant s) else unmeant s
  | 9 => if true then (if true then execAnd (BitVec.ofNat 4 (w / 4194304 % 16)) (BitVec.ofNat 5 (w / 1024 % 32)) (BitVec.ofNat 5 (w / 32 % 32)) (BitVec.ofNat 5 (w % 32)) s else unmeant s) else unmeant s
  | 10 => if true then (if true then execOr (BitVec.ofNat 4 (w / 4194304 % 16)) (BitVec.ofNat 5 (w / 1024 % 32)) (BitVec.ofNat 5 (w / 32 % 32)) (BitVec.ofNat 5 (w % 32)) s else unmeant s) else unmeant s
  | 11 => if true then (if true then execXor (BitVec.ofNat 4 (w / 4194304 % 16)) (BitVec.ofNat 5 (w / 1024 % 32)) (BitVec.ofNat 5 (w / 32 % 32)) (BitVec.ofNat 5 (w % 32)) s else unmeant s) else unmeant s
  | 12 => if true then (if true then execAndn (BitVec.ofNat 4 (w / 4194304 % 16)) (BitVec.ofNat 5 (w / 1024 % 32)) (BitVec.ofNat 5 (w / 32 % 32)) (BitVec.ofNat 5 (w % 32)) s else unmeant s) else unmeant s
  | 13 => if true then (if true then execShl (BitVec.ofNat 4 (w / 4194304 % 16)) (BitVec.ofNat 5 (w / 1024 % 32)) (BitVec.ofNat 5 (w / 32 % 32)) (BitVec.ofNat 5 (w % 32)) s else unmeant s) else unmeant s
  | 14 => if true then (if true then execShr (BitVec.ofNat 4 (w / 4194304 % 16)) (BitVec.ofNat 5 (w / 1024 % 32)) (BitVec.ofNat 5 (w / 32 % 32)) (BitVec.ofNat 5 (w % 32)) s else unmeant s) else unmeant s
  | 15 => if true then (if true then execSar (BitVec.ofNat 4 (w / 4194304 % 16)) (BitVec.ofNat 5 (w / 1024 % 32)) (BitVec.ofNat 5 (w / 32 % 32)) (BitVec.ofNat 5 (w % 32)) s else unmeant s) else unmeant s
  | 16 => if true then (if true then execMin (BitVec.ofNat 4 (w / 4194304 % 16)) (BitVec.ofNat 5 (w / 1024 % 32)) (BitVec.ofNat 5 (w / 32 % 32)) (BitVec.ofNat 5 (w % 32)) s else unmeant s) else unmeant s
  | 17 => if true then (if true then execMax (BitVec.ofNat 4 (w / 4194304 % 16)) (BitVec.ofNat 5 (w / 1024 % 32)) (BitVec.ofNat 5 (w / 32 % 32)) (BitVec.ofNat 5 (w % 32)) s else unmeant s) else unmeant s
  | 18 => if true then (if true then execMinn (BitVec.ofNat 4 (w / 4194304 % 16)) (BitVec.ofNat 5 (w / 1024 % 32)) (BitVec.ofNat 5 (w / 32 % 32)) (BitVec.ofNat 5 (w % 32)) s else unmeant s) else unmeant s
  | 19 => if true then (if true then execMaxn (BitVec.ofNat 4 (w / 4194304 % 16)) (BitVec.ofNat 5 (w / 1024 % 32)) (BitVec.ofNat 5 (w / 32 % 32)) (BitVec.ofNat 5 (w % 32)) s else unmeant s) else unmeant s
  | 20 => if w % 32 == 0 then (if true then execClz (BitVec.ofNat 4 (w / 4194304 % 16)) (BitVec.ofNat 5 (w / 1024 % 32)) (BitVec.ofNat 5 (w / 32 % 32)) s else unmeant s) else unmeant s
  | 21 => if w % 32 == 0 then (if true then execCtz (BitVec.ofNat 4 (w / 4194304 % 16)) (BitVec.ofNat 5 (w / 1024 % 32)) (BitVec.ofNat 5 (w / 32 % 32)) s else unmeant s) else unmeant s
  | 22 => if w % 32 == 0 then (if true then execPopc (BitVec.ofNat 4 (w / 4194304 % 16)) (BitVec.ofNat 5 (w / 1024 % 32)) (BitVec.ofNat 5 (w / 32 % 32)) s else unmeant s) else unmeant s
  | 23 => if true then (if true then execRotl (BitVec.ofNat 4 (w / 4194304 % 16)) (BitVec.ofNat 5 (w / 1024 % 32)) (BitVec.ofNat 5 (w / 32 % 32)) (BitVec.ofNat 5 (w % 32)) s else unmeant s) else unmeant s
  | _ => unmeant s

def run01 (w : Nat) (s : State) : Host.Outcome State Fault Refusal :=
  match w / 524288 % 8 with
  | 0 => if true then (if true then execAddi (BitVec.ofNat 4 (w / 4194304 % 16)) (BitVec.ofNat 5 (w / 16384 % 32)) (BitVec.ofNat 5 (w / 512 % 32)) (BitVec.ofNat 9 (w % 512)) s else unmeant s) else unmeant s
  | 1 => if true then (if true then execAndi (BitVec.ofNat 4 (w / 4194304 % 16)) (BitVec.ofNat 5 (w / 16384 % 32)) (BitVec.ofNat 5 (w / 512 % 32)) (BitVec.ofNat 9 (w % 512)) s else unmeant s) else unmeant s
  | 2 => if true then (if true then execOri (BitVec.ofNat 4 (w / 4194304 % 16)) (BitVec.ofNat 5 (w / 16384 % 32)) (BitVec.ofNat 5 (w / 512 % 32)) (BitVec.ofNat 9 (w % 512)) s else unmeant s) else unmeant s
  | 3 => if true then (if true then execXori (BitVec.ofNat 4 (w / 4194304 % 16)) (BitVec.ofNat 5 (w / 16384 % 32)) (BitVec.ofNat 5 (w / 512 % 32)) (BitVec.ofNat 9 (w % 512)) s else unmeant s) else unmeant s
  | 4 => if w / 64 % 8 == 0 then (if true then execShli (BitVec.ofNat 4 (w / 4194304 % 16)) (BitVec.ofNat 5 (w / 16384 % 32)) (BitVec.ofNat 5 (w / 512 % 32)) (BitVec.ofNat 6 (w % 64)) s else unmeant s) else unmeant s
  | 5 => if w / 64 % 8 == 0 then (if true then execShri (BitVec.ofNat 4 (w / 4194304 % 16)) (BitVec.ofNat 5 (w / 16384 % 32)) (BitVec.ofNat 5 (w / 512 % 32)) (BitVec.ofNat 6 (w % 64)) s else unmeant s) else unmeant s
  | 6 => if w / 64 % 8 == 0 then (if true then execSari (BitVec.ofNat 4 (w / 4194304 % 16)) (BitVec.ofNat 5 (w / 16384 % 32)) (BitVec.ofNat 5 (w / 512 % 32)) (BitVec.ofNat 6 (w % 64)) s else unmeant s) else unmeant s
  | 7 => if true then (if true then execMuli (BitVec.ofNat 4 (w / 4194304 % 16)) (BitVec.ofNat 5 (w / 16384 % 32)) (BitVec.ofNat 5 (w / 512 % 32)) (BitVec.ofNat 9 (w % 512)) s else unmeant s) else unmeant s
  | _ => unmeant s

def run02 (w : Nat) (s : State) : Host.Outcome State Fault Refusal :=
  match w / 1048576 % 4 with
  | 0 => if true then (if true then execLi (BitVec.ofNat 4 (w / 4194304 % 16)) (BitVec.ofNat 5 (w / 32768 % 32)) (BitVec.ofNat 15 (w % 32768)) s else unmeant s) else unmeant s
  | 1 => if true then (if true then execLic (BitVec.ofNat 4 (w / 4194304 % 16)) (BitVec.ofNat 5 (w / 32768 % 32)) (BitVec.ofNat 15 (w % 32768)) s else unmeant s) else unmeant s
  | _ => unmeant s

def run03 (w : Nat) (s : State) : Host.Outcome State Fault Refusal :=
  match w / 1024 % 16 with
  | 0 => if w / 16384 % 4 == 0 then (if true then execCmpEq (BitVec.ofNat 4 (w / 4194304 % 16)) (BitVec.ofNat 3 (w / 524288 % 8)) (BitVec.ofNat 3 (w / 65536 % 8)) (BitVec.ofNat 5 (w / 32 % 32)) (BitVec.ofNat 5 (w % 32)) s else unmeant s) else unmeant s
  | 1 => if w / 16384 % 4 == 0 then (if true then execCmpNe (BitVec.ofNat 4 (w / 4194304 % 16)) (BitVec.ofNat 3 (w / 524288 % 8)) (BitVec.ofNat 3 (w / 65536 % 8)) (BitVec.ofNat 5 (w / 32 % 32)) (BitVec.ofNat 5 (w % 32)) s else unmeant s) else unmeant s
  | 2 => if w / 16384 % 4 == 0 then (if true then execCmpLt (BitVec.ofNat 4 (w / 4194304 % 16)) (BitVec.ofNat 3 (w / 524288 % 8)) (BitVec.ofNat 3 (w / 65536 % 8)) (BitVec.ofNat 5 (w / 32 % 32)) (BitVec.ofNat 5 (w % 32)) s else unmeant s) else unmeant s
  | 3 => if w / 16384 % 4 == 0 then (if true then execCmpGe (BitVec.ofNat 4 (w / 4194304 % 16)) (BitVec.ofNat 3 (w / 524288 % 8)) (BitVec.ofNat 3 (w / 65536 % 8)) (BitVec.ofNat 5 (w / 32 % 32)) (BitVec.ofNat 5 (w % 32)) s else unmeant s) else unmeant s
  | 4 => if w / 16384 % 4 == 0 then (if true then execCmpLtn (BitVec.ofNat 4 (w / 4194304 % 16)) (BitVec.ofNat 3 (w / 524288 % 8)) (BitVec.ofNat 3 (w / 65536 % 8)) (BitVec.ofNat 5 (w / 32 % 32)) (BitVec.ofNat 5 (w % 32)) s else unmeant s) else unmeant s
  | 5 => if w / 16384 % 4 == 0 then (if true then execCmpGen (BitVec.ofNat 4 (w / 4194304 % 16)) (BitVec.ofNat 3 (w / 524288 % 8)) (BitVec.ofNat 3 (w / 65536 % 8)) (BitVec.ofNat 5 (w / 32 % 32)) (BitVec.ofNat 5 (w % 32)) s else unmeant s) else unmeant s
  | 6 => if w / 16384 % 4 == 0 then (if true then execCmpTand (BitVec.ofNat 4 (w / 4194304 % 16)) (BitVec.ofNat 3 (w / 524288 % 8)) (BitVec.ofNat 3 (w / 65536 % 8)) (BitVec.ofNat 5 (w / 32 % 32)) (BitVec.ofNat 5 (w % 32)) s else unmeant s) else unmeant s
  | 7 => if w / 16384 % 4 == 0 then (if true then execCmpTnand (BitVec.ofNat 4 (w / 4194304 % 16)) (BitVec.ofNat 3 (w / 524288 % 8)) (BitVec.ofNat 3 (w / 65536 % 8)) (BitVec.ofNat 5 (w / 32 % 32)) (BitVec.ofNat 5 (w % 32)) s else unmeant s) else unmeant s
  | _ => unmeant s

def run04 (w : Nat) (s : State) : Host.Outcome State Fault Refusal :=
  match w / 8192 % 8 with
  | 0 => if true then (if true then execCmpiEq (BitVec.ofNat 4 (w / 4194304 % 16)) (BitVec.ofNat 3 (w / 524288 % 8)) (BitVec.ofNat 3 (w / 65536 % 8)) (BitVec.ofNat 5 (w / 256 % 32)) (BitVec.ofNat 8 (w % 256)) s else unmeant s) else unmeant s
  | 1 => if true then (if true then execCmpiNe (BitVec.ofNat 4 (w / 4194304 % 16)) (BitVec.ofNat 3 (w / 524288 % 8)) (BitVec.ofNat 3 (w / 65536 % 8)) (BitVec.ofNat 5 (w / 256 % 32)) (BitVec.ofNat 8 (w % 256)) s else unmeant s) else unmeant s
  | 2 => if true then (if true then execCmpiLt (BitVec.ofNat 4 (w / 4194304 % 16)) (BitVec.ofNat 3 (w / 524288 % 8)) (BitVec.ofNat 3 (w / 65536 % 8)) (BitVec.ofNat 5 (w / 256 % 32)) (BitVec.ofNat 8 (w % 256)) s else unmeant s) else unmeant s
  | 3 => if true then (if true then execCmpiGe (BitVec.ofNat 4 (w / 4194304 % 16)) (BitVec.ofNat 3 (w / 524288 % 8)) (BitVec.ofNat 3 (w / 65536 % 8)) (BitVec.ofNat 5 (w / 256 % 32)) (BitVec.ofNat 8 (w % 256)) s else unmeant s) else unmeant s
  | 4 => if true then (if true then execCmpiLtn (BitVec.ofNat 4 (w / 4194304 % 16)) (BitVec.ofNat 3 (w / 524288 % 8)) (BitVec.ofNat 3 (w / 65536 % 8)) (BitVec.ofNat 5 (w / 256 % 32)) (BitVec.ofNat 8 (w % 256)) s else unmeant s) else unmeant s
  | 5 => if true then (if true then execCmpiGen (BitVec.ofNat 4 (w / 4194304 % 16)) (BitVec.ofNat 3 (w / 524288 % 8)) (BitVec.ofNat 3 (w / 65536 % 8)) (BitVec.ofNat 5 (w / 256 % 32)) (BitVec.ofNat 8 (w % 256)) s else unmeant s) else unmeant s
  | 6 => if w / 64 % 4 == 0 then (if true then execCmpiTbit (BitVec.ofNat 4 (w / 4194304 % 16)) (BitVec.ofNat 3 (w / 524288 % 8)) (BitVec.ofNat 3 (w / 65536 % 8)) (BitVec.ofNat 5 (w / 256 % 32)) (BitVec.ofNat 6 (w % 64)) s else unmeant s) else unmeant s
  | 7 => if w / 64 % 4 == 0 then (if true then execCmpiTnbit (BitVec.ofNat 4 (w / 4194304 % 16)) (BitVec.ofNat 3 (w / 524288 % 8)) (BitVec.ofNat 3 (w / 65536 % 8)) (BitVec.ofNat 5 (w / 256 % 32)) (BitVec.ofNat 6 (w % 64)) s else unmeant s) else unmeant s
  | _ => unmeant s

def run05 (w : Nat) (s : State) : Host.Outcome State Fault Refusal :=
  match w / 262144 % 16 with
  | 0 => if w % 32 == 0 then (if true then execAadd (BitVec.ofNat 4 (w / 4194304 % 16)) (BitVec.ofNat 4 (w / 16384 % 16)) (BitVec.ofNat 4 (w / 1024 % 16)) (BitVec.ofNat 5 (w / 32 % 32)) s else unmeant s) else unmeant s
  | 1 => if true then (if true then execAaddi (BitVec.ofNat 4 (w / 4194304 % 16)) (BitVec.ofNat 4 (w / 16384 % 16)) (BitVec.ofNat 4 (w / 1024 % 16)) (BitVec.ofNat 10 (w % 1024)) s else unmeant s) else unmeant s
  | 2 => if w % 32 == 0 then (if true then execAsub (BitVec.ofNat 4 (w / 4194304 % 16)) (BitVec.ofNat 5 (w / 8192 % 32)) (BitVec.ofNat 4 (w / 512 % 16)) (BitVec.ofNat 4 (w / 32 % 16)) s else unmeant s) else unmeant s
  | 3 => if w % 512 == 0 then (if true then execAset (BitVec.ofNat 4 (w / 4194304 % 16)) (BitVec.ofNat 4 (w / 16384 % 16)) (BitVec.ofNat 5 (w / 512 % 32)) s else unmeant s) else unmeant s
  | 4 => if w % 64 == 0 then (if true then execAhi (BitVec.ofNat 4 (w / 4194304 % 16)) (BitVec.ofNat 4 (w / 16384 % 16)) (BitVec.ofNat 8 (w / 64 % 256)) s else unmeant s) else unmeant s
  | 5 => if w % 16 == 0 then (if true then execAalign (BitVec.ofNat 4 (w / 4194304 % 16)) (BitVec.ofNat 4 (w / 16384 % 16)) (BitVec.ofNat 4 (w / 1024 % 16)) (BitVec.ofNat 6 (w / 16 % 64)) s else unmeant s) else unmeant s
  | 6 => if w % 256 == 0 then (if true then execAget (BitVec.ofNat 4 (w / 4194304 % 16)) (BitVec.ofNat 5 (w / 8192 % 32)) (BitVec.ofNat 4 (w / 512 % 16)) (BitVec.ofNat 1 (w / 256 % 2)) s else unmeant s) else unmeant s
  | _ => unmeant s

def run06 (w : Nat) (s : State) : Host.Outcome State Fault Refusal :=
  match w / 524288 % 8 with
  | 0 => if true then (if true then execLdI8 (BitVec.ofNat 4 (w / 4194304 % 16)) (BitVec.ofNat 5 (w / 16384 % 32)) (BitVec.ofNat 4 (w / 1024 % 16)) (BitVec.ofNat 5 (w / 32 % 32)) (BitVec.ofNat 5 (w % 32)) s else unmeant s) else unmeant s
  | 1 => if true then (if true then execLdI16 (BitVec.ofNat 4 (w / 4194304 % 16)) (BitVec.ofNat 5 (w / 16384 % 32)) (BitVec.ofNat 4 (w / 1024 % 16)) (BitVec.ofNat 5 (w / 32 % 32)) (BitVec.ofNat 5 (w % 32)) s else unmeant s) else unmeant s
  | 2 => if true then (if true then execLdI32 (BitVec.ofNat 4 (w / 4194304 % 16)) (BitVec.ofNat 5 (w / 16384 % 32)) (BitVec.ofNat 4 (w / 1024 % 16)) (BitVec.ofNat 5 (w / 32 % 32)) (BitVec.ofNat 5 (w % 32)) s else unmeant s) else unmeant s
  | 3 => if true then (if true then execLdD (BitVec.ofNat 4 (w / 4194304 % 16)) (BitVec.ofNat 5 (w / 16384 % 32)) (BitVec.ofNat 4 (w / 1024 % 16)) (BitVec.ofNat 5 (w / 32 % 32)) (BitVec.ofNat 5 (w % 32)) s else unmeant s) else unmeant s
  | 4 => if true then (if true then execLdN8 (BitVec.ofNat 4 (w / 4194304 % 16)) (BitVec.ofNat 5 (w / 16384 % 32)) (BitVec.ofNat 4 (w / 1024 % 16)) (BitVec.ofNat 5 (w / 32 % 32)) (BitVec.ofNat 5 (w % 32)) s else unmeant s) else unmeant s
  | 5 => if true then (if true then execLdN16 (BitVec.ofNat 4 (w / 4194304 % 16)) (BitVec.ofNat 5 (w / 16384 % 32)) (BitVec.ofNat 4 (w / 1024 % 16)) (BitVec.ofNat 5 (w / 32 % 32)) (BitVec.ofNat 5 (w % 32)) s else unmeant s) else unmeant s
  | 6 => if true then (if true then execLdN32 (BitVec.ofNat 4 (w / 4194304 % 16)) (BitVec.ofNat 5 (w / 16384 % 32)) (BitVec.ofNat 4 (w / 1024 % 16)) (BitVec.ofNat 5 (w / 32 % 32)) (BitVec.ofNat 5 (w % 32)) s else unmeant s) else unmeant s
  | _ => unmeant s

def run07 (w : Nat) (s : State) : Host.Outcome State Fault Refusal :=
  match w / 524288 % 8 with
  | 0 => if true then (if true then execStB (BitVec.ofNat 4 (w / 4194304 % 16)) (BitVec.ofNat 5 (w / 16384 % 32)) (BitVec.ofNat 4 (w / 1024 % 16)) (BitVec.ofNat 10 (w % 1024)) s else unmeant s) else unmeant s
  | 1 => if true then (if true then execStH (BitVec.ofNat 4 (w / 4194304 % 16)) (BitVec.ofNat 5 (w / 16384 % 32)) (BitVec.ofNat 4 (w / 1024 % 16)) (BitVec.ofNat 10 (w % 1024)) s else unmeant s) else unmeant s
  | 2 => if true then (if true then execStW (BitVec.ofNat 4 (w / 4194304 % 16)) (BitVec.ofNat 5 (w / 16384 % 32)) (BitVec.ofNat 4 (w / 1024 % 16)) (BitVec.ofNat 10 (w % 1024)) s else unmeant s) else unmeant s
  | 3 => if true then (if true then execStD (BitVec.ofNat 4 (w / 4194304 % 16)) (BitVec.ofNat 5 (w / 16384 % 32)) (BitVec.ofNat 4 (w / 1024 % 16)) (BitVec.ofNat 10 (w % 1024)) s else unmeant s) else unmeant s
  | _ => unmeant s

def run08 (w : Nat) (s : State) : Host.Outcome State Fault Refusal :=
  match w / 524288 % 8 with
  | 0 => if true then (if ((BitVec.ofNat 4 (w / 64 % 16)) != 7 && ((BitVec.ofNat 1 (w / 32 % 2)) == 0 || (BitVec.ofNat 4 (w / 64 % 16)) == 5 || (BitVec.ofNat 4 (w / 64 % 16)) == 8 || (BitVec.ofNat 4 (w / 64 % 16)) == 12)) then execLdt (BitVec.ofNat 4 (w / 4194304 % 16)) (BitVec.ofNat 5 (w / 16384 % 32)) (BitVec.ofNat 4 (w / 1024 % 16)) (BitVec.ofNat 4 (w / 64 % 16)) (BitVec.ofNat 1 (w / 32 % 2)) (BitVec.ofNat 5 (w % 32)) s else unmeant s) else unmeant s
  | 1 => if w % 4 == 0 then (if ((BitVec.ofNat 4 (w / 64 % 16)) != 7 && ((BitVec.ofNat 1 (w / 32 % 2)) == 0 || (BitVec.ofNat 4 (w / 64 % 16)) == 5 || (BitVec.ofNat 4 (w / 64 % 16)) == 8 || (BitVec.ofNat 4 (w / 64 % 16)) == 12) && (BitVec.ofNat 3 (w / 4 % 8)) != 5 && (BitVec.ofNat 3 (w / 4 % 8)) != 7) then execStt (BitVec.ofNat 4 (w / 4194304 % 16)) (BitVec.ofNat 5 (w / 16384 % 32)) (BitVec.ofNat 4 (w / 1024 % 16)) (BitVec.ofNat 4 (w / 64 % 16)) (BitVec.ofNat 1 (w / 32 % 2)) (BitVec.ofNat 3 (w / 4 % 8)) s else unmeant s) else unmeant s
  | 2 => if w / 32 % 2 == 0 then (if ((BitVec.ofNat 4 (w / 64 % 16)) != 7) then execVldt (BitVec.ofNat 4 (w / 4194304 % 16)) (BitVec.ofNat 5 (w / 16384 % 32)) (BitVec.ofNat 4 (w / 1024 % 16)) (BitVec.ofNat 4 (w / 64 % 16)) (BitVec.ofNat 5 (w % 32)) s else unmeant s) else unmeant s
  | 3 => if w % 4 == 0 && w / 32 % 2 == 0 then (if ((BitVec.ofNat 4 (w / 64 % 16)) != 7 && (BitVec.ofNat 3 (w / 4 % 8)) != 5 && (BitVec.ofNat 3 (w / 4 % 8)) != 7) then execVstt (BitVec.ofNat 4 (w / 4194304 % 16)) (BitVec.ofNat 5 (w / 16384 % 32)) (BitVec.ofNat 4 (w / 1024 % 16)) (BitVec.ofNat 4 (w / 64 % 16)) (BitVec.ofNat 3 (w / 4 % 8)) s else unmeant s) else unmeant s
  | _ => unmeant s

def run09 (w : Nat) (s : State) : Host.Outcome State Fault Refusal :=
  match w / 262144 % 16 with
  | 0 => if w % 8 == 0 then (if true then execAmoAdd (BitVec.ofNat 4 (w / 4194304 % 16)) (BitVec.ofNat 5 (w / 8192 % 32)) (BitVec.ofNat 4 (w / 512 % 16)) (BitVec.ofNat 5 (w / 16 % 32)) (BitVec.ofNat 1 (w / 8 % 2)) s else unmeant s) else unmeant s
  | 1 => if w % 8 == 0 then (if true then execAmoAnd (BitVec.ofNat 4 (w / 4194304 % 16)) (BitVec.ofNat 5 (w / 8192 % 32)) (BitVec.ofNat 4 (w / 512 % 16)) (BitVec.ofNat 5 (w / 16 % 32)) (BitVec.ofNat 1 (w / 8 % 2)) s else unmeant s) else unmeant s
  | 2 => if w % 8 == 0 then (if true then execAmoOr (BitVec.ofNat 4 (w / 4194304 % 16)) (BitVec.ofNat 5 (w / 8192 % 32)) (BitVec.ofNat 4 (w / 512 % 16)) (BitVec.ofNat 5 (w / 16 % 32)) (BitVec.ofNat 1 (w / 8 % 2)) s else unmeant s) else unmeant s
  | 3 => if w % 8 == 0 then (if true then execAmoXor (BitVec.ofNat 4 (w / 4194304 % 16)) (BitVec.ofNat 5 (w / 8192 % 32)) (BitVec.ofNat 4 (w / 512 % 16)) (BitVec.ofNat 5 (w / 16 % 32)) (BitVec.ofNat 1 (w / 8 % 2)) s else unmeant s) else unmeant s
  | 4 => if w % 8 == 0 then (if true then execAmoMin (BitVec.ofNat 4 (w / 4194304 % 16)) (BitVec.ofNat 5 (w / 8192 % 32)) (BitVec.ofNat 4 (w / 512 % 16)) (BitVec.ofNat 5 (w / 16 % 32)) (BitVec.ofNat 1 (w / 8 % 2)) s else unmeant s) else unmeant s
  | 5 => if w % 8 == 0 then (if true then execAmoMax (BitVec.ofNat 4 (w / 4194304 % 16)) (BitVec.ofNat 5 (w / 8192 % 32)) (BitVec.ofNat 4 (w / 512 % 16)) (BitVec.ofNat 5 (w / 16 % 32)) (BitVec.ofNat 1 (w / 8 % 2)) s else unmeant s) else unmeant s
  | 6 => if w % 8 == 0 then (if true then execAmoMinn (BitVec.ofNat 4 (w / 4194304 % 16)) (BitVec.ofNat 5 (w / 8192 % 32)) (BitVec.ofNat 4 (w / 512 % 16)) (BitVec.ofNat 5 (w / 16 % 32)) (BitVec.ofNat 1 (w / 8 % 2)) s else unmeant s) else unmeant s
  | 7 => if w % 8 == 0 then (if true then execAmoMaxn (BitVec.ofNat 4 (w / 4194304 % 16)) (BitVec.ofNat 5 (w / 8192 % 32)) (BitVec.ofNat 4 (w / 512 % 16)) (BitVec.ofNat 5 (w / 16 % 32)) (BitVec.ofNat 1 (w / 8 % 2)) s else unmeant s) else unmeant s
  | 8 => if w % 8 == 0 then (if true then execAmoSwap (BitVec.ofNat 4 (w / 4194304 % 16)) (BitVec.ofNat 5 (w / 8192 % 32)) (BitVec.ofNat 4 (w / 512 % 16)) (BitVec.ofNat 5 (w / 16 % 32)) (BitVec.ofNat 1 (w / 8 % 2)) s else unmeant s) else unmeant s
  | 9 => if w % 8 == 0 then (if ((BitVec.ofNat 5 (w / 8192 % 32)) != 31) then execAmoCas (BitVec.ofNat 4 (w / 4194304 % 16)) (BitVec.ofNat 5 (w / 8192 % 32)) (BitVec.ofNat 4 (w / 512 % 16)) (BitVec.ofNat 5 (w / 16 % 32)) (BitVec.ofNat 1 (w / 8 % 2)) s else unmeant s) else unmeant s
  | _ => unmeant s

def run0A (w : Nat) (s : State) : Host.Outcome State Fault Refusal :=
  match w / 262144 % 16 with
  | 0 => if w % 65536 == 0 then (if true then execBr (BitVec.ofNat 4 (w / 4194304 % 16)) (BitVec.ofNat 2 (w / 65536 % 4)) s else unmeant s) else unmeant s
  | 1 => if w % 1024 == 0 then (if true then execBrv (BitVec.ofNat 4 (w / 4194304 % 16)) (BitVec.ofNat 2 (w / 65536 % 4)) (BitVec.ofNat 3 (w / 8192 % 8)) (BitVec.ofNat 2 (w / 2048 % 4)) (BitVec.ofNat 1 (w / 1024 % 2)) s else unmeant s) else unmeant s
  | 2 => if true then (if true then execPrep (BitVec.ofNat 4 (w / 4194304 % 16)) (BitVec.ofNat 2 (w / 65536 % 4)) (BitVec.ofNat 16 (w % 65536)) s else unmeant s) else unmeant s
  | 3 => if w % 4096 == 0 then (if true then execPrepa (BitVec.ofNat 4 (w / 4194304 % 16)) (BitVec.ofNat 2 (w / 65536 % 4)) (BitVec.ofNat 4 (w / 4096 % 16)) s else unmeant s) else unmeant s
  | 4 => if w % 4096 == 0 then (if true then execBrl (BitVec.ofNat 4 (w / 4194304 % 16)) (BitVec.ofNat 2 (w / 65536 % 4)) (BitVec.ofNat 4 (w / 4096 % 16)) s else unmeant s) else unmeant s
  | 5 => if w % 32 == 0 then (if ((BitVec.ofNat 3 (w / 2048 % 8)) != 0 && (BitVec.ofNat 3 (w / 2048 % 8)) != 7 && decide ((BitVec.ofNat 6 (w / 32 % 64)).toNat + 5 * (BitVec.ofNat 3 (w / 2048 % 8)).toNat + 1 ≤ 64)) then execLbNest (BitVec.ofNat 4 (w / 4194304 % 16)) (BitVec.ofNat 4 (w / 16384 % 16)) (BitVec.ofNat 3 (w / 2048 % 8)) (BitVec.ofNat 6 (w / 32 % 64)) s else unmeant s) else unmeant s
  | 6 => if w % 262144 == 0 then (if true then execLbExit (BitVec.ofNat 4 (w / 4194304 % 16)) s else unmeant s) else unmeant s
  | _ => unmeant s

def run0B (w : Nat) (s : State) : Host.Outcome State Fault Refusal :=
  match w / 131072 % 32 with
  | 0 => if w % 4096 == 0 then (if (decide ((BitVec.ofNat 3 (w / 16384 % 8)) < 6) && (BitVec.ofNat 2 (w / 4096 % 4)) != 3) then execFence (BitVec.ofNat 4 (w / 4194304 % 16)) (BitVec.ofNat 3 (w / 16384 % 8)) (BitVec.ofNat 2 (w / 4096 % 4)) s else unmeant s) else unmeant s
  | 1 => if w % 16 == 0 then (if true then execBind (BitVec.ofNat 4 (w / 4194304 % 16)) (BitVec.ofNat 4 (w / 8192 % 16)) (BitVec.ofNat 5 (w / 256 % 32)) (BitVec.ofNat 4 (w / 16 % 16)) s else unmeant s) else unmeant s
  | 2 => if w % 8192 == 0 then (if true then execUnbind (BitVec.ofNat 4 (w / 4194304 % 16)) (BitVec.ofNat 4 (w / 8192 % 16)) s else unmeant s) else unmeant s
  | 3 => if w % 1024 == 0 then (if (decide ((BitVec.ofNat 3 (w / 16384 % 8)) < 6)) then execAcq (BitVec.ofNat 4 (w / 4194304 % 16)) (BitVec.ofNat 3 (w / 16384 % 8)) (BitVec.ofNat 4 (w / 1024 % 16)) s else unmeant s) else unmeant s
  | 4 => if w % 1024 == 0 then (if (decide ((BitVec.ofNat 3 (w / 16384 % 8)) < 6)) then execRel (BitVec.ofNat 4 (w / 4194304 % 16)) (BitVec.ofNat 3 (w / 16384 % 8)) (BitVec.ofNat 4 (w / 1024 % 16)) s else unmeant s) else unmeant s
  | 5 => if w % 8192 == 0 then (if true then execBwait (BitVec.ofNat 4 (w / 4194304 % 16)) (BitVec.ofNat 4 (w / 8192 % 16)) s else unmeant s) else unmeant s
  | 6 => if w % 256 == 0 then (if true then execBinit (BitVec.ofNat 4 (w / 4194304 % 16)) (BitVec.ofNat 4 (w / 8192 % 16)) (BitVec.ofNat 5 (w / 256 % 32)) s else unmeant s) else unmeant s
  | 7 => if w % 64 == 0 then (if true then execTwAny (BitVec.ofNat 4 (w / 4194304 % 16)) (BitVec.ofNat 1 (w / 65536 % 2)) (BitVec.ofNat 5 (w / 2048 % 32)) (BitVec.ofNat 5 (w / 64 % 32)) s else unmeant s) else unmeant s
  | 8 => if w % 64 == 0 then (if true then execTwAll (BitVec.ofNat 4 (w / 4194304 % 16)) (BitVec.ofNat 1 (w / 65536 % 2)) (BitVec.ofNat 5 (w / 2048 % 32)) (BitVec.ofNat 5 (w / 64 % 32)) s else unmeant s) else unmeant s
  | 9 => if w % 64 == 0 then (if true then execTwFfr (BitVec.ofNat 4 (w / 4194304 % 16)) (BitVec.ofNat 1 (w / 65536 % 2)) (BitVec.ofNat 5 (w / 2048 % 32)) (BitVec.ofNat 5 (w / 64 % 32)) s else unmeant s) else unmeant s
  | 10 => if w % 128 == 0 then (if true then execMwait (BitVec.ofNat 4 (w / 4194304 % 16)) (BitVec.ofNat 1 (w / 65536 % 2)) (BitVec.ofNat 4 (w / 4096 % 16)) (BitVec.ofNat 5 (w / 128 % 32)) s else unmeant s) else unmeant s
  | _ => unmeant s

def run0C (w : Nat) (s : State) : Host.Outcome State Fault Refusal :=
  match w / 131072 % 32 with
  | 0 => if w / 65536 % 2 == 0 then (if ((BitVec.ofNat 16 (w % 65536)) != 65535) then execSafe (BitVec.ofNat 4 (w / 4194304 % 16)) (BitVec.ofNat 16 (w % 65536)) s else unmeant s) else unmeant s
  | 1 => if w % 4096 == 0 then (if true then execSuspend (BitVec.ofNat 4 (w / 4194304 % 16)) (BitVec.ofNat 5 (w / 4096 % 32)) s else unmeant s) else unmeant s
  | 2 => if w % 131072 == 0 then (if true then execYield (BitVec.ofNat 4 (w / 4194304 % 16)) s else unmeant s) else unmeant s
  | 3 => if w % 131072 == 0 then (if true then execRetire (BitVec.ofNat 4 (w / 4194304 % 16)) s else unmeant s) else unmeant s
  | 4 => if w / 65536 % 2 == 0 then (if true then execSvc (BitVec.ofNat 4 (w / 4194304 % 16)) (BitVec.ofNat 16 (w % 65536)) s else unmeant s) else unmeant s
  | 5 => if w / 65536 % 2 == 0 then (if true then execBrk (BitVec.ofNat 4 (w / 4194304 % 16)) (BitVec.ofNat 16 (w % 65536)) s else unmeant s) else unmeant s
  | 6 => if true then (if true then execSysrd (BitVec.ofNat 4 (w / 4194304 % 16)) (BitVec.ofNat 5 (w / 4096 % 32)) (BitVec.ofNat 12 (w % 4096)) s else unmeant s) else unmeant s
  | 7 => if true then (if true then execSyswr (BitVec.ofNat 4 (w / 4194304 % 16)) (BitVec.ofNat 5 (w / 4096 % 32)) (BitVec.ofNat 12 (w % 4096)) s else unmeant s) else unmeant s
  | 8 => if w % 8 == 0 then (if true then execRfe (BitVec.ofNat 4 (w / 4194304 % 16)) (BitVec.ofNat 4 (w / 8192 % 16)) (BitVec.ofNat 5 (w / 256 % 32)) (BitVec.ofNat 5 (w / 8 % 32)) s else unmeant s) else unmeant s
  | 9 => if w % 4096 == 0 then (if true then execQlock (BitVec.ofNat 4 (w / 4194304 % 16)) (BitVec.ofNat 5 (w / 4096 % 32)) s else unmeant s) else unmeant s
  | 10 => if w % 131072 == 0 then (if true then execQfree (BitVec.ofNat 4 (w / 4194304 % 16)) s else unmeant s) else unmeant s
  | 11 => if w % 128 == 0 then (if (decide ((BitVec.ofNat 3 (w / 16384 % 8)) < 6) && ((BitVec.ofNat 1 (w / 8192 % 2)) == 1 || (BitVec.ofNat 2 (w / 2048 % 4)) == 0)) then execArv (BitVec.ofNat 4 (w / 4194304 % 16)) (BitVec.ofNat 3 (w / 16384 % 8)) (BitVec.ofNat 1 (w / 8192 % 2)) (BitVec.ofNat 2 (w / 2048 % 4)) (BitVec.ofNat 4 (w / 128 % 16)) s else unmeant s) else unmeant s
  | _ => unmeant s

def run0D (w : Nat) (s : State) : Host.Outcome State Fault Refusal :=
  match w / 65536 % 64 with
  | 0 => if w % 4 == 0 then (if true then execVld (BitVec.ofNat 1 (w / 33554432 % 2)) (BitVec.ofNat 3 (w / 4194304 % 8)) (BitVec.ofNat 5 (w / 2048 % 32)) (BitVec.ofNat 4 (w / 128 % 16)) (BitVec.ofNat 5 (w / 4 % 32)) s else unmeant s) else unmeant s
  | 1 => if true then (if true then execVlds (BitVec.ofNat 1 (w / 33554432 % 2)) (BitVec.ofNat 3 (w / 4194304 % 8)) (BitVec.ofNat 5 (w / 2048 % 32)) (BitVec.ofNat 4 (w / 128 % 16)) (BitVec.ofNat 5 (w / 4 % 32)) (BitVec.ofNat 2 (w % 4)) s else unmeant s) else unmeant s
  | 2 => if w % 4 == 0 then (if true then execVldx (BitVec.ofNat 1 (w / 33554432 % 2)) (BitVec.ofNat 3 (w / 4194304 % 8)) (BitVec.ofNat 5 (w / 2048 % 32)) (BitVec.ofNat 4 (w / 128 % 16)) (BitVec.ofNat 5 (w / 4 % 32)) s else unmeant s) else unmeant s
  | 3 => if w % 4 == 0 then (if true then execVldb (BitVec.ofNat 1 (w / 33554432 % 2)) (BitVec.ofNat 3 (w / 4194304 % 8)) (BitVec.ofNat 5 (w / 2048 % 32)) (BitVec.ofNat 4 (w / 128 % 16)) (BitVec.ofNat 5 (w / 4 % 32)) s else unmeant s) else unmeant s
  | _ => unmeant s

def run0E (w : Nat) (s : State) : Host.Outcome State Fault Refusal :=
  match w / 65536 % 64 with
  | 0 => if w % 128 == 0 && w / 33554432 % 2 == 0 then (if true then execVst (BitVec.ofNat 3 (w / 4194304 % 8)) (BitVec.ofNat 5 (w / 2048 % 32)) (BitVec.ofNat 4 (w / 128 % 16)) s else unmeant s) else unmeant s
  | 1 => if w % 32 == 0 && w / 33554432 % 2 == 0 then (if true then execVsts (BitVec.ofNat 3 (w / 4194304 % 8)) (BitVec.ofNat 5 (w / 2048 % 32)) (BitVec.ofNat 4 (w / 128 % 16)) (BitVec.ofNat 2 (w / 32 % 4)) s else unmeant s) else unmeant s
  | 2 => if w % 4 == 0 && w / 33554432 % 2 == 0 then (if true then execVstx (BitVec.ofNat 3 (w / 4194304 % 8)) (BitVec.ofNat 5 (w / 2048 % 32)) (BitVec.ofNat 4 (w / 128 % 16)) (BitVec.ofNat 5 (w / 4 % 32)) s else unmeant s) else unmeant s
  | _ => unmeant s

def run0F (w : Nat) (s : State) : Host.Outcome State Fault Refusal :=
  match w / 65536 % 64 with
  | 0 => if true then (if true then execVadd (BitVec.ofNat 1 (w / 33554432 % 2)) (BitVec.ofNat 3 (w / 4194304 % 8)) (BitVec.ofNat 5 (w / 2048 % 32)) (BitVec.ofNat 5 (w / 64 % 32)) (BitVec.ofNat 5 (w / 2 % 32)) (BitVec.ofNat 1 (w % 2)) s else unmeant s) else unmeant s
  | 1 => if true then (if true then execVsub (BitVec.ofNat 1 (w / 33554432 % 2)) (BitVec.ofNat 3 (w / 4194304 % 8)) (BitVec.ofNat 5 (w / 2048 % 32)) (BitVec.ofNat 5 (w / 64 % 32)) (BitVec.ofNat 5 (w / 2 % 32)) (BitVec.ofNat 1 (w % 2)) s else unmeant s) else unmeant s
  | 2 => if true then (if true then execVmul (BitVec.ofNat 1 (w / 33554432 % 2)) (BitVec.ofNat 3 (w / 4194304 % 8)) (BitVec.ofNat 5 (w / 2048 % 32)) (BitVec.ofNat 5 (w / 64 % 32)) (BitVec.ofNat 5 (w / 2 % 32)) (BitVec.ofNat 1 (w % 2)) s else unmeant s) else unmeant s
  | 3 => if true then (if true then execVmulh (BitVec.ofNat 1 (w / 33554432 % 2)) (BitVec.ofNat 3 (w / 4194304 % 8)) (BitVec.ofNat 5 (w / 2048 % 32)) (BitVec.ofNat 5 (w / 64 % 32)) (BitVec.ofNat 5 (w / 2 % 32)) (BitVec.ofNat 1 (w % 2)) s else unmeant s) else unmeant s
  | 4 => if true then (if true then execVand (BitVec.ofNat 1 (w / 33554432 % 2)) (BitVec.ofNat 3 (w / 4194304 % 8)) (BitVec.ofNat 5 (w / 2048 % 32)) (BitVec.ofNat 5 (w / 64 % 32)) (BitVec.ofNat 5 (w / 2 % 32)) (BitVec.ofNat 1 (w % 2)) s else unmeant s) else unmeant s
  | 5 => if true then (if true then execVor (BitVec.ofNat 1 (w / 33554432 % 2)) (BitVec.ofNat 3 (w / 4194304 % 8)) (BitVec.ofNat 5 (w / 2048 % 32)) (BitVec.ofNat 5 (w / 64 % 32)) (BitVec.ofNat 5 (w / 2 % 32)) (BitVec.ofNat 1 (w % 2)) s else unmeant s) else unmeant s
  | 6 => if true then (if true then execVxor (BitVec.ofNat 1 (w / 33554432 % 2)) (BitVec.ofNat 3 (w / 4194304 % 8)) (BitVec.ofNat 5 (w / 2048 % 32)) (BitVec.ofNat 5 (w / 64 % 32)) (BitVec.ofNat 5 (w / 2 % 32)) (BitVec.ofNat 1 (w % 2)) s else unmeant s) else unmeant s
  | 7 => if true then (if true then execVshl (BitVec.ofNat 1 (w / 33554432 % 2)) (BitVec.ofNat 3 (w / 4194304 % 8)) (BitVec.ofNat 5 (w / 2048 % 32)) (BitVec.ofNat 5 (w / 64 % 32)) (BitVec.ofNat 5 (w / 2 % 32)) (BitVec.ofNat 1 (w % 2)) s else unmeant s) else unmeant s
  | 8 => if true then (if true then execVshr (BitVec.ofNat 1 (w / 33554432 % 2)) (BitVec.ofNat 3 (w / 4194304 % 8)) (BitVec.ofNat 5 (w / 2048 % 32)) (BitVec.ofNat 5 (w / 64 % 32)) (BitVec.ofNat 5 (w / 2 % 32)) (BitVec.ofNat 1 (w % 2)) s else unmeant s) else unmeant s
  | 9 => if true then (if true then execVsar (BitVec.ofNat 1 (w / 33554432 % 2)) (BitVec.ofNat 3 (w / 4194304 % 8)) (BitVec.ofNat 5 (w / 2048 % 32)) (BitVec.ofNat 5 (w / 64 % 32)) (BitVec.ofNat 5 (w / 2 % 32)) (BitVec.ofNat 1 (w % 2)) s else unmeant s) else unmeant s
  | 10 => if true then (if true then execVmin (BitVec.ofNat 1 (w / 33554432 % 2)) (BitVec.ofNat 3 (w / 4194304 % 8)) (BitVec.ofNat 5 (w / 2048 % 32)) (BitVec.ofNat 5 (w / 64 % 32)) (BitVec.ofNat 5 (w / 2 % 32)) (BitVec.ofNat 1 (w % 2)) s else unmeant s) else unmeant s
  | 11 => if true then (if true then execVmax (BitVec.ofNat 1 (w / 33554432 % 2)) (BitVec.ofNat 3 (w / 4194304 % 8)) (BitVec.ofNat 5 (w / 2048 % 32)) (BitVec.ofNat 5 (w / 64 % 32)) (BitVec.ofNat 5 (w / 2 % 32)) (BitVec.ofNat 1 (w % 2)) s else unmeant s) else unmeant s
  | 12 => if true then (if true then execVadds (BitVec.ofNat 1 (w / 33554432 % 2)) (BitVec.ofNat 3 (w / 4194304 % 8)) (BitVec.ofNat 5 (w / 2048 % 32)) (BitVec.ofNat 5 (w / 64 % 32)) (BitVec.ofNat 5 (w / 2 % 32)) (BitVec.ofNat 1 (w % 2)) s else unmeant s) else unmeant s
  | 13 => if true then (if true then execVsubs (BitVec.ofNat 1 (w / 33554432 % 2)) (BitVec.ofNat 3 (w / 4194304 % 8)) (BitVec.ofNat 5 (w / 2048 % 32)) (BitVec.ofNat 5 (w / 64 % 32)) (BitVec.ofNat 5 (w / 2 % 32)) (BitVec.ofNat 1 (w % 2)) s else unmeant s) else unmeant s
  | 14 => if w % 64 == 0 then (if true then execVabs (BitVec.ofNat 1 (w / 33554432 % 2)) (BitVec.ofNat 3 (w / 4194304 % 8)) (BitVec.ofNat 5 (w / 2048 % 32)) (BitVec.ofNat 5 (w / 64 % 32)) s else unmeant s) else unmeant s
  | 15 => if true then (if true then execVmadw (BitVec.ofNat 1 (w / 33554432 % 2)) (BitVec.ofNat 3 (w / 4194304 % 8)) (BitVec.ofNat 5 (w / 2048 % 32)) (BitVec.ofNat 5 (w / 64 % 32)) (BitVec.ofNat 5 (w / 2 % 32)) (BitVec.ofNat 1 (w % 2)) s else unmeant s) else unmeant s
  | _ => unmeant s

def run10 (w : Nat) (s : State) : Host.Outcome State Fault Refusal :=
  match w / 65536 % 64 with
  | 0 => if true then (if true then execVfadd (BitVec.ofNat 1 (w / 33554432 % 2)) (BitVec.ofNat 3 (w / 4194304 % 8)) (BitVec.ofNat 5 (w / 2048 % 32)) (BitVec.ofNat 5 (w / 64 % 32)) (BitVec.ofNat 5 (w / 2 % 32)) (BitVec.ofNat 1 (w % 2)) s else unmeant s) else unmeant s
  | 1 => if true then (if true then execVfsub (BitVec.ofNat 1 (w / 33554432 % 2)) (BitVec.ofNat 3 (w / 4194304 % 8)) (BitVec.ofNat 5 (w / 2048 % 32)) (BitVec.ofNat 5 (w / 64 % 32)) (BitVec.ofNat 5 (w / 2 % 32)) (BitVec.ofNat 1 (w % 2)) s else unmeant s) else unmeant s
  | 2 => if true then (if true then execVfmul (BitVec.ofNat 1 (w / 33554432 % 2)) (BitVec.ofNat 3 (w / 4194304 % 8)) (BitVec.ofNat 5 (w / 2048 % 32)) (BitVec.ofNat 5 (w / 64 % 32)) (BitVec.ofNat 5 (w / 2 % 32)) (BitVec.ofNat 1 (w % 2)) s else unmeant s) else unmeant s
  | 3 => if true then (if true then execVfma (BitVec.ofNat 1 (w / 33554432 % 2)) (BitVec.ofNat 3 (w / 4194304 % 8)) (BitVec.ofNat 5 (w / 2048 % 32)) (BitVec.ofNat 5 (w / 64 % 32)) (BitVec.ofNat 5 (w / 2 % 32)) (BitVec.ofNat 1 (w % 2)) s else unmeant s) else unmeant s
  | 4 => if true then (if true then execVfms (BitVec.ofNat 1 (w / 33554432 % 2)) (BitVec.ofNat 3 (w / 4194304 % 8)) (BitVec.ofNat 5 (w / 2048 % 32)) (BitVec.ofNat 5 (w / 64 % 32)) (BitVec.ofNat 5 (w / 2 % 32)) (BitVec.ofNat 1 (w % 2)) s else unmeant s) else unmeant s
  | 5 => if true then (if true then execVfnma (BitVec.ofNat 1 (w / 33554432 % 2)) (BitVec.ofNat 3 (w / 4194304 % 8)) (BitVec.ofNat 5 (w / 2048 % 32)) (BitVec.ofNat 5 (w / 64 % 32)) (BitVec.ofNat 5 (w / 2 % 32)) (BitVec.ofNat 1 (w % 2)) s else unmeant s) else unmeant s
  | 6 => if true then (if true then execVfmin (BitVec.ofNat 1 (w / 33554432 % 2)) (BitVec.ofNat 3 (w / 4194304 % 8)) (BitVec.ofNat 5 (w / 2048 % 32)) (BitVec.ofNat 5 (w / 64 % 32)) (BitVec.ofNat 5 (w / 2 % 32)) (BitVec.ofNat 1 (w % 2)) s else unmeant s) else unmeant s
  | 7 => if true then (if true then execVfmax (BitVec.ofNat 1 (w / 33554432 % 2)) (BitVec.ofNat 3 (w / 4194304 % 8)) (BitVec.ofNat 5 (w / 2048 % 32)) (BitVec.ofNat 5 (w / 64 % 32)) (BitVec.ofNat 5 (w / 2 % 32)) (BitVec.ofNat 1 (w % 2)) s else unmeant s) else unmeant s
  | 8 => if w % 64 == 0 then (if true then execVfabs (BitVec.ofNat 1 (w / 33554432 % 2)) (BitVec.ofNat 3 (w / 4194304 % 8)) (BitVec.ofNat 5 (w / 2048 % 32)) (BitVec.ofNat 5 (w / 64 % 32)) s else unmeant s) else unmeant s
  | 9 => if w % 64 == 0 then (if true then execVfneg (BitVec.ofNat 1 (w / 33554432 % 2)) (BitVec.ofNat 3 (w / 4194304 % 8)) (BitVec.ofNat 5 (w / 2048 % 32)) (BitVec.ofNat 5 (w / 64 % 32)) s else unmeant s) else unmeant s
  | _ => unmeant s

def run11 (w : Nat) (s : State) : Host.Outcome State Fault Refusal :=
  match w / 65536 % 64 with
  | 0 => match w / 2 % 4 with
    | 0 => if true then (if true then execVcmpEq (BitVec.ofNat 1 (w / 33554432 % 2)) (BitVec.ofNat 3 (w / 4194304 % 8)) (BitVec.ofNat 3 (w / 8192 % 8)) (BitVec.ofNat 5 (w / 256 % 32)) (BitVec.ofNat 5 (w / 8 % 32)) (BitVec.ofNat 1 (w % 2)) s else unmeant s) else unmeant s
    | 1 => if true then (if true then execVcmpNe (BitVec.ofNat 1 (w / 33554432 % 2)) (BitVec.ofNat 3 (w / 4194304 % 8)) (BitVec.ofNat 3 (w / 8192 % 8)) (BitVec.ofNat 5 (w / 256 % 32)) (BitVec.ofNat 5 (w / 8 % 32)) (BitVec.ofNat 1 (w % 2)) s else unmeant s) else unmeant s
    | 2 => if true then (if true then execVcmpLt (BitVec.ofNat 1 (w / 33554432 % 2)) (BitVec.ofNat 3 (w / 4194304 % 8)) (BitVec.ofNat 3 (w / 8192 % 8)) (BitVec.ofNat 5 (w / 256 % 32)) (BitVec.ofNat 5 (w / 8 % 32)) (BitVec.ofNat 1 (w % 2)) s else unmeant s) else unmeant s
    | 3 => if true then (if true then execVcmpGe (BitVec.ofNat 1 (w / 33554432 % 2)) (BitVec.ofNat 3 (w / 4194304 % 8)) (BitVec.ofNat 3 (w / 8192 % 8)) (BitVec.ofNat 5 (w / 256 % 32)) (BitVec.ofNat 5 (w / 8 % 32)) (BitVec.ofNat 1 (w % 2)) s else unmeant s) else unmeant s
    | _ => unmeant s
  | 1 => match w / 2 % 4 with
    | 0 => if true then (if true then execVfcmpEq (BitVec.ofNat 1 (w / 33554432 % 2)) (BitVec.ofNat 3 (w / 4194304 % 8)) (BitVec.ofNat 3 (w / 8192 % 8)) (BitVec.ofNat 5 (w / 256 % 32)) (BitVec.ofNat 5 (w / 8 % 32)) (BitVec.ofNat 1 (w % 2)) s else unmeant s) else unmeant s
    | 1 => if true then (if true then execVfcmpNe (BitVec.ofNat 1 (w / 33554432 % 2)) (BitVec.ofNat 3 (w / 4194304 % 8)) (BitVec.ofNat 3 (w / 8192 % 8)) (BitVec.ofNat 5 (w / 256 % 32)) (BitVec.ofNat 5 (w / 8 % 32)) (BitVec.ofNat 1 (w % 2)) s else unmeant s) else unmeant s
    | 2 => if true then (if true then execVfcmpLt (BitVec.ofNat 1 (w / 33554432 % 2)) (BitVec.ofNat 3 (w / 4194304 % 8)) (BitVec.ofNat 3 (w / 8192 % 8)) (BitVec.ofNat 5 (w / 256 % 32)) (BitVec.ofNat 5 (w / 8 % 32)) (BitVec.ofNat 1 (w % 2)) s else unmeant s) else unmeant s
    | 3 => if true then (if true then execVfcmpGe (BitVec.ofNat 1 (w / 33554432 % 2)) (BitVec.ofNat 3 (w / 4194304 % 8)) (BitVec.ofNat 3 (w / 8192 % 8)) (BitVec.ofNat 5 (w / 256 % 32)) (BitVec.ofNat 5 (w / 8 % 32)) (BitVec.ofNat 1 (w % 2)) s else unmeant s) else unmeant s
    | _ => unmeant s
  | 2 => if w / 33554432 % 2 == 0 then (if true then execVsel (BitVec.ofNat 3 (w / 4194304 % 8)) (BitVec.ofNat 5 (w / 2048 % 32)) (BitVec.ofNat 5 (w / 64 % 32)) (BitVec.ofNat 5 (w / 2 % 32)) (BitVec.ofNat 1 (w % 2)) s else unmeant s) else unmeant s
  | 3 => if w % 128 == 0 && w / 4194304 % 16 == 0 then (if true then execMand (BitVec.ofNat 3 (w / 8192 % 8)) (BitVec.ofNat 3 (w / 1024 % 8)) (BitVec.ofNat 3 (w / 128 % 8)) s else unmeant s) else unmeant s
  | 4 => if w % 128 == 0 && w / 4194304 % 16 == 0 then (if true then execMor (BitVec.ofNat 3 (w / 8192 % 8)) (BitVec.ofNat 3 (w / 1024 % 8)) (BitVec.ofNat 3 (w / 128 % 8)) s else unmeant s) else unmeant s
  | 5 => if w % 128 == 0 && w / 4194304 % 16 == 0 then (if true then execMxor (BitVec.ofNat 3 (w / 8192 % 8)) (BitVec.ofNat 3 (w / 1024 % 8)) (BitVec.ofNat 3 (w / 128 % 8)) s else unmeant s) else unmeant s
  | 6 => if w % 1024 == 0 && w / 4194304 % 16 == 0 then (if true then execMnot (BitVec.ofNat 3 (w / 8192 % 8)) (BitVec.ofNat 3 (w / 1024 % 8)) s else unmeant s) else unmeant s
  | 7 => if w % 256 == 0 && w / 4194304 % 16 == 0 then (if true then execMcnt (BitVec.ofNat 5 (w / 2048 % 32)) (BitVec.ofNat 3 (w / 256 % 8)) s else unmeant s) else unmeant s
  | 8 => if w % 256 == 0 && w / 4194304 % 16 == 0 then (if true then execMffs (BitVec.ofNat 5 (w / 2048 % 32)) (BitVec.ofNat 3 (w / 256 % 8)) s else unmeant s) else unmeant s
  | _ => unmeant s

def run12 (w : Nat) (s : State) : Host.Outcome State Fault Refusal :=
  match w / 65536 % 64 with
  | 0 => if w % 64 == 0 then (if true then execVcvt (BitVec.ofNat 1 (w / 33554432 % 2)) (BitVec.ofNat 3 (w / 4194304 % 8)) (BitVec.ofNat 5 (w / 2048 % 32)) (BitVec.ofNat 5 (w / 64 % 32)) s else unmeant s) else unmeant s
  | 1 => if w % 64 == 0 then (if true then execVcvtw (BitVec.ofNat 1 (w / 33554432 % 2)) (BitVec.ofNat 3 (w / 4194304 % 8)) (BitVec.ofNat 5 (w / 2048 % 32)) (BitVec.ofNat 5 (w / 64 % 32)) s else unmeant s) else unmeant s
  | 2 => if w % 64 == 0 then (if true then execVcvtn (BitVec.ofNat 1 (w / 33554432 % 2)) (BitVec.ofNat 3 (w / 4194304 % 8)) (BitVec.ofNat 5 (w / 2048 % 32)) (BitVec.ofNat 5 (w / 64 % 32)) s else unmeant s) else unmeant s
  | _ => unmeant s

def run13 (w : Nat) (s : State) : Host.Outcome State Fault Refusal :=
  match w / 65536 % 64 with
  | 0 => if true then (if true then execVperm (BitVec.ofNat 1 (w / 33554432 % 2)) (BitVec.ofNat 3 (w / 4194304 % 8)) (BitVec.ofNat 5 (w / 2048 % 32)) (BitVec.ofNat 5 (w / 64 % 32)) (BitVec.ofNat 5 (w / 2 % 32)) (BitVec.ofNat 1 (w % 2)) s else unmeant s) else unmeant s
  | 1 => if w % 2 == 0 then (if true then execVslide (BitVec.ofNat 1 (w / 33554432 % 2)) (BitVec.ofNat 3 (w / 4194304 % 8)) (BitVec.ofNat 5 (w / 2048 % 32)) (BitVec.ofNat 5 (w / 64 % 32)) (BitVec.ofNat 5 (w / 2 % 32)) s else unmeant s) else unmeant s
  | 2 => if w % 64 == 0 then (if true then execVredsum (BitVec.ofNat 1 (w / 33554432 % 2)) (BitVec.ofNat 3 (w / 4194304 % 8)) (BitVec.ofNat 5 (w / 2048 % 32)) (BitVec.ofNat 5 (w / 64 % 32)) s else unmeant s) else unmeant s
  | 3 => if w % 64 == 0 then (if true then execVfredsum (BitVec.ofNat 1 (w / 33554432 % 2)) (BitVec.ofNat 3 (w / 4194304 % 8)) (BitVec.ofNat 5 (w / 2048 % 32)) (BitVec.ofNat 5 (w / 64 % 32)) s else unmeant s) else unmeant s
  | 4 => if w % 64 == 0 then (if true then execVredmax (BitVec.ofNat 1 (w / 33554432 % 2)) (BitVec.ofNat 3 (w / 4194304 % 8)) (BitVec.ofNat 5 (w / 2048 % 32)) (BitVec.ofNat 5 (w / 64 % 32)) s else unmeant s) else unmeant s
  | 5 => if w % 64 == 0 then (if true then execVredmin (BitVec.ofNat 1 (w / 33554432 % 2)) (BitVec.ofNat 3 (w / 4194304 % 8)) (BitVec.ofNat 5 (w / 2048 % 32)) (BitVec.ofNat 5 (w / 64 % 32)) s else unmeant s) else unmeant s
  | 6 => if w % 2 == 0 && w / 4194304 % 16 == 0 then (if true then execVext (BitVec.ofNat 5 (w / 2048 % 32)) (BitVec.ofNat 5 (w / 64 % 32)) (BitVec.ofNat 5 (w / 2 % 32)) s else unmeant s) else unmeant s
  | 7 => if w % 2 == 0 && w / 4194304 % 16 == 0 then (if true then execVins (BitVec.ofNat 5 (w / 2048 % 32)) (BitVec.ofNat 5 (w / 64 % 32)) (BitVec.ofNat 5 (w / 2 % 32)) s else unmeant s) else unmeant s
  | 8 => if w % 64 == 0 then (if true then execVbcast (BitVec.ofNat 1 (w / 33554432 % 2)) (BitVec.ofNat 3 (w / 4194304 % 8)) (BitVec.ofNat 5 (w / 2048 % 32)) (BitVec.ofNat 5 (w / 64 % 32)) s else unmeant s) else unmeant s
  | _ => unmeant s

def run14 (w : Nat) (s : State) : Host.Outcome State Fault Refusal :=
  match w / 65536 % 64 with
  | 0 => if w % 64 == 0 then (if true then execVrcp (BitVec.ofNat 1 (w / 33554432 % 2)) (BitVec.ofNat 3 (w / 4194304 % 8)) (BitVec.ofNat 5 (w / 2048 % 32)) (BitVec.ofNat 5 (w / 64 % 32)) s else unmeant s) else unmeant s
  | 1 => if w % 64 == 0 then (if true then execVrsqrt (BitVec.ofNat 1 (w / 33554432 % 2)) (BitVec.ofNat 3 (w / 4194304 % 8)) (BitVec.ofNat 5 (w / 2048 % 32)) (BitVec.ofNat 5 (w / 64 % 32)) s else unmeant s) else unmeant s
  | 2 => if w % 64 == 0 then (if true then execVsqrt (BitVec.ofNat 1 (w / 33554432 % 2)) (BitVec.ofNat 3 (w / 4194304 % 8)) (BitVec.ofNat 5 (w / 2048 % 32)) (BitVec.ofNat 5 (w / 64 % 32)) s else unmeant s) else unmeant s
  | 3 => if w % 64 == 0 then (if true then execVexp2 (BitVec.ofNat 1 (w / 33554432 % 2)) (BitVec.ofNat 3 (w / 4194304 % 8)) (BitVec.ofNat 5 (w / 2048 % 32)) (BitVec.ofNat 5 (w / 64 % 32)) s else unmeant s) else unmeant s
  | 4 => if w % 64 == 0 then (if true then execVlog2 (BitVec.ofNat 1 (w / 33554432 % 2)) (BitVec.ofNat 3 (w / 4194304 % 8)) (BitVec.ofNat 5 (w / 2048 % 32)) (BitVec.ofNat 5 (w / 64 % 32)) s else unmeant s) else unmeant s
  | 5 => if w % 2 == 1 then (if true then execVclipq (BitVec.ofNat 1 (w / 33554432 % 2)) (BitVec.ofNat 3 (w / 4194304 % 8)) (BitVec.ofNat 5 (w / 2048 % 32)) (BitVec.ofNat 5 (w / 64 % 32)) (BitVec.ofNat 5 (w / 2 % 32)) s else unmeant s) else unmeant s
  | 6 => if w % 2 == 1 then (if true then execVnormq (BitVec.ofNat 1 (w / 33554432 % 2)) (BitVec.ofNat 3 (w / 4194304 % 8)) (BitVec.ofNat 5 (w / 2048 % 32)) (BitVec.ofNat 5 (w / 64 % 32)) (BitVec.ofNat 5 (w / 2 % 32)) s else unmeant s) else unmeant s
  | _ => unmeant s

def run15 (w : Nat) (s : State) : Host.Outcome State Fault Refusal :=
  match w / 65536 % 64 with
  | 0 => if w % 65536 == 0 && w / 4194304 % 16 == 0 then (if true then execVrot s else unmeant s) else unmeant s
  | 1 => if w % 2048 == 0 && w / 4194304 % 16 == 0 then (if true then execStgset (BitVec.ofNat 5 (w / 2048 % 32)) s else unmeant s) else unmeant s
  | 2 => if w % 2048 == 0 && w / 4194304 % 16 == 0 then (if true then execStgshift (BitVec.ofNat 5 (w / 2048 % 32)) s else unmeant s) else unmeant s
  | _ => unmeant s

def run16 (w : Nat) (s : State) : Host.Outcome State Fault Refusal :=
  match w / 131072 % 32 with
  | 0 => if w % 1024 == 0 then (if true then execBnLd (BitVec.ofNat 4 (w / 4194304 % 16)) (BitVec.ofNat 4 (w / 8192 % 16)) (BitVec.ofNat 3 (w / 1024 % 8)) s else unmeant s) else unmeant s
  | 1 => if w % 16 == 0 && w / 128 % 2 == 0 then (if true then execBnRt (BitVec.ofNat 4 (w / 4194304 % 16)) (BitVec.ofNat 5 (w / 4096 % 32)) (BitVec.ofNat 4 (w / 256 % 16)) (BitVec.ofNat 3 (w / 16 % 8)) s else unmeant s) else unmeant s
  | 2 => if w % 16 == 0 && w / 128 % 2 == 0 then (if true then execBnRto (BitVec.ofNat 4 (w / 4194304 % 16)) (BitVec.ofNat 5 (w / 4096 % 32)) (BitVec.ofNat 4 (w / 256 % 16)) (BitVec.ofNat 3 (w / 16 % 8)) s else unmeant s) else unmeant s
  | 3 => if w / 256 % 512 == 0 then (if true then execBnInv (BitVec.ofNat 4 (w / 4194304 % 16)) (BitVec.ofNat 8 (w % 256)) s else unmeant s) else unmeant s
  | 4 => if w % 16 == 0 && w / 128 % 32 == 0 then (if true then execBnRd (BitVec.ofNat 4 (w / 4194304 % 16)) (BitVec.ofNat 5 (w / 4096 % 32)) (BitVec.ofNat 3 (w / 16 % 8)) s else unmeant s) else unmeant s
  | _ => unmeant s

def run17 (w : Nat) (s : State) : Host.Outcome State Fault Refusal :=
  match w / 131072 % 32 with
  | 0 => if w % 256 == 0 then (if true then execSkInit (BitVec.ofNat 4 (w / 4194304 % 16)) (BitVec.ofNat 4 (w / 8192 % 16)) (BitVec.ofNat 5 (w / 256 % 32)) s else unmeant s) else unmeant s
  | 1 => if w % 8 == 0 then (if true then execSkQadd (BitVec.ofNat 4 (w / 4194304 % 16)) (BitVec.ofNat 4 (w / 8192 % 16)) (BitVec.ofNat 5 (w / 256 % 32)) (BitVec.ofNat 5 (w / 8 % 32)) s else unmeant s) else unmeant s
  | 2 => if w % 8 == 0 then (if true then execSkHadd (BitVec.ofNat 4 (w / 4194304 % 16)) (BitVec.ofNat 4 (w / 8192 % 16)) (BitVec.ofNat 5 (w / 256 % 32)) (BitVec.ofNat 5 (w / 8 % 32)) s else unmeant s) else unmeant s
  | 3 => if w % 8 == 0 then (if true then execSkDadd (BitVec.ofNat 4 (w / 4194304 % 16)) (BitVec.ofNat 4 (w / 8192 % 16)) (BitVec.ofNat 5 (w / 256 % 32)) (BitVec.ofNat 5 (w / 8 % 32)) s else unmeant s) else unmeant s
  | 4 => if w % 512 == 0 then (if true then execSkMerge (BitVec.ofNat 4 (w / 4194304 % 16)) (BitVec.ofNat 4 (w / 8192 % 16)) (BitVec.ofNat 4 (w / 512 % 16)) s else unmeant s) else unmeant s
  | 5 => if w % 256 == 0 then (if true then execSkCompact (BitVec.ofNat 4 (w / 4194304 % 16)) (BitVec.ofNat 4 (w / 8192 % 16)) (BitVec.ofNat 5 (w / 256 % 32)) s else unmeant s) else unmeant s
  | 6 => if w % 8 == 0 then (if true then execSkQuant (BitVec.ofNat 4 (w / 4194304 % 16)) (BitVec.ofNat 4 (w / 8192 % 16)) (BitVec.ofNat 5 (w / 256 % 32)) (BitVec.ofNat 5 (w / 8 % 32)) s else unmeant s) else unmeant s
  | 7 => if w % 8 == 0 then (if true then execSkRank (BitVec.ofNat 4 (w / 4194304 % 16)) (BitVec.ofNat 4 (w / 8192 % 16)) (BitVec.ofNat 5 (w / 256 % 32)) (BitVec.ofNat 5 (w / 8 % 32)) s else unmeant s) else unmeant s
  | 8 => if w % 8 == 0 then (if true then execSkTop (BitVec.ofNat 4 (w / 4194304 % 16)) (BitVec.ofNat 4 (w / 8192 % 16)) (BitVec.ofNat 5 (w / 256 % 32)) (BitVec.ofNat 5 (w / 8 % 32)) s else unmeant s) else unmeant s
  | 9 => if w % 256 == 0 then (if true then execSkCard (BitVec.ofNat 4 (w / 4194304 % 16)) (BitVec.ofNat 4 (w / 8192 % 16)) (BitVec.ofNat 5 (w / 256 % 32)) s else unmeant s) else unmeant s
  | 10 => if w % 8192 == 0 then (if true then execSkSeal (BitVec.ofNat 4 (w / 4194304 % 16)) (BitVec.ofNat 4 (w / 8192 % 16)) s else unmeant s) else unmeant s
  | 11 => if w % 256 == 0 then (if true then execSkChk (BitVec.ofNat 4 (w / 4194304 % 16)) (BitVec.ofNat 4 (w / 8192 % 16)) (BitVec.ofNat 5 (w / 256 % 32)) s else unmeant s) else unmeant s
  | _ => unmeant s

def run18 (w : Nat) (s : State) : Host.Outcome State Fault Refusal :=
  match w / 512 % 256 with
  | 0 => if w / 1048576 % 2 == 0 then (if (scopeOk (BitVec.ofNat 1 (w / 2097152 % 2)) 0 (BitVec.ofNat 3 (w / 131072 % 8))) then execMxMma (BitVec.ofNat 4 (w / 4194304 % 16)) (BitVec.ofNat 1 (w / 2097152 % 2)) (BitVec.ofNat 3 (w / 131072 % 8)) (BitVec.ofNat 4 (w / 32 % 16)) (BitVec.ofNat 5 (w % 32)) s else unmeant s) else unmeant s
  | 1 => if w / 131072 % 32 == 0 then (if true then execMxProm (BitVec.ofNat 4 (w / 4194304 % 16)) (BitVec.ofNat 4 (w / 32 % 16)) (BitVec.ofNat 5 (w % 32)) s else unmeant s) else unmeant s
  | 2 => if w / 131072 % 32 == 0 then (if true then execMxProme (BitVec.ofNat 4 (w / 4194304 % 16)) (BitVec.ofNat 4 (w / 32 % 16)) (BitVec.ofNat 5 (w % 32)) s else unmeant s) else unmeant s
  | 3 => if w / 32 % 16 == 0 && w / 131072 % 32 == 0 then (if true then execMxZero (BitVec.ofNat 4 (w / 4194304 % 16)) (BitVec.ofNat 5 (w % 32)) s else unmeant s) else unmeant s
  | 4 => if w / 1048576 % 2 == 0 then (if (scopeOk (BitVec.ofNat 1 (w / 2097152 % 2)) 0 (BitVec.ofNat 3 (w / 131072 % 8))) then execMxZld (BitVec.ofNat 4 (w / 4194304 % 16)) (BitVec.ofNat 1 (w / 2097152 % 2)) (BitVec.ofNat 3 (w / 131072 % 8)) (BitVec.ofNat 4 (w / 32 % 16)) (BitVec.ofNat 5 (w % 32)) s else unmeant s) else unmeant s
  | 5 => if w / 2097152 % 2 == 0 then (if (scopeOk 0 (BitVec.ofNat 1 (w / 1048576 % 2)) (BitVec.ofNat 3 (w / 131072 % 8))) then execMxZst (BitVec.ofNat 4 (w / 4194304 % 16)) (BitVec.ofNat 1 (w / 1048576 % 2)) (BitVec.ofNat 3 (w / 131072 % 8)) (BitVec.ofNat 4 (w / 32 % 16)) (BitVec.ofNat 5 (w % 32)) s else unmeant s) else unmeant s
  | 6 => if w / 2097152 % 2 == 0 then (if (scopeOk 0 (BitVec.ofNat 1 (w / 1048576 % 2)) (BitVec.ofNat 3 (w / 131072 % 8))) then execMxZcvt (BitVec.ofNat 4 (w / 4194304 % 16)) (BitVec.ofNat 1 (w / 1048576 % 2)) (BitVec.ofNat 3 (w / 131072 % 8)) (BitVec.ofNat 4 (w / 32 % 16)) (BitVec.ofNat 5 (w % 32)) s else unmeant s) else unmeant s
  | 7 => if w / 32 % 16 == 0 && w / 131072 % 32 == 0 then (if true then execMxZadd (BitVec.ofNat 4 (w / 4194304 % 16)) (BitVec.ofNat 5 (w % 32)) s else unmeant s) else unmeant s
  | 8 => if w / 32 % 16 == 0 && w / 131072 % 32 == 0 then (if true then execMxScl (BitVec.ofNat 4 (w / 4194304 % 16)) (BitVec.ofNat 5 (w % 32)) s else unmeant s) else unmeant s
  | 9 => if w / 32 % 16 == 0 && w / 131072 % 32 == 0 then (if true then execMxWsel (BitVec.ofNat 4 (w / 4194304 % 16)) (BitVec.ofNat 5 (w % 32)) s else unmeant s) else unmeant s
  | 10 => if w / 32 % 16 == 0 && w / 131072 % 32 == 0 then (if true then execMxWake (BitVec.ofNat 4 (w / 4194304 % 16)) (BitVec.ofNat 5 (w % 32)) s else unmeant s) else unmeant s
  | 11 => if w / 32 % 16 == 0 && w / 131072 % 32 == 0 then (if true then execMxGate (BitVec.ofNat 4 (w / 4194304 % 16)) (BitVec.ofNat 5 (w % 32)) s else unmeant s) else unmeant s
  | 12 => if true then (if (scopeOk (BitVec.ofNat 1 (w / 2097152 % 2)) (BitVec.ofNat 1 (w / 1048576 % 2)) (BitVec.ofNat 3 (w / 131072 % 8))) then execMxTask (BitVec.ofNat 4 (w / 4194304 % 16)) (BitVec.ofNat 1 (w / 2097152 % 2)) (BitVec.ofNat 1 (w / 1048576 % 2)) (BitVec.ofNat 3 (w / 131072 % 8)) (BitVec.ofNat 4 (w / 32 % 16)) (BitVec.ofNat 5 (w % 32)) s else unmeant s) else unmeant s
  | 13 => if w / 131072 % 32 == 0 then (if true then execMxTstat (BitVec.ofNat 4 (w / 4194304 % 16)) (BitVec.ofNat 4 (w / 32 % 16)) (BitVec.ofNat 5 (w % 32)) s else unmeant s) else unmeant s
  | 14 => if w / 131072 % 32 == 0 then (if true then execMxTkill (BitVec.ofNat 4 (w / 4194304 % 16)) (BitVec.ofNat 4 (w / 32 % 16)) (BitVec.ofNat 5 (w % 32)) s else unmeant s) else unmeant s
  | 15 => if w / 32 % 16 == 0 && w / 131072 % 32 == 0 then (if true then execMxQsplit (BitVec.ofNat 4 (w / 4194304 % 16)) (BitVec.ofNat 5 (w % 32)) s else unmeant s) else unmeant s
  | 16 => if w % 512 == 0 && w / 2097152 % 2 == 0 then (if (scopeOk 0 (BitVec.ofNat 1 (w / 1048576 % 2)) (BitVec.ofNat 3 (w / 131072 % 8))) then execMxFence (BitVec.ofNat 4 (w / 4194304 % 16)) (BitVec.ofNat 1 (w / 1048576 % 2)) (BitVec.ofNat 3 (w / 131072 % 8)) s else unmeant s) else unmeant s
  | 17 => if w / 524288 % 8 == 0 then (if true then execMxCfg (BitVec.ofNat 4 (w / 4194304 % 16)) (BitVec.ofNat 2 (w / 131072 % 4)) (BitVec.ofNat 4 (w / 32 % 16)) (BitVec.ofNat 5 (w % 32)) s else unmeant s) else unmeant s
  | _ => unmeant s

def run19 (w : Nat) (s : State) : Host.Outcome State Fault Refusal :=
  match w / 512 % 256 with
  | 0 => if true then (if (scopeOk (BitVec.ofNat 1 (w / 2097152 % 2)) (BitVec.ofNat 1 (w / 1048576 % 2)) (BitVec.ofNat 3 (w / 131072 % 8))) then execCpCopy (BitVec.ofNat 4 (w / 4194304 % 16)) (BitVec.ofNat 1 (w / 2097152 % 2)) (BitVec.ofNat 1 (w / 1048576 % 2)) (BitVec.ofNat 3 (w / 131072 % 8)) (BitVec.ofNat 4 (w / 32 % 16)) (BitVec.ofNat 5 (w % 32)) s else unmeant s) else unmeant s
  | 1 => if true then (if (scopeOk (BitVec.ofNat 1 (w / 2097152 % 2)) (BitVec.ofNat 1 (w / 1048576 % 2)) (BitVec.ofNat 3 (w / 131072 % 8))) then execCpLdt (BitVec.ofNat 4 (w / 4194304 % 16)) (BitVec.ofNat 1 (w / 2097152 % 2)) (BitVec.ofNat 1 (w / 1048576 % 2)) (BitVec.ofNat 3 (w / 131072 % 8)) (BitVec.ofNat 4 (w / 32 % 16)) (BitVec.ofNat 5 (w % 32)) s else unmeant s) else unmeant s
  | 2 => if true then (if (scopeOk (BitVec.ofNat 1 (w / 2097152 % 2)) (BitVec.ofNat 1 (w / 1048576 % 2)) (BitVec.ofNat 3 (w / 131072 % 8))) then execCpStt (BitVec.ofNat 4 (w / 4194304 % 16)) (BitVec.ofNat 1 (w / 2097152 % 2)) (BitVec.ofNat 1 (w / 1048576 % 2)) (BitVec.ofNat 3 (w / 131072 % 8)) (BitVec.ofNat 4 (w / 32 % 16)) (BitVec.ofNat 5 (w % 32)) s else unmeant s) else unmeant s
  | 3 => if w / 1048576 % 2 == 0 then (if (scopeOk (BitVec.ofNat 1 (w / 2097152 % 2)) 0 (BitVec.ofNat 3 (w / 131072 % 8))) then execCpFill (BitVec.ofNat 4 (w / 4194304 % 16)) (BitVec.ofNat 1 (w / 2097152 % 2)) (BitVec.ofNat 3 (w / 131072 % 8)) (BitVec.ofNat 4 (w / 32 % 16)) (BitVec.ofNat 5 (w % 32)) s else unmeant s) else unmeant s
  | 4 => if w / 131072 % 32 == 0 then (if true then execCpMap (BitVec.ofNat 4 (w / 4194304 % 16)) (BitVec.ofNat 4 (w / 32 % 16)) (BitVec.ofNat 5 (w % 32)) s else unmeant s) else unmeant s
  | 5 => if w / 32 % 16 == 0 && w / 2097152 % 2 == 0 then (if (scopeOk 0 (BitVec.ofNat 1 (w / 1048576 % 2)) (BitVec.ofNat 3 (w / 131072 % 8))) then execCpUnmap (BitVec.ofNat 4 (w / 4194304 % 16)) (BitVec.ofNat 1 (w / 1048576 % 2)) (BitVec.ofNat 3 (w / 131072 % 8)) (BitVec.ofNat 5 (w % 32)) s else unmeant s) else unmeant s
  | 6 => if true then (if (scopeOk (BitVec.ofNat 1 (w / 2097152 % 2)) (BitVec.ofNat 1 (w / 1048576 % 2)) (BitVec.ofNat 3 (w / 131072 % 8))) then execCpFlush (BitVec.ofNat 4 (w / 4194304 % 16)) (BitVec.ofNat 1 (w / 2097152 % 2)) (BitVec.ofNat 1 (w / 1048576 % 2)) (BitVec.ofNat 3 (w / 131072 % 8)) (BitVec.ofNat 4 (w / 32 % 16)) (BitVec.ofNat 5 (w % 32)) s else unmeant s) else unmeant s
  | 7 => if true then (if (scopeOk (BitVec.ofNat 1 (w / 2097152 % 2)) (BitVec.ofNat 1 (w / 1048576 % 2)) (BitVec.ofNat 3 (w / 131072 % 8))) then execCpInval (BitVec.ofNat 4 (w / 4194304 % 16)) (BitVec.ofNat 1 (w / 2097152 % 2)) (BitVec.ofNat 1 (w / 1048576 % 2)) (BitVec.ofNat 3 (w / 131072 % 8)) (BitVec.ofNat 4 (w / 32 % 16)) (BitVec.ofNat 5 (w % 32)) s else unmeant s) else unmeant s
  | 8 => if w / 1048576 % 2 == 0 then (if (scopeOk (BitVec.ofNat 1 (w / 2097152 % 2)) 0 (BitVec.ofNat 3 (w / 131072 % 8))) then execCpWfill (BitVec.ofNat 4 (w / 4194304 % 16)) (BitVec.ofNat 1 (w / 2097152 % 2)) (BitVec.ofNat 3 (w / 131072 % 8)) (BitVec.ofNat 4 (w / 32 % 16)) (BitVec.ofNat 5 (w % 32)) s else unmeant s) else unmeant s
  | 9 => if w / 1048576 % 2 == 0 then (if (scopeOk (BitVec.ofNat 1 (w / 2097152 % 2)) 0 (BitVec.ofNat 3 (w / 131072 % 8))) then execCpOvl (BitVec.ofNat 4 (w / 4194304 % 16)) (BitVec.ofNat 1 (w / 2097152 % 2)) (BitVec.ofNat 3 (w / 131072 % 8)) (BitVec.ofNat 4 (w / 32 % 16)) (BitVec.ofNat 5 (w % 32)) s else unmeant s) else unmeant s
  | 10 => if true then (if (scopeOk (BitVec.ofNat 1 (w / 2097152 % 2)) (BitVec.ofNat 1 (w / 1048576 % 2)) (BitVec.ofNat 3 (w / 131072 % 8))) then execCpSpill (BitVec.ofNat 4 (w / 4194304 % 16)) (BitVec.ofNat 1 (w / 2097152 % 2)) (BitVec.ofNat 1 (w / 1048576 % 2)) (BitVec.ofNat 3 (w / 131072 % 8)) (BitVec.ofNat 4 (w / 32 % 16)) (BitVec.ofNat 5 (w % 32)) s else unmeant s) else unmeant s
  | 11 => if true then (if (scopeOk (BitVec.ofNat 1 (w / 2097152 % 2)) (BitVec.ofNat 1 (w / 1048576 % 2)) (BitVec.ofNat 3 (w / 131072 % 8))) then execCpUnspill (BitVec.ofNat 4 (w / 4194304 % 16)) (BitVec.ofNat 1 (w / 2097152 % 2)) (BitVec.ofNat 1 (w / 1048576 % 2)) (BitVec.ofNat 3 (w / 131072 % 8)) (BitVec.ofNat 4 (w / 32 % 16)) (BitVec.ofNat 5 (w % 32)) s else unmeant s) else unmeant s
  | 12 => if w / 2097152 % 2 == 0 then (if (scopeOk 0 (BitVec.ofNat 1 (w / 1048576 % 2)) (BitVec.ofNat 3 (w / 131072 % 8))) then execCpBcnt (BitVec.ofNat 4 (w / 4194304 % 16)) (BitVec.ofNat 1 (w / 1048576 % 2)) (BitVec.ofNat 3 (w / 131072 % 8)) (BitVec.ofNat 4 (w / 32 % 16)) (BitVec.ofNat 5 (w % 32)) s else unmeant s) else unmeant s
  | 13 => if w / 32 % 16 == 0 && w / 131072 % 32 == 0 then (if true then execCpTclr (BitVec.ofNat 4 (w / 4194304 % 16)) (BitVec.ofNat 5 (w % 32)) s else unmeant s) else unmeant s
  | _ => unmeant s

def run1A (w : Nat) (s : State) : Host.Outcome State Fault Refusal :=
  match w / 512 % 256 with
  | 0 => if w / 131072 % 32 == 0 then (if true then execClTmk (BitVec.ofNat 4 (w / 4194304 % 16)) (BitVec.ofNat 4 (w / 32 % 16)) (BitVec.ofNat 5 (w % 32)) s else unmeant s) else unmeant s
  | 1 => if w / 32 % 16 == 0 && w / 131072 % 32 == 0 then (if true then execClTfree (BitVec.ofNat 4 (w / 4194304 % 16)) (BitVec.ofNat 5 (w % 32)) s else unmeant s) else unmeant s
  | 2 => if true then (if (scopeOk (BitVec.ofNat 1 (w / 2097152 % 2)) (BitVec.ofNat 1 (w / 1048576 % 2)) (BitVec.ofNat 3 (w / 131072 % 8))) then execClPost (BitVec.ofNat 4 (w / 4194304 % 16)) (BitVec.ofNat 1 (w / 2097152 % 2)) (BitVec.ofNat 1 (w / 1048576 % 2)) (BitVec.ofNat 3 (w / 131072 % 8)) (BitVec.ofNat 4 (w / 32 % 16)) (BitVec.ofNat 5 (w % 32)) s else unmeant s) else unmeant s
  | 3 => if true then (if (scopeOk (BitVec.ofNat 1 (w / 2097152 % 2)) (BitVec.ofNat 1 (w / 1048576 % 2)) (BitVec.ofNat 3 (w / 131072 % 8))) then execClTake (BitVec.ofNat 4 (w / 4194304 % 16)) (BitVec.ofNat 1 (w / 2097152 % 2)) (BitVec.ofNat 1 (w / 1048576 % 2)) (BitVec.ofNat 3 (w / 131072 % 8)) (BitVec.ofNat 4 (w / 32 % 16)) (BitVec.ofNat 5 (w % 32)) s else unmeant s) else unmeant s
  | 4 => if w / 32 % 16 == 0 && w / 131072 % 32 == 0 then (if true then execClFrz (BitVec.ofNat 4 (w / 4194304 % 16)) (BitVec.ofNat 5 (w % 32)) s else unmeant s) else unmeant s
  | 5 => if w / 32 % 16 == 0 && w / 131072 % 32 == 0 then (if true then execClThaw (BitVec.ofNat 4 (w / 4194304 % 16)) (BitVec.ofNat 5 (w % 32)) s else unmeant s) else unmeant s
  | 6 => if w / 131072 % 32 == 0 then (if true then execClSave (BitVec.ofNat 4 (w / 4194304 % 16)) (BitVec.ofNat 4 (w / 32 % 16)) (BitVec.ofNat 5 (w % 32)) s else unmeant s) else unmeant s
  | 7 => if w / 131072 % 32 == 0 then (if true then execClRst (BitVec.ofNat 4 (w / 4194304 % 16)) (BitVec.ofNat 4 (w / 32 % 16)) (BitVec.ofNat 5 (w % 32)) s else unmeant s) else unmeant s
  | 8 => if w / 32 % 16 == 0 && w / 131072 % 32 == 0 then (if true then execClEditRemove (BitVec.ofNat 4 (w / 4194304 % 16)) (BitVec.ofNat 5 (w % 32)) s else unmeant s) else unmeant s
  | 9 => if true then (if (scopeOk (BitVec.ofNat 1 (w / 2097152 % 2)) (BitVec.ofNat 1 (w / 1048576 % 2)) (BitVec.ofNat 3 (w / 131072 % 8))) then execClReshard (BitVec.ofNat 4 (w / 4194304 % 16)) (BitVec.ofNat 1 (w / 2097152 % 2)) (BitVec.ofNat 1 (w / 1048576 % 2)) (BitVec.ofNat 3 (w / 131072 % 8)) (BitVec.ofNat 4 (w / 32 % 16)) (BitVec.ofNat 5 (w % 32)) s else unmeant s) else unmeant s
  | 10 => if w / 32 % 16 == 0 && w / 131072 % 32 == 0 then (if true then execClQuery (BitVec.ofNat 4 (w / 4194304 % 16)) (BitVec.ofNat 5 (w % 32)) s else unmeant s) else unmeant s
  | 11 => if true then (if (scopeOk (BitVec.ofNat 1 (w / 2097152 % 2)) (BitVec.ofNat 1 (w / 1048576 % 2)) (BitVec.ofNat 3 (w / 131072 % 8))) then execClMcast (BitVec.ofNat 4 (w / 4194304 % 16)) (BitVec.ofNat 1 (w / 2097152 % 2)) (BitVec.ofNat 1 (w / 1048576 % 2)) (BitVec.ofNat 3 (w / 131072 % 8)) (BitVec.ofNat 4 (w / 32 % 16)) (BitVec.ofNat 5 (w % 32)) s else unmeant s) else unmeant s
  | 12 => if true then (if (scopeOk (BitVec.ofNat 1 (w / 2097152 % 2)) (BitVec.ofNat 1 (w / 1048576 % 2)) (BitVec.ofNat 3 (w / 131072 % 8))) then execClBar (BitVec.ofNat 4 (w / 4194304 % 16)) (BitVec.ofNat 1 (w / 2097152 % 2)) (BitVec.ofNat 1 (w / 1048576 % 2)) (BitVec.ofNat 3 (w / 131072 % 8)) (BitVec.ofNat 4 (w / 32 % 16)) (BitVec.ofNat 5 (w % 32)) s else unmeant s) else unmeant s
  | 13 => if w / 32 % 16 == 0 && w / 131072 % 32 == 0 then (if true then execClAbort (BitVec.ofNat 4 (w / 4194304 % 16)) (BitVec.ofNat 5 (w % 32)) s else unmeant s) else unmeant s
  | _ => unmeant s

def run1B (w : Nat) (s : State) : Host.Outcome State Fault Refusal :=
  match w / 512 % 256 with
  | 0 => if w / 131072 % 32 == 0 then (if true then execEvSend (BitVec.ofNat 4 (w / 4194304 % 16)) (BitVec.ofNat 4 (w / 32 % 16)) (BitVec.ofNat 5 (w % 32)) s else unmeant s) else unmeant s
  | 1 => if w / 131072 % 32 == 0 then (if true then execEvRecv (BitVec.ofNat 4 (w / 4194304 % 16)) (BitVec.ofNat 4 (w / 32 % 16)) (BitVec.ofNat 5 (w % 32)) s else unmeant s) else unmeant s
  | 2 => if w / 131072 % 32 == 0 then (if true then execEvGather (BitVec.ofNat 4 (w / 4194304 % 16)) (BitVec.ofNat 4 (w / 32 % 16)) (BitVec.ofNat 5 (w % 32)) s else unmeant s) else unmeant s
  | 3 => if w / 32 % 16 == 0 && w / 131072 % 32 == 0 then (if true then execEvOpen (BitVec.ofNat 4 (w / 4194304 % 16)) (BitVec.ofNat 5 (w % 32)) s else unmeant s) else unmeant s
  | 4 => if w / 32 % 16 == 0 && w / 131072 % 32 == 0 then (if true then execEvClose (BitVec.ofNat 4 (w / 4194304 % 16)) (BitVec.ofNat 5 (w % 32)) s else unmeant s) else unmeant s
  | _ => unmeant s

def run1C (w : Nat) (s : State) : Host.Outcome State Fault Refusal :=
  match w / 512 % 256 with
  | 0 => if w / 2097152 % 2 == 0 then (if (scopeOk 0 (BitVec.ofNat 1 (w / 1048576 % 2)) (BitVec.ofNat 3 (w / 131072 % 8))) then execDsLaunch (BitVec.ofNat 4 (w / 4194304 % 16)) (BitVec.ofNat 1 (w / 1048576 % 2)) (BitVec.ofNat 3 (w / 131072 % 8)) (BitVec.ofNat 4 (w / 32 % 16)) (BitVec.ofNat 5 (w % 32)) s else unmeant s) else unmeant s
  | 1 => if w / 2097152 % 2 == 0 then (if (scopeOk 0 (BitVec.ofNat 1 (w / 1048576 % 2)) (BitVec.ofNat 3 (w / 131072 % 8))) then execDsLaunchW (BitVec.ofNat 4 (w / 4194304 % 16)) (BitVec.ofNat 1 (w / 1048576 % 2)) (BitVec.ofNat 3 (w / 131072 % 8)) (BitVec.ofNat 4 (w / 32 % 16)) (BitVec.ofNat 5 (w % 32)) s else unmeant s) else unmeant s
  | 2 => if w / 2097152 % 2 == 0 then (if (scopeOk 0 (BitVec.ofNat 1 (w / 1048576 % 2)) (BitVec.ofNat 3 (w / 131072 % 8))) then execDsQpush (BitVec.ofNat 4 (w / 4194304 % 16)) (BitVec.ofNat 1 (w / 1048576 % 2)) (BitVec.ofNat 3 (w / 131072 % 8)) (BitVec.ofNat 4 (w / 32 % 16)) (BitVec.ofNat 5 (w % 32)) s else unmeant s) else unmeant s
  | 3 => if w / 1048576 % 2 == 0 then (if (scopeOk (BitVec.ofNat 1 (w / 2097152 % 2)) 0 (BitVec.ofNat 3 (w / 131072 % 8))) then execDsQpop (BitVec.ofNat 4 (w / 4194304 % 16)) (BitVec.ofNat 1 (w / 2097152 % 2)) (BitVec.ofNat 3 (w / 131072 % 8)) (BitVec.ofNat 4 (w / 32 % 16)) (BitVec.ofNat 5 (w % 32)) s else unmeant s) else unmeant s
  | 4 => match w / 131072 % 8 with
    | 0 => if w / 1048576 % 4 == 0 then (if true then execDsCondSet (BitVec.ofNat 4 (w / 4194304 % 16)) (BitVec.ofNat 4 (w / 32 % 16)) (BitVec.ofNat 5 (w % 32)) s else unmeant s) else unmeant s
    | 1 => if w / 1048576 % 4 == 0 then (if true then execDsCondAdd (BitVec.ofNat 4 (w / 4194304 % 16)) (BitVec.ofNat 4 (w / 32 % 16)) (BitVec.ofNat 5 (w % 32)) s else unmeant s) else unmeant s
    | 2 => if w / 1048576 % 4 == 0 then (if true then execDsCondOr (BitVec.ofNat 4 (w / 4194304 % 16)) (BitVec.ofNat 4 (w / 32 % 16)) (BitVec.ofNat 5 (w % 32)) s else unmeant s) else unmeant s
    | 3 => if w / 1048576 % 4 == 0 then (if true then execDsCondAnd (BitVec.ofNat 4 (w / 4194304 % 16)) (BitVec.ofNat 4 (w / 32 % 16)) (BitVec.ofNat 5 (w % 32)) s else unmeant s) else unmeant s
    | _ => unmeant s
  | 5 => if w / 131072 % 32 == 0 then (if true then execDsGstart (BitVec.ofNat 4 (w / 4194304 % 16)) (BitVec.ofNat 4 (w / 32 % 16)) (BitVec.ofNat 5 (w % 32)) s else unmeant s) else unmeant s
  | 6 => if w / 131072 % 32 == 0 then (if true then execDsGstop (BitVec.ofNat 4 (w / 4194304 % 16)) (BitVec.ofNat 4 (w / 32 % 16)) (BitVec.ofNat 5 (w % 32)) s else unmeant s) else unmeant s
  | 7 => if w / 131072 % 32 == 0 then (if true then execDsWake (BitVec.ofNat 4 (w / 4194304 % 16)) (BitVec.ofNat 4 (w / 32 % 16)) (BitVec.ofNat 5 (w % 32)) s else unmeant s) else unmeant s
  | 8 => if w / 131072 % 32 == 0 then (if true then execDsPrio (BitVec.ofNat 4 (w / 4194304 % 16)) (BitVec.ofNat 4 (w / 32 % 16)) (BitVec.ofNat 5 (w % 32)) s else unmeant s) else unmeant s
  | 9 => if w / 32 % 16 == 0 && w / 131072 % 32 == 0 then (if true then execDsQuery (BitVec.ofNat 4 (w / 4194304 % 16)) (BitVec.ofNat 5 (w % 32)) s else unmeant s) else unmeant s
  | _ => unmeant s

def run1D (w : Nat) (s : State) : Host.Outcome State Fault Refusal :=
  match w / 512 % 256 with
  | 0 => if w / 524288 % 8 == 0 then (if true then execTlInv (BitVec.ofNat 4 (w / 4194304 % 16)) (BitVec.ofNat 2 (w / 131072 % 4)) (BitVec.ofNat 4 (w / 32 % 16)) (BitVec.ofNat 5 (w % 32)) s else unmeant s) else unmeant s
  | 1 => if w / 32 % 16 == 0 && w / 524288 % 8 == 0 then (if true then execTlInva (BitVec.ofNat 4 (w / 4194304 % 16)) (BitVec.ofNat 2 (w / 131072 % 4)) (BitVec.ofNat 5 (w % 32)) s else unmeant s) else unmeant s
  | 2 => if w / 131072 % 32 == 0 then (if true then execTlProbe (BitVec.ofNat 4 (w / 4194304 % 16)) (BitVec.ofNat 4 (w / 32 % 16)) (BitVec.ofNat 5 (w % 32)) s else unmeant s) else unmeant s
  | 3 => if w / 131072 % 32 == 0 then (if true then execTlRoot (BitVec.ofNat 4 (w / 4194304 % 16)) (BitVec.ofNat 4 (w / 32 % 16)) (BitVec.ofNat 5 (w % 32)) s else unmeant s) else unmeant s
  | 4 => if w / 131072 % 32 == 0 then (if true then execTlHash (BitVec.ofNat 4 (w / 4194304 % 16)) (BitVec.ofNat 4 (w / 32 % 16)) (BitVec.ofNat 5 (w % 32)) s else unmeant s) else unmeant s
  | 5 => if w / 131072 % 32 == 0 then (if true then execTlDlog (BitVec.ofNat 4 (w / 4194304 % 16)) (BitVec.ofNat 4 (w / 32 % 16)) (BitVec.ofNat 5 (w % 32)) s else unmeant s) else unmeant s
  | 16 => if w / 32 % 16 == 0 && w / 131072 % 32 == 0 then (if true then execPtQuiesce (BitVec.ofNat 4 (w / 4194304 % 16)) (BitVec.ofNat 5 (w % 32)) s else unmeant s) else unmeant s
  | 17 => if w / 131072 % 32 == 0 then (if true then execPtLayout (BitVec.ofNat 4 (w / 4194304 % 16)) (BitVec.ofNat 4 (w / 32 % 16)) (BitVec.ofNat 5 (w % 32)) s else unmeant s) else unmeant s
  | 18 => if w / 131072 % 32 == 0 then (if true then execPtVfsetAssign (BitVec.ofNat 4 (w / 4194304 % 16)) (BitVec.ofNat 4 (w / 32 % 16)) (BitVec.ofNat 5 (w % 32)) s else unmeant s) else unmeant s
  | 19 => if w / 32 % 16 == 0 && w / 131072 % 32 == 0 then (if true then execPtWays (BitVec.ofNat 4 (w / 4194304 % 16)) (BitVec.ofNat 5 (w % 32)) s else unmeant s) else unmeant s
  | 20 => if w / 131072 % 32 == 0 then (if true then execPtMove (BitVec.ofNat 4 (w / 4194304 % 16)) (BitVec.ofNat 4 (w / 32 % 16)) (BitVec.ofNat 5 (w % 32)) s else unmeant s) else unmeant s
  | 21 => if w / 32 % 16 == 0 && w / 131072 % 32 == 0 then (if true then execPtFlr (BitVec.ofNat 4 (w / 4194304 % 16)) (BitVec.ofNat 5 (w % 32)) s else unmeant s) else unmeant s
  | 32 => if w / 32 % 16 == 0 && w / 131072 % 32 == 0 then (if true then execGtLset (BitVec.ofNat 4 (w / 4194304 % 16)) (BitVec.ofNat 5 (w % 32)) s else unmeant s) else unmeant s
  | 33 => if w / 131072 % 32 == 0 then (if true then execGtParty (BitVec.ofNat 4 (w / 4194304 % 16)) (BitVec.ofNat 4 (w / 32 % 16)) (BitVec.ofNat 5 (w % 32)) s else unmeant s) else unmeant s
  | 34 => if w / 131072 % 32 == 0 then (if true then execGtReleaseInstall (BitVec.ofNat 4 (w / 4194304 % 16)) (BitVec.ofNat 4 (w / 32 % 16)) (BitVec.ofNat 5 (w % 32)) s else unmeant s) else unmeant s
  | _ => unmeant s

def inf00 (w : Nat) : Option Info :=
  match w / 32768 % 128 with
  | 0 => if true then (if true then some (infoAdd (BitVec.ofNat 4 (w / 4194304 % 16)) (BitVec.ofNat 5 (w / 1024 % 32)) (BitVec.ofNat 5 (w / 32 % 32)) (BitVec.ofNat 5 (w % 32))) else none) else none
  | 1 => if true then (if true then some (infoSub (BitVec.ofNat 4 (w / 4194304 % 16)) (BitVec.ofNat 5 (w / 1024 % 32)) (BitVec.ofNat 5 (w / 32 % 32)) (BitVec.ofNat 5 (w % 32))) else none) else none
  | 2 => if true then (if true then some (infoMul (BitVec.ofNat 4 (w / 4194304 % 16)) (BitVec.ofNat 5 (w / 1024 % 32)) (BitVec.ofNat 5 (w / 32 % 32)) (BitVec.ofNat 5 (w % 32))) else none) else none
  | 3 => if true then (if true then some (infoMulh (BitVec.ofNat 4 (w / 4194304 % 16)) (BitVec.ofNat 5 (w / 1024 % 32)) (BitVec.ofNat 5 (w / 32 % 32)) (BitVec.ofNat 5 (w % 32))) else none) else none
  | 4 => if true then (if true then some (infoMulhn (BitVec.ofNat 4 (w / 4194304 % 16)) (BitVec.ofNat 5 (w / 1024 % 32)) (BitVec.ofNat 5 (w / 32 % 32)) (BitVec.ofNat 5 (w % 32))) else none) else none
  | 5 => if true then (if true then some (infoDiv (BitVec.ofNat 4 (w / 4194304 % 16)) (BitVec.ofNat 5 (w / 1024 % 32)) (BitVec.ofNat 5 (w / 32 % 32)) (BitVec.ofNat 5 (w % 32))) else none) else none
  | 6 => if true then (if true then some (infoDivn (BitVec.ofNat 4 (w / 4194304 % 16)) (BitVec.ofNat 5 (w / 1024 % 32)) (BitVec.ofNat 5 (w / 32 % 32)) (BitVec.ofNat 5 (w % 32))) else none) else none
  | 7 => if true then (if true then some (infoRem (BitVec.ofNat 4 (w / 4194304 % 16)) (BitVec.ofNat 5 (w / 1024 % 32)) (BitVec.ofNat 5 (w / 32 % 32)) (BitVec.ofNat 5 (w % 32))) else none) else none
  | 8 => if true then (if true then some (infoRemn (BitVec.ofNat 4 (w / 4194304 % 16)) (BitVec.ofNat 5 (w / 1024 % 32)) (BitVec.ofNat 5 (w / 32 % 32)) (BitVec.ofNat 5 (w % 32))) else none) else none
  | 9 => if true then (if true then some (infoAnd (BitVec.ofNat 4 (w / 4194304 % 16)) (BitVec.ofNat 5 (w / 1024 % 32)) (BitVec.ofNat 5 (w / 32 % 32)) (BitVec.ofNat 5 (w % 32))) else none) else none
  | 10 => if true then (if true then some (infoOr (BitVec.ofNat 4 (w / 4194304 % 16)) (BitVec.ofNat 5 (w / 1024 % 32)) (BitVec.ofNat 5 (w / 32 % 32)) (BitVec.ofNat 5 (w % 32))) else none) else none
  | 11 => if true then (if true then some (infoXor (BitVec.ofNat 4 (w / 4194304 % 16)) (BitVec.ofNat 5 (w / 1024 % 32)) (BitVec.ofNat 5 (w / 32 % 32)) (BitVec.ofNat 5 (w % 32))) else none) else none
  | 12 => if true then (if true then some (infoAndn (BitVec.ofNat 4 (w / 4194304 % 16)) (BitVec.ofNat 5 (w / 1024 % 32)) (BitVec.ofNat 5 (w / 32 % 32)) (BitVec.ofNat 5 (w % 32))) else none) else none
  | 13 => if true then (if true then some (infoShl (BitVec.ofNat 4 (w / 4194304 % 16)) (BitVec.ofNat 5 (w / 1024 % 32)) (BitVec.ofNat 5 (w / 32 % 32)) (BitVec.ofNat 5 (w % 32))) else none) else none
  | 14 => if true then (if true then some (infoShr (BitVec.ofNat 4 (w / 4194304 % 16)) (BitVec.ofNat 5 (w / 1024 % 32)) (BitVec.ofNat 5 (w / 32 % 32)) (BitVec.ofNat 5 (w % 32))) else none) else none
  | 15 => if true then (if true then some (infoSar (BitVec.ofNat 4 (w / 4194304 % 16)) (BitVec.ofNat 5 (w / 1024 % 32)) (BitVec.ofNat 5 (w / 32 % 32)) (BitVec.ofNat 5 (w % 32))) else none) else none
  | 16 => if true then (if true then some (infoMin (BitVec.ofNat 4 (w / 4194304 % 16)) (BitVec.ofNat 5 (w / 1024 % 32)) (BitVec.ofNat 5 (w / 32 % 32)) (BitVec.ofNat 5 (w % 32))) else none) else none
  | 17 => if true then (if true then some (infoMax (BitVec.ofNat 4 (w / 4194304 % 16)) (BitVec.ofNat 5 (w / 1024 % 32)) (BitVec.ofNat 5 (w / 32 % 32)) (BitVec.ofNat 5 (w % 32))) else none) else none
  | 18 => if true then (if true then some (infoMinn (BitVec.ofNat 4 (w / 4194304 % 16)) (BitVec.ofNat 5 (w / 1024 % 32)) (BitVec.ofNat 5 (w / 32 % 32)) (BitVec.ofNat 5 (w % 32))) else none) else none
  | 19 => if true then (if true then some (infoMaxn (BitVec.ofNat 4 (w / 4194304 % 16)) (BitVec.ofNat 5 (w / 1024 % 32)) (BitVec.ofNat 5 (w / 32 % 32)) (BitVec.ofNat 5 (w % 32))) else none) else none
  | 20 => if w % 32 == 0 then (if true then some (infoClz (BitVec.ofNat 4 (w / 4194304 % 16)) (BitVec.ofNat 5 (w / 1024 % 32)) (BitVec.ofNat 5 (w / 32 % 32))) else none) else none
  | 21 => if w % 32 == 0 then (if true then some (infoCtz (BitVec.ofNat 4 (w / 4194304 % 16)) (BitVec.ofNat 5 (w / 1024 % 32)) (BitVec.ofNat 5 (w / 32 % 32))) else none) else none
  | 22 => if w % 32 == 0 then (if true then some (infoPopc (BitVec.ofNat 4 (w / 4194304 % 16)) (BitVec.ofNat 5 (w / 1024 % 32)) (BitVec.ofNat 5 (w / 32 % 32))) else none) else none
  | 23 => if true then (if true then some (infoRotl (BitVec.ofNat 4 (w / 4194304 % 16)) (BitVec.ofNat 5 (w / 1024 % 32)) (BitVec.ofNat 5 (w / 32 % 32)) (BitVec.ofNat 5 (w % 32))) else none) else none
  | _ => none

def inf01 (w : Nat) : Option Info :=
  match w / 524288 % 8 with
  | 0 => if true then (if true then some (infoAddi (BitVec.ofNat 4 (w / 4194304 % 16)) (BitVec.ofNat 5 (w / 16384 % 32)) (BitVec.ofNat 5 (w / 512 % 32)) (BitVec.ofNat 9 (w % 512))) else none) else none
  | 1 => if true then (if true then some (infoAndi (BitVec.ofNat 4 (w / 4194304 % 16)) (BitVec.ofNat 5 (w / 16384 % 32)) (BitVec.ofNat 5 (w / 512 % 32)) (BitVec.ofNat 9 (w % 512))) else none) else none
  | 2 => if true then (if true then some (infoOri (BitVec.ofNat 4 (w / 4194304 % 16)) (BitVec.ofNat 5 (w / 16384 % 32)) (BitVec.ofNat 5 (w / 512 % 32)) (BitVec.ofNat 9 (w % 512))) else none) else none
  | 3 => if true then (if true then some (infoXori (BitVec.ofNat 4 (w / 4194304 % 16)) (BitVec.ofNat 5 (w / 16384 % 32)) (BitVec.ofNat 5 (w / 512 % 32)) (BitVec.ofNat 9 (w % 512))) else none) else none
  | 4 => if w / 64 % 8 == 0 then (if true then some (infoShli (BitVec.ofNat 4 (w / 4194304 % 16)) (BitVec.ofNat 5 (w / 16384 % 32)) (BitVec.ofNat 5 (w / 512 % 32)) (BitVec.ofNat 6 (w % 64))) else none) else none
  | 5 => if w / 64 % 8 == 0 then (if true then some (infoShri (BitVec.ofNat 4 (w / 4194304 % 16)) (BitVec.ofNat 5 (w / 16384 % 32)) (BitVec.ofNat 5 (w / 512 % 32)) (BitVec.ofNat 6 (w % 64))) else none) else none
  | 6 => if w / 64 % 8 == 0 then (if true then some (infoSari (BitVec.ofNat 4 (w / 4194304 % 16)) (BitVec.ofNat 5 (w / 16384 % 32)) (BitVec.ofNat 5 (w / 512 % 32)) (BitVec.ofNat 6 (w % 64))) else none) else none
  | 7 => if true then (if true then some (infoMuli (BitVec.ofNat 4 (w / 4194304 % 16)) (BitVec.ofNat 5 (w / 16384 % 32)) (BitVec.ofNat 5 (w / 512 % 32)) (BitVec.ofNat 9 (w % 512))) else none) else none
  | _ => none

def inf02 (w : Nat) : Option Info :=
  match w / 1048576 % 4 with
  | 0 => if true then (if true then some (infoLi (BitVec.ofNat 4 (w / 4194304 % 16)) (BitVec.ofNat 5 (w / 32768 % 32)) (BitVec.ofNat 15 (w % 32768))) else none) else none
  | 1 => if true then (if true then some (infoLic (BitVec.ofNat 4 (w / 4194304 % 16)) (BitVec.ofNat 5 (w / 32768 % 32)) (BitVec.ofNat 15 (w % 32768))) else none) else none
  | _ => none

def inf03 (w : Nat) : Option Info :=
  match w / 1024 % 16 with
  | 0 => if w / 16384 % 4 == 0 then (if true then some (infoCmpEq (BitVec.ofNat 4 (w / 4194304 % 16)) (BitVec.ofNat 3 (w / 524288 % 8)) (BitVec.ofNat 3 (w / 65536 % 8)) (BitVec.ofNat 5 (w / 32 % 32)) (BitVec.ofNat 5 (w % 32))) else none) else none
  | 1 => if w / 16384 % 4 == 0 then (if true then some (infoCmpNe (BitVec.ofNat 4 (w / 4194304 % 16)) (BitVec.ofNat 3 (w / 524288 % 8)) (BitVec.ofNat 3 (w / 65536 % 8)) (BitVec.ofNat 5 (w / 32 % 32)) (BitVec.ofNat 5 (w % 32))) else none) else none
  | 2 => if w / 16384 % 4 == 0 then (if true then some (infoCmpLt (BitVec.ofNat 4 (w / 4194304 % 16)) (BitVec.ofNat 3 (w / 524288 % 8)) (BitVec.ofNat 3 (w / 65536 % 8)) (BitVec.ofNat 5 (w / 32 % 32)) (BitVec.ofNat 5 (w % 32))) else none) else none
  | 3 => if w / 16384 % 4 == 0 then (if true then some (infoCmpGe (BitVec.ofNat 4 (w / 4194304 % 16)) (BitVec.ofNat 3 (w / 524288 % 8)) (BitVec.ofNat 3 (w / 65536 % 8)) (BitVec.ofNat 5 (w / 32 % 32)) (BitVec.ofNat 5 (w % 32))) else none) else none
  | 4 => if w / 16384 % 4 == 0 then (if true then some (infoCmpLtn (BitVec.ofNat 4 (w / 4194304 % 16)) (BitVec.ofNat 3 (w / 524288 % 8)) (BitVec.ofNat 3 (w / 65536 % 8)) (BitVec.ofNat 5 (w / 32 % 32)) (BitVec.ofNat 5 (w % 32))) else none) else none
  | 5 => if w / 16384 % 4 == 0 then (if true then some (infoCmpGen (BitVec.ofNat 4 (w / 4194304 % 16)) (BitVec.ofNat 3 (w / 524288 % 8)) (BitVec.ofNat 3 (w / 65536 % 8)) (BitVec.ofNat 5 (w / 32 % 32)) (BitVec.ofNat 5 (w % 32))) else none) else none
  | 6 => if w / 16384 % 4 == 0 then (if true then some (infoCmpTand (BitVec.ofNat 4 (w / 4194304 % 16)) (BitVec.ofNat 3 (w / 524288 % 8)) (BitVec.ofNat 3 (w / 65536 % 8)) (BitVec.ofNat 5 (w / 32 % 32)) (BitVec.ofNat 5 (w % 32))) else none) else none
  | 7 => if w / 16384 % 4 == 0 then (if true then some (infoCmpTnand (BitVec.ofNat 4 (w / 4194304 % 16)) (BitVec.ofNat 3 (w / 524288 % 8)) (BitVec.ofNat 3 (w / 65536 % 8)) (BitVec.ofNat 5 (w / 32 % 32)) (BitVec.ofNat 5 (w % 32))) else none) else none
  | _ => none

def inf04 (w : Nat) : Option Info :=
  match w / 8192 % 8 with
  | 0 => if true then (if true then some (infoCmpiEq (BitVec.ofNat 4 (w / 4194304 % 16)) (BitVec.ofNat 3 (w / 524288 % 8)) (BitVec.ofNat 3 (w / 65536 % 8)) (BitVec.ofNat 5 (w / 256 % 32)) (BitVec.ofNat 8 (w % 256))) else none) else none
  | 1 => if true then (if true then some (infoCmpiNe (BitVec.ofNat 4 (w / 4194304 % 16)) (BitVec.ofNat 3 (w / 524288 % 8)) (BitVec.ofNat 3 (w / 65536 % 8)) (BitVec.ofNat 5 (w / 256 % 32)) (BitVec.ofNat 8 (w % 256))) else none) else none
  | 2 => if true then (if true then some (infoCmpiLt (BitVec.ofNat 4 (w / 4194304 % 16)) (BitVec.ofNat 3 (w / 524288 % 8)) (BitVec.ofNat 3 (w / 65536 % 8)) (BitVec.ofNat 5 (w / 256 % 32)) (BitVec.ofNat 8 (w % 256))) else none) else none
  | 3 => if true then (if true then some (infoCmpiGe (BitVec.ofNat 4 (w / 4194304 % 16)) (BitVec.ofNat 3 (w / 524288 % 8)) (BitVec.ofNat 3 (w / 65536 % 8)) (BitVec.ofNat 5 (w / 256 % 32)) (BitVec.ofNat 8 (w % 256))) else none) else none
  | 4 => if true then (if true then some (infoCmpiLtn (BitVec.ofNat 4 (w / 4194304 % 16)) (BitVec.ofNat 3 (w / 524288 % 8)) (BitVec.ofNat 3 (w / 65536 % 8)) (BitVec.ofNat 5 (w / 256 % 32)) (BitVec.ofNat 8 (w % 256))) else none) else none
  | 5 => if true then (if true then some (infoCmpiGen (BitVec.ofNat 4 (w / 4194304 % 16)) (BitVec.ofNat 3 (w / 524288 % 8)) (BitVec.ofNat 3 (w / 65536 % 8)) (BitVec.ofNat 5 (w / 256 % 32)) (BitVec.ofNat 8 (w % 256))) else none) else none
  | 6 => if w / 64 % 4 == 0 then (if true then some (infoCmpiTbit (BitVec.ofNat 4 (w / 4194304 % 16)) (BitVec.ofNat 3 (w / 524288 % 8)) (BitVec.ofNat 3 (w / 65536 % 8)) (BitVec.ofNat 5 (w / 256 % 32)) (BitVec.ofNat 6 (w % 64))) else none) else none
  | 7 => if w / 64 % 4 == 0 then (if true then some (infoCmpiTnbit (BitVec.ofNat 4 (w / 4194304 % 16)) (BitVec.ofNat 3 (w / 524288 % 8)) (BitVec.ofNat 3 (w / 65536 % 8)) (BitVec.ofNat 5 (w / 256 % 32)) (BitVec.ofNat 6 (w % 64))) else none) else none
  | _ => none

def inf05 (w : Nat) : Option Info :=
  match w / 262144 % 16 with
  | 0 => if w % 32 == 0 then (if true then some (infoAadd (BitVec.ofNat 4 (w / 4194304 % 16)) (BitVec.ofNat 4 (w / 16384 % 16)) (BitVec.ofNat 4 (w / 1024 % 16)) (BitVec.ofNat 5 (w / 32 % 32))) else none) else none
  | 1 => if true then (if true then some (infoAaddi (BitVec.ofNat 4 (w / 4194304 % 16)) (BitVec.ofNat 4 (w / 16384 % 16)) (BitVec.ofNat 4 (w / 1024 % 16)) (BitVec.ofNat 10 (w % 1024))) else none) else none
  | 2 => if w % 32 == 0 then (if true then some (infoAsub (BitVec.ofNat 4 (w / 4194304 % 16)) (BitVec.ofNat 5 (w / 8192 % 32)) (BitVec.ofNat 4 (w / 512 % 16)) (BitVec.ofNat 4 (w / 32 % 16))) else none) else none
  | 3 => if w % 512 == 0 then (if true then some (infoAset (BitVec.ofNat 4 (w / 4194304 % 16)) (BitVec.ofNat 4 (w / 16384 % 16)) (BitVec.ofNat 5 (w / 512 % 32))) else none) else none
  | 4 => if w % 64 == 0 then (if true then some (infoAhi (BitVec.ofNat 4 (w / 4194304 % 16)) (BitVec.ofNat 4 (w / 16384 % 16)) (BitVec.ofNat 8 (w / 64 % 256))) else none) else none
  | 5 => if w % 16 == 0 then (if true then some (infoAalign (BitVec.ofNat 4 (w / 4194304 % 16)) (BitVec.ofNat 4 (w / 16384 % 16)) (BitVec.ofNat 4 (w / 1024 % 16)) (BitVec.ofNat 6 (w / 16 % 64))) else none) else none
  | 6 => if w % 256 == 0 then (if true then some (infoAget (BitVec.ofNat 4 (w / 4194304 % 16)) (BitVec.ofNat 5 (w / 8192 % 32)) (BitVec.ofNat 4 (w / 512 % 16)) (BitVec.ofNat 1 (w / 256 % 2))) else none) else none
  | _ => none

def inf06 (w : Nat) : Option Info :=
  match w / 524288 % 8 with
  | 0 => if true then (if true then some (infoLdI8 (BitVec.ofNat 4 (w / 4194304 % 16)) (BitVec.ofNat 5 (w / 16384 % 32)) (BitVec.ofNat 4 (w / 1024 % 16)) (BitVec.ofNat 5 (w / 32 % 32)) (BitVec.ofNat 5 (w % 32))) else none) else none
  | 1 => if true then (if true then some (infoLdI16 (BitVec.ofNat 4 (w / 4194304 % 16)) (BitVec.ofNat 5 (w / 16384 % 32)) (BitVec.ofNat 4 (w / 1024 % 16)) (BitVec.ofNat 5 (w / 32 % 32)) (BitVec.ofNat 5 (w % 32))) else none) else none
  | 2 => if true then (if true then some (infoLdI32 (BitVec.ofNat 4 (w / 4194304 % 16)) (BitVec.ofNat 5 (w / 16384 % 32)) (BitVec.ofNat 4 (w / 1024 % 16)) (BitVec.ofNat 5 (w / 32 % 32)) (BitVec.ofNat 5 (w % 32))) else none) else none
  | 3 => if true then (if true then some (infoLdD (BitVec.ofNat 4 (w / 4194304 % 16)) (BitVec.ofNat 5 (w / 16384 % 32)) (BitVec.ofNat 4 (w / 1024 % 16)) (BitVec.ofNat 5 (w / 32 % 32)) (BitVec.ofNat 5 (w % 32))) else none) else none
  | 4 => if true then (if true then some (infoLdN8 (BitVec.ofNat 4 (w / 4194304 % 16)) (BitVec.ofNat 5 (w / 16384 % 32)) (BitVec.ofNat 4 (w / 1024 % 16)) (BitVec.ofNat 5 (w / 32 % 32)) (BitVec.ofNat 5 (w % 32))) else none) else none
  | 5 => if true then (if true then some (infoLdN16 (BitVec.ofNat 4 (w / 4194304 % 16)) (BitVec.ofNat 5 (w / 16384 % 32)) (BitVec.ofNat 4 (w / 1024 % 16)) (BitVec.ofNat 5 (w / 32 % 32)) (BitVec.ofNat 5 (w % 32))) else none) else none
  | 6 => if true then (if true then some (infoLdN32 (BitVec.ofNat 4 (w / 4194304 % 16)) (BitVec.ofNat 5 (w / 16384 % 32)) (BitVec.ofNat 4 (w / 1024 % 16)) (BitVec.ofNat 5 (w / 32 % 32)) (BitVec.ofNat 5 (w % 32))) else none) else none
  | _ => none

def inf07 (w : Nat) : Option Info :=
  match w / 524288 % 8 with
  | 0 => if true then (if true then some (infoStB (BitVec.ofNat 4 (w / 4194304 % 16)) (BitVec.ofNat 5 (w / 16384 % 32)) (BitVec.ofNat 4 (w / 1024 % 16)) (BitVec.ofNat 10 (w % 1024))) else none) else none
  | 1 => if true then (if true then some (infoStH (BitVec.ofNat 4 (w / 4194304 % 16)) (BitVec.ofNat 5 (w / 16384 % 32)) (BitVec.ofNat 4 (w / 1024 % 16)) (BitVec.ofNat 10 (w % 1024))) else none) else none
  | 2 => if true then (if true then some (infoStW (BitVec.ofNat 4 (w / 4194304 % 16)) (BitVec.ofNat 5 (w / 16384 % 32)) (BitVec.ofNat 4 (w / 1024 % 16)) (BitVec.ofNat 10 (w % 1024))) else none) else none
  | 3 => if true then (if true then some (infoStD (BitVec.ofNat 4 (w / 4194304 % 16)) (BitVec.ofNat 5 (w / 16384 % 32)) (BitVec.ofNat 4 (w / 1024 % 16)) (BitVec.ofNat 10 (w % 1024))) else none) else none
  | _ => none

def inf08 (w : Nat) : Option Info :=
  match w / 524288 % 8 with
  | 0 => if true then (if ((BitVec.ofNat 4 (w / 64 % 16)) != 7 && ((BitVec.ofNat 1 (w / 32 % 2)) == 0 || (BitVec.ofNat 4 (w / 64 % 16)) == 5 || (BitVec.ofNat 4 (w / 64 % 16)) == 8 || (BitVec.ofNat 4 (w / 64 % 16)) == 12)) then some (infoLdt (BitVec.ofNat 4 (w / 4194304 % 16)) (BitVec.ofNat 5 (w / 16384 % 32)) (BitVec.ofNat 4 (w / 1024 % 16)) (BitVec.ofNat 4 (w / 64 % 16)) (BitVec.ofNat 1 (w / 32 % 2)) (BitVec.ofNat 5 (w % 32))) else none) else none
  | 1 => if w % 4 == 0 then (if ((BitVec.ofNat 4 (w / 64 % 16)) != 7 && ((BitVec.ofNat 1 (w / 32 % 2)) == 0 || (BitVec.ofNat 4 (w / 64 % 16)) == 5 || (BitVec.ofNat 4 (w / 64 % 16)) == 8 || (BitVec.ofNat 4 (w / 64 % 16)) == 12) && (BitVec.ofNat 3 (w / 4 % 8)) != 5 && (BitVec.ofNat 3 (w / 4 % 8)) != 7) then some (infoStt (BitVec.ofNat 4 (w / 4194304 % 16)) (BitVec.ofNat 5 (w / 16384 % 32)) (BitVec.ofNat 4 (w / 1024 % 16)) (BitVec.ofNat 4 (w / 64 % 16)) (BitVec.ofNat 1 (w / 32 % 2)) (BitVec.ofNat 3 (w / 4 % 8))) else none) else none
  | 2 => if w / 32 % 2 == 0 then (if ((BitVec.ofNat 4 (w / 64 % 16)) != 7) then some (infoVldt (BitVec.ofNat 4 (w / 4194304 % 16)) (BitVec.ofNat 5 (w / 16384 % 32)) (BitVec.ofNat 4 (w / 1024 % 16)) (BitVec.ofNat 4 (w / 64 % 16)) (BitVec.ofNat 5 (w % 32))) else none) else none
  | 3 => if w % 4 == 0 && w / 32 % 2 == 0 then (if ((BitVec.ofNat 4 (w / 64 % 16)) != 7 && (BitVec.ofNat 3 (w / 4 % 8)) != 5 && (BitVec.ofNat 3 (w / 4 % 8)) != 7) then some (infoVstt (BitVec.ofNat 4 (w / 4194304 % 16)) (BitVec.ofNat 5 (w / 16384 % 32)) (BitVec.ofNat 4 (w / 1024 % 16)) (BitVec.ofNat 4 (w / 64 % 16)) (BitVec.ofNat 3 (w / 4 % 8))) else none) else none
  | _ => none

def inf09 (w : Nat) : Option Info :=
  match w / 262144 % 16 with
  | 0 => if w % 8 == 0 then (if true then some (infoAmoAdd (BitVec.ofNat 4 (w / 4194304 % 16)) (BitVec.ofNat 5 (w / 8192 % 32)) (BitVec.ofNat 4 (w / 512 % 16)) (BitVec.ofNat 5 (w / 16 % 32)) (BitVec.ofNat 1 (w / 8 % 2))) else none) else none
  | 1 => if w % 8 == 0 then (if true then some (infoAmoAnd (BitVec.ofNat 4 (w / 4194304 % 16)) (BitVec.ofNat 5 (w / 8192 % 32)) (BitVec.ofNat 4 (w / 512 % 16)) (BitVec.ofNat 5 (w / 16 % 32)) (BitVec.ofNat 1 (w / 8 % 2))) else none) else none
  | 2 => if w % 8 == 0 then (if true then some (infoAmoOr (BitVec.ofNat 4 (w / 4194304 % 16)) (BitVec.ofNat 5 (w / 8192 % 32)) (BitVec.ofNat 4 (w / 512 % 16)) (BitVec.ofNat 5 (w / 16 % 32)) (BitVec.ofNat 1 (w / 8 % 2))) else none) else none
  | 3 => if w % 8 == 0 then (if true then some (infoAmoXor (BitVec.ofNat 4 (w / 4194304 % 16)) (BitVec.ofNat 5 (w / 8192 % 32)) (BitVec.ofNat 4 (w / 512 % 16)) (BitVec.ofNat 5 (w / 16 % 32)) (BitVec.ofNat 1 (w / 8 % 2))) else none) else none
  | 4 => if w % 8 == 0 then (if true then some (infoAmoMin (BitVec.ofNat 4 (w / 4194304 % 16)) (BitVec.ofNat 5 (w / 8192 % 32)) (BitVec.ofNat 4 (w / 512 % 16)) (BitVec.ofNat 5 (w / 16 % 32)) (BitVec.ofNat 1 (w / 8 % 2))) else none) else none
  | 5 => if w % 8 == 0 then (if true then some (infoAmoMax (BitVec.ofNat 4 (w / 4194304 % 16)) (BitVec.ofNat 5 (w / 8192 % 32)) (BitVec.ofNat 4 (w / 512 % 16)) (BitVec.ofNat 5 (w / 16 % 32)) (BitVec.ofNat 1 (w / 8 % 2))) else none) else none
  | 6 => if w % 8 == 0 then (if true then some (infoAmoMinn (BitVec.ofNat 4 (w / 4194304 % 16)) (BitVec.ofNat 5 (w / 8192 % 32)) (BitVec.ofNat 4 (w / 512 % 16)) (BitVec.ofNat 5 (w / 16 % 32)) (BitVec.ofNat 1 (w / 8 % 2))) else none) else none
  | 7 => if w % 8 == 0 then (if true then some (infoAmoMaxn (BitVec.ofNat 4 (w / 4194304 % 16)) (BitVec.ofNat 5 (w / 8192 % 32)) (BitVec.ofNat 4 (w / 512 % 16)) (BitVec.ofNat 5 (w / 16 % 32)) (BitVec.ofNat 1 (w / 8 % 2))) else none) else none
  | 8 => if w % 8 == 0 then (if true then some (infoAmoSwap (BitVec.ofNat 4 (w / 4194304 % 16)) (BitVec.ofNat 5 (w / 8192 % 32)) (BitVec.ofNat 4 (w / 512 % 16)) (BitVec.ofNat 5 (w / 16 % 32)) (BitVec.ofNat 1 (w / 8 % 2))) else none) else none
  | 9 => if w % 8 == 0 then (if ((BitVec.ofNat 5 (w / 8192 % 32)) != 31) then some (infoAmoCas (BitVec.ofNat 4 (w / 4194304 % 16)) (BitVec.ofNat 5 (w / 8192 % 32)) (BitVec.ofNat 4 (w / 512 % 16)) (BitVec.ofNat 5 (w / 16 % 32)) (BitVec.ofNat 1 (w / 8 % 2))) else none) else none
  | _ => none

def inf0A (w : Nat) : Option Info :=
  match w / 262144 % 16 with
  | 0 => if w % 65536 == 0 then (if true then some (infoBr (BitVec.ofNat 4 (w / 4194304 % 16)) (BitVec.ofNat 2 (w / 65536 % 4))) else none) else none
  | 1 => if w % 1024 == 0 then (if true then some (infoBrv (BitVec.ofNat 4 (w / 4194304 % 16)) (BitVec.ofNat 2 (w / 65536 % 4)) (BitVec.ofNat 3 (w / 8192 % 8)) (BitVec.ofNat 2 (w / 2048 % 4)) (BitVec.ofNat 1 (w / 1024 % 2))) else none) else none
  | 2 => if true then (if true then some (infoPrep (BitVec.ofNat 4 (w / 4194304 % 16)) (BitVec.ofNat 2 (w / 65536 % 4)) (BitVec.ofNat 16 (w % 65536))) else none) else none
  | 3 => if w % 4096 == 0 then (if true then some (infoPrepa (BitVec.ofNat 4 (w / 4194304 % 16)) (BitVec.ofNat 2 (w / 65536 % 4)) (BitVec.ofNat 4 (w / 4096 % 16))) else none) else none
  | 4 => if w % 4096 == 0 then (if true then some (infoBrl (BitVec.ofNat 4 (w / 4194304 % 16)) (BitVec.ofNat 2 (w / 65536 % 4)) (BitVec.ofNat 4 (w / 4096 % 16))) else none) else none
  | 5 => if w % 32 == 0 then (if ((BitVec.ofNat 3 (w / 2048 % 8)) != 0 && (BitVec.ofNat 3 (w / 2048 % 8)) != 7 && decide ((BitVec.ofNat 6 (w / 32 % 64)).toNat + 5 * (BitVec.ofNat 3 (w / 2048 % 8)).toNat + 1 ≤ 64)) then some (infoLbNest (BitVec.ofNat 4 (w / 4194304 % 16)) (BitVec.ofNat 4 (w / 16384 % 16)) (BitVec.ofNat 3 (w / 2048 % 8)) (BitVec.ofNat 6 (w / 32 % 64))) else none) else none
  | 6 => if w % 262144 == 0 then (if true then some (infoLbExit (BitVec.ofNat 4 (w / 4194304 % 16))) else none) else none
  | _ => none

def inf0B (w : Nat) : Option Info :=
  match w / 131072 % 32 with
  | 0 => if w % 4096 == 0 then (if (decide ((BitVec.ofNat 3 (w / 16384 % 8)) < 6) && (BitVec.ofNat 2 (w / 4096 % 4)) != 3) then some (infoFence (BitVec.ofNat 4 (w / 4194304 % 16)) (BitVec.ofNat 3 (w / 16384 % 8)) (BitVec.ofNat 2 (w / 4096 % 4))) else none) else none
  | 1 => if w % 16 == 0 then (if true then some (infoBind (BitVec.ofNat 4 (w / 4194304 % 16)) (BitVec.ofNat 4 (w / 8192 % 16)) (BitVec.ofNat 5 (w / 256 % 32)) (BitVec.ofNat 4 (w / 16 % 16))) else none) else none
  | 2 => if w % 8192 == 0 then (if true then some (infoUnbind (BitVec.ofNat 4 (w / 4194304 % 16)) (BitVec.ofNat 4 (w / 8192 % 16))) else none) else none
  | 3 => if w % 1024 == 0 then (if (decide ((BitVec.ofNat 3 (w / 16384 % 8)) < 6)) then some (infoAcq (BitVec.ofNat 4 (w / 4194304 % 16)) (BitVec.ofNat 3 (w / 16384 % 8)) (BitVec.ofNat 4 (w / 1024 % 16))) else none) else none
  | 4 => if w % 1024 == 0 then (if (decide ((BitVec.ofNat 3 (w / 16384 % 8)) < 6)) then some (infoRel (BitVec.ofNat 4 (w / 4194304 % 16)) (BitVec.ofNat 3 (w / 16384 % 8)) (BitVec.ofNat 4 (w / 1024 % 16))) else none) else none
  | 5 => if w % 8192 == 0 then (if true then some (infoBwait (BitVec.ofNat 4 (w / 4194304 % 16)) (BitVec.ofNat 4 (w / 8192 % 16))) else none) else none
  | 6 => if w % 256 == 0 then (if true then some (infoBinit (BitVec.ofNat 4 (w / 4194304 % 16)) (BitVec.ofNat 4 (w / 8192 % 16)) (BitVec.ofNat 5 (w / 256 % 32))) else none) else none
  | 7 => if w % 64 == 0 then (if true then some (infoTwAny (BitVec.ofNat 4 (w / 4194304 % 16)) (BitVec.ofNat 1 (w / 65536 % 2)) (BitVec.ofNat 5 (w / 2048 % 32)) (BitVec.ofNat 5 (w / 64 % 32))) else none) else none
  | 8 => if w % 64 == 0 then (if true then some (infoTwAll (BitVec.ofNat 4 (w / 4194304 % 16)) (BitVec.ofNat 1 (w / 65536 % 2)) (BitVec.ofNat 5 (w / 2048 % 32)) (BitVec.ofNat 5 (w / 64 % 32))) else none) else none
  | 9 => if w % 64 == 0 then (if true then some (infoTwFfr (BitVec.ofNat 4 (w / 4194304 % 16)) (BitVec.ofNat 1 (w / 65536 % 2)) (BitVec.ofNat 5 (w / 2048 % 32)) (BitVec.ofNat 5 (w / 64 % 32))) else none) else none
  | 10 => if w % 128 == 0 then (if true then some (infoMwait (BitVec.ofNat 4 (w / 4194304 % 16)) (BitVec.ofNat 1 (w / 65536 % 2)) (BitVec.ofNat 4 (w / 4096 % 16)) (BitVec.ofNat 5 (w / 128 % 32))) else none) else none
  | _ => none

def inf0C (w : Nat) : Option Info :=
  match w / 131072 % 32 with
  | 0 => if w / 65536 % 2 == 0 then (if ((BitVec.ofNat 16 (w % 65536)) != 65535) then some (infoSafe (BitVec.ofNat 4 (w / 4194304 % 16)) (BitVec.ofNat 16 (w % 65536))) else none) else none
  | 1 => if w % 4096 == 0 then (if true then some (infoSuspend (BitVec.ofNat 4 (w / 4194304 % 16)) (BitVec.ofNat 5 (w / 4096 % 32))) else none) else none
  | 2 => if w % 131072 == 0 then (if true then some (infoYield (BitVec.ofNat 4 (w / 4194304 % 16))) else none) else none
  | 3 => if w % 131072 == 0 then (if true then some (infoRetire (BitVec.ofNat 4 (w / 4194304 % 16))) else none) else none
  | 4 => if w / 65536 % 2 == 0 then (if true then some (infoSvc (BitVec.ofNat 4 (w / 4194304 % 16)) (BitVec.ofNat 16 (w % 65536))) else none) else none
  | 5 => if w / 65536 % 2 == 0 then (if true then some (infoBrk (BitVec.ofNat 4 (w / 4194304 % 16)) (BitVec.ofNat 16 (w % 65536))) else none) else none
  | 6 => if true then (if true then some (infoSysrd (BitVec.ofNat 4 (w / 4194304 % 16)) (BitVec.ofNat 5 (w / 4096 % 32)) (BitVec.ofNat 12 (w % 4096))) else none) else none
  | 7 => if true then (if true then some (infoSyswr (BitVec.ofNat 4 (w / 4194304 % 16)) (BitVec.ofNat 5 (w / 4096 % 32)) (BitVec.ofNat 12 (w % 4096))) else none) else none
  | 8 => if w % 8 == 0 then (if true then some (infoRfe (BitVec.ofNat 4 (w / 4194304 % 16)) (BitVec.ofNat 4 (w / 8192 % 16)) (BitVec.ofNat 5 (w / 256 % 32)) (BitVec.ofNat 5 (w / 8 % 32))) else none) else none
  | 9 => if w % 4096 == 0 then (if true then some (infoQlock (BitVec.ofNat 4 (w / 4194304 % 16)) (BitVec.ofNat 5 (w / 4096 % 32))) else none) else none
  | 10 => if w % 131072 == 0 then (if true then some (infoQfree (BitVec.ofNat 4 (w / 4194304 % 16))) else none) else none
  | 11 => if w % 128 == 0 then (if (decide ((BitVec.ofNat 3 (w / 16384 % 8)) < 6) && ((BitVec.ofNat 1 (w / 8192 % 2)) == 1 || (BitVec.ofNat 2 (w / 2048 % 4)) == 0)) then some (infoArv (BitVec.ofNat 4 (w / 4194304 % 16)) (BitVec.ofNat 3 (w / 16384 % 8)) (BitVec.ofNat 1 (w / 8192 % 2)) (BitVec.ofNat 2 (w / 2048 % 4)) (BitVec.ofNat 4 (w / 128 % 16))) else none) else none
  | _ => none

def inf0D (w : Nat) : Option Info :=
  match w / 65536 % 64 with
  | 0 => if w % 4 == 0 then (if true then some (infoVld (BitVec.ofNat 1 (w / 33554432 % 2)) (BitVec.ofNat 3 (w / 4194304 % 8)) (BitVec.ofNat 5 (w / 2048 % 32)) (BitVec.ofNat 4 (w / 128 % 16)) (BitVec.ofNat 5 (w / 4 % 32))) else none) else none
  | 1 => if true then (if true then some (infoVlds (BitVec.ofNat 1 (w / 33554432 % 2)) (BitVec.ofNat 3 (w / 4194304 % 8)) (BitVec.ofNat 5 (w / 2048 % 32)) (BitVec.ofNat 4 (w / 128 % 16)) (BitVec.ofNat 5 (w / 4 % 32)) (BitVec.ofNat 2 (w % 4))) else none) else none
  | 2 => if w % 4 == 0 then (if true then some (infoVldx (BitVec.ofNat 1 (w / 33554432 % 2)) (BitVec.ofNat 3 (w / 4194304 % 8)) (BitVec.ofNat 5 (w / 2048 % 32)) (BitVec.ofNat 4 (w / 128 % 16)) (BitVec.ofNat 5 (w / 4 % 32))) else none) else none
  | 3 => if w % 4 == 0 then (if true then some (infoVldb (BitVec.ofNat 1 (w / 33554432 % 2)) (BitVec.ofNat 3 (w / 4194304 % 8)) (BitVec.ofNat 5 (w / 2048 % 32)) (BitVec.ofNat 4 (w / 128 % 16)) (BitVec.ofNat 5 (w / 4 % 32))) else none) else none
  | _ => none

def inf0E (w : Nat) : Option Info :=
  match w / 65536 % 64 with
  | 0 => if w % 128 == 0 && w / 33554432 % 2 == 0 then (if true then some (infoVst (BitVec.ofNat 3 (w / 4194304 % 8)) (BitVec.ofNat 5 (w / 2048 % 32)) (BitVec.ofNat 4 (w / 128 % 16))) else none) else none
  | 1 => if w % 32 == 0 && w / 33554432 % 2 == 0 then (if true then some (infoVsts (BitVec.ofNat 3 (w / 4194304 % 8)) (BitVec.ofNat 5 (w / 2048 % 32)) (BitVec.ofNat 4 (w / 128 % 16)) (BitVec.ofNat 2 (w / 32 % 4))) else none) else none
  | 2 => if w % 4 == 0 && w / 33554432 % 2 == 0 then (if true then some (infoVstx (BitVec.ofNat 3 (w / 4194304 % 8)) (BitVec.ofNat 5 (w / 2048 % 32)) (BitVec.ofNat 4 (w / 128 % 16)) (BitVec.ofNat 5 (w / 4 % 32))) else none) else none
  | _ => none

def inf0F (w : Nat) : Option Info :=
  match w / 65536 % 64 with
  | 0 => if true then (if true then some (infoVadd (BitVec.ofNat 1 (w / 33554432 % 2)) (BitVec.ofNat 3 (w / 4194304 % 8)) (BitVec.ofNat 5 (w / 2048 % 32)) (BitVec.ofNat 5 (w / 64 % 32)) (BitVec.ofNat 5 (w / 2 % 32)) (BitVec.ofNat 1 (w % 2))) else none) else none
  | 1 => if true then (if true then some (infoVsub (BitVec.ofNat 1 (w / 33554432 % 2)) (BitVec.ofNat 3 (w / 4194304 % 8)) (BitVec.ofNat 5 (w / 2048 % 32)) (BitVec.ofNat 5 (w / 64 % 32)) (BitVec.ofNat 5 (w / 2 % 32)) (BitVec.ofNat 1 (w % 2))) else none) else none
  | 2 => if true then (if true then some (infoVmul (BitVec.ofNat 1 (w / 33554432 % 2)) (BitVec.ofNat 3 (w / 4194304 % 8)) (BitVec.ofNat 5 (w / 2048 % 32)) (BitVec.ofNat 5 (w / 64 % 32)) (BitVec.ofNat 5 (w / 2 % 32)) (BitVec.ofNat 1 (w % 2))) else none) else none
  | 3 => if true then (if true then some (infoVmulh (BitVec.ofNat 1 (w / 33554432 % 2)) (BitVec.ofNat 3 (w / 4194304 % 8)) (BitVec.ofNat 5 (w / 2048 % 32)) (BitVec.ofNat 5 (w / 64 % 32)) (BitVec.ofNat 5 (w / 2 % 32)) (BitVec.ofNat 1 (w % 2))) else none) else none
  | 4 => if true then (if true then some (infoVand (BitVec.ofNat 1 (w / 33554432 % 2)) (BitVec.ofNat 3 (w / 4194304 % 8)) (BitVec.ofNat 5 (w / 2048 % 32)) (BitVec.ofNat 5 (w / 64 % 32)) (BitVec.ofNat 5 (w / 2 % 32)) (BitVec.ofNat 1 (w % 2))) else none) else none
  | 5 => if true then (if true then some (infoVor (BitVec.ofNat 1 (w / 33554432 % 2)) (BitVec.ofNat 3 (w / 4194304 % 8)) (BitVec.ofNat 5 (w / 2048 % 32)) (BitVec.ofNat 5 (w / 64 % 32)) (BitVec.ofNat 5 (w / 2 % 32)) (BitVec.ofNat 1 (w % 2))) else none) else none
  | 6 => if true then (if true then some (infoVxor (BitVec.ofNat 1 (w / 33554432 % 2)) (BitVec.ofNat 3 (w / 4194304 % 8)) (BitVec.ofNat 5 (w / 2048 % 32)) (BitVec.ofNat 5 (w / 64 % 32)) (BitVec.ofNat 5 (w / 2 % 32)) (BitVec.ofNat 1 (w % 2))) else none) else none
  | 7 => if true then (if true then some (infoVshl (BitVec.ofNat 1 (w / 33554432 % 2)) (BitVec.ofNat 3 (w / 4194304 % 8)) (BitVec.ofNat 5 (w / 2048 % 32)) (BitVec.ofNat 5 (w / 64 % 32)) (BitVec.ofNat 5 (w / 2 % 32)) (BitVec.ofNat 1 (w % 2))) else none) else none
  | 8 => if true then (if true then some (infoVshr (BitVec.ofNat 1 (w / 33554432 % 2)) (BitVec.ofNat 3 (w / 4194304 % 8)) (BitVec.ofNat 5 (w / 2048 % 32)) (BitVec.ofNat 5 (w / 64 % 32)) (BitVec.ofNat 5 (w / 2 % 32)) (BitVec.ofNat 1 (w % 2))) else none) else none
  | 9 => if true then (if true then some (infoVsar (BitVec.ofNat 1 (w / 33554432 % 2)) (BitVec.ofNat 3 (w / 4194304 % 8)) (BitVec.ofNat 5 (w / 2048 % 32)) (BitVec.ofNat 5 (w / 64 % 32)) (BitVec.ofNat 5 (w / 2 % 32)) (BitVec.ofNat 1 (w % 2))) else none) else none
  | 10 => if true then (if true then some (infoVmin (BitVec.ofNat 1 (w / 33554432 % 2)) (BitVec.ofNat 3 (w / 4194304 % 8)) (BitVec.ofNat 5 (w / 2048 % 32)) (BitVec.ofNat 5 (w / 64 % 32)) (BitVec.ofNat 5 (w / 2 % 32)) (BitVec.ofNat 1 (w % 2))) else none) else none
  | 11 => if true then (if true then some (infoVmax (BitVec.ofNat 1 (w / 33554432 % 2)) (BitVec.ofNat 3 (w / 4194304 % 8)) (BitVec.ofNat 5 (w / 2048 % 32)) (BitVec.ofNat 5 (w / 64 % 32)) (BitVec.ofNat 5 (w / 2 % 32)) (BitVec.ofNat 1 (w % 2))) else none) else none
  | 12 => if true then (if true then some (infoVadds (BitVec.ofNat 1 (w / 33554432 % 2)) (BitVec.ofNat 3 (w / 4194304 % 8)) (BitVec.ofNat 5 (w / 2048 % 32)) (BitVec.ofNat 5 (w / 64 % 32)) (BitVec.ofNat 5 (w / 2 % 32)) (BitVec.ofNat 1 (w % 2))) else none) else none
  | 13 => if true then (if true then some (infoVsubs (BitVec.ofNat 1 (w / 33554432 % 2)) (BitVec.ofNat 3 (w / 4194304 % 8)) (BitVec.ofNat 5 (w / 2048 % 32)) (BitVec.ofNat 5 (w / 64 % 32)) (BitVec.ofNat 5 (w / 2 % 32)) (BitVec.ofNat 1 (w % 2))) else none) else none
  | 14 => if w % 64 == 0 then (if true then some (infoVabs (BitVec.ofNat 1 (w / 33554432 % 2)) (BitVec.ofNat 3 (w / 4194304 % 8)) (BitVec.ofNat 5 (w / 2048 % 32)) (BitVec.ofNat 5 (w / 64 % 32))) else none) else none
  | 15 => if true then (if true then some (infoVmadw (BitVec.ofNat 1 (w / 33554432 % 2)) (BitVec.ofNat 3 (w / 4194304 % 8)) (BitVec.ofNat 5 (w / 2048 % 32)) (BitVec.ofNat 5 (w / 64 % 32)) (BitVec.ofNat 5 (w / 2 % 32)) (BitVec.ofNat 1 (w % 2))) else none) else none
  | _ => none

def inf10 (w : Nat) : Option Info :=
  match w / 65536 % 64 with
  | 0 => if true then (if true then some (infoVfadd (BitVec.ofNat 1 (w / 33554432 % 2)) (BitVec.ofNat 3 (w / 4194304 % 8)) (BitVec.ofNat 5 (w / 2048 % 32)) (BitVec.ofNat 5 (w / 64 % 32)) (BitVec.ofNat 5 (w / 2 % 32)) (BitVec.ofNat 1 (w % 2))) else none) else none
  | 1 => if true then (if true then some (infoVfsub (BitVec.ofNat 1 (w / 33554432 % 2)) (BitVec.ofNat 3 (w / 4194304 % 8)) (BitVec.ofNat 5 (w / 2048 % 32)) (BitVec.ofNat 5 (w / 64 % 32)) (BitVec.ofNat 5 (w / 2 % 32)) (BitVec.ofNat 1 (w % 2))) else none) else none
  | 2 => if true then (if true then some (infoVfmul (BitVec.ofNat 1 (w / 33554432 % 2)) (BitVec.ofNat 3 (w / 4194304 % 8)) (BitVec.ofNat 5 (w / 2048 % 32)) (BitVec.ofNat 5 (w / 64 % 32)) (BitVec.ofNat 5 (w / 2 % 32)) (BitVec.ofNat 1 (w % 2))) else none) else none
  | 3 => if true then (if true then some (infoVfma (BitVec.ofNat 1 (w / 33554432 % 2)) (BitVec.ofNat 3 (w / 4194304 % 8)) (BitVec.ofNat 5 (w / 2048 % 32)) (BitVec.ofNat 5 (w / 64 % 32)) (BitVec.ofNat 5 (w / 2 % 32)) (BitVec.ofNat 1 (w % 2))) else none) else none
  | 4 => if true then (if true then some (infoVfms (BitVec.ofNat 1 (w / 33554432 % 2)) (BitVec.ofNat 3 (w / 4194304 % 8)) (BitVec.ofNat 5 (w / 2048 % 32)) (BitVec.ofNat 5 (w / 64 % 32)) (BitVec.ofNat 5 (w / 2 % 32)) (BitVec.ofNat 1 (w % 2))) else none) else none
  | 5 => if true then (if true then some (infoVfnma (BitVec.ofNat 1 (w / 33554432 % 2)) (BitVec.ofNat 3 (w / 4194304 % 8)) (BitVec.ofNat 5 (w / 2048 % 32)) (BitVec.ofNat 5 (w / 64 % 32)) (BitVec.ofNat 5 (w / 2 % 32)) (BitVec.ofNat 1 (w % 2))) else none) else none
  | 6 => if true then (if true then some (infoVfmin (BitVec.ofNat 1 (w / 33554432 % 2)) (BitVec.ofNat 3 (w / 4194304 % 8)) (BitVec.ofNat 5 (w / 2048 % 32)) (BitVec.ofNat 5 (w / 64 % 32)) (BitVec.ofNat 5 (w / 2 % 32)) (BitVec.ofNat 1 (w % 2))) else none) else none
  | 7 => if true then (if true then some (infoVfmax (BitVec.ofNat 1 (w / 33554432 % 2)) (BitVec.ofNat 3 (w / 4194304 % 8)) (BitVec.ofNat 5 (w / 2048 % 32)) (BitVec.ofNat 5 (w / 64 % 32)) (BitVec.ofNat 5 (w / 2 % 32)) (BitVec.ofNat 1 (w % 2))) else none) else none
  | 8 => if w % 64 == 0 then (if true then some (infoVfabs (BitVec.ofNat 1 (w / 33554432 % 2)) (BitVec.ofNat 3 (w / 4194304 % 8)) (BitVec.ofNat 5 (w / 2048 % 32)) (BitVec.ofNat 5 (w / 64 % 32))) else none) else none
  | 9 => if w % 64 == 0 then (if true then some (infoVfneg (BitVec.ofNat 1 (w / 33554432 % 2)) (BitVec.ofNat 3 (w / 4194304 % 8)) (BitVec.ofNat 5 (w / 2048 % 32)) (BitVec.ofNat 5 (w / 64 % 32))) else none) else none
  | _ => none

def inf11 (w : Nat) : Option Info :=
  match w / 65536 % 64 with
  | 0 => match w / 2 % 4 with
    | 0 => if true then (if true then some (infoVcmpEq (BitVec.ofNat 1 (w / 33554432 % 2)) (BitVec.ofNat 3 (w / 4194304 % 8)) (BitVec.ofNat 3 (w / 8192 % 8)) (BitVec.ofNat 5 (w / 256 % 32)) (BitVec.ofNat 5 (w / 8 % 32)) (BitVec.ofNat 1 (w % 2))) else none) else none
    | 1 => if true then (if true then some (infoVcmpNe (BitVec.ofNat 1 (w / 33554432 % 2)) (BitVec.ofNat 3 (w / 4194304 % 8)) (BitVec.ofNat 3 (w / 8192 % 8)) (BitVec.ofNat 5 (w / 256 % 32)) (BitVec.ofNat 5 (w / 8 % 32)) (BitVec.ofNat 1 (w % 2))) else none) else none
    | 2 => if true then (if true then some (infoVcmpLt (BitVec.ofNat 1 (w / 33554432 % 2)) (BitVec.ofNat 3 (w / 4194304 % 8)) (BitVec.ofNat 3 (w / 8192 % 8)) (BitVec.ofNat 5 (w / 256 % 32)) (BitVec.ofNat 5 (w / 8 % 32)) (BitVec.ofNat 1 (w % 2))) else none) else none
    | 3 => if true then (if true then some (infoVcmpGe (BitVec.ofNat 1 (w / 33554432 % 2)) (BitVec.ofNat 3 (w / 4194304 % 8)) (BitVec.ofNat 3 (w / 8192 % 8)) (BitVec.ofNat 5 (w / 256 % 32)) (BitVec.ofNat 5 (w / 8 % 32)) (BitVec.ofNat 1 (w % 2))) else none) else none
    | _ => none
  | 1 => match w / 2 % 4 with
    | 0 => if true then (if true then some (infoVfcmpEq (BitVec.ofNat 1 (w / 33554432 % 2)) (BitVec.ofNat 3 (w / 4194304 % 8)) (BitVec.ofNat 3 (w / 8192 % 8)) (BitVec.ofNat 5 (w / 256 % 32)) (BitVec.ofNat 5 (w / 8 % 32)) (BitVec.ofNat 1 (w % 2))) else none) else none
    | 1 => if true then (if true then some (infoVfcmpNe (BitVec.ofNat 1 (w / 33554432 % 2)) (BitVec.ofNat 3 (w / 4194304 % 8)) (BitVec.ofNat 3 (w / 8192 % 8)) (BitVec.ofNat 5 (w / 256 % 32)) (BitVec.ofNat 5 (w / 8 % 32)) (BitVec.ofNat 1 (w % 2))) else none) else none
    | 2 => if true then (if true then some (infoVfcmpLt (BitVec.ofNat 1 (w / 33554432 % 2)) (BitVec.ofNat 3 (w / 4194304 % 8)) (BitVec.ofNat 3 (w / 8192 % 8)) (BitVec.ofNat 5 (w / 256 % 32)) (BitVec.ofNat 5 (w / 8 % 32)) (BitVec.ofNat 1 (w % 2))) else none) else none
    | 3 => if true then (if true then some (infoVfcmpGe (BitVec.ofNat 1 (w / 33554432 % 2)) (BitVec.ofNat 3 (w / 4194304 % 8)) (BitVec.ofNat 3 (w / 8192 % 8)) (BitVec.ofNat 5 (w / 256 % 32)) (BitVec.ofNat 5 (w / 8 % 32)) (BitVec.ofNat 1 (w % 2))) else none) else none
    | _ => none
  | 2 => if w / 33554432 % 2 == 0 then (if true then some (infoVsel (BitVec.ofNat 3 (w / 4194304 % 8)) (BitVec.ofNat 5 (w / 2048 % 32)) (BitVec.ofNat 5 (w / 64 % 32)) (BitVec.ofNat 5 (w / 2 % 32)) (BitVec.ofNat 1 (w % 2))) else none) else none
  | 3 => if w % 128 == 0 && w / 4194304 % 16 == 0 then (if true then some (infoMand (BitVec.ofNat 3 (w / 8192 % 8)) (BitVec.ofNat 3 (w / 1024 % 8)) (BitVec.ofNat 3 (w / 128 % 8))) else none) else none
  | 4 => if w % 128 == 0 && w / 4194304 % 16 == 0 then (if true then some (infoMor (BitVec.ofNat 3 (w / 8192 % 8)) (BitVec.ofNat 3 (w / 1024 % 8)) (BitVec.ofNat 3 (w / 128 % 8))) else none) else none
  | 5 => if w % 128 == 0 && w / 4194304 % 16 == 0 then (if true then some (infoMxor (BitVec.ofNat 3 (w / 8192 % 8)) (BitVec.ofNat 3 (w / 1024 % 8)) (BitVec.ofNat 3 (w / 128 % 8))) else none) else none
  | 6 => if w % 1024 == 0 && w / 4194304 % 16 == 0 then (if true then some (infoMnot (BitVec.ofNat 3 (w / 8192 % 8)) (BitVec.ofNat 3 (w / 1024 % 8))) else none) else none
  | 7 => if w % 256 == 0 && w / 4194304 % 16 == 0 then (if true then some (infoMcnt (BitVec.ofNat 5 (w / 2048 % 32)) (BitVec.ofNat 3 (w / 256 % 8))) else none) else none
  | 8 => if w % 256 == 0 && w / 4194304 % 16 == 0 then (if true then some (infoMffs (BitVec.ofNat 5 (w / 2048 % 32)) (BitVec.ofNat 3 (w / 256 % 8))) else none) else none
  | _ => none

def inf12 (w : Nat) : Option Info :=
  match w / 65536 % 64 with
  | 0 => if w % 64 == 0 then (if true then some (infoVcvt (BitVec.ofNat 1 (w / 33554432 % 2)) (BitVec.ofNat 3 (w / 4194304 % 8)) (BitVec.ofNat 5 (w / 2048 % 32)) (BitVec.ofNat 5 (w / 64 % 32))) else none) else none
  | 1 => if w % 64 == 0 then (if true then some (infoVcvtw (BitVec.ofNat 1 (w / 33554432 % 2)) (BitVec.ofNat 3 (w / 4194304 % 8)) (BitVec.ofNat 5 (w / 2048 % 32)) (BitVec.ofNat 5 (w / 64 % 32))) else none) else none
  | 2 => if w % 64 == 0 then (if true then some (infoVcvtn (BitVec.ofNat 1 (w / 33554432 % 2)) (BitVec.ofNat 3 (w / 4194304 % 8)) (BitVec.ofNat 5 (w / 2048 % 32)) (BitVec.ofNat 5 (w / 64 % 32))) else none) else none
  | _ => none

def inf13 (w : Nat) : Option Info :=
  match w / 65536 % 64 with
  | 0 => if true then (if true then some (infoVperm (BitVec.ofNat 1 (w / 33554432 % 2)) (BitVec.ofNat 3 (w / 4194304 % 8)) (BitVec.ofNat 5 (w / 2048 % 32)) (BitVec.ofNat 5 (w / 64 % 32)) (BitVec.ofNat 5 (w / 2 % 32)) (BitVec.ofNat 1 (w % 2))) else none) else none
  | 1 => if w % 2 == 0 then (if true then some (infoVslide (BitVec.ofNat 1 (w / 33554432 % 2)) (BitVec.ofNat 3 (w / 4194304 % 8)) (BitVec.ofNat 5 (w / 2048 % 32)) (BitVec.ofNat 5 (w / 64 % 32)) (BitVec.ofNat 5 (w / 2 % 32))) else none) else none
  | 2 => if w % 64 == 0 then (if true then some (infoVredsum (BitVec.ofNat 1 (w / 33554432 % 2)) (BitVec.ofNat 3 (w / 4194304 % 8)) (BitVec.ofNat 5 (w / 2048 % 32)) (BitVec.ofNat 5 (w / 64 % 32))) else none) else none
  | 3 => if w % 64 == 0 then (if true then some (infoVfredsum (BitVec.ofNat 1 (w / 33554432 % 2)) (BitVec.ofNat 3 (w / 4194304 % 8)) (BitVec.ofNat 5 (w / 2048 % 32)) (BitVec.ofNat 5 (w / 64 % 32))) else none) else none
  | 4 => if w % 64 == 0 then (if true then some (infoVredmax (BitVec.ofNat 1 (w / 33554432 % 2)) (BitVec.ofNat 3 (w / 4194304 % 8)) (BitVec.ofNat 5 (w / 2048 % 32)) (BitVec.ofNat 5 (w / 64 % 32))) else none) else none
  | 5 => if w % 64 == 0 then (if true then some (infoVredmin (BitVec.ofNat 1 (w / 33554432 % 2)) (BitVec.ofNat 3 (w / 4194304 % 8)) (BitVec.ofNat 5 (w / 2048 % 32)) (BitVec.ofNat 5 (w / 64 % 32))) else none) else none
  | 6 => if w % 2 == 0 && w / 4194304 % 16 == 0 then (if true then some (infoVext (BitVec.ofNat 5 (w / 2048 % 32)) (BitVec.ofNat 5 (w / 64 % 32)) (BitVec.ofNat 5 (w / 2 % 32))) else none) else none
  | 7 => if w % 2 == 0 && w / 4194304 % 16 == 0 then (if true then some (infoVins (BitVec.ofNat 5 (w / 2048 % 32)) (BitVec.ofNat 5 (w / 64 % 32)) (BitVec.ofNat 5 (w / 2 % 32))) else none) else none
  | 8 => if w % 64 == 0 then (if true then some (infoVbcast (BitVec.ofNat 1 (w / 33554432 % 2)) (BitVec.ofNat 3 (w / 4194304 % 8)) (BitVec.ofNat 5 (w / 2048 % 32)) (BitVec.ofNat 5 (w / 64 % 32))) else none) else none
  | _ => none

def inf14 (w : Nat) : Option Info :=
  match w / 65536 % 64 with
  | 0 => if w % 64 == 0 then (if true then some (infoVrcp (BitVec.ofNat 1 (w / 33554432 % 2)) (BitVec.ofNat 3 (w / 4194304 % 8)) (BitVec.ofNat 5 (w / 2048 % 32)) (BitVec.ofNat 5 (w / 64 % 32))) else none) else none
  | 1 => if w % 64 == 0 then (if true then some (infoVrsqrt (BitVec.ofNat 1 (w / 33554432 % 2)) (BitVec.ofNat 3 (w / 4194304 % 8)) (BitVec.ofNat 5 (w / 2048 % 32)) (BitVec.ofNat 5 (w / 64 % 32))) else none) else none
  | 2 => if w % 64 == 0 then (if true then some (infoVsqrt (BitVec.ofNat 1 (w / 33554432 % 2)) (BitVec.ofNat 3 (w / 4194304 % 8)) (BitVec.ofNat 5 (w / 2048 % 32)) (BitVec.ofNat 5 (w / 64 % 32))) else none) else none
  | 3 => if w % 64 == 0 then (if true then some (infoVexp2 (BitVec.ofNat 1 (w / 33554432 % 2)) (BitVec.ofNat 3 (w / 4194304 % 8)) (BitVec.ofNat 5 (w / 2048 % 32)) (BitVec.ofNat 5 (w / 64 % 32))) else none) else none
  | 4 => if w % 64 == 0 then (if true then some (infoVlog2 (BitVec.ofNat 1 (w / 33554432 % 2)) (BitVec.ofNat 3 (w / 4194304 % 8)) (BitVec.ofNat 5 (w / 2048 % 32)) (BitVec.ofNat 5 (w / 64 % 32))) else none) else none
  | 5 => if w % 2 == 1 then (if true then some (infoVclipq (BitVec.ofNat 1 (w / 33554432 % 2)) (BitVec.ofNat 3 (w / 4194304 % 8)) (BitVec.ofNat 5 (w / 2048 % 32)) (BitVec.ofNat 5 (w / 64 % 32)) (BitVec.ofNat 5 (w / 2 % 32))) else none) else none
  | 6 => if w % 2 == 1 then (if true then some (infoVnormq (BitVec.ofNat 1 (w / 33554432 % 2)) (BitVec.ofNat 3 (w / 4194304 % 8)) (BitVec.ofNat 5 (w / 2048 % 32)) (BitVec.ofNat 5 (w / 64 % 32)) (BitVec.ofNat 5 (w / 2 % 32))) else none) else none
  | _ => none

def inf15 (w : Nat) : Option Info :=
  match w / 65536 % 64 with
  | 0 => if w % 65536 == 0 && w / 4194304 % 16 == 0 then (if true then some infoVrot else none) else none
  | 1 => if w % 2048 == 0 && w / 4194304 % 16 == 0 then (if true then some (infoStgset (BitVec.ofNat 5 (w / 2048 % 32))) else none) else none
  | 2 => if w % 2048 == 0 && w / 4194304 % 16 == 0 then (if true then some (infoStgshift (BitVec.ofNat 5 (w / 2048 % 32))) else none) else none
  | _ => none

def inf16 (w : Nat) : Option Info :=
  match w / 131072 % 32 with
  | 0 => if w % 1024 == 0 then (if true then some (infoBnLd (BitVec.ofNat 4 (w / 4194304 % 16)) (BitVec.ofNat 4 (w / 8192 % 16)) (BitVec.ofNat 3 (w / 1024 % 8))) else none) else none
  | 1 => if w % 16 == 0 && w / 128 % 2 == 0 then (if true then some (infoBnRt (BitVec.ofNat 4 (w / 4194304 % 16)) (BitVec.ofNat 5 (w / 4096 % 32)) (BitVec.ofNat 4 (w / 256 % 16)) (BitVec.ofNat 3 (w / 16 % 8))) else none) else none
  | 2 => if w % 16 == 0 && w / 128 % 2 == 0 then (if true then some (infoBnRto (BitVec.ofNat 4 (w / 4194304 % 16)) (BitVec.ofNat 5 (w / 4096 % 32)) (BitVec.ofNat 4 (w / 256 % 16)) (BitVec.ofNat 3 (w / 16 % 8))) else none) else none
  | 3 => if w / 256 % 512 == 0 then (if true then some (infoBnInv (BitVec.ofNat 4 (w / 4194304 % 16)) (BitVec.ofNat 8 (w % 256))) else none) else none
  | 4 => if w % 16 == 0 && w / 128 % 32 == 0 then (if true then some (infoBnRd (BitVec.ofNat 4 (w / 4194304 % 16)) (BitVec.ofNat 5 (w / 4096 % 32)) (BitVec.ofNat 3 (w / 16 % 8))) else none) else none
  | _ => none

def inf17 (w : Nat) : Option Info :=
  match w / 131072 % 32 with
  | 0 => if w % 256 == 0 then (if true then some (infoSkInit (BitVec.ofNat 4 (w / 4194304 % 16)) (BitVec.ofNat 4 (w / 8192 % 16)) (BitVec.ofNat 5 (w / 256 % 32))) else none) else none
  | 1 => if w % 8 == 0 then (if true then some (infoSkQadd (BitVec.ofNat 4 (w / 4194304 % 16)) (BitVec.ofNat 4 (w / 8192 % 16)) (BitVec.ofNat 5 (w / 256 % 32)) (BitVec.ofNat 5 (w / 8 % 32))) else none) else none
  | 2 => if w % 8 == 0 then (if true then some (infoSkHadd (BitVec.ofNat 4 (w / 4194304 % 16)) (BitVec.ofNat 4 (w / 8192 % 16)) (BitVec.ofNat 5 (w / 256 % 32)) (BitVec.ofNat 5 (w / 8 % 32))) else none) else none
  | 3 => if w % 8 == 0 then (if true then some (infoSkDadd (BitVec.ofNat 4 (w / 4194304 % 16)) (BitVec.ofNat 4 (w / 8192 % 16)) (BitVec.ofNat 5 (w / 256 % 32)) (BitVec.ofNat 5 (w / 8 % 32))) else none) else none
  | 4 => if w % 512 == 0 then (if true then some (infoSkMerge (BitVec.ofNat 4 (w / 4194304 % 16)) (BitVec.ofNat 4 (w / 8192 % 16)) (BitVec.ofNat 4 (w / 512 % 16))) else none) else none
  | 5 => if w % 256 == 0 then (if true then some (infoSkCompact (BitVec.ofNat 4 (w / 4194304 % 16)) (BitVec.ofNat 4 (w / 8192 % 16)) (BitVec.ofNat 5 (w / 256 % 32))) else none) else none
  | 6 => if w % 8 == 0 then (if true then some (infoSkQuant (BitVec.ofNat 4 (w / 4194304 % 16)) (BitVec.ofNat 4 (w / 8192 % 16)) (BitVec.ofNat 5 (w / 256 % 32)) (BitVec.ofNat 5 (w / 8 % 32))) else none) else none
  | 7 => if w % 8 == 0 then (if true then some (infoSkRank (BitVec.ofNat 4 (w / 4194304 % 16)) (BitVec.ofNat 4 (w / 8192 % 16)) (BitVec.ofNat 5 (w / 256 % 32)) (BitVec.ofNat 5 (w / 8 % 32))) else none) else none
  | 8 => if w % 8 == 0 then (if true then some (infoSkTop (BitVec.ofNat 4 (w / 4194304 % 16)) (BitVec.ofNat 4 (w / 8192 % 16)) (BitVec.ofNat 5 (w / 256 % 32)) (BitVec.ofNat 5 (w / 8 % 32))) else none) else none
  | 9 => if w % 256 == 0 then (if true then some (infoSkCard (BitVec.ofNat 4 (w / 4194304 % 16)) (BitVec.ofNat 4 (w / 8192 % 16)) (BitVec.ofNat 5 (w / 256 % 32))) else none) else none
  | 10 => if w % 8192 == 0 then (if true then some (infoSkSeal (BitVec.ofNat 4 (w / 4194304 % 16)) (BitVec.ofNat 4 (w / 8192 % 16))) else none) else none
  | 11 => if w % 256 == 0 then (if true then some (infoSkChk (BitVec.ofNat 4 (w / 4194304 % 16)) (BitVec.ofNat 4 (w / 8192 % 16)) (BitVec.ofNat 5 (w / 256 % 32))) else none) else none
  | _ => none

def inf18 (w : Nat) : Option Info :=
  match w / 512 % 256 with
  | 0 => if w / 1048576 % 2 == 0 then (if (scopeOk (BitVec.ofNat 1 (w / 2097152 % 2)) 0 (BitVec.ofNat 3 (w / 131072 % 8))) then some (infoMxMma (BitVec.ofNat 4 (w / 4194304 % 16)) (BitVec.ofNat 1 (w / 2097152 % 2)) (BitVec.ofNat 3 (w / 131072 % 8)) (BitVec.ofNat 4 (w / 32 % 16)) (BitVec.ofNat 5 (w % 32))) else none) else none
  | 1 => if w / 131072 % 32 == 0 then (if true then some (infoMxProm (BitVec.ofNat 4 (w / 4194304 % 16)) (BitVec.ofNat 4 (w / 32 % 16)) (BitVec.ofNat 5 (w % 32))) else none) else none
  | 2 => if w / 131072 % 32 == 0 then (if true then some (infoMxProme (BitVec.ofNat 4 (w / 4194304 % 16)) (BitVec.ofNat 4 (w / 32 % 16)) (BitVec.ofNat 5 (w % 32))) else none) else none
  | 3 => if w / 32 % 16 == 0 && w / 131072 % 32 == 0 then (if true then some (infoMxZero (BitVec.ofNat 4 (w / 4194304 % 16)) (BitVec.ofNat 5 (w % 32))) else none) else none
  | 4 => if w / 1048576 % 2 == 0 then (if (scopeOk (BitVec.ofNat 1 (w / 2097152 % 2)) 0 (BitVec.ofNat 3 (w / 131072 % 8))) then some (infoMxZld (BitVec.ofNat 4 (w / 4194304 % 16)) (BitVec.ofNat 1 (w / 2097152 % 2)) (BitVec.ofNat 3 (w / 131072 % 8)) (BitVec.ofNat 4 (w / 32 % 16)) (BitVec.ofNat 5 (w % 32))) else none) else none
  | 5 => if w / 2097152 % 2 == 0 then (if (scopeOk 0 (BitVec.ofNat 1 (w / 1048576 % 2)) (BitVec.ofNat 3 (w / 131072 % 8))) then some (infoMxZst (BitVec.ofNat 4 (w / 4194304 % 16)) (BitVec.ofNat 1 (w / 1048576 % 2)) (BitVec.ofNat 3 (w / 131072 % 8)) (BitVec.ofNat 4 (w / 32 % 16)) (BitVec.ofNat 5 (w % 32))) else none) else none
  | 6 => if w / 2097152 % 2 == 0 then (if (scopeOk 0 (BitVec.ofNat 1 (w / 1048576 % 2)) (BitVec.ofNat 3 (w / 131072 % 8))) then some (infoMxZcvt (BitVec.ofNat 4 (w / 4194304 % 16)) (BitVec.ofNat 1 (w / 1048576 % 2)) (BitVec.ofNat 3 (w / 131072 % 8)) (BitVec.ofNat 4 (w / 32 % 16)) (BitVec.ofNat 5 (w % 32))) else none) else none
  | 7 => if w / 32 % 16 == 0 && w / 131072 % 32 == 0 then (if true then some (infoMxZadd (BitVec.ofNat 4 (w / 4194304 % 16)) (BitVec.ofNat 5 (w % 32))) else none) else none
  | 8 => if w / 32 % 16 == 0 && w / 131072 % 32 == 0 then (if true then some (infoMxScl (BitVec.ofNat 4 (w / 4194304 % 16)) (BitVec.ofNat 5 (w % 32))) else none) else none
  | 9 => if w / 32 % 16 == 0 && w / 131072 % 32 == 0 then (if true then some (infoMxWsel (BitVec.ofNat 4 (w / 4194304 % 16)) (BitVec.ofNat 5 (w % 32))) else none) else none
  | 10 => if w / 32 % 16 == 0 && w / 131072 % 32 == 0 then (if true then some (infoMxWake (BitVec.ofNat 4 (w / 4194304 % 16)) (BitVec.ofNat 5 (w % 32))) else none) else none
  | 11 => if w / 32 % 16 == 0 && w / 131072 % 32 == 0 then (if true then some (infoMxGate (BitVec.ofNat 4 (w / 4194304 % 16)) (BitVec.ofNat 5 (w % 32))) else none) else none
  | 12 => if true then (if (scopeOk (BitVec.ofNat 1 (w / 2097152 % 2)) (BitVec.ofNat 1 (w / 1048576 % 2)) (BitVec.ofNat 3 (w / 131072 % 8))) then some (infoMxTask (BitVec.ofNat 4 (w / 4194304 % 16)) (BitVec.ofNat 1 (w / 2097152 % 2)) (BitVec.ofNat 1 (w / 1048576 % 2)) (BitVec.ofNat 3 (w / 131072 % 8)) (BitVec.ofNat 4 (w / 32 % 16)) (BitVec.ofNat 5 (w % 32))) else none) else none
  | 13 => if w / 131072 % 32 == 0 then (if true then some (infoMxTstat (BitVec.ofNat 4 (w / 4194304 % 16)) (BitVec.ofNat 4 (w / 32 % 16)) (BitVec.ofNat 5 (w % 32))) else none) else none
  | 14 => if w / 131072 % 32 == 0 then (if true then some (infoMxTkill (BitVec.ofNat 4 (w / 4194304 % 16)) (BitVec.ofNat 4 (w / 32 % 16)) (BitVec.ofNat 5 (w % 32))) else none) else none
  | 15 => if w / 32 % 16 == 0 && w / 131072 % 32 == 0 then (if true then some (infoMxQsplit (BitVec.ofNat 4 (w / 4194304 % 16)) (BitVec.ofNat 5 (w % 32))) else none) else none
  | 16 => if w % 512 == 0 && w / 2097152 % 2 == 0 then (if (scopeOk 0 (BitVec.ofNat 1 (w / 1048576 % 2)) (BitVec.ofNat 3 (w / 131072 % 8))) then some (infoMxFence (BitVec.ofNat 4 (w / 4194304 % 16)) (BitVec.ofNat 1 (w / 1048576 % 2)) (BitVec.ofNat 3 (w / 131072 % 8))) else none) else none
  | 17 => if w / 524288 % 8 == 0 then (if true then some (infoMxCfg (BitVec.ofNat 4 (w / 4194304 % 16)) (BitVec.ofNat 2 (w / 131072 % 4)) (BitVec.ofNat 4 (w / 32 % 16)) (BitVec.ofNat 5 (w % 32))) else none) else none
  | _ => none

def inf19 (w : Nat) : Option Info :=
  match w / 512 % 256 with
  | 0 => if true then (if (scopeOk (BitVec.ofNat 1 (w / 2097152 % 2)) (BitVec.ofNat 1 (w / 1048576 % 2)) (BitVec.ofNat 3 (w / 131072 % 8))) then some (infoCpCopy (BitVec.ofNat 4 (w / 4194304 % 16)) (BitVec.ofNat 1 (w / 2097152 % 2)) (BitVec.ofNat 1 (w / 1048576 % 2)) (BitVec.ofNat 3 (w / 131072 % 8)) (BitVec.ofNat 4 (w / 32 % 16)) (BitVec.ofNat 5 (w % 32))) else none) else none
  | 1 => if true then (if (scopeOk (BitVec.ofNat 1 (w / 2097152 % 2)) (BitVec.ofNat 1 (w / 1048576 % 2)) (BitVec.ofNat 3 (w / 131072 % 8))) then some (infoCpLdt (BitVec.ofNat 4 (w / 4194304 % 16)) (BitVec.ofNat 1 (w / 2097152 % 2)) (BitVec.ofNat 1 (w / 1048576 % 2)) (BitVec.ofNat 3 (w / 131072 % 8)) (BitVec.ofNat 4 (w / 32 % 16)) (BitVec.ofNat 5 (w % 32))) else none) else none
  | 2 => if true then (if (scopeOk (BitVec.ofNat 1 (w / 2097152 % 2)) (BitVec.ofNat 1 (w / 1048576 % 2)) (BitVec.ofNat 3 (w / 131072 % 8))) then some (infoCpStt (BitVec.ofNat 4 (w / 4194304 % 16)) (BitVec.ofNat 1 (w / 2097152 % 2)) (BitVec.ofNat 1 (w / 1048576 % 2)) (BitVec.ofNat 3 (w / 131072 % 8)) (BitVec.ofNat 4 (w / 32 % 16)) (BitVec.ofNat 5 (w % 32))) else none) else none
  | 3 => if w / 1048576 % 2 == 0 then (if (scopeOk (BitVec.ofNat 1 (w / 2097152 % 2)) 0 (BitVec.ofNat 3 (w / 131072 % 8))) then some (infoCpFill (BitVec.ofNat 4 (w / 4194304 % 16)) (BitVec.ofNat 1 (w / 2097152 % 2)) (BitVec.ofNat 3 (w / 131072 % 8)) (BitVec.ofNat 4 (w / 32 % 16)) (BitVec.ofNat 5 (w % 32))) else none) else none
  | 4 => if w / 131072 % 32 == 0 then (if true then some (infoCpMap (BitVec.ofNat 4 (w / 4194304 % 16)) (BitVec.ofNat 4 (w / 32 % 16)) (BitVec.ofNat 5 (w % 32))) else none) else none
  | 5 => if w / 32 % 16 == 0 && w / 2097152 % 2 == 0 then (if (scopeOk 0 (BitVec.ofNat 1 (w / 1048576 % 2)) (BitVec.ofNat 3 (w / 131072 % 8))) then some (infoCpUnmap (BitVec.ofNat 4 (w / 4194304 % 16)) (BitVec.ofNat 1 (w / 1048576 % 2)) (BitVec.ofNat 3 (w / 131072 % 8)) (BitVec.ofNat 5 (w % 32))) else none) else none
  | 6 => if true then (if (scopeOk (BitVec.ofNat 1 (w / 2097152 % 2)) (BitVec.ofNat 1 (w / 1048576 % 2)) (BitVec.ofNat 3 (w / 131072 % 8))) then some (infoCpFlush (BitVec.ofNat 4 (w / 4194304 % 16)) (BitVec.ofNat 1 (w / 2097152 % 2)) (BitVec.ofNat 1 (w / 1048576 % 2)) (BitVec.ofNat 3 (w / 131072 % 8)) (BitVec.ofNat 4 (w / 32 % 16)) (BitVec.ofNat 5 (w % 32))) else none) else none
  | 7 => if true then (if (scopeOk (BitVec.ofNat 1 (w / 2097152 % 2)) (BitVec.ofNat 1 (w / 1048576 % 2)) (BitVec.ofNat 3 (w / 131072 % 8))) then some (infoCpInval (BitVec.ofNat 4 (w / 4194304 % 16)) (BitVec.ofNat 1 (w / 2097152 % 2)) (BitVec.ofNat 1 (w / 1048576 % 2)) (BitVec.ofNat 3 (w / 131072 % 8)) (BitVec.ofNat 4 (w / 32 % 16)) (BitVec.ofNat 5 (w % 32))) else none) else none
  | 8 => if w / 1048576 % 2 == 0 then (if (scopeOk (BitVec.ofNat 1 (w / 2097152 % 2)) 0 (BitVec.ofNat 3 (w / 131072 % 8))) then some (infoCpWfill (BitVec.ofNat 4 (w / 4194304 % 16)) (BitVec.ofNat 1 (w / 2097152 % 2)) (BitVec.ofNat 3 (w / 131072 % 8)) (BitVec.ofNat 4 (w / 32 % 16)) (BitVec.ofNat 5 (w % 32))) else none) else none
  | 9 => if w / 1048576 % 2 == 0 then (if (scopeOk (BitVec.ofNat 1 (w / 2097152 % 2)) 0 (BitVec.ofNat 3 (w / 131072 % 8))) then some (infoCpOvl (BitVec.ofNat 4 (w / 4194304 % 16)) (BitVec.ofNat 1 (w / 2097152 % 2)) (BitVec.ofNat 3 (w / 131072 % 8)) (BitVec.ofNat 4 (w / 32 % 16)) (BitVec.ofNat 5 (w % 32))) else none) else none
  | 10 => if true then (if (scopeOk (BitVec.ofNat 1 (w / 2097152 % 2)) (BitVec.ofNat 1 (w / 1048576 % 2)) (BitVec.ofNat 3 (w / 131072 % 8))) then some (infoCpSpill (BitVec.ofNat 4 (w / 4194304 % 16)) (BitVec.ofNat 1 (w / 2097152 % 2)) (BitVec.ofNat 1 (w / 1048576 % 2)) (BitVec.ofNat 3 (w / 131072 % 8)) (BitVec.ofNat 4 (w / 32 % 16)) (BitVec.ofNat 5 (w % 32))) else none) else none
  | 11 => if true then (if (scopeOk (BitVec.ofNat 1 (w / 2097152 % 2)) (BitVec.ofNat 1 (w / 1048576 % 2)) (BitVec.ofNat 3 (w / 131072 % 8))) then some (infoCpUnspill (BitVec.ofNat 4 (w / 4194304 % 16)) (BitVec.ofNat 1 (w / 2097152 % 2)) (BitVec.ofNat 1 (w / 1048576 % 2)) (BitVec.ofNat 3 (w / 131072 % 8)) (BitVec.ofNat 4 (w / 32 % 16)) (BitVec.ofNat 5 (w % 32))) else none) else none
  | 12 => if w / 2097152 % 2 == 0 then (if (scopeOk 0 (BitVec.ofNat 1 (w / 1048576 % 2)) (BitVec.ofNat 3 (w / 131072 % 8))) then some (infoCpBcnt (BitVec.ofNat 4 (w / 4194304 % 16)) (BitVec.ofNat 1 (w / 1048576 % 2)) (BitVec.ofNat 3 (w / 131072 % 8)) (BitVec.ofNat 4 (w / 32 % 16)) (BitVec.ofNat 5 (w % 32))) else none) else none
  | 13 => if w / 32 % 16 == 0 && w / 131072 % 32 == 0 then (if true then some (infoCpTclr (BitVec.ofNat 4 (w / 4194304 % 16)) (BitVec.ofNat 5 (w % 32))) else none) else none
  | _ => none

def inf1A (w : Nat) : Option Info :=
  match w / 512 % 256 with
  | 0 => if w / 131072 % 32 == 0 then (if true then some (infoClTmk (BitVec.ofNat 4 (w / 4194304 % 16)) (BitVec.ofNat 4 (w / 32 % 16)) (BitVec.ofNat 5 (w % 32))) else none) else none
  | 1 => if w / 32 % 16 == 0 && w / 131072 % 32 == 0 then (if true then some (infoClTfree (BitVec.ofNat 4 (w / 4194304 % 16)) (BitVec.ofNat 5 (w % 32))) else none) else none
  | 2 => if true then (if (scopeOk (BitVec.ofNat 1 (w / 2097152 % 2)) (BitVec.ofNat 1 (w / 1048576 % 2)) (BitVec.ofNat 3 (w / 131072 % 8))) then some (infoClPost (BitVec.ofNat 4 (w / 4194304 % 16)) (BitVec.ofNat 1 (w / 2097152 % 2)) (BitVec.ofNat 1 (w / 1048576 % 2)) (BitVec.ofNat 3 (w / 131072 % 8)) (BitVec.ofNat 4 (w / 32 % 16)) (BitVec.ofNat 5 (w % 32))) else none) else none
  | 3 => if true then (if (scopeOk (BitVec.ofNat 1 (w / 2097152 % 2)) (BitVec.ofNat 1 (w / 1048576 % 2)) (BitVec.ofNat 3 (w / 131072 % 8))) then some (infoClTake (BitVec.ofNat 4 (w / 4194304 % 16)) (BitVec.ofNat 1 (w / 2097152 % 2)) (BitVec.ofNat 1 (w / 1048576 % 2)) (BitVec.ofNat 3 (w / 131072 % 8)) (BitVec.ofNat 4 (w / 32 % 16)) (BitVec.ofNat 5 (w % 32))) else none) else none
  | 4 => if w / 32 % 16 == 0 && w / 131072 % 32 == 0 then (if true then some (infoClFrz (BitVec.ofNat 4 (w / 4194304 % 16)) (BitVec.ofNat 5 (w % 32))) else none) else none
  | 5 => if w / 32 % 16 == 0 && w / 131072 % 32 == 0 then (if true then some (infoClThaw (BitVec.ofNat 4 (w / 4194304 % 16)) (BitVec.ofNat 5 (w % 32))) else none) else none
  | 6 => if w / 131072 % 32 == 0 then (if true then some (infoClSave (BitVec.ofNat 4 (w / 4194304 % 16)) (BitVec.ofNat 4 (w / 32 % 16)) (BitVec.ofNat 5 (w % 32))) else none) else none
  | 7 => if w / 131072 % 32 == 0 then (if true then some (infoClRst (BitVec.ofNat 4 (w / 4194304 % 16)) (BitVec.ofNat 4 (w / 32 % 16)) (BitVec.ofNat 5 (w % 32))) else none) else none
  | 8 => if w / 32 % 16 == 0 && w / 131072 % 32 == 0 then (if true then some (infoClEditRemove (BitVec.ofNat 4 (w / 4194304 % 16)) (BitVec.ofNat 5 (w % 32))) else none) else none
  | 9 => if true then (if (scopeOk (BitVec.ofNat 1 (w / 2097152 % 2)) (BitVec.ofNat 1 (w / 1048576 % 2)) (BitVec.ofNat 3 (w / 131072 % 8))) then some (infoClReshard (BitVec.ofNat 4 (w / 4194304 % 16)) (BitVec.ofNat 1 (w / 2097152 % 2)) (BitVec.ofNat 1 (w / 1048576 % 2)) (BitVec.ofNat 3 (w / 131072 % 8)) (BitVec.ofNat 4 (w / 32 % 16)) (BitVec.ofNat 5 (w % 32))) else none) else none
  | 10 => if w / 32 % 16 == 0 && w / 131072 % 32 == 0 then (if true then some (infoClQuery (BitVec.ofNat 4 (w / 4194304 % 16)) (BitVec.ofNat 5 (w % 32))) else none) else none
  | 11 => if true then (if (scopeOk (BitVec.ofNat 1 (w / 2097152 % 2)) (BitVec.ofNat 1 (w / 1048576 % 2)) (BitVec.ofNat 3 (w / 131072 % 8))) then some (infoClMcast (BitVec.ofNat 4 (w / 4194304 % 16)) (BitVec.ofNat 1 (w / 2097152 % 2)) (BitVec.ofNat 1 (w / 1048576 % 2)) (BitVec.ofNat 3 (w / 131072 % 8)) (BitVec.ofNat 4 (w / 32 % 16)) (BitVec.ofNat 5 (w % 32))) else none) else none
  | 12 => if true then (if (scopeOk (BitVec.ofNat 1 (w / 2097152 % 2)) (BitVec.ofNat 1 (w / 1048576 % 2)) (BitVec.ofNat 3 (w / 131072 % 8))) then some (infoClBar (BitVec.ofNat 4 (w / 4194304 % 16)) (BitVec.ofNat 1 (w / 2097152 % 2)) (BitVec.ofNat 1 (w / 1048576 % 2)) (BitVec.ofNat 3 (w / 131072 % 8)) (BitVec.ofNat 4 (w / 32 % 16)) (BitVec.ofNat 5 (w % 32))) else none) else none
  | 13 => if w / 32 % 16 == 0 && w / 131072 % 32 == 0 then (if true then some (infoClAbort (BitVec.ofNat 4 (w / 4194304 % 16)) (BitVec.ofNat 5 (w % 32))) else none) else none
  | _ => none

def inf1B (w : Nat) : Option Info :=
  match w / 512 % 256 with
  | 0 => if w / 131072 % 32 == 0 then (if true then some (infoEvSend (BitVec.ofNat 4 (w / 4194304 % 16)) (BitVec.ofNat 4 (w / 32 % 16)) (BitVec.ofNat 5 (w % 32))) else none) else none
  | 1 => if w / 131072 % 32 == 0 then (if true then some (infoEvRecv (BitVec.ofNat 4 (w / 4194304 % 16)) (BitVec.ofNat 4 (w / 32 % 16)) (BitVec.ofNat 5 (w % 32))) else none) else none
  | 2 => if w / 131072 % 32 == 0 then (if true then some (infoEvGather (BitVec.ofNat 4 (w / 4194304 % 16)) (BitVec.ofNat 4 (w / 32 % 16)) (BitVec.ofNat 5 (w % 32))) else none) else none
  | 3 => if w / 32 % 16 == 0 && w / 131072 % 32 == 0 then (if true then some (infoEvOpen (BitVec.ofNat 4 (w / 4194304 % 16)) (BitVec.ofNat 5 (w % 32))) else none) else none
  | 4 => if w / 32 % 16 == 0 && w / 131072 % 32 == 0 then (if true then some (infoEvClose (BitVec.ofNat 4 (w / 4194304 % 16)) (BitVec.ofNat 5 (w % 32))) else none) else none
  | _ => none

def inf1C (w : Nat) : Option Info :=
  match w / 512 % 256 with
  | 0 => if w / 2097152 % 2 == 0 then (if (scopeOk 0 (BitVec.ofNat 1 (w / 1048576 % 2)) (BitVec.ofNat 3 (w / 131072 % 8))) then some (infoDsLaunch (BitVec.ofNat 4 (w / 4194304 % 16)) (BitVec.ofNat 1 (w / 1048576 % 2)) (BitVec.ofNat 3 (w / 131072 % 8)) (BitVec.ofNat 4 (w / 32 % 16)) (BitVec.ofNat 5 (w % 32))) else none) else none
  | 1 => if w / 2097152 % 2 == 0 then (if (scopeOk 0 (BitVec.ofNat 1 (w / 1048576 % 2)) (BitVec.ofNat 3 (w / 131072 % 8))) then some (infoDsLaunchW (BitVec.ofNat 4 (w / 4194304 % 16)) (BitVec.ofNat 1 (w / 1048576 % 2)) (BitVec.ofNat 3 (w / 131072 % 8)) (BitVec.ofNat 4 (w / 32 % 16)) (BitVec.ofNat 5 (w % 32))) else none) else none
  | 2 => if w / 2097152 % 2 == 0 then (if (scopeOk 0 (BitVec.ofNat 1 (w / 1048576 % 2)) (BitVec.ofNat 3 (w / 131072 % 8))) then some (infoDsQpush (BitVec.ofNat 4 (w / 4194304 % 16)) (BitVec.ofNat 1 (w / 1048576 % 2)) (BitVec.ofNat 3 (w / 131072 % 8)) (BitVec.ofNat 4 (w / 32 % 16)) (BitVec.ofNat 5 (w % 32))) else none) else none
  | 3 => if w / 1048576 % 2 == 0 then (if (scopeOk (BitVec.ofNat 1 (w / 2097152 % 2)) 0 (BitVec.ofNat 3 (w / 131072 % 8))) then some (infoDsQpop (BitVec.ofNat 4 (w / 4194304 % 16)) (BitVec.ofNat 1 (w / 2097152 % 2)) (BitVec.ofNat 3 (w / 131072 % 8)) (BitVec.ofNat 4 (w / 32 % 16)) (BitVec.ofNat 5 (w % 32))) else none) else none
  | 4 => match w / 131072 % 8 with
    | 0 => if w / 1048576 % 4 == 0 then (if true then some (infoDsCondSet (BitVec.ofNat 4 (w / 4194304 % 16)) (BitVec.ofNat 4 (w / 32 % 16)) (BitVec.ofNat 5 (w % 32))) else none) else none
    | 1 => if w / 1048576 % 4 == 0 then (if true then some (infoDsCondAdd (BitVec.ofNat 4 (w / 4194304 % 16)) (BitVec.ofNat 4 (w / 32 % 16)) (BitVec.ofNat 5 (w % 32))) else none) else none
    | 2 => if w / 1048576 % 4 == 0 then (if true then some (infoDsCondOr (BitVec.ofNat 4 (w / 4194304 % 16)) (BitVec.ofNat 4 (w / 32 % 16)) (BitVec.ofNat 5 (w % 32))) else none) else none
    | 3 => if w / 1048576 % 4 == 0 then (if true then some (infoDsCondAnd (BitVec.ofNat 4 (w / 4194304 % 16)) (BitVec.ofNat 4 (w / 32 % 16)) (BitVec.ofNat 5 (w % 32))) else none) else none
    | _ => none
  | 5 => if w / 131072 % 32 == 0 then (if true then some (infoDsGstart (BitVec.ofNat 4 (w / 4194304 % 16)) (BitVec.ofNat 4 (w / 32 % 16)) (BitVec.ofNat 5 (w % 32))) else none) else none
  | 6 => if w / 131072 % 32 == 0 then (if true then some (infoDsGstop (BitVec.ofNat 4 (w / 4194304 % 16)) (BitVec.ofNat 4 (w / 32 % 16)) (BitVec.ofNat 5 (w % 32))) else none) else none
  | 7 => if w / 131072 % 32 == 0 then (if true then some (infoDsWake (BitVec.ofNat 4 (w / 4194304 % 16)) (BitVec.ofNat 4 (w / 32 % 16)) (BitVec.ofNat 5 (w % 32))) else none) else none
  | 8 => if w / 131072 % 32 == 0 then (if true then some (infoDsPrio (BitVec.ofNat 4 (w / 4194304 % 16)) (BitVec.ofNat 4 (w / 32 % 16)) (BitVec.ofNat 5 (w % 32))) else none) else none
  | 9 => if w / 32 % 16 == 0 && w / 131072 % 32 == 0 then (if true then some (infoDsQuery (BitVec.ofNat 4 (w / 4194304 % 16)) (BitVec.ofNat 5 (w % 32))) else none) else none
  | _ => none

def inf1D (w : Nat) : Option Info :=
  match w / 512 % 256 with
  | 0 => if w / 524288 % 8 == 0 then (if true then some (infoTlInv (BitVec.ofNat 4 (w / 4194304 % 16)) (BitVec.ofNat 2 (w / 131072 % 4)) (BitVec.ofNat 4 (w / 32 % 16)) (BitVec.ofNat 5 (w % 32))) else none) else none
  | 1 => if w / 32 % 16 == 0 && w / 524288 % 8 == 0 then (if true then some (infoTlInva (BitVec.ofNat 4 (w / 4194304 % 16)) (BitVec.ofNat 2 (w / 131072 % 4)) (BitVec.ofNat 5 (w % 32))) else none) else none
  | 2 => if w / 131072 % 32 == 0 then (if true then some (infoTlProbe (BitVec.ofNat 4 (w / 4194304 % 16)) (BitVec.ofNat 4 (w / 32 % 16)) (BitVec.ofNat 5 (w % 32))) else none) else none
  | 3 => if w / 131072 % 32 == 0 then (if true then some (infoTlRoot (BitVec.ofNat 4 (w / 4194304 % 16)) (BitVec.ofNat 4 (w / 32 % 16)) (BitVec.ofNat 5 (w % 32))) else none) else none
  | 4 => if w / 131072 % 32 == 0 then (if true then some (infoTlHash (BitVec.ofNat 4 (w / 4194304 % 16)) (BitVec.ofNat 4 (w / 32 % 16)) (BitVec.ofNat 5 (w % 32))) else none) else none
  | 5 => if w / 131072 % 32 == 0 then (if true then some (infoTlDlog (BitVec.ofNat 4 (w / 4194304 % 16)) (BitVec.ofNat 4 (w / 32 % 16)) (BitVec.ofNat 5 (w % 32))) else none) else none
  | 16 => if w / 32 % 16 == 0 && w / 131072 % 32 == 0 then (if true then some (infoPtQuiesce (BitVec.ofNat 4 (w / 4194304 % 16)) (BitVec.ofNat 5 (w % 32))) else none) else none
  | 17 => if w / 131072 % 32 == 0 then (if true then some (infoPtLayout (BitVec.ofNat 4 (w / 4194304 % 16)) (BitVec.ofNat 4 (w / 32 % 16)) (BitVec.ofNat 5 (w % 32))) else none) else none
  | 18 => if w / 131072 % 32 == 0 then (if true then some (infoPtVfsetAssign (BitVec.ofNat 4 (w / 4194304 % 16)) (BitVec.ofNat 4 (w / 32 % 16)) (BitVec.ofNat 5 (w % 32))) else none) else none
  | 19 => if w / 32 % 16 == 0 && w / 131072 % 32 == 0 then (if true then some (infoPtWays (BitVec.ofNat 4 (w / 4194304 % 16)) (BitVec.ofNat 5 (w % 32))) else none) else none
  | 20 => if w / 131072 % 32 == 0 then (if true then some (infoPtMove (BitVec.ofNat 4 (w / 4194304 % 16)) (BitVec.ofNat 4 (w / 32 % 16)) (BitVec.ofNat 5 (w % 32))) else none) else none
  | 21 => if w / 32 % 16 == 0 && w / 131072 % 32 == 0 then (if true then some (infoPtFlr (BitVec.ofNat 4 (w / 4194304 % 16)) (BitVec.ofNat 5 (w % 32))) else none) else none
  | 32 => if w / 32 % 16 == 0 && w / 131072 % 32 == 0 then (if true then some (infoGtLset (BitVec.ofNat 4 (w / 4194304 % 16)) (BitVec.ofNat 5 (w % 32))) else none) else none
  | 33 => if w / 131072 % 32 == 0 then (if true then some (infoGtParty (BitVec.ofNat 4 (w / 4194304 % 16)) (BitVec.ofNat 4 (w / 32 % 16)) (BitVec.ofNat 5 (w % 32))) else none) else none
  | 34 => if w / 131072 % 32 == 0 then (if true then some (infoGtReleaseInstall (BitVec.ofNat 4 (w / 4194304 % 16)) (BitVec.ofNat 4 (w / 32 % 16)) (BitVec.ofNat 5 (w % 32))) else none) else none
  | _ => none

theorem run00_eq (w : Nat) (s : State) : ranBy s (decode00 w) = run00 w s := by
  unfold decode00 run00
  generalize w / 32768 % 128 = k0
  first | contradiction | exact ranBy_accept .. | rfl | (split <;> first | contradiction | exact ranBy_accept .. | rfl | (split <;> first | contradiction | exact ranBy_accept .. | rfl))

theorem inf00_eq (w : Nat) : knownBy (decode00 w) = inf00 w := by
  unfold decode00 inf00
  generalize w / 32768 % 128 = k0
  first | contradiction | exact knownBy_accept .. | rfl | (split <;> first | contradiction | exact knownBy_accept .. | rfl | (split <;> first | contradiction | exact knownBy_accept .. | rfl))

theorem run01_eq (w : Nat) (s : State) : ranBy s (decode01 w) = run01 w s := by
  unfold decode01 run01
  generalize w / 524288 % 8 = k0
  first | contradiction | exact ranBy_accept .. | rfl | (split <;> first | contradiction | exact ranBy_accept .. | rfl | (split <;> first | contradiction | exact ranBy_accept .. | rfl))

theorem inf01_eq (w : Nat) : knownBy (decode01 w) = inf01 w := by
  unfold decode01 inf01
  generalize w / 524288 % 8 = k0
  first | contradiction | exact knownBy_accept .. | rfl | (split <;> first | contradiction | exact knownBy_accept .. | rfl | (split <;> first | contradiction | exact knownBy_accept .. | rfl))

theorem run02_eq (w : Nat) (s : State) : ranBy s (decode02 w) = run02 w s := by
  unfold decode02 run02
  generalize w / 1048576 % 4 = k0
  first | contradiction | exact ranBy_accept .. | rfl | (split <;> first | contradiction | exact ranBy_accept .. | rfl | (split <;> first | contradiction | exact ranBy_accept .. | rfl))

theorem inf02_eq (w : Nat) : knownBy (decode02 w) = inf02 w := by
  unfold decode02 inf02
  generalize w / 1048576 % 4 = k0
  first | contradiction | exact knownBy_accept .. | rfl | (split <;> first | contradiction | exact knownBy_accept .. | rfl | (split <;> first | contradiction | exact knownBy_accept .. | rfl))

theorem run03_eq (w : Nat) (s : State) : ranBy s (decode03 w) = run03 w s := by
  unfold decode03 run03
  generalize w / 1024 % 16 = k0
  first | contradiction | exact ranBy_accept .. | rfl | (split <;> first | contradiction | exact ranBy_accept .. | rfl | (split <;> first | contradiction | exact ranBy_accept .. | rfl))

theorem inf03_eq (w : Nat) : knownBy (decode03 w) = inf03 w := by
  unfold decode03 inf03
  generalize w / 1024 % 16 = k0
  first | contradiction | exact knownBy_accept .. | rfl | (split <;> first | contradiction | exact knownBy_accept .. | rfl | (split <;> first | contradiction | exact knownBy_accept .. | rfl))

theorem run04_eq (w : Nat) (s : State) : ranBy s (decode04 w) = run04 w s := by
  unfold decode04 run04
  generalize w / 8192 % 8 = k0
  first | contradiction | exact ranBy_accept .. | rfl | (split <;> first | contradiction | exact ranBy_accept .. | rfl | (split <;> first | contradiction | exact ranBy_accept .. | rfl))

theorem inf04_eq (w : Nat) : knownBy (decode04 w) = inf04 w := by
  unfold decode04 inf04
  generalize w / 8192 % 8 = k0
  first | contradiction | exact knownBy_accept .. | rfl | (split <;> first | contradiction | exact knownBy_accept .. | rfl | (split <;> first | contradiction | exact knownBy_accept .. | rfl))

theorem run05_eq (w : Nat) (s : State) : ranBy s (decode05 w) = run05 w s := by
  unfold decode05 run05
  generalize w / 262144 % 16 = k0
  first | contradiction | exact ranBy_accept .. | rfl | (split <;> first | contradiction | exact ranBy_accept .. | rfl | (split <;> first | contradiction | exact ranBy_accept .. | rfl))

theorem inf05_eq (w : Nat) : knownBy (decode05 w) = inf05 w := by
  unfold decode05 inf05
  generalize w / 262144 % 16 = k0
  first | contradiction | exact knownBy_accept .. | rfl | (split <;> first | contradiction | exact knownBy_accept .. | rfl | (split <;> first | contradiction | exact knownBy_accept .. | rfl))

theorem run06_eq (w : Nat) (s : State) : ranBy s (decode06 w) = run06 w s := by
  unfold decode06 run06
  generalize w / 524288 % 8 = k0
  first | contradiction | exact ranBy_accept .. | rfl | (split <;> first | contradiction | exact ranBy_accept .. | rfl | (split <;> first | contradiction | exact ranBy_accept .. | rfl))

theorem inf06_eq (w : Nat) : knownBy (decode06 w) = inf06 w := by
  unfold decode06 inf06
  generalize w / 524288 % 8 = k0
  first | contradiction | exact knownBy_accept .. | rfl | (split <;> first | contradiction | exact knownBy_accept .. | rfl | (split <;> first | contradiction | exact knownBy_accept .. | rfl))

theorem run07_eq (w : Nat) (s : State) : ranBy s (decode07 w) = run07 w s := by
  unfold decode07 run07
  generalize w / 524288 % 8 = k0
  first | contradiction | exact ranBy_accept .. | rfl | (split <;> first | contradiction | exact ranBy_accept .. | rfl | (split <;> first | contradiction | exact ranBy_accept .. | rfl))

theorem inf07_eq (w : Nat) : knownBy (decode07 w) = inf07 w := by
  unfold decode07 inf07
  generalize w / 524288 % 8 = k0
  first | contradiction | exact knownBy_accept .. | rfl | (split <;> first | contradiction | exact knownBy_accept .. | rfl | (split <;> first | contradiction | exact knownBy_accept .. | rfl))

theorem run08_eq (w : Nat) (s : State) : ranBy s (decode08 w) = run08 w s := by
  unfold decode08 run08
  generalize w / 524288 % 8 = k0
  first | contradiction | exact ranBy_accept .. | rfl | (split <;> first | contradiction | exact ranBy_accept .. | rfl | (split <;> first | contradiction | exact ranBy_accept .. | rfl))

theorem inf08_eq (w : Nat) : knownBy (decode08 w) = inf08 w := by
  unfold decode08 inf08
  generalize w / 524288 % 8 = k0
  first | contradiction | exact knownBy_accept .. | rfl | (split <;> first | contradiction | exact knownBy_accept .. | rfl | (split <;> first | contradiction | exact knownBy_accept .. | rfl))

theorem run09_eq (w : Nat) (s : State) : ranBy s (decode09 w) = run09 w s := by
  unfold decode09 run09
  generalize w / 262144 % 16 = k0
  first | contradiction | exact ranBy_accept .. | rfl | (split <;> first | contradiction | exact ranBy_accept .. | rfl | (split <;> first | contradiction | exact ranBy_accept .. | rfl))

theorem inf09_eq (w : Nat) : knownBy (decode09 w) = inf09 w := by
  unfold decode09 inf09
  generalize w / 262144 % 16 = k0
  first | contradiction | exact knownBy_accept .. | rfl | (split <;> first | contradiction | exact knownBy_accept .. | rfl | (split <;> first | contradiction | exact knownBy_accept .. | rfl))

theorem run0A_eq (w : Nat) (s : State) : ranBy s (decode0A w) = run0A w s := by
  unfold decode0A run0A
  generalize w / 262144 % 16 = k0
  first | contradiction | exact ranBy_accept .. | rfl | (split <;> first | contradiction | exact ranBy_accept .. | rfl | (split <;> first | contradiction | exact ranBy_accept .. | rfl))

theorem inf0A_eq (w : Nat) : knownBy (decode0A w) = inf0A w := by
  unfold decode0A inf0A
  generalize w / 262144 % 16 = k0
  first | contradiction | exact knownBy_accept .. | rfl | (split <;> first | contradiction | exact knownBy_accept .. | rfl | (split <;> first | contradiction | exact knownBy_accept .. | rfl))

theorem run0B_eq (w : Nat) (s : State) : ranBy s (decode0B w) = run0B w s := by
  unfold decode0B run0B
  generalize w / 131072 % 32 = k0
  first | contradiction | exact ranBy_accept .. | rfl | (split <;> first | contradiction | exact ranBy_accept .. | rfl | (split <;> first | contradiction | exact ranBy_accept .. | rfl))

theorem inf0B_eq (w : Nat) : knownBy (decode0B w) = inf0B w := by
  unfold decode0B inf0B
  generalize w / 131072 % 32 = k0
  first | contradiction | exact knownBy_accept .. | rfl | (split <;> first | contradiction | exact knownBy_accept .. | rfl | (split <;> first | contradiction | exact knownBy_accept .. | rfl))

theorem run0C_eq (w : Nat) (s : State) : ranBy s (decode0C w) = run0C w s := by
  unfold decode0C run0C
  generalize w / 131072 % 32 = k0
  first | contradiction | exact ranBy_accept .. | rfl | (split <;> first | contradiction | exact ranBy_accept .. | rfl | (split <;> first | contradiction | exact ranBy_accept .. | rfl))

theorem inf0C_eq (w : Nat) : knownBy (decode0C w) = inf0C w := by
  unfold decode0C inf0C
  generalize w / 131072 % 32 = k0
  first | contradiction | exact knownBy_accept .. | rfl | (split <;> first | contradiction | exact knownBy_accept .. | rfl | (split <;> first | contradiction | exact knownBy_accept .. | rfl))

theorem run0D_eq (w : Nat) (s : State) : ranBy s (decode0D w) = run0D w s := by
  unfold decode0D run0D
  generalize w / 65536 % 64 = k0
  first | contradiction | exact ranBy_accept .. | rfl | (split <;> first | contradiction | exact ranBy_accept .. | rfl | (split <;> first | contradiction | exact ranBy_accept .. | rfl))

theorem inf0D_eq (w : Nat) : knownBy (decode0D w) = inf0D w := by
  unfold decode0D inf0D
  generalize w / 65536 % 64 = k0
  first | contradiction | exact knownBy_accept .. | rfl | (split <;> first | contradiction | exact knownBy_accept .. | rfl | (split <;> first | contradiction | exact knownBy_accept .. | rfl))

theorem run0E_eq (w : Nat) (s : State) : ranBy s (decode0E w) = run0E w s := by
  unfold decode0E run0E
  generalize w / 65536 % 64 = k0
  first | contradiction | exact ranBy_accept .. | rfl | (split <;> first | contradiction | exact ranBy_accept .. | rfl | (split <;> first | contradiction | exact ranBy_accept .. | rfl))

theorem inf0E_eq (w : Nat) : knownBy (decode0E w) = inf0E w := by
  unfold decode0E inf0E
  generalize w / 65536 % 64 = k0
  first | contradiction | exact knownBy_accept .. | rfl | (split <;> first | contradiction | exact knownBy_accept .. | rfl | (split <;> first | contradiction | exact knownBy_accept .. | rfl))

theorem run0F_eq (w : Nat) (s : State) : ranBy s (decode0F w) = run0F w s := by
  unfold decode0F run0F
  generalize w / 65536 % 64 = k0
  first | contradiction | exact ranBy_accept .. | rfl | (split <;> first | contradiction | exact ranBy_accept .. | rfl | (split <;> first | contradiction | exact ranBy_accept .. | rfl))

theorem inf0F_eq (w : Nat) : knownBy (decode0F w) = inf0F w := by
  unfold decode0F inf0F
  generalize w / 65536 % 64 = k0
  first | contradiction | exact knownBy_accept .. | rfl | (split <;> first | contradiction | exact knownBy_accept .. | rfl | (split <;> first | contradiction | exact knownBy_accept .. | rfl))

theorem run10_eq (w : Nat) (s : State) : ranBy s (decode10 w) = run10 w s := by
  unfold decode10 run10
  generalize w / 65536 % 64 = k0
  first | contradiction | exact ranBy_accept .. | rfl | (split <;> first | contradiction | exact ranBy_accept .. | rfl | (split <;> first | contradiction | exact ranBy_accept .. | rfl))

theorem inf10_eq (w : Nat) : knownBy (decode10 w) = inf10 w := by
  unfold decode10 inf10
  generalize w / 65536 % 64 = k0
  first | contradiction | exact knownBy_accept .. | rfl | (split <;> first | contradiction | exact knownBy_accept .. | rfl | (split <;> first | contradiction | exact knownBy_accept .. | rfl))

theorem run11_eq (w : Nat) (s : State) : ranBy s (decode11 w) = run11 w s := by
  unfold decode11 run11
  generalize w / 65536 % 64 = k0; generalize w / 2 % 4 = k1
  first | contradiction | exact ranBy_accept .. | rfl | (split <;> first | contradiction | exact ranBy_accept .. | rfl | (split <;> first | contradiction | exact ranBy_accept .. | rfl | (split <;> first | contradiction | exact ranBy_accept .. | rfl | (split <;> first | contradiction | exact ranBy_accept .. | rfl))))

theorem inf11_eq (w : Nat) : knownBy (decode11 w) = inf11 w := by
  unfold decode11 inf11
  generalize w / 65536 % 64 = k0; generalize w / 2 % 4 = k1
  first | contradiction | exact knownBy_accept .. | rfl | (split <;> first | contradiction | exact knownBy_accept .. | rfl | (split <;> first | contradiction | exact knownBy_accept .. | rfl | (split <;> first | contradiction | exact knownBy_accept .. | rfl | (split <;> first | contradiction | exact knownBy_accept .. | rfl))))

theorem run12_eq (w : Nat) (s : State) : ranBy s (decode12 w) = run12 w s := by
  unfold decode12 run12
  generalize w / 65536 % 64 = k0
  first | contradiction | exact ranBy_accept .. | rfl | (split <;> first | contradiction | exact ranBy_accept .. | rfl | (split <;> first | contradiction | exact ranBy_accept .. | rfl))

theorem inf12_eq (w : Nat) : knownBy (decode12 w) = inf12 w := by
  unfold decode12 inf12
  generalize w / 65536 % 64 = k0
  first | contradiction | exact knownBy_accept .. | rfl | (split <;> first | contradiction | exact knownBy_accept .. | rfl | (split <;> first | contradiction | exact knownBy_accept .. | rfl))

theorem run13_eq (w : Nat) (s : State) : ranBy s (decode13 w) = run13 w s := by
  unfold decode13 run13
  generalize w / 65536 % 64 = k0
  first | contradiction | exact ranBy_accept .. | rfl | (split <;> first | contradiction | exact ranBy_accept .. | rfl | (split <;> first | contradiction | exact ranBy_accept .. | rfl))

theorem inf13_eq (w : Nat) : knownBy (decode13 w) = inf13 w := by
  unfold decode13 inf13
  generalize w / 65536 % 64 = k0
  first | contradiction | exact knownBy_accept .. | rfl | (split <;> first | contradiction | exact knownBy_accept .. | rfl | (split <;> first | contradiction | exact knownBy_accept .. | rfl))

theorem run14_eq (w : Nat) (s : State) : ranBy s (decode14 w) = run14 w s := by
  unfold decode14 run14
  generalize w / 65536 % 64 = k0
  first | contradiction | exact ranBy_accept .. | rfl | (split <;> first | contradiction | exact ranBy_accept .. | rfl | (split <;> first | contradiction | exact ranBy_accept .. | rfl))

theorem inf14_eq (w : Nat) : knownBy (decode14 w) = inf14 w := by
  unfold decode14 inf14
  generalize w / 65536 % 64 = k0
  first | contradiction | exact knownBy_accept .. | rfl | (split <;> first | contradiction | exact knownBy_accept .. | rfl | (split <;> first | contradiction | exact knownBy_accept .. | rfl))

theorem run15_eq (w : Nat) (s : State) : ranBy s (decode15 w) = run15 w s := by
  unfold decode15 run15
  generalize w / 65536 % 64 = k0
  first | contradiction | exact ranBy_accept .. | rfl | (split <;> first | contradiction | exact ranBy_accept .. | rfl | (split <;> first | contradiction | exact ranBy_accept .. | rfl))

theorem inf15_eq (w : Nat) : knownBy (decode15 w) = inf15 w := by
  unfold decode15 inf15
  generalize w / 65536 % 64 = k0
  first | contradiction | exact knownBy_accept .. | rfl | (split <;> first | contradiction | exact knownBy_accept .. | rfl | (split <;> first | contradiction | exact knownBy_accept .. | rfl))

theorem run16_eq (w : Nat) (s : State) : ranBy s (decode16 w) = run16 w s := by
  unfold decode16 run16
  generalize w / 131072 % 32 = k0
  first | contradiction | exact ranBy_accept .. | rfl | (split <;> first | contradiction | exact ranBy_accept .. | rfl | (split <;> first | contradiction | exact ranBy_accept .. | rfl))

theorem inf16_eq (w : Nat) : knownBy (decode16 w) = inf16 w := by
  unfold decode16 inf16
  generalize w / 131072 % 32 = k0
  first | contradiction | exact knownBy_accept .. | rfl | (split <;> first | contradiction | exact knownBy_accept .. | rfl | (split <;> first | contradiction | exact knownBy_accept .. | rfl))

theorem run17_eq (w : Nat) (s : State) : ranBy s (decode17 w) = run17 w s := by
  unfold decode17 run17
  generalize w / 131072 % 32 = k0
  first | contradiction | exact ranBy_accept .. | rfl | (split <;> first | contradiction | exact ranBy_accept .. | rfl | (split <;> first | contradiction | exact ranBy_accept .. | rfl))

theorem inf17_eq (w : Nat) : knownBy (decode17 w) = inf17 w := by
  unfold decode17 inf17
  generalize w / 131072 % 32 = k0
  first | contradiction | exact knownBy_accept .. | rfl | (split <;> first | contradiction | exact knownBy_accept .. | rfl | (split <;> first | contradiction | exact knownBy_accept .. | rfl))

theorem run18_eq (w : Nat) (s : State) : ranBy s (decode18 w) = run18 w s := by
  unfold decode18 run18
  generalize w / 512 % 256 = k0
  first | contradiction | exact ranBy_accept .. | rfl | (split <;> first | contradiction | exact ranBy_accept .. | rfl | (split <;> first | contradiction | exact ranBy_accept .. | rfl))

theorem inf18_eq (w : Nat) : knownBy (decode18 w) = inf18 w := by
  unfold decode18 inf18
  generalize w / 512 % 256 = k0
  first | contradiction | exact knownBy_accept .. | rfl | (split <;> first | contradiction | exact knownBy_accept .. | rfl | (split <;> first | contradiction | exact knownBy_accept .. | rfl))

theorem run19_eq (w : Nat) (s : State) : ranBy s (decode19 w) = run19 w s := by
  unfold decode19 run19
  generalize w / 512 % 256 = k0
  first | contradiction | exact ranBy_accept .. | rfl | (split <;> first | contradiction | exact ranBy_accept .. | rfl | (split <;> first | contradiction | exact ranBy_accept .. | rfl))

theorem inf19_eq (w : Nat) : knownBy (decode19 w) = inf19 w := by
  unfold decode19 inf19
  generalize w / 512 % 256 = k0
  first | contradiction | exact knownBy_accept .. | rfl | (split <;> first | contradiction | exact knownBy_accept .. | rfl | (split <;> first | contradiction | exact knownBy_accept .. | rfl))

theorem run1A_eq (w : Nat) (s : State) : ranBy s (decode1A w) = run1A w s := by
  unfold decode1A run1A
  generalize w / 512 % 256 = k0
  first | contradiction | exact ranBy_accept .. | rfl | (split <;> first | contradiction | exact ranBy_accept .. | rfl | (split <;> first | contradiction | exact ranBy_accept .. | rfl))

theorem inf1A_eq (w : Nat) : knownBy (decode1A w) = inf1A w := by
  unfold decode1A inf1A
  generalize w / 512 % 256 = k0
  first | contradiction | exact knownBy_accept .. | rfl | (split <;> first | contradiction | exact knownBy_accept .. | rfl | (split <;> first | contradiction | exact knownBy_accept .. | rfl))

theorem run1B_eq (w : Nat) (s : State) : ranBy s (decode1B w) = run1B w s := by
  unfold decode1B run1B
  generalize w / 512 % 256 = k0
  first | contradiction | exact ranBy_accept .. | rfl | (split <;> first | contradiction | exact ranBy_accept .. | rfl | (split <;> first | contradiction | exact ranBy_accept .. | rfl))

theorem inf1B_eq (w : Nat) : knownBy (decode1B w) = inf1B w := by
  unfold decode1B inf1B
  generalize w / 512 % 256 = k0
  first | contradiction | exact knownBy_accept .. | rfl | (split <;> first | contradiction | exact knownBy_accept .. | rfl | (split <;> first | contradiction | exact knownBy_accept .. | rfl))

theorem run1C_eq (w : Nat) (s : State) : ranBy s (decode1C w) = run1C w s := by
  unfold decode1C run1C
  generalize w / 512 % 256 = k0; generalize w / 131072 % 8 = k1
  first | contradiction | exact ranBy_accept .. | rfl | (split <;> first | contradiction | exact ranBy_accept .. | rfl | (split <;> first | contradiction | exact ranBy_accept .. | rfl | (split <;> first | contradiction | exact ranBy_accept .. | rfl | (split <;> first | contradiction | exact ranBy_accept .. | rfl))))

theorem inf1C_eq (w : Nat) : knownBy (decode1C w) = inf1C w := by
  unfold decode1C inf1C
  generalize w / 512 % 256 = k0; generalize w / 131072 % 8 = k1
  first | contradiction | exact knownBy_accept .. | rfl | (split <;> first | contradiction | exact knownBy_accept .. | rfl | (split <;> first | contradiction | exact knownBy_accept .. | rfl | (split <;> first | contradiction | exact knownBy_accept .. | rfl | (split <;> first | contradiction | exact knownBy_accept .. | rfl))))

theorem run1D_eq (w : Nat) (s : State) : ranBy s (decode1D w) = run1D w s := by
  unfold decode1D run1D
  generalize w / 512 % 256 = k0
  first | contradiction | exact ranBy_accept .. | rfl | (split <;> first | contradiction | exact ranBy_accept .. | rfl | (split <;> first | contradiction | exact ranBy_accept .. | rfl))

theorem inf1D_eq (w : Nat) : knownBy (decode1D w) = inf1D w := by
  unfold decode1D inf1D
  generalize w / 512 % 256 = k0
  first | contradiction | exact knownBy_accept .. | rfl | (split <;> first | contradiction | exact knownBy_accept .. | rfl | (split <;> first | contradiction | exact knownBy_accept .. | rfl))

def runAll (w : IWord) (s : State) : Host.Outcome State Fault Refusal :=
  match w.toNat / 67108864 % 32 with
  | 0 => run00 w.toNat s
  | 1 => run01 w.toNat s
  | 2 => run02 w.toNat s
  | 3 => run03 w.toNat s
  | 4 => run04 w.toNat s
  | 5 => run05 w.toNat s
  | 6 => run06 w.toNat s
  | 7 => run07 w.toNat s
  | 8 => run08 w.toNat s
  | 9 => run09 w.toNat s
  | 10 => run0A w.toNat s
  | 11 => run0B w.toNat s
  | 12 => run0C w.toNat s
  | 13 => run0D w.toNat s
  | 14 => run0E w.toNat s
  | 15 => run0F w.toNat s
  | 16 => run10 w.toNat s
  | 17 => run11 w.toNat s
  | 18 => run12 w.toNat s
  | 19 => run13 w.toNat s
  | 20 => run14 w.toNat s
  | 21 => run15 w.toNat s
  | 22 => run16 w.toNat s
  | 23 => run17 w.toNat s
  | 24 => run18 w.toNat s
  | 25 => run19 w.toNat s
  | 26 => run1A w.toNat s
  | 27 => run1B w.toNat s
  | 28 => run1C w.toNat s
  | 29 => run1D w.toNat s
  | _ => unmeant s

def infAll (w : IWord) : Option Info :=
  match w.toNat / 67108864 % 32 with
  | 0 => inf00 w.toNat
  | 1 => inf01 w.toNat
  | 2 => inf02 w.toNat
  | 3 => inf03 w.toNat
  | 4 => inf04 w.toNat
  | 5 => inf05 w.toNat
  | 6 => inf06 w.toNat
  | 7 => inf07 w.toNat
  | 8 => inf08 w.toNat
  | 9 => inf09 w.toNat
  | 10 => inf0A w.toNat
  | 11 => inf0B w.toNat
  | 12 => inf0C w.toNat
  | 13 => inf0D w.toNat
  | 14 => inf0E w.toNat
  | 15 => inf0F w.toNat
  | 16 => inf10 w.toNat
  | 17 => inf11 w.toNat
  | 18 => inf12 w.toNat
  | 19 => inf13 w.toNat
  | 20 => inf14 w.toNat
  | 21 => inf15 w.toNat
  | 22 => inf16 w.toNat
  | 23 => inf17 w.toNat
  | 24 => inf18 w.toNat
  | 25 => inf19 w.toNat
  | 26 => inf1A w.toNat
  | 27 => inf1B w.toNat
  | 28 => inf1C w.toNat
  | 29 => inf1D w.toNat
  | _ => none

theorem runAll_eq : runIWord = runAll := by
  funext w s
  have h : runIWord w s = ranBy s (decode w.toNat) := by unfold runIWord ranBy; cases decode w.toNat <;> rfl
  rw [h]; unfold decode runAll
  generalize hk : w.toNat / 67108864 % 32 = k
  split <;> first | (simp only [run00_eq, run01_eq, run02_eq, run03_eq, run04_eq, run05_eq, run06_eq, run07_eq, run08_eq, run09_eq, run0A_eq, run0B_eq, run0C_eq, run0D_eq, run0E_eq, run0F_eq, run10_eq, run11_eq, run12_eq, run13_eq, run14_eq, run15_eq, run16_eq, run17_eq, run18_eq, run19_eq, run1A_eq, run1B_eq, run1C_eq, run1D_eq]; done) | rfl | (split <;> first | rfl | (exfalso; simp_all; done))

theorem infAll_eq : iwordInfo = infAll := by
  funext w
  have h : iwordInfo w = knownBy (decode w.toNat) := by unfold iwordInfo knownBy; cases decode w.toNat <;> rfl
  rw [h]; unfold decode infAll
  generalize hk : w.toNat / 67108864 % 32 = k
  split <;> first | (simp only [inf00_eq, inf01_eq, inf02_eq, inf03_eq, inf04_eq, inf05_eq, inf06_eq, inf07_eq, inf08_eq, inf09_eq, inf0A_eq, inf0B_eq, inf0C_eq, inf0D_eq, inf0E_eq, inf0F_eq, inf10_eq, inf11_eq, inf12_eq, inf13_eq, inf14_eq, inf15_eq, inf16_eq, inf17_eq, inf18_eq, inf19_eq, inf1A_eq, inf1B_eq, inf1C_eq, inf1D_eq]; done) | rfl | (split <;> first | rfl | (exfalso; simp_all; done))

/-- One step, as it is run. -/
def stepFast (s : State) : Host.Outcome State Fault Refusal := stepWith infAll runAll s

@[csimp] theorem step_eq_stepFast : @step = @stepFast := by
  funext s; unfold step stepFast; rw [runAll_eq, infAll_eq]

end Sys2Proof.Machine
end

