-- ==== Sys2Proof/Safety.lean ====
section
/-! DEFINITION. What a safe run keeps, and the terms in which statements speak of the machine: when a word may act, the
state it acts in, what it leaves unchanged, what an observer reads of memory. -/
namespace Sys2Proof

/-! ## Words and rows -/

/-- Rows of the opcode table that differ only in what a control word or a field of one word says have one word: the first
such row, which is what the decoder reads. -/
noncomputable def Instr.firstOfWord : Instr → Instr
  | .clEditAdd q sb => .clEditRemove q sb
  | .ptResume q sb => .ptQuiesce q sb
  | .ptStateRead q sb => .ptQuiesce q sb
  | .ptVfsetRelease q aa sb => .ptVfsetAssign q aa sb
  | .ptRetire q aa sb => .ptMove q aa sb
  | .gtReleaseRevoke q aa sb => .gtReleaseInstall q aa sb
  | .gtReleaseApply q aa sb => .gtReleaseInstall q aa sb
  | i => i

/-- Is the instruction one of the eight words of a Jetty hart (R417)? -/
def Instr.hartWord : Instr → Bool
  | .jxRecv .. => true
  | .jxSend .. => true
  | .jxWait .. => true
  | .jxEnd => true
  | .jxEcreate .. => true
  | .jxEload .. => true
  | .jxEpark .. => true
  | .jxMabort .. => true
  | _ => false

end Sys2Proof

namespace Sys2Proof.Machine

/-! ## Safe states -/

/-- Memory lists its bytes in the one canonical form. -/
abbrev State.memOk (s : State) : Prop := memWf s.mem = true

/-- A step that neither faults nor refuses. -/
def Goes (o : Host.Outcome State Fault Refusal) : Prop := ∃ t, o = .next t

/-- The step took a trap (R34): the mark of the group last tried says so. -/
def Trapped (t : State) (c info addr : Nat) : Prop := t.core.mark = .trapped c info addr

/-! ## A word that may act -/

/-- The state in which a word acts: the labels of R466 have joined the context label. -/
def joined (i : Info) (s : State) : State := { s with core := s.core.joinCl (joinLabel s.core i) }

/-- The privilege suffices (R44, R50) and the qualifying predicate is true (R44). -/
def Ready (i : Info) (s : State) : Prop := i.prv ≤ s.core.cont.prv ∧ predOn s.core i = true

/-- In s, an instruction that may act makes the state f of what it reads and writes and the state it acts in. -/
def Gives (ins : Instr) (s : State) (f : Info → State → State) : Prop :=
  ∀ i, infoOf ins = some i → Ready i s → exec ins s = .next (f i (joined i s))

/-- As `Gives`, when the state it acts in meets p. -/
def GivesIf (ins : Instr) (s : State) (p : State → Prop) (f : Info → State → State) : Prop :=
  ∀ i, infoOf ins = some i → Ready i s → p (joined i s) → exec ins s = .next (f i (joined i s))

/-- In s, an instruction that may act, in a state that meets p, takes a trap. -/
def TrapsIf (ins : Instr) (s : State) (p : State → Prop) (c : Nat) (info addr : State → Nat) : Prop :=
  ∀ i, infoOf ins = some i → Ready i s → p (joined i s) →
    exec ins s = .next (takeTrap s c (info (joined i s)) (addr (joined i s)))

/-- In s, a wait that may act, in a state that meets p, does not issue (R122), and leaves u, which is s with what its walk set:
without `.s` its group is held; with `.s`, whose group holds a safe, it is held until it has frozen CP_SPIN cycles, and then, outside
a quad-lock, the continuation suspends at the safe point of the group with this WK, WARG and WOBJ, pinned for a tag wait. -/
def Waits (ins : Instr) (s u : State) (sus : BitVec 1) (p : State → Prop) (wk : Nat) (warg wobj : State → Nat) : Prop :=
  ∀ i, infoOf ins = some i → Ready i s → p (joined i s) →
    (sus = 0 → exec ins s = .next (heldOne u true none))
    ∧ ∀ n w t, sus = 1 → s.core.grp.safe = some n → w = (wk, warg (joined i s), wobj (joined i s)) →
        t = { u with core := { u.core with spinW := some w } } →
        (s.core.spun < s.core.cpSpin.toNat ∨ s.core.locked = true → exec ins s = .next (heldOne t true (some w)))
        ∧ (s.core.cpSpin.toNat ≤ s.core.spun → s.core.locked = false →
            exec ins s = .next (safeSuspend t s.core.pc n 3 w.1 w.2.1 w.2.2 (wk == 2)))

/-- The value of a scalar, address and predicate register. -/
def sv (t : State) (r : BitVec 5) : Word := (t.core.rdS r).v
def av (t : State) (r : BitVec 4) : Addr := (t.core.rdA r).v
def pv (t : State) (r : BitVec 4) : Bool := (t.core.rdP r).v == 1

/-! ## What stays -/

/-- Only results in flight were added and the context label grew: every register, flag, special register and
exception register, the program counter, every byte of memory and every other agent are as before. -/
def OnlyIssues (s t : State) : Prop :=
  t = { s with core := { s.core with pend := t.core.pend, run := t.core.run } }
    ∧ (∃ e, t.core.pend = s.core.pend ++ e)
    ∧ (∃ l, t.core.run = s.core.run.map (fun r => { r with cl := r.cl ||| l }))

/-- Every byte of memory reads as before. -/
def SameBytes (s t : State) : Prop := ∀ a, readPa t a 1 = readPa s a 1

/-- No partition has a retiring interleave set (R495), so that an address always names one DRAM place. -/
def Settled (s : State) : Prop := ∀ p ∈ s.parts.toList, p.ret = none

/-! ## Vector results -/

/-- What a vector register's write x under the mask y holds of the elements j < c of width w: an active element the
value f j, an inactive one zero, or no write where the destination is kept (R232). -/
def Lands (k : VCtx) (w c : Nat) (act : Nat → Bool) (f : Nat → Nat) (x y : BitVec 4096) : Prop :=
  ∀ j < c, elem x.toNat w j = (if act j = true then f j % 2 ^ w else 0)
    ∧ elem y.toNat w j = (if k.keep = true ∧ act j = false then 0 else 2 ^ w - 1)

/-- An element-wise word whose formats are allowed (R228): element j of vd takes f of element j, n ticks after issue. -/
def Lanes (ins : Instr) (s : State) (z : BitVec 1) (m : BitVec 3) (d : BitVec 5) (n : Nat) (ok : Core → Bool)
    (f : Core → VCtx → Nat → Nat) : Prop :=
  ∀ i, infoOf ins = some i → Ready i s → ok s.core = true → ∀ t k, t = joined i s → k = vctx t.core i z m →
    ∃ x y, exec ins s = .next (push t n (.v (physV t.core d) x y k.keep) k.lab) ∧ Lands k k.w k.n k.act (f t.core k) x y

/-- As `Lanes`, for a word whose active elements also set sticky flags with the result (R80). -/
def FlagLanes (ins : Instr) (s : State) (z : BitVec 1) (m : BitVec 3) (d : BitVec 5) (n : Nat) (ok : Core → Bool)
    (f : Core → VCtx → Nat → Nat × Nat) : Prop :=
  ∀ i, infoOf ins = some i → Ready i s → ok s.core = true → ∀ t k, t = joined i s → k = vctx t.core i z m →
    ∃ x y e, exec ins s = .next (putFlags (push t n (.v (physV t.core d) x y k.keep) k.lab) k n e d)
      ∧ Lands k k.w k.n k.act (fun j => (f t.core k j).1) x y
      ∧ ∀ b, bit e b = true ↔ ∃ j < k.n, k.act j = true ∧ bit (f t.core k j).2 b = true

/-- The write of register r of a group of g at d: what keeps inactive elements joins the labels of the whole group (R235). -/
def groupEff (c : Core) (k : VCtx) (d : BitVec 5) (g r : Nat) (v y : BitVec 4096) : Eff :=
  if k.keep = true then .vg (physV c (d + BitVec.ofNat 5 r)) v y ((vGroup d g).map (physV c)) else .v (physV c (d + BitVec.ofNat 5 r)) v y false

/-- A vector compare: bit j of md is the relation of the active elements j; other bits are zero or kept (R247). -/
def MaskLanes (ins : Instr) (s : State) (z : BitVec 1) (m d : BitVec 3) (a b : BitVec 5) (x : BitVec 1) (ok : Core → Bool)
    (rel : VCtx → Nat → Nat → Prop) : Prop :=
  ∀ i, infoOf ins = some i → Ready i s → ok s.core = true → ∀ t k, t = joined i s → k = vctx t.core i z m →
    ∃ r y, exec ins s = .next (push t 2 (.m d r y k.keep) k.lab)
      ∧ (∀ j < k.n, (r.getLsbD j = true ↔ k.act j = true ∧ rel k (vEl t.core k a j) (vElB t.core k b x j))
          ∧ (y.getLsbD j = true ↔ k.keep = false ∨ k.act j = true))
      ∧ ∀ j < 1024, k.n ≤ j → r.getLsbD j = false ∧ y.getLsbD j = true

/-- A vector load: with the elements of the active positions read, or the `one` that is read for all of them, they land in vd at
tick N (R239). -/
def VLoads (ins : Instr) (s : State) (one : Bool) (z : BitVec 1) (m : BitVec 3) (d l : BitVec 5) (sz : VCtx → Nat) (ok : Core → Bool)
    (bad : Core → VCtx → Bool) (at_ : Core → VCtx → Nat → Nat) : Prop :=
  ∀ i, infoOf ins = some i → Ready i s → ok s.core = true → ∀ t k acc, t = joined i s → k = vctx t.core i z m →
    acc = vAccs k (max 1 (k.w / 8)) (at_ t.core k) → bad t.core k = false → landsOut t.core < 32 →
    ∀ t1 vs ml, readAll (sz k) t (if one then acc.take 1 else acc) = .ok (t1, vs, ml) →
      ∀ e : Nat → Nat, e = (fun j => ((if one then vs.head?.map (·.2) else lookup vs j)).getD 0) →
      ∃ x y, exec ins s = .next (pushLand t1 (l.toNat + 4) (.v (physV t.core d) x y k.keep) (ml ||| k.lab) 3 d (acc.map (·.va)))
        ∧ Lands k k.w k.n k.act (fun j => if k.w = 4 then elem (e j) 4 (j % 2) else e j) x y

/-- A vector store: with the active elements written in ascending order, the state after them (R240). -/
def VStores (ins : Instr) (s : State) (m : BitVec 3) (v : BitVec 5) (sz : VCtx → Nat) (ok : Core → Bool)
    (bad : Core → VCtx → Bool) (at_ : Core → VCtx → Nat → Nat) : Prop :=
  ∀ i, infoOf ins = some i → Ready i s → ok s.core = true → ∀ t k acc, t = joined i s → k = vctx t.core i 0 m →
    acc = vAccs k (max 1 (k.w / 8)) (at_ t.core k) → bad t.core k = false →
    ∀ u, writeAll (sz k) k.w (vEl t.core k v) k.lab t acc = .ok u → exec ins s = .next u

/-- A z block's write of the elements f, with their flags (R288 to R290). -/
def ZLands (t : State) (n z : Nat) (l : Label) (f : Nat → Nat) (e : Nat) (u : State) : Prop :=
  ∃ x, u = push (push t n (.z z x (BitVec.allOnes 65536)) l) n (.flags (BitVec.ofNat 5 e)) l
    ∧ ∀ j < 2048, elem x.toNat 32 j = f j % 2 ^ 32

/-- e has the bits that some f j has, over the j < n that act: what a word whose flags are the OR of its elements' sets (R80). -/
def OrOf (e n : Nat) (act : Nat → Bool) (f : Nat → Nat) : Prop :=
  ∀ b, bit e b = true ↔ ∃ j < n, act j = true ∧ bit (f j) b = true

/-- The matrix engine of the core is not pooled (R296). -/
def Direct (t : State) : Prop := t.core.mxPool.getLsbD 15 = false

/-! ## Tagged commands -/

/-- A tagged command can issue (R199): its tag is not busy and fewer than 16 are in flight. -/
def TagFree (t : State) (tag : Nat) : Prop :=
  t.core.cur < 4 ∧ t.core.cmds.length < 16 ∧ t.core.ctx.busy &&& (1#64 <<< (BitVec.ofNat 6 tag).toNat) = 0

/-- The tagged command c has issued (R199, R200): it is in flight with what its word read, in its issuer's context, its
tag is busy, and its TAGS bit clears at tick 1. -/
def Issued (t u : State) (kind : CmdKind) (tag : Nat) (aa : Addr) (ctl : Word) (c : Cmd) : Prop :=
  (c.kind = kind ∧ c.tag = BitVec.ofNat 6 tag ∧ c.aa = aa ∧ c.ctl = ctl ∧ c.arr = t.core.grp.eArr)
  ∧ (c.ctx = t.core.cur ∧ c.vf = t.core.cont.vf ∧ c.part = t.core.cont.part ∧ c.prv = t.core.cont.prv)
  ∧ u.core.cmds = t.core.cmds ++ [c]
  ∧ u.core.ctx.busy = (t.core.ctx.busy ||| (1#64 <<< c.tag.toNat))
  ∧ ∃ e, u.core.pend = t.core.pend ++ ⟨t.core.tick + 1, .tagsClr t.core.cur (1#64 <<< c.tag.toNat), c.lab, none⟩ :: e

/-- A word that, when p holds, issues a tagged command of the tag x<5:0> with address aa and control word sb; r says more of the
command and the state after it. A busy tag, or sixteen commands in flight, hold its group (R199). -/
def IssuesIf (ins : Instr) (s : State) (names : List RegName) (kind : CmdKind) (x : Nat) (aa : State → Addr) (sb : BitVec 5)
    (p : State → Prop) (r : Cmd → State → State → Prop) : Prop :=
  ∀ i, infoOf ins = some i → Ready i s → ∀ t, t = joined (i.naming names) s → p t →
    (TagFree t (x % 64) → ∃ u c, exec ins s = .next u ∧ Issued t u kind (x % 64) (aa t) (sv t sb) c ∧ r c t u)
    ∧ (16 ≤ t.core.cmds.length ∨ t.core.ctx.busy &&& (1#64 <<< (BitVec.ofNat 6 (x % 64)).toNat) ≠ 0 → exec ins s = .next (heldOne s false none))

/-! ## One word in its group -/

/-- A word alone in its group, as the sequencer numbers it. -/
noncomputable def loneWord (s : State) (w : IWord) : GWord := ⟨0, w, (iwordInfo w).map (liveInfo s.core w)⟩

/-- The state in which a lone word is tried, before anything of its group has happened. -/
noncomputable def tried (s : State) (w : IWord) : State := setWord s.core.pc s [loneWord s w] (loneWord s w)

/-- The state in which a lone word issues: the labels of its group have joined the context label (R466). -/
noncomputable def issuing (s : State) (w : IWord) : State :=
  setWord s.core.pc (joinGroup [loneWord s w] s) [loneWord s w] (loneWord s w)

/-- As `issuing`, when the group ends a pass of the nest: the labels of the registers that the pass end reads have joined as
well (R113, R466). -/
noncomputable def issuingPass (s : State) (w : IWord) : State :=
  let j := joinGroup [loneWord s w] s
  setWord s.core.pc { j with core := j.core.joinCl (passLabel s.core) } [loneWord s w] (loneWord s w)

/-- The state in which a lone word acts should its group issue: `issuing`, or, when the group ends a pass of a nest that goes on,
`issuingPass`. -/
noncomputable def labelled (s : State) (w : IWord) : State :=
  setWord s.core.pc (groupState runIWord [loneWord s w] s s) [loneWord s w] (loneWord s w)

/-- The focused core is the one to act, alone: no waiting record becomes ready, nothing is on the agenda, no event of the part is
due, a record runs and its domain is this core. -/
def CoreActs (s : State) : Prop := metEvent s = none ∧ s.agenda = [] ∧ autoEvent s = none ∧ s.core.run.isSome = true ∧ s.core.locked = false

/-! ## Words of one shape -/

/-- Words that only write registers, flags and masks when they issue, with no wait and no engine. -/
def registerWord : Instr → Bool
  | .add .. => true | .sub .. => true | .mul .. => true | .mulh .. => true | .mulhn .. => true
  | .div .. => true | .divn .. => true | .rem .. => true | .remn .. => true
  | .and .. => true | .or .. => true | .xor .. => true | .andn .. => true
  | .shl .. => true | .shr .. => true | .sar .. => true | .rotl .. => true
  | .min .. => true | .max .. => true | .minn .. => true | .maxn .. => true
  | .clz .. => true | .ctz .. => true | .popc .. => true
  | .addi .. => true | .andi .. => true | .ori .. => true | .xori .. => true | .muli .. => true
  | .shli .. => true | .shri .. => true | .sari .. => true | .li .. => true | .lic .. => true
  | .cmpEq .. => true | .cmpNe .. => true | .cmpLt .. => true | .cmpGe .. => true
  | .cmpLtn .. => true | .cmpGen .. => true | .cmpTand .. => true | .cmpTnand .. => true
  | .cmpiEq .. => true | .cmpiNe .. => true | .cmpiLt .. => true | .cmpiGe .. => true
  | .cmpiLtn .. => true | .cmpiGen .. => true | .cmpiTbit .. => true | .cmpiTnbit .. => true
  | .aadd .. => true | .aaddi .. => true | .asub .. => true | .aset .. => true | .ahi .. => true | .aalign .. => true | .aget .. => true
  | .vadd .. => true | .vsub .. => true | .vmul .. => true | .vmulh .. => true | .vand .. => true | .vor .. => true | .vxor .. => true
  | .vshl .. => true | .vshr .. => true | .vsar .. => true | .vmin .. => true | .vmax .. => true | .vadds .. => true | .vsubs .. => true
  | .vabs .. => true | .vfmin .. => true | .vfmax .. => true | .vfabs .. => true | .vfneg .. => true
  | .vcmpEq .. => true | .vcmpNe .. => true | .vcmpLt .. => true | .vcmpGe .. => true
  | .mand .. => true | .mor .. => true | .mxor .. => true | .mnot .. => true | .mcnt .. => true | .mffs .. => true | .vsel .. => true
  | .vperm .. => true | .vslide .. => true | .vbcast .. => true | .vext .. => true | .vins .. => true
  | .vrot .. => true | .stgset .. => true | .stgshift .. => true
  | _ => false

/-- Scalar stores and their size in bytes. -/
def storeSize : Instr → Option Nat
  | .stB .. => some 1
  | .stH .. => some 2
  | .stW .. => some 4
  | .stD .. => some 8
  | _ => none

/-- Scalar loads and their size in bytes. -/
def loadSize : Instr → Option Nat
  | .ldI8 .. => some 1
  | .ldN8 .. => some 1
  | .ldI16 .. => some 2
  | .ldN16 .. => some 2
  | .ldI32 .. => some 4
  | .ldN32 .. => some 4
  | .ldD .. => some 8
  | _ => none

/-- Every architectural register, flag and special register of a core, and its sequencer, is as before but for the context
label: what an access may change is which lines its stash holds. -/
def SameRegisters (c d : Core) : Prop := d = { c with stash := d.stash, run := d.run }
  ∧ ∃ l, d.run = c.run.map (fun r => { r with cl := r.cl ||| l })

/-- Two physical addresses have no byte in common: their DRAM places differ (R165). -/
def OtherPlace (s : State) (a pa n : Nat) : Prop := ∀ j < n, key s a ≠ key s (pa + j)

/-! ## Stores of several parts -/

/-- The parts of n bytes v at va that lie in one line each: address, size and value. -/
def spanVals : Nat → Nat → Nat → Nat → List (Nat × Nat × Nat)
  | 0, _, _, _ => []
  | k + 1, va, n, v =>
    let c := min n (128 - va % 128)
    (va, c, v % 2 ^ (8 * c)) :: spanVals k ((va + c) % 2 ^ 72) (n - c) (v >>> (8 * c))

/-- The parts of a store of vector elements in ascending order, with the value each writes, given the byte that was there: a 4-bit element
replaces its nibble (R240). -/
def elParts (w : Nat) (src : Nat → Nat) (l : List VAcc) : List (Nat × Nat × (Nat → Nat)) :=
  l.flatMap (fun e => (spanVals (lineCount e.va e.n) e.va e.n (src e.j)).map (fun p => (p.1, p.2.1, fun o =>
    if w = 4 then (if e.j % 2 = 0 then o / 16 * 16 + src e.j else o % 16 + 16 * src e.j) % 2 ^ 8 else p.2.2)))

/-- Does a store of parts, each in memory and written after the one before (after its byte is read, where `rd` says so), leave byte b: no
part goes to b's place, no mark of its walk (R153) and no rise of its frame's label (R463, R464) changes b? -/
def Spares (w : Who) (l : Label) (b : Nat) (rd : Bool) : List (Nat × Nat × (Nat → Nat)) → State → Bool
  | [], _ => true
  | (va, n, f) :: ps, s =>
    match (if rd then readVa s w va n .write else .ok (s, 0, 0)) with
    | .error _ => false
    | .ok (r, o, _) =>
      match translateMark r va w.vf w.part w.prv n .write, writeVa r w va n (f o) l 0 with
      | .ok (t, x), .ok u =>
        let pa := writePlace t w va n x
        isMem x.pa && readPa r b 1 == readPa s b 1 && (List.range n).all (fun j => key t b != key t (pa + j))
          && readPa (rise t w.part w.vf { x with pa := pa } l) b 1 == readPa r b 1 && Spares w l b rd ps u
      | _, _ => false

/-! ## Scalar words, accesses, branches, reductions -/

/-- The combining type of a compare (R53). -/
def combiningType : Instr → Option (BitVec 3)
  | .cmpEq _ c .. => some c | .cmpNe _ c .. => some c | .cmpLt _ c .. => some c | .cmpGe _ c .. => some c
  | .cmpLtn _ c .. => some c | .cmpGen _ c .. => some c | .cmpTand _ c .. => some c | .cmpTnand _ c .. => some c
  | .cmpiEq _ c .. => some c | .cmpiNe _ c .. => some c | .cmpiLt _ c .. => some c | .cmpiGe _ c .. => some c
  | .cmpiLtn _ c .. => some c | .cmpiGen _ c .. => some c | .cmpiTbit _ c .. => some c | .cmpiTnbit _ c .. => some c
  | _ => none

/-- R53, R54: what a compare of type ct leaves in its pair at tick 1, given the qualifying predicate, the relation and
the pair as read; a predicate that no clause names is not written. -/
def pairAfter (ct : BitVec 3) (qp c p0 p1 : Bool) : Option Bool × Option Bool :=
  if ct = 0 then (if qp then (some c, some !c) else (none, none))
  else if ct = 1 then (if qp then (some c, some !c) else (some false, some false))
  else if ct = 2 then (if qp && !c then (some false, some true) else (none, none))
  else if ct = 3 then (if qp && c then (some true, some false) else (none, none))
  else if ct = 4 then (if qp && c then (some false, some true) else (none, none))
  else if ct = 5 then (if qp && !c then (some true, some false) else (none, none))
  else if ct = 6 then (if qp && c then (some !p0, some !p1) else (none, none))
  else (if qp then (some c, none) else (none, none))

/-- A compare of the relation c in s: its pair is written at tick 1 and nothing else, under a false predicate as well
(R53). Of p0 and p1 a write is discarded (R43). -/
def Compares (ins : Instr) (s : State) (ct k : BitVec 3) (c : State → Bool) : Prop :=
  ∀ i, infoOf ins = some i → i.prv ≤ s.core.cont.prv →
    let t := joined i s
    let e : BitVec 4 := k.setWidth 4 * 2
    let w := pairAfter ct (predOn s.core i) (c t) (pv t e) (pv t (e + 1))
    exec ins s = .next (writeP (writeP t e (readLabel t.core i.rd) w.1) (e + 1) (readLabel t.core i.rd) w.2)

/-- A scalar load of `size` bytes: when its address is aligned, a landing request is free and the bytes can be read, they
are read little-endian and land in sd at tick N (R25, R97, R98), with the label of page or stash line, aa and context. -/
def Loads (ins : Instr) (s : State) (d : BitVec 5) (a : BitVec 4) (l m : BitVec 5) (size : Nat) (conv : Nat → Word) : Prop :=
  ∀ i, infoOf ins = some i → Ready i s → ∀ t va, t = joined i s → va = ((av t a).toNat + m.toNat * size) % 2 ^ 72 →
    va % size = 0 → landsOut t.core < 32 →
    ∀ t1 v ml, readBytes t t.core.who va size .read = .ok (t1, v, ml) →
      exec ins s = .next (pushLand t1 (l.toNat + 4) (.s d (conv v)) (ml ||| ((t.core.rdA a).l ||| t.core.cl)) 0 d [va])

/-- A scalar store: when its address is aligned and the write is allowed, the state after the write of the low bytes of
sv, labelled with sv, aa and the context label (R97, R98). -/
def Stores (ins : Instr) (s : State) (v : BitVec 5) (a : BitVec 4) (m : BitVec 10) (size : Nat) : Prop :=
  ∀ i, infoOf ins = some i → Ready i s → ∀ t va, t = joined i s → va = ((av t a).toNat + m.toNat * size) % 2 ^ 72 →
    va % size = 0 →
    ∀ u, writeBytes t t.core.who va size ((sv t v).toNat % 2 ^ (8 * size))
        ((t.core.rdS v).l ||| (t.core.rdA a).l ||| t.core.cl) = .ok u →
      exec ins s = .next u

/-- The operation of an atomic on the access's width of n bytes (R105): old value, sd, s(d+1). -/
def Atomic (ins : Instr) (s : State) (d : BitVec 5) (a : BitVec 4) (l : BitVec 5) (w : BitVec 1) (f : Nat → Nat → Nat → Nat → Nat) : Prop :=
  ∀ i, infoOf ins = some i → Ready i s → ∀ t va n, t = joined i s → va = (av t a).toNat → n = (if w = 1 then 4 else 8) →
    va % n = 0 → landsOut t.core < 32 →
    ∀ t1 old ml, readVa t t.core.who va n .rmw = .ok (t1, old, ml) →
    ∀ u, writeVa t1 t1.core.who va n
        (f n old ((sv t d).toNat % 2 ^ (8 * n)) ((sv t (d + 1)).toNat % 2 ^ (8 * n)) % 2 ^ (8 * n)) (ml ||| readLabel t.core i.rd) 0 true = .ok u →
      exec ins s = .next (pushLand u (l.toNat + 4) (.s d (BitVec.ofNat 64 old)) (ml ||| ((t.core.rdA a).l ||| t.core.cl)) 0 d [va])

/-- The group captured for btK lies in half n (R107, R110): what a transfer through btK needs, with the fetch complete. -/
def Target (t : State) (k : BitVec 2) (n : Bool) (w : IWord) (ws : List IWord) : Prop :=
  (t.core.rdBt k).prepared = true ∧ (t.core.rdBt k).words = some (w :: ws) ∧ halfOf t.core (t.core.rdBt k).addr.v = some n
    ∧ fetching t.core k = false

/-- The fetch for btK is under way and its three ticks, frozen cycles among them, have not passed (R107, R108). -/
def Awaited (t : State) (k : BitVec 2) : Prop :=
  fetching t.core k = true ∧ t.core.tick + t.core.frozen < (t.core.rdBt k).ready

/-- The freeze has awaited the fetch for btK, and the group it captures lies in half n (R107, R108, R110). -/
def Fetched (t : State) (k : BitVec 2) (n : Bool) (w : IWord) (ws : List IWord) : Prop :=
  fetching t.core k = true ∧ (t.core.rdBt k).ready ≤ t.core.tick + t.core.frozen ∧ ((awaitBt t k).core.rdBt k).words = some (w :: ws)
    ∧ halfOf (awaitBt t k).core (t.core.rdBt k).addr.v = some n

/-- The state after a transfer through btK into half n (R108, R110, R114): the captured group is next, its half active,
the nest ended. -/
def moved (t : State) (k : BitVec 2) (n : Bool) (w : IWord) (ws : List IWord) : State :=
  { t with core := { t.core with
      active := n, pc := (t.core.rdBt k).addr.v, buf := some (w :: ws), nest := { t.core.nest with act := false }, mark := .transfer } }

/-- Node (l, j) of vfredsum's tree (R254). -/
def sumNode (c : Core) (k : VCtx) (a : BitVec 5) : Nat → Nat → Option Nat
  | 0, j => if k.act j then some (toF32 k (vEl c k a j)) else none
  | l + 1, j => (combineF k (sumNode c k a l (2 * j)) (sumNode c k a l (2 * j + 1))).1

end Sys2Proof.Machine
end

