-- ==== Sys2Proof/Certificates/Slice0/Obligations.lean ====
section
/-! DEFINITION. The statements for the provers: each `Obligations.X` says what instructions, events or the machine do, in the
terms of Safety.lean. A statement of several rules is the conjunction of the claims named above it. -/

open Sys2Proof Sys2Proof.Machine

/-- R91, R92, R94: the value each register-register word writes to sd, and the tick it is written at; in `resultS` the
label is that of the registers read and the context label (R91). -/
def Claims.RegisterWordsWriteTheirResult : Prop := ∀ (q : BitVec 4) (d a b : BitVec 5) (s : State),
  Gives (.add q d a b) s (fun i t => resultS t i d 1 (sv t a + sv t b))
  ∧ Gives (.sub q d a b) s (fun i t => resultS t i d 1 (sv t a - sv t b))
  ∧ Gives (.mul q d a b) s (fun i t => resultS t i d 3 (sv t a * sv t b))
  ∧ Gives (.mulh q d a b) s (fun i t => resultS t i d 4 (BitVec.ofInt 64 ((sv t a).toInt * (sv t b).toInt / 2 ^ 64)))
  ∧ Gives (.mulhn q d a b) s (fun i t => resultS t i d 4 (BitVec.ofNat 64 ((sv t a).toNat * (sv t b).toNat / 2 ^ 64)))
  ∧ Gives (.and q d a b) s (fun i t => resultS t i d 1 (sv t a &&& sv t b))
  ∧ Gives (.or q d a b) s (fun i t => resultS t i d 1 (sv t a ||| sv t b))
  ∧ Gives (.xor q d a b) s (fun i t => resultS t i d 1 (sv t a ^^^ sv t b))
  ∧ Gives (.andn q d a b) s (fun i t => resultS t i d 1 (sv t a &&& ~~~(sv t b)))
  ∧ Gives (.shl q d a b) s (fun i t => resultS t i d 1 (sv t a <<< ((sv t b).toNat % 64)))
  ∧ Gives (.shr q d a b) s (fun i t => resultS t i d 1 (sv t a >>> ((sv t b).toNat % 64)))
  ∧ Gives (.sar q d a b) s (fun i t => resultS t i d 1 ((sv t a).sshiftRight ((sv t b).toNat % 64)))
  ∧ Gives (.rotl q d a b) s (fun i t => resultS t i d 1 ((sv t a).rotateLeft ((sv t b).toNat % 64)))
  ∧ Gives (.min q d a b) s (fun i t => resultS t i d 1 (if (sv t a).toInt < (sv t b).toInt then sv t a else sv t b))
  ∧ Gives (.max q d a b) s (fun i t => resultS t i d 1 (if (sv t a).toInt < (sv t b).toInt then sv t b else sv t a))
  ∧ Gives (.minn q d a b) s (fun i t => resultS t i d 1 (if (sv t a).toNat < (sv t b).toNat then sv t a else sv t b))
  ∧ Gives (.maxn q d a b) s (fun i t => resultS t i d 1 (if (sv t a).toNat < (sv t b).toNat then sv t b else sv t a))

/-- R91: the counts of zeros and ones of sa. -/
def Claims.CountWordsWriteTheirResult : Prop := ∀ (q : BitVec 4) (d a : BitVec 5) (s : State),
  Gives (.clz q d a) s (fun i t => resultS t i d 1 (clzW (sv t a)))
  ∧ Gives (.ctz q d a) s (fun i t => resultS t i d 1 (ctzW (sv t a)))
  ∧ Gives (.popc q d a) s (fun i t => resultS t i d 1 (popcW (sv t a)))
  ∧ ∀ x : Word,
    (∀ n < 64, (∀ j, n < j → x.getLsbD j = false) → x.getLsbD n = true → clzW x = BitVec.ofNat 64 (63 - n))
    ∧ (∀ n < 64, (∀ j < n, x.getLsbD j = false) → x.getLsbD n = true → ctzW x = BitVec.ofNat 64 n)
    ∧ clzW 0 = 64 ∧ ctzW 0 = 64
    ∧ (popcW x).toNat = ((List.range 64).filter (fun j => x.getLsbD j)).length

/-- R91, R92, R94: division and remainder, their divisors of zero and −2^63 divided by −1, 18 ticks after issue. -/
def Claims.DivisionWritesItsResult : Prop := ∀ (q : BitVec 4) (d a b : BitVec 5) (s : State),
  Gives (.div q d a b) s (fun i t => resultS t i d 18 (divS (sv t a) (sv t b)))
  ∧ Gives (.divn q d a b) s (fun i t => resultS t i d 18 (divU (sv t a) (sv t b)))
  ∧ Gives (.rem q d a b) s (fun i t => resultS t i d 18 (remS (sv t a) (sv t b)))
  ∧ Gives (.remn q d a b) s (fun i t => resultS t i d 18 (remU (sv t a) (sv t b)))
  ∧ ∀ x y : Word,
    (y = 0 → divS x y = BitVec.allOnes 64 ∧ divU x y = BitVec.allOnes 64 ∧ remS x y = x ∧ remU x y = x)
    ∧ (x = BitVec.intMin 64 → y = BitVec.allOnes 64 → divS x y = x ∧ remS x y = 0)
    ∧ remS x y = x - y * divS x y ∧ remU x y = x - y * divU x y
    ∧ (y ≠ 0 → (divU x y).toNat = x.toNat / y.toNat)
    ∧ (y ≠ 0 → ¬(x = BitVec.intMin 64 ∧ y = BitVec.allOnes 64) → (divS x y).toInt = x.toInt.tdiv y.toInt)

/-- R48, R91, R93, R94: immediates, sign-extended but for shift distances; li and lic. -/
def Claims.ImmediateWordsWriteTheirResult : Prop := ∀ (q : BitVec 4) (d a : BitVec 5) (s : State),
  (∀ m : BitVec 9,
    Gives (.addi q d a m) s (fun i t => resultS t i d 1 (sv t a + m.signExtend 64))
    ∧ Gives (.andi q d a m) s (fun i t => resultS t i d 1 (sv t a &&& m.signExtend 64))
    ∧ Gives (.ori q d a m) s (fun i t => resultS t i d 1 (sv t a ||| m.signExtend 64))
    ∧ Gives (.xori q d a m) s (fun i t => resultS t i d 1 (sv t a ^^^ m.signExtend 64))
    ∧ Gives (.muli q d a m) s (fun i t => resultS t i d 3 (sv t a * m.signExtend 64)))
  ∧ (∀ m : BitVec 6,
    Gives (.shli q d a m) s (fun i t => resultS t i d 1 (sv t a <<< m.toNat))
    ∧ Gives (.shri q d a m) s (fun i t => resultS t i d 1 (sv t a >>> m.toNat))
    ∧ Gives (.sari q d a m) s (fun i t => resultS t i d 1 ((sv t a).sshiftRight m.toNat)))
  ∧ ∀ m : BitVec 15,
    Gives (.li q d m) s (fun i t => resultS t i d 1 (m.signExtend 64))
    ∧ Gives (.lic q d m) s (fun i t => resultS t i d 1 ((sv t d <<< 15) ||| m.setWidth 64))

/-- R91: every word of majors 0x00 and 0x01 writes sd with the result the table gives it. -/
def Obligations.IntegerWordsWriteTheirResult : Prop := Claims.RegisterWordsWriteTheirResult ∧ Claims.CountWordsWriteTheirResult ∧ Claims.DivisionWritesItsResult ∧ Claims.ImmediateWordsWriteTheirResult

/-- R52, R53, R54: the relations of compares with a register. -/
def Claims.RegisterComparesWriteTheirPair : Prop := ∀ (q : BitVec 4) (c k : BitVec 3) (a b : BitVec 5) (s : State),
  Compares (.cmpEq q c k a b) s c k (fun t => decide (sv t a = sv t b))
  ∧ Compares (.cmpNe q c k a b) s c k (fun t => decide (sv t a ≠ sv t b))
  ∧ Compares (.cmpLt q c k a b) s c k (fun t => decide ((sv t a).toInt < (sv t b).toInt))
  ∧ Compares (.cmpGe q c k a b) s c k (fun t => decide ((sv t b).toInt ≤ (sv t a).toInt))
  ∧ Compares (.cmpLtn q c k a b) s c k (fun t => decide ((sv t a).toNat < (sv t b).toNat))
  ∧ Compares (.cmpGen q c k a b) s c k (fun t => decide ((sv t b).toNat ≤ (sv t a).toNat))
  ∧ Compares (.cmpTand q c k a b) s c k (fun t => decide (sv t a &&& sv t b ≠ 0))
  ∧ Compares (.cmpTnand q c k a b) s c k (fun t => decide (sv t a &&& sv t b = 0))

/-- R52, R53, R54: the relations of compares with an immediate: signed relations extend its sign, unsigned ones its
zero, the bit tests name a bit. -/
def Claims.ImmediateComparesWriteTheirPair : Prop := ∀ (q : BitVec 4) (c k : BitVec 3) (a : BitVec 5) (s : State),
  (∀ m : BitVec 8,
    Compares (.cmpiEq q c k a m) s c k (fun t => decide (sv t a = m.signExtend 64))
    ∧ Compares (.cmpiNe q c k a m) s c k (fun t => decide (sv t a ≠ m.signExtend 64))
    ∧ Compares (.cmpiLt q c k a m) s c k (fun t => decide ((sv t a).toInt < m.toInt))
    ∧ Compares (.cmpiGe q c k a m) s c k (fun t => decide (m.toInt ≤ (sv t a).toInt))
    ∧ Compares (.cmpiLtn q c k a m) s c k (fun t => decide ((sv t a).toNat < m.toNat))
    ∧ Compares (.cmpiGen q c k a m) s c k (fun t => decide (m.toNat ≤ (sv t a).toNat)))
  ∧ ∀ m : BitVec 6,
    Compares (.cmpiTbit q c k a m) s c k (fun t => (sv t a).getLsbD m.toNat)
    ∧ Compares (.cmpiTnbit q c k a m) s c k (fun t => !(sv t a).getLsbD m.toNat)

/-- R52, R53, R54: every compare writes its pair by its relation and its combining type. -/
def Obligations.ComparesWriteTheirPair : Prop := Claims.RegisterComparesWriteTheirPair ∧ Claims.ImmediateComparesWriteTheirPair

/-- R95, R96: address words, modulo 2^72, at tick 1. -/
def Obligations.AddressWordsWriteTheirResult : Prop := ∀ (q d a e : BitVec 4) (r b : BitVec 5) (s : State),
  Gives (.aadd q d a b) s (fun i t => resultA t i d (av t a + (sv t b).signExtend 72))
  ∧ (∀ m : BitVec 10, Gives (.aaddi q d a m) s (fun i t => resultA t i d (av t a + m.signExtend 72)))
  ∧ Gives (.asub q r a e) s (fun i t => resultS t i r 1 ((av t a - av t e).setWidth 64))
  ∧ Gives (.aset q d b) s (fun i t => resultA t i d ((sv t b).setWidth 72))
  ∧ (∀ m : BitVec 8, Gives (.ahi q d m) s (fun i t => resultA t i d (m ++ (av t d).setWidth 64)))
  ∧ (∀ n : BitVec 6, Gives (.aalign q d a n) s (fun i t => resultA t i d ((av t a >>> n.toNat) <<< n.toNat)))
  ∧ Gives (.aget q r a 0) s (fun i t => resultS t i r 1 ((av t a).setWidth 64))
  ∧ Gives (.aget q r a 1) s (fun i t => resultS t i r 1 ((av t a >>> 64).setWidth 64))

/-- R97, R98: every scalar load. -/
def Claims.LoadsLandWhatMemoryHolds : Prop := ∀ (q a : BitVec 4) (d l m : BitVec 5) (s : State),
  Loads (.ldI8 q d a l m) s d a l m 1 (fun v => (BitVec.ofNat 8 v).signExtend 64)
  ∧ Loads (.ldI16 q d a l m) s d a l m 2 (fun v => (BitVec.ofNat 16 v).signExtend 64)
  ∧ Loads (.ldI32 q d a l m) s d a l m 4 (fun v => (BitVec.ofNat 32 v).signExtend 64)
  ∧ Loads (.ldD q d a l m) s d a l m 8 (BitVec.ofNat 64)
  ∧ Loads (.ldN8 q d a l m) s d a l m 1 (fun v => (BitVec.ofNat 8 v).setWidth 64)
  ∧ Loads (.ldN16 q d a l m) s d a l m 2 (fun v => (BitVec.ofNat 16 v).setWidth 64)
  ∧ Loads (.ldN32 q d a l m) s d a l m 4 (fun v => (BitVec.ofNat 32 v).setWidth 64)

/-- R97, R98: every scalar store. -/
def Claims.StoresWriteTheLowBytes : Prop := ∀ (q a : BitVec 4) (v : BitVec 5) (m : BitVec 10) (s : State),
  Stores (.stB q v a m) s v a m 1 ∧ Stores (.stH q v a m) s v a m 2
  ∧ Stores (.stW q v a m) s v a m 4 ∧ Stores (.stD q v a m) s v a m 8

/-- R97, R98: scalar loads and stores. -/
def Obligations.LoadsLandAndStoresWrite : Prop := Claims.LoadsLandWhatMemoryHolds ∧ Claims.StoresWriteTheLowBytes

/-- R99: an effective address that is not a multiple of the size raises misaligned (0x05), with the address in TR_ADDR. -/
def Obligations.MisalignedAccessesTrap : Prop := ∀ (q a : BitVec 4) (d l : BitVec 5) (m : BitVec 5) (n : BitVec 10) (s : State),
  let off (k size : Nat) (t : State) : Nat := ((av t a).toNat + k * size) % 2 ^ 72
  let bad (k size : Nat) (t : State) : Prop := off k size t % size ≠ 0
  let ld (ins : Instr) (size : Nat) : Prop :=
    TrapsIf ins s (bad m.toNat size) 5 (fun _ => accInfo size false false false) (off m.toNat size)
  let st (ins : Instr) (size : Nat) : Prop :=
    TrapsIf ins s (bad n.toNat size) 5 (fun _ => accInfo size true false false) (off n.toNat size)
  ld (.ldI16 q d a l m) 2 ∧ ld (.ldI32 q d a l m) 4 ∧ ld (.ldD q d a l m) 8 ∧ ld (.ldN16 q d a l m) 2 ∧ ld (.ldN32 q d a l m) 4
  ∧ st (.stH q d a n) 2 ∧ st (.stW q d a n) 4 ∧ st (.stD q d a n) 8

/-- R105: every atomic reads, writes and lands the old value. -/
def Obligations.AtomicsReplaceAndLandTheOldValue : Prop := ∀ (q a : BitVec 4) (d l : BitVec 5) (w : BitVec 1) (s : State),
  Atomic (.amoAdd q d a l w) s d a l w (fun _ o x _ => o + x)
  ∧ Atomic (.amoAnd q d a l w) s d a l w (fun _ o x _ => o &&& x)
  ∧ Atomic (.amoOr q d a l w) s d a l w (fun _ o x _ => o ||| x)
  ∧ Atomic (.amoXor q d a l w) s d a l w (fun _ o x _ => o ^^^ x)
  ∧ Atomic (.amoMin q d a l w) s d a l w (fun n o x _ => if sgn (8 * n) o < sgn (8 * n) x then o else x)
  ∧ Atomic (.amoMax q d a l w) s d a l w (fun n o x _ => if sgn (8 * n) o < sgn (8 * n) x then x else o)
  ∧ Atomic (.amoMinn q d a l w) s d a l w (fun _ o x _ => Nat.min o x)
  ∧ Atomic (.amoMaxn q d a l w) s d a l w (fun _ o x _ => Nat.max o x)
  ∧ Atomic (.amoSwap q d a l w) s d a l w (fun _ _ x _ => x)
  ∧ (d ≠ 31 → Atomic (.amoCas q d a l w) s d a l w (fun _ o x y => if o = y then x else o))

/-- R102 to R104: the typed accesses. A format is any but 0x7; the high nibble goes with 4-bit formats; of the rounding
modes 5 and 7 are excluded. -/
def Obligations.TypedAccessesConvert : Prop :=
  (∀ (q a f : BitVec 4) (d l : BitVec 5) (h : BitVec 1) (s : State), f ≠ 7 → nibOk f h = true →
    ∀ i, infoOf (.ldt q d a f h l) = some i → Ready i s → ∀ t va n, t = joined i s → va = (av t a).toNat → n = elBytes f.toNat →
      va % n = 0 → landsOut t.core < 32 →
      ∀ t1 v ml, readBytes t t.core.who va n .read = .ok (t1, v, ml) →
        exec (.ldt q d a f h l) s = .next (pushLand t1 (l.toNat + 4)
          (.s d (BitVec.ofNat 64 (typedIn f.toNat 64 (if fmtWidth f.toNat = 4 then v / 2 ^ (4 * h.toNat) % 16 else v))))
          (ml ||| ((t.core.rdA a).l ||| t.core.cl)) 0 d [va]))
  ∧ (∀ (q a f : BitVec 4) (v : BitVec 5) (r : BitVec 3) (s : State), f ≠ 7 → fmtWidth f.toNat ≠ 4 → r ≠ 5 → r ≠ 7 →
    ∀ i, infoOf (.stt q v a f 0 r) = some i → Ready i s → ∀ t va n x, t = joined i s → va = (av t a).toNat → n = elBytes f.toNat →
      x = typedOut f.toNat 64 (sv t v).toNat (rmOf r.toNat (t.core.fpMode.toNat % 8) false) →
      va % n = 0 →
      ∀ u, writeVa t t.core.who va n x.1 (readLabel t.core i.rd) 0 = .ok u →
        exec (.stt q v a f 0 r) s = .next (push u 2 (.flags (BitVec.ofNat 5 x.2)) (readLabel t.core i.rd)))
  ∧ (∀ (q a f : BitVec 4) (v : BitVec 5) (h : BitVec 1) (r : BitVec 3) (s : State), fmtWidth f.toNat = 4 → nibOk f h = true → r ≠ 5 → r ≠ 7 →
    ∀ i, infoOf (.stt q v a f h r) = some i → Ready i s → ∀ t va x, t = joined i s → va = (av t a).toNat →
      x = typedOut f.toNat 64 (sv t v).toNat (rmOf r.toNat (t.core.fpMode.toNat % 8) false) →
      ∀ t1 b ml, readVa t t.core.who va 1 .write = .ok (t1, b, ml) →
      ∀ u, writeVa t1 t1.core.who va 1 (if h = 0 then b / 16 * 16 + x.1 else b % 16 + 16 * x.1) (readLabel t.core i.rd) 0 = .ok u →
        exec (.stt q v a f h r) s = .next (push u 2 (.flags (BitVec.ofNat 5 x.2)) (readLabel t.core i.rd)))
  ∧ (∀ (q a f : BitVec 4) (d l : BitVec 5) (s : State), f ≠ 7 →
    ∀ i, infoOf (.vldt q d a f l) = some i → Ready i s → ∀ t va w, t = joined i s → va = (av t a).toNat → w = fmtWidth f.toNat →
      va % (min (16 * w) 64) = 0 → landsOut t.core < 32 →
      ∀ t1 v ml, readBytes t t.core.who va (16 * w) .read = .ok (t1, v, ml) →
        exec (.vldt q d a f l) s = .next (pushLand t1 (l.toNat + 4)
          (.v (physV t.core d) (BitVec.ofNat 4096 (pack 32 (fun j => blockIn f.toNat (v >>> (w * j) % 2 ^ w)) 128)) (BitVec.allOnes 4096) false)
          (ml ||| readLabel t.core i.rd) 3 d (lineVas va (16 * w))))
  ∧ (∀ (q a f : BitVec 4) (v : BitVec 5) (r : BitVec 3) (s : State), f ≠ 7 → r ≠ 5 → r ≠ 7 →
    ∀ i, infoOf (.vstt q v a f r) = some i → Ready i s → ∀ t va w, t = joined i s → va = (av t a).toNat → w = fmtWidth f.toNat →
      va % (min (16 * w) 64) = 0 →
      ∀ el : Nat → Nat × Nat, (∀ j, el j = blockOut f.toNat ((t.core.rdV v).v.toNat >>> (32 * j) % 2 ^ 32)
        (rmOf r.toNat (t.core.fpMode.toNat % 8) false)) →
      ∀ u, writeBytes t t.core.who va (16 * w) (pack w (fun j => (el j).1) 128) (readLabel t.core i.rd) = .ok u →
        exec (.vstt q v a f r) s = .next (push u 2 (.flags (BitVec.ofNat 5 ((List.range 128).foldl (fun acc j => acc ||| (el j).2) 0)))
          (readLabel t.core i.rd)))

/-- R107, R108, R110, R221: br and brl transfer through a prepared buffer, held while its fetch is under way and going on when the
fetch completes; brl also writes the address after its group; prep and prepa set the buffer at tick 1 and
capture its group at tick 3, but of a half that loads or has failed. That the cycles of a freeze count toward the fetch and a transfer that
needs the group captures it then, and that a prep or prepa drops what an earlier one of the buffer still fetches, are the model's
readings (logs 12 and 22). -/
def Claims.TransfersGoToTheirTarget : Prop := ∀ (q : BitVec 4) (k : BitVec 2) (s : State) (n : Bool) (w : IWord) (ws : List IWord),
  let prepared (i : Info) (t : State) (x : Addr) : State :=
    push { t with core := { t.core with pend := t.core.pend.filter (fun e => e.eff != .btFetch k) } } 1
      (.btSet k x (t.core.tick + 3)) (readLabel t.core i.rd)
  let linked (i : Info) (t : State) (d : BitVec 4) : State :=
    push t 1 (.a d (t.core.grp.start + BitVec.ofNat 72 (4 * t.core.grp.count))) (readLabel t.core i.rd)
  GivesIf (.br q k) s (fun t => Target t k n w ws) (fun _ t => moved t k n w ws)
  ∧ GivesIf (.br q k) s (fun t => Fetched t k n w ws) (fun _ t => moved (awaitBt t k) k n w ws)
  ∧ (∀ i, infoOf (.br q k) = some i → Ready i s → Awaited (joined i s) k → exec (.br q k) s = .next (heldOne s false none))
  ∧ (∀ d : BitVec 4, GivesIf (.brl q k d) s (fun t => Target t k n w ws) (fun i t => moved (linked i t d) k n w ws)
      ∧ GivesIf (.brl q k d) s (fun t => Fetched t k n w ws) (fun i t => moved (awaitBt (linked i t d) k) k n w ws)
      ∧ (∀ i, infoOf (.brl q k d) = some i → Ready i s → Awaited (joined i s) k → exec (.brl q k d) s = .next (heldOne s false none)))
  ∧ (∀ m : BitVec 16,
      GivesIf (.prep q k m) s (fun t => unloaded t.core (t.core.grp.word + (m.signExtend 72 <<< 2)) = false)
        (fun i t => push (prepared i t (t.core.grp.word + (m.signExtend 72 <<< 2))) 3 (.btFetch k) 0)
      ∧ GivesIf (.prep q k m) s (fun t => unloaded t.core (t.core.grp.word + (m.signExtend 72 <<< 2)) = true)
        (fun i t => prepared i t (t.core.grp.word + (m.signExtend 72 <<< 2))))
  ∧ (∀ a : BitVec 4,
      GivesIf (.prepa q k a) s (fun t => (av t a).toNat % 4 = 0 ∧ unloaded t.core (av t a) = false)
        (fun i t => push (prepared i t (av t a)) 3 (.btFetch k) 0)
      ∧ GivesIf (.prepa q k a) s (fun t => (av t a).toNat % 4 = 0 ∧ unloaded t.core (av t a) = true) (fun i t => prepared i t (av t a)))
  ∧ (∀ a : BitVec 4, TrapsIf (.prepa q k a) s (fun t => (av t a).toNat % 4 ≠ 0) 5
      (fun _ => accInfo 4 false false true) (fun t => (av t a).toNat))

/-- R108: brv over the c bits of its mask: equal bits decide, unequal ones raise non-uniform branch (0x04); a transfer is held
while the fetch of its buffer is under way and goes on when it completes, the cycles of the freeze counting toward it and the group
captured then, which are the model's readings (log 12). -/
def Claims.MaskBranchesNeedEqualBits : Prop :=
  ∀ (q : BitVec 4) (k : BitVec 2) (m : BitVec 3) (w : BitVec 2) (s : State) (n : Bool) (x : IWord) (ws : List IWord),
  let all (v : Bool) (t : State) : Prop := ∀ j < 128 * 2 ^ w.toNat, (t.core.rdM m).v.getLsbD j = v
  (∀ b : BitVec 1,
    GivesIf (.brv q k m w b) s (fun t => all (b == 0) t ∧ Target t k n x ws) (fun _ t => moved t k n x ws)
    ∧ GivesIf (.brv q k m w b) s (fun t => all (b == 0) t ∧ Fetched t k n x ws) (fun _ t => moved (awaitBt t k) k n x ws)
    ∧ ∀ i, infoOf (.brv q k m w b) = some i → Ready i s → all (b == 0) (joined i s) → Awaited (joined i s) k →
        exec (.brv q k m w b) s = .next (heldOne s false none))
  ∧ GivesIf (.brv q k m w 0) s (all false) (fun _ t => t)
  ∧ GivesIf (.brv q k m w 1) s (all true) (fun _ t => t)
  ∧ ∀ b : BitVec 1, TrapsIf (.brv q k m w b) s (fun t => ¬all true t ∧ ¬all false t) 4
      (fun _ => m.toNat + (w.toNat <<< 3)) (fun t => t.core.grp.word.toNat)

/-- R35, R112, R113, R114: lb.nest starts a nest whose body lies in the active half, or continues after the body when a trip
count is 0; a body that leaves the half is an illegal encoding (0x01) wherever the word stands, and otherwise the word is
illegal (0x02) inside a nest; lb.exit ends a nest after its group and outside one does nothing. -/
def Claims.NestsStartAndEnd : Prop := ∀ (q l : BitVec 4) (d : BitVec 3) (g : BitVec 6) (s : State),
  (d ≠ 0 → d ≠ 7 → g.toNat + 5 * d.toNat + 1 ≤ 64 →
    (∀ e, GivesIf (.lbNest q l d g) s
      (fun t => t.core.nest.act = false ∧ bodyEnd t.core (afterGroup t.core) (l.toNat + 1) = some e
        ∧ ∀ j < d.toNat, (t.core.rdG (g + BitVec.ofNat 6 j)).v.toNat % 2 ^ 32 ≠ 0)
      (fun _ t => { t with core := { t.core with nest :=
        { act := true, len1 := l, d := d, g := g, body := afterGroup t.core, next := 0, idx := [0, 0, 0, 0, 0, 0] } } }))
    ∧ (∀ e, GivesIf (.lbNest q l d g) s
      (fun t => t.core.nest.act = false ∧ bodyEnd t.core (afterGroup t.core) (l.toNat + 1) = some e
        ∧ ∃ j < d.toNat, (t.core.rdG (g + BitVec.ofNat 6 j)).v.toNat % 2 ^ 32 = 0)
      (fun _ t => { t with core := { t.core with pc := e, buf := none, mark := .transfer } }))
    ∧ (∀ e, TrapsIf (.lbNest q l d g) s
      (fun t => t.core.nest.act = true ∧ bodyEnd t.core (afterGroup t.core) (l.toNat + 1) = some e) 2 (fun t => illegalInfo t 3 0)
      (fun t => t.core.grp.word.toNat))
    ∧ TrapsIf (.lbNest q l d g) s (fun t => bodyEnd t.core (afterGroup t.core) (l.toNat + 1) = none) 1
      (fun t => 6 + (((t.core.grp.word - t.core.grp.start).toNat / 4) <<< 8)) (fun t => t.core.grp.start.toNat))
  ∧ GivesIf (.lbExit q) s (fun t => t.core.nest.act = false) (fun _ t => t)
  ∧ (∀ e, GivesIf (.lbExit q) s
      (fun t => t.core.nest.act = true ∧ bodyEnd t.core t.core.nest.body (t.core.nest.len1.toNat + 1) = some e)
      (fun _ t => { t with core := { t.core with pc := e, buf := none, nest := { t.core.nest with act := false }, mark := .transfer } }))

/-- R35, R107 to R114, R221: branches through prepared buffers, mask branches, hardware loops; the model's readings of a fetch under way
(logs 12 and 22) are named at the clauses. -/
def Obligations.BranchesAndNestsMoveThePc : Prop := Claims.TransfersGoToTheirTarget ∧ Claims.MaskBranchesNeedEqualBits ∧ Claims.NestsStartAndEnd

/-- R116, R181, R183: in a model that performs every access when it issues, a fence and an acquire find every earlier access
performed and only let their group issue; a release also writes back the stash lines of the regions bound to its object; the
address of a synchronisation object is translated as a read, which sets its page's A bit (R153). Log 2 says why nothing
waits. -/
def Obligations.FencesFindEverythingPerformed : Prop := ∀ (q o : BitVec 4) (c : BitVec 3) (k : BitVec 2) (s : State),
  (c < 6 → k ≠ 3 → Gives (.fence q c k) s (fun _ t => t))
  ∧ (c < 6 → ∀ t1 x,
      GivesIf (.acq q c o) s (fun t => (av t o).toNat % 8 = 0
        ∧ translateMark t (av t o).toNat t.core.who.vf t.core.who.part t.core.who.prv 8 .read = .ok (t1, x)) (fun _ _ => t1)
      ∧ GivesIf (.rel q c o) s (fun t => (av t o).toNat % 8 = 0
        ∧ translateMark t (av t o).toNat t.core.who.vf t.core.who.part t.core.who.prv 8 .read = .ok (t1, x)) (fun _ t => releaseLines t1 (av t o)))
  ∧ TrapsIf (.acq q c o) s (fun t => c < 6 ∧ (av t o).toNat % 8 ≠ 0) 5 (fun _ => accInfo 8 false false false) (fun t => (av t o).toNat)

/-- R117: the binding table: an entry of the same base and length takes the new object; an overlap is busy (3); a table
of 16 is full (1); otherwise the entry is added. unbind removes the entry of that base. That a region bound past 2^72 does not wrap and
one of length 0 overlaps none, as `meeting` says, is the model's choice (log 22). -/
def Obligations.BindingsFollowTheirTable : Prop := ∀ (q a o : BitVec 4) (b : BitVec 5) (s : State),
  let same (t : State) (e : Bind) : Prop := e.base = av t a ∧ e.len = sv t b
  let meeting (t : State) (e : Bind) : Prop :=
    0 < (sv t b).toNat ∧ 0 < e.len.toNat ∧ (av t a).toNat < e.base.toNat + e.len.toNat ∧ e.base.toNat < (av t a).toNat + (sv t b).toNat
  let ends (l : State → List Bind) (x : Word) (p : State → Prop) : Prop :=
    GivesIf (.bind q a b o) s p (fun i t => resultS { t with core := { t.core with binds := l t } } i b 1 x)
  ends (fun t => t.core.binds.map (fun e => if e.base = av t a ∧ e.len = sv t b then { e with obj := av t o } else e)) 0
      (fun t => ∃ e ∈ t.core.binds, same t e)
  ∧ ends (fun t => t.core.binds) 3 (fun t => (∀ e ∈ t.core.binds, ¬same t e) ∧ ∃ e ∈ t.core.binds, meeting t e)
  ∧ ends (fun t => t.core.binds) 1 (fun t => (∀ e ∈ t.core.binds, ¬same t e ∧ ¬meeting t e) ∧ 16 ≤ t.core.binds.length)
  ∧ ends (fun t => t.core.binds ++ [⟨av t a, sv t b, av t o⟩]) 0
      (fun t => (∀ e ∈ t.core.binds, ¬same t e ∧ ¬meeting t e) ∧ t.core.binds.length < 16)
  ∧ Gives (.unbind q a) s (fun _ t => { t with core := { t.core with binds := t.core.binds.filter (fun e => e.base != av t a) } })

/-- R118, R119: binit; bwait takes L to P when they differ, raises barrier misuse (0x11) on ERR and holds otherwise. -/
def Claims.BarrierUnitsWait : Prop := ∀ (q n : BitVec 4) (a : BitVec 5) (s : State),
  let u (t : State) : Word := (t.core.rdB n).v
  Gives (.binit q n a) s (fun i t => push t 1 (.unit n ((sv t a) &&& 0xFFFF)) (readLabel t.core i.rd))
  ∧ GivesIf (.bwait q n) s (fun t => (u t).getLsbD 34 = false ∧ (u t).getLsbD 32 ≠ (u t).getLsbD 33)
      (fun _ t => { t with core := t.core.wrB n (u t ^^^ (1#64 <<< 33)) ((t.core.rdB n).l ||| t.core.cl) })
  ∧ TrapsIf (.bwait q n) s (fun t => (u t).getLsbD 34 = true) 0x11
      (fun t => n.toNat + ((t.coreNo % 4) <<< 4) + 64) (fun _ => n.toNat)
  ∧ ∀ i, infoOf (.bwait q n) = some i → Ready i s → (u (joined i s)).getLsbD 34 = false →
      (u (joined i s)).getLsbD 32 = (u (joined i s)).getLsbD 33 → exec (.bwait q n) s = .next (heldOne s true none)

/-- R119: the arrival, word for word: CNT 0 sets ERR, else ARR counts and at CNT returns to 0, P turns, and ERR is set
when the last completion was not consumed. -/
def Claims.ArrivalCountsAtItsUnit : Prop := ∀ (c : Core) (n : BitVec 4) (l : Label),
  c.run.isSome = true →
  let u := (c.rdB n).v
  let v := ((arriveAt c n c.cont.vf l).rdB n).v
  (u.toNat % 65536 = 0 → v = u ||| (1#64 <<< 34))
  ∧ (u.toNat % 65536 ≠ 0 → (u.toNat / 65536 % 65536 + 1) % 65536 ≠ u.toNat % 65536 →
      v.toNat / 65536 % 65536 = (u.toNat / 65536 % 65536 + 1) % 65536 ∧ v.toNat % 65536 = u.toNat % 65536
        ∧ v.toNat / 2 ^ 32 = u.toNat / 2 ^ 32)
  ∧ (u.toNat % 65536 ≠ 0 → (u.toNat / 65536 % 65536 + 1) % 65536 = u.toNat % 65536 →
      v.toNat / 65536 % 65536 = 0 ∧ v.toNat % 65536 = u.toNat % 65536 ∧ v.getLsbD 32 = !u.getLsbD 32 ∧ v.getLsbD 33 = u.getLsbD 33
        ∧ v.getLsbD 34 = (u.getLsbD 34 || (u.getLsbD 32 != u.getLsbD 33)))
  ∧ (∀ m, m ≠ n → (arriveAt c n c.cont.vf l).rdB m = c.rdB m)
  ∧ ∀ vf, vf ≠ c.cont.vf → arriveAt c n vf l = c

/-- R121, R122, R203: the tag waits, with `.s` (sus 1) and without: they issue when their condition holds and no failed command
is among the tags they observe; a failed one raises copy fault (0x0F) with the fault registers, which are cleared with the
observed CP_TERR bits; otherwise they wait, and `.s` in a group without a safe is illegal. -/
def Claims.TagWaitsIssueOnTheirCondition : Prop := ∀ (q : BitVec 4) (sus : BitVec 1) (d a : BitVec 5) (s : State),
  let x (t : State) : Word := t.core.ctx.tags.v &&& sv t a
  let may (t : State) : Prop := sus = 0 ∨ t.core.grp.safe ≠ none
  let fine (t : State) : Prop := may t ∧ sv t a &&& t.core.ctx.terr = 0
  let wait (ins : Instr) (kind : Nat) (holds : State → Prop) : Prop :=
    Waits ins s s sus (fun t => may t ∧ ¬holds t) 2 (fun _ => kind) (fun t => (sv t a).toNat)
    ∧ TrapsIf ins s (fun t => sus = 1 ∧ t.core.grp.safe = none) 2 (fun t => illegalInfo t 1 0) (fun t => t.core.grp.word.toNat)
    ∧ ∀ i, infoOf ins = some i → Ready i s → may (joined i s) → holds (joined i s) →
        ∀ e c, e = sv (joined i s) a &&& s.core.ctx.terr → e ≠ 0 → c = s.core.ctx →
        exec ins s = .next (takeTrap { s with core := s.core.setCtx s.core.cur { c with terr := c.terr &&& ~~~e, finfo := 0, faddr := 0 } }
          0xF c.finfo.toNat c.faddr.toNat)
  GivesIf (.twAny q sus d a) s (fun t => x t ≠ 0 ∧ fine t) (fun i t => resultS t i d 1 (x t))
  ∧ GivesIf (.twAll q sus d a) s (fun t => x t = sv t a ∧ fine t) (fun i t => resultS t i d 1 (sv t a))
  ∧ (∀ n < 64, GivesIf (.twFfr q sus d a) s
      (fun t => (x t).getLsbD n = true ∧ (∀ j < n, (x t).getLsbD j = false) ∧ fine t)
      (fun i t => push (resultS t i d 1 (BitVec.ofNat 64 n)) 1 (.tagsClr t.core.cur (1#64 <<< n)) (readLabel t.core i.rd)))
  ∧ wait (.twAny q sus d a) 0 (fun t => x t ≠ 0) ∧ wait (.twAll q sus d a) 1 (fun t => x t = sv t a)
  ∧ wait (.twFfr q sus d a) 2 (fun t => x t ≠ 0)

/-- R121, R122, R210: mwait, with `.s` and without, issues when the phase bit of the object equals sb<0>, and the object's label
joins the context label (R466); a barrier in error raises barrier misuse (0x11), a misaligned one misaligned (0x05); otherwise it
waits, and keeps the A bit that its walk set (R153), and `.s` in a group without a safe is illegal. -/
def Claims.ObjectWaitsIssueOnTheirPhase : Prop := ∀ (q o : BitVec 4) (sus : BitVec 1) (b : BitVec 5) (s : State),
  let may (t : State) : Prop := sus = 0 ∨ t.core.grp.safe ≠ none
  TrapsIf (.mwait q sus o b) s (fun t => sus = 1 ∧ t.core.grp.safe = none) 2 (fun t => illegalInfo t 1 0) (fun t => t.core.grp.word.toNat)
  ∧ TrapsIf (.mwait q sus o b) s (fun t => may t ∧ (av t o).toNat % 8 ≠ 0) 5 (fun _ => accInfo 8 false false false) (fun t => (av t o).toNat)
  ∧ ∀ t1 w l,
    let reads (t : State) : Prop := may t ∧ (av t o).toNat % 8 = 0 ∧ readObj t t.core.who (av t o).toNat = .ok (t1, w, l)
    TrapsIf (.mwait q sus o b) s (fun t => reads t ∧ w / 2 % 2 = 1) 0x11 (fun _ => 64) (fun t => (av t o).toNat)
    ∧ GivesIf (.mwait q sus o b) s (fun t => reads t ∧ w / 2 % 2 = 0 ∧ w % 2 = (sv t b).toNat % 2)
        (fun _ _ => { t1 with core := t1.core.joinCl l })
    ∧ Waits (.mwait q sus o b) s (markSpan s s.core.who (av s o).toNat 8 .read) sus (fun t => reads t ∧ w / 2 % 2 = 0 ∧ w % 2 ≠ (sv t b).toNat % 2) 1
        (fun t => (sv t b).toNat % 2) (fun t => (av t o).toNat)

/-- R121, R122, R203, R210: waits on tags and on objects. -/
def Obligations.WaitsIssueOnTheirCondition : Prop := Claims.TagWaitsIssueOnTheirCondition ∧ Claims.ObjectWaitsIssueOnTheirPhase

/-- R123, R124, R125: safe points and the words that leave: with the slice ended safe writes the record back ready (ST 1)
at its own group; yield and suspend write it back ready and waiting (ST 1 and 3, the latter with WK 7 and the deadline sa)
at the following group; retire ends it. Each leaves the core idle with nothing in flight. In a quad-lock yield and suspend are illegal
(R129), as they are in a group without a safe. -/
def Claims.LeavingWordsWriteTheRecordBack : Prop := ∀ (q : BitVec 4) (n : BitVec 16) (a : BitVec 5) (s : State),
  (n ≠ 65535 → GivesIf (.safe q n) s (fun t => t.core.cont.ended = false) (fun _ t => t))
  ∧ (n ≠ 65535 → GivesIf (.safe q n) s (fun t => t.core.cont.ended = true ∧ t.core.locked = false ∧ readyRoom t (dieNo t) = true)
      (fun _ _ => safeSuspend s s.core.pc n 1 0 0 0 false))
  ∧ GivesIf (.yield q) s (fun t => t.core.grp.safe = some n ∧ t.core.locked = false ∧ readyRoom t (dieNo t) = true)
      (fun _ t => safeSuspend t t.core.grp.next n 1 0 0 0 false)
  ∧ GivesIf (.suspend q a) s (fun t => t.core.grp.safe = some n ∧ t.core.locked = false)
      (fun _ t => safeSuspend t t.core.grp.next n 3 7 0 (sv t a).toNat false)
  ∧ Gives (.retire q) s (fun _ t => retireCore t t.core.grp.next)
  ∧ (∀ t, (retireCore t t.core.grp.next).core.run = none ∧ (retireCore t t.core.grp.next).core.pend = [])
  ∧ ∀ ins, (ins = .yield q ∨ ins = .suspend q a) →
      TrapsIf ins s (fun t => t.core.grp.safe = some n ∧ t.core.locked = true) 2 (fun t => illegalInfo t 4 0) (fun t => t.core.grp.word.toNat)
      ∧ TrapsIf ins s (fun t => t.core.grp.safe = none) 2 (fun t => illegalInfo t 2 0) (fun t => t.core.grp.word.toNat)

/-- R126: svc and brk raise supervisor call (0x0B) and breakpoint (0x0A), with the immediate in bits 15:0 of TR_INFO and
the group's word count in bits 18:16. -/
def Obligations.CallsTakeTheirException : Prop := ∀ (q : BitVec 4) (n : BitVec 16) (s : State),
  TrapsIf (.svc q n) s (fun _ => True) 0xB (fun t => n.toNat + (t.core.grp.count <<< 16)) (fun t => t.core.grp.word.toNat)
  ∧ TrapsIf (.brk q n) s (fun _ => True) 0xA (fun t => n.toNat + (t.core.grp.count <<< 16)) (fun t => t.core.grp.word.toNat)

/-- R44, R131, R132, R466: sysrd writes the register's value to sd at tick 2, with its label; syswr takes effect at tick 1, and
a write of FP_MODE or FP_VCFG joins the label of its operand to the context label at once. A number whose line names the access
and whose privilege suffices is assumed there, DS_SHVAL through another partition's VF and writes that R194, R297 and R355 hold
aside. Of both words an unassigned number is an illegal instruction (0x02), and a kind of access that its line does not name or a
privilege below it a privilege trap (0x03); these follow from the word and the privilege alone, so that a false predicate
exempts from none of them. -/
def Obligations.SystemRegistersAreReadAndWritten : Prop := ∀ (q : BitVec 4) (d a : BitVec 5) (n : BitVec 12) (s : State),
  let unassigned (ins : Instr) : Prop := exec ins s = .next (takeTrap s 2 (illegalInfo s 0 0) s.core.grp.word.toNat)
  let below (ins : Instr) : Prop :=
    exec ins s = .next (takeTrap s 3 (s.core.grp.raw.toNat + (n.toNat <<< 32)) s.core.grp.word.toNat)
  (∀ p w, sysPriv n.toNat = some (some p, w) → p ≤ s.core.cont.prv → otherVf s n = false →
    Gives (.sysrd q d n) s (fun _ t => push t 2 (.s d (sysRead t n.toNat).v) ((sysRead t n.toNat).l ||| t.core.cl)))
  ∧ (∀ r p, sysPriv n.toNat = some (r, some p) → p ≤ s.core.cont.prv → otherVf s n = false →
    GivesIf (.syswr q a n) s (fun t => sysHold t n.toNat (sv t a) = none ∧ n ≠ 0x800 ∧ n ≠ 0x804)
      (fun _ t => push t 1 (.sysw n (sv t a)) ((t.core.rdS a).l ||| t.core.cl))
    ∧ GivesIf (.syswr q a n) s (fun t => sysHold t n.toNat (sv t a) = none ∧ (n = 0x800 ∨ n = 0x804))
      (fun _ t => push { t with core := t.core.joinCl (t.core.rdS a).l } 1 (.sysw n (sv t a))
        ((t.core.rdS a).l ||| (t.core.joinCl (t.core.rdS a).l).cl)))
  ∧ (sysPriv n.toNat = none → unassigned (.sysrd q d n) ∧ unassigned (.syswr q a n))
  ∧ (∀ w, sysPriv n.toNat = some (none, w) → below (.sysrd q d n))
  ∧ (∀ r, sysPriv n.toNat = some (r, none) → below (.syswr q a n))
  ∧ (∀ p w, sysPriv n.toNat = some (some p, w) → s.core.cont.prv < p → below (.sysrd q d n))
  ∧ ∀ r p, sysPriv n.toNat = some (r, some p) → s.core.cont.prv < p → below (.syswr q a n)

/-- R127: rfe answers busy (3) for a record that is not suspended by fault and, at H, for one of H or F or of another
partition; otherwise, at F and at H for a record of U of its own partition, full (1) or 0, and then the record is ready (ST 1) at the
tail of its stage's queue. A record in a poisoned line is a machine check (R503). That a record whose STG names no stage of its
partition answers full is the model's choice (log 23). -/
def Obligations.ReturnFromExceptionAnswers : Prop := ∀ (q a : BitVec 4) (d l : BitVec 5) (s : State),
  (∀ i, infoOf (.rfe q a d l) = some i → Ready i s → ∀ t va, t = joined i s → va = (av t a).toNat → va % 64 = 0 →
    ∀ t1 x, translateMark t va t.core.who.vf t.core.who.part t.core.who.prv 64 .rmw = .ok (t1, x) →
      landsOut t1.core < 32 → isMem x.pa = true →
      (isPoisoned t1 x.pa 64 = false → exec (.rfe q a d l) s =
        .next (pushLand (rfeAt t1 x.pa).1 (l.toNat + 4) (.s d (BitVec.ofNat 64 (rfeAt t1 x.pa).2))
          (readLabel (rfeAt t1 x.pa).1.core i.rd) 0 d [va]))
      ∧ (isPoisoned t1 x.pa 64 = true → exec (.rfe q a d l) s = .next (takeTrap s 0x15 0 x.pa)))
  ∧ ∀ (t : State) (pa : Nat),
    let r := readRecord t pa
    (recSt r ≠ 4 → rfeAt t pa = (t, 3))
    ∧ (t.core.cont.prv = 1 → 1 ≤ bits (rf r 0xA 1) 5 4 ∨ bits (rf r 0x1B 2) 12 9 ≠ t.core.cont.part → rfeAt t pa = (t, 3))
    ∧ (recSt r = 4 → (t.core.cont.prv = 2
          ∨ (t.core.cont.prv = 1 ∧ bits (rf r 0xA 1) 5 4 = 0 ∧ bits (rf r 0x1B 2) 12 9 = t.core.cont.part)) →
        (ringAppend t (bits (rf r 0x1B 2) 12 9) (rf r 0x29 2) pa 0 = none → rfeAt t pa = (t, 1))
        ∧ ∀ u, ringAppend t (bits (rf r 0x1B 2) 12 9) (rf r 0x29 2) pa 0 = some u → rfeAt t pa = (writeRecord u pa (setSt r 1 0 0 0), 0))

/-- R128: qlock: 0 when locked already, busy (3) beside another VF, and when the other three cores hold one the quad is
locked and sd receives 0 at tick 1; else the group is held. qfree splits a locked domain after the tick of its group. -/
def Claims.QuadLockJoinsTheQuad : Prop := ∀ (q : BitVec 4) (d : BitVec 5) (s : State),
  let rest (t : State) : List Nat := (quadCores t.coreNo).filter (· != t.coreNo)
  let with_ (t : State) : State := { t with core := t.core.joinCl (othersCl t) }
  let other (t : State) : Prop := ∃ n ∈ rest t, (coreAt t n).run.isSome = true ∧ (coreAt t n).cont.vf ≠ t.core.cont.vf
  GivesIf (.qlock q d) s (fun t => t.core.locked = true) (fun _ t => push (with_ t) 1 (.s d 0) (with_ t).core.cl)
  ∧ GivesIf (.qlock q d) s (fun t => t.core.locked = false ∧ other t) (fun _ t => push (with_ t) 1 (.s d 3) (with_ t).core.cl)
  ∧ (∀ i, infoOf (.qlock q d) = some i → Ready i s → (joined i s).core.locked = false → ¬other (joined i s) →
      (∀ n ∈ rest s, (coreAt (joined i s) n).wantsLock = true) →
      ∃ u, exec (.qlock q d) s = .next (push u 1 (.s d 0) (with_ (joined i s)).core.cl)
        ∧ u = { with_ (joined i s) with core := u.core, others := u.others }
        ∧ (∀ n ∈ quadCores s.coreNo, coreAt u n = { coreAt (with_ (joined i s)) n with locked := true, wantsLock := false })
        ∧ ∀ n, n ∉ quadCores s.coreNo → coreAt u n = coreAt s n)
  ∧ (∀ i, infoOf (.qlock q d) = some i → Ready i s → (joined i s).core.locked = false → ¬other (joined i s) →
      (∃ n ∈ rest s, (coreAt (joined i s) n).wantsLock = false) →
      ∃ t, exec (.qlock q d) s = .next t ∧ t.core.mark = .held ∧ t.core.wantsLock = true ∧ t.core.pc = s.core.pc)
  ∧ GivesIf (.qfree q) s (fun t => t.core.locked = true) (fun _ t => push t 1 .unlock 0)
  ∧ GivesIf (.qfree q) s (fun t => t.core.locked = false) (fun _ t => t)

/-- R123 to R125, R128, R129: words that leave a core, and the quad-lock. -/
def Obligations.LeavingWordsAndQuadLock : Prop := Claims.LeavingWordsWriteTheRecordBack ∧ Claims.QuadLockJoinsTheQuad

/-- R120: arv with slot code 5 arrives when its group issues, at its own unit or at one of its quad; one tied to a load or
to a scalar result arrives when that lands. -/
def Claims.TiedArrivalsFollowTheirWord : Prop := ∀ (q n : BitVec 4) (r : BitVec 1) (c : BitVec 2) (s : State),
  (r = 1 ∨ c = 0) →
  let a (t : State) (res : Bool) : Arrival := ⟨res, r == 1, c, n, t.core.cont.vf⟩
  Gives (.arv q 5 r c n) s (fun _ t => push t 1 (.arrive (a t false)) t.core.cl)
  ∧ (∀ x l, x.ret = .land l → GivesIf (.arv q 0 r c n) s
      (fun t => s.core.grp.members.find? (fun i => i.cls == .a) = some x ∧ predOn t.core x = true)
      (fun _ t => push t (l.toNat + 4) (.arrive (a t true)) t.core.cl))
  ∧ (∀ x k, x.ret = .result k → GivesIf (.arv q 2 r c n) s
      (fun t => s.core.grp.members.find? (fun i => i.cls == .v) = some x ∧ predOn t.core x = true)
      (fun _ t => push t k (.arrive (a t true)) t.core.cl))

/-- R118, R119, R120: barrier units, what arrives at them and what waits on them. -/
def Obligations.BarrierUnitsCountAndWait : Prop := Claims.BarrierUnitsWait ∧ Claims.ArrivalCountsAtItsUnit ∧ Claims.TiedArrivalsFollowTheirWord

/-- R239: contiguous, strided, indexed and broadcast vector loads. -/
def Claims.VectorLoadsLandActiveElements : Prop :=
  ∀ (z : BitVec 1) (m : BitVec 3) (d l : BitVec 5) (a : BitVec 4) (g : BitVec 2) (s : State),
  let eb (k : VCtx) : Nat := max 1 (k.w / 8)
  VLoads (.vld z m d a l) s false z m d l (fun _ => 512) etAny (bad64 a) (fun c k j => (c.rdA a).v.toNat + k.w * j / 8)
  ∧ VLoads (.vlds z m d a l g) s false z m d l eb etByte (badStride a g)
      (fun c _ j => wrap 72 ((c.rdA a).v.toNat + (j : Int) * (c.rdG (60 + g.setWidth 6)).v.toInt))
  ∧ VLoads (.vldx z m d a l) s false z m d l eb etByte (badEl a) (fun c k j => (c.rdA a).v.toNat + vEl c k d j * (k.w / 8))
  ∧ VLoads (.vldb z m d a l) s true z m d l eb etByte (badEl a) (fun c _ _ => (c.rdA a).v.toNat)

/-- R240: contiguous, strided and indexed vector stores. -/
def Claims.VectorStoresWriteActiveElements : Prop :=
  ∀ (m : BitVec 3) (v b : BitVec 5) (a : BitVec 4) (g : BitVec 2) (s : State),
  let eb (k : VCtx) : Nat := max 1 (k.w / 8)
  VStores (.vst m v a) s m v (fun _ => 512) etAny (bad64 a) (fun c k j => (c.rdA a).v.toNat + k.w * j / 8)
  ∧ VStores (.vsts m v a g) s m v eb etByte (badStride a g)
      (fun c _ j => wrap 72 ((c.rdA a).v.toNat + (j : Int) * (c.rdG (60 + g.setWidth 6)).v.toInt))
  ∧ VStores (.vstx m v a b) s m v eb etByte (badEl a) (fun c k j => (c.rdA a).v.toNat + vEl c k b j * (k.w / 8))

/-- R239, R240: vector loads and stores. -/
def Obligations.VectorAccessesMoveActiveElements : Prop := Claims.VectorLoadsLandActiveElements ∧ Claims.VectorStoresWriteActiveElements

/-- R242: integer words, element by element, exact results taken modulo 2^w; a signed or unsigned reading is ET's. -/
def Obligations.VectorIntegerWordsComputeEachElement : Prop :=
  ∀ (z x : BitVec 1) (m : BitVec 3) (d a b : BitVec 5) (s : State),
  let bin (ins : Instr) (n : Nat) (f : VCtx → Nat → Nat → Int) : Prop :=
    Lanes ins s z m d n etInt (fun c k j => (f k (vEl c k a j) (vElB c k b x j) % (2 ^ k.w : Nat)).toNat)
  let clip (k : VCtx) (v : Int) : Int := max (intMin k.et) (min (intMax k.et) v)
  bin (.vadd z m d a b x) 2 (fun _ p q => (p : Int) + q)
  ∧ bin (.vsub z m d a b x) 2 (fun _ p q => (p : Int) - q)
  ∧ bin (.vmul z m d a b x) 4 (fun _ p q => (p : Int) * q)
  ∧ bin (.vmulh z m d a b x) 4 (fun k p q => vInt k p * vInt k q / (2 ^ k.w : Nat))
  ∧ bin (.vand z m d a b x) 2 (fun _ p q => ((p &&& q : Nat) : Int))
  ∧ bin (.vor z m d a b x) 2 (fun _ p q => ((p ||| q : Nat) : Int))
  ∧ bin (.vxor z m d a b x) 2 (fun _ p q => ((p ^^^ q : Nat) : Int))
  ∧ bin (.vshl z m d a b x) 2 (fun k p q => (p : Int) * (2 ^ (q % k.w) : Nat))
  ∧ bin (.vshr z m d a b x) 2 (fun k p q => (p : Int) / (2 ^ (q % k.w) : Nat))
  ∧ bin (.vsar z m d a b x) 2 (fun k p q => sgn k.w p / (2 ^ (q % k.w) : Nat))
  ∧ bin (.vmin z m d a b x) 2 (fun k p q => min (vInt k p) (vInt k q))
  ∧ bin (.vmax z m d a b x) 2 (fun k p q => max (vInt k p) (vInt k q))
  ∧ bin (.vadds z m d a b x) 2 (fun k p q => clip k (vInt k p + vInt k q))
  ∧ bin (.vsubs z m d a b x) 2 (fun k p q => clip k (vInt k p - vInt k q))
  ∧ Lanes (.vabs z m d a) s z m d 2 etInt (fun c k j => (clip k ((vInt k (vEl c k a j)).natAbs : Nat) % (2 ^ k.w : Nat)).toNat)

/-- R244, R245, R246: floating-point words: the exact result of the operands' values, rounded once in ET under FP_VCFG.RM,
the flags of every active element set with it. -/
def Claims.VectorFloatingWordsRoundOnce : Prop :=
  ∀ (z x : BitVec 1) (m : BitVec 3) (d a b : BitVec 5) (s : State),
  let ar (ins : Instr) (f : VCtx → Fv → Fv → Fv → Fv × Nat) : Prop :=
    FlagLanes ins s z m d 4 etArith (fun c k j =>
      let r := f k (vFl k (vEl c k a j)) (vFl k (vElB c k b x j)) (vFl k (vEl c k d j))
      let y := roundTo k.fz k.et r.1 k.rm 0
      (y.1, y.2 ||| r.2))
  ar (.vfadd z m d a b x) (fun k p q _ => p.add (rdn k) q)
  ∧ ar (.vfsub z m d a b x) (fun k p q _ => p.add (rdn k) q.neg)
  ∧ ar (.vfmul z m d a b x) (fun _ p q _ => p.mul q)
  ∧ ar (.vfma z m d a b x) (fun k p q r => p.fma (rdn k) q r)
  ∧ ar (.vfms z m d a b x) (fun k p q r => p.fma (rdn k) q r.neg)
  ∧ ar (.vfnma z m d a b x) (fun k p q r => p.neg.fma (rdn k) q r)
  ∧ Lanes (.vfmin z m d a b x) s z m d 2 etF3 (fun c k j => minMaxF k.fz k.et false (vEl c k a j) (vElB c k b x j))
  ∧ Lanes (.vfmax z m d a b x) s z m d 2 etF3 (fun c k j => minMaxF k.fz k.et true (vEl c k a j) (vElB c k b x j))
  ∧ Lanes (.vfabs z m d a) s z m d 2 etF3 (fun c k j => signWord k false (vEl c k a j))
  ∧ Lanes (.vfneg z m d a) s z m d 2 etF3 (fun c k j => signWord k true (vEl c k a j))

/-- R247: vector compares. -/
def Claims.VectorComparesWriteTheirMask : Prop :=
  ∀ (z x : BitVec 1) (m d : BitVec 3) (a b : BitVec 5) (s : State),
  MaskLanes (.vcmpEq z m d a b x) s z m d a b x etInt (fun k p q => vInt k p = vInt k q)
  ∧ MaskLanes (.vcmpNe z m d a b x) s z m d a b x etInt (fun k p q => vInt k p ≠ vInt k q)
  ∧ MaskLanes (.vcmpLt z m d a b x) s z m d a b x etInt (fun k p q => vInt k p < vInt k q)
  ∧ MaskLanes (.vcmpGe z m d a b x) s z m d a b x etInt (fun k p q => vInt k q ≤ vInt k p)
  ∧ MaskLanes (.vfcmpEq z m d a b x) s z m d a b x etF3 (fun k p q => (vFl k p).cmpEq (vFl k q) = true)
  ∧ MaskLanes (.vfcmpNe z m d a b x) s z m d a b x etF3 (fun k p q => (vFl k p).cmpEq (vFl k q) = false)
  ∧ MaskLanes (.vfcmpLt z m d a b x) s z m d a b x etF3 (fun k p q => (vFl k p).cmpLt (vFl k q) = true)
  ∧ MaskLanes (.vfcmpGe z m d a b x) s z m d a b x etF3
      (fun k p q => (vFl k q).cmpLt (vFl k p) = true ∨ (vFl k p).cmpEq (vFl k q) = true)

/-- R248, R249: selection by the mask, logic on all 1,024 bits of masks, counts over the bits that are elements. -/
def Claims.MaskWordsSelectAndCount : Prop :=
  ∀ (m : BitVec 3) (x : BitVec 1) (d a b : BitVec 5) (e f h : BitVec 3) (s : State),
  let all (ins : Instr) (g : Core → BitVec 1024) : Prop :=
    Gives ins s (fun i t => push t 1 (.m e (g t.core) (BitVec.allOnes 1024) false) (readLabel t.core i.rd))
  (∀ i, infoOf (.vsel m d a b x) = some i → Ready i s → etAny s.core = true → ∀ t k, t = joined i s → k = vctx t.core i 0 m →
    ∃ r, exec (.vsel m d a b x) s = .next (push t 2 (.v (physV t.core d) r (BitVec.allOnes 4096) k.keep) k.lab)
      ∧ ∀ j < k.n, elem r.toNat k.w j = (if k.act j = true then vEl t.core k a j else vElB t.core k b x j))
  ∧ all (.mand e f h) (fun c => (c.rdM f).v &&& (c.rdM h).v)
  ∧ all (.mor e f h) (fun c => (c.rdM f).v ||| (c.rdM h).v)
  ∧ all (.mxor e f h) (fun c => (c.rdM f).v ^^^ (c.rdM h).v)
  ∧ all (.mnot e f) (fun c => ~~~(c.rdM f).v)
  ∧ (∀ i, infoOf (.mcnt d f) = some i → Ready i s → etAny s.core = true → ∀ t, t = joined i s →
      exec (.mcnt d f) s = .next (resultS t i d 3 (BitVec.ofNat 64
        ((List.range (4096 / fmtWidth (vcEt t.core))).filter (fun j => (t.core.rdM f).v.getLsbD j)).length)))
  ∧ ∀ i, infoOf (.mffs d f) = some i → Ready i s → etAny s.core = true → ∀ t c n, t = joined i s →
      c = 4096 / fmtWidth (vcEt t.core) → n ≤ c → (n < c → (t.core.rdM f).v.getLsbD n = true) →
      (∀ j < n, (t.core.rdM f).v.getLsbD j = false) → exec (.mffs d f) s = .next (resultS t i d 3 (BitVec.ofNat 64 n))

/-- R247 to R249: compares, selection, masks. -/
def Obligations.ComparesAndMaskWordsWriteMasks : Prop := Claims.VectorComparesWriteTheirMask ∧ Claims.MaskWordsSelectAndCount

/-- R77, R80, R234, R235, R243, R250: the words on groups of registers: element i of the wide group lies in register vd + (i mod k) at
position i div k. vcvt keeps the width, vcvtw widens into a group, vcvtn narrows one, vmadw accumulates into one. Every result has the
label of the registers read, those of the whole group where the word reads one, and FP_SEED's under stochastic rounding; the flags are
those of every active element. That vcvtw has one flag update in flight for each register of its group is the model's choice (log 25). -/
def Obligations.GroupWordsInterleaveElements : Prop :=
  ∀ (z x : BitVec 1) (m : BitVec 3) (d a b : BitVec 5) (s : State),
  let whole (t : State) (r : BitVec 5) (g : Nat) : Label := orAll ((List.range g).map (fun j => (t.core.rdV (r + BitVec.ofNat 5 j)).l))
  FlagLanes (.vcvt z m d a) s z m d 3 (cvtOk false false 0) (fun c k j => convert k.fz k.et k.dt (vEl c k a j) k.rm 0)
  ∧ (∀ i, infoOf (.vmadw z m d a b x) = some i → Ready i s → madwOk d s.core = true → ∀ t k g, t = joined i s →
      k = vctx t.core i z m → g = 32 / k.w → ∀ l, l = (k.lab ||| whole t d g) →
      ∃ e u, exec (.vmadw z m d a b x) s = .next u ∧ u = { t with core := { t.core with pend := t.core.pend ++ e } } ∧ e.length = g
        ∧ ∀ r < g, ∃ v y, e[r]? = some ⟨t.core.tick + 4, groupEff t.core k d g r v y, l, none⟩
          ∧ Lands k 32 128 (fun p => k.act (g * p + r)) (fun p =>
              wrap 32 ((elem (t.core.rdV (d + BitVec.ofNat 5 r)).v.toNat 32 p : Int)
                + vInt k (vEl t.core k a (g * p + r)) * vInt k (vElB t.core k b x (g * p + r)))) v y)
  ∧ (∀ i, infoOf (.vcvtw z m d a) = some i → Ready i s → cvtOk true false d s.core = true → ∀ t k g, t = joined i s →
      k = vctx t.core i z m → g = fmtWidth k.dt / k.w →
      ∃ e u f, exec (.vcvtw z m d a) s = .next u ∧ u = { t with core := { t.core with pend := t.core.pend ++ e } } ∧ e.length = 2 * g
        ∧ OrOf f k.n k.act (fun j => (convert k.fz k.et k.dt (vEl t.core k a j) k.rm 0).2)
        ∧ ∀ r < g, ∃ v y, e[2 * r]? = some ⟨t.core.tick + 3, groupEff t.core k d g r v y, k.lab, none⟩
          ∧ e[2 * r + 1]? = some ⟨t.core.tick + 3, if k.keep then .flagsOf (BitVec.ofNat 5 f) false (physV t.core (d + BitVec.ofNat 5 r))
              else .flags (BitVec.ofNat 5 f), k.lab, none⟩
          ∧ Lands k (fmtWidth k.dt) (k.n / g) (fun p => k.act (g * p + r)) (fun p =>
              (convert k.fz k.et k.dt (vEl t.core k a (g * p + r)) k.rm 0).1) v y)
  ∧ ∀ i, infoOf (.vcvtn z m d a) = some i → Ready i s → cvtOk false true a s.core = true →
      ∀ t k g wd rm, t = joined i s → k = vctx t.core i z m → wd = fmtWidth k.dt → g = k.w / wd →
      rm = rmOf (vcRm t.core) (t.core.fpMode.toNat % 8) (srPair k.et k.dt) →
      ∀ l, l = (k.lab ||| whole t a g ||| (if rm = 5 then t.core.fpSeed.l else 0)) → ∀ el : Nat → Nat × Nat,
      (∀ j, el j = convert k.fz k.et k.dt (elem (t.core.rdV (a + BitVec.ofNat 5 (j % g))).v.toNat k.w (j / g)) rm
        (if rm = 5 then srDraw t.core.fpSeed.v t.core.fpSctr wd j else 0)) →
      ∃ v y f u, exec (.vcvtn z m d a) s = .next (if rm = 5 then
          { u with core := { u.core with fpSctr := u.core.fpSctr + BitVec.ofNat 64 (32 / wd) } } else u)
        ∧ u = putFlags (push t 3 (.v (physV t.core d) v y k.keep) l) { k with lab := l } 3 f d
        ∧ Lands k wd (4096 / wd) k.act (fun j => (el j).1) v y ∧ OrOf f (4096 / wd) k.act (fun j => (el j).2)

/-- R251, R252: moving elements. -/
def Obligations.MovesPlaceElements : Prop :=
  ∀ (z x : BitVec 1) (m : BitVec 3) (d a b : BitVec 5) (s : State),
  Lanes (.vperm z m d a b x) s z m d 3 etAny
      (fun c k j => if vElB c k b x j < k.n then vEl c k a (vElB c k b x j) else 0)
  ∧ Lanes (.vslide z m d a b) s z m d 2 etAny (fun c k j =>
      let e := (j : Int) + (c.rdS b).v.toInt
      if 0 ≤ e ∧ e < k.n then vEl c k a e.toNat else 0)
  ∧ Lanes (.vbcast z m d a) s z m d 2 etAny (fun c k _ => (c.rdS a).v.toNat % 2 ^ k.w)
  ∧ (∀ i, infoOf (.vext d a b) = some i → Ready i s → etAny s.core = true → ∀ t k n, t = joined i s → k = vctx t.core i 0 0 →
      n = (sv t b).toNat →
      exec (.vext d a b) s = .next (resultS t i d 3 (BitVec.ofNat 64
        (if k.n ≤ n then 0 else if isInt k.et = true then wrap 64 (vInt k (vEl t.core k a n)) else vEl t.core k a n))))
  ∧ ∀ i, infoOf (.vins d a b) = some i → Ready i s → etAny s.core = true → ∀ t k n, t = joined i s → k = vctx t.core i 0 0 →
      n = (sv t b).toNat →
      ∃ v y, exec (.vins d a b) s = .next (push t 2 (.v (physV t.core d) v y true) k.lab)
        ∧ ∀ j < k.n, (j = n → elem v.toNat k.w j = (sv t a).toNat % 2 ^ k.w ∧ elem y.toNat k.w j = 2 ^ k.w - 1)
            ∧ (j ≠ n → elem y.toNat k.w j = 0)

/-- R80, R253, R254: reductions of the active elements; vfredsum along its fixed pairwise tree, with the flags of every
combination. -/
def Obligations.ReductionsFollowTheirTree : Prop :=
  ∀ (z : BitVec 1) (m : BitVec 3) (d a : BitVec 5) (s : State),
  let red (ins : Instr) (ok : Core → Bool) (f : Core → VCtx → List Nat → Nat) : Prop :=
    ∀ i, infoOf ins = some i → Ready i s → ok s.core = true → ∀ t k, t = joined i s → k = vctx t.core i z m →
      exec ins s = .next (putRed t k d 6 (f t.core k (((List.range k.n).filter k.act).map (vEl t.core k a))))
  red (.vredsum z m d a) etInt (fun _ k l => wrap 64 (l.map (vInt k)).sum)
  ∧ red (.vredmax z m d a) (fun c => etInt c || etF3 c) (fun _ k l =>
      if isInt k.et then wrap 64 ((l.map (vInt k)).foldl max (intMin k.et)) else l.foldl (fun x y => minMaxF false 0 true x (toF32 k y)) 0xFF800000)
  ∧ red (.vredmin z m d a) (fun c => etInt c || etF3 c) (fun _ k l =>
      if isInt k.et then wrap 64 ((l.map (vInt k)).foldl min (intMax k.et)) else l.foldl (fun x y => minMaxF false 0 false x (toF32 k y)) 0x7F800000)
  ∧ ∀ i, infoOf (.vfredsum z m d a) = some i → Ready i s → etArith s.core = true → ∀ t k, t = joined i s → k = vctx t.core i z m →
      ∃ e, exec (.vfredsum z m d a) s = .next (push (putRed t k d 12 ((sumNode t.core k a (Nat.log2 k.n) 0).getD 0)) 12
          (if k.keep then .flagsOf (BitVec.ofNat 5 e) true d else .flags (BitVec.ofNat 5 e)) k.lab)
        ∧ ∀ b, bit e b = true ↔ ∃ l < Nat.log2 k.n, ∃ j < k.n / 2 ^ (l + 1),
            bit (combineF k (sumNode t.core k a l (2 * j)) (sumNode t.core k a l (2 * j + 1))).2 b = true

/-- R255 to R258, R390: special functions, element by element on FP32; those of the square-root row when it is free. -/
def Claims.SpecialFunctionsComputeEachElement : Prop :=
  ∀ (z : BitVec 1) (m : BitVec 3) (d a b : BitVec 5) (s : State),
  let slow (ins : Instr) (f : Core → VCtx → Nat → Nat × Nat) : Prop :=
    ∀ i, infoOf ins = some i → Ready i s → etF32 s.core = true → rmFixed s.core = true → ∀ t k, t = joined i s →
      k = vctx t.core i z m →
      (t.core.sfu = 0 → ∃ x y e u, exec ins s = .next { u with core := { u.core with sfu := 4 } }
        ∧ u = putFlags (push t 16 (.v (physV t.core d) x y k.keep) k.lab) k 16 e d
        ∧ Lands k k.w k.n k.act (fun j => (f t.core k j).1) x y ∧ OrOf e k.n k.act (fun j => (f t.core k j).2))
      ∧ (t.core.sfu ≠ 0 → exec ins s = .next (heldOne s false none))
  FlagLanes (.vrcp z m d a) s z m d 6 etF32 (fun c k j => rcp (flushIn k.fz 0 (vEl c k a j)))
  ∧ FlagLanes (.vrsqrt z m d a) s z m d 6 etF32 (fun c k j => rsqrt (flushIn k.fz 0 (vEl c k a j)))
  ∧ slow (.vsqrt z m d a) (fun c k j => vsqrtF k (vEl c k a j))
  ∧ slow (.vexp2 z m d a) (fun c k j => vexp2F k (vEl c k a j))
  ∧ slow (.vlog2 z m d a) (fun c k j => vlog2F k (vEl c k a j))
  ∧ slow (.vnormq z m d a b) (fun c k j => normq k (vEl c k a j) (c.rdS b).v.toNat)
  ∧ Lanes (.vclipq z m d a b) s z m d 2 etF32 (fun c k j =>
      minMaxF k.fz 0 false (minMaxF k.fz 0 true (vEl c k a j) ((c.rdS b).v.toNat % 2 ^ 32)) ((c.rdS b).v.toNat / 2 ^ 32))

/-- R244 to R246, R255 to R258, R390: floating-point words and special functions. -/
def Obligations.VectorFloatingAndSpecialWordsRoundOnce : Prop := Claims.VectorFloatingWordsRoundOnce ∧ Claims.SpecialFunctionsComputeEachElement

/-- R259, R260: rotation advances both offsets at tick 1, modulo 16 and 8, so that every rotating predicate is read one number
higher; stgset sets both to 0 and writes p8 to p15 with the bits of its operand; stgshift rotates and writes p8. -/
def Obligations.RotationWordsActAtTickOne : Prop := ∀ (a : BitVec 5) (s : State),
  Gives .vrot s (fun _ t => push t 1 .rotate 0)
  ∧ Gives (.stgset a) s (fun i t => push t 1 (.stages ((sv t a).setWidth 8)) (readLabel t.core i.rd))
  ∧ Gives (.stgshift a) s (fun i t => push t 1 (.shift ((sv t a) != 0)) (readLabel t.core i.rd))
  ∧ ∀ due l land,
    let after (e : Eff) : Core := (applyEff s ⟨due, e, l, land⟩).core
    let turned (c : Core) : Prop := c.vro = s.core.vro + 1 ∧ c.pro = s.core.pro + 1
      ∧ ∀ j < 7, c.rdP (BitVec.ofNat 4 (9 + j)) = s.core.rdP (BitVec.ofNat 4 (8 + j))
    turned (after .rotate) ∧ (after .rotate).rdP 8 = s.core.rdP 15
    ∧ (∀ x : BitVec 8, (after (.stages x)).vro = 0 ∧ (after (.stages x)).pro = 0
        ∧ ∀ j < 8, (after (.stages x)).rdP (BitVec.ofNat 4 (8 + j)) = ⟨if x.getLsbD j then 1 else 0, l⟩)
    ∧ ∀ x : Bool, turned (after (.shift x)) ∧ (after (.shift x)).rdP 8 = ⟨if x then 1 else 0, l⟩

/-- R264, R267 to R271: routing with a valid pattern, pattern loads, invalidation, reading a slot; words of the network
wait while a pattern loads. That bn.ld reads its image when it issues is the model's reading (log 26). -/
def Obligations.BitNetworkWordsRouteAndLoad : Prop := ∀ (q a : BitVec 4) (d : BitVec 5) (n : BitVec 3) (m : BitVec 8) (s : State),
  let idle (t : State) : Prop := t.core.patBusy = none
  let src (t : State) : Nat := (t.core.rdV (a.setWidth 5 * 2)).v.toNat + ((t.core.rdV (a.setWidth 5 * 2 + 1)).v.toNat <<< 4096)
  let index (t : State) (k : Nat) : Nat := elem (patAt t.core n).idx.toNat 16 k
  let wire (t : State) (k : Nat) : Bool := if bit (index t k) 13 then bit (index t k) 14 else bit (src t) (index t k % 8192)
  let routes (ins : Instr) (keep : Bool) : Prop :=
    ∀ i, infoOf ins = some i → Ready i s → ∀ t, t = joined i s → idle t → (patAt t.core n).st = 2 →
      ∃ x, exec ins s = .next (push t 6 (.v (physV t.core d) x (BitVec.allOnes 4096) false)
          (readLabel t.core i.rd ||| (patAt t.core n).lab))
        ∧ ∀ k < 4096, x.getLsbD k = (wire t k || (keep && (t.core.rdV d).v.getLsbD k))
  routes (.bnRt q d a n) false ∧ routes (.bnRto q d a n) true
  ∧ TrapsIf (.bnRt q d a n) s (fun t => idle t ∧ (patAt t.core n).st ≠ 2) 2 (fun t => illegalInfo t 6 n.toNat)
      (fun t => t.core.grp.word.toNat)
  ∧ (∀ i, infoOf (.bnLd q a n) = some i → Ready i s → ∀ t va, t = joined i s → va = av t a → va.toNat % 8192 = 0 → idle t →
      ∀ t1 x l, readBytes t t.core.who va.toNat 8192 .read = .ok (t1, x, l) →
        ∃ ok, exec (.bnLd q a n) s = .next { t1 with core := { setPat t1.core n.toNat ⟨1, va, readLabel t.core i.rd, BitVec.ofNat 65536 x⟩ with
          patBusy := some ⟨256, n.toNat, ok, l ||| readLabel t.core i.rd, t1.core.grp.xArr⟩ } })
  ∧ (∀ i, infoOf (.bnInv q m) = some i → Ready i s → ∀ t, t = joined i s → idle t →
      ∃ u, exec (.bnInv q m) s = .next u ∧ u = { t with core := { t.core with pats := u.core.pats } }
        ∧ ∀ j : BitVec 3, patAt u.core j = (if m.getLsbD j.toNat then ⟨0, 0, 0, 0⟩ else patAt t.core j))
  ∧ Gives (.bnRd q d n) s (fun _ t => push t 2 (.s d (BitVec.ofNat 64 ((patAt t.core n).st.toNat
      + (if (patAt t.core n).st = 0 then 0 else (patAt t.core n).addr.toNat % 2 ^ 64 / 8192 * 8192)))) ((patAt t.core n).lab ||| t.core.cl))
  ∧ ∀ i, infoOf (.bnRt q d a n) = some i → Ready i s → (joined i s).core.patBusy ≠ none → exec (.bnRt q d a n) s = .next (heldOne s false none)

/-- R377 to R383: words that write a summary: with the unit free and the object well-formed, of the type, and good, the
object holds the new summary afterwards, its label joined; sk.init writes a fresh one, with the word's label (and that of SK_SEED
where it reads it), the initial MIN and MAX of the type, and the STATE of its source. -/
def Claims.SummaryUpdatesWriteTheObject : Prop := ∀ (q a : BitVec 4) (v b : BitVec 5) (s : State),
  let free (t : State) : Prop := t.core.skBusy = 0
  let good (want : Option Nat) (o : SkObj) : Prop := skObjCode want [o] = none
  let upd (ins : Instr) (want : Option Nat) (sl : Bool) (p : State → SkObj → Prop) (iv : State → SkObj → Nat) (f : State → SkObj → Sk) : Prop :=
    ∀ i, infoOf ins = some i → Ready i s → ∀ t, t = joined i s → free t →
      ∀ t1 o, skOpen t true (av t a).toNat 0 = .ok (t1, o) → p t o → good want o →
        ∀ u, skPut t1 o (f t1 o) sl (o.lab ||| readLabel t1.core i.rd) o.prov (iv t o) = .ok u → exec ins s = .next u
  let adds (ins : Instr) (typ : Nat) (iv : Nat → Nat) : Prop :=
    upd ins (some typ) false (fun t _ => 0 < (sv t b).toNat ∧ (sv t b).toNat ≤ 128) (fun t _ => iv (sv t b).toNat)
      (fun t o => unsealSk (skAdd (skDecode o.img t.fresh) ((List.range (sv t b).toNat).map (fun j => elem (t.core.rdV v).v.toNat 32 j))))
  adds (.skQadd q a v b) 1 (fun n => (n + 63) / 64)
  ∧ adds (.skHadd q a v b) 2 (fun n => (n + 15) / 16)
  ∧ adds (.skDadd q a v b) 3 (fun _ => 1)
  ∧ upd (.skSeal q a) none true (fun _ _ => True) (fun _ o => if rf o.img 0 1 = 1 then 64 else 16) (fun t o => skDecode o.img t.fresh)
  ∧ upd (.skCompact q a b) none false (fun t o => rf o.img 0 1 = 1 ∧ (sv t b).toNat < 29
        ∧ 2 ≤ ((skDecode o.img t.fresh).lv.getD (sv t b).toNat []).length) (fun _ _ => 4)
      (fun t o => unsealSk (settleSk skFuel (compactLv (skDecode o.img t.fresh) (sv t b).toNat)))
  ∧ upd (.skCompact q a b) none false (fun t o => rf o.img 0 1 = 2 ∧ sv t b = 0) (fun _ _ => 16)
      (fun t o => unsealSk { skDecode o.img t.fresh with ents := canonical (skDecode o.img t.fresh).ents })
  ∧ (∀ i e, infoOf (.skMerge q a e) = some i → Ready i s → ∀ t, t = joined i s → free t →
      ∀ t1 oa t2 ob, skOpen t true (av t a).toNat 0 = .ok (t1, oa) → skOpen t1 false (av t e).toNat 0 true = .ok (t2, ob) →
        skObjCode none [oa, ob] = none → meets oa.va oa.size ob.va ob.size = false →
        ∀ u, skPut t2 oa (skMerge (skDecode oa.img t2.fresh) (skDecode ob.img t2.fresh)) false
            (oa.lab ||| ob.lab ||| readLabel t2.core i.rd) (oa.prov && ob.prov) (if rf oa.img 0 1 = 1 then 192 else 48) = .ok u →
          exec (.skMerge q a e) s = .next u)
  ∧ ∀ x, x = (sv s b).toNat → x < 2 ^ 10 → x % 4 ≠ 0 → x / 4 % 4 ≠ 3 →
      ∀ i, infoOf (.skInit q a b) = some i → Ready i s → ∀ j t, j = i.naming (initNames x) → t = joined j s → free t →
        ∀ t1 o, skOpen t true (av t a).toNat (if x % 4 = 1 then 16384 else 4096) = .ok (t1, o) →
          ∃ k : Sk, k.typ = x % 4 ∧ k.src = x / 4 % 4 ∧ k.fl = (if x / 4 % 4 = 2 then 4 else 0) ∧ k.lbl = 0 ∧ k.count = 0
            ∧ k.gen = 0 ∧ k.nan = 0 ∧ k.drop = 0 ∧ k.ents = [] ∧ (∀ l ∈ k.lv, l = []) ∧ (∀ r ∈ k.regs, r = 0)
            ∧ k.mn = (if x % 4 = 1 then 0x7F800000 else 0xFFFFFFFF) ∧ k.mx = (if x % 4 = 1 then 0xFF800000 else 0)
            ∧ (x / 4 % 4 = 0 → k.st = t1.core.skSeed.v)
            ∧ (x / 4 % 4 = 1 → k.st = mix64 (mix64 (ctlG t1.core (bits x 9 4)) ^^^ BitVec.ofNat 64 (endpoint t1 t1.coreNo)))
            ∧ (x / 4 % 4 = 2 → k.st = Config.entropy t1.fresh)
            ∧ ∀ lab u, lab = readLabel t1.core j.rd ||| (if x / 4 % 4 = 0 then t1.core.skSeed.l else 0) →
                skPut t1 o k false lab true (if x % 4 = 1 then 64 else 16) = .ok u → exec (.skInit q a b) s = .next u

/-- R384 to R389: query words answer at tick 1 with the object's label; sk.chk looks at any object. -/
def Claims.SummaryQueriesAnswer : Prop := ∀ (q a : BitVec 4) (d b : BitVec 5) (s : State),
  let asks (ins : Instr) (want : Option Nat) (p : State → Prop) (f : State → SkObj → Nat) : Prop :=
    ∀ i, infoOf ins = some i → Ready i s → ∀ t, t = joined i s → t.core.skBusy = 0 → p t →
      ∀ t1 o, skOpen t false (av t a).toNat 0 = .ok (t1, o) → (∀ w, want = some w → skObjCode (some w) [o] = none) →
        exec ins s = .next (push t1 1 (.s d (BitVec.ofNat 64 (f t1 o))) (o.lab ||| readLabel t1.core i.rd))
  let x (t : State) : Nat := (sv t b).toNat
  asks (.skQuant q a d b) (some 1) (fun t => bits (x t) 31 17 = 0 ∧ bits (x t) 61 49 = 0 ∧ bits (x t) 16 0 ≤ 65536
      ∧ bits (x t) 48 32 ≤ 65536 ∧ bits (x t) 63 62 < 2) (fun t o => quantAnswer (skDecode o.img 0) (x t))
  ∧ asks (.skRank q a d b) (some 1) (fun t => x t < 2 ^ 32) (fun t o => rankAnswer (skDecode o.img 0) (x t))
  ∧ asks (.skTop q a d b) (some 2) (fun t => x t < 2 ^ 9 ∧ x t % 256 < 240) (fun t o => topAnswer (skDecode o.img 0) (x t))
  ∧ asks (.skCard q a d) (some 3) (fun _ => True) (fun _ o => cardAnswer (skDecode o.img 0))
  ∧ asks (.skChk q a d) none (fun _ => True) (fun _ o => b2n (!skOk o.img) + 2 * b2n (skBad o.img)
      + 4 * b2n (skSealed o.img && skCrc o.img o.size != rf o.img 0xFC 4) + 8 * b2n (!skSealed o.img))

/-- R377 to R389: words of the Sinter unit. -/
def Obligations.SummaryWordsActOnTheObject : Prop := Claims.SummaryUpdatesWriteTheObject ∧ Claims.SummaryQueriesAnswer

/-- R281, R282, R284: mx.mma with valid control, A readable and the sub-arrays on: the block of 32 × 64 partial sums
reaches the port 6 ticks after the array has run it; where a sub-array is not on the group is held and every one that is off
starts waking for MX_WAKE cycles; four blocks in flight are refused. blockEnd counts ticks (R282). That A and the weights are captured
when the word issues is the model's reading (log 27). -/
def Obligations.BlocksReachThePort : Prop :=
  ∀ (q aa : BitVec 4) (ac : BitVec 1) (sc : BitVec 3) (sb : BitVec 5) (s : State) (x : Nat), x = (sv s sb).toNat →
  ∀ i, infoOf (.mxMma q ac sc aa sb) = some i → Ready i s → ∀ j t, j = i.naming (namedG (mmaG x) 1) → t = joined j s →
  Direct t → mmaCode x = none →
  let flying := (t.core.blocks.filter (fun b => decide (t.core.tick < b.due))).length
  (4 ≤ flying → exec (.mxMma q ac sc aa sb) s = .next (takeTrap s 2 (illegalInfo t 9 6) s.core.grp.word.toNat))
  ∧ ∀ t1 rows ml, flying < 4 →
      readA t (av t aa).toNat (16 * fmtWidth (mmaAf x)) ((ctlG t.core (mmaG x)).toNat % 2 ^ 32) = .ok (t1, rows, ml) →
    (t.core.subs.any (fun u => u.pw != 2) = true → ∃ u, exec (.mxMma q ac sc aa sb) s = .next u
      ∧ u = { heldOne s false none with core := { (heldOne s false none).core with subs := u.core.subs } }
      ∧ ∀ j : Fin 4, (s.core.subs[j].pw = 0 → u.core.subs[j].pw = 1 ∧ u.core.subs[j].cnt = s.core.mxWake.toNat)
          ∧ (s.core.subs[j].pw ≠ 0 → u.core.subs[j] = s.core.subs[j]))
    ∧ (t.core.subs.any (fun u => u.pw != 2) = false → ∃ u b cost, exec (.mxMma q ac sc aa sb) s = .next u
        ∧ pairCost (mmaAf x) (mmaBf x) = some cost ∧ u.core.blocks = t1.core.blocks ++ [b] ∧ u.core.portLive = true
        ∧ u.core.blockEnd = max t1.core.tick t1.core.blockEnd + cost ∧ b.due = u.core.blockEnd + 6
        ∧ ∀ r < 32, ∀ n < 64, elem b.x.toNat 32 (64 * r + n) =
            (dotFp32 (mUnit (fmtOf (mmaAf x)) + mUnit (fmtOf (mmaBf x)))
              ((List.range 128).map (fun k => mEl (fmtOf (mmaAf x)) (elem (rows.getD r 0) (fmtOf (mmaAf x)).w k)))
              ((tileCol (mmaBm x) (mmaBf x) (unitsImage t1.core (mmaOff x) ((tileUnits (mmaBm x) (mmaBf x)).getD 0)) (64 * mmaNh x + n)).map
                (mEl (fmtOf (mmaBf x))))).1 % 2 ^ 32)

/-- R285 to R289: accumulator words act element by element on the blocks as they stand at the next tick; a result has the labels of the
blocks and the port read, of the scales read from memory, and of the registers and the context (R289). -/
def Claims.AccumulatorWordsActOnEachElement : Prop := ∀ (q aa : BitVec 4) (sb : BitVec 5) (s : State) (x : Nat), x = (sv s sb).toNat →
  let el (t : State) (z j : Nat) : Nat := elem (((atNext t).rdZ z).v.toNat) 32 j
  let rnd (v : Fv × Nat) : Nat × Nat := ((roundF fmtF32 v.1 0).1, v.2 ||| (roundF fmtF32 v.1 0).2)
  let all (_ : Nat) : Bool := true
  let prom (ins : Instr) (sz : Nat) (dec : Nat → Fv) : Prop :=
    x < 2 ^ 54 → (promSbf x = true → bits x 31 8 = 0) → promZ x ≤ 8 →
    ∀ i0 i, infoOf ins = some i0 → Ready i0 s → i = promInfo i0 x → ∀ t, t = joined i s → Direct t →
      (promNsa x = true → promKs x = 0 ∧ aa = 0) → (promNsa x = false → promKs x ≠ 0 ∧ (av t aa).toNat % sz = 0) →
      ∀ t1 sas ml, (if promNsa x then Except.ok (t, List.replicate 32 (Fv.fin false 1 1), 0)
          else readScales t sz dec (sz * promKs x) 32 (av t aa).toNat) = .ok (t1, sas, ml) →
        ∀ l, l = (readLabel t1.core i.rd ||| ml ||| ((atNext t1).rdZ (promZ x)).l ||| (atNext t1).portVal.l) →
        ∃ e u, exec ins s = .next { u with core := { u.core with mxPin := true } }
          ∧ ∀ f, f = (fun j => promote (el t1 (promZ x) j) (elem (atNext t1).portVal.v.toNat 32 j) (sas.getD (j / 64) .nan)
              (if promSbf x then decodeEl 6 (x % 256) else decodeF fmtF32 (x % 2 ^ 32))) →
            ZLands t1 3 (promZ x) l (fun j => (f j).1) e u ∧ OrOf e 2048 all (fun j => (f j).2)
  prom (.mxProm q aa sb) 4 (decodeF fmtF32) ∧ prom (.mxProme q aa sb) 1 (decodeEl 6)
  ∧ (∀ i, infoOf (.mxZadd q sb) = some i → Ready i s → ∀ t, t = joined i s → Direct t → x < 2 ^ 12 → bits x 3 0 ≤ 8 → bits x 7 4 ≤ 8 → bits x 11 8 ≤ 8 →
      ∀ l, l = (readLabel t.core i.rd ||| ((atNext t).rdZ (bits x 7 4)).l ||| ((atNext t).rdZ (bits x 11 8)).l) →
      ∃ e u, exec (.mxZadd q sb) s = .next u
        ∧ ∀ f, f = (fun j => rnd ((decodeF fmtF32 (el t (bits x 7 4) j)).add false (decodeF fmtF32 (el t (bits x 11 8) j)))) →
          ZLands t 4 (bits x 3 0) l (fun j => (f j).1) e u ∧ OrOf e 2048 all (fun j => (f j).2))
  ∧ (∀ i, infoOf (.mxScl q sb) = some i → Ready i s → ∀ t, t = joined i s → Direct t → x < 2 ^ 36 → bits x 35 32 ≤ 8 →
      ∀ l, l = (readLabel t.core i.rd ||| ((atNext t).rdZ (bits x 35 32)).l) →
      ∃ e u, exec (.mxScl q sb) s = .next u
        ∧ ∀ f, f = (fun j => rnd ((decodeF fmtF32 (el t (bits x 35 32) j)).mul (decodeF fmtF32 (x % 2 ^ 32)))) →
          ZLands t 4 (bits x 35 32) l (fun j => (f j).1) e u ∧ OrOf e 2048 all (fun j => (f j).2))
  ∧ ∀ i, infoOf (.mxZero q sb) = some i → Ready i s → ∀ t, t = joined i s → Direct t → x < 2 ^ 9 →
      ∃ e, exec (.mxZero q sb) s = .next { t with core := { t.core with pend := t.core.pend ++ e } }
        ∧ ∀ p, p ∈ e ↔ ∃ z < 9, bit x z = true ∧ p = ⟨t.core.tick + 1, .z z 0 (BitVec.allOnes 65536), readLabel t.core i.rd, none⟩

/-- R80, R185, R193, R290: transfers of a z block in 32 rows at a pitch; with REL = 1 the dirty lines written go home (`releaseRows`);
mx.zcvt sets the flags of every element. -/
def Obligations.BlockTransfersMoveThirtyTwoRows : Prop :=
  ∀ (q aa : BitVec 4) (ac rl : BitVec 1) (sc : BitVec 3) (sb : BitVec 5) (s : State) (x : Nat), x = (sv s sb).toNat →
  let names := namedG (ztG x) 1
  let stores (ins : Instr) (w lim : Nat) (p : State → Prop) (conv : State → Nat → Nat × Nat) (fl : Bool) : Prop :=
    ∀ i, infoOf ins = some i → Ready i s → ∀ j t, j = i.naming names → t = joined j s → Direct t → p t → ztBad t aa x lim (8 * w) = none →
      ∀ rows : List Nat, rows.length = 32 → (∀ r < 32, ∀ n < 64, elem (rows.getD r 0) w n = (conv t (elem ((atNext t).rdZ (ztZ x)).v.toNat 32 (64 * r + n))).1 % 2 ^ w)
        → (∀ r < 32, rows.getD r 0 < 2 ^ (64 * w)) →
      ∀ t1, writeRows t (8 * w) (ztPitch t.core x) (readLabel t.core j.rd ||| ((atNext t).rdZ (ztZ x)).l) rows (av t aa).toNat = .ok t1 →
        ∃ e u, u = releaseRows t1 rl (av t aa).toNat (ztPitch t.core x) (8 * w)
          ∧ exec ins s = .next (if fl then push u 1 (.flags (BitVec.ofNat 5 e)) (readLabel t.core j.rd ||| ((atNext t).rdZ (ztZ x)).l) else u)
          ∧ OrOf e 2048 (fun _ => true) (fun n => (conv t (elem ((atNext t).rdZ (ztZ x)).v.toNat 32 n)).2)
  (∀ i, infoOf (.mxZld q ac sc aa sb) = some i → Ready i s → ∀ j t, j = i.naming names → t = joined j s → Direct t → ztBad t aa x 10 256 = none →
      ∀ t1 rows ml, readRows t 8192 256 (ztPitch t.core x) 32 (av t aa).toNat = .ok (t1, rows, ml) →
        ∃ v, exec (.mxZld q ac sc aa sb) s = .next (push t1 16 (.z (ztZ x) v (BitVec.allOnes 65536)) (readLabel t1.core j.rd ||| ml))
          ∧ ∀ r < 32, elem v.toNat 2048 r = rows.getD r 0 % 2 ^ 2048)
  ∧ stores (.mxZst q rl sc aa sb) 32 10 (fun _ => True) (fun _ e => (e, 0)) false
  ∧ (bits x 13 10 ≤ 4 → bits x 16 14 ≠ 5 → bits x 16 14 ≠ 7 →
      stores (.mxZcvt q rl sc aa sb) (fmtWidth (bits x 13 10)) 17 (fun _ => True)
        (fun t e => convert false 0 (bits x 13 10) e (rmOf (bits x 16 14) (t.core.fpMode.toNat % 8) false) 0) true)

/-- R278, R279, R283, R291, R293: weight-buffer selection, power, configuration, the fence, and the quad's sum: each element of the
collector's block is the sum, rounded at each of three additions, of those of the four cores' blocks, with the labels of all four. That
the fence with REL releases what the record's words wrote on whichever core, in earlier claims too, is the model's reading (log 27). -/
def Claims.EngineControlWordsAct : Prop :=
  ∀ (q gl : BitVec 4) (gh : BitVec 2) (rl : BitVec 1) (sc : BitVec 3) (sb : BitVec 5) (s : State) (x : Nat), x = (sv s sb).toNat →
  let sum (a b : Nat) : Nat × Nat :=
    let v := (decodeF fmtF32 a).add false (decodeF fmtF32 b)
    ((roundF fmtF32 v.1 0).1, v.2 ||| (roundF fmtF32 v.1 0).2)
  let less (t : State) (c : Core) : Core := { c with mxWrote := c.mxWrote.filter (fun e => e.1 != t.core.cont.pa) }
  (∀ u, Gives (.mxFence q 0 sc) s (fun _ t => t)
    ∧ GivesIf (.mxFence q 1 sc) s (fun t => u = cleanEach t (fun v l => v.core.mxWrote.contains (t.core.cont.pa, l.2.pa)))
      (fun _ t => { u with core := less t u.core, others := u.others.map (fun e => (e.1, less t e.2)) }))
  ∧ Gives (.mxCfg q gh gl sb) s (fun i t => push t 1 (.g (gh ++ gl) (sv t sb)) (readLabel t.core i.rd))
  ∧ (∀ i, infoOf (.mxWsel q sb) = some i → Ready i s → ∀ t n, t = joined i s → Direct t → x < 2 ^ 25 → n = bits x 24 12 → n ≠ 0 →
      x % 4096 + n ≤ 4096 →
      ∃ u, exec (.mxWsel q sb) s = .next u ∧ u = { t with core := { t.core with wbuf := u.core.wbuf } }
        ∧ ∀ k, (unitAt u.core k) = (if x % 4096 ≤ k ∧ k < x % 4096 + n then ⟨0, readLabel t.core i.rd⟩ else unitAt t.core k))
  ∧ GivesIf (.mxWake q sb) s (fun t => Direct t ∧ x < 2 ^ 4) (fun _ t => { t with core := { t.core with
      subs := t.core.subs.mapFinIdx (fun j u _ => if bit x j then startWake (t.core.mxWake.toNat + 1) u else u) } })
  ∧ GivesIf (.mxGate q sb) s (fun t => Direct t ∧ x < 2 ^ 4)
      (fun _ t => push t (max 1 (t.core.blockEnd - t.core.tick)) (.subsOff (BitVec.ofNat 4 x)) 0)
  ∧ (∀ i, infoOf (.mxQsplit q sb) = some i → Ready i s → ∀ t, t = joined i s → Direct t →
      ∀ u, u = { t with core := t.core.joinCl (orAll ((quadCores t.coreNo).map (fun n => (coreAt t n).cl))) } →
      (u.core.qsp = true → exec (.mxQsplit q sb) s = .next { u with core := { u.core with qsp := false } })
      ∧ (u.core.qsp = false → u.core.locked = false → exec (.mxQsplit q sb) s = .next (takeTrap s 2 (illegalInfo u 8 0) s.core.grp.word.toNat))
      ∧ (u.core.qsp = false → u.core.locked = true → (sv u sb).toNat < 2 ^ 6 → bits (sv u sb).toNat 3 0 ≤ 8 →
          ∀ cs, cs = (quadCores u.coreNo).map (coreNow u) →
          ((∃ c ∈ cs, qsplitOf c = none) → exec (.mxQsplit q sb) s = .next (heldOne s false none))
          ∧ ∀ ws, cs.map qsplitOf = ws.map some → ∀ ctl,
            ctl = (cs.zip ws).map (fun e => e.1.rdS (BitVec.ofNat 5 (e.2.1.toNat % 32))) →
            (∀ v ∈ ctl, bits v.v.toNat 5 4 = bits (sv u sb).toNat 5 4) → exec (.mxQsplit q sb) s = .next (quadSplit u ctl)
              ∧ ∀ z : Nat → Lv 65536, (∀ c, z c = (atNext (focus u (u.coreNo / 4 * 4 + c))).rdZ (bits (ctl.getD c ⟨0, 0⟩).v.toNat 3 0)) →
                ∀ el : Nat → Nat → Nat, (∀ c j, el c j = elem (z c).v.toNat 32 j) →
                ∀ lab, lab = orAll ((List.range 4).map (fun c => (z c).l ||| (ctl.getD c ⟨0, 0⟩).l ||| (coreAt u (u.coreNo / 4 * 4 + c)).cl)) →
                ∀ col base, col = bits (sv u sb).toNat 5 4 → base = (fun n => if n = u.coreNo then u.core else { coreAt u n with qsp := true }) →
                ∃ r e, (∀ c < 4, coreAt (quadSplit u ctl) (u.coreNo / 4 * 4 + c) = if c = col then
                      { base (u.coreNo / 4 * 4 + c) with pend := (base (u.coreNo / 4 * 4 + c)).pend
                        ++ [⟨(base (u.coreNo / 4 * 4 + c)).tick + 12, .z (bits (ctl.getD col ⟨0, 0⟩).v.toNat 3 0) r (BitVec.allOnes 65536), lab, none⟩,
                          ⟨(base (u.coreNo / 4 * 4 + c)).tick + 12, .flags (BitVec.ofNat 5 e), lab, none⟩] }
                    else base (u.coreNo / 4 * 4 + c))
                  ∧ (∀ j < 2048, elem r.toNat 32 j = (sum (sum (el 0 j) (el 1 j)).1 (sum (el 2 j) (el 3 j)).1).1 % 2 ^ 32)
                  ∧ OrOf e 2048 (fun _ => true) (fun j => (sum (el 0 j) (el 1 j)).2 ||| (sum (el 2 j) (el 3 j)).2
                      ||| (sum (sum (el 0 j) (el 1 j)).1 (sum (el 2 j) (el 3 j)).1).2)))
  ∧ ∀ ins, (ins = .mxWsel q sb ∨ ins = .mxWake q sb ∨ ins = .mxGate q sb ∨ ins = .mxQsplit q sb ∨ ins = .mxZero q sb) →
      TrapsIf ins s (fun t => ¬Direct t) 2 (fun t => illegalInfo t 7 0) (fun t => t.core.grp.word.toNat)

/-- R278 to R293: words on accumulators and on the engine. -/
def Obligations.AccumulatorAndEngineControlWordsAct : Prop := Claims.AccumulatorWordsActOnEachElement ∧ Claims.EngineControlWordsAct

/-- R298 to R300, R306: tile tasks: mx.task queues a valid record behind those of its quad, with the submitter's VF, privilege, label
and tag context, sets its ST to 1 and answers 0; it answers 1 when the queue of 64 is full, and 3 of a record that is queued or running
or that fails a check of R300, whose ST becomes 6 and whose ERR the check's code (R299); mx.tstat and mx.tkill answer for the record.
That mx.task with REL = 1 writes home, when it issues, the lines bound to DONE and to the record's word is the model's reading (log 27).
That mx.tstat shows ERR 0 of a task that is queued or runs is the model's choice (log 27). -/
def Obligations.TileTasksAreQueuedAndAsked : Prop :=
  ∀ (q aa : BitVec 4) (ac rl : BitVec 1) (sc : BitVec 3) (sb : BitVec 5) (s : State),
  let word (ins : Instr) (kind : Kind) (f : State → Nat → Nat → Label → State × Nat) : Prop :=
    ∀ i, infoOf ins = some i → Ready i s → ∀ t va, t = joined i s → va = (av t aa).toNat → va % 128 = 0 →
      ∀ t1 img l, readVa t t.core.who va 128 kind = .ok (t1, img, l) →
        ∀ l', l' = (l ||| readLabel t.core i.rd) →
        exec ins s = .next (push (f t1 va img l').1 1 (.s sb (BitVec.ofNat 64 (f t1 va img l').2)) l')
  word (.mxTask q ac rl sc aa sb) .rmw (fun t va img l => submitTask t rl va img l)
  ∧ word (.mxTstat q aa sb) .read (fun t va img _ => (t, match findTask t va with
      | some (n, k) => (if n = 127 then 2 else 1) + (k.eng.toNat <<< 16) + (n <<< 20)
      | none => tkSt img % 8 + (rf img 0x4B 1 <<< 8) + ((rf img 0x4C 1 % 16) <<< 16) + (127 <<< 20)))
  ∧ word (.mxTkill q aa sb) .rmw (fun t va _ _ => match findTask t va with
      | some (n, k) => if n = 127 then (t, 3) else (k.put 0x4A 1 5 (ctxTask (setQ t ((taskQ t).eraseIdx n)) k.core k.ctx false), 0)
      | none => (t, 4))
  ∧ ∀ t va img l,
    let sets (off v : Nat) (u : State) : Except AErr State := writeVa u t.core.who ((va + off) % 2 ^ 72) 1 v l 0
    let objs : List Addr := (if tkDone img = 0 then [] else [BitVec.ofNat 72 (tkDone img)]) ++ [BitVec.ofNat 72 (va + 0x48)]
    ((tkSt img = 1 ∨ tkSt img = 2) → submitTask t rl va img l = (t, 3))
    ∧ (tkSt img ≠ 1 → tkSt img ≠ 2 →
      (∀ e, taskErr img va = some e → (submitTask t rl va img l).2 = 3
        ∧ ∀ u v, sets 0x4A 6 t = .ok u → sets 0x4B e u = .ok v → submitTask t rl va img l = (v, 3))
      ∧ (taskErr img va = none → 64 ≤ (taskQ t).length → submitTask t rl va img l = (t, 1))
      ∧ (taskErr img va = none → (taskQ t).length < 64 → (submitTask t rl va img l).2 = 0
        ∧ ∀ t0, t0 = (if rl = 1 then objs.foldl releaseLines t else t) → ∀ u, sets 0x4A 1 t0 = .ok u → ∃ k w, submitTask t rl va img l = (w, 0) ∧ taskQ w = taskQ u ++ [k]
          ∧ w = ctxTask (setQ u (taskQ w)) t.coreNo t.core.cur true ∧ k.r = img % 2 ^ 1024 ∧ k.at_ = BitVec.ofNat 72 va
          ∧ k.who = ⟨t.core.cont.vf, t.core.cont.part, t.core.cont.prv, false⟩ ∧ k.core = t.coreNo ∧ k.ctx = t.core.cur
          ∧ k.lab = l ∧ k.rel = (rl == 1) ∧ k.bad = none))

/-- R199, R200, R205 to R220: the words that issue a tagged command: when the checks of their control word pass, the
command is in flight with its tag busy; a tag that is busy, or 16 in flight, hold the group, and so does an overlay load in
flight that of another. -/
def Claims.TaggedCommandsIssue : Prop :=
  ∀ (q aa : BitVec 4) (ac rl : BitVec 1) (sc : BitVec 3) (sb : BitVec 5) (s : State) (x : Nat), x = (sv s sb).toNat →
  let copies (ins : Instr) (k : CmdKind) (scales : Bool) : Prop :=
    IssuesIf ins s (copyNames x scales) k x (fun t => av t aa) sb (fun t => ∃ g, copyCheck t k (av t aa) x = .ok g)
      (fun c t _ => c.rel = (rl == 1) ∧ c.da = ctlA t.core (cpDa x) ∧ c.xa = ctlA t.core (cpSa x) ∧ c.ba = ctlA t.core (cpBa x))
  let ranges (ins : Instr) (k : CmdKind) : Prop :=
    IssuesIf ins s [] k x (fun t => av t aa) sb
      (fun t => bits x 15 6 = 0 ∧ (av t aa).toNat % 128 = 0 ∧ x / 65536 % 128 = 0 ∧ 128 ≤ x / 65536) (fun _ _ _ => True)
  let spills (ins : Instr) (k : CmdKind) : Prop :=
    IssuesIf ins s (namedA (bits x 9 6) :: (if bit x 10 then [namedA (bits x 14 11)] else [])) k x (fun t => av t aa) sb
      (fun t => bit x 15 = false ∧ (bit x 10 = false → bits x 14 11 = 0) ∧ (av t aa).toNat % 128 = 0
        ∧ (ctlA t.core (bits x 9 6)).toNat % 128 = 0 ∧ x / 65536 % 128 = 0 ∧ 128 ≤ x / 65536
        ∧ (bit x 10 = true → (ctlA t.core (bits x 14 11)).toNat % 16 = 0)
        ∧ ((av t aa).toNat + x / 65536 ≤ (ctlA t.core (bits x 9 6)).toNat ∨ (ctlA t.core (bits x 9 6)).toNat + x / 65536 ≤ (av t aa).toNat))
      (fun c t _ => c.da = ctlA t.core (bits x 9 6))
  copies (.cpCopy q ac rl sc aa sb) .copy false ∧ copies (.cpLdt q ac rl sc aa sb) .ldt true ∧ copies (.cpStt q ac rl sc aa sb) .stt true
  ∧ ranges (.cpFill q ac sc aa sb) .fill ∧ ranges (.cpFlush q ac rl sc aa sb) .flush ∧ ranges (.cpInval q ac rl sc aa sb) .inval
  ∧ spills (.cpSpill q ac rl sc aa sb) .spill ∧ spills (.cpUnspill q ac rl sc aa sb) .unspill
  ∧ IssuesIf (.cpWfill q ac sc aa sb) s (wfNames x) .wfill x (fun t => av t aa) sb (fun t => wfCheck t (av t aa) x = none)
      (fun c t u => c.geo = [ctlG t.core (wfG x), ctlG t.core (wfG x + 1)] ∧ u.core.mxPin = true)
  ∧ IssuesIf (.cpUnmap q rl sc sb) s [] .unmap x (fun _ => 0) sb (fun _ => x < 2 ^ 10)
      (fun _ t u => u.core.maps.toList.getD (bits x 9 6) none
        = (t.core.maps.toList.getD (bits x 9 6) none).map (fun e => { e with closing := true }))
  ∧ IssuesIf (.cpOvl q ac sc aa sb) s (if bit x 6 then [namedA (bits x 10 7)] else []) .ovl x (fun t => av t aa) sb
      (fun t => t.core.cmds.any (fun c => c.kind == .ovl) = false ∧ x < 2 ^ 11 ∧ (bit x 6 = false → bits x 10 7 = 0)
        ∧ ∀ w, w = (if bit x 6 then ctlA t.core (bits x 10 7) else av t aa) → w.toNat % 65536 = 0 ∧ w ≠ (t.core.half t.core.active).base)
      (fun _ t u => u.core.half (!t.core.active) = { t.core.half (!t.core.active) with
        base := (if bit x 6 then ctlA t.core (bits x 10 7) else av t aa), st := 1, bytes := [] })
  ∧ ∀ i, infoOf (.cpOvl q ac sc aa sb) = some i → Ready i s → s.core.cmds.any (fun c => c.kind == .ovl) = true →
      exec (.cpOvl q ac sc aa sb) s = .next (heldOne s false none)

/-- R196, R211, R222: cp.map sets its window at tick 1 or raises stash map fault (0x0E), whose TR_INFO holds the reason of R196;
that bits 7:4 hold IDX for reasons 0 to 2 and 0 for reason 3 is the model's choice (log 24), as R197 leaves it open; cp.bcnt writes a
barrier's 16 bytes, with REL after a release of it (R185); cp.tclr clears TAGS and CP_TERR but for busy tags. -/
def Claims.WindowsCountersAndTags : Prop :=
  ∀ (q aa : BitVec 4) (rl : BitVec 1) (sc : BitVec 3) (sb : BitVec 5) (s : State) (x : Nat), x = (sv s sb).toNat →
  GivesIf (.cpMap q aa sb) s (fun t => mapReason t.core (av t aa).toNat x = none)
      (fun _ t => push t 1 (.map (BitVec.ofNat 4 x) (av t aa) (128 * bits x 32 18) (128 * bits x 17 4)) 0)
  ∧ (∀ r, TrapsIf (.cpMap q aa sb) s (fun t => mapReason t.core (av t aa).toNat x = some r) 0xE
      (fun _ => r + (if r = 3 then 0 else x % 16 * 16)) (fun t => (av t aa).toNat))
  ∧ (∀ i, infoOf (.cpBcnt q rl sc aa sb) = some i → Ready i s → ∀ t, t = joined i s → x < 2 ^ 33 → (av t aa).toNat % 16 = 0 →
      ∀ t0, t0 = (if rl = 1 then releaseLines t (av t aa) else t) →
      ∀ u, writeVa t0 t.core.who (av t aa).toNat 16 (x / 2 ^ 32 + x % 2 ^ 32 * 2 ^ 64) (readLabel t.core i.rd) 0 = .ok u →
        exec (.cpBcnt q rl sc aa sb) s = .next u)
  ∧ Gives (.cpTclr q sb) s (fun i t =>
      push (push t 1 (.tagsClr t.core.cur (sv t sb &&& ~~~t.core.ctx.busy)) (readLabel t.core i.rd)) 1
        (.sysw 0x102 (sv t sb &&& ~~~t.core.ctx.busy)) (readLabel t.core i.rd))

/-- R196, R199 to R222: words of the copy engine. -/
def Obligations.CopyEngineWordsIssueAndConfigure : Prop := Claims.TaggedCommandsIssue ∧ Claims.WindowsCountersAndTags

/-- R331, R332, R339, R340 to R346: the management words of trees: with a live handle of the caller's partition they act
on the entry and answer at tick 1, the tree's PERM joined to the label. An edit marks its member and the entry, and is applied at
once when CUR has reached ESEG; no line that the word follows is poisoned (R503); a restore loads the saved records, holds its slots and map, and leaves the tree frozen. -/
def Obligations.TreeManagementAnswers : Prop := ∀ (q aa : BitVec 4) (sb : BitVec 5) (s : State) (x : Nat), x = (sv s sb).toNat →
  let on (ins : Instr) (minor : Nat) (p : State → TEnt → Prop) (f : State → TEnt → State × Nat) : Prop :=
    ∀ i, infoOf ins = some i → Ready i s → ∀ t e, t = joined i s → handleOf t minor (x % 2 ^ 32) false = .ok e → p t e →
      exec ins s = .next (clAnswer (f t e).1 i sb e.perm (f t e).2)
  let edit (ins : Instr) : Prop :=
    ∀ i, infoOf ins = some i → Ready i s → ∀ t e m y, t = joined i s → x < 2 ^ 49 → handleOf t 8 (x % 2 ^ 32) false = .ok e → hurtStop t (listParts e) = none →
      m = bits x 47 32 → y = (entShape t e).mems.getD m 0 → m < e.mcnt →
      ((¬(e.st = 2 ∨ e.st = 3) ∨ e.px = true ∨ (treeAt t e).bars ≠ []) → exec ins s = .next (clAnswer t i sb e.perm 3))
      ∧ ((e.st = 2 ∨ e.st = 3) → e.px = false → (treeAt t e).bars = [] → mbPr y = bit x 48 → exec ins s = .next (clAnswer t i sb e.perm 4))
      ∧ ((e.st = 2 ∨ e.st = 3) → e.px = false → (treeAt t e).bars = [] → mbPr y ≠ bit x 48 → (bit x 48 = true ∨
          (((entShape t e).mems.filter mbPr).length ≠ 1 ∧ ¬((e.mode = true ∨ e.op = 6) ∧ isRoot (entShape t e) m = true))) →
          ∀ e1 u, e1 = { e.withFl 3 true with eseg := max e.cur e.hi } →
            u = writeEnt (engWr t (e.desc + 0x40 + 16 * e.ncnt + 8 * m) 8 (setBit y 49 true)) e1 →
            (e.cur < e.hi → exec ins s = .next (clAnswer u i sb e.perm 0))
            ∧ (e.hi ≤ e.cur → exec ins s = .next (clAnswer (applyEdit u e1) i sb e.perm 0)))
  on (.clTfree q sb) 1 (fun t e => hurtStop t (listParts e) = none) (fun t e => (freeTree t e, 0))
  ∧ on (.clFrz q sb) 4 (fun t e => e.st = 2 → hurtStop t (listParts e) = none)
      (fun t e => if e.st = 2 then (writeEnt (freezePulls t e) { e with st := 3 }, 0) else if e.st = 3 then (t, 0) else (t, 3))
  ∧ on (.clThaw q sb) 5 (fun _ _ => True)
      (fun t e => if e.st = 3 then (writeEnt t { e with st := 2 }, 0) else if e.st = 2 then (t, 0) else (t, 3))
  ∧ on (.clAbort q sb) 0xD (fun t e => e.st = 2 ∨ e.st = 3 → hurtStop t (listParts e) = none) (fun t e => if e.st = 2 ∨ e.st = 3 then (abortBoth t e, 0) else (t, 3))
  ∧ on (.clSave q aa sb) 6 (fun t e => (av t aa).toNat % 64 = 0 ∧ e.st ≠ 3) (fun t _ => (t, 3))
  ∧ on (.clRst q aa sb) 7 (fun t e => (av t aa).toNat % 8 = 0 ∧ e.st ≠ 4) (fun t _ => (t, 3))
  ∧ edit (.clEditRemove q sb) ∧ edit (.clEditAdd q sb)
  ∧ (∀ i, infoOf (.clSave q aa sb) = some i → Ready i s → ∀ t e va, t = joined i s → handleOf t 6 (x % 2 ^ 32) false = .ok e →
      va = (av t aa).toNat → va % 64 = 0 → e.st = 3 → hurtStop t (listParts e) = none → ∀ t1 pa, contig t va e.areaSize .write = .ok (t1, pa) →
      ∀ t2, writeBytes t1 t1.core.who va e.areaSize (areaImage e (entShape t1 e) (treeAt t1 e)) (orAll ((treeAt t1 e).nodes.map (·.lab)) ||| readLabel t1.core i.rd) = .ok t2 →
        exec (.clSave q aa sb) s = .next (clAnswer (setTree (writeEnt (freeSlots t2 e) { e with st := 4, save := pa }) e
          { treeAt (freeSlots t2 e) e with nodes := [] }) i sb e.perm 0))
  ∧ (∀ i, infoOf (.clRst q aa sb) = some i → Ready i s → ∀ t e va, t = joined i s → handleOf t 7 (x % 2 ^ 32) false = .ok e →
      va = (av t aa).toNat → va % 8 = 0 → e.st = 4 → hurtStop t (restParts e) = none → ∀ t1 pa, contig t va (8 * e.ncnt) .read = .ok (t1, pa) →
      ∀ t2 img l, readBytes t1 t1.core.who va (8 * e.ncnt) .read = .ok (t2, img, l) →
      ∀ h, h = { entShape t2 e with maps := (List.range e.ncnt).map (fun k => rf img (8 * k) 8) } →
        (∀ r ∈ h.maps, r < 2 ^ 19) → (∀ k < e.ncnt, h.nodeOk k = true) →
        (takeSlots (slotsIn t2) t2 h.maps [] = none → exec (.clRst q aa sb) s = .next (clAnswer t2 i sb e.perm 2))
        ∧ ∀ t3 slots, takeSlots (slotsIn t2) t2 h.maps [] = some (t3, slots) →
            hurtStop t2 [(e.save, e.areaSize)] = none → ∀ e1, e1 = { e.withFl 5 false with st := 3, rmap := pa } →
            exec (.clRst q aa sb) s = .next (clAnswer (writeEnt (setTree (putSlots t3 pa h.maps slots) e
              { loadArea t3 e1 (treeAt t3 e) with slots := slots, cfg := [] }) e1) i sb e.perm 0))
  ∧ (∀ i, infoOf (.clTmk q aa sb) = some i → Ready i s → ∀ t va part idx, t = joined i s → va = (av t aa).toNat → part = x % 2 ^ 32 / 2 ^ 28 →
      idx = bits x 27 8 → otherPart t (x % 2 ^ 32) = false → va % 64 = 0 →
      ∀ t1 h pa, readDesc t va = .ok (t1, h, pa) → idx < (partAt t1 part).ttn.toNat → hurtStop t1 [(entAddr t1 part idx, 256)] = none →
      hurtStop t1 (oldParts t1 (readEnt t1 part idx)) = none → ∀ t2 e st, makeTree t1 (readEnt t1 part idx) h pa = (t2, e, st) →
        exec (.clTmk q aa sb) s = .next (clAnswer t2 i sb e.perm (st + (e.handle <<< 32))))
  ∧ ∀ i, infoOf (.clQuery q sb) = some i → Ready i s → ∀ t e, t = joined i s → x < 2 ^ 36 → bits x 35 32 ≤ 4 →
      handleOf t 0xA (x % 2 ^ 32) true = .ok e → (bits x 35 32 = 1 → hurtStop t (listParts e) = none) → ∃ y, exec (.clQuery q sb) s = .next (clAnswer t i sb e.perm y)
        ∧ (bits x 35 32 = 0 → y = e.st + e.fl * 2 ^ 8 + e.cur * 2 ^ 32) ∧ (bits x 35 32 = 2 → y = e.areaSize) ∧ (bits x 35 32 = 4 → y = e.hi)

/-- R334 to R337, R347 to R350: the words of members: on a tree that moves data a post, a take, a multicast, an exchange
issue with status 0 when the status rules allow it, and otherwise retire with their status; cl.bar enters the barrier, with REL
after a release of it (R348). The model's readings (log 28): cl.bar's object is translated as a read-modify-write at arrival, and the
arrival records its physical address, at which the completion flips it; an arrival goes out to the first present member of each
other package (barOut); cl.mcast issues without the PERM check on labels that cl.post and cl.reshard make; BA of a take and a multicast
must be 0 when CR is 0; cl.reshard on a tree whose OP is not exchange answers 5. -/
def Obligations.TreeMembersIssueOrAnswer : Prop :=
  ∀ (q aa : BitVec 4) (ac rl : BitVec 1) (sc : BitVec 3) (sb : BitVec 5) (s : State) (x : Nat), x = (sv s sb).toNat →
  let seg (t : State) : Nat := (ctlG t.core (sgG x)).toNat / 2 ^ 32
  let hd (t : State) : Nat := (ctlG t.core (sgG x)).toNat % 2 ^ 32
  let status (t : State) (e : TEnt) (may : Nat → Bool) (already : Nat → Bool) : Nat :=
    match memberOf t (entShape t e) t.coreNo with
    | some j => segStatus (treeAt t e) e (seg t) (may j) (already j)
    | none => 5
  (∀ i, infoOf (.clPost q ac rl sc aa sb) = some i → Ready i s → ∀ t va e, t = joined (i.naming (namedG (sgG x) 1)) s → va = (av t aa).toNat →
    x < 2 ^ 16 → sgRa x = 0 → otherPart t (hd t) = false → va % 128 = 0 → memberHandle t 2 (hd t) (seg t) = .ok e →
    ∀ t1 data ml, readBytes t t.core.who va (2 ^ e.segl) .read = .ok (t1, data, ml) →
    (ml ||| readLabel t1.core (i.naming (namedG (sgG x) 1)).rd) &&& ~~~(BitVec.ofNat 32 e.perm) = 0 →
    (findWindow t1.core.maps.toList va (2 ^ e.segl) 0).isSome = true →
    ∀ st, st = status t1 e (fun j => contributes e (entShape t1 e) (seg t) j && e.op != 10) (bit ((treeAt t1 e).postedIn e (seg t))) →
      (st ≠ 0 → exec (.clPost q ac rl sc aa sb) s = .next (refusedWord (clAnswer t1 i sb e.perm st)))
      ∧ (st = 0 → TagFree t1 (x % 64) → ∃ u c, exec (.clPost q ac rl sc aa sb) s = .next u
          ∧ Issued t1 u .post (x % 64) (av t1 aa) (sv t1 sb) c))
  ∧ (∀ i, infoOf (.clTake q ac rl sc aa sb) = some i → Ready i s → ∀ t e names,
    names = namedG (sgG x) 1 ++ [namedA (sgRa x)]
      ++ (if (readEnt s (hd s / 2 ^ 28) (bits (hd s) 27 8)).skip ≠ 0 then [namedA (sgDa x)] else []) ++ (if sgCr x then [namedA (sgBa x)] else []) →
    t = joined (i.naming names) s → x < 2 ^ 25 → (sgCr x = false → sgBa x = 0) → otherPart t (hd t) = false → (av t aa).toNat % 128 = 0 →
    (ctlA t.core (sgRa x)).toNat % 16 = 0 → memberHandle t 3 (hd t) (seg t) = .ok e →
    (e.skip = 0 → sgDa x = 0) → (e.skip ≠ 0 → (ctlA t.core (sgDa x)).toNat % 16 = 0) →
    ∀ st, st = status t e (receives e (entShape t e) (seg t))
        (fun j => (if e.op = 10 then (treeAt t e).took.contains (seg t, j) else bit ((treeAt t e).delivIn e (seg t)) j)
          || (treeAt t e).takes.any (fun k => k.seg == seg t && k.core == t.coreNo)) →
      (st ≠ 0 → exec (.clTake q ac rl sc aa sb) s = .next (refusedWord (clAnswer t i sb e.perm st)))
      ∧ (st = 0 → TagFree t (x % 64) → ∃ u c, exec (.clTake q ac rl sc aa sb) s = .next u
          ∧ Issued t u .take (x % 64) (av t aa) (sv t sb) c ∧ c.xa = ctlA t.core (sgRa x)))
  ∧ (∀ i, infoOf (.clMcast q ac rl sc aa sb) = some i → Ready i s → ∀ t va len e,
    t = joined (i.naming (namedG (sgG x) 2 ++ (if sgCr x then [namedA (sgBa x)] else []))) s →
    va = (av t aa).toNat → len = (ctlG t.core (sgG x + 1)).toNat % 2 ^ 32 → x < 2 ^ 25 → sgRa x = 0 → sgDa x = 0 → (sgCr x = false → sgBa x = 0) →
    sgG x ≤ 62 →
    len % 128 = 0 → 0 < len → len ≤ 2 ^ 21 → otherPart t (hd t) = false → va % 128 = 0 → bits (ctlG t.core (sgG x)).toNat 52 32 % 128 = 0 →
    memberHandle t 0xB (hd t) 0 = .ok e → ∀ t1 data ml, readBytes t t.core.who va len .read = .ok (t1, data, ml) →
      ((e.op ≠ 6 ∨ endpoint t1 t1.coreNo ≠ e.root) → exec (.clMcast q ac rl sc aa sb) s = .next (refusedWord (clAnswer t1 i sb e.perm 5)))
      ∧ (e.op = 6 → endpoint t1 t1.coreNo = e.root → TagFree t1 (x % 64) → ∃ u c, exec (.clMcast q ac rl sc aa sb) s = .next u
          ∧ Issued t1 u .mcast (x % 64) (av t1 aa) (sv t1 sb) c))
  ∧ (∀ i, infoOf (.clBar q ac rl sc aa sb) = some i → Ready i s → ∀ t va e, t = joined i s → va = (av t aa).toNat →
    otherPart t (x % 2 ^ 32) = false → va % 16 = 0 → memberHandle t 0xC (x % 2 ^ 32) 0 = .ok e →
    ∀ t1 w ml, readVa t t.core.who va 16 .rmw = .ok (t1, w, ml) →
    ∀ t2, writeVa t1 t1.core.who va 16 w (ml ||| readLabel t1.core i.rd) 0 = .ok t2 →
    ∀ y m, translate t2 va t2.core.who.vf t2.core.who.part t2.core.who.prv 16 .rmw = .ok (y, m) →
      let refused (st : Nat) : Prop := exec (.clBar q ac rl sc aa sb) s = .next (clAnswer (markSpan t t.core.who va 16 .rmw) i sb e.perm st)
      (memberOf t2 (entShape t2 e) t2.coreNo = none → refused 5)
      ∧ (∀ j, memberOf t2 (entShape t2 e) t2.coreNo = some j → mbPr ((entShape t2 e).mems.getD j 0) = false → refused 5)
      ∧ ∀ j, memberOf t2 (entShape t2 e) t2.coreNo = some j → mbPr ((entShape t2 e).mems.getD j 0) = true →
          ((treeAt t2 e).bars.any (fun b => b.core == t2.coreNo) = true → refused 3)
          ∧ ((treeAt t2 e).bars.any (fun b => b.core == t2.coreNo) = false → exec (.clBar q ac rl sc aa sb) s = .next (clAnswer (barCheck
              (setTree (barOut e.part (ml ||| readLabel t1.core i.rd) (firstOfEach (membersAway t2 (entShape t2 e)))
                (if rl = 1 then releaseLines t2 (av t2 aa) else t2)) e { treeAt t2 e with bars := (treeAt t2 e).bars ++ [⟨t2.coreNo, y.pa, ml ||| readLabel t1.core i.rd⟩] }) e) i sb e.perm 0)))
  ∧ ∀ i, infoOf (.clReshard q ac rl sc aa sb) = some i → Ready i s → ∀ t e td geo names va, va = (av t aa).toNat →
    names = namedG (sgG x) (3 + (ctlG s.core (sgG x + 2)).toNat % 8) ++ [namedA (sgRa x), namedA (sgDa x)] → t = joined (i.naming names) s →
    td = (ctlG t.core (sgG x + 2)).toNat % 8 → geo = (List.range (2 + td)).map (fun j => layoutWord j (ctlG t.core (sgG x + 1 + j))) →
    x < 2 ^ 20 → sgG x + 3 + td ≤ 64 → td ≠ 0 → td ≠ 7 → otherPart t (hd t) = false →
    (ctlA t.core (sgRa x)).toNat % 16 = 0 → memberHandle t 9 (hd t) (seg t) = .ok e → layoutBad geo (some e.mcnt) = false →
    ∀ eb da, eb = max 1 (fmtWidth e.fmt / 8) → da = (ctlA t.core (sgDa x)).toNat → va % eb = 0 → da % eb = 0 →
    ∀ t1 data ml ns nd, ns = shardEls geo (dimSrc geo) * eb → nd = shardEls geo (dimDst geo) * eb →
    readBytes t t.core.who va ns .read = .ok (t1, data, ml) → deviceParts t va ns = [] →
    (ml ||| readLabel t1.core (i.naming names).rd) &&& ~~~(BitVec.ofNat 32 e.perm) = 0 →
    (ns = 0 ∨ nd = 0 ∨ aliasStop ((va : Int), (va : Int) + ns) ((da : Int), (da : Int) + nd) = none) →
    ∀ st, st = (match memberOf t1 (entShape t e) t1.coreNo with
        | some j => segStatus (treeAt t1 e) e (seg t) (isMember e (entShape t e) (seg t) j && e.op == 10) (bit ((treeAt t1 e).postedIn e (seg t)) j)
        | none => 5) →
      (st ≠ 0 → exec (.clReshard q ac rl sc aa sb) s = .next (refusedWord (clAnswer t1 i sb e.perm st)))
      ∧ (st = 0 → TagFree t1 (x % 64) →
          ∃ u c, exec (.clReshard q ac rl sc aa sb) s = .next u ∧ Issued t1 u .reshard (x % 64) (av t1 aa) (sv t1 sb) c)

/-- R159 to R164: the translation words, on a VF below 384 that is the caller's own at H; a probe that meets a poisoned table
entry is a machine check (R176). The model's choices (log 21): nothing is cached, so that tl.inv and tl.inva have nothing to drop,
and tl.root and tl.dlog take an address outside memory as it is. -/
def Obligations.TranslationWordsAct : Prop := ∀ (q aa : BitVec 4) (sc : BitVec 2) (sb : BitVec 5) (s : State),
  let vf (t : State) : Nat := (sv t sb).toNat % 512
  let mine (t : State) : Prop := vf t < 384 ∧ (t.core.cont.prv = 1 → (vfAt t (vf t)).part = some t.core.cont.part)
  let a (t : State) : Nat := (av t aa).toNat
  GivesIf (.tlInv q sc aa sb) s mine (fun _ t => t) ∧ GivesIf (.tlInva q sc sb) s mine (fun _ t => t)
  ∧ (∀ v, GivesIf (.tlProbe q aa sb) s (fun t => mine t ∧ probe t (vf t) (a t) = .ok v) (fun i t => resultS t i sb 1 (BitVec.ofNat 64 v)))
  ∧ (∀ e, e.cause = 0x15 → TrapsIf (.tlProbe q aa sb) s (fun t => mine t ∧ probe t (vf t) (a t) = .error e) 0x15 (fun _ => 0) (fun _ => e.pa))
  ∧ GivesIf (.tlRoot q aa sb) s (fun t => mine t ∧ a t % 128 = 0 ∧ a t < 2 ^ 56)
      (fun _ t => setVf t (vf t) { vfAt t (vf t) with root := a t })
  ∧ GivesIf (.tlDlog q aa sb) s (fun t => mine t ∧ a t % 32 = 0) (fun _ t => setVf t (vf t) { vfAt t (vf t) with dlog := a t })
  ∧ (∀ p x, GivesIf (.tlHash q aa sb) s (fun t => p = a t % 16 ∧ (t.core.cont.prv = 1 → p = t.core.cont.part)
        ∧ (partAt t p).st = 3 ∧ t.isets.toList[p]? = some x)
      (fun i t => resultS { t with isets := t.isets.setIfInBounds p { x with seed := sv t sb } } i sb 1 0))
  ∧ GivesIf (.tlHash q aa sb) s (fun t => (t.core.cont.prv = 1 → a t % 16 = t.core.cont.part) ∧ (partAt t (a t % 16)).st ≠ 3)
      (fun i t => resultS t i sb 1 3)
  ∧ ∀ ins, (ins = .tlInv q sc aa sb ∨ ins = .tlInva q sc sb ∨ ins = .tlProbe q aa sb ∨ ins = .tlRoot q aa sb ∨ ins = .tlDlog q aa sb) →
      TrapsIf ins s (fun t => 384 ≤ vf t ∨ (t.core.cont.prv = 1 ∧ (vfAt t (vf t)).part ≠ some t.core.cont.part)) 3
        (fun t => t.core.grp.raw.toNat) (fun t => t.core.grp.word.toNat)

/-- R484 to R502: the partition words: what each answers in sb, and the state it answers from. Of a layout the header is read,
and the descriptors and windows that its masks select. The model's readings are log 32's: an empty partition is quiesced at once,
the lowest code of a wrong layout wins, scrubbed lines read zero at once, retiring answers 0 when no set retires, and which tables a
word reads, none of whose lines is poisoned here (R503). -/
def Obligations.PartitionWordsAnswer : Prop := ∀ (q aa : BitVec 4) (sb : BitVec 5) (s : State) (x : Nat), x = (sv s sb).toNat →
  let ans (ins : Instr) (p : State → Prop) (f : State → State) (v : State → Nat) : Prop :=
    GivesIf ins s p (fun i t => ptAnswer (f t) i sb (v t))
  let st (t : State) (p : Nat) : Nat := (partAt t p).st.toNat
  let state (ins : Instr) : Prop :=
    ans ins (fun _ => x < 2 ^ 6 ∧ bits x 5 4 = 2) id (fun t => st t (x % 16) * 2 ^ 8)
    ∧ ans ins (fun t => x < 2 ^ 6 ∧ bits x 5 4 ≤ 1 ∧ st t (x % 16) = 0) id (fun _ => 4)
    ∧ ans ins (fun t => x < 2 ^ 6 ∧ bits x 5 4 = 0 ∧ st t (x % 16) ≠ 0 ∧ x % 16 = t.core.cont.part) id (fun t => 3 + st t (x % 16) * 2 ^ 8)
    ∧ ans ins (fun t => x < 2 ^ 6 ∧ bits x 5 4 = 0 ∧ st t (x % 16) = 1 ∧ x % 16 ≠ t.core.cont.part) (fun t => quiesce t (x % 16))
        (fun t => st (quiesce t (x % 16)) (x % 16) * 2 ^ 8)
    ∧ ans ins (fun t => x < 2 ^ 6 ∧ bits x 5 4 = 0 ∧ 2 ≤ st t (x % 16) ∧ x % 16 ≠ t.core.cont.part) id (fun t => st t (x % 16) * 2 ^ 8)
    ∧ ans ins (fun t => x < 2 ^ 6 ∧ bits x 5 4 = 1 ∧ st t (x % 16) ≠ 0)
        (fun t => setPart t (x % 16) { partAt t (x % 16) with st := 1 }) (fun _ => 1 * 2 ^ 8)
  let whole (t : State) (o : Nat) : Prop := hurtStop t ([2, 3, 6].flatMap (tableParts t o)) = none
  let assign (ins : Instr) : Prop :=
    ans ins (fun t => x < 2 ^ 14 ∧ x % 512 < 384 ∧ bit x 13 = true ∧ (vfAt t (x % 512)).part = none) id (fun _ => 4)
    ∧ (∀ o, ans ins (fun t => x < 2 ^ 14 ∧ x % 512 < 384 ∧ bit x 13 = true ∧ (vfAt t (x % 512)).part = some o ∧ whole t o
        ∧ vfBusy t (x % 512) o = true) id (fun _ => 3))
    ∧ (∀ o, ans ins (fun t => x < 2 ^ 14 ∧ x % 512 < 384 ∧ bit x 13 = true ∧ (vfAt t (x % 512)).part = some o ∧ whole t o
        ∧ vfBusy t (x % 512) o = false)
        (fun t => setVf t (x % 512) { vfAt t (x % 512) with part := none, root := 0, ways := 0 }) (fun _ => 0))
    ∧ ∀ t1 d e, let reads (t : State) : Prop := x < 2 ^ 14 ∧ x % 512 < 384 ∧ bit x 13 = false ∧ (av t aa).toNat % 32 = 0 ∧ e = vfAt t (x % 512)
          ∧ ptRead t (av t aa).toNat 32 = .ok (t1, d) ∧ vfDescBad d = false
      ans ins (fun t => reads t ∧ (e.part = none ∨ e.part = some (bits x 12 9)))
          (fun _ => setVf t1 (x % 512) (vfEntOf (bits x 12 9) e d)) (fun _ => 0)
      ∧ ∀ o, o ≠ bits x 12 9 → ans ins (fun t => reads t ∧ e.part = some o) (fun _ => t1) (fun _ => 3)
  let moves (ins : Instr) : Prop :=
    (x % 4 = 1 → x < 2 ^ 6 →
      GivesIf ins s (fun t => (av t aa).toNat = 0 ∧ ∀ r, (partAt t (bits x 5 2)).ret = some r →
          hurtStop t [((partAt t (bits x 5 2)).fwd, 8 * (r.size / 65536))] = none
            ∧ ∀ k < r.size / 65536, bits (fwdAt t (partAt t (bits x 5 2)) k) 63 62 ≠ 1)
        (fun i t => plainWord (ptAnswer (retireSet t (bits x 5 2)) i sb 0))
      ∧ GivesIf ins s (fun t => (av t aa).toNat = 0 ∧ ∃ r, (partAt t (bits x 5 2)).ret = some r
          ∧ hurtStop t [((partAt t (bits x 5 2)).fwd, 8 * (r.size / 65536))] = none
          ∧ ∃ k < r.size / 65536, bits (fwdAt t (partAt t (bits x 5 2)) k) 63 62 = 1) (fun i t => plainWord (ptAnswer t i sb 3)))
    ∧ (x % 4 = 0 → x < 2 ^ 40 → ∀ i, infoOf ins = some i → Ready i s → ∀ t old new n p r cur,
        t = joined (i.naming [namedA (bits x 9 6)]) s → old = (av t aa).toNat → new = (ctlA t.core (bits x 9 6)).toNat → n = bits x 39 16 + 1 →
        p = bits x 5 2 → (partAt t p).ret = some r → cur = t.isets.toList.getD p ⟨0, 0, 0, [], 0⟩ → old % 65536 = 0 → new % 65536 = 0 →
        framesIn old n r.base r.size = true →
        (framesIn new n cur.base cur.size = true ∨ framesIn new n (ddrLo + (partAt t p).ddrBase) (partAt t p).ddrSize = true) →
        hurtStop t [((partAt t p).fwd + 8 * ((old - r.base) / 65536), 8 * n)] = none →
        ((∀ k < n, bits (fwdAt t (partAt t p) ((old - r.base) / 65536 + k)) 63 62 = 0) → TagFree t (bits x 15 10) →
          ∃ u c, exec ins s = .next u ∧ Issued t u .move (bits x 15 10) (av t aa) (sv t sb) c)
        ∧ ∀ k < n, bits (fwdAt t (partAt t p) ((old - r.base) / 65536 + k)) 63 62 ≠ 0 → exec ins s = .next (plainWord (ptAnswer t i sb 4)))
  state (.ptQuiesce q sb) ∧ state (.ptResume q sb) ∧ state (.ptStateRead q sb)
  ∧ assign (.ptVfsetAssign q aa sb) ∧ assign (.ptVfsetRelease q aa sb)
  ∧ moves (.ptMove q aa sb) ∧ moves (.ptRetire q aa sb)
  ∧ ans (.ptWays q sb) (fun t => bits x 31 9 = 0 ∧ x % 512 < 384 ∧ (t.core.cont.prv = 1 → (vfAt t (x % 512)).part = some t.core.cont.part))
      (fun t => setVf t (x % 512) { vfAt t (x % 512) with ways := BitVec.ofNat 32 (x >>> 32) }) (fun t => (vfAt t (x % 512)).ways.toNat <<< 32)
  ∧ ans (.ptFlr q sb) (fun t => x < 2 ^ 9 ∧ (vfAt t x).part = none) id (fun _ => 4)
  ∧ (∀ p, let resets (t : State) : Prop := x < 2 ^ 9 ∧ (vfAt t x).part = some p
          ∧ hurtStop t ([2, 3, 6].flatMap (tableParts t p) ++ [(t.evEpt, 128 * 4096)]) = none
      ans (.ptFlr q sb) (fun t => resets t ∧ (flr x p t).core.run ≠ none) (flr x p) (fun _ => 0)
      ∧ GivesIf (.ptFlr q sb) s (fun t => resets t ∧ (flr x p t).core.run = none) (fun _ t => setMark (flr x p t) .left))
  ∧ ∀ t0 h t1 img, 
      let reads (t : State) : Prop := x = 0 ∧ (av t aa).toNat % 64 = 0 ∧ ptRead t (av t aa).toNat 64 = .ok (t0, h)
        ∧ layoutRead t0 (av t aa).toNat (layoutPieces h) h = .ok (t1, img)
      (layoutCode t1 (limageOf t1 img) = none → hurtStop t1 (layoutTables t1 (limageOf t1 img)) = none →
        (∀ r p, layoutReason t1 (limageOf t1 img) = some (r, p) →
          ans (.ptLayout q aa sb) reads (fun _ => t1) (fun _ => 3 + r * 2 ^ 8 + p * 2 ^ 16))
        ∧ (layoutReason t1 (limageOf t1 img) = none → ans (.ptLayout q aa sb) reads (fun _ => applyLayout t1 (limageOf t1 img)) (fun _ => 0)))
      ∧ ∀ c, layoutCode t1 (limageOf t1 img) = some c →
          TrapsIf (.ptLayout q aa sb) s reads 2 (fun t => illegalInfo t 15 c) (fun t => t.core.grp.word.toNat)

/-- R470, R471: the gate: an empty label passes; a label whose every party has a label-preserving descriptor of the destination is kept; one
party's label with another descriptor of it leaves as 0; all else is refused. -/
def Claims.TheGateDecides : Prop := ∀ (t : State) (part : Nat) (l : Label) (d : EDest),
  let names (i : Nat) (keep : Bool) : Prop :=
    ∃ p, partyAt t part i = some p ∧ ∃ e ∈ p.dst, destMatches e d = true ∧ (keep = true → e.lp = true)
  gate t part 0 d = some 0
  ∧ (l ≠ 0 → (∀ i < 32, l.getLsbD i = true → names i true) → gate t part l d = some l)
  ∧ (∀ i < 32, l = 1#32 <<< i → ¬names i true → (names i false → gate t part l d = some 0) ∧ (¬names i false → gate t part l d = none))
  ∧ (∀ i j k, i ≠ j → l.getLsbD i = true → l.getLsbD j = true → l.getLsbD k = true → ¬names k true → gate t part l d = none)
  ∧ ∀ e : Dest,
    (∀ a, destMatches e (.host a) = true ↔ e.kind = 1 ∧ e.base ≤ a ∧ a < e.base + 65536 * e.len)
    ∧ (∀ xyz p, destMatches e (.peer xyz p) = true ↔ e.kind = 2 ∧ e.base % 4096 = xyz ∧ bits e.base 19 16 = p)
    ∧ (∀ a, destMatches e (.ext a) = true ↔ e.kind = 3 ∧ e.base ≤ a ∧ a < e.base + 65536 * e.len)
    ∧ ∀ die, destMatches e (.reader die) = true ↔ e.kind = 4 ∧ e.base % 2 = (if die = 4 then 0 else 1)

/-- R480: an apply under a policy in force, whose source and take record can be read: it is refused with gate reason 3 for a label outside
PM, 4 for a source that fails its FORM, 5 for a destination that the policy does not list, each counted in GT_REF and deferred as copy fault
reason 9; otherwise the bytes are copied with label OUT. That the verdict and the bytes are taken when the word issues, and a refusal is
counted then, are the model's readings (log 31). -/
def Claims.AppliesAreJudged : Prop :=
  ∀ (q aa : BitVec 4) (sb : BitVec 5) (s t t1 t2 : State) (ins : Instr) (i j : Info) (p : Policy) (x va ra n data rec : Nat) (da : Addr) (ml rl : Label),
  (ins = .gtReleaseInstall q aa sb ∨ ins = .gtReleaseRevoke q aa sb ∨ ins = .gtReleaseApply q aa sb) → x = (sv s sb).toNat → bits x 13 12 = 2 →
  bits x 23 22 = 0 → x < 2 ^ 48 → bits x 47 24 ≠ 0 → bits x 47 24 ≤ 16384 → infoOf ins = some i → Ready i s →
  j = i.naming [namedA (bits x 17 14), namedA (bits x 21 18)] → t = joined j s → policyAt t t.core.cont.part (bits x 11 6) = some p →
  inForce t p = true → va = (av t aa).toNat → da = ctlA t.core (bits x 17 14) → ra = (ctlA t.core (bits x 21 18)).toNat → n = 128 * bits x 47 24 →
  va % 128 = 0 → da.toNat % 128 = 0 → (p.form = 2 → ra % 16 = 0) → ∀ w, w = (⟨t.core.cont.vf, t.core.cont.part, t.core.cont.prv, true⟩ : Who) →
  cmdRd t w va n .read = .ok (t1, data, ml) → (if p.form = 2 then cmdRd t1 w ra 16 .read else .ok (t1, 0, 0)) = .ok (t2, rec, rl) → TagFree t2 (x % 64) →
  let lines (ok : BitVec 2 → Prop) (a m : Nat) : Prop := ∀ v ∈ lineVas a m, ∃ y, provWin t2 v = some y ∧ ok y
  let covered : Prop := (ml ||| rl ||| readLabel t.core j.rd) &&& ~~~p.pm = 0
  let sound : Prop :=
    (p.form = 1 → skSize (rf data 0 1) = n ∧ va % n = 0 ∧ lines (· = 1) va n ∧ skOk data = true ∧ skSealed data = true
      ∧ skCrc data n = rf data 0xFC 4 ∧ skBad data = false ∧ p.thr ≤ rf data 8 8)
    ∧ (p.form = 2 → lines (fun y => y = 1 ∨ y = 2) va n ∧ lines (· = 2) ra 1 ∧ rf rec 0 1 = 0 ∧ p.thr % 2 ^ 32 ≤ rf rec 8 4)
  let goesTo (k : Nat) (listed : Bool) (ok : Xlat → Prop) : Prop := ∃ y m, translate t2 ((da.toNat + 128 * k) % 2 ^ 72) w.vf w.part w.prv 128 .write = .ok (y, m)
    ∧ (if listed then p.ndst = 0 ∨ lineListed t2 p y = true else p.ndst ≠ 0 ∧ lineListed t2 p y = false) ∧ ok y
  let refused (r : Nat) : Prop := ∃ u c, exec ins s = .next u ∧ c.kind = .apply ∧ u.core.cmds = t2.core.cmds ++ [c]
    ∧ (∀ v, runApply v c = ⟨v, c, none, some (CFail.of 9 r 0 da.toNat)⟩)
    ∧ (t2.core.cont.part < 16 → (partAt u t2.core.cont.part).refs.v
        = (if (partAt t2 t2.core.cont.part).refs.v = 0xFFFFFFFF then 0xFFFFFFFF else (partAt t2 t2.core.cont.part).refs.v + 1))
  (¬covered → refused 3)
  ∧ (covered → ¬sound → refused 4)
  ∧ (covered → sound →
    (∀ k < bits x 47 24, (∀ b < k, goesTo b true (fun _ => True)) → goesTo k false (fun _ => True) → refused 5)
    ∧ ((∀ k < bits x 47 24, goesTo k true (fun y => y.phys = true ∨ y.ab = true ∨ p.out &&& ~~~(pageLabel t2 w.part y) = 0)) →
        ∃ u c, exec ins s = .next u ∧ c.kind = .apply ∧ c.da = da ∧ u.core.cmds = t2.core.cmds ++ [c]
          ∧ (∀ k < n / 8, c.geo[2 + k]? = some (BitVec.ofNat 64 (rf data (8 * k) 8)))
          ∧ ∀ v v1, workGo (applyLine c p.out) (bits x 47 24) 0 v = (v1, none) → runApply v c = ⟨v1, c, none, none⟩))

/-- R459, R473 to R480: label tables only gain bits, parties keep their key, policies are installed, revoked and applied. That a slot being
verified records which install it awaits (`instNo`) is the model's own bookkeeping (logs 31 and 37). -/
def Claims.TablesAndPoliciesAreKept : Prop := ∀ (q aa : BitVec 4) (sb : BitVec 5) (s : State) (x : Nat), x = (sv s sb).toNat →
  let part (t : State) : Nat := t.core.cont.part
  let slot (t : State) : Option Policy := policyAt t (part t) (bits x 11 6)
  let plain (ins : Instr) (p : State → Prop) (f : State → State) (v : Nat) : Prop :=
    GivesIf ins s p (fun i t => plainWord (gtAnswer (f t) i sb v))
  let rel (ins : Instr) : Prop :=
    (bits x 13 12 = 0 → x < 2 ^ 14 →
      plain ins (fun t => ∃ p, slot t = some p ∧ (p.st = 1 ∨ p.st = 2)) id 3
      ∧ ∀ i, infoOf ins = some i → Ready i s → ∀ t, t = joined i s → (∀ p, slot t = some p → p.st ≠ 1 ∧ p.st ≠ 2) → (av t aa).toNat % 64 = 0 →
          TagFree t (x % 64) → ∃ u c, exec ins s = .next u ∧ Issued t u .install (x % 64) (av t aa) (sv t sb) c
            ∧ policyAt u (part t) (bits x 11 6) = some (Policy.blank 1 (instNo u.coreNo c.ctx c.tag)))
    ∧ (bits x 13 12 = 1 → x < 2 ^ 14 → aa = 0 →
        plain ins (fun t => slot t = none) id 4
        ∧ plain ins (fun t => slot t ≠ none)
            (fun t => setPart t (part t) { partAt t (part t) with policies := eraseKey (bits x 11 6) (partAt t (part t)).policies }) 0)
    ∧ (bits x 13 12 = 2 → bits x 23 22 = 0 → x < 2 ^ 48 → bits x 47 24 ≠ 0 → bits x 47 24 ≤ 16384 →
        ∀ i j, infoOf ins = some i → Ready i s → j = i.naming [namedA (bits x 17 14), namedA (bits x 21 18)] → ∀ t, t = joined j s →
          ((∀ p, slot t = some p → inForce t p = false) → exec ins s = .next (plainWord (gtAnswer t i sb 4)))
          ∧ ∀ p va, slot t = some p → inForce t p = true → va = (av t aa).toNat → va % 128 = 0 → (ctlA t.core (bits x 17 14)).toNat % 128 = 0 →
              (p.form = 2 → (ctlA t.core (bits x 21 18)).toNat % 16 = 0) →
              ∀ w, w = (⟨t.core.cont.vf, part t, t.core.cont.prv, true⟩ : Who) →
              ∀ t1 data ml, cmdRd t w va (128 * bits x 47 24) .read = .ok (t1, data, ml) →
              ∀ t2 rec rl, (if p.form = 2 then cmdRd t1 w (ctlA t.core (bits x 21 18)).toNat 16 .read else .ok (t1, 0, 0)) = .ok (t2, rec, rl) →
              TagFree t2 (x % 64) →
              ∃ u c, exec ins s = .next u ∧ c.kind = .apply ∧ c.tag = BitVec.ofNat 6 x ∧ u.core.cmds = t2.core.cmds ++ [c])
  rel (.gtReleaseInstall q aa sb) ∧ rel (.gtReleaseRevoke q aa sb) ∧ rel (.gtReleaseApply q aa sb)
  ∧ (∀ k new, GivesIf (.gtLset q sb) s (fun t => k = x % 1024 ∧ bits x 31 10 = 0 ∧ k ≠ 0
        ∧ new = (labelEntry t (part t) k ||| BitVec.ofNat 32 (x / 2 ^ 32)))
      (fun i t => gtAnswer (setPart t (part t) { partAt t (part t) with labels := insertKey k new (partAt t (part t)).labels }) i sb (new.toNat * 2 ^ 32)))
  ∧ GivesIf (.gtLset q sb) s (fun _ => bits x 31 10 = 0 ∧ x % 1024 = 0 ∧ 2 ^ 32 ≤ x) (fun i t => gtAnswer t i sb 3)
  ∧ GivesIf (.gtLset q sb) s (fun _ => bits x 31 10 = 0 ∧ x % 1024 = 0 ∧ x < 2 ^ 32) (fun i t => gtAnswer t i sb 0)
  ∧ ∀ t1 blk l, 
      let ok (t : State) : Prop := bits x 7 5 = 0 ∧ x < 2 ^ 12 ∧ (av t aa).toNat % 64 = 0 ∧ readBytes t t.core.who (av t aa).toNat 576 .read = .ok (t1, blk, l)
        ∧ bit blk 0 = true ∧ rf blk 0 1 / 2 = 0 ∧ rf blk 1 3 = 0 ∧ rf blk 8 8 = 0 ∧ rf blk 0x204 4 = 0 ∧ rf blk 0x238 8 = 0
        ∧ ∀ j < 4, destBad (rf blk (0x40 + 16 * j) 16) = false
      let off : Prop := bit blk 0 = false ∨ rf blk 0 1 / 2 ≠ 0 ∨ rf blk 1 3 ≠ 0 ∨ rf blk 8 8 ≠ 0 ∨ rf blk 0x204 4 ≠ 0 ∨ rf blk 0x238 8 ≠ 0
        ∨ ∃ j < 4, destBad (rf blk (0x40 + 16 * j) 16) = true
      let pt : Nat := bits x 11 8
      let put (y : Party) : Part := { partAt t1 pt with parties := insertKey (x % 32) y (partAt t1 pt).parties }
      GivesIf (.gtParty q aa sb) s (fun t => bits x 7 5 = 0 ∧ x < 2 ^ 12 ∧ (av t aa).toNat % 64 = 0
          ∧ readBytes t t.core.who (av t aa).toNat 576 .read = .ok (t1, blk, l) ∧ off) (fun i _ => gtAnswer t1 i sb 3)
      ∧ (partyAt t1 pt (x % 32) = none → GivesIf (.gtParty q aa sb) s ok (fun i _ => gtAnswer (setPart t1 pt (put (partyOf blk))) i sb 0))
      ∧ ∀ old, partyAt t1 pt (x % 32) = some old →
          (old.tenant = (partyOf blk).tenant → old.kd = (partyOf blk).kd → GivesIf (.gtParty q aa sb) s ok
            (fun i _ => gtAnswer (setPart t1 pt (dropPolicies (put { old with dst := (partyOf blk).dst }) (x % 32))) i sb 0))
          ∧ (¬(old.tenant = (partyOf blk).tenant ∧ old.kd = (partyOf blk).kd) → GivesIf (.gtParty q aa sb) s ok (fun i _ => gtAnswer t1 i sb 3))

/-- R459, R470, R471, R473 to R480: the words of the gate, its verdict on an apply, and its decision on egress. That a slot being verified
records which install it awaits, and that an apply is judged and counted when its word issues, are the model's (logs 31 and 37). -/
def Obligations.GateWordsAnswer : Prop := Claims.TablesAndPoliciesAreKept ∧ Claims.AppliesAreJudged ∧ Claims.TheGateDecides

/-- R407 to R416: the mailbox words: what each answers, what opening and closing write in the mailbox and its episode's port, what
a generation older or, in mode 2, newer than the mailbox's is refused with, and a full mailbox of every mode (R416); an accepted
message's slot, step, label and generation, and its command; the command of a taken observation; and the mask of a gather, each
mailbox as the word finds it at its turn. That a generation at distance 32768 is neither older nor newer, so that its message is
accepted, and that a message commits when its word issues, are the model's readings (log 29). Headers, slots and entries that the word
reads are not poisoned (R176, R503). -/
def Obligations.MailboxWordsAnswer : Prop := ∀ (q aa : BitVec 4) (sb : BitVec 5) (s : State) (x : Nat), x = (sv s sb).toNat →
  let k : Nat := x % 8192
  let m (t : State) : Nat := mbGet t k
  let va (t : State) : Nat := (av t aa).toNat
  let ans (ins : Instr) (p : State → Prop) (f : State → State) (v : Nat) : Prop :=
    GivesIf ins s p (fun i t => evAnswer (f t) i sb (mbLbl (m t)) v)
  let refused (ins : Instr) (p : State → Prop) (u : State → State) (v : Nat) : Prop :=
    GivesIf ins s p (fun i t => refusedWord (evAnswer (u t) i sb (mbLbl (m t)) v))
  let whole (t : State) : Prop := hurtStop t (mailParts t k) = none
  let opens (t : State) : Prop := x < 2 ^ 52 ∧ bits x 29 27 < 4 ∧ bits x 26 25 ≠ 3 ∧ 2 ^ (bits x 29 27 + bits x 33 30 + 8) ≤ 32768 ∧ mbInRange t k = true ∧ whole t
  let ep (t : State) : Nat := epGet t (bits x 24 13)
  let sound (t : State) (l : List (Nat × Nat)) : Prop := hurtStop t l = none
  let sends (t : State) : Prop := whole t ∧ x < 2 ^ 52 ∧ va t % 16 = 0 ∧ mbCheck t k true = none ∧ bits x 44 29 ≤ mbSlot (m t) - 16
  let judged (t : State) : Prop := (mbMode (m t) ≠ 0 → genOlder (bits x 28 13) (mbGcur (m t)) = false)
    ∧ (mbMode (m t) = 2 → genOlder (mbGcur (m t)) (bits x 28 13) = false)
  let recvs (t t0 : State) : Prop := whole t ∧ x < 2 ^ 20 ∧ va t % 16 = 0 ∧ mbCheck t k true = none ∧ stashDest t (va t) (mbSlot (m t)) = .ok t0
  ans (.evOpen q sb) (fun t => opens t ∧ mbSt (m t) ≠ 0) id 3
  ∧ ans (.evOpen q sb) (fun t => opens t ∧ mbSt (m t) = 0 ∧ sound t [(epAddr t (bits x 24 13), 128)] ∧ (epLive (ep t) = false ∨ epVp (ep t) ≠ callerVp t)) id 5
  ∧ ans (.evOpen q sb) (fun t => opens t ∧ mbSt (m t) = 0 ∧ sound t [(epAddr t (bits x 24 13), 128)] ∧ epLive (ep t) = true ∧ epVp (ep t) = callerVp t
      ∧ (epPort (ep t) (bits x 51 50)).isSome = true) id 3
  ∧ (∀ i, infoOf (.evOpen q sb) = some i → Ready i s → ∀ t, t = joined i s → opens t → mbSt (m t) = 0 → sound t [(epAddr t (bits x 24 13), 128)] → epLive (ep t) = true → epVp (ep t) = callerVp t →
      epPort (ep t) (bits x 51 50) = none → ∀ n p hdr u, n = bits x 24 13 → p = bits x 51 50 →
      hdr = 1 + bits x 26 25 * 2 ^ 8 + (bits x 29 27 + bits x 33 30 * 2 ^ 2) * 2 ^ 24 + (n + p * 2 ^ 12) * 2 ^ 32
        + callerVp t * 2 ^ 48 + (readLabel t.core i.rd).toNat * 2 ^ 64 + bits x 49 34 * 2 ^ 96 →
      u = epPut (mbPut (markDie t k) k hdr) n (putRf (ep t) (0x50 + 2 * p) 2 (0x8000 + k)) →
      exec (.evOpen q sb) s = .next (evAnswer
        { u with gone := u.gone.filter (· != 4 * n + p), unans := eraseKey k u.unans } i sb (mbLbl (m t)) 0))
  ∧ ans (.evClose q sb) (fun t => whole t ∧ x < 2 ^ 13 ∧ mbCheck t k false = none ∧ mbSt (m t) = 0) id 4
  ∧ ans (.evClose q sb) (fun t => whole t ∧ x < 2 ^ 13 ∧ mbCheck t k false = none ∧ mbSt (m t) ≠ 0 ∧ mbWaited t k = true) id 3
  ∧ (∀ i, infoOf (.evClose q sb) = some i → Ready i s → ∀ t, t = joined i s → whole t → x < 2 ^ 13 → mbCheck t k false = none → mbSt (m t) ≠ 0 → mbWaited t k = false →
      sound t [(epAddr t (mbEpid (m t)), 128)] →
      ∀ u, u = mbPut t k (putRf (m t) 0 1 0) → ∀ n p, n = mbEpid (m t) → p = mbPort (m t) →
      (epPort (epGet t n) p ≠ some k → exec (.evClose q sb) s = .next (evAnswer { u with unans := eraseKey k u.unans } i sb (mbLbl (m t)) 0))
      ∧ (epPort (epGet t n) p = some k → ∀ v, v = epPut u n (putRf (epGet t n) (0x50 + 2 * p) 2 0) →
          exec (.evClose q sb) s = .next (evAnswer
            { v with gone := (4 * n + p) :: v.gone.filter (· != 4 * n + p), unans := eraseKey k v.unans } i sb (mbLbl (m t)) 0)))
  ∧ (∀ t1 data ml, refused (.evSend q aa sb) (fun t => sends t ∧ stashSrc t (va t) (bits x 44 29) = .ok (t1, data, ml)
        ∧ mbSt (m t) = 1 ∧ mbMode (m t) ≠ 0 ∧ genOlder (bits x 28 13) (mbGcur (m t)) = true) (fun _ => markDie t1 k) 4)
  ∧ (∀ t1 data ml, refused (.evSend q aa sb) (fun t => sends t ∧ stashSrc t (va t) (bits x 44 29) = .ok (t1, data, ml)
        ∧ mbSt (m t) = 1 ∧ mbMode (m t) = 2 ∧ genOlder (bits x 28 13) (mbGcur (m t)) = false ∧ genOlder (mbGcur (m t)) (bits x 28 13) = true)
      (fun t => mbPut (markDie t1 k) k (putRf (m t) 0 1 (if mbAseq (m t) = mbOseq (m t) then 3 else 2))) 4)
  ∧ (∀ t1 data ml, refused (.evSend q aa sb) (fun t => sends t ∧ stashSrc t (va t) (bits x 44 29) = .ok (t1, data, ml)
        ∧ (mbSt (m t) = 2 ∨ mbSt (m t) = 3)) (fun _ => markDie t1 k) 4)
  ∧ (∀ t1 data ml, refused (.evSend q aa sb) (fun t => sends t ∧ stashSrc t (va t) (bits x 44 29) = .ok (t1, data, ml)
        ∧ mbSt (m t) = 4 ∧ bit x 51 = false) (fun _ => markDie t1 k) 6)
  ∧ (∀ t1 data ml, refused (.evSend q aa sb) (fun t => sends t ∧ stashSrc t (va t) (bits x 44 29) = .ok (t1, data, ml)
        ∧ mbSt (m t) = 1 ∧ judged t ∧ mbDepth (m t) ≤ gap (mbAseq (m t)) (mbAcon (m t))) (fun _ => markDie t1 k) 1)
  ∧ (∀ i, infoOf (.evSend q aa sb) = some i → Ready i s → ∀ t t1 data ml, t = joined i s → sends t →
      stashSrc t (va t) (bits x 44 29) = .ok (t1, data, ml) → mbSt (m t) = 1 → judged t →
      gap (mbAseq (m t)) (mbAcon (m t)) < mbDepth (m t) →
      sound (markDie t1 k) [(mbSlotAddr (markDie t1 k) k (m t) (mbAseq (m t)) false, 16 + bits x 44 29)] → TagFree t1 (bits x 50 45) →
      ∀ n g l hdr, n = mbAseq (m t) → g = bits x 28 13 → l = ml ||| readLabel t1.core i.rd →
        hdr = putRf (putRf (m t) 0x10 4 (n + 1)) 8 4 (mbLbl (m t) ||| l).toNat →
      ∃ u c, Issued t1 u .send (bits x 50 45) (av t1 aa) (sv t1 sb) c ∧ c.lab = l
        ∧ exec (.evSend q aa sb) s = .next (evAnswer
            (mbPut (engWr u (mbSlotAddr u k (m t) n false) (16 + bits x 44 29) (message n g 0 (bits x 44 29) l data)) k
              (if genOlder (mbGcur (m t)) g then putRf hdr 0xC 2 g else hdr)) i sb (mbLbl (m t)) 0))
  ∧ (∀ t0, refused (.evRecv q aa sb) (fun t => recvs t t0 ∧ mbOseq (m t) = mbOrec (m t) ∧ mbSt (m t) = 4 ∧ bit x 19 = false) (fun _ => markDie t0 k) 6
      ∧ refused (.evRecv q aa sb) (fun t => recvs t t0 ∧ mbOseq (m t) = mbOrec (m t) ∧ mbSt (m t) = 3) (fun _ => markDie t0 k) 4
      ∧ refused (.evRecv q aa sb) (fun t => recvs t t0 ∧ mbOseq (m t) = mbOrec (m t) ∧ (mbSt (m t) = 1 ∨ mbSt (m t) = 2)
        ∧ (mbAseq (m t) = mbOseq (m t) ∨ t.core.locked = true ∨ t.core.grp.safe = none)) (fun _ => markDie t0 k) 3)
  ∧ (∀ i, infoOf (.evRecv q aa sb) = some i → Ready i s → ∀ t t0 n, t = joined i s → recvs t t0 → mbOseq (m t) = mbOrec (m t) →
      (mbSt (m t) = 1 ∨ mbSt (m t) = 2) → mbAseq (m t) ≠ mbOseq (m t) → t.core.locked = false → t.core.grp.safe = some n →
      exec (.evRecv q aa sb) s = .next (safeSuspend (markDie t0 k) (markDie t0 k).core.pc n 3 3 k (mbAddr (markDie t0 k) k) false))
  ∧ (∀ i, infoOf (.evRecv q aa sb) = some i → Ready i s → ∀ t t0 h, t = joined i s → recvs t t0 → mbOseq (m t) ≠ mbOrec (m t) →
      sound (markDie t0 k) (obsParts (markDie t0 k) k (m t)) → TagFree t0 (bits x 18 13) →
      h = (takeObs (markDie t0 k) k (m t) 0).2.2 →
      ∃ u c, exec (.evRecv q aa sb) s = .next (evAnswer u i sb (mbLbl (m t)) (imgF h 6 1 * 2 ^ 8 + imgF h 4 2 * 2 ^ 16 + imgF h 0 4 * 2 ^ 32))
        ∧ c.kind = .recv ∧ c.aa = av t aa ∧ u.core.cmds = t0.core.cmds ++ [c])
  ∧ ∀ i, infoOf (.evGather q aa sb) = some i → Ready i s → ∀ t t0 l,
      t = joined (i.naming (namedG (bits x 11 6) (min (gatherRegs x) (64 - bits x 11 6)))) s → l = gatherList t.core x →
      sound t (l.flatMap (mailParts t)) → x < 2 ^ 20 → bits x 11 6 + gatherRegs x ≤ 64 → (∀ j ∈ l, j < 8192 ∧ mbSlot (mbGet t j) ≤ gatherStride x) → va t % 16 = 0 →
      stashDest t (va t) (gatherStride x * l.length) = .ok t0 → gatherBad t0 l [] = none →
      sound t0 (l.flatMap (fun j => obsParts t0 j (mbGet t0 j))) → TagFree t0 (x % 64) →
      ∃ u c mask, exec (.evGather q aa sb) s = .next (evAnswer u i sb (orAll (l.map (fun j => mbLbl (mbGet t0 j)))) mask)
        ∧ c.kind = .recv ∧ u.core.cmds = t0.core.cmds ++ [c] ∧ mask < 2 ^ 64
        ∧ ∀ j v b, v = ((l.zipIdx.take j).foldl (gatherOne (gatherStride x)) (t0, 0, [], 0)).1 → l[j]? = some b →
            (bit mask j = true ↔ mbOseq (mbGet v b) ≠ mbOrec (mbGet v b))
            ∧ (bit mask (32 + j) = true ↔ mbOseq (mbGet v b) = mbOrec (mbGet v b) ∧ (mbSt (mbGet v b) = 4 ∨ mbSt (mbGet v b) = 3))

/-- R434 to R436, R447 to R456: the dispatcher's words answer in sb at tick 1. A stage of the caller's partition and VF, its
privilege sufficient, an aligned record or node that lies in memory, and memory that is not poisoned where the word follows a pointer
of the machine's (R176, R503) are assumed; ds.launch on a full pool, a push on a full ring and a pop of an empty one answer 1, 1
and 3, or suspend at the group's safe point. That ds.launch.w answers 1 at once, and does not suspend, where its VF holds the slots
that R499 allows it, that sb of a ds.cond carries the label of memory as well (`||| ml`), that what these words write carries their
label, and that ds.wake at F acts on a record of whichever partition (R454), are the model's readings (log 30). -/
def Obligations.DispatcherWordsAnswer : Prop :=
  ∀ (q aa : BitVec 4) (ac rl : BitVec 1) (sc : BitVec 3) (sb : BitVec 5) (s : State) (x : Nat), x = (sv s sb).toNat →
  let va (t : State) : Nat := (av t aa).toNat
  let word (ins : Instr) (p : State → Info → Prop) (f : State → State) (v : State → Nat) : Prop :=
    ∀ i, infoOf ins = some i → Ready i s → p (joined i s) i → exec ins s = .next (dsAnswer (f (joined i s)) i sb (v (joined i s)))
  let suspends (ins : Instr) (p : State → Info → Prop) (u : State) (n : BitVec 16) (arg : Nat) : Prop :=
    ∀ i, infoOf ins = some i → Ready i s → p (joined i s) i →
      exec ins s = .next (safeSuspend u u.core.pc n 3 4 arg ((stageDesc u u.core.cont.part (x % 65536)).getD 0) false)
  let part (t : State) : Nat := t.core.cont.part
  let sound (t : State) (l : List (Nat × Nat)) : Prop := hurtStop t l = none
  let stage (t t1 : State) : Prop := stageHas t (part t) (x % 65536) = true ∧ stageVp t1 (x % 65536) = callerVp t1
    ∧ stageOprv t1 (x % 65536) ≤ t1.core.cont.prv ∧ sound t1 (stageParts t1 (x % 65536))
  let other (t t1 : State) : Prop := stageHas t (part t) (x % 65536) = true ∧ sound t1 (stageParts t1 (x % 65536))
    ∧ (stageVp t1 (x % 65536) ≠ callerVp t1 ∨ t1.core.cont.prv < stageOprv t1 (x % 65536))
  let conds (ins : Instr) (f : Word → Word → Word) : Prop :=
    ∀ i, infoOf ins = some i → Ready i s → ∀ t t1 n ml, t = joined i s → va t % 64 = 0 → readVa t t.core.who (va t) 16 .rmw = .ok (t1, n, ml) →
      (rf n 0 1 = 2 ∨ rf n 0 1 = 3) → ∀ old, old = BitVec.ofNat 64 (rf n 8 8) →
      ∀ u, writeVa t1 t1.core.who (va t + 8) 8 (f old (sv t1 sb)).toNat (readLabel t1.core i.rd) 0 = .ok u →
        exec ins s = .next (push u 1 (.s sb old) (readLabel t1.core i.rd ||| ml))
  let launches (ins : Instr) (w : Bool) : Prop :=
    ∀ i0 i, infoOf ins = some i0 → Ready i0 s → i = (if bit x 4 then i0.naming [namedA (x % 16)] else i0) → ∀ t t1 img ml, t = joined i s → x < 2 ^ 5 →
      va t % 64 = 0 → readVa t t.core.who (va t) 64 .rmw = .ok (t1, img, ml) → imageBad img = false → stageHas t1 (part t1) (rf img 0x29 2) = true →
      sound t1 (stageParts t1 (rf img 0x29 2)) →
      ∀ t2 npa dep, (if bit x 4 then dsPlace t1 (ctlA t.core (x % 16)).toNat 16 else .ok (t1, 0)) = .ok (t2, npa) → dep = t2.core.cont.dep.toNat + 1 →
        (dep = 8 → exec ins s = .next (dsAnswer t2 i sb 3))
        ∧ (dep ≠ 8 → stageVp t2 (rf img 0x29 2) ≠ callerVp t2 → exec ins s = .next (dsAnswer t2 i sb 5))
        ∧ (dep ≠ 8 → stageVp t2 (rf img 0x29 2) = callerVp t2 → sound t2 (slotParts t2 (lookedSlots t2 dep)) →
            (atLimit t2 (part t1) t2.core.cont.vf = true → exec ins s = .next (dsAnswer t2 i sb 1))
            ∧ (atLimit t2 (part t1) t2.core.cont.vf = false → freeSlot t2 (part t1) dep = none → (w = false → exec ins s = .next (dsAnswer t2 i sb 1))
                ∧ ∀ n, w = true → t2.core.grp.safe = some n → t2.core.locked = false →
                    exec ins s = .next (safeSuspend t2 t2.core.pc n 3 6 dep (partAt t2 (part t1)).pool.toNat false))
            ∧ ∀ k, atLimit t2 (part t1) t2.core.cont.vf = false → freeSlot t2 (part t1) dep = some k →
                exec ins s = .next (dsAnswer
                  (takeSlot t2 k (childOf t2 img (ml ||| readLabel t2.core i.rd)) dep npa (bit x 4) (ml ||| readLabel t2.core i.rd)) i sb
                  ((partAt t2 (part t1)).lseq % 2 ^ 24 * 2 ^ 8)))
  launches (.dsLaunch q rl sc aa sb) false ∧ launches (.dsLaunchW q rl sc aa sb) true
  ∧ (∀ t1 pa l, let ok (t : State) (i : Info) : Prop := x < 2 ^ 16 ∧ dsAt t (va t) 64 = .ok (t1, pa) ∧ stage t t1 ∧ l = readLabel t1.core i.rd
      let back : State := writeRecord t1 pa (putRf (setSt (readRecord t1 pa) 1 0 0 0) 0x29 2 x) l
      let ring (t : State) : Prop := sound t1 (ringParts t1 x (stageRd t1 (part t) x 0x14 4) 1)
      word (.dsQpush q rl sc aa sb) (fun t _ => x < 2 ^ 16 ∧ dsAt t (va t) 64 = .ok (t1, pa) ∧ other t t1) (fun _ => t1) (fun _ => 5)
      ∧ (∀ t2, word (.dsQpush q rl sc aa sb) (fun t i => ok t i ∧ (recSt (readRecord t1 pa) = 0 ∨ recSt (readRecord t1 pa) = 5)
          ∧ ring t ∧ ringAppend back (part t) x pa 0 l = some t2) (fun _ => t2) (fun _ => 0))
      ∧ word (.dsQpush q rl sc aa sb) (fun t i => ok t i ∧ recSt (readRecord t1 pa) ≠ 0 ∧ recSt (readRecord t1 pa) ≠ 5) (fun _ => t1) (fun _ => 3)
      ∧ word (.dsQpush q rl sc aa sb) (fun t i => ok t i ∧ (recSt (readRecord t1 pa) = 0 ∨ recSt (readRecord t1 pa) = 5)
          ∧ ring t ∧ ringAppend back (part t) x pa 0 l = none ∧ (t1.core.grp.safe = none ∨ t1.core.locked = true)) (fun _ => t1) (fun _ => 1)
      ∧ ∀ n, suspends (.dsQpush q rl sc aa sb) (fun t i => ok t i ∧ (recSt (readRecord t1 pa) = 0 ∨ recSt (readRecord t1 pa) = 5)
          ∧ ring t ∧ ringAppend back (part t) x pa 0 l = none ∧ t1.core.grp.safe = some n ∧ t1.core.locked = false) t1 n 0)
  ∧ (∀ t1 pa, let ok (t : State) : Prop := x < 2 ^ 16 ∧ dsAt t (va t) 16 = .ok (t1, pa) ∧ stage t t1
        ∧ (stageEn t1 (part t) x = false ∨ isFaultq t1 (part t) x = true) ∧ sound t1 (lookedRing t1 x)
      word (.dsQpop q ac sc aa sb) (fun t _ => x < 2 ^ 16 ∧ dsAt t (va t) 16 = .ok (t1, pa) ∧ (other t t1 ∨ stageHas t (part t) x = true
          ∧ sound t1 (stageParts t1 x) ∧ stageEn t1 (part t) x = true ∧ isFaultq t1 (part t) x = false)) (fun _ => t1) (fun _ => 5)
      ∧ (∀ n t2, word (.dsQpop q ac sc aa sb) (fun t i => ok t ∧ oldestEntry t1 (part t) x = some n
          ∧ writeVa t1 t1.core.who (va t) 16 (readPa t1 (ringAddr t1 (part t) x n) 16) (readLabel t1.core i.rd) 0 = .ok t2) (fun t => takeRing t2 (part t) x n) (fun _ => 0))
      ∧ word (.dsQpop q ac sc aa sb) (fun t _ => ok t ∧ oldestEntry t1 (part t) x = none ∧ (t1.core.grp.safe = none ∨ t1.core.locked = true))
          (fun _ => t1) (fun _ => 3)
      ∧ ∀ n, suspends (.dsQpop q ac sc aa sb) (fun t _ => ok t ∧ oldestEntry t1 (part t) x = none ∧ t1.core.grp.safe = some n ∧ t1.core.locked = false)
          t1 n 1)
  ∧ conds (.dsCondSet q aa sb) (fun _ y => y) ∧ conds (.dsCondAdd q aa sb) (· + ·) ∧ conds (.dsCondOr q aa sb) (· ||| ·) ∧ conds (.dsCondAnd q aa sb) (· &&& ·)
  ∧ (∀ t1 pa l, let ok (t : State) : Prop := x = 0 ∧ dsAt t (va t) 64 = .ok (t1, pa)
      word (.dsGstop q aa sb) (fun t _ => ok t ∧ readPa t1 pa 1 ≠ 1) (fun _ => t1) (fun _ => 4)
      ∧ (∀ g, word (.dsGstop q aa sb) (fun t i => ok t ∧ l = readLabel t1.core i.rd ∧ readPa t1 pa 1 = 1 ∧ sound t1 (stopParts t1 pa)
            ∧ (engWr t1 pa 1 3 l).graphs.find? (fun y => y.pa == pa) = some g)
          (fun _ => graphEnd (engWr t1 pa 1 3 l) g) (fun _ => 0))
      ∧ word (.dsWake q aa sb) (fun t _ => ok t ∧ (t1.core.cont.prv = 2 ∨ bits (rf (readRecord t1 pa) 0x1B 2) 12 9 = t1.core.cont.part) ∧ t1.core.cont.prv ≤ 2
          ∧ recSt (readRecord t1 pa) ≠ 3) (fun _ => t1) (fun _ => 3)
      ∧ word (.dsWake q aa sb) (fun t _ => ok t ∧ (t1.core.cont.prv = 2 ∨ bits (rf (readRecord t1 pa) 0x1B 2) 12 9 = t1.core.cont.part) ∧ t1.core.cont.prv ≤ 2
          ∧ recSt (readRecord t1 pa) = 3) (fun _ => wakeRecord t1 pa) (fun _ => 0)
      ∧ ∀ y m nn img, word (.dsGstart q aa sb) (fun t _ => ok t ∧ translate t1 (va t) t1.core.who.vf t1.core.who.part t1.core.who.prv 64 .rmw = .ok (y, m)
          ∧ nn = readPa t1 (pa + 2) 2 ∧ nn ≤ 4096 ∧ img = readPa t1 pa (64 + 64 * nn) ∧ sound t1 [(pa, 64 + 64 * nn)] ∧ graphBad (va t) (if y.phys then 56 else if y.lvl = 3 then 29 else 16) img = false
          ∧ (∀ b ∈ graphStages img, stageHas t1 (part t1) b.1 = true) ∧ rf img 0 1 = 1) (fun _ => t1) (fun _ => 3))
  ∧ (∀ i, infoOf (.dsGstart q aa sb) = some i → Ready i s → ∀ t t1 pa y m nn img, t = joined i s → x = 0 → dsAt t (va t) 64 = .ok (t1, pa) →
      translate t1 (va t) t1.core.who.vf t1.core.who.part t1.core.who.prv 64 .rmw = .ok (y, m) → nn = readPa t1 (pa + 2) 2 → nn ≤ 4096 →
      img = readPa t1 pa (64 + 64 * nn) → sound t1 [(pa, 64 + 64 * nn)] → graphBad (va t) (if y.phys then 56 else if y.lvl = 3 then 29 else 16) img = false →
      (∀ b ∈ graphStages img, stageHas t1 (part t1) b.1 = true) →
      sound t1 ((graphStages img).flatMap (fun b => stageParts t1 b.1)) → rf img 0 1 ≠ 1 →
      ((∃ b ∈ graphStages img, stageVp t1 b.1 ≠ callerVp t1) → exec (.dsGstart q aa sb) s = .next (dsAnswer t1 i sb 5))
      ∧ ((∀ b ∈ graphStages img, stageVp t1 b.1 = callerVp t1) →
        (((∃ b ∈ graphStages img, stageRd t1 (part t1) b.1 0x30 9 ≠ 0) ∨ ¬((graphStages img).map (·.1)).Nodup) →
          exec (.dsGstart q aa sb) s = .next (dsAnswer t1 i sb 3))
        ∧ ((∀ b ∈ graphStages img, stageRd t1 (part t1) b.1 0x30 9 = 0) → ((graphStages img).map (·.1)).Nodup →
          ∀ t2 done, (if rf img 0x10 9 = 0 then .ok (t1, 0) else dsPlace t1 (rf img 0x10 9) 16) = .ok (t2, done) →
            exec (.dsGstart q aa sb) s = .next (dsAnswer (graphStart t2 pa img done (readLabel t2.core i.rd)) i sb 0))))
  ∧ (∀ i, infoOf (.dsPrio q aa sb) = some i → Ready i s → ∀ t v, t = joined i s → bits x 7 4 = 0 → x < 2 ^ 9 →
      v = (if t.core.cont.prv = 0 then min (x % 16) ((partAt t (part t)).pceil.toNat % 16) else x % 16) →
      (bit x 8 = true → aa = 0 → exec (.dsPrio q aa sb) s = .next (push (dsAnswer t i sb 0) 1 (.pri (BitVec.ofNat 4 v)) 0))
      ∧ (bit x 8 = false → ∀ t1 pa r, dsAt t (va t) 64 = .ok (t1, pa) → r = readRecord t1 pa →
          (rf r 0x1B 2 % 512 ≠ t1.core.cont.vf → exec (.dsPrio q aa sb) s = .next (dsAnswer t1 i sb 5))
          ∧ (rf r 0x1B 2 % 512 = t1.core.cont.vf →
            ((recSt r = 1 ∨ recSt r = 3 ∨ recSt r = 4) → exec (.dsPrio q aa sb) s = .next
              (dsAnswer (writeRecord t1 pa (putRf r 0xA 1 (rf r 0xA 1 / 16 * 16 + v)) (readLabel t1.core i.rd)) i sb 0))
            ∧ (recSt r = 2 → exec (.dsPrio q aa sb) s = .next (dsAnswer t1 i sb 3))
            ∧ (recSt r = 0 ∨ 4 < recSt r → exec (.dsPrio q aa sb) s = .next (dsAnswer t1 i sb 4)))))
  ∧ (let asks (item : Nat) (v : State → Nat) : Prop := word (.dsQuery q sb) (fun t _ => x < 2 ^ 20 ∧ bits x 19 16 = item
        ∧ stageHas t (part t) (x % 65536) = true ∧ stageVp t (x % 65536) = callerVp t ∧ sound t (stageParts t (x % 65536))) id v
      let rd (t : State) (o : Nat) : Nat := stageRd t (part t) (x % 65536) o 4
      asks 0 (fun t => gap (rd t 0x14) (rd t 0x10) + (t.ready.filter (fun e => e.part == part t && e.stg == x % 65536)).length)
      ∧ asks 1 (rd · 0x18) ∧ asks 2 (rd · 0x1C) ∧ asks 3 (rd · 0x2C))
  ∧ ∀ l : State → List Nat, l = (fun t => depthSlots t (part t) (x % 65536)) →
      let slots (item : Nat) (v : State → Nat) : Prop := word (.dsQuery q sb) (fun t _ => x < 2 ^ 20 ∧ bits x 19 16 = item
        ∧ x % 65536 < 8 ∧ sound t (slotParts t (l t))) id v
      slots 4 (fun t => ((l t).filter (fun k => slotSst t (part t) k != 0)).length)
      ∧ slots 5 (fun t => ((l t).filter (fun k => slotSst t (part t) k == 0)).length)

/-- R393: a standard instruction whose access is allowed retires: its register, its pc, the counters of R393 and the step
budget of R419 that retiring moves; a load, store or atomic reads and writes memory as well, and a CSR instruction that writes
writes its register. Atomics and reservations act in memory and through neighbour windows, at their home (R168). That every access
is performed at once, so that fences wait for nothing, is the model's choice (log 2), and so are wfi that completes at once, and what
an lr and sc reserve and need, a home's verdict on an sc through a window among them, which is a free value (log 16). -/
def Obligations.StandardInstructionsRetire : Prop := ∀ (s : State) (c : Bool) (d a b : BitVec 5),
  let h := curHart s
  let next : Word := h.pc + (if c then 2 else 4)
  let run (rv : RvInstr) (t : State) (rd : BitVec 5) (v pc : Word) : Prop :=
    exec (.hartInstruction rv c) s = .next (retireHart (updHart t (fun k => k.wr rd v)) (!h.machine) pc true false)
  let len (dbl : Bool) : Nat := if dbl then 8 else 4
  (∀ m, run (.lui d m) s d m next ∧ run (.auipc d m) s d (h.pc + m) next ∧ run (.jal d m) s d next (h.pc + m)
    ∧ run (.jalr d a m) s d next ((h.rd a + m) &&& ~~~1#64)
    ∧ ∀ k, run (.branch k a b m) s 0 0 (if rvTaken k (h.rd a) (h.rd b) then h.pc + m else next))
  ∧ (∀ o m, run (.op o d a b) s d (rvOp o (h.rd a) (h.rd b)) next ∧ run (.opImm o d a m) s d (rvOp o (h.rd a) m) next)
  ∧ (∀ size sg m t v, hartLoad s h (h.rd a + m).toNat size .load = .ok (t, v) → (curHart t).machine = h.machine →
      run (.load size sg d a m) t d (if sg then sx (8 * size) v else BitVec.ofNat 64 v) next)
  ∧ (∀ size m t, hartStore s h (h.rd a + m).toNat size ((h.rd b).toNat % 2 ^ (8 * size)) = .ok t → (curHart t).machine = h.machine →
      run (.store size a b m) t 0 0 next)
  ∧ (∀ dbl t v, (h.rd a).toNat % len dbl = 0 → atomicAt (h.rd a).toNat = true →
      hartCheckAs s h (h.rd a).toNat (len dbl) .amo .load = none → hartLoad s h (h.rd a).toNat (len dbl) .load = .ok (t, v) → (curHart t).machine = h.machine →
      run (.lr dbl d a) (updHart t (fun k => { k with resv := some ((h.rd a).toNat / 64 * 64) })) d (sx (8 * len dbl) v) next)
  ∧ (∀ dbl, (h.rd a).toNat % len dbl = 0 → hartCheck s h (h.rd a).toNat (len dbl) .amo = none →
      (∀ t ok, h.resv = some ((h.rd a).toNat / 64 * 64) → atomicAt (h.rd a).toNat = true → scHolds s (h.rd a).toNat = (t, ok) →
        (ok = false → run (.sc dbl d a b) (updHart t (fun k => { k with resv := none })) d 1 next)
        ∧ ∀ u, ok = true → hartPut t (h.rd a).toNat (len dbl) ((h.rd b).toNat % 2 ^ (8 * len dbl)) true = some u → (curHart u).machine = h.machine →
            run (.sc dbl d a b) (updHart u (fun k => { k with resv := none })) d 0 next)
      ∧ (isMem (h.rd a).toNat = true → scHolds s (h.rd a).toNat = (s, true))
      ∧ (h.resv ≠ some ((h.rd a).toNat / 64 * 64) → run (.sc dbl d a b) (updHart s (fun k => { k with resv := none })) d 1 next))
  ∧ (∀ o dbl t v u, atomicAt (h.rd a).toNat = true → hartLoad s h (h.rd a).toNat (len dbl) .amo = .ok (t, v) →
      hartPut t (h.rd a).toNat (len dbl) (rvAmoVal o (len dbl) v (h.rd b).toNat) true = some u → (curHart u).machine = h.machine →
      run (.amo o dbl d a b) u d (sx (8 * len dbl) v) next)
  ∧ run .fence s 0 0 next ∧ run .fenceI s 0 0 next ∧ (h.machine = true → run .wfi s 0 0 next)
  ∧ (∀ num old, csrGet s num.toNat = some old → csrAllowed s num.toNat false = true →
      run (.csr 2 false d 0 num) s d (BitVec.ofNat 64 old) next)
  ∧ (∀ (o : BitVec 2) imm num old x, o ≠ 0 → (o = 1 ∨ a ≠ 0) → csrGet s num.toNat = some old → csrAllowed s num.toNat true = true →
      x = (if imm = true then a.toNat else (h.rd a).toNat) → ∀ new,
      new = (if o = 1 then x else if o = 2 then old ||| x else old &&& (2 ^ 64 - 1 - x)) →
      exec (.hartInstruction (.csr o imm d a num) c) s = .next (retireHart (updHart (csrPut s num.toNat new)
        (fun k => k.wr d (BitVec.ofNat 64 old))) (!h.machine) next true (num == 0xB02)))
  ∧ (s.hartNo < 96 → ∀ v : Word, (curHart (csrPut s 0x340 v.toNat)).mscratch = v ∧ (curHart (csrPut s 0x341 v.toNat)).mepc = v &&& ~~~1#64
      ∧ (curHart (csrPut s 0x342 v.toNat)).mcause = v ∧ (curHart (csrPut s 0x343 v.toNat)).mtval = v)
  ∧ (h.machine = true → ∃ t, exec (.hartInstruction .mret c) s = .next t ∧ (curHart t).pc = h.mepc
      ∧ (curHart t).machine = (bits h.mstatus.toNat 12 11 == 3))

/-- R393, R417: exceptions of a hart enter machine mode: mepc holds the pc, mcause the cause, mstatus its stack, and the
pc is the handler's. Which value mtval takes is the model's choice (log 16). -/
def Obligations.HartExceptionsEnterMachineMode : Prop := ∀ (s : State) (c : Bool),
  let h := curHart s
  let traps (ins : Instr) (cause : Nat) (tval : Word) : Prop :=
    ∃ t, exec ins s = .next t ∧ (curHart t).mepc = BitVec.ofNat 64 (h.pc.toNat / 2 * 2) ∧ (curHart t).mcause = BitVec.ofNat 64 cause
      ∧ (curHart t).mtval = tval ∧ (curHart t).machine = true ∧ (curHart t).pc = BitVec.ofNat 64 (h.mtvec.toNat / 4 * 4)
      ∧ (curHart t).mstatus.getLsbD 3 = false ∧ (curHart t).mstatus.getLsbD 7 = h.mstatus.getLsbD 3
      ∧ bits (curHart t).mstatus.toNat 12 11 = (if h.machine then 3 else 0) ∧ (curHart t).x = h.x ∧ t.mem = s.mem
  traps (.hartInstruction .ecall c) (if h.machine then 11 else 8) 0
  ∧ traps (.hartInstruction .ebreak c) 3 h.pc
  ∧ (h.machine = false → traps (.hartInstruction .mret c) 2 (BitVec.ofNat 64 (hartRaw s)))
  ∧ (∀ a b d : BitVec 5, ∀ m size sg, (h.rd a + m).toNat % size ≠ 0 →
      traps (.hartInstruction (.load size sg d a m) c) 4 (h.rd a + m) ∧ traps (.hartInstruction (.store size a b m) c) 6 (h.rd a + m))
  ∧ (∀ a d : BitVec 5, h.machine = false → traps (.jxEcreate a d) 2 (BitVec.ofNat 64 (hartRaw s)) ∧ traps (.jxEload a d) 2 (BitVec.ofNat 64 (hartRaw s))
      ∧ traps (.jxEpark d) 2 (BitVec.ofNat 64 (hartRaw s)) ∧ traps (.jxMabort a d) 2 (BitVec.ofNat 64 (hartRaw s)))
  ∧ (h.machine = true → traps .jxEnd 2 (BitVec.ofNat 64 (hartRaw s)))

/-- R404, R415, R417, R418: the words a hart adds answer in rd and retire; an accepted jx.recv consumes the oldest action and
arms the budgets, jx.send writes the observation with its sequence number and label into the mailbox's slot, counts it in OSEQ
and ends a mailbox that is terminated or has drained, jx.wait with no port that answers stalls its hart. Which of its labels an
access of the monitor carries is the model's reading (log 16). -/
def Obligations.EpisodeWordsAnswer : Prop := ∀ (s : State) (a b d : BitVec 5) (e : Nat),
  let h := curHart s
  let x := epGet s e
  let ans (ins : Instr) (t : State) (v : Nat) : Prop :=
    exec ins s = .next (retireHart (updHart t (fun k => k.wr d (BitVec.ofNat 64 v))) (!(curHart t).machine) ((curHart t).pc + 4) true false)
  let p := (h.rd a).toNat
  let va := (h.rd b).toNat
  (h.ep = none → ans (.jxRecv b a d) s 6 ∧ ans (.jxSend b a d) s 6 ∧ ans (.jxWait a d) s 6)
  ∧ (h.ep = some e → p < 4 → va % 16 = 0 → ∀ k m, epPort x p = some k → m = mbGet s k →
      (h.machine = false → hartCheck s h va (mbSlot m) .store = none) →
      ((mbSt m = 0 ∨ mbSt m = 3) → ans (.jxRecv b a d) s 2) ∧ (mbSt m = 4 → ans (.jxRecv b a d) s 3)
      ∧ ((mbSt m = 1 ∨ mbSt m = 2) → (lookup s.unans k).isSome = true → ans (.jxRecv b a d) s 4)
      ∧ ((mbSt m = 1 ∨ mbSt m = 2) → lookup s.unans k = none → mbAseq m = mbAcon m → ans (.jxRecv b a d) s 1)
      ∧ ((mbSt m = 1 ∨ mbSt m = 2) → lookup s.unans k = none → mbAseq m ≠ mbAcon m → ∀ size sa,
          sa = mbSlotAddr s k m (mbAcon m) false → size = 16 + min (imgF (readPa s sa 16) 8 4) (mbSlot m - 16) →
          (h.machine = true → hartCheck s h va size .store = none) → hartWrite s (lineCount va size) va size (readPa s sa size) ≠ none →
          ∃ t, exec (.jxRecv b a d) s = .next t ∧ (curHart t).pc = h.pc + 4 ∧ (lookup t.unans k).isSome = true ∧ e ∈ t.armed
            ∧ (d ≠ 0 → (curHart t).rd d = BitVec.ofNat 64 (imgF (readPa s sa 16) 4 2 * 2 ^ 16 + mbAcon m * 2 ^ 32))))
  ∧ (h.ep = some e → p &&& 0xFFFFFFFFFFFFFEFC = 0 → va % 16 = 0 → hartCheck s h va 16 .load = none →
      ∀ u len l, hartGet s (va + 8) 4 = some (u, len, l) → ∀ k m, epPort x (p % 4) = some k → m = mbGet u k →
      (mbSlot m - 16 < len → ans (.jxSend b a d) u 6)
      ∧ (len ≤ mbSlot m - 16 → hartCheck u h va (16 + len) .load = none →
          ((mbSt m = 0 ∨ mbSt m = 3) → ans (.jxSend b a d) u 2) ∧ (mbSt m = 4 → ans (.jxSend b a d) u 3)
          ∧ ((mbSt m = 1 ∨ mbSt m = 2) → lookup u.unans k = none → ans (.jxSend b a d) u 4)
          ∧ ∀ g, (mbSt m = 1 ∨ mbSt m = 2) → lookup u.unans k = some g →
              (mbDepth m ≤ gap (mbOseq m) (mbOrec m) → ans (.jxSend b a d) u 1)
              ∧ (gap (mbOseq m) (mbOrec m) < mbDepth m → ∀ w data, hartRead u (lineCount (va + 16) len) (va + 16) len = some (w, data) →
                  ∀ n lab drn term obs w1 m1 m2, n = mbOseq m → lab = BitVec.ofNat 32 (imgF (epGet w e) 8 4) →
                  drn = (mbSt m == 2 && (n + 1) % 2 ^ 32 == mbAseq m) → term = bit p 8 →
                  obs = message n g (b2n term + 2 * b2n drn) len lab data → w1 = engWr w (mbSlotAddr w k m n true) (16 + len) obs →
                  m1 = putRf (putRf m 0x18 4 (n + 1)) 8 4 (mbLbl m ||| lab).toNat →
                  m2 = (if term = true ∧ mbSt m = 1 then putRf (putRf m1 0 1 3) 0x10 4 (mbAcon m) else if drn = true then putRf m1 0 1 3 else m1) →
                  lookup w.unans k = some g →
                  ans (.jxSend b a d) (disarm (mbPut { w1 with unans := eraseKey k w1.unans } k m2) e) 0)))
  ∧ (h.ep = some e → p < 16 → ((p = 0 ∨ waitMask s e p ≠ 0) → ans (.jxWait a d) s (waitMask s e p))
      ∧ (p ≠ 0 → waitMask s e p = 0 → ∃ t, exec (.jxWait a d) s = .next t ∧ (curHart t).wait = some (d, p) ∧ (curHart t).pc = h.pc))
  ∧ (h.ep = some e → ∀ q, h.wait = some (d, q) → (waitMask s e q ≠ 0 → ans .jxWaitResume s (waitMask s e q))
      ∧ (waitMask s e q = 0 → exec .jxWaitResume s = .next s))
  ∧ (h.machine = false → h.ep = some e → exec .jxEnd s = .next (updHart (closeEpisode s e 4 (epFl x % 8) 4 false)
      (fun k => hartTrap { k with mcycle := if k.mcountinhibit.getLsbD 0 then k.mcycle else k.mcycle + 1 } false 24 0)))
  ∧ (h.machine = true →
      (va % 64 = 0 → hartCheck s h va 64 .load = none → ∀ u y l f, hartGet s va 64 = some (u, y, l) → f = imgF y 0 2 % 4096 →
        (epFree (epGet u f) = false → ans (.jxEcreate b d) u 5)
        ∧ (epFree (epGet u f) = true → descOk u u.hartNo y = false → ans (.jxEcreate b d) u 6)
        ∧ (epFree (epGet u f) = true → descOk u u.hartNo y = true → ∀ w, w = epPut u f (entryOf y) →
            ans (.jxEcreate b d) { w with gone := w.gone.filter (fun g => g / 4 != f) } 0))
      ∧ (p < 4096 → e = p → epDie e = hartDie s.hartNo →
          (h.ep.isSome = true → ans (.jxEload a d) s 5)
          ∧ (h.ep = none → epSt x ≠ 1 → epSt x ≠ 3 → ans (.jxEload a d) s 7)
          ∧ (h.ep = none → (epSt x = 1 ∨ epSt x = 3) → ans (.jxEload a d)
              (updHart (epPut s e (putRf (putRf x 2 1 2) 6 1 s.hartNo)) (fun k => { k with ep := some e, irem := BitVec.ofNat 64 (imgF x 0x20 8) })) 0)
          ∧ (epLive x = false → ans (.jxMabort a d) s 7)
          ∧ (epLive x = true → ans (.jxMabort a d) (stopEpisode s e 3) 0))
      ∧ (h.ep = none → ans (.jxEpark d) s 7)
      ∧ (h.ep = some e → ans (.jxEpark d) (updHart (epPut s e (putRf (putRf x 2 1 3) 0x20 8 h.irem.toNat)) (fun k => { k with ep := none, irem := 0 })) 0))

/-- R20, R25, R27, R29, R34, R119, R122, R130, R432, R433: the events of a core. That the safe-point overrun reports the address of its
group and the record's SPX are the model's choices (log 22), and that the arrival of BARRIER_ARRIVAL brings no label is (log 35). -/
def Claims.CoreEventsAct : Prop := ∀ s : State,
  (s.core.run = none → exec .claim s = .next (claimFor s)) ∧ (s.core.run.isSome = true → exec .claim s = .next s)
  ∧ (∀ k e d, s.core.pend[k]? = some e → e.land = some d → d.arrived = false →
      ∃ t, exec (.landingArrival k) s = .next t ∧ t = { s with core := { s.core with pend := t.core.pend } }
        ∧ t.core.pend[k]? = some { e with land := some { d with arrived := true } } ∧ ∀ j, j ≠ k → t.core.pend[j]? = s.core.pend[j]?)
  ∧ (∀ c i a, s.core.run.isSome = true → 65536 < s.core.frozen → timeoutInfo s.core = (c, i, a) →
      c = 9 ∧ exec .landingTimeout s = .next (takeTraps s 9 i a (fun n => timeoutInfo (coreAt s n))))
  ∧ (s.core.run.isSome = true → 4097 ≤ s.core.cont.dist →
      exec .safePointOverrun s = .next (takeTrap s 0x16 (s.core.cont.spx.toNat + 4097 * 2 ^ 16) s.core.pc.toNat))
  ∧ (∀ (c : BitVec 8) (i : BitVec 64) (a : BitVec 72), s.core.run.isSome = true → exec (.trap c i a) s = .next (takeTrap s c.toNat i.toNat a.toNat))
  ∧ (∀ t, s.core.run.isSome = true → spinSuspend s = some t → exec .spinSuspend s = .next (wakeNew s t))
  ∧ (s.core.run.isSome = true → s.core.mark = .held →
      exec .heldGroupIssue s = .next { s with agenda := .core s.coreNo :: s.agenda })
  ∧ (∀ n vf, exec (.barrierArrival n vf) s = .next { s with core := arriveAt s.core n vf.toNat 0 })
  ∧ (∀ r, s.core.run = some r → r.ended = false → (partAt s r.part).slice.toNat % 2 ^ 32 ≠ 0 → (partAt s r.part).slice.toNat % 2 ^ 32 ≤ r.slice →
      exec .sliceEnd s = .next { s with core := { s.core with run := some { r with ended := true } } })
  ∧ (∀ t, preempt s = some t → exec .priorityPreemption s = .next t)
  ∧ (∀ n : BitVec 8, (focus s n.toNat).core.run.isSome = true → (focus s n.toNat).core.abort = true →
      exec (.dsAbortGo n) s = .next (focus (takeTrap (focus s n.toNat) 0 0 0) s.coreNo))

/-- R77, R194, R227, R297, R355, R466: a write of one of these registers takes effect with its label when nothing holds it
back; one of FP_VCFG and FP_MODE joins its label to the context label. -/
def Claims.RegisterWriteEventsAct : Prop := ∀ (v : BitVec 64) (l : Label) (s : State),
  let j : State := { s with core := s.core.joinCl l }
  (sysHold s 0x101 v = none → exec (.cpCszWrite v) s = .next (sysWrite s 0x101 v 0))
  ∧ (sysHold s 0x802 v = none → exec (.fpSeedWrite v l) s = .next (sysWrite s 0x802 v l))
  ∧ (sysHold j 0x804 v = none → exec (.fpVcfgWrite v l) s = .next (sysWrite j 0x804 v l))
  ∧ (sysHold j 0x800 v = none → exec (.fpModeWrite v l) s = .next (sysWrite j 0x800 v l))
  ∧ (sysHold s 0x003 v = none → exec (.mxPoolWrite v) s = .next (sysWrite s 0x003 v 0))
  ∧ (sysHold s 0x202 v = none → exec (.clRingWrite v) s = .next (sysWrite s 0x202 v 0))

/-- R20 to R34, R119 to R130, R194, R466: the events of a core, and register writes as events. That a register-write event which
its rule holds back leaves the retry to its writer, and that HELD_GROUP_ISSUE is the retry in the very next step, are the model's
choices (logs 2 and 35); so are TR_ADDR and SPX of a safe-point overrun (log 22) and the empty label of BARRIER_ARRIVAL (log 35). -/
def Obligations.CoreEventsAndRegisterWritesAct : Prop := Claims.CoreEventsAct ∧ Claims.RegisterWriteEventsAct

/-- R200, R220, R269, R283, R284, R300, R305, R474, R496: what engines and commands do by themselves: a command past its
tick 2 ends as its kind says, a pattern load leaves its slot valid (2) or faulty (3), due blocks reach the port,
sub-arrays turn on and off, tasks start and end, a move takes its next frame. The model's readings: a command may end from its core's
second tick on, earlier cycles of a freeze counting as well (`cmdMayEnd`, log 22); a task reads everything at its end, and one that fails
before it starts is credited with 0 bytes, a choice (`endTask … 0`, log 27); a frame moves in one event (log 32). -/
def Claims.EngineEventsAct : Prop := ∀ s : State,
  (∀ k c t, s.core.cmds[k]? = some c → cmdMayEnd s.core c = true →
      runRel { s with core := { s.core with cmds := s.core.cmds.eraseIdx k } } c = some t → inFlightTag t.core c = false →
      exec (.commandCompletion k) s = .next (latchTasks t)
      ∧ (c.kind = .install → exec (.policyInstallComplete k) s = .next (latchTasks t))
      ∧ (c.kind = .ovl → (∀ j < k, ∀ d, s.core.cmds[j]? = some d → d.kind ≠ .ovl) → exec .overlayLoadComplete s = .next (latchTasks t)))
  ∧ (∀ p, s.core.patBusy = some p → p.left = 0 → p.arr = [] → ∃ t, exec .patternLoadEnd s = .next t ∧ t.core.patBusy = none
      ∧ ∀ o, t.core.pats.toList[p.slot]? = some o → o.st = (if p.ok then 2 else 3) ∧ o.lab = p.lab)
  ∧ (∀ t, (∀ e ∈ s.core.pend, e.due ≤ s.core.tick → (∀ x m, e.eff ≠ .z 9 x m) ∧ ∀ v, e.eff ≠ .sysw 0x801 v) → t = { s with core := landBlocks s.core.tick s.core } →
      exec .blockPortWrite s = .next t)
  ∧ (∀ i : BitVec 2, s.core.subs[i.toFin].pw = 1 → s.core.subs[i.toFin].cnt = 0 → ∃ t, exec (.subarrayOn i) s = .next t ∧ t.core.subs[i.toFin].pw = 2)
  ∧ (∀ i : BitVec 2, s.core.subs[i.toFin].pw = 2 → s.core.mxIdle ≠ 0 → s.core.mxIdle.toNat ≤ s.core.subs[i.toFin].idle →
      ∃ t, exec (.subarrayIdleOff i) s = .next t ∧ t.core.subs[i.toFin].pw = 0 ∧ ∀ j, j ≠ i.toFin → t.core.subs[j] = s.core.subs[j])
  ∧ (∀ t k e q, t = latchTasks s → nextTask t = some (k, e) → (taskQ t)[k]? = some q →
      (q.bad = none → exec (.taskStart k) s = .next (q.put 0x4C 1 e.toNat (q.put 0x4A 1 2
        (setR (setQ t ((taskQ t).eraseIdx k)) (taskR t ++ [{ q with eng := e }])))))
      ∧ (q.bad ≠ none → exec (.taskStart k) s = .next (endTask (setQ t ((taskQ t).eraseIdx k)) q 0 q.bad)))
  ∧ (∀ j k t el, (taskR s)[j]? = some k → taskCompute k (setR s ((taskR s).eraseIdx j)) = .ok (t, el) → ∀ u,
      workGo (taskWrite k el) (tkM k.r * tkN k.r) 0 t = (u, none) →
      exec (.taskEnd j) s = .next (latchTasks (endTask u k (tkM k.r * tkN k.r * fmtWidth (tkCf k.r) / 8) none)))
  ∧ (∀ k c, s.core.cmds.findIdx? (fun d => d.kind == .move) = some k → s.core.cmds[k]? = some c → ∀ n j t, n = (c.geo.getD 0 0).toNat →
      j = (c.geo.getD 1 0).toNat → t = moveFrame s (bits c.ctl.toNat 5 2) (c.aa.toNat + 65536 * j) (c.da.toNat + 65536 * j) →
      (n ≤ j + 1 → exec .frameMove s = .next (endCmd { t with core := { t.core with cmds := t.core.cmds.eraseIdx k } } c none none))
      ∧ (j + 1 < n → ∃ u, exec .frameMove s = .next u ∧ ∃ l, u = { t with core := { t.core with cmds := l } }))

/-- R18, R21, R425 to R436, R439 to R446: the dispatcher: a post enters its fault queue, a waiting record whose condition
holds or whose deadline has passed becomes ready, an admitted one enters the ready table, a pending slot its stage's ring,
and a graph's next node is started or recorded as stuck. That a record whose object no longer translates, has ERR set or is poisoned
counts as ready (waitHolds) is the model's reading (log 17). -/
def Claims.DispatcherEventsAct : Prop := ∀ s : State,
  (∀ t, faultPost s = some t → exec .faultQueuePost s = .next t)
  ∧ (∀ r : BitVec 56, recSt (readRecord s r.toNat) = 3 → waitHolds s r.toNat = true → exec (.waitConditionMet r) s = .next (wakeRecord s r.toNat))
  ∧ (∀ r : BitVec 56, recSt (readRecord s r.toNat) = 3 → rf (readRecord s r.toNat) 0x1D 1 = 7 → rf (readRecord s r.toNat) 0x20 9 % 2 ^ 64 ≤ nowNs s →
      exec (.waitDeadline r) s = .next (wakeRecord s r.toNat))
  ∧ (∀ r : BitVec 56, r.toNat ∈ s.admits → exec (.readyTableAdmit r) s = .next (wakeRecord s r.toNat))
  ∧ (∀ (p : BitVec 4) k t, enqueueSlot s p.toNat k = some t → exec (.poolSlotEnqueue p k) s = .next t)
  ∧ (∀ g k rest, s.acts = (g, k) :: rest → ∀ t, t = { s with acts := rest } → ∀ x, t.graphs.find? (fun y => y.pa == g) = some x →
      (k < readPa t (g + 2) 2 → exec .graphActivation s = .next (activate t x k))
      ∧ (readPa t (g + 2) 2 ≤ k → exec .graphActivation s = .next (graphStuck t x k)))

/-- R200 to R305, R425 to R446, R496: the events of engines and of the dispatcher; the model's readings (logs 17, 22, 27 and 32) are named at
the clauses. -/
def Obligations.EngineAndDispatcherEventsAct : Prop := Claims.EngineEventsAct ∧ Claims.DispatcherEventsAct

/-- R173: what the home sends for each row of its table, and what its directory records: a read or a write opens the requester's
transaction, whose Don brings the next state; a line that is left takes its next state at once. The requests of dies, and those of a host
that the gate does not refuse, of a line whose set has room (R171). -/
def Claims.TheHomeFollowsItsTable : Prop := ∀ (line r : Nat) (s : State),
  let e := dirAt s line
  let others := e.sh.filter (· != r)
  let msg (k : MsgKind) (dst cnt grant : Nat) : Msg := ⟨k, line, keyHome line, dst, r, cnt, grant⟩
  let invs := others.map (fun o => msg .inv o 0 0)
  let idle (k : Nat) : Prop := line % 128 = 0 ∧ canAsk e k r = true ∧ e.opn = none ∧ e.queue = []
  let opens (ins : Instr) (k : Nat) (held : Bool) (l : List Msg) : Prop :=
    idle k → (r < 4 ∨ fillRefused s line k r = none) → (e.own ≠ none ∨ e.sh ≠ [] ∨ (dirPeers s line).length < 16) →
      ∃ t sent, exec ins s = .next t ∧ t.msgs = s.msgs ++ sent ∧ sent.Perm l ∧ dirAt t line = { e with opn := some (k, r) }
        ∧ t.waits = s.waits ++ [⟨line, r, held, 0, none, 0, k != 0⟩]
  (e.own = none → e.sh = [] → opens (.rds line r) 0 false [msg .dat r 0 3] ∧ opens (.rdx line r) 1 false [msg .dat r 0 3]
    ∧ opens (.upg line r) 2 false [msg .dat r 0 3])
  ∧ (e.own = none → e.sh ≠ [] → opens (.rds line r) 0 false [msg .dat r 0 4]
    ∧ opens (.rdx line r) 1 false (msg .dat r others.length 3 :: invs)
    ∧ (r ∉ e.sh → opens (.upg line r) 2 false (msg .dat r others.length 3 :: invs))
    ∧ (r ∈ e.sh → opens (.upg line r) 2 true (msg .cmp r others.length 3 :: invs)))
  ∧ (∀ o, e.own = some o → o ≠ r → opens (.rds line r) 0 false [msg .fwds o 0 4, msg .cmp r 0 4]
    ∧ opens (.rdx line r) 1 false (msg .fwdx o 0 3 :: msg .cmp r others.length 3 :: invs)
    ∧ opens (.upg line r) 2 false (msg .fwdx o 0 3 :: msg .cmp r others.length 3 :: invs))
  ∧ (e.own = some r → opens (.upg line r) 2 true (msg .cmp r others.length 3 :: invs))
  ∧ (∀ ins k, (ins = .wbd line r ∧ k = 3 ∨ ins = .evc line r ∧ k = 4) → idle k →
      ∃ t, exec ins s = .next t ∧ t.msgs = s.msgs ++ [msg .cmp r 0 0] ∧ dirAt t line = { e with
        own := if e.own = some r then none else e.own, sh := if e.own = some r then e.sh else others, st := eraseKey r e.st })
  ∧ ∀ d : DirEnt, ((dirWrite d r).own = some r ∧ (dirWrite d r).sh = [])
    ∧ (d.own = none → d.sh = [] → (dirRead d r).own = some r ∧ (dirRead d r).sh = [])
    ∧ ((d.own ≠ none ∨ d.sh ≠ []) → (dirRead d r).own = d.own ∧ ∀ a, a ∈ (dirRead d r).sh ↔ a = r ∨ a ∈ d.sh)

/-- R169 to R175: the messages of the protocol: a request is handled by its home or queued behind the open transaction;
what is forwarded or invalidated leaves its holder, which answers; the requester holds the line when its data and every
acknowledgement are there, and its Don closes the transaction; a home that has collected the answers to its own eviction
frees the entry. -/
def Claims.MessagesMoveLines : Prop := ∀ (line a : Nat) (s : State),
  let asks (ins : Instr) (k : Nat) : Prop := exec ins s = .next (request s line k a)
    ∧ (line % 128 = 0 → canAsk (dirAt s line) k a = true → ∀ x, (dirAt s line).opn = some x → x.2 ≠ a →
        (∀ y ∈ (dirAt s line).queue, y.2 ≠ a) →
        ∃ t, exec ins s = .next t ∧ (dirAt t line).opn = some x ∧ (dirAt t line).queue = (dirAt s line).queue ++ [(k, a)])
  asks (.rds line a) 0 ∧ asks (.rdx line a) 1 ∧ asks (.upg line a) 2 ∧ asks (.wbd line a) 3 ∧ asks (.evc line a) 4
  ∧ (∀ m t, msgTo s .fwds line a = some m → t = setDir (dropMsg s m) line (ownerShares a (dirAt s line)) →
      exec (.fwds line a) s = .next (sendMsg t ⟨.dat, line, a, m.req, m.req, 0, 4⟩))
  ∧ (∀ m t, msgTo s .fwdx line a = some m → t = dieDrops (setDir (dropMsg s m) line (dropHold a (dirAt s line))) line a →
      ((holds (dirAt s line) a = 1 ∨ holds (dirAt s line) a = 2) → exec (.fwdx line a) s = .next (sendMsg t ⟨.dat, line, a, m.req, m.req, 0, 1⟩))
      ∧ (holds (dirAt s line) a ≠ 1 → holds (dirAt s line) a ≠ 2 → exec (.fwdx line a) s = .next (sendMsg t ⟨.dat, line, a, m.req, m.req, 0, 3⟩)))
  ∧ (∀ m t, msgTo s .inv line a = some m → t = dieDrops (setDir (dropMsg s m) line (dropHold a (dirAt s line))) line a →
      exec (.inv line a) s = .next (sendMsg t ⟨.ack, line, a, m.req, m.req, 0, 0⟩))
  ∧ (∀ m w, msgTo s .dat line a = some m → waitOf s line a = some w → ∃ n, exec (.dat line a) s =
      .next (finishWait (dropMsg s m) { w with data := true, grant := m.grant, need := n })
      ∧ n = (if (dirAt s line).own = none then some m.cnt else w.need))
  ∧ (∀ m, msgTo s .cmp line a = some m →
      (m.grant = 0 → exec (.cmpMessage line a) s = .next (dropMsg s m))
      ∧ (∀ w, m.grant ≠ 0 → waitOf s line a = some w → exec (.cmpMessage line a) s =
          .next (finishWait (dropMsg s m) { w with need := some m.cnt, grant := if w.data = true ∧ w.grant = 0 then 3 else w.grant })))
  ∧ (∀ m w, msgTo s .ack line a = some m → waitOf s line a = some w →
      exec (.ack line a) s = .next (finishWait (dropMsg s m) { w with got := w.got + 1 }))
  ∧ (∀ m k, s.msgs.findSome? (fun m => if m.kind == .don && m.line == line && m.src == a then inOrder s m else none) = some m →
      (dirAt s line).opn = some (k, a) → exec (.don line a) s = .next (homeGoOn (setDir (dropMsg s m) line
        { (if k = 0 then dirRead (dirAt s line) a else dirWrite (dirAt s line) a) with opn := none }) line))
  ∧ (∀ w n, w.req ≠ homeAgent → w.need = some n → w.data = true → n ≤ w.got → ∃ t, finishWait s w = sendMsg t ⟨.don, w.line, w.req, keyHome w.line, w.req, 0, 0⟩
      ∧ holds (dirAt t w.line) w.req = (if w.write then 1 else w.grant))
  ∧ (∀ w n, w.req = homeAgent → w.need = some n → w.data = true → n ≤ w.got → ∃ t,
      finishWait s w = homeGoOn (setDir t w.line { DirEnt.none with queue := (dirAt t w.line).queue }) w.line)

/-- R169 to R175: the home's table and the messages of the protocol. -/
def Obligations.CoherenceMessagesAct : Prop := Claims.TheHomeFollowsItsTable ∧ Claims.MessagesMoveLines

/-- R152 to R154, R176, R503, R526 to R528, R533: walks, memory errors, scrubbing, and what happens on links. The model's readings
(log 33): a request that this package relays to a port that is down returns to its source as a class-2 flit without bytes; a flit
names a read, a write or an atomic by the length and head of its bytes (a DESIGN CHOICE, in `remoteAccess`); and flits of classes 1
and 2 for this package have no effect of their own. That the scrubber passes its lines one after another, which read zero already, is
log 32's reading. -/
def Obligations.WalkErrorAndLinkEventsAct : Prop := ∀ s : State,
  let logs : Prop := ∀ w kind src own cause addr info, (w.mcTail - w.mcHead).toNat < 1024 → ∀ t, t = mcAppend w kind src own cause addr info →
    t.mcTail = w.mcTail + 1 ∧ t.mcHead = w.mcHead ∧ lookup t.mcLog (w.mcTail.toNat % 1024) = some (BitVec.ofNat 512
      (kind + (src <<< 8) + (own <<< 16) + (cause <<< 32) + (nowNs w <<< 64) + (addr <<< 128) + (info <<< 192)))
  (∀ (va : BitVec 72) (vf : BitVec 9) (k p : BitVec 2) t x,
      translateMark s va.toNat vf.toNat (((vfAt s vf.toNat).part).getD 0) (min 2 p.toNat) 8 (kindOf k) = .ok (t, x) → exec (.pageWalk va vf k p) s = .next t)
  ∧ (∀ (pa : BitVec 56) a, a = pa.toNat / 128 * 128 → isMem a = true → ∃ w src own core, exec (.uncorrectableError pa) s =
        .next (mcAppend w 1 src own 0 a (256 + core))
      ∧ isPoisoned w a 128 = true ∧ w.mem = s.mem ∧ w.mcHead = s.mcHead ∧ w.mcTail = s.mcTail ∧ w.mcLog = s.mcLog)
  ∧ (∀ pa, ∃ t, exec (.correctableError pa) s = .next t ∧ t.ptCerr = (if s.ptCerr = 0xFFFFFFFF then s.ptCerr else s.ptCerr + 1)
      ∧ t = { s with ptCerr := t.ptCerr })
  ∧ (∀ lo n l, s.scrub = (lo, n) :: l → exec .scrubLine s = .next { s with scrub := if n ≤ 1 then l else (lo + 128, n - 1) :: l })
  ∧ logs
  ∧ (∀ a b : Nat, a ≠ b → a < 6 → b < 6 → linkIsDown s a b = false → ∃ w hit, exec (.dieLinkFailure a b) s =
        .next (cutMail a b (cutGraphs a b (cutRecords a b (freezeTrees (mcAppend w 2 (a + b * 16) 0 0 0 0) hit))))
      ∧ linkIsDown w a b = true ∧ w.mcHead = s.mcHead ∧ w.mcTail = s.mcTail ∧ w.mcLog = s.mcLog)
  ∧ (∀ p < 24, exec (.qlTrain p) s = .next (qlCtl s p 3) ∧ ∀ v : BitVec 64, exec (.qlEnableWrite p v) s = .next (qlCtl s p (v.toNat % 2)))
  ∧ (∀ p l, p < 24 → (qlAt s p).st = 1 →
      (l % 16 = 15 → exec (.qlTrainComplete p l) s = .next (setQl s p { qlAt s p with st := 2, lanes := 15 }))
      ∧ (l % 16 ≠ 15 → exec (.qlTrainComplete p l) s = .next (mcAppend (setQl s p { qlAt s p with st := 0, lanes := BitVec.ofNat 4 l }) 3 p 0 0 0 0)))
  ∧ (∀ p < 24, (qlAt s p).st = 2 → ∃ w u hit, u = mcAppend w 3 p 0 0 0 0 ∧ exec (.quaylinkPortDown p) s = .next (freezeTrees
        { u with core := cutLandings (16 + p) u.core, others := u.others.map (fun e => (e.1, cutLandings (16 + p) e.2)) } hit)
      ∧ qlAt w p = { qlAt s p with st := 0, lanes := 0, down := true } ∧ w.mcHead = s.mcHead ∧ w.mcTail = s.mcTail ∧ w.mcLog = s.mcLog)
  ∧ ∀ (p : Nat) (dst src : BitVec 20) (ch : BitVec 15) (addr : BitVec 56) (data : List (BitVec 8)) (l : Label),
      p < 24 → (qlAt s p).st = 2 → data.length ≤ 224 →
      (dst.toNat / 256 ≠ s.dev.pod.toNat → ∀ f, f = ⟨0, dst, src, ch, addr, data, l, 0⟩ →
        (∀ t, sendFlit s f = some t → exec (.quaylinkFlit p dst src ch addr data l) s = .next t)
        ∧ (sendFlit s f = none → bits ch.toNat 10 9 ≠ 0 → exec (.quaylinkFlit p dst src ch addr data l) s = .next s)
        ∧ (sendFlit s f = none → bits ch.toNat 10 9 = 0 → exec (.quaylinkFlit p dst src ch addr data l) s = .next ((sendFlit s
            ⟨0, src, dst, BitVec.ofNat 15 (ch.toNat % 512 + 2 * 512), addr, [], 0, 0⟩).getD s)))
      ∧ (dst.toNat / 256 = s.dev.pod.toNat → bits ch.toNat 10 9 = 0 →
          exec (.quaylinkFlit p dst src ch addr data l) s = .next (remoteAccess s dst src ch addr.toNat data l))
      ∧ (dst.toNat / 256 = s.dev.pod.toNat → (bits ch.toNat 10 9 = 1 ∨ bits ch.toNat 10 9 = 2) →
          exec (.quaylinkFlit p dst src ch addr data l) s = .next s)

/-- R326: Leaf, Combine and Final of one element: its value in the accumulator form, its bits present, PI and NI, its count. Format 11 is
.i32; the operators are sum, max, min, band, bor and bxor. -/
def Claims.ElementsFollowLeafCombineFinal : Prop := ∀ (op fmt skip x : Nat) (a b : TEl),
  let inf (v : Nat) : Nat := 2 * b2n (v == 0x7F800000) + 4 * b2n (v == 0xFF800000)
  let y : TEl := combineEl op fmt a b
  ((fmt = 11 → leafEl op fmt skip x = ⟨if op = 0 then wrap 64 (sgn 32 x) else x, 1, 1⟩)
    ∧ (fmt ≠ 11 → skip ≠ 0 → decodeEl fmt x = .nan → leafEl op fmt skip x = ⟨0, 0, 0⟩)
    ∧ (fmt ≠ 11 → (skip = 0 ∨ decodeEl fmt x ≠ .nan) → ∀ v, v = (roundTo false 0 (decodeEl fmt x) 0 0).1 → leafEl op fmt skip x = ⟨v, 1 + inf v, 1⟩))
  ∧ ((b.st % 2 = 0 → y = a) ∧ (b.st % 2 = 1 → a.st % 2 = 0 → y = b)
    ∧ (b.st % 2 = 1 → a.st % 2 = 1 → y.cnt = a.cnt + b.cnt
      ∧ (fmt = 11 → y.st = 1 ∧ (op = 0 → y.v = (a.v + b.v) % 2 ^ 64) ∧ (op = 1 → sgn 32 y.v = max (sgn 32 a.v) (sgn 32 b.v))
        ∧ (op = 2 → sgn 32 y.v = min (sgn 32 a.v) (sgn 32 b.v)) ∧ (op = 3 → y.v = a.v &&& b.v) ∧ (op = 4 → y.v = a.v ||| b.v)
        ∧ (op = 5 → y.v = a.v ^^^ b.v))
      ∧ (fmt ≠ 11 → y.st = a.st ||| b.st ||| inf y.v
        ∧ (op = 0 → y.v = (roundTo false 0 ((decodeEl 0 a.v).add false (decodeEl 0 b.v)).1 0 0).1
          ∧ (decodeEl 0 a.v = .nan ∨ decodeEl 0 b.v = .nan → y.v = 0x7FC00000)
          ∧ (a.v = 0x7F800000 ∧ b.v = 0xFF800000 ∨ a.v = 0xFF800000 ∧ b.v = 0x7F800000 → y.v = 0x7FC00000))
        ∧ ((op = 1 ∨ op = 2) → y.v = minMaxF false 0 (op == 1) a.v b.v))))
  ∧ (a.st % 2 = 0 → finalEl op fmt a = if fmt = 11 then 0 else (fmtOf fmt).nan)
  ∧ (a.st % 2 = 1 → (fmt = 11 → finalEl op fmt a = if op = 0 then wrap 32 (max (-(2 ^ 31)) (min (2 ^ 31 - 1) (sgn 64 a.v))) else a.v)
    ∧ (fmt ≠ 11 → finalEl op fmt a = (roundTo false fmt (decodeEl 0 a.v) 0 0).1))

/-- R325, R326, R328, R330: a pull passes the absent children, takes the next in the node's order (position 1 upwards, last 0) when it is
there, and combines it into the node's accumulator, element by element, or, of a multicast, passes it on; contributors are counted and
labels joined. A post whose bytes are pulled completes. Operators 0 to 5 are those of elements, 6 the multicast. -/
def Claims.PullsCombineTheNextChild : Prop := ∀ (s : State) (hd : BitVec 32) (n k : Nat) (e : TEnt) (h0 h : Shape) (t : Tree) (r : TNode),
  liveTree s hd.toNat [2] = some e → t = treeAt s e → t.isOpen e n = true → k < e.ncnt → e.op ≤ 6 → lookup t.cfg (nodeRouter s e k) = some h0 →
  h = asEdited s e h0 → (t.recAt k n).done = false → ringless s e h k = false → r = skipOn e h (t.recAt k n) →
  let kept (u : State) (x : TNode) : State := setTree u e (doneAway s e h x ((treeAt u e).setRec x))
  let combined (r1 : TNode) (cnt : Nat) (l : Label) (data : Nat) (child : Nat → TEl) : Prop :=
    r1 = { r with cnt := r.cnt + cnt, lab := r.lab ||| l, acc := r1.acc, est := r1.est, counts := r1.counts }
      ∧ (e.op = 6 → r1.acc = if r.cnt = 0 then data else r.acc)
      ∧ (e.op ≤ 5 → ∀ j < e.els, ∀ y, y = (if j < r.ec then r.el e j else combineEl e.op e.fmt (r.el e j) (child j)) →
        elem r1.acc e.accW j = y.v % 2 ^ e.accW ∧ elem r1.est 4 j = y.st % 2 ^ 4 ∧ elem r1.counts 32 j = y.cnt % 2 ^ 32)
  (r.done = true → exec (.nodePull hd n k) s = .next (advanceTree 3 (kept s r) e.part e.idx))
  ∧ (∀ i p, r.done = false → (h.order k)[r.next]? = some (.mem i) → t.postOf s h n i = some p → carries s e p.core = true →
      ∃ r1, exec (.nodePull hd n k) s = .next (advanceTree 3 (pulledPost (kept s (stepOn e h r1)) e p) e.part e.idx)
        ∧ combined r1 1 p.lab p.data (fun j => leafEl e.op e.fmt e.skip (elem p.data (fmtWidth e.fmt) j)))
  ∧ (∀ j c l, r.done = false → (h.order k)[r.next]? = some (.node j) → c = t.recAt j n → c.done = true → crossing s e h k j c.lab = some l →
      ∃ r1, exec (.nodePull hd n k) s = .next (advanceTree 3 (kept (sendRow s e h j k l c.acc) (stepOn e h r1)) e.part e.idx)
        ∧ combined r1 c.cnt l c.acc (c.el e))
  ∧ (∀ q, (t.recAt k n).next ≤ q → q < r.next → ∃ c, (h.order (t.recAt k n).node)[q]? = some c ∧ isAbsent e h (t.recAt k n).seg c = true)
  ∧ (∀ c, (h.order (t.recAt k n).node)[r.next]? = some c → isAbsent e h (t.recAt k n).seg c = false)
  ∧ (r.done = true ↔ (h.order (t.recAt k n).node).length ≤ r.next)
  ∧ ((∀ p < (h.kids k).length, (lookup (h.kids k) p).isSome = true) →
      ∀ q < (h.kids k).length, (h.order k)[q]? = lookup (h.kids k) ((q + 1) % (h.kids k).length))

/-- R326, R327, R337: a delivery of a complete segment writes the result element by element by Final, then the counts, then the take
record, with the label of the top node and of the taking word; then it credits 2^SEGL bytes where CR = 1, and the take completes. One whose
writes wait for an unpulled contribution of the same core (R336) is not made. -/
def Claims.DeliveriesWriteTheResult : Prop := ∀ (s : State) (e : TEnt) (r : TNode) (c : Cmd) (n : Nat) (sound : Bool), e.op ≤ 6 →
  (∀ (hd : BitVec 32) (i : Nat) h0 h t k, liveTree s hd.toNat [2] = some e → t = treeAt s e → t.isOpen e n = true →
    lookup t.cfg (topRouter s e) = some h0 → h = asEdited s e h0 → r = t.recAt h.top n → r.done = true → sound = !t.noprov.contains n →
    t.takes.find? (fun k => k.seg == n && memberOf s h k.core == some i && carries s e k.core) = some k →
    (focus s k.core).core.cmds.find? (fun c => c.ctx == k.ctx && c.tag == k.tag) = some c →
    ∀ c1 credit, c1 = { c with lab := c.lab ||| r.lab } → credit = (if bit c.ctl.toNat 20 then some (2 ^ e.segl) else none) →
    ∀ u, u = { focus s k.core with core := { (focus s k.core).core with
        cmds := (focus s k.core).core.cmds.filter (fun x => !(x.ctx == k.ctx && x.tag == k.tag)) } } →
    ∀ w f, takeWrites u c e r n sound = (w, f) → f.any CFail.isHeld = false →
    (bit c.ctl.toNat 20 = true → (creditCmd w c1 (2 ^ e.segl) f).2.any CFail.isHeld = false) →
      exec (.takeDelivery hd n i) s = .next (advanceTree 3 (onCmd
        (setTree s e ({ t with takes := t.takes.filter (fun x => x != k) }.markDeliv e n i)) k.core k.ctx k.tag
        (fun v _ => endCmd (takeWrites v c e r n sound).1 c1 credit (takeWrites v c e r n sound).2)) e.part e.idx))
  ∧ ∀ x inv cs cnt lab, x = (takeResult e r).1 → inv = (takeResult e r).2 → cs = takeCounts e r → lab = (r.lab ||| c.lab) →
    (e.op ≤ 5 → (∀ j < e.els, elem x (fmtWidth e.fmt) j = finalEl e.op e.fmt (r.el e j) % 2 ^ fmtWidth e.fmt)
      ∧ inv = (if ∃ j < e.els, (r.el e j).st / 2 = 3 then 1 else 0))
    ∧ (e.op = 6 → x = r.acc ∧ inv = 0)
    ∧ (e.skip = 1 → cs.length = e.els ∧ ∀ j < e.els, cs[j]? = some (elem r.counts 32 j))
    ∧ (e.skip = 2 → cs.length = divUp e.els 128 ∧ ∀ b < divUp e.els 128, ∃ y, cs[b]? = some y
        ∧ (∀ j < e.els, j / 128 = b → y ≤ elem r.counts 32 j) ∧ ∃ j < e.els, j / 128 = b ∧ y = elem r.counts 32 j)
    ∧ ((e.skip = 0 → cnt = r.cnt) → (e.skip ≠ 0 → cnt ∈ cs ∧ ∀ y ∈ cs, cnt ≤ y) → ∀ v u1 u2 u3,
      v = { s with core := unwritten s.core } → cmdWr v c.who c.aa.toNat (2 ^ e.segl) x lab 2 = .ok u1 →
      (e.skip = 0 → u2 = u1) → (e.skip ≠ 0 → cmdWr u1 c.who c.da.toNat (4 * cs.length) (packL 32 cs) lab = .ok u2) →
      cmdWr u2 c.who c.xa.toNat 16 (inv * 2 ^ 8 + n % 2 ^ 32 * 2 ^ 32 + cnt % 2 ^ 32 * 2 ^ 64) lab 2 = .ok u3 →
        takeWrites s c e r n sound = (wroteBack c (s.core.ctxAt c.ctx).owner s u3, none))

/-- R316 to R351, R393, R419, R420: a node pulls, a delivery is made, a configuration is refilled at the routers of every
node, and one that fails kills its tree; the interrupts and budgets of a hart and of episodes. That the expiry of an instruction budget
takes the episode interrupt only where the hart has it enabled is the model's reading (log 29). -/
def Claims.TreesHartsAndEpisodesAct : Prop := ∀ s : State,
  (∀ (h : BitVec 32) g k t, nodePull s h.toNat g k = some t → exec (.nodePull h g k) s = .next t)
  ∧ (∀ (h : BitVec 32) g k t, takeDelivery s h.toNat g k = some t → exec (.takeDelivery h g k) s = .next t)
  ∧ (∀ (h : BitVec 32) e, liveTree s h.toNat [2, 3, 4] = some e →
      ((entShape s e).ok false = true → ∃ u, exec (.configRefill h) s = .next u ∧ u = { s with trees := u.trees, fresh := u.fresh }
          ∧ ∀ k < e.ncnt, lookup (treeAt u e).cfg (nodeRouter s e k) = some (entShape s e))
      ∧ ((entShape s e).ok false = false → exec (.configRefill h) s = .next (freeTree s e)))
  ∧ (hartIrq s 7 = true → exec .machineTimerInterrupt s = .next (updHart s (fun h => hartTrap h true 7 0)))
  ∧ (hartIrq s 16 = true → exec .jwi s = .next (updHart s (fun h => hartTrap h true 16 0)))
  ∧ (∀ h : Hart, (hartTrap h true 7 0).mcause = 0x8000000000000007 ∧ (hartTrap h true 16 0).mcause = 0x8000000000000010
      ∧ (hartTrap h true 7 0).mepc = BitVec.ofNat 64 (h.pc.toNat / 2 * 2))
  ∧ (∀ v : BitVec 64, exec (.jackWrite v) s = .next (jackWrite s v.toNat))
  ∧ (∀ e x, (curHart s).ep = some e → x = epGet s e → (curHart s).machine = false → epArm x = true → imgF x 0x10 8 ≠ 0 → (curHart s).irem = 0 →
      exec .instructionBudgetExpiry s = .next (if hartIrq (stopEpisode s e 1) 16 = true then updHart (stopEpisode s e 1) (fun h => hartTrap h true 16 0)
        else stopEpisode s e 1))
  ∧ (∀ e : BitVec 12, ∀ x, x = epGet s e.toNat → epLive x = true → epArm x = true → imgF x 0x28 8 ≠ 0 → imgF x 0x28 8 ≤ nowNs s →
      exec (.wallBudgetExpiry e) s = .next (stopEpisode s e.toNat 2))
  ∧ (∀ e : BitVec 12, ∀ x, x = epGet s e.toNat → (epSt x = 4 ∨ epSt x = 5) → bit (epFl x) 3 = true →
      exec (.episodeWipeComplete e) s = .next (wipeDone { s with wiping := s.wiping.filter (· != e.toNat) } e.toNat))

/-- R316 to R351, R393, R419, R420: the events of trees, with what a pull and a delivery make, and those of harts and episodes. -/
def Obligations.TreeAndEpisodeEventsAct : Prop := Claims.TreesHartsAndEpisodesAct ∧ Claims.ElementsFollowLeafCombineFinal
  ∧ Claims.PullsCombineTheNextChild ∧ Claims.DeliveriesWriteTheResult

/-- R507, R510, R514, R515: a decode on a well-formed command, its bitstream and reference memory readable and writable: LBL
joins the labels of command and bitstream, which the output carries; a unit that fails ends with its status; one that makes no
frame available outputs nothing, and the next in display order leaves the held frames when it could be output. What a unit
holds, and which frames it makes, is open (log 7): the command runs whatever it is, and ends as the clause of what it is says. -/
def Claims.DecodesOutputTheNextFrame : Prop := ∀ (e c : BitVec 4) (s : State),
  let k := ctxNo e c
  let m := mediaAt s k
  (∀ q, mediaCmd s k 1 = some q → streamOf s m = none → exec (.mediaDecode e c) s =
    .next (mediaEnd (streamMark s m) k q (some ⟨3, m.desc.toNat, 0, false⟩)))
  ∧ ∀ q t d dl x, mediaCmd s k 1 = some q → q.bad = false → streamOf s m = some (t, d, dl) → x = q.img.toNat →
      ∀ t1 v bl l, readBytes t m.who (rf x 8 9) (rf x 4 4) = .ok (t1, v, bl) → l = (BitVec.ofNat 32 (rf d 0x14 4) ||| q.lab ||| bl) →
      ∀ t2 q1 u st, streamPut m 0x14 4 l.toNat t1 = .ok t2 → q1 = { q with lab := l ||| dl } →
        u = Config.mediaUnit (mcCodec x) m.refs (rf x 4 4) v → st = unitStatus u (mcCodec x) (rf d 0x24 4) (bit (rf d 9 1) 1) →
      ∃ z, exec (.mediaDecode e c) s = .next z
      ∧ (∀ t3, st = 1 → streamPut m 9 1 (rf d 9 1 % 2 + 2) t2 = .ok t3 → z = mediaEnd t3 k q1 (some ⟨1, 0, 0, false⟩))
      ∧ (st = 2 → z = mediaEnd t2 k q1 (some ⟨2, 0, 0, false⟩))
      ∧ ∀ t3 r t4 t5, st = 0 → refsRead m (rf d 0x18 9) (65536 * rf d 0x24 4) (Config.mediaReads u) t2 = .ok (t3, r) →
          refsWrite m (rf d 0x18 9) (65536 * rf d 0x24 4) q1.lab (Config.mediaWrites u r) t3 = (t4, none) →
          (bit (rf d 9 1) 1 = false → t5 = t4) → (bit (rf d 9 1) 1 = true → streamPut m 9 1 (rf d 9 1 % 2) t4 = .ok t5) →
          ∀ f held, f = Config.mediaDecoded u r → held = (if Config.mediaShown u = true then m.held ++ [(u, f)] else m.held) →
          (Config.mediaFrame u = false ∨ held = [] → z = mediaEnd (setMedia t5 k { m with held := held, par := q.img, refs := f }) k q1 none)
          ∧ ∀ g w, Config.mediaFrame u = true → g ∈ held →
              (∀ h ∈ held, (Config.mediaNumber g.1).toNat < (Config.mediaNumber h.1).toNat ∨ h = g) →
              frameOut m q1.lab x x g 0 t5 = (w, none) → z =
                mediaEnd (setMedia w k { m with held := held.erase g, par := q.img, refs := f }) k
                  { q1 with frames := 1, fno := Config.mediaNumber g.1 } none

/-- R510 to R513: a flush outputs the frames held, however many, in display order, converted with the parameters of the stream's last
decode command (`m.par`), which is the model's choice (log 7), one after another, and one that fails stays held, with
those after it; a frame goes
out row by row at PITCH, each element converted and rounded once, and PAD outside the crop; a crop that leaves the frame gives
status 6. -/
def Claims.FlushesOutputEveryFrame : Prop := ∀ (e c : BitVec 4) (s : State),
  let k := ctxNo e c
  let m := mediaAt s k
  (∀ q t d dl, mediaCmd s k 2 = some q → streamOf s m = some (t, d, dl) →
    ∀ (l : List (Nat × Nat)) (held : Nat → List (Nat × Nat)) (w : Nat → State) (ran : Nat → MediaCmd), l.Perm m.held →
      l.Pairwise (fun f g => (Config.mediaNumber f.1).toNat < (Config.mediaNumber g.1).toNat) →
      (∀ j, held j = (l.take j).foldl List.erase m.held) → ran 0 = q →
      (∀ j f, l[j]? = some f → ran (j + 1) = { q with frames := j + 1, fno := Config.mediaNumber f.1 }) → w 0 = t →
      ∀ n ≤ l.length, (∀ j f, j < n → l[j]? = some f →
          frameOut { m with held := held j } q.lab m.par.toNat q.img.toNat f j (w j) = (w (j + 1), none)) →
        (n = l.length → held n = [] ∧ exec (.mediaFlush e c) s =
          .next (mediaEnd (setMedia (w n) k { m with held := [] }) k (ran n) none))
        ∧ ∀ f v r, l[n]? = some f → frameOut { m with held := held n } q.lab m.par.toNat q.img.toNat f n (w n) = (v, some r) → r.wait = false →
            exec (.mediaFlush e c) s = .next (mediaEnd (setMedia v k { m with held := held n }) k (ran n) (some r)))
  ∧ (∀ l x y n j t x0 y0 cw ch, cropOf x (Config.mediaWidth n.1) (Config.mediaHeight n.1) = (x0, y0, cw, ch) →
      ((Config.mediaWidth n.1 < x0 + cw ∨ Config.mediaHeight n.1 < y0 + ch) → frameOut m l x y n j t = (t, some ⟨6, 0, 0, false⟩))
      ∧ (x0 + cw ≤ Config.mediaWidth n.1 → y0 + ch ≤ Config.mediaHeight n.1 → ∀ px py, px = divUp cw (mcSide x) → py = divUp ch (mcSide x) →
          frameOut m l x y n j t = frameRows m l x y n ((if mcStash y = true then mcSo y else mcDst y) + j * (px * py * mcPitch x)) px
            (x0, y0, cw, ch) (px * py) 0 t))
  ∧ (∀ l x y n base px crop rows r t, mcStash y = false → ∀ a, a = (base + mcPitch x * r) % 2 ^ 72 →
      ∀ u, deliver m l false (mcCore y) (lineCount a (mcRow x)) a (mcRow x) (patchRow x n crop px r) t = .ok u →
        frameRows m l x y n base px crop (rows + 1) r t = frameRows m l x y n base px crop rows (r + 1) u)
  ∧ ∀ x n x0 y0 cw ch px r i, i < 3 * mcSide x * mcSide x → 0 < mcEl x → ∀ u v, u = r % px * mcSide x + i % mcSide x →
      v = r / px * mcSide x + i / mcSide x % mcSide x →
      elem (patchRow x n (x0, y0, cw, ch) px r) (8 * mcEl x) i = (roundTo false (mcFmt x) (if u < cw ∧ v < ch then
          pixelValue x (sampleOf n 0 (x0 + u) (y0 + v)) (sampleOf n 1 ((x0 + u) / 2) ((y0 + v) / 2)) (sampleOf n 2 ((x0 + u) / 2) ((y0 + v) / 2))
            (i / (mcSide x * mcSide x))
        else decodeF fmtF32 (rf x 0x1C 4)) (mcRm x) 0).1 % 2 ^ (8 * mcEl x)

/-- R508, R510, R513, R525: a media context takes its ring's next command, resets, and completes a command; a write of MS_CTL. -/
def Claims.MediaContextsAct : Prop := ∀ (e c : BitVec 4) (s : State),
  let k := ctxNo e c
  let m := mediaAt s k
  (∀ t, mediaTake s k = some t → exec (.mediaEntryTake e c) s = .next t)
  ∧ (∀ q t d dl u w, mediaCmd s k 3 = some q → streamOf s m = some (t, d, dl) → streamPut m 9 1 (rf d 9 1 % 2) t = .ok u →
      streamPut m 0x14 4 0 u = .ok w → exec (.mediaReset e c) s = .next (mediaEnd (setMedia w k { m with held := [], refs := 0 }) k q none))
  ∧ (∀ q, m.cmd = some q → q.finished = true → exec (.mediaCompletion e c) s = .next (mediaDone s k q))
  ∧ ∀ v : BitVec 64, exec (.msCtlWrite e c v) s = .next (mediaWrite s k 0 v.toNat)

/-- R507 to R516, R525: the events of a media context. -/
def Obligations.MediaEventsAct : Prop := Claims.MediaContextsAct ∧ Claims.DecodesOutputTheNextFrame ∧ Claims.FlushesOutputEveryFrame

/-- R517, R518, R524, R529: requests of a host: a VF's memory is read through the gate and written with the empty label,
atomics return the old value, SPDM follows its states, interrupts are raised. -/
def Claims.HostRequestsAct : Prop := ∀ (p : BitVec 1) (off : BitVec 56) (s : State),
  let vf := hostVf p off
  let o := hostOff off
  (∀ part n, hostTarget off = 0 → hostServes s true = true → hostVfOk off = true → (vfAt s vf).part = some part →
      (∀ t v l, hostRead s p.toNat vf part (lineCount o n) o n = .ok (t, v, l) →
        exec (.hostMemoryRead p off n) s = .next (answerRead t p part n v l))
      ∧ (∀ t, hostRead s p.toNat vf part (lineCount o n) o n = .error t → exec (.hostMemoryRead p off n) s = .next (aborted t p)))
  ∧ (∀ part (data : List (BitVec 8)) t, hostTarget off = 0 → hostServes s true = true → hostVfOk off = true → (vfAt s vf).part = some part →
      writeBytes s ⟨vf, part, 0, false⟩ o data.length (ofLe data) 0 = .ok t → exec (.hostMemoryWrite p off data) s = .next t)
  ∧ (∀ part (op : BitVec 2) size (x y : BitVec 64), hostTarget off = 0 → hostServes s true = true → hostVfOk off = true →
      (vfAt s vf).part = some part → op ≠ 3 → (size = 4 ∨ size = 8) → o % size = 0 →
      ∀ t m, translateMark s o vf part 0 size .rmw = .ok (t, m) → ∀ u old pl, readAt t ⟨vf, part, 0, false⟩ o size m false = .ok (u, old, pl) →
      ∀ out, gate u part (lineLabel u pl m.pa) (.reader (4 + p.toNat)) = some out →
      ∀ w, writeAt u ⟨vf, part, 0, false⟩ o size (atomicNew op old (x.toNat % 2 ^ (8 * size)) (y.toNat % 2 ^ (8 * size)) % 2 ^ (8 * size)) pl 0 m true = .ok w →
        exec (.hostAtomic p off op size x y) s = .next (reply w p 0 size old out))
  ∧ (∀ v l, exec (.msiRaise p v l) s = .next (msiRaiseReg s p.toNat v.toNat l (writerPrv s) s.core.cont.part))
  ∧ (let goes (ins : Instr) (st : Nat) (nx : Nat) : Prop := spdmAt s p = st → ∃ t, exec ins s = .next t ∧ spdmAt t p = nx
        ∧ t.dev.replies = s.dev.replies ++ [⟨p.toNat, 3, 0, s.fresh, 0⟩]
     (∀ n, goes (.spdmGetVersion p) n 1) ∧ goes (.spdmGetCapabilities p) 1 2 ∧ goes (.spdmNegotiateAlgorithms p) 2 3
     ∧ (∀ n, 3 ≤ n → goes (.spdmGetDigests p) n n ∧ goes (.spdmGetCertificate p) n n ∧ goes (.spdmChallenge p) n n)
     ∧ (3 ≤ spdmAt s p → exec (.spdmGetMeasurements p) s = .next { s with dev := { s.dev with
         replies := s.dev.replies ++ [⟨p.toNat, 3, 0, s.dev.meas, 0⟩] } })
     ∧ goes (.spdmKeyExchange p) 3 4 ∧ goes (.spdmFinish p) 4 5 ∧ goes (.spdmEndSession p) 5 3)

/-- R519, R521 to R523, R529 to R532: the management image: each mailbox request that is allowed and well formed ends with
result 0, or with 4 for an image or a token that does not verify, 3 for a transition that R530 does not have and 5 where the flash does not
answer, whose verdicts are open (logs 9 and 10); the log's head, device registers, reset, boot and power. That BOOT takes two events, ST
being 1 between them (log 11), that boot verifies the images after the boot image too and stops at the step of the first that fails
(log 9), and that throttling at the power limit swallows 1 to 255
of every 256 pulses is the model's choice (log 34). -/
def Claims.ManagementActs : Prop := ∀ s : State,
  let asks (op len : Nat) : Prop := s.dev.mbBusy = true ∧ s.dev.mbOp = op ∧ s.dev.mbLen = len ∧ mbAllowed s op = true
  let ends (ins : Instr) (p : State → Prop) : Prop := ∃ t, exec ins s = .next t ∧ t.dev.mbBusy = false ∧ t.dev.mbRes = 0 ∧ p t
  let answers (ins : Instr) (p : State → Prop) : Prop := ∃ t, exec ins s = .next t ∧ t.dev.mbBusy = false ∧ p t
  (asks 1 0 → ends .mbVersion (fun t => t.dev.mbRlen = 16 ∧ getN t.dev.mbResp 12 4 = s.dev.roll.toNat))
  ∧ (∀ n, 8 ≤ n → n ≤ 4096 → asks 0x10 n → answers .mbImageWrite (fun t =>
      (Config.flashOk s.fresh = true → t.dev.mbRes = 0 ∧ t.dev.staged = putN s.dev.staged (mbReq s 0 8) (n - 8) (mbReq s 8 (n - 8)))
      ∧ (Config.flashOk s.fresh = false → t.dev.mbRes = 5 ∧ t.dev.staged = s.dev.staged)))
  ∧ (asks 0x11 8 → ∀ img, img = leBytes (mbReq s 0 8) (getN s.dev.staged 0 (mbReq s 0 8)) → answers .mbImageCommit (fun t =>
      (imageStep s.dev.roll img = 7 → Config.flashOk s.fresh = true → t.dev.mbRes = 0 ∧ t.dev.next = some img)
      ∧ (imageStep s.dev.roll img = 7 → Config.flashOk s.fresh = false → t.dev.mbRes = 5 ∧ t.dev.next = s.dev.next)
      ∧ (imageStep s.dev.roll img ≠ 7 → t.dev.mbRes = 4 ∧ t.dev.next = s.dev.next)))
  ∧ (∀ n, n ≤ 4096 → asks 0x20 n → answers .mbLifeCycleTransition (fun t =>
      (∀ b, Config.tokenTarget (leBytes n (mbReq s 0 n)) = some b → (lcNext s.dev.lc b = true → t.dev.mbRes = 0 ∧ t.dev.lc = b ∧ t.mem = []
          ∧ (b ≠ 1 → t.core.run.isSome = true → t.core.cont.prv ≠ 0))
        ∧ (lcNext s.dev.lc b = false → t.dev.mbRes = 3 ∧ t.dev.lc = s.dev.lc ∧ t.mem = s.mem))
      ∧ (Config.tokenTarget (leBytes n (mbReq s 0 n)) = none → t.dev.mbRes = 4 ∧ t.dev.lc = s.dev.lc ∧ t.mem = s.mem)))
  ∧ (asks 0x30 8 → bits (mbReq s 0 8) 7 4 = 0 → mbReq s 0 8 < 65536 → ends .mbThrottle (fun t => ∀ d < 4,
      t.dev.floor.getD d 0 = (if bit (mbReq s 0 8) d then bits (mbReq s 0 8) 15 8 else s.dev.floor.getD d 0)))
  ∧ (∀ n, asks 0x40 8 → mbReq s 0 8 = n → 0 < n → n ≤ 64 → ends .mbLogDrain (fun t =>
      t.mcHead = s.mcHead + BitVec.ofNat 32 (min n (s.mcTail - s.mcHead).toNat) ∧ t.dev.mbRlen = 64 * min n (s.mcTail - s.mcHead).toNat))
  ∧ (∀ v : BitVec 64, exec (.mcHeadWrite v) s = .next (mcHeadWrite s v.toNat))
  ∧ (∀ (o : BitVec 48) (v : BitVec 64) t, o.toNat % 8 = 0 → devWrite s o.toNat v.toNat 0 2 s.core.cont.part = some t →
      exec (.deviceRegisterWrite o v) s = .next t)
  ∧ (∃ t, exec .coldReset s = .next t ∧ t.mem = [] ∧ t.dev.lc = s.dev.lc ∧ t.dev.bootSt = 0 ∧ t.core = State.reset.core ∧ t.dev.meas = s.fresh
      ∧ t.fresh = s.fresh + 1)
  ∧ (s.dev.bootSt = 0 → exec .boot s = .next { s with dev := { s.dev with bootSt := 1 } })
  ∧ (s.dev.bootSt = 1 → ∃ t, exec .boot s = .next t
      ∧ ((∀ k < 19, imageStep s.dev.roll (flashImage s k) = 7) → t.dev.bootSt = 7)
      ∧ ∀ k < 19, (∀ j < k, imageStep s.dev.roll (flashImage s j) = 7) → imageStep s.dev.roll (flashImage s k) ≠ 7 →
          t.dev.bootSt = imageStep s.dev.roll (flashImage s k))
  ∧ (∀ d : BitVec 2, ∃ t, exec (.thermalThrottle d) s = .next t ∧ d.toNat ∈ t.dev.hot)
  ∧ (∀ d : BitVec 2, ∃ t, exec (.thermalThrottleRelease d) s = .next t ∧ d.toNat ∉ t.dev.hot)
  ∧ (∃ t, exec .powerLimitThrottle s = .next t ∧ t.mem = s.mem ∧ 1 ≤ t.dev.power ∧ t.dev.power ≤ 255) ∧ exec .powerLimitRelease s = .next { s with dev := { s.dev with power := 0 } }

/-- R517 to R536: what hosts and the management image ask for. The answers no rule gives, the events' operands, and the host
protocols of which the spec gives the name alone are the model's choices (logs 10, 35 and 36), and so is the number from 1 to 255 of
every 256 pulses that throttling at the power limit swallows (log 34). -/
def Obligations.HostAndManagementRequestsAct : Prop := Claims.HostRequestsAct ∧ Claims.ManagementActs

/-- R40 to R51: words written out from their layouts decode to the instructions they stand for: `add s3, s4, s5` and
`addi s1, s2, -1` under p0, `st.d [a2 + 8], s7`, `br bt1`, `vadd v1, v2, v3` under m0, `svc 5`, `mx.cfg g17, s3`, a word of
major 0x1E, one with a reserved field, and a hart's jx.send. -/
def Obligations.WordsDecodeAsTheirLayoutsSay : Prop :=
  decode 0b0_00000_0000_0000000_00011_00100_00101 = .ok (.add 0 3 4 5)
  ∧ decode 0b1_00001_0000_000_00001_00010_111111111 = .ok (.addi 0 1 2 0x1FF)
  ∧ decode 0b0_01100_0000_00100_0_0000000000000101 = .ok (.svc 0 5)
  ∧ decode 0b1_00111_0000_011_00111_0010_0000000001 = .ok (.stD 0 7 2 1)
  ∧ decode 0b0_01010_0000_0000_01_0000000000000000 = .ok (.br 0 1)
  ∧ decode 0b0_01111_0_000_000000_00001_00010_00011_0 = .ok (.vadd 0 0 1 2 3 0)
  ∧ decode 0b1_11000_0000_0_0_001_00010001_0001_00011 = .ok (.mxCfg 0 1 1 3)
  ∧ decode 0b0_11110_0000_0000000_00000_00000_00000 = .error .reservedMajor
  ∧ decode 0b0_00000_0000_0010100_00011_00100_00001 = .error .reservedField
  ∧ decodeJx 0b0000000_00010_00011_001_00100_0001011 = some (.jxSend 2 3 4)

/-- R40 to R51, R417: decoding undoes encoding: every well-formed tile word, with every operand at every value and with or
without its stop bit, decodes to itself (rows of one word to the first of them), and every hart word to itself. -/
def Obligations.DecodingUndoesEncoding : Prop := ∀ i : Instr,
  ((infoOf i).isSome = true → i.wellFormed = true → ∀ stop, decode (encodeWord stop i) = .ok i.firstOfWord)
    ∧ (i.hartWord = true → decodeJx (encode i) = some i)

/-- R47, R49, R51: no bit of a word is dropped: a word that decodes is, but for its stop bit, the word its instruction
encodes to; what decodes is well formed. -/
def Obligations.EncodingUndoesDecoding : Prop := ∀ (w : Nat) (i : Instr), decode w = .ok i → encode i = w % 2 ^ 31 ∧ i.wellFormed = true

/-- R88, R89, R118, R133, R134, R190, R223, R226, R308, R430, R457, R524, R536: what reset leaves: registers of every kind
0, the constants reading as they do, CP_SPIN 4096, MX_IDLE 1024, MX_WAKE 96, no window, no record, nothing in flight; memory
all zero (R531); partition 0 active with every quad and the one interleave set of all HBM, VF 0 its own. -/
def Obligations.ResetLeavesTheSpecsValues : Prop :=
  let s := State.reset
  let c := s.core
  (∀ r, (c.rdS r).v = 0) ∧ (∀ r, (c.rdA r).v = 0) ∧ (∀ r, (c.rdV r).v = 0) ∧ (∀ r, (c.rdG r).v = 0) ∧ (∀ r, (c.rdB r).v = 0)
  ∧ (∀ r, 1 < r → (c.rdP r).v = 0) ∧ (c.rdP 0).v = 1 ∧ (c.rdP 1).v = 0 ∧ (c.rdM 0).v = BitVec.allOnes 1024
  ∧ c.fpMode = 0 ∧ c.fpFlags.v = 0 ∧ c.fpSeed.v = 0 ∧ c.fpSctr = 0 ∧ c.fpVcfg = 0 ∧ c.trCause = 0 ∧ c.trInfo = 0 ∧ c.trAddr = 0
  ∧ c.cpSpin = 4096 ∧ c.mxIdle = 1024 ∧ c.mxWake = 96 ∧ c.mxPool = 0
  ∧ (∀ j < 16, c.maps.toList[j]? = some none) ∧ c.run = none ∧ c.pend = [] ∧ c.cmds = [] ∧ c.nest.act = false ∧ c.binds = []
  ∧ s.mem = [] ∧ (∀ a, readPa s a 1 = 0) ∧ s.flab = [] ∧ s.poison = []
  ∧ (partAt s 0).st = 1 ∧ (partAt s 0).quads = BitVec.allOnes 64 ∧ (∀ p, 0 < p → p < 16 → (partAt s p).st = 0)
  ∧ (vfAt s 0).part = some 0 ∧ (∀ v, 0 < v → v < 384 → (vfAt s v).part = none)

/-- R4, R24, R25, R28, R34, R41, R113, R143, R144, R466: when the group at the pc is one word that decodes to i, the step runs
i: it tries it on the state as the tick begins; a trap it takes, one that the labels of its group give it, or that of a landing
lost to a link fault, is the step's end; a hold costs one cycle; otherwise i acts in the state in which the group's labels have joined, with those of the pass end
where it ends a pass of a nest; the tick ends with the pc at the following group, or where a transfer put it, and a cycle
passes. A record that left waiting on a condition that holds goes straight to ready (R21). The place of the lost landing among the
causes of the group is the model's choice (log 22). -/
def Obligations.StepRunsTheDecodedWord : Prop := ∀ (s s1 : State) (w : IWord) (i : Instr),
  CoreActs s → beginTick s = .ok s1 → s1.core.run.isSome = true → s1.core.locked = false → fetchGroup s1.core = [w] → w.getLsbD 31 = true →
  decode w.toNat = .ok i → (infoOf i).isSome = true →
  let plain (t : State) : Prop := t.core.mark = .none ∨ t.core.mark = .transfer
  let ticks (t : State) : State := wakeNew s (oneCycle (endTick [loneWord s1 w] t))
  let goesOn (t : State) : Prop := plain t ∨ t.core.mark = .held
  (∀ t u c n a, lostNow s1 = none ∨ c = 1 ∨ c = 0x15 → exec i (tried s1 w) = .next t → exec i (labelled s1 w) = .next u →
      t.core.mark = .trapped c n a → u.core.mark = .trapped c n a → step s = .next (wakeNew s t))
  ∧ (∀ t u c n a, lostNow s1 = none ∨ c = 1 ∨ c = 0x15 → exec i (tried s1 w) = .next t → exec i (labelled s1 w) = .next u → goesOn t →
      (labelled s1 w).core.cl ≠ s1.core.cl → u.core.mark = .trapped c n a → step s = .next (wakeNew s (retrap s1 c n a)))
  ∧ (∀ t u v, lostNow s1 = some v → exec i (tried s1 w) = .next t → plain t → exec i (labelled s1 w) = .next u → goesOn u →
      step s = .next (wakeNew s v))
  ∧ (∀ t u, lostNow s1 = none → exec i (tried s1 w) = .next t → t.core.mark = .held → exec i (labelled s1 w) = .next u → goesOn u →
      s1.core.cont.dist < 4097 → step s = .next (wakeNew s (oneCycle t)))
  ∧ (∀ t0 t, lostNow s1 = none → exec i (tried s1 w) = .next t0 → plain t0 → s1.core.cont.dist < 4097 → leaves w = false →
      exec i (issuing s1 w) = .next t → (passEnds s1.core = false ∨ t.core.nest.act = false) → inFlight t.core ≤ 96 →
      (t.core.mark = .none → (advance t).core.locked = false → step s = .next (ticks (advance t)))
      ∧ (t.core.mark = .transfer → t.core.locked = false → step s = .next (ticks t)))
  ∧ (∀ t0 t1 t, lostNow s1 = none → exec i (tried s1 w) = .next t0 → plain t0 → s1.core.cont.dist < 4097 → leaves w = false →
      passEnds s1.core = true → exec i (issuing s1 w) = .next t1 → t1.core.mark = .none → t1.core.nest.act = true →
      exec i (issuingPass s1 w) = .next t → t.core.mark = .none → inFlight t.core ≤ 96 → (advance t).core.locked = false →
      step s = .next (ticks (advance t)))

/-- R4, R21, R393: what else a step runs: a waiting record whose condition holds becomes ready before anything else, which is how the
model reads R21 (log 17); then, the agenda and its order being the model's own (log 2), the
event or the turn that stands first on the agenda, else the part's own next event,
else, on a core with no record, a claim; a hart's turn takes an external or software interrupt that is enabled, and else
runs the standard instruction that the bytes it fetches decode to, which are memory's where the pc lies there, or takes the exception
that fetching them raises. In a locked quad the core whose event is due comes into focus. -/
def Obligations.StepRunsEventsAndTurns : Prop := ∀ (s : State) (i : Instr) (rest : List Turn) (n : Nat),
  (metEvent s = some i → step s = exec i s)
  ∧ (metEvent s = none → (s.agenda = .event i :: rest → step s = exec i { s with agenda := rest })
  ∧ (s.agenda = .core s.coreNo :: rest → s.coreNo < 256 → s.core.run = none → step s = .next (idleCycle { s with agenda := rest }))
  ∧ (∀ t, s.agenda = .hart n :: rest → n < 96 → t = { s with agenda := rest, hartNo := n } → ∀ k, (k = 11 ∨ k = 3 ∧ hartIrq t 11 = false) →
      hartIrq t k = true → step s = .next (updHart t (fun h => hartTrap h true k 0)))
  ∧ (∀ t, s.agenda = .hart n :: rest → n < 96 → t = { s with agenda := rest, hartNo := n } →
      hartIrq t 11 = false → hartIrq t 3 = false → hartIrq t 7 = false → hartIrq t 16 = false → (curHart t).wait = none → budgetOut t = false →
      (∀ u w, hartFetch t = (u, .ok w) →
        (∀ j, w % 4 = 3 → decodeJx w = some j → step s = exec j u)
        ∧ (∀ rv, w % 4 = 3 → decodeJx w = none → rvDecode32 w = some rv → step s = exec (.hartInstruction rv false) u)
        ∧ (∀ rv, w % 4 ≠ 3 → rvDecode16 w = some rv → step s = exec (.hartInstruction rv true) u))
      ∧ (∀ u c v, hartFetch t = (u, .error (c, v)) → step s = hartSettle u (.error (c, v)))
      ∧ ∀ pc lo, pc = (curHart t).pc.toNat → isMem pc = true → isMem (pc + 2) = true → lo = readPa t pc 2 → hartCheck t (curHart t) pc 2 .fetch = none →
          (lo % 4 ≠ 3 → ∃ u, hartFetch t = (u, .ok lo) ∧ u = { t with jcache := u.jcache })
          ∧ (lo % 4 = 3 → hartCheck t (curHart t) (pc + 2) 2 .fetch = none →
              ∃ u, hartFetch t = (u, .ok (lo + readPa t (pc + 2) 2 * 65536)) ∧ u = { t with jcache := u.jcache }))
  ∧ (s.agenda = [] → autoEvent (focusDue s) = some i → step s = exec i (focusDue s))
  ∧ (s.agenda = [] → autoEvent (focusDue s) = none → (focusDue s).core.run = none → step s = .next (idleCycle (focusDue s))))

/-- R88, R94, R232, R259: an effect that lands writes its register with its label and no other of its kind: of s0, p0, p1
and m0 the write is discarded and they read as constants. -/
def Obligations.LandingsWriteTheirRegister : Prop := ∀ (s : State) (n : Nat) (l : Label) (d : Option Land),
  let after (e : Eff) : State := applyEff s ⟨n, e, l, d⟩
  (∀ r x q, (after (.s r x)).core.rdS q = if q = 0 then ⟨0, 0⟩ else if q = r then ⟨x, l⟩ else s.core.rdS q)
  ∧ (∀ r x q, (after (.a r x)).core.rdA q = if q = r then ⟨x, l⟩ else s.core.rdA q)
  ∧ (∀ r x q, (after (.p r x)).core.rdP q = if q = 0 then ⟨1, 0⟩ else if q = 1 then ⟨0, 0⟩
      else if physP s.core q = r ∧ ¬r < 2 then ⟨if x = true then 1 else 0, l⟩ else s.core.rdP q)
  ∧ (∀ r x q, (after (.v r x (BitVec.allOnes 4096) false)).core.rdV q = if physV s.core q = r then ⟨x, l⟩ else s.core.rdV q)
  ∧ (∀ r x q, (after (.m r x (BitVec.allOnes 1024) false)).core.rdM q = if q = 0 then ⟨BitVec.allOnes 1024, 0⟩
      else if q = r then ⟨x, l⟩ else s.core.rdM q)
  ∧ (∀ r x q, (after (.g r x)).core.rdG q = if q = r then ⟨x, l⟩ else s.core.rdG q)
  ∧ (∀ r x q, (after (.unit r x)).core.rdB q = if q = r then ⟨x, l⟩ else s.core.rdB q)
  ∧ ∀ r x, (after (.s r x)).mem = s.mem ∧ (after (.s r x)).core.pc = s.core.pc ∧ (after (.s r x)).core.rdA = s.core.rdA
      ∧ (after (.s r x)).core.rdP = s.core.rdP ∧ (after (.s r x)).core.fpFlags = s.core.fpFlags

/-- R5, R94, R165: bytes written read back, little-endian, and bytes of other DRAM places are as before, while no frame is
being moved (R495). -/
def Obligations.WritesReadBack : Prop := ∀ (s : State) (pa n v : Nat), s.memOk → Settled s → pa % 128 + n ≤ 128 →
  (writePa s pa n v).memOk ∧ readPa (writePa s pa n v) pa n = v % 2 ^ (8 * n)
  ∧ (∀ a, OtherPlace s a pa n → readPa (writePa s pa n v) a 1 = readPa s a 1)
  ∧ ∀ k < n, readPa (writePa s pa n v) (pa + k) 1 = v / 2 ^ (8 * k) % 256

/-- The model's memory keeps its canonical form through every step (log 3 says what an unlisted byte reads). -/
def Obligations.EveryStepKeepsMemoryCanonical : Prop := ∀ s t : State, s.memOk → step s = .next t → t.memOk

/-- R43, R44, R94: a word of registers, masks and address registers that issues only schedules its results and raises the
context label: no register, flag, system register, barrier unit, byte of memory or other agent changes before they land,
and the pc stays for the sequencer to move. -/
def Claims.IssuedRegisterWordsOnlySchedule : Prop := ∀ (ins : Instr) (s t : State) (i : Info),
  registerWord ins = true → infoOf ins = some i → i.prv ≤ s.core.cont.prv → s.core.mark = .none → exec ins s = .next t →
  (∀ c n a, ¬Trapped t c n a) → OnlyIssues s t ∧ SameBytes s t

/-- R44: a tile word whose qualifying predicate reads false, in the privilege it needs, is the next state that differs in the context
label alone, which the predicate's label joins (R466); compares of type clr are left to R53. Of sysrd and syswr,
that state or the trap that the register's number and the privilege alone raise. A V word names no predicate, so none reads false. -/
def Claims.FalsePredicatesLeaveAllButTheLabel : Prop := ∀ (ins : Instr) (s : State) (i : Info),
  infoOf ins = some i → ins.wellFormed = true → combiningType ins ≠ some 1 → i.prv ≤ s.core.cont.prv → predOn s.core i = false →
  let off : Prop := ∃ l, (s.core.rdP i.qp).l ||| l = l ∧ exec ins s = .next { s with core := s.core.joinCl l }
  let sys : Prop := (∃ q d n, ins = .sysrd q d n) ∨ ∃ q a n, ins = .syswr q a n
  (¬sys → off)
  ∧ (sys → off ∨ (∃ n, exec ins s = settle s (.error (privileged s n))) ∨ exec ins s = settle s (.error (illegal s)))

/-- R43, R44, R94: register words only schedule their results, and a word under a false predicate changes the context label alone. -/
def Obligations.RegisterWordsOnlyScheduleResults : Prop := Claims.IssuedRegisterWordsOnlySchedule ∧ Claims.FalsePredicatesLeaveAllButTheLabel

/-- R97, R98, R153, R463: what a scalar store leaves: registers as they were, and, when its address is aligned and names
memory, every byte but the stored ones as the marks of its translation (R153) and the rise of its frame's label (R463, R464)
leave it. -/
def Claims.StoresChangeOnlyTheirBytes : Prop := ∀ (ins : Instr) (q a : BitVec 4) (v : BitVec 5) (m : BitVec 10) (s : State) (size : Nat),
  (ins = .stB q v a m ∨ ins = .stH q v a m ∨ ins = .stW q v a m ∨ ins = .stD q v a m) → storeSize ins = some size →
  ∀ i, infoOf ins = some i → Ready i s → Settled s → s.core.mark = .none → ∀ t va, t = joined i s → va = ((av t a).toNat + m.toNat * size) % 2 ^ 72 →
    va % size = 0 → ∀ t1 x, translateMark t va t.core.who.vf t.core.who.part t.core.who.prv size .write = .ok (t1, x) → isMem x.pa = true →
    ∀ u, exec ins s = .next u → (∀ c n b, ¬Trapped u c n b) → u.core.mark ≠ .held →
    ∀ pa l, pa = writePlace t1 t1.core.who va size x → l = ((t.core.rdS v).l ||| (t.core.rdA a).l ||| t.core.cl) →
      SameRegisters s.core u.core
      ∧ ∀ b, OtherPlace t1 b pa size → readPa u b 1 = readPa (rise t1 t1.core.who.part t1.core.who.vf { x with pa := pa } l) b 1

/-- R97, R98, R153: what a scalar load leaves: its result in flight, registers as they were, and every byte as the marks of
its translation leave it. -/
def Claims.LoadsChangeNoMemory : Prop := ∀ (ins : Instr) (q a : BitVec 4) (d l m : BitVec 5) (s : State) (size : Nat),
  (ins = .ldI8 q d a l m ∨ ins = .ldI16 q d a l m ∨ ins = .ldI32 q d a l m ∨ ins = .ldD q d a l m
    ∨ ins = .ldN8 q d a l m ∨ ins = .ldN16 q d a l m ∨ ins = .ldN32 q d a l m) → loadSize ins = some size →
  ∀ i, infoOf ins = some i → Ready i s → s.core.mark = .none → ∀ t va, t = joined i s → va = ((av t a).toNat + m.toNat * size) % 2 ^ 72 →
    va % size = 0 → ∀ t1 x, translateMark t va t.core.who.vf t.core.who.part t.core.who.prv size .read = .ok (t1, x) → isMem x.pa = true →
    ∀ u, exec ins s = .next u → (∀ c n b, ¬Trapped u c n b) → u.core.mark ≠ .held →
      (∃ e, u.core.pend = s.core.pend ++ [e]) ∧ SameRegisters s.core { u.core with pend := s.core.pend } ∧ u.mem = t1.mem

/-- R98, R105, R153, R463: what an atomic leaves: its old value in flight, registers as they were, and, when its address names memory,
every byte but the 4 or 8 it writes as the marks of its two translations and the rise of its frame's label leave it. -/
def Claims.AtomicsChangeOnlyTheirBytes : Prop := ∀ (ins : Instr) (q a : BitVec 4) (d l : BitVec 5) (w : BitVec 1) (s : State),
  (ins = .amoAdd q d a l w ∨ ins = .amoAnd q d a l w ∨ ins = .amoOr q d a l w ∨ ins = .amoXor q d a l w ∨ ins = .amoMin q d a l w
    ∨ ins = .amoMax q d a l w ∨ ins = .amoMinn q d a l w ∨ ins = .amoMaxn q d a l w ∨ ins = .amoSwap q d a l w ∨ ins = .amoCas q d a l w) →
  ∀ i, infoOf ins = some i → Ready i s → Settled s → s.core.mark = .none → ∀ t va n, t = joined i s → va = (av t a).toNat →
    n = (if w = 1 then 4 else 8) → va % n = 0 →
    ∀ t1 y, translateMark t va t.core.who.vf t.core.who.part t.core.who.prv n .rmw = .ok (t1, y) →
    ∀ r old ml, readAt t1 t.core.who va n y true = .ok (r, old, ml) →
    ∀ t2 x, translateMark r va t.core.who.vf t.core.who.part t.core.who.prv n .write = .ok (t2, x) → isMem x.pa = true →
    ∀ u, exec ins s = .next u → (∀ c k b, ¬Trapped u c k b) → u.core.mark ≠ .held →
    ∀ pa lab, pa = writePlace t2 t.core.who va n x → lab = (ml ||| readLabel t.core i.rd) →
      (∃ e, u.core.pend = s.core.pend ++ [e]) ∧ SameRegisters s.core { u.core with pend := s.core.pend } ∧ r.mem = t1.mem
      ∧ ∀ b, OtherPlace t2 b pa n → readPa u b 1 = readPa (rise t2 t.core.who.part t.core.who.vf { x with pa := pa } lab) b 1

/-- R98, R102 to R104, R153, R240, R241, R290, R463: what typed stores, vector stores and stores of z blocks leave: flags in flight,
registers as they were (of mx.zst and mx.zcvt but for the model's own list `mxWrote`, log 27), and every byte that no part of the store,
no mark of a part's translation and no rise of its frame's label changes, as it was: `Spares` follows the parts one after another. -/
def Claims.LongStoresChangeOnlyTheirBytes : Prop :=
  ∀ (q a f : BitVec 4) (v b : BitVec 5) (h rl : BitVec 1) (r sc m : BitVec 3) (g : BitVec 2) (s : State),
  let keeps (ins : Instr) (j : Info → Info) (parts : Info → State → List (Nat × Nat × (Nat → Nat))) (lab : Info → State → Label) (rd : Info → State → Bool)
      (own : Core → Core) : Prop :=
    ∀ i, infoOf ins = some i → Ready i s → Settled s → s.core.mark = .none → ∀ t, t = joined (j i) s →
    ∀ u, exec ins s = .next u → (∀ c k b, ¬Trapped u c k b) → u.core.mark ≠ .held →
      (∃ e, u.core.pend = s.core.pend ++ e) ∧ SameRegisters s.core { own u.core with pend := s.core.pend }
      ∧ ∀ b, Spares t.core.who (lab i t) b (rd i t) (parts i t) t = true → readPa u b 1 = readPa t b 1
  let whole (va n x : Nat) : List (Nat × Nat × (Nat → Nat)) := (spanVals (lineCount va n) va n x).map (fun p => (p.1, p.2.1, fun _ => p.2.2))
  let typed (t : State) : Nat := (typedOut f.toNat 64 (sv t v).toNat (rmOf r.toNat (t.core.fpMode.toNat % 8) false)).1
  let block (t : State) : Nat := pack (fmtWidth f.toNat)
    (fun j => (blockOut f.toNat ((t.core.rdV v).v.toNat >>> (32 * j) % 2 ^ 32) (rmOf r.toNat (t.core.fpMode.toNat % 8) false)).1) 128
  let els (at_ : Core → VCtx → Nat → Nat) (i : Info) (t : State) : List (Nat × Nat × (Nat → Nat)) :=
    let k := vctx t.core i 0 m
    elParts k.w (vEl t.core k v) (vAccs k (max 1 (k.w / 8)) (at_ t.core k))
  let nibbles (i : Info) (t : State) : Bool := (vctx t.core i 0 m).w == 4
  let z (ins : Instr) (w : Nat) (conv : State → Nat → Nat) : Prop := ∀ x, x = (sv s b).toNat →
    keeps ins (fun i => i.naming (namedG (ztG x) 1)) (fun _ t => (List.range 32).flatMap (fun k =>
        whole (((av t a).toNat + k * ztPitch t.core x) % 2 ^ 72) (8 * w)
          (packL w ((((zEls ((atNext t).rdZ (ztZ x)).v).map (conv t)).drop (64 * k)).take 64))))
      (fun i t => readLabel t.core (i.naming (namedG (ztG x) 1)).rd ||| ((atNext t).rdZ (ztZ x)).l) (fun _ _ => false)
      (fun c => { c with mxWrote := s.core.mxWrote })
  keeps (.stt q v a f h r) id (fun _ t => if fmtWidth f.toNat = 4 then [((av t a).toNat, 1, fun o => (if h = 0 then o / 16 * 16 + typed t else o % 16 + 16 * typed t))]
      else [((av t a).toNat, elBytes f.toNat, fun _ => typed t)]) (fun i t => readLabel t.core i.rd) (fun _ _ => fmtWidth f.toNat == 4) id
  ∧ keeps (.vstt q v a f r) id (fun _ t => whole (av t a).toNat (16 * fmtWidth f.toNat) (block t)) (fun i t => readLabel t.core i.rd) (fun _ _ => false) id
  ∧ keeps (.vst m v a) id (els (atPlain a)) (fun i t => (vctx t.core i 0 m).lab) nibbles id
  ∧ keeps (.vsts m v a g) id (els (atStride a g)) (fun i t => (vctx t.core i 0 m).lab) nibbles id
  ∧ keeps (.vstx m v a b) id (els (atIndex a b)) (fun i t => (vctx t.core i 0 m).lab) nibbles id
  ∧ z (.mxZst q rl sc a b) 32 (fun _ e => e)
  ∧ ∀ x, x = (sv s b).toNat → z (.mxZcvt q rl sc a b) (fmtWidth (bits x 13 10))
      (fun t e => (convert false 0 (bits x 13 10) e (rmOf (bits x 16 14) (t.core.fpMode.toNat % 8) false) 0).1)

/-- R97, R98, R102 to R105, R153, R240, R290, R463: what loads, stores, atomics, typed and vector stores and stores of z blocks leave
unchanged. -/
def Obligations.AccessesChangeOnlyWhatTheyStore : Prop := Claims.StoresChangeOnlyTheirBytes ∧ Claims.LoadsChangeNoMemory
  ∧ Claims.AtomicsChangeOnlyTheirBytes ∧ Claims.LongStoresChangeOnlyTheirBytes

/-- R34, R537: taking a trap outside a quad lock: TR_CAUSE, TR_INFO and TR_ADDR hold the trap, the core is idle with nothing in
flight, and a record of U or H is posted: with its cause when its frame could be written, with 0x14 when it could not. -/
def Obligations.TrapsSuspendAndPost : Prop := ∀ (s : State) (r : Running) (c info addr : Nat),
  s.core.run = some r → s.core.locked = false → c ≠ 0 → c < 256 →
  ∀ t, t = takeTrap s c info addr →
    (t.core.trCause = BitVec.ofNat 8 c ∧ t.core.trInfo = BitVec.ofNat 64 info ∧ t.core.trAddr = BitVec.ofNat 72 addr)
    ∧ t.core.run = none ∧ t.core.pend = [] ∧ t.core.cmds = s.core.cmds ∧ t.core.mark = .trapped c info addr
    ∧ (r.prv < 2 → ∃ l k, t.posts = l ++ [⟨r.part, r.pa, k, s.coreNo⟩]
      ∧ ∀ u ok, u = (if c = 0xC then countRefusal s r.part (BitVec.ofNat 32 (info >>> 32)) else s) →
          ok = (saveFrame { u with core := setTr u.core c info addr } c 0).2.ok → (ok = true → k = c) ∧ (ok = false → k = 0x14))
end

