-- ==== Sys2Proof/Laws/Memory.lean ====
section
/-! SUPPORT. The canonical form of memory (log 3): every operation over memory keeps it. -/
namespace Sys2Proof.Laws
open Sys2Proof Sys2Proof.Machine

/-! ## The canonical form (log 3) -/

/-- The canonical form: addresses strictly rising, and no listed byte is what an unlisted address reads as. -/
theorem memWf_iff (m : List Host.Cell) : memWf m = true ↔ m.Pairwise (fun c d => c.1 < d.1) ∧ ∀ c ∈ m, c.2 ≠ 0 := by
  induction m with
  | nil => simp [memWf]
  | cons c t ih =>
    cases t with
    | nil => simp [memWf]
    | cons d t =>
      simp only [memWf, Bool.and_eq_true, bne_iff_ne, decide_eq_true_eq, ih, List.pairwise_cons, List.mem_cons, forall_eq_or_imp]
      constructor
      · rintro ⟨⟨hb, hlt⟩, ⟨hd, hp⟩, h⟩
        exact ⟨⟨⟨hlt, fun x hx => Nat.lt_trans hlt (hd x hx)⟩, hd, hp⟩, hb, h⟩
      · rintro ⟨⟨⟨hlt, -⟩, hp⟩, hb, h⟩
        exact ⟨⟨hb, hlt⟩, hp, h⟩

/-- Every cell of `cellsOf n a v` lies in [a, a + n) and is not 0. -/
theorem cellsOf_range (n a v : Nat) : ∀ c ∈ cellsOf n a v, a ≤ c.1 ∧ c.1 < a + n ∧ c.2 ≠ 0 := by
  induction n generalizing a v with
  | zero => simp [cellsOf]
  | succ n ih =>
    intro c hc
    simp only [cellsOf] at hc
    split at hc
    · simp at hc
    · split at hc
      · obtain ⟨h1, h2, h3⟩ := ih _ _ c hc; exact ⟨by omega, by omega, h3⟩
      · rcases List.mem_cons.1 hc with rfl | hc
        · refine ⟨by simp, by simp, fun h => ?_⟩
          have h' := congrArg BitVec.toNat h
          simp only [BitVec.toNat_ofNat] at h'
          change v % 256 % 2 ^ 8 = 0 at h'
          omega
        · obtain ⟨h1, h2, h3⟩ := ih _ _ c hc; exact ⟨by omega, by omega, h3⟩

theorem cellsOf_sorted (n a v : Nat) : (cellsOf n a v).Pairwise (fun c d => c.1 < d.1) := by
  induction n generalizing a v with
  | zero => simp [cellsOf]
  | succ n ih =>
    simp only [cellsOf]
    split
    · simp
    · split
      · exact ih _ _
      · exact List.pairwise_cons.2 ⟨fun c hc => by have := (cellsOf_range n (a + 1) (v / 256) c hc).1; simp only; omega, ih _ _⟩

theorem cellsOf_memWf (n a v : Nat) : memWf (cellsOf n a v) = true :=
  (memWf_iff _).2 ⟨cellsOf_sorted n a v, fun c hc => (cellsOf_range n a v c hc).2.2⟩

/-- A write keeps the canonical form. -/
theorem putN_memWf {m : List Host.Cell} (h : memWf m = true) (a n v : Nat) : memWf (putN m a n v) = true := by
  obtain ⟨hp, hz⟩ := (memWf_iff m).1 h
  refine (memWf_iff _).2 ⟨?_, ?_⟩
  · simp only [putN, List.append_assoc]
    refine List.pairwise_append.2 ⟨hp.filter _, List.pairwise_append.2 ⟨cellsOf_sorted _ _ _, hp.filter _, ?_⟩, ?_⟩
    · intro c hc d hd
      have h1 := (cellsOf_range _ _ _ c hc).2.1
      have h2 := of_decide_eq_true (List.mem_filter.1 hd).2
      omega
    · intro c hc d hd
      have h1 := of_decide_eq_true (List.mem_filter.1 hc).2
      rcases List.mem_append.1 hd with hd | hd
      · have h2 := (cellsOf_range _ _ _ d hd).1
        omega
      · have h2 := of_decide_eq_true (List.mem_filter.1 hd).2
        omega
  · intro c hc
    simp only [putN, List.mem_append] at hc
    rcases hc with (hc | hc) | hc
    · exact hz c (List.mem_filter.1 hc).1
    · exact (cellsOf_range _ _ _ c hc).2.2
    · exact hz c (List.mem_filter.1 hc).1

theorem writeLines_memWf (s : State) (k pa n v : Nat) (m : List Host.Cell) (h : memWf m = true) :
    memWf (writeLines s k pa n v m) = true := by
  induction k generalizing pa n v m with
  | zero => exact h
  | succ k ih => exact ih _ _ _ _ (putN_memWf h _ _ _)

/-- A write to a physical address keeps the canonical form. -/
theorem writePa_memOk {s : State} (h : s.memOk) (pa n v : Nat) : (writePa s pa n v).memOk := writeLines_memWf s _ _ _ _ _ h

theorem reset_memOk : State.reset.memOk := by decide

/-- What a write to a physical address may change: memory. -/
theorem writePa_frame (s : State) (pa n v : Nat) : writePa s pa n v = { s with mem := (writePa s pa n v).mem } := rfl

/-! ## What the caches do leaves memory as it is -/

@[simp] theorem setDir_mem (s : State) (k : Nat) (e : DirEnt) : (setDir s k e).mem = s.mem := by
  unfold setDir
  split <;> rfl

theorem settleLine_mem (s : State) (k : Nat) : (settleLine s k).mem = s.mem := by
  unfold settleLine
  dsimp only
  split
  · rfl
  · rw [setDir_mem]

theorem uncacheLine_mem (s : State) (pa : Nat) : (uncacheLine s pa).mem = s.mem := by
  unfold uncacheLine
  dsimp only
  split
  · rw [setDir_mem, settleLine_mem]
  · rfl

theorem letGo_mem (s : State) (die k : Nat) : (letGo s die k).mem = s.mem := by
  unfold letGo
  split
  · rfl
  · rw [setDir_mem]

theorem takeWay_mem (s : State) (die k w : Nat) : (takeWay s die k w).mem = s.mem := by
  unfold takeWay
  split
  · exact letGo_mem _ _ _
  · rfl

/-- A fold of operations that leave memory leaves it. -/
theorem foldl_mem {α : Type} (f : State → α → State) (h : ∀ s a, (f s a).mem = s.mem) (l : List α) (s : State) :
    (l.foldl f s).mem = s.mem := by
  induction l generalizing s with
  | nil => rfl
  | cons a l ih => rw [List.foldl_cons, ih, h]

theorem freeEntryOf_mem (s : State) (k : Nat) : (freeEntryOf s k).mem = s.mem :=
  (setDir_mem _ _ _).trans <| (foldl_mem (fun t d => dieDrops t k d) (fun _ _ => rfl) (List.range 4) (settleLine s k)).trans (settleLine_mem s k)

theorem takeLine_mem (write : Bool) (die : Nat) (s : State) (k : Nat) : (takeLine write die s k).mem = s.mem := by
  have h : (dirRoom s k).mem = s.mem := by
    unfold dirRoom
    split
    · rfl
    · split
      · split
        · rfl
        · exact freeEntryOf_mem s _
      · rfl
  unfold takeLine
  dsimp only
  rw [setDir_mem, h]

theorem touchLine_mem (write : Bool) (vf die : Nat) (s : State) (pa : Nat) : (touchLine write vf die s pa).mem = s.mem := by
  unfold touchLine
  dsimp only
  split
  · rw [takeLine_mem, settleLine_mem]
  · split
    · rw [takeLine_mem, takeWay_mem, settleLine_mem]
    · split
      · exact (uncacheLine_mem _ _).trans (settleLine_mem s _)
      · exact settleLine_mem s _

@[simp] theorem writeHome_mem (s : State) (l : StashLine) : (writeHome s l).mem = s.mem := by
  unfold writeHome
  split
  · exact setDir_mem _ _ _
  · rfl

theorem dropLines_mem (s : State) (p : Nat × StashLine → Bool) : (dropLines s p).mem = s.mem := by
  unfold dropLines
  dsimp only
  rw [foldl_mem _ (fun _ _ => (letGo_mem _ _ _).trans (writeHome_mem _ _))]

theorem cleanLines_mem (s : State) (p : Nat × StashLine → Bool) : (cleanLines s p).mem = s.mem := by
  unfold cleanLines
  dsimp only
  rw [foldl_mem _ (fun _ _ => writeHome_mem _ _)]

@[simp] theorem focus_mem (s : State) (n : Nat) : (focus s n).mem = s.mem := by
  unfold focus
  repeat' split
  all_goals rfl

/-- Writing lines back on every core leaves memory. -/
theorem cleanEach_mem (s : State) (p : State → Nat × StashLine → Bool) : (cleanEach s p).mem = s.mem :=
  (focus_mem _ _).trans <| foldl_mem _ (fun t n => (cleanLines_mem _ _).trans (focus_mem t n)) _ _

theorem raiseFrame_mem (s : State) (pa : Nat) (l : Label) : (raiseFrame s pa l).mem = s.mem := by
  unfold raiseFrame
  split
  · rfl
  · split
    · dsimp only; split <;> rfl
    · rfl

theorem snoop_mem (s : State) (pa n : Nat) (k : Option Nat) : (snoop s pa n k).mem = s.mem := rfl

/-- That no agent keeps some lines changes no byte of memory. -/
theorem emptyLines_mem (s : State) (p : Nat → Bool) : (emptyLines s p).mem = s.mem :=
  foldl_mem (fun t (e : Nat × DirEnt) => setDir (settleLine t e.1) e.1 DirEnt.none)
    (fun t e => (setDir_mem _ _ _).trans (settleLine_mem t e.1)) _ (dropStash s p none)

/-- An engine's write keeps the canonical form. -/
theorem engWr_memOk {s : State} (h : s.memOk) (pa n v : Nat) (l : Label) : (engWr s pa n v l).memOk := by
  have drop (t : State) : (if (snoop t pa n none).dir = [] then snoop t pa n none
      else (linesOf pa n).foldl uncacheLine (snoop t pa n none)).mem = t.mem := by
    split
    · exact snoop_mem t pa n none
    · rw [foldl_mem uncacheLine uncacheLine_mem, snoop_mem]
  unfold engWr
  refine writePa_memOk ?_ pa n v
  unfold State.memOk at h ⊢
  rw [drop]
  split
  · exact h
  · rw [foldl_mem (fun t a => raiseFrame t a l) (fun t a => raiseFrame_mem t a l)]; exact h

/-- Part of a canonical list is canonical. -/
theorem filter_memWf {m : List Host.Cell} (h : memWf m = true) (p : Host.Cell → Bool) : memWf (m.filter p) = true := by
  obtain ⟨hp, hz⟩ := (memWf_iff m).1 h
  exact (memWf_iff _).2 ⟨hp.filter _, fun c hc => hz c (List.mem_filter.1 hc).1⟩

/-- Scrubbing keeps the canonical form (R494). -/
theorem scrubKeys_memOk {s : State} (h : s.memOk) (lo n : Nat) : (scrubKeys s lo n).memOk := by
  unfold scrubKeys
  split
  · exact h
  · exact filter_memWf ((emptyLines_mem s _).symm ▸ h) _

/-! ## Flits, releases and the forwarding table -/

/-- All that sending a flit does: the port counts its sequence number and resends, the flit is out, one open value is drawn. -/
theorem putFlit_frame (s : State) (p : Nat) (f : Flit) : ∃ ql flits,
    putFlit s p f = { s with fresh := s.fresh + 1, dev := { s.dev with ql := ql, flits := flits } } := ⟨_, _, rfl⟩

theorem sendFlit_mem {s t : State} {f : Flit} (h : sendFlit s f = some t) : t.mem = s.mem := by
  unfold sendFlit at h
  split at h
  · exact (Option.some.inj h) ▸ rfl
  · split at h
    · exact (Option.some.inj h) ▸ rfl
    · cases h

theorem windowFlit_mem {s t : State} {vf part pa : Nat} {data : List Byte} {l : Label} (h : windowFlit s vf part pa data l = some t) :
    t.mem = s.mem := by
  unfold windowFlit at h
  split at h
  · exact (Option.some.inj h) ▸ rfl
  · exact sendFlit_mem h

theorem treeFlits_mem (part dst src : Nat) (l : Label) (k v : Nat) (s : State) : (treeFlits part dst src l k v s).mem = s.mem := by
  induction k generalizing v s with
  | zero => rfl
  | succ k ih =>
    rw [treeFlits, ih]
    cases h : sendFlit s _ with
    | none => rfl
    | some t => exact sendFlit_mem h

theorem releaseLines_mem (s : State) (obj : Addr) : (releaseLines s obj).mem = s.mem :=
  foldl_mem _ (fun _ _ => by
    split
    · exact cleanEach_mem _ _
    · rfl) _ _

theorem releaseRows_mem (s : State) (rl : BitVec 1) (va pitch n : Nat) : (releaseRows s rl va pitch n).mem = s.mem := by
  unfold releaseRows
  split
  · exact cleanLines_mem _ _
  · rfl

theorem fwdPut_memOk {s : State} (h : s.memOk) (p : Part) (k v : Nat) : (fwdPut s p k v).memOk :=
  putN_memWf ((emptyLines_mem s _).symm ▸ h) _ _ _

end Sys2Proof.Laws
end

