-- ==== Sys2Proof/Laws/Partition.lean ====
section
/-! SUPPORT. What the reset of a VF leaves of what a core runs (R502): its stages, slots, mailboxes, episodes and media contexts touch no
record that runs. -/
namespace Sys2Proof.Laws
open Sys2Proof Sys2Proof.Machine

/-- A fold of operations that leave a part of the state leaves it. -/
theorem foldl_keeps {α β : Type} (g : State → β) (f : State → α → State) (h : ∀ s a, g (f s a) = g s) (l : List α) (s : State) :
    g (l.foldl f s) = g s := by
  induction l generalizing s with
  | nil => rfl
  | cons a l ih => rw [List.foldl_cons, ih, h]

/-- What the focused core runs, and the tasks of the quads. -/
def running (s : State) : Option Running × List (Nat × List Task) × List (Nat × List Task) := (s.core.run, s.quadQ, s.quadRun)

theorem setDir_running (s : State) (k : Nat) (e : DirEnt) : running (setDir s k e) = running s := by
  unfold setDir
  split <;> rfl

theorem uncacheLine_running (s : State) (pa : Nat) : running (uncacheLine s pa) = running s := by
  have settle (k : Nat) : running (settleLine s k) = running s := by
    unfold settleLine
    dsimp only
    split
    · rfl
    · rw [setDir_running]; rfl
  unfold uncacheLine
  dsimp only
  split
  · rw [setDir_running, settle]
  · rfl

/-- An engine's write drops cached copies, and leaves what runs. -/
theorem engWr_running (s : State) (pa n v : Nat) (l : Label) : running (engWr s pa n v l) = running s := by
  have raise (t : State) (a : Nat) : running (raiseFrame t a l) = running t := by
    unfold raiseFrame
    split
    · rfl
    · split
      · dsimp only; split <;> rfl
      · rfl
  have put (t : State) : running (writePa t pa n v) = running t := rfl
  have drop (t : State) : running (snoop t pa n none) = running t := rfl
  have clear (t : State) : running (if (snoop t pa n none).dir = [] then snoop t pa n none
      else (linesOf pa n).foldl uncacheLine (snoop t pa n none)) = running t := by
    split
    · exact drop t
    · rw [foldl_keeps running _ uncacheLine_running, drop]
  unfold engWr
  dsimp only
  rw [put, clear]
  split
  · rfl
  · exact foldl_keeps running _ raise _ _

theorem stageWr_running (s : State) (p k o n v : Nat) (l : Label) : running (stageWr s p k o n v l) = running s := by
  unfold stageWr
  split
  · rfl
  · exact engWr_running _ _ _ _ _

theorem stageSub_running (s : State) (p k o : Nat) : running (stageSub s p k o) = running s := by
  unfold stageSub stageAdd
  split
  · rfl
  · split
    · rfl
    · exact engWr_running _ _ _ _ _

theorem freeSlotsOf_running (s : State) (p : Nat) (mine : Nat → Bool) : running (freeSlotsOf s p mine) = running s := by
  unfold freeSlotsOf
  refine foldl_keeps running _ (fun t k => ?_) _ _
  dsimp only
  rw [engWr_running]
  unfold writeRecord
  rw [engWr_running]
  split
  · exact stageSub_running _ _ _ _
  · rfl

theorem flrStages_running (vf p : Nat) (s : State) : running (flrStages vf p s) = running s := by
  unfold flrStages
  dsimp only
  rw [freeSlotsOf_running, foldl_keeps running _ (fun t k => stageWr_running _ _ _ _ _ _ _)]

theorem abortMail_running (a : Nat) (s : State) (k : Nat) : running (abortMail a s k) = running s := by
  unfold abortMail
  dsimp only
  split
  · exact engWr_running _ _ _ _ _
  · rfl

theorem stopEpisode_running (s : State) (e c : Nat) : running (stopEpisode s e c) = running s := by
  have unbind (t : State) (x : Nat) : running (unbindHart t x) = running t := by
    unfold unbindHart
    split
    · rfl
    · rfl
  unfold stopEpisode closeEpisode
  dsimp only
  rw [unbind]
  exact (engWr_running _ _ _ _ _).trans (foldl_keeps running _ (abortMail_running _) _ s)

theorem mediaStop_running (s : State) (k : Nat) : running (mediaStop s k) = running s := by
  unfold mediaStop
  dsimp only
  rw [foldl_keeps running _ (fun t w => ?_)]
  · rfl
  · unfold mediaReg; split <;> rfl

/-- After the records that it suspends, the reset of a VF without tile tasks leaves what the focused core runs (R502). -/
theorem flr_run (vf p : Nat) (s : State) (r : Option Running)
    (h : running (focus (((s.coreNo, s.core) :: s.others).foldl (fun t e => abortCore vf t e.1) s) s.coreNo) = (r, [], [])) :
    (flr vf p s).core.run = r := by
  have engines (t : State) (ht : running t = (r, [], [])) : running (flrEngines vf t) = (r, [], []) := by
    have hq : t.quadQ = [] := congrArg (·.2.1) ht
    have hr : t.quadRun = [] := congrArg (·.2.2) ht
    unfold flrEngines
    rw [foldl_keeps running _ (fun u e => stopEpisode_running u e 3), foldl_keeps running _ (abortMail_running 3)]
    simpa [hq, hr, running] using congrArg (·.1) ht
  have stop (l : List (Nat × MediaCtx)) (t : State) : running (l.foldl (fun t e => mediaStop t e.1) t) = running t :=
    foldl_keeps running _ (fun t e => mediaStop_running t e.1) l t
  have run {t : State} (ht : running t = (r, [], [])) : t.core.run = r := congrArg (·.1) ht
  unfold flr
  dsimp only
  exact run ((stop _ _).trans (engines _ ((flrStages_running vf p _).trans h)))
end Sys2Proof.Laws
end

