-- ==== Sys2Proof/Laws/PerInstr.lean ====
section
/-! SUPPORT. The family Encoding, one lemma per constructor: a well-formed word decodes to the instruction it encodes,
with every operand (R40 to R51, R417). -/
namespace Sys2Proof.Laws.Encoding
set_option Elab.async false
open Sys2Proof Sys2Proof.Machine

/-- Decoding undoes encoding: for a tile word up to rows that share a word, for a hart's word outright. -/
def Statement (i : Instr) : Prop :=
  ((infoOf i).isSome = true → i.wellFormed = true → ∀ stop, decode (encodeWord stop i) = .ok i.firstOfWord)
    ∧ (i.hartWord = true → decodeJx (encode i) = some i)

/-- Digits x of bases b, the lowest first, above them e. -/
def pack : List (Nat × Nat) → Nat → Nat
  | [], e => e
  | (b, x) :: l, e => x + b * pack l e

/-- Each digit is below its base. -/
def Small : List (Nat × Nat) → Prop
  | [] => True
  | (b, x) :: l => x < b ∧ Small l

/-- Each digit is a field of w, from the place p on. -/
def Fields : List (Nat × Nat) → Nat → Nat → Prop
  | [], _, _ => True
  | (b, x) :: l, p, w => w / p % b = x ∧ Fields l (p * b) w

theorem fields_at : ∀ (l : List (Nat × Nat)) (e p w : Nat), Small l → w / p = pack l e → Fields l p w
  | [], _, _, _, _, _ => trivial
  | (b, x) :: l, e, p, w, ⟨hx, hl⟩, hw => by
    refine ⟨?_, fields_at l e (p * b) w hl ?_⟩
    · rw [hw, pack, Nat.add_mul_mod_self_left, Nat.mod_eq_of_lt hx]
    · rw [← Nat.div_div_eq_div_mul, hw, pack, Nat.add_mul_div_left _ _ (by omega), Nat.div_eq_of_lt hx, Nat.zero_add]

theorem fields_of {w : Nat} (l : List (Nat × Nat)) (e : Nat) (hl : Small l) (hw : w = pack l e) : Fields l 1 w :=
  fields_at l e 1 w hl (by rw [Nat.div_one, hw])

theorem ofNat_of {n k : Nat} (x : BitVec n) (h : k = x.toNat) : BitVec.ofNat n k = x := by
  subst h; simp

theorem accept_ok {z : Bool} {i j : Instr} (hz : z = true) (hj : j = i) (hi : i.wellFormed = true) : accept z j = .ok i := by
  subst hj; simp [accept, hz, hi]

theorem word_split (stop : Bool) {i : Instr} {k : Nat} (h : encode i = k) : ∃ e, encodeWord stop i = k + 2147483648 * e := by
  cases stop
  · exact ⟨0, by rw [encodeWord, h]; simp⟩
  · exact ⟨1, by rw [encodeWord, h]; simp⟩

/-- The statement of a tile word, from its digits and from what the decoder makes of a word with such fields. -/
theorem tile_of {i f : Instr} {k : Nat} (l : List (Nat × Nat)) (hh : i.hartWord = false) (hf : i.firstOfWord = f)
    (hw : i.wellFormed = f.wellFormed) (he : encode i = k) (hl : Small l) (hp : ∀ e, k + 2147483648 * e = pack l e)
    (hd : ∀ w, f.wellFormed = true → Fields l 1 w → decode w = .ok f) : Statement i := by
  refine ⟨fun _ hwf stop => ?_, fun h => absurd (hh.symm.trans h) (by decide)⟩
  obtain ⟨e, hs⟩ := word_split stop he
  rw [hf]
  exact hd _ (hw ▸ hwf) (fields_of l e hl (hs.trans (hp e)))



theorem add (q : BitVec 4) (d : BitVec 5) (a : BitVec 5) (b : BitVec 5) : Statement (.add q d a b) := by
  refine tile_of [(32, b.toNat), (32, a.toNat), (32, d.toNat), (128, 0), (16, q.toNat), (32, 0)] (f := (.add q d a b)) rfl rfl rfl (k := 0 + q.toNat * 4194304 + d.toNat * 1024 + a.toNat * 32 + b.toNat) rfl
    ⟨b.isLt, a.isLt, d.isLt, by decide, q.isLt, by decide, trivial⟩ (fun e => by simp only [pack]; omega) ?_
  rintro w hwf ⟨g0, g1, g2, g3, g4, g5, -⟩
  rw [Nat.div_one] at g0
  rw [decode, g5, decode00.eq_def, g3]
  exact accept_ok rfl (by simp only [g0, g1, g2, g4, BitVec.ofNat_toNat, BitVec.setWidth_eq]) hwf

theorem sub (q : BitVec 4) (d : BitVec 5) (a : BitVec 5) (b : BitVec 5) : Statement (.sub q d a b) := by
  refine tile_of [(32, b.toNat), (32, a.toNat), (32, d.toNat), (128, 1), (16, q.toNat), (32, 0)] (f := (.sub q d a b)) rfl rfl rfl (k := 32768 + q.toNat * 4194304 + d.toNat * 1024 + a.toNat * 32 + b.toNat) rfl
    ⟨b.isLt, a.isLt, d.isLt, by decide, q.isLt, by decide, trivial⟩ (fun e => by simp only [pack]; omega) ?_
  rintro w hwf ⟨g0, g1, g2, g3, g4, g5, -⟩
  rw [Nat.div_one] at g0
  rw [decode, g5, decode00.eq_def, g3]
  exact accept_ok rfl (by simp only [g0, g1, g2, g4, BitVec.ofNat_toNat, BitVec.setWidth_eq]) hwf

theorem mul (q : BitVec 4) (d : BitVec 5) (a : BitVec 5) (b : BitVec 5) : Statement (.mul q d a b) := by
  refine tile_of [(32, b.toNat), (32, a.toNat), (32, d.toNat), (128, 2), (16, q.toNat), (32, 0)] (f := (.mul q d a b)) rfl rfl rfl (k := 65536 + q.toNat * 4194304 + d.toNat * 1024 + a.toNat * 32 + b.toNat) rfl
    ⟨b.isLt, a.isLt, d.isLt, by decide, q.isLt, by decide, trivial⟩ (fun e => by simp only [pack]; omega) ?_
  rintro w hwf ⟨g0, g1, g2, g3, g4, g5, -⟩
  rw [Nat.div_one] at g0
  rw [decode, g5, decode00.eq_def, g3]
  exact accept_ok rfl (by simp only [g0, g1, g2, g4, BitVec.ofNat_toNat, BitVec.setWidth_eq]) hwf

theorem mulh (q : BitVec 4) (d : BitVec 5) (a : BitVec 5) (b : BitVec 5) : Statement (.mulh q d a b) := by
  refine tile_of [(32, b.toNat), (32, a.toNat), (32, d.toNat), (128, 3), (16, q.toNat), (32, 0)] (f := (.mulh q d a b)) rfl rfl rfl (k := 98304 + q.toNat * 4194304 + d.toNat * 1024 + a.toNat * 32 + b.toNat) rfl
    ⟨b.isLt, a.isLt, d.isLt, by decide, q.isLt, by decide, trivial⟩ (fun e => by simp only [pack]; omega) ?_
  rintro w hwf ⟨g0, g1, g2, g3, g4, g5, -⟩
  rw [Nat.div_one] at g0
  rw [decode, g5, decode00.eq_def, g3]
  exact accept_ok rfl (by simp only [g0, g1, g2, g4, BitVec.ofNat_toNat, BitVec.setWidth_eq]) hwf

theorem mulhn (q : BitVec 4) (d : BitVec 5) (a : BitVec 5) (b : BitVec 5) : Statement (.mulhn q d a b) := by
  refine tile_of [(32, b.toNat), (32, a.toNat), (32, d.toNat), (128, 4), (16, q.toNat), (32, 0)] (f := (.mulhn q d a b)) rfl rfl rfl (k := 131072 + q.toNat * 4194304 + d.toNat * 1024 + a.toNat * 32 + b.toNat) rfl
    ⟨b.isLt, a.isLt, d.isLt, by decide, q.isLt, by decide, trivial⟩ (fun e => by simp only [pack]; omega) ?_
  rintro w hwf ⟨g0, g1, g2, g3, g4, g5, -⟩
  rw [Nat.div_one] at g0
  rw [decode, g5, decode00.eq_def, g3]
  exact accept_ok rfl (by simp only [g0, g1, g2, g4, BitVec.ofNat_toNat, BitVec.setWidth_eq]) hwf

theorem div (q : BitVec 4) (d : BitVec 5) (a : BitVec 5) (b : BitVec 5) : Statement (.div q d a b) := by
  refine tile_of [(32, b.toNat), (32, a.toNat), (32, d.toNat), (128, 5), (16, q.toNat), (32, 0)] (f := (.div q d a b)) rfl rfl rfl (k := 163840 + q.toNat * 4194304 + d.toNat * 1024 + a.toNat * 32 + b.toNat) rfl
    ⟨b.isLt, a.isLt, d.isLt, by decide, q.isLt, by decide, trivial⟩ (fun e => by simp only [pack]; omega) ?_
  rintro w hwf ⟨g0, g1, g2, g3, g4, g5, -⟩
  rw [Nat.div_one] at g0
  rw [decode, g5, decode00.eq_def, g3]
  exact accept_ok rfl (by simp only [g0, g1, g2, g4, BitVec.ofNat_toNat, BitVec.setWidth_eq]) hwf

theorem divn (q : BitVec 4) (d : BitVec 5) (a : BitVec 5) (b : BitVec 5) : Statement (.divn q d a b) := by
  refine tile_of [(32, b.toNat), (32, a.toNat), (32, d.toNat), (128, 6), (16, q.toNat), (32, 0)] (f := (.divn q d a b)) rfl rfl rfl (k := 196608 + q.toNat * 4194304 + d.toNat * 1024 + a.toNat * 32 + b.toNat) rfl
    ⟨b.isLt, a.isLt, d.isLt, by decide, q.isLt, by decide, trivial⟩ (fun e => by simp only [pack]; omega) ?_
  rintro w hwf ⟨g0, g1, g2, g3, g4, g5, -⟩
  rw [Nat.div_one] at g0
  rw [decode, g5, decode00.eq_def, g3]
  exact accept_ok rfl (by simp only [g0, g1, g2, g4, BitVec.ofNat_toNat, BitVec.setWidth_eq]) hwf

theorem rem (q : BitVec 4) (d : BitVec 5) (a : BitVec 5) (b : BitVec 5) : Statement (.rem q d a b) := by
  refine tile_of [(32, b.toNat), (32, a.toNat), (32, d.toNat), (128, 7), (16, q.toNat), (32, 0)] (f := (.rem q d a b)) rfl rfl rfl (k := 229376 + q.toNat * 4194304 + d.toNat * 1024 + a.toNat * 32 + b.toNat) rfl
    ⟨b.isLt, a.isLt, d.isLt, by decide, q.isLt, by decide, trivial⟩ (fun e => by simp only [pack]; omega) ?_
  rintro w hwf ⟨g0, g1, g2, g3, g4, g5, -⟩
  rw [Nat.div_one] at g0
  rw [decode, g5, decode00.eq_def, g3]
  exact accept_ok rfl (by simp only [g0, g1, g2, g4, BitVec.ofNat_toNat, BitVec.setWidth_eq]) hwf

theorem remn (q : BitVec 4) (d : BitVec 5) (a : BitVec 5) (b : BitVec 5) : Statement (.remn q d a b) := by
  refine tile_of [(32, b.toNat), (32, a.toNat), (32, d.toNat), (128, 8), (16, q.toNat), (32, 0)] (f := (.remn q d a b)) rfl rfl rfl (k := 262144 + q.toNat * 4194304 + d.toNat * 1024 + a.toNat * 32 + b.toNat) rfl
    ⟨b.isLt, a.isLt, d.isLt, by decide, q.isLt, by decide, trivial⟩ (fun e => by simp only [pack]; omega) ?_
  rintro w hwf ⟨g0, g1, g2, g3, g4, g5, -⟩
  rw [Nat.div_one] at g0
  rw [decode, g5, decode00.eq_def, g3]
  exact accept_ok rfl (by simp only [g0, g1, g2, g4, BitVec.ofNat_toNat, BitVec.setWidth_eq]) hwf

theorem and (q : BitVec 4) (d : BitVec 5) (a : BitVec 5) (b : BitVec 5) : Statement (.and q d a b) := by
  refine tile_of [(32, b.toNat), (32, a.toNat), (32, d.toNat), (128, 9), (16, q.toNat), (32, 0)] (f := (.and q d a b)) rfl rfl rfl (k := 294912 + q.toNat * 4194304 + d.toNat * 1024 + a.toNat * 32 + b.toNat) rfl
    ⟨b.isLt, a.isLt, d.isLt, by decide, q.isLt, by decide, trivial⟩ (fun e => by simp only [pack]; omega) ?_
  rintro w hwf ⟨g0, g1, g2, g3, g4, g5, -⟩
  rw [Nat.div_one] at g0
  rw [decode, g5, decode00.eq_def, g3]
  exact accept_ok rfl (by simp only [g0, g1, g2, g4, BitVec.ofNat_toNat, BitVec.setWidth_eq]) hwf

theorem or (q : BitVec 4) (d : BitVec 5) (a : BitVec 5) (b : BitVec 5) : Statement (.or q d a b) := by
  refine tile_of [(32, b.toNat), (32, a.toNat), (32, d.toNat), (128, 10), (16, q.toNat), (32, 0)] (f := (.or q d a b)) rfl rfl rfl (k := 327680 + q.toNat * 4194304 + d.toNat * 1024 + a.toNat * 32 + b.toNat) rfl
    ⟨b.isLt, a.isLt, d.isLt, by decide, q.isLt, by decide, trivial⟩ (fun e => by simp only [pack]; omega) ?_
  rintro w hwf ⟨g0, g1, g2, g3, g4, g5, -⟩
  rw [Nat.div_one] at g0
  rw [decode, g5, decode00.eq_def, g3]
  exact accept_ok rfl (by simp only [g0, g1, g2, g4, BitVec.ofNat_toNat, BitVec.setWidth_eq]) hwf

theorem xor (q : BitVec 4) (d : BitVec 5) (a : BitVec 5) (b : BitVec 5) : Statement (.xor q d a b) := by
  refine tile_of [(32, b.toNat), (32, a.toNat), (32, d.toNat), (128, 11), (16, q.toNat), (32, 0)] (f := (.xor q d a b)) rfl rfl rfl (k := 360448 + q.toNat * 4194304 + d.toNat * 1024 + a.toNat * 32 + b.toNat) rfl
    ⟨b.isLt, a.isLt, d.isLt, by decide, q.isLt, by decide, trivial⟩ (fun e => by simp only [pack]; omega) ?_
  rintro w hwf ⟨g0, g1, g2, g3, g4, g5, -⟩
  rw [Nat.div_one] at g0
  rw [decode, g5, decode00.eq_def, g3]
  exact accept_ok rfl (by simp only [g0, g1, g2, g4, BitVec.ofNat_toNat, BitVec.setWidth_eq]) hwf

theorem andn (q : BitVec 4) (d : BitVec 5) (a : BitVec 5) (b : BitVec 5) : Statement (.andn q d a b) := by
  refine tile_of [(32, b.toNat), (32, a.toNat), (32, d.toNat), (128, 12), (16, q.toNat), (32, 0)] (f := (.andn q d a b)) rfl rfl rfl (k := 393216 + q.toNat * 4194304 + d.toNat * 1024 + a.toNat * 32 + b.toNat) rfl
    ⟨b.isLt, a.isLt, d.isLt, by decide, q.isLt, by decide, trivial⟩ (fun e => by simp only [pack]; omega) ?_
  rintro w hwf ⟨g0, g1, g2, g3, g4, g5, -⟩
  rw [Nat.div_one] at g0
  rw [decode, g5, decode00.eq_def, g3]
  exact accept_ok rfl (by simp only [g0, g1, g2, g4, BitVec.ofNat_toNat, BitVec.setWidth_eq]) hwf

theorem shl (q : BitVec 4) (d : BitVec 5) (a : BitVec 5) (b : BitVec 5) : Statement (.shl q d a b) := by
  refine tile_of [(32, b.toNat), (32, a.toNat), (32, d.toNat), (128, 13), (16, q.toNat), (32, 0)] (f := (.shl q d a b)) rfl rfl rfl (k := 425984 + q.toNat * 4194304 + d.toNat * 1024 + a.toNat * 32 + b.toNat) rfl
    ⟨b.isLt, a.isLt, d.isLt, by decide, q.isLt, by decide, trivial⟩ (fun e => by simp only [pack]; omega) ?_
  rintro w hwf ⟨g0, g1, g2, g3, g4, g5, -⟩
  rw [Nat.div_one] at g0
  rw [decode, g5, decode00.eq_def, g3]
  exact accept_ok rfl (by simp only [g0, g1, g2, g4, BitVec.ofNat_toNat, BitVec.setWidth_eq]) hwf

theorem shr (q : BitVec 4) (d : BitVec 5) (a : BitVec 5) (b : BitVec 5) : Statement (.shr q d a b) := by
  refine tile_of [(32, b.toNat), (32, a.toNat), (32, d.toNat), (128, 14), (16, q.toNat), (32, 0)] (f := (.shr q d a b)) rfl rfl rfl (k := 458752 + q.toNat * 4194304 + d.toNat * 1024 + a.toNat * 32 + b.toNat) rfl
    ⟨b.isLt, a.isLt, d.isLt, by decide, q.isLt, by decide, trivial⟩ (fun e => by simp only [pack]; omega) ?_
  rintro w hwf ⟨g0, g1, g2, g3, g4, g5, -⟩
  rw [Nat.div_one] at g0
  rw [decode, g5, decode00.eq_def, g3]
  exact accept_ok rfl (by simp only [g0, g1, g2, g4, BitVec.ofNat_toNat, BitVec.setWidth_eq]) hwf

theorem sar (q : BitVec 4) (d : BitVec 5) (a : BitVec 5) (b : BitVec 5) : Statement (.sar q d a b) := by
  refine tile_of [(32, b.toNat), (32, a.toNat), (32, d.toNat), (128, 15), (16, q.toNat), (32, 0)] (f := (.sar q d a b)) rfl rfl rfl (k := 491520 + q.toNat * 4194304 + d.toNat * 1024 + a.toNat * 32 + b.toNat) rfl
    ⟨b.isLt, a.isLt, d.isLt, by decide, q.isLt, by decide, trivial⟩ (fun e => by simp only [pack]; omega) ?_
  rintro w hwf ⟨g0, g1, g2, g3, g4, g5, -⟩
  rw [Nat.div_one] at g0
  rw [decode, g5, decode00.eq_def, g3]
  exact accept_ok rfl (by simp only [g0, g1, g2, g4, BitVec.ofNat_toNat, BitVec.setWidth_eq]) hwf

theorem min (q : BitVec 4) (d : BitVec 5) (a : BitVec 5) (b : BitVec 5) : Statement (.min q d a b) := by
  refine tile_of [(32, b.toNat), (32, a.toNat), (32, d.toNat), (128, 16), (16, q.toNat), (32, 0)] (f := (.min q d a b)) rfl rfl rfl (k := 524288 + q.toNat * 4194304 + d.toNat * 1024 + a.toNat * 32 + b.toNat) rfl
    ⟨b.isLt, a.isLt, d.isLt, by decide, q.isLt, by decide, trivial⟩ (fun e => by simp only [pack]; omega) ?_
  rintro w hwf ⟨g0, g1, g2, g3, g4, g5, -⟩
  rw [Nat.div_one] at g0
  rw [decode, g5, decode00.eq_def, g3]
  exact accept_ok rfl (by simp only [g0, g1, g2, g4, BitVec.ofNat_toNat, BitVec.setWidth_eq]) hwf

theorem max (q : BitVec 4) (d : BitVec 5) (a : BitVec 5) (b : BitVec 5) : Statement (.max q d a b) := by
  refine tile_of [(32, b.toNat), (32, a.toNat), (32, d.toNat), (128, 17), (16, q.toNat), (32, 0)] (f := (.max q d a b)) rfl rfl rfl (k := 557056 + q.toNat * 4194304 + d.toNat * 1024 + a.toNat * 32 + b.toNat) rfl
    ⟨b.isLt, a.isLt, d.isLt, by decide, q.isLt, by decide, trivial⟩ (fun e => by simp only [pack]; omega) ?_
  rintro w hwf ⟨g0, g1, g2, g3, g4, g5, -⟩
  rw [Nat.div_one] at g0
  rw [decode, g5, decode00.eq_def, g3]
  exact accept_ok rfl (by simp only [g0, g1, g2, g4, BitVec.ofNat_toNat, BitVec.setWidth_eq]) hwf

theorem minn (q : BitVec 4) (d : BitVec 5) (a : BitVec 5) (b : BitVec 5) : Statement (.minn q d a b) := by
  refine tile_of [(32, b.toNat), (32, a.toNat), (32, d.toNat), (128, 18), (16, q.toNat), (32, 0)] (f := (.minn q d a b)) rfl rfl rfl (k := 589824 + q.toNat * 4194304 + d.toNat * 1024 + a.toNat * 32 + b.toNat) rfl
    ⟨b.isLt, a.isLt, d.isLt, by decide, q.isLt, by decide, trivial⟩ (fun e => by simp only [pack]; omega) ?_
  rintro w hwf ⟨g0, g1, g2, g3, g4, g5, -⟩
  rw [Nat.div_one] at g0
  rw [decode, g5, decode00.eq_def, g3]
  exact accept_ok rfl (by simp only [g0, g1, g2, g4, BitVec.ofNat_toNat, BitVec.setWidth_eq]) hwf

theorem maxn (q : BitVec 4) (d : BitVec 5) (a : BitVec 5) (b : BitVec 5) : Statement (.maxn q d a b) := by
  refine tile_of [(32, b.toNat), (32, a.toNat), (32, d.toNat), (128, 19), (16, q.toNat), (32, 0)] (f := (.maxn q d a b)) rfl rfl rfl (k := 622592 + q.toNat * 4194304 + d.toNat * 1024 + a.toNat * 32 + b.toNat) rfl
    ⟨b.isLt, a.isLt, d.isLt, by decide, q.isLt, by decide, trivial⟩ (fun e => by simp only [pack]; omega) ?_
  rintro w hwf ⟨g0, g1, g2, g3, g4, g5, -⟩
  rw [Nat.div_one] at g0
  rw [decode, g5, decode00.eq_def, g3]
  exact accept_ok rfl (by simp only [g0, g1, g2, g4, BitVec.ofNat_toNat, BitVec.setWidth_eq]) hwf

theorem clz (q : BitVec 4) (d : BitVec 5) (a : BitVec 5) : Statement (.clz q d a) := by
  refine tile_of [(32, 0), (32, a.toNat), (32, d.toNat), (128, 20), (16, q.toNat), (32, 0)] (f := (.clz q d a)) rfl rfl rfl (k := 655360 + q.toNat * 4194304 + d.toNat * 1024 + a.toNat * 32) rfl
    ⟨by decide, a.isLt, d.isLt, by decide, q.isLt, by decide, trivial⟩ (fun e => by simp only [pack]; omega) ?_
  rintro w hwf ⟨g0, g1, g2, g3, g4, g5, -⟩
  rw [Nat.div_one] at g0
  rw [decode, g5, decode00.eq_def, g3]
  exact accept_ok (by rw [g0]; rfl) (by simp only [g1, g2, g4, BitVec.ofNat_toNat, BitVec.setWidth_eq]) hwf

theorem ctz (q : BitVec 4) (d : BitVec 5) (a : BitVec 5) : Statement (.ctz q d a) := by
  refine tile_of [(32, 0), (32, a.toNat), (32, d.toNat), (128, 21), (16, q.toNat), (32, 0)] (f := (.ctz q d a)) rfl rfl rfl (k := 688128 + q.toNat * 4194304 + d.toNat * 1024 + a.toNat * 32) rfl
    ⟨by decide, a.isLt, d.isLt, by decide, q.isLt, by decide, trivial⟩ (fun e => by simp only [pack]; omega) ?_
  rintro w hwf ⟨g0, g1, g2, g3, g4, g5, -⟩
  rw [Nat.div_one] at g0
  rw [decode, g5, decode00.eq_def, g3]
  exact accept_ok (by rw [g0]; rfl) (by simp only [g1, g2, g4, BitVec.ofNat_toNat, BitVec.setWidth_eq]) hwf

theorem popc (q : BitVec 4) (d : BitVec 5) (a : BitVec 5) : Statement (.popc q d a) := by
  refine tile_of [(32, 0), (32, a.toNat), (32, d.toNat), (128, 22), (16, q.toNat), (32, 0)] (f := (.popc q d a)) rfl rfl rfl (k := 720896 + q.toNat * 4194304 + d.toNat * 1024 + a.toNat * 32) rfl
    ⟨by decide, a.isLt, d.isLt, by decide, q.isLt, by decide, trivial⟩ (fun e => by simp only [pack]; omega) ?_
  rintro w hwf ⟨g0, g1, g2, g3, g4, g5, -⟩
  rw [Nat.div_one] at g0
  rw [decode, g5, decode00.eq_def, g3]
  exact accept_ok (by rw [g0]; rfl) (by simp only [g1, g2, g4, BitVec.ofNat_toNat, BitVec.setWidth_eq]) hwf

theorem rotl (q : BitVec 4) (d : BitVec 5) (a : BitVec 5) (b : BitVec 5) : Statement (.rotl q d a b) := by
  refine tile_of [(32, b.toNat), (32, a.toNat), (32, d.toNat), (128, 23), (16, q.toNat), (32, 0)] (f := (.rotl q d a b)) rfl rfl rfl (k := 753664 + q.toNat * 4194304 + d.toNat * 1024 + a.toNat * 32 + b.toNat) rfl
    ⟨b.isLt, a.isLt, d.isLt, by decide, q.isLt, by decide, trivial⟩ (fun e => by simp only [pack]; omega) ?_
  rintro w hwf ⟨g0, g1, g2, g3, g4, g5, -⟩
  rw [Nat.div_one] at g0
  rw [decode, g5, decode00.eq_def, g3]
  exact accept_ok rfl (by simp only [g0, g1, g2, g4, BitVec.ofNat_toNat, BitVec.setWidth_eq]) hwf

theorem addi (q : BitVec 4) (d : BitVec 5) (a : BitVec 5) (i : BitVec 9) : Statement (.addi q d a i) := by
  refine tile_of [(512, i.toNat), (32, a.toNat), (32, d.toNat), (8, 0), (16, q.toNat), (32, 1)] (f := (.addi q d a i)) rfl rfl rfl (k := 67108864 + q.toNat * 4194304 + d.toNat * 16384 + a.toNat * 512 + i.toNat) rfl
    ⟨i.isLt, a.isLt, d.isLt, by decide, q.isLt, by decide, trivial⟩ (fun e => by simp only [pack]; omega) ?_
  rintro w hwf ⟨g0, g1, g2, g3, g4, g5, -⟩
  rw [Nat.div_one] at g0
  rw [decode, g5, decode01.eq_def, g3]
  exact accept_ok rfl (by simp only [g0, g1, g2, g4, BitVec.ofNat_toNat, BitVec.setWidth_eq]) hwf

theorem andi (q : BitVec 4) (d : BitVec 5) (a : BitVec 5) (i : BitVec 9) : Statement (.andi q d a i) := by
  refine tile_of [(512, i.toNat), (32, a.toNat), (32, d.toNat), (8, 1), (16, q.toNat), (32, 1)] (f := (.andi q d a i)) rfl rfl rfl (k := 67633152 + q.toNat * 4194304 + d.toNat * 16384 + a.toNat * 512 + i.toNat) rfl
    ⟨i.isLt, a.isLt, d.isLt, by decide, q.isLt, by decide, trivial⟩ (fun e => by simp only [pack]; omega) ?_
  rintro w hwf ⟨g0, g1, g2, g3, g4, g5, -⟩
  rw [Nat.div_one] at g0
  rw [decode, g5, decode01.eq_def, g3]
  exact accept_ok rfl (by simp only [g0, g1, g2, g4, BitVec.ofNat_toNat, BitVec.setWidth_eq]) hwf

theorem ori (q : BitVec 4) (d : BitVec 5) (a : BitVec 5) (i : BitVec 9) : Statement (.ori q d a i) := by
  refine tile_of [(512, i.toNat), (32, a.toNat), (32, d.toNat), (8, 2), (16, q.toNat), (32, 1)] (f := (.ori q d a i)) rfl rfl rfl (k := 68157440 + q.toNat * 4194304 + d.toNat * 16384 + a.toNat * 512 + i.toNat) rfl
    ⟨i.isLt, a.isLt, d.isLt, by decide, q.isLt, by decide, trivial⟩ (fun e => by simp only [pack]; omega) ?_
  rintro w hwf ⟨g0, g1, g2, g3, g4, g5, -⟩
  rw [Nat.div_one] at g0
  rw [decode, g5, decode01.eq_def, g3]
  exact accept_ok rfl (by simp only [g0, g1, g2, g4, BitVec.ofNat_toNat, BitVec.setWidth_eq]) hwf

theorem xori (q : BitVec 4) (d : BitVec 5) (a : BitVec 5) (i : BitVec 9) : Statement (.xori q d a i) := by
  refine tile_of [(512, i.toNat), (32, a.toNat), (32, d.toNat), (8, 3), (16, q.toNat), (32, 1)] (f := (.xori q d a i)) rfl rfl rfl (k := 68681728 + q.toNat * 4194304 + d.toNat * 16384 + a.toNat * 512 + i.toNat) rfl
    ⟨i.isLt, a.isLt, d.isLt, by decide, q.isLt, by decide, trivial⟩ (fun e => by simp only [pack]; omega) ?_
  rintro w hwf ⟨g0, g1, g2, g3, g4, g5, -⟩
  rw [Nat.div_one] at g0
  rw [decode, g5, decode01.eq_def, g3]
  exact accept_ok rfl (by simp only [g0, g1, g2, g4, BitVec.ofNat_toNat, BitVec.setWidth_eq]) hwf

theorem shli (q : BitVec 4) (d : BitVec 5) (a : BitVec 5) (i : BitVec 6) : Statement (.shli q d a i) := by
  refine tile_of [(64, i.toNat), (8, 0), (32, a.toNat), (32, d.toNat), (8, 4), (16, q.toNat), (32, 1)] (f := (.shli q d a i)) rfl rfl rfl (k := 69206016 + q.toNat * 4194304 + d.toNat * 16384 + a.toNat * 512 + i.toNat) rfl
    ⟨i.isLt, by decide, a.isLt, d.isLt, by decide, q.isLt, by decide, trivial⟩ (fun e => by simp only [pack]; omega) ?_
  rintro w hwf ⟨g0, g1, g2, g3, g4, g5, g6, -⟩
  rw [Nat.div_one] at g0
  rw [decode, g6, decode01.eq_def, g4]
  exact accept_ok (by rw [g1]; rfl) (by simp only [g0, g2, g3, g5, BitVec.ofNat_toNat, BitVec.setWidth_eq]) hwf

theorem shri (q : BitVec 4) (d : BitVec 5) (a : BitVec 5) (i : BitVec 6) : Statement (.shri q d a i) := by
  refine tile_of [(64, i.toNat), (8, 0), (32, a.toNat), (32, d.toNat), (8, 5), (16, q.toNat), (32, 1)] (f := (.shri q d a i)) rfl rfl rfl (k := 69730304 + q.toNat * 4194304 + d.toNat * 16384 + a.toNat * 512 + i.toNat) rfl
    ⟨i.isLt, by decide, a.isLt, d.isLt, by decide, q.isLt, by decide, trivial⟩ (fun e => by simp only [pack]; omega) ?_
  rintro w hwf ⟨g0, g1, g2, g3, g4, g5, g6, -⟩
  rw [Nat.div_one] at g0
  rw [decode, g6, decode01.eq_def, g4]
  exact accept_ok (by rw [g1]; rfl) (by simp only [g0, g2, g3, g5, BitVec.ofNat_toNat, BitVec.setWidth_eq]) hwf

theorem sari (q : BitVec 4) (d : BitVec 5) (a : BitVec 5) (i : BitVec 6) : Statement (.sari q d a i) := by
  refine tile_of [(64, i.toNat), (8, 0), (32, a.toNat), (32, d.toNat), (8, 6), (16, q.toNat), (32, 1)] (f := (.sari q d a i)) rfl rfl rfl (k := 70254592 + q.toNat * 4194304 + d.toNat * 16384 + a.toNat * 512 + i.toNat) rfl
    ⟨i.isLt, by decide, a.isLt, d.isLt, by decide, q.isLt, by decide, trivial⟩ (fun e => by simp only [pack]; omega) ?_
  rintro w hwf ⟨g0, g1, g2, g3, g4, g5, g6, -⟩
  rw [Nat.div_one] at g0
  rw [decode, g6, decode01.eq_def, g4]
  exact accept_ok (by rw [g1]; rfl) (by simp only [g0, g2, g3, g5, BitVec.ofNat_toNat, BitVec.setWidth_eq]) hwf

theorem muli (q : BitVec 4) (d : BitVec 5) (a : BitVec 5) (i : BitVec 9) : Statement (.muli q d a i) := by
  refine tile_of [(512, i.toNat), (32, a.toNat), (32, d.toNat), (8, 7), (16, q.toNat), (32, 1)] (f := (.muli q d a i)) rfl rfl rfl (k := 70778880 + q.toNat * 4194304 + d.toNat * 16384 + a.toNat * 512 + i.toNat) rfl
    ⟨i.isLt, a.isLt, d.isLt, by decide, q.isLt, by decide, trivial⟩ (fun e => by simp only [pack]; omega) ?_
  rintro w hwf ⟨g0, g1, g2, g3, g4, g5, -⟩
  rw [Nat.div_one] at g0
  rw [decode, g5, decode01.eq_def, g3]
  exact accept_ok rfl (by simp only [g0, g1, g2, g4, BitVec.ofNat_toNat, BitVec.setWidth_eq]) hwf

theorem li (q : BitVec 4) (d : BitVec 5) (i : BitVec 15) : Statement (.li q d i) := by
  refine tile_of [(32768, i.toNat), (32, d.toNat), (4, 0), (16, q.toNat), (32, 2)] (f := (.li q d i)) rfl rfl rfl (k := 134217728 + q.toNat * 4194304 + d.toNat * 32768 + i.toNat) rfl
    ⟨i.isLt, d.isLt, by decide, q.isLt, by decide, trivial⟩ (fun e => by simp only [pack]; omega) ?_
  rintro w hwf ⟨g0, g1, g2, g3, g4, -⟩
  rw [Nat.div_one] at g0
  rw [decode, g4, decode02.eq_def, g2]
  exact accept_ok rfl (by simp only [g0, g1, g3, BitVec.ofNat_toNat, BitVec.setWidth_eq]) hwf

theorem lic (q : BitVec 4) (d : BitVec 5) (i : BitVec 15) : Statement (.lic q d i) := by
  refine tile_of [(32768, i.toNat), (32, d.toNat), (4, 1), (16, q.toNat), (32, 2)] (f := (.lic q d i)) rfl rfl rfl (k := 135266304 + q.toNat * 4194304 + d.toNat * 32768 + i.toNat) rfl
    ⟨i.isLt, d.isLt, by decide, q.isLt, by decide, trivial⟩ (fun e => by simp only [pack]; omega) ?_
  rintro w hwf ⟨g0, g1, g2, g3, g4, -⟩
  rw [Nat.div_one] at g0
  rw [decode, g4, decode02.eq_def, g2]
  exact accept_ok rfl (by simp only [g0, g1, g3, BitVec.ofNat_toNat, BitVec.setWidth_eq]) hwf

theorem cmpEq (q : BitVec 4) (c : BitVec 3) (k : BitVec 3) (a : BitVec 5) (b : BitVec 5) : Statement (.cmpEq q c k a b) := by
  refine tile_of [(32, b.toNat), (32, a.toNat), (16, 0), (4, 0), (8, k.toNat), (8, c.toNat), (16, q.toNat), (32, 3)] (f := (.cmpEq q c k a b)) rfl rfl rfl (k := 201326592 + q.toNat * 4194304 + c.toNat * 524288 + k.toNat * 65536 + a.toNat * 32 + b.toNat) rfl
    ⟨b.isLt, a.isLt, by decide, by decide, k.isLt, c.isLt, q.isLt, by decide, trivial⟩ (fun e => by simp only [pack]; omega) ?_
  rintro w hwf ⟨g0, g1, g2, g3, g4, g5, g6, g7, -⟩
  rw [Nat.div_one] at g0
  rw [decode, g7, decode03.eq_def, g2]
  exact accept_ok (by rw [g3]; rfl) (by simp only [g0, g1, g4, g5, g6, BitVec.ofNat_toNat, BitVec.setWidth_eq]) hwf

theorem cmpNe (q : BitVec 4) (c : BitVec 3) (k : BitVec 3) (a : BitVec 5) (b : BitVec 5) : Statement (.cmpNe q c k a b) := by
  refine tile_of [(32, b.toNat), (32, a.toNat), (16, 1), (4, 0), (8, k.toNat), (8, c.toNat), (16, q.toNat), (32, 3)] (f := (.cmpNe q c k a b)) rfl rfl rfl (k := 201327616 + q.toNat * 4194304 + c.toNat * 524288 + k.toNat * 65536 + a.toNat * 32 + b.toNat) rfl
    ⟨b.isLt, a.isLt, by decide, by decide, k.isLt, c.isLt, q.isLt, by decide, trivial⟩ (fun e => by simp only [pack]; omega) ?_
  rintro w hwf ⟨g0, g1, g2, g3, g4, g5, g6, g7, -⟩
  rw [Nat.div_one] at g0
  rw [decode, g7, decode03.eq_def, g2]
  exact accept_ok (by rw [g3]; rfl) (by simp only [g0, g1, g4, g5, g6, BitVec.ofNat_toNat, BitVec.setWidth_eq]) hwf

theorem cmpLt (q : BitVec 4) (c : BitVec 3) (k : BitVec 3) (a : BitVec 5) (b : BitVec 5) : Statement (.cmpLt q c k a b) := by
  refine tile_of [(32, b.toNat), (32, a.toNat), (16, 2), (4, 0), (8, k.toNat), (8, c.toNat), (16, q.toNat), (32, 3)] (f := (.cmpLt q c k a b)) rfl rfl rfl (k := 201328640 + q.toNat * 4194304 + c.toNat * 524288 + k.toNat * 65536 + a.toNat * 32 + b.toNat) rfl
    ⟨b.isLt, a.isLt, by decide, by decide, k.isLt, c.isLt, q.isLt, by decide, trivial⟩ (fun e => by simp only [pack]; omega) ?_
  rintro w hwf ⟨g0, g1, g2, g3, g4, g5, g6, g7, -⟩
  rw [Nat.div_one] at g0
  rw [decode, g7, decode03.eq_def, g2]
  exact accept_ok (by rw [g3]; rfl) (by simp only [g0, g1, g4, g5, g6, BitVec.ofNat_toNat, BitVec.setWidth_eq]) hwf

theorem cmpGe (q : BitVec 4) (c : BitVec 3) (k : BitVec 3) (a : BitVec 5) (b : BitVec 5) : Statement (.cmpGe q c k a b) := by
  refine tile_of [(32, b.toNat), (32, a.toNat), (16, 3), (4, 0), (8, k.toNat), (8, c.toNat), (16, q.toNat), (32, 3)] (f := (.cmpGe q c k a b)) rfl rfl rfl (k := 201329664 + q.toNat * 4194304 + c.toNat * 524288 + k.toNat * 65536 + a.toNat * 32 + b.toNat) rfl
    ⟨b.isLt, a.isLt, by decide, by decide, k.isLt, c.isLt, q.isLt, by decide, trivial⟩ (fun e => by simp only [pack]; omega) ?_
  rintro w hwf ⟨g0, g1, g2, g3, g4, g5, g6, g7, -⟩
  rw [Nat.div_one] at g0
  rw [decode, g7, decode03.eq_def, g2]
  exact accept_ok (by rw [g3]; rfl) (by simp only [g0, g1, g4, g5, g6, BitVec.ofNat_toNat, BitVec.setWidth_eq]) hwf

theorem cmpLtn (q : BitVec 4) (c : BitVec 3) (k : BitVec 3) (a : BitVec 5) (b : BitVec 5) : Statement (.cmpLtn q c k a b) := by
  refine tile_of [(32, b.toNat), (32, a.toNat), (16, 4), (4, 0), (8, k.toNat), (8, c.toNat), (16, q.toNat), (32, 3)] (f := (.cmpLtn q c k a b)) rfl rfl rfl (k := 201330688 + q.toNat * 4194304 + c.toNat * 524288 + k.toNat * 65536 + a.toNat * 32 + b.toNat) rfl
    ⟨b.isLt, a.isLt, by decide, by decide, k.isLt, c.isLt, q.isLt, by decide, trivial⟩ (fun e => by simp only [pack]; omega) ?_
  rintro w hwf ⟨g0, g1, g2, g3, g4, g5, g6, g7, -⟩
  rw [Nat.div_one] at g0
  rw [decode, g7, decode03.eq_def, g2]
  exact accept_ok (by rw [g3]; rfl) (by simp only [g0, g1, g4, g5, g6, BitVec.ofNat_toNat, BitVec.setWidth_eq]) hwf

theorem cmpGen (q : BitVec 4) (c : BitVec 3) (k : BitVec 3) (a : BitVec 5) (b : BitVec 5) : Statement (.cmpGen q c k a b) := by
  refine tile_of [(32, b.toNat), (32, a.toNat), (16, 5), (4, 0), (8, k.toNat), (8, c.toNat), (16, q.toNat), (32, 3)] (f := (.cmpGen q c k a b)) rfl rfl rfl (k := 201331712 + q.toNat * 4194304 + c.toNat * 524288 + k.toNat * 65536 + a.toNat * 32 + b.toNat) rfl
    ⟨b.isLt, a.isLt, by decide, by decide, k.isLt, c.isLt, q.isLt, by decide, trivial⟩ (fun e => by simp only [pack]; omega) ?_
  rintro w hwf ⟨g0, g1, g2, g3, g4, g5, g6, g7, -⟩
  rw [Nat.div_one] at g0
  rw [decode, g7, decode03.eq_def, g2]
  exact accept_ok (by rw [g3]; rfl) (by simp only [g0, g1, g4, g5, g6, BitVec.ofNat_toNat, BitVec.setWidth_eq]) hwf

theorem cmpTand (q : BitVec 4) (c : BitVec 3) (k : BitVec 3) (a : BitVec 5) (b : BitVec 5) : Statement (.cmpTand q c k a b) := by
  refine tile_of [(32, b.toNat), (32, a.toNat), (16, 6), (4, 0), (8, k.toNat), (8, c.toNat), (16, q.toNat), (32, 3)] (f := (.cmpTand q c k a b)) rfl rfl rfl (k := 201332736 + q.toNat * 4194304 + c.toNat * 524288 + k.toNat * 65536 + a.toNat * 32 + b.toNat) rfl
    ⟨b.isLt, a.isLt, by decide, by decide, k.isLt, c.isLt, q.isLt, by decide, trivial⟩ (fun e => by simp only [pack]; omega) ?_
  rintro w hwf ⟨g0, g1, g2, g3, g4, g5, g6, g7, -⟩
  rw [Nat.div_one] at g0
  rw [decode, g7, decode03.eq_def, g2]
  exact accept_ok (by rw [g3]; rfl) (by simp only [g0, g1, g4, g5, g6, BitVec.ofNat_toNat, BitVec.setWidth_eq]) hwf

theorem cmpTnand (q : BitVec 4) (c : BitVec 3) (k : BitVec 3) (a : BitVec 5) (b : BitVec 5) : Statement (.cmpTnand q c k a b) := by
  refine tile_of [(32, b.toNat), (32, a.toNat), (16, 7), (4, 0), (8, k.toNat), (8, c.toNat), (16, q.toNat), (32, 3)] (f := (.cmpTnand q c k a b)) rfl rfl rfl (k := 201333760 + q.toNat * 4194304 + c.toNat * 524288 + k.toNat * 65536 + a.toNat * 32 + b.toNat) rfl
    ⟨b.isLt, a.isLt, by decide, by decide, k.isLt, c.isLt, q.isLt, by decide, trivial⟩ (fun e => by simp only [pack]; omega) ?_
  rintro w hwf ⟨g0, g1, g2, g3, g4, g5, g6, g7, -⟩
  rw [Nat.div_one] at g0
  rw [decode, g7, decode03.eq_def, g2]
  exact accept_ok (by rw [g3]; rfl) (by simp only [g0, g1, g4, g5, g6, BitVec.ofNat_toNat, BitVec.setWidth_eq]) hwf

theorem cmpiEq (q : BitVec 4) (c : BitVec 3) (k : BitVec 3) (a : BitVec 5) (i : BitVec 8) : Statement (.cmpiEq q c k a i) := by
  refine tile_of [(256, i.toNat), (32, a.toNat), (8, 0), (8, k.toNat), (8, c.toNat), (16, q.toNat), (32, 4)] (f := (.cmpiEq q c k a i)) rfl rfl rfl (k := 268435456 + q.toNat * 4194304 + c.toNat * 524288 + k.toNat * 65536 + a.toNat * 256 + i.toNat) rfl
    ⟨i.isLt, a.isLt, by decide, k.isLt, c.isLt, q.isLt, by decide, trivial⟩ (fun e => by simp only [pack]; omega) ?_
  rintro w hwf ⟨g0, g1, g2, g3, g4, g5, g6, -⟩
  rw [Nat.div_one] at g0
  rw [decode, g6, decode04.eq_def, g2]
  exact accept_ok rfl (by simp only [g0, g1, g3, g4, g5, BitVec.ofNat_toNat, BitVec.setWidth_eq]) hwf

theorem cmpiNe (q : BitVec 4) (c : BitVec 3) (k : BitVec 3) (a : BitVec 5) (i : BitVec 8) : Statement (.cmpiNe q c k a i) := by
  refine tile_of [(256, i.toNat), (32, a.toNat), (8, 1), (8, k.toNat), (8, c.toNat), (16, q.toNat), (32, 4)] (f := (.cmpiNe q c k a i)) rfl rfl rfl (k := 268443648 + q.toNat * 4194304 + c.toNat * 524288 + k.toNat * 65536 + a.toNat * 256 + i.toNat) rfl
    ⟨i.isLt, a.isLt, by decide, k.isLt, c.isLt, q.isLt, by decide, trivial⟩ (fun e => by simp only [pack]; omega) ?_
  rintro w hwf ⟨g0, g1, g2, g3, g4, g5, g6, -⟩
  rw [Nat.div_one] at g0
  rw [decode, g6, decode04.eq_def, g2]
  exact accept_ok rfl (by simp only [g0, g1, g3, g4, g5, BitVec.ofNat_toNat, BitVec.setWidth_eq]) hwf

theorem cmpiLt (q : BitVec 4) (c : BitVec 3) (k : BitVec 3) (a : BitVec 5) (i : BitVec 8) : Statement (.cmpiLt q c k a i) := by
  refine tile_of [(256, i.toNat), (32, a.toNat), (8, 2), (8, k.toNat), (8, c.toNat), (16, q.toNat), (32, 4)] (f := (.cmpiLt q c k a i)) rfl rfl rfl (k := 268451840 + q.toNat * 4194304 + c.toNat * 524288 + k.toNat * 65536 + a.toNat * 256 + i.toNat) rfl
    ⟨i.isLt, a.isLt, by decide, k.isLt, c.isLt, q.isLt, by decide, trivial⟩ (fun e => by simp only [pack]; omega) ?_
  rintro w hwf ⟨g0, g1, g2, g3, g4, g5, g6, -⟩
  rw [Nat.div_one] at g0
  rw [decode, g6, decode04.eq_def, g2]
  exact accept_ok rfl (by simp only [g0, g1, g3, g4, g5, BitVec.ofNat_toNat, BitVec.setWidth_eq]) hwf

theorem cmpiGe (q : BitVec 4) (c : BitVec 3) (k : BitVec 3) (a : BitVec 5) (i : BitVec 8) : Statement (.cmpiGe q c k a i) := by
  refine tile_of [(256, i.toNat), (32, a.toNat), (8, 3), (8, k.toNat), (8, c.toNat), (16, q.toNat), (32, 4)] (f := (.cmpiGe q c k a i)) rfl rfl rfl (k := 268460032 + q.toNat * 4194304 + c.toNat * 524288 + k.toNat * 65536 + a.toNat * 256 + i.toNat) rfl
    ⟨i.isLt, a.isLt, by decide, k.isLt, c.isLt, q.isLt, by decide, trivial⟩ (fun e => by simp only [pack]; omega) ?_
  rintro w hwf ⟨g0, g1, g2, g3, g4, g5, g6, -⟩
  rw [Nat.div_one] at g0
  rw [decode, g6, decode04.eq_def, g2]
  exact accept_ok rfl (by simp only [g0, g1, g3, g4, g5, BitVec.ofNat_toNat, BitVec.setWidth_eq]) hwf

theorem cmpiLtn (q : BitVec 4) (c : BitVec 3) (k : BitVec 3) (a : BitVec 5) (i : BitVec 8) : Statement (.cmpiLtn q c k a i) := by
  refine tile_of [(256, i.toNat), (32, a.toNat), (8, 4), (8, k.toNat), (8, c.toNat), (16, q.toNat), (32, 4)] (f := (.cmpiLtn q c k a i)) rfl rfl rfl (k := 268468224 + q.toNat * 4194304 + c.toNat * 524288 + k.toNat * 65536 + a.toNat * 256 + i.toNat) rfl
    ⟨i.isLt, a.isLt, by decide, k.isLt, c.isLt, q.isLt, by decide, trivial⟩ (fun e => by simp only [pack]; omega) ?_
  rintro w hwf ⟨g0, g1, g2, g3, g4, g5, g6, -⟩
  rw [Nat.div_one] at g0
  rw [decode, g6, decode04.eq_def, g2]
  exact accept_ok rfl (by simp only [g0, g1, g3, g4, g5, BitVec.ofNat_toNat, BitVec.setWidth_eq]) hwf

theorem cmpiGen (q : BitVec 4) (c : BitVec 3) (k : BitVec 3) (a : BitVec 5) (i : BitVec 8) : Statement (.cmpiGen q c k a i) := by
  refine tile_of [(256, i.toNat), (32, a.toNat), (8, 5), (8, k.toNat), (8, c.toNat), (16, q.toNat), (32, 4)] (f := (.cmpiGen q c k a i)) rfl rfl rfl (k := 268476416 + q.toNat * 4194304 + c.toNat * 524288 + k.toNat * 65536 + a.toNat * 256 + i.toNat) rfl
    ⟨i.isLt, a.isLt, by decide, k.isLt, c.isLt, q.isLt, by decide, trivial⟩ (fun e => by simp only [pack]; omega) ?_
  rintro w hwf ⟨g0, g1, g2, g3, g4, g5, g6, -⟩
  rw [Nat.div_one] at g0
  rw [decode, g6, decode04.eq_def, g2]
  exact accept_ok rfl (by simp only [g0, g1, g3, g4, g5, BitVec.ofNat_toNat, BitVec.setWidth_eq]) hwf

theorem cmpiTbit (q : BitVec 4) (c : BitVec 3) (k : BitVec 3) (a : BitVec 5) (i : BitVec 6) : Statement (.cmpiTbit q c k a i) := by
  refine tile_of [(64, i.toNat), (4, 0), (32, a.toNat), (8, 6), (8, k.toNat), (8, c.toNat), (16, q.toNat), (32, 4)] (f := (.cmpiTbit q c k a i)) rfl rfl rfl (k := 268484608 + q.toNat * 4194304 + c.toNat * 524288 + k.toNat * 65536 + a.toNat * 256 + i.toNat) rfl
    ⟨i.isLt, by decide, a.isLt, by decide, k.isLt, c.isLt, q.isLt, by decide, trivial⟩ (fun e => by simp only [pack]; omega) ?_
  rintro w hwf ⟨g0, g1, g2, g3, g4, g5, g6, g7, -⟩
  rw [Nat.div_one] at g0
  rw [decode, g7, decode04.eq_def, g3]
  exact accept_ok (by rw [g1]; rfl) (by simp only [g0, g2, g4, g5, g6, BitVec.ofNat_toNat, BitVec.setWidth_eq]) hwf

theorem cmpiTnbit (q : BitVec 4) (c : BitVec 3) (k : BitVec 3) (a : BitVec 5) (i : BitVec 6) : Statement (.cmpiTnbit q c k a i) := by
  refine tile_of [(64, i.toNat), (4, 0), (32, a.toNat), (8, 7), (8, k.toNat), (8, c.toNat), (16, q.toNat), (32, 4)] (f := (.cmpiTnbit q c k a i)) rfl rfl rfl (k := 268492800 + q.toNat * 4194304 + c.toNat * 524288 + k.toNat * 65536 + a.toNat * 256 + i.toNat) rfl
    ⟨i.isLt, by decide, a.isLt, by decide, k.isLt, c.isLt, q.isLt, by decide, trivial⟩ (fun e => by simp only [pack]; omega) ?_
  rintro w hwf ⟨g0, g1, g2, g3, g4, g5, g6, g7, -⟩
  rw [Nat.div_one] at g0
  rw [decode, g7, decode04.eq_def, g3]
  exact accept_ok (by rw [g1]; rfl) (by simp only [g0, g2, g4, g5, g6, BitVec.ofNat_toNat, BitVec.setWidth_eq]) hwf

theorem aadd (q : BitVec 4) (d : BitVec 4) (a : BitVec 4) (b : BitVec 5) : Statement (.aadd q d a b) := by
  refine tile_of [(32, 0), (32, b.toNat), (16, a.toNat), (16, d.toNat), (16, 0), (16, q.toNat), (32, 5)] (f := (.aadd q d a b)) rfl rfl rfl (k := 335544320 + q.toNat * 4194304 + d.toNat * 16384 + a.toNat * 1024 + b.toNat * 32) rfl
    ⟨by decide, b.isLt, a.isLt, d.isLt, by decide, q.isLt, by decide, trivial⟩ (fun e => by simp only [pack]; omega) ?_
  rintro w hwf ⟨g0, g1, g2, g3, g4, g5, g6, -⟩
  rw [Nat.div_one] at g0
  rw [decode, g6, decode05.eq_def, g4]
  exact accept_ok (by rw [g0]; rfl) (by simp only [g1, g2, g3, g5, BitVec.ofNat_toNat, BitVec.setWidth_eq]) hwf

theorem aaddi (q : BitVec 4) (d : BitVec 4) (a : BitVec 4) (i : BitVec 10) : Statement (.aaddi q d a i) := by
  refine tile_of [(1024, i.toNat), (16, a.toNat), (16, d.toNat), (16, 1), (16, q.toNat), (32, 5)] (f := (.aaddi q d a i)) rfl rfl rfl (k := 335806464 + q.toNat * 4194304 + d.toNat * 16384 + a.toNat * 1024 + i.toNat) rfl
    ⟨i.isLt, a.isLt, d.isLt, by decide, q.isLt, by decide, trivial⟩ (fun e => by simp only [pack]; omega) ?_
  rintro w hwf ⟨g0, g1, g2, g3, g4, g5, -⟩
  rw [Nat.div_one] at g0
  rw [decode, g5, decode05.eq_def, g3]
  exact accept_ok rfl (by simp only [g0, g1, g2, g4, BitVec.ofNat_toNat, BitVec.setWidth_eq]) hwf

theorem asub (q : BitVec 4) (d : BitVec 5) (a : BitVec 4) (b : BitVec 4) : Statement (.asub q d a b) := by
  refine tile_of [(32, 0), (16, b.toNat), (16, a.toNat), (32, d.toNat), (16, 2), (16, q.toNat), (32, 5)] (f := (.asub q d a b)) rfl rfl rfl (k := 336068608 + q.toNat * 4194304 + d.toNat * 8192 + a.toNat * 512 + b.toNat * 32) rfl
    ⟨by decide, b.isLt, a.isLt, d.isLt, by decide, q.isLt, by decide, trivial⟩ (fun e => by simp only [pack]; omega) ?_
  rintro w hwf ⟨g0, g1, g2, g3, g4, g5, g6, -⟩
  rw [Nat.div_one] at g0
  rw [decode, g6, decode05.eq_def, g4]
  exact accept_ok (by rw [g0]; rfl) (by simp only [g1, g2, g3, g5, BitVec.ofNat_toNat, BitVec.setWidth_eq]) hwf

theorem aset (q : BitVec 4) (d : BitVec 4) (b : BitVec 5) : Statement (.aset q d b) := by
  refine tile_of [(512, 0), (32, b.toNat), (16, d.toNat), (16, 3), (16, q.toNat), (32, 5)] (f := (.aset q d b)) rfl rfl rfl (k := 336330752 + q.toNat * 4194304 + d.toNat * 16384 + b.toNat * 512) rfl
    ⟨by decide, b.isLt, d.isLt, by decide, q.isLt, by decide, trivial⟩ (fun e => by simp only [pack]; omega) ?_
  rintro w hwf ⟨g0, g1, g2, g3, g4, g5, -⟩
  rw [Nat.div_one] at g0
  rw [decode, g5, decode05.eq_def, g3]
  exact accept_ok (by rw [g0]; rfl) (by simp only [g1, g2, g4, BitVec.ofNat_toNat, BitVec.setWidth_eq]) hwf

theorem ahi (q : BitVec 4) (d : BitVec 4) (i : BitVec 8) : Statement (.ahi q d i) := by
  refine tile_of [(64, 0), (256, i.toNat), (16, d.toNat), (16, 4), (16, q.toNat), (32, 5)] (f := (.ahi q d i)) rfl rfl rfl (k := 336592896 + q.toNat * 4194304 + d.toNat * 16384 + i.toNat * 64) rfl
    ⟨by decide, i.isLt, d.isLt, by decide, q.isLt, by decide, trivial⟩ (fun e => by simp only [pack]; omega) ?_
  rintro w hwf ⟨g0, g1, g2, g3, g4, g5, -⟩
  rw [Nat.div_one] at g0
  rw [decode, g5, decode05.eq_def, g3]
  exact accept_ok (by rw [g0]; rfl) (by simp only [g1, g2, g4, BitVec.ofNat_toNat, BitVec.setWidth_eq]) hwf

theorem aalign (q : BitVec 4) (d : BitVec 4) (a : BitVec 4) (n : BitVec 6) : Statement (.aalign q d a n) := by
  refine tile_of [(16, 0), (64, n.toNat), (16, a.toNat), (16, d.toNat), (16, 5), (16, q.toNat), (32, 5)] (f := (.aalign q d a n)) rfl rfl rfl (k := 336855040 + q.toNat * 4194304 + d.toNat * 16384 + a.toNat * 1024 + n.toNat * 16) rfl
    ⟨by decide, n.isLt, a.isLt, d.isLt, by decide, q.isLt, by decide, trivial⟩ (fun e => by simp only [pack]; omega) ?_
  rintro w hwf ⟨g0, g1, g2, g3, g4, g5, g6, -⟩
  rw [Nat.div_one] at g0
  rw [decode, g6, decode05.eq_def, g4]
  exact accept_ok (by rw [g0]; rfl) (by simp only [g1, g2, g3, g5, BitVec.ofNat_toNat, BitVec.setWidth_eq]) hwf

theorem aget (q : BitVec 4) (d : BitVec 5) (a : BitVec 4) (h : BitVec 1) : Statement (.aget q d a h) := by
  refine tile_of [(256, 0), (2, h.toNat), (16, a.toNat), (32, d.toNat), (16, 6), (16, q.toNat), (32, 5)] (f := (.aget q d a h)) rfl rfl rfl (k := 337117184 + q.toNat * 4194304 + d.toNat * 8192 + a.toNat * 512 + h.toNat * 256) rfl
    ⟨by decide, h.isLt, a.isLt, d.isLt, by decide, q.isLt, by decide, trivial⟩ (fun e => by simp only [pack]; omega) ?_
  rintro w hwf ⟨g0, g1, g2, g3, g4, g5, g6, -⟩
  rw [Nat.div_one] at g0
  rw [decode, g6, decode05.eq_def, g4]
  exact accept_ok (by rw [g0]; rfl) (by simp only [g1, g2, g3, g5, BitVec.ofNat_toNat, BitVec.setWidth_eq]) hwf

theorem ldI8 (q : BitVec 4) (d : BitVec 5) (a : BitVec 4) (l : BitVec 5) (i : BitVec 5) : Statement (.ldI8 q d a l i) := by
  refine tile_of [(32, i.toNat), (32, l.toNat), (16, a.toNat), (32, d.toNat), (8, 0), (16, q.toNat), (32, 6)] (f := (.ldI8 q d a l i)) rfl rfl rfl (k := 402653184 + q.toNat * 4194304 + d.toNat * 16384 + a.toNat * 1024 + l.toNat * 32 + i.toNat) rfl
    ⟨i.isLt, l.isLt, a.isLt, d.isLt, by decide, q.isLt, by decide, trivial⟩ (fun e => by simp only [pack]; omega) ?_
  rintro w hwf ⟨g0, g1, g2, g3, g4, g5, g6, -⟩
  rw [Nat.div_one] at g0
  rw [decode, g6, decode06.eq_def, g4]
  exact accept_ok rfl (by simp only [g0, g1, g2, g3, g5, BitVec.ofNat_toNat, BitVec.setWidth_eq]) hwf

theorem ldI16 (q : BitVec 4) (d : BitVec 5) (a : BitVec 4) (l : BitVec 5) (i : BitVec 5) : Statement (.ldI16 q d a l i) := by
  refine tile_of [(32, i.toNat), (32, l.toNat), (16, a.toNat), (32, d.toNat), (8, 1), (16, q.toNat), (32, 6)] (f := (.ldI16 q d a l i)) rfl rfl rfl (k := 403177472 + q.toNat * 4194304 + d.toNat * 16384 + a.toNat * 1024 + l.toNat * 32 + i.toNat) rfl
    ⟨i.isLt, l.isLt, a.isLt, d.isLt, by decide, q.isLt, by decide, trivial⟩ (fun e => by simp only [pack]; omega) ?_
  rintro w hwf ⟨g0, g1, g2, g3, g4, g5, g6, -⟩
  rw [Nat.div_one] at g0
  rw [decode, g6, decode06.eq_def, g4]
  exact accept_ok rfl (by simp only [g0, g1, g2, g3, g5, BitVec.ofNat_toNat, BitVec.setWidth_eq]) hwf

theorem ldI32 (q : BitVec 4) (d : BitVec 5) (a : BitVec 4) (l : BitVec 5) (i : BitVec 5) : Statement (.ldI32 q d a l i) := by
  refine tile_of [(32, i.toNat), (32, l.toNat), (16, a.toNat), (32, d.toNat), (8, 2), (16, q.toNat), (32, 6)] (f := (.ldI32 q d a l i)) rfl rfl rfl (k := 403701760 + q.toNat * 4194304 + d.toNat * 16384 + a.toNat * 1024 + l.toNat * 32 + i.toNat) rfl
    ⟨i.isLt, l.isLt, a.isLt, d.isLt, by decide, q.isLt, by decide, trivial⟩ (fun e => by simp only [pack]; omega) ?_
  rintro w hwf ⟨g0, g1, g2, g3, g4, g5, g6, -⟩
  rw [Nat.div_one] at g0
  rw [decode, g6, decode06.eq_def, g4]
  exact accept_ok rfl (by simp only [g0, g1, g2, g3, g5, BitVec.ofNat_toNat, BitVec.setWidth_eq]) hwf

theorem ldD (q : BitVec 4) (d : BitVec 5) (a : BitVec 4) (l : BitVec 5) (i : BitVec 5) : Statement (.ldD q d a l i) := by
  refine tile_of [(32, i.toNat), (32, l.toNat), (16, a.toNat), (32, d.toNat), (8, 3), (16, q.toNat), (32, 6)] (f := (.ldD q d a l i)) rfl rfl rfl (k := 404226048 + q.toNat * 4194304 + d.toNat * 16384 + a.toNat * 1024 + l.toNat * 32 + i.toNat) rfl
    ⟨i.isLt, l.isLt, a.isLt, d.isLt, by decide, q.isLt, by decide, trivial⟩ (fun e => by simp only [pack]; omega) ?_
  rintro w hwf ⟨g0, g1, g2, g3, g4, g5, g6, -⟩
  rw [Nat.div_one] at g0
  rw [decode, g6, decode06.eq_def, g4]
  exact accept_ok rfl (by simp only [g0, g1, g2, g3, g5, BitVec.ofNat_toNat, BitVec.setWidth_eq]) hwf

theorem ldN8 (q : BitVec 4) (d : BitVec 5) (a : BitVec 4) (l : BitVec 5) (i : BitVec 5) : Statement (.ldN8 q d a l i) := by
  refine tile_of [(32, i.toNat), (32, l.toNat), (16, a.toNat), (32, d.toNat), (8, 4), (16, q.toNat), (32, 6)] (f := (.ldN8 q d a l i)) rfl rfl rfl (k := 404750336 + q.toNat * 4194304 + d.toNat * 16384 + a.toNat * 1024 + l.toNat * 32 + i.toNat) rfl
    ⟨i.isLt, l.isLt, a.isLt, d.isLt, by decide, q.isLt, by decide, trivial⟩ (fun e => by simp only [pack]; omega) ?_
  rintro w hwf ⟨g0, g1, g2, g3, g4, g5, g6, -⟩
  rw [Nat.div_one] at g0
  rw [decode, g6, decode06.eq_def, g4]
  exact accept_ok rfl (by simp only [g0, g1, g2, g3, g5, BitVec.ofNat_toNat, BitVec.setWidth_eq]) hwf

theorem ldN16 (q : BitVec 4) (d : BitVec 5) (a : BitVec 4) (l : BitVec 5) (i : BitVec 5) : Statement (.ldN16 q d a l i) := by
  refine tile_of [(32, i.toNat), (32, l.toNat), (16, a.toNat), (32, d.toNat), (8, 5), (16, q.toNat), (32, 6)] (f := (.ldN16 q d a l i)) rfl rfl rfl (k := 405274624 + q.toNat * 4194304 + d.toNat * 16384 + a.toNat * 1024 + l.toNat * 32 + i.toNat) rfl
    ⟨i.isLt, l.isLt, a.isLt, d.isLt, by decide, q.isLt, by decide, trivial⟩ (fun e => by simp only [pack]; omega) ?_
  rintro w hwf ⟨g0, g1, g2, g3, g4, g5, g6, -⟩
  rw [Nat.div_one] at g0
  rw [decode, g6, decode06.eq_def, g4]
  exact accept_ok rfl (by simp only [g0, g1, g2, g3, g5, BitVec.ofNat_toNat, BitVec.setWidth_eq]) hwf

theorem ldN32 (q : BitVec 4) (d : BitVec 5) (a : BitVec 4) (l : BitVec 5) (i : BitVec 5) : Statement (.ldN32 q d a l i) := by
  refine tile_of [(32, i.toNat), (32, l.toNat), (16, a.toNat), (32, d.toNat), (8, 6), (16, q.toNat), (32, 6)] (f := (.ldN32 q d a l i)) rfl rfl rfl (k := 405798912 + q.toNat * 4194304 + d.toNat * 16384 + a.toNat * 1024 + l.toNat * 32 + i.toNat) rfl
    ⟨i.isLt, l.isLt, a.isLt, d.isLt, by decide, q.isLt, by decide, trivial⟩ (fun e => by simp only [pack]; omega) ?_
  rintro w hwf ⟨g0, g1, g2, g3, g4, g5, g6, -⟩
  rw [Nat.div_one] at g0
  rw [decode, g6, decode06.eq_def, g4]
  exact accept_ok rfl (by simp only [g0, g1, g2, g3, g5, BitVec.ofNat_toNat, BitVec.setWidth_eq]) hwf

theorem stB (q : BitVec 4) (v : BitVec 5) (a : BitVec 4) (i : BitVec 10) : Statement (.stB q v a i) := by
  refine tile_of [(1024, i.toNat), (16, a.toNat), (32, v.toNat), (8, 0), (16, q.toNat), (32, 7)] (f := (.stB q v a i)) rfl rfl rfl (k := 469762048 + q.toNat * 4194304 + v.toNat * 16384 + a.toNat * 1024 + i.toNat) rfl
    ⟨i.isLt, a.isLt, v.isLt, by decide, q.isLt, by decide, trivial⟩ (fun e => by simp only [pack]; omega) ?_
  rintro w hwf ⟨g0, g1, g2, g3, g4, g5, -⟩
  rw [Nat.div_one] at g0
  rw [decode, g5, decode07.eq_def, g3]
  exact accept_ok rfl (by simp only [g0, g1, g2, g4, BitVec.ofNat_toNat, BitVec.setWidth_eq]) hwf

theorem stH (q : BitVec 4) (v : BitVec 5) (a : BitVec 4) (i : BitVec 10) : Statement (.stH q v a i) := by
  refine tile_of [(1024, i.toNat), (16, a.toNat), (32, v.toNat), (8, 1), (16, q.toNat), (32, 7)] (f := (.stH q v a i)) rfl rfl rfl (k := 470286336 + q.toNat * 4194304 + v.toNat * 16384 + a.toNat * 1024 + i.toNat) rfl
    ⟨i.isLt, a.isLt, v.isLt, by decide, q.isLt, by decide, trivial⟩ (fun e => by simp only [pack]; omega) ?_
  rintro w hwf ⟨g0, g1, g2, g3, g4, g5, -⟩
  rw [Nat.div_one] at g0
  rw [decode, g5, decode07.eq_def, g3]
  exact accept_ok rfl (by simp only [g0, g1, g2, g4, BitVec.ofNat_toNat, BitVec.setWidth_eq]) hwf

theorem stW (q : BitVec 4) (v : BitVec 5) (a : BitVec 4) (i : BitVec 10) : Statement (.stW q v a i) := by
  refine tile_of [(1024, i.toNat), (16, a.toNat), (32, v.toNat), (8, 2), (16, q.toNat), (32, 7)] (f := (.stW q v a i)) rfl rfl rfl (k := 470810624 + q.toNat * 4194304 + v.toNat * 16384 + a.toNat * 1024 + i.toNat) rfl
    ⟨i.isLt, a.isLt, v.isLt, by decide, q.isLt, by decide, trivial⟩ (fun e => by simp only [pack]; omega) ?_
  rintro w hwf ⟨g0, g1, g2, g3, g4, g5, -⟩
  rw [Nat.div_one] at g0
  rw [decode, g5, decode07.eq_def, g3]
  exact accept_ok rfl (by simp only [g0, g1, g2, g4, BitVec.ofNat_toNat, BitVec.setWidth_eq]) hwf

theorem stD (q : BitVec 4) (v : BitVec 5) (a : BitVec 4) (i : BitVec 10) : Statement (.stD q v a i) := by
  refine tile_of [(1024, i.toNat), (16, a.toNat), (32, v.toNat), (8, 3), (16, q.toNat), (32, 7)] (f := (.stD q v a i)) rfl rfl rfl (k := 471334912 + q.toNat * 4194304 + v.toNat * 16384 + a.toNat * 1024 + i.toNat) rfl
    ⟨i.isLt, a.isLt, v.isLt, by decide, q.isLt, by decide, trivial⟩ (fun e => by simp only [pack]; omega) ?_
  rintro w hwf ⟨g0, g1, g2, g3, g4, g5, -⟩
  rw [Nat.div_one] at g0
  rw [decode, g5, decode07.eq_def, g3]
  exact accept_ok rfl (by simp only [g0, g1, g2, g4, BitVec.ofNat_toNat, BitVec.setWidth_eq]) hwf

theorem ldt (q : BitVec 4) (d : BitVec 5) (a : BitVec 4) (f : BitVec 4) (h : BitVec 1) (l : BitVec 5) : Statement (.ldt q d a f h l) := by
  refine tile_of [(32, l.toNat), (2, h.toNat), (16, f.toNat), (16, a.toNat), (32, d.toNat), (8, 0), (16, q.toNat), (32, 8)] (f := (.ldt q d a f h l)) rfl rfl rfl (k := 536870912 + q.toNat * 4194304 + d.toNat * 16384 + a.toNat * 1024 + f.toNat * 64 + h.toNat * 32 + l.toNat) rfl
    ⟨l.isLt, h.isLt, f.isLt, a.isLt, d.isLt, by decide, q.isLt, by decide, trivial⟩ (fun e => by simp only [pack]; omega) ?_
  rintro w hwf ⟨g0, g1, g2, g3, g4, g5, g6, g7, -⟩
  rw [Nat.div_one] at g0
  rw [decode, g7, decode08.eq_def, g5]
  exact accept_ok rfl (by simp only [g0, g1, g2, g3, g4, g6, BitVec.ofNat_toNat, BitVec.setWidth_eq]) hwf

theorem stt (q : BitVec 4) (v : BitVec 5) (a : BitVec 4) (f : BitVec 4) (h : BitVec 1) (r : BitVec 3) : Statement (.stt q v a f h r) := by
  refine tile_of [(4, 0), (8, r.toNat), (2, h.toNat), (16, f.toNat), (16, a.toNat), (32, v.toNat), (8, 1), (16, q.toNat), (32, 8)] (f := (.stt q v a f h r)) rfl rfl rfl (k := 537395200 + q.toNat * 4194304 + v.toNat * 16384 + a.toNat * 1024 + f.toNat * 64 + h.toNat * 32 + r.toNat * 4) rfl
    ⟨by decide, r.isLt, h.isLt, f.isLt, a.isLt, v.isLt, by decide, q.isLt, by decide, trivial⟩ (fun e => by simp only [pack]; omega) ?_
  rintro w hwf ⟨g0, g1, g2, g3, g4, g5, g6, g7, g8, -⟩
  rw [Nat.div_one] at g0
  rw [decode, g8, decode08.eq_def, g6]
  exact accept_ok (by rw [g0]; rfl) (by simp only [g1, g2, g3, g4, g5, g7, BitVec.ofNat_toNat, BitVec.setWidth_eq]) hwf

theorem vldt (q : BitVec 4) (d : BitVec 5) (a : BitVec 4) (f : BitVec 4) (l : BitVec 5) : Statement (.vldt q d a f l) := by
  refine tile_of [(32, l.toNat), (2, 0), (16, f.toNat), (16, a.toNat), (32, d.toNat), (8, 2), (16, q.toNat), (32, 8)] (f := (.vldt q d a f l)) rfl rfl rfl (k := 537919488 + q.toNat * 4194304 + d.toNat * 16384 + a.toNat * 1024 + f.toNat * 64 + l.toNat) rfl
    ⟨l.isLt, by decide, f.isLt, a.isLt, d.isLt, by decide, q.isLt, by decide, trivial⟩ (fun e => by simp only [pack]; omega) ?_
  rintro w hwf ⟨g0, g1, g2, g3, g4, g5, g6, g7, -⟩
  rw [Nat.div_one] at g0
  rw [decode, g7, decode08.eq_def, g5]
  exact accept_ok (by rw [g1]; rfl) (by simp only [g0, g2, g3, g4, g6, BitVec.ofNat_toNat, BitVec.setWidth_eq]) hwf

theorem vstt (q : BitVec 4) (v : BitVec 5) (a : BitVec 4) (f : BitVec 4) (r : BitVec 3) : Statement (.vstt q v a f r) := by
  refine tile_of [(4, 0), (8, r.toNat), (2, 0), (16, f.toNat), (16, a.toNat), (32, v.toNat), (8, 3), (16, q.toNat), (32, 8)] (f := (.vstt q v a f r)) rfl rfl rfl (k := 538443776 + q.toNat * 4194304 + v.toNat * 16384 + a.toNat * 1024 + f.toNat * 64 + r.toNat * 4) rfl
    ⟨by decide, r.isLt, by decide, f.isLt, a.isLt, v.isLt, by decide, q.isLt, by decide, trivial⟩ (fun e => by simp only [pack]; omega) ?_
  rintro w hwf ⟨g0, g1, g2, g3, g4, g5, g6, g7, g8, -⟩
  rw [Nat.div_one] at g0
  rw [decode, g8, decode08.eq_def, g6]
  exact accept_ok (by rw [g0, g2]; rfl) (by simp only [g1, g3, g4, g5, g7, BitVec.ofNat_toNat, BitVec.setWidth_eq]) hwf

theorem amoAdd (q : BitVec 4) (d : BitVec 5) (a : BitVec 4) (l : BitVec 5) (w : BitVec 1) : Statement (.amoAdd q d a l w) := by
  refine tile_of [(8, 0), (2, w.toNat), (32, l.toNat), (16, a.toNat), (32, d.toNat), (16, 0), (16, q.toNat), (32, 9)] (f := (.amoAdd q d a l w)) rfl rfl rfl (k := 603979776 + q.toNat * 4194304 + d.toNat * 8192 + a.toNat * 512 + l.toNat * 16 + w.toNat * 8) rfl
    ⟨by decide, w.isLt, l.isLt, a.isLt, d.isLt, by decide, q.isLt, by decide, trivial⟩ (fun e => by simp only [pack]; omega) ?_
  rintro w hwf ⟨g0, g1, g2, g3, g4, g5, g6, g7, -⟩
  rw [Nat.div_one] at g0
  rw [decode, g7, decode09.eq_def, g5]
  exact accept_ok (by rw [g0]; rfl) (by simp only [g1, g2, g3, g4, g6, BitVec.ofNat_toNat, BitVec.setWidth_eq]) hwf

theorem amoAnd (q : BitVec 4) (d : BitVec 5) (a : BitVec 4) (l : BitVec 5) (w : BitVec 1) : Statement (.amoAnd q d a l w) := by
  refine tile_of [(8, 0), (2, w.toNat), (32, l.toNat), (16, a.toNat), (32, d.toNat), (16, 1), (16, q.toNat), (32, 9)] (f := (.amoAnd q d a l w)) rfl rfl rfl (k := 604241920 + q.toNat * 4194304 + d.toNat * 8192 + a.toNat * 512 + l.toNat * 16 + w.toNat * 8) rfl
    ⟨by decide, w.isLt, l.isLt, a.isLt, d.isLt, by decide, q.isLt, by decide, trivial⟩ (fun e => by simp only [pack]; omega) ?_
  rintro w hwf ⟨g0, g1, g2, g3, g4, g5, g6, g7, -⟩
  rw [Nat.div_one] at g0
  rw [decode, g7, decode09.eq_def, g5]
  exact accept_ok (by rw [g0]; rfl) (by simp only [g1, g2, g3, g4, g6, BitVec.ofNat_toNat, BitVec.setWidth_eq]) hwf

theorem amoOr (q : BitVec 4) (d : BitVec 5) (a : BitVec 4) (l : BitVec 5) (w : BitVec 1) : Statement (.amoOr q d a l w) := by
  refine tile_of [(8, 0), (2, w.toNat), (32, l.toNat), (16, a.toNat), (32, d.toNat), (16, 2), (16, q.toNat), (32, 9)] (f := (.amoOr q d a l w)) rfl rfl rfl (k := 604504064 + q.toNat * 4194304 + d.toNat * 8192 + a.toNat * 512 + l.toNat * 16 + w.toNat * 8) rfl
    ⟨by decide, w.isLt, l.isLt, a.isLt, d.isLt, by decide, q.isLt, by decide, trivial⟩ (fun e => by simp only [pack]; omega) ?_
  rintro w hwf ⟨g0, g1, g2, g3, g4, g5, g6, g7, -⟩
  rw [Nat.div_one] at g0
  rw [decode, g7, decode09.eq_def, g5]
  exact accept_ok (by rw [g0]; rfl) (by simp only [g1, g2, g3, g4, g6, BitVec.ofNat_toNat, BitVec.setWidth_eq]) hwf

theorem amoXor (q : BitVec 4) (d : BitVec 5) (a : BitVec 4) (l : BitVec 5) (w : BitVec 1) : Statement (.amoXor q d a l w) := by
  refine tile_of [(8, 0), (2, w.toNat), (32, l.toNat), (16, a.toNat), (32, d.toNat), (16, 3), (16, q.toNat), (32, 9)] (f := (.amoXor q d a l w)) rfl rfl rfl (k := 604766208 + q.toNat * 4194304 + d.toNat * 8192 + a.toNat * 512 + l.toNat * 16 + w.toNat * 8) rfl
    ⟨by decide, w.isLt, l.isLt, a.isLt, d.isLt, by decide, q.isLt, by decide, trivial⟩ (fun e => by simp only [pack]; omega) ?_
  rintro w hwf ⟨g0, g1, g2, g3, g4, g5, g6, g7, -⟩
  rw [Nat.div_one] at g0
  rw [decode, g7, decode09.eq_def, g5]
  exact accept_ok (by rw [g0]; rfl) (by simp only [g1, g2, g3, g4, g6, BitVec.ofNat_toNat, BitVec.setWidth_eq]) hwf

theorem amoMin (q : BitVec 4) (d : BitVec 5) (a : BitVec 4) (l : BitVec 5) (w : BitVec 1) : Statement (.amoMin q d a l w) := by
  refine tile_of [(8, 0), (2, w.toNat), (32, l.toNat), (16, a.toNat), (32, d.toNat), (16, 4), (16, q.toNat), (32, 9)] (f := (.amoMin q d a l w)) rfl rfl rfl (k := 605028352 + q.toNat * 4194304 + d.toNat * 8192 + a.toNat * 512 + l.toNat * 16 + w.toNat * 8) rfl
    ⟨by decide, w.isLt, l.isLt, a.isLt, d.isLt, by decide, q.isLt, by decide, trivial⟩ (fun e => by simp only [pack]; omega) ?_
  rintro w hwf ⟨g0, g1, g2, g3, g4, g5, g6, g7, -⟩
  rw [Nat.div_one] at g0
  rw [decode, g7, decode09.eq_def, g5]
  exact accept_ok (by rw [g0]; rfl) (by simp only [g1, g2, g3, g4, g6, BitVec.ofNat_toNat, BitVec.setWidth_eq]) hwf

theorem amoMax (q : BitVec 4) (d : BitVec 5) (a : BitVec 4) (l : BitVec 5) (w : BitVec 1) : Statement (.amoMax q d a l w) := by
  refine tile_of [(8, 0), (2, w.toNat), (32, l.toNat), (16, a.toNat), (32, d.toNat), (16, 5), (16, q.toNat), (32, 9)] (f := (.amoMax q d a l w)) rfl rfl rfl (k := 605290496 + q.toNat * 4194304 + d.toNat * 8192 + a.toNat * 512 + l.toNat * 16 + w.toNat * 8) rfl
    ⟨by decide, w.isLt, l.isLt, a.isLt, d.isLt, by decide, q.isLt, by decide, trivial⟩ (fun e => by simp only [pack]; omega) ?_
  rintro w hwf ⟨g0, g1, g2, g3, g4, g5, g6, g7, -⟩
  rw [Nat.div_one] at g0
  rw [decode, g7, decode09.eq_def, g5]
  exact accept_ok (by rw [g0]; rfl) (by simp only [g1, g2, g3, g4, g6, BitVec.ofNat_toNat, BitVec.setWidth_eq]) hwf

theorem amoMinn (q : BitVec 4) (d : BitVec 5) (a : BitVec 4) (l : BitVec 5) (w : BitVec 1) : Statement (.amoMinn q d a l w) := by
  refine tile_of [(8, 0), (2, w.toNat), (32, l.toNat), (16, a.toNat), (32, d.toNat), (16, 6), (16, q.toNat), (32, 9)] (f := (.amoMinn q d a l w)) rfl rfl rfl (k := 605552640 + q.toNat * 4194304 + d.toNat * 8192 + a.toNat * 512 + l.toNat * 16 + w.toNat * 8) rfl
    ⟨by decide, w.isLt, l.isLt, a.isLt, d.isLt, by decide, q.isLt, by decide, trivial⟩ (fun e => by simp only [pack]; omega) ?_
  rintro w hwf ⟨g0, g1, g2, g3, g4, g5, g6, g7, -⟩
  rw [Nat.div_one] at g0
  rw [decode, g7, decode09.eq_def, g5]
  exact accept_ok (by rw [g0]; rfl) (by simp only [g1, g2, g3, g4, g6, BitVec.ofNat_toNat, BitVec.setWidth_eq]) hwf

theorem amoMaxn (q : BitVec 4) (d : BitVec 5) (a : BitVec 4) (l : BitVec 5) (w : BitVec 1) : Statement (.amoMaxn q d a l w) := by
  refine tile_of [(8, 0), (2, w.toNat), (32, l.toNat), (16, a.toNat), (32, d.toNat), (16, 7), (16, q.toNat), (32, 9)] (f := (.amoMaxn q d a l w)) rfl rfl rfl (k := 605814784 + q.toNat * 4194304 + d.toNat * 8192 + a.toNat * 512 + l.toNat * 16 + w.toNat * 8) rfl
    ⟨by decide, w.isLt, l.isLt, a.isLt, d.isLt, by decide, q.isLt, by decide, trivial⟩ (fun e => by simp only [pack]; omega) ?_
  rintro w hwf ⟨g0, g1, g2, g3, g4, g5, g6, g7, -⟩
  rw [Nat.div_one] at g0
  rw [decode, g7, decode09.eq_def, g5]
  exact accept_ok (by rw [g0]; rfl) (by simp only [g1, g2, g3, g4, g6, BitVec.ofNat_toNat, BitVec.setWidth_eq]) hwf

theorem amoSwap (q : BitVec 4) (d : BitVec 5) (a : BitVec 4) (l : BitVec 5) (w : BitVec 1) : Statement (.amoSwap q d a l w) := by
  refine tile_of [(8, 0), (2, w.toNat), (32, l.toNat), (16, a.toNat), (32, d.toNat), (16, 8), (16, q.toNat), (32, 9)] (f := (.amoSwap q d a l w)) rfl rfl rfl (k := 606076928 + q.toNat * 4194304 + d.toNat * 8192 + a.toNat * 512 + l.toNat * 16 + w.toNat * 8) rfl
    ⟨by decide, w.isLt, l.isLt, a.isLt, d.isLt, by decide, q.isLt, by decide, trivial⟩ (fun e => by simp only [pack]; omega) ?_
  rintro w hwf ⟨g0, g1, g2, g3, g4, g5, g6, g7, -⟩
  rw [Nat.div_one] at g0
  rw [decode, g7, decode09.eq_def, g5]
  exact accept_ok (by rw [g0]; rfl) (by simp only [g1, g2, g3, g4, g6, BitVec.ofNat_toNat, BitVec.setWidth_eq]) hwf

theorem amoCas (q : BitVec 4) (d : BitVec 5) (a : BitVec 4) (l : BitVec 5) (w : BitVec 1) : Statement (.amoCas q d a l w) := by
  refine tile_of [(8, 0), (2, w.toNat), (32, l.toNat), (16, a.toNat), (32, d.toNat), (16, 9), (16, q.toNat), (32, 9)] (f := (.amoCas q d a l w)) rfl rfl rfl (k := 606339072 + q.toNat * 4194304 + d.toNat * 8192 + a.toNat * 512 + l.toNat * 16 + w.toNat * 8) rfl
    ⟨by decide, w.isLt, l.isLt, a.isLt, d.isLt, by decide, q.isLt, by decide, trivial⟩ (fun e => by simp only [pack]; omega) ?_
  rintro w hwf ⟨g0, g1, g2, g3, g4, g5, g6, g7, -⟩
  rw [Nat.div_one] at g0
  rw [decode, g7, decode09.eq_def, g5]
  exact accept_ok (by rw [g0]; rfl) (by simp only [g1, g2, g3, g4, g6, BitVec.ofNat_toNat, BitVec.setWidth_eq]) hwf

theorem br (q : BitVec 4) (k : BitVec 2) : Statement (.br q k) := by
  refine tile_of [(65536, 0), (4, k.toNat), (16, 0), (16, q.toNat), (32, 10)] (f := (.br q k)) rfl rfl rfl (k := 671088640 + q.toNat * 4194304 + k.toNat * 65536) rfl
    ⟨by decide, k.isLt, by decide, q.isLt, by decide, trivial⟩ (fun e => by simp only [pack]; omega) ?_
  rintro w hwf ⟨g0, g1, g2, g3, g4, -⟩
  rw [Nat.div_one] at g0
  rw [decode, g4, decode0A.eq_def, g2]
  exact accept_ok (by rw [g0]; rfl) (by simp only [g1, g3, BitVec.ofNat_toNat, BitVec.setWidth_eq]) hwf

theorem brv (q : BitVec 4) (k : BitVec 2) (m : BitVec 3) (w : BitVec 2) (n : BitVec 1) : Statement (.brv q k m w n) := by
  refine tile_of [(1024, 0), (2, n.toNat), (4, w.toNat), (8, m.toNat), (4, k.toNat), (16, 1), (16, q.toNat), (32, 10)] (f := (.brv q k m w n)) rfl rfl rfl (k := 671350784 + q.toNat * 4194304 + k.toNat * 65536 + m.toNat * 8192 + w.toNat * 2048 + n.toNat * 1024) rfl
    ⟨by decide, n.isLt, w.isLt, m.isLt, k.isLt, by decide, q.isLt, by decide, trivial⟩ (fun e => by simp only [pack]; omega) ?_
  rintro w hwf ⟨g0, g1, g2, g3, g4, g5, g6, g7, -⟩
  rw [Nat.div_one] at g0
  rw [decode, g7, decode0A.eq_def, g5]
  exact accept_ok (by rw [g0]; rfl) (by simp only [g1, g2, g3, g4, g6, BitVec.ofNat_toNat, BitVec.setWidth_eq]) hwf

theorem prep (q : BitVec 4) (k : BitVec 2) (i : BitVec 16) : Statement (.prep q k i) := by
  refine tile_of [(65536, i.toNat), (4, k.toNat), (16, 2), (16, q.toNat), (32, 10)] (f := (.prep q k i)) rfl rfl rfl (k := 671612928 + q.toNat * 4194304 + k.toNat * 65536 + i.toNat) rfl
    ⟨i.isLt, k.isLt, by decide, q.isLt, by decide, trivial⟩ (fun e => by simp only [pack]; omega) ?_
  rintro w hwf ⟨g0, g1, g2, g3, g4, -⟩
  rw [Nat.div_one] at g0
  rw [decode, g4, decode0A.eq_def, g2]
  exact accept_ok rfl (by simp only [g0, g1, g3, BitVec.ofNat_toNat, BitVec.setWidth_eq]) hwf

theorem prepa (q : BitVec 4) (k : BitVec 2) (a : BitVec 4) : Statement (.prepa q k a) := by
  refine tile_of [(4096, 0), (16, a.toNat), (4, k.toNat), (16, 3), (16, q.toNat), (32, 10)] (f := (.prepa q k a)) rfl rfl rfl (k := 671875072 + q.toNat * 4194304 + k.toNat * 65536 + a.toNat * 4096) rfl
    ⟨by decide, a.isLt, k.isLt, by decide, q.isLt, by decide, trivial⟩ (fun e => by simp only [pack]; omega) ?_
  rintro w hwf ⟨g0, g1, g2, g3, g4, g5, -⟩
  rw [Nat.div_one] at g0
  rw [decode, g5, decode0A.eq_def, g3]
  exact accept_ok (by rw [g0]; rfl) (by simp only [g1, g2, g4, BitVec.ofNat_toNat, BitVec.setWidth_eq]) hwf

theorem brl (q : BitVec 4) (k : BitVec 2) (d : BitVec 4) : Statement (.brl q k d) := by
  refine tile_of [(4096, 0), (16, d.toNat), (4, k.toNat), (16, 4), (16, q.toNat), (32, 10)] (f := (.brl q k d)) rfl rfl rfl (k := 672137216 + q.toNat * 4194304 + k.toNat * 65536 + d.toNat * 4096) rfl
    ⟨by decide, d.isLt, k.isLt, by decide, q.isLt, by decide, trivial⟩ (fun e => by simp only [pack]; omega) ?_
  rintro w hwf ⟨g0, g1, g2, g3, g4, g5, -⟩
  rw [Nat.div_one] at g0
  rw [decode, g5, decode0A.eq_def, g3]
  exact accept_ok (by rw [g0]; rfl) (by simp only [g1, g2, g4, BitVec.ofNat_toNat, BitVec.setWidth_eq]) hwf

theorem lbNest (q : BitVec 4) (l : BitVec 4) (d : BitVec 3) (g : BitVec 6) : Statement (.lbNest q l d g) := by
  refine tile_of [(32, 0), (64, g.toNat), (8, d.toNat), (16, l.toNat), (16, 5), (16, q.toNat), (32, 10)] (f := (.lbNest q l d g)) rfl rfl rfl (k := 672399360 + q.toNat * 4194304 + l.toNat * 16384 + d.toNat * 2048 + g.toNat * 32) rfl
    ⟨by decide, g.isLt, d.isLt, l.isLt, by decide, q.isLt, by decide, trivial⟩ (fun e => by simp only [pack]; omega) ?_
  rintro w hwf ⟨g0, g1, g2, g3, g4, g5, g6, -⟩
  rw [Nat.div_one] at g0
  rw [decode, g6, decode0A.eq_def, g4]
  exact accept_ok (by rw [g0]; rfl) (by simp only [g1, g2, g3, g5, BitVec.ofNat_toNat, BitVec.setWidth_eq]) hwf

theorem lbExit (q : BitVec 4) : Statement (.lbExit q) := by
  refine tile_of [(262144, 0), (16, 6), (16, q.toNat), (32, 10)] (f := (.lbExit q)) rfl rfl rfl (k := 672661504 + q.toNat * 4194304) rfl
    ⟨by decide, by decide, q.isLt, by decide, trivial⟩ (fun e => by simp only [pack]; omega) ?_
  rintro w hwf ⟨g0, g1, g2, g3, -⟩
  rw [Nat.div_one] at g0
  rw [decode, g3, decode0A.eq_def, g1]
  exact accept_ok (by rw [g0]; rfl) (by simp only [g2, BitVec.ofNat_toNat, BitVec.setWidth_eq]) hwf

theorem fence (q : BitVec 4) (c : BitVec 3) (k : BitVec 2) : Statement (.fence q c k) := by
  refine tile_of [(4096, 0), (4, k.toNat), (8, c.toNat), (32, 0), (16, q.toNat), (32, 11)] (f := (.fence q c k)) rfl rfl rfl (k := 738197504 + q.toNat * 4194304 + c.toNat * 16384 + k.toNat * 4096) rfl
    ⟨by decide, k.isLt, c.isLt, by decide, q.isLt, by decide, trivial⟩ (fun e => by simp only [pack]; omega) ?_
  rintro w hwf ⟨g0, g1, g2, g3, g4, g5, -⟩
  rw [Nat.div_one] at g0
  rw [decode, g5, decode0B.eq_def, g3]
  exact accept_ok (by rw [g0]; rfl) (by simp only [g1, g2, g4, BitVec.ofNat_toNat, BitVec.setWidth_eq]) hwf

theorem bind (q : BitVec 4) (a : BitVec 4) (b : BitVec 5) (o : BitVec 4) : Statement (.bind q a b o) := by
  refine tile_of [(16, 0), (16, o.toNat), (32, b.toNat), (16, a.toNat), (32, 1), (16, q.toNat), (32, 11)] (f := (.bind q a b o)) rfl rfl rfl (k := 738328576 + q.toNat * 4194304 + a.toNat * 8192 + b.toNat * 256 + o.toNat * 16) rfl
    ⟨by decide, o.isLt, b.isLt, a.isLt, by decide, q.isLt, by decide, trivial⟩ (fun e => by simp only [pack]; omega) ?_
  rintro w hwf ⟨g0, g1, g2, g3, g4, g5, g6, -⟩
  rw [Nat.div_one] at g0
  rw [decode, g6, decode0B.eq_def, g4]
  exact accept_ok (by rw [g0]; rfl) (by simp only [g1, g2, g3, g5, BitVec.ofNat_toNat, BitVec.setWidth_eq]) hwf

theorem unbind (q : BitVec 4) (a : BitVec 4) : Statement (.unbind q a) := by
  refine tile_of [(8192, 0), (16, a.toNat), (32, 2), (16, q.toNat), (32, 11)] (f := (.unbind q a)) rfl rfl rfl (k := 738459648 + q.toNat * 4194304 + a.toNat * 8192) rfl
    ⟨by decide, a.isLt, by decide, q.isLt, by decide, trivial⟩ (fun e => by simp only [pack]; omega) ?_
  rintro w hwf ⟨g0, g1, g2, g3, g4, -⟩
  rw [Nat.div_one] at g0
  rw [decode, g4, decode0B.eq_def, g2]
  exact accept_ok (by rw [g0]; rfl) (by simp only [g1, g3, BitVec.ofNat_toNat, BitVec.setWidth_eq]) hwf

theorem acq (q : BitVec 4) (c : BitVec 3) (o : BitVec 4) : Statement (.acq q c o) := by
  refine tile_of [(1024, 0), (16, o.toNat), (8, c.toNat), (32, 3), (16, q.toNat), (32, 11)] (f := (.acq q c o)) rfl rfl rfl (k := 738590720 + q.toNat * 4194304 + c.toNat * 16384 + o.toNat * 1024) rfl
    ⟨by decide, o.isLt, c.isLt, by decide, q.isLt, by decide, trivial⟩ (fun e => by simp only [pack]; omega) ?_
  rintro w hwf ⟨g0, g1, g2, g3, g4, g5, -⟩
  rw [Nat.div_one] at g0
  rw [decode, g5, decode0B.eq_def, g3]
  exact accept_ok (by rw [g0]; rfl) (by simp only [g1, g2, g4, BitVec.ofNat_toNat, BitVec.setWidth_eq]) hwf

theorem rel (q : BitVec 4) (c : BitVec 3) (o : BitVec 4) : Statement (.rel q c o) := by
  refine tile_of [(1024, 0), (16, o.toNat), (8, c.toNat), (32, 4), (16, q.toNat), (32, 11)] (f := (.rel q c o)) rfl rfl rfl (k := 738721792 + q.toNat * 4194304 + c.toNat * 16384 + o.toNat * 1024) rfl
    ⟨by decide, o.isLt, c.isLt, by decide, q.isLt, by decide, trivial⟩ (fun e => by simp only [pack]; omega) ?_
  rintro w hwf ⟨g0, g1, g2, g3, g4, g5, -⟩
  rw [Nat.div_one] at g0
  rw [decode, g5, decode0B.eq_def, g3]
  exact accept_ok (by rw [g0]; rfl) (by simp only [g1, g2, g4, BitVec.ofNat_toNat, BitVec.setWidth_eq]) hwf

theorem bwait (q : BitVec 4) (n : BitVec 4) : Statement (.bwait q n) := by
  refine tile_of [(8192, 0), (16, n.toNat), (32, 5), (16, q.toNat), (32, 11)] (f := (.bwait q n)) rfl rfl rfl (k := 738852864 + q.toNat * 4194304 + n.toNat * 8192) rfl
    ⟨by decide, n.isLt, by decide, q.isLt, by decide, trivial⟩ (fun e => by simp only [pack]; omega) ?_
  rintro w hwf ⟨g0, g1, g2, g3, g4, -⟩
  rw [Nat.div_one] at g0
  rw [decode, g4, decode0B.eq_def, g2]
  exact accept_ok (by rw [g0]; rfl) (by simp only [g1, g3, BitVec.ofNat_toNat, BitVec.setWidth_eq]) hwf

theorem binit (q : BitVec 4) (n : BitVec 4) (a : BitVec 5) : Statement (.binit q n a) := by
  refine tile_of [(256, 0), (32, a.toNat), (16, n.toNat), (32, 6), (16, q.toNat), (32, 11)] (f := (.binit q n a)) rfl rfl rfl (k := 738983936 + q.toNat * 4194304 + n.toNat * 8192 + a.toNat * 256) rfl
    ⟨by decide, a.isLt, n.isLt, by decide, q.isLt, by decide, trivial⟩ (fun e => by simp only [pack]; omega) ?_
  rintro w hwf ⟨g0, g1, g2, g3, g4, g5, -⟩
  rw [Nat.div_one] at g0
  rw [decode, g5, decode0B.eq_def, g3]
  exact accept_ok (by rw [g0]; rfl) (by simp only [g1, g2, g4, BitVec.ofNat_toNat, BitVec.setWidth_eq]) hwf

theorem twAny (q : BitVec 4) (p : BitVec 1) (d : BitVec 5) (a : BitVec 5) : Statement (.twAny q p d a) := by
  refine tile_of [(64, 0), (32, a.toNat), (32, d.toNat), (2, p.toNat), (32, 7), (16, q.toNat), (32, 11)] (f := (.twAny q p d a)) rfl rfl rfl (k := 739115008 + q.toNat * 4194304 + p.toNat * 65536 + d.toNat * 2048 + a.toNat * 64) rfl
    ⟨by decide, a.isLt, d.isLt, p.isLt, by decide, q.isLt, by decide, trivial⟩ (fun e => by simp only [pack]; omega) ?_
  rintro w hwf ⟨g0, g1, g2, g3, g4, g5, g6, -⟩
  rw [Nat.div_one] at g0
  rw [decode, g6, decode0B.eq_def, g4]
  exact accept_ok (by rw [g0]; rfl) (by simp only [g1, g2, g3, g5, BitVec.ofNat_toNat, BitVec.setWidth_eq]) hwf

theorem twAll (q : BitVec 4) (p : BitVec 1) (d : BitVec 5) (a : BitVec 5) : Statement (.twAll q p d a) := by
  refine tile_of [(64, 0), (32, a.toNat), (32, d.toNat), (2, p.toNat), (32, 8), (16, q.toNat), (32, 11)] (f := (.twAll q p d a)) rfl rfl rfl (k := 739246080 + q.toNat * 4194304 + p.toNat * 65536 + d.toNat * 2048 + a.toNat * 64) rfl
    ⟨by decide, a.isLt, d.isLt, p.isLt, by decide, q.isLt, by decide, trivial⟩ (fun e => by simp only [pack]; omega) ?_
  rintro w hwf ⟨g0, g1, g2, g3, g4, g5, g6, -⟩
  rw [Nat.div_one] at g0
  rw [decode, g6, decode0B.eq_def, g4]
  exact accept_ok (by rw [g0]; rfl) (by simp only [g1, g2, g3, g5, BitVec.ofNat_toNat, BitVec.setWidth_eq]) hwf

theorem twFfr (q : BitVec 4) (p : BitVec 1) (d : BitVec 5) (a : BitVec 5) : Statement (.twFfr q p d a) := by
  refine tile_of [(64, 0), (32, a.toNat), (32, d.toNat), (2, p.toNat), (32, 9), (16, q.toNat), (32, 11)] (f := (.twFfr q p d a)) rfl rfl rfl (k := 739377152 + q.toNat * 4194304 + p.toNat * 65536 + d.toNat * 2048 + a.toNat * 64) rfl
    ⟨by decide, a.isLt, d.isLt, p.isLt, by decide, q.isLt, by decide, trivial⟩ (fun e => by simp only [pack]; omega) ?_
  rintro w hwf ⟨g0, g1, g2, g3, g4, g5, g6, -⟩
  rw [Nat.div_one] at g0
  rw [decode, g6, decode0B.eq_def, g4]
  exact accept_ok (by rw [g0]; rfl) (by simp only [g1, g2, g3, g5, BitVec.ofNat_toNat, BitVec.setWidth_eq]) hwf

theorem mwait (q : BitVec 4) (p : BitVec 1) (o : BitVec 4) (b : BitVec 5) : Statement (.mwait q p o b) := by
  refine tile_of [(128, 0), (32, b.toNat), (16, o.toNat), (2, p.toNat), (32, 10), (16, q.toNat), (32, 11)] (f := (.mwait q p o b)) rfl rfl rfl (k := 739508224 + q.toNat * 4194304 + p.toNat * 65536 + o.toNat * 4096 + b.toNat * 128) rfl
    ⟨by decide, b.isLt, o.isLt, p.isLt, by decide, q.isLt, by decide, trivial⟩ (fun e => by simp only [pack]; omega) ?_
  rintro w hwf ⟨g0, g1, g2, g3, g4, g5, g6, -⟩
  rw [Nat.div_one] at g0
  rw [decode, g6, decode0B.eq_def, g4]
  exact accept_ok (by rw [g0]; rfl) (by simp only [g1, g2, g3, g5, BitVec.ofNat_toNat, BitVec.setWidth_eq]) hwf

theorem safe (q : BitVec 4) (n : BitVec 16) : Statement (.safe q n) := by
  refine tile_of [(65536, n.toNat), (2, 0), (32, 0), (16, q.toNat), (32, 12)] (f := (.safe q n)) rfl rfl rfl (k := 805306368 + q.toNat * 4194304 + n.toNat) rfl
    ⟨n.isLt, by decide, by decide, q.isLt, by decide, trivial⟩ (fun e => by simp only [pack]; omega) ?_
  rintro w hwf ⟨g0, g1, g2, g3, g4, -⟩
  rw [Nat.div_one] at g0
  rw [decode, g4, decode0C.eq_def, g2]
  exact accept_ok (by rw [g1]; rfl) (by simp only [g0, g3, BitVec.ofNat_toNat, BitVec.setWidth_eq]) hwf

theorem suspend (q : BitVec 4) (a : BitVec 5) : Statement (.suspend q a) := by
  refine tile_of [(4096, 0), (32, a.toNat), (32, 1), (16, q.toNat), (32, 12)] (f := (.suspend q a)) rfl rfl rfl (k := 805437440 + q.toNat * 4194304 + a.toNat * 4096) rfl
    ⟨by decide, a.isLt, by decide, q.isLt, by decide, trivial⟩ (fun e => by simp only [pack]; omega) ?_
  rintro w hwf ⟨g0, g1, g2, g3, g4, -⟩
  rw [Nat.div_one] at g0
  rw [decode, g4, decode0C.eq_def, g2]
  exact accept_ok (by rw [g0]; rfl) (by simp only [g1, g3, BitVec.ofNat_toNat, BitVec.setWidth_eq]) hwf

theorem yield (q : BitVec 4) : Statement (.yield q) := by
  refine tile_of [(131072, 0), (32, 2), (16, q.toNat), (32, 12)] (f := (.yield q)) rfl rfl rfl (k := 805568512 + q.toNat * 4194304) rfl
    ⟨by decide, by decide, q.isLt, by decide, trivial⟩ (fun e => by simp only [pack]; omega) ?_
  rintro w hwf ⟨g0, g1, g2, g3, -⟩
  rw [Nat.div_one] at g0
  rw [decode, g3, decode0C.eq_def, g1]
  exact accept_ok (by rw [g0]; rfl) (by simp only [g2, BitVec.ofNat_toNat, BitVec.setWidth_eq]) hwf

theorem retire (q : BitVec 4) : Statement (.retire q) := by
  refine tile_of [(131072, 0), (32, 3), (16, q.toNat), (32, 12)] (f := (.retire q)) rfl rfl rfl (k := 805699584 + q.toNat * 4194304) rfl
    ⟨by decide, by decide, q.isLt, by decide, trivial⟩ (fun e => by simp only [pack]; omega) ?_
  rintro w hwf ⟨g0, g1, g2, g3, -⟩
  rw [Nat.div_one] at g0
  rw [decode, g3, decode0C.eq_def, g1]
  exact accept_ok (by rw [g0]; rfl) (by simp only [g2, BitVec.ofNat_toNat, BitVec.setWidth_eq]) hwf

theorem svc (q : BitVec 4) (i : BitVec 16) : Statement (.svc q i) := by
  refine tile_of [(65536, i.toNat), (2, 0), (32, 4), (16, q.toNat), (32, 12)] (f := (.svc q i)) rfl rfl rfl (k := 805830656 + q.toNat * 4194304 + i.toNat) rfl
    ⟨i.isLt, by decide, by decide, q.isLt, by decide, trivial⟩ (fun e => by simp only [pack]; omega) ?_
  rintro w hwf ⟨g0, g1, g2, g3, g4, -⟩
  rw [Nat.div_one] at g0
  rw [decode, g4, decode0C.eq_def, g2]
  exact accept_ok (by rw [g1]; rfl) (by simp only [g0, g3, BitVec.ofNat_toNat, BitVec.setWidth_eq]) hwf

theorem brk (q : BitVec 4) (i : BitVec 16) : Statement (.brk q i) := by
  refine tile_of [(65536, i.toNat), (2, 0), (32, 5), (16, q.toNat), (32, 12)] (f := (.brk q i)) rfl rfl rfl (k := 805961728 + q.toNat * 4194304 + i.toNat) rfl
    ⟨i.isLt, by decide, by decide, q.isLt, by decide, trivial⟩ (fun e => by simp only [pack]; omega) ?_
  rintro w hwf ⟨g0, g1, g2, g3, g4, -⟩
  rw [Nat.div_one] at g0
  rw [decode, g4, decode0C.eq_def, g2]
  exact accept_ok (by rw [g1]; rfl) (by simp only [g0, g3, BitVec.ofNat_toNat, BitVec.setWidth_eq]) hwf

theorem sysrd (q : BitVec 4) (d : BitVec 5) (n : BitVec 12) : Statement (.sysrd q d n) := by
  refine tile_of [(4096, n.toNat), (32, d.toNat), (32, 6), (16, q.toNat), (32, 12)] (f := (.sysrd q d n)) rfl rfl rfl (k := 806092800 + q.toNat * 4194304 + d.toNat * 4096 + n.toNat) rfl
    ⟨n.isLt, d.isLt, by decide, q.isLt, by decide, trivial⟩ (fun e => by simp only [pack]; omega) ?_
  rintro w hwf ⟨g0, g1, g2, g3, g4, -⟩
  rw [Nat.div_one] at g0
  rw [decode, g4, decode0C.eq_def, g2]
  exact accept_ok rfl (by simp only [g0, g1, g3, BitVec.ofNat_toNat, BitVec.setWidth_eq]) hwf

theorem syswr (q : BitVec 4) (a : BitVec 5) (n : BitVec 12) : Statement (.syswr q a n) := by
  refine tile_of [(4096, n.toNat), (32, a.toNat), (32, 7), (16, q.toNat), (32, 12)] (f := (.syswr q a n)) rfl rfl rfl (k := 806223872 + q.toNat * 4194304 + a.toNat * 4096 + n.toNat) rfl
    ⟨n.isLt, a.isLt, by decide, q.isLt, by decide, trivial⟩ (fun e => by simp only [pack]; omega) ?_
  rintro w hwf ⟨g0, g1, g2, g3, g4, -⟩
  rw [Nat.div_one] at g0
  rw [decode, g4, decode0C.eq_def, g2]
  exact accept_ok rfl (by simp only [g0, g1, g3, BitVec.ofNat_toNat, BitVec.setWidth_eq]) hwf

theorem rfe (q : BitVec 4) (a : BitVec 4) (d : BitVec 5) (l : BitVec 5) : Statement (.rfe q a d l) := by
  refine tile_of [(8, 0), (32, l.toNat), (32, d.toNat), (16, a.toNat), (32, 8), (16, q.toNat), (32, 12)] (f := (.rfe q a d l)) rfl rfl rfl (k := 806354944 + q.toNat * 4194304 + a.toNat * 8192 + d.toNat * 256 + l.toNat * 8) rfl
    ⟨by decide, l.isLt, d.isLt, a.isLt, by decide, q.isLt, by decide, trivial⟩ (fun e => by simp only [pack]; omega) ?_
  rintro w hwf ⟨g0, g1, g2, g3, g4, g5, g6, -⟩
  rw [Nat.div_one] at g0
  rw [decode, g6, decode0C.eq_def, g4]
  exact accept_ok (by rw [g0]; rfl) (by simp only [g1, g2, g3, g5, BitVec.ofNat_toNat, BitVec.setWidth_eq]) hwf

theorem qlock (q : BitVec 4) (d : BitVec 5) : Statement (.qlock q d) := by
  refine tile_of [(4096, 0), (32, d.toNat), (32, 9), (16, q.toNat), (32, 12)] (f := (.qlock q d)) rfl rfl rfl (k := 806486016 + q.toNat * 4194304 + d.toNat * 4096) rfl
    ⟨by decide, d.isLt, by decide, q.isLt, by decide, trivial⟩ (fun e => by simp only [pack]; omega) ?_
  rintro w hwf ⟨g0, g1, g2, g3, g4, -⟩
  rw [Nat.div_one] at g0
  rw [decode, g4, decode0C.eq_def, g2]
  exact accept_ok (by rw [g0]; rfl) (by simp only [g1, g3, BitVec.ofNat_toNat, BitVec.setWidth_eq]) hwf

theorem qfree (q : BitVec 4) : Statement (.qfree q) := by
  refine tile_of [(131072, 0), (32, 10), (16, q.toNat), (32, 12)] (f := (.qfree q)) rfl rfl rfl (k := 806617088 + q.toNat * 4194304) rfl
    ⟨by decide, by decide, q.isLt, by decide, trivial⟩ (fun e => by simp only [pack]; omega) ?_
  rintro w hwf ⟨g0, g1, g2, g3, -⟩
  rw [Nat.div_one] at g0
  rw [decode, g3, decode0C.eq_def, g1]
  exact accept_ok (by rw [g0]; rfl) (by simp only [g2, BitVec.ofNat_toNat, BitVec.setWidth_eq]) hwf

theorem arv (q : BitVec 4) (l : BitVec 3) (r : BitVec 1) (c : BitVec 2) (n : BitVec 4) : Statement (.arv q l r c n) := by
  refine tile_of [(128, 0), (16, n.toNat), (4, c.toNat), (2, r.toNat), (8, l.toNat), (32, 11), (16, q.toNat), (32, 12)] (f := (.arv q l r c n)) rfl rfl rfl (k := 806748160 + q.toNat * 4194304 + l.toNat * 16384 + r.toNat * 8192 + c.toNat * 2048 + n.toNat * 128) rfl
    ⟨by decide, n.isLt, c.isLt, r.isLt, l.isLt, by decide, q.isLt, by decide, trivial⟩ (fun e => by simp only [pack]; omega) ?_
  rintro w hwf ⟨g0, g1, g2, g3, g4, g5, g6, g7, -⟩
  rw [Nat.div_one] at g0
  rw [decode, g7, decode0C.eq_def, g5]
  exact accept_ok (by rw [g0]; rfl) (by simp only [g1, g2, g3, g4, g6, BitVec.ofNat_toNat, BitVec.setWidth_eq]) hwf

theorem vld (z : BitVec 1) (m : BitVec 3) (d : BitVec 5) (a : BitVec 4) (l : BitVec 5) : Statement (.vld z m d a l) := by
  refine tile_of [(4, 0), (32, l.toNat), (16, a.toNat), (32, d.toNat), (64, 0), (8, m.toNat), (2, z.toNat), (32, 13)] (f := (.vld z m d a l)) rfl rfl rfl (k := 872415232 + z.toNat * 33554432 + m.toNat * 4194304 + d.toNat * 2048 + a.toNat * 128 + l.toNat * 4) rfl
    ⟨by decide, l.isLt, a.isLt, d.isLt, by decide, m.isLt, z.isLt, by decide, trivial⟩ (fun e => by simp only [pack]; omega) ?_
  rintro w hwf ⟨g0, g1, g2, g3, g4, g5, g6, g7, -⟩
  rw [Nat.div_one] at g0
  rw [decode, g7, decode0D.eq_def, g4]
  exact accept_ok (by rw [g0]; rfl) (by simp only [g1, g2, g3, g5, g6, BitVec.ofNat_toNat, BitVec.setWidth_eq]) hwf

theorem vlds (z : BitVec 1) (m : BitVec 3) (d : BitVec 5) (a : BitVec 4) (l : BitVec 5) (g : BitVec 2) : Statement (.vlds z m d a l g) := by
  refine tile_of [(4, g.toNat), (32, l.toNat), (16, a.toNat), (32, d.toNat), (64, 1), (8, m.toNat), (2, z.toNat), (32, 13)] (f := (.vlds z m d a l g)) rfl rfl rfl (k := 872480768 + z.toNat * 33554432 + m.toNat * 4194304 + d.toNat * 2048 + a.toNat * 128 + l.toNat * 4 + g.toNat) rfl
    ⟨g.isLt, l.isLt, a.isLt, d.isLt, by decide, m.isLt, z.isLt, by decide, trivial⟩ (fun e => by simp only [pack]; omega) ?_
  rintro w hwf ⟨g0, g1, g2, g3, g4, g5, g6, g7, -⟩
  rw [Nat.div_one] at g0
  rw [decode, g7, decode0D.eq_def, g4]
  exact accept_ok rfl (by simp only [g0, g1, g2, g3, g5, g6, BitVec.ofNat_toNat, BitVec.setWidth_eq]) hwf

theorem vldx (z : BitVec 1) (m : BitVec 3) (d : BitVec 5) (a : BitVec 4) (l : BitVec 5) : Statement (.vldx z m d a l) := by
  refine tile_of [(4, 0), (32, l.toNat), (16, a.toNat), (32, d.toNat), (64, 2), (8, m.toNat), (2, z.toNat), (32, 13)] (f := (.vldx z m d a l)) rfl rfl rfl (k := 872546304 + z.toNat * 33554432 + m.toNat * 4194304 + d.toNat * 2048 + a.toNat * 128 + l.toNat * 4) rfl
    ⟨by decide, l.isLt, a.isLt, d.isLt, by decide, m.isLt, z.isLt, by decide, trivial⟩ (fun e => by simp only [pack]; omega) ?_
  rintro w hwf ⟨g0, g1, g2, g3, g4, g5, g6, g7, -⟩
  rw [Nat.div_one] at g0
  rw [decode, g7, decode0D.eq_def, g4]
  exact accept_ok (by rw [g0]; rfl) (by simp only [g1, g2, g3, g5, g6, BitVec.ofNat_toNat, BitVec.setWidth_eq]) hwf

theorem vldb (z : BitVec 1) (m : BitVec 3) (d : BitVec 5) (a : BitVec 4) (l : BitVec 5) : Statement (.vldb z m d a l) := by
  refine tile_of [(4, 0), (32, l.toNat), (16, a.toNat), (32, d.toNat), (64, 3), (8, m.toNat), (2, z.toNat), (32, 13)] (f := (.vldb z m d a l)) rfl rfl rfl (k := 872611840 + z.toNat * 33554432 + m.toNat * 4194304 + d.toNat * 2048 + a.toNat * 128 + l.toNat * 4) rfl
    ⟨by decide, l.isLt, a.isLt, d.isLt, by decide, m.isLt, z.isLt, by decide, trivial⟩ (fun e => by simp only [pack]; omega) ?_
  rintro w hwf ⟨g0, g1, g2, g3, g4, g5, g6, g7, -⟩
  rw [Nat.div_one] at g0
  rw [decode, g7, decode0D.eq_def, g4]
  exact accept_ok (by rw [g0]; rfl) (by simp only [g1, g2, g3, g5, g6, BitVec.ofNat_toNat, BitVec.setWidth_eq]) hwf

theorem vst (m : BitVec 3) (v : BitVec 5) (a : BitVec 4) : Statement (.vst m v a) := by
  refine tile_of [(128, 0), (16, a.toNat), (32, v.toNat), (64, 0), (8, m.toNat), (2, 0), (32, 14)] (f := (.vst m v a)) rfl rfl rfl (k := 939524096 + m.toNat * 4194304 + v.toNat * 2048 + a.toNat * 128) rfl
    ⟨by decide, a.isLt, v.isLt, by decide, m.isLt, by decide, by decide, trivial⟩ (fun e => by simp only [pack]; omega) ?_
  rintro w hwf ⟨g0, g1, g2, g3, g4, g5, g6, -⟩
  rw [Nat.div_one] at g0
  rw [decode, g6, decode0E.eq_def, g3]
  exact accept_ok (by rw [g0, g5]; rfl) (by simp only [g1, g2, g4, BitVec.ofNat_toNat, BitVec.setWidth_eq]) hwf

theorem vsts (m : BitVec 3) (v : BitVec 5) (a : BitVec 4) (g : BitVec 2) : Statement (.vsts m v a g) := by
  refine tile_of [(32, 0), (4, g.toNat), (16, a.toNat), (32, v.toNat), (64, 1), (8, m.toNat), (2, 0), (32, 14)] (f := (.vsts m v a g)) rfl rfl rfl (k := 939589632 + m.toNat * 4194304 + v.toNat * 2048 + a.toNat * 128 + g.toNat * 32) rfl
    ⟨by decide, g.isLt, a.isLt, v.isLt, by decide, m.isLt, by decide, by decide, trivial⟩ (fun e => by simp only [pack]; omega) ?_
  rintro w hwf ⟨g0, g1, g2, g3, g4, g5, g6, g7, -⟩
  rw [Nat.div_one] at g0
  rw [decode, g7, decode0E.eq_def, g4]
  exact accept_ok (by rw [g0, g6]; rfl) (by simp only [g1, g2, g3, g5, BitVec.ofNat_toNat, BitVec.setWidth_eq]) hwf

theorem vstx (m : BitVec 3) (v : BitVec 5) (a : BitVec 4) (b : BitVec 5) : Statement (.vstx m v a b) := by
  refine tile_of [(4, 0), (32, b.toNat), (16, a.toNat), (32, v.toNat), (64, 2), (8, m.toNat), (2, 0), (32, 14)] (f := (.vstx m v a b)) rfl rfl rfl (k := 939655168 + m.toNat * 4194304 + v.toNat * 2048 + a.toNat * 128 + b.toNat * 4) rfl
    ⟨by decide, b.isLt, a.isLt, v.isLt, by decide, m.isLt, by decide, by decide, trivial⟩ (fun e => by simp only [pack]; omega) ?_
  rintro w hwf ⟨g0, g1, g2, g3, g4, g5, g6, g7, -⟩
  rw [Nat.div_one] at g0
  rw [decode, g7, decode0E.eq_def, g4]
  exact accept_ok (by rw [g0, g6]; rfl) (by simp only [g1, g2, g3, g5, BitVec.ofNat_toNat, BitVec.setWidth_eq]) hwf

theorem vadd (z : BitVec 1) (m : BitVec 3) (d : BitVec 5) (a : BitVec 5) (b : BitVec 5) (x : BitVec 1) : Statement (.vadd z m d a b x) := by
  refine tile_of [(2, x.toNat), (32, b.toNat), (32, a.toNat), (32, d.toNat), (64, 0), (8, m.toNat), (2, z.toNat), (32, 15)] (f := (.vadd z m d a b x)) rfl rfl rfl (k := 1006632960 + z.toNat * 33554432 + m.toNat * 4194304 + d.toNat * 2048 + a.toNat * 64 + b.toNat * 2 + x.toNat) rfl
    ⟨x.isLt, b.isLt, a.isLt, d.isLt, by decide, m.isLt, z.isLt, by decide, trivial⟩ (fun e => by simp only [pack]; omega) ?_
  rintro w hwf ⟨g0, g1, g2, g3, g4, g5, g6, g7, -⟩
  rw [Nat.div_one] at g0
  rw [decode, g7, decode0F.eq_def, g4]
  exact accept_ok rfl (by simp only [g0, g1, g2, g3, g5, g6, BitVec.ofNat_toNat, BitVec.setWidth_eq]) hwf

theorem vsub (z : BitVec 1) (m : BitVec 3) (d : BitVec 5) (a : BitVec 5) (b : BitVec 5) (x : BitVec 1) : Statement (.vsub z m d a b x) := by
  refine tile_of [(2, x.toNat), (32, b.toNat), (32, a.toNat), (32, d.toNat), (64, 1), (8, m.toNat), (2, z.toNat), (32, 15)] (f := (.vsub z m d a b x)) rfl rfl rfl (k := 1006698496 + z.toNat * 33554432 + m.toNat * 4194304 + d.toNat * 2048 + a.toNat * 64 + b.toNat * 2 + x.toNat) rfl
    ⟨x.isLt, b.isLt, a.isLt, d.isLt, by decide, m.isLt, z.isLt, by decide, trivial⟩ (fun e => by simp only [pack]; omega) ?_
  rintro w hwf ⟨g0, g1, g2, g3, g4, g5, g6, g7, -⟩
  rw [Nat.div_one] at g0
  rw [decode, g7, decode0F.eq_def, g4]
  exact accept_ok rfl (by simp only [g0, g1, g2, g3, g5, g6, BitVec.ofNat_toNat, BitVec.setWidth_eq]) hwf

theorem vmul (z : BitVec 1) (m : BitVec 3) (d : BitVec 5) (a : BitVec 5) (b : BitVec 5) (x : BitVec 1) : Statement (.vmul z m d a b x) := by
  refine tile_of [(2, x.toNat), (32, b.toNat), (32, a.toNat), (32, d.toNat), (64, 2), (8, m.toNat), (2, z.toNat), (32, 15)] (f := (.vmul z m d a b x)) rfl rfl rfl (k := 1006764032 + z.toNat * 33554432 + m.toNat * 4194304 + d.toNat * 2048 + a.toNat * 64 + b.toNat * 2 + x.toNat) rfl
    ⟨x.isLt, b.isLt, a.isLt, d.isLt, by decide, m.isLt, z.isLt, by decide, trivial⟩ (fun e => by simp only [pack]; omega) ?_
  rintro w hwf ⟨g0, g1, g2, g3, g4, g5, g6, g7, -⟩
  rw [Nat.div_one] at g0
  rw [decode, g7, decode0F.eq_def, g4]
  exact accept_ok rfl (by simp only [g0, g1, g2, g3, g5, g6, BitVec.ofNat_toNat, BitVec.setWidth_eq]) hwf

theorem vmulh (z : BitVec 1) (m : BitVec 3) (d : BitVec 5) (a : BitVec 5) (b : BitVec 5) (x : BitVec 1) : Statement (.vmulh z m d a b x) := by
  refine tile_of [(2, x.toNat), (32, b.toNat), (32, a.toNat), (32, d.toNat), (64, 3), (8, m.toNat), (2, z.toNat), (32, 15)] (f := (.vmulh z m d a b x)) rfl rfl rfl (k := 1006829568 + z.toNat * 33554432 + m.toNat * 4194304 + d.toNat * 2048 + a.toNat * 64 + b.toNat * 2 + x.toNat) rfl
    ⟨x.isLt, b.isLt, a.isLt, d.isLt, by decide, m.isLt, z.isLt, by decide, trivial⟩ (fun e => by simp only [pack]; omega) ?_
  rintro w hwf ⟨g0, g1, g2, g3, g4, g5, g6, g7, -⟩
  rw [Nat.div_one] at g0
  rw [decode, g7, decode0F.eq_def, g4]
  exact accept_ok rfl (by simp only [g0, g1, g2, g3, g5, g6, BitVec.ofNat_toNat, BitVec.setWidth_eq]) hwf

theorem vand (z : BitVec 1) (m : BitVec 3) (d : BitVec 5) (a : BitVec 5) (b : BitVec 5) (x : BitVec 1) : Statement (.vand z m d a b x) := by
  refine tile_of [(2, x.toNat), (32, b.toNat), (32, a.toNat), (32, d.toNat), (64, 4), (8, m.toNat), (2, z.toNat), (32, 15)] (f := (.vand z m d a b x)) rfl rfl rfl (k := 1006895104 + z.toNat * 33554432 + m.toNat * 4194304 + d.toNat * 2048 + a.toNat * 64 + b.toNat * 2 + x.toNat) rfl
    ⟨x.isLt, b.isLt, a.isLt, d.isLt, by decide, m.isLt, z.isLt, by decide, trivial⟩ (fun e => by simp only [pack]; omega) ?_
  rintro w hwf ⟨g0, g1, g2, g3, g4, g5, g6, g7, -⟩
  rw [Nat.div_one] at g0
  rw [decode, g7, decode0F.eq_def, g4]
  exact accept_ok rfl (by simp only [g0, g1, g2, g3, g5, g6, BitVec.ofNat_toNat, BitVec.setWidth_eq]) hwf

theorem vor (z : BitVec 1) (m : BitVec 3) (d : BitVec 5) (a : BitVec 5) (b : BitVec 5) (x : BitVec 1) : Statement (.vor z m d a b x) := by
  refine tile_of [(2, x.toNat), (32, b.toNat), (32, a.toNat), (32, d.toNat), (64, 5), (8, m.toNat), (2, z.toNat), (32, 15)] (f := (.vor z m d a b x)) rfl rfl rfl (k := 1006960640 + z.toNat * 33554432 + m.toNat * 4194304 + d.toNat * 2048 + a.toNat * 64 + b.toNat * 2 + x.toNat) rfl
    ⟨x.isLt, b.isLt, a.isLt, d.isLt, by decide, m.isLt, z.isLt, by decide, trivial⟩ (fun e => by simp only [pack]; omega) ?_
  rintro w hwf ⟨g0, g1, g2, g3, g4, g5, g6, g7, -⟩
  rw [Nat.div_one] at g0
  rw [decode, g7, decode0F.eq_def, g4]
  exact accept_ok rfl (by simp only [g0, g1, g2, g3, g5, g6, BitVec.ofNat_toNat, BitVec.setWidth_eq]) hwf

theorem vxor (z : BitVec 1) (m : BitVec 3) (d : BitVec 5) (a : BitVec 5) (b : BitVec 5) (x : BitVec 1) : Statement (.vxor z m d a b x) := by
  refine tile_of [(2, x.toNat), (32, b.toNat), (32, a.toNat), (32, d.toNat), (64, 6), (8, m.toNat), (2, z.toNat), (32, 15)] (f := (.vxor z m d a b x)) rfl rfl rfl (k := 1007026176 + z.toNat * 33554432 + m.toNat * 4194304 + d.toNat * 2048 + a.toNat * 64 + b.toNat * 2 + x.toNat) rfl
    ⟨x.isLt, b.isLt, a.isLt, d.isLt, by decide, m.isLt, z.isLt, by decide, trivial⟩ (fun e => by simp only [pack]; omega) ?_
  rintro w hwf ⟨g0, g1, g2, g3, g4, g5, g6, g7, -⟩
  rw [Nat.div_one] at g0
  rw [decode, g7, decode0F.eq_def, g4]
  exact accept_ok rfl (by simp only [g0, g1, g2, g3, g5, g6, BitVec.ofNat_toNat, BitVec.setWidth_eq]) hwf

theorem vshl (z : BitVec 1) (m : BitVec 3) (d : BitVec 5) (a : BitVec 5) (b : BitVec 5) (x : BitVec 1) : Statement (.vshl z m d a b x) := by
  refine tile_of [(2, x.toNat), (32, b.toNat), (32, a.toNat), (32, d.toNat), (64, 7), (8, m.toNat), (2, z.toNat), (32, 15)] (f := (.vshl z m d a b x)) rfl rfl rfl (k := 1007091712 + z.toNat * 33554432 + m.toNat * 4194304 + d.toNat * 2048 + a.toNat * 64 + b.toNat * 2 + x.toNat) rfl
    ⟨x.isLt, b.isLt, a.isLt, d.isLt, by decide, m.isLt, z.isLt, by decide, trivial⟩ (fun e => by simp only [pack]; omega) ?_
  rintro w hwf ⟨g0, g1, g2, g3, g4, g5, g6, g7, -⟩
  rw [Nat.div_one] at g0
  rw [decode, g7, decode0F.eq_def, g4]
  exact accept_ok rfl (by simp only [g0, g1, g2, g3, g5, g6, BitVec.ofNat_toNat, BitVec.setWidth_eq]) hwf

theorem vshr (z : BitVec 1) (m : BitVec 3) (d : BitVec 5) (a : BitVec 5) (b : BitVec 5) (x : BitVec 1) : Statement (.vshr z m d a b x) := by
  refine tile_of [(2, x.toNat), (32, b.toNat), (32, a.toNat), (32, d.toNat), (64, 8), (8, m.toNat), (2, z.toNat), (32, 15)] (f := (.vshr z m d a b x)) rfl rfl rfl (k := 1007157248 + z.toNat * 33554432 + m.toNat * 4194304 + d.toNat * 2048 + a.toNat * 64 + b.toNat * 2 + x.toNat) rfl
    ⟨x.isLt, b.isLt, a.isLt, d.isLt, by decide, m.isLt, z.isLt, by decide, trivial⟩ (fun e => by simp only [pack]; omega) ?_
  rintro w hwf ⟨g0, g1, g2, g3, g4, g5, g6, g7, -⟩
  rw [Nat.div_one] at g0
  rw [decode, g7, decode0F.eq_def, g4]
  exact accept_ok rfl (by simp only [g0, g1, g2, g3, g5, g6, BitVec.ofNat_toNat, BitVec.setWidth_eq]) hwf

theorem vsar (z : BitVec 1) (m : BitVec 3) (d : BitVec 5) (a : BitVec 5) (b : BitVec 5) (x : BitVec 1) : Statement (.vsar z m d a b x) := by
  refine tile_of [(2, x.toNat), (32, b.toNat), (32, a.toNat), (32, d.toNat), (64, 9), (8, m.toNat), (2, z.toNat), (32, 15)] (f := (.vsar z m d a b x)) rfl rfl rfl (k := 1007222784 + z.toNat * 33554432 + m.toNat * 4194304 + d.toNat * 2048 + a.toNat * 64 + b.toNat * 2 + x.toNat) rfl
    ⟨x.isLt, b.isLt, a.isLt, d.isLt, by decide, m.isLt, z.isLt, by decide, trivial⟩ (fun e => by simp only [pack]; omega) ?_
  rintro w hwf ⟨g0, g1, g2, g3, g4, g5, g6, g7, -⟩
  rw [Nat.div_one] at g0
  rw [decode, g7, decode0F.eq_def, g4]
  exact accept_ok rfl (by simp only [g0, g1, g2, g3, g5, g6, BitVec.ofNat_toNat, BitVec.setWidth_eq]) hwf

theorem vmin (z : BitVec 1) (m : BitVec 3) (d : BitVec 5) (a : BitVec 5) (b : BitVec 5) (x : BitVec 1) : Statement (.vmin z m d a b x) := by
  refine tile_of [(2, x.toNat), (32, b.toNat), (32, a.toNat), (32, d.toNat), (64, 10), (8, m.toNat), (2, z.toNat), (32, 15)] (f := (.vmin z m d a b x)) rfl rfl rfl (k := 1007288320 + z.toNat * 33554432 + m.toNat * 4194304 + d.toNat * 2048 + a.toNat * 64 + b.toNat * 2 + x.toNat) rfl
    ⟨x.isLt, b.isLt, a.isLt, d.isLt, by decide, m.isLt, z.isLt, by decide, trivial⟩ (fun e => by simp only [pack]; omega) ?_
  rintro w hwf ⟨g0, g1, g2, g3, g4, g5, g6, g7, -⟩
  rw [Nat.div_one] at g0
  rw [decode, g7, decode0F.eq_def, g4]
  exact accept_ok rfl (by simp only [g0, g1, g2, g3, g5, g6, BitVec.ofNat_toNat, BitVec.setWidth_eq]) hwf

theorem vmax (z : BitVec 1) (m : BitVec 3) (d : BitVec 5) (a : BitVec 5) (b : BitVec 5) (x : BitVec 1) : Statement (.vmax z m d a b x) := by
  refine tile_of [(2, x.toNat), (32, b.toNat), (32, a.toNat), (32, d.toNat), (64, 11), (8, m.toNat), (2, z.toNat), (32, 15)] (f := (.vmax z m d a b x)) rfl rfl rfl (k := 1007353856 + z.toNat * 33554432 + m.toNat * 4194304 + d.toNat * 2048 + a.toNat * 64 + b.toNat * 2 + x.toNat) rfl
    ⟨x.isLt, b.isLt, a.isLt, d.isLt, by decide, m.isLt, z.isLt, by decide, trivial⟩ (fun e => by simp only [pack]; omega) ?_
  rintro w hwf ⟨g0, g1, g2, g3, g4, g5, g6, g7, -⟩
  rw [Nat.div_one] at g0
  rw [decode, g7, decode0F.eq_def, g4]
  exact accept_ok rfl (by simp only [g0, g1, g2, g3, g5, g6, BitVec.ofNat_toNat, BitVec.setWidth_eq]) hwf

theorem vadds (z : BitVec 1) (m : BitVec 3) (d : BitVec 5) (a : BitVec 5) (b : BitVec 5) (x : BitVec 1) : Statement (.vadds z m d a b x) := by
  refine tile_of [(2, x.toNat), (32, b.toNat), (32, a.toNat), (32, d.toNat), (64, 12), (8, m.toNat), (2, z.toNat), (32, 15)] (f := (.vadds z m d a b x)) rfl rfl rfl (k := 1007419392 + z.toNat * 33554432 + m.toNat * 4194304 + d.toNat * 2048 + a.toNat * 64 + b.toNat * 2 + x.toNat) rfl
    ⟨x.isLt, b.isLt, a.isLt, d.isLt, by decide, m.isLt, z.isLt, by decide, trivial⟩ (fun e => by simp only [pack]; omega) ?_
  rintro w hwf ⟨g0, g1, g2, g3, g4, g5, g6, g7, -⟩
  rw [Nat.div_one] at g0
  rw [decode, g7, decode0F.eq_def, g4]
  exact accept_ok rfl (by simp only [g0, g1, g2, g3, g5, g6, BitVec.ofNat_toNat, BitVec.setWidth_eq]) hwf

theorem vsubs (z : BitVec 1) (m : BitVec 3) (d : BitVec 5) (a : BitVec 5) (b : BitVec 5) (x : BitVec 1) : Statement (.vsubs z m d a b x) := by
  refine tile_of [(2, x.toNat), (32, b.toNat), (32, a.toNat), (32, d.toNat), (64, 13), (8, m.toNat), (2, z.toNat), (32, 15)] (f := (.vsubs z m d a b x)) rfl rfl rfl (k := 1007484928 + z.toNat * 33554432 + m.toNat * 4194304 + d.toNat * 2048 + a.toNat * 64 + b.toNat * 2 + x.toNat) rfl
    ⟨x.isLt, b.isLt, a.isLt, d.isLt, by decide, m.isLt, z.isLt, by decide, trivial⟩ (fun e => by simp only [pack]; omega) ?_
  rintro w hwf ⟨g0, g1, g2, g3, g4, g5, g6, g7, -⟩
  rw [Nat.div_one] at g0
  rw [decode, g7, decode0F.eq_def, g4]
  exact accept_ok rfl (by simp only [g0, g1, g2, g3, g5, g6, BitVec.ofNat_toNat, BitVec.setWidth_eq]) hwf

theorem vabs (z : BitVec 1) (m : BitVec 3) (d : BitVec 5) (a : BitVec 5) : Statement (.vabs z m d a) := by
  refine tile_of [(64, 0), (32, a.toNat), (32, d.toNat), (64, 14), (8, m.toNat), (2, z.toNat), (32, 15)] (f := (.vabs z m d a)) rfl rfl rfl (k := 1007550464 + z.toNat * 33554432 + m.toNat * 4194304 + d.toNat * 2048 + a.toNat * 64) rfl
    ⟨by decide, a.isLt, d.isLt, by decide, m.isLt, z.isLt, by decide, trivial⟩ (fun e => by simp only [pack]; omega) ?_
  rintro w hwf ⟨g0, g1, g2, g3, g4, g5, g6, -⟩
  rw [Nat.div_one] at g0
  rw [decode, g6, decode0F.eq_def, g3]
  exact accept_ok (by rw [g0]; rfl) (by simp only [g1, g2, g4, g5, BitVec.ofNat_toNat, BitVec.setWidth_eq]) hwf

theorem vmadw (z : BitVec 1) (m : BitVec 3) (d : BitVec 5) (a : BitVec 5) (b : BitVec 5) (x : BitVec 1) : Statement (.vmadw z m d a b x) := by
  refine tile_of [(2, x.toNat), (32, b.toNat), (32, a.toNat), (32, d.toNat), (64, 15), (8, m.toNat), (2, z.toNat), (32, 15)] (f := (.vmadw z m d a b x)) rfl rfl rfl (k := 1007616000 + z.toNat * 33554432 + m.toNat * 4194304 + d.toNat * 2048 + a.toNat * 64 + b.toNat * 2 + x.toNat) rfl
    ⟨x.isLt, b.isLt, a.isLt, d.isLt, by decide, m.isLt, z.isLt, by decide, trivial⟩ (fun e => by simp only [pack]; omega) ?_
  rintro w hwf ⟨g0, g1, g2, g3, g4, g5, g6, g7, -⟩
  rw [Nat.div_one] at g0
  rw [decode, g7, decode0F.eq_def, g4]
  exact accept_ok rfl (by simp only [g0, g1, g2, g3, g5, g6, BitVec.ofNat_toNat, BitVec.setWidth_eq]) hwf

theorem vfadd (z : BitVec 1) (m : BitVec 3) (d : BitVec 5) (a : BitVec 5) (b : BitVec 5) (x : BitVec 1) : Statement (.vfadd z m d a b x) := by
  refine tile_of [(2, x.toNat), (32, b.toNat), (32, a.toNat), (32, d.toNat), (64, 0), (8, m.toNat), (2, z.toNat), (32, 16)] (f := (.vfadd z m d a b x)) rfl rfl rfl (k := 1073741824 + z.toNat * 33554432 + m.toNat * 4194304 + d.toNat * 2048 + a.toNat * 64 + b.toNat * 2 + x.toNat) rfl
    ⟨x.isLt, b.isLt, a.isLt, d.isLt, by decide, m.isLt, z.isLt, by decide, trivial⟩ (fun e => by simp only [pack]; omega) ?_
  rintro w hwf ⟨g0, g1, g2, g3, g4, g5, g6, g7, -⟩
  rw [Nat.div_one] at g0
  rw [decode, g7, decode10.eq_def, g4]
  exact accept_ok rfl (by simp only [g0, g1, g2, g3, g5, g6, BitVec.ofNat_toNat, BitVec.setWidth_eq]) hwf

theorem vfsub (z : BitVec 1) (m : BitVec 3) (d : BitVec 5) (a : BitVec 5) (b : BitVec 5) (x : BitVec 1) : Statement (.vfsub z m d a b x) := by
  refine tile_of [(2, x.toNat), (32, b.toNat), (32, a.toNat), (32, d.toNat), (64, 1), (8, m.toNat), (2, z.toNat), (32, 16)] (f := (.vfsub z m d a b x)) rfl rfl rfl (k := 1073807360 + z.toNat * 33554432 + m.toNat * 4194304 + d.toNat * 2048 + a.toNat * 64 + b.toNat * 2 + x.toNat) rfl
    ⟨x.isLt, b.isLt, a.isLt, d.isLt, by decide, m.isLt, z.isLt, by decide, trivial⟩ (fun e => by simp only [pack]; omega) ?_
  rintro w hwf ⟨g0, g1, g2, g3, g4, g5, g6, g7, -⟩
  rw [Nat.div_one] at g0
  rw [decode, g7, decode10.eq_def, g4]
  exact accept_ok rfl (by simp only [g0, g1, g2, g3, g5, g6, BitVec.ofNat_toNat, BitVec.setWidth_eq]) hwf

theorem vfmul (z : BitVec 1) (m : BitVec 3) (d : BitVec 5) (a : BitVec 5) (b : BitVec 5) (x : BitVec 1) : Statement (.vfmul z m d a b x) := by
  refine tile_of [(2, x.toNat), (32, b.toNat), (32, a.toNat), (32, d.toNat), (64, 2), (8, m.toNat), (2, z.toNat), (32, 16)] (f := (.vfmul z m d a b x)) rfl rfl rfl (k := 1073872896 + z.toNat * 33554432 + m.toNat * 4194304 + d.toNat * 2048 + a.toNat * 64 + b.toNat * 2 + x.toNat) rfl
    ⟨x.isLt, b.isLt, a.isLt, d.isLt, by decide, m.isLt, z.isLt, by decide, trivial⟩ (fun e => by simp only [pack]; omega) ?_
  rintro w hwf ⟨g0, g1, g2, g3, g4, g5, g6, g7, -⟩
  rw [Nat.div_one] at g0
  rw [decode, g7, decode10.eq_def, g4]
  exact accept_ok rfl (by simp only [g0, g1, g2, g3, g5, g6, BitVec.ofNat_toNat, BitVec.setWidth_eq]) hwf

theorem vfma (z : BitVec 1) (m : BitVec 3) (d : BitVec 5) (a : BitVec 5) (b : BitVec 5) (x : BitVec 1) : Statement (.vfma z m d a b x) := by
  refine tile_of [(2, x.toNat), (32, b.toNat), (32, a.toNat), (32, d.toNat), (64, 3), (8, m.toNat), (2, z.toNat), (32, 16)] (f := (.vfma z m d a b x)) rfl rfl rfl (k := 1073938432 + z.toNat * 33554432 + m.toNat * 4194304 + d.toNat * 2048 + a.toNat * 64 + b.toNat * 2 + x.toNat) rfl
    ⟨x.isLt, b.isLt, a.isLt, d.isLt, by decide, m.isLt, z.isLt, by decide, trivial⟩ (fun e => by simp only [pack]; omega) ?_
  rintro w hwf ⟨g0, g1, g2, g3, g4, g5, g6, g7, -⟩
  rw [Nat.div_one] at g0
  rw [decode, g7, decode10.eq_def, g4]
  exact accept_ok rfl (by simp only [g0, g1, g2, g3, g5, g6, BitVec.ofNat_toNat, BitVec.setWidth_eq]) hwf

theorem vfms (z : BitVec 1) (m : BitVec 3) (d : BitVec 5) (a : BitVec 5) (b : BitVec 5) (x : BitVec 1) : Statement (.vfms z m d a b x) := by
  refine tile_of [(2, x.toNat), (32, b.toNat), (32, a.toNat), (32, d.toNat), (64, 4), (8, m.toNat), (2, z.toNat), (32, 16)] (f := (.vfms z m d a b x)) rfl rfl rfl (k := 1074003968 + z.toNat * 33554432 + m.toNat * 4194304 + d.toNat * 2048 + a.toNat * 64 + b.toNat * 2 + x.toNat) rfl
    ⟨x.isLt, b.isLt, a.isLt, d.isLt, by decide, m.isLt, z.isLt, by decide, trivial⟩ (fun e => by simp only [pack]; omega) ?_
  rintro w hwf ⟨g0, g1, g2, g3, g4, g5, g6, g7, -⟩
  rw [Nat.div_one] at g0
  rw [decode, g7, decode10.eq_def, g4]
  exact accept_ok rfl (by simp only [g0, g1, g2, g3, g5, g6, BitVec.ofNat_toNat, BitVec.setWidth_eq]) hwf

theorem vfnma (z : BitVec 1) (m : BitVec 3) (d : BitVec 5) (a : BitVec 5) (b : BitVec 5) (x : BitVec 1) : Statement (.vfnma z m d a b x) := by
  refine tile_of [(2, x.toNat), (32, b.toNat), (32, a.toNat), (32, d.toNat), (64, 5), (8, m.toNat), (2, z.toNat), (32, 16)] (f := (.vfnma z m d a b x)) rfl rfl rfl (k := 1074069504 + z.toNat * 33554432 + m.toNat * 4194304 + d.toNat * 2048 + a.toNat * 64 + b.toNat * 2 + x.toNat) rfl
    ⟨x.isLt, b.isLt, a.isLt, d.isLt, by decide, m.isLt, z.isLt, by decide, trivial⟩ (fun e => by simp only [pack]; omega) ?_
  rintro w hwf ⟨g0, g1, g2, g3, g4, g5, g6, g7, -⟩
  rw [Nat.div_one] at g0
  rw [decode, g7, decode10.eq_def, g4]
  exact accept_ok rfl (by simp only [g0, g1, g2, g3, g5, g6, BitVec.ofNat_toNat, BitVec.setWidth_eq]) hwf

theorem vfmin (z : BitVec 1) (m : BitVec 3) (d : BitVec 5) (a : BitVec 5) (b : BitVec 5) (x : BitVec 1) : Statement (.vfmin z m d a b x) := by
  refine tile_of [(2, x.toNat), (32, b.toNat), (32, a.toNat), (32, d.toNat), (64, 6), (8, m.toNat), (2, z.toNat), (32, 16)] (f := (.vfmin z m d a b x)) rfl rfl rfl (k := 1074135040 + z.toNat * 33554432 + m.toNat * 4194304 + d.toNat * 2048 + a.toNat * 64 + b.toNat * 2 + x.toNat) rfl
    ⟨x.isLt, b.isLt, a.isLt, d.isLt, by decide, m.isLt, z.isLt, by decide, trivial⟩ (fun e => by simp only [pack]; omega) ?_
  rintro w hwf ⟨g0, g1, g2, g3, g4, g5, g6, g7, -⟩
  rw [Nat.div_one] at g0
  rw [decode, g7, decode10.eq_def, g4]
  exact accept_ok rfl (by simp only [g0, g1, g2, g3, g5, g6, BitVec.ofNat_toNat, BitVec.setWidth_eq]) hwf

theorem vfmax (z : BitVec 1) (m : BitVec 3) (d : BitVec 5) (a : BitVec 5) (b : BitVec 5) (x : BitVec 1) : Statement (.vfmax z m d a b x) := by
  refine tile_of [(2, x.toNat), (32, b.toNat), (32, a.toNat), (32, d.toNat), (64, 7), (8, m.toNat), (2, z.toNat), (32, 16)] (f := (.vfmax z m d a b x)) rfl rfl rfl (k := 1074200576 + z.toNat * 33554432 + m.toNat * 4194304 + d.toNat * 2048 + a.toNat * 64 + b.toNat * 2 + x.toNat) rfl
    ⟨x.isLt, b.isLt, a.isLt, d.isLt, by decide, m.isLt, z.isLt, by decide, trivial⟩ (fun e => by simp only [pack]; omega) ?_
  rintro w hwf ⟨g0, g1, g2, g3, g4, g5, g6, g7, -⟩
  rw [Nat.div_one] at g0
  rw [decode, g7, decode10.eq_def, g4]
  exact accept_ok rfl (by simp only [g0, g1, g2, g3, g5, g6, BitVec.ofNat_toNat, BitVec.setWidth_eq]) hwf

theorem vfabs (z : BitVec 1) (m : BitVec 3) (d : BitVec 5) (a : BitVec 5) : Statement (.vfabs z m d a) := by
  refine tile_of [(64, 0), (32, a.toNat), (32, d.toNat), (64, 8), (8, m.toNat), (2, z.toNat), (32, 16)] (f := (.vfabs z m d a)) rfl rfl rfl (k := 1074266112 + z.toNat * 33554432 + m.toNat * 4194304 + d.toNat * 2048 + a.toNat * 64) rfl
    ⟨by decide, a.isLt, d.isLt, by decide, m.isLt, z.isLt, by decide, trivial⟩ (fun e => by simp only [pack]; omega) ?_
  rintro w hwf ⟨g0, g1, g2, g3, g4, g5, g6, -⟩
  rw [Nat.div_one] at g0
  rw [decode, g6, decode10.eq_def, g3]
  exact accept_ok (by rw [g0]; rfl) (by simp only [g1, g2, g4, g5, BitVec.ofNat_toNat, BitVec.setWidth_eq]) hwf

theorem vfneg (z : BitVec 1) (m : BitVec 3) (d : BitVec 5) (a : BitVec 5) : Statement (.vfneg z m d a) := by
  refine tile_of [(64, 0), (32, a.toNat), (32, d.toNat), (64, 9), (8, m.toNat), (2, z.toNat), (32, 16)] (f := (.vfneg z m d a)) rfl rfl rfl (k := 1074331648 + z.toNat * 33554432 + m.toNat * 4194304 + d.toNat * 2048 + a.toNat * 64) rfl
    ⟨by decide, a.isLt, d.isLt, by decide, m.isLt, z.isLt, by decide, trivial⟩ (fun e => by simp only [pack]; omega) ?_
  rintro w hwf ⟨g0, g1, g2, g3, g4, g5, g6, -⟩
  rw [Nat.div_one] at g0
  rw [decode, g6, decode10.eq_def, g3]
  exact accept_ok (by rw [g0]; rfl) (by simp only [g1, g2, g4, g5, BitVec.ofNat_toNat, BitVec.setWidth_eq]) hwf

theorem vcmpEq (z : BitVec 1) (m : BitVec 3) (d : BitVec 3) (a : BitVec 5) (b : BitVec 5) (x : BitVec 1) : Statement (.vcmpEq z m d a b x) := by
  refine tile_of [(2, x.toNat), (4, 0), (32, b.toNat), (32, a.toNat), (8, d.toNat), (64, 0), (8, m.toNat), (2, z.toNat), (32, 17)] (f := (.vcmpEq z m d a b x)) rfl rfl rfl (k := 1140850688 + z.toNat * 33554432 + m.toNat * 4194304 + d.toNat * 8192 + a.toNat * 256 + b.toNat * 8 + x.toNat) rfl
    ⟨x.isLt, by decide, b.isLt, a.isLt, d.isLt, by decide, m.isLt, z.isLt, by decide, trivial⟩ (fun e => by simp only [pack]; omega) ?_
  rintro w hwf ⟨g0, g1, g2, g3, g4, g5, g6, g7, g8, -⟩
  rw [Nat.div_one] at g0
  rw [decode, g8, decode11.eq_def, g5]
  simp only [g1]
  exact accept_ok rfl (by simp only [g0, g2, g3, g4, g6, g7, BitVec.ofNat_toNat, BitVec.setWidth_eq]) hwf

theorem vcmpNe (z : BitVec 1) (m : BitVec 3) (d : BitVec 3) (a : BitVec 5) (b : BitVec 5) (x : BitVec 1) : Statement (.vcmpNe z m d a b x) := by
  refine tile_of [(2, x.toNat), (4, 1), (32, b.toNat), (32, a.toNat), (8, d.toNat), (64, 0), (8, m.toNat), (2, z.toNat), (32, 17)] (f := (.vcmpNe z m d a b x)) rfl rfl rfl (k := 1140850690 + z.toNat * 33554432 + m.toNat * 4194304 + d.toNat * 8192 + a.toNat * 256 + b.toNat * 8 + x.toNat) rfl
    ⟨x.isLt, by decide, b.isLt, a.isLt, d.isLt, by decide, m.isLt, z.isLt, by decide, trivial⟩ (fun e => by simp only [pack]; omega) ?_
  rintro w hwf ⟨g0, g1, g2, g3, g4, g5, g6, g7, g8, -⟩
  rw [Nat.div_one] at g0
  rw [decode, g8, decode11.eq_def, g5]
  simp only [g1]
  exact accept_ok rfl (by simp only [g0, g2, g3, g4, g6, g7, BitVec.ofNat_toNat, BitVec.setWidth_eq]) hwf

theorem vcmpLt (z : BitVec 1) (m : BitVec 3) (d : BitVec 3) (a : BitVec 5) (b : BitVec 5) (x : BitVec 1) : Statement (.vcmpLt z m d a b x) := by
  refine tile_of [(2, x.toNat), (4, 2), (32, b.toNat), (32, a.toNat), (8, d.toNat), (64, 0), (8, m.toNat), (2, z.toNat), (32, 17)] (f := (.vcmpLt z m d a b x)) rfl rfl rfl (k := 1140850692 + z.toNat * 33554432 + m.toNat * 4194304 + d.toNat * 8192 + a.toNat * 256 + b.toNat * 8 + x.toNat) rfl
    ⟨x.isLt, by decide, b.isLt, a.isLt, d.isLt, by decide, m.isLt, z.isLt, by decide, trivial⟩ (fun e => by simp only [pack]; omega) ?_
  rintro w hwf ⟨g0, g1, g2, g3, g4, g5, g6, g7, g8, -⟩
  rw [Nat.div_one] at g0
  rw [decode, g8, decode11.eq_def, g5]
  simp only [g1]
  exact accept_ok rfl (by simp only [g0, g2, g3, g4, g6, g7, BitVec.ofNat_toNat, BitVec.setWidth_eq]) hwf

theorem vcmpGe (z : BitVec 1) (m : BitVec 3) (d : BitVec 3) (a : BitVec 5) (b : BitVec 5) (x : BitVec 1) : Statement (.vcmpGe z m d a b x) := by
  refine tile_of [(2, x.toNat), (4, 3), (32, b.toNat), (32, a.toNat), (8, d.toNat), (64, 0), (8, m.toNat), (2, z.toNat), (32, 17)] (f := (.vcmpGe z m d a b x)) rfl rfl rfl (k := 1140850694 + z.toNat * 33554432 + m.toNat * 4194304 + d.toNat * 8192 + a.toNat * 256 + b.toNat * 8 + x.toNat) rfl
    ⟨x.isLt, by decide, b.isLt, a.isLt, d.isLt, by decide, m.isLt, z.isLt, by decide, trivial⟩ (fun e => by simp only [pack]; omega) ?_
  rintro w hwf ⟨g0, g1, g2, g3, g4, g5, g6, g7, g8, -⟩
  rw [Nat.div_one] at g0
  rw [decode, g8, decode11.eq_def, g5]
  simp only [g1]
  exact accept_ok rfl (by simp only [g0, g2, g3, g4, g6, g7, BitVec.ofNat_toNat, BitVec.setWidth_eq]) hwf

theorem vfcmpEq (z : BitVec 1) (m : BitVec 3) (d : BitVec 3) (a : BitVec 5) (b : BitVec 5) (x : BitVec 1) : Statement (.vfcmpEq z m d a b x) := by
  refine tile_of [(2, x.toNat), (4, 0), (32, b.toNat), (32, a.toNat), (8, d.toNat), (64, 1), (8, m.toNat), (2, z.toNat), (32, 17)] (f := (.vfcmpEq z m d a b x)) rfl rfl rfl (k := 1140916224 + z.toNat * 33554432 + m.toNat * 4194304 + d.toNat * 8192 + a.toNat * 256 + b.toNat * 8 + x.toNat) rfl
    ⟨x.isLt, by decide, b.isLt, a.isLt, d.isLt, by decide, m.isLt, z.isLt, by decide, trivial⟩ (fun e => by simp only [pack]; omega) ?_
  rintro w hwf ⟨g0, g1, g2, g3, g4, g5, g6, g7, g8, -⟩
  rw [Nat.div_one] at g0
  rw [decode, g8, decode11.eq_def, g5]
  simp only [g1]
  exact accept_ok rfl (by simp only [g0, g2, g3, g4, g6, g7, BitVec.ofNat_toNat, BitVec.setWidth_eq]) hwf

theorem vfcmpNe (z : BitVec 1) (m : BitVec 3) (d : BitVec 3) (a : BitVec 5) (b : BitVec 5) (x : BitVec 1) : Statement (.vfcmpNe z m d a b x) := by
  refine tile_of [(2, x.toNat), (4, 1), (32, b.toNat), (32, a.toNat), (8, d.toNat), (64, 1), (8, m.toNat), (2, z.toNat), (32, 17)] (f := (.vfcmpNe z m d a b x)) rfl rfl rfl (k := 1140916226 + z.toNat * 33554432 + m.toNat * 4194304 + d.toNat * 8192 + a.toNat * 256 + b.toNat * 8 + x.toNat) rfl
    ⟨x.isLt, by decide, b.isLt, a.isLt, d.isLt, by decide, m.isLt, z.isLt, by decide, trivial⟩ (fun e => by simp only [pack]; omega) ?_
  rintro w hwf ⟨g0, g1, g2, g3, g4, g5, g6, g7, g8, -⟩
  rw [Nat.div_one] at g0
  rw [decode, g8, decode11.eq_def, g5]
  simp only [g1]
  exact accept_ok rfl (by simp only [g0, g2, g3, g4, g6, g7, BitVec.ofNat_toNat, BitVec.setWidth_eq]) hwf

theorem vfcmpLt (z : BitVec 1) (m : BitVec 3) (d : BitVec 3) (a : BitVec 5) (b : BitVec 5) (x : BitVec 1) : Statement (.vfcmpLt z m d a b x) := by
  refine tile_of [(2, x.toNat), (4, 2), (32, b.toNat), (32, a.toNat), (8, d.toNat), (64, 1), (8, m.toNat), (2, z.toNat), (32, 17)] (f := (.vfcmpLt z m d a b x)) rfl rfl rfl (k := 1140916228 + z.toNat * 33554432 + m.toNat * 4194304 + d.toNat * 8192 + a.toNat * 256 + b.toNat * 8 + x.toNat) rfl
    ⟨x.isLt, by decide, b.isLt, a.isLt, d.isLt, by decide, m.isLt, z.isLt, by decide, trivial⟩ (fun e => by simp only [pack]; omega) ?_
  rintro w hwf ⟨g0, g1, g2, g3, g4, g5, g6, g7, g8, -⟩
  rw [Nat.div_one] at g0
  rw [decode, g8, decode11.eq_def, g5]
  simp only [g1]
  exact accept_ok rfl (by simp only [g0, g2, g3, g4, g6, g7, BitVec.ofNat_toNat, BitVec.setWidth_eq]) hwf

theorem vfcmpGe (z : BitVec 1) (m : BitVec 3) (d : BitVec 3) (a : BitVec 5) (b : BitVec 5) (x : BitVec 1) : Statement (.vfcmpGe z m d a b x) := by
  refine tile_of [(2, x.toNat), (4, 3), (32, b.toNat), (32, a.toNat), (8, d.toNat), (64, 1), (8, m.toNat), (2, z.toNat), (32, 17)] (f := (.vfcmpGe z m d a b x)) rfl rfl rfl (k := 1140916230 + z.toNat * 33554432 + m.toNat * 4194304 + d.toNat * 8192 + a.toNat * 256 + b.toNat * 8 + x.toNat) rfl
    ⟨x.isLt, by decide, b.isLt, a.isLt, d.isLt, by decide, m.isLt, z.isLt, by decide, trivial⟩ (fun e => by simp only [pack]; omega) ?_
  rintro w hwf ⟨g0, g1, g2, g3, g4, g5, g6, g7, g8, -⟩
  rw [Nat.div_one] at g0
  rw [decode, g8, decode11.eq_def, g5]
  simp only [g1]
  exact accept_ok rfl (by simp only [g0, g2, g3, g4, g6, g7, BitVec.ofNat_toNat, BitVec.setWidth_eq]) hwf

theorem vsel (m : BitVec 3) (d : BitVec 5) (a : BitVec 5) (b : BitVec 5) (x : BitVec 1) : Statement (.vsel m d a b x) := by
  refine tile_of [(2, x.toNat), (32, b.toNat), (32, a.toNat), (32, d.toNat), (64, 2), (8, m.toNat), (2, 0), (32, 17)] (f := (.vsel m d a b x)) rfl rfl rfl (k := 1140981760 + m.toNat * 4194304 + d.toNat * 2048 + a.toNat * 64 + b.toNat * 2 + x.toNat) rfl
    ⟨x.isLt, b.isLt, a.isLt, d.isLt, by decide, m.isLt, by decide, by decide, trivial⟩ (fun e => by simp only [pack]; omega) ?_
  rintro w hwf ⟨g0, g1, g2, g3, g4, g5, g6, g7, -⟩
  rw [Nat.div_one] at g0
  rw [decode, g7, decode11.eq_def, g4]
  exact accept_ok (by rw [g6]; rfl) (by simp only [g0, g1, g2, g3, g5, BitVec.ofNat_toNat, BitVec.setWidth_eq]) hwf

theorem mand (d : BitVec 3) (a : BitVec 3) (b : BitVec 3) : Statement (.mand d a b) := by
  refine tile_of [(128, 0), (8, b.toNat), (8, a.toNat), (8, d.toNat), (64, 3), (16, 0), (32, 17)] (f := (.mand d a b)) rfl rfl rfl (k := 1141047296 + d.toNat * 8192 + a.toNat * 1024 + b.toNat * 128) rfl
    ⟨by decide, b.isLt, a.isLt, d.isLt, by decide, by decide, by decide, trivial⟩ (fun e => by simp only [pack]; omega) ?_
  rintro w hwf ⟨g0, g1, g2, g3, g4, g5, g6, -⟩
  rw [Nat.div_one] at g0
  rw [decode, g6, decode11.eq_def, g4]
  exact accept_ok (by rw [g0, g5]; rfl) (by simp only [g1, g2, g3, BitVec.ofNat_toNat, BitVec.setWidth_eq]) hwf

theorem mor (d : BitVec 3) (a : BitVec 3) (b : BitVec 3) : Statement (.mor d a b) := by
  refine tile_of [(128, 0), (8, b.toNat), (8, a.toNat), (8, d.toNat), (64, 4), (16, 0), (32, 17)] (f := (.mor d a b)) rfl rfl rfl (k := 1141112832 + d.toNat * 8192 + a.toNat * 1024 + b.toNat * 128) rfl
    ⟨by decide, b.isLt, a.isLt, d.isLt, by decide, by decide, by decide, trivial⟩ (fun e => by simp only [pack]; omega) ?_
  rintro w hwf ⟨g0, g1, g2, g3, g4, g5, g6, -⟩
  rw [Nat.div_one] at g0
  rw [decode, g6, decode11.eq_def, g4]
  exact accept_ok (by rw [g0, g5]; rfl) (by simp only [g1, g2, g3, BitVec.ofNat_toNat, BitVec.setWidth_eq]) hwf

theorem mxor (d : BitVec 3) (a : BitVec 3) (b : BitVec 3) : Statement (.mxor d a b) := by
  refine tile_of [(128, 0), (8, b.toNat), (8, a.toNat), (8, d.toNat), (64, 5), (16, 0), (32, 17)] (f := (.mxor d a b)) rfl rfl rfl (k := 1141178368 + d.toNat * 8192 + a.toNat * 1024 + b.toNat * 128) rfl
    ⟨by decide, b.isLt, a.isLt, d.isLt, by decide, by decide, by decide, trivial⟩ (fun e => by simp only [pack]; omega) ?_
  rintro w hwf ⟨g0, g1, g2, g3, g4, g5, g6, -⟩
  rw [Nat.div_one] at g0
  rw [decode, g6, decode11.eq_def, g4]
  exact accept_ok (by rw [g0, g5]; rfl) (by simp only [g1, g2, g3, BitVec.ofNat_toNat, BitVec.setWidth_eq]) hwf

theorem mnot (d : BitVec 3) (a : BitVec 3) : Statement (.mnot d a) := by
  refine tile_of [(1024, 0), (8, a.toNat), (8, d.toNat), (64, 6), (16, 0), (32, 17)] (f := (.mnot d a)) rfl rfl rfl (k := 1141243904 + d.toNat * 8192 + a.toNat * 1024) rfl
    ⟨by decide, a.isLt, d.isLt, by decide, by decide, by decide, trivial⟩ (fun e => by simp only [pack]; omega) ?_
  rintro w hwf ⟨g0, g1, g2, g3, g4, g5, -⟩
  rw [Nat.div_one] at g0
  rw [decode, g5, decode11.eq_def, g3]
  exact accept_ok (by rw [g0, g4]; rfl) (by simp only [g1, g2, BitVec.ofNat_toNat, BitVec.setWidth_eq]) hwf

theorem mcnt (d : BitVec 5) (a : BitVec 3) : Statement (.mcnt d a) := by
  refine tile_of [(256, 0), (8, a.toNat), (32, d.toNat), (64, 7), (16, 0), (32, 17)] (f := (.mcnt d a)) rfl rfl rfl (k := 1141309440 + d.toNat * 2048 + a.toNat * 256) rfl
    ⟨by decide, a.isLt, d.isLt, by decide, by decide, by decide, trivial⟩ (fun e => by simp only [pack]; omega) ?_
  rintro w hwf ⟨g0, g1, g2, g3, g4, g5, -⟩
  rw [Nat.div_one] at g0
  rw [decode, g5, decode11.eq_def, g3]
  exact accept_ok (by rw [g0, g4]; rfl) (by simp only [g1, g2, BitVec.ofNat_toNat, BitVec.setWidth_eq]) hwf

theorem mffs (d : BitVec 5) (a : BitVec 3) : Statement (.mffs d a) := by
  refine tile_of [(256, 0), (8, a.toNat), (32, d.toNat), (64, 8), (16, 0), (32, 17)] (f := (.mffs d a)) rfl rfl rfl (k := 1141374976 + d.toNat * 2048 + a.toNat * 256) rfl
    ⟨by decide, a.isLt, d.isLt, by decide, by decide, by decide, trivial⟩ (fun e => by simp only [pack]; omega) ?_
  rintro w hwf ⟨g0, g1, g2, g3, g4, g5, -⟩
  rw [Nat.div_one] at g0
  rw [decode, g5, decode11.eq_def, g3]
  exact accept_ok (by rw [g0, g4]; rfl) (by simp only [g1, g2, BitVec.ofNat_toNat, BitVec.setWidth_eq]) hwf

theorem vcvt (z : BitVec 1) (m : BitVec 3) (d : BitVec 5) (a : BitVec 5) : Statement (.vcvt z m d a) := by
  refine tile_of [(64, 0), (32, a.toNat), (32, d.toNat), (64, 0), (8, m.toNat), (2, z.toNat), (32, 18)] (f := (.vcvt z m d a)) rfl rfl rfl (k := 1207959552 + z.toNat * 33554432 + m.toNat * 4194304 + d.toNat * 2048 + a.toNat * 64) rfl
    ⟨by decide, a.isLt, d.isLt, by decide, m.isLt, z.isLt, by decide, trivial⟩ (fun e => by simp only [pack]; omega) ?_
  rintro w hwf ⟨g0, g1, g2, g3, g4, g5, g6, -⟩
  rw [Nat.div_one] at g0
  rw [decode, g6, decode12.eq_def, g3]
  exact accept_ok (by rw [g0]; rfl) (by simp only [g1, g2, g4, g5, BitVec.ofNat_toNat, BitVec.setWidth_eq]) hwf

theorem vcvtw (z : BitVec 1) (m : BitVec 3) (d : BitVec 5) (a : BitVec 5) : Statement (.vcvtw z m d a) := by
  refine tile_of [(64, 0), (32, a.toNat), (32, d.toNat), (64, 1), (8, m.toNat), (2, z.toNat), (32, 18)] (f := (.vcvtw z m d a)) rfl rfl rfl (k := 1208025088 + z.toNat * 33554432 + m.toNat * 4194304 + d.toNat * 2048 + a.toNat * 64) rfl
    ⟨by decide, a.isLt, d.isLt, by decide, m.isLt, z.isLt, by decide, trivial⟩ (fun e => by simp only [pack]; omega) ?_
  rintro w hwf ⟨g0, g1, g2, g3, g4, g5, g6, -⟩
  rw [Nat.div_one] at g0
  rw [decode, g6, decode12.eq_def, g3]
  exact accept_ok (by rw [g0]; rfl) (by simp only [g1, g2, g4, g5, BitVec.ofNat_toNat, BitVec.setWidth_eq]) hwf

theorem vcvtn (z : BitVec 1) (m : BitVec 3) (d : BitVec 5) (a : BitVec 5) : Statement (.vcvtn z m d a) := by
  refine tile_of [(64, 0), (32, a.toNat), (32, d.toNat), (64, 2), (8, m.toNat), (2, z.toNat), (32, 18)] (f := (.vcvtn z m d a)) rfl rfl rfl (k := 1208090624 + z.toNat * 33554432 + m.toNat * 4194304 + d.toNat * 2048 + a.toNat * 64) rfl
    ⟨by decide, a.isLt, d.isLt, by decide, m.isLt, z.isLt, by decide, trivial⟩ (fun e => by simp only [pack]; omega) ?_
  rintro w hwf ⟨g0, g1, g2, g3, g4, g5, g6, -⟩
  rw [Nat.div_one] at g0
  rw [decode, g6, decode12.eq_def, g3]
  exact accept_ok (by rw [g0]; rfl) (by simp only [g1, g2, g4, g5, BitVec.ofNat_toNat, BitVec.setWidth_eq]) hwf

theorem vperm (z : BitVec 1) (m : BitVec 3) (d : BitVec 5) (a : BitVec 5) (b : BitVec 5) (x : BitVec 1) : Statement (.vperm z m d a b x) := by
  refine tile_of [(2, x.toNat), (32, b.toNat), (32, a.toNat), (32, d.toNat), (64, 0), (8, m.toNat), (2, z.toNat), (32, 19)] (f := (.vperm z m d a b x)) rfl rfl rfl (k := 1275068416 + z.toNat * 33554432 + m.toNat * 4194304 + d.toNat * 2048 + a.toNat * 64 + b.toNat * 2 + x.toNat) rfl
    ⟨x.isLt, b.isLt, a.isLt, d.isLt, by decide, m.isLt, z.isLt, by decide, trivial⟩ (fun e => by simp only [pack]; omega) ?_
  rintro w hwf ⟨g0, g1, g2, g3, g4, g5, g6, g7, -⟩
  rw [Nat.div_one] at g0
  rw [decode, g7, decode13.eq_def, g4]
  exact accept_ok rfl (by simp only [g0, g1, g2, g3, g5, g6, BitVec.ofNat_toNat, BitVec.setWidth_eq]) hwf

theorem vslide (z : BitVec 1) (m : BitVec 3) (d : BitVec 5) (a : BitVec 5) (b : BitVec 5) : Statement (.vslide z m d a b) := by
  refine tile_of [(2, 0), (32, b.toNat), (32, a.toNat), (32, d.toNat), (64, 1), (8, m.toNat), (2, z.toNat), (32, 19)] (f := (.vslide z m d a b)) rfl rfl rfl (k := 1275133952 + z.toNat * 33554432 + m.toNat * 4194304 + d.toNat * 2048 + a.toNat * 64 + b.toNat * 2) rfl
    ⟨by decide, b.isLt, a.isLt, d.isLt, by decide, m.isLt, z.isLt, by decide, trivial⟩ (fun e => by simp only [pack]; omega) ?_
  rintro w hwf ⟨g0, g1, g2, g3, g4, g5, g6, g7, -⟩
  rw [Nat.div_one] at g0
  rw [decode, g7, decode13.eq_def, g4]
  exact accept_ok (by rw [g0]; rfl) (by simp only [g1, g2, g3, g5, g6, BitVec.ofNat_toNat, BitVec.setWidth_eq]) hwf

theorem vredsum (z : BitVec 1) (m : BitVec 3) (d : BitVec 5) (a : BitVec 5) : Statement (.vredsum z m d a) := by
  refine tile_of [(64, 0), (32, a.toNat), (32, d.toNat), (64, 2), (8, m.toNat), (2, z.toNat), (32, 19)] (f := (.vredsum z m d a)) rfl rfl rfl (k := 1275199488 + z.toNat * 33554432 + m.toNat * 4194304 + d.toNat * 2048 + a.toNat * 64) rfl
    ⟨by decide, a.isLt, d.isLt, by decide, m.isLt, z.isLt, by decide, trivial⟩ (fun e => by simp only [pack]; omega) ?_
  rintro w hwf ⟨g0, g1, g2, g3, g4, g5, g6, -⟩
  rw [Nat.div_one] at g0
  rw [decode, g6, decode13.eq_def, g3]
  exact accept_ok (by rw [g0]; rfl) (by simp only [g1, g2, g4, g5, BitVec.ofNat_toNat, BitVec.setWidth_eq]) hwf

theorem vfredsum (z : BitVec 1) (m : BitVec 3) (d : BitVec 5) (a : BitVec 5) : Statement (.vfredsum z m d a) := by
  refine tile_of [(64, 0), (32, a.toNat), (32, d.toNat), (64, 3), (8, m.toNat), (2, z.toNat), (32, 19)] (f := (.vfredsum z m d a)) rfl rfl rfl (k := 1275265024 + z.toNat * 33554432 + m.toNat * 4194304 + d.toNat * 2048 + a.toNat * 64) rfl
    ⟨by decide, a.isLt, d.isLt, by decide, m.isLt, z.isLt, by decide, trivial⟩ (fun e => by simp only [pack]; omega) ?_
  rintro w hwf ⟨g0, g1, g2, g3, g4, g5, g6, -⟩
  rw [Nat.div_one] at g0
  rw [decode, g6, decode13.eq_def, g3]
  exact accept_ok (by rw [g0]; rfl) (by simp only [g1, g2, g4, g5, BitVec.ofNat_toNat, BitVec.setWidth_eq]) hwf

theorem vredmax (z : BitVec 1) (m : BitVec 3) (d : BitVec 5) (a : BitVec 5) : Statement (.vredmax z m d a) := by
  refine tile_of [(64, 0), (32, a.toNat), (32, d.toNat), (64, 4), (8, m.toNat), (2, z.toNat), (32, 19)] (f := (.vredmax z m d a)) rfl rfl rfl (k := 1275330560 + z.toNat * 33554432 + m.toNat * 4194304 + d.toNat * 2048 + a.toNat * 64) rfl
    ⟨by decide, a.isLt, d.isLt, by decide, m.isLt, z.isLt, by decide, trivial⟩ (fun e => by simp only [pack]; omega) ?_
  rintro w hwf ⟨g0, g1, g2, g3, g4, g5, g6, -⟩
  rw [Nat.div_one] at g0
  rw [decode, g6, decode13.eq_def, g3]
  exact accept_ok (by rw [g0]; rfl) (by simp only [g1, g2, g4, g5, BitVec.ofNat_toNat, BitVec.setWidth_eq]) hwf

theorem vredmin (z : BitVec 1) (m : BitVec 3) (d : BitVec 5) (a : BitVec 5) : Statement (.vredmin z m d a) := by
  refine tile_of [(64, 0), (32, a.toNat), (32, d.toNat), (64, 5), (8, m.toNat), (2, z.toNat), (32, 19)] (f := (.vredmin z m d a)) rfl rfl rfl (k := 1275396096 + z.toNat * 33554432 + m.toNat * 4194304 + d.toNat * 2048 + a.toNat * 64) rfl
    ⟨by decide, a.isLt, d.isLt, by decide, m.isLt, z.isLt, by decide, trivial⟩ (fun e => by simp only [pack]; omega) ?_
  rintro w hwf ⟨g0, g1, g2, g3, g4, g5, g6, -⟩
  rw [Nat.div_one] at g0
  rw [decode, g6, decode13.eq_def, g3]
  exact accept_ok (by rw [g0]; rfl) (by simp only [g1, g2, g4, g5, BitVec.ofNat_toNat, BitVec.setWidth_eq]) hwf

theorem vext (d : BitVec 5) (a : BitVec 5) (b : BitVec 5) : Statement (.vext d a b) := by
  refine tile_of [(2, 0), (32, b.toNat), (32, a.toNat), (32, d.toNat), (64, 6), (16, 0), (32, 19)] (f := (.vext d a b)) rfl rfl rfl (k := 1275461632 + d.toNat * 2048 + a.toNat * 64 + b.toNat * 2) rfl
    ⟨by decide, b.isLt, a.isLt, d.isLt, by decide, by decide, by decide, trivial⟩ (fun e => by simp only [pack]; omega) ?_
  rintro w hwf ⟨g0, g1, g2, g3, g4, g5, g6, -⟩
  rw [Nat.div_one] at g0
  rw [decode, g6, decode13.eq_def, g4]
  exact accept_ok (by rw [g0, g5]; rfl) (by simp only [g1, g2, g3, BitVec.ofNat_toNat, BitVec.setWidth_eq]) hwf

theorem vins (d : BitVec 5) (a : BitVec 5) (b : BitVec 5) : Statement (.vins d a b) := by
  refine tile_of [(2, 0), (32, b.toNat), (32, a.toNat), (32, d.toNat), (64, 7), (16, 0), (32, 19)] (f := (.vins d a b)) rfl rfl rfl (k := 1275527168 + d.toNat * 2048 + a.toNat * 64 + b.toNat * 2) rfl
    ⟨by decide, b.isLt, a.isLt, d.isLt, by decide, by decide, by decide, trivial⟩ (fun e => by simp only [pack]; omega) ?_
  rintro w hwf ⟨g0, g1, g2, g3, g4, g5, g6, -⟩
  rw [Nat.div_one] at g0
  rw [decode, g6, decode13.eq_def, g4]
  exact accept_ok (by rw [g0, g5]; rfl) (by simp only [g1, g2, g3, BitVec.ofNat_toNat, BitVec.setWidth_eq]) hwf

theorem vbcast (z : BitVec 1) (m : BitVec 3) (d : BitVec 5) (a : BitVec 5) : Statement (.vbcast z m d a) := by
  refine tile_of [(64, 0), (32, a.toNat), (32, d.toNat), (64, 8), (8, m.toNat), (2, z.toNat), (32, 19)] (f := (.vbcast z m d a)) rfl rfl rfl (k := 1275592704 + z.toNat * 33554432 + m.toNat * 4194304 + d.toNat * 2048 + a.toNat * 64) rfl
    ⟨by decide, a.isLt, d.isLt, by decide, m.isLt, z.isLt, by decide, trivial⟩ (fun e => by simp only [pack]; omega) ?_
  rintro w hwf ⟨g0, g1, g2, g3, g4, g5, g6, -⟩
  rw [Nat.div_one] at g0
  rw [decode, g6, decode13.eq_def, g3]
  exact accept_ok (by rw [g0]; rfl) (by simp only [g1, g2, g4, g5, BitVec.ofNat_toNat, BitVec.setWidth_eq]) hwf

theorem vrcp (z : BitVec 1) (m : BitVec 3) (d : BitVec 5) (a : BitVec 5) : Statement (.vrcp z m d a) := by
  refine tile_of [(64, 0), (32, a.toNat), (32, d.toNat), (64, 0), (8, m.toNat), (2, z.toNat), (32, 20)] (f := (.vrcp z m d a)) rfl rfl rfl (k := 1342177280 + z.toNat * 33554432 + m.toNat * 4194304 + d.toNat * 2048 + a.toNat * 64) rfl
    ⟨by decide, a.isLt, d.isLt, by decide, m.isLt, z.isLt, by decide, trivial⟩ (fun e => by simp only [pack]; omega) ?_
  rintro w hwf ⟨g0, g1, g2, g3, g4, g5, g6, -⟩
  rw [Nat.div_one] at g0
  rw [decode, g6, decode14.eq_def, g3]
  exact accept_ok (by rw [g0]; rfl) (by simp only [g1, g2, g4, g5, BitVec.ofNat_toNat, BitVec.setWidth_eq]) hwf

theorem vrsqrt (z : BitVec 1) (m : BitVec 3) (d : BitVec 5) (a : BitVec 5) : Statement (.vrsqrt z m d a) := by
  refine tile_of [(64, 0), (32, a.toNat), (32, d.toNat), (64, 1), (8, m.toNat), (2, z.toNat), (32, 20)] (f := (.vrsqrt z m d a)) rfl rfl rfl (k := 1342242816 + z.toNat * 33554432 + m.toNat * 4194304 + d.toNat * 2048 + a.toNat * 64) rfl
    ⟨by decide, a.isLt, d.isLt, by decide, m.isLt, z.isLt, by decide, trivial⟩ (fun e => by simp only [pack]; omega) ?_
  rintro w hwf ⟨g0, g1, g2, g3, g4, g5, g6, -⟩
  rw [Nat.div_one] at g0
  rw [decode, g6, decode14.eq_def, g3]
  exact accept_ok (by rw [g0]; rfl) (by simp only [g1, g2, g4, g5, BitVec.ofNat_toNat, BitVec.setWidth_eq]) hwf

theorem vsqrt (z : BitVec 1) (m : BitVec 3) (d : BitVec 5) (a : BitVec 5) : Statement (.vsqrt z m d a) := by
  refine tile_of [(64, 0), (32, a.toNat), (32, d.toNat), (64, 2), (8, m.toNat), (2, z.toNat), (32, 20)] (f := (.vsqrt z m d a)) rfl rfl rfl (k := 1342308352 + z.toNat * 33554432 + m.toNat * 4194304 + d.toNat * 2048 + a.toNat * 64) rfl
    ⟨by decide, a.isLt, d.isLt, by decide, m.isLt, z.isLt, by decide, trivial⟩ (fun e => by simp only [pack]; omega) ?_
  rintro w hwf ⟨g0, g1, g2, g3, g4, g5, g6, -⟩
  rw [Nat.div_one] at g0
  rw [decode, g6, decode14.eq_def, g3]
  exact accept_ok (by rw [g0]; rfl) (by simp only [g1, g2, g4, g5, BitVec.ofNat_toNat, BitVec.setWidth_eq]) hwf

theorem vexp2 (z : BitVec 1) (m : BitVec 3) (d : BitVec 5) (a : BitVec 5) : Statement (.vexp2 z m d a) := by
  refine tile_of [(64, 0), (32, a.toNat), (32, d.toNat), (64, 3), (8, m.toNat), (2, z.toNat), (32, 20)] (f := (.vexp2 z m d a)) rfl rfl rfl (k := 1342373888 + z.toNat * 33554432 + m.toNat * 4194304 + d.toNat * 2048 + a.toNat * 64) rfl
    ⟨by decide, a.isLt, d.isLt, by decide, m.isLt, z.isLt, by decide, trivial⟩ (fun e => by simp only [pack]; omega) ?_
  rintro w hwf ⟨g0, g1, g2, g3, g4, g5, g6, -⟩
  rw [Nat.div_one] at g0
  rw [decode, g6, decode14.eq_def, g3]
  exact accept_ok (by rw [g0]; rfl) (by simp only [g1, g2, g4, g5, BitVec.ofNat_toNat, BitVec.setWidth_eq]) hwf

theorem vlog2 (z : BitVec 1) (m : BitVec 3) (d : BitVec 5) (a : BitVec 5) : Statement (.vlog2 z m d a) := by
  refine tile_of [(64, 0), (32, a.toNat), (32, d.toNat), (64, 4), (8, m.toNat), (2, z.toNat), (32, 20)] (f := (.vlog2 z m d a)) rfl rfl rfl (k := 1342439424 + z.toNat * 33554432 + m.toNat * 4194304 + d.toNat * 2048 + a.toNat * 64) rfl
    ⟨by decide, a.isLt, d.isLt, by decide, m.isLt, z.isLt, by decide, trivial⟩ (fun e => by simp only [pack]; omega) ?_
  rintro w hwf ⟨g0, g1, g2, g3, g4, g5, g6, -⟩
  rw [Nat.div_one] at g0
  rw [decode, g6, decode14.eq_def, g3]
  exact accept_ok (by rw [g0]; rfl) (by simp only [g1, g2, g4, g5, BitVec.ofNat_toNat, BitVec.setWidth_eq]) hwf

theorem vclipq (z : BitVec 1) (m : BitVec 3) (d : BitVec 5) (a : BitVec 5) (b : BitVec 5) : Statement (.vclipq z m d a b) := by
  refine tile_of [(2, 1), (32, b.toNat), (32, a.toNat), (32, d.toNat), (64, 5), (8, m.toNat), (2, z.toNat), (32, 20)] (f := (.vclipq z m d a b)) rfl rfl rfl (k := 1342504961 + z.toNat * 33554432 + m.toNat * 4194304 + d.toNat * 2048 + a.toNat * 64 + b.toNat * 2) rfl
    ⟨by decide, b.isLt, a.isLt, d.isLt, by decide, m.isLt, z.isLt, by decide, trivial⟩ (fun e => by simp only [pack]; omega) ?_
  rintro w hwf ⟨g0, g1, g2, g3, g4, g5, g6, g7, -⟩
  rw [Nat.div_one] at g0
  rw [decode, g7, decode14.eq_def, g4]
  exact accept_ok (by rw [g0]; rfl) (by simp only [g1, g2, g3, g5, g6, BitVec.ofNat_toNat, BitVec.setWidth_eq]) hwf

theorem vnormq (z : BitVec 1) (m : BitVec 3) (d : BitVec 5) (a : BitVec 5) (b : BitVec 5) : Statement (.vnormq z m d a b) := by
  refine tile_of [(2, 1), (32, b.toNat), (32, a.toNat), (32, d.toNat), (64, 6), (8, m.toNat), (2, z.toNat), (32, 20)] (f := (.vnormq z m d a b)) rfl rfl rfl (k := 1342570497 + z.toNat * 33554432 + m.toNat * 4194304 + d.toNat * 2048 + a.toNat * 64 + b.toNat * 2) rfl
    ⟨by decide, b.isLt, a.isLt, d.isLt, by decide, m.isLt, z.isLt, by decide, trivial⟩ (fun e => by simp only [pack]; omega) ?_
  rintro w hwf ⟨g0, g1, g2, g3, g4, g5, g6, g7, -⟩
  rw [Nat.div_one] at g0
  rw [decode, g7, decode14.eq_def, g4]
  exact accept_ok (by rw [g0]; rfl) (by simp only [g1, g2, g3, g5, g6, BitVec.ofNat_toNat, BitVec.setWidth_eq]) hwf

theorem vrot : Statement .vrot := by
  refine tile_of [(65536, 0), (64, 0), (16, 0), (32, 21)] (f := .vrot) rfl rfl rfl (k := 1409286144) rfl
    ⟨by decide, by decide, by decide, by decide, trivial⟩ (fun e => by simp only [pack]; omega) ?_
  rintro w hwf ⟨g0, g1, g2, g3, -⟩
  rw [Nat.div_one] at g0
  rw [decode, g3, decode15.eq_def, g1]
  exact accept_ok (by rw [g0, g2]; rfl) rfl hwf

theorem stgset (a : BitVec 5) : Statement (.stgset a) := by
  refine tile_of [(2048, 0), (32, a.toNat), (64, 1), (16, 0), (32, 21)] (f := (.stgset a)) rfl rfl rfl (k := 1409351680 + a.toNat * 2048) rfl
    ⟨by decide, a.isLt, by decide, by decide, by decide, trivial⟩ (fun e => by simp only [pack]; omega) ?_
  rintro w hwf ⟨g0, g1, g2, g3, g4, -⟩
  rw [Nat.div_one] at g0
  rw [decode, g4, decode15.eq_def, g2]
  exact accept_ok (by rw [g0, g3]; rfl) (by simp only [g1, BitVec.ofNat_toNat, BitVec.setWidth_eq]) hwf

theorem stgshift (a : BitVec 5) : Statement (.stgshift a) := by
  refine tile_of [(2048, 0), (32, a.toNat), (64, 2), (16, 0), (32, 21)] (f := (.stgshift a)) rfl rfl rfl (k := 1409417216 + a.toNat * 2048) rfl
    ⟨by decide, a.isLt, by decide, by decide, by decide, trivial⟩ (fun e => by simp only [pack]; omega) ?_
  rintro w hwf ⟨g0, g1, g2, g3, g4, -⟩
  rw [Nat.div_one] at g0
  rw [decode, g4, decode15.eq_def, g2]
  exact accept_ok (by rw [g0, g3]; rfl) (by simp only [g1, BitVec.ofNat_toNat, BitVec.setWidth_eq]) hwf

theorem bnLd (q : BitVec 4) (a : BitVec 4) (n : BitVec 3) : Statement (.bnLd q a n) := by
  refine tile_of [(1024, 0), (8, n.toNat), (16, a.toNat), (32, 0), (16, q.toNat), (32, 22)] (f := (.bnLd q a n)) rfl rfl rfl (k := 1476395008 + q.toNat * 4194304 + a.toNat * 8192 + n.toNat * 1024) rfl
    ⟨by decide, n.isLt, a.isLt, by decide, q.isLt, by decide, trivial⟩ (fun e => by simp only [pack]; omega) ?_
  rintro w hwf ⟨g0, g1, g2, g3, g4, g5, -⟩
  rw [Nat.div_one] at g0
  rw [decode, g5, decode16.eq_def, g3]
  exact accept_ok (by rw [g0]; rfl) (by simp only [g1, g2, g4, BitVec.ofNat_toNat, BitVec.setWidth_eq]) hwf

theorem bnRt (q : BitVec 4) (d : BitVec 5) (a : BitVec 4) (n : BitVec 3) : Statement (.bnRt q d a n) := by
  refine tile_of [(16, 0), (8, n.toNat), (2, 0), (16, a.toNat), (32, d.toNat), (32, 1), (16, q.toNat), (32, 22)] (f := (.bnRt q d a n)) rfl rfl rfl (k := 1476526080 + q.toNat * 4194304 + d.toNat * 4096 + a.toNat * 256 + n.toNat * 16) rfl
    ⟨by decide, n.isLt, by decide, a.isLt, d.isLt, by decide, q.isLt, by decide, trivial⟩ (fun e => by simp only [pack]; omega) ?_
  rintro w hwf ⟨g0, g1, g2, g3, g4, g5, g6, g7, -⟩
  rw [Nat.div_one] at g0
  rw [decode, g7, decode16.eq_def, g5]
  exact accept_ok (by rw [g0, g2]; rfl) (by simp only [g1, g3, g4, g6, BitVec.ofNat_toNat, BitVec.setWidth_eq]) hwf

theorem bnRto (q : BitVec 4) (d : BitVec 5) (a : BitVec 4) (n : BitVec 3) : Statement (.bnRto q d a n) := by
  refine tile_of [(16, 0), (8, n.toNat), (2, 0), (16, a.toNat), (32, d.toNat), (32, 2), (16, q.toNat), (32, 22)] (f := (.bnRto q d a n)) rfl rfl rfl (k := 1476657152 + q.toNat * 4194304 + d.toNat * 4096 + a.toNat * 256 + n.toNat * 16) rfl
    ⟨by decide, n.isLt, by decide, a.isLt, d.isLt, by decide, q.isLt, by decide, trivial⟩ (fun e => by simp only [pack]; omega) ?_
  rintro w hwf ⟨g0, g1, g2, g3, g4, g5, g6, g7, -⟩
  rw [Nat.div_one] at g0
  rw [decode, g7, decode16.eq_def, g5]
  exact accept_ok (by rw [g0, g2]; rfl) (by simp only [g1, g3, g4, g6, BitVec.ofNat_toNat, BitVec.setWidth_eq]) hwf

theorem bnInv (q : BitVec 4) (i : BitVec 8) : Statement (.bnInv q i) := by
  refine tile_of [(256, i.toNat), (512, 0), (32, 3), (16, q.toNat), (32, 22)] (f := (.bnInv q i)) rfl rfl rfl (k := 1476788224 + q.toNat * 4194304 + i.toNat) rfl
    ⟨i.isLt, by decide, by decide, q.isLt, by decide, trivial⟩ (fun e => by simp only [pack]; omega) ?_
  rintro w hwf ⟨g0, g1, g2, g3, g4, -⟩
  rw [Nat.div_one] at g0
  rw [decode, g4, decode16.eq_def, g2]
  exact accept_ok (by rw [g1]; rfl) (by simp only [g0, g3, BitVec.ofNat_toNat, BitVec.setWidth_eq]) hwf

theorem bnRd (q : BitVec 4) (d : BitVec 5) (n : BitVec 3) : Statement (.bnRd q d n) := by
  refine tile_of [(16, 0), (8, n.toNat), (32, 0), (32, d.toNat), (32, 4), (16, q.toNat), (32, 22)] (f := (.bnRd q d n)) rfl rfl rfl (k := 1476919296 + q.toNat * 4194304 + d.toNat * 4096 + n.toNat * 16) rfl
    ⟨by decide, n.isLt, by decide, d.isLt, by decide, q.isLt, by decide, trivial⟩ (fun e => by simp only [pack]; omega) ?_
  rintro w hwf ⟨g0, g1, g2, g3, g4, g5, g6, -⟩
  rw [Nat.div_one] at g0
  rw [decode, g6, decode16.eq_def, g4]
  exact accept_ok (by rw [g0, g2]; rfl) (by simp only [g1, g3, g5, BitVec.ofNat_toNat, BitVec.setWidth_eq]) hwf

theorem skInit (q : BitVec 4) (a : BitVec 4) (b : BitVec 5) : Statement (.skInit q a b) := by
  refine tile_of [(256, 0), (32, b.toNat), (16, a.toNat), (32, 0), (16, q.toNat), (32, 23)] (f := (.skInit q a b)) rfl rfl rfl (k := 1543503872 + q.toNat * 4194304 + a.toNat * 8192 + b.toNat * 256) rfl
    ⟨by decide, b.isLt, a.isLt, by decide, q.isLt, by decide, trivial⟩ (fun e => by simp only [pack]; omega) ?_
  rintro w hwf ⟨g0, g1, g2, g3, g4, g5, -⟩
  rw [Nat.div_one] at g0
  rw [decode, g5, decode17.eq_def, g3]
  exact accept_ok (by rw [g0]; rfl) (by simp only [g1, g2, g4, BitVec.ofNat_toNat, BitVec.setWidth_eq]) hwf

theorem skQadd (q : BitVec 4) (a : BitVec 4) (v : BitVec 5) (b : BitVec 5) : Statement (.skQadd q a v b) := by
  refine tile_of [(8, 0), (32, b.toNat), (32, v.toNat), (16, a.toNat), (32, 1), (16, q.toNat), (32, 23)] (f := (.skQadd q a v b)) rfl rfl rfl (k := 1543634944 + q.toNat * 4194304 + a.toNat * 8192 + v.toNat * 256 + b.toNat * 8) rfl
    ⟨by decide, b.isLt, v.isLt, a.isLt, by decide, q.isLt, by decide, trivial⟩ (fun e => by simp only [pack]; omega) ?_
  rintro w hwf ⟨g0, g1, g2, g3, g4, g5, g6, -⟩
  rw [Nat.div_one] at g0
  rw [decode, g6, decode17.eq_def, g4]
  exact accept_ok (by rw [g0]; rfl) (by simp only [g1, g2, g3, g5, BitVec.ofNat_toNat, BitVec.setWidth_eq]) hwf

theorem skHadd (q : BitVec 4) (a : BitVec 4) (v : BitVec 5) (b : BitVec 5) : Statement (.skHadd q a v b) := by
  refine tile_of [(8, 0), (32, b.toNat), (32, v.toNat), (16, a.toNat), (32, 2), (16, q.toNat), (32, 23)] (f := (.skHadd q a v b)) rfl rfl rfl (k := 1543766016 + q.toNat * 4194304 + a.toNat * 8192 + v.toNat * 256 + b.toNat * 8) rfl
    ⟨by decide, b.isLt, v.isLt, a.isLt, by decide, q.isLt, by decide, trivial⟩ (fun e => by simp only [pack]; omega) ?_
  rintro w hwf ⟨g0, g1, g2, g3, g4, g5, g6, -⟩
  rw [Nat.div_one] at g0
  rw [decode, g6, decode17.eq_def, g4]
  exact accept_ok (by rw [g0]; rfl) (by simp only [g1, g2, g3, g5, BitVec.ofNat_toNat, BitVec.setWidth_eq]) hwf

theorem skDadd (q : BitVec 4) (a : BitVec 4) (v : BitVec 5) (b : BitVec 5) : Statement (.skDadd q a v b) := by
  refine tile_of [(8, 0), (32, b.toNat), (32, v.toNat), (16, a.toNat), (32, 3), (16, q.toNat), (32, 23)] (f := (.skDadd q a v b)) rfl rfl rfl (k := 1543897088 + q.toNat * 4194304 + a.toNat * 8192 + v.toNat * 256 + b.toNat * 8) rfl
    ⟨by decide, b.isLt, v.isLt, a.isLt, by decide, q.isLt, by decide, trivial⟩ (fun e => by simp only [pack]; omega) ?_
  rintro w hwf ⟨g0, g1, g2, g3, g4, g5, g6, -⟩
  rw [Nat.div_one] at g0
  rw [decode, g6, decode17.eq_def, g4]
  exact accept_ok (by rw [g0]; rfl) (by simp only [g1, g2, g3, g5, BitVec.ofNat_toNat, BitVec.setWidth_eq]) hwf

theorem skMerge (q : BitVec 4) (a : BitVec 4) (b : BitVec 4) : Statement (.skMerge q a b) := by
  refine tile_of [(512, 0), (16, b.toNat), (16, a.toNat), (32, 4), (16, q.toNat), (32, 23)] (f := (.skMerge q a b)) rfl rfl rfl (k := 1544028160 + q.toNat * 4194304 + a.toNat * 8192 + b.toNat * 512) rfl
    ⟨by decide, b.isLt, a.isLt, by decide, q.isLt, by decide, trivial⟩ (fun e => by simp only [pack]; omega) ?_
  rintro w hwf ⟨g0, g1, g2, g3, g4, g5, -⟩
  rw [Nat.div_one] at g0
  rw [decode, g5, decode17.eq_def, g3]
  exact accept_ok (by rw [g0]; rfl) (by simp only [g1, g2, g4, BitVec.ofNat_toNat, BitVec.setWidth_eq]) hwf

theorem skCompact (q : BitVec 4) (a : BitVec 4) (b : BitVec 5) : Statement (.skCompact q a b) := by
  refine tile_of [(256, 0), (32, b.toNat), (16, a.toNat), (32, 5), (16, q.toNat), (32, 23)] (f := (.skCompact q a b)) rfl rfl rfl (k := 1544159232 + q.toNat * 4194304 + a.toNat * 8192 + b.toNat * 256) rfl
    ⟨by decide, b.isLt, a.isLt, by decide, q.isLt, by decide, trivial⟩ (fun e => by simp only [pack]; omega) ?_
  rintro w hwf ⟨g0, g1, g2, g3, g4, g5, -⟩
  rw [Nat.div_one] at g0
  rw [decode, g5, decode17.eq_def, g3]
  exact accept_ok (by rw [g0]; rfl) (by simp only [g1, g2, g4, BitVec.ofNat_toNat, BitVec.setWidth_eq]) hwf

theorem skQuant (q : BitVec 4) (a : BitVec 4) (d : BitVec 5) (b : BitVec 5) : Statement (.skQuant q a d b) := by
  refine tile_of [(8, 0), (32, b.toNat), (32, d.toNat), (16, a.toNat), (32, 6), (16, q.toNat), (32, 23)] (f := (.skQuant q a d b)) rfl rfl rfl (k := 1544290304 + q.toNat * 4194304 + a.toNat * 8192 + d.toNat * 256 + b.toNat * 8) rfl
    ⟨by decide, b.isLt, d.isLt, a.isLt, by decide, q.isLt, by decide, trivial⟩ (fun e => by simp only [pack]; omega) ?_
  rintro w hwf ⟨g0, g1, g2, g3, g4, g5, g6, -⟩
  rw [Nat.div_one] at g0
  rw [decode, g6, decode17.eq_def, g4]
  exact accept_ok (by rw [g0]; rfl) (by simp only [g1, g2, g3, g5, BitVec.ofNat_toNat, BitVec.setWidth_eq]) hwf

theorem skRank (q : BitVec 4) (a : BitVec 4) (d : BitVec 5) (b : BitVec 5) : Statement (.skRank q a d b) := by
  refine tile_of [(8, 0), (32, b.toNat), (32, d.toNat), (16, a.toNat), (32, 7), (16, q.toNat), (32, 23)] (f := (.skRank q a d b)) rfl rfl rfl (k := 1544421376 + q.toNat * 4194304 + a.toNat * 8192 + d.toNat * 256 + b.toNat * 8) rfl
    ⟨by decide, b.isLt, d.isLt, a.isLt, by decide, q.isLt, by decide, trivial⟩ (fun e => by simp only [pack]; omega) ?_
  rintro w hwf ⟨g0, g1, g2, g3, g4, g5, g6, -⟩
  rw [Nat.div_one] at g0
  rw [decode, g6, decode17.eq_def, g4]
  exact accept_ok (by rw [g0]; rfl) (by simp only [g1, g2, g3, g5, BitVec.ofNat_toNat, BitVec.setWidth_eq]) hwf

theorem skTop (q : BitVec 4) (a : BitVec 4) (d : BitVec 5) (b : BitVec 5) : Statement (.skTop q a d b) := by
  refine tile_of [(8, 0), (32, b.toNat), (32, d.toNat), (16, a.toNat), (32, 8), (16, q.toNat), (32, 23)] (f := (.skTop q a d b)) rfl rfl rfl (k := 1544552448 + q.toNat * 4194304 + a.toNat * 8192 + d.toNat * 256 + b.toNat * 8) rfl
    ⟨by decide, b.isLt, d.isLt, a.isLt, by decide, q.isLt, by decide, trivial⟩ (fun e => by simp only [pack]; omega) ?_
  rintro w hwf ⟨g0, g1, g2, g3, g4, g5, g6, -⟩
  rw [Nat.div_one] at g0
  rw [decode, g6, decode17.eq_def, g4]
  exact accept_ok (by rw [g0]; rfl) (by simp only [g1, g2, g3, g5, BitVec.ofNat_toNat, BitVec.setWidth_eq]) hwf

theorem skCard (q : BitVec 4) (a : BitVec 4) (d : BitVec 5) : Statement (.skCard q a d) := by
  refine tile_of [(256, 0), (32, d.toNat), (16, a.toNat), (32, 9), (16, q.toNat), (32, 23)] (f := (.skCard q a d)) rfl rfl rfl (k := 1544683520 + q.toNat * 4194304 + a.toNat * 8192 + d.toNat * 256) rfl
    ⟨by decide, d.isLt, a.isLt, by decide, q.isLt, by decide, trivial⟩ (fun e => by simp only [pack]; omega) ?_
  rintro w hwf ⟨g0, g1, g2, g3, g4, g5, -⟩
  rw [Nat.div_one] at g0
  rw [decode, g5, decode17.eq_def, g3]
  exact accept_ok (by rw [g0]; rfl) (by simp only [g1, g2, g4, BitVec.ofNat_toNat, BitVec.setWidth_eq]) hwf

theorem skSeal (q : BitVec 4) (a : BitVec 4) : Statement (.skSeal q a) := by
  refine tile_of [(8192, 0), (16, a.toNat), (32, 10), (16, q.toNat), (32, 23)] (f := (.skSeal q a)) rfl rfl rfl (k := 1544814592 + q.toNat * 4194304 + a.toNat * 8192) rfl
    ⟨by decide, a.isLt, by decide, q.isLt, by decide, trivial⟩ (fun e => by simp only [pack]; omega) ?_
  rintro w hwf ⟨g0, g1, g2, g3, g4, -⟩
  rw [Nat.div_one] at g0
  rw [decode, g4, decode17.eq_def, g2]
  exact accept_ok (by rw [g0]; rfl) (by simp only [g1, g3, BitVec.ofNat_toNat, BitVec.setWidth_eq]) hwf

theorem skChk (q : BitVec 4) (a : BitVec 4) (d : BitVec 5) : Statement (.skChk q a d) := by
  refine tile_of [(256, 0), (32, d.toNat), (16, a.toNat), (32, 11), (16, q.toNat), (32, 23)] (f := (.skChk q a d)) rfl rfl rfl (k := 1544945664 + q.toNat * 4194304 + a.toNat * 8192 + d.toNat * 256) rfl
    ⟨by decide, d.isLt, a.isLt, by decide, q.isLt, by decide, trivial⟩ (fun e => by simp only [pack]; omega) ?_
  rintro w hwf ⟨g0, g1, g2, g3, g4, g5, -⟩
  rw [Nat.div_one] at g0
  rw [decode, g5, decode17.eq_def, g3]
  exact accept_ok (by rw [g0]; rfl) (by simp only [g1, g2, g4, BitVec.ofNat_toNat, BitVec.setWidth_eq]) hwf

theorem mxMma (q : BitVec 4) (ac : BitVec 1) (sc : BitVec 3) (aa : BitVec 4) (sb : BitVec 5) : Statement (.mxMma q ac sc aa sb) := by
  refine tile_of [(32, sb.toNat), (16, aa.toNat), (256, 0), (8, sc.toNat), (2, 0), (2, ac.toNat), (16, q.toNat), (32, 24)] (f := (.mxMma q ac sc aa sb)) rfl rfl rfl (k := 1610612736 + q.toNat * 4194304 + ac.toNat * 2097152 + sc.toNat * 131072 + aa.toNat * 32 + sb.toNat) rfl
    ⟨sb.isLt, aa.isLt, by decide, sc.isLt, by decide, ac.isLt, q.isLt, by decide, trivial⟩ (fun e => by simp only [pack]; omega) ?_
  rintro w hwf ⟨g0, g1, g2, g3, g4, g5, g6, g7, -⟩
  rw [Nat.div_one] at g0
  rw [decode, g7, decode18.eq_def, g2]
  exact accept_ok (by rw [g4]; rfl) (by simp only [g0, g1, g3, g5, g6, BitVec.ofNat_toNat, BitVec.setWidth_eq]) hwf

theorem mxProm (q : BitVec 4) (aa : BitVec 4) (sb : BitVec 5) : Statement (.mxProm q aa sb) := by
  refine tile_of [(32, sb.toNat), (16, aa.toNat), (256, 1), (32, 0), (16, q.toNat), (32, 24)] (f := (.mxProm q aa sb)) rfl rfl rfl (k := 1610613248 + q.toNat * 4194304 + aa.toNat * 32 + sb.toNat) rfl
    ⟨sb.isLt, aa.isLt, by decide, by decide, q.isLt, by decide, trivial⟩ (fun e => by simp only [pack]; omega) ?_
  rintro w hwf ⟨g0, g1, g2, g3, g4, g5, -⟩
  rw [Nat.div_one] at g0
  rw [decode, g5, decode18.eq_def, g2]
  exact accept_ok (by rw [g3]; rfl) (by simp only [g0, g1, g4, BitVec.ofNat_toNat, BitVec.setWidth_eq]) hwf

theorem mxProme (q : BitVec 4) (aa : BitVec 4) (sb : BitVec 5) : Statement (.mxProme q aa sb) := by
  refine tile_of [(32, sb.toNat), (16, aa.toNat), (256, 2), (32, 0), (16, q.toNat), (32, 24)] (f := (.mxProme q aa sb)) rfl rfl rfl (k := 1610613760 + q.toNat * 4194304 + aa.toNat * 32 + sb.toNat) rfl
    ⟨sb.isLt, aa.isLt, by decide, by decide, q.isLt, by decide, trivial⟩ (fun e => by simp only [pack]; omega) ?_
  rintro w hwf ⟨g0, g1, g2, g3, g4, g5, -⟩
  rw [Nat.div_one] at g0
  rw [decode, g5, decode18.eq_def, g2]
  exact accept_ok (by rw [g3]; rfl) (by simp only [g0, g1, g4, BitVec.ofNat_toNat, BitVec.setWidth_eq]) hwf

theorem mxZero (q : BitVec 4) (sb : BitVec 5) : Statement (.mxZero q sb) := by
  refine tile_of [(32, sb.toNat), (16, 0), (256, 3), (32, 0), (16, q.toNat), (32, 24)] (f := (.mxZero q sb)) rfl rfl rfl (k := 1610614272 + q.toNat * 4194304 + sb.toNat) rfl
    ⟨sb.isLt, by decide, by decide, by decide, q.isLt, by decide, trivial⟩ (fun e => by simp only [pack]; omega) ?_
  rintro w hwf ⟨g0, g1, g2, g3, g4, g5, -⟩
  rw [Nat.div_one] at g0
  rw [decode, g5, decode18.eq_def, g2]
  exact accept_ok (by rw [g1, g3]; rfl) (by simp only [g0, g4, BitVec.ofNat_toNat, BitVec.setWidth_eq]) hwf

theorem mxZld (q : BitVec 4) (ac : BitVec 1) (sc : BitVec 3) (aa : BitVec 4) (sb : BitVec 5) : Statement (.mxZld q ac sc aa sb) := by
  refine tile_of [(32, sb.toNat), (16, aa.toNat), (256, 4), (8, sc.toNat), (2, 0), (2, ac.toNat), (16, q.toNat), (32, 24)] (f := (.mxZld q ac sc aa sb)) rfl rfl rfl (k := 1610614784 + q.toNat * 4194304 + ac.toNat * 2097152 + sc.toNat * 131072 + aa.toNat * 32 + sb.toNat) rfl
    ⟨sb.isLt, aa.isLt, by decide, sc.isLt, by decide, ac.isLt, q.isLt, by decide, trivial⟩ (fun e => by simp only [pack]; omega) ?_
  rintro w hwf ⟨g0, g1, g2, g3, g4, g5, g6, g7, -⟩
  rw [Nat.div_one] at g0
  rw [decode, g7, decode18.eq_def, g2]
  exact accept_ok (by rw [g4]; rfl) (by simp only [g0, g1, g3, g5, g6, BitVec.ofNat_toNat, BitVec.setWidth_eq]) hwf

theorem mxZst (q : BitVec 4) (rl : BitVec 1) (sc : BitVec 3) (aa : BitVec 4) (sb : BitVec 5) : Statement (.mxZst q rl sc aa sb) := by
  refine tile_of [(32, sb.toNat), (16, aa.toNat), (256, 5), (8, sc.toNat), (2, rl.toNat), (2, 0), (16, q.toNat), (32, 24)] (f := (.mxZst q rl sc aa sb)) rfl rfl rfl (k := 1610615296 + q.toNat * 4194304 + rl.toNat * 1048576 + sc.toNat * 131072 + aa.toNat * 32 + sb.toNat) rfl
    ⟨sb.isLt, aa.isLt, by decide, sc.isLt, rl.isLt, by decide, q.isLt, by decide, trivial⟩ (fun e => by simp only [pack]; omega) ?_
  rintro w hwf ⟨g0, g1, g2, g3, g4, g5, g6, g7, -⟩
  rw [Nat.div_one] at g0
  rw [decode, g7, decode18.eq_def, g2]
  exact accept_ok (by rw [g5]; rfl) (by simp only [g0, g1, g3, g4, g6, BitVec.ofNat_toNat, BitVec.setWidth_eq]) hwf

theorem mxZcvt (q : BitVec 4) (rl : BitVec 1) (sc : BitVec 3) (aa : BitVec 4) (sb : BitVec 5) : Statement (.mxZcvt q rl sc aa sb) := by
  refine tile_of [(32, sb.toNat), (16, aa.toNat), (256, 6), (8, sc.toNat), (2, rl.toNat), (2, 0), (16, q.toNat), (32, 24)] (f := (.mxZcvt q rl sc aa sb)) rfl rfl rfl (k := 1610615808 + q.toNat * 4194304 + rl.toNat * 1048576 + sc.toNat * 131072 + aa.toNat * 32 + sb.toNat) rfl
    ⟨sb.isLt, aa.isLt, by decide, sc.isLt, rl.isLt, by decide, q.isLt, by decide, trivial⟩ (fun e => by simp only [pack]; omega) ?_
  rintro w hwf ⟨g0, g1, g2, g3, g4, g5, g6, g7, -⟩
  rw [Nat.div_one] at g0
  rw [decode, g7, decode18.eq_def, g2]
  exact accept_ok (by rw [g5]; rfl) (by simp only [g0, g1, g3, g4, g6, BitVec.ofNat_toNat, BitVec.setWidth_eq]) hwf

theorem mxZadd (q : BitVec 4) (sb : BitVec 5) : Statement (.mxZadd q sb) := by
  refine tile_of [(32, sb.toNat), (16, 0), (256, 7), (32, 0), (16, q.toNat), (32, 24)] (f := (.mxZadd q sb)) rfl rfl rfl (k := 1610616320 + q.toNat * 4194304 + sb.toNat) rfl
    ⟨sb.isLt, by decide, by decide, by decide, q.isLt, by decide, trivial⟩ (fun e => by simp only [pack]; omega) ?_
  rintro w hwf ⟨g0, g1, g2, g3, g4, g5, -⟩
  rw [Nat.div_one] at g0
  rw [decode, g5, decode18.eq_def, g2]
  exact accept_ok (by rw [g1, g3]; rfl) (by simp only [g0, g4, BitVec.ofNat_toNat, BitVec.setWidth_eq]) hwf

theorem mxScl (q : BitVec 4) (sb : BitVec 5) : Statement (.mxScl q sb) := by
  refine tile_of [(32, sb.toNat), (16, 0), (256, 8), (32, 0), (16, q.toNat), (32, 24)] (f := (.mxScl q sb)) rfl rfl rfl (k := 1610616832 + q.toNat * 4194304 + sb.toNat) rfl
    ⟨sb.isLt, by decide, by decide, by decide, q.isLt, by decide, trivial⟩ (fun e => by simp only [pack]; omega) ?_
  rintro w hwf ⟨g0, g1, g2, g3, g4, g5, -⟩
  rw [Nat.div_one] at g0
  rw [decode, g5, decode18.eq_def, g2]
  exact accept_ok (by rw [g1, g3]; rfl) (by simp only [g0, g4, BitVec.ofNat_toNat, BitVec.setWidth_eq]) hwf

theorem mxWsel (q : BitVec 4) (sb : BitVec 5) : Statement (.mxWsel q sb) := by
  refine tile_of [(32, sb.toNat), (16, 0), (256, 9), (32, 0), (16, q.toNat), (32, 24)] (f := (.mxWsel q sb)) rfl rfl rfl (k := 1610617344 + q.toNat * 4194304 + sb.toNat) rfl
    ⟨sb.isLt, by decide, by decide, by decide, q.isLt, by decide, trivial⟩ (fun e => by simp only [pack]; omega) ?_
  rintro w hwf ⟨g0, g1, g2, g3, g4, g5, -⟩
  rw [Nat.div_one] at g0
  rw [decode, g5, decode18.eq_def, g2]
  exact accept_ok (by rw [g1, g3]; rfl) (by simp only [g0, g4, BitVec.ofNat_toNat, BitVec.setWidth_eq]) hwf

theorem mxWake (q : BitVec 4) (sb : BitVec 5) : Statement (.mxWake q sb) := by
  refine tile_of [(32, sb.toNat), (16, 0), (256, 10), (32, 0), (16, q.toNat), (32, 24)] (f := (.mxWake q sb)) rfl rfl rfl (k := 1610617856 + q.toNat * 4194304 + sb.toNat) rfl
    ⟨sb.isLt, by decide, by decide, by decide, q.isLt, by decide, trivial⟩ (fun e => by simp only [pack]; omega) ?_
  rintro w hwf ⟨g0, g1, g2, g3, g4, g5, -⟩
  rw [Nat.div_one] at g0
  rw [decode, g5, decode18.eq_def, g2]
  exact accept_ok (by rw [g1, g3]; rfl) (by simp only [g0, g4, BitVec.ofNat_toNat, BitVec.setWidth_eq]) hwf

theorem mxGate (q : BitVec 4) (sb : BitVec 5) : Statement (.mxGate q sb) := by
  refine tile_of [(32, sb.toNat), (16, 0), (256, 11), (32, 0), (16, q.toNat), (32, 24)] (f := (.mxGate q sb)) rfl rfl rfl (k := 1610618368 + q.toNat * 4194304 + sb.toNat) rfl
    ⟨sb.isLt, by decide, by decide, by decide, q.isLt, by decide, trivial⟩ (fun e => by simp only [pack]; omega) ?_
  rintro w hwf ⟨g0, g1, g2, g3, g4, g5, -⟩
  rw [Nat.div_one] at g0
  rw [decode, g5, decode18.eq_def, g2]
  exact accept_ok (by rw [g1, g3]; rfl) (by simp only [g0, g4, BitVec.ofNat_toNat, BitVec.setWidth_eq]) hwf

theorem mxTask (q : BitVec 4) (ac : BitVec 1) (rl : BitVec 1) (sc : BitVec 3) (aa : BitVec 4) (sb : BitVec 5) : Statement (.mxTask q ac rl sc aa sb) := by
  refine tile_of [(32, sb.toNat), (16, aa.toNat), (256, 12), (8, sc.toNat), (2, rl.toNat), (2, ac.toNat), (16, q.toNat), (32, 24)] (f := (.mxTask q ac rl sc aa sb)) rfl rfl rfl (k := 1610618880 + q.toNat * 4194304 + ac.toNat * 2097152 + rl.toNat * 1048576 + sc.toNat * 131072 + aa.toNat * 32 + sb.toNat) rfl
    ⟨sb.isLt, aa.isLt, by decide, sc.isLt, rl.isLt, ac.isLt, q.isLt, by decide, trivial⟩ (fun e => by simp only [pack]; omega) ?_
  rintro w hwf ⟨g0, g1, g2, g3, g4, g5, g6, g7, -⟩
  rw [Nat.div_one] at g0
  rw [decode, g7, decode18.eq_def, g2]
  exact accept_ok rfl (by simp only [g0, g1, g3, g4, g5, g6, BitVec.ofNat_toNat, BitVec.setWidth_eq]) hwf

theorem mxTstat (q : BitVec 4) (aa : BitVec 4) (sb : BitVec 5) : Statement (.mxTstat q aa sb) := by
  refine tile_of [(32, sb.toNat), (16, aa.toNat), (256, 13), (32, 0), (16, q.toNat), (32, 24)] (f := (.mxTstat q aa sb)) rfl rfl rfl (k := 1610619392 + q.toNat * 4194304 + aa.toNat * 32 + sb.toNat) rfl
    ⟨sb.isLt, aa.isLt, by decide, by decide, q.isLt, by decide, trivial⟩ (fun e => by simp only [pack]; omega) ?_
  rintro w hwf ⟨g0, g1, g2, g3, g4, g5, -⟩
  rw [Nat.div_one] at g0
  rw [decode, g5, decode18.eq_def, g2]
  exact accept_ok (by rw [g3]; rfl) (by simp only [g0, g1, g4, BitVec.ofNat_toNat, BitVec.setWidth_eq]) hwf

theorem mxTkill (q : BitVec 4) (aa : BitVec 4) (sb : BitVec 5) : Statement (.mxTkill q aa sb) := by
  refine tile_of [(32, sb.toNat), (16, aa.toNat), (256, 14), (32, 0), (16, q.toNat), (32, 24)] (f := (.mxTkill q aa sb)) rfl rfl rfl (k := 1610619904 + q.toNat * 4194304 + aa.toNat * 32 + sb.toNat) rfl
    ⟨sb.isLt, aa.isLt, by decide, by decide, q.isLt, by decide, trivial⟩ (fun e => by simp only [pack]; omega) ?_
  rintro w hwf ⟨g0, g1, g2, g3, g4, g5, -⟩
  rw [Nat.div_one] at g0
  rw [decode, g5, decode18.eq_def, g2]
  exact accept_ok (by rw [g3]; rfl) (by simp only [g0, g1, g4, BitVec.ofNat_toNat, BitVec.setWidth_eq]) hwf

theorem mxQsplit (q : BitVec 4) (sb : BitVec 5) : Statement (.mxQsplit q sb) := by
  refine tile_of [(32, sb.toNat), (16, 0), (256, 15), (32, 0), (16, q.toNat), (32, 24)] (f := (.mxQsplit q sb)) rfl rfl rfl (k := 1610620416 + q.toNat * 4194304 + sb.toNat) rfl
    ⟨sb.isLt, by decide, by decide, by decide, q.isLt, by decide, trivial⟩ (fun e => by simp only [pack]; omega) ?_
  rintro w hwf ⟨g0, g1, g2, g3, g4, g5, -⟩
  rw [Nat.div_one] at g0
  rw [decode, g5, decode18.eq_def, g2]
  exact accept_ok (by rw [g1, g3]; rfl) (by simp only [g0, g4, BitVec.ofNat_toNat, BitVec.setWidth_eq]) hwf

theorem mxFence (q : BitVec 4) (rl : BitVec 1) (sc : BitVec 3) : Statement (.mxFence q rl sc) := by
  refine tile_of [(512, 0), (256, 16), (8, sc.toNat), (2, rl.toNat), (2, 0), (16, q.toNat), (32, 24)] (f := (.mxFence q rl sc)) rfl rfl rfl (k := 1610620928 + q.toNat * 4194304 + rl.toNat * 1048576 + sc.toNat * 131072) rfl
    ⟨by decide, by decide, sc.isLt, rl.isLt, by decide, q.isLt, by decide, trivial⟩ (fun e => by simp only [pack]; omega) ?_
  rintro w hwf ⟨g0, g1, g2, g3, g4, g5, g6, -⟩
  rw [Nat.div_one] at g0
  rw [decode, g6, decode18.eq_def, g1]
  exact accept_ok (by rw [g0, g4]; rfl) (by simp only [g2, g3, g5, BitVec.ofNat_toNat, BitVec.setWidth_eq]) hwf

theorem mxCfg (q : BitVec 4) (gh : BitVec 2) (gl : BitVec 4) (sb : BitVec 5) : Statement (.mxCfg q gh gl sb) := by
  refine tile_of [(32, sb.toNat), (16, gl.toNat), (256, 17), (4, gh.toNat), (8, 0), (16, q.toNat), (32, 24)] (f := (.mxCfg q gh gl sb)) rfl rfl rfl (k := 1610621440 + q.toNat * 4194304 + gh.toNat * 131072 + gl.toNat * 32 + sb.toNat) rfl
    ⟨sb.isLt, gl.isLt, by decide, gh.isLt, by decide, q.isLt, by decide, trivial⟩ (fun e => by simp only [pack]; omega) ?_
  rintro w hwf ⟨g0, g1, g2, g3, g4, g5, g6, -⟩
  rw [Nat.div_one] at g0
  rw [decode, g6, decode18.eq_def, g2]
  exact accept_ok (by rw [g4]; rfl) (by simp only [g0, g1, g3, g5, BitVec.ofNat_toNat, BitVec.setWidth_eq]) hwf

theorem cpCopy (q : BitVec 4) (ac : BitVec 1) (rl : BitVec 1) (sc : BitVec 3) (aa : BitVec 4) (sb : BitVec 5) : Statement (.cpCopy q ac rl sc aa sb) := by
  refine tile_of [(32, sb.toNat), (16, aa.toNat), (256, 0), (8, sc.toNat), (2, rl.toNat), (2, ac.toNat), (16, q.toNat), (32, 25)] (f := (.cpCopy q ac rl sc aa sb)) rfl rfl rfl (k := 1677721600 + q.toNat * 4194304 + ac.toNat * 2097152 + rl.toNat * 1048576 + sc.toNat * 131072 + aa.toNat * 32 + sb.toNat) rfl
    ⟨sb.isLt, aa.isLt, by decide, sc.isLt, rl.isLt, ac.isLt, q.isLt, by decide, trivial⟩ (fun e => by simp only [pack]; omega) ?_
  rintro w hwf ⟨g0, g1, g2, g3, g4, g5, g6, g7, -⟩
  rw [Nat.div_one] at g0
  rw [decode, g7, decode19.eq_def, g2]
  exact accept_ok rfl (by simp only [g0, g1, g3, g4, g5, g6, BitVec.ofNat_toNat, BitVec.setWidth_eq]) hwf

theorem cpLdt (q : BitVec 4) (ac : BitVec 1) (rl : BitVec 1) (sc : BitVec 3) (aa : BitVec 4) (sb : BitVec 5) : Statement (.cpLdt q ac rl sc aa sb) := by
  refine tile_of [(32, sb.toNat), (16, aa.toNat), (256, 1), (8, sc.toNat), (2, rl.toNat), (2, ac.toNat), (16, q.toNat), (32, 25)] (f := (.cpLdt q ac rl sc aa sb)) rfl rfl rfl (k := 1677722112 + q.toNat * 4194304 + ac.toNat * 2097152 + rl.toNat * 1048576 + sc.toNat * 131072 + aa.toNat * 32 + sb.toNat) rfl
    ⟨sb.isLt, aa.isLt, by decide, sc.isLt, rl.isLt, ac.isLt, q.isLt, by decide, trivial⟩ (fun e => by simp only [pack]; omega) ?_
  rintro w hwf ⟨g0, g1, g2, g3, g4, g5, g6, g7, -⟩
  rw [Nat.div_one] at g0
  rw [decode, g7, decode19.eq_def, g2]
  exact accept_ok rfl (by simp only [g0, g1, g3, g4, g5, g6, BitVec.ofNat_toNat, BitVec.setWidth_eq]) hwf

theorem cpStt (q : BitVec 4) (ac : BitVec 1) (rl : BitVec 1) (sc : BitVec 3) (aa : BitVec 4) (sb : BitVec 5) : Statement (.cpStt q ac rl sc aa sb) := by
  refine tile_of [(32, sb.toNat), (16, aa.toNat), (256, 2), (8, sc.toNat), (2, rl.toNat), (2, ac.toNat), (16, q.toNat), (32, 25)] (f := (.cpStt q ac rl sc aa sb)) rfl rfl rfl (k := 1677722624 + q.toNat * 4194304 + ac.toNat * 2097152 + rl.toNat * 1048576 + sc.toNat * 131072 + aa.toNat * 32 + sb.toNat) rfl
    ⟨sb.isLt, aa.isLt, by decide, sc.isLt, rl.isLt, ac.isLt, q.isLt, by decide, trivial⟩ (fun e => by simp only [pack]; omega) ?_
  rintro w hwf ⟨g0, g1, g2, g3, g4, g5, g6, g7, -⟩
  rw [Nat.div_one] at g0
  rw [decode, g7, decode19.eq_def, g2]
  exact accept_ok rfl (by simp only [g0, g1, g3, g4, g5, g6, BitVec.ofNat_toNat, BitVec.setWidth_eq]) hwf

theorem cpFill (q : BitVec 4) (ac : BitVec 1) (sc : BitVec 3) (aa : BitVec 4) (sb : BitVec 5) : Statement (.cpFill q ac sc aa sb) := by
  refine tile_of [(32, sb.toNat), (16, aa.toNat), (256, 3), (8, sc.toNat), (2, 0), (2, ac.toNat), (16, q.toNat), (32, 25)] (f := (.cpFill q ac sc aa sb)) rfl rfl rfl (k := 1677723136 + q.toNat * 4194304 + ac.toNat * 2097152 + sc.toNat * 131072 + aa.toNat * 32 + sb.toNat) rfl
    ⟨sb.isLt, aa.isLt, by decide, sc.isLt, by decide, ac.isLt, q.isLt, by decide, trivial⟩ (fun e => by simp only [pack]; omega) ?_
  rintro w hwf ⟨g0, g1, g2, g3, g4, g5, g6, g7, -⟩
  rw [Nat.div_one] at g0
  rw [decode, g7, decode19.eq_def, g2]
  exact accept_ok (by rw [g4]; rfl) (by simp only [g0, g1, g3, g5, g6, BitVec.ofNat_toNat, BitVec.setWidth_eq]) hwf

theorem cpMap (q : BitVec 4) (aa : BitVec 4) (sb : BitVec 5) : Statement (.cpMap q aa sb) := by
  refine tile_of [(32, sb.toNat), (16, aa.toNat), (256, 4), (32, 0), (16, q.toNat), (32, 25)] (f := (.cpMap q aa sb)) rfl rfl rfl (k := 1677723648 + q.toNat * 4194304 + aa.toNat * 32 + sb.toNat) rfl
    ⟨sb.isLt, aa.isLt, by decide, by decide, q.isLt, by decide, trivial⟩ (fun e => by simp only [pack]; omega) ?_
  rintro w hwf ⟨g0, g1, g2, g3, g4, g5, -⟩
  rw [Nat.div_one] at g0
  rw [decode, g5, decode19.eq_def, g2]
  exact accept_ok (by rw [g3]; rfl) (by simp only [g0, g1, g4, BitVec.ofNat_toNat, BitVec.setWidth_eq]) hwf

theorem cpUnmap (q : BitVec 4) (rl : BitVec 1) (sc : BitVec 3) (sb : BitVec 5) : Statement (.cpUnmap q rl sc sb) := by
  refine tile_of [(32, sb.toNat), (16, 0), (256, 5), (8, sc.toNat), (2, rl.toNat), (2, 0), (16, q.toNat), (32, 25)] (f := (.cpUnmap q rl sc sb)) rfl rfl rfl (k := 1677724160 + q.toNat * 4194304 + rl.toNat * 1048576 + sc.toNat * 131072 + sb.toNat) rfl
    ⟨sb.isLt, by decide, by decide, sc.isLt, rl.isLt, by decide, q.isLt, by decide, trivial⟩ (fun e => by simp only [pack]; omega) ?_
  rintro w hwf ⟨g0, g1, g2, g3, g4, g5, g6, g7, -⟩
  rw [Nat.div_one] at g0
  rw [decode, g7, decode19.eq_def, g2]
  exact accept_ok (by rw [g1, g5]; rfl) (by simp only [g0, g3, g4, g6, BitVec.ofNat_toNat, BitVec.setWidth_eq]) hwf

theorem cpFlush (q : BitVec 4) (ac : BitVec 1) (rl : BitVec 1) (sc : BitVec 3) (aa : BitVec 4) (sb : BitVec 5) : Statement (.cpFlush q ac rl sc aa sb) := by
  refine tile_of [(32, sb.toNat), (16, aa.toNat), (256, 6), (8, sc.toNat), (2, rl.toNat), (2, ac.toNat), (16, q.toNat), (32, 25)] (f := (.cpFlush q ac rl sc aa sb)) rfl rfl rfl (k := 1677724672 + q.toNat * 4194304 + ac.toNat * 2097152 + rl.toNat * 1048576 + sc.toNat * 131072 + aa.toNat * 32 + sb.toNat) rfl
    ⟨sb.isLt, aa.isLt, by decide, sc.isLt, rl.isLt, ac.isLt, q.isLt, by decide, trivial⟩ (fun e => by simp only [pack]; omega) ?_
  rintro w hwf ⟨g0, g1, g2, g3, g4, g5, g6, g7, -⟩
  rw [Nat.div_one] at g0
  rw [decode, g7, decode19.eq_def, g2]
  exact accept_ok rfl (by simp only [g0, g1, g3, g4, g5, g6, BitVec.ofNat_toNat, BitVec.setWidth_eq]) hwf

theorem cpInval (q : BitVec 4) (ac : BitVec 1) (rl : BitVec 1) (sc : BitVec 3) (aa : BitVec 4) (sb : BitVec 5) : Statement (.cpInval q ac rl sc aa sb) := by
  refine tile_of [(32, sb.toNat), (16, aa.toNat), (256, 7), (8, sc.toNat), (2, rl.toNat), (2, ac.toNat), (16, q.toNat), (32, 25)] (f := (.cpInval q ac rl sc aa sb)) rfl rfl rfl (k := 1677725184 + q.toNat * 4194304 + ac.toNat * 2097152 + rl.toNat * 1048576 + sc.toNat * 131072 + aa.toNat * 32 + sb.toNat) rfl
    ⟨sb.isLt, aa.isLt, by decide, sc.isLt, rl.isLt, ac.isLt, q.isLt, by decide, trivial⟩ (fun e => by simp only [pack]; omega) ?_
  rintro w hwf ⟨g0, g1, g2, g3, g4, g5, g6, g7, -⟩
  rw [Nat.div_one] at g0
  rw [decode, g7, decode19.eq_def, g2]
  exact accept_ok rfl (by simp only [g0, g1, g3, g4, g5, g6, BitVec.ofNat_toNat, BitVec.setWidth_eq]) hwf

theorem cpWfill (q : BitVec 4) (ac : BitVec 1) (sc : BitVec 3) (aa : BitVec 4) (sb : BitVec 5) : Statement (.cpWfill q ac sc aa sb) := by
  refine tile_of [(32, sb.toNat), (16, aa.toNat), (256, 8), (8, sc.toNat), (2, 0), (2, ac.toNat), (16, q.toNat), (32, 25)] (f := (.cpWfill q ac sc aa sb)) rfl rfl rfl (k := 1677725696 + q.toNat * 4194304 + ac.toNat * 2097152 + sc.toNat * 131072 + aa.toNat * 32 + sb.toNat) rfl
    ⟨sb.isLt, aa.isLt, by decide, sc.isLt, by decide, ac.isLt, q.isLt, by decide, trivial⟩ (fun e => by simp only [pack]; omega) ?_
  rintro w hwf ⟨g0, g1, g2, g3, g4, g5, g6, g7, -⟩
  rw [Nat.div_one] at g0
  rw [decode, g7, decode19.eq_def, g2]
  exact accept_ok (by rw [g4]; rfl) (by simp only [g0, g1, g3, g5, g6, BitVec.ofNat_toNat, BitVec.setWidth_eq]) hwf

theorem cpOvl (q : BitVec 4) (ac : BitVec 1) (sc : BitVec 3) (aa : BitVec 4) (sb : BitVec 5) : Statement (.cpOvl q ac sc aa sb) := by
  refine tile_of [(32, sb.toNat), (16, aa.toNat), (256, 9), (8, sc.toNat), (2, 0), (2, ac.toNat), (16, q.toNat), (32, 25)] (f := (.cpOvl q ac sc aa sb)) rfl rfl rfl (k := 1677726208 + q.toNat * 4194304 + ac.toNat * 2097152 + sc.toNat * 131072 + aa.toNat * 32 + sb.toNat) rfl
    ⟨sb.isLt, aa.isLt, by decide, sc.isLt, by decide, ac.isLt, q.isLt, by decide, trivial⟩ (fun e => by simp only [pack]; omega) ?_
  rintro w hwf ⟨g0, g1, g2, g3, g4, g5, g6, g7, -⟩
  rw [Nat.div_one] at g0
  rw [decode, g7, decode19.eq_def, g2]
  exact accept_ok (by rw [g4]; rfl) (by simp only [g0, g1, g3, g5, g6, BitVec.ofNat_toNat, BitVec.setWidth_eq]) hwf

theorem cpSpill (q : BitVec 4) (ac : BitVec 1) (rl : BitVec 1) (sc : BitVec 3) (aa : BitVec 4) (sb : BitVec 5) : Statement (.cpSpill q ac rl sc aa sb) := by
  refine tile_of [(32, sb.toNat), (16, aa.toNat), (256, 10), (8, sc.toNat), (2, rl.toNat), (2, ac.toNat), (16, q.toNat), (32, 25)] (f := (.cpSpill q ac rl sc aa sb)) rfl rfl rfl (k := 1677726720 + q.toNat * 4194304 + ac.toNat * 2097152 + rl.toNat * 1048576 + sc.toNat * 131072 + aa.toNat * 32 + sb.toNat) rfl
    ⟨sb.isLt, aa.isLt, by decide, sc.isLt, rl.isLt, ac.isLt, q.isLt, by decide, trivial⟩ (fun e => by simp only [pack]; omega) ?_
  rintro w hwf ⟨g0, g1, g2, g3, g4, g5, g6, g7, -⟩
  rw [Nat.div_one] at g0
  rw [decode, g7, decode19.eq_def, g2]
  exact accept_ok rfl (by simp only [g0, g1, g3, g4, g5, g6, BitVec.ofNat_toNat, BitVec.setWidth_eq]) hwf

theorem cpUnspill (q : BitVec 4) (ac : BitVec 1) (rl : BitVec 1) (sc : BitVec 3) (aa : BitVec 4) (sb : BitVec 5) : Statement (.cpUnspill q ac rl sc aa sb) := by
  refine tile_of [(32, sb.toNat), (16, aa.toNat), (256, 11), (8, sc.toNat), (2, rl.toNat), (2, ac.toNat), (16, q.toNat), (32, 25)] (f := (.cpUnspill q ac rl sc aa sb)) rfl rfl rfl (k := 1677727232 + q.toNat * 4194304 + ac.toNat * 2097152 + rl.toNat * 1048576 + sc.toNat * 131072 + aa.toNat * 32 + sb.toNat) rfl
    ⟨sb.isLt, aa.isLt, by decide, sc.isLt, rl.isLt, ac.isLt, q.isLt, by decide, trivial⟩ (fun e => by simp only [pack]; omega) ?_
  rintro w hwf ⟨g0, g1, g2, g3, g4, g5, g6, g7, -⟩
  rw [Nat.div_one] at g0
  rw [decode, g7, decode19.eq_def, g2]
  exact accept_ok rfl (by simp only [g0, g1, g3, g4, g5, g6, BitVec.ofNat_toNat, BitVec.setWidth_eq]) hwf

theorem cpBcnt (q : BitVec 4) (rl : BitVec 1) (sc : BitVec 3) (aa : BitVec 4) (sb : BitVec 5) : Statement (.cpBcnt q rl sc aa sb) := by
  refine tile_of [(32, sb.toNat), (16, aa.toNat), (256, 12), (8, sc.toNat), (2, rl.toNat), (2, 0), (16, q.toNat), (32, 25)] (f := (.cpBcnt q rl sc aa sb)) rfl rfl rfl (k := 1677727744 + q.toNat * 4194304 + rl.toNat * 1048576 + sc.toNat * 131072 + aa.toNat * 32 + sb.toNat) rfl
    ⟨sb.isLt, aa.isLt, by decide, sc.isLt, rl.isLt, by decide, q.isLt, by decide, trivial⟩ (fun e => by simp only [pack]; omega) ?_
  rintro w hwf ⟨g0, g1, g2, g3, g4, g5, g6, g7, -⟩
  rw [Nat.div_one] at g0
  rw [decode, g7, decode19.eq_def, g2]
  exact accept_ok (by rw [g5]; rfl) (by simp only [g0, g1, g3, g4, g6, BitVec.ofNat_toNat, BitVec.setWidth_eq]) hwf

theorem cpTclr (q : BitVec 4) (sb : BitVec 5) : Statement (.cpTclr q sb) := by
  refine tile_of [(32, sb.toNat), (16, 0), (256, 13), (32, 0), (16, q.toNat), (32, 25)] (f := (.cpTclr q sb)) rfl rfl rfl (k := 1677728256 + q.toNat * 4194304 + sb.toNat) rfl
    ⟨sb.isLt, by decide, by decide, by decide, q.isLt, by decide, trivial⟩ (fun e => by simp only [pack]; omega) ?_
  rintro w hwf ⟨g0, g1, g2, g3, g4, g5, -⟩
  rw [Nat.div_one] at g0
  rw [decode, g5, decode19.eq_def, g2]
  exact accept_ok (by rw [g1, g3]; rfl) (by simp only [g0, g4, BitVec.ofNat_toNat, BitVec.setWidth_eq]) hwf

theorem clTmk (q : BitVec 4) (aa : BitVec 4) (sb : BitVec 5) : Statement (.clTmk q aa sb) := by
  refine tile_of [(32, sb.toNat), (16, aa.toNat), (256, 0), (32, 0), (16, q.toNat), (32, 26)] (f := (.clTmk q aa sb)) rfl rfl rfl (k := 1744830464 + q.toNat * 4194304 + aa.toNat * 32 + sb.toNat) rfl
    ⟨sb.isLt, aa.isLt, by decide, by decide, q.isLt, by decide, trivial⟩ (fun e => by simp only [pack]; omega) ?_
  rintro w hwf ⟨g0, g1, g2, g3, g4, g5, -⟩
  rw [Nat.div_one] at g0
  rw [decode, g5, decode1A.eq_def, g2]
  exact accept_ok (by rw [g3]; rfl) (by simp only [g0, g1, g4, BitVec.ofNat_toNat, BitVec.setWidth_eq]) hwf

theorem clTfree (q : BitVec 4) (sb : BitVec 5) : Statement (.clTfree q sb) := by
  refine tile_of [(32, sb.toNat), (16, 0), (256, 1), (32, 0), (16, q.toNat), (32, 26)] (f := (.clTfree q sb)) rfl rfl rfl (k := 1744830976 + q.toNat * 4194304 + sb.toNat) rfl
    ⟨sb.isLt, by decide, by decide, by decide, q.isLt, by decide, trivial⟩ (fun e => by simp only [pack]; omega) ?_
  rintro w hwf ⟨g0, g1, g2, g3, g4, g5, -⟩
  rw [Nat.div_one] at g0
  rw [decode, g5, decode1A.eq_def, g2]
  exact accept_ok (by rw [g1, g3]; rfl) (by simp only [g0, g4, BitVec.ofNat_toNat, BitVec.setWidth_eq]) hwf

theorem clPost (q : BitVec 4) (ac : BitVec 1) (rl : BitVec 1) (sc : BitVec 3) (aa : BitVec 4) (sb : BitVec 5) : Statement (.clPost q ac rl sc aa sb) := by
  refine tile_of [(32, sb.toNat), (16, aa.toNat), (256, 2), (8, sc.toNat), (2, rl.toNat), (2, ac.toNat), (16, q.toNat), (32, 26)] (f := (.clPost q ac rl sc aa sb)) rfl rfl rfl (k := 1744831488 + q.toNat * 4194304 + ac.toNat * 2097152 + rl.toNat * 1048576 + sc.toNat * 131072 + aa.toNat * 32 + sb.toNat) rfl
    ⟨sb.isLt, aa.isLt, by decide, sc.isLt, rl.isLt, ac.isLt, q.isLt, by decide, trivial⟩ (fun e => by simp only [pack]; omega) ?_
  rintro w hwf ⟨g0, g1, g2, g3, g4, g5, g6, g7, -⟩
  rw [Nat.div_one] at g0
  rw [decode, g7, decode1A.eq_def, g2]
  exact accept_ok rfl (by simp only [g0, g1, g3, g4, g5, g6, BitVec.ofNat_toNat, BitVec.setWidth_eq]) hwf

theorem clTake (q : BitVec 4) (ac : BitVec 1) (rl : BitVec 1) (sc : BitVec 3) (aa : BitVec 4) (sb : BitVec 5) : Statement (.clTake q ac rl sc aa sb) := by
  refine tile_of [(32, sb.toNat), (16, aa.toNat), (256, 3), (8, sc.toNat), (2, rl.toNat), (2, ac.toNat), (16, q.toNat), (32, 26)] (f := (.clTake q ac rl sc aa sb)) rfl rfl rfl (k := 1744832000 + q.toNat * 4194304 + ac.toNat * 2097152 + rl.toNat * 1048576 + sc.toNat * 131072 + aa.toNat * 32 + sb.toNat) rfl
    ⟨sb.isLt, aa.isLt, by decide, sc.isLt, rl.isLt, ac.isLt, q.isLt, by decide, trivial⟩ (fun e => by simp only [pack]; omega) ?_
  rintro w hwf ⟨g0, g1, g2, g3, g4, g5, g6, g7, -⟩
  rw [Nat.div_one] at g0
  rw [decode, g7, decode1A.eq_def, g2]
  exact accept_ok rfl (by simp only [g0, g1, g3, g4, g5, g6, BitVec.ofNat_toNat, BitVec.setWidth_eq]) hwf

theorem clFrz (q : BitVec 4) (sb : BitVec 5) : Statement (.clFrz q sb) := by
  refine tile_of [(32, sb.toNat), (16, 0), (256, 4), (32, 0), (16, q.toNat), (32, 26)] (f := (.clFrz q sb)) rfl rfl rfl (k := 1744832512 + q.toNat * 4194304 + sb.toNat) rfl
    ⟨sb.isLt, by decide, by decide, by decide, q.isLt, by decide, trivial⟩ (fun e => by simp only [pack]; omega) ?_
  rintro w hwf ⟨g0, g1, g2, g3, g4, g5, -⟩
  rw [Nat.div_one] at g0
  rw [decode, g5, decode1A.eq_def, g2]
  exact accept_ok (by rw [g1, g3]; rfl) (by simp only [g0, g4, BitVec.ofNat_toNat, BitVec.setWidth_eq]) hwf

theorem clThaw (q : BitVec 4) (sb : BitVec 5) : Statement (.clThaw q sb) := by
  refine tile_of [(32, sb.toNat), (16, 0), (256, 5), (32, 0), (16, q.toNat), (32, 26)] (f := (.clThaw q sb)) rfl rfl rfl (k := 1744833024 + q.toNat * 4194304 + sb.toNat) rfl
    ⟨sb.isLt, by decide, by decide, by decide, q.isLt, by decide, trivial⟩ (fun e => by simp only [pack]; omega) ?_
  rintro w hwf ⟨g0, g1, g2, g3, g4, g5, -⟩
  rw [Nat.div_one] at g0
  rw [decode, g5, decode1A.eq_def, g2]
  exact accept_ok (by rw [g1, g3]; rfl) (by simp only [g0, g4, BitVec.ofNat_toNat, BitVec.setWidth_eq]) hwf

theorem clSave (q : BitVec 4) (aa : BitVec 4) (sb : BitVec 5) : Statement (.clSave q aa sb) := by
  refine tile_of [(32, sb.toNat), (16, aa.toNat), (256, 6), (32, 0), (16, q.toNat), (32, 26)] (f := (.clSave q aa sb)) rfl rfl rfl (k := 1744833536 + q.toNat * 4194304 + aa.toNat * 32 + sb.toNat) rfl
    ⟨sb.isLt, aa.isLt, by decide, by decide, q.isLt, by decide, trivial⟩ (fun e => by simp only [pack]; omega) ?_
  rintro w hwf ⟨g0, g1, g2, g3, g4, g5, -⟩
  rw [Nat.div_one] at g0
  rw [decode, g5, decode1A.eq_def, g2]
  exact accept_ok (by rw [g3]; rfl) (by simp only [g0, g1, g4, BitVec.ofNat_toNat, BitVec.setWidth_eq]) hwf

theorem clRst (q : BitVec 4) (aa : BitVec 4) (sb : BitVec 5) : Statement (.clRst q aa sb) := by
  refine tile_of [(32, sb.toNat), (16, aa.toNat), (256, 7), (32, 0), (16, q.toNat), (32, 26)] (f := (.clRst q aa sb)) rfl rfl rfl (k := 1744834048 + q.toNat * 4194304 + aa.toNat * 32 + sb.toNat) rfl
    ⟨sb.isLt, aa.isLt, by decide, by decide, q.isLt, by decide, trivial⟩ (fun e => by simp only [pack]; omega) ?_
  rintro w hwf ⟨g0, g1, g2, g3, g4, g5, -⟩
  rw [Nat.div_one] at g0
  rw [decode, g5, decode1A.eq_def, g2]
  exact accept_ok (by rw [g3]; rfl) (by simp only [g0, g1, g4, BitVec.ofNat_toNat, BitVec.setWidth_eq]) hwf

theorem clEditRemove (q : BitVec 4) (sb : BitVec 5) : Statement (.clEditRemove q sb) := by
  refine tile_of [(32, sb.toNat), (16, 0), (256, 8), (32, 0), (16, q.toNat), (32, 26)] (f := (.clEditRemove q sb)) rfl rfl rfl (k := 1744834560 + q.toNat * 4194304 + sb.toNat) rfl
    ⟨sb.isLt, by decide, by decide, by decide, q.isLt, by decide, trivial⟩ (fun e => by simp only [pack]; omega) ?_
  rintro w hwf ⟨g0, g1, g2, g3, g4, g5, -⟩
  rw [Nat.div_one] at g0
  rw [decode, g5, decode1A.eq_def, g2]
  exact accept_ok (by rw [g1, g3]; rfl) (by simp only [g0, g4, BitVec.ofNat_toNat, BitVec.setWidth_eq]) hwf

theorem clEditAdd (q : BitVec 4) (sb : BitVec 5) : Statement (.clEditAdd q sb) := by
  refine tile_of [(32, sb.toNat), (16, 0), (256, 8), (32, 0), (16, q.toNat), (32, 26)] (f := (.clEditRemove q sb)) rfl rfl rfl (k := 1744834560 + q.toNat * 4194304 + sb.toNat) rfl
    ⟨sb.isLt, by decide, by decide, by decide, q.isLt, by decide, trivial⟩ (fun e => by simp only [pack]; omega) ?_
  rintro w hwf ⟨g0, g1, g2, g3, g4, g5, -⟩
  rw [Nat.div_one] at g0
  rw [decode, g5, decode1A.eq_def, g2]
  exact accept_ok (by rw [g1, g3]; rfl) (by simp only [g0, g4, BitVec.ofNat_toNat, BitVec.setWidth_eq]) hwf

theorem clReshard (q : BitVec 4) (ac : BitVec 1) (rl : BitVec 1) (sc : BitVec 3) (aa : BitVec 4) (sb : BitVec 5) : Statement (.clReshard q ac rl sc aa sb) := by
  refine tile_of [(32, sb.toNat), (16, aa.toNat), (256, 9), (8, sc.toNat), (2, rl.toNat), (2, ac.toNat), (16, q.toNat), (32, 26)] (f := (.clReshard q ac rl sc aa sb)) rfl rfl rfl (k := 1744835072 + q.toNat * 4194304 + ac.toNat * 2097152 + rl.toNat * 1048576 + sc.toNat * 131072 + aa.toNat * 32 + sb.toNat) rfl
    ⟨sb.isLt, aa.isLt, by decide, sc.isLt, rl.isLt, ac.isLt, q.isLt, by decide, trivial⟩ (fun e => by simp only [pack]; omega) ?_
  rintro w hwf ⟨g0, g1, g2, g3, g4, g5, g6, g7, -⟩
  rw [Nat.div_one] at g0
  rw [decode, g7, decode1A.eq_def, g2]
  exact accept_ok rfl (by simp only [g0, g1, g3, g4, g5, g6, BitVec.ofNat_toNat, BitVec.setWidth_eq]) hwf

theorem clQuery (q : BitVec 4) (sb : BitVec 5) : Statement (.clQuery q sb) := by
  refine tile_of [(32, sb.toNat), (16, 0), (256, 10), (32, 0), (16, q.toNat), (32, 26)] (f := (.clQuery q sb)) rfl rfl rfl (k := 1744835584 + q.toNat * 4194304 + sb.toNat) rfl
    ⟨sb.isLt, by decide, by decide, by decide, q.isLt, by decide, trivial⟩ (fun e => by simp only [pack]; omega) ?_
  rintro w hwf ⟨g0, g1, g2, g3, g4, g5, -⟩
  rw [Nat.div_one] at g0
  rw [decode, g5, decode1A.eq_def, g2]
  exact accept_ok (by rw [g1, g3]; rfl) (by simp only [g0, g4, BitVec.ofNat_toNat, BitVec.setWidth_eq]) hwf

theorem clMcast (q : BitVec 4) (ac : BitVec 1) (rl : BitVec 1) (sc : BitVec 3) (aa : BitVec 4) (sb : BitVec 5) : Statement (.clMcast q ac rl sc aa sb) := by
  refine tile_of [(32, sb.toNat), (16, aa.toNat), (256, 11), (8, sc.toNat), (2, rl.toNat), (2, ac.toNat), (16, q.toNat), (32, 26)] (f := (.clMcast q ac rl sc aa sb)) rfl rfl rfl (k := 1744836096 + q.toNat * 4194304 + ac.toNat * 2097152 + rl.toNat * 1048576 + sc.toNat * 131072 + aa.toNat * 32 + sb.toNat) rfl
    ⟨sb.isLt, aa.isLt, by decide, sc.isLt, rl.isLt, ac.isLt, q.isLt, by decide, trivial⟩ (fun e => by simp only [pack]; omega) ?_
  rintro w hwf ⟨g0, g1, g2, g3, g4, g5, g6, g7, -⟩
  rw [Nat.div_one] at g0
  rw [decode, g7, decode1A.eq_def, g2]
  exact accept_ok rfl (by simp only [g0, g1, g3, g4, g5, g6, BitVec.ofNat_toNat, BitVec.setWidth_eq]) hwf

theorem clBar (q : BitVec 4) (ac : BitVec 1) (rl : BitVec 1) (sc : BitVec 3) (aa : BitVec 4) (sb : BitVec 5) : Statement (.clBar q ac rl sc aa sb) := by
  refine tile_of [(32, sb.toNat), (16, aa.toNat), (256, 12), (8, sc.toNat), (2, rl.toNat), (2, ac.toNat), (16, q.toNat), (32, 26)] (f := (.clBar q ac rl sc aa sb)) rfl rfl rfl (k := 1744836608 + q.toNat * 4194304 + ac.toNat * 2097152 + rl.toNat * 1048576 + sc.toNat * 131072 + aa.toNat * 32 + sb.toNat) rfl
    ⟨sb.isLt, aa.isLt, by decide, sc.isLt, rl.isLt, ac.isLt, q.isLt, by decide, trivial⟩ (fun e => by simp only [pack]; omega) ?_
  rintro w hwf ⟨g0, g1, g2, g3, g4, g5, g6, g7, -⟩
  rw [Nat.div_one] at g0
  rw [decode, g7, decode1A.eq_def, g2]
  exact accept_ok rfl (by simp only [g0, g1, g3, g4, g5, g6, BitVec.ofNat_toNat, BitVec.setWidth_eq]) hwf

theorem clAbort (q : BitVec 4) (sb : BitVec 5) : Statement (.clAbort q sb) := by
  refine tile_of [(32, sb.toNat), (16, 0), (256, 13), (32, 0), (16, q.toNat), (32, 26)] (f := (.clAbort q sb)) rfl rfl rfl (k := 1744837120 + q.toNat * 4194304 + sb.toNat) rfl
    ⟨sb.isLt, by decide, by decide, by decide, q.isLt, by decide, trivial⟩ (fun e => by simp only [pack]; omega) ?_
  rintro w hwf ⟨g0, g1, g2, g3, g4, g5, -⟩
  rw [Nat.div_one] at g0
  rw [decode, g5, decode1A.eq_def, g2]
  exact accept_ok (by rw [g1, g3]; rfl) (by simp only [g0, g4, BitVec.ofNat_toNat, BitVec.setWidth_eq]) hwf

theorem evSend (q : BitVec 4) (aa : BitVec 4) (sb : BitVec 5) : Statement (.evSend q aa sb) := by
  refine tile_of [(32, sb.toNat), (16, aa.toNat), (256, 0), (32, 0), (16, q.toNat), (32, 27)] (f := (.evSend q aa sb)) rfl rfl rfl (k := 1811939328 + q.toNat * 4194304 + aa.toNat * 32 + sb.toNat) rfl
    ⟨sb.isLt, aa.isLt, by decide, by decide, q.isLt, by decide, trivial⟩ (fun e => by simp only [pack]; omega) ?_
  rintro w hwf ⟨g0, g1, g2, g3, g4, g5, -⟩
  rw [Nat.div_one] at g0
  rw [decode, g5, decode1B.eq_def, g2]
  exact accept_ok (by rw [g3]; rfl) (by simp only [g0, g1, g4, BitVec.ofNat_toNat, BitVec.setWidth_eq]) hwf

theorem evRecv (q : BitVec 4) (aa : BitVec 4) (sb : BitVec 5) : Statement (.evRecv q aa sb) := by
  refine tile_of [(32, sb.toNat), (16, aa.toNat), (256, 1), (32, 0), (16, q.toNat), (32, 27)] (f := (.evRecv q aa sb)) rfl rfl rfl (k := 1811939840 + q.toNat * 4194304 + aa.toNat * 32 + sb.toNat) rfl
    ⟨sb.isLt, aa.isLt, by decide, by decide, q.isLt, by decide, trivial⟩ (fun e => by simp only [pack]; omega) ?_
  rintro w hwf ⟨g0, g1, g2, g3, g4, g5, -⟩
  rw [Nat.div_one] at g0
  rw [decode, g5, decode1B.eq_def, g2]
  exact accept_ok (by rw [g3]; rfl) (by simp only [g0, g1, g4, BitVec.ofNat_toNat, BitVec.setWidth_eq]) hwf

theorem evGather (q : BitVec 4) (aa : BitVec 4) (sb : BitVec 5) : Statement (.evGather q aa sb) := by
  refine tile_of [(32, sb.toNat), (16, aa.toNat), (256, 2), (32, 0), (16, q.toNat), (32, 27)] (f := (.evGather q aa sb)) rfl rfl rfl (k := 1811940352 + q.toNat * 4194304 + aa.toNat * 32 + sb.toNat) rfl
    ⟨sb.isLt, aa.isLt, by decide, by decide, q.isLt, by decide, trivial⟩ (fun e => by simp only [pack]; omega) ?_
  rintro w hwf ⟨g0, g1, g2, g3, g4, g5, -⟩
  rw [Nat.div_one] at g0
  rw [decode, g5, decode1B.eq_def, g2]
  exact accept_ok (by rw [g3]; rfl) (by simp only [g0, g1, g4, BitVec.ofNat_toNat, BitVec.setWidth_eq]) hwf

theorem evOpen (q : BitVec 4) (sb : BitVec 5) : Statement (.evOpen q sb) := by
  refine tile_of [(32, sb.toNat), (16, 0), (256, 3), (32, 0), (16, q.toNat), (32, 27)] (f := (.evOpen q sb)) rfl rfl rfl (k := 1811940864 + q.toNat * 4194304 + sb.toNat) rfl
    ⟨sb.isLt, by decide, by decide, by decide, q.isLt, by decide, trivial⟩ (fun e => by simp only [pack]; omega) ?_
  rintro w hwf ⟨g0, g1, g2, g3, g4, g5, -⟩
  rw [Nat.div_one] at g0
  rw [decode, g5, decode1B.eq_def, g2]
  exact accept_ok (by rw [g1, g3]; rfl) (by simp only [g0, g4, BitVec.ofNat_toNat, BitVec.setWidth_eq]) hwf

theorem evClose (q : BitVec 4) (sb : BitVec 5) : Statement (.evClose q sb) := by
  refine tile_of [(32, sb.toNat), (16, 0), (256, 4), (32, 0), (16, q.toNat), (32, 27)] (f := (.evClose q sb)) rfl rfl rfl (k := 1811941376 + q.toNat * 4194304 + sb.toNat) rfl
    ⟨sb.isLt, by decide, by decide, by decide, q.isLt, by decide, trivial⟩ (fun e => by simp only [pack]; omega) ?_
  rintro w hwf ⟨g0, g1, g2, g3, g4, g5, -⟩
  rw [Nat.div_one] at g0
  rw [decode, g5, decode1B.eq_def, g2]
  exact accept_ok (by rw [g1, g3]; rfl) (by simp only [g0, g4, BitVec.ofNat_toNat, BitVec.setWidth_eq]) hwf

theorem dsLaunch (q : BitVec 4) (rl : BitVec 1) (sc : BitVec 3) (aa : BitVec 4) (sb : BitVec 5) : Statement (.dsLaunch q rl sc aa sb) := by
  refine tile_of [(32, sb.toNat), (16, aa.toNat), (256, 0), (8, sc.toNat), (2, rl.toNat), (2, 0), (16, q.toNat), (32, 28)] (f := (.dsLaunch q rl sc aa sb)) rfl rfl rfl (k := 1879048192 + q.toNat * 4194304 + rl.toNat * 1048576 + sc.toNat * 131072 + aa.toNat * 32 + sb.toNat) rfl
    ⟨sb.isLt, aa.isLt, by decide, sc.isLt, rl.isLt, by decide, q.isLt, by decide, trivial⟩ (fun e => by simp only [pack]; omega) ?_
  rintro w hwf ⟨g0, g1, g2, g3, g4, g5, g6, g7, -⟩
  rw [Nat.div_one] at g0
  rw [decode, g7, decode1C.eq_def, g2]
  exact accept_ok (by rw [g5]; rfl) (by simp only [g0, g1, g3, g4, g6, BitVec.ofNat_toNat, BitVec.setWidth_eq]) hwf

theorem dsLaunchW (q : BitVec 4) (rl : BitVec 1) (sc : BitVec 3) (aa : BitVec 4) (sb : BitVec 5) : Statement (.dsLaunchW q rl sc aa sb) := by
  refine tile_of [(32, sb.toNat), (16, aa.toNat), (256, 1), (8, sc.toNat), (2, rl.toNat), (2, 0), (16, q.toNat), (32, 28)] (f := (.dsLaunchW q rl sc aa sb)) rfl rfl rfl (k := 1879048704 + q.toNat * 4194304 + rl.toNat * 1048576 + sc.toNat * 131072 + aa.toNat * 32 + sb.toNat) rfl
    ⟨sb.isLt, aa.isLt, by decide, sc.isLt, rl.isLt, by decide, q.isLt, by decide, trivial⟩ (fun e => by simp only [pack]; omega) ?_
  rintro w hwf ⟨g0, g1, g2, g3, g4, g5, g6, g7, -⟩
  rw [Nat.div_one] at g0
  rw [decode, g7, decode1C.eq_def, g2]
  exact accept_ok (by rw [g5]; rfl) (by simp only [g0, g1, g3, g4, g6, BitVec.ofNat_toNat, BitVec.setWidth_eq]) hwf

theorem dsQpush (q : BitVec 4) (rl : BitVec 1) (sc : BitVec 3) (aa : BitVec 4) (sb : BitVec 5) : Statement (.dsQpush q rl sc aa sb) := by
  refine tile_of [(32, sb.toNat), (16, aa.toNat), (256, 2), (8, sc.toNat), (2, rl.toNat), (2, 0), (16, q.toNat), (32, 28)] (f := (.dsQpush q rl sc aa sb)) rfl rfl rfl (k := 1879049216 + q.toNat * 4194304 + rl.toNat * 1048576 + sc.toNat * 131072 + aa.toNat * 32 + sb.toNat) rfl
    ⟨sb.isLt, aa.isLt, by decide, sc.isLt, rl.isLt, by decide, q.isLt, by decide, trivial⟩ (fun e => by simp only [pack]; omega) ?_
  rintro w hwf ⟨g0, g1, g2, g3, g4, g5, g6, g7, -⟩
  rw [Nat.div_one] at g0
  rw [decode, g7, decode1C.eq_def, g2]
  exact accept_ok (by rw [g5]; rfl) (by simp only [g0, g1, g3, g4, g6, BitVec.ofNat_toNat, BitVec.setWidth_eq]) hwf

theorem dsQpop (q : BitVec 4) (ac : BitVec 1) (sc : BitVec 3) (aa : BitVec 4) (sb : BitVec 5) : Statement (.dsQpop q ac sc aa sb) := by
  refine tile_of [(32, sb.toNat), (16, aa.toNat), (256, 3), (8, sc.toNat), (2, 0), (2, ac.toNat), (16, q.toNat), (32, 28)] (f := (.dsQpop q ac sc aa sb)) rfl rfl rfl (k := 1879049728 + q.toNat * 4194304 + ac.toNat * 2097152 + sc.toNat * 131072 + aa.toNat * 32 + sb.toNat) rfl
    ⟨sb.isLt, aa.isLt, by decide, sc.isLt, by decide, ac.isLt, q.isLt, by decide, trivial⟩ (fun e => by simp only [pack]; omega) ?_
  rintro w hwf ⟨g0, g1, g2, g3, g4, g5, g6, g7, -⟩
  rw [Nat.div_one] at g0
  rw [decode, g7, decode1C.eq_def, g2]
  exact accept_ok (by rw [g4]; rfl) (by simp only [g0, g1, g3, g5, g6, BitVec.ofNat_toNat, BitVec.setWidth_eq]) hwf

theorem dsCondSet (q : BitVec 4) (aa : BitVec 4) (sb : BitVec 5) : Statement (.dsCondSet q aa sb) := by
  refine tile_of [(32, sb.toNat), (16, aa.toNat), (256, 4), (8, 0), (4, 0), (16, q.toNat), (32, 28)] (f := (.dsCondSet q aa sb)) rfl rfl rfl (k := 1879050240 + q.toNat * 4194304 + aa.toNat * 32 + sb.toNat) rfl
    ⟨sb.isLt, aa.isLt, by decide, by decide, by decide, q.isLt, by decide, trivial⟩ (fun e => by simp only [pack]; omega) ?_
  rintro w hwf ⟨g0, g1, g2, g3, g4, g5, g6, -⟩
  rw [Nat.div_one] at g0
  rw [decode, g6, decode1C.eq_def, g2]
  simp only [g3]
  exact accept_ok (by rw [g4]; rfl) (by simp only [g0, g1, g5, BitVec.ofNat_toNat, BitVec.setWidth_eq]) hwf

theorem dsCondAdd (q : BitVec 4) (aa : BitVec 4) (sb : BitVec 5) : Statement (.dsCondAdd q aa sb) := by
  refine tile_of [(32, sb.toNat), (16, aa.toNat), (256, 4), (8, 1), (4, 0), (16, q.toNat), (32, 28)] (f := (.dsCondAdd q aa sb)) rfl rfl rfl (k := 1879181312 + q.toNat * 4194304 + aa.toNat * 32 + sb.toNat) rfl
    ⟨sb.isLt, aa.isLt, by decide, by decide, by decide, q.isLt, by decide, trivial⟩ (fun e => by simp only [pack]; omega) ?_
  rintro w hwf ⟨g0, g1, g2, g3, g4, g5, g6, -⟩
  rw [Nat.div_one] at g0
  rw [decode, g6, decode1C.eq_def, g2]
  simp only [g3]
  exact accept_ok (by rw [g4]; rfl) (by simp only [g0, g1, g5, BitVec.ofNat_toNat, BitVec.setWidth_eq]) hwf

theorem dsCondOr (q : BitVec 4) (aa : BitVec 4) (sb : BitVec 5) : Statement (.dsCondOr q aa sb) := by
  refine tile_of [(32, sb.toNat), (16, aa.toNat), (256, 4), (8, 2), (4, 0), (16, q.toNat), (32, 28)] (f := (.dsCondOr q aa sb)) rfl rfl rfl (k := 1879312384 + q.toNat * 4194304 + aa.toNat * 32 + sb.toNat) rfl
    ⟨sb.isLt, aa.isLt, by decide, by decide, by decide, q.isLt, by decide, trivial⟩ (fun e => by simp only [pack]; omega) ?_
  rintro w hwf ⟨g0, g1, g2, g3, g4, g5, g6, -⟩
  rw [Nat.div_one] at g0
  rw [decode, g6, decode1C.eq_def, g2]
  simp only [g3]
  exact accept_ok (by rw [g4]; rfl) (by simp only [g0, g1, g5, BitVec.ofNat_toNat, BitVec.setWidth_eq]) hwf

theorem dsCondAnd (q : BitVec 4) (aa : BitVec 4) (sb : BitVec 5) : Statement (.dsCondAnd q aa sb) := by
  refine tile_of [(32, sb.toNat), (16, aa.toNat), (256, 4), (8, 3), (4, 0), (16, q.toNat), (32, 28)] (f := (.dsCondAnd q aa sb)) rfl rfl rfl (k := 1879443456 + q.toNat * 4194304 + aa.toNat * 32 + sb.toNat) rfl
    ⟨sb.isLt, aa.isLt, by decide, by decide, by decide, q.isLt, by decide, trivial⟩ (fun e => by simp only [pack]; omega) ?_
  rintro w hwf ⟨g0, g1, g2, g3, g4, g5, g6, -⟩
  rw [Nat.div_one] at g0
  rw [decode, g6, decode1C.eq_def, g2]
  simp only [g3]
  exact accept_ok (by rw [g4]; rfl) (by simp only [g0, g1, g5, BitVec.ofNat_toNat, BitVec.setWidth_eq]) hwf

theorem dsGstart (q : BitVec 4) (aa : BitVec 4) (sb : BitVec 5) : Statement (.dsGstart q aa sb) := by
  refine tile_of [(32, sb.toNat), (16, aa.toNat), (256, 5), (32, 0), (16, q.toNat), (32, 28)] (f := (.dsGstart q aa sb)) rfl rfl rfl (k := 1879050752 + q.toNat * 4194304 + aa.toNat * 32 + sb.toNat) rfl
    ⟨sb.isLt, aa.isLt, by decide, by decide, q.isLt, by decide, trivial⟩ (fun e => by simp only [pack]; omega) ?_
  rintro w hwf ⟨g0, g1, g2, g3, g4, g5, -⟩
  rw [Nat.div_one] at g0
  rw [decode, g5, decode1C.eq_def, g2]
  exact accept_ok (by rw [g3]; rfl) (by simp only [g0, g1, g4, BitVec.ofNat_toNat, BitVec.setWidth_eq]) hwf

theorem dsGstop (q : BitVec 4) (aa : BitVec 4) (sb : BitVec 5) : Statement (.dsGstop q aa sb) := by
  refine tile_of [(32, sb.toNat), (16, aa.toNat), (256, 6), (32, 0), (16, q.toNat), (32, 28)] (f := (.dsGstop q aa sb)) rfl rfl rfl (k := 1879051264 + q.toNat * 4194304 + aa.toNat * 32 + sb.toNat) rfl
    ⟨sb.isLt, aa.isLt, by decide, by decide, q.isLt, by decide, trivial⟩ (fun e => by simp only [pack]; omega) ?_
  rintro w hwf ⟨g0, g1, g2, g3, g4, g5, -⟩
  rw [Nat.div_one] at g0
  rw [decode, g5, decode1C.eq_def, g2]
  exact accept_ok (by rw [g3]; rfl) (by simp only [g0, g1, g4, BitVec.ofNat_toNat, BitVec.setWidth_eq]) hwf

theorem dsWake (q : BitVec 4) (aa : BitVec 4) (sb : BitVec 5) : Statement (.dsWake q aa sb) := by
  refine tile_of [(32, sb.toNat), (16, aa.toNat), (256, 7), (32, 0), (16, q.toNat), (32, 28)] (f := (.dsWake q aa sb)) rfl rfl rfl (k := 1879051776 + q.toNat * 4194304 + aa.toNat * 32 + sb.toNat) rfl
    ⟨sb.isLt, aa.isLt, by decide, by decide, q.isLt, by decide, trivial⟩ (fun e => by simp only [pack]; omega) ?_
  rintro w hwf ⟨g0, g1, g2, g3, g4, g5, -⟩
  rw [Nat.div_one] at g0
  rw [decode, g5, decode1C.eq_def, g2]
  exact accept_ok (by rw [g3]; rfl) (by simp only [g0, g1, g4, BitVec.ofNat_toNat, BitVec.setWidth_eq]) hwf

theorem dsPrio (q : BitVec 4) (aa : BitVec 4) (sb : BitVec 5) : Statement (.dsPrio q aa sb) := by
  refine tile_of [(32, sb.toNat), (16, aa.toNat), (256, 8), (32, 0), (16, q.toNat), (32, 28)] (f := (.dsPrio q aa sb)) rfl rfl rfl (k := 1879052288 + q.toNat * 4194304 + aa.toNat * 32 + sb.toNat) rfl
    ⟨sb.isLt, aa.isLt, by decide, by decide, q.isLt, by decide, trivial⟩ (fun e => by simp only [pack]; omega) ?_
  rintro w hwf ⟨g0, g1, g2, g3, g4, g5, -⟩
  rw [Nat.div_one] at g0
  rw [decode, g5, decode1C.eq_def, g2]
  exact accept_ok (by rw [g3]; rfl) (by simp only [g0, g1, g4, BitVec.ofNat_toNat, BitVec.setWidth_eq]) hwf

theorem dsQuery (q : BitVec 4) (sb : BitVec 5) : Statement (.dsQuery q sb) := by
  refine tile_of [(32, sb.toNat), (16, 0), (256, 9), (32, 0), (16, q.toNat), (32, 28)] (f := (.dsQuery q sb)) rfl rfl rfl (k := 1879052800 + q.toNat * 4194304 + sb.toNat) rfl
    ⟨sb.isLt, by decide, by decide, by decide, q.isLt, by decide, trivial⟩ (fun e => by simp only [pack]; omega) ?_
  rintro w hwf ⟨g0, g1, g2, g3, g4, g5, -⟩
  rw [Nat.div_one] at g0
  rw [decode, g5, decode1C.eq_def, g2]
  exact accept_ok (by rw [g1, g3]; rfl) (by simp only [g0, g4, BitVec.ofNat_toNat, BitVec.setWidth_eq]) hwf

theorem tlInv (q : BitVec 4) (sc : BitVec 2) (aa : BitVec 4) (sb : BitVec 5) : Statement (.tlInv q sc aa sb) := by
  refine tile_of [(32, sb.toNat), (16, aa.toNat), (256, 0), (4, sc.toNat), (8, 0), (16, q.toNat), (32, 29)] (f := (.tlInv q sc aa sb)) rfl rfl rfl (k := 1946157056 + q.toNat * 4194304 + sc.toNat * 131072 + aa.toNat * 32 + sb.toNat) rfl
    ⟨sb.isLt, aa.isLt, by decide, sc.isLt, by decide, q.isLt, by decide, trivial⟩ (fun e => by simp only [pack]; omega) ?_
  rintro w hwf ⟨g0, g1, g2, g3, g4, g5, g6, -⟩
  rw [Nat.div_one] at g0
  rw [decode, g6, decode1D.eq_def, g2]
  exact accept_ok (by rw [g4]; rfl) (by simp only [g0, g1, g3, g5, BitVec.ofNat_toNat, BitVec.setWidth_eq]) hwf

theorem tlInva (q : BitVec 4) (sc : BitVec 2) (sb : BitVec 5) : Statement (.tlInva q sc sb) := by
  refine tile_of [(32, sb.toNat), (16, 0), (256, 1), (4, sc.toNat), (8, 0), (16, q.toNat), (32, 29)] (f := (.tlInva q sc sb)) rfl rfl rfl (k := 1946157568 + q.toNat * 4194304 + sc.toNat * 131072 + sb.toNat) rfl
    ⟨sb.isLt, by decide, by decide, sc.isLt, by decide, q.isLt, by decide, trivial⟩ (fun e => by simp only [pack]; omega) ?_
  rintro w hwf ⟨g0, g1, g2, g3, g4, g5, g6, -⟩
  rw [Nat.div_one] at g0
  rw [decode, g6, decode1D.eq_def, g2]
  exact accept_ok (by rw [g1, g4]; rfl) (by simp only [g0, g3, g5, BitVec.ofNat_toNat, BitVec.setWidth_eq]) hwf

theorem tlProbe (q : BitVec 4) (aa : BitVec 4) (sb : BitVec 5) : Statement (.tlProbe q aa sb) := by
  refine tile_of [(32, sb.toNat), (16, aa.toNat), (256, 2), (32, 0), (16, q.toNat), (32, 29)] (f := (.tlProbe q aa sb)) rfl rfl rfl (k := 1946158080 + q.toNat * 4194304 + aa.toNat * 32 + sb.toNat) rfl
    ⟨sb.isLt, aa.isLt, by decide, by decide, q.isLt, by decide, trivial⟩ (fun e => by simp only [pack]; omega) ?_
  rintro w hwf ⟨g0, g1, g2, g3, g4, g5, -⟩
  rw [Nat.div_one] at g0
  rw [decode, g5, decode1D.eq_def, g2]
  exact accept_ok (by rw [g3]; rfl) (by simp only [g0, g1, g4, BitVec.ofNat_toNat, BitVec.setWidth_eq]) hwf

theorem tlRoot (q : BitVec 4) (aa : BitVec 4) (sb : BitVec 5) : Statement (.tlRoot q aa sb) := by
  refine tile_of [(32, sb.toNat), (16, aa.toNat), (256, 3), (32, 0), (16, q.toNat), (32, 29)] (f := (.tlRoot q aa sb)) rfl rfl rfl (k := 1946158592 + q.toNat * 4194304 + aa.toNat * 32 + sb.toNat) rfl
    ⟨sb.isLt, aa.isLt, by decide, by decide, q.isLt, by decide, trivial⟩ (fun e => by simp only [pack]; omega) ?_
  rintro w hwf ⟨g0, g1, g2, g3, g4, g5, -⟩
  rw [Nat.div_one] at g0
  rw [decode, g5, decode1D.eq_def, g2]
  exact accept_ok (by rw [g3]; rfl) (by simp only [g0, g1, g4, BitVec.ofNat_toNat, BitVec.setWidth_eq]) hwf

theorem tlHash (q : BitVec 4) (aa : BitVec 4) (sb : BitVec 5) : Statement (.tlHash q aa sb) := by
  refine tile_of [(32, sb.toNat), (16, aa.toNat), (256, 4), (32, 0), (16, q.toNat), (32, 29)] (f := (.tlHash q aa sb)) rfl rfl rfl (k := 1946159104 + q.toNat * 4194304 + aa.toNat * 32 + sb.toNat) rfl
    ⟨sb.isLt, aa.isLt, by decide, by decide, q.isLt, by decide, trivial⟩ (fun e => by simp only [pack]; omega) ?_
  rintro w hwf ⟨g0, g1, g2, g3, g4, g5, -⟩
  rw [Nat.div_one] at g0
  rw [decode, g5, decode1D.eq_def, g2]
  exact accept_ok (by rw [g3]; rfl) (by simp only [g0, g1, g4, BitVec.ofNat_toNat, BitVec.setWidth_eq]) hwf

theorem tlDlog (q : BitVec 4) (aa : BitVec 4) (sb : BitVec 5) : Statement (.tlDlog q aa sb) := by
  refine tile_of [(32, sb.toNat), (16, aa.toNat), (256, 5), (32, 0), (16, q.toNat), (32, 29)] (f := (.tlDlog q aa sb)) rfl rfl rfl (k := 1946159616 + q.toNat * 4194304 + aa.toNat * 32 + sb.toNat) rfl
    ⟨sb.isLt, aa.isLt, by decide, by decide, q.isLt, by decide, trivial⟩ (fun e => by simp only [pack]; omega) ?_
  rintro w hwf ⟨g0, g1, g2, g3, g4, g5, -⟩
  rw [Nat.div_one] at g0
  rw [decode, g5, decode1D.eq_def, g2]
  exact accept_ok (by rw [g3]; rfl) (by simp only [g0, g1, g4, BitVec.ofNat_toNat, BitVec.setWidth_eq]) hwf

theorem ptQuiesce (q : BitVec 4) (sb : BitVec 5) : Statement (.ptQuiesce q sb) := by
  refine tile_of [(32, sb.toNat), (16, 0), (256, 16), (32, 0), (16, q.toNat), (32, 29)] (f := (.ptQuiesce q sb)) rfl rfl rfl (k := 1946165248 + q.toNat * 4194304 + sb.toNat) rfl
    ⟨sb.isLt, by decide, by decide, by decide, q.isLt, by decide, trivial⟩ (fun e => by simp only [pack]; omega) ?_
  rintro w hwf ⟨g0, g1, g2, g3, g4, g5, -⟩
  rw [Nat.div_one] at g0
  rw [decode, g5, decode1D.eq_def, g2]
  exact accept_ok (by rw [g1, g3]; rfl) (by simp only [g0, g4, BitVec.ofNat_toNat, BitVec.setWidth_eq]) hwf

theorem ptResume (q : BitVec 4) (sb : BitVec 5) : Statement (.ptResume q sb) := by
  refine tile_of [(32, sb.toNat), (16, 0), (256, 16), (32, 0), (16, q.toNat), (32, 29)] (f := (.ptQuiesce q sb)) rfl rfl rfl (k := 1946165248 + q.toNat * 4194304 + sb.toNat) rfl
    ⟨sb.isLt, by decide, by decide, by decide, q.isLt, by decide, trivial⟩ (fun e => by simp only [pack]; omega) ?_
  rintro w hwf ⟨g0, g1, g2, g3, g4, g5, -⟩
  rw [Nat.div_one] at g0
  rw [decode, g5, decode1D.eq_def, g2]
  exact accept_ok (by rw [g1, g3]; rfl) (by simp only [g0, g4, BitVec.ofNat_toNat, BitVec.setWidth_eq]) hwf

theorem ptStateRead (q : BitVec 4) (sb : BitVec 5) : Statement (.ptStateRead q sb) := by
  refine tile_of [(32, sb.toNat), (16, 0), (256, 16), (32, 0), (16, q.toNat), (32, 29)] (f := (.ptQuiesce q sb)) rfl rfl rfl (k := 1946165248 + q.toNat * 4194304 + sb.toNat) rfl
    ⟨sb.isLt, by decide, by decide, by decide, q.isLt, by decide, trivial⟩ (fun e => by simp only [pack]; omega) ?_
  rintro w hwf ⟨g0, g1, g2, g3, g4, g5, -⟩
  rw [Nat.div_one] at g0
  rw [decode, g5, decode1D.eq_def, g2]
  exact accept_ok (by rw [g1, g3]; rfl) (by simp only [g0, g4, BitVec.ofNat_toNat, BitVec.setWidth_eq]) hwf

theorem ptLayout (q : BitVec 4) (aa : BitVec 4) (sb : BitVec 5) : Statement (.ptLayout q aa sb) := by
  refine tile_of [(32, sb.toNat), (16, aa.toNat), (256, 17), (32, 0), (16, q.toNat), (32, 29)] (f := (.ptLayout q aa sb)) rfl rfl rfl (k := 1946165760 + q.toNat * 4194304 + aa.toNat * 32 + sb.toNat) rfl
    ⟨sb.isLt, aa.isLt, by decide, by decide, q.isLt, by decide, trivial⟩ (fun e => by simp only [pack]; omega) ?_
  rintro w hwf ⟨g0, g1, g2, g3, g4, g5, -⟩
  rw [Nat.div_one] at g0
  rw [decode, g5, decode1D.eq_def, g2]
  exact accept_ok (by rw [g3]; rfl) (by simp only [g0, g1, g4, BitVec.ofNat_toNat, BitVec.setWidth_eq]) hwf

theorem ptVfsetAssign (q : BitVec 4) (aa : BitVec 4) (sb : BitVec 5) : Statement (.ptVfsetAssign q aa sb) := by
  refine tile_of [(32, sb.toNat), (16, aa.toNat), (256, 18), (32, 0), (16, q.toNat), (32, 29)] (f := (.ptVfsetAssign q aa sb)) rfl rfl rfl (k := 1946166272 + q.toNat * 4194304 + aa.toNat * 32 + sb.toNat) rfl
    ⟨sb.isLt, aa.isLt, by decide, by decide, q.isLt, by decide, trivial⟩ (fun e => by simp only [pack]; omega) ?_
  rintro w hwf ⟨g0, g1, g2, g3, g4, g5, -⟩
  rw [Nat.div_one] at g0
  rw [decode, g5, decode1D.eq_def, g2]
  exact accept_ok (by rw [g3]; rfl) (by simp only [g0, g1, g4, BitVec.ofNat_toNat, BitVec.setWidth_eq]) hwf

theorem ptVfsetRelease (q : BitVec 4) (aa : BitVec 4) (sb : BitVec 5) : Statement (.ptVfsetRelease q aa sb) := by
  refine tile_of [(32, sb.toNat), (16, aa.toNat), (256, 18), (32, 0), (16, q.toNat), (32, 29)] (f := (.ptVfsetAssign q aa sb)) rfl rfl rfl (k := 1946166272 + q.toNat * 4194304 + aa.toNat * 32 + sb.toNat) rfl
    ⟨sb.isLt, aa.isLt, by decide, by decide, q.isLt, by decide, trivial⟩ (fun e => by simp only [pack]; omega) ?_
  rintro w hwf ⟨g0, g1, g2, g3, g4, g5, -⟩
  rw [Nat.div_one] at g0
  rw [decode, g5, decode1D.eq_def, g2]
  exact accept_ok (by rw [g3]; rfl) (by simp only [g0, g1, g4, BitVec.ofNat_toNat, BitVec.setWidth_eq]) hwf

theorem ptWays (q : BitVec 4) (sb : BitVec 5) : Statement (.ptWays q sb) := by
  refine tile_of [(32, sb.toNat), (16, 0), (256, 19), (32, 0), (16, q.toNat), (32, 29)] (f := (.ptWays q sb)) rfl rfl rfl (k := 1946166784 + q.toNat * 4194304 + sb.toNat) rfl
    ⟨sb.isLt, by decide, by decide, by decide, q.isLt, by decide, trivial⟩ (fun e => by simp only [pack]; omega) ?_
  rintro w hwf ⟨g0, g1, g2, g3, g4, g5, -⟩
  rw [Nat.div_one] at g0
  rw [decode, g5, decode1D.eq_def, g2]
  exact accept_ok (by rw [g1, g3]; rfl) (by simp only [g0, g4, BitVec.ofNat_toNat, BitVec.setWidth_eq]) hwf

theorem ptMove (q : BitVec 4) (aa : BitVec 4) (sb : BitVec 5) : Statement (.ptMove q aa sb) := by
  refine tile_of [(32, sb.toNat), (16, aa.toNat), (256, 20), (32, 0), (16, q.toNat), (32, 29)] (f := (.ptMove q aa sb)) rfl rfl rfl (k := 1946167296 + q.toNat * 4194304 + aa.toNat * 32 + sb.toNat) rfl
    ⟨sb.isLt, aa.isLt, by decide, by decide, q.isLt, by decide, trivial⟩ (fun e => by simp only [pack]; omega) ?_
  rintro w hwf ⟨g0, g1, g2, g3, g4, g5, -⟩
  rw [Nat.div_one] at g0
  rw [decode, g5, decode1D.eq_def, g2]
  exact accept_ok (by rw [g3]; rfl) (by simp only [g0, g1, g4, BitVec.ofNat_toNat, BitVec.setWidth_eq]) hwf

theorem ptRetire (q : BitVec 4) (aa : BitVec 4) (sb : BitVec 5) : Statement (.ptRetire q aa sb) := by
  refine tile_of [(32, sb.toNat), (16, aa.toNat), (256, 20), (32, 0), (16, q.toNat), (32, 29)] (f := (.ptMove q aa sb)) rfl rfl rfl (k := 1946167296 + q.toNat * 4194304 + aa.toNat * 32 + sb.toNat) rfl
    ⟨sb.isLt, aa.isLt, by decide, by decide, q.isLt, by decide, trivial⟩ (fun e => by simp only [pack]; omega) ?_
  rintro w hwf ⟨g0, g1, g2, g3, g4, g5, -⟩
  rw [Nat.div_one] at g0
  rw [decode, g5, decode1D.eq_def, g2]
  exact accept_ok (by rw [g3]; rfl) (by simp only [g0, g1, g4, BitVec.ofNat_toNat, BitVec.setWidth_eq]) hwf

theorem ptFlr (q : BitVec 4) (sb : BitVec 5) : Statement (.ptFlr q sb) := by
  refine tile_of [(32, sb.toNat), (16, 0), (256, 21), (32, 0), (16, q.toNat), (32, 29)] (f := (.ptFlr q sb)) rfl rfl rfl (k := 1946167808 + q.toNat * 4194304 + sb.toNat) rfl
    ⟨sb.isLt, by decide, by decide, by decide, q.isLt, by decide, trivial⟩ (fun e => by simp only [pack]; omega) ?_
  rintro w hwf ⟨g0, g1, g2, g3, g4, g5, -⟩
  rw [Nat.div_one] at g0
  rw [decode, g5, decode1D.eq_def, g2]
  exact accept_ok (by rw [g1, g3]; rfl) (by simp only [g0, g4, BitVec.ofNat_toNat, BitVec.setWidth_eq]) hwf

theorem gtLset (q : BitVec 4) (sb : BitVec 5) : Statement (.gtLset q sb) := by
  refine tile_of [(32, sb.toNat), (16, 0), (256, 32), (32, 0), (16, q.toNat), (32, 29)] (f := (.gtLset q sb)) rfl rfl rfl (k := 1946173440 + q.toNat * 4194304 + sb.toNat) rfl
    ⟨sb.isLt, by decide, by decide, by decide, q.isLt, by decide, trivial⟩ (fun e => by simp only [pack]; omega) ?_
  rintro w hwf ⟨g0, g1, g2, g3, g4, g5, -⟩
  rw [Nat.div_one] at g0
  rw [decode, g5, decode1D.eq_def, g2]
  exact accept_ok (by rw [g1, g3]; rfl) (by simp only [g0, g4, BitVec.ofNat_toNat, BitVec.setWidth_eq]) hwf

theorem gtParty (q : BitVec 4) (aa : BitVec 4) (sb : BitVec 5) : Statement (.gtParty q aa sb) := by
  refine tile_of [(32, sb.toNat), (16, aa.toNat), (256, 33), (32, 0), (16, q.toNat), (32, 29)] (f := (.gtParty q aa sb)) rfl rfl rfl (k := 1946173952 + q.toNat * 4194304 + aa.toNat * 32 + sb.toNat) rfl
    ⟨sb.isLt, aa.isLt, by decide, by decide, q.isLt, by decide, trivial⟩ (fun e => by simp only [pack]; omega) ?_
  rintro w hwf ⟨g0, g1, g2, g3, g4, g5, -⟩
  rw [Nat.div_one] at g0
  rw [decode, g5, decode1D.eq_def, g2]
  exact accept_ok (by rw [g3]; rfl) (by simp only [g0, g1, g4, BitVec.ofNat_toNat, BitVec.setWidth_eq]) hwf

theorem gtReleaseInstall (q : BitVec 4) (aa : BitVec 4) (sb : BitVec 5) : Statement (.gtReleaseInstall q aa sb) := by
  refine tile_of [(32, sb.toNat), (16, aa.toNat), (256, 34), (32, 0), (16, q.toNat), (32, 29)] (f := (.gtReleaseInstall q aa sb)) rfl rfl rfl (k := 1946174464 + q.toNat * 4194304 + aa.toNat * 32 + sb.toNat) rfl
    ⟨sb.isLt, aa.isLt, by decide, by decide, q.isLt, by decide, trivial⟩ (fun e => by simp only [pack]; omega) ?_
  rintro w hwf ⟨g0, g1, g2, g3, g4, g5, -⟩
  rw [Nat.div_one] at g0
  rw [decode, g5, decode1D.eq_def, g2]
  exact accept_ok (by rw [g3]; rfl) (by simp only [g0, g1, g4, BitVec.ofNat_toNat, BitVec.setWidth_eq]) hwf

theorem gtReleaseRevoke (q : BitVec 4) (aa : BitVec 4) (sb : BitVec 5) : Statement (.gtReleaseRevoke q aa sb) := by
  refine tile_of [(32, sb.toNat), (16, aa.toNat), (256, 34), (32, 0), (16, q.toNat), (32, 29)] (f := (.gtReleaseInstall q aa sb)) rfl rfl rfl (k := 1946174464 + q.toNat * 4194304 + aa.toNat * 32 + sb.toNat) rfl
    ⟨sb.isLt, aa.isLt, by decide, by decide, q.isLt, by decide, trivial⟩ (fun e => by simp only [pack]; omega) ?_
  rintro w hwf ⟨g0, g1, g2, g3, g4, g5, -⟩
  rw [Nat.div_one] at g0
  rw [decode, g5, decode1D.eq_def, g2]
  exact accept_ok (by rw [g3]; rfl) (by simp only [g0, g1, g4, BitVec.ofNat_toNat, BitVec.setWidth_eq]) hwf

theorem gtReleaseApply (q : BitVec 4) (aa : BitVec 4) (sb : BitVec 5) : Statement (.gtReleaseApply q aa sb) := by
  refine tile_of [(32, sb.toNat), (16, aa.toNat), (256, 34), (32, 0), (16, q.toNat), (32, 29)] (f := (.gtReleaseInstall q aa sb)) rfl rfl rfl (k := 1946174464 + q.toNat * 4194304 + aa.toNat * 32 + sb.toNat) rfl
    ⟨sb.isLt, aa.isLt, by decide, by decide, q.isLt, by decide, trivial⟩ (fun e => by simp only [pack]; omega) ?_
  rintro w hwf ⟨g0, g1, g2, g3, g4, g5, -⟩
  rw [Nat.div_one] at g0
  rw [decode, g5, decode1D.eq_def, g2]
  exact accept_ok (by rw [g3]; rfl) (by simp only [g0, g1, g4, BitVec.ofNat_toNat, BitVec.setWidth_eq]) hwf

theorem jxRecv (t : BitVec 5) (s : BitVec 5) (d : BitVec 5) : Statement (.jxRecv t s d) := by
  refine ⟨fun h => absurd h Bool.false_ne_true, fun _ => ?_⟩
  have ht := t.isLt
  have hs := s.isLt
  have hd := d.isLt
  rw [show encode (.jxRecv t s d) = 11 + t.toNat * 1048576 + s.toNat * 32768 + d.toNat * 128 from rfl, decodeJx]
  simp only [Bool.and_eq_true, beq_iff_eq]
  rw [if_pos (by omega)]
  rw [ofNat_of t (by omega), ofNat_of s (by omega), ofNat_of d (by omega)]

theorem jxSend (t : BitVec 5) (s : BitVec 5) (d : BitVec 5) : Statement (.jxSend t s d) := by
  refine ⟨fun h => absurd h Bool.false_ne_true, fun _ => ?_⟩
  have ht := t.isLt
  have hs := s.isLt
  have hd := d.isLt
  rw [show encode (.jxSend t s d) = 4107 + t.toNat * 1048576 + s.toNat * 32768 + d.toNat * 128 from rfl, decodeJx]
  simp only [Bool.and_eq_true, beq_iff_eq]
  repeat rw [if_neg (by omega)]
  rw [if_pos (by omega)]
  rw [ofNat_of t (by omega), ofNat_of s (by omega), ofNat_of d (by omega)]

theorem jxWait (s : BitVec 5) (d : BitVec 5) : Statement (.jxWait s d) := by
  refine ⟨fun h => absurd h Bool.false_ne_true, fun _ => ?_⟩
  have hs := s.isLt
  have hd := d.isLt
  rw [show encode (.jxWait s d) = 8203 + s.toNat * 32768 + d.toNat * 128 from rfl, decodeJx]
  simp only [Bool.and_eq_true, beq_iff_eq]
  repeat rw [if_neg (by omega)]
  rw [if_pos (by omega)]
  rw [ofNat_of s (by omega), ofNat_of d (by omega)]

theorem jxEnd : Statement .jxEnd := ⟨fun h => absurd h Bool.false_ne_true, fun _ => rfl⟩

theorem jxEcreate (s : BitVec 5) (d : BitVec 5) : Statement (.jxEcreate s d) := by
  refine ⟨fun h => absurd h Bool.false_ne_true, fun _ => ?_⟩
  have hs := s.isLt
  have hd := d.isLt
  rw [show encode (.jxEcreate s d) = 43 + s.toNat * 32768 + d.toNat * 128 from rfl, decodeJx]
  simp only [Bool.and_eq_true, beq_iff_eq]
  repeat rw [if_neg (by omega)]
  rw [if_pos (by omega)]
  rw [ofNat_of s (by omega), ofNat_of d (by omega)]

theorem jxEload (s : BitVec 5) (d : BitVec 5) : Statement (.jxEload s d) := by
  refine ⟨fun h => absurd h Bool.false_ne_true, fun _ => ?_⟩
  have hs := s.isLt
  have hd := d.isLt
  rw [show encode (.jxEload s d) = 4139 + s.toNat * 32768 + d.toNat * 128 from rfl, decodeJx]
  simp only [Bool.and_eq_true, beq_iff_eq]
  repeat rw [if_neg (by omega)]
  rw [if_pos (by omega)]
  rw [ofNat_of s (by omega), ofNat_of d (by omega)]

theorem jxEpark (d : BitVec 5) : Statement (.jxEpark d) := by
  refine ⟨fun h => absurd h Bool.false_ne_true, fun _ => ?_⟩
  have hd := d.isLt
  rw [show encode (.jxEpark d) = 8235 + d.toNat * 128 from rfl, decodeJx]
  simp only [Bool.and_eq_true, beq_iff_eq]
  repeat rw [if_neg (by omega)]
  rw [if_pos (by omega)]
  rw [ofNat_of d (by omega)]

theorem jxMabort (s : BitVec 5) (d : BitVec 5) : Statement (.jxMabort s d) := by
  refine ⟨fun h => absurd h Bool.false_ne_true, fun _ => ?_⟩
  have hs := s.isLt
  have hd := d.isLt
  rw [show encode (.jxMabort s d) = 12331 + s.toNat * 32768 + d.toNat * 128 from rfl, decodeJx]
  simp only [Bool.and_eq_true, beq_iff_eq]
  repeat rw [if_neg (by omega)]
  rw [if_pos (by omega)]
  rw [ofNat_of s (by omega), ofNat_of d (by omega)]

theorem jxWaitResume : Statement (.jxWaitResume) := ⟨fun h => absurd h Bool.false_ne_true, fun h => absurd h Bool.false_ne_true⟩
theorem claim : Statement (.claim) := ⟨fun h => absurd h Bool.false_ne_true, fun h => absurd h Bool.false_ne_true⟩
theorem landingArrival (k : Nat) : Statement (.landingArrival k) := ⟨fun h => absurd h Bool.false_ne_true, fun h => absurd h Bool.false_ne_true⟩
theorem landingTimeout : Statement (.landingTimeout) := ⟨fun h => absurd h Bool.false_ne_true, fun h => absurd h Bool.false_ne_true⟩
theorem safePointOverrun : Statement (.safePointOverrun) := ⟨fun h => absurd h Bool.false_ne_true, fun h => absurd h Bool.false_ne_true⟩
theorem trap (c : BitVec 8) (info : BitVec 64) (addr : Addr) : Statement (.trap c info addr) := ⟨fun h => absurd h Bool.false_ne_true, fun h => absurd h Bool.false_ne_true⟩
theorem faultQueuePost : Statement (.faultQueuePost) := ⟨fun h => absurd h Bool.false_ne_true, fun h => absurd h Bool.false_ne_true⟩
theorem sliceEnd : Statement (.sliceEnd) := ⟨fun h => absurd h Bool.false_ne_true, fun h => absurd h Bool.false_ne_true⟩
theorem priorityPreemption : Statement (.priorityPreemption) := ⟨fun h => absurd h Bool.false_ne_true, fun h => absurd h Bool.false_ne_true⟩
theorem waitConditionMet (r : BitVec 56) : Statement (.waitConditionMet r) := ⟨fun h => absurd h Bool.false_ne_true, fun h => absurd h Bool.false_ne_true⟩
theorem waitDeadline (r : BitVec 56) : Statement (.waitDeadline r) := ⟨fun h => absurd h Bool.false_ne_true, fun h => absurd h Bool.false_ne_true⟩
theorem readyTableAdmit (r : BitVec 56) : Statement (.readyTableAdmit r) := ⟨fun h => absurd h Bool.false_ne_true, fun h => absurd h Bool.false_ne_true⟩
theorem spinSuspend : Statement (.spinSuspend) := ⟨fun h => absurd h Bool.false_ne_true, fun h => absurd h Bool.false_ne_true⟩
theorem heldGroupIssue : Statement (.heldGroupIssue) := ⟨fun h => absurd h Bool.false_ne_true, fun h => absurd h Bool.false_ne_true⟩
theorem barrierArrival (n : BitVec 4) (vf : BitVec 9) : Statement (.barrierArrival n vf) := ⟨fun h => absurd h Bool.false_ne_true, fun h => absurd h Bool.false_ne_true⟩
theorem pageWalk (va : Addr) (vf : BitVec 9) (kind : BitVec 2) (prv : BitVec 2) : Statement (.pageWalk va vf kind prv) := ⟨fun h => absurd h Bool.false_ne_true, fun h => absurd h Bool.false_ne_true⟩
theorem rds (line : Nat) (r : Nat) : Statement (.rds line r) := ⟨fun h => absurd h Bool.false_ne_true, fun h => absurd h Bool.false_ne_true⟩
theorem rdx (line : Nat) (r : Nat) : Statement (.rdx line r) := ⟨fun h => absurd h Bool.false_ne_true, fun h => absurd h Bool.false_ne_true⟩
theorem upg (line : Nat) (r : Nat) : Statement (.upg line r) := ⟨fun h => absurd h Bool.false_ne_true, fun h => absurd h Bool.false_ne_true⟩
theorem wbd (line : Nat) (r : Nat) : Statement (.wbd line r) := ⟨fun h => absurd h Bool.false_ne_true, fun h => absurd h Bool.false_ne_true⟩
theorem evc (line : Nat) (r : Nat) : Statement (.evc line r) := ⟨fun h => absurd h Bool.false_ne_true, fun h => absurd h Bool.false_ne_true⟩
theorem fwds (line : Nat) (o : Nat) : Statement (.fwds line o) := ⟨fun h => absurd h Bool.false_ne_true, fun h => absurd h Bool.false_ne_true⟩
theorem fwdx (line : Nat) (o : Nat) : Statement (.fwdx line o) := ⟨fun h => absurd h Bool.false_ne_true, fun h => absurd h Bool.false_ne_true⟩
theorem inv (line : Nat) (o : Nat) : Statement (.inv line o) := ⟨fun h => absurd h Bool.false_ne_true, fun h => absurd h Bool.false_ne_true⟩
theorem dat (line : Nat) (r : Nat) : Statement (.dat line r) := ⟨fun h => absurd h Bool.false_ne_true, fun h => absurd h Bool.false_ne_true⟩
theorem cmpMessage (line : Nat) (r : Nat) : Statement (.cmpMessage line r) := ⟨fun h => absurd h Bool.false_ne_true, fun h => absurd h Bool.false_ne_true⟩
theorem ack (line : Nat) (r : Nat) : Statement (.ack line r) := ⟨fun h => absurd h Bool.false_ne_true, fun h => absurd h Bool.false_ne_true⟩
theorem don (line : Nat) (r : Nat) : Statement (.don line r) := ⟨fun h => absurd h Bool.false_ne_true, fun h => absurd h Bool.false_ne_true⟩
theorem dieLinkFailure (a b : Nat) : Statement (.dieLinkFailure a b) := ⟨fun h => absurd h Bool.false_ne_true, fun h => absurd h Bool.false_ne_true⟩
theorem uncorrectableError (pa : BitVec 56) : Statement (.uncorrectableError pa) := ⟨fun h => absurd h Bool.false_ne_true, fun h => absurd h Bool.false_ne_true⟩
theorem correctableError (pa : BitVec 56) : Statement (.correctableError pa) := ⟨fun h => absurd h Bool.false_ne_true, fun h => absurd h Bool.false_ne_true⟩
theorem commandCompletion (k : Nat) : Statement (.commandCompletion k) := ⟨fun h => absurd h Bool.false_ne_true, fun h => absurd h Bool.false_ne_true⟩
theorem overlayLoadComplete : Statement (.overlayLoadComplete) := ⟨fun h => absurd h Bool.false_ne_true, fun h => absurd h Bool.false_ne_true⟩
theorem cpCszWrite (v : BitVec 64) : Statement (.cpCszWrite v) := ⟨fun h => absurd h Bool.false_ne_true, fun h => absurd h Bool.false_ne_true⟩
theorem fpSeedWrite (v : BitVec 64) (lbl : Label) : Statement (.fpSeedWrite v lbl) := ⟨fun h => absurd h Bool.false_ne_true, fun h => absurd h Bool.false_ne_true⟩
theorem fpVcfgWrite (v : BitVec 64) (lbl : Label) : Statement (.fpVcfgWrite v lbl) := ⟨fun h => absurd h Bool.false_ne_true, fun h => absurd h Bool.false_ne_true⟩
theorem fpModeWrite (v : BitVec 64) (lbl : Label) : Statement (.fpModeWrite v lbl) := ⟨fun h => absurd h Bool.false_ne_true, fun h => absurd h Bool.false_ne_true⟩
theorem patternLoadEnd : Statement (.patternLoadEnd) := ⟨fun h => absurd h Bool.false_ne_true, fun h => absurd h Bool.false_ne_true⟩
theorem blockPortWrite : Statement (.blockPortWrite) := ⟨fun h => absurd h Bool.false_ne_true, fun h => absurd h Bool.false_ne_true⟩
theorem subarrayIdleOff (i : BitVec 2) : Statement (.subarrayIdleOff i) := ⟨fun h => absurd h Bool.false_ne_true, fun h => absurd h Bool.false_ne_true⟩
theorem subarrayOn (i : BitVec 2) : Statement (.subarrayOn i) := ⟨fun h => absurd h Bool.false_ne_true, fun h => absurd h Bool.false_ne_true⟩
theorem mxPoolWrite (v : BitVec 64) : Statement (.mxPoolWrite v) := ⟨fun h => absurd h Bool.false_ne_true, fun h => absurd h Bool.false_ne_true⟩
theorem taskStart (k : Nat) : Statement (.taskStart k) := ⟨fun h => absurd h Bool.false_ne_true, fun h => absurd h Bool.false_ne_true⟩
theorem taskEnd (k : Nat) : Statement (.taskEnd k) := ⟨fun h => absurd h Bool.false_ne_true, fun h => absurd h Bool.false_ne_true⟩
theorem nodePull (h : BitVec 32) (seg : Nat) (node : Nat) : Statement (.nodePull h seg node) := ⟨fun h => absurd h Bool.false_ne_true, fun h => absurd h Bool.false_ne_true⟩
theorem takeDelivery (h : BitVec 32) (seg : Nat) (member : Nat) : Statement (.takeDelivery h seg member) := ⟨fun h => absurd h Bool.false_ne_true, fun h => absurd h Bool.false_ne_true⟩
theorem configRefill (h : BitVec 32) : Statement (.configRefill h) := ⟨fun h => absurd h Bool.false_ne_true, fun h => absurd h Bool.false_ne_true⟩
theorem clRingWrite (v : BitVec 64) : Statement (.clRingWrite v) := ⟨fun h => absurd h Bool.false_ne_true, fun h => absurd h Bool.false_ne_true⟩
theorem instructionBudgetExpiry : Statement (.instructionBudgetExpiry) := ⟨fun h => absurd h Bool.false_ne_true, fun h => absurd h Bool.false_ne_true⟩
theorem wallBudgetExpiry (ep : BitVec 12) : Statement (.wallBudgetExpiry ep) := ⟨fun h => absurd h Bool.false_ne_true, fun h => absurd h Bool.false_ne_true⟩
theorem episodeWipeComplete (ep : BitVec 12) : Statement (.episodeWipeComplete ep) := ⟨fun h => absurd h Bool.false_ne_true, fun h => absurd h Bool.false_ne_true⟩
theorem jwi : Statement (.jwi) := ⟨fun h => absurd h Bool.false_ne_true, fun h => absurd h Bool.false_ne_true⟩
theorem jackWrite (v : BitVec 64) : Statement (.jackWrite v) := ⟨fun h => absurd h Bool.false_ne_true, fun h => absurd h Bool.false_ne_true⟩
theorem poolSlotEnqueue (part : BitVec 4) (slot : Nat) : Statement (.poolSlotEnqueue part slot) := ⟨fun h => absurd h Bool.false_ne_true, fun h => absurd h Bool.false_ne_true⟩
theorem graphActivation : Statement (.graphActivation) := ⟨fun h => absurd h Bool.false_ne_true, fun h => absurd h Bool.false_ne_true⟩
theorem dsAbortGo (core : BitVec 8) : Statement (.dsAbortGo core) := ⟨fun h => absurd h Bool.false_ne_true, fun h => absurd h Bool.false_ne_true⟩
theorem policyInstallComplete (k : Nat) : Statement (.policyInstallComplete k) := ⟨fun h => absurd h Bool.false_ne_true, fun h => absurd h Bool.false_ne_true⟩
theorem scrubLine : Statement (.scrubLine) := ⟨fun h => absurd h Bool.false_ne_true, fun h => absurd h Bool.false_ne_true⟩
theorem frameMove : Statement (.frameMove) := ⟨fun h => absurd h Bool.false_ne_true, fun h => absurd h Bool.false_ne_true⟩
theorem mediaEntryTake (e : BitVec 4) (c : BitVec 4) : Statement (.mediaEntryTake e c) := ⟨fun h => absurd h Bool.false_ne_true, fun h => absurd h Bool.false_ne_true⟩
theorem mediaDecode (e : BitVec 4) (c : BitVec 4) : Statement (.mediaDecode e c) := ⟨fun h => absurd h Bool.false_ne_true, fun h => absurd h Bool.false_ne_true⟩
theorem mediaFlush (e : BitVec 4) (c : BitVec 4) : Statement (.mediaFlush e c) := ⟨fun h => absurd h Bool.false_ne_true, fun h => absurd h Bool.false_ne_true⟩
theorem mediaReset (e : BitVec 4) (c : BitVec 4) : Statement (.mediaReset e c) := ⟨fun h => absurd h Bool.false_ne_true, fun h => absurd h Bool.false_ne_true⟩
theorem mediaCompletion (e : BitVec 4) (c : BitVec 4) : Statement (.mediaCompletion e c) := ⟨fun h => absurd h Bool.false_ne_true, fun h => absurd h Bool.false_ne_true⟩
theorem msCtlWrite (e : BitVec 4) (c : BitVec 4) (v : BitVec 64) : Statement (.msCtlWrite e c v) := ⟨fun h => absurd h Bool.false_ne_true, fun h => absurd h Bool.false_ne_true⟩
theorem hostMemoryRead (port : BitVec 1) (off : BitVec 56) (n : Nat) : Statement (.hostMemoryRead port off n) := ⟨fun h => absurd h Bool.false_ne_true, fun h => absurd h Bool.false_ne_true⟩
theorem hostMemoryWrite (port : BitVec 1) (off : BitVec 56) (data : List (BitVec 8)) : Statement (.hostMemoryWrite port off data) := ⟨fun h => absurd h Bool.false_ne_true, fun h => absurd h Bool.false_ne_true⟩
theorem hostAtomic (port : BitVec 1) (off : BitVec 56) (op : BitVec 2) (size : Nat) (x y : BitVec 64) : Statement (.hostAtomic port off op size x y) := ⟨fun h => absurd h Bool.false_ne_true, fun h => absurd h Bool.false_ne_true⟩
theorem spdmGetVersion (port : BitVec 1) : Statement (.spdmGetVersion port) := ⟨fun h => absurd h Bool.false_ne_true, fun h => absurd h Bool.false_ne_true⟩
theorem spdmGetCapabilities (port : BitVec 1) : Statement (.spdmGetCapabilities port) := ⟨fun h => absurd h Bool.false_ne_true, fun h => absurd h Bool.false_ne_true⟩
theorem spdmNegotiateAlgorithms (port : BitVec 1) : Statement (.spdmNegotiateAlgorithms port) := ⟨fun h => absurd h Bool.false_ne_true, fun h => absurd h Bool.false_ne_true⟩
theorem spdmGetDigests (port : BitVec 1) : Statement (.spdmGetDigests port) := ⟨fun h => absurd h Bool.false_ne_true, fun h => absurd h Bool.false_ne_true⟩
theorem spdmGetCertificate (port : BitVec 1) : Statement (.spdmGetCertificate port) := ⟨fun h => absurd h Bool.false_ne_true, fun h => absurd h Bool.false_ne_true⟩
theorem spdmChallenge (port : BitVec 1) : Statement (.spdmChallenge port) := ⟨fun h => absurd h Bool.false_ne_true, fun h => absurd h Bool.false_ne_true⟩
theorem spdmGetMeasurements (port : BitVec 1) : Statement (.spdmGetMeasurements port) := ⟨fun h => absurd h Bool.false_ne_true, fun h => absurd h Bool.false_ne_true⟩
theorem spdmKeyExchange (port : BitVec 1) : Statement (.spdmKeyExchange port) := ⟨fun h => absurd h Bool.false_ne_true, fun h => absurd h Bool.false_ne_true⟩
theorem spdmFinish (port : BitVec 1) : Statement (.spdmFinish port) := ⟨fun h => absurd h Bool.false_ne_true, fun h => absurd h Bool.false_ne_true⟩
theorem spdmEndSession (port : BitVec 1) : Statement (.spdmEndSession port) := ⟨fun h => absurd h Bool.false_ne_true, fun h => absurd h Bool.false_ne_true⟩
theorem mbVersion : Statement (.mbVersion) := ⟨fun h => absurd h Bool.false_ne_true, fun h => absurd h Bool.false_ne_true⟩
theorem mbImageWrite : Statement (.mbImageWrite) := ⟨fun h => absurd h Bool.false_ne_true, fun h => absurd h Bool.false_ne_true⟩
theorem mbImageCommit : Statement (.mbImageCommit) := ⟨fun h => absurd h Bool.false_ne_true, fun h => absurd h Bool.false_ne_true⟩
theorem mbLifeCycleTransition : Statement (.mbLifeCycleTransition) := ⟨fun h => absurd h Bool.false_ne_true, fun h => absurd h Bool.false_ne_true⟩
theorem mbThrottle : Statement (.mbThrottle) := ⟨fun h => absurd h Bool.false_ne_true, fun h => absurd h Bool.false_ne_true⟩
theorem mbLogDrain : Statement (.mbLogDrain) := ⟨fun h => absurd h Bool.false_ne_true, fun h => absurd h Bool.false_ne_true⟩
theorem mcHeadWrite (v : BitVec 64) : Statement (.mcHeadWrite v) := ⟨fun h => absurd h Bool.false_ne_true, fun h => absurd h Bool.false_ne_true⟩
theorem msiRaise (port : BitVec 1) (v : BitVec 64) (lbl : Label) : Statement (.msiRaise port v lbl) := ⟨fun h => absurd h Bool.false_ne_true, fun h => absurd h Bool.false_ne_true⟩
theorem deviceRegisterWrite (off : BitVec 48) (v : BitVec 64) : Statement (.deviceRegisterWrite off v) := ⟨fun h => absurd h Bool.false_ne_true, fun h => absurd h Bool.false_ne_true⟩
theorem qlTrain (p : Nat) : Statement (.qlTrain p) := ⟨fun h => absurd h Bool.false_ne_true, fun h => absurd h Bool.false_ne_true⟩
theorem qlEnableWrite (p : Nat) (v : BitVec 64) : Statement (.qlEnableWrite p v) := ⟨fun h => absurd h Bool.false_ne_true, fun h => absurd h Bool.false_ne_true⟩
theorem qlTrainComplete (p : Nat) (lanes : Nat) : Statement (.qlTrainComplete p lanes) := ⟨fun h => absurd h Bool.false_ne_true, fun h => absurd h Bool.false_ne_true⟩
theorem quaylinkFlit (p : Nat) (dst src : BitVec 20) (ch : BitVec 15) (addr : BitVec 56) (data : List (BitVec 8)) (lbl : Label) : Statement (.quaylinkFlit p dst src ch addr data lbl) := ⟨fun h => absurd h Bool.false_ne_true, fun h => absurd h Bool.false_ne_true⟩
theorem quaylinkPortDown (p : Nat) : Statement (.quaylinkPortDown p) := ⟨fun h => absurd h Bool.false_ne_true, fun h => absurd h Bool.false_ne_true⟩
theorem coldReset : Statement (.coldReset) := ⟨fun h => absurd h Bool.false_ne_true, fun h => absurd h Bool.false_ne_true⟩
theorem boot : Statement (.boot) := ⟨fun h => absurd h Bool.false_ne_true, fun h => absurd h Bool.false_ne_true⟩
theorem thermalThrottle (die : BitVec 2) : Statement (.thermalThrottle die) := ⟨fun h => absurd h Bool.false_ne_true, fun h => absurd h Bool.false_ne_true⟩
theorem powerLimitThrottle : Statement (.powerLimitThrottle) := ⟨fun h => absurd h Bool.false_ne_true, fun h => absurd h Bool.false_ne_true⟩
theorem hartInstruction (rv : RvInstr) (compressed : Bool) : Statement (.hartInstruction rv compressed) := ⟨fun h => absurd h Bool.false_ne_true, fun h => absurd h Bool.false_ne_true⟩
theorem machineTimerInterrupt : Statement (.machineTimerInterrupt) := ⟨fun h => absurd h Bool.false_ne_true, fun h => absurd h Bool.false_ne_true⟩
theorem thermalThrottleRelease (die : BitVec 2) : Statement (.thermalThrottleRelease die) := ⟨fun h => absurd h Bool.false_ne_true, fun h => absurd h Bool.false_ne_true⟩
theorem powerLimitRelease : Statement (.powerLimitRelease) := ⟨fun h => absurd h Bool.false_ne_true, fun h => absurd h Bool.false_ne_true⟩
end Sys2Proof.Laws.Encoding
end

