-- ==== Sys2Proof/Laws/State.lean ====
section
/-! SUPPORT. What the shared updates of the state leave in each field: one lemma per field and update. -/
namespace Sys2Proof.Machine

/-! ## The context label -/

@[simp] theorem Core.joinCl_s (c : Core) (l : Label) : (c.joinCl l).s = c.s := by unfold Core.joinCl; split <;> rfl
@[simp] theorem Core.joinCl_a (c : Core) (l : Label) : (c.joinCl l).a = c.a := by unfold Core.joinCl; split <;> rfl
@[simp] theorem Core.joinCl_p (c : Core) (l : Label) : (c.joinCl l).p = c.p := by unfold Core.joinCl; split <;> rfl
@[simp] theorem Core.joinCl_v (c : Core) (l : Label) : (c.joinCl l).v = c.v := by unfold Core.joinCl; split <;> rfl
@[simp] theorem Core.joinCl_m (c : Core) (l : Label) : (c.joinCl l).m = c.m := by unfold Core.joinCl; split <;> rfl
@[simp] theorem Core.joinCl_g (c : Core) (l : Label) : (c.joinCl l).g = c.g := by unfold Core.joinCl; split <;> rfl
@[simp] theorem Core.joinCl_z (c : Core) (l : Label) : (c.joinCl l).z = c.z := by unfold Core.joinCl; split <;> rfl
@[simp] theorem Core.joinCl_bt (c : Core) (l : Label) : (c.joinCl l).bt = c.bt := by unfold Core.joinCl; split <;> rfl
@[simp] theorem Core.joinCl_b (c : Core) (l : Label) : (c.joinCl l).b = c.b := by unfold Core.joinCl; split <;> rfl
@[simp] theorem Core.joinCl_fpMode (c : Core) (l : Label) : (c.joinCl l).fpMode = c.fpMode := by unfold Core.joinCl; split <;> rfl
@[simp] theorem Core.joinCl_fpFlags (c : Core) (l : Label) : (c.joinCl l).fpFlags = c.fpFlags := by unfold Core.joinCl; split <;> rfl
@[simp] theorem Core.joinCl_fpSeed (c : Core) (l : Label) : (c.joinCl l).fpSeed = c.fpSeed := by unfold Core.joinCl; split <;> rfl
@[simp] theorem Core.joinCl_fpSctr (c : Core) (l : Label) : (c.joinCl l).fpSctr = c.fpSctr := by unfold Core.joinCl; split <;> rfl
@[simp] theorem Core.joinCl_fpVcfg (c : Core) (l : Label) : (c.joinCl l).fpVcfg = c.fpVcfg := by unfold Core.joinCl; split <;> rfl
@[simp] theorem Core.joinCl_vro (c : Core) (l : Label) : (c.joinCl l).vro = c.vro := by unfold Core.joinCl; split <;> rfl
@[simp] theorem Core.joinCl_pro (c : Core) (l : Label) : (c.joinCl l).pro = c.pro := by unfold Core.joinCl; split <;> rfl
@[simp] theorem Core.joinCl_nest (c : Core) (l : Label) : (c.joinCl l).nest = c.nest := by unfold Core.joinCl; split <;> rfl
@[simp] theorem Core.joinCl_binds (c : Core) (l : Label) : (c.joinCl l).binds = c.binds := by unfold Core.joinCl; split <;> rfl
@[simp] theorem Core.joinCl_pc (c : Core) (l : Label) : (c.joinCl l).pc = c.pc := by unfold Core.joinCl; split <;> rfl
@[simp] theorem Core.joinCl_buf (c : Core) (l : Label) : (c.joinCl l).buf = c.buf := by unfold Core.joinCl; split <;> rfl
@[simp] theorem Core.joinCl_tick (c : Core) (l : Label) : (c.joinCl l).tick = c.tick := by unfold Core.joinCl; split <;> rfl
@[simp] theorem Core.joinCl_ltime (c : Core) (l : Label) : (c.joinCl l).ltime = c.ltime := by unfold Core.joinCl; split <;> rfl
@[simp] theorem Core.joinCl_frozen (c : Core) (l : Label) : (c.joinCl l).frozen = c.frozen := by unfold Core.joinCl; split <;> rfl
@[simp] theorem Core.joinCl_spun (c : Core) (l : Label) : (c.joinCl l).spun = c.spun := by unfold Core.joinCl; split <;> rfl
@[simp] theorem Core.joinCl_waiting (c : Core) (l : Label) : (c.joinCl l).waiting = c.waiting := by unfold Core.joinCl; split <;> rfl
@[simp] theorem Core.joinCl_spinW (c : Core) (l : Label) : (c.joinCl l).spinW = c.spinW := by unfold Core.joinCl; split <;> rfl
@[simp] theorem Core.joinCl_locked (c : Core) (l : Label) : (c.joinCl l).locked = c.locked := by unfold Core.joinCl; split <;> rfl
@[simp] theorem Core.joinCl_wantsLock (c : Core) (l : Label) : (c.joinCl l).wantsLock = c.wantsLock := by unfold Core.joinCl; split <;> rfl
@[simp] theorem Core.joinCl_pend (c : Core) (l : Label) : (c.joinCl l).pend = c.pend := by unfold Core.joinCl; split <;> rfl
@[simp] theorem Core.joinCl_mark (c : Core) (l : Label) : (c.joinCl l).mark = c.mark := by unfold Core.joinCl; split <;> rfl
@[simp] theorem Core.joinCl_grp (c : Core) (l : Label) : (c.joinCl l).grp = c.grp := by unfold Core.joinCl; split <;> rfl
@[simp] theorem Core.joinCl_trCause (c : Core) (l : Label) : (c.joinCl l).trCause = c.trCause := by unfold Core.joinCl; split <;> rfl
@[simp] theorem Core.joinCl_trInfo (c : Core) (l : Label) : (c.joinCl l).trInfo = c.trInfo := by unfold Core.joinCl; split <;> rfl
@[simp] theorem Core.joinCl_trAddr (c : Core) (l : Label) : (c.joinCl l).trAddr = c.trAddr := by unfold Core.joinCl; split <;> rfl
@[simp] theorem Core.joinCl_cpSpin (c : Core) (l : Label) : (c.joinCl l).cpSpin = c.cpSpin := by unfold Core.joinCl; split <;> rfl
@[simp] theorem Core.joinCl_csz (c : Core) (l : Label) : (c.joinCl l).csz = c.csz := by unfold Core.joinCl; split <;> rfl
@[simp] theorem Core.joinCl_svf (c : Core) (l : Label) : (c.joinCl l).svf = c.svf := by unfold Core.joinCl; split <;> rfl
@[simp] theorem Core.joinCl_stash (c : Core) (l : Label) : (c.joinCl l).stash = c.stash := by unfold Core.joinCl; split <;> rfl
@[simp] theorem Core.joinCl_maps (c : Core) (l : Label) : (c.joinCl l).maps = c.maps := by unfold Core.joinCl; split <;> rfl
@[simp] theorem Core.joinCl_ctxs (c : Core) (l : Label) : (c.joinCl l).ctxs = c.ctxs := by unfold Core.joinCl; split <;> rfl
@[simp] theorem Core.joinCl_cur (c : Core) (l : Label) : (c.joinCl l).cur = c.cur := by unfold Core.joinCl; split <;> rfl
@[simp] theorem Core.joinCl_cmds (c : Core) (l : Label) : (c.joinCl l).cmds = c.cmds := by unfold Core.joinCl; split <;> rfl
@[simp] theorem Core.joinCl_wbuf (c : Core) (l : Label) : (c.joinCl l).wbuf = c.wbuf := by unfold Core.joinCl; split <;> rfl
@[simp] theorem Core.joinCl_half0 (c : Core) (l : Label) : (c.joinCl l).half0 = c.half0 := by unfold Core.joinCl; split <;> rfl
@[simp] theorem Core.joinCl_half1 (c : Core) (l : Label) : (c.joinCl l).half1 = c.half1 := by unfold Core.joinCl; split <;> rfl
@[simp] theorem Core.joinCl_active (c : Core) (l : Label) : (c.joinCl l).active = c.active := by unfold Core.joinCl; split <;> rfl
@[simp] theorem Core.joinCl_pats (c : Core) (l : Label) : (c.joinCl l).pats = c.pats := by unfold Core.joinCl; split <;> rfl
@[simp] theorem Core.joinCl_patBusy (c : Core) (l : Label) : (c.joinCl l).patBusy = c.patBusy := by unfold Core.joinCl; split <;> rfl
@[simp] theorem Core.joinCl_sfu (c : Core) (l : Label) : (c.joinCl l).sfu = c.sfu := by unfold Core.joinCl; split <;> rfl
@[simp] theorem Core.joinCl_subs (c : Core) (l : Label) : (c.joinCl l).subs = c.subs := by unfold Core.joinCl; split <;> rfl
@[simp] theorem Core.joinCl_mxIdle (c : Core) (l : Label) : (c.joinCl l).mxIdle = c.mxIdle := by unfold Core.joinCl; split <;> rfl
@[simp] theorem Core.joinCl_mxWake (c : Core) (l : Label) : (c.joinCl l).mxWake = c.mxWake := by unfold Core.joinCl; split <;> rfl
@[simp] theorem Core.joinCl_mxPool (c : Core) (l : Label) : (c.joinCl l).mxPool = c.mxPool := by unfold Core.joinCl; split <;> rfl
@[simp] theorem Core.joinCl_portVal (c : Core) (l : Label) : (c.joinCl l).portVal = c.portVal := by unfold Core.joinCl; split <;> rfl
@[simp] theorem Core.joinCl_portLive (c : Core) (l : Label) : (c.joinCl l).portLive = c.portLive := by unfold Core.joinCl; split <;> rfl
@[simp] theorem Core.joinCl_qsp (c : Core) (l : Label) : (c.joinCl l).qsp = c.qsp := by unfold Core.joinCl; split <;> rfl
@[simp] theorem Core.joinCl_mxPin (c : Core) (l : Label) : (c.joinCl l).mxPin = c.mxPin := by unfold Core.joinCl; split <;> rfl
@[simp] theorem Core.joinCl_mxWrote (c : Core) (l : Label) : (c.joinCl l).mxWrote = c.mxWrote := by unfold Core.joinCl; split <;> rfl
@[simp] theorem Core.joinCl_pinned (c : Core) (l : Label) : (c.joinCl l).pinned = c.pinned := by unfold Core.joinCl; split <;> rfl
@[simp] theorem Core.joinCl_blocks (c : Core) (l : Label) : (c.joinCl l).blocks = c.blocks := by unfold Core.joinCl; split <;> rfl
@[simp] theorem Core.joinCl_blockEnd (c : Core) (l : Label) : (c.joinCl l).blockEnd = c.blockEnd := by unfold Core.joinCl; split <;> rfl
@[simp] theorem Core.joinCl_skSeed (c : Core) (l : Label) : (c.joinCl l).skSeed = c.skSeed := by unfold Core.joinCl; split <;> rfl
@[simp] theorem Core.joinCl_skBusy (c : Core) (l : Label) : (c.joinCl l).skBusy = c.skBusy := by unfold Core.joinCl; split <;> rfl
@[simp] theorem Core.joinCl_abort (c : Core) (l : Label) : (c.joinCl l).abort = c.abort := by unfold Core.joinCl; split <;> rfl
theorem Core.joinCl_run (c : Core) (l : Label) : (c.joinCl l).run = c.run.map (fun r => { r with cl := r.cl ||| l }) := by
  unfold Core.joinCl; split <;> simp_all
/-- Joining a label changes the running continuation only. -/
theorem Core.joinCl_frame (c : Core) (l : Label) : c.joinCl l = { c with run := (c.joinCl l).run } := by unfold Core.joinCl; split <;> rfl
@[simp] theorem Core.joinCl_rdS (c : Core) (l : Label) (n : BitVec 5) : (c.joinCl l).rdS n = c.rdS n := by simp only [Core.rdS, Core.joinCl_s]
@[simp] theorem Core.joinCl_rdA (c : Core) (l : Label) (n : BitVec 4) : (c.joinCl l).rdA n = c.rdA n := by simp only [Core.rdA, Core.joinCl_a]
@[simp] theorem Core.joinCl_rdP (c : Core) (l : Label) (n : BitVec 4) : (c.joinCl l).rdP n = c.rdP n := by simp only [Core.rdP, physP, Core.joinCl_p, Core.joinCl_pro]
@[simp] theorem Core.joinCl_rdV (c : Core) (l : Label) (n : BitVec 5) : (c.joinCl l).rdV n = c.rdV n := by simp only [Core.rdV, physV, Core.joinCl_v, Core.joinCl_vro]
@[simp] theorem Core.joinCl_rdM (c : Core) (l : Label) (n : BitVec 3) : (c.joinCl l).rdM n = c.rdM n := by simp only [Core.rdM, Core.joinCl_m]
@[simp] theorem Core.joinCl_rdG (c : Core) (l : Label) (n : BitVec 6) : (c.joinCl l).rdG n = c.rdG n := by simp only [Core.rdG, Core.joinCl_g]
@[simp] theorem Core.joinCl_rdB (c : Core) (l : Label) (n : BitVec 4) : (c.joinCl l).rdB n = c.rdB n := by simp only [Core.rdB, Core.joinCl_b]
@[simp] theorem Core.joinCl_rdBt (c : Core) (l : Label) (n : BitVec 2) : (c.joinCl l).rdBt n = c.rdBt n := by simp only [Core.rdBt, Core.joinCl_bt]
@[simp] theorem Core.joinCl_rdZ (c : Core) (l : Label) (n : Nat) : (c.joinCl l).rdZ n = c.rdZ n := by simp only [Core.rdZ, Core.joinCl_z]
@[simp] theorem Core.joinCl_ctx (c : Core) (l : Label) : (c.joinCl l).ctx = c.ctx := by simp only [Core.ctx, Core.joinCl_ctxs, Core.joinCl_cur]
@[simp] theorem Core.joinCl_half (c : Core) (l : Label) (n : Bool) : (c.joinCl l).half n = c.half n := by simp only [Core.half, Core.joinCl_half0, Core.joinCl_half1]
@[simp] theorem Core.joinCl_joinCl (c : Core) (l m : Label) : (c.joinCl l).joinCl m = c.joinCl (l ||| m) := by
  obtain ⟨r, h⟩ : ∃ r, r = c.run := ⟨_, rfl⟩
  cases r <;> simp only [Core.joinCl, ← h, BitVec.or_assoc]
@[simp] theorem Core.joinCl_cont_vf (c : Core) (l : Label) : (c.joinCl l).cont.vf = c.cont.vf := by unfold Core.joinCl Core.cont; split <;> simp_all
@[simp] theorem Core.joinCl_cont_part (c : Core) (l : Label) : (c.joinCl l).cont.part = c.cont.part := by unfold Core.joinCl Core.cont; split <;> simp_all
@[simp] theorem Core.joinCl_cont_prv (c : Core) (l : Label) : (c.joinCl l).cont.prv = c.cont.prv := by unfold Core.joinCl Core.cont; split <;> simp_all
@[simp] theorem Core.joinCl_cont_frm (c : Core) (l : Label) : (c.joinCl l).cont.frm = c.cont.frm := by unfold Core.joinCl Core.cont; split <;> simp_all
@[simp] theorem Core.joinCl_cont_pa (c : Core) (l : Label) : (c.joinCl l).cont.pa = c.cont.pa := by unfold Core.joinCl Core.cont; split <;> simp_all
@[simp] theorem Core.joinCl_cont_stg (c : Core) (l : Label) : (c.joinCl l).cont.stg = c.cont.stg := by unfold Core.joinCl Core.cont; split <;> simp_all
@[simp] theorem Core.joinCl_cont_spx (c : Core) (l : Label) : (c.joinCl l).cont.spx = c.cont.spx := by unfold Core.joinCl Core.cont; split <;> simp_all
@[simp] theorem Core.joinCl_cont_dist (c : Core) (l : Label) : (c.joinCl l).cont.dist = c.cont.dist := by unfold Core.joinCl Core.cont; split <;> simp_all
@[simp] theorem Core.joinCl_cont_slice (c : Core) (l : Label) : (c.joinCl l).cont.slice = c.cont.slice := by unfold Core.joinCl Core.cont; split <;> simp_all
@[simp] theorem Core.joinCl_cont_ended (c : Core) (l : Label) : (c.joinCl l).cont.ended = c.cont.ended := by unfold Core.joinCl Core.cont; split <;> simp_all
@[simp] theorem Core.joinCl_cont_dep (c : Core) (l : Label) : (c.joinCl l).cont.dep = c.cont.dep := by unfold Core.joinCl Core.cont; split <;> simp_all
@[simp] theorem Core.joinCl_cont_pin (c : Core) (l : Label) : (c.joinCl l).cont.pin = c.cont.pin := by unfold Core.joinCl Core.cont; split <;> simp_all
@[simp] theorem Core.joinCl_who (c : Core) (l : Label) : (c.joinCl l).who = c.who := by simp only [Core.who, Core.joinCl_cont_vf, Core.joinCl_cont_part, Core.joinCl_cont_prv]

/-! ## The state a word acts in -/

@[simp] theorem joined_core (i : Info) (s : State) : (joined i s).core = s.core.joinCl (joinLabel s.core i) := rfl
@[simp] theorem joined_coreNo (i : Info) (s : State) : (joined i s).coreNo = s.coreNo := rfl
@[simp] theorem joined_others (i : Info) (s : State) : (joined i s).others = s.others := rfl
@[simp] theorem joined_agenda (i : Info) (s : State) : (joined i s).agenda = s.agenda := rfl
@[simp] theorem joined_time (i : Info) (s : State) : (joined i s).time = s.time := rfl
@[simp] theorem joined_fresh (i : Info) (s : State) : (joined i s).fresh = s.fresh := rfl
@[simp] theorem joined_mem (i : Info) (s : State) : (joined i s).mem = s.mem := rfl
@[simp] theorem joined_flab (i : Info) (s : State) : (joined i s).flab = s.flab := rfl
@[simp] theorem joined_poison (i : Info) (s : State) : (joined i s).poison = s.poison := rfl
@[simp] theorem joined_dir (i : Info) (s : State) : (joined i s).dir = s.dir := rfl
@[simp] theorem joined_llc (i : Info) (s : State) : (joined i s).llc = s.llc := rfl
@[simp] theorem joined_jcache (i : Info) (s : State) : (joined i s).jcache = s.jcache := rfl
@[simp] theorem joined_msgs (i : Info) (s : State) : (joined i s).msgs = s.msgs := rfl
@[simp] theorem joined_waits (i : Info) (s : State) : (joined i s).waits = s.waits := rfl
@[simp] theorem joined_downLinks (i : Info) (s : State) : (joined i s).downLinks = s.downLinks := rfl
@[simp] theorem joined_isets (i : Info) (s : State) : (joined i s).isets = s.isets := rfl
@[simp] theorem joined_nwins (i : Info) (s : State) : (joined i s).nwins = s.nwins := rfl
@[simp] theorem joined_vfs (i : Info) (s : State) : (joined i s).vfs = s.vfs := rfl
@[simp] theorem joined_parts (i : Info) (s : State) : (joined i s).parts = s.parts := rfl
@[simp] theorem joined_flm (i : Info) (s : State) : (joined i s).flm = s.flm := rfl
@[simp] theorem joined_posts (i : Info) (s : State) : (joined i s).posts = s.posts := rfl
@[simp] theorem joined_ready (i : Info) (s : State) : (joined i s).ready = s.ready := rfl
@[simp] theorem joined_admits (i : Info) (s : State) : (joined i s).admits = s.admits := rfl
@[simp] theorem joined_taken (i : Info) (s : State) : (joined i s).taken = s.taken := rfl
@[simp] theorem joined_seen (i : Info) (s : State) : (joined i s).seen = s.seen := rfl
@[simp] theorem joined_rots (i : Info) (s : State) : (joined i s).rots = s.rots := rfl
@[simp] theorem joined_ended (i : Info) (s : State) : (joined i s).ended = s.ended := rfl
@[simp] theorem joined_graphs (i : Info) (s : State) : (joined i s).graphs = s.graphs := rfl
@[simp] theorem joined_acts (i : Info) (s : State) : (joined i s).acts = s.acts := rfl
@[simp] theorem joined_quadQ (i : Info) (s : State) : (joined i s).quadQ = s.quadQ := rfl
@[simp] theorem joined_quadRun (i : Info) (s : State) : (joined i s).quadRun = s.quadRun := rfl
@[simp] theorem joined_clRing (i : Info) (s : State) : (joined i s).clRing = s.clRing := rfl
@[simp] theorem joined_trees (i : Info) (s : State) : (joined i s).trees = s.trees := rfl
@[simp] theorem joined_parked (i : Info) (s : State) : (joined i s).parked = s.parked := rfl
@[simp] theorem joined_hartNo (i : Info) (s : State) : (joined i s).hartNo = s.hartNo := rfl
@[simp] theorem joined_harts (i : Info) (s : State) : (joined i s).harts = s.harts := rfl
@[simp] theorem joined_unans (i : Info) (s : State) : (joined i s).unans = s.unans := rfl
@[simp] theorem joined_gone (i : Info) (s : State) : (joined i s).gone = s.gone := rfl
@[simp] theorem joined_armed (i : Info) (s : State) : (joined i s).armed = s.armed := rfl
@[simp] theorem joined_wiping (i : Info) (s : State) : (joined i s).wiping = s.wiping := rfl
@[simp] theorem joined_mbDie (i : Info) (s : State) : (joined i s).mbDie = s.mbDie := rfl
@[simp] theorem joined_jmemb (i : Info) (s : State) : (joined i s).jmemb = s.jmemb := rfl
@[simp] theorem joined_jmeml (i : Info) (s : State) : (joined i s).jmeml = s.jmeml := rfl
@[simp] theorem joined_evMbt (i : Info) (s : State) : (joined i s).evMbt = s.evMbt := rfl
@[simp] theorem joined_evMbb (i : Info) (s : State) : (joined i s).evMbb = s.evMbb := rfl
@[simp] theorem joined_evEpt (i : Info) (s : State) : (joined i s).evEpt = s.evEpt := rfl
@[simp] theorem joined_ptCerr (i : Info) (s : State) : (joined i s).ptCerr = s.ptCerr := rfl
@[simp] theorem joined_scrub (i : Info) (s : State) : (joined i s).scrub = s.scrub := rfl
@[simp] theorem joined_egress (i : Info) (s : State) : (joined i s).egress = s.egress := rfl
@[simp] theorem joined_mcHead (i : Info) (s : State) : (joined i s).mcHead = s.mcHead := rfl
@[simp] theorem joined_mcTail (i : Info) (s : State) : (joined i s).mcTail = s.mcTail := rfl
@[simp] theorem joined_mcLost (i : Info) (s : State) : (joined i s).mcLost = s.mcLost := rfl
@[simp] theorem joined_mcLog (i : Info) (s : State) : (joined i s).mcLog = s.mcLog := rfl
@[simp] theorem joined_dev (i : Info) (s : State) : (joined i s).dev = s.dev := rfl

/-! ## Results in flight -/

@[simp] theorem push_pend (s : State) (n : Nat) (e : Eff) (l : Label) : (push s n e l).core.pend = s.core.pend ++ [⟨s.core.tick + n, e, l, none⟩] := rfl
@[simp] theorem push_coreNo (s : State) (n : Nat) (e : Eff) (l : Label) : (push s n e l).coreNo = s.coreNo := rfl
@[simp] theorem push_others (s : State) (n : Nat) (e : Eff) (l : Label) : (push s n e l).others = s.others := rfl
@[simp] theorem push_agenda (s : State) (n : Nat) (e : Eff) (l : Label) : (push s n e l).agenda = s.agenda := rfl
@[simp] theorem push_time (s : State) (n : Nat) (e : Eff) (l : Label) : (push s n e l).time = s.time := rfl
@[simp] theorem push_fresh (s : State) (n : Nat) (e : Eff) (l : Label) : (push s n e l).fresh = s.fresh := rfl
@[simp] theorem push_mem (s : State) (n : Nat) (e : Eff) (l : Label) : (push s n e l).mem = s.mem := rfl
@[simp] theorem push_flab (s : State) (n : Nat) (e : Eff) (l : Label) : (push s n e l).flab = s.flab := rfl
@[simp] theorem push_poison (s : State) (n : Nat) (e : Eff) (l : Label) : (push s n e l).poison = s.poison := rfl
@[simp] theorem push_dir (s : State) (n : Nat) (e : Eff) (l : Label) : (push s n e l).dir = s.dir := rfl
@[simp] theorem push_llc (s : State) (n : Nat) (e : Eff) (l : Label) : (push s n e l).llc = s.llc := rfl
@[simp] theorem push_jcache (s : State) (n : Nat) (e : Eff) (l : Label) : (push s n e l).jcache = s.jcache := rfl
@[simp] theorem push_msgs (s : State) (n : Nat) (e : Eff) (l : Label) : (push s n e l).msgs = s.msgs := rfl
@[simp] theorem push_waits (s : State) (n : Nat) (e : Eff) (l : Label) : (push s n e l).waits = s.waits := rfl
@[simp] theorem push_downLinks (s : State) (n : Nat) (e : Eff) (l : Label) : (push s n e l).downLinks = s.downLinks := rfl
@[simp] theorem push_isets (s : State) (n : Nat) (e : Eff) (l : Label) : (push s n e l).isets = s.isets := rfl
@[simp] theorem push_nwins (s : State) (n : Nat) (e : Eff) (l : Label) : (push s n e l).nwins = s.nwins := rfl
@[simp] theorem push_vfs (s : State) (n : Nat) (e : Eff) (l : Label) : (push s n e l).vfs = s.vfs := rfl
@[simp] theorem push_parts (s : State) (n : Nat) (e : Eff) (l : Label) : (push s n e l).parts = s.parts := rfl
@[simp] theorem push_flm (s : State) (n : Nat) (e : Eff) (l : Label) : (push s n e l).flm = s.flm := rfl
@[simp] theorem push_posts (s : State) (n : Nat) (e : Eff) (l : Label) : (push s n e l).posts = s.posts := rfl
@[simp] theorem push_ready (s : State) (n : Nat) (e : Eff) (l : Label) : (push s n e l).ready = s.ready := rfl
@[simp] theorem push_admits (s : State) (n : Nat) (e : Eff) (l : Label) : (push s n e l).admits = s.admits := rfl
@[simp] theorem push_taken (s : State) (n : Nat) (e : Eff) (l : Label) : (push s n e l).taken = s.taken := rfl
@[simp] theorem push_seen (s : State) (n : Nat) (e : Eff) (l : Label) : (push s n e l).seen = s.seen := rfl
@[simp] theorem push_rots (s : State) (n : Nat) (e : Eff) (l : Label) : (push s n e l).rots = s.rots := rfl
@[simp] theorem push_ended (s : State) (n : Nat) (e : Eff) (l : Label) : (push s n e l).ended = s.ended := rfl
@[simp] theorem push_graphs (s : State) (n : Nat) (e : Eff) (l : Label) : (push s n e l).graphs = s.graphs := rfl
@[simp] theorem push_acts (s : State) (n : Nat) (e : Eff) (l : Label) : (push s n e l).acts = s.acts := rfl
@[simp] theorem push_quadQ (s : State) (n : Nat) (e : Eff) (l : Label) : (push s n e l).quadQ = s.quadQ := rfl
@[simp] theorem push_quadRun (s : State) (n : Nat) (e : Eff) (l : Label) : (push s n e l).quadRun = s.quadRun := rfl
@[simp] theorem push_clRing (s : State) (n : Nat) (e : Eff) (l : Label) : (push s n e l).clRing = s.clRing := rfl
@[simp] theorem push_trees (s : State) (n : Nat) (e : Eff) (l : Label) : (push s n e l).trees = s.trees := rfl
@[simp] theorem push_parked (s : State) (n : Nat) (e : Eff) (l : Label) : (push s n e l).parked = s.parked := rfl
@[simp] theorem push_hartNo (s : State) (n : Nat) (e : Eff) (l : Label) : (push s n e l).hartNo = s.hartNo := rfl
@[simp] theorem push_harts (s : State) (n : Nat) (e : Eff) (l : Label) : (push s n e l).harts = s.harts := rfl
@[simp] theorem push_unans (s : State) (n : Nat) (e : Eff) (l : Label) : (push s n e l).unans = s.unans := rfl
@[simp] theorem push_gone (s : State) (n : Nat) (e : Eff) (l : Label) : (push s n e l).gone = s.gone := rfl
@[simp] theorem push_armed (s : State) (n : Nat) (e : Eff) (l : Label) : (push s n e l).armed = s.armed := rfl
@[simp] theorem push_wiping (s : State) (n : Nat) (e : Eff) (l : Label) : (push s n e l).wiping = s.wiping := rfl
@[simp] theorem push_mbDie (s : State) (n : Nat) (e : Eff) (l : Label) : (push s n e l).mbDie = s.mbDie := rfl
@[simp] theorem push_jmemb (s : State) (n : Nat) (e : Eff) (l : Label) : (push s n e l).jmemb = s.jmemb := rfl
@[simp] theorem push_jmeml (s : State) (n : Nat) (e : Eff) (l : Label) : (push s n e l).jmeml = s.jmeml := rfl
@[simp] theorem push_evMbt (s : State) (n : Nat) (e : Eff) (l : Label) : (push s n e l).evMbt = s.evMbt := rfl
@[simp] theorem push_evMbb (s : State) (n : Nat) (e : Eff) (l : Label) : (push s n e l).evMbb = s.evMbb := rfl
@[simp] theorem push_evEpt (s : State) (n : Nat) (e : Eff) (l : Label) : (push s n e l).evEpt = s.evEpt := rfl
@[simp] theorem push_ptCerr (s : State) (n : Nat) (e : Eff) (l : Label) : (push s n e l).ptCerr = s.ptCerr := rfl
@[simp] theorem push_scrub (s : State) (n : Nat) (e : Eff) (l : Label) : (push s n e l).scrub = s.scrub := rfl
@[simp] theorem push_egress (s : State) (n : Nat) (e : Eff) (l : Label) : (push s n e l).egress = s.egress := rfl
@[simp] theorem push_mcHead (s : State) (n : Nat) (e : Eff) (l : Label) : (push s n e l).mcHead = s.mcHead := rfl
@[simp] theorem push_mcTail (s : State) (n : Nat) (e : Eff) (l : Label) : (push s n e l).mcTail = s.mcTail := rfl
@[simp] theorem push_mcLost (s : State) (n : Nat) (e : Eff) (l : Label) : (push s n e l).mcLost = s.mcLost := rfl
@[simp] theorem push_mcLog (s : State) (n : Nat) (e : Eff) (l : Label) : (push s n e l).mcLog = s.mcLog := rfl
@[simp] theorem push_dev (s : State) (n : Nat) (e : Eff) (l : Label) : (push s n e l).dev = s.dev := rfl
@[simp] theorem push_core_s (s : State) (n : Nat) (e : Eff) (l : Label) : (push s n e l).core.s = s.core.s := rfl
@[simp] theorem push_core_a (s : State) (n : Nat) (e : Eff) (l : Label) : (push s n e l).core.a = s.core.a := rfl
@[simp] theorem push_core_p (s : State) (n : Nat) (e : Eff) (l : Label) : (push s n e l).core.p = s.core.p := rfl
@[simp] theorem push_core_v (s : State) (n : Nat) (e : Eff) (l : Label) : (push s n e l).core.v = s.core.v := rfl
@[simp] theorem push_core_m (s : State) (n : Nat) (e : Eff) (l : Label) : (push s n e l).core.m = s.core.m := rfl
@[simp] theorem push_core_g (s : State) (n : Nat) (e : Eff) (l : Label) : (push s n e l).core.g = s.core.g := rfl
@[simp] theorem push_core_z (s : State) (n : Nat) (e : Eff) (l : Label) : (push s n e l).core.z = s.core.z := rfl
@[simp] theorem push_core_bt (s : State) (n : Nat) (e : Eff) (l : Label) : (push s n e l).core.bt = s.core.bt := rfl
@[simp] theorem push_core_b (s : State) (n : Nat) (e : Eff) (l : Label) : (push s n e l).core.b = s.core.b := rfl
@[simp] theorem push_core_fpMode (s : State) (n : Nat) (e : Eff) (l : Label) : (push s n e l).core.fpMode = s.core.fpMode := rfl
@[simp] theorem push_core_fpFlags (s : State) (n : Nat) (e : Eff) (l : Label) : (push s n e l).core.fpFlags = s.core.fpFlags := rfl
@[simp] theorem push_core_fpSeed (s : State) (n : Nat) (e : Eff) (l : Label) : (push s n e l).core.fpSeed = s.core.fpSeed := rfl
@[simp] theorem push_core_fpSctr (s : State) (n : Nat) (e : Eff) (l : Label) : (push s n e l).core.fpSctr = s.core.fpSctr := rfl
@[simp] theorem push_core_fpVcfg (s : State) (n : Nat) (e : Eff) (l : Label) : (push s n e l).core.fpVcfg = s.core.fpVcfg := rfl
@[simp] theorem push_core_vro (s : State) (n : Nat) (e : Eff) (l : Label) : (push s n e l).core.vro = s.core.vro := rfl
@[simp] theorem push_core_pro (s : State) (n : Nat) (e : Eff) (l : Label) : (push s n e l).core.pro = s.core.pro := rfl
@[simp] theorem push_core_nest (s : State) (n : Nat) (e : Eff) (l : Label) : (push s n e l).core.nest = s.core.nest := rfl
@[simp] theorem push_core_binds (s : State) (n : Nat) (e : Eff) (l : Label) : (push s n e l).core.binds = s.core.binds := rfl
@[simp] theorem push_core_pc (s : State) (n : Nat) (e : Eff) (l : Label) : (push s n e l).core.pc = s.core.pc := rfl
@[simp] theorem push_core_buf (s : State) (n : Nat) (e : Eff) (l : Label) : (push s n e l).core.buf = s.core.buf := rfl
@[simp] theorem push_core_tick (s : State) (n : Nat) (e : Eff) (l : Label) : (push s n e l).core.tick = s.core.tick := rfl
@[simp] theorem push_core_ltime (s : State) (n : Nat) (e : Eff) (l : Label) : (push s n e l).core.ltime = s.core.ltime := rfl
@[simp] theorem push_core_frozen (s : State) (n : Nat) (e : Eff) (l : Label) : (push s n e l).core.frozen = s.core.frozen := rfl
@[simp] theorem push_core_spun (s : State) (n : Nat) (e : Eff) (l : Label) : (push s n e l).core.spun = s.core.spun := rfl
@[simp] theorem push_core_waiting (s : State) (n : Nat) (e : Eff) (l : Label) : (push s n e l).core.waiting = s.core.waiting := rfl
@[simp] theorem push_core_spinW (s : State) (n : Nat) (e : Eff) (l : Label) : (push s n e l).core.spinW = s.core.spinW := rfl
@[simp] theorem push_core_locked (s : State) (n : Nat) (e : Eff) (l : Label) : (push s n e l).core.locked = s.core.locked := rfl
@[simp] theorem push_core_wantsLock (s : State) (n : Nat) (e : Eff) (l : Label) : (push s n e l).core.wantsLock = s.core.wantsLock := rfl
@[simp] theorem push_core_run (s : State) (n : Nat) (e : Eff) (l : Label) : (push s n e l).core.run = s.core.run := rfl
@[simp] theorem push_core_mark (s : State) (n : Nat) (e : Eff) (l : Label) : (push s n e l).core.mark = s.core.mark := rfl
@[simp] theorem push_core_grp (s : State) (n : Nat) (e : Eff) (l : Label) : (push s n e l).core.grp = s.core.grp := rfl
@[simp] theorem push_core_trCause (s : State) (n : Nat) (e : Eff) (l : Label) : (push s n e l).core.trCause = s.core.trCause := rfl
@[simp] theorem push_core_trInfo (s : State) (n : Nat) (e : Eff) (l : Label) : (push s n e l).core.trInfo = s.core.trInfo := rfl
@[simp] theorem push_core_trAddr (s : State) (n : Nat) (e : Eff) (l : Label) : (push s n e l).core.trAddr = s.core.trAddr := rfl
@[simp] theorem push_core_cpSpin (s : State) (n : Nat) (e : Eff) (l : Label) : (push s n e l).core.cpSpin = s.core.cpSpin := rfl
@[simp] theorem push_core_csz (s : State) (n : Nat) (e : Eff) (l : Label) : (push s n e l).core.csz = s.core.csz := rfl
@[simp] theorem push_core_svf (s : State) (n : Nat) (e : Eff) (l : Label) : (push s n e l).core.svf = s.core.svf := rfl
@[simp] theorem push_core_stash (s : State) (n : Nat) (e : Eff) (l : Label) : (push s n e l).core.stash = s.core.stash := rfl
@[simp] theorem push_core_maps (s : State) (n : Nat) (e : Eff) (l : Label) : (push s n e l).core.maps = s.core.maps := rfl
@[simp] theorem push_core_ctxs (s : State) (n : Nat) (e : Eff) (l : Label) : (push s n e l).core.ctxs = s.core.ctxs := rfl
@[simp] theorem push_core_cur (s : State) (n : Nat) (e : Eff) (l : Label) : (push s n e l).core.cur = s.core.cur := rfl
@[simp] theorem push_core_cmds (s : State) (n : Nat) (e : Eff) (l : Label) : (push s n e l).core.cmds = s.core.cmds := rfl
@[simp] theorem push_core_wbuf (s : State) (n : Nat) (e : Eff) (l : Label) : (push s n e l).core.wbuf = s.core.wbuf := rfl
@[simp] theorem push_core_half0 (s : State) (n : Nat) (e : Eff) (l : Label) : (push s n e l).core.half0 = s.core.half0 := rfl
@[simp] theorem push_core_half1 (s : State) (n : Nat) (e : Eff) (l : Label) : (push s n e l).core.half1 = s.core.half1 := rfl
@[simp] theorem push_core_active (s : State) (n : Nat) (e : Eff) (l : Label) : (push s n e l).core.active = s.core.active := rfl
@[simp] theorem push_core_pats (s : State) (n : Nat) (e : Eff) (l : Label) : (push s n e l).core.pats = s.core.pats := rfl
@[simp] theorem push_core_patBusy (s : State) (n : Nat) (e : Eff) (l : Label) : (push s n e l).core.patBusy = s.core.patBusy := rfl
@[simp] theorem push_core_sfu (s : State) (n : Nat) (e : Eff) (l : Label) : (push s n e l).core.sfu = s.core.sfu := rfl
@[simp] theorem push_core_subs (s : State) (n : Nat) (e : Eff) (l : Label) : (push s n e l).core.subs = s.core.subs := rfl
@[simp] theorem push_core_mxIdle (s : State) (n : Nat) (e : Eff) (l : Label) : (push s n e l).core.mxIdle = s.core.mxIdle := rfl
@[simp] theorem push_core_mxWake (s : State) (n : Nat) (e : Eff) (l : Label) : (push s n e l).core.mxWake = s.core.mxWake := rfl
@[simp] theorem push_core_mxPool (s : State) (n : Nat) (e : Eff) (l : Label) : (push s n e l).core.mxPool = s.core.mxPool := rfl
@[simp] theorem push_core_portVal (s : State) (n : Nat) (e : Eff) (l : Label) : (push s n e l).core.portVal = s.core.portVal := rfl
@[simp] theorem push_core_portLive (s : State) (n : Nat) (e : Eff) (l : Label) : (push s n e l).core.portLive = s.core.portLive := rfl
@[simp] theorem push_core_qsp (s : State) (n : Nat) (e : Eff) (l : Label) : (push s n e l).core.qsp = s.core.qsp := rfl
@[simp] theorem push_core_mxPin (s : State) (n : Nat) (e : Eff) (l : Label) : (push s n e l).core.mxPin = s.core.mxPin := rfl
@[simp] theorem push_core_mxWrote (s : State) (n : Nat) (e : Eff) (l : Label) : (push s n e l).core.mxWrote = s.core.mxWrote := rfl
@[simp] theorem push_core_pinned (s : State) (n : Nat) (e : Eff) (l : Label) : (push s n e l).core.pinned = s.core.pinned := rfl
@[simp] theorem push_core_blocks (s : State) (n : Nat) (e : Eff) (l : Label) : (push s n e l).core.blocks = s.core.blocks := rfl
@[simp] theorem push_core_blockEnd (s : State) (n : Nat) (e : Eff) (l : Label) : (push s n e l).core.blockEnd = s.core.blockEnd := rfl
@[simp] theorem push_core_skSeed (s : State) (n : Nat) (e : Eff) (l : Label) : (push s n e l).core.skSeed = s.core.skSeed := rfl
@[simp] theorem push_core_skBusy (s : State) (n : Nat) (e : Eff) (l : Label) : (push s n e l).core.skBusy = s.core.skBusy := rfl
@[simp] theorem push_core_abort (s : State) (n : Nat) (e : Eff) (l : Label) : (push s n e l).core.abort = s.core.abort := rfl
@[simp] theorem push_rdS (s : State) (n : Nat) (e : Eff) (l : Label) (k : BitVec 5) : (push s n e l).core.rdS k = s.core.rdS k := rfl
@[simp] theorem push_rdA (s : State) (n : Nat) (e : Eff) (l : Label) (k : BitVec 4) : (push s n e l).core.rdA k = s.core.rdA k := rfl
@[simp] theorem push_rdP (s : State) (n : Nat) (e : Eff) (l : Label) (k : BitVec 4) : (push s n e l).core.rdP k = s.core.rdP k := rfl
@[simp] theorem push_rdV (s : State) (n : Nat) (e : Eff) (l : Label) (k : BitVec 5) : (push s n e l).core.rdV k = s.core.rdV k := rfl
@[simp] theorem push_rdM (s : State) (n : Nat) (e : Eff) (l : Label) (k : BitVec 3) : (push s n e l).core.rdM k = s.core.rdM k := rfl
@[simp] theorem push_rdG (s : State) (n : Nat) (e : Eff) (l : Label) (k : BitVec 6) : (push s n e l).core.rdG k = s.core.rdG k := rfl
@[simp] theorem push_rdB (s : State) (n : Nat) (e : Eff) (l : Label) (k : BitVec 4) : (push s n e l).core.rdB k = s.core.rdB k := rfl
@[simp] theorem push_rdBt (s : State) (n : Nat) (e : Eff) (l : Label) (k : BitVec 2) : (push s n e l).core.rdBt k = s.core.rdBt k := rfl
@[simp] theorem push_rdZ (s : State) (n : Nat) (e : Eff) (l : Label) (k : Nat) : (push s n e l).core.rdZ k = s.core.rdZ k := rfl
@[simp] theorem pushLand_coreNo (s : State) (n : Nat) (e : Eff) (l : Label) (k : BitVec 3) (r : BitVec 5) (vas : List Nat) : (pushLand s n e l k r vas).coreNo = s.coreNo := rfl
@[simp] theorem pushLand_others (s : State) (n : Nat) (e : Eff) (l : Label) (k : BitVec 3) (r : BitVec 5) (vas : List Nat) : (pushLand s n e l k r vas).others = s.others := rfl
@[simp] theorem pushLand_agenda (s : State) (n : Nat) (e : Eff) (l : Label) (k : BitVec 3) (r : BitVec 5) (vas : List Nat) : (pushLand s n e l k r vas).agenda = s.agenda := rfl
@[simp] theorem pushLand_time (s : State) (n : Nat) (e : Eff) (l : Label) (k : BitVec 3) (r : BitVec 5) (vas : List Nat) : (pushLand s n e l k r vas).time = s.time := rfl
@[simp] theorem pushLand_fresh (s : State) (n : Nat) (e : Eff) (l : Label) (k : BitVec 3) (r : BitVec 5) (vas : List Nat) : (pushLand s n e l k r vas).fresh = s.fresh := rfl
@[simp] theorem pushLand_mem (s : State) (n : Nat) (e : Eff) (l : Label) (k : BitVec 3) (r : BitVec 5) (vas : List Nat) : (pushLand s n e l k r vas).mem = s.mem := rfl
@[simp] theorem pushLand_flab (s : State) (n : Nat) (e : Eff) (l : Label) (k : BitVec 3) (r : BitVec 5) (vas : List Nat) : (pushLand s n e l k r vas).flab = s.flab := rfl
@[simp] theorem pushLand_poison (s : State) (n : Nat) (e : Eff) (l : Label) (k : BitVec 3) (r : BitVec 5) (vas : List Nat) : (pushLand s n e l k r vas).poison = s.poison := rfl
@[simp] theorem pushLand_dir (s : State) (n : Nat) (e : Eff) (l : Label) (k : BitVec 3) (r : BitVec 5) (vas : List Nat) : (pushLand s n e l k r vas).dir = s.dir := rfl
@[simp] theorem pushLand_llc (s : State) (n : Nat) (e : Eff) (l : Label) (k : BitVec 3) (r : BitVec 5) (vas : List Nat) : (pushLand s n e l k r vas).llc = s.llc := rfl
@[simp] theorem pushLand_jcache (s : State) (n : Nat) (e : Eff) (l : Label) (k : BitVec 3) (r : BitVec 5) (vas : List Nat) : (pushLand s n e l k r vas).jcache = s.jcache := rfl
@[simp] theorem pushLand_msgs (s : State) (n : Nat) (e : Eff) (l : Label) (k : BitVec 3) (r : BitVec 5) (vas : List Nat) : (pushLand s n e l k r vas).msgs = s.msgs := rfl
@[simp] theorem pushLand_waits (s : State) (n : Nat) (e : Eff) (l : Label) (k : BitVec 3) (r : BitVec 5) (vas : List Nat) : (pushLand s n e l k r vas).waits = s.waits := rfl
@[simp] theorem pushLand_downLinks (s : State) (n : Nat) (e : Eff) (l : Label) (k : BitVec 3) (r : BitVec 5) (vas : List Nat) : (pushLand s n e l k r vas).downLinks = s.downLinks := rfl
@[simp] theorem pushLand_isets (s : State) (n : Nat) (e : Eff) (l : Label) (k : BitVec 3) (r : BitVec 5) (vas : List Nat) : (pushLand s n e l k r vas).isets = s.isets := rfl
@[simp] theorem pushLand_nwins (s : State) (n : Nat) (e : Eff) (l : Label) (k : BitVec 3) (r : BitVec 5) (vas : List Nat) : (pushLand s n e l k r vas).nwins = s.nwins := rfl
@[simp] theorem pushLand_vfs (s : State) (n : Nat) (e : Eff) (l : Label) (k : BitVec 3) (r : BitVec 5) (vas : List Nat) : (pushLand s n e l k r vas).vfs = s.vfs := rfl
@[simp] theorem pushLand_parts (s : State) (n : Nat) (e : Eff) (l : Label) (k : BitVec 3) (r : BitVec 5) (vas : List Nat) : (pushLand s n e l k r vas).parts = s.parts := rfl
@[simp] theorem pushLand_flm (s : State) (n : Nat) (e : Eff) (l : Label) (k : BitVec 3) (r : BitVec 5) (vas : List Nat) : (pushLand s n e l k r vas).flm = s.flm := rfl
@[simp] theorem pushLand_posts (s : State) (n : Nat) (e : Eff) (l : Label) (k : BitVec 3) (r : BitVec 5) (vas : List Nat) : (pushLand s n e l k r vas).posts = s.posts := rfl
@[simp] theorem pushLand_ready (s : State) (n : Nat) (e : Eff) (l : Label) (k : BitVec 3) (r : BitVec 5) (vas : List Nat) : (pushLand s n e l k r vas).ready = s.ready := rfl
@[simp] theorem pushLand_admits (s : State) (n : Nat) (e : Eff) (l : Label) (k : BitVec 3) (r : BitVec 5) (vas : List Nat) : (pushLand s n e l k r vas).admits = s.admits := rfl
@[simp] theorem pushLand_taken (s : State) (n : Nat) (e : Eff) (l : Label) (k : BitVec 3) (r : BitVec 5) (vas : List Nat) : (pushLand s n e l k r vas).taken = s.taken := rfl
@[simp] theorem pushLand_seen (s : State) (n : Nat) (e : Eff) (l : Label) (k : BitVec 3) (r : BitVec 5) (vas : List Nat) : (pushLand s n e l k r vas).seen = s.seen := rfl
@[simp] theorem pushLand_rots (s : State) (n : Nat) (e : Eff) (l : Label) (k : BitVec 3) (r : BitVec 5) (vas : List Nat) : (pushLand s n e l k r vas).rots = s.rots := rfl
@[simp] theorem pushLand_ended (s : State) (n : Nat) (e : Eff) (l : Label) (k : BitVec 3) (r : BitVec 5) (vas : List Nat) : (pushLand s n e l k r vas).ended = s.ended := rfl
@[simp] theorem pushLand_graphs (s : State) (n : Nat) (e : Eff) (l : Label) (k : BitVec 3) (r : BitVec 5) (vas : List Nat) : (pushLand s n e l k r vas).graphs = s.graphs := rfl
@[simp] theorem pushLand_acts (s : State) (n : Nat) (e : Eff) (l : Label) (k : BitVec 3) (r : BitVec 5) (vas : List Nat) : (pushLand s n e l k r vas).acts = s.acts := rfl
@[simp] theorem pushLand_quadQ (s : State) (n : Nat) (e : Eff) (l : Label) (k : BitVec 3) (r : BitVec 5) (vas : List Nat) : (pushLand s n e l k r vas).quadQ = s.quadQ := rfl
@[simp] theorem pushLand_quadRun (s : State) (n : Nat) (e : Eff) (l : Label) (k : BitVec 3) (r : BitVec 5) (vas : List Nat) : (pushLand s n e l k r vas).quadRun = s.quadRun := rfl
@[simp] theorem pushLand_clRing (s : State) (n : Nat) (e : Eff) (l : Label) (k : BitVec 3) (r : BitVec 5) (vas : List Nat) : (pushLand s n e l k r vas).clRing = s.clRing := rfl
@[simp] theorem pushLand_trees (s : State) (n : Nat) (e : Eff) (l : Label) (k : BitVec 3) (r : BitVec 5) (vas : List Nat) : (pushLand s n e l k r vas).trees = s.trees := rfl
@[simp] theorem pushLand_parked (s : State) (n : Nat) (e : Eff) (l : Label) (k : BitVec 3) (r : BitVec 5) (vas : List Nat) : (pushLand s n e l k r vas).parked = s.parked := rfl
@[simp] theorem pushLand_hartNo (s : State) (n : Nat) (e : Eff) (l : Label) (k : BitVec 3) (r : BitVec 5) (vas : List Nat) : (pushLand s n e l k r vas).hartNo = s.hartNo := rfl
@[simp] theorem pushLand_harts (s : State) (n : Nat) (e : Eff) (l : Label) (k : BitVec 3) (r : BitVec 5) (vas : List Nat) : (pushLand s n e l k r vas).harts = s.harts := rfl
@[simp] theorem pushLand_unans (s : State) (n : Nat) (e : Eff) (l : Label) (k : BitVec 3) (r : BitVec 5) (vas : List Nat) : (pushLand s n e l k r vas).unans = s.unans := rfl
@[simp] theorem pushLand_gone (s : State) (n : Nat) (e : Eff) (l : Label) (k : BitVec 3) (r : BitVec 5) (vas : List Nat) : (pushLand s n e l k r vas).gone = s.gone := rfl
@[simp] theorem pushLand_armed (s : State) (n : Nat) (e : Eff) (l : Label) (k : BitVec 3) (r : BitVec 5) (vas : List Nat) : (pushLand s n e l k r vas).armed = s.armed := rfl
@[simp] theorem pushLand_wiping (s : State) (n : Nat) (e : Eff) (l : Label) (k : BitVec 3) (r : BitVec 5) (vas : List Nat) : (pushLand s n e l k r vas).wiping = s.wiping := rfl
@[simp] theorem pushLand_mbDie (s : State) (n : Nat) (e : Eff) (l : Label) (k : BitVec 3) (r : BitVec 5) (vas : List Nat) : (pushLand s n e l k r vas).mbDie = s.mbDie := rfl
@[simp] theorem pushLand_jmemb (s : State) (n : Nat) (e : Eff) (l : Label) (k : BitVec 3) (r : BitVec 5) (vas : List Nat) : (pushLand s n e l k r vas).jmemb = s.jmemb := rfl
@[simp] theorem pushLand_jmeml (s : State) (n : Nat) (e : Eff) (l : Label) (k : BitVec 3) (r : BitVec 5) (vas : List Nat) : (pushLand s n e l k r vas).jmeml = s.jmeml := rfl
@[simp] theorem pushLand_evMbt (s : State) (n : Nat) (e : Eff) (l : Label) (k : BitVec 3) (r : BitVec 5) (vas : List Nat) : (pushLand s n e l k r vas).evMbt = s.evMbt := rfl
@[simp] theorem pushLand_evMbb (s : State) (n : Nat) (e : Eff) (l : Label) (k : BitVec 3) (r : BitVec 5) (vas : List Nat) : (pushLand s n e l k r vas).evMbb = s.evMbb := rfl
@[simp] theorem pushLand_evEpt (s : State) (n : Nat) (e : Eff) (l : Label) (k : BitVec 3) (r : BitVec 5) (vas : List Nat) : (pushLand s n e l k r vas).evEpt = s.evEpt := rfl
@[simp] theorem pushLand_ptCerr (s : State) (n : Nat) (e : Eff) (l : Label) (k : BitVec 3) (r : BitVec 5) (vas : List Nat) : (pushLand s n e l k r vas).ptCerr = s.ptCerr := rfl
@[simp] theorem pushLand_scrub (s : State) (n : Nat) (e : Eff) (l : Label) (k : BitVec 3) (r : BitVec 5) (vas : List Nat) : (pushLand s n e l k r vas).scrub = s.scrub := rfl
@[simp] theorem pushLand_egress (s : State) (n : Nat) (e : Eff) (l : Label) (k : BitVec 3) (r : BitVec 5) (vas : List Nat) : (pushLand s n e l k r vas).egress = s.egress := rfl
@[simp] theorem pushLand_mcHead (s : State) (n : Nat) (e : Eff) (l : Label) (k : BitVec 3) (r : BitVec 5) (vas : List Nat) : (pushLand s n e l k r vas).mcHead = s.mcHead := rfl
@[simp] theorem pushLand_mcTail (s : State) (n : Nat) (e : Eff) (l : Label) (k : BitVec 3) (r : BitVec 5) (vas : List Nat) : (pushLand s n e l k r vas).mcTail = s.mcTail := rfl
@[simp] theorem pushLand_mcLost (s : State) (n : Nat) (e : Eff) (l : Label) (k : BitVec 3) (r : BitVec 5) (vas : List Nat) : (pushLand s n e l k r vas).mcLost = s.mcLost := rfl
@[simp] theorem pushLand_mcLog (s : State) (n : Nat) (e : Eff) (l : Label) (k : BitVec 3) (r : BitVec 5) (vas : List Nat) : (pushLand s n e l k r vas).mcLog = s.mcLog := rfl
@[simp] theorem pushLand_dev (s : State) (n : Nat) (e : Eff) (l : Label) (k : BitVec 3) (r : BitVec 5) (vas : List Nat) : (pushLand s n e l k r vas).dev = s.dev := rfl
@[simp] theorem pushLand_core_s (s : State) (n : Nat) (e : Eff) (l : Label) (k : BitVec 3) (r : BitVec 5) (vas : List Nat) : (pushLand s n e l k r vas).core.s = s.core.s := rfl
@[simp] theorem pushLand_core_a (s : State) (n : Nat) (e : Eff) (l : Label) (k : BitVec 3) (r : BitVec 5) (vas : List Nat) : (pushLand s n e l k r vas).core.a = s.core.a := rfl
@[simp] theorem pushLand_core_p (s : State) (n : Nat) (e : Eff) (l : Label) (k : BitVec 3) (r : BitVec 5) (vas : List Nat) : (pushLand s n e l k r vas).core.p = s.core.p := rfl
@[simp] theorem pushLand_core_v (s : State) (n : Nat) (e : Eff) (l : Label) (k : BitVec 3) (r : BitVec 5) (vas : List Nat) : (pushLand s n e l k r vas).core.v = s.core.v := rfl
@[simp] theorem pushLand_core_m (s : State) (n : Nat) (e : Eff) (l : Label) (k : BitVec 3) (r : BitVec 5) (vas : List Nat) : (pushLand s n e l k r vas).core.m = s.core.m := rfl
@[simp] theorem pushLand_core_g (s : State) (n : Nat) (e : Eff) (l : Label) (k : BitVec 3) (r : BitVec 5) (vas : List Nat) : (pushLand s n e l k r vas).core.g = s.core.g := rfl
@[simp] theorem pushLand_core_z (s : State) (n : Nat) (e : Eff) (l : Label) (k : BitVec 3) (r : BitVec 5) (vas : List Nat) : (pushLand s n e l k r vas).core.z = s.core.z := rfl
@[simp] theorem pushLand_core_bt (s : State) (n : Nat) (e : Eff) (l : Label) (k : BitVec 3) (r : BitVec 5) (vas : List Nat) : (pushLand s n e l k r vas).core.bt = s.core.bt := rfl
@[simp] theorem pushLand_core_b (s : State) (n : Nat) (e : Eff) (l : Label) (k : BitVec 3) (r : BitVec 5) (vas : List Nat) : (pushLand s n e l k r vas).core.b = s.core.b := rfl
@[simp] theorem pushLand_core_fpMode (s : State) (n : Nat) (e : Eff) (l : Label) (k : BitVec 3) (r : BitVec 5) (vas : List Nat) : (pushLand s n e l k r vas).core.fpMode = s.core.fpMode := rfl
@[simp] theorem pushLand_core_fpFlags (s : State) (n : Nat) (e : Eff) (l : Label) (k : BitVec 3) (r : BitVec 5) (vas : List Nat) : (pushLand s n e l k r vas).core.fpFlags = s.core.fpFlags := rfl
@[simp] theorem pushLand_core_fpSeed (s : State) (n : Nat) (e : Eff) (l : Label) (k : BitVec 3) (r : BitVec 5) (vas : List Nat) : (pushLand s n e l k r vas).core.fpSeed = s.core.fpSeed := rfl
@[simp] theorem pushLand_core_fpSctr (s : State) (n : Nat) (e : Eff) (l : Label) (k : BitVec 3) (r : BitVec 5) (vas : List Nat) : (pushLand s n e l k r vas).core.fpSctr = s.core.fpSctr := rfl
@[simp] theorem pushLand_core_fpVcfg (s : State) (n : Nat) (e : Eff) (l : Label) (k : BitVec 3) (r : BitVec 5) (vas : List Nat) : (pushLand s n e l k r vas).core.fpVcfg = s.core.fpVcfg := rfl
@[simp] theorem pushLand_core_vro (s : State) (n : Nat) (e : Eff) (l : Label) (k : BitVec 3) (r : BitVec 5) (vas : List Nat) : (pushLand s n e l k r vas).core.vro = s.core.vro := rfl
@[simp] theorem pushLand_core_pro (s : State) (n : Nat) (e : Eff) (l : Label) (k : BitVec 3) (r : BitVec 5) (vas : List Nat) : (pushLand s n e l k r vas).core.pro = s.core.pro := rfl
@[simp] theorem pushLand_core_nest (s : State) (n : Nat) (e : Eff) (l : Label) (k : BitVec 3) (r : BitVec 5) (vas : List Nat) : (pushLand s n e l k r vas).core.nest = s.core.nest := rfl
@[simp] theorem pushLand_core_binds (s : State) (n : Nat) (e : Eff) (l : Label) (k : BitVec 3) (r : BitVec 5) (vas : List Nat) : (pushLand s n e l k r vas).core.binds = s.core.binds := rfl
@[simp] theorem pushLand_core_pc (s : State) (n : Nat) (e : Eff) (l : Label) (k : BitVec 3) (r : BitVec 5) (vas : List Nat) : (pushLand s n e l k r vas).core.pc = s.core.pc := rfl
@[simp] theorem pushLand_core_buf (s : State) (n : Nat) (e : Eff) (l : Label) (k : BitVec 3) (r : BitVec 5) (vas : List Nat) : (pushLand s n e l k r vas).core.buf = s.core.buf := rfl
@[simp] theorem pushLand_core_tick (s : State) (n : Nat) (e : Eff) (l : Label) (k : BitVec 3) (r : BitVec 5) (vas : List Nat) : (pushLand s n e l k r vas).core.tick = s.core.tick := rfl
@[simp] theorem pushLand_core_ltime (s : State) (n : Nat) (e : Eff) (l : Label) (k : BitVec 3) (r : BitVec 5) (vas : List Nat) : (pushLand s n e l k r vas).core.ltime = s.core.ltime := rfl
@[simp] theorem pushLand_core_frozen (s : State) (n : Nat) (e : Eff) (l : Label) (k : BitVec 3) (r : BitVec 5) (vas : List Nat) : (pushLand s n e l k r vas).core.frozen = s.core.frozen := rfl
@[simp] theorem pushLand_core_spun (s : State) (n : Nat) (e : Eff) (l : Label) (k : BitVec 3) (r : BitVec 5) (vas : List Nat) : (pushLand s n e l k r vas).core.spun = s.core.spun := rfl
@[simp] theorem pushLand_core_waiting (s : State) (n : Nat) (e : Eff) (l : Label) (k : BitVec 3) (r : BitVec 5) (vas : List Nat) : (pushLand s n e l k r vas).core.waiting = s.core.waiting := rfl
@[simp] theorem pushLand_core_spinW (s : State) (n : Nat) (e : Eff) (l : Label) (k : BitVec 3) (r : BitVec 5) (vas : List Nat) : (pushLand s n e l k r vas).core.spinW = s.core.spinW := rfl
@[simp] theorem pushLand_core_locked (s : State) (n : Nat) (e : Eff) (l : Label) (k : BitVec 3) (r : BitVec 5) (vas : List Nat) : (pushLand s n e l k r vas).core.locked = s.core.locked := rfl
@[simp] theorem pushLand_core_wantsLock (s : State) (n : Nat) (e : Eff) (l : Label) (k : BitVec 3) (r : BitVec 5) (vas : List Nat) : (pushLand s n e l k r vas).core.wantsLock = s.core.wantsLock := rfl
@[simp] theorem pushLand_core_run (s : State) (n : Nat) (e : Eff) (l : Label) (k : BitVec 3) (r : BitVec 5) (vas : List Nat) : (pushLand s n e l k r vas).core.run = s.core.run := rfl
@[simp] theorem pushLand_core_mark (s : State) (n : Nat) (e : Eff) (l : Label) (k : BitVec 3) (r : BitVec 5) (vas : List Nat) : (pushLand s n e l k r vas).core.mark = s.core.mark := rfl
@[simp] theorem pushLand_core_grp (s : State) (n : Nat) (e : Eff) (l : Label) (k : BitVec 3) (r : BitVec 5) (vas : List Nat) : (pushLand s n e l k r vas).core.grp = s.core.grp := rfl
@[simp] theorem pushLand_core_trCause (s : State) (n : Nat) (e : Eff) (l : Label) (k : BitVec 3) (r : BitVec 5) (vas : List Nat) : (pushLand s n e l k r vas).core.trCause = s.core.trCause := rfl
@[simp] theorem pushLand_core_trInfo (s : State) (n : Nat) (e : Eff) (l : Label) (k : BitVec 3) (r : BitVec 5) (vas : List Nat) : (pushLand s n e l k r vas).core.trInfo = s.core.trInfo := rfl
@[simp] theorem pushLand_core_trAddr (s : State) (n : Nat) (e : Eff) (l : Label) (k : BitVec 3) (r : BitVec 5) (vas : List Nat) : (pushLand s n e l k r vas).core.trAddr = s.core.trAddr := rfl
@[simp] theorem pushLand_core_cpSpin (s : State) (n : Nat) (e : Eff) (l : Label) (k : BitVec 3) (r : BitVec 5) (vas : List Nat) : (pushLand s n e l k r vas).core.cpSpin = s.core.cpSpin := rfl
@[simp] theorem pushLand_core_csz (s : State) (n : Nat) (e : Eff) (l : Label) (k : BitVec 3) (r : BitVec 5) (vas : List Nat) : (pushLand s n e l k r vas).core.csz = s.core.csz := rfl
@[simp] theorem pushLand_core_svf (s : State) (n : Nat) (e : Eff) (l : Label) (k : BitVec 3) (r : BitVec 5) (vas : List Nat) : (pushLand s n e l k r vas).core.svf = s.core.svf := rfl
@[simp] theorem pushLand_core_stash (s : State) (n : Nat) (e : Eff) (l : Label) (k : BitVec 3) (r : BitVec 5) (vas : List Nat) : (pushLand s n e l k r vas).core.stash = s.core.stash := rfl
@[simp] theorem pushLand_core_maps (s : State) (n : Nat) (e : Eff) (l : Label) (k : BitVec 3) (r : BitVec 5) (vas : List Nat) : (pushLand s n e l k r vas).core.maps = s.core.maps := rfl
@[simp] theorem pushLand_core_ctxs (s : State) (n : Nat) (e : Eff) (l : Label) (k : BitVec 3) (r : BitVec 5) (vas : List Nat) : (pushLand s n e l k r vas).core.ctxs = s.core.ctxs := rfl
@[simp] theorem pushLand_core_cur (s : State) (n : Nat) (e : Eff) (l : Label) (k : BitVec 3) (r : BitVec 5) (vas : List Nat) : (pushLand s n e l k r vas).core.cur = s.core.cur := rfl
@[simp] theorem pushLand_core_cmds (s : State) (n : Nat) (e : Eff) (l : Label) (k : BitVec 3) (r : BitVec 5) (vas : List Nat) : (pushLand s n e l k r vas).core.cmds = s.core.cmds := rfl
@[simp] theorem pushLand_core_wbuf (s : State) (n : Nat) (e : Eff) (l : Label) (k : BitVec 3) (r : BitVec 5) (vas : List Nat) : (pushLand s n e l k r vas).core.wbuf = s.core.wbuf := rfl
@[simp] theorem pushLand_core_half0 (s : State) (n : Nat) (e : Eff) (l : Label) (k : BitVec 3) (r : BitVec 5) (vas : List Nat) : (pushLand s n e l k r vas).core.half0 = s.core.half0 := rfl
@[simp] theorem pushLand_core_half1 (s : State) (n : Nat) (e : Eff) (l : Label) (k : BitVec 3) (r : BitVec 5) (vas : List Nat) : (pushLand s n e l k r vas).core.half1 = s.core.half1 := rfl
@[simp] theorem pushLand_core_active (s : State) (n : Nat) (e : Eff) (l : Label) (k : BitVec 3) (r : BitVec 5) (vas : List Nat) : (pushLand s n e l k r vas).core.active = s.core.active := rfl
@[simp] theorem pushLand_core_pats (s : State) (n : Nat) (e : Eff) (l : Label) (k : BitVec 3) (r : BitVec 5) (vas : List Nat) : (pushLand s n e l k r vas).core.pats = s.core.pats := rfl
@[simp] theorem pushLand_core_patBusy (s : State) (n : Nat) (e : Eff) (l : Label) (k : BitVec 3) (r : BitVec 5) (vas : List Nat) : (pushLand s n e l k r vas).core.patBusy = s.core.patBusy := rfl
@[simp] theorem pushLand_core_sfu (s : State) (n : Nat) (e : Eff) (l : Label) (k : BitVec 3) (r : BitVec 5) (vas : List Nat) : (pushLand s n e l k r vas).core.sfu = s.core.sfu := rfl
@[simp] theorem pushLand_core_subs (s : State) (n : Nat) (e : Eff) (l : Label) (k : BitVec 3) (r : BitVec 5) (vas : List Nat) : (pushLand s n e l k r vas).core.subs = s.core.subs := rfl
@[simp] theorem pushLand_core_mxIdle (s : State) (n : Nat) (e : Eff) (l : Label) (k : BitVec 3) (r : BitVec 5) (vas : List Nat) : (pushLand s n e l k r vas).core.mxIdle = s.core.mxIdle := rfl
@[simp] theorem pushLand_core_mxWake (s : State) (n : Nat) (e : Eff) (l : Label) (k : BitVec 3) (r : BitVec 5) (vas : List Nat) : (pushLand s n e l k r vas).core.mxWake = s.core.mxWake := rfl
@[simp] theorem pushLand_core_mxPool (s : State) (n : Nat) (e : Eff) (l : Label) (k : BitVec 3) (r : BitVec 5) (vas : List Nat) : (pushLand s n e l k r vas).core.mxPool = s.core.mxPool := rfl
@[simp] theorem pushLand_core_portVal (s : State) (n : Nat) (e : Eff) (l : Label) (k : BitVec 3) (r : BitVec 5) (vas : List Nat) : (pushLand s n e l k r vas).core.portVal = s.core.portVal := rfl
@[simp] theorem pushLand_core_portLive (s : State) (n : Nat) (e : Eff) (l : Label) (k : BitVec 3) (r : BitVec 5) (vas : List Nat) : (pushLand s n e l k r vas).core.portLive = s.core.portLive := rfl
@[simp] theorem pushLand_core_qsp (s : State) (n : Nat) (e : Eff) (l : Label) (k : BitVec 3) (r : BitVec 5) (vas : List Nat) : (pushLand s n e l k r vas).core.qsp = s.core.qsp := rfl
@[simp] theorem pushLand_core_mxPin (s : State) (n : Nat) (e : Eff) (l : Label) (k : BitVec 3) (r : BitVec 5) (vas : List Nat) : (pushLand s n e l k r vas).core.mxPin = s.core.mxPin := rfl
@[simp] theorem pushLand_core_mxWrote (s : State) (n : Nat) (e : Eff) (l : Label) (k : BitVec 3) (r : BitVec 5) (vas : List Nat) : (pushLand s n e l k r vas).core.mxWrote = s.core.mxWrote := rfl
@[simp] theorem pushLand_core_pinned (s : State) (n : Nat) (e : Eff) (l : Label) (k : BitVec 3) (r : BitVec 5) (vas : List Nat) : (pushLand s n e l k r vas).core.pinned = s.core.pinned := rfl
@[simp] theorem pushLand_core_blocks (s : State) (n : Nat) (e : Eff) (l : Label) (k : BitVec 3) (r : BitVec 5) (vas : List Nat) : (pushLand s n e l k r vas).core.blocks = s.core.blocks := rfl
@[simp] theorem pushLand_core_blockEnd (s : State) (n : Nat) (e : Eff) (l : Label) (k : BitVec 3) (r : BitVec 5) (vas : List Nat) : (pushLand s n e l k r vas).core.blockEnd = s.core.blockEnd := rfl
@[simp] theorem pushLand_core_skSeed (s : State) (n : Nat) (e : Eff) (l : Label) (k : BitVec 3) (r : BitVec 5) (vas : List Nat) : (pushLand s n e l k r vas).core.skSeed = s.core.skSeed := rfl
@[simp] theorem pushLand_core_skBusy (s : State) (n : Nat) (e : Eff) (l : Label) (k : BitVec 3) (r : BitVec 5) (vas : List Nat) : (pushLand s n e l k r vas).core.skBusy = s.core.skBusy := rfl
@[simp] theorem pushLand_core_abort (s : State) (n : Nat) (e : Eff) (l : Label) (k : BitVec 3) (r : BitVec 5) (vas : List Nat) : (pushLand s n e l k r vas).core.abort = s.core.abort := rfl

/-! ## Held groups -/

@[simp] theorem heldOne_coreNo (s : State) (w : Bool) (p : Option (Nat × Nat × Nat)) : (heldOne s w p).coreNo = s.coreNo := rfl
@[simp] theorem heldOne_others (s : State) (w : Bool) (p : Option (Nat × Nat × Nat)) : (heldOne s w p).others = s.others := rfl
@[simp] theorem heldOne_agenda (s : State) (w : Bool) (p : Option (Nat × Nat × Nat)) : (heldOne s w p).agenda = s.agenda := rfl
@[simp] theorem heldOne_time (s : State) (w : Bool) (p : Option (Nat × Nat × Nat)) : (heldOne s w p).time = s.time := rfl
@[simp] theorem heldOne_fresh (s : State) (w : Bool) (p : Option (Nat × Nat × Nat)) : (heldOne s w p).fresh = s.fresh := rfl
@[simp] theorem heldOne_mem (s : State) (w : Bool) (p : Option (Nat × Nat × Nat)) : (heldOne s w p).mem = s.mem := rfl
@[simp] theorem heldOne_flab (s : State) (w : Bool) (p : Option (Nat × Nat × Nat)) : (heldOne s w p).flab = s.flab := rfl
@[simp] theorem heldOne_poison (s : State) (w : Bool) (p : Option (Nat × Nat × Nat)) : (heldOne s w p).poison = s.poison := rfl
@[simp] theorem heldOne_dir (s : State) (w : Bool) (p : Option (Nat × Nat × Nat)) : (heldOne s w p).dir = s.dir := rfl
@[simp] theorem heldOne_llc (s : State) (w : Bool) (p : Option (Nat × Nat × Nat)) : (heldOne s w p).llc = s.llc := rfl
@[simp] theorem heldOne_jcache (s : State) (w : Bool) (p : Option (Nat × Nat × Nat)) : (heldOne s w p).jcache = s.jcache := rfl
@[simp] theorem heldOne_msgs (s : State) (w : Bool) (p : Option (Nat × Nat × Nat)) : (heldOne s w p).msgs = s.msgs := rfl
@[simp] theorem heldOne_waits (s : State) (w : Bool) (p : Option (Nat × Nat × Nat)) : (heldOne s w p).waits = s.waits := rfl
@[simp] theorem heldOne_downLinks (s : State) (w : Bool) (p : Option (Nat × Nat × Nat)) : (heldOne s w p).downLinks = s.downLinks := rfl
@[simp] theorem heldOne_isets (s : State) (w : Bool) (p : Option (Nat × Nat × Nat)) : (heldOne s w p).isets = s.isets := rfl
@[simp] theorem heldOne_nwins (s : State) (w : Bool) (p : Option (Nat × Nat × Nat)) : (heldOne s w p).nwins = s.nwins := rfl
@[simp] theorem heldOne_vfs (s : State) (w : Bool) (p : Option (Nat × Nat × Nat)) : (heldOne s w p).vfs = s.vfs := rfl
@[simp] theorem heldOne_parts (s : State) (w : Bool) (p : Option (Nat × Nat × Nat)) : (heldOne s w p).parts = s.parts := rfl
@[simp] theorem heldOne_flm (s : State) (w : Bool) (p : Option (Nat × Nat × Nat)) : (heldOne s w p).flm = s.flm := rfl
@[simp] theorem heldOne_posts (s : State) (w : Bool) (p : Option (Nat × Nat × Nat)) : (heldOne s w p).posts = s.posts := rfl
@[simp] theorem heldOne_ready (s : State) (w : Bool) (p : Option (Nat × Nat × Nat)) : (heldOne s w p).ready = s.ready := rfl
@[simp] theorem heldOne_admits (s : State) (w : Bool) (p : Option (Nat × Nat × Nat)) : (heldOne s w p).admits = s.admits := rfl
@[simp] theorem heldOne_taken (s : State) (w : Bool) (p : Option (Nat × Nat × Nat)) : (heldOne s w p).taken = s.taken := rfl
@[simp] theorem heldOne_seen (s : State) (w : Bool) (p : Option (Nat × Nat × Nat)) : (heldOne s w p).seen = s.seen := rfl
@[simp] theorem heldOne_rots (s : State) (w : Bool) (p : Option (Nat × Nat × Nat)) : (heldOne s w p).rots = s.rots := rfl
@[simp] theorem heldOne_ended (s : State) (w : Bool) (p : Option (Nat × Nat × Nat)) : (heldOne s w p).ended = s.ended := rfl
@[simp] theorem heldOne_graphs (s : State) (w : Bool) (p : Option (Nat × Nat × Nat)) : (heldOne s w p).graphs = s.graphs := rfl
@[simp] theorem heldOne_acts (s : State) (w : Bool) (p : Option (Nat × Nat × Nat)) : (heldOne s w p).acts = s.acts := rfl
@[simp] theorem heldOne_quadQ (s : State) (w : Bool) (p : Option (Nat × Nat × Nat)) : (heldOne s w p).quadQ = s.quadQ := rfl
@[simp] theorem heldOne_quadRun (s : State) (w : Bool) (p : Option (Nat × Nat × Nat)) : (heldOne s w p).quadRun = s.quadRun := rfl
@[simp] theorem heldOne_clRing (s : State) (w : Bool) (p : Option (Nat × Nat × Nat)) : (heldOne s w p).clRing = s.clRing := rfl
@[simp] theorem heldOne_trees (s : State) (w : Bool) (p : Option (Nat × Nat × Nat)) : (heldOne s w p).trees = s.trees := rfl
@[simp] theorem heldOne_parked (s : State) (w : Bool) (p : Option (Nat × Nat × Nat)) : (heldOne s w p).parked = s.parked := rfl
@[simp] theorem heldOne_hartNo (s : State) (w : Bool) (p : Option (Nat × Nat × Nat)) : (heldOne s w p).hartNo = s.hartNo := rfl
@[simp] theorem heldOne_harts (s : State) (w : Bool) (p : Option (Nat × Nat × Nat)) : (heldOne s w p).harts = s.harts := rfl
@[simp] theorem heldOne_unans (s : State) (w : Bool) (p : Option (Nat × Nat × Nat)) : (heldOne s w p).unans = s.unans := rfl
@[simp] theorem heldOne_gone (s : State) (w : Bool) (p : Option (Nat × Nat × Nat)) : (heldOne s w p).gone = s.gone := rfl
@[simp] theorem heldOne_armed (s : State) (w : Bool) (p : Option (Nat × Nat × Nat)) : (heldOne s w p).armed = s.armed := rfl
@[simp] theorem heldOne_wiping (s : State) (w : Bool) (p : Option (Nat × Nat × Nat)) : (heldOne s w p).wiping = s.wiping := rfl
@[simp] theorem heldOne_mbDie (s : State) (w : Bool) (p : Option (Nat × Nat × Nat)) : (heldOne s w p).mbDie = s.mbDie := rfl
@[simp] theorem heldOne_jmemb (s : State) (w : Bool) (p : Option (Nat × Nat × Nat)) : (heldOne s w p).jmemb = s.jmemb := rfl
@[simp] theorem heldOne_jmeml (s : State) (w : Bool) (p : Option (Nat × Nat × Nat)) : (heldOne s w p).jmeml = s.jmeml := rfl
@[simp] theorem heldOne_evMbt (s : State) (w : Bool) (p : Option (Nat × Nat × Nat)) : (heldOne s w p).evMbt = s.evMbt := rfl
@[simp] theorem heldOne_evMbb (s : State) (w : Bool) (p : Option (Nat × Nat × Nat)) : (heldOne s w p).evMbb = s.evMbb := rfl
@[simp] theorem heldOne_evEpt (s : State) (w : Bool) (p : Option (Nat × Nat × Nat)) : (heldOne s w p).evEpt = s.evEpt := rfl
@[simp] theorem heldOne_ptCerr (s : State) (w : Bool) (p : Option (Nat × Nat × Nat)) : (heldOne s w p).ptCerr = s.ptCerr := rfl
@[simp] theorem heldOne_scrub (s : State) (w : Bool) (p : Option (Nat × Nat × Nat)) : (heldOne s w p).scrub = s.scrub := rfl
@[simp] theorem heldOne_egress (s : State) (w : Bool) (p : Option (Nat × Nat × Nat)) : (heldOne s w p).egress = s.egress := rfl
@[simp] theorem heldOne_mcHead (s : State) (w : Bool) (p : Option (Nat × Nat × Nat)) : (heldOne s w p).mcHead = s.mcHead := rfl
@[simp] theorem heldOne_mcTail (s : State) (w : Bool) (p : Option (Nat × Nat × Nat)) : (heldOne s w p).mcTail = s.mcTail := rfl
@[simp] theorem heldOne_mcLost (s : State) (w : Bool) (p : Option (Nat × Nat × Nat)) : (heldOne s w p).mcLost = s.mcLost := rfl
@[simp] theorem heldOne_mcLog (s : State) (w : Bool) (p : Option (Nat × Nat × Nat)) : (heldOne s w p).mcLog = s.mcLog := rfl
@[simp] theorem heldOne_dev (s : State) (w : Bool) (p : Option (Nat × Nat × Nat)) : (heldOne s w p).dev = s.dev := rfl
@[simp] theorem heldOne_core_s (s : State) (w : Bool) (p : Option (Nat × Nat × Nat)) : (heldOne s w p).core.s = s.core.s := rfl
@[simp] theorem heldOne_core_a (s : State) (w : Bool) (p : Option (Nat × Nat × Nat)) : (heldOne s w p).core.a = s.core.a := rfl
@[simp] theorem heldOne_core_p (s : State) (w : Bool) (p : Option (Nat × Nat × Nat)) : (heldOne s w p).core.p = s.core.p := rfl
@[simp] theorem heldOne_core_v (s : State) (w : Bool) (p : Option (Nat × Nat × Nat)) : (heldOne s w p).core.v = s.core.v := rfl
@[simp] theorem heldOne_core_m (s : State) (w : Bool) (p : Option (Nat × Nat × Nat)) : (heldOne s w p).core.m = s.core.m := rfl
@[simp] theorem heldOne_core_g (s : State) (w : Bool) (p : Option (Nat × Nat × Nat)) : (heldOne s w p).core.g = s.core.g := rfl
@[simp] theorem heldOne_core_z (s : State) (w : Bool) (p : Option (Nat × Nat × Nat)) : (heldOne s w p).core.z = s.core.z := rfl
@[simp] theorem heldOne_core_bt (s : State) (w : Bool) (p : Option (Nat × Nat × Nat)) : (heldOne s w p).core.bt = s.core.bt := rfl
@[simp] theorem heldOne_core_b (s : State) (w : Bool) (p : Option (Nat × Nat × Nat)) : (heldOne s w p).core.b = s.core.b := rfl
@[simp] theorem heldOne_core_fpMode (s : State) (w : Bool) (p : Option (Nat × Nat × Nat)) : (heldOne s w p).core.fpMode = s.core.fpMode := rfl
@[simp] theorem heldOne_core_fpFlags (s : State) (w : Bool) (p : Option (Nat × Nat × Nat)) : (heldOne s w p).core.fpFlags = s.core.fpFlags := rfl
@[simp] theorem heldOne_core_fpSeed (s : State) (w : Bool) (p : Option (Nat × Nat × Nat)) : (heldOne s w p).core.fpSeed = s.core.fpSeed := rfl
@[simp] theorem heldOne_core_fpSctr (s : State) (w : Bool) (p : Option (Nat × Nat × Nat)) : (heldOne s w p).core.fpSctr = s.core.fpSctr := rfl
@[simp] theorem heldOne_core_fpVcfg (s : State) (w : Bool) (p : Option (Nat × Nat × Nat)) : (heldOne s w p).core.fpVcfg = s.core.fpVcfg := rfl
@[simp] theorem heldOne_core_vro (s : State) (w : Bool) (p : Option (Nat × Nat × Nat)) : (heldOne s w p).core.vro = s.core.vro := rfl
@[simp] theorem heldOne_core_pro (s : State) (w : Bool) (p : Option (Nat × Nat × Nat)) : (heldOne s w p).core.pro = s.core.pro := rfl
@[simp] theorem heldOne_core_nest (s : State) (w : Bool) (p : Option (Nat × Nat × Nat)) : (heldOne s w p).core.nest = s.core.nest := rfl
@[simp] theorem heldOne_core_binds (s : State) (w : Bool) (p : Option (Nat × Nat × Nat)) : (heldOne s w p).core.binds = s.core.binds := rfl
@[simp] theorem heldOne_core_pc (s : State) (w : Bool) (p : Option (Nat × Nat × Nat)) : (heldOne s w p).core.pc = s.core.pc := rfl
@[simp] theorem heldOne_core_buf (s : State) (w : Bool) (p : Option (Nat × Nat × Nat)) : (heldOne s w p).core.buf = s.core.buf := rfl
@[simp] theorem heldOne_core_tick (s : State) (w : Bool) (p : Option (Nat × Nat × Nat)) : (heldOne s w p).core.tick = s.core.tick := rfl
@[simp] theorem heldOne_core_ltime (s : State) (w : Bool) (p : Option (Nat × Nat × Nat)) : (heldOne s w p).core.ltime = s.core.ltime := rfl
@[simp] theorem heldOne_core_locked (s : State) (w : Bool) (p : Option (Nat × Nat × Nat)) : (heldOne s w p).core.locked = s.core.locked := rfl
@[simp] theorem heldOne_core_wantsLock (s : State) (w : Bool) (p : Option (Nat × Nat × Nat)) : (heldOne s w p).core.wantsLock = s.core.wantsLock := rfl
@[simp] theorem heldOne_core_pend (s : State) (w : Bool) (p : Option (Nat × Nat × Nat)) : (heldOne s w p).core.pend = s.core.pend := rfl
@[simp] theorem heldOne_core_run (s : State) (w : Bool) (p : Option (Nat × Nat × Nat)) : (heldOne s w p).core.run = s.core.run := rfl
@[simp] theorem heldOne_core_grp (s : State) (w : Bool) (p : Option (Nat × Nat × Nat)) : (heldOne s w p).core.grp = s.core.grp := rfl
@[simp] theorem heldOne_core_trCause (s : State) (w : Bool) (p : Option (Nat × Nat × Nat)) : (heldOne s w p).core.trCause = s.core.trCause := rfl
@[simp] theorem heldOne_core_trInfo (s : State) (w : Bool) (p : Option (Nat × Nat × Nat)) : (heldOne s w p).core.trInfo = s.core.trInfo := rfl
@[simp] theorem heldOne_core_trAddr (s : State) (w : Bool) (p : Option (Nat × Nat × Nat)) : (heldOne s w p).core.trAddr = s.core.trAddr := rfl
@[simp] theorem heldOne_core_cpSpin (s : State) (w : Bool) (p : Option (Nat × Nat × Nat)) : (heldOne s w p).core.cpSpin = s.core.cpSpin := rfl
@[simp] theorem heldOne_core_csz (s : State) (w : Bool) (p : Option (Nat × Nat × Nat)) : (heldOne s w p).core.csz = s.core.csz := rfl
@[simp] theorem heldOne_core_svf (s : State) (w : Bool) (p : Option (Nat × Nat × Nat)) : (heldOne s w p).core.svf = s.core.svf := rfl
@[simp] theorem heldOne_core_stash (s : State) (w : Bool) (p : Option (Nat × Nat × Nat)) : (heldOne s w p).core.stash = s.core.stash := rfl
@[simp] theorem heldOne_core_maps (s : State) (w : Bool) (p : Option (Nat × Nat × Nat)) : (heldOne s w p).core.maps = s.core.maps := rfl
@[simp] theorem heldOne_core_ctxs (s : State) (w : Bool) (p : Option (Nat × Nat × Nat)) : (heldOne s w p).core.ctxs = s.core.ctxs := rfl
@[simp] theorem heldOne_core_cur (s : State) (w : Bool) (p : Option (Nat × Nat × Nat)) : (heldOne s w p).core.cur = s.core.cur := rfl
@[simp] theorem heldOne_core_cmds (s : State) (w : Bool) (p : Option (Nat × Nat × Nat)) : (heldOne s w p).core.cmds = s.core.cmds := rfl
@[simp] theorem heldOne_core_wbuf (s : State) (w : Bool) (p : Option (Nat × Nat × Nat)) : (heldOne s w p).core.wbuf = s.core.wbuf := rfl
@[simp] theorem heldOne_core_half0 (s : State) (w : Bool) (p : Option (Nat × Nat × Nat)) : (heldOne s w p).core.half0 = s.core.half0 := rfl
@[simp] theorem heldOne_core_half1 (s : State) (w : Bool) (p : Option (Nat × Nat × Nat)) : (heldOne s w p).core.half1 = s.core.half1 := rfl
@[simp] theorem heldOne_core_active (s : State) (w : Bool) (p : Option (Nat × Nat × Nat)) : (heldOne s w p).core.active = s.core.active := rfl
@[simp] theorem heldOne_core_pats (s : State) (w : Bool) (p : Option (Nat × Nat × Nat)) : (heldOne s w p).core.pats = s.core.pats := rfl
@[simp] theorem heldOne_core_patBusy (s : State) (w : Bool) (p : Option (Nat × Nat × Nat)) : (heldOne s w p).core.patBusy = s.core.patBusy := rfl
@[simp] theorem heldOne_core_sfu (s : State) (w : Bool) (p : Option (Nat × Nat × Nat)) : (heldOne s w p).core.sfu = s.core.sfu := rfl
@[simp] theorem heldOne_core_subs (s : State) (w : Bool) (p : Option (Nat × Nat × Nat)) : (heldOne s w p).core.subs = s.core.subs := rfl
@[simp] theorem heldOne_core_mxIdle (s : State) (w : Bool) (p : Option (Nat × Nat × Nat)) : (heldOne s w p).core.mxIdle = s.core.mxIdle := rfl
@[simp] theorem heldOne_core_mxWake (s : State) (w : Bool) (p : Option (Nat × Nat × Nat)) : (heldOne s w p).core.mxWake = s.core.mxWake := rfl
@[simp] theorem heldOne_core_mxPool (s : State) (w : Bool) (p : Option (Nat × Nat × Nat)) : (heldOne s w p).core.mxPool = s.core.mxPool := rfl
@[simp] theorem heldOne_core_portVal (s : State) (w : Bool) (p : Option (Nat × Nat × Nat)) : (heldOne s w p).core.portVal = s.core.portVal := rfl
@[simp] theorem heldOne_core_portLive (s : State) (w : Bool) (p : Option (Nat × Nat × Nat)) : (heldOne s w p).core.portLive = s.core.portLive := rfl
@[simp] theorem heldOne_core_qsp (s : State) (w : Bool) (p : Option (Nat × Nat × Nat)) : (heldOne s w p).core.qsp = s.core.qsp := rfl
@[simp] theorem heldOne_core_mxPin (s : State) (w : Bool) (p : Option (Nat × Nat × Nat)) : (heldOne s w p).core.mxPin = s.core.mxPin := rfl
@[simp] theorem heldOne_core_mxWrote (s : State) (w : Bool) (p : Option (Nat × Nat × Nat)) : (heldOne s w p).core.mxWrote = s.core.mxWrote := rfl
@[simp] theorem heldOne_core_pinned (s : State) (w : Bool) (p : Option (Nat × Nat × Nat)) : (heldOne s w p).core.pinned = s.core.pinned := rfl
@[simp] theorem heldOne_core_blocks (s : State) (w : Bool) (p : Option (Nat × Nat × Nat)) : (heldOne s w p).core.blocks = s.core.blocks := rfl
@[simp] theorem heldOne_core_blockEnd (s : State) (w : Bool) (p : Option (Nat × Nat × Nat)) : (heldOne s w p).core.blockEnd = s.core.blockEnd := rfl
@[simp] theorem heldOne_core_skSeed (s : State) (w : Bool) (p : Option (Nat × Nat × Nat)) : (heldOne s w p).core.skSeed = s.core.skSeed := rfl
@[simp] theorem heldOne_core_skBusy (s : State) (w : Bool) (p : Option (Nat × Nat × Nat)) : (heldOne s w p).core.skBusy = s.core.skBusy := rfl
@[simp] theorem heldOne_core_abort (s : State) (w : Bool) (p : Option (Nat × Nat × Nat)) : (heldOne s w p).core.abort = s.core.abort := rfl
@[simp] theorem heldOne_mark (s : State) (w : Bool) (p : Option (Nat × Nat × Nat)) : (heldOne s w p).core.mark = .held := rfl

/-! ## Partitions and VFs -/

@[simp] theorem setPart_core (s : State) (p : Nat) (x : Part) : (setPart s p x).core = s.core := rfl
@[simp] theorem setPart_coreNo (s : State) (p : Nat) (x : Part) : (setPart s p x).coreNo = s.coreNo := rfl
@[simp] theorem setPart_others (s : State) (p : Nat) (x : Part) : (setPart s p x).others = s.others := rfl
@[simp] theorem setPart_agenda (s : State) (p : Nat) (x : Part) : (setPart s p x).agenda = s.agenda := rfl
@[simp] theorem setPart_time (s : State) (p : Nat) (x : Part) : (setPart s p x).time = s.time := rfl
@[simp] theorem setPart_fresh (s : State) (p : Nat) (x : Part) : (setPart s p x).fresh = s.fresh := rfl
@[simp] theorem setPart_mem (s : State) (p : Nat) (x : Part) : (setPart s p x).mem = s.mem := rfl
@[simp] theorem setPart_flab (s : State) (p : Nat) (x : Part) : (setPart s p x).flab = s.flab := rfl
@[simp] theorem setPart_poison (s : State) (p : Nat) (x : Part) : (setPart s p x).poison = s.poison := rfl
@[simp] theorem setPart_dir (s : State) (p : Nat) (x : Part) : (setPart s p x).dir = s.dir := rfl
@[simp] theorem setPart_llc (s : State) (p : Nat) (x : Part) : (setPart s p x).llc = s.llc := rfl
@[simp] theorem setPart_jcache (s : State) (p : Nat) (x : Part) : (setPart s p x).jcache = s.jcache := rfl
@[simp] theorem setPart_msgs (s : State) (p : Nat) (x : Part) : (setPart s p x).msgs = s.msgs := rfl
@[simp] theorem setPart_waits (s : State) (p : Nat) (x : Part) : (setPart s p x).waits = s.waits := rfl
@[simp] theorem setPart_downLinks (s : State) (p : Nat) (x : Part) : (setPart s p x).downLinks = s.downLinks := rfl
@[simp] theorem setPart_isets (s : State) (p : Nat) (x : Part) : (setPart s p x).isets = s.isets := rfl
@[simp] theorem setPart_nwins (s : State) (p : Nat) (x : Part) : (setPart s p x).nwins = s.nwins := rfl
@[simp] theorem setPart_vfs (s : State) (p : Nat) (x : Part) : (setPart s p x).vfs = s.vfs := rfl
@[simp] theorem setPart_flm (s : State) (p : Nat) (x : Part) : (setPart s p x).flm = s.flm := rfl
@[simp] theorem setPart_posts (s : State) (p : Nat) (x : Part) : (setPart s p x).posts = s.posts := rfl
@[simp] theorem setPart_ready (s : State) (p : Nat) (x : Part) : (setPart s p x).ready = s.ready := rfl
@[simp] theorem setPart_admits (s : State) (p : Nat) (x : Part) : (setPart s p x).admits = s.admits := rfl
@[simp] theorem setPart_taken (s : State) (p : Nat) (x : Part) : (setPart s p x).taken = s.taken := rfl
@[simp] theorem setPart_seen (s : State) (p : Nat) (x : Part) : (setPart s p x).seen = s.seen := rfl
@[simp] theorem setPart_rots (s : State) (p : Nat) (x : Part) : (setPart s p x).rots = s.rots := rfl
@[simp] theorem setPart_ended (s : State) (p : Nat) (x : Part) : (setPart s p x).ended = s.ended := rfl
@[simp] theorem setPart_graphs (s : State) (p : Nat) (x : Part) : (setPart s p x).graphs = s.graphs := rfl
@[simp] theorem setPart_acts (s : State) (p : Nat) (x : Part) : (setPart s p x).acts = s.acts := rfl
@[simp] theorem setPart_quadQ (s : State) (p : Nat) (x : Part) : (setPart s p x).quadQ = s.quadQ := rfl
@[simp] theorem setPart_quadRun (s : State) (p : Nat) (x : Part) : (setPart s p x).quadRun = s.quadRun := rfl
@[simp] theorem setPart_clRing (s : State) (p : Nat) (x : Part) : (setPart s p x).clRing = s.clRing := rfl
@[simp] theorem setPart_trees (s : State) (p : Nat) (x : Part) : (setPart s p x).trees = s.trees := rfl
@[simp] theorem setPart_parked (s : State) (p : Nat) (x : Part) : (setPart s p x).parked = s.parked := rfl
@[simp] theorem setPart_hartNo (s : State) (p : Nat) (x : Part) : (setPart s p x).hartNo = s.hartNo := rfl
@[simp] theorem setPart_harts (s : State) (p : Nat) (x : Part) : (setPart s p x).harts = s.harts := rfl
@[simp] theorem setPart_unans (s : State) (p : Nat) (x : Part) : (setPart s p x).unans = s.unans := rfl
@[simp] theorem setPart_gone (s : State) (p : Nat) (x : Part) : (setPart s p x).gone = s.gone := rfl
@[simp] theorem setPart_armed (s : State) (p : Nat) (x : Part) : (setPart s p x).armed = s.armed := rfl
@[simp] theorem setPart_wiping (s : State) (p : Nat) (x : Part) : (setPart s p x).wiping = s.wiping := rfl
@[simp] theorem setPart_mbDie (s : State) (p : Nat) (x : Part) : (setPart s p x).mbDie = s.mbDie := rfl
@[simp] theorem setPart_jmemb (s : State) (p : Nat) (x : Part) : (setPart s p x).jmemb = s.jmemb := rfl
@[simp] theorem setPart_jmeml (s : State) (p : Nat) (x : Part) : (setPart s p x).jmeml = s.jmeml := rfl
@[simp] theorem setPart_evMbt (s : State) (p : Nat) (x : Part) : (setPart s p x).evMbt = s.evMbt := rfl
@[simp] theorem setPart_evMbb (s : State) (p : Nat) (x : Part) : (setPart s p x).evMbb = s.evMbb := rfl
@[simp] theorem setPart_evEpt (s : State) (p : Nat) (x : Part) : (setPart s p x).evEpt = s.evEpt := rfl
@[simp] theorem setPart_ptCerr (s : State) (p : Nat) (x : Part) : (setPart s p x).ptCerr = s.ptCerr := rfl
@[simp] theorem setPart_scrub (s : State) (p : Nat) (x : Part) : (setPart s p x).scrub = s.scrub := rfl
@[simp] theorem setPart_egress (s : State) (p : Nat) (x : Part) : (setPart s p x).egress = s.egress := rfl
@[simp] theorem setPart_mcHead (s : State) (p : Nat) (x : Part) : (setPart s p x).mcHead = s.mcHead := rfl
@[simp] theorem setPart_mcTail (s : State) (p : Nat) (x : Part) : (setPart s p x).mcTail = s.mcTail := rfl
@[simp] theorem setPart_mcLost (s : State) (p : Nat) (x : Part) : (setPart s p x).mcLost = s.mcLost := rfl
@[simp] theorem setPart_mcLog (s : State) (p : Nat) (x : Part) : (setPart s p x).mcLog = s.mcLog := rfl
@[simp] theorem setPart_dev (s : State) (p : Nat) (x : Part) : (setPart s p x).dev = s.dev := rfl
@[simp] theorem setVf_core (s : State) (v : Nat) (x : VfEnt) : (setVf s v x).core = s.core := rfl
@[simp] theorem setVf_coreNo (s : State) (v : Nat) (x : VfEnt) : (setVf s v x).coreNo = s.coreNo := rfl
@[simp] theorem setVf_others (s : State) (v : Nat) (x : VfEnt) : (setVf s v x).others = s.others := rfl
@[simp] theorem setVf_agenda (s : State) (v : Nat) (x : VfEnt) : (setVf s v x).agenda = s.agenda := rfl
@[simp] theorem setVf_time (s : State) (v : Nat) (x : VfEnt) : (setVf s v x).time = s.time := rfl
@[simp] theorem setVf_fresh (s : State) (v : Nat) (x : VfEnt) : (setVf s v x).fresh = s.fresh := rfl
@[simp] theorem setVf_mem (s : State) (v : Nat) (x : VfEnt) : (setVf s v x).mem = s.mem := rfl
@[simp] theorem setVf_flab (s : State) (v : Nat) (x : VfEnt) : (setVf s v x).flab = s.flab := rfl
@[simp] theorem setVf_poison (s : State) (v : Nat) (x : VfEnt) : (setVf s v x).poison = s.poison := rfl
@[simp] theorem setVf_dir (s : State) (v : Nat) (x : VfEnt) : (setVf s v x).dir = s.dir := rfl
@[simp] theorem setVf_llc (s : State) (v : Nat) (x : VfEnt) : (setVf s v x).llc = s.llc := rfl
@[simp] theorem setVf_jcache (s : State) (v : Nat) (x : VfEnt) : (setVf s v x).jcache = s.jcache := rfl
@[simp] theorem setVf_msgs (s : State) (v : Nat) (x : VfEnt) : (setVf s v x).msgs = s.msgs := rfl
@[simp] theorem setVf_waits (s : State) (v : Nat) (x : VfEnt) : (setVf s v x).waits = s.waits := rfl
@[simp] theorem setVf_downLinks (s : State) (v : Nat) (x : VfEnt) : (setVf s v x).downLinks = s.downLinks := rfl
@[simp] theorem setVf_isets (s : State) (v : Nat) (x : VfEnt) : (setVf s v x).isets = s.isets := rfl
@[simp] theorem setVf_nwins (s : State) (v : Nat) (x : VfEnt) : (setVf s v x).nwins = s.nwins := rfl
@[simp] theorem setVf_parts (s : State) (v : Nat) (x : VfEnt) : (setVf s v x).parts = s.parts := rfl
@[simp] theorem setVf_flm (s : State) (v : Nat) (x : VfEnt) : (setVf s v x).flm = s.flm := rfl
@[simp] theorem setVf_posts (s : State) (v : Nat) (x : VfEnt) : (setVf s v x).posts = s.posts := rfl
@[simp] theorem setVf_ready (s : State) (v : Nat) (x : VfEnt) : (setVf s v x).ready = s.ready := rfl
@[simp] theorem setVf_admits (s : State) (v : Nat) (x : VfEnt) : (setVf s v x).admits = s.admits := rfl
@[simp] theorem setVf_taken (s : State) (v : Nat) (x : VfEnt) : (setVf s v x).taken = s.taken := rfl
@[simp] theorem setVf_seen (s : State) (v : Nat) (x : VfEnt) : (setVf s v x).seen = s.seen := rfl
@[simp] theorem setVf_rots (s : State) (v : Nat) (x : VfEnt) : (setVf s v x).rots = s.rots := rfl
@[simp] theorem setVf_ended (s : State) (v : Nat) (x : VfEnt) : (setVf s v x).ended = s.ended := rfl
@[simp] theorem setVf_graphs (s : State) (v : Nat) (x : VfEnt) : (setVf s v x).graphs = s.graphs := rfl
@[simp] theorem setVf_acts (s : State) (v : Nat) (x : VfEnt) : (setVf s v x).acts = s.acts := rfl
@[simp] theorem setVf_quadQ (s : State) (v : Nat) (x : VfEnt) : (setVf s v x).quadQ = s.quadQ := rfl
@[simp] theorem setVf_quadRun (s : State) (v : Nat) (x : VfEnt) : (setVf s v x).quadRun = s.quadRun := rfl
@[simp] theorem setVf_clRing (s : State) (v : Nat) (x : VfEnt) : (setVf s v x).clRing = s.clRing := rfl
@[simp] theorem setVf_trees (s : State) (v : Nat) (x : VfEnt) : (setVf s v x).trees = s.trees := rfl
@[simp] theorem setVf_parked (s : State) (v : Nat) (x : VfEnt) : (setVf s v x).parked = s.parked := rfl
@[simp] theorem setVf_hartNo (s : State) (v : Nat) (x : VfEnt) : (setVf s v x).hartNo = s.hartNo := rfl
@[simp] theorem setVf_harts (s : State) (v : Nat) (x : VfEnt) : (setVf s v x).harts = s.harts := rfl
@[simp] theorem setVf_unans (s : State) (v : Nat) (x : VfEnt) : (setVf s v x).unans = s.unans := rfl
@[simp] theorem setVf_gone (s : State) (v : Nat) (x : VfEnt) : (setVf s v x).gone = s.gone := rfl
@[simp] theorem setVf_armed (s : State) (v : Nat) (x : VfEnt) : (setVf s v x).armed = s.armed := rfl
@[simp] theorem setVf_wiping (s : State) (v : Nat) (x : VfEnt) : (setVf s v x).wiping = s.wiping := rfl
@[simp] theorem setVf_mbDie (s : State) (v : Nat) (x : VfEnt) : (setVf s v x).mbDie = s.mbDie := rfl
@[simp] theorem setVf_jmemb (s : State) (v : Nat) (x : VfEnt) : (setVf s v x).jmemb = s.jmemb := rfl
@[simp] theorem setVf_jmeml (s : State) (v : Nat) (x : VfEnt) : (setVf s v x).jmeml = s.jmeml := rfl
@[simp] theorem setVf_evMbt (s : State) (v : Nat) (x : VfEnt) : (setVf s v x).evMbt = s.evMbt := rfl
@[simp] theorem setVf_evMbb (s : State) (v : Nat) (x : VfEnt) : (setVf s v x).evMbb = s.evMbb := rfl
@[simp] theorem setVf_evEpt (s : State) (v : Nat) (x : VfEnt) : (setVf s v x).evEpt = s.evEpt := rfl
@[simp] theorem setVf_ptCerr (s : State) (v : Nat) (x : VfEnt) : (setVf s v x).ptCerr = s.ptCerr := rfl
@[simp] theorem setVf_scrub (s : State) (v : Nat) (x : VfEnt) : (setVf s v x).scrub = s.scrub := rfl
@[simp] theorem setVf_egress (s : State) (v : Nat) (x : VfEnt) : (setVf s v x).egress = s.egress := rfl
@[simp] theorem setVf_mcHead (s : State) (v : Nat) (x : VfEnt) : (setVf s v x).mcHead = s.mcHead := rfl
@[simp] theorem setVf_mcTail (s : State) (v : Nat) (x : VfEnt) : (setVf s v x).mcTail = s.mcTail := rfl
@[simp] theorem setVf_mcLost (s : State) (v : Nat) (x : VfEnt) : (setVf s v x).mcLost = s.mcLost := rfl
@[simp] theorem setVf_mcLog (s : State) (v : Nat) (x : VfEnt) : (setVf s v x).mcLog = s.mcLog := rfl
@[simp] theorem setVf_dev (s : State) (v : Nat) (x : VfEnt) : (setVf s v x).dev = s.dev := rfl

/-! ## Keyed lists -/

theorem lookup_insertKey {α : Type} (n m : Nat) (v : α) (l : List (Nat × α)) :
    lookup (insertKey n v l) m = if m = n then some v else lookup l m := by
  induction l with
  | nil => simp only [insertKey, lookup, eq_comm]
  | cons x xs ih =>
    obtain ⟨k, w⟩ := x
    simp only [insertKey]
    split
    · simp only [lookup, eq_comm]
    · split
      · rename_i h; subst h; simp only [lookup]; by_cases h : n = m <;> simp [h, eq_comm]
      · simp only [lookup, ih]; split <;> simp_all [eq_comm]

theorem lookup_eraseKey {α : Type} (n m : Nat) (l : List (Nat × α)) :
    lookup (eraseKey n l) m = if m = n then none else lookup l m := by
  induction l with
  | nil => simp [eraseKey, lookup]
  | cons x xs ih =>
    obtain ⟨k, w⟩ := x
    simp only [eraseKey, List.filter_cons] at ih ⊢
    by_cases h : k = n
    · subst h
      simp only [bne_self_eq_false, Bool.false_eq_true, if_false, ih, lookup]
      by_cases h2 : m = k
      · simp only [h2, if_true]
      · rw [if_neg h2, if_neg h2, if_neg (fun e => h2 e.symm)]
    · simp only [bne_iff_ne, ne_eq, h, not_false_eq_true, if_true, lookup, ih]
      by_cases h2 : k = m
      · subst h2; simp only [h, if_true, if_false]
      · simp only [h2, if_false]

@[simp] theorem vfAt_setVf (s : State) (v w : Nat) (x : VfEnt) : vfAt (setVf s v x) w = if w = v then x else vfAt s w := by
  simp only [vfAt, setVf, lookup_insertKey]; split <;> simp

theorem partAt_setPart (s : State) (p q : Nat) (x : Part) (h : p < 16) :
    partAt (setPart s p x) q = if q = p then x else partAt s q := by
  simp only [partAt, setPart, Vector.toList_setIfInBounds, List.getD_eq_getElem?_getD, List.getElem?_set]
  split
  · subst_vars; simp [h]
  · rw [if_neg (by omega)]

/-! ## Cores -/

@[simp] theorem coreAt_updCore (s : State) (n m : Nat) (f : Core → Core) :
    coreAt (updCore s n f) m = if m = n then f (coreAt s n) else coreAt s m := by
  unfold updCore coreAt
  by_cases h : n = s.coreNo <;> by_cases h2 : m = n <;> by_cases h3 : m = s.coreNo <;> simp_all [lookup_insertKey]

@[simp] theorem updCore_coreNo (s : State) (n : Nat) (f : Core → Core) : (updCore s n f).coreNo = s.coreNo := by
  unfold updCore; split <;> rfl
@[simp] theorem updCore_mem (s : State) (n : Nat) (f : Core → Core) : (updCore s n f).mem = s.mem := by
  unfold updCore; split <;> rfl
@[simp] theorem focus_mem (s : State) (n : Nat) : (focus s n).mem = s.mem := by
  unfold focus; split <;> rfl
@[simp] theorem focus_coreNo (s : State) (n : Nat) : (focus s n).coreNo = n := by
  unfold focus; split <;> simp_all

/-! ## Registers: a write is read back, and other registers read as before -/

theorem Core.rdA_wrA (c : Core) (n k : BitVec 4) (x : Addr) (l : Label) :
    (c.wrA n x l).rdA k = if k = n then ⟨x, l⟩ else c.rdA k := by
  simp only [Core.rdA, Core.wrA, Fin.getElem_fin, Vector.getElem_set]
  by_cases h : k = n
  · subst h; simp
  · rw [if_neg h, if_neg (fun e => h (BitVec.eq_of_toNat_eq (by simpa using e.symm)))]

theorem Core.rdG_wrG (c : Core) (n k : BitVec 6) (x : Word) (l : Label) :
    (c.wrG n x l).rdG k = if k = n then ⟨x, l⟩ else c.rdG k := by
  simp only [Core.rdG, Core.wrG, Fin.getElem_fin, Vector.getElem_set]
  by_cases h : k = n
  · subst h; simp
  · rw [if_neg h, if_neg (fun e => h (BitVec.eq_of_toNat_eq (by simpa using e.symm)))]

theorem Core.rdB_wrB (c : Core) (n k : BitVec 4) (x : Word) (l : Label) :
    (c.wrB n x l).rdB k = if k = n then ⟨x, l⟩ else c.rdB k := by
  simp only [Core.rdB, Core.wrB, Fin.getElem_fin, Vector.getElem_set]
  by_cases h : k = n
  · subst h; simp
  · rw [if_neg h, if_neg (fun e => h (BitVec.eq_of_toNat_eq (by simpa using e.symm)))]

theorem Core.rdS_wrS (c : Core) (n k : BitVec 5) (x : Word) (l : Label) :
    (c.wrS n x l).rdS k = if k = 0 then ⟨0, 0⟩ else if k = n then ⟨x, l⟩ else c.rdS k := by
  unfold Core.rdS Core.wrS
  by_cases h : k = 0
  · subst h; rfl
  · by_cases h2 : n = 0
    · subst h2; rw [if_neg h, if_neg h, if_pos rfl, if_neg h, if_neg h]
    · simp only [h, h2, if_false, Fin.getElem_fin, Vector.getElem_set]
      by_cases h3 : k = n
      · subst h3; simp
      · rw [if_neg h3, if_neg (fun e => h3 (BitVec.eq_of_toNat_eq (by simpa using e.symm)))]

/-- s0, p0, p1 and m0 read as constants (R88, R232). -/
@[simp] theorem Core.rdS_zero (c : Core) : c.rdS 0 = ⟨0, 0⟩ := rfl
@[simp] theorem Core.rdP_zero (c : Core) : c.rdP 0 = ⟨1, 0⟩ := rfl
@[simp] theorem Core.rdP_one (c : Core) : c.rdP 1 = ⟨0, 0⟩ := rfl
@[simp] theorem Core.rdM_zero (c : Core) : c.rdM 0 = ⟨BitVec.allOnes 1024, 0⟩ := rfl

theorem Core.wrS_frame (c : Core) (n : BitVec 5) (x : Word) (l : Label) : c.wrS n x l = { c with s := (c.wrS n x l).s } := by unfold Core.wrS; split <;> rfl
theorem Core.wrP_frame (c : Core) (n : BitVec 4) (x : Bool) (l : Label) : c.wrP n x l = { c with p := (c.wrP n x l).p } := by unfold Core.wrP; split <;> rfl
theorem Core.wrM_frame (c : Core) (n : BitVec 3) (x y : BitVec 1024) (k : Bool) (l : Label) : c.wrM n x y k l = { c with m := (c.wrM n x y k l).m } := by unfold Core.wrM; split <;> rfl
theorem Core.wrA_frame (c : Core) (n : BitVec 4) (x : Addr) (l : Label) : c.wrA n x l = { c with a := (c.wrA n x l).a } := rfl
theorem Core.wrV_frame (c : Core) (n : BitVec 5) (x y : BitVec 4096) (k : Bool) (l : Label) : c.wrV n x y k l = { c with v := (c.wrV n x y k l).v } := rfl
theorem Core.wrG_frame (c : Core) (n : BitVec 6) (x : Word) (l : Label) : c.wrG n x l = { c with g := (c.wrG n x l).g } := rfl
theorem Core.wrB_frame (c : Core) (n : BitVec 4) (x : Word) (l : Label) : c.wrB n x l = { c with b := (c.wrB n x l).b } := rfl

end Sys2Proof.Machine
end

