-- ==== Sys2Proof/Laws/Words.lean ====
section
/-! SUPPORT. What the shared operations of a tile word do: one lemma each, cited instead of unfolding them. -/
namespace Sys2Proof.Machine


theorem tileChk_ready {i : Info} {chk : Option Stop} {s : State} {act : State → Act} (h : Ready i s) (hc : chk = none) :
    tileChk i chk s act = settle s (act (joined i s)) := by
  obtain ⟨h1, h2⟩ := h
  simp only [tileChk, hc, Nat.not_lt.2 h1, h2, if_true, if_false, joined]

theorem tile_ready {i : Info} {wf : Bool} {s : State} {act : State → Act} (h : Ready i s) (hw : wf = true) :
    tile i wf s act = settle s (act (joined i s)) := by
  subst hw
  exact tileChk_ready h rfl

theorem tileAlways_ready {i : Info} {s : State} {act : Bool → State → Act} (h : i.prv ≤ s.core.cont.prv) :
    tileAlways i s act = settle s (act (predOn s.core i) (joined i s)) := by
  simp only [tileAlways, Nat.not_lt.2 h, if_false, joined]

/-- A word whose predicate is false only joins its labels (R44). -/
theorem tileChk_off {i : Info} {chk : Option Stop} {s : State} {act : State → Act} (h1 : i.prv ≤ s.core.cont.prv)
    (h2 : predOn s.core i = false) (hc : chk = none) : tileChk i chk s act = .next (joined i s) := by
  simp only [tileChk, hc, Nat.not_lt.2 h1, h2, if_false, joined, Bool.false_eq_true]

theorem tile_off {i : Info} {wf : Bool} {s : State} {act : State → Act} (h1 : i.prv ≤ s.core.cont.prv)
    (h2 : predOn s.core i = false) (hw : wf = true) : tile i wf s act = .next (joined i s) := by
  subst hw
  exact tileChk_off h1 h2 rfl

theorem settle_ok (s t : State) : settle s (.ok t) = .next t := rfl
theorem settle_trap (s : State) (c i a : Nat) : settle s (.error (.trap c i a)) = .next (takeTrap s c i a) := rfl

/-- Every end of a word is a next state. -/
theorem settle_next (s : State) (a : Act) : ∃ t, settle s a = .next t := by
  cases a with
  | ok t => exact ⟨t, rfl⟩
  | error e =>
    cases e with
    | look t w => cases w <;> exact ⟨_, rfl⟩
    | _ => exact ⟨_, rfl⟩

theorem tile_next (i : Info) (wf : Bool) (s : State) (act : State → Act) : ∃ t, tile i wf s act = .next t := by
  simp only [tile, tileChk]
  split
  · exact settle_next _ _
  · split
    · exact settle_next _ _
    · split
      · exact settle_next _ _
      · exact ⟨_, rfl⟩

/-- With no line poisoned nothing that a word follows can stop it (R503). -/
theorem hurtStop_none {t : State} (h : t.poison = []) (l : List (Nat × Nat)) : hurtStop t l = none := by
  simp [hurtStop, poisonIn, h]

theorem unhurt_none {α : Type} {t : State} (h : t.poison = []) (l : List (Nat × Nat)) (k : Except Stop α) : unhurt t l k = k := by
  simp [unhurt, hurtStop_none h]

/-! ## Of several causes the one reported (R35) -/

theorem lowerStop_cases (a b : Stop) : lowerStop a b = a ∨ lowerStop a b = b := by
  have pick (p : Prop) [Decidable p] : (if p then b else a) = a ∨ (if p then b else a) = b := by
    by_cases h : p <;> simp [h]
  exact pick _

/-- A word that weighs a cause of its own beside its source's goes on only where there is none. -/
theorem orCause_ok {α : Type} {y : Option Stop} {r : Except Stop α} {x : α} : orCause y r = .ok x ↔ y = none ∧ r = .ok x := by
  cases y <;> cases r <;> simp [orCause]

theorem orCause_error {α : Type} {y : Option Stop} {r : Except Stop α} {e : Stop} (h : orCause y r = .error e) : y = some e ∨ r = .error e := by
  cases y <;> cases r <;> simp_all [orCause]
  exact (lowerStop_cases _ _).symm.imp (fun k => k.symm.trans h) (fun k => k.symm.trans h)

/-- The failure of an update is its read's or its write's. -/
theorem firstCause_cases {α : Type} (e : AErr) (w : Except AErr α) : firstCause e w = e ∨ w = .error (firstCause e w) := by
  unfold firstCause
  split
  · split <;> simp
  · exact .inl rfl

end Sys2Proof.Machine
end

