-- ==== Sys2Proof/Tests/Slice0.lean ====
section
/-! SUPPORT. Tests: ill-formed operands are refused, words written out from their layouts decode, and for every statement
with hypotheses a state and operands that meet them. -/
namespace Sys2Proof.Tests
set_option Elab.async false
open Sys2Proof Sys2Proof.Machine

/-! ## Ill-formed operands are refused (R13, R46, R102, R105, R112, R115, R120, R123) -/

theorem test_ill_formed_scope :
    scopeOk 1 0 6 = false ∧ scopeOk 0 1 7 = false ∧ scopeOk 0 0 1 = false ∧ scopeOk 1 1 5 = true ∧ scopeOk 0 0 0 = true := by decide

theorem test_ill_formed_typed_access :
    Instr.wellFormed (.ldt 0 1 2 7 0 0) = false ∧ Instr.wellFormed (.ldt 0 1 2 0 1 0) = false
    ∧ Instr.wellFormed (.stt 0 1 2 7 0 0) = false ∧ Instr.wellFormed (.stt 0 1 2 0 1 0) = false
    ∧ Instr.wellFormed (.stt 0 1 2 5 1 5) = false ∧ Instr.wellFormed (.stt 0 1 2 5 1 7) = false
    ∧ Instr.wellFormed (.vldt 0 1 2 7 0) = false ∧ Instr.wellFormed (.vstt 0 1 2 7 0) = false
    ∧ Instr.wellFormed (.vstt 0 1 2 0 5) = false ∧ Instr.wellFormed (.vstt 0 1 2 0 7) = false := by decide

theorem test_ill_formed_scalar_word :
    Instr.wellFormed (.amoCas 0 31 1 0 0) = false ∧ Instr.wellFormed (.lbNest 0 0 0 0) = false
    ∧ Instr.wellFormed (.lbNest 0 0 7 0) = false ∧ Instr.wellFormed (.lbNest 0 0 6 34) = false
    ∧ Instr.wellFormed (.fence 0 6 0) = false ∧ Instr.wellFormed (.fence 0 0 3) = false
    ∧ Instr.wellFormed (.acq 0 6 0) = false ∧ Instr.wellFormed (.rel 0 7 0) = false
    ∧ Instr.wellFormed (.safe 0 65535) = false ∧ Instr.wellFormed (.arv 0 6 1 0 0) = false
    ∧ Instr.wellFormed (.arv 0 0 0 1 0) = false := by decide

theorem test_ill_formed_engine_word :
    Instr.wellFormed (.mxMma 0 0 1 0 0) = false ∧ Instr.wellFormed (.mxZld 0 1 6 0 0) = false
    ∧ Instr.wellFormed (.mxZst 0 0 1 0 0) = false ∧ Instr.wellFormed (.mxZcvt 0 1 7 0 0) = false
    ∧ Instr.wellFormed (.mxTask 0 0 0 1 0 0) = false ∧ Instr.wellFormed (.mxFence 0 0 1) = false
    ∧ Instr.wellFormed (.cpCopy 0 0 0 1 0 0) = false ∧ Instr.wellFormed (.cpLdt 0 1 0 6 0 0) = false
    ∧ Instr.wellFormed (.cpStt 0 0 1 7 0 0) = false ∧ Instr.wellFormed (.cpFill 0 0 2 0 0) = false
    ∧ Instr.wellFormed (.cpUnmap 0 0 1 0) = false ∧ Instr.wellFormed (.cpFlush 0 1 1 6 0 0) = false
    ∧ Instr.wellFormed (.cpInval 0 0 0 3 0 0) = false ∧ Instr.wellFormed (.cpWfill 0 0 1 0 0) = false
    ∧ Instr.wellFormed (.cpOvl 0 1 6 0 0) = false ∧ Instr.wellFormed (.cpSpill 0 0 0 1 0 0) = false
    ∧ Instr.wellFormed (.cpUnspill 0 0 0 1 0 0) = false ∧ Instr.wellFormed (.cpBcnt 0 0 1 0 0) = false := by decide

theorem test_ill_formed_tree_or_dispatcher_word :
    Instr.wellFormed (.clPost 0 0 0 1 0 0) = false ∧ Instr.wellFormed (.clTake 0 1 0 6 0 0) = false
    ∧ Instr.wellFormed (.clReshard 0 0 0 1 0 0) = false ∧ Instr.wellFormed (.clMcast 0 0 1 7 0 0) = false
    ∧ Instr.wellFormed (.clBar 0 0 0 5 0 0) = false ∧ Instr.wellFormed (.dsLaunch 0 0 1 0 0) = false
    ∧ Instr.wellFormed (.dsLaunchW 0 1 6 0 0) = false ∧ Instr.wellFormed (.dsQpush 0 0 1 0 0) = false
    ∧ Instr.wellFormed (.dsQpop 0 0 1 0 0) = false := by decide

/-! ## Words written out from the layouts of R45, R46, R49 and from the opcode table: S, major, qualifying field, then the
fields of the row -/

theorem test_decode_scalar_words :
    decode 0b0_00000_0011_0000000_00011_00100_00101 = .ok (.add 3 3 4 5)
    ∧ decode 0b1_00001_0000_000_00001_00010_111111111 = .ok (.addi 0 1 2 0x1FF)
    ∧ decode 0b0_00010_0000_00_10001_100000000000001 = .ok (.li 0 17 0x4001)
    ∧ decode 0b0_00011_0010_110_101_000000_00011_00100 = .ok (.cmpEq 2 6 5 3 4)
    ∧ decode 0b0_00100_0000_001_010_000_00111_10000001 = .ok (.cmpiEq 0 1 2 7 0x81) := by decide

theorem test_decode_address_and_memory_words :
    decode 0b0_00101_0000_0000_0011_0100_00101_00000 = .ok (.aadd 0 3 4 5)
    ∧ decode 0b0_00110_0000_000_10001_0010_00011_11111 = .ok (.ldI8 0 17 2 3 31)
    ∧ decode 0b0_00111_0000_000_00111_0010_1000000001 = .ok (.stB 0 7 2 0x201)
    ∧ decode 0b0_01000_0000_000_00001_0010_0101_1_00100 = .ok (.ldt 0 1 2 5 1 4)
    ∧ decode 0b0_01001_0000_0000_10001_0010_00011_1_000 = .ok (.amoAdd 0 17 2 3 1) := by decide

theorem test_decode_control_words :
    decode 0b0_01010_0001_0000_10_0000000000000000 = .ok (.br 1 2)
    ∧ decode 0b0_01011_0000_00000_101_10_000000000000 = .ok (.fence 0 5 2)
    ∧ decode 0b0_01100_0000_000000_1000000000000001 = .ok (.safe 0 0x8001)
    ∧ decode 0b0_01100_0000_00100_0_0000000000000101 = .ok (.svc 0 5) := by decide

theorem test_decode_vector_words :
    decode 0b0_01101_1_010_000000_00011_0100_00101_00 = .ok (.vld 1 2 3 4 5)
    ∧ decode 0b0_01110_0_010_000000_00011_0100_0000000 = .ok (.vst 2 3 4)
    ∧ decode 0b0_01111_1_001_000000_10001_00010_00011_1 = .ok (.vadd 1 1 17 2 3 1)
    ∧ decode 0b0_10000_0_001_000000_00001_00010_00011_0 = .ok (.vfadd 0 1 1 2 3 0)
    ∧ decode 0b0_10001_0_001_000000_101_00010_00011_00_1 = .ok (.vcmpEq 0 1 5 2 3 1)
    ∧ decode 0b0_10010_1_000_000000_00001_00010_000000 = .ok (.vcvt 1 0 1 2)
    ∧ decode 0b0_10011_0_000_000000_00001_00010_10011_0 = .ok (.vperm 0 0 1 2 19 0)
    ∧ decode 0b0_10100_0_011_000000_00001_00010_000000 = .ok (.vrcp 0 3 1 2)
    ∧ decode 0b0_10101_0000_0000000000000000000000 = .ok .vrot := by decide

theorem test_decode_unit_words :
    decode 0b0_10110_0000_00000_0011_101_0000000000 = .ok (.bnLd 0 3 5)
    ∧ decode 0b0_10111_0000_00000_0011_10001_00000000 = .ok (.skInit 0 3 17)
    ∧ decode 0b0_11000_0000_1_0_011_00000000_0010_10001 = .ok (.mxMma 0 1 3 2 17)
    ∧ decode 0b0_11001_0000_0_1_101_00000000_0010_10001 = .ok (.cpCopy 0 0 1 5 2 17)
    ∧ decode 0b0_11010_0000_0_0_000_00000000_0010_10001 = .ok (.clTmk 0 2 17)
    ∧ decode 0b0_11011_0000_0_0_000_00000000_0010_10001 = .ok (.evSend 0 2 17)
    ∧ decode 0b0_11100_0000_0_1_010_00000000_0010_10001 = .ok (.dsLaunch 0 1 2 2 17)
    ∧ decode 0b0_11101_0000_000_10_00000000_0010_10001 = .ok (.tlInv 0 2 2 17) := by decide

theorem test_decode_refuses_by_name :
    decode 0b0_11110_0000_0000000_00000_00000_00000 = .error .reservedMajor
    ∧ decode 0b0_11111_0000_0000000_00000_00000_00000 = .error .reservedMajor
    ∧ decode 0b0_00000_0000_1111111_00000_00000_00000 = .error .unassignedMinor
    ∧ decode 0b0_00101_0000_0000_0011_0100_00101_00001 = .error .reservedField
    ∧ decode 0b0_01100_0000_000000_1111111111111111 = .error .illegalOperand := by decide

/-- R417, and of the standard set (R393) `add x3, x4, x5`, `addi x1, x2, -1` and `c.li x8, 5`. -/
theorem test_decode_hart_words :
    decodeJx 0b0000000_00010_00011_000_00100_0001011 = some (.jxRecv 2 3 4)
    ∧ decodeJx 0b0000000_00010_00011_001_00100_0001011 = some (.jxSend 2 3 4)
    ∧ decodeJx 0b000000000000_00011_010_00100_0001011 = some (.jxWait 3 4)
    ∧ decodeJx 0b000000000000_00000_011_00000_0001011 = some .jxEnd
    ∧ decodeJx 0b000000000000_00011_001_00100_0101011 = some (.jxEload 3 4)
    ∧ decodeJx 0b000000000000_00000_010_00100_0101011 = some (.jxEpark 4)
    ∧ decodeJx 0b000000000000_00011_100_00100_0101011 = none := by decide

/-- The hart words `addi x0, x0, 0`, `add x3, x1, x2` and `c.li x8, 5`, from the encodings R393 names. -/
theorem test_decodes_hart_standard_words :
    rvDecode32 0b000000000000_00000_000_00000_0010011 = some (.opImm .add 0 0 0)
    ∧ rvDecode32 0b0000000_00010_00001_000_00011_0110011 = some (.op .add 3 1 2)
    ∧ rvDecode16 0b010_0_01000_00101_01 = some (.opImm .add 8 0 5) := by decide

/-! ## States that meet the hypotheses of the statements -/

/-- A record of privilege p of VF 0 and partition 0 runs on core 0; everything else is as at reset. -/
def at_ (p : Nat) : State :=
  { State.reset with core := { Core.reset with
      run := some ⟨0x10000, p, 0, 0, 0, 0x20000, 0, 0, 0, 0, false, 0, 0, 0, 0, 0, false, 0⟩,
      ctxs := Core.reset.ctxs.setIfInBounds 0 { TagCtx.free with owner := some 0x10000 } } }
/-- The same at privilege F, where the physical window is open (R147). -/
def st0 : State := at_ 2

def onCore (s : State) (f : Core → Core) : State := { s with core := f s.core }
def withS (r : BitVec 5) (x : Word) (s : State) : State := onCore s (fun c => c.wrS r x 0)
def withA (r : BitVec 4) (x : Addr) (s : State) : State := onCore s (fun c => c.wrA r x 0)
def withG (r : BitVec 6) (x : Word) (s : State) : State := onCore s (fun c => c.wrG r x 0)
def withMem (pa n v : Nat) (s : State) : State := writePa s pa n v
/-- A physical address as a virtual one of the window (R147). -/
def phys (pa : Nat) : Addr := BitVec.ofNat 72 (0xF * 2 ^ 68 + pa)

/-- The instruction may act in s, and p holds of what it reads and writes and the state it acts in. -/
def meets_ (x : Option Info) (s : State) (p : Info → State → Bool) : Bool :=
  match x with
  | some i => decide (i.prv ≤ s.core.cont.prv) && predOn s.core i && p i (joined i s)
  | none => false

theorem meets_ready {ins : Instr} {s : State} {p : Info → State → Bool} (h : meets_ (infoOf ins) s p = true) :
    ∃ i, infoOf ins = some i ∧ Ready i s ∧ p i (joined i s) = true := by
  cases hi : infoOf ins with
  | none => simp [meets_, hi] at h
  | some i =>
    simp only [meets_, hi, Bool.and_eq_true, decide_eq_true_eq] at h
    exact ⟨i, rfl, ⟨h.1.1, h.1.2⟩, h.2⟩

def mayAll (l : List Instr) (s : State) : Bool := l.all (fun i => meets_ (infoOf i) s (fun _ _ => true))

def okAnd {ε α : Type} (x : Except ε α) (p : α → Bool) : Bool :=
  match x with
  | .ok a => p a
  | .error _ => false

def isNext (o : Host.Outcome State Fault Refusal) (p : State → Bool) : Bool :=
  match o with
  | .next t => p t
  | _ => false

theorem witness_IntegerWordsWriteTheirResult :
    mayAll [.add 0 1 2 3, .sub 0 1 2 3, .mul 0 1 2 3, .mulh 0 1 2 3, .mulhn 0 1 2 3, .and 0 1 2 3, .or 0 1 2 3, .xor 0 1 2 3,
      .andn 0 1 2 3, .shl 0 1 2 3, .shr 0 1 2 3, .sar 0 1 2 3, .rotl 0 1 2 3, .min 0 1 2 3, .max 0 1 2 3, .minn 0 1 2 3,
      .maxn 0 0 31 31, .clz 0 1 2, .ctz 0 1 2, .popc 0 1 2, .div 0 1 2 3, .divn 0 1 2 3, .rem 0 1 2 3, .remn 0 1 2 3] st0 = true
    ∧ mayAll [.addi 0 1 2 0x1FF, .andi 0 1 2 3, .ori 0 1 2 3, .xori 0 1 2 3, .muli 0 1 2 3, .shli 0 1 2 63, .shri 0 1 2 3,
      .sari 0 1 2 3, .li 0 1 0x7FFF, .lic 0 1 2] st0 = true := by decide

/-- The corners of clz, ctz and of division. -/
theorem witness_IntegerWords_corners :
    (∀ j, 63 < j → (BitVec.intMin 64).getLsbD j = false) ∧ (BitVec.intMin 64).getLsbD 63 = true
    ∧ (∀ j < 63, (BitVec.intMin 64).getLsbD j = false) ∧ (0 : Word) ≠ 1
    ∧ ¬((1 : Word) = BitVec.intMin 64 ∧ (1 : Word) = BitVec.allOnes 64) :=
  ⟨fun j h => BitVec.getLsbD_of_ge _ _ (by omega), by decide, by decide, by decide, by decide⟩

theorem witness_ComparesWriteTheirPair :
    mayAll [.cmpEq 0 0 1 2 3, .cmpNe 0 1 1 2 3, .cmpLt 0 2 1 2 3, .cmpGe 0 3 1 2 3, .cmpLtn 0 4 1 2 3, .cmpGen 0 5 1 2 3,
      .cmpTand 0 6 1 2 3, .cmpTnand 0 7 1 2 3, .cmpiEq 0 0 1 2 0xFF, .cmpiNe 0 0 1 2 3, .cmpiLt 0 0 1 2 3, .cmpiGe 0 0 1 2 3,
      .cmpiLtn 0 0 1 2 3, .cmpiGen 0 0 1 2 3, .cmpiTbit 0 0 1 2 63, .cmpiTnbit 0 0 0 2 0] st0 = true := by decide

theorem witness_AddressWordsWriteTheirResult :
    mayAll [.aadd 0 1 2 3, .aaddi 0 1 2 0x3FF, .asub 0 1 2 3, .aset 0 1 2, .ahi 0 1 0xFF, .aalign 0 1 2 63, .aget 0 1 2 0,
      .aget 0 1 2 1] st0 = true := by decide

def memSt : State := withA 2 (phys 0x4000) (withMem 0x4000 8 0x8877665544332211 st0)

/-- The access is aligned and its bytes can be read, at the last offset an immediate reaches. -/
def loadOk (ins : Instr) (size m : Nat) : Bool :=
  meets_ (infoOf ins) memSt fun _ t =>
    let va := ((av t 2).toNat + m * size) % 2 ^ 72
    va % size == 0 && decide (landsOut t.core < 32) && okAnd (readBytes t t.core.who va size .read) (fun _ => true)

def storeOk (ins : Instr) (size m : Nat) : Bool :=
  meets_ (infoOf ins) memSt fun _ t =>
    let va := ((av t 2).toNat + m * size) % 2 ^ 72
    va % size == 0 && okAnd (writeBytes t t.core.who va size ((sv t 1).toNat % 2 ^ (8 * size)) 0) (fun _ => true)

theorem witness_LoadsLandAndStoresWrite :
    loadOk (.ldI8 0 1 2 0 31) 1 31 = true ∧ loadOk (.ldI16 0 1 2 0 31) 2 31 = true ∧ loadOk (.ldI32 0 1 2 0 31) 4 31 = true
    ∧ loadOk (.ldD 0 1 2 31 0) 8 0 = true ∧ loadOk (.ldN8 0 1 2 0 0) 1 0 = true ∧ loadOk (.ldN16 0 1 2 0 0) 2 0 = true
    ∧ loadOk (.ldN32 0 1 2 0 0) 4 0 = true
    ∧ storeOk (.stB 0 1 2 1023) 1 1023 = true ∧ storeOk (.stH 0 1 2 1023) 2 1023 = true ∧ storeOk (.stW 0 1 2 0) 4 0 = true
    ∧ storeOk (.stD 0 1 2 1023) 8 1023 = true := by decide

def oddSt : State := withA 2 (phys 0x4001) st0

theorem witness_MisalignedAccessesTrap :
    (∀ ins ∈ [Instr.ldI16 0 1 2 0 0, .ldN16 0 1 2 0 31, .stH 0 1 2 1023], meets_ (infoOf ins) oddSt (fun _ t => (av t 2).toNat % 2 != 0) = true)
    ∧ (∀ ins ∈ [Instr.ldI32 0 1 2 0 0, .ldN32 0 1 2 0 0, .stW 0 1 2 0], meets_ (infoOf ins) oddSt (fun _ t => (av t 2).toNat % 4 != 0) = true)
    ∧ (∀ ins ∈ [Instr.ldD 0 1 2 0 0, .stD 0 1 2 0], meets_ (infoOf ins) oddSt (fun _ t => (av t 2).toNat % 8 != 0) = true) := by decide

/-- The word at a2 can be read and written (R105). -/
def amoOk (w : BitVec 1) (ins : Instr) : Bool :=
  meets_ (infoOf ins) memSt fun i t =>
    let va := (av t 2).toNat
    let n := if w = 1 then 4 else 8
    va % n == 0 && decide (landsOut t.core < 32) && okAnd (readVa t t.core.who va n .rmw) (fun r =>
      okAnd (writeVa r.1 r.1.core.who va n 5 (r.2.2 ||| readLabel t.core i.rd) 0 true) (fun _ => true))

theorem witness_AtomicsReplaceAndLandTheOldValue :
    [Instr.amoAdd 0 1 2 0 1, .amoAnd 0 1 2 0 1, .amoOr 0 1 2 0 1, .amoXor 0 1 2 0 1, .amoMin 0 1 2 0 1].all (amoOk 1) = true
    ∧ [Instr.amoMax 0 1 2 0 0, .amoMinn 0 1 2 0 0, .amoMaxn 0 1 2 0 0, .amoSwap 0 31 2 31 0, .amoCas 0 30 2 0 0].all (amoOk 0) = true := by
  decide

/-- A 4-bit format with the high nibble, an 8-bit one, and blocks of 32-bit and 4-bit elements. -/
theorem witness_TypedAccessesConvert :
    (nibOk 5 1 = true ∧ meets_ (infoOf (.ldt 0 1 2 5 1 31)) memSt (fun _ t => (av t 2).toNat % elBytes 5 == 0
      && okAnd (readBytes t t.core.who (av t 2).toNat (elBytes 5) .read) (fun _ => true)) = true)
    ∧ meets_ (infoOf (.stt 0 1 2 0 0 4)) memSt (fun i t => (av t 2).toNat % elBytes 0 == 0
      && okAnd (writeVa t t.core.who (av t 2).toNat (elBytes 0) (typedOut 0 64 (sv t 1).toNat 0).1 (readLabel t.core i.rd) 0) (fun _ => true)) = true
    ∧ meets_ (infoOf (.stt 0 1 2 12 1 6)) memSt (fun i t => fmtWidth 12 == 4 && okAnd (readVa t t.core.who (av t 2).toNat 1 .write) (fun r =>
        okAnd (writeVa r.1 r.1.core.who (av t 2).toNat 1 (r.2.1 % 16) (readLabel t.core i.rd) 0) (fun _ => true))) = true
    ∧ meets_ (infoOf (.vldt 0 1 2 0 31)) memSt (fun _ t => (av t 2).toNat % 64 == 0
      && decide (landsOut t.core < 32) && okAnd (readBytes t t.core.who (av t 2).toNat 512 .read) (fun _ => true)) = true
    ∧ meets_ (infoOf (.vstt 0 1 2 5 0)) memSt (fun i t => (av t 2).toNat % 64 == 0
      && okAnd (writeBytes t t.core.who (av t 2).toNat 64 0 (readLabel t.core i.rd)) (fun _ => true)) = true := by decide +kernel

/-- A group of one word at 0x100000 in the valid active half; the words of bytes 4 to 7 and 16 to 19 end groups. -/
def codeSt : State := onCore st0 fun c => { c with
  pc := 0x100000, half0 := ⟨0x100000, 2, 0, 0, cellsOf 8 0 0x8400000084000000 ++ cellsOf 4 16 0x84000000⟩,
  grp := ⟨0x100000, 0x100000, 0x100004, 0x84000000, 1, none, [], [], [], []⟩,
  bt := c.bt.set 1 ⟨⟨0x100010, 0⟩, true, 0, some [0x84000000]⟩, m := (c.m.set 1 ⟨0, 0⟩).set 2 ⟨1, 0⟩ }

theorem witness_TransfersGoToTheirTarget :
    (codeSt.core.rdBt 1).prepared = true ∧ (codeSt.core.rdBt 1).words = some [0x84000000]
    ∧ halfOf codeSt.core (codeSt.core.rdBt 1).addr.v = some false ∧ fetching codeSt.core 1 = false
    ∧ mayAll [.br 0 1, .brl 0 1 3, .brv 0 1 0 3 0, .brv 0 1 1 3 1, .brv 0 1 2 0 0, .prep 0 2 0x8000, .prepa 0 3 2] codeSt = true
    ∧ (av codeSt 2).toNat % 4 = 0 ∧ (av oddSt 2).toNat % 4 ≠ 0 ∧ mayAll [.prepa 0 3 2] oddSt = true
    ∧ (∀ j < 1024, (codeSt.core.rdM 0).v.getLsbD j = true) ∧ (∀ j < 1024, (codeSt.core.rdM 1).v.getLsbD j = false)
    ∧ (codeSt.core.rdM 2).v.getLsbD 0 = true ∧ (codeSt.core.rdM 2).v.getLsbD 127 = false := by decide +kernel

/-- The fetch for bt1 is under way at tick 0, in a freeze of n cycles; half h loads at base b. -/
def fetchSt (n : Nat) : State := onCore codeSt fun c => { c with
  bt := c.bt.set 1 ⟨⟨0x100010, 0⟩, true, 3, none⟩, pend := [⟨3, .btFetch 1, 0, none⟩], frozen := n }
def loadingSt (b : Addr) : State := onCore codeSt fun c => { c with half1 := ⟨b, 1, 0, 0, []⟩ }

theorem witness_TransfersGoToTheirTarget_fetch :
    (mayAll [.br 0 1, .brl 0 1 3, .brv 0 1 0 3 0, .brv 0 1 1 3 1] (fetchSt 2) = true ∧ Awaited (joined ⟨.x, 0, 0, [], [], [], .result 0⟩ (fetchSt 2)) 1)
    ∧ (mayAll [.br 0 1, .brl 0 1 3, .brv 0 1 0 3 0, .brv 0 1 1 3 1] (fetchSt 3) = true ∧ Fetched (fetchSt 3) 1 false 0x84000000 [])
    ∧ (unloaded codeSt.core (codeSt.core.grp.word + ((0x8000 : BitVec 16).signExtend 72 <<< 2)) = false
      ∧ unloaded (loadingSt 0xE0000).core (codeSt.core.grp.word + ((0x8000 : BitVec 16).signExtend 72 <<< 2)) = true
      ∧ mayAll [.prep 0 2 0x8000] (loadingSt 0xE0000) = true)
    ∧ (unloaded codeSt.core (av codeSt 2) = false ∧ unloaded (loadingSt 0).core (av (loadingSt 0) 2) = true
      ∧ mayAll [.prepa 0 3 2] (loadingSt 0) = true) := by
  refine ⟨⟨by decide, by unfold Awaited; decide⟩, ⟨by decide, by unfold Fetched; decide⟩, by decide, by decide⟩

def nestSt (act : Bool) (trips : Word) : State :=
  onCore (withG 58 trips codeSt) fun c => { c with nest := ⟨act, 0, 1, 58, 0x100004, 0, [0, 0, 0, 0, 0, 0]⟩ }

theorem witness_NestsStartAndEnd :
    mayAll [.lbNest 0 0 1 58, .lbExit 0] (nestSt false 1) = true ∧ (58#6).toNat + 5 * (1#3).toNat + 1 ≤ 64
    ∧ bodyEnd (nestSt false 1).core (afterGroup (nestSt false 1).core) 1 = some 0x100008
    ∧ ((nestSt false 1).core.rdG 58).v.toNat % 2 ^ 32 ≠ 0 ∧ ((nestSt false 0).core.rdG 58).v.toNat % 2 ^ 32 = 0
    ∧ (nestSt true 1).core.nest.act = true
    ∧ bodyEnd (nestSt true 1).core (nestSt true 1).core.nest.body ((nestSt true 1).core.nest.len1.toNat + 1) = some 0x100008 := by decide

/-- A nest is active where another body lies in the half, and where none does. -/
theorem witness_NestsStartAndEnd_inner :
    mayAll [.lbNest 0 0 1 58, .lbNest 0 15 1 58] (nestSt true 1) = true
    ∧ bodyEnd (nestSt true 1).core (afterGroup (nestSt true 1).core) 1 = some 0x100008
    ∧ bodyEnd (nestSt true 1).core (afterGroup (nestSt true 1).core) 16 = none
    ∧ bodyEnd (nestSt false 1).core (afterGroup (nestSt false 1).core) 16 = none := by decide

theorem witness_FencesFindEverythingPerformed :
    mayAll [.fence 0 5 2, .acq 0 5 2, .rel 0 0 2] memSt = true ∧ (av memSt 2).toNat % 8 = 0 ∧ (av oddSt 2).toNat % 8 ≠ 0
    ∧ okAnd (translateMark memSt (av memSt 2).toNat 0 0 2 8 .read) (fun _ => true) = true ∧ mayAll [.acq 0 5 2] oddSt = true := by decide

/-- A binding table of n entries of 64 bytes; a1 names its first entry, a3 half of it, a4 none. -/
def bindSt (n : Nat) : State :=
  withA 1 0x1000 (withA 3 0x1020 (withA 4 0x9000 (withS 2 64 (onCore st0 fun c => { c with
    binds := (List.range n).map (fun j => ⟨BitVec.ofNat 72 (0x1000 + 64 * j), 64, 0⟩) }))))

theorem witness_BindingsFollowTheirTable :
    mayAll [.bind 0 1 2 5, .bind 0 3 2 5, .bind 0 4 2 5, .unbind 0 1] (bindSt 16) = true
    ∧ (∃ e ∈ (bindSt 1).core.binds, e.base = av (bindSt 1) 1 ∧ e.len = sv (bindSt 1) 2)
    ∧ (∀ e ∈ (bindSt 1).core.binds, ¬(e.base = av (bindSt 1) 3 ∧ e.len = sv (bindSt 1) 2))
    ∧ (∃ e ∈ (bindSt 1).core.binds, (av (bindSt 1) 3).toNat < e.base.toNat + e.len.toNat ∧ e.base.toNat < (av (bindSt 1) 3).toNat + 64)
    ∧ (∀ e ∈ (bindSt 16).core.binds, e.base.toNat + e.len.toNat ≤ (av (bindSt 16) 4).toNat)
    ∧ (bindSt 16).core.binds.length = 16 ∧ (bindSt 15).core.binds.length < 16 := by decide

/-- Unit 3 holds u; core 0 may be in a quad lock. -/
def unitSt (u : Word) : State := onCore codeSt fun c => c.wrB 3 u 0

theorem witness_BarrierUnitsWait :
    mayAll [.binit 0 3 1, .bwait 0 3] (unitSt 0x100000001) = true
    ∧ (((unitSt 0x100000001).core.rdB 3).v.getLsbD 34 = false
      ∧ ((unitSt 0x100000001).core.rdB 3).v.getLsbD 32 ≠ ((unitSt 0x100000001).core.rdB 3).v.getLsbD 33)
    ∧ ((unitSt 0x400000000).core.rdB 3).v.getLsbD 34 = true
    ∧ ((unitSt 1).core.rdB 3).v.getLsbD 32 = ((unitSt 1).core.rdB 3).v.getLsbD 33 := by decide

/-- Counts of 0, of 2 with the first arrival to come, and of 1. -/
theorem witness_ArrivalCountsAtItsUnit :
    (unitSt 0).core.run.isSome = true ∧ ((unitSt 0).core.rdB 3).v.toNat % 65536 = 0
    ∧ (((unitSt 2).core.rdB 3).v.toNat / 65536 % 65536 + 1) % 65536 ≠ ((unitSt 2).core.rdB 3).v.toNat % 65536
    ∧ (((unitSt 1).core.rdB 3).v.toNat / 65536 % 65536 + 1) % 65536 = ((unitSt 1).core.rdB 3).v.toNat % 65536
    ∧ (unitSt 1).core.cont.vf ≠ 383 := by decide

/-- A load and a reduction stand in the group of an arv. -/
def arvSt : State := onCore codeSt fun c => { c with grp := { c.grp with
  members := [⟨.a, 0, 0, [], [.s 1], [], .land 3⟩, ⟨.v, 0, 0, [], [.s 2], [], .result 12⟩] } }

theorem witness_TiedArrivalsFollowTheirWord :
    mayAll [.arv 0 5 1 3 2, .arv 0 0 0 0 2, .arv 0 2 1 0 2] arvSt = true
    ∧ arvSt.core.grp.members.find? (fun i => i.cls == .a) = some ⟨.a, 0, 0, [], [.s 1], [], .land 3⟩
    ∧ arvSt.core.grp.members.find? (fun i => i.cls == .v) = some ⟨.v, 0, 0, [], [.s 2], [], .result 12⟩
    ∧ predOn arvSt.core ⟨.a, 0, 0, [], [.s 1], [], .land 3⟩ = true := by decide

/-- TAGS holds bit 5, and sa what the words observe. -/
def tagSt (m : Word) : State := withS 2 m (onCore st0 fun c => c.setCtx 0 { c.ctx with tags := ⟨32, 0⟩ })

theorem witness_TagWaitsIssueOnTheirCondition :
    mayAll [.twAny 0 0 1 2, .twAll 0 0 1 2, .twFfr 0 0 1 2] (tagSt 32) = true
    ∧ (tagSt 32).core.ctx.tags.v &&& sv (tagSt 32) 2 = 32 ∧ sv (tagSt 32) 2 &&& (tagSt 32).core.ctx.terr = 0
    ∧ (32#64).getLsbD 5 = true ∧ (∀ j < 5, (32#64).getLsbD j = false)
    ∧ (tagSt 64).core.ctx.tags.v &&& sv (tagSt 64) 2 = 0 ∧ mayAll [.twAny 0 0 1 2, .twAll 0 0 1 2] (tagSt 64) = true := by decide

/-- The same waits in a group with a safe, after n cycles of their own freeze; tag 5 failed. -/
def waitSt (n : Nat) (m : Word) : State := onCore (tagSt m) fun c => { c.setCtx 0 { c.ctx with terr := 32, tags := ⟨32, 0⟩ } with
  grp := { c.grp with safe := some 3 }, spun := n }

theorem witness_TagWaitsIssueOnTheirCondition_safe :
    mayAll [.twAny 0 1 1 2, .twAll 0 1 1 2, .twFfr 0 1 1 2] (waitSt 4095 64) = true
    ∧ (waitSt 4095 64).core.ctx.tags.v &&& sv (waitSt 4095 64) 2 = 0 ∧ sv (waitSt 4095 64) 2 ≠ 0 ∧ (waitSt 4095 64).core.grp.safe = some 3
    ∧ (waitSt 4095 64).core.spun < (waitSt 4095 64).core.cpSpin.toNat
    ∧ (waitSt 4096 64).core.cpSpin.toNat ≤ (waitSt 4096 64).core.spun ∧ (waitSt 4096 64).core.locked = false
    ∧ (waitSt 0 32).core.ctx.tags.v &&& sv (waitSt 0 32) 2 = sv (waitSt 0 32) 2 ∧ sv (waitSt 0 32) 2 ≠ 0
    ∧ sv (waitSt 0 32) 2 &&& (waitSt 0 32).core.ctx.terr ≠ 0 ∧ mayAll [.twAny 0 1 1 2, .twAll 0 0 1 2, .twFfr 0 1 1 2] (waitSt 0 32) = true
    ∧ (tagSt 64).core.grp.safe = none ∧ mayAll [.twAny 0 1 1 2, .twAll 0 1 1 2, .twFfr 0 1 1 2] (tagSt 64) = true := by decide

/-- An object at a2 in phase 1, in phase 0, and in error. -/
def objSt (w : Nat) : State := withS 3 1 (withMem 0x4000 8 w (withA 2 (phys 0x4000) st0))

theorem witness_ObjectWaitsIssueOnTheirPhase :
    ∀ w ∈ [0, 1, 2], meets_ (infoOf (.mwait 0 0 2 3)) (objSt w) (fun _ t => (av t 2).toNat % 8 == 0
      && okAnd (readObj t t.core.who (av t 2).toNat) (fun r => r.2.1 == w)) = true := by decide

theorem witness_ObjectWaitsIssueOnTheirPhase_safe :
    (∀ n ∈ [4095, 4096], meets_ (infoOf (.mwait 0 1 2 3)) (onCore (objSt 0) fun c => { c with grp := { c.grp with safe := some 3 }, spun := n }) (fun _ t =>
        (av t 2).toNat % 8 == 0 && t.core.grp.safe == some 3 && !t.core.locked && okAnd (readObj t t.core.who (av t 2).toNat) (fun r => r.2.1 == 0)) = true)
    ∧ (objSt 0).core.cpSpin.toNat = 4096
    ∧ meets_ (infoOf (.mwait 0 1 2 3)) (objSt 0) (fun _ t => t.core.grp.safe.isNone) = true
    ∧ mayAll [.mwait 0 0 2 3] oddSt = true ∧ (av oddSt 2).toNat % 8 ≠ 0 := by decide

/-- A group with a safe point; the slice may have ended. -/
def safeSt (ended : Bool) : State := onCore codeSt fun c => { c with
  grp := { c.grp with safe := some 65534 }, run := c.run.map (fun r => { r with ended := ended }) }

theorem witness_LeavingWordsWriteTheRecordBack :
    mayAll [.safe 0 65534, .yield 0, .suspend 0 1, .retire 0] (safeSt true) = true ∧ (safeSt false).core.cont.ended = false
    ∧ (safeSt true).core.cont.ended = true ∧ (safeSt true).core.locked = false ∧ readyRoom (safeSt true) 0 = true
    ∧ (safeSt true).core.grp.safe = some 65534
    ∧ mayAll [.yield 0, .suspend 0 1] (onCore (safeSt true) fun c => { c with locked := true }) = true
    ∧ mayAll [.yield 0, .suspend 0 1] codeSt = true ∧ codeSt.core.grp.safe = none := by decide

/-- Core 0 beside three cores of its quad that hold a qlock, or that run another VF. -/
def quadSt (wants : Bool) (vf : Nat) : State :=
  { codeSt with others := [1, 2, 3].map (fun n => (n, { codeSt.core with
      wantsLock := wants, run := codeSt.core.run.map (fun r => { r with vf := vf }) })) }

theorem witness_QuadLockJoinsTheQuad :
    mayAll [.qlock 0 1, .qfree 0] (quadSt true 0) = true ∧ (quadSt true 0).core.locked = false
    ∧ (∀ n ∈ [1, 2, 3], (coreAt (quadSt true 0) n).wantsLock = true ∧ (coreAt (quadSt true 0) n).cont.vf = 0)
    ∧ (coreAt (quadSt false 0) 3).wantsLock = false
    ∧ ((coreAt (quadSt true 1) 1).run.isSome = true ∧ (coreAt (quadSt true 1) 1).cont.vf ≠ (quadSt true 1).core.cont.vf)
    ∧ mayAll [.qlock 0 1, .qfree 0] (onCore codeSt fun c => { c with locked := true }) = true := by decide

theorem witness_CallsTakeTheirException : mayAll [.svc 0 0xFFFF, .brk 0 0] codeSt = true ∧ mayAll [.svc 0 5, .brk 0 5] (at_ 0) = true := by decide

theorem witness_SystemRegistersAreReadAndWritten :
    mayAll [.sysrd 0 1 0x801, .syswr 0 1 0x801] (at_ 0) = true ∧ sysPriv 0x801 = some (some 0, some 0)
    ∧ sysHold (at_ 0) 0x801 (sv (at_ 0) 1) = none ∧ otherVf (at_ 0) 0x801 = false
    ∧ mayAll [.sysrd 0 1 0x703, .syswr 0 1 0x703] st0 = true ∧ sysPriv 0x703 = some (some 2, some 2)
    ∧ sysPriv 0xFFF = none ∧ (at_ 0).core.cont.prv < 2 ∧ sysPriv 0x001 = some (some 0, none) := by decide

/-- Writes of FP_MODE and FP_VCFG; an access that its line does not name, and a register above the privilege. -/
theorem witness_SystemRegistersAreReadAndWritten_traps :
    (∀ n ∈ [(0x800 : BitVec 12), 0x804], mayAll [.syswr 0 1 n] (at_ 0) = true ∧ sysPriv n.toNat = some (some 0, some 0)
      ∧ sysHold (at_ 0) n.toNat (sv (at_ 0) 1) = none ∧ otherVf (at_ 0) n = false)
    ∧ sysPriv 0x001 = some (some 0, none) ∧ sysPriv 0x50A = some (none, some 2) ∧ sysPriv 0x703 = some (some 2, some 2)
    ∧ sysPriv 0x006 = none ∧ (at_ 1).core.cont.prv < 2 := by decide

/-- Stage 0 of partition 0 has a ring of cap entries; the record at 0x4000, named by a2, has state st. -/
def ringSt (cap st : Nat) : State :=
  withA 2 (phys 0x4000) (withMem 0x4000 64 (st <<< 72) (withMem 0x8000 16 (0xA000 + (cap <<< 96))
    (setPart st0 0 { partAt st0 0 with stb := 0x8000, stn := 4 })))

theorem witness_ReturnFromExceptionAnswers :
    meets_ (infoOf (.rfe 0 2 1 0)) (ringSt 4 4) (fun _ t => (av t 2).toNat % 64 == 0
      && okAnd (translateMark t (av t 2).toNat 0 0 2 64 .rmw) (fun r => decide (landsOut r.1.core < 32) && isMem r.2.pa && !isPoisoned r.1 r.2.pa 64)) = true
    ∧ meets_ (infoOf (.rfe 0 2 1 0)) { ringSt 4 4 with poison := [key st0 0x4000] } (fun _ t =>
        okAnd (translateMark t (av t 2).toNat 0 0 2 64 .rmw) (fun r => isMem r.2.pa && isPoisoned r.1 r.2.pa 64)) = true
    ∧ recSt (readRecord (ringSt 4 3) 0x4000) ≠ 4 ∧ recSt (readRecord (ringSt 4 4) 0x4000) = 4 ∧ (ringSt 4 4).core.cont.prv = 2
    ∧ (ringAppend (ringSt 0 4) 0 0 0x4000 0 = none) ∧ (ringAppend (ringSt 4 4) 0 0 0x4000 0).isSome = true
    ∧ ((at_ 1).core.cont.prv = 1 ∧ bits (rf (readRecord (withMem 0x4000 64 (1 <<< 84) (at_ 1)) 0x4000) 0xA 1) 5 4 = 1
      ∧ bits (rf (readRecord (withMem 0x4000 64 (4 <<< 72) (at_ 1)) 0x4000) 0xA 1) 5 4 = 0
      ∧ recSt (readRecord (withMem 0x4000 64 (4 <<< 72) (at_ 1)) 0x4000) = 4
      ∧ bits (rf (readRecord (withMem 0x4000 64 (4 <<< 72) (at_ 1)) 0x4000) 0x1B 2) 12 9 = (at_ 1).core.cont.part) := by decide +kernel

/-! ### Vector words -/

/-- FP_VCFG holds x, m1 the mask 5; a2 names memory. -/
def vecSt (x : Word) : State :=
  onCore memSt fun c => { c with fpVcfg := x, m := c.m.set 1 ⟨5, 0⟩ }

/-- The active elements of a load can be read, at aligned addresses. -/
def vloadOk (x : Word) (ins : Instr) (sz : Nat) (bad : Core → VCtx → Bool) (at_ : Core → VCtx → Nat → Nat) : Bool :=
  meets_ (infoOf ins) (vecSt x) fun i t =>
    let k := vctx t.core i 0 1
    !bad t.core k && decide (landsOut t.core < 32) && okAnd (readAll sz t (vAccs k (max 1 (k.w / 8)) (at_ t.core k))) (fun _ => true)

def vstoreOk (x : Word) (ins : Instr) (sz : Nat) (bad : Core → VCtx → Bool) (at_ : Core → VCtx → Nat → Nat) : Bool :=
  meets_ (infoOf ins) (vecSt x) fun i t =>
    let k := vctx t.core i 0 1
    !bad t.core k && okAnd (writeAll sz k.w (vEl t.core k 3) k.lab t (vAccs k (max 1 (k.w / 8)) (at_ t.core k))) (fun _ => true)

theorem witness_VectorAccessesMoveActiveElements :
    etAny (vecSt 0).core = true ∧ etByte (vecSt 9).core = true
    ∧ vloadOk 0 (.vld 0 1 3 2 31) 512 (bad64 2) (fun c k j => (c.rdA 2).v.toNat + k.w * j / 8) = true
    ∧ vloadOk 9 (.vlds 0 1 3 2 0 3) 1 (badStride 2 3) (fun c _ _ => (c.rdA 2).v.toNat) = true
    ∧ vloadOk 10 (.vldx 0 1 3 2 0) 2 (badEl 2) (fun c k j => (c.rdA 2).v.toNat + vEl c k 3 j * 2) = true
    ∧ vloadOk 0 (.vldb 0 1 3 2 0) 4 (badEl 2) (fun c _ _ => (c.rdA 2).v.toNat) = true
    ∧ vstoreOk 0 (.vst 1 3 2) 512 (bad64 2) (fun c k j => (c.rdA 2).v.toNat + k.w * j / 8) = true
    ∧ vstoreOk 9 (.vsts 1 3 2 3) 1 (badStride 2 3) (fun c _ _ => (c.rdA 2).v.toNat) = true
    ∧ vstoreOk 10 (.vstx 1 3 2 4) 2 (badEl 2) (fun c k j => (c.rdA 2).v.toNat + vEl c k 4 j * 2) = true := by decide +kernel

theorem witness_VectorIntegerWordsComputeEachElement :
    etInt (vecSt 9).core = true ∧ mayAll [.vadd 0 1 1 2 3 0, .vsub 1 1 1 2 3 1, .vmul 0 0 1 2 3 0, .vmulh 0 0 1 2 3 0, .vand 0 0 1 2 3 0,
      .vor 0 0 1 2 3 0, .vxor 0 0 1 2 3 0, .vshl 0 0 1 2 3 0, .vshr 0 0 1 2 3 0, .vsar 0 0 1 2 3 0, .vmin 0 0 1 2 3 0, .vmax 0 0 1 2 3 0,
      .vadds 0 0 1 2 3 0, .vsubs 0 0 31 31 31 0, .vabs 0 0 1 2] (vecSt 9) = true := by decide

theorem witness_VectorFloatingWordsRoundOnce :
    etArith (vecSt 2).core = true ∧ etF3 (vecSt 2).core = true ∧ mayAll [.vfadd 0 1 1 2 3 0, .vfsub 1 1 1 2 3 1, .vfmul 0 0 1 2 3 0,
      .vfma 0 0 1 2 3 0, .vfms 0 0 1 2 3 0, .vfnma 0 0 1 2 3 0, .vfmin 0 0 1 2 3 0, .vfmax 0 0 1 2 3 0, .vfabs 0 0 1 2, .vfneg 0 0 1 2] (vecSt 2) = true := by
  decide

theorem witness_SpecialFunctionsComputeEachElement :
    etF32 (vecSt 0).core = true ∧ rmFixed (vecSt 0).core = true ∧ (vecSt 0).core.sfu = 0
    ∧ mayAll [.vrcp 0 1 1 2, .vrsqrt 0 0 1 2, .vsqrt 0 0 1 2, .vexp2 0 0 1 2, .vlog2 0 0 1 2, .vnormq 0 0 1 2 3, .vclipq 0 0 1 2 3] (vecSt 0) = true
    ∧ (onCore (vecSt 0) fun c => { c with sfu := 4 }).core.sfu ≠ 0 := by decide

theorem witness_ComparesAndMaskWordsWriteMasks :
    etInt (vecSt 9).core = true ∧ mayAll [.vcmpEq 0 1 7 2 3 0, .vcmpNe 0 0 1 2 3 0, .vcmpLt 0 0 1 2 3 0, .vcmpGe 0 0 0 2 3 1] (vecSt 9) = true
    ∧ etF3 (vecSt 1).core = true ∧ mayAll [.vfcmpEq 0 0 1 2 3 0, .vfcmpNe 0 0 1 2 3 0, .vfcmpLt 0 0 1 2 3 0, .vfcmpGe 0 0 1 2 3 0] (vecSt 1) = true
    ∧ etAny (vecSt 8).core = true ∧ mayAll [.vsel 1 0 1 2 3, .mand 1 2 3, .mor 1 2 3, .mxor 1 2 3, .mnot 1 2, .mcnt 1 2, .mffs 1 2] (vecSt 8) = true
    ∧ ((vecSt 0).core.rdM 1).v.getLsbD 0 = true ∧ (∀ j < 128, ((vecSt 0).core.rdM 2).v.getLsbD j = false) := by decide +kernel

theorem witness_GroupWordsInterleaveElements :
    cvtOk false false 0 (vecSt 0x21).core = true ∧ mayAll [.vcvt 0 1 1 2] (vecSt 0x21) = true
    ∧ madwOk 28 (vecSt 9).core = true ∧ mayAll [.vmadw 0 1 28 2 3 0] (vecSt 9) = true
    ∧ cvtOk true false 28 (vecSt 0x03).core = true ∧ mayAll [.vcvtw 0 1 28 2] (vecSt 0x03) = true
    ∧ cvtOk false true 28 (vecSt 0x530).core = true ∧ mayAll [.vcvtn 0 1 2 28] (vecSt 0x530) = true := by decide

theorem witness_MovesPlaceElements :
    etAny (vecSt 0).core = true
    ∧ mayAll [.vperm 0 1 1 2 3 0, .vslide 0 0 1 2 3, .vbcast 0 0 1 2, .vext 1 2 3, .vins 1 2 3] (withS 3 200 (vecSt 0)) = true
    ∧ 128 ≤ (sv (withS 3 200 (vecSt 0)) 3).toNat ∧ (sv (withS 3 127 (vecSt 0)) 3).toNat < 128 := by decide

theorem witness_ReductionsFollowTheirTree :
    etInt (vecSt 9).core = true ∧ mayAll [.vredsum 0 1 1 2, .vredmax 0 0 1 2, .vredmin 0 0 1 2] (vecSt 9) = true
    ∧ etArith (vecSt 0).core = true ∧ mayAll [.vfredsum 0 1 1 2, .vredmax 0 0 1 2, .vredmin 0 0 1 2] (vecSt 0) = true := by decide

theorem witness_RotationWordsActAtTickOne : mayAll [.vrot, .stgset 1, .stgshift 1] st0 = true := by decide

/-! ### The bit network and the Sinter unit -/

/-- Slot 3 is valid; a pattern load is under way in the second state. -/
def patSt (busy : Bool) : State := withA 2 (phys 0x4000) (onCore st0 fun c => { c with
  pats := c.pats.set 3 ⟨2, 0, 0, 0⟩, patBusy := if busy then some ⟨5, 0, true, 0, []⟩ else none })

theorem witness_BitNetworkWordsRouteAndLoad :
    mayAll [.bnRt 0 15 1 3, .bnRto 0 0 1 3, .bnRt 0 0 1 4, .bnInv 0 0xFF, .bnRd 0 1 3] (patSt false) = true ∧ (patSt false).core.patBusy = none
    ∧ (patAt (patSt false).core 3).st = 2 ∧ (patAt (patSt false).core 4).st ≠ 2 ∧ (patSt true).core.patBusy ≠ none
    ∧ mayAll [.bnRt 0 0 1 3] (patSt true) = true
    ∧ meets_ (infoOf (.bnLd 0 2 7)) (patSt false) (fun _ t => (av t 2).toNat % 8192 == 0
      && okAnd (readBytes t t.core.who (av t 2).toNat 8192 .read) (fun _ => true)) = true := by decide +kernel

/-- Objects of type typ at 0x8000 (a2) and 0x10000 (a3); s3 holds x. -/
def skSt (typ : Nat) (x : Word) : State :=
  withS 3 x (withA 2 (phys 0x8000) (withA 3 (phys 0x10000) (withMem 0x8000 1 typ (withMem 0x10000 1 typ st0))))

/-- The object at a2 opens, is good, and can be written back. -/
def skOk_ (s : State) (ins : Instr) (want : Option Nat) (upd : Bool) (f : State → SkObj → Sk) : Bool :=
  meets_ (infoOf ins) s fun _ t => t.core.skBusy == 0 && okAnd (skOpen t upd (av t 2).toNat 0) (fun r =>
    (skObjCode want [r.2]).isNone && (!upd || okAnd (skPut r.1 r.2 (f r.1 r.2) false r.2.lab r.2.prov 1) (fun _ => true)))

/-- A QSK object with two keys at level 1: one key is added, or level 1 is compacted. -/
theorem witness_SummaryUpdates_quantile :
    let s := withMem 0x8042 2 2 (skSt 1 1)
    0 < (sv s 3).toNat ∧ (sv s 3).toNat ≤ 128 ∧ (sv s 3).toNat < 29 ∧ mayAll [.skQadd 0 2 1 3, .skSeal 0 2] s = true
    ∧ meets_ (infoOf (.skCompact 0 2 3)) s (fun _ t => t.core.skBusy == 0 && okAnd (skOpen t true (av t 2).toNat 0) (fun r =>
        (skObjCode (some 1) [r.2]).isNone && decide (2 ≤ ((skDecode r.2.img r.1.fresh).lv.getD 1 []).length)
        && okAnd (skPut r.1 r.2 (skDecode r.2.img r.1.fresh) false r.2.lab r.2.prov 4) (fun _ => true))) = true := by decide +kernel

theorem witness_SummaryUpdatesWriteTheObject :
    skOk_ (skSt 2 1) (.skHadd 0 2 1 3) (some 2) true (fun t o => skDecode o.img t.fresh) = true
    ∧ skOk_ (skSt 3 1) (.skDadd 0 2 1 3) (some 3) true (fun t o => skDecode o.img t.fresh) = true
    ∧ skOk_ (skSt 2 0) (.skSeal 0 2) none true (fun t o => skDecode o.img t.fresh) = true
    ∧ (skOk_ (skSt 2 0) (.skCompact 0 2 3) none true (fun t o => skDecode o.img t.fresh) = true ∧ sv (skSt 2 0) 3 = 0) := by decide +kernel

/-- Two objects of one type to merge; sk.init of an HSK object with source 0. -/
theorem witness_SummaryUpdates_merge_init :
    meets_ (infoOf (.skMerge 0 2 3)) (skSt 3 0) (fun _ t => okAnd (skOpen t true (av t 2).toNat 0) (fun r =>
        okAnd (skOpen r.1 false (av t 3).toNat 0 true) (fun r2 => (skObjCode none [r.2, r2.2]).isNone
          && !meets r.2.va r.2.size r2.2.va r2.2.size
          && okAnd (skPut r2.1 r.2 (skMerge (skDecode r.2.img r2.1.fresh) (skDecode r2.2.img r2.1.fresh)) false 0 true 48) (fun _ => true)))) = true
    ∧ (sv (skSt 0 2) 3).toNat % 4 = 2 ∧ (sv (skSt 0 2) 3).toNat / 4 % 4 ≠ 3
    ∧ meets_ (infoOf (.skInit 0 2 3)) (skSt 0 2) (fun _ t =>
        okAnd (skOpen t true (av t 2).toNat 4096) (fun r => okAnd (skPut r.1 r.2 (skDecode 2 0) false 0 true 16) (fun _ => true))) = true := by
  decide +kernel

theorem witness_SummaryQueriesAnswer :
    (skOk_ (skSt 1 0xFFFF) (.skQuant 0 2 1 3) (some 1) false (fun t o => skDecode o.img t.fresh) = true
      ∧ mayAll [.skRank 0 2 1 3] (skSt 1 0xFFFF) = true ∧ bits (sv (skSt 1 0xFFFF) 3).toNat 31 17 = 0 ∧ bits (sv (skSt 1 0xFFFF) 3).toNat 63 62 < 2
      ∧ bits (sv (skSt 1 0xFFFF) 3).toNat 61 49 = 0 ∧ (sv (skSt 1 0xFFFF) 3).toNat < 2 ^ 32)
    ∧ (skOk_ (skSt 2 239) (.skTop 0 2 1 3) (some 2) false (fun t o => skDecode o.img t.fresh) = true ∧ (sv (skSt 2 239) 3).toNat < 2 ^ 9)
    ∧ skOk_ (skSt 3 0) (.skCard 0 2 1) (some 3) false (fun t o => skDecode o.img t.fresh) = true
    ∧ meets_ (infoOf (.skChk 0 2 1)) (skSt 3 0) (fun _ t => t.core.skBusy == 0 && okAnd (skOpen t false (av t 2).toNat 0) (fun _ => true)) = true := by
  decide +kernel

/-! ### The matrix engine -/

/-- s3 holds x and g1 a pitch; a2 names memory, and window 0 maps the 8 KiB there to the stash. -/
def mxSt (x pitch : Word) : State :=
  withS 3 x (withG 1 pitch (withA 2 (phys 0x4000) (onCore st0 fun c => { c with
    subs := Vector.replicate 4 ⟨2, 0, 0⟩, maps := c.maps.set 0 (some ⟨phys 0x4000, 8192, 0, false, true⟩) })))
/-- The same with the sub-arrays off, and without the window. -/
def mxOff (x pitch : Word) : State := onCore (mxSt x pitch) fun c => { c with subs := Vector.replicate 4 ⟨0, 0, 0⟩ }
def mxMem (x pitch : Word) : State := onCore (mxSt x pitch) fun c => { c with maps := Vector.replicate 16 none }
/-- A block of E2M1 operands at g1's pitch, with its units at the end of the weight buffer. -/
def mmaX : Nat := 0xFC0 + (5 <<< 15) + (5 <<< 19) + (1 <<< 23)

theorem witness_BlocksReachThePort :
    mmaCode mmaX = none ∧ (BitVec.ofNat 64 mmaX).toNat = mmaX
    ∧ (∀ s ∈ [mxSt (BitVec.ofNat 64 mmaX) 64, mxOff (BitVec.ofNat 64 mmaX) 64],
        meets_ (infoOf (.mxMma 0 1 5 2 3)) s (fun _ t => !t.core.mxPool.getLsbD 15 && (sv t 3).toNat == mmaX
          && okAnd (readA t (av t 2).toNat 64 64) (fun _ => true)) = true)
    ∧ (mxSt 0 64).core.subs.any (fun u => u.pw != 2) = false ∧ (mxOff 0 64).core.subs.any (fun u => u.pw != 2) = true := by decide +kernel

/-- A fifth block is refused beside four that have not passed their port tick. -/
theorem witness_BlocksReachThePort_full :
    let s := onCore (mxSt (BitVec.ofNat 64 mmaX) 64) fun c => { c with blocks := List.replicate 4 ⟨100, 0, 0, 0⟩ }
    4 ≤ (s.core.blocks.filter (fun b => decide (s.core.tick < b.due))).length ∧ mayAll [.mxMma 0 1 5 2 3] s = true := by decide

theorem witness_AccumulatorWordsActOnEachElement :
    mayAll [.mxProm 0 0 3, .mxProme 0 0 3] (mxMem (0x2800000000 : Word) 0) = true ∧ promNsa 0x2800000000 = true ∧ promZ 0x2800000000 = 8
    ∧ promKs 0x2800000000 = 0
    ∧ meets_ (infoOf (.mxProm 0 2 3)) (mxMem (0x4000000000 : Word) 0) (fun _ t => promKs (sv t 3).toNat == 1 && !promNsa (sv t 3).toNat
      && (av t 2).toNat % 4 == 0 && okAnd (readScales t 4 (decodeF fmtF32) 4 32 (av t 2).toNat) (fun _ => true)) = true
    ∧ mayAll [.mxZadd 0 3] (mxMem 0x888 0) = true ∧ bits 0x888 11 8 ≤ 8 ∧ 0x888 < 2 ^ 12
    ∧ mayAll [.mxScl 0 3] (mxMem 0x8FFFFFFFF 0) = true ∧ bits 0x8FFFFFFFF 35 32 ≤ 8
    ∧ mayAll [.mxZero 0 3] (mxMem 0x1FF 0) = true ∧ (mxMem 0 0).core.mxPool.getLsbD 15 = false := by decide +kernel

theorem witness_BlockTransfersMoveThirtyTwoRows :
    meets_ (infoOf (.mxZld 0 1 5 2 3)) (mxMem 0x18 256) (fun _ t => (ztBad t 2 0x18 10 256).isNone
      && okAnd (readRows t 8192 256 (ztPitch t.core 0x18) 32 (av t 2).toNat) (fun _ => true)) = true
    ∧ meets_ (infoOf (.mxZst 0 1 5 2 3)) (mxMem 0x18 256) (fun _ t => (ztBad t 2 0x18 10 256).isNone
      && okAnd (writeRows t 256 (ztPitch t.core 0x18) 0 (List.replicate 32 0) (av t 2).toNat) (fun _ => true)) = true
    ∧ meets_ (infoOf (.mxZcvt 0 1 5 2 3)) (mxMem 0x19018 64) (fun _ t => (ztBad t 2 0x19018 17 64).isNone
      && okAnd (writeRows t 64 (ztPitch t.core 0x19018) 0 (List.replicate 32 0) (av t 2).toNat) (fun _ => true)) = true
    ∧ bits 0x19018 13 10 ≤ 4 ∧ bits 0x19018 16 14 = 6 := by decide +kernel

/-- A block goes to memory, with a release of its dirty lines. -/
theorem witness_BlockTransfersMoveThirtyTwoRows_release :
    meets_ (infoOf (.mxZst 0 1 5 2 3)) (mxMem 0x18 256) (fun _ t => okAnd (writeRows t 256 (ztPitch t.core 0x18) 0 (List.replicate 32 0) (av t 2).toNat)
      (fun u => (releaseRows u 1 (av t 2).toNat (ztPitch t.core 0x18) 256).core.run.isSome)) = true
    ∧ mayAll [.mxFence 0 1 5, .mxFence 0 0 0] (onCore st0 fun c => { c with mxWrote := [(0x9000, 0x4000)] }) = true := by decide +kernel

/-- A quad in lock whose cores each stand at a group of `mx.qsplit s3`. -/
def splitSt : State :=
  let c := { (mxMem 0 0).core with locked := true, pc := 0x100000, half0 := ⟨0x100000, 2, 0, 0, cellsOf 4 0 0xE0001E03⟩ }
  { mxMem 0 0 with core := c, others := [(1, c), (2, c), (3, c)] }

theorem witness_EngineControlWordsAct :
    mayAll [.mxFence 0 1 5, .mxCfg 0 3 15 3] st0 = true
    ∧ mayAll [.mxWsel 0 3] (mxMem 0x1000000 0) = true ∧ bits 0x1000000 24 12 = 4096 ∧ 0x1000000 % 4096 + 4096 ≤ 4096
    ∧ mayAll [.mxWake 0 3, .mxGate 0 3] (mxMem 15 0) = true
    ∧ mayAll [.mxQsplit 0 3] (onCore splitSt fun c => { c with qsp := true }) = true
    ∧ mayAll [.mxQsplit 0 3] (mxMem 0 0) = true ∧ (mxMem 0 0).core.locked = false ∧ (mxMem 0 0).core.qsp = false
    ∧ meets_ (infoOf (.mxQsplit 0 3)) splitSt (fun _ t => t.core.locked && !t.core.qsp
      && ((quadCores t.coreNo).map (coreNow t)).all (fun c => (qsplitOf c).isSome)) = true
    ∧ meets_ (infoOf (.mxQsplit 0 3)) { splitSt with others := [] } (fun _ t => t.core.locked
      && ((quadCores t.coreNo).map (coreNow t)).any (fun c => (qsplitOf c).isNone)) = true
    ∧ (let s := onCore (mxMem 0 0) fun c => { c with mxPool := 0x8000 };
      s.core.mxPool.getLsbD 15 = true ∧ mayAll [.mxWsel 0 3, .mxWake 0 3, .mxGate 0 3, .mxQsplit 0 3, .mxZero 0 3] s = true) := by
  decide +kernel

/-- A tile-task record: E2M1 operands, 32 by 64, one slice, FP32 results. -/
def taskImg : Nat :=
  0x10000 + (0x55 <<< 72) + (32 <<< 96) + (64 <<< 112) + (0x20000 <<< 128) + (1 <<< 200) + (64 <<< 224) + (0x30000 <<< 256)
    + (64 <<< 352) + (256 <<< 480)

def taskOk (ins : Instr) (kind : Kind) : Bool :=
  meets_ (infoOf ins) (withMem 0x4000 128 taskImg memSt) (fun _ t =>
    (av t 2).toNat % 128 == 0 && okAnd (readVa t t.core.who (av t 2).toNat 128 kind) (fun _ => true))

theorem witness_TileTasksAreQueuedAndAsked :
    taskOk (.mxTask 0 1 1 5 2 3) .rmw = true ∧ taskOk (.mxTstat 0 2 3) .read = true ∧ taskOk (.mxTkill 0 2 3) .rmw = true
    ∧ tkSt taskImg ≠ 1 ∧ tkSt taskImg ≠ 2 ∧ taskErr taskImg 0x4000 = none ∧ (taskErr 0 0x4000).isSome = true ∧ tkSt 0 ≠ 1 ∧ tkSt 0 ≠ 2
    ∧ tkSt (1 <<< 592) = 1 ∧ tkSt (2 <<< 592) = 2 ∧ (taskQ st0).length < 64
    ∧ 64 ≤ (taskQ { st0 with quadQ := [(0, List.replicate 64 ⟨0, 0, 0, 0, 0, 0, 0, 0, 0, false, 0, none, 0⟩)] }).length
    ∧ okAnd (writeVa st0 st0.core.who (((phys 0x4000).toNat + 0x4A) % 2 ^ 72) 1 1 0 0) (fun _ => true) = true
    ∧ okAnd (writeVa st0 st0.core.who (((phys 0x4000).toNat + 0x4A) % 2 ^ 72) 1 6 0 0) (fun u =>
        okAnd (writeVa u st0.core.who (((phys 0x4000).toNat + 0x4B) % 2 ^ 72) 1 2 0 0) (fun _ => true)) = true := by decide +kernel

/-! ### The copy engine -/

/-- s3 holds x; a2, a3, a4, a5 name 0x10000, 0x20000, 0x30000 and 0x40000, and g1 is 4. -/
def cpSt (x : Word) : State := withS 3 x (withG 1 4 (withA 2 0x10000 (withA 3 0x20000 (withA 4 0x30000 (withA 5 0x40000 st0)))))

def tagOk (t : State) (tag : Nat) : Bool :=
  decide (t.core.cur < 4) && decide (t.core.cmds.length < 16) && t.core.ctx.busy &&& (1#64 <<< (BitVec.ofNat 6 tag).toNat) == 0

theorem tagOk_free {t : State} {tag : Nat} (h : tagOk t tag = true) : TagFree t tag := by
  simp only [tagOk, Bool.and_eq_true, decide_eq_true_eq, beq_iff_eq] at h
  exact ⟨h.1.1, h.1.2, h.2⟩

def copyOk (x : Nat) (ins : Instr) (k : CmdKind) : Bool :=
  meets_ (infoOf ins) (cpSt (BitVec.ofNat 64 x)) (fun _ t => tagOk t (x % 64) && okAnd (copyCheck t k (av t 2) x) (fun _ => true))

/-- One dimension of four elements from a2 to a3, tag 63, the scales of the scaled forms at a4. -/
def copyX (sf df : Nat) : Nat := 63 + (1 <<< 6) + (3 <<< 12) + (1 <<< 16) + (sf <<< 19) + (df <<< 23)

theorem witness_TaggedCommandsIssue_copies :
    copyOk (copyX 0 1) (.cpCopy 0 1 1 5 2 3) .copy = true ∧ copyOk (copyX 3 0 + (4 <<< 35)) (.cpLdt 0 1 0 0 2 3) .ldt = true
    ∧ copyOk (copyX 0 5 + (4 <<< 35)) (.cpStt 0 0 1 0 2 3) .stt = true := by decide +kernel

theorem witness_TaggedCommandsIssue :
    (let x : Nat := 5 + 128 * 65536;
      bits x 15 6 = 0 ∧ x / 65536 % 128 = 0 ∧ 128 ≤ x / 65536 ∧ (av (cpSt 0) 2).toNat % 128 = 0 ∧ tagOk (cpSt (BitVec.ofNat 64 x)) 5 = true
      ∧ mayAll [.cpFill 0 1 5 2 3, .cpFlush 0 1 1 5 2 3, .cpInval 0 1 1 5 2 3] (cpSt (BitVec.ofNat 64 x)) = true)
    ∧ (let x : Nat := 5 + (3 <<< 6) + (1 <<< 10) + (4 <<< 11) + 128 * 65536;
      bit x 15 = false ∧ bit x 10 = true ∧ x / 65536 % 128 = 0 ∧ (ctlA (cpSt 0).core (bits x 9 6)) = 0x20000
      ∧ (ctlA (cpSt 0).core (bits x 14 11)).toNat % 16 = 0 ∧ mayAll [.cpSpill 0 1 1 5 2 3, .cpUnspill 0 1 1 5 2 3] (cpSt (BitVec.ofNat 64 x)) = true)
    ∧ (let x : Nat := 5 + (2 <<< 6);
      meets_ (infoOf (.cpWfill 0 1 5 2 3)) (withG 2 128 (cpSt (BitVec.ofNat 64 x))) (fun _ t => (wfCheck t (av t 2) x).isNone && tagOk t 5) = true)
    ∧ (1023 < 2 ^ 10 ∧ mayAll [.cpUnmap 0 1 5 3] (cpSt 1023) = true)
    ∧ meets_ (infoOf (.cpOvl 0 1 5 2 3)) (cpSt (5 + 64 + (3 <<< 7))) (fun _ t => !t.core.cmds.any (fun c => c.kind == .ovl)
        && (ctlA t.core 3).toNat % 65536 == 0 && ctlA t.core 3 != (t.core.half t.core.active).base && tagOk t 5) = true := by decide +kernel

/-- A busy tag holds the group. -/
theorem witness_TaggedCommandsIssue_busy :
    let s := onCore (cpSt (5 + 128 * 65536)) fun c => c.setCtx 0 { c.ctx with busy := 32 }
    s.core.ctx.busy &&& (1#64 <<< 5) ≠ 0 ∧ mayAll [.cpFill 0 1 5 2 3, .cpFlush 0 1 1 5 2 3] s = true := by decide

/-- A window of 16,384 lines from line 0; a length of none. -/
theorem witness_WindowsCountersAndTags :
    (let x : Nat := 15 + (16384 <<< 18);
      meets_ (infoOf (.cpMap 0 2 3)) (cpSt (BitVec.ofNat 64 x)) (fun _ t => (mapReason t.core (av t 2).toNat x).isNone) = true)
    ∧ meets_ (infoOf (.cpMap 0 2 3)) (cpSt 0) (fun _ t => mapReason t.core (av t 2).toNat 0 == some 3) = true
    ∧ meets_ (infoOf (.cpBcnt 0 1 5 2 3)) (withS 3 0x1FFFFFFFF memSt) (fun i t => decide ((sv t 3).toNat < 2 ^ 33) && (av t 2).toNat % 16 == 0
      && okAnd (writeVa t t.core.who (av t 2).toNat 16 5 (readLabel t.core i.rd) 0) (fun _ => true)) = true
    ∧ mayAll [.cpTclr 0 3] (cpSt 0xFF) = true := by decide +kernel

/-! ### Trees -/

def partSt (f : Part → Part) (s : State) : State := setPart s 0 (f (partAt s 0))

/-- A tree of one quad node and two members, cores 0 (of the base set) and 1, its descriptor's lists at 0x50040. -/
def descImg : Nat :=
  (12 <<< 16) + (0xFFFFFFFF <<< 32) + (2 <<< 64) + (1 <<< 96) + ((0xFFFFF + (2 <<< 32)) <<< 512) + ((1 <<< 48) <<< 640)
    + ((1 + (1 <<< 40)) <<< 704)

def treeEnt (st op : Nat) : TEnt := ⟨0, 1, 7, st, op, 0, 12, 0, 2, 0xFFFFFFFF, 0x50000, 1, 0, 0x50048, 0, 0, 0, 0⟩

/-- Entry 1 of partition 0's table is such a tree, of generation 7, in state st; s3 holds x, g4 its handle. -/
def treeSt (st op : Nat) (x : Word) : State :=
  withS 3 x (withG 4 0x107 (withA 2 (phys 0x60000) (withA 3 0x70000 (withA 4 0x72000 (writeEnt (withMem 0x50000 96 descImg
    (partSt (fun p => { p with ttb := 0x40000, ttn := 2 }) { st0 with clRing := [(0, 1)] })) (treeEnt st op))))))

def treeOk (ins : Instr) (minor st : Nat) (x : Word) (lax : Bool) (p : State → TEnt → Bool) : Bool :=
  meets_ (infoOf ins) (treeSt st 0 x) (fun _ t => okAnd (handleOf t minor ((sv t 3).toNat % 2 ^ 32) lax) (fun e => e.st == st && t.poison.isEmpty && p t e))

theorem witness_TreeManagementAnswers :
    treeOk (.clTfree 0 3) 1 2 0x107 false (fun _ _ => true) = true
    ∧ (∀ st ∈ [2, 3, 4], treeOk (.clFrz 0 3) 4 st 0x107 false (fun _ _ => true) = true ∧ treeOk (.clThaw 0 3) 5 st 0x107 false (fun _ _ => true) = true
      ∧ treeOk (.clAbort 0 3) 0xD st 0x107 false (fun _ _ => true) = true)
    ∧ treeOk (.clSave 0 2 3) 6 2 0x107 false (fun t _ => (av t 2).toNat % 64 == 0) = true
    ∧ treeOk (.clRst 0 2 3) 7 2 0x107 false (fun t _ => (av t 2).toNat % 8 == 0) = true
    ∧ treeOk (.clQuery 0 3) 0xA 2 (0x107 + (4 <<< 32)) true (fun _ _ => true) = true := by decide +kernel

/-- Member 1 is added to the base set, is not in it, and a tree that is saved is not edited. -/
theorem witness_TreeManagementAnswers_edit :
    treeOk (.clEditAdd 0 3) 8 2 (0x107 + (1 <<< 32) + (1 <<< 48) : Nat) false (fun t e => !e.px && (treeAt t e).bars.isEmpty && e.mcnt == 2
      && !mbPr ((entShape t e).mems.getD 1 0)) = true
    ∧ treeOk (.clEditRemove 0 3) 8 2 (0x107 + (1 <<< 32) : Nat) false (fun t e => !mbPr ((entShape t e).mems.getD 1 0)) = true
    ∧ treeOk (.clEditRemove 0 3) 8 4 (0x107 : Nat) false (fun _ e => decide (0 < e.mcnt)) = true := by decide +kernel

theorem witness_TreeManagementAnswers_save_restore :
    treeOk (.clSave 0 2 3) 6 3 0x107 false (fun t e => okAnd (contig t (av t 2).toNat e.areaSize .write) (fun r =>
      okAnd (writeBytes r.1 r.1.core.who (av t 2).toNat e.areaSize (areaImage e (entShape r.1 e) (treeAt r.1 e)) 0) (fun _ => true))) = true
    ∧ treeOk (.clRst 0 2 3) 7 4 0x107 false (fun t e => okAnd (contig t (av t 2).toNat 8 .read) (fun r =>
      okAnd (readBytes r.1 r.1.core.who (av t 2).toNat 8 .read) (fun r2 =>
        { entShape r2.1 e with maps := [0] }.nodeOk 0 && (takeSlots (slotsIn r2.1) r2.1 [0] []).isSome))) = true := by decide +kernel

/-- A descriptor at a2 and the dead entry 0. -/
theorem witness_TreeManagementAnswers_make :
    meets_ (infoOf (.clTmk 0 2 3)) (withA 2 (phys 0x50000) (treeSt 2 0 0)) (fun _ t => !otherPart t 0 && (av t 2).toNat % 64 == 0
      && okAnd (readDesc t (av t 2).toNat) (fun r => decide (0 < (partAt r.1 0).ttn.toNat) && (hurtStop r.1 (oldParts r.1 (readEnt r.1 0 0))).isNone)) = true := by decide +kernel

/-- Window 0 maps the lines at a2 to the stash; x names tag 5, g4, a3 and a4. -/
def memberSt (op : Nat) (g5 g6 g7 : Word) (x : Nat) : State :=
  withG 5 g5 (withG 6 g6 (withG 7 g7 (onCore (treeSt 2 op (BitVec.ofNat 64 x)) fun c => { c with
    maps := c.maps.set 0 (some ⟨phys 0x60000, 8192, 0, false, true⟩) })))

/-- The member's handle is good, its tag free, its status 0. -/
def memberOk (t : State) (minor : Nat) (may already : TEnt → Nat → Bool) (p : TEnt → Bool) : Bool :=
  tagOk t 5 && !otherPart t 0x107 && (match memberHandle t minor 0x107 0 with
    | .ok e => p e && (match memberOf t (entShape t e) t.coreNo with
      | some j => segStatus (treeAt t e) e 0 (may e j) (already e j) == 0
      | none => false)
    | .error _ => false)

theorem witness_TreeMembersPost :
    let x : Nat := 5 + (4 <<< 10)
    meets_ ((infoOf (.clPost 0 1 1 5 2 3)).map (·.naming (namedG (sgG x) 1))) (memberSt 0 0 0 0 x) (fun i t =>
      memberOk t 2 (fun e j => contributes e (entShape t e) 0 j && e.op != 10) (fun e => bit ((treeAt t e).postedIn e 0)) (fun e => e.segl == 12 && e.perm == 0xFFFFFFFF)
        && (av t 2).toNat % 128 == 0 && (findWindow t.core.maps.toList (av t 2).toNat 4096 0).isSome
        && okAnd (readBytes t t.core.who (av t 2).toNat 4096 .read) (fun r => (r.2.2 ||| readLabel r.1.core i.rd) &&& ~~~(BitVec.ofNat 32 0xFFFFFFFF) == 0)) = true := by decide +kernel

theorem witness_TreeMembersTake :
    let x : Nat := 5 + (3 <<< 6) + (4 <<< 10)
    meets_ ((infoOf (.clTake 0 1 1 5 2 3)).map (·.naming (namedG (sgG x) 1 ++ [namedA (sgRa x)]))) (memberSt 0 0 0 0 x) (fun _ t =>
      memberOk t 3 (fun e => receives e (entShape t e) 0) (fun e j => (e.op != 10 && bit ((treeAt t e).delivIn e 0) j) || !(treeAt t e).takes.isEmpty) (fun e => e.skip == 0)
        && (av t 2).toNat % 128 == 0 && (ctlA t.core (sgRa x)).toNat % 16 == 0) = true := by decide +kernel

theorem witness_TreeMembersMulticast :
    let x : Nat := 5 + (4 <<< 10)
    sgCr x = false ∧ sgBa x = 0 ∧ meets_ ((infoOf (.clMcast 0 1 1 5 2 3)).map (·.naming (namedG (sgG x) 2))) (memberSt 6 128 0 0 x) (fun _ t =>
      memberOk t 0xB (fun _ _ => true) (fun _ _ => false) (fun e => e.op == 6 && endpoint t t.coreNo == e.root)
        && okAnd (readBytes t t.core.who (av t 2).toNat 128 .read) (fun _ => true)) = true
    ∧ meets_ ((infoOf (.clMcast 0 1 1 5 2 3)).map (·.naming (namedG (sgG x) 2))) (memberSt 0 128 0 0 x) (fun _ t =>
      memberOk t 0xB (fun _ _ => true) (fun _ _ => false) (fun e => e.op != 6)) = true := by decide +kernel

theorem witness_TreeMembersBarrier :
    meets_ (infoOf (.clBar 0 1 1 5 2 3)) (treeSt 2 0 0x107) (fun _ t => memberOk t 0xC (fun _ _ => true) (fun _ _ => false) (fun e =>
      (treeAt t e).bars.isEmpty && mbPr ((entShape t e).mems.getD 0 0))
      && okAnd (readVa t t.core.who (av t 2).toNat 16 .rmw) (fun r => okAnd (writeVa r.1 r.1.core.who (av t 2).toNat 16 r.2.1 0 0) (fun u =>
        okAnd (translate u (av t 2).toNat u.core.who.vf u.core.who.part u.core.who.prv 16 .rmw) (fun _ => true)))) = true := by decide +kernel

/-- A core outside the tree, a member that is not present, and a core that has arrived. -/
theorem witness_TreeMembersBarrier_refused :
    let ok (s : State) (p : State → TEnt → Bool) : Bool := meets_ (infoOf (.clBar 0 1 1 5 2 3)) s (fun _ t => !otherPart t 0x107
      && okAnd (memberHandle t 0xC 0x107 0) (fun e => okAnd (readVa t t.core.who (av t 2).toNat 16 .rmw) (fun r =>
        okAnd (writeVa r.1 r.1.core.who (av t 2).toNat 16 r.2.1 0 0) (fun u => p u e
          && okAnd (translate u (av t 2).toNat u.core.who.vf u.core.who.part u.core.who.prv 16 .rmw) (fun _ => true)))))
    ok { treeSt 2 0 0x107 with coreNo := 5 } (fun u e => (memberOf u (entShape u e) u.coreNo).isNone) = true
    ∧ ok (withMem 0x50050 8 0 (treeSt 2 0 0x107)) (fun u e => memberOf u (entShape u e) u.coreNo == some 0 && !mbPr ((entShape u e).mems.getD 0 0)) = true
    ∧ (let s := treeSt 2 0 0x107
      ok (setTree s (treeEnt 2 0) { treeAt s (treeEnt 2 0) with bars := [⟨0, 0, 0⟩] }) (fun u e =>
        memberOf u (entShape u e) u.coreNo == some 0 && mbPr ((entShape u e).mems.getD 0 0) && (treeAt u e).bars.any (fun b => b.core == u.coreNo))) = true := by
  decide +kernel

/-- One dimension of 4 elements, kept whole in both layouts, on a mesh of 2. -/
theorem witness_TreeMembersExchange :
    let x : Nat := 5 + (3 <<< 6) + (4 <<< 10) + (4 <<< 16)
    let s := memberSt 10 0x0001000100010002 1 0x7700000004 x
    let names := namedG (sgG x) 4 ++ [namedA (sgRa x), namedA (sgDa x)]
    meets_ ((infoOf (.clReshard 0 1 1 5 2 3)).map (·.naming names)) s (fun _ t =>
      let geo := [layoutWord 0 (ctlG t.core 5), layoutWord 1 (ctlG t.core 6), layoutWord 2 (ctlG t.core 7)]
      memberOk t 9 (fun e j => isMember e (entShape t e) 0 j && e.op == 10) (fun e => bit ((treeAt t e).postedIn e 0)) (fun e =>
          e.fmt == 0 && e.mcnt == 2 && !layoutBad geo (some e.mcnt))
        && (aliasStop ((av t 2).toNat, (av t 2).toNat + 16) ((ctlA t.core 4).toNat, (ctlA t.core 4).toNat + 16)).isNone
        && shardEls geo (dimSrc geo) * 4 == 16 && shardEls geo (dimDst geo) * 4 == 16
        && (ctlA t.core 3).toNat % 16 == 0 && (ctlA t.core 4).toNat % 4 == 0
        && okAnd (readBytes t t.core.who (av t 2).toNat 16 .read) (fun _ => (deviceParts t (av t 2).toNat 16).isEmpty)) = true := by decide +kernel

/-! ### Translation words -/

theorem witness_TranslationWordsAct :
    mayAll [.tlInv 0 5 2 3, .tlInva 0 5 3, .tlProbe 0 2 3, .tlRoot 0 2 3, .tlDlog 0 2 3, .tlHash 0 2 3] (withA 2 0x8000 (withS 3 383 st0)) = true
    ∧ (sv (withS 3 383 st0) 3).toNat % 512 < 384 ∧ 384 ≤ (sv (withS 3 384 st0) 3).toNat % 512
    ∧ (st0.core.cont.prv = 2 ∧ (at_ 1).core.cont.prv = 1 ∧ (vfAt (at_ 1) 0).part = some (at_ 1).core.cont.part ∧ (vfAt (at_ 1) 1).part = none)
    ∧ mayAll [.tlInv 0 5 2 3, .tlInva 0 5 3, .tlProbe 0 2 3, .tlRoot 0 2 3, .tlDlog 0 2 3, .tlHash 0 2 3] (withS 3 1 (at_ 1)) = true
    ∧ (0x8000 : Addr).toNat % 128 = 0 ∧ (0x8000 : Addr).toNat < 2 ^ 56
    ∧ (partAt (partSt (fun p => { p with st := 3 }) st0) 0).st = 3 ∧ (partAt st0 0).st ≠ 3 ∧ st0.isets.toList[0]?.isSome = true := by decide

/-! ### Partition words -/

/-- s3 holds x, a2 names 0x4000, where img lies. -/
def ptSt (x : Nat) (n img : Nat) : State := withS 3 (BitVec.ofNat 64 x) (withA 2 (phys 0x4000) (withA 3 0x30000 (withMem 0x4000 n img st0)))

theorem witness_PartitionWordsAnswer_states :
    (∀ x ∈ [0, 1, 0x10, 0x11, 0x20, 0x2F], mayAll [.ptQuiesce 0 3, .ptResume 0 3, .ptStateRead 0 3] (ptSt x 0 0) = true)
    ∧ st0.core.cont.part = 0 ∧ (partAt st0 0).st ≠ 0 ∧ (partAt st0 1).st = 0
    ∧ (partAt (setPart st0 1 { partAt st0 1 with st := 1 }) 1).st = 1
    ∧ mayAll [.ptQuiesce 0 3] (setPart (ptSt 1 0 0) 1 { partAt st0 1 with st := 1 }) = true := by decide +kernel

/-- VF 1 has no owner, VF 0 runs, and a descriptor at a2 gives VF 1 to partition 0. -/
theorem witness_PartitionWordsAnswer_assign :
    mayAll [.ptVfsetAssign 0 2 3, .ptVfsetRelease 0 2 3] (ptSt 0x2001 0 0) = true ∧ bit 0x2001 13 = true ∧ 0x2001 < 2 ^ 14
    ∧ (vfAt st0 1).part = none ∧ (vfAt st0 0).part = some 0 ∧ vfBusy st0 0 0 = true ∧ (hurtStop st0 ([2, 3, 6].flatMap (tableParts st0 0))).isNone = true
    ∧ meets_ (infoOf (.ptVfsetAssign 0 0 3)) (withA 0 0x4000 (withA 0 (phys 0x4000) (ptSt 1 32 (0x1000000000000 + (16 <<< 64))))) (fun _ t =>
        (av t 0).toNat % 32 == 0) = true
    ∧ meets_ (infoOf (.ptVfsetAssign 0 2 3)) (ptSt 1 32 (0x1000000000000 + (16 <<< 64))) (fun _ t => (av t 2).toNat % 32 == 0
      && okAnd (ptRead t (av t 2).toNat 32) (fun r => !vfDescBad r.2)) = true := by decide +kernel

/-- A set retires with two frames of which none has moved; a3 names a place in the set that serves. -/
def mvSt (x : Nat) (a : Addr) : State :=
  withA 2 a (partSt (fun p => { p with ret := some ⟨0x10000, 0x20000, 15, [0, 0, 0, 0], 0⟩, fwd := 0x40000 }) (ptSt x 0 0))

theorem witness_PartitionWordsAnswer_move :
    let x : Nat := (3 <<< 6) + (5 <<< 10)
    meets_ ((infoOf (.ptMove 0 2 3)).map (·.naming [namedA (bits x 9 6)])) (mvSt x 0x20000) (fun _ t => tagOk t 5 && (av t 2).toNat % 65536 == 0
      && (ctlA t.core 3).toNat % 65536 == 0 && framesIn (av t 2).toNat 1 0x10000 0x20000
      && framesIn (ctlA t.core 3).toNat 1 (t.isets.toList.getD 0 ⟨0, 0, 0, [], 0⟩).base (t.isets.toList.getD 0 ⟨0, 0, 0, [], 0⟩).size
      && bits (fwdAt t (partAt t 0) 1) 63 62 == 0) = true
    ∧ meets_ (infoOf (.ptRetire 0 2 3)) (mvSt 1 0) (fun _ t => av t 2 == 0 && (List.range 2).all (fun k => bits (fwdAt t (partAt t 0) k) 63 62 != 1)) = true
    ∧ meets_ (infoOf (.ptRetire 0 2 3)) (withA 2 0 (ptSt 1 0 0)) (fun _ t => av t 2 == 0 && (partAt t 0).ret.isNone) = true := by decide +kernel

/-- Partition 1 is quiescing or quiesced; partition 2 owns VF 1; a frame is being copied; an entry of the forwarding table is not resident. -/
theorem witness_PartitionWordsAnswer_busy :
    (∀ st ∈ [2, 3], (let s := setPart (ptSt 1 0 0) 1 { partAt st0 1 with st := st };
      decide (2 ≤ (partAt s 1).st.toNat) && mayAll [.ptQuiesce 0 3, .ptResume 0 3, .ptStateRead 0 3] s) = true)
    ∧ meets_ (infoOf (.ptVfsetAssign 0 2 3)) (setVf (ptSt 1 32 (0x1000000000000 + (16 <<< 64))) 1 { vfAt st0 1 with part := some 2 }) (fun _ t =>
        (av t 2).toNat % 32 == 0 && (vfAt t 1).part == some 2 && okAnd (ptRead t (av t 2).toNat 32) (fun r => !vfDescBad r.2)) = true
    ∧ meets_ (infoOf (.ptRetire 0 2 3)) (withMem 0x40000 8 (1 <<< 62) (mvSt 1 0)) (fun _ t => av t 2 == 0
        && (hurtStop t [((partAt t 0).fwd, 16)]).isNone && bits (fwdAt t (partAt t 0) 0) 63 62 == 1) = true
    ∧ meets_ ((infoOf (.ptMove 0 2 3)).map (·.naming [namedA (bits 0x14C0 9 6)])) (withMem 0x40008 8 (2 <<< 62) (mvSt 0x14C0 0x20000)) (fun _ t =>
        (av t 2).toNat % 65536 == 0 && framesIn (av t 2).toNat 1 0x10000 0x20000
        && framesIn (ctlA t.core 3).toNat 1 (t.isets.toList.getD 0 ⟨0, 0, 0, [], 0⟩).base (t.isets.toList.getD 0 ⟨0, 0, 0, [], 0⟩).size
        && (hurtStop t [((partAt t 0).fwd + 8, 8)]).isNone && bits (fwdAt t (partAt t 0) 1) 63 62 != 0) = true := by decide +kernel

theorem witness_PartitionWordsAnswer_ways_flr :
    mayAll [.ptWays 0 3] (ptSt 0xFF00000005 0 0) = true ∧ bits 0xFF00000005 31 9 = 0 ∧ 0xFF00000005 % 512 < 384
    ∧ mayAll [.ptFlr 0 3] (ptSt 1 0 0) = true ∧ (vfAt (ptSt 1 0 0) 1).part = none := by decide +kernel

/-- The reset of a VF that another core's record, or the caller itself, runs for; each partition's tables are whole. -/
def flrSt (vf : Nat) : State :=
  withS 3 5 (setVf (onCore st0 fun c => { c with run := c.run.map (fun r => { r with vf := vf }) }) 5 { vfAt st0 5 with part := some 0 })

theorem witness_PartitionWordsAnswer_flr (vf : Nat) (h : vf = 0 ∨ vf = 5) :
    (vfAt (flrSt vf) 5).part = some 0 ∧ mayAll [.ptFlr 0 3] (flrSt vf) = true
    ∧ (hurtStop (flrSt vf) ([2, 3, 6].flatMap (tableParts (flrSt vf) 0) ++ [((flrSt vf).evEpt, 128 * 4096)])).isNone = true
    ∧ ((flr 5 0 (flrSt vf)).core.run = none ↔ vf = 5) := by
  rcases h with rfl | rfl
  · refine ⟨by decide +kernel, by decide +kernel, by decide +kernel, ?_⟩
    rw [Laws.flr_run 5 0 (flrSt 0) (flrSt 0).core.run (by decide +kernel)]
    decide
  · refine ⟨by decide +kernel, by decide +kernel, by decide +kernel, ?_⟩
    rw [Laws.flr_run 5 0 (flrSt 5) none (by decide +kernel)]
    decide

/-- Partition 0 without DDR: an image that changes nothing; one that redefines partition 0, which is active; and bytes of zero. -/
def layoutCase (ins : Instr) (n img : Nat) (p : State → LImage → Bool) : Bool :=
  meets_ (infoOf ins) (partSt (fun q => { q with ddrSize := 0 }) (ptSt 0 n img)) (fun _ t => okAnd (ptRead t (av t 2).toNat 64) (fun r =>
    rf r.2 6 2 == 0 && okAnd (ptRead r.1 (av t 2).toNat n) (fun r2 => p r2.1 (limageOf r2.1 r2.2))))

theorem witness_PartitionWordsAnswer_layout :
    layoutCase (.ptLayout 0 2 3) 0x40 0x54414C50 (fun t g => layoutCode t g == none && (hurtStop t (layoutTables t g)).isNone && layoutReason t g == none) = true
    ∧ layoutCase (.ptLayout 0 2 3) 0xC0 (0x54414C50 + (1 <<< 32) + ((1 + ((2 ^ 64 - 1) <<< 64) + (0x9000000000 <<< 192) + (15 <<< 256)) <<< 512))
        (fun t g => layoutCode t g == none && (hurtStop t (layoutTables t g)).isNone && layoutReason t g == some (1, 0)) = true
    ∧ layoutCase (.ptLayout 0 2 3) 0x40 0 (fun t g => layoutCode t g == some 1) = true := by decide +kernel

/-! ### The release gate -/

/-- Slot 0 of partition 0 holds a policy in force of form 0; a2, a3 and a4 name memory. -/
def gtSt (x : Nat) (st : BitVec 2) : State :=
  withA 3 (phys 0x5000) (withA 4 (phys 0x6000) (partSt (fun p => { p with policies := [(0, { Policy.blank st with form := 2 })] }) (ptSt x 0 0)))

theorem witness_GateWordsAnswer_policies :
    meets_ (infoOf (.gtReleaseInstall 0 2 3)) (ptSt 5 0 0) (fun _ t => (policyAt t 0 0).isNone && (av t 2).toNat % 64 == 0 && tagOk t 5) = true
    ∧ meets_ (infoOf (.gtReleaseInstall 0 2 3)) (gtSt 5 2) (fun _ t => ((policyAt t 0 0).map (·.st)) == some 2) = true
    ∧ mayAll [.gtReleaseRevoke 0 0 3] (gtSt 0x1000 2) = true ∧ policyAt (gtSt 0x1000 2) 0 0 ≠ none ∧ policyAt st0 0 0 = none
    ∧ mayAll [.gtReleaseRevoke 0 0 3] (ptSt 0x1000 0 0) = true := by decide +kernel

theorem witness_GateWordsAnswer_apply :
    let x : Nat := 0x2005 + (3 <<< 14) + (4 <<< 18) + (1 <<< 24)
    meets_ ((infoOf (.gtReleaseApply 0 2 3)).map (·.naming [namedA (bits x 17 14), namedA (bits x 21 18)])) (gtSt x 2) (fun _ t =>
      (match policyAt t 0 0 with
        | some p => inForce t p && p.form == 2
        | none => false)
      && (av t 2).toNat % 128 == 0 && (ctlA t.core 3).toNat % 128 == 0 && (ctlA t.core 4).toNat % 16 == 0
      && okAnd (cmdRd t ⟨0, 0, 2, true⟩ (av t 2).toNat 128 .read) (fun r =>
          okAnd (cmdRd r.1 ⟨0, 0, 2, true⟩ (ctlA t.core 4).toNat 16 .read) (fun r2 => tagOk r2.1 5))) = true
    ∧ meets_ ((infoOf (.gtReleaseApply 0 2 3)).map (·.naming [namedA (bits x 17 14), namedA (bits x 21 18)])) (ptSt x 0 0) (fun _ t =>
      (policyAt t 0 0).isNone) = true ∧ bits x 23 22 = 0 ∧ x < 2 ^ 48 ∧ bits x 47 24 ≠ 0 ∧ bits x 47 24 ≤ 16384 := by decide +kernel

/-- An apply under a policy of form f, with n destinations listed of which none matches, and a control word labelled l. -/
def applySt (f n : Nat) (l : Label) : State :=
  partSt (fun p => { p with policies := [(0, { Policy.blank 2 with form := f, ndst := n })] })
    (onCore (gtSt (0x2005 + (3 <<< 14) + (4 <<< 18) + (1 <<< 24)) 2) fun c => c.wrS 3 (BitVec.ofNat 64 (0x2005 + (3 <<< 14) + (4 <<< 18) + (1 <<< 24))) l)

/-- A label outside PM; a source that fails its form; a destination that is not listed; one that is, its page open to the label. -/
theorem witness_GateWordsAnswer_verdicts :
    let goes (f n : Nat) (l : Label) (p : State → Info → Policy → Xlat → Bool) : Bool :=
      meets_ ((infoOf (.gtReleaseApply 0 2 3)).map (·.naming [namedA 3, namedA 4])) (applySt f n l) (fun i t => match policyAt t 0 0 with
        | some k => inForce t k && okAnd (cmdRd t ⟨0, 0, 2, true⟩ (av t 2).toNat 128 .read) (fun r => tagOk r.1 5
            && okAnd (translate r.1 (ctlA t.core 3).toNat 0 0 2 128 .write) (fun y => p r.1 i k y.1))
        | none => false)
    goes 0 0 1 (fun t i k _ => readLabel t.core i.rd &&& ~~~k.pm != 0) = true
    ∧ goes 1 0 0 (fun t i k _ => readLabel t.core i.rd &&& ~~~k.pm == 0 && skSize 0 != 128) = true
    ∧ goes 0 1 0 (fun t _ k y => k.ndst != 0 && !lineListed t k y) = true ∧ goes 0 0 0 (fun _ _ k y => k.ndst == 0 && y.phys) = true := by decide +kernel

def partyWith (l : List (Nat × Party)) (s : State) : State := partSt (fun p => { p with parties := l }) s

/-- Party 3 has a plain and party 4 a label-preserving descriptor of the host's address 0. -/
theorem witness_TheGateDecides :
    let y (lp : Bool) : Party := { partyOf 1 with dst := [⟨1, lp, 0, 1⟩] }
    let s := partyWith [(3, y false), (4, y true)] st0
    gate s 0 (1#32 <<< 4) (.host 0) = some (1#32 <<< 4) ∧ gate s 0 (1#32 <<< 3) (.host 0) = some 0 ∧ gate s 0 (1#32 <<< 3) (.host 65536) = none
    ∧ gate s 0 (1#32 <<< 3 ||| 1#32 <<< 4) (.host 0) = none := by decide +kernel

theorem witness_GateWordsAnswer_tables :
    mayAll [.gtLset 0 3] (ptSt 0x300000005 0 0) = true ∧ bits 0x300000005 31 10 = 0 ∧ 0x300000005 % 1024 ≠ 0
    ∧ mayAll [.gtLset 0 3] (ptSt 0x300000000 0 0) = true ∧ 0x300000000 % 1024 = 0 ∧ mayAll [.gtLset 0 3] (ptSt 0 0 0) = true
    ∧ meets_ (infoOf (.gtParty 0 2 3)) (ptSt 7 576 1) (fun _ t => (av t 2).toNat % 64 == 0 && (partyAt t 0 7).isNone
      && okAnd (readBytes t t.core.who (av t 2).toNat 576 .read) (fun r => r.2.1 == 1)) = true
    ∧ bit 1 0 = true ∧ (∀ j < 4, destBad (rf 1 (0x40 + 16 * j) 16) = false) := by decide +kernel

/-- A party of the same tenant and key, and one of another tenant. -/
theorem witness_GateWordsAnswer_party :
    (∃ old, partyAt (partyWith [(7, partyOf 1)] (ptSt 7 576 1)) 0 7 = some old ∧ old.tenant = (partyOf 1).tenant ∧ old.kd = (partyOf 1).kd)
    ∧ ∃ old, partyAt (partyWith [(7, { partyOf 1 with tenant := 1 })] (ptSt 7 576 1)) 0 7 = some old ∧ old.tenant ≠ (partyOf 1).tenant :=
  ⟨⟨partyOf 1, rfl, rfl, rfl⟩, { partyOf 1 with tenant := 1 }, rfl, by decide⟩

/-- A party's image with V = 0. -/
theorem witness_GateWordsAnswer_party_off :
    meets_ (infoOf (.gtParty 0 2 3)) (ptSt 7 576 0) (fun _ t => (av t 2).toNat % 64 == 0
      && okAnd (readBytes t t.core.who (av t 2).toNat 576 .read) (fun r => !bit r.2.1 0)) = true := by decide +kernel

/-! ### Mailboxes -/

/-- Mailbox 2 of the partition's range holds header m, episode 1 entry e; a2 names a window of the stash. -/
def mbSt_ (x m e : Nat) : State :=
  let s := partSt (fun p => { p with mbr := 0x20000 }) { st0 with evMbt := 0x80000, evMbb := 0x100000, evEpt := 0x90000 }
  withS 3 (BitVec.ofNat 64 x) (withG 4 2 (withA 2 (phys 0x60000) (onCore (withMem 0x80080 64 m (withMem 0x90080 128 e s)) fun c => { c with
    maps := c.maps.set 0 (some ⟨phys 0x60000, 8192, 0, false, true⟩) })))

theorem witness_MailboxWordsAnswer_open_close :
    (let x : Nat := 2 + (1 <<< 13);
      mayAll [.evOpen 0 3] (mbSt_ x 0 0x10000) = true ∧ mbInRange (mbSt_ x 0 0x10000) 2 = true ∧ mbSt (mbGet (mbSt_ x 0 0x10000) 2) = 0
      ∧ epLive (epGet (mbSt_ x 0 0x10000) 1) = true ∧ epVp (epGet (mbSt_ x 0 0x10000) 1) = callerVp (mbSt_ x 0 0x10000)
      ∧ epPort (epGet (mbSt_ x 0 0x10000) 1) 0 = none
      ∧ (epPort (epGet (mbSt_ x 0 (0x10000 + (0x8003 <<< 640))) 1) 0).isSome = true
      ∧ mbSt (mbGet (mbSt_ x 1 0) 2) ≠ 0 ∧ epLive (epGet (mbSt_ x 0 0) 1) = false)
    ∧ mayAll [.evClose 0 3] (mbSt_ 2 1 0) = true ∧ mbCheck (mbSt_ 2 1 0) 2 false = none ∧ mbWaited (mbSt_ 2 1 0) 2 = false
    ∧ mbCheck (mbSt_ 2 0 0) 2 false = none ∧ mbSt (mbGet (mbSt_ 2 0 0) 2) = 0 ∧ (mbSt_ 2 0 0).poison = [] := by decide +kernel

def sendOk (ins : Instr) (m : Nat) (p : State → Nat → Bool) : Bool :=
  meets_ (infoOf ins) (mbSt_ (2 + (16 <<< 29) + (5 <<< 45)) m 0) (fun _ t => (av t 2).toNat % 16 == 0 && mbCheck t 2 true == none
    && decide (16 ≤ mbSlot (mbGet t 2) - 16) && t.poison.isEmpty
    && okAnd (stashSrc t (av t 2).toNat 16) (fun r => tagOk r.1 5 && r.1.poison.isEmpty) && p t (mbGet t 2))

/-- A message that is taken, one to a full mailbox, to one that is draining, and to one that is aborted. -/
theorem witness_MailboxWordsAnswer_send :
    sendOk (.evSend 0 2 3) 1 (fun _ m => mbMode m == 0 && mbSt m == 1 && decide (gap (mbAseq m) (mbAcon m) < mbDepth m)) = true
    ∧ sendOk (.evSend 0 2 3) (1 + (1 <<< 128)) (fun _ m => decide (mbDepth m ≤ gap (mbAseq m) (mbAcon m))) = true
    ∧ sendOk (.evSend 0 2 3) 2 (fun _ m => mbSt m == 2) = true ∧ sendOk (.evSend 0 2 3) 4 (fun _ m => mbSt m == 4) = true := by decide +kernel

def recvOk (ins : Instr) (m : Nat) (safe : Bool) (p : State → Nat → Bool) : Bool :=
  meets_ (infoOf ins) (onCore (mbSt_ (2 + (5 <<< 13)) m 0) fun c => { c with grp := { c.grp with safe := if safe then some 3 else none } }) (fun _ t =>
    (av t 2).toNat % 16 == 0 && mbCheck t 2 true == none && t.poison.isEmpty
    && okAnd (stashDest t (av t 2).toNat (mbSlot (mbGet t 2))) (fun t0 => tagOk t0 5 && t0.poison.isEmpty) && p t (mbGet t 2))

theorem witness_MailboxWordsAnswer_recv :
    recvOk (.evRecv 0 2 3) (1 + (1 <<< 192)) false (fun _ m => mbOseq m != mbOrec m) = true
    ∧ recvOk (.evRecv 0 2 3) 1 false (fun _ m => mbOseq m == mbOrec m && mbAseq m == mbOseq m) = true
    ∧ recvOk (.evRecv 0 2 3) (1 + (1 <<< 128)) true (fun t m => mbOseq m == mbOrec m && mbAseq m != mbOseq m && !t.core.locked && t.core.grp.safe == some 3) = true
    ∧ recvOk (.evRecv 0 2 3) 3 false (fun _ m => mbSt m == 3) = true ∧ recvOk (.evRecv 0 2 3) 4 false (fun _ m => mbSt m == 4) = true := by decide +kernel

theorem witness_MailboxWordsAnswer_gather :
    let x : Nat := 5 + (4 <<< 6)
    meets_ ((infoOf (.evGather 0 2 3)).map (·.naming (namedG (bits x 11 6) (min (gatherRegs x) (64 - bits x 11 6))))) (mbSt_ x 1 0) (fun _ t =>
      gatherList t.core x == [2] && decide (mbSlot (mbGet t 2) ≤ gatherStride x) && okAnd (stashDest t (av t 2).toNat (gatherStride x)) (fun t0 =>
        (gatherBad t0 [2] []).isNone && tagOk t0 5 && t.poison.isEmpty && t0.poison.isEmpty) && bits x 11 6 + gatherRegs x == 5) = true := by decide +kernel

/-- Messages of an older generation in mode 1, and of a newer one in mode 2 with nothing unread and with something. -/
theorem witness_MailboxWordsAnswer_generations :
    sendOk (.evSend 0 2 3) (1 + (1 <<< 8) + (7 <<< 96)) (fun _ m => mbMode m == 1 && mbSt m == 1 && genOlder 0 (mbGcur m)) = true
    ∧ sendOk (.evSend 0 2 3) (1 + (2 <<< 8) + (0xFFFF <<< 96)) (fun _ m => mbMode m == 2 && !genOlder 0 (mbGcur m) && genOlder (mbGcur m) 0
      && mbAseq m == mbOseq m) = true
    ∧ sendOk (.evSend 0 2 3) (1 + (2 <<< 8) + (0xFFFF <<< 96) + (1 <<< 128)) (fun _ m => mbMode m == 2 && genOlder (mbGcur m) 0
      && mbAseq m != mbOseq m) = true
    ∧ sendOk (.evSend 0 2 3) (1 + (2 <<< 8)) (fun _ m => mbMode m == 2 && !genOlder (mbGcur m) 0 && !genOlder 0 (mbGcur m)
      && decide (gap (mbAseq m) (mbAcon m) < mbDepth m)) = true
    ∧ sendOk (.evSend 0 2 3) (1 + (2 <<< 8) + (1 <<< 128)) (fun _ m => mbMode m == 2 && !genOlder (mbGcur m) 0 && !genOlder 0 (mbGcur m)
      && decide (mbDepth m ≤ gap (mbAseq m) (mbAcon m))) = true := by decide +kernel

/-! ### The dispatcher's words -/

/-- VF 5 runs; stage 0 is its own, with a ring at 0xC0000 of cap entries of which n are in it; a2 names pa, a4 0xE0000. -/
def dsSt (x cap n pa : Nat) : State :=
  let s := partSt (fun p => { p with stb := 0xA0000, stn := 1, pool := 0xB0000 }) (onCore st0 fun c => { c with run := c.run.map (fun r => { r with vf := 5 }) })
  withS 3 (BitVec.ofNat 64 x) (withA 2 (phys pa) (withA 4 (phys 0xE0000) (withMem 0xC0000 16 (0xD0000 + (1 <<< 64)) (withMem 0xA0000 128
    (0xC0000 + (5 <<< 80) + (cap <<< 96) + (n <<< 160)) s))))

def stageOk (t : State) : Bool := stageHas t 0 0 && stageVp t 0 == callerVp t && decide (stageOprv t 0 ≤ t.core.cont.prv)
  && (hurtStop t (stageParts t 0)).isNone

theorem witness_DispatcherWordsAnswer_launch :
    meets_ (infoOf (.dsLaunch 0 1 5 2 3)) (dsSt 0 4 1 0x9000) (fun _ t => (av t 2).toNat % 64 == 0 && okAnd (readVa t t.core.who (av t 2).toNat 64 .rmw) (fun r =>
      !imageBad r.2.1 && stageOk r.1 && rf r.2.1 0x29 2 == 0 && !atLimit r.1 0 5 && (freeSlot r.1 0 1).isSome
      && (hurtStop r.1 (slotParts r.1 (lookedSlots r.1 1))).isNone)) = true
    ∧ meets_ ((infoOf (.dsLaunchW 0 1 5 2 3)).map (·.naming [namedA 4])) (partSt (fun p => { p with pql := 0 }) (dsSt (16 + 4) 4 1 0x9000)) (fun _ t =>
        okAnd (readVa t t.core.who (av t 2).toNat 64 .rmw) (fun r => !imageBad r.2.1 && stageOk r.1 && !atLimit r.1 0 5 && (freeSlot r.1 0 1).isNone
          && okAnd (dsPlace r.1 (ctlA r.1.core 4).toNat 16) (fun r => (hurtStop r.1 (slotParts r.1 (lookedSlots r.1 1))).isNone))) = true := by decide +kernel

theorem witness_DispatcherWordsAnswer_rings :
    meets_ (infoOf (.dsQpush 0 1 5 2 3)) (dsSt 0 4 1 0x9000) (fun _ t => okAnd (dsAt t (av t 2).toNat 64) (fun r => stageOk r.1 && recSt (readRecord r.1 r.2) == 0
      && (hurtStop r.1 (ringParts r.1 0 (stageRd r.1 0 0 0x14 4) 1)).isNone
      && (ringAppend (writeRecord r.1 r.2 (putRf (setSt (readRecord r.1 r.2) 1 0 0 0) 0x29 2 0)) 0 0 r.2 0).isSome)) = true
    ∧ meets_ (infoOf (.dsQpush 0 1 5 2 3)) (dsSt 0 1 1 0x9000) (fun _ t => okAnd (dsAt t (av t 2).toNat 64) (fun r => stageOk r.1 && r.1.core.grp.safe.isNone
      && (ringAppend (writeRecord r.1 r.2 (putRf (setSt (readRecord r.1 r.2) 1 0 0 0) 0x29 2 0)) 0 0 r.2 0).isNone)) = true
    ∧ meets_ (infoOf (.dsQpop 0 1 5 2 3)) (dsSt 0 4 1 0x9000) (fun i t => okAnd (dsAt t (av t 2).toNat 16) (fun r => stageOk r.1 && bit (stageRd r.1 0 0 9 1) 0 == false
      && oldestEntry r.1 0 0 == some 0 && (hurtStop r.1 (lookedRing r.1 0)).isNone
      && okAnd (writeVa r.1 r.1.core.who (av t 2).toNat 16 (readPa r.1 (ringAddr r.1 0 0 0) 16) (readLabel r.1.core i.rd) 0) (fun _ => true))) = true
    ∧ meets_ (infoOf (.dsQpop 0 1 5 2 3)) (dsSt 0 4 0 0x9000) (fun _ t => okAnd (dsAt t (av t 2).toNat 16) (fun r => stageOk r.1
      && (oldestEntry r.1 0 0).isNone && r.1.core.grp.safe.isNone)) = true := by decide +kernel

/-- A push on a full ring and a pop of an empty one, in a group with a safe. -/
theorem witness_DispatcherWordsAnswer_suspend :
    let safe (s : State) : State := onCore s fun c => { c with grp := { c.grp with safe := some 3 } }
    meets_ (infoOf (.dsQpush 0 1 5 2 3)) (safe (dsSt 0 1 1 0x9000)) (fun i t => okAnd (dsAt t (av t 2).toNat 64) (fun r => stageOk r.1
      && recSt (readRecord r.1 r.2) == 0 && r.1.core.grp.safe == some 3 && !r.1.core.locked
      && (let l := readLabel r.1.core i.rd; ringAppend (writeRecord r.1 r.2 (putRf (setSt (readRecord r.1 r.2) 1 0 0 0) 0x29 2 0) l) 0 0 r.2 0 l).isNone)) = true
    ∧ meets_ (infoOf (.dsQpop 0 1 5 2 3)) (safe (dsSt 0 4 0 0x9000)) (fun _ t => okAnd (dsAt t (av t 2).toNat 16) (fun r => stageOk r.1
      && !stageEn r.1 0 0 && (oldestEntry r.1 0 0).isNone && r.1.core.grp.safe == some 3 && !r.1.core.locked)) = true
    ∧ meets_ (infoOf (.dsQpush 0 1 5 2 3)) (dsSt 0 4 1 0x9000) (fun i t => okAnd (dsAt t (av t 2).toNat 64) (fun r =>
      (let l := readLabel r.1.core i.rd; ringAppend (writeRecord r.1 r.2 (putRf (setSt (readRecord r.1 r.2) 1 0 0 0) 0x29 2 0) l) 0 0 r.2 0 l).isSome)) = true := by
  decide +kernel

theorem witness_DispatcherWordsAnswer_conditions :
    ∀ ins ∈ [Instr.dsCondSet 0 2 3, .dsCondAdd 0 2 3, .dsCondOr 0 2 3, .dsCondAnd 0 2 3], ∀ k ∈ [2, 3],
      meets_ (infoOf ins) (withMem 0x9000 16 (k + (9 <<< 64)) (dsSt 7 4 1 0x9000)) (fun i t => (av t 2).toNat % 64 == 0
        && okAnd (readVa t t.core.who (av t 2).toNat 16 .rmw) (fun r => rf r.2.1 0 1 == k
          && okAnd (writeVa r.1 r.1.core.who ((av t 2).toNat + 8) 8 9 (readLabel r.1.core i.rd) 0) (fun _ => true))) = true := by decide +kernel

/-- A graph of one STAGE node at a2. -/
def graphImg (st : Nat) : Nat := st + (1 <<< 16) + (1 <<< 512)
def graphAt (st : Nat) : State := withMem 0x9000 128 (graphImg st) (dsSt 0 4 1 0x9000)

theorem witness_DispatcherWordsAnswer_graphs :
    (∀ st ∈ [0, 1], meets_ (infoOf (.dsGstart 0 2 3)) (graphAt st) (fun _ t => okAnd (dsAt t (av t 2).toNat 64) (fun r =>
      okAnd (translate r.1 (av t 2).toNat r.1.core.who.vf r.1.core.who.part r.1.core.who.prv 64 .rmw) (fun y =>
        let img := readPa r.1 r.2 128
        readPa r.1 (r.2 + 2) 2 == 1 && !graphBad (av t 2).toNat (if y.1.phys then 56 else if y.1.lvl = 3 then 29 else 16) img
        && graphStages img == [(0, 0)] && (hurtStop r.1 [(r.2, 128)]).isNone && stageOk r.1 && stageRd r.1 0 0 0x30 9 == 0 && rf img 0 1 == st && rf img 0x10 9 == 0))) = true)
    ∧ meets_ (infoOf (.dsGstop 0 2 3)) (graphAt 0) (fun _ t => okAnd (dsAt t (av t 2).toNat 64) (fun r => readPa r.1 r.2 1 != 1)) = true
    ∧ meets_ (infoOf (.dsGstop 0 2 3)) { graphAt 1 with graphs := [⟨0x9000, 0, 5, 0, 0, []⟩] } (fun _ t => okAnd (dsAt t (av t 2).toNat 64) (fun r =>
        readPa r.1 r.2 1 == 1 && ((engWr r.1 r.2 1 3).graphs.find? (fun y => y.pa == r.2)).isSome && (hurtStop r.1 (stopParts r.1 r.2)).isNone)) = true := by decide +kernel

/-- A stage of another virtual processor, one the dispatcher serves, and graphs that name a stage of another graph, or one stage twice. -/
theorem witness_DispatcherWordsAnswer_other :
    let foreign (s : State) : State := withMem 0xA000A 2 6 s
    let graph (s : State) (p : State → List (Nat × Nat) → Bool) : Bool := meets_ (infoOf (.dsGstart 0 2 3)) s (fun _ t => okAnd (dsAt t (av t 2).toNat 64) (fun r =>
      okAnd (translate r.1 (av t 2).toNat r.1.core.who.vf r.1.core.who.part r.1.core.who.prv 64 .rmw) (fun y =>
        let nn := readPa r.1 (r.2 + 2) 2
        let img := readPa r.1 r.2 (64 + 64 * nn)
        !graphBad (av t 2).toNat (if y.1.phys then 56 else if y.1.lvl = 3 then 29 else 16) img && stageHas r.1 0 0
        && (hurtStop r.1 [(r.2, 64 + 64 * nn)]).isNone && (hurtStop r.1 ((graphStages img).flatMap (fun b => stageParts r.1 b.1))).isNone
        && rf img 0 1 == 0 && p r.1 (graphStages img))))
    meets_ (infoOf (.dsQpush 0 1 5 2 3)) (foreign (dsSt 0 4 1 0x9000)) (fun _ t => okAnd (dsAt t (av t 2).toNat 64) (fun r => stageHas t 0 0
      && stageVp r.1 0 != callerVp r.1 && (hurtStop r.1 (stageParts r.1 0)).isNone)) = true
    ∧ (∀ s ∈ [foreign (dsSt 0 4 1 0x9000), withMem 0xA0009 1 1 (dsSt 0 4 1 0x9000)], meets_ (infoOf (.dsQpop 0 1 5 2 3)) s (fun _ t =>
        okAnd (dsAt t (av t 2).toNat 16) (fun r => stageHas t 0 0 && (hurtStop r.1 (stageParts r.1 0)).isNone
          && (stageVp r.1 0 != callerVp r.1 || stageEn r.1 0 0 && !isFaultq r.1 0 0))) = true)
    ∧ graph (foreign (graphAt 0)) (fun u l => l == [(0, 0)] && stageVp u 0 != callerVp u) = true
    ∧ graph (withMem 0xA0030 9 0x7040 (graphAt 0)) (fun u l => l == [(0, 0)] && stageVp u 0 == callerVp u && stageRd u 0 0 0x30 9 != 0) = true
    ∧ graph (withMem 0x9080 64 1 (withMem 0x9002 2 2 (graphAt 0))) (fun u l => l.map (·.1) == [0, 0] && stageVp u 0 == callerVp u && stageRd u 0 0 0x30 9 == 0) = true := by
  decide +kernel

theorem witness_DispatcherWordsAnswer_records :
    (∀ st ∈ [0, 3], meets_ (infoOf (.dsWake 0 2 3)) (withMem 0x9000 64 (st <<< 72) (dsSt 0 4 1 0x9000)) (fun _ t => okAnd (dsAt t (av t 2).toNat 64) (fun r =>
      recSt (readRecord r.1 r.2) == st && r.1.core.cont.prv == 2)) = true)
    ∧ mayAll [.dsPrio 0 0 3] (dsSt 0x105 4 1 0x9000) = true
    ∧ meets_ (infoOf (.dsPrio 0 2 3)) (withMem 0x9000 64 ((1 <<< 72) + (5 <<< 216)) (dsSt 5 4 1 0x9000)) (fun _ t => okAnd (dsAt t (av t 2).toNat 64) (fun r =>
        rf (readRecord r.1 r.2) 0x1B 2 % 512 == r.1.core.cont.vf && recSt (readRecord r.1 r.2) == 1)) = true
    ∧ (∀ r ∈ [(2 <<< 72) + (5 <<< 216), (5 <<< 72) + (5 <<< 216), 6 <<< 216], meets_ (infoOf (.dsPrio 0 2 3)) (withMem 0x9000 64 r (dsSt 5 4 1 0x9000))
        (fun _ t => okAnd (dsAt t (av t 2).toNat 64) (fun y => readRecord y.1 y.2 == r)) = true)
    ∧ (∀ j ∈ [0, 1, 2, 3], meets_ (infoOf (.dsQuery 0 3)) (dsSt (j <<< 16) 4 1 0x9000) (fun _ t => stageOk t) = true)
    ∧ (∀ j ∈ [4, 5], meets_ (infoOf (.dsQuery 0 3)) (dsSt (7 + (j <<< 16)) 4 1 0x9000) (fun _ t =>
        (hurtStop t (slotParts t (depthSlots t 0 7))).isNone) = true) := by decide +kernel

/-! ### Harts -/

/-- Hart 0, in machine or user mode, its x1 naming a; memory holds 8 bytes at 0x4000. -/
def hartSt (machine : Bool) (a : Word) (f : Hart → Hart) : State :=
  updHart (withMem 0x4000 8 0x8877665544332211 st0) (fun h => f { (h.wr 1 a) with machine := machine })

theorem witness_StandardInstructionsRetire :
    let s := hartSt true 0x4000 id
    let h := curHart s
    (∀ size ∈ [1, 2, 4, 8], okAnd (hartLoad s h (h.rd 1 + 0).toNat size .load) (fun r => (curHart r.1).machine == h.machine) = true
      ∧ okAnd (hartStore s h (h.rd 1 + 0).toNat size 1) (fun t => (curHart t).machine == h.machine) = true)
    ∧ (∀ n ∈ [4, 8], (h.rd 1).toNat % n = 0 ∧ region (h.rd 1).toNat = 0 ∧ hartCheck s h (h.rd 1).toNat n .amo = none ∧ isMem (h.rd 1).toNat = true
      ∧ hartCheckAs s h (h.rd 1).toNat n .amo .load = none
      ∧ okAnd (hartLoad s h (h.rd 1).toNat n .amo) (fun r => (curHart r.1).machine == h.machine
          && (match hartPut r.1 (h.rd 1).toNat n 1 true with
            | some u => (curHart u).machine == h.machine
            | none => false)) = true)
    ∧ h.resv ≠ some ((h.rd 1).toNat / 64 * 64) ∧ (curHart (hartSt true 0x4000 (fun h => { h with resv := some 0x4000 }))).resv = some 0x4000
    ∧ h.machine = true ∧ (csrGet s 0x300).isSome = true ∧ csrAllowed s 0x300 false = true := by decide +kernel

/-- An address in neighbour window 0 that machine mode may access: of an sc the home decides (a free value). -/
theorem witness_StandardInstructionsRetire_window :
    let s := { hartSt true 0x2000000000040 (fun h => { h with resv := some 0x2000000000040 }) with
      nwins := st0.nwins.set 0 ⟨true, 0, 0, 0, 0, 0, 0⟩ }
    let h := curHart s
    atomicAt (h.rd 1).toNat = true ∧ h.resv = some ((h.rd 1).toNat / 64 * 64) ∧ hartCheck s h (h.rd 1).toNat 8 .amo = none
    ∧ hartCheckAs s h (h.rd 1).toNat 8 .amo .load = none := by decide +kernel

/-- CSRs that a source writes, of either kind. -/
theorem witness_StandardInstructionsRetire_csr :
    let s := hartSt true 0x4000 id
    (∀ n ∈ [0x300, 0x340, 0x341, 0x342, 0x343, 0xB02], (csrGet s n).isSome = true ∧ csrAllowed s n true = true) ∧ s.hartNo < 96 ∧ (1 : BitVec 5) ≠ 0 := by
  decide +kernel

theorem witness_HartExceptionsEnterMachineMode :
    (curHart (hartSt false 0x4001 id)).machine = false ∧ (curHart (hartSt true 0x4001 id)).machine = true
    ∧ ((curHart (hartSt false 0x4001 id)).rd 1 + 0).toNat % 2 ≠ 0 := by decide +kernel

/-- Hart 0 runs episode 1, whose port 0 is mailbox 2 with header m; x1 holds a and x2 0x5000. -/
def epSt_ (machine : Bool) (a : Word) (m : Nat) (un : List (Nat × Nat)) : State :=
  updHart { mbSt_ 0 m (0x20001 + (0x8002 <<< 640)) with unans := un } (fun h => { ((h.wr 1 a).wr 2 0x5000) with machine := machine, ep := some 1 })

theorem witness_EpisodeWordsAnswer :
    let s := epSt_ true 0 1 []
    let h := curHart s
    let m := mbGet s 2
    (curHart st0).ep = none ∧ h.ep = some 1 ∧ (h.rd 1).toNat < 4 ∧ (h.rd 2).toNat % 16 = 0 ∧ epPort (epGet s 1) 0 = some 2 ∧ h.machine = true
    ∧ mbSt m = 1 ∧ mbAseq m = mbAcon m ∧ mbAseq (mbGet (epSt_ true 0 (1 + (1 <<< 128)) []) 2) ≠ mbAcon (mbGet (epSt_ true 0 (1 + (1 <<< 128)) []) 2)
    ∧ (∀ n < 2, hartCheck s h 0x5000 (16 + 16 * n) .store = none) ∧ (∀ st ∈ [0, 3, 4], mbSt (mbGet (epSt_ true 0 st []) 2) = st)
    ∧ hartCheck s h 0x5000 16 .load = none ∧ readPa s 0x5008 4 ≤ mbSlot m - 16 ∧ gap (mbOseq m) (mbOrec m) < mbDepth m
    ∧ mbSlot m - 16 < readPa (withMem 0x5008 4 0xFFF s) 0x5008 4 ∧ mbDepth (1 + (1 <<< 192)) ≤ gap (mbOseq (1 + (1 <<< 192))) (mbOrec (1 + (1 <<< 192)))
    ∧ waitMask s 1 1 = 0 ∧ waitMask (epSt_ true 1 (1 + (1 <<< 128)) []) 1 1 ≠ 0
    ∧ (curHart (epSt_ false 0 1 [(2, 1)])).machine = false ∧ (lookup (epSt_ true 0 1 [(2, 1)]).unans 2).isSome = true
    ∧ (hartCheck s h 0x5000 64 .load = none ∧ epFree (epGet s 0) = true ∧ descOk s s.hartNo 0 = true ∧ epFree (epGet s 1) = false)
    ∧ epDie 1 = hartDie s.hartNo ∧ epLive (epGet s 1) = true ∧ epLive (epGet s 0) = false := by decide +kernel

/-- The monitor sends an observation of an action taken; it creates an episode from a block it can read. -/
theorem witness_EpisodeWordsAnswer_send :
    let s := epSt_ true 0 1 [(2, 1)]
    (match hartGet s 0x5008 4 with
      | some (u, len, _) => decide (len ≤ mbSlot (mbGet u 2) - 16) && (hartCheck u (curHart u) 0x5000 (16 + len) .load).isNone
          && decide (gap (mbOseq (mbGet u 2)) (mbOrec (mbGet u 2)) < mbDepth (mbGet u 2)) && (lookup u.unans 2).isSome
          && epPort (epGet u 1) 0 == some 2
          && (match hartRead u (lineCount 0x5010 len) 0x5010 len with
            | some (w, _) => lookup w.unans 2 == some 1
            | none => false)
      | none => false) = true
    ∧ (match hartGet s 0x5000 64 with
      | some (u, y, _) => epFree (epGet u (imgF y 0 2 % 4096))
      | none => false) = true
    ∧ hartWrite s (lineCount 0x5000 16) 0x5000 16 0 ≠ none := by decide +kernel

/-! ### Events of a core and of its engines -/

/-- A record at a place with `safe 3` whose slice, distance and freeze are past their ends, with a landing in flight. -/
def evSt : State := onCore st0 fun c => { c with
  frozen := 70000, spun := 5000, cpSpin := 4096, spinW := some (3, 0, 0x4000), grp := { c.grp with safe := some 3 }, abort := true, mark := .held,
  pend := [⟨9, .s 1 7, 0, some ⟨0, false, 0, 1, 0, []⟩⟩], run := c.run.map (fun r => { r with dist := 4097, slice := 70000 }) }

theorem witness_CoreEventsAct :
    State.reset.core.run = none ∧ evSt.core.run.isSome = true ∧ 65536 < evSt.core.frozen ∧ 4097 ≤ evSt.core.cont.dist ∧ evSt.core.mark = .held
    ∧ evSt.core.pend[0]? = some ⟨9, .s 1 7, 0, some ⟨0, false, 0, 1, 0, []⟩⟩ ∧ (spinSuspend evSt).isSome = true
    ∧ (∃ r, evSt.core.run = some r ∧ r.ended = false ∧ (partAt evSt r.part).slice.toNat % 2 ^ 32 = 65536 ∧ 65536 ≤ r.slice)
    ∧ (focus evSt 0).core.run.isSome = true ∧ (focus evSt 0).core.abort = true := by
  refine ⟨by decide, by decide, by decide, by decide, by decide, by decide, by decide, ⟨_, rfl, by decide, by decide, by decide⟩, by decide, by decide⟩

/-- A ready record of priority 3 in the ring of stage 0, pinned to core 0, where one of priority 0 runs. -/
theorem witness_CoreEventsAct_preemption :
    (preempt (withMem 0xA0009 1 1 (withMem 0xD0000 64 ((1 <<< 72) + (0x23 <<< 80) + (0x200 <<< 352)) (dsSt 0 4 1 0x9000)))).isSome = true := by
  decide +kernel

theorem witness_RegisterWriteEventsAct :
    sysHold st0 0x101 8 = none ∧ sysHold st0 0x802 1 = none ∧ sysHold st0 0x804 1 = none ∧ sysHold st0 0x800 1 = none
    ∧ sysHold st0 0x003 0x8000 = none ∧ sysHold st0 0x202 0 = none := by decide

/-- A fill of no bytes past its tick 2 and a move of one frame. -/
def doneCmd (k : CmdKind) : Cmd := ⟨k, 0, 5, 0, 0, 0, 0, 0, [1, 0], 0, false, 0, 2, 0, 0, 0, 0, []⟩

theorem witness_EngineEventsAct :
    let s := onCore st0 fun c => { c with
      tick := 2, cmds := [doneCmd .send, { doneCmd .move with tag := 6 }], patBusy := some ⟨0, 3, true, 0, []⟩, subs := (Vector.replicate 4 ⟨0, 0, 0⟩).set 1 ⟨1, 0, 0⟩ |>.set 2 ⟨2, 0, 1024⟩ }
    s.core.cmds[0]? = some (doneCmd .send) ∧ cmdMayEnd s.core (doneCmd .send) = true
    ∧ (match runRel { s with core := { s.core with cmds := [{ doneCmd .move with tag := 6 }] } } (doneCmd .send) with
      | some t => !inFlightTag t.core (doneCmd .send)
      | none => false) = true
    ∧ s.core.cmds.findIdx? (fun d => d.kind == .move) = some 1 ∧ (((doneCmd .move).geo.getD 0 0).toNat = 1)
    ∧ s.core.patBusy = some ⟨0, 3, true, 0, []⟩ ∧ s.core.pats.toList[3]?.isSome = true
    ∧ s.core.subs[1].pw = 1 ∧ s.core.subs[1].cnt = 0 ∧ s.core.subs[2].pw = 2 ∧ s.core.mxIdle ≠ 0 ∧ s.core.mxIdle.toNat ≤ s.core.subs[2].idle
    ∧ (∀ e ∈ s.core.pend, e.due ≤ s.core.tick → ∀ x m, e.eff ≠ .z 9 x m) := by
  refine ⟨by decide, by decide, by decide, by decide, by decide, by decide, by decide, by decide, by decide, by decide, by decide, by decide, ?_⟩
  intro e he
  cases he

/-- Sixteen commands in flight, or a busy tag, hold any tagged word; an overlay load holds another. -/
theorem witness_TaggedCommandsIssue_holds :
    let s := onCore (cpSt (5 + 128 * 65536)) fun c => c.setCtx 0 { c.ctx with busy := 32 }
    let f := onCore (cpSt (5 + 128 * 65536)) fun c => { c with cmds := List.replicate 16 (doneCmd .fill) }
    s.core.ctx.busy &&& (1#64 <<< 5) ≠ 0 ∧ f.core.cmds.length = 16
    ∧ mayAll [.cpFlush 0 1 1 5 2 3, .cpInval 0 1 1 5 2 3] s = true ∧ mayAll [.cpFill 0 1 5 2 3, .cpFlush 0 1 1 5 2 3] f = true
    ∧ okAnd (copyCheck (onCore (cpSt (BitVec.ofNat 64 (copyX 0 1))) fun c => { c with cmds := List.replicate 16 (doneCmd .fill) }) .copy 0x10000 (copyX 0 1))
        (fun _ => true) = true
    ∧ (let o := onCore (cpSt 5) fun c => { c with cmds := [doneCmd .ovl] };
      o.core.cmds.any (fun c => c.kind == .ovl) = true ∧ mayAll [.cpOvl 0 1 5 2 3] o = true) := by decide +kernel

/-- A task of the quad whose conditions have held, with an engine pooled for its VF. -/
def taskSt : State := onCore (setQ st0 [⟨BitVec.ofNat 1024 taskImg, 0x4000, 0x4000, 0, 0, 0, 0, 2, 0, false, 7, none, 0⟩]) fun c => { c with mxPool := 0x8000 }

theorem witness_EngineEventsAct_tasks :
    (nextTask (latchTasks taskSt)).isSome = true ∧ (taskQ taskSt).length = 1
    ∧ (taskQ (latchTasks taskSt)).map (·.bad) = [none] := by decide +kernel

/-- A post with a fault queue that has room; a waiting record whose deadline has passed; an activation of a graph's node. -/
theorem witness_DispatcherEventsAct :
    let s := partSt (fun p => { p with faultq := 0x10000 }) { dsSt 0 4 1 0x9000 with posts := [⟨0, 0xD0000, 9, 0⟩], admits := [0xD0000] }
    (faultPost s).isSome = true ∧ (0xD0000 : BitVec 56).toNat ∈ s.admits
    ∧ (let r := readRecord (withMem 0xD0000 64 ((3 <<< 72) + (7 <<< 232)) s) 0xD0000
      recSt r = 3 ∧ rf r 0x1D 1 = 7 ∧ rf r 0x20 9 % 2 ^ 64 ≤ nowNs s) ∧ waitHolds (withMem 0xD0000 64 ((3 <<< 72) + (7 <<< 232)) s) 0xD0000 = true := by
  decide +kernel

theorem witness_DispatcherEventsAct_graph :
    let g : GraphRun := ⟨0x9000, 0, 5, 0, 0, []⟩
    ({ graphAt 1 with graphs := [g] }.graphs.find? (fun y => y.pa == 0x9000)) = some g ∧ readPa (graphAt 1) 0x9002 2 = 1 := by decide +kernel

/-! ### Coherence, walks, errors and links -/

/-- Die 0 asks, die 1 owns line 0x4000; an open request of die 2 stands at the home. -/
def cohSt (k : MsgKind) (grant : Nat) : State := { st0 with
  dir := [(0x4000, ⟨some 1, [], [(1, 1)], some (0, 2), []⟩)], msgs := [⟨k, 0x4000, 0, 0, 0, 1, grant⟩],
  waits := [⟨0x4000, 0, true, 3, some 1, 0, false⟩] }

theorem witness_CoherenceMessagesAct :
    (∀ k ∈ [0, 1], canAsk (dirAt (cohSt .dat 0) 0x4000) k 0 = true) ∧ canAsk (dirAt (cohSt .dat 0) 0x4000) 3 1 = true
    ∧ (dirAt (cohSt .dat 0) 0x4000).opn = some (0, 2) ∧ (2 : Nat) ≠ 0 ∧ (dirAt (cohSt .dat 0) 0x4000).queue = []
    ∧ (∀ k ∈ [MsgKind.fwds, .fwdx, .inv, .dat, .cmp, .ack], (msgTo (cohSt k 1) k 0x4000 0).isSome = true)
    ∧ (waitOf (cohSt .dat 0) 0x4000 0).isSome = true ∧ holds (dirAt (cohSt .dat 0) 0x4000) 1 = 1
    ∧ (cohSt .don 0).msgs.findSome? (fun m => if m.kind == .don && m.line == 0x4000 && m.src == 0 then inOrder (cohSt .don 0) m else none)
      = some ⟨.don, 0x4000, 0, 0, 0, 1, 0⟩ ∧ (0 : Nat) ≠ homeAgent := by decide

/-- A line with this entry, and no transaction. -/
def rowSt (own : Option Nat) (sh : List Nat) (st : List (Nat × Nat)) : State := { st0 with dir := [(0x4000, ⟨own, sh, st, none, []⟩)] }

theorem witness_CoherenceMessagesAct_table :
    (∀ k ∈ [0, 1], canAsk (dirAt st0 0x4000) k 3 = true ∧ canAsk (dirAt (rowSt none [1] [(1, 4)]) 0x4000) k 3 = true
      ∧ canAsk (dirAt (rowSt (some 1) [2] [(1, 2), (2, 4)]) 0x4000) k 3 = true)
    ∧ (dirPeers st0 0x4000).length < 16 ∧ (dirAt st0 0x4000).own = none ∧ (dirAt st0 0x4000).queue = []
    ∧ canAsk (dirAt (rowSt none [] [(3, 4)]) 0x4000) 2 3 = true ∧ canAsk (dirAt (rowSt none [1, 3] [(1, 4), (3, 4)]) 0x4000) 2 3 = true
    ∧ canAsk (dirAt (rowSt none [1] [(1, 4), (3, 4)]) 0x4000) 2 3 = true
    ∧ canAsk (dirAt (rowSt (some 1) [3] [(1, 2), (3, 4)]) 0x4000) 2 3 = true ∧ canAsk (dirAt (rowSt (some 3) [1] [(1, 4), (3, 2)]) 0x4000) 2 3 = true
    ∧ canAsk (dirAt (rowSt (some 3) [1] [(1, 4), (3, 2)]) 0x4000) 3 3 = true ∧ canAsk (dirAt (rowSt none [3] [(3, 4)]) 0x4000) 4 3 = true := by decide

/-- Tables of the five levels that map page 0 of VF 0 to 0x60000, readable and writable by U. -/
def pageSt : State :=
  let t (n m x : Nat) (s : State) : State := withMem (n <<< 16) 8 (x + (m <<< 14)) s
  setVf (t 1 2 1 (t 2 3 1 (t 3 4 1 (t 4 5 1 (t 5 6 7 st0))))) 0 { vfAt st0 0 with root := 0x10000 }

theorem witness_WalkErrorAndLinkEventsAct :
    okAnd (translateMark pageSt 0 0 0 0 8 .write) (fun r => r.2.pa == 0x60000) = true ∧ isMem (0x60000 / 128 * 128) = true
    ∧ (st0.mcTail - st0.mcHead).toNat < 1024 ∧ linkIsDown st0 0 1 = false ∧ { st0 with scrub := [(0x4000, 2)] }.scrub = [(0x4000, 2)]
    ∧ (qlAt (setQl st0 3 ⟨15, 1, false, 0, true, 0⟩) 3).st = 1 ∧ (qlAt (setQl st0 3 ⟨15, 2, false, 0, true, 0⟩) 3).st = 2
    ∧ (0x123 : BitVec 20).toNat / 256 ≠ st0.dev.pod.toNat ∧ (0x23 : BitVec 20).toNat / 256 = st0.dev.pod.toNat := by decide +kernel

/-- A port that is up carries a flit on; one that is down does not. -/
theorem witness_WalkErrorAndLinkEventsAct_flits :
    let up := setQl st0 3 ⟨15, 2, false, 0, true, 0⟩
    let f (dst : BitVec 20) : Flit := ⟨0, dst, 0, 0, 0x4000, [1], 0, 0⟩
    (qlAt up 3).st = 2 ∧ (sendFlit st0 (f 0x10000)).isNone = true ∧ (sendFlit st0 (f 0x23)).isSome = true
    ∧ (∃ p : Fin 24, (sendFlit (setQl st0 p ⟨15, 2, false, 0, true, 0⟩) (f 0x10000)).isSome = true) ∧ linkIsDown st0 0 5 = false := by decide +kernel

/-- A probe of a mapped page, and of one whose first table entry lies in a poisoned line. -/
theorem witness_TranslationWordsAct_probe :
    okAnd (probe pageSt 0 0) (fun _ => true) = true
    ∧ (match probe { pageSt with poison := [key pageSt 0x10000] } 0 0 with
      | .error e => e.cause == 0x15
      | .ok _ => false) = true
    ∧ mayAll [.tlProbe 0 2 3] (withS 3 0 pageSt) = true ∧ (sv (withS 3 0 pageSt) 3).toNat % 512 < 384 := by decide +kernel

/-! ### Trees, harts and episodes by themselves -/

/-- Both members have posted segment 0 of an exchange; a take of it waits. -/
theorem witness_TreeEventsAct :
    let s := treeSt 2 10 0
    let e := readEnt s 0 1
    let p (c : Nat) : TPost := ⟨0, c, 0, 5, 0, 0, false, [], false⟩
    liveTree s 0x107 [2, 3, 4] = some e ∧ (nodePull (setTree s e { treeAt s e with posts := [p 0, p 1], posted0 := 3 }) 0x107 0 0).isSome = true := by
  decide +kernel

/-- A sum tree of segments of 128 bytes, its configuration kept; member 0 alone is in its base set. -/
def sumTree (f : Shape → Shape) (g : Tree → Tree) : State × TEnt :=
  let s := writeEnt (treeSt 2 0 0) { treeEnt 2 0 with segl := 7 }
  let e := readEnt s 0 1
  (setTree s e (g { treeAt s e with cfg := [(nodeRouter s e 0, f (entShape s e))] }), e)

/-- Member 0 has posted and member 1 is absent; a node that has no contributor; a node below that is done. -/
theorem witness_TreeAndEpisodeEventsAct_pull :
    (let (s, e) := sumTree id (fun t => { t with posts := [⟨0, 0, 0, 5, 0x3F800000, 0, false, [], false⟩], posted0 := 1 });
      let h := asEdited s e (entShape s e)
      let r := skipOn e h ((treeAt s e).recAt 0 0)
      liveTree s 0x107 [2] = some e ∧ (treeAt s e).isOpen e 0 = true ∧ e.op ≤ 6 ∧ lookup (treeAt s e).cfg (nodeRouter s e 0) = some (entShape s e)
      ∧ ((treeAt s e).recAt 0 0).done = false ∧ ringless s e h 0 = false ∧ r.done = false ∧ r.next = 1 ∧ (h.order 0)[r.next]? = some (.mem 0)
      ∧ ((treeAt s e).postOf s h 0 0).any (fun p => carries s e p.core) = true)
    ∧ (let (s, e) := sumTree (fun h => { h with mems := [] }) id;
      let h := asEdited s e { entShape s e with mems := [] }
      (skipOn e h ((treeAt s e).recAt 0 0)).done = true ∧ ringless s e h 0 = false)
    ∧ (let two (h : Shape) : Shape := { h with ncnt := 2, nodes := h.nodes ++ [1 <<< 32], maps := [0, 0], mems := [1 <<< 20] }
      let (s, e) := sumTree two (fun t => { t with nodes := [⟨1, 0, true, 1, 0, 0, 1, 0, 0, 0⟩] });
      let h := asEdited s e (two (entShape s e))
      let r := skipOn e h ((treeAt s e).recAt 0 0)
      lookup (treeAt s e).cfg (nodeRouter s e 0) = some (two (entShape s e)) ∧ r.done = false ∧ (h.order 0)[r.next]? = some (.node 1)
      ∧ ((treeAt s e).recAt 1 0).done = true ∧ (crossing s e h 0 1 0).isSome = true ∧ ringless s e h 0 = false) := by decide +kernel

/-- The segment is complete and member 0's take can be delivered, its three writes among them. -/
theorem witness_TreeAndEpisodeEventsAct_delivery :
    let (s0, e) := sumTree id (fun t => { t with takes := [⟨0, 0, 0, 5⟩], nodes := [⟨0, 0, true, 2, 0, 0, 1, 0x3F800000, 1, 1⟩] })
    let c : Cmd := { doneCmd .take with aa := phys 0x60000, xa := phys 0x61000, da := phys 0x62000 }
    let s := onCore s0 fun k => { k with cmds := [c] }
    let h := asEdited s e (entShape s e)
    let r := (treeAt s e).recAt h.top 0
    liveTree s 0x107 [2] = some e ∧ (treeAt s e).isOpen e 0 = true ∧ r.done = true
    ∧ lookup (treeAt s e).cfg (topRouter s e) = some (entShape s e)
    ∧ (treeAt s e).takes.any (fun k => k.seg == 0 && memberOf s h k.core == some 0 && carries s e k.core && c.ctx == k.ctx && c.tag == k.tag) = true
    ∧ (takeWrites s c e r 0 true).2 = none ∧ (takeWrites s c { e with fl := 2 } r 0 true).2 = none := by decide +kernel

/-- A live tree whose configuration is good, and one whose configuration in memory has been spoilt. -/
theorem witness_TreeAndEpisodeEventsAct_refill :
    let s := treeSt 2 10 0
    let b := withMem 0x50040 32 0 s
    (match liveTree s 0x107 [2, 3, 4] with
      | some e => (entShape s e).ok false
      | none => false) = true
    ∧ (match liveTree b 0x107 [2, 3, 4] with
      | some e => !(entShape b e).ok false
      | none => false) = true := by decide +kernel

theorem witness_EpisodeEventsAct :
    (let s := { hartSt false 0 (fun h => { h with mie := 0x10080, mstatus := 8 }) with time := 7 };
      hartIrq s 7 = true)
    ∧ (let s := epSt_ false 0 1 []
      let x := epGet s 1
      (curHart s).ep = some 1 ∧ (curHart s).machine = false ∧ (curHart s).irem = 0 ∧ epLive x = true)
    ∧ (let s := mbSt_ 0 0 (0x20020001 + (1 <<< 128) + (1 <<< 320))
      let x := epGet s 1
      epArm x = true ∧ imgF x 0x10 8 ≠ 0 ∧ imgF x 0x28 8 ≠ 0 ∧ epLive x = true ∧ imgF x 0x28 8 ≤ nowNs { s with time := 7 })
    ∧ (let x := epGet (mbSt_ 0 0 0x08040001) 1
      epSt x = 4 ∧ bit (epFl x) 3 = true) := by decide +kernel

/-! ### Media, hosts and management -/

/-- Context 0 of engine 0 with a command of the given code under way, its stream's descriptor in page 0. -/
def mediaSt (op : Nat) (fin : Bool) : State :=
  setMedia pageSt 0 ⟨true, 0, 0, 0, 0, [], some ⟨BitVec.ofNat 1024 op, 0, fin, 0, 0, 0, 0, false⟩, [], 0, 0, []⟩

theorem witness_MediaEventsAct :
    (∀ op ∈ [1, 2, 3], (mediaCmd (mediaSt op false) 0 op).isSome = true) ∧ (streamOf (mediaSt 1 false) (mediaAt (mediaSt 1 false) 0)).isSome = true
    ∧ (mediaAt (mediaSt 2 false) 0).held = [] ∧ (streamOf st0 (mediaAt (mediaSt 1 false) 0)).isNone = true
    ∧ ((mediaAt (mediaSt 1 true) 0).cmd.map (·.finished)) = some true
    ∧ (mediaTake (setMedia (withMem 0x60000 16 (0x40 + (1 <<< 72) + (16 <<< 80)) (withMem 0x60040 16 (0x80 + (1 <<< 72)) pageSt)) 0
        ⟨true, 0, 0, 0, 0, [], none, [], 0, 0, []⟩) 0).isSome = true := by decide +kernel

/-- A decode in a codec that no engine has; a flush with nothing held; a reset. -/
theorem witness_MediaEventsAct_streams :
    let s := mediaSt (1 + (4 <<< 8)) false
    let m := mediaAt s 0
    (match mediaCmd s 0 1, streamOf s m with
      | some q, some (t, d, _) => !q.bad && okAnd (readBytes t m.who (rf q.img.toNat 8 9) (rf q.img.toNat 4 4) .read) (fun r =>
          okAnd (streamPut m 0x14 4 0 r.1) (fun _ => mcCodec q.img.toNat == 4 && unitStatus 0 4 (rf d 0x24 4) (bit (rf d 9 1) 1) == 2))
      | _, _ => false) = true
    ∧ (let s := mediaSt 2 false
      let m := { mediaAt s 0 with held := [(0, 0)] }
      (mediaCmd s 0 2).isSome = true ∧ (mediaAt s 0).held = [] ∧ [(0, 0)].Perm m.held
      ∧ (mediaCmd (setMedia s 0 m) 0 2).isSome = true ∧ (streamOf (setMedia s 0 m) m).isSome = true)
    ∧ (match streamOf (mediaSt 3 false) (mediaAt (mediaSt 3 false) 0) with
      | some (t, d, _) => okAnd (streamPut m 9 1 (rf d 9 1 % 2) t) (fun u => okAnd (streamPut m 0x14 4 0 u) (fun _ => true))
      | none => false) = true := by decide +kernel

/-- The package serves tenants. -/
def hostSt : State := { pageSt with dev := { pageSt.dev with bootSt := 7, lc := 1 } }

theorem witness_HostRequestsAct :
    hostTarget 0 = 0 ∧ hostServes hostSt true = true ∧ hostVfOk 0 = true ∧ hostVf 0 0 = 0 ∧ (vfAt hostSt 0).part = some 0
    ∧ (hostRead hostSt 0 0 0 (lineCount 0 8) 0 8).toOption.isSome = true ∧ (hostRead hostSt 0 0 0 (lineCount 0x10000 8) 0x10000 8).toOption.isNone = true
    ∧ okAnd (writeBytes hostSt ⟨0, 0, 0, false⟩ 0 8 1 0) (fun _ => true) = true
    ∧ okAnd (translateMark hostSt 0 0 0 0 8 .rmw) (fun r => okAnd (readAt r.1 ⟨0, 0, 0, false⟩ 0 8 r.2 false) (fun q =>
      (gate q.1 0 (lineLabel q.1 q.2.2 r.2.pa) (.reader 4)).isSome && okAnd (writeAt q.1 ⟨0, 0, 0, false⟩ 0 8 1 q.2.2 0 r.2 true) (fun _ => true))) = true
    ∧ (∀ n ∈ [1, 2, 3, 4, 5], spdmAt { hostSt with dev := { hostSt.dev with spdm := [(0, n)] } } 0 = n) := by decide +kernel

/-- A mailbox request of n bytes with code op and first doubleword x. -/
def askSt (op n x : Nat) : State :=
  { hostSt with dev := { hostSt.dev with mbBusy := true, mbOp := op, mbLen := n, mbReq := cellsOf 8 0 x } }

theorem witness_ManagementActs :
    (∀ e ∈ [(1, 0), (0x10, 8), (0x11, 8), (0x20, 4096), (0x30, 8), (0x40, 8)], (askSt e.1 e.2 0).dev.mbBusy = true ∧ (askSt e.1 e.2 0).dev.mbOp = e.1
      ∧ (askSt e.1 e.2 0).dev.mbLen = e.2 ∧ mbAllowed (askSt e.1 e.2 0) e.1 = true)
    ∧ mbReq (askSt 0x30 8 0xFF0F) 0 8 = 0xFF0F ∧ bits 0xFF0F 7 4 = 0 ∧ mbReq (askSt 0x40 8 64) 0 8 = 64
    ∧ (devWrite hostSt 0x1000 5 0 2 0).isSome = true ∧ State.reset.dev.bootSt = 0 ∧ { State.reset.dev with next := some [] }.next = some [] := by
  decide +kernel

/-- What boots: a flash whose first image is no boot image fails at step 2. -/
theorem witness_ManagementActs_boot :
    let s : State := { State.reset with dev := { State.reset.dev with bootSt := 1, next := some [] } }
    s.dev.bootSt = 1 ∧ imageStep s.dev.roll (flashImage s 0) = 2 ∧ State.reset.dev.bootSt = 0 := by decide +kernel

/-! ### Decoding, stepping, memory and frames -/

theorem witness_DecodingUndoesEncoding :
    (infoOf (.add 0 3 4 5)).isSome = true ∧ (Instr.add 0 3 4 5).wellFormed = true ∧ (Instr.jxSend 2 3 4).hartWord = true := by decide

theorem witness_EncodingUndoesDecoding : decode 0b0_00000_0000_0000000_00011_00100_00101 = .ok (.add 0 3 4 5) := by decide

/-- The part serves tenants and core 0 stands at a group of the word `add s3, s4, s5`. -/
def stepSt : State := onCore { hostSt with vfs := st0.vfs } fun c => { c with
  pc := 0x100000, half0 := ⟨0x100000, 2, 0, 0, cellsOf 4 0 0x80000C85⟩ }

theorem witness_StepRunsTheDecodedWord :
    (stepSt.agenda = [] ∧ autoEvent stepSt = none ∧ stepSt.core.run.isSome = true ∧ stepSt.core.locked = false)
    ∧ okAnd (beginTick stepSt) (fun s1 => fetchGroup s1.core == [0x80000C85#32] && s1.core.run.isSome && !s1.core.locked && decide (s1.core.cont.dist < 4097)
        && (lostNow s1).isNone && !passEnds s1.core) = true
    ∧ (0x80000C85#32).getLsbD 31 = true ∧ decode 0x80000C85 = .ok (.add 0 3 4 5) := by decide +kernel

/-- The same core with a load whose datum a failed link has lost, and at the end of a nest's body. -/
theorem witness_StepRunsTheDecodedWord_lost_pass :
    okAnd (beginTick (onCore stepSt fun c => { c with pend := [⟨0, .linkFault 0x4000, 0, none⟩] })) (fun s1 =>
      (lostNow s1).isSome && fetchGroup s1.core == [0x80000C85#32]) = true
    ∧ okAnd (beginTick (onCore stepSt fun c => { c with nest := ⟨true, 0, 1, 58, 0x100000, 1, [0, 0, 0, 0, 0, 0]⟩ })) (fun s1 =>
      passEnds s1.core && fetchGroup s1.core == [0x80000C85#32] && (lostNow s1).isNone) = true := by decide +kernel

/-- A pass of a nest ends at a store to the host, and the nest's trip count carries a label that its destination may not see. -/
def outSt : State := withA 2 (phys (4 * 2 ^ 48)) (onCore stepSt fun c => { c with
  half0 := ⟨0x100000, 2, 0, 0, cellsOf 4 0 0x9C19C801⟩, nest := ⟨true, 0, 1, 58, 0x100000, 1, [0, 0, 0, 0, 0, 0]⟩,
  g := c.g.set 58 ⟨3, 1⟩ })

theorem witness_StepRunsTheDecodedWord_label :
    decode 0x9C19C801 = .ok (.stD 0 7 2 1) ∧ (0x9C19C801#32).getLsbD 31 = true
    ∧ okAnd (beginTick outSt) (fun s1 => fetchGroup s1.core == [0x9C19C801#32] && (lostNow s1).isNone && (labelled s1 0x9C19C801).core.cl != s1.core.cl
      && isNext (exec (.stD 0 7 2 1) (tried s1 0x9C19C801)) (fun t => t.core.mark == .none)
      && isNext (exec (.stD 0 7 2 1) (labelled s1 0x9C19C801)) (fun t => match t.core.mark with
        | .trapped 0xC _ _ => true
        | _ => false)) = true := by decide +kernel

theorem witness_StepRunsEventsAndTurns :
    (let s : State := { st0 with agenda := [.event .claim] };
      s.agenda = .event .claim :: [])
    ∧ State.reset.core.run = none ∧ State.reset.coreNo < 256 ∧ autoEvent (focusDue State.reset) = some .boot
    ∧ (let s := withMem 0x8000 4 0x00000013 (hartSt true 0x4000 (fun h => { h with pc := 0x8000 }))
      hartIrq s 11 = false ∧ hartIrq s 3 = false ∧ hartIrq s 7 = false ∧ hartIrq s 16 = false ∧ (curHart s).wait = none ∧ budgetOut s = false ∧ hartCheck s (curHart s) 0x8000 2 .fetch = none
      ∧ readPa s 0x8000 2 % 4 = 3 ∧ hartCheck s (curHart s) 0x8002 2 .fetch = none ∧ (decodeJx 0x13).isNone = true
      ∧ rvDecode32 0x13 = some (.opImm .add 0 0 0))
    ∧ (let s := hartSt false 0 (fun h => { h with mie := 0x808, mstatus := 8 });
      hartIrq (updHart s (fun h => { h with mei := true })) 11 = true
      ∧ hartIrq (updHart s (fun h => { h with msi := true })) 11 = false ∧ hartIrq (updHart s (fun h => { h with msi := true })) 3 = true) := by decide +kernel

theorem settled_reset : Settled State.reset := by unfold Settled; decide
theorem settled_memSt : Settled memSt := by unfold Settled; decide

theorem witness_WritesReadBack : State.reset.memOk ∧ Settled State.reset ∧ 0x4040 % 128 + 64 ≤ 128 := ⟨by decide, settled_reset, by decide⟩

theorem witness_WritesReadBack_other : ∀ j < 64, key State.reset 0x4000 ≠ key State.reset (0x4040 + j) := by decide +kernel

theorem witness_EveryStepKeepsMemoryCanonical :
    State.reset.memOk ∧ isNext (exec .claim State.reset) (fun _ => true) = true := by decide +kernel

theorem witness_RegisterWordsOnlyScheduleResults :
    registerWord (.add 0 1 2 3) = true ∧ st0.core.mark = .none ∧ mayAll [.add 0 1 2 3] st0 = true
    ∧ isNext (exec (.add 0 1 2 3) st0) (fun t => t.core.mark == .none) = true := by decide +kernel

/-- Words of every class under p1, which reads false. -/
theorem witness_RegisterWordsOnlyScheduleResults_off :
    (∀ ins ∈ [Instr.add 1 1 2 3, .stD 1 1 2 1023, .br 1 0, .cpInval 1 0 0 0 1 2, .sysrd 1 1 0x001, .cmpEq 1 0 1 2 3],
      ins.wellFormed = true ∧ combiningType ins ≠ some 1 ∧ (infoOf ins).any (fun i => decide (i.prv ≤ st0.core.cont.prv) && !predOn st0.core i) = true
      ∧ isNext (exec ins st0) (fun t => decide (t.core.mark = st0.core.mark) && decide (t.core.pend = st0.core.pend)) = true)
    ∧ sysPriv 0x001 ≠ none := by decide +kernel

theorem witness_AccessesChangeOnlyWhatTheyStore :
    storeSize (.stD 0 1 2 1023) = some 8 ∧ loadSize (.ldD 0 1 2 31 31) = some 8 ∧ memSt.core.mark = .none
    ∧ (∀ k ∈ [Kind.read, .write], okAnd (translateMark memSt ((phys 0x4000).toNat + 1023 * 8) 0 0 2 8 k) (fun r => isMem r.2.pa) = true)
    ∧ isNext (exec (.stD 0 1 2 1023) memSt) (fun t => t.core.mark == .none) = true
    ∧ isNext (exec (.ldD 0 1 2 0 31) memSt) (fun t => t.core.mark == .none) = true := by decide +kernel

/-- An atomic to memory, and a store of each long form with a byte that it spares. -/
theorem witness_AtomicsChangeOnlyTheirBytes :
    (let va := (phys 0x4000).toNat
    okAnd (translateMark memSt va 0 0 2 8 .rmw) (fun y => okAnd (readAt y.1 memSt.core.who va 8 y.2 true) (fun r =>
      okAnd (translateMark r.1 va 0 0 2 8 .write) (fun x => isMem x.2.pa))) = true)
    ∧ isNext (exec (.amoAdd 0 1 2 0 0) memSt) (fun t => t.core.mark == .none) = true := by decide +kernel

theorem witness_LongStoresChangeOnlyTheirBytes :
    let ok (ins : Instr) (s : State) (rd : Bool) (parts : State → List (Nat × Nat × (Nat → Nat))) : Bool := meets_ (infoOf ins) s (fun _ t =>
      t.core.mark == .none && Spares t.core.who 0 0x3000 rd (parts t) t) && isNext (exec ins s) (fun t => t.core.mark == .none)
    let whole (va n : Nat) : List (Nat × Nat × (Nat → Nat)) := (spanVals (lineCount va n) va n 0).map (fun p => (p.1, p.2.1, fun _ => p.2.2))
    let els (x : Word) (ins : Instr) (at_ : Core → VCtx → Nat → Nat) : Bool := meets_ (infoOf ins) (vecSt x) (fun i t =>
      let k := vctx t.core i 0 1
      Spares t.core.who k.lab 0x3000 (k.w == 4) (elParts k.w (vEl t.core k 3) (vAccs k (max 1 (k.w / 8)) (at_ t.core k))) t)
        && isNext (exec ins (vecSt x)) (fun t => t.core.mark == .none)
    ok (.stt 0 1 2 0 0 4) memSt false (fun t => [((av t 2).toNat, elBytes 0, fun _ => 0)]) = true
    ∧ ok (.stt 0 1 2 12 1 6) memSt true (fun t => [((av t 2).toNat, 1, fun o => o % 16)]) = true
    ∧ ok (.vstt 0 1 2 5 0) memSt false (fun t => whole (av t 2).toNat 64) = true
    ∧ els 0 (.vst 1 3 2) (atPlain 2) = true ∧ els 9 (.vsts 1 3 2 3) (atStride 2 3) = true ∧ els 10 (.vstx 1 3 2 4) (atIndex 2 4) = true
    ∧ ok (.mxZst 0 1 5 2 3) (mxMem 0x18 256) false (fun t => (List.range 32).flatMap (fun k => whole ((av t 2).toNat + 256 * k) 256)) = true
    ∧ ok (.mxZcvt 0 1 5 2 3) (mxMem 0x19018 64) false (fun t => (List.range 32).flatMap (fun k => whole ((av t 2).toNat + 64 * k) 64)) = true := by decide +kernel

theorem witness_TrapsSuspendAndPost :
    (∃ r, (at_ 1).core.run = some r ∧ r.prv < 2) ∧ (at_ 1).core.locked = false ∧ (0x12 : Nat) ≠ 0 ∧ 0x12 < 256 :=
  ⟨⟨_, rfl, by decide⟩, by decide, by decide, by decide⟩

/-- A record whose frame no page maps, and a place where a frame's header can be written. -/
theorem witness_TrapsSuspendAndPost_frames :
    (saveFrame { at_ 1 with core := setTr (at_ 1).core 2 0 0 } 2 0).2.ok = false
    ∧ (framePut pageSt ⟨0, 0, 0, false⟩ 0 0x40 2 0).2 = true := by decide +kernel

end Sys2Proof.Tests
end

namespace Sys2Proof.Laws
open Sys2Proof Sys2Proof.Machine

/-! ## An interleave set that starts in the middle of a line -/

/-- The reset state but for partition 0's interleave set, which starts at byte 64 of a line, so that R165's line number changes in the
middle of the line at 128: its byte 192 has its place at 192, while a write at 128, which goes by the place of its first byte, ends
at place 64. -/
def midLineSet : State := { State.reset with isets := State.reset.isets.set 0 ⟨64, 0x9000000000, 1, [0, 0, 0, 0], 0⟩ }

theorem midLineSet_memOk : midLineSet.memOk := reset_memOk
theorem midLineSet_settled : Settled midLineSet := by unfold Settled; decide

/-- Byte 64 of the 65 bytes written at 128 does not read back. -/
theorem midLineSet_losesByte : readPa (writePa midLineSet 128 65 (2 ^ 512)) (128 + 64) 1 = 0 := by decide +kernel

/-- Refutes O56: no hypothesis says that an interleave set starts at a line, and 65 bytes written at 128 under `midLineSet` do not
read back byte by byte. -/
theorem not_writesReadBack : ¬ Obligations.WritesReadBack := by
  intro h
  obtain ⟨-, -, -, bytes⟩ := h midLineSet 128 65 (2 ^ 512) midLineSet_memOk midLineSet_settled (by decide)
  have hk := bytes 64 (by decide)
  rw [midLineSet_losesByte] at hk
  exact absurd hk (by decide +kernel)

end Sys2Proof.Laws

namespace Sys2Proof.Laws
open Sys2Proof Sys2Proof.Machine

/-! # The cycle of a core whose group is one word -/

/-! ## The step of the focused core -/

theorem takeTraps_mark (s : State) (c info addr : Nat) (rest : Nat → Nat × Nat × Nat) :
    (takeTraps s c info addr rest).core.mark = .trapped c info addr := rfl

theorem takeTrap_mark (s : State) (c info addr : Nat) : (takeTrap s c info addr).core.mark = .trapped c info addr := rfl

theorem retrap_mark (s : State) (c info addr : Nat) : (retrap s c info addr).core.mark = .trapped c info addr := by
  unfold retrap
  split
  · exact takeTrap_mark _ _ _ _
  · exact takeTrap_mark _ _ _ _

/-- A lost landing is a trap (R144). -/
theorem lostNow_mark {s v : State} (h : lostNow s = some v) : ∃ c n a, v.core.mark = .trapped c n a := by
  unfold lostNow at h
  split at h
  · split at h
    · exact ⟨_, _, _, (Option.some.inj h) ▸ takeTrap_mark _ _ _ _⟩
    · cases h
  · cases h

/-- When the focused core acts, the step is a cycle of its domain (R4, R24). -/
theorem step_of_coreActs {s : State} (h : CoreActs s) : step s = coreTurn iwordInfo runIWord s := by
  obtain ⟨hmet, hagenda, hauto, -, hlocked⟩ := h
  have hfocus : focusDue s = s := by simp [focusDue, hlocked]
  simp only [step, stepWith, hmet, hagenda, hfocus, hauto]

theorem coreTurn_of_domainCycle {s t : State} (h : CoreActs s) (ht : domainCycle iwordInfo runIWord s = .next t) :
    step s = .next (wakeNew s t) := by
  rw [step_of_coreActs h]
  obtain ⟨-, -, -, hrun, -⟩ := h
  simp only [coreTurn, hrun, if_true, ht]

theorem step_of_trap {s t : State} {c n a : Nat} (h : CoreActs s) (ht : issueOne iwordInfo runIWord s = .next t)
    (hm : t.core.mark = .trapped c n a) : step s = .next (wakeNew s t) := by
  refine coreTurn_of_domainCycle h ?_
  obtain ⟨-, -, -, -, hlocked⟩ := h
  simp [domainCycle, hlocked, ht, hm]

theorem step_of_hold {s t : State} (h : CoreActs s) (ht : issueOne iwordInfo runIWord s = .next t) (hm : t.core.mark = .held) :
    step s = .next (wakeNew s (oneCycle t)) := by
  refine coreTurn_of_domainCycle h ?_
  obtain ⟨-, -, -, -, hlocked⟩ := h
  simp [domainCycle, hlocked, ht, hm]

theorem step_of_tick {s t : State} {g : List GWord} (h : CoreActs s) (ht : issueOne iwordInfo runIWord s = .next (endTick g t))
    (hl : t.core.locked = false) : step s = .next (wakeNew s (oneCycle (endTick g t))) := by
  have hm : (endTick g t).core.mark = .none := rfl
  have hu : (endTick g t).core.locked = false := hl
  refine coreTurn_of_domainCycle h ?_
  obtain ⟨-, -, -, -, hlocked⟩ := h
  simp [domainCycle, hlocked, ht, hm, hu]

/-! ## A group of one word -/

theorem slotSort_singleton (x : GWord) : slotSort [x] = [x] := by
  have place (k : Option Cls) : ((List.range 7).flatMap fun n => if clsRank k == n then [x] else []) = [x] := by
    cases k with
    | none => rfl
    | some k => cases k <;> rfl
  simpa only [slotSort, List.filter_cons, List.filter_nil] using place (clsOf x.raw)

/-- A word alone breaks no rule of slots or registers (R42, R43). -/
theorem groupError_singleton {w : IWord} (hstop : w.getLsbD 31 = true) (x : GWord) : groupError [w] [x] = none := by
  have hcls : classError [x] = none := by
    have hcap : ¬clsCap (clsOf x.raw) < 1 := by
      cases clsOf x.raw with
      | none => decide
      | some k => cases k <;> decide
    simp [classError, countCls, hcap]
  simp [groupError, stopError, hstop, hcls, regError]

section LoneWord

variable {s : State} {w : IWord} {i : Instr}

theorem iwordInfo_of_decode (hd : decode w.toNat = .ok i) : iwordInfo w = infoOf i := by
  simp only [iwordInfo, hd]

/-- A lone word that decodes runs as its instruction. -/
theorem runWord_lone (hd : decode w.toNat = .ok i) (hi : (infoOf i).isSome = true) (pc : Addr) (g : List GWord) (t : State) :
    runWord runIWord pc g t (loneWord s w) = exec i (setWord pc t g (loneWord s w)) := by
  obtain ⟨x, hx⟩ := Option.isSome_iff_exists.1 hi
  have hraw : (loneWord s w).raw = w := rfl
  have hinfo : (loneWord s w).info = some (liveInfo s.core w x) := by
    simp only [loneWord, iwordInfo_of_decode hd, hx, Option.map_some]
  simp only [runWord, hinfo, hraw, runIWord, hd]

theorem tryGroup_lone (hg : fetchGroup s.core = [w]) (hstop : w.getLsbD 31 = true) :
    tryGroup iwordInfo runIWord s = ([loneWord s w], tryWords runIWord [loneWord s w] none s) := by
  have hnum : number iwordInfo s.core 0 [w] = [loneWord s w] := rfl
  simp only [tryGroup, hg, hnum, groupError_singleton hstop]

/-- What trying the word of a lone group finds, its group's labels joined. -/
noncomputable def loneOutcome (s : State) (w : IWord) : Host.Outcome State Fault Refusal :=
  tryWord runIWord [loneWord s w] s (groupState runIWord [loneWord s w] s s) (loneWord s w)

/-- A mark that lets a word go on: it acts, it transfers, or its group is held. -/
def GoesOn (m : Mark) : Prop := (m = .none ∨ m = .transfer) ∨ m = .held

section Tried

variable {t u : State} (hd : decode w.toNat = .ok i) (hi : (infoOf i).isSome = true)
  (ht : exec i (tried s w) = .next t) (hu : exec i (labelled s w) = .next u)
include hd hi ht hu

/-- The labels of its group change what a lone word does only by a trap that they give it (R466). -/
theorem loneOutcome_of_goesOn (hm : GoesOn u.core.mark) : loneOutcome s w = .next t := by
  have ht' := (runWord_lone hd hi s.core.pc [loneWord s w] s).trans ht
  have hu' := (runWord_lone hd hi s.core.pc [loneWord s w] (groupState runIWord [loneWord s w] s s)).trans hu
  simp only [loneOutcome, tryWord, ht', hu']
  split
  · rfl
  · obtain (h | h) | h := hm <;> simp only [h]

theorem loneOutcome_of_sameTrap {c n a : Nat} (hmt : t.core.mark = .trapped c n a) (hmu : u.core.mark = .trapped c n a) :
    loneOutcome s w = .next t := by
  have ht' := (runWord_lone hd hi s.core.pc [loneWord s w] s).trans ht
  have hu' := (runWord_lone hd hi s.core.pc [loneWord s w] (groupState runIWord [loneWord s w] s s)).trans hu
  simp only [loneOutcome, tryWord, ht', hu', hmt, hmu, if_true, ite_self]

theorem loneOutcome_of_labelTrap {c n a : Nat} (hm : GoesOn t.core.mark) (hcl : (labelled s w).core.cl ≠ s.core.cl)
    (hmu : u.core.mark = .trapped c n a) : loneOutcome s w = .next (retrap s c n a) := by
  have ht' := (runWord_lone hd hi s.core.pc [loneWord s w] s).trans ht
  have hu' := (runWord_lone hd hi s.core.pc [loneWord s w] (groupState runIWord [loneWord s w] s s)).trans hu
  have hcl' : (groupState runIWord [loneWord s w] s s).core.cl ≠ s.core.cl := hcl
  have hne : t.core.mark ≠ .trapped c n a := by
    obtain (h | h) | h := hm <;> simp [h]
  simp only [loneOutcome, tryWord, ht', hu', hmu, if_neg hcl', if_neg hne]

end Tried

/-! ## What the group of a lone word ends with -/

/-- A trap of the word ends its group before a lost landing when its cause is 0x01 or 0x15, and else where nothing is lost (R35). -/
theorem tryWords_of_trap {t : State} {c n a : Nat} (ho : loneOutcome s w = .next t) (hm : t.core.mark = .trapped c n a)
    (hc : lostNow s = none ∨ c = 1 ∨ c = 0x15) : tryWords runIWord [loneWord s w] none s = .ends (.next t) := by
  unfold loneOutcome at ho
  simp only [tryWords, slotSort_singleton, List.map_cons, List.map_nil, ho]
  obtain h | rfl | rfl := hc
  · by_cases h15 : c = 0x15
    · simp [isLeft, isStop, isTrap, hm, h15]
    · by_cases h1 : c = 1
      · simp [isLeft, isStop, isTrap, hm, h1]
      · simp [isLeft, isStop, isTrap, hm, h15, h1, h]
  · simp [isLeft, isStop, isTrap, hm]
  · simp [isLeft, isStop, isTrap, hm]

theorem tryWords_of_lost {t v : State} (ho : loneOutcome s w = .next t) (hm : t.core.mark = .none ∨ t.core.mark = .transfer)
    (hv : lostNow s = some v) : tryWords runIWord [loneWord s w] none s = .ends (.next v) := by
  unfold loneOutcome at ho
  simp only [tryWords, slotSort_singleton, List.map_cons, List.map_nil, ho]
  obtain h | h := hm <;> simp [isLeft, isStop, isTrap, h, hv]

theorem tryWords_of_hold {t : State} (ho : loneOutcome s w = .next t) (hm : t.core.mark = .held) (hl : lostNow s = none)
    (hdist : s.core.cont.dist < 4097) : tryWords runIWord [loneWord s w] none s = .ends (.next t) := by
  unfold loneOutcome at ho
  have hwake : withWake s [(loneWord s w, .next t)] (.next t) = .next t := by
    simp only [withWake]
    rw [if_pos hm]
    split
    · rename_i x hx
      simp only [List.findSome?_cons, List.findSome?_nil, hm, true_and] at hx
      split at hx
      · rename_i y hy
        split at hy
        · cases hy; cases hx; rfl
        · cases hy
      · cases hx
    · rfl
  simp only [tryWords, slotSort_singleton, List.map_cons, List.map_nil, ho]
  simp [isLeft, isStop, isTrap, isHeld, hm, hl, Nat.not_le.2 hdist, hwake]

theorem tryWords_issues {t : State} (ho : loneOutcome s w = .next t) (hm : t.core.mark = .none ∨ t.core.mark = .transfer)
    (hl : lostNow s = none) (hdist : s.core.cont.dist < 4097) : tryWords runIWord [loneWord s w] none s = .issues := by
  unfold loneOutcome at ho
  simp only [tryWords, slotSort_singleton, List.map_cons, List.map_nil, ho]
  obtain h | h := hm <;> simp [isLeft, isStop, isTrap, isHeld, h, hl, Nat.not_le.2 hdist]

/-! ## The tick of a lone word -/

theorem issueOne_of_ends {s1 : State} {o : Host.Outcome State Fault Refusal} (hb : beginTick s = .ok s1)
    (hg : fetchGroup s1.core = [w]) (hstop : w.getLsbD 31 = true) (ho : tryWords runIWord [loneWord s1 w] none s1 = .ends o) :
    issueOne iwordInfo runIWord s = o := by
  simp only [issueOne, hb, tryGroup_lone hg hstop, ho]

theorem issueOne_of_issues {s1 : State} (hb : beginTick s = .ok s1)
    (hg : fetchGroup s1.core = [w]) (hstop : w.getLsbD 31 = true) (ho : tryWords runIWord [loneWord s1 w] none s1 = .issues) :
    issueOne iwordInfo runIWord s = issueGroup runIWord [loneWord s1 w] s1 s1 := by
  simp only [issueOne, hb, tryGroup_lone hg hstop, ho]

theorem setMark_of_mark {t : State} {m : Mark} (h : t.core.mark = m) : setMark t m = t := by
  subst h; rfl

/-- A lone word that acts, with nothing to hold it, is all that its group does. -/
theorem foldWords_lone {t v : State} (hd : decode w.toNat = .ok i) (hi : (infoOf i).isSome = true)
    (ht : exec i (setWord s.core.pc v [loneWord s w] (loneWord s w)) = .next t)
    (hm : t.core.mark = .none ∨ t.core.mark = .transfer) : foldWords runIWord [loneWord s w] s v [loneWord s w] = .ok t := by
  simp only [foldWords, runWord_lone hd hi, ht]
  obtain h | h := hm
  · simp [h]
  · simp [h, setMark_of_mark h]

theorem filter_stays (hleaf : leaves w = false) : (slotSort [loneWord s w]).filter (fun x => !leaves x.raw) = [loneWord s w] := by
  simp [slotSort_singleton, loneWord, hleaf]

theorem filter_leaves (hleaf : leaves w = false) : (slotSort [loneWord s w]).filter (fun x => leaves x.raw) = [] := by
  simp [slotSort_singleton, loneWord, hleaf]

/-- The state a lone group acts in, when no pass of a nest that goes on ends with it. -/
theorem groupState_lone {t : State} (hd : decode w.toNat = .ok i) (hi : (infoOf i).isSome = true) (hleaf : leaves w = false)
    (ht : exec i (issuing s w) = .next t) (hm : t.core.mark = .none ∨ t.core.mark = .transfer)
    (hp : passEnds s.core = false ∨ t.core.nest.act = false) :
    groupState runIWord [loneWord s w] s s = joinGroup [loneWord s w] s := by
  unfold groupState
  dsimp only
  split
  · rename_i hpass
    rw [filter_stays hleaf, foldWords_lone hd hi ht hm]
    have hact : t.core.nest.act = false := hp.resolve_left (by simp [hpass])
    simp [hact]
  · rfl

/-- The state a lone group acts in, when it ends a pass of a nest that goes on (R113, R466). -/
theorem groupState_pass {t : State} (hd : decode w.toNat = .ok i) (hi : (infoOf i).isSome = true) (hleaf : leaves w = false)
    (ht : exec i (issuing s w) = .next t) (hm : t.core.mark = .none) (hp : passEnds s.core = true) (hact : t.core.nest.act = true) :
    groupState runIWord [loneWord s w] s s
      = { joinGroup [loneWord s w] s with core := (joinGroup [loneWord s w] s).core.joinCl (passLabel s.core) } := by
  simp only [groupState, hp, if_true, filter_stays hleaf, foldWords_lone hd hi ht (.inl hm), hact, hm, ne_eq, reduceCtorEq,
    not_false_eq_true, and_self]

/-- A lone group that issues: its word acts, then the pc moves on unless it transferred. -/
theorem issueGroup_lone {t : State} (hd : decode w.toNat = .ok i) (hi : (infoOf i).isSome = true) (hleaf : leaves w = false)
    (ht : exec i (labelled s w) = .next t) (hm : t.core.mark = .none ∨ t.core.mark = .transfer) (hfl : inFlight t.core ≤ 96) :
    issueGroup runIWord [loneWord s w] s s = .next (endTick [loneWord s w] (if t.core.mark = .transfer then t else advance t)) := by
  have hw : issueWords runIWord [loneWord s w] s s = .ok t := by
    unfold issueWords
    rw [filter_stays hleaf, foldWords_lone hd hi ht hm]
  simp only [issueGroup, hw, Nat.not_lt.2 hfl, if_false, filter_leaves hleaf]

end LoneWord

/-- A tick in which the lone word at pc acts (R28): t is what it does with its group's labels joined. -/
theorem step_of_issue {s s1 t0 t : State} {w : IWord} {i : Instr} (hacts : CoreActs s) (hb : beginTick s = .ok s1)
    (hg : fetchGroup s1.core = [w]) (hstop : w.getLsbD 31 = true) (hd : decode w.toNat = .ok i) (hi : (infoOf i).isSome = true)
    (hl : lostNow s1 = none) (h0 : exec i (tried s1 w) = .next t0) (hp0 : t0.core.mark = .none ∨ t0.core.mark = .transfer)
    (hdist : s1.core.cont.dist < 4097) (hleaf : leaves w = false) (ht : exec i (labelled s1 w) = .next t)
    (hm : t.core.mark = .none ∨ t.core.mark = .transfer) (hfl : inFlight t.core ≤ 96)
    {v : State} (hv : (if t.core.mark = .transfer then t else advance t) = v) (hlock : v.core.locked = false) :
    step s = .next (wakeNew s (oneCycle (endTick [loneWord s1 w] v))) := by
  have htried := tryWords_issues (loneOutcome_of_goesOn hd hi h0 ht (.inl hm)) hp0 hl hdist
  have hissue := (issueOne_of_issues hb hg hstop htried).trans (issueGroup_lone hd hi hleaf ht hm hfl)
  rw [hv] at hissue
  exact step_of_tick hacts hissue hlock

/-- Settles O53: the group at the pc is tried, ends or issues as the lemmas above say, by the mark that its word leaves. -/
theorem stepRunsTheDecodedWord : Obligations.StepRunsTheDecodedWord := by
  intro s s1 w i hacts hb _ _ hg hstop hd hi plain ticks goesOn
  refine ⟨?_, ?_, ?_, ?_, ?_, ?_⟩
  · intro t u c n a hc ht hu hmt hmu
    have ho := tryWords_of_trap (loneOutcome_of_sameTrap hd hi ht hu hmt hmu) hmt hc
    exact step_of_trap hacts (issueOne_of_ends hb hg hstop ho) hmt
  · intro t u c n a hc ht hu hm hcl hmu
    have ho := tryWords_of_trap (loneOutcome_of_labelTrap hd hi ht hu hm hcl hmu) (retrap_mark s1 c n a) hc
    exact step_of_trap hacts (issueOne_of_ends hb hg hstop ho) (retrap_mark s1 c n a)
  · intro t u v hv ht hm hu hmu
    obtain ⟨c, n, a, hmv⟩ := lostNow_mark hv
    have ho := tryWords_of_lost (loneOutcome_of_goesOn hd hi ht hu hmu) hm hv
    exact step_of_trap hacts (issueOne_of_ends hb hg hstop ho) hmv
  · intro t u hl ht hm hu hmu hdist
    have ho := tryWords_of_hold (loneOutcome_of_goesOn hd hi ht hu hmu) hm hl hdist
    exact step_of_hold hacts (issueOne_of_ends hb hg hstop ho) hm
  · intro t0 t hl h0 hp0 hdist hleaf ht hp hfl
    have same (hm : plain t) : exec i (labelled s1 w) = .next t := by
      unfold labelled
      rw [groupState_lone hd hi hleaf ht hm hp]
      exact ht
    constructor
    · intro hm hlock
      exact step_of_issue hacts hb hg hstop hd hi hl h0 hp0 hdist hleaf (same (.inl hm)) (.inl hm) hfl (by simp [hm]) hlock
    · intro hm hlock
      exact step_of_issue hacts hb hg hstop hd hi hl h0 hp0 hdist hleaf (same (.inr hm)) (.inr hm) hfl (by simp [hm]) hlock
  · intro t0 t1 t hl h0 hp0 hdist hleaf hpass ht1 hm1 hact ht hm hfl hlock
    have same : exec i (labelled s1 w) = .next t := by
      unfold labelled
      rw [groupState_pass hd hi hleaf ht1 hm1 hpass hact]
      exact ht
    exact step_of_issue hacts hb hg hstop hd hi hl h0 hp0 hdist hleaf same (.inl hm) hfl (by simp [hm]) hlock

end Sys2Proof.Laws


namespace Sys2Proof.Laws
open Sys2Proof Sys2Proof.Machine

/-! ## Every step keeps memory canonical

Only a write to a physical address, a moved frame, a scrub and a reset reach memory, and each keeps its bytes in rising order with no zero
byte; every other function of the model passes memory on. The lemmas go through the model's functions in the model's own order, each by the
lemmas of the functions that it calls. `f_memOk` says that the state `f` answers is canonical when the state it starts from is; where `f`
can stop or fail, `f_stopOk`, `f_failOk` and `f_errOk` say it of the state that the stop or failure carries. -/

/-- The state that a stop carries, if it carries one, is canonical. -/
def StopOk (e : Stop) : Prop := ∀ t w, e = .look t w → t.memOk

/-- The state that an action leaves, or that its stop carries, is canonical. -/
def ActOk (a : Act) : Prop := (∀ t, a = .ok t → t.memOk) ∧ ∀ e, a = .error e → StopOk e

/-- The state that a part of an action leaves beside its result, or that its stop carries, is canonical. -/
def ResOk {α : Type} (r : Except Stop (State × α)) : Prop := (∀ x, r = .ok x → x.1.memOk) ∧ ∀ e, r = .error e → StopOk e

/-- The next state of an outcome, if there is one, is canonical. -/
def OutOk (o : Host.Outcome State Fault Refusal) : Prop := ∀ t, o = .next t → t.memOk

/-- The state that a failed command's access found is canonical. -/
def FailOk (f : CFail) : Prop := ∀ t, f.base = some t → t.memOk

/-- A fold of operations that keep the canonical form keeps it. -/
theorem foldl_memOk {α : Type} {f : State → α → State} {s : State} (hf : ∀ t a, t.memOk → (f t a).memOk) (hs : s.memOk)
    (l : List α) :
    (l.foldl f s).memOk := by
  induction l generalizing s with
  | nil => exact hs
  | cons a l ih => exact ih (hf _ _ hs)

theorem foldl_fst_memOk {α β : Type} {f : State × β → α → State × β} {a : State × β} (hf : ∀ a x, a.1.memOk → (f a x).1.memOk)
    (ha : a.1.memOk) (l : List α) :
    (l.foldl f a).1.memOk := by
  induction l generalizing a with
  | nil => exact ha
  | cons x l ih => exact ih (hf _ _ ha)

theorem stopOk_hold : StopOk .hold := by
  rintro _ _ ⟨⟩

theorem stopOk_trap {cause info addr : Nat} : StopOk (.trap cause info addr) := by
  rintro _ _ ⟨⟩

theorem stopOk_wait : StopOk .wait := by
  rintro _ _ ⟨⟩

theorem stopOk_wake : StopOk .wake := by
  rintro _ _ ⟨⟩

theorem stopOk_lock : StopOk .lock := by
  rintro _ _ ⟨⟩

theorem stopOk_spin {k a o : ℕ} : StopOk (.spin k a o) := by
  rintro _ _ ⟨⟩

theorem stopOk_copyFault {e : Word} : StopOk (.copyFault e) := by
  rintro _ _ ⟨⟩

theorem stopOk_quadTrap {l : List (ℕ × ℕ × ℕ × ℕ)} : StopOk (.quadTrap l) := by
  rintro _ _ ⟨⟩

theorem stopOk_look {t : State} (ht : t.memOk) {w : Option (ℕ × ℕ × ℕ)} : StopOk (.look t w) := by
  rintro _ _ ⟨⟩
  exact ht

theorem actOk_ok {t : State} (ht : t.memOk) : ActOk (.ok t) := by
  constructor
  · rintro _ ⟨⟩
    exact ht
  · rintro _ ⟨⟩

theorem actOk_error {e : Stop} (he : StopOk e) : ActOk (.error e) := by
  constructor
  · rintro _ ⟨⟩
  · rintro _ ⟨⟩
    exact he

theorem actOk_ite {p : Prop} [Decidable p] {a b : Act} (ha : ActOk a) (hb : ActOk b) : ActOk (if p then a else b) := by
  split
  · exact ha
  · exact hb

theorem resOk_ok {α : Type} {x : State × α} (hx : x.1.memOk) : ResOk (.ok x) := by
  constructor
  · rintro _ ⟨⟩
    exact hx
  · rintro _ ⟨⟩

theorem resOk_error {α : Type} {e : Stop} (he : StopOk e) : ResOk (α := α) (.error e) := by
  constructor
  · rintro _ ⟨⟩
  · rintro _ ⟨⟩
    exact he

theorem outOk_next {t : State} (ht : t.memOk) : OutOk (.next t) := by
  rintro _ ⟨⟩
  exact ht

theorem outOk_fault {f : Fault} : OutOk (.fault f) := by
  rintro _ ⟨⟩

theorem outOk_refused {r : Refusal} : OutOk (.refused r) := by
  rintro _ ⟨⟩

theorem outOk_ite {p : Prop} [Decidable p] {a b : Host.Outcome State Fault Refusal} (ha : OutOk a) (hb : OutOk b) :
    OutOk (if p then a else b) := by
  split
  · exact ha
  · exact hb

theorem resOk_ite {α : Type} {p : Prop} [Decidable p] {a b : Except Stop (State × α)} (ha : ResOk a) (hb : ResOk b) :
    ResOk (if p then a else b) := by
  split
  · exact ha
  · exact hb

theorem ite_memOk {p : Prop} [Decidable p] {s t : State} (hs : s.memOk) (ht : t.memOk) : (if p then s else t).memOk := by
  split
  · exact hs
  · exact ht

theorem getD_memOk {o : Option State} {s : State} (ho : ∀ t, o = some t → t.memOk) (hs : s.memOk) : (o.getD s).memOk := by
  cases o with
  | none => exact hs
  | some t => exact ho t rfl

theorem map_eq_ok {ε α β : Type} {f : α → β} {x : Except ε α} {b : β} : x.map f = .ok b ↔ ∃ a, x = .ok a ∧ f a = b := by
  cases x <;> simp [Except.map]

theorem map_eq_error {ε α β : Type} {f : α → β} {x : Except ε α} {e : ε} : x.map f = .error e ↔ x = .error e := by
  cases x <;> simp [Except.map]

theorem toOption_eq_some {ε α : Type} {x : Except ε α} {a : α} : x.toOption = some a ↔ x = .ok a := by
  cases x <;> simp [Except.toOption]

theorem mapError_eq_ok {ε δ α : Type} {f : ε → δ} {x : Except ε α} {a : α} : x.mapError f = .ok a ↔ x = .ok a := by
  cases x <;> simp [Except.mapError]

theorem mapError_eq_error {ε δ α : Type} {f : ε → δ} {x : Except ε α} {d : δ} :
    x.mapError f = .error d ↔ ∃ e, x = .error e ∧ f e = d := by
  cases x <;> simp [Except.mapError]

/-- A state with the memory of a canonical one is canonical. -/
theorem memOk_of_mem_eq {s t : State} (h : t.mem = s.mem) (hs : s.memOk) : t.memOk := by
  rw [State.memOk, h]
  exact hs

theorem memOk_of_eq {α : Type} {p q : State × α} (h : p = q) (hp : p.1.memOk) : q.1.memOk := h ▸ hp

theorem setDir_memOk {s : State} (hs : s.memOk) (line e) : (setDir s line e).memOk := memOk_of_mem_eq (setDir_mem ..) hs

theorem settleLine_memOk {s : State} (hs : s.memOk) (line) : (settleLine s line).memOk := memOk_of_mem_eq (settleLine_mem ..) hs

theorem uncacheLine_memOk {s : State} (hs : s.memOk) (pa) : (uncacheLine s pa).memOk := memOk_of_mem_eq (uncacheLine_mem ..) hs

theorem letGo_memOk {s : State} (hs : s.memOk) (die k) : (letGo s die k).memOk := memOk_of_mem_eq (letGo_mem ..) hs

theorem takeWay_memOk {s : State} (hs : s.memOk) (die k w) : (takeWay s die k w).memOk := memOk_of_mem_eq (takeWay_mem ..) hs

theorem freeEntryOf_memOk {s : State} (hs : s.memOk) (k) : (freeEntryOf s k).memOk := memOk_of_mem_eq (freeEntryOf_mem ..) hs

theorem takeLine_memOk {s0 : State} (hs0 : s0.memOk) (write die k) :
    (takeLine write die s0 k).memOk := memOk_of_mem_eq (takeLine_mem ..) hs0

theorem touchLine_memOk {s : State} (hs : s.memOk) (write vf die pa) :
    (touchLine write vf die s pa).memOk := memOk_of_mem_eq (touchLine_mem ..) hs

theorem writeHome_memOk {s : State} (hs : s.memOk) (l) : (writeHome s l).memOk := memOk_of_mem_eq (writeHome_mem ..) hs

theorem dropLines_memOk {s : State} (hs : s.memOk) (p) : (dropLines s p).memOk := memOk_of_mem_eq (dropLines_mem ..) hs

theorem cleanLines_memOk {s : State} (hs : s.memOk) (p) : (cleanLines s p).memOk := memOk_of_mem_eq (cleanLines_mem ..) hs

theorem focus_memOk {s : State} (hs : s.memOk) (n) : (focus s n).memOk := memOk_of_mem_eq (focus_mem ..) hs

theorem cleanEach_memOk {s : State} (hs : s.memOk) (p) : (cleanEach s p).memOk := memOk_of_mem_eq (cleanEach_mem ..) hs

theorem raiseFrame_memOk {s : State} (hs : s.memOk) (pa l) : (raiseFrame s pa l).memOk := memOk_of_mem_eq (raiseFrame_mem ..) hs

theorem snoop_memOk {s : State} (hs : s.memOk) (pa n keep) : (snoop s pa n keep).memOk := memOk_of_mem_eq (snoop_mem ..) hs

theorem emptyLines_memOk {s : State} (hs : s.memOk) (p) : (emptyLines s p).memOk := memOk_of_mem_eq (emptyLines_mem ..) hs

theorem sendFlit_memOk {s : State} (hs : s.memOk) (f) {t} (hr : sendFlit s f = some t) :
    t.memOk := memOk_of_mem_eq (sendFlit_mem hr) hs

theorem windowFlit_memOk {s : State} (hs : s.memOk) (vf part pa data l) {t} (hr : windowFlit s vf part pa data l = some t) :
    t.memOk := memOk_of_mem_eq (windowFlit_mem hr) hs

theorem treeFlits_memOk {z : State} (hz : z.memOk) (part dst src l x y) :
    (treeFlits part dst src l x y z).memOk := memOk_of_mem_eq (treeFlits_mem ..) hz

theorem releaseLines_memOk {t : State} (ht : t.memOk) (obj) :
    (releaseLines t obj).memOk := memOk_of_mem_eq (releaseLines_mem ..) ht

theorem releaseRows_memOk {t : State} (ht : t.memOk) (rl va pitch n) :
    (releaseRows t rl va pitch n).memOk := memOk_of_mem_eq (releaseRows_mem ..) ht

theorem push_memOk {s : State} (hs : s.memOk) (n e l) : (push s n e l).memOk := memOk_of_mem_eq (push_mem ..) hs

theorem pushLand_memOk {s : State} (hs : s.memOk) (n e l cls reg vas) :
    (pushLand s n e l cls reg vas).memOk := memOk_of_mem_eq (pushLand_mem ..) hs

theorem heldOne_memOk {s : State} (hs : s.memOk) (wait spin) : (heldOne s wait spin).memOk := memOk_of_mem_eq (heldOne_mem ..) hs

theorem setPart_memOk {s : State} (hs : s.memOk) (p x) : (setPart s p x).memOk := memOk_of_mem_eq (setPart_mem ..) hs

theorem setVf_memOk {s : State} (hs : s.memOk) (vf e) : (setVf s vf e).memOk := memOk_of_mem_eq (setVf_mem ..) hs

theorem updCore_memOk {s : State} (hs : s.memOk) (n f) : (updCore s n f).memOk := memOk_of_mem_eq (updCore_mem ..) hs

/-! ### What the functions of Machine/State.lean keep -/

/-! ### What the functions of Machine/Memory.lean keep -/

theorem dropStash_memOk {s : State} (hs : s.memOk) (p keep) : (dropStash s p keep).memOk := by
  unfold dropStash
  exact hs

/-! ### What the functions of Machine/Translate.lean keep -/

theorem walkerWr_memOk {s : State} (hs : s.memOk) (pa n v) : (walkerWr s pa n v).memOk := by
  unfold walkerWr
  exact ite_memOk (engWr_memOk hs _ _ _ _) hs

theorem logAppend_memOk {s : State} (hs : s.memOk) (desc n entry) : (logAppend s desc n entry).memOk := by
  unfold logAppend
  refine ite_memOk hs ?_
  extract_lets fl base base' cap next
  exact ite_memOk hs (ite_memOk (engWr_memOk (walkerWr_memOk hs _ _ _) _ _ _ _) (engWr_memOk hs _ _ _ _))

theorem undoCopy_memOk {s : State} (hs : s.memOk) (desc vf page lvl) : (undoCopy s desc vf page lvl).memOk := by
  unfold undoCopy
  refine ite_memOk hs ?_
  extract_lets fl cap next db s1 s2
  have hs1 : s1.memOk := walkerWr_memOk hs _ _ _
  have hs2 : s2.memOk := walkerWr_memOk hs1 _ _ _
  exact ite_memOk hs (ite_memOk (engWr_memOk hs2 _ _ _ _) (engWr_memOk hs _ _ _ _))

theorem updateAd_memOk {s : State} (hs : s.memOk) (ea pte lvl vf kind) : (updateAd s ea pte lvl vf kind).memOk := by
  unfold updateAd
  extract_lets w dRise pte' s1 page s2
  have hs1 : s1.memOk := ite_memOk hs (engWr_memOk hs _ _ _ _)
  have hs2 : s2.memOk := undoCopy_memOk hs1 _ _ _ _
  exact ite_memOk (logAppend_memOk hs2 _ _ _) hs1

theorem translateMark_memOk {s : State} (hs : s.memOk) (va vf part prv size kind) {r}
    (hr : translateMark s va vf part prv size kind = .ok r) : r.1.memOk := by
  unfold translateMark at hr
  split at hr
  · cases hr
  split at hr
  · cases hr
    exact hs
  split at hr
  · cases hr
  cases hr
  exact updateAd_memOk hs _ _ _ _ _

/-! ### What the functions of Machine/Cache.lean keep -/

theorem dieDrops_memOk {s : State} (hs : s.memOk) (line die) : (dieDrops s line die).memOk := by
  unfold dieDrops
  exact hs

theorem dropWays_memOk {s : State} (hs : s.memOk) (die lo hi) : (dropWays s die lo hi).memOk := by
  unfold dropWays
  refine foldl_memOk (fun t4 x5 h6 => ?_) hs _
  refine letGo_memOk ?_ _ _
  exact h6

theorem dirRoom_memOk {s : State} (hs : s.memOk) (k) : (dirRoom s k).memOk := by
  unfold dirRoom
  refine ite_memOk hs ?_
  split
  · exact ite_memOk hs (freeEntryOf_memOk hs _)
  · exact hs

theorem filterRoom_memOk {s : State} (hs : s.memOk) (vf die k) : (filterRoom s vf die k).memOk := by
  unfold filterRoom
  extract_lets held
  clear_value held
  split
  · refine ite_memOk hs ?_
    extract_lets v s1
    have hs1 : s1.memOk := dieDrops_memOk hs _ _
    refine letGo_memOk ?_ _ _
    refine ite_memOk ?_ hs1
    split
    · exact takeWay_memOk hs1 _ _ _
    · exact hs1
  · exact hs

theorem touchStash_memOk {s : State} (hs : s.memOk) (write vf die pa) : (touchStash write vf die s pa).memOk := by
  unfold touchStash
  extract_lets k
  exact takeLine_memOk (filterRoom_memOk (settleLine_memOk hs _) _ _ _) _ _ _

theorem countWrites_memOk {s : State} {t : State} (ht : t.memOk) (r) : (countWrites r s t).memOk := by
  unfold countWrites
  exact ht

/-! ### What the functions of Machine/Gate.lean keep -/

theorem countRefusal_memOk {s : State} (hs : s.memOk) (part l) : (countRefusal s part l).memOk := by
  unfold countRefusal
  extract_lets p
  exact setPart_memOk hs _ _

theorem rise_memOk {s : State} (hs : s.memOk) (part vf x l) : (rise s part vf x l).memOk := by
  unfold rise
  extract_lets fl pa s1
  have hs1 : s1.memOk := raiseFrame_memOk hs _ _
  exact ite_memOk (logAppend_memOk hs1 _ _ _) hs1

/-! ### What the functions of Machine/Device.lean keep -/

theorem setMedia_memOk {s : State} (hs : s.memOk) (k m) : (setMedia s k m).memOk := by
  unfold setMedia
  exact hs

theorem setQl_memOk {s : State} (hs : s.memOk) (p q) : (setQl s p q).memOk := by
  unfold setQl
  exact hs

theorem draw_memOk {s : State} (hs : s.memOk) : (draw s).1.memOk := by
  unfold draw
  exact hs

theorem devRead_memOk {s : State} (hs : s.memOk) (off) {r} (hr : devRead s off = some r) : r.1.memOk := by
  unfold devRead at hr
  extract_lets d o ok m q at hr
  split at hr
  · split at hr
    · cases hr
      exact hs
    split at hr
    · cases hr
      exact hs
    · cases hr
  · split at hr
    · cases hr
      exact hs
    split at hr
    · cases hr
      exact hs
    split at hr
    · cases hr
      exact hs
    split at hr
    · cases hr
      exact hs
    split at hr
    · cases hr
      exact hs
    · cases hr
  · split at hr
    · cases hr
      exact hs
    split at hr
    · cases hr
      exact hs
    split at hr
    · cases hr
      exact hs
    split at hr
    · cases hr
      exact hs
    split at hr
    · cases hr
      exact hs
    · cases hr
  · split at hr
    · cases hr
      exact hs
    split at hr
    · cases hr
      exact hs
    split at hr
    · cases hr
      exact hs
    split at hr
    · cases hr
      exact hs
    · cases hr
  · split at hr
    · cases hr
      exact hs
    split at hr
    · cases hr
      exact hs
    split at hr
    · cases hr
      exact hs
    split at hr
    · cases hr
      exact hs
    · cases hr
  · split at hr
    · cases hr
    split at hr
    · cases hr
      exact hs
    · cases hr
      exact hs
    · cases hr
      exact hs
    · cases hr
      exact hs
    · cases hr
  · split at hr
    · cases hr
    split at hr
    · cases hr
      exact hs
    · cases hr
      exact hs
    · cases hr
      exact hs
    · cases hr
      exact hs
    · cases hr
  · split at hr
    · cases hr
      exact hs
    split at hr
    · cases hr
      exact hs
    · cases hr
  · cases hr

theorem putFlit_memOk {s : State} (hs : s.memOk) (p f) : (putFlit s p f).memOk := by
  unfold putFlit
  split
  rename_i e1
  have h2 := memOk_of_eq e1 (draw_memOk hs)
  extract_lets q s2 src
  have hs2 : s2.memOk := setQl_memOk h2 _ _
  exact hs2

theorem measure_memOk {t : State} (ht : t.memOk) (s) : (Machine.measure s t).memOk := by
  unfold Machine.measure
  extract_lets n src
  exact ite_memOk ht ht

theorem msiDropped_memOk {s : State} (hs : s.memOk) (port) : (msiDropped s port).memOk := by
  unfold msiDropped
  exact hs

theorem msiSet_memOk {s : State} (hs : s.memOk) (port n) : (msiSet s port n).memOk := by
  unfold msiSet
  exact ite_memOk hs (ite_memOk hs hs)

theorem msiRaiseReg_memOk {s : State} (hs : s.memOk) (port v l prv part) : (msiRaiseReg s port v l prv part).memOk := by
  unfold msiRaiseReg
  extract_lets n vf
  refine ite_memOk (msiDropped_memOk hs _) ?_
  refine ite_memOk (msiDropped_memOk hs _) ?_
  split
  · exact msiDropped_memOk (countRefusal_memOk hs _ _) _
  · exact msiSet_memOk hs _ _

theorem mediaReg_memOk {s : State} (hs : s.memOk) (k r v) : (mediaReg s k r v).memOk := by
  unfold mediaReg
  extract_lets m vf part good m1
  split
  · exact setMedia_memOk hs _ _
  · exact setMedia_memOk hs _ _
  · exact setMedia_memOk hs _ _
  · exact hs

theorem mediaWrite_memOk {s : State} (hs : s.memOk) (k r v) : (mediaWrite s k r v).memOk := by
  unfold mediaWrite
  extract_lets m
  exact ite_memOk (setMedia_memOk hs _ _) (mediaReg_memOk hs _ _ _)

theorem mediaStop_memOk {s : State} (hs : s.memOk) (k) : (mediaStop s k).memOk := by
  unfold mediaStop
  extract_lets m
  exact foldl_memOk (fun _ _ h3 => mediaReg_memOk h3 _ _ _) (setMedia_memOk hs _ _) _

theorem qlCtl_memOk {s : State} (hs : s.memOk) (p v) : (qlCtl s p v).memOk := by
  unfold qlCtl
  extract_lets q s1 src q1
  have hs1 : s1.memOk := setQl_memOk hs _ _
  exact ite_memOk (ite_memOk hs1 hs1) (setQl_memOk hs _ _)

theorem mcHeadWrite_memOk {s : State} (hs : s.memOk) (v) : (mcHeadWrite s v).memOk := by
  unfold mcHeadWrite
  extract_lets n
  exact ite_memOk hs hs

theorem mbWrite_memOk {s : State} (hs : s.memOk) (o v by_) {t} (hr : mbWrite s o v by_ = some t) : t.memOk := by
  unfold mbWrite at hr
  extract_lets d at hr
  split at hr
  · cases hr
    exact ite_memOk hs hs
  split at hr
  · cases hr
    exact ite_memOk hs hs
  split at hr
  · cases hr
    exact ite_memOk hs hs
  split at hr
  · cases hr
    exact hs
  split at hr
  · cases hr
    exact hs
  · cases hr

theorem devWriteBy_memOk {s : State} (hs : s.memOk) (off v l prv part port) {t} (hr : devWriteBy s off v l prv part port = some t)
    : t.memOk := by
  unfold devWriteBy at hr
  extract_lets o src p src' at hr
  split at hr
  · split at hr
    · cases hr
      exact hs
    split at hr
    · cases hr
      exact hs
    · cases hr
  · exact mbWrite_memOk hs _ _ _ hr
  · split at hr
    · cases hr
      exact mcHeadWrite_memOk hs _
    split at hr
    · cases hr
      exact hs
    · cases hr
  · split at hr
    · cases hr
      exact hs
    · cases hr
  · split at hr
    · cases hr
      exact hs
    · cases hr
  · split at hr
    · cases hr
      exact mediaWrite_memOk hs _ _ _
    · cases hr
  · split at hr
    · cases hr
    split at hr
    · cases hr
      exact hs
    · cases hr
      exact ite_memOk (setQl_memOk hs _ _) hs
    · cases hr
      exact hs
    · cases hr
      exact qlCtl_memOk hs _ _
    · cases hr
  · split at hr
    · cases hr
      exact msiRaiseReg_memOk hs _ _ _ _ _
    split at hr
    · cases hr
      exact hs
    · cases hr
  · cases hr

theorem devWrite_memOk {s : State} (hs : s.memOk) (off v l prv part) {t} (hr : devWrite s off v l prv part = some t) :
    t.memOk := by
  unfold devWrite at hr
  exact devWriteBy_memOk hs _ _ _ _ _ _ hr

/-! ### What the functions of Machine/Access.lean keep -/

theorem countGate_memOk {s : State} (hs : s.memOk) (part e) : (countGate s part e).memOk := by
  unfold countGate
  split
  · exact countRefusal_memOk hs _ _
  · exact hs

theorem orCount_memOk {s : State} {r : Except AErr State} (hs : s.memOk) (hr : ∀ t, r = .ok t → t.memOk) (part) :
    (orCount s part r).memOk := by
  unfold orCount
  split
  · exact hr _ rfl
  · exact countGate_memOk hs _ _

theorem freeBytes_memOk {s : State} (hs : s.memOk) (n) : (freeBytes s n).1.memOk := by
  unfold freeBytes
  exact hs

theorem makeRoom_memOk {s : State} (hs : s.memOk) (i pa) : (makeRoom s i pa).memOk := by
  unfold makeRoom
  split
  · exact ite_memOk hs (ite_memOk hs (dropLines_memOk hs _))
  · exact hs

theorem stashRead_memOk {s : State} (hs : s.memOk) (w i pa n pl write) {r} (hr : stashRead s w i pa n pl write = .ok r) :
    r.1.memOk := by
  unfold stashRead at hr
  split at hr
  · extract_lets a at hr
    split at hr
    · cases hr
    cases hr
    exact touchStash_memOk hs _ _ _ _
  split at hr
  · cases hr
  extract_lets s1 src at hr
  have hs1 : s1.memOk := touchStash_memOk hs _ _ _ _
  cases hr
  exact hs1

theorem readAt_memOk {s : State} (hs : s.memOk) (w va n x write) {r} (hr : readAt s w va n x write = .ok r) : r.1.memOk := by
  unfold readAt at hr
  extract_lets pl at hr
  split at hr
  · split at hr
    · cases hr
    · exact stashRead_memOk hs _ _ _ _ _ _ hr
  · exact stashRead_memOk (makeRoom_memOk hs _ _) _ _ _ _ _ _ hr
  split at hr
  · split at hr
    · cases hr
    cases hr
    exact ite_memOk (touchLine_memOk hs _ _ _ _) hs
  split at hr
  · split at hr
    · rename_i e1
      have h2 := devRead_memOk hs _ e1
      cases hr
      exact h2
    cases hr
  split at hr
  · cases hr
  split at hr
  rename_i e5
  have h6 := memOk_of_eq e5 (freeBytes_memOk (ite_memOk hs (getD_memOk (fun _ e8 => windowFlit_memOk hs _ _ _ _ _ e8) hs)) _)
  split at hr
  · cases hr
    exact h6
  cases hr
  exact h6

theorem stashWrite_memOk {s : State} (hs : s.memOk) (w i pa n v l pl prov x) {t}
    (hr : stashWrite s w i pa n v l pl prov x = .ok t) : t.memOk := by
  unfold stashWrite at hr
  split at hr
  · cases hr
  split at hr
  · cases hr
  extract_lets old s1 s2 src at hr
  have hs1 : s1.memOk := rise_memOk hs _ _ _ _
  have hs2 : s2.memOk := writePa_memOk (snoop_memOk (touchStash_memOk hs1 _ _ _ _) _ _ _) _ _ _
  cases hr
  exact hs2

theorem leavesTo_memOk {s : State} (hs : s.memOk) (vf part x n v l atomic) {t} (hr : leavesTo s vf part x n v l atomic = some t) :
    t.memOk := by
  unfold leavesTo at hr
  obtain ⟨u1, e2, rfl⟩ := Option.map_eq_some_iff.1 hr
  have h3 := windowFlit_memOk hs _ _ _ _ _ e2
  exact h3

theorem writeAt_memOk {s : State} (hs : s.memOk) (w va n v l prov x atomic) {t} (hr : writeAt s w va n v l prov x atomic = .ok t)
    : t.memOk := by
  unfold writeAt at hr
  extract_lets pl s1 s2 at hr
  have hs1 : s1.memOk := rise_memOk hs _ _ _ _
  have hs2 : s2.memOk := ite_memOk (touchLine_memOk hs1 _ _ _ _) (uncacheLine_memOk hs1 _)
  split at hr
  · cases hr
  split at hr
  · cases hr
  split at hr
  · cases hr
  split at hr
  · split at hr
    · cases hr
    · exact stashWrite_memOk hs _ _ _ _ _ _ _ _ _ hr
  · exact stashWrite_memOk (makeRoom_memOk hs _ _) _ _ _ _ _ _ _ _ _ hr
  split at hr
  · split at hr
    · cases hr
    split at hr
    · cases hr
    cases hr
    exact writePa_memOk (snoop_memOk hs2 _ _ _) _ _ _
  split at hr
  · split at hr
    · rename_i e1
      have h2 := devWrite_memOk hs _ _ _ _ _ e1
      cases hr
      exact h2
    cases hr
  split at hr
  · rename_i e5
    have h6 := leavesTo_memOk hs _ _ _ _ _ _ _ e5
    cases hr
    exact h6
  cases hr

theorem readVa_memOk {s : State} (hs : s.memOk) (w va n kind) {r} (hr : readVa s w va n kind = .ok r) : r.1.memOk := by
  unfold readVa at hr
  split at hr
  · cases hr
  rename_i e3
  exact readAt_memOk (translateMark_memOk hs _ _ _ _ _ _ e3) _ _ _ _ _ hr

theorem readObj_memOk {s : State} (hs : s.memOk) (w va) {r} (hr : readObj s w va = .ok r) : r.1.memOk := by
  unfold readObj at hr
  split at hr
  · cases hr
  rename_i e3
  exact readAt_memOk (translateMark_memOk hs _ _ _ _ _ _ e3) _ _ _ _ _ hr

theorem writeVa_memOk {s : State} (hs : s.memOk) (w va n v l prov atomic) {t} (hr : writeVa s w va n v l prov atomic = .ok t) :
    t.memOk := by
  unfold writeVa at hr
  split at hr
  · cases hr
  rename_i e3
  exact writeAt_memOk (translateMark_memOk hs _ _ _ _ _ _ e3) _ _ _ _ _ _ _ _ hr

theorem markGo_memOk {y : State} (hy : y.memOk) (w kind x) : (markGo w kind x y).memOk := by
  fun_induction markGo w kind x y with
  | case1 => exact hy
  | case2 p l s t v h ih => exact ih (translateMark_memOk hy _ _ _ _ _ _ h)
  | case3 => exact hy

/-- What the walk of a write that fails has set. -/
theorem translateMark_or_memOk {s : State} (hs : s.memOk) (va vf part prv size kind) :
    (match translateMark s va vf part prv size kind with | .ok (t, _) => t | .error _ => s).memOk := by
  split
  · next h => exact translateMark_memOk hs _ _ _ _ _ _ h
  · exact hs

theorem orMark_memOk {s : State} {r : Except AErr State} (hs : s.memOk) (hr : ∀ t, r = .ok t → t.memOk) (w va n) :
    (orMark s w va n r).memOk := by
  unfold orMark
  split
  · exact hr _ rfl
  · exact countGate_memOk (translateMark_or_memOk hs _ _ _ _ _ _) _ _

theorem readSpan_memOk {s : State} (hs : s.memOk) (w kind x y z) {r} (hr : readSpan s w kind x y z = .ok r) : r.1.memOk := by
  fun_induction readSpan s w kind x y z generalizing r
  · cases hr
    exact hs
  · cases hr
  · cases hr
  · rename_i e8 _ _ _ e9 ih10
    have h11 := readVa_memOk hs _ _ _ _ e8
    have h12 := ih10 h11 e9
    cases hr
    exact h12

theorem markSpan_memOk {s : State} (hs : s.memOk) (w va n kind) : (markSpan s w va n kind).memOk := by
  unfold markSpan
  exact markGo_memOk hs _ _ _

theorem readBytes_memOk {s : State} (hs : s.memOk) (w va n kind) {r} (hr : readBytes s w va n kind = .ok r) : r.1.memOk := by
  unfold readBytes at hr
  split at hr
  · rename_i e1 _
    cases hr
    exact readSpan_memOk hs _ _ _ _ _ e1
  · cases hr
  cases hr

theorem writeSpan_memOk {s : State} (hs : s.memOk) (w l prov x y z x4) {t} (hr : writeSpan s w l prov x y z x4 = .ok t) :
    t.memOk := by
  fun_induction writeSpan s w l prov x y z x4 generalizing t
  · cases hr
    exact hs
  · cases hr
  · rename_i e3 ih4
    have h5 := writeVa_memOk hs _ _ _ _ _ _ _ e3
    exact ih4 h5 hr

theorem writeBytes_memOk {s : State} (hs : s.memOk) (w va n v l prov) {t} (hr : writeBytes s w va n v l prov = .ok t) :
    t.memOk := by
  unfold writeBytes at hr
  split at hr
  · rename_i e1 _
    cases hr
    exact writeSpan_memOk hs _ _ _ _ _ _ _ e1
  · cases hr
  cases hr

/-! ### What the functions of Machine/Regs.lean keep -/

/-! ### What the functions of Machine/SysRegs.lean keep -/

theorem sysWrite_memOk {s : State} (hs : s.memOk) (n v l) : (sysWrite s n v l).memOk := by
  unfold sysWrite
  extract_lets c pn p cr pr nv c1 s1 src src' old new s1' first k src''
  have hs1 : s1.memOk := dropLines_memOk hs _
  have hs1' : s1'.memOk := dropWays_memOk hs _ _ _
  split
  · exact hs
  · exact hs
  · exact hs
  · exact hs1
  · exact hs
  · exact setPart_memOk hs _ _
  · exact setPart_memOk hs _ _
  · exact hs1'
  · exact hs
  · exact setPart_memOk hs _ _
  · exact hs
  · exact hs
  · exact hs
  · exact setPart_memOk hs _ _
  · exact setPart_memOk hs _ _
  · exact setPart_memOk hs _ _
  · exact setPart_memOk hs _ _
  · exact setPart_memOk hs _ _
  · exact setPart_memOk hs _ _
  · exact setPart_memOk hs _ _
  · exact setPart_memOk hs _ _
  · exact setPart_memOk hs _ _
  · exact setVf_memOk hs _ _
  · exact ite_memOk (updCore_memOk hs _ _) hs
  · exact hs
  · exact setPart_memOk hs _ _
  · exact hs
  · exact hs
  · exact hs
  · exact hs
  · exact hs
  · exact hs

/-! ### What the functions of Machine/Frame.lean keep -/

theorem writeRecord_memOk {s : State} (hs : s.memOk) (pa r l) : (writeRecord s pa r l).memOk := by
  unfold writeRecord
  exact engWr_memOk hs _ _ _ _

theorem loseBytes_memOk {s : State} (hs : s.memOk) (pa n) : (loseBytes s pa n).memOk := by
  unfold loseBytes
  split
  · refine ite_memOk ?_ hs
    refine writePa_memOk ?_ _ _ _
    exact hs
  · exact hs

theorem frameLine_memOk {s : State} (hs : s.memOk) (w l x n v) : (frameLine w l s x n v).1.memOk := by
  unfold frameLine
  split
  · exact loseBytes_memOk (countRefusal_memOk hs _ _) _ _
  split
  · split
    · exact engWr_memOk hs _ _ _ _
    · exact loseBytes_memOk (raiseFrame_memOk hs _ _) _ _
  split
  · rename_i e1
    exact leavesTo_memOk hs _ _ _ _ _ _ _ e1
  exact loseBytes_memOk hs _ _

theorem frameLines_memOk {y : State} (hy : y.memOk) (w l x z x4 x5) : (frameLines w l x y z x4 x5).1.memOk := by
  fun_induction frameLines w l x y z x4 x5 with
  | case1 => exact hy
  | case2 s k x n v c s1 ok h1 s2 ok2 h2 ih =>
    have hs1 := memOk_of_eq h1 (frameLine_memOk hy _ _ _ _ _)
    have hs2 := memOk_of_eq h2 (ih hs1)
    exact hs2

theorem framePut_memOk {s : State} (hs : s.memOk) (w va n v l) : (framePut s w va n v l).1.memOk := by
  unfold framePut
  split
  · exact loseBytes_memOk hs _ _
  rename_i e3
  split
  · exact engWr_memOk (translateMark_memOk hs _ _ _ _ _ _ e3) _ _ _ _
  · exact frameLines_memOk (translateMark_memOk hs _ _ _ _ _ _ e3) _ _ _ _ _ _

theorem frameSpan_memOk {y : State} (hy : y.memOk) (w l x z x4 x5) : (frameSpan w l x y z x4 x5).1.memOk := by
  fun_induction frameSpan w l x y z x4 x5 with
  | case1 => exact hy
  | case2 => exact hy
  | case3 s k va n v _ c s1 ok h1 s2 ok2 h2 ih =>
    have hs1 := memOk_of_eq h1 (framePut_memOk hy _ _ _ _ _)
    have hs2 := memOk_of_eq h2 (ih hs1)
    exact hs2

theorem frameWrite_memOk {a : State × Bool} (ha : a.1.memOk) (w frm b) : (frameWrite w frm a b).1.memOk := by
  unfold frameWrite
  split
  rename_i e1
  have h2 := memOk_of_eq e1 (frameSpan_memOk ha _ _ _ _ _ _)
  exact h2

theorem frameWriteGo_memOk {y : State × Bool} (hy : y.1.memOk) (w frm x) : (frameWriteGo w frm x y).1.memOk := by
  fun_induction frameWriteGo w frm x y with
  | case1 => exact hy
  | case2 b bs s ok ih => exact ih (frameWrite_memOk hy _ _ _)

theorem frameWriteAll_memOk {s : State} (hs : s.memOk) (w frm bs) : (frameWriteAll w frm s bs).1.memOk := by
  unfold frameWriteAll
  exact frameWriteGo_memOk hs _ _ _

/-! ### What the functions of Machine/Ops.lean keep -/

theorem arrive_memOk {s : State} (hs : s.memOk) (a l) : (arrive s a l).memOk := by
  unfold arrive
  exact ite_memOk (updCore_memOk hs _ _) hs

theorem applyEff_memOk {s : State} (hs : s.memOk) (e) : (applyEff s e).memOk := by
  unfold applyEff
  extract_lets c cr c1
  split
  · exact hs
  · exact hs
  · exact hs
  · exact hs
  · exact hs
  · exact hs
  · exact hs
  · exact hs
  · exact hs
  · exact hs
  · exact hs
  · exact hs
  · exact hs
  · exact hs
  · exact hs
  · exact arrive_memOk hs _ _
  · exact sysWrite_memOk hs _ _ _
  · exact hs
  · exact hs
  · exact hs
  · exact hs
  · exact hs
  · exact hs
  · exact hs
  · exact hs
  · exact hs
  · exact foldl_memOk (fun _ _ h3 => updCore_memOk h3 _ _) hs _

theorem landDue_memOk {s : State} (hs : s.memOk) (t) : (landDue t s).memOk := by
  unfold landDue
  extract_lets now src
  refine foldl_memOk (fun t4 x5 h6 => ?_) ?_ _
  · exact applyEff_memOk h6 _
  · exact hs

theorem landAll_memOk {s : State} (hs : s.memOk) : (landAll s).memOk := by
  unfold landAll
  refine foldl_memOk (fun t4 x5 h6 => ?_) ?_ _
  · exact applyEff_memOk h6 _
  · exact hs

theorem mcAppend_memOk {s : State} (hs : s.memOk) (kind src own cause addr info) :
    (mcAppend s kind src own cause addr info).memOk := by
  unfold mcAppend
  exact ite_memOk hs hs

theorem postRecord_memOk {s : State} (hs : s.memOk) (r cause info) : (postRecord s r cause info).memOk := by
  unfold postRecord
  exact ite_memOk (mcAppend_memOk hs _ _ _ _ _ _) hs

theorem stageAdd_memOk {s : State} (hs : s.memOk) (part stg off delta l) : (stageAdd s part stg off delta l).memOk := by
  unfold stageAdd
  split
  · exact hs
  · exact engWr_memOk hs _ _ _ _

theorem stageSub_memOk {s : State} (hs : s.memOk) (part stg off) : (stageSub s part stg off).memOk := by
  unfold stageSub
  split
  · exact hs
  · exact ite_memOk hs (stageAdd_memOk hs _ _ _ _ _)

theorem ringAppend_memOk {s : State} (hs : s.memOk) (part stg pa cause l) {t} (hr : ringAppend s part stg pa cause l = some t) :
    t.memOk := by
  unfold ringAppend at hr
  split at hr
  · cases hr
  extract_lets base cap head tail s1 e at hr
  have hs1 : s1.memOk := engWr_memOk hs _ _ _ _
  split at hr
  · cases hr
  cases hr
  exact engWr_memOk hs1 _ _ _ _

theorem quiesceCheck_memOk {s : State} (hs : s.memOk) (p) : (quiesceCheck s p).memOk := by
  unfold quiesceCheck
  extract_lets x
  exact ite_memOk (setPart_memOk hs _ _) hs

theorem stageLeave_memOk {s : State} (hs : s.memOk) (r) : (stageLeave s r).memOk := by
  unfold stageLeave
  exact quiesceCheck_memOk (stageSub_memOk hs _ _ _) _

theorem readyAdd_memOk {s : State} (hs : s.memOk) (die part stg pa) : (readyAdd s die part stg pa).memOk := by
  unfold readyAdd
  exact hs

/-- Its callees stand as variables with what they keep: the kernel would otherwise run them to compare two forms of the term. -/
theorem saveFrame_memOk {s : State} (hs : s.memOk) (cause ql) : (saveFrame s cause ql).1.memOk := by
  have hland := @landDue_memOk
  have happly := @applyEff_memOk
  have hwrite := @frameWriteAll_memOk
  generalize hf : saveFrame = f
  delta saveFrame at hf
  generalize landDue = land at hf hland
  generalize applyEff = apply at hf happly
  generalize releaseCtx = release at hf
  generalize frameWriteAll = write at hf hwrite
  subst hf
  grind [foldl_memOk]

/-- Its callees stand as variables with what they keep: the kernel would otherwise run them to compare two forms of the term. -/
theorem suspendQuiet_memOk {s : State} (hs : s.memOk) (cause ql) : (suspendQuiet s cause ql).1.memOk := by
  have hsave := saveFrame_memOk hs
  generalize hf : suspendQuiet = f
  delta suspendQuiet at hf
  generalize saveFrame = save at hf hsave
  revert save
  refine id ?_
  rintro save rfl hsave
  grind [stageLeave_memOk, writeRecord_memOk]

/-- Its callees stand as variables with what they keep: the kernel would otherwise run them to compare two forms of the term. -/
theorem urgentSuspend_memOk {s : State} (hs : s.memOk) (cause info ql) : (urgentSuspend s cause info ql).memOk := by
  have hsusp := suspendQuiet_memOk hs
  generalize hf : urgentSuspend = f
  delta urgentSuspend at hf
  generalize suspendQuiet = susp at hf hsusp
  revert susp
  refine id ?_
  rintro susp rfl hsusp
  exact postRecord_memOk (hsusp _ _) _ _ _

theorem takeTraps_memOk {s : State} (hs : s.memOk) (cause info addr rest) : (takeTraps s cause info addr rest).memOk := by
  unfold takeTraps
  extract_lets me s' s0 recOf s1 src
  have hs' : s'.memOk := ite_memOk (countRefusal_memOk hs _ _) hs
  have hs0 : s0.memOk := ite_memOk hs' hs'
  have hs1 : s1.memOk := by
    unfold s1
    refine ite_memOk ?_ (urgentSuspend_memOk hs0 _ _ _)
    refine focus_memOk ?_ _
    refine foldl_memOk (fun t19 x20 h21 => ?_) hs0 _
    extract_lets k t1
    have ht1 : t1.memOk := focus_memOk h21 _
    refine ite_memOk ht1 ?_
    refine urgentSuspend_memOk ?_ _ _ _
    exact ite_memOk ht1 ht1
  exact hs1

theorem takeTrap_memOk {s : State} (hs : s.memOk) (cause info addr) : (takeTrap s cause info addr).memOk := by
  unfold takeTrap
  exact takeTraps_memOk hs _ _ _ _

theorem liveMark_memOk {s : State} (hs : s.memOk) (pc n) : (liveMark s pc n).memOk := by
  unfold liveMark
  extract_lets mark s1
  have hmark {t : State} (ht : t.memOk) (va size k) : (mark t va size k).memOk := translateMark_or_memOk ht _ _ _ _ _ _
  have hs1 : s1.memOk := ite_memOk hs (hmark hs _ _ _)
  split
  · exact ite_memOk hs1 (hmark hs1 _ _ _)
  · exact hs1

/-- Its callees stand as variables with what they keep: the kernel would otherwise run them to compare two forms of the term. -/
theorem leaveSafely_memOk {s : State} (hs : s.memOk) (rpc spx st wk warg wobj pin) :
    (leaveSafely s rpc spx st wk warg wobj pin).memOk := by
  have hland := @landAll_memOk
  have hmark := @liveMark_memOk
  have hall := @frameWriteAll_memOk
  have hone := @frameWrite_memOk
  generalize hf : leaveSafely = f
  delta leaveSafely at hf
  generalize landAll = land at hf hland
  generalize liveMark = mark at hf hmark
  generalize frameWriteAll = all at hf hall
  generalize frameWrite = one at hf hone
  generalize releaseCtx = release at hf
  subst hf
  grind [writeRecord_memOk, stageLeave_memOk, postRecord_memOk, readyAdd_memOk]

theorem safeSuspend_memOk {s : State} (hs : s.memOk) (rpc spx st wk warg wobj pin) :
    (safeSuspend s rpc spx st wk warg wobj pin).memOk := by
  unfold safeSuspend
  split
  · refine takeTrap_memOk ?_ _ _ _
    exact hs
  · exact leaveSafely_memOk hs _ _ _ _ _ _ _

theorem setMark_memOk {s : State} (hs : s.memOk) (m) : (setMark s m).memOk := by
  unfold setMark
  exact hs

theorem spinSuspend_memOk {s : State} (hs : s.memOk) {t} (hr : spinSuspend s = some t) : t.memOk := by
  unfold spinSuspend at hr
  split at hr
  · split at hr
    · cases hr
      exact safeSuspend_memOk hs _ _ _ _ _ _ _
    · cases hr
  · cases hr

theorem spinIn_memOk {s : State} (hs : s.memOk) (w) : (spinIn s w).memOk :=
  getD_memOk (fun _ h => spinSuspend_memOk (show State.memOk { s with core := { s.core with spinW := some w } } from hs) h) hs

theorem settle_memOk {s : State} {x : Act} (hs : s.memOk) (hx : ActOk x) : OutOk (settle s x) := by
  unfold settle
  split
  · exact outOk_next (hx.1 _ rfl)
  · exact outOk_next (takeTrap_memOk hs _ _ _)
  · exact outOk_next (heldOne_memOk hs _ _)
  · exact outOk_next (heldOne_memOk hs _ _)
  · extract_lets t src
    have ht : t.memOk := heldOne_memOk hs _ _
    exact outOk_next ht
  · extract_lets get
    exact outOk_next (takeTraps_memOk hs _ _ _ _)
  · refine outOk_next ?_
    refine heldOne_memOk ?_ _ _
    exact hs
  · exact outOk_next (spinIn_memOk hs _)
  · exact outOk_next (heldOne_memOk (hx.2 _ rfl _ _ rfl) _ _)
  · exact outOk_next (spinIn_memOk (hx.2 _ rfl _ _ rfl) _)
  extract_lets x
  refine outOk_next ?_
  refine takeTrap_memOk ?_ _ _ _
  exact hs

theorem illegal_stopOk {s : State} (sub code) : StopOk (illegal s sub code) := by
  unfold illegal
  exact stopOk_trap

theorem privileged_stopOk {s : State} (num) : StopOk (privileged s num) := by
  unfold privileged
  exact stopOk_trap

theorem accStop_stopOk {s : State} (e va sz st am) : StopOk (accStop s e va sz st am) := by
  unfold accStop
  extract_lets i
  split
  · exact stopOk_trap
  · split
    · exact stopOk_trap
    · exact stopOk_trap
  · exact stopOk_trap
  · exact stopOk_trap
  · exact stopOk_trap
  · exact stopOk_trap
  · exact stopOk_hold
  · exact stopOk_trap

theorem hurtStop_stopOk {t : State} (l) {e} (hr : hurtStop t l = some e) : StopOk e := by
  unfold hurtStop at hr
  obtain ⟨p, -, hp⟩ := List.exists_of_findSome?_eq_some hr
  obtain ⟨a, -, rfl⟩ := Option.map_eq_some_iff.1 hp
  exact stopOk_trap

/-- A word whose structures can be read acts as it does; one that meets damage stops. -/
theorem unhurt_actOk {t : State} {k : Act} (hk : ActOk k) (l) : ActOk (unhurt t l k) := by
  unfold unhurt
  split
  · exact actOk_error (hurtStop_stopOk _ ‹_›)
  · exact hk

theorem unhurt_resOk {α : Type} {t : State} {k : Except Stop (State × α)} (hk : ResOk k) (l) : ResOk (unhurt t l k) := by
  unfold unhurt
  split
  · exact resOk_error (hurtStop_stopOk _ ‹_›)
  · exact hk

theorem unhurt_stopOk {α : Type} {t : State} {k : Except Stop α} (hk : ∀ e, k = .error e → StopOk e) (l) {e}
    (hr : unhurt t l k = .error e) : StopOk e := by
  unfold unhurt at hr
  split at hr
  · rename_i e1
    have h2 := hurtStop_stopOk _ e1
    cases hr
    exact h2
  exact hk _ hr

theorem returnRecord_memOk {s : State} (hs : s.memOk) (pa r) : (returnRecord s pa r).1.memOk := by
  unfold returnRecord
  split
  · exact hs
  rename_i e3
  exact writeRecord_memOk (ringAppend_memOk hs _ _ _ _ _ e3) _ _ _

/-! ### What the functions of Machine/Operands.lean keep -/

theorem unprivileged_stopOk {s : State} {a : Act} (ha : ActOk a) : StopOk (unprivileged s a) := by
  unfold unprivileged
  split
  · split
    · exact stopOk_trap
    · exact privileged_stopOk _
  · exact privileged_stopOk _

theorem tileChk_memOk {chk : Option Stop} {s : State} {act : State → Act} (hchk : ∀ e, chk = some e → StopOk e) (hs : s.memOk)
    (hact : ∀ t, t.memOk → ActOk (act t)) (i) : OutOk (tileChk i chk s act) := by
  unfold tileChk
  split
  · exact settle_memOk hs (actOk_error (hchk _ rfl))
  refine outOk_ite ?_ ?_
  · refine settle_memOk hs ?_
    refine actOk_error ?_
    split
    · exact unprivileged_stopOk (hact _ hs)
    · exact privileged_stopOk _
  extract_lets t
  exact outOk_ite (settle_memOk hs (hact _ hs)) (outOk_next hs)

/-- What a word that is not well formed traps with carries no state. -/
theorem illegalUnless_stopOk {s : State} {p : Prop} [Decidable p] {sub} {e : Stop}
    (h : (if p then none else some (illegal s sub)) = some e) : StopOk e := by
  split at h
  · cases h
  · cases h
    exact illegal_stopOk _ _

theorem tile_memOk {s : State} {act : State → Act} (hs : s.memOk) (hact : ∀ t, t.memOk → ActOk (act t)) (i wf) :
    OutOk (tile i wf s act) := by
  unfold tile
  exact tileChk_memOk (fun _ h => illegalUnless_stopOk h) hs hact _

theorem tileAlways_memOk {s : State} {act : Bool → State → Act} (hs : s.memOk) (hact : ∀ b t, t.memOk → ActOk (act b t)) (i) :
    OutOk (tileAlways i s act) := by
  unfold tileAlways
  exact outOk_ite (settle_memOk hs (actOk_error (privileged_stopOk _))) (settle_memOk hs (hact _ _ hs))

theorem resultS_memOk {s : State} (hs : s.memOk) (i d n x) : (resultS s i d n x).memOk := by
  unfold resultS
  exact push_memOk hs _ _ _

theorem resultA_memOk {s : State} (hs : s.memOk) (i d x) : (resultA s i d x).memOk := by
  unfold resultA
  exact push_memOk hs _ _ _

/-! ### What the functions of Machine/Address.lean keep -/

theorem execAadd_memOk {s : State} (hs : s.memOk) (q d a b) : OutOk (execAadd q d a b s) := by
  unfold execAadd
  exact tile_memOk hs (fun _ h2 => actOk_ok (resultA_memOk h2 _ _ _)) _ _

theorem execAaddi_memOk {s : State} (hs : s.memOk) (q d a i) : OutOk (execAaddi q d a i s) := by
  unfold execAaddi
  exact tile_memOk hs (fun _ h2 => actOk_ok (resultA_memOk h2 _ _ _)) _ _

theorem execAsub_memOk {s : State} (hs : s.memOk) (q d a b) : OutOk (execAsub q d a b s) := by
  unfold execAsub
  exact tile_memOk hs (fun _ h2 => actOk_ok (resultS_memOk h2 _ _ _ _)) _ _

theorem execAset_memOk {s : State} (hs : s.memOk) (q d b) : OutOk (execAset q d b s) := by
  unfold execAset
  exact tile_memOk hs (fun _ h2 => actOk_ok (resultA_memOk h2 _ _ _)) _ _

theorem execAhi_memOk {s : State} (hs : s.memOk) (q d i) : OutOk (execAhi q d i s) := by
  unfold execAhi
  exact tile_memOk hs (fun _ h2 => actOk_ok (resultA_memOk h2 _ _ _)) _ _

theorem execAalign_memOk {s : State} (hs : s.memOk) (q d a n) : OutOk (execAalign q d a n s) := by
  unfold execAalign
  exact tile_memOk hs (fun _ h2 => actOk_ok (resultA_memOk h2 _ _ _)) _ _

theorem execAget_memOk {s : State} (hs : s.memOk) (q d a h) : OutOk (execAget q d a h s) := by
  unfold execAget
  refine tile_memOk hs (fun t3 h4 => ?_) _ _
  extract_lets x
  exact actOk_ok (resultS_memOk h4 _ _ _ _)

/-! ### What the functions of Machine/MemAccess.lean keep -/

theorem landRoom_memOk {s : State} {act : Act} (hact : ActOk act) : ActOk (landRoom s act) := by
  unfold landRoom
  exact actOk_ite (actOk_error stopOk_hold) hact

theorem loadLand_memOk {t : State} (ht : t.memOk) (i va size l cls reg eff) : ActOk (loadLand i va size l cls reg eff t) := by
  unfold loadLand
  refine actOk_ite (actOk_error (accStop_stopOk _ _ _ _ _)) ?_
  refine landRoom_memOk ?_
  split
  · exact actOk_error (accStop_stopOk _ _ _ _ _)
  rename_i e3
  exact actOk_ok (readBytes_memOk ht _ _ _ _ e3)

theorem loadS_memOk {s : State} (hs : s.memOk) (i d a l disp size conv) : OutOk (loadS i d a l disp size conv s) := by
  unfold loadS
  exact tile_memOk hs (fun _ h2 => loadLand_memOk h2 _ _ _ _ _ _ _) _ _

theorem storeS_memOk {s : State} (hs : s.memOk) (i v a disp size) : OutOk (storeS i v a disp size s) := by
  unfold storeS
  refine tile_memOk hs (fun t3 h4 => ?_) _ _
  extract_lets va
  refine actOk_ite (actOk_error (accStop_stopOk _ _ _ _ _)) ?_
  split
  · exact actOk_error (accStop_stopOk _ _ _ _ _)
  rename_i e9
  exact actOk_ok (writeBytes_memOk h4 _ _ _ _ _ _ e9)

theorem execLdI8_memOk {s : State} (hs : s.memOk) (q d a l i) : OutOk (execLdI8 q d a l i s) := by
  unfold execLdI8
  exact loadS_memOk hs _ _ _ _ _ _ _

theorem execLdI16_memOk {s : State} (hs : s.memOk) (q d a l i) : OutOk (execLdI16 q d a l i s) := by
  unfold execLdI16
  exact loadS_memOk hs _ _ _ _ _ _ _

theorem execLdI32_memOk {s : State} (hs : s.memOk) (q d a l i) : OutOk (execLdI32 q d a l i s) := by
  unfold execLdI32
  exact loadS_memOk hs _ _ _ _ _ _ _

theorem execLdD_memOk {s : State} (hs : s.memOk) (q d a l i) : OutOk (execLdD q d a l i s) := by
  unfold execLdD
  exact loadS_memOk hs _ _ _ _ _ _ _

theorem execLdN8_memOk {s : State} (hs : s.memOk) (q d a l i) : OutOk (execLdN8 q d a l i s) := by
  unfold execLdN8
  exact loadS_memOk hs _ _ _ _ _ _ _

theorem execLdN16_memOk {s : State} (hs : s.memOk) (q d a l i) : OutOk (execLdN16 q d a l i s) := by
  unfold execLdN16
  exact loadS_memOk hs _ _ _ _ _ _ _

theorem execLdN32_memOk {s : State} (hs : s.memOk) (q d a l i) : OutOk (execLdN32 q d a l i s) := by
  unfold execLdN32
  exact loadS_memOk hs _ _ _ _ _ _ _

theorem execStB_memOk {s : State} (hs : s.memOk) (q v a i) : OutOk (execStB q v a i s) := by
  unfold execStB
  exact storeS_memOk hs _ _ _ _ _

theorem execStH_memOk {s : State} (hs : s.memOk) (q v a i) : OutOk (execStH q v a i s) := by
  unfold execStH
  exact storeS_memOk hs _ _ _ _ _

theorem execStW_memOk {s : State} (hs : s.memOk) (q v a i) : OutOk (execStW q v a i s) := by
  unfold execStW
  exact storeS_memOk hs _ _ _ _ _

theorem execStD_memOk {s : State} (hs : s.memOk) (q v a i) : OutOk (execStD q v a i s) := by
  unfold execStD
  exact storeS_memOk hs _ _ _ _ _

theorem amo_memOk {s : State} (hs : s.memOk) (i wf d a l w f) : OutOk (amo i wf d a l w f s) := by
  unfold amo
  refine tile_memOk hs (fun t3 h4 => ?_) _ _
  extract_lets size m va
  refine actOk_ite (actOk_error (accStop_stopOk _ _ _ _ _)) ?_
  refine landRoom_memOk ?_
  split
  · exact actOk_error (accStop_stopOk _ _ _ _ _)
  rename_i e9
  extract_lets new lab
  split
  · exact actOk_error (accStop_stopOk _ _ _ _ _)
  rename_i e13
  exact actOk_ok (pushLand_memOk (writeVa_memOk (readVa_memOk h4 _ _ _ _ e9) _ _ _ _ _ _ _ e13) _ _ _ _ _ _)

theorem execAmoAdd_memOk {s : State} (hs : s.memOk) (q d a l w) : OutOk (execAmoAdd q d a l w s) := by
  unfold execAmoAdd
  exact amo_memOk hs _ _ _ _ _ _ _

theorem execAmoAnd_memOk {s : State} (hs : s.memOk) (q d a l w) : OutOk (execAmoAnd q d a l w s) := by
  unfold execAmoAnd
  exact amo_memOk hs _ _ _ _ _ _ _

theorem execAmoOr_memOk {s : State} (hs : s.memOk) (q d a l w) : OutOk (execAmoOr q d a l w s) := by
  unfold execAmoOr
  exact amo_memOk hs _ _ _ _ _ _ _

theorem execAmoXor_memOk {s : State} (hs : s.memOk) (q d a l w) : OutOk (execAmoXor q d a l w s) := by
  unfold execAmoXor
  exact amo_memOk hs _ _ _ _ _ _ _

theorem execAmoMin_memOk {s : State} (hs : s.memOk) (q d a l w) : OutOk (execAmoMin q d a l w s) := by
  unfold execAmoMin
  exact amo_memOk hs _ _ _ _ _ _ _

theorem execAmoMax_memOk {s : State} (hs : s.memOk) (q d a l w) : OutOk (execAmoMax q d a l w s) := by
  unfold execAmoMax
  exact amo_memOk hs _ _ _ _ _ _ _

theorem execAmoMinn_memOk {s : State} (hs : s.memOk) (q d a l w) : OutOk (execAmoMinn q d a l w s) := by
  unfold execAmoMinn
  exact amo_memOk hs _ _ _ _ _ _ _

theorem execAmoMaxn_memOk {s : State} (hs : s.memOk) (q d a l w) : OutOk (execAmoMaxn q d a l w s) := by
  unfold execAmoMaxn
  exact amo_memOk hs _ _ _ _ _ _ _

theorem execAmoSwap_memOk {s : State} (hs : s.memOk) (q d a l w) : OutOk (execAmoSwap q d a l w s) := by
  unfold execAmoSwap
  exact amo_memOk hs _ _ _ _ _ _ _

theorem execAmoCas_memOk {s : State} (hs : s.memOk) (q d a l w) : OutOk (execAmoCas q d a l w s) := by
  unfold execAmoCas
  exact amo_memOk hs _ _ _ _ _ _ _

/-! ### What the functions of Machine/Vector.lean keep -/

theorem putV_memOk {t : State} (ht : t.memOk) (k d w n act es grp) : (putV t k d w n act es grp).memOk := by
  unfold putV
  extract_lets mask x r
  exact push_memOk ht _ _ _

theorem putFlags_memOk {t : State} (ht : t.memOk) (k n f d) : (putFlags t k n f d).memOk := by
  unfold putFlags
  exact push_memOk ht _ _ _

theorem vWord_memOk {s : State} {act : VCtx → State → Act} (hs : s.memOk) (hact : ∀ k t, t.memOk → ActOk (act k t)) (i z m ok) :
    OutOk (vWord i z m ok s act) := by
  unfold vWord
  exact tileChk_memOk (fun _ h => illegalUnless_stopOk h) hs (fun t ht => hact _ t ht) _

theorem vMap_memOk {s : State} (hs : s.memOk) (i z m d n fl ok f) : OutOk (vMap i z m d n fl ok f s) := by
  unfold vMap
  refine vWord_memOk hs (fun x4 t5 h6 => ?_) _ _ _ _
  extract_lets es t1
  have ht1 : t1.memOk := putV_memOk h6 _ _ _ _ _ _ _
  exact actOk_ok (ite_memOk (putFlags_memOk ht1 _ _ _ _) ht1)

theorem vAlign_memOk {t : State} {act : Act} (hact : ActOk act) (bad sz st l) : ActOk (vAlign t bad sz st l act) := by
  unfold vAlign
  refine actOk_ite ?_ hact
  split
  · exact actOk_error (accStop_stopOk _ _ _ _ _)
  split
  · exact actOk_error (accStop_stopOk _ _ _ _ _)
  · exact hact

theorem sizedStop_stopOk {t : State} (e va sz st) : StopOk (sizedStop t e va sz st) := by
  unfold sizedStop
  split
  · exact stopOk_trap
  · exact accStop_stopOk _ _ _ _ _

theorem vStop_stopOk {t : State} (e va sz st l f) : StopOk (vStop t e va sz st l f) := by
  unfold vStop
  extract_lets w
  exact sizedStop_stopOk _ _ _ _

theorem readGo_memOk {t : State} (ht : t.memOk) (x) {r} (hr : readGo t x = .ok r) : r.1.memOk := by
  fun_induction readGo t x generalizing r
  · cases hr
    exact ht
  · cases hr
  · cases hr
  · rename_i e8 _ _ _ e9 ih10
    have h11 := readBytes_memOk ht _ _ _ _ e8
    have h12 := ih10 h11 e9
    cases hr
    exact h12

theorem readAll_memOk {t : State} (ht : t.memOk) (sz l) {r} (hr : readAll sz t l = .ok r) : r.1.memOk := by
  unfold readAll at hr
  split at hr
  · rename_i e1
    cases hr
    exact readGo_memOk ht _ e1
  cases hr

theorem readAll_stopOk {t : State} (sz l) {e} (hr : readAll sz t l = .error e) : StopOk e := by
  unfold readAll at hr
  split at hr
  · cases hr
  cases hr
  exact vStop_stopOk _ _ _ _ _ _

theorem vLoad_memOk {s : State} (hs : s.memOk) (i z m d l ok whole one bad addr) :
    OutOk (vLoad i z m d l ok whole one bad addr s) := by
  unfold vLoad
  refine vWord_memOk hs (fun x4 t5 h6 => ?_) _ _ _ _
  extract_lets eb sz acc mask
  refine vAlign_memOk ?_ _ _ _ _
  refine landRoom_memOk ?_
  split
  · rename_i e10
    exact actOk_error (readAll_stopOk _ _ e10)
  rename_i e13
  extract_lets val
  exact actOk_ok (readAll_memOk h6 _ _ e13)

theorem writeEl_memOk {t : State} (ht : t.memOk) (w src lab e) {u} (hr : writeEl w src lab t e = .ok u) : u.memOk := by
  unfold writeEl at hr
  split at hr
  · cases hr
  · next t1 v h =>
    refine writeBytes_memOk ?_ _ _ _ _ _ _ hr
    split at h
    · split at h
      · next h' =>
        cases h
        exact readVa_memOk ht _ _ _ _ h'
      · cases h
    · cases h
      exact ht

theorem writeGo_memOk {x : State} (hx : x.memOk) (w src lab y) {t} (hr : writeGo w src lab x y = .ok t) : t.memOk := by
  fun_induction writeGo w src lab x y generalizing t
  · cases hr
    exact hx
  · cases hr
  · rename_i e3 ih4
    have h5 := writeEl_memOk hx _ _ _ _ e3
    exact ih4 h5 hr

theorem writeAll_memOk {t : State} (ht : t.memOk) (sz w src lab l) : ActOk (writeAll sz w src lab t l) := by
  unfold writeAll
  split
  · rename_i e1
    exact actOk_ok (writeGo_memOk ht _ _ _ _ e1)
  exact actOk_error (vStop_stopOk _ _ _ _ _ _)

theorem vStore_memOk {s : State} (hs : s.memOk) (i m v ok whole bad addr) : OutOk (vStore i m v ok whole bad addr s) := by
  unfold vStore
  refine vWord_memOk hs (fun x4 t5 h6 => ?_) _ _ _ _
  extract_lets eb sz acc
  exact vAlign_memOk (writeAll_memOk h6 _ _ _ _ _) _ _ _ _

theorem execVld_memOk {s : State} (hs : s.memOk) (z m d a l) : OutOk (execVld z m d a l s) := by
  unfold execVld
  exact vLoad_memOk hs _ _ _ _ _ _ _ _ _ _

theorem execVlds_memOk {s : State} (hs : s.memOk) (z m d a l g) : OutOk (execVlds z m d a l g s) := by
  unfold execVlds
  exact vLoad_memOk hs _ _ _ _ _ _ _ _ _ _

theorem execVldx_memOk {s : State} (hs : s.memOk) (z m d a l) : OutOk (execVldx z m d a l s) := by
  unfold execVldx
  exact vLoad_memOk hs _ _ _ _ _ _ _ _ _ _

theorem execVldb_memOk {s : State} (hs : s.memOk) (z m d a l) : OutOk (execVldb z m d a l s) := by
  unfold execVldb
  exact vLoad_memOk hs _ _ _ _ _ _ _ _ _ _

theorem execVst_memOk {s : State} (hs : s.memOk) (m v a) : OutOk (execVst m v a s) := by
  unfold execVst
  exact vStore_memOk hs _ _ _ _ _ _ _

theorem execVsts_memOk {s : State} (hs : s.memOk) (m v a g) : OutOk (execVsts m v a g s) := by
  unfold execVsts
  exact vStore_memOk hs _ _ _ _ _ _ _

theorem execVstx_memOk {s : State} (hs : s.memOk) (m v a b) : OutOk (execVstx m v a b s) := by
  unfold execVstx
  exact vStore_memOk hs _ _ _ _ _ _ _

theorem vBin_memOk {s : State} (hs : s.memOk) (i z m d a b x n f) : OutOk (vBin i z m d a b x n f s) := by
  unfold vBin
  exact vMap_memOk hs _ _ _ _ _ _ _ _

theorem execVadd_memOk {s : State} (hs : s.memOk) (z m d a b x) : OutOk (execVadd z m d a b x s) := by
  unfold execVadd
  exact vBin_memOk hs _ _ _ _ _ _ _ _ _

theorem execVsub_memOk {s : State} (hs : s.memOk) (z m d a b x) : OutOk (execVsub z m d a b x s) := by
  unfold execVsub
  exact vBin_memOk hs _ _ _ _ _ _ _ _ _

theorem execVmul_memOk {s : State} (hs : s.memOk) (z m d a b x) : OutOk (execVmul z m d a b x s) := by
  unfold execVmul
  exact vBin_memOk hs _ _ _ _ _ _ _ _ _

theorem execVmulh_memOk {s : State} (hs : s.memOk) (z m d a b x) : OutOk (execVmulh z m d a b x s) := by
  unfold execVmulh
  exact vBin_memOk hs _ _ _ _ _ _ _ _ _

theorem execVand_memOk {s : State} (hs : s.memOk) (z m d a b x) : OutOk (execVand z m d a b x s) := by
  unfold execVand
  exact vBin_memOk hs _ _ _ _ _ _ _ _ _

theorem execVor_memOk {s : State} (hs : s.memOk) (z m d a b x) : OutOk (execVor z m d a b x s) := by
  unfold execVor
  exact vBin_memOk hs _ _ _ _ _ _ _ _ _

theorem execVxor_memOk {s : State} (hs : s.memOk) (z m d a b x) : OutOk (execVxor z m d a b x s) := by
  unfold execVxor
  exact vBin_memOk hs _ _ _ _ _ _ _ _ _

theorem execVshl_memOk {s : State} (hs : s.memOk) (z m d a b x) : OutOk (execVshl z m d a b x s) := by
  unfold execVshl
  exact vBin_memOk hs _ _ _ _ _ _ _ _ _

theorem execVshr_memOk {s : State} (hs : s.memOk) (z m d a b x) : OutOk (execVshr z m d a b x s) := by
  unfold execVshr
  exact vBin_memOk hs _ _ _ _ _ _ _ _ _

theorem execVsar_memOk {s : State} (hs : s.memOk) (z m d a b x) : OutOk (execVsar z m d a b x s) := by
  unfold execVsar
  exact vBin_memOk hs _ _ _ _ _ _ _ _ _

theorem execVmin_memOk {s : State} (hs : s.memOk) (z m d a b x) : OutOk (execVmin z m d a b x s) := by
  unfold execVmin
  exact vBin_memOk hs _ _ _ _ _ _ _ _ _

theorem execVmax_memOk {s : State} (hs : s.memOk) (z m d a b x) : OutOk (execVmax z m d a b x s) := by
  unfold execVmax
  exact vBin_memOk hs _ _ _ _ _ _ _ _ _

theorem execVadds_memOk {s : State} (hs : s.memOk) (z m d a b x) : OutOk (execVadds z m d a b x s) := by
  unfold execVadds
  exact vBin_memOk hs _ _ _ _ _ _ _ _ _

theorem execVsubs_memOk {s : State} (hs : s.memOk) (z m d a b x) : OutOk (execVsubs z m d a b x s) := by
  unfold execVsubs
  exact vBin_memOk hs _ _ _ _ _ _ _ _ _

theorem execVabs_memOk {s : State} (hs : s.memOk) (z m d a) : OutOk (execVabs z m d a s) := by
  unfold execVabs
  exact vMap_memOk hs _ _ _ _ _ _ _ _

theorem execVmadw_memOk {s : State} (hs : s.memOk) (z m d a b x) : OutOk (execVmadw z m d a b x s) := by
  unfold execVmadw
  refine vWord_memOk hs (fun k t ht => ?_) _ _ _ _
  exact actOk_ok (foldl_memOk (fun _ _ h => putV_memOk h ..) ht _)

theorem vArith_memOk {s : State} (hs : s.memOk) (i z m d a b x f) : OutOk (vArith i z m d a b x f s) := by
  unfold vArith
  exact vMap_memOk hs _ _ _ _ _ _ _ _

theorem execVfadd_memOk {s : State} (hs : s.memOk) (z m d a b x) : OutOk (execVfadd z m d a b x s) := by
  unfold execVfadd
  exact vArith_memOk hs _ _ _ _ _ _ _ _

theorem execVfsub_memOk {s : State} (hs : s.memOk) (z m d a b x) : OutOk (execVfsub z m d a b x s) := by
  unfold execVfsub
  exact vArith_memOk hs _ _ _ _ _ _ _ _

theorem execVfmul_memOk {s : State} (hs : s.memOk) (z m d a b x) : OutOk (execVfmul z m d a b x s) := by
  unfold execVfmul
  exact vArith_memOk hs _ _ _ _ _ _ _ _

theorem execVfma_memOk {s : State} (hs : s.memOk) (z m d a b x) : OutOk (execVfma z m d a b x s) := by
  unfold execVfma
  exact vArith_memOk hs _ _ _ _ _ _ _ _

theorem execVfms_memOk {s : State} (hs : s.memOk) (z m d a b x) : OutOk (execVfms z m d a b x s) := by
  unfold execVfms
  exact vArith_memOk hs _ _ _ _ _ _ _ _

theorem execVfnma_memOk {s : State} (hs : s.memOk) (z m d a b x) : OutOk (execVfnma z m d a b x s) := by
  unfold execVfnma
  exact vArith_memOk hs _ _ _ _ _ _ _ _

theorem execVfmin_memOk {s : State} (hs : s.memOk) (z m d a b x) : OutOk (execVfmin z m d a b x s) := by
  unfold execVfmin
  exact vMap_memOk hs _ _ _ _ _ _ _ _

theorem execVfmax_memOk {s : State} (hs : s.memOk) (z m d a b x) : OutOk (execVfmax z m d a b x s) := by
  unfold execVfmax
  exact vMap_memOk hs _ _ _ _ _ _ _ _

theorem execVfabs_memOk {s : State} (hs : s.memOk) (z m d a) : OutOk (execVfabs z m d a s) := by
  unfold execVfabs
  exact vMap_memOk hs _ _ _ _ _ _ _ _

theorem execVfneg_memOk {s : State} (hs : s.memOk) (z m d a) : OutOk (execVfneg z m d a s) := by
  unfold execVfneg
  exact vMap_memOk hs _ _ _ _ _ _ _ _

theorem vCompare_memOk {s : State} (hs : s.memOk) (i z m d a b x ok rel) : OutOk (vCompare i z m d a b x ok rel s) := by
  unfold vCompare
  refine vWord_memOk hs (fun x4 t5 h6 => ?_) _ _ _ _
  extract_lets c res mask
  exact actOk_ok (push_memOk h6 _ _ _)

theorem execVcmpEq_memOk {s : State} (hs : s.memOk) (z m d a b x) : OutOk (execVcmpEq z m d a b x s) := by
  unfold execVcmpEq
  exact vCompare_memOk hs _ _ _ _ _ _ _ _ _

theorem execVcmpNe_memOk {s : State} (hs : s.memOk) (z m d a b x) : OutOk (execVcmpNe z m d a b x s) := by
  unfold execVcmpNe
  exact vCompare_memOk hs _ _ _ _ _ _ _ _ _

theorem execVcmpLt_memOk {s : State} (hs : s.memOk) (z m d a b x) : OutOk (execVcmpLt z m d a b x s) := by
  unfold execVcmpLt
  exact vCompare_memOk hs _ _ _ _ _ _ _ _ _

theorem execVcmpGe_memOk {s : State} (hs : s.memOk) (z m d a b x) : OutOk (execVcmpGe z m d a b x s) := by
  unfold execVcmpGe
  exact vCompare_memOk hs _ _ _ _ _ _ _ _ _

theorem execVfcmpEq_memOk {s : State} (hs : s.memOk) (z m d a b x) : OutOk (execVfcmpEq z m d a b x s) := by
  unfold execVfcmpEq
  exact vCompare_memOk hs _ _ _ _ _ _ _ _ _

theorem execVfcmpNe_memOk {s : State} (hs : s.memOk) (z m d a b x) : OutOk (execVfcmpNe z m d a b x s) := by
  unfold execVfcmpNe
  exact vCompare_memOk hs _ _ _ _ _ _ _ _ _

theorem execVfcmpLt_memOk {s : State} (hs : s.memOk) (z m d a b x) : OutOk (execVfcmpLt z m d a b x s) := by
  unfold execVfcmpLt
  exact vCompare_memOk hs _ _ _ _ _ _ _ _ _

theorem execVfcmpGe_memOk {s : State} (hs : s.memOk) (z m d a b x) : OutOk (execVfcmpGe z m d a b x s) := by
  unfold execVfcmpGe
  exact vCompare_memOk hs _ _ _ _ _ _ _ _ _

theorem execVsel_memOk {s : State} (hs : s.memOk) (m d a b x) : OutOk (execVsel m d a b x s) := by
  unfold execVsel
  exact vWord_memOk hs (fun _ _ h3 => actOk_ok (putV_memOk h3 _ _ _ _ _ _ _)) _ _ _ _

theorem maskWord_memOk {s : State} (hs : s.memOk) (i d x) : OutOk (maskWord i d x s) := by
  unfold maskWord
  exact tile_memOk hs (fun _ h2 => actOk_ok (push_memOk h2 _ _ _)) _ _

theorem execMand_memOk {s : State} (hs : s.memOk) (d a b) : OutOk (execMand d a b s) := by
  unfold execMand
  exact maskWord_memOk hs _ _ _

theorem execMor_memOk {s : State} (hs : s.memOk) (d a b) : OutOk (execMor d a b s) := by
  unfold execMor
  exact maskWord_memOk hs _ _ _

theorem execMxor_memOk {s : State} (hs : s.memOk) (d a b) : OutOk (execMxor d a b s) := by
  unfold execMxor
  exact maskWord_memOk hs _ _ _

theorem execMnot_memOk {s : State} (hs : s.memOk) (d a) : OutOk (execMnot d a s) := by
  unfold execMnot
  exact maskWord_memOk hs _ _ _

theorem maskCount_memOk {s : State} (hs : s.memOk) (i d a f) : OutOk (maskCount i d a f s) := by
  unfold maskCount
  exact vWord_memOk hs (fun _ _ h3 => actOk_ok (push_memOk h3 _ _ _)) _ _ _ _

theorem execMcnt_memOk {s : State} (hs : s.memOk) (d a) : OutOk (execMcnt d a s) := by
  unfold execMcnt
  exact maskCount_memOk hs _ _ _ _

theorem execMffs_memOk {s : State} (hs : s.memOk) (d a) : OutOk (execMffs d a s) := by
  unfold execMffs
  exact maskCount_memOk hs _ _ _ _

theorem execVcvt_memOk {s : State} (hs : s.memOk) (z m d a) : OutOk (execVcvt z m d a s) := by
  unfold execVcvt
  exact vMap_memOk hs _ _ _ _ _ _ _ _

theorem execVcvtw_memOk {s : State} (hs : s.memOk) (z m d a) : OutOk (execVcvtw z m d a s) := by
  unfold execVcvtw
  refine vWord_memOk hs (fun x4 t5 h6 => ?_) _ _ _ _
  extract_lets g wd es fl
  refine actOk_ok ?_
  refine foldl_memOk (fun t19 x20 h21 => ?_) h6 _
  extract_lets mine
  exact putFlags_memOk (putV_memOk h21 _ _ _ _ _ _ _) _ _ _ _

theorem execVcvtn_memOk {s : State} (hs : s.memOk) (z m d a) : OutOk (execVcvtn z m d a s) := by
  unfold execVcvtn
  refine vWord_memOk hs (fun x4 t5 h6 => ?_) _ _ _ _
  extract_lets c g wd rm sr k es t1 src
  have ht1 : t1.memOk := putFlags_memOk (putV_memOk h6 _ _ _ _ _ _ _) _ _ _ _
  exact actOk_ok (ite_memOk ht1 ht1)

theorem execVperm_memOk {s : State} (hs : s.memOk) (z m d a b x) : OutOk (execVperm z m d a b x s) := by
  unfold execVperm
  exact vMap_memOk hs _ _ _ _ _ _ _ _

theorem execVslide_memOk {s : State} (hs : s.memOk) (z m d a b) : OutOk (execVslide z m d a b s) := by
  unfold execVslide
  exact vMap_memOk hs _ _ _ _ _ _ _ _

theorem execVext_memOk {s : State} (hs : s.memOk) (d a b) : OutOk (execVext d a b s) := by
  unfold execVext
  refine vWord_memOk hs (fun x4 t5 h6 => ?_) _ _ _ _
  extract_lets x
  exact actOk_ok (resultS_memOk h6 _ _ _ _)

theorem execVins_memOk {s : State} (hs : s.memOk) (d a b) : OutOk (execVins d a b s) := by
  unfold execVins
  refine vWord_memOk hs (fun x4 t5 h6 => ?_) _ _ _ _
  extract_lets x one val
  exact actOk_ok (push_memOk h6 _ _ _)

theorem execVbcast_memOk {s : State} (hs : s.memOk) (z m d a) : OutOk (execVbcast z m d a s) := by
  unfold execVbcast
  exact vMap_memOk hs _ _ _ _ _ _ _ _

theorem putRed_memOk {t : State} (ht : t.memOk) (k d n x) : (putRed t k d n x).memOk := by
  unfold putRed
  exact push_memOk ht _ _ _

theorem execVredsum_memOk {s : State} (hs : s.memOk) (z m d a) : OutOk (execVredsum z m d a s) := by
  unfold execVredsum
  exact vWord_memOk hs (fun _ _ h3 => actOk_ok (putRed_memOk h3 _ _ _ _)) _ _ _ _

theorem execVfredsum_memOk {s : State} (hs : s.memOk) (z m d a) : OutOk (execVfredsum z m d a s) := by
  unfold execVfredsum
  refine vWord_memOk hs (fun x4 t5 h6 => ?_) _ _ _ _
  extract_lets leaves
  exact actOk_ok (push_memOk (putRed_memOk h6 _ _ _ _) _ _ _)

theorem vExtreme_memOk {s : State} (hs : s.memOk) (i z m d a big) : OutOk (vExtreme i z m d a big s) := by
  unfold vExtreme
  refine vWord_memOk hs (fun x4 t5 h6 => ?_) _ _ _ _
  extract_lets l
  exact actOk_ok (putRed_memOk h6 _ _ _ _)

theorem execVredmax_memOk {s : State} (hs : s.memOk) (z m d a) : OutOk (execVredmax z m d a s) := by
  unfold execVredmax
  exact vExtreme_memOk hs _ _ _ _ _ _

theorem execVredmin_memOk {s : State} (hs : s.memOk) (z m d a) : OutOk (execVredmin z m d a s) := by
  unfold execVredmin
  exact vExtreme_memOk hs _ _ _ _ _ _

theorem execVrcp_memOk {s : State} (hs : s.memOk) (z m d a) : OutOk (execVrcp z m d a s) := by
  unfold execVrcp
  exact vMap_memOk hs _ _ _ _ _ _ _ _

theorem execVrsqrt_memOk {s : State} (hs : s.memOk) (z m d a) : OutOk (execVrsqrt z m d a s) := by
  unfold execVrsqrt
  exact vMap_memOk hs _ _ _ _ _ _ _ _

theorem vSlow_memOk {s : State} (hs : s.memOk) (i z m d f) : OutOk (vSlow i z m d f s) := by
  unfold vSlow
  refine vWord_memOk hs (fun x4 t5 h6 => ?_) _ _ _ _
  refine actOk_ite (actOk_error stopOk_hold) ?_
  extract_lets es t1 src
  have ht1 : t1.memOk := putFlags_memOk (putV_memOk h6 _ _ _ _ _ _ _) _ _ _ _
  exact actOk_ok ht1

theorem execVsqrt_memOk {s : State} (hs : s.memOk) (z m d a) : OutOk (execVsqrt z m d a s) := by
  unfold execVsqrt
  exact vSlow_memOk hs _ _ _ _ _

theorem execVexp2_memOk {s : State} (hs : s.memOk) (z m d a) : OutOk (execVexp2 z m d a s) := by
  unfold execVexp2
  exact vSlow_memOk hs _ _ _ _ _

theorem execVlog2_memOk {s : State} (hs : s.memOk) (z m d a) : OutOk (execVlog2 z m d a s) := by
  unfold execVlog2
  exact vSlow_memOk hs _ _ _ _ _

theorem execVclipq_memOk {s : State} (hs : s.memOk) (z m d a b) : OutOk (execVclipq z m d a b s) := by
  unfold execVclipq
  exact vMap_memOk hs _ _ _ _ _ _ _ _

theorem execVnormq_memOk {s : State} (hs : s.memOk) (z m d a b) : OutOk (execVnormq z m d a b s) := by
  unfold execVnormq
  exact vSlow_memOk hs _ _ _ _ _

theorem execVrot_memOk {s : State} (hs : s.memOk) : OutOk (execVrot s) := by
  unfold execVrot
  exact tile_memOk hs (fun _ h2 => actOk_ok (push_memOk h2 _ _ _)) _ _

theorem execStgset_memOk {s : State} (hs : s.memOk) (a) : OutOk (execStgset a s) := by
  unfold execStgset
  exact tile_memOk hs (fun _ h2 => actOk_ok (push_memOk h2 _ _ _)) _ _

theorem execStgshift_memOk {s : State} (hs : s.memOk) (a) : OutOk (execStgshift a s) := by
  unfold execStgshift
  exact tile_memOk hs (fun _ h2 => actOk_ok (push_memOk h2 _ _ _)) _ _

/-! ### What the functions of Machine/BitNet.lean keep -/

theorem patHold_memOk {t : State} {act : Act} (hact : ActOk act) : ActOk (patHold t act) := by
  unfold patHold
  exact actOk_ite (actOk_error stopOk_hold) hact

theorem imageLines_memOk {t : State} (ht : t.memOk) (va n) : (imageLines t va n).1.memOk := by
  unfold imageLines
  refine foldl_fst_memOk (fun a p ha => ?_) (a := (t, 0)) ht _
  split
  · exact readVa_memOk ha _ _ _ _ ‹_›
  · exact ha

theorem execBnLd_memOk {s : State} (hs : s.memOk) (q a n) : OutOk (execBnLd q a n s) := by
  unfold execBnLd
  extract_lets i
  refine tile_memOk hs (fun t3 h4 => ?_) _ _
  extract_lets va l0 start
  refine patHold_memOk ?_
  refine actOk_ite (actOk_error (accStop_stopOk _ _ _ _ _)) ?_
  split
  · refine actOk_ite (actOk_error stopOk_trap) ?_
    split
    rename_i e24
    have h25 := memOk_of_eq e24 (imageLines_memOk h4 _ _)
    exact actOk_ok h25
  · refine actOk_error ?_
    split
    · exact stopOk_trap
    · exact accStop_stopOk _ _ _ _ _
  rename_i e28
  have h29 := readBytes_memOk h4 _ _ _ _ e28
  exact actOk_ok h29

theorem routeWord_memOk {s : State} (hs : s.memOk) (i d a n keep) : OutOk (routeWord i d a n keep s) := by
  unfold routeWord
  refine tile_memOk hs (fun t3 h4 => ?_) _ _
  refine patHold_memOk ?_
  extract_lets c p src
  exact actOk_ite (actOk_error (illegal_stopOk _ _)) (actOk_ok (push_memOk h4 _ _ _))

theorem execBnRt_memOk {s : State} (hs : s.memOk) (q d a n) : OutOk (execBnRt q d a n s) := by
  unfold execBnRt
  exact routeWord_memOk hs _ _ _ _ _

theorem execBnRto_memOk {s : State} (hs : s.memOk) (q d a n) : OutOk (execBnRto q d a n s) := by
  unfold execBnRto
  exact routeWord_memOk hs _ _ _ _ _

theorem execBnInv_memOk {s : State} (hs : s.memOk) (q m) : OutOk (execBnInv q m s) := by
  unfold execBnInv
  refine tile_memOk ?_ (fun t3 h4 => ?_) _ _
  · exact hs
  · exact patHold_memOk (actOk_ok h4)

theorem execBnRd_memOk {s : State} (hs : s.memOk) (q d n) : OutOk (execBnRd q d n s) := by
  unfold execBnRd
  refine tile_memOk hs (fun t3 h4 => ?_) _ _
  extract_lets p
  exact actOk_ok (push_memOk h4 _ _ _)

theorem execPatternLoadEnd_memOk {s : State} (hs : s.memOk) : OutOk (execPatternLoadEnd s) := by
  unfold execPatternLoadEnd
  split
  · refine outOk_ite (outOk_next hs) ?_
    extract_lets o src s1
    refine outOk_next ?_
    refine foldl_memOk (fun t10 x11 h12 => ?_) ?_ _
    · exact arrive_memOk h12 _ _
    · exact hs
  · exact outOk_next hs

/-! ### What the functions of Machine/Branch.lean keep -/

theorem prepare_memOk {s : State} (hs : s.memOk) (i k x) : (prepare s i k x).memOk := by
  unfold prepare
  extract_lets src s0 t
  have ht : t.memOk := by
    unfold t
    refine push_memOk ?_ _ _ _
    exact hs
  exact ite_memOk ht (push_memOk ht _ _ _)

theorem awaitBt_memOk {s : State} (hs : s.memOk) (k) : (awaitBt s k).memOk := by
  unfold awaitBt
  exact ite_memOk hs hs

theorem transfer_memOk {s : State} (hs : s.memOk) (k) : ActOk (transfer s k) := by
  unfold transfer
  refine actOk_ite (actOk_error stopOk_hold) ?_
  extract_lets t b bad src src'
  have ht : t.memOk := awaitBt_memOk hs _
  split
  · refine actOk_ite (actOk_error stopOk_trap) ?_
    split
    · exact actOk_ok ht
    · exact actOk_error stopOk_trap
  · exact actOk_error stopOk_trap

theorem execBr_memOk {s : State} (hs : s.memOk) (q k) : OutOk (execBr q k s) := by
  unfold execBr
  exact tile_memOk hs (fun _ h2 => transfer_memOk h2 _) _ _

theorem execBrv_memOk {s : State} (hs : s.memOk) (q k m w n) : OutOk (execBrv q k m w n s) := by
  unfold execBrv
  refine tile_memOk hs (fun t3 h4 => ?_) _ _
  extract_lets x
  exact actOk_ite (actOk_ite (transfer_memOk h4 _) (actOk_ok h4)) (actOk_ite (actOk_ite (transfer_memOk h4 _) (actOk_ok h4))
      (actOk_error stopOk_trap))

theorem execPrep_memOk {s : State} (hs : s.memOk) (q k i) : OutOk (execPrep q k i s) := by
  unfold execPrep
  exact tile_memOk hs (fun _ h2 => actOk_ok (prepare_memOk h2 _ _ _)) _ _

theorem execPrepa_memOk {s : State} (hs : s.memOk) (q k a) : OutOk (execPrepa q k a s) := by
  unfold execPrepa
  refine tile_memOk hs (fun t3 h4 => ?_) _ _
  extract_lets x
  exact actOk_ite (actOk_error stopOk_trap) (actOk_ok (prepare_memOk h4 _ _ _))

theorem execBrl_memOk {s : State} (hs : s.memOk) (q k d) : OutOk (execBrl q k d s) := by
  unfold execBrl
  exact tile_memOk hs (fun _ h2 => transfer_memOk (push_memOk h2 _ _ _) _) _ _

theorem execLbNest_memOk {s : State} (hs : s.memOk) (q l d g) : OutOk (execLbNest q l d g s) := by
  unfold execLbNest
  refine tile_memOk hs (fun t3 h4 => ?_) _ _
  split
  · exact actOk_error stopOk_trap
  · exact actOk_ite (actOk_error (illegal_stopOk _ _)) (actOk_ite (actOk_ok h4) (actOk_ok h4))

theorem execLbExit_memOk {s : State} (hs : s.memOk) (q) : OutOk (execLbExit q s) := by
  unfold execLbExit
  refine tile_memOk hs (fun t3 h4 => ?_) _ _
  refine actOk_ite (actOk_ok h4) ?_
  split
  · exact actOk_ok h4
  · exact actOk_ok h4

theorem nestGens_memOk {s : State} (hs : s.memOk) (l) : (nestGens s l).memOk := by
  unfold nestGens
  refine foldl_memOk (fun t4 x5 h6 => ?_) hs _
  split
  · exact push_memOk h6 _ _ _
  · exact h6

theorem advance_memOk {s : State} (hs : s.memOk) : (advance s).memOk := by
  unfold advance
  extract_lets c n nx s0 src
  refine ite_memOk hs ?_
  refine ite_memOk hs ?_
  split
  · extract_lets s1 ix src'
    have hs1 : s1.memOk := by
      unfold s1
      refine nestGens_memOk ?_ _
      exact hs
    exact hs1
  · exact hs

/-! ### What the functions of Machine/Coherence.lean keep -/

theorem sendMsg_memOk {s : State} (hs : s.memOk) (m) : (sendMsg s m).memOk := by
  unfold sendMsg
  exact hs

theorem dropMsg_memOk {s : State} (hs : s.memOk) (m) : (dropMsg s m).memOk := by
  unfold dropMsg
  exact hs

theorem homeOpen_memOk {s : State} (hs : s.memOk) (line k r) : (homeOpen s line k r).memOk := by
  unfold homeOpen
  extract_lets e h s1 others n msg wait invs
  have hs1 : s1.memOk := setDir_memOk hs _ _
  have hwait {t : State} (ht : t.memOk) (data need) : (wait data need t).memOk := ht
  have hinvs {t : State} (ht : t.memOk) (l) : (invs l t).memOk := foldl_memOk (fun _ _ hu => sendMsg_memOk hu _) ht _
  split
  · refine ite_memOk (hwait (hinvs hs1 _) _ _) ?_
    refine ite_memOk (hwait (sendMsg_memOk hs1 _) _ _) ?_
    refine ite_memOk (hwait (hinvs (sendMsg_memOk hs1 _) _) _ _) ?_
    exact hwait (hinvs (sendMsg_memOk hs1 _) _) _ _
  · refine ite_memOk (hwait (hinvs (sendMsg_memOk hs1 _) _) _ _) ?_
    refine ite_memOk (hwait (hinvs (sendMsg_memOk hs1 _) _) _ _) ?_
    refine ite_memOk (hwait (sendMsg_memOk (sendMsg_memOk hs1 _) _) _ _) ?_
    exact hwait (sendMsg_memOk (hinvs (sendMsg_memOk hs1 _) _) _) _ _

theorem reply_memOk {s : State} (hs : s.memOk) (port kind n v l) : (reply s port kind n v l).memOk := by
  unfold reply
  exact hs

theorem fillRefused_memOk {s : State} (hs : s.memOk) (line k r) {t} (hr : fillRefused s line k r = some t) : t.memOk := by
  unfold fillRefused at hr
  split at hr
  · split at hr
    · cases hr
    extract_lets pa l part at hr
    split at hr
    · cases hr
    cases hr
    exact reply_memOk (countRefusal_memOk hs _ _) _ _ _ _ _
  · cases hr

theorem homeLeave_memOk {s : State} (hs : s.memOk) (line r) : (homeLeave s line r).memOk := by
  unfold homeLeave
  exact sendMsg_memOk (setDir_memOk hs _ _) _

theorem roomFor_memOk {s : State} (hs : s.memOk) (line) {t} (hr : roomFor s line = some t) : t.memOk := by
  unfold roomFor at hr
  extract_lets peers at hr
  split at hr
  · cases hr
  cases hr
  refine ite_memOk hs ?_
  split
  · exact homeOpen_memOk hs _ _ _
  · exact hs

theorem homeNext_memOk {y : State} (hy : y.memOk) (line x) : (homeNext line x y).memOk := by
  fun_induction homeNext line x y with
  | case1 => exact hy
  | case2 s n e k r q _ _ s1 _ ih => exact ih (homeLeave_memOk (setDir_memOk hy _ _) _ _)
  | case3 s n e k r q _ _ s1 _ s2 h ih => exact ih (fillRefused_memOk (setDir_memOk hy _ _) _ _ _ h)
  | case4 s n e k r q _ _ s1 => exact getD_memOk (fun _ h => roomFor_memOk hy _ h) (homeOpen_memOk (setDir_memOk hy _ _) _ _ _)
  | case5 => exact hy

theorem homeGoOn_memOk {s : State} (hs : s.memOk) (line) : (homeGoOn s line).memOk := by
  unfold homeGoOn
  extract_lets h
  exact foldl_memOk (fun _ _ h3 => homeNext_memOk h3 _ _) hs _

theorem request_memOk {s : State} (hs : s.memOk) (line k r) : (request s line k r).memOk := by
  unfold request
  extract_lets e
  exact ite_memOk hs (homeNext_memOk (setDir_memOk hs _ _) _ _)

theorem execRds_memOk {s : State} (hs : s.memOk) (line r) : OutOk (execRds line r s) := by
  unfold execRds
  exact outOk_next (request_memOk hs _ _ _)

theorem execRdx_memOk {s : State} (hs : s.memOk) (line r) : OutOk (execRdx line r s) := by
  unfold execRdx
  exact outOk_next (request_memOk hs _ _ _)

theorem execUpg_memOk {s : State} (hs : s.memOk) (line r) : OutOk (execUpg line r s) := by
  unfold execUpg
  exact outOk_next (request_memOk hs _ _ _)

theorem execWbd_memOk {s : State} (hs : s.memOk) (line r) : OutOk (execWbd line r s) := by
  unfold execWbd
  exact outOk_next (request_memOk hs _ _ _)

theorem execEvc_memOk {s : State} (hs : s.memOk) (line r) : OutOk (execEvc line r s) := by
  unfold execEvc
  exact outOk_next (request_memOk hs _ _ _)

theorem execFwds_memOk {s : State} (hs : s.memOk) (line o) : OutOk (execFwds line o s) := by
  unfold execFwds
  split
  · exact outOk_next hs
  extract_lets s1
  have hs1 : s1.memOk := dropMsg_memOk hs _
  exact outOk_next (sendMsg_memOk (setDir_memOk hs1 _ _) _)

theorem execFwdx_memOk {s : State} (hs : s.memOk) (line o) : OutOk (execFwdx line o s) := by
  unfold execFwdx
  split
  · exact outOk_next hs
  extract_lets s1 e dirty
  have hs1 : s1.memOk := dropMsg_memOk hs _
  exact outOk_next (sendMsg_memOk (dieDrops_memOk (setDir_memOk hs1 _ _) _ _) _)

theorem execInv_memOk {s : State} (hs : s.memOk) (line o) : OutOk (execInv line o s) := by
  unfold execInv
  split
  · exact outOk_next hs
  extract_lets s1
  have hs1 : s1.memOk := dropMsg_memOk hs _
  exact outOk_next (sendMsg_memOk (dieDrops_memOk (setDir_memOk hs1 _ _) _ _) _)

theorem finishWait_memOk {s : State} (hs : s.memOk) (w) : (finishWait s w).memOk := by
  unfold finishWait
  extract_lets s1 s2 src
  split
  · refine ite_memOk ?_ hs
    refine ite_memOk ?_ ?_
    · refine homeGoOn_memOk ?_ _
      refine setDir_memOk ?_ _ _
      exact hs
    refine sendMsg_memOk ?_ _
    refine setDir_memOk ?_ _ _
    exact hs
  · exact hs

theorem execDat_memOk {s : State} (hs : s.memOk) (line r) : OutOk (execDat line r s) := by
  unfold execDat
  split
  · exact outOk_next (finishWait_memOk (dropMsg_memOk hs _) _)
  · exact outOk_next hs

theorem execCmpMessage_memOk {s : State} (hs : s.memOk) (line r) : OutOk (execCmpMessage line r s) := by
  unfold execCmpMessage
  split
  · exact outOk_next hs
  extract_lets s1
  have hs1 : s1.memOk := dropMsg_memOk hs _
  split
  · exact outOk_next hs1
  · exact outOk_next (finishWait_memOk hs1 _)
  · exact outOk_next hs1

theorem execAck_memOk {s : State} (hs : s.memOk) (line r) : OutOk (execAck line r s) := by
  unfold execAck
  split
  · exact outOk_next (finishWait_memOk (dropMsg_memOk hs _) _)
  · exact outOk_next hs

theorem execDon_memOk {s : State} (hs : s.memOk) (line r) : OutOk (execDon line r s) := by
  unfold execDon
  split
  · exact outOk_next hs
  extract_lets s1 e
  have hs1 : s1.memOk := dropMsg_memOk hs _
  split
  · refine outOk_ite ?_ (outOk_next hs1)
    extract_lets e'
    exact outOk_next (homeGoOn_memOk (setDir_memOk hs1 _ _) _)
  · exact outOk_next hs1

theorem execPageWalk_memOk {s : State} (hs : s.memOk) (va vf kind prv) : OutOk (execPageWalk va vf kind prv s) := by
  unfold execPageWalk
  split
  · rename_i e1
    exact outOk_next (translateMark_memOk hs _ _ _ _ _ _ e1)
  exact outOk_next hs

theorem execUncorrectableError_memOk {s : State} (hs : s.memOk) (pa) : OutOk (execUncorrectableError pa s) := by
  unfold execUncorrectableError
  extract_lets a k
  refine outOk_ite ?_ ?_
  · refine outOk_next ?_
    refine mcAppend_memOk ?_ _ _ _ _ _ _
    exact hs
  extract_lets s1
  refine outOk_next ?_
  refine mcAppend_memOk ?_ _ _ _ _ _ _
  exact hs

theorem execCorrectableError_memOk {s : State} (hs : s.memOk) (_pa) : OutOk (execCorrectableError _pa s) := by
  unfold execCorrectableError
  exact outOk_next hs

/-! ### What the functions of Machine/Credit.lean keep -/

theorem creditVa_memOk {s : State} (hs : s.memOk) (w va n failed l) {t} (hr : creditVa s w va n failed l = .ok t) : t.memOk := by
  unfold creditVa at hr
  split at hr
  · cases hr
  rename_i e3
  exact writeVa_memOk (readVa_memOk hs _ _ _ _ e3) _ _ _ _ _ _ _ hr

theorem creditPa_memOk {s : State} (hs : s.memOk) (pa n l) : (creditPa s pa n l).memOk := by
  unfold creditPa
  exact ite_memOk (engWr_memOk hs _ _ _ _) hs

/-! ### What the functions of Machine/Command.lean keep -/

theorem copyStop_stopOk {s : State} (reason tag) : StopOk (copyStop s reason tag) := by
  unfold copyStop
  exact stopOk_trap

theorem CFail.of_failOk (reason sub lvl addr) : FailOk (CFail.of reason sub lvl addr) := by
  rintro _ ⟨⟩

/-- A failure that an access gives names no state found by it. -/
theorem cfailOf_base (e va) : (cfailOf e va).base = none := by
  cases e with
  | xlat x =>
    rw [cfailOf]
    split <;> rfl
  | _ => rfl

theorem cfailOf_failOk (e va) : FailOk (cfailOf e va) := by
  rintro t ht
  rw [cfailOf_base] at ht
  cases ht

theorem deviceStop_failOk {s : State} (w p kind) {e} (hr : deviceStop s w p kind = some e) : FailOk e := by
  unfold deviceStop at hr
  split at hr
  · cases hr
  split at hr
  · split at hr
    · cases hr
      exact cfailOf_failOk _ _
    · cases hr
  · cases hr

theorem cmdFail_failOk {s : State} (hs : s.memOk) (f va a kind got) : FailOk (cmdFail s f va a kind got) := by
  rintro _ ⟨⟩
  exact hs

theorem cmdRd_memOk {s : State} (hs : s.memOk) (w va n kind) {r} (hr : cmdRd s w va n kind = .ok r) : r.1.memOk := by
  unfold cmdRd at hr
  dsimp only at hr
  split at hr
  · cases hr
  · split at hr <;> cases hr
    exact readSpan_memOk hs _ _ _ _ _ ‹_›

theorem cmdRd_failOk {s : State} (hs : s.memOk) (w va n kind) {e} (hr : cmdRd s w va n kind = .error e) : FailOk e := by
  unfold cmdRd at hr
  dsimp only at hr
  split at hr
  · cases hr
    exact cmdFail_failOk hs _ _ _ _ _
  · split at hr <;> cases hr
    exact cmdFail_failOk hs _ _ _ _ _

theorem cmdWr_memOk {s : State} (hs : s.memOk) (w va n v l prov) {t} (hr : cmdWr s w va n v l prov = .ok t) : t.memOk := by
  unfold cmdWr at hr
  split at hr
  · cases hr
  split at hr
  · cases hr
  rename_i e3
  cases hr
  exact writeSpan_memOk hs _ _ _ _ _ _ _ e3

theorem cmdWr_failOk {s : State} (hs : s.memOk) (w va n v l prov) {e} (hr : cmdWr s w va n v l prov = .error e) : FailOk e := by
  unfold cmdWr at hr
  split at hr
  · cases hr
    exact cmdFail_failOk hs _ _ _ _ _
  split at hr
  · cases hr
    exact cmdFail_failOk hs _ _ _ _ _
  cases hr

theorem releaseFor_memOk {t : State} (ht : t.memOk) (rl objs) : (releaseFor t rl objs).memOk := by
  unfold releaseFor
  exact ite_memOk (foldl_memOk (fun _ _ h3 => releaseLines_memOk h3 _) ht _) ht

theorem issueCmd_memOk {t : State} (ht : t.memOk) (c) : ActOk (issueCmd t c) := by
  unfold issueCmd
  extract_lets x b t1 src
  have ht1 : t1.memOk := push_memOk ht _ _ _
  exact actOk_ite (actOk_error stopOk_hold) (actOk_ok ht1)

/-- What a failed access found is canonical, or the state before it is what remains. -/
theorem FailOk.base_getD {f : CFail} (hf : FailOk f) {s : State} (hs : s.memOk) : (f.base.getD s).memOk :=
  getD_memOk hf hs

theorem countFail_memOk {s : State} (hs : s.memOk) (w f) : (countFail s w f).memOk := by
  unfold countFail
  split
  · extract_lets s1
    have hs1 : s1.memOk := by
      unfold s1
      split
      · refine foldl_memOk (fun t4 x5 h6 => ?_) hs _
        split
        · rename_i e10
          have h11 := translateMark_memOk h6 _ _ _ _ _ _ e10
          exact h11
        exact h6
      · exact hs
    exact ite_memOk (countRefusal_memOk hs1 _ _) hs1
  · exact hs

theorem creditAt_memOk {s : State} (hs : s.memOk) (w va n failed l) {t} (hr : creditAt s w va n failed l = .ok t) : t.memOk := by
  unfold creditAt at hr
  split at hr
  · cases hr
  split at hr
  · rename_i e1
    cases hr
    exact creditVa_memOk hs _ _ _ _ _ e1
  cases hr

theorem creditAt_failOk {s : State} (w va n failed l) {e} (hr : creditAt s w va n failed l = .error e) : FailOk e := by
  unfold creditAt at hr
  split at hr
  · next a _ =>
    cases hr
    exact CFail.of_failOk 6 0 0 a
  · split at hr
    · cases hr
    · cases hr
      exact cfailOf_failOk _ _

theorem creditCmd_memOk {s : State} (hs : s.memOk) (c n f) : (creditCmd s c n f).1.memOk := by
  unfold creditCmd
  split
  · rename_i e1
    exact creditAt_memOk hs _ _ _ _ _ e1
  exact countFail_memOk hs _ _

theorem endCmd_memOk {s : State} (hs : s.memOk) (c credit f) : (endCmd s c credit f).memOk := by
  unfold endCmd
  extract_lets owner s0
  have hs0 : s0.memOk := ite_memOk hs (countFail_memOk hs _ _)
  split
  next s1 f1 h =>
  have hs1 : s1.memOk := by
    split at h
    · split at h
      · cases h
        exact hs0
      · exact memOk_of_eq h (creditCmd_memOk hs0 _ _ _)
    · cases h
      exact hs0
  extract_lets src s2 s3
  have hs3 : s3.memOk := foldl_memOk (fun _ _ h => arrive_memOk h _ _) (show s2.memOk from hs1) _
  refine ite_memOk hs1 ?_
  split
  · exact ite_memOk (takeTrap_memOk hs3 _ _ _) hs3
  · exact hs3

theorem Ending.close_memOk {e : Ending} (he : e.state.memOk) : (Ending.close e).memOk := by
  unfold Ending.close
  exact endCmd_memOk he _ _ _

theorem wroteBack_memOk {s : State} {t : State} (ht : t.memOk) (c r) : (wroteBack c r s t).memOk := by
  unfold wroteBack
  exact countWrites_memOk (ite_memOk (cleanLines_memOk ht _) ht) _

theorem releasing_memOk {α : Type} {f : State → State × α} {s : State} (hf : ∀ t, t.memOk → (f t).1.memOk) (hs : s.memOk) (c) :
    (releasing c f s).1.memOk := by
  unfold releasing
  split
  next t a h =>
  have ht : t.memOk := memOk_of_eq h (hf _ hs)
  exact wroteBack_memOk ht _ _

theorem workGo_memOk {f : ℕ → State → Except CFail State} {s : State} (hf : ∀ i t u, t.memOk → f i t = .ok u → u.memOk)
    (he : ∀ i t e, t.memOk → f i t = .error e → FailOk e) (hs : s.memOk) (n i) : (workGo f n i s).1.memOk := by
  fun_induction workGo f n i s with
  | case1 => exact hs
  | case2 s n i s1 h ih => exact ih (hf _ _ _ hs h)
  | case3 s n i e h => exact (he _ _ _ hs h).base_getD hs

/-! ### What the functions of Machine/Dispatcher.lean keep -/

theorem stageWr_memOk {s : State} (hs : s.memOk) (part stg off n v l) : (stageWr s part stg off n v l).memOk := by
  unfold stageWr
  split
  · exact hs
  · exact engWr_memOk hs _ _ _ _

theorem headAdvance_memOk {y : State} (hy : y.memOk) (part stg x) : (headAdvance part stg x y).memOk := by
  fun_induction headAdvance part stg x y with
  | case1 => exact hy
  | case2 k s h _ ih =>
    refine ih (stageWr_memOk ?_ _ _ _ _ _ _)
    exact hy
  | case3 => exact hy

theorem takeRing_memOk {s : State} (hs : s.memOk) (part stg i) : (takeRing s part stg i).memOk := by
  unfold takeRing
  extract_lets a s1
  have hs1 : s1.memOk := engWr_memOk hs _ _ _ _
  refine headAdvance_memOk ?_ _ _ _
  exact hs1

theorem refresh_memOk {s : State} (hs : s.memOk) : (refresh s).memOk := by
  unfold refresh
  exact hs

theorem setRot_memOk {s : State} (hs : s.memOk) (r) : (setRot s r).memOk := by
  unfold setRot
  exact hs

theorem choose_memOk {s : State} (hs : s.memOk) (n) {r} (hr : choose s n = some r) : r.1.memOk := by
  unfold choose at hr
  extract_lets l top l1 rot v at hr
  clear_value l v
  split at hr
  · cases hr
  split at hr
  · cases hr
  extract_lets used rot' l2 at hr
  split at hr
  · cases hr
    exact setRot_memOk hs _
  · cases hr

theorem takeEntry_memOk {s0 : State} (hs0 : s0.memOk) (c) : (takeEntry s0 c).memOk := by
  unfold takeEntry
  extract_lets s
  split
  · refine takeRing_memOk ?_ _ _ _
    exact hs0
  · exact hs0

theorem refuse_memOk {s : State} (hs : s.memOk) (pa r cause info addr) : (refuse s pa r cause info addr).memOk := by
  unfold refuse
  extract_lets run w frm srn ql s1 s2 src
  have hs1 : s1.memOk := writeRecord_memOk hs _ _ _
  have hs2 : s2.memOk := ite_memOk (frameWrite_memOk hs1 _ _ _) hs1
  refine postRecord_memOk ?_ _ _ _
  exact hs2

theorem loadWindow_memOk {s : State} (hs : s.memOk) (w va l) : (loadWindow s w va l).1.memOk := by
  unfold loadWindow
  extract_lets idle
  split
  · next f h =>
    extract_lets s1
    have hs1 : s1.memOk := countFail_memOk ((cmdRd_failOk hs _ _ _ _ h).base_getD hs) _ _
    exact hs1
  · next s1 v ml h =>
    have hs1 := cmdRd_memOk hs _ _ _ _ h
    exact hs1

theorem switchTo_memOk {s : State} (hs : s.memOk) (vf) : (switchTo s vf).memOk := by
  unfold switchTo
  extract_lets s1
  have hs1 : s1.memOk := ite_memOk hs (dropLines_memOk hs _)
  exact hs1

theorem restoreRegs_memOk {s : State} (hs : s.memOk) (run r keepTags) : (restoreRegs s run r keepTags).memOk := by
  unfold restoreRegs
  exact hs

theorem markFrame_memOk {s : State} (hs : s.memOk) (w x) : (markFrame s w x).memOk := by
  fun_induction markFrame s w x with
  | case1 => exact hs
  | case2 => exact hs
  | case3 s a as t v h ih => exact ih (translateMark_memOk hs _ _ _ _ _ _ h)

theorem markLive_memOk {s : State} (hs : s.memOk) (run r) : (markLive s run r).memOk := by
  unfold markLive
  refine ite_memOk ?_ hs
  extract_lets src src'
  have hsrc' : src'.memOk := by
    unfold src'
    refine liveMark_memOk ?_ _ _
    exact hs
  exact hsrc'

theorem loadCode_memOk {s : State} (hs : s.memOk) (run rpc) : (loadCode s run rpc).1.memOk := by
  unfold loadCode
  split
  · exact hs
  split
  · rename_i e1
    have h2 := memOk_of_eq e1 (loadWindow_memOk hs _ _ _)
    exact h2
  rename_i e3
  have h4 := memOk_of_eq e3 (loadWindow_memOk hs _ _ _)
  exact h4

theorem unclaim_memOk {s : State} (hs : s.memOk) (kept c) : (unclaim s kept c).memOk := by
  unfold unclaim
  exact hs

theorem startGo_memOk {s0 : State} (hs0 : s0.memOk) (pa locked) {t} (hr : startGo s0 pa locked = .ok t) : t.memOk := by
  unfold startGo at hr
  extract_lets r run w cv s keep sv s1 rpc at hr
  have hs : s.memOk := markLive_memOk (markFrame_memOk hs0 _ _) _ _
  have hs1 : s1.memOk := switchTo_memOk hs _
  split at hr
  · cases hr
  split at hr
  · cases hr
  split at hr
  · cases hr
  · next s2 h2 =>
    have hs2 : s2.memOk := memOk_of_eq h2 (loadCode_memOk hs1 _ _)
    extract_lets s3 s4 c5 s5 s6 at hr
    have hs3 : s3.memOk := engWr_memOk hs2 _ _ _ _
    have hs4 : s4.memOk := ite_memOk (restoreRegs_memOk hs3 _ _ _) hs3
    have hs6 : s6.memOk := stageAdd_memOk (show s5.memOk from hs4) _ _ _ _ _
    cases hr
    exact ite_memOk hs6 (stageAdd_memOk hs6 _ _ _ _ _)

theorem startGo_errOk {s0 : State} (hs0 : s0.memOk) (pa locked) {e} (hr : startGo s0 pa locked = .error e) : e.memOk := by
  unfold startGo at hr
  extract_lets r run w cv s keep sv s1 rpc at hr
  have hs : s.memOk := markLive_memOk (markFrame_memOk hs0 _ _) _ _
  have hs1 : s1.memOk := switchTo_memOk hs _
  split at hr
  · cases hr
    exact refuse_memOk hs _ _ _ _ _
  split at hr
  · cases hr
    exact refuse_memOk (unclaim_memOk hs1 _ _) _ _ _ _ _
  split at hr
  · next s2 f h2 =>
    have hs2 : s2.memOk := memOk_of_eq h2 (loadCode_memOk hs1 _ _)
    cases hr
    split
    · exact refuse_memOk (unclaim_memOk hs2 _ _) _ _ _ _ _
    · exact refuse_memOk (unclaim_memOk hs2 _ _) _ _ _ _ _
  · cases hr

theorem startRecord_memOk {s : State} (hs : s.memOk) (pa locked) : (startRecord s pa locked).memOk := by
  unfold startRecord
  split
  · rename_i e1
    exact startGo_memOk hs _ _ e1
  rename_i e4
  exact startGo_errOk hs _ _ e4

theorem postBad_memOk {s : State} (hs : s.memOk) (part pa) : (postBad s part pa).memOk := by
  unfold postBad
  exact hs

theorem claimOne_memOk {s : State} (hs : s.memOk) (part stg pa locked) : (claimOne s part stg pa locked).memOk := by
  unfold claimOne
  extract_lets r
  exact ite_memOk (refuse_memOk hs _ _ _ _ _) (startRecord_memOk hs _ _)

theorem claimCand_memOk {s : State} (hs : s.memOk) (c) : (claimCand s c).memOk := by
  unfold claimCand
  extract_lets ring s0 me bad
  have hs0 : s0.memOk := takeEntry_memOk hs _
  refine ite_memOk (ite_memOk (postBad_memOk hs0 _ _) (claimOne_memOk hs0 _ _ _ _)) ?_
  refine focus_memOk ?_ _
  refine foldl_memOk (fun t16 x17 h18 => ?_) hs _
  extract_lets d
  exact claimOne_memOk (focus_memOk (foldl_memOk (fun _ _ h24 => takeEntry_memOk h24 _) h18 _) _) _ _ _ _

theorem claimFor_memOk {s : State} (hs : s.memOk) : (claimFor s).memOk := by
  unfold claimFor
  refine ite_memOk hs ?_
  extract_lets s0
  have hs0 : s0.memOk := refresh_memOk hs
  split
  · exact refresh_memOk (postBad_memOk (takeEntry_memOk hs0 _) _ _)
  split
  · exact hs0
  rename_i e3
  exact ite_memOk hs0 (refresh_memOk (claimCand_memOk (choose_memOk hs0 _ e3) _))

theorem graphEnd_memOk {s : State} (hs : s.memOk) (g) : (graphEnd s g).memOk := by
  unfold graphEnd
  extract_lets s1 s2
  have hs1 : s1.memOk := foldl_memOk (fun _ _ h3 => engWr_memOk h3 _ _ _ _) hs _
  have hs2 : s2.memOk := foldl_memOk (fun _ _ h6 => stageWr_memOk h6 _ _ _ _ _ _) hs1 _
  exact hs2

theorem graphFail_memOk {s : State} (hs : s.memOk) (g err node) : (graphFail s g err node).memOk := by
  unfold graphFail
  extract_lets s1
  have hs1 : s1.memOk := engWr_memOk (engWr_memOk (engWr_memOk hs _ _ _ _) _ _ _ _) _ _ _ _
  exact graphEnd_memOk hs1 _

theorem actLater_memOk {s : State} (hs : s.memOk) (g l) : (actLater s g l).memOk := by
  unfold actLater
  exact hs

theorem graphStuck_memOk {s : State} (hs : s.memOk) (g k) : (graphStuck s g k).memOk := by
  unfold graphStuck
  exact ite_memOk (graphFail_memOk hs _ _ _) hs

theorem nodeFinish_memOk {s : State} (hs : s.memOk) (g k) : (nodeFinish s g k).memOk := by
  unfold nodeFinish
  extract_lets a
  exact graphStuck_memOk (actLater_memOk (engWr_memOk hs _ _ _ _) _ _) _ _

theorem activate_memOk {s : State} (hs : s.memOk) (g k) : (activate s g k).memOk := by
  unfold activate
  extract_lets a n n0 n1 cw cnt s1 lim s1' s1'' s2
  have hs1 : s1.memOk := engWr_memOk (engWr_memOk hs _ _ _ _) _ _ _ _
  have hs1' : s1'.memOk := engWr_memOk hs _ _ _ _
  have hs1'' : s1''.memOk := engWr_memOk (engWr_memOk hs _ _ _ _) _ _ _ _
  have hs2 : s2.memOk := graphEnd_memOk hs1'' _
  split
  · exact ite_memOk (graphFail_memOk hs _ _ _) (ite_memOk (graphFail_memOk hs _ _ _) (ite_memOk (nodeFinish_memOk hs1 _ _) hs1))
  · exact graphStuck_memOk (actLater_memOk hs _ _) _ _
  · exact ite_memOk (graphStuck_memOk (actLater_memOk (engWr_memOk hs _ _ _ _) _ _) _ _) (ite_memOk (graphFail_memOk hs1' _ _ _)
        (graphStuck_memOk (actLater_memOk hs1' _ _) _ _))
  · exact ite_memOk (graphStuck_memOk (actLater_memOk (engWr_memOk hs _ _ _ _) _ _) _ _)
        (graphStuck_memOk (engWr_memOk hs _ _ _ _) _ _)
  · exact ite_memOk hs2 (creditPa_memOk hs2 _ _ _)

theorem stageRetired_memOk {s : State} (hs : s.memOk) (part stg) : (stageRetired s part stg).memOk := by
  have h1 := stageAdd_memOk (stageSub_memOk hs part stg 0x18) part stg 0x20 1 0
  unfold stageRetired
  extract_lets s1
  change s1.memOk at h1
  clear_value s1
  split
  · exact h1
  · split
    · exact h1
    · extract_lets a cnt s2 drained
      have h2 : s2.memOk := engWr_memOk h1 _ _ _ _
      clear_value drained s2
      split
      · exact h1
      · split
        · split
          · exact nodeFinish_memOk h2 _ _
          · exact h2
        · split
          · exact nodeFinish_memOk h2 _ _
          · exact h2

theorem forgetWriter_memOk {s : State} (hs : s.memOk) (pa) : (forgetWriter s pa).memOk := by
  unfold forgetWriter
  exact hs

theorem recordRetired_memOk {s : State} (hs : s.memOk) (r' r) : (recordRetired s r' r).memOk := by
  unfold recordRetired
  extract_lets t s1
  have ht : t.memOk := ite_memOk (creditPa_memOk (cleanEach_memOk hs _) _ _ _) hs
  have hs1 : s1.memOk := by
    unfold s1
    split
    · exact engWr_memOk (writeRecord_memOk ht _ _ _) _ _ _ _
    · exact writeRecord_memOk hs _ _ _
  exact stageRetired_memOk (stageLeave_memOk (forgetWriter_memOk hs1 _) _) _ _

theorem retireCore_memOk {s : State} (hs : s.memOk) (next) : (retireCore s next).memOk := by
  unfold retireCore
  extract_lets keep src s1 c r x c1 rec0 src'
  have hs1 : s1.memOk := by
    unfold s1
    refine foldl_memOk (fun t7 x8 h9 => ?_) ?_ _
    · exact applyEff_memOk h9 _
    · exact hs
  refine recordRetired_memOk ?_ _ _
  exact hs1

/-! ### What the functions of Machine/Control.lean keep -/

theorem execSafe_memOk {s : State} (hs : s.memOk) (q n) : OutOk (execSafe q n s) := by
  unfold execSafe
  exact tile_memOk hs (fun _ h2 => actOk_ite (actOk_ok (safeSuspend_memOk hs _ _ _ _ _ _ _)) (actOk_ok h2)) _ _

theorem execYield_memOk {s : State} (hs : s.memOk) (q) : OutOk (execYield q s) := by
  unfold execYield
  exact tile_memOk hs (fun _ h2 => actOk_ite (actOk_error (illegal_stopOk _ _)) (actOk_ite (actOk_error (illegal_stopOk _ _))
      (actOk_ite (actOk_error stopOk_hold) (actOk_ok (safeSuspend_memOk h2 _ _ _ _ _ _ _))))) _ _

theorem execSuspend_memOk {s : State} (hs : s.memOk) (q a) : OutOk (execSuspend q a s) := by
  unfold execSuspend
  exact tile_memOk hs (fun _ h2 => actOk_ite (actOk_error (illegal_stopOk _ _)) (actOk_ite (actOk_error (illegal_stopOk _ _))
      (actOk_ok (safeSuspend_memOk h2 _ _ _ _ _ _ _)))) _ _

theorem execRetire_memOk {s : State} (hs : s.memOk) (q) : OutOk (execRetire q s) := by
  unfold execRetire
  exact tile_memOk hs (fun _ h2 => actOk_ok (retireCore_memOk h2 _)) _ _

theorem callStop_stopOk {s : State} (c n) : StopOk (callStop s c n) := by
  unfold callStop
  exact stopOk_trap

theorem execSvc_memOk {s : State} (hs : s.memOk) (q n) : OutOk (execSvc q n s) := by
  unfold execSvc
  exact tile_memOk hs (fun _ h2 => actOk_error (callStop_stopOk _ _)) _ _

theorem execBrk_memOk {s : State} (hs : s.memOk) (q n) : OutOk (execBrk q n s) := by
  unfold execBrk
  exact tile_memOk hs (fun _ h2 => actOk_error (callStop_stopOk _ _)) _ _

theorem sysChk_stopOk {s : State} (n write) {e} (hr : sysChk s n write = some e) : StopOk e := by
  unfold sysChk at hr
  split at hr
  · cases hr
    exact illegal_stopOk _ _
  split at hr
  · cases hr
    exact privileged_stopOk _
  split at hr
  · cases hr
    exact privileged_stopOk _
  · cases hr

theorem execSysrd_memOk {s : State} (hs : s.memOk) (q d n) : OutOk (execSysrd q d n s) := by
  unfold execSysrd
  refine tileChk_memOk (fun _ e8 => sysChk_stopOk _ _ e8) hs (fun t9 h10 => ?_) _
  refine actOk_ite (actOk_error (privileged_stopOk _)) ?_
  extract_lets x
  exact actOk_ok (push_memOk h10 _ _ _)

theorem sysHold_stopOk {s : State} (n v) {e} (hr : sysHold s n v = some e) : StopOk e := by
  unfold sysHold at hr
  split at hr
  · split at hr
    · cases hr
      exact stopOk_trap
    · cases hr
  · extract_lets vf at hr
    split at hr
    · cases hr
      exact privileged_stopOk _
    split at hr
    · cases hr
      exact stopOk_hold
    · cases hr
  · split at hr
    · cases hr
      exact stopOk_hold
    · cases hr
  · cases hr

theorem execSyswr_memOk {s : State} (hs : s.memOk) (q a n) : OutOk (execSyswr q a n s) := by
  unfold execSyswr
  refine tileChk_memOk (fun _ e8 => sysChk_stopOk _ _ e8) hs (fun t9 h10 => ?_) _
  refine actOk_ite (actOk_error (privileged_stopOk _)) ?_
  extract_lets x t1
  have ht1 : t1.memOk := ite_memOk h10 h10
  split
  · rename_i e13
    exact actOk_error (sysHold_stopOk _ _ e13)
  exact actOk_ok (push_memOk ht1 _ _ _)

theorem rfeAt_memOk {s : State} (hs : s.memOk) (pa) : (rfeAt s pa).1.memOk := by
  unfold rfeAt
  extract_lets r prv
  split
  · exact hs
  split
  · exact hs
  · exact returnRecord_memOk hs _ _

theorem execRfe_memOk {s : State} (hs : s.memOk) (q a d l) : OutOk (execRfe q a d l s) := by
  unfold execRfe
  refine tile_memOk hs (fun t ht => ?_) _ _
  extract_lets va
  split
  · exact actOk_error (accStop_stopOk _ _ _ _ _)
  split
  · exact actOk_error (accStop_stopOk _ _ _ _ _)
  have h1 := translateMark_memOk ht _ _ _ _ _ _ ‹_›
  split
  · exact actOk_error stopOk_hold
  split
  · exact actOk_error (accStop_stopOk _ _ _ _ _)
  · refine unhurt_actOk ?_ _
    exact actOk_ok (rfeAt_memOk h1 _)

theorem execQlock_memOk {s : State} (hs : s.memOk) (q d) : OutOk (execQlock q d s) := by
  unfold execQlock
  refine tile_memOk hs (fun t3 h4 => ?_) _ _
  extract_lets rest t1 answer
  refine actOk_ite ?_ ?_
  · refine actOk_ok ?_
    refine push_memOk ?_ _ _ _
    exact h4
  refine actOk_ite ?_ ?_
  · refine actOk_ok ?_
    refine push_memOk ?_ _ _ _
    exact h4
  refine actOk_ite ?_ (actOk_error stopOk_lock)
  refine actOk_ok ?_
  refine push_memOk ?_ _ _ _
  refine foldl_memOk (fun t31 x32 h33 => ?_) ?_ _
  · exact updCore_memOk h33 _ _
  · exact h4

theorem execQfree_memOk {s : State} (hs : s.memOk) (q) : OutOk (execQfree q s) := by
  unfold execQfree
  exact tile_memOk hs (fun _ h2 => actOk_ok (ite_memOk (push_memOk h2 _ _ _) h2)) _ _

theorem execArv_memOk {s : State} (hs : s.memOk) (q l r c n) : OutOk (execArv q l r c n s) := by
  unfold execArv
  refine tile_memOk hs (fun t3 h4 => ?_) _ _
  extract_lets a l0 src src'
  split
  · exact actOk_ok (push_memOk h4 _ _ _)
  split
  · exact actOk_ite (actOk_ok h4) (actOk_error (illegal_stopOk _ _))
  refine actOk_ite (actOk_ok h4) ?_
  split
  · exact actOk_ok (push_memOk h4 _ _ _)
  · exact actOk_ok (push_memOk h4 _ _ _)
  · exact actOk_ok (push_memOk h4 _ _ _)
  · exact actOk_ok (push_memOk h4 _ _ _)
  · exact actOk_ok (push_memOk h4 _ _ _)
  · exact actOk_ok h4
  · exact actOk_ok h4

/-! ### What the functions of Machine/CopyEngine.lean keep -/

theorem aliasStop_stopOk (a b) {e} (hr : aliasStop a b = some e) : StopOk e := by
  unfold aliasStop at hr
  extract_lets lo common at hr
  clear_value common
  split at hr
  · cases hr
  · cases hr
    exact stopOk_trap

theorem copyCheck_stopOk {t : State} (kind aa x) {e} (hr : copyCheck t kind aa x = .error e) : StopOk e := by
  unfold copyCheck at hr
  extract_lets tag regs gs g es ed da sa ssz scl rs rd ra at hr
  have stop (reason) : StopOk (copyStop t reason tag) := copyStop_stopOk reason tag
  split at hr
  · exact Except.error.inj hr ▸ stop 0
  split at hr
  · exact Except.error.inj hr ▸ stop 1
  split at hr
  · exact Except.error.inj hr ▸ stop 0
  split at hr
  · exact Except.error.inj hr ▸ stop 1
  split at hr
  · exact Except.error.inj hr ▸ stop 2
  split at hr
  · cases hr
  split at hr
  · next halias =>
    cases hr
    rcases (Option.orElse_eq_some _ _ _).1 halias with h | ⟨-, h⟩
    · exact aliasStop_stopOk _ _ h
    · split at h
      · rcases (Option.orElse_eq_some _ _ _).1 h with h | ⟨-, h⟩
        · exact aliasStop_stopOk _ _ h
        · exact aliasStop_stopOk _ _ h
      · cases h
  · cases hr

theorem issueCopy_memOk {s : State} (hs : s.memOk) (i0 kind rl sc aa sb) : OutOk (issueCopy i0 kind rl sc aa sb s) := by
  unfold issueCopy
  extract_lets x i
  refine tile_memOk hs (fun t3 h4 => ?_) _ _
  split
  · rename_i e7
    exact actOk_error (copyCheck_stopOk _ _ _ e7)
  extract_lets c
  exact issueCmd_memOk (releaseFor_memOk h4 _ _) _

theorem execCpCopy_memOk {s : State} (hs : s.memOk) (q ac rl sc aa sb) : OutOk (execCpCopy q ac rl sc aa sb s) := by
  unfold execCpCopy
  exact issueCopy_memOk hs _ _ _ _ _ _

theorem execCpLdt_memOk {s : State} (hs : s.memOk) (q ac rl sc aa sb) : OutOk (execCpLdt q ac rl sc aa sb s) := by
  unfold execCpLdt
  exact issueCopy_memOk hs _ _ _ _ _ _

theorem execCpStt_memOk {s : State} (hs : s.memOk) (q ac rl sc aa sb) : OutOk (execCpStt q ac rl sc aa sb s) := by
  unfold execCpStt
  exact issueCopy_memOk hs _ _ _ _ _ _

theorem elRd_memOk {s : State} (hs : s.memOk) (c va w j) {r} (hr : elRd s c va w j = .ok r) : r.1.memOk := by
  unfold elRd at hr
  split at hr
  · cases hr
  rename_i e4
  have h5 := cmdRd_memOk hs _ _ _ _ e4
  cases hr
  exact h5

theorem elRd_failOk {s : State} (hs : s.memOk) (c va w j) {e} (hr : elRd s c va w j = .error e) : FailOk e := by
  unfold elRd at hr
  split at hr
  · rename_i e1
    cases hr
    exact cmdRd_failOk hs _ _ _ _ e1
  cases hr

theorem elWr_memOk {s : State} (hs : s.memOk) (c va w j v l) {t} (hr : elWr s c va w j v l = .ok t) : t.memOk := by
  unfold elWr at hr
  extract_lets a at hr
  split at hr
  · split at hr
    · cases hr
    rename_i e4
    exact cmdWr_memOk (cmdRd_memOk hs _ _ _ _ e4) _ _ _ _ _ _ hr
  · exact cmdWr_memOk hs _ _ _ _ _ _ hr

theorem elWr_failOk {s : State} (hs : s.memOk) (c va w j v l) {e} (hr : elWr s c va w j v l = .error e) : FailOk e := by
  unfold elWr at hr
  extract_lets a at hr
  split at hr
  · split at hr
    · rename_i e1
      cases hr
      exact cmdRd_failOk hs _ _ _ _ e1
    rename_i e4
    exact cmdWr_failOk (cmdRd_memOk hs _ _ _ _ e4) _ _ _ _ _ _ hr
  · exact cmdWr_failOk hs _ _ _ _ _ _ hr

theorem copyEl_memOk {s : State} (hs : s.memOk) (c e) {t} (hr : copyEl c e s = .ok t) : t.memOk := by
  unfold copyEl at hr
  extract_lets x n0 at hr
  split at hr
  · cases hr
  rename_i e4
  exact elWr_memOk (elRd_memOk hs _ _ _ _ e4) _ _ _ _ _ _ hr

theorem copyEl_failOk {s : State} (hs : s.memOk) (c e) {err} (hr : copyEl c e s = .error err) : FailOk err := by
  unfold copyEl at hr
  extract_lets x n0 at hr
  split at hr
  · rename_i e1
    cases hr
    exact elRd_failOk hs _ _ _ _ e1
  rename_i e4
  exact elWr_failOk (elRd_memOk hs _ _ _ _ e4) _ _ _ _ _ _ hr

theorem readEls_memOk {s : State} (hs : s.memOk) (c va w l) {r} (hr : readEls c va w l s = .ok r) : r.1.memOk := by
  fun_induction readEls c va w l s generalizing r with
  | case1 =>
    cases hr
    exact hs
  | case2 => cases hr
  | case3 => cases hr
  | case4 s j js s1 v l h1 s2 vs h2 ih =>
    cases hr
    have h2 := ih (elRd_memOk hs _ _ _ _ h1) h2
    exact h2

theorem readEls_failOk {y : State} (hy : y.memOk) (c va w x) {e} (hr : readEls c va w x y = .error e) : FailOk e := by
  fun_induction readEls c va w x y generalizing e
  · cases hr
  · rename_i e1
    have h3 := elRd_failOk hy _ _ _ _ e1
    cases hr
    exact h3
  · rename_i e4 _ e5 ih6
    have h7 := elRd_memOk hy _ _ _ _ e4
    have h9 := ih6 h7 e5
    cases hr
    exact h9
  · cases hr

theorem writeEls_memOk {y : State} (hy : y.memOk) (c va w x) {t} (hr : writeEls c va w x y = .ok t) : t.memOk := by
  fun_induction writeEls c va w x y generalizing t
  · cases hr
    exact hy
  · cases hr
  · rename_i e4 ih5
    have h6 := elWr_memOk hy _ _ _ _ _ _ e4
    exact ih5 h6 hr

theorem writeEls_failOk {y : State} (hy : y.memOk) (c va w x) {e} (hr : writeEls c va w x y = .error e) : FailOk e := by
  fun_induction writeEls c va w x y generalizing e
  · cases hr
  · rename_i e1
    have h3 := elWr_failOk hy _ _ _ _ _ _ e1
    cases hr
    exact h3
  · rename_i e4 ih5
    have h6 := elWr_memOk hy _ _ _ _ _ _ e4
    exact ih5 h6 hr

/-- The scale of a slice, derived and written or read, leaves a canonical state. -/
theorem scale_memOk {s : State} (hs : s.memOk) {p : Prop} [Decidable p] (c : Cmd) (sa v n l x) {r}
    (hr : (if p then (cmdWr s c.who sa 1 v l).map (fun t => (t, x)) else cmdRd s c.who sa n) = .ok r) : r.1.memOk := by
  split at hr
  · obtain ⟨t, ht, rfl⟩ := map_eq_ok.1 hr
    exact cmdWr_memOk hs _ _ _ _ _ _ ht
  · exact cmdRd_memOk hs _ _ _ _ hr

theorem scale_failOk {s : State} (hs : s.memOk) {p : Prop} [Decidable p] (c : Cmd) (sa v n l x) {e}
    (hr : (if p then (cmdWr s c.who sa 1 v l).map (fun t => (t, x)) else cmdRd s c.who sa n) = .error e) : FailOk e := by
  split at hr
  · exact cmdWr_failOk hs _ _ _ _ _ _ (map_eq_error.1 hr)
  · exact cmdRd_failOk hs _ _ _ _ hr

theorem scaledSlice_memOk {s : State} (hs : s.memOk) (c e) {t} (hr : scaledSlice c e s = .ok t) : t.memOk := by
  unfold scaledSlice at hr
  dsimp only at hr
  split at hr
  · cases hr
  · rename_i hels
    have h1 := readEls_memOk hs _ _ _ _ hels
    split at hr
    · cases hr
    · rename_i hscale
      exact writeEls_memOk (scale_memOk h1 _ _ _ _ _ _ hscale) _ _ _ _ hr

theorem scaledSlice_failOk {s : State} (hs : s.memOk) (c e) {err} (hr : scaledSlice c e s = .error err) : FailOk err := by
  unfold scaledSlice at hr
  dsimp only at hr
  split at hr
  · cases hr
    exact readEls_failOk hs _ _ _ _ ‹_›
  · rename_i hels
    have h1 := readEls_memOk hs _ _ _ _ hels
    split at hr
    · cases hr
      rename_i hscale
      exact scale_failOk h1 _ _ _ _ _ _ hscale
    · rename_i hscale
      exact writeEls_failOk (scale_memOk h1 _ _ _ _ _ _ hscale) _ _ _ _ hr

theorem runCopy_memOk {s : State} (hs : s.memOk) (c) : (runCopy s c).state.memOk := by
  unfold runCopy
  extract_lets x g
  split
  · exact hs
  split
  next s1 f h =>
  show s1.memOk
  split at h
  · exact memOk_of_eq h (workGo_memOk (fun _ _ _ ht e => copyEl_memOk ht _ _ e) (fun _ _ _ ht e => copyEl_failOk ht _ _ e) hs _ _)
  · exact memOk_of_eq h (workGo_memOk (fun _ _ _ ht e => scaledSlice_memOk ht _ _ e)
        (fun _ _ _ ht e => scaledSlice_failOk ht _ _ e) hs _ _)

theorem execCpMap_memOk {s : State} (hs : s.memOk) (q aa sb) : OutOk (execCpMap q aa sb s) := by
  unfold execCpMap
  refine tile_memOk hs (fun t3 h4 => ?_) _ _
  extract_lets vb x
  split
  · exact actOk_error stopOk_trap
  · exact actOk_ok (push_memOk h4 _ _ _)

theorem execCpUnmap_memOk {s : State} (hs : s.memOk) (q rl sc sb) : OutOk (execCpUnmap q rl sc sb s) := by
  unfold execCpUnmap
  extract_lets i
  refine tile_memOk hs (fun t3 h4 => ?_) _ _
  extract_lets x
  refine actOk_ite (actOk_error (copyStop_stopOk _ _)) ?_
  split
  · rename_i e7
    have h8 := (issueCmd_memOk h4 _).1 _ e7
    exact actOk_ok h8
  rename_i e9
  have h10 := (issueCmd_memOk h4 _).2 _ e9
  exact actOk_error h10

theorem runUnmap_memOk {s : State} (hs : s.memOk) (c) : (runUnmap s c).state.memOk := by
  unfold runUnmap
  extract_lets n
  split
  · split
    · exact hs
    extract_lets s1 src
    have hs1 : s1.memOk := dropLines_memOk hs _
    exact hs1
  · exact hs

theorem issueRange_memOk {s : State} (hs : s.memOk) (i kind rl sc aa sb) : OutOk (issueRange i kind rl sc aa sb s) := by
  unfold issueRange
  refine tile_memOk hs (fun t3 h4 => ?_) _ _
  extract_lets x va
  exact actOk_ite (actOk_error (copyStop_stopOk _ _)) (actOk_ite (actOk_error (copyStop_stopOk _ _)) (issueCmd_memOk h4 _))

theorem execCpFill_memOk {s : State} (hs : s.memOk) (q ac sc aa sb) : OutOk (execCpFill q ac sc aa sb s) := by
  unfold execCpFill
  exact issueRange_memOk hs _ _ _ _ _ _

theorem execCpFlush_memOk {s : State} (hs : s.memOk) (q ac rl sc aa sb) : OutOk (execCpFlush q ac rl sc aa sb s) := by
  unfold execCpFlush
  exact issueRange_memOk hs _ _ _ _ _ _

theorem execCpInval_memOk {s : State} (hs : s.memOk) (q ac rl sc aa sb) : OutOk (execCpInval q ac rl sc aa sb s) := by
  unfold execCpInval
  exact issueRange_memOk hs _ _ _ _ _ _

/-- A command's work that only reads, unit by unit, and keeps what it reads outside memory. -/
theorem workGo_cmdRd_memOk {s : State} (hs : s.memOk) {g : ℕ → State → Except CFail (State × ℕ × Label)}
    {k : ℕ → State → ℕ → Label → State}
    (hg : ∀ i t, t.memOk → (∀ r, g i t = .ok r → r.1.memOk) ∧ ∀ e, g i t = .error e → FailOk e) (hk : ∀ i t v l, t.memOk →
    (k i t v l).memOk) (n i) :
    (workGo (fun i t => match g i t with | .ok (t1, v, l) => .ok (k i t1 v l) | .error e => .error e) n i s).1.memOk := by
  refine workGo_memOk (fun i t u ht h => ?_) (fun i t e ht h => ?_) hs n i
  · split at h
    · next h' =>
      cases h
      exact hk _ _ _ _ ((hg i t ht).1 _ h')
    · cases h
  · split at h
    · cases h
    · next h' =>
      cases h
      exact (hg i t ht).2 _ h'

theorem fillLines_memOk {s : State} (hs : s.memOk) (c) : (fillLines s c).1.memOk := by
  unfold fillLines
  extract_lets lo len vas
  exact workGo_cmdRd_memOk hs (g := fun j t => cmdRd t c.who (vas.getD j 0) 128) (k := fun _ t _ _ => t)
    (fun _ _ ht => ⟨fun _ => cmdRd_memOk ht _ _ _ _, fun _ => cmdRd_failOk ht _ _ _ _⟩) (fun _ _ _ _ ht => ht) _ _

theorem runRange_memOk {s : State} (hs : s.memOk) (c) : (runRange s c).state.memOk := by
  unfold runRange
  extract_lets lo len
  split
  · split
    rename_i e1
    have h2 := memOk_of_eq e1 (fillLines_memOk hs _)
    exact h2
  · exact cleanLines_memOk hs _
  · exact dropLines_memOk hs _

theorem execCpBcnt_memOk {s : State} (hs : s.memOk) (q rl sc aa sb) : OutOk (execCpBcnt q rl sc aa sb s) := by
  unfold execCpBcnt
  extract_lets i
  refine tile_memOk hs (fun t3 h4 => ?_) _ _
  extract_lets x va t0
  have ht0 : t0.memOk := ite_memOk (releaseLines_memOk h4 _) h4
  refine actOk_ite (actOk_error (accStop_stopOk _ _ _ _ _)) ?_
  split
  · exact actOk_error (accStop_stopOk _ _ _ _ _)
  rename_i e9
  exact actOk_ite (actOk_error (copyStop_stopOk _ _)) (actOk_ok (writeVa_memOk ht0 _ _ _ _ _ _ _ e9))

theorem execCpTclr_memOk {s : State} (hs : s.memOk) (q sb) : OutOk (execCpTclr q sb s) := by
  unfold execCpTclr
  extract_lets i
  refine tile_memOk hs (fun t3 h4 => ?_) _ _
  extract_lets m
  exact actOk_ok (push_memOk (push_memOk h4 _ _ _) _ _ _)

theorem wfCheck_stopOk {t : State} (aa x) {e} (hr : wfCheck t aa x = some e) : StopOk e := by
  unfold wfCheck at hr
  extract_lets tag sf g0 at hr
  split at hr
  · cases hr
    exact copyStop_stopOk _ _
  split at hr
  · cases hr
    exact copyStop_stopOk _ _
  split at hr
  · split at hr
    · cases hr
      exact copyStop_stopOk _ _
    split at hr
    · cases hr
      exact copyStop_stopOk _ _
    split at hr
    · cases hr
      exact copyStop_stopOk _ _
    · cases hr
  split at hr
  · cases hr
    exact copyStop_stopOk _ _
  split at hr
  · cases hr
    exact copyStop_stopOk _ _
  split at hr
  · cases hr
    exact copyStop_stopOk _ _
  · cases hr

theorem execCpWfill_memOk {s : State} (hs : s.memOk) (q ac sc aa sb) : OutOk (execCpWfill q ac sc aa sb s) := by
  unfold execCpWfill
  extract_lets x i
  refine tile_memOk hs (fun t3 h4 => ?_) _ _
  split
  · rename_i e7
    have h8 := wfCheck_stopOk _ _ e7
    exact actOk_error h8
  extract_lets c
  split
  · rename_i e11
    have h12 := (issueCmd_memOk h4 _).1 _ e11
    exact actOk_ok h12
  rename_i e13
  have h14 := (issueCmd_memOk h4 _).2 _ e13
  exact actOk_error h14

theorem tileRow_memOk {s : State} (hs : s.memOk) (c va bytes) {r} (hr : tileRow c va bytes s = .ok r) : r.1.memOk := by
  unfold tileRow at hr
  split at hr
  · split at hr
    · cases hr
    rename_i e4
    cases hr
    exact cmdRd_memOk hs _ _ _ _ e4
  split at hr
  · cases hr
  rename_i e10
  split at hr
  · cases hr
  rename_i e16
  cases hr
  exact cmdRd_memOk (cmdRd_memOk hs _ _ _ _ e10) _ _ _ _ e16

theorem tileRow_failOk {s : State} (hs : s.memOk) (c va bytes) {e} (hr : tileRow c va bytes s = .error e) : FailOk e := by
  unfold tileRow at hr
  split at hr
  · split at hr
    · rename_i e1
      cases hr
      exact cmdRd_failOk hs _ _ _ _ e1
    cases hr
  split at hr
  · rename_i e7
    cases hr
    exact cmdRd_failOk hs _ _ _ _ e7
  rename_i e10
  split at hr
  · rename_i e13
    cases hr
    exact cmdRd_failOk (cmdRd_memOk hs _ _ _ _ e10) _ _ _ _ e13
  cases hr

theorem tileRows_memOk {s : State} (hs : s.memOk) (c base pitch bytes l) {r} (hr : tileRows c base pitch bytes l s = .ok r) :
    r.1.memOk := by
  fun_induction tileRows c base pitch bytes l s generalizing r with
  | case1 =>
    cases hr
    exact hs
  | case2 => cases hr
  | case3 => cases hr
  | case4 s k ks s1 v l h h1 s2 vs l2 h2 hrest ih =>
    cases hr
    have h2 := ih (tileRow_memOk hs _ _ _ h1) hrest
    exact h2

theorem tileRows_failOk {y : State} (hy : y.memOk) (c base pitch bytes x) {e} (hr : tileRows c base pitch bytes x y = .error e) :
    FailOk e := by
  fun_induction tileRows c base pitch bytes x y generalizing e
  · cases hr
  · rename_i e1
    have h3 := tileRow_failOk hy _ _ _ e1
    cases hr
    exact h3
  · rename_i e4 _ e5 ih6
    have h7 := tileRow_memOk hy _ _ _ e4
    have h9 := ih6 h7 e5
    cases hr
    exact h9
  · cases hr

theorem wfTile_memOk {s : State} (hs : s.memOk) (c t) {r} (hr : wfTile c t s = .ok r) : r.1.memOk := by
  unfold wfTile at hr
  extract_lets x w base u0 at hr
  split at hr
  · cases hr
  rename_i e4
  split at hr
  · cases hr
    exact tileRows_memOk hs _ _ _ _ _ e4
  cases hr
  exact tileRows_memOk hs _ _ _ _ _ e4

theorem wfTile_failOk {s : State} (hs : s.memOk) (c t) {e} (hr : wfTile c t s = .error e) : FailOk e := by
  unfold wfTile at hr
  extract_lets x w base u0 at hr
  split at hr
  · rename_i e1
    cases hr
    exact tileRows_failOk hs _ _ _ _ _ e1
  split at hr
  · cases hr
  · cases hr

theorem wfTiles_memOk {z : State × Option CFail} (hz : z.1.memOk) (c x y) : (wfTiles c x y z).1.memOk := by
  fun_induction wfTiles c x y z with
  | case1 => exact hz
  | case2 _ _ s _ _ he =>
    have hs : s.memOk := hz
    exact getD_memOk (wfTile_failOk hs _ _ he) hs
  | case3 _ _ s _ _ _ h ih =>
    have hs : s.memOk := hz
    have h1 := wfTile_memOk hs _ _ h
    exact ih h1

theorem runWfill_memOk {s : State} (hs : s.memOk) (c) : (runWfill s c).state.memOk := by
  unfold runWfill
  extract_lets x b
  split
  next s1 f h =>
  show s1.memOk
  split at h
  · exact memOk_of_eq h (wfTiles_memOk (z := (s, none)) hs _ _ _)
  · refine memOk_of_eq h (workGo_memOk (fun _ t _ ht e => ?_) (fun _ t _ ht e => ?_) hs _ _)
    · split at e
      · cases e
      · next h' =>
        cases e
        exact cmdRd_memOk ht _ _ _ _ h'
    · split at e
      · next h' =>
        cases e
        exact cmdRd_failOk ht _ _ _ _ h'
      · cases e

theorem issueSpill_memOk {s : State} (hs : s.memOk) (i0 kind rl sc aa sb) : OutOk (issueSpill i0 kind rl sc aa sb s) := by
  unfold issueSpill
  extract_lets x i len tag
  refine tile_memOk hs (fun t3 h4 => ?_) _ _
  extract_lets src da src'
  refine actOk_ite (actOk_error (copyStop_stopOk _ _)) ?_
  refine actOk_ite (actOk_error (copyStop_stopOk _ _)) ?_
  split
  · rename_i e7
    have h8 := aliasStop_stopOk _ _ e7
    exact actOk_error h8
  exact issueCmd_memOk (releaseFor_memOk h4 _ _) _

theorem execCpSpill_memOk {s : State} (hs : s.memOk) (q ac rl sc aa sb) : OutOk (execCpSpill q ac rl sc aa sb s) := by
  unfold execCpSpill
  exact issueSpill_memOk hs _ _ _ _ _ _

theorem execCpUnspill_memOk {s : State} (hs : s.memOk) (q ac rl sc aa sb) : OutOk (execCpUnspill q ac rl sc aa sb s) := by
  unfold execCpUnspill
  exact issueSpill_memOk hs _ _ _ _ _ _

theorem spillEnd_failOk {s : State} (w va kind tier) {e} (hr : spillEnd s w va kind tier = some e) : FailOk e := by
  unfold spillEnd at hr
  split at hr
  · cases hr
    exact cfailOf_failOk _ _
  split at hr
  · split at hr
    · cases hr
    cases hr
    exact CFail.of_failOk _ _ _ _
  split at hr
  · cases hr
  cases hr
  exact CFail.of_failOk _ _ _ _

theorem noAlloc_memOk {α : Type} {f : State → Except CFail (State × α)} {s : State}
    (hf : ∀ t r, t.memOk → f t = .ok r → r.1.memOk) (hs : s.memOk) (w va kind) {r} (hr : noAlloc w va kind f s = .ok r) :
    r.1.memOk := by
  unfold noAlloc at hr
  extract_lets held vf s1 at hr
  have hs1 : s1.memOk := setVf_memOk hs _ _
  split at hr
  · cases hr
  · next t x h =>
    have ht : t.memOk := by
      refine hf _ _ ?_ h
      exact ite_memOk hs1 hs1
    cases hr
    exact ht

theorem noAlloc_failOk {α : Type} {f : State → Except CFail (State × α)} {s : State}
    (hf : ∀ t e, t.memOk → f t = .error e → FailOk e) (hs : s.memOk) (w va kind) {e} (hr : noAlloc w va kind f s = .error e) :
    FailOk e := by
  unfold noAlloc at hr
  extract_lets held vf s1 at hr
  have hs1 : s1.memOk := setVf_memOk hs _ _
  split at hr
  · next e' h =>
    have he : FailOk e' := by
      refine hf _ _ ?_ h
      exact ite_memOk hs1 hs1
    cases hr
    rintro t ht
    obtain ⟨u, hu, rfl⟩ := Option.map_eq_some_iff.1 ht
    have hu := he u hu
    exact hu
  · cases hr

/-- A command's access that allocates in no cache, or an ordinary one. -/
theorem noAlloc_ite_memOk {α : Type} {f : State → Except CFail (State × α)} {s : State}
    (hf : ∀ t r, t.memOk → f t = .ok r → r.1.memOk) (hs : s.memOk) {p : Prop} [Decidable p] (w va kind) {r}
    (hr : (if p then noAlloc w va kind f s else f s) = .ok r) : r.1.memOk := by
  split at hr
  · exact noAlloc_memOk hf hs _ _ _ hr
  · exact hf _ _ hs hr

theorem noAlloc_ite_failOk {α : Type} {f : State → Except CFail (State × α)} {s : State}
    (hf : ∀ t e, t.memOk → f t = .error e → FailOk e) (hs : s.memOk) {p : Prop} [Decidable p] (w va kind) {e}
    (hr : (if p then noAlloc w va kind f s else f s) = .error e) : FailOk e := by
  split at hr
  · exact noAlloc_failOk hf hs _ _ _ hr
  · exact hf _ _ hs hr

theorem spillCopy_memOk {s : State} (hs : s.memOk) (c src dst) {t} (hr : spillCopy c src dst s = .ok t) : t.memOk := by
  unfold spillCopy at hr
  dsimp only at hr
  split at hr
  · cases hr
  · rename_i hread
    have h1 := noAlloc_ite_memOk (fun _ _ h => cmdRd_memOk h _ _ _ _) hs _ _ _ hread
    split at hr <;> cases hr
    rename_i hwrite
    refine noAlloc_ite_memOk (fun _ _ h hw => ?_) h1 _ _ _ hwrite
    obtain ⟨u, hu, rfl⟩ := map_eq_ok.1 hw
    exact cmdWr_memOk h _ _ _ _ _ _ hu

theorem spillCopy_failOk {s : State} (hs : s.memOk) (c src dst) {e} (hr : spillCopy c src dst s = .error e) : FailOk e := by
  unfold spillCopy at hr
  dsimp only at hr
  split at hr
  · cases hr
    rename_i hread
    exact noAlloc_ite_failOk (fun _ _ h => cmdRd_failOk h _ _ _ _) hs _ _ _ hread
  · rename_i hread
    have h1 := noAlloc_ite_memOk (fun _ _ h => cmdRd_memOk h _ _ _ _) hs _ _ _ hread
    split at hr <;> cases hr
    rename_i hwrite
    exact noAlloc_ite_failOk (fun _ _ h hw => cmdWr_failOk h _ _ _ _ _ _ (map_eq_error.1 hw)) h1 _ _ _ hwrite

theorem spillLine_memOk {s : State} (hs : s.memOk) (c j) {t} (hr : spillLine c j s = .ok t) : t.memOk := by
  unfold spillLine at hr
  extract_lets src dst at hr
  split at hr
  · cases hr
  exact spillCopy_memOk hs _ _ _ hr

theorem spillLine_failOk {s : State} (hs : s.memOk) (c j) {e} (hr : spillLine c j s = .error e) : FailOk e := by
  unfold spillLine at hr
  dsimp only at hr
  split at hr
  · cases hr
    rename_i hend
    obtain h | ⟨-, h⟩ := (Option.orElse_eq_some _ _ _).1 hend
    · exact spillEnd_failOk _ _ _ _ h
    · exact spillEnd_failOk _ _ _ _ h
  · exact spillCopy_failOk hs _ _ _ hr

theorem runSpill_memOk {s : State} (hs : s.memOk) (c) : (runSpill s c).state.memOk := by
  unfold runSpill
  extract_lets len
  split
  rename_i e1
  have h2 := memOk_of_eq e1 (workGo_memOk (fun _ _ _ h6 e7 => spillLine_memOk h6 _ _ e7)
      (fun _ _ _ h11 e12 => spillLine_failOk h11 _ _ e12) hs _ _)
  exact h2

theorem execCpOvl_memOk {s : State} (hs : s.memOk) (q ac sc aa sb) : OutOk (execCpOvl q ac sc aa sb s) := by
  unfold execCpOvl
  extract_lets x i tag
  refine tile_memOk hs (fun t3 h4 => ?_) _ _
  extract_lets src w src' c
  refine actOk_ite (actOk_error stopOk_hold) ?_
  refine actOk_ite (actOk_error (copyStop_stopOk _ _)) ?_
  refine actOk_ite (actOk_error (copyStop_stopOk _ _)) ?_
  refine actOk_ite (actOk_error (copyStop_stopOk _ _)) ?_
  refine actOk_ite (actOk_error (copyStop_stopOk _ _)) ?_
  split
  · rename_i e7
    have h8 := (issueCmd_memOk h4 _).1 _ e7
    exact actOk_ok h8
  rename_i e9
  have h10 := (issueCmd_memOk h4 _).2 _ e9
  exact actOk_error h10

theorem ovlImage_memOk {s : State} (hs : s.memOk) (c) {r} (hr : ovlImage c s = .ok r) : r.1.memOk := by
  unfold ovlImage at hr
  split at hr
  · cases hr
  rename_i e4
  have h5 := cmdRd_memOk hs _ _ _ _ e4
  extract_lets outlen inlen nt at hr
  split at hr
  · cases hr
    exact h5
  split at hr
  · cases hr
  rename_i e10
  have h11 := cmdRd_memOk h5 _ _ _ _ e10
  split at hr
  · cases hr
    exact h11
  split at hr
  · cases hr
  rename_i e16
  have h17 := cmdRd_memOk h11 _ _ _ _ e16
  extract_lets ws l at hr
  split at hr
  · cases hr
    exact h17
  split at hr
  · cases hr
    exact h17
  split at hr
  · cases hr
    exact h17
  cases hr
  exact h17

theorem ovlImage_failOk {s : State} (hs : s.memOk) (c) {e} (hr : ovlImage c s = .error e) : FailOk e := by
  unfold ovlImage at hr
  split at hr
  · next h =>
    cases hr
    exact cmdRd_failOk hs _ _ _ _ h
  next s1 h l1 h1 =>
  have h1 : s1.memOk := cmdRd_memOk hs _ _ _ _ h1
  extract_lets outlen inlen nt at hr
  split at hr
  · cases hr
  split at hr
  · next h =>
    have he := cmdRd_failOk h1 _ _ _ _ h
    cases hr
    exact he
  next s2 img l2 h2 =>
  have h2 : s2.memOk := cmdRd_memOk h1 _ _ _ _ h2
  split at hr
  · cases hr
  split at hr
  · next h =>
    have he := cmdRd_failOk h2 _ _ _ _ h
    cases hr
    exact he
  extract_lets ws l at hr
  split at hr
  · cases hr
  split at hr
  · cases hr
  split at hr
  · cases hr
  · cases hr

theorem ovlBytes_memOk {s : State} (hs : s.memOk) (c) {r} (hr : ovlBytes c s = .ok r) : r.1.memOk := by
  unfold ovlBytes at hr
  split at hr
  · cases hr
  rename_i e3
  split at hr
  · exact ovlImage_memOk (translateMark_memOk hs _ _ _ _ _ _ e3) _ hr
  split at hr
  · cases hr
  rename_i e8
  cases hr
  exact cmdRd_memOk (translateMark_memOk hs _ _ _ _ _ _ e3) _ _ _ _ e8

theorem ovlBytes_failOk {s : State} (hs : s.memOk) (c) {e} (hr : ovlBytes c s = .error e) : FailOk e := by
  unfold ovlBytes at hr
  split at hr
  · cases hr
    exact cfailOf_failOk _ _
  rename_i e3
  split at hr
  · exact ovlImage_failOk (translateMark_memOk hs _ _ _ _ _ _ e3) _ hr
  split at hr
  · rename_i e5
    cases hr
    exact cmdRd_failOk (translateMark_memOk hs _ _ _ _ _ _ e3) _ _ _ _ e5
  cases hr

theorem runOvl_memOk {s : State} (hs : s.memOk) (c) : (runOvl s c).state.memOk := by
  unfold runOvl
  extract_lets idle mine put
  have hput {t : State} (ht : t.memOk) (h : Half) : (put t h).memOk := by
    unfold put
    split
    · exact ht
    · exact ht
  split
  · exact hput (getD_memOk (ovlBytes_failOk hs _ ‹_›) hs) _
  · exact hput (ovlBytes_memOk hs _ ‹_›) _
  · exact hput (ovlBytes_memOk hs _ ‹_›) _

/-! ### What the functions of Machine/Hart.lean keep -/

theorem setHart_memOk {s : State} (hs : s.memOk) (n h) : (setHart s n h).memOk := by
  unfold setHart
  exact hs

theorem setCur_memOk {s : State} (hs : s.memOk) (h) : (setCur s h).memOk := by
  unfold setCur
  exact setHart_memOk hs _ _

theorem updHart_memOk {s : State} (hs : s.memOk) (f) : (updHart s f).memOk := by
  unfold updHart
  exact setCur_memOk hs _

theorem epPut_memOk {s : State} (hs : s.memOk) (e x) : (epPut s e x).memOk := by
  unfold epPut
  exact engWr_memOk hs _ _ _ _

theorem jettyTouch_memOk {s : State} (hs : s.memOk) (a) : (jettyTouch s a).memOk := by
  unfold jettyTouch
  exact ite_memOk hs hs

theorem hartGet_memOk {s : State} (hs : s.memOk) (a n atomic) {r} (hr : hartGet s a n atomic = some r) : r.1.memOk := by
  unfold hartGet at hr
  split at hr
  · cases hr
    exact jettyTouch_memOk hs _
  split at hr
  · obtain ⟨u, hu, rfl⟩ := Option.map_eq_some_iff.1 hr
    exact devRead_memOk hs _ hu
  split at hr
  · cases hr
  obtain ⟨u, hu, rfl⟩ := Option.map_eq_some_iff.1 hr
  refine freeBytes_memOk ?_ _
  split at hu
  · cases hu
    exact hs
  · exact windowFlit_memOk hs _ _ _ _ _ hu

theorem hartPut_memOk {s : State} (hs : s.memOk) (a n v atomic) {t} (hr : hartPut s a n v atomic = some t) : t.memOk := by
  unfold hartPut at hr
  split at hr
  · cases hr
    exact engWr_memOk (jettyTouch_memOk hs _) _ _ _ _
  split at hr
  · exact devWrite_memOk hs _ _ _ _ _ hr
  split at hr
  · cases hr
  · exact leavesTo_memOk hs _ _ _ _ _ _ _ hr

theorem hartRead_memOk {s : State} (hs : s.memOk) (k a n) {r} (hr : hartRead s k a n = some r) : r.1.memOk := by
  induction k generalizing s a n r with
  | zero =>
    cases hr
    exact hs
  | succ k ih =>
    rw [hartRead] at hr
    split at hr
    · cases hr
    next t v _ h =>
    obtain ⟨u, hu, rfl⟩ := Option.map_eq_some_iff.1 hr
    have hu := ih (hartGet_memOk hs _ _ _ h) _ _ hu
    exact hu

theorem hartWrite_memOk {s : State} (hs : s.memOk) (x y z x4) {t} (hr : hartWrite s x y z x4 = some t) : t.memOk := by
  fun_induction hartWrite s x y z x4 generalizing t
  · cases hr
    exact hs
  · cases hr
  · rename_i e3 ih4
    have h5 := hartPut_memOk hs _ _ _ _ e3
    exact ih4 h5 hr

theorem fetchDraw_memOk {s : State} (hs : s.memOk) : (fetchDraw s).memOk := by
  unfold fetchDraw
  exact ite_memOk hs hs

theorem fetchAt_memOk {s : State} (hs : s.memOk) (a) {t} (hr : fetchAt s a = some t) : t.memOk := by
  unfold fetchAt at hr
  split at hr
  · cases hr
    exact jettyTouch_memOk hs _
  split at hr
  · cases hr
  · exact windowFlit_memOk hs _ _ _ _ _ hr

theorem hartFetch_memOk {s0 : State} (hs0 : s0.memOk) : (hartFetch s0).1.memOk := by
  unfold hartFetch
  extract_lets s h pc lo
  have hs : s.memOk := fetchDraw_memOk hs0
  split
  · exact hs
  split
  · exact hs
  next t ht =>
  have ht : t.memOk := fetchAt_memOk hs _ ht
  split
  · exact ht
  split
  · exact ht
  split
  · exact ht
  next u hu =>
  split at hu
  · cases hu
    exact ht
  · exact fetchAt_memOk ht _ hu

theorem hartLoad_memOk {s : State} (hs : s.memOk) (h a n k) {r} (hr : hartLoad s h a n k = .ok r) : r.1.memOk := by
  unfold hartLoad at hr
  extract_lets c at hr
  split at hr
  · cases hr
  split at hr
  · cases hr
  split at hr
  · rename_i e1
    cases hr
    exact hartGet_memOk hs _ _ _ e1
  cases hr

theorem hartStore_memOk {s : State} (hs : s.memOk) (h a n v) {t} (hr : hartStore s h a n v = .ok t) : t.memOk := by
  unfold hartStore at hr
  split at hr
  · cases hr
  split at hr
  · cases hr
  split at hr
  · rename_i e1
    cases hr
    exact hartPut_memOk hs _ _ _ _ e1
  cases hr

theorem jackWrite_memOk {s : State} (hs : s.memOk) (v) : (jackWrite s v).memOk := by
  unfold jackWrite
  extract_lets e x
  exact ite_memOk (epPut_memOk hs _ _) hs

theorem csrPut_memOk {s : State} (hs : s.memOk) (num v) : (csrPut s num v).memOk := by
  unfold csrPut
  extract_lets h w
  refine ite_memOk (jackWrite_memOk hs _) ?_
  refine ite_memOk (ite_memOk hs (setCur_memOk hs _)) ?_
  refine ite_memOk (setCur_memOk hs _) ?_
  split
  · exact setCur_memOk hs _
  · exact setCur_memOk hs _
  · exact setCur_memOk hs _
  · exact setCur_memOk hs _
  · exact setCur_memOk hs _
  · exact setCur_memOk hs _
  · exact setCur_memOk hs _
  · exact setCur_memOk hs _
  · exact setCur_memOk hs _
  · exact setCur_memOk hs _
  · exact setCur_memOk hs _
  · exact setCur_memOk hs _
  · exact hs

theorem retireHart_memOk {s : State} (hs : s.memOk) (user pc counts noInst) : (retireHart s user pc counts noInst).memOk := by
  unfold retireHart
  extract_lets h less t
  have ht : t.memOk := setCur_memOk hs _
  clear_value less
  split
  · exact engWr_memOk ht _ _ _ _
  · exact ht

theorem hartDone_memOk {s : State} (hs : s.memOk) (rd v pc) {t} (hr : hartDone s rd v pc = .ok t) : t.memOk := by
  unfold hartDone at hr
  extract_lets user at hr
  cases hr
  exact retireHart_memOk (updHart_memOk hs _) _ _ _ _

theorem hartCsr_memOk {s : State} (hs : s.memOk) (op imm rd rs1 num next raw) {t}
    (hr : hartCsr s op imm rd rs1 num next raw = .ok t) : t.memOk := by
  unfold hartCsr at hr
  extract_lets h write x old new s1 at hr
  have hs1 : s1.memOk := ite_memOk (csrPut_memOk hs _ _) hs
  split at hr
  · cases hr
  cases hr
  exact retireHart_memOk (updHart_memOk hs1 _) _ _ _ _

theorem scHolds_memOk {s : State} (hs : s.memOk) (a) : (scHolds s a).1.memOk := by
  unfold scHolds
  split
  · exact hs
  split
  rename_i e1
  have h2 := memOk_of_eq e1 (draw_memOk hs)
  exact h2

/-- The load of an lr, where its address lets it reach memory. -/
theorem hartLoad_ite_memOk {s : State} (hs : s.memOk) {p : Prop} [Decidable p] {h a n k} {x : Nat × Nat} {r}
    (hr : (if p then hartLoad s h a n k else .error x) = .ok r) : r.1.memOk := by
  split at hr
  · exact hartLoad_memOk hs _ _ _ _ hr
  · cases hr

/-- The load of an atomic, where its address lets it reach memory. -/
theorem hartLoad_else_memOk {s : State} (hs : s.memOk) {p : Prop} [Decidable p] {h a n k} {x : Nat × Nat} {r}
    (hr : (if p then .error x else hartLoad s h a n k) = .ok r) : r.1.memOk := by
  split at hr
  · cases hr
  · exact hartLoad_memOk hs _ _ _ _ hr

theorem rvRun_memOk {s : State} (hs : s.memOk) (i next raw) {t} (hr : rvRun i next raw s = .ok t) : t.memOk := by
  unfold rvRun at hr
  extract_lets h r at hr
  have hdone {u : State} (hu : u.memOk) {rd v pc} (hr : hartDone u rd v pc = .ok t) : t.memOk := hartDone_memOk hu _ _ _ hr
  cases i with
  | load size sg rd rs1 off =>
    dsimp only at hr
    split at hr
    · cases hr
    · next h1 => exact hdone (hartLoad_memOk hs _ _ _ _ h1) hr
  | store size rs1 rs2 off =>
    dsimp only at hr
    split at hr
    · cases hr
    · next h1 => exact hdone (hartStore_memOk hs _ _ _ _ h1) hr
  | lr dbl rd rs1 =>
    dsimp -zeta only at hr
    extract_lets n a at hr
    split at hr
    · cases hr
    split at hr
    · cases hr
    · next h1 => exact hdone (updHart_memOk (hartLoad_ite_memOk hs h1) _) hr
  | sc dbl rd rs1 rs2 =>
    dsimp -zeta only at hr
    extract_lets n a at hr
    split at hr
    · cases hr
    split at hr
    · cases hr
    split at hr
    · split at hr
      · next h0 => exact hdone (updHart_memOk (memOk_of_eq h0 (scHolds_memOk hs _)) _) hr
      · next h0 =>
        have h0 := memOk_of_eq h0 (scHolds_memOk hs _)
        split at hr
        · next h1 => exact hdone (updHart_memOk (hartPut_memOk h0 _ _ _ _ h1) _) hr
        · cases hr
    · exact hdone (updHart_memOk hs _) hr
  | amo o dbl rd rs1 rs2 =>
    dsimp -zeta only at hr
    extract_lets n a at hr
    split at hr
    · cases hr
    next h1 =>
    have h1 := hartLoad_else_memOk hs h1
    split at hr
    · next h2 => exact hdone (hartPut_memOk h1 _ _ _ _ h2) hr
    · cases hr
  | csr => exact hartCsr_memOk hs _ _ _ _ _ _ _ hr
  | mret =>
    dsimp only at hr
    split at hr
    · cases hr
    · cases hr
      exact retireHart_memOk (updHart_memOk hs _) _ _ _ _
  | wfi =>
    dsimp only at hr
    split at hr
    · cases hr
    · exact hdone hs hr
  | ecall => cases hr
  | ebreak => cases hr
  | _ => exact hdone hs hr

theorem hartSettle_memOk {s : State} {x : HAct} (hs : s.memOk) (hx : ∀ t, x = .ok t → t.memOk) : OutOk (hartSettle s x) := by
  unfold hartSettle
  split
  · exact outOk_next (hx _ rfl)
  · exact outOk_ite (outOk_next (updHart_memOk hs _)) (outOk_next (updHart_memOk hs _))

theorem execHartInstruction_memOk {s : State} (hs : s.memOk) (rv compressed) : OutOk (execHartInstruction rv compressed s) := by
  unfold execHartInstruction
  exact hartSettle_memOk hs (fun _ e2 => rvRun_memOk hs _ _ _ e2)

theorem execMachineTimerInterrupt_memOk {s : State} (hs : s.memOk) : OutOk (execMachineTimerInterrupt s) := by
  unfold execMachineTimerInterrupt
  exact outOk_next (ite_memOk (updHart_memOk hs _) hs)

theorem execJwi_memOk {s : State} (hs : s.memOk) : OutOk (execJwi s) := by
  unfold execJwi
  exact outOk_next (ite_memOk (updHart_memOk hs _) hs)

theorem execJackWrite_memOk {s : State} (hs : s.memOk) (v) : OutOk (execJackWrite v s) := by
  unfold execJackWrite
  exact outOk_next (jackWrite_memOk hs _)

/-! ### What the functions of Machine/Sinter.lean keep -/

theorem skRefuse_stopOk {t : State} (code) : StopOk (skRefuse t code) := by
  unfold skRefuse
  exact illegal_stopOk _ _

theorem skHold_memOk {t : State} {act : Act} (hact : ActOk act) : ActOk (skHold t act) := by
  unfold skHold
  exact actOk_ite (actOk_error stopOk_hold) hact

theorem skAcc_stopOk {t : State} (e va sz word) : StopOk (skAcc t e va sz word) := by
  unfold skAcc
  split
  · exact stopOk_trap
  · exact accStop_stopOk _ _ _ _ _

theorem lowerStop_stopOk {a : Stop} {b : Stop} (ha : StopOk a) (hb : StopOk b) : StopOk (lowerStop a b) := by
  unfold lowerStop
  extract_lets rank
  split
  · exact hb
  · exact ha

theorem skOpen_memOk {t : State} (ht : t.memOk) (upd va size word) {r} (hr : skOpen t upd va size word = .ok r) : r.1.memOk := by
  unfold skOpen at hr
  extract_lets kind at hr
  split at hr
  · cases hr
  split at hr
  · cases hr
  split at hr
  · cases hr
  extract_lets pr at hr
  split at hr
  · cases hr
  rename_i e13
  cases hr
  exact readBytes_memOk ht _ _ _ _ e13

theorem skOpen_stopOk {t : State} (upd va size word) {e} (hr : skOpen t upd va size word = .error e) : StopOk e := by
  unfold skOpen at hr
  extract_lets kind at hr
  split at hr
  · cases hr
    exact accStop_stopOk _ _ _ _ _
  split at hr
  · cases hr
    exact skAcc_stopOk _ _ _ _
  split at hr
  · cases hr
    exact accStop_stopOk _ _ _ _ _
  extract_lets pr at hr
  split at hr
  · cases hr
    exact skAcc_stopOk _ _ _ _
  cases hr

theorem skStop_stopOk {t : State} {e : Stop} (he : StopOk e) (heads code) : StopOk (skStop t e heads code) := by
  unfold skStop
  split
  · exact lowerStop_stopOk he (skRefuse_stopOk _)
  · exact he

theorem skFirst_stopOk {t : State} (upd va size) : StopOk (skFirst t upd va size) := by
  unfold skFirst
  split
  · rename_i e1
    exact lowerStop_stopOk (skRefuse_stopOk _) (skOpen_stopOk _ _ _ _ e1)
  exact skRefuse_stopOk _

theorem skPart_memOk {t : State} (ht : t.memOk) (kind p) {r} (hr : skPart t kind p = some r) : r.1.memOk := by
  unfold skPart at hr
  split at hr
  · rename_i e1
    cases hr
    exact readVa_memOk ht _ _ _ _ e1
  · obtain ⟨u5, e6, rfl⟩ := Option.map_eq_some_iff.1 hr
    exact ht
  cases hr

theorem skSpan_memOk {t : State} (ht : t.memOk) (kind x) {r} (hr : skSpan t kind x = some r) : r.1.memOk := by
  induction x generalizing t r with
  | nil =>
    cases hr
    exact ht
  | cons p l ih =>
    unfold skSpan at hr
    split at hr
    · cases hr
    · next hp =>
      obtain ⟨r', hr', rfl⟩ := Option.map_eq_some_iff.1 hr
      have h1 := skPart_memOk ht _ _ hp
      have h2 := ih h1 hr'
      exact h2

theorem skLines_memOk {t : State} (ht : t.memOk) (upd va size) {r} (hr : skLines t upd va size = some r) : r.1.memOk := by
  unfold skLines at hr
  extract_lets kind n at hr
  obtain ⟨u1, e2, rfl⟩ := Option.map_eq_some_iff.1 hr
  exact skSpan_memOk ht _ _ e2

theorem skLabelStop_stopOk {t : State} {e : Stop} (he : StopOk e) (va size lab writes) :
    StopOk (skLabelStop t e va size lab writes) := by
  unfold skLabelStop
  split
  · split
    · split
      · split
        · exact accStop_stopOk _ _ _ _ _
        · exact he
      · exact he
    exact he
  · exact he

theorem skMergeStop_stopOk {t : State} {e : Stop} (he : StopOk e) (va vb lab) : StopOk (skMergeStop t e va vb lab) := by
  unfold skMergeStop
  split
  · exact skLabelStop_stopOk he _ _ _ _
  exact he

theorem skPut_memOk {t : State} (ht : t.memOk) (o k sealIt lab prov iv) : ActOk (skPut t o k sealIt lab prov iv) := by
  unfold skPut
  extract_lets img img'
  split
  · exact actOk_error (skAcc_stopOk _ _ _ _)
  rename_i e3
  have h4 := writeBytes_memOk ht _ _ _ _ _ _ e3
  exact actOk_ok h4

theorem skUpdate_memOk {s : State} (hs : s.memOk) (i aa want bad0 bad sealIt iv f) :
    OutOk (skUpdate i aa want bad0 bad sealIt iv f s) := by
  unfold skUpdate
  refine tile_memOk hs (fun t3 h4 => ?_) _ _
  refine skHold_memOk ?_
  refine actOk_ite (actOk_error (skFirst_stopOk _ _ _)) ?_
  extract_lets code
  split
  · rename_i e7
    exact actOk_error (skStop_stopOk (skLabelStop_stopOk (skOpen_stopOk _ _ _ _ e7) _ _ _ _) _ _)
  rename_i e10
  split
  · exact actOk_error (skRefuse_stopOk _)
  split
  · exact actOk_ok (skOpen_memOk h4 _ _ _ _ e10)
  · exact skPut_memOk (skOpen_memOk h4 _ _ _ _ e10) _ _ _ _ _ _

theorem execSkInit_memOk {s : State} (hs : s.memOk) (q a b) : OutOk (execSkInit q a b s) := by
  unfold execSkInit
  extract_lets x i typ src
  refine tile_memOk hs (fun t3 h4 => ?_) _ _
  refine skHold_memOk ?_
  refine actOk_ite (actOk_error (skFirst_stopOk _ _ _)) ?_
  split
  · rename_i e7
    exact actOk_error (skLabelStop_stopOk (skOpen_stopOk _ _ _ _ e7) _ _ _ _)
  rename_i e10
  extract_lets st lab k
  exact skPut_memOk (skOpen_memOk h4 _ _ _ _ e10) _ _ _ _ _ _

theorem skAddWord_memOk {s : State} (hs : s.memOk) (i a v b typ) : OutOk (skAddWord i a v b typ s) := by
  unfold skAddWord
  extract_lets n
  exact skUpdate_memOk hs _ _ _ _ _ _ _ _

theorem execSkQadd_memOk {s : State} (hs : s.memOk) (q a v b) : OutOk (execSkQadd q a v b s) := by
  unfold execSkQadd
  exact skAddWord_memOk hs _ _ _ _ _

theorem execSkHadd_memOk {s : State} (hs : s.memOk) (q a v b) : OutOk (execSkHadd q a v b s) := by
  unfold execSkHadd
  exact skAddWord_memOk hs _ _ _ _ _

theorem execSkDadd_memOk {s : State} (hs : s.memOk) (q a v b) : OutOk (execSkDadd q a v b s) := by
  unfold execSkDadd
  exact skAddWord_memOk hs _ _ _ _ _

theorem execSkMerge_memOk {s : State} (hs : s.memOk) (q a b) : OutOk (execSkMerge q a b s) := by
  unfold execSkMerge
  extract_lets i
  refine tile_memOk hs (fun t3 h4 => ?_) _ _
  refine skHold_memOk ?_
  extract_lets va vb heads
  split
  · rename_i e7
    refine actOk_error ?_
    refine skStop_stopOk ?_ _ _
    refine skMergeStop_stopOk ?_ _ _ _
    split
    · rename_i e10
      exact lowerStop_stopOk (skOpen_stopOk _ _ _ _ e7) (skOpen_stopOk _ _ _ _ e10)
    exact skOpen_stopOk _ _ _ _ e7
  rename_i e16
  split
  · rename_i e19
    exact actOk_error (skStop_stopOk (skMergeStop_stopOk (skOpen_stopOk _ _ _ _ e19) _ _ _) _ _)
  rename_i e22
  split
  · exact actOk_error (skRefuse_stopOk _)
  extract_lets m res
  refine actOk_ite ?_ (skPut_memOk (skOpen_memOk (skOpen_memOk h4 _ _ _ _ e16) _ _ _ _ e22) _ _ _ _ _ _)
  clear_value res
  split
  · refine actOk_error ?_
    split
    · exact stopOk_trap
    · exact stopOk_trap
  · exact actOk_error stopOk_trap

theorem execSkCompact_memOk {s : State} (hs : s.memOk) (q a b) : OutOk (execSkCompact q a b s) := by
  unfold execSkCompact
  extract_lets x
  exact skUpdate_memOk hs _ _ _ _ _ _ _ _

theorem execSkSeal_memOk {s : State} (hs : s.memOk) (q a) : OutOk (execSkSeal q a s) := by
  unfold execSkSeal
  exact skUpdate_memOk hs _ _ _ _ _ _ _ _

theorem skQuery_memOk {s : State} (hs : s.memOk) (i a d want bad0 f) : OutOk (skQuery i a d want bad0 f s) := by
  unfold skQuery
  refine tile_memOk hs (fun t3 h4 => ?_) _ _
  refine skHold_memOk ?_
  refine actOk_ite (actOk_error (skFirst_stopOk _ _ _)) ?_
  extract_lets code
  split
  · rename_i e7
    exact actOk_error (skStop_stopOk (skOpen_stopOk _ _ _ _ e7) _ _)
  rename_i e10
  split
  · exact actOk_error (skRefuse_stopOk _)
  · exact actOk_ok (skOpen_memOk h4 _ _ _ _ e10)

theorem execSkQuant_memOk {s : State} (hs : s.memOk) (q a d b) : OutOk (execSkQuant q a d b s) := by
  unfold execSkQuant
  extract_lets x
  exact skQuery_memOk hs _ _ _ _ _ _

theorem execSkRank_memOk {s : State} (hs : s.memOk) (q a d b) : OutOk (execSkRank q a d b s) := by
  unfold execSkRank
  extract_lets x
  exact skQuery_memOk hs _ _ _ _ _ _

theorem execSkTop_memOk {s : State} (hs : s.memOk) (q a d b) : OutOk (execSkTop q a d b s) := by
  unfold execSkTop
  extract_lets x
  exact skQuery_memOk hs _ _ _ _ _ _

theorem execSkCard_memOk {s : State} (hs : s.memOk) (q a d) : OutOk (execSkCard q a d s) := by
  unfold execSkCard
  exact skQuery_memOk hs _ _ _ _ _ _

theorem execSkChk_memOk {s : State} (hs : s.memOk) (q a d) : OutOk (execSkChk q a d s) := by
  unfold execSkChk
  exact skQuery_memOk hs _ _ _ _ _ _

/-! ### What the functions of Machine/Trees.lean keep -/

theorem writeEnt_memOk {s : State} (hs : s.memOk) (e) : (writeEnt s e).memOk := by
  unfold writeEnt
  exact engWr_memOk hs _ _ _ _

theorem setTree_memOk {s : State} (hs : s.memOk) (e t) : (setTree s e t).memOk := by
  unfold setTree
  exact hs

theorem takeSlots_memOk {s : State} (hs : s.memOk) (used x y) {r} (hr : takeSlots used s x y = some r) : r.1.memOk := by
  fun_induction takeSlots used s x y generalizing r
  · cases hr
    exact hs
  · cases hr
  · rename_i e1 ih2
    have h3 := memOk_of_eq e1 (draw_memOk hs)
    exact ih2 h3 hr

theorem putSlots_memOk {s : State} (hs : s.memOk) (rmap rs l) : (putSlots s rmap rs l).memOk := by
  unfold putSlots
  exact foldl_memOk (fun _ _ h3 => engWr_memOk h3 _ _ _ _) hs _

theorem freeSlots_memOk {s : State} (hs : s.memOk) (e) : (freeSlots s e).memOk := by
  unfold freeSlots
  extract_lets t
  exact ite_memOk hs (setTree_memOk (putSlots_memOk hs _ _ _) _ _)

theorem onCmd_memOk {s : State} {f : State → Cmd → State} (hs : s.memOk) (hf : ∀ t c, t.memOk → (f t c).memOk) (core ctx tag) :
    (onCmd s core ctx tag f).memOk := by
  unfold onCmd
  extract_lets me t src
  have ht : t.memOk := focus_memOk hs _
  split
  · refine focus_memOk ?_ _
    exact hf _ _ ht
  · exact hs

theorem abortedRecord_memOk {s : State} (hs : s.memOk) (n c) : (abortedRecord n s c).1.memOk := by
  unfold abortedRecord
  split
  · rename_i e1
    exact cmdWr_memOk hs _ _ _ _ _ _ e1
  exact hs

theorem endAborted_memOk {s : State} (hs : s.memOk) (n c) : (endAborted n s c).memOk := by
  unfold endAborted
  split
  rename_i e4
  have h5 := memOk_of_eq e4 (releasing_memOk (fun _ h7 => abortedRecord_memOk h7 _ _) hs _)
  exact endCmd_memOk h5 _ _ _

theorem runAborted_memOk {s : State} (hs : s.memOk) (c) : (runAborted s c).state.memOk := by
  unfold runAborted
  split
  rename_i e1
  have h2 := memOk_of_eq e1 (abortedRecord_memOk hs _ _)
  exact h2

theorem abortSeg_memOk {s : State} (hs : s.memOk) (e n f) : (abortSeg s e n f).memOk := by
  unfold abortSeg
  extract_lets t h delivered s1 s2
  have hs1 : s1.memOk := by
    unfold s1
    refine foldl_memOk (fun t13 x14 h15 => ?_) hs _
    refine onCmd_memOk h15 (fun t25 x26 h27 => ?_) _ _ _
    split
    · exact endCmd_memOk h27 _ _ _
    exact ite_memOk (endAborted_memOk h27 _ _) (endCmd_memOk h27 _ _ _)
  have hs2 : s2.memOk := foldl_memOk (fun _ _ h43 => onCmd_memOk h43 (fun _ _ h46 => endAborted_memOk h46 _ _) _ _ _) hs1 _
  exact setTree_memOk hs2 _ _

theorem barUpdate_memOk {s : State} (hs : s.memOk) (err b) : (barUpdate err s b).memOk := by
  unfold barUpdate
  refine ite_memOk ?_ hs
  extract_lets w
  exact engWr_memOk (raiseFrame_memOk hs _ _) _ _ _ _

theorem barCheck_memOk {s : State} (hs : s.memOk) (e) : (barCheck s e).memOk := by
  unfold barCheck
  extract_lets t
  exact ite_memOk (setTree_memOk (foldl_memOk (fun _ _ h3 => barUpdate_memOk h3 _ _) hs _) _ _) hs

theorem applyEdit_memOk {s : State} (hs : s.memOk) (e) : (applyEdit s e).memOk := by
  unfold applyEdit
  extract_lets h s1 src
  have hs1 : s1.memOk := foldl_memOk (fun _ _ h3 => ite_memOk (engWr_memOk h3 _ _ _ _) h3) hs _
  exact barCheck_memOk (writeEnt_memOk (setTree_memOk hs1 _ _) _) _

theorem curTo_memOk {s : State} (hs : s.memOk) (e n) : (curTo s e n).memOk := by
  unfold curTo
  extract_lets t one t1 e1 s1
  have hs1 : s1.memOk := writeEnt_memOk (setTree_memOk hs _ _) _
  exact ite_memOk (applyEdit_memOk hs1 _) hs1

theorem advanceTree_memOk {y : State} (hy : y.memOk) (x z x4) : (advanceTree x y z x4).memOk := by
  fun_induction advanceTree x y z x4 with
  | case1 => exact hy
  | case2 n s part idx e _ ih => exact ih (curTo_memOk hy _ _)
  | case3 => exact hy

theorem abortBoth_memOk {s : State} (hs : s.memOk) (e) : (abortBoth s e).memOk := by
  unfold abortBoth
  exact curTo_memOk (abortSeg_memOk (abortSeg_memOk hs _ _ _) _ _ _) _ _

theorem abortOpen_memOk {s : State} (hs : s.memOk) (e f) : (abortOpen s e f).memOk := by
  unfold abortOpen
  exact advanceTree_memOk (foldl_memOk (fun _ _ h3 => abortSeg_memOk h3 _ _ _) hs _) _ _ _

theorem freeTree_memOk {s : State} (hs : s.memOk) (e) : (freeTree s e).memOk := by
  unfold freeTree
  extract_lets s1 s2 s3 src
  have hs1 : s1.memOk := abortOpen_memOk hs _ _
  have hs2 : s2.memOk := foldl_memOk (fun _ _ h3 => barUpdate_memOk h3 _ _) hs1 _
  have hs3 : s3.memOk := freeSlots_memOk hs2 _
  exact setTree_memOk (writeEnt_memOk hs3 _) _ _

theorem pulledPost_memOk {s : State} (hs : s.memOk) (e p) : (pulledPost s e p).memOk := by
  unfold pulledPost
  extract_lets t
  exact onCmd_memOk (setTree_memOk hs _ _) (fun _ _ h3 => endCmd_memOk h3 _ _ _) _ _ _

theorem sendRow_memOk {s : State} (hs : s.memOk) (e h j k l v) : (sendRow s e h j k l v).memOk := by
  unfold sendRow
  exact ite_memOk hs (treeFlits_memOk hs _ _ _ _ _ _)

theorem stopPull_memOk {s : State} (hs : s.memOk) (e h k n) : (stopPull e h s k n).memOk := by
  unfold stopPull
  extract_lets r
  split
  · exact hs
  refine ite_memOk hs ?_
  refine setTree_memOk ?_ _ _
  exact hs

theorem freezePulls_memOk {s : State} (hs : s.memOk) (e) : (freezePulls s e).memOk := by
  unfold freezePulls
  refine ite_memOk hs ?_
  extract_lets h
  exact foldl_memOk (fun _ _ h3 => foldl_memOk (fun _ _ h6 => stopPull_memOk h6 _ _ _ _) h3 _) hs _

theorem strangeRow_memOk {s : State} (hs : s.memOk) (e n j l) : (strangeRow s e n j l).memOk := by
  unfold strangeRow
  refine setTree_memOk ?_ _ _
  exact hs

theorem elsewhere_memOk {s : State} (hs : s.memOk) (e n j) : (elsewhere s e n j).memOk := by
  unfold elsewhere
  refine strangeRow_memOk ?_ _ _ _ _
  exact hs

theorem pullOne_memOk {s : State} (hs : s.memOk) (e h k n) {t} (hr : pullOne s e h k n = some t) : t.memOk := by
  unfold pullOne at hr
  extract_lets t' r put par q at hr
  split at hr
  · cases hr
  split at hr
  · cases hr
    exact setTree_memOk hs _ _
  split at hr
  · cases hr
  · split at hr
    · cases hr
    split at hr
    · split at hr
      · cases hr
        refine pulledPost_memOk ?_ _ _
        refine setTree_memOk ?_ _ _
        refine setTree_memOk ?_ _ _
        exact hs
      · cases hr
    cases hr
    refine pulledPost_memOk ?_ _ _
    refine setTree_memOk ?_ _ _
    exact hs
  extract_lets c at hr
  split at hr
  · split at hr
    · cases hr
      exact elsewhere_memOk hs _ _ _
    · cases hr
  split at hr
  · cases hr
    exact advanceTree_memOk (abortSeg_memOk (countRefusal_memOk hs _ _) _ _ _) _ _ _
  split at hr
  · cases hr
    exact setTree_memOk hs _ _
  cases hr
  refine setTree_memOk ?_ _ _
  refine sendRow_memOk ?_ _ _ _ _ _ _
  exact hs

theorem exchangeMeet_memOk {s : State} (hs : s.memOk) (e h n) {t} (hr : exchangeMeet s e h n = some t) : t.memOk := by
  unfold exchangeMeet at hr
  extract_lets t' ps ms src at hr
  split at hr
  · cases hr
  split at hr
  rename_i e1
  have h2 := memOk_of_eq e1 (freeBytes_memOk hs _)
  extract_lets t1 s1 s2 t2 at hr
  have hs1 : s1.memOk := foldl_memOk (fun _ _ h5 => onCmd_memOk h5 (fun _ _ h8 => endAborted_memOk h8 _ _) _ _ _) h2 _
  have hs2 : s2.memOk := foldl_memOk (fun _ _ h11 => onCmd_memOk h11 (fun _ _ h14 => endAborted_memOk h14 _ _) _ _ _) hs1 _
  split at hr
  · cases hr
    exact setTree_memOk h2 _ _
  cases hr
  exact advanceTree_memOk (setTree_memOk hs2 _ _) _ _ _

theorem exchangeDeliver_memOk {s : State} (hs : s.memOk) (e h n i) {t} (hr : exchangeDeliver s e h n i = some t) : t.memOk := by
  unfold exchangeDeliver at hr
  extract_lets tr w at hr
  split at hr
  · cases hr
  split at hr
  · cases hr
  extract_lets els run u c held s1 at hr
  have hrun {u : State} (hu : u.memOk) (c) : (run u c).1.memOk := by
    refine releasing_memOk (fun u hu => ?_) hu _
    split
    next v f h =>
    have hv : v.memOk := memOk_of_eq h (workGo_memOk (fun _ _ _ ht => cmdWr_memOk ht _ _ _ _ _ _)
        (fun _ _ _ ht => cmdWr_failOk ht _ _ _ _ _ _) hu _ _)
    split
    · exact hv
    split
    · next h' => exact cmdWr_memOk hv _ _ _ _ _ _ h'
    · exact hv
  have hs1 : s1.memOk := onCmd_memOk hs (fun _ c ht => endCmd_memOk (hrun ht c) _ _ _) _ _ _
  split at hr
  · cases hr
  · cases hr
    exact advanceTree_memOk (setTree_memOk hs1 _ _) _ _ _

/-- One of a delivery's writes, of which the counts may be none. -/
theorem cmdWr_ite_memOk {u : State} (hu : u.memOk) {p : Prop} [Decidable p] (w va n v l prov) :
    (∀ t, (if p then .ok u else cmdWr u w va n v l prov) = .ok t → t.memOk) ∧ ∀ e,
    (if p then .ok u else cmdWr u w va n v l prov) = .error e → FailOk e := by
  split
  · constructor
    · rintro _ ⟨⟩
      exact hu
    · rintro _ ⟨⟩
  · exact ⟨fun _ => cmdWr_memOk hu _ _ _ _ _ _, fun _ => cmdWr_failOk hu _ _ _ _ _ _⟩

theorem takeWrites_memOk {s : State} (hs : s.memOk) (c e r n sound) : (takeWrites s c e r n sound).1.memOk := by
  unfold takeWrites
  split
  extract_lets cs cnt lab
  refine releasing_memOk (fun u hu => workGo_memOk (fun j _ _ ht h => ?_) (fun j _ _ ht h => ?_) hu _ _) hs _
  · split at h
    · exact cmdWr_memOk ht _ _ _ _ _ _ h
    · exact (cmdWr_ite_memOk ht _ _ _ _ _ _).1 _ h
    · exact cmdWr_memOk ht _ _ _ _ _ _ h
  · split at h
    · exact cmdWr_failOk ht _ _ _ _ _ _ h
    · exact (cmdWr_ite_memOk ht _ _ _ _ _ _).2 _ h
    · exact cmdWr_failOk ht _ _ _ _ _ _ h

theorem deliverTake_memOk {s : State} (hs : s.memOk) (e h n i) {t} (hr : deliverTake s e h n i = some t) : t.memOk := by
  unfold deliverTake at hr
  extract_lets t' r sound at hr
  split at hr
  · cases hr
  extract_lets u src t1 s1 at hr
  have hs1 : s1.memOk := setTree_memOk hs _ _
  split at hr
  · cases hr
  split at hr
  · cases hr
  extract_lets c1 credit at hr
  split at hr
  split at hr
  · cases hr
  cases hr
  refine advanceTree_memOk ?_ _ _ _
  refine onCmd_memOk hs1 (fun t12 x13 h14 => ?_) _ _ _
  split
  rename_i e46
  have h47 := memOk_of_eq e46 (takeWrites_memOk h14 _ _ _ _ _)
  exact endCmd_memOk h47 _ _ _

theorem deliverAway_memOk {s : State} (hs : s.memOk) (e h n i) {t} (hr : deliverAway s e h n i = some t) : t.memOk := by
  unfold deliverAway at hr
  extract_lets t' r pkg out at hr
  have hout : out.memOk := foldl_memOk (fun _ _ h3 => treeFlits_memOk h3 _ _ _ _ _ _) hs _
  split at hr
  · split at hr
    · cases hr
    split at hr
    · cases hr
      exact advanceTree_memOk (abortSeg_memOk (countRefusal_memOk hs _ _) _ _ _) _ _ _
    cases hr
    exact advanceTree_memOk (setTree_memOk hout _ _) _ _ _
  split at hr
  · cases hr
  split at hr
  · cases hr
    exact advanceTree_memOk (abortSeg_memOk (countRefusal_memOk hs _ _) _ _ _) _ _ _
  cases hr
  exact advanceTree_memOk (setTree_memOk hout _ _) _ _ _

theorem cfgRoom_memOk {s : State} (hs : s.memOk) (e r) : (cfgRoom s e r).memOk := by
  unfold cfgRoom
  extract_lets l
  refine ite_memOk hs ?_
  split
  rename_i e1
  have h2 := memOk_of_eq e1 (draw_memOk hs)
  split
  · exact h2
  · exact h2

theorem keepCfg_memOk {s : State} (hs : s.memOk) (e h r) : (keepCfg e h s r).memOk := by
  unfold keepCfg
  extract_lets s1 src
  have hs1 : s1.memOk := cfgRoom_memOk hs _ _
  exact setTree_memOk hs1 _ _

theorem refill_memOk {s : State} (hs : s.memOk) (e rs) : (refill s e rs).memOk := by
  unfold refill
  extract_lets h
  exact ite_memOk (foldl_memOk (fun _ _ h3 => keepCfg_memOk h3 _ _ _) hs _) (freeTree_memOk hs _)

theorem withCfg_memOk {s : State} {f : Shape → Option State} (hs : s.memOk) (hf : ∀ g t, f g = some t → t.memOk) (e r) {t}
    (hr : withCfg s e r f = some t) : t.memOk := by
  unfold withCfg at hr
  split at hr
  · exact hf _ _ hr
  split at hr
  · cases hr
    exact refill_memOk hs _ _
  · cases hr

theorem nodePull_memOk {s : State} (hs : s.memOk) (hd seg k) {t} (hr : nodePull s hd seg k = some t) : t.memOk := by
  unfold nodePull at hr
  split at hr
  · cases hr
  split at hr
  · cases hr
  refine withCfg_memOk hs (fun h t hr => ?_) _ _ hr
  split at hr
  · split at hr
    · exact exchangeMeet_memOk hs _ _ _ hr
    · cases hr
  · obtain ⟨u, hu, rfl⟩ := Option.map_eq_some_iff.1 hr
    exact advanceTree_memOk (pullOne_memOk hs _ _ _ _ hu) _ _ _

theorem takeDelivery_memOk {s : State} (hs : s.memOk) (hd seg i) {t} (hr : takeDelivery s hd seg i = some t) : t.memOk := by
  unfold takeDelivery at hr
  split at hr
  · cases hr
  split at hr
  · cases hr
  refine withCfg_memOk hs (fun h t hr => ?_) _ _ hr
  split at hr
  · next h1 =>
    cases hr
    split at h1
    · exact exchangeDeliver_memOk hs _ _ _ _ h1
    · cases h1
  split at hr
  · next h2 =>
    cases hr
    exact deliverTake_memOk hs _ _ _ _ h2
  · exact deliverAway_memOk hs _ _ _ _ hr

theorem execNodePull_memOk {s : State} (hs : s.memOk) (h seg node) : OutOk (execNodePull h seg node s) := by
  unfold execNodePull
  exact outOk_next (getD_memOk (fun _ e2 => nodePull_memOk hs _ _ _ e2) hs)

theorem execTakeDelivery_memOk {s : State} (hs : s.memOk) (h seg member) : OutOk (execTakeDelivery h seg member s) := by
  unfold execTakeDelivery
  exact outOk_next (getD_memOk (fun _ e2 => takeDelivery_memOk hs _ _ _ e2) hs)

theorem execConfigRefill_memOk {s : State} (hs : s.memOk) (h) : OutOk (execConfigRefill h s) := by
  unfold execConfigRefill
  refine outOk_next ?_
  split
  · exact refill_memOk hs _ _
  · exact hs

theorem clRefuse_stopOk {t : State} (code) : StopOk (clRefuse t code) := by
  unfold clRefuse
  exact illegal_stopOk _ _

theorem treeStop_stopOk (h minor reason) : StopOk (treeStop h minor reason) := by
  unfold treeStop
  exact stopOk_trap

theorem clAnswer_memOk {t : State} (ht : t.memOk) (i sb perm x) : (clAnswer t i sb perm x).memOk := by
  unfold clAnswer
  exact push_memOk ht _ _ _

theorem handleOf_stopOk {t : State} (minor h lax) {e} (hr : handleOf t minor h lax = .error e) : StopOk e := by
  unfold handleOf at hr
  extract_lets part e' at hr
  split at hr
  · cases hr
    exact privileged_stopOk _
  split at hr
  · cases hr
    exact treeStop_stopOk _ _ _
  refine unhurt_stopOk (fun e he => ?_) _ hr
  split at he
  · cases he
    exact treeStop_stopOk _ _ _
  split at he
  · cases he
    exact treeStop_stopOk _ _ _
  split at he
  · cases he
    exact treeStop_stopOk _ _ _
  · cases he

theorem memberHandle_errOk {t : State} (ht : t.memOk) (minor h seg) {a} (hr : memberHandle t minor h seg = .error a) :
    ActOk a := by
  unfold memberHandle at hr
  split at hr
  · rename_i e1
    cases hr
    exact actOk_error (handleOf_stopOk _ _ _ e1)
  split at hr
  · split at hr
    · rename_i e5
      have h6 := hurtStop_stopOk _ e5
      cases hr
      exact actOk_error h6
    cases hr
  split at hr
  · split at hr
    · cases hr
      exact actOk_error (treeStop_stopOk _ _ _)
    cases hr
    exact actOk_ok (safeSuspend_memOk ht _ _ _ _ _ _ _)
  cases hr
  exact actOk_error (treeStop_stopOk _ _ _)

theorem contigGo_memOk {y : State} (hy : y.memOk) (va n pa0 kind x) {t} (hr : contigGo va n pa0 kind x y = .ok t) : t.memOk := by
  fun_induction contigGo va n pa0 kind x y generalizing t
  · cases hr
    exact hy
  · cases hr
  · cases hr
  · rename_i e5 _ ih6
    have h7 := translateMark_memOk hy _ _ _ _ _ _ e5
    exact ih6 h7 hr

theorem contigGo_stopOk {y : State} (hy : y.memOk) (va n pa0 kind x) {e} (hr : contigGo va n pa0 kind x y = .error e) :
    StopOk e := by
  fun_induction contigGo va n pa0 kind x y generalizing e
  · cases hr
  · cases hr
    exact accStop_stopOk _ _ _ _ _
  · cases hr
    exact clRefuse_stopOk _
  · rename_i e5 _ ih6
    have h7 := translateMark_memOk hy _ _ _ _ _ _ e5
    exact ih6 h7 hr

theorem contigStops_stopOk {t : State} (va n kind) {e} (hr : e ∈ contigStops t va n kind) : StopOk e := by
  unfold contigStops at hr
  obtain ⟨a, -, ha⟩ := List.mem_filterMap.1 hr
  split at ha
  · cases ha
    exact accStop_stopOk _ _ _ _ _
  · split at ha
    · cases ha
      exact clRefuse_stopOk _
    · cases ha
  · cases ha

theorem foldl_lowerStop_stopOk {l : List Stop} {e : Stop} (hl : ∀ x ∈ l, StopOk x) (he : StopOk e) :
    StopOk (l.foldl lowerStop e) :=
  List.foldlRecOn l lowerStop he fun _ ha x hx => lowerStop_stopOk ha (hl x hx)

theorem contig_memOk {t : State} (ht : t.memOk) (va n kind) {r} (hr : contig t va n kind = .ok r) : r.1.memOk := by
  unfold contig at hr
  split at hr
  · cases hr
  rename_i e3
  split at hr
  · cases hr
  rename_i e8
  cases hr
  exact contigGo_memOk (translateMark_memOk ht _ _ _ _ _ _ e3) _ _ _ _ _ e8

theorem contig_stopOk {t : State} (ht : t.memOk) (va n kind) {e} (hr : contig t va n kind = .error e) : StopOk e := by
  have hall : ∀ x ∈ contigStops t va n kind, StopOk x := fun _ => contigStops_stopOk _ _ _
  unfold contig at hr
  split at hr
  · cases hr
    exact foldl_lowerStop_stopOk hall (accStop_stopOk _ _ _ _ _)
  · have h1 := translateMark_memOk ht _ _ _ _ _ _ ‹_›
    split at hr
    · cases hr
      exact foldl_lowerStop_stopOk hall (contigGo_stopOk h1 _ _ _ _ _ ‹_›)
    · cases hr

theorem contigStop_stopOk {α : Type} {t : State} {e : Stop} (he : StopOk e) (n st) (r : Except (AErr × Nat) α) :
    StopOk (contigStop t e n st r) := by
  unfold contigStop
  split
  · exact lowerStop_stopOk he (accStop_stopOk _ _ _ _ _)
  · exact he

theorem readDesc_memOk {t : State} (ht : t.memOk) (va) {r} (hr : readDesc t va = .ok r) : r.1.memOk := by
  unfold readDesc at hr
  split at hr
  · cases hr
  extract_lets m n len at hr
  split at hr
  · cases hr
  split at hr
  · cases hr
  rename_i e8
  split at hr
  · cases hr
  rename_i e13
  split at hr
  · cases hr
    exact readBytes_memOk (contig_memOk ht _ _ _ e8) _ _ _ _ e13
  · cases hr

theorem readDesc_stopOk {t : State} (ht : t.memOk) (va) {e} (hr : readDesc t va = .error e) : StopOk e := by
  unfold readDesc at hr
  split at hr
  · cases hr
    exact accStop_stopOk _ _ _ _ _
  extract_lets m n len at hr
  split at hr
  · cases hr
    exact clRefuse_stopOk _
  split at hr
  · rename_i e5
    cases hr
    exact contigStop_stopOk (contig_stopOk ht _ _ _ e5) _ _ _
  split at hr
  · cases hr
    exact accStop_stopOk _ _ _ _ _
  split at hr
  · cases hr
  cases hr
  exact clRefuse_stopOk _

theorem makeTree_memOk {t : State} (ht : t.memOk) (e h pa) : (makeTree t e h pa).1.memOk := by
  unfold makeTree
  split
  · exact ht
  extract_lets keep t1 rm e1 src t2 e2 e2'
  have ht1 : t1.memOk := ite_memOk (freeSlots_memOk ht _) ht
  have ht2 : t2.memOk := setTree_memOk ht1 _ _
  split
  · rename_i e1
    extract_lets src' t4
    have ht4 : t4.memOk := setTree_memOk (putSlots_memOk (takeSlots_memOk ht2 _ _ _ e1) _ _ _) _ _
    exact barCheck_memOk (writeEnt_memOk ht4 _) _
  exact barCheck_memOk (writeEnt_memOk ht2 _) _

theorem execClTmk_memOk {s : State} (hs : s.memOk) (q aa sb) : OutOk (execClTmk q aa sb s) := by
  unfold execClTmk
  extract_lets i
  refine tile_memOk hs (fun t ht => ?_) _ _
  extract_lets hd va
  split
  · exact actOk_error (privileged_stopOk _)
  split
  · exact actOk_error (accStop_stopOk _ _ _ _ _)
  split
  · exact actOk_error (readDesc_stopOk ht _ ‹_›)
  have h1 := readDesc_memOk ht _ ‹_›
  split
  · exact actOk_error (treeStop_stopOk _ _ _)
  · exact unhurt_actOk (unhurt_actOk (actOk_ok (clAnswer_memOk (makeTree_memOk h1 _ _ _) _ _ _ _)) _) _

theorem manageAt_memOk {mis : State → Option Stop} {s : State} {f : State → TEnt → Except Stop (State × ℕ)}
    (hmis : ∀ t e, t.memOk → mis t = some e → StopOk e) (hs : s.memOk) (hf : ∀ t e, t.memOk → ResOk (f t e)) (i minor sb) :
    OutOk (manageAt i minor sb mis s f) := by
  unfold manageAt
  refine tile_memOk hs (fun t ht => ?_) _ _
  dsimp only
  split
  · next h =>
    split at h
    · cases h
    · exact actOk_error (hmis _ _ ht h)
  split
  · exact actOk_error (handleOf_stopOk _ _ _ ‹_›)
  split
  · next h => exact actOk_error ((hf _ _ ht).2 _ h)
  · next h => exact actOk_ok (clAnswer_memOk ((hf _ _ ht).1 _ h) _ _ _ _)

theorem manage_memOk {s : State} {f : State → TEnt → Except Stop (State × ℕ)} (hs : s.memOk) (hf : ∀ t e, t.memOk → ResOk (f t e))
    (i minor sb) : OutOk (manage i minor sb s f) :=
  manageAt_memOk (fun _ _ _ h => by cases h) hs hf _ _ _

theorem execClTfree_memOk {s : State} (hs : s.memOk) (q sb) : OutOk (execClTfree q sb s) := by
  refine manage_memOk hs (fun t e ht => unhurt_resOk (resOk_ok ?_) _) _ _ _
  exact freeTree_memOk ht _

theorem execClFrz_memOk {s : State} (hs : s.memOk) (q sb) : OutOk (execClFrz q sb s) := by
  refine manage_memOk hs (fun t e ht => unhurt_resOk (resOk_ok ?_) _) _ _ _
  split
  · exact writeEnt_memOk (freezePulls_memOk ht _) _
  split
  · exact ht
  · exact ht

theorem execClThaw_memOk {s : State} (hs : s.memOk) (q sb) : OutOk (execClThaw q sb s) := by
  refine manage_memOk hs (fun t e ht => resOk_ok ?_) _ _ _
  split
  · exact writeEnt_memOk ht _
  split
  · exact ht
  · exact ht

theorem execClSave_memOk {s : State} (hs : s.memOk) (q aa sb) : OutOk (execClSave q aa sb s) := by
  unfold execClSave
  dsimp only
  refine manageAt_memOk (fun t e ht h => ?_) hs (fun t e ht => ?_) _ _ _
  · split at h
    · cases h
      exact accStop_stopOk _ _ _ _ _
    · cases h
  split
  · exact resOk_ok ht
  refine unhurt_resOk ?_ _
  split
  · exact resOk_error (contigStop_stopOk (contig_stopOk ht _ _ _ ‹_›) _ _ _)
  have h1 := contig_memOk ht _ _ _ ‹_›
  split
  · exact resOk_error (accStop_stopOk _ _ _ _ _)
  · have h2 := writeBytes_memOk h1 _ _ _ _ _ _ ‹_›
    exact resOk_ok (setTree_memOk (writeEnt_memOk (freeSlots_memOk h2 _) _) _ _)

theorem execClRst_memOk {s : State} (hs : s.memOk) (q aa sb) : OutOk (execClRst q aa sb s) := by
  unfold execClRst
  dsimp only
  refine manageAt_memOk (fun t e ht h => ?_) hs (fun t e ht => ?_) _ _ _
  · split at h
    · cases h
      exact accStop_stopOk _ _ _ _ _
    · cases h
  split
  · exact resOk_ok ht
  refine unhurt_resOk ?_ _
  split
  · exact resOk_error (contigStop_stopOk (contig_stopOk ht _ _ _ ‹_›) _ _ _)
  have h1 := contig_memOk ht _ _ _ ‹_›
  split
  · exact resOk_error (accStop_stopOk _ _ _ _ _)
  have h2 := readBytes_memOk h1 _ _ _ _ ‹_›
  split
  · exact resOk_error (clRefuse_stopOk _)
  split
  · exact resOk_ok h2
  · have h3 := takeSlots_memOk h2 _ _ _ ‹_›
    exact unhurt_resOk (resOk_ok (writeEnt_memOk (setTree_memOk (putSlots_memOk h3 _ _ _) _ _) _)) _

theorem editWord_memOk {s : State} (hs : s.memOk) (i sb) : OutOk (editWord i sb s) := by
  unfold editWord
  dsimp only
  refine tile_memOk hs (fun t ht => ?_) _ _
  refine actOk_ite (actOk_error (clRefuse_stopOk _)) ?_
  split
  · exact actOk_error (handleOf_stopOk _ _ _ ‹_›)
  refine unhurt_actOk ?_ _
  refine actOk_ite (actOk_error (clRefuse_stopOk _)) ?_
  refine actOk_ite (actOk_ok (clAnswer_memOk ht _ _ _ _)) ?_
  refine actOk_ite (actOk_ok (clAnswer_memOk ht _ _ _ _)) ?_
  refine actOk_ite (actOk_ok (clAnswer_memOk ht _ _ _ _)) ?_
  have h1 (pa n v l e) : (writeEnt (engWr t pa n v l) e).memOk := writeEnt_memOk (engWr_memOk ht _ _ _ _) _
  split
  · exact actOk_ok (clAnswer_memOk (applyEdit_memOk (h1 _ _ _ _ _) _) _ _ _ _)
  · exact actOk_ok (clAnswer_memOk (h1 _ _ _ _ _) _ _ _ _)

theorem execClEditRemove_memOk {s : State} (hs : s.memOk) (q sb) : OutOk (execClEditRemove q sb s) := by
  unfold execClEditRemove
  exact editWord_memOk hs _ _

theorem execClEditAdd_memOk {s : State} (hs : s.memOk) (q sb) : OutOk (execClEditAdd q sb s) := by
  unfold execClEditAdd
  exact editWord_memOk hs _ _

theorem execClAbort_memOk {s : State} (hs : s.memOk) (q sb) : OutOk (execClAbort q sb s) := by
  refine manage_memOk hs (fun t e ht => unhurt_resOk (resOk_ok ?_) _) _ _ _
  split
  · exact abortBoth_memOk ht _
  · exact ht

theorem execClQuery_memOk {s : State} (hs : s.memOk) (q sb) : OutOk (execClQuery q sb s) := by
  unfold execClQuery
  dsimp only
  refine tile_memOk hs (fun t ht => ?_) _ _
  split
  · exact actOk_error (clRefuse_stopOk _)
  split
  · exact actOk_error (handleOf_stopOk _ _ _ ‹_›)
  · exact unhurt_actOk (actOk_ok (clAnswer_memOk ht _ _ _ _)) _

theorem refusedWord_memOk {t : State} (ht : t.memOk) : (refusedWord t).memOk := by
  unfold refusedWord
  refine foldl_memOk (fun t4 x5 h6 => ?_) ?_ _
  · exact push_memOk h6 _ _ _
  · exact ht

theorem lineStop_stopOk {t : State} (e va) : StopOk (lineStop t e va) := by
  unfold lineStop
  exact sizedStop_stopOk _ _ _ _

theorem readPart_memOk {t : State} (ht : t.memOk) (va n) {r} (hr : readPart t va n = .ok r) : r.1.memOk := by
  unfold readPart at hr
  split at hr
  · extract_lets w at hr
    cases hr
  · cases hr
  rename_i e5 _
  cases hr
  exact readBytes_memOk ht _ _ _ _ e5

theorem readPart_stopOk {t : State} (va n) {e} (hr : readPart t va n = .error e) : StopOk e := by
  unfold readPart at hr
  split at hr
  · extract_lets w at hr
    cases hr
    exact lineStop_stopOk _ _
  · cases hr
    exact lineStop_stopOk _ _
  cases hr

theorem testPart_memOk {t : State} (ht : t.memOk) (i e win va n) {r} (hr : testPart t i e win va n = .ok r) : r.1.memOk := by
  unfold testPart at hr
  extract_lets perm l at hr
  split at hr
  · cases hr
  rename_i e4
  have h5 := readPart_memOk ht _ _ e4
  extract_lets lab at hr
  split at hr
  · cases hr
  split at hr
  · cases hr
  cases hr
  exact h5

theorem testPart_stopOk {t : State} (i e win va n) {err} (hr : testPart t i e win va n = .error err) : StopOk err := by
  unfold testPart at hr
  extract_lets perm l at hr
  have hperm {l x} (h : perm l = some x) : StopOk x := by
    unfold perm at h
    extract_lets miss at h
    split at h
    · cases h
      exact accStop_stopOk _ _ _ _ _
    · cases h
  clear_value perm
  split at hr
  · next x hx =>
    have hx : StopOk x := readPart_stopOk _ _ hx
    cases hr
    cases h : perm (l ||| readLabel t.core i.rd) with
    | none => exact hx
    | some y => exact lowerStop_stopOk hx (hperm h)
  · extract_lets lab at hr
    split at hr
    · next h =>
      cases hr
      exact hperm h
    · split at hr
      · cases hr
        exact lineStop_stopOk _ _
      · cases hr

theorem stopWith_memOk {α : Type} {act : Act} {r : Except Stop α} (hact : ActOk act) (hr : ∀ e, r = .error e → StopOk e) :
    ActOk (stopWith act r) := by
  unfold stopWith
  split
  · exact actOk_error (lowerStop_stopOk (hact.2 _ rfl) (hr _ rfl))
  · exact actOk_error (hr _ rfl)
  · exact hact

theorem enterPost_memOk {t : State} (ht : t.memOk) (i sb e m n c data lab prov geo) :
    ActOk (enterPost t i sb e m n c data lab prov geo) := by
  unfold enterPost
  split
  · rename_i e1
    have h2 := (issueCmd_memOk ht _).2 _ e1
    exact actOk_error h2
  rename_i e3
  have h4 := (issueCmd_memOk ht _).1 _ e3
  extract_lets tr t2 src
  have ht2 : t2.memOk := setTree_memOk h4 _ _
  exact actOk_ok (clAnswer_memOk (writeEnt_memOk ht2 _) _ _ _ _)

theorem execClPost_memOk {s : State} (hs : s.memOk) (q ac rl sc aa sb) : OutOk (execClPost q ac rl sc aa sb s) := by
  unfold execClPost
  extract_lets x i0 i
  refine tile_memOk hs (fun t ht => ?_) _ _
  extract_lets g hd n va
  refine actOk_ite (actOk_error (clRefuse_stopOk _)) ?_
  refine actOk_ite (actOk_error (privileged_stopOk _)) ?_
  refine actOk_ite (actOk_error (accStop_stopOk _ _ _ _ _)) ?_
  split
  · have hm := memberHandle_errOk ht _ _ _ ‹_›
    split
    · exact stopWith_memOk hm fun _ => testPart_stopOk _ _ _ _ _
    · exact hm
  extract_lets
  split
  · next h => exact actOk_error (testPart_stopOk _ _ _ _ _ h)
  next t1 data lab h1 =>
  have h1 := testPart_memOk ht _ _ _ _ _ h1
  extract_lets
  refine actOk_ite (actOk_ok (refusedWord_memOk (clAnswer_memOk h1 _ _ _ _))) ?_
  exact enterPost_memOk h1 _ _ _ _ _ _ _ _ _ _

theorem execClTake_memOk {s : State} (hs : s.memOk) (q ac rl sc aa sb) : OutOk (execClTake q ac rl sc aa sb s) := by
  unfold execClTake
  extract_lets x i0 skip i
  refine tile_memOk hs (fun t ht => ?_) _ _
  extract_lets
  refine actOk_ite (actOk_error (clRefuse_stopOk _)) ?_
  refine actOk_ite (actOk_error (privileged_stopOk _)) ?_
  refine actOk_ite (actOk_error (accStop_stopOk _ _ _ _ _)) ?_
  refine actOk_ite (actOk_error (accStop_stopOk _ _ _ _ _)) ?_
  refine actOk_ite (actOk_error (accStop_stopOk _ _ _ _ _)) ?_
  split
  · exact memberHandle_errOk ht _ _ _ ‹_›
  extract_lets
  refine actOk_ite (actOk_ok (refusedWord_memOk (clAnswer_memOk ht _ _ _ _))) ?_
  have hissue objs := issueCmd_memOk (releaseFor_memOk ht rl objs)
  split
  · next h => exact actOk_error ((hissue _ _).2 _ h)
  · next h => exact actOk_ok (clAnswer_memOk (setTree_memOk ((hissue _ _).1 _ h) _ _) _ _ _ _)

theorem execClMcast_memOk {s : State} (hs : s.memOk) (q ac rl sc aa sb) : OutOk (execClMcast q ac rl sc aa sb s) := by
  unfold execClMcast
  extract_lets x i0 i
  refine tile_memOk hs (fun t ht => ?_) _ _
  extract_lets
  refine actOk_ite (actOk_error (clRefuse_stopOk _)) ?_
  refine actOk_ite (actOk_error (clRefuse_stopOk _)) ?_
  refine actOk_ite (actOk_error (clRefuse_stopOk _)) ?_
  refine actOk_ite (actOk_error (privileged_stopOk _)) ?_
  refine actOk_ite (actOk_error (accStop_stopOk _ _ _ _ _)) ?_
  refine actOk_ite (actOk_error (accStop_stopOk _ _ _ _ _)) ?_
  split
  · exact stopWith_memOk (memberHandle_errOk ht _ _ _ ‹_›) fun _ => readPart_stopOk _ _
  split
  · exact actOk_error (readPart_stopOk _ _ ‹_›)
  have h1 := readPart_memOk ht _ _ ‹_›
  extract_lets
  refine actOk_ite (actOk_ok (refusedWord_memOk (clAnswer_memOk h1 _ _ _ _))) ?_
  have hissue objs := issueCmd_memOk (releaseFor_memOk h1 rl objs)
  split
  · next h => exact actOk_error ((hissue _ _).2 _ h)
  · next h => exact actOk_ok (clAnswer_memOk ((hissue _ _).1 _ h) _ _ _ _)

theorem mcastTo_memOk {s : State} (hs : s.memOk) (c so len bo data lab r) : (mcastTo c so len bo data lab s r).1.memOk := by
  unfold mcastTo
  extract_lets me t no
  have ht : t.memOk := focus_memOk hs _
  split
  · exact hs
  split
  next t0 f h0 =>
  have h0 : t0.memOk := by
    refine memOk_of_eq h0 (workGo_memOk (fun _ _ _ ht => ?_) (fun _ _ _ ht => ?_) ?_ _ _)
    · exact cmdWr_memOk ht _ _ _ _ _ _
    · exact cmdWr_failOk ht _ _ _ _ _ _
    · exact ht
  extract_lets t1
  have h1 : t1.memOk := wroteBack_memOk h0 _ _
  have hback : (focus t1 me).memOk := focus_memOk h1 _
  split
  · exact hback
  split
  · exact hback
  split
  · exact hback
  split
  · next h2 => exact focus_memOk (creditAt_memOk h1 _ _ _ _ _ h2) _
  · exact hback

theorem mcastOut_memOk {y : State} (hy : y.memOk) (c l n v x) : (mcastOut c l n v x y).1.memOk := by
  fun_induction mcastOut c l n v x y with
  | case1 => exact hy
  | case2 s p ps part out _ ih => exact ih (treeFlits_memOk hy _ _ _ _ _ _)
  | case3 s p ps part _ u f h ih =>
    have hu := memOk_of_eq h (ih (countRefusal_memOk hy _ _))
    exact hu

theorem mcastStep_memOk {acc : State × Option CFail} (hacc : acc.1.memOk) (c so len bo data lab p) :
    (mcastStep c so len bo data lab acc p).1.memOk := by
  unfold mcastStep
  split
  rename_i e1
  have h2 := memOk_of_eq e1 (mcastTo_memOk hacc _ _ _ _ _ _ _)
  split
  · exact h2
  split
  · exact ite_memOk h2 (countFail_memOk h2 _ _)
  exact h2

theorem runMcast_memOk {s : State} (hs : s.memOk) (c) : (runMcast s c).state.memOk := by
  unfold runMcast
  extract_lets g0 len
  split
  · exact hs
  · next hrd =>
    have h1 := cmdRd_memOk hs _ _ _ _ hrd
    split
    · exact h1
    · dsimp only
      split
      · exact hs
      · exact foldl_fst_memOk (a := ((mcastOut _ _ _ _ _ _).1, none)) (fun _ _ h => mcastStep_memOk h _ _ _ _ _ _ _)
            (mcastOut_memOk h1 _ _ _ _ _) _

theorem testBar_memOk {t : State} (ht : t.memOk) (i va) {r} (hr : testBar t i va = .ok r) : r.1.memOk := by
  unfold testBar at hr
  split at hr
  · cases hr
  rename_i e3
  extract_lets lab at hr
  split at hr
  · cases hr
  rename_i e7
  split at hr
  · cases hr
  cases hr
  exact writeVa_memOk (readVa_memOk ht _ _ _ _ e3) _ _ _ _ _ _ _ e7

theorem testBar_stopOk {t : State} (i va) {e} (hr : testBar t i va = .error e) : StopOk e := by
  unfold testBar at hr
  split at hr
  · cases hr
    exact accStop_stopOk _ _ _ _ _
  extract_lets lab at hr
  split at hr
  · cases hr
    exact accStop_stopOk _ _ _ _ _
  split at hr
  · cases hr
    exact accStop_stopOk _ _ _ _ _
  · cases hr

theorem barOut_memOk {y : State} (hy : y.memOk) (part l x) : (barOut part l x y).memOk := by
  fun_induction barOut part l x y with
  | case1 => exact hy
  | case2 s p ps ih =>
    refine ih ?_
    split
    · exact treeFlits_memOk hy _ _ _ _ _ _
    · exact countRefusal_memOk hy _ _

theorem execClBar_memOk {s : State} (hs : s.memOk) (q ac rl sc aa sb) : OutOk (execClBar q ac rl sc aa sb s) := by
  unfold execClBar
  extract_lets i
  refine tile_memOk hs (fun t ht => ?_) _ _
  extract_lets hd va
  refine actOk_ite (actOk_error (privileged_stopOk _)) ?_
  refine actOk_ite (actOk_error (accStop_stopOk _ _ _ _ _)) ?_
  split
  · exact stopWith_memOk (memberHandle_errOk ht _ _ _ ‹_›) fun _ => testBar_stopOk _ _
  split
  · next h => exact actOk_error (testBar_stopOk _ _ h)
  next t2 pa lab h2 =>
  have h2 : t2.memOk := testBar_memOk ht _ _ h2
  extract_lets h tr refused
  have hrefused (st) : ActOk (refused st) := actOk_ok (clAnswer_memOk (markSpan_memOk ht _ _ _ _) _ _ _ _)
  split
  · exact hrefused _
  refine actOk_ite (hrefused _) ?_
  refine actOk_ite (hrefused _) ?_
  have h3 := barOut_memOk (ite_memOk (p := rl = 1) (releaseLines_memOk h2 (t2.core.rdA aa).v) h2)
  exact actOk_ok (clAnswer_memOk (barCheck_memOk (setTree_memOk (h3 _ _ _) _ _) _) _ _ _ _)

theorem orCause_stopOk {α : Type} {y : Option Stop} {r : Except Stop α} (hy : ∀ e, y = some e → StopOk e)
    (hr : ∀ e, r = .error e → StopOk e) {e} (h : orCause y r = .error e) : StopOk e :=
  (orCause_error h).elim (hy e) (hr e)

/-- Of an operand clash and a member's part the reported stop carries no state but a canonical one. -/
theorem orCause_clash_stopOk {α : Type} {p : Prop} [Decidable p] {x y : Int × Int} {r : Except Stop α}
    (hr : ∀ e, r = .error e → StopOk e) {e} (h : orCause (if p then none else aliasStop x y) r = .error e) : StopOk e := by
  refine orCause_stopOk (fun e he => ?_) hr h
  split at he
  · cases he
  · exact aliasStop_stopOk _ _ he

theorem execClReshard_memOk {s : State} (hs : s.memOk) (q ac rl sc aa sb) : OutOk (execClReshard q ac rl sc aa sb s) := by
  unfold execClReshard
  extract_lets x i0 tOf i
  refine tile_memOk hs (fun t ht => ?_) _ _
  extract_lets g hd n td geo va ra da ebs ns nd clash
  clear_value ns nd ebs geo td
  refine actOk_ite (actOk_error (clRefuse_stopOk _)) ?_
  refine actOk_ite (actOk_error (clRefuse_stopOk _)) ?_
  refine actOk_ite (actOk_error (clRefuse_stopOk _)) ?_
  refine actOk_ite (actOk_error (clRefuse_stopOk _)) ?_
  refine actOk_ite (actOk_error (clRefuse_stopOk _)) ?_
  refine actOk_ite (actOk_error (privileged_stopOk _)) ?_
  refine actOk_ite (actOk_error (accStop_stopOk _ _ _ _ _)) ?_
  refine actOk_ite (actOk_error (accStop_stopOk _ _ _ _ _)) ?_
  refine actOk_ite (actOk_error (accStop_stopOk _ _ _ _ _)) ?_
  split
  · have hm := memberHandle_errOk ht _ _ _ ‹_›
    split
    · exact stopWith_memOk hm fun _ => orCause_clash_stopOk fun _ => testPart_stopOk _ _ _ _ _
    · exact hm
  extract_lets
  split
  · next h => exact actOk_error (orCause_clash_stopOk (fun _ => testPart_stopOk _ _ _ _ _) h)
  next h =>
  have h1 := testPart_memOk ht _ _ _ _ _ (orCause_ok.1 h).2
  extract_lets
  refine actOk_ite (actOk_ok (refusedWord_memOk (clAnswer_memOk h1 _ _ _ _))) ?_
  · exact enterPost_memOk h1 _ _ _ _ _ _ _ _ _ _

theorem freezeTrees_memOk {s : State} (hs : s.memOk) (hit) : (freezeTrees s hit).memOk := by
  unfold freezeTrees
  refine foldl_memOk (fun t4 x5 h6 => ?_) hs _
  extract_lets e h out sent used u1 src
  have hu1 : u1.memOk := abortOpen_memOk h6 _ _
  exact ite_memOk (writeEnt_memOk hu1 _) h6

/-! ### What the functions of Machine/Jetty.lean keep -/

theorem mbPut_memOk {s : State} (hs : s.memOk) (k x) : (mbPut s k x).memOk := by
  unfold mbPut
  exact engWr_memOk hs _ _ _ _

theorem abortMail_memOk {s : State} (hs : s.memOk) (abrt k) : (abortMail abrt s k).memOk := by
  unfold abortMail
  extract_lets x
  exact ite_memOk (mbPut_memOk hs _ _) hs

theorem unbindHart_memOk {s : State} (hs : s.memOk) (x) : (unbindHart s x).memOk := by
  unfold unbindHart
  exact ite_memOk (setHart_memOk hs _ _) hs

theorem closeEpisode_memOk {s : State} (hs : s.memOk) (e st cause abrt notice) :
    (closeEpisode s e st cause abrt notice).memOk := by
  unfold closeEpisode
  extract_lets x s1 fl x1
  have hs1 : s1.memOk := foldl_memOk (fun _ _ h3 => abortMail_memOk h3 _ _) hs _
  refine unbindHart_memOk ?_ _
  refine epPut_memOk ?_ _ _
  exact hs1

theorem stopEpisode_memOk {s : State} (hs : s.memOk) (e cause) : (stopEpisode s e cause).memOk := by
  unfold stopEpisode
  extract_lets x
  exact closeEpisode_memOk hs _ _ _ _ _

theorem wipeDone_memOk {s : State} (hs : s.memOk) (e) : (wipeDone s e).memOk := by
  unfold wipeDone
  extract_lets x ws kept s1
  have hs1 : s1.memOk := by
    unfold s1
    refine foldl_memOk (fun t13 x14 h15 => ?_) ?_ _
    · exact foldl_memOk (fun _ _ h24 => engWr_memOk h24 _ _ _ _) h15 _
    · exact hs
  exact epPut_memOk hs1 _ _

theorem evRefuse_stopOk {t : State} (code) : StopOk (evRefuse t code) := by
  unfold evRefuse
  exact illegal_stopOk _ _

theorem mbStop_stopOk {t : State} (k reason) : StopOk (mbStop t k reason) := by
  unfold mbStop
  exact stopOk_trap

theorem watchStop_stopOk {t : State} (k x) : StopOk (watchStop t k x) := by
  unfold watchStop
  exact stopOk_trap

theorem evAnswer_memOk {t : State} (ht : t.memOk) (i sb l x) : (evAnswer t i sb l x).memOk := by
  unfold evAnswer
  exact push_memOk ht _ _ _

theorem markDie_memOk {t : State} (ht : t.memOk) (k) : (markDie t k).memOk := by
  unfold markDie
  exact ht

theorem stashOp_memOk {t : State} (ht : t.memOk) (va n kind) {r} (hr : stashOp t va n kind = .ok r) : r.1.memOk := by
  unfold stashOp at hr
  extract_lets out out' stop at hr
  split at hr
  · rename_i e1 _
    cases hr
    exact readSpan_memOk ht _ _ _ _ _ e1
  · cases hr
  cases hr

theorem stashOp_stopOk {t : State} (va n kind) {e} (hr : stashOp t va n kind = .error e) : StopOk e := by
  unfold stashOp at hr
  extract_lets out out' stop at hr
  split at hr
  · cases hr
  · cases hr
    exact accStop_stopOk _ _ _ _ _
  cases hr
  exact accStop_stopOk _ _ _ _ _

theorem stashDest_memOk {t : State} (ht : t.memOk) (va n) {u} (hr : stashDest t va n = .ok u) : u.memOk := by
  obtain ⟨r, h, rfl⟩ := map_eq_ok.1 hr
  exact stashOp_memOk ht _ _ _ h

theorem stashDest_stopOk {t : State} (va n) {e} (hr : stashDest t va n = .error e) : StopOk e :=
  stashOp_stopOk _ _ _ (map_eq_error.1 hr)

theorem stashSrc_memOk {t : State} (ht : t.memOk) (va n) {r} (hr : stashSrc t va n = .ok r) : r.1.memOk := by
  unfold stashSrc at hr
  exact stashOp_memOk ht _ _ _ hr

theorem stashSrc_stopOk {t : State} (va n) {e} (hr : stashSrc t va n = .error e) : StopOk e := by
  unfold stashSrc at hr
  exact stashOp_stopOk _ _ _ hr

theorem execEvOpen_memOk {s : State} (hs : s.memOk) (q sb) : OutOk (execEvOpen q sb s) := by
  unfold execEvOpen
  extract_lets i
  refine tile_memOk hs (fun t ht => ?_) _ _
  extract_lets x k e p m en answer
  have hanswer {u : State} (hu : u.memOk) (v : Nat) : ActOk (answer u v) := actOk_ok (evAnswer_memOk hu _ _ _ _)
  refine actOk_ite (actOk_error (evRefuse_stopOk _)) ?_
  refine actOk_ite (actOk_error (evRefuse_stopOk _)) ?_
  refine actOk_ite (actOk_error (mbStop_stopOk _ _)) ?_
  refine unhurt_actOk ?_ _
  refine actOk_ite (hanswer ht _) ?_
  refine unhurt_actOk ?_ _
  refine actOk_ite (hanswer ht _) ?_
  refine actOk_ite (hanswer ht _) ?_
  · refine hanswer ?_ _
    exact epPut_memOk (mbPut_memOk (markDie_memOk ht _) _ _) _ _

theorem execEvClose_memOk {s : State} (hs : s.memOk) (q sb) : OutOk (execEvClose q sb s) := by
  unfold execEvClose
  extract_lets i
  refine tile_memOk hs (fun t ht => ?_) _ _
  extract_lets x k m answer e en t1 t2 t3
  have hanswer {u : State} (hu : u.memOk) (v : Nat) : ActOk (answer u v) := actOk_ok (evAnswer_memOk hu _ _ _ _)
  have h1 : t1.memOk := mbPut_memOk ht _ _
  have h3 : t3.memOk := by
    unfold t3
    split
    · exact epPut_memOk h1 _ _
    · exact h1
  refine actOk_ite (actOk_error (evRefuse_stopOk _)) ?_
  refine unhurt_actOk ?_ _
  split
  · exact actOk_error (mbStop_stopOk _ _)
  refine actOk_ite (hanswer ht _) ?_
  refine actOk_ite (hanswer ht _) ?_
  · refine unhurt_actOk (hanswer ?_ _) _
    exact h3

theorem execEvSend_memOk {s : State} (hs : s.memOk) (q aa sb) : OutOk (execEvSend q aa sb s) := by
  unfold execEvSend
  extract_lets i
  refine tile_memOk hs (fun t ht => ?_) _ _
  extract_lets x va k g len m bad refuse n
  have hrefuse {u : State} (hu : u.memOk) (v : Nat) : ActOk (refuse u v)
      := actOk_ok (refusedWord_memOk (evAnswer_memOk hu _ _ _ _))
  refine actOk_ite (actOk_error (evRefuse_stopOk _)) ?_
  refine unhurt_actOk ?_ _
  refine actOk_ite (actOk_error (accStop_stopOk _ _ _ _ _)) ?_
  split
  · exact actOk_error (stashSrc_stopOk _ _ ‹_›)
  have h1 := stashSrc_memOk ht _ _ ‹_›
  split
  · exact actOk_error (mbStop_stopOk _ _)
  have h2 := markDie_memOk h1 k
  extract_lets t2
  split
  · split
    · exact actOk_error (watchStop_stopOk _ _)
    · exact hrefuse h2 _
  refine actOk_ite (hrefuse h2 _) ?_
  refine actOk_ite (hrefuse h2 _) ?_
  refine actOk_ite (hrefuse (mbPut_memOk h2 _ _) _) ?_
  refine actOk_ite (hrefuse h2 _) ?_
  refine unhurt_actOk ?_ _
  extract_lets
  have hissue := issueCmd_memOk h2
  split
  · next h => exact actOk_error ((hissue _).2 _ h)
  · next h => exact actOk_ok (evAnswer_memOk (mbPut_memOk (engWr_memOk ((hissue _).1 _ h) _ _ _ _) _ _) _ _ _ _)

theorem takeObs_memOk {t : State} (ht : t.memOk) (k m off) : (takeObs t k m off).1.memOk := by
  unfold takeObs
  extract_lets n a h len img words
  exact mbPut_memOk ht _ _

theorem writeMsgs_memOk {z : State} (hz : z.memOk) (c x y) : (writeMsgs c x y z).1.memOk := by
  fun_induction writeMsgs c x y z with
  | case1 => exact hz
  | case2 => exact hz
  | case3 s n off len lbl rest k s1 h ih => exact ih (cmdWr_memOk hz _ _ _ _ _ _ h)
  | case4 => exact hz

theorem runRecv_memOk {s : State} (hs : s.memOk) (c) : (runRecv s c).state.memOk := by
  unfold runRecv
  split
  rename_i e1
  have h2 := memOk_of_eq e1 (writeMsgs_memOk hs _ _ _)
  exact h2

theorem execEvRecv_memOk {s : State} (hs : s.memOk) (q aa sb) : OutOk (execEvRecv q aa sb s) := by
  unfold execEvRecv
  extract_lets i
  refine tile_memOk hs (fun t ht => ?_) _ _
  extract_lets x va k m bad
  clear_value bad
  refine actOk_ite (actOk_error (evRefuse_stopOk _)) ?_
  refine unhurt_actOk ?_ _
  refine actOk_ite (actOk_error (accStop_stopOk _ _ _ _ _)) ?_
  split
  · exact actOk_error (stashDest_stopOk _ _ ‹_›)
  have h0 := stashDest_memOk ht _ _ ‹_›
  split
  · exact actOk_error (mbStop_stopOk _ _)
  have h1 := markDie_memOk h0 k
  extract_lets t1 refuse
  have hrefuse (v : Nat) : ActOk (refuse v) := actOk_ok (refusedWord_memOk (evAnswer_memOk h1 _ _ _ _))
  split
  · refine unhurt_actOk ?_ _
    have h2 := takeObs_memOk h1 k m 0
    have hissue := issueCmd_memOk h2
    dsimp only
    split
    · next h => exact actOk_error ((hissue _).2 _ h)
    · next h => exact actOk_ok (evAnswer_memOk ((hissue _).1 _ h) _ _ _ _)
  split
  · split
    · exact actOk_error (watchStop_stopOk _ _)
    · exact hrefuse _
  refine actOk_ite (hrefuse _) ?_
  split
  · exact actOk_ok (safeSuspend_memOk h1 _ _ _ _ _ _ _)
  · exact hrefuse _

theorem gatherOne_memOk {acc : State × ℕ × List Word × Label} (hacc : acc.1.memOk) (stride e) :
    (gatherOne stride acc e).1.memOk := by
  unfold gatherOne
  split
  extract_lets m t0
  have ht0 : t0.memOk := markDie_memOk hacc _
  split
  · split
    rename_i e1
    have h2 := memOk_of_eq e1 (takeObs_memOk ht0 _ _ _)
    exact h2
  split
  · exact ht0
  · exact ht0

theorem execEvGather_memOk {s : State} (hs : s.memOk) (q aa sb) : OutOk (execEvGather q aa sb s) := by
  unfold execEvGather
  extract_lets x i0 i stride
  refine tile_memOk hs (fun t ht => ?_) _ _
  extract_lets va l
  refine actOk_ite (actOk_error (evRefuse_stopOk _)) ?_
  refine actOk_ite (actOk_error (evRefuse_stopOk _)) ?_
  refine actOk_ite (actOk_error (evRefuse_stopOk _)) ?_
  refine unhurt_actOk ?_ _
  refine actOk_ite (actOk_error (evRefuse_stopOk _)) ?_
  refine actOk_ite (actOk_error (accStop_stopOk _ _ _ _ _)) ?_
  split
  · exact actOk_error (stashDest_stopOk _ _ ‹_›)
  next t _ =>
  have h0 : t.memOk := stashDest_memOk ht _ _ ‹_›
  split
  · exact actOk_error (mbStop_stopOk _ _)
  refine unhurt_actOk ?_ _
  have h1 : (l.zipIdx.foldl (gatherOne stride) (t, 0, [], 0)).1.memOk := foldl_fst_memOk (fun _ _ h => gatherOne_memOk h _ _) h0 _
  have hissue := issueCmd_memOk h1
  dsimp only
  split
  · next h => exact actOk_error ((hissue _).2 _ h)
  · next h => exact actOk_ok (evAnswer_memOk ((hissue _).1 _ h) _ _ _ _)

theorem jxAnswer_memOk {s : State} (hs : s.memOk) (rd v counts) {t} (hr : jxAnswer s rd v counts = .ok t) : t.memOk := by
  unfold jxAnswer at hr
  extract_lets h at hr
  cases hr
  exact retireHart_memOk (updHart_memOk hs _) _ _ _ _

theorem execJxRecv_memOk {st : State} (hst : st.memOk) (t s d) : OutOk (execJxRecv t s d st) := by
  unfold execJxRecv
  extract_lets h p a
  refine hartSettle_memOk hst fun u hu => ?_
  split at hu
  · exact jxAnswer_memOk hst _ _ _ hu
  extract_lets at hu
  split at hu
  · exact jxAnswer_memOk hst _ _ _ hu
  split at hu
  · cases hu
  split at hu
  · exact jxAnswer_memOk hst _ _ _ hu
  extract_lets at hu
  split at hu
  · cases hu
  split at hu
  · exact jxAnswer_memOk hst _ _ _ hu
  split at hu
  · exact jxAnswer_memOk hst _ _ _ hu
  split at hu
  · exact jxAnswer_memOk hst _ _ _ hu
  split at hu
  · exact jxAnswer_memOk hst _ _ _ hu
  split at hu
  · cases hu
  split at hu
  · cases hu
  · have h1 := hartWrite_memOk hst _ _ _ _ ‹_›
    refine jxAnswer_memOk (updHart_memOk (epPut_memOk ?_ _ _) _) _ _ _ hu
    refine mbPut_memOk ?_ _ _
    exact h1

theorem disarm_memOk {s : State} (hs : s.memOk) (e) : (disarm s e).memOk := by
  unfold disarm
  extract_lets x h less r s1
  have hs1 : s1.memOk := updHart_memOk hs _
  refine ite_memOk ?_ hs
  refine epPut_memOk ?_ _ _
  exact hs1

theorem commitObs_memOk {s : State} (hs : s.memOk) (e k m data len term) : (commitObs s e k m data len term).memOk := by
  unfold commitObs
  extract_lets x n l drn gen s1 m1 m2
  have hs1 : s1.memOk := engWr_memOk hs _ _ _ _
  refine disarm_memOk ?_ _
  refine mbPut_memOk ?_ _ _
  exact hs1

theorem execJxSend_memOk {st : State} (hst : st.memOk) (t s d) : OutOk (execJxSend t s d st) := by
  unfold execJxSend
  extract_lets h p a
  refine hartSettle_memOk hst fun u hu => ?_
  split at hu
  · exact jxAnswer_memOk hst _ _ _ hu
  extract_lets at hu
  split at hu
  · exact jxAnswer_memOk hst _ _ _ hu
  split at hu
  · cases hu
  split at hu
  · cases hu
  split at hu
  · cases hu
  next st1 _ _ hget =>
  have h1 : st1.memOk := hartGet_memOk hst _ _ _ hget
  split at hu
  · split at hu
    · cases hu
    · exact jxAnswer_memOk h1 _ _ _ hu
  extract_lets at hu
  split at hu
  · exact jxAnswer_memOk h1 _ _ _ hu
  split at hu
  · cases hu
  split at hu
  · exact jxAnswer_memOk h1 _ _ _ hu
  split at hu
  · exact jxAnswer_memOk h1 _ _ _ hu
  split at hu
  · exact jxAnswer_memOk h1 _ _ _ hu
  split at hu
  · exact jxAnswer_memOk h1 _ _ _ hu
  split at hu
  · cases hu
  · have h2 := hartRead_memOk h1 _ _ _ ‹_›
    exact jxAnswer_memOk (commitObs_memOk h2 _ _ _ _ _ _) _ _ _ hu

theorem execJxWait_memOk {st : State} (hst : st.memOk) (s d) : OutOk (execJxWait s d st) := by
  unfold execJxWait
  extract_lets h p
  refine hartSettle_memOk hst fun t ht => ?_
  split at ht
  · exact jxAnswer_memOk hst _ _ _ ht
  split at ht
  · exact jxAnswer_memOk hst _ _ _ ht
  split at ht
  · exact jxAnswer_memOk hst _ _ _ ht
  · cases ht
    exact updHart_memOk hst _

theorem execJxWaitResume_memOk {st : State} (hst : st.memOk) : OutOk (execJxWaitResume st) := by
  unfold execJxWaitResume
  extract_lets h
  split
  · exact outOk_ite (hartSettle_memOk hst (fun _ e2 => jxAnswer_memOk hst _ _ _ e2)) (outOk_next hst)
  · exact outOk_next hst

theorem execJxEnd_memOk {st : State} (hst : st.memOk) : OutOk (execJxEnd st) := by
  unfold execJxEnd
  extract_lets h
  refine hartSettle_memOk hst fun t ht => ?_
  split at ht
  · cases ht
  split at ht
  · exact jxAnswer_memOk hst _ _ _ ht
  · cases ht
    exact updHart_memOk (closeEpisode_memOk hst _ _ _ _ _) _

theorem jxMachine_memOk {st : State} {f : Unit → HAct} (hst : st.memOk) (hf : ∀ u t, f u = .ok t → t.memOk) :
    OutOk (jxMachine st f) := by
  unfold jxMachine
  refine hartSettle_memOk hst fun t ht => ?_
  split at ht
  · exact hf _ _ ht
  · cases ht

theorem execJxEcreate_memOk {st : State} (hst : st.memOk) (s d) : OutOk (execJxEcreate s d st) := by
  unfold execJxEcreate
  refine jxMachine_memOk hst fun _ u hu => ?_
  extract_lets at hu
  split at hu
  · cases hu
  split at hu
  · cases hu
  split at hu
  · cases hu
  next st1 _ _ hget =>
  have h1 : st1.memOk := hartGet_memOk hst _ _ _ hget
  extract_lets at hu
  split at hu
  · exact jxAnswer_memOk h1 _ _ _ hu
  split at hu
  · exact jxAnswer_memOk h1 _ _ _ hu
  · refine jxAnswer_memOk ?_ _ _ _ hu
    exact epPut_memOk h1 _ _

theorem execJxEload_memOk {st : State} (hst : st.memOk) (s d) : OutOk (execJxEload s d st) := by
  unfold execJxEload
  refine jxMachine_memOk hst fun _ t ht => ?_
  extract_lets h v e x s1 at ht
  split at ht
  · exact jxAnswer_memOk hst _ _ _ ht
  split at ht
  · exact jxAnswer_memOk hst _ _ _ ht
  split at ht
  · exact jxAnswer_memOk hst _ _ _ ht
  · exact jxAnswer_memOk (updHart_memOk (epPut_memOk hst _ _) _) _ _ _ ht

theorem execJxEpark_memOk {st : State} (hst : st.memOk) (d) : OutOk (execJxEpark d st) := by
  unfold execJxEpark
  refine jxMachine_memOk hst fun _ t ht => ?_
  extract_lets h at ht
  split at ht
  · exact jxAnswer_memOk hst _ _ _ ht
  · exact jxAnswer_memOk (updHart_memOk (epPut_memOk hst _ _) _) _ _ _ ht

theorem execJxMabort_memOk {st : State} (hst : st.memOk) (s d) : OutOk (execJxMabort s d st) := by
  unfold execJxMabort
  refine jxMachine_memOk hst fun _ t ht => ?_
  extract_lets v e at ht
  split at ht
  · exact jxAnswer_memOk hst _ _ _ ht
  split at ht
  · exact jxAnswer_memOk hst _ _ _ ht
  · exact jxAnswer_memOk (stopEpisode_memOk hst _ _) _ _ _ ht

theorem execInstructionBudgetExpiry_memOk {s : State} (hs : s.memOk) : OutOk (execInstructionBudgetExpiry s) := by
  unfold execInstructionBudgetExpiry
  split
  · refine outOk_ite ?_ (outOk_next hs)
    extract_lets s1
    have hs1 : s1.memOk := stopEpisode_memOk hs _ _
    exact outOk_next (ite_memOk (updHart_memOk hs1 _) hs1)
  · exact outOk_next hs

theorem execWallBudgetExpiry_memOk {s : State} (hs : s.memOk) (ep) : OutOk (execWallBudgetExpiry ep s) := by
  unfold execWallBudgetExpiry
  exact outOk_next (ite_memOk (stopEpisode_memOk hs _ _) hs)

theorem execEpisodeWipeComplete_memOk {s : State} (hs : s.memOk) (ep) : OutOk (execEpisodeWipeComplete ep s) := by
  unfold execEpisodeWipeComplete
  extract_lets x s1
  refine outOk_next ?_
  refine ite_memOk ?_ hs
  refine wipeDone_memOk ?_ _
  exact hs

theorem hartNext_memOk {s : State} (hs : s.memOk) : (hartNext s).1.memOk := by
  unfold hartNext
  split
  · exact hs
  split
  · exact hs
  split
  · exact hs
  split
  · exact hs
  split
  · exact hs
  split
  · exact hs
  split
  · rename_i e1
    have h2 := memOk_of_eq e1 (hartFetch_memOk hs)
    exact h2
  rename_i e3
  have h4 := memOk_of_eq e3 (hartFetch_memOk hs)
  exact h4

/-! ### What the functions of Machine/Launch.lean keep -/

theorem wakeRecord_memOk {s : State} (hs : s.memOk) (pa) : (wakeRecord s pa).memOk := by
  unfold wakeRecord
  extract_lets r die s1
  have hs1 : s1.memOk := writeRecord_memOk hs _ _ _
  refine ite_memOk hs ?_
  refine ite_memOk hs ?_
  refine readyAdd_memOk ?_ _ _ _ _
  exact hs1

theorem wakeNew_memOk {s : State} {t : State} (ht : t.memOk) : (wakeNew s t).memOk := by
  unfold wakeNew
  exact foldl_memOk (fun _ _ h3 => ite_memOk (wakeRecord_memOk h3 _) h3) ht _

theorem execWaitConditionMet_memOk {s : State} (hs : s.memOk) (r) : OutOk (execWaitConditionMet r s) := by
  unfold execWaitConditionMet
  exact outOk_next (ite_memOk (wakeRecord_memOk hs _) hs)

theorem execWaitDeadline_memOk {s : State} (hs : s.memOk) (r) : OutOk (execWaitDeadline r s) := by
  unfold execWaitDeadline
  extract_lets x
  exact outOk_next (ite_memOk (wakeRecord_memOk hs _) hs)

theorem execReadyTableAdmit_memOk {s : State} (hs : s.memOk) (r) : OutOk (execReadyTableAdmit r s) := by
  unfold execReadyTableAdmit
  exact outOk_next (ite_memOk (wakeRecord_memOk hs _) hs)

theorem dsRefuse_stopOk {t : State} (code) : StopOk (dsRefuse t code) := by
  unfold dsRefuse
  exact illegal_stopOk _ _

theorem dsAnswer_memOk {t : State} (ht : t.memOk) (i sb x) : (dsAnswer t i sb x).memOk := by
  unfold dsAnswer
  exact push_memOk ht _ _ _

theorem dsAt_memOk {t : State} (ht : t.memOk) (va n) {r} (hr : dsAt t va n = .ok r) : r.1.memOk := by
  unfold dsAt at hr
  split at hr
  · cases hr
  split at hr
  · cases hr
  rename_i e3
  split at hr
  · cases hr
  split at hr
  · cases hr
    exact readVa_memOk ht _ _ _ _ e3
  · cases hr

theorem dsAt_stopOk {t : State} (va n) {e} (hr : dsAt t va n = .error e) : StopOk e := by
  unfold dsAt at hr
  split at hr
  · cases hr
    exact accStop_stopOk _ _ _ _ _
  split at hr
  · cases hr
    exact accStop_stopOk _ _ _ _ _
  split at hr
  · cases hr
    exact accStop_stopOk _ _ _ _ _
  split at hr
  · cases hr
  cases hr
  exact accStop_stopOk _ _ _ _ _

theorem stageWait_memOk {t : State} (ht : t.memOk) (stg arg) {u} (hr : stageWait t stg arg = some u) : u.memOk := by
  unfold stageWait at hr
  split at hr
  · split at hr
    · cases hr
    cases hr
    exact safeSuspend_memOk ht _ _ _ _ _ _ _
  · cases hr

theorem takeSlot_memOk {t : State} (ht : t.memOk) (k child dep nb ne l) : (takeSlot t k child dep nb ne l).memOk := by
  unfold takeSlot
  extract_lets p a t1 t2 src
  have ht1 : t1.memOk := engWr_memOk (writeRecord_memOk ht _ _ _) _ _ _ _
  have ht2 : t2.memOk := stageAdd_memOk ht1 _ _ _ _ _
  exact setPart_memOk ht2 _ _

theorem dsPlace_memOk {t : State} (ht : t.memOk) (va n) {r} (hr : dsPlace t va n = .ok r) : r.1.memOk := by
  unfold dsPlace at hr
  split at hr
  · cases hr
  split at hr
  · cases hr
  rename_i e3
  split at hr
  · cases hr
    exact translateMark_memOk ht _ _ _ _ _ _ e3
  · cases hr

theorem dsPlace_stopOk {t : State} (va n) {e} (hr : dsPlace t va n = .error e) : StopOk e := by
  unfold dsPlace at hr
  split at hr
  · cases hr
    exact accStop_stopOk _ _ _ _ _
  split at hr
  · cases hr
    exact accStop_stopOk _ _ _ _ _
  split at hr
  · cases hr
  cases hr
  exact accStop_stopOk _ _ _ _ _

theorem dsPlace_ite_memOk {t : State} (ht : t.memOk) {p : Prop} [Decidable p] {va n r}
    (hr : (if p then dsPlace t va n else .ok (t, 0)) = .ok r) : r.1.memOk := by
  split at hr
  · exact dsPlace_memOk ht _ _ hr
  · cases hr
    exact ht

theorem dsPlace_ite_stopOk {t : State} {p : Prop} [Decidable p] {va n e}
    (hr : (if p then dsPlace t va n else .ok (t, 0)) = .error e) : StopOk e := by
  split at hr
  · exact dsPlace_stopOk _ _ hr
  · cases hr

theorem launch_memOk {s : State} (hs : s.memOk) (i0 wait aa sb) : OutOk (launch i0 wait aa sb s) := by
  unfold launch
  extract_lets x ne i
  refine tile_memOk hs (fun t ht => ?_) _ _
  extract_lets
  refine actOk_ite (actOk_error (dsRefuse_stopOk _)) ?_
  refine actOk_ite (actOk_error (accStop_stopOk _ _ _ _ _)) ?_
  split
  · have hacc e va := accStop_stopOk (s := t) e va 64 false true
    refine actOk_error ?_
    split
    · next h => exact lowerStop_stopOk (dsPlace_ite_stopOk h) (hacc _ _)
    · exact hacc _ _
  have h1 := readVa_memOk ht _ _ _ _ ‹_›
  extract_lets
  refine actOk_ite (actOk_error (dsRefuse_stopOk _)) ?_
  refine actOk_ite (actOk_error (dsRefuse_stopOk _)) ?_
  refine unhurt_actOk ?_ _
  split
  · next h =>
    have hy := dsPlace_ite_stopOk h
    refine actOk_error ?_
    split
    · exact lowerStop_stopOk (illegal_stopOk _ _) hy
    · exact hy
  next t2 _ hplace =>
  have h2 : t2.memOk := dsPlace_ite_memOk h1 hplace
  extract_lets
  refine actOk_ite (actOk_ok (dsAnswer_memOk h2 _ _ _)) ?_
  refine actOk_ite (actOk_ok (dsAnswer_memOk h2 _ _ _)) ?_
  refine unhurt_actOk ?_ _
  refine actOk_ite (actOk_ok (dsAnswer_memOk h2 _ _ _)) ?_
  split
  · exact actOk_ok (dsAnswer_memOk (takeSlot_memOk h2 _ _ _ _ _ _) _ _ _)
  refine actOk_ite (actOk_ok (dsAnswer_memOk h2 _ _ _)) ?_
  split
  · exact actOk_ok (safeSuspend_memOk h2 _ _ _ _ _ _ _)
  · exact actOk_error (illegal_stopOk _ _)

theorem execDsLaunch_memOk {s : State} (hs : s.memOk) (q rl sc aa sb) : OutOk (execDsLaunch q rl sc aa sb s) := by
  unfold execDsLaunch
  exact launch_memOk hs _ _ _ _

theorem execDsLaunchW_memOk {s : State} (hs : s.memOk) (q rl sc aa sb) : OutOk (execDsLaunchW q rl sc aa sb s) := by
  unfold execDsLaunchW
  exact launch_memOk hs _ _ _ _

theorem enqueueSlot_memOk {s : State} (hs : s.memOk) (part k) {t} (hr : enqueueSlot s part k = some t) : t.memOk := by
  unfold enqueueSlot at hr
  split at hr
  · cases hr
  extract_lets a stg at hr
  obtain ⟨u1, e2, rfl⟩ := Option.map_eq_some_iff.1 hr
  exact stageSub_memOk (engWr_memOk (ringAppend_memOk hs _ _ _ _ _ e2) _ _ _ _) _ _ _

theorem execPoolSlotEnqueue_memOk {s : State} (hs : s.memOk) (part slot) : OutOk (execPoolSlotEnqueue part slot s) := by
  unfold execPoolSlotEnqueue
  exact outOk_next (getD_memOk (fun _ e2 => enqueueSlot_memOk hs _ _ e2) hs)

theorem execDsQpush_memOk {s : State} (hs : s.memOk) (q rl sc aa sb) : OutOk (execDsQpush q rl sc aa sb s) := by
  unfold execDsQpush
  extract_lets i
  refine tile_memOk hs (fun t ht => ?_) _ _
  extract_lets
  refine actOk_ite (actOk_error (dsRefuse_stopOk _)) ?_
  refine actOk_ite (actOk_error (dsRefuse_stopOk _)) ?_
  split
  · exact actOk_error (dsAt_stopOk _ _ ‹_›)
  next t1 _ hat =>
  have h1 : t1.memOk := dsAt_memOk ht _ _ hat
  refine unhurt_actOk ?_ _
  extract_lets
  refine actOk_ite (actOk_ok (dsAnswer_memOk h1 _ _ _)) ?_
  refine actOk_ite (actOk_ok (dsAnswer_memOk h1 _ _ _)) ?_
  refine unhurt_actOk ?_ _
  split
  · have h2 := ringAppend_memOk (writeRecord_memOk h1 _ _ _) _ _ _ _ _ ‹_›
    exact actOk_ok (dsAnswer_memOk h2 _ _ _)
  · exact actOk_ok (getD_memOk (fun _ => stageWait_memOk h1 _ _) (dsAnswer_memOk h1 _ _ _))

theorem execDsQpop_memOk {s : State} (hs : s.memOk) (q ac sc aa sb) : OutOk (execDsQpop q ac sc aa sb s) := by
  unfold execDsQpop
  extract_lets i
  refine tile_memOk hs (fun t ht => ?_) _ _
  extract_lets
  refine actOk_ite (actOk_error (dsRefuse_stopOk _)) ?_
  refine actOk_ite (actOk_error (dsRefuse_stopOk _)) ?_
  split
  · exact actOk_error (dsAt_stopOk _ _ ‹_›)
  next t1 _ hat =>
  have h1 : t1.memOk := dsAt_memOk ht _ _ hat
  refine unhurt_actOk ?_ _
  refine actOk_ite (actOk_ok (dsAnswer_memOk h1 _ _ _)) ?_
  refine unhurt_actOk ?_ _
  split
  · exact actOk_ok (getD_memOk (fun _ => stageWait_memOk h1 _ _) (dsAnswer_memOk h1 _ _ _))
  split
  · exact actOk_error (accStop_stopOk _ _ _ _ _)
  · have h2 := writeVa_memOk h1 _ _ _ _ _ _ _ ‹_›
    exact actOk_ok (dsAnswer_memOk (takeRing_memOk h2 _ _ _) _ _ _)

theorem condWord_memOk {s : State} (hs : s.memOk) (i aa sb f) : OutOk (condWord i aa sb f s) := by
  unfold condWord
  refine tile_memOk hs (fun t3 h4 => ?_) _ _
  extract_lets va
  refine actOk_ite (actOk_error (accStop_stopOk _ _ _ _ _)) ?_
  split
  · extract_lets y
    refine actOk_error ?_
    split
    · exact lowerStop_stopOk (accStop_stopOk _ _ _ _ _) (accStop_stopOk _ _ _ _ _)
    · exact accStop_stopOk _ _ _ _ _
  rename_i e11
  refine actOk_ite (actOk_error (dsRefuse_stopOk _)) ?_
  extract_lets l old
  split
  · exact actOk_error (accStop_stopOk _ _ _ _ _)
  rename_i e15
  exact actOk_ok (push_memOk (writeVa_memOk (readVa_memOk h4 _ _ _ _ e11) _ _ _ _ _ _ _ e15) _ _ _)

theorem execDsCondSet_memOk {s : State} (hs : s.memOk) (q aa sb) : OutOk (execDsCondSet q aa sb s) := by
  unfold execDsCondSet
  exact condWord_memOk hs _ _ _ _

theorem execDsCondAdd_memOk {s : State} (hs : s.memOk) (q aa sb) : OutOk (execDsCondAdd q aa sb s) := by
  unfold execDsCondAdd
  exact condWord_memOk hs _ _ _ _

theorem execDsCondOr_memOk {s : State} (hs : s.memOk) (q aa sb) : OutOk (execDsCondOr q aa sb s) := by
  unfold execDsCondOr
  exact condWord_memOk hs _ _ _ _

theorem execDsCondAnd_memOk {s : State} (hs : s.memOk) (q aa sb) : OutOk (execDsCondAnd q aa sb s) := by
  unfold execDsCondAnd
  exact condWord_memOk hs _ _ _ _

theorem graphStart_memOk {t : State} (ht : t.memOk) (pa img done l) : (graphStart t pa img done l).memOk := by
  unfold graphStart
  extract_lets part t1 t2 t3 g t4
  have ht1 : t1.memOk := engWr_memOk (engWr_memOk ht _ _ _ _) _ _ _ _
  have ht2 : t2.memOk := foldl_memOk (fun _ _ h3 => engWr_memOk (engWr_memOk h3 _ _ _ _) _ _ _ _) ht1 _
  have ht3 : t3.memOk := foldl_memOk (fun _ _ h6 => stageWr_memOk h6 _ _ _ _ _ _) ht2 _
  split
  · refine graphFail_memOk ?_ _ _ _
    exact ht3
  refine activate_memOk ?_ _ _
  exact ht3

theorem execDsGstart_memOk {s : State} (hs : s.memOk) (q aa sb) : OutOk (execDsGstart q aa sb s) := by
  unfold execDsGstart
  extract_lets i
  refine tile_memOk hs (fun t ht => ?_) _ _
  extract_lets
  refine actOk_ite (actOk_error (dsRefuse_stopOk _)) ?_
  split
  · exact actOk_error (dsAt_stopOk _ _ ‹_›)
  next t1 _ hat =>
  have h1 : t1.memOk := dsAt_memOk ht _ _ hat
  split
  · exact actOk_error (accStop_stopOk _ _ _ _ _)
  extract_lets
  refine unhurt_actOk ?_ _
  refine actOk_ite (actOk_error (dsRefuse_stopOk _)) ?_
  refine actOk_ite (actOk_error (dsRefuse_stopOk _)) ?_
  refine actOk_ite (actOk_ok (dsAnswer_memOk h1 _ _ _)) ?_
  refine unhurt_actOk ?_ _
  refine actOk_ite (actOk_ok (dsAnswer_memOk h1 _ _ _)) ?_
  refine actOk_ite (actOk_ok (dsAnswer_memOk h1 _ _ _)) ?_
  split
  · next h =>
    split at h
    · cases h
    · exact actOk_error (dsPlace_stopOk _ _ h)
  · next t2 _ h =>
    have h2 : t2.memOk := by
      split at h
      · cases h
        exact h1
      · exact dsPlace_memOk h1 _ _ h
    exact actOk_ok (dsAnswer_memOk (graphStart_memOk h2 _ _ _ _) _ _ _)

theorem execDsGstop_memOk {s : State} (hs : s.memOk) (q aa sb) : OutOk (execDsGstop q aa sb s) := by
  unfold execDsGstop
  extract_lets i
  refine tile_memOk hs (fun t ht => ?_) _ _
  refine actOk_ite (actOk_error (dsRefuse_stopOk _)) ?_
  split
  · exact actOk_error (dsAt_stopOk _ _ ‹_›)
  next t1 _ hat =>
  have h1 : t1.memOk := dsAt_memOk ht _ _ hat
  refine actOk_ite (actOk_ok (dsAnswer_memOk h1 _ _ _)) ?_
  have h2 v l pa := engWr_memOk h1 pa 1 v l
  refine unhurt_actOk (actOk_ok (dsAnswer_memOk ?_ _ _ _)) _
  split
  · exact graphEnd_memOk (h2 _ _ _) _
  · exact h2 _ _ _

theorem execGraphActivation_memOk {s : State} (hs : s.memOk) : OutOk (execGraphActivation s) := by
  unfold execGraphActivation
  split
  · exact outOk_next hs
  extract_lets s1
  split
  · exact outOk_next hs
  refine outOk_next ?_
  refine ite_memOk ?_ ?_
  · refine activate_memOk ?_ _ _
    exact hs
  refine graphStuck_memOk ?_ _ _
  exact hs

theorem execDsWake_memOk {s : State} (hs : s.memOk) (q aa sb) : OutOk (execDsWake q aa sb s) := by
  unfold execDsWake
  extract_lets i
  refine tile_memOk hs (fun t3 h4 => ?_) _ _
  refine actOk_ite (actOk_error (dsRefuse_stopOk _)) ?_
  split
  · rename_i e7
    exact actOk_error (dsAt_stopOk _ _ e7)
  rename_i e10
  extract_lets r
  exact actOk_ite (actOk_error (privileged_stopOk _)) (actOk_ite (actOk_ok (dsAt_memOk h4 _ _ e10))
      (actOk_ok (dsAnswer_memOk (wakeRecord_memOk (dsAt_memOk h4 _ _ e10) _) _ _ _)))

theorem execDsPrio_memOk {s : State} (hs : s.memOk) (q aa sb) : OutOk (execDsPrio q aa sb s) := by
  unfold execDsPrio
  extract_lets i
  refine tile_memOk hs (fun t3 h4 => ?_) _ _
  extract_lets x v
  refine actOk_ite (actOk_error (dsRefuse_stopOk _)) ?_
  refine actOk_ite (actOk_ok (push_memOk (dsAnswer_memOk h4 _ _ _) _ _ _)) ?_
  split
  · rename_i e7
    exact actOk_error (dsAt_stopOk _ _ e7)
  rename_i e10
  extract_lets r st
  exact actOk_ite (actOk_ok (dsAt_memOk h4 _ _ e10)) (actOk_ite (actOk_ok (dsAnswer_memOk (writeRecord_memOk (dsAt_memOk h4 _ _
      e10) _ _ _) _ _ _)) (actOk_ok (dsAt_memOk h4 _ _ e10)))

theorem execDsQuery_memOk {s : State} (hs : s.memOk) (q sb) : OutOk (execDsQuery q sb s) := by
  unfold execDsQuery
  extract_lets i
  refine tile_memOk hs (fun t ht => ?_) _ _
  extract_lets
  refine actOk_ite (actOk_error (dsRefuse_stopOk _)) ?_
  refine actOk_ite (unhurt_actOk (actOk_ok (dsAnswer_memOk ht _ _ _)) _) ?_
  refine actOk_ite (actOk_error (dsRefuse_stopOk _)) ?_
  refine unhurt_actOk ?_ _
  exact actOk_ite (actOk_error (privileged_stopOk _)) (actOk_ok (dsAnswer_memOk ht _ _ _))

theorem execClaim_memOk {s : State} (hs : s.memOk) : OutOk (execClaim s) := by
  unfold execClaim
  exact outOk_next (ite_memOk (claimFor_memOk hs) hs)

theorem postNext_memOk {s : State} (hs : s.memOk) {t} (hr : postNext s = some t) : t.memOk := by
  obtain ⟨p, -, hp⟩ := List.exists_of_findSome?_eq_some hr
  dsimp only at hp
  split at hp
  · obtain ⟨u, hu, rfl⟩ := Option.map_eq_some_iff.1 hp
    have h1 := ringAppend_memOk hs _ _ _ _ _ hu
    exact h1
  · cases hp

theorem handOver_memOk {s : State} (hs : s.memOk) {t} (hr : handOver s = some t) : t.memOk := by
  unfold handOver at hr
  split at hr
  · cases hr
  extract_lets pa r cause at hr
  split at hr
  · cases hr
  split at hr
  · obtain ⟨u15, e16, rfl⟩ := Option.map_eq_some_iff.1 hr
    have h17 := ringAppend_memOk hs _ _ _ _ _ e16
    exact h17
  · cases hr

theorem faultPost_memOk {s : State} (hs : s.memOk) {t} (hr : faultPost s = some t) : t.memOk := by
  unfold faultPost at hr
  split at hr
  · rename_i e1
    cases hr
    exact postNext_memOk hs e1
  exact handOver_memOk hs hr

theorem execFaultQueuePost_memOk {s : State} (hs : s.memOk) : OutOk (execFaultQueuePost s) := by
  unfold execFaultQueuePost
  exact outOk_next (getD_memOk (fun _ e2 => faultPost_memOk hs e2) hs)

theorem execSliceEnd_memOk {s : State} (hs : s.memOk) : OutOk (execSliceEnd s) := by
  unfold execSliceEnd
  exact outOk_next (ite_memOk hs hs)

theorem preempt_memOk {s : State} (hs : s.memOk) {t} (hr : preempt s = some t) : t.memOk := by
  obtain ⟨c, -, hc⟩ := List.exists_of_findSome?_eq_some hr
  obtain ⟨n, -, rfl⟩ := Option.map_eq_some_iff.1 hc
  have h1 : (updCore (refresh s) n endSlice).memOk := by
    rw [State.memOk, updCore_mem]
    exact refresh_memOk hs
  exact h1

theorem execPriorityPreemption_memOk {s : State} (hs : s.memOk) : OutOk (execPriorityPreemption s) := by
  unfold execPriorityPreemption
  exact outOk_next (getD_memOk (fun _ e2 => preempt_memOk hs e2) hs)

theorem execDsAbortGo_memOk {s : State} (hs : s.memOk) (core) : OutOk (execDsAbortGo core s) := by
  unfold execDsAbortGo
  extract_lets me t
  have ht : t.memOk := focus_memOk hs _
  exact outOk_next (ite_memOk (focus_memOk (takeTrap_memOk ht _ _ _) _) hs)

/-! ### What the functions of Machine/Matrix.lean keep -/

theorem mxWord_memOk {s : State} {act : State → Act} (hs : s.memOk) (hact : ∀ t, t.memOk → ActOk (act t)) (i) :
    OutOk (mxWord i s act) := by
  unfold mxWord
  exact tile_memOk hs (fun _ h2 => actOk_ite (actOk_error (illegal_stopOk _ _)) (hact _ h2)) _ _

theorem mxBad_memOk {t : State} (code) : ActOk (mxBad t code) := by
  unfold mxBad
  exact actOk_error (illegal_stopOk _ _)

theorem putZ_memOk {s : State} (hs : s.memOk) (n z es l) : (putZ s n z es l).memOk := by
  unfold putZ
  exact push_memOk hs _ _ _

theorem putZf_memOk {s : State} (hs : s.memOk) (n z es l) : (putZf s n z es l).memOk := by
  unfold putZf
  exact push_memOk (putZ_memOk hs _ _ _ _) _ _ _

theorem rowsGo_memOk {t : State} (ht : t.memOk) (n pitch x y) {r} (hr : rowsGo t n pitch x y = .ok r) : r.1.memOk := by
  induction x generalizing t y r with
  | zero =>
    cases hr
    exact ht
  | succ k ih =>
    unfold rowsGo at hr
    split at hr
    · cases hr
    · next hb =>
      have h1 := readBytes_memOk ht _ _ _ _ hb
      split at hr
      · cases hr
      · next hg =>
        cases hr
        have h2 := ih h1 _ hg
        exact h2

theorem readRows_memOk {t : State} (ht : t.memOk) (sz n pitch k va) {r} (hr : readRows t sz n pitch k va = .ok r) :
    r.1.memOk := by
  unfold readRows at hr
  split at hr
  · rename_i e1
    cases hr
    exact rowsGo_memOk ht _ _ _ _ e1
  extract_lets w at hr
  cases hr

theorem readRows_stopOk {t : State} (sz n pitch k va) {e} (hr : readRows t sz n pitch k va = .error e) : StopOk e := by
  unfold readRows at hr
  split at hr
  · cases hr
  extract_lets w at hr
  cases hr
  exact accStop_stopOk _ _ _ _ _

theorem readA_memOk {t : State} (ht : t.memOk) (va n pitch) {r} (hr : readA t va n pitch = .ok r) : r.1.memOk := by
  unfold readA at hr
  extract_lets out at hr
  split at hr
  · split at hr
    · cases hr
    · cases hr
  · cases hr
  · cases hr
  rename_i e12 e13
  cases hr
  exact readRows_memOk ht _ _ _ _ _ e12

theorem readA_stopOk {t : State} (va n pitch) {e} (hr : readA t va n pitch = .error e) : StopOk e := by
  unfold readA at hr
  extract_lets out at hr
  have hout {e} (h : out = some e) : StopOk e := by
    obtain ⟨a, -, rfl⟩ := Option.map_eq_some_iff.1 h
    exact stopOk_trap
  clear_value out
  split at hr
  · split at hr
    · cases hr
      exact stopOk_trap
    · cases hr
      exact hout rfl
  · next h _ =>
    cases hr
    exact readRows_stopOk _ _ _ _ _ h
  · cases hr
    exact hout rfl
  · cases hr

theorem execMxMma_memOk {s : State} (hs : s.memOk) (q ac sc aa sb) : OutOk (execMxMma q ac sc aa sb s) := by
  unfold execMxMma
  extract_lets x i n
  refine mxWord_memOk hs (fun t3 h4 => ?_) _
  split
  · exact mxBad_memOk _
  refine actOk_ite (mxBad_memOk _) ?_
  split
  · rename_i e7
    exact actOk_error (readA_stopOk _ _ _ e7)
  rename_i e10
  refine actOk_ite (actOk_error stopOk_wake) ?_
  extract_lets c ul p lab e b t2
  refine actOk_ok ?_
  refine foldl_memOk (fun t22 x23 h24 => ?_) ?_ _
  · exact push_memOk h24 _ _ _
  · exact readA_memOk h4 _ _ _ e10

theorem execBlockPortWrite_memOk {s : State} (hs : s.memOk) : OutOk (execBlockPortWrite s) := by
  unfold execBlockPortWrite
  extract_lets isPort src s1
  have hs1 : s1.memOk := by
    unfold s1
    refine foldl_memOk (fun t7 x8 h9 => ?_) ?_ _
    · exact applyEff_memOk h9 _
    · exact hs
  exact outOk_next hs1

theorem readScales_memOk {t : State} (ht : t.memOk) (sz dec step k va) {r} (hr : readScales t sz dec step k va = .ok r) :
    r.1.memOk := by
  unfold readScales at hr
  split at hr
  · rename_i e1
    cases hr
    exact readRows_memOk ht _ _ _ _ _ e1
  cases hr

theorem readScales_stopOk {t : State} (sz dec step k va) {e} (hr : readScales t sz dec step k va = .error e) : StopOk e := by
  unfold readScales at hr
  split at hr
  · cases hr
  rename_i e4
  cases hr
  exact readRows_stopOk _ _ _ _ _ e4

theorem prom_memOk {s : State} (hs : s.memOk) (i0 sz dec aa sb) : OutOk (prom i0 sz dec aa sb s) := by
  unfold prom
  extract_lets x i sw
  refine mxWord_memOk hs (fun t3 h4 => ?_) _
  extract_lets va
  refine actOk_ite (mxBad_memOk _) ?_
  refine actOk_ite (mxBad_memOk _) ?_
  split
  · refine actOk_ite (mxBad_memOk _) ?_
    split
    · rename_i e16
      have h18 := (resOk_ok h4).2 _ e16
      exact actOk_error h18
    rename_i e19
    have h21 := (resOk_ok h4).1 _ e19
    extract_lets c z es t2 src
    have ht2 : t2.memOk := putZf_memOk h21 _ _ _ _
    exact actOk_ok ht2
  refine actOk_ite (mxBad_memOk _) ?_
  split
  · rename_i e22
    have h24 := readScales_stopOk _ _ _ _ _ e22
    exact actOk_error h24
  rename_i e25
  extract_lets c z es t2 src
  have ht2 : t2.memOk := readScales_memOk h4 _ _ _ _ _ e25
  exact actOk_ok ht2

theorem execMxProm_memOk {s : State} (hs : s.memOk) (q aa sb) : OutOk (execMxProm q aa sb s) := by
  unfold execMxProm
  exact prom_memOk hs _ _ _ _ _

theorem execMxProme_memOk {s : State} (hs : s.memOk) (q aa sb) : OutOk (execMxProme q aa sb s) := by
  unfold execMxProme
  exact prom_memOk hs _ _ _ _ _

theorem execMxZero_memOk {s : State} (hs : s.memOk) (q sb) : OutOk (execMxZero q sb s) := by
  unfold execMxZero
  extract_lets i
  refine mxWord_memOk hs (fun t3 h4 => ?_) _
  extract_lets x
  exact actOk_ite (mxBad_memOk _) (actOk_ok (foldl_memOk (fun _ _ h9 => ite_memOk (putZ_memOk h9 _ _ _ _) h9) h4 _))

theorem execMxZadd_memOk {s : State} (hs : s.memOk) (q sb) : OutOk (execMxZadd q sb s) := by
  unfold execMxZadd
  extract_lets i add
  refine mxWord_memOk hs (fun t3 h4 => ?_) _
  extract_lets x c za zb
  exact actOk_ite (mxBad_memOk _) (actOk_ite (mxBad_memOk _) (actOk_ok (putZf_memOk h4 _ _ _ _)))

theorem execMxScl_memOk {s : State} (hs : s.memOk) (q sb) : OutOk (execMxScl q sb s) := by
  unfold execMxScl
  extract_lets i
  refine mxWord_memOk hs (fun t3 h4 => ?_) _
  extract_lets x z mul
  exact actOk_ite (mxBad_memOk _) (actOk_ite (mxBad_memOk _) (actOk_ok (putZf_memOk h4 _ _ _ _)))

theorem execMxZld_memOk {s : State} (hs : s.memOk) (q ac sc aa sb) : OutOk (execMxZld q ac sc aa sb s) := by
  unfold execMxZld
  extract_lets x i
  refine mxWord_memOk hs (fun t3 h4 => ?_) _
  split
  · exact mxBad_memOk _
  split
  · rename_i e7
    exact actOk_error (readRows_stopOk _ _ _ _ _ e7)
  rename_i e10
  exact actOk_ok (readRows_memOk h4 _ _ _ _ _ e10)

theorem putRows_memOk {t : State} (ht : t.memOk) (n pitch l x y) {u} (hr : putRows t n pitch l x y = .ok u) : u.memOk := by
  fun_induction putRows t n pitch l x y generalizing u
  · cases hr
    exact ht
  · cases hr
  · rename_i e3 ih4
    have h5 := writeBytes_memOk ht _ _ _ _ _ _ e3
    exact ih4 h5 hr

theorem writeRows_memOk {t : State} (ht : t.memOk) (n pitch l rows va) : ActOk (writeRows t n pitch l rows va) := by
  unfold writeRows
  split
  · rename_i e1
    exact actOk_ok (putRows_memOk ht _ _ _ _ _ e1)
  extract_lets w
  exact actOk_error (accStop_stopOk _ _ _ _ _)

theorem storeZ_memOk {t : State} (ht : t.memOk) (i rl aa x w conv fl) : ActOk (storeZ i rl aa x w conv fl t) := by
  unfold storeZ
  extract_lets z es lab rows
  split
  · rename_i e1
    have h2 := (writeRows_memOk ht _ _ _ _ _).2 _ e1
    exact actOk_error h2
  rename_i e3
  have h4 := (writeRows_memOk ht _ _ _ _ _).1 _ e3
  extract_lets t1
  have ht1 : t1.memOk := releaseRows_memOk h4 _ _ _ _
  exact actOk_ok (ite_memOk (push_memOk ht1 _ _ _) ht1)

theorem execMxZst_memOk {s : State} (hs : s.memOk) (q rl sc aa sb) : OutOk (execMxZst q rl sc aa sb s) := by
  unfold execMxZst
  extract_lets x i
  refine mxWord_memOk hs (fun t3 h4 => ?_) _
  split
  · exact mxBad_memOk _
  · exact storeZ_memOk h4 _ _ _ _ _ _ _

theorem execMxZcvt_memOk {s : State} (hs : s.memOk) (q rl sc aa sb) : OutOk (execMxZcvt q rl sc aa sb s) := by
  unfold execMxZcvt
  extract_lets x i df rm
  refine mxWord_memOk hs (fun t3 h4 => ?_) _
  refine actOk_ite (mxBad_memOk _) ?_
  refine actOk_ite (mxBad_memOk _) ?_
  split
  · exact mxBad_memOk _
  · exact storeZ_memOk h4 _ _ _ _ _ _ _

theorem fenceZ_memOk {t : State} (ht : t.memOk) : (fenceZ t).memOk := by
  unfold fenceZ
  extract_lets rest u
  have hu : u.memOk := cleanEach_memOk ht _
  exact hu

theorem execMxFence_memOk {s : State} (hs : s.memOk) (q rl sc) : OutOk (execMxFence q rl sc s) := by
  unfold execMxFence
  exact tile_memOk hs (fun _ h2 => actOk_ok (ite_memOk (fenceZ_memOk h2) h2)) _ _

theorem execMxWsel_memOk {s : State} (hs : s.memOk) (q sb) : OutOk (execMxWsel q sb s) := by
  unfold execMxWsel
  extract_lets i
  refine mxWord_memOk hs (fun t3 h4 => ?_) _
  extract_lets x n
  exact actOk_ite (mxBad_memOk _) (actOk_ite (mxBad_memOk _) (actOk_ok h4))

theorem execMxWake_memOk {s : State} (hs : s.memOk) (q sb) : OutOk (execMxWake q sb s) := by
  unfold execMxWake
  refine mxWord_memOk hs (fun t3 h4 => ?_) _
  extract_lets x src
  exact actOk_ite (mxBad_memOk _) (actOk_ok h4)

theorem execMxGate_memOk {s : State} (hs : s.memOk) (q sb) : OutOk (execMxGate q sb s) := by
  unfold execMxGate
  refine mxWord_memOk hs (fun t3 h4 => ?_) _
  extract_lets x
  exact actOk_ite (mxBad_memOk _) (actOk_ok (push_memOk h4 _ _ _))

theorem execMxCfg_memOk {s : State} (hs : s.memOk) (q gh gl sb) : OutOk (execMxCfg q gh gl sb s) := by
  unfold execMxCfg
  extract_lets i
  exact tile_memOk hs (fun _ h2 => actOk_ok (push_memOk h2 _ _ _)) _ _

theorem quadSplit_memOk {t : State} (ht : t.memOk) (ctl) : (quadSplit t ctl).memOk := by
  unfold quadSplit
  extract_lets me q zs es lab col z t1
  have ht1 : t1.memOk := foldl_memOk (fun _ _ h3 => ite_memOk h3 (updCore_memOk h3 _ _)) ht _
  exact focus_memOk (putZf_memOk (focus_memOk ht1 _) _ _ _ _) _

theorem execMxQsplit_memOk {s : State} (hs : s.memOk) (q sb) : OutOk (execMxQsplit q sb s) := by
  unfold execMxQsplit
  refine mxWord_memOk hs (fun t3 h4 => ?_) _
  extract_lets t x src cs ws ctl
  refine actOk_ite (actOk_ok h4) ?_
  refine actOk_ite ?_ ?_
  · refine actOk_error ?_
    exact illegal_stopOk _ _
  refine actOk_ite ?_ ?_
  · exact mxBad_memOk _
  refine actOk_ite ?_ ?_
  · exact mxBad_memOk _
  refine actOk_ite (actOk_error stopOk_hold) ?_
  refine actOk_ite (actOk_error (stopOk_quadTrap)) ?_
  refine actOk_ok ?_
  refine quadSplit_memOk ?_ _
  exact h4

theorem execSubarrayOn_memOk {s : State} (hs : s.memOk) (i) : OutOk (execSubarrayOn i s) := by
  unfold execSubarrayOn
  extract_lets x src
  exact outOk_next (ite_memOk hs hs)

theorem execSubarrayIdleOff_memOk {s : State} (hs : s.memOk) (i) : OutOk (execSubarrayIdleOff i s) := by
  unfold execSubarrayIdleOff
  extract_lets x src
  exact outOk_next (ite_memOk hs hs)

theorem setQ_memOk {s : State} (hs : s.memOk) (l) : (setQ s l).memOk := by
  unfold setQ
  exact hs

theorem setR_memOk {s : State} (hs : s.memOk) (l) : (setR s l).memOk := by
  unfold setR
  exact hs

theorem recField_memOk {s : State} (hs : s.memOk) (w va off n v l) : (recField w va off n v l s).memOk := by
  unfold recField
  exact orMark_memOk hs (fun _ h => writeVa_memOk hs _ _ _ _ _ _ _ h) _ _ _

theorem Task.put_memOk {s : State} (hs : s.memOk) (t off n v) : (Task.put t off n v s).memOk := by
  unfold Task.put
  exact recField_memOk hs _ _ _ _ _ _

theorem ctxTask_memOk {s : State} (hs : s.memOk) (core ctx up) : (ctxTask s core ctx up).memOk := by
  unfold ctxTask
  exact updCore_memOk hs _ _

theorem submitTask_memOk {t : State} (ht : t.memOk) (rl va img lab) : (submitTask t rl va img lab).1.memOk := by
  unfold submitTask
  extract_lets c w pa k t1
  have ht1 : t1.memOk := recField_memOk (releaseFor_memOk ht _ _) _ _ _ _ _ _
  split
  · exact ht
  split
  · exact recField_memOk (recField_memOk ht _ _ _ _ _ _) _ _ _ _ _ _
  split
  · exact ht
  · exact ctxTask_memOk (setQ_memOk ht1 _) _ _ _

theorem taskWord_memOk {s : State} {act : State → ℕ → Label → Act} (hs : s.memOk) (hact : ∀ t i l, t.memOk → ActOk (act t i l))
    (i kind aa) : OutOk (taskWord i kind aa s act) := by
  unfold taskWord
  refine tile_memOk hs (fun t3 h4 => ?_) _ _
  extract_lets va st
  refine actOk_ite (actOk_error (accStop_stopOk _ _ _ _ _)) ?_
  split
  · exact actOk_error (accStop_stopOk _ _ _ _ _)
  rename_i e9
  exact hact _ _ _ (readVa_memOk h4 _ _ _ _ e9)

theorem execMxTask_memOk {s : State} (hs : s.memOk) (q ac rl sc aa sb) : OutOk (execMxTask q ac rl sc aa sb s) := by
  unfold execMxTask
  refine taskWord_memOk hs (fun t5 x6 x7 h8 => ?_) _ _ _
  split
  rename_i e13
  have h14 := memOk_of_eq e13 (submitTask_memOk h8 _ _ _ _)
  exact actOk_ok (push_memOk h14 _ _ _)

theorem execMxTstat_memOk {s : State} (hs : s.memOk) (q aa sb) : OutOk (execMxTstat q aa sb s) := by
  unfold execMxTstat
  refine taskWord_memOk hs (fun t5 x6 x7 h8 => ?_) _ _ _
  extract_lets v
  exact actOk_ok (push_memOk h8 _ _ _)

theorem execMxTkill_memOk {s : State} (hs : s.memOk) (q aa sb) : OutOk (execMxTkill q aa sb s) := by
  unfold execMxTkill
  refine taskWord_memOk hs (fun t5 x6 x7 h8 => ?_) _ _ _
  refine actOk_ok ?_
  refine push_memOk ?_ _ _ _
  split
  · split
    · exact h8
    · exact Task.put_memOk (ctxTask_memOk (setQ_memOk h8 _) _ _ _) _ _ _ _
  · exact h8

theorem markDeps_memOk {s : State} (hs : s.memOk) (k) : (markDeps s k).memOk := by
  unfold markDeps
  refine foldl_memOk (fun t4 x5 h6 => ?_) hs _
  split
  · rename_i e10
    exact translateMark_memOk h6 _ _ _ _ _ _ e10
  exact h6

theorem latchTasks_memOk {s : State} (hs : s.memOk) : (latchTasks s).memOk := by
  unfold latchTasks
  refine foldl_memOk (fun t4 x5 h6 => ?_) ?_ _
  · exact markDeps_memOk h6 _
  · exact hs

theorem creditDone_memOk {s : State} (hs : s.memOk) (k n failed) : (creditDone s k n failed).1.memOk := by
  unfold creditDone
  extract_lets a
  split
  · exact hs
  split
  · exact hs
  split
  · rename_i e1
    exact creditAt_memOk hs _ _ _ _ _ e1
  exact countFail_memOk hs _ _

theorem endTask_memOk {s : State} (hs : s.memOk) (k n f) : (endTask s k n f).memOk := by
  unfold endTask
  extract_lets fail
  split
  rename_i e1
  have h2 := memOk_of_eq e1 (creditDone_memOk hs _ _ _)
  extract_lets s1
  have hs1 : s1.memOk := by
    unfold s1
    split
    · exact Task.put_memOk (Task.put_memOk (Task.put_memOk (Task.put_memOk h2 _ _ _ _) _ _ _ _) _ _ _ _) _ _ _ _
    · exact Task.put_memOk h2 _ _ _ _
  exact ctxTask_memOk hs1 _ _ _

theorem execTaskStart_memOk {s : State} (hs : s.memOk) (k) : OutOk (execTaskStart k s) := by
  unfold execTaskStart
  extract_lets s1 s2
  have hs1 : s1.memOk := latchTasks_memOk hs
  have hs2 : s2.memOk := setQ_memOk hs1 _
  split
  · exact outOk_ite (outOk_next hs1) (outOk_ite (outOk_next (endTask_memOk hs2 _ _ _))
        (outOk_next (Task.put_memOk (Task.put_memOk (setR_memOk hs2 _) _ _ _ _) _ _ _ _)))
  · exact outOk_next hs1

theorem rowBits_memOk {s : State} (hs : s.memOk) (w va bytes l) {r} (hr : rowBits w va bytes l s = .ok r) : r.1.memOk := by
  fun_induction rowBits w va bytes l s generalizing r with
  | case1 =>
    cases hr
    exact hs
  | case2 => cases hr
  | case3 => cases hr
  | case4 s o os s1 v l h1 s2 r h2 ih =>
    cases hr
    have h2 := ih (cmdRd_memOk hs _ _ _ _ h1) h2
    exact h2

theorem rowBits_failOk {s : State} (hs : s.memOk) (w va bytes l) {e} (hr : rowBits w va bytes l s = .error e) : FailOk e := by
  fun_induction rowBits w va bytes l s generalizing e with
  | case1 => cases hr
  | case2 s o os e h =>
    cases hr
    exact cmdRd_failOk hs _ _ _ _ h
  | case3 s o os s1 v l h1 e h2 ih =>
    cases hr
    exact ih (cmdRd_memOk hs _ _ _ _ h1) h2
  | case4 => cases hr

theorem rowsBits_memOk {s : State} (hs : s.memOk) (w va ld bytes n) {r} (hr : rowsBits w va ld bytes n s = .ok r) :
    r.1.memOk := by
  fun_induction rowsBits w va ld bytes n s generalizing r with
  | case1 =>
    cases hr
    exact hs
  | case2 => cases hr
  | case3 => cases hr
  | case4 va n s s1 r h1 s2 rs h2 ih =>
    cases hr
    have h2 := ih (rowBits_memOk hs _ _ _ _ h1) h2
    exact h2

theorem rowsBits_failOk {s : State} (hs : s.memOk) (w va ld bytes n) {e} (hr : rowsBits w va ld bytes n s = .error e) :
    FailOk e := by
  fun_induction rowsBits w va ld bytes n s generalizing e with
  | case1 => cases hr
  | case2 va n s e h =>
    cases hr
    exact rowBits_failOk hs _ _ _ _ h
  | case3 va n s s1 r h1 e h2 ih =>
    cases hr
    exact ih (rowBits_memOk hs _ _ _ _ h1) h2
  | case4 => cases hr

theorem taskScales_memOk {s : State} (hs : s.memOk) (k base n e8) {r} (hr : taskScales k base n e8 s = .ok r) : r.1.memOk := by
  unfold taskScales at hr
  split at hr
  · cases hr
    exact hs
  split at hr
  · cases hr
  · next h =>
    cases hr
    have h1 := rowsBits_memOk hs _ _ _ _ _ h
    exact h1

theorem taskScales_failOk {s : State} (hs : s.memOk) (k base n e8) {e} (hr : taskScales k base n e8 s = .error e) : FailOk e := by
  unfold taskScales at hr
  split at hr
  · cases hr
  split at hr
  · cases hr
    exact rowsBits_failOk hs _ _ _ _ _ ‹_›
  · cases hr

theorem rowsBits_ite_memOk {s : State} (hs : s.memOk) {p : Prop} [Decidable p] {w va ld bytes n r}
    (hr : (if p then rowsBits w va ld bytes n s else .ok (s, [])) = .ok r) : r.1.memOk := by
  split at hr
  · exact rowsBits_memOk hs _ _ _ _ _ hr
  · cases hr
    exact hs

theorem rowsBits_ite_failOk {s : State} (hs : s.memOk) {p : Prop} [Decidable p] {w va ld bytes n e}
    (hr : (if p then rowsBits w va ld bytes n s else .ok (s, [])) = .error e) : FailOk e := by
  split at hr
  · exact rowsBits_failOk hs _ _ _ _ _ hr
  · cases hr

theorem taskCompute_memOk {s : State} (hs : s.memOk) (k) {r} (hr : taskCompute k s = .ok r) : r.1.memOk := by
  unfold taskCompute at hr
  extract_lets at hr
  split at hr
  · cases hr
  next s1 _ h1 =>
  have h1 : s1.memOk := rowsBits_memOk hs _ _ _ _ _ h1
  split at hr
  · cases hr
  next s2 _ h2 =>
  have h2 : s2.memOk := rowsBits_memOk h1 _ _ _ _ _ h2
  split at hr
  · cases hr
  next s3 _ h3 =>
  have h3 : s3.memOk := rowsBits_ite_memOk h2 h3
  split at hr
  · cases hr
  next s4 _ h4 =>
  have h4 : s4.memOk := taskScales_memOk h3 _ _ _ _ h4
  split at hr
  · cases hr
  next s5 _ h5 =>
  cases hr
  have h5 : s5.memOk := taskScales_memOk h4 _ _ _ _ h5
  exact h5

theorem taskCompute_failOk {s : State} (hs : s.memOk) (k) {e} (hr : taskCompute k s = .error e) : FailOk e := by
  unfold taskCompute at hr
  extract_lets at hr
  split at hr
  · cases hr
    exact rowsBits_failOk hs _ _ _ _ _ ‹_›
  next s1 _ h1 =>
  have h1 : s1.memOk := rowsBits_memOk hs _ _ _ _ _ h1
  split at hr
  · cases hr
    exact rowsBits_failOk h1 _ _ _ _ _ ‹_›
  next s2 _ h2 =>
  have h2 : s2.memOk := rowsBits_memOk h1 _ _ _ _ _ h2
  split at hr
  · next h =>
    cases hr
    exact rowsBits_ite_failOk h2 h
  next s3 _ h3 =>
  have h3 : s3.memOk := rowsBits_ite_memOk h2 h3
  split at hr
  · cases hr
    exact taskScales_failOk h3 _ _ _ _ ‹_›
  next s4 _ h4 =>
  have h4 : s4.memOk := taskScales_memOk h3 _ _ _ _ h4
  split at hr
  · cases hr
    exact taskScales_failOk h4 _ _ _ _ ‹_›
  · cases hr

theorem taskWrite_memOk {s : State} (hs : s.memOk) (k el e) {t} (hr : taskWrite k el e s = .ok t) : t.memOk := by
  unfold taskWrite at hr
  extract_lets i n w at hr
  exact cmdWr_memOk hs _ _ _ _ _ _ hr

theorem taskWrite_failOk {s : State} (hs : s.memOk) (k el e) {err} (hr : taskWrite k el e s = .error err) : FailOk err := by
  unfold taskWrite at hr
  extract_lets i n w at hr
  exact cmdWr_failOk hs _ _ _ _ _ _ hr

theorem execTaskEnd_memOk {s : State} (hs : s.memOk) (j) : OutOk (execTaskEnd j s) := by
  unfold execTaskEnd
  split
  · exact outOk_next hs
  next k _ =>
  extract_lets s0 n
  have h0 : s0.memOk := setR_memOk hs _
  split
  · next h => exact outOk_next (latchTasks_memOk (endTask_memOk (countFail_memOk (getD_memOk (taskCompute_failOk h0 _ h) h0) _ _)
        _ _ _))
  · next s1 _ h =>
    have h1 : s1.memOk := taskCompute_memOk h0 _ h
    have h2 el := workGo_memOk (fun i t u ht => taskWrite_memOk ht k el i)
        (fun i t e ht => taskWrite_failOk ht k el i) h1 (tkM k.r * tkN k.r) 0
    exact outOk_next (latchTasks_memOk (endTask_memOk (countFail_memOk (h2 _) _ _) _ _ _))

/-! ### What the functions of Machine/Release.lean keep -/

theorem gtRefuse_stopOk {t : State} (code) : StopOk (gtRefuse t code) := by
  unfold gtRefuse
  exact illegal_stopOk _ _

theorem gtAnswer_memOk {t : State} (ht : t.memOk) (i sb x) : (gtAnswer t i sb x).memOk := by
  unfold gtAnswer
  exact push_memOk ht _ _ _

theorem plainWord_memOk {t : State} (ht : t.memOk) : (plainWord t).memOk := by
  unfold plainWord
  refine foldl_memOk (fun t4 x5 h6 => ?_) ?_ _
  · exact push_memOk h6 _ _ _
  · exact ht

theorem execGtLset_memOk {s : State} (hs : s.memOk) (q sb) : OutOk (execGtLset q sb s) := by
  unfold execGtLset
  extract_lets i
  refine tile_memOk hs (fun t3 h4 => ?_) _ _
  extract_lets x k part p new
  exact actOk_ite (actOk_error (gtRefuse_stopOk _)) (actOk_ite (actOk_ok (gtAnswer_memOk h4 _ _ _))
      (actOk_ok (gtAnswer_memOk (ite_memOk h4 (setPart_memOk h4 _ _)) _ _ _)))

theorem execGtParty_memOk {s : State} (hs : s.memOk) (q aa sb) : OutOk (execGtParty q aa sb s) := by
  unfold execGtParty
  extract_lets i
  refine tile_memOk hs (fun t3 h4 => ?_) _ _
  extract_lets x va part
  refine actOk_ite (actOk_error (gtRefuse_stopOk _)) ?_
  refine actOk_ite (actOk_error (accStop_stopOk _ _ _ _ _)) ?_
  split
  · exact actOk_error (accStop_stopOk _ _ _ _ _)
  rename_i e9
  extract_lets p new reserved
  refine actOk_ite (actOk_ok (readBytes_memOk h4 _ _ _ _ e9)) ?_
  split
  · exact actOk_ok (readBytes_memOk h4 _ _ _ _ e9)
  · exact actOk_ite (actOk_ok (readBytes_memOk h4 _ _ _ _ e9)) (actOk_ok (readBytes_memOk h4 _ _ _ _ e9))

theorem setPolicy_memOk {s : State} (hs : s.memOk) (part k p) : (setPolicy s part k p).memOk := by
  unfold setPolicy
  exact setPart_memOk hs _ _

theorem endInstall_memOk {s : State} (hs : s.memOk) (c p) : (endInstall s c p).memOk := by
  unfold endInstall
  extract_lets k
  split
  · exact ite_memOk (setPolicy_memOk hs _ _ _) hs
  · exact hs

theorem runInstall_memOk {s : State} (hs : s.memOk) (c) : (runInstall s c).state.memOk := by
  unfold runInstall
  extract_lets va fail
  have hfail {u : State} (hu : u.memOk) (f) : (fail u f).state.memOk := endInstall_memOk hu _ _
  split
  · exact hfail hs _
  next s1 hd _ h1 =>
  have h1 : s1.memOk := cmdRd_memOk hs _ _ _ _ h1
  extract_lets n
  split
  · exact hfail h1 _
  next s2 img _ h2 =>
  have h2 : s2.memOk := cmdRd_memOk h1 _ _ _ _ h2
  extract_lets pad res
  split
  · exact hfail h2 _
  · next h3 => exact endInstall_memOk (cmdWr_memOk h2 _ _ _ _ _ _ h3) _ _

theorem applyDest_failOk {t : State} (ht : t.memOk) (w p da x y) {e} (hr : applyDest t w p da x y = .error e) : FailOk e := by
  induction x generalizing y with
  | zero => cases hr
  | succ k ih =>
    unfold applyDest at hr
    extract_lets at hr
    split at hr
    · cases hr
      exact cmdFail_failOk ht _ _ _ _ _
    split at hr
    · cases hr
    · exact ih _ hr

theorem applyPage_failOk {t : State} (ht : t.memOk) (w p da x y) {e} (hr : applyPage t w p da x y = some e) : FailOk e := by
  induction x generalizing y with
  | zero => cases hr
  | succ k ih =>
    unfold applyPage at hr
    extract_lets at hr
    split at hr
    · cases hr
      exact cmdFail_failOk ht _ _ _ _ _
    split at hr
    · cases hr
      exact cmdFail_failOk ht _ _ _ _ _
    · exact ih _ hr

theorem applyLine_memOk {s : State} (hs : s.memOk) (c out j) {t} (hr : applyLine c out j s = .ok t) : t.memOk := by
  unfold applyLine at hr
  extract_lets va v at hr
  split at hr
  · cases hr
  next s1 x h =>
  have h1 : s1.memOk := translateMark_memOk hs _ _ _ _ _ _ h
  split at hr
  · exact writeAt_memOk h1 _ _ _ _ _ _ _ _ (mapError_eq_ok.1 hr)
  split at hr
  · cases hr
  split at hr
  · cases hr
    exact leavesTo_memOk h1 _ _ _ _ _ _ _ ‹_›
  · cases hr

theorem applyLine_failOk {s : State} (c out j) {e} (hr : applyLine c out j s = .error e) : FailOk e := by
  unfold applyLine at hr
  extract_lets va v at hr
  split at hr
  · cases hr
    exact cfailOf_failOk _ _
  split at hr
  · obtain ⟨e', -, rfl⟩ := mapError_eq_error.1 hr
    exact cfailOf_failOk _ _
  split at hr
  · cases hr
    exact cfailOf_failOk _ _
  split at hr
  · cases hr
  · cases hr
    exact cfailOf_failOk _ _

theorem runApply_memOk {s : State} (hs : s.memOk) (c) : (runApply s c).state.memOk := by
  unfold runApply
  extract_lets v pa src
  split
  · exact hs
  split
  rename_i e1
  have h2 := memOk_of_eq e1 (workGo_memOk (fun _ _ _ h6 e7 => applyLine_memOk h6 _ _ _ e7)
      (fun _ _ _ h11 e12 => applyLine_failOk _ _ _ e12) hs _ _)
  exact ite_memOk hs h2

theorem applyWord_memOk {t : State} (ht : t.memOk) (i0 i p x aa sb) : ActOk (applyWord i0 i p x aa sb t) := by
  unfold applyWord
  extract_lets va da ra n m c0 issue failed
  have hissue {u : State} (hu : u.memOk) (geo addr) : ActOk (issue u geo addr) := by
    have h := issueCmd_memOk hu { c0 with geo := geo, xa := BitVec.ofNat 72 addr }
    unfold issue
    split
    · next he => exact actOk_error (h.2 _ he)
    · next hv => exact actOk_ok (gtAnswer_memOk (h.1 _ hv) _ _ _)
  have hfailed {u : State} (hu : u.memOk) (f) : ActOk (failed u f) := hissue (countFail_memOk hu _ _) _ _
  clear_value issue failed c0
  refine actOk_ite (actOk_error (copyStop_stopOk _ _)) ?_
  split
  · exact hfailed ht _
  next t1 _ _ hrd =>
  have h1 : t1.memOk := cmdRd_memOk ht _ _ _ _ hrd
  split
  · exact hfailed h1 _
  next t2 _ _ hrec =>
  have h2 : t2.memOk := by
    split at hrec
    · exact cmdRd_memOk h1 _ _ _ _ hrec
    · cases hrec
      exact h1
  extract_lets l refuse
  have hrefuse {u : State} (hu : u.memOk) (r) : ActOk (refuse u r) := hfailed (countRefusal_memOk hu _ _) _
  split
  · exact hrefuse h2 _
  split
  · exact hfailed h2 _
  · exact hrefuse (markSpan_memOk h2 _ _ _ _) _
  split
  · exact hfailed h2 _
  · exact hissue h2 _ _

theorem releaseWord.install_memOk {t : State} (ht : t.memOk) (aa sb i part k x) :
    ActOk (releaseWord.install aa sb t i part k x) := by
  unfold releaseWord.install
  refine actOk_ite (actOk_error (copyStop_stopOk _ _)) ?_
  split
  · rename_i e1
    have h2 := (issueCmd_memOk ht _).2 _ e1
    exact actOk_error h2
  rename_i e3
  have h4 := (issueCmd_memOk ht _).1 _ e3
  exact actOk_ok (gtAnswer_memOk (setPolicy_memOk h4 _ _ _) _ _ _)

theorem releaseWord_memOk {s : State} (hs : s.memOk) (i0 aa sb) : OutOk (releaseWord i0 aa sb s) := by
  unfold releaseWord
  extract_lets x op k i
  refine tile_memOk hs (fun t3 h4 => ?_) _ _
  extract_lets part slot stale src
  refine actOk_ite (actOk_error (gtRefuse_stopOk _)) ?_
  refine actOk_ite (actOk_error (gtRefuse_stopOk _)) ?_
  refine actOk_ite ?_ ?_
  · clear_value slot
    split
    · exact actOk_ite (actOk_ok (plainWord_memOk (gtAnswer_memOk h4 _ _ _))) (releaseWord.install_memOk h4 _ _ _ _ _ _)
    · exact releaseWord.install_memOk h4 _ _ _ _ _ _
  refine actOk_ite ?_ ?_
  · clear_value slot
    split
    · exact actOk_ok (plainWord_memOk (gtAnswer_memOk h4 _ _ _))
    · exact actOk_ok (plainWord_memOk (gtAnswer_memOk (setPart_memOk h4 _ _) _ _ _))
  refine actOk_ite (actOk_error (gtRefuse_stopOk _)) ?_
  clear_value slot
  split
  · exact actOk_ite (applyWord_memOk h4 _ _ _ _ _ _) (actOk_ok (plainWord_memOk (gtAnswer_memOk h4 _ _ _)))
  · exact actOk_ok (plainWord_memOk (gtAnswer_memOk h4 _ _ _))

theorem execGtReleaseInstall_memOk {s : State} (hs : s.memOk) (q aa sb) : OutOk (execGtReleaseInstall q aa sb s) := by
  unfold execGtReleaseInstall
  exact releaseWord_memOk hs _ _ _

theorem execGtReleaseRevoke_memOk {s : State} (hs : s.memOk) (q aa sb) : OutOk (execGtReleaseRevoke q aa sb s) := by
  unfold execGtReleaseRevoke
  exact releaseWord_memOk hs _ _ _

theorem execGtReleaseApply_memOk {s : State} (hs : s.memOk) (q aa sb) : OutOk (execGtReleaseApply q aa sb s) := by
  unfold execGtReleaseApply
  exact releaseWord_memOk hs _ _ _

/-! ### What the functions of Machine/Partition.lean keep -/

theorem ptRefuse_stopOk {t : State} (code) : StopOk (ptRefuse t code) := by
  unfold ptRefuse
  exact illegal_stopOk _ _

theorem ptAnswer_memOk {t : State} (ht : t.memOk) (i sb x) : (ptAnswer t i sb x).memOk := by
  unfold ptAnswer
  exact push_memOk ht _ _ _

theorem ptRead_memOk {t : State} (ht : t.memOk) (va n) {r} (hr : ptRead t va n = .ok r) : r.1.memOk := by
  unfold ptRead at hr
  split at hr
  · cases hr
  rename_i e3
  cases hr
  exact readBytes_memOk ht _ _ _ _ e3

theorem ptRead_stopOk {t : State} (va n) {e} (hr : ptRead t va n = .error e) : StopOk e := by
  unfold ptRead at hr
  split at hr
  · cases hr
    exact accStop_stopOk _ _ _ _ _
  cases hr

theorem quiesce_memOk {s : State} (hs : s.memOk) (p) : (quiesce s p).memOk := by
  unfold quiesce
  exact quiesceCheck_memOk (foldl_memOk (fun _ _ h3 => updCore_memOk h3 _ _) (setPart_memOk hs _ _) _) _

theorem quiesceWord_memOk {s : State} (hs : s.memOk) (i sb) : OutOk (quiesceWord i sb s) := by
  unfold quiesceWord
  refine tile_memOk hs (fun t3 h4 => ?_) _ _
  extract_lets x p op st answer src
  refine actOk_ite (actOk_error (ptRefuse_stopOk _)) ?_
  refine actOk_ite (actOk_ok (ptAnswer_memOk h4 _ _ _)) ?_
  exact actOk_ite (actOk_ok (ptAnswer_memOk h4 _ _ _)) (actOk_ite (actOk_ite (actOk_ok (ptAnswer_memOk h4 _ _ _))
      (actOk_ite (actOk_ok (ptAnswer_memOk (quiesce_memOk h4 _) _ _ _)) (actOk_ok (ptAnswer_memOk h4 _ _ _))))
      (actOk_ok (ptAnswer_memOk (setPart_memOk h4 _ _) _ _ _)))

theorem execPtQuiesce_memOk {s : State} (hs : s.memOk) (q sb) : OutOk (execPtQuiesce q sb s) := by
  unfold execPtQuiesce
  exact quiesceWord_memOk hs _ _

theorem execPtResume_memOk {s : State} (hs : s.memOk) (q sb) : OutOk (execPtResume q sb s) := by
  unfold execPtResume
  exact quiesceWord_memOk hs _ _

theorem execPtStateRead_memOk {s : State} (hs : s.memOk) (q sb) : OutOk (execPtStateRead q sb s) := by
  unfold execPtStateRead
  exact quiesceWord_memOk hs _ _

theorem scrubLater_memOk {s : State} (hs : s.memOk) (pa n) : (scrubLater s pa n).memOk := by
  unfold scrubLater
  exact ite_memOk hs hs

theorem clearLabels_memOk {s : State} (hs : s.memOk) (pa n) : (clearLabels s pa n).memOk := by
  unfold clearLabels
  split
  · exact hs
  · exact hs

theorem scrubSet_memOk {s : State} (hs : s.memOk) (t) : (scrubSet s t).memOk := by
  unfold scrubSet
  exact ite_memOk hs (clearLabels_memOk (scrubLater_memOk (foldl_memOk (fun _ _ h3 => ite_memOk (scrubKeys_memOk h3 _ _) h3) hs
      _) _ _) _ _)

theorem scrubRange_memOk {s : State} (hs : s.memOk) (pa n) : (scrubRange s pa n).memOk := by
  unfold scrubRange
  exact ite_memOk hs (clearLabels_memOk (scrubLater_memOk (scrubKeys_memOk hs _ _) _ _) _ _)

theorem scrubDdr_memOk {s : State} (hs : s.memOk) (b n b' n') : (scrubDdr s b n b' n').memOk := by
  unfold scrubDdr
  exact ite_memOk (scrubRange_memOk hs _ _) (scrubRange_memOk (scrubRange_memOk hs _ _) _ _)

theorem execScrubLine_memOk {s : State} (hs : s.memOk) : OutOk (execScrubLine s) := by
  unfold execScrubLine
  refine outOk_next ?_
  split
  · exact hs
  · exact hs

theorem readyToRings_memOk {s : State} (hs : s.memOk) (p) : (readyToRings s p).memOk := by
  refine foldl_memOk (fun t e h => getD_memOk (fun _ => ringAppend_memOk h _ _ _ _ _) h) ?_ _
  exact hs

theorem freeSlotsOf_memOk {s : State} (hs : s.memOk) (p mine) : (freeSlotsOf s p mine).memOk := by
  unfold freeSlotsOf
  refine foldl_memOk (fun t4 x5 h6 => ?_) hs _
  extract_lets a r t1
  have ht1 : t1.memOk := ite_memOk (stageSub_memOk h6 _ _ _) h6
  exact engWr_memOk (writeRecord_memOk ht1 _ _ _) _ _ _ _

theorem applyPart_memOk {s : State} (hs : s.memOk) (g e) : (applyPart g s e).memOk := by
  unfold applyPart
  dsimp only
  split
  · split
    · exact hs
    · refine setPart_memOk ?_ _ _
      refine scrubDdr_memOk ?_ _ _ _ _
      split
      · exact scrubSet_memOk (scrubSet_memOk hs _) _
      · exact scrubSet_memOk hs _
  · refine setPart_memOk ?_ _ _
    have h1 {q : Prop} [Decidable q] (a) : State.memOk (if q then scrubSet s a else s) := ite_memOk (scrubSet_memOk hs _) hs
    exact ite_memOk (scrubDdr_memOk (h1 _) _ _ _ _) (h1 _)

theorem zeroTables_memOk {s : State} {t : State} (ht : t.memOk) (g) : (zeroTables g s t).memOk := by
  unfold zeroTables
  refine foldl_memOk (fun t4 x5 h6 => ?_) ht _
  split
  · exact foldl_memOk (fun _ _ h12 => fwdPut_memOk h12 _ _ _) h6 _
  · exact h6

theorem applyLayout_memOk {s : State} (hs : s.memOk) (g) : (applyLayout s g).memOk := by
  unfold applyLayout
  extract_lets s1 s2 s3 moved clear
  have hs1 : s1.memOk := by
    unfold s1
    refine foldl_memOk (fun t7 x8 h9 => ?_) hs _
    extract_lets u
    have hu : u.memOk := readyToRings_memOk h9 _
    exact ite_memOk hu (freeSlotsOf_memOk hu _ _)
  have hs2 : s2.memOk := zeroTables_memOk (foldl_memOk (fun _ _ h15 => applyPart_memOk h15 _ _) hs1 _) _
  exact hs2

theorem layoutRead_memOk {t : State} (ht : t.memOk) (va x y) {r} (hr : layoutRead t va x y = .ok r) : r.1.memOk := by
  fun_induction layoutRead t va x y generalizing r
  · cases hr
    exact ht
  · cases hr
  · rename_i e4 ih5
    have h6 := ptRead_memOk ht _ _ e4
    exact ih5 h6 hr

theorem layoutRead_stopOk {t : State} (ht : t.memOk) (va x y) {e} (hr : layoutRead t va x y = .error e) : StopOk e := by
  fun_induction layoutRead t va x y generalizing e
  · cases hr
  · rename_i e1
    have h3 := ptRead_stopOk _ _ e1
    cases hr
    exact h3
  · rename_i e4 ih5
    have h6 := ptRead_memOk ht _ _ e4
    exact ih5 h6 hr

theorem execPtLayout_memOk {s : State} (hs : s.memOk) (q aa sb) : OutOk (execPtLayout q aa sb s) := by
  unfold execPtLayout
  extract_lets i
  refine tile_memOk hs (fun t ht => ?_) _ _
  extract_lets va
  refine actOk_ite (actOk_error (ptRefuse_stopOk _)) ?_
  refine actOk_ite (actOk_error (accStop_stopOk _ _ _ _ _)) ?_
  split
  · exact actOk_error (ptRead_stopOk _ _ ‹_›)
  next t0 _ hrd =>
  have h0 : t0.memOk := ptRead_memOk ht _ _ hrd
  split
  · exact actOk_error (layoutRead_stopOk h0 _ _ _ ‹_›)
  next t1 _ hread =>
  have h1 : t1.memOk := layoutRead_memOk h0 _ _ _ hread
  extract_lets g
  split
  · exact actOk_error (ptRefuse_stopOk _)
  refine unhurt_actOk ?_ _
  split
  · exact actOk_ok (ptAnswer_memOk h1 _ _ _)
  · exact actOk_ok (ptAnswer_memOk (applyLayout_memOk h1 _) _ _ _)

theorem scrubResident_memOk {s : State} (hs : s.memOk) (t frames) : (scrubResident t s frames).memOk := by
  unfold scrubResident
  exact foldl_memOk (fun _ _ h3 => foldl_memOk (fun _ _ h6 => scrubKeys_memOk h6 _ _)
      (scrubLater_memOk (clearLabels_memOk h3 _ _) _ _) _) hs _

theorem retireSet_memOk {s : State} (hs : s.memOk) (p) : (retireSet s p).memOk := by
  unfold retireSet
  extract_lets x
  split
  · exact hs
  · exact setPart_memOk (scrubResident_memOk hs _ _) _ _

theorem moveWord_memOk {s : State} (hs : s.memOk) (i0 aa sb) : OutOk (moveWord i0 aa sb s) := by
  unfold moveWord
  extract_lets x op i n p
  refine tile_memOk hs (fun t ht => ?_) _ _
  extract_lets
  have hplain {u : State} (hu : u.memOk) (v : Nat) : ActOk (.ok (plainWord (ptAnswer u i0 sb v)))
      := actOk_ok (plainWord_memOk (ptAnswer_memOk hu _ _ _))
  refine actOk_ite (actOk_error (ptRefuse_stopOk _)) ?_
  refine actOk_ite (unhurt_actOk (actOk_ite (hplain ht _) (hplain (retireSet_memOk ht _) _)) _) ?_
  split
  · exact actOk_error (ptRefuse_stopOk _)
  refine actOk_ite (actOk_error (ptRefuse_stopOk _)) ?_
  refine actOk_ite (actOk_error (accStop_stopOk _ _ _ _ _)) ?_
  refine actOk_ite (actOk_error (accStop_stopOk _ _ _ _ _)) ?_
  refine unhurt_actOk ?_ _
  refine actOk_ite (hplain ht _) ?_
  have hissue := issueCmd_memOk ht
  split
  · next h => exact actOk_error ((hissue _).2 _ h)
  · next h => exact actOk_ok (ptAnswer_memOk ((hissue _).1 _ h) _ _ _)

theorem execPtMove_memOk {s : State} (hs : s.memOk) (q aa sb) : OutOk (execPtMove q aa sb s) := by
  unfold execPtMove
  exact moveWord_memOk hs _ _ _

theorem execPtRetire_memOk {s : State} (hs : s.memOk) (q aa sb) : OutOk (execPtRetire q aa sb s) := by
  unfold execPtRetire
  exact moveWord_memOk hs _ _ _

theorem moveFrame_memOk {s : State} (hs : s.memOk) (p old new) : (moveFrame s p old new).memOk := by
  unfold moveFrame
  extract_lets x keyOf bad s1 s2 s3
  have hs1 : s1.memOk := snoop_memOk (snoop_memOk hs _ _ _) _ _ _
  have hs3 : s3.memOk := by
    unfold s3
    refine writePa_memOk ?_ _ _ _
    refine raiseFrame_memOk ?_ _ _
    exact hs1
  split
  · exact hs
  · exact ite_memOk hs (fwdPut_memOk hs3 _ _ _)

theorem execFrameMove_memOk {s : State} (hs : s.memOk) : OutOk (execFrameMove s) := by
  unfold execFrameMove
  split
  · exact outOk_next hs
  split
  · exact outOk_next hs
  extract_lets n j s1 rest src
  have hs1 : s1.memOk := moveFrame_memOk hs _ _ _
  refine outOk_ite (outOk_next hs1) ?_
  refine outOk_next ?_
  refine endCmd_memOk ?_ _ _ _
  exact hs1

theorem vfsetWord_memOk {s : State} (hs : s.memOk) (i aa sb) : OutOk (vfsetWord i aa sb s) := by
  unfold vfsetWord
  refine tile_memOk hs (fun t ht => ?_) _ _
  extract_lets
  refine actOk_ite (actOk_error (ptRefuse_stopOk _)) ?_
  refine actOk_ite (actOk_error (ptRefuse_stopOk _)) ?_
  refine actOk_ite ?_ ?_
  · split
    · exact actOk_ok (ptAnswer_memOk ht _ _ _)
    · exact unhurt_actOk (actOk_ite (actOk_ok (ptAnswer_memOk ht _ _ _)) (actOk_ok (ptAnswer_memOk (setVf_memOk ht _ _) _ _ _))) _
  refine actOk_ite (actOk_error (accStop_stopOk _ _ _ _ _)) ?_
  split
  · exact actOk_error (ptRead_stopOk _ _ ‹_›)
  next t1 _ hrd =>
  have h1 : t1.memOk := ptRead_memOk ht _ _ hrd
  refine actOk_ite (actOk_error (ptRefuse_stopOk _)) ?_
  exact actOk_ite (actOk_ok (ptAnswer_memOk h1 _ _ _)) (actOk_ok (ptAnswer_memOk (setVf_memOk h1 _ _) _ _ _))

theorem execPtVfsetAssign_memOk {s : State} (hs : s.memOk) (q aa sb) : OutOk (execPtVfsetAssign q aa sb s) := by
  unfold execPtVfsetAssign
  exact vfsetWord_memOk hs _ _ _

theorem execPtVfsetRelease_memOk {s : State} (hs : s.memOk) (q aa sb) : OutOk (execPtVfsetRelease q aa sb s) := by
  unfold execPtVfsetRelease
  exact vfsetWord_memOk hs _ _ _

theorem execPtWays_memOk {s : State} (hs : s.memOk) (q sb) : OutOk (execPtWays q sb s) := by
  unfold execPtWays
  extract_lets i
  refine tile_memOk hs (fun t3 h4 => ?_) _ _
  extract_lets x vf e
  exact actOk_ite (actOk_error (ptRefuse_stopOk _)) (actOk_ite (actOk_error (privileged_stopOk _))
      (actOk_ok (ptAnswer_memOk (ite_memOk (setVf_memOk h4 _ _) h4) _ _ _)))

/-- Its callees stand as variables with what they keep: the kernel would otherwise run them to compare two forms of the term. -/
theorem abortCore_memOk {s : State} (hs : s.memOk) (vf n) : (abortCore vf s n).memOk := by
  have hsusp := @suspendQuiet_memOk
  generalize hf : abortCore = f
  delta abortCore at hf
  generalize suspendQuiet = susp at hf hsusp
  revert susp
  refine id ?_
  rintro susp rfl hsusp
  grind [foldl_memOk, postRecord_memOk, focus_mem]

theorem flrStages_memOk {s : State} (hs : s.memOk) (vf p) : (flrStages vf p s).memOk := by
  unfold flrStages
  extract_lets s1
  have hs1 : s1.memOk := foldl_memOk (fun _ _ h3 => stageWr_memOk h3 _ _ _ _ _ _) hs _
  exact freeSlotsOf_memOk hs1 _ _

theorem killTask_memOk {s : State} (hs : s.memOk) (k) : (killTask s k).memOk := by
  unfold killTask
  exact Task.put_memOk (ctxTask_memOk hs _ _ _) _ _ _ _

theorem flrEngines_memOk {s : State} (hs : s.memOk) (vf) : (flrEngines vf s).memOk := by
  unfold flrEngines
  extract_lets mine rest s1 s2
  have hs1 : s1.memOk := by
    unfold s1
    refine foldl_memOk (fun t7 x8 h9 => ?_) ?_ _
    · exact killTask_memOk h9 _
    · exact hs
  have hs2 : s2.memOk := foldl_memOk (fun _ _ h15 => abortMail_memOk h15 _ _) hs1 _
  exact foldl_memOk (fun _ _ h18 => stopEpisode_memOk h18 _ _) hs2 _

theorem flr_memOk {s : State} (hs : s.memOk) (vf p) : (flr vf p s).memOk := by
  unfold flr
  extract_lets me s1 s2
  have hs1 : s1.memOk := focus_memOk (foldl_memOk (fun _ _ h3 => abortCore_memOk h3 _ _) hs _) _
  have hs2 : s2.memOk := flrEngines_memOk (flrStages_memOk hs1 _ _) _
  exact foldl_memOk (fun _ _ h6 => mediaStop_memOk h6 _) hs2 _

theorem execPtFlr_memOk {s : State} (hs : s.memOk) (q sb) : OutOk (execPtFlr q sb s) := by
  unfold execPtFlr
  extract_lets i
  refine tile_memOk hs (fun t ht => ?_) _ _
  extract_lets
  refine actOk_ite (actOk_error (ptRefuse_stopOk _)) ?_
  split
  · exact actOk_ok (ptAnswer_memOk ht _ _ _)
  refine unhurt_actOk ?_ _
  have h1 := flr_memOk ht
  exact actOk_ite (actOk_ok (setMark_memOk (h1 _ _) _)) (actOk_ok (ptAnswer_memOk (h1 _ _) _ _ _))

/-! ### What the functions of Machine/HostPort.lean keep -/

theorem unsupported_memOk {s : State} (hs : s.memOk) (port) : (unsupported s port).memOk := by
  unfold unsupported
  exact reply_memOk hs _ _ _ _ _

theorem aborted_memOk {s : State} (hs : s.memOk) (port) : (aborted s port).memOk := by
  unfold aborted
  exact reply_memOk hs _ _ _ _ _

theorem hostRefuses_memOk {s : State} (hs : s.memOk) (port) : (hostRefuses s port).memOk := by
  unfold hostRefuses
  exact ite_memOk (aborted_memOk hs _) (unsupported_memOk hs _)

theorem hostRead_memOk {s : State} (hs : s.memOk) (port vf part x y z) {r} (hr : hostRead s port vf part x y z = .ok r) :
    r.1.memOk := by
  induction x generalizing s y z r with
  | zero =>
    cases hr
    exact hs
  | succ k ih =>
    unfold hostRead at hr
    extract_lets at hr
    split at hr
    · cases hr
    next s1 _ h =>
    have h1 : s1.memOk := translateMark_memOk hs _ _ _ _ _ _ h
    split at hr
    · cases hr
    next s2 _ _ h =>
    have h2 : s2.memOk := readAt_memOk h1 _ _ _ _ _ h
    split at hr
    · cases hr
    next s3 _ _ h =>
    cases hr
    have h3 : s3.memOk := ih h2 _ _ h
    exact h3

theorem hostRead_errOk {s : State} (hs : s.memOk) (port vf part x y z) {e} (hr : hostRead s port vf part x y z = .error e) :
    e.memOk := by
  fun_induction hostRead s port vf part x y z generalizing e
  · cases hr
  · cases hr
    exact hs
  · rename_i e3 _ e4
    have h5 := translateMark_memOk hs _ _ _ _ _ _ e3
    cases hr
    exact h5
  · rename_i e7 _ _ _ e8 _ e9 ih10
    have h11 := translateMark_memOk hs _ _ _ _ _ _ e7
    have h12 := readAt_memOk h11 _ _ _ _ _ e8
    have h13 := ih10 h12 e9
    cases hr
    exact h13
  · cases hr

theorem answerRead_memOk {s : State} (hs : s.memOk) (port part n v l) : (answerRead s port part n v l).memOk := by
  unfold answerRead
  split
  · exact reply_memOk hs _ _ _ _ _
  · exact aborted_memOk (countRefusal_memOk hs _ _) _

theorem msiMask_memOk {s : State} (hs : s.memOk) (port v masked) : (msiMask s port v masked).memOk := by
  unfold msiMask
  extract_lets d s1
  refine ite_memOk hs ?_
  refine ite_memOk ?_ hs
  refine msiSet_memOk ?_ _ _
  exact hs

theorem msiPut_memOk {s : State} (hs : s.memOk) (port v b x) : (msiPut s port v b x).memOk := by
  unfold msiPut
  extract_lets src s1
  refine ite_memOk ?_ hs
  refine msiMask_memOk ?_ _ _ _
  exact hs

theorem configRead_memOk {s : State} (hs : s.memOk) (port n) : (configRead s port n).memOk := by
  unfold configRead
  refine ite_memOk (reply_memOk hs _ _ _ _ _) ?_
  refine reply_memOk ?_ _ _ _ _ _
  exact hs

theorem execHostMemoryRead_memOk {s : State} (hs : s.memOk) (port off n) : OutOk (execHostMemoryRead port off n s) := by
  unfold execHostMemoryRead
  extract_lets o
  refine outOk_next ?_
  split
  · refine ite_memOk (hostRefuses_memOk hs _) ?_
    split
    · exact unsupported_memOk hs _
    refine ite_memOk (unsupported_memOk hs _) ?_
    split
    · exact aborted_memOk (hostRead_errOk hs _ _ _ _ _ _ ‹_›) _
    · next t _ _ h =>
      have ht : t.memOk := hostRead_memOk hs _ _ _ _ _ _ h
      exact answerRead_memOk ht _ _ _ _ _
  · refine ite_memOk (hostRefuses_memOk hs _) ?_
    refine ite_memOk (unsupported_memOk hs _) ?_
    split
    · next t _ h =>
      have ht : t.memOk := devRead_memOk hs _ h
      exact reply_memOk ht _ _ _ _ _
    · exact unsupported_memOk hs _
  · refine ite_memOk (hostRefuses_memOk hs _) ?_
    refine ite_memOk (unsupported_memOk hs _) ?_
    exact ite_memOk (aborted_memOk hs _) (answerRead_memOk hs _ _ _ _ _)
  · refine ite_memOk (configRead_memOk hs _ _) ?_
    refine ite_memOk (hostRefuses_memOk hs _) ?_
    refine ite_memOk (reply_memOk (freeBytes_memOk hs _) _ _ _ _ _) ?_
    exact ite_memOk (reply_memOk hs _ _ _ _ _) (unsupported_memOk hs _)

theorem execHostMemoryWrite_memOk {s : State} (hs : s.memOk) (port off data) : OutOk (execHostMemoryWrite port off data s) := by
  unfold execHostMemoryWrite
  extract_lets o n
  refine outOk_next ?_
  split
  · split
    · exact hs
    · refine ite_memOk hs (getD_memOk (fun t h => ?_) (markSpan_memOk hs _ _ _ _))
      exact writeBytes_memOk hs _ _ _ _ _ _ (toOption_eq_some.1 h)
  · exact ite_memOk hs (getD_memOk (fun _ => devWriteBy_memOk hs _ _ _ _ _ _) hs)
  · exact ite_memOk hs (engWr_memOk hs _ _ _ _)
  · refine ite_memOk hs (foldl_memOk (fun t e ht => ?_) hs _)
    split
    · exact msiPut_memOk ht _ _ _ _
    · exact ht

theorem execHostAtomic_memOk {s : State} (hs : s.memOk) (port off op size x y) :
    OutOk (execHostAtomic port off op size x y s) := by
  unfold execHostAtomic
  extract_lets va vf
  refine outOk_next ?_
  split
  · exact unsupported_memOk hs _
  extract_lets w
  refine ite_memOk (unsupported_memOk hs _) ?_
  refine ite_memOk (hostRefuses_memOk hs _) ?_
  split
  · exact aborted_memOk hs _
  next s1 _ h =>
  have h1 : s1.memOk := translateMark_memOk hs _ _ _ _ _ _ h
  split
  · exact aborted_memOk h1 _
  next s2 _ _ h =>
  have h2 : s2.memOk := readAt_memOk h1 _ _ _ _ _ h
  extract_lets l
  split
  · exact aborted_memOk (countRefusal_memOk h2 _ _) _
  split
  · exact aborted_memOk h2 _
  · exact reply_memOk (writeAt_memOk h2 _ _ _ _ _ _ _ _ ‹_›) _ _ _ _ _

theorem spdmMeas_memOk {s : State} (hs : s.memOk) (port) : (spdmMeas port s).memOk := by
  unfold spdmMeas
  exact ite_memOk (reply_memOk hs _ _ _ _ _) (reply_memOk hs _ _ _ _ _)

theorem spdm_memOk {s : State} (hs : s.memOk) (port ok next) : (spdm port ok next s).memOk := by
  unfold spdm
  refine ite_memOk (reply_memOk ?_ _ _ _ _ _) (reply_memOk hs _ _ _ _ _)
  exact hs

theorem execSpdmGetVersion_memOk {s : State} (hs : s.memOk) (port) : OutOk (execSpdmGetVersion port s) := by
  unfold execSpdmGetVersion
  exact outOk_next (spdm_memOk hs _ _ _)

theorem execSpdmGetCapabilities_memOk {s : State} (hs : s.memOk) (port) : OutOk (execSpdmGetCapabilities port s) := by
  unfold execSpdmGetCapabilities
  exact outOk_next (spdm_memOk hs _ _ _)

theorem execSpdmNegotiateAlgorithms_memOk {s : State} (hs : s.memOk) (port) : OutOk (execSpdmNegotiateAlgorithms port s) := by
  unfold execSpdmNegotiateAlgorithms
  exact outOk_next (spdm_memOk hs _ _ _)

theorem execSpdmGetDigests_memOk {s : State} (hs : s.memOk) (port) : OutOk (execSpdmGetDigests port s) := by
  unfold execSpdmGetDigests
  exact outOk_next (spdm_memOk hs _ _ _)

theorem execSpdmGetCertificate_memOk {s : State} (hs : s.memOk) (port) : OutOk (execSpdmGetCertificate port s) := by
  unfold execSpdmGetCertificate
  exact outOk_next (spdm_memOk hs _ _ _)

theorem execSpdmChallenge_memOk {s : State} (hs : s.memOk) (port) : OutOk (execSpdmChallenge port s) := by
  unfold execSpdmChallenge
  exact outOk_next (spdm_memOk hs _ _ _)

theorem execSpdmGetMeasurements_memOk {s : State} (hs : s.memOk) (port) : OutOk (execSpdmGetMeasurements port s) := by
  unfold execSpdmGetMeasurements
  exact outOk_next (spdmMeas_memOk hs _)

theorem execSpdmKeyExchange_memOk {s : State} (hs : s.memOk) (port) : OutOk (execSpdmKeyExchange port s) := by
  unfold execSpdmKeyExchange
  exact outOk_next (spdm_memOk hs _ _ _)

theorem execSpdmFinish_memOk {s : State} (hs : s.memOk) (port) : OutOk (execSpdmFinish port s) := by
  unfold execSpdmFinish
  exact outOk_next (spdm_memOk hs _ _ _)

theorem execSpdmEndSession_memOk {s : State} (hs : s.memOk) (port) : OutOk (execSpdmEndSession port s) := by
  unfold execSpdmEndSession
  exact outOk_next (spdm_memOk hs _ _ _)

/-! ### What the functions of Machine/Mgmt.lean keep -/

theorem mbFinish_memOk {s : State} (hs : s.memOk) (result len resp) : (mbFinish s result len resp).memOk := by
  unfold mbFinish
  extract_lets d s1
  split
  · refine msiSet_memOk ?_ _ _
    exact hs
  · exact hs

theorem mbServe_memOk {f : State → State × ℕ × ℕ × ℕ} {s : State} (hf : ∀ t, t.memOk → (f t).1.memOk) (hs : s.memOk) (op len) :
    OutOk (mbServe op len f s) := by
  unfold mbServe
  extract_lets d
  exact outOk_ite (outOk_next hs) (outOk_ite (outOk_next (mbFinish_memOk hs _ _ _))
      (outOk_ite (outOk_next (mbFinish_memOk hs _ _ _)) (outOk_next (mbFinish_memOk (hf _ hs) _ _ _))))

theorem execMbVersion_memOk {s : State} (hs : s.memOk) : OutOk (execMbVersion s) := by
  unfold execMbVersion
  exact outOk_ite (outOk_next (mbFinish_memOk hs _ _ _)) (mbServe_memOk (fun _ h2 => h2) hs _ _)

theorem useFlash_memOk {s : State} (hs : s.memOk) : (useFlash s).1.memOk := by
  unfold useFlash
  exact hs

theorem execMbImageWrite_memOk {s : State} (hs : s.memOk) : OutOk (execMbImageWrite s) := by
  unfold execMbImageWrite
  refine mbServe_memOk (fun t3 h4 => ?_) hs _ _
  split
  rename_i e7
  have h8 := memOk_of_eq e7 (useFlash_memOk h4)
  extract_lets n src
  split
  · exact h8
  · exact h8

theorem execMbImageCommit_memOk {s : State} (hs : s.memOk) : OutOk (execMbImageCommit s) := by
  unfold execMbImageCommit
  refine mbServe_memOk (fun t3 h4 => ?_) hs _ _
  extract_lets img
  split
  · exact h4
  split
  rename_i e7
  have h8 := memOk_of_eq e7 (useFlash_memOk h4)
  split
  · exact h8
  · exact h8

theorem refuseTenants_memOk {s : State} (hs : s.memOk) : (refuseTenants s).memOk := by
  unfold refuseTenants
  exact hs

theorem wipe_memOk (s : State) : (wipe s).memOk := reset_memOk

theorem execMbLifeCycleTransition_memOk {s : State} (hs : s.memOk) : OutOk (execMbLifeCycleTransition s) := by
  unfold execMbLifeCycleTransition
  refine mbServe_memOk (fun t3 h4 => ?_) hs _ _
  split
  · exact h4
  split
  · exact refuseTenants_memOk (wipe_memOk _)
  · exact h4

theorem execMbThrottle_memOk {s : State} (hs : s.memOk) : OutOk (execMbThrottle s) := by
  unfold execMbThrottle
  refine mbServe_memOk (fun t3 h4 => ?_) hs _ _
  extract_lets x src
  split
  · exact h4
  · exact h4

theorem execMbLogDrain_memOk {s : State} (hs : s.memOk) : OutOk (execMbLogDrain s) := by
  unfold execMbLogDrain
  refine mbServe_memOk (fun t3 h4 => ?_) hs _ _
  extract_lets n k
  split
  · exact h4
  · exact h4

theorem execMcHeadWrite_memOk {s : State} (hs : s.memOk) (v) : OutOk (execMcHeadWrite v s) := by
  unfold execMcHeadWrite
  exact outOk_next (mcHeadWrite_memOk hs _)

theorem execMsiRaise_memOk {s : State} (hs : s.memOk) (port v lbl) : OutOk (execMsiRaise port v lbl s) := by
  unfold execMsiRaise
  exact outOk_next (msiRaiseReg_memOk hs _ _ _ _ _)

theorem execDeviceRegisterWrite_memOk {s : State} (hs : s.memOk) (off v) : OutOk (execDeviceRegisterWrite off v s) := by
  unfold execDeviceRegisterWrite
  exact outOk_next (ite_memOk (getD_memOk (fun _ e2 => devWrite_memOk hs _ _ _ _ _ e2) hs) hs)

theorem execColdReset_memOk {s : State} : OutOk (execColdReset s) := by
  unfold execColdReset
  refine outOk_next ?_
  extract_lets src src'
  have hsrc : src.memOk := reset_memOk
  exact hsrc

theorem bootUp_memOk {s : State} (hs : s.memOk) : (bootUp s).memOk := by
  unfold bootUp
  extract_lets s1 src s2 src' s3 src'' src'''
  have hs1 : s1.memOk := foldl_memOk (fun _ _ h3 => ite_memOk (writePa_memOk h3 _ _ _) h3) hs _
  have hs2 : s2.memOk := setVf_memOk hs1 _ _
  have hs3 : s3.memOk := setPart_memOk hs2 _ _
  exact hs3

theorem execBoot_memOk {s : State} (hs : s.memOk) : OutOk (execBoot s) := by
  unfold execBoot
  refine outOk_ite (outOk_next hs) ?_
  refine outOk_ite (outOk_next hs) ?_
  extract_lets st src s1
  exact outOk_next (ite_memOk (bootUp_memOk hs) hs)

theorem execThermalThrottle_memOk {s : State} (hs : s.memOk) (die) : OutOk (execThermalThrottle die s) := by
  unfold execThermalThrottle
  extract_lets src d
  exact outOk_next hs

theorem execThermalThrottleRelease_memOk {s : State} (hs : s.memOk) (die) : OutOk (execThermalThrottleRelease die s) := by
  unfold execThermalThrottleRelease
  extract_lets src d
  exact outOk_next hs

theorem execPowerLimitThrottle_memOk {s : State} (hs : s.memOk) : OutOk (execPowerLimitThrottle s) := by
  unfold execPowerLimitThrottle
  exact outOk_next hs

theorem execPowerLimitRelease_memOk {s : State} (hs : s.memOk) : OutOk (execPowerLimitRelease s) := by
  unfold execPowerLimitRelease
  exact outOk_next hs

/-! ### What the functions of Machine/Pod.lean keep -/

theorem poisonLine_memOk {s : State} (hs : s.memOk) (line) : (poisonLine s line).memOk := by
  unfold poisonLine
  exact hs

theorem cutLine_memOk {s : State} (hs : s.memOk) (a b line) : (cutLine a b s line).memOk := by
  unfold cutLine
  extract_lets h e crosses onWay lost dirty s1 s2 s1' s2'
  have hs2 : s2.memOk := by
    unfold s2
    refine settleLine_memOk ?_ _
    refine dieDrops_memOk ?_ _ _
    refine setDir_memOk ?_ _ _
    exact hs
  have hs2' : s2'.memOk := by
    unfold s2'
    refine settleLine_memOk ?_ _
    refine setDir_memOk ?_ _ _
    exact hs
  exact ite_memOk (ite_memOk (poisonLine_memOk hs2 _) hs2) (ite_memOk (ite_memOk (poisonLine_memOk hs2' _) hs2') hs)

theorem cutRecords_memOk {s : State} (hs : s.memOk) (a b) : (cutRecords a b s).memOk := by
  unfold cutRecords
  extract_lets me
  exact focus_memOk (foldl_memOk (fun _ _ h3 => ite_memOk (takeTraps_memOk (focus_memOk h3 _) _ _ _ _) h3) hs _) _

theorem cutGraphs_memOk {s : State} (hs : s.memOk) (a b) : (cutGraphs a b s).memOk := by
  unfold cutGraphs
  refine foldl_memOk (fun t4 x5 h6 => ?_) hs _
  split
  · exact graphFail_memOk h6 _ _ _
  · exact h6

theorem cutMail_memOk {s : State} (hs : s.memOk) (a b) : (cutMail a b s).memOk := by
  unfold cutMail
  exact foldl_memOk (fun _ _ h3 => ite_memOk (abortMail_memOk h3 _ _) h3) hs _

theorem execDieLinkFailure_memOk {s : State} (hs : s.memOk) (a b) : OutOk (execDieLinkFailure a b s) := by
  unfold execDieLinkFailure
  refine outOk_ite (outOk_next hs) ?_
  extract_lets s1 s2 cut s3 s4 here s5
  have hs2 : s2.memOk := by
    unfold s2
    refine foldl_memOk (fun t7 x8 h9 => ?_) ?_ _
    · exact cutLine_memOk h9 _ _ _
    · exact hs
  have hs4 : s4.memOk := by
    unfold s4
    refine mcAppend_memOk ?_ _ _ _ _ _ _
    exact hs2
  have hs5 : s5.memOk := freezeTrees_memOk hs4 _
  exact outOk_next (cutMail_memOk (cutGraphs_memOk (cutRecords_memOk hs5 _ _) _ _) _ _)

theorem execQlTrain_memOk {s : State} (hs : s.memOk) (p) : OutOk (execQlTrain p s) := by
  unfold execQlTrain
  exact outOk_next (ite_memOk (qlCtl_memOk hs _ _) hs)

theorem execQlEnableWrite_memOk {s : State} (hs : s.memOk) (p v) : OutOk (execQlEnableWrite p v s) := by
  unfold execQlEnableWrite
  exact outOk_next (ite_memOk (qlCtl_memOk hs _ _) hs)

theorem execQlTrainComplete_memOk {s : State} (hs : s.memOk) (p lanes) : OutOk (execQlTrainComplete p lanes s) := by
  unfold execQlTrainComplete
  extract_lets q
  exact outOk_next (ite_memOk hs (ite_memOk (setQl_memOk hs _ _) (mcAppend_memOk (setQl_memOk hs _ _) _ _ _ _ _ _)))

theorem execQuaylinkPortDown_memOk {s : State} (hs : s.memOk) (p) : OutOk (execQuaylinkPortDown p s) := by
  unfold execQuaylinkPortDown
  extract_lets q s1 src s2 s3
  have hs1 : s1.memOk := ite_memOk (setQl_memOk hs _ _) hs
  have hs2 : s2.memOk := by
    unfold s2
    refine mcAppend_memOk ?_ _ _ _ _ _ _
    exact hs1
  refine outOk_ite (outOk_next hs) ?_
  refine outOk_next ?_
  refine freezeTrees_memOk ?_ _
  exact hs2

theorem relay_memOk {s : State} (hs : s.memOk) (f) : (relay s f).memOk := by
  unfold relay
  split
  · exact sendFlit_memOk hs _ ‹_›
  · exact ite_memOk (getD_memOk (fun _ => sendFlit_memOk hs _) hs) hs

theorem remoteReply_memOk {s : State} (hs : s.memOk) (dst src ch part pa data l) :
    (remoteReply s dst src ch part pa data l).memOk := by
  unfold remoteReply
  exact relay_memOk hs _

theorem remoteData_memOk {s : State} (hs : s.memOk) (dst src ch part pa n) {t} (hr : remoteData s dst src ch part pa n = some t) :
    t.memOk := by
  unfold remoteData at hr
  extract_lets l at hr
  split at hr
  · cases hr
  cases hr
  exact remoteReply_memOk hs _ _ _ _ _ _ _

theorem remoteAccess_memOk {s : State} (hs : s.memOk) (dst src ch pa data lbl) :
    (remoteAccess s dst src ch pa data lbl).memOk := by
  unfold remoteAccess
  extract_lets n
  split
  · exact remoteReply_memOk hs _ _ _ _ _ _ _
  extract_lets refused
  have hrefused {t : State} (ht : t.memOk) : (refused t).memOk := remoteReply_memOk ht _ _ _ _ _ _ _
  clear_value refused
  refine ite_memOk (ite_memOk hs (getD_memOk (fun _ => remoteData_memOk hs _ _ _ _ _ _)
      (hrefused (countRefusal_memOk hs _ _)))) ?_
  refine ite_memOk (ite_memOk (hrefused hs) (ite_memOk hs (engWr_memOk hs _ _ _ _))) ?_
  refine ite_memOk (hrefused hs) ?_
  refine ite_memOk hs ?_
  split
  · exact hrefused (countRefusal_memOk hs _ _)
  · exact engWr_memOk (remoteData_memOk hs _ _ _ _ _ _ ‹_›) _ _ _ _

theorem postedTo_memOk {s : State} (hs : s.memOk) (e n) : (postedTo s e n).memOk := by
  unfold postedTo
  exact writeEnt_memOk hs _

theorem fromAway_memOk {s : State} (hs : s.memOk) (l e x) : (fromAway s l e x).memOk := by
  unfold fromAway
  split
  · exact advanceTree_memOk (postedTo_memOk (setTree_memOk (strangeRow_memOk hs _ _ _ _) _ _) _ _) _ _ _
  · refine postedTo_memOk (setTree_memOk ?_ _ _) _ _
    exact draw_memOk hs
  · exact barCheck_memOk (setTree_memOk hs _ _) _
  · have h2 := freeBytes_memOk (draw_memOk hs) 128
    have h3 n := focus_memOk h2 n
    dsimp only
    split
    · split
      · next h =>
        refine focus_memOk (countWrites_memOk ?_ _) _
        refine cmdWr_memOk ?_ _ _ _ _ _ _ h
        exact h3 _
      · exact h2
    · exact h2

theorem treeFlit_memOk {s : State} (hs : s.memOk) (src ch l) : (treeFlit s src ch l).memOk := by
  unfold treeFlit
  extract_lets c
  split
  rename_i e1
  have h2 := memOk_of_eq e1 (draw_memOk hs)
  split
  · exact fromAway_memOk h2 _ _ _
  · exact h2

theorem execQuaylinkFlit_memOk {s : State} (hs : s.memOk) (p dst src ch addr data lbl) :
    OutOk (execQuaylinkFlit p dst src ch addr data lbl s) := by
  unfold execQuaylinkFlit
  exact outOk_next (ite_memOk hs (ite_memOk (relay_memOk hs _) (ite_memOk (remoteAccess_memOk hs _ _ _ _ _ _)
      (ite_memOk (treeFlit_memOk hs _ _ _) hs))))

/-! ### What the functions of Machine/Events.lean keep -/

theorem execLandingArrival_memOk {s : State} (hs : s.memOk) (k) : OutOk (execLandingArrival k s) := by
  unfold execLandingArrival
  refine outOk_next ?_
  split
  · exact ite_memOk hs hs
  · exact hs

theorem execLandingTimeout_memOk {s : State} (hs : s.memOk) : OutOk (execLandingTimeout s) := by
  unfold execLandingTimeout
  exact outOk_next (ite_memOk (takeTraps_memOk hs _ _ _ _) hs)

theorem execSafePointOverrun_memOk {s : State} (hs : s.memOk) : OutOk (execSafePointOverrun s) := by
  unfold execSafePointOverrun
  exact outOk_next (ite_memOk (takeTrap_memOk hs _ _ _) hs)

theorem execTrap_memOk {s : State} (hs : s.memOk) (c info addr) : OutOk (execTrap c info addr s) := by
  unfold execTrap
  exact outOk_next (ite_memOk (takeTrap_memOk hs _ _ _) hs)

theorem execSpinSuspend_memOk {s : State} (hs : s.memOk) : OutOk (execSpinSuspend s) := by
  unfold execSpinSuspend
  refine outOk_next ?_
  split
  · next h =>
    split at h
    · exact wakeNew_memOk (spinSuspend_memOk hs h)
    · cases h
  · exact hs

theorem execHeldGroupIssue_memOk {s : State} (hs : s.memOk) : OutOk (execHeldGroupIssue s) := by
  unfold execHeldGroupIssue
  exact outOk_next (ite_memOk hs hs)

theorem execBarrierArrival_memOk {s : State} (hs : s.memOk) (n vf) : OutOk (execBarrierArrival n vf s) := by
  unfold execBarrierArrival
  exact outOk_next hs

theorem runCmd_memOk {s : State} (hs : s.memOk) (c) {r} (hr : runCmd s c = some r) : r.state.memOk := by
  unfold runCmd at hr
  split at hr
  · cases hr
    exact runCopy_memOk hs _
  · cases hr
    exact runCopy_memOk hs _
  · cases hr
    exact runCopy_memOk hs _
  · cases hr
    exact runRange_memOk hs _
  · cases hr
    exact runRange_memOk hs _
  · cases hr
    exact runRange_memOk hs _
  · cases hr
    exact runUnmap_memOk hs _
  · cases hr
    exact runWfill_memOk hs _
  · cases hr
    exact runOvl_memOk hs _
  · cases hr
    exact runSpill_memOk hs _
  · cases hr
    exact runSpill_memOk hs _
  · cases hr
    exact runMcast_memOk hs _
  · cases hr
    exact hs
  · cases hr
    exact runRecv_memOk hs _
  · cases hr
    exact runInstall_memOk hs _
  · cases hr
    exact runApply_memOk hs _
  · cases hr
  · cases hr
  · cases hr
  · cases hr
  cases hr
  exact runAborted_memOk hs _

theorem runRel_memOk {s : State} (hs : s.memOk) (c) {t} (hr : runRel s c = some t) : t.memOk := by
  obtain ⟨e, he, rfl⟩ := Option.map_eq_some_iff.1 hr
  have h1 : State.memOk { s with core := unwritten s.core } := hs
  refine Ending.close_memOk ?_
  exact wroteBack_memOk (runCmd_memOk h1 _ he) _ _

theorem completeCmd_memOk {s : State} (hs : s.memOk) (k which) : (completeCmd s k which).memOk := by
  unfold completeCmd
  split
  · split
    · split
      · next h =>
        split
        · exact hs
        · refine latchTasks_memOk (runRel_memOk ?_ _ h)
          exact hs
      · exact hs
    · exact hs
  · exact hs

theorem execCommandCompletion_memOk {s : State} (hs : s.memOk) (k) : OutOk (execCommandCompletion k s) := by
  unfold execCommandCompletion
  exact outOk_next (completeCmd_memOk hs _ _)

theorem execOverlayLoadComplete_memOk {s : State} (hs : s.memOk) : OutOk (execOverlayLoadComplete s) := by
  unfold execOverlayLoadComplete
  refine outOk_next ?_
  split
  · exact completeCmd_memOk hs _ _
  · exact hs

theorem execPolicyInstallComplete_memOk {s : State} (hs : s.memOk) (k) : OutOk (execPolicyInstallComplete k s) := by
  unfold execPolicyInstallComplete
  exact outOk_next (completeCmd_memOk hs _ _)

theorem sysEvent_memOk {s : State} (hs : s.memOk) (n v l) : (sysEvent s n v l).memOk := by
  unfold sysEvent
  exact ite_memOk hs (sysWrite_memOk hs _ _ _)

theorem execCpCszWrite_memOk {s : State} (hs : s.memOk) (v) : OutOk (execCpCszWrite v s) := by
  unfold execCpCszWrite
  exact outOk_next (sysEvent_memOk hs _ _ _)

theorem execFpSeedWrite_memOk {s : State} (hs : s.memOk) (v lbl) : OutOk (execFpSeedWrite v lbl s) := by
  unfold execFpSeedWrite
  exact outOk_next (sysEvent_memOk hs _ _ _)

theorem execFpVcfgWrite_memOk {s : State} (hs : s.memOk) (v lbl) : OutOk (execFpVcfgWrite v lbl s) := by
  unfold execFpVcfgWrite
  refine outOk_next ?_
  refine sysEvent_memOk ?_ _ _ _
  exact hs

theorem execFpModeWrite_memOk {s : State} (hs : s.memOk) (v lbl) : OutOk (execFpModeWrite v lbl s) := by
  unfold execFpModeWrite
  refine outOk_next ?_
  refine sysEvent_memOk ?_ _ _ _
  exact hs

theorem execMxPoolWrite_memOk {s : State} (hs : s.memOk) (v) : OutOk (execMxPoolWrite v s) := by
  unfold execMxPoolWrite
  exact outOk_next (sysEvent_memOk hs _ _ _)

theorem execClRingWrite_memOk {s : State} (hs : s.memOk) (v) : OutOk (execClRingWrite v s) := by
  unfold execClRingWrite
  exact outOk_next (sysEvent_memOk hs _ _ _)

/-! ### What the functions of Machine/Media.lean keep -/

theorem streamOf_memOk {s : State} (hs : s.memOk) (m) {r} (hr : streamOf s m = some r) : r.1.memOk :=
  readBytes_memOk hs _ _ _ _ (toOption_eq_some.1 hr)

theorem streamMark_memOk {s : State} (hs : s.memOk) (m) : (streamMark s m).memOk := by
  unfold streamMark
  exact markSpan_memOk hs _ _ _ _

theorem streamPut_memOk {s : State} (hs : s.memOk) (m off n v) {t} (hr : streamPut m off n v s = .ok t) : t.memOk :=
  writeBytes_memOk hs _ _ _ _ _ _ (mapError_eq_ok.1 hr)

theorem streamPut_errOk {s : State} (hs : s.memOk) (m off n v) {e} (hr : streamPut m off n v s = .error e) : e.1.memOk := by
  obtain ⟨e, -, rfl⟩ := mapError_eq_error.1 hr
  exact markSpan_memOk hs _ _ _ _

theorem walksOnly_memOk {s : State} {t : State} (ht : t.memOk) {u} (hr : walksOnly s t = some u) : u.memOk := by
  unfold walksOnly at hr
  split at hr
  · cases hr
  cases hr
  exact ht

theorem streamClear_memOk {s : State} (hs : s.memOk) (m d) : (streamClear m d s).memOk := by
  unfold streamClear
  extract_lets go
  have hgo {t : State} (ht : t.memOk) (off n v) : (go off n v t).memOk := by
    unfold go
    split
    · next h => exact streamPut_memOk ht _ _ _ _ h
    · next h => exact streamPut_errOk ht _ _ _ _ h
  exact hgo (hgo hs _ _ _) _ _ _

theorem clearStreams_memOk {s : State} (hs : s.memOk) (k) : (clearStreams s k).memOk := by
  unfold clearStreams
  extract_lets m
  refine foldl_memOk (fun t4 x5 h6 => ?_) (setMedia_memOk hs _ _) _
  extract_lets o
  split
  · rename_i e10
    exact streamClear_memOk (streamOf_memOk h6 _ e10) _ _
  exact streamMark_memOk h6 _

theorem mediaTake_memOk {s : State} (hs : s.memOk) (k) {t} (hr : mediaTake s k = some t) : t.memOk := by
  unfold mediaTake at hr
  extract_lets m at hr
  split at hr
  · cases hr
    exact clearStreams_memOk hs _
  split at hr
  · cases hr
  split at hr
  · split at hr
    · cases hr
    · cases hr
      exact setMedia_memOk hs _ _
  split at hr
  · exact walksOnly_memOk (streamMark_memOk hs _) hr
  next s1 _ _ h =>
  have h1 : s1.memOk := streamOf_memOk hs _ h
  extract_lets at hr
  split at hr
  · exact walksOnly_memOk h1 hr
  split at hr
  · exact walksOnly_memOk (markSpan_memOk h1 _ _ _ _) hr
  next s2 _ _ h =>
  have h2 : s2.memOk := readBytes_memOk h1 _ _ _ _ h
  extract_lets at hr
  split at hr
  · exact walksOnly_memOk h2 hr
  split at hr
  · exact walksOnly_memOk (markSpan_memOk h2 _ _ _ _) hr
  have h3 := writeBytes_memOk h2 _ _ _ _ _ _ ‹_›
  split at hr
  · exact walksOnly_memOk (markSpan_memOk (markSpan_memOk h2 _ _ _ _) _ _ _ _) hr
  have h4 := streamPut_memOk h3 _ _ _ _ ‹_›
  cases hr
  refine ite_memOk h4 ?_
  split
  · exact markSpan_memOk h4 _ _ _ _
  · next h =>
    have h5 := readBytes_memOk h4 _ _ _ _ h
    exact setMedia_memOk h5 _ _

theorem execMediaEntryTake_memOk {s : State} (hs : s.memOk) (e c) : OutOk (execMediaEntryTake e c s) := by
  unfold execMediaEntryTake
  exact outOk_next (getD_memOk (fun _ e2 => mediaTake_memOk hs _ e2) hs)

theorem stashPiece_memOk {s : State} (hs : s.memOk) (m l core off n v) {t} (hr : stashPiece m l core off n v s = .ok t) :
    t.memOk := by
  have ht := focus_memOk hs core
  unfold stashPiece at hr
  extract_lets me t win at hr
  clear_value win
  split at hr
  · cases hr
  split at hr
  · cases hr
  split at hr
  · cases hr
  · next h =>
    cases hr
    refine focus_memOk (countWrites_memOk (writeVa_memOk ?_ _ _ _ _ _ _ _ h) _) _
    exact ht

theorem stashPiece_errOk {s : State} (hs : s.memOk) (m l core off n v) {e} (hr : stashPiece m l core off n v s = .error e) :
    e.1.memOk := by
  have ht := focus_memOk hs core
  unfold stashPiece at hr
  extract_lets me t win at hr
  clear_value win
  split at hr
  · cases hr
    exact hs
  split at hr
  · cases hr
    exact hs
  split at hr
  · cases hr
    exact focus_memOk (markSpan_memOk ht _ _ _ _) _
  · cases hr

/-- One piece of a delivery, to a stash or to memory. -/
theorem deliverPiece_memOk {s : State} (hs : s.memOk) (m : MediaCtx) (l : Label) (stash : Bool) (core a c v : ℕ) :
    let r := if stash then stashPiece m l core a c v s
      else match writeVa s m.who a c v l 0 with
        | .error e => .error (markSpan s m.who a c .write, mfailOf e a)
        | .ok t => .ok t
    (∀ t, r = .ok t → t.memOk) ∧ ∀ e, r = .error e → e.1.memOk := by
  split
  · exact ⟨fun _ => stashPiece_memOk hs _ _ _ _ _ _, fun _ => stashPiece_errOk hs _ _ _ _ _ _⟩
  constructor
  · intro t h
    split at h
    · cases h
    · next h' =>
      cases h
      exact writeVa_memOk hs _ _ _ _ _ _ _ h'
  · intro e h
    split at h
    · cases h
      exact markSpan_memOk hs _ _ _ _
    · cases h

theorem deliver_memOk {x5 : State} (hx5 : x5.memOk) (m l stash core x y z x4) {t}
    (hr : deliver m l stash core x y z x4 x5 = .ok t) : t.memOk := by
  fun_induction deliver m l stash core x y z x4 x5 with
  | case1 =>
    cases hr
    exact hx5
  | case2 => cases hr
  | case3 k a n v s c u h ih =>
    have hp := deliverPiece_memOk hx5 m l stash core a c (v % 2 ^ (8 * c))
    exact ih (hp.1 _ h) hr

theorem deliver_errOk {x5 : State} (hx5 : x5.memOk) (m l stash core x y z x4) {e}
    (hr : deliver m l stash core x y z x4 x5 = .error e) : e.1.memOk := by
  fun_induction deliver m l stash core x y z x4 x5 with
  | case1 => cases hr
  | case2 k a n v s c e h =>
    have hp := deliverPiece_memOk hx5 m l stash core a c (v % 2 ^ (8 * c))
    cases hr
    exact hp.2 _ h
  | case3 k a n v s c u h ih =>
    have hp := deliverPiece_memOk hx5 m l stash core a c (v % 2 ^ (8 * c))
    exact ih (hp.1 _ h) hr

theorem frameRows_memOk {z : State} (hz : z.memOk) (m l x' y' n base npx crop x y) :
    (frameRows m l x' y' n base npx crop x y z).1.memOk := by
  fun_induction frameRows m l x' y' n base npx crop x y z with
  | case1 => exact hz
  | case2 c r t a e h => exact deliver_errOk hz _ _ _ _ _ _ _ _ h
  | case3 c r t a u h ih => exact ih (deliver_memOk hz _ _ _ _ _ _ _ _ h)

theorem frameOut_memOk {s : State} (hs : s.memOk) (m l x y n k) : (frameOut m l x y n k s).1.memOk := by
  unfold frameOut
  extract_lets w h crop npx npy
  split
  · exact hs
  · exact frameRows_memOk hs _ _ _ _ _ _ _ _ _ _

theorem mediaEnd_memOk {s : State} (hs : s.memOk) (k c f) : (mediaEnd s k c f).memOk := by
  unfold mediaEnd
  extract_lets s' src
  have hs' : s'.memOk := by
    unfold s'
    split
    · exact ite_memOk (countRefusal_memOk hs _ _) hs
    · exact hs
  exact setMedia_memOk hs' _ _

theorem refsRead_memOk {y : State} (hy : y.memOk) (m base size x) {r} (hr : refsRead m base size x y = .ok r) : r.1.memOk := by
  induction x generalizing y r with
  | nil =>
    cases hr
    exact hy
  | cons a l ih =>
    unfold refsRead at hr
    split at hr
    · exact ih hy hr
    split at hr
    · cases hr
    · next t _ _ h =>
      have ht : t.memOk := readBytes_memOk hy _ _ _ _ h
      obtain ⟨q, hq, rfl⟩ := map_eq_ok.1 hr
      have h1 := ih ht hq
      exact h1

theorem refsRead_errOk {y : State} (hy : y.memOk) (m base size x) {e} (hr : refsRead m base size x y = .error e) : e.1.memOk := by
  induction x generalizing y with
  | nil => cases hr
  | cons a l ih =>
    unfold refsRead at hr
    split at hr
    · exact ih hy hr
    split at hr
    · cases hr
      exact markSpan_memOk hy _ _ _ _
    · next t _ _ h =>
      have ht : t.memOk := readBytes_memOk hy _ _ _ _ h
      exact ih ht (map_eq_error.1 hr)

theorem refsWrite_memOk {y : State} (hy : y.memOk) (m base size l x) : (refsWrite m base size l x y).1.memOk := by
  fun_induction refsWrite m base size l x y with
  | case1 => exact hy
  | case2 s o n v r _ ih => exact ih hy
  | case3 => exact markSpan_memOk hy _ _ _ _
  | case4 s o n v r _ t h ih => exact ih (writeBytes_memOk hy _ _ _ _ _ _ h)

theorem decodeUnit_memOk {s : State} (hs : s.memOk) (k m q d u) : (decodeUnit k m q d u s).1.memOk := by
  unfold decodeUnit
  extract_lets base size
  split
  · next h => exact refsRead_errOk hs _ _ _ _ h
  next s1 r h1 =>
  have h1 : s1.memOk := refsRead_memOk hs _ _ _ _ h1
  split
  · next h =>
    have h2 := memOk_of_eq h (refsWrite_memOk h1 _ _ _ _ _)
    exact h2
  next s2 h2 =>
  have h2 : s2.memOk := memOk_of_eq h2 (refsWrite_memOk h1 _ _ _ _ _)
  split
  · next h =>
    split at h
    · exact streamPut_errOk h2 _ _ _ _ h
    · cases h
  next s3 h3 =>
  have h3 : s3.memOk := by
    split at h3
    · exact streamPut_memOk h2 _ _ _ _ h3
    · cases h3
      exact h2
  extract_lets f held
  split
  · exact setMedia_memOk h3 _ _
  split
  next s4 e h4 =>
  have h4 : s4.memOk := memOk_of_eq h4 (frameOut_memOk h3 _ _ _ _ _ _)
  exact setMedia_memOk h4 _ _

theorem decodeCmd_memOk {s : State} (hs : s.memOk) (k m q d dl) : (decodeCmd k m q d dl s).1.memOk := by
  unfold decodeCmd
  extract_lets x got bl lbl q1 s0
  have hgot {t} (h : got = .ok t) : t.1.memOk := by
    unfold got at h
    split at h
    · cases h
      exact hs
    · exact readBytes_memOk hs _ _ _ _ h
  have hs0 : s0.memOk := by
    unfold s0
    clear_value got
    split
    · exact hgot rfl
    · exact markSpan_memOk hs _ _ _ _
  clear_value got s0 lbl
  split
  · next h => exact streamPut_errOk hs0 _ _ _ _ h
  next s1 h1 =>
  have h1 : s1.memOk := streamPut_memOk hs0 _ _ _ _ h1
  split
  · exact h1
  split
  · exact h1
  extract_lets u
  split
  · exact decodeUnit_memOk h1 _ _ _ _ _
  · split
    · next h => exact streamPut_memOk h1 _ _ _ _ h
    · next h => exact streamPut_errOk h1 _ _ _ _ h
  · exact h1

theorem mediaSettle_memOk {r : State × MediaCmd × Option MFail} (hr : r.1.memOk) (k) {t} (hr : mediaSettle k r = some t) :
    t.memOk := by
  unfold mediaSettle at hr
  split at hr
  · cases hr
  cases hr
  exact mediaEnd_memOk hr _ _ _

theorem decodeNow_memOk {s : State} (hs : s.memOk) (k) {t} (hr : decodeNow s k = some t) : t.memOk := by
  unfold decodeNow at hr
  extract_lets m at hr
  split at hr
  · cases hr
  · cases hr
    exact mediaEnd_memOk (streamMark_memOk hs _) _ _ _
  rename_i e3
  exact mediaSettle_memOk (decodeCmd_memOk (streamOf_memOk hs _ e3) _ _ _ _ _) _ hr

theorem execMediaDecode_memOk {s : State} (hs : s.memOk) (e c) : OutOk (execMediaDecode e c s) := by
  unfold execMediaDecode
  exact outOk_next (getD_memOk (fun _ e2 => decodeNow_memOk hs _ e2) hs)

theorem flushFrames_memOk {z : State} (hz : z.memOk) (m q x y) : (flushFrames m q x y z).1.memOk := by
  fun_induction flushFrames m q x y z with
  | case1 => exact hz
  | case2 => exact hz
  | case3 m q j s k f _ t h ih =>
    have ht := memOk_of_eq h (frameOut_memOk hz _ _ _ _ _ _)
    exact ih ht
  | case4 m q j s k f _ t r h =>
    have ht := memOk_of_eq h (frameOut_memOk hz _ _ _ _ _ _)
    exact ht

theorem flushNow_memOk {s : State} (hs : s.memOk) (k) {t} (hr : flushNow s k = some t) : t.memOk := by
  unfold flushNow at hr
  extract_lets m at hr
  split at hr
  · cases hr
  · cases hr
    exact mediaEnd_memOk (streamMark_memOk hs _) _ _ _
  · next s1 _ _ _ h =>
    have h1 : s1.memOk := streamOf_memOk hs _ h
    refine mediaSettle_memOk (r := (setMedia _ _ _, _, _)) ?_ _ hr
    exact setMedia_memOk (flushFrames_memOk h1 _ _ _ _) _ _

theorem execMediaFlush_memOk {s : State} (hs : s.memOk) (e c) : OutOk (execMediaFlush e c s) := by
  unfold execMediaFlush
  exact outOk_next (getD_memOk (fun _ e2 => flushNow_memOk hs _ e2) hs)

theorem execMediaReset_memOk {s : State} (hs : s.memOk) (e c) : OutOk (execMediaReset e c s) := by
  unfold execMediaReset
  extract_lets k m m1
  split
  · exact outOk_next hs
  · exact outOk_next (mediaEnd_memOk (setMedia_memOk (streamMark_memOk hs _) _ _) _ _ _)
  next q s1 d _ _ h1 =>
  have h1 : s1.memOk := streamOf_memOk hs _ h1
  extract_lets r
  have hr : r.1.memOk := by
    unfold r
    split
    · next h => exact streamPut_errOk h1 _ _ _ _ h
    next h2 =>
    have h2 := streamPut_memOk h1 _ _ _ _ h2
    split
    · next h => exact streamPut_errOk h2 _ _ _ _ h
    · next h => exact streamPut_memOk h2 _ _ _ _ h
  exact outOk_next (mediaEnd_memOk (setMedia_memOk hr _ _) _ _ _)

theorem mediaDone_memOk {s : State} (hs : s.memOk) (k q) : (mediaDone s k q).memOk := by
  unfold mediaDone
  extract_lets m x tv ctx sel rec16 s1 s2
  have h1 : s1.memOk := by
    refine ite_memOk hs ?_
    split
    · exact countGate_memOk (markSpan_memOk hs _ _ _ _) _ _
    · next h =>
      have h := writeVa_memOk hs _ _ _ _ _ _ _ h
      exact orCount_memOk (markSpan_memOk h _ _ _ _) (fun _ => creditVa_memOk h _ _ _ _ _) _
  clear_value s1 ctx
  have h2 : s2.memOk := by
    unfold s2
    split
    · exact updCore_memOk h1 _ _
    · exact h1
  exact mediaStop_memOk (setMedia_memOk h2 _ _) _

theorem execMediaCompletion_memOk {s : State} (hs : s.memOk) (e c) : OutOk (execMediaCompletion e c s) := by
  unfold execMediaCompletion
  split
  · exact outOk_next (ite_memOk (mediaDone_memOk hs _ _) hs)
  · exact outOk_next hs

theorem execMsCtlWrite_memOk {s : State} (hs : s.memOk) (e c v) : OutOk (execMsCtlWrite e c v s) := by
  unfold execMsCtlWrite
  exact outOk_next (mediaWrite_memOk hs _ _ _)

/-! ### What the functions of Machine/Scalar.lean keep -/

theorem binS_memOk {s : State} (hs : s.memOk) (i d a b n f) : OutOk (binS i d a b n f s) := by
  unfold binS
  exact tile_memOk hs (fun _ h2 => actOk_ok (resultS_memOk h2 _ _ _ _)) _ _

theorem immS_memOk {s : State} (hs : s.memOk) (i d a n f x) : OutOk (immS i d a n f x s) := by
  unfold immS
  exact tile_memOk hs (fun _ h2 => actOk_ok (resultS_memOk h2 _ _ _ _)) _ _

theorem execAdd_memOk {s : State} (hs : s.memOk) (q d a b) : OutOk (execAdd q d a b s) := by
  unfold execAdd
  exact binS_memOk hs _ _ _ _ _ _

theorem execSub_memOk {s : State} (hs : s.memOk) (q d a b) : OutOk (execSub q d a b s) := by
  unfold execSub
  exact binS_memOk hs _ _ _ _ _ _

theorem execMul_memOk {s : State} (hs : s.memOk) (q d a b) : OutOk (execMul q d a b s) := by
  unfold execMul
  exact binS_memOk hs _ _ _ _ _ _

theorem execMulh_memOk {s : State} (hs : s.memOk) (q d a b) : OutOk (execMulh q d a b s) := by
  unfold execMulh
  exact binS_memOk hs _ _ _ _ _ _

theorem execMulhn_memOk {s : State} (hs : s.memOk) (q d a b) : OutOk (execMulhn q d a b s) := by
  unfold execMulhn
  exact binS_memOk hs _ _ _ _ _ _

theorem execDiv_memOk {s : State} (hs : s.memOk) (q d a b) : OutOk (execDiv q d a b s) := by
  unfold execDiv
  exact binS_memOk hs _ _ _ _ _ _

theorem execDivn_memOk {s : State} (hs : s.memOk) (q d a b) : OutOk (execDivn q d a b s) := by
  unfold execDivn
  exact binS_memOk hs _ _ _ _ _ _

theorem execRem_memOk {s : State} (hs : s.memOk) (q d a b) : OutOk (execRem q d a b s) := by
  unfold execRem
  exact binS_memOk hs _ _ _ _ _ _

theorem execRemn_memOk {s : State} (hs : s.memOk) (q d a b) : OutOk (execRemn q d a b s) := by
  unfold execRemn
  exact binS_memOk hs _ _ _ _ _ _

theorem execAnd_memOk {s : State} (hs : s.memOk) (q d a b) : OutOk (execAnd q d a b s) := by
  unfold execAnd
  exact binS_memOk hs _ _ _ _ _ _

theorem execOr_memOk {s : State} (hs : s.memOk) (q d a b) : OutOk (execOr q d a b s) := by
  unfold execOr
  exact binS_memOk hs _ _ _ _ _ _

theorem execXor_memOk {s : State} (hs : s.memOk) (q d a b) : OutOk (execXor q d a b s) := by
  unfold execXor
  exact binS_memOk hs _ _ _ _ _ _

theorem execAndn_memOk {s : State} (hs : s.memOk) (q d a b) : OutOk (execAndn q d a b s) := by
  unfold execAndn
  exact binS_memOk hs _ _ _ _ _ _

theorem execShl_memOk {s : State} (hs : s.memOk) (q d a b) : OutOk (execShl q d a b s) := by
  unfold execShl
  exact binS_memOk hs _ _ _ _ _ _

theorem execShr_memOk {s : State} (hs : s.memOk) (q d a b) : OutOk (execShr q d a b s) := by
  unfold execShr
  exact binS_memOk hs _ _ _ _ _ _

theorem execSar_memOk {s : State} (hs : s.memOk) (q d a b) : OutOk (execSar q d a b s) := by
  unfold execSar
  exact binS_memOk hs _ _ _ _ _ _

theorem execMin_memOk {s : State} (hs : s.memOk) (q d a b) : OutOk (execMin q d a b s) := by
  unfold execMin
  exact binS_memOk hs _ _ _ _ _ _

theorem execMax_memOk {s : State} (hs : s.memOk) (q d a b) : OutOk (execMax q d a b s) := by
  unfold execMax
  exact binS_memOk hs _ _ _ _ _ _

theorem execMinn_memOk {s : State} (hs : s.memOk) (q d a b) : OutOk (execMinn q d a b s) := by
  unfold execMinn
  exact binS_memOk hs _ _ _ _ _ _

theorem execMaxn_memOk {s : State} (hs : s.memOk) (q d a b) : OutOk (execMaxn q d a b s) := by
  unfold execMaxn
  exact binS_memOk hs _ _ _ _ _ _

theorem execRotl_memOk {s : State} (hs : s.memOk) (q d a b) : OutOk (execRotl q d a b s) := by
  unfold execRotl
  exact binS_memOk hs _ _ _ _ _ _

theorem execClz_memOk {s : State} (hs : s.memOk) (q d a) : OutOk (execClz q d a s) := by
  unfold execClz
  exact immS_memOk hs _ _ _ _ _ _

theorem execCtz_memOk {s : State} (hs : s.memOk) (q d a) : OutOk (execCtz q d a s) := by
  unfold execCtz
  exact immS_memOk hs _ _ _ _ _ _

theorem execPopc_memOk {s : State} (hs : s.memOk) (q d a) : OutOk (execPopc q d a s) := by
  unfold execPopc
  exact immS_memOk hs _ _ _ _ _ _

theorem execAddi_memOk {s : State} (hs : s.memOk) (q d a i) : OutOk (execAddi q d a i s) := by
  unfold execAddi
  exact immS_memOk hs _ _ _ _ _ _

theorem execAndi_memOk {s : State} (hs : s.memOk) (q d a i) : OutOk (execAndi q d a i s) := by
  unfold execAndi
  exact immS_memOk hs _ _ _ _ _ _

theorem execOri_memOk {s : State} (hs : s.memOk) (q d a i) : OutOk (execOri q d a i s) := by
  unfold execOri
  exact immS_memOk hs _ _ _ _ _ _

theorem execXori_memOk {s : State} (hs : s.memOk) (q d a i) : OutOk (execXori q d a i s) := by
  unfold execXori
  exact immS_memOk hs _ _ _ _ _ _

theorem execMuli_memOk {s : State} (hs : s.memOk) (q d a i) : OutOk (execMuli q d a i s) := by
  unfold execMuli
  exact immS_memOk hs _ _ _ _ _ _

theorem execShli_memOk {s : State} (hs : s.memOk) (q d a i) : OutOk (execShli q d a i s) := by
  unfold execShli
  exact immS_memOk hs _ _ _ _ _ _

theorem execShri_memOk {s : State} (hs : s.memOk) (q d a i) : OutOk (execShri q d a i s) := by
  unfold execShri
  exact immS_memOk hs _ _ _ _ _ _

theorem execSari_memOk {s : State} (hs : s.memOk) (q d a i) : OutOk (execSari q d a i s) := by
  unfold execSari
  exact immS_memOk hs _ _ _ _ _ _

theorem execLi_memOk {s : State} (hs : s.memOk) (q d i) : OutOk (execLi q d i s) := by
  unfold execLi
  exact tile_memOk hs (fun _ h2 => actOk_ok (resultS_memOk h2 _ _ _ _)) _ _

theorem execLic_memOk {s : State} (hs : s.memOk) (q d i) : OutOk (execLic q d i s) := by
  unfold execLic
  exact tile_memOk hs (fun _ h2 => actOk_ok (resultS_memOk h2 _ _ _ _)) _ _

theorem writeP_memOk {s : State} (hs : s.memOk) (n l x) : (writeP s n l x).memOk := by
  unfold writeP
  split
  · exact ite_memOk hs (push_memOk hs _ _ _)
  · exact hs

theorem compare_memOk {s : State} (hs : s.memOk) (i ct k rel a) : OutOk (compare i ct k rel a s) := by
  unfold Machine.compare
  refine tileAlways_memOk hs (fun x4 t5 h6 => ?_) _
  extract_lets e l
  exact actOk_ok (writeP_memOk (writeP_memOk h6 _ _ _) _ _ _)

theorem execCmpEq_memOk {s : State} (hs : s.memOk) (q c k a b) : OutOk (execCmpEq q c k a b s) := by
  unfold execCmpEq
  exact compare_memOk hs _ _ _ _ _

theorem execCmpNe_memOk {s : State} (hs : s.memOk) (q c k a b) : OutOk (execCmpNe q c k a b s) := by
  unfold execCmpNe
  exact compare_memOk hs _ _ _ _ _

theorem execCmpLt_memOk {s : State} (hs : s.memOk) (q c k a b) : OutOk (execCmpLt q c k a b s) := by
  unfold execCmpLt
  exact compare_memOk hs _ _ _ _ _

theorem execCmpGe_memOk {s : State} (hs : s.memOk) (q c k a b) : OutOk (execCmpGe q c k a b s) := by
  unfold execCmpGe
  exact compare_memOk hs _ _ _ _ _

theorem execCmpLtn_memOk {s : State} (hs : s.memOk) (q c k a b) : OutOk (execCmpLtn q c k a b s) := by
  unfold execCmpLtn
  exact compare_memOk hs _ _ _ _ _

theorem execCmpGen_memOk {s : State} (hs : s.memOk) (q c k a b) : OutOk (execCmpGen q c k a b s) := by
  unfold execCmpGen
  exact compare_memOk hs _ _ _ _ _

theorem execCmpTand_memOk {s : State} (hs : s.memOk) (q c k a b) : OutOk (execCmpTand q c k a b s) := by
  unfold execCmpTand
  exact compare_memOk hs _ _ _ _ _

theorem execCmpTnand_memOk {s : State} (hs : s.memOk) (q c k a b) : OutOk (execCmpTnand q c k a b s) := by
  unfold execCmpTnand
  exact compare_memOk hs _ _ _ _ _

theorem execCmpiEq_memOk {s : State} (hs : s.memOk) (q c k a i) : OutOk (execCmpiEq q c k a i s) := by
  unfold execCmpiEq
  exact compare_memOk hs _ _ _ _ _

theorem execCmpiNe_memOk {s : State} (hs : s.memOk) (q c k a i) : OutOk (execCmpiNe q c k a i s) := by
  unfold execCmpiNe
  exact compare_memOk hs _ _ _ _ _

theorem execCmpiLt_memOk {s : State} (hs : s.memOk) (q c k a i) : OutOk (execCmpiLt q c k a i s) := by
  unfold execCmpiLt
  exact compare_memOk hs _ _ _ _ _

theorem execCmpiGe_memOk {s : State} (hs : s.memOk) (q c k a i) : OutOk (execCmpiGe q c k a i s) := by
  unfold execCmpiGe
  exact compare_memOk hs _ _ _ _ _

theorem execCmpiLtn_memOk {s : State} (hs : s.memOk) (q c k a i) : OutOk (execCmpiLtn q c k a i s) := by
  unfold execCmpiLtn
  exact compare_memOk hs _ _ _ _ _

theorem execCmpiGen_memOk {s : State} (hs : s.memOk) (q c k a i) : OutOk (execCmpiGen q c k a i s) := by
  unfold execCmpiGen
  exact compare_memOk hs _ _ _ _ _

theorem execCmpiTbit_memOk {s : State} (hs : s.memOk) (q c k a i) : OutOk (execCmpiTbit q c k a i s) := by
  unfold execCmpiTbit
  exact compare_memOk hs _ _ _ _ _

theorem execCmpiTnbit_memOk {s : State} (hs : s.memOk) (q c k a i) : OutOk (execCmpiTnbit q c k a i s) := by
  unfold execCmpiTnbit
  exact compare_memOk hs _ _ _ _ _

/-! ### What the functions of Machine/Sync.lean keep -/

theorem execFence_memOk {s : State} (hs : s.memOk) (q c k) : OutOk (execFence q c k s) := by
  unfold execFence
  exact tile_memOk hs (fun _ h2 => actOk_ok h2) _ _

theorem execBind_memOk {s : State} (hs : s.memOk) (q a b o) : OutOk (execBind q a b o s) := by
  unfold execBind
  refine tile_memOk hs (fun t3 h4 => ?_) _ _
  refine actOk_ok ?_
  refine resultS_memOk ?_ _ _ _ _
  exact h4

theorem execUnbind_memOk {s : State} (hs : s.memOk) (q a) : OutOk (execUnbind q a s) := by
  unfold execUnbind
  refine tile_memOk ?_ (fun t3 h4 => ?_) _ _
  · exact hs
  · exact actOk_ok h4

theorem objectWord_memOk {t : State} {act : State → Act} (ht : t.memOk) (hact : ∀ t, t.memOk → ActOk (act t)) (o) :
    ActOk (objectWord t o act) := by
  unfold objectWord
  extract_lets va
  refine actOk_ite (actOk_error (accStop_stopOk _ _ _ _ _)) ?_
  split
  · exact actOk_error (accStop_stopOk _ _ _ _ _)
  rename_i e3
  exact hact _ (translateMark_memOk ht _ _ _ _ _ _ e3)

theorem execAcq_memOk {s : State} (hs : s.memOk) (q c o) : OutOk (execAcq q c o s) := by
  unfold execAcq
  exact tile_memOk hs (fun _ h2 => objectWord_memOk h2 (fun _ h4 => actOk_ok h4) _) _ _

theorem execRel_memOk {s : State} (hs : s.memOk) (q c o) : OutOk (execRel q c o s) := by
  unfold execRel
  exact tile_memOk hs (fun _ h2 => objectWord_memOk h2 (fun _ h4 => actOk_ok (releaseLines_memOk h4 _)) _) _ _

theorem execBwait_memOk {s : State} (hs : s.memOk) (q n) : OutOk (execBwait q n s) := by
  unfold execBwait
  refine tile_memOk hs (fun t3 h4 => ?_) _ _
  extract_lets u
  exact actOk_ite (actOk_error stopOk_trap) (actOk_ite (actOk_error stopOk_wait) (actOk_ok h4))

theorem execBinit_memOk {s : State} (hs : s.memOk) (q n a) : OutOk (execBinit q n a s) := by
  unfold execBinit
  exact tile_memOk hs (fun _ h2 => actOk_ok (push_memOk h2 _ _ _)) _ _

theorem tagWait_memOk {act : State → Word → Word → State} {s : State} (hact : ∀ t w w', t.memOk → (act t w w').memOk)
    (hs : s.memOk) (i p a kind cond) : OutOk (tagWait i p a kind cond act s) := by
  unfold tagWait
  refine tile_memOk hs (fun t3 h4 => ?_) _ _
  refine actOk_ite (actOk_error (illegal_stopOk _ _)) ?_
  extract_lets m tags e
  refine actOk_ite ?_ (actOk_ite (actOk_error (stopOk_copyFault)) (actOk_ok (hact _ _ _ h4)))
  refine actOk_error ?_
  split
  · exact stopOk_spin
  · exact stopOk_wait

theorem execTwAny_memOk {s : State} (hs : s.memOk) (q p d a) : OutOk (execTwAny q p d a s) := by
  unfold execTwAny
  exact tagWait_memOk (fun _ _ _ h4 => resultS_memOk h4 _ _ _ _) hs _ _ _ _ _

theorem execTwAll_memOk {s : State} (hs : s.memOk) (q p d a) : OutOk (execTwAll q p d a s) := by
  unfold execTwAll
  exact tagWait_memOk (fun _ _ _ h4 => resultS_memOk h4 _ _ _ _) hs _ _ _ _ _

theorem execTwFfr_memOk {s : State} (hs : s.memOk) (q p d a) : OutOk (execTwFfr q p d a s) := by
  unfold execTwFfr
  refine tagWait_memOk (fun t5 x6 x7 h8 => ?_) hs _ _ _ _ _
  extract_lets n
  exact push_memOk (resultS_memOk h8 _ _ _ _) _ _ _

theorem execMwait_memOk {s : State} (hs : s.memOk) (q p o b) : OutOk (execMwait q p o b s) := by
  unfold execMwait
  refine tile_memOk hs (fun t3 h4 => ?_) _ _
  refine actOk_ite (actOk_error (illegal_stopOk _ _)) ?_
  extract_lets va want
  refine actOk_ite (actOk_error (accStop_stopOk _ _ _ _ _)) ?_
  split
  · exact actOk_error (accStop_stopOk _ _ _ _ _)
  rename_i e9
  exact actOk_ite (actOk_error stopOk_trap) (actOk_ite (actOk_ok (readObj_memOk h4 _ _ e9))
      (actOk_error (stopOk_look (markSpan_memOk hs _ _ _ _))))

/-! ### What the functions of Machine/Tl.lean keep -/

theorem vfStop_stopOk {s : State} (vf) {e} (hr : vfStop s vf = some e) : StopOk e := by
  unfold vfStop at hr
  split at hr
  · cases hr
    exact privileged_stopOk _
  · cases hr

theorem tlWord_memOk {s : State} {act : ℕ → State → Act} (hs : s.memOk) (hact : ∀ i t, t.memOk → ActOk (act i t)) (i sb) :
    OutOk (tlWord i sb s act) := by
  unfold tlWord
  refine tile_memOk hs (fun t3 h4 => ?_) _ _
  extract_lets vf
  split
  · rename_i e7
    exact actOk_error (vfStop_stopOk _ e7)
  exact hact _ _ h4

theorem execTlInv_memOk {s : State} (hs : s.memOk) (q sc aa sb) : OutOk (execTlInv q sc aa sb s) := by
  unfold execTlInv
  exact tlWord_memOk hs (fun _ _ h3 => actOk_ok h3) _ _

theorem execTlInva_memOk {s : State} (hs : s.memOk) (q sc sb) : OutOk (execTlInva q sc sb s) := by
  unfold execTlInva
  exact tlWord_memOk hs (fun _ _ h3 => actOk_ok h3) _ _

theorem execTlProbe_memOk {s : State} (hs : s.memOk) (q aa sb) : OutOk (execTlProbe q aa sb s) := by
  unfold execTlProbe
  refine tlWord_memOk hs (fun x4 t5 h6 => ?_) _ _
  extract_lets va
  split
  · exact actOk_ok (resultS_memOk h6 _ _ _ _)
  · exact actOk_error (accStop_stopOk _ _ _ _ _)

theorem execTlRoot_memOk {s : State} (hs : s.memOk) (q aa sb) : OutOk (execTlRoot q aa sb s) := by
  unfold execTlRoot
  refine tlWord_memOk hs (fun x4 t5 h6 => ?_) _ _
  extract_lets a src
  exact actOk_ite (actOk_error (accStop_stopOk _ _ _ _ _)) (actOk_ite (actOk_error (accStop_stopOk _ _ _ _ _))
      (actOk_ok (setVf_memOk h6 _ _)))

theorem execTlHash_memOk {s : State} (hs : s.memOk) (q aa sb) : OutOk (execTlHash q aa sb s) := by
  unfold execTlHash
  extract_lets i
  refine tile_memOk hs (fun t3 h4 => ?_) _ _
  extract_lets p seed
  refine actOk_ite (actOk_error (privileged_stopOk _)) ?_
  refine actOk_ite (actOk_ok (resultS_memOk h4 _ _ _ _)) ?_
  split
  · refine actOk_ok ?_
    refine resultS_memOk ?_ _ _ _ _
    exact h4
  · exact actOk_ok (resultS_memOk h4 _ _ _ _)

theorem execTlDlog_memOk {s : State} (hs : s.memOk) (q aa sb) : OutOk (execTlDlog q aa sb s) := by
  unfold execTlDlog
  refine tlWord_memOk hs (fun x4 t5 h6 => ?_) _ _
  extract_lets a src
  exact actOk_ite (actOk_error (accStop_stopOk _ _ _ _ _)) (actOk_ok (setVf_memOk h6 _ _))

/-! ### What the functions of Machine/Typed.lean keep -/

theorem execLdt_memOk {s : State} (hs : s.memOk) (q d a f h l) : OutOk (execLdt q d a f h l s) := by
  unfold execLdt
  extract_lets i
  exact tile_memOk hs (fun _ h2 => loadLand_memOk h2 _ _ _ _ _ _ _) _ _

theorem execStt_memOk {s : State} (hs : s.memOk) (q v a f h r) : OutOk (execStt q v a f h r s) := by
  unfold execStt
  refine tile_memOk hs (fun t ht => ?_) _ _
  extract_lets n va lab
  split
  refine actOk_ite (actOk_error (accStop_stopOk _ _ _ _ _)) ?_
  split
  · exact actOk_error (accStop_stopOk _ _ _ _ _)
  next t1 x' h1 =>
  have h1 : t1.memOk := by
    split at h1
    · split at h1
      · next h' =>
        cases h1
        exact readVa_memOk ht _ _ _ _ h'
      · cases h1
    · cases h1
      exact ht
  split
  · exact actOk_error (accStop_stopOk _ _ _ _ _)
  · next h2 => exact actOk_ok (push_memOk (writeVa_memOk h1 _ _ _ _ _ _ _ h2) _ _ _)

theorem blockStop_memOk {t : State} {act : Act} (hact : ActOk act) (va n al st) : ActOk (blockStop t va n al st act) := by
  unfold blockStop
  exact actOk_ite (actOk_error (accStop_stopOk _ _ _ _ _)) hact

theorem execVldt_memOk {s : State} (hs : s.memOk) (q d a f l) : OutOk (execVldt q d a f l s) := by
  unfold execVldt
  extract_lets i w
  refine tile_memOk hs (fun t3 h4 => ?_) _ _
  extract_lets va
  refine blockStop_memOk ?_ _ _ _ _
  refine landRoom_memOk ?_
  split
  · exact actOk_error (accStop_stopOk _ _ _ _ _)
  rename_i e9
  extract_lets x
  exact actOk_ok (readBytes_memOk h4 _ _ _ _ e9)

theorem execVstt_memOk {s : State} (hs : s.memOk) (q v a f r) : OutOk (execVstt q v a f r s) := by
  unfold execVstt
  extract_lets i w
  refine tile_memOk hs (fun t3 h4 => ?_) _ _
  extract_lets va src rm el fl lab
  refine blockStop_memOk ?_ _ _ _ _
  split
  · exact actOk_error (accStop_stopOk _ _ _ _ _)
  rename_i e9
  exact actOk_ok (push_memOk (writeBytes_memOk h4 _ _ _ _ _ _ e9) _ _ _)

/-! ### What the functions of Machine/Dispatch.lean keep -/

theorem exec_memOk {s : State} (hs : s.memOk) (i) : OutOk (exec i s) := by
  match i with
  | .add q d a b => exact execAdd_memOk hs q d a b
  | .sub q d a b => exact execSub_memOk hs q d a b
  | .mul q d a b => exact execMul_memOk hs q d a b
  | .mulh q d a b => exact execMulh_memOk hs q d a b
  | .mulhn q d a b => exact execMulhn_memOk hs q d a b
  | .div q d a b => exact execDiv_memOk hs q d a b
  | .divn q d a b => exact execDivn_memOk hs q d a b
  | .rem q d a b => exact execRem_memOk hs q d a b
  | .remn q d a b => exact execRemn_memOk hs q d a b
  | .and q d a b => exact execAnd_memOk hs q d a b
  | .or q d a b => exact execOr_memOk hs q d a b
  | .xor q d a b => exact execXor_memOk hs q d a b
  | .andn q d a b => exact execAndn_memOk hs q d a b
  | .shl q d a b => exact execShl_memOk hs q d a b
  | .shr q d a b => exact execShr_memOk hs q d a b
  | .sar q d a b => exact execSar_memOk hs q d a b
  | .min q d a b => exact execMin_memOk hs q d a b
  | .max q d a b => exact execMax_memOk hs q d a b
  | .minn q d a b => exact execMinn_memOk hs q d a b
  | .maxn q d a b => exact execMaxn_memOk hs q d a b
  | .clz q d a => exact execClz_memOk hs q d a
  | .ctz q d a => exact execCtz_memOk hs q d a
  | .popc q d a => exact execPopc_memOk hs q d a
  | .rotl q d a b => exact execRotl_memOk hs q d a b
  | .addi q d a im => exact execAddi_memOk hs q d a im
  | .andi q d a im => exact execAndi_memOk hs q d a im
  | .ori q d a im => exact execOri_memOk hs q d a im
  | .xori q d a im => exact execXori_memOk hs q d a im
  | .shli q d a im => exact execShli_memOk hs q d a im
  | .shri q d a im => exact execShri_memOk hs q d a im
  | .sari q d a im => exact execSari_memOk hs q d a im
  | .muli q d a im => exact execMuli_memOk hs q d a im
  | .li q d im => exact execLi_memOk hs q d im
  | .lic q d im => exact execLic_memOk hs q d im
  | .cmpEq q c k a b => exact execCmpEq_memOk hs q c k a b
  | .cmpNe q c k a b => exact execCmpNe_memOk hs q c k a b
  | .cmpLt q c k a b => exact execCmpLt_memOk hs q c k a b
  | .cmpGe q c k a b => exact execCmpGe_memOk hs q c k a b
  | .cmpLtn q c k a b => exact execCmpLtn_memOk hs q c k a b
  | .cmpGen q c k a b => exact execCmpGen_memOk hs q c k a b
  | .cmpTand q c k a b => exact execCmpTand_memOk hs q c k a b
  | .cmpTnand q c k a b => exact execCmpTnand_memOk hs q c k a b
  | .cmpiEq q c k a im => exact execCmpiEq_memOk hs q c k a im
  | .cmpiNe q c k a im => exact execCmpiNe_memOk hs q c k a im
  | .cmpiLt q c k a im => exact execCmpiLt_memOk hs q c k a im
  | .cmpiGe q c k a im => exact execCmpiGe_memOk hs q c k a im
  | .cmpiLtn q c k a im => exact execCmpiLtn_memOk hs q c k a im
  | .cmpiGen q c k a im => exact execCmpiGen_memOk hs q c k a im
  | .cmpiTbit q c k a im => exact execCmpiTbit_memOk hs q c k a im
  | .cmpiTnbit q c k a im => exact execCmpiTnbit_memOk hs q c k a im
  | .aadd q d a b => exact execAadd_memOk hs q d a b
  | .aaddi q d a im => exact execAaddi_memOk hs q d a im
  | .asub q d a b => exact execAsub_memOk hs q d a b
  | .aset q d b => exact execAset_memOk hs q d b
  | .ahi q d im => exact execAhi_memOk hs q d im
  | .aalign q d a n => exact execAalign_memOk hs q d a n
  | .aget q d a h => exact execAget_memOk hs q d a h
  | .ldI8 q d a l im => exact execLdI8_memOk hs q d a l im
  | .ldI16 q d a l im => exact execLdI16_memOk hs q d a l im
  | .ldI32 q d a l im => exact execLdI32_memOk hs q d a l im
  | .ldD q d a l im => exact execLdD_memOk hs q d a l im
  | .ldN8 q d a l im => exact execLdN8_memOk hs q d a l im
  | .ldN16 q d a l im => exact execLdN16_memOk hs q d a l im
  | .ldN32 q d a l im => exact execLdN32_memOk hs q d a l im
  | .stB q v a im => exact execStB_memOk hs q v a im
  | .stH q v a im => exact execStH_memOk hs q v a im
  | .stW q v a im => exact execStW_memOk hs q v a im
  | .stD q v a im => exact execStD_memOk hs q v a im
  | .ldt q d a f h l => exact execLdt_memOk hs q d a f h l
  | .stt q v a f h r => exact execStt_memOk hs q v a f h r
  | .vldt q d a f l => exact execVldt_memOk hs q d a f l
  | .vstt q v a f r => exact execVstt_memOk hs q v a f r
  | .amoAdd q d a l w => exact execAmoAdd_memOk hs q d a l w
  | .amoAnd q d a l w => exact execAmoAnd_memOk hs q d a l w
  | .amoOr q d a l w => exact execAmoOr_memOk hs q d a l w
  | .amoXor q d a l w => exact execAmoXor_memOk hs q d a l w
  | .amoMin q d a l w => exact execAmoMin_memOk hs q d a l w
  | .amoMax q d a l w => exact execAmoMax_memOk hs q d a l w
  | .amoMinn q d a l w => exact execAmoMinn_memOk hs q d a l w
  | .amoMaxn q d a l w => exact execAmoMaxn_memOk hs q d a l w
  | .amoSwap q d a l w => exact execAmoSwap_memOk hs q d a l w
  | .amoCas q d a l w => exact execAmoCas_memOk hs q d a l w
  | .br q k => exact execBr_memOk hs q k
  | .brv q k m w n => exact execBrv_memOk hs q k m w n
  | .prep q k im => exact execPrep_memOk hs q k im
  | .prepa q k a => exact execPrepa_memOk hs q k a
  | .brl q k d => exact execBrl_memOk hs q k d
  | .lbNest q l d g => exact execLbNest_memOk hs q l d g
  | .lbExit q => exact execLbExit_memOk hs q
  | .fence q c k => exact execFence_memOk hs q c k
  | .bind q a b o => exact execBind_memOk hs q a b o
  | .unbind q a => exact execUnbind_memOk hs q a
  | .acq q c o => exact execAcq_memOk hs q c o
  | .rel q c o => exact execRel_memOk hs q c o
  | .bwait q n => exact execBwait_memOk hs q n
  | .binit q n a => exact execBinit_memOk hs q n a
  | .twAny q p d a => exact execTwAny_memOk hs q p d a
  | .twAll q p d a => exact execTwAll_memOk hs q p d a
  | .twFfr q p d a => exact execTwFfr_memOk hs q p d a
  | .mwait q p o b => exact execMwait_memOk hs q p o b
  | .safe q n => exact execSafe_memOk hs q n
  | .suspend q a => exact execSuspend_memOk hs q a
  | .yield q => exact execYield_memOk hs q
  | .retire q => exact execRetire_memOk hs q
  | .svc q im => exact execSvc_memOk hs q im
  | .brk q im => exact execBrk_memOk hs q im
  | .sysrd q d n => exact execSysrd_memOk hs q d n
  | .syswr q a n => exact execSyswr_memOk hs q a n
  | .rfe q a d l => exact execRfe_memOk hs q a d l
  | .qlock q d => exact execQlock_memOk hs q d
  | .qfree q => exact execQfree_memOk hs q
  | .arv q l r c n => exact execArv_memOk hs q l r c n
  | .vld z m d a l => exact execVld_memOk hs z m d a l
  | .vlds z m d a l g => exact execVlds_memOk hs z m d a l g
  | .vldx z m d a l => exact execVldx_memOk hs z m d a l
  | .vldb z m d a l => exact execVldb_memOk hs z m d a l
  | .vst m v a => exact execVst_memOk hs m v a
  | .vsts m v a g => exact execVsts_memOk hs m v a g
  | .vstx m v a b => exact execVstx_memOk hs m v a b
  | .vadd z m d a b x => exact execVadd_memOk hs z m d a b x
  | .vsub z m d a b x => exact execVsub_memOk hs z m d a b x
  | .vmul z m d a b x => exact execVmul_memOk hs z m d a b x
  | .vmulh z m d a b x => exact execVmulh_memOk hs z m d a b x
  | .vand z m d a b x => exact execVand_memOk hs z m d a b x
  | .vor z m d a b x => exact execVor_memOk hs z m d a b x
  | .vxor z m d a b x => exact execVxor_memOk hs z m d a b x
  | .vshl z m d a b x => exact execVshl_memOk hs z m d a b x
  | .vshr z m d a b x => exact execVshr_memOk hs z m d a b x
  | .vsar z m d a b x => exact execVsar_memOk hs z m d a b x
  | .vmin z m d a b x => exact execVmin_memOk hs z m d a b x
  | .vmax z m d a b x => exact execVmax_memOk hs z m d a b x
  | .vadds z m d a b x => exact execVadds_memOk hs z m d a b x
  | .vsubs z m d a b x => exact execVsubs_memOk hs z m d a b x
  | .vabs z m d a => exact execVabs_memOk hs z m d a
  | .vmadw z m d a b x => exact execVmadw_memOk hs z m d a b x
  | .vfadd z m d a b x => exact execVfadd_memOk hs z m d a b x
  | .vfsub z m d a b x => exact execVfsub_memOk hs z m d a b x
  | .vfmul z m d a b x => exact execVfmul_memOk hs z m d a b x
  | .vfma z m d a b x => exact execVfma_memOk hs z m d a b x
  | .vfms z m d a b x => exact execVfms_memOk hs z m d a b x
  | .vfnma z m d a b x => exact execVfnma_memOk hs z m d a b x
  | .vfmin z m d a b x => exact execVfmin_memOk hs z m d a b x
  | .vfmax z m d a b x => exact execVfmax_memOk hs z m d a b x
  | .vfabs z m d a => exact execVfabs_memOk hs z m d a
  | .vfneg z m d a => exact execVfneg_memOk hs z m d a
  | .vcmpEq z m d a b x => exact execVcmpEq_memOk hs z m d a b x
  | .vcmpNe z m d a b x => exact execVcmpNe_memOk hs z m d a b x
  | .vcmpLt z m d a b x => exact execVcmpLt_memOk hs z m d a b x
  | .vcmpGe z m d a b x => exact execVcmpGe_memOk hs z m d a b x
  | .vfcmpEq z m d a b x => exact execVfcmpEq_memOk hs z m d a b x
  | .vfcmpNe z m d a b x => exact execVfcmpNe_memOk hs z m d a b x
  | .vfcmpLt z m d a b x => exact execVfcmpLt_memOk hs z m d a b x
  | .vfcmpGe z m d a b x => exact execVfcmpGe_memOk hs z m d a b x
  | .vsel m d a b x => exact execVsel_memOk hs m d a b x
  | .mand d a b => exact execMand_memOk hs d a b
  | .mor d a b => exact execMor_memOk hs d a b
  | .mxor d a b => exact execMxor_memOk hs d a b
  | .mnot d a => exact execMnot_memOk hs d a
  | .mcnt d a => exact execMcnt_memOk hs d a
  | .mffs d a => exact execMffs_memOk hs d a
  | .vcvt z m d a => exact execVcvt_memOk hs z m d a
  | .vcvtw z m d a => exact execVcvtw_memOk hs z m d a
  | .vcvtn z m d a => exact execVcvtn_memOk hs z m d a
  | .vperm z m d a b x => exact execVperm_memOk hs z m d a b x
  | .vslide z m d a b => exact execVslide_memOk hs z m d a b
  | .vredsum z m d a => exact execVredsum_memOk hs z m d a
  | .vfredsum z m d a => exact execVfredsum_memOk hs z m d a
  | .vredmax z m d a => exact execVredmax_memOk hs z m d a
  | .vredmin z m d a => exact execVredmin_memOk hs z m d a
  | .vext d a b => exact execVext_memOk hs d a b
  | .vins d a b => exact execVins_memOk hs d a b
  | .vbcast z m d a => exact execVbcast_memOk hs z m d a
  | .vrcp z m d a => exact execVrcp_memOk hs z m d a
  | .vrsqrt z m d a => exact execVrsqrt_memOk hs z m d a
  | .vsqrt z m d a => exact execVsqrt_memOk hs z m d a
  | .vexp2 z m d a => exact execVexp2_memOk hs z m d a
  | .vlog2 z m d a => exact execVlog2_memOk hs z m d a
  | .vclipq z m d a b => exact execVclipq_memOk hs z m d a b
  | .vnormq z m d a b => exact execVnormq_memOk hs z m d a b
  | .vrot => exact execVrot_memOk hs
  | .stgset a => exact execStgset_memOk hs a
  | .stgshift a => exact execStgshift_memOk hs a
  | .bnLd q a n => exact execBnLd_memOk hs q a n
  | .bnRt q d a n => exact execBnRt_memOk hs q d a n
  | .bnRto q d a n => exact execBnRto_memOk hs q d a n
  | .bnInv q im => exact execBnInv_memOk hs q im
  | .bnRd q d n => exact execBnRd_memOk hs q d n
  | .skInit q a b => exact execSkInit_memOk hs q a b
  | .skQadd q a v b => exact execSkQadd_memOk hs q a v b
  | .skHadd q a v b => exact execSkHadd_memOk hs q a v b
  | .skDadd q a v b => exact execSkDadd_memOk hs q a v b
  | .skMerge q a b => exact execSkMerge_memOk hs q a b
  | .skCompact q a b => exact execSkCompact_memOk hs q a b
  | .skQuant q a d b => exact execSkQuant_memOk hs q a d b
  | .skRank q a d b => exact execSkRank_memOk hs q a d b
  | .skTop q a d b => exact execSkTop_memOk hs q a d b
  | .skCard q a d => exact execSkCard_memOk hs q a d
  | .skSeal q a => exact execSkSeal_memOk hs q a
  | .skChk q a d => exact execSkChk_memOk hs q a d
  | .mxMma q ac sc aa sb => exact execMxMma_memOk hs q ac sc aa sb
  | .mxProm q aa sb => exact execMxProm_memOk hs q aa sb
  | .mxProme q aa sb => exact execMxProme_memOk hs q aa sb
  | .mxZero q sb => exact execMxZero_memOk hs q sb
  | .mxZld q ac sc aa sb => exact execMxZld_memOk hs q ac sc aa sb
  | .mxZst q rl sc aa sb => exact execMxZst_memOk hs q rl sc aa sb
  | .mxZcvt q rl sc aa sb => exact execMxZcvt_memOk hs q rl sc aa sb
  | .mxZadd q sb => exact execMxZadd_memOk hs q sb
  | .mxScl q sb => exact execMxScl_memOk hs q sb
  | .mxWsel q sb => exact execMxWsel_memOk hs q sb
  | .mxWake q sb => exact execMxWake_memOk hs q sb
  | .mxGate q sb => exact execMxGate_memOk hs q sb
  | .mxTask q ac rl sc aa sb => exact execMxTask_memOk hs q ac rl sc aa sb
  | .mxTstat q aa sb => exact execMxTstat_memOk hs q aa sb
  | .mxTkill q aa sb => exact execMxTkill_memOk hs q aa sb
  | .mxQsplit q sb => exact execMxQsplit_memOk hs q sb
  | .mxFence q rl sc => exact execMxFence_memOk hs q rl sc
  | .mxCfg q gh gl sb => exact execMxCfg_memOk hs q gh gl sb
  | .cpCopy q ac rl sc aa sb => exact execCpCopy_memOk hs q ac rl sc aa sb
  | .cpLdt q ac rl sc aa sb => exact execCpLdt_memOk hs q ac rl sc aa sb
  | .cpStt q ac rl sc aa sb => exact execCpStt_memOk hs q ac rl sc aa sb
  | .cpFill q ac sc aa sb => exact execCpFill_memOk hs q ac sc aa sb
  | .cpMap q aa sb => exact execCpMap_memOk hs q aa sb
  | .cpUnmap q rl sc sb => exact execCpUnmap_memOk hs q rl sc sb
  | .cpFlush q ac rl sc aa sb => exact execCpFlush_memOk hs q ac rl sc aa sb
  | .cpInval q ac rl sc aa sb => exact execCpInval_memOk hs q ac rl sc aa sb
  | .cpWfill q ac sc aa sb => exact execCpWfill_memOk hs q ac sc aa sb
  | .cpOvl q ac sc aa sb => exact execCpOvl_memOk hs q ac sc aa sb
  | .cpSpill q ac rl sc aa sb => exact execCpSpill_memOk hs q ac rl sc aa sb
  | .cpUnspill q ac rl sc aa sb => exact execCpUnspill_memOk hs q ac rl sc aa sb
  | .cpBcnt q rl sc aa sb => exact execCpBcnt_memOk hs q rl sc aa sb
  | .cpTclr q sb => exact execCpTclr_memOk hs q sb
  | .clTmk q aa sb => exact execClTmk_memOk hs q aa sb
  | .clTfree q sb => exact execClTfree_memOk hs q sb
  | .clPost q ac rl sc aa sb => exact execClPost_memOk hs q ac rl sc aa sb
  | .clTake q ac rl sc aa sb => exact execClTake_memOk hs q ac rl sc aa sb
  | .clFrz q sb => exact execClFrz_memOk hs q sb
  | .clThaw q sb => exact execClThaw_memOk hs q sb
  | .clSave q aa sb => exact execClSave_memOk hs q aa sb
  | .clRst q aa sb => exact execClRst_memOk hs q aa sb
  | .clEditRemove q sb => exact execClEditRemove_memOk hs q sb
  | .clEditAdd q sb => exact execClEditAdd_memOk hs q sb
  | .clReshard q ac rl sc aa sb => exact execClReshard_memOk hs q ac rl sc aa sb
  | .clQuery q sb => exact execClQuery_memOk hs q sb
  | .clMcast q ac rl sc aa sb => exact execClMcast_memOk hs q ac rl sc aa sb
  | .clBar q ac rl sc aa sb => exact execClBar_memOk hs q ac rl sc aa sb
  | .clAbort q sb => exact execClAbort_memOk hs q sb
  | .evSend q aa sb => exact execEvSend_memOk hs q aa sb
  | .evRecv q aa sb => exact execEvRecv_memOk hs q aa sb
  | .evGather q aa sb => exact execEvGather_memOk hs q aa sb
  | .evOpen q sb => exact execEvOpen_memOk hs q sb
  | .evClose q sb => exact execEvClose_memOk hs q sb
  | .dsLaunch q rl sc aa sb => exact execDsLaunch_memOk hs q rl sc aa sb
  | .dsLaunchW q rl sc aa sb => exact execDsLaunchW_memOk hs q rl sc aa sb
  | .dsQpush q rl sc aa sb => exact execDsQpush_memOk hs q rl sc aa sb
  | .dsQpop q ac sc aa sb => exact execDsQpop_memOk hs q ac sc aa sb
  | .dsCondSet q aa sb => exact execDsCondSet_memOk hs q aa sb
  | .dsCondAdd q aa sb => exact execDsCondAdd_memOk hs q aa sb
  | .dsCondOr q aa sb => exact execDsCondOr_memOk hs q aa sb
  | .dsCondAnd q aa sb => exact execDsCondAnd_memOk hs q aa sb
  | .dsGstart q aa sb => exact execDsGstart_memOk hs q aa sb
  | .dsGstop q aa sb => exact execDsGstop_memOk hs q aa sb
  | .dsWake q aa sb => exact execDsWake_memOk hs q aa sb
  | .dsPrio q aa sb => exact execDsPrio_memOk hs q aa sb
  | .dsQuery q sb => exact execDsQuery_memOk hs q sb
  | .tlInv q sc aa sb => exact execTlInv_memOk hs q sc aa sb
  | .tlInva q sc sb => exact execTlInva_memOk hs q sc sb
  | .tlProbe q aa sb => exact execTlProbe_memOk hs q aa sb
  | .tlRoot q aa sb => exact execTlRoot_memOk hs q aa sb
  | .tlHash q aa sb => exact execTlHash_memOk hs q aa sb
  | .tlDlog q aa sb => exact execTlDlog_memOk hs q aa sb
  | .ptQuiesce q sb => exact execPtQuiesce_memOk hs q sb
  | .ptResume q sb => exact execPtResume_memOk hs q sb
  | .ptStateRead q sb => exact execPtStateRead_memOk hs q sb
  | .ptLayout q aa sb => exact execPtLayout_memOk hs q aa sb
  | .ptVfsetAssign q aa sb => exact execPtVfsetAssign_memOk hs q aa sb
  | .ptVfsetRelease q aa sb => exact execPtVfsetRelease_memOk hs q aa sb
  | .ptWays q sb => exact execPtWays_memOk hs q sb
  | .ptMove q aa sb => exact execPtMove_memOk hs q aa sb
  | .ptRetire q aa sb => exact execPtRetire_memOk hs q aa sb
  | .ptFlr q sb => exact execPtFlr_memOk hs q sb
  | .gtLset q sb => exact execGtLset_memOk hs q sb
  | .gtParty q aa sb => exact execGtParty_memOk hs q aa sb
  | .gtReleaseInstall q aa sb => exact execGtReleaseInstall_memOk hs q aa sb
  | .gtReleaseRevoke q aa sb => exact execGtReleaseRevoke_memOk hs q aa sb
  | .gtReleaseApply q aa sb => exact execGtReleaseApply_memOk hs q aa sb
  | .jxRecv t s1 d => exact execJxRecv_memOk hs t s1 d
  | .jxSend t s1 d => exact execJxSend_memOk hs t s1 d
  | .jxWait s1 d => exact execJxWait_memOk hs s1 d
  | .jxEnd => exact execJxEnd_memOk hs
  | .jxEcreate s1 d => exact execJxEcreate_memOk hs s1 d
  | .jxEload s1 d => exact execJxEload_memOk hs s1 d
  | .jxEpark d => exact execJxEpark_memOk hs d
  | .jxMabort s1 d => exact execJxMabort_memOk hs s1 d
  | .jxWaitResume => exact execJxWaitResume_memOk hs
  | .claim => exact execClaim_memOk hs
  | .landingArrival k => exact execLandingArrival_memOk hs k
  | .landingTimeout => exact execLandingTimeout_memOk hs
  | .safePointOverrun => exact execSafePointOverrun_memOk hs
  | .trap c info addr => exact execTrap_memOk hs c info addr
  | .faultQueuePost => exact execFaultQueuePost_memOk hs
  | .sliceEnd => exact execSliceEnd_memOk hs
  | .priorityPreemption => exact execPriorityPreemption_memOk hs
  | .waitConditionMet r => exact execWaitConditionMet_memOk hs r
  | .waitDeadline r => exact execWaitDeadline_memOk hs r
  | .readyTableAdmit r => exact execReadyTableAdmit_memOk hs r
  | .spinSuspend => exact execSpinSuspend_memOk hs
  | .heldGroupIssue => exact execHeldGroupIssue_memOk hs
  | .barrierArrival n vf => exact execBarrierArrival_memOk hs n vf
  | .pageWalk va vf kind prv => exact execPageWalk_memOk hs va vf kind prv
  | .rds line r => exact execRds_memOk hs line r
  | .rdx line r => exact execRdx_memOk hs line r
  | .upg line r => exact execUpg_memOk hs line r
  | .wbd line r => exact execWbd_memOk hs line r
  | .evc line r => exact execEvc_memOk hs line r
  | .fwds line o => exact execFwds_memOk hs line o
  | .fwdx line o => exact execFwdx_memOk hs line o
  | .inv line o => exact execInv_memOk hs line o
  | .dat line r => exact execDat_memOk hs line r
  | .cmpMessage line r => exact execCmpMessage_memOk hs line r
  | .ack line r => exact execAck_memOk hs line r
  | .don line r => exact execDon_memOk hs line r
  | .dieLinkFailure a b => exact execDieLinkFailure_memOk hs a b
  | .uncorrectableError pa => exact execUncorrectableError_memOk hs pa
  | .correctableError pa => exact execCorrectableError_memOk hs pa
  | .commandCompletion k => exact execCommandCompletion_memOk hs k
  | .overlayLoadComplete => exact execOverlayLoadComplete_memOk hs
  | .cpCszWrite v => exact execCpCszWrite_memOk hs v
  | .fpSeedWrite v lbl => exact execFpSeedWrite_memOk hs v lbl
  | .fpVcfgWrite v lbl => exact execFpVcfgWrite_memOk hs v lbl
  | .fpModeWrite v lbl => exact execFpModeWrite_memOk hs v lbl
  | .patternLoadEnd => exact execPatternLoadEnd_memOk hs
  | .blockPortWrite => exact execBlockPortWrite_memOk hs
  | .subarrayIdleOff im => exact execSubarrayIdleOff_memOk hs im
  | .subarrayOn im => exact execSubarrayOn_memOk hs im
  | .mxPoolWrite v => exact execMxPoolWrite_memOk hs v
  | .taskStart k => exact execTaskStart_memOk hs k
  | .taskEnd k => exact execTaskEnd_memOk hs k
  | .nodePull h seg node => exact execNodePull_memOk hs h seg node
  | .takeDelivery h seg member => exact execTakeDelivery_memOk hs h seg member
  | .configRefill h => exact execConfigRefill_memOk hs h
  | .clRingWrite v => exact execClRingWrite_memOk hs v
  | .instructionBudgetExpiry => exact execInstructionBudgetExpiry_memOk hs
  | .wallBudgetExpiry ep => exact execWallBudgetExpiry_memOk hs ep
  | .episodeWipeComplete ep => exact execEpisodeWipeComplete_memOk hs ep
  | .jwi => exact execJwi_memOk hs
  | .jackWrite v => exact execJackWrite_memOk hs v
  | .poolSlotEnqueue part slot => exact execPoolSlotEnqueue_memOk hs part slot
  | .graphActivation => exact execGraphActivation_memOk hs
  | .dsAbortGo core => exact execDsAbortGo_memOk hs core
  | .policyInstallComplete k => exact execPolicyInstallComplete_memOk hs k
  | .scrubLine => exact execScrubLine_memOk hs
  | .frameMove => exact execFrameMove_memOk hs
  | .mediaEntryTake e c => exact execMediaEntryTake_memOk hs e c
  | .mediaDecode e c => exact execMediaDecode_memOk hs e c
  | .mediaFlush e c => exact execMediaFlush_memOk hs e c
  | .mediaReset e c => exact execMediaReset_memOk hs e c
  | .mediaCompletion e c => exact execMediaCompletion_memOk hs e c
  | .msCtlWrite e c v => exact execMsCtlWrite_memOk hs e c v
  | .hostMemoryRead port off n => exact execHostMemoryRead_memOk hs port off n
  | .hostMemoryWrite port off data => exact execHostMemoryWrite_memOk hs port off data
  | .hostAtomic port off op size x y => exact execHostAtomic_memOk hs port off op size x y
  | .spdmGetVersion port => exact execSpdmGetVersion_memOk hs port
  | .spdmGetCapabilities port => exact execSpdmGetCapabilities_memOk hs port
  | .spdmNegotiateAlgorithms port => exact execSpdmNegotiateAlgorithms_memOk hs port
  | .spdmGetDigests port => exact execSpdmGetDigests_memOk hs port
  | .spdmGetCertificate port => exact execSpdmGetCertificate_memOk hs port
  | .spdmChallenge port => exact execSpdmChallenge_memOk hs port
  | .spdmGetMeasurements port => exact execSpdmGetMeasurements_memOk hs port
  | .spdmKeyExchange port => exact execSpdmKeyExchange_memOk hs port
  | .spdmFinish port => exact execSpdmFinish_memOk hs port
  | .spdmEndSession port => exact execSpdmEndSession_memOk hs port
  | .mbVersion => exact execMbVersion_memOk hs
  | .mbImageWrite => exact execMbImageWrite_memOk hs
  | .mbImageCommit => exact execMbImageCommit_memOk hs
  | .mbLifeCycleTransition => exact execMbLifeCycleTransition_memOk hs
  | .mbThrottle => exact execMbThrottle_memOk hs
  | .mbLogDrain => exact execMbLogDrain_memOk hs
  | .mcHeadWrite v => exact execMcHeadWrite_memOk hs v
  | .msiRaise port v lbl => exact execMsiRaise_memOk hs port v lbl
  | .deviceRegisterWrite off v => exact execDeviceRegisterWrite_memOk hs off v
  | .qlTrain p => exact execQlTrain_memOk hs p
  | .qlEnableWrite p v => exact execQlEnableWrite_memOk hs p v
  | .qlTrainComplete p lanes => exact execQlTrainComplete_memOk hs p lanes
  | .quaylinkFlit p dst src ch addr data lbl => exact execQuaylinkFlit_memOk hs p dst src ch addr data lbl
  | .quaylinkPortDown p => exact execQuaylinkPortDown_memOk hs p
  | .coldReset => exact execColdReset_memOk
  | .boot => exact execBoot_memOk hs
  | .thermalThrottle die => exact execThermalThrottle_memOk hs die
  | .powerLimitThrottle => exact execPowerLimitThrottle_memOk hs
  | .hartInstruction rv compressed => exact execHartInstruction_memOk hs rv compressed
  | .machineTimerInterrupt => exact execMachineTimerInterrupt_memOk hs
  | .thermalThrottleRelease die => exact execThermalThrottleRelease_memOk hs die
  | .powerLimitRelease => exact execPowerLimitRelease_memOk hs

/-! ### What the functions of Machine/Sequencer.lean keep -/

theorem setWord_memOk {s : State} (hs : s.memOk) (pc g w) : (setWord pc s g w).memOk := by
  unfold setWord
  exact hs

theorem runWord_memOk {ex : Ex} {s : State} (hex : ∀ w s, s.memOk → OutOk (ex w s)) (hs : s.memOk) (pc g w) :
    OutOk (runWord ex pc g s w) := by
  unfold runWord
  extract_lets t
  have ht : t.memOk := setWord_memOk hs _ _ _
  split
  · exact settle_memOk ht (actOk_error (illegal_stopOk _ _))
  · exact hex _ _ ht

theorem lostNow_memOk {s : State} (hs : s.memOk) {t} (hr : lostNow s = some t) : t.memOk := by
  unfold lostNow at hr
  split at hr
  · split at hr
    · cases hr
      refine takeTrap_memOk ?_ _ _ _
      exact hs
    · cases hr
  · cases hr

theorem joinGroup_memOk {s : State} (hs : s.memOk) (g) : (joinGroup g s).memOk := by
  unfold joinGroup
  exact hs

theorem retrap_memOk {s : State} (hs : s.memOk) (c info addr) : (retrap s c info addr).memOk := by
  unfold retrap
  split
  · refine takeTrap_memOk ?_ _ _ _
    exact hs
  exact takeTrap_memOk hs _ _ _

theorem foldWords_memOk {ex : Ex} {s0 : State} {x : State} (hex : ∀ w s, s.memOk → OutOk (ex w s)) (hx : x.memOk) (g y) {t}
    (hr : foldWords ex g s0 x y = .ok t) : t.memOk := by
  induction y generalizing x t with
  | nil =>
    cases hr
    exact hx
  | cons w ws ih =>
    unfold foldWords at hr
    split at hr
    · next h =>
      have ht := runWord_memOk hex hx _ _ _ _ h
      split at hr
      · cases hr
      · cases hr
      · split at hr
        · next h1 =>
          cases hr
          have hu := ih ht h1
          exact ite_memOk (setMark_memOk hu _) hu
        · cases hr
    · cases hr

theorem foldWords_errOk {ex : Ex} {s0 : State} {x : State} (hex : ∀ w s, s.memOk → OutOk (ex w s)) (hs0 : s0.memOk) (hx : x.memOk)
    (g y) {o} (hr : foldWords ex g s0 x y = .error o) : OutOk o := by
  fun_induction foldWords ex g s0 x y generalizing o
  · cases hr
  · cases hr
    exact outOk_next (retrap_memOk hs0 _ _ _)
  · cases hr
    exact outOk_next (heldOne_memOk hs0 _ _)
  · cases hr
  · rename_i e27 _ e28 ih29 ih30 ih31
    have h32 := (runWord_memOk hex hx _ _ _) _ e27
    have h36 := ih31 h32 e28
    cases hr
    exact h36
  · cases hr
    exact runWord_memOk hex hx _ _ _

theorem groupState_memOk {ex : Ex} {s0 : State} {s : State} (hs : s.memOk) (g) : (groupState ex g s0 s).memOk := by
  unfold groupState
  extract_lets j
  have hj : j.memOk := joinGroup_memOk hs _
  refine ite_memOk ?_ hj
  split
  · exact ite_memOk hj hj
  exact hj

theorem tryWord_memOk {ex : Ex} {s : State} {j : State} (hex : ∀ w s, s.memOk → OutOk (ex w s)) (hs : s.memOk) (hj : j.memOk)
    (g w) : OutOk (tryWord ex g s j w) := by
  unfold tryWord
  extract_lets o
  have ho : OutOk o := runWord_memOk hex hs _ _ _
  have hb := runWord_memOk hex hj s.core.pc g w
  clear_value o
  refine outOk_ite ho ?_
  split
  · split
    · split
      · exact outOk_ite ho (outOk_next (retrap_memOk hs _ _ _))
      · exact ho
    · exact ho
  · exact hb

theorem withWake_memOk {s : State} {l : List (GWord × Host.Outcome State Fault Refusal)} {x : Host.Outcome State Fault Refusal}
    (hx : OutOk x) : OutOk (withWake s l x) := by
  unfold withWake
  split
  · next t =>
    have ht : t.memOk := hx t rfl
    split
    · split
      · exact outOk_next ht
      · exact hx
    · exact hx
  · exact hx

/-- An outcome that a search over outcomes keeping the canonical form finds keeps it. -/
theorem find_outOk {α : Type} {l : List (α × Host.Outcome State Fault Refusal)} (hl : ∀ e ∈ l, OutOk e.2) {p e}
    (h : l.find? p = some e) : OutOk e.2 :=
  hl e (List.mem_of_find?_eq_some h)

theorem tryWords_endsOk {ex : Ex} {s : State} (hex : ∀ w s, s.memOk → OutOk (ex w s)) (hs : s.memOk) (g err) {o}
    (hr : tryWords ex g err s = .ends o) : OutOk o := by
  unfold tryWords at hr
  extract_lets j l at hr
  have hl : ∀ e ∈ l, OutOk e.2 := by
    intro e he
    obtain ⟨w, -, rfl⟩ := List.mem_map.1 he
    exact tryWord_memOk hex hs (groupState_memOk hs _) _ _
  clear_value l
  split at hr
  · split at hr
    · cases hr
      exact find_outOk hl ‹_›
    · cases hr
      exact outOk_next (takeTrap_memOk hs _ _ _)
  split at hr
  · cases hr
    exact find_outOk hl ‹_›
  split at hr
  · cases hr
    exact find_outOk hl ‹_›
  split at hr
  · cases hr
    exact find_outOk hl ‹_›
  split at hr
  · cases hr
    exact find_outOk hl ‹_›
  split at hr
  · cases hr
    exact outOk_next (lostNow_memOk hs ‹_›)
  split at hr
  · cases hr
    exact find_outOk hl ‹_›
  split at hr
  · cases hr
    exact outOk_next (takeTrap_memOk hs _ _ _)
  split at hr
  · cases hr
    exact withWake_memOk (find_outOk hl ‹_›)
  · cases hr

theorem eachCore_memOk {f : State → State} {s : State} (hf : ∀ t, t.memOk → (f t).memOk) (hs : s.memOk) (ns) :
    (eachCore f ns s).memOk := by
  unfold eachCore
  exact foldl_memOk (fun _ _ h3 => hf _ (focus_memOk h3 _)) hs _

theorem cycleOf_memOk {s : State} (hs : s.memOk) (ns) : (cycleOf ns s).memOk := by
  unfold cycleOf
  split
  extract_lets l s1
  have hs1 : s1.memOk := by
    unfold s1
    refine foldl_memOk (fun t28 x29 h30 => ?_) hs _
    refine updCore_memOk ?_ _ _
    exact h30
  refine latchTasks_memOk ?_
  refine refresh_memOk ?_
  refine measure_memOk ?_ _
  exact hs1

theorem oneCycle_memOk {s : State} (hs : s.memOk) : (oneCycle s).memOk := by
  unfold oneCycle
  exact cycleOf_memOk hs _

theorem endTick_memOk {s : State} (hs : s.memOk) (g) : (endTick g s).memOk := by
  unfold endTick
  exact hs

theorem beginCore_memOk {s : State} (hs : s.memOk) : (beginCore s).memOk := by
  unfold beginCore
  extract_lets s1
  have hs1 : s1.memOk := landDue_memOk hs _
  exact hs1

theorem beginTick_memOk {s : State} (hs : s.memOk) {t} (hr : beginTick s = .ok t) : t.memOk := by
  unfold beginTick at hr
  split at hr
  · cases hr
  cases hr
  exact beginCore_memOk hs

theorem beginTick_errOk {s : State} (hs : s.memOk) {o} (hr : beginTick s = .error o) : OutOk o := by
  unfold beginTick at hr
  split at hr
  · cases hr
    exact outOk_next (heldOne_memOk hs _ _)
  · cases hr

theorem tryGroup_endsOk {ex : Ex} {s : State} (hex : ∀ w s, s.memOk → OutOk (ex w s)) (hs : s.memOk) (inf) {o}
    (hr : (tryGroup inf ex s).2 = .ends o) : OutOk o := by
  unfold tryGroup at hr
  extract_lets ws g at hr
  exact tryWords_endsOk hex hs _ _ hr

theorem issueWords_memOk {ex : Ex} {s0 : State} {s : State} (hex : ∀ w s, s.memOk → OutOk (ex w s)) (hs : s.memOk) (g) {t}
    (hr : issueWords ex g s0 s = .ok t) : t.memOk := by
  unfold issueWords at hr
  exact foldWords_memOk hex (groupState_memOk hs _) _ _ hr

theorem issueWords_errOk {ex : Ex} {s0 : State} {s : State} (hex : ∀ w s, s.memOk → OutOk (ex w s)) (hs0 : s0.memOk)
    (hs : s.memOk) (g) {o} (hr : issueWords ex g s0 s = .error o) : OutOk o := by
  unfold issueWords at hr
  exact foldWords_errOk hex hs0 (groupState_memOk hs _) _ _ hr

theorem leaveWords_memOk {ex : Ex} {s0 : State} {x : State} (hex : ∀ w s, s.memOk → OutOk (ex w s)) (hs0 : s0.memOk)
    (hx : x.memOk) (g y) : OutOk (leaveWords ex g s0 x y) := by
  induction y generalizing x with
  | nil => exact outOk_next (endTick_memOk hx _)
  | cons w ws ih =>
    have hw := runWord_memOk hex hx s0.core.pc g w
    rw [leaveWords]
    split
    · next u hu =>
      have hu : u.memOk := hw _ hu
      split
      · exact outOk_next (endTick_memOk hu _)
      · exact outOk_next (retrap_memOk hs0 _ _ _)
      · exact outOk_next (heldOne_memOk hs0 _ _)
      · exact ih hu
    · exact hw

theorem issueGroup_memOk {ex : Ex} {s0 : State} {s : State} (hex : ∀ w s, s.memOk → OutOk (ex w s)) (hs0 : s0.memOk)
    (hs : s.memOk) (g) : OutOk (issueGroup ex g s0 s) := by
  unfold issueGroup
  split
  · rename_i e1
    exact issueWords_errOk hex hs0 hs _ e1
  rename_i e10
  refine outOk_ite (outOk_next (heldOne_memOk hs0 _ _)) ?_
  extract_lets t1 src src' t2
  have ht1 : t1.memOk := ite_memOk (issueWords_memOk hex hs _ e10) (advance_memOk (issueWords_memOk hex hs _ e10))
  split
  · exact outOk_next (endTick_memOk ht1 _)
  refine leaveWords_memOk (fun x22 x23 h24 => ?_) ?_ ?_ _ _
  · exact hex _ _ h24
  · exact hs0
  · exact ht1

theorem issueOne_memOk {ex : Ex} {s : State} (hex : ∀ w s, s.memOk → OutOk (ex w s)) (hs : s.memOk) (inf) :
    OutOk (issueOne inf ex s) := by
  unfold issueOne
  split
  · next h => exact beginTick_errOk hs h
  next s1 h1 =>
  have h1 : s1.memOk := beginTick_memOk hs h1
  split
  · next h => exact tryGroup_endsOk hex h1 _ (by rw [h])
  · exact issueGroup_memOk hex h1 h1 _

theorem issueAll_memOk {ex : Ex} {s1 : State} {y : State} (hex : ∀ w s, s.memOk → OutOk (ex w s)) (hs1 : s1.memOk) (hy : y.memOk)
    (x) : OutOk (issueAll ex s1 x y) := by
  induction x generalizing y with
  | nil => exact outOk_next hy
  | cons p l ih =>
    obtain ⟨n, g⟩ := p
    have hg := issueGroup_memOk hex (focus_memOk hs1 n) (focus_memOk hy n) g
    rw [issueAll]
    split
    · next u hu =>
      have hu : u.memOk := hg _ hu
      split
      · exact ih hu
      · exact outOk_next hu
    · exact hg

theorem holdAll_memOk {ex : Ex} {s : State} (hex : ∀ w s, s.memOk → OutOk (ex w s)) (hs : s.memOk) (inf ns) :
    (holdAll inf ex ns s).memOk := by
  unfold holdAll
  refine foldl_memOk (fun t4 x5 h6 => ?_) hs _
  extract_lets u
  have hu : u.memOk := focus_memOk h6 _
  split
  · rename_i e10
    have h11 := tryGroup_endsOk hex hu _ e10
    exact ite_memOk (h11 _ rfl) (heldOne_memOk hu _ _)
  · exact heldOne_memOk hu _ _

theorem splitQuad_memOk {s : State} (hs : s.memOk) : (splitQuad s).memOk := by
  unfold splitQuad
  exact ite_memOk (foldl_memOk (fun _ _ h3 => updCore_memOk h3 _ _) hs _) hs

theorem issueTogether_memOk {ex : Ex} {s1 : State} (hex : ∀ w s, s.memOk → OutOk (ex w s)) (hs1 : s1.memOk) (inf ns) :
    OutOk (issueTogether inf ex ns s1) := by
  unfold issueTogether
  extract_lets l
  split
  · next o h =>
    obtain ⟨e, he, ho⟩ := List.exists_of_findSome?_eq_some h
    obtain ⟨n, -, rfl⟩ := List.mem_map.1 he
    dsimp only at ho
    split at ho
    · next htry =>
      split at ho
      · cases ho
      · cases ho
        exact tryGroup_endsOk hex (focus_memOk hs1 _) _ htry
    · cases ho
  split
  · exact outOk_next (holdAll_memOk hex hs1 _ _)
  have hall l' := issueAll_memOk hex hs1 hs1 l'
  split
  · next h =>
    have ht := hall _ _ h
    exact outOk_next (ite_memOk (eachCore_memOk (fun t ht => heldOne_memOk ht _ _) ht _) ht)
  · exact hall _

theorem quadCycle_memOk {ex : Ex} {s : State} (hex : ∀ w s, s.memOk → OutOk (ex w s)) (hs : s.memOk) (inf) :
    OutOk (quadCycle inf ex s) := by
  unfold quadCycle
  extract_lets me ns
  refine outOk_ite (outOk_next (cycleOf_memOk (focus_memOk (eachCore_memOk (fun _ h4 => heldOne_memOk h4 _ _) hs _) _) _)) ?_
  split
  · rename_i e5
    have h6 := (issueTogether_memOk hex (eachCore_memOk (fun _ h11 => beginCore_memOk h11) hs _) _ _) _ e5
    refine outOk_next ?_
    split
    · exact focus_memOk h6 _
    · exact focus_memOk h6 _
    · exact splitQuad_memOk (cycleOf_memOk (focus_memOk h6 _) _)
  · exact issueTogether_memOk hex (eachCore_memOk (fun _ h16 => beginCore_memOk h16) hs _) _ _

theorem joinQuad_memOk {ex : Ex} {s : State} {t : State} (hex : ∀ w s, s.memOk → OutOk (ex w s)) (hs : s.memOk) (ht : t.memOk)
    (inf) : OutOk (joinQuad inf ex s t) := by
  unfold joinQuad
  extract_lets me ns w src
  have hw : w.memOk := beginCore_memOk hs
  split
  · rename_i e1
    have h2 := (issueTogether_memOk hex (eachCore_memOk (fun _ h7 => beginCore_memOk h7) ht _) _ _) _ e1
    refine outOk_ite (outOk_next (oneCycle_memOk (focus_memOk h2 _))) ?_
    refine outOk_next ?_
    refine oneCycle_memOk ?_
    refine heldOne_memOk ?_ _ _
    exact hw
  · exact issueTogether_memOk hex (eachCore_memOk (fun _ h12 => beginCore_memOk h12) ht _) _ _

theorem domainCycle_memOk {ex : Ex} {s : State} (hex : ∀ w s, s.memOk → OutOk (ex w s)) (hs : s.memOk) (inf) :
    OutOk (domainCycle inf ex s) := by
  unfold domainCycle
  refine outOk_ite (quadCycle_memOk hex hs _) ?_
  split
  · rename_i e7
    have h8 := (issueOne_memOk hex hs _) _ e7
    split
    · exact outOk_next h8
    · exact outOk_next h8
    · exact outOk_next (oneCycle_memOk h8)
    · exact outOk_ite (joinQuad_memOk hex hs h8 _) (outOk_next (oneCycle_memOk h8))
  · exact issueOne_memOk hex hs _

theorem idleCycle_memOk {s : State} (hs : s.memOk) : (idleCycle s).memOk := by
  unfold idleCycle
  exact oneCycle_memOk (claimFor_memOk hs)

theorem coreTurn_memOk {ex : Ex} {s : State} (hex : ∀ w s, s.memOk → OutOk (ex w s)) (hs : s.memOk) (inf) :
    OutOk (coreTurn inf ex s) := by
  unfold coreTurn
  refine outOk_ite ?_ (outOk_next (idleCycle_memOk hs))
  split
  · rename_i e1
    have h2 := (domainCycle_memOk hex hs _) _ e1
    exact outOk_next (wakeNew_memOk h2)
  · exact domainCycle_memOk hex hs _

/-! ### What the functions of Machine/Auto.lean keep -/

theorem focusDue_memOk {s : State} (hs : s.memOk) : (focusDue s).memOk := by
  unfold focusDue
  refine ite_memOk hs ?_
  split
  · exact focus_memOk hs _
  · exact hs

/-! ### What the functions of Machine/Step.lean keep -/

theorem runIWord_memOk {s : State} (hs : s.memOk) (w) : OutOk (runIWord w s) := by
  unfold runIWord
  split
  · exact exec_memOk hs _
  · exact settle_memOk hs (actOk_error (illegal_stopOk _ _))

theorem hartTurn_memOk {s : State} (hs : s.memOk) (n) : (hartTurn s n).1.memOk := by
  unfold hartTurn
  exact hartNext_memOk hs

theorem stepWith_memOk {ex : Ex} {s : State} (hex : ∀ w s, s.memOk → OutOk (ex w s)) (hs : s.memOk) (inf) :
    OutOk (stepWith inf ex s) := by
  unfold stepWith
  split
  · exact exec_memOk hs _
  split
  · refine exec_memOk ?_ _
    exact hs
  · next n rest _ =>
    have h1 := hartTurn_memOk (show State.memOk { s with agenda := rest } from hs) n
    split
    · split
      · next h => exact exec_memOk (by rw [h] at h1; exact h1) _
      · next h => exact hartSettle_memOk (by rw [h] at h1; exact h1) (fun _ h => by cases h)
    · rintro _ ⟨⟩
  · next n rest _ =>
    split
    · exact coreTurn_memOk hex (focus_memOk (show State.memOk { s with agenda := rest } from hs) n) _
    · rintro _ ⟨⟩
  · have h1 := focusDue_memOk hs
    extract_lets t
    split
    · exact exec_memOk h1 _
    · exact coreTurn_memOk hex h1 _

theorem step_memOk {s : State} (hs : s.memOk) : OutOk (step s) :=
  stepWith_memOk (fun w _ ht => runIWord_memOk ht w) hs _

/-- Settles O57: of everything a step can do, only a write, a moved frame, a scrub and a reset reach memory, and each keeps
its canonical form; every other function of the model passes memory on. -/
theorem everyStepKeepsMemoryCanonical : Obligations.EveryStepKeepsMemoryCanonical :=
  fun _ _ hs ht => step_memOk hs _ ht

end Sys2Proof.Laws

namespace Sys2Proof.Laws
open Sys2Proof Sys2Proof.Machine

/-! # Tile words -/

/-! ## A tile word that ends in one way -/

section
variable {ins : Instr} {s : State} {i : Info} {wf : Bool} {act : State → Act} {p : State → Prop}

theorem givesIf_of_tile {f : Info → State → State} (hi : infoOf ins = some i) (hx : exec ins s = tile i wf s act) (hw : wf = true)
    (h : ∀ t, p t → act t = .ok (f i t)) : GivesIf ins s p f := by
  intro j hj hr hp
  obtain rfl : i = j := Option.some.inj (hi.symm.trans hj)
  rw [hx, tile_ready hr hw, h _ hp, settle_ok]

theorem trapsIf_of_tile {c : Nat} {info addr : State → Nat} (hi : infoOf ins = some i) (hx : exec ins s = tile i wf s act) (hw : wf = true)
    (h : ∀ t, p t → act t = .error (.trap c (info t) (addr t))) : TrapsIf ins s p c info addr := by
  intro j hj hr hp
  obtain rfl : i = j := Option.some.inj (hi.symm.trans hj)
  rw [hx, tile_ready hr hw, h _ hp, settle_trap]

theorem held_of_tile (hi : infoOf ins = some i) (hx : exec ins s = tile i wf s act) (hw : wf = true)
    (h : ∀ t, p t → act t = .error .hold) :
    ∀ j, infoOf ins = some j → Ready j s → p (joined j s) → exec ins s = .next (heldOne s false none) := by
  intro j hj hr hp
  obtain rfl : i = j := Option.some.inj (hi.symm.trans hj)
  rw [hx, tile_ready hr hw, h _ hp]
  rfl

end

end Sys2Proof.Laws

namespace Sys2Proof.Laws
open Sys2Proof Sys2Proof.Machine

/-! # Scalar loads, stores and atomics

Every scalar load is `loadS`, every scalar store `storeS` and every atomic `amo`; each of the three forms is settled once. -/

theorem readLabel_a (c : Core) (a : BitVec 4) : readLabel c [.a a] = (c.rdA a).l ||| c.cl := by
  simp [readLabel, labelOf, orAll]

theorem readLabel_s_a (c : Core) (v : BitVec 5) (a : BitVec 4) :
    readLabel c [.s v, .a a] = (c.rdS v).l ||| (c.rdA a).l ||| c.cl := by
  simp [readLabel, labelOf, orAll]

theorem landRoom_of_free {t : State} (h : landsOut t.core < 32) (act : Act) : landRoom t act = act := by
  rw [landRoom, if_neg (Nat.not_le.2 h)]

/-! ## Loads -/

theorem loadLand_ok {i : Info} {va size : Nat} {l reg : BitVec 5} {cls : BitVec 3} {eff : Nat → Eff} {t t1 : State} {v : Nat}
    {ml : Label} (hal : va % size = 0) (hroom : landsOut t.core < 32) (hread : readBytes t t.core.who va size .read = .ok (t1, v, ml)) :
    loadLand i va size l cls reg eff t = .ok (pushLand t1 (l.toNat + 4) (eff v) (ml ||| readLabel t.core i.rd) cls reg [va]) := by
  rw [loadLand, if_neg (not_not.2 hal), landRoom_of_free hroom, hread]

theorem loadLand_misaligned {i : Info} {va size : Nat} {l reg : BitVec 5} {cls : BitVec 3} {eff : Nat → Eff} {t : State}
    (hmis : va % size ≠ 0) : loadLand i va size l cls reg eff t = .error (.trap 5 (accInfo size false false false) va) := by
  rw [loadLand, if_pos hmis]
  rfl

section
variable {ins : Instr} {s : State} {i : Info} {d : BitVec 5} {a : BitVec 4} {l m : BitVec 5} {size : Nat} {conv : Nat → Word}

theorem loads_of_loadS (hi : infoOf ins = some i) (hrd : i.rd = [.a a]) (hx : exec ins s = loadS i d a l m size conv s) :
    Loads ins s d a l m size conv := by
  rintro j hj hr t va rfl rfl hal hroom t1 v ml hread
  obtain rfl : i = j := Option.some.inj (hi.symm.trans hj)
  rw [hx, loadS, tile_ready hr rfl]
  refine (congrArg (settle s) (loadLand_ok hal hroom hread)).trans ?_
  rw [settle_ok, hrd, readLabel_a]

theorem misalignedLoad_traps (hi : infoOf ins = some i) (hx : exec ins s = loadS i d a l m size conv s) :
    TrapsIf ins s (fun t => ((av t a).toNat + m.toNat * size) % 2 ^ 72 % size ≠ 0) 5 (fun _ => accInfo size false false false)
      (fun t => ((av t a).toNat + m.toNat * size) % 2 ^ 72) :=
  trapsIf_of_tile hi hx rfl fun _ hmis => loadLand_misaligned hmis

end

/-! ## Stores -/

section
variable {ins : Instr} {s : State} {i : Info} {v : BitVec 5} {a : BitVec 4} {m : BitVec 10} {size : Nat}

theorem stores_of_storeS (hi : infoOf ins = some i) (hrd : i.rd = [.s v, .a a]) (hx : exec ins s = storeS i v a m size s) :
    Stores ins s v a m size := by
  rintro j hj hr t va rfl rfl hal u hwrite
  obtain rfl : i = j := Option.some.inj (hi.symm.trans hj)
  rw [← readLabel_s_a, ← hrd] at hwrite
  rw [hx, storeS, tile_ready hr rfl, ← settle_ok s u]
  simp only [sv, av] at hal hwrite
  simp only [hal, ne_eq, not_true_eq_false, if_false, hwrite]

theorem misalignedStore_traps (hi : infoOf ins = some i) (hx : exec ins s = storeS i v a m size s) :
    TrapsIf ins s (fun t => ((av t a).toNat + m.toNat * size) % 2 ^ 72 % size ≠ 0) 5 (fun _ => accInfo size true false false)
      (fun t => ((av t a).toNat + m.toNat * size) % 2 ^ 72) :=
  trapsIf_of_tile hi hx rfl fun _ hmis => if_pos hmis

end

/-- The stores of O4, whose loads fail (`not_loadsLandAndStoresWrite`). -/
theorem storesWriteTheLowBytes : Claims.StoresWriteTheLowBytes := fun _ _ _ _ _ =>
  ⟨stores_of_storeS rfl rfl rfl, stores_of_storeS rfl rfl rfl, stores_of_storeS rfl rfl rfl, stores_of_storeS rfl rfl rfl⟩

/-- Settles O5: `loadS` and `storeS` look at the alignment of their address before anything else. -/
theorem misalignedAccessesTrap : Obligations.MisalignedAccessesTrap := by
  intro q a d l m n s
  exact ⟨misalignedLoad_traps rfl rfl, misalignedLoad_traps rfl rfl, misalignedLoad_traps rfl rfl, misalignedLoad_traps rfl rfl,
    misalignedLoad_traps rfl rfl, misalignedStore_traps rfl rfl, misalignedStore_traps rfl rfl, misalignedStore_traps rfl rfl⟩

/-! ## Atomics -/

/-- An atomic whose word is well formed; what it writes may carry the labels of more registers than its address. -/
theorem atomic_of_amo {ins : Instr} {s : State} {i : Info} {wf : Bool} {d : BitVec 5} {a : BitVec 4} {l : BitVec 5} {w : BitVec 1}
    {f : Nat → Nat → Nat → Nat → Nat} (hi : infoOf ins = some i) (hcx : i.cx = [.a a]) (hwf : wf = true)
    (hx : exec ins s = amo i wf d a l w f s) : Atomic ins s d a l w f := by
  rintro j hj hr t va n rfl rfl rfl hal hroom t1 old ml hread u hwrite
  obtain rfl : i = j := Option.some.inj (hi.symm.trans hj)
  rw [hx, amo, tile_ready hr hwf, ← settle_ok s]
  simp only [sv, av] at hal hread hwrite ⊢
  simp only [hal, ne_eq, not_true_eq_false, if_false, landRoom_of_free hroom, hread, hwrite, hcx, readLabel_a]

theorem min_eq_ite_lt (o x : Nat) : (if o < x then o else x) = Nat.min o x := by
  change _ = min o x
  split <;> omega

theorem max_eq_ite_lt (o x : Nat) : (if o < x then x else o) = Nat.max o x := by
  change _ = max o x
  split <;> omega

/-- Settles O6: the ten atomics differ in their operation; the unsigned ones compare where the statement names the minimum and the
maximum. -/
theorem atomicsReplaceAndLandTheOldValue : Obligations.AtomicsReplaceAndLandTheOldValue := by
  intro q a d l w s
  have hmax : Atomic (.amoMaxn q d a l w) s d a l w (fun _ o x _ => Nat.max o x) := by
    simp only [← max_eq_ite_lt]
    exact atomic_of_amo rfl rfl rfl rfl
  refine ⟨atomic_of_amo rfl rfl rfl rfl, atomic_of_amo rfl rfl rfl rfl, atomic_of_amo rfl rfl rfl rfl, atomic_of_amo rfl rfl rfl rfl,
    atomic_of_amo rfl rfl rfl rfl, atomic_of_amo rfl rfl rfl rfl, ?_, hmax, atomic_of_amo rfl rfl rfl rfl, ?_⟩
  · simp only [← min_eq_ite_lt]
    exact atomic_of_amo rfl rfl rfl rfl
  · exact fun hd => atomic_of_amo rfl rfl (bne_iff_ne.2 hd) rfl

/-! ## A load over a memory out of its canonical form -/

/-- A landing that loses no source brings its own effect. -/
theorem pushLand_eff {s : State} {n va : Nat} {e f : Eff} {l : Label} {cls : BitVec 3} {reg : BitVec 5}
    (hkept : sourceLost s (loadHome s va) = false) (h : pushLand s n e l cls reg [va] = pushLand s n f l cls reg [va]) : e = f := by
  have hpend := List.append_cancel_left (congrArg (fun t : State => t.core.pend) h)
  simpa [hkept] using hpend

/-- A load that reads `v` lands it as one value. -/
theorem loads_conv_unique {ins : Instr} {s t1 : State} {i : Info} {d : BitVec 5} {a : BitVec 4} {l m : BitVec 5} {size va v : Nat}
    {f g : Nat → Word} {ml : Label} (hf : Loads ins s d a l m size f) (hg : Loads ins s d a l m size g) (hi : infoOf ins = some i)
    (hr : Ready i s) (hva : va = ((av (joined i s) a).toNat + m.toNat * size) % 2 ^ 72) (hal : va % size = 0)
    (hroom : landsOut (joined i s).core < 32) (hread : readBytes (joined i s) (joined i s).core.who va size .read = .ok (t1, v, ml))
    (hkept : sourceLost t1 (loadHome t1 va) = false) : f v = g v := by
  have hland := (hf i hi hr _ va rfl hva hal hroom t1 v ml hread).symm.trans (hg i hi hr _ va rfl hva hal hroom t1 v ml hread)
  exact (Eff.s.inj (pushLand_eff hkept (Host.Outcome.next.inj hland))).2

/-- A core at privilege F whose a2 is 0x4000 in the physical window, over a memory that lists the byte there twice, which its canonical
form excludes (log 3). -/
def doubledByte : State :=
  { State.reset with
    mem := [(key State.reset 0x4000, 0xFF), (key State.reset 0x4000, 0xFF)]
    core := { Core.reset with
      run := some ⟨0x10000, 2, 0, 0, 0, 0x20000, 0, 0, 0, 0, false, 0, 0, 0, 0, 0, false, 0⟩
      ctxs := Core.reset.ctxs.setIfInBounds 0 { TagCtx.free with owner := some 0x10000 } }.wrA 2 (BitVec.ofNat 72 (0xF * 2 ^ 68 + 0x4000)) 0 }

/-- The state in which ld.n8 s1, [a2] acts, and its address. -/
def byteState : State := joined (infoLdN8 0 1 2 0 0) doubledByte
def byteAddr : Nat := ((av byteState 2).toNat + (0 : BitVec 5).toNat * 1) % 2 ^ 72

/-- Was 510 read, from a source that is not lost? -/
def reads510 : Except (AErr × Nat) (State × Nat × Label) → Bool
  | .ok (t, v, _) => v == 510 && !sourceLost t (loadHome t byteAddr)
  | .error _ => false

theorem reads510_iff (r : Except (AErr × Nat) (State × Nat × Label)) :
    reads510 r = true ↔ ∃ t ml, r = .ok (t, 510, ml) ∧ sourceLost t (loadHome t byteAddr) = false := by
  rcases r with e | ⟨t, v, ml⟩ <;> simp [reads510]

/-- The two listings of the byte add up. -/
theorem byteState_reads510 : reads510 (readBytes byteState byteState.core.who byteAddr 1 .read) = true := by decide +kernel

theorem byteState_ready : Ready (infoLdN8 0 1 2 0 0) doubledByte := by
  unfold Ready
  decide +kernel

/-- Refutes O4: where memory lists a byte twice, a byte reads as 510, of which ld.n8 lands 64 bits and not the low 8. -/
theorem not_loadsLandAndStoresWrite : ¬ Obligations.LoadsLandAndStoresWrite := by
  rintro ⟨hloads, -⟩
  obtain ⟨-, -, -, -, hlow, -, -⟩ := hloads 0 2 1 0 0 doubledByte
  have hall : Loads (.ldN8 0 1 2 0 0) doubledByte 1 2 0 0 1 (BitVec.ofNat 64) := loads_of_loadS rfl rfl rfl
  obtain ⟨t, ml, hread, hkept⟩ := (reads510_iff _).1 byteState_reads510
  have hsame := loads_conv_unique hlow hall rfl byteState_ready rfl (Nat.mod_one _) (by decide +kernel) hread hkept
  exact absurd hsame (by decide)

end Sys2Proof.Laws

namespace Sys2Proof.Laws
open Sys2Proof Sys2Proof.Machine

/-! # Branches and nests -/

/-! ## The fetch of a branch buffer -/

/-- What the fetch of a prepared buffer leaves in it (R107, R221): the group at its target, or none where no valid half holds it. -/
def captured (c : Core) (k : BitVec 2) : BtReg :=
  match halfOf c (c.rdBt k).addr.v with
  | some n => { c.rdBt k with
      words := some (groupWords (c.half n) 7 ((c.rdBt k).addr.v.toNat % 65536)), addr := ⟨(c.rdBt k).addr.v, (c.rdBt k).addr.l ||| (c.half n).lab⟩ }
  | none => { c.rdBt k with words := some [] }

@[simp] theorem captured_addr (c : Core) (k : BitVec 2) : (captured c k).addr.v = (c.rdBt k).addr.v := by
  unfold captured
  split <;> rfl

@[simp] theorem captured_prepared (c : Core) (k : BitVec 2) : (captured c k).prepared = (c.rdBt k).prepared := by
  unfold captured
  split <;> rfl

theorem fetchBt_eq (c : Core) (k : BitVec 2) : fetchBt c k = c.setBt k (captured c k) := by
  cases h : halfOf c (c.rdBt k).addr.v <;> simp only [fetchBt, captured, h]

theorem rdBt_setBt_same (c : Core) (k : BitVec 2) (r : BtReg) : (c.setBt k r).rdBt k = r := by
  simp [Core.rdBt, Core.setBt]

theorem awaitBt_of_fetching {t : State} {k : BitVec 2} (h : fetching t.core k = true) :
    awaitBt t k = { t with core := { t.core.setBt k (captured t.core k) with
      pend := t.core.pend.filter (fun e => e.eff != Eff.btFetch k) }.joinCl (captured t.core k).addr.l } := by
  simp only [awaitBt, h, if_true, fetchBt_eq, rdBt_setBt_same]
  rfl

theorem awaitBt_of_not_fetching {t : State} {k : BitVec 2} (h : fetching t.core k = false) : awaitBt t k = t := by
  simp [awaitBt, h]

theorem awaitBt_rdBt (t : State) (k : BitVec 2) :
    (awaitBt t k).core.rdBt k = if fetching t.core k then captured t.core k else t.core.rdBt k := by
  cases h : fetching t.core k
  · rw [awaitBt_of_not_fetching h]
    rfl
  · rw [awaitBt_of_fetching h, Core.joinCl_rdBt]
    exact rdBt_setBt_same t.core k (captured t.core k)

theorem halfOf_joinCl (c : Core) (l : Label) (va : Addr) : halfOf (c.joinCl l) va = halfOf c va := by
  simp only [halfOf, Core.joinCl_half, Core.joinCl_active]

theorem awaitBt_halfOf (t : State) (k : BitVec 2) (va : Addr) : halfOf (awaitBt t k).core va = halfOf t.core va := by
  cases h : fetching t.core k
  · rw [awaitBt_of_not_fetching h]
  · rw [awaitBt_of_fetching h, halfOf_joinCl]
    rfl

theorem awaitBt_rdBt_addr (t : State) (k : BitVec 2) : ((awaitBt t k).core.rdBt k).addr.v = (t.core.rdBt k).addr.v := by
  rw [awaitBt_rdBt]
  split
  · exact captured_addr t.core k
  · rfl

theorem awaitBt_rdBt_prepared (t : State) (k : BitVec 2) : ((awaitBt t k).core.rdBt k).prepared = (t.core.rdBt k).prepared := by
  rw [awaitBt_rdBt]
  split
  · exact captured_prepared t.core k
  · rfl

theorem prepared_of_fetching {c : Core} {k : BitVec 2} (h : fetching c k = true) : (c.rdBt k).prepared = true :=
  (Bool.and_eq_true_iff.1 h).1

/-! ## Transfers (R108, R110) -/

/-- A transfer whose fetch is complete, or has been awaited, goes to the group captured. -/
theorem transfer_ok {t : State} {k : BitVec 2} {n : Bool} {w : IWord} {ws : List IWord}
    (hgo : ¬(fetching t.core k = true ∧ t.core.tick + t.core.frozen < (t.core.rdBt k).ready))
    (hp : (t.core.rdBt k).prepared = true) (hw : ((awaitBt t k).core.rdBt k).words = some (w :: ws))
    (hh : halfOf (awaitBt t k).core (t.core.rdBt k).addr.v = some n) : transfer t k = .ok (moved (awaitBt t k) k n w ws) := by
  rw [← awaitBt_rdBt_addr] at hh
  rw [← awaitBt_rdBt_prepared] at hp
  simp only [transfer, if_neg hgo, hw, hp, not_true_eq_false, if_false, hh]
  rfl

theorem transfer_of_target {t : State} {k : BitVec 2} {n : Bool} {w : IWord} {ws : List IWord} (h : Target t k n w ws) :
    transfer t k = .ok (moved t k n w ws) := by
  obtain ⟨hp, hw, hh, hf⟩ := h
  have hsame := awaitBt_of_not_fetching hf
  have hgo := transfer_ok (n := n) (w := w) (ws := ws) (by simp [hf]) hp (hsame.symm ▸ hw) (hsame.symm ▸ hh)
  rwa [hsame] at hgo

theorem transfer_of_fetched {t : State} {k : BitVec 2} {n : Bool} {w : IWord} {ws : List IWord} (h : Fetched t k n w ws) :
    transfer t k = .ok (moved (awaitBt t k) k n w ws) := by
  obtain ⟨hf, hready, hw, hh⟩ := h
  exact transfer_ok (fun hlate => absurd hlate.2 (Nat.not_lt.2 hready)) (prepared_of_fetching hf) hw hh

theorem transfer_of_awaited {t : State} {k : BitVec 2} (h : Awaited t k) : transfer t k = .error .hold :=
  if_pos h

/-! ## The link that brl writes does not touch the buffer -/

section
variable {t : State} {k : BitVec 2} {r : Nat} {e : Eff} {l : Label}

theorem fetching_push (he : e ≠ .btFetch k) : fetching (push t r e l).core k = fetching t.core k := by
  simp only [fetching, push, Core.push, List.any_append, List.any_cons, List.any_nil, beq_eq_false_iff_ne.2 he, Bool.or_false]
  rfl

theorem target_push (he : e ≠ .btFetch k) {n : Bool} {w : IWord} {ws : List IWord} (h : Target t k n w ws) :
    Target (push t r e l) k n w ws := by
  obtain ⟨hp, hw, hh, hf⟩ := h
  exact ⟨hp, hw, hh, (fetching_push he).trans hf⟩

theorem fetched_push (he : e ≠ .btFetch k) {n : Bool} {w : IWord} {ws : List IWord} (h : Fetched t k n w ws) :
    Fetched (push t r e l) k n w ws := by
  obtain ⟨hf, hready, hw, hh⟩ := h
  refine ⟨(fetching_push he).trans hf, hready, ?_, ?_⟩
  · rw [awaitBt_rdBt, fetching_push he]
    exact (congrArg BtReg.words (awaitBt_rdBt t k)).symm.trans hw
  · rw [awaitBt_halfOf] at hh ⊢
    exact hh

theorem awaited_push (he : e ≠ .btFetch k) (h : Awaited t k) : Awaited (push t r e l) k :=
  ⟨(fetching_push he).trans h.1, h.2⟩

end

/-! ## Preparing a buffer -/

theorem prepare_unloaded {t : State} {k : BitVec 2} {x : Addr} {i : Info} (h : unloaded t.core x = true) :
    prepare t i k x = push { t with core := { t.core with pend := t.core.pend.filter (fun e => e.eff != .btFetch k) } } 1
      (.btSet k x (t.core.tick + 3)) (readLabel t.core i.rd) := by
  simp only [prepare, h, if_true]

theorem prepare_loaded {t : State} {k : BitVec 2} {x : Addr} {i : Info} (h : unloaded t.core x = false) :
    prepare t i k x = push (push { t with core := { t.core with pend := t.core.pend.filter (fun e => e.eff != .btFetch k) } } 1
      (.btSet k x (t.core.tick + 3)) (readLabel t.core i.rd)) 3 (.btFetch k) 0 := by
  simp only [prepare, h, Bool.false_eq_true, if_false]

/-- The transfers and the preparing of buffers (R107, R108, R110, R221). -/
theorem transfersGoToTheirTarget : Claims.TransfersGoToTheirTarget := by
  intro q k s n w ws prepared linked
  refine ⟨?_, ?_, ?_, fun d => ⟨?_, ?_, ?_⟩, fun m => ⟨?_, ?_⟩, fun a => ⟨?_, ?_⟩, fun a => ?_⟩
  · exact givesIf_of_tile rfl rfl rfl fun t h => transfer_of_target h
  · exact givesIf_of_tile rfl rfl rfl fun t h => transfer_of_fetched h
  · exact held_of_tile (p := (Awaited · k)) rfl rfl rfl fun t h => transfer_of_awaited h
  · exact givesIf_of_tile rfl rfl rfl fun t h => transfer_of_target (target_push (by simp) h)
  · exact givesIf_of_tile rfl rfl rfl fun t h => transfer_of_fetched (fetched_push (by simp) h)
  · exact held_of_tile (p := (Awaited · k)) rfl rfl rfl fun t h => transfer_of_awaited (awaited_push (by simp) h)
  · exact givesIf_of_tile rfl rfl rfl fun t h => congrArg Except.ok (prepare_loaded h)
  · exact givesIf_of_tile rfl rfl rfl fun t h => congrArg Except.ok (prepare_unloaded h)
  · exact givesIf_of_tile rfl rfl rfl fun t h => (if_neg (not_not.2 h.1)).trans (congrArg Except.ok (prepare_loaded h.2))
  · exact givesIf_of_tile rfl rfl rfl fun t h => (if_neg (not_not.2 h.1)).trans (congrArg Except.ok (prepare_unloaded h.2))
  · exact trapsIf_of_tile rfl rfl rfl fun t h => if_pos h

/-! ## Branches on a mask (R108) -/

theorem brvBits_testBit (c : Core) (m : BitVec 3) (w : BitVec 2) (j : Nat) :
    (brvBits c m w).testBit j = (decide (j < 128 * 2 ^ w.toNat) && (c.rdM m).v.getLsbD j) := by
  rw [brvBits, Nat.shiftLeft_eq, Nat.testBit_mod_two_pow, BitVec.testBit_toNat]

theorem brvBits_eq_ones (c : Core) (m : BitVec 3) (w : BitVec 2) :
    brvBits c m w = 2 ^ (128 <<< w.toNat) - 1 ↔ ∀ j < 128 * 2 ^ w.toNat, (c.rdM m).v.getLsbD j = true := by
  rw [Nat.shiftLeft_eq]
  constructor
  · intro h j hj
    have hbit := brvBits_testBit c m w j
    simpa [h, Nat.testBit_two_pow_sub_one, hj] using hbit.symm
  · intro h
    refine Nat.eq_of_testBit_eq fun j => ?_
    rw [brvBits_testBit, Nat.testBit_two_pow_sub_one]
    by_cases hj : j < 128 * 2 ^ w.toNat
    · rw [h j hj, Bool.and_true]
    · simp [hj]

theorem brvBits_eq_zero (c : Core) (m : BitVec 3) (w : BitVec 2) :
    brvBits c m w = 0 ↔ ∀ j < 128 * 2 ^ w.toNat, (c.rdM m).v.getLsbD j = false := by
  constructor
  · intro h j hj
    have hbit := brvBits_testBit c m w j
    simpa [h, hj] using hbit.symm
  · intro h
    refine Nat.eq_of_testBit_eq fun j => ?_
    rw [brvBits_testBit, Nat.zero_testBit]
    by_cases hj : j < 128 * 2 ^ w.toNat
    · rw [h j hj, Bool.and_false]
    · simp [hj]

theorem two_pow_sub_one_ne_zero (w : BitVec 2) : 2 ^ (128 <<< w.toNat) - 1 ≠ 0 := by
  have h : 2 ^ 1 ≤ 2 ^ (128 <<< w.toNat) := by
    have hpos := Nat.two_pow_pos w.toNat
    exact Nat.pow_le_pow_right (by omega) (by rw [Nat.shiftLeft_eq]; omega)
  omega

/-- What brv does, given its mask: `k` its buffer, `b` the value of its bit that stays. -/
def brvAct (k : BitVec 2) (m : BitVec 3) (w : BitVec 2) (b : BitVec 1) (t : State) : Act :=
  if brvBits t.core m w = 2 ^ (128 <<< w.toNat) - 1 then (if b = 0 then transfer t k else .ok t)
  else if brvBits t.core m w = 0 then (if b = 1 then transfer t k else .ok t)
  else .error (.trap 4 (m.toNat + (w.toNat <<< 3)) t.core.grp.word.toNat)

section
variable {k : BitVec 2} {m : BitVec 3} {w : BitVec 2} {t : State}

theorem brvAct_ones (b : BitVec 1) (h : ∀ j < 128 * 2 ^ w.toNat, (t.core.rdM m).v.getLsbD j = true) :
    brvAct k m w b t = if b = 0 then transfer t k else .ok t := by
  rw [brvAct, if_pos ((brvBits_eq_ones ..).2 h)]

theorem brvAct_zeros (b : BitVec 1) (h : ∀ j < 128 * 2 ^ w.toNat, (t.core.rdM m).v.getLsbD j = false) :
    brvAct k m w b t = if b = 1 then transfer t k else .ok t := by
  have hz := (brvBits_eq_zero ..).2 h
  rw [brvAct, hz, if_neg (two_pow_sub_one_ne_zero w).symm, if_pos rfl]

/-- A mask of equal bits of the value that `b` looks for goes (R108). -/
theorem brvAct_goes (b : BitVec 1) (h : ∀ j < 128 * 2 ^ w.toNat, (t.core.rdM m).v.getLsbD j = (b == 0)) :
    brvAct k m w b t = transfer t k := by
  obtain rfl | rfl := BitVec.eq_zero_or_eq_one b
  · exact brvAct_ones 0 h
  · exact brvAct_zeros 1 h

end

/-- Branches on a mask (R108). -/
theorem maskBranchesNeedEqualBits : Claims.MaskBranchesNeedEqualBits := by
  intro q k m w s n x ws all
  refine ⟨fun b => ⟨?_, ?_, ?_⟩, ?_, ?_, fun b => ?_⟩
  · exact givesIf_of_tile rfl (act := brvAct k m w b) rfl rfl fun t h => (brvAct_goes b h.1).trans (transfer_of_target h.2)
  · exact givesIf_of_tile rfl (act := brvAct k m w b) rfl rfl fun t h => (brvAct_goes b h.1).trans (transfer_of_fetched h.2)
  · intro i hi hr hall hwait
    exact held_of_tile (p := fun t => all (b == 0) t ∧ Awaited t k) (act := brvAct k m w b) rfl rfl rfl
      (fun t h => (brvAct_goes b h.1).trans (transfer_of_awaited h.2)) i hi hr ⟨hall, hwait⟩
  · exact givesIf_of_tile rfl (act := brvAct k m w 0) rfl rfl fun t h => brvAct_zeros 0 h
  · exact givesIf_of_tile rfl (act := brvAct k m w 1) rfl rfl fun t h => brvAct_ones 1 h
  · refine trapsIf_of_tile rfl (act := brvAct k m w b) rfl rfl fun t h => ?_
    rw [brvAct, if_neg (mt (brvBits_eq_ones ..).1 h.1), if_neg (mt (brvBits_eq_zero ..).1 h.2)]

/-! ## Nests (R112 to R114) -/

/-- What lb.nest does (R112, R114). -/
def nestAct (l : BitVec 4) (d : BitVec 3) (g : BitVec 6) (t : State) : Act :=
  match bodyEnd t.core (afterGroup t.core) (l.toNat + 1) with
  | none => .error (.trap 1 (encInfo 6 (wordPos t.core)) t.core.grp.start.toNat)
  | some e =>
    if t.core.nest.act then .error (illegal t 3)
    else if (List.range d.toNat).any (fun i => trips t.core g i == 0) then
      .ok { t with core := { t.core with pc := e, buf := none, mark := .transfer } }
    else .ok { t with core := { t.core with nest :=
        { act := true, len1 := l, d := d, g := g, body := afterGroup t.core, next := 0, idx := List.replicate 6 0 } } }

/-- What lb.exit does (R114). -/
def exitAct (t : State) : Act :=
  if ¬t.core.nest.act then .ok t
  else match bodyEnd t.core t.core.nest.body (t.core.nest.len1.toNat + 1) with
    | none => .ok { t with core := { t.core with nest := { t.core.nest with act := false } } }
    | some e => .ok { t with core := { t.core with pc := e, buf := none, nest := { t.core.nest with act := false }, mark := .transfer } }

theorem zeroTrip_iff (c : Core) (g : BitVec 6) (d : Nat) :
    (List.range d).any (fun i => trips c g i == 0) = true ↔ ∃ j < d, (c.rdG (g + BitVec.ofNat 6 j)).v.toNat % 2 ^ 32 = 0 := by
  simp [trips]

theorem nestsStartAndEnd : Claims.NestsStartAndEnd := by
  intro q l d g s
  refine ⟨fun hd0 hd7 hg => ?_, ?_, fun e => ?_⟩
  · have hwf : (d != 0 && d != 7 && decide (g.toNat + 5 * d.toNat + 1 ≤ 64)) = true := by
      rw [bne_iff_ne.2 hd0, bne_iff_ne.2 hd7, decide_eq_true hg]
      rfl
    refine ⟨fun e => ?_, fun e => ?_, fun e => ?_, ?_⟩
    · refine givesIf_of_tile (act := nestAct l d g) rfl rfl hwf fun t ⟨hact, hend, htrips⟩ => ?_
      have hany : ¬(List.range d.toNat).any (fun i => trips t.core g i == 0) = true := fun hz =>
        let ⟨j, hj, hj0⟩ := (zeroTrip_iff ..).1 hz
        htrips j hj hj0
      simp only [nestAct, hend, hact, Bool.false_eq_true, if_false, if_neg hany]
      rfl
    · refine givesIf_of_tile (act := nestAct l d g) rfl rfl hwf fun t ⟨hact, hend, htrips⟩ => ?_
      simp only [nestAct, hend, hact, Bool.false_eq_true, if_false, if_pos ((zeroTrip_iff ..).2 htrips)]
    · refine trapsIf_of_tile (act := nestAct l d g) rfl rfl hwf fun t ⟨hact, hend⟩ => ?_
      simp only [nestAct, hend, hact, if_true]
      rfl
    · refine trapsIf_of_tile (act := nestAct l d g) rfl rfl hwf fun t hend => ?_
      simp only [nestAct, hend]
      rfl
  · refine givesIf_of_tile (act := exitAct) rfl rfl rfl fun t hact => ?_
    simp only [exitAct, hact, Bool.false_eq_true, not_false_eq_true, if_true]
  · refine givesIf_of_tile (act := exitAct) rfl rfl rfl fun t ⟨hact, hend⟩ => ?_
    simp only [exitAct, hact, not_true_eq_false, if_false, hend]

/-- Settles O8: a transfer reads its buffer as the fetch that it awaited leaves it, and the link of brl touches no buffer; brv goes by
its bits as a number; lb.nest looks at its body, then at the nest, then at its trip counts. -/
theorem branchesAndNestsMoveThePc : Obligations.BranchesAndNestsMoveThePc :=
  ⟨transfersGoToTheirTarget, maskBranchesNeedEqualBits, nestsStartAndEnd⟩

end Sys2Proof.Laws

namespace Sys2Proof.Laws
open Sys2Proof Sys2Proof.Machine

/-! # Events of a core, and register writes as events -/

theorem landingArrival_sets {s : State} {k : Nat} {e : Pend} {d : Land} (he : s.core.pend[k]? = some e) (hd : e.land = some d)
    (hlate : d.arrived = false) :
    exec (.landingArrival k) s = .next { s with core := { s.core with
      pend := s.core.pend.set k { e with land := some { d with arrived := true } } } } := by
  have hl : e.late = true := by simp [Pend.late, hd, hlate]
  have ha : e.arrive = { e with land := some { d with arrived := true } } := by simp [Pend.arrive, hd]
  change execLandingArrival k s = _
  simp only [execLandingArrival, he, hl, if_true, ha]

/-- A timeout's cause is 0x09, with a late request or without (R29). -/
theorem timeoutInfo_cause (c : Core) : (timeoutInfo c).1 = 9 := by
  unfold timeoutInfo
  split
  · split <;> rfl
  · rfl

theorem sliceOut_of_run {s : State} {r : Running} (hr : s.core.run = some r) (he : r.ended = false)
    (hs : (partAt s r.part).slice.toNat % 2 ^ 32 ≠ 0) (hlen : (partAt s r.part).slice.toNat % 2 ^ 32 ≤ r.slice) : sliceOut s = true := by
  simp only [sliceOut, hr, he, Bool.not_false, Bool.true_and, bne_iff_ne.2 hs, decide_eq_true hlen]

/-- The events of a core. -/
theorem coreEventsAct : Claims.CoreEventsAct := by
  intro s
  refine ⟨fun h => ?_, fun h => ?_, fun k e d he hd hlate => ?_, fun c i a hrun hfrozen htime => ?_, fun hrun hdist => ?_,
    fun c i a hrun => ?_, fun t hrun ht => ?_, fun hrun hheld => ?_, fun n vf => rfl, fun r hr he hs hlen => ?_, fun t ht => ?_,
    fun n hrun habort => ?_⟩
  · exact congrArg Host.Outcome.next (if_pos (by rw [h]; rfl))
  · exact congrArg Host.Outcome.next (if_neg (by simp [Option.isSome_iff_ne_none.1 h]))
  · refine ⟨_, landingArrival_sets he hd hlate, rfl, ?_, fun j hj => List.getElem?_set_ne (Ne.symm hj)⟩
    obtain ⟨hk, -⟩ := List.getElem?_eq_some_iff.1 he
    exact List.getElem?_set_self hk
  · have hc : c = 9 := by rw [← timeoutInfo_cause s.core, htime]
    subst hc
    refine ⟨rfl, ?_⟩
    have hout : timedOut s.core = true := by simp only [timedOut, hrun, decide_eq_true hfrozen, Bool.and_self]
    change execLandingTimeout s = _
    simp only [execLandingTimeout, htime, hout, if_true]
  · exact congrArg Host.Outcome.next (if_pos ⟨hrun, hdist⟩)
  · exact congrArg Host.Outcome.next (if_pos hrun)
  · change execSpinSuspend s = _
    simp only [execSpinSuspend, hrun, if_true, ht]
  · exact congrArg Host.Outcome.next (if_pos ⟨hrun, hheld⟩)
  · refine (congrArg Host.Outcome.next (if_pos (sliceOut_of_run hr he hs hlen))).trans ?_
    simp only [endSlice, hr, Option.map_some]
  · exact congrArg (fun x : Option State => Host.Outcome.next (x.getD s)) ht
  · exact congrArg Host.Outcome.next (if_pos ⟨hrun, habort⟩)

theorem sysEvent_of_free {s : State} {n : Nat} {v : Word} (h : sysHold s n v = none) (l : Label) : sysEvent s n v l = sysWrite s n v l := by
  simp [sysEvent, h]

theorem registerWriteEventsAct : Claims.RegisterWriteEventsAct := by
  intro v l s j
  refine ⟨fun h => ?_, fun h => ?_, fun h => ?_, fun h => ?_, fun h => ?_, fun h => ?_⟩ <;>
    exact congrArg Host.Outcome.next (sysEvent_of_free h _)

/-- Settles O42: each event's condition is met, so that the event acts. -/
theorem coreEventsAndRegisterWritesAct : Obligations.CoreEventsAndRegisterWritesAct := ⟨coreEventsAct, registerWriteEventsAct⟩

end Sys2Proof.Laws

namespace Sys2Proof.Laws
open Sys2Proof Sys2Proof.Machine

/-! # Events of engines and of the dispatcher -/

/-! ## Commands -/

/-- A command that may end, whose work is done and whose tag nothing else holds, ends. -/
theorem completeCmd_ends {s t : State} {k : Nat} {c : Cmd} {which : CmdKind → Bool} (hk : s.core.cmds[k]? = some c)
    (hw : which c.kind = true) (hmay : cmdMayEnd s.core c = true)
    (hrun : runRel { s with core := { s.core with cmds := s.core.cmds.eraseIdx k } } c = some t)
    (htag : inFlightTag t.core c = false) : completeCmd s k which = latchTasks t := by
  simp only [completeCmd, hk, hw, hmay, and_self, if_true, hrun, htag, Bool.false_eq_true, if_false]

/-- The overlay load that no other precedes is the one that completes (R220). -/
theorem findIdx?_first_ovl {l : List Cmd} {k : Nat} {c : Cmd} (hk : l[k]? = some c) (hc : c.kind = .ovl)
    (hfirst : ∀ j < k, ∀ d, l[j]? = some d → d.kind ≠ .ovl) : l.findIdx? (fun d => d.kind == .ovl) = some k := by
  obtain ⟨hlt, rfl⟩ := List.getElem?_eq_some_iff.1 hk
  refine List.findIdx?_eq_some_iff_getElem.2 ⟨hlt, beq_iff_eq.2 hc, fun j hj => ?_⟩
  exact mt beq_iff_eq.1 (hfirst j hj _ (List.getElem?_eq_getElem (hj.trans hlt)))

theorem overlayLoadComplete_eq {s : State} {k : Nat} (h : s.core.cmds.findIdx? (fun d => d.kind == .ovl) = some k) :
    exec .overlayLoadComplete s = .next (completeCmd s k (· == .ovl)) := by
  change execOverlayLoadComplete s = _
  simp only [execOverlayLoadComplete, h]

/-! ## Pattern loads, the block port and the sub-arrays -/

theorem patternLoadEnd_ends {s : State} {p : PatLoad} (hp : s.core.patBusy = some p) (hleft : p.left = 0) (harr : p.arr = []) :
    exec .patternLoadEnd s = .next { s with core := { setPat s.core p.slot
      { s.core.pats.toList.getD p.slot ⟨0, 0, 0, 0⟩ with st := if p.ok then 2 else 3, lab := p.lab } with patBusy := none } } := by
  change execPatternLoadEnd s = _
  simp only [execPatternLoadEnd, hp, hleft, harr, ne_eq, not_true_eq_false, if_false, List.foldl_nil]

theorem pats_setPat_same {c : Core} {n : Nat} {p o : PatSlot} (h : (setPat c n p).pats.toList[n]? = some o) : o = p := by
  rw [setPat, Vector.toList_setIfInBounds, List.getElem?_set_self'] at h
  obtain ⟨-, -, rfl⟩ := Option.map_eq_some_iff.1 h
  rfl

/-- Is this effect a write of the port or of the flag register (R80, R284)? -/
def writesPort (e : Eff) : Bool :=
  match e with
  | .z n _ _ => n == 9
  | .sysw n _ => n == 0x801
  | _ => false

theorem writesPort_eq_false {e : Eff} (hz : ∀ x m, e ≠ .z 9 x m) (hf : ∀ v, e ≠ .sysw 0x801 v) : writesPort e = false := by
  cases e with
  | z n x m => exact beq_eq_false_iff_ne.2 fun hn => hz x m (hn ▸ rfl)
  | sysw n x => exact beq_eq_false_iff_ne.2 fun hn => hf x (hn ▸ rfl)
  | _ => rfl

/-- Is this effect a write of the port or of the flag register that is due? -/
def duePort (t : Nat) (e : Pend) : Bool := decide (e.due ≤ t) && writesPort e.eff

theorem blockPortWrite_eq (s : State) : exec .blockPortWrite s =
    let s1 := (s.core.pend.filter (duePort s.core.tick)).foldl applyEff
      { s with core := { s.core with pend := s.core.pend.filter (fun e => !duePort s.core.tick e) } }
    .next { s1 with core := landBlocks s1.core.tick s1.core } := rfl

/-- With no such write due, a due block reaches the port as the state stands. -/
theorem blockPortWrite_only {s : State}
    (h : ∀ e ∈ s.core.pend, e.due ≤ s.core.tick → (∀ x m, e.eff ≠ .z 9 x m) ∧ ∀ v, e.eff ≠ .sysw 0x801 v) :
    exec .blockPortWrite s = .next { s with core := landBlocks s.core.tick s.core } := by
  have hno : ∀ e ∈ s.core.pend, duePort s.core.tick e = false := by
    intro e he
    by_cases hdue : e.due ≤ s.core.tick
    · obtain ⟨hz, hf⟩ := h e he hdue
      rw [duePort, writesPort_eq_false hz hf, Bool.and_false]
    · rw [duePort, decide_eq_false hdue, Bool.false_and]
  have hnone : s.core.pend.filter (duePort s.core.tick) = [] :=
    List.filter_eq_nil_iff.2 fun e he => Bool.not_eq_true _ ▸ hno e he
  have hall : s.core.pend.filter (fun e => !duePort s.core.tick e) = s.core.pend :=
    List.filter_eq_self.2 fun e he => by rw [hno e he]; rfl
  rw [blockPortWrite_eq, hnone, hall]
  rfl

theorem subarrayOn_turnsOn {s : State} {i : BitVec 2} (hpw : s.core.subs[i.toFin].pw = 1) (hcnt : s.core.subs[i.toFin].cnt = 0) :
    exec (.subarrayOn i) s = .next { s with core := { s.core with subs := s.core.subs.set i.toFin ⟨2, 0, 0⟩ } } :=
  congrArg Host.Outcome.next (if_pos ⟨hpw, hcnt⟩)

theorem subarrayIdleOff_turnsOff {s : State} {i : BitVec 2} (hpw : s.core.subs[i.toFin].pw = 2) (hon : s.core.mxIdle ≠ 0)
    (hidle : s.core.mxIdle.toNat ≤ s.core.subs[i.toFin].idle) :
    exec (.subarrayIdleOff i) s = .next { s with core := { s.core with subs := s.core.subs.set i.toFin ⟨0, 0, 0⟩ } } :=
  congrArg Host.Outcome.next (if_pos ⟨hpw, hon, hidle⟩)

/-! ## Tile tasks -/

theorem taskStart_eq {s : State} {k : Nat} {e : BitVec 4} {q : Task} (hn : nextTask (latchTasks s) = some (k, e))
    (hq : (taskQ (latchTasks s))[k]? = some q) :
    exec (.taskStart k) s = .next
      (let t := latchTasks s
      if q.bad.isSome then endTask (setQ t ((taskQ t).eraseIdx k)) q 0 q.bad
      else q.put 0x4C 1 e.toNat (q.put 0x4A 1 2 (setR (setQ t ((taskQ t).eraseIdx k)) (taskR t ++ [{ q with eng := e }])))) := by
  change execTaskStart k s = _
  simp only [execTaskStart, hn, hq, ne_eq, not_true_eq_false, if_false]
  split <;> rfl

theorem taskEnd_writes {s t u : State} {j : Nat} {k : Task} {el : Nat → Nat → Nat × Label} (hj : (taskR s)[j]? = some k)
    (hread : taskCompute k (setR s ((taskR s).eraseIdx j)) = .ok (t, el))
    (hwrite : workGo (taskWrite k el) (tkM k.r * tkN k.r) 0 t = (u, none)) :
    exec (.taskEnd j) s = .next (latchTasks (endTask u k (tkM k.r * tkN k.r * fmtWidth (tkCf k.r) / 8) none)) := by
  change execTaskEnd j s = _
  simp only [execTaskEnd, hj, hread, hwrite, countFail, Option.map_none]

/-! ## A frame that moves -/

theorem frameMove_eq {s : State} {k : Nat} {c : Cmd} (hk : s.core.cmds.findIdx? (fun d => d.kind == .move) = some k)
    (hc : s.core.cmds[k]? = some c) :
    exec .frameMove s = .next
      (let n := (c.geo.getD 0 0).toNat
      let j := (c.geo.getD 1 0).toNat
      let t := moveFrame s (bits c.ctl.toNat 5 2) (c.aa.toNat + 65536 * j) (c.da.toNat + 65536 * j)
      if j + 1 < n then { t with core := { t.core with cmds := t.core.cmds.set k { c with geo := [BitVec.ofNat 64 n, BitVec.ofNat 64 (j + 1)] } } }
      else endCmd { t with core := { t.core with cmds := t.core.cmds.eraseIdx k } } c none none) := by
  change execFrameMove s = _
  simp only [execFrameMove, hk, hc]
  split <;> rfl

/-- The events of engines. -/
theorem engineEventsAct : Claims.EngineEventsAct := by
  intro s
  refine ⟨fun k c t hk hmay hrun htag => ⟨?_, fun hkind => ?_, fun hkind hfirst => ?_⟩, fun p hp hleft harr => ?_, fun t h ht => ?_,
    fun i hpw hcnt => ?_, fun i hpw hon hidle => ?_, fun t k e q ht hn hq => ?_, fun j k t el hj hread u hwrite => ?_,
    fun k c hk hc n j t hn hj ht => ?_⟩
  · exact congrArg Host.Outcome.next (completeCmd_ends hk rfl hmay hrun htag)
  · exact congrArg Host.Outcome.next (completeCmd_ends hk (beq_iff_eq.2 hkind) hmay hrun htag)
  · rw [overlayLoadComplete_eq (findIdx?_first_ovl hk hkind hfirst)]
    exact congrArg Host.Outcome.next (completeCmd_ends hk (beq_iff_eq.2 hkind) hmay hrun htag)
  · refine ⟨_, patternLoadEnd_ends hp hleft harr, rfl, fun o ho => ?_⟩
    have heq := pats_setPat_same ho
    exact heq ▸ ⟨rfl, rfl⟩
  · rw [ht, blockPortWrite_only h]
  · exact ⟨_, subarrayOn_turnsOn hpw hcnt, by simp⟩
  · refine ⟨_, subarrayIdleOff_turnsOff hpw hon hidle, by simp, fun j hj => ?_⟩
    exact Vector.getElem_set_ne i.toFin.isLt j.isLt fun hij => hj (Fin.ext hij.symm)
  · subst ht
    rw [taskStart_eq hn hq]
    refine ⟨fun hb => by simp only [hb, Option.isSome_none, Bool.false_eq_true, if_false], fun hb => ?_⟩
    simp only [Option.isSome_iff_ne_none.2 hb, if_true]
  · exact taskEnd_writes hj hread hwrite
  · subst hn hj ht
    rw [frameMove_eq hk hc]
    refine ⟨fun hlast => congrArg Host.Outcome.next (if_neg (by omega)), fun hmore => ⟨_, congrArg Host.Outcome.next (if_pos hmore), _, rfl⟩⟩

/-! ## The dispatcher -/

/-- A timer wait holds from its deadline on (R18). -/
theorem waitHolds_of_deadline {s : State} {pa : Nat} (hk : rf (readRecord s pa) 0x1D 1 = 7)
    (hd : rf (readRecord s pa) 0x20 9 % 2 ^ 64 ≤ nowNs s) : waitHolds s pa = true := by
  simp only [waitHolds, hk, decide_eq_true hd]

theorem graphActivation_eq {s : State} {g k : Nat} {rest : List (Nat × Nat)} {x : GraphRun} (hs : s.acts = (g, k) :: rest)
    (hx : s.graphs.find? (fun y => y.pa == g) = some x) :
    exec .graphActivation s = .next
      (let t := { s with acts := rest }
      if k < readPa t (g + 2) 2 then activate t x k else graphStuck t x k) := by
  change execGraphActivation s = _
  simp only [execGraphActivation, hs, hx]

/-- The events of the dispatcher. -/
theorem dispatcherEventsAct : Claims.DispatcherEventsAct := by
  intro s
  refine ⟨fun t ht => ?_, fun r hst hw => ?_, fun r hst hk hd => ?_, fun r hr => ?_, fun p k t ht => ?_, fun g k rest hs t ht x hx => ?_⟩
  · exact congrArg (fun x : Option State => Host.Outcome.next (x.getD s)) ht
  · exact congrArg Host.Outcome.next (if_pos ⟨hst, hw⟩)
  · exact congrArg Host.Outcome.next (if_pos ⟨hst, hk, waitHolds_of_deadline hk hd⟩)
  · exact congrArg Host.Outcome.next (if_pos (List.contains_iff_mem.2 hr))
  · exact congrArg (fun x : Option State => Host.Outcome.next (x.getD s)) ht
  · subst ht
    rw [graphActivation_eq hs hx]
    exact ⟨fun hlt => congrArg Host.Outcome.next (if_pos hlt), fun hge => congrArg Host.Outcome.next (if_neg (Nat.not_lt.2 hge))⟩

/-- Settles O43: each event's condition is met, so that the event acts. -/
theorem engineAndDispatcherEventsAct : Obligations.EngineAndDispatcherEventsAct := ⟨engineEventsAct, dispatcherEventsAct⟩

end Sys2Proof.Laws

namespace Sys2Proof.Laws
open Sys2Proof Sys2Proof.Machine

/-! # Taking a trap

What a trap leaves is followed through two views of the state: an access of memory keeps all of the focused core but its stash
(`bare`), and an effect in flight keeps what a trap sets and what it leaves in flight (`trapView`). -/

/-- A fold of operations that keep a view of what they change keeps it. -/
theorem foldl_view {σ α β : Type} (view : σ → β) {f : σ → α → σ} (hf : ∀ t a, view (f t a) = view t) (l : List α) (s : σ) :
    view (l.foldl f s) = view s := by
  induction l generalizing s with
  | nil => rfl
  | cons a l ih => exact (ih (f s a)).trans (hf s a)

/-! ## What an access of memory keeps of the core -/

/-- The number of the focused core, and that core but for its stash. -/
def bare (s : State) : Nat × Core := (s.coreNo, { s.core with stash := [] })

theorem raiseFrame_bare (s : State) (pa : Nat) (l : Label) : bare (raiseFrame s pa l) = bare s := by
  unfold raiseFrame
  split
  · rfl
  split
  · dsimp only
    split <;> rfl
  · rfl

theorem setDir_bare (s : State) (k : Nat) (e : DirEnt) : bare (setDir s k e) = bare s := by
  unfold setDir
  split <;> rfl

theorem settleLine_bare (s : State) (k : Nat) : bare (settleLine s k) = bare s := by
  unfold settleLine
  extract_lets e
  split
  · rfl
  · exact setDir_bare ..

theorem uncacheLine_bare (s : State) (pa : Nat) : bare (uncacheLine s pa) = bare s := by
  unfold uncacheLine
  extract_lets k
  split
  · rw [setDir_bare, settleLine_bare]
  · rfl

theorem snoop_bare (s : State) (pa n : Nat) (keep : Option Nat) : bare (snoop s pa n keep) = bare s := rfl

theorem writePa_bare (s : State) (pa n v : Nat) : bare (writePa s pa n v) = bare s := rfl

theorem engWr_bare (s : State) (pa n v : Nat) (l : Label) : bare (engWr s pa n v l) = bare s := by
  unfold engWr
  extract_lets s1 s2
  have h1 : bare s1 = bare s := by
    unfold s1
    split
    · rfl
    · exact foldl_view bare (fun t a => raiseFrame_bare t a l) _ s
  have h2 : bare s2 = bare s := (snoop_bare s1 pa n none).trans h1
  rw [writePa_bare]
  split
  · exact h2
  · exact (foldl_view bare uncacheLine_bare _ s2).trans h2

theorem walkerWr_bare (s : State) (pa n v : Nat) : bare (walkerWr s pa n v) = bare s := by
  unfold walkerWr
  split
  · exact engWr_bare ..
  · rfl

theorem logAppend_bare (s : State) (desc n entry : Nat) : bare (logAppend s desc n entry) = bare s := by
  unfold logAppend
  split
  · rfl
  extract_lets fl base base' cap next
  split
  · rfl
  split
  · rw [engWr_bare, walkerWr_bare]
  · exact engWr_bare ..

theorem undoCopy_bare (s : State) (desc vf page lvl : Nat) : bare (undoCopy s desc vf page lvl) = bare s := by
  unfold undoCopy
  split
  · rfl
  extract_lets fl cap next db s1 s2
  split
  · rfl
  split
  · rw [engWr_bare, walkerWr_bare, walkerWr_bare]
  · exact engWr_bare ..

theorem updateAd_bare (s : State) (ea pte lvl vf : Nat) (kind : Kind) : bare (updateAd s ea pte lvl vf kind) = bare s := by
  unfold updateAd
  extract_lets w dRise pte' s1 page s2
  have h1 : bare s1 = bare s := by
    unfold s1
    split
    · rfl
    · exact engWr_bare ..
  split
  · rw [logAppend_bare, undoCopy_bare, h1]
  · exact h1

theorem translateMark_bare {s t : State} {va vf part prv size : Nat} {kind : Kind} {x : Xlat}
    (h : translateMark s va vf part prv size kind = .ok (t, x)) : bare t = bare s := by
  unfold translateMark at h
  split at h
  · cases h
  split at h
  · cases h
    rfl
  split at h
  · cases h
  · cases h
    exact updateAd_bare ..

/-! ## Frames -/

theorem countRefusal_bare (s : State) (part : Nat) (l : Label) : bare (countRefusal s part l) = bare s := rfl

theorem loseBytes_bare (s : State) (pa : Option Nat) (n : Nat) : bare (loseBytes s pa n) = bare s := by
  unfold loseBytes
  split
  · split <;> rfl
  · rfl

theorem windowFlit_bare {s t : State} {vf part pa : Nat} {data : List Byte} {l : Label} (h : windowFlit s vf part pa data l = some t) :
    bare t = bare s := by
  unfold windowFlit at h
  split at h
  · cases h
    rfl
  unfold sendFlit at h
  split at h
  · cases h
    rfl
  split at h
  · cases h
    rfl
  · cases h

theorem leavesTo_bare {s t : State} {vf part n v : Nat} {x : Xlat} {l : Label} {atomic : Bool}
    (h : leavesTo s vf part x n v l atomic = some t) : bare t = bare s := by
  obtain ⟨u, hu, rfl⟩ := Option.map_eq_some_iff.1 h
  exact (windowFlit_bare hu :)

theorem frameLine_bare (w : Who) (l : Label) (s : State) (x : Xlat) (n v : Nat) : bare (frameLine w l s x n v).1 = bare s := by
  unfold frameLine
  split
  · exact loseBytes_bare ..
  split
  · split
    · exact engWr_bare ..
    · rw [loseBytes_bare, raiseFrame_bare]
  split
  next h => exact leavesTo_bare h
  next => exact loseBytes_bare ..

theorem frameLines_bare (w : Who) (l : Label) (k : Nat) (s : State) (x : Xlat) (n v : Nat) :
    bare (frameLines w l k s x n v).1 = bare s := by
  induction k generalizing s x n v with
  | zero => rfl
  | succ k ih => exact (ih ..).trans (frameLine_bare ..)

theorem framePut_bare (s : State) (w : Who) (va n v : Nat) (l : Label) : bare (framePut s w va n v l).1 = bare s := by
  unfold framePut
  split
  · exact loseBytes_bare ..
  next h =>
    split
    · exact (engWr_bare ..).trans (translateMark_bare h)
    · exact (frameLines_bare ..).trans (translateMark_bare h)

theorem frameSpan_bare (w : Who) (l : Label) (k : Nat) (s : State) (va n v : Nat) : bare (frameSpan w l k s va n v).1 = bare s := by
  induction k generalizing s va n v with
  | zero => rfl
  | succ k ih =>
    unfold frameSpan
    split
    · rfl
    · exact (ih ..).trans (framePut_bare ..)

theorem frameWrite_bare (w : Who) (frm : Nat) (a : State × Bool) (b : Blk) : bare (frameWrite w frm a b).1 = bare a.1 := by
  unfold frameWrite
  exact frameSpan_bare w b.lab 2 a.1 _ b.size b.val

theorem frameWriteAll_bare (w : Who) (frm : Nat) (s : State) (bs : List Blk) : bare (frameWriteAll w frm s bs).1 = bare s := by
  suffices h : ∀ a : State × Bool, bare (frameWriteGo w frm bs a).1 = bare a.1 from h (s, true)
  induction bs with
  | nil => exact fun a => rfl
  | cons b bs ih => exact fun a => (ih _).trans (frameWrite_bare ..)

/-! ## Records and stages -/

theorem writeRecord_bare (s : State) (pa r : Nat) (l : Label) : bare (writeRecord s pa r l) = bare s := engWr_bare ..

theorem stageAdd_bare (s : State) (part stg off delta : Nat) (l : Label) : bare (stageAdd s part stg off delta l) = bare s := by
  unfold stageAdd
  split
  · rfl
  · exact engWr_bare ..

theorem stageSub_bare (s : State) (part stg off : Nat) : bare (stageSub s part stg off) = bare s := by
  unfold stageSub
  split
  · rfl
  split
  · rfl
  · exact stageAdd_bare ..

theorem stageLeave_bare (s : State) (r : Running) : bare (stageLeave s r) = bare s := by
  unfold stageLeave quiesceCheck
  extract_lets x
  split <;> exact stageSub_bare ..

/-! ## What an effect in flight keeps -/

/-- What a trap sets in a core and what it leaves in flight: the TR registers and the commands. -/
def trOf (c : Core) : BitVec 8 × BitVec 64 × BitVec 72 × List Cmd := (c.trCause, c.trInfo, c.trAddr, c.cmds)

/-- The number of the focused core, its TR registers and its commands. -/
def trapView (s : State) : Nat × BitVec 8 × BitVec 64 × BitVec 72 × List Cmd := (s.coreNo, trOf s.core)

theorem trapView_of_bare {s t : State} (h : bare t = bare s) : trapView t = trapView s :=
  congrArg (fun b : Nat × Core => (b.1, trOf b.2)) h

theorem trapView_setCore {s : State} {c : Core} (h : trOf c = trOf s.core) : trapView { s with core := c } = trapView s :=
  congrArg (Prod.mk s.coreNo) h

theorem setPart_trapView (s : State) (p : Nat) (x : Part) : trapView (setPart s p x) = trapView s := rfl

theorem setVf_trapView (s : State) (v : Nat) (x : VfEnt) : trapView (setVf s v x) = trapView s := rfl

theorem updCore_trapView (s : State) (n : Nat) {f : Core → Core} (hf : ∀ c, trOf (f c) = trOf c) : trapView (updCore s n f) = trapView s := by
  unfold updCore
  split
  · exact trapView_setCore (hf s.core)
  · rfl

theorem trOf_setCtx (c : Core) (i : Nat) (x : TagCtx) : trOf (c.setCtx i x) = trOf c := rfl

theorem trOf_wrS (c : Core) (n : BitVec 5) (x : Word) (l : Label) : trOf (c.wrS n x l) = trOf c := by
  unfold Core.wrS
  split <;> rfl

theorem trOf_wrP (c : Core) (n : BitVec 4) (x : Bool) (l : Label) : trOf (c.wrP n x l) = trOf c := by
  unfold Core.wrP
  split <;> rfl

theorem trOf_wrM (c : Core) (n : BitVec 3) (x y : BitVec 1024) (k : Bool) (l : Label) : trOf (c.wrM n x y k l) = trOf c := by
  unfold Core.wrM
  split <;> rfl

theorem trOf_wrZ (c : Core) (n : Nat) (x y : BitVec 65536) (l : Label) : trOf (c.wrZ n x y l) = trOf c := by
  unfold Core.wrZ
  split <;> rfl

theorem trOf_fetchBt (c : Core) (k : BitVec 2) : trOf (fetchBt c k) = trOf c := by
  unfold fetchBt
  extract_lets b
  split <;> rfl

theorem trOf_arriveAt (c : Core) (n : BitVec 4) (vf : Nat) (l : Label) : trOf (arriveAt c n vf l) = trOf c := by
  unfold arriveAt
  split
  · rfl
  extract_lets u cnt lab arr err
  split
  · rfl
  split <;> rfl

theorem arrive_trapView (s : State) (a : Arrival) (l : Label) : trapView (arrive s a l) = trapView s := by
  unfold arrive
  split
  · exact updCore_trapView s _ fun c => trOf_arriveAt ..
  · exact trapView_setCore (trOf_arriveAt ..)

theorem writeHome_bare (s : State) (l : StashLine) : bare (writeHome s l) = bare s := by
  unfold writeHome
  split
  · exact setDir_bare ..
  · rfl

theorem letGo_bare (s : State) (die k : Nat) : bare (letGo s die k) = bare s := by
  unfold letGo
  split
  · rfl
  · exact setDir_bare ..

theorem dropLines_bare (s : State) (p : Nat × StashLine → Bool) : bare (dropLines s p) = bare s := by
  unfold dropLines
  exact foldl_view bare (fun t l => (letGo_bare ..).trans (writeHome_bare ..)) _ _

theorem dropWays_bare (s : State) (die lo hi : Nat) : bare (dropWays s die lo hi) = bare s := by
  unfold dropWays
  refine foldl_view bare (fun t e => ?_) _ s
  rw [letGo_bare]
  rfl

/-- No system register that a program writes is a TR register (R131, R132). -/
theorem sysWrite_trapView (s : State) (n : Nat) (v : Word) (l : Label) : trapView (sysWrite s n v l) = trapView s := by
  unfold sysWrite
  extract_lets c pn p cr pr nv c1 s1 src src' old new s1' first k src''
  have h1 : trapView s1 = trapView s := trapView_of_bare (dropLines_bare s _)
  have h2 : trapView s1' = trapView s := trapView_of_bare (dropWays_bare s _ _ _)
  split
  case h_2 =>
    dsimp only [cr]
    split <;> rfl
  case h_4 => exact h1
  case h_5 => exact trapView_setCore (trOf_setCtx ..)
  case h_8 => exact h2
  case h_6 | h_7 | h_10 | h_14 | h_15 | h_16 | h_17 | h_18 | h_19 | h_20 | h_21 | h_22 | h_26 => exact setPart_trapView ..
  case h_23 => exact setVf_trapView ..
  case h_24 =>
    split
    · refine updCore_trapView s _ fun c => ?_
      split <;> rfl
    · rfl
  all_goals dsimp only [trapView, trOf, cr]

theorem applyEff_trapView (s : State) (e : Pend) : trapView (applyEff s e) = trapView s := by
  unfold applyEff
  extract_lets c cr c1
  split
  case h_1 => exact trapView_setCore (trOf_wrS ..)
  case h_2 => exact trapView_setCore (trOf_wrS ..)
  case h_4 => exact trapView_setCore (trOf_wrP ..)
  case h_7 => exact trapView_setCore (trOf_wrM ..)
  case h_9 => exact trapView_setCore (trOf_wrZ ..)
  case h_16 => exact arrive_trapView ..
  case h_17 => exact sysWrite_trapView ..
  case h_19 => exact trapView_setCore (foldl_view trOf (fun k j => trOf_wrP ..) _ _)
  case h_20 => exact trapView_setCore (trOf_wrP ..)
  case h_22 => exact trapView_setCore (trOf_fetchBt ..)
  case h_27 =>
    refine foldl_view trapView (fun t n => ?_) _ s
    exact updCore_trapView t n fun _ => rfl
  all_goals exact trapView_setCore rfl

/-! ## Suspending -/

theorem trOf_portBlock (c : Core) (b : Block) : trOf (portBlock c b) = trOf c := rfl

theorem trOf_landBlocks (t : Nat) (c : Core) : trOf (landBlocks t c) = trOf c := by
  unfold landBlocks
  exact foldl_view trOf trOf_portBlock _ _

theorem landDue_trapView (t : Nat) (s : State) : trapView (landDue t s) = trapView s := by
  unfold landDue
  exact foldl_view trapView applyEff_trapView _ _

theorem trOf_releaseCtx (c : Core) : trOf (releaseCtx c).1 = trOf c := by
  unfold releaseCtx
  extract_lets x
  split <;> rfl

/-- Its callees stand as variables with what they keep: the kernel would otherwise run them to compare two forms of the term. -/
theorem saveFrame_trapView (s : State) (cause ql : Nat) : trapView (saveFrame s cause ql).1 = trapView s := by
  have hland := landDue_trapView
  have happly := applyEff_trapView
  have hblocks := trOf_landBlocks
  have hrelease := trOf_releaseCtx
  have hwrite := frameWriteAll_bare
  generalize hf : saveFrame = f
  delta saveFrame at hf
  generalize landDue = land at hf hland
  generalize applyEff = apply at hf happly
  generalize landBlocks = blocks at hf hblocks
  generalize releaseCtx = release at hf hrelease
  generalize frameWriteAll = write at hf hwrite
  revert land apply blocks release write
  refine id ?_
  rintro land hland apply happly blocks hblocks release hrelease write rfl hwrite
  refine (trapView_of_bare (hwrite ..)).trans ((trapView_setCore (hrelease _)).trans ((foldl_view trapView happly _ _).trans ?_))
  exact (trapView_setCore (s := land s.core.tick s) (hblocks ..)).trans (hland ..)

/-- After its suspension a core has no continuation and nothing in flight (R141, R142), and the cause to post is 0x14 where the frame could
not be written (R537). Its callee stands as a variable, as in `saveFrame_trapView`. -/
theorem suspendQuiet_leaves (s : State) (cause ql : Nat) :
    trapView (suspendQuiet s cause ql).1 = trapView s ∧ (suspendQuiet s cause ql).1.core.run = none
      ∧ (suspendQuiet s cause ql).1.core.pend = []
      ∧ (suspendQuiet s cause ql).2 = if (saveFrame s cause ql).2.ok then cause else 0x14 := by
  have hsave := saveFrame_trapView
  generalize hf : suspendQuiet = f
  delta suspendQuiet at hf
  generalize saveFrame = save at hf hsave ⊢
  revert save
  refine id ?_
  rintro save rfl hsave
  have hidle (t u : State) (h : bare t = bare { u with core := leaveCore u.core }) : trapView t = trapView u
      ∧ t.core.run = none ∧ t.core.pend = [] :=
    ⟨(trapView_of_bare h).trans (trapView_setCore rfl), congrArg (fun b : Nat × Core => b.2.run) h,
      congrArg (fun b : Nat × Core => b.2.pend) h⟩
  have hrecord (u : State) (pa r : Nat) : trapView (writeRecord u pa r) = trapView u := trapView_of_bare (writeRecord_bare ..)
  grind [stageLeave_bare]

/-! ## The post, and the trap -/

theorem postRecord_core (s : State) (r : Running) (cause info : Nat) :
    (postRecord s r cause info).core = s.core ∧ (postRecord s r cause info).coreNo = s.coreNo := by
  unfold postRecord mcAppend
  split
  · split <;> exact ⟨rfl, rfl⟩
  · exact ⟨rfl, rfl⟩

theorem postRecord_posts {s : State} {r : Running} (h : r.prv < 2) (cause info : Nat) :
    (postRecord s r cause info).posts = s.posts ++ [⟨r.part, r.pa, cause, s.coreNo⟩] := by
  rw [postRecord, if_neg (by omega)]

/-- The state in which the continuation is suspended: a refusal of the gate is counted (R472), and the TR registers are set (R34). -/
def trapSet (s : State) (c info addr : Nat) : State :=
  let u := if c = 0xC then countRefusal s s.core.cont.part (BitVec.ofNat 32 (info >>> 32)) else s
  { u with core := setTr u.core c info addr }

theorem trapSet_core (s : State) (c info addr : Nat) :
    (trapSet s c info addr).core = setTr s.core c info addr ∧ (trapSet s c info addr).coreNo = s.coreNo := by
  unfold trapSet
  split <;> exact ⟨rfl, rfl⟩

/-- Its callee stands as a variable, as in `saveFrame_trapView`. -/
theorem urgentSuspend_eq (s : State) (cause info ql : Nat) :
    urgentSuspend s cause info ql = postRecord (suspendQuiet s cause ql).1 s.core.cont (suspendQuiet s cause ql).2 info := by
  generalize hf : urgentSuspend = f
  delta urgentSuspend at hf
  generalize suspendQuiet = suspend at hf ⊢
  revert suspend
  refine id ?_
  rintro suspend rfl
  rfl

/-- Outside a quad-lock a trap suspends the one continuation. Its callee stands as a variable, as in `saveFrame_trapView`. -/
theorem takeTrap_unlocked {s : State} {c : Nat} (hl : s.core.locked = false) (hc : c ≠ 0) (info addr : Nat) :
    takeTrap s c info addr = setMark (urgentSuspend (trapSet s c info addr) c info 0) (.trapped c info addr) := by
  have hul : (if c = 0xC then countRefusal s s.core.cont.part (BitVec.ofNat 32 (info >>> 32)) else s).core.locked = false := by
    split <;> exact hl
  generalize hf : takeTrap = f
  delta takeTrap takeTraps at hf
  unfold trapSet
  generalize urgentSuspend = suspend at hf ⊢
  revert suspend
  refine id ?_
  rintro suspend rfl
  simp only [if_neg hc, hul, Bool.false_eq_true, if_false]
  rfl

theorem trapView_coreNo {t : State} {n : Nat} {x : BitVec 8 × BitVec 64 × BitVec 72 × List Cmd} (h : trapView t = (n, x)) : t.coreNo = n :=
  congrArg Prod.fst h

/-- The post of a record changes nothing on the core but the mark that its trap leaves. -/
theorem setMark_postRecord (q : State) (r : Running) (k info : Nat) (m : Mark) :
    trapView (setMark (postRecord q r k info) m) = trapView q ∧ (setMark (postRecord q r k info) m).core.run = q.core.run
      ∧ (setMark (postRecord q r k info) m).core.pend = q.core.pend
      ∧ (r.prv < 2 → (setMark (postRecord q r k info) m).posts = q.posts ++ [⟨r.part, r.pa, k, q.coreNo⟩]) := by
  obtain ⟨hcore, hno⟩ := postRecord_core q r k info
  exact ⟨congrArg₂ (fun n (c : Core) => (n, trOf { c with mark := m })) hno hcore, (congrArg Core.run hcore :),
    (congrArg Core.pend hcore :), fun h => postRecord_posts h k info⟩

/-- A trap outside a quad-lock: what the core holds, and the post of a U or H record. -/
theorem takeTrap_leaves {s : State} {r : Running} {c : Nat} (hrun : s.core.run = some r) (hl : s.core.locked = false) (hc : c ≠ 0)
    (info addr : Nat) :
    trapView (takeTrap s c info addr) = (s.coreNo, trOf (setTr s.core c info addr))
      ∧ (takeTrap s c info addr).core.run = none ∧ (takeTrap s c info addr).core.pend = []
      ∧ (r.prv < 2 → (takeTrap s c info addr).posts = (suspendQuiet (trapSet s c info addr) c 0).1.posts
          ++ [⟨r.part, r.pa, if (saveFrame (trapSet s c info addr) c 0).2.ok then c else 0x14, s.coreNo⟩]) := by
  obtain ⟨hcore, hno⟩ := trapSet_core s c info addr
  have hcont : (trapSet s c info addr).core.cont = r := by rw [hcore]; simp only [setTr, Core.cont, hrun, Option.getD_some]
  have hset : trapView (trapSet s c info addr) = (s.coreNo, trOf (setTr s.core c info addr)) := by rw [trapView, hcore, hno]
  obtain ⟨hview, hidle, hpend, hcause⟩ := suspendQuiet_leaves (trapSet s c info addr) c 0
  obtain ⟨hpview, hprun, hppend, hposts⟩ := setMark_postRecord (suspendQuiet (trapSet s c info addr) c 0).1 r
    (suspendQuiet (trapSet s c info addr) c 0).2 info (.trapped c info addr)
  have hq : (suspendQuiet (trapSet s c info addr) c 0).1.coreNo = s.coreNo := trapView_coreNo (hview.trans hset)
  rw [hq] at hposts
  rw [takeTrap_unlocked hl hc, urgentSuspend_eq, hcont, ← hcause]
  exact ⟨hpview.trans (hview.trans hset), hprun.trans hidle, hppend.trans hpend, hposts⟩

theorem tr_of_trapView {t : State} {n c info addr : Nat} {k : Core} (h : trapView t = (n, trOf (setTr k c info addr))) :
    (t.core.trCause = BitVec.ofNat 8 c ∧ t.core.trInfo = BitVec.ofNat 64 info ∧ t.core.trAddr = BitVec.ofNat 72 addr)
      ∧ t.core.cmds = k.cmds := by
  simp only [trapView, trOf, setTr, Prod.mk.injEq] at h
  obtain ⟨-, hcause, hinfo, haddr, hcmds⟩ := h
  exact ⟨⟨hcause, hinfo, haddr⟩, hcmds⟩

/-- The cause posted, by whether the frame was written (`wrote`, a function of the state that is suspended). -/
theorem cause_of_frame {s : State} {r : Running} (hrun : s.core.run = some r) (c info addr : Nat) (wrote : State → Bool) (u : State)
    (ok : Bool) (hu : u = (if c = 0xC then countRefusal s r.part (BitVec.ofNat 32 (info >>> 32)) else s))
    (hok : ok = wrote { u with core := setTr u.core c info addr }) :
    (ok = true → (if wrote (trapSet s c info addr) then c else 0x14) = c)
      ∧ (ok = false → (if wrote (trapSet s c info addr) then c else 0x14) = 0x14) := by
  have hset : trapSet s c info addr = { u with core := setTr u.core c info addr } := by
    rw [trapSet, hu, Core.cont, hrun, Option.getD_some]
  rw [hset, ← hok]
  cases ok <;> simp

/-- Settles O60: the suspension and the post keep the TR registers and the commands that the trap finds set, and the cause posted is
the trap's own unless the frame could not be written. -/
theorem trapsSuspendAndPost : Obligations.TrapsSuspendAndPost := by
  rintro s r c info addr hrun hlocked hc - t ht
  obtain ⟨hview, hidle, hpend, hposts⟩ := takeTrap_leaves hrun hlocked hc info addr
  have hmark := takeTrap_mark s c info addr
  rw [← ht] at hview hidle hpend hposts hmark
  obtain ⟨htr, hcmds⟩ := tr_of_trapView hview
  exact ⟨htr, hidle, hpend, hcmds, hmark, fun hprv =>
    ⟨_, _, hposts hprv, cause_of_frame hrun c info addr fun v => (saveFrame v c 0).2.ok⟩⟩

end Sys2Proof.Laws

namespace Sys2Proof.Laws.Encoding
set_option Elab.async false
open Sys2Proof Sys2Proof.Machine

/-! # Every word decodes to itself -/

/-- Constructor by constructor, in the order of their declaration: events have no word, and of them there is nothing to say. -/
theorem statement (i : Instr) : Statement i :=
  Instr.casesOn i
    jxRecv jxSend jxWait jxEnd jxEcreate jxEload jxEpark jxMabort jxWaitResume claim landingArrival landingTimeout safePointOverrun trap
    faultQueuePost sliceEnd priorityPreemption waitConditionMet waitDeadline readyTableAdmit spinSuspend heldGroupIssue barrierArrival pageWalk rds
    rdx upg wbd evc fwds fwdx inv dat cmpMessage ack don dieLinkFailure uncorrectableError correctableError commandCompletion overlayLoadComplete
    cpCszWrite fpSeedWrite fpVcfgWrite fpModeWrite patternLoadEnd blockPortWrite subarrayIdleOff subarrayOn mxPoolWrite taskStart taskEnd nodePull
    takeDelivery configRefill clRingWrite instructionBudgetExpiry wallBudgetExpiry episodeWipeComplete jwi jackWrite poolSlotEnqueue graphActivation
    dsAbortGo policyInstallComplete scrubLine frameMove mediaEntryTake mediaDecode mediaFlush mediaReset mediaCompletion msCtlWrite hostMemoryRead
    hostMemoryWrite hostAtomic spdmGetVersion spdmGetCapabilities spdmNegotiateAlgorithms spdmGetDigests spdmGetCertificate spdmChallenge
    spdmGetMeasurements spdmKeyExchange spdmFinish spdmEndSession mbVersion mbImageWrite mbImageCommit mbLifeCycleTransition mbThrottle mbLogDrain
    mcHeadWrite msiRaise deviceRegisterWrite qlTrain qlEnableWrite qlTrainComplete quaylinkFlit quaylinkPortDown coldReset boot thermalThrottle
    powerLimitThrottle hartInstruction machineTimerInterrupt thermalThrottleRelease powerLimitRelease add sub mul mulh mulhn div divn rem remn and or
    xor andn shl shr sar min max minn maxn clz ctz popc rotl addi andi ori xori shli shri sari muli li lic cmpEq cmpNe cmpLt cmpGe cmpLtn cmpGen
    cmpTand cmpTnand cmpiEq cmpiNe cmpiLt cmpiGe cmpiLtn cmpiGen cmpiTbit cmpiTnbit aadd aaddi asub aset ahi aalign aget ldI8 ldI16 ldI32 ldD ldN8
    ldN16 ldN32 stB stH stW stD ldt stt vldt vstt amoAdd amoAnd amoOr amoXor amoMin amoMax amoMinn amoMaxn amoSwap amoCas br brv prep prepa brl lbNest
    lbExit fence bind unbind acq rel bwait binit twAny twAll twFfr mwait safe suspend yield retire svc brk sysrd syswr rfe qlock qfree arv vld vlds
    vldx vldb vst vsts vstx vadd vsub vmul vmulh vand vor vxor vshl vshr vsar vmin vmax vadds vsubs vabs vmadw vfadd vfsub vfmul vfma vfms vfnma vfmin
    vfmax vfabs vfneg vcmpEq vcmpNe vcmpLt vcmpGe vfcmpEq vfcmpNe vfcmpLt vfcmpGe vsel mand mor mxor mnot mcnt mffs vcvt vcvtw vcvtn vperm vslide
    vredsum vfredsum vredmax vredmin vext vins vbcast vrcp vrsqrt vsqrt vexp2 vlog2 vclipq vnormq vrot stgset stgshift bnLd bnRt bnRto bnInv bnRd
    skInit skQadd skHadd skDadd skMerge skCompact skQuant skRank skTop skCard skSeal skChk mxMma mxProm mxProme mxZero mxZld mxZst mxZcvt mxZadd mxScl
    mxWsel mxWake mxGate mxTask mxTstat mxTkill mxQsplit mxFence mxCfg cpCopy cpLdt cpStt cpFill cpMap cpUnmap cpFlush cpInval cpWfill cpOvl cpSpill
    cpUnspill cpBcnt cpTclr clTmk clTfree clPost clTake clFrz clThaw clSave clRst clEditRemove clEditAdd clReshard clQuery clMcast clBar clAbort
    evSend evRecv evGather evOpen evClose dsLaunch dsLaunchW dsQpush dsQpop dsCondSet dsCondAdd dsCondOr dsCondAnd dsGstart dsGstop dsWake dsPrio
    dsQuery tlInv tlInva tlProbe tlRoot tlHash tlDlog ptQuiesce ptResume ptStateRead ptLayout ptVfsetAssign ptVfsetRelease ptWays ptMove ptRetire
    ptFlr gtLset gtParty gtReleaseInstall gtReleaseRevoke gtReleaseApply

end Sys2Proof.Laws.Encoding

namespace Sys2Proof.Laws
set_option Elab.async false
open Sys2Proof Sys2Proof.Machine

/-- Settles O50: every instruction meets its statement of the encoding. -/
theorem decodingUndoesEncoding : Obligations.DecodingUndoesEncoding := Encoding.statement

/-- Settles O49: the decoder is run on each word. -/
theorem wordsDecodeAsTheirLayoutsSay : Obligations.WordsDecodeAsTheirLayoutsSay := by
  unfold Obligations.WordsDecodeAsTheirLayoutsSay
  decide

end Sys2Proof.Laws

namespace Sys2Proof.Laws
set_option Elab.async false
open Sys2Proof Sys2Proof.Machine

/-! # No bit of a word that decodes is dropped

A decoded instruction takes each of its operands from a field of the word, and encoding puts each back at its
place. The list given to `faithful_accept` for a format is that of the moduli of its fields, from bit 0 up to
bit 30; what remains of a format is then that the sum of its fields is what `encode` writes. -/

/-- A word whose fields, from bit 0 up, have the moduli `bs`: each at its place, from place p on. -/
@[simp] def fieldSum : List Nat → Nat → Nat → Nat
  | [], _, _ => 0
  | b :: bs, p, w => w / p % b * p + fieldSum bs (p * b) w

theorem fieldSum_eq : ∀ (bs : List Nat) (p w : Nat), fieldSum bs p w = w / p % bs.prod * p
  | [], p, w => by simp [fieldSum, Nat.mod_one]
  | b :: bs, p, w => by
    rw [fieldSum, fieldSum_eq, List.prod_cons, Nat.mod_mul, Nat.div_div_eq_div_mul]
    ring

/-- What r decodes w to encodes to w without its stop bit, and is well formed. -/
def Faithful (w : Nat) (r : Except DecodeError Instr) : Prop := ∀ i, r = .ok i → encode i = w % 2 ^ 31 ∧ i.wellFormed = true

section
variable {w : Nat}

theorem faithful_error {e : DecodeError} : Faithful w (.error e) := nofun

theorem faithful_accept {z : Bool} {j : Instr} (bs : List Nat) (hbs : bs.prod = 2 ^ 31) (h : z = true → encode j = fieldSum bs 1 w) :
    Faithful w (accept z j) := by
  intro i hi
  unfold accept at hi
  split at hi
  case isFalse => cases hi
  case isTrue hz =>
    split at hi
    case isFalse => cases hi
    case isTrue hwf =>
      cases hi
      exact ⟨by rw [h hz, fieldSum_eq, hbs, Nat.div_one, Nat.mul_one], hwf⟩

theorem decode00_faithful (hmaj : w / 67108864 % 32 = 0) : Faithful w (decode00 w) := by
  unfold decode00
  split
  case h_25 => exact faithful_error
  all_goals
    refine faithful_accept [32, 32, 32, 128, 16, 32] rfl fun hz => ?_
    unfold encode
    simp_all
    ring

theorem decode01_faithful (hmaj : w / 67108864 % 32 = 1) : Faithful w (decode01 w) := by
  unfold decode01
  split
  case h_9 => exact faithful_error
  case' h_5 | h_6 | h_7 => refine faithful_accept [64, 8, 32, 32, 8, 16, 32] rfl fun hz => ?_
  case' h_1 | h_2 | h_3 | h_4 | h_8 => refine faithful_accept [512, 32, 32, 8, 16, 32] rfl fun hz => ?_
  all_goals
    unfold encode
    simp_all
    ring

theorem decode02_faithful (hmaj : w / 67108864 % 32 = 2) : Faithful w (decode02 w) := by
  unfold decode02
  split
  case h_3 => exact faithful_error
  all_goals
    refine faithful_accept [32768, 32, 4, 16, 32] rfl fun hz => ?_
    unfold encode
    simp_all
    ring

theorem decode03_faithful (hmaj : w / 67108864 % 32 = 3) : Faithful w (decode03 w) := by
  unfold decode03
  split
  case h_9 => exact faithful_error
  all_goals
    refine faithful_accept [32, 32, 16, 4, 8, 8, 16, 32] rfl fun hz => ?_
    unfold encode
    simp_all
    ring

theorem decode04_faithful (hmaj : w / 67108864 % 32 = 4) : Faithful w (decode04 w) := by
  unfold decode04
  split
  case h_9 => exact faithful_error
  case' h_7 | h_8 => refine faithful_accept [64, 4, 32, 8, 8, 8, 16, 32] rfl fun hz => ?_
  case' h_1 | h_2 | h_3 | h_4 | h_5 | h_6 => refine faithful_accept [256, 32, 8, 8, 8, 16, 32] rfl fun hz => ?_
  all_goals
    unfold encode
    simp_all
    ring

theorem decode05_faithful (hmaj : w / 67108864 % 32 = 5) : Faithful w (decode05 w) := by
  unfold decode05
  split
  case h_8 => exact faithful_error
  case' h_1 => refine faithful_accept [32, 32, 16, 16, 16, 16, 32] rfl fun hz => ?_
  case' h_2 => refine faithful_accept [1024, 16, 16, 16, 16, 32] rfl fun hz => ?_
  case' h_3 => refine faithful_accept [32, 16, 16, 32, 16, 16, 32] rfl fun hz => ?_
  case' h_4 => refine faithful_accept [512, 32, 16, 16, 16, 32] rfl fun hz => ?_
  case' h_5 => refine faithful_accept [64, 256, 16, 16, 16, 32] rfl fun hz => ?_
  case' h_6 => refine faithful_accept [16, 64, 16, 16, 16, 16, 32] rfl fun hz => ?_
  case' h_7 => refine faithful_accept [256, 2, 16, 32, 16, 16, 32] rfl fun hz => ?_
  all_goals
    unfold encode
    simp_all
    ring

theorem decode06_faithful (hmaj : w / 67108864 % 32 = 6) : Faithful w (decode06 w) := by
  unfold decode06
  split
  case h_8 => exact faithful_error
  all_goals
    refine faithful_accept [32, 32, 16, 32, 8, 16, 32] rfl fun hz => ?_
    unfold encode
    simp_all
    ring

theorem decode07_faithful (hmaj : w / 67108864 % 32 = 7) : Faithful w (decode07 w) := by
  unfold decode07
  split
  case h_5 => exact faithful_error
  all_goals
    refine faithful_accept [1024, 16, 32, 8, 16, 32] rfl fun hz => ?_
    unfold encode
    simp_all
    ring

theorem decode08_faithful (hmaj : w / 67108864 % 32 = 8) : Faithful w (decode08 w) := by
  unfold decode08
  split
  case h_5 => exact faithful_error
  case' h_1 | h_3 => refine faithful_accept [32, 2, 16, 16, 32, 8, 16, 32] rfl fun hz => ?_
  case' h_2 | h_4 => refine faithful_accept [4, 8, 2, 16, 16, 32, 8, 16, 32] rfl fun hz => ?_
  all_goals
    unfold encode
    simp_all
    ring

theorem decode09_faithful (hmaj : w / 67108864 % 32 = 9) : Faithful w (decode09 w) := by
  unfold decode09
  split
  case h_11 => exact faithful_error
  all_goals
    refine faithful_accept [8, 2, 32, 16, 32, 16, 16, 32] rfl fun hz => ?_
    unfold encode
    simp_all
    ring

theorem decode0A_faithful (hmaj : w / 67108864 % 32 = 10) : Faithful w (decode0A w) := by
  unfold decode0A
  split
  case h_8 => exact faithful_error
  case' h_2 => refine faithful_accept [1024, 2, 4, 8, 4, 16, 16, 32] rfl fun hz => ?_
  case' h_6 => refine faithful_accept [32, 64, 8, 16, 16, 16, 32] rfl fun hz => ?_
  case' h_7 => refine faithful_accept [262144, 16, 16, 32] rfl fun hz => ?_
  case' h_1 | h_3 => refine faithful_accept [65536, 4, 16, 16, 32] rfl fun hz => ?_
  case' h_4 | h_5 => refine faithful_accept [4096, 16, 4, 16, 16, 32] rfl fun hz => ?_
  all_goals
    unfold encode
    simp_all
    ring

theorem decode0B_faithful (hmaj : w / 67108864 % 32 = 11) : Faithful w (decode0B w) := by
  unfold decode0B
  split
  case h_12 => exact faithful_error
  case' h_1 => refine faithful_accept [4096, 4, 8, 32, 16, 32] rfl fun hz => ?_
  case' h_2 => refine faithful_accept [16, 16, 32, 16, 32, 16, 32] rfl fun hz => ?_
  case' h_7 => refine faithful_accept [256, 32, 16, 32, 16, 32] rfl fun hz => ?_
  case' h_11 => refine faithful_accept [128, 32, 16, 2, 32, 16, 32] rfl fun hz => ?_
  case' h_3 | h_6 => refine faithful_accept [8192, 16, 32, 16, 32] rfl fun hz => ?_
  case' h_4 | h_5 => refine faithful_accept [1024, 16, 8, 32, 16, 32] rfl fun hz => ?_
  case' h_8 | h_9 | h_10 => refine faithful_accept [64, 32, 32, 2, 32, 16, 32] rfl fun hz => ?_
  all_goals
    unfold encode
    simp_all
    ring

theorem decode0C_faithful (hmaj : w / 67108864 % 32 = 12) : Faithful w (decode0C w) := by
  unfold decode0C
  split
  case h_13 => exact faithful_error
  case' h_9 => refine faithful_accept [8, 32, 32, 16, 32, 16, 32] rfl fun hz => ?_
  case' h_12 => refine faithful_accept [128, 16, 4, 2, 8, 32, 16, 32] rfl fun hz => ?_
  case' h_1 | h_5 | h_6 => refine faithful_accept [65536, 2, 32, 16, 32] rfl fun hz => ?_
  case' h_3 | h_4 | h_11 => refine faithful_accept [131072, 32, 16, 32] rfl fun hz => ?_
  case' h_2 | h_7 | h_8 | h_10 => refine faithful_accept [4096, 32, 32, 16, 32] rfl fun hz => ?_
  all_goals
    unfold encode
    simp_all
    ring

theorem decode0D_faithful (hmaj : w / 67108864 % 32 = 13) : Faithful w (decode0D w) := by
  unfold decode0D
  split
  case h_5 => exact faithful_error
  all_goals
    refine faithful_accept [4, 32, 16, 32, 64, 8, 2, 32] rfl fun hz => ?_
    unfold encode
    simp_all
    ring

theorem decode0E_faithful (hmaj : w / 67108864 % 32 = 14) : Faithful w (decode0E w) := by
  unfold decode0E
  split
  case h_4 => exact faithful_error
  case' h_1 => refine faithful_accept [128, 16, 32, 64, 8, 2, 32] rfl fun hz => ?_
  case' h_2 => refine faithful_accept [32, 4, 16, 32, 64, 8, 2, 32] rfl fun hz => ?_
  case' h_3 => refine faithful_accept [4, 32, 16, 32, 64, 8, 2, 32] rfl fun hz => ?_
  all_goals
    unfold encode
    simp_all
    ring

theorem decode0F_faithful (hmaj : w / 67108864 % 32 = 15) : Faithful w (decode0F w) := by
  unfold decode0F
  split
  case h_17 => exact faithful_error
  case' h_15 => refine faithful_accept [64, 32, 32, 64, 8, 2, 32] rfl fun hz => ?_
  case' h_1 | h_2 | h_3 | h_4 | h_5 | h_6 | h_7 | h_8 | h_9 | h_10 | h_11 | h_12 | h_13 | h_14 | h_16 =>
    refine faithful_accept [2, 32, 32, 32, 64, 8, 2, 32] rfl fun hz => ?_
  all_goals
    unfold encode
    simp_all
    ring

theorem decode10_faithful (hmaj : w / 67108864 % 32 = 16) : Faithful w (decode10 w) := by
  unfold decode10
  split
  case h_11 => exact faithful_error
  case' h_9 | h_10 => refine faithful_accept [64, 32, 32, 64, 8, 2, 32] rfl fun hz => ?_
  case' h_1 | h_2 | h_3 | h_4 | h_5 | h_6 | h_7 | h_8 => refine faithful_accept [2, 32, 32, 32, 64, 8, 2, 32] rfl fun hz => ?_
  all_goals
    unfold encode
    simp_all
    ring

theorem decode11_faithful (hmaj : w / 67108864 % 32 = 17) : Faithful w (decode11 w) := by
  unfold decode11
  split
  case h_1 =>
    split
    case h_5 => exact faithful_error
    all_goals
      refine faithful_accept [2, 4, 32, 32, 8, 64, 8, 2, 32] rfl fun hz => ?_
      unfold encode
      simp_all
      ring
  case h_2 =>
    split
    case h_5 => exact faithful_error
    all_goals
      refine faithful_accept [2, 4, 32, 32, 8, 64, 8, 2, 32] rfl fun hz => ?_
      unfold encode
      simp_all
      ring
  case h_10 => exact faithful_error
  case' h_3 => refine faithful_accept [2, 32, 32, 32, 64, 8, 2, 32] rfl fun hz => ?_
  case' h_7 => refine faithful_accept [1024, 8, 8, 64, 16, 32] rfl fun hz => ?_
  case' h_8 | h_9 => refine faithful_accept [256, 8, 32, 64, 16, 32] rfl fun hz => ?_
  case' h_4 | h_5 | h_6 => refine faithful_accept [128, 8, 8, 8, 64, 16, 32] rfl fun hz => ?_
  all_goals
    unfold encode
    simp_all
    ring

theorem decode12_faithful (hmaj : w / 67108864 % 32 = 18) : Faithful w (decode12 w) := by
  unfold decode12
  split
  case h_4 => exact faithful_error
  all_goals
    refine faithful_accept [64, 32, 32, 64, 8, 2, 32] rfl fun hz => ?_
    unfold encode
    simp_all
    ring

theorem decode13_faithful (hmaj : w / 67108864 % 32 = 19) : Faithful w (decode13 w) := by
  unfold decode13
  split
  case h_10 => exact faithful_error
  case' h_1 | h_2 => refine faithful_accept [2, 32, 32, 32, 64, 8, 2, 32] rfl fun hz => ?_
  case' h_7 | h_8 => refine faithful_accept [2, 32, 32, 32, 64, 16, 32] rfl fun hz => ?_
  case' h_3 | h_4 | h_5 | h_6 | h_9 => refine faithful_accept [64, 32, 32, 64, 8, 2, 32] rfl fun hz => ?_
  all_goals
    unfold encode
    simp_all
    ring

theorem decode14_faithful (hmaj : w / 67108864 % 32 = 20) : Faithful w (decode14 w) := by
  unfold decode14
  split
  case h_8 => exact faithful_error
  case' h_6 | h_7 => refine faithful_accept [2, 32, 32, 32, 64, 8, 2, 32] rfl fun hz => ?_
  case' h_1 | h_2 | h_3 | h_4 | h_5 => refine faithful_accept [64, 32, 32, 64, 8, 2, 32] rfl fun hz => ?_
  all_goals
    unfold encode
    simp_all
    ring

theorem decode15_faithful (hmaj : w / 67108864 % 32 = 21) : Faithful w (decode15 w) := by
  unfold decode15
  split
  case h_4 => exact faithful_error
  case h_1 =>
    refine faithful_accept [65536, 64, 16, 32] rfl fun hz => ?_
    unfold encode
    simp_all
  case' h_2 | h_3 => refine faithful_accept [2048, 32, 64, 16, 32] rfl fun hz => ?_
  all_goals
    unfold encode
    simp_all
    ring

theorem decode16_faithful (hmaj : w / 67108864 % 32 = 22) : Faithful w (decode16 w) := by
  unfold decode16
  split
  case h_6 => exact faithful_error
  case' h_1 => refine faithful_accept [1024, 8, 16, 32, 16, 32] rfl fun hz => ?_
  case' h_4 => refine faithful_accept [256, 512, 32, 16, 32] rfl fun hz => ?_
  case' h_5 => refine faithful_accept [16, 8, 32, 32, 32, 16, 32] rfl fun hz => ?_
  case' h_2 | h_3 => refine faithful_accept [16, 8, 2, 16, 32, 32, 16, 32] rfl fun hz => ?_
  all_goals
    unfold encode
    simp_all
    ring

theorem decode17_faithful (hmaj : w / 67108864 % 32 = 23) : Faithful w (decode17 w) := by
  unfold decode17
  split
  case h_13 => exact faithful_error
  case' h_5 => refine faithful_accept [512, 16, 16, 32, 16, 32] rfl fun hz => ?_
  case' h_11 => refine faithful_accept [8192, 16, 32, 16, 32] rfl fun hz => ?_
  case' h_1 | h_6 | h_10 | h_12 => refine faithful_accept [256, 32, 16, 32, 16, 32] rfl fun hz => ?_
  case' h_2 | h_3 | h_4 | h_7 | h_8 | h_9 => refine faithful_accept [8, 32, 32, 16, 32, 16, 32] rfl fun hz => ?_
  all_goals
    unfold encode
    simp_all
    ring

theorem decode18_faithful (hmaj : w / 67108864 % 32 = 24) : Faithful w (decode18 w) := by
  unfold decode18
  split
  case h_19 => exact faithful_error
  case' h_17 => refine faithful_accept [512, 256, 8, 2, 2, 16, 32] rfl fun hz => ?_
  case' h_18 => refine faithful_accept [32, 16, 256, 4, 8, 16, 32] rfl fun hz => ?_
  case' h_1 | h_5 | h_6 | h_7 | h_13 => refine faithful_accept [32, 16, 256, 8, 2, 2, 16, 32] rfl fun hz => ?_
  case' h_2 | h_3 | h_4 | h_8 | h_9 | h_10 | h_11 | h_12 | h_14 | h_15 | h_16 =>
    refine faithful_accept [32, 16, 256, 32, 16, 32] rfl fun hz => ?_
  all_goals
    unfold encode
    simp_all
    ring

theorem decode19_faithful (hmaj : w / 67108864 % 32 = 25) : Faithful w (decode19 w) := by
  unfold decode19
  split
  case h_15 => exact faithful_error
  case' h_5 | h_14 => refine faithful_accept [32, 16, 256, 32, 16, 32] rfl fun hz => ?_
  case' h_1 | h_2 | h_3 | h_4 | h_6 | h_7 | h_8 | h_9 | h_10 | h_11 | h_12 | h_13 =>
    refine faithful_accept [32, 16, 256, 8, 2, 2, 16, 32] rfl fun hz => ?_
  all_goals
    unfold encode
    simp_all
    ring

theorem decode1A_faithful (hmaj : w / 67108864 % 32 = 26) : Faithful w (decode1A w) := by
  unfold decode1A
  split
  case h_15 => exact faithful_error
  case' h_3 | h_4 | h_10 | h_12 | h_13 => refine faithful_accept [32, 16, 256, 8, 2, 2, 16, 32] rfl fun hz => ?_
  case' h_1 | h_2 | h_5 | h_6 | h_7 | h_8 | h_9 | h_11 | h_14 => refine faithful_accept [32, 16, 256, 32, 16, 32] rfl fun hz => ?_
  all_goals
    unfold encode
    simp_all
    ring

theorem decode1B_faithful (hmaj : w / 67108864 % 32 = 27) : Faithful w (decode1B w) := by
  unfold decode1B
  split
  case h_6 => exact faithful_error
  all_goals
    refine faithful_accept [32, 16, 256, 32, 16, 32] rfl fun hz => ?_
    unfold encode
    simp_all
    ring

theorem decode1C_faithful (hmaj : w / 67108864 % 32 = 28) : Faithful w (decode1C w) := by
  unfold decode1C
  split
  case h_5 =>
    split
    case h_5 => exact faithful_error
    all_goals
      refine faithful_accept [32, 16, 256, 8, 4, 16, 32] rfl fun hz => ?_
      unfold encode
      simp_all
      ring
  case h_11 => exact faithful_error
  case' h_1 | h_2 | h_3 | h_4 => refine faithful_accept [32, 16, 256, 8, 2, 2, 16, 32] rfl fun hz => ?_
  case' h_6 | h_7 | h_8 | h_9 | h_10 => refine faithful_accept [32, 16, 256, 32, 16, 32] rfl fun hz => ?_
  all_goals
    unfold encode
    simp_all
    ring

theorem decode1D_faithful (hmaj : w / 67108864 % 32 = 29) : Faithful w (decode1D w) := by
  unfold decode1D
  split
  case h_16 => exact faithful_error
  case' h_1 | h_2 => refine faithful_accept [32, 16, 256, 4, 8, 16, 32] rfl fun hz => ?_
  case' h_3 | h_4 | h_5 | h_6 | h_7 | h_8 | h_9 | h_10 | h_11 | h_12 | h_13 | h_14 | h_15 =>
    refine faithful_accept [32, 16, 256, 32, 16, 32] rfl fun hz => ?_
  all_goals
    unfold encode
    simp_all
    ring

end

/-- Each major has its own decoder; a major without one is refused. -/
theorem decode_faithful (w : Nat) : Faithful w (decode w) := by
  unfold decode
  split
  exacts [decode00_faithful ‹_›, decode01_faithful ‹_›, decode02_faithful ‹_›, decode03_faithful ‹_›, decode04_faithful ‹_›,
    decode05_faithful ‹_›, decode06_faithful ‹_›, decode07_faithful ‹_›, decode08_faithful ‹_›, decode09_faithful ‹_›,
    decode0A_faithful ‹_›, decode0B_faithful ‹_›, decode0C_faithful ‹_›, decode0D_faithful ‹_›, decode0E_faithful ‹_›,
    decode0F_faithful ‹_›, decode10_faithful ‹_›, decode11_faithful ‹_›, decode12_faithful ‹_›, decode13_faithful ‹_›,
    decode14_faithful ‹_›, decode15_faithful ‹_›, decode16_faithful ‹_›, decode17_faithful ‹_›, decode18_faithful ‹_›,
    decode19_faithful ‹_›, decode1A_faithful ‹_›, decode1B_faithful ‹_›, decode1C_faithful ‹_›, decode1D_faithful ‹_›, faithful_error]

/-- Settles O51: every format's fields fill the word below its stop bit. -/
theorem encodingUndoesDecoding : Obligations.EncodingUndoesDecoding := fun w => decode_faithful w

end Sys2Proof.Laws

namespace Sys2Proof.Laws
set_option Elab.async false
open Sys2Proof Sys2Proof.Machine

/-! # Compares -/

/-- The model's table of combining types is that of the statements (R53, R54). -/
theorem combine_eq_pairAfter : ∀ (ct : BitVec 3) (qp c p0 p1 : Bool), combine ct qp c p0 p1 = pairAfter ct qp c p0 p1 := by decide

/-- The labels that join change no register's value (R466). -/
theorem sv_joined (i : Info) (s : State) (r : BitVec 5) : sv (joined i s) r = (s.core.rdS r).v := by
  rw [sv, joined_core, Core.joinCl_rdS]

theorem not_slt_eq (x y : Word) : (!x.slt y) = decide (y.toInt ≤ x.toInt) := by
  rw [BitVec.slt, ← decide_not, decide_eq_decide, not_lt]

theorem not_lt_eq (x y : Word) : (!decide (x < y)) = decide (y.toNat ≤ x.toNat) := by
  rw [← decide_not, decide_eq_decide, BitVec.lt_def, not_lt]

theorem toInt_signExtend_imm (m : BitVec 8) : (m.signExtend 64).toInt = m.toInt := BitVec.toInt_signExtend_of_le (by decide)

theorem toNat_setWidth_imm (m : BitVec 8) : (m.setWidth 64).toNat = m.toNat := BitVec.toNat_setWidth_of_le (by decide)

/-- A compare may read its operands before its labels join. -/
theorem compares_of_compare {ins : Instr} {s : State} {i : Info} {ct k : BitVec 3} {a : BitVec 5} {rel : Word → Bool} {c : State → Bool}
    {o : Host.Outcome State Fault Refusal} (hi : infoOf ins = some i) (hx : exec ins s = o) (ho : o = Machine.compare i ct k rel a s)
    (hrel : ∀ t, (∀ r, sv t r = (s.core.rdS r).v) → rel (sv t a) = c t) : Compares ins s ct k c := by
  intro j hj hprv
  obtain rfl : i = j := Option.some.inj (hi.symm.trans hj)
  rw [hx, ho]
  unfold Machine.compare
  rw [tileAlways_ready hprv]
  simp only [← hrel _ (sv_joined i s), ← combine_eq_pairAfter]
  rfl

theorem registerComparesWriteTheirPair : Claims.RegisterComparesWriteTheirPair := fun q c k a b s =>
  ⟨compares_of_compare rfl (o := execCmpEq q c k a b s) rfl rfl fun t ht => by rw [← ht b]; rfl,
    compares_of_compare rfl (o := execCmpNe q c k a b s) rfl rfl fun t ht => by rw [← ht b]; exact decide_not.symm,
    compares_of_compare rfl (o := execCmpLt q c k a b s) rfl rfl fun t ht => by rw [← ht b]; rfl,
    compares_of_compare rfl (o := execCmpGe q c k a b s) rfl rfl fun t ht => by rw [← ht b]; exact not_slt_eq _ _,
    compares_of_compare rfl (o := execCmpLtn q c k a b s) rfl rfl fun t ht => by rw [← ht b]; rfl,
    compares_of_compare rfl (o := execCmpGen q c k a b s) rfl rfl fun t ht => by rw [← ht b]; exact not_lt_eq _ _,
    compares_of_compare rfl (o := execCmpTand q c k a b s) rfl rfl fun t ht => by rw [← ht b]; exact decide_not.symm,
    compares_of_compare rfl (o := execCmpTnand q c k a b s) rfl rfl fun t ht => by rw [← ht b]; rfl⟩

theorem immediateComparesWriteTheirPair : Claims.ImmediateComparesWriteTheirPair := fun q c k a s =>
  ⟨fun m => ⟨compares_of_compare rfl (o := execCmpiEq q c k a m s) rfl rfl fun t _ => rfl,
      compares_of_compare rfl (o := execCmpiNe q c k a m s) rfl rfl fun t _ => decide_not.symm,
      compares_of_compare rfl (o := execCmpiLt q c k a m s) rfl rfl fun t _ => by rw [← toInt_signExtend_imm]; rfl,
      compares_of_compare rfl (o := execCmpiGe q c k a m s) rfl rfl fun t _ => by rw [← toInt_signExtend_imm]; exact not_slt_eq _ _,
      compares_of_compare rfl (o := execCmpiLtn q c k a m s) rfl rfl fun t _ => by rw [← toNat_setWidth_imm]; rfl,
      compares_of_compare rfl (o := execCmpiGen q c k a m s) rfl rfl fun t _ => by rw [← toNat_setWidth_imm]; exact not_lt_eq _ _⟩,
    fun m => ⟨compares_of_compare rfl (o := execCmpiTbit q c k a m s) rfl rfl fun t _ => rfl,
      compares_of_compare rfl (o := execCmpiTnbit q c k a m s) rfl rfl fun t _ => rfl⟩⟩

/-- Settles O2: the sixteen compares differ in their relation alone. -/
theorem comparesWriteTheirPair : Obligations.ComparesWriteTheirPair := ⟨registerComparesWriteTheirPair, immediateComparesWriteTheirPair⟩

end Sys2Proof.Laws

namespace Sys2Proof.Laws
set_option Elab.async false
open Sys2Proof Sys2Proof.Machine

/-! # System registers -/

section
variable {s : State} {n : BitVec 12} {r w : Option Nat} {p : Nat}

/-! ## What a number and the privilege let through (R131) -/

theorem sysChk_unassigned (h : sysPriv n.toNat = none) (write : Bool) : sysChk s n write = some (illegal s) := by
  rw [sysChk, h]

theorem sysChk_unnamed (write : Bool) (h : sysPriv n.toNat = some (r, w)) (hk : (if write then w else r) = none) :
    sysChk s n write = some (privileged s n.toNat) := by
  simp only [sysChk, h, hk]

theorem sysChk_below (write : Bool) (h : sysPriv n.toNat = some (r, w)) (hk : (if write then w else r) = some p) (hp : s.core.cont.prv < p) :
    sysChk s n write = some (privileged s n.toNat) := by
  simp only [sysChk, h, hk, if_pos hp]

theorem sysChk_passes (write : Bool) (h : sysPriv n.toNat = some (r, w)) (hk : (if write then w else r) = some p) (hp : p ≤ s.core.cont.prv) :
    sysChk s n write = none := by
  simp only [sysChk, h, hk, if_neg (Nat.not_lt.2 hp)]

/-- Whatever the number, the check passes or raises one of its two traps. -/
theorem sysChk_cases (s : State) (n : BitVec 12) (write : Bool) :
    sysChk s n write = none ∨ sysChk s n write = some (privileged s n.toNat) ∨ sysChk s n write = some (illegal s) := by
  cases h : sysPriv n.toNat with
  | none => exact .inr (.inr (sysChk_unassigned h write))
  | some rw =>
    cases hk : (if write then rw.2 else rw.1) with
    | none => exact .inr (.inl (sysChk_unnamed write h hk))
    | some p =>
      by_cases hp : p ≤ s.core.cont.prv
      · exact .inl (sysChk_passes write h hk hp)
      · exact .inr (.inl (sysChk_below write h hk (Nat.not_le.1 hp)))

theorem exec_sysrd (q : BitVec 4) (d : BitVec 5) : exec (.sysrd q d n) s = execSysrd q d n s := rfl

theorem exec_syswr (q : BitVec 4) (a : BitVec 5) : exec (.syswr q a n) s = execSyswr q a n s := rfl

theorem sysrd_refused {e : Stop} (h : sysChk s n false = some e) (q : BitVec 4) (d : BitVec 5) :
    exec (.sysrd q d n) s = settle s (.error e) := by
  rw [exec_sysrd, execSysrd, h]
  rfl

theorem syswr_refused {e : Stop} (h : sysChk s n true = some e) (q : BitVec 4) (a : BitVec 5) :
    exec (.syswr q a n) s = settle s (.error e) := by
  rw [exec_syswr, execSyswr, h]
  rfl

/-- The labels that join leave partition and privilege. -/
theorem otherVf_joined (i : Info) : otherVf (joined i s) n = otherVf s n := by
  simp only [otherVf, vfAt, partAt, joined_core, joined_vfs, joined_parts, Core.joinCl_cont_prv, Core.joinCl_cont_part]

theorem sysrd_reads {q : BitVec 4} {d : BitVec 5} (hc : sysChk s n false = none) (ho : otherVf s n = false) :
    Gives (.sysrd q d n) s (fun _ t => push t 2 (.s d (sysRead t n.toNat).v) ((sysRead t n.toNat).l ||| t.core.cl)) := by
  intro i hi hr
  cases hi
  rw [exec_sysrd, execSysrd, tileChk_ready hr hc, otherVf_joined, ho]
  rfl

/-- What syswr does once nothing refuses it: the label of a value for FP_MODE or FP_VCFG joins before the write is scheduled. -/
def syswrTo (n : BitVec 12) (a : BitVec 5) (t : State) : State :=
  let t1 := if n = 0x800 ∨ n = 0x804 then { t with core := t.core.joinCl (t.core.rdS a).l } else t
  push t1 1 (.sysw n (sv t a)) ((t.core.rdS a).l ||| t1.core.cl)

theorem syswr_writes {q : BitVec 4} {a : BitVec 5} (hc : sysChk s n true = none) (ho : otherVf s n = false) :
    GivesIf (.syswr q a n) s (fun t => sysHold t n.toNat (sv t a) = none) (fun _ => syswrTo n a) := by
  intro i hi hr hh
  cases hi
  rw [exec_syswr, execSyswr, tileChk_ready hr hc]
  rw [sv] at hh
  simp only [otherVf_joined, ho, Bool.false_eq_true, if_false, hh, settle_ok]
  rfl

end

/-- Settles O15: the line of the number decides, and the labels that join change neither it nor what the access finds. -/
theorem systemRegistersAreReadAndWritten : Obligations.SystemRegistersAreReadAndWritten := by
  intro q d a n s
  refine ⟨fun p w h hp ho => sysrd_reads (sysChk_passes false h rfl hp) ho, fun r p h hp ho => ⟨?_, ?_⟩,
    fun h => ⟨sysrd_refused (sysChk_unassigned h false) q d, syswr_refused (sysChk_unassigned h true) q a⟩,
    fun w h => sysrd_refused (sysChk_unnamed false h rfl) q d, fun r h => syswr_refused (sysChk_unnamed true h rfl) q a,
    fun p w h hp => sysrd_refused (sysChk_below false h rfl hp) q d, fun r p h hp => syswr_refused (sysChk_below true h rfl hp) q a⟩
  · rintro i hi hr ⟨hh, hmode, hvcfg⟩
    rw [syswr_writes (sysChk_passes true h rfl hp) ho i hi hr hh]
    simp only [syswrTo, hmode, hvcfg, or_self, if_false]
  · rintro i hi hr ⟨hh, hn⟩
    rw [syswr_writes (sysChk_passes true h rfl hp) ho i hi hr hh]
    simp only [syswrTo, if_pos hn]

end Sys2Proof.Laws

namespace Sys2Proof.Laws
set_option Elab.async false
open Sys2Proof Sys2Proof.Machine

/-! # Register words only schedule their results -/

/-! ## What scheduling leaves -/

/-- u is t with more results in flight. -/
def Schedules (t u : State) : Prop := ∃ e, u = { t with core := { t.core with pend := t.core.pend ++ e } }

theorem Schedules.refl (t : State) : Schedules t t := ⟨[], by rw [List.append_nil]⟩

theorem Schedules.push {t u : State} (h : Schedules t u) (n : Nat) (e : Eff) (l : Label) : Schedules t (push u n e l) := by
  obtain ⟨es, rfl⟩ := h
  exact ⟨es ++ [⟨t.core.tick + n, e, l, none⟩], by simp only [Machine.push, Core.push, List.append_assoc]⟩

theorem schedules_push (t : State) (n : Nat) (e : Eff) (l : Label) : Schedules t (push t n e l) := (Schedules.refl t).push n e l

theorem Schedules.writeP {t u : State} (h : Schedules t u) (n : BitVec 4) (l : Label) (x : Option Bool) : Schedules t (writeP u n l x) := by
  cases x with
  | none => exact h
  | some b =>
    change Schedules t (if n < 2 then u else Machine.push u 1 (.p (physP u.core n) b) l)
    split
    · exact h
    · exact h.push ..

/-- A word that joins its labels and then only schedules is one that only issues. -/
theorem onlyIssues_of_schedules {i : Info} {s u : State} (h : Schedules (joined i s) u) : OnlyIssues s u := by
  obtain ⟨e, rfl⟩ := h
  refine ⟨?_, ⟨e, by rw [joined_core, Core.joinCl_pend]⟩, joinLabel s.core i, Core.joinCl_run ..⟩
  rw [joined, Core.joinCl_frame]

/-- Bytes of memory are read past the cores. -/
theorem readLines_setCore (s : State) (c : Core) : ∀ k pa n, readLines { s with core := c } k pa n = readLines s k pa n
  | 0, _, _ => rfl
  | k + 1, pa, n => by
    rw [readLines, readLines_setCore s c k]
    rfl

theorem sameBytes_of_onlyIssues {s t : State} (h : OnlyIssues s t) : SameBytes s t := by
  intro a
  rw [h.1]
  exact readLines_setCore ..

/-! ## The shared shapes of words -/

/-- An outcome that, unless it takes a trap, only issues. -/
def Issues (s : State) (o : Host.Outcome State Fault Refusal) : Prop :=
  ∀ t, o = .next t → (∀ c n a, ¬Trapped t c n a) → OnlyIssues s t

section
variable {s : State} {i : Info}

theorem issues_trap (c n a : Nat) : Issues s (settle s (.error (.trap c n a))) := by
  intro t ht hn
  cases ht
  exact absurd (takeTrap_mark s c n a) (hn c n a)

theorem issues_ok {u : State} (h : Schedules (joined i s) u) : Issues s (settle s (.ok u)) := by
  intro t ht _
  cases ht
  exact onlyIssues_of_schedules h

section
variable (hprv : i.prv ≤ s.core.cont.prv)
include hprv

theorem issues_tileChk {chk : Option Stop} {act : State → Act} (hchk : chk = none ∨ ∃ c n a, chk = some (.trap c n a))
    (hact : ∀ t, ∃ u, act t = .ok u ∧ Schedules t u) : Issues s (tileChk i chk s act) := by
  obtain rfl | ⟨c, n, a, rfl⟩ := hchk
  · by_cases hon : predOn s.core i = true
    · obtain ⟨u, hu, hs⟩ := hact (joined i s)
      rw [tileChk_ready ⟨hprv, hon⟩ rfl, hu]
      exact issues_ok hs
    · rw [tileChk_off hprv (Bool.eq_false_iff.2 hon) rfl]
      exact issues_ok (Schedules.refl _)
  · exact issues_trap c n a

theorem issues_tile {f : State → State} (hf : ∀ t, Schedules t (f t)) : Issues s (tile i true s fun t => .ok (f t)) :=
  issues_tileChk hprv (.inl rfl) fun t => ⟨f t, rfl, hf t⟩

theorem issues_result {n : State → Nat} {e : State → Eff} {l : State → Label} :
    Issues s (tile i true s fun t => .ok (push t (n t) (e t) (l t))) :=
  issues_tile hprv fun t => schedules_push t (n t) (e t) (l t)

theorem issues_vWord {z : BitVec 1} {m : BitVec 3} {ok : Core → Bool} {f : VCtx → State → State} (hf : ∀ k t, Schedules t (f k t)) :
    Issues s (vWord i z m ok s fun k t => .ok (f k t)) := by
  refine issues_tileChk hprv ?_ fun t => ⟨_, rfl, hf (vctx t.core i z m) t⟩
  split
  · exact .inl rfl
  · exact .inr ⟨_, _, _, rfl⟩

theorem issues_vMap {z : BitVec 1} {m : BitVec 3} {d : BitVec 5} {n : Nat} {fl : Bool} {ok : Core → Bool} {f : Core → VCtx → Nat → Nat × Nat} :
    Issues s (vMap i z m d n fl ok f s) :=
  issues_vWord hprv fun k t => by
    cases fl
    · exact schedules_push ..
    · exact (schedules_push ..).push ..

theorem issues_compare {ct k : BitVec 3} {rel : Word → Bool} {a : BitVec 5} : Issues s (Machine.compare i ct k rel a s) := by
  unfold Machine.compare
  rw [tileAlways_ready hprv]
  exact issues_ok (((Schedules.refl _).writeP ..).writeP ..)

theorem issues_binS {d a b : BitVec 5} {n : Nat} {f : Word → Word → Word} : Issues s (binS i d a b n f s) := issues_result hprv

theorem issues_immS {d a : BitVec 5} {n : Nat} {f : Word → Word → Word} {x : Word} : Issues s (immS i d a n f x s) := issues_result hprv

theorem issues_vBin {z : BitVec 1} {m : BitVec 3} {d a b : BitVec 5} {x : BitVec 1} {n : Nat} {f : VCtx → Nat → Nat → Int} :
    Issues s (vBin i z m d a b x n f s) := issues_vMap hprv

theorem issues_vCompare {z : BitVec 1} {m d : BitVec 3} {a b : BitVec 5} {x : BitVec 1} {ok : Core → Bool} {rel : VCtx → Nat → Nat → Bool} :
    Issues s (vCompare i z m d a b x ok rel s) := issues_vWord hprv fun _ _ => schedules_push ..

theorem issues_maskWord {d : BitVec 3} {x : Core → BitVec 1024} : Issues s (maskWord i d x s) := issues_result hprv

theorem issues_maskCount {d : BitVec 5} {a : BitVec 3} {f : Nat → Nat → Nat} : Issues s (maskCount i d a f s) :=
  issues_vWord hprv fun _ _ => schedules_push ..

end

/-- Every register word is one of these shapes. -/
theorem issues_registerWord {ins : Instr} (hr : registerWord ins = true) (hi : infoOf ins = some i) (hprv : i.prv ≤ s.core.cont.prv) :
    Issues s (exec ins s) := by
  cases ins
  case add | sub | mul | mulh | mulhn | div | divn | rem | remn | and | or | xor | andn | shl | shr | sar | min | max | minn | maxn | rotl =>
    cases hi
    unfold exec
    exact issues_binS hprv
  case clz | ctz | popc | addi | andi | ori | xori | shli | shri | sari | muli =>
    cases hi
    unfold exec
    exact issues_immS hprv
  case li | lic | aadd | aaddi | asub | aset | ahi | aalign | aget | vrot | stgset | stgshift =>
    cases hi
    unfold exec
    exact issues_result hprv
  case cmpEq | cmpNe | cmpLt | cmpGe | cmpLtn | cmpGen | cmpTand | cmpTnand | cmpiEq | cmpiNe | cmpiLt | cmpiGe | cmpiLtn | cmpiGen
      | cmpiTbit | cmpiTnbit =>
    cases hi
    unfold exec
    exact issues_compare hprv
  case vadd | vsub | vmul | vmulh | vand | vor | vxor | vshl | vshr | vsar | vmin | vmax | vadds | vsubs =>
    cases hi
    unfold exec
    exact issues_vBin hprv
  case vabs | vfmin | vfmax | vfabs | vfneg | vperm | vslide | vbcast =>
    cases hi
    unfold exec
    exact issues_vMap hprv
  case vsel | vext | vins =>
    cases hi
    unfold exec
    exact issues_vWord hprv fun _ _ => schedules_push ..
  case vcmpEq | vcmpNe | vcmpLt | vcmpGe =>
    cases hi
    unfold exec
    exact issues_vCompare hprv
  case mand | mor | mxor | mnot =>
    cases hi
    unfold exec
    exact issues_maskWord hprv
  case mcnt | mffs =>
    cases hi
    unfold exec
    exact issues_maskCount hprv
  all_goals cases hr

end

theorem issuedRegisterWordsOnlySchedule : Claims.IssuedRegisterWordsOnlySchedule := fun _ s t _ hr hi hprv _ ht hn =>
  have h : OnlyIssues s t := issues_registerWord hr hi hprv t ht hn
  ⟨h, sameBytes_of_onlyIssues h⟩

end Sys2Proof.Laws

namespace Sys2Proof.Laws
set_option Elab.async false
open Sys2Proof Sys2Proof.Machine

/-! # Words under a false predicate -/

/-- The outcome of a word under a false predicate: a label that includes its predicate's joins the context label, and nothing else
changes (R44, R466). -/
def LabelOnly (i : Info) (s : State) (o : Host.Outcome State Fault Refusal) : Prop :=
  ∃ l, (s.core.rdP i.qp).l ||| l = l ∧ o = .next { s with core := s.core.joinCl l }

/-- p0 reads true (R43), so a word qualified by it is never off. -/
theorem predOn_of_qp_zero {c : Core} {i : Info} (h : i.qp = 0) : predOn c i = true := by
  rw [predOn, h]
  rfl

theorem qp_label_or_joinLabel {c : Core} {i : Info} : (c.rdP i.qp).l ||| joinLabel c i = joinLabel c i := by
  rw [joinLabel]
  split
  case isTrue h => rw [h]; exact BitVec.zero_or
  case isFalse => rw [← BitVec.or_assoc, BitVec.or_self]

section
variable {s : State} {i j : Info}

/-- What the predicate of i puts into the context label, j's joining does as well when both name the same predicate. -/
theorem labelOnly_joined (hq : j.qp = i.qp) : LabelOnly i s (.next (joined j s)) := ⟨joinLabel s.core j, hq ▸ qp_label_or_joinLabel, rfl⟩

variable (hprv : i.prv ≤ s.core.cont.prv) (hoff : predOn s.core i = false)
include hprv hoff

theorem labelOnly_tileChk {chk : Option Stop} {act : State → Act} (hq : j.qp = i.qp) (hp : j.prv = i.prv) (hc : chk = none) :
    LabelOnly i s (tileChk j chk s act) := by
  rw [tileChk_off (hp ▸ hprv) (by rw [predOn, hq]; exact hoff) hc]
  exact labelOnly_joined hq

theorem labelOnly_tile {wf : Bool} {act : State → Act} (hq : j.qp = i.qp) (hp : j.prv = i.prv) (hw : wf = true) :
    LabelOnly i s (tile j wf s act) := labelOnly_tileChk hprv hoff hq hp (if_pos hw)

theorem labelOnly_compare {ct k : BitVec 3} {rel : Word → Bool} {a : BitVec 5} (hct : ct ≠ 1) : LabelOnly i s (Machine.compare i ct k rel a s) := by
  have hnone : ∀ c p0 p1, combine ct false c p0 p1 = (none, none) := fun c p0 p1 => by
    rw [combine, if_pos (by decide), if_neg hct]
  unfold Machine.compare
  rw [tileAlways_ready hprv, hoff]
  simp only [hnone]
  exact labelOnly_joined rfl

theorem labelOnly_mxWord_of {act : State → Act} (hq : j.qp = i.qp) (hp : j.prv = i.prv) : LabelOnly i s (mxWord j s act) :=
  labelOnly_tile hprv hoff hq hp rfl

theorem labelOnly_binS {d a b : BitVec 5} {n : Nat} {f : Word → Word → Word} : LabelOnly i s (binS i d a b n f s) :=
  labelOnly_tile hprv hoff rfl rfl rfl

theorem labelOnly_immS {d a : BitVec 5} {n : Nat} {f : Word → Word → Word} {x : Word} : LabelOnly i s (immS i d a n f x s) :=
  labelOnly_tile hprv hoff rfl rfl rfl

theorem labelOnly_loadS {d : BitVec 5} {a : BitVec 4} {l disp : BitVec 5} {size : Nat} {conv : Nat → Word} :
    LabelOnly i s (loadS i d a l disp size conv s) := labelOnly_tile hprv hoff rfl rfl rfl

theorem labelOnly_storeS {v : BitVec 5} {a : BitVec 4} {disp : BitVec 10} {size : Nat} : LabelOnly i s (storeS i v a disp size s) :=
  labelOnly_tile hprv hoff rfl rfl rfl

theorem labelOnly_amo {wf : Bool} (hw : wf = true) {d : BitVec 5} {a : BitVec 4} {l : BitVec 5} {w : BitVec 1} {f : Nat → Nat → Nat → Nat → Nat} :
    LabelOnly i s (amo i wf d a l w f s) := labelOnly_tile hprv hoff rfl rfl hw

theorem labelOnly_tagWait {p : BitVec 1} {a : BitVec 5} {kind : Nat} {cond : Word → Word → Bool} {act : State → Word → Word → State} :
    LabelOnly i s (tagWait i p a kind cond act s) := labelOnly_tile hprv hoff rfl rfl rfl

theorem labelOnly_routeWord {d a : BitVec 5} {n : BitVec 3} {keep : Bool} : LabelOnly i s (routeWord i d a n keep s) :=
  labelOnly_tile hprv hoff rfl rfl rfl

theorem labelOnly_skUpdate {a : BitVec 4} {want : Option Nat} {bad0 : State → Bool} {bad : State → SkObj → Option Nat} {sealIt : Bool}
    {iv : State → SkObj → Nat} {f : State → SkObj → Option Sk} : LabelOnly i s (skUpdate i a want bad0 bad sealIt iv f s) :=
  labelOnly_tile hprv hoff rfl rfl rfl

theorem labelOnly_skAddWord {a : BitVec 4} {v b : BitVec 5} {typ : Nat} : LabelOnly i s (skAddWord i a v b typ s) := labelOnly_skUpdate hprv hoff

theorem labelOnly_skQuery {a : BitVec 4} {d : BitVec 5} {want : Option Nat} {bad0 : State → Bool} {f : State → SkObj → Nat} :
    LabelOnly i s (skQuery i a d want bad0 f s) := labelOnly_tile hprv hoff rfl rfl rfl

theorem labelOnly_mxWord {act : State → Act} : LabelOnly i s (mxWord i s act) := labelOnly_tile hprv hoff rfl rfl rfl

theorem labelOnly_prom {sz : Nat} {dec : Nat → Fv} {aa : BitVec 4} {sb : BitVec 5} : LabelOnly i s (prom i sz dec aa sb s) :=
  labelOnly_mxWord_of hprv hoff (by unfold promInfo; split <;> rfl) (by unfold promInfo; split <;> rfl)

theorem labelOnly_taskWord {kind : Kind} {aa : BitVec 4} {act : State → Nat → Label → Act} : LabelOnly i s (taskWord i kind aa s act) :=
  labelOnly_tile hprv hoff rfl rfl rfl

theorem labelOnly_issueCopy {kind : CmdKind} {rl : BitVec 1} {sc : BitVec 3} {aa : BitVec 4} {sb : BitVec 5} :
    LabelOnly i s (issueCopy i kind rl sc aa sb s) := labelOnly_tile hprv hoff rfl rfl rfl

theorem labelOnly_issueRange {kind : CmdKind} {rl : BitVec 1} {sc : BitVec 3} {aa : BitVec 4} {sb : BitVec 5} :
    LabelOnly i s (issueRange i kind rl sc aa sb s) := labelOnly_tile hprv hoff rfl rfl rfl

theorem labelOnly_issueSpill {kind : CmdKind} {rl : BitVec 1} {sc : BitVec 3} {aa : BitVec 4} {sb : BitVec 5} :
    LabelOnly i s (issueSpill i kind rl sc aa sb s) := labelOnly_tile hprv hoff rfl rfl rfl

theorem labelOnly_manageAt {minor : Nat} {sb : BitVec 5} {mis : State → Option Stop} {f : State → TEnt → Except Stop (State × Nat)} :
    LabelOnly i s (manageAt i minor sb mis s f) := labelOnly_tile hprv hoff rfl rfl rfl

theorem labelOnly_manage {minor : Nat} {sb : BitVec 5} {f : State → TEnt → Except Stop (State × Nat)} : LabelOnly i s (manage i minor sb s f) :=
  labelOnly_manageAt hprv hoff

theorem labelOnly_editWord {sb : BitVec 5} : LabelOnly i s (editWord i sb s) := labelOnly_tile hprv hoff rfl rfl rfl

theorem labelOnly_launch {wait : Bool} {aa : BitVec 4} {sb : BitVec 5} : LabelOnly i s (launch i wait aa sb s) :=
  labelOnly_tile hprv hoff (by split <;> rfl) (by split <;> rfl) rfl

theorem labelOnly_condWord {aa : BitVec 4} {sb : BitVec 5} {f : Word → Word → Word} : LabelOnly i s (condWord i aa sb f s) :=
  labelOnly_tile hprv hoff rfl rfl rfl

theorem labelOnly_tlWord {sb : BitVec 5} {act : Nat → State → Act} : LabelOnly i s (tlWord i sb s act) := labelOnly_tile hprv hoff rfl rfl rfl

theorem labelOnly_quiesceWord {sb : BitVec 5} : LabelOnly i s (quiesceWord i sb s) := labelOnly_tile hprv hoff rfl rfl rfl

theorem labelOnly_vfsetWord {aa : BitVec 4} {sb : BitVec 5} : LabelOnly i s (vfsetWord i aa sb s) := labelOnly_tile hprv hoff rfl rfl rfl

theorem labelOnly_moveWord {aa : BitVec 4} {sb : BitVec 5} : LabelOnly i s (moveWord i aa sb s) :=
  labelOnly_tile hprv hoff (by split <;> rfl) (by split <;> rfl) rfl

theorem labelOnly_releaseWord {aa : BitVec 4} {sb : BitVec 5} : LabelOnly i s (releaseWord i aa sb s) :=
  labelOnly_tile hprv hoff (by split <;> rfl) (by split <;> rfl) rfl

/-- The check of a system register's number comes first, whatever the predicate. -/
theorem labelOnly_sysChk {n : BitVec 12} {write : Bool} {act : State → Act} (hq : j.qp = i.qp) (hp : j.prv = i.prv) :
    LabelOnly i s (tileChk j (sysChk s n write) s act) ∨ (∃ m, tileChk j (sysChk s n write) s act = settle s (.error (privileged s m)))
      ∨ tileChk j (sysChk s n write) s act = settle s (.error (illegal s)) := by
  obtain h | h | h := sysChk_cases s n write
  · exact .inl (labelOnly_tileChk hprv hoff hq hp h)
  · rw [h]; exact .inr (.inl ⟨n.toNat, rfl⟩)
  · rw [h]; exact .inr (.inr rfl)

end

/-- Every word but the two that access a system register is one of these shapes; a V word is qualified by p0, and an event is no word. -/
theorem labelOnly_of_off {ins : Instr} {s : State} {i : Info} (hi : infoOf ins = some i) (hwf : ins.wellFormed = true)
    (hct : combiningType ins ≠ some 1) (hprv : i.prv ≤ s.core.cont.prv) (hoff : predOn s.core i = false)
    (hsys : ¬((∃ q d n, ins = .sysrd q d n) ∨ ∃ q a n, ins = .syswr q a n)) : LabelOnly i s (exec ins s) := by
  cases ins
  case add | sub | mul | mulh | mulhn | div | divn | rem | remn | and | or | xor | andn | shl | shr | sar | min | max | minn | maxn | rotl =>
    cases hi
    unfold exec
    exact labelOnly_binS hprv hoff
  case clz | ctz | popc | addi | andi | ori | xori | shli | shri | sari | muli =>
    cases hi
    unfold exec
    exact labelOnly_immS hprv hoff
  case li | lic | aadd | aaddi | asub | aset | ahi | aalign | aget | br | brv | prep | prepa | brl | lbExit | bind | unbind | bwait | binit
      | mwait | suspend | yield | retire | svc | brk | rfe | qlock | qfree | bnLd | bnInv | bnRd | skInit | skMerge | mxFence | mxCfg
      | cpMap | cpUnmap | cpWfill | cpOvl | cpBcnt | cpTclr | clTmk | clPost | clTake | clReshard | clQuery | clMcast | clBar | evSend
      | evRecv | evGather | evOpen | evClose | dsQpush | dsQpop | dsGstart | dsGstop | dsWake | dsPrio | dsQuery | tlHash | ptLayout
      | ptWays | ptFlr | gtLset | gtParty =>
    cases hi
    unfold exec
    exact labelOnly_tile hprv hoff rfl rfl rfl
  case ldt | stt | vldt | vstt | lbNest | fence | acq | rel | safe | arv =>
    cases hi
    unfold exec
    exact labelOnly_tile hprv hoff rfl rfl hwf
  case cmpEq | cmpNe | cmpLt | cmpGe | cmpLtn | cmpGen | cmpTand | cmpTnand | cmpiEq | cmpiNe | cmpiLt | cmpiGe | cmpiLtn | cmpiGen
      | cmpiTbit | cmpiTnbit =>
    cases hi
    unfold exec
    exact labelOnly_compare hprv hoff (hct <| congrArg some ·)
  case ldI8 | ldI16 | ldI32 | ldD | ldN8 | ldN16 | ldN32 =>
    cases hi
    unfold exec
    exact labelOnly_loadS hprv hoff
  case stB | stH | stW | stD =>
    cases hi
    unfold exec
    exact labelOnly_storeS hprv hoff
  case amoAdd | amoAnd | amoOr | amoXor | amoMin | amoMax | amoMinn | amoMaxn | amoSwap | amoCas =>
    cases hi
    unfold exec
    exact labelOnly_amo hprv hoff hwf
  case twAny | twAll | twFfr =>
    cases hi
    unfold exec
    exact labelOnly_tagWait hprv hoff
  case sysrd => exact absurd (.inl ⟨_, _, _, rfl⟩) hsys
  case syswr => exact absurd (.inr ⟨_, _, _, rfl⟩) hsys
  case bnRt | bnRto =>
    cases hi
    unfold exec
    exact labelOnly_routeWord hprv hoff
  case skQadd | skHadd | skDadd =>
    cases hi
    unfold exec
    exact labelOnly_skAddWord hprv hoff
  case skCompact | skSeal =>
    cases hi
    unfold exec
    exact labelOnly_skUpdate hprv hoff
  case skCard | skChk =>
    cases hi
    unfold exec
    exact labelOnly_skQuery hprv hoff
  case skQuant | skRank | skTop =>
    cases hi
    unfold exec
    dsimp only [execSkQuant, execSkRank, execSkTop]
    exact labelOnly_skQuery hprv hoff
  case mxZero | mxZadd | mxScl | mxWsel | mxWake | mxGate | mxQsplit =>
    cases hi
    unfold exec
    exact labelOnly_mxWord hprv hoff
  case mxMma | mxZld | mxZst | mxZcvt =>
    cases hi
    unfold exec
    exact labelOnly_mxWord_of hprv hoff rfl rfl
  case mxProm | mxProme =>
    cases hi
    unfold exec
    exact labelOnly_prom hprv hoff
  case mxTask | mxTstat | mxTkill =>
    cases hi
    unfold exec
    exact labelOnly_taskWord hprv hoff
  case cpCopy | cpLdt | cpStt =>
    cases hi
    unfold exec
    exact labelOnly_issueCopy hprv hoff
  case cpFill | cpFlush | cpInval =>
    cases hi
    unfold exec
    exact labelOnly_issueRange hprv hoff
  case cpSpill | cpUnspill =>
    cases hi
    unfold exec
    exact labelOnly_issueSpill hprv hoff
  case clTfree | clFrz | clThaw | clAbort =>
    cases hi
    unfold exec
    exact labelOnly_manage hprv hoff
  case clSave | clRst =>
    cases hi
    unfold exec
    exact labelOnly_manageAt hprv hoff
  case clEditRemove | clEditAdd =>
    cases hi
    unfold exec
    exact labelOnly_editWord hprv hoff
  case dsLaunch | dsLaunchW =>
    cases hi
    unfold exec
    exact labelOnly_launch hprv hoff
  case dsCondSet | dsCondAdd | dsCondOr | dsCondAnd =>
    cases hi
    unfold exec
    exact labelOnly_condWord hprv hoff
  case tlInv | tlInva | tlProbe | tlRoot | tlDlog =>
    cases hi
    unfold exec
    exact labelOnly_tlWord hprv hoff
  case ptQuiesce | ptResume | ptStateRead =>
    cases hi
    unfold exec
    exact labelOnly_quiesceWord hprv hoff
  case ptVfsetAssign | ptVfsetRelease =>
    cases hi
    unfold exec
    exact labelOnly_vfsetWord hprv hoff
  case ptMove | ptRetire =>
    cases hi
    unfold exec
    exact labelOnly_moveWord hprv hoff
  case gtReleaseInstall | gtReleaseRevoke | gtReleaseApply =>
    cases hi
    unfold exec
    exact labelOnly_releaseWord hprv hoff
  case vld | vlds | vldx | vldb | vst | vsts | vstx | vadd | vsub | vmul | vmulh | vand | vor | vxor | vshl | vshr | vsar | vmin | vmax
      | vadds | vsubs | vabs | vfmin | vfmax | vfabs | vfneg | vcvt | vperm | vslide | vbcast | vrcp | vrsqrt | vclipq | vmadw | vsel
      | vcvtw | vcvtn | vredsum | vfredsum | vext | vins | vfadd | vfsub | vfmul | vfma | vfms | vfnma | vcmpEq | vcmpNe | vcmpLt | vcmpGe
      | vfcmpEq | vfcmpNe | vfcmpLt | vfcmpGe | mand | mor | mxor | mnot | mcnt | mffs | vredmax | vredmin | vsqrt | vexp2 | vlog2 | vnormq
      | vrot | stgset | stgshift =>
    cases hi
    exact absurd (predOn_of_qp_zero rfl) (ne_true_of_eq_false hoff)
  all_goals cases hi

theorem falsePredicatesLeaveAllButTheLabel : Claims.FalsePredicatesLeaveAllButTheLabel := by
  intro ins s i hi hwf hct hprv hoff
  refine ⟨labelOnly_of_off hi hwf hct hprv hoff, ?_⟩
  rintro (⟨q, d, n, rfl⟩ | ⟨q, a, n, rfl⟩)
  · cases hi
    rw [exec_sysrd, execSysrd]
    exact labelOnly_sysChk hprv hoff rfl rfl
  · cases hi
    rw [exec_syswr, execSyswr]
    exact labelOnly_sysChk hprv hoff rfl rfl

/-- Settles O58: both parts go over the shared shapes of words. -/
theorem registerWordsOnlyScheduleResults : Obligations.RegisterWordsOnlyScheduleResults :=
  ⟨issuedRegisterWordsOnlySchedule, falsePredicatesLeaveAllButTheLabel⟩

end Sys2Proof.Laws

namespace Sys2Proof.Laws
open Sys2Proof Sys2Proof.Machine

/-! # Translation words

All but tl.hash name a VF in the low bits of sb and are `tlWord`. -/

/-- The VF that a translation word names. -/
def tlVf (t : State) (sb : BitVec 5) : Nat := (sv t sb).toNat % 512

theorem vfStop_none {t : State} {vf : Nat} (h : vf < 384 ∧ (t.core.cont.prv = 1 → (vfAt t vf).part = some t.core.cont.part)) :
    vfStop t vf = none := by
  obtain ⟨hlt, hown⟩ := h
  rw [vfStop, if_neg]
  rintro (hge | ⟨hprv, hother⟩)
  · omega
  · exact hother (hown hprv)

theorem vfStop_some {t : State} {vf : Nat} (h : 384 ≤ vf ∨ (t.core.cont.prv = 1 ∧ (vfAt t vf).part ≠ some t.core.cont.part)) :
    vfStop t vf = some (.trap 3 t.core.grp.raw.toNat t.core.grp.word.toNat) := by
  rw [vfStop, if_pos h, privileged, Nat.zero_shiftLeft, Nat.add_zero]

section
variable {ins : Instr} {s : State} {i : Info} {sb : BitVec 5} {act : Nat → State → Act} {p : State → Prop}
  {o : Host.Outcome State Fault Refusal}

theorem givesIf_of_tlWord {f : Info → State → State} (hi : infoOf ins = some i) (hx : exec ins s = o) (ho : o = tlWord i sb s act)
    (h : ∀ t, p t → vfStop t (tlVf t sb) = none ∧ act (tlVf t sb) t = .ok (f i t)) : GivesIf ins s p f := by
  refine givesIf_of_tile hi (hx.trans ho) rfl fun t ht => ?_
  obtain ⟨hvf, hact⟩ := h t ht
  simp only [tlVf, sv] at hvf hact
  simp only [hvf, hact]

theorem trapsIf_of_tlWord {c : Nat} {info addr : State → Nat} (hi : infoOf ins = some i) (hx : exec ins s = o) (ho : o = tlWord i sb s act)
    (h : ∀ t, p t → vfStop t (tlVf t sb) = none ∧ act (tlVf t sb) t = .error (.trap c (info t) (addr t))) : TrapsIf ins s p c info addr := by
  refine trapsIf_of_tile hi (hx.trans ho) rfl fun t ht => ?_
  obtain ⟨hvf, hact⟩ := h t ht
  simp only [tlVf, sv] at hvf hact
  simp only [hvf, hact]

theorem otherVf_traps (hi : infoOf ins = some i) (hx : exec ins s = o) (ho : o = tlWord i sb s act) :
    TrapsIf ins s (fun t => 384 ≤ tlVf t sb ∨ (t.core.cont.prv = 1 ∧ (vfAt t (tlVf t sb)).part ≠ some t.core.cont.part)) 3
      (fun t => t.core.grp.raw.toNat) (fun t => t.core.grp.word.toNat) := by
  refine trapsIf_of_tile hi (hx.trans ho) rfl fun t ht => ?_
  have hvf := vfStop_some ht
  simp only [tlVf, sv] at hvf
  simp only [hvf]

end

theorem exec_tlHash (q aa : BitVec 4) (sb : BitVec 5) (s : State) : exec (.tlHash q aa sb) s = execTlHash q aa sb s := rfl

/-- Settles O34: past the check of its VF a word does its one thing; tl.hash checks the partition instead. -/
theorem translationWordsAct : Obligations.TranslationWordsAct := by
  intro q aa sc sb s vf mine a
  refine ⟨?_, ?_, fun v => ?_, fun e he => ?_, ?_, ?_, fun p x => ?_, ?_, ?_⟩
  · exact givesIf_of_tlWord (o := execTlInv q sc aa sb s) rfl rfl rfl fun t hm => ⟨vfStop_none hm, rfl⟩
  · exact givesIf_of_tlWord (o := execTlInva q sc sb s) rfl rfl rfl fun t hm => ⟨vfStop_none hm, rfl⟩
  · refine givesIf_of_tlWord (o := execTlProbe q aa sb s) rfl rfl rfl fun t ⟨hm, hp⟩ => ⟨vfStop_none hm, ?_⟩
    simp only [vf, a, av] at hp
    simp only [tlVf, hp]
  · refine trapsIf_of_tlWord (o := execTlProbe q aa sb s) rfl rfl rfl fun t ⟨hm, hp⟩ => ⟨vfStop_none hm, ?_⟩
    simp only [vf, a, av] at hp
    simp only [tlVf, hp, accStop, he, if_true]
  · refine givesIf_of_tlWord (o := execTlRoot q aa sb s) rfl rfl rfl fun t ⟨hm, hal, hlt⟩ => ⟨vfStop_none hm, ?_⟩
    simp only [a, av] at hal hlt
    simp only [hal, Nat.not_le.2 hlt, ne_eq, not_true_eq_false, if_false]
    rfl
  · refine givesIf_of_tlWord (o := execTlDlog q aa sb s) rfl rfl rfl fun t ⟨hm, hal⟩ => ⟨vfStop_none hm, ?_⟩
    simp only [a, av] at hal
    simp only [hal, ne_eq, not_true_eq_false, if_false]
    rfl
  · refine givesIf_of_tile rfl ((exec_tlHash q aa sb s).trans rfl) rfl fun t ⟨hp, hown, hst, hx⟩ => ?_
    subst hp
    refine (if_neg fun h => h.2 (hown h.1)).trans ((if_neg (not_not.2 hst)).trans ?_)
    simp only [a, av] at hx
    simp only [hx]
    rfl
  · refine givesIf_of_tile rfl ((exec_tlHash q aa sb s).trans rfl) rfl fun t ⟨hown, hst⟩ => ?_
    exact (if_neg fun h => h.2 (hown h.1)).trans (if_pos hst)
  · rintro ins (rfl | rfl | rfl | rfl | rfl)
    · exact otherVf_traps (o := execTlInv q sc aa sb s) rfl rfl rfl
    · exact otherVf_traps (o := execTlInva q sc sb s) rfl rfl rfl
    · exact otherVf_traps (o := execTlProbe q aa sb s) rfl rfl rfl
    · exact otherVf_traps (o := execTlRoot q aa sb s) rfl rfl rfl
    · exact otherVf_traps (o := execTlDlog q aa sb s) rfl rfl rfl

end Sys2Proof.Laws

namespace Sys2Proof.Laws
open Sys2Proof Sys2Proof.Machine

/-! # The coherence protocol

What the home sends when it opens a transaction is `homeMsgs`, and the rows of R173's table are facts about that list. -/

/-! ## The directory -/

@[simp] theorem dirAt_setDir (s : State) (k m : Nat) (e : DirEnt) : dirAt (setDir s k e) m = if m = k then e else dirAt s m := by
  unfold dirAt setDir
  split
  · rename_i he
    rw [lookup_eraseKey]
    split
    · exact he.symm
    · rfl
  · rw [lookup_insertKey]
    split <;> rfl

theorem setDir_frame (s : State) (k : Nat) (e : DirEnt) : setDir s k e = { s with dir := (setDir s k e).dir } := by
  unfold setDir
  split <;> rfl

@[simp] theorem setDir_msgs (s : State) (k : Nat) (e : DirEnt) : (setDir s k e).msgs = s.msgs := by rw [setDir_frame]
@[simp] theorem setDir_waits (s : State) (k : Nat) (e : DirEnt) : (setDir s k e).waits = s.waits := by rw [setDir_frame]

theorem filter_insertKey {α : Type} {p : Nat × α → Bool} {n : Nat} (hp : ∀ v, p (n, v) = false) (v : α) (l : List (Nat × α)) :
    (insertKey n v l).filter p = l.filter p := by
  induction l with
  | nil => simp [insertKey, hp]
  | cons x xs ih =>
    obtain ⟨k, w⟩ := x
    rw [insertKey]
    split
    · simp [hp]
    · split
      · next h => subst h; simp [hp]
      · simp [List.filter_cons, ih]

theorem filter_eraseKey {α : Type} {p : Nat × α → Bool} {n : Nat} (hp : ∀ v, p (n, v) = false) (l : List (Nat × α)) :
    (eraseKey n l).filter p = l.filter p := by
  rw [eraseKey, List.filter_filter]
  refine List.filter_congr fun x _ => ?_
  obtain ⟨k, w⟩ := x
  by_cases h : k = n
  · subst h; simp [hp]
  · simp [h]

/-- A line is none of its own peers. -/
theorem dirPeers_setDir (s : State) (k : Nat) (e : DirEnt) : dirPeers (setDir s k e) k = dirPeers s k := by
  unfold dirPeers setDir
  split
  · exact filter_eraseKey (fun v => by simp) s.dir
  · exact filter_insertKey (fun v => by simp) e s.dir

/-! ## A host's fill -/

/-- What the gate says of a fill of a host (R469). -/
def fillGate (s : State) (line r : Nat) : Option Label :=
  gate s ((memOwner s (linePa s line)).getD 0) (lineLabel s (frameLabel s (linePa s line)) (linePa s line)) (.reader r)

theorem fillGate_setDir (s : State) (k : Nat) (e : DirEnt) (line r : Nat) : fillGate (setDir s k e) line r = fillGate s line r := by
  rw [setDir_frame]
  rfl

theorem fillRefused_eq_none_iff (s : State) (line k r : Nat) : fillRefused s line k r = none ↔
    ((r = 4 ∨ r = 5) → givesData (dirAt s line) k r = true → (fillGate s line r).isSome = true) := by
  unfold fillRefused fillGate
  split
  · next hr =>
    split
    · next hg => simp [hg]
    · next hg =>
      rw [not_not] at hg
      extract_lets pa l part
      cases gate s part l (.reader r) <;> simp [hr, hg]
  · next hr => simp [hr]

/-! ## Opening a transaction -/

/-- A message of the home for the transaction of r on a line. -/
def homeMsg (line r : Nat) (kd : MsgKind) (dst cnt grant : Nat) : Msg := ⟨kd, line, keyHome line, dst, r, cnt, grant⟩

/-- The sharers that a writer r has invalidated. -/
def otherSharers (e : DirEnt) (r : Nat) : List Nat := e.sh.filter (· != r)

/-- The messages of a transaction of kind k that the home opens for r (R173). -/
def homeMsgs (e : DirEnt) (line k r : Nat) : List Msg :=
  let n := (otherSharers e r).length
  let invs := (otherSharers e r).map (fun o => homeMsg line r .inv o 0 0)
  match e.own with
  | none =>
    if k = 0 then [homeMsg line r .dat r 0 (if e.sh = [] then 3 else 4)]
    else homeMsg line r (if k = 2 ∧ r ∈ e.sh then .cmp else .dat) r n 3 :: invs
  | some o =>
    if o = r then homeMsg line r .cmp r n 3 :: invs
    else if k = 0 then [homeMsg line r .fwds o 0 4, homeMsg line r .cmp r 0 4]
    else homeMsg line r .fwdx o 0 3 :: invs ++ [homeMsg line r .cmp r n 3]

/-- Does the requester have the line's data already (R173)? -/
def homeHeld (e : DirEnt) (k r : Nat) : Bool :=
  match e.own with
  | none => decide (k = 2 ∧ r ∈ e.sh)
  | some o => o == r

/-- Messages sent one after another (`sendMsg`). -/
theorem foldl_msgs (f : Nat → Msg) (l : List Nat) (s : State) :
    l.foldl (fun u o => { u with msgs := u.msgs ++ [f o] }) s = { s with msgs := s.msgs ++ l.map f } := by
  induction l generalizing s with
  | nil => simp
  | cons o l ih => rw [List.foldl_cons, ih]; simp

theorem homeOpen_eq {k : Nat} (hk : k ≤ 2) (s : State) (line r : Nat) : homeOpen s line k r =
    { setDir s line { dirAt s line with opn := some (k, r) } with
      msgs := s.msgs ++ homeMsgs (dirAt s line) line k r
      waits := s.waits ++ [⟨line, r, homeHeld (dirAt s line) k r, 0, none, 0, k != 0⟩] } := by
  have h5 : k ≠ 5 := by omega
  unfold homeOpen
  obtain ⟨own, sh, st, opn, queue⟩ := dirAt s line
  cases own with
  | none =>
    by_cases hk0 : k = 0
    · simp [hk0, homeMsgs, homeMsg, homeHeld, sendMsg]
    · by_cases hk2 : k = 2 ∧ r ∈ sh
      · simp [hk2, homeMsgs, homeMsg, otherSharers, homeHeld, foldl_msgs, sendMsg]
      · simp [h5, hk0, hk2, homeMsgs, homeMsg, otherSharers, homeHeld, foldl_msgs, sendMsg]
  | some o =>
    by_cases hor : o = r
    · simp [h5, hor, homeMsgs, homeMsg, otherSharers, homeHeld, foldl_msgs, sendMsg]
    · by_cases hk0 : k = 0
      · simp [hk0, hor, homeMsgs, homeMsg, homeHeld, sendMsg]
      · simp [h5, hk0, hor, homeMsgs, homeMsg, otherSharers, homeHeld, foldl_msgs, sendMsg]

theorem homeOpen_dirAt {k : Nat} (hk : k ≤ 2) (s : State) (line r : Nat) :
    dirAt (homeOpen s line k r) line = { dirAt s line with opn := some (k, r) } := by
  rw [homeOpen_eq hk]
  exact (dirAt_setDir ..).trans (if_pos rfl)

/-! ## A request at the home -/

/-- A request that opens or ends nothing yet is the first that the home takes up. -/
theorem request_idle {s : State} {line k r : Nat} (hline : line % 128 = 0) (hask : canAsk (dirAt s line) k r = true)
    (hopn : (dirAt s line).opn = none) (hq : (dirAt s line).queue = []) :
    request s line k r = homeNext line 1 (setDir s line { dirAt s line with queue := [(k, r)] }) := by
  simp [request, hline, hask, hopn, hq]

theorem request_waits {s : State} {line k r : Nat} {x : Nat × Nat} (hline : line % 128 = 0) (hask : canAsk (dirAt s line) k r = true)
    (hopn : (dirAt s line).opn = some x) (hx : x.2 ≠ r) (hq : ∀ y ∈ (dirAt s line).queue, y.2 ≠ r) :
    request s line k r = setDir s line { dirAt s line with queue := (dirAt s line).queue ++ [(k, r)] } := by
  have hout : (dirAt s line).opn.any (fun q => q.2 == r) = false := by simp [hopn, hx]
  have hnew : (dirAt s line).queue.any (fun q => q.2 == r) = false := by simpa using hq
  have hne : ¬(line % 128 ≠ 0 ∨ ¬canAsk (dirAt s line) k r ∨ (dirAt s line).opn.any (fun q => q.2 == r)
      ∨ (dirAt s line).queue.any (fun q => q.2 == r)) := by simp [hline, hask, hout, hnew]
  refine (if_neg hne).trans ?_
  simp only [homeNext, dirAt_setDir, if_true, hopn]

/-- The state in which the home takes up a request that finds the line idle: its directory holds what it held. -/
def takenUp (s : State) (line k r : Nat) : State := setDir (setDir s line { dirAt s line with queue := [(k, r)] }) line (dirAt s line)

@[simp] theorem takenUp_dirAt (s : State) (line k r : Nat) : dirAt (takenUp s line k r) line = dirAt s line := by simp [takenUp]
@[simp] theorem takenUp_msgs (s : State) (line k r : Nat) : (takenUp s line k r).msgs = s.msgs := by simp [takenUp]
@[simp] theorem takenUp_waits (s : State) (line k r : Nat) : (takenUp s line k r).waits = s.waits := by simp [takenUp]

theorem takenUp_fillGate (s : State) (line k r : Nat) : fillGate (takenUp s line k r) line r = fillGate s line r :=
  (fillGate_setDir ..).trans (fillGate_setDir ..)

section
variable {s : State} {line k r : Nat} (hopn : (dirAt s line).opn = none) (hq : (dirAt s line).queue = [])
include hopn hq

/-- What the home does with a request that finds the line idle. -/
theorem homeNext_idle : homeNext line 1 (setDir s line { dirAt s line with queue := [(k, r)] }) =
    if 2 < k then homeLeave (takenUp s line k r) line r
    else (fillRefused (takenUp s line k r) line k r).getD
      ((roomFor (setDir s line { dirAt s line with queue := [(k, r)] }) line).getD (homeOpen (takenUp s line k r) line k r)) := by
  unfold takenUp
  generalize dirAt s line = e at hopn hq ⊢
  obtain ⟨own, sh, st, opn, queue⟩ := e
  subst hopn hq
  simp only [homeNext, dirAt_setDir, if_true]
  generalize fillRefused _ line k r = o
  cases o <;> rfl

theorem homeNext_leaves (hk : 2 < k) :
    homeNext line 1 (setDir s line { dirAt s line with queue := [(k, r)] }) = homeLeave (takenUp s line k r) line r := by
  rw [homeNext_idle hopn hq, if_pos hk]

theorem homeNext_opens (hk : k ≤ 2) (hfill : r < 4 ∨ fillRefused s line k r = none)
    (hroom : (dirAt s line).own ≠ none ∨ (dirAt s line).sh ≠ [] ∨ (dirPeers s line).length < 16) :
    homeNext line 1 (setDir s line { dirAt s line with queue := [(k, r)] }) = homeOpen (takenUp s line k r) line k r := by
  have hgo : fillRefused (takenUp s line k r) line k r = none := by
    rw [fillRefused_eq_none_iff, takenUp_dirAt, takenUp_fillGate]
    rcases hfill with hr | hfill
    · omega
    · exact (fillRefused_eq_none_iff ..).1 hfill
  have hfree : roomFor (setDir s line { dirAt s line with queue := [(k, r)] }) line = none := by
    rw [roomFor, dirAt_setDir, if_pos rfl, dirPeers_setDir]
    refine if_pos ?_
    simpa [DirEnt.live, hopn, Option.isSome_iff_ne_none, or_assoc] using hroom
  rw [homeNext_idle hopn hq, if_neg (Nat.not_lt.2 hk), hgo, hfree]
  rfl

end

/-! ## R173's table -/

theorem homeOpen_opens {s : State} {ins : Instr} {line k r : Nat} {held : Bool} {l : List Msg} (hx : exec ins s = .next (request s line k r))
    (hk : k ≤ 2) (hheld : homeHeld (dirAt s line) k r = held) (hl : (homeMsgs (dirAt s line) line k r).Perm l)
    (hidle : line % 128 = 0 ∧ canAsk (dirAt s line) k r = true ∧ (dirAt s line).opn = none ∧ (dirAt s line).queue = [])
    (hfill : r < 4 ∨ fillRefused s line k r = none)
    (hroom : (dirAt s line).own ≠ none ∨ (dirAt s line).sh ≠ [] ∨ (dirPeers s line).length < 16) :
    ∃ t sent, exec ins s = .next t ∧ t.msgs = s.msgs ++ sent ∧ sent.Perm l ∧ dirAt t line = { dirAt s line with opn := some (k, r) }
      ∧ t.waits = s.waits ++ [⟨line, r, held, 0, none, 0, k != 0⟩] := by
  obtain ⟨hline, hask, hopn, hq⟩ := hidle
  refine ⟨homeOpen (takenUp s line k r) line k r, homeMsgs (dirAt s line) line k r, ?_, ?_, hl, ?_, ?_⟩
  · rw [hx, request_idle hline hask hopn hq, homeNext_opens hopn hq hk hfill hroom]
  · rw [homeOpen_eq hk, takenUp_dirAt, takenUp_msgs]
  · rw [homeOpen_dirAt hk, takenUp_dirAt]
  · rw [homeOpen_eq hk, takenUp_dirAt, takenUp_waits, hheld]

theorem homeLeave_leaves {s : State} {ins : Instr} {line k r : Nat} (hx : exec ins s = .next (request s line k r)) (hk : 2 < k)
    (hidle : line % 128 = 0 ∧ canAsk (dirAt s line) k r = true ∧ (dirAt s line).opn = none ∧ (dirAt s line).queue = []) :
    ∃ t, exec ins s = .next t ∧ t.msgs = s.msgs ++ [homeMsg line r .cmp r 0 0] ∧ dirAt t line = dirLeave (dirAt s line) r := by
  obtain ⟨hline, hask, hopn, hq⟩ := hidle
  refine ⟨homeLeave (takenUp s line k r) line r, ?_, ?_, ?_⟩
  · rw [hx, request_idle hline hask hopn hq, homeNext_leaves hopn hq hk]
  · simp [homeLeave, sendMsg, homeMsg]
  · exact (dirAt_setDir ..).trans (by rw [if_pos rfl, takenUp_dirAt])

theorem dirLeave_eq (e : DirEnt) (r : Nat) : dirLeave e r = { e with
    own := if e.own = some r then none else e.own, sh := if e.own = some r then e.sh else otherSharers e r, st := eraseKey r e.st } := by
  unfold dirLeave dropHold otherSharers
  split <;> simp_all

section
variable {e : DirEnt} {r : Nat}

/-- A line that no die holds. -/
theorem homeMsgs_uncached (ho : e.own = none) (hs : e.sh = []) (line k : Nat) :
    homeMsgs e line k r = [homeMsg line r .dat r 0 3] ∧ homeHeld e k r = false := by
  by_cases hk : k = 0
  · simp [homeMsgs, homeHeld, ho, hs, hk]
  · simp [homeMsgs, homeHeld, otherSharers, ho, hs, hk]

/-- A line that dies share and none owns, read. -/
theorem homeMsgs_shared_read (ho : e.own = none) (hs : e.sh ≠ []) (line : Nat) :
    homeMsgs e line 0 r = [homeMsg line r .dat r 0 4] ∧ homeHeld e 0 r = false := by
  simp [homeMsgs, homeHeld, ho, hs]

/-- A line that dies share and none owns, written by a die that has no copy to keep. -/
theorem homeMsgs_shared_write {k : Nat} (ho : e.own = none) (hk : k ≠ 0) (hno : ¬(k = 2 ∧ r ∈ e.sh)) (line : Nat) :
    homeMsgs e line k r = homeMsg line r .dat r (otherSharers e r).length 3 :: (otherSharers e r).map (fun o => homeMsg line r .inv o 0 0)
      ∧ homeHeld e k r = false := by
  simp [homeMsgs, homeHeld, ho, hk, hno]

/-- A line that dies share and none owns, upgraded by one of them. -/
theorem homeMsgs_shared_upgrade (ho : e.own = none) (hr : r ∈ e.sh) (line : Nat) :
    homeMsgs e line 2 r = homeMsg line r .cmp r (otherSharers e r).length 3 :: (otherSharers e r).map (fun o => homeMsg line r .inv o 0 0)
      ∧ homeHeld e 2 r = true := by
  simp [homeMsgs, homeHeld, ho, hr]

/-- A line that another die owns, read. -/
theorem homeMsgs_owned_read {o : Nat} (ho : e.own = some o) (hor : o ≠ r) (line : Nat) :
    homeMsgs e line 0 r = [homeMsg line r .fwds o 0 4, homeMsg line r .cmp r 0 4] ∧ homeHeld e 0 r = false := by
  simp [homeMsgs, homeHeld, ho, hor]

/-- A line that another die owns, written: the order of the messages does not matter. -/
theorem homeMsgs_owned_write {k o : Nat} (ho : e.own = some o) (hor : o ≠ r) (hk : k ≠ 0) (line : Nat) :
    (homeMsgs e line k r).Perm (homeMsg line r .fwdx o 0 3 :: homeMsg line r .cmp r (otherSharers e r).length 3
        :: (otherSharers e r).map (fun o => homeMsg line r .inv o 0 0))
      ∧ homeHeld e k r = false := by
  refine ⟨?_, by simp [homeHeld, ho, hor]⟩
  simp only [homeMsgs, ho, hor, hk, if_false, List.cons_append]
  exact (List.perm_append_singleton _ _).cons _

/-- A line that the requester owns, upgraded. -/
theorem homeMsgs_own_upgrade (ho : e.own = some r) (line : Nat) :
    homeMsgs e line 2 r = homeMsg line r .cmp r (otherSharers e r).length 3 :: (otherSharers e r).map (fun o => homeMsg line r .inv o 0 0)
      ∧ homeHeld e 2 r = true := by
  simp [homeMsgs, homeHeld, ho]

end

theorem dirRead_first {d : DirEnt} (ho : d.own = none) (hs : d.sh = []) (r : Nat) : (dirRead d r).own = some r ∧ (dirRead d r).sh = [] := by
  simp [dirRead, ho, hs]

theorem dirRead_shares {d : DirEnt} (h : d.own ≠ none ∨ d.sh ≠ []) (r : Nat) :
    (dirRead d r).own = d.own ∧ ∀ a, a ∈ (dirRead d r).sh ↔ a = r ∨ a ∈ d.sh := by
  have hmem (a : Nat) : a ∈ r :: d.sh.filter (· != r) ↔ a = r ∨ a ∈ d.sh := by
    by_cases ha : a = r <;> simp [ha]
  cases ho : d.own with
  | none =>
    have hs : d.sh ≠ [] := h.resolve_left (not_not.2 ho)
    simpa only [dirRead, ho, hs, if_false, true_and] using hmem
  | some o => simpa only [dirRead, ho, true_and] using hmem

theorem theHomeFollowsItsTable : Claims.TheHomeFollowsItsTable := by
  intro line r s e others msg invs idle opens
  refine ⟨fun ho hs => ?_, fun ho hs => ⟨?_, ?_, fun hr => ?_, fun hr => ?_⟩, fun o ho hor => ⟨?_, ?_, ?_⟩, fun ho => ?_, ?_, ?_⟩
  · have row (k : Nat) := homeMsgs_uncached (r := r) ho hs line k
    exact ⟨homeOpen_opens rfl (by decide) (row 0).2 (.of_eq (row 0).1), homeOpen_opens rfl (by decide) (row 1).2 (.of_eq (row 1).1),
      homeOpen_opens rfl (by decide) (row 2).2 (.of_eq (row 2).1)⟩
  · have row := homeMsgs_shared_read (r := r) ho hs line
    exact homeOpen_opens rfl (by decide) row.2 (.of_eq row.1)
  · have row := homeMsgs_shared_write (k := 1) (r := r) ho (by decide) (by simp) line
    exact homeOpen_opens rfl (by decide) row.2 (.of_eq row.1)
  · have row := homeMsgs_shared_write (k := 2) (r := r) ho (by decide) (fun h => hr h.2) line
    exact homeOpen_opens rfl (by decide) row.2 (.of_eq row.1)
  · have row := homeMsgs_shared_upgrade (r := r) ho hr line
    exact homeOpen_opens rfl (by decide) row.2 (.of_eq row.1)
  · have row := homeMsgs_owned_read ho hor line
    exact homeOpen_opens rfl (by decide) row.2 (.of_eq row.1)
  · have row := homeMsgs_owned_write (k := 1) ho hor (by decide) line
    exact homeOpen_opens rfl (by decide) row.2 row.1
  · have row := homeMsgs_owned_write (k := 2) ho hor (by decide) line
    exact homeOpen_opens rfl (by decide) row.2 row.1
  · have row := homeMsgs_own_upgrade ho line
    exact homeOpen_opens rfl (by decide) row.2 (.of_eq row.1)
  · rintro ins k (⟨rfl, rfl⟩ | ⟨rfl, rfl⟩) hidle
    · obtain ⟨t, hx, hm, hd⟩ := homeLeave_leaves (ins := .wbd line r) rfl (by decide) hidle
      exact ⟨t, hx, hm, hd.trans (dirLeave_eq e r)⟩
    · obtain ⟨t, hx, hm, hd⟩ := homeLeave_leaves (ins := .evc line r) rfl (by decide) hidle
      exact ⟨t, hx, hm, hd.trans (dirLeave_eq e r)⟩
  · exact fun d => ⟨⟨rfl, rfl⟩, fun ho hs => dirRead_first ho hs r, fun h => dirRead_shares h r⟩

/-! ## The messages -/

section
variable {s : State} {line a : Nat} {m : Msg}

theorem fwds_serves (hm : msgTo s .fwds line a = some m) : exec (.fwds line a) s = .next (sendMsg
    (setDir (dropMsg s m) line (ownerShares a (dirAt s line))) ⟨.dat, line, a, m.req, m.req, 0, 4⟩) := by
  change execFwds line a s = _
  simp only [execFwds, hm]
  rfl

theorem fwdx_serves (hm : msgTo s .fwdx line a = some m) : exec (.fwdx line a) s = .next (sendMsg
    (dieDrops (setDir (dropMsg s m) line (dropHold a (dirAt s line))) line a)
    ⟨.dat, line, a, m.req, m.req, 0, if holds (dirAt s line) a = 1 ∨ holds (dirAt s line) a = 2 then 1 else 3⟩) := by
  change execFwdx line a s = _
  simp only [execFwdx, hm, Bool.or_eq_true, beq_iff_eq]
  rfl

theorem inv_acks (hm : msgTo s .inv line a = some m) : exec (.inv line a) s = .next (sendMsg
    (dieDrops (setDir (dropMsg s m) line (dropHold a (dirAt s line))) line a) ⟨.ack, line, a, m.req, m.req, 0, 0⟩) := by
  change execInv line a s = _
  simp only [execInv, hm]
  rfl

theorem dat_finishes {w : Waiting} (hm : msgTo s .dat line a = some m) (hw : waitOf s line a = some w) :
    exec (.dat line a) s = .next (finishWait (dropMsg s m) { w with
      data := true, grant := m.grant, need := if (dirAt s line).own = none then some m.cnt else w.need }) := by
  change execDat line a s = _
  simp only [execDat, hm, hw, Option.isNone_iff_eq_none]

theorem cmp_ends (hm : msgTo s .cmp line a = some m) (hg : m.grant = 0) : exec (.cmpMessage line a) s = .next (dropMsg s m) := by
  change execCmpMessage line a s = _
  simp only [execCmpMessage, hm, hg]

theorem cmp_finishes {w : Waiting} (hm : msgTo s .cmp line a = some m) (hg : m.grant ≠ 0) (hw : waitOf s line a = some w) :
    exec (.cmpMessage line a) s = .next (finishWait (dropMsg s m) { w with
      need := some m.cnt, grant := if w.data = true ∧ w.grant = 0 then 3 else w.grant }) := by
  have hw' : waitOf (dropMsg s m) line a = some w := hw
  obtain ⟨g, hg'⟩ := Nat.exists_eq_succ_of_ne_zero hg
  change execCmpMessage line a s = _
  simp only [execCmpMessage, hm, hg', hw']

theorem ack_finishes {w : Waiting} (hm : msgTo s .ack line a = some m) (hw : waitOf s line a = some w) :
    exec (.ack line a) s = .next (finishWait (dropMsg s m) { w with got := w.got + 1 }) := by
  change execAck line a s = _
  simp only [execAck, hm, hw]

theorem don_closes {k : Nat}
    (hm : s.msgs.findSome? (fun m => if m.kind == .don && m.line == line && m.src == a then inOrder s m else none) = some m)
    (ho : (dirAt s line).opn = some (k, a)) : exec (.don line a) s = .next (homeGoOn (setDir (dropMsg s m) line
      { (if k = 0 then dirRead (dirAt s line) a else dirWrite (dirAt s line) a) with opn := none }) line) := by
  have ho' : (dirAt (dropMsg s m) line).opn = some (k, a) := ho
  change execDon line a s = _
  simp only [execDon, hm, ho', if_true]
  rfl

end

/-- The state without the wait of w. -/
def endWait (s : State) (w : Waiting) : State :=
  let other (x : Waiting) : Bool := !(x.line == w.line && x.req == w.req)
  { s with waits := (s.waits.filter other ++ [w]).filter other }

/-- Once its data and every acknowledgement are there a wait ends: the home's own frees the entry, another's holds the line. -/
theorem finishWait_done {s : State} {w : Waiting} {n : Nat} (hn : w.need = some n) (hd : w.data = true) (hg : n ≤ w.got) :
    finishWait s w =
      if w.req = homeAgent then
        homeGoOn (setDir (endWait s w) w.line { DirEnt.none with queue := (dirAt (endWait s w) w.line).queue }) w.line
      else sendMsg (setDir (endWait s w) w.line (setHold w.req (if w.write then 1 else w.grant) (dirAt (endWait s w) w.line)))
        ⟨.don, w.line, w.req, keyHome w.line, w.req, 0, 0⟩ := by
  simp only [finishWait, hn, hd, hg, and_self, if_true]
  rfl

theorem holds_setHold (e : DirEnt) (a x : Nat) : holds (setHold a x e) a = x := by
  simp [holds, setHold, lookup_insertKey]

theorem messagesMoveLines : Claims.MessagesMoveLines := by
  intro line a s asks
  have hasks (ins : Instr) (k : Nat) (hx : exec ins s = .next (request s line k a)) : asks ins k := by
    refine ⟨hx, fun hline hask x hopn hne hq => ⟨_, hx.trans (congrArg Host.Outcome.next (request_waits hline hask hopn hne hq)), ?_, ?_⟩⟩
    · rw [dirAt_setDir, if_pos rfl, hopn]
    · rw [dirAt_setDir, if_pos rfl]
  refine ⟨hasks _ 0 rfl, hasks _ 1 rfl, hasks _ 2 rfl, hasks _ 3 rfl, hasks _ 4 rfl, ?_, ?_, ?_, fun m w hm hw => ⟨_, dat_finishes hm hw, rfl⟩,
    fun m hm => ⟨cmp_ends hm, fun w => cmp_finishes hm⟩, fun m w => ack_finishes, fun m k => don_closes,
    fun w n hreq hn hd hg => ?_, fun w n hreq hn hd hg => ?_⟩
  · rintro m t hm rfl
    exact fwds_serves hm
  · rintro m t hm rfl
    exact ⟨fun hd => (fwdx_serves hm).trans (by rw [if_pos hd]), fun h1 h2 => (fwdx_serves hm).trans (by rw [if_neg (not_or.2 ⟨h1, h2⟩)])⟩
  · rintro m t hm rfl
    exact inv_acks hm
  · refine ⟨_, (finishWait_done hn hd hg).trans (if_neg hreq), ?_⟩
    rw [dirAt_setDir, if_pos rfl, holds_setHold]
  · exact ⟨_, (finishWait_done hn hd hg).trans (if_pos hreq)⟩

/-- Settles O44: a request of an idle line is taken up at once, and what the home then sends is a row of `homeMsgs`. -/
theorem coherenceMessagesAct : Obligations.CoherenceMessagesAct := ⟨theHomeFollowsItsTable, messagesMoveLines⟩

end Sys2Proof.Laws

namespace Sys2Proof.Laws
open Sys2Proof Sys2Proof.Machine

/-! # Walks, memory errors, scrubbing and links -/

/-! ## The machine-check log -/

/-- The head, the tail and the entries of the machine-check log. -/
def mcLogOf (s : State) : BitVec 32 × BitVec 32 × List (Nat × BitVec 512) := (s.mcHead, s.mcTail, s.mcLog)

theorem mcAppend_logs {w : State} (hroom : (w.mcTail - w.mcHead).toNat < 1024) (kind src own cause addr info : Nat) :
    (mcAppend w kind src own cause addr info).mcTail = w.mcTail + 1 ∧ (mcAppend w kind src own cause addr info).mcHead = w.mcHead
      ∧ lookup (mcAppend w kind src own cause addr info).mcLog (w.mcTail.toNat % 1024) = some (BitVec.ofNat 512
        (kind + (src <<< 8) + (own <<< 16) + (cause <<< 32) + (nowNs w <<< 64) + (addr <<< 128) + (info <<< 192))) := by
  rw [mcAppend, if_pos hroom]
  exact ⟨rfl, rfl, (lookup_insertKey ..).trans (if_pos rfl)⟩

/-! ## Memory errors -/

theorem pageWalk_marks {s t : State} {va : BitVec 72} {vf : BitVec 9} {k p : BitVec 2} {x : Xlat}
    (h : translateMark s va.toNat vf.toNat (((vfAt s vf.toNat).part).getD 0) (min 2 p.toNat) 8 (kindOf k) = .ok (t, x)) :
    exec (.pageWalk va vf k p) s = .next t := by
  change execPageWalk va vf k p s = _
  simp only [execPageWalk, h]

theorem linesOf_line {a : Nat} (h : a % 128 = 0) : linesOf a 128 = [a] := by
  simp [linesOf, h]
  omega

theorem isPoisoned_of_mem {s w : State} {a : Nat} (hal : a % 128 = 0) (hkey : key w a = key s a) (h : key s a ∈ w.poison) :
    isPoisoned w a 128 = true := by
  simpa [isPoisoned, linesOf_line hal, hkey] using h

/-- The line at a with a place in the list of poisoned lines, and the two open values drawn that name its copy and its owner (log 6). -/
def struckLine (s : State) (a : Nat) : State :=
  { s with fresh := s.fresh + 2, poison := if s.poison.contains (key s a) then s.poison else key s a :: s.poison }

theorem struckLine_poisoned {s : State} {a : Nat} (hal : a % 128 = 0) : isPoisoned (struckLine s a) a 128 = true := by
  refine isPoisoned_of_mem (s := s) hal rfl ?_
  by_cases h : key s a ∈ s.poison <;> simp [struckLine, h]

theorem uncorrectableError_logs {s : State} {pa : BitVec 56} {a : Nat} (ha : a = pa.toNat / 128 * 128) (hm : isMem a = true) :
    ∃ src own core, exec (.uncorrectableError pa) s = .next (mcAppend (struckLine s a) 1 src own 0 a (256 + core)) := by
  subst ha
  change ∃ src own core, execUncorrectableError pa s = _
  simp only [execUncorrectableError, hm, not_true_eq_false, if_false]
  exact ⟨_, _, _, rfl⟩

/-! ## Die links -/

/-- What the failure of a link keeps of the log and the links that are down. -/
def linkView (s : State) : (BitVec 32 × BitVec 32 × List (Nat × BitVec 512)) × List (Nat × Nat) := (mcLogOf s, s.downLinks)

theorem setDir_linkView (s : State) (k : Nat) (e : DirEnt) : linkView (setDir s k e) = linkView s := by
  rw [setDir_frame]
  rfl

theorem settleLine_linkView (s : State) (line : Nat) : linkView (settleLine s line) = linkView s := by
  unfold settleLine
  extract_lets e
  split
  · rfl
  · exact setDir_linkView ..

theorem poisonLine_linkView (s : State) (line : Nat) : linkView (poisonLine s line) = linkView s := rfl

theorem cutLine_linkView (a b : Nat) (s : State) (line : Nat) : linkView (cutLine a b s line) = linkView s := by
  have poisonIf (p : Bool) (t : State) : linkView (if p then poisonLine t line else t) = linkView t := by
    cases p <;> rfl
  unfold cutLine
  extract_lets h e crosses onWay lost dirty s1 s2 s1' s2'
  split
  · exact (poisonIf dirty s2).trans ((settleLine_linkView ..).trans (setDir_linkView s1 line (forget lost e)))
  · split
    · exact (poisonIf onWay s2').trans ((settleLine_linkView ..).trans (setDir_linkView s1' line _))
    · rfl

theorem dieLinkFailure_logs {s : State} {a b : Nat} (hab : a ≠ b) (ha : a < 6) (hb : b < 6) (hup : linkIsDown s a b = false) :
    ∃ w hit, exec (.dieLinkFailure a b) s =
        .next (cutMail a b (cutGraphs a b (cutRecords a b (freezeTrees (mcAppend w 2 (a + b * 16) 0 0 0 0) hit))))
      ∧ linkIsDown w a b = true ∧ w.mcHead = s.mcHead ∧ w.mcTail = s.mcTail ∧ w.mcLog = s.mcLog := by
  have hgo : ¬(a = b ∨ 6 ≤ a ∨ 6 ≤ b ∨ linkIsDown s a b) := by
    simp [hab, hup, ha, hb]
  obtain ⟨w, hit, hx, hview⟩ : ∃ w hit, exec (.dieLinkFailure a b) s =
        .next (cutMail a b (cutGraphs a b (cutRecords a b (freezeTrees (mcAppend w 2 (a + (b <<< 4)) 0 0 0 0) hit))))
      ∧ linkView w = (mcLogOf s, (a, b) :: s.downLinks) :=
    ⟨_, _, if_neg hgo, foldl_view linkView (cutLine_linkView a b) _ { s with downLinks := (a, b) :: s.downLinks }⟩
  obtain ⟨hlog, hdown⟩ := Prod.mk.inj hview
  obtain ⟨hhead, htail, hmc⟩ : w.mcHead = s.mcHead ∧ w.mcTail = s.mcTail ∧ w.mcLog = s.mcLog := by
    simpa [mcLogOf] using hlog
  rw [Nat.shiftLeft_eq] at hx
  exact ⟨w, hit, hx, by simp [linkIsDown, hdown], hhead, htail, hmc⟩

/-! ## Quaylink ports -/

theorem qlAt_setQl {s : State} {p : Nat} (h : (qlAt s p).st ≠ 0) (q : QlPort) : qlAt (setQl s p q) p = q := by
  have hlt : p < s.dev.ql.length := by
    by_contra hge
    simp [qlAt, hge] at h
  simp [qlAt, setQl, hlt]

theorem qlTrainComplete_eq {s : State} {p : Nat} (hp : p < 24) (hst : (qlAt s p).st = 1) (l : Nat) :
    exec (.qlTrainComplete p l) s = .next (if l % 16 = 15 then setQl s p { qlAt s p with st := 2, lanes := 15 }
      else mcAppend (setQl s p { qlAt s p with st := 0, lanes := BitVec.ofNat 4 l }) 3 p 0 0 0 0) := by
  change execQlTrainComplete p l s = _
  simp only [execQlTrainComplete, hp, hst, and_self, not_true_eq_false, if_false]

theorem quaylinkPortDown_logs {s : State} {p : Nat} (hp : p < 24) (hst : (qlAt s p).st = 2) :
    ∃ w u hit, u = mcAppend w 3 p 0 0 0 0 ∧ exec (.quaylinkPortDown p) s = .next (freezeTrees
        { u with core := cutLandings (16 + p) u.core, others := u.others.map (fun e => (e.1, cutLandings (16 + p) e.2)) } hit)
      ∧ qlAt w p = { qlAt s p with st := 0, lanes := 0, down := true } ∧ w.mcHead = s.mcHead ∧ w.mcTail = s.mcTail ∧ w.mcLog = s.mcLog := by
  have hlive : ¬¬(p < 24 ∧ ((qlAt s p).st = 2 ∨ s.dev.cut.contains p)) := not_not.2 ⟨hp, .inl hst⟩
  change ∃ w u hit, _ ∧ execQuaylinkPortDown p s = _ ∧ _
  simp only [execQuaylinkPortDown, if_neg hlive, if_pos hst]
  exact ⟨_, _, _, rfl, rfl, qlAt_setQl (by simp [hst]) _, rfl, rfl, rfl⟩

/-! ## Flits -/

section
variable {s : State} {p : Nat} {dst src : BitVec 20} {ch : BitVec 15} {addr : BitVec 56} {data : List (BitVec 8)} {l : Label}
  (hp : p < 24) (hst : (qlAt s p).st = 2) (hlen : data.length ≤ 224)
include hp hst hlen

/-- A flit that an up port receives goes on, is performed, or joins a tree's segments, as its destination and its class say. -/
theorem quaylinkFlit_received : exec (.quaylinkFlit p dst src ch addr data l) s =
    .next (if dst.toNat / 256 ≠ s.dev.pod.toNat then relay s ⟨0, dst, src, ch, addr, data, l, 0⟩
      else if bits ch.toNat 10 9 = 0 then remoteAccess s dst src ch addr.toNat data l
      else if bits ch.toNat 10 9 = 3 ∧ src.toNat / 256 ≠ s.dev.pod.toNat then treeFlit s src ch l
      else s) := by
  have hup : ¬(¬(p < 24 ∧ (qlAt s p).st = 2) ∨ 224 < data.length) := by
    simp [hp, hst, hlen]
  exact congrArg Host.Outcome.next (if_neg hup)

end

theorem relay_goes {s t : State} {f : Flit} (h : sendFlit s f = some t) : relay s f = t := by
  simp only [relay, h]

theorem relay_lost {s : State} {f : Flit} (h : sendFlit s f = none) : relay s f =
    if bits f.ch.toNat 10 9 = 0 then
      (sendFlit s { f with dst := f.src, src := f.dst, ch := BitVec.ofNat 15 (f.ch.toNat % 512 + 2 * 512), data := [], lab := 0 }).getD s
    else s := by
  simp only [relay, h]
  rfl

/-- Settles O45: each event finds its condition met, and what the log's entry is made from is as it was before the event. -/
theorem walkErrorAndLinkEventsAct : Obligations.WalkErrorAndLinkEventsAct := by
  intro s logs
  refine ⟨fun va vf k p t x h => pageWalk_marks h, fun pa a ha hm => ?_, fun pa => ⟨_, rfl, rfl, rfl⟩, fun lo n l h => ?_, ?_,
    fun a b => dieLinkFailure_logs, fun p hp => ⟨congrArg Host.Outcome.next (if_pos hp), fun v => congrArg Host.Outcome.next (if_pos hp)⟩,
    fun p l hp hst => ⟨fun hl => ?_, fun hl => ?_⟩, fun p => quaylinkPortDown_logs, fun p dst src ch addr data l hp hst hlen => ⟨?_, ?_, ?_⟩⟩
  · obtain ⟨src, own, core, hx⟩ := uncorrectableError_logs ha hm
    exact ⟨struckLine s a, src, own, core, hx, struckLine_poisoned (by omega), rfl, rfl, rfl, rfl⟩
  · change execScrubLine s = _
    simp only [execScrubLine, h]
  · rintro w kind src own cause addr info hroom t rfl
    exact mcAppend_logs hroom kind src own cause addr info
  · rw [qlTrainComplete_eq hp hst, if_pos hl]
  · rw [qlTrainComplete_eq hp hst, if_neg hl]
  · rintro haway f rfl
    rw [quaylinkFlit_received hp hst hlen, if_pos haway]
    refine ⟨fun t ht => ?_, fun hn hc => ?_, fun hn hc => ?_⟩
    · rw [relay_goes ht]
    · rw [relay_lost hn, if_neg hc]
    · rw [relay_lost hn, if_pos hc]
  · intro hhere hc
    rw [quaylinkFlit_received hp hst hlen, if_neg (not_not.2 hhere), if_pos hc]
  · intro hhere hc
    rw [quaylinkFlit_received hp hst hlen, if_neg (not_not.2 hhere), if_neg (by omega), if_neg (by omega)]

end Sys2Proof.Laws

namespace Sys2Proof.Laws
open Sys2Proof Sys2Proof.Machine

/-! # A spill whose ranges meet past the top of the address space -/

/-- The registers that a spill's control word names. -/
def spillNames (x : Nat) : List RegName := namedA (bits x 9 6) :: (if bit x 10 then [namedA (bits x 14 11)] else [])

theorem ready_naming {i : Info} {s : State} (h : Ready i s) (l : List RegName) : Ready (i.naming l) s := h

/-- A spill past the checks of its control word whose ranges meet takes operand alias (R205, R215). -/
theorem issueSpill_aliased {i : Info} {kind : CmdKind} {rl : BitVec 1} {sc : BitVec 3} {aa : BitVec 4} {sb : BitVec 5} {s t : State} {x : Nat}
    {e : Stop} (hx : x = (sv s sb).toNat) (ht : t = joined (i.naming (spillNames x)) s) (hr : Ready i s)
    (hbits : ¬(bit x 15 ∨ (¬bit x 10 ∧ bits x 14 11 ≠ 0)))
    (hal : ¬((av t aa).toNat % 128 ≠ 0 ∨ (ctlA t.core (bits x 9 6)).toNat % 128 ≠ 0 ∨ (x >>> 16) % 128 ≠ 0 ∨ x >>> 16 < 128
      ∨ (bit x 10 ∧ (ctlA t.core (bits x 14 11)).toNat % 16 ≠ 0)))
    (hmeet : aliasStop ((av t aa).toNat, (av t aa).toNat + x >>> 16) ((ctlA t.core (bits x 9 6)).toNat, (ctlA t.core (bits x 9 6)).toNat + x >>> 16)
      = some e) : issueSpill i kind rl sc aa sb s = settle s (.error e) := by
  subst hx ht
  refine (tile_ready (ready_naming hr _) rfl).trans (congrArg (settle s) ?_)
  refine (if_neg hbits).trans ((if_neg hal).trans ?_)
  split
  · next hsome => exact congrArg Except.error (Option.some.inj (hsome.symm.trans hmeet))
  · next hnone => exact nomatch hnone.symm.trans hmeet

/-- A core at privilege F whose a1 is the last line of the address space and whose s1 asks to spill the 256 bytes from a1 on, the second
128 of which lie at 0, to a2, which is 0. -/
def wrappedSpill : State :=
  { State.reset with
    core := ({ Core.reset with
      run := some ⟨0x10000, 2, 0, 0, 0, 0x20000, 0, 0, 0, 0, false, 0, 0, 0, 0, 0, false, 0⟩
      ctxs := Core.reset.ctxs.setIfInBounds 0 { TagCtx.free with owner := some 0x10000 } }.wrA 1 (BitVec.ofNat 72 (2 ^ 72 - 128)) 0).wrS 1
        (BitVec.ofNat 64 (2 * 2 ^ 6 + 256 * 2 ^ 16)) 0 }

/-- The control word of that spill, and the state in which it acts. -/
def wrapCtl : Nat := (sv wrappedSpill 1).toNat
def wrapState : State := joined ((infoCpSpill 0 0 0 0 1 1).naming (spillNames wrapCtl)) wrappedSpill

theorem wrappedSpill_ready : Ready (infoCpSpill 0 0 0 0 1 1) wrappedSpill := by
  unfold Ready
  decide +kernel

/-- Its two ranges meet at byte 0. -/
theorem wrappedSpill_traps : exec (.cpSpill 0 0 0 0 1 1) wrappedSpill = .next (takeTrap wrappedSpill 0x10 0 0) :=
  issueSpill_aliased (kind := .spill) (rl := 0) (sc := 0) (aa := 1) (e := .trap 0x10 0 0) (x := wrapCtl) (t := wrapState) rfl rfl
    wrappedSpill_ready (by decide +kernel) (by decide +kernel) (by decide +kernel)

theorem takeTrap_cmds {s : State} {r : Running} {c : Nat} (hrun : s.core.run = some r) (hl : s.core.locked = false) (hc : c ≠ 0)
    (info addr : Nat) : (takeTrap s c info addr).core.cmds = s.core.cmds := by
  obtain ⟨hview, -⟩ := takeTrap_leaves hrun hl hc info addr
  exact (tr_of_trapView hview).2

/-- Refutes O31: the condition on the ranges of cp.spill takes no address modulo 2^72, so that it lets through a spill that passes the top
of the address space and, from 0 on, meets its destination: cp.spill takes operand alias (R205) and puts nothing in flight. -/
theorem not_copyEngineWordsIssueAndConfigure : ¬ Obligations.CopyEngineWordsIssueAndConfigure := by
  rintro ⟨hissue, -⟩
  obtain ⟨-, -, -, -, -, -, hspill, -⟩ := hissue 0 1 0 0 0 1 wrappedSpill wrapCtl rfl
  obtain ⟨hgo, -⟩ := hspill _ rfl wrappedSpill_ready wrapState rfl (by decide +kernel)
  obtain ⟨u, c, hnext, ⟨-, -, hcmds, -⟩, -⟩ := hgo (by unfold TagFree; decide +kernel)
  obtain rfl := Host.Outcome.next.inj (wrappedSpill_traps.symm.trans hnext)
  rw [takeTrap_cmds rfl (by decide +kernel) (by decide)] at hcmds
  exact absurd hcmds (by simp [wrapState, wrappedSpill])

end Sys2Proof.Laws

namespace Sys2Proof.Laws
open Sys2Proof Sys2Proof.Machine

/-! # Blocks from their elements -/

theorem packL_cons (w x : Nat) (l : List Nat) : packL w (x :: l) = x % 2 ^ w + packL w l * 2 ^ w := by
  rw [packL, List.foldr_cons, Nat.shiftLeft_eq]
  rfl

theorem packL_lt (w : Nat) (l : List Nat) : packL w l < 2 ^ (w * l.length) := by
  induction l with
  | nil => exact Nat.two_pow_pos _
  | cons x xs ih =>
    rw [packL_cons, List.length_cons, Nat.mul_succ, Nat.pow_add]
    have hx : x % 2 ^ w < 2 ^ w := Nat.mod_lt _ (Nat.two_pow_pos w)
    calc x % 2 ^ w + packL w xs * 2 ^ w < (packL w xs + 1) * 2 ^ w := by rw [Nat.succ_mul]; omega
      _ ≤ 2 ^ (w * xs.length) * 2 ^ w := Nat.mul_le_mul_right _ ih

theorem elem_packL (w : Nat) (l : List Nat) (j : Nat) : elem (packL w l) w j = l.getD j 0 % 2 ^ w := by
  induction l generalizing j with
  | nil => simp [packL, elem]
  | cons x xs ih =>
    rw [packL_cons]
    cases j with
    | zero => simp [elem]
    | succ j =>
      have hdiv : (x % 2 ^ w + packL w xs * 2 ^ w) / 2 ^ w = packL w xs := by
        rw [Nat.add_mul_div_right _ _ (Nat.two_pow_pos w), Nat.div_eq_of_lt (Nat.mod_lt _ (Nat.two_pow_pos w)), Nat.zero_add]
      rw [List.getD_cons_succ, ← ih, elem, elem, Nat.mul_succ, Nat.add_comm (w * j), Nat.shiftRight_add, Nat.shiftRight_eq_div_pow _ w, hdiv]

theorem toNat_ofNat_packL {n w : Nat} {l : List Nat} (h : w * l.length = n) : (BitVec.ofNat n (packL w l)).toNat = packL w l := by
  rw [BitVec.toNat_ofNat, Nat.mod_eq_of_lt]
  rw [← h]
  exact packL_lt w l

theorem bit_eq_testBit (x n : Nat) : bit x n = x.testBit n := by
  rw [bit, Nat.testBit_eq_decide_div_mod_eq, Nat.shiftRight_eq_div_pow]
  rfl

theorem bit_or (x y n : Nat) : bit (x ||| y) n = (bit x n || bit y n) := by
  simp only [bit_eq_testBit, Nat.testBit_or]

theorem bit_orNat (l : List Nat) (n : Nat) : bit (orNat l) n = true ↔ ∃ x ∈ l, bit x n = true := by
  have hfold : ∀ a, bit (l.foldl (· ||| ·) a) n = true ↔ bit a n = true ∨ ∃ x ∈ l, bit x n = true := by
    induction l with
    | nil => simp
    | cons x xs ih =>
      intro a
      rw [List.foldl_cons, ih, bit_or, Bool.or_eq_true, or_assoc, List.exists_mem_cons_iff]
  rw [orNat, hfold, bit_eq_testBit, Nat.zero_testBit]
  simp

theorem zipIdx_map_range {α : Type} (n : Nat) (f : Nat → α) : ((List.range n).map f).zipIdx = (List.range n).map (fun j => (f j, j)) := by
  apply List.ext_getElem <;> simp

theorem zEls_zip (a b : BitVec 65536) : (zEls a).zip (zEls b) = (List.range 2048).map (fun j => (elem a.toNat 32 j, elem b.toNat 32 j)) := by
  rw [zEls, zEls, List.zip_map']

theorem zEls_map {α : Type} {a : BitVec 65536} {g : Nat → α} {f : Nat → α} (h : ∀ j, g (elem a.toNat 32 j) = f j) :
    (zEls a).map g = (List.range 2048).map f := by
  rw [zEls, List.map_map]
  exact List.map_congr_left fun j _ => h j

theorem zEls_zip_map {α : Type} {a b : BitVec 65536} {g : Nat × Nat → α} {f : Nat → α}
    (h : ∀ j, g (elem a.toNat 32 j, elem b.toNat 32 j) = f j) : ((zEls a).zip (zEls b)).map g = (List.range 2048).map f := by
  rw [zEls_zip, List.map_map]
  exact List.map_congr_left fun j _ => h j

theorem getD_map_range {α : Type} {n j : Nat} (f : Nat → α) (d : α) (h : j < n) : ((List.range n).map f).getD j d = f j := by
  simp [List.getD_eq_getElem?_getD, h]

theorem orOf_map_range (n : Nat) (f : Nat → Nat) : OrOf (orNat ((List.range n).map f)) n (fun _ => true) f := by
  intro b
  rw [bit_orNat]
  simp

theorem elem_ofNat_packL {m w k j : Nat} (f : Nat → Nat) (h : w * k = m) (hj : j < k) :
    elem (BitVec.ofNat m (packL w ((List.range k).map f))).toNat w j = f j % 2 ^ w := by
  have hlen : w * ((List.range k).map f).length = m := by rw [List.length_map, List.length_range, h]
  rw [toNat_ofNat_packL hlen, elem_packL, getD_map_range f 0 hj]

/-- The flags of a block's elements, all of which act. -/
def flagsOf (f : Nat → Nat × Nat) : Nat := orNat ((List.range 2048).map (fun j => (f j).2))

theorem flagsOf_orOf (f : Nat → Nat × Nat) : OrOf (flagsOf f) 2048 (fun _ => true) (fun j => (f j).2) := orOf_map_range 2048 _

theorem putZf_lands (t : State) (n z : Nat) (f : Nat → Nat × Nat) (l : Label) :
    ZLands t n z l (fun j => (f j).1) (flagsOf f) (putZf t n z ((List.range 2048).map f) l) := by
  refine ⟨_, ?_, fun j hj => elem_ofNat_packL (fun j => (f j).1) (by norm_num) hj⟩
  rw [putZf, putZ, List.map_map, List.map_map]
  rfl

/-! # Words of the engine -/

section
variable {ins : Instr} {s t : State} {i : Info} {act : State → Act} {o : Host.Outcome State Fault Refusal}

/-- Where the engine is not pooled a word of it acts (R296). -/
theorem mxWord_direct (hr : Ready i s) (ht : t = joined i s) (hd : Direct t) : mxWord i s act = settle s (act t) := by
  subst ht
  rw [mxWord, tile_ready hr rfl, if_neg (Bool.eq_false_iff.1 hd)]

theorem mxWord_ok {u : State} (hr : Ready i s) (ht : t = joined i s) (hd : Direct t) (h : act t = .ok u) : mxWord i s act = .next u := by
  rw [mxWord_direct hr ht hd, h, settle_ok]

theorem mxWord_settles {a : Act} (hx : exec ins s = o) (ho : o = mxWord i s act) (hr : Ready i s) (ht : t = joined i s) (hd : Direct t)
    (h : act t = a) : exec ins s = settle s a := by
  rw [hx, ho, mxWord_direct hr ht hd, h]

theorem mxWord_acts {u : State} (hx : exec ins s = o) (ho : o = mxWord i s act) (hr : Ready i s) (ht : t = joined i s) (hd : Direct t)
    (h : act t = .ok u) : exec ins s = .next u := mxWord_settles hx ho hr ht hd h

/-- The words of the engine are illegal while it is pooled (R292, R296). -/
theorem pooled_traps (hi : infoOf ins = some i) (hx : exec ins s = o) (ho : o = mxWord i s act) :
    TrapsIf ins s (fun t => ¬Direct t) 2 (fun t => illegalInfo t 7 0) (fun t => t.core.grp.word.toNat) :=
  trapsIf_of_tile hi (hx.trans (ho.trans rfl)) rfl fun _ hp => if_pos (Bool.eq_true_of_not_eq_false hp)

end

theorem shiftRight_of_lt {x n : Nat} (h : x < 2 ^ n) : ¬x >>> n ≠ 0 := by
  rw [Nat.shiftRight_eq_div_pow, Nat.div_eq_of_lt h]
  exact not_not.2 rfl

/-- The control word is the same before and after the labels have joined. -/
theorem control_joined {x : Nat} {s t : State} {i : Info} {sb : BitVec 5} (hx : x = (sv s sb).toNat) (ht : t = joined i s) :
    x = (sv t sb).toNat := by
  rw [ht, hx, sv_joined]
  rfl

/-! # Promotion -/

theorem promInfo_ready {i : Info} {s : State} (h : Ready i s) (x : Nat) : Ready (promInfo i x) s := by
  unfold promInfo
  split <;> exact h

/-- The scale of the weights in a promotion's control word (R285). -/
def promWeight (x : Nat) : Fv := if promSbf x then decodeEl 6 (x % 256) else decodeF fmtF32 (x % 2 ^ 32)

/-- What a promotion writes to element j, with its flags. -/
def promElem (t : State) (x : Nat) (sas : List Fv) (j : Nat) : Nat × Nat :=
  promote (elem ((atNext t).rdZ (promZ x)).v.toNat 32 j) (elem (atNext t).portVal.v.toNat 32 j) (sas.getD (j / 64) .nan) (promWeight x)

/-- The activation scales of a promotion (R286). -/
def promScales (t : State) (sz : Nat) (dec : Nat → Fv) (x : Nat) (aa : BitVec 4) : Except Stop (State × List Fv × Label) :=
  if promNsa x then .ok (t, List.replicate 32 (Fv.fin false 1 1), 0) else readScales t sz dec (sz * promKs x) 32 (av t aa).toNat

theorem prom_elems (t : State) (x : Nat) (sas : List Fv) :
    (List.zipIdx ((zEls ((atNext t).rdZ (promZ x)).v).zip (zEls (atNext t).portVal.v))).map
      (fun e => promote e.1.1 e.1.2 (sas.getD (e.2 / 64) .nan) (promWeight x)) = (List.range 2048).map (promElem t x sas) := by
  rw [zEls_zip, zipIdx_map_range, List.map_map]
  rfl

/-- A promotion past the checks of its control word, with its scales read. -/
theorem prom_acts {i0 i : Info} {sz x : Nat} {dec : Nat → Fv} {aa : BitVec 4} {sb : BitVec 5} {s t t1 : State} {sas : List Fv} {ml : Label}
    (hx : x = (sv s sb).toNat) (hlt : x < 2 ^ 54) (hsbf : promSbf x = true → bits x 31 8 = 0) (hz : promZ x ≤ 8) (hr : Ready i0 s)
    (hi : i = promInfo i0 x) (ht : t = joined i s) (hd : Direct t)
    (hn : (if promNsa x then promKs x != 0 || aa != 0 else promKs x == 0 || (av t aa).toNat % sz != 0) = false)
    (hsc : promScales t sz dec x aa = .ok (t1, sas, ml)) :
    ∃ u, u = putZf t1 3 (promZ x) ((List.range 2048).map (promElem t1 x sas))
        (readLabel t1.core i.rd ||| ml ||| ((atNext t1).rdZ (promZ x)).l ||| (atNext t1).portVal.l)
      ∧ prom i0 sz dec aa sb s = .next { u with core := { u.core with mxPin := true } } := by
  refine ⟨_, rfl, ?_⟩
  have hbits : ¬(x >>> 54 ≠ 0 ∨ (promSbf x = true ∧ bits x 31 8 ≠ 0)) := by
    rintro (h | ⟨h, h8⟩)
    · exact shiftRight_of_lt hlt h
    · exact h8 (hsbf h)
  subst hi hx
  refine mxWord_ok (promInfo_ready hr _) ht hd ?_
  refine (if_neg hbits).trans ((if_neg (Nat.not_lt.2 hz)).trans ((if_neg (Bool.eq_false_iff.1 hn)).trans ?_))
  rw [← prom_elems]
  split
  · next hscales => exact nomatch hscales.symm.trans hsc
  · next hscales =>
    obtain ⟨rfl, rfl, rfl⟩ : _ ∧ _ ∧ _ := by simpa using hscales.symm.trans hsc
    rfl

/-- The activation scales' fields pass their check: none named where there are none, else a step and an aligned address (R286). -/
theorem promScaleFields_ok {t : State} {x sz : Nat} {aa : BitVec 4} (hnone : promNsa x = true → promKs x = 0 ∧ aa = 0)
    (hsome : promNsa x = false → promKs x ≠ 0 ∧ (av t aa).toNat % sz = 0) :
    (if promNsa x then promKs x != 0 || aa != 0 else promKs x == 0 || (av t aa).toNat % sz != 0) = false := by
  cases hn : promNsa x with
  | true =>
    obtain ⟨hks, haa⟩ := hnone hn
    simp [hks, haa]
  | false =>
    obtain ⟨hks, hal⟩ := hsome hn
    simp [hks, hal]

theorem promotion_lands {ins : Instr} {i0 i : Info} {sz x : Nat} {dec : Nat → Fv} {aa : BitVec 4} {sb : BitVec 5} {s t t1 : State}
    {sas : List Fv} {ml l : Label} (hexec : exec ins s = prom i0 sz dec aa sb s) (hx : x = (sv s sb).toNat) (hlt : x < 2 ^ 54)
    (hsbf : promSbf x = true → bits x 31 8 = 0) (hz : promZ x ≤ 8) (hr : Ready i0 s) (hi : i = promInfo i0 x) (ht : t = joined i s)
    (hd : Direct t) (hnone : promNsa x = true → promKs x = 0 ∧ aa = 0)
    (hsome : promNsa x = false → promKs x ≠ 0 ∧ (av t aa).toNat % sz = 0) (hsc : promScales t sz dec x aa = .ok (t1, sas, ml))
    (hl : l = (readLabel t1.core i.rd ||| ml ||| ((atNext t1).rdZ (promZ x)).l ||| (atNext t1).portVal.l)) :
    ∃ e u, exec ins s = .next { u with core := { u.core with mxPin := true } }
      ∧ ∀ f, f = promElem t1 x sas → ZLands t1 3 (promZ x) l (fun j => (f j).1) e u ∧ OrOf e 2048 (fun _ => true) (fun j => (f j).2) := by
  obtain ⟨u, rfl, hnext⟩ := prom_acts hx hlt hsbf hz hr hi ht hd (promScaleFields_ok hnone hsome) hsc
  refine ⟨flagsOf (promElem t1 x sas), _, hexec.trans hnext, ?_⟩
  rintro _ rfl
  exact ⟨hl ▸ putZf_lands .., flagsOf_orOf _⟩

/-! # Addition, scaling and clearing of accumulators -/

/-- An accumulator word that writes f to each element of block z has that write and its flags. -/
theorem writesBlock_lands {ins : Instr} {s t : State} {n z : Nat} {l : Label} {f : Nat → Nat × Nat}
    (h : exec ins s = .next (putZf t n z ((List.range 2048).map f) l)) :
    ∃ e u, exec ins s = .next u
      ∧ ∀ g, g = f → ZLands t n z l (fun j => (g j).1) e u ∧ OrOf e 2048 (fun _ => true) (fun j => (g j).2) := by
  refine ⟨flagsOf f, _, h, ?_⟩
  rintro _ rfl
  exact ⟨putZf_lands .., flagsOf_orOf _⟩

/-- A value rounded once, with the flags of both. -/
def rounded (v : Fv × Nat) : Nat × Nat := ((roundF fmtF32 v.1 0).1, v.2 ||| (roundF fmtF32 v.1 0).2)

/-- Element j of accumulator z as it stands at the next tick. -/
def zElem (t : State) (z j : Nat) : Nat := elem ((atNext t).rdZ z).v.toNat 32 j

theorem exec_mxZadd {q : BitVec 4} {sb : BitVec 5} {s t : State} {i : Info} {x : Nat} (hx : x = (sv s sb).toNat)
    (hi : infoOf (.mxZadd q sb) = some i) (hr : Ready i s) (ht : t = joined i s) (hd : Direct t) (hlt : x < 2 ^ 12)
    (hd8 : bits x 3 0 ≤ 8) (ha8 : bits x 7 4 ≤ 8) (hb8 : bits x 11 8 ≤ 8) :
    exec (.mxZadd q sb) s = .next (putZf t 4 (bits x 3 0)
      ((List.range 2048).map fun j =>
        rounded ((decodeF fmtF32 (zElem t (bits x 7 4) j)).add false (decodeF fmtF32 (zElem t (bits x 11 8) j))))
      (readLabel t.core i.rd ||| ((atNext t).rdZ (bits x 7 4)).l ||| ((atNext t).rdZ (bits x 11 8)).l)) := by
  obtain rfl : infoMxZadd q sb = i := Option.some.inj hi
  obtain rfl : x = (sv t sb).toNat := control_joined hx ht
  unfold sv at *
  refine mxWord_acts (o := execMxZadd q sb s) rfl rfl hr ht hd ((if_neg (shiftRight_of_lt hlt)).trans ((if_neg (by omega)).trans ?_))
  simp only
  rw [zEls_zip_map fun j => (rfl : _ = rounded _)]
  simp only [zElem]

theorem exec_mxScl {q : BitVec 4} {sb : BitVec 5} {s t : State} {i : Info} {x : Nat} (hx : x = (sv s sb).toNat)
    (hi : infoOf (.mxScl q sb) = some i) (hr : Ready i s) (ht : t = joined i s) (hd : Direct t) (hlt : x < 2 ^ 36)
    (hz : bits x 35 32 ≤ 8) :
    exec (.mxScl q sb) s = .next (putZf t 4 (bits x 35 32)
      ((List.range 2048).map fun j => rounded ((decodeF fmtF32 (zElem t (bits x 35 32) j)).mul (decodeF fmtF32 (x % 2 ^ 32))))
      (readLabel t.core i.rd ||| ((atNext t).rdZ (bits x 35 32)).l)) := by
  obtain rfl : infoMxScl q sb = i := Option.some.inj hi
  obtain rfl : x = (sv t sb).toNat := control_joined hx ht
  unfold sv at *
  refine mxWord_acts (o := execMxScl q sb s) rfl rfl hr ht hd ((if_neg (shiftRight_of_lt hlt)).trans ((if_neg (Nat.not_lt.2 hz)).trans ?_))
  simp only
  rw [zEls_map fun j => (rfl : _ = rounded _)]
  simp only [zElem]

/-- The write that clears accumulator z (R288). -/
def zeroWrite (t : State) (l : Label) (z : Nat) : Pend := ⟨t.core.tick + 1, .z z 0 (BitVec.allOnes 65536), l, none⟩

/-- Clearing the accumulators of a list that x names adds one write for each. -/
theorem clear_pend (x : Nat) (l : Label) (zs : List Nat) (t : State) :
    zs.foldl (fun u z => if bit x z then putZ u 1 z [] l else u) t
      = { t with core := { t.core with pend := t.core.pend ++ (zs.filter (bit x)).map (zeroWrite t l) } } := by
  induction zs generalizing t with
  | nil => simp
  | cons z zs ih =>
    rw [List.foldl_cons, ih]
    cases hz : bit x z with
    | false => simp [hz]
    | true => simp [hz, putZ, push, Core.push, zeroWrite, packL]

theorem exec_mxZero {q : BitVec 4} {sb : BitVec 5} {s t : State} {i : Info} {x : Nat} (hx : x = (sv s sb).toNat)
    (hi : infoOf (.mxZero q sb) = some i) (hr : Ready i s) (ht : t = joined i s) (hd : Direct t) (hlt : x < 2 ^ 9) :
    exec (.mxZero q sb) s = .next { t with core := { t.core with
      pend := t.core.pend ++ ((List.range 9).filter (bit x)).map (zeroWrite t (readLabel t.core i.rd)) } } := by
  obtain rfl : infoMxZero q sb = i := Option.some.inj hi
  obtain rfl : x = (sv t sb).toNat := control_joined hx ht
  unfold sv at *
  refine mxWord_acts (o := execMxZero q sb s) rfl rfl hr ht hd ((if_neg (shiftRight_of_lt hlt)).trans ?_)
  exact congrArg Except.ok (clear_pend ..)

theorem accumulatorWordsActOnEachElement : Claims.AccumulatorWordsActOnEachElement := by
  intro q aa sb s x hx el rnd all prom
  refine ⟨?_, ?_, ?_, ?_, ?_⟩
  · rintro hlt hsbf hz i0 i ⟨⟩ hr hi t ht hd hnone hsome t1 sas ml hsc l hl
    exact promotion_lands rfl hx hlt hsbf hz hr hi ht hd hnone hsome hsc hl
  · rintro hlt hsbf hz i0 i ⟨⟩ hr hi t ht hd hnone hsome t1 sas ml hsc l hl
    exact promotion_lands rfl hx hlt hsbf hz hr hi ht hd hnone hsome hsc hl
  · rintro i hi hr t ht hd hlt hd8 ha8 hb8 l rfl
    exact writesBlock_lands (exec_mxZadd hx hi hr ht hd hlt hd8 ha8 hb8)
  · rintro i hi hr t ht hd hlt hz l rfl
    exact writesBlock_lands (exec_mxScl hx hi hr ht hd hlt hz)
  · rintro i hi hr t ht hd hlt
    refine ⟨_, exec_mxZero hx hi hr ht hd hlt, fun p => ?_⟩
    simp only [List.mem_map, List.mem_filter, List.mem_range, zeroWrite, and_assoc]
    exact exists_congr fun z => by rw [eq_comm (a := p)]

/-! # Configuration, power, the fence and weight-buffer units -/

theorem gives_of_givesIf {ins : Instr} {s : State} {f : Info → State → State} (h : GivesIf ins s (fun _ => True) f) : Gives ins s f :=
  fun i hi hr => h i hi hr trivial

theorem unitAt_setUnit_zero (c : Core) (u k : Nat) (l : Label) : unitAt (setUnit c u 0 l) k = if k = u then ⟨0, l⟩ else unitAt c k := by
  simp only [unitAt, setUnit, Nat.zero_mod, true_and]
  by_cases hl : l = 0
  · subst hl
    rw [if_pos rfl, lookup_eraseKey]
    split <;> rfl
  · rw [if_neg hl, lookup_insertKey]
    split <;> rfl

theorem setUnit_rest (c : Core) (u x : Nat) (l : Label) : setUnit c u x l = { c with wbuf := (setUnit c u x l).wbuf } := rfl

/-- The n units from a on cleared. -/
def clearUnits (c : Core) (a n : Nat) (l : Label) : Core := (List.range n).foldl (fun c j => setUnit c (a + j) 0 l) c

theorem clearUnits_succ (c : Core) (a n : Nat) (l : Label) : clearUnits c a (n + 1) l = setUnit (clearUnits c a n l) (a + n) 0 l := by
  simp only [clearUnits, List.range_succ, List.foldl_append, List.foldl_cons, List.foldl_nil]

theorem clearUnits_clears (c : Core) (a n : Nat) (l : Label) :
    clearUnits c a n l = { c with wbuf := (clearUnits c a n l).wbuf }
      ∧ ∀ k, unitAt (clearUnits c a n l) k = if a ≤ k ∧ k < a + n then ⟨0, l⟩ else unitAt c k := by
  induction n with
  | zero => exact ⟨rfl, fun k => (if_neg (by omega)).symm⟩
  | succ n ih =>
    obtain ⟨hrest, hunit⟩ := ih
    rw [clearUnits_succ]
    refine ⟨?_, fun k => ?_⟩
    · generalize clearUnits c a n l = d at hrest
      rw [setUnit_rest, hrest]
    · rw [unitAt_setUnit_zero, hunit]
      by_cases hk : k = a + n
      · rw [if_pos hk, if_pos (by omega)]
      · rw [if_neg hk]
        exact if_congr (by omega) rfl rfl

theorem exec_mxWsel {q : BitVec 4} {sb : BitVec 5} {s t : State} {i : Info} {x n : Nat} (hx : x = (sv s sb).toNat)
    (hi : infoOf (.mxWsel q sb) = some i) (hr : Ready i s) (ht : t = joined i s) (hd : Direct t) (hlt : x < 2 ^ 25) (hn : n = bits x 24 12)
    (hn0 : n ≠ 0) (hfit : x % 4096 + n ≤ 4096) :
    exec (.mxWsel q sb) s = .next { t with core := clearUnits t.core (x % 4096) n (readLabel t.core i.rd) } := by
  obtain rfl : infoMxWsel q sb = i := Option.some.inj hi
  obtain rfl : x = (sv t sb).toNat := control_joined hx ht
  unfold sv at *
  subst hn
  exact mxWord_acts (o := execMxWsel q sb s) rfl rfl hr ht hd ((if_neg (shiftRight_of_lt hlt)).trans (if_neg (by omega)))

theorem exec_mxWake {q : BitVec 4} {sb : BitVec 5} {s t : State} {i : Info} {x : Nat} (hx : x = (sv s sb).toNat)
    (hi : infoOf (.mxWake q sb) = some i) (hr : Ready i s) (ht : t = joined i s) (hd : Direct t) (hlt : x < 2 ^ 4) :
    exec (.mxWake q sb) s = .next { t with core := { t.core with
      subs := t.core.subs.mapFinIdx (fun j u _ => if bit x j then startWake (t.core.mxWake.toNat + 1) u else u) } } := by
  obtain rfl : infoMxWake q sb = i := Option.some.inj hi
  obtain rfl : x = (sv t sb).toNat := control_joined hx ht
  exact mxWord_acts (o := execMxWake q sb s) rfl rfl hr ht hd (if_neg (shiftRight_of_lt hlt))

theorem exec_mxGate {q : BitVec 4} {sb : BitVec 5} {s t : State} {i : Info} {x : Nat} (hx : x = (sv s sb).toNat)
    (hi : infoOf (.mxGate q sb) = some i) (hr : Ready i s) (ht : t = joined i s) (hd : Direct t) (hlt : x < 2 ^ 4) :
    exec (.mxGate q sb) s = .next (push t (max 1 (t.core.blockEnd - t.core.tick)) (.subsOff (BitVec.ofNat 4 x)) 0) := by
  obtain rfl : infoMxGate q sb = i := Option.some.inj hi
  obtain rfl : x = (sv t sb).toNat := control_joined hx ht
  exact mxWord_acts (o := execMxGate q sb s) rfl rfl hr ht hd (if_neg (shiftRight_of_lt hlt))

theorem exec_mxFence (q : BitVec 4) (rl : BitVec 1) (sc : BitVec 3) (s : State) : exec (.mxFence q rl sc) s = execMxFence q rl sc s := rfl

/-! # The cores of a quad -/

theorem coreAt_focus (s : State) (n m : Nat) : coreAt (focus s n) m = coreAt s m := by
  unfold focus
  split
  · rfl
  · next hn =>
    simp only [coreAt, lookup_insertKey, lookup_eraseKey]
    by_cases hm : m = n
    · subst hm
      simp [hn]
    · by_cases hs : m = s.coreNo
      · subst hs
        simp [hm]
      · simp [hm, hs]

theorem coreAt_coreNo (s : State) : coreAt s s.coreNo = s.core := if_pos rfl

theorem coreAt_withCore (s : State) (c : Core) (m : Nat) : coreAt { s with core := c } m = if m = s.coreNo then c else coreAt s m := by
  unfold coreAt
  split <;> simp_all

/-- Updating the cores of a list that holds none twice. -/
theorem coreAt_foldl_updCore (f : Core → Core) (me : Nat) (q : List Nat) (hq : q.Nodup) (s : State) (n : Nat) :
    coreAt (q.foldl (fun u m => if m = me then u else updCore u m f) s) n = if n ∈ q ∧ n ≠ me then f (coreAt s n) else coreAt s n := by
  induction q generalizing s with
  | nil => simp
  | cons m q ih =>
    obtain ⟨hm, hnodup⟩ := List.nodup_cons.1 hq
    rw [List.foldl_cons, ih hnodup]
    by_cases hme : m = me
    · subst hme
      rw [if_pos rfl]
      exact if_congr (by simp only [List.mem_cons]; tauto) rfl rfl
    · rw [if_neg hme, coreAt_updCore]
      by_cases hn : n = m
      · subst hn
        simp [hm, hme]
      · simp [hn]

/-! # The quad's sum -/

/-- Two elements added and rounded, with the flags. -/
def sumPair (a b : Nat) : Nat × Nat := rounded ((decodeF fmtF32 a).add false (decodeF fmtF32 b))

theorem quadSum_pairs (a b c d : Nat) : quadSum [a, b, c, d] =
    ((sumPair (sumPair a b).1 (sumPair c d).1).1, (sumPair a b).2 ||| (sumPair c d).2 ||| (sumPair (sumPair a b).1 (sumPair c d).1).2) := rfl

/-- The block that core c of the quad adds. -/
def quadBlock (t : State) (ctl : List (Lv 64)) (c : Nat) : Lv 65536 :=
  (atNext (focus t (t.coreNo / 4 * 4 + c))).rdZ (bits (ctl.getD c ⟨0, 0⟩).v.toNat 3 0)

/-- Element j of the quad's sum, with its flags. -/
def quadElem (t : State) (ctl : List (Lv 64)) (j : Nat) : Nat × Nat :=
  quadSum ((List.range 4).map (fun c => elem (quadBlock t ctl c).v.toNat 32 j))

/-- The label of the quad's sum (R291). -/
def quadLabel (t : State) (ctl : List (Lv 64)) : Label :=
  orAll ((List.range 4).map (fun c => (quadBlock t ctl c).l ||| (ctl.getD c ⟨0, 0⟩).l ||| (coreAt t (t.coreNo / 4 * 4 + c)).cl))

/-- The quad with the others of its cores told that their word is done. -/
def quadTold (t : State) : State :=
  (quadCores t.coreNo).foldl (fun u n => if n = t.coreNo then u else updCore u n (fun c => { c with qsp := true })) t

theorem quadCores_nodup (n : Nat) : (quadCores n).Nodup := by
  simp [quadCores]

theorem mem_quadCores {n c : Nat} (h : c < 4) : n / 4 * 4 + c ∈ quadCores n := by
  simp only [quadCores, List.mem_cons, List.not_mem_nil, or_false]
  omega

theorem coreAt_quadTold (t : State) {n : Nat} (h : n ∈ quadCores t.coreNo) :
    coreAt (quadTold t) n = if n = t.coreNo then t.core else { coreAt t n with qsp := true } := by
  rw [quadTold, coreAt_foldl_updCore _ _ _ (quadCores_nodup _)]
  by_cases hn : n = t.coreNo
  · subst hn
    simp [coreAt_coreNo]
  · simp [h, hn]

theorem quadSplit_eq (t : State) (v0 v1 v2 v3 : Lv 64) (ctl : List (Lv 64)) (h : ctl = [v0, v1, v2, v3]) :
    quadSplit t ctl = focus (putZf (focus (quadTold t) (t.coreNo / 4 * 4 + bits v0.v.toNat 5 4)) 12
      (bits (ctl.getD (bits v0.v.toNat 5 4) ⟨0, 0⟩).v.toNat 3 0) ((List.range 2048).map (quadElem t ctl)) (quadLabel t ctl)) t.coreNo := by
  subst h
  have hlab : quadLabel t [v0, v1, v2, v3] =
      orAll ((List.range 4).map (fun c => (quadBlock t [v0, v1, v2, v3] c).l)) ||| orAll [v0.l, v1.l, v2.l, v3.l]
        ||| orAll ((quadCores t.coreNo).map (fun n => (coreAt t n).cl)) := by
    simp only [quadLabel, orAll, quadCores, List.range, List.range.loop, List.map, List.foldl, List.getD_cons_zero, List.getD_cons_succ, Nat.add_zero]
    ac_rfl
  rw [hlab]
  rfl

/-- A block's write and its flags join the results in flight of their own core only. -/
theorem coreAt_putZf (t : State) (n z : Nat) (f : Nat → Nat × Nat) (l : Label) (m : Nat) :
    coreAt (putZf t n z ((List.range 2048).map f) l) m = if m = t.coreNo then { t.core with pend := t.core.pend
      ++ [⟨t.core.tick + n, .z z (BitVec.ofNat 65536 (packL 32 ((List.range 2048).map (fun j => (f j).1)))) (BitVec.allOnes 65536), l, none⟩,
        ⟨t.core.tick + n, .flags (BitVec.ofNat 5 (flagsOf f)), l, none⟩] } else coreAt t m := by
  rw [putZf, putZ, List.map_map, List.map_map]
  exact (coreAt_withCore t _ m).trans (if_congr Iff.rfl (by simp [Core.push, push, flagsOf, Function.comp_def]) rfl)

/-- A core of the quad once the sum has been carried out: the collector has the result in flight. -/
theorem coreAt_quadSplit {t : State} {ctl : List (Lv 64)} {col c : Nat} (hlen : ctl.length = 4)
    (hcol : ∀ v ∈ ctl, bits v.v.toNat 5 4 = col) (hc : c < 4) {base : Core}
    (hbase : base = if t.coreNo / 4 * 4 + c = t.coreNo then t.core else { coreAt t (t.coreNo / 4 * 4 + c) with qsp := true }) :
    coreAt (quadSplit t ctl) (t.coreNo / 4 * 4 + c) = if c = col then { base with pend := base.pend
        ++ [⟨base.tick + 12, .z (bits (ctl.getD col ⟨0, 0⟩).v.toNat 3 0)
            (BitVec.ofNat 65536 (packL 32 ((List.range 2048).map (fun j => (quadElem t ctl j).1)))) (BitVec.allOnes 65536), quadLabel t ctl, none⟩,
          ⟨base.tick + 12, .flags (BitVec.ofNat 5 (flagsOf (quadElem t ctl))), quadLabel t ctl, none⟩] }
      else base := by
  obtain ⟨v0, v1, v2, v3, hctl⟩ := List.length_eq_four.1 hlen
  obtain rfl : bits v0.v.toNat 5 4 = col := hcol v0 (by simp [hctl])
  have hcore : ∀ m, (focus (quadTold t) m).core = coreAt (quadTold t) m := fun m => by
    rw [← coreAt_focus (quadTold t) m m, coreAt, focus_coreNo, if_pos rfl]
  rw [quadSplit_eq t v0 v1 v2 v3 ctl hctl, coreAt_focus, coreAt_putZf, focus_coreNo, hcore, coreAt_focus,
    coreAt_quadTold t (mem_quadCores hc), ← hbase]
  by_cases h : c = bits v0.v.toNat 5 4
  · rw [← h, if_pos rfl, if_pos rfl, coreAt_quadTold t (mem_quadCores hc), ← hbase]
  · rw [if_neg h, if_neg (by omega)]

/-! # The quad's words -/

/-- The state in which mx.qsplit acts: the labels of the quad's contexts have joined the context label (R291). -/
def quadJoined (t : State) : State :=
  { t with core := t.core.joinCl (orAll ((quadCores t.coreNo).map (fun n => (coreAt t n).cl))) }

/-- The cores of the quad as they stand in this tick. -/
def quadNow (u : State) : List Core := (quadCores u.coreNo).map (coreNow u)

section
variable {q : BitVec 4} {sb : BitVec 5} {s t u : State} {i : Info}

theorem qsplit_told (hi : infoOf (.mxQsplit q sb) = some i) (hr : Ready i s) (ht : t = joined i s) (hd : Direct t) (hu : u = quadJoined t)
    (hq : u.core.qsp = true) : exec (.mxQsplit q sb) s = .next { u with core := { u.core with qsp := false } } := by
  obtain rfl : infoMxQsplit q sb = i := Option.some.inj hi
  subst hu
  exact mxWord_acts (o := execMxQsplit q sb s) rfl rfl hr ht hd (if_pos hq)

theorem qsplit_unlocked (hi : infoOf (.mxQsplit q sb) = some i) (hr : Ready i s) (ht : t = joined i s) (hd : Direct t)
    (hu : u = quadJoined t) (hq : u.core.qsp = false) (hl : u.core.locked = false) :
    exec (.mxQsplit q sb) s = .next (takeTrap s 2 (illegalInfo u 8 0) s.core.grp.word.toNat) := by
  obtain rfl : infoMxQsplit q sb = i := Option.some.inj hi
  have hgrp : u.core.grp = s.core.grp := by
    rw [hu, ht, quadJoined, Core.joinCl_grp, joined_core, Core.joinCl_grp]
  rw [← hgrp]
  subst hu
  exact mxWord_settles (o := execMxQsplit q sb s) rfl rfl hr ht hd ((if_neg (Bool.eq_false_iff.1 hq)).trans (if_pos (Bool.eq_false_iff.1 hl)))

section
variable (hi : infoOf (.mxQsplit q sb) = some i) (hr : Ready i s) (ht : t = joined i s) (hd : Direct t) (hu : u = quadJoined t)
  (hq : u.core.qsp = false) (hl : u.core.locked = true) (hlt : (sv u sb).toNat < 2 ^ 6) (hz : bits (sv u sb).toNat 3 0 ≤ 8)
include hi hr ht hd hu hq hl hlt hz

/-- A locked core past the checks of its control word waits for the other three. -/
theorem qsplit_waits (hw : ∃ c ∈ quadNow u, qsplitOf c = none) : exec (.mxQsplit q sb) s = .next (heldOne s false none) := by
  obtain rfl : infoMxQsplit q sb = i := Option.some.inj hi
  have hany : ((quadNow u).map qsplitOf).any (·.isNone) = true := by
    obtain ⟨c, hc, hnone⟩ := hw
    exact List.any_eq_true.2 ⟨_, List.mem_map_of_mem hc, by rw [hnone]; rfl⟩
  subst hu
  exact mxWord_settles (a := .error .hold) (o := execMxQsplit q sb s) rfl rfl hr ht hd ((if_neg (Bool.eq_false_iff.1 hq)).trans
    ((if_neg (not_not.2 hl)).trans ((if_neg (shiftRight_of_lt hlt)).trans ((if_neg (Nat.not_lt.2 hz)).trans (if_pos hany)))))

theorem qsplit_sums {ws : List (IWord × Nat)} {ctl : List (Lv 64)} (hws : (quadNow u).map qsplitOf = ws.map some)
    (hctl : ctl = ((quadNow u).zip ws).map (fun e => e.1.rdS (BitVec.ofNat 5 (e.2.1.toNat % 32))))
    (hcol : ∀ v ∈ ctl, bits v.v.toNat 5 4 = bits (sv u sb).toNat 5 4) : exec (.mxQsplit q sb) s = .next (quadSplit u ctl) := by
  obtain rfl : infoMxQsplit q sb = i := Option.some.inj hi
  have hsome : ¬((quadNow u).map qsplitOf).any (·.isNone) = true := by
    rw [hws]
    simp
  have hread : (((quadNow u).zip ((quadNow u).map qsplitOf)).map
      (fun e => e.1.rdS (BitVec.ofNat 5 (((e.2.map (fun (w : IWord × Nat) => w.1)).getD 0).toNat % 32)))) = ctl := by
    rw [hws, hctl, List.zip_map_right, List.map_map]
    rfl
  have hagree : ¬ctl.any (fun v => bits v.v.toNat 5 4 != bits (sv u sb).toNat 5 4) = true := by
    simpa using hcol
  rw [← hread] at hagree ⊢
  subst hu
  exact mxWord_acts (o := execMxQsplit q sb s) rfl rfl hr ht hd ((if_neg (Bool.eq_false_iff.1 hq)).trans
    ((if_neg (not_not.2 hl)).trans ((if_neg (shiftRight_of_lt hlt)).trans ((if_neg (Nat.not_lt.2 hz)).trans ((if_neg hsome).trans (if_neg hagree))))))

end

end

/-- The four control words that the quad reads. -/
theorem qsplit_ctl_length {u : State} {ws : List (IWord × Nat)} (hws : (quadNow u).map qsplitOf = ws.map some)
    (f : Core × (IWord × Nat) → Lv 64) : (((quadNow u).zip ws).map f).length = 4 := by
  have hlen : (quadNow u).length = 4 := rfl
  have hws4 : 4 = ws.length := by simpa [hlen] using congrArg List.length hws
  rw [List.length_map, List.length_zip, hlen, ← hws4]
  rfl

/-- What the quad's cores hold once the sum has been carried out, element by element. -/
theorem quadSplit_lands {u : State} {ctl : List (Lv 64)} {col : Nat} (hlen : ctl.length = 4) (hcol : ∀ v ∈ ctl, bits v.v.toNat 5 4 = col)
    {base : Nat → Core} (hbase : base = fun n => if n = u.coreNo then u.core else { coreAt u n with qsp := true }) :
    ∃ r e, (∀ c < 4, coreAt (quadSplit u ctl) (u.coreNo / 4 * 4 + c) = if c = col then
          { base (u.coreNo / 4 * 4 + c) with pend := (base (u.coreNo / 4 * 4 + c)).pend
            ++ [⟨(base (u.coreNo / 4 * 4 + c)).tick + 12, .z (bits (ctl.getD col ⟨0, 0⟩).v.toNat 3 0) r (BitVec.allOnes 65536), quadLabel u ctl, none⟩,
              ⟨(base (u.coreNo / 4 * 4 + c)).tick + 12, .flags (BitVec.ofNat 5 e), quadLabel u ctl, none⟩] }
        else base (u.coreNo / 4 * 4 + c))
      ∧ (∀ j < 2048, elem r.toNat 32 j = (quadElem u ctl j).1 % 2 ^ 32)
      ∧ OrOf e 2048 (fun _ => true) (fun j => (quadElem u ctl j).2) :=
  ⟨_, _, fun _ hc => coreAt_quadSplit hlen hcol hc (congrFun hbase _),
    fun _ hj => elem_ofNat_packL (fun j => (quadElem u ctl j).1) (by norm_num) hj, flagsOf_orOf _⟩

theorem engineControlWordsAct : Claims.EngineControlWordsAct := by
  intro q gl gh rl sc sb s x hx sum less
  refine ⟨fun u => ⟨?_, ?_⟩, ?_, ?_, ?_, ?_, ?_, ?_⟩
  · exact gives_of_givesIf (givesIf_of_tile rfl rfl rfl fun t _ => rfl)
  · refine givesIf_of_tile rfl ((exec_mxFence q 1 sc s).trans rfl) rfl fun t hu => ?_
    subst hu
    rfl
  · exact gives_of_givesIf (givesIf_of_tile rfl rfl rfl fun t _ => rfl)
  · intro i hi hr t n ht hd hlt hn hn0 hfit
    obtain ⟨hrest, hunit⟩ := clearUnits_clears t.core (x % 4096) n (readLabel t.core i.rd)
    exact ⟨_, exec_mxWsel hx hi hr ht hd hlt hn hn0 hfit, congrArg (fun c => { t with core := c }) hrest, hunit⟩
  · rintro i hi hr ⟨hd, hlt⟩
    exact exec_mxWake hx hi hr rfl hd hlt
  · rintro i hi hr ⟨hd, hlt⟩
    exact exec_mxGate hx hi hr rfl hd hlt
  · intro i hi hr t ht hd u hu
    refine ⟨qsplit_told hi hr ht hd hu, qsplit_unlocked hi hr ht hd hu, fun hq hl hlt hz cs hcs => ?_⟩
    subst hcs
    refine ⟨qsplit_waits hi hr ht hd hu hq hl hlt hz, fun ws hws ctl hctl hcol => ⟨qsplit_sums hi hr ht hd hu hq hl hlt hz hws hctl hcol, ?_⟩⟩
    intro z hblock el hel lab hlab col base hcoleq hbase
    obtain rfl : z = quadBlock u ctl := funext hblock
    obtain rfl : el = fun c j => elem (quadBlock u ctl c).v.toNat 32 j := funext fun c => funext (hel c)
    subst hlab hcoleq
    exact quadSplit_lands (hctl ▸ qsplit_ctl_length hws _) hcol hbase
  · rintro ins (rfl | rfl | rfl | rfl | rfl)
    · exact pooled_traps (o := execMxWsel q sb s) rfl rfl rfl
    · exact pooled_traps (o := execMxWake q sb s) rfl rfl rfl
    · exact pooled_traps (o := execMxGate q sb s) rfl rfl rfl
    · exact pooled_traps (o := execMxQsplit q sb s) rfl rfl rfl
    · exact pooled_traps (o := execMxZero q sb s) rfl rfl rfl

/-- Settles O28: a word of the engine past its checks is its one action; blocks are read and written element by element. -/
theorem accumulatorAndEngineControlWordsAct : Obligations.AccumulatorAndEngineControlWordsAct :=
  ⟨accumulatorWordsActOnEachElement, engineControlWordsAct⟩

end Sys2Proof.Laws

namespace Sys2Proof.Laws
open Sys2Proof Sys2Proof.Machine

/-! # The bit network -/

theorem patHold_idle {t : State} (h : t.core.patBusy = none) (act : Act) : patHold t act = act := by
  simp [patHold, h]

theorem patHold_busy {t : State} (h : t.core.patBusy ≠ none) (act : Act) : patHold t act = .error .hold :=
  if_pos (Option.isSome_iff_ne_none.2 h)

/-! ## Routing -/

theorem bit_eq_elem (x n : Nat) : bit x n = (elem x 1 n == 1) := by
  rw [bit, elem, Nat.one_mul, Nat.pow_one]

/-- The source bit or the constant that an entry of a pattern gives (R264). -/
def wireOf (src e : Nat) : Bool := if bit e 13 then bit e 14 else bit src (e % 8192)

theorem getLsbD_route {pat src old k : Nat} (hk : k < 4096) :
    (BitVec.ofNat 4096 (route pat src old)).getLsbD k = (wireOf src (elem pat 16 k) || bit old k) := by
  rw [← BitVec.testBit_toNat, ← bit_eq_testBit, bit_eq_elem, route, elem_ofNat_packL _ (Nat.one_mul _) hk]
  change (b2n (wireOf src (elem pat 16 k) || bit old k) % 2 ^ 1 == 1) = _
  cases wireOf src (elem pat 16 k) || bit old k <;> rfl

/-- The register that a route through slot n makes of the pair at a, and of its destination when that is kept (R270). -/
def routed (c : Core) (d a : BitVec 5) (n : BitVec 3) (keep : Bool) : BitVec 4096 :=
  BitVec.ofNat 4096 (route (patAt c n).idx.toNat ((c.rdV a).v.toNat + ((c.rdV (a + 1)).v.toNat <<< 4096))
    (if keep then (c.rdV d).v.toNat else 0))

theorem getLsbD_routed (c : Core) (d a : BitVec 5) (n : BitVec 3) (keep : Bool) {k : Nat} (hk : k < 4096) :
    (routed c d a n keep).getLsbD k = (wireOf ((c.rdV a).v.toNat + ((c.rdV (a + 1)).v.toNat <<< 4096)) (elem (patAt c n).idx.toNat 16 k)
      || (keep && (c.rdV d).v.getLsbD k)) := by
  rw [routed, getLsbD_route hk, bit_eq_testBit]
  cases keep with
  | false => rw [if_neg Bool.false_ne_true, Nat.zero_testBit, Bool.false_and]
  | true => rw [if_pos rfl, Bool.true_and, BitVec.testBit_toNat]

section
variable {ins : Instr} {s : State} {i : Info} {d a : BitVec 5} {n : BitVec 3} {keep : Bool}

theorem givesIf_of_routeWord (hi : infoOf ins = some i) (hx : exec ins s = routeWord i d a n keep s) :
    GivesIf ins s (fun t => t.core.patBusy = none ∧ (patAt t.core n).st = 2)
      (fun i t => push t 6 (.v (physV t.core d) (routed t.core d a n keep) (BitVec.allOnes 4096) false)
        (readLabel t.core i.rd ||| (patAt t.core n).lab)) :=
  givesIf_of_tile hi (hx.trans rfl) rfl fun _ ⟨hidle, hvalid⟩ => (patHold_idle hidle _).trans (if_neg (not_not.2 hvalid))

theorem trapsIf_of_routeWord (hi : infoOf ins = some i) (hx : exec ins s = routeWord i d a n keep s) :
    TrapsIf ins s (fun t => t.core.patBusy = none ∧ (patAt t.core n).st ≠ 2) 2 (fun t => illegalInfo t 6 n.toNat)
      (fun t => t.core.grp.word.toNat) :=
  trapsIf_of_tile hi (hx.trans rfl) rfl fun _ ⟨hidle, hinvalid⟩ => (patHold_idle hidle _).trans (if_pos hinvalid)

theorem held_of_routeWord (hi : infoOf ins = some i) (hx : exec ins s = routeWord i d a n keep s) :
    ∀ j, infoOf ins = some j → Ready j s → (joined j s).core.patBusy ≠ none → exec ins s = .next (heldOne s false none) :=
  held_of_tile (p := fun t => t.core.patBusy ≠ none) hi (hx.trans rfl) rfl fun _ hbusy => patHold_busy hbusy _

end

theorem exec_bnRt (q : BitVec 4) (d : BitVec 5) (a : BitVec 4) (n : BitVec 3) (s : State) :
    exec (.bnRt q d a n) s = routeWord (infoBnRt q d a n) d (a.setWidth 5 * 2) n false s := rfl

theorem exec_bnRto (q : BitVec 4) (d : BitVec 5) (a : BitVec 4) (n : BitVec 3) (s : State) :
    exec (.bnRto q d a n) s = routeWord (infoBnRto q d a n) d (a.setWidth 5 * 2) n true s := rfl

/-! ## Loading and invalidating -/

/-- Is no line of the image at va lost behind a failed link (R267)? -/
def imageReached (t : State) (va : Addr) : Bool := !(lineVas va.toNat 8192).any (fun b => sourceLost t (loadHome t b))

theorem bnLd_starts {q a : BitVec 4} {n : BitVec 3} {s t t1 : State} {i : Info} {x : Nat} {l : Label}
    (hi : infoOf (.bnLd q a n) = some i) (hr : Ready i s) (ht : t = joined i s) (hidle : t.core.patBusy = none)
    (hal : (av t a).toNat % 8192 = 0) (hread : readBytes t t.core.who (av t a).toNat 8192 .read = .ok (t1, x, l)) :
    exec (.bnLd q a n) s = .next { t1 with core :=
      { setPat t1.core n.toNat ⟨1, av t a, readLabel t.core i.rd, BitVec.ofNat 65536 x⟩ with
        patBusy := some ⟨256, n.toNat, imageReached t (av t a), l ||| readLabel t.core i.rd, t1.core.grp.xArr⟩ } } := by
  obtain rfl : infoBnLd q a n = i := Option.some.inj hi
  subst ht
  unfold av at *
  change execBnLd q a n s = _
  rw [execBnLd, tile_ready hr rfl]
  simp only [patHold_idle hidle, hal, hread, ne_eq, not_true_eq_false, if_false, settle_ok, imageReached]

theorem patAt_setPat (c : Core) (k : Nat) (p : PatSlot) (j : BitVec 3) : patAt (setPat c k p) j = if j.toNat = k then p else patAt c j := by
  simp only [patAt, setPat, Fin.getElem_fin, Vector.getElem_setIfInBounds, BitVec.val_toFin, eq_comm (a := k)]

/-- A slot in state 0 with the empty label (R263, R269). -/
def emptySlot : PatSlot := ⟨0, 0, 0, 0⟩

/-- The first n slots that a mask names emptied. -/
def emptySlots (m : BitVec 8) (c : Core) (n : Nat) : Core :=
  (List.range n).foldl (fun c j => if m.getLsbD j then setPat c j emptySlot else c) c

theorem emptySlots_succ (m : BitVec 8) (c : Core) (n : Nat) :
    emptySlots m c (n + 1) = if m.getLsbD n then setPat (emptySlots m c n) n emptySlot else emptySlots m c n := by
  simp only [emptySlots, List.range_succ, List.foldl_append, List.foldl_cons, List.foldl_nil]

theorem emptySlots_rest (m : BitVec 8) (c : Core) (n : Nat) : emptySlots m c n = { c with pats := (emptySlots m c n).pats } := by
  induction n with
  | zero => rfl
  | succ n ih =>
    rw [emptySlots_succ]
    generalize emptySlots m c n = e at ih
    split
    · rw [setPat, ih]
    · exact ih

theorem patAt_emptySlots (m : BitVec 8) (c : Core) (n : Nat) (j : BitVec 3) :
    patAt (emptySlots m c n) j = if j.toNat < n ∧ m.getLsbD j.toNat then emptySlot else patAt c j := by
  induction n with
  | zero => exact (if_neg (fun h => Nat.not_lt_zero _ h.1)).symm
  | succ n ih =>
    rw [emptySlots_succ]
    by_cases hj : j.toNat = n
    · cases hm : m.getLsbD n <;> simp [hj, hm, patAt_setPat, ih]
    · have hlt : j.toNat < n + 1 ↔ j.toNat < n := by omega
      cases m.getLsbD n <;> simp [hj, hlt, patAt_setPat, ih]

theorem bnInv_empties (q : BitVec 4) (m : BitVec 8) (s : State) :
    GivesIf (.bnInv q m) s (fun t => t.core.patBusy = none) (fun _ t => { t with core := emptySlots m t.core 8 }) :=
  givesIf_of_tile rfl rfl rfl fun _ hidle => patHold_idle hidle _

/-- Settles O25: both routes are one word, whose result is read entry by entry; bn.inv empties the slots one by one. -/
theorem bitNetworkWordsRouteAndLoad : Obligations.BitNetworkWordsRouteAndLoad := by
  intro q a d n m s idle src index wire routes
  have routes_of {ins : Instr} {i : Info} {keep : Bool} (hi : infoOf ins = some i)
      (hx : exec ins s = routeWord i d (a.setWidth 5 * 2) n keep s) : routes ins keep := by
    rintro j hj hr t rfl hidle hvalid
    exact ⟨_, givesIf_of_routeWord hi hx j hj hr ⟨hidle, hvalid⟩, fun k hk => getLsbD_routed _ d _ n keep hk⟩
  refine ⟨routes_of rfl (exec_bnRt q d a n s), routes_of rfl (exec_bnRto q d a n s), trapsIf_of_routeWord rfl (exec_bnRt q d a n s),
    ?_, ?_, ?_, held_of_routeWord rfl (exec_bnRt q d a n s)⟩
  · rintro i hi hr t va ht rfl hal hidle t1 x l hread
    exact ⟨_, bnLd_starts hi hr ht hidle hal hread⟩
  · rintro i hi hr t rfl hidle
    refine ⟨_, bnInv_empties q m s i hi hr hidle, congrArg (fun c => { joined i s with core := c }) (emptySlots_rest m _ 8), fun j => ?_⟩
    rw [patAt_emptySlots]
    exact if_congr (and_iff_right j.isLt) rfl rfl
  · exact gives_of_givesIf (givesIf_of_tile rfl rfl rfl fun t _ => rfl)

end Sys2Proof.Laws

namespace Sys2Proof.Laws
open Sys2Proof Sys2Proof.Machine

/-! # Blocks of mx.mma -/

/-! ## The rows of A -/

theorem rowsGo_length {n pitch k va : Nat} {t t1 : State} {rows : List Nat} {l : Label} (h : rowsGo t n pitch k va = .ok (t1, rows, l)) :
    rows.length = k := by
  induction k generalizing t va t1 rows l with
  | zero =>
    cases h
    rfl
  | succ k ih =>
    unfold rowsGo at h
    split at h
    · cases h
    split at h
    · cases h
    next hrest =>
      cases h
      rw [List.length_cons, ih hrest]

theorem readRows_length {t t1 : State} {sz n pitch k va : Nat} {rows : List Nat} {l : Label} (h : readRows t sz n pitch k va = .ok (t1, rows, l)) :
    rows.length = k := by
  unfold readRows at h
  split at h
  · next hgo =>
    cases h
    exact rowsGo_length hgo
  · cases h

/-- A has 32 rows (R281). -/
theorem readA_length {t t1 : State} {va n pitch : Nat} {rows : List Nat} {l : Label} (h : readA t va n pitch = .ok (t1, rows, l)) :
    rows.length = 32 := by
  unfold readA at h
  extract_lets out at h
  split at h
  · split at h <;> cases h
  · cases h
  · cases h
  · next hrows _ =>
    cases h
    exact readRows_length hrows

/-! ## The partial sums -/

theorem length_flatMap_uniform {α β : Type} {f : α → List β} {m : Nat} (hf : ∀ a, (f a).length = m) (l : List α) :
    (l.flatMap f).length = m * l.length := by
  simp [List.length_flatMap, hf, Nat.mul_comm]

/-- In parts of m elements each, element m · r + n is element n of part r. -/
theorem getD_flatMap_uniform {α β : Type} {f : α → List β} {m n : Nat} (hf : ∀ a, (f a).length = m) (hn : n < m) (a : α) (b : β) {l : List α}
    {r : Nat} (hr : r < l.length) : (l.flatMap f).getD (m * r + n) b = (f (l.getD r a)).getD n b := by
  induction l generalizing r with
  | nil => exact absurd hr (Nat.not_lt_zero r)
  | cons x xs ih =>
    rw [List.flatMap_cons]
    cases r with
    | zero => rw [Nat.mul_zero, Nat.zero_add, List.getD_append _ _ _ _ (by rw [hf]; exact hn), List.getD_cons_zero]
    | succ r =>
      rw [List.getD_append_right _ _ _ _ (by rw [hf, Nat.mul_succ]; omega), hf, List.getD_cons_succ, ← ih (Nat.lt_of_succ_lt_succ hr)]
      congr 1
      rw [Nat.mul_succ]
      omega

/-- The partial sum of a row of A and column n of a block's half of the tile, with its flags (R274, R276). -/
def mmaElem (c : Core) (x row n : Nat) : Nat × Nat :=
  dotFp32 (mUnit (fmtOf (mmaAf x)) + mUnit (fmtOf (mmaBf x)))
    ((List.range 128).map (fun k => mEl (fmtOf (mmaAf x)) (elem row (fmtOf (mmaAf x)).w k)))
    ((tileCol (mmaBm x) (mmaBf x) (unitsImage c (mmaOff x) ((tileUnits (mmaBm x) (mmaBf x)).getD 0)) (64 * mmaNh x + n)).map (mEl (fmtOf (mmaBf x))))

theorem blockSum_eq (c : Core) (x : Nat) (rows : List Nat) :
    blockSum c x rows = rows.flatMap (fun row => (List.range 64).map (mmaElem c x row)) := by
  simp only [blockSum, List.map_map]
  rfl

/-- A block's value holds, row by row, the 64 partial sums of each row of A. -/
theorem blockSum_elem {c : Core} {x r n : Nat} {rows : List Nat} (hrows : rows.length = 32) (hr : r < 32) (hn : n < 64) :
    elem (BitVec.ofNat 65536 (packL 32 ((blockSum c x rows).map (·.1)))).toNat 32 (64 * r + n) = (mmaElem c x (rows.getD r 0) n).1 % 2 ^ 32 := by
  have hpart (row : Nat) : ((List.range 64).map (mmaElem c x row)).length = 64 := by rw [List.length_map, List.length_range]
  have hlen : 32 * ((blockSum c x rows).map (·.1)).length = 65536 := by
    rw [List.length_map, blockSum_eq, length_flatMap_uniform hpart, hrows]
  rw [toNat_ofNat_packL hlen, elem_packL, blockSum_eq]
  have hfst (l : List (Nat × Nat)) (k : Nat) : (l.map (·.1)).getD k 0 = (l.getD k (0, 0)).1 :=
    List.getD_map l (0, 0) Prod.fst
  rw [hfst, getD_flatMap_uniform hpart hn 0 _ (hrows ▸ hr), getD_map_range _ _ hn]

/-! ## The word -/

/-- What pushing effects leaves of the core: all but what is in flight. -/
def unpended (s : State) : Core := { s.core with pend := [] }

/-- The tick after which the array has run a block that is accepted now (R282). -/
def mmaEnd (c : Core) (x : Nat) : Nat := max c.tick c.blockEnd + (pairCost (mmaAf x) (mmaBf x)).getD 0

/-- The block of A's rows, with the label of what it is made of (R274, R284). -/
def mmaBlock (c : Core) (x : Nat) (rows : List Nat) (l : Label) : Block :=
  ⟨mmaEnd c x + 6, BitVec.ofNat 65536 (packL 32 ((blockSum c x rows).map (·.1))), BitVec.ofNat 5 (orNat ((blockSum c x rows).map (·.2))), l⟩

/-- What a block is made of: the registers read, A as it was read, and the weight-buffer units it uses (R284). -/
def mmaLabel (c : Core) (x : Nat) (rd : List RegName) (ml : Label) : Label :=
  readLabel c rd ||| ml ||| orAll ((unitsRead (mmaBm x) (mmaBf x) (mmaNh x)).map (fun u => (unitAt c (mmaOff x + u)).l))

/-- The block is accepted by the array. -/
def mmaAccepted (t : State) (x : Nat) (rows : List Nat) (l : Label) : State :=
  { t with core := { t.core with
      blocks := t.core.blocks ++ [mmaBlock t.core x rows l], blockEnd := mmaEnd t.core x, portLive := true, mxPin := true } }

/-- The state after mx.mma: the block is accepted, its port tick and the arrivals tied to it are in flight. -/
def mmaIssued (t : State) (x : Nat) (rows : List Nat) (l : Label) : State :=
  let n := mmaEnd t.core x + 6 - t.core.tick
  t.core.grp.eArr.foldl (fun u a => push u n (.arrive { a with res := true }) l) (push (mmaAccepted t x rows l) n .block 0)

theorem mmaIssued_unpended (t : State) (x : Nat) (rows : List Nat) (l : Label) :
    unpended (mmaIssued t x rows l) = unpended (mmaAccepted t x rows l) :=
  foldl_view unpended (fun u _ => (rfl : unpended (push u _ _ l) = unpended u)) _ _

/-- The number of blocks that have not passed their port tick (R284). -/
def mmaFlying (t : State) : Nat := (t.core.blocks.filter (fun b => decide (t.core.tick < b.due))).length

/-- What mx.mma does past the check of its control word. -/
def mmaAct (aa : BitVec 4) (x : Nat) (rd : List RegName) (t : State) : Act :=
  if 4 ≤ mmaFlying t then .error (illegal t 9 6)
  else match readA t (av t aa).toNat (16 * fmtWidth (mmaAf x)) ((ctlG t.core (mmaG x)).toNat % 2 ^ 32) with
    | .error e => .error e
    | .ok (t1, rows, ml) =>
      if t.core.subs.any (fun u => u.pw != 2) then .error .wake else .ok (mmaIssued t1 x rows (mmaLabel t1.core x rd ml))

theorem mxMma_settles {q aa : BitVec 4} {ac : BitVec 1} {sc : BitVec 3} {sb : BitVec 5} {s t : State} {x : Nat} {i j : Info}
    (hx : x = (sv s sb).toNat) (hi : infoOf (.mxMma q ac sc aa sb) = some i) (hr : Ready i s) (hj : j = i.naming (namedG (mmaG x) 1))
    (ht : t = joined j s) (hd : Direct t) (hc : mmaCode x = none) : exec (.mxMma q ac sc aa sb) s = settle s (mmaAct aa x j.rd t) := by
  obtain rfl : infoMxMma q ac sc aa sb = i := Option.some.inj hi
  subst hx hj
  unfold sv at *
  refine mxWord_settles (o := execMxMma q ac sc aa sb s) rfl rfl (ready_naming hr _) ht hd ?_
  simp only [hc]
  rfl

section
variable {aa : BitVec 4} {x : Nat} {rd : List RegName} {rows : List Nat} {ml : Label} {t t1 : State}

theorem mmaAct_full (hfull : 4 ≤ mmaFlying t) : mmaAct aa x rd t = .error (illegal t 9 6) := if_pos hfull

/-- With room for a block and A readable, the sub-arrays decide between waking them and running the block (R281, R283). -/
theorem mmaAct_read (hroom : mmaFlying t < 4)
    (hread : readA t (av t aa).toNat (16 * fmtWidth (mmaAf x)) ((ctlG t.core (mmaG x)).toNat % 2 ^ 32) = .ok (t1, rows, ml)) :
    mmaAct aa x rd t = if t.core.subs.any (fun u => u.pw != 2) then .error .wake else .ok (mmaIssued t1 x rows (mmaLabel t1.core x rd ml)) := by
  simp only [mmaAct, if_neg (Nat.not_le.2 hroom), hread]

end

/-- A format pair that is not refused has a cost (R273). -/
theorem mmaCode_none_cost {x : Nat} (h : mmaCode x = none) : ∃ cost, pairCost (mmaAf x) (mmaBf x) = some cost := by
  unfold mmaCode at h
  split at h
  · cases h
  split at h
  · cases h
  · next hcost => exact Option.ne_none_iff_exists'.1 hcost

theorem startWake_starts (n : Nat) (x : SubArr) :
    (x.pw = 0 → (startWake n x).pw = 1 ∧ (startWake n x).cnt = n) ∧ (x.pw ≠ 0 → startWake n x = x) := by
  refine ⟨fun hoff => ?_, fun hon => if_neg hon⟩
  rw [startWake, if_pos hoff]
  exact ⟨rfl, rfl⟩

/-- A word that wakes the sub-arrays is held, each that is off starts waking, and nothing else happens (R283). -/
theorem settle_wake (s : State) : ∃ u, settle s (.error .wake) = .next u
    ∧ u = { heldOne s false none with core := { (heldOne s false none).core with subs := u.core.subs } }
    ∧ ∀ k : Fin 4, (s.core.subs[k].pw = 0 → u.core.subs[k].pw = 1 ∧ u.core.subs[k].cnt = s.core.mxWake.toNat)
        ∧ (s.core.subs[k].pw ≠ 0 → u.core.subs[k] = s.core.subs[k]) := by
  refine ⟨_, rfl, rfl, fun k => ?_⟩
  have hmap : (s.core.subs.map (startWake s.core.mxWake.toNat))[k] = startWake s.core.mxWake.toNat s.core.subs[k] := Vector.getElem_map ..
  have hstarts := startWake_starts s.core.mxWake.toNat s.core.subs[k]
  rw [← hmap] at hstarts
  exact hstarts

/-- Settles O27: past its control word a block is refused, held for its sub-arrays, or run, and then its value is read element by element. -/
theorem blocksReachThePort : Obligations.BlocksReachThePort := by
  intro q aa ac sc sb s x hx i hi hr j t hj ht hd hc flying
  have hexec := mxMma_settles hx hi hr hj ht hd hc
  refine ⟨fun hfull => ?_, fun t1 rows ml hroom hread => ⟨fun hoff => ?_, fun hon => ?_⟩⟩
  · have hgrp : t.core.grp = s.core.grp := by rw [ht, joined_core, Core.joinCl_grp]
    rw [hexec, mmaAct_full hfull, illegal, hgrp, settle_trap]
  · rw [hexec, mmaAct_read hroom hread, if_pos hoff]
    exact settle_wake s
  · rw [mmaAct_read hroom hread, if_neg (Bool.eq_false_iff.1 hon), settle_ok] at hexec
    have hu := mmaIssued_unpended t1 x rows (mmaLabel t1.core x j.rd ml)
    obtain ⟨cost, hcost⟩ := mmaCode_none_cost hc
    have hend : mmaEnd t1.core x = max t1.core.tick t1.core.blockEnd + cost := by rw [mmaEnd, hcost, Option.getD_some]
    refine ⟨_, mmaBlock t1.core x rows _, cost, hexec, hcost, congrArg Core.blocks hu, congrArg Core.portLive hu,
      (congrArg Core.blockEnd hu).trans hend, ?_, fun r hr n hn => blockSum_elem (readA_length hread) hr hn⟩
    exact congrArg (· + 6) (congrArg Core.blockEnd hu).symm

end Sys2Proof.Laws

namespace Sys2Proof.Laws
open Sys2Proof Sys2Proof.Machine

/-! # An access of one line keeps the core but for its stash -/

/-! ## The last-level cache, the directory and the snoop filter -/

theorem dieDrops_bare (s : State) (line die : Nat) : bare (dieDrops s line die) = bare s := by
  unfold dieDrops bare
  dsimp only
  split <;> rfl

theorem takeWay_bare (s : State) (die k w : Nat) : bare (takeWay s die k w) = bare s := by
  unfold takeWay
  split
  next e _ => exact letGo_bare { s with llc := eraseKey e.1 s.llc } ..
  next => rfl

theorem freeEntryOf_bare (s : State) (k : Nat) : bare (freeEntryOf s k) = bare s := by
  unfold freeEntryOf
  rw [setDir_bare, foldl_view bare (fun t d => dieDrops_bare t k d), settleLine_bare]

theorem dirRoom_bare (s : State) (k : Nat) : bare (dirRoom s k) = bare s := by
  unfold dirRoom
  split
  · rfl
  split
  · split
    · rfl
    · exact freeEntryOf_bare ..
  · rfl

theorem filterRoom_bare (s : State) (vf die k : Nat) : bare (filterRoom s vf die k) = bare s := by
  unfold filterRoom
  dsimp only
  split
  · next l _ _ =>
    split
    · rfl
    have hdrops : bare (dieDrops s (lineKey s l.2.pa) die) = bare s := dieDrops_bare ..
    rw [letGo_bare]
    split
    · split
      · exact (takeWay_bare ..).trans hdrops
      · exact hdrops
    · exact hdrops
  · rfl

theorem takeLine_bare (write : Bool) (die : Nat) (s : State) (k : Nat) : bare (takeLine write die s k) = bare s :=
  (setDir_bare ..).trans (dirRoom_bare ..)

theorem touchLine_bare (write : Bool) (vf die : Nat) (s : State) (pa : Nat) : bare (touchLine write vf die s pa) = bare s := by
  unfold touchLine
  extract_lets k s1
  have hsettled : bare s1 = bare s := settleLine_bare ..
  split
  · exact (takeLine_bare ..).trans hsettled
  split
  · exact (takeLine_bare ..).trans ((takeWay_bare ..).trans hsettled)
  split
  · exact (uncacheLine_bare ..).trans hsettled
  · exact hsettled

theorem touchStash_bare (write : Bool) (vf die : Nat) (s : State) (pa : Nat) : bare (touchStash write vf die s pa) = bare s :=
  (takeLine_bare ..).trans ((filterRoom_bare ..).trans (settleLine_bare ..))

theorem makeRoom_bare (s : State) (i pa : Nat) : bare (makeRoom s i pa) = bare s := by
  unfold makeRoom
  split
  · split
    · rfl
    split
    · rfl
    · exact dropLines_bare ..
  · rfl

/-! ## Reading -/

/-- A read of the device region changes nothing (R519). -/
theorem devRead_same {s t : State} {off v : Nat} (h : devRead s off = some (t, v)) : t = s := by
  unfold devRead at h
  dsimp only at h
  repeat' split at h
  all_goals cases h
  all_goals rfl

theorem stashRead_bare {s : State} {w : Who} {i pa n : Nat} {pl : Label} {write : Bool} {r : State × Nat × Label}
    (h : stashRead s w i pa n pl write = .ok r) : bare r.1 = bare s := by
  unfold stashRead at h
  split at h
  · extract_lets a at h
    split at h <;> cases h
    exact touchStash_bare ..
  · split at h <;> cases h
    exact touchStash_bare ..

theorem readAt_bare {s : State} {w : Who} {va n : Nat} {x : Xlat} {write : Bool} {r : State × Nat × Label}
    (h : readAt s w va n x write = .ok r) : bare r.1 = bare s := by
  unfold readAt at h
  extract_lets pl at h
  split at h
  case h_1 =>
    split at h
    · cases h
    · exact stashRead_bare h
  case h_2 => exact (stashRead_bare h).trans (makeRoom_bare ..)
  case h_3 =>
    split at h
    · split at h <;> cases h
      dsimp only
      split
      · exact touchLine_bare ..
      · rfl
    split at h
    · split at h <;> cases h
      next hread => exact congrArg bare (devRead_same hread)
    split at h
    · cases h
    have hflit : bare ((windowFlit s w.vf w.part x.pa [] 0).getD s) = bare s := by
      cases hf : windowFlit s w.vf w.part x.pa [] 0 with
      | none => rfl
      | some u => exact windowFlit_bare hf
    have hfree : bare (if write then s else (windowFlit s w.vf w.part x.pa [] 0).getD s) = bare s := by
      split
      · rfl
      · exact hflit
    dsimp only [freeBytes, draw] at h
    split at h <;> cases h <;> exact hfree

theorem readVa_bare {s : State} {w : Who} {va n : Nat} {kind : Kind} {r : State × Nat × Label} (h : readVa s w va n kind = .ok r) :
    bare r.1 = bare s := by
  unfold readVa at h
  split at h
  · cases h
  next hwalk => exact (readAt_bare h).trans (translateMark_bare hwalk)

/-- Reading a line leaves the address registers. -/
theorem readVa_av {s : State} {w : Who} {va n : Nat} {kind : Kind} {r : State × Nat × Label} (h : readVa s w va n kind = .ok r)
    (a : BitVec 4) : av r.1 a = av s a :=
  congrArg (fun b : Nat × Core => (b.2.rdA a).v) (readVa_bare h)

end Sys2Proof.Laws

namespace Sys2Proof.Laws
open Sys2Proof Sys2Proof.Machine

/-! # Tile tasks -/

/-! ## Words that name a record -/

/-- A word on a record that is aligned and can be read acts on what it reads, with the labels of what it reads (R298, R299, R306). -/
theorem taskWord_acts {i : Info} {kind : Kind} {aa : BitVec 4} {s t t1 : State} {va img : Nat} {l : Label} {act : State → Nat → Label → Act}
    (hr : Ready i s) (ht : t = joined i s) (hva : va = (av t aa).toNat) (hal : va % 128 = 0)
    (hread : readVa t t.core.who va 128 kind = .ok (t1, img, l)) :
    taskWord i kind aa s act = settle s (act t1 img (l ||| readLabel t.core i.rd)) := by
  subst hva
  have hal' : (t.core.rdA aa).v.toNat % 128 = 0 := hal
  have hread' : readVa t t.core.who (t.core.rdA aa).v.toNat 128 kind = .ok (t1, img, l) := hread
  subst ht
  rw [taskWord, tile_ready hr rfl]
  simp only [hal', hread', ne_eq, not_true_eq_false, if_false]

/-- As `taskWord_acts`, for a word whose answer, f of the record, is its result at tick 1. -/
theorem taskWord_answers {ins : Instr} {i : Info} {kind : Kind} {aa : BitVec 4} {sb : BitVec 5} {s : State} {act : State → Nat → Label → Act}
    {f : State → Nat → Nat → Label → State × Nat} (hi : infoOf ins = some i) (hx : exec ins s = taskWord i kind aa s act)
    (hact : ∀ t img l, act t img l = .ok (push (f t (av t aa).toNat img l).1 1 (.s sb (BitVec.ofNat 64 (f t (av t aa).toNat img l).2)) l)) :
    ∀ j, infoOf ins = some j → Ready j s → ∀ t va, t = joined j s → va = (av t aa).toNat → va % 128 = 0 →
      ∀ t1 img l, readVa t t.core.who va 128 kind = .ok (t1, img, l) → ∀ l', l' = (l ||| readLabel t.core j.rd) →
        exec ins s = .next (push (f t1 va img l').1 1 (.s sb (BitVec.ofNat 64 (f t1 va img l').2)) l') := by
  rintro j hj hr t va ht hva hal t1 img l hread l' rfl
  obtain rfl : i = j := Option.some.inj (hi.symm.trans hj)
  obtain rfl : va = (av t1 aa).toNat := by rw [hva, readVa_av hread]
  rw [hx, taskWord_acts hr ht hva hal hread, hact, settle_ok]

/-! ## The queue of a quad -/

/-- A list that is not empty is what the quad's queue holds after it is put there. -/
theorem taskQ_setQ {s : State} {l : List Task} (h : l ≠ []) : taskQ (setQ s l) = l := by
  unfold taskQ setQ setList
  rw [if_neg (by simpa using h), lookup_insertKey, if_pos rfl]
  rfl

theorem taskQ_updCore (s : State) (n : Nat) (f : Core → Core) : taskQ (updCore s n f) = taskQ s := by
  unfold taskQ updCore
  split <;> rfl

theorem taskQ_ctxTask (s : State) (core ctx : Nat) (up : Bool) : taskQ (ctxTask s core ctx up) = taskQ s := taskQ_updCore ..

/-! ## Submitting -/

/-- A field of the record that can be written is written. -/
theorem recField_ok {s u : State} {w : Who} {va off n v : Nat} {l : Label} (h : writeVa s w ((va + off) % 2 ^ 72) n v l 0 = .ok u) :
    recField w va off n v l s = u := by
  rw [recField, h, orMark]

section
variable {t : State} {rl : BitVec 1} {va img : Nat} {l : Label}

theorem submitTask_again (h : tkSt img = 1 ∨ tkSt img = 2) : submitTask t rl va img l = (t, 3) := if_pos h

section
variable (h1 : tkSt img ≠ 1) (h2 : tkSt img ≠ 2)
include h1 h2

/-- A record that fails its check gets ST 6 and the check's code (R299, R300). -/
theorem submitTask_wrong {e : Nat} (he : taskErr img va = some e) :
    submitTask t rl va img l = (recField t.core.who va 0x4B 1 e l (recField t.core.who va 0x4A 1 6 l t), 3) := by
  simp only [submitTask, h1, h2, or_self, if_false, he]

theorem submitTask_full (he : taskErr img va = none) (hfull : 64 ≤ (taskQ t).length) : submitTask t rl va img l = (t, 1) := by
  simp only [submitTask, h1, h2, or_self, if_false, he, hfull, if_true]

end

/-- The objects that a task's completion updates: its DONE barrier, if it has one, and its record's word that holds ST (R305). -/
def taskObjs (va img : Nat) : List Addr := (if tkDone img = 0 then [] else [BitVec.ofNat 72 (tkDone img)]) ++ [BitVec.ofNat 72 (va + 0x48)]

theorem taskObjs_eq (va img : Nat) :
    ([tkDone img].filter (· != 0) ++ [(va + 0x48) % 2 ^ 72]).map (BitVec.ofNat 72) = taskObjs va img := by
  have hmod : BitVec.ofNat 72 ((va + 0x48) % 2 ^ 72) = BitVec.ofNat 72 (va + 0x48) :=
    BitVec.eq_of_toNat_eq (by simp only [BitVec.toNat_ofNat, Nat.mod_mod])
  rw [List.map_append, List.map_singleton, hmod, taskObjs]
  by_cases h : tkDone img = 0 <;> simp [h]

/-- The physical address of the record, 0 where it has no translation. -/
def taskPa (t : State) (va : Nat) : Nat :=
  match translate t va t.core.who.vf t.core.who.part t.core.who.prv 128 .rmw with
  | .ok (x, _) => x.pa
  | .error _ => 0

/-- The task that a submission queues: the record as it is read, in the submitter's context (R299, R304). -/
def submitted (t : State) (rl : BitVec 1) (va img : Nat) (l : Label) : Task :=
  ⟨BitVec.ofNat 1024 img, BitVec.ofNat 72 va, taskPa t va, t.coreNo, t.core.cur, t.core.cont.vf, t.core.cont.part, t.core.cont.prv, l, rl == 1, 0,
    none, 0⟩

theorem submitted_r (t : State) (rl : BitVec 1) (va img : Nat) (l : Label) : (submitted t rl va img l).r = img % 2 ^ 1024 := by
  rw [Task.r, submitted, BitVec.toNat_ofNat]

/-- A valid record with room in the queue is queued behind the others, once its lines are home and its ST is 1 (R299). -/
theorem submitTask_queues {u : State} (h1 : tkSt img ≠ 1) (h2 : tkSt img ≠ 2) (he : taskErr img va = none) (hroom : (taskQ t).length < 64)
    (hu : u = recField t.core.who va 0x4A 1 1 l (releaseFor t rl (taskObjs va img))) :
    submitTask t rl va img l = (ctxTask (setQ u (taskQ u ++ [submitted t rl va img l])) t.coreNo t.core.cur true, 0) := by
  subst hu
  simp only [submitTask, h1, h2, or_self, if_false, he, Nat.not_le.2 hroom, taskObjs_eq]
  rfl

end

/-- Settles O30: the three words go through the record they name, and a submission ends in one of its four ways. -/
theorem tileTasksAreQueuedAndAsked : Obligations.TileTasksAreQueuedAndAsked := by
  intro q aa ac rl sc sb s word
  refine ⟨taskWord_answers rfl (i := infoMxTask q ac rl sc aa sb) rfl fun t img l => rfl,
    taskWord_answers rfl (i := infoMxTstat q aa sb) rfl fun t img l => rfl,
    taskWord_answers rfl (i := infoMxTkill q aa sb) rfl fun t img l => rfl, ?_⟩
  intro t va img l sets objs
  refine ⟨submitTask_again, fun h1 h2 => ⟨fun e he => ?_, submitTask_full h1 h2, fun he hroom => ?_⟩⟩
  · have hwrong := submitTask_wrong (t := t) (rl := rl) (l := l) h1 h2 he
    refine ⟨congrArg Prod.snd hwrong, fun u v hu hv => ?_⟩
    rw [hwrong, recField_ok hu, recField_ok hv]
  · refine ⟨congrArg Prod.snd (submitTask_queues h1 h2 he hroom rfl), ?_⟩
    rintro _ rfl u hu
    let k := submitted t rl va img l
    have hq : taskQ (ctxTask (setQ u (taskQ u ++ [k])) t.coreNo t.core.cur true) = taskQ u ++ [k] := by rw [taskQ_ctxTask, taskQ_setQ (by simp)]
    exact ⟨k, _, submitTask_queues h1 h2 he hroom (recField_ok hu).symm, hq, by rw [hq], submitted_r .., rfl, rfl, rfl, rfl, rfl, rfl, rfl⟩

end Sys2Proof.Laws

namespace Sys2Proof.Laws
open Sys2Proof Sys2Proof.Machine

/-! # Management words of combining trees -/

theorem unhurt_sound {α : Type} {t : State} {l : List (Nat × Nat)} (h : hurtStop t l = none) (k : Except Stop α) : unhurt t l k = k := by
  rw [unhurt, h]

/-- A tile word that may act and completes gives the state that it makes. -/
theorem tile_acts {i : Info} {s t u : State} {act : State → Act} (hr : Ready i s) (ht : t = joined i s) (h : act t = .ok u) :
    tile i true s act = .next u := by
  subst ht
  rw [tile_ready hr rfl, h, settle_ok]

section
variable {ins : Instr} {s t : State} {i j : Info} {minor x : Nat} {sb : BitVec 5} {mis : State → Option Stop}
  {f : State → TEnt → Except Stop (State × Nat)} {e : TEnt}

/-- A management word whose operand is aligned and whose handle names a live entry answers what it makes of the entry (R331, R332). -/
theorem manageAt_answers {r : State × Nat} (hr : Ready i s) (ht : t = joined i s) (hx : x = (sv s sb).toNat) (hmis : mis t = none)
    (hh : handleOf t minor (x % 2 ^ 32) false = .ok e) (hf : f t e = .ok r) :
    manageAt i minor sb mis s f = .next (clAnswer r.1 i sb e.perm r.2) := by
  obtain rfl : x = (sv t sb).toNat := control_joined hx ht
  have hh' : handleOf t minor ((t.core.rdS sb).v.toNat % 2 ^ 32) false = .ok e := hh
  refine tile_acts hr ht ?_
  simp only [hmis, ite_self, hh', hf]

/-- The same of the instruction, where it holds of each entry that meets p. -/
theorem answers_of_manageAt {p : State → TEnt → Prop} {g : State → TEnt → State × Nat} (hi : infoOf ins = some j)
    (hx : x = (sv s sb).toNat) (hexec : exec ins s = manageAt j minor sb mis s f)
    (hact : ∀ t e, p t e → mis t = none ∧ f t e = .ok (g t e)) :
    ∀ i, infoOf ins = some i → Ready i s → ∀ t e, t = joined i s → handleOf t minor (x % 2 ^ 32) false = .ok e → p t e →
      exec ins s = .next (clAnswer (g t e).1 i sb e.perm (g t e).2) := by
  rintro i hj hr t e ht hh hp
  obtain rfl : j = i := Option.some.inj (hi.symm.trans hj)
  obtain ⟨hmis, hf⟩ := hact t e hp
  exact hexec.trans (manageAt_answers hr ht hx hmis hh hf)

theorem answers_of_manage {p : State → TEnt → Prop} {g : State → TEnt → State × Nat} (hi : infoOf ins = some j)
    (hx : x = (sv s sb).toNat) (hexec : exec ins s = manage j minor sb s f) (hact : ∀ t e, p t e → f t e = .ok (g t e)) :
    ∀ i, infoOf ins = some i → Ready i s → ∀ t e, t = joined i s → handleOf t minor (x % 2 ^ 32) false = .ok e → p t e →
      exec ins s = .next (clAnswer (g t e).1 i sb e.perm (g t e).2) :=
  answers_of_manageAt (mis := fun _ => none) hi hx hexec fun t e hp => ⟨rfl, hact t e hp⟩

end

/-! ## Saving and restoring -/

section
variable {s t t1 t2 : State} {q aa : BitVec 4} {sb : BitVec 5} {i : Info} {x va pa : Nat} {e : TEnt}

theorem exec_clSave (q aa : BitVec 4) (sb : BitVec 5) (s : State) : exec (.clSave q aa sb) s = execClSave q aa sb s := rfl

/-- A frozen tree's state is written to its area, its slots are freed and it is saved (R342, R343). -/
theorem exec_clSave_frozen (hx : x = (sv s sb).toNat) (hi : infoOf (.clSave q aa sb) = some i) (hr : Ready i s) (ht : t = joined i s)
    (hh : handleOf t 6 (x % 2 ^ 32) false = .ok e) (hva : va = (av t aa).toNat) (hal : va % 64 = 0) (hst : e.st = 3)
    (hsound : hurtStop t (listParts e) = none) (hspan : contig t va e.areaSize .write = .ok (t1, pa))
    (hwrite : writeBytes t1 t1.core.who va e.areaSize (areaImage e (entShape t1 e) (treeAt t1 e))
      (orAll ((treeAt t1 e).nodes.map (·.lab)) ||| readLabel t1.core i.rd) = .ok t2) :
    exec (.clSave q aa sb) s = .next (clAnswer (setTree (writeEnt (freeSlots t2 e) { e with st := 4, save := pa }) e
      { treeAt (freeSlots t2 e) e with nodes := [] }) i sb e.perm 0) := by
  obtain rfl : infoClSave q aa sb = i := Option.some.inj hi
  subst hva
  rw [exec_clSave, execClSave]
  refine manageAt_answers (r := (_, 0)) hr ht hx (if_neg (not_not.2 hal)) hh ?_
  refine (if_neg (not_not.2 hst)).trans ((unhurt_sound hsound _).trans ?_)
  rw [av] at hspan hwrite
  dsimp only
  simp only [hspan]
  split
  next h => exact nomatch h.symm.trans hwrite
  next h =>
    obtain rfl := Except.ok.inj (h.symm.trans hwrite)
    rfl

theorem exec_clRst (q aa : BitVec 4) (sb : BitVec 5) (s : State) : exec (.clRst q aa sb) s = execClRst q aa sb s := rfl

/-- A saved tree whose map is good takes its slots, loads its area and is frozen, or answers full (R344). -/
theorem exec_clRst_saved {img : Nat} {l : Label} {h : Shape} (hx : x = (sv s sb).toNat) (hi : infoOf (.clRst q aa sb) = some i) (hr : Ready i s)
    (ht : t = joined i s) (hh : handleOf t 7 (x % 2 ^ 32) false = .ok e) (hva : va = (av t aa).toNat) (hal : va % 8 = 0) (hst : e.st = 4)
    (hsound : hurtStop t (restParts e) = none) (hspan : contig t va (8 * e.ncnt) .read = .ok (t1, pa))
    (hread : readBytes t1 t1.core.who va (8 * e.ncnt) .read = .ok (t2, img, l))
    (hshape : h = { entShape t2 e with maps := (List.range e.ncnt).map (fun k => rf img (8 * k) 8) })
    (hmaps : ∀ r ∈ h.maps, r < 2 ^ 19) (hnodes : ∀ k < e.ncnt, h.nodeOk k = true) :
    (takeSlots (slotsIn t2) t2 h.maps [] = none → exec (.clRst q aa sb) s = .next (clAnswer t2 i sb e.perm 2))
      ∧ ∀ t3 slots, takeSlots (slotsIn t2) t2 h.maps [] = some (t3, slots) → hurtStop t2 [(e.save, e.areaSize)] = none →
        ∀ e1, e1 = { e.withFl 5 false with st := 3, rmap := pa } → exec (.clRst q aa sb) s = .next (clAnswer (writeEnt (setTree
          (putSlots t3 pa h.maps slots) e { loadArea t3 e1 (treeAt t3 e) with slots := slots, cfg := [] }) e1) i sb e.perm 0) := by
  obtain rfl : infoClRst q aa sb = i := Option.some.inj hi
  subst hva
  have hgood : ¬¬(h.maps.all (fun r => decide (r < 2 ^ 19)) && (List.range e.ncnt).all h.nodeOk) = true := by
    simpa using ⟨hmaps, hnodes⟩
  subst hshape
  rw [exec_clRst, execClRst]
  refine ⟨fun hfull => ?_, fun t3 slots htake hsave e1 he1 => ?_⟩
  all_goals
    refine manageAt_answers (r := (_, _)) hr ht hx (if_neg (not_not.2 hal)) hh ?_
    refine (if_neg (not_not.2 hst)).trans ((unhurt_sound hsound _).trans ?_)
    rw [av] at hspan hread
    dsimp only
    simp only [hspan, hread]
    refine (if_neg hgood).trans ?_
  · simp only [hfull]
  · subst he1
    split
    next hnone => exact nomatch hnone.symm.trans htake
    next hsome =>
      obtain ⟨rfl, rfl⟩ := Prod.mk.inj (Option.some.inj (hsome.symm.trans htake))
      exact unhurt_sound hsave _

end

/-! ## Making, editing and asking -/

section
variable {s t : State} {q aa : BitVec 4} {sb : BitVec 5} {i : Info} {x : Nat} {e : TEnt}

theorem bits_mod {x hi lo n : Nat} (h : hi + 1 ≤ n) : bits (x % 2 ^ n) hi lo = bits x hi lo := by
  refine Nat.eq_of_testBit_eq fun j => ?_
  simp only [bits, Nat.testBit_mod_two_pow, Nat.testBit_shiftRight]
  by_cases hj : j < hi + 1 - lo
  · simp [hj, show lo + j < n by omega]
  · simp [hj]

theorem exec_clTmk (q aa : BitVec 4) (sb : BitVec 5) (s : State) : exec (.clTmk q aa sb) s = execClTmk q aa sb s := rfl

/-- A tree is made of a readable descriptor at an entry of the caller's partition (R339). -/
theorem exec_clTmk_reads {t1 t2 : State} {va part idx pa st : Nat} {h : Shape} (hx : x = (sv s sb).toNat) (hi : infoOf (.clTmk q aa sb) = some i)
    (hr : Ready i s) (ht : t = joined i s) (hva : va = (av t aa).toNat) (hpart : part = x % 2 ^ 32 / 2 ^ 28) (hidx : idx = bits x 27 8)
    (hother : otherPart t (x % 2 ^ 32) = false) (hal : va % 64 = 0) (hdesc : readDesc t va = .ok (t1, h, pa))
    (hlt : idx < (partAt t1 part).ttn.toNat) (hent : hurtStop t1 [(entAddr t1 part idx, 256)] = none)
    (hold : hurtStop t1 (oldParts t1 (readEnt t1 part idx)) = none) (hmake : makeTree t1 (readEnt t1 part idx) h pa = (t2, e, st)) :
    exec (.clTmk q aa sb) s = .next (clAnswer t2 i sb e.perm (st + (e.handle <<< 32))) := by
  obtain rfl : infoClTmk q aa sb = i := Option.some.inj hi
  obtain rfl : x = (sv t sb).toNat := control_joined hx ht
  subst hva hpart
  have hidx' : idx = bits ((sv t sb).toNat % 2 ^ 32) 27 8 := hidx.trans (bits_mod (by norm_num)).symm
  subst hidx'
  rw [exec_clTmk, execClTmk]
  refine tile_acts hr ht ?_
  refine (if_neg (Bool.eq_false_iff.1 hother)).trans ((if_neg (not_not.2 hal)).trans ?_)
  unfold sv av at *
  simp only [hdesc]
  refine (if_neg (Nat.not_le.2 hlt)).trans ?_
  rw [unhurt_sound hent, unhurt_sound hold, hmake]

/-- What an edit word answers, by what stands against the edit (R345). -/
theorem edit_answers {ins : Instr} {j : Info} (hi : infoOf ins = some j) (hx : x = (sv s sb).toNat) (hexec : exec ins s = editWord j sb s) :
    ∀ i, infoOf ins = some i → Ready i s → ∀ t e m y, t = joined i s → x < 2 ^ 49 → handleOf t 8 (x % 2 ^ 32) false = .ok e →
      hurtStop t (listParts e) = none → m = bits x 47 32 → y = (entShape t e).mems.getD m 0 → m < e.mcnt →
      ((¬(e.st = 2 ∨ e.st = 3) ∨ e.px = true ∨ (treeAt t e).bars ≠ []) → exec ins s = .next (clAnswer t i sb e.perm 3))
      ∧ ((e.st = 2 ∨ e.st = 3) → e.px = false → (treeAt t e).bars = [] → mbPr y = bit x 48 → exec ins s = .next (clAnswer t i sb e.perm 4))
      ∧ ((e.st = 2 ∨ e.st = 3) → e.px = false → (treeAt t e).bars = [] → mbPr y ≠ bit x 48 → (bit x 48 = true ∨
          (((entShape t e).mems.filter mbPr).length ≠ 1 ∧ ¬((e.mode = true ∨ e.op = 6) ∧ isRoot (entShape t e) m = true))) →
          ∀ e1 u, e1 = { e.withFl 3 true with eseg := max e.cur e.hi } →
            u = writeEnt (engWr t (e.desc + 0x40 + 16 * e.ncnt + 8 * m) 8 (setBit y 49 true)) e1 →
            (e.cur < e.hi → exec ins s = .next (clAnswer u i sb e.perm 0))
            ∧ (e.hi ≤ e.cur → exec ins s = .next (clAnswer (applyEdit u e1) i sb e.perm 0))) := by
  rintro i hj hr t e m y ht hlt hh hsound rfl rfl hm
  obtain rfl : j = i := Option.some.inj (hi.symm.trans hj)
  obtain rfl : x = (sv t sb).toNat := control_joined hx ht
  have hh' : handleOf t 8 ((t.core.rdS sb).v.toNat % 2 ^ 32) false = .ok e := hh
  have hopen (h : e.st = 2 ∨ e.st = 3) (hpx : e.px = false) (hbars : (treeAt t e).bars = []) :
      ¬(¬(e.st = 2 ∨ e.st = 3) ∨ e.px = true ∨ (treeAt t e).bars ≠ []) := by simp [h, hpx, hbars]
  have hallowed {add one root : Prop} (hmay : add ∨ (¬one ∧ ¬root)) : ¬(¬add ∧ (one ∨ root)) := by tauto
  refine ⟨fun hshut => ?_, fun hst hpx hbars hsame => ?_, fun hst hpx hbars hother hmay e1 u he1 hu => ⟨fun hlate => ?_, fun hnow => ?_⟩⟩
  all_goals
    refine hexec.trans (tile_acts hr ht ?_)
    refine (if_neg (shiftRight_of_lt hlt)).trans ?_
    simp only [hh']
    refine (unhurt_sound hsound _).trans ((if_neg (Nat.not_le.2 hm)).trans ?_)
  · exact if_pos hshut
  · exact (if_neg (hopen hst hpx hbars)).trans (if_pos hsame)
  · refine (if_neg (hopen hst hpx hbars)).trans ((if_neg hother).trans ((if_neg (hallowed hmay)).trans ?_))
    have hahead : ¬max e.cur e.hi = e.cur := by omega
    subst he1 hu
    exact congrArg (fun v => Except.ok (clAnswer v j sb e.perm 0)) (if_neg hahead)
  · refine (if_neg (hopen hst hpx hbars)).trans ((if_neg hother).trans ((if_neg (hallowed hmay)).trans ?_))
    have hreached : max e.cur e.hi = e.cur := by omega
    subst he1 hu
    exact congrArg (fun v => Except.ok (clAnswer v j sb e.perm 0)) (if_pos hreached)

theorem exec_clQuery (q : BitVec 4) (sb : BitVec 5) (s : State) : exec (.clQuery q sb) s = execClQuery q sb s := rfl

/-- The word that a query answers for an item (R346). -/
def queried (t : State) (e : TEnt) (item : Nat) : Nat :=
  match item with
  | 0 => e.st + (e.fl <<< 8) + (e.cur <<< 32)
  | 1 => pulledCount t e (entShape t e)
  | 2 => e.areaSize
  | 3 => b2n e.px + (e.eseg <<< 32)
  | _ => e.hi

theorem queried_state (t : State) (e : TEnt) : queried t e 0 = e.st + e.fl * 2 ^ 8 + e.cur * 2 ^ 32 := by
  unfold queried
  simp only [Nat.shiftLeft_eq]

/-- A query answers the item it asks for (R346). -/
theorem exec_clQuery_answers (hx : x = (sv s sb).toNat) (hi : infoOf (.clQuery q sb) = some i) (hr : Ready i s) (ht : t = joined i s)
    (hlt : x < 2 ^ 36) (hitem : bits x 35 32 ≤ 4) (hh : handleOf t 0xA (x % 2 ^ 32) true = .ok e)
    (hsound : bits x 35 32 = 1 → hurtStop t (listParts e) = none) :
    ∃ y, exec (.clQuery q sb) s = .next (clAnswer t i sb e.perm y)
      ∧ (bits x 35 32 = 0 → y = e.st + e.fl * 2 ^ 8 + e.cur * 2 ^ 32) ∧ (bits x 35 32 = 2 → y = e.areaSize) ∧ (bits x 35 32 = 4 → y = e.hi) := by
  obtain rfl : infoClQuery q sb = i := Option.some.inj hi
  obtain rfl : x = (sv t sb).toNat := control_joined hx ht
  have hsound' : hurtStop t (if bits (sv t sb).toNat 35 32 = 1 then listParts e else []) = none := by
    split
    next h => exact hsound h
    next => rfl
  rw [exec_clQuery, execClQuery]
  refine ⟨queried t e (bits (sv t sb).toNat 35 32), tile_acts hr ht ?_, fun h0 => ?_, fun h2 => ?_, fun h4 => ?_⟩
  · refine (if_neg (not_or.2 ⟨shiftRight_of_lt hlt, Nat.not_lt.2 hitem⟩)).trans ?_
    unfold sv at *
    simp only [hh]
    exact unhurt_sound hsound' _
  · exact (congrArg (queried t e) h0).trans (queried_state t e)
  · exact congrArg (queried t e) h2
  · exact congrArg (queried t e) h4

end

/-! ## Freezing, thawing, aborting, freeing -/

theorem exec_clTfree (q : BitVec 4) (sb : BitVec 5) (s : State) : exec (.clTfree q sb) s = execClTfree q sb s := rfl

theorem exec_clThaw (q : BitVec 4) (sb : BitVec 5) (s : State) : exec (.clThaw q sb) s = execClThaw q sb s := rfl

theorem exec_clFrz (q : BitVec 4) (sb : BitVec 5) (s : State) : exec (.clFrz q sb) s = execClFrz q sb s := rfl

theorem exec_clAbort (q : BitVec 4) (sb : BitVec 5) (s : State) : exec (.clAbort q sb) s = execClAbort q sb s := rfl

/-- Settles O32: past the check of its handle each word is one action on the entry. -/
theorem treeManagementAnswers : Obligations.TreeManagementAnswers := by
  intro q aa sb s x hx on edit
  refine ⟨?_, ?_, ?_, ?_, ?_, ?_, ?_, ?_, ?_, ?_, ?_, ?_⟩
  · exact answers_of_manage rfl hx (exec_clTfree q sb s) fun t e hs => unhurt_sound hs _
  · refine answers_of_manage rfl hx (exec_clFrz q sb s) fun t e hs => unhurt_sound ?_ _
    split
    next h => exact hs h
    next => rfl
  · exact answers_of_manage rfl hx (exec_clThaw q sb s) fun t e _ => rfl
  · refine answers_of_manage rfl hx (exec_clAbort q sb s) fun t e hs => unhurt_sound ?_ _
    split
    next h => exact hs h
    next => rfl
  · exact answers_of_manageAt rfl hx (exec_clSave q aa sb s) fun t e ⟨hal, hst⟩ => ⟨if_neg (not_not.2 hal), if_pos hst⟩
  · exact answers_of_manageAt rfl hx (exec_clRst q aa sb s) fun t e ⟨hal, hst⟩ => ⟨if_neg (not_not.2 hal), if_pos hst⟩
  · exact edit_answers (j := infoClEditRemove q sb) rfl hx rfl
  · exact edit_answers (j := infoClEditAdd q sb) rfl hx rfl
  · rintro i hi hr t e va ht hh hva hal hst hs t1 pa hspan t2 hwrite
    exact exec_clSave_frozen hx hi hr ht hh hva hal hst hs hspan hwrite
  · rintro i hi hr t e va ht hh hva hal hst hs t1 pa hspan t2 img l hread h hshape hmaps hnodes
    exact exec_clRst_saved hx hi hr ht hh hva hal hst hs hspan hread hshape hmaps hnodes
  · rintro i hi hr t va part idx ht hva hpart hidx hother hal t1 h pa hdesc hlt hent hold t2 e st hmake
    exact exec_clTmk_reads hx hi hr ht hva hpart hidx hother hal hdesc hlt hent hold hmake
  · rintro i hi hr t e ht hlt hitem hh hs
    exact exec_clQuery_answers hx hi hr ht hlt hitem hh hs

end Sys2Proof.Laws

namespace Sys2Proof.Laws
open Sys2Proof Sys2Proof.Machine

/-! # Words of tree members -/

/-! ## What a member's word reads -/

theorem readSpan_bare {s : State} {w : Who} {kind : Kind} {k va n : Nat} {r : State × Nat × Label} (h : readSpan s w kind k va n = .ok r) :
    bare r.1 = bare s := by
  induction k generalizing s va n r with
  | zero =>
    cases h
    rfl
  | succ k ih =>
    unfold readSpan at h
    extract_lets c at h
    split at h
    · cases h
    next hline =>
      split at h
      · cases h
      next hrest =>
        cases h
        exact (ih hrest).trans (readVa_bare hline)

theorem readBytes_bare {s : State} {w : Who} {va n : Nat} {kind : Kind} {r : State × Nat × Label} (h : readBytes s w va n kind = .ok r) :
    bare r.1 = bare s := by
  unfold readBytes at h
  split at h
  next hspan _ =>
    cases h
    exact readSpan_bare hspan
  · cases h
  · cases h

/-- Two states of one view have one core but for the stash. -/
theorem core_of_bare {s t : State} (h : bare t = bare s) : t.core = { s.core with stash := t.core.stash } := by
  have hcore : { t.core with stash := [] } = { s.core with stash := [] } := congrArg Prod.snd h
  calc t.core = { { t.core with stash := [] } with stash := t.core.stash } := rfl
    _ = { s.core with stash := t.core.stash } := by rw [hcore]

theorem region_of_isMem {pa : Nat} (h : isMem pa = true) : region pa ≠ 3 := by
  simp only [isMem, isHbm, isDdr, Bool.or_eq_true, Bool.and_eq_true, decide_eq_true_eq] at h
  simp only [region, hbmTop, ddrLo] at *
  omega

/-- Whole lines hold no doubleword of the device region. -/
theorem deviceParts_lines (t : State) {va n : Nat} (hva : va % 128 = 0) (hn : n % 128 = 0) : deviceParts t va n = [] := by
  have hnone : (spanParts va n).filter (fun p => p.2 == 8) = [] := by
    refine List.filter_eq_nil_iff.2 fun p hp => ?_
    obtain ⟨i, hi, rfl⟩ := List.mem_map.1 hp
    have hlt : i < lineCount va n := List.mem_range.1 hi
    have hlen : lineCount va n = n / 128 := by
      unfold lineCount
      split <;> omega
    rw [hlen] at hlt
    have hsize : min (va + n) (va / 128 * 128 + 128 * i + 128) - (if i = 0 then va else va / 128 * 128 + 128 * i) = 128 := by
      split <;> omega
    simp only [hsize]
    decide
  rw [deviceParts, hnone]
  rfl

/-- A range at the start of a line and shorter than it is one part. -/
theorem spanParts_one {va n : Nat} (hva : va % 128 = 0) (hlt : va < 2 ^ 72) (hn : 0 < n) (hshort : n < 128) : spanParts va n = [(va, n)] := by
  have hcount : lineCount va n = 1 := by
    unfold lineCount
    rw [if_neg (by omega)]
    omega
  have hsize : min (va + n) (va / 128 * 128 + 128 * 0 + 128) - va = n := by omega
  simp only [spanParts, hcount, List.range_one, List.map_singleton, if_true, hsize, Nat.mod_eq_of_lt hlt]

/-- What is read of a line through a window lies in memory (R191). -/
theorem translate_of_readVa_window {t : State} {w : Who} {va n : Nat} {r : State × Nat × Label} {kind : Kind} (hw : w.tile = true)
    (hread : readVa t w va n kind = .ok r) (hwin : (findWindow t.core.maps.toList va n 0).isSome = true) :
    ∃ x ea, translate t va w.vf w.part w.prv n kind = .ok (x, ea) ∧ isMem x.pa = true := by
  unfold readVa at hread
  split at hread
  · cases hread
  next s1 x hmark =>
    have hmaps : s1.core.maps = t.core.maps := congrArg (fun b : Nat × Core => b.2.maps) (translateMark_bare hmark)
    obtain ⟨o, ho⟩ := Option.isSome_iff_exists.1 hwin
    have hplace : placeOf s1 w va n x = .window (o.1 / 128) := by
      simp only [placeOf, hw, not_true_eq_false, if_false, hmaps, ho]
    simp only [readAt, hplace] at hread
    unfold translateMark at hmark
    split at hmark
    · cases hmark
    next y ea hwalk =>
      have hxy : x = y := by
        split at hmark
        · cases hmark
          rfl
        split at hmark
        · cases hmark
        · cases hmark
          rfl
      subst hxy
      refine ⟨x, ea, hwalk, ?_⟩
      by_contra hmem
      rw [if_pos (Or.inr hmem)] at hread
      cases hread

/-- Of the doublewords of a contribution that can be read through a window none lies in the device region (R519). -/
theorem deviceParts_window {t : State} {va n : Nat} {r : State × Nat × Label} (hva : va % 128 = 0) (hlt : va < 2 ^ 72) (hn : 0 < n)
    (hshort : n < 128) (hread : readBytes t t.core.who va n .read = .ok r)
    (hwin : (findWindow t.core.maps.toList va n 0).isSome = true) : deviceParts t va n = [] := by
  rw [deviceParts, spanParts_one hva hlt hn hshort]
  by_cases h8 : n = 8
  · subst h8
    have hline : ∃ r', readVa t t.core.who va 8 .read = .ok r' := by
      unfold readBytes at hread
      have hcount : lineCount va 8 = 1 := by simp [lineCount, hva]
      rw [hcount] at hread
      unfold readSpan at hread
      have hchunk : min 8 (128 - va % 128) = 8 := by omega
      simp only [hchunk] at hread
      cases hr : readVa t t.core.who va 8 .read with
      | ok r' => exact ⟨r', rfl⟩
      | error e => simp [hr] at hread
    obtain ⟨r', hr'⟩ := hline
    obtain ⟨x, ea, hwalk, hmem⟩ := translate_of_readVa_window rfl hr' hwin
    have hwalk' : translate t va t.core.who.vf t.core.who.part t.core.who.prv 8 .read = .ok (x, ea) := hwalk
    simp [hwalk', region_of_isMem hmem]
  · simp [h8]

/-- A contribution of a power of two bytes that can be read through a window lies outside the device region. -/
theorem deviceParts_contribution {t : State} {va k : Nat} {r : State × Nat × Label} (hva : va % 128 = 0) (hlt : va < 2 ^ 72)
    (hread : readBytes t t.core.who va (2 ^ k) .read = .ok r)
    (hwin : (findWindow t.core.maps.toList va (2 ^ k) 0).isSome = true) : deviceParts t va (2 ^ k) = [] := by
  rcases Nat.lt_or_ge k 7 with hk | hk
  · exact deviceParts_window hva hlt (Nat.two_pow_pos k) (lt_of_lt_of_eq (Nat.pow_lt_pow_right (by norm_num) hk) rfl) hread hwin
  · exact deviceParts_lines t hva (Nat.mod_eq_zero_of_dvd (pow_dvd_pow 2 hk))

theorem readPart_ok {t : State} {va n : Nat} {r : State × Nat × Label} (hread : readBytes t t.core.who va n .read = .ok r)
    (hdev : deviceParts t va n = []) : readPart t va n = .ok r := by
  rw [readPart, hread, hdev]

/-- A contribution that can be read, whose labels PERM holds and, where asked, that lies in one window, is as it was read (R335). -/
theorem testPart_ok {t t1 : State} {i : Info} {e : TEnt} {win : Bool} {va n data : Nat} {ml : Label}
    (hread : readBytes t t.core.who va n .read = .ok (t1, data, ml)) (hdev : deviceParts t va n = [])
    (hperm : (ml ||| readLabel t1.core i.rd) &&& ~~~(BitVec.ofNat 32 e.perm) = 0)
    (hwin : win = true → (findWindow t1.core.maps.toList va n 0).isSome = true) :
    testPart t i e win va n = .ok (t1, data, ml ||| readLabel t1.core i.rd) := by
  simp only [testPart, readPart_ok hread hdev, hperm, ne_eq, not_true_eq_false, if_false]
  refine if_neg ?_
  rintro ⟨hw, hnone⟩
  rw [Option.isNone_iff_eq_none] at hnone
  simp [hnone] at hwin
  exact Bool.false_ne_true (hwin.symm.trans hw)

end Sys2Proof.Laws

namespace Sys2Proof.Laws
open Sys2Proof Sys2Proof.Machine

/-! ## Lines written home keep every core but for its stash -/

/-- Every core of the package but for its stash. -/
def bareCores (s : State) (n : Nat) : Core := { coreAt s n with stash := [] }

theorem bare_eq (s : State) : bare s = (s.coreNo, bareCores s s.coreNo) := by
  rw [bareCores, coreAt, if_pos rfl]
  rfl

theorem bareCores_focus (s : State) (n : Nat) : bareCores (focus s n) = bareCores s := by
  funext m
  rw [bareCores, coreAt_focus, bareCores]

theorem bareCores_writeHome (s : State) (l : StashLine) : bareCores (writeHome s l) = bareCores s := by
  unfold writeHome
  split
  · rw [setDir_frame]
    rfl
  · rfl

theorem bareCores_cleanLines (s : State) (p : Nat × StashLine → Bool) : bareCores (cleanLines s p) = bareCores s := by
  unfold cleanLines
  refine (foldl_view bareCores (fun t (l : Nat × StashLine) => bareCores_writeHome t l.2) _ _).trans ?_
  funext m
  unfold bareCores coreAt
  by_cases hm : m = s.coreNo <;> simp only [hm, if_true, if_false]

theorem cleanEach_bare (s : State) (p : State → Nat × StashLine → Bool) : bare (cleanEach s p) = bare s := by
  have hcores : bareCores (cleanEach s p) = bareCores s := by
    unfold cleanEach
    rw [bareCores_focus]
    exact foldl_view bareCores (fun t n => (bareCores_cleanLines ..).trans (bareCores_focus ..)) _ s
  have hno : (cleanEach s p).coreNo = s.coreNo := focus_coreNo ..
  rw [bare_eq, bare_eq, hcores, hno]

theorem releaseLines_bare (t : State) (obj : Addr) : bare (releaseLines t obj) = bare t := by
  unfold releaseLines
  refine foldl_view bare (fun u b => ?_) _ t
  split
  · exact cleanEach_bare ..
  · rfl

theorem releaseFor_bare (t : State) (rl : BitVec 1) (objs : List Addr) : bare (releaseFor t rl objs) = bare t := by
  unfold releaseFor
  split
  · exact foldl_view bare releaseLines_bare objs t
  · rfl

theorem writeEnt_bare (s : State) (e : TEnt) : bare (writeEnt s e) = bare s := engWr_bare ..

/-! ## A tag that is free -/

/-- The state in which a command is in flight on its tag (R199, R200). -/
def inFlight (t : State) (c : Cmd) : State :=
  let u := push t 1 (.tagsClr t.core.cur (1#64 <<< c.tag.toNat)) c.lab
  { u with core := { u.core.setCtx u.core.cur { t.core.ctx with busy := t.core.ctx.busy ||| (1#64 <<< c.tag.toNat) } with
      cmds := u.core.cmds ++ [{ c with arr := u.core.grp.eArr }] } }

theorem tagFree_of_bare {t u : State} {tag : Nat} (h : bare u = bare t) (hfree : TagFree t tag) : TagFree u tag := by
  rw [TagFree, core_of_bare h]
  exact hfree

theorem issueCmd_free {t : State} {c : Cmd} {tag : Nat} (hfree : TagFree t tag) (hc : c.tag = BitVec.ofNat 6 tag) :
    issueCmd t c = .ok (inFlight t c) := by
  obtain ⟨-, hroom, hbusy⟩ := hfree
  rw [← hc] at hbusy
  exact if_neg (not_or.2 ⟨Nat.not_le.2 hroom, not_not.2 hbusy⟩)

/-- A command captured from t has issued in the state in which its word has answered, whatever that leaves beside the core. -/
theorem issued_of_answer {t u w : State} {c : Cmd} {kind : CmdKind} {tag : Nat} {aa : Addr} {ctl : Word} {i : Info} {sb : BitVec 5} {perm y : Nat}
    (hfree : TagFree t tag) (hu : bare u = bare t) (hw : bare w = bare (inFlight u c))
    (hc : c.kind = kind ∧ c.tag = BitVec.ofNat 6 tag ∧ c.aa = aa ∧ c.ctl = ctl)
    (hown : c.ctx = t.core.cur ∧ c.vf = t.core.cont.vf ∧ c.part = t.core.cont.part ∧ c.prv = t.core.cont.prv) :
    Issued t (clAnswer w i sb perm y) kind tag aa ctl { c with arr := t.core.grp.eArr } := by
  obtain ⟨hcur, -, -⟩ := hfree
  obtain ⟨hkind, htag, haa, hctl⟩ := hc
  have hcore := core_of_bare hw
  have hucore := core_of_bare hu
  refine ⟨⟨hkind, htag, haa, hctl, rfl⟩, hown, ?_, ?_, ?_⟩
  · change w.core.cmds = _
    rw [hcore]
    change u.core.cmds ++ [{ c with arr := u.core.grp.eArr }] = _
    rw [hucore]
  · change w.core.ctx.busy = _
    rw [hcore]
    change (((u.core.push ..).setCtx u.core.cur _).ctx).busy = _
    rw [hucore]
    simp [Core.ctx, Core.setCtx, Core.push, Vector.toList_setIfInBounds, List.getD_eq_getElem?_getD, hcur]
  · refine ⟨[⟨w.core.tick + 1, .s sb (BitVec.ofNat 64 y), readLabel w.core i.rd ||| BitVec.ofNat 32 perm, none⟩], ?_⟩
    change w.core.pend ++ [_] = _
    have hpend : w.core.pend = t.core.pend ++ [⟨t.core.tick + 1, .tagsClr t.core.cur (1#64 <<< c.tag.toNat), c.lab, none⟩] := by
      rw [hcore]
      change u.core.pend ++ [⟨u.core.tick + 1, .tagsClr u.core.cur (1#64 <<< c.tag.toNat), c.lab, none⟩] = _
      rw [hucore]
    rw [hpend, List.append_assoc]
    rfl

/-- A post or an exchange whose tag is free enters the tree's staging (R335, R350). -/
theorem enterPost_free {t : State} {i : Info} {sb : BitVec 5} {e : TEnt} {m n data tag : Nat} {c : Cmd} {lab : Label} {prov : Bool} {geo : List Word}
    (hfree : TagFree t tag) (hc : c.tag = BitVec.ofNat 6 tag) :
    ∃ w, enterPost t i sb e m n c data lab prov geo = .ok (clAnswer w i sb e.perm 0) ∧ bare w = bare (inFlight t c) := by
  rw [enterPost, issueCmd_free hfree hc]
  exact ⟨_, rfl, writeEnt_bare ..⟩

/-! ## The entry that a member's handle names -/

theorem handleOf_of_memberHandle {t : State} {minor h seg : Nat} {e : TEnt} (hm : memberHandle t minor h seg = .ok e) :
    handleOf t minor h false = .ok e := by
  unfold memberHandle at hm
  split at hm
  · cases hm
  next hh =>
    split at hm
    · split at hm <;> cases hm
      exact hh
    · split at hm
      · split at hm <;> cases hm
      · cases hm

theorem named_of_memberHandle {t : State} {minor h seg : Nat} {e : TEnt} (hm : memberHandle t minor h seg = .ok e) :
    named t minor h = some e := by
  rw [named, handleOf_of_memberHandle hm]
  rfl

theorem ctlG_of_bare {s t : State} (h : bare t = bare s) (n : Nat) : ctlG t.core n = ctlG s.core n := by
  rw [core_of_bare h]
  rfl

/-! ## The status of a member's word -/

/-- The status that the word of the focused core meets on segment n: 5 where it is no member (R335, R337). -/
def memberStatus (s : State) (h : Shape) (tr : Tree) (e : TEnt) (n : Nat) (may already : Nat → Bool) : Nat :=
  match memberOf s h s.coreNo with
  | some j => segStatus tr e n (may j) (already j)
  | none => 5

section
variable {s t t1 : State} {q aa : BitVec 4} {ac rl : BitVec 1} {sc : BitVec 3} {sb : BitVec 5} {i : Info} {x va hd n : Nat} {e : TEnt}

/-- A word whose group is ready acts on the state in which its registers' labels have joined. -/
theorem tile_settles {act : State → Act} (hr : Ready i s) (ht : t = joined i s) : tile i true s act = settle s (act t) := by
  subst ht
  exact tile_ready hr rfl

/-! ## Posting (R335) -/

theorem exec_clPost (q : BitVec 4) (ac rl : BitVec 1) (sc : BitVec 3) (aa : BitVec 4) (sb : BitVec 5) (s : State) :
    exec (.clPost q ac rl sc aa sb) s = execClPost q ac rl sc aa sb s := rfl

/-- The command of a post of n bytes at va (R335). -/
def postCmd (t : State) (i : Info) (rl : BitVec 1) (sc : BitVec 3) (aa : BitVec 4) (sb : BitVec 5) (x va n : Nat) (lab : Label) : Cmd :=
  { mkCmd t i .post (x % 64) (av t aa) (sv t sb) rl sc with lab := lab, geo := postParts t va n }

/-- A post past its checks on a tree that moves data answers its status, or enters the tree's staging. -/
theorem clPost_settles {data : Nat} {lab : Label} (hi : infoOf (.clPost q ac rl sc aa sb) = some i) (hr : Ready i s) (hx : x = (sv s sb).toNat)
    (ht : t = joined (i.naming (namedG (sgG x) 1)) s) (hva : va = (av t aa).toNat) (hlt : x < 2 ^ 16) (hra : sgRa x = 0)
    (hhd : hd = (ctlG t.core (sgG x)).toNat % 2 ^ 32) (hn : n = (ctlG t.core (sgG x)).toNat / 2 ^ 32)
    (hother : otherPart t hd = false) (hal : va % 128 = 0) (hmem : memberHandle t 2 hd n = .ok e)
    (htest : testPart t (i.naming (namedG (sgG x) 1)) e true va (2 ^ e.segl) = .ok (t1, data, lab)) {st : Nat}
    (hst : st = memberStatus t1 (entShape t1 e) (treeAt t1 e) e n (fun j => contributes e (entShape t1 e) n j && e.op != 10)
      (bit ((treeAt t1 e).postedIn e n))) :
    exec (.clPost q ac rl sc aa sb) s = settle s (
      if st ≠ 0 then .ok (refusedWord (clAnswer t1 i sb e.perm st))
      else enterPost t1 i sb e ((memberOf t1 (entShape t1 e) t1.coreNo).getD 0) n
        (postCmd t1 (i.naming (namedG (sgG x) 1)) rl sc aa sb x va (2 ^ e.segl) lab) data lab (skProv t va (2 ^ e.segl)) []) := by
  obtain rfl : infoClPost q ac rl sc aa sb = i := Option.some.inj hi
  have hshift : (ctlG t.core (sgG x)).toNat >>> 32 = n := by rw [Nat.shiftRight_eq_div_pow, hn]
  rw [exec_clPost, execClPost]
  subst hx
  refine (tile_settles (ready_naming hr _) ht).trans (congrArg (settle s) ?_)
  subst hhd hva hst
  refine (if_neg (not_or.2 ⟨shiftRight_of_lt hlt, not_not.2 hra⟩)).trans ?_
  refine (if_neg (Bool.eq_false_iff.1 hother)).trans ((if_neg (not_not.2 hal)).trans ?_)
  unfold av sv at *
  simp only [hshift, hmem, htest] <;> rfl

/-- A post answers a status that is not 0, and otherwise issues where its tag is free. -/
theorem clPost_answers {data : Nat} {ml : Label} (hi : infoOf (.clPost q ac rl sc aa sb) = some i) (hr : Ready i s) (hx : x = (sv s sb).toNat)
    (ht : t = joined (i.naming (namedG (sgG x) 1)) s) (hva : va = (av t aa).toNat) (hlt : x < 2 ^ 16) (hra : sgRa x = 0)
    (hhd : hd = (ctlG t.core (sgG x)).toNat % 2 ^ 32) (hn : n = (ctlG t.core (sgG x)).toNat / 2 ^ 32)
    (hother : otherPart t hd = false) (hal : va % 128 = 0) (hmem : memberHandle t 2 hd n = .ok e)
    (hread : readBytes t t.core.who va (2 ^ e.segl) .read = .ok (t1, data, ml))
    (hperm : (ml ||| readLabel t1.core (i.naming (namedG (sgG x) 1)).rd) &&& ~~~(BitVec.ofNat 32 e.perm) = 0)
    (hwin : (findWindow t1.core.maps.toList va (2 ^ e.segl) 0).isSome = true) {st : Nat}
    (hst : st = memberStatus t1 (entShape t1 e) (treeAt t1 e) e n (fun j => contributes e (entShape t1 e) n j && e.op != 10)
      (bit ((treeAt t1 e).postedIn e n))) :
    (st ≠ 0 → exec (.clPost q ac rl sc aa sb) s = .next (refusedWord (clAnswer t1 i sb e.perm st)))
      ∧ (st = 0 → TagFree t1 (x % 64) → ∃ u c, exec (.clPost q ac rl sc aa sb) s = .next u
          ∧ Issued t1 u .post (x % 64) (av t1 aa) (sv t1 sb) c) := by
  have hmaps : t1.core.maps = t.core.maps := congrArg (fun b : Nat × Core => b.2.maps) (readBytes_bare hread)
  have hdev : deviceParts t va (2 ^ e.segl) = [] := deviceParts_contribution hal (hva ▸ BitVec.isLt _) hread (hmaps ▸ hwin)
  have hsettles := clPost_settles hi hr hx ht hva hlt hra hhd hn hother hal hmem (testPart_ok hread hdev hperm fun _ => hwin) hst
  refine ⟨fun hne => hsettles.trans (congrArg (settle s) (if_pos hne)), fun h0 hfree => ?_⟩
  obtain ⟨w, hw, hbare⟩ := enterPost_free hfree (show (postCmd ..).tag = _ from rfl)
  exact ⟨_, _, hsettles.trans (congrArg (settle s) ((if_neg (not_not.2 h0)).trans hw)), issued_of_answer hfree rfl hbare
    ⟨rfl, rfl, rfl, rfl⟩ ⟨rfl, rfl, rfl, rfl⟩⟩

/-! ## Taking (R337) -/

theorem exec_clTake (q : BitVec 4) (ac rl : BitVec 1) (sc : BitVec 3) (aa : BitVec 4) (sb : BitVec 5) (s : State) :
    exec (.clTake q ac rl sc aa sb) s = execClTake q ac rl sc aa sb s := rfl

/-- The registers that a take names, besides those of its fields: its segment, its record, its counts where the tree writes them, its
barrier where it has one. -/
def takeNames (s : State) (x : Nat) : List RegName :=
  namedG (sgG x) 1 ++ [namedA (sgRa x)]
    ++ (if (readEnt s ((ctlG s.core (sgG x)).toNat % 2 ^ 32 / 2 ^ 28) (bits ((ctlG s.core (sgG x)).toNat % 2 ^ 32) 27 8)).skip ≠ 0 then
      [namedA (sgDa x)] else []) ++ (if sgCr x then [namedA (sgBa x)] else [])

/-- The command of a take (R337). -/
def takeCmd (t : State) (i : Info) (rl : BitVec 1) (sc : BitVec 3) (aa : BitVec 4) (sb : BitVec 5) (x : Nat) : Cmd :=
  { mkCmd t i .take (x % 64) (av t aa) (sv t sb) rl sc with
    da := ctlA t.core (sgDa x), xa := ctlA t.core (sgRa x), ba := ctlA t.core (sgBa x) }

/-- The state from which a take issues: with REL = 1 its barrier's lines are home. -/
def takeReleased (t : State) (rl : BitVec 1) (x : Nat) : State := releaseFor t rl (if sgCr x then [ctlA t.core (sgBa x)] else [])

/-- A take past its checks on a tree that moves data answers its status, or is entered with the tree's takes. -/
theorem clTake_settles (hi : infoOf (.clTake q ac rl sc aa sb) = some i) (hr : Ready i s) (hx : x = (sv s sb).toNat)
    (ht : t = joined (i.naming (takeNames s x)) s) (hlt : x < 2 ^ 25) (hba : sgCr x = false → sgBa x = 0)
    (hhd : hd = (ctlG t.core (sgG x)).toNat % 2 ^ 32) (hn : n = (ctlG t.core (sgG x)).toNat / 2 ^ 32)
    (hother : otherPart t hd = false) (hal : (av t aa).toNat % 128 = 0) (hral : (ctlA t.core (sgRa x)).toNat % 16 = 0)
    (hmem : memberHandle t 3 hd n = .ok e) (hda : e.skip = 0 → sgDa x = 0) (hdal : e.skip ≠ 0 → (ctlA t.core (sgDa x)).toNat % 16 = 0) {st : Nat}
    (hst : st = memberStatus t (entShape t e) (treeAt t e) e n (receives e (entShape t e) n)
      (fun j => (if e.op = 10 then (treeAt t e).took.contains (n, j) else bit ((treeAt t e).delivIn e n) j)
        || (treeAt t e).takes.any (fun k => k.seg == n && k.core == t.coreNo))) :
    exec (.clTake q ac rl sc aa sb) s = settle s (
      if st ≠ 0 then .ok (refusedWord (clAnswer t i sb e.perm st))
      else match issueCmd (takeReleased t rl x) (takeCmd t (i.naming (takeNames s x)) rl sc aa sb x) with
        | .error y => .error y
        | .ok t1 => .ok (clAnswer (setTree t1 e { treeAt t1 e with takes := (treeAt t1 e).takes ++
            [⟨n, t1.coreNo, t.core.cur, BitVec.ofNat 6 (x % 64)⟩] }) i sb e.perm 0)) := by
  obtain rfl : infoClTake q ac rl sc aa sb = i := Option.some.inj hi
  have hshift : (ctlG t.core (sgG x)).toNat >>> 32 = n := by rw [Nat.shiftRight_eq_div_pow, hn]
  have hnamed := named_of_memberHandle hmem
  have hskip : ¬(named t 3 hd).any (fun e => e.skip == 0 && sgDa x != 0) = true := by
    simpa [hnamed] using hda
  have hskip' : ¬(named t 3 hd).any (fun e => e.skip != 0 && (ctlA t.core (sgDa x)).toNat % 16 != 0) = true := by
    simpa [hnamed] using hdal
  have hbits : ¬(x >>> 25 ≠ 0 ∨ (¬sgCr x = true ∧ sgBa x ≠ 0) ∨ (named t 3 hd).any (fun e => e.skip == 0 && sgDa x != 0) = true) := by
    refine not_or.2 ⟨shiftRight_of_lt hlt, not_or.2 ⟨?_, hskip⟩⟩
    rintro ⟨hcr, hne⟩
    exact hne (hba (Bool.eq_false_iff.2 hcr))
  rw [exec_clTake, execClTake]
  simp only [bne_iff_ne]
  subst hx
  refine (tile_settles (ready_naming hr _) ht).trans (congrArg (settle s) ?_)
  subst hhd hst
  refine (if_neg hbits).trans ((if_neg (Bool.eq_false_iff.1 hother)).trans ((if_neg (not_not.2 hal)).trans ?_))
  refine (if_neg (not_not.2 hral)).trans ((if_neg hskip').trans ?_)
  unfold av sv at *
  simp only [hshift, hmem] <;> rfl

/-- A take answers a status that is not 0, and otherwise issues where its tag is free. -/
theorem clTake_answers (hi : infoOf (.clTake q ac rl sc aa sb) = some i) (hr : Ready i s) (hx : x = (sv s sb).toNat)
    (ht : t = joined (i.naming (takeNames s x)) s) (hlt : x < 2 ^ 25) (hba : sgCr x = false → sgBa x = 0)
    (hhd : hd = (ctlG t.core (sgG x)).toNat % 2 ^ 32) (hn : n = (ctlG t.core (sgG x)).toNat / 2 ^ 32)
    (hother : otherPart t hd = false) (hal : (av t aa).toNat % 128 = 0) (hral : (ctlA t.core (sgRa x)).toNat % 16 = 0)
    (hmem : memberHandle t 3 hd n = .ok e) (hda : e.skip = 0 → sgDa x = 0) (hdal : e.skip ≠ 0 → (ctlA t.core (sgDa x)).toNat % 16 = 0) {st : Nat}
    (hst : st = memberStatus t (entShape t e) (treeAt t e) e n (receives e (entShape t e) n)
      (fun j => (if e.op = 10 then (treeAt t e).took.contains (n, j) else bit ((treeAt t e).delivIn e n) j)
        || (treeAt t e).takes.any (fun k => k.seg == n && k.core == t.coreNo))) :
    (st ≠ 0 → exec (.clTake q ac rl sc aa sb) s = .next (refusedWord (clAnswer t i sb e.perm st)))
      ∧ (st = 0 → TagFree t (x % 64) → ∃ u c, exec (.clTake q ac rl sc aa sb) s = .next u
          ∧ Issued t u .take (x % 64) (av t aa) (sv t sb) c ∧ c.xa = ctlA t.core (sgRa x)) := by
  have hsettles := clTake_settles hi hr hx ht hlt hba hhd hn hother hal hral hmem hda hdal hst
  refine ⟨fun hne => hsettles.trans (congrArg (settle s) (if_pos hne)), fun h0 hfree => ?_⟩
  have hbare : bare (takeReleased t rl x) = bare t := releaseFor_bare ..
  have hissue := issueCmd_free (c := takeCmd t (i.naming (takeNames s x)) rl sc aa sb x) (tagFree_of_bare hbare hfree) rfl
  rw [if_neg (not_not.2 h0), hissue] at hsettles
  exact ⟨_, _, hsettles, issued_of_answer hfree hbare rfl ⟨rfl, rfl, rfl, rfl⟩ ⟨rfl, rfl, rfl, rfl⟩, rfl⟩

/-! ## Multicasts (R347) -/

theorem exec_clMcast (q : BitVec 4) (ac rl : BitVec 1) (sc : BitVec 3) (aa : BitVec 4) (sb : BitVec 5) (s : State) :
    exec (.clMcast q ac rl sc aa sb) s = execClMcast q ac rl sc aa sb s := rfl

/-- The registers that a multicast names, besides those of its fields. -/
def mcastNames (x : Nat) : List RegName := namedG (sgG x) 2 ++ (if sgCr x then [namedA (sgBa x)] else [])

/-- The ports that a multicast of entry e goes to: those of its present members, but the root's. -/
def mcastPorts (t : State) (e : TEnt) : List Word :=
  ((entShape t e).mems.filter (fun y => mbPr y && mbEp y != e.root)).map (fun y => BitVec.ofNat 64 (mbEp y))

/-- The command of a multicast, in the state t1 in which its source has been read with labels ml from t (R347). -/
def mcastCmd (t t1 : State) (i : Info) (rl : BitVec 1) (sc : BitVec 3) (aa : BitVec 4) (sb : BitVec 5) (x : Nat) (e : TEnt) (ml : Label) : Cmd :=
  let c := mkCmd t1 i .mcast (x % 64) (av t1 aa) (sv t1 sb) rl sc
  { c with lab := c.lab ||| ml, geo := ctlG t.core (sgG x) :: ctlG t.core (sgG x + 1) :: mcastPorts t1 e }

/-- The state from which a multicast issues: with REL = 1 the lines of its barriers are home. -/
def mcastReleased (t t1 : State) (rl : BitVec 1) (x : Nat) (e : TEnt) : State :=
  releaseFor t1 rl (if sgCr x then mcastBars t1 (16 * bits (ctlG t.core (sgG x)).toNat 63 53) (mcastPorts t1 e) else [])

/-- A multicast past its checks on a tree that moves data answers 5, or issues. -/
theorem clMcast_settles {len data : Nat} {ml : Label} (hi : infoOf (.clMcast q ac rl sc aa sb) = some i) (hr : Ready i s) (hx : x = (sv s sb).toNat)
    (ht : t = joined (i.naming (mcastNames x)) s) (hva : va = (av t aa).toNat) (hlen : len = (ctlG t.core (sgG x + 1)).toNat % 2 ^ 32)
    (hlt : x < 2 ^ 25) (hra : sgRa x = 0) (hda : sgDa x = 0) (hba : sgCr x = false → sgBa x = 0) (hg : sgG x ≤ 62)
    (hlines : len % 128 = 0) (hpos : 0 < len) (hmax : len ≤ 2 ^ 21) (hhd : hd = (ctlG t.core (sgG x)).toNat % 2 ^ 32)
    (hother : otherPart t hd = false) (hal : va % 128 = 0) (hso : bits (ctlG t.core (sgG x)).toNat 52 32 % 128 = 0)
    (hmem : memberHandle t 0xB hd 0 = .ok e) (hread : readPart t va len = .ok (t1, data, ml)) :
    exec (.clMcast q ac rl sc aa sb) s = settle s (
      if e.op ≠ 6 ∨ endpoint t1 t1.coreNo ≠ e.root then .ok (refusedWord (clAnswer t1 i sb e.perm 5))
      else match issueCmd (mcastReleased t t1 rl x e) (mcastCmd t t1 (i.naming (mcastNames x)) rl sc aa sb x e ml) with
        | .error y => .error y
        | .ok t2 => .ok (clAnswer t2 i sb e.perm 0)) := by
  obtain rfl : infoClMcast q ac rl sc aa sb = i := Option.some.inj hi
  have hbits : ¬(x >>> 25 ≠ 0 ∨ sgRa x ≠ 0 ∨ sgDa x ≠ 0 ∨ (¬sgCr x = true ∧ sgBa x ≠ 0)) := by
    refine not_or.2 ⟨shiftRight_of_lt hlt, not_or.2 ⟨not_not.2 hra, not_or.2 ⟨not_not.2 hda, ?_⟩⟩⟩
    rintro ⟨hcr, hne⟩
    exact hne (hba (Bool.eq_false_iff.2 hcr))
  have hregs : ¬64 < sgG x + 2 := by omega
  have hlens : ¬(len % 128 ≠ 0 ∨ len = 0 ∨ 2 ^ 21 < len) := by omega
  rw [exec_clMcast, execClMcast]
  subst hx
  refine (tile_settles (ready_naming hr _) ht).trans (congrArg (settle s) ?_)
  subst hhd hva hlen
  refine (if_neg hbits).trans ((if_neg hregs).trans ((if_neg hlens).trans ?_))
  refine (if_neg (Bool.eq_false_iff.1 hother)).trans ((if_neg (not_not.2 hal)).trans ((if_neg (not_not.2 hso)).trans ?_))
  unfold av sv at *
  simp only [hmem, hread] <;> rfl

/-- A multicast by a core that is not the root of a multicast tree answers 5, and one by its root issues where its tag is free. -/
theorem clMcast_answers {len data : Nat} {ml : Label} (hi : infoOf (.clMcast q ac rl sc aa sb) = some i) (hr : Ready i s) (hx : x = (sv s sb).toNat)
    (ht : t = joined (i.naming (mcastNames x)) s) (hva : va = (av t aa).toNat) (hlen : len = (ctlG t.core (sgG x + 1)).toNat % 2 ^ 32)
    (hlt : x < 2 ^ 25) (hra : sgRa x = 0) (hda : sgDa x = 0) (hba : sgCr x = false → sgBa x = 0) (hg : sgG x ≤ 62)
    (hlines : len % 128 = 0) (hpos : 0 < len) (hmax : len ≤ 2 ^ 21) (hhd : hd = (ctlG t.core (sgG x)).toNat % 2 ^ 32)
    (hother : otherPart t hd = false) (hal : va % 128 = 0) (hso : bits (ctlG t.core (sgG x)).toNat 52 32 % 128 = 0)
    (hmem : memberHandle t 0xB hd 0 = .ok e) (hread : readBytes t t.core.who va len .read = .ok (t1, data, ml)) :
    ((e.op ≠ 6 ∨ endpoint t1 t1.coreNo ≠ e.root) → exec (.clMcast q ac rl sc aa sb) s = .next (refusedWord (clAnswer t1 i sb e.perm 5)))
      ∧ (e.op = 6 → endpoint t1 t1.coreNo = e.root → TagFree t1 (x % 64) → ∃ u c, exec (.clMcast q ac rl sc aa sb) s = .next u
          ∧ Issued t1 u .mcast (x % 64) (av t1 aa) (sv t1 sb) c) := by
  have hpart := readPart_ok hread (deviceParts_lines t hal hlines)
  have hsettles := clMcast_settles hi hr hx ht hva hlen hlt hra hda hba hg hlines hpos hmax hhd hother hal hso hmem hpart
  refine ⟨fun hne => hsettles.trans (congrArg (settle s) (if_pos hne)), fun hop hroot hfree => ?_⟩
  have hbare : bare (mcastReleased t t1 rl x e) = bare t1 := releaseFor_bare ..
  have hissue := issueCmd_free (c := mcastCmd t t1 (i.naming (mcastNames x)) rl sc aa sb x e ml) (tagFree_of_bare hbare hfree) rfl
  rw [if_neg (not_or.2 ⟨not_not.2 hop, not_not.2 hroot⟩), hissue] at hsettles
  exact ⟨_, _, hsettles, issued_of_answer hfree hbare rfl ⟨rfl, rfl, rfl, rfl⟩ ⟨rfl, rfl, rfl, rfl⟩⟩

/-! ## Barriers (R348) -/

theorem exec_clBar (q : BitVec 4) (ac rl : BitVec 1) (sc : BitVec 3) (aa : BitVec 4) (sb : BitVec 5) (s : State) :
    exec (.clBar q ac rl sc aa sb) s = execClBar q ac rl sc aa sb s := rfl

/-- An arrival's object that can be read, written and translated is at its physical address (log 28). -/
theorem testBar_ok {t2 : State} {w : Nat} {ml : Label} {y : Xlat} {m : Nat} (hread : readVa t t.core.who va 16 .rmw = .ok (t1, w, ml))
    (hwrite : writeVa t1 t1.core.who va 16 w (ml ||| readLabel t1.core i.rd) 0 = .ok t2)
    (hwalk : translate t2 va t2.core.who.vf t2.core.who.part t2.core.who.prv 16 .rmw = .ok (y, m)) :
    testBar t i va = .ok (t2, y.pa, ml ||| readLabel t1.core i.rd) := by
  simp only [testBar, hread, hwrite, hwalk]

/-- The state in which the arrival of the focused core at a barrier has been entered, and the barrier checked (R348). -/
def barEntered (t : State) (e : TEnt) (rl : BitVec 1) (aa : BitVec 4) (pa : Nat) (lab : Label) : State :=
  barCheck (setTree (barOut e.part lab (firstOfEach (membersAway t (entShape t e))) (if rl = 1 then releaseLines t (av t aa) else t)) e
    { treeAt t e with bars := (treeAt t e).bars ++ [⟨t.coreNo, pa, lab⟩] }) e

/-- The status of an arrival: 5 for a core that is no present member, 3 for one that is in the barrier (R348). -/
def barStatus (t : State) (e : TEnt) : Nat :=
  match memberOf t (entShape t e) t.coreNo with
  | none => 5
  | some j => if ¬mbPr ((entShape t e).mems.getD j 0) then 5
    else if (treeAt t e).bars.any (fun b => b.core == t.coreNo) then 3 else 0

/-- An arrival past its checks answers its status, with what its walk has set, or enters the barrier. -/
theorem clBar_answers {t2 : State} {pa : Nat} {lab : Label} (hi : infoOf (.clBar q ac rl sc aa sb) = some i) (hr : Ready i s)
    (hx : x = (sv s sb).toNat) (ht : t = joined i s) (hva : va = (av t aa).toNat) (hother : otherPart t (x % 2 ^ 32) = false) (hal : va % 16 = 0)
    (hmem : memberHandle t 0xC (x % 2 ^ 32) 0 = .ok e) (htest : testBar t i va = .ok (t2, pa, lab)) :
    exec (.clBar q ac rl sc aa sb) s =
      if barStatus t2 e = 0 then .next (clAnswer (barEntered t2 e rl aa pa lab) i sb e.perm 0)
      else .next (clAnswer (markSpan t t.core.who va 16 .rmw) i sb e.perm (barStatus t2 e)) := by
  obtain rfl : infoClBar q ac rl sc aa sb = i := Option.some.inj hi
  obtain rfl : x = (sv t sb).toNat := control_joined hx ht
  subst hva
  rw [exec_clBar, execClBar]
  refine (tile_settles hr ht).trans ?_
  rw [← settle_ok s, ← settle_ok s, ← apply_ite (settle s)]
  refine congrArg (settle s) ?_
  refine (if_neg (Bool.eq_false_iff.1 hother)).trans ((if_neg (not_not.2 hal)).trans ?_)
  unfold av sv at *
  cases hm : memberOf t2 (entShape t2 e) t2.coreNo with
  | none =>
    simp only [hmem, htest, barStatus, hm]
    rfl
  | some j =>
    simp only [hmem, htest, barStatus, hm]
    cases mbPr ((entShape t2 e).mems.getD j 0) with
    | false => rfl
    | true => cases (treeAt t2 e).bars.any (fun b => b.core == t2.coreNo) <;> rfl

theorem barStatus_absent {t : State} (hm : memberOf t (entShape t e) t.coreNo = none) : barStatus t e = 5 := by
  rw [barStatus, hm]

theorem barStatus_notPresent {t : State} {j : Nat} (hm : memberOf t (entShape t e) t.coreNo = some j)
    (hp : mbPr ((entShape t e).mems.getD j 0) = false) : barStatus t e = 5 := by
  simp only [barStatus, hm, hp]
  rfl

theorem barStatus_present {t : State} {j : Nat} (hm : memberOf t (entShape t e) t.coreNo = some j)
    (hp : mbPr ((entShape t e).mems.getD j 0) = true) :
    barStatus t e = if (treeAt t e).bars.any (fun b => b.core == t.coreNo) then 3 else 0 := by
  simp only [barStatus, hm, hp]
  rfl

/-! ## Exchanges (R349, R350) -/

theorem exec_clReshard (q : BitVec 4) (ac rl : BitVec 1) (sc : BitVec 3) (aa : BitVec 4) (sb : BitVec 5) (s : State) :
    exec (.clReshard q ac rl sc aa sb) s = execClReshard q ac rl sc aa sb s := rfl

/-- The registers that an exchange names, besides those of its fields: its segment, its two layouts, its record and its destination. -/
def reshardNames (s : State) (x : Nat) : List RegName :=
  namedG (sgG x) (3 + (ctlG s.core (sgG x + 2)).toNat % 8) ++ [namedA (sgRa x), namedA (sgDa x)]

/-- The words of an exchange's layouts over td dimensions. -/
def reshardGeo (t : State) (x td : Nat) : List Word := (List.range (2 + td)).map (fun j => layoutWord j (ctlG t.core (sgG x + 1 + j)))

/-- The command of an exchange of ns bytes at va (R350). -/
def reshardCmd (t t1 : State) (i : Info) (rl : BitVec 1) (sc : BitVec 3) (aa : BitVec 4) (sb : BitVec 5) (x va ns : Nat) (lab : Label) : Cmd :=
  { mkCmd t1 i .reshard (x % 64) (av t1 aa) (sv t1 sb) rl sc with
    lab := lab, da := ctlA t.core (sgDa x), xa := ctlA t.core (sgRa x), geo := postParts t1 va ns }

/-- An exchange past its checks on a tree that moves data answers its status, or enters the tree's staging. -/
theorem clReshard_settles {td eb ns nd data : Nat} {geo : List Word} {lab : Label} (hi : infoOf (.clReshard q ac rl sc aa sb) = some i)
    (hr : Ready i s) (hx : x = (sv s sb).toNat) (ht : t = joined (i.naming (reshardNames s x)) s) (hva : va = (av t aa).toNat)
    (htd : td = (ctlG t.core (sgG x + 2)).toNat % 8) (hgeo : geo = reshardGeo t x td) (hlt : x < 2 ^ 20) (hregs : sgG x + 3 + td ≤ 64)
    (hlo : td ≠ 0) (hhi : td ≠ 7) (hhd : hd = (ctlG t.core (sgG x)).toNat % 2 ^ 32) (hn : n = (ctlG t.core (sgG x)).toNat / 2 ^ 32)
    (hother : otherPart t hd = false) (hral : (ctlA t.core (sgRa x)).toNat % 16 = 0) (hmem : memberHandle t 9 hd n = .ok e)
    (hlayout : layoutBad geo (some e.mcnt) = false) (heb : eb = max 1 (fmtWidth e.fmt / 8)) (hal : va % eb = 0)
    (hdal : (ctlA t.core (sgDa x)).toNat % eb = 0) (hns : ns = shardEls geo (dimSrc geo) * eb) (hnd : nd = shardEls geo (dimDst geo) * eb)
    (hclash : (if ns = 0 ∨ nd = 0 then none
      else aliasStop ((va : Int), (va : Int) + ns) (((ctlA t.core (sgDa x)).toNat : Int), ((ctlA t.core (sgDa x)).toNat : Int) + nd)) = none)
    (htest : testPart t (i.naming (reshardNames s x)) e false va ns = .ok (t1, data, lab)) {st : Nat}
    (hst : st = memberStatus t1 (entShape t e) (treeAt t1 e) e n (fun j => isMember e (entShape t e) n j && e.op == 10)
      (bit ((treeAt t1 e).postedIn e n))) :
    exec (.clReshard q ac rl sc aa sb) s = settle s (
      if st ≠ 0 then .ok (refusedWord (clAnswer t1 i sb e.perm st))
      else enterPost t1 i sb e ((memberOf t1 (entShape t e) t1.coreNo).getD 0) n
        (reshardCmd t t1 (i.naming (reshardNames s x)) rl sc aa sb x va ns lab) data lab false geo) := by
  obtain rfl : infoClReshard q ac rl sc aa sb = i := Option.some.inj hi
  have hshift : (ctlG t.core (sgG x)).toNat >>> 32 = n := by rw [Nat.shiftRight_eq_div_pow, hn]
  have hnamed := named_of_memberHandle hmem
  have hgeoLayout : ¬layoutBad geo ((named t 9 hd).map (·.mcnt)) = true := by rw [hnamed]; exact Bool.eq_false_iff.1 hlayout
  have hebs : ((named t 9 hd).map (fun e => max 1 (fmtWidth e.fmt / 8))).getD 1 = eb := by rw [hnamed, heb]; rfl
  have hfirst : ¬64 < sgG x + 3 := by omega
  have hdims : ¬(td = 0 ∨ td = 7) := by omega
  rw [exec_clReshard, execClReshard]
  subst hx
  refine (tile_settles (ready_naming hr _) ht).trans (congrArg (settle s) ?_)
  subst hhd hva hgeo htd hns hnd hst
  refine (if_neg (shiftRight_of_lt hlt)).trans ((if_neg hfirst).trans ((if_neg hdims).trans ((if_neg (Nat.not_lt.2 hregs)).trans ?_)))
  refine (if_neg hgeoLayout).trans ((if_neg (Bool.eq_false_iff.1 hother)).trans ((if_neg (not_not.2 hral)).trans ?_))
  unfold reshardGeo reshardNames av sv at *
  simp only [hebs, hal, hdal, hshift, hmem, hclash, htest, orCause, ne_eq, not_true_eq_false, if_false] <;> rfl

/-- An exchange answers a status that is not 0, and otherwise issues where its tag is free. -/
theorem clReshard_answers {td eb ns nd data : Nat} {geo : List Word} {ml : Label} (hi : infoOf (.clReshard q ac rl sc aa sb) = some i)
    (hr : Ready i s) (hx : x = (sv s sb).toNat) (ht : t = joined (i.naming (reshardNames s x)) s) (hva : va = (av t aa).toNat)
    (htd : td = (ctlG t.core (sgG x + 2)).toNat % 8) (hgeo : geo = reshardGeo t x td) (hlt : x < 2 ^ 20) (hregs : sgG x + 3 + td ≤ 64)
    (hlo : td ≠ 0) (hhi : td ≠ 7) (hhd : hd = (ctlG t.core (sgG x)).toNat % 2 ^ 32) (hn : n = (ctlG t.core (sgG x)).toNat / 2 ^ 32)
    (hother : otherPart t hd = false) (hral : (ctlA t.core (sgRa x)).toNat % 16 = 0) (hmem : memberHandle t 9 hd n = .ok e)
    (hlayout : layoutBad geo (some e.mcnt) = false) (heb : eb = max 1 (fmtWidth e.fmt / 8)) (hal : va % eb = 0)
    (hdal : (ctlA t.core (sgDa x)).toNat % eb = 0) (hns : ns = shardEls geo (dimSrc geo) * eb) (hnd : nd = shardEls geo (dimDst geo) * eb)
    (hread : readBytes t t.core.who va ns .read = .ok (t1, data, ml)) (hdev : deviceParts t va ns = [])
    (hperm : (ml ||| readLabel t1.core (i.naming (reshardNames s x)).rd) &&& ~~~(BitVec.ofNat 32 e.perm) = 0)
    (hclash : ns = 0 ∨ nd = 0
      ∨ aliasStop ((va : Int), (va : Int) + ns) (((ctlA t.core (sgDa x)).toNat : Int), ((ctlA t.core (sgDa x)).toNat : Int) + nd) = none) {st : Nat}
    (hst : st = memberStatus t1 (entShape t e) (treeAt t1 e) e n (fun j => isMember e (entShape t e) n j && e.op == 10)
      (bit ((treeAt t1 e).postedIn e n))) :
    (st ≠ 0 → exec (.clReshard q ac rl sc aa sb) s = .next (refusedWord (clAnswer t1 i sb e.perm st)))
      ∧ (st = 0 → TagFree t1 (x % 64) → ∃ u c, exec (.clReshard q ac rl sc aa sb) s = .next u
          ∧ Issued t1 u .reshard (x % 64) (av t1 aa) (sv t1 sb) c) := by
  have hapart : (if ns = 0 ∨ nd = 0 then none
      else aliasStop ((va : Int), (va : Int) + ns) (((ctlA t.core (sgDa x)).toNat : Int), ((ctlA t.core (sgDa x)).toNat : Int) + nd)) = none := by
    split
    · rfl
    next hne => exact (or_assoc.2 hclash).resolve_left hne
  have hsettles := clReshard_settles hi hr hx ht hva htd hgeo hlt hregs hlo hhi hhd hn hother hral hmem hlayout heb hal hdal hns hnd hapart
    (testPart_ok hread hdev hperm nofun) hst
  refine ⟨fun hne => hsettles.trans (congrArg (settle s) (if_pos hne)), fun h0 hfree => ?_⟩
  obtain ⟨w, hw, hbare⟩ := enterPost_free hfree (show (reshardCmd ..).tag = _ from rfl)
  exact ⟨_, _, hsettles.trans (congrArg (settle s) ((if_neg (not_not.2 h0)).trans hw)), issued_of_answer hfree rfl hbare
    ⟨rfl, rfl, rfl, rfl⟩ ⟨rfl, rfl, rfl, rfl⟩⟩

end

/-- Settles O33: each word of a member, past its checks, answers the status that its tree gives, or captures its command as issued. -/
theorem treeMembersIssueOrAnswer : Obligations.TreeMembersIssueOrAnswer := by
  unfold Obligations.TreeMembersIssueOrAnswer
  intro q aa ac rl sc sb s x hx seg hd status
  refine ⟨?post, ?take, ?mcast, ?bar, ?reshard⟩
  case post =>
    intro i hi hr t va e ht hva hlt hra hother hal hmem t1 data ml hread hperm hwin st hst
    have hseg : seg t1 = seg t := congrArg (fun g : Word => g.toNat / 2 ^ 32) (ctlG_of_bare (readBytes_bare hread) (sgG x))
    refine clPost_answers hi hr hx ht hva hlt hra rfl rfl hother hal hmem hread hperm hwin (hst.trans ?_)
    simp only [status, memberStatus, hseg] <;> rfl
  case take =>
    intro i hi hr t e names hnames ht hlt hba hother hal hral hmem hda hdal st hst
    subst hnames
    exact clTake_answers hi hr hx ht hlt hba rfl rfl hother hal hral hmem hda hdal hst
  case mcast =>
    intro i hi hr t va len e ht hva hlen hlt hra hda hba hg hlines hpos hmax hother hal hso hmem t1 data ml hread
    exact clMcast_answers hi hr hx ht hva hlen hlt hra hda hba hg hlines hpos hmax rfl hother hal hso hmem hread
  case bar =>
    intro i hi hr t va e ht hva hother hal hmem t1 w ml hread t2 hwrite y m hwalk refused
    have hanswers := clBar_answers hi hr hx ht hva hother hal hmem (testBar_ok hread hwrite hwalk)
    refine ⟨fun habsent => ?_, fun j hj hp => ?_, fun j hj hp => ⟨fun hin => ?_, fun hout => ?_⟩⟩
    · rw [barStatus_absent habsent] at hanswers
      exact hanswers
    · rw [barStatus_notPresent hj hp] at hanswers
      exact hanswers
    · rw [barStatus_present hj hp, if_pos hin] at hanswers
      exact hanswers
    · rw [barStatus_present hj hp, if_neg (Bool.eq_false_iff.1 hout)] at hanswers
      exact hanswers
  case reshard =>
    intro i hi hr t e td geo names va hva hnames ht htd hgeo hlt hregs hlo hhi hother hral hmem hlayout eb da heb hda hal hdal t1 data ml ns nd
      hns hnd hread hdev hperm hclash st hst
    subst hnames hda
    exact clReshard_answers hi hr hx ht hva htd hgeo hlt hregs hlo hhi rfl rfl hother hral hmem hlayout heb hal hdal hns hnd hread hdev hperm
      hclash hst

end Sys2Proof.Laws

namespace Sys2Proof.Laws
open Sys2Proof Sys2Proof.Machine

/-! # Trees, harts and episodes act by themselves -/

/-! ## Configurations that routers keep -/

theorem treeAt_setTree (s : State) (e : TEnt) (t : Tree) : treeAt (setTree s e t) e = t := by
  unfold treeAt setTree
  by_cases h : t = Tree.empty
  · rw [if_pos h, lookup_eraseKey, if_pos rfl, h]
    rfl
  · rw [if_neg h, lookup_insertKey, if_pos rfl]
    rfl

/-- All of a state but its trees and the count of its open values. -/
def treeless (s : State) : State := { s with trees := [], fresh := 0 }

theorem eq_of_treeless {s u : State} (h : treeless u = treeless s) : u = { s with trees := u.trees, fresh := u.fresh } := by
  calc u = { treeless u with trees := u.trees, fresh := u.fresh } := rfl
    _ = { s with trees := u.trees, fresh := u.fresh } := by rw [h, treeless]

theorem cfgRoom_treeless (s : State) (e : TEnt) (r : Nat) : treeless (cfgRoom s e r) = treeless s := by
  unfold cfgRoom
  dsimp only
  split
  · rfl
  · split <;> rfl

/-- The configuration that a router drops to make room is another tree's (R321). -/
theorem treeAt_cfgRoom (s : State) (e : TEnt) (r : Nat) : treeAt (cfgRoom s e r) e = treeAt s e := by
  unfold cfgRoom
  dsimp only
  split
  · rfl
  split
  next k t hk =>
    have hmem := List.mem_of_getElem? hk
    rw [List.mem_filter, Bool.and_eq_true, bne_iff_ne] at hmem
    obtain ⟨-, hother, -⟩ := hmem
    unfold treeAt
    rw [lookup_insertKey, if_neg (Ne.symm hother)]
    rfl
  · rfl

theorem keepCfg_treeless (e : TEnt) (h : Shape) (s : State) (r : Nat) : treeless (keepCfg e h s r) = treeless s :=
  cfgRoom_treeless s e r

theorem treeAt_keepCfg (e : TEnt) (h : Shape) (s : State) (r : Nat) :
    treeAt (keepCfg e h s r) e = { treeAt s e with cfg := insertKey r h (treeAt s e).cfg } := by
  rw [keepCfg, treeAt_setTree, treeAt_cfgRoom]

/-- After the routers of a list have read the configuration each of them keeps it. -/
theorem lookup_cfg_keepCfg (e : TEnt) (h : Shape) (rs : List Nat) (s : State) (r : Nat) :
    lookup (treeAt (rs.foldl (keepCfg e h) s) e).cfg r = if r ∈ rs then some h else lookup (treeAt s e).cfg r := by
  induction rs generalizing s with
  | nil => rfl
  | cons a rs ih =>
    rw [List.foldl_cons, ih, treeAt_keepCfg, lookup_insertKey]
    by_cases hr : r ∈ rs
    · rw [if_pos hr, if_pos (List.mem_cons_of_mem a hr)]
    · rw [if_neg hr]
      exact if_congr (by simp [hr]) rfl rfl

/-! ## The events -/

theorem configRefill_eq {s : State} {h : BitVec 32} {e : TEnt} (hl : liveTree s h.toNat [2, 3, 4] = some e) :
    exec (.configRefill h) s = .next (refill s e ((List.range e.ncnt).map (nodeRouter s e)).eraseDups) := by
  change execConfigRefill h s = _
  rw [execConfigRefill, hl]

theorem instructionBudgetExpiry_stops {s : State} {e : Nat} (he : (curHart s).ep = some e) (hm : (curHart s).machine = false)
    (harm : epArm (epGet s e) = true) (hb : imgF (epGet s e) 0x10 8 ≠ 0) (hi : (curHart s).irem = 0) :
    exec .instructionBudgetExpiry s = .next (if hartIrq (stopEpisode s e 1) 16 = true then
      updHart (stopEpisode s e 1) (fun h => hartTrap h true 16 0) else stopEpisode s e 1) := by
  have hout : budgetOut s = true := by simp [budgetOut, he, hm, harm, hb, hi]
  change execInstructionBudgetExpiry s = _
  simp only [execInstructionBudgetExpiry, he, hout, if_true]

theorem treesHartsAndEpisodesAct : Claims.TreesHartsAndEpisodesAct := by
  intro s
  refine ⟨fun h g k t ht => ?_, fun h g k t ht => ?_, fun h e he => ⟨fun hok => ?_, fun hbad => ?_⟩, fun h => ?_, fun h => ?_, fun h => ?_,
    fun v => rfl, fun e x he hx hm harm hb hi => ?_, fun e x hx hlive harm hb hout => ?_, fun e x hx hst hfl => ?_⟩
  · exact congrArg (fun x : Option State => Host.Outcome.next (x.getD s)) ht
  · exact congrArg (fun x : Option State => Host.Outcome.next (x.getD s)) ht
  · refine ⟨_, configRefill_eq he, ?_⟩
    rw [refill, if_pos hok]
    refine ⟨eq_of_treeless (foldl_view treeless (keepCfg_treeless e _) _ s), fun k hk => ?_⟩
    rw [lookup_cfg_keepCfg, if_pos]
    exact List.mem_eraseDups.2 (List.mem_map.2 ⟨k, List.mem_range.2 hk, rfl⟩)
  · rw [configRefill_eq he, refill, if_neg (Bool.eq_false_iff.1 hbad)]
  · exact congrArg Host.Outcome.next (if_pos h)
  · exact congrArg Host.Outcome.next (if_pos h)
  · exact ⟨rfl, rfl, rfl⟩
  · subst hx
    exact instructionBudgetExpiry_stops he hm harm hb hi
  · subst hx
    refine congrArg Host.Outcome.next (if_pos ?_)
    simp only [wallOut, hlive, harm, bne_iff_ne.2 hb, decide_eq_true hout, Bool.and_self]
  · subst hx
    exact congrArg Host.Outcome.next (if_pos ⟨hst, hfl⟩)

/-! ## Leaf, Combine and Final of an element (R326) -/

theorem clamp_eq {lo hi : Int} (h : lo ≤ hi) (x : Int) : clamp lo hi x = max lo (min hi x) := by
  unfold clamp
  split
  · omega
  · split <;> omega

theorem leafEl_cases (op fmt skip x : Nat) :
    (fmt = 11 → leafEl op fmt skip x = ⟨if op = 0 then wrap 64 (sgn 32 x) else x, 1, 1⟩)
    ∧ (fmt ≠ 11 → skip ≠ 0 → decodeEl fmt x = .nan → leafEl op fmt skip x = ⟨0, 0, 0⟩)
    ∧ (fmt ≠ 11 → (skip = 0 ∨ decodeEl fmt x ≠ .nan) → ∀ v, v = (roundTo false 0 (decodeEl fmt x) 0 0).1 →
        leafEl op fmt skip x = ⟨v, 1 + (2 * b2n (v == 0x7F800000) + 4 * b2n (v == 0xFF800000)), 1⟩) := by
  refine ⟨fun h => if_pos h, fun h hs hn => ?_, fun h hs v hv => ?_⟩
  · rw [leafEl, if_neg h, if_pos ⟨hs, hn⟩]
  · rw [leafEl, if_neg h, if_neg (by tauto), hv]
    simp only [pinf, ninf, Nat.add_assoc]

/-- An element that is absent leaves the other as it is. -/
theorem combineEl_absent (op fmt : Nat) (a b : TEl) :
    (b.st % 2 = 0 → combineEl op fmt a b = a) ∧ (b.st % 2 = 1 → a.st % 2 = 0 → combineEl op fmt a b = b) := by
  exact ⟨fun h => if_pos h, fun hb ha => (if_neg (by omega)).trans (if_pos ha)⟩

section
variable {op fmt : Nat} {a b : TEl} (ha : a.st % 2 = 1) (hb : b.st % 2 = 1)
include ha hb

/-- Two 32-bit integers (R326). -/
theorem combineEl_int (y : TEl) (hy : y = combineEl op 11 a b) : y.cnt = a.cnt + b.cnt ∧ y.st = 1
    ∧ (op = 0 → y.v = (a.v + b.v) % 2 ^ 64) ∧ (op = 1 → sgn 32 y.v = max (sgn 32 a.v) (sgn 32 b.v))
    ∧ (op = 2 → sgn 32 y.v = min (sgn 32 a.v) (sgn 32 b.v)) ∧ (op = 3 → y.v = a.v &&& b.v) ∧ (op = 4 → y.v = a.v ||| b.v)
    ∧ (op = 5 → y.v = a.v ^^^ b.v) := by
  have hint : combineEl op 11 a b = _ := (if_neg (by omega)).trans ((if_neg (by omega)).trans (if_pos rfl))
  rw [hint] at hy
  subst hy
  refine ⟨rfl, rfl, ?_, ?_, ?_, ?_, ?_, ?_⟩ <;> rintro rfl
  · rfl
  · exact (apply_ite (sgn 32) _ _ _).trans (max_def_lt _ _).symm
  · exact (apply_ite (sgn 32) _ _ _).trans ((min_comm _ _).trans (min_def_lt _ _)).symm
  · rfl
  · rfl
  · rfl

/-- Two floating elements (R326). -/
theorem combineEl_float (hf : fmt ≠ 11) (y : TEl) (hy : y = combineEl op fmt a b) : y.cnt = a.cnt + b.cnt
    ∧ y.st = a.st ||| b.st ||| (2 * b2n (y.v == 0x7F800000) + 4 * b2n (y.v == 0xFF800000))
    ∧ (op = 0 → y.v = (roundTo false 0 ((decodeEl 0 a.v).add false (decodeEl 0 b.v)).1 0 0).1)
    ∧ (op ≠ 0 → y.v = minMaxF false 0 (op == 1) a.v b.v) := by
  have hfloat : combineEl op fmt a b = _ := (if_neg (by omega)).trans ((if_neg (by omega)).trans (if_neg hf))
  rw [hfloat] at hy
  subst hy
  exact ⟨rfl, rfl, fun h => if_pos h, fun h => if_neg h⟩

end

theorem add_nan {x y : Fv} (h : x = .nan ∨ y = .nan) : (x.add false y).1 = .nan := by
  rcases h with rfl | rfl
  · rfl
  · cases x <;> rfl

theorem add_opposite_inf {x y : Nat} (h : x = 0x7F800000 ∧ y = 0xFF800000 ∨ x = 0xFF800000 ∧ y = 0x7F800000) :
    ((decodeEl 0 x).add false (decodeEl 0 y)).1 = .nan := by
  rcases h with ⟨rfl, rfl⟩ | ⟨rfl, rfl⟩ <;> decide

theorem roundTo_nan : (roundTo false 0 .nan 0 0).1 = 0x7FC00000 := by decide

theorem finalEl_cases (op fmt : Nat) (a : TEl) :
    (a.st % 2 = 0 → finalEl op fmt a = if fmt = 11 then 0 else (fmtOf fmt).nan)
    ∧ (a.st % 2 = 1 →
      (fmt = 11 → finalEl op fmt a = if op = 0 then wrap 32 (max (-(2 ^ 31)) (min (2 ^ 31 - 1) (sgn 64 a.v))) else a.v)
      ∧ (fmt ≠ 11 → finalEl op fmt a = (roundTo false fmt (decodeEl 0 a.v) 0 0).1)) := by
  refine ⟨fun h => if_pos h, fun h => ⟨fun hf => ?_, fun hf => ?_⟩⟩
  · rw [finalEl, if_neg (by omega), if_pos hf, clamp_eq (by norm_num)]
  · rw [finalEl, if_neg (by omega), if_neg hf]

theorem elementsFollowLeafCombineFinal : Claims.ElementsFollowLeafCombineFinal := by
  intro op fmt skip x a b inf y
  obtain ⟨hb0, ha0⟩ := combineEl_absent op fmt a b
  refine ⟨leafEl_cases op fmt skip x, ⟨hb0, ha0, fun hb ha => ?_⟩, finalEl_cases op fmt a⟩
  by_cases hf : fmt = 11
  · subst hf
    obtain ⟨hcnt, hint⟩ := combineEl_int ha hb y rfl
    exact ⟨hcnt, fun _ => hint, fun h => absurd rfl h⟩
  · obtain ⟨hcnt, hst, hsum, hminmax⟩ := combineEl_float ha hb hf y rfl
    refine ⟨hcnt, fun h => absurd h hf, fun _ => ⟨hst, fun hop => ⟨hsum hop, fun hn => ?_, fun hi => ?_⟩, fun hop => hminmax (by omega)⟩⟩
    · rw [hsum hop, add_nan hn, roundTo_nan]
    · rw [hsum hop, add_opposite_inf hi, roundTo_nan]

end Sys2Proof.Laws

namespace Sys2Proof.Laws
open Sys2Proof Sys2Proof.Machine

/-! # What a pull makes of a node -/

/-! ## The order of the children (R325) -/

/-- Where f finds something of every element, the list it maps to has what it finds of each at its place. -/
theorem getElem?_filterMap_of_isSome {α β : Type} {f : α → Option β} {l : List α} (h : ∀ a ∈ l, (f a).isSome = true) (q : Nat) :
    (l.filterMap f)[q]? = l[q]?.bind f := by
  induction l generalizing q with
  | nil => rfl
  | cons a l ih =>
    obtain ⟨b, hb⟩ := Option.isSome_iff_exists.1 (h a List.mem_cons_self)
    rw [List.filterMap_cons_some hb]
    cases q with
    | zero => exact hb.symm
    | succ q => exact ih (fun c hc => h c (List.mem_cons_of_mem a hc)) q

theorem order_getElem? {h : Shape} {k : Nat} (hall : ∀ p < (h.kids k).length, (lookup (h.kids k) p).isSome = true) {q : Nat}
    (hq : q < (h.kids k).length) : (h.order k)[q]? = lookup (h.kids k) ((q + 1) % (h.kids k).length) := by
  rw [Shape.order, getElem?_filterMap_of_isSome]
  · simp [hq]
  · intro p hp
    obtain ⟨j, -, rfl⟩ := List.mem_map.1 hp
    exact hall _ (Nat.mod_lt _ (Nat.zero_lt_of_lt hq))

/-- Every child that is passed is absent. -/
theorem passAbsent_passes {e : TEnt} {h : Shape} {n : Nat} {l : List TKid} {q : Nat} (hq : q < passAbsent e h n l) :
    ∃ c, l[q]? = some c ∧ isAbsent e h n c = true := by
  induction l generalizing q with
  | nil => exact absurd hq (Nat.not_lt_zero q)
  | cons c l ih =>
    rw [passAbsent] at hq
    split at hq
    next hc =>
      cases q with
      | zero => exact ⟨c, rfl, hc⟩
      | succ q => exact ih (Nat.lt_of_succ_lt_succ hq)
    · exact absurd hq (Nat.not_lt_zero q)

/-- The child at which the passing stops is not. -/
theorem passAbsent_stops {e : TEnt} {h : Shape} {n : Nat} {l : List TKid} {c : TKid} (hc : l[passAbsent e h n l]? = some c) :
    isAbsent e h n c = false := by
  induction l with
  | nil => cases hc
  | cons a l ih =>
    rw [passAbsent] at hc
    split at hc
    · exact ih hc
    next ha =>
      cases hc
      exact Bool.eq_false_iff.2 ha

section
variable {e : TEnt} {h : Shape} {r : TNode}

theorem skipOn_next (e : TEnt) (h : Shape) (r : TNode) :
    (skipOn e h r).next = r.next + passAbsent e h r.seg ((h.order r.node).drop r.next) := rfl

theorem skipOn_passes {q : Nat} (hlo : r.next ≤ q) (hhi : q < (skipOn e h r).next) :
    ∃ c, (h.order r.node)[q]? = some c ∧ isAbsent e h r.seg c = true := by
  rw [skipOn_next] at hhi
  obtain ⟨c, hc, habsent⟩ := passAbsent_passes (e := e) (h := h) (n := r.seg) (l := (h.order r.node).drop r.next) (q := q - r.next) (by omega)
  rw [List.getElem?_drop, Nat.add_sub_cancel' hlo] at hc
  exact ⟨c, hc, habsent⟩

theorem skipOn_stops {c : TKid} (hc : (h.order r.node)[(skipOn e h r).next]? = some c) : isAbsent e h r.seg c = false := by
  rw [skipOn_next, ← List.getElem?_drop] at hc
  exact passAbsent_stops hc

theorem skipOn_done : (skipOn e h r).done = true ↔ (h.order r.node).length ≤ (skipOn e h r).next := decide_eq_true_iff

end

/-! ## Combining a child (R326) -/

/-- Element j of a node after it has combined a child: one below EC has been combined already. -/
def pulledEl (e : TEnt) (r : TNode) (child : Nat → TEl) (j : Nat) : TEl :=
  if j < r.ec then r.el e j else combineEl e.op e.fmt (r.el e j) (child j)

/-- r1 is the record r of a node that has pulled the child i: counts and labels are joined, a multicast's bytes passed on, and
elements combined. -/
def Pulled (e : TEnt) (r r1 : TNode) (i : TIn) : Prop :=
  r1 = { r with cnt := r.cnt + i.cnt, lab := r.lab ||| i.lab, acc := r1.acc, est := r1.est, counts := r1.counts }
    ∧ (e.op = 6 → r1.acc = if r.cnt = 0 then i.data else r.acc)
    ∧ (e.op ≤ 5 → ∀ j < e.els, ∀ y, y = pulledEl e r i.el j →
      elem r1.acc e.accW j = y.v % 2 ^ e.accW ∧ elem r1.est 4 j = y.st % 2 ^ 4 ∧ elem r1.counts 32 j = y.cnt % 2 ^ 32)

/-- The elements below the limit are combined. -/
theorem pullEls_els {e : TEnt} {r : TNode} {child : Nat → TEl} {j : Nat} (hj : j < e.els) {y : TEl} (hy : y = pulledEl e r child j) :
    elem (pullEls e r e.els child).acc e.accW j = y.v % 2 ^ e.accW ∧ elem (pullEls e r e.els child).est 4 j = y.st % 2 ^ 4
      ∧ elem (pullEls e r e.els child).counts 32 j = y.cnt % 2 ^ 32 := by
  have hel : (if j < r.ec ∨ e.els ≤ j then r.el e j else combineEl e.op e.fmt (r.el e j) (child j)) = y := by
    rw [hy, pulledEl]
    exact if_congr (or_iff_left (Nat.not_le.2 hj)) rfl rfl
  simp only [pullEls, TNode.setEls, List.map_map, elem_packL]
  rw [getD_map_range _ 0 hj, getD_map_range _ 0 hj, getD_map_range _ 0 hj]
  simp only [Function.comp_apply, hel, and_self]

theorem pullInto_pulled {e : TEnt} (hop : e.op ≤ 6) (r : TNode) (i : TIn) (f : Nat) :
    Pulled e r (pullInto e r i f).1 i ∧ (pullInto e r i f).2 = f := by
  by_cases h5 : e.op ≤ 5
  · rw [pullInto, if_pos h5]
    exact ⟨⟨rfl, fun h6 => absurd h6 (by omega), fun _ j hj y hy => pullEls_els hj hy⟩, rfl⟩
  · rw [pullInto, if_neg h5, if_pos (by omega)]
    exact ⟨⟨rfl, fun _ => rfl, fun h => absurd h h5⟩, rfl⟩

/-! ## One pull -/

/-- The state in which a node's record is x, its children's deliveries elsewhere marked when it is done. -/
def keptRec (s : State) (e : TEnt) (h : Shape) (u : State) (x : TNode) : State := setTree u e (doneAway s e h x ((treeAt u e).setRec x))

theorem isSketch_false {op : Nat} (h : op ≤ 6) : isSketch op = false := by
  rw [isSketch, decide_eq_false (by omega), Bool.false_and]

section
variable {s : State} {e : TEnt} {h : Shape} {k n : Nat} {r : TNode} (hop : e.op ≤ 6) (hnew : ((treeAt s e).recAt k n).done = false)
  (hring : ringless s e h k = false) (hr : r = skipOn e h ((treeAt s e).recAt k n))
include hnew hring hr

/-- A node without a child left is done. -/
theorem pullOne_done (hd : r.done = true) : pullOne s e h k n = some (keptRec s e h s r) := by
  subst hr
  simp only [pullOne, hnew, hring, Bool.false_eq_true, or_self, if_false, hd, if_true]
  rfl

include hop

/-- A node pulls the post of a member. -/
theorem pullOne_member {i : Nat} {p : TPost} (hd : r.done = false) (hnext : (h.order k)[r.next]? = some (.mem i))
    (hp : (treeAt s e).postOf s h n i = some p) (hc : carries s e p.core = true) :
    ∃ r1, Pulled e r r1 (postIn e p) ∧ pullOne s e h k n = some (pulledPost (keptRec s e h s (stepOn e h r1)) e p) := by
  subst hr
  obtain ⟨hpulled, hfresh⟩ := pullInto_pulled hop (skipOn e h ((treeAt s e).recAt k n)) (postIn e p) s.fresh
  refine ⟨_, hpulled, ?_⟩
  simp only [pullOne, hnew, hring, Bool.false_eq_true, or_self, if_false, hd, hnext, hp, Option.filter_some, hc, if_true,
    isSketch_false hop, false_and, hfresh]
  rfl

/-- A node pulls a node below it that is done. -/
theorem pullOne_node {j : Nat} {c : TNode} {l : Label} (hd : r.done = false) (hnext : (h.order k)[r.next]? = some (.node j))
    (hc : c = (treeAt s e).recAt j n) (hdone : c.done = true) (hl : crossing s e h k j c.lab = some l) :
    ∃ r1, Pulled e r r1 (nodeIn e c l) ∧ pullOne s e h k n = some (keptRec s e h (sendRow s e h j k l c.acc) (stepOn e h r1)) := by
  subst hr hc
  obtain ⟨hpulled, hfresh⟩ := pullInto_pulled hop (skipOn e h ((treeAt s e).recAt k n)) (nodeIn e ((treeAt s e).recAt j n) l) s.fresh
  refine ⟨_, hpulled, ?_⟩
  simp only [pullOne, hnew, hring, Bool.false_eq_true, or_self, if_false, hd, hnext, hdone, not_true_eq_false, hl,
    isSketch_false hop, false_and, hfresh]
  rfl

end

/-- A pull at a router that keeps a configuration goes by it, as the members stand (R321). -/
theorem exec_nodePull_kept {s u : State} {hd : BitVec 32} {n k : Nat} {e : TEnt} {h0 : Shape} (hl : liveTree s hd.toNat [2] = some e)
    (ho : (treeAt s e).isOpen e n = true) (hk : k < e.ncnt) (hop : e.op ≤ 6) (hcfg : lookup (treeAt s e).cfg (nodeRouter s e k) = some h0)
    (hpull : pullOne s e (asEdited s e h0) k n = some u) : exec (.nodePull hd n k) s = .next (advanceTree 3 u e.part e.idx) := by
  have hpull' : nodePull s hd.toNat n k = some (advanceTree 3 u e.part e.idx) := by
    simp only [nodePull, hl, ho, not_true_eq_false, Nat.not_le.2 hk, or_self, if_false, withCfg, hcfg,
      show e.op ≠ 10 by omega, hpull, Option.map_some]
  exact congrArg (fun x : Option State => Host.Outcome.next (x.getD s)) hpull'

theorem pullsCombineTheNextChild : Claims.PullsCombineTheNextChild := by
  intro s hd n k e h0 h t r hl ht ho hk hop hcfg hh hnew hring hr kept combined
  subst ht hh
  have hexec {u : State} := exec_nodePull_kept (u := u) hl ho hk hop hcfg
  refine ⟨fun hdone => hexec (pullOne_done hnew hring hr hdone), fun i p hdone hnext hp hc => ?_, fun j c l hdone hnext hc hcd hcl => ?_,
    fun q hlo hhi => ?_, fun c hc => ?_, ?_, order_getElem?⟩
  · obtain ⟨r1, hpulled, hpull⟩ := pullOne_member hop hnew hring hr hdone hnext hp hc
    exact ⟨r1, hexec hpull, hpulled⟩
  · obtain ⟨r1, hpulled, hpull⟩ := pullOne_node hop hnew hring hr hdone hnext hc hcd hcl
    exact ⟨r1, hexec hpull, hpulled⟩
  · rw [hr] at hhi
    exact skipOn_passes hlo hhi
  · rw [hr] at hc
    exact skipOn_stops hc
  · rw [hr]
    exact skipOn_done

/-! # What a delivery writes -/

/-! ## Least counts -/

theorem foldl_min_le (l : List Nat) (a : Nat) : l.foldl min a ≤ a ∧ ∀ x ∈ l, l.foldl min a ≤ x := by
  induction l generalizing a with
  | nil => exact ⟨Nat.le_refl a, fun x hx => nomatch hx⟩
  | cons b l ih =>
    obtain ⟨hinit, hmem⟩ := ih (min a b)
    rw [List.foldl_cons]
    refine ⟨hinit.trans (Nat.min_le_left a b), fun x hx => ?_⟩
    rcases List.mem_cons.1 hx with rfl | hx
    · exact hinit.trans (Nat.min_le_right a x)
    · exact hmem x hx

theorem foldl_min_mem (l : List Nat) (a : Nat) : l.foldl min a = a ∨ l.foldl min a ∈ l := by
  induction l generalizing a with
  | nil => exact .inl rfl
  | cons b l ih =>
    rw [List.foldl_cons]
    rcases ih (min a b) with h | h
    · rcases Nat.le_total a b with hab | hab
      · exact .inl (by rw [h, Nat.min_eq_left hab])
      · exact .inr (by rw [h, Nat.min_eq_right hab]; exact List.mem_cons_self)
    · exact .inr (List.mem_cons_of_mem b h)

/-- What lies below every element and the start, and is one of the elements, is the least. -/
theorem foldl_min_eq {l : List Nat} {a y : Nat} (hy : y ∈ l) (hle : ∀ x ∈ l, y ≤ x) (ha : y ≤ a) : l.foldl min a = y := by
  obtain ⟨-, hmem⟩ := foldl_min_le l a
  refine Nat.le_antisymm (hmem y hy) ?_
  rcases foldl_min_mem l a with h | h
  · rw [h]
    exact ha
  · exact hle _ h

/-- With a first element the least is one of the elements when none exceeds the start. -/
theorem foldl_min_mem_of_le {l : List Nat} {a x : Nat} (hx : x ∈ l) (hle : ∀ y ∈ l, y ≤ a) : l.foldl min a ∈ l := by
  rcases foldl_min_mem l a with h | h
  · obtain ⟨-, hmem⟩ := foldl_min_le l a
    have hxa : x = a := Nat.le_antisymm (hle x hx) (h ▸ hmem x hx)
    rw [h, ← hxa]
    exact hx
  · exact h

/-! ## Result and counts (R326, R327) -/

section
variable {e : TEnt} {r : TNode}

theorem takeResult_elements (h : e.op ≤ 5) :
    (∀ j < e.els, elem (takeResult e r).1 (fmtWidth e.fmt) j = finalEl e.op e.fmt (r.el e j) % 2 ^ fmtWidth e.fmt)
      ∧ (takeResult e r).2 = if ∃ j < e.els, (r.el e j).st / 2 = 3 then 1 else 0 := by
  rw [takeResult, if_pos h]
  refine ⟨fun j hj => ?_, ?_⟩
  · simp only [List.map_map, elem_packL]
    rw [getD_map_range _ 0 hj]
    rfl
  · dsimp only
    by_cases hinv : ∃ j < e.els, (r.el e j).st / 2 = 3
    · rw [if_pos hinv]
      have hany : ((List.range e.els).map (r.el e)).any (fun a => a.st / 2 == 3) = true := by simpa using hinv
      rw [hany]
      rfl
    · rw [if_neg hinv]
      have hnone : ((List.range e.els).map (r.el e)).any (fun a => a.st / 2 == 3) = false := by simpa using hinv
      rw [hnone]
      rfl

theorem takeResult_multicast (h : e.op = 6) : takeResult e r = (r.acc, 0) := by
  rw [takeResult, if_neg (by omega), isSketch_false (by omega), if_neg Bool.false_ne_true]

theorem takeCounts_all (h : e.skip = 1) : takeCounts e r = (List.range e.els).map (fun j => elem r.counts 32 j) := by
  rw [takeCounts, if_pos h]

theorem elem_counts_le (r : TNode) (j : Nat) : elem r.counts 32 j ≤ 2 ^ 32 - 1 := by
  have : elem r.counts 32 j < 2 ^ 32 := Nat.mod_lt _ (Nat.two_pow_pos 32)
  omega

/-- The counts of block b. -/
def blockCounts (e : TEnt) (r : TNode) (b : Nat) : List Nat :=
  (((List.range e.els).map (fun j => elem r.counts 32 j)).drop (128 * b)).take 128

theorem takeCounts_blocks (h : e.skip ≠ 1) :
    takeCounts e r = (List.range (divUp e.els 128)).map (fun b => (blockCounts e r b).foldl min (2 ^ 32 - 1)) := by
  rw [takeCounts, if_neg h]
  rfl

theorem mem_blockCounts {b y : Nat} : y ∈ blockCounts e r b ↔ ∃ j < e.els, j / 128 = b ∧ y = elem r.counts 32 j := by
  unfold blockCounts
  rw [List.mem_iff_getElem?]
  constructor
  · rintro ⟨i, hi⟩
    rw [List.getElem?_take] at hi
    split at hi
    next hlt =>
      rw [List.getElem?_drop, List.getElem?_map, Option.map_eq_some_iff] at hi
      obtain ⟨j, hj, rfl⟩ := hi
      obtain ⟨hlt', hj'⟩ := List.getElem?_eq_some_iff.1 hj
      rw [List.getElem_range] at hj'
      rw [List.length_range] at hlt'
      exact ⟨j, by omega, by omega, rfl⟩
    · cases hi
  · rintro ⟨j, hj, hb, rfl⟩
    refine ⟨j - 128 * b, ?_⟩
    rw [List.getElem?_take, if_pos (by omega), List.getElem?_drop, Nat.add_sub_cancel' (by omega), List.getElem?_map,
      List.getElem?_range hj]
    rfl

/-- The count of a block is the least of its elements' (R327). -/
theorem blockCount_least {b : Nat} (hb : b < divUp e.els 128) :
    (∀ j < e.els, j / 128 = b → (blockCounts e r b).foldl min (2 ^ 32 - 1) ≤ elem r.counts 32 j)
      ∧ ∃ j < e.els, j / 128 = b ∧ (blockCounts e r b).foldl min (2 ^ 32 - 1) = elem r.counts 32 j := by
  obtain ⟨-, hle⟩ := foldl_min_le (blockCounts e r b) (2 ^ 32 - 1)
  refine ⟨fun j hj hjb => hle _ (mem_blockCounts.2 ⟨j, hj, hjb, rfl⟩), mem_blockCounts.1 ?_⟩
  have hfirst : 128 * b < e.els := by
    unfold divUp at hb
    omega
  refine foldl_min_mem_of_le (mem_blockCounts.2 ⟨128 * b, hfirst, by omega, rfl⟩) fun y hy => ?_
  obtain ⟨j, -, -, rfl⟩ := mem_blockCounts.1 hy
  exact elem_counts_le r j

theorem takeCounts_le {y : Nat} (hy : y ∈ takeCounts e r) : y ≤ 2 ^ 32 - 1 := by
  by_cases h : e.skip = 1
  · rw [takeCounts_all h] at hy
    obtain ⟨j, -, rfl⟩ := List.mem_map.1 hy
    exact elem_counts_le r j
  · rw [takeCounts_blocks h] at hy
    obtain ⟨b, -, rfl⟩ := List.mem_map.1 hy
    obtain ⟨hle, -⟩ := foldl_min_le (blockCounts e r b) (2 ^ 32 - 1)
    exact hle

/-- The count in the take record: all contributors, or the least count written (R327, R337). -/
def takeCount (e : TEnt) (r : TNode) : Nat := if e.skip = 0 then r.cnt else (takeCounts e r).foldl min (2 ^ 32 - 1)

theorem takeCount_eq {cnt : Nat} (hall : e.skip = 0 → cnt = r.cnt)
    (hleast : e.skip ≠ 0 → cnt ∈ takeCounts e r ∧ ∀ y ∈ takeCounts e r, cnt ≤ y) : takeCount e r = cnt := by
  unfold takeCount
  split
  next h => exact (hall h).symm
  next h =>
    obtain ⟨hmem, hle⟩ := hleast h
    exact foldl_min_eq hmem hle (takeCounts_le hmem)

end

/-! ## The writes (R337) -/

theorem takeRec_eq (inv n cnt : Nat) : takeRec 0 inv n cnt = inv * 2 ^ 8 + n % 2 ^ 32 * 2 ^ 32 + cnt % 2 ^ 32 * 2 ^ 64 := by
  unfold takeRec
  rw [Nat.zero_add]
  simp only [Nat.shiftLeft_eq]

/-- Three units of a command's work none of which fails. -/
theorem workGo_three {f : Nat → State → Except CFail State} {s u1 u2 u3 : State} (h1 : f 0 s = .ok u1) (h2 : f 1 u1 = .ok u2)
    (h3 : f 2 u2 = .ok u3) : workGo f 3 0 s = (u3, none) := by
  simp only [workGo, h1, h2, h3]

theorem releasing_eq {α : Type} {c : Cmd} {f : State → State × α} {s u : State} {a : α}
    (h : f { s with core := unwritten s.core } = (u, a)) : releasing c f s = (wroteBack c (s.core.ctxAt c.ctx).owner s u, a) := by
  rw [releasing, h]

/-- The three writes of a delivery that none of them fails. -/
theorem takeWrites_ok {s u1 u2 u3 : State} {c : Cmd} {e : TEnt} {r : TNode} {n : Nat} {sound : Bool} {lab : Label} (hop : e.op ≤ 6)
    (hlab : lab = (r.lab ||| c.lab))
    (h1 : cmdWr { s with core := unwritten s.core } c.who c.aa.toNat (2 ^ e.segl) (takeResult e r).1 lab 2 = .ok u1)
    (h2 : (if e.skip = 0 then .ok u1 else cmdWr u1 c.who c.da.toNat (4 * (takeCounts e r).length) (packL 32 (takeCounts e r)) lab) = .ok u2)
    (h3 : cmdWr u2 c.who c.xa.toNat 16 (takeRec 0 (takeResult e r).2 n (takeCount e r)) lab 2 = .ok u3) :
    takeWrites s c e r n sound = (wroteBack c (s.core.ctxAt c.ctx).owner s u3, none) := by
  subst hlab
  have hplain : ¬(isSketch e.op = true ∧ sound = true) := by simp [isSketch_false hop]
  unfold takeWrites
  unfold takeCount at h3
  generalize takeResult e r = y at h1 h3 ⊢
  obtain ⟨x, inv⟩ := y
  refine releasing_eq (workGo_three (u1 := u1) (u2 := u2) ?_ h2 h3)
  rw [if_neg hplain]
  exact h1

theorem deliverTake_ok {s u w : State} {e : TEnt} {h : Shape} {n i : Nat} {r : TNode} {k : TTake} {c c1 : Cmd} {f : Option CFail}
    {credit : Option Nat} {sound : Bool} (hop : e.op ≤ 6) (hr : r = (treeAt s e).recAt h.top n) (hd : r.done = true)
    (hsound : sound = !(treeAt s e).noprov.contains n)
    (hk : (treeAt s e).takes.find? (fun k => k.seg == n && memberOf s h k.core == some i && carries s e k.core) = some k)
    (hc : (focus s k.core).core.cmds.find? (fun c => c.ctx == k.ctx && c.tag == k.tag) = some c)
    (hc1 : c1 = { c with lab := c.lab ||| r.lab }) (hcredit : credit = if bit c.ctl.toNat 20 then some (2 ^ e.segl) else none)
    (hu : u = { focus s k.core with core := { (focus s k.core).core with
        cmds := (focus s k.core).core.cmds.filter (fun x => !(x.ctx == k.ctx && x.tag == k.tag)) } })
    (hw : takeWrites u c e r n sound = (w, f)) (hf : f.any CFail.isHeld = false)
    (hheld : bit c.ctl.toNat 20 = true → (creditCmd w c1 (2 ^ e.segl) f).2.any CFail.isHeld = false) :
    deliverTake s e h n i = some (advanceTree 3 (onCmd
        (setTree s e ({ treeAt s e with takes := (treeAt s e).takes.filter (fun x => x != k) }.markDeliv e n i)) k.core k.ctx k.tag
        (fun v _ => endCmd (takeWrites v c e r n sound).1 c1 credit (takeWrites v c e r n sound).2)) e.part e.idx) := by
  have hfree : credit.any (fun b => (creditCmd w c1 b f).2.any CFail.isHeld) = false := by
    rw [hcredit]
    cases hcr : bit c.ctl.toNat 20 with
    | false => rfl
    | true => exact hheld hcr
  subst hr hsound hc1 hcredit hu
  simp only [deliverTake, hk, hc, hd, not_true_eq_false, if_false, hw, hf, hfree, Bool.false_eq_true, or_self,
    show e.op ≠ 10 by omega]

theorem exec_takeDelivery_kept {s u : State} {hd : BitVec 32} {n i : Nat} {e : TEnt} {h0 : Shape} (hl : liveTree s hd.toNat [2] = some e)
    (ho : (treeAt s e).isOpen e n = true) (hop : e.op ≤ 6) (hcfg : lookup (treeAt s e).cfg (topRouter s e) = some h0)
    (hdel : deliverTake s e (asEdited s e h0) n i = some u) : exec (.takeDelivery hd n i) s = .next u := by
  have hdel' : takeDelivery s hd.toNat n i = some u := by
    simp only [takeDelivery, hl, ho, not_true_eq_false, if_false, withCfg, hcfg, show e.op ≠ 10 by omega, hdel]
  exact congrArg (fun x : Option State => Host.Outcome.next (x.getD s)) hdel'

theorem deliveriesWriteTheResult : Claims.DeliveriesWriteTheResult := by
  intro s e r c n sound hop
  refine ⟨?_, ?_⟩
  · rintro hd i h0 h t k hl rfl ho hcfg rfl hr hdone hsound hk hc c1 credit hc1 hcredit u hu w f hw hf hheld
    exact exec_takeDelivery_kept hl ho hop hcfg (deliverTake_ok hop hr hdone hsound hk hc hc1 hcredit hu hw hf hheld)
  · rintro x inv cs cnt lab rfl rfl rfl hlab
    refine ⟨takeResult_elements, fun h6 => ?_, fun h1 => ?_, fun h2 => ?_, ?_⟩
    · rw [takeResult_multicast h6]
      exact ⟨rfl, rfl⟩
    · rw [takeCounts_all h1]
      exact ⟨by simp, fun j hj => by simp [hj]⟩
    · rw [takeCounts_blocks (by omega)]
      refine ⟨by simp, fun b hb => ⟨(blockCounts e r b).foldl min (2 ^ 32 - 1), by simp [hb], blockCount_least hb⟩⟩
    · rintro hall hleast v u1 u2 u3 rfl h1 h20 h2 h3
      refine takeWrites_ok hop hlab h1 ?_ (takeRec_eq .. ▸ (takeCount_eq hall hleast).symm ▸ h3)
      by_cases hs : e.skip = 0
      · rw [if_pos hs, h20 hs]
      · rw [if_neg hs, h2 hs]

/-- Settles O46: an event whose condition holds acts; a pull is one step of `pullOne`, a delivery the writes of `takeWrites`, and both go
element by element. -/
theorem treeAndEpisodeEventsAct : Obligations.TreeAndEpisodeEventsAct :=
  ⟨treesHartsAndEpisodesAct, elementsFollowLeafCombineFinal, pullsCombineTheNextChild, deliveriesWriteTheResult⟩

end Sys2Proof.Laws
